-- ==== Sys2Proof/Word.lean ====
section
/-! DEFINITION. The word types of the register fabric (02 R21, R22: 32-bit little-endian registers, byte addressed) and
the plain records that name a register field, a row of the register map and a mailbox. -/

namespace Sys2Proof

/-- A 32-bit register or memory word. -/
abbrev Word := BitVec 32

/-- A byte of a frame, of a message or of a memory. -/
abbrev Byte := BitVec 8

/-- A 64-bit access (02 R22). -/
abbrev DWord := BitVec 64

/-- Bits `hi` down to `lo` of a register (00 Notation: `name[hi:lo]`). -/
structure Fld where
  hi : Nat
  lo : Nat
deriving DecidableEq, Repr

/-- One register table of the spec: its address formula and, per field type of 02 R25, the mask of its bits. -/
structure RegRow where
  base : Nat
  s1 : Nat := 4
  n1 : Nat := 1
  s2 : Nat := 4
  n2 : Nat := 1
  reset : Word := 0#32
  rw : Word := 0#32
  rwh : Word := 0#32
  wo : Word := 0#32
  w1c : Word := 0#32
  w1s : Word := 0#32
  rc : Word := 0#32
  rws : Word := 0#32
  rwg : Word := 0#32
  par : Word := 0#32
  tri : Word := 0#32
  cut : Word := 1#32
  guard : Bool := false
deriving DecidableEq, Repr

/-- A mailbox (02 "Mailboxes"): its base M, the number n of its data words, and whether it is a read mailbox. -/
structure MbxRow where
  base : Nat
  n : Nat
  rd : Bool
deriving DecidableEq, Repr

/-- A bus transaction as one position of Carr issues it (14 R330): kind 0 read, 1 fetch, 2 write, 3 atomic; `op` the atomic
operation; `attr` the attribute field, its defined bits 1:0 privilege, 2 cacheable, 3 instruction fetch, 4 aq, 5 rl; `size`
the base-2 logarithm of the access size in bytes; `strobe` the byte lanes of `data`. -/
structure CarrTx where
  kind : Fin 4
  op : BitVec 5
  attr : BitVec 8
  size : BitVec 4
  strobe : BitVec 8
  addr : BitVec 48
  data : BitVec 64
deriving DecidableEq, Repr

end Sys2Proof
end

