-- ==== Sys2Proof/Syntax.lean ====
section
/-! DEFINITION. The commands of the device: one constructor per row of the operation table, in the table's order, each
with the row's operands. `i : Fin 3` is the initiator of a software access (02 R44: 0 PCIe, 1 Carr, 2 JTAG), `sq` a
sequencer. The rows NOP to GREL are the Yufen instructions (05), which a sequencer runs. -/

namespace Sys2Proof

/-- A command: an operation on a register, an instruction of a sequencer, an event at a pin or inside the device. -/
inductive Instr where
  /-- REGISTER_WRITE (R25). A software write to a register field that has no row of its own, acting by its field type. -/
  | registerWrite (i : Fin 3) (a : BitVec 32) (w : Fin 4) (v : BitVec 64) (race : Option (BitVec 32))
  /-- RC_COUNTER_READ (R25). A read of an RC counter returns its value and clears it. -/
  | rcCounterRead (i : Fin 3) (a : BitVec 32) (w : Fin 4)
  /-- GUARD_FIRST_HALF (R28). The value write to a guarded register opens a guarded pair awaiting its complement. -/
  | guardFirstHalf (i : Fin 3) (a : BitVec 32) (v : BitVec 32)
  /-- GUARD_COMMIT (R28). The complement write to A + 4 commits the pending guarded value, or fails the pair. -/
  | guardCommit (i : Fin 3) (a : BitVec 32) (v : BitVec 32)
  /-- GUARD_TIMEOUT (R29). No complement write arrives within 256 REG cycles and the guarded pair fails. -/
  | guardTimeout (b : Fin 17)
  /-- PARITY_SCAN (R31). The background scan visits each parity-protected register and detects parity faults. -/
  | parityScan (a : BitVec 32) (flip : BitVec 32) (agree : Bool)
  /-- PARITY_RESTORE (R32). A faulty T field is restored from its two agreeing copies and EV59 parity_restored is raised. -/
  | parityRestore (a : BitVec 32)
  /-- MAILBOX_DATA_READ (R35). A read of a read-mailbox data word returns the snapshot word, clearing VALID on DATAn-1 or setting stale_read. -/
  | mailboxDataRead (i : Fin 3) (a : BitVec 32) (w : Fin 4)
  /-- MAILBOX_DATA_WRITE (R37). A write of a write-mailbox data word stores it, or sets overrun while busy. -/
  | mailboxDataWrite (i : Fin 3) (a : BitVec 32) (w : Fin 4) (v : BitVec 64)
  /-- STORM_WINDOW_END (R41). A source's storm window of storm_win × 10 µs closes. -/
  | stormWindowEnd (n : Fin 64)
  /-- CLEAR_PEND (R42). A write of 1 to pend clears the source's pending state. -/
  | clearPend (i : Fin 3) (n : Fin 64)
  /-- CLEAR_STORM (R41). A write of 1 to storm acknowledges the storm and resumes delivery at once. -/
  | clearStorm (i : Fin 3) (n : Fin 64)
  /-- CLEAR_FF_VALID (R39). A write of 1 to ff_valid releases the source's first-fault record. -/
  | clearFfValid (i : Fin 3) (n : Fin 64)
  /-- EVENT_COUNT_CLEAR (R26). A strobe of EVT_CNT_CLR clears the event count of a source. -/
  | eventCountClear (i : Fin 3) (n : Fin 64)
  /-- FIRST_FAULT_READ (R39). An EVT_FF request snapshots the first-fault record of a source. -/
  | firstFaultRead (i : Fin 3) (n : Fin 64)
  /-- CHALLENGE_REQUEST (R47). A ROL_CHAL request issues a 128-bit challenge for a role, or is refused during lockout. -/
  | challengeRequest (i : Fin 3) (op : BitVec 8) (arg : BitVec 16)
  /-- ROLE_RESPONSE (R47). A ROL_RESP op 0x01 response is checked and enters the role or counts a failure. -/
  | roleResponse (i : Fin 3) (arg : BitVec 16)
  /-- REPLACE_INSTALLER_SECRET (R49). ROL_RESP op 0x02 replaces the Installer secret in the next fuse slot. -/
  | replaceInstallerSecret (i : Fin 3) (arg : BitVec 16)
  /-- REPLACE_OPERATOR_SECRET (R49). ROL_RESP op 0x03 replaces an Operator secret in the next fuse slot. -/
  | replaceOperatorSecret (i : Fin 3) (arg : BitVec 16)
  /-- CHALLENGE_EXPIRY (R47). A challenge unanswered for 100 ms after VALID is voided. -/
  | challengeExpiry (i : Fin 3)
  /-- LOCKOUT_END (R48). A role's lockout time elapses and challenges are answered again. -/
  | lockoutEnd (r : Fin 4)
  /-- ROLE_LEAVE (R44). A write of ROL_CTRL.leave ends the writing initiator's role session. -/
  | roleLeave (i : Fin 3)
  /-- LIFECYCLE_REQUEST (R50). A committed ROL_LC_REQ records a forward lifecycle target for the next pin or power-on reset, or fails with EV61. -/
  | lifecycleRequest (i : Fin 3) (target : BitVec 32)
  /-- AUDIT_READ_ENTRY (R54). ROL_AUD op 0x00 snapshots one audit ring entry. -/
  | auditReadEntry (i : Fin 3) (arg : BitVec 16)
  /-- AUDIT_HEAD_DIGEST (R54). ROL_AUD op 0x01 snapshots the head digest of the audit chain. -/
  | auditHeadDigest (i : Fin 3) (arg : BitVec 16)
  /-- AUDIT_BASE_DIGEST (R54). ROL_AUD op 0x02 snapshots the base digest of the audit chain. -/
  | auditBaseDigest (i : Fin 3) (arg : BitVec 16)
  /-- AUDIT_INDEX (R54). ROL_AUD op 0x03 snapshots the newest index and the number of retained entries. -/
  | auditIndex (i : Fin 3) (arg : BitVec 16)
  /-- ADD_OFFSET (R57). TIM_ADJ op 0x01 adds a signed offset to a domain clock. -/
  | addOffset (i : Fin 3) (arg : BitVec 16)
  /-- SET_TIME (R57). TIM_ADJ op 0x02 sets a domain clock's time. -/
  | setTime (i : Fin 3) (arg : BitVec 16)
  /-- SET_INCREMENT (R56). TIM_ADJ op 0x03 sets a counter's increment from the next TIME tick. -/
  | setIncrement (i : Fin 3) (arg : BitVec 16)
  /-- DOMAIN_KICK (R59). A write of kick marks a domain healthy and restarts its kick timer. -/
  | domainKick (i : Fin 3) (d : Fin 2)
  /-- DOMAIN_DECLARE_LOST (R59). A write of declare_lost declares a gPTP domain lost at once. -/
  | domainDeclareLost (i : Fin 3) (d : Fin 2)
  /-- KICK_TIMEOUT (R59). No kick arrives within kick_timeout and the domain is declared lost. -/
  | kickTimeout (d : Fin 2)
  /-- WKT_LOCKED (R60). The remaining slew error falls below s, the last tick absorbs it and WKT becomes LOCKED. -/
  | wktLocked
  /-- ALIGN (R63). A write of align sets WKT to its named source and enters LOCKED, or is refused. -/
  | align (i : Fin 3)
  /-- TIME_SNAPSHOT (R73). TIM_SNAP captures FRT, DTA, DTB and WKT on one TIME tick. -/
  | timeSnapshot (i : Fin 3) (arg : BitVec 16)
  /-- RX_TIMESTAMP_POP (R69). A TIM_RXTS request pops the oldest receive timestamp entry, or fails on an empty FIFO. -/
  | rxTimestampPop (i : Fin 3) (arg : BitVec 16)
  /-- TX_TIMESTAMP_POP (R69). A TIM_TXTS request pops the oldest transmit timestamp entry, or fails on an empty FIFO. -/
  | txTimestampPop (i : Fin 3) (arg : BitVec 16)
  /-- PPS_OUT_SECOND (R71). The selected clock reaches a whole second and TIME_PPS_OUT rises. -/
  | ppsOutSecond
  /-- PPS_OUT_FALL (R71). The PPS pulse width elapses and TIME_PPS_OUT falls. -/
  | ppsOutFall
  /-- PPS_IN_EDGE (R72). A rising edge on TIME_PPS_IN captures the four counters into TIM_PPSIN. -/
  | ppsInEdge (len : BitVec 32)
  /-- LDLY_MEASUREMENT_WRITE (R74). A write of a link-delay measurement is compared with the calibration and may raise ldly_tol. -/
  | ldlyMeasurementWrite (i : Fin 3) (n : Fin 24) (v : BitVec 32)
  /-- LDLY_ACCEPT (R74). A write of ldly_accept copies the measurement into the calibration and clears out_tol. -/
  | ldlyAccept (i : Fin 3) (n : Fin 24)
  /-- PHASE_ENABLE_WRITE (R87). A change of a phase domain's enable moves it between OFF and ACQUIRE. -/
  | phaseEnableWrite (i : Fin 3) (d : Fin 4) (v : BitVec 32)
  /-- PHASE_EDGE (R80). An edge on a phase pin passes the filter and becomes an edge observation or a rejected outlier. -/
  | phaseEdge (p : Fin 4) (rise : Bool) (held : BitVec 16) (back : BitVec 16)
  /-- QUAD_TRANSITION (R81). A valid A/B transition moves the count angle and becomes an observation. -/
  | quadTransition (p : Fin 4) (a : Bool) (b : Bool) (z : Bool) (held : BitVec 16) (back : BitVec 16)
  /-- Z_EDGE (R81). A rising Z edge sets the count angle to offset and becomes an observation. -/
  | zEdge (p : Fin 4) (held : BitVec 16) (back : BitVec 16)
  /-- OBSERVATION_APPLY (R85). A ready observation is applied by the estimator on its tick, updating loop state and state machine. -/
  | observationApply (d : Fin 4)
  /-- OBS_TIMEOUT (R87). No observation for obs_timeout enters HOLD, restarts ACQUIRE, or sets standstill. -/
  | obsTimeout (d : Fin 4)
  /-- HOLD_TIME_EXPIRY (R87). hold_time elapses in HOLD and the domain enters LOST, cancelling its angle entries. -/
  | holdTimeExpiry (d : Fin 4)
  /-- PHASE_RESTART (R87). A write of restart clears the loop state and enters ACQUIRE. -/
  | phaseRestart (i : Fin 3) (d : Fin 4)
  /-- PHASE_DECLARE_LOST (R87). A write of declare_lost puts the phase domain in LOST at once. -/
  | phaseDeclareLost (i : Fin 3) (d : Fin 4)
  /-- PHASE_SNAPSHOT (R94). PHS_SNAP captures a domain's θ̂, ω̂, θ_loop and WKT on one tick. -/
  | phaseSnapshot (i : Fin 3) (arg : BitVec 16)
  /-- ANGLE_ACTION_FIRE (R90). θ̂ crosses an armed angle entry's target in its direction and the action fires at its placed instant. -/
  | angleActionFire (sq : Fin 8) (races : List (Fin 32 × BitVec 32))
  /-- NOP (R101). Instruction that does nothing. -/
  | iNop (sq : Fin 8)
  /-- HALT (R121). Instruction that stops the sequencer in HALT and raises halt. -/
  | iHalt (sq : Fin 8)
  /-- WDOG (R115). Instruction that restarts the watchdog count. -/
  | iWdog (sq : Fin 8)
  /-- TRAP (R114). Instruction that traps with user and records its code. -/
  | iTrap (sq : Fin 8) (imm : BitVec 16)
  /-- RDS (R104). Instruction that reads a special value into a general register. -/
  | iRds (sq : Fin 8) (d : BitVec 4) (k : Fin 5)
  /-- ADD (R101). Instruction d ← a + b. -/
  | iAdd (sq : Fin 8) (d : BitVec 4) (a : BitVec 4) (b : BitVec 4)
  /-- SUB (R101). Instruction d ← a − b. -/
  | iSub (sq : Fin 8) (d : BitVec 4) (a : BitVec 4) (b : BitVec 4)
  /-- AND (R101). Instruction d ← a & b. -/
  | iAnd (sq : Fin 8) (d : BitVec 4) (a : BitVec 4) (b : BitVec 4)
  /-- OR (R101). Instruction d ← a | b. -/
  | iOr (sq : Fin 8) (d : BitVec 4) (a : BitVec 4) (b : BitVec 4)
  /-- XOR (R101). Instruction d ← a ^ b. -/
  | iXor (sq : Fin 8) (d : BitVec 4) (a : BitVec 4) (b : BitVec 4)
  /-- SLL (R101). Instruction shifting left by b[4:0]. -/
  | iSll (sq : Fin 8) (d : BitVec 4) (a : BitVec 4) (b : BitVec 4)
  /-- SRL (R101). Instruction shifting right logically by b[4:0]. -/
  | iSrl (sq : Fin 8) (d : BitVec 4) (a : BitVec 4) (b : BitVec 4)
  /-- SRA (R101). Instruction shifting right arithmetically by b[4:0]. -/
  | iSra (sq : Fin 8) (d : BitVec 4) (a : BitVec 4) (b : BitVec 4)
  /-- MUL (R101). Instruction giving the low 32 bits of a × b. -/
  | iMul (sq : Fin 8) (d : BitVec 4) (a : BitVec 4) (b : BitVec 4)
  /-- ADDI (R101). Instruction adding a sign-extended immediate. -/
  | iAddi (sq : Fin 8) (d : BitVec 4) (a : BitVec 4) (imm : BitVec 18)
  /-- ANDI (R101). Instruction ANDing a zero-extended immediate. -/
  | iAndi (sq : Fin 8) (d : BitVec 4) (a : BitVec 4) (imm : BitVec 18)
  /-- ORI (R101). Instruction ORing a zero-extended immediate. -/
  | iOri (sq : Fin 8) (d : BitVec 4) (a : BitVec 4) (imm : BitVec 18)
  /-- XORI (R101). Instruction XORing a zero-extended immediate. -/
  | iXori (sq : Fin 8) (d : BitVec 4) (a : BitVec 4) (imm : BitVec 18)
  /-- SLLI (R101). Instruction shifting left by an immediate. -/
  | iSlli (sq : Fin 8) (d : BitVec 4) (a : BitVec 4) (sh : BitVec 5)
  /-- SRLI (R101). Instruction shifting right logically by an immediate. -/
  | iSrli (sq : Fin 8) (d : BitVec 4) (a : BitVec 4) (sh : BitVec 5)
  /-- SRAI (R101). Instruction shifting right arithmetically by an immediate. -/
  | iSrai (sq : Fin 8) (d : BitVec 4) (a : BitVec 4) (sh : BitVec 5)
  /-- LUI (R101). Instruction loading imm16 into the upper half. -/
  | iLui (sq : Fin 8) (d : BitVec 4) (imm : BitVec 16)
  /-- LD (R99). Instruction loading a table-memory word. -/
  | iLd (sq : Fin 8) (d : BitVec 4) (a : BitVec 4) (imm : BitVec 18)
  /-- ST (R99). Instruction storing a word to table memory. -/
  | iSt (sq : Fin 8) (d : BitVec 4) (a : BitVec 4) (imm : BitVec 18)
  /-- LDT (R102). Instruction loading a 12-byte time value into a time register. -/
  | iLdt (sq : Fin 8) (tx : BitVec 2) (a : BitVec 4) (imm : BitVec 18)
  /-- STT (R102). Instruction storing a time register as 12 bytes. -/
  | iStt (sq : Fin 8) (tx : BitVec 2) (a : BitVec 4) (imm : BitVec 18)
  /-- AMOADD (R99). Instruction atomically adding to a table-memory word. -/
  | iAmoadd (sq : Fin 8) (d : BitVec 4) (a : BitVec 4) (b : BitVec 4)
  /-- AMOSWAP (R99). Instruction atomically swapping a table-memory word. -/
  | iAmoswap (sq : Fin 8) (d : BitVec 4) (a : BitVec 4) (b : BitVec 4)
  /-- BEQ (R101). Instruction branching if equal. -/
  | iBeq (sq : Fin 8) (a : BitVec 4) (b : BitVec 4) (off : BitVec 18)
  /-- BNE (R101). Instruction branching if not equal. -/
  | iBne (sq : Fin 8) (a : BitVec 4) (b : BitVec 4) (off : BitVec 18)
  /-- BLT (R101). Instruction branching if less, signed. -/
  | iBlt (sq : Fin 8) (a : BitVec 4) (b : BitVec 4) (off : BitVec 18)
  /-- BGE (R101). Instruction branching if greater or equal, signed. -/
  | iBge (sq : Fin 8) (a : BitVec 4) (b : BitVec 4) (off : BitVec 18)
  /-- BLTU (R101). Instruction branching if less, unsigned. -/
  | iBltu (sq : Fin 8) (a : BitVec 4) (b : BitVec 4) (off : BitVec 18)
  /-- BGEU (R101). Instruction branching if greater or equal, unsigned. -/
  | iBgeu (sq : Fin 8) (a : BitVec 4) (b : BitVec 4) (off : BitVec 18)
  /-- JAL (R98). Instruction jumping by off22 and linking. -/
  | iJal (sq : Fin 8) (d : BitVec 4) (off : BitVec 22)
  /-- JALR (R98). Instruction jumping to a + imm18 and linking. -/
  | iJalr (sq : Fin 8) (d : BitVec 4) (a : BitVec 4) (imm : BitVec 18)
  /-- TGET (R103). Instruction reading a selected clock into a time register. -/
  | iTget (sq : Fin 8) (tx : BitVec 2) (clk : BitVec 2)
  /-- TADD (R102). Instruction adding signed nanoseconds to a time value. -/
  | iTadd (sq : Fin 8) (tx : BitVec 2) (ty : BitVec 2) (g : BitVec 4)
  /-- TSUB (R102). Instruction giving the saturated difference of two times in nanoseconds. -/
  | iTsub (sq : Fin 8) (tx : BitVec 2) (ty : BitVec 2) (g : BitVec 4)
  /-- TMOV (R101). Instruction copying a time register. -/
  | iTmov (sq : Fin 8) (tx : BitVec 2) (ty : BitVec 2)
  /-- TEXT (R101). Instruction extracting a field of a time register. -/
  | iText (sq : Fin 8) (ty : BitVec 2) (g : BitVec 4) (sel : BitVec 2)
  /-- TINS (R101). Instruction inserting a field into a time register. -/
  | iTins (sq : Fin 8) (tx : BitVec 2) (g : BitVec 4) (sel : BitVec 2)
  /-- TNEXT (R102). Instruction computing the next ty + k × g at or after tx. -/
  | iTnext (sq : Fin 8) (tx : BitVec 2) (ty : BitVec 2) (g : BitVec 4)
  /-- TBLT (R101). Instruction branching if one time is below another. -/
  | iTblt (sq : Fin 8) (tx : BitVec 2) (ty : BitVec 2) (off : BitVec 18)
  /-- AGET (R103). Instruction reading a domain's θ̂ and state. -/
  | iAget (sq : Fin 8) (ax : BitVec 2) (pd : BitVec 2)
  /-- ASET (R101). Instruction setting an angle register from g. -/
  | iAset (sq : Fin 8) (ax : BitVec 2) (g : BitVec 4)
  /-- AREAD (R101). Instruction reading an angle register into g. -/
  | iAread (sq : Fin 8) (ay : BitVec 2) (g : BitVec 4)
  /-- AADD (R101). Instruction adding g to an angle modulo 2^32. -/
  | iAadd (sq : Fin 8) (ax : BitVec 2) (ay : BitVec 2) (g : BitVec 4)
  /-- VGET (R103). Instruction reading a domain's ω̂ integer part and state. -/
  | iVget (sq : Fin 8) (g : BitVec 4) (pd : BitVec 2)
  /-- POST (R111). Instruction checking an action word and queueing a time entry. -/
  | iPost (sq : Fin 8) (tx : BitVec 2) (g : BitVec 4)
  /-- APOST (R111). Instruction checking an action word and arming an angle entry. -/
  | iApost (sq : Fin 8) (ax : BitVec 2) (g : BitVec 4) (pd : BitVec 2) (dir : Fin 3)
  /-- WAITT (R105). Instruction waiting until WKT reaches a time. -/
  | iWaitt (sq : Fin 8) (tx : BitVec 2)
  /-- WAITA (R106). Instruction waiting for an angle crossing, with timeout and loss branches. -/
  | iWaita (sq : Fin 8) (ax : BitVec 2) (pd : BitVec 2) (dir : Fin 3) (tt : BitVec 2) (off : BitVec 18)
  /-- WAITE (R107). Instruction waiting for a condition word, with a timeout branch. -/
  | iWaite (sq : Fin 8) (g : BitVec 4) (tt : BitVec 2) (off : BitVec 18)
  /-- GRX (R113). Instruction popping the sequencer's gateway input queue. -/
  | iGrx (sq : Fin 8) (d : BitVec 4)
  /-- GID (R113). Instruction reading the identifier word of a handle. -/
  | iGid (sq : Fin 8) (d : BitVec 4) (a : BitVec 4)
  /-- GTX (R113). Instruction offering a handle to the destination named by a route word. -/
  | iGtx (sq : Fin 8) (a : BitVec 4) (b : BitVec 4)
  /-- GREL (R113). Instruction releasing a handle without sending. -/
  | iGrel (sq : Fin 8) (a : BitVec 4)
  /-- WAITT_DONE (R105). WKT reaches the target of a waiting WAITT and the program continues. -/
  | waittDone (sq : Fin 8)
  /-- WAITA_END (R106). A waiting WAITA ends by crossing, timeout or domain loss. -/
  | waitaEnd (sq : Fin 8)
  /-- WAITE_END (R107). A waiting WAITE ends on a selected condition or its timeout. -/
  | waiteEnd (sq : Fin 8)
  /-- WATCHDOG_EXPIRY (R115). A sequencer's watchdog count reaches its period and the sequencer traps with wdog. -/
  | watchdogExpiry (sq : Fin 8)
  /-- TIME_ACTION_FIRE (R131). A queued time entry falls due and its action takes effect at its placed instant. -/
  | timeActionFire (sq : Fin 8) (races : List (Fin 32 × BitVec 32))
  /-- PULSE_FALL (R135). A pending SYNC_OUT fall time is reached and the pin falls. -/
  | pulseFall (pin : Fin 16)
  /-- SEQ_START (R124). A start command puts the sequencer in RUN from its entry, or is refused with a reason. -/
  | seqStart (i : Fin 3) (sq : Fin 8)
  /-- SEQ_STOP (R123). A stop command puts the sequencer in STOP, flushing its queue if stop_flush is set. -/
  | seqStop (i : Fin 3) (sq : Fin 8) (flush : Bool)
  /-- SEQ_PAUSE (R125). A pause command puts a running sequencer in PAUSE, abandoning any wait. -/
  | seqPause (i : Fin 3) (sq : Fin 8)
  /-- SEQ_RESUME (R123). A resume command returns a paused sequencer to RUN. -/
  | seqResume (i : Fin 3) (sq : Fin 8)
  /-- SEQ_STEP (R126). A step command executes one instruction of a paused sequencer. -/
  | seqStep (i : Fin 3) (sq : Fin 8)
  /-- PROGRAM_MEMORY_WRITE (R127). A write to a sequencer's program window stores a word, or is rejected with load_busy while it runs. -/
  | programMemoryWrite (i : Fin 3) (sq : Fin 8) (k : BitVec 15) (v : BitVec 32)
  /-- SEQ_TABLE_WRITE (R129). A host write to shared table memory, ordered against sequencer accesses. -/
  | seqTableWrite (i : Fin 3) (a : BitVec 20) (wide : Bool) (v : BitVec 64)
  /-- HOST_POST (R136). SEQ_HPOST op 0x01 checks and queues a time entry in a named sequencer's queue. -/
  | hostPost (i : Fin 3) (arg : BitVec 16)
  /-- ACT_CLEAR (R137). SEQ_ACT op 0x01 returns an activation set to EMPTY. -/
  | actClear (i : Fin 3) (arg : BitVec 16)
  /-- ACT_APPEND (R137). SEQ_ACT op 0x02 appends a register write to an activation set. -/
  | actAppend (i : Fin 3) (arg : BitVec 16)
  /-- ACT_SEAL (R137). SEQ_ACT op 0x03 seals an activation set with its control word. -/
  | actSeal (i : Fin 3) (arg : BitVec 16)
  /-- QUEUE_INSPECT (R130). SEQ_QINSP snapshots one entry of a sequencer's queue. -/
  | queueInspect (i : Fin 3) (arg : BitVec 16)
  /-- DBG_READ_GENERAL (R96). SEQ_DBG op 0x00 snapshots ws and g1–g15 of a stopped sequencer. -/
  | dbgReadGeneral (i : Fin 3) (arg : BitVec 16)
  /-- DBG_READ_TIME_ANGLE (R96). SEQ_DBG op 0x01 snapshots t0–t3 and a0–a3. -/
  | dbgReadTimeAngle (i : Fin 3) (arg : BitVec 16)
  /-- DBG_READ_PC_SIG (R96). SEQ_DBG op 0x02 snapshots pc and sig. -/
  | dbgReadPcSig (i : Fin 3) (arg : BitVec 16)
  /-- FRAME_HEAD (R147). A frame's head enters the parser, which selects its template and layer bases. -/
  | frameHead (n : Fin 24) (wire : List Byte) (abort : Bool) (looped : Bool) (ph : Fin 16)
  /-- LOOKUP_START (R155). A frame's received bytes reach its decision point and its lookups start on the ACTIVE bank. -/
  | lookupStart (n : Fin 24) (got : BitVec 14) (ends : List (Fin 24))
  /-- RECEPTION_END (R153). A frame's last byte arrives; FCS, length and meter end charge are applied, with drops or tail marking. -/
  | receptionEnd (n : Fin 24) (ends : List (Fin 24))
  /-- RECIRCULATE_ENTRY (R167). A stored frame re-enters pipeline B on P27 for its second pass on its recorded bank. -/
  | recirculateEntry (corr : Fin 64) (bad : Option (Fin 64))
  /-- EGRESS_SELECT (R221). An egress port able to start a frame selects its next copy by the selection order. -/
  | egressSelect (n : Fin 28) (edge : Fin 4) (corr : Fin 64) (bad : Option (Fin 64)) (saBad : BitVec 4)
  /-- FRAME_TRANSMITTED (R222). A copy's transmission ends and its resources are released. -/
  | frameTransmitted (n : Fin 28) (desc : List Byte)
  /-- LAUNCH_TIME_REACHED (R230). WKT reaches a held frame's launch time and it becomes launch-eligible, or is dropped as late. -/
  | launchTimeReached (n : Fin 28)
  /-- RESIDENCE_DEADLINE (R242). A copy's residence deadline passes and it is dropped or abandoned. -/
  | residenceDeadline (n : Fin 28)
  /-- SPILL (R202). F below spill_lo moves the newest complete frame of a spillable queue to Peat. -/
  | spill (n : Fin 28) (tc : Fin 8) (corr : Fin 64) (bad : Option (Fin 64))
  /-- REFILL (R203). A head segment below refill_min reads the oldest Peat frame back into Mere. -/
  | refill (n : Fin 28) (tc : Fin 8) (bad : Bool)
  /-- METER_BURST_WRITE (R235). A write of POL_METER_BURST sets B and fills the bucket. -/
  | meterBurstWrite (i : Fin 3) (p : Fin 2) (m : Fin 2048) (v : BitVec 32)
  /-- PREEMPT_VERIFY_DONE (R239). The 802.3br verify exchange completes, activating preemption or failing. -/
  | preemptVerifyDone (n : Fin 12) (ok : Bool)
  /-- TEMPLATE_WRITE (R148). A template register write applies from the next frame head and starts decision-point recomputation. -/
  | templateWrite (i : Fin 3) (a : BitVec 32) (v : BitVec 32)
  /-- DP_RECOMPUTE_DONE (R154). Recomputation of a bank's decision points completes. -/
  | dpRecomputeDone (p : Fin 2) (b : Fin 2)
  /-- RULE_WINDOW_WRITE (R166). A table-window write to a rule or pattern is stored, or rejected on a DRAINING bank. -/
  | ruleWindowWrite (i : Fin 3) (a : BitVec 32) (w : Fin 4) (v : BitVec 64)
  /-- BANK_SWAP_REQUEST (R168). A write of CLS_BANK_CTRL.swap swaps a pipeline's banks, or is refused. -/
  | bankSwapRequest (i : Fin 3) (p : Fin 2)
  /-- DRAIN_DONE (R168). No frame holds a DRAINING bank and it becomes SHADOW. -/
  | drainDone (p : Fin 2)
  /-- RULE_PARITY_SCAN (R165). The background scan finds a rule or pattern with bad parity, which then denies. -/
  | ruleParityScan (p : Fin 2) (b : Fin 2) (e : Fin 2304) (bad : Bool)
  /-- RULE_COUNT_FRAME_READ (R162). A 64-bit read of a rule frame count latches the byte count. -/
  | ruleCountFrameRead (i : Fin 3) (p : Fin 2) (c : Fin 2048)
  /-- RULE_COUNT_BYTE_READ (R162). A read of a rule byte count returns the latched or live value. -/
  | ruleCountByteRead (i : Fin 3) (p : Fin 2) (c : Fin 2048) (wide : Bool)
  /-- RULE_COUNT_CLEAR (R162). A 64-bit write of 0 to a frame count clears both counts. -/
  | ruleCountClear (i : Fin 3) (p : Fin 2) (c : Fin 2048) (v : BitVec 64)
  /-- FDB_INSERT (R178). FDB_CMD op 0x01 inserts or replaces an entry, relocating others as needed. -/
  | fdbInsert (i : Fin 3) (p : Fin 2) (arg : BitVec 16)
  /-- FDB_DELETE (R174). FDB_CMD op 0x02 deletes an entry. -/
  | fdbDelete (i : Fin 3) (p : Fin 2) (arg : BitVec 16)
  /-- FDB_SEARCH (R174). FDB_CMD op 0x03 searches for a key and snapshots the result. -/
  | fdbSearch (i : Fin 3) (p : Fin 2) (arg : BitVec 16)
  /-- FDB_READ_SLOT (R174). FDB_CMD op 0x04 snapshots a slot. -/
  | fdbReadSlot (i : Fin 3) (p : Fin 2) (arg : BitVec 16)
  /-- FDB_FLUSH (R174). FDB_CMD op 0x05 removes matching entries progressively within 200 µs. -/
  | fdbFlush (i : Fin 3) (p : Fin 2) (arg : BitVec 16)
  /-- FLW_INSERT (R176). FLW_CMD op 0x01 inserts or replaces a flow entry. -/
  | flwInsert (i : Fin 3) (p : Fin 2) (arg : BitVec 16)
  /-- FLW_DELETE (R176). FLW_CMD op 0x02 deletes a flow entry. -/
  | flwDelete (i : Fin 3) (p : Fin 2) (arg : BitVec 16)
  /-- FLW_SEARCH (R176). FLW_CMD op 0x03 searches for a flow key. -/
  | flwSearch (i : Fin 3) (p : Fin 2) (arg : BitVec 16)
  /-- FLW_READ_SLOT (R176). FLW_CMD op 0x04 snapshots a flow slot. -/
  | flwReadSlot (i : Fin 3) (p : Fin 2) (arg : BitVec 16)
  /-- LEARN_APPLY (R181). The update engine applies a queued learning request to the table. -/
  | learnApply (p : Fin 2)
  /-- LEARN_NOTIFY_READ (R183). Reading DATA3 of FDB_LNOT releases the notification entry. -/
  | learnNotifyRead (i : Fin 3) (p : Fin 2)
  /-- MOVE_WINDOW_END (R182). An entry's move window of move_win elapses. -/
  | moveWindowEnd (p : Fin 2) (loc : Fin 32768)
  /-- FREEZE_END (R182). freeze_time elapses and the entry is unfrozen. -/
  | freezeEnd (p : Fin 2) (loc : Fin 32768)
  /-- AGING_VISIT (R185). The sweeper visits an FDB slot, clearing hit, setting stale or removing the entry. -/
  | agingVisit (p : Fin 2)
  /-- TABLE_PARITY_SCAN (R187). A slot with bad parity is invalidated, recorded and reported. -/
  | tableParityScan (p : Fin 2) (flow : Bool) (bad : Bool) (loc : Fin 32768)
  /-- SECTAG_COMPLETE (R256). A received frame's SecTAG completes and its tag, SA and early replay checks are made. -/
  | sectagComplete (n : Fin 24) (bad : Bool)
  /-- MACSEC_VERDICT (R257). The ICV and final replay verdict passes, drops or tail-marks the frame. -/
  | macsecVerdict (n : Fin 24)
  /-- SA_INSTALL (R261). CIP_KEY op 0x01 installs a key into an SA slot. -/
  | saInstall (i : Fin 3) (arg : BitVec 16)
  /-- SA_BIND (R261). CIP_KEY op 0x02 binds a slot to an AN of an SC. -/
  | saBind (i : Fin 3) (arg : BitVec 16)
  /-- SA_RETIRE (R262). CIP_KEY op 0x03 makes a slot retiring. -/
  | saRetire (i : Fin 3) (arg : BitVec 16)
  /-- SET_LOWEST_PN (R261). CIP_KEY op 0x04 sets a receive SA's lowest acceptable PN. -/
  | setLowestPn (i : Fin 3) (arg : BitVec 16)
  /-- SA_RETIRE_DONE (R262). The last frame under a retiring slot ends and the slot is erased. -/
  | saRetireDone (k : Fin 512)
  /-- SA_STATUS_READ (R260). CIP_SA_STAT snapshots the readable part of an SA slot. -/
  | saStatusRead (i : Fin 3) (arg : BitVec 16)
  /-- MACSEC_MIB_READ (R272). CIP_MIB op 0x00 reads a MACsec counter. -/
  | macsecMibRead (i : Fin 3) (arg : BitVec 16)
  /-- MACSEC_MIB_READ_CLEAR (R272). CIP_MIB op 0x01 reads and clears a MACsec counter. -/
  | macsecMibReadClear (i : Fin 3) (arg : BitVec 16)
  /-- ALARM_IN (R266). ALARM_IN_n held low for 100 ns starts a key erase. -/
  | alarmIn
  /-- SUPPLY_GLITCH (R266). VDD_CORE leaves the glitch window for over 5 ns and starts a key erase. -/
  | supplyGlitch
  /-- CLOCK_MONITOR_ALARM (R266). The CRY or REG clock departs over 25 % and starts a key erase. -/
  | clockMonitorAlarm
  /-- SOFTWARE_ERASE (R266). A write of CIP_ALARM_CTRL.erase starts a key erase. -/
  | softwareErase (i : Fin 3)
  /-- ERASE_DONE (R267). The SA store read-back confirms zeros and erase_done is raised. -/
  | eraseDone (bad : Option (Fin 16))
  /-- ALARM_LATCH_CLEAR (R269). A write of latched clears it only while no enabled source is active. -/
  | alarmLatchClear (i : Fin 3)
  /-- CJOB_CMAC_GENERATE (R270). The pool starts a Carr CMAC generate job. -/
  | cjobCmacGenerate
  /-- CJOB_CMAC_VERIFY (R270). The pool starts a Carr CMAC verify job. -/
  | cjobCmacVerify
  /-- CJOB_GCM_ENCRYPT (R270). The pool starts a Carr GCM encrypt job. -/
  | cjobGcmEncrypt
  /-- CJOB_GCM_DECRYPT (R270). The pool starts a Carr GCM decrypt and verify job. -/
  | cjobGcmDecrypt
  /-- CJOB_KEY_UNWRAP (R271). The pool starts a Carr key unwrap into an SA slot. -/
  | cjobKeyUnwrap
  /-- CJOB_COMPLETE (R270). A Carr job completes and its status is written back. -/
  | cjobComplete (j : Fin 1024) (bad : Bool)
  /-- PORT_ENABLE (R277). en written 1 applies the stored mode, loopback and test settings with the link down. -/
  | portEnable (i : Fin 3) (n : Fin 24) (v : BitVec 32)
  /-- PORT_DISABLE (R278). en written 0 completes the frame in transmission and flushes the port's queue. -/
  | portDisable (i : Fin 3) (n : Fin 24) (v : BitVec 32)
  /-- RX_PATH_CHANGE (R279). A port's receive path becomes ready or not ready, starting its hold timer. -/
  | rxPathChange (n : Fin 24) (lock : Bool) (lf : Bool) (rf : Bool)
  /-- LINK_UP (R279). The receive path stays ready for up_hold and the link goes up. -/
  | linkUp (n : Fin 24)
  /-- LINK_DOWN (R279). The receive path stays not ready for down_hold and the link goes down. -/
  | linkDown (n : Fin 24)
  /-- INBAND_WORD (R276). A received in-band control word is recorded and may raise inband_mismatch. -/
  | inbandWord (n : Fin 24) (w : BitVec 16)
  /-- PLCA_BEACON (R288). A PLCA BEACON is seen and the port returns to PLCA. -/
  | plcaBeacon (k : Fin 4)
  /-- PLCA_TIMEOUT (R288). No BEACON for the loss time and the port falls back to CSMA/CD. -/
  | plcaTimeout (k : Fin 4)
  /-- COLLISION (R289). A collision on a T1S segment triggers backoff, a drop after 16, or plca_coll. -/
  | collision (k : Fin 4)
  /-- C22_WRITE (R286). MDIO op 0x01 sends a Clause 22 write frame. -/
  | c22Write (i : Fin 3) (arg : BitVec 16)
  /-- C22_READ (R286). MDIO op 0x02 sends a Clause 22 read frame. -/
  | c22Read (i : Fin 3) (arg : BitVec 16)
  /-- C45_ADDRESS (R286). MDIO op 0x03 sends a Clause 45 address frame. -/
  | c45Address (i : Fin 3) (arg : BitVec 16)
  /-- C45_WRITE (R286). MDIO op 0x04 sends a Clause 45 write frame. -/
  | c45Write (i : Fin 3) (arg : BitVec 16)
  /-- C45_READ (R286). MDIO op 0x05 sends a Clause 45 read frame. -/
  | c45Read (i : Fin 3) (arg : BitVec 16)
  /-- C45_READ_INCREMENT (R286). MDIO op 0x06 sends a Clause 45 read with post-increment. -/
  | c45ReadIncrement (i : Fin 3) (arg : BitVec 16)
  /-- C45_INDIRECT_READ (R286). MDIO op 0x07 sends an address frame then a read frame. -/
  | c45IndirectRead (i : Fin 3) (arg : BitVec 16)
  /-- C45_INDIRECT_WRITE (R286). MDIO op 0x08 sends an address frame then a write frame. -/
  | c45IndirectWrite (i : Fin 3) (arg : BitVec 16)
  /-- MDIO_OP_DONE (R286). The last MDIO frame ends, delivering a read result or no-response error. -/
  | mdioOpDone (data : BitVec 16) (resp : Bool) (again : Bool)
  /-- PORT_MIB_READ (R292). ETH_MIB op 0x00 reads a port counter. -/
  | portMibRead (i : Fin 3) (arg : BitVec 16)
  /-- PORT_MIB_READ_CLEAR (R292). ETH_MIB op 0x01 reads and clears a port counter. -/
  | portMibReadClear (i : Fin 3) (arg : BitVec 16)
  /-- RING_ENABLE (R296). A ring's en written 1 sets head and tail to 0 and starts the ring. -/
  | ringEnable (i : Fin 3) (g : Fin 4) (r : Fin 16) (v : BitVec 32)
  /-- RING_DISABLE (R296). A ring's en written 0 stops it after the descriptor in progress. -/
  | ringDisable (i : Fin 3) (g : Fin 4) (r : Fin 16) (v : BitVec 32)
  /-- TX_DESCRIPTOR (R297). The device reads a transmit descriptor and its buffer and enters the frame into the pipeline. -/
  | txDescriptor (r : Fin 20) (d : List Byte) (buf : List Byte)
  /-- DMA_ERROR (R301). A ring access meets an error, poisoned completion or timeout and the ring stops. -/
  | dmaError (g : Fin 4) (r : Fin 16) (wr : Bool) (err : Option (Fin 32))
  /-- PCIE_LINK_CHANGE (R301). The PCIe link comes up or goes down. -/
  | pcieLinkChange (g : Fin 5) (aer : Option (Fin 32))
  /-- CAN_FRAME_RECEIVED (R307). A CAN frame ends and is stored, lost, unmatched or handed to the gateway. -/
  | canFrameReceived (c : Fin 24) (fmt : Fin 3) (ide : Bool) (rtr : Bool) (brs : Bool) (esi : Bool) (ident : BitVec 29) (dlc : BitVec 4) (data : List Byte) (sdt : BitVec 8) (vcid : BitVec 8) (sec : BitVec 1) (af : BitVec 32) (err : Bool) (back : BitVec 32)
  /-- CAN_TRANSMIT (R313). The bus permits a start and the controller transmits its highest-priority pending message. -/
  | canTransmit (c : Fin 24) (lost : Bool)
  /-- CAN_BUS_ERROR (R302). A bus error updates TEC and REC and may enter error passive or bus-off. -/
  | canBusError (c : Fin 24) (kind : Fin 4)
  /-- BUS_OFF_RECOVERY (R302). 128 occurrences of 11 recessive bits end bus-off. -/
  | busOffRecovery (c : Fin 24)
  /-- CAN_RESTART (R302). A write of restart leaves bus-off when bo_auto is 0. -/
  | canRestart (i : Fin 3) (c : Fin 24)
  /-- CAN_REQUEST_TRANSMIT (R307). CAN_BUF_CMD op 1 raises a buffer's transmit request. -/
  | canRequestTransmit (i : Fin 3) (c : Fin 24) (b : Fin 64)
  /-- CAN_ABORT_TRANSMIT (R307). CAN_BUF_CMD op 2 aborts a pending transmit unless begun. -/
  | canAbortTransmit (i : Fin 3) (c : Fin 24) (b : Fin 64)
  /-- CAN_RELEASE_BUFFER (R307). CAN_BUF_CMD op 3 releases a full receive buffer. -/
  | canReleaseBuffer (i : Fin 3) (c : Fin 24) (b : Fin 64)
  /-- CAN_DISABLE (R304). A controller's en written 0 ends its transmission and discards its reception. -/
  | canDisable (i : Fin 3) (c : Fin 24) (v : BitVec 32)
  /-- LIN_SLOT (R320). A commander schedule slot starts and a header is sent. -/
  | linSlot (l : Fin 8) (data : List Byte) (sum : BitVec 8) (err : Fin 6)
  /-- LIN_HEADER_RECEIVED (R303). A LIN header is received and the frame is published, subscribed or ignored. -/
  | linHeaderReceived (l : Fin 8) (ident : Fin 64) (data : List Byte) (sum : BitVec 8) (err : Fin 6) (brk : Fin 64) (rate : BitVec 16)
  /-- BATCH_TIMEOUT (R315). max_lat elapses since a batch frame's first message and the frame is sealed. -/
  | batchTimeout (b : Fin 32)
  /-- BATCH_INJECT (R315). A sealed batch frame enters pipeline A on P26. -/
  | batchInject
  /-- BATCH_CONFIGURE (R321). GW_BATCH op 0x01 configures an ACF batch. -/
  | batchConfigure (i : Fin 3) (arg : BitVec 16)
  /-- RX_STREAM_CONFIGURE (R321). GW_RXSTR configures an ACF receive stream. -/
  | rxStreamConfigure (i : Fin 3) (arg : BitVec 16)
  /-- GW_POOL_WRITE (R321). A write of GW_POOL sets the pool, or is refused while messages are held. -/
  | gwPoolWrite (i : Fin 3) (v : BitVec 32)
  /-- CARR_TRANSACTION_COMPARE (R329). A Carr transaction is voted and released or discarded by the compare mode. -/
  | carrTransactionCompare (a : CarrTx) (b : CarrTx) (c : CarrTx) (fault : Fin 5) (ecc : Fin 3) (bank : Fin 16)
  /-- WINDOW_CLOSE (R331). A Window-mode window ends and the three signatures are compared. -/
  | windowClose
  /-- RESYNC_SELFTEST_DONE (R333). The odd core's self-test ends, passing on to the stall or failing the core. -/
  | resyncSelftestDone (ok : Bool)
  /-- RESYNC_STALL (R333). The pair reaches a boundary, state is copied and the odd core rejoins. -/
  | resyncStall
  /-- INJECTION_TEST (R337). A 10 ms comparator self-test injection passes or enters safe hold. -/
  | injectionTest (ok : Bool)
  /-- CHKPT_WRITE (R338). A write of the CHKPT CSR issues a state signature transaction. -/
  | chkptWrite (machine : Bool) (a : List (BitVec 64)) (b : List (BitVec 64)) (c : List (BitVec 64))
  /-- DOORBELL (R344). A write of CPX_DOORBELL raises EV52 doorbell. -/
  | doorbell (i : Fin 3) (v : BitVec 32)
  /-- MEM_TRAINING (R343). LPDDR5X retraining runs by interval, temperature or retry, and may fault or restore the link. -/
  | memTraining (temp : BitVec 9) (ok : Bool)
  /-- MEM_SCRUB (R342). The scrubber reads and corrects the usable memory space. -/
  | memScrub (addr : BitVec 27) (err : Fin 3)
  /-- RECOVERY_RESET (R350). No frame of a stream passes for reset_ms and its recovery resets. -/
  | recoveryReset (k : Fin 1024)
  /-- LATENT_TEST (R354). A stream's latent-error test runs and may raise latent_error. -/
  | latentTest (k : Fin 1024)
  /-- LATENT_BASELINE_RESET (R354). lat_reset elapses and the stream's latent baseline restarts. -/
  | latentBaselineReset (k : Fin 1024)
  /-- STREAM_COUNTERS_READ (R355). FRE_SCNT op 0x00 reads a stream's counters. -/
  | streamCountersRead (i : Fin 3) (arg : BitVec 16)
  /-- STREAM_COUNTERS_READ_CLEAR (R355). FRE_SCNT op 0x01 reads and clears a stream's counters. -/
  | streamCountersReadClear (i : Fin 3) (arg : BitVec 16)
  /-- PAIR_ENABLE (R362). pair_en committed 1 puts the unit in INIT. -/
  | pairEnable (i : Fin 3) (v : BitVec 32)
  /-- PAIR_DISABLE (R362). pair_en committed 0 puts the unit in OFF with no set fired. -/
  | pairDisable (i : Fin 3) (v : BitVec 32)
  /-- HEARTBEAT_INTERVAL (R359). An interval starts and the unit sends its HB_OUT pulse and heartbeat frame. -/
  | heartbeatInterval
  /-- HB_IN_PULSE (R359). A pulse on HB_IN is judged as a heartbeat or counted bad. -/
  | hbInPulse (ns : BitVec 32)
  /-- BUS_ROLE_SWITCH (R363). The bus role moves at the next bus idle. -/
  | busRoleSwitch
  /-- PATH_TIMEOUT (R361). A heartbeat path sees none for 3 intervals, raising path_fault or declaring the partner failed. -/
  | pathTimeout (p : Fin 2)
  /-- STARTUP_WAIT_EXPIRY (R362). startup_wait elapses in INIT and the unit becomes ACTIVE or STANDBY. -/
  | startupWaitExpiry
  /-- HOLD_OFF_EXPIRY (R365). The preferred unit has been STANDBY and fit for hold_off and a hand-back is announced. -/
  | holdOffExpiry
  /-- HANDBACK_ECHO_DEADLINE (R365). No echo one interval before T and the hand-back is cancelled. -/
  | handbackEchoDeadline
  /-- HANDBACK_INSTANT (R365). WKT reaches T and both units exchange the roles. -/
  | handbackInstant
  /-- YIELD (R365). A write of yield starts a hand-back at once. -/
  | yield (i : Fin 3)
  /-- ST_CLEAR (R367). A write of st_clear clears st_failed. -/
  | stClear (i : Fin 3)
  /-- SELFTEST_ITEM_DONE (R367). A standby self-test item completes, passing or setting st_failed. -/
  | selftestItemDone (item : BitVec 11) (ok : Bool)
  /-- HEALTH_REPORT_SEND (R368). Every 10 ms in STANDBY the unit sends a health report frame. -/
  | healthReportSend
  /-- REPORT_MISSING (R368). No report for 30 ms from a STANDBY partner raises report_missing. -/
  | reportMissing
  /-- SLEEP_REQUEST (R375). A write of sleep_req starts PREPARE, or is refused. -/
  | sleepRequest (i : Fin 3)
  /-- PARK_DONE (R375). A write of park_done ends PREPARE and reaches SLEEP_COMMIT. -/
  | parkDone (i : Fin 3) (wake : Option (Fin 15))
  /-- PREP_TIMEOUT (R375). prep_timeout expires, raising park_timeout and reaching SLEEP_COMMIT without a valid parked state. -/
  | prepTimeout (wake : Option (Fin 15))
  /-- DESCEND_DONE (R375). DESCEND completes and the state becomes FEN. -/
  | descendDone
  /-- WAKE_IN_PIN (R380). A WAKE_IN pin holds its active level for its filter time and latches a wake. -/
  | wakeInPin (k : Fin 4) (level : Bool) (held : BitVec 16)
  /-- WUP_DETECT (R382). A TC10 wake-up pulse on a T1S pair latches a wake or raises wup_rx. -/
  | wupDetect (k : Fin 4)
  /-- AON_TIMER_EXPIRY (R379). PWR_TIMER reaches 0 in FEN and latches a wake. -/
  | aonTimerExpiry
  /-- WAKE_NOW (R379). A write of wake_now during PREPARE latches the software wake. -/
  | wakeNow (i : Fin 3)
  /-- WAKE_POWER_GOOD (R383). Power good is detected after a wake and the core PLLs start. -/
  | wakePowerGood
  /-- WAKE_PLL_LOCKED (R383). PLLs lock, retention is released and the counters are advanced. -/
  | wakePllLocked
  /-- WAKE_PIPELINES_READY (R383). Mere is initialised, pipelines accept frames, ports and seq_start sequencers restart. -/
  | wakePipelinesReady
  /-- CARR_RESUME (R383). Carr resumes from its parked state or starts cold. -/
  | carrResume (ecc : Bool)
  /-- PARTIAL_MASK_WRITE (R374). A write of a PARTIAL mask puts ports or buses to sleep or wakes them. -/
  | partialMaskWrite (i : Fin 3) (bus : Bool) (v : BitVec 32)
  /-- WAKE_VALID (R386). A write of wake_valid validates the last wake and clears its Wisp count. -/
  | wakeValid (i : Fin 3)
  /-- WISP_WINDOW_END (R386). wisp_win expires unvalidated, counting the wake and perhaps masking its source. -/
  | wispWindowEnd
  /-- WISP_BACKOFF_END (R386). A masked source's back-off ends and it is unmasked. -/
  | wispBackoffEnd (k : Fin 15)
  /-- OFF_REQUEST (R388). A write of off_req sets INH_OUT to the OFF levels. -/
  | offRequest (i : Fin 3)
  /-- POWER_ON_RESET (R390). PORST_n low or VDD_AON loss resets everything. -/
  | powerOnReset (aon : Bool)
  /-- PIN_RESET (R390). RESET_n low resets everything except the AON domain. -/
  | pinReset (len : BitVec 32)
  /-- DEVICE_RESET (R390). A committed SYS_RST_CTRL.dev resets the device as a pin reset. -/
  | deviceReset (i : Fin 3)
  /-- CARR_RESET (R390). A committed SYS_RST_CTRL.carr, activation set or JTAG command resets Carr only. -/
  | carrReset (jtag : Bool) (i : Fin 3)
  /-- PCIE_RESET (R390). PERST_n or a hot reset resets the PCIe endpoint, or wakes the device from FEN. -/
  | pcieReset (hot : Bool)
  /-- RESET_RELEASE (R396). A reset ends, BOOT_MODE is sampled and the boot ROM chooses its image source. -/
  | resetRelease (mode : Fin 4)
  /-- BOOT_VERIFY_DONE (R403). The boot verifier finishes a container, booting it or trying the next source. -/
  | bootVerifyDone
  /-- HOST_GO (R397). A write of host_go submits the container in the SYS_BOOT window for verification. -/
  | hostGo (i : Fin 3)
  /-- UART_BOOT_BLOCK (R397). A UART boot block is received and acknowledged or refused. -/
  | uartBootBlock (data : List Byte) (crc : BitVec 32)
  /-- LOAD_DONE (R394). A write of load_done releases FAULT_n and ends the boot Installer session. -/
  | loadDone (i : Fin 3)
  /-- INSTALLER_SESSION_TIMEOUT (R404). The boot Installer session ends 1 s after its grant. -/
  | installerSessionTimeout
  /-- BV_GO (R402). A write of SYS_BV_CTRL.go verifies a configuration container. -/
  | bvGo (i : Fin 3)
  /-- UPD_NOTE_WRITE (R412). A Carr write of SYS_UPD_NOTE raises the named EV61 cause. -/
  | updNoteWrite (i : Fin 3) (v : BitVec 32)
  /-- FLASH_ERASE (R400). SYS_FLASH op 0x01 erases a 64 KiB block, or is refused. -/
  | flashErase (i : Fin 3) (arg : BitVec 16)
  /-- FLASH_PROGRAM (R400). SYS_FLASH op 0x02 programs 32 bytes, or is refused. -/
  | flashProgram (i : Fin 3) (arg : BitVec 16)
  /-- FLASH_OP_DONE (R400). A flash erase or program completes or reports failure. -/
  | flashOpDone (ok : Bool) (again : Bool)
  /-- RAIL_OUT_OF_RANGE (R420). A rail stays outside its range for 1 µs and raises uv or ov. -/
  | railOutOfRange (k : Fin 10) (hi : Bool)
  /-- TEMP_WARN (R420). The hottest sensor reaches temp_warn. -/
  | tempWarn (k : Fin 8) (t : BitVec 10)
  /-- TEMP_CRIT (R420). The hottest sensor reaches 155 °C. -/
  | tempCrit (k : Fin 8) (t : BitVec 10)
  /-- SENSOR_FAULT (R437). Two sensors differ by more than 20 °C. -/
  | sensorFault (k : Fin 8)
  /-- TEST_LOGIC_RESET (R431). The test port enters Test-Logic-Reset, selecting IDCODE and ending JTAG sessions. -/
  | testLogicReset
  /-- EXTEST (R434). JTAG instruction driving and capturing pins through the boundary cells. -/
  | extest (pins : BitVec 612) (v : BitVec 612)
  /-- IDCODE (R432). JTAG instruction selecting the identification register. -/
  | idcode
  /-- SAMPLE_PRELOAD (R432). JTAG instruction sampling pins without disturbing operation. -/
  | samplePreload (pins : BitVec 612) (v : BitVec 612)
  /-- CLAMP (R434). JTAG instruction holding pins at preloaded values. -/
  | clamp
  /-- HIGHZ (R434). JTAG instruction putting every output in high impedance. -/
  | highz
  /-- EXTEST_PULSE (R434). JTAG instruction for the 1149.6 pulse test. -/
  | extestPulse (pins : BitVec 612) (v : BitVec 612)
  /-- EXTEST_TRAIN (R434). JTAG instruction for the 1149.6 train test. -/
  | extestTrain (pins : BitVec 612) (v : BitVec 612)
  /-- REG_ACCESS (R432). JTAG instruction performing register accesses as initiator 2. -/
  | regAccess (wr : Bool) (addr : BitVec 31) (v : BitVec 32)
  /-- DEBUG (R339). JTAG instruction for Carr and sequencer debug, activating alarm source 3. -/
  | debug (k : Fin 9) (halt : Bool)
  /-- MBIST (R434). JTAG instruction running memory self-test. -/
  | mbist
  /-- LBIST (R434). JTAG instruction running logic self-test. -/
  | lbist
  /-- SCAN (R434). JTAG instruction for manufacturing scan test. -/
  | scan
  /-- TRIM (R434). JTAG instruction for analog trim. -/
  | trim (w : BitVec 64)
  /-- FUSE (R433). JTAG instruction for fuse programming. -/
  | fuse (w : BitVec 64)
  /-- BYPASS (R432). JTAG instruction selecting the 1-bit bypass register. -/
  | bypass
  /-- PLL_UNLOCK (R38). A core, memory, SerDes or PCIe PLL loses lock and EV29 pll_unlock is raised with the PLL as index. -/
  | pllUnlock (p : Fin 4)
  /-- ALARM_SOURCE_INACTIVE (R269). An alarm source stops being active: ALARM_IN_n returns high, VDD_CORE returns to its window, or the monitored clock returns to frequency, clearing its bit in CIP_ALARM_STAT.active. -/
  | alarmSourceInactive (k : Fin 3)
  /-- CAN_FRAME_SENT (R312). A CAN controller completes the transmission of a message: the buffer result becomes sent, tx_ok counts, and a gateway queue entry leaves with its pool reference released. -/
  | canFrameSent (c : Fin 24)
  /-- FLUSH_VISIT (R174). An FDB flush in progress reaches the next slot in ascending order and removes it if it matches. -/
  | flushVisit (p : Fin 2) (again : Bool)
  /-- TEMP_CLEAR (R420). The hottest sensor falls below temp_clear and the temperature warnings re-arm. -/
  | tempClear (t : BitVec 10)
  /-- RAIL_IN_RANGE (R420). A monitored rail returns within its range and its SYS_MON_STAT.rail_out bit clears. -/
  | railInRange (k : Fin 10)
  /-- UART_GAP_TIMEOUT (R397). A gap of more than 1 s within a UART boot block discards the partial block and is answered with 0x15. -/
  | uartGapTimeout
  /-- UART_BOOT_BEACON (R397). Under UART boot the boot ROM sends 0x48 0x5A 0x55 0x31 every 100 ms until the first byte arrives from the host. -/
  | uartBootBeacon
  /-- BIST_DONE (R434). A memory or logic self-test started by MBIST or LBIST completes and reports in its status register. -/
  | bistDone (v : BitVec 32)
  /-- PRBS_BIT_ERROR (R291). The lane's PRBS checker synchronises to the received pattern, or finds a bit error and counts it in ETH_PORT_PRBS. -/
  | prbsBitError (n : Fin 20) (sync : Bool)
deriving DecidableEq, Repr

end Sys2Proof
end

