-- ==== Sys2Proof/Decode.lean ====
section
/-! DEFINITION. The encodings of the Yufen instructions (05 R98 to R101) and the host's two questions about the table's bits. The
operation table gives no row bits, so the words of this file are those of the sequencers' program memory. -/

namespace Sys2Proof

/-! ### Fields and formats (05 "Instruction formats") -/

/-- `n` bits of a word from bit `lo` up. -/
def fx (w : Word) (lo n : Nat) : BitVec n := BitVec.ofNat n (w.toNat / 2 ^ lo)

/-- `n` bits of a word from bit `lo` up are zero. -/
def fz (w : Word) (lo n : Nat) : Bool := w.toNat / 2 ^ lo % 2 ^ n == 0

/-- Format R: d in 25:22, a in 21:18, b in 17:14. -/
def yR (op : Nat) (d a b : BitVec 4) : Word :=
  BitVec.ofNat 32 (op * 2 ^ 26 + d.toNat * 2 ^ 22 + a.toNat * 2 ^ 18 + b.toNat * 2 ^ 14)

/-- Formats I and B: d (or a) in 25:22, a (or b) in 21:18, the immediate or offset in 17:0. -/
def yI (op : Nat) (d a : BitVec 4) (imm : BitVec 18) : Word :=
  BitVec.ofNat 32 (op * 2 ^ 26 + d.toNat * 2 ^ 22 + a.toNat * 2 ^ 18 + imm.toNat)

/-- Format U: d in 25:22, imm16 in 15:0. -/
def yU (op : Nat) (d : BitVec 4) (imm : BitVec 16) : Word := BitVec.ofNat 32 (op * 2 ^ 26 + d.toNat * 2 ^ 22 + imm.toNat)

/-- Format J: d in 25:22, off22 in 21:0. -/
def yJ (op : Nat) (d : BitVec 4) (off : BitVec 22) : Word := BitVec.ofNat 32 (op * 2 ^ 26 + d.toNat * 2 ^ 22 + off.toNat)

/-- Format T: tx in 25:24, ty in 23:22, g in 21:18, sel in 17:14. -/
def yT (op : Nat) (tx ty : BitVec 2) (g : BitVec 4) (sel : BitVec 2) : Word :=
  BitVec.ofNat 32 (op * 2 ^ 26 + tx.toNat * 2 ^ 24 + ty.toNat * 2 ^ 22 + g.toNat * 2 ^ 18 + sel.toNat * 2 ^ 14)

/-- The I format of LDT and STT: tx in 25:24, a in 21:18, imm18 in 17:0. -/
def yV (op : Nat) (tx : BitVec 2) (a : BitVec 4) (imm : BitVec 18) : Word :=
  BitVec.ofNat 32 (op * 2 ^ 26 + tx.toNat * 2 ^ 24 + a.toNat * 2 ^ 18 + imm.toNat)

/-- Formats TB and WA: two 2-bit fields in 25:22, two in 21:18, the rest in 17:0. -/
def yW (op : Nat) (p q r t : BitVec 2) (off : BitVec 18) : Word :=
  BitVec.ofNat 32 (op * 2 ^ 26 + p.toNat * 2 ^ 24 + q.toNat * 2 ^ 22 + r.toNat * 2 ^ 20 + t.toNat * 2 ^ 18 + off.toNat)

/-- Format A: ax in 25:24, ay in 23:22, g in 21:18, pd in 17:16, dir in 15:14. -/
def yA (op : Nat) (ax ay : BitVec 2) (g : BitVec 4) (pd dir : BitVec 2) : Word :=
  BitVec.ofNat 32 (op * 2 ^ 26 + ax.toNat * 2 ^ 24 + ay.toNat * 2 ^ 22 + g.toNat * 2 ^ 18 + pd.toNat * 2 ^ 16 + dir.toNat * 2 ^ 14)

/-- R101: the word of a Yufen instruction; a command that is none has no word. -/
def encodeYufen : Instr → Option Word
  | .iNop _ => some (yU 0x01 0 0)
  | .iHalt _ => some (yU 0x02 0 0)
  | .iWdog _ => some (yU 0x03 0 0)
  | .iTrap _ imm => some (yU 0x04 0 imm)
  | .iRds _ d k => some (yI 0x05 d 0 (BitVec.ofNat 18 k.val))
  | .iAdd _ d a b => some (yR 0x08 d a b)
  | .iSub _ d a b => some (yR 0x09 d a b)
  | .iAnd _ d a b => some (yR 0x0A d a b)
  | .iOr _ d a b => some (yR 0x0B d a b)
  | .iXor _ d a b => some (yR 0x0C d a b)
  | .iSll _ d a b => some (yR 0x0D d a b)
  | .iSrl _ d a b => some (yR 0x0E d a b)
  | .iSra _ d a b => some (yR 0x0F d a b)
  | .iMul _ d a b => some (yR 0x10 d a b)
  | .iAmoadd _ d a b => some (yR 0x1D d a b)
  | .iAmoswap _ d a b => some (yR 0x1E d a b)
  | .iAddi _ d a imm => some (yI 0x11 d a imm)
  | .iAndi _ d a imm => some (yI 0x12 d a imm)
  | .iOri _ d a imm => some (yI 0x13 d a imm)
  | .iXori _ d a imm => some (yI 0x14 d a imm)
  | .iLd _ d a imm => some (yI 0x19 d a imm)
  | .iSt _ d a imm => some (yI 0x1A d a imm)
  | .iJalr _ d a imm => some (yI 0x27 d a imm)
  | .iSlli _ d a sh => some (yI 0x15 d a (BitVec.ofNat 18 sh.toNat))
  | .iSrli _ d a sh => some (yI 0x16 d a (BitVec.ofNat 18 sh.toNat))
  | .iSrai _ d a sh => some (yI 0x17 d a (BitVec.ofNat 18 sh.toNat))
  | .iLui _ d imm => some (yU 0x18 d imm)
  | .iLdt _ tx a imm => some (yV 0x1B tx a imm)
  | .iStt _ tx a imm => some (yV 0x1C tx a imm)
  | .iBeq _ a b off => some (yI 0x20 a b off)
  | .iBne _ a b off => some (yI 0x21 a b off)
  | .iBlt _ a b off => some (yI 0x22 a b off)
  | .iBge _ a b off => some (yI 0x23 a b off)
  | .iBltu _ a b off => some (yI 0x24 a b off)
  | .iBgeu _ a b off => some (yI 0x25 a b off)
  | .iJal _ d off => some (yJ 0x26 d off)
  | .iTget _ tx clk => some (yT 0x28 tx 0 0 clk)
  | .iTadd _ tx ty g => some (yT 0x29 tx ty g 0)
  | .iTsub _ tx ty g => some (yT 0x2A tx ty g 0)
  | .iTmov _ tx ty => some (yT 0x2B tx ty 0 0)
  | .iText _ ty g sel => some (yT 0x2C 0 ty g sel)
  | .iTins _ tx g sel => some (yT 0x2D tx 0 g sel)
  | .iTnext _ tx ty g => some (yT 0x2E tx ty g 0)
  | .iTblt _ tx ty off => some (yW 0x2F tx ty 0 0 off)
  | .iAget _ ax pd => some (yA 0x30 ax 0 0 pd 0)
  | .iAset _ ax g => some (yA 0x31 ax 0 g 0 0)
  | .iAread _ ay g => some (yA 0x32 0 ay g 0 0)
  | .iAadd _ ax ay g => some (yA 0x33 ax ay g 0 0)
  | .iVget _ g pd => some (yA 0x34 0 0 g pd 0)
  | .iPost _ tx g => some (yT 0x35 tx 0 g 0)
  | .iApost _ ax g pd dir => some (yA 0x36 ax 0 g pd (BitVec.ofNat 2 dir.val))
  | .iWaitt _ tx => some (yT 0x37 tx 0 0 0)
  | .iWaita _ ax pd dir tt off => some (yW 0x38 ax pd (BitVec.ofNat 2 dir.val) tt off)
  | .iWaite _ g tt off => some (yI 0x39 g (BitVec.ofNat 4 tt.toNat) off)
  | .iGrx _ d => some (yR 0x3A d 0 0)
  | .iGid _ d a => some (yR 0x3B d a 0)
  | .iGtx _ a b => some (yR 0x3C 0 a b)
  | .iGrel _ a => some (yR 0x3D 0 a 0)
  | _ => none

/-- An instruction if its unused fields are zero (R100). -/
def yIf (c : Bool) (i : Instr) : Option Instr := if c then some i else none

/-- A value below a bound. -/
def finOf (n v : Nat) : Option (Fin n) := if h : v < n then some ⟨v, h⟩ else none

/-- R100, R101: the instruction that a word is, on sequencer `sq`; none where it traps with `illegal`. -/
def decodeYufen (sq : Fin 8) (w : Word) : Option Instr :=
  match (fx w 26 6).toNat with
  | 0x01 => yIf (fz w 0 26) (.iNop sq)
  | 0x02 => yIf (fz w 0 26) (.iHalt sq)
  | 0x03 => yIf (fz w 0 26) (.iWdog sq)
  | 0x04 => yIf (fz w 16 10) (.iTrap sq (fx w 0 16))
  | 0x05 => if fz w 18 4 then (finOf 5 (fx w 0 18).toNat).map (fun k => .iRds sq (fx w 22 4) k) else none
  | 0x08 => yIf (fz w 0 14) (.iAdd sq (fx w 22 4) (fx w 18 4) (fx w 14 4))
  | 0x09 => yIf (fz w 0 14) (.iSub sq (fx w 22 4) (fx w 18 4) (fx w 14 4))
  | 0x0A => yIf (fz w 0 14) (.iAnd sq (fx w 22 4) (fx w 18 4) (fx w 14 4))
  | 0x0B => yIf (fz w 0 14) (.iOr sq (fx w 22 4) (fx w 18 4) (fx w 14 4))
  | 0x0C => yIf (fz w 0 14) (.iXor sq (fx w 22 4) (fx w 18 4) (fx w 14 4))
  | 0x0D => yIf (fz w 0 14) (.iSll sq (fx w 22 4) (fx w 18 4) (fx w 14 4))
  | 0x0E => yIf (fz w 0 14) (.iSrl sq (fx w 22 4) (fx w 18 4) (fx w 14 4))
  | 0x0F => yIf (fz w 0 14) (.iSra sq (fx w 22 4) (fx w 18 4) (fx w 14 4))
  | 0x10 => yIf (fz w 0 14) (.iMul sq (fx w 22 4) (fx w 18 4) (fx w 14 4))
  | 0x1D => yIf (fz w 0 14) (.iAmoadd sq (fx w 22 4) (fx w 18 4) (fx w 14 4))
  | 0x1E => yIf (fz w 0 14) (.iAmoswap sq (fx w 22 4) (fx w 18 4) (fx w 14 4))
  | 0x11 => some (.iAddi sq (fx w 22 4) (fx w 18 4) (fx w 0 18))
  | 0x12 => some (.iAndi sq (fx w 22 4) (fx w 18 4) (fx w 0 18))
  | 0x13 => some (.iOri sq (fx w 22 4) (fx w 18 4) (fx w 0 18))
  | 0x14 => some (.iXori sq (fx w 22 4) (fx w 18 4) (fx w 0 18))
  | 0x19 => some (.iLd sq (fx w 22 4) (fx w 18 4) (fx w 0 18))
  | 0x1A => some (.iSt sq (fx w 22 4) (fx w 18 4) (fx w 0 18))
  | 0x27 => some (.iJalr sq (fx w 22 4) (fx w 18 4) (fx w 0 18))
  | 0x15 => yIf (fz w 5 13) (.iSlli sq (fx w 22 4) (fx w 18 4) (fx w 0 5))
  | 0x16 => yIf (fz w 5 13) (.iSrli sq (fx w 22 4) (fx w 18 4) (fx w 0 5))
  | 0x17 => yIf (fz w 5 13) (.iSrai sq (fx w 22 4) (fx w 18 4) (fx w 0 5))
  | 0x18 => yIf (fz w 16 6) (.iLui sq (fx w 22 4) (fx w 0 16))
  | 0x1B => yIf (fz w 22 2) (.iLdt sq (fx w 24 2) (fx w 18 4) (fx w 0 18))
  | 0x1C => yIf (fz w 22 2) (.iStt sq (fx w 24 2) (fx w 18 4) (fx w 0 18))
  | 0x20 => some (.iBeq sq (fx w 22 4) (fx w 18 4) (fx w 0 18))
  | 0x21 => some (.iBne sq (fx w 22 4) (fx w 18 4) (fx w 0 18))
  | 0x22 => some (.iBlt sq (fx w 22 4) (fx w 18 4) (fx w 0 18))
  | 0x23 => some (.iBge sq (fx w 22 4) (fx w 18 4) (fx w 0 18))
  | 0x24 => some (.iBltu sq (fx w 22 4) (fx w 18 4) (fx w 0 18))
  | 0x25 => some (.iBgeu sq (fx w 22 4) (fx w 18 4) (fx w 0 18))
  | 0x26 => some (.iJal sq (fx w 22 4) (fx w 0 22))
  | 0x28 => yIf (fz w 16 8 && fz w 0 14) (.iTget sq (fx w 24 2) (fx w 14 2))
  | 0x29 => yIf (fz w 0 18) (.iTadd sq (fx w 24 2) (fx w 22 2) (fx w 18 4))
  | 0x2A => yIf (fz w 0 18) (.iTsub sq (fx w 24 2) (fx w 22 2) (fx w 18 4))
  | 0x2B => yIf (fz w 0 22) (.iTmov sq (fx w 24 2) (fx w 22 2))
  | 0x2C => yIf (fz w 24 2 && fz w 16 2 && fz w 0 14) (.iText sq (fx w 22 2) (fx w 18 4) (fx w 14 2))
  | 0x2D => yIf (fz w 22 2 && fz w 16 2 && fz w 0 14) (.iTins sq (fx w 24 2) (fx w 18 4) (fx w 14 2))
  | 0x2E => yIf (fz w 0 18) (.iTnext sq (fx w 24 2) (fx w 22 2) (fx w 18 4))
  | 0x2F => yIf (fz w 18 4) (.iTblt sq (fx w 24 2) (fx w 22 2) (fx w 0 18))
  | 0x30 => yIf (fz w 18 6 && fz w 0 16) (.iAget sq (fx w 24 2) (fx w 16 2))
  | 0x31 => yIf (fz w 22 2 && fz w 0 18) (.iAset sq (fx w 24 2) (fx w 18 4))
  | 0x32 => yIf (fz w 24 2 && fz w 0 18) (.iAread sq (fx w 22 2) (fx w 18 4))
  | 0x33 => yIf (fz w 0 18) (.iAadd sq (fx w 24 2) (fx w 22 2) (fx w 18 4))
  | 0x34 => yIf (fz w 22 4 && fz w 0 16) (.iVget sq (fx w 18 4) (fx w 16 2))
  | 0x35 => yIf (fz w 22 2 && fz w 0 18) (.iPost sq (fx w 24 2) (fx w 18 4))
  | 0x36 => if fz w 22 2 && fz w 0 14 then (finOf 3 (fx w 14 2).toNat).map (fun r => .iApost sq (fx w 24 2) (fx w 18 4) (fx w 16 2) r) else none
  | 0x37 => yIf (fz w 0 24) (.iWaitt sq (fx w 24 2))
  | 0x38 => (finOf 3 (fx w 20 2).toNat).map (fun r => .iWaita sq (fx w 24 2) (fx w 22 2) r (fx w 18 2) (fx w 0 18))
  | 0x39 => yIf (fz w 20 2) (.iWaite sq (fx w 22 4) (fx w 18 2) (fx w 0 18))
  | 0x3A => yIf (fz w 0 22) (.iGrx sq (fx w 22 4))
  | 0x3B => yIf (fz w 0 18) (.iGid sq (fx w 22 4) (fx w 18 4))
  | 0x3C => yIf (fz w 22 4 && fz w 0 14) (.iGtx sq (fx w 18 4) (fx w 14 4))
  | 0x3D => yIf (fz w 22 4 && fz w 0 18) (.iGrel sq (fx w 18 4))
  | _ => none

/-- The command that a word of the operation table spells: the table gives no row bits, so no word spells one. -/
def decodeTableWord (_nbits _w : Nat) : Option Instr := none

end Sys2Proof
end

