-- ==== Sys2Proof/Machine/Bits.lean ====
section
/-! DEFINITION. Bit fields, sign extension, byte order and saturation: the plain helpers every chapter uses
(00 Notation: bit 0 least significant; 02: registers are little-endian). -/

namespace Sys2Proof.Machine

/-- The width of a field. -/
def fldWidth (f : Fld) : Nat := f.hi + 1 - f.lo

/-- The mask of a field within its register. -/
def fldMask (f : Fld) : Word := BitVec.ofNat 32 ((2 ^ (f.hi + 1 - f.lo) - 1) * 2 ^ f.lo)

/-- The value of field `f` of the word `w`. -/
def fldGet (w : Word) (f : Fld) : Nat := w.toNat / 2 ^ f.lo % 2 ^ (f.hi + 1 - f.lo)

/-- `w` with field `f` set to `v` modulo the field's size. -/
def fldSet (w : Word) (f : Fld) (v : Nat) : Word :=
  (w &&& ~~~(fldMask f)) ||| BitVec.ofNat 32 (v % 2 ^ (f.hi + 1 - f.lo) * 2 ^ f.lo)

/-- Bits `hi` down to `lo` of a natural number. -/
def nbits (v hi lo : Nat) : Nat := v / 2 ^ lo % 2 ^ (hi + 1 - lo)

/-- Bit `k` of a natural number. -/
def nbit (v k : Nat) : Bool := v / 2 ^ k % 2 == 1

/-- A Bool as a bit. -/
def b2n (b : Bool) : Nat := if b then 1 else 0

/-- The signed value of the low `w` bits of `v`. -/
def sint (w v : Nat) : Int :=
  let x := v % 2 ^ w
  if x < 2 ^ (w - 1) then (x : Int) else (x : Int) - (2 ^ w : Nat)

/-- The low `w` bits of an integer, in two's complement. -/
def ubits (w : Nat) (v : Int) : Nat := (v % ((2 ^ w : Nat) : Int)).toNat

/-- Saturation of `v` at `m`. -/
def satTo (m v : Nat) : Nat := if v < m then v else m

/-- Saturation of a signed value to the range `[lo, hi]`. -/
def clampInt (lo hi v : Int) : Int := if v < lo then lo else if hi < v then hi else v

/-- The bytes of `v`, least significant first. -/
def leBytes : Nat → Nat → List Byte
  | 0, _ => []
  | n + 1, v => BitVec.ofNat 8 v :: leBytes n (v / 256)

/-- The number that bytes spell, least significant first. -/
def leNat : List Byte → Nat
  | [] => 0
  | b :: r => b.toNat + 256 * leNat r

/-- The bytes of `v`, most significant first. -/
def beBytes (n v : Nat) : List Byte := (leBytes n v).reverse

/-- The number that bytes spell, most significant first. -/
def beNat (l : List Byte) : Nat := leNat l.reverse

/-- `n` bytes of `l` from position `k` (bytes beyond the end read 0). -/
def slice (l : List Byte) (k n : Nat) : List Byte :=
  let t := (l.drop k).take n
  t ++ List.replicate (n - t.length) 0#8

/-- Byte `k` of `l`, 0 beyond the end. -/
def byteAt (l : List Byte) (k : Nat) : Nat := (l.getD k 0#8).toNat

/-- The big-endian 16-bit number at position `k` of a frame. -/
def be16 (l : List Byte) (k : Nat) : Nat := byteAt l k * 256 + byteAt l (k + 1)

/-- The big-endian number of `n` bytes at position `k` of a frame. -/
def beAt (l : List Byte) (k n : Nat) : Nat := beNat (slice l k n)

/-- The list with element `k` replaced by `v` (unchanged where `k` is beyond the end). -/
def setAt {α : Type} : List α → Nat → α → List α
  | [], _, _ => []
  | _ :: r, 0, v => v :: r
  | a :: r, k + 1, v => a :: setAt r k v

/-- The numbers from 0 to `n - 1`. -/
def upTo (n : Nat) : List Nat := List.range n

/-- The first number below `n`, from `start` upwards and round, that `p` accepts (a rotating pointer). -/
def rotFind (n start : Nat) (p : Nat → Bool) : Option Nat :=
  ((List.range n).map (fun k => (start + k) % n)).find? p

/-- The first index of a list that `p` accepts. -/
def findIdx {α : Type} (p : α → Bool) : List α → Option Nat
  | [] => none
  | a :: r => if p a then some 0 else (findIdx p r).map (· + 1)

/-- Ceiling division. -/
def ceilDiv (a b : Nat) : Nat := (a + b - 1) / b

end Sys2Proof.Machine
end

