-- ==== Sys2Proof/Machine/Crypto.lean ====
section
/-! DEFINITION. The published algorithms the spec names: SHA-256 and HMAC-SHA-256 (02 R47, R54), AES, AES-GCM, AES-CMAC
and the AES key unwrap (11 R250, R270, R271), the Ethernet FCS and the CRC-32 of a load list. PRESUMED, log entry 6: the spec
cites these standards and does not restate them. Byte strings are lists, first byte first. -/

namespace Sys2Proof.Machine

def shaK0 : List Word := [0x428a2f98#32, 0x71374491#32, 0xb5c0fbcf#32, 0xe9b5dba5#32, 0x3956c25b#32, 0x59f111f1#32, 0x923f82a4#32, 0xab1c5ed5#32, 0xd807aa98#32, 0x12835b01#32, 0x243185be#32, 0x550c7dc3#32, 0x72be5d74#32, 0x80deb1fe#32, 0x9bdc06a7#32, 0xc19bf174#32]
def shaK1 : List Word := [0xe49b69c1#32, 0xefbe4786#32, 0x0fc19dc6#32, 0x240ca1cc#32, 0x2de92c6f#32, 0x4a7484aa#32, 0x5cb0a9dc#32, 0x76f988da#32, 0x983e5152#32, 0xa831c66d#32, 0xb00327c8#32, 0xbf597fc7#32, 0xc6e00bf3#32, 0xd5a79147#32, 0x06ca6351#32, 0x14292967#32]
def shaK2 : List Word := [0x27b70a85#32, 0x2e1b2138#32, 0x4d2c6dfc#32, 0x53380d13#32, 0x650a7354#32, 0x766a0abb#32, 0x81c2c92e#32, 0x92722c85#32, 0xa2bfe8a1#32, 0xa81a664b#32, 0xc24b8b70#32, 0xc76c51a3#32, 0xd192e819#32, 0xd6990624#32, 0xf40e3585#32, 0x106aa070#32]
def shaK3 : List Word := [0x19a4c116#32, 0x1e376c08#32, 0x2748774c#32, 0x34b0bcb5#32, 0x391c0cb3#32, 0x4ed8aa4a#32, 0x5b9cca4f#32, 0x682e6ff3#32, 0x748f82ee#32, 0x78a5636f#32, 0x84c87814#32, 0x8cc70208#32, 0x90befffa#32, 0xa4506ceb#32, 0xbef9a3f7#32, 0xc67178f2#32]
def shaK : List Word := shaK0 ++ shaK1 ++ shaK2 ++ shaK3

/-- Rotation right. -/
def rotr (w : Word) (k : Nat) : Word := (w >>> k) ||| (w <<< (32 - k))

/-- The padded message of SHA-256. -/
def shaPad (m : List Byte) : List Byte :=
  m ++ [0x80#8] ++ List.replicate ((119 - m.length % 64) % 64) 0#8 ++ beBytes 8 (8 * m.length)

/-- Sixteen big-endian words of a block. -/
def shaWords : Nat → List Byte → List Word
  | 0, _ => []
  | n + 1, l => BitVec.ofNat 32 (beNat (l.take 4)) :: shaWords n (l.drop 4)

/-- The message schedule, newest word first. -/
def shaSched : Nat → List Word → List Word
  | 0, w => w
  | n + 1, w =>
    let x := w.getD 14 0#32
    let y := w.getD 1 0#32
    let s0 := rotr x 7 ^^^ rotr x 18 ^^^ (x >>> 3)
    let s1 := rotr y 17 ^^^ rotr y 19 ^^^ (y >>> 10)
    shaSched n ((w.getD 15 0#32 + s0 + w.getD 6 0#32 + s1) :: w)

/-- The eight working variables. -/
structure ShaVars where
  a : Word
  b : Word
  c : Word
  d : Word
  e : Word
  f : Word
  g : Word
  h : Word
deriving DecidableEq, Repr

/-- One round. -/
def shaRound (v : ShaVars) (k w : Word) : ShaVars :=
  let s1 := rotr v.e 6 ^^^ rotr v.e 11 ^^^ rotr v.e 25
  let ch := (v.e &&& v.f) ^^^ (~~~v.e &&& v.g)
  let t1 := v.h + s1 + ch + k + w
  let s0 := rotr v.a 2 ^^^ rotr v.a 13 ^^^ rotr v.a 22
  let mj := (v.a &&& v.b) ^^^ (v.a &&& v.c) ^^^ (v.b &&& v.c)
  ⟨t1 + s0 + mj, v.a, v.b, v.c, v.d + t1, v.e, v.f, v.g⟩

/-- The rounds over a block. -/
def shaRounds : ShaVars → List Word → List Word → ShaVars
  | v, k :: ks, w :: ws => shaRounds (shaRound v k w) ks ws
  | v, _, _ => v

/-- The compression function. -/
def shaBlock (v : ShaVars) (blk : List Byte) : ShaVars :=
  let w := (shaSched 48 (shaWords 16 blk).reverse).reverse
  let r := shaRounds v shaK w
  ⟨v.a + r.a, v.b + r.b, v.c + r.c, v.d + r.d, v.e + r.e, v.f + r.f, v.g + r.g, v.h + r.h⟩

/-- The blocks of a message. -/
def shaBlocks : Nat → ShaVars → List Byte → ShaVars
  | 0, v, _ => v
  | n + 1, v, l => shaBlocks n (shaBlock v (l.take 64)) (l.drop 64)

/-- SHA-256 of a byte string, as 32 bytes. -/
def sha256 (m : List Byte) : List Byte :=
  let p := shaPad m
  let v0 : ShaVars := ⟨0x6a09e667#32, 0xbb67ae85#32, 0x3c6ef372#32, 0xa54ff53a#32, 0x510e527f#32, 0x9b05688c#32,
    0x1f83d9ab#32, 0x5be0cd19#32⟩
  let v := shaBlocks (p.length / 64) v0 p
  [v.a, v.b, v.c, v.d, v.e, v.f, v.g, v.h].flatMap (fun w => beBytes 4 w.toNat)

/-- HMAC-SHA-256 with a 32-byte key. -/
def hmacSha256 (key msg : List Byte) : List Byte :=
  let k := key ++ List.replicate (64 - key.length) 0#8
  sha256 (k.map (fun b => b ^^^ 0x5c#8) ++ sha256 (k.map (fun b => b ^^^ 0x36#8) ++ msg))

def aesSbox0 : List Byte := [0x63#8, 0x7c#8, 0x77#8, 0x7b#8, 0xf2#8, 0x6b#8, 0x6f#8, 0xc5#8, 0x30#8, 0x01#8, 0x67#8, 0x2b#8, 0xfe#8, 0xd7#8, 0xab#8, 0x76#8, 0xca#8, 0x82#8, 0xc9#8, 0x7d#8, 0xfa#8, 0x59#8, 0x47#8, 0xf0#8, 0xad#8, 0xd4#8, 0xa2#8, 0xaf#8, 0x9c#8, 0xa4#8, 0x72#8, 0xc0#8]
def aesSbox1 : List Byte := [0xb7#8, 0xfd#8, 0x93#8, 0x26#8, 0x36#8, 0x3f#8, 0xf7#8, 0xcc#8, 0x34#8, 0xa5#8, 0xe5#8, 0xf1#8, 0x71#8, 0xd8#8, 0x31#8, 0x15#8, 0x04#8, 0xc7#8, 0x23#8, 0xc3#8, 0x18#8, 0x96#8, 0x05#8, 0x9a#8, 0x07#8, 0x12#8, 0x80#8, 0xe2#8, 0xeb#8, 0x27#8, 0xb2#8, 0x75#8]
def aesSbox2 : List Byte := [0x09#8, 0x83#8, 0x2c#8, 0x1a#8, 0x1b#8, 0x6e#8, 0x5a#8, 0xa0#8, 0x52#8, 0x3b#8, 0xd6#8, 0xb3#8, 0x29#8, 0xe3#8, 0x2f#8, 0x84#8, 0x53#8, 0xd1#8, 0x00#8, 0xed#8, 0x20#8, 0xfc#8, 0xb1#8, 0x5b#8, 0x6a#8, 0xcb#8, 0xbe#8, 0x39#8, 0x4a#8, 0x4c#8, 0x58#8, 0xcf#8]
def aesSbox3 : List Byte := [0xd0#8, 0xef#8, 0xaa#8, 0xfb#8, 0x43#8, 0x4d#8, 0x33#8, 0x85#8, 0x45#8, 0xf9#8, 0x02#8, 0x7f#8, 0x50#8, 0x3c#8, 0x9f#8, 0xa8#8, 0x51#8, 0xa3#8, 0x40#8, 0x8f#8, 0x92#8, 0x9d#8, 0x38#8, 0xf5#8, 0xbc#8, 0xb6#8, 0xda#8, 0x21#8, 0x10#8, 0xff#8, 0xf3#8, 0xd2#8]
def aesSbox4 : List Byte := [0xcd#8, 0x0c#8, 0x13#8, 0xec#8, 0x5f#8, 0x97#8, 0x44#8, 0x17#8, 0xc4#8, 0xa7#8, 0x7e#8, 0x3d#8, 0x64#8, 0x5d#8, 0x19#8, 0x73#8, 0x60#8, 0x81#8, 0x4f#8, 0xdc#8, 0x22#8, 0x2a#8, 0x90#8, 0x88#8, 0x46#8, 0xee#8, 0xb8#8, 0x14#8, 0xde#8, 0x5e#8, 0x0b#8, 0xdb#8]
def aesSbox5 : List Byte := [0xe0#8, 0x32#8, 0x3a#8, 0x0a#8, 0x49#8, 0x06#8, 0x24#8, 0x5c#8, 0xc2#8, 0xd3#8, 0xac#8, 0x62#8, 0x91#8, 0x95#8, 0xe4#8, 0x79#8, 0xe7#8, 0xc8#8, 0x37#8, 0x6d#8, 0x8d#8, 0xd5#8, 0x4e#8, 0xa9#8, 0x6c#8, 0x56#8, 0xf4#8, 0xea#8, 0x65#8, 0x7a#8, 0xae#8, 0x08#8]
def aesSbox6 : List Byte := [0xba#8, 0x78#8, 0x25#8, 0x2e#8, 0x1c#8, 0xa6#8, 0xb4#8, 0xc6#8, 0xe8#8, 0xdd#8, 0x74#8, 0x1f#8, 0x4b#8, 0xbd#8, 0x8b#8, 0x8a#8, 0x70#8, 0x3e#8, 0xb5#8, 0x66#8, 0x48#8, 0x03#8, 0xf6#8, 0x0e#8, 0x61#8, 0x35#8, 0x57#8, 0xb9#8, 0x86#8, 0xc1#8, 0x1d#8, 0x9e#8]
def aesSbox7 : List Byte := [0xe1#8, 0xf8#8, 0x98#8, 0x11#8, 0x69#8, 0xd9#8, 0x8e#8, 0x94#8, 0x9b#8, 0x1e#8, 0x87#8, 0xe9#8, 0xce#8, 0x55#8, 0x28#8, 0xdf#8, 0x8c#8, 0xa1#8, 0x89#8, 0x0d#8, 0xbf#8, 0xe6#8, 0x42#8, 0x68#8, 0x41#8, 0x99#8, 0x2d#8, 0x0f#8, 0xb0#8, 0x54#8, 0xbb#8, 0x16#8]
def aesSbox : List Byte := aesSbox0 ++ aesSbox1 ++ aesSbox2 ++ aesSbox3 ++ aesSbox4 ++ aesSbox5 ++ aesSbox6 ++ aesSbox7
def aesInvSbox0 : List Byte := [0x52#8, 0x09#8, 0x6a#8, 0xd5#8, 0x30#8, 0x36#8, 0xa5#8, 0x38#8, 0xbf#8, 0x40#8, 0xa3#8, 0x9e#8, 0x81#8, 0xf3#8, 0xd7#8, 0xfb#8, 0x7c#8, 0xe3#8, 0x39#8, 0x82#8, 0x9b#8, 0x2f#8, 0xff#8, 0x87#8, 0x34#8, 0x8e#8, 0x43#8, 0x44#8, 0xc4#8, 0xde#8, 0xe9#8, 0xcb#8]
def aesInvSbox1 : List Byte := [0x54#8, 0x7b#8, 0x94#8, 0x32#8, 0xa6#8, 0xc2#8, 0x23#8, 0x3d#8, 0xee#8, 0x4c#8, 0x95#8, 0x0b#8, 0x42#8, 0xfa#8, 0xc3#8, 0x4e#8, 0x08#8, 0x2e#8, 0xa1#8, 0x66#8, 0x28#8, 0xd9#8, 0x24#8, 0xb2#8, 0x76#8, 0x5b#8, 0xa2#8, 0x49#8, 0x6d#8, 0x8b#8, 0xd1#8, 0x25#8]
def aesInvSbox2 : List Byte := [0x72#8, 0xf8#8, 0xf6#8, 0x64#8, 0x86#8, 0x68#8, 0x98#8, 0x16#8, 0xd4#8, 0xa4#8, 0x5c#8, 0xcc#8, 0x5d#8, 0x65#8, 0xb6#8, 0x92#8, 0x6c#8, 0x70#8, 0x48#8, 0x50#8, 0xfd#8, 0xed#8, 0xb9#8, 0xda#8, 0x5e#8, 0x15#8, 0x46#8, 0x57#8, 0xa7#8, 0x8d#8, 0x9d#8, 0x84#8]
def aesInvSbox3 : List Byte := [0x90#8, 0xd8#8, 0xab#8, 0x00#8, 0x8c#8, 0xbc#8, 0xd3#8, 0x0a#8, 0xf7#8, 0xe4#8, 0x58#8, 0x05#8, 0xb8#8, 0xb3#8, 0x45#8, 0x06#8, 0xd0#8, 0x2c#8, 0x1e#8, 0x8f#8, 0xca#8, 0x3f#8, 0x0f#8, 0x02#8, 0xc1#8, 0xaf#8, 0xbd#8, 0x03#8, 0x01#8, 0x13#8, 0x8a#8, 0x6b#8]
def aesInvSbox4 : List Byte := [0x3a#8, 0x91#8, 0x11#8, 0x41#8, 0x4f#8, 0x67#8, 0xdc#8, 0xea#8, 0x97#8, 0xf2#8, 0xcf#8, 0xce#8, 0xf0#8, 0xb4#8, 0xe6#8, 0x73#8, 0x96#8, 0xac#8, 0x74#8, 0x22#8, 0xe7#8, 0xad#8, 0x35#8, 0x85#8, 0xe2#8, 0xf9#8, 0x37#8, 0xe8#8, 0x1c#8, 0x75#8, 0xdf#8, 0x6e#8]
def aesInvSbox5 : List Byte := [0x47#8, 0xf1#8, 0x1a#8, 0x71#8, 0x1d#8, 0x29#8, 0xc5#8, 0x89#8, 0x6f#8, 0xb7#8, 0x62#8, 0x0e#8, 0xaa#8, 0x18#8, 0xbe#8, 0x1b#8, 0xfc#8, 0x56#8, 0x3e#8, 0x4b#8, 0xc6#8, 0xd2#8, 0x79#8, 0x20#8, 0x9a#8, 0xdb#8, 0xc0#8, 0xfe#8, 0x78#8, 0xcd#8, 0x5a#8, 0xf4#8]
def aesInvSbox6 : List Byte := [0x1f#8, 0xdd#8, 0xa8#8, 0x33#8, 0x88#8, 0x07#8, 0xc7#8, 0x31#8, 0xb1#8, 0x12#8, 0x10#8, 0x59#8, 0x27#8, 0x80#8, 0xec#8, 0x5f#8, 0x60#8, 0x51#8, 0x7f#8, 0xa9#8, 0x19#8, 0xb5#8, 0x4a#8, 0x0d#8, 0x2d#8, 0xe5#8, 0x7a#8, 0x9f#8, 0x93#8, 0xc9#8, 0x9c#8, 0xef#8]
def aesInvSbox7 : List Byte := [0xa0#8, 0xe0#8, 0x3b#8, 0x4d#8, 0xae#8, 0x2a#8, 0xf5#8, 0xb0#8, 0xc8#8, 0xeb#8, 0xbb#8, 0x3c#8, 0x83#8, 0x53#8, 0x99#8, 0x61#8, 0x17#8, 0x2b#8, 0x04#8, 0x7e#8, 0xba#8, 0x77#8, 0xd6#8, 0x26#8, 0xe1#8, 0x69#8, 0x14#8, 0x63#8, 0x55#8, 0x21#8, 0x0c#8, 0x7d#8]
def aesInvSbox : List Byte := aesInvSbox0 ++ aesInvSbox1 ++ aesInvSbox2 ++ aesInvSbox3 ++ aesInvSbox4 ++ aesInvSbox5 ++ aesInvSbox6 ++ aesInvSbox7

/-- The AES substitution. -/
def aesSub (b : Byte) : Byte := aesSbox.getD b.toNat 0#8

/-- Its inverse. -/
def aesInvSub (b : Byte) : Byte := aesInvSbox.getD b.toNat 0#8

/-- Multiplication by x in GF(2^8). -/
def xtime (b : Byte) : Byte := (b <<< 1) ^^^ (if b.msb then 0x1b#8 else 0#8)

/-- Multiplication in GF(2^8) by a constant below 16. -/
def gfMul (k : Nat) (b : Byte) : Byte :=
  (if nbit k 0 then b else 0#8) ^^^ (if nbit k 1 then xtime b else 0#8) ^^^
  (if nbit k 2 then xtime (xtime b) else 0#8) ^^^ (if nbit k 3 then xtime (xtime (xtime b)) else 0#8)

/-- Exclusive or of two byte strings, to the shorter length. -/
def xorBytes (a b : List Byte) : List Byte := List.zipWith (· ^^^ ·) a b

/-- The key expansion, newest 4-byte word first; `nk` words of key. -/
def aesExpand (nk : Nat) : Nat → Nat → Byte → List (List Byte) → List (List Byte)
  | 0, _, _, w => w
  | n + 1, i, rc, w =>
    let t := w.headD []
    let t' := if i % nk = 0 then xorBytes ((t.drop 1 ++ t.take 1).map aesSub) [rc, 0#8, 0#8, 0#8]
      else if nk = 8 ∧ i % nk = 4 then t.map aesSub else t
    aesExpand nk n (i + 1) (if i % nk = 0 then xtime rc else rc) (xorBytes (w.getD (nk - 1) []) t' :: w)

/-- The 4-byte words of a key. -/
def words4 : Nat → List Byte → List (List Byte)
  | 0, _ => []
  | n + 1, l => l.take 4 :: words4 n (l.drop 4)

/-- The round keys, 16 bytes each, of a 16-byte or 32-byte key. -/
def aesKeys (key : List Byte) : List (List Byte) :=
  let nk := key.length / 4
  let w := (aesExpand nk (4 * (nk + 7) - nk) nk 1#8 (words4 nk key).reverse).reverse
  (List.range (nk + 7)).map (fun r => ((w.drop (4 * r)).take 4).flatten)

/-- ShiftRows on a state held by columns. -/
def shiftRows (s : List Byte) : List Byte :=
  (List.range 16).map (fun k => s.getD ((k + 4 * (k % 4)) % 16) 0#8)

/-- Its inverse. -/
def invShiftRows (s : List Byte) : List Byte :=
  (List.range 16).map (fun k => s.getD ((k + 12 * (k % 4)) % 16) 0#8)

/-- MixColumns with the row coefficients `c0` to `c3`. -/
def mixWith (c0 c1 c2 c3 : Nat) (s : List Byte) : List Byte :=
  (List.range 16).map (fun k =>
    let col := 4 * (k / 4)
    let g := fun j => s.getD (col + (k + j) % 4) 0#8
    gfMul c0 (g 0) ^^^ gfMul c1 (g 1) ^^^ gfMul c2 (g 2) ^^^ gfMul c3 (g 3))

/-- The middle rounds of the cipher. -/
def aesRounds : List Byte → List (List Byte) → List Byte
  | s, [] => s
  | s, [k] => xorBytes (shiftRows (s.map aesSub)) k
  | s, k :: ks => aesRounds (xorBytes (mixWith 2 3 1 1 (shiftRows (s.map aesSub))) k) ks

/-- AES encryption of a 16-byte block. -/
def aesEnc (key blk : List Byte) : List Byte :=
  match aesKeys key with
  | [] => blk
  | k :: ks => aesRounds (xorBytes blk k) ks

/-- The rounds of the inverse cipher, with the round keys last first. -/
def aesInvRounds : List Byte → List (List Byte) → List Byte
  | s, [] => s
  | s, [k] => xorBytes ((invShiftRows s).map aesInvSub) k
  | s, k :: ks => aesInvRounds (mixWith 14 11 13 9 (xorBytes ((invShiftRows s).map aesInvSub) k)) ks

/-- AES decryption of a 16-byte block. -/
def aesDec (key blk : List Byte) : List Byte :=
  match (aesKeys key).reverse with
  | [] => blk
  | k :: ks => aesInvRounds (xorBytes blk k) ks

/-- The product of two field elements of GHASH, bit 0 first. -/
def ghMul : Nat → BitVec 128 → BitVec 128 → BitVec 128 → BitVec 128
  | 0, _, _, z => z
  | n + 1, x, v, z =>
    let z' := if x.msb then z ^^^ v else z
    let v' := if v.getLsbD 0 then (v >>> 1) ^^^ (0xe1#128 <<< 120) else v >>> 1
    ghMul n (x <<< 1) v' z'

/-- The 16-byte blocks of a string, the last one padded with zeros. -/
def blocks16 : Nat → List Byte → List (List Byte)
  | 0, _ => []
  | n + 1, l => slice l 0 16 :: blocks16 n (l.drop 16)

/-- The 16-byte blocks of a string. -/
def blocksOf (l : List Byte) : List (List Byte) := blocks16 ((l.length + 15) / 16) l

/-- GHASH under H of a list of blocks. -/
def ghash (h : BitVec 128) (bs : List (List Byte)) : BitVec 128 :=
  bs.foldl (fun y b => ghMul 128 (y ^^^ BitVec.ofNat 128 (beNat b)) h 0#128) 0#128

/-- Counter-mode keystream over `n` blocks from counter `c` of the 12-byte IV. -/
def ctrBlocks (key iv : List Byte) : Nat → Nat → List Byte
  | 0, _ => []
  | n + 1, c => aesEnc key (iv ++ beBytes 4 c) ++ ctrBlocks key iv n (c + 1)

/-- Counter-mode encryption from counter 2. -/
def gcmCrypt (key iv txt : List Byte) : List Byte :=
  xorBytes txt (ctrBlocks key iv ((txt.length + 15) / 16) 2)

/-- The 16-byte GCM tag over additional data and ciphertext. -/
def gcmTag (key iv aad ct : List Byte) : List Byte :=
  let h := BitVec.ofNat 128 (beNat (aesEnc key (List.replicate 16 0#8)))
  let s := ghash h (blocksOf aad ++ blocksOf ct ++ [beBytes 8 (8 * aad.length) ++ beBytes 8 (8 * ct.length)])
  xorBytes (beBytes 16 s.toNat) (aesEnc key (iv ++ beBytes 4 1))

/-- Doubling in GF(2^128) of CMAC. -/
def cmacDbl (v : BitVec 128) : BitVec 128 := (v <<< 1) ^^^ (if v.msb then 0x87#128 else 0#128)

/-- AES-CMAC of a byte string. -/
def aesCmac (key m : List Byte) : List Byte :=
  let k1 := cmacDbl (BitVec.ofNat 128 (beNat (aesEnc key (List.replicate 16 0#8))))
  let k2 := cmacDbl k1
  let full : Bool := m.length ≠ 0 ∧ m.length % 16 = 0
  let m' := if full then m else m ++ [0x80#8] ++ List.replicate ((31 - m.length % 16) % 16) 0#8
  let n := m'.length / 16
  let last := xorBytes (m'.drop (16 * (n - 1))) (beBytes 16 (if full then k1 else k2).toNat)
  (blocks16 (n - 1) m' ++ [last]).foldl (fun y b => aesEnc key (xorBytes y b)) (List.replicate 16 0#8)

/-- One step of the key unwrap: `a`, the registers, step number `t`. -/
def unwrapStep (key : List Byte) (n t : Nat) (st : List Byte × List (List Byte)) : List Byte × List (List Byte) :=
  let i := (t - 1) % n
  let b := aesDec key (xorBytes st.1 (beBytes 8 t) ++ st.2.getD i [])
  (b.take 8, setAt st.2 i (b.drop 8))

/-- The 8-byte registers of a wrapped key. -/
def words8 : Nat → List Byte → List (List Byte)
  | 0, _ => []
  | n + 1, l => l.take 8 :: words8 n (l.drop 8)

/-- AES key unwrap: the key data, or none where the integrity check fails. -/
def aesUnwrap (key wrapped : List Byte) : Option (List Byte) :=
  let n := wrapped.length / 8 - 1
  let r := ((List.range (6 * n)).reverse.map (· + 1)).foldl (fun st t => unwrapStep key n t st)
    (wrapped.take 8, words8 n (wrapped.drop 8))
  if r.1 = List.replicate 8 0xa6#8 then some r.2.flatten else none

/-- One bit of the reflected CRC-32. -/
def crcBit (c : Word) : Word := if c.getLsbD 0 then (c >>> 1) ^^^ 0xedb88320#32 else c >>> 1

/-- One byte of the reflected CRC-32. -/
def crcByte (c : Word) (b : Byte) : Word :=
  crcBit (crcBit (crcBit (crcBit (crcBit (crcBit (crcBit (crcBit (c ^^^ b.zeroExtend 32))))))))

/-- The CRC-32 of Ethernet over a byte string. -/
def crc32 (l : List Byte) : Word := ~~~(l.foldl crcByte 0xffffffff#32)

/-- One bit of the reflected CRC-32C (08 R172). -/
def crcBitC (c : Word) : Word := if c.getLsbD 0 then (c >>> 1) ^^^ 0x82f63b78#32 else c >>> 1

/-- One byte of the reflected CRC-32C. -/
def crcByteC (c : Word) (b : Byte) : Word :=
  crcBitC (crcBitC (crcBitC (crcBitC (crcBitC (crcBitC (crcBitC (crcBitC (c ^^^ b.setWidth 32))))))))

/-- 08 R172: CRC-32C (polynomial 0x1EDC_6F41). -/
def crc32c (l : List Byte) : Word := ~~~(l.foldl crcByteC 0xffffffff#32)

/-- The FCS of a frame, as its four bytes in transmission order. -/
def fcsOf (l : List Byte) : List Byte := leBytes 4 (crc32 l).toNat

end Sys2Proof.Machine
end

