-- ==== Sys2Proof/Config.lean ====
section
/-! DEFINITION. What an implementation fixes and the values the spec leaves open. A constant without a body is a free
value: nothing can be proved of it, so a claim holds whatever it is. Values with a body are choices that a row of
notes/assumptions names. -/

namespace Sys2Proof.Config

/-- A fresh open value of 128 bits, drawn at position `k` of the model's counter `State.freeIdx` (a challenge, a chosen
delay, an outcome the spec leaves open). FREE VALUE, log entry 3. -/
opaque freeValue (k : Nat) : BitVec 128

/-- The role secrets that Ezpelon and the Maker fuse (02 R49), by role code 1 to 3. FREE VALUE, log entry 4. -/
opaque factorySecret (role : Nat) : BitVec 256

/-- Whether an ECDSA P-256 signature verifies (17 R402): key hash slot, signed bytes, signature bytes. The curve
arithmetic is a published standard the spec cites and does not restate. FREE VALUE, log entry 5. -/
opaque ecdsaVerify (key : List Byte) (msg : List Byte) (sig : List Byte) : Bool

/-- The fused 64-bit device identifier SYS_DEVID (17 R438). FREE VALUE, log entry 7. -/
opaque devId : BitVec 64

/-- The fused production screen SYS_ID.screen (17 R438): 0 for an HZ9240-A1, 1 for an HZ9240-A1S. FREE VALUE, log
entry 7. -/
opaque screen : BitVec 1

/-- One eighth of the installed LPDDR5X in bytes, within its bounds (14 R324, R342). FREE VALUE, log entry 8. -/
opaque memEighth : Nat

/-- 00 R3, 14 R342: 2 to 8 GiB are installed, and seven eighths of them are usable. -/
def memUsable : Nat := 7 * max (2 ^ 28) (min (2 ^ 30) memEighth)

/-- Whether a shaper's credit between two steps of 1/256 bit counts as the upper one (10 R233). FREE VALUE, log entry 55. -/
opaque creditUp (v : Int) : Bool

/-- The cells that the transmit FIFO of a port holds (09 R206). FREE VALUE, log entry 55. -/
opaque txFifo (port : Nat) : Nat

/-- Ezpelon's PCI vendor identifier (12 R295). FREE VALUE, log entry 59. -/
opaque vendorId : BitVec 16

/-- The contents of Carr's boot ROM (14 R324). FREE VALUE, log entry 8. -/
opaque bootRom (a : Nat) : BitVec 8

/-- The size of the xSPI NOR flash beyond the 128 MiB that the boot path requires (17 R398). FREE VALUE, log entry 9. -/
opaque flashExtra : Nat

/-- The four key hashes fused in MANUFACTURE (17 R402). FREE VALUE, log entry 9. -/
opaque keyHash (k : Nat) : BitVec 256

/-- Whether the revocation fuse of a key is blown (17 R402). FREE VALUE, log entry 9. -/
opaque keyRevoked (k : Nat) : Bool

end Sys2Proof.Config
end

