-- ==== Sys2Proof/Machine/Cells.lean ====
section
/-! DEFINITION. Sparse stores: a list of (key, value) pairs with keys strictly rising and no entry equal to what an
unlisted key reads as, so that equal stores are equal data. Registers, memories, tables and every unit of which the
device has several (sequencers, ports, classes, slots) are held this way. -/

namespace Sys2Proof.Machine

/-- A sparse store of values of `α`; `d k` is what an unlisted key `k` reads as. -/
abbrev Cells (α : Type) := List (Nat × α)

/-- The value at key `k`. -/
def Cells.get {α : Type} (d : Nat → α) : Cells α → Nat → α
  | [], k => d k
  | (k', v) :: r, k => if k = k' then v else Cells.get d r k

/-- The store with `v` at key `k`; writing the unlisted value removes the entry. -/
def Cells.set {α : Type} [DecidableEq α] (d : Nat → α) : Cells α → Nat → α → Cells α
  | [], k, v => if v = d k then [] else [(k, v)]
  | (k', v') :: r, k, v =>
    if k < k' then (if v = d k then (k', v') :: r else (k, v) :: (k', v') :: r)
    else if k = k' then (if v = d k then r else (k, v) :: r)
    else (k', v') :: Cells.set d r k v

/-- The canonical form above the key `lo`: keys strictly rising from `lo`, no entry at its unlisted value. -/
def Cells.wfFrom {α : Type} [DecidableEq α] (d : Nat → α) : Nat → Cells α → Bool
  | _, [] => true
  | lo, (k, v) :: r => decide (lo ≤ k) && decide (v ≠ d k) && Cells.wfFrom d (k + 1) r

/-- The canonical form. -/
def Cells.wf {α : Type} [DecidableEq α] (d : Nat → α) (m : Cells α) : Bool := Cells.wfFrom d 0 m

/-- The entries whose key is kept by `p` (a reset, an erase). -/
def Cells.keep {α : Type} (p : Nat → Bool) (m : Cells α) : Cells α := m.filter (fun e => p e.1)

/-- The entries whose key lies in `[lo, hi)` removed. -/
def Cells.clear {α : Type} (m : Cells α) (lo hi : Nat) : Cells α :=
  Cells.keep (fun k => k < lo || hi ≤ k) m

end Sys2Proof.Machine
end

