-- ==== Sys2Proof/Machine/RegDefs.lean ====
section
/-! DEFINITION. The names of the register fabric: for each register of the spec its address, as a function of the
indices its table gives, and the bit range of each of its fields (chapters 02 to 18, the tables headed by the register's
name). `p` is the pipeline (0 = A, 1 = B; pipeline B's copy lies 0x0040_0000 above, 02 R21). -/

namespace Sys2Proof.Machine


/-! ### 02_control_plane.md -/

/-- EVT_SRC_CFG. -/
def EVT_SRC_CFG.a (n : Nat) : Nat := 0x0100000 + 0x10 * n
def EVT_SRC_CFG.fault_en : Fld := ⟨31, 31⟩
def EVT_SRC_CFG.seq_en : Fld := ⟨30, 30⟩
def EVT_SRC_CFG.carr_en : Fld := ⟨29, 29⟩
def EVT_SRC_CFG.msix_en : Fld := ⟨28, 28⟩
/-- EVT_SRC_STAT. -/
def EVT_SRC_STAT.a (n : Nat) : Nat := 0x0100008 + 0x10 * n
def EVT_SRC_STAT.count : Fld := ⟨31, 16⟩
def EVT_SRC_STAT.safety : Fld := ⟨4, 4⟩
def EVT_SRC_STAT.ff_valid : Fld := ⟨3, 3⟩
def EVT_SRC_STAT.storm : Fld := ⟨2, 2⟩
def EVT_SRC_STAT.pend : Fld := ⟨0, 0⟩
/-- EVT_SRC_STORM. -/
def EVT_SRC_STORM.a (n : Nat) : Nat := 0x010000c + 0x10 * n
def EVT_SRC_STORM.storm_win : Fld := ⟨31, 16⟩
def EVT_SRC_STORM.storm_n : Fld := ⟨15, 0⟩
/-- EVT_CNT_CLR_LO. -/
def EVT_CNT_CLR_LO.a : Nat := 0x0100400
def EVT_CNT_CLR_LO.clr : Fld := ⟨31, 0⟩
/-- EVT_CNT_CLR_HI. -/
def EVT_CNT_CLR_HI.a : Nat := 0x0100404
def EVT_CNT_CLR_HI.clr : Fld := ⟨31, 0⟩
/-- EVT_PEND_LO. -/
def EVT_PEND_LO.a : Nat := 0x0100408
def EVT_PEND_LO.pend : Fld := ⟨31, 0⟩
/-- EVT_PEND_HI. -/
def EVT_PEND_HI.a : Nat := 0x010040c
def EVT_PEND_HI.pend : Fld := ⟨31, 0⟩
/-- ROL_OP_GRANT. -/
def ROL_OP_GRANT.a : Nat := 0x0180210
def ROL_OP_GRANT.grant : Fld := ⟨16, 0⟩
/-- ROL_STAT. -/
def ROL_STAT.a : Nat := 0x0180200
def ROL_STAT.lockout_left : Fld := ⟨31, 16⟩
def ROL_STAT.fail_count : Fld := ⟨15, 12⟩
def ROL_STAT.last_result : Fld := ⟨9, 8⟩
def ROL_STAT.role : Fld := ⟨1, 0⟩
/-- ROL_CTRL. -/
def ROL_CTRL.a : Nat := 0x0180204
def ROL_CTRL.leave : Fld := ⟨0, 0⟩
/-- ROL_LC. -/
def ROL_LC.a : Nat := 0x0180220
def ROL_LC.target : Fld := ⟨5, 4⟩
def ROL_LC.state : Fld := ⟨1, 0⟩
/-- ROL_LC_REQ. -/
def ROL_LC_REQ.a : Nat := 0x0180228
def ROL_LC_REQ.target : Fld := ⟨1, 0⟩

/-! ### 03_network_time.md -/

/-- TIM_INC. -/
def TIM_INC.a (n : Nat) : Nat := 0x0200000 + 0x8 * n
def TIM_INC.frac : Fld := ⟨31, 0⟩
/-- TIM_INC_INT. -/
def TIM_INC_INT.a (n : Nat) : Nat := 0x0200004 + 0x8 * n
def TIM_INC_INT.int : Fld := ⟨3, 0⟩
/-- TIM_ADJ_CNT. -/
def TIM_ADJ_CNT.a (n : Nat) : Nat := 0x0200380 + 0x4 * n
def TIM_ADJ_CNT.count : Fld := ⟨31, 0⟩
/-- TIM_DOM_CFG. -/
def TIM_DOM_CFG.a (n : Nat) : Nat := 0x0200040 + 0x10 * n
def TIM_DOM_CFG.enable : Fld := ⟨31, 31⟩
def TIM_DOM_CFG.kick_timeout : Fld := ⟨23, 8⟩
def TIM_DOM_CFG.domain_number : Fld := ⟨7, 0⟩
/-- TIM_DOM_CTRL. -/
def TIM_DOM_CTRL.a (n : Nat) : Nat := 0x0200044 + 0x10 * n
def TIM_DOM_CTRL.declare_lost : Fld := ⟨1, 1⟩
def TIM_DOM_CTRL.kick : Fld := ⟨0, 0⟩
/-- TIM_DOM_STAT. -/
def TIM_DOM_STAT.a (n : Nat) : Nat := 0x0200048 + 0x10 * n
def TIM_DOM_STAT.since_kick : Fld := ⟨31, 16⟩
def TIM_DOM_STAT.lost : Fld := ⟨0, 0⟩
/-- TIM_WKT_CFG. -/
def TIM_WKT_CFG.a : Nat := 0x0200080
def TIM_WKT_CFG.auto_switch : Fld := ⟨31, 31⟩
def TIM_WKT_CFG.pref : Fld := ⟨30, 30⟩
def TIM_WKT_CFG.max_err : Fld := ⟨27, 16⟩
def TIM_WKT_CFG.slew_rate : Fld := ⟨15, 0⟩
/-- TIM_WKT_CTRL. -/
def TIM_WKT_CTRL.a : Nat := 0x0200084
def TIM_WKT_CTRL.align : Fld := ⟨0, 0⟩
/-- TIM_WKT_STAT. -/
def TIM_WKT_STAT.a : Nat := 0x0200088
def TIM_WKT_STAT.src_valid : Fld := ⟨3, 3⟩
def TIM_WKT_STAT.src : Fld := ⟨2, 2⟩
def TIM_WKT_STAT.state : Fld := ⟨1, 0⟩
/-- TIM_PPS_CFG. -/
def TIM_PPS_CFG.a : Nat := 0x02000c0
def TIM_PPS_CFG.out_en : Fld := ⟨31, 31⟩
def TIM_PPS_CFG.out_clk : Fld := ⟨30, 29⟩
def TIM_PPS_CFG.in_en : Fld := ⟨28, 28⟩
def TIM_PPS_CFG.width : Fld := ⟨19, 0⟩
/-- TIM_PORT_CFG. -/
def TIM_PORT_CFG.a (n : Nat) : Nat := 0x0201000 + 0x20 * n
def TIM_PORT_CFG.ldly_tol : Fld := ⟨15, 8⟩
def TIM_PORT_CFG.dom_b : Fld := ⟨5, 5⟩
def TIM_PORT_CFG.dom_a : Fld := ⟨4, 4⟩
def TIM_PORT_CFG.ldly_accept : Fld := ⟨3, 3⟩
def TIM_PORT_CFG.one_step_en : Fld := ⟨2, 2⟩
def TIM_PORT_CFG.ts_en : Fld := ⟨1, 1⟩
/-- TIM_PORT_RXLAT. -/
def TIM_PORT_RXLAT.a (n : Nat) : Nat := 0x0201004 + 0x20 * n
def TIM_PORT_RXLAT.lat : Fld := ⟨19, 0⟩
/-- TIM_PORT_TXLAT. -/
def TIM_PORT_TXLAT.a (n : Nat) : Nat := 0x0201008 + 0x20 * n
def TIM_PORT_TXLAT.lat : Fld := ⟨19, 0⟩
/-- TIM_PORT_LDLY_CAL. -/
def TIM_PORT_LDLY_CAL.a (n : Nat) : Nat := 0x020100c + 0x20 * n
def TIM_PORT_LDLY_CAL.cal : Fld := ⟨23, 0⟩
/-- TIM_PORT_LDLY_MEAS. -/
def TIM_PORT_LDLY_MEAS.a (n : Nat) : Nat := 0x0201010 + 0x20 * n
def TIM_PORT_LDLY_MEAS.out_tol : Fld := ⟨31, 31⟩
def TIM_PORT_LDLY_MEAS.meas : Fld := ⟨23, 0⟩

/-! ### 04_phase_domains.md -/

/-- PHS_CFG. -/
def PHS_CFG.a (n : Nat) : Nat := 0x0300000 + 0x40 * n
def PHS_CFG.enable : Fld := ⟨31, 31⟩
def PHS_CFG.src : Fld := ⟨30, 29⟩
def PHS_CFG.edge_dir : Fld := ⟨28, 28⟩
def PHS_CFG.z_req : Fld := ⟨27, 27⟩
def PHS_CFG.swap_ab : Fld := ⟨26, 26⟩
def PHS_CFG.edge_sel : Fld := ⟨25, 24⟩
def PHS_CFG.pin_sel : Fld := ⟨23, 22⟩
def PHS_CFG.flt_len : Fld := ⟨15, 8⟩
def PHS_CFG.edges_per_turn : Fld := ⟨7, 4⟩
def PHS_CFG.acq_obs : Fld := ⟨3, 0⟩
/-- PHS_OFFSET. -/
def PHS_OFFSET.a (n : Nat) : Nat := 0x0300004 + 0x40 * n
def PHS_OFFSET.offset : Fld := ⟨31, 0⟩
/-- PHS_TPC. -/
def PHS_TPC.a (n : Nat) : Nat := 0x0300008 + 0x40 * n
def PHS_TPC.tu_per_count : Fld := ⟨31, 0⟩
/-- PHS_GAIN. -/
def PHS_GAIN.a (n : Nat) : Nat := 0x030000c + 0x40 * n
def PHS_GAIN.kp : Fld := ⟨31, 16⟩
def PHS_GAIN.ki : Fld := ⟨15, 0⟩
/-- PHS_LIM. -/
def PHS_LIM.a (n : Nat) : Nat := 0x0300010 + 0x40 * n
def PHS_LIM.vel_max : Fld := ⟨31, 16⟩
def PHS_LIM.e_max : Fld := ⟨15, 0⟩
/-- PHS_TIMING. -/
def PHS_TIMING.a (n : Nat) : Nat := 0x0300014 + 0x40 * n
def PHS_TIMING.obs_timeout : Fld := ⟨31, 16⟩
def PHS_TIMING.hold_time : Fld := ⟨15, 0⟩
/-- PHS_THR. -/
def PHS_THR.a (n : Nat) : Nat := 0x0300018 + 0x40 * n
def PHS_THR.lock_thr : Fld := ⟨31, 16⟩
def PHS_THR.rev_hyst : Fld := ⟨15, 0⟩
/-- PHS_SAMP. -/
def PHS_SAMP.a (n : Nat) : Nat := 0x030001c + 0x40 * n
def PHS_SAMP.samp_port : Fld := ⟨31, 27⟩
def PHS_SAMP.samp_clk : Fld := ⟨26, 25⟩
def PHS_SAMP.max_age : Fld := ⟨15, 0⟩
/-- PHS_SAMP_ID. -/
def PHS_SAMP_ID.a (n : Nat) : Nat := 0x0300020 + 0x40 * n
def PHS_SAMP_ID.samp_ethertype : Fld := ⟨31, 16⟩
def PHS_SAMP_ID.stream_tag : Fld := ⟨15, 0⟩
/-- PHS_CTRL. -/
def PHS_CTRL.a (n : Nat) : Nat := 0x0300030 + 0x40 * n
def PHS_CTRL.declare_lost : Fld := ⟨1, 1⟩
def PHS_CTRL.restart : Fld := ⟨0, 0⟩
/-- PHS_STAT. -/
def PHS_STAT.a (n : Nat) : Nat := 0x0300034 + 0x40 * n
def PHS_STAT.z_seen : Fld := ⟨5, 5⟩
def PHS_STAT.dir : Fld := ⟨4, 4⟩
def PHS_STAT.standstill : Fld := ⟨3, 3⟩
def PHS_STAT.state : Fld := ⟨2, 0⟩
/-- PHS_DISC. -/
def PHS_DISC.a (n : Nat) : Nat := 0x0300038 + 0x40 * n
def PHS_DISC.outliers : Fld := ⟨31, 16⟩
def PHS_DISC.discards : Fld := ⟨15, 0⟩

/-! ### 06_sequencers.md -/

/-- SEQ_ACT_STAT. -/
def SEQ_ACT_STAT.a (n : Nat) : Nat := 0x0401100 + 0x4 * n
def SEQ_ACT_STAT.result : Fld := ⟨19, 16⟩
def SEQ_ACT_STAT.count : Fld := ⟨13, 8⟩
def SEQ_ACT_STAT.state : Fld := ⟨1, 0⟩
/-- SEQ_PROG. -/
def SEQ_PROG.a (n : Nat) : Nat := 0x0400000 + 0x100 * n
def SEQ_PROG.length : Fld := ⟨31, 16⟩
def SEQ_PROG.entry : Fld := ⟨14, 0⟩
/-- SEQ_TWIN_LO. -/
def SEQ_TWIN_LO.a (n : Nat) : Nat := 0x0400004 + 0x100 * n
def SEQ_TWIN_LO.wr_en : Fld := ⟨31, 31⟩
def SEQ_TWIN_LO.twin_lo : Fld := ⟨19, 0⟩
/-- SEQ_TWIN_HI. -/
def SEQ_TWIN_HI.a (n : Nat) : Nat := 0x0400008 + 0x100 * n
def SEQ_TWIN_HI.twin_hi : Fld := ⟨20, 0⟩
/-- SEQ_WDOG. -/
def SEQ_WDOG.a (n : Nat) : Nat := 0x040000c + 0x100 * n
def SEQ_WDOG.wdog_en : Fld := ⟨31, 31⟩
def SEQ_WDOG.trap_action : Fld := ⟨30, 29⟩
def SEQ_WDOG.safe_set : Fld := ⟨27, 24⟩
def SEQ_WDOG.period : Fld := ⟨19, 0⟩
/-- SEQ_CTRL. -/
def SEQ_CTRL.a (n : Nat) : Nat := 0x0400010 + 0x100 * n
def SEQ_CTRL.stop_flush : Fld := ⟨5, 5⟩
def SEQ_CTRL.step : Fld := ⟨4, 4⟩
def SEQ_CTRL.resume : Fld := ⟨3, 3⟩
def SEQ_CTRL.pause : Fld := ⟨2, 2⟩
def SEQ_CTRL.stop : Fld := ⟨1, 1⟩
def SEQ_CTRL.start : Fld := ⟨0, 0⟩
/-- SEQ_STAT. -/
def SEQ_STAT.a (n : Nat) : Nat := 0x0400014 + 0x100 * n
def SEQ_STAT.pc : Fld := ⟨30, 16⟩
def SEQ_STAT.wait : Fld := ⟨5, 4⟩
def SEQ_STAT.state : Fld := ⟨2, 0⟩
/-- SEQ_TRAP. -/
def SEQ_TRAP.a (n : Nat) : Nat := 0x0400018 + 0x100 * n
def SEQ_TRAP.user_code : Fld := ⟨31, 16⟩
def SEQ_TRAP.code : Fld := ⟨7, 0⟩
/-- SEQ_QSTAT. -/
def SEQ_QSTAT.a (n : Nat) : Nat := 0x040001c + 0x100 * n
def SEQ_QSTAT.high_water : Fld := ⟨24, 16⟩
def SEQ_QSTAT.used : Fld := ⟨8, 0⟩
/-- SEQ_QCNT_A. -/
def SEQ_QCNT_A.a (n : Nat) : Nat := 0x0400020 + 0x100 * n
def SEQ_QCNT_A.late : Fld := ⟨31, 16⟩
def SEQ_QCNT_A.flushed : Fld := ⟨15, 0⟩
/-- SEQ_QCNT_B. -/
def SEQ_QCNT_B.a (n : Nat) : Nat := 0x0400024 + 0x100 * n
def SEQ_QCNT_B.cancelled : Fld := ⟨31, 16⟩
def SEQ_QCNT_B.refused : Fld := ⟨15, 0⟩

/-! ### 07_parse_classify.md -/

/-- CLS_TPL_CFG. -/
def CLS_TPL_CFG.a (p n : Nat) : Nat := 0x0801000 + 0x400000 * p + 0x100 * n
def CLS_TPL_CFG.valid : Fld := ⟨31, 31⟩
def CLS_TPL_CFG.l3_kind : Fld := ⟨30, 29⟩
def CLS_TPL_CFG.l4_off : Fld := ⟨28, 21⟩
def CLS_TPL_CFG.ethertype : Fld := ⟨15, 0⟩
/-- CLS_TPL_LEN. -/
def CLS_TPL_LEN.a (p n : Nat) : Nat := 0x0801004 + 0x400000 * p + 0x100 * n
def CLS_TPL_LEN.hint_src : Fld := ⟨31, 30⟩
def CLS_TPL_LEN.hint_off : Fld := ⟨29, 22⟩
def CLS_TPL_LEN.hint_add : Fld := ⟨21, 14⟩
def CLS_TPL_LEN.min_l3 : Fld := ⟨7, 0⟩
/-- CLS_TPL_DP. -/
def CLS_TPL_DP.a (p n : Nat) : Nat := 0x0801008 + 0x400000 * p + 0x100 * n
def CLS_TPL_DP.dp2 : Fld := ⟨23, 16⟩
def CLS_TPL_DP.dp1 : Fld := ⟨15, 8⟩
def CLS_TPL_DP.dp0 : Fld := ⟨7, 0⟩
/-- CLS_TPL_DP_SH. -/
def CLS_TPL_DP_SH.a (p n : Nat) : Nat := 0x080100c + 0x400000 * p + 0x100 * n
def CLS_TPL_DP_SH.dp2 : Fld := ⟨23, 16⟩
def CLS_TPL_DP_SH.dp1 : Fld := ⟨15, 8⟩
def CLS_TPL_DP_SH.dp0 : Fld := ⟨7, 0⟩
/-- CLS_FLD_DESC. -/
def CLS_FLD_DESC.a (p n k : Nat) : Nat := 0x0801040 + 0x400000 * p + 0x100 * n + 0x8 * k
def CLS_FLD_DESC.valid : Fld := ⟨31, 31⟩
def CLS_FLD_DESC.base : Fld := ⟨30, 29⟩
def CLS_FLD_DESC.offset : Fld := ⟨28, 21⟩
def CLS_FLD_DESC.width : Fld := ⟨20, 19⟩
def CLS_FLD_DESC.shift : Fld := ⟨18, 14⟩
/-- CLS_FLD_MASK. -/
def CLS_FLD_MASK.a (p n k : Nat) : Nat := 0x0801044 + 0x400000 * p + 0x100 * n + 0x8 * k
def CLS_FLD_MASK.mask : Fld := ⟨31, 0⟩
/-- CLS_DEFAULT. -/
def CLS_DEFAULT.a (p : Nat) : Nat := 0x0802000 + 0x400000 * p
def CLS_DEFAULT.verdict : Fld := ⟨30, 28⟩
def CLS_DEFAULT.action : Fld := ⟨27, 0⟩
/-- CLS_DEFAULT_GRP. -/
def CLS_DEFAULT_GRP.a (p : Nat) : Nat := 0x0802004 + 0x400000 * p
def CLS_DEFAULT_GRP.sedge_grp : Fld := ⟨7, 0⟩
/-- CLS_DROP_CNT. -/
def CLS_DROP_CNT.a (p n : Nat) : Nat := 0x0802040 + 0x400000 * p + 0x4 * n
def CLS_DROP_CNT.count : Fld := ⟨31, 0⟩
/-- CLS_EXC_CNT. -/
def CLS_EXC_CNT.a (p n : Nat) : Nat := 0x0802080 + 0x400000 * p + 0x4 * n
def CLS_EXC_CNT.count : Fld := ⟨31, 0⟩
/-- CLS_BANK_CTRL. -/
def CLS_BANK_CTRL.a (p : Nat) : Nat := 0x0802010 + 0x400000 * p
def CLS_BANK_CTRL.swap : Fld := ⟨0, 0⟩
/-- CLS_BANK_STAT. -/
def CLS_BANK_STAT.a (p : Nat) : Nat := 0x0802014 + 0x400000 * p
def CLS_BANK_STAT.wr_busy : Fld := ⟨31, 31⟩
def CLS_BANK_STAT.swap_refused : Fld := ⟨30, 30⟩
def CLS_BANK_STAT.state1 : Fld := ⟨27, 26⟩
def CLS_BANK_STAT.state0 : Fld := ⟨25, 24⟩
def CLS_BANK_STAT.active : Fld := ⟨16, 16⟩
def CLS_BANK_STAT.drain_count : Fld := ⟨15, 0⟩

/-! ### 08_tables_learning.md -/

/-- FDB_PORT_CFG. -/
def FDB_PORT_CFG.a (p n : Nat) : Nat := 0x0803400 + 0x400000 * p + 0x4 * n
def FDB_PORT_CFG.learn_en : Fld := ⟨31, 31⟩
def FDB_PORT_CFG.lag_en : Fld := ⟨30, 30⟩
def FDB_PORT_CFG.lag : Fld := ⟨29, 27⟩
def FDB_PORT_CFG.pvid : Fld := ⟨11, 0⟩
/-- FLW_PORT_CFG. -/
def FLW_PORT_CFG.a (p n : Nat) : Nat := 0x0803480 + 0x400000 * p + 0x4 * n
def FLW_PORT_CFG.miss_drop : Fld := ⟨2, 2⟩
def FLW_PORT_CFG.key_kind : Fld := ⟨1, 0⟩
/-- FDB_VLAN_MEM. -/
def FDB_VLAN_MEM.a (p n : Nat) : Nat := 0x0808000 + 0x400000 * p + 0x8 * n
def FDB_VLAN_MEM.members : Fld := ⟨27, 0⟩
/-- FDB_VLAN_CFG. -/
def FDB_VLAN_CFG.a (p n : Nat) : Nat := 0x0808004 + 0x400000 * p + 0x8 * n
def FDB_VLAN_CFG.learn_en : Fld := ⟨31, 31⟩
def FDB_VLAN_CFG.filter : Fld := ⟨30, 30⟩
def FDB_VLAN_CFG.miss : Fld := ⟨29, 28⟩
/-- FDB_MGRP. -/
def FDB_MGRP.a (p n : Nat) : Nat := 0x0804000 + 0x400000 * p + 0x4 * n
def FDB_MGRP.ports : Fld := ⟨27, 0⟩
/-- FDB_AGE_CFG. -/
def FDB_AGE_CFG.a (p : Nat) : Nat := 0x0803500 + 0x400000 * p
def FDB_AGE_CFG.age_en : Fld := ⟨31, 31⟩
def FDB_AGE_CFG.period : Fld := ⟨15, 0⟩
/-- FDB_MOVE_CFG. -/
def FDB_MOVE_CFG.a (p : Nat) : Nat := 0x0803504 + 0x400000 * p
def FDB_MOVE_CFG.move_max : Fld := ⟨27, 24⟩
def FDB_MOVE_CFG.move_win : Fld := ⟨23, 12⟩
def FDB_MOVE_CFG.freeze_time : Fld := ⟨11, 0⟩
/-- FDB_LEARN_CFG. -/
def FDB_LEARN_CFG.a (p : Nat) : Nat := 0x0803508 + 0x400000 * p
def FDB_LEARN_CFG.notify_en : Fld := ⟨0, 0⟩
/-- FDB_PAR_LOC. -/
def FDB_PAR_LOC.a (p : Nat) : Nat := 0x0803520 + 0x400000 * p
def FDB_PAR_LOC.valid : Fld := ⟨31, 31⟩
def FDB_PAR_LOC.loc : Fld := ⟨14, 0⟩
/-- FLW_PAR_LOC. -/
def FLW_PAR_LOC.a (p : Nat) : Nat := 0x0803524 + 0x400000 * p
def FLW_PAR_LOC.valid : Fld := ⟨31, 31⟩
def FLW_PAR_LOC.loc : Fld := ⟨14, 0⟩
/-- FDB_STAT. -/
def FDB_STAT.a (p : Nat) : Nat := 0x0803528 + 0x400000 * p
def FDB_STAT.static_cnt : Fld := ⟨31, 16⟩
def FDB_STAT.learned_cnt : Fld := ⟨15, 0⟩
/-- FDB_CNT. -/
def FDB_CNT.a (p n : Nat) : Nat := 0x0803600 + 0x400000 * p + 0x4 * n
def FDB_CNT.count : Fld := ⟨31, 0⟩

/-! ### 09_switch_core_buffers.md -/

/-- QM_POOL. -/
def QM_POOL.a : Nat := 0x1000000
def QM_POOL.free : Fld := ⟨31, 16⟩
def QM_POOL.min_free : Fld := ⟨15, 1⟩
def QM_POOL.err : Fld := ⟨0, 0⟩
/-- QM_SPILL_CFG. -/
def QM_SPILL_CFG.a : Nat := 0x1000004
def QM_SPILL_CFG.spill_hi : Fld := ⟨31, 16⟩
def QM_SPILL_CFG.spill_lo : Fld := ⟨15, 0⟩
/-- QM_PEAT_CFG. -/
def QM_PEAT_CFG.a : Nat := 0x1000008
def QM_PEAT_CFG.peat_en : Fld := ⟨31, 31⟩
def QM_PEAT_CFG.base_mib : Fld := ⟨28, 16⟩
def QM_PEAT_CFG.size_mib : Fld := ⟨10, 0⟩
/-- QM_PEAT_STAT. -/
def QM_PEAT_STAT.a : Nat := 0x100000c
def QM_PEAT_STAT.link_fault : Fld := ⟨31, 31⟩
def QM_PEAT_STAT.lost : Fld := ⟨30, 23⟩
def QM_PEAT_STAT.used : Fld := ⟨22, 0⟩
/-- QM_DESC_STAT. -/
def QM_DESC_STAT.a : Nat := 0x1000010
def QM_DESC_STAT.desc_free : Fld := ⟨31, 16⟩
def QM_DESC_STAT.qent_free : Fld := ⟨15, 0⟩
/-- QM_MERE_ECC. -/
def QM_MERE_ECC.a : Nat := 0x1000014
def QM_MERE_ECC.uncorr : Fld := ⟨31, 16⟩
def QM_MERE_ECC.corr : Fld := ⟨15, 0⟩
/-- QM_REFILL_CFG. -/
def QM_REFILL_CFG.a : Nat := 0x1000018
def QM_REFILL_CFG.refill_min : Fld := ⟨6, 0⟩
/-- QM_LAG_SEL. -/
def QM_LAG_SEL.a : Nat := 0x100001c
def QM_LAG_SEL.l4_en : Fld := ⟨2, 2⟩
def QM_LAG_SEL.l3_en : Fld := ⟨1, 1⟩
def QM_LAG_SEL.vid_en : Fld := ⟨0, 0⟩
/-- QM_PORT_CFG. -/
def QM_PORT_CFG.a (n : Nat) : Nat := 0x1000040 + 0x40 * n
def QM_PORT_CFG.spill_en : Fld := ⟨31, 24⟩
def QM_PORT_CFG.exp_en : Fld := ⟨23, 16⟩
def QM_PORT_CFG.exp_reserve : Fld := ⟨11, 0⟩
/-- QM_PORT_ALPHA. -/
def QM_PORT_ALPHA.a (n : Nat) : Nat := 0x1000044 + 0x40 * n
def QM_PORT_ALPHA.code : Fld := ⟨31, 0⟩
/-- QM_PORT_PCPMAP. -/
def QM_PORT_PCPMAP.a (n : Nat) : Nat := 0x1000048 + 0x40 * n
def QM_PORT_PCPMAP.map : Fld := ⟨23, 0⟩
/-- QM_PORT_MIR. -/
def QM_PORT_MIR.a (n : Nat) : Nat := 0x100004c + 0x40 * n
def QM_PORT_MIR.rx_en : Fld := ⟨31, 31⟩
def QM_PORT_MIR.rx_sess : Fld := ⟨30, 28⟩
def QM_PORT_MIR.tx_en : Fld := ⟨27, 27⟩
def QM_PORT_MIR.tx_sess : Fld := ⟨26, 24⟩
/-- QM_TAIL_CNT. -/
def QM_TAIL_CNT.a (n k : Nat) : Nat := 0x1000050 + 0x40 * n + 0x4 * k
def QM_TAIL_CNT.count : Fld := ⟨31, 0⟩
/-- QM_ADM_DROP. -/
def QM_ADM_DROP.a (n : Nat) : Nat := 0x1000060 + 0x40 * n
def QM_ADM_DROP.count : Fld := ⟨31, 0⟩
/-- QM_PORT_OCC. -/
def QM_PORT_OCC.a (n : Nat) : Nat := 0x1000064 + 0x40 * n
def QM_PORT_OCC.mere_cells : Fld := ⟨31, 16⟩
def QM_PORT_OCC.reserve_used : Fld := ⟨11, 0⟩
/-- QM_MIR_CFG. -/
def QM_MIR_CFG.a (n : Nat) : Nat := 0x1000800 + 0x4 * n
def QM_MIR_CFG.en : Fld := ⟨31, 31⟩
def QM_MIR_CFG.trunc : Fld := ⟨30, 30⟩
def QM_MIR_CFG.port : Fld := ⟨20, 16⟩
def QM_MIR_CFG.min_free : Fld := ⟨15, 0⟩
/-- QM_MIR_DROP. -/
def QM_MIR_DROP.a (n : Nat) : Nat := 0x1000820 + 0x4 * n
def QM_MIR_DROP.count : Fld := ⟨31, 0⟩
/-- QM_LAG_CFG. -/
def QM_LAG_CFG.a (n : Nat) : Nat := 0x1000900 + 0x4 * n
def QM_LAG_CFG.mem_en : Fld := ⟨31, 28⟩
def QM_LAG_CFG.m3 : Fld := ⟨19, 15⟩
def QM_LAG_CFG.m2 : Fld := ⟨14, 10⟩
def QM_LAG_CFG.m1 : Fld := ⟨9, 5⟩
def QM_LAG_CFG.m0 : Fld := ⟨4, 0⟩

/-! ### 10_traffic_control.md -/

/-- SLU_PORT_CFG. -/
def SLU_PORT_CFG.a (n : Nat) : Nat := 0x1004000 + 0x40 * n
def SLU_PORT_CFG.mode : Fld := ⟨31, 31⟩
def SLU_PORT_CFG.pre_fill : Fld := ⟨30, 30⟩
def SLU_PORT_CFG.sched_mask : Fld := ⟨23, 16⟩
def SLU_PORT_CFG.guard : Fld := ⟨15, 0⟩
/-- SLU_GATE. -/
def SLU_GATE.a (n : Nat) : Nat := 0x1004004 + 0x40 * n
def SLU_GATE.hold : Fld := ⟨8, 8⟩
def SLU_GATE.gate : Fld := ⟨7, 0⟩
/-- SLU_LAUNCH_CFG. -/
def SLU_LAUNCH_CFG.a (n : Nat) : Nat := 0x1004008 + 0x40 * n
def SLU_LAUNCH_CFG.seq_hold : Fld := ⟨31, 24⟩
def SLU_LAUNCH_CFG.late_max : Fld := ⟨15, 0⟩
/-- SLU_QSDU. -/
def SLU_QSDU.a (n k : Nat) : Nat := 0x1004010 + 0x40 * n + 0x4 * k
def SLU_QSDU.sdu_odd : Fld := ⟨29, 16⟩
def SLU_QSDU.sdu_even : Fld := ⟨13, 0⟩
/-- SHP_PORT_CFG. -/
def SHP_PORT_CFG.a (n : Nat) : Nat := 0x1002000 + 0x100 * n
def SHP_PORT_CFG.preempt_en : Fld := ⟨31, 31⟩
def SHP_PORT_CFG.verify_en : Fld := ⟨30, 30⟩
def SHP_PORT_CFG.sp_mask : Fld := ⟨23, 16⟩
def SHP_PORT_CFG.pre_state : Fld := ⟨1, 0⟩
/-- SHP_WFQ_LO. -/
def SHP_WFQ_LO.a (n : Nat) : Nat := 0x1002004 + 0x100 * n
def SHP_WFQ_LO.weight : Fld := ⟨31, 0⟩
/-- SHP_WFQ_HI. -/
def SHP_WFQ_HI.a (n : Nat) : Nat := 0x1002008 + 0x100 * n
def SHP_WFQ_HI.weight : Fld := ⟨31, 0⟩
/-- SHP_CBS. -/
def SHP_CBS.a (n k : Nat) : Nat := 0x1002010 + 0x100 * n + 0x4 * k
def SHP_CBS.cbs_en : Fld := ⟨31, 31⟩
def SHP_CBS.idle_slope : Fld := ⟨30, 0⟩
/-- SHP_CREDIT. -/
def SHP_CREDIT.a (n k : Nat) : Nat := 0x1002030 + 0x100 * n + 0x4 * k
def SHP_CREDIT.credit : Fld := ⟨31, 0⟩
/-- SHP_RES. -/
def SHP_RES.a (n k : Nat) : Nat := 0x1002050 + 0x100 * n + 0x4 * k
def SHP_RES.may_starve : Fld := ⟨31, 31⟩
def SHP_RES.res_max : Fld := ⟨14, 0⟩
/-- SHP_CNT. -/
def SHP_CNT.a (n k : Nat) : Nat := 0x1002080 + 0x100 * n + 0x4 * k
def SHP_CNT.count : Fld := ⟨31, 0⟩
/-- POL_METER_CFG. -/
def POL_METER_CFG.a (p n : Nat) : Nat := 0x0820000 + 0x400000 * p + 0x10 * n
def POL_METER_CFG.en : Fld := ⟨31, 31⟩
def POL_METER_CFG.rate : Fld := ⟨30, 0⟩
/-- POL_METER_BURST. -/
def POL_METER_BURST.a (p n : Nat) : Nat := 0x0820004 + 0x400000 * p + 0x10 * n
def POL_METER_BURST.burst : Fld := ⟨23, 0⟩
/-- POL_METER_TOK. -/
def POL_METER_TOK.a (p n : Nat) : Nat := 0x0820008 + 0x400000 * p + 0x10 * n
def POL_METER_TOK.tokens : Fld := ⟨31, 0⟩
/-- POL_METER_DROP. -/
def POL_METER_DROP.a (p n : Nat) : Nat := 0x082000c + 0x400000 * p + 0x10 * n
def POL_METER_DROP.count : Fld := ⟨31, 0⟩

/-! ### 11_macsec_cipher_pool.md -/

/-- CIP_PORT_CFG. -/
def CIP_PORT_CFG.a (n : Nat) : Nat := 0x1800000 + 0x20 * n
def CIP_PORT_CFG.macsec_en : Fld := ⟨31, 31⟩
def CIP_PORT_CFG.vbf : Fld := ⟨30, 30⟩
def CIP_PORT_CFG.validate : Fld := ⟨29, 29⟩
def CIP_PORT_CFG.protect : Fld := ⟨28, 28⟩
def CIP_PORT_CFG.include_sci : Fld := ⟨27, 27⟩
def CIP_PORT_CFG.use_es : Fld := ⟨26, 26⟩
def CIP_PORT_CFG.conf_off : Fld := ⟨25, 24⟩
def CIP_PORT_CFG.replay_en : Fld := ⟨23, 23⟩
def CIP_PORT_CFG.imp_en : Fld := ⟨15, 15⟩
def CIP_PORT_CFG.imp_sc : Fld := ⟨14, 8⟩
/-- CIP_PORT_WIN. -/
def CIP_PORT_WIN.a (n : Nat) : Nat := 0x1800004 + 0x20 * n
def CIP_PORT_WIN.window : Fld := ⟨31, 0⟩
/-- CIP_PORT_BYPASS. -/
def CIP_PORT_BYPASS.a (n : Nat) : Nat := 0x1800008 + 0x20 * n
def CIP_PORT_BYPASS.etype1 : Fld := ⟨31, 16⟩
def CIP_PORT_BYPASS.etype0 : Fld := ⟨15, 0⟩
/-- CIP_TXSC. -/
def CIP_TXSC.a (n : Nat) : Nat := 0x180000c + 0x20 * n
def CIP_TXSC.an_valid : Fld := ⟨11, 8⟩
def CIP_TXSC.an_exh : Fld := ⟨7, 4⟩
def CIP_TXSC.no_sa : Fld := ⟨2, 2⟩
def CIP_TXSC.enc_an : Fld := ⟨1, 0⟩
/-- CIP_TXSCI_LO. -/
def CIP_TXSCI_LO.a (n : Nat) : Nat := 0x1800010 + 0x20 * n
def CIP_TXSCI_LO.sci : Fld := ⟨31, 0⟩
/-- CIP_TXSCI_HI. -/
def CIP_TXSCI_HI.a (n : Nat) : Nat := 0x1800014 + 0x20 * n
def CIP_TXSCI_HI.sci : Fld := ⟨31, 0⟩
/-- CIP_RXSC_SCI_LO. -/
def CIP_RXSC_SCI_LO.a (n : Nat) : Nat := 0x1801000 + 0x10 * n
def CIP_RXSC_SCI_LO.sci : Fld := ⟨31, 0⟩
/-- CIP_RXSC_SCI_HI. -/
def CIP_RXSC_SCI_HI.a (n : Nat) : Nat := 0x1801004 + 0x10 * n
def CIP_RXSC_SCI_HI.sci : Fld := ⟨31, 0⟩
/-- CIP_RXSC_CFG. -/
def CIP_RXSC_CFG.a (n : Nat) : Nat := 0x1801008 + 0x10 * n
def CIP_RXSC_CFG.en : Fld := ⟨31, 31⟩
def CIP_RXSC_CFG.port : Fld := ⟨28, 24⟩
def CIP_RXSC_CFG.an_valid : Fld := ⟨3, 0⟩
/-- CIP_POOL_CFG. -/
def CIP_POOL_CFG.a : Nat := 0x1802000
def CIP_POOL_CFG.thr_exp : Fld := ⟨5, 0⟩
/-- CIP_POOL_STAT. -/
def CIP_POOL_STAT.a : Nat := 0x1802004
def CIP_POOL_STAT.sa_free : Fld := ⟨25, 16⟩
def CIP_POOL_STAT.oos : Fld := ⟨15, 0⟩
/-- CIP_ALARM_CFG. -/
def CIP_ALARM_CFG.a : Nat := 0x1802010
def CIP_ALARM_CFG.dbg_en : Fld := ⟨3, 3⟩
def CIP_ALARM_CFG.clk_en : Fld := ⟨2, 2⟩
def CIP_ALARM_CFG.sup_en : Fld := ⟨1, 1⟩
def CIP_ALARM_CFG.pin_en : Fld := ⟨0, 0⟩
/-- CIP_ALARM_CTRL. -/
def CIP_ALARM_CTRL.a : Nat := 0x1802018
def CIP_ALARM_CTRL.erase : Fld := ⟨0, 0⟩
/-- CIP_ALARM_STAT. -/
def CIP_ALARM_STAT.a : Nat := 0x180201c
def CIP_ALARM_STAT.latched : Fld := ⟨31, 31⟩
def CIP_ALARM_STAT.erasing : Fld := ⟨30, 30⟩
def CIP_ALARM_STAT.first_src : Fld := ⟨18, 16⟩
def CIP_ALARM_STAT.active : Fld := ⟨4, 0⟩
/-- CIP_CJOB_BASE. -/
def CIP_CJOB_BASE.a : Nat := 0x1802100
def CIP_CJOB_BASE.base : Fld := ⟨31, 0⟩
/-- CIP_CJOB_SIZE. -/
def CIP_CJOB_SIZE.a : Nat := 0x1802104
def CIP_CJOB_SIZE.size : Fld := ⟨10, 0⟩
/-- CIP_CJOB_TAIL. -/
def CIP_CJOB_TAIL.a : Nat := 0x1802108
def CIP_CJOB_TAIL.tail : Fld := ⟨9, 0⟩
/-- CIP_CJOB_HEAD. -/
def CIP_CJOB_HEAD.a : Nat := 0x180210c
def CIP_CJOB_HEAD.head : Fld := ⟨9, 0⟩

/-! ### 12_ethernet_ports.md -/

/-- ETH_PORT_CFG. -/
def ETH_PORT_CFG.a (n : Nat) : Nat := 0x1400000 + 0x100 * n
def ETH_PORT_CFG.en : Fld := ⟨31, 31⟩
def ETH_PORT_CFG.rf_down : Fld := ⟨30, 30⟩
def ETH_PORT_CFG.frame_max : Fld := ⟨13, 0⟩
/-- ETH_PORT_MODE. -/
def ETH_PORT_MODE.a (n : Nat) : Nat := 0x1400004 + 0x100 * n
def ETH_PORT_MODE.prbs : Fld := ⟨9, 8⟩
def ETH_PORT_MODE.lpbk : Fld := ⟨5, 4⟩
def ETH_PORT_MODE.mode : Fld := ⟨3, 0⟩
/-- ETH_PORT_EDIT. -/
def ETH_PORT_EDIT.a (n : Nat) : Nat := 0x1400008 + 0x100 * n
def ETH_PORT_EDIT.untag_en : Fld := ⟨31, 31⟩
def ETH_PORT_EDIT.tag_add : Fld := ⟨30, 30⟩
def ETH_PORT_EDIT.untag_vid : Fld := ⟨11, 0⟩
/-- ETH_PORT_LINK. -/
def ETH_PORT_LINK.a (n : Nat) : Nat := 0x140000c + 0x100 * n
def ETH_PORT_LINK.up_hold : Fld := ⟨31, 16⟩
def ETH_PORT_LINK.down_hold : Fld := ⟨15, 0⟩
/-- ETH_PORT_STAT. -/
def ETH_PORT_STAT.a (n : Nat) : Nat := 0x1400010 + 0x100 * n
def ETH_PORT_STAT.link : Fld := ⟨31, 31⟩
def ETH_PORT_STAT.ready : Fld := ⟨30, 30⟩
def ETH_PORT_STAT.local_fault : Fld := ⟨29, 29⟩
def ETH_PORT_STAT.remote_fault : Fld := ⟨28, 28⟩
def ETH_PORT_STAT.active_mode : Fld := ⟨27, 24⟩
def ETH_PORT_STAT.inband : Fld := ⟨15, 0⟩
/-- ETH_PORT_PRBS. -/
def ETH_PORT_PRBS.a (n : Nat) : Nat := 0x1400014 + 0x100 * n
def ETH_PORT_PRBS.locked : Fld := ⟨31, 31⟩
def ETH_PORT_PRBS.errors : Fld := ⟨30, 0⟩
/-- ETH_T1S_PLCA. -/
def ETH_T1S_PLCA.a (n : Nat) : Nat := 0x1400020 + 0x100 * n
def ETH_T1S_PLCA.plca_en : Fld := ⟨31, 31⟩
def ETH_T1S_PLCA.node_id : Fld := ⟨23, 16⟩
def ETH_T1S_PLCA.node_count : Fld := ⟨15, 8⟩
def ETH_T1S_PLCA.to_timer : Fld := ⟨7, 0⟩
/-- ETH_T1S_BURST. -/
def ETH_T1S_BURST.a (n : Nat) : Nat := 0x1400024 + 0x100 * n
def ETH_T1S_BURST.burst_cnt : Fld := ⟨15, 8⟩
def ETH_T1S_BURST.burst_tmr : Fld := ⟨7, 0⟩
/-- ETH_T1S_STAT. -/
def ETH_T1S_STAT.a (n : Nat) : Nat := 0x1400028 + 0x100 * n
def ETH_T1S_STAT.plca_status : Fld := ⟨31, 31⟩
def ETH_T1S_STAT.cur_id : Fld := ⟨7, 0⟩
/-- ETH_MDIO_CFG. -/
def ETH_MDIO_CFG.a (n : Nat) : Nat := 0x1402000 + 0x10 * n
def ETH_MDIO_CFG.pre_sup : Fld := ⟨31, 31⟩
def ETH_MDIO_CFG.mdc_div : Fld := ⟨7, 0⟩
/-- ETH_HRX_MAP. -/
def ETH_HRX_MAP.a : Nat := 0x1408c00
def ETH_HRX_MAP.ring : Fld := ⟨31, 0⟩
/-- ETH_CRX_MAP. -/
def ETH_CRX_MAP.a : Nat := 0x1408c04
def ETH_CRX_MAP.ring : Fld := ⟨15, 0⟩

/-! ### 13_legacy_bus_gateway.md -/

/-- CAN_CFG. -/
def CAN_CFG.a (n : Nat) : Nat := 0x1a00000 + 0x100 * n
def CAN_CFG.en : Fld := ⟨31, 31⟩
def CAN_CFG.fd_en : Fld := ⟨30, 30⟩
def CAN_CFG.xl_en : Fld := ⟨29, 29⟩
def CAN_CFG.xl_sic : Fld := ⟨28, 28⟩
def CAN_CFG.listen : Fld := ⟨27, 27⟩
def CAN_CFG.ignore : Fld := ⟨26, 26⟩
def CAN_CFG.bo_auto : Fld := ⟨25, 25⟩
def CAN_CFG.rx_evt_en : Fld := ⟨24, 24⟩
def CAN_CFG.gw_seq : Fld := ⟨18, 16⟩
def CAN_CFG.tdco : Fld := ⟨15, 8⟩
/-- CAN_NBT. -/
def CAN_NBT.a (n : Nat) : Nat := 0x1a00004 + 0x100 * n
def CAN_NBT.sjw : Fld := ⟨31, 24⟩
def CAN_NBT.tseg1 : Fld := ⟨23, 16⟩
def CAN_NBT.tseg2 : Fld := ⟨15, 8⟩
def CAN_NBT.brp : Fld := ⟨7, 0⟩
/-- CAN_DBT. -/
def CAN_DBT.a (n : Nat) : Nat := 0x1a00008 + 0x100 * n
def CAN_DBT.sjw : Fld := ⟨31, 24⟩
def CAN_DBT.tseg1 : Fld := ⟨23, 16⟩
def CAN_DBT.tseg2 : Fld := ⟨15, 8⟩
def CAN_DBT.brp : Fld := ⟨7, 0⟩
/-- CAN_CTRL. -/
def CAN_CTRL.a (n : Nat) : Nat := 0x1a0000c + 0x100 * n
def CAN_CTRL.restart : Fld := ⟨0, 0⟩
/-- CAN_BUF_CMD. -/
def CAN_BUF_CMD.a (n : Nat) : Nat := 0x1a00010 + 0x100 * n
def CAN_BUF_CMD.op : Fld := ⟨31, 30⟩
def CAN_BUF_CMD.buf : Fld := ⟨5, 0⟩
/-- CAN_STAT. -/
def CAN_STAT.a (n : Nat) : Nat := 0x1a00014 + 0x100 * n
def CAN_STAT.state : Fld := ⟨31, 30⟩
def CAN_STAT.pn_err : Fld := ⟨29, 24⟩
def CAN_STAT.rec : Fld := ⟨23, 16⟩
def CAN_STAT.tec : Fld := ⟨15, 8⟩
def CAN_STAT.gwq_used : Fld := ⟨5, 0⟩
/-- CAN_WUF_ID. -/
def CAN_WUF_ID.a (n : Nat) : Nat := 0x1a00040 + 0x100 * n
def CAN_WUF_ID.wuf_ide : Fld := ⟨31, 31⟩
def CAN_WUF_ID.id : Fld := ⟨28, 0⟩
/-- CAN_WUF_IDM. -/
def CAN_WUF_IDM.a (n : Nat) : Nat := 0x1a00044 + 0x100 * n
def CAN_WUF_IDM.wuf_ide : Fld := ⟨31, 31⟩
def CAN_WUF_IDM.id : Fld := ⟨28, 0⟩
/-- CAN_WUF_CFG. -/
def CAN_WUF_CFG.a (n : Nat) : Nat := 0x1a00048 + 0x100 * n
def CAN_WUF_CFG.wuf_en : Fld := ⟨31, 31⟩
def CAN_WUF_CFG.data_en : Fld := ⟨30, 30⟩
def CAN_WUF_CFG.wuf_dlc : Fld := ⟨3, 0⟩
/-- CAN_WUF_DATA_LO. -/
def CAN_WUF_DATA_LO.a (n : Nat) : Nat := 0x1a0004c + 0x100 * n
def CAN_WUF_DATA_LO.mask : Fld := ⟨31, 0⟩
/-- CAN_WUF_DATA_HI. -/
def CAN_WUF_DATA_HI.a (n : Nat) : Nat := 0x1a00050 + 0x100 * n
def CAN_WUF_DATA_HI.mask : Fld := ⟨31, 0⟩
/-- CAN_CNT. -/
def CAN_CNT.a (n k : Nat) : Nat := 0x1a00080 + 0x100 * n + 0x4 * k
def CAN_CNT.count : Fld := ⟨31, 0⟩
/-- LIN_CFG. -/
def LIN_CFG.a (n : Nat) : Nat := 0x1a02000 + 0x100 * n
def LIN_CFG.en : Fld := ⟨31, 31⟩
def LIN_CFG.commander : Fld := ⟨30, 30⟩
def LIN_CFG.gw_seq : Fld := ⟨29, 27⟩
def LIN_CFG.brk_len : Fld := ⟨26, 22⟩
def LIN_CFG.baud : Fld := ⟨14, 0⟩
/-- LIN_SCHED. -/
def LIN_SCHED.a (n : Nat) : Nat := 0x1a02004 + 0x100 * n
def LIN_SCHED.run : Fld := ⟨31, 31⟩
def LIN_SCHED.count : Fld := ⟨17, 12⟩
def LIN_SCHED.unit : Fld := ⟨11, 0⟩
/-- LIN_STAT. -/
def LIN_STAT.a (n : Nat) : Nat := 0x1a02008 + 0x100 * n
def LIN_STAT.cur_id : Fld := ⟨25, 20⟩
def LIN_STAT.last_err : Fld := ⟨19, 16⟩
def LIN_STAT.err_cnt : Fld := ⟨15, 8⟩
def LIN_STAT.slot_short : Fld := ⟨7, 0⟩
/-- GW_POOL. -/
def GW_POOL.a : Nat := 0x1a04000
def GW_POOL.hi : Fld := ⟨27, 16⟩
def GW_POOL.lo : Fld := ⟨11, 0⟩
/-- GW_CNT. -/
def GW_CNT.a (n : Nat) : Nat := 0x1a04040 + 0x4 * n
def GW_CNT.count : Fld := ⟨31, 0⟩

/-! ### 14_carr_compute.md -/

/-- CPX_CFG. -/
def CPX_CFG.a : Nat := 0x1e00000
def CPX_CFG.mode : Fld := ⟨31, 31⟩
def CPX_CFG.skew : Fld := ⟨21, 16⟩
def CPX_CFG.win_len : Fld := ⟨15, 0⟩
/-- CPX_STAT. -/
def CPX_STAT.a : Nat := 0x1e00008
def CPX_STAT.state : Fld := ⟨30, 28⟩
def CPX_STAT.mode_active : Fld := ⟨27, 27⟩
def CPX_STAT.skew_active : Fld := ⟨21, 16⟩
def CPX_STAT.odd : Fld := ⟨11, 10⟩
def CPX_STAT.pos2 : Fld := ⟨5, 4⟩
def CPX_STAT.pos1 : Fld := ⟨3, 2⟩
def CPX_STAT.pos0 : Fld := ⟨1, 0⟩
/-- CPX_MM. -/
def CPX_MM.a : Nat := 0x1e00010
def CPX_MM.valid : Fld := ⟨31, 31⟩
def CPX_MM.kind : Fld := ⟨30, 28⟩
def CPX_MM.core : Fld := ⟨27, 26⟩
def CPX_MM.src : Fld := ⟨25, 24⟩
/-- CPX_MM_ADDR. -/
def CPX_MM_ADDR.a : Nat := 0x1e00014
def CPX_MM_ADDR.addr : Fld := ⟨31, 0⟩
/-- CPX_CNT. -/
def CPX_CNT.a (n : Nat) : Nat := 0x1e00020 + 0x4 * n
def CPX_CNT.count : Fld := ⟨31, 0⟩
/-- CPX_SRAM_ECC. -/
def CPX_SRAM_ECC.a : Nat := 0x1e00034
def CPX_SRAM_ECC.uncorr : Fld := ⟨31, 16⟩
def CPX_SRAM_ECC.corr : Fld := ⟨15, 0⟩
/-- CPX_DOORBELL. -/
def CPX_DOORBELL.a : Nat := 0x1e00040
def CPX_DOORBELL.ring : Fld := ⟨31, 0⟩
/-- MEM_ECC_CNT. -/
def MEM_ECC_CNT.a : Nat := 0x1f00100
def MEM_ECC_CNT.uncorr : Fld := ⟨31, 16⟩
def MEM_ECC_CNT.corr : Fld := ⟨15, 0⟩
/-- MEM_ECC_ADDR. -/
def MEM_ECC_ADDR.a : Nat := 0x1f00104
def MEM_ECC_ADDR.valid : Fld := ⟨31, 31⟩
def MEM_ECC_ADDR.addr : Fld := ⟨26, 0⟩
/-- MEM_SCRUB_CFG. -/
def MEM_SCRUB_CFG.a : Nat := 0x1f00108
def MEM_SCRUB_CFG.scrub_en : Fld := ⟨31, 31⟩
def MEM_SCRUB_CFG.period : Fld := ⟨15, 0⟩
/-- MEM_TRAIN_CFG. -/
def MEM_TRAIN_CFG.a : Nat := 0x1f0010c
def MEM_TRAIN_CFG.train_en : Fld := ⟨31, 31⟩
def MEM_TRAIN_CFG.temp_step : Fld := ⟨23, 16⟩
def MEM_TRAIN_CFG.interval : Fld := ⟨15, 0⟩
/-- MEM_STAT. -/
def MEM_STAT.a : Nat := 0x1f00110
def MEM_STAT.link_ok : Fld := ⟨31, 31⟩
def MEM_STAT.training : Fld := ⟨30, 30⟩
def MEM_STAT.self_refresh : Fld := ⟨29, 29⟩
def MEM_STAT.train_cnt : Fld := ⟨15, 0⟩

/-! ### 15_redundancy_pairing.md -/

/-- FRE_CFG. -/
def FRE_CFG.a : Nat := 0x1007f00
def FRE_CFG.lat_period : Fld := ⟨31, 16⟩
def FRE_CFG.reset_ms : Fld := ⟨15, 0⟩
/-- FRE_LAT_RESET. -/
def FRE_LAT_RESET.a : Nat := 0x1007f04
def FRE_LAT_RESET.lat_reset : Fld := ⟨15, 0⟩
/-- FRE_STR_CFG. -/
def FRE_STR_CFG.a (n : Nat) : Nat := 0x1008000 + 0x10 * n
def FRE_STR_CFG.rcv_en : Fld := ⟨31, 31⟩
def FRE_STR_CFG.gen_en : Fld := ⟨30, 30⟩
def FRE_STR_CFG.take_no_seq : Fld := ⟨29, 29⟩
def FRE_STR_CFG.lat_en : Fld := ⟨28, 28⟩
def FRE_STR_CFG.hist_len : Fld := ⟨21, 16⟩
def FRE_STR_CFG.paths : Fld := ⟨15, 12⟩
def FRE_STR_CFG.lat_diff : Fld := ⟨11, 0⟩
/-- FRE_STR_ENC. -/
def FRE_STR_ENC.a (n : Nat) : Nat := 0x1008004 + 0x10 * n
def FRE_STR_ENC.enc_mask : Fld := ⟨27, 0⟩
/-- FRE_STR_STAT. -/
def FRE_STR_STAT.a (n : Nat) : Nat := 0x1008008 + 0x10 * n
def FRE_STR_STAT.rsn : Fld := ⟨31, 16⟩
def FRE_STR_STAT.take_any : Fld := ⟨15, 15⟩
def FRE_STR_STAT.latent : Fld := ⟨14, 14⟩
/-- PAIR_CFG. -/
def PAIR_CFG.a : Nat := 0x1d00000
def PAIR_CFG.pair_en : Fld := ⟨31, 31⟩
def PAIR_CFG.unit : Fld := ⟨30, 30⟩
def PAIR_CFG.pref : Fld := ⟨29, 29⟩
def PAIR_CFG.revert_en : Fld := ⟨28, 28⟩
def PAIR_CFG.xlink_port : Fld := ⟨27, 23⟩
def PAIR_CFG.hb_tc : Fld := ⟨22, 20⟩
def PAIR_CFG.interval : Fld := ⟨9, 0⟩
/-- PAIR_TIMING. -/
def PAIR_TIMING.a : Nat := 0x1d00008
def PAIR_TIMING.hold_off : Fld := ⟨31, 16⟩
def PAIR_TIMING.startup_wait : Fld := ⟨15, 8⟩
def PAIR_TIMING.handback_lead : Fld := ⟨7, 0⟩
/-- PAIR_ROLE. -/
def PAIR_ROLE.a : Nat := 0x1d0000c
def PAIR_ROLE.gain_time : Fld := ⟨31, 28⟩
def PAIR_ROLE.lose_time : Fld := ⟨27, 24⟩
def PAIR_ROLE.gain_bus : Fld := ⟨23, 20⟩
def PAIR_ROLE.lose_bus : Fld := ⟨19, 16⟩
def PAIR_ROLE.gain_gate : Fld := ⟨15, 12⟩
def PAIR_ROLE.lose_gate : Fld := ⟨11, 8⟩
def PAIR_ROLE.set_en : Fld := ⟨2, 0⟩
/-- PAIR_BUS. -/
def PAIR_BUS.a : Nat := 0x1d00014
def PAIR_BUS.lin_mask : Fld := ⟨31, 24⟩
def PAIR_BUS.can_mask : Fld := ⟨23, 0⟩
/-- PAIR_FIT_LO. -/
def PAIR_FIT_LO.a : Nat := 0x1d00018
def PAIR_FIT_LO.mask : Fld := ⟨31, 0⟩
/-- PAIR_FIT_HI. -/
def PAIR_FIT_HI.a : Nat := 0x1d0001c
def PAIR_FIT_HI.mask : Fld := ⟨31, 0⟩
/-- PAIR_OWN_MAC_LO. -/
def PAIR_OWN_MAC_LO.a : Nat := 0x1d00020
def PAIR_OWN_MAC_LO.mac : Fld := ⟨31, 0⟩
/-- PAIR_OWN_MAC_HI. -/
def PAIR_OWN_MAC_HI.a : Nat := 0x1d00024
def PAIR_OWN_MAC_HI.mac : Fld := ⟨15, 0⟩
/-- PAIR_PEER_MAC_LO. -/
def PAIR_PEER_MAC_LO.a : Nat := 0x1d00028
def PAIR_PEER_MAC_LO.mac : Fld := ⟨31, 0⟩
/-- PAIR_PEER_MAC_HI. -/
def PAIR_PEER_MAC_HI.a : Nat := 0x1d0002c
def PAIR_PEER_MAC_HI.mac : Fld := ⟨15, 0⟩
/-- PAIR_ST_CFG. -/
def PAIR_ST_CFG.a : Nat := 0x1d00030
def PAIR_ST_CFG.st_en : Fld := ⟨31, 31⟩
def PAIR_ST_CFG.test_cycle : Fld := ⟨30, 20⟩
def PAIR_ST_CFG.lb_ports : Fld := ⟨19, 0⟩
/-- PAIR_STAT. -/
def PAIR_STAT.a : Nat := 0x1d00040
def PAIR_STAT.state : Fld := ⟨31, 29⟩
def PAIR_STAT.partner : Fld := ⟨28, 26⟩
def PAIR_STAT.roles : Fld := ⟨25, 23⟩
def PAIR_STAT.pin_ok : Fld := ⟨22, 22⟩
def PAIR_STAT.frame_ok : Fld := ⟨21, 21⟩
def PAIR_STAT.fit : Fld := ⟨20, 20⟩
def PAIR_STAT.st_failed : Fld := ⟨19, 19⟩
def PAIR_STAT.handback : Fld := ⟨18, 18⟩
/-- PAIR_CTRL. -/
def PAIR_CTRL.a : Nat := 0x1d00044
def PAIR_CTRL.st_clear : Fld := ⟨1, 1⟩
def PAIR_CTRL.yield : Fld := ⟨0, 0⟩
/-- PAIR_CNT. -/
def PAIR_CNT.a (n : Nat) : Nat := 0x1d00080 + 0x4 * n
def PAIR_CNT.count : Fld := ⟨31, 0⟩

/-! ### 16_wake_sleep.md -/

/-- PWR_CTRL. -/
def PWR_CTRL.a : Nat := 0x1c00000
def PWR_CTRL.off_req : Fld := ⟨4, 4⟩
def PWR_CTRL.wake_now : Fld := ⟨3, 3⟩
def PWR_CTRL.wake_valid : Fld := ⟨2, 2⟩
def PWR_CTRL.park_done : Fld := ⟨1, 1⟩
def PWR_CTRL.sleep_req : Fld := ⟨0, 0⟩
/-- PWR_STAT. -/
def PWR_STAT.a : Nat := 0x1c00004
def PWR_STAT.state : Fld := ⟨31, 30⟩
def PWR_STAT.phase : Fld := ⟨29, 28⟩
def PWR_STAT.parked : Fld := ⟨27, 27⟩
def PWR_STAT.first_src : Fld := ⟨19, 16⟩
def PWR_STAT.wake_src : Fld := ⟨14, 0⟩
/-- PWR_WAKE_EN. -/
def PWR_WAKE_EN.a : Nat := 0x1c00008
def PWR_WAKE_EN.pn_wake_en : Fld := ⟨15, 15⟩
def PWR_WAKE_EN.en : Fld := ⟨14, 0⟩
/-- PWR_WAKE_CFG. -/
def PWR_WAKE_CFG.a : Nat := 0x1c0000c
def PWR_WAKE_CFG.seq_start : Fld := ⟨31, 24⟩
def PWR_WAKE_CFG.fast_link : Fld := ⟨23, 0⟩
/-- PWR_PART_PORTS. -/
def PWR_PART_PORTS.a : Nat := 0x1c00010
def PWR_PART_PORTS.ports : Fld := ⟨23, 0⟩
/-- PWR_PART_BUS. -/
def PWR_PART_BUS.a : Nat := 0x1c00014
def PWR_PART_BUS.lin : Fld := ⟨31, 24⟩
def PWR_PART_BUS.can : Fld := ⟨23, 0⟩
/-- PWR_WAKEIN_CFG. -/
def PWR_WAKEIN_CFG.a (n : Nat) : Nat := 0x1c00020 + 0x4 * n
def PWR_WAKEIN_CFG.active_high : Fld := ⟨31, 31⟩
def PWR_WAKEIN_CFG.filt : Fld := ⟨7, 0⟩
/-- PWR_TC10_CFG. -/
def PWR_TC10_CFG.a : Nat := 0x1c00030
def PWR_TC10_CFG.wup_tx : Fld := ⟨7, 4⟩
def PWR_TC10_CFG.det_en : Fld := ⟨3, 0⟩
/-- PWR_TIMER. -/
def PWR_TIMER.a : Nat := 0x1c00034
def PWR_TIMER.count : Fld := ⟨31, 0⟩
/-- PWR_PREP_CFG. -/
def PWR_PREP_CFG.a : Nat := 0x1c00038
def PWR_PREP_CFG.prep_timeout : Fld := ⟨15, 0⟩
/-- PWR_PARK_CFG. -/
def PWR_PARK_CFG.a : Nat := 0x1c0003c
def PWR_PARK_CFG.seq : Fld := ⟨31, 24⟩
def PWR_PARK_CFG.base_mib : Fld := ⟨12, 0⟩
/-- PWR_INH_CFG. -/
def PWR_INH_CFG.a : Nat := 0x1c00040
def PWR_INH_CFG.inh1 : Fld := ⟨9, 5⟩
def PWR_INH_CFG.inh0 : Fld := ⟨4, 0⟩
/-- PWR_WISP_CFG. -/
def PWR_WISP_CFG.a : Nat := 0x1c00050
def PWR_WISP_CFG.mask_en : Fld := ⟨31, 31⟩
def PWR_WISP_CFG.wisp_thr : Fld := ⟨30, 24⟩
def PWR_WISP_CFG.backoff : Fld := ⟨23, 12⟩
def PWR_WISP_CFG.wisp_win : Fld := ⟨11, 0⟩
/-- PWR_WISP_STAT. -/
def PWR_WISP_STAT.a (n : Nat) : Nat := 0x1c00060 + 0x4 * n
def PWR_WISP_STAT.masked_now : Fld := ⟨31, 31⟩
def PWR_WISP_STAT.count : Fld := ⟨30, 24⟩
def PWR_WISP_STAT.masked : Fld := ⟨15, 0⟩

/-! ### 17_reset_boot_update.md -/

/-- SYS_ID. -/
def SYS_ID.a : Nat := 0x0000000
def SYS_ID.part : Fld := ⟨31, 16⟩
def SYS_ID.screen : Fld := ⟨15, 12⟩
def SYS_ID.stepping : Fld := ⟨7, 0⟩
/-- SYS_DEVID_LO. -/
def SYS_DEVID_LO.a : Nat := 0x0000008
def SYS_DEVID_LO.id : Fld := ⟨31, 0⟩
/-- SYS_DEVID_HI. -/
def SYS_DEVID_HI.a : Nat := 0x000000c
def SYS_DEVID_HI.id : Fld := ⟨31, 0⟩
/-- SYS_RST_CAUSE. -/
def SYS_RST_CAUSE.a : Nat := 0x0000010
def SYS_RST_CAUSE.pcie : Fld := ⟨6, 6⟩
def SYS_RST_CAUSE.carr_jtag : Fld := ⟨5, 5⟩
def SYS_RST_CAUSE.carr_sched : Fld := ⟨4, 4⟩
def SYS_RST_CAUSE.carr_sw : Fld := ⟨3, 3⟩
def SYS_RST_CAUSE.dev : Fld := ⟨2, 2⟩
def SYS_RST_CAUSE.pin : Fld := ⟨1, 1⟩
def SYS_RST_CAUSE.por : Fld := ⟨0, 0⟩
/-- SYS_RST_CTRL. -/
def SYS_RST_CTRL.a : Nat := 0x0000018
def SYS_RST_CTRL.dev : Fld := ⟨1, 1⟩
def SYS_RST_CTRL.carr : Fld := ⟨0, 0⟩
/-- SYS_BOOT_STAT. -/
def SYS_BOOT_STAT.a : Nat := 0x0000020
def SYS_BOOT_STAT.result : Fld := ⟨31, 28⟩
def SYS_BOOT_STAT.boot_mode : Fld := ⟨27, 26⟩
def SYS_BOOT_STAT.loaded : Fld := ⟨25, 25⟩
def SYS_BOOT_STAT.load_time : Fld := ⟨15, 0⟩
/-- SYS_BOOT_CTRL. -/
def SYS_BOOT_CTRL.a : Nat := 0x0000024
def SYS_BOOT_CTRL.host_go : Fld := ⟨1, 1⟩
def SYS_BOOT_CTRL.load_done : Fld := ⟨0, 0⟩
/-- SYS_UPD_NOTE. -/
def SYS_UPD_NOTE.a : Nat := 0x0000028
def SYS_UPD_NOTE.index : Fld := ⟨19, 8⟩
def SYS_UPD_NOTE.cause : Fld := ⟨7, 0⟩
/-- SYS_GW_MAC_LO. -/
def SYS_GW_MAC_LO.a : Nat := 0x0000030
def SYS_GW_MAC_LO.mac : Fld := ⟨31, 0⟩
/-- SYS_GW_MAC_HI. -/
def SYS_GW_MAC_HI.a : Nat := 0x0000034
def SYS_GW_MAC_HI.mac : Fld := ⟨31, 0⟩
/-- SYS_BV_CTRL. -/
def SYS_BV_CTRL.a : Nat := 0x0000040
def SYS_BV_CTRL.busy : Fld := ⟨31, 31⟩
def SYS_BV_CTRL.code : Fld := ⟨30, 28⟩
def SYS_BV_CTRL.go : Fld := ⟨0, 0⟩

/-! ### 18_package_electrical_test.md -/

/-- SYS_MON_CFG. -/
def SYS_MON_CFG.a : Nat := 0x0000100
def SYS_MON_CFG.temp_warn : Fld := ⟨25, 16⟩
def SYS_MON_CFG.temp_clear : Fld := ⟨9, 0⟩
/-- SYS_MON_STAT. -/
def SYS_MON_STAT.a : Nat := 0x0000104
def SYS_MON_STAT.tj_max : Fld := ⟨29, 20⟩
def SYS_MON_STAT.tj_now : Fld := ⟨19, 10⟩
def SYS_MON_STAT.rail_out : Fld := ⟨9, 0⟩

/-! ### 12_ethernet_ports.md -/

/-- ETH_HTX_BASE_LO. -/
def ETH_HTX_BASE_LO.a (n : Nat) : Nat := 0x1408000 + 0x40 * n
def ETH_HTX_BASE_LO.base : Fld := ⟨31, 6⟩
/-- ETH_HTX_BASE_HI. -/
def ETH_HTX_BASE_HI.a (n : Nat) : Nat := 0x1408004 + 0x40 * n
def ETH_HTX_BASE_HI.base : Fld := ⟨31, 0⟩
/-- ETH_HTX_CFG. -/
def ETH_HTX_CFG.a (n : Nat) : Nat := 0x1408008 + 0x40 * n
def ETH_HTX_CFG.en : Fld := ⟨31, 31⟩
def ETH_HTX_CFG.size : Fld := ⟨12, 0⟩
/-- ETH_HTX_TAIL. -/
def ETH_HTX_TAIL.a (n : Nat) : Nat := 0x140800c + 0x40 * n
def ETH_HTX_TAIL.tail : Fld := ⟨11, 0⟩
/-- ETH_HTX_HEAD. -/
def ETH_HTX_HEAD.a (n : Nat) : Nat := 0x1408010 + 0x40 * n
def ETH_HTX_HEAD.head : Fld := ⟨11, 0⟩
/-- ETH_HTX_FRAMES. -/
def ETH_HTX_FRAMES.a (n : Nat) : Nat := 0x1408014 + 0x40 * n
def ETH_HTX_FRAMES.count : Fld := ⟨31, 0⟩
/-- ETH_HTX_DROPS. -/
def ETH_HTX_DROPS.a (n : Nat) : Nat := 0x1408018 + 0x40 * n
def ETH_HTX_DROPS.count : Fld := ⟨31, 0⟩
/-- ETH_HRX_BASE_LO. -/
def ETH_HRX_BASE_LO.a (n : Nat) : Nat := 0x1408400 + 0x40 * n
def ETH_HRX_BASE_LO.base : Fld := ⟨31, 6⟩
/-- ETH_HRX_BASE_HI. -/
def ETH_HRX_BASE_HI.a (n : Nat) : Nat := 0x1408404 + 0x40 * n
def ETH_HRX_BASE_HI.base : Fld := ⟨31, 0⟩
/-- ETH_HRX_CFG. -/
def ETH_HRX_CFG.a (n : Nat) : Nat := 0x1408408 + 0x40 * n
def ETH_HRX_CFG.en : Fld := ⟨31, 31⟩
def ETH_HRX_CFG.irq_en : Fld := ⟨30, 30⟩
def ETH_HRX_CFG.size : Fld := ⟨12, 0⟩
/-- ETH_HRX_TAIL. -/
def ETH_HRX_TAIL.a (n : Nat) : Nat := 0x140840c + 0x40 * n
def ETH_HRX_TAIL.tail : Fld := ⟨11, 0⟩
/-- ETH_HRX_HEAD. -/
def ETH_HRX_HEAD.a (n : Nat) : Nat := 0x1408410 + 0x40 * n
def ETH_HRX_HEAD.head : Fld := ⟨11, 0⟩
/-- ETH_HRX_FRAMES. -/
def ETH_HRX_FRAMES.a (n : Nat) : Nat := 0x1408414 + 0x40 * n
def ETH_HRX_FRAMES.count : Fld := ⟨31, 0⟩
/-- ETH_HRX_DROPS. -/
def ETH_HRX_DROPS.a (n : Nat) : Nat := 0x1408418 + 0x40 * n
def ETH_HRX_DROPS.count : Fld := ⟨31, 0⟩
/-- ETH_CTX_BASE_LO. -/
def ETH_CTX_BASE_LO.a (n : Nat) : Nat := 0x1408800 + 0x40 * n
def ETH_CTX_BASE_LO.base : Fld := ⟨31, 6⟩
/-- ETH_CTX_BASE_HI. -/
def ETH_CTX_BASE_HI.a (n : Nat) : Nat := 0x1408804 + 0x40 * n
def ETH_CTX_BASE_HI.base : Fld := ⟨31, 0⟩
/-- ETH_CTX_CFG. -/
def ETH_CTX_CFG.a (n : Nat) : Nat := 0x1408808 + 0x40 * n
def ETH_CTX_CFG.en : Fld := ⟨31, 31⟩
def ETH_CTX_CFG.size : Fld := ⟨12, 0⟩
/-- ETH_CTX_TAIL. -/
def ETH_CTX_TAIL.a (n : Nat) : Nat := 0x140880c + 0x40 * n
def ETH_CTX_TAIL.tail : Fld := ⟨11, 0⟩
/-- ETH_CTX_HEAD. -/
def ETH_CTX_HEAD.a (n : Nat) : Nat := 0x1408810 + 0x40 * n
def ETH_CTX_HEAD.head : Fld := ⟨11, 0⟩
/-- ETH_CTX_FRAMES. -/
def ETH_CTX_FRAMES.a (n : Nat) : Nat := 0x1408814 + 0x40 * n
def ETH_CTX_FRAMES.count : Fld := ⟨31, 0⟩
/-- ETH_CTX_DROPS. -/
def ETH_CTX_DROPS.a (n : Nat) : Nat := 0x1408818 + 0x40 * n
def ETH_CTX_DROPS.count : Fld := ⟨31, 0⟩
/-- ETH_CRX_BASE_LO. -/
def ETH_CRX_BASE_LO.a (n : Nat) : Nat := 0x1408a00 + 0x40 * n
def ETH_CRX_BASE_LO.base : Fld := ⟨31, 6⟩
/-- ETH_CRX_BASE_HI. -/
def ETH_CRX_BASE_HI.a (n : Nat) : Nat := 0x1408a04 + 0x40 * n
def ETH_CRX_BASE_HI.base : Fld := ⟨31, 0⟩
/-- ETH_CRX_CFG. -/
def ETH_CRX_CFG.a (n : Nat) : Nat := 0x1408a08 + 0x40 * n
def ETH_CRX_CFG.en : Fld := ⟨31, 31⟩
def ETH_CRX_CFG.irq_en : Fld := ⟨30, 30⟩
def ETH_CRX_CFG.size : Fld := ⟨12, 0⟩
/-- ETH_CRX_TAIL. -/
def ETH_CRX_TAIL.a (n : Nat) : Nat := 0x1408a0c + 0x40 * n
def ETH_CRX_TAIL.tail : Fld := ⟨11, 0⟩
/-- ETH_CRX_HEAD. -/
def ETH_CRX_HEAD.a (n : Nat) : Nat := 0x1408a10 + 0x40 * n
def ETH_CRX_HEAD.head : Fld := ⟨11, 0⟩
/-- ETH_CRX_FRAMES. -/
def ETH_CRX_FRAMES.a (n : Nat) : Nat := 0x1408a14 + 0x40 * n
def ETH_CRX_FRAMES.count : Fld := ⟨31, 0⟩
/-- ETH_CRX_DROPS. -/
def ETH_CRX_DROPS.a (n : Nat) : Nat := 0x1408a18 + 0x40 * n
def ETH_CRX_DROPS.count : Fld := ⟨31, 0⟩

/-! ### 17_reset_boot_update.md -/

/-- SYS_BV_ADDR. -/
def SYS_BV_ADDR.a : Nat := 0x0000044
def SYS_BV_ADDR.addr : Fld := ⟨31, 0⟩

end Sys2Proof.Machine
end

