-- ==== Sys2Proof/Machine/RegMap.lean ====
section
/-! DEFINITION. The register map: one row per register table of chapters 02 to 18, with the address formula and, as masks,
the bits of each field type of R25 (`rw`, `rwh`, `wo`, `w1c`, `w1s`, `rc`, `rws`, `rwg`; every other bit is RO or
reserved), the parity-carrying bits (`par`, R31), the triplicated bits (`tri`, R32), the lowest bit of each field (`cut`) and the reset value. -/

namespace Sys2Proof.Machine

/-- SYS_ID, SYS_DEVID_LO, SYS_DEVID_HI, SYS_RST_CAUSE, SYS_RST_CTRL, SYS_BOOT_STAT, SYS_BOOT_CTRL, SYS_UPD_NOTE, SYS_GW_MAC_LO, SYS_GW_MAC_HI, SYS_BV_CTRL, SYS_MON_CFG, SYS_MON_STAT, SYS_BV_ADDR. -/
def rowsSys0 : List RegRow :=
  [ { base := 0x0000000, reset := 0x924000c0#32 },
    { base := 0x0000008 },
    { base := 0x000000c },
    { base := 0x0000010, reset := 0x00000001#32, w1c := 0x0000007f#32 },
    { base := 0x0000018, rwg := 0x00000003#32, par := 0x00000003#32, tri := 0x00000003#32, cut := 0x00000007#32, guard := true },
    { base := 0x0000020 },
    { base := 0x0000024, w1s := 0x00000003#32 },
    { base := 0x0000028, wo := 0x000fffff#32 },
    { base := 0x0000030, rw := 0xffffffff#32, par := 0xffffffff#32 },
    { base := 0x0000034, rw := 0xffffffff#32, par := 0xffffffff#32 },
    { base := 0x0000040, rws := 0x00000001#32 },
    { base := 0x0000100, reset := 0x008c0082#32, rw := 0x03ff03ff#32, par := 0x03ff03ff#32, cut := 0x04010401#32 },
    { base := 0x0000104, reset := 0x3d8f6000#32, rwh := 0x3ff00000#32 },
    { base := 0x0000044, rw := 0xffffffff#32, par := 0xffffffff#32 } ]

/-- EVT_SRC_CFG, EVT_SRC_STAT, EVT_SRC_STORM, EVT_CNT_CLR_LO, EVT_CNT_CLR_HI, EVT_PEND_LO, EVT_PEND_HI. -/
def rowsEvt0 : List RegRow :=
  [ { base := 0x0100000, s1 := 0x10, n1 := 64, rwg := 0xf0000000#32, par := 0xf0000000#32, tri := 0xf0000000#32, cut := 0xf0000001#32, guard := true },
    { base := 0x0100008, s1 := 0x10, n1 := 64, w1c := 0x0000000d#32 },
    { base := 0x010000c, s1 := 0x10, n1 := 64, rw := 0xffffffff#32, par := 0xffffffff#32, cut := 0x00010001#32 },
    { base := 0x0100400, w1s := 0xffffffff#32 },
    { base := 0x0100404, w1s := 0xffffffff#32 },
    { base := 0x0100408 },
    { base := 0x010040c } ]

/-- ROL_OP_GRANT, ROL_STAT, ROL_CTRL, ROL_LC, ROL_LC_REQ. -/
def rowsRol0 : List RegRow :=
  [ { base := 0x0180210, rwg := 0x0001fff9#32, par := 0x0001fff9#32, tri := 0x0001fff9#32, cut := 0x00020001#32, guard := true },
    { base := 0x0180200 },
    { base := 0x0180204, w1s := 0x00000001#32 },
    { base := 0x0180220 },
    { base := 0x0180228, rwg := 0x00000003#32, par := 0x00000003#32, tri := 0x00000003#32, cut := 0x00000005#32, guard := true } ]

/-- TIM_INC, TIM_INC_INT, TIM_ADJ_CNT, TIM_DOM_CFG, TIM_DOM_CTRL, TIM_DOM_STAT, TIM_WKT_CFG, TIM_WKT_CTRL, TIM_WKT_STAT, TIM_PPS_CFG, TIM_PORT_CFG, TIM_PORT_RXLAT, TIM_PORT_TXLAT, TIM_PORT_LDLY_CAL, TIM_PORT_LDLY_MEAS. -/
def rowsTim0 : List RegRow :=
  [ { base := 0x0200000, s1 := 0x8, n1 := 4 },
    { base := 0x0200004, s1 := 0x8, n1 := 4, reset := 0x00000004#32 },
    { base := 0x0200380, s1 := 0x4, n1 := 3 },
    { base := 0x0200040, s1 := 0x10, n1 := 2, reset := 0x00017700#32, rw := 0x80ffffff#32, par := 0x80ffffff#32, cut := 0x81000101#32 },
    { base := 0x0200044, s1 := 0x10, n1 := 2, w1s := 0x00000003#32 },
    { base := 0x0200048, s1 := 0x10, n1 := 2, reset := 0xffff0001#32 },
    { base := 0x0200080, reset := 0x8064218e#32, rw := 0xcfffffff#32, par := 0xcfffffff#32, cut := 0xd0010001#32 },
    { base := 0x0200084, rws := 0x00000001#32 },
    { base := 0x0200088 },
    { base := 0x02000c0, reset := 0x000003e8#32, rw := 0xf00fffff#32, par := 0xf00fffff#32, cut := 0xb0100001#32 },
    { base := 0x0201000, s1 := 0x20, n1 := 24, reset := 0x00001000#32, rw := 0x0000ff36#32, w1s := 0x00000008#32, par := 0x0000ff36#32, cut := 0x0001017f#32 },
    { base := 0x0201004, s1 := 0x20, n1 := 24, rw := 0x000fffff#32, par := 0x000fffff#32, cut := 0x00100001#32 },
    { base := 0x0201008, s1 := 0x20, n1 := 24, rw := 0x000fffff#32, par := 0x000fffff#32, cut := 0x00100001#32 },
    { base := 0x020100c, s1 := 0x20, n1 := 24, rwh := 0x00ffffff#32, par := 0x00ffffff#32, cut := 0x01000001#32 },
    { base := 0x0201010, s1 := 0x20, n1 := 24, rw := 0x00ffffff#32, par := 0x00ffffff#32, cut := 0x81000001#32 } ]

/-- PHS_CFG, PHS_OFFSET, PHS_TPC, PHS_GAIN, PHS_LIM, PHS_TIMING, PHS_THR, PHS_SAMP, PHS_SAMP_ID, PHS_CTRL, PHS_STAT, PHS_DISC. -/
def rowsPhs0 : List RegRow :=
  [ { base := 0x0300000, s1 := 0x40, n1 := 4, reset := 0x08000314#32, rw := 0xffc0ffff#32, par := 0xffc0ffff#32, cut := 0xbd410111#32 },
    { base := 0x0300004, s1 := 0x40, n1 := 4, rw := 0xffffffff#32, par := 0xffffffff#32 },
    { base := 0x0300008, s1 := 0x40, n1 := 4, reset := 0x00100000#32, rw := 0xffffffff#32, par := 0xffffffff#32 },
    { base := 0x030000c, s1 := 0x40, n1 := 4, reset := 0x80002aab#32, rw := 0xffffffff#32, par := 0xffffffff#32, cut := 0x00010001#32 },
    { base := 0x0300010, s1 := 0x40, n1 := 4, reset := 0xa7c60800#32, rw := 0xffffffff#32, par := 0xffffffff#32, cut := 0x00010001#32 },
    { base := 0x0300014, s1 := 0x40, n1 := 4, reset := 0x05dc0064#32, rw := 0xffffffff#32, par := 0xffffffff#32, cut := 0x00010001#32 },
    { base := 0x0300018, s1 := 0x40, n1 := 4, reset := 0x01000100#32, rw := 0xffffffff#32, par := 0xffffffff#32, cut := 0x00010001#32 },
    { base := 0x030001c, s1 := 0x40, n1 := 4, reset := 0x000003e8#32, rw := 0xfe00ffff#32, par := 0xfe00ffff#32, cut := 0x0a010001#32 },
    { base := 0x0300020, s1 := 0x40, n1 := 4, rw := 0xffffffff#32, par := 0xffffffff#32, cut := 0x00010001#32 },
    { base := 0x0300030, s1 := 0x40, n1 := 4, w1s := 0x00000003#32 },
    { base := 0x0300034, s1 := 0x40, n1 := 4 },
    { base := 0x0300038, s1 := 0x40, n1 := 4, rc := 0xffffffff#32 } ]

/-- SEQ_ACT_STAT, SEQ_PROG, SEQ_TWIN_LO, SEQ_TWIN_HI, SEQ_WDOG, SEQ_CTRL, SEQ_STAT, SEQ_TRAP, SEQ_QSTAT, SEQ_QCNT_A, SEQ_QCNT_B. -/
def rowsSeq0 : List RegRow :=
  [ { base := 0x0401100, s1 := 0x4, n1 := 16 },
    { base := 0x0400000, s1 := 0x100, n1 := 8, rw := 0xffff7fff#32, par := 0xffff7fff#32, cut := 0x00018001#32 },
    { base := 0x0400004, s1 := 0x100, n1 := 8, rw := 0x800fffff#32, par := 0x800fffff#32, cut := 0x80100001#32 },
    { base := 0x0400008, s1 := 0x100, n1 := 8, rw := 0x001fffff#32, par := 0x001fffff#32, cut := 0x00200001#32 },
    { base := 0x040000c, s1 := 0x100, n1 := 8, reset := 0x8000c350#32, rw := 0xef0fffff#32, par := 0xef0fffff#32, cut := 0xb1100001#32 },
    { base := 0x0400010, s1 := 0x100, n1 := 8, w1s := 0x0000003f#32 },
    { base := 0x0400014, s1 := 0x100, n1 := 8 },
    { base := 0x0400018, s1 := 0x100, n1 := 8 },
    { base := 0x040001c, s1 := 0x100, n1 := 8, rwh := 0x01ff0000#32 },
    { base := 0x0400020, s1 := 0x100, n1 := 8, rc := 0xffffffff#32 },
    { base := 0x0400024, s1 := 0x100, n1 := 8, rc := 0xffffffff#32 } ]

/-- CLS_TPL_CFG, CLS_TPL_LEN, CLS_TPL_DP, CLS_TPL_DP_SH, CLS_FLD_DESC, CLS_FLD_MASK, CLS_DEFAULT, CLS_DEFAULT_GRP, CLS_DROP_CNT, CLS_EXC_CNT, CLS_BANK_CTRL, CLS_BANK_STAT, FDB_PORT_CFG, FLW_PORT_CFG, FDB_VLAN_MEM, FDB_VLAN_CFG, FDB_MGRP, FDB_AGE_CFG, FDB_MOVE_CFG, FDB_LEARN_CFG. -/
def rowsPipe0 : List RegRow :=
  [ { base := 0x0801000, s1 := 0x100, n1 := 16, rw := 0xffe0ffff#32, par := 0xffe0ffff#32, cut := 0xa0210001#32 },
    { base := 0x0801004, s1 := 0x100, n1 := 16, rw := 0xffffc0ff#32, par := 0xffffc0ff#32, cut := 0x40404101#32 },
    { base := 0x0801008, s1 := 0x100, n1 := 16 },
    { base := 0x080100c, s1 := 0x100, n1 := 16 },
    { base := 0x0801040, s1 := 0x100, n1 := 16, s2 := 0x8, n2 := 24, rw := 0xffffc000#32, par := 0xffffc000#32, cut := 0xa0284001#32 },
    { base := 0x0801044, s1 := 0x100, n1 := 16, s2 := 0x8, n2 := 24, reset := 0xffffffff#32, rw := 0xffffffff#32, par := 0xffffffff#32 },
    { base := 0x0802000, reset := 0x10000000#32, rw := 0x7fffffff#32, par := 0x7fffffff#32, cut := 0x90000001#32 },
    { base := 0x0802004, rw := 0x000000ff#32, par := 0x000000ff#32, cut := 0x00000101#32 },
    { base := 0x0802040, s1 := 0x4, n1 := 7, rc := 0xffffffff#32 },
    { base := 0x0802084, s1 := 0x4, n1 := 8, rc := 0xffffffff#32 },
    { base := 0x0802010, w1s := 0x00000001#32 },
    { base := 0x0802014, reset := 0x01000000#32, w1c := 0xc0000000#32 },
    { base := 0x0803400, s1 := 0x4, n1 := 28, reset := 0x00000001#32, rw := 0xf8000fff#32, par := 0xf8000fff#32, cut := 0xc8001001#32 },
    { base := 0x0803480, s1 := 0x4, n1 := 28, rw := 0x00000007#32, par := 0x00000007#32, cut := 0x0000000d#32 },
    { base := 0x0808000, s1 := 0x8, n1 := 4096, rw := 0x0fffffff#32, par := 0x0fffffff#32, cut := 0x10000001#32 },
    { base := 0x0808004, s1 := 0x8, n1 := 4096, reset := 0x10000000#32, rw := 0xf0000000#32, par := 0xf0000000#32, cut := 0xd0000001#32 },
    { base := 0x0804000, s1 := 0x4, n1 := 128, rw := 0x0fffffff#32, par := 0x0fffffff#32, cut := 0x10000001#32 },
    { base := 0x0803500, reset := 0x80000064#32, rw := 0x8000ffff#32, par := 0x8000ffff#32, cut := 0x80010001#32 },
    { base := 0x0803504, reset := 0x083e83e8#32, rw := 0x0fffffff#32, par := 0x0fffffff#32, cut := 0x11001001#32 },
    { base := 0x0803508, rw := 0x00000001#32, par := 0x00000001#32, cut := 0x00000003#32 } ]

/-- FDB_PAR_LOC, FLW_PAR_LOC, FDB_STAT, FDB_CNT, POL_METER_CFG, POL_METER_BURST, POL_METER_TOK, POL_METER_DROP. -/
def rowsPipe1 : List RegRow :=
  [ { base := 0x0803520, w1c := 0x80000000#32 },
    { base := 0x0803524, w1c := 0x80000000#32 },
    { base := 0x0803528 },
    { base := 0x0803600, s1 := 0x4, n1 := 9, rc := 0xffffffff#32 },
    { base := 0x0820000, s1 := 0x10, n1 := 2048, rw := 0xffffffff#32, par := 0xffffffff#32, cut := 0x80000001#32 },
    { base := 0x0820004, s1 := 0x10, n1 := 2048, rw := 0x00ffffff#32, par := 0x00ffffff#32, cut := 0x01000001#32 },
    { base := 0x0820008, s1 := 0x10, n1 := 2048 },
    { base := 0x082000c, s1 := 0x10, n1 := 2048, rc := 0xffffffff#32 } ]

/-- QM_POOL, QM_SPILL_CFG, QM_PEAT_CFG, QM_PEAT_STAT, QM_DESC_STAT, QM_MERE_ECC, QM_REFILL_CFG, QM_LAG_SEL, QM_PORT_CFG, QM_PORT_ALPHA, QM_PORT_PCPMAP, QM_PORT_MIR, QM_TAIL_CNT, QM_ADM_DROP, QM_PORT_OCC, QM_MIR_CFG, QM_MIR_DROP, QM_LAG_CFG, SLU_PORT_CFG, SLU_GATE. -/
def rowsQm0 : List RegRow :=
  [ { base := 0x1000000, reset := 0x8000fffe#32, rwh := 0x0000fffe#32, w1c := 0x00000001#32 },
    { base := 0x1000004, reset := 0x20001000#32, rw := 0xffffffff#32, par := 0xffffffff#32, cut := 0x00010001#32 },
    { base := 0x1000008, rw := 0x9fff07ff#32, par := 0x9fff07ff#32, cut := 0xa0010801#32 },
    { base := 0x100000c, rc := 0x7f800000#32 },
    { base := 0x1000010, reset := 0x20008000#32 },
    { base := 0x1000014, rc := 0xffffffff#32 },
    { base := 0x1000018, reset := 0x00000010#32, rw := 0x0000007f#32, par := 0x0000007f#32, cut := 0x00000081#32 },
    { base := 0x100001c, reset := 0x00000007#32, rw := 0x00000007#32, par := 0x00000007#32, cut := 0x0000000f#32 },
    { base := 0x1000040, s1 := 0x40, n1 := 28, rw := 0xffff0fff#32, par := 0xffff0fff#32, cut := 0x01011001#32 },
    { base := 0x1000044, s1 := 0x40, n1 := 28, reset := 0x66666666#32, rw := 0xffffffff#32, par := 0xffffffff#32 },
    { base := 0x1000048, s1 := 0x40, n1 := 28, reset := 0x00fac688#32, rw := 0x00ffffff#32, par := 0x00ffffff#32, cut := 0x01000001#32 },
    { base := 0x100004c, s1 := 0x40, n1 := 28, rw := 0xff000000#32, par := 0xff000000#32, cut := 0x99000001#32 },
    { base := 0x1000050, s1 := 0x40, n1 := 28, s2 := 0x4, n2 := 4, rc := 0xffffffff#32 },
    { base := 0x1000060, s1 := 0x40, n1 := 28, rc := 0xffffffff#32 },
    { base := 0x1000064, s1 := 0x40, n1 := 28 },
    { base := 0x1000800, s1 := 0x4, n1 := 8, reset := 0x40000800#32, rw := 0xc01fffff#32, par := 0xc01fffff#32, cut := 0xc0210001#32 },
    { base := 0x1000820, s1 := 0x4, n1 := 8, rc := 0xffffffff#32 },
    { base := 0x1000900, s1 := 0x4, n1 := 8, rw := 0xf00fffff#32, par := 0xf00fffff#32, cut := 0x10108421#32 },
    { base := 0x1004000, s1 := 0x40, n1 := 24, rw := 0xc0ffffff#32, par := 0xc0ffffff#32, cut := 0xc1010001#32 },
    { base := 0x1004004, s1 := 0x40, n1 := 24, reset := 0x000000ff#32, rwh := 0x000001ff#32 } ]

/-- SLU_LAUNCH_CFG, SLU_QSDU, SHP_PORT_CFG, SHP_WFQ_LO, SHP_WFQ_HI, SHP_CBS, SHP_CREDIT, SHP_RES, SHP_CNT, FRE_CFG, FRE_LAT_RESET, FRE_STR_CFG, FRE_STR_ENC, FRE_STR_STAT. -/
def rowsQm1 : List RegRow :=
  [ { base := 0x1004008, s1 := 0x40, n1 := 24, reset := 0x00000064#32, rw := 0xff00ffff#32, par := 0xff00ffff#32, cut := 0x01010001#32 },
    { base := 0x1004010, s1 := 0x40, n1 := 24, s2 := 0x4, n2 := 4, rw := 0x3fff3fff#32, par := 0x3fff3fff#32, cut := 0x40014001#32 },
    { base := 0x1002000, s1 := 0x100, n1 := 28, reset := 0x40ff0000#32, rw := 0xc0ff0000#32, par := 0xc0ff0000#32, cut := 0xc1010005#32 },
    { base := 0x1002004, s1 := 0x100, n1 := 28, reset := 0x01010101#32, rw := 0xffffffff#32, par := 0xffffffff#32 },
    { base := 0x1002008, s1 := 0x100, n1 := 28, reset := 0x01010101#32, rw := 0xffffffff#32, par := 0xffffffff#32 },
    { base := 0x1002010, s1 := 0x100, n1 := 28, s2 := 0x4, n2 := 8, rw := 0xffffffff#32, par := 0xffffffff#32, cut := 0x80000001#32 },
    { base := 0x1002030, s1 := 0x100, n1 := 28, s2 := 0x4, n2 := 8 },
    { base := 0x1002050, s1 := 0x100, n1 := 28, s2 := 0x4, n2 := 8, reset := 0x000007d0#32, rw := 0x80007fff#32, par := 0x80007fff#32, cut := 0x80008001#32 },
    { base := 0x1002080, s1 := 0x100, n1 := 28, s2 := 0x4, n2 := 8, rc := 0xffffffff#32 },
    { base := 0x1007f00, reset := 0x07d00064#32, rw := 0xffffffff#32, par := 0xffffffff#32, cut := 0x00010001#32 },
    { base := 0x1007f04, reset := 0x0000001e#32, rw := 0x0000ffff#32, par := 0x0000ffff#32, cut := 0x00010001#32 },
    { base := 0x1008000, s1 := 0x10, n1 := 1024, reset := 0x00012010#32, rw := 0xf03fffff#32, par := 0xf03fffff#32, cut := 0xf0411001#32 },
    { base := 0x1008004, s1 := 0x10, n1 := 1024, rw := 0x0fffffff#32, par := 0x0fffffff#32, cut := 0x10000001#32 },
    { base := 0x1008008, s1 := 0x10, n1 := 1024, reset := 0x00008000#32, w1c := 0x00004000#32 } ]

/-- ETH_PORT_CFG, ETH_PORT_MODE, ETH_PORT_EDIT, ETH_PORT_LINK, ETH_PORT_STAT, ETH_PORT_PRBS, ETH_T1S_PLCA, ETH_T1S_BURST, ETH_T1S_STAT, ETH_MDIO_CFG, ETH_HRX_MAP, ETH_CRX_MAP, ETH_HTX_BASE_LO, ETH_HTX_BASE_HI, ETH_HTX_CFG, ETH_HTX_TAIL, ETH_HTX_HEAD, ETH_HTX_FRAMES, ETH_HTX_DROPS, ETH_HRX_BASE_LO. -/
def rowsEth0 : List RegRow :=
  [ { base := 0x1400000, s1 := 0x100, n1 := 24, reset := 0x400005f2#32, rw := 0xc0003fff#32, par := 0xc0003fff#32, cut := 0xc0004001#32 },
    { base := 0x1400004, s1 := 0x100, n1 := 24, rw := 0x0000033f#32, par := 0x0000033f#32, cut := 0x00000551#32 },
    { base := 0x1400008, s1 := 0x100, n1 := 24, reset := 0x00000001#32, rw := 0xc0000fff#32, par := 0xc0000fff#32, cut := 0xc0001001#32 },
    { base := 0x140000c, s1 := 0x100, n1 := 24, reset := 0x000a0000#32, rw := 0xffffffff#32, par := 0xffffffff#32, cut := 0x00010001#32 },
    { base := 0x1400010, s1 := 0x100, n1 := 24 },
    { base := 0x1400014, s1 := 0x100, n1 := 20, rc := 0x7fffffff#32 },
    { base := 0x1401420, s1 := 0x100, n1 := 4, reset := 0x00ff0820#32, rw := 0x80ffffff#32, par := 0x80ffffff#32, cut := 0x81010101#32 },
    { base := 0x1401424, s1 := 0x100, n1 := 4, reset := 0x00000080#32, rw := 0x0000ffff#32, par := 0x0000ffff#32, cut := 0x00010101#32 },
    { base := 0x1401428, s1 := 0x100, n1 := 4 },
    { base := 0x1402000, s1 := 0x10, n1 := 2, reset := 0x00000027#32, rw := 0x800000ff#32, par := 0x800000ff#32, cut := 0x80000101#32 },
    { base := 0x1408c00, rw := 0xffffffff#32, par := 0xffffffff#32 },
    { base := 0x1408c04, rw := 0x0000ffff#32, par := 0x0000ffff#32, cut := 0x00010001#32 },
    { base := 0x1408000, s1 := 0x40, n1 := 16, rw := 0xffffffc0#32, par := 0xffffffc0#32, cut := 0x00000041#32 },
    { base := 0x1408004, s1 := 0x40, n1 := 16, rw := 0xffffffff#32, par := 0xffffffff#32 },
    { base := 0x1408008, s1 := 0x40, n1 := 16, reset := 0x00000040#32, rw := 0x80001fff#32, par := 0x80001fff#32, cut := 0x80002001#32 },
    { base := 0x140800c, s1 := 0x40, n1 := 16, rw := 0x00000fff#32 },
    { base := 0x1408010, s1 := 0x40, n1 := 16 },
    { base := 0x1408014, s1 := 0x40, n1 := 16, rc := 0xffffffff#32 },
    { base := 0x1408018, s1 := 0x40, n1 := 16, rc := 0xffffffff#32 },
    { base := 0x1408400, s1 := 0x40, n1 := 16, rw := 0xffffffc0#32, par := 0xffffffc0#32, cut := 0x00000041#32 } ]

/-- ETH_HRX_BASE_HI, ETH_HRX_CFG, ETH_HRX_TAIL, ETH_HRX_HEAD, ETH_HRX_FRAMES, ETH_HRX_DROPS, ETH_CTX_BASE_LO, ETH_CTX_BASE_HI, ETH_CTX_CFG, ETH_CTX_TAIL, ETH_CTX_HEAD, ETH_CTX_FRAMES, ETH_CTX_DROPS, ETH_CRX_BASE_LO, ETH_CRX_BASE_HI, ETH_CRX_CFG, ETH_CRX_TAIL, ETH_CRX_HEAD, ETH_CRX_FRAMES, ETH_CRX_DROPS. -/
def rowsEth1 : List RegRow :=
  [ { base := 0x1408404, s1 := 0x40, n1 := 16, rw := 0xffffffff#32, par := 0xffffffff#32 },
    { base := 0x1408408, s1 := 0x40, n1 := 16, reset := 0x00000040#32, rw := 0xc0001fff#32, par := 0xc0001fff#32, cut := 0xc0002001#32 },
    { base := 0x140840c, s1 := 0x40, n1 := 16, rw := 0x00000fff#32 },
    { base := 0x1408410, s1 := 0x40, n1 := 16 },
    { base := 0x1408414, s1 := 0x40, n1 := 16, rc := 0xffffffff#32 },
    { base := 0x1408418, s1 := 0x40, n1 := 16, rc := 0xffffffff#32 },
    { base := 0x1408800, s1 := 0x40, n1 := 4, rw := 0xffffffc0#32, par := 0xffffffc0#32, cut := 0x00000041#32 },
    { base := 0x1408804, s1 := 0x40, n1 := 4, rw := 0xffffffff#32, par := 0xffffffff#32 },
    { base := 0x1408808, s1 := 0x40, n1 := 4, reset := 0x00000040#32, rw := 0x80001fff#32, par := 0x80001fff#32, cut := 0x80002001#32 },
    { base := 0x140880c, s1 := 0x40, n1 := 4, rw := 0x00000fff#32 },
    { base := 0x1408810, s1 := 0x40, n1 := 4 },
    { base := 0x1408814, s1 := 0x40, n1 := 4, rc := 0xffffffff#32 },
    { base := 0x1408818, s1 := 0x40, n1 := 4, rc := 0xffffffff#32 },
    { base := 0x1408a00, s1 := 0x40, n1 := 4, rw := 0xffffffc0#32, par := 0xffffffc0#32, cut := 0x00000041#32 },
    { base := 0x1408a04, s1 := 0x40, n1 := 4, rw := 0xffffffff#32, par := 0xffffffff#32 },
    { base := 0x1408a08, s1 := 0x40, n1 := 4, reset := 0x00000040#32, rw := 0xc0001fff#32, par := 0xc0001fff#32, cut := 0xc0002001#32 },
    { base := 0x1408a0c, s1 := 0x40, n1 := 4, rw := 0x00000fff#32 },
    { base := 0x1408a10, s1 := 0x40, n1 := 4 },
    { base := 0x1408a14, s1 := 0x40, n1 := 4, rc := 0xffffffff#32 },
    { base := 0x1408a18, s1 := 0x40, n1 := 4, rc := 0xffffffff#32 } ]

/-- CIP_PORT_CFG, CIP_PORT_WIN, CIP_PORT_BYPASS, CIP_TXSC, CIP_TXSCI_LO, CIP_TXSCI_HI, CIP_RXSC_SCI_LO, CIP_RXSC_SCI_HI, CIP_RXSC_CFG, CIP_POOL_CFG, CIP_POOL_STAT, CIP_ALARM_CFG, CIP_ALARM_CTRL, CIP_ALARM_STAT, CIP_CJOB_BASE, CIP_CJOB_SIZE, CIP_CJOB_TAIL, CIP_CJOB_HEAD. -/
def rowsCip0 : List RegRow :=
  [ { base := 0x1800000, s1 := 0x20, n1 := 24, reset := 0x08800000#32, rw := 0xff80ff00#32, par := 0xff80ff00#32, cut := 0xfd818101#32 },
    { base := 0x1800004, s1 := 0x20, n1 := 24, rw := 0xffffffff#32, par := 0xffffffff#32 },
    { base := 0x1800008, s1 := 0x20, n1 := 24, rw := 0xffffffff#32, par := 0xffffffff#32, cut := 0x00010001#32 },
    { base := 0x180000c, s1 := 0x20, n1 := 24, rwh := 0x00000003#32 },
    { base := 0x1800010, s1 := 0x20, n1 := 24, rw := 0xffffffff#32, par := 0xffffffff#32 },
    { base := 0x1800014, s1 := 0x20, n1 := 24, rw := 0xffffffff#32, par := 0xffffffff#32 },
    { base := 0x1801000, s1 := 0x10, n1 := 128, rw := 0xffffffff#32, par := 0xffffffff#32 },
    { base := 0x1801004, s1 := 0x10, n1 := 128, rw := 0xffffffff#32, par := 0xffffffff#32 },
    { base := 0x1801008, s1 := 0x10, n1 := 128, rw := 0x9f000000#32, par := 0x9f000000#32, cut := 0xa1000011#32 },
    { base := 0x1802000, reset := 0x0000001c#32, rw := 0x0000003f#32, par := 0x0000003f#32, cut := 0x00000041#32 },
    { base := 0x1802004, reset := 0x02000000#32, rc := 0x0000ffff#32 },
    { base := 0x1802010, reset := 0x0000000f#32, rwg := 0x0000000f#32, par := 0x0000000f#32, tri := 0x0000000f#32, cut := 0x0000001f#32, guard := true },
    { base := 0x1802018, w1s := 0x00000001#32 },
    { base := 0x180201c, w1c := 0x80000000#32 },
    { base := 0x1802100, rw := 0xffffffff#32, par := 0xffffffff#32 },
    { base := 0x1802104, reset := 0x00000010#32, rw := 0x000007ff#32, par := 0x000007ff#32, cut := 0x00000801#32 },
    { base := 0x1802108, rw := 0x000003ff#32 },
    { base := 0x180210c } ]

/-- CAN_CFG, CAN_NBT, CAN_DBT, CAN_CTRL, CAN_BUF_CMD, CAN_STAT, CAN_WUF_ID, CAN_WUF_IDM, CAN_WUF_CFG, CAN_WUF_DATA_LO, CAN_WUF_DATA_HI, CAN_CNT, LIN_CFG, LIN_SCHED, LIN_STAT, GW_POOL, GW_CNT. -/
def rowsCan0 : List RegRow :=
  [ { base := 0x1a00000, s1 := 0x100, n1 := 24, reset := 0x02040000#32, rw := 0xff07ff00#32, par := 0xff07ff00#32, cut := 0xff090101#32 },
    { base := 0x1a00004, s1 := 0x100, n1 := 24, rw := 0xffffffff#32, par := 0xffffffff#32, cut := 0x01010101#32 },
    { base := 0x1a00008, s1 := 0x100, n1 := 24, rw := 0xffffffff#32, par := 0xffffffff#32, cut := 0x01010101#32 },
    { base := 0x1a0000c, s1 := 0x100, n1 := 24, w1s := 0x00000001#32 },
    { base := 0x1a00010, s1 := 0x100, n1 := 24, wo := 0xc000003f#32 },
    { base := 0x1a00014, s1 := 0x100, n1 := 24 },
    { base := 0x1a00040, s1 := 0x100, n1 := 24, rw := 0x9fffffff#32, par := 0x9fffffff#32, cut := 0xa0000001#32 },
    { base := 0x1a00044, s1 := 0x100, n1 := 24, rw := 0x9fffffff#32, par := 0x9fffffff#32, cut := 0xa0000001#32 },
    { base := 0x1a00048, s1 := 0x100, n1 := 24, rw := 0xc000000f#32, par := 0xc000000f#32, cut := 0xc0000011#32 },
    { base := 0x1a0004c, s1 := 0x100, n1 := 24, rw := 0xffffffff#32, par := 0xffffffff#32 },
    { base := 0x1a00050, s1 := 0x100, n1 := 24, rw := 0xffffffff#32, par := 0xffffffff#32 },
    { base := 0x1a00080, s1 := 0x100, n1 := 24, s2 := 0x4, n2 := 8, rc := 0xffffffff#32 },
    { base := 0x1a02000, s1 := 0x100, n1 := 8, reset := 0x23404b00#32, rw := 0xffc07fff#32, par := 0xffc07fff#32, cut := 0xc8408001#32 },
    { base := 0x1a02004, s1 := 0x100, n1 := 8, rw := 0x8003ffff#32, par := 0x8003ffff#32, cut := 0x80041001#32 },
    { base := 0x1a02008, s1 := 0x100, n1 := 8, rc := 0x0000ffff#32 },
    { base := 0x1a04000, rw := 0x0fff0fff#32, par := 0x0fff0fff#32, cut := 0x10011001#32 },
    { base := 0x1a04040, s1 := 0x4, n1 := 8, rc := 0xffffffff#32 } ]

/-- PWR_CTRL, PWR_STAT, PWR_WAKE_EN, PWR_WAKE_CFG, PWR_PART_PORTS, PWR_PART_BUS, PWR_WAKEIN_CFG, PWR_TC10_CFG, PWR_TIMER, PWR_PREP_CFG, PWR_PARK_CFG, PWR_INH_CFG, PWR_WISP_CFG, PWR_WISP_STAT. -/
def rowsPwr0 : List RegRow :=
  [ { base := 0x1c00000, w1s := 0x0000001e#32, rws := 0x00000001#32 },
    { base := 0x1c00004, w1c := 0x00007fff#32 },
    { base := 0x1c00008, reset := 0x00002000#32, rw := 0x0000ffff#32, par := 0x0000ffff#32, cut := 0x00018001#32 },
    { base := 0x1c0000c, rw := 0xffffffff#32, par := 0xffffffff#32, cut := 0x01000001#32 },
    { base := 0x1c00010, rw := 0x00ffffff#32, par := 0x00ffffff#32, cut := 0x01000001#32 },
    { base := 0x1c00014, rw := 0xffffffff#32, par := 0xffffffff#32, cut := 0x01000001#32 },
    { base := 0x1c00020, s1 := 0x4, n1 := 4, reset := 0x0000000a#32, rw := 0x800000ff#32, par := 0x800000ff#32, cut := 0x80000101#32 },
    { base := 0x1c00030, rw := 0x000000ff#32, par := 0x000000ff#32, cut := 0x00000111#32 },
    { base := 0x1c00034, rwh := 0xffffffff#32 },
    { base := 0x1c00038, reset := 0x00000032#32, rw := 0x0000ffff#32, par := 0x0000ffff#32, cut := 0x00010001#32 },
    { base := 0x1c0003c, rw := 0x00001fff#32, par := 0x00001fff#32, cut := 0x01002001#32 },
    { base := 0x1c00040, reset := 0x000002f3#32, rwg := 0x000003ff#32, par := 0x000003ff#32, tri := 0x000003ff#32, cut := 0x00000421#32, guard := true },
    { base := 0x1c00050, reset := 0x852587d0#32, rw := 0xffffffff#32, par := 0xffffffff#32, cut := 0x81001001#32 },
    { base := 0x1c00060, s1 := 0x4, n1 := 15, rc := 0x0000ffff#32 } ]

/-- PAIR_CFG, PAIR_TIMING, PAIR_ROLE, PAIR_BUS, PAIR_FIT_LO, PAIR_FIT_HI, PAIR_OWN_MAC_LO, PAIR_OWN_MAC_HI, PAIR_PEER_MAC_LO, PAIR_PEER_MAC_HI, PAIR_ST_CFG, PAIR_STAT, PAIR_CTRL, PAIR_CNT. -/
def rowsPair0 : List RegRow :=
  [ { base := 0x1d00000, reset := 0x10f0000a#32, rwg := 0xfff003ff#32, par := 0xfff003ff#32, tri := 0xfff003ff#32, cut := 0xf0900401#32, guard := true },
    { base := 0x1d00008, reset := 0x07d0320a#32, rw := 0xffffffff#32, par := 0xffffffff#32, cut := 0x00010101#32 },
    { base := 0x1d0000c, rwg := 0xffffff07#32, par := 0xffffff07#32, tri := 0xffffff07#32, cut := 0x11111109#32, guard := true },
    { base := 0x1d00014, rw := 0xffffffff#32, par := 0xffffffff#32, cut := 0x01000001#32 },
    { base := 0x1d00018, rw := 0xffffffff#32, par := 0xffffffff#32 },
    { base := 0x1d0001c, rw := 0xffffffff#32, par := 0xffffffff#32 },
    { base := 0x1d00020, rw := 0xffffffff#32, par := 0xffffffff#32 },
    { base := 0x1d00024, rw := 0x0000ffff#32, par := 0x0000ffff#32, cut := 0x00010001#32 },
    { base := 0x1d00028, rw := 0xffffffff#32, par := 0xffffffff#32 },
    { base := 0x1d0002c, rw := 0x0000ffff#32, par := 0x0000ffff#32, cut := 0x00010001#32 },
    { base := 0x1d00030, reset := 0x80a00000#32, rw := 0xffffffff#32, par := 0xffffffff#32, cut := 0x80100001#32 },
    { base := 0x1d00040 },
    { base := 0x1d00044, w1s := 0x00000003#32 },
    { base := 0x1d00080, s1 := 0x4, n1 := 8, rc := 0xffffffff#32 } ]

/-- CPX_CFG, CPX_STAT, CPX_MM, CPX_MM_ADDR, CPX_CNT, CPX_SRAM_ECC, CPX_DOORBELL. -/
def rowsCpx0 : List RegRow :=
  [ { base := 0x1e00000, reset := 0x00100400#32, rwg := 0x803fffff#32, par := 0x803fffff#32, tri := 0x803fffff#32, cut := 0x80410001#32, guard := true },
    { base := 0x1e00008, reset := 0x00100c24#32 },
    { base := 0x1e00010, w1c := 0x80000000#32 },
    { base := 0x1e00014 },
    { base := 0x1e00020, s1 := 0x4, n1 := 5, rc := 0xffffffff#32 },
    { base := 0x1e00034, rc := 0xffffffff#32 },
    { base := 0x1e00040, w1s := 0xffffffff#32 } ]

/-- MEM_ECC_CNT, MEM_ECC_ADDR, MEM_SCRUB_CFG, MEM_TRAIN_CFG, MEM_STAT. -/
def rowsMem0 : List RegRow :=
  [ { base := 0x1f00100, rc := 0xffffffff#32 },
    { base := 0x1f00104, w1c := 0x80000000#32 },
    { base := 0x1f00108, reset := 0x8000000c#32, rw := 0x8000ffff#32, par := 0x8000ffff#32, cut := 0x80010001#32 },
    { base := 0x1f0010c, reset := 0x800a0064#32, rw := 0x80ffffff#32, par := 0x80ffffff#32, cut := 0x81010001#32 },
    { base := 0x1f00110 } ]

/-- The rows of block `b` (02 R21; blocks 6 and 7 hold the two copies of the pipeline blocks). -/
def blockRows : Nat → List RegRow
  | 0 => rowsSys0
  | 1 => rowsEvt0
  | 2 => rowsRol0
  | 3 => rowsTim0
  | 4 => rowsPhs0
  | 5 => rowsSeq0
  | 6 => rowsPipe0 ++ rowsPipe1
  | 8 => rowsQm0 ++ rowsQm1
  | 9 => rowsEth0 ++ rowsEth1
  | 10 => rowsCip0
  | 11 => rowsCan0
  | 12 => rowsPwr0
  | 13 => rowsPair0
  | 14 => rowsCpx0
  | 15 => rowsMem0
  | 7 => rowsPipe0 ++ rowsPipe1
  | _ => []

/-- The mailboxes of chapters 02 to 17 (02 R35, R37): base, number of data words, read (true) or write mailbox. -/
def mailboxRows : List MbxRow :=
  [ { base := 0x0100500, n := 4, rd := true },
    { base := 0x0180000, n := 4, rd := true },
    { base := 0x0180100, n := 8, rd := false },
    { base := 0x0180300, n := 8, rd := true },
    { base := 0x0200200, n := 12, rd := true },
    { base := 0x0200300, n := 4, rd := false },
    { base := 0x0200400, n := 8, rd := true },
    { base := 0x0200500, n := 8, rd := true },
    { base := 0x0200600, n := 12, rd := true },
    { base := 0x0300400, n := 6, rd := true },
    { base := 0x0401000, n := 4, rd := false },
    { base := 0x0401200, n := 4, rd := false },
    { base := 0x0401300, n := 4, rd := true },
    { base := 0x0401400, n := 16, rd := true },
    { base := 0x0803000, n := 4, rd := false },
    { base := 0x0803100, n := 4, rd := true },
    { base := 0x0803180, n := 4, rd := true },
    { base := 0x0803200, n := 8, rd := false },
    { base := 0x0803300, n := 8, rd := true },
    { base := 0x1803000, n := 16, rd := false },
    { base := 0x1803100, n := 8, rd := true },
    { base := 0x1803200, n := 2, rd := true },
    { base := 0x1403000, n := 2, rd := false },
    { base := 0x1403100, n := 1, rd := true },
    { base := 0x1403200, n := 2, rd := true },
    { base := 0x1a04100, n := 8, rd := false },
    { base := 0x1a04200, n := 4, rd := false },
    { base := 0x1007f40, n := 8, rd := true },
    { base := 0x1d00100, n := 12, rd := true },
    { base := 0x0000400, n := 9, rd := false } ]

end Sys2Proof.Machine
end

