-- ==== Sys2Proof/Machine/State.lean ====
section
/-! DEFINITION. The state of the device as plain data. Every register of the register fabric has its home in `regs`
(keyed by byte address); the records beside it hold what the spec gives the machine outside the register fabric. -/

namespace Sys2Proof.Machine

/-- Why the model stops. -/
inductive Fault where
  /-- Raised by a meaning whose command carries an operand that no command of the device can have (a byte string longer
  than the interface allows, `Sys2Proof.Instr.wellFormed`). Safe: the model stops where the device never goes. -/
  | illFormed (command : String)
deriving DecidableEq, Repr

/-- Why the model gives a command no meaning. -/
inductive Refusal where
  /-- The arm of a command that has no meaning yet. Safe. No arm answers it in this model. -/
  | notModelled (mnemonic : String)
deriving DecidableEq, Repr

/-- 12 R274, R278, R279, R290, R291: what a lane, or the pair of a 10BASE-T1S port, transmits. -/
inductive LaneSig where
  | idleElec
  | normal
  | remoteFault
  | idle
  | prbs7
  | prbs31
  /-- The received line data (far-end loopback). -/
  | farEnd
deriving DecidableEq, Repr

/-- What the device does to the outside, newest first in `State.out`. -/
inductive Output where
  | readData (i : Nat) (data : Nat)
  | busError (i : Nat)
  | msix (n : Nat)
  | pin (name : String) (index : Nat) (level : Bool)
  /-- An edge at a placed instant, in units of 250 ps (06 R132). -/
  | edge (name : String) (index : Nat) (level : Bool) (instant : Nat)
  /-- A frame sent on an external port, from its destination address to its last byte (09, 12). -/
  | frame (port : Nat) (bytes : List Byte)
  /-- A copy that ends on a port before its last byte, with the complement of an FCS over what has left
  (10 R242, 11 R268, 12 R278). -/
  | abandoned (port : Nat)
  /-- A read the device makes in host memory, or a write it makes there (12 R296). -/
  | hostWrite (address : Nat) (bytes : List Byte)
  /-- A pulse of HB_OUT, in ns (15 R359). -/
  | pulse (name : String) (ns : Nat)
  /-- A frame that CAN controller `c` sends: identifier word (05 R112), brs and rtr, the header words H0 and H1, the data. -/
  | can (c ident flags h0 h1 : Nat) (data : List Byte)
  /-- The ACK of CAN controller `c` to a frame on its bus (13 R307). -/
  | canAck (c : Nat)
  /-- A LIN response that controller `l` sends for an identifier, and its checksum byte (13 R303). -/
  | lin (l ident : Nat) (data : List Byte) (sum : Nat)
  /-- A header that LIN commander `l` sends: a break of `brk` bits, the sync byte 0x55, the protected identifier (13 R303). -/
  | linHead (l brk pid : Nat)
  /-- Bytes that the boot ROM sends over UART (17 R397). -/
  | uart (bytes : List Byte)
  /-- A TC10 wake-up pulse on a T1S port (16 R382). -/
  | wup (port : Nat)
  /-- The boundary cells drive the pins under the test instruction `code` (18 R432). -/
  | boundary (code : Nat) (cells : Nat)
  /-- What a scan of the data register of the test port shifts out (18 R432). -/
  | tdo (bits : Nat)
  /-- An MDIO frame of master `m`, `n` bits long, the first bit most significant (12 R285). -/
  | mdio (m n : Nat) (bits : Nat)
  /-- What the lane of a port transmits from now on. -/
  | lane (port : Nat) (sig : LaneSig)
  /-- The in-band control word that a port transmits from now on (12 R276). -/
  | inband (port word : Nat)
  /-- A BEACON of a PLCA coordinator (12 R288). -/
  | beacon (port : Nat)
deriving DecidableEq, Repr

/-- 02 R39: a first-fault record, with the TIME tick in which its cause arose. -/
structure FfRec where
  frt : Nat
  tick : Nat
  cause : Nat
  idx : Nat
deriving DecidableEq, Repr

/-- 02 R39, R41: what a source keeps beside EVT_SRC_STAT. -/
structure EvtSt where
  ff : FfRec := ⟨0, 0, 0, 0⟩
  winOpen : Bool := false
  winEnd : Nat := 0
  winCnt : Nat := 0
deriving DecidableEq, Repr

/-- 02 R28: a guarded pair that waits for its complement. -/
structure GuardPend where
  i : Nat
  a : Nat
  v : Word
  deadline : Nat
deriving DecidableEq, Repr

/-- 02 R31 to R33: the parity faults of a register: bits of fields in safe behaviour, and bits of T fields that wait
for their restore. -/
structure ParSt where
  bad : Word := 0#32
  vote : Word := 0#32
deriving DecidableEq, Repr

/-- 02 R44, R47: the role session of one initiator and its outstanding challenge. -/
structure RoleSess where
  role : Nat := 0
  lastResult : Nat := 0
  reqRole : Nat := 0
  chalRole : Nat := 0
  chal : BitVec 128 := 0#128
  chalValid : Bool := false
  chalEnd : Nat := 0
deriving DecidableEq, Repr

/-- 02 R48: failures and lockout of one role (always-on store). -/
structure RoleLock where
  fails : Nat := 0
  locks : Nat := 0
  locked : Bool := false
  lockEnd : Nat := 0
deriving DecidableEq, Repr

/-- 02 R49, R50: fuses of the role secrets and the lifecycle. -/
structure RoleFuse where
  state : Nat := 2
  target : Nat := 2
  instUsed : Nat := 0
  operUsed : Nat := 0
  instSecret : Option (BitVec 256) := none
  operSecret : Option (BitVec 256) := none
  voided : Bool := false
deriving DecidableEq, Repr

/-- 02 R52 to R54: the audit log (always-on store). -/
structure AudSt where
  ring : Cells (BitVec 112) := []
  next : Nat := 0
  cnt : Nat := 0
  head : BitVec 256 := 0#256
  base : BitVec 256 := 0#256
  anchor : Option Nat := none
deriving DecidableEq, Repr

/-- 03 R69: an entry of a timestamp FIFO. -/
structure TsEntry where
  seqId : Nat
  mtype : Nat
  domNum : Nat
  lost : Bool
  dom : Nat
  domHit : Bool
  port : Nat
  frt : Nat
  other : Nat
deriving DecidableEq, Repr

/-- 03: health bookkeeping of one gPTP domain. -/
structure DomSt where
  lastKick : Option Nat := none
  incKick : Nat := 0x400000000
  lostRaised : Bool := false
deriving DecidableEq, Repr

/-- 03 R55 to R73: the time base. Counters count units of 2^-32 ns. `evalDue` says that a domain's health or the configuration has changed
on this tick (R61); `adj` are the offsets (false) and times (true) that act on counters on the next tick (R57); `lat` the value before
of a latency constant written on a tick, by address and tick (R66); `ppsDue` the placement within the tick of a second that the
selected clock has just passed, `ppsFall` the fall of the pulse, both in units of 250 ps (R71). -/
structure TimSt where
  frt : Nat := 0
  dta : Nat := 0
  dtb : Nat := 0
  wkt : Nat := 0
  domA : DomSt := {}
  domB : DomSt := {}
  frozen : Nat := 0x400000000
  rxts : List TsEntry := []
  rxLost : Bool := false
  txts : List TsEntry := []
  txLost : Bool := false
  ppsDue : Option Nat := none
  ppsOut : Bool := false
  ppsFall : Nat := 0
  evalDue : Bool := false
  adj : List (Nat × Bool × Int) := []
  lat : List (Nat × Nat × Nat) := []
deriving DecidableEq, Repr

/-- 04 R84: an observation that waits for its application tick. `kind` 0 edge, 1 quadrature, 2 sample; `stamp` in units
of 2^-32 ns on the TIME tick scale; `theta` the count angle or the sample angle; `cap` a sample's capture time. -/
structure PhObs where
  kind : Nat
  theta : Nat
  stamp : Int
  cap : Nat
  capBad : Bool
  fault : Bool
  z : Bool
  ready : Nat
deriving DecidableEq, Repr

/-- 04 R77 to R88: a phase domain. -/
structure PhSt where
  theta : Nat := 0
  omega : Int := 0
  hat : Nat := 0
  hatPrev : Nat := 0
  mPrev : Nat := 0
  upd : Nat := 0
  levA : Bool := false
  levB : Bool := false
  count : Nat := 0
  lastEdge : Option Int := none
  queue : List PhObs := []
  lastApply : Option Nat := none
  prevObs : Option Int := none
  acqN : Nat := 0
  firstTheta : Nat := 0
  run : Nat := 0
  reest : Nat := 0
  since : Nat := 0
  holdSince : Nat := 0
  hadLoss : Bool := false
  lastCap : Option Nat := none
  quadErr : List Nat := []
  zAt : Option Int := none
  rev : Bool := false
deriving DecidableEq, Repr

/-- 05 R109, 06 R130: a queued time entry; `tgt` in units of 2^-32 ns of WKT, `post` its posting number, `due` the tick
that selected it and its placement k (06 R131, R132). -/
structure TEnt where
  word : Word
  tgt : Nat
  post : Nat
  posted : Nat
  late : Bool
  due : Option (Nat × Nat)
deriving DecidableEq, Repr

/-- 05 R109: an armed angle entry. -/
structure AEnt where
  word : Word
  dom : Nat
  dir : Nat
  tau : Nat
  post : Nat
  armed : Nat
deriving DecidableEq, Repr

/-- 05 R105 to R107: a wait in progress; `kind` 0 none, 1 WAITT, 2 WAITA, 3 WAITE; `reg` the angle of a WAITA or the condition word of
a WAITE, `tt` the target or timeout as a counter value, `off` the branch offset, `since` the tick of issue. -/
structure WaitSt where
  kind : Nat := 0
  reg : Nat := 0
  dom : Nat := 0
  dir : Nat := 0
  tt : Nat := 0
  off : Int := 0
  since : Nat := 0
deriving DecidableEq, Repr

/-- 05 R96, 06 R121 to R133: a sequencer beside its registers SEQ_STAT (state, pc, wait), SEQ_TRAP and SEQ_QSTAT. `start` is the
tick of its start, `cyc` its local time in SEQ cycles since then, `wdog` its watchdog count in ticks and `wperiod` the
period in use in µs; `sig` holds the signal flags of earlier ticks and `fresh` those set on tick `freshAt`,
visible from the next (06 R134). -/
structure SeqSt where
  g : Vector Word 16 := Vector.replicate 16 0#32
  t : Vector (BitVec 96) 4 := Vector.replicate 4 0#96
  ax : Vector Word 4 := Vector.replicate 4 0#32
  ws : Word := 0#32
  sig : BitVec 8 := 0#8
  fresh : BitVec 8 := 0#8
  freshAt : Nat := 0
  start : Nat := 0
  cyc : Nat := 0
  wdog : Nat := 0
  wdogZero : Bool := false
  wperiod : Nat := 0
  wait : WaitSt := {}
  tq : List TEnt := []
  aq : List AEnt := []
  post : Nat := 0
deriving DecidableEq, Repr

/-- 06 R137: the contents of an activation set. -/
structure ActSt where
  writes : List (Nat × Word) := []
  ctrl : Word := 0#32
deriving DecidableEq, Repr

/-- 06 R135: a SYNC_OUT pin; `fall` in units of 250 ps. -/
structure SyncPin where
  level : Bool := false
  fall : Option Nat := none
deriving DecidableEq, Repr

/-- 08 R174, R175, R182: an entry of the forwarding database. `mac` is a 48-bit number, the first byte on the wire most
significant; `win` the end of an open move window. -/
structure FdbEnt where
  mac : Nat
  vid : Nat
  fixed : Bool
  dest : Nat
  hit : Bool := true
  stale : Bool := false
  frozen : Bool := false
  frzEnd : Nat := 0
  win : Option Nat := none
  moves : Nat := 0
deriving DecidableEq, Repr

/-- 08 R176: an entry of the flow table, in the words of FLW_CMD. -/
structure FlwEnt where
  kind : Nat
  w1 : Nat
  w2 : Nat
  w3 : Nat
  d4 : Nat
  d5 : Nat
deriving DecidableEq, Repr

/-- 08 R181: a queued learning request. -/
structure LearnReq where
  mac : Nat
  vid : Nat
  port : Nat
  dest : Nat
deriving DecidableEq, Repr

/-- 08 R174: a flush in progress: the next slot and the criteria. -/
structure FlushSt where
  next : Nat
  vid : Nat
  dest : Nat
  sel : Nat
deriving DecidableEq, Repr

/-- 08: the table engines of one pipeline, and 07 R154: the banks whose decision points are being recomputed. `sweepAt` is
the instant of the next aging visit in units of a TIME tick / 32768. -/
structure PipeSt where
  learnQ : List LearnReq := []
  notif : List (List Nat) := []
  notifLost : Bool := false
  sweep : Nat := 0
  sweepAt : Nat := 0
  flush : Option FlushSt := none
  stale0 : Bool := false
  stale1 : Bool := false
  swapTick : Option Nat := none
  swapAct : Bool := false
deriving DecidableEq, Repr

/-- 07 R146 to R153: what the parser found in a frame. `fv` holds the template fields f0 to f23. -/
structure ParseRes where
  tags : Nat := 0
  tpl : Nat := 0
  kind : Nat := 0
  exc : Nat := 0
  vid : Nat := 0
  pcp : Nat := 0
  ety : Nat := 0
  l4off : Nat := 0
  hint : Option Nat := none
  hintBad : Bool := false
  minL3 : Nat := 0
  fv : List (Option Nat) := []
deriving DecidableEq, Repr

/-- 09 R196: the resolved action. -/
structure Act where
  exc : Nat := 0
  tpl : Nat := 0
  rule : Option Nat := none
  pat : Option Nat := none
  frer : Bool := false
  stream : Nat := 0
  maxSdu : Nat := 0
  inPort : Nat := 0
  pass : Nat := 0
  macsec : Bool := false
  drop : Bool := false
  stage : Nat := 0
  copy24 : Bool := false
  recirc : Bool := false
  tc : Nat := 0
  pcp : Nat := 0
  vid : Nat := 0
  mir : Nat := 0
  mode : Nat := 0
  dest : Nat := 0
deriving DecidableEq, Repr

/-- 11 R256, R257: a received frame's SecTAG: its SA slot, its PN, whether its data is encrypted, whether its ICV agrees,
and the number of bytes of the SecTAG. -/
structure SecRx where
  slot : Nat
  pn : Nat
  enc : Bool
  icvOk : Bool
  tagLen : Nat
deriving DecidableEq, Repr

/-- 09 R195: a frame in the device. `wire` is the frame as the link delivers it, FCS included; `data` the frame the parser
reads, without its FCS, and `len` its length with it. `secDue` is 1 until its SecTAG has
been checked, `sduHit` says that it has been found longer than its max_sdu, `mirDone` names the mirror sessions that have a copy, `hb` marks a frame that the pair logic takes. `verd` is 1 while a MACsec verdict is pending. `tsDom`
are the timestamps in the clocks of domains A and B. `pool` cells are
debited from F and `resv` from express reserves (09 R199, R200); `banks` names
each cell by slice × 16 + bank and its place in the bank, the newest first, `peatBlk` its Peat blocks; `cut` says that a copy of it may
cut through. -/
structure Frame where
  id : Nat := 0
  port : Nat := 0
  inPort : Nat := 0
  pass : Nat := 0
  wire : List Byte := []
  abort : Bool := false
  ovl : Bool := false
  fcsOk : Bool := true
  rcvd : Nat := 0
  ended : Bool := false
  data : List Byte := []
  len : Nat := 0
  tagged : Bool := false
  secDue : Bool := false
  hb : Bool := false
  sec : Option SecRx := none
  verd : Nat := 0
  head : Option ParseRes := none
  looked : Bool := false
  code : Nat := 0
  act : Act := {}
  tsOk : Bool := false
  tsFrt : Nat := 0
  tsWkt : Nat := 0
  tsDom : List Nat := []
  launch : Option Nat := none
  oneStep : Nat := 0
  ref : Nat := 0
  cells : Nat := 0
  pool : Nat := 0
  resv : List (Nat × Nat) := []
  banks : List (Nat × Nat) := []
  peatBlk : List Nat := []
  spilled : Bool := false
  cut : Bool := false
  hold : List (Nat × Nat) := []
  bankB : Option Nat := none
  begun : Bool := false
  sduHit : Bool := false
  mirDone : Nat := 0
  finding : Option Nat := none
  meter : Option (Nat × Nat) := none
  seqIn : Option Nat := none
  seqGen : Option Nat := none
  accepted : Bool := false
  mode : Nat := 0
deriving DecidableEq, Repr

/-- 09 R194, 10 R221: a copy in an egress queue. `st` is 0 queued, 1 in transmission, 2 suspended by preemption; `timed`
waits for its launch time; `rel` is its launch time or release instant in units of 2^-32 ns of
WKT; `vf` its virtual finish time (10 R234). `read` counts the cells read for it (09 R206), `paid` the part of its wire time that has
passed and `frag` what of it had passed when its fragment began, in 10^-6 bit (10 R233, R239), and `cutReq` asks for the end of its
fragment. The rest is fixed when its transmission begins. -/
structure Copy where
  id : Nat := 0
  fid : Nat := 0
  port : Nat := 0
  tc : Nat := 0
  mir : Option Nat := none
  adm : Nat := 0
  deadline : Nat := 0
  elig : Bool := false
  st : Nat := 0
  peat : Bool := false
  fromRes : Bool := false
  timed : Bool := false
  rel : Option Nat := none
  vf : Option Nat := none
  mark : Bool := false
  start : Nat := 0
  ed : Word := 0#32
  rtag : Option Nat := none
  stamp : List Nat := []
  slot : Option Nat := none
  pn : Nat := 0
  secCfg : Word := 0#32
  sci : Nat := 0
  read : Nat := 0
  paid : Nat := 0
  frag : Nat := 0
  cutReq : Bool := false
deriving DecidableEq, Repr

/-- 09 R206: the egress matcher: the express pointers of the two slices; the grant pointers of the sixteen read ports (slice × 8 +
read port) and the SWC cycles until which they read; the accept pointers of the ports. -/
structure MatchSt where
  expr : List Nat := []
  grant : List Nat := []
  busy : List Nat := []
  accept : List Nat := []
deriving DecidableEq, Repr

/-- 12 R277 to R291: a port beside its registers: the frame in reception, the tick of the last change of its receive
path, the loopback and test settings in use, the last BEACON, collisions of the frame in transmission, a loss of PLCA, and the
conditions of its receive path: lock, local fault, remote fault. `sig` is what its lane transmits, `loop` the frames that a near-end
loopback has taken and not yet delivered, oldest first. Of PLCA (R288): `toOn` that the transmit opportunities run, `toId` the one in
progress and `toAt` the tick since which it is idle, `toBusy` that a frame is or was on the segment in it, and `burst` the further frames
that this port has been allowed in it. -/
structure PortSt where
  rx : Option Nat := none
  since : Nat := 0
  lpbk : Nat := 0
  prbs : Nat := 0
  beacon : Nat := 0
  coll : Nat := 0
  plcaLost : Bool := false
  lock : Bool := false
  lf : Bool := false
  rf : Bool := false
  gates : List (Nat × Nat) := []
  sig : LaneSig := .idleElec
  loop : List (List Byte) := []
  toOn : Bool := false
  toId : Nat := 0
  toAt : Nat := 0
  toBusy : Bool := false
  burst : Nat := 0
deriving DecidableEq, Repr

/-- 12 R295: what a writable word of the endpoint's configuration space holds after its reset (log entry 59). -/
def cfgReset (o : Nat) : Word := if o = 0x68 then 0x2810#32 else if o = 0x10c then 0x462030#32 else 0#32

/-- What a word of the MSI-X table holds after a reset of the endpoint: every vector is masked (log entry 59). -/
def msixReset (k : Nat) : Word := if k % 4 = 3 then 1#32 else 0#32

/-- 12 R295: the PCIe endpoint: the writable words of its configuration space by byte offset, the words of its MSI-X table, and the
vectors whose message waits behind a mask, oldest first. -/
structure PcieSt where
  cfg : Cells Word := []
  tbl : Cells Word := []
  pba : List Nat := []
deriving DecidableEq, Repr

/-- 10 R235: a Weir bucket in units of 1/8000000 byte, as it stood at tick `at`. -/
structure MeterSt where
  tok : Int := 0
  upd : Nat := 0
deriving DecidableEq, Repr

/-- 11 R260: an SA slot. -/
structure SaSlot where
  valid : Bool := false
  retiring : Bool := false
  kind : Nat := 0
  xpn : Bool := false
  aes256 : Bool := false
  bound : Bool := false
  rx : Bool := false
  sc : Nat := 0
  an : Nat := 0
  key : List Byte := []
  hkey : BitVec 128 := 0#128
  salt : List Byte := []
  ssci : Nat := 0
  pn : Nat := 0
  lowPn : Nat := 0
  limit : Nat := 0
  exh : Bool := false
deriving DecidableEq, Repr

/-- 11 R270: a Carr job in progress: its ring index and its descriptor as the pool read it. -/
structure CJob where
  idx : Nat
  desc : List Byte
deriving DecidableEq, Repr

/-- 12 R286: an MDIO operation in progress. -/
structure MdioSt where
  busy : Bool := false
  op : Nat := 0
  master : Nat := 0
  d0 : Nat := 0
  d1 : Nat := 0
deriving DecidableEq, Repr

/-- 15 R349 to R355: a FRER stream beside its registers; `was` the counts since the last latent reset as they stood before the tick
`wasAt`, in which they last changed (R352). -/
structure FreSt where
  hist : Nat := 0
  genSeq : Nat := 0
  lastPass : Option Nat := none
  cnt : List Nat := [0, 0, 0, 0, 0, 0, 0, 0]
  base : List Int := [0, 0, 0]
  baseAt : Nat := 0
  testAt : Nat := 0
  was : List Int := [0, 0, 0]
  wasAt : Nat := 0
deriving DecidableEq, Repr

/-- 13 R304, R307, R312: a CAN controller beside its registers and its message RAM. `gwq` holds the buffer references of its
gateway transmit queue in GTX order; `tx` the message in transmission: a buffer (0, b) or a gateway message (1, unit);
`recov` that the 128 occurrences of 11 recessive bits have passed since it entered bus-off. For what meets in one BUS cycle (R313, R318):
`req` the last buffer that software requested and the cycle, `rel` the last that it released, the cycle and whether the buffer was full,
`late` the entries that joined the gateway queue in the cycle `lateAt`, `ignAt` the cycle in which ignore was set. -/
structure CanSt where
  gwq : List Nat := []
  tx : Option (Nat × Nat) := none
  recov : Bool := false
  req : Option (Nat × Nat) := none
  rel : Option (Nat × Nat × Bool) := none
  late : List Nat := []
  lateAt : Nat := 0
  ignAt : Option Nat := none
deriving DecidableEq, Repr

/-- 13 R320: a LIN commander's schedule: the next entry and the WKT at which its slot starts. -/
structure LinSt where
  pos : Nat := 0
  next : Option Nat := none
deriving DecidableEq, Repr

/-- 13 R308, R310: a message in the gateway pool: its first unit, its units, the references held on it, and what its handle
and its identifier word say. `flags` is brs in bit 1 and rtr in bit 0. -/
structure GwMsg where
  unit : Nat
  n : Nat
  refs : Nat
  kind : Nat
  bus : Nat
  ident : Nat
  flags : Nat
deriving DecidableEq, Repr

/-- 13 R314, R315: a batch: its eight configuration words, the sequence number of its next frame, and its open frame: the
ACF bytes, the messages in it, the tick of the first one and their buffer references. -/
structure BatchSt where
  cfg : List Nat := []
  seqNum : Nat := 0
  acf : List Byte := []
  count : Nat := 0
  first : Nat := 0
  refs : List Nat := []
deriving DecidableEq, Repr

/-- 13 R315: a sealed frame that waits for P26. -/
structure Sealed where
  batch : Nat
  acf : List Byte
  refs : List Nat
deriving DecidableEq, Repr

/-- 13 R316, R321: a receive stream. -/
structure RxStr where
  en : Bool := false
  sq : Nat := 0
  sid : Nat := 0
  last : Option Nat := none
deriving DecidableEq, Repr

/-- 14 R331 to R338: Carr beside its registers: the window signature of each position, the last CHKPT signature of each
core, a failed core, whether the odd core has passed its self-test, the number of the next comparator injection and the tick of the last
one, the window length in use and the CPX cycle in which the present window began, the LR
reservation; 01 R19: the bytes of the L1 caches by core × 65,536, the instruction cache first, of which the cores alone know (log
entry 18); and 14 R343: the last training of the LPDDR5X and the junction temperature at it. -/
structure CarrSt where
  sigs : List Nat := [0, 0, 0]
  chk : List Nat := [0, 0, 0]
  bad : Option Nat := none
  tested : Bool := false
  inj : Nat := 0
  injAt : Nat := 0
  winLen : Nat := 1024
  winAt : Nat := 0
  lr : Option Nat := none
  l1 : Cells Byte := []
  trainAt : Option Nat := none
  trainTemp : Int := 0
deriving DecidableEq, Repr

/-- 15 R357 to R368: the pair logic beside its registers. Of the two paths (pin, frame): the tick of the last valid heartbeat,
whether the path has been in fault, and the run of unfit heartbeats. `pinCode` is the last pulse width in ns, `frCond` whether
the last frame showed STANDBY and fit; `stby` the tick since which both paths show it. `ann` is the announced instant T and
`annOk` its echo, `echo` the instant that this unit echoes, `busWant` the bus role's pending change. `repLast` is the tick from which the
30 ms of R368 count, `done` the self-test items that the present cycle has covered and `cycAt` the tick at which that cycle begins. -/
structure PairSt where
  since : Nat := 0
  hbAt : Nat := 0
  repAt : Nat := 0
  last : List (Option Nat) := [none, none]
  faulted : List Bool := [false, false]
  unfit : List Nat := [0, 0]
  heard : Bool := false
  peerFit : Bool := true
  pinCode : Nat := 0
  frCond : Bool := false
  stby : Option Nat := none
  ann : Option Nat := none
  annOk : Bool := false
  echo : Option Nat := none
  busWant : Option Bool := none
  hbSeq : Nat := 0
  repSeq : Nat := 0
  cycles : Nat := 0
  fails : Nat := 0
  item : Nat := 0
  repLast : Option Nat := none
  peerFails : Nat := 0
  done : List Nat := []
  cycAt : Nat := 0
deriving DecidableEq, Repr

/-- 16 R375 to R386: the power logic beside its registers. `prepAt` the tick at which PREPARE began; `lateSrc` a wake latched
in DESCEND; `latchAt` the tick of the latch that aborted the last entry or began the last wake; `wakeStep` the steps of R383 a wake has passed: 1 latched, 2 power good, 3 PLLs locked, 4 pipelines ready; `ticks` the
TIME ticks since SLEEP_COMMIT; `timer` the part of a 1/1024 s that PWR_TIMER has counted, in ticks × 1024, and `timerHit` that it has
reached 0; `wisp` per wake whose validation is still due its first source and the end of its window, oldest first, and `judged` that the last
wake's is not; `maskEnd` the end of a source's back-off; `inh` the
levels of INH_OUT; `pins` the WAKE_IN pins that hold their active level; `fast` the ports that take link up without up_hold;
`later` events that arose in FEN, raised after the wake. -/
structure PwrSt where
  prepAt : Nat := 0
  lateSrc : Option Nat := none
  latchAt : Option Nat := none
  wakeStep : Nat := 0
  ticks : Nat := 0
  timer : Nat := 0
  timerHit : Bool := false
  wisp : List (Nat × Nat) := []
  judged : Bool := false
  maskEnd : Cells Nat := []
  inh : Nat := 3
  pins : Nat := 0
  fast : Nat := 0
  later : List (Nat × Nat × Nat) := []
deriving DecidableEq, Repr

/-- 17 R394 to R404: the boot ROM. `stage` 0 in reset, 1 verifies the staged set, 2 the active set, 3 waits for a container in the
SYS_BOOT window, 4 receives one over UART, 5 verifies the window's, 6 the UART's, 7 has booted. `carr` says that the reset is of Carr
alone; `relAt` the release of the last device-scope reset; `sessEnd` the end of the Installer session that the boot granted; `faultHold`
that FAULT_n waits for load_done; `uart` the container received; `beaconAt` the last beacon, none once a byte has arrived. `flashOp` 0 none,
1 erase, 2 program: the SYS_FLASH command in progress; `carrNew` the tick of the last Carr reset and the bit of SYS_RST_CAUSE that it
set new, for a device-scope reset of the same tick (R392). -/
structure BootSt where
  stage : Nat := 0
  carr : Bool := false
  relAt : Nat := 0
  sessEnd : Option Nat := none
  faultHold : Bool := true
  uart : List Byte := []
  beaconAt : Option Nat := none
  flashOp : Nat := 0
  flashAddr : Nat := 0
  flashData : List Byte := []
  carrNew : Option (Nat × Nat) := none
deriving DecidableEq, Repr

/-- 18 R431 to R435: the test access port: the instruction in its register, whether it holds the functional logic in reset, the update
stage of the boundary register, the units a debug session has halted (0 to 7 the sequencers, 8 Carr), the result of the last register access, the self-test
in progress (1 MBIST, 2 LBIST) and its status, and the trim and fuse words shifted in, newest first. -/
structure JtagSt where
  ir : Nat := 1
  held : Bool := false
  bnd : BitVec 612 := 0#612
  halted : List Nat := []
  acc : Word := 0#32
  bist : Nat := 0
  bistStat : Word := 0#32
  trim : List (BitVec 64) := []
  fuse : List (BitVec 64) := []
deriving DecidableEq, Repr

/-- 18 R420: the temperature warnings that have not re-armed: `temp_warn`, `temp_crit`. -/
structure MonSt where
  warned : Bool := false
  crit : Bool := false
deriving DecidableEq, Repr

/-- The state of the device. -/
structure State where
  pending : List Instr
  now : Nat
  freeIdx : Nat
  out : List Output
  regs : Cells Word
  par : Cells ParSt
  guards : Cells (Option GuardPend)
  evt : Cells EvtSt
  sess : Cells RoleSess
  lock : Cells RoleLock
  fuse : RoleFuse
  aud : AudSt
  tim : TimSt
  wktPrev : Nat
  phs : Cells PhSt
  phLev : Cells Bool
  seq : Cells SeqSt
  acts : Cells ActSt
  sync : Cells SyncPin
  win : Cells Byte
  fdb : Cells (Option FdbEnt)
  flw : Cells (Option FlwEnt)
  pipe : Cells PipeSt
  ruleBad : Cells Bool
  ruleCnt : Cells Nat
  latch : Cells (Option (Nat × Nat))
  nextId : Nat
  frames : List Frame
  copies : List Copy
  matcher : MatchSt
  bankUse : Cells Nat
  bankPtr : Cells Nat
  spilling : Bool
  peatFull : Bool
  ports : Cells PortSt
  credit : Cells Int
  wfq : Cells Nat
  wfqV : Cells Nat
  meters : Cells MeterSt
  mib : Cells Nat
  sa : Cells SaSlot
  rxLast : Cells Nat
  cipMib : Cells Nat
  cjobs : List CJob
  eraseBad : Bool
  ringPtr : Cells Nat
  pcieGen : Nat
  pcie : PcieSt
  mdio : MdioSt
  fre : Cells FreSt
  sram : Cells Byte
  can : Cells CanSt
  lin : Cells LinSt
  msgs : List GwMsg
  inq : Cells (List Nat)
  held : Cells (List Nat)
  batch : Cells BatchSt
  sealedQ : List Sealed
  rxStr : Cells RxStr
  carr : CarrSt
  dram : Cells Byte
  pair : PairSt
  pwr : PwrSt
  boot : BootSt
  flash : Cells Byte
  jtag : JtagSt
  mon : MonSt
deriving DecidableEq, Repr

/-- 02 R54: the digest over no entry, of the device identifier, least significant byte first (log entry 51). -/
def audSeed : BitVec 256 := BitVec.ofNat 256 (beNat (sha256 (leBytes 8 Config.devId.toNat)))

/-- The device right after a power-on reset: ROL_LC_REQ (0x0018_0228) reads the lifecycle state, FIELD (log entry 14). -/
def State.reset : State :=
  { pending := [], now := 0, freeIdx := 0, out := [], regs := [(0x0180228, 2#32)], par := [], guards := [], evt := [], sess := [],
    lock := [], fuse := {}, aud := { head := audSeed, base := audSeed }, tim := {}, wktPrev := 0, phs := [], phLev := [],
    seq := [], acts := [], sync := [], win := [], fdb := [], flw := [], pipe := [], ruleBad := [], ruleCnt := [],
    latch := [], nextId := 0, frames := [], copies := [], matcher := {}, bankUse := [], bankPtr := [], spilling := false,
    peatFull := false, ports := [],
    credit := [], wfq := [], wfqV := [], meters := [], mib := [], sa := [], rxLast := [], cipMib := [], cjobs := [], eraseBad := false, ringPtr := [], pcieGen := 0, pcie := {}, mdio := {}, fre := [],
    sram := [], can := [], lin := [], msgs := [], inq := [], held := [], batch := [], sealedQ := [], rxStr := [],
    carr := {}, dram := [], pair := {}, pwr := {}, boot := {}, flash := [], jtag := {}, mon := {} }

end Sys2Proof.Machine
end

