-- ==== Sys2Proof/Machine/Ops.lean ====
section
/-! DEFINITION. The named operations every meaning is written over: reading and writing a register as the hardware does,
raising an event cause (02 R38 to R43), recording an audit entry (02 R52 to R54), delivering to a mailbox (02 R35, R37),
time arithmetic (03 R55). -/

namespace Sys2Proof.Machine

/-! ### The register map -/

/-- 02 R21: the block that an address belongs to. -/
def blockOf (a : Nat) : Nat :=
  if a < 0x0800000 then
    (if a < 0x0100000 then 0 else if a < 0x0180000 then 1 else if a < 0x0200000 then 2 else if a < 0x0300000 then 3
     else if a < 0x0400000 then 4 else 5)
  else if a < 0x1800000 then
    (if a < 0x0c00000 then 6 else if a < 0x1000000 then 7 else if a < 0x1400000 then 8 else 9)
  else if a < 0x1c00000 then (if a < 0x1a00000 then 10 else 11)
  else if a < 0x1e00000 then (if a < 0x1d00000 then 12 else 13)
  else if a < 0x2000000 then (if a < 0x1f00000 then 14 else 15)
  else 16

/-- The base of a block (02 R21). -/
def blockBase (b : Nat) : Nat :=
  [0x0000000, 0x0100000, 0x0180000, 0x0200000, 0x0300000, 0x0400000, 0x0800000, 0x0c00000, 0x1000000, 0x1400000,
   0x1800000, 0x1a00000, 0x1c00000, 0x1d00000, 0x1e00000, 0x1f00000].getD b 0x1f80000

/-- 02 R34: the address of a block's INTEG register; INTEG_ADDR follows at + 0x4. Block 16 has its pair at 0x01FF_FF00. -/
def integAddr (b : Nat) : Nat := if b = 16 then 0x1ffff00 else blockBase b + 0x7ff00

/-- Whether a row of the register map holds the address. -/
def rowHit (r : RegRow) (a : Nat) : Bool :=
  if a < r.base then false
  else
    let o := a - r.base
    if r.n2 = 1 then decide (o % r.s1 = 0) && decide (o / r.s1 < r.n1)
    else decide (o / r.s1 < r.n1) && decide (o % r.s1 % r.s2 = 0) && decide (o % r.s1 / r.s2 < r.n2)

/-- The address with pipeline B's copy folded onto pipeline A's. -/
def foldPipe (a : Nat) : Nat := if blockOf a = 7 then a - 0x400000 else a

/-- The row of the register map at an address. -/
def rowAt (a : Nat) : Option RegRow := (blockRows (blockOf a)).find? (fun r => rowHit r (foldPipe a))

/-- What a register address holds. -/
inductive RegKind where
  | reg (r : RegRow)
  | comp (r : RegRow)
  | mctrl (m : MbxRow)
  | mstat (m : MbxRow)
  | mdata (m : MbxRow) (k : Nat)
  | integ
  | integA
  | none
deriving DecidableEq, Repr

/-- The mailbox word at an address, relative to the mailbox. -/
def mbxKind (m : MbxRow) (a : Nat) : Option RegKind :=
  if a < m.base then none
  else
    let o := a - m.base
    if o = 0 then some (.mctrl m)
    else if o = 4 then some (.mstat m)
    else if 0x20 ≤ o ∧ o < 0x20 + 4 * m.n ∧ o % 4 = 0 then some (.mdata m ((o - 0x20) / 4))
    else none

/-- The first mailbox that holds the address. -/
def findMbx (a : Nat) : List MbxRow → Option RegKind
  | [] => none
  | m :: r => match mbxKind m a with
    | some k => some k
    | none => findMbx a r

/-- What the register space holds at a 4-byte aligned address (02 R22: `none` is an address no register occupies). -/
def kindOf (a : Nat) : RegKind :=
  match rowAt a with
  | some r => .reg r
  | none =>
    match findMbx (foldPipe a) mailboxRows with
    | some k => k
    | none =>
      if a = integAddr (blockOf a) ∨ a = 0x1ffff00 then .integ
      else if a = integAddr (blockOf a) + 4 ∨ a = 0x1ffff04 then .integA
      else match rowAt (a - 4) with
        | some r => if r.guard ∧ 4 ≤ a then .comp r else .none
        | none => .none

/-- 02 R38: the safety class, fixed in the device. -/
def isSafety (n : Nat) : Bool :=
  n == 29 || n == 32 || (33 ≤ n && n ≤ 40) || n == 43 || n == 44 || n == 49 || n == 51 || n == 53 || n == 54 ||
  n == 59 || n == 63

/-- The value of a register after a device-scope reset: the map's reset column, and the few resets the tables give as
"Fixed", per index or per source. -/
def resetOf (a : Nat) : Word :=
  match rowAt a with
  | none => 0#32
  | some r =>
    let b := blockOf a
    if b = 1 then
      (if a = EVT_SRC_CFG.a 51 then 0x80000000#32
       else if a < 0x100400 ∧ a % 16 = 8 ∧ isSafety ((a - 0x100000) / 16) then 0x10#32 else r.reset)
    else if b = 4 then
      (if a < 0x300100 ∧ a % 64 = 0 then fldSet r.reset PHS_CFG.pin_sel ((a - 0x300000) / 64) else r.reset)
    else if b = 0 then
      (if a = SYS_ID.a then fldSet r.reset SYS_ID.screen Config.screen.toNat
       else if a = SYS_DEVID_LO.a then BitVec.ofNat 32 Config.devId.toNat
       else if a = SYS_DEVID_HI.a then BitVec.ofNat 32 (Config.devId.toNat / 2 ^ 32) else r.reset)
    else r.reset

/-! ### Registers -/

/-- The stored bits of a register. -/
def State.reg (s : State) (a : Nat) : Word := Cells.get resetOf s.regs a

/-- The state with the stored bits of a register set. -/
def State.setReg (s : State) (a : Nat) (w : Word) : State := { s with regs := Cells.set resetOf s.regs a w }

/-- The parity bookkeeping of a register. -/
def State.parOf (s : State) (a : Nat) : ParSt := Cells.get (fun _ => {}) s.par a

/-- 02 R33: the value a hardware use of a register sees: a field in safe behaviour acts as its reset value. -/
def State.hw (s : State) (a : Nat) : Word :=
  let m := (s.parOf a).bad
  if m = 0#32 then s.reg a else (s.reg a &&& ~~~m) ||| (resetOf a &&& m)

/-- The value of a field in a hardware use. -/
def State.f (s : State) (a : Nat) (x : Fld) : Nat := fldGet (s.hw a) x

/-- A one-bit field in a hardware use. -/
def State.on (s : State) (a : Nat) (x : Fld) : Bool := s.f a x == 1

/-- A hardware update of a field. -/
def State.setF (s : State) (a : Nat) (x : Fld) (v : Nat) : State := s.setReg a (fldSet (s.reg a) x v)

/-- A hardware update of several fields of one register. -/
def State.setFs (s : State) (a : Nat) (l : List (Fld × Nat)) : State :=
  s.setReg a (l.foldl (fun w e => fldSet w e.1 e.2) (s.reg a))

/-- A saturating counter field advanced by `n` (02 R25: RC counters; each table says "saturating"). -/
def State.bumpN (s : State) (a : Nat) (x : Fld) (n : Nat) : State :=
  s.setF a x (satTo (2 ^ fldWidth x - 1) (fldGet (s.reg a) x + n))

/-- A saturating counter field advanced by 1. -/
def State.bump (s : State) (a : Nat) (x : Fld) : State := s.bumpN a x 1

/-- One more output to the outside. -/
def State.emit (s : State) (o : Output) : State := { s with out := o :: s.out }

/-- A fresh open value (log entry 3): the value at the counter, and the counter advanced. -/
def State.fresh (s : State) : BitVec 128 × State := (Config.freeValue s.freeIdx, { s with freeIdx := s.freeIdx + 1 })

/-! ### Time (03 R55): counters in units of 2^-32 ns, modulo 2^48 seconds; `now` counts TIME ticks of 4 ns -/

/-- Units of a counter per nanosecond. -/
def nsU : Nat := 4294967296

/-- Units of a counter per second. -/
def secU : Nat := 1000000000 * 4294967296

/-- The wrap of a counter: 2^48 seconds. -/
def timeMod : Nat := 2 ^ 48 * (1000000000 * 4294967296)

/-- Seconds of a counter. -/
def secOf (t : Nat) : Nat := t / secU

/-- Nanoseconds of a counter. -/
def nsOf (t : Nat) : Nat := t % secU / nsU

/-- The upper 16 bits of the fraction, as reads and captures deliver it. -/
def frac16 (t : Nat) : Nat := t % nsU / 65536

/-- The counter value of seconds, nanoseconds and a 16-bit fraction. -/
def mkTime (sec ns fr : Nat) : Nat := (sec % 2 ^ 48) * secU + ns * nsU + fr * 65536

/-- The three words of the snapshot layout (03 R73). -/
def timeWords (t : Nat) : List Nat :=
  [secOf t % 2 ^ 32, frac16 t * 65536 + secOf t / 2 ^ 32 % 65536, nsOf t]

/-- The time in the 12-byte layout of 05 R102, and whether its nanoseconds are below 10^9. -/
def timeOf12 (w0 w1 w2 : Nat) : Nat × Bool :=
  (mkTime (w1 % 65536 * 2 ^ 32 + w0) (w2 % 2 ^ 30) (w1 / 65536), decide (w2 % 2 ^ 30 < 1000000000))

/-- The signed difference of two counter values, across the wrap. -/
def tdiff (a b : Nat) : Int :=
  (((a : Int) - (b : Int) + ((timeMod / 2 : Nat) : Int)) % (timeMod : Nat)) - ((timeMod / 2 : Nat) : Int)

/-- A counter value moved by a signed amount. -/
def taddU (t : Nat) (d : Int) : Nat := (((t : Int) + d) % (timeMod : Nat)).toNat

/-- TIME ticks in a number of microseconds and milliseconds (01 R17: 250 MHz). -/
def usTicks (n : Nat) : Nat := n * 250

/-- TIME ticks in a number of milliseconds. -/
def msTicks (n : Nat) : Nat := n * 250000

/-- The value of clock `c` (03 R73: 0 FRT, 1 DTA, 2 DTB, 3 WKT). -/
def State.clock (s : State) (c : Nat) : Nat :=
  if c = 0 then s.tim.frt else if c = 1 then s.tim.dta else if c = 2 then s.tim.dtb else s.tim.wkt

/-! ### Events (02 R38 to R43) -/

/-- The bookkeeping of a source. -/
def State.evtSt (s : State) (n : Nat) : EvtSt := Cells.get (fun _ => {}) s.evt n

/-- The state with the bookkeeping of a source set. -/
def State.setEvt (s : State) (n : Nat) (e : EvtSt) : State := { s with evt := Cells.set (fun _ => {}) s.evt n e }

/-- 02 R39: the first-fault record after a cause; of several causes of one tick the lowest code, then index, stands. -/
def ffAfter (valid : Bool) (old new : FfRec) : FfRec :=
  if !valid then new
  else if old.tick = new.tick ∧ (new.cause < old.cause ∨ (new.cause = old.cause ∧ new.idx < old.idx)) then new
  else old

/-- 02 R41: the storm window after a cause, and whether the count now exceeds storm_n. -/
def stormAfter (e : EvtSt) (now n win : Nat) : EvtSt × Bool :=
  if n = 0 ∨ win = 0 then ({ e with winOpen := false, winCnt := 0 }, false)
  else if e.winOpen ∧ now < e.winEnd then
    ({ e with winCnt := e.winCnt + 1 }, decide (n < e.winCnt + 1))
  else ({ e with winOpen := true, winEnd := now + win * 2500, winCnt := 1 }, decide (n < 1))

/-- 12 R295: a word of the endpoint's configuration space as it is stored. -/
def State.cfgAt (s : State) (o : Nat) : Nat := (Cells.get cfgReset s.pcie.cfg o).toNat

/-- 12 R295: the endpoint is in D3hot. -/
def State.d3hot (s : State) : Bool := s.cfgAt 0x44 % 4 == 3

/-- 12 R295: the endpoint lets a message of vector `n` out: MSI-X is enabled, neither the function nor the vector is masked, and the
function is in D0. -/
def State.msixPass (s : State) (n : Nat) : Bool :=
  nbit (s.cfgAt 0x50) 31 && !(nbit (s.cfgAt 0x50) 30) && !s.d3hot && !(nbit (Cells.get msixReset s.pcie.tbl (4 * n + 3)).toNat 0)

/-- 02 R42, 12 R295: a message of vector `n` is sent, or becomes pending behind a mask. -/
def State.msixSend (s : State) (n : Nat) : State :=
  if s.msixPass n then s.emit (.msix n)
  else
    let p := s.pcie
    { s with pcie := { p with pba := p.pba.filter (fun k => k != n) ++ [n] } }

/-- 02 R42: the MSI-X message of source `n`, if its routing and no storm let it pass. -/
def State.deliver (s : State) (n : Nat) : State :=
  if s.on (EVT_SRC_CFG.a n) EVT_SRC_CFG.msix_en ∧ !(s.on (EVT_SRC_STAT.a n) EVT_SRC_STAT.storm) then s.msixSend n
  else s

/-- 02 R39 to R42: a leaf cause reaches source `n` with its code and index. -/
def State.raise (s : State) (n cause idx : Nat) : State :=
  let a := EVT_SRC_STAT.a n
  let w := s.reg a
  let e := s.evtSt n
  let ff := ffAfter (fldGet w EVT_SRC_STAT.ff_valid == 1) e.ff ⟨s.tim.frt, s.now, cause, idx⟩
  let st := stormAfter e s.now (s.f (EVT_SRC_STORM.a n) EVT_SRC_STORM.storm_n)
    (s.f (EVT_SRC_STORM.a n) EVT_SRC_STORM.storm_win)
  let s1 := (s.setEvt n { st.1 with ff := ff }).setFs a
    [(EVT_SRC_STAT.count, satTo 0xffff (fldGet w EVT_SRC_STAT.count + 1)), (EVT_SRC_STAT.ff_valid, 1),
     (EVT_SRC_STAT.storm, if st.2 then 1 else fldGet w EVT_SRC_STAT.storm), (EVT_SRC_STAT.pend, 1)]
  if fldGet w EVT_SRC_STAT.pend = 0 then s1.deliver n else s1

/-- Raise when a condition holds. -/
def State.raiseIf (s : State) (c : Bool) (n cause idx : Nat) : State := if c then s.raise n cause idx else s

/-- The level that source `n` presents to Carr line `n` (02 R42). -/
def State.carrLine (s : State) (n : Nat) : Bool :=
  s.on (EVT_SRC_STAT.a n) EVT_SRC_STAT.pend && s.on (EVT_SRC_CFG.a n) EVT_SRC_CFG.carr_en &&
  !(s.on (EVT_SRC_STAT.a n) EVT_SRC_STAT.storm)

/-- The level that source `n` presents to the sequencers' event waits (02 R42). -/
def State.seqLine (s : State) (n : Nat) : Bool :=
  s.on (EVT_SRC_STAT.a n) EVT_SRC_STAT.pend && s.on (EVT_SRC_CFG.a n) EVT_SRC_CFG.seq_en &&
  !(s.on (EVT_SRC_STAT.a n) EVT_SRC_STAT.storm)

/-! ### Power (16 R372) -/

/-- The device is in FEN. -/
def State.inFen (s : State) : Bool := decide (2 ≤ fldGet (s.reg PWR_STAT.a) PWR_STAT.state)

/-- The switched domains have power and clocks: the device is in RUN or PARTIAL, no DESCEND is in progress (R375), and no test
instruction holds the functional logic in reset (18 R434). -/
def State.clocked (s : State) : Bool :=
  !s.inFen && fldGet (s.reg PWR_STAT.a) PWR_STAT.phase != 2 && !s.jtag.held

/-- 00 R6, 17 R396: a device-scope reset lasts until RESET_RELEASE; a Carr reset leaves the rest of the device running. -/
def State.inReset (s : State) : Bool := s.boot.stage == 0 && !s.boot.carr

/-- The switched domains run: they have power and clocks, and the device is not in reset. -/
def State.powered (s : State) : Bool := s.clocked && !s.inReset

/-- What happens in the switched domains happens only while they run. -/
def State.live (s t : State) : State := if s.powered then t else s

/-- R389, 18 R420: an event of the always-on domain; one that arises in FEN is raised after the wake. -/
def State.raiseAon (s : State) (n cause idx : Nat) : State :=
  if s.inFen then
    let p := s.pwr
    { s with pwr := { p with later := p.later ++ [(n, cause, idx)] } }
  else s.raise n cause idx

/-- R374: port `n` sleeps in PARTIAL. -/
def State.portAsleep (s : State) (n : Nat) : Bool :=
  fldGet (s.reg PWR_STAT.a) PWR_STAT.state == 1 && nbit (s.f PWR_PART_PORTS.a PWR_PART_PORTS.ports) n

/-! ### Register integrity (02 R34) -/

/-- The flag and the EV59 cause code of an integrity fault. -/
inductive Integ where
  | parityFault
  | parityRestored
  | guardFail
  | narrowWrite
  | unaligned
  | unmapped
  | writeLost
deriving DecidableEq, Repr

/-- The bit of INTEG (02 R34). -/
def Integ.bit : Integ → Nat
  | .writeLost => 31
  | .narrowWrite => 30
  | .unaligned => 29
  | .unmapped => 28
  | .guardFail => 27
  | .parityFault => 26
  | .parityRestored => 25

/-- The EV59 cause code. -/
def Integ.code : Integ → Nat
  | .parityFault => 1
  | .parityRestored => 2
  | .guardFail => 3
  | .narrowWrite => 4
  | .unaligned => 5
  | .unmapped => 6
  | .writeLost => 7

/-- 02 R34: an integrity fault of block `b` at address `a`: its flag, the first address, and EV59 with the block as index. -/
def State.integ (s : State) (b : Nat) (k : Integ) (a : Nat) : State :=
  let ia := integAddr b
  let old := s.reg ia
  let s1 := if old = 0#32 then s.setReg (ia + 4) (BitVec.ofNat 32 a) else s
  (s1.setReg ia (fldSet old ⟨k.bit, k.bit⟩ 1)).raise 59 k.code b

/-! ### Audit log (02 R52 to R54) -/

/-- FRT in microseconds. -/
def State.frtUs (s : State) : Nat := s.tim.frt / (1000 * nsU)

/-- 02 R54: the digest after one more entry. -/
def audDigest (d : BitVec 256) (e : BitVec 112) : BitVec 256 :=
  BitVec.ofNat 256 (beNat (sha256 (beBytes 32 d.toNat ++ leBytes 14 e.toNat)))

/-- 02 R52: one entry appended to the ring; a full ring overwrites its oldest entry and raises `audit_wrap`. -/
def State.audPut (s : State) (e : BitVec 112) (i : Nat) : State :=
  let u := s.aud
  let old := Cells.get (fun _ => 0#112) u.ring u.next
  let u' : AudSt := { u with
    ring := Cells.set (fun _ => 0#112) u.ring u.next e
    next := (u.next + 1) % 4096
    cnt := satTo 4096 (u.cnt + 1)
    head := audDigest u.head e
    base := if u.cnt = 4096 then audDigest u.base old else u.base }
  let s1 := { s with aud := u' }
  if u.cnt = 4096 then s1.raise 60 5 i else s1

/-- 02 R53: a time anchor entry. -/
def State.audAnchor (s : State) : State :=
  let t := s.tim.frt
  let sec := secOf t
  let e := BitVec.ofNat 112 (2 * 2 ^ 110 + 3 * 2 ^ 106 + (sec / 65536) * 2 ^ 32 + (sec % 65536) * 65536 +
    nsOf t / 2 ^ 14 % 65536)
  let s1 := s.audPut e 3
  { s1 with aud := { s1.aud with anchor := some s.frtUs } }

/-- 02 R53: whether the next entry needs an anchor first. -/
def State.needAnchor (s : State) : Bool :=
  match s.aud.anchor with
  | none => true
  | some t => decide (524287 < s.frtUs - t)

/-- 02 R52, R53: an entry of the given kind, role, initiator, register address, old and new value. -/
def State.audit (s : State) (kind role i a old new : Nat) : State :=
  let s1 := if s.needAnchor then s.audAnchor else s
  let off := s1.frtUs - s1.aud.anchor.getD 0
  s1.audPut (BitVec.ofNat 112 (kind * 2 ^ 110 + role % 4 * 2 ^ 108 + i % 4 * 2 ^ 106 + off % 2 ^ 19 * 2 ^ 87 +
    a / 4 % 2 ^ 23 * 2 ^ 64 + old % 2 ^ 32 * 2 ^ 32 + new % 2 ^ 32)) i

/-! ### Roles -/

/-- The role session of an initiator (02 R44). -/
def State.sessOf (s : State) (i : Nat) : RoleSess := Cells.get (fun _ => {}) s.sess i

/-- The state with a role session set. -/
def State.setSess (s : State) (i : Nat) (r : RoleSess) : State := { s with sess := Cells.set (fun _ => {}) s.sess i r }

/-- The failures and lockout of a role (02 R48). -/
def State.lockOf (s : State) (r : Nat) : RoleLock := Cells.get (fun _ => {}) s.lock r

/-- The state with a role's lockout set. -/
def State.setLock (s : State) (r : Nat) (l : RoleLock) : State := { s with lock := Cells.set (fun _ => {}) s.lock r l }

/-! ### Mailboxes (02 R35, R37, R439) -/

/-- The fields of MBX_CTRL and MBX_STAT. -/
def MBX_CTRL.arg : Fld := ⟨31, 16⟩
def MBX_CTRL.op : Fld := ⟨15, 8⟩
def MBX_CTRL.req : Fld := ⟨0, 0⟩
def MBX_STAT.err_code : Fld := ⟨11, 8⟩
def MBX_STAT.err : Fld := ⟨3, 3⟩
def MBX_STAT.overrun : Fld := ⟨2, 2⟩
def MBX_STAT.stale_read : Fld := ⟨1, 1⟩
def MBX_STAT.valid : Fld := ⟨0, 0⟩

/-- The address of data word `k` of the mailbox at `m`. -/
def mbxData (m k : Nat) : Nat := m + 0x20 + 4 * k

/-- Data words written from word `k` on. -/
def State.setWords (s : State) (m : Nat) : Nat → List Nat → State
  | _, [] => s
  | k, v :: r => (s.setReg (mbxData m k) (BitVec.ofNat 32 v)).setWords m (k + 1) r

/-- Data word `k` of a mailbox as a number. -/
def State.dw (s : State) (m k : Nat) : Nat := (s.reg (mbxData m k)).toNat

/-- 02 R35: a snapshot reaches the read mailbox at `m`: its words, VALID, and overrun where it replaces an unread one. -/
def State.snap (s : State) (m : Nat) (ws : List Nat) : State :=
  let st := s.reg (m + 4)
  let s1 := s.setWords m 0 ws
  s1.setReg (m + 4) (fldSet (if fldGet st MBX_STAT.valid = 1 then fldSet st MBX_STAT.overrun 1 else st) MBX_STAT.valid 1)

/-- 02 R439: a request fails with a code. -/
def State.mbxFail (s : State) (m code : Nat) : State :=
  s.setFs (m + 4) [(MBX_STAT.err, 1), (MBX_STAT.err_code, code)]

/-- 02 R37: a write mailbox completes: req clears and its `n` data words become 0. -/
def State.mbxDone (s : State) (m n : Nat) : State :=
  (s.setF m MBX_CTRL.req 0).setWords m 0 (List.replicate n 0)

/-- 02 R37: a write-mailbox command that completes at once, with an err_code where it failed. -/
def State.mbxEnd (s : State) (m n : Nat) (err : Option Nat) : State :=
  match err with
  | none => s.mbxDone m n
  | some c => (s.mbxDone m n).mbxFail m c

/-- The lowest of the err_codes that apply (02 R439: the device reports the lowest). -/
def lowestErr : List (Bool × Nat) → Option Nat
  | [] => none
  | (c, k) :: r =>
    match lowestErr r with
    | none => if c then some k else none
    | some j => if c then some (min k j) else some j

/-! ### Byte memories -/

/-- Little-endian number of `n` bytes at address `a` of a byte store. -/
def memGet (d : Nat → Byte) (m : Cells Byte) (a : Nat) : Nat → Nat
  | 0 => 0
  | n + 1 => (Cells.get d m a).toNat + 256 * memGet d m (a + 1) n

/-- `n` bytes at address `a` of a byte store. -/
def memBytes (d : Nat → Byte) (m : Cells Byte) (a : Nat) : Nat → List Byte
  | 0 => []
  | n + 1 => Cells.get d m a :: memBytes d m (a + 1) n

/-- A byte string written at address `a` of a byte store. -/
def memPut (d : Nat → Byte) (m : Cells Byte) (a : Nat) : List Byte → Cells Byte
  | [] => m
  | b :: r => memPut d (Cells.set d m a b) (a + 1) r

end Sys2Proof.Machine
end

