-- ==== Sys2Proof/Machine/Time.lean ====
section
/-! DEFINITION. Network time (chapter 03): the four counters, domain health, how WKT follows the domains, timestamps, the
pulse-per-second pins and the link-delay check. Clock numbers are those of R73: 0 FRT, 1 DTA, 2 DTB, 3 WKT; domain d is
clock d + 1. -/

namespace Sys2Proof.Machine

/-- R56: the increment register pair of counter `k`, in units of 2^-32 ns per tick. -/
def State.incReg (s : State) (k : Nat) : Nat :=
  fldGet (s.reg (TIM_INC_INT.a k)) TIM_INC_INT.int * nsU + (s.reg (TIM_INC.a k)).toNat

/-- R59: the domain is enabled. -/
def State.domOn (s : State) (d : Nat) : Bool := s.on (TIM_DOM_CFG.a d) TIM_DOM_CFG.enable

/-- R59: the domain is healthy: enabled and not lost. -/
def State.domHealthy (s : State) (d : Nat) : Bool :=
  s.domOn d && !(s.on (TIM_DOM_STAT.a d) TIM_DOM_STAT.lost)

/-- The health bookkeeping of a domain. -/
def State.domSt (s : State) (d : Nat) : DomSt := if d = 0 then s.tim.domA else s.tim.domB

/-- The state with a domain's bookkeeping set. -/
def State.setDom (s : State) (d : Nat) (x : DomSt) : State :=
  if d = 0 then { s with tim := { s.tim with domA := x } } else { s with tim := { s.tim with domB := x } }

/-- The state with counter `c` set. -/
def State.setClock (s : State) (c t : Nat) : State :=
  if c = 0 then { s with tim := { s.tim with frt := t } }
  else if c = 1 then { s with tim := { s.tim with dta := t } }
  else if c = 2 then { s with tim := { s.tim with dtb := t } }
  else { s with tim := { s.tim with wkt := t } }

/-- R60: the state code of WKT. -/
def State.wktState (s : State) : Nat := fldGet (s.reg TIM_WKT_STAT.a) TIM_WKT_STAT.state

/-- The current or last source of WKT (0 A, 1 B). -/
def State.wktSrc (s : State) : Nat := fldGet (s.reg TIM_WKT_STAT.a) TIM_WKT_STAT.src

/-- R61: the source that the rule names. -/
def State.wktNamed (s : State) : Option Nat :=
  let p := s.f TIM_WKT_CFG.a TIM_WKT_CFG.pref
  if s.domHealthy p then some p
  else if s.domHealthy (1 - p) ∧ s.on TIM_WKT_CFG.a TIM_WKT_CFG.auto_switch then some (1 - p)
  else none

/-- The error e = D_src - WKT toward domain `d`. -/
def State.wktErr (s : State) (d : Nat) : Int := tdiff (s.clock (d + 1)) s.tim.wkt

/-- R62 (with max_err of 0 allowing only errors below 1 µs): the error is too large to slew across. -/
def State.errTooBig (s : State) (d : Nat) : Bool :=
  let m := s.f TIM_WKT_CFG.a TIM_WKT_CFG.max_err
  let e := (s.wktErr d).natAbs
  if m = 0 then decide (1000 * nsU ≤ e) else decide (m * 1000 * nsU < e)

/-- R60: the slew component s; 0 is treated as 1. -/
def State.slew (s : State) : Nat :=
  let r := s.f TIM_WKT_CFG.a TIM_WKT_CFG.slew_rate
  if r = 0 then 1 else r

/-- R60: WKT's increment for the next tick. -/
def State.wktInc (s : State) : Int :=
  let st := s.wktState
  let src := s.wktSrc
  if st = 0 then s.incReg 0
  else if st = 1 then s.incReg (src + 1)
  else if st = 2 then
    let e := s.wktErr src
    let r := (s.slew : Int)
    let inc := (s.incReg (src + 1) : Int)
    if (e.natAbs : Int) < r then inc + e else if 0 < e then inc + r else inc - r
  else s.tim.frozen

/-- R62: WKT enters or stays in HOLDOVER because the error toward `d` is too large. -/
def State.wktRefuse (s : State) (d : Nat) : State :=
  let s1 := if s.wktState = 3 then s
    else { s with tim := { s.tim with frozen := (s.domSt s.wktSrc).incKick } }
  (s1.setFs TIM_WKT_STAT.a [(TIM_WKT_STAT.state, 3), (TIM_WKT_STAT.src_valid, 1)]).raise 31 0x13 d

/-- WKT slews toward domain `d`. -/
def State.wktSlew (s : State) (d : Nat) : State :=
  s.setFs TIM_WKT_STAT.a [(TIM_WKT_STAT.state, 2), (TIM_WKT_STAT.src, d), (TIM_WKT_STAT.src_valid, 1)]

/-- R61: the source rule is to be evaluated on this tick. -/
def State.wktDue (s : State) : State :=
  let t := s.tim
  { s with tim := { t with evalDue := true } }

/-- R61, R62: the source rule evaluated. From LOCKED or SLEW a new source with too large an error raises `err_exceeded` alone; the
rule orders the `switch` before that check for HOLDOVER only (log entry 52). -/
def State.wktEval (s : State) : State :=
  let st := s.wktState
  match s.wktNamed with
  | none =>
    if st = 0 then s.setF TIM_WKT_STAT.a TIM_WKT_STAT.src_valid 0
    else if st = 3 then s.setF TIM_WKT_STAT.a TIM_WKT_STAT.src_valid 0
    else
      let s1 := { s with tim := { s.tim with frozen := (s.domSt s.wktSrc).incKick } }
      (s1.setFs TIM_WKT_STAT.a [(TIM_WKT_STAT.state, 3), (TIM_WKT_STAT.src_valid, 0)]).raise 31 0x12 s.wktSrc
  | some d =>
    if st = 0 then s.setFs TIM_WKT_STAT.a [(TIM_WKT_STAT.src, d), (TIM_WKT_STAT.src_valid, 1)]
    else if st = 3 then
      let s1 := s.raise 31 0x10 d
      if s1.errTooBig d then s1.wktRefuse d else s1.wktSlew d
    else if s.wktSrc = d then s.setF TIM_WKT_STAT.a TIM_WKT_STAT.src_valid 1
    else if s.errTooBig d then s.wktRefuse d
    else (s.wktSlew d).raise 31 0x10 d

/-- R61: the evaluation that is due on a tick: once, on what the tick's changes have left (R64). -/
def State.wktSettle (s : State) : State :=
  let t := s.tim
  if t.evalDue then ({ s with tim := { t with evalDue := false } } : State).wktEval else s

/-- R61, R62, R64: domain `d` has been offset or set; the current source is judged again. -/
def State.wktAdjusted (s : State) (d : Nat) : State :=
  let st := s.wktState
  if (st = 1 ∨ st = 2) ∧ s.wktSrc = d then
    (if s.errTooBig d then s.wktRefuse d else s.setF TIM_WKT_STAT.a TIM_WKT_STAT.state 2)
  else s.wktEval

/-- R59: domain `d` is declared lost. -/
def State.domLose (s : State) (d : Nat) : State :=
  if s.domHealthy d then
    (((s.setF (TIM_DOM_STAT.a d) TIM_DOM_STAT.lost 1).setDom d { s.domSt d with lostRaised := true }).raise
      (30 + d) 1 0).wktDue
  else s

/-- R59: a kick of domain `d`. -/
def State.domKick (s : State) (d : Nat) : State :=
  if s.domOn d then
    let x := s.domSt d
    let s1 := (s.setF (TIM_DOM_STAT.a d) TIM_DOM_STAT.lost 0).setDom d
      { x with lastKick := some s.now, incKick := s.incReg (d + 1), lostRaised := false }
    if s.domHealthy d then s1 else (s1.raiseIf x.lostRaised (30 + d) 2 0).wktDue
  else s

/-- The effect of a write to TIM_DOM_CTRL: a declare_lost and a kick in the same write leave the domain lost. -/
def State.domCtrl (s : State) (d : Nat) (w : Word) : State :=
  if fldGet w TIM_DOM_CTRL.declare_lost = 1 then s.domLose d
  else if fldGet w TIM_DOM_CTRL.kick = 1 then s.domKick d
  else s

/-- The effect of a change of TIM_DOM_CFG (R59, R61): a change of enable leaves the domain lost, or disabled, with no
loss to recover from; then the source rule is evaluated. -/
def State.domCfgChanged (s : State) (d : Nat) (old : Word) : State :=
  let s1 :=
    if (fldGet old TIM_DOM_CFG.enable == 1) = s.domOn d then s
    else (s.setF (TIM_DOM_STAT.a d) TIM_DOM_STAT.lost 1).setDom d { s.domSt d with lostRaised := false }
  s1.wktDue

/-- TIM_DOM_STAT.since_kick as a read delivers it. -/
def State.sinceKick (s : State) (d : Nat) : Nat :=
  match (s.domSt d).lastKick with
  | none => 0xffff
  | some t => satTo 0xffff ((s.now - t) / 250000)

/-- R59: the kick timeout of domain `d` has expired; a kick on the tick of the expiry still wins, so that tick has to be over
(log entry 52). -/
def State.kickExpired (s : State) (d : Nat) : Bool :=
  s.domHealthy d &&
  match (s.domSt d).lastKick with
  | none => true
  | some t =>
    let k := s.f (TIM_DOM_CFG.a d) TIM_DOM_CFG.kick_timeout
    decide (t + msTicks (if k = 0 then 1 else k) < s.now)

/-- A sequencer is running (R63): in RUN or PAUSE (06 R142). -/
def State.anyRunning (s : State) : Bool :=
  (List.range 8).any (fun n =>
    fldGet (s.reg (SEQ_STAT.a n)) SEQ_STAT.state == 1 || fldGet (s.reg (SEQ_STAT.a n)) SEQ_STAT.state == 2)

/-- R63: a write of 1 to align: it acts, or is refused, on the next TIME tick, and the bit reads 1 until then. -/
def State.align (s : State) : State := s.setF TIM_WKT_CTRL.a TIM_WKT_CTRL.align 1

/-- R63: a waiting align on a tick: WKT becomes equal to the source that R61 names, or the align is refused. Queue entries that it
passes are late (06 R131). -/
def State.alignTick (s : State) : State :=
  if fldGet (s.reg TIM_WKT_CTRL.a) TIM_WKT_CTRL.align = 0 then s
  else
    let u := s.setF TIM_WKT_CTRL.a TIM_WKT_CTRL.align 0
    match s.wktNamed with
    | some d =>
      if s.anyRunning then u.raise 31 0x14 0
      else
        let w : State := { u.setClock 3 (s.clock (d + 1)) with wktPrev := s.clock (d + 1) }
        (w.setFs TIM_WKT_STAT.a [(TIM_WKT_STAT.state, 1), (TIM_WKT_STAT.src, d), (TIM_WKT_STAT.src_valid, 1)]).raise 31 0x11 d
    | none => u.raise 31 0x14 0

/-- The base of the TIM_ADJ mailbox. -/
def timAdj : Nat := 0x200300

/-- R56: the device accepts increments between 3.996 ns and 4.004 ns. -/
def incOk (v : Nat) : Bool := decide (3996 * nsU ≤ 1000 * v) && decide (1000 * v ≤ 4004 * nsU)

/-- R57, R59, R439: the err_code of a TIM_ADJ request, if it fails. -/
def State.timAdjErr (s : State) (op arg : Nat) : Option Nat :=
  let k := arg % 4
  let d0 := s.dw timAdj 0
  let d1 := s.dw timAdj 1
  let d2 := s.dw timAdj 2
  lowestErr
    [(decide (op = 3) && !(incOk (d1 % 16 * nsU + d0)), 1), (decide (op = 2) && decide (1000000000 ≤ d2 % 2 ^ 30), 1),
     (decide (k = 3) || (decide (k = 0) && (decide (op = 1) || decide (op = 2))), 2),
     ((decide (k = 1) || decide (k = 2)) && !(s.domOn (k - 1)), 3),
     (decide (op < 1) || decide (3 < op) || decide (4 ≤ arg), 15)]

/-- R57: an offset of a counter, or its new time (`set`), waits for the next tick. -/
def State.adjust (s : State) (k : Nat) (set : Bool) (v : Int) : State :=
  let t := s.tim
  { s with tim := { t with adj := t.adj ++ [(k, set, v)] } }

/-- R55 to R58: the effect of a TIM_ADJ command that did not fail. -/
def State.timAdjDo (s : State) (i op arg : Nat) : State :=
  let k := arg % 4
  let d0 := s.dw timAdj 0
  let d1 := s.dw timAdj 1
  let d2 := s.dw timAdj 2
  if op = 1 then
    (s.adjust k false (sint 32 d0 * (nsU : Int) + (d1 % 65536 * 65536 : Nat))).bump (TIM_ADJ_CNT.a i) TIM_ADJ_CNT.count
  else if op = 2 then s.adjust k true (mkTime (d0 + d1 % 65536 * 2 ^ 32) (d2 % 2 ^ 30) (d1 / 65536) : Nat)
  else
    let s1 := (s.setReg (TIM_INC.a k) (BitVec.ofNat 32 d0)).setF (TIM_INC_INT.a k) TIM_INC_INT.int (d1 % 16)
    if k = 0 then s1 else s1.bump (TIM_ADJ_CNT.a i) TIM_ADJ_CNT.count

/-- The TIM_ADJ command of initiator `i` (R37). -/
def State.timAdjReq (s : State) (i op arg : Nat) : State :=
  match s.timAdjErr op arg with
  | some c => s.mbxEnd timAdj 4 (some c)
  | none => (s.timAdjDo i op arg).mbxEnd timAdj 4 none

/-- R52: TIM_ADJ commands with op 1 or 3 on DTA or DTB are not logged. -/
def timAdjUnlogged (op arg : Nat) : Bool :=
  (op == 1 || op == 3) && (arg % 4 == 1 || arg % 4 == 2)

/-- R73: the twelve words of a snapshot of the four counters. -/
def State.clockWords (s : State) : List Nat :=
  timeWords s.tim.frt ++ timeWords s.tim.dta ++ timeWords s.tim.dtb ++ timeWords s.tim.wkt

/-- The TIM_SNAP request (R73). -/
def State.timSnapReq (s : State) (op arg : Nat) : State :=
  if op ≠ 0 ∨ arg ≠ 0 then s.mbxFail 0x200200 15 else s.snap 0x200200 s.clockWords

/-- R69: the eight words of a timestamp entry. -/
def tsWords (e : TsEntry) : List Nat :=
  [e.seqId * 65536 + e.mtype % 16 * 4096 + e.domNum % 256,
   b2n e.lost * 1024 + e.dom % 2 * 512 + b2n e.domHit * 256 + e.port % 32] ++ timeWords e.frt ++ timeWords e.other

/-- The TIM_RXTS request (R69). -/
def State.rxtsReq (s : State) (op arg : Nat) : State :=
  if s.tim.rxts = [] then s.mbxFail 0x200400 1
  else if op ≠ 0 ∨ arg ≠ 0 then s.mbxFail 0x200400 15
  else match s.tim.rxts with
    | [] => s
    | e :: r => { s with tim := { s.tim with rxts := r } }.snap 0x200400 (tsWords e)

/-- The TIM_TXTS request (R69). -/
def State.txtsReq (s : State) (op arg : Nat) : State :=
  if s.tim.txts = [] then s.mbxFail 0x200500 1
  else if op ≠ 0 ∨ arg ≠ 0 then s.mbxFail 0x200500 15
  else match s.tim.txts with
    | [] => s
    | e :: r => { s with tim := { s.tim with txts := r } }.snap 0x200500 (tsWords e)

/-- R69: the domain whose number a PTP message carries, if an enabled domain tracks it; domain A where both do (log entry 52). -/
def State.ptpDomain (s : State) (num : Nat) : Option Nat :=
  (List.range 2).find? (fun d => s.domOn d && s.f (TIM_DOM_CFG.a d) TIM_DOM_CFG.domain_number == num)

/-- R66: a counter's value at the medium-dependent interface: `early` and `late` are moved in units of 62.5 ps. -/
def State.stampAt (s : State) (c : Nat) (early late : Nat) : Nat :=
  taddU (s.clock c) (((late : Int) - (early : Int)) * (268435456 : Int))

/-- R66: the latency constant at `a`; one that a write has changed on this tick acts from the next. -/
def State.latAt (s : State) (a : Nat) : Nat :=
  match s.tim.lat.find? (fun e => e.1 == a && e.2.1 == s.now) with
  | some e => e.2.2
  | none => fldGet (s.hw a) TIM_PORT_RXLAT.lat

/-- R66: the effect of a write of the latency constant at `a`, which was `old`. -/
def State.latWritten (s : State) (a : Nat) (old : Word) : State :=
  let t := s.tim
  let l := t.lat.filter (fun e => e.2.1 == s.now)
  if l.any (fun e => e.1 == a) then s
  else { s with tim := { t with lat := l ++ [(a, s.now, fldGet old TIM_PORT_RXLAT.lat)] } }

/-- R69: an entry offered to the receive FIFO of 256 entries. -/
def State.pushRxts (s : State) (e : TsEntry) : State :=
  if s.tim.rxts.length < 256 then
    { s with tim := { s.tim with rxts := s.tim.rxts ++ [{ e with lost := s.tim.rxLost }], rxLost := false } }
  else { s with tim := { s.tim with rxLost := true } }.raise 29 2 e.port

/-- R69: an entry offered to the transmit FIFO of 256 entries. -/
def State.pushTxts (s : State) (e : TsEntry) : State :=
  if s.tim.txts.length < 256 then
    { s with tim := { s.tim with txts := s.tim.txts ++ [{ e with lost := s.tim.txLost }], txLost := false } }
  else { s with tim := { s.tim with txLost := true } }.raise 29 2 e.port

/-- R74: the effect of a write of TIM_PORT_LDLY_MEAS. -/
def State.ldlyMeas (s : State) (n : Nat) : State :=
  let m := s.f (TIM_PORT_LDLY_MEAS.a n) TIM_PORT_LDLY_MEAS.meas
  let c := s.f (TIM_PORT_LDLY_CAL.a n) TIM_PORT_LDLY_CAL.cal
  let a := s.on (TIM_PORT_CFG.a n) TIM_PORT_CFG.dom_a
  let b := s.on (TIM_PORT_CFG.a n) TIM_PORT_CFG.dom_b
  let bad := decide (s.f (TIM_PORT_CFG.a n) TIM_PORT_CFG.ldly_tol * 16 < (m - c) + (c - m))
  if a || b then
    (((s.setF (TIM_PORT_LDLY_MEAS.a n) TIM_PORT_LDLY_MEAS.out_tol (b2n bad)).raiseIf (bad && a) 30 3 n).raiseIf
      (bad && b) 31 3 n)
  else s

/-- R74: the effect of a write of 1 to ldly_accept. -/
def State.ldlyAccept (s : State) (n : Nat) : State :=
  (s.setF (TIM_PORT_LDLY_CAL.a n) TIM_PORT_LDLY_CAL.cal (s.f (TIM_PORT_LDLY_MEAS.a n) TIM_PORT_LDLY_MEAS.meas)).setF
    (TIM_PORT_LDLY_MEAS.a n) TIM_PORT_LDLY_MEAS.out_tol 0

/-- R71: the clock that out_clk selects. -/
def State.ppsClock (s : State) : Nat :=
  let c := s.f TIM_PPS_CFG.a TIM_PPS_CFG.out_clk
  if c = 0 then s.tim.wkt else if c = 1 then s.tim.dta else if c = 2 then s.tim.dtb else s.tim.frt

/-- R71: the pulse is enabled: out_en = 1 and a width from 1 to 999,999 µs. -/
def State.ppsOn (s : State) : Bool :=
  s.on TIM_PPS_CFG.a TIM_PPS_CFG.out_en && decide (1 ≤ s.f TIM_PPS_CFG.a TIM_PPS_CFG.width) &&
  decide (s.f TIM_PPS_CFG.a TIM_PPS_CFG.width < 1000000)

/-- 06 R132: the placement k of a target between two WKT samples. -/
def placeK (wPrev wCur tgt : Nat) : Nat :=
  let k := ceilDiv (16 * (tgt - wPrev)) (wCur - wPrev)
  if k < 1 then 1 else if 16 < k then 16 else k

/-- WKT at an instant (in 250 ps) of the tick that has just passed: between its two samples. -/
def State.wktAt (s : State) (t : Nat) : Nat :=
  let k := t - 16 * (s.now - 1)
  if 16 ≤ k then s.tim.wkt else s.wktPrev + (s.tim.wkt - s.wktPrev) * k / 16

/-- R57: the value of counter `c` on a tick, from `v` as it has counted: the waiting offsets and times act. -/
def adjAfter (c v : Nat) (l : List (Nat × Bool × Int)) : Nat :=
  l.foldl (fun v e => if e.1 = c then (if e.2.1 then e.2.2.toNat else taddU v e.2.2) else v) v

/-- R71: the placement of the whole second that a clock passes as it counts from `old` to `cur`, if it passes one. -/
def secondIn (old cur : Nat) : Option Nat :=
  if secOf old = secOf cur then none
  else if cur < old then some (placeK old (cur + timeMod) timeMod)
  else some (placeK old cur (secOf cur * secU))

/-- R55, R60: the counters of the time base count for one TIME tick. -/
def State.countTime (s : State) : State :=
  let t := s.tim
  { s with now := s.now + 1, tim := { t with
      frt := (t.frt + s.incReg 0) % timeMod
      dta := if s.domOn 0 then (t.dta + s.incReg 1) % timeMod else t.dta
      dtb := if s.domOn 1 then (t.dtb + s.incReg 2) % timeMod else t.dtb
      wkt := taddU t.wkt s.wktInc } }

/-- R55 to R63, R71: the time base after one TIME tick: the counters count, waiting offsets and times act, then a waiting align. A
step or an align of the clock that drives TIME_PPS_OUT makes no pulse. -/
def State.tickTime (s : State) : State :=
  let t := s.tim
  let s1 := s.countTime
  let c := s1.tim
  let s2 : State := { s1 with tim := { c with dta := adjAfter 1 c.dta t.adj, dtb := adjAfter 2 c.dtb t.adj, adj := [] } }
  let s3 := (t.adj.foldl (fun (u : State) e => u.wktAdjusted (e.1 - 1)) s2).alignTick
  let x := s3.tim
  { s3 with tim := { x with ppsDue := if s3.ppsClock = s1.ppsClock then secondIn s.ppsClock s1.ppsClock else none } }

/-- R60: the last tick of the slew absorbs the remaining error. -/
def State.wktLock (s : State) : State :=
  if s.wktState = 2 ∧ (s.wktErr s.wktSrc).natAbs < s.slew then
    ((s.setClock 3 (s.clock (s.wktSrc + 1))).setF TIM_WKT_STAT.a TIM_WKT_STAT.state 1).raise 31 0x11 s.wktSrc
  else s

/-- R71: TIME_PPS_OUT rises at the second that the clock has just passed, placed within the tick. -/
def State.ppsRise (s : State) : State :=
  match s.tim.ppsDue with
  | none => s
  | some k =>
    if s.ppsOn then
      let at' := 16 * (s.now - 1) + k
      let t := s.tim
      ({ s with tim := { t with ppsOut := true, ppsDue := none,
                                ppsFall := at' + 4000 * s.f TIM_PPS_CFG.a TIM_PPS_CFG.width } } : State).emit (.edge "TIME_PPS_OUT" 0 true at')
    else s

/-- R71: TIME_PPS_OUT falls. -/
def State.ppsDrop (s : State) : State :=
  let t := s.tim
  if t.ppsOut && decide (t.ppsFall ≤ 16 * s.now) then
    ({ s with tim := { t with ppsOut := false } } : State).emit (.edge "TIME_PPS_OUT" 0 false t.ppsFall)
  else s

/-- The edges of TIME_PPS_OUT that are due and that no command has taken. -/
def State.ppsSettle (s : State) : State := s.ppsRise.ppsDrop

/-! ### The commands that no software access issues -/

/-- KICK_TIMEOUT (R59). -/
def execKickTimeout (d : Fin 2) (s : State) : Host.Outcome State Fault Refusal :=
  .next (s.live (if s.kickExpired d.val then s.domLose d.val else s))

/-- WKT_LOCKED (R60). -/
def execWktLocked (s : State) : Host.Outcome State Fault Refusal := .next (s.live s.wktLock)

/-- PPS_OUT_SECOND (R71). -/
def execPpsOutSecond (s : State) : Host.Outcome State Fault Refusal := .next (s.live s.ppsRise)

/-- PPS_OUT_FALL (R71). -/
def execPpsOutFall (s : State) : Host.Outcome State Fault Refusal := .next (s.live s.ppsDrop)

/-- PPS_IN_EDGE (R72): a pulse of `len` ns; pulses shorter than 100 ns are ignored. -/
def execPpsInEdge (len : BitVec 32) (s : State) : Host.Outcome State Fault Refusal :=
  .next (s.live (
    if s.on TIM_PPS_CFG.a TIM_PPS_CFG.in_en && decide (100 ≤ len.toNat) then s.snap 0x200600 s.clockWords else s))

/-- PLL_UNLOCK (R38, chapter 03 events): PLL 0 core, 1 memory, 2 SerDes, 3 PCIe. -/
def execPllUnlock (p : Fin 4) (s : State) : Host.Outcome State Fault Refusal := .next (s.live (s.raise 29 1 p.val))

end Sys2Proof.Machine
end

