-- ==== Sys2Proof/Machine/SeqBase.lean ====
section
/-! DEFINITION. The sequencers' timed-action queues (05 R109, 06 R130 to R133, R142): posting, selection, flush and
cancellation. -/

namespace Sys2Proof.Machine

/-- A sequencer. -/
def State.sq (s : State) (n : Nat) : SeqSt := Cells.get (fun _ => {}) s.seq n

/-- The state with a sequencer set. -/
def State.setSq (s : State) (n : Nat) (x : SeqSt) : State := { s with seq := Cells.set (fun _ => {}) s.seq n x }

/-- 06 R121: the state code of a sequencer (0 STOP, 1 RUN, 2 PAUSE, 3 HALT, 4 TRAP). -/
def State.seqState (s : State) (n : Nat) : Nat := fldGet (s.reg (SEQ_STAT.a n)) SEQ_STAT.state

/-- The number of queued entries. -/
def SeqSt.used (x : SeqSt) : Nat := x.tq.length + x.aq.length

/-- The queue of sequencer `n` replaced, with SEQ_QSTAT.used and high_water kept (06 R133). -/
def State.setQ (s : State) (n : Nat) (x : SeqSt) : State :=
  let s1 := s.setSq n x
  let hw := fldGet (s.reg (SEQ_QSTAT.a n)) SEQ_QSTAT.high_water
  s1.setFs (SEQ_QSTAT.a n)
    [(SEQ_QSTAT.used, x.used), (SEQ_QSTAT.high_water, if hw < x.used then x.used else hw)]

/-- R143: the effect of a write of SEQ_QSTAT: high_water goes on from the entries now queued. -/
def State.qstatWritten (s : State) (n : Nat) : State := s.setQ n (s.sq n)

/-- 06 R130: a time entry put in target order behind the entries of equal target. -/
def insEnt (e : TEnt) : List TEnt → List TEnt
  | [] => [e]
  | x :: r => if e.tgt < x.tgt then e :: x :: r else x :: insEnt e r

/-- 05 R111: a time entry posted now. A target nearer than 16 ns makes it a late entry. -/
def State.postTime (s : State) (n : Nat) (w : Word) (tgt : Nat) : State :=
  let x := s.sq n
  let e : TEnt := ⟨w, tgt, x.post, s.now, decide (tgt < s.tim.wkt + 16 * nsU), none⟩
  s.setQ n { x with tq := insEnt e x.tq, post := x.post + 1 }

/-- 05 R111: an angle entry armed on tick `armed`. -/
def State.postAngle (s : State) (n : Nat) (w : Word) (dom dir tau armed : Nat) : State :=
  let x := s.sq n
  s.setQ n { x with aq := x.aq ++ [⟨w, dom, dir, tau, x.post, armed⟩], post := x.post + 1 }

/-- 06 R131, R132: selection of a time entry on the tick that has just begun: at its crossing by WKT, or late on the first
tick after its post or after an align that passed it. -/
def TEnt.select (e : TEnt) (now wPrev wCur : Nat) : TEnt :=
  if e.due.isSome then e
  else if e.late then (if e.posted < now then { e with due := some (now, 0) } else e)
  else if e.tgt ≤ wPrev then { e with late := true, due := some (now, 0) }
  else if e.tgt ≤ wCur then { e with due := some (now, placeK wPrev wCur e.tgt) }
  else e

/-- The selection of one sequencer's queue. -/
def SeqSt.select (x : SeqSt) (now wPrev wCur : Nat) : SeqSt :=
  { x with tq := x.tq.map (fun e => e.select now wPrev wCur) }

/-- 06 R131: the selection of every queue on a tick. -/
def State.selectAll (s : State) : State :=
  (List.range 8).foldl
    (fun u n => if (u.sq n).tq = [] then u else u.setSq n ((u.sq n).select u.now u.wktPrev u.tim.wkt)) s

/-- A phase domain. -/
def State.ph (s : State) (d : Nat) : PhSt := Cells.get (fun _ => {}) s.phs d

/-- The state with a phase domain set. -/
def State.setPh (s : State) (d : Nat) (x : PhSt) : State := { s with phs := Cells.set (fun _ => {}) s.phs d x }

/-- 04 R87: the state code of a phase domain (0 OFF, 1 ACQUIRE, 2 TRACK, 3 HOLD, 4 LOST). -/
def State.phState (s : State) (d : Nat) : Nat := fldGet (s.reg (PHS_STAT.a d)) PHS_STAT.state

/-- 04 R86: the motion direction m (0 forward, 1 reverse). -/
def State.phM (s : State) (d : Nat) : Nat := fldGet (s.reg (PHS_STAT.a d)) PHS_STAT.dir

/-- The distance from `p` to `x` in direction `m`, modulo one turn. -/
def arcDist (m p x : Nat) : Nat :=
  if m = 0 then (x + 4294967296 - p) % 4294967296 else (p + 4294967296 - x) % 4294967296

/-- 04 R90: θ̂ of domain `d` crosses `tau` on the current tick in direction `dir` (0 forward, 1 reverse, 2 either), for
an arm or a wait that was set on tick `armed`. -/
def State.crosses (s : State) (d dir tau armed : Nat) : Bool :=
  let x := s.ph d
  let m := s.phM d
  let st := s.phState d
  (st == 2 || st == 3) && decide (armed < s.now) && (dir == m || dir == 2) &&
  decide (1 ≤ arcDist m x.hatPrev tau) && decide (arcDist m x.hatPrev tau ≤ arcDist m x.hatPrev x.hat)

/-- An armed entry falls due on the current tick. -/
def State.angleDue (s : State) (e : AEnt) : Bool := s.crosses e.dom e.dir e.tau e.armed

/-- 06 R131, R142: the queue of sequencer `n` flushed: every entry that does not fall due on this tick is removed and
counted in `flushed`, with one event if any was. -/
def State.flushQ (s : State) (n : Nat) : State :=
  let x := s.sq n
  let kt := x.tq.filter (fun e => e.due.isSome)
  let ka := x.aq.filter (fun e => s.angleDue e)
  let k := x.used - (kt.length + ka.length)
  if k = 0 then s
  else ((s.setQ n { x with tq := kt, aq := ka }).bumpN (SEQ_QCNT_A.a n) SEQ_QCNT_A.flushed k).raise (33 + n) 5 0

/-- 06 R142: the angle entries of domain `d` cancelled in the queue of sequencer `n`. -/
def State.cancelIn (s : State) (d n : Nat) : State :=
  let x := s.sq n
  let keep := x.aq.filter (fun e => e.dom != d)
  let k := x.aq.length - keep.length
  if k = 0 then s
  else ((s.setQ n { x with aq := keep }).bumpN (SEQ_QCNT_B.a n) SEQ_QCNT_B.cancelled k).raise (33 + n) 6 d

/-- 06 R142: the angle entries of domain `d` cancelled in every queue. -/
def State.cancelAngle (s : State) (d : Nat) : State := (List.range 8).foldl (fun u n => u.cancelIn d n) s

end Sys2Proof.Machine
end

