-- ==== Sys2Proof/Machine/Tables.lean ====
section
/-! DEFINITION. The exact-match tables (chapter 08): hashing and placement, host commands, learning, aging, parity.
`p` is the pipeline (0 A, 1 B); a slot is named by its location (R171). -/

namespace Sys2Proof.Machine

/-! ### State access -/

/-- The table engines of a pipeline. -/
def State.pp (s : State) (p : Nat) : PipeSt := Cells.get (fun _ => {}) s.pipe p

/-- The state with the engines of a pipeline set. -/
def State.setPp (s : State) (p : Nat) (x : PipeSt) : State := { s with pipe := Cells.set (fun _ => {}) s.pipe p x }

/-- The FDB entry at a location. -/
def State.fdbAt (s : State) (p loc : Nat) : Option FdbEnt := Cells.get (fun _ => none) s.fdb (p * 32768 + loc)

/-- The FDB with the slot at a location set; FDB_STAT follows. -/
def State.setFdb (s : State) (p loc : Nat) (e : Option FdbEnt) : State :=
  let n := fun (x : Option FdbEnt) (st : Bool) => match x with
    | some y => if y.fixed = st then 1 else 0
    | none => 0
  let old := s.fdbAt p loc
  let w := s.reg (FDB_STAT.a p)
  let s1 := { s with fdb := Cells.set (fun _ => none) s.fdb (p * 32768 + loc) e }
  s1.setReg (FDB_STAT.a p)
    (fldSet (fldSet w FDB_STAT.static_cnt (fldGet w FDB_STAT.static_cnt + n e true - n old true))
      FDB_STAT.learned_cnt (fldGet w FDB_STAT.learned_cnt + n e false - n old false))

/-- The flow entry at a location. -/
def State.flwAt (s : State) (p loc : Nat) : Option FlwEnt := Cells.get (fun _ => none) s.flw (p * 16384 + loc)

/-- The flow table with the slot at a location set. -/
def State.setFlw (s : State) (p loc : Nat) (e : Option FlwEnt) : State :=
  { s with flw := Cells.set (fun _ => none) s.flw (p * 16384 + loc) e }

/-! ### Hashing (R171, R172) -/

/-- The key bytes of an FDB key. -/
def fdbKey (mac vid : Nat) : List Byte := leBytes 4 (mac % 2 ^ 32) ++ leBytes 4 (vid * 65536 + mac / 2 ^ 32)

/-- The key bytes of a flow key. -/
def flwKey (kind w1 w2 w3 : Nat) : List Byte := leBytes 4 w1 ++ leBytes 4 w2 ++ leBytes 4 (w3 % 2 ^ 28 + kind * 2 ^ 28)

/-- The bucket of a key in half `h` of a table of 2^`bits` buckets per half. -/
def hashBucket (bits h : Nat) (key : List Byte) : Nat :=
  (if h = 0 then crc32 key else crc32c key).toNat % 2 ^ bits

/-- The slot location of half, bucket and slot. -/
def slotLoc (bits h b sl : Nat) : Nat := h * 2 ^ (bits + 2) + b * 4 + sl

/-- The four locations of a bucket. -/
def bucketLocs (bits h b : Nat) : List Nat := (List.range 4).map (slotLoc bits h b)

/-- The eight locations of a key, half 0 first (R173). -/
def keyLocs (bits : Nat) (key : List Byte) : List Nat :=
  bucketLocs bits 0 (hashBucket bits 0 key) ++ bucketLocs bits 1 (hashBucket bits 1 key)

/-- The four locations of the bucket in the other half where the occupant with `key`, now in half `h`, could stand. -/
def otherLocs (bits h : Nat) (key : List Byte) : List Nat :=
  bucketLocs bits (1 - h) (hashBucket bits (1 - h) key)

/-! ### Placement (R178) -/

/-- One move of a relocation path: from a location to a location. -/
abbrev Move := Nat × Nat

/-- R178: the lowest slot of the bucket `c` whose occupant has room in its other bucket and is not on the path. -/
def roomMove (bits : Nat) (keyAt : Nat → Option (List Byte)) (path : List Nat) (c : List Nat) : Option Move :=
  c.findSome? (fun l =>
    if path.contains l then none
    else match keyAt l with
      | none => none
      | some k => ((otherLocs bits (l / 2 ^ (bits + 2)) k).find? (fun a => (keyAt a).isNone)).map (fun a => (l, a)))

/-- R178: the search for a relocation path; `n` moves remain, `i` the step, `path` the moves so far (newest first). -/
def placeSearch (bits : Nat) (keyAt : Nat → Option (List Byte)) : Nat → Nat → List Move → List Nat → Option (List Move)
  | 0, _, _, _ => none
  | n + 1, i, path, c =>
    let on := path.map (·.1)
    match roomMove bits keyAt on c with
    | some m => some (m :: path)
    | none =>
      match rotFind 4 (i % 4) (fun k => !(on.contains (c.getD k 0))) with
      | none => none
      | some k =>
        let l := c.getD k 0
        match keyAt l with
        | none => none
        | some key =>
          let o := otherLocs bits (l / 2 ^ (bits + 2)) key
          placeSearch bits keyAt n (i + 1) ((l, slotLoc bits (1 - l / 2 ^ (bits + 2)) (o.getD 0 0 / 4 % 2 ^ bits) 0) :: path) o

/-- R178: where a key goes: the slot, and the relocation path from its last move to its first, whose targets are the slots
that the moves use. A forced victim's target is the slot that the next move vacates. -/
def place (bits : Nat) (keyAt : Nat → Option (List Byte)) (key : List Byte) : Option (Nat × List Move) :=
  match (keyLocs bits key).find? (fun l => (keyAt l).isNone) with
  | some l => some (l, [])
  | none =>
    let c := bucketLocs bits 0 (hashBucket bits 0 key)
    match placeSearch bits keyAt 16 0 [] c with
    | none => none
    | some path => some ((path.getLastD (0, 0)).1, path)

/-- The moves of a path with each forced victim sent to the slot that the move after it vacates (R179). -/
def pathMoves : Option Nat → List Move → List Move
  | _, [] => []
  | next, (l, a) :: r => (l, next.getD a) :: pathMoves (some l) r

/-! ### The FDB -/

/-- The key bytes of the occupant of a location. -/
def State.fdbKeyAt (s : State) (p : Nat) (loc : Nat) : Option (List Byte) :=
  (s.fdbAt p loc).map (fun e => fdbKey e.mac e.vid)

/-- R173: the location that holds a key. -/
def State.fdbFind (s : State) (p mac vid : Nat) : Option Nat :=
  (keyLocs 12 (fdbKey mac vid)).find? (fun l => match s.fdbAt p l with
    | some e => e.mac == mac && e.vid == vid
    | none => false)

/-- R178, R179: a new entry placed, with the relocations it takes. -/
def State.fdbPlace (s : State) (p : Nat) (e : FdbEnt) : Option State :=
  match place 12 (s.fdbKeyAt p) (fdbKey e.mac e.vid) with
  | none => none
  | some (l, path) =>
    let s1 := (pathMoves none path).foldl (fun u m => (u.setFdb p m.2 (u.fdbAt p m.1)).setFdb p m.1 none) s
    some (s1.setFdb p l (some e))

/-- R174: a dest field is in range with its unused bits 0. -/
def destOk (d : Nat) : Bool :=
  if d / 128 = 0 then decide (d % 128 < 28)
  else if d / 128 = 1 then decide (d % 128 < 8)
  else if d / 128 = 2 then true
  else decide (d / 128 = 3) && decide (d % 128 = 0)

/-- R174: DATA2 of FDB_RES. -/
def fdbWord2 (found : Bool) (e : FdbEnt) : Nat :=
  b2n found * 2 ^ 31 + b2n e.fixed * 2 ^ 30 + b2n e.hit * 2 ^ 29 + b2n e.stale * 2 ^ 28 + b2n e.frozen * 2 ^ 27 + e.dest

/-- R174: the four words of FDB_RES for a slot. -/
def fdbWords (found : Bool) (e : FdbEnt) (loc : Nat) : List Nat :=
  [e.mac % 2 ^ 32, e.vid * 65536 + e.mac / 2 ^ 32, fdbWord2 found e, loc]

/-- The base addresses of the table mailboxes of pipeline `p`. -/
def fdbCmd (p : Nat) : Nat := 0x803000 + 0x400000 * p
def fdbRes (p : Nat) : Nat := 0x803100 + 0x400000 * p
def fdbLnot (p : Nat) : Nat := 0x803180 + 0x400000 * p
def flwCmd (p : Nat) : Nat := 0x803200 + 0x400000 * p
def flwRes (p : Nat) : Nat := 0x803300 + 0x400000 * p

/-- R183: the oldest notification presents itself through FDB_LNOT. -/
def State.lnotShow (s : State) (p : Nat) : State :=
  match (s.pp p).notif with
  | [] => s
  | e :: _ =>
    if fldGet (s.reg (fdbLnot p + 4)) MBX_STAT.valid = 1 then s
    else (s.setWords (fdbLnot p) 0 e).setF (fdbLnot p + 4) MBX_STAT.valid 1

/-- R183: DATA3 of FDB_LNOT has been read, and its entry is released. -/
def State.lnotRead (s : State) (p : Nat) : State :=
  let x := s.pp p
  (s.setPp p { x with notif := x.notif.drop 1 }).lnotShow p

/-- R183: a notification of the given kind. -/
def State.notify (s : State) (p kind : Nat) (e : FdbEnt) (loc : Nat) : State :=
  if s.on (FDB_LEARN_CFG.a p) FDB_LEARN_CFG.notify_en then
    let x := s.pp p
    if x.notif.length < 256 then
      let w := [e.mac % 2 ^ 32, e.vid * 65536 + e.mac / 2 ^ 32, fdbWord2 (decide (kind < 3)) e,
        b2n x.notifLost * 2 ^ 31 + kind * 65536 + loc]
      (s.setPp p { x with notif := x.notif ++ [w], notifLost := false }).lnotShow p
    else s.setPp p { x with notifLost := true }
  else s

/-- R175, R182: an entry's freeze ends. -/
def State.unfreezeEv (s : State) (p : Nat) (e : FdbEnt) : State := s.raiseIf e.frozen (41 + p) 4 e.dest

/-- R182: freeze_time of an entry ends. -/
def State.freezeEnd (s : State) (p l : Nat) : State :=
  match s.fdbAt p l with
  | none => s
  | some e =>
    if e.frozen ∧ e.frzEnd ≤ s.now then
      (s.setFdb p l (some { e with frozen := false, hit := true, stale := false, win := none, moves := 0 })).raise
        (41 + p) 4 e.dest
    else s

/-- The freeze of the entry at a location, if there is one, ends where its time has run out. -/
def State.thaw (s : State) (p : Nat) (l : Option Nat) : State :=
  match l with
  | some k => s.freezeEnd p k
  | none => s

/-! ### Learning (R180 to R182) -/

/-- R181: a learning request joins the queue of 64, or is dropped. -/
def State.learnPush (s : State) (p : Nat) (r : LearnReq) : State :=
  let x := s.pp p
  if x.learnQ.length < 64 then s.setPp p { x with learnQ := x.learnQ ++ [r] }
  else (s.bump (FDB_CNT.a p 2) FDB_CNT.count).raise (41 + p) 2 0

/-- R182: a move that would exceed move_max in its window freezes the entry. -/
def State.learnFreeze (s : State) (p l : Nat) (e : FdbEnt) : State :=
  let t := s.f (FDB_MOVE_CFG.a p) FDB_MOVE_CFG.freeze_time
  let e' := { e with frozen := true, frzEnd := s.now + t * 2500000 }
  ((s.setFdb p l (some e')).raise (41 + p) 3 e.dest).notify p 2 e' l

/-- R182: the move window of an entry still runs. -/
def State.winOpen (s : State) (e : FdbEnt) : Bool :=
  match e.win with
  | some t => decide (s.now < t)
  | none => false

/-- R181, R182: a station move. -/
def State.learnMove (s : State) (p l : Nat) (e : FdbEnt) (dest : Nat) : State :=
  let win := s.f (FDB_MOVE_CFG.a p) FDB_MOVE_CFG.move_win
  let op := s.winOpen e
  let n := if op then e.moves + 1 else 1
  if win ≠ 0 ∧ s.f (FDB_MOVE_CFG.a p) FDB_MOVE_CFG.move_max < n then s.learnFreeze p l e
  else
    let e' := { e with
      dest := dest, hit := true, stale := false, moves := n
      win := if win = 0 then none else if op then e.win else some (s.now + msTicks win) }
    ((s.setFdb p l (some e')).bump (FDB_CNT.a p 1) FDB_CNT.count).notify p 1 e' l

/-- R181: a learning request judged against the table as it stands; a freeze that has run out is over. -/
def State.learnJudge (s0 : State) (p : Nat) (r : LearnReq) : State :=
  let s := s0.thaw p (s0.fdbFind p r.mac r.vid)
  match s.fdbFind p r.mac r.vid with
  | none =>
    let e : FdbEnt := { mac := r.mac, vid := r.vid, fixed := false, dest := r.dest }
    match s.fdbPlace p e with
    | none => (s.bump (FDB_CNT.a p 3) FDB_CNT.count).raise (41 + p) 1 0
    | some s1 =>
      (s1.bump (FDB_CNT.a p 0) FDB_CNT.count).notify p 0 e ((s1.fdbFind p r.mac r.vid).getD 0)
  | some l =>
    match s.fdbAt p l with
    | none => s
    | some e =>
      if e.dest = r.dest then s.setFdb p l (some { e with hit := true, stale := false })
      else if e.fixed then (s.bump (FDB_CNT.a p 4) FDB_CNT.count).raise (41 + p) 7 r.port
      else if e.frozen then s.bump (FDB_CNT.a p 5) FDB_CNT.count
      else s.learnMove p l e r.dest

/-- R177, R181: the update engine applies its oldest learning request; a flush in progress goes before it. -/
def State.learnApply (s : State) (p : Nat) : State :=
  match (s.pp p).flush, (s.pp p).learnQ with
  | none, r :: rest => (s.setPp p { s.pp p with learnQ := rest }).learnJudge p r
  | _, _ => s

/-- R177: the update engine applies the learning requests that reached it before a host command. -/
def State.learnDrain (s : State) (p : Nat) : State := (s.pp p).learnQ.foldl (fun u _ => u.learnApply p) s

/-! ### FDB commands (R174, R175, R177) -/

/-- R439, R174: the err_code of an FDB_CMD request. -/
def State.fdbErr (s : State) (p op arg : Nat) : Option Nat :=
  let m := fdbCmd p
  let d0 := s.dw m 0
  let d1 := s.dw m 1
  let d2 := s.dw m 2
  let d3 := s.dw m 3
  let mac := d0 + d1 % 65536 * 2 ^ 32
  let vid := d1 / 65536 % 4096
  let keyBad := decide (2 ^ 28 ≤ d1)
  let present := (s.fdbFind p mac vid).isSome
  let rangeBad :=
    if op = 1 then keyBad || decide (512 ≤ d2 % 2 ^ 31) || !(destOk (d2 % 512)) || d3 != 0
    else if op = 2 ∨ op = 3 then keyBad || d2 != 0 || d3 != 0
    else if op = 4 then d0 != 0 || d1 != 0 || d2 != 0 || d3 != 0
    else if op = 5 then d0 != 0 || d1 % 65536 != 0 || keyBad || decide (512 ≤ d2) || !(destOk (d2 % 512)) ||
      decide (8 ≤ d3)
    else false
  lowestErr
    [(op == 2 && !present, 1),
     (op == 1 && !present &&
        (place 12 (s.fdbKeyAt p) (fdbKey mac vid)).isNone, 2),
     (rangeBad, 3),
     (op == 0 || decide (5 < op) || (op != 4 && arg != 0) || decide (32768 ≤ arg), 15)]

/-- R174: the entry that the words of FDB_CMD spell. -/
def State.fdbCmdEnt (s : State) (p : Nat) : FdbEnt :=
  let m := fdbCmd p
  { mac := s.dw m 0 + s.dw m 1 % 65536 * 2 ^ 32, vid := s.dw m 1 / 65536 % 4096, fixed := nbit (s.dw m 2) 31, dest := s.dw m 2 % 512 }

/-- Where the key that the words of FDB_CMD spell stands in the FDB. -/
def State.fdbCmdAt (s : State) (p : Nat) : Option Nat := s.fdbFind p (s.fdbCmdEnt p).mac (s.fdbCmdEnt p).vid

/-- R174, R175: an FDB_CMD insert, delete, search or slot read, once the slot it meets holds no freeze that has run out. -/
def State.fdbAct (s : State) (p op arg : Nat) : State :=
  let e := s.fdbCmdEnt p
  if op = 1 then
    match s.fdbCmdAt p with
    | some l => match s.fdbAt p l with
      | some o => (s.setFdb p l (some e)).unfreezeEv p o
      | none => s
    | none => (s.fdbPlace p e).getD s
  else if op = 2 then
    match s.fdbCmdAt p with
    | some l => match s.fdbAt p l with
      | some o => (s.setFdb p l none).unfreezeEv p o
      | none => s
    | none => s
  else if op = 3 then
    match s.fdbCmdAt p with
    | some l => match s.fdbAt p l with
      | some o => s.snap (fdbRes p) (fdbWords true o l)
      | none => s
    | none => s.snap (fdbRes p) [s.dw (fdbCmd p) 0, s.dw (fdbCmd p) 1, 0, 0]
  else
    match s.fdbAt p arg with
    | some o => s.snap (fdbRes p) (fdbWords true o arg)
    | none => s.snap (fdbRes p) [0, 0, 0, arg]

/-- R174, R175: an FDB_CMD insert, delete, search or slot read that did not fail. -/
def State.fdbDo (s : State) (p op arg : Nat) : State :=
  (s.thaw p (if op = 4 then some arg else s.fdbCmdAt p)).fdbAct p op arg

/-- R174, R177: the FDB_CMD command, after the learning requests that came before it; a flush begins and its command completes with its
last visit. -/
def State.fdbReq (s0 : State) (p op arg : Nat) : State :=
  let s := s0.learnDrain p
  match s.fdbErr p op arg with
  | some c => s.mbxEnd (fdbCmd p) 4 (some c)
  | none =>
    if op = 5 then
      let m := fdbCmd p
      s.setPp p { s.pp p with flush := some ⟨0, s.dw m 1 / 65536 % 4096, s.dw m 2 % 512, s.dw m 3⟩ }
    else (s.fdbDo p op arg).mbxEnd (fdbCmd p) 4 none

/-- R174: a flush's criteria select an entry. -/
def FlushSt.selects (f : FlushSt) (e : FdbEnt) : Bool :=
  (!e.fixed || nbit f.sel 2) && (!(nbit f.sel 1) || e.vid == f.vid) && (!(nbit f.sel 0) || e.dest == f.dest)

/-- FLUSH_VISIT (R174): the flush in progress reaches its next slot; the last visit completes the command. `again` says that a write of 1
to req falls in the same cycle (02 R37). -/
def State.flushVisit (s : State) (p : Nat) (again : Bool) : State :=
  match (s.pp p).flush with
  | none => s
  | some f =>
    let s1 := match s.fdbAt p f.next with
      | some e => if f.selects e then s.setFdb p f.next none else s
      | none => s
    if f.next = 32767 then
      let s2 := (s1.setPp p { s1.pp p with flush := none }).mbxEnd (fdbCmd p) 4 none
      if again then s2.setF (fdbCmd p + 4) MBX_STAT.overrun 1 else s2
    else s1.setPp p { s1.pp p with flush := some { f with next := f.next + 1 } }

/-! ### The flow table -/

/-- The key bytes of the occupant of a flow slot. -/
def State.flwKeyAt (s : State) (p : Nat) (loc : Nat) : Option (List Byte) :=
  (s.flwAt p loc).map (fun e => flwKey e.kind e.w1 e.w2 e.w3)

/-- The location that holds a flow key. -/
def State.flwFind (s : State) (p kind w1 w2 w3 : Nat) : Option Nat :=
  (keyLocs 11 (flwKey kind w1 w2 w3)).find? (fun l => match s.flwAt p l with
    | some e => e.kind == kind && e.w1 == w1 && e.w2 == w2 && e.w3 == w3
    | none => false)

/-- R178: a new flow entry placed. -/
def State.flwPlace (s : State) (p : Nat) (e : FlwEnt) : Option State :=
  match place 11 (s.flwKeyAt p) (flwKey e.kind e.w1 e.w2 e.w3) with
  | none => none
  | some (l, path) =>
    let s1 := (pathMoves none path).foldl (fun u m => (u.setFlw p m.2 (u.flwAt p m.1)).setFlw p m.1 none) s
    some (s1.setFlw p l (some e))

/-- R176: the key words are in range for their kind. -/
def flwKeyOk (kind w2 w3 : Nat) : Bool :=
  if kind = 1 ∨ kind = 2 then decide (w2 < 2 ^ 28) && w3 == 0
  else kind == 3 && decide (w3 < 2 ^ 24)

/-- R176, R439: the err_code of an FLW_CMD request. -/
def State.flwErr (s : State) (p op arg : Nat) : Option Nat :=
  let m := flwCmd p
  let d := s.dw m
  let keyBad := !(flwKeyOk (d 0) (d 2) (d 3))
  let present := (s.flwFind p (d 0) (d 1) (d 2) (d 3)).isSome
  let rest := d 6 != 0 || d 7 != 0
  let rangeBad :=
    if op = 1 then keyBad || d 4 / 2 ^ 26 % 32 != 0 || d 4 / 2 ^ 11 % 16 != 0 || d 5 / 2 ^ 14 % 1024 != 0 || rest
    else if op = 2 ∨ op = 3 then keyBad || d 4 != 0 || d 5 != 0 || rest
    else if op = 4 then d 0 != 0 || d 1 != 0 || d 2 != 0 || d 3 != 0 || d 4 != 0 || d 5 != 0 || rest
    else false
  lowestErr
    [(op == 2 && !present, 1),
     (op == 1 && !present &&
        (place 11 (s.flwKeyAt p) (flwKey (d 0) (d 1) (d 2) (d 3))).isNone, 2),
     (rangeBad, 3),
     (op == 0 || decide (4 < op) || (op != 4 && arg != 0) || decide (16384 ≤ arg), 15)]

/-- R176: the eight words of FLW_RES. -/
def flwWords (e : FlwEnt) (loc : Nat) : List Nat := [e.kind, e.w1, e.w2, e.w3, e.d4, e.d5, 2 ^ 31, loc]

/-- R176: an FLW_CMD command that did not fail. -/
def State.flwDo (s : State) (p op arg : Nat) : State :=
  let m := flwCmd p
  let d := s.dw m
  let at' := s.flwFind p (d 0) (d 1) (d 2) (d 3)
  if op = 1 then
    let e : FlwEnt := ⟨d 0, d 1, d 2, d 3, d 4, d 5⟩
    match at' with
    | some l => s.setFlw p l (some e)
    | none => (s.flwPlace p e).getD s
  else if op = 2 then
    match at' with
    | some l => s.setFlw p l none
    | none => s
  else if op = 3 then
    match at' with
    | some l => match s.flwAt p l with
      | some e => s.snap (flwRes p) (flwWords e l)
      | none => s
    | none => s.snap (flwRes p) [d 0, d 1, d 2, d 3, 0, 0, 0, 0]
  else
    match s.flwAt p arg with
    | some e => s.snap (flwRes p) (flwWords e arg)
    | none => s.snap (flwRes p) [0, 0, 0, 0, 0, 0, 0, arg]

/-- R176: the FLW_CMD command. -/
def State.flwReq (s : State) (p op arg : Nat) : State :=
  match s.flwErr p op arg with
  | some c => s.mbxEnd (flwCmd p) 8 (some c)
  | none => (s.flwDo p op arg).mbxEnd (flwCmd p) 8 none

/-! ### Move windows (R182) -/

/-- R182: the move window of an entry ends. -/
def State.moveWindowEnd (s : State) (p l : Nat) : State :=
  match s.fdbAt p l with
  | none => s
  | some e => match e.win with
    | none => s
    | some t => if t ≤ s.now then s.setFdb p l (some { e with win := none, moves := 0 }) else s

/-! ### Aging (R185, R186) -/

/-- R185: the sweeper acts on a slot. -/
def State.ageSlot (s0 : State) (p l : Nat) : State :=
  let s := s0.freezeEnd p l
  match s.fdbAt p l with
  | none => s
  | some e =>
    if e.fixed ∨ e.frozen then s
    else if e.hit then s.setFdb p l (some { e with hit := false, stale := false })
    else if !e.stale then s.setFdb p l (some { e with stale := true })
    else ((s.setFdb p l none).bump (FDB_CNT.a p 6) FDB_CNT.count).notify p 3 e l

/-- R185: the sweep period in seconds; 0 is treated as 1. -/
def State.agePeriod (s : State) (p : Nat) : Nat :=
  let n := s.f (FDB_AGE_CFG.a p) FDB_AGE_CFG.period
  if n = 0 then 1 else n

/-- R185: the sweeper's next visit, when it is due. -/
def State.agingVisit (s : State) (p : Nat) : State :=
  let x := s.pp p
  if s.on (FDB_AGE_CFG.a p) FDB_AGE_CFG.age_en ∧ x.sweepAt ≤ s.now * 32768 then
    (s.setPp p { x with sweep := (x.sweep + 1) % 32768, sweepAt := x.sweepAt + s.agePeriod p * 250000000 }).ageSlot p
      x.sweep
  else s

/-- R185: age_en changes from 0 to 1: the sweep starts again with slot 0. -/
def State.ageCfgChanged (s : State) (p : Nat) (old : Word) : State :=
  if fldGet old FDB_AGE_CFG.age_en = 0 ∧ s.on (FDB_AGE_CFG.a p) FDB_AGE_CFG.age_en then
    s.setPp p { s.pp p with sweep := 0, sweepAt := s.now * 32768 }
  else s

/-- R185: the sweep of both pipelines starts with slot 0 at the end of a device reset. -/
def State.ageStart (s : State) : State :=
  [0, 1].foldl (fun (u : State) (p : Nat) => u.setPp p { u.pp p with sweep := 0, sweepAt := u.now * 32768 }) s

/-! ### Parity (R187) -/

/-- R187: an FDB slot with bad parity. -/
def State.fdbParity (s : State) (p l : Nat) : State :=
  let s1 := (s.setFdb p l none).bump (FDB_CNT.a p 7) FDB_CNT.count
  let s2 := if fldGet (s1.reg (FDB_PAR_LOC.a p)) FDB_PAR_LOC.valid = 1 then s1
    else s1.setFs (FDB_PAR_LOC.a p) [(FDB_PAR_LOC.valid, 1), (FDB_PAR_LOC.loc, l)]
  s2.raise (41 + p) 5 (l / 4 % 4096)

/-- R187: a flow slot with bad parity. -/
def State.flwParity (s : State) (p l : Nat) : State :=
  let s1 := (s.setFlw p l none).bump (FDB_CNT.a p 7) FDB_CNT.count
  let s2 := if fldGet (s1.reg (FLW_PAR_LOC.a p)) FLW_PAR_LOC.valid = 1 then s1
    else s1.setFs (FLW_PAR_LOC.a p) [(FLW_PAR_LOC.valid, 1), (FLW_PAR_LOC.loc, l)]
  s2.raise (41 + p) 6 (l / 4 % 2048)

/-! ### Lookups of a frame (R173, R180, R185) -/

/-- A matching entry's hit bit set. -/
def State.fdbHit (s : State) (p l : Nat) : State :=
  match s.fdbAt p l with
  | some e => s.setFdb p l (some { e with hit := true })
  | none => s

/-- R173, R185: the destination lookup, which sets hit. -/
def State.fdbDest (s : State) (p mac vid : Nat) : Option Nat × State :=
  match s.fdbFind p mac vid with
  | none => (none, s)
  | some l => ((s.fdbAt p l).map (·.dest), s.fdbHit p l)

/-- R180: the learn dest of a port. -/
def State.learnDest (s : State) (p port : Nat) : Nat :=
  if s.on (FDB_PORT_CFG.a p port) FDB_PORT_CFG.lag_en then 128 + s.f (FDB_PORT_CFG.a p port) FDB_PORT_CFG.lag else port

/-- R180, R185: the source lookup: whether it missed or hit another dest; a hit with the same dest sets hit. -/
def State.fdbSource (s : State) (p mac vid port : Nat) : Bool × State :=
  match s.fdbFind p mac vid with
  | none => (true, s)
  | some l => match s.fdbAt p l with
    | none => (true, s)
    | some e => if e.dest = s.learnDest p port then (false, s.fdbHit p l) else (true, s)

/-- R180: learning is enabled for the port and the VLAN. -/
def State.learnOn (s : State) (p port vid : Nat) : Bool :=
  s.on (FDB_PORT_CFG.a p port) FDB_PORT_CFG.learn_en && s.on (FDB_VLAN_CFG.a p vid) FDB_VLAN_CFG.learn_en

/-! ### The commands that no software access issues -/

/-- FLUSH_VISIT (R174). -/
def execFlushVisit (p : Fin 2) (again : Bool) (s : State) : Host.Outcome State Fault Refusal := .next (s.live (s.flushVisit p.val again))

/-- LEARN_APPLY (R181). -/
def execLearnApply (p : Fin 2) (s : State) : Host.Outcome State Fault Refusal := .next (s.live (s.learnApply p.val))

/-- MOVE_WINDOW_END (R182). -/
def execMoveWindowEnd (p : Fin 2) (loc : Fin 32768) (s : State) : Host.Outcome State Fault Refusal :=
  .next (s.live (s.moveWindowEnd p.val loc.val))

/-- FREEZE_END (R182). -/
def execFreezeEnd (p : Fin 2) (loc : Fin 32768) (s : State) : Host.Outcome State Fault Refusal :=
  .next (s.live (s.freezeEnd p.val loc.val))

/-- AGING_VISIT (R185). -/
def execAgingVisit (p : Fin 2) (s : State) : Host.Outcome State Fault Refusal := .next (s.live (s.agingVisit p.val))

/-- TABLE_PARITY_SCAN (R187): the scan, a lookup or an engine read meets the slot; `bad` says that its parity fails. -/
def execTableParityScan (p : Fin 2) (flow bad : Bool) (loc : Fin 32768) (s : State) :
    Host.Outcome State Fault Refusal :=
  .next (s.live (
    if bad then (if flow then s.flwParity p.val (loc.val % 16384) else s.fdbParity p.val loc.val) else s))

end Sys2Proof.Machine
end

