-- ==== Sys2Proof/Machine/Classify.lean ====
section
/-! DEFINITION. The parser, Reedbed rules and Sedge patterns (chapter 07). `p` is the pipeline, `b` a bank; a frame's
bytes run from its destination address and end before its FCS. -/

namespace Sys2Proof.Machine

/-! ### The parser (R145 to R153) -/

/-- R145, R149: `n` bytes at `pos`, most significant first, if they lie before position 192 and before the FCS. -/
def parseRd (data : List Byte) (pos n : Nat) : Option Nat :=
  if pos + n ≤ data.length ∧ pos + n ≤ 192 then some (beAt data pos n) else none

/-- R146: a VLAN tag's TPID stands at `pos`. -/
def tpidAt (data : List Byte) (pos : Nat) : Bool :=
  match parseRd data pos 2 with
  | some v => v == 0x8100 || v == 0x88a8
  | none => false

/-- R146, R150: the tags counted: 0, 1 or 2; 3 for class 1. -/
def countTags (data : List Byte) : Nat :=
  if !tpidAt data 12 then 0
  else if !tpidAt data 16 then 1
  else if !tpidAt data 20 then 2
  else 3

/-- R146: the base ET. -/
def baseET (tags : Nat) : Nat := 12 + 4 * tags

/-- R147: the template of an EtherType. -/
def State.tplOf (s : State) (p ety : Nat) : Nat :=
  (((List.range 16).drop 1).find? (fun t =>
    s.on (CLS_TPL_CFG.a p t) CLS_TPL_CFG.valid && !(s.f (CLS_TPL_CFG.a p t) CLS_TPL_CFG.l3_kind == 3) &&
    s.f (CLS_TPL_CFG.a p t) CLS_TPL_CFG.ethertype == ety)).getD 0

/-- R151: the classes that an IPv4 or IPv6 header puts a frame in. -/
def l3Class (kind l3 : Nat) (data : List Byte) : Nat :=
  if kind = 1 then
    let b0 := (parseRd data l3 1).getD 0x45
    let ff := (parseRd data (l3 + 6) 2).getD 0
    if b0 / 16 ≠ 4 ∨ b0 % 16 < 5 then 4
    else if 5 < b0 % 16 then 3
    else if nbit ff 13 ∨ ff % 8192 ≠ 0 then 6
    else 0
  else if kind = 2 then
    let b0 := (parseRd data l3 1).getD 0x60
    let nh := (parseRd data (l3 + 6) 1).getD 17
    if b0 / 16 ≠ 6 then 4
    else if nh ≠ 6 ∧ nh ≠ 17 ∧ nh ≠ 58 then 5
    else 0
  else 0

/-- R147, R151: whether the base with a code is valid for a frame of exception class `exc` under template `tpl`. -/
def baseValid (tpl exc code : Nat) : Bool :=
  if code = 0 then true
  else if code = 1 then exc != 1
  else if code = 2 then tpl != 0 && exc != 1 && exc != 2 && exc != 4
  else tpl != 0 && exc != 1 && exc != 2 && exc != 3 && exc != 4 && exc != 5 && exc != 6

/-- R146: the position of a base. -/
def basePos (tags kind l4off code : Nat) : Nat :=
  let et := baseET tags
  if code = 0 then 0
  else if code = 1 then et
  else if code = 2 then et + 2
  else et + 2 + (if kind = 1 then 20 else if kind = 2 then 40 else l4off)

/-- R149: field `k` of template `t`. -/
def State.fieldOf (s : State) (p t k tags kind exc : Nat) (data : List Byte) : Option Nat :=
  let d := s.hw (CLS_FLD_DESC.a p t k)
  let b := fldGet d CLS_FLD_DESC.base
  if fldGet d CLS_FLD_DESC.valid = 1 ∧ baseValid t exc b = true then
    (parseRd data (basePos tags kind (s.f (CLS_TPL_CFG.a p t) CLS_TPL_CFG.l4_off) b + fldGet d CLS_FLD_DESC.offset)
      (fldGet d CLS_FLD_DESC.width + 1)).map
      (fun v => (v &&& (s.hw (CLS_FLD_MASK.a p t k)).toNat) >>> fldGet d CLS_FLD_DESC.shift)
  else none

/-- R152: the length hint. -/
def State.hintOf (s : State) (p t l3 : Nat) (data : List Byte) : Option Nat :=
  let a := CLS_TPL_LEN.a p t
  let src := s.f a CLS_TPL_LEN.hint_src
  if src = 1 then (parseRd data (l3 + 2) 2).map (fun v => l3 + v + 4)
  else if src = 2 then (parseRd data (l3 + 4) 2).map (fun v => l3 + 40 + v + 4)
  else if src = 3 then
    (parseRd data (l3 + s.f a CLS_TPL_LEN.hint_off) 2).map (fun v => l3 + v + s.f a CLS_TPL_LEN.hint_add + 4)
  else none

/-- R145 to R153: the parser reads a frame with the ingress port's maximum frame length `lim`. The ingress port `port` is
that of the first pass (R441). -/
def State.parse (s : State) (p port lim : Nat) (data : List Byte) : ParseRes :=
  let tags := countTags data
  let et := baseET tags
  let ety := if tags = 3 then 0 else (parseRd data et 2).getD 0
  let tpl := if tags = 3 then 0 else s.tplOf p ety
  let kind := if tpl = 0 then 0 else s.f (CLS_TPL_CFG.a p tpl) CLS_TPL_CFG.l3_kind
  let exc := if tags = 3 then 1 else if tpl = 0 then 2 else l3Class kind (et + 2) data
  let minL3 := s.f (CLS_TPL_LEN.a p tpl) CLS_TPL_LEN.min_l3
  let hint := if baseValid tpl exc 2 then s.hintOf p tpl (et + 2) data else none
  let bad := match hint with
    | none => false
    | some h => decide (h < et + 2 + minL3 + 4) || decide (lim < h)
  let tci := (parseRd data 14 2).getD 0
  { tags := tags
    tpl := tpl
    kind := kind
    exc := if exc = 0 ∧ bad = true then 7 else exc
    vid := if tags = 0 then s.f (FDB_PORT_CFG.a p port) FDB_PORT_CFG.pvid else tci % 4096
    pcp := if tags = 0 then 0 else tci / 8192
    ety := ety
    l4off := s.f (CLS_TPL_CFG.a p tpl) CLS_TPL_CFG.l4_off
    hint := hint
    hintBad := bad
    minL3 := minL3
    fv := (List.range 24).map (fun k => s.fieldOf p tpl k tags kind exc data) }

/-- R153: a frame length agrees with its hint. -/
def hintAgrees (len hint : Nat) : Bool :=
  len == hint || (decide (hint < 68) && decide (hint < len) && decide (len ≤ 68))

/-- R153: the finding at a frame's end: 0 none, 7 length contradiction, 8 short. A hint out of range has been found before. -/
def endFinding (r : ParseRes) (len : Nat) : Nat :=
  let contra := match r.hint with
    | none => false
    | some h => !(hintAgrees len h)
  if r.hintBad then 0
  else if contra then 7
  else if r.tags < 3 ∧ len < baseET r.tags + 2 + r.minL3 + 4 then 8
  else 0

/-! ### The field vector (R150) -/

/-- R150: entry `k` of the field vector. -/
def fieldVec (r : ParseRes) (inPort pass : Nat) (macsec : Bool) (k : Nat) : Option Nat :=
  if k < 24 then r.fv.getD k none
  else if k = 32 then some inPort
  else if k = 33 then some r.vid
  else if k = 34 then some r.pcp
  else if k = 35 then some r.tags
  else if k = 36 then some r.tpl
  else if k = 37 then some r.exc
  else if k = 38 then some pass
  else if k = 39 then some (b2n macsec)
  else if k = 40 then r.hint
  else none

/-! ### Rules and patterns (R156 to R165) -/

/-- R156: the base of a bank in the table window. -/
def bankBase (p b : Nat) : Nat := 0x2000000 + 0x80000 * p + 0x40000 * b

/-- A 32-bit word of a table window. -/
def State.winW (s : State) (a : Nat) : Nat := memGet (fun _ => 0#8) s.win a 4

/-- Word `k` of rule `r`. -/
def State.ruleW (s : State) (p b r k : Nat) : Nat := s.winW (bankBase p b + 0x50 * r + 4 * k)

/-- Word `k` of pattern `q`. -/
def State.patW (s : State) (p b q k : Nat) : Nat := s.winW (bankBase p b + 0x30000 + 0x30 * q + 4 * k)

/-- The key of an entry's parity mark: entries 0 to 2047 are rules, 2048 + q pattern q. -/
def parKey (p b e : Nat) : Nat := (p * 2 + b) * 4096 + e

/-- R165: the stored parity of an entry fails. -/
def State.entryBad (s : State) (p b e : Nat) : Bool := Cells.get (fun _ => false) s.ruleBad (parKey p b e)

/-- R157: comparator `k` of a rule holds. -/
def cmpOk (sel lo hi : Nat) (fv : Nat → Option Nat) : Bool :=
  if nbit sel 7 then
    match fv (sel % 64) with
    | none => false
    | some v => (decide (lo ≤ v) && decide (v ≤ hi)) != nbit sel 6
  else true

/-- R157, R165: rule `r` matches. -/
def State.ruleMatch (s : State) (p b r tpl pass : Nat) (fv : Nat → Option Nat) : Bool :=
  s.entryBad p b r ||
  (nbit (s.ruleW p b r 19) 31 && nbit (s.ruleW p b r 18) (16 + tpl) && nbit (s.ruleW p b r 18) (15 - pass) &&
    (List.range 8).all (fun k =>
      cmpOk (nbits (s.ruleW p b r (16 + k / 4)) (8 * (k % 4) + 7) (8 * (k % 4))) (s.ruleW p b r (2 * k))
        (s.ruleW p b r (2 * k + 1)) fv))

/-- The entries of an area of a bank whose final word has a stored bit: no other entry can be valid (R163). -/
def State.listed (s : State) (base size n final : Nat) : List Nat :=
  s.win.filterMap (fun e =>
    if base ≤ e.1 ∧ e.1 < base + size * n ∧ final ≤ (e.1 - base) % size then some ((e.1 - base) / size) else none)

/-- The entries of a bank marked with bad parity, from entry `lo` on, `n` of them. -/
def State.marked (s : State) (p b lo n : Nat) : List Nat :=
  s.ruleBad.filterMap (fun e =>
    if parKey p b lo ≤ e.1 ∧ e.1 < parKey p b lo + n ∧ e.2 = true then some (e.1 - parKey p b lo) else none)

/-- The smallest element of a list that `f` accepts. -/
def minMatch (f : Nat → Bool) : List Nat → Option Nat
  | [] => none
  | a :: r => match minMatch f r with
    | none => if f a then some a else none
    | some m => if f a && decide (a < m) then some a else some m

/-- R157: the winning rule. -/
def State.winRule (s : State) (p b tpl pass : Nat) (fv : Nat → Option Nat) : Option Nat :=
  minMatch (fun r => s.ruleMatch p b r tpl pass fv)
    (s.listed (bankBase p b) 80 2048 76 ++ s.marked p b 0 2048)

/-- R160, R161: pattern `q` matches with the enabled groups. A pattern with bad parity matches every frame (R165). -/
def State.patMatch (s : State) (p b q grp : Nat) (r : ParseRes) (l4off : Nat) (data : List Byte) : Bool :=
  s.entryBad p b (2048 + q) ||
  (let w8 := s.patW p b q 8
   let base := w8 / 2 ^ 30
   let n := nbits w8 20 16
   let pos := basePos r.tags r.kind l4off base + nbits w8 29 22
   nbit (s.patW p b q 11) 31 && nbit grp (s.patW p b q 9 % 8) && nbit w8 r.tpl && baseValid r.tpl r.exc base &&
   decide (1 ≤ n) && decide (n ≤ 16) && decide (pos + n ≤ data.length) && decide (pos + n ≤ 192) &&
   (List.range n).all (fun j =>
     let m := nbits (s.patW p b q (4 + j / 4)) (8 * (j % 4) + 7) (8 * (j % 4))
     let v := nbits (s.patW p b q (j / 4)) (8 * (j % 4) + 7) (8 * (j % 4))
     (byteAt data (pos + j) &&& m) == (v &&& m)))

/-- R161: the winning pattern. -/
def State.winPat (s : State) (p b grp : Nat) (r : ParseRes) (data : List Byte) : Option Nat :=
  minMatch (fun q => s.patMatch p b q grp r r.l4off data)
    (s.listed (bankBase p b + 0x30000) 48 256 44 ++ s.marked p b 2048 256)

/-- What Reedbed and Sedge decide: `stage` 2 or 3 drops, with the index `cause` of CLS_DROP_CNT; `bad` is the index of a
`rule_bad` event; `cnt` the counters that count the frame. -/
structure ClsRes where
  rule : Option Nat
  pat : Option Nat
  stage : Nat
  cause : Nat
  limit : Bool
  bad : List Nat
  trap : Bool
  copy : Bool
  recirc : Bool
  redir : Option Nat
  tc : Option Nat
  mir : Nat
  cnt : List Nat
deriving DecidableEq, Repr

/-- R158: the traffic class, mirror session and counter that an action word names. -/
def actTc (w : Nat) : Option Nat := if nbit w 27 then some (nbits w 26 24) else none
def actMir (w : Nat) : Nat := if nbit w 23 then 2 ^ nbits w 22 20 else 0
def actCnt (w : Nat) : List Nat := if nbit w 11 then [w % 2048] else []

/-- R157 to R161: the lookups of Reedbed and Sedge on bank `b`. -/
def State.classify (s : State) (p b : Nat) (r : ParseRes) (inPort pass : Nat) (macsec : Bool) (data : List Byte) :
    ClsRes :=
  let rule := s.winRule p b r.tpl pass (fieldVec r inPort pass macsec)
  let rbad := match rule with
    | some k => s.entryBad p b k
    | none => false
  let w := match rule with
    | some k => s.ruleW p b k 19
    | none => (s.hw (CLS_DEFAULT.a p)).toNat
  let grp := match rule with
    | some k => s.ruleW p b k 18 % 256
    | none => s.f (CLS_DEFAULT_GRP.a p) CLS_DEFAULT_GRP.sedge_grp
  let v := if rbad then 1 else nbits w 30 28
  let limit := v == 5 && pass == 1
  let rdeny := v == 1 || v == 6 || v == 7 || limit
  let pat := s.winPat p b grp r data
  let pbad := match pat with
    | some q => s.entryBad p b (2048 + q)
    | none => false
  let pw := match pat with
    | some q => s.patW p b q 11
    | none => 0
  let pv := if pbad then 1 else nbits pw 30 28
  let pdeny := pat.isSome && !(pv == 0 || pv == 3 || pv == 4)
  let live := !rdeny && pat.isSome
  { rule := rule
    pat := pat
    stage := if rdeny then 2 else if pdeny then 3 else 0
    cause := if rdeny then (if limit then 5 else if v == 6 || v == 7 then 6 else if rule.isSome then 0 else 2)
      else if !(pv == 1) then 6 else 1
    limit := limit
    bad := (if v == 6 || v == 7 then [rule.getD 0xfff] else []) ++
      (if live && pdeny && pv != 1 then [0x800 + pat.getD 0] else [])
    trap := (!rdeny && v == 4) || (live && pv == 4)
    copy := (!rdeny && v == 3) || (live && pv == 3)
    recirc := !rdeny && v == 5
    redir := if v == 2 then some (nbits w 19 15) else none
    tc := actTc w
    mir := (if rbad then 0 else actMir w) ||| (if live && !pbad then actMir pw else 0)
    cnt := ((if rbad then [] else actCnt w) ++ (if pat.isSome && !pbad then actCnt pw else [])).eraseDups }

/-- R162: one frame of `len` bytes counted in counter `c`, modulo 2^64 (log entry 63). -/
def State.ruleCount (s : State) (p len : Nat) (c : Nat) : State :=
  let k := (p * 2048 + c) * 2
  let fr := Cells.get (fun _ => 0) s.ruleCnt k
  let oct := Cells.get (fun _ => 0) s.ruleCnt (k + 1)
  let m := Cells.set (fun _ => 0) s.ruleCnt k ((fr + 1) % 2 ^ 64)
  { s with ruleCnt := Cells.set (fun _ => 0) m (k + 1) ((oct + len) % 2 ^ 64) }

/-- A drop counted by cause (CLS_DROP_CNT). -/
def State.clsDrop (s : State) (p k : Nat) : State := s.bump (CLS_DROP_CNT.a p k) CLS_DROP_CNT.count

/-- A frame counted in an exception class (CLS_EXC_CNT). -/
def State.excCount (s : State) (p c : Nat) : State :=
  if c = 0 then s else s.bump (CLS_EXC_CNT.a p c) CLS_EXC_CNT.count

/-! ### Decision points (R154) -/

/-- R154: one more than the last byte of `n` bytes at `pos`, if they all lie before position 192. -/
def dpEnd (pos n : Nat) : Nat := if pos + n ≤ 192 then pos + n else 0

/-- R154: what field `k` needs of a frame of template `t` with a number of tags. -/
def State.dpField (s : State) (p t tags k : Nat) : Nat :=
  let d := s.hw (CLS_FLD_DESC.a p t k)
  let b := fldGet d CLS_FLD_DESC.base
  let kind := s.f (CLS_TPL_CFG.a p t) CLS_TPL_CFG.l3_kind
  if 24 ≤ k ∨ fldGet d CLS_FLD_DESC.valid = 0 ∨ (t = 0 ∧ 2 ≤ b) then 0
  else dpEnd (basePos tags (if t = 0 then 0 else kind) (s.f (CLS_TPL_CFG.a p t) CLS_TPL_CFG.l4_off) b +
    fldGet d CLS_FLD_DESC.offset) (fldGet d CLS_FLD_DESC.width + 1)

/-- R154: what a valid rule needs. -/
def State.dpRule (s : State) (p b t tags r : Nat) : Nat :=
  if nbit (s.ruleW p b r 19) 31 && nbit (s.ruleW p b r 18) (16 + t) then
    (List.range 8).foldl (fun m k =>
      let sel := nbits (s.ruleW p b r (16 + k / 4)) (8 * (k % 4) + 7) (8 * (k % 4))
      if nbit sel 7 then max m (s.dpField p t tags (sel % 64)) else m) 0
  else 0

/-- R154: what a valid pattern needs. -/
def State.dpPat (s : State) (p b t tags q : Nat) : Nat :=
  let w8 := s.patW p b q 8
  let n := nbits w8 20 16
  let base := w8 / 2 ^ 30
  let kind := if t = 0 then 0 else s.f (CLS_TPL_CFG.a p t) CLS_TPL_CFG.l3_kind
  if nbit (s.patW p b q 11) 31 && nbit w8 t && decide (1 ≤ n) && decide (n ≤ 16) && !(t == 0 && decide (2 ≤ base)) then
    dpEnd (basePos tags kind (s.f (CLS_TPL_CFG.a p t) CLS_TPL_CFG.l4_off) base + nbits w8 29 22) n
  else 0

/-- R154: what a template's length hint needs. -/
def State.dpHint (s : State) (p t tags : Nat) : Nat :=
  let a := CLS_TPL_LEN.a p t
  let src := s.f a CLS_TPL_LEN.hint_src
  let l3 := baseET tags + 2
  if t = 0 then 0
  else if src = 1 then dpEnd (l3 + 2) 2
  else if src = 2 then dpEnd (l3 + 4) 2
  else if src = 3 then dpEnd (l3 + s.f a CLS_TPL_LEN.hint_off) 2
  else 0

/-- R154: the decision point of template `t` for a number of tags, from bank `b`. -/
def State.dpOf (s : State) (p b t tags : Nat) : Nat :=
  let m := (s.listed (bankBase p b) 80 2048 76).foldl (fun m r => max m (s.dpRule p b t tags r)) (s.dpHint p t tags)
  (s.listed (bankBase p b + 0x30000) 48 256 44).foldl (fun m q => max m (s.dpPat p b t tags q)) m

/-- R166: the ACTIVE bank of a pipeline. -/
def State.activeBank (s : State) (p : Nat) : Nat := fldGet (s.reg (CLS_BANK_STAT.a p)) CLS_BANK_STAT.active

/-- R166: the state of a bank: 0 SHADOW, 1 ACTIVE, 2 DRAINING. -/
def State.bankState (s : State) (p b : Nat) : Nat :=
  fldGet (s.reg (CLS_BANK_STAT.a p)) (if b = 0 then CLS_BANK_STAT.state0 else CLS_BANK_STAT.state1)

/-- R154: the decision points of a bank await recomputation. -/
def State.dpStale (s : State) (p b : Nat) : Bool := if b = 0 then (s.pp p).stale0 else (s.pp p).stale1

/-- R154: a write affects a bank's decision points. -/
def State.setStale (s : State) (p b : Nat) (v : Bool) : State :=
  if b = 0 then s.setPp p { s.pp p with stale0 := v } else s.setPp p { s.pp p with stale1 := v }

/-- R148, R154: a template write affects both banks. -/
def State.tplWritten (s : State) (p : Nat) : State := (s.setStale p 0 true).setStale p 1 true

/-- R154: the recomputation of a bank's decision points completes. -/
def State.dpRecompute (s : State) (p b : Nat) : State :=
  let act := decide (s.activeBank p = b)
  ((List.range 16).foldl (fun u t =>
    let w := s.dpOf p b t 2 * 65536 + s.dpOf p b t 1 * 256 + s.dpOf p b t 0
    u.setReg (if act then CLS_TPL_DP.a p t else CLS_TPL_DP_SH.a p t) (BitVec.ofNat 32 w)) s).setStale p b false

/-- R154, R155: the decision point in use for a frame's template and tag count. -/
def State.decisionPoint (s : State) (p tpl tags : Nat) : Nat :=
  if s.dpStale p (s.activeBank p) then 192
  else
    let w := s.reg (CLS_TPL_DP.a p tpl)
    fldGet w (if tags = 0 then CLS_TPL_DP.dp0 else if tags = 1 then CLS_TPL_DP.dp1 else CLS_TPL_DP.dp2)

/-! ### Banks (R166 to R169) -/

/-- R168: frames that hold a bank. -/
def State.holders (s : State) (p b : Nat) : Nat := (s.frames.filter (fun f => f.hold.contains (p, b))).length

/-- R168: a swap of the pipeline is possible. -/
def State.canSwap (s : State) (p : Nat) : Bool := s.bankState p (1 - s.activeBank p) == 0

/-- R168: the swap: the two banks exchange their roles and their decision points; `act` says that a BANK action asked for it. -/
def State.swapDo (s : State) (p : Nat) (act : Bool) : State :=
  let a := s.activeBank p
  let s1 := (s.setPp p { s.pp p with swapTick := some s.now, swapAct := act }).setFs (CLS_BANK_STAT.a p)
    [(if a = 0 then CLS_BANK_STAT.state0 else CLS_BANK_STAT.state1, 2),
     (if a = 0 then CLS_BANK_STAT.state1 else CLS_BANK_STAT.state0, 1), (CLS_BANK_STAT.active, 1 - a)]
  ((List.range 16).foldl (fun u t =>
    (u.setReg (CLS_TPL_DP.a p t) (s.reg (CLS_TPL_DP_SH.a p t))).setReg (CLS_TPL_DP_SH.a p t)
      (s.reg (CLS_TPL_DP.a p t))) s1).raise (41 + p) 0x28 (1 - a)

/-- R168: a refused swap. -/
def State.swapRefuse (s : State) (p : Nat) : State :=
  (s.setF (CLS_BANK_STAT.a p) CLS_BANK_STAT.swap_refused 1).raise (41 + p) 0x22 (s.activeBank p)

/-- R169: the pipeline has swapped on this edge, for a BANK action where the host asks now, or the other way round. -/
def State.swapMet (s : State) (p : Nat) (act : Bool) : Bool := (s.pp p).swapTick == some s.now && (s.pp p).swapAct != act

/-- R168: a DRAINING bank that no frame holds becomes SHADOW. -/
def State.drainBank (s : State) (p b : Nat) : State :=
  if s.bankState p b = 2 ∧ s.holders p b = 0 then
    (s.setF (CLS_BANK_STAT.a p) (if b = 0 then CLS_BANK_STAT.state0 else CLS_BANK_STAT.state1) 0).raise (41 + p) 0x23 b
  else s

/-- DRAIN_DONE for the pipeline's DRAINING bank. -/
def State.drainDone (s : State) (p : Nat) : State := s.drainBank p (1 - s.activeBank p)

/-- R169: before a swap, a bank whose last holding frame has left becomes SHADOW, on an edge after that of its own swap (R168). -/
def State.swapDrain (s : State) (p : Nat) : State := if (s.pp p).swapTick = some s.now then s else s.drainDone p

/-- R168: a swap that meets none of the same edge: made, or refused. -/
def State.swapTry (s : State) (p : Nat) (act : Bool) : State := if s.canSwap p then s.swapDo p act else s.swapRefuse p

/-- R168, R169: a swap requested for one pipeline; one that meets another of the same edge is that one. -/
def State.swapReq (s : State) (p : Nat) (act : Bool) : State := if s.swapMet p act then s else (s.swapDrain p).swapTry p act

/-- R168: a BANK action for one pipeline, and whether it is refused. -/
def State.bankOne (s : State) (p : Nat) : State × Bool :=
  (s.swapReq p true, !(s.swapMet p true || (s.swapDrain p).canSwap p))

/-- R168, R169: a BANK action with target A, B or both: the state and whether it was refused. -/
def State.bankAction (s0 : State) (a b : Bool) : State × Bool :=
  if a && b then
    let s := (s0.swapDrain 0).swapDrain 1
    if (s.swapMet 0 true || s.canSwap 0) && (s.swapMet 1 true || s.canSwap 1) then
      let u := if s.swapMet 0 true then s else s.swapDo 0 true
      (if s.swapMet 1 true then u else u.swapDo 1 true, false)
    else ((s.swapRefuse 0).swapRefuse 1, true)
  else if a then s0.bankOne 0
  else if b then s0.bankOne 1
  else (s0, true)

/-- R165: an entry's parity is found bad. -/
def State.ruleParity (s : State) (p b e : Nat) : State :=
  if s.entryBad p b e then s
  else { s with ruleBad := Cells.set (fun _ => false) s.ruleBad (parKey p b e) true }.raise (41 + p) 0x25 e

/-- R156, R158, R160: the bits of a word of a bank that can be written; `o` is its place in the bank. -/
def ruleMask (o : Nat) : Word :=
  if o < 80 * 2048 then (if o % 80 = 72 then 0xffffc0ff#32 else if o % 80 = 76 then 0xffff8fff#32 else 0xffffffff#32)
  else if 0x30000 ≤ o ∧ o < 0x30000 + 48 * 256 then
    let k := (o - 0x30000) % 48
    if k = 32 then 0xffdfffff#32 else if k = 36 then 7#32 else if k = 40 then 0#32 else if k = 44 then 0xf0f00fff#32 else 0xffffffff#32
  else 0xffffffff#32

/-- R163, R165: a 32-bit word written into a rule or pattern of a bank; a write of an entry's final word ends its parity
fault. -/
def State.ruleWrite (s : State) (p b a v : Nat) : State :=
  let o := a - bankBase p b
  let s1 := { s with win := memPut (fun _ => 0#8) s.win a (leBytes 4 (BitVec.ofNat 32 v &&& ruleMask o).toNat) }
  let e : Option Nat :=
    if o < 80 * 2048 then (if o % 80 = 76 then some (o / 80) else none)
    else if 0x30000 ≤ o ∧ o < 0x30000 + 48 * 256 then
      (if (o - 0x30000) % 48 = 44 then some (2048 + (o - 0x30000) / 48) else none)
    else none
  (match e with
    | some k => { s1 with ruleBad := Cells.set (fun _ => false) s1.ruleBad (parKey p b k) false }
    | none => s1).setStale p b true

/-! ### The commands that no software access issues -/

/-- DP_RECOMPUTE_DONE (R154). -/
def execDpRecomputeDone (p b : Fin 2) (s : State) : Host.Outcome State Fault Refusal :=
  .next (s.live (if s.dpStale p.val b.val then s.dpRecompute p.val b.val else s))

/-- DRAIN_DONE (R168). -/
def execDrainDone (p : Fin 2) (s : State) : Host.Outcome State Fault Refusal := .next (s.live (s.drainDone p.val))

/-- RULE_PARITY_SCAN (R165): entries 0 to 2047 are rules, 2048 + q is pattern q; `bad` says that the parity fails. -/
def execRuleParityScan (p b : Fin 2) (e : Fin 2304) (bad : Bool) (s : State) : Host.Outcome State Fault Refusal :=
  .next (s.live (if bad then s.ruleParity p.val b.val e.val else s))

end Sys2Proof.Machine
end

