-- ==== Sys2Proof/Machine/Switch.lean ====
section
/-! DEFINITION. The switch core (chapter 09): frames and their copies, Mere, admission, Peat, tail marking, mirroring and
link aggregation. A frame is named by its number; its copies stand in `State.copies` in admission order. -/

namespace Sys2Proof.Machine

/-! ### Ports as the switch core sees them -/

/-- 12 R292: port counter `k` advanced by `n`, modulo 2^64 (log entry 63). -/
def State.mibAdd (s : State) (port k n : Nat) : State :=
  { s with mib := Cells.set (fun _ => 0) s.mib (port * 32 + k) ((Cells.get (fun _ => 0) s.mib (port * 32 + k) + n) % 2 ^ 64) }

/-- A port counter advanced by 1. -/
def State.mibInc (s : State) (port k : Nat) : State := s.mibAdd port k 1

/-- The pipeline of a port (01, "Two pipelines, one core"). -/
def pipeOf (port : Nat) : Nat :=
  if [2, 3, 8, 9, 10, 11, 16, 17, 18, 19, 22, 23, 25, 27].contains port then 1 else 0

/-- 12 R277: a port is enabled and, under 16 R374, awake; the internal ports always are. -/
def State.portOn (s : State) (n : Nat) : Bool :=
  decide (24 ≤ n) || (s.on (ETH_PORT_CFG.a n) ETH_PORT_CFG.en && s.powered && !s.portAsleep n)

/-- 12 R279: the link of a port is up. -/
def State.linkUp (s : State) (n : Nat) : Bool := decide (24 ≤ n) || fldGet (s.reg (ETH_PORT_STAT.a n)) ETH_PORT_STAT.link == 1

/-- 12 R277: the mode in use. -/
def State.portMode (s : State) (n : Nat) : Nat := fldGet (s.reg (ETH_PORT_STAT.a n)) ETH_PORT_STAT.active_mode

/-- 12 R274: the MAC rate of a mode in Mbit/s. -/
def modeRate (m : Nat) : Nat := [0, 25000, 10000, 10000, 5000, 2500, 2500, 1000, 10].getD m 0

/-- 12 R282, R440: the maximum frame length of a port. -/
def State.frameMax (s : State) (n : Nat) : Nat :=
  if 24 ≤ n then 9216
  else
    let v := s.f (ETH_PORT_CFG.a n) ETH_PORT_CFG.frame_max
    if v < 64 then 64 else if 9216 < v then 9216 else v

/-- 01 R12: a mode that can cut through. -/
def modeCut (m : Nat) : Bool := m == 1 || m == 2 || m == 3 || m == 5 || m == 6

/-- The bookkeeping of a port. -/
def State.port (s : State) (n : Nat) : PortSt := Cells.get (fun _ => {}) s.ports n

/-- The state with the bookkeeping of a port set. -/
def State.setPort (s : State) (n : Nat) (x : PortSt) : State := { s with ports := Cells.set (fun _ => {}) s.ports n x }

/-- A frame ends on a port before its last byte; nothing of it reaches the balls in a loopback (12 R290). -/
def State.cutShort (s : State) (n : Nat) : State := if (s.port n).lpbk = 0 then s.emit (.abandoned n) else s

/-! ### Frames and copies -/

/-- A frame by its number. -/
def State.frame (s : State) (id : Nat) : Frame := (s.frames.find? (fun f => f.id == id)).getD { id := id }

/-- The state with a frame replaced. -/
def State.setFrame (s : State) (f : Frame) : State :=
  { s with frames := s.frames.map (fun g => if g.id = f.id then f else g) }

/-- A new frame enters under the next number. -/
def State.newFrame (s : State) (f : Frame) : Nat × State :=
  (s.nextId, { s with nextId := s.nextId + 1, frames := s.frames ++ [{ f with id := s.nextId }] })

/-- The copies of a frame. -/
def State.copiesOf (s : State) (id : Nat) : List Copy := s.copies.filter (fun c => c.fid == id)

/-- The state with a copy replaced. -/
def State.setCopy (s : State) (c : Copy) : State :=
  { s with copies := s.copies.map (fun g => if g.id = c.id then c else g) }

/-! ### Mere (R192, R199, R200) -/

/-- The sum of a list. -/
def sumOf (l : List Nat) : Nat := l.foldl (· + ·) 0

/-- R192: cells of a frame of `n` bytes. -/
def cellsOf (n : Nat) : Nat := ceilDiv n 256

/-- R200: the express reserves of all ports together. -/
def State.resvTotal (s : State) : Nat :=
  sumOf ((List.range 28).map (fun n => s.f (QM_PORT_CFG.a n) QM_PORT_CFG.exp_reserve))

/-- R199: F, the free cells of the shared pool. -/
def State.poolFree (s : State) : Int :=
  (32768 : Int) - (s.resvTotal : Nat) - (sumOf (s.frames.map (fun f => f.pool)) : Nat)

/-- R200: reserve cells of a port in use. -/
def State.resvUsed (s : State) (n : Nat) : Nat :=
  sumOf (s.frames.map (fun f => sumOf ((f.resv.filter (fun e => e.1 == n)).map (·.2))))

/-- R200: unused reserve cells of a port. -/
def State.resvRoom (s : State) (n : Nat) : Nat := s.f (QM_PORT_CFG.a n) QM_PORT_CFG.exp_reserve - s.resvUsed n

/-- R202, R219: what follows a change of F: the smallest F, and whether queues spill. -/
def State.poolNote (s : State) : State :=
  let f := s.poolFree.toNat
  let s1 := if f < fldGet (s.reg QM_POOL.a) QM_POOL.min_free then s.setF QM_POOL.a QM_POOL.min_free f else s
  { s1 with
    spilling :=
      if f < s.f QM_SPILL_CFG.a QM_SPILL_CFG.spill_lo then true
      else if s.f QM_SPILL_CFG.a QM_SPILL_CFG.spill_hi ≤ f then false else s.spilling }

/-- The cells in use of bank `b` of slice `l` (key l × 16 + b). -/
def State.bankUsed (s : State) (k : Nat) : Nat := Cells.get (fun _ => 0) s.bankUse k

/-- The cells in use of a slice. -/
def State.sliceUsed (s : State) (l : Nat) : Nat := sumOf ((List.range 16).map (fun b => s.bankUsed (l * 16 + b)))

/-- R192: the number of the cell at place `i` of a bank (slice × 16 + bank). -/
def cellNo (c : Nat × Nat) : Nat := c.1 / 16 * 16384 + 16 * c.2 + c.1 % 16

/-- The free places of a bank; `l` are cells that are being taken. -/
def State.freePlaces (s : State) (k : Nat) (l : List (Nat × Nat)) : List Nat :=
  (List.range 1024).filter (fun i => !(l.contains (k, i)) && !(s.frames.any (fun f => f.banks.contains (k, i))))

/-- R192: the next free cell of a slice, in rotating bank order, beside the cells `l`. Which free cell of the bank it is the spec leaves
open (log entry 54). -/
def State.takeCell (s : State) (l : List (Nat × Nat)) (slice : Nat) : (Nat × Nat) × State :=
  let p := Cells.get (fun _ => 0) s.bankPtr slice
  let b := (rotFind 16 p (fun b => decide (s.bankUsed (slice * 16 + b) < 1024))).getD p
  let k := slice * 16 + b
  let f := s.fresh
  let free := s.freePlaces k l
  ((k, free.getD (f.1.toNat % free.length) 0), { f.2 with
        bankUse := Cells.set (fun _ => 0) s.bankUse k (s.bankUsed k + 1)
        bankPtr := Cells.set (fun _ => 0) s.bankPtr slice ((b + 1) % 16) })

/-- R192: `n` further cells for a frame whose cells so far are `l`, newest first. -/
def State.takeCells : Nat → State → List (Nat × Nat) → List (Nat × Nat) × State
  | 0, s, l => (l, s)
  | n + 1, s, l =>
    let slice := match l with
      | [] => if s.sliceUsed 0 ≤ s.sliceUsed 1 then 0 else 1
      | k :: _ => 1 - k.1 / 16
    let r := s.takeCell l slice
    State.takeCells n r.2 (r.1 :: l)

/-- The cells of a frame returned. -/
def State.freeCells (s : State) (l : List (Nat × Nat)) : State :=
  { s with bankUse := l.foldl (fun m k => Cells.set (fun _ => 0) m k.1 (Cells.get (fun _ => 0) m k.1 - 1)) s.bankUse }

/-- R194: descriptors in use. -/
def State.descUsed (s : State) : Nat := (s.frames.filter (fun f => !f.banks.isEmpty)).length

/-- R194: queue entries in use. -/
def State.qentUsed (s : State) : Nat := (s.copies.filter (fun c => !c.peat)).length

/-- R199: q, the cells in Mere of a class queue. -/
def State.queueCells (s : State) (port tc : Nat) : Nat :=
  sumOf ((s.copies.filter (fun c => c.port == port && c.tc == tc && c.mir.isNone && !c.peat)).map
    (fun c => (s.frame c.fid).cells))

/-! ### Leaving (R194, R200, R167) -/

/-- R202: Peat blocks of a frame of `n` bytes. -/
def peatBlocks (n : Nat) : Nat := ceilDiv (48 + n) 256

/-- The Peat blocks of a frame given back. -/
def State.peatFree (s : State) (f : Frame) : State :=
  if f.spilled then
    { s with peatFull := false }.setF QM_PEAT_STAT.a QM_PEAT_STAT.used
      (fldGet (s.reg QM_PEAT_STAT.a) QM_PEAT_STAT.used - peatBlocks f.len)
  else s

/-- A frame with no copy left, no reception in progress and no verdict pending leaves the device: its cells, its Peat blocks, its
descriptor and its banks are free. -/
def State.reap (s : State) (id : Nat) : State :=
  let f := s.frame id
  if f.ended && f.verd != 1 && (s.copiesOf id).isEmpty then
    (({ s with frames := s.frames.filter (fun g => g.id != id) }.freeCells f.banks).peatFree f).poolNote
  else s

/-- A copy leaves or is dropped. -/
def State.copyGone (s : State) (c : Copy) : State :=
  ({ s with copies := s.copies.filter (fun g => g.id != c.id) }).reap c.fid

/-- A frame is dropped: no copy of it remains, and it holds no cell and no bank. -/
def State.frameDrop (s : State) (id : Nat) : State :=
  let f := s.frame id
  (((({ s with copies := s.copies.filter (fun c => c.fid != id) }).freeCells f.banks).peatFree f).setFrame
    { f with hold := [], pool := 0, resv := [], banks := [], peatBlk := [], spilled := false, act := { f.act with drop := true } }).poolNote.reap id

/-- R215: a copy is dropped before it begins; where it was the last original of a frame of which no copy has begun, the frame's mirror
copies go with it. -/
def State.copyDrop (s : State) (c : Copy) : State :=
  let s1 := s.copyGone c
  let f := s1.frame c.fid
  if c.mir.isNone && !f.begun && (s1.copiesOf c.fid).all (fun x => x.mir.isSome) then
    (s1.copiesOf c.fid).foldl (fun u x => u.copyGone x) s1
  else s1

/-! ### The resolved action (R196) -/

/-- R196: the 128 bits of the resolved action. -/
def Act.bits (a : Act) : Nat :=
  a.exc * 2 ^ 124 + a.tpl * 2 ^ 120 + b2n a.rule.isSome * 2 ^ 119 + a.rule.getD 0 * 2 ^ 108 + b2n a.pat.isSome * 2 ^ 107 +
  a.pat.getD 0 * 2 ^ 99 + b2n a.frer * 2 ^ 95 + a.stream * 2 ^ 85 + a.maxSdu * 2 ^ 71 + a.inPort * 2 ^ 66 +
  a.pass * 2 ^ 65 + b2n a.macsec * 2 ^ 64 + b2n a.drop * 2 ^ 63 + a.stage * 2 ^ 60 + b2n a.copy24 * 2 ^ 59 +
  b2n a.recirc * 2 ^ 58 + a.tc * 2 ^ 55 + a.pcp * 2 ^ 52 + a.vid * 2 ^ 40 + a.mir * 2 ^ 32 + a.mode * 2 ^ 30 + a.dest

/-! ### Link aggregation (R216 to R218) -/

/-- The fields of the member slots. -/
def lagSlot (i : Nat) : Fld :=
  if i = 0 then QM_LAG_CFG.m0 else if i = 1 then QM_LAG_CFG.m1 else if i = 2 then QM_LAG_CFG.m2 else QM_LAG_CFG.m3

/-- The member ports of a group in slot order. -/
def State.lagMembers (s : State) (g : Nat) : List Nat :=
  (List.range 4).filterMap (fun i =>
    if nbit (s.f (QM_LAG_CFG.a g) QM_LAG_CFG.mem_en) i then some (s.f (QM_LAG_CFG.a g) (lagSlot i)) else none)

/-- R216: the active members of a group. -/
def State.lagActive (s : State) (g : Nat) : List Nat := (s.lagMembers g).filter (fun n => s.linkUp n)

/-- The member ports of every group that a port belongs to. -/
def State.lagPeers (s : State) (port : Nat) : List Nat :=
  (List.range 8).flatMap (fun g => if (s.lagMembers g).contains port then s.lagMembers g else [])

/-- R217: the 27 key bytes. -/
def State.lagKey (s : State) (r : ParseRes) (data : List Byte) : List Byte :=
  let src := beAt data 6 6
  let dst := beAt data 0 6
  let l3 := baseET r.tags + 2
  let ip := s.on QM_LAG_SEL.a QM_LAG_SEL.l3_en && r.kind == 1 && r.exc == 0
  let sa := beAt data (l3 + 12) 4
  let da := beAt data (l3 + 16) 4
  let proto := byteAt data (l3 + 9)
  let l4 := ip && s.on QM_LAG_SEL.a QM_LAG_SEL.l4_en && (proto == 6 || proto == 17)
  let sp := beAt data (l3 + 20) 2
  let dp := beAt data (l3 + 22) 2
  beBytes 6 (min src dst) ++ beBytes 6 (max src dst) ++
  beBytes 2 (if s.on QM_LAG_SEL.a QM_LAG_SEL.vid_en then r.vid else 0) ++
  beBytes 4 (if ip then min sa da else 0) ++ beBytes 4 (if ip then max sa da else 0) ++
  beBytes 2 (if l4 then min sp dp else 0) ++ beBytes 2 (if l4 then max sp dp else 0) ++
  [BitVec.ofNat 8 (if ip then proto else 0)]

/-- R217: the member that the group hash selects. -/
def State.lagPick (s : State) (g : Nat) (r : ParseRes) (data : List Byte) : Option Nat :=
  let act := s.lagActive g
  act[((crc32 (s.lagKey r data)).toNat % 65536 * act.length) / 65536]?

/-- The ports of a mask. -/
def maskPorts (m : Nat) : List Nat := (List.range 28).filter (fun n => nbit m n)

/-- The mask of a list of ports. -/
def portMask (l : List Nat) : Nat := (List.range 28).foldl (fun m n => if l.contains n then m + 2 ^ n else m) 0

/-- R197 step 4, R216: a group present in a mask is reduced to the chosen member; a group without an active member costs a
copy of the member in slot m0. The mask, and the members that it costs. -/
def State.lagReduce (s : State) (r : ParseRes) (data : List Byte) (m : Nat) : Nat × List Nat :=
  (List.range 8).foldl (fun (x : Nat × List Nat) g =>
    let mem := s.lagMembers g
    if mem.any (fun n => nbit x.1 n) then
      let rest := portMask ((maskPorts x.1).filter (fun n => !(mem.contains n)))
      match s.lagPick g r data with
      | some n => (portMask (n :: maskPorts rest), x.2)
      | none => (rest, x.2 ++ [s.f (QM_LAG_CFG.a g) QM_LAG_CFG.m0])
    else x) (m, [])

/-! ### Lengths (R225, 15 R353) -/

/-- 15 R353: what an R-TAG gained (6) or lost (-6) adds to a copy for `port`. -/
def State.rtagDelta (s : State) (f : Frame) (port : Nat) : Int :=
  let has := f.seqIn.isSome
  let enc := f.act.frer && nbit (s.f (FRE_STR_ENC.a f.act.stream) FRE_STR_ENC.enc_mask) port &&
    (f.seqGen.isSome || f.seqIn.isSome)
  if !f.act.frer then 0
  else if enc && !has then 6 else if !enc && has then -6 else 0

/-- 12 R283: what the egress edit's tags add to a copy for `port`. -/
def State.tagDelta (s : State) (f : Frame) (port : Nat) : Int :=
  if 24 ≤ port then 0
  else
    let a := ETH_PORT_EDIT.a port
    if f.tagged then
      (if s.on a ETH_PORT_EDIT.untag_en && s.f a ETH_PORT_EDIT.untag_vid == f.act.vid then -4 else 0)
    else if s.on a ETH_PORT_EDIT.tag_add then 4 else 0

/-- The length of a frame that is known before its reception ends. -/
def knownLen (f : Frame) (hint : Option Nat) : Option Nat := if f.ended then some f.len else hint

/-! ### Admission (R194, R198 to R201) -/

/-- R198: a class of a port is express. -/
def State.express (s : State) (port tc : Nat) : Bool := nbit (s.f (QM_PORT_CFG.a port) QM_PORT_CFG.exp_en) tc

/-- R241: the residence limit of a class in TIME ticks. -/
def State.resMax (s : State) (port tc : Nat) : Nat :=
  let n := s.f (SHP_RES.a port tc) SHP_RES.res_max
  (if n = 0 then 1 else if 25000 < n then 25000 else n) * 2500

/-- R199: α of a class, as the power 2^code of α × 64. -/
def State.alphaCode (s : State) (port tc : Nat) : Nat :=
  let c := nbits (s.hw (QM_PORT_ALPHA.a port)).toNat (4 * tc + 3) (4 * tc)
  if 9 < c then 9 else c

/-- R199: the expected cells of a copy for `port`. -/
def State.expCells (s : State) (f : Frame) (port : Nat) : Nat :=
  let h := match f.head with
    | some r => r.hint
    | none => none
  let n := if f.ended then f.len else h.getD (s.frameMax f.inPort)
  cellsOf ((n : Int) + s.rtagDelta f port).toNat

/-- R199, R200: a copy of class `tc` for `port` judged with F: `some false` from the shared pool, `some true` from the
port's reserve. -/
def State.judge (s : State) (port tc n : Nat) (free : Int) : Option Bool :=
  if (n : Int) ≤ free ∧ ((s.queueCells port tc * 64 : Nat) : Int) < free * ((2 ^ s.alphaCode port tc : Nat) : Int) then
    some false
  else if s.express port tc ∧ n ≤ s.resvRoom port then some true
  else none

/-- 10 R230: a launch drop: counter `k` and EV45 `cause`. -/
def State.launchDrop (s : State) (port k cause : Nat) : State :=
  (s.bump (SHP_CNT.a port k) SHP_CNT.count).raise 45 cause port

/-- 10 R230: why a frame with a launch time is dropped at admission to `port`: counter and cause. -/
def State.launchBad (s : State) (f : Frame) (port : Nat) : Option (Nat × Nat) :=
  match f.launch with
  | none => none
  | some t =>
    let late := if port < 24 then s.f (SLU_LAUNCH_CFG.a port) SLU_LAUNCH_CFG.late_max else 100
    if ((s.resMax port f.act.tc * 4 * nsU : Nat) : Int) < tdiff t s.tim.wkt then some (4, 5)
    else if ((late * 1000 * nsU : Nat) : Int) < tdiff s.tim.wkt t then some (3, 4)
    else none

/-- R208, 01 R12, 11 R258: a copy for `port` may cut through; no frame of a port with vbf does. -/
def State.cutThrough (s : State) (f : Frame) (port : Nat) : Bool :=
  decide (f.port < 24) && modeCut f.mode && decide (port < 20) && modeCut (s.portMode port) &&
  decide (modeRate (s.portMode port) ≤ modeRate f.mode) &&
  !(s.on (CIP_PORT_CFG.a f.port) CIP_PORT_CFG.vbf)

/-- One more copy in the queues. -/
def State.addCopy (s : State) (c : Copy) : State :=
  { s with nextId := s.nextId + 1, copies := s.copies ++ [{ c with id := s.nextId }] }

/-- R199: the copy of a frame for `port`, judged with F; the state and whether the shared pool pays. -/
def State.admitCopy (s : State) (id : Nat) (free : Int) (port : Nat) : State × Option Bool :=
  let f := s.frame id
  let tc := f.act.tc
  if !s.portOn port then (s.mibInc port 16, none)
  else match s.launchBad f port with
    | some (k, c) => (s.launchDrop port k c, none)
    | none =>
      let n := s.expCells f port
      match s.judge port tc n free with
      | none => (s.bump (QM_ADM_DROP.a port) QM_ADM_DROP.count, none)
      | some r =>
        let ct := s.cutThrough f port
        let c : Copy :=
          { fid := id, port := port, tc := tc, adm := s.now, deadline := s.now + s.resMax port tc
            elig := (f.ended && f.verd != 1) || ct, fromRes := r, timed := f.launch.isSome, rel := f.launch }
        let s1 := s.addCopy c
        (s1.setFrame { f with resv := if r then f.resv ++ [(port, n)] else f.resv, cut := f.cut || ct }, some (!r))

/-- R214: session `k` takes a copy of a frame: not for the port on which it arrived, and once. -/
def State.mirrors (s : State) (f : Frame) (k : Nat) : Bool :=
  let port := s.f (QM_MIR_CFG.a k) QM_MIR_CFG.port
  s.on (QM_MIR_CFG.a k) QM_MIR_CFG.en && port != f.port && decide (port < 28) && !nbit f.mirDone k

/-- R214, R215: the mirror copy of session `k`. -/
def State.mirrorCopy (s : State) (id k : Nat) : State :=
  let f := s.frame id
  let a := QM_MIR_CFG.a k
  let port := s.f a QM_MIR_CFG.port
  if s.mirrors f k then
    if !s.portOn port then s.mibInc port 16
    else if s.poolFree < (s.f a QM_MIR_CFG.min_free : Nat) then
      (s.bump (QM_MIR_DROP.a k) QM_MIR_DROP.count).raise 47 1 k
    else
      (s.setFrame { f with mirDone := f.mirDone ||| 2 ^ k }).addCopy
        { fid := id, port := port, tc := 0, mir := some k, adm := s.now
          deadline := s.now + s.resMax port 0, elig := f.ended && f.verd != 1 }
  else s

/-- R214: the sessions of a frame with the transmit sessions of the ports it is queued for. -/
def State.mirMask (s : State) (f : Frame) (ports : List Nat) : Nat :=
  ports.foldl (fun m n =>
    if s.on (QM_PORT_MIR.a n) QM_PORT_MIR.tx_en then m ||| 2 ^ s.f (QM_PORT_MIR.a n) QM_PORT_MIR.tx_sess else m) f.act.mir

/-- R194: a frame finds no descriptor (index 0) or too few queue entries (index 1). -/
def State.descLack (s : State) (f : Frame) (ports : List Nat) : Option Nat :=
  let mir := ((List.range 8).filter (fun k => nbit (s.mirMask f ports) k && s.mirrors f k)).length
  if 8192 ≤ s.descUsed then some 0
  else if 32768 < s.qentUsed + ports.length + mir then some 1 else none

/-- R199: the copies of a frame judged one by one with the F before it; which ports were admitted, and whether the shared
pool pays. -/
def State.admitAll (s : State) (id : Nat) (ports : List Nat) : State × List Nat × Bool :=
  let free := s.poolFree
  ports.foldl (fun (x : State × List Nat × Bool) n =>
    let r := x.1.admitCopy id free n
    match r.2 with
    | none => (r.1, x.2)
    | some sh => (r.1, x.2.1 ++ [n], x.2.2 || sh)) (s, [], false)

/-- R194, R199, R214: the admission of a frame whose merge is done, to `ports`. -/
def State.takeIn (s : State) (id : Nat) (ports : List Nat) : State :=
  let f := s.frame id
  match s.descLack f ports with
  | some k =>
    ((ports.foldl (fun u n => u.bump (QM_ADM_DROP.a n) QM_ADM_DROP.count) s).raise 43 2 k).frameDrop id
  | none =>
    let r := s.admitAll id ports
    if r.2.1.isEmpty then r.1.frameDrop id
    else
      let n := r.2.1.foldl (fun m q => max m (s.expCells f q)) 0
      let g := r.1.frame id
      let c := r.1.takeCells (if f.ended then cellsOf f.len else 1) []
      let s1 := (c.2.setFrame { g with cells := n, pool := if r.2.2 then n else 0, banks := c.1 }).poolNote
      (List.range 8).foldl (fun u k => if nbit (s.mirMask f r.2.1) k then u.mirrorCopy id k else u) s1

/-- R199: `rest` cells from the express reserves of `ports`, as far as they go: what is still lacking, and what each gives. -/
def State.fromReserves (s : State) (rest : Nat) (ports : List Nat) : Nat × List (Nat × Nat) :=
  ports.foldl (fun (x : Nat × List (Nat × Nat)) q =>
    let k := min x.1 (s.resvRoom q)
    if k = 0 then x else (x.1 - k, x.2 ++ [(q, k)])) (rest, [])

/-- R199: the cells of a frame settled when its reception ends: cells beyond those expected come from F, then from its ports' express
reserves; where both are empty it is cut short in Mere. The state, and whether it was cut short. -/
def State.regrow (s : State) (id : Nat) : State × Bool :=
  let f := s.frame id
  if (s.copiesOf id).isEmpty then (s, false)
  else
    let c := cellsOf f.len
    let more := c - f.cells
    let fromPool := min more s.poolFree.toNat
    let x := s.fromReserves (more - fromPool)
      (((s.copiesOf id).filter (fun x => x.mir.isNone && s.express x.port x.tc)).map (·.port)).eraseDups
    let cut := x.1 != 0
    let have' := c - x.1
    let pool := min f.pool c + fromPool
    let resv := f.resv.map (fun (e : Nat × Nat) => (e.1, min e.2 c)) ++ x.2
    let k := s.takeCells (have' - f.banks.length) f.banks
    ((k.2.setFrame { f with
        cells := have', pool := pool, resv := resv, banks := k.1
        len := if cut then 256 * have' else f.len, data := if cut then f.data.take (256 * have') else f.data }).poolNote, cut)

/-! ### Tail marking (R209 to R212) -/

/-- R209: what a finding does to one copy. -/
def State.markCopy (s : State) (begun : Bool) (c : Copy) : State :=
  if c.mir.isSome then (if begun then s.setCopy { c with mark := true } else s.copyGone c)
  else if c.st = 0 then s.copyGone c
  else s.setCopy { c with mark := true }

/-- R209, R210: a finding with a cause reaches the switch core: begun copies are marked, the others dropped. The first
finding gives the cause. Whether any copy had begun. -/
def State.finding (s : State) (id cause : Nat) : State × Bool :=
  let f := s.frame id
  if f.finding.isSome then (s, f.begun)
  else
    let begun := (s.copiesOf id).any (fun c => c.mir.isNone && c.st != 0)
    let s1 := s.setFrame { f with finding := some cause, begun := f.begun || begun }
    let s2 := (s.copiesOf id).foldl (fun u c => u.markCopy begun c) s1
    (if begun then s2.bump (QM_TAIL_CNT.a f.inPort cause) QM_TAIL_CNT.count else s2, begun)

/-! ### Mere ECC (R193) -/

/-- R193: the bank (slice × 16 + bank) of cell `k` of a frame; that of a cell which the cell writer has not named yet is open (log
entry 54). -/
def State.cellBank (s : State) (f : Frame) (k : Nat) : Nat × State :=
  match f.banks.reverse[k]? with
  | some c => (c.1, s)
  | none =>
    let v := s.fresh
    (v.1.toNat % 32, v.2)

/-- R193: an uncorrectable error in cell `k` of a frame. -/
def State.eccUncorr (s0 : State) (id k : Nat) : State :=
  let b := s0.cellBank (s0.frame id) k
  let s := b.2
  let s1 := (s.bump QM_MERE_ECC.a QM_MERE_ECC.uncorr).raise 43 1 b.1
  (s.copiesOf id).foldl (fun u c => if c.st = 0 then u.copyGone c else u.setCopy { c with mark := true }) s1

/-- R193: a Mere read of a frame: `corr` corrected errors, and an uncorrectable one in cell `bad`. -/
def State.mereRead (s : State) (id corr : Nat) (bad : Option Nat) : State :=
  let s1 := s.bumpN QM_MERE_ECC.a QM_MERE_ECC.corr corr
  match bad with
  | none => s1
  | some k => if k < cellsOf (s.frame id).len then s1.eccUncorr id k else s1

/-! ### Peat (R202 to R205) -/

/-- R219: Peat is in use. -/
def State.peatOn (s : State) : Bool :=
  s.on QM_PEAT_CFG.a QM_PEAT_CFG.peat_en && !(s.f QM_PEAT_CFG.a QM_PEAT_CFG.size_mib == 0) &&
  fldGet (s.reg QM_PEAT_STAT.a) QM_PEAT_STAT.link_fault == 0

/-- R198: a class of a port may spill. -/
def State.spillable (s : State) (port tc : Nat) : Bool :=
  s.peatOn && nbit (s.f (QM_PORT_CFG.a port) QM_PORT_CFG.spill_en) tc && !s.express port tc &&
  !(decide (port < 24) && nbit (s.f (SLU_PORT_CFG.a port) SLU_PORT_CFG.sched_mask) tc)

/-- The copies of a class queue in order. -/
def State.queue (s : State) (port tc : Nat) : List Copy :=
  s.copies.filter (fun c => c.port == port && c.tc == tc && c.mir.isNone)

/-- R202: a copy that a spill could move: complete, not begun, in Mere. -/
def State.canSpill (s : State) (c : Copy) : Bool :=
  let f := s.frame c.fid
  c.st == 0 && !c.peat && c.elig && f.ended && f.verd != 1

/-- R202, R203: the frame that a spill of the queue would move now: the oldest complete frame of those that have landed behind the
Peat segment, or, while the queue spills, the newest complete frame of the head segment behind the head. -/
def State.spillPick (s : State) (port tc : Nat) : Option Copy :=
  let q := s.queue port tc
  let landing := if q.any (fun c => c.peat) then (q.reverse.takeWhile (fun c => !c.peat)).reverse else []
  match landing.find? (fun c => s.canSpill c) with
  | some c => some c
  | none => if s.spilling then ((q.takeWhile (fun c => !c.peat)).drop 1).reverse.find? (fun c => s.canSpill c) else none

/-- R202: `n` free blocks of a region of `total` blocks, from `pos` on. -/
def pickBlocks (total : Nat) (used : List Nat) : Nat → Nat → Nat → List Nat
  | 0, _, _ => []
  | fuel + 1, pos, n =>
    if n = 0 then []
    else if used.contains pos then pickBlocks total used fuel ((pos + 1) % total) n
    else pos :: pickBlocks total used fuel ((pos + 1) % total) (n - 1)

/-- R202: the free blocks that a frame takes; which ones they are the spec leaves open (log entry 54). -/
def State.takeBlocks (s : State) (n : Nat) : List Nat × State :=
  let total := s.f QM_PEAT_CFG.a QM_PEAT_CFG.size_mib * 4096
  let v := s.fresh
  (pickBlocks total (s.frames.flatMap (·.peatBlk)) total (v.1.toNat % total) n, v.2)

/-- The address of a Peat block in the LPDDR5X. -/
def State.blockAddr (s : State) (b : Nat) : Nat := s.f QM_PEAT_CFG.a QM_PEAT_CFG.base_mib * 2 ^ 20 + 256 * b

/-- R202: bytes written to Peat blocks in order. -/
def State.peatWrite (s : State) : List Nat → List Byte → State
  | [], _ => s
  | b :: r, l => State.peatWrite { s with dram := memPut (fun _ => 0#8) s.dram (s.blockAddr b) (l.take 256) } r (l.drop 256)

/-- The bytes in Peat blocks. -/
def State.peatRead (s : State) (l : List Nat) : List Byte := l.flatMap (fun b => memBytes (fun _ => 0#8) s.dram (s.blockAddr b) 256)

/-- R195: the 48 bytes of a frame descriptor; the places of its contents are open (log entry 54). -/
def State.descBytes (s : State) : List Byte × State :=
  let a := s.fresh
  let b := a.2.fresh
  let c := b.2.fresh
  (leBytes 16 a.1.toNat ++ leBytes 16 b.1.toNat ++ leBytes 16 c.1.toNat, c.2)

/-- R202: the copy `c` moves to Peat. Where other copies share the frame's cells, the copy takes a frame of its own with it. -/
def State.spillMove (s0 : State) (c : Copy) (f : Frame) : State :=
  let x := s0.takeBlocks (peatBlocks f.len)
  let d := x.2.descBytes
  let s := d.2.peatWrite x.1 (d.1 ++ f.data ++ fcsOf f.data)
  let used := fldGet (s.reg QM_PEAT_STAT.a) QM_PEAT_STAT.used
  let g := { f with spilled := true, peatBlk := x.1, cells := 0, pool := 0, resv := [], banks := [] }
  let s1 :=
    if (s.copiesOf c.fid).length = 1 then (((s.setCopy { c with peat := true }).setFrame g).freeCells f.banks)
    else
      let n := s.newFrame g
      n.2.setCopy { c with peat := true, fid := n.1 }
  (s1.setF QM_PEAT_STAT.a QM_PEAT_STAT.used (used + peatBlocks f.len)).poolNote

/-- SPILL (R202, R204); reading the frame meets the errors named (R193). -/
def State.spill (s0 : State) (port tc corr : Nat) (bad : Option Nat) : State :=
  if s0.spillable port tc then
    match s0.spillPick port tc with
    | none => s0
    | some c =>
      let used := fldGet (s0.reg QM_PEAT_STAT.a) QM_PEAT_STAT.used
      if s0.f QM_PEAT_CFG.a QM_PEAT_CFG.size_mib * 4096 < used + peatBlocks (s0.frame c.fid).len then
        (if s0.peatFull then s0 else { s0 with peatFull := true }.raise 44 3 0)
      else
        let s := s0.mereRead c.fid corr bad
        if s.copies.any (fun x => x.id == c.id) then s.spillMove c (s.frame c.fid) else s
  else s0

/-- R203: the cells of a queue's head segment. -/
def State.headSeg (s : State) (port tc : Nat) : Nat :=
  sumOf (((s.queue port tc).takeWhile (fun c => !c.peat)).map (fun c => (s.frame c.fid).cells))

/-- REFILL (R203, R205): the oldest Peat frame returns to Mere, or is lost to an uncorrectable error. -/
def State.refill (s : State) (port tc : Nat) (bad : Bool) : State :=
  match (s.queue port tc).find? (fun c => c.peat) with
  | none => s
  | some c =>
    let f := s.frame c.fid
    if s.peatOn && decide (s.headSeg port tc < s.f QM_REFILL_CFG.a QM_REFILL_CFG.refill_min) &&
        decide (((s.f QM_SPILL_CFG.a QM_SPILL_CFG.spill_lo : Nat) : Int) ≤ s.poolFree) then
      if bad then ((s.bump QM_PEAT_STAT.a QM_PEAT_STAT.lost).raise 44 2 0).copyGone c
      else
        let k := (s.peatFree f).takeCells (cellsOf f.len) []
        ((k.2.setCopy { c with peat := false }).setFrame
          { f with spilled := false, peatBlk := [], cells := cellsOf f.len, pool := cellsOf f.len, banks := k.1
                   data := slice (s.peatRead f.peatBlk) 48 (f.len - 4) }).poolNote
    else s

/-- R205: every frame held in Peat is discarded and counted. -/
def State.peatDiscard (s : State) : State :=
  (s.copies.filter (fun c => c.peat)).foldl
    (fun u c => (u.bump QM_PEAT_STAT.a QM_PEAT_STAT.lost).copyDrop c) s

/-- R200: a write of exp_reserve that would make the reserves exceed 16,384 cells is refused. -/
def State.qmPortCfgChanged (s : State) (n : Nat) (old : Word) : State :=
  if 16384 < s.resvTotal then
    ((s.setF (QM_PORT_CFG.a n) QM_PORT_CFG.exp_reserve (fldGet old QM_PORT_CFG.exp_reserve)).setF QM_POOL.a QM_POOL.err
      1).poolNote
  else s.poolNote

/-! ### The commands that no software access issues -/

/-- SPILL (R202): of the queue of class `tc` of port `n`; `corr` corrected errors, and an uncorrectable one in cell `bad` (R193). -/
def execSpill (n : Fin 28) (tc : Fin 8) (corr : Fin 64) (bad : Option (Fin 64)) (s : State) : Host.Outcome State Fault Refusal :=
  .next (s.live (s.spill n.val tc.val corr.val (bad.map (·.val))))

/-- REFILL (R203): of the queue of class `tc` of port `n`; `bad` says that the read-back meets an uncorrectable error. -/
def execRefill (n : Fin 28) (tc : Fin 8) (bad : Bool) (s : State) : Host.Outcome State Fault Refusal :=
  .next (s.live (s.refill n.val tc.val bad))

end Sys2Proof.Machine
end

