-- ==== Sys2Proof/Machine/Traffic.lean ====
section
/-! DEFINITION. Traffic control (chapter 10): Sluice, launch times, shapers, fair queueing, the selection order, Weir meters,
preemption and residence limits. Instants of WKT count 2^-32 ns. -/

namespace Sys2Proof.Machine

/-! ### Weir meters (R235, R236) -/

/-- The bucket of meter `m` of pipeline `p` at the present tick. -/
def State.meterTok (s : State) (p m : Nat) : Int :=
  let x := Cells.get (fun _ => {}) s.meters (p * 2048 + m)
  let cap := ((s.f (POL_METER_BURST.a p m) POL_METER_BURST.burst * 8000000 : Nat) : Int)
  let v := x.tok + ((s.f (POL_METER_CFG.a p m) POL_METER_CFG.rate * 4 * (s.now - x.upd) : Nat) : Int)
  if cap < v then cap else v

/-- The bucket set as it stands now. -/
def State.meterSet (s : State) (p m : Nat) (v : Int) : State :=
  { s with meters := Cells.set (fun _ => {}) s.meters (p * 2048 + m) ⟨v, s.now⟩ }

/-- R235: a charge in bytes. -/
def State.meterCharge (s : State) (p m : Nat) (n : Int) : State := s.meterSet p m (s.meterTok p m - n * 8000000)

/-- R235: the merge test: conforms and is charged `n`, or does not. -/
def State.meterTest (s : State) (p m n : Nat) : Bool × State :=
  if !s.on (POL_METER_CFG.a p m) POL_METER_CFG.en then (true, s)
  else if 0 < s.meterTok p m then (true, s.meterCharge p m n)
  else (false, (s.bump (POL_METER_DROP.a p m) POL_METER_DROP.count).raise 45 1 (m + 2048 * p))

/-- R235: a write of POL_METER_BURST fills the bucket. -/
def State.meterFill (s : State) (p m : Nat) : State :=
  s.meterSet p m ((s.f (POL_METER_BURST.a p m) POL_METER_BURST.burst * 8000000 : Nat) : Int)

/-! ### Lengths and wire time (R225) -/

/-- 11 R254, R255: a copy with EtherType `ety` leaves `port` protected. -/
def State.encrypts (s : State) (port ety : Nat) : Bool :=
  decide (port < 24) && s.on (CIP_PORT_CFG.a port) CIP_PORT_CFG.macsec_en &&
  s.on (CIP_PORT_CFG.a port) CIP_PORT_CFG.protect &&
  !(ety == 0x888e || (ety != 0 && (ety == s.f (CIP_PORT_BYPASS.a port) CIP_PORT_BYPASS.etype0 ||
    ety == s.f (CIP_PORT_BYPASS.a port) CIP_PORT_BYPASS.etype1)))

/-- The EtherType of a frame. -/
def Frame.ety (f : Frame) : Nat := match f.head with
  | some r => r.ety
  | none => 0

/-- R225: the queue maximum SDU of a class. -/
def State.queueSdu (s : State) (port tc : Nat) : Nat :=
  if 24 ≤ port then 0
  else s.f (SLU_QSDU.a port (tc / 2)) (if tc % 2 = 1 then SLU_QSDU.sdu_odd else SLU_QSDU.sdu_even)

/-- R225: the base length of a copy. -/
def State.baseLen (s : State) (f : Frame) (port tc : Nat) : Nat :=
  if f.ended then f.len
  else
    let h := match f.head with
      | some r => r.hint
      | none => none
    match h with
    | some h => h
    | none => if s.queueSdu port tc = 0 then s.frameMax f.inPort else s.queueSdu port tc

/-- R225: L′, the length of a copy as it will leave; a truncated mirror copy has at most 128 bytes (09 R212). -/
def State.lprime (s : State) (c : Copy) : Nat :=
  let f := s.frame c.fid
  let sec := if s.encrypts c.port f.ety then
      16 + (if s.on (CIP_PORT_CFG.a c.port) CIP_PORT_CFG.include_sci then 16 else 8) else 0
  match c.mir with
  | some k =>
    let n := ((s.baseLen f c.port c.tc : Int) + s.tagDelta f c.port).toNat
    (if s.on (QM_MIR_CFG.a k) QM_MIR_CFG.trunc && decide (128 < n) then 128 else n) + sec
  | none => ((s.baseLen f c.port c.tc : Int) + s.tagDelta f c.port + s.rtagDelta f c.port).toNat + sec

/-- R225: 48 ns and the wire time of `n` bytes end within `t` units of 2^-32 ns on a port. -/
def State.fitsIn (s : State) (port n : Nat) (t : Int) : Bool :=
  let r := modeRate (s.portMode port)
  if 24 ≤ port then decide (((48 * nsU : Nat) : Int) ≤ t)
  else decide ((((n + 20) * 8000 * nsU : Nat) : Int) ≤ (t - ((48 * nsU : Nat) : Int)) * (r : Int))

/-! ### Sluice (R223 to R229) -/

/-- R110: an action word is a GATE action for a port. -/
def gateFor (w port : Nat) : Bool := w / 2 ^ 28 == 1 && nbits w 27 23 == port

/-- R224: the predicted instant of an armed angle entry, as a distance from now. -/
def State.angleIn (s : State) (e : AEnt) : Option Int :=
  let x := s.ph e.dom
  let m := if x.omega < 0 then 1 else 0
  if x.omega = 0 ∨ (e.dir ≠ 2 ∧ e.dir ≠ m) then none
  else some (((arcDist m x.hat e.tau * 4294967296 * 4 * nsU / x.omega.natAbs : Nat)) : Int)

/-- A distance with its gate mask, put in order. -/
def insGate (e : Int × Nat) : List (Int × Nat) → List (Int × Nat)
  | [] => [e]
  | x :: r => if e.1 < x.1 then e :: x :: r else x :: insGate e r

/-- R224: the predicted GATE actions for a port, seen from the SWC edge `b` ns before the tick: distance and mask, earliest first. An
entry posted or armed on this tick does not count yet (R229). -/
def State.gateAhead (s : State) (port b : Nat) : List (Int × Nat) :=
  let w := s.wktAt (16 * s.now - 4 * b)
  (List.range 8).foldl (fun l n =>
    let x := s.sq n
    let l1 := x.tq.foldl (fun l e =>
      if gateFor e.word.toNat port && decide (e.posted < s.now) then insGate (tdiff e.tgt w, nbits e.word.toNat 15 8) l else l) l
    x.aq.foldl (fun l e =>
      if gateFor e.word.toNat port && decide (e.armed < s.now) then
        match s.angleIn e with
        | some d => insGate (d, nbits e.word.toNat 15 8) l
        | none => l
      else l) l1) []

/-- The gate of a class is open. -/
def State.gateOpen (s : State) (port tc : Nat) : Bool := decide (24 ≤ port) || nbit (s.f (SLU_GATE.a port) SLU_GATE.gate) tc

/-- R18: the gates of a port on the SWC edge `b` ns before the tick. -/
def State.gateOn (s : State) (port b : Nat) : Nat :=
  match (s.port port).gates.find? (fun e => decide (4 * s.now < e.1 + b)) with
  | some e => e.2
  | none => s.f (SLU_GATE.a port) SLU_GATE.gate

/-- R239: preemption is active on a port. -/
def State.preActive (s : State) (port : Nat) : Bool :=
  decide (port < 12) && fldGet (s.reg (SHP_PORT_CFG.a port)) SHP_PORT_CFG.pre_state == 2

/-- R226, R227: pre_fill is in force on a port: with preemption active, in native mode. -/
def State.preFill (s : State) (port : Nat) : Bool :=
  s.preActive port && s.on (SLU_PORT_CFG.a port) SLU_PORT_CFG.pre_fill && !(s.on (SLU_PORT_CFG.a port) SLU_PORT_CFG.mode)

/-- R227: the instants at which the predicted actions close at least one open class. -/
def closings : Nat → List (Int × Nat) → List Int
  | _, [] => []
  | run, (t, m) :: r => (if (run &&& (255 - m)) ≠ 0 then [t] else []) ++ closings m r

/-- R221 step 1, R224 to R227: on the SWC edge `b` ns before the tick the gate of class `tc` is open and `n` bytes pass the gate test of
the port's mode. -/
def State.gatePass (s : State) (port tc n b : Nat) : Bool :=
  if 24 ≤ port then true
  else if !(nbit (s.gateOn port b) tc) then false
  else
    let l := s.gateAhead port b
    if s.on (SLU_PORT_CFG.a port) SLU_PORT_CFG.mode then
      let g := ((s.f (SLU_PORT_CFG.a port) SLU_PORT_CFG.guard * 4 * nsU : Nat) : Int)
      (closings (s.gateOn port b) l).all (fun t => decide (g < t))
    else if s.preFill port && !s.express port tc then true
    else match l.find? (fun e => !(nbit e.2 tc)) with
      | none => true
      | some (t, _) => s.fitsIn port n t

/-- The copy in transmission on a port. -/
def State.sending (s : State) (port : Nat) : Option Copy := s.copies.find? (fun c => c.port == port && c.st == 1)

/-- The preempted copy of a port. -/
def State.suspended (s : State) (port : Nat) : Option Copy := s.copies.find? (fun c => c.port == port && c.st == 2)

/-- 12 R279, R290: the receive path of a port is ready. -/
def State.pathReady (s : State) (n : Nat) : Bool :=
  let x := s.port n
  let m := s.portMode n
  if m = 0 ∨ s.portOn n = false then false
  else if x.lpbk = 1 ∨ x.lpbk = 2 then true
  else if m ≤ 5 then
    x.lock && !x.lf && !(s.on (ETH_PORT_CFG.a n) ETH_PORT_CFG.rf_down && x.rf)
  else if m = 7 then x.lock && nbit (fldGet (s.reg (ETH_PORT_STAT.a n)) ETH_PORT_STAT.inband) 15
  else m == 8 || x.lock

/-- 12 R274, R278, R279, R290, R291: what the lane of a port transmits (log entry 60); a port that has been disabled completes its frame
first. -/
def State.laneOf (s : State) (n : Nat) : LaneSig :=
  let x := s.port n
  let m := s.portMode n
  if !s.portOn n then (if (s.sending n).isSome then x.sig else .idleElec)
  else if m = 0 ∨ x.lpbk = 1 ∨ x.lpbk = 2 then .idleElec
  else if x.prbs = 1 then .prbs7
  else if x.prbs = 2 then .prbs31
  else if x.lpbk = 3 then .farEnd
  else if m ≤ 5 ∧ (x.lock && !x.lf && x.rf) = true then .idle
  else if m ≤ 5 ∧ s.pathReady n = false then .remoteFault
  else .normal

/-- The lane of a port follows its state. -/
def State.laneNote (s : State) (n : Nat) : State :=
  let v := s.laneOf n
  if v = (s.port n).sig then s else (s.setPort n { s.port n with sig := v }).emit (.lane n v)

/-- R225, R233: the wire time of a copy in 10^-6 bit. -/
def State.wireBits (s : State) (c : Copy) : Nat := (s.lprime c + 20) * 8000000

/-- R239: the fragment in transmission ends and its frame is suspended. -/
def State.suspend (s : State) (c : Copy) : State :=
  (s.setCopy { c with st := 2, cutReq := false }).bump (SHP_CNT.a c.port 7) SHP_CNT.count

/-- R239: a permitted boundary: both the fragment that ends, with its check, and the rest have 64 bytes (log entry 55). -/
def State.canCut (s : State) (c : Copy) : Bool :=
  decide (60 + 8 ≤ (c.paid - c.frag) / 8000000) && decide (64 + 12 ≤ (s.wireBits c - c.paid) / 8000000)

/-- R239, R240: the preemptable fragment in transmission ends at its next permitted boundary. -/
def State.cutTry (s : State) (c : Copy) : State := if s.canCut c then s.suspend c else s.setCopy { c with cutReq := true }

/-- R223, R226, R228: the gates named in `closed` close. -/
def State.gateClosed (s : State) (port closed : Nat) : State :=
  match s.sending port with
  | none => s
  | some c =>
    if c.mir.isNone ∧ nbit closed c.tc = true then
      if s.preFill port && !s.express port c.tc then s.cutTry c
      else (s.bump (SHP_CNT.a port 0) SHP_CNT.count).raise 45 2 port
    else s

/-- R240: a hold request in force ends the preemptable fragment in transmission. -/
def State.holdNote (s : State) (port : Nat) : State :=
  if s.on (SLU_GATE.a port) SLU_GATE.hold && s.preActive port then
    match s.sending port with
    | some c => if s.express port c.tc && c.mir.isNone then s else s.cutTry c
    | none => s
  else s

/-- R18: the gates of a port change on the first SWC edge at or after the instant `t` (in 250 ps); those before it are kept for the
edges of this tick that come earlier. -/
def State.gateNote (s : State) (port t : Nat) : State :=
  let x := s.port port
  s.setPort port { x with
    gates := x.gates.filter (fun e => decide (4 * s.now < e.1 + 4)) ++ [(ceilDiv t 4, s.f (SLU_GATE.a port) SLU_GATE.gate)] }

/-- R223, R240: a fired GATE action, placed at the instant `t`; the state and whether it was refused (12 R278). -/
def State.gateAction (s : State) (port hold mask t : Nat) : State × Bool :=
  if !s.portOn port then (s, true)
  else
    let old := s.f (SLU_GATE.a port) SLU_GATE.gate
    let s1 := (s.gateNote port t).setFs (SLU_GATE.a port) [(SLU_GATE.gate, mask), (SLU_GATE.hold, hold)]
    ((s1.gateClosed port (old &&& (255 - mask))).holdNote port, false)

/-- R223, R228: a software write of SLU_GATE. -/
def State.gateWritten (s : State) (port : Nat) (old : Word) : State :=
  (s.gateClosed port (fldGet old SLU_GATE.gate &&& (255 - s.f (SLU_GATE.a port) SLU_GATE.gate))).holdNote port

/-! ### Launch times and releases (R230, R231) -/

/-- R231: a class of a port holds its copies for sequencer release. -/
def State.seqHold (s : State) (port tc : Nat) : Bool :=
  decide (port < 24) && nbit (s.f (SLU_LAUNCH_CFG.a port) SLU_LAUNCH_CFG.seq_hold) tc

/-- R231: a copy is held for sequencer release. -/
def State.seqHeld (s : State) (c : Copy) : Bool :=
  s.seqHold c.port c.tc && c.mir.isNone && c.st == 0 && c.rel.isNone

/-- R231: a fired LAUNCH action with its release instant; the state and whether it was refused. A copy admitted on this tick is not
released (R229). -/
def State.launchAction (s : State) (port tc count instant : Nat) : State × Bool :=
  let l := (s.copies.filter (fun c => c.port == port && c.tc == tc && s.seqHeld c && decide (c.adm < s.now))).take count
  if l.isEmpty then (s, true)
  else (l.foldl (fun u c => u.setCopy { c with rel := some instant }) s, false)

/-- LAUNCH_TIME_REACHED (R230): WKT reaches the launch time of a held frame of the port. -/
def State.launchReached (s : State) (port : Nat) : State :=
  match s.copies.find? (fun c => c.port == port && c.timed && (s.frame c.fid).ended && !c.peat &&
      (match c.rel with
       | some t => decide (tdiff t s.tim.wkt ≤ 0)
       | none => false)) with
  | some c => s.setCopy { c with timed := false }
  | none => s

/-! ### Shapers (R232, R233): credits in units of 10^-6 bit, as the law gives them; a test sees them in whole 1/256 bit -/

/-- R233: the idle slope of a class in kbit/s. -/
def State.idleSlope (s : State) (port tc : Nat) : Nat :=
  let r := modeRate (s.portMode port) * 1000
  let i := s.f (SHP_CBS.a port tc) SHP_CBS.idle_slope
  if 24 ≤ port then i else if r < i then r else i

/-- The credit of a class. -/
def State.creditOf (s : State) (port tc : Nat) : Int := Cells.get (fun _ => 0) s.credit (port * 8 + tc)

/-- R232, R233: the credit of a class is 0 or more, at its resolution of 1/256 bit; whether a value between two steps counts as the
lower or the upper one the spec leaves open (log entry 55). -/
def State.creditOk (s : State) (port tc : Nat) : Bool :=
  let v := s.creditOf port tc
  let q := v * 256 / 1000000
  decide (0 ≤ q) || (decide (q = -1) && Config.creditUp v)

/-- R233: the part of a copy's wire time that passes in a tick. -/
def State.wireTick (s : State) (c : Copy) : Nat := min (modeRate (s.portMode c.port) * 4000) (s.wireBits c - c.paid)

/-- R233: the credit of a class on one TIME tick. -/
def State.creditNext (s : State) (port tc : Nat) : Int :=
  let v := s.creditOf port tc
  let i := ((s.idleSlope port tc * 4 : Nat) : Int)
  let mine := fun (c : Copy) => c.port == port && c.tc == tc && c.mir.isNone
  match s.copies.find? (fun c => mine c && c.st == 1) with
  | some c => v + i - (s.wireTick c : Int)
  | none =>
    if !s.gateOpen port tc then v
    else if s.copies.any (fun c => mine c && !c.timed && !s.seqHeld c) then v + i
    else if 0 < v then 0
    else if 0 < v + i then 0 else v + i

/-- R233: the credit of a class with its shaper enabled moves on a tick. -/
def State.tickCredit (s : State) (k : Nat) : State :=
  if s.on (SHP_CBS.a (k / 8) (k % 8)) SHP_CBS.cbs_en then
    { s with credit := Cells.set (fun _ => 0) s.credit k (s.creditNext (k / 8) (k % 8)) }
  else s

/-- R233: the credits that can move on a tick: those not 0, and those of classes with copies. -/
def State.tickShapers (s : State) : State :=
  ((s.credit.map (fun (e : Nat × Int) => e.1)) ++ s.copies.map (fun (c : Copy) => c.port * 8 + c.tc)).eraseDups.foldl
    (fun (u : State) k => u.tickCredit k) s

/-- R233: a copy ends: what of its (L′ + 20) × 8 bits no tick has charged is charged now. -/
def State.payRest (s : State) (c : Copy) : State :=
  if s.on (SHP_CBS.a c.port c.tc) SHP_CBS.cbs_en && c.mir.isNone then
    let k := c.port * 8 + c.tc
    { s with credit := Cells.set (fun _ => 0) s.credit k (s.creditOf c.port c.tc - ((s.wireBits c - c.paid : Nat) : Int)) }
  else s

/-- The copies in transmission on a tick; a fragment that is to end does so at its boundary (R239). -/
def State.tickSend (s : State) : State :=
  (s.copies.filter (fun c => c.st == 1)).foldl (fun (u : State) c =>
    let c1 := { c with paid := c.paid + u.wireTick c }
    if c1.cutReq && u.canCut c1 then u.suspend c1 else u.setCopy c1) s

/-! ### Weighted fair queueing (R234) -/

/-- Serial-number order of 32-bit values: `a` stands before `b`. -/
def serialLt (a b : Nat) : Bool := decide (0 < sint 32 (b + 4294967296 - a % 4294967296))

/-- R222: the head of a class queue: its first copy that steps 3 and 4 can reach. -/
def State.headOf (s : State) (port tc : Nat) : Option Copy :=
  if s.seqHold port tc then none
  else s.copies.find? (fun c => c.port == port && c.tc == tc && c.mir.isNone && !c.timed && c.rel.isNone && c.st == 0)

/-- R234: the weight of a class. -/
def State.wfqWeight (s : State) (port tc : Nat) : Nat :=
  let w := if tc < 4 then nbits (s.hw (SHP_WFQ_LO.a port)).toNat (8 * tc + 7) (8 * tc)
    else nbits (s.hw (SHP_WFQ_HI.a port)).toNat (8 * (tc - 4) + 7) (8 * (tc - 4))
  if w = 0 then 1 else w

/-- R221: a class of a port is strict priority. -/
def State.strict (s : State) (port tc : Nat) : Bool := nbit (s.f (SHP_PORT_CFG.a port) SHP_PORT_CFG.sp_mask) tc

/-- R234: a copy that has become head of its class queue takes its finish time. -/
def State.wfqHead (s : State) (port tc : Nat) : State :=
  match s.headOf port tc with
  | none => s
  | some c =>
    if c.vf.isSome then s
    else
      let v := Cells.get (fun _ => 0) s.wfqV port
      let p := Cells.get (fun _ => 0) s.wfq (port * 8 + tc)
      let base := if serialLt p v then v else p
      let f := (base + (s.lprime c + 20) * 256 / s.wfqWeight port tc) % 4294967296
      { s.setCopy { c with vf := some f } with wfq := Cells.set (fun _ => 0) s.wfq (port * 8 + tc) f }

/-- R234: the fair-queueing set of one port after a change of its queues. -/
def State.wfqPort (s : State) (port : Nat) : State :=
  let l := (List.range 8).filter (fun tc => !s.strict port tc)
  if l.all (fun tc => (s.headOf port tc).isNone) then
    { s with
      wfqV := Cells.set (fun _ => 0) s.wfqV port 0
      wfq := (List.range 8).foldl (fun m tc => Cells.set (fun _ => 0) m (port * 8 + tc) 0) s.wfq }
  else l.foldl (fun u tc => u.wfqHead port tc) s

/-- R234: the virtual time of a port after a selection from step 4. -/
def State.wfqTaken (s : State) (c : Copy) : State :=
  match c.vf with
  | some f => if s.strict c.port c.tc || c.mir.isSome || c.rel.isSome then s else { s with wfqV := Cells.set (fun _ => 0) s.wfqV c.port f }
  | none => s

/-- R234: every port whose queues may have changed. -/
def State.wfqAll (s : State) : State :=
  (s.copies.map (fun (c : Copy) => c.port) ++ s.wfqV.map (fun (e : Nat × Nat) => e.1) ++
    s.wfq.map (fun (e : Nat × Nat) => e.1 / 8)).eraseDups.foldl (fun (u : State) n => u.wfqPort n) s

/-! ### Selection (R221, R222) -/

/-- R221 step 2: a copy put in order of its instant, higher class first at equal instants. -/
def insRel (c : Copy) : List Copy → List Copy
  | [] => [c]
  | x :: r =>
    let a := c.rel.getD 0
    let b := x.rel.getD 0
    if tdiff a b < 0 ∨ (a = b ∧ x.tc < c.tc) then c :: x :: r else x :: insRel c r

/-- R221 step 4: a copy put in order of its finish time, higher class first at equal times. -/
def insVf (c : Copy) : List Copy → List Copy
  | [] => [c]
  | x :: r =>
    let a := c.vf.getD 0
    let b := x.vf.getD 0
    if serialLt a b ∨ (a = b ∧ x.tc < c.tc) then c :: x :: r else x :: insVf c r

/-- A copy can be sent: it is eligible (R208) and stands in Mere. -/
def Copy.ready (c : Copy) : Bool := c.elig && !c.peat && c.st == 0

/-- R221: the copies of a port in the selection order, before the tests of Sluice. Classes without an express bit are left
out while `exOnly` (R226, R239, R240). -/
def State.selOrder (s : State) (port : Nat) (exOnly : Bool) : List Copy :=
  let ok := fun (c : Copy) => c.ready && (!exOnly || s.express port c.tc)
  let rel := (s.copies.filter (fun c => c.port == port && c.st == 0 && !c.timed && c.rel.isSome && c.mir.isNone && ok c)).foldl
    (fun l c => insRel c l) []
  let heads := (List.range 8).reverse.filterMap (fun tc => (s.headOf port tc).bind (fun c => if ok c then some c else none))
  let sp := heads.filter (fun c => s.strict port c.tc &&
    (!(s.on (SHP_CBS.a port c.tc) SHP_CBS.cbs_en) || s.creditOk port c.tc))
  let wf := (heads.filter (fun c => !s.strict port c.tc)).foldl (fun l c => insVf c l) []
  let mir := if exOnly then none else s.copies.find? (fun c => c.port == port && c.mir.isSome && c.st == 0)
  rel ++ sp ++ wf ++ (match mir with
    | some c => if c.ready then [c] else []
    | none => [])

/-- R242: a copy dropped at its residence limit. -/
def State.resDrop (s : State) (c : Copy) : State :=
  let starve := s.on (SHP_RES.a c.port c.tc) SHP_RES.may_starve
  ((s.bump (SHP_CNT.a c.port (if starve then 2 else 1)) SHP_CNT.count).raiseIf (!starve) 45 3 c.port).copyDrop c

/-- R237, R282: a drop that a copy meets before it starts. -/
def State.preDrop (s : State) (c : Copy) : Option State :=
  let f := s.frame c.fid
  let hint := match f.head with
    | some r => r.hint
    | none => none
  match knownLen f hint with
  | none => none
  | some n =>
    let sdu := s.queueSdu c.port c.tc
    if c.mir.isNone ∧ sdu ≠ 0 ∧ sdu < n then
      some (((s.bump (SHP_CNT.a c.port 5) SHP_CNT.count).raise 45 6 c.port).copyDrop c)
    else if c.port < 24 ∧ s.frameMax c.port + (if s.encrypts c.port f.ety then 32 else 0) < s.lprime c then
      some ((s.mibInc c.port 14).copyDrop c)
    else none

/-- R242: the residence limit lets a copy start on the SWC edge `b` ns before the tick. -/
def State.inTime (s : State) (c : Copy) (b : Nat) : Bool :=
  s.fitsIn c.port (s.lprime c) (((c.deadline : Int) - (s.now : Int)) * ((4 * nsU : Nat) : Int) + ((b * nsU : Nat) : Int)) &&
    decide (4 * s.now < 4 * c.deadline + b)

/-- The first copy of a list that starts, or the state after the first drop. -/
def State.tryList (s : State) (b : Nat) : List Copy → Option (Sum Copy State)
  | [] => none
  | c :: r =>
    match s.preDrop c with
    | some s1 => some (.inr s1)
    | none =>
      if s.gatePass c.port (if c.mir.isSome then 0 else c.tc) (s.lprime c) b then
        (if s.inTime c b then some (.inl c) else some (.inr (s.resDrop c)))
      else s.tryList b r

/-- R221, R222: the selection of a port on the SWC edge `b` ns before the tick, judged again after each drop. -/
def State.pick : Nat → State → Nat → Bool → Nat → Option Copy × State
  | 0, s, _, _, _ => (none, s)
  | n + 1, s, port, exOnly, b =>
    match s.tryList b (s.selOrder port exOnly) with
    | none => (none, s)
    | some (.inl c) => (some c, s)
    | some (.inr s1) => State.pick n s1.wfqAll port exOnly b

/-- R239: an express copy that could start preempts the preemptable frame in transmission on a port. -/
def State.preempt (s : State) (port b : Nat) : State :=
  if s.preActive port then
    match s.sending port with
    | none => s
    | some c =>
      if s.express port c.tc && c.mir.isNone then s
      else if (s.selOrder port true).any (fun x => s.gatePass port x.tc (s.lprime x) b) then s.cutTry c else s
  else s

/-- R226, R239, R240: the suspended frame of a port can resume on the SWC edge `b` ns before the tick. -/
def State.canResume (s : State) (port : Nat) (c : Copy) (b : Nat) : Bool :=
  !(s.on (SLU_GATE.a port) SLU_GATE.hold && s.preActive port) && (!s.preFill port || nbit (s.gateOn port b) c.tc)

/-- R239: the state of preemption after an enable or a change of its configuration. -/
def State.preInit (s : State) (port : Nat) : State :=
  if 12 ≤ port then s
  else
    s.setF (SHP_PORT_CFG.a port) SHP_PORT_CFG.pre_state
      (if s.on (SHP_PORT_CFG.a port) SHP_PORT_CFG.preempt_en then
        (if s.on (SHP_PORT_CFG.a port) SHP_PORT_CFG.verify_en then 1 else 2) else 0)

/-- R239: a change of SHP_PORT_CFG. -/
def State.preCfgChanged (s : State) (port : Nat) (old : Word) : State :=
  if fldGet old SHP_PORT_CFG.preempt_en = fldGet (s.reg (SHP_PORT_CFG.a port)) SHP_PORT_CFG.preempt_en ∧
      fldGet old SHP_PORT_CFG.verify_en = fldGet (s.reg (SHP_PORT_CFG.a port)) SHP_PORT_CFG.verify_en then s.wfqAll
  else (s.preInit port).wfqAll

/-- R242: the deadline of a copy of the port passes: a queued copy is dropped, a suspended one abandoned. -/
def State.residence (s : State) (port : Nat) : State :=
  match s.copies.find? (fun c => c.port == port && c.st != 1 && decide (c.deadline ≤ s.now)) with
  | none => s
  | some c =>
    if c.st = 2 then ((s.mibInc port 13).cutShort port).resDrop c
    else s.resDrop c

/-! ### The commands that no software access issues -/

/-- LAUNCH_TIME_REACHED (R230). -/
def execLaunchTimeReached (n : Fin 28) (s : State) : Host.Outcome State Fault Refusal :=
  .next (s.live (s.launchReached n.val).wfqAll)

/-- RESIDENCE_DEADLINE (R242). -/
def execResidenceDeadline (n : Fin 28) (s : State) : Host.Outcome State Fault Refusal := .next (s.live (s.residence n.val).wfqAll)

/-- PREEMPT_VERIFY_DONE (R239): the verify exchange of port `n` succeeds or fails. -/
def execPreemptVerifyDone (n : Fin 12) (ok : Bool) (s : State) : Host.Outcome State Fault Refusal :=
  .next (s.live (
    if fldGet (s.reg (SHP_PORT_CFG.a n.val)) SHP_PORT_CFG.pre_state = 1 then
      (if ok then (s.setF (SHP_PORT_CFG.a n.val) SHP_PORT_CFG.pre_state 2).preempt n.val 0
       else (s.setF (SHP_PORT_CFG.a n.val) SHP_PORT_CFG.pre_state 3).raise 45 7 n.val)
    else s))

end Sys2Proof.Machine
end

