-- ==== Sys2Proof/Machine/Macsec.lean ====
section
/-! DEFINITION. MACsec and the cipher pool (chapter 11): the SA store and its commands, SecTAG checks, verdicts, the
protection of copies, alarms and key erase, Carr's jobs. GCM, CMAC and key unwrap follow their published standards
(log entry 6). -/

namespace Sys2Proof.Machine

/-! ### The SA store (R260) -/

/-- The SA slot `k`. -/
def State.saAt (s : State) (k : Nat) : SaSlot := Cells.get (fun _ => {}) s.sa k

/-- The state with SA slot `k` set. -/
def State.setSa (s : State) (k : Nat) (x : SaSlot) : State := { s with sa := Cells.set (fun _ => {}) s.sa k x }

/-- A slot is bound to AN `an` of receive SC or port `sc`, and counts as bound (R262). -/
def SaSlot.boundTo (x : SaSlot) (rx : Bool) (sc an : Nat) : Bool :=
  x.valid && !x.retiring && x.bound && x.rx == rx && x.sc == sc && x.an == an

/-- The slot bound to an AN. -/
def State.saBound (s : State) (rx : Bool) (sc an : Nat) : Option Nat :=
  (s.sa.find? (fun e => e.2.boundTo rx sc an)).map (·.1)

/-- R272: an_valid of a port's transmit SC or of a receive SC. -/
def State.anValid (s : State) (rx : Bool) (sc : Nat) : Nat :=
  (List.range 4).foldl (fun m a => if (s.saBound rx sc a).isSome then m + 2 ^ a else m) 0

/-- R272: an_exh of a port's transmit SC. -/
def State.anExh (s : State) (port : Nat) : Nat :=
  (List.range 4).foldl (fun m a => match s.saBound false port a with
    | some k => if (s.saAt k).exh then m + 2 ^ a else m
    | none => m) 0

/-- R272: sa_free. -/
def State.saFree (s : State) : Nat := 512 - (s.sa.filter (fun e => e.2.valid)).length

/-- R272: MACsec counter `k` of a port advanced by `n`, modulo 2^64 (log entry 63). -/
def State.cipAdd (s : State) (port k n : Nat) : State :=
  let v := (Cells.get (fun _ => 0) s.cipMib (port * 32 + k) + n) % 2 ^ 64
  { s with cipMib := Cells.set (fun _ => 0) s.cipMib (port * 32 + k) v }

/-- A MACsec counter advanced by 1. -/
def State.cipInc (s : State) (port k : Nat) : State := s.cipAdd port k 1

/-! ### Key commands (R261, R262, R269) -/

/-- The CIP_KEY, CIP_SA_STAT and CIP_MIB mailboxes. -/
def cipKey : Nat := 0x1803000
def cipSaStat : Nat := 0x1803100
def cipMibMbx : Nat := 0x1803200

/-- The key material of an install. -/
structure Install where
  xpn : Bool
  aes256 : Bool
  kind : Nat
  key : List Byte
  salt : List Byte
  ssci : Nat
  pn : Nat
  limit : Nat
deriving DecidableEq, Repr

/-- R261: the install that an arg and the data words name; `arg` is shifted to bit 9. -/
def installOf (arg : Nat) (w : Nat → Nat) : Install :=
  { xpn := nbit arg 9, aes256 := nbit arg 10, kind := nbits arg 12 11
    key := ((List.range (if nbit arg 10 then 8 else 4)).map (fun k => leBytes 4 (w k))).flatten
    salt := leBytes 4 (w 8) ++ leBytes 4 (w 9) ++ leBytes 4 (w 10)
    ssci := w 11, pn := w 12 + w 13 * 2 ^ 32, limit := w 14 + w 15 * 2 ^ 32 }

/-- R261: the operands of an install are in range. -/
def Install.inRange (x : Install) : Bool :=
  x.kind != 3 && (x.xpn || (x.salt.all (fun b => b == 0#8) && x.ssci == 0)) && x.pn != 0 && x.limit != 0 &&
  (x.xpn || decide (x.limit < 2 ^ 32)) && decide (x.pn ≤ x.limit)

/-- Slot `k` is erased: it is no port's last receive SA any more (R252). -/
def State.saErase (s : State) (k : Nat) : State := { s.setSa k {} with rxLast := s.rxLast.filter (fun e => e.2 != k + 1) }

/-- R261: an install into slot `k`: H is computed and the slot valid. -/
def State.saInstall (s : State) (k : Nat) (x : Install) : State :=
  s.setSa k
    { valid := true, kind := x.kind, xpn := x.xpn, aes256 := x.aes256, key := x.key
      hkey := BitVec.ofNat 128 (beNat (aesEnc x.key (List.replicate 16 0#8)))
      salt := x.salt, ssci := x.ssci, pn := if x.kind = 1 then 0 else x.pn
      lowPn := if x.kind = 1 then x.pn else 0, limit := x.limit }

/-- R261: a slot is a port's current encoding SA. -/
def State.isEncoding (s : State) (k : Nat) : Bool :=
  let x := s.saAt k
  x.valid && x.bound && !x.rx && x.an == s.f (CIP_TXSC.a x.sc) CIP_TXSC.enc_an

/-- R261, R265, R269: the err_code of a key command: every one is refused with 0x2 while an alarm is latched (log entry 57). -/
def State.keyErr (s : State) (op arg : Nat) : Option Nat :=
  let k := arg % 512
  let x := s.saAt k
  let w := s.dw cipKey
  let others := fun (keep : List Nat) => (List.range 16).any (fun j => !(keep.contains j) && w j != 0)
  if s.on CIP_ALARM_STAT.a CIP_ALARM_STAT.latched then some 2
  else if op = 1 then
    let y := installOf arg w
    lowestErr [(x.valid, 1),
      (!y.inRange || (!y.aes256 && [4, 5, 6, 7].any (fun j => w j != 0)) || arg / 2 ^ 13 != 0, 3)]
  else if op = 2 then
    let rx := nbit (w 0) 31
    let sc := nbits (w 0) 22 16
    lowestErr [(!x.valid, 1),
      (arg / 512 != 0 || nbits (w 0) 30 23 != 0 || nbits (w 0) 15 2 != 0 || others [0] || (!rx && decide (23 < sc)), 3),
      (x.kind != (if rx then 1 else 0) || (rx && !s.on (CIP_RXSC_CFG.a sc) CIP_RXSC_CFG.en), 4)]
  else if op = 3 then
    lowestErr [(!x.valid, 1), (arg / 512 != 0 || others [], 3), (s.isEncoding k, 5)]
  else if op = 4 then
    lowestErr [(!x.valid, 1), (arg / 512 != 0 || others [12, 13], 3)]
  else some 15

/-- R261: a bind: the AN's earlier binding is displaced. -/
def State.saBind (s : State) (k : Nat) (rx : Bool) (sc an : Nat) : State :=
  let s1 := match s.saBound rx sc an with
    | some j => s.setSa j { s.saAt j with bound := false }
    | none => s
  s1.setSa k { s1.saAt k with bound := true, rx := rx, sc := sc, an := an }

/-- R261, R262: a key command whose operands are in order. -/
def State.keyDo (s : State) (op arg : Nat) : State :=
  let k := arg % 512
  let w := s.dw cipKey
  if op = 1 then s.saInstall k (installOf arg w)
  else if op = 2 then s.saBind k (nbit (w 0) 31) (nbits (w 0) 22 16) (w 0 % 4)
  else if op = 3 then s.setSa k { s.saAt k with retiring := true }
  else s.setSa k { s.saAt k with lowPn := w 12 + w 13 * 2 ^ 32 }

/-- R261: a CIP_KEY request. -/
def State.keyReq (s : State) (op arg : Nat) : State :=
  match s.keyErr op arg with
  | some e => s.mbxEnd cipKey 16 (some e)
  | none => (s.keyDo op arg).mbxEnd cipKey 16 none

/-- R262: a frame is being decrypted or encrypted under slot `k`. -/
def State.saBusy (s : State) (k : Nat) : Bool :=
  s.frames.any (fun f => f.verd == 1 && f.sec.any (fun x => x.slot == k)) ||
  s.copies.any (fun c => c.st != 0 && c.slot == some k)

/-- SA_RETIRE_DONE (R262): the last frame under a retiring slot has ended: the slot is erased. -/
def State.saRetired (s : State) (k : Nat) : State :=
  if (s.saAt k).retiring && !s.saBusy k then s.saErase k else s

/-- R272: the words of CIP_SA_STAT. -/
def saWords (x : SaSlot) : List Nat :=
  [b2n x.valid * 2 ^ 31 + b2n x.retiring * 2 ^ 30 + x.kind * 2 ^ 28 + b2n x.xpn * 2 ^ 27 + b2n x.aes256 * 2 ^ 26 +
    b2n x.bound * 2 ^ 25 + b2n x.rx * 2 ^ 24 + x.sc * 2 ^ 16 + x.an,
   x.pn % 2 ^ 32, x.pn / 2 ^ 32, x.lowPn % 2 ^ 32, x.lowPn / 2 ^ 32, x.limit % 2 ^ 32, x.limit / 2 ^ 32, x.ssci]

/-- R272: a CIP_SA_STAT request; the mailbox has no op table (log entry 13). -/
def State.saStatReq (s : State) (arg : Nat) : State :=
  if 512 ≤ arg then s.mbxFail cipSaStat 15 else s.snap cipSaStat (saWords (s.saAt arg))

/-- R272: a CIP_MIB request. -/
def State.cipMibReq (s : State) (op arg : Nat) : State :=
  let port := nbits arg 12 8
  let k := arg % 32
  if 1 < op ∨ 23 < port ∨ 16 < k ∨ arg / 2 ^ 13 ≠ 0 ∨ nbits arg 7 5 ≠ 0 then s.mbxFail cipMibMbx 15
  else
    let v := Cells.get (fun _ => 0) s.cipMib (port * 32 + k)
    let s1 := s.snap cipMibMbx [v % 2 ^ 32, v / 2 ^ 32]
    if op = 1 then { s1 with cipMib := Cells.set (fun _ => 0) s1.cipMib (port * 32 + k) 0 } else s1

/-- R253: a slot shows an uncorrectable error. -/
def State.saEcc (s : State) (k : Nat) : State := (s.saErase k).raise 48 7 k

/-! ### SecTAGs and GCM as IEEE 802.1AE-2018 uses it (log entry 6) -/

/-- The TCI bits of a SecTAG whose first byte stands at byte 12 of a frame. -/
def tci (d : List Byte) (k : Nat) : Bool := nbit (byteAt d 14) k

/-- R254: the number of bytes of a SecTAG. -/
def secTagLen (d : List Byte) : Nat := if tci d 5 then 16 else 8

/-- The bytes of the secure data of a protected frame (its FCS removed), none where SL does not agree with the frame. -/
def secureLen (d : List Byte) : Option Nat :=
  let n := d.length - (12 + secTagLen d)
  let sl := byteAt d 15
  if sl = 0 then (if 48 + 16 ≤ n then some (n - 16) else none)
  else if sl < 48 ∧ sl + 16 ≤ n then some sl else none

/-- R256: the tag check. -/
def tagOk (d : List Byte) : Bool :=
  decide (12 + secTagLen d ≤ d.length) && !tci d 7 && !(tci d 6 && tci d 5) && (secureLen d).isSome && beAt d 16 4 != 0

/-- A 64-bit SCI held in two registers. -/
def State.sciAt (s : State) (lo hi : Nat) : Nat := (s.hw lo).toNat + (s.hw hi).toNat * 2 ^ 32

/-- R256: the receive SC `k` is an enabled SC of a port. -/
def State.rxscOn (s : State) (port k : Nat) : Bool :=
  s.on (CIP_RXSC_CFG.a k) CIP_RXSC_CFG.en && s.f (CIP_RXSC_CFG.a k) CIP_RXSC_CFG.port == port

/-- The SCI of receive SC `k`. -/
def State.rxSci (s : State) (k : Nat) : Nat := s.sciAt (CIP_RXSC_SCI_LO.a k) (CIP_RXSC_SCI_HI.a k)

/-- R256: the receive SC that a SecTAG names. -/
def State.rxscOf (s : State) (port : Nat) (d : List Byte) : Option Nat :=
  let bySci := fun (v : Nat) => (List.range 128).find? (fun k => s.rxscOn port k && s.rxSci k == v)
  if tci d 5 then bySci (beAt d 20 8)
  else if tci d 6 then bySci (beAt d 6 6 * 65536 + 1)
  else
    let k := s.f (CIP_PORT_CFG.a port) CIP_PORT_CFG.imp_sc
    if s.on (CIP_PORT_CFG.a port) CIP_PORT_CFG.imp_en && s.rxscOn port k then some k else none

/-- The PN of a SecTAG; for an XPN SA the high part comes from the SA's next PN. -/
def pnOf (x : SaSlot) (low : Nat) : Nat :=
  if x.xpn then
    let next := max (x.pn + 1) x.lowPn
    let up := next / 2 ^ 32
    (if low < 2 ^ 31 ∧ 2 ^ 31 ≤ next % 2 ^ 32 then up + 1 else up) * 2 ^ 32 + low
  else low

/-- R254: the replay window of a port for an SA. -/
def State.rxWindow (s : State) (port : Nat) (x : SaSlot) : Nat :=
  let w := s.f (CIP_PORT_WIN.a port) CIP_PORT_WIN.window
  if x.xpn then min w (2 ^ 30) else w

/-- R256: the highest PN accepted or pending on slot `k`. -/
def State.pnPending (s : State) (k : Nat) : Nat :=
  s.frames.foldl (fun m f => match f.sec with
    | some y => if f.verd = 1 ∧ y.slot = k then max m y.pn else m
    | none => m) (s.saAt k).pn

/-- The GCM initialisation vector of a frame: SCI and PN, or for XPN the salt and (SSCI, PN). -/
def secIv (x : SaSlot) (sci pn : Nat) : List Byte :=
  if x.xpn then xorBytes x.salt (beBytes 4 x.ssci ++ beBytes 8 pn) else beBytes 8 sci ++ beBytes 4 pn

/-- R254: the bytes in clear before the encrypted part, of `n` bytes of secure data, for a conf_off code. -/
def clearLen (code n : Nat) : Nat := if code = 3 then n else min n ([0, 30, 50].getD code 0)

/-- The plaintext of secure data and whether the ICV agrees, with `c` bytes in clear. -/
def unprotect (x : SaSlot) (iv hdr body icv : List Byte) (c : Nat) : List Byte × Bool :=
  let ct := body.drop c
  (body.take c ++ gcmCrypt x.key iv ct, gcmTag x.key iv (hdr ++ body.take c) ct == icv)

/-- R254: the confidentiality offset that a received frame was protected with: any of the three is accepted. -/
def unprotectAny (x : SaSlot) (iv hdr body icv : List Byte) (enc : Bool) (code : Nat) : List Byte × Bool :=
  if !enc then unprotect x iv hdr body icv body.length
  else
    match ([0, 1, 2].map (fun k => unprotect x iv hdr body icv (clearLen k body.length))).find? (fun r => r.2) with
    | some r => r
    | none => unprotect x iv hdr body icv (clearLen (if code = 3 then 0 else code) body.length)

/-- A received frame after its SecTAG (R256): dropped and counted under a counter, or passed with its tag and plaintext. -/
inductive SecRes where
  | bad (counter : Nat)
  | ok (x : SecRx) (data : List Byte)
deriving DecidableEq, Repr

/-- R256: the three checks of a frame `d` (its FCS removed) received on a port. -/
def State.secCheck (s : State) (port : Nat) (d : List Byte) : SecRes :=
  if !tagOk d then .bad 2
  else
    match (s.rxscOf port d).bind (fun k => s.saBound true k (byteAt d 14 % 4) |>.map (fun j => (k, j))) with
    | none => .bad 3
    | some (sc, k) =>
      let x := s.saAt k
      let pn := pnOf x (beAt d 16 4)
      let replay := s.on (CIP_PORT_CFG.a port) CIP_PORT_CFG.replay_en
      if replay && decide (pn + s.rxWindow port x < s.pnPending k + 1) then .bad 4
      else
        let tl := secTagLen d
        let n := (secureLen d).getD 0
        let body := slice d (12 + tl) n
        let r := unprotectAny x (secIv x (s.rxSci sc) pn) (d.take (12 + tl)) body (slice d (12 + tl + n) 16) (tci d 3)
          (s.f (CIP_PORT_CFG.a port) CIP_PORT_CFG.conf_off)
        .ok ⟨k, pn, tci d 3, r.2 && decide (pn ≤ x.limit), tl⟩ (d.take 12 ++ r.1)

/-- R252: a received PN is in sequence for a port. -/
def State.inSequence (s : State) (port : Nat) (x : SecRx) : Bool :=
  let h := (s.saAt x.slot).pn
  Cells.get (fun _ => 0) s.rxLast port == x.slot + 1 && decide (h < x.pn) && decide (x.pn ≤ h + 4)

/-- R255: what a frame without a SecTAG meets on a MACsec port: its bypass, or a drop; `ety` is its EtherType at ET. -/
def State.bypassed (s : State) (port ety : Nat) : Bool :=
  ety == 0x888e || (ety != 0 && (ety == s.f (CIP_PORT_BYPASS.a port) CIP_PORT_BYPASS.etype0 ||
    ety == s.f (CIP_PORT_BYPASS.a port) CIP_PORT_BYPASS.etype1))

/-- R257: the verdict on a whole frame: 0 pass, 1 ICV mismatch that fails the frame, 2 ICV mismatch forwarded, 3 final
replay check fails. -/
def State.verdictOf (s : State) (port : Nat) (x : SecRx) : Nat :=
  let a := CIP_PORT_CFG.a port
  if !x.icvOk then (if x.enc || !s.on a CIP_PORT_CFG.validate then 1 else 2)
  else if s.on a CIP_PORT_CFG.replay_en && decide (x.pn < (s.saAt x.slot).lowPn) then 3
  else 0

/-- R257: a passed verdict commits the frame's PN, if its slot still holds an SA (R253). -/
def State.pnCommit (s : State) (port : Nat) (x : SecRx) : State :=
  let y := s.saAt x.slot
  let h := max y.pn x.pn
  if !y.valid then s
  else { s.setSa x.slot { y with pn := h, lowPn := max y.lowPn (h + 1 - s.rxWindow port y) } with
    rxLast := Cells.set (fun _ => 0) s.rxLast port (x.slot + 1) }

/-! ### Protection on transmit (R259, R263, R264) -/

/-- R263: slot `k` gives its next PN to a copy. -/
def State.takePn (s : State) (k : Nat) : Nat × State :=
  let x := s.saAt k
  let m := 2 ^ s.f CIP_POOL_CFG.a CIP_POOL_CFG.thr_exp
  let thr := if x.limit < m + 1 then 1 else x.limit - m
  let last : Bool := x.pn == x.limit
  (x.pn, ((s.setSa k { x with pn := x.pn + 1, exh := x.exh || last }).raiseIf (x.pn == thr) 48 3 k).raiseIf last 48 4 k)

/-- R272: AN `an` of a port is usable. -/
def State.anUsable (s : State) (port an : Nat) : Option Nat :=
  match s.saBound false port an with
  | some k => if (s.saAt k).exh then none else some k
  | none => none

/-- R264: no usable encoding SA: the copy is dropped. -/
def State.noSa (s : State) (port : Nat) : State :=
  ((s.setF (CIP_TXSC.a port) CIP_TXSC.no_sa 1).cipInc port 15).raise 48 6 port

/-- R264: the forced changeover of a port from AN `an` to the first usable one of the ANs `l` further on; the slots of the ANs in `bad`
show an uncorrectable error when they are read (R253). -/
def State.changeover (s : State) (port an bad : Nat) : List Nat → Option Nat × State
  | [] => (none, s.noSa port)
  | j :: r =>
    let a := (an + j) % 4
    match s.saBound false port a with
    | none => s.changeover port an bad r
    | some k =>
      if nbit bad a then (s.saEcc k).changeover port an bad r
      else if (s.saAt k).exh then s.changeover port an bad r
      else (some k, (s.setF (CIP_TXSC.a port) CIP_TXSC.enc_an a).raise 48 5 port)

/-- R259, R264, R268: the SA of a copy whose egress edit begins on a port: its slot, or none where the copy is dropped.
The slots of the ANs in `bad` show an uncorrectable error when they are read (R253). -/
def State.encodeSa (s0 : State) (port : Nat) (bad : Nat) : Option Nat × State :=
  let a := CIP_TXSC.a port
  let an := s0.f a CIP_TXSC.enc_an
  let s := match s0.saBound false port an with
    | some k => if nbit bad an then s0.saEcc k else s0
    | none => s0
  if s.on CIP_ALARM_STAT.a CIP_ALARM_STAT.latched then (none, s.cipInc port 16)
  else if s.on a CIP_TXSC.no_sa then (none, s.noSa port)
  else
    match s.saBound false port an with
    | none => (none, s.noSa port)
    | some k =>
      if !(s.saAt k).exh then (some k, s)
      else s.changeover port an bad [1, 2, 3]

/-- R272: a write of CIP_TXSC names an encoding AN: a usable one clears no_sa. -/
def State.txscWritten (s : State) (port : Nat) : State :=
  if (s.anUsable port (s.f (CIP_TXSC.a port) CIP_TXSC.enc_an)).isSome then s.setF (CIP_TXSC.a port) CIP_TXSC.no_sa 0 else s

/-- R259: a frame (without FCS) protected under slot data `x` with configuration `cfg`, SCI, AN and PN. -/
def protect (x : SaSlot) (cfg : Word) (sci pn : Nat) (d : List Byte) : List Byte :=
  let sc := fldGet cfg CIP_PORT_CFG.include_sci
  let off := fldGet cfg CIP_PORT_CFG.conf_off
  let body := d.drop 12
  let n := body.length
  let t := fldGet cfg CIP_PORT_CFG.use_es * 64 + sc * 32 + (if off = 3 then 0 else 12) + x.an
  let tag := beBytes 2 0x88e5 ++ [BitVec.ofNat 8 t, BitVec.ofNat 8 (if n < 48 then n else 0)] ++
    beBytes 4 (pn % 2 ^ 32) ++ (if sc = 1 then beBytes 8 sci else [])
  let hdr := d.take 12 ++ tag
  let c := clearLen off n
  let iv := secIv x sci pn
  let ct := gcmCrypt x.key iv (body.drop c)
  hdr ++ body.take c ++ ct ++ gcmTag x.key iv (hdr ++ body.take c) ct

/-- R272: the counters of a protected copy of `n` bytes of user data. -/
def State.protCount (s : State) (port n : Nat) (cfg : Word) : State :=
  if fldGet cfg CIP_PORT_CFG.conf_off = 3 then (s.cipInc port 11).cipAdd port 13 n
  else (s.cipInc port 12).cipAdd port 14 n

/-! ### Alarms and key erase (R266 to R269) -/

/-- The bits of the alarm sources that are enabled. -/
def State.alarmEn (s : State) : Nat := nbits (s.hw CIP_ALARM_CFG.a).toNat 3 0 + 16

/-- R268: a copy on its way under an SA ends at once. -/
def State.eraseCopy (s : State) (c : Copy) : State :=
  let f := s.frame c.fid
  let dec := f.verd == 1 && f.sec.isSome
  let port := if c.port < 24 then c.port else f.port
  if (c.st != 0 && (c.slot.isSome || dec)) then (((s.cipInc port 16).cutShort c.port).copyGone c).laneNote c.port
  else if dec then (s.cipInc port 16).copyGone c
  else s

/-- R268: a frame being decrypted ends. -/
def State.eraseFrame (s : State) (f : Frame) : State :=
  if f.verd = 1 ∧ f.sec.isSome = true then (s.setFrame { f with verd := 0, sec := none }).frameDrop f.id else s

/-- R270: the status of a job: its bytes 24 to 27 in Carr SRAM, and EV52 where the job asks for it. -/
def State.jobStatus (s : State) (j : CJob) (code : Nat) : State :=
  let a := s.f CIP_CJOB_BASE.a CIP_CJOB_BASE.base + 32 * j.idx + 24
  ({ s with sram := memPut (fun _ => 0#8) s.sram a (leBytes 4 (2 ^ 31 + code)) }).raiseIf (nbit (byteAt j.desc 1) 0) 52 2
    j.idx

/-- R267, R268, R271: what a key erase does. -/
def State.erase (s : State) : State :=
  let s1 := s.cjobs.foldl (fun u j => u.jobStatus j 5) { s with cjobs := [] }
  let s2 := s1.copies.foldl (fun u c => u.eraseCopy c) s1
  let s3 := s2.frames.foldl (fun u f => u.eraseFrame f) s2
  { s3 with sa := [], rxLast := [], eraseBad := false }.setF CIP_ALARM_STAT.a CIP_ALARM_STAT.erasing 1

/-- R266, R267, 18 R429: alarm source `k` becomes active (in FEN the pin alone is watched); an enabled one starts a key erase. `stays` says that it remains active. -/
def State.alarmActive (s : State) (k : Nat) (stays : Bool) : State :=
  let a := CIP_ALARM_STAT.a
  let act := s.f a CIP_ALARM_STAT.active
  let s1 := if stays then s.setF a CIP_ALARM_STAT.active (act ||| 2 ^ k) else s
  if nbit act k || s.jtag.held || (k != 0 && !s.powered) then s
  else if nbit s.alarmEn k then
    let s2 := if s1.on a CIP_ALARM_STAT.latched then s1 else s1.setF a CIP_ALARM_STAT.first_src k
    ((s2.setF a CIP_ALARM_STAT.latched 1).raiseAon 49 1 k).erase
  else s1

/-- R269: alarm source `k` stops being active. -/
def State.alarmInactive (s : State) (k : Nat) : State :=
  let act := s.f CIP_ALARM_STAT.a CIP_ALARM_STAT.active
  s.setF CIP_ALARM_STAT.a CIP_ALARM_STAT.active (act - (if nbit act k then 2 ^ k else 0))

/-- R269: a write of 1 to latched. -/
def State.alarmClear (s : State) : State :=
  if s.f CIP_ALARM_STAT.a CIP_ALARM_STAT.active &&& s.alarmEn = 0 then s.setF CIP_ALARM_STAT.a CIP_ALARM_STAT.latched 0
  else s

/-- R267: the read-back confirms the zeros, or finds a non-zero word in a bank (`bad`), which is overwritten and read again. -/
def State.eraseDone (s : State) (bad : Bool) : State :=
  if s.on CIP_ALARM_STAT.a CIP_ALARM_STAT.erasing then
    (if bad then { s with eraseBad := true }
     else ({ s with eraseBad := false }.setF CIP_ALARM_STAT.a CIP_ALARM_STAT.erasing 0).raise 49 2 0)
  else s

/-! ### Carr jobs (R270, R271) -/

/-- 14: the bytes of Carr SRAM. -/
def sramBase : Nat := 0x10000000
def sramEnd : Nat := 0x10400000

/-- A range of Carr SRAM. -/
def inSram (a n : Nat) : Bool := decide (sramBase ≤ a) && decide (a + n ≤ sramEnd)

/-- 14 R324: the base of the LPDDR5X. -/
def dramBase : Nat := 0x800000000

/-- 14 R342: a range of the usable LPDDR5X. -/
def inDram (a n : Nat) : Bool := decide (dramBase ≤ a) && decide (a + n ≤ dramBase + Config.memUsable)

/-- `n` bytes of Carr SRAM. -/
def State.sramRead (s : State) (a n : Nat) : List Byte := memBytes (fun _ => 0#8) s.sram a n

/-- A reservation on one of the `n` bytes at `a` ends: another initiator than Carr has written them. -/
def State.lrEnd (s : State) (a n : Nat) : State :=
  let k := s.carr
  { s with carr := { k with lr := k.lr.filter (fun x => !(decide (a < x + 8) && decide (x < a + n))) } }

/-- Bytes that another initiator than Carr writes to Carr SRAM; a reservation on one of them ends. -/
def State.sramWrite (s : State) (a : Nat) (l : List Byte) : State :=
  { s with sram := memPut (fun _ => 0#8) s.sram a l }.lrEnd a l.length

/-- 14 R342: an uncorrectable error at a usable-space address, read for 0 Carr, 1 Peat, 2 PCIe. -/
def State.memError (s : State) (who addr : Nat) : State :=
  let s1 := s.bump MEM_ECC_CNT.a MEM_ECC_CNT.uncorr
  let s2 := if fldGet (s.reg MEM_ECC_ADDR.a) MEM_ECC_ADDR.valid = 1 then s1
    else s1.setFs MEM_ECC_ADDR.a [(MEM_ECC_ADDR.valid, 1), (MEM_ECC_ADDR.addr, addr / 64)]
  s2.raise 53 1 who

/-- 14 R341: an uncorrectable error in a bank of Carr SRAM. -/
def State.sramError (s : State) (bank : Nat) : State := (s.bump CPX_SRAM_ECC.a CPX_SRAM_ECC.uncorr).raise 54 1 bank

/-- 12 R297: a range of Carr's memory: Carr SRAM or the usable LPDDR5X. -/
def inCarr (a n : Nat) : Bool := inSram a n || inDram a n

/-- `n` bytes of Carr's memory. -/
def State.carrRead (s : State) (a n : Nat) : List Byte :=
  if inSram a n then s.sramRead a n else memBytes (fun _ => 0#8) s.dram (a - dramBase) n

/-- Bytes that the device writes to Carr's memory. -/
def State.carrWrite (s : State) (a : Nat) (l : List Byte) : State :=
  if inSram a l.length then s.sramWrite a l
  else if inDram a l.length then { s with dram := memPut (fun _ => 0#8) s.dram (a - dramBase) l }.lrEnd a l.length
  else s

/-- R270: the pool starts the job at CIP_CJOB_HEAD, if its op is `op` and fewer than 16 jobs run. -/
def State.jobStart (s : State) (op : Nat) : State :=
  let h := s.f CIP_CJOB_HEAD.a CIP_CJOB_HEAD.head
  let n := s.f CIP_CJOB_SIZE.a CIP_CJOB_SIZE.size
  let d := s.sramRead (s.f CIP_CJOB_BASE.a CIP_CJOB_BASE.base + 32 * h) 32
  if h ≠ s.f CIP_CJOB_TAIL.a CIP_CJOB_TAIL.tail ∧ s.cjobs.length < 16 ∧ byteAt d 0 = op ∧
      s.on CIP_ALARM_STAT.a CIP_ALARM_STAT.erasing = false then
    let s1 : State := { s with cjobs := s.cjobs ++ [CJob.mk h d] }
    s1.setF CIP_CJOB_HEAD.a CIP_CJOB_HEAD.head
      (if n = 0 then h + 1 else (h + 1) % n)
  else s

/-- R271: an unwrap installs the key it has unwrapped; salt, SSCI and pn_limit, which no rule gives, are open. -/
def State.unwrapInto (s : State) (j : CJob) (key : List Byte) : State × Nat :=
  let dst := leNat (slice j.desc 8 4)
  let k := dst % 512
  let arg := nbits dst 24 16
  let x := s.saAt k
  let big := nbit arg 1
  let kind := nbits arg 3 2
  if s.on CIP_ALARM_STAT.a CIP_ALARM_STAT.latched then (s, 5)
  else if x.valid ∨ kind = 3 ∨ 16 ≤ arg then (s, 2)
  else if key.length ≠ (if big then 32 else 16) then (s, 4)
  else
    let v := s.fresh
    let w := v.2.fresh
    let xpn := nbit arg 0
    (w.2.saInstall k
      { xpn := xpn, aes256 := big, kind := kind, key := key
        salt := if xpn then beBytes 12 (v.1.toNat % 2 ^ 96) else List.replicate 12 0#8
        ssci := if xpn then v.1.toNat / 2 ^ 96 else 0
        pn := 1, limit := if xpn then max 1 (w.1.toNat % 2 ^ 64) else max 1 (w.1.toNat % 2 ^ 32) }, 0)

/-- R270: the outcome of a job: the state after it and its status code. -/
def State.jobRun (s : State) (j : CJob) : State × Nat :=
  let d := j.desc
  let op := byteAt d 0
  let x := s.saAt (leNat (slice d 2 2) % 512)
  let src := leNat (slice d 4 4)
  let dst := leNat (slice d 8 4)
  let n := leNat (slice d 12 4)
  let aadN := leNat (slice d 16 4)
  let p := leNat (slice d 20 4)
  if 512 ≤ leNat (slice d 2 2) ∨ x.valid = false ∨ x.retiring = true ∨ x.kind ≠ 2 then (s, 2)
  else if 65536 < n ∨ inSram src n = false then (s, 3)
  else if op = 1 then
    (if inSram dst 16 then (s.sramWrite dst (aesCmac x.key (s.sramRead src n)), 0) else (s, 3))
  else if op = 2 then
    (if inSram p 16 then (s, if aesCmac x.key (s.sramRead src n) = s.sramRead p 16 then 0 else 1) else (s, 3))
  else if op = 3 then
    (if inSram src (aadN + n) && inSram dst (n + 16) && inSram p 12 then
      let iv := s.sramRead p 12
      let ct := gcmCrypt x.key iv (s.sramRead (src + aadN) n)
      (s.sramWrite dst (ct ++ gcmTag x.key iv (s.sramRead src aadN) ct), 0)
     else (s, 3))
  else if op = 4 then
    (if inSram src (aadN + n + 16) && inSram dst n && inSram p 12 then
      let iv := s.sramRead p 12
      let ct := s.sramRead (src + aadN) n
      if gcmTag x.key iv (s.sramRead src aadN) ct = s.sramRead (src + aadN + n) 16 then
        (s.sramWrite dst (gcmCrypt x.key iv ct), 0)
      else (s, 1)
     else (s, 3))
  else match aesUnwrap x.key (s.sramRead src n) with
    | none => (s, 4)
    | some key => s.unwrapInto j key

/-- R270: the job whose ring index is `i` completes; `bad` says that its key slot shows an uncorrectable error (R253). -/
def State.jobDone (s : State) (i : Nat) (bad : Bool) : State :=
  match s.cjobs.find? (fun j => j.idx == i) with
  | none => s
  | some j =>
    let s1 : State := { s with cjobs := s.cjobs.filter (fun x => x.idx != i) }
    let k := leNat (slice j.desc 2 2)
    let s2 := if bad && decide (k < 512) && (s1.saAt k).valid then s1.saEcc k else s1
    let r := s2.jobRun j
    r.1.jobStatus j r.2

/-! ### The commands that no software access issues -/

/-- SA_RETIRE_DONE (R262). -/
def execSaRetireDone (k : Fin 512) (s : State) : Host.Outcome State Fault Refusal := .next (s.live (s.saRetired k.val))

/-- ALARM_IN (R266): ALARM_IN_n has been held low for 100 ns. -/
def execAlarmIn (s : State) : Host.Outcome State Fault Refusal := .next (s.alarmActive 0 true)

/-- SUPPLY_GLITCH (R266). -/
def execSupplyGlitch (s : State) : Host.Outcome State Fault Refusal := .next (s.alarmActive 1 true)

/-- CLOCK_MONITOR_ALARM (R266). -/
def execClockMonitorAlarm (s : State) : Host.Outcome State Fault Refusal := .next (s.alarmActive 2 true)

/-- ALARM_SOURCE_INACTIVE (R269): of the pin, the supply or the clock monitor. -/
def execAlarmSourceInactive (k : Fin 3) (s : State) : Host.Outcome State Fault Refusal := .next (s.live (s.alarmInactive k.val))

/-- ERASE_DONE (R267): the read-back ends; `bad` is the bank in which it finds a non-zero word. -/
def execEraseDone (bad : Option (Fin 16)) (s : State) : Host.Outcome State Fault Refusal := .next (s.live (s.eraseDone bad.isSome))

/-- CJOB_CMAC_GENERATE (R270). -/
def execCjobCmacGenerate (s : State) : Host.Outcome State Fault Refusal := .next (s.live (s.jobStart 1))

/-- CJOB_CMAC_VERIFY (R270). -/
def execCjobCmacVerify (s : State) : Host.Outcome State Fault Refusal := .next (s.live (s.jobStart 2))

/-- CJOB_GCM_ENCRYPT (R270). -/
def execCjobGcmEncrypt (s : State) : Host.Outcome State Fault Refusal := .next (s.live (s.jobStart 3))

/-- CJOB_GCM_DECRYPT (R270). -/
def execCjobGcmDecrypt (s : State) : Host.Outcome State Fault Refusal := .next (s.live (s.jobStart 4))

/-- CJOB_KEY_UNWRAP (R271). -/
def execCjobKeyUnwrap (s : State) : Host.Outcome State Fault Refusal := .next (s.live (s.jobStart 5))

/-- CJOB_COMPLETE (R270): of the job with ring index `j`. -/
def execCjobComplete (j : Fin 1024) (bad : Bool) (s : State) : Host.Outcome State Fault Refusal :=
  .next (s.live (s.jobDone j.val bad))

end Sys2Proof.Machine
end

