-- ==== Sys2Proof/Machine/Frer.lean ====
section
/-! DEFINITION. FRER (chapter 15, R346 to R356): recovery, generation, withdrawal and latent errors of a stream. -/

namespace Sys2Proof.Machine

/-- The record of a stream. -/
def State.fr (s : State) (k : Nat) : FreSt := Cells.get (fun _ => {}) s.fre k

/-- The state with the record of a stream set. -/
def State.setFr (s : State) (k : Nat) (x : FreSt) : State := { s with fre := Cells.set (fun _ => {}) s.fre k x }

/-- R354: the counts of a stream since its last latent reset: passed, discarded, withdrawn. -/
def FreSt.since (x : FreSt) : List Int :=
  [(x.cnt.getD 0 0 : Nat) - x.base.getD 0 0, (x.cnt.getD 1 0 : Nat) - x.base.getD 1 0, (x.cnt.getD 7 0 : Nat) - x.base.getD 2 0]

/-- R352: those counts as they stood before tick `now`. -/
def FreSt.before (x : FreSt) (now : Nat) : List Int := if x.wasAt = now then x.was else x.since

/-- R355: counter `j` of a stream advanced by `n`, saturating. -/
def State.frBump (s : State) (k j n : Nat) : State :=
  let x := s.fr k
  s.setFr k { x with cnt := setAt x.cnt j (satTo 0xffffffff (x.cnt.getD j 0 + n)), was := x.before s.now, wasAt := s.now }

/-- R349: H. -/
def State.histLen (s : State) (k : Nat) : Nat := s.f (FRE_STR_CFG.a k) FRE_STR_CFG.hist_len + 1

/-- The zero bits of `h` among bits `lo` to `lo + n - 1`. -/
def zeroBits (h lo n : Nat) : Nat := ((List.range n).filter (fun j => !nbit h (lo + j))).length

/-- R349: a frame passes with the record and rsn as given. -/
def State.frPass (s : State) (k rsn hist : Nat) : State :=
  let s1 := s.setFr k { s.fr k with hist := hist % 2 ^ 64, lastPass := some s.now }
  (s1.setFs (FRE_STR_STAT.a k) [(FRE_STR_STAT.rsn, rsn), (FRE_STR_STAT.take_any, 0)]).frBump k 0 1

/-- R349: recovery of a frame of stream `k` with its sequence number: whether it passes, and the state committed. -/
def State.recover (s : State) (k : Nat) (seq : Option Nat) : Bool × State :=
  match seq with
  | none => if s.on (FRE_STR_CFG.a k) FRE_STR_CFG.take_no_seq then (true, s.frBump k 0 1) else (false, s.frBump k 4 1)
  | some q =>
    let w := s.reg (FRE_STR_STAT.a k)
    let rsn := fldGet w FRE_STR_STAT.rsn
    let h := (s.fr k).hist
    let n := s.histLen k
    let d := sint 16 (q + 65536 - rsn)
    if fldGet w FRE_STR_STAT.take_any = 1 then (true, s.frPass k q 1)
    else if (n : Int) ≤ d ∨ d ≤ -(n : Int) then (false, s.frBump k 3 1)
    else if 0 < d then
      let m := d.toNat
      (true, (s.frPass k q (h * 2 ^ m + 1)).frBump k 5 (zeroBits h (n - m) m))
    else if nbit h (-d).toNat then (false, s.frBump k 1 1)
    else (true, (s.frPass k rsn (h + 2 ^ (-d).toNat)).frBump k 2 1)

/-- R353: the stream's next generated number. -/
def State.frGen (s : State) (k : Nat) : Nat × State :=
  let x := s.fr k
  (x.genSeq, s.setFr k { x with genSeq := (x.genSeq + 1) % 65536 })

/-- R351: the acceptance of a frame is withdrawn. -/
def State.frWithdraw (s : State) (k : Nat) (seq : Option Nat) : State :=
  let x := s.fr k
  let s1 := match seq with
    | none => s
    | some q =>
      let j := (fldGet (s.reg (FRE_STR_STAT.a k)) FRE_STR_STAT.rsn + 65536 - q) % 65536
      if j < s.histLen k ∧ nbit x.hist j = true then s.setFr k { x with hist := x.hist - 2 ^ j } else s
  s1.frBump k 7 1

/-- R350: no frame of a stream has passed for reset_ms; a frame that passes on the tick of the expiry wins (R352). -/
def State.frReset (s : State) (k : Nat) : State :=
  let x := s.fr k
  let ms := max 1 (s.f FRE_CFG.a FRE_CFG.reset_ms)
  match x.lastPass with
  | none => s
  | some t =>
    if s.on (FRE_STR_CFG.a k) FRE_STR_CFG.rcv_en && decide (t + msTicks ms < s.now) then
      (((s.setFr k { x with hist := 0, lastPass := none }).setF (FRE_STR_STAT.a k) FRE_STR_STAT.take_any 1).frBump k 6 1).raise
        46 2 k
    else s

/-- R350, R353: a write of FRE_STR_CFG. -/
def State.frCfgChanged (s : State) (k : Nat) (old : Word) : State :=
  let w := s.reg (FRE_STR_CFG.a k)
  let s1 := if fldGet old FRE_STR_CFG.rcv_en = 0 ∧ fldGet w FRE_STR_CFG.rcv_en = 1 then
      (s.setFr k { s.fr k with lastPass := none }).setF (FRE_STR_STAT.a k) FRE_STR_STAT.take_any 1 else s
  if fldGet old FRE_STR_CFG.gen_en = 0 ∧ fldGet w FRE_STR_CFG.gen_en = 1 then s1.setFr k { s1.fr k with genSeq := 0 } else s1

/-- R354: a latent test falls due in the ticks after `t` up to `now`, with period `p` and offset `o`. -/
def testDue (p o t now : Nat) : Bool :=
  decide (o ≤ now) && (decide (t < o) || decide ((t - o) / p < (now - o) / p))

/-- R354: the latent-error test of a stream, over the counts from before the tick (R352). -/
def State.latTest (s : State) (k : Nat) : State :=
  let x := s.fr k
  let p := msTicks (max 1 (s.f FRE_CFG.a FRE_CFG.lat_period))
  if s.on (FRE_STR_CFG.a k) FRE_STR_CFG.lat_en && testDue p (k * p / 1024) x.testAt s.now then
    let c := x.before s.now
    let paths := max 2 (s.f (FRE_STR_CFG.a k) FRE_STR_CFG.paths)
    let diff := (c.getD 0 0 - c.getD 2 0) * ((paths - 1 : Nat) : Int) - c.getD 1 0
    let s1 := s.setFr k { x with testAt := s.now }
    if ((s.f (FRE_STR_CFG.a k) FRE_STR_CFG.lat_diff : Nat) : Int) < diff then
      (s1.setF (FRE_STR_STAT.a k) FRE_STR_STAT.latent 1).raise 46 1 k
    else s1
  else s

/-- R354: the baseline of a stream starts again at its current counts. -/
def State.latBase (s : State) (k : Nat) : State :=
  let x := s.fr k
  if x.baseAt + msTicks (1000 * max 1 (s.f FRE_LAT_RESET.a FRE_LAT_RESET.lat_reset)) ≤ s.now then
    s.setFr k { x with baseAt := s.now, base := [((x.cnt.getD 0 0 : Nat) : Int), ((x.cnt.getD 1 0 : Nat) : Int),
                  ((x.cnt.getD 7 0 : Nat) : Int)] }
  else s

/-- The FRE_SCNT mailbox. -/
def freScnt : Nat := 0x1007f40

/-- R355: a FRE_SCNT request; cleared counters keep the counts since the latent reset. -/
def State.freReq (s : State) (op arg : Nat) : State :=
  if 1 < op ∨ 1024 ≤ arg then s.mbxFail freScnt 15
  else
    let x := s.fr arg
    let s1 := s.snap freScnt x.cnt
    if op = 1 then
      s1.setFr arg { x with cnt := [0, 0, 0, 0, 0, 0, 0, 0], base := x.since.map (fun v => -v) }
    else s1

/-! ### The commands that no software access issues -/

/-- RECOVERY_RESET (R350). -/
def execRecoveryReset (k : Fin 1024) (s : State) : Host.Outcome State Fault Refusal := .next (s.live (s.frReset k.val))

/-- LATENT_TEST (R354). -/
def execLatentTest (k : Fin 1024) (s : State) : Host.Outcome State Fault Refusal := .next (s.live (s.latTest k.val))

/-- LATENT_BASELINE_RESET (R354). -/
def execLatentBaselineReset (k : Fin 1024) (s : State) : Host.Outcome State Fault Refusal := .next (s.live (s.latBase k.val))

end Sys2Proof.Machine
end

