-- ==== Sys2Proof/Machine/Merge.lean ====
section
/-! DEFINITION. The lookups of a frame and the merge (07 R155, R167; 08 R173, R176, R180, R184; 09 R197; 10 R235, R238;
15 R347 to R353): from a parsed frame to its resolved action and its admission. -/

namespace Sys2Proof.Machine

/-- The pipeline that serves a frame. -/
def Frame.pipe (f : Frame) : Nat := if f.pass = 1 then 1 else pipeOf f.port

/-- The destination and source MAC of a frame, the first byte on the wire most significant. -/
def Frame.dst (f : Frame) : Nat := beAt f.data 0 6
def Frame.src (f : Frame) : Nat := beAt f.data 6 6

/-- 15 R348: the number in a frame's R-TAG. -/
def rtagSeq (r : ParseRes) (data : List Byte) : Option Nat :=
  if r.ety = 0xf1c1 then parseRd data (baseET r.tags + 4) 2 else none

/-- 08 R176: the flow key of a kind that a frame forms. -/
def flowKey (r : ParseRes) (kind : Nat) (data : List Byte) : Option (Nat × Nat × Nat) :=
  if kind = 3 then
    let l3 := baseET r.tags + 2
    if r.kind = 1 ∧ r.exc = 0 then
      match parseRd data (l3 + 16) 4, parseRd data (l3 + 12) 4, parseRd data (l3 + 9) 1 with
      | some da, some sa, some pr =>
        if pr = 6 ∨ pr = 17 then (parseRd data (l3 + 22) 2).map (fun q => (da, sa, pr * 65536 + q))
        else some (da, sa, pr * 65536)
      | _, _, _ => none
    else none
  else
    let m := beAt data (if kind = 1 then 0 else 6) 6
    some (m % 2 ^ 32, r.vid * 65536 + m / 2 ^ 32, 0)

/-- 08 R173, R176: the flow lookup with the settings of port `inPort`: whether a lookup was made, and its hit. -/
def State.flowLookup (s : State) (p inPort : Nat) (r : ParseRes) (data : List Byte) : Bool × Option FlwEnt :=
  let kind := s.f (FLW_PORT_CFG.a p inPort) FLW_PORT_CFG.key_kind
  if kind = 0 then (false, none)
  else
    (true, match flowKey r kind data with
      | none => none
      | some (w1, w2, w3) => (s.flwFind p kind w1 w2 w3).bind (fun l => s.flwAt p l))

/-- Where a frame goes (09 R197 steps 2 to 4): `stage` 4 is a drop, `miss` its count in `miss_drop`, `mode` 1 a port, 2 a
group, 3 a mask; `lost` the ports charged with the copies of groups that have no active member (R216). -/
structure DestRes where
  stage : Nat := 0
  miss : Bool := false
  copy24 : Bool := false
  mode : Nat := 0
  dest : Nat := 0
  lost : List Nat := []
deriving DecidableEq, Repr

/-- 09 R197 step 4: a mask without the ingress port, its group and the ports outside the VLAN. -/
def State.pruneMask (s : State) (inPort mem m : Nat) : Nat :=
  portMask ((maskPorts m).filter (fun n => n != inPort && !((s.lagPeers inPort).contains n) && (decide (24 ≤ n) || nbit mem n)))

/-- 09 R197 step 4: the destination of a frame (as the parser found it, with its bytes) after pruning; the groups of a mask are
reduced. -/
def State.prune (s : State) (r : ParseRes) (data : List Byte) (inPort mem : Nat) (copy24 : Bool) (mode d : Nat) : DestRes :=
  let peers := s.lagPeers inPort
  if mode = 1 then
    (if d = inPort ∨ peers.contains d = true ∨ 28 ≤ d then
      (if copy24 then { copy24 := true } else { stage := 4, miss := true })
     else { copy24 := copy24, mode := 1, dest := d })
  else if mode = 2 then
    (if (s.lagMembers d).contains inPort then (if copy24 then { copy24 := true } else { stage := 4, miss := true })
     else { copy24 := copy24, mode := 2, dest := d })
  else
    let m := s.lagReduce r data (s.pruneMask inPort mem d)
    if m.1 = 0 then (if copy24 then { copy24 := true, lost := m.2 } else { stage := 4, miss := true, lost := m.2 })
    else { copy24 := copy24, mode := 3, dest := m.1, lost := m.2 }

/-- 08 R184, 09 R197: the destination of a frame; `hit` is the dest field of its FDB hit. -/
def State.destOf (s : State) (p inPort vid : Nat) (r : ParseRes) (data : List Byte) (c : ClsRes) (hit : Option Nat) : DestRes :=
  let cfg := FDB_VLAN_CFG.a p vid
  let mem := s.f (FDB_VLAN_MEM.a p vid) FDB_VLAN_MEM.members
  if s.on cfg FDB_VLAN_CFG.filter && !nbit mem inPort then { stage := 4, miss := true, copy24 := c.copy }
  else if c.trap then s.prune r data inPort mem c.copy 1 24
  else if c.recirc then s.prune r data inPort mem c.copy 1 27
  else match c.redir with
    | some n => s.prune r data inPort mem c.copy 1 n
    | none =>
      match hit with
      | some d =>
        if d / 128 = 0 then s.prune r data inPort mem c.copy 1 (d % 32)
        else if d / 128 = 1 then s.prune r data inPort mem c.copy 2 (d % 8)
        else if d / 128 = 2 then s.prune r data inPort mem c.copy 3 (s.f (FDB_MGRP.a p (d % 128)) FDB_MGRP.ports)
        else { stage := 4, copy24 := c.copy }
      | none =>
        let miss := s.f cfg FDB_VLAN_CFG.miss
        if miss = 1 then { stage := 4, miss := true, copy24 := c.copy }
        else if miss = 2 then s.prune r data inPort mem c.copy 1 24
        else s.prune r data inPort mem (c.copy || miss == 3) 3 mem

/-- 09 R197 step 5: the traffic class. -/
def State.mergeTc (s : State) (c : ClsRes) (e : Option FlwEnt) (inPort pcp : Nat) : Nat :=
  match c.tc with
  | some t => t
  | none =>
    match e with
    | some x => if nbit x.d5 27 then nbits x.d5 26 24 else nbits (s.f (QM_PORT_PCPMAP.a inPort) QM_PORT_PCPMAP.map) (3 * pcp + 2) (3 * pcp)
    | none => nbits (s.f (QM_PORT_PCPMAP.a inPort) QM_PORT_PCPMAP.map) (3 * pcp + 2) (3 * pcp)

/-- 09 R197 step 6: the mirror sessions. -/
def State.mergeMir (s : State) (c : ClsRes) (e : Option FlwEnt) (inPort pass : Nat) : Nat :=
  let rx := QM_PORT_MIR.a inPort
  (if pass = 0 ∧ s.on rx QM_PORT_MIR.rx_en = true then 2 ^ s.f rx QM_PORT_MIR.rx_sess else 0) ||| c.mir |||
  (match e with
    | some x => if nbit x.d5 31 then 2 ^ nbits x.d5 30 28 else 0
    | none => 0)

/-- 10 R238: a frame whose hint exceeds max_sdu. -/
def sduHint (e : Option FlwEnt) (r : ParseRes) : Bool :=
  match e, r.hint with
  | some x, some h => x.d5 % 2 ^ 14 != 0 && decide (x.d5 % 2 ^ 14 < h)
  | _, _ => false

/-- 09 R196: the fields of the resolved action that do not depend on a drop. -/
def baseAct (f : Frame) (r : ParseRes) (c : ClsRes) (e : Option FlwEnt) : Act :=
  { exc := r.exc, tpl := r.tpl, rule := c.rule, pat := c.pat
    frer := e.any (fun x => nbit x.d4 31)
    stream := (e.map (fun x => nbits x.d4 25 16)).getD 0
    maxSdu := (e.map (fun x => x.d5 % 2 ^ 14)).getD 0
    inPort := f.inPort, pass := f.pass, macsec := f.sec.isSome, pcp := r.pcp, vid := r.vid }

/-- 10 R235: the Weir test at the merge; the state where the frame conforms, the meter it charged, or the drop. -/
def State.weir (s : State) (f : Frame) (r : ParseRes) (e : Option FlwEnt) : Bool × Option (Nat × Nat) × State :=
  match e with
  | none => (true, none, s)
  | some x =>
    if f.pass = 1 ∨ nbit x.d4 15 = false then (true, none, s)
    else
      let p := f.pipe
      let m := x.d4 % 2048
      let n := if f.ended then f.len else r.hint.getD 64
      let t := s.meterTest p m n
      if t.1 then (true, if s.on (POL_METER_CFG.a p m) POL_METER_CFG.en then some (p * 2048 + m, n) else none, t.2)
      else (false, none, t.2)

/-- 15 R349, R353: recovery, Weir and generation of a frame that no earlier stage has dropped: the stage that drops it (0
for none), and the state with the frame's record of them. -/
def State.flowStage (s : State) (id : Nat) (r : ParseRes) (e : Option FlwEnt) : Nat × State :=
  let f := s.frame id
  let a := baseAct f r { rule := none, pat := none, stage := 0, cause := 0, limit := false, bad := [], trap := false,
                         copy := false, recirc := false, redir := none, tc := none, mir := 0, cnt := [] } e
  let k := a.stream
  let seq := rtagSeq r f.data
  let rcv := a.frer && f.pass == 0 && s.on (FRE_STR_CFG.a k) FRE_STR_CFG.rcv_en
  let v := s.recover k seq
  if rcv && !v.1 then (5, v.2)
  else
    let w := s.weir f r e
    if !w.1 then (6, w.2.2)
    else
      let s1 := if rcv then (w.2.2.recover k seq).2 else w.2.2
      let g := if a.frer && s.on (FRE_STR_CFG.a k) FRE_STR_CFG.gen_en && f.seqGen.isNone then s1.frGen k else (0, s1)
      let gen := if a.frer && s.on (FRE_STR_CFG.a k) FRE_STR_CFG.gen_en && f.seqGen.isNone then some g.1 else f.seqGen
      (0, g.2.setFrame { f with meter := w.2.1, seqIn := seq, seqGen := gen, accepted := rcv })

/-- The events and counters of Reedbed and Sedge (07 R158, R159, R162). -/
def State.clsNote (s : State) (p : Nat) (f : Frame) (c : ClsRes) : State :=
  let s1 := c.cnt.foldl (fun u k => u.ruleCount p f.len k) s
  let s2 := c.bad.foldl (fun u k => u.raise (41 + p) 0x26 k) s1
  s2.raiseIf c.limit (41 + p) 0x27 f.inPort

/-- R216: the copies of groups without an active member counted. -/
def State.lagLost (s : State) (l : List Nat) : State := l.foldl (fun u n => u.bump (QM_ADM_DROP.a n) QM_ADM_DROP.count) s

/-- 09 R197 step 1: the first stage before flow that drops the frame, with what it counts. -/
def State.earlyStage (s : State) (p : Nat) (f : Frame) (r : ParseRes) (c : ClsRes) (d : DestRes) : Nat × State :=
  let s1 := if r.hintBad then
      (if r.exc = 7 then s.clsDrop p 3 else (s.clsDrop p 3).excCount p 7).raise (41 + p) 0x20 f.inPort
    else if f.code = 7 then s.clsDrop p 3
    else if f.code = 8 then s.clsDrop p 4
    else s
  if f.code ≠ 0 ∨ r.hintBad = true then (1, s1)
  else if c.stage ≠ 0 then (c.stage, s1.clsDrop p c.cause)
  else if d.stage ≠ 0 then (4, (if d.miss then s1.bump (FDB_CNT.a p 8) FDB_CNT.count else s1).lagLost d.lost)
  else (0, s1)

/-- 09 R197: a frame dropped by `stage`. -/
def State.mergeDrop (s : State) (id stage : Nat) (a : Act) : State :=
  (s.setFrame { s.frame id with act := { a with drop := true, stage := stage } }).frameDrop id

/-- 08 R180: the learning request of a frame. -/
def State.learnReq (s : State) (p : Nat) (f : Frame) (vid : Nat) (due : Bool) : State :=
  if due && f.pass == 0 && s.learnOn p f.inPort vid && !nbit (f.src / 2 ^ 40) 0 && f.src != 0 then
    s.learnPush p ⟨f.src, vid, f.inPort, s.learnDest p f.inPort⟩
  else s

/-- 09 R197, R216: the ports that a destination stands for. -/
def State.destPorts (s : State) (r : ParseRes) (data : List Byte) (d : DestRes) : List Nat × State :=
  let base : List Nat × State :=
    if d.mode = 1 then ([d.dest], s)
    else if d.mode = 2 then
      match s.lagPick d.dest r data with
      | some n => ([n], s)
      | none => ([], s.bump (QM_ADM_DROP.a (s.f (QM_LAG_CFG.a d.dest) QM_LAG_CFG.m0)) QM_ADM_DROP.count)
    else if d.mode = 3 then (maskPorts d.dest, s)
    else ([], s)
  if d.copy24 ∧ base.1.contains 24 = false then (base.1 ++ [24], base.2) else base

/-- The merge of a frame that no stage has dropped, and its admission (09 R197, R199); `bad` says that a finding has already
reached the frame. -/
def State.mergePass (s : State) (id p : Nat) (r : ParseRes) (c : ClsRes) (d : DestRes) (e : Option FlwEnt) (src bad : Bool) :
    State :=
  let f := s.frame id
  let a := baseAct f r c e
  let recirc := c.recirc && d.mode == 1 && d.dest == 27
  let x := (s.lagLost d.lost).destPorts r f.data d
  let act := { a with
    copy24 := d.copy24, recirc := recirc, tc := s.mergeTc c e f.inPort r.pcp, mir := s.mergeMir c e f.inPort f.pass
    mode := d.mode, dest := d.dest }
  let bb := if recirc then (if p = 0 then s.activeBank 1 else (f.hold.head?.map (·.2)).getD 0) else 0
  let hold := if recirc && p == 0 then f.hold ++ [(1, bb)] else f.hold
  let s1 := x.2.setFrame { f with act := act, hold := hold, bankB := if recirc then some bb else none }
  let s2 := s1.learnReq p f r.vid src
  if bad ∨ x.1 = [] then s2.frameDrop id else s2.takeIn id x.1

/-- 07 R155, R167: the lookups of a frame start on its bank, and the merge follows; `bad` says that a finding has already
reached the frame. -/
def State.lookup (s : State) (id : Nat) (bad : Bool) : State :=
  let f := s.frame id
  match f.head with
  | none => s
  | some r =>
    let p := f.pipe
    let bank := if f.pass = 1 then f.bankB.getD (s.activeBank 1) else s.activeBank p
    let f1 := { f with looked := true, hold := if f.pass = 1 then f.hold else [(p, bank)] }
    let c := s.classify p bank r f.inPort f.pass f.sec.isSome f.data
    let s1 := (s.setFrame f1).clsNote p f c
    let hit := s1.fdbDest p f.dst r.vid
    let src := if f.pass = 0 then hit.2.fdbSource p f.src r.vid f.inPort else (false, hit.2)
    let fl := src.2.flowLookup p f.inPort r f.data
    let d := src.2.destOf p f.inPort r.vid r f.data c hit.1
    let s2 := src.2.excCount p r.exc
    let a := baseAct f r c fl.2
    let es := s2.earlyStage p f r c d
    if es.1 ≠ 0 then es.2.mergeDrop id es.1 a
    else if fl.1 && fl.2.isNone && s.on (FLW_PORT_CFG.a p f.inPort) FLW_PORT_CFG.miss_drop then es.2.mergeDrop id 5 a
    else if sduHint fl.2 r then (es.2.bump (SHP_CNT.a f.inPort 6) SHP_CNT.count).mergeDrop id 5 a
    else
      let w := es.2.flowStage id r fl.2
      if w.1 ≠ 0 then w.2.mergeDrop id w.1 a else w.2.mergePass id p r c d fl.2 src.1 bad

end Sys2Proof.Machine
end

