-- ==== Sys2Proof/Machine/Phase.lean ====
section
/-! DEFINITION. Phase domains (chapter 04): observations from pins and samples, the estimator, the published angle, the
domain states. Angles are in tu; θ_loop and ω̂ are 32.32 fixed point; stamps count 2^-32 ns on the TIME tick scale. -/

namespace Sys2Proof.Machine

/-- One turn in the units of θ_loop. -/
def turn64 : Nat := 18446744073709551616

/-- Stamp units per TIME tick. -/
def tickU : Nat := 4 * 4294967296

/-- A quotient whose last bit the spec leaves open: one of the two neighbouring integers (log entry 12). -/
def State.divOpen (s : State) (num : Int) (den : Nat) : Int × State :=
  let q := num / (den : Int)
  if num % (den : Int) = 0 then (q, s)
  else
    let f := s.fresh
    (q + (f.1.toNat % 2 : Nat), f.2)

/-- R78, R87: the domain runs: enabled, with a source kind other than 3. -/
def State.phOn (s : State) (d : Nat) : Bool :=
  s.on (PHS_CFG.a d) PHS_CFG.enable && !(s.f (PHS_CFG.a d) PHS_CFG.src == 3)

/-- The source kind of a domain. -/
def State.phSrc (s : State) (d : Nat) : Nat := s.f (PHS_CFG.a d) PHS_CFG.src

/-- R80: edges per turn; 0 is treated as 1. -/
def State.phN (s : State) (d : Nat) : Nat :=
  let n := s.f (PHS_CFG.a d) PHS_CFG.edges_per_turn
  if n = 0 then 1 else n

/-- R87: observations to reach TRACK; below 2 is treated as 2. -/
def State.acqObs (s : State) (d : Nat) : Nat :=
  let n := s.f (PHS_CFG.a d) PHS_CFG.acq_obs
  if n < 2 then 2 else n

/-- R86: the published angle from the previous one `p`, the direction `m`, the hysteresis and int(θ_loop): the angle, the
direction, and whether it reversed. -/
def publish (edge : Bool) (p m hyst i : Nat) : Nat × Nat × Bool :=
  let ahead := arcDist m p i
  if ahead < 2147483648 then (i, m, false)
  else if !edge && decide (hyst ≤ 4294967296 - ahead) then (i, 1 - m, true)
  else (p, m, false)

/-- R86, R87: θ̂ published on the current tick from θ_loop, starting at the previous tick's θ̂ and direction. A reversal is noted,
and reported when the tick is over: an observation of the same tick may take it back. -/
def State.phPublish (s : State) (d : Nat) : State :=
  let x := s.ph d
  let st := s.phState d
  let i := x.theta / 4294967296 % 4294967296
  if st = 1 then s.setPh d { x with hat := i }
  else if st = 2 ∨ st = 3 then
    let r := publish (s.phSrc d == 0) x.hatPrev x.mPrev (s.f (PHS_THR.a d) PHS_THR.rev_hyst * 65536) i
    (s.setPh d { x with hat := r.1, rev := r.2.2 }).setF (PHS_STAT.a d) PHS_STAT.dir r.2.1
  else s

/-- R86: the reversal of the tick is reported. -/
def State.phReport (s : State) (d : Nat) : State :=
  let x := s.ph d
  if x.rev then (s.setPh d { x with rev := false }).raise 32 9 d else s

/-- R88: a standstill leaves θ̂ at the count angle `c`; what lies behind the previous θ̂ is not traversed (log entry 53). -/
def PhSt.stand (x : PhSt) (m c : Nat) : PhSt :=
  { x with hat := c, hatPrev := if arcDist m x.hatPrev c < 2147483648 then x.hatPrev else c }

/-- R88: a transition that resumes motion moves θ̂ to its count angle `c`, and takes m from it subject to rev_hyst. -/
def State.phMove (s : State) (d c : Nat) : State :=
  let x := s.ph d
  let r := publish false x.hatPrev x.mPrev (s.f (PHS_THR.a d) PHS_THR.rev_hyst * 65536) c
  (s.setPh d { x.stand r.2.1 c with rev := r.2.2 }).setF (PHS_STAT.a d) PHS_STAT.dir r.2.1

/-- R77, R86: domain `d` on one TIME tick. -/
def State.tickPh (s : State) (d : Nat) : State :=
  if s.phState d = 0 then s
  else
    let x := s.ph d
    let th := (((x.theta : Int) + x.omega) % (turn64 : Int)).toNat
    (s.setPh d { x with theta := th, hatPrev := x.hat, mPrev := s.phM d }).phPublish d

/-- R87: a domain begins ACQUIRE with its loop state cleared and no observation. -/
def State.phAcquire (s : State) (d : Nat) : State :=
  let x := s.ph d
  (s.setPh d { x with theta := 0, omega := 0, prevObs := none, acqN := 0, firstTheta := 0, run := 0, reest := 0,
                      since := s.now, hat := 0, hatPrev := 0 }).setFs (PHS_STAT.a d)
    [(PHS_STAT.state, 1), (PHS_STAT.standstill, 0), (PHS_STAT.z_seen, 0)]

/-- A pin of a pin set: 0 A, 1 B, at its last level. -/
def State.lev (s : State) (p k : Nat) : Bool := Cells.get (fun _ => false) s.phLev (2 * p + k)

/-- R79: the domain's filters start at the levels of its pin set (log entry 53). -/
def State.phPins (s : State) (d : Nat) : State :=
  let p := s.f (PHS_CFG.a d) PHS_CFG.pin_sel
  s.setPh d { s.ph d with levA := s.lev p 0, levB := s.lev p 1, zAt := none }

/-- R87: enable: from OFF to ACQUIRE. The count angle starts at offset (R81). -/
def State.phEnable (s : State) (d : Nat) : State :=
  ((s.setPh d { count := s.f (PHS_OFFSET.a d) PHS_OFFSET.offset }).phPins d).phAcquire d

/-- R87, R92, 06 R142: enable cleared: OFF, the loop state cleared, the domain's angle entries cancelled. θ̂ stays where it is
(05 R103). -/
def State.phDisable (s : State) (d : Nat) : State :=
  let x := s.ph d
  ((s.setPh d { hat := x.hat, hatPrev := x.hat, rev := x.rev }).setFs (PHS_STAT.a d)
    [(PHS_STAT.state, 0), (PHS_STAT.standstill, 0), (PHS_STAT.z_seen, 0), (PHS_STAT.dir, 0)]).cancelAngle d

/-- The effect of a change of PHS_CFG from `old`. -/
def State.phCfgChanged (s : State) (d : Nat) (old : Word) : State :=
  if s.phOn d then
    (if s.phState d = 0 then s.phEnable d
     else if fldGet old PHS_CFG.pin_sel = s.f (PHS_CFG.a d) PHS_CFG.pin_sel then s else s.phPins d)
  else if s.phState d = 0 then s else s.phDisable d

/-- R87: the domain enters LOST: `loss`, θ̂ frozen, its angle entries cancelled (06 R142). -/
def State.phLose (s : State) (d : Nat) : State :=
  let x := s.ph d
  ((((s.setPh d { x with hadLoss := true, acqN := 0, prevObs := none, reest := 0, hatPrev := x.hat }).setFs (PHS_STAT.a d)
    [(PHS_STAT.state, 4), (PHS_STAT.standstill, 0)]).raise 32 1 d).cancelAngle d)

/-- R84: the oldest observation can be applied on the current tick. -/
def State.obsDue (s : State) (d : Nat) : Bool :=
  let x := s.ph d
  match x.queue with
  | [] => false
  | o :: _ =>
    decide (o.ready < s.now) &&
    match x.lastApply with
    | none => true
    | some t => decide (t + 10 ≤ s.now)

/-- R87, R92: declare_lost puts a running domain in LOST; an observation due on this tick is discarded, in LOST too. -/
def State.phDeclareLost (s : State) (d : Nat) : State :=
  let st := s.phState d
  let x := s.ph d
  let u := if s.obsDue d then s.setPh d { x with queue := x.queue.drop 1 } else s
  if st = 0 then s else if st = 4 then u else u.phLose d

/-- R87, 06 R142: restart clears the loop state and enters ACQUIRE; the domain's angle entries are cancelled. -/
def State.phRestart (s : State) (d : Nat) : State :=
  if s.phState d = 0 then s else (s.phAcquire d).cancelAngle d

/-- The effect of a write to PHS_CTRL (declare_lost is the stronger of two commands of one write). -/
def State.phCtrl (s : State) (d : Nat) (w : Word) : State :=
  if fldGet w PHS_CTRL.declare_lost = 1 then s.phDeclareLost d
  else if fldGet w PHS_CTRL.restart = 1 then s.phRestart d
  else s

/-- R84: a ready observation joins the two-entry queue, or is discarded and counted. -/
def State.obsPush (s : State) (d : Nat) (o : PhObs) : State :=
  let x := s.ph d
  if x.queue.length < 2 then s.setPh d { x with queue := x.queue ++ [o] }
  else s.bump (PHS_DISC.a d) PHS_DISC.discards

/-- R79: the stamp of a change whose new level first appeared `back` samples of 5 ns before the latest one. -/
def State.stampBack (s : State) (back : Nat) : Int := (((4 * s.now / 5 : Nat) : Int) - (back : Int)) * ((5 * nsU : Nat) : Int)

/-- R79: the new level has held for flt_len + 1 samples, since it appeared `back` samples ago. -/
def State.fltOk (s : State) (d held back : Nat) : Bool :=
  decide (s.f (PHS_CFG.a d) PHS_CFG.flt_len + 1 ≤ held) && decide (s.f (PHS_CFG.a d) PHS_CFG.flt_len ≤ back)

/-- R84: the tick in which the filter has accepted a change that appeared `back` samples ago. -/
def State.fltTick (s : State) (d back : Nat) : Nat :=
  5 * (4 * s.now / 5 - (back - s.f (PHS_CFG.a d) PHS_CFG.flt_len)) / 4

/-- Domain `d` runs from pin set `p` with source kind `k`. -/
def State.phUses (s : State) (d k p : Nat) : Bool :=
  !(s.phState d == 0) && s.phSrc d == k && s.f (PHS_CFG.a d) PHS_CFG.pin_sel == p

/-- R80: edge_sel selects the edge. -/
def edgeSel (sel : Nat) (rise : Bool) : Bool := if sel = 1 then !rise else if sel = 2 then true else rise

/-- R80: an accepted edge of a domain's pin set, unless it comes too soon. -/
def State.edgeObs (s : State) (d back : Nat) : State :=
    let x := s.ph d
    let stamp := s.stampBack back
    let vm := s.f (PHS_LIM.a d) PHS_LIM.vel_max
    let soon := match x.lastEdge with
      | none => false
      | some t => decide ((stamp - t) * (vm * s.phN d : Nat) < ((4294967296 * tickU : Nat) : Int))
    if soon then (s.bump (PHS_DISC.a d) PHS_DISC.outliers).raise 32 4 d
    else (s.setPh d { x with lastEdge := some stamp }).obsPush d ⟨0, 0, stamp, 0, false, false, false, s.fltTick d back⟩

/-- R79, R80: PHASE_IN_A of a domain's pin set has taken a new level: the filter accepts it once, and edge_sel selects the edge. -/
def State.edgeIn (s : State) (d : Nat) (rise : Bool) (held back : Nat) : State :=
  let x := s.ph d
  if s.fltOk d held back && x.levA != rise then
    let u := s.setPh d { x with levA := rise }
    if edgeSel (s.f (PHS_CFG.a d) PHS_CFG.edge_sel) rise then u.edgeObs d back else u
  else s

/-- R81: the direction of a valid transition from (a, b) to (a', b'): forward along 00, 10, 11, 01. -/
def quadFwd (a b a' b' : Bool) : Bool :=
  match a, b, a', b' with
  | false, false, true, false => true
  | true, false, true, true => true
  | true, true, false, true => true
  | false, true, false, false => true
  | _, _, _, _ => false

/-- R81: eight quadrature errors within 1 ms declare the domain lost. -/
def State.quadError (s : State) (d : Nat) : State :=
  let x := s.ph d
  let recent := (s.now :: x.quadErr.filter (fun t => decide (s.now < t + 250000))).take 8
  let s1 := ((s.setPh d { x with quadErr := recent }).bump (PHS_DISC.a d) PHS_DISC.discards).raise 32 5 d
  if 8 ≤ recent.length ∧ s1.phState d ≠ 4 then
    (s1.setPh d { s1.ph d with quadErr := [] }).phLose d
  else s1

/-- R81: levels of A and B sampled at once on a domain's pin set, with a rising Z edge in the same sample or not. A level change and
a Z edge that the domain's filter has taken before are not taken again. -/
def State.quadIn (s : State) (d : Nat) (a' b' zUp : Bool) (held back : Nat) : State :=
  let x := s.ph d
  let z := zUp && x.zAt != some (s.stampBack back)
  if s.fltOk d held back && (z || x.levA != a' || x.levB != b') then
    let off := s.f (PHS_OFFSET.a d) PHS_OFFSET.offset
    let s0 := s.setPh d { x with levA := a', levB := b', since := s.now, zAt := if z then some (s.stampBack back) else x.zAt }
    let both := x.levA != a' && x.levB != b'
    let none' := x.levA == a' && x.levB == b'
    let stp := s.f (PHS_TPC.a d) PHS_TPC.tu_per_count
    let fwd := quadFwd x.levA x.levB a' b' != s.on (PHS_CFG.a d) PHS_CFG.swap_ab
    let cnt := if both || none' then x.count
      else if fwd then (x.count + stp) % 4294967296 else (x.count + 4294967296 - stp) % 4294967296
    let cnt' := if z then off else cnt
    let s1 := if both then s0.quadError d else s0
    let s2 := s1.setPh d { s1.ph d with count := cnt' }
    let s3 := if z then s2.setF (PHS_STAT.a d) PHS_STAT.z_seen 1 else s2
    if (both || none') && !z then s3
    else s3.obsPush d ⟨1, cnt', s.stampBack back, 0, false, false, z, s.fltTick d back⟩
  else s

/-- The signed 32-bit difference of two angles. -/
def adiff (a b : Nat) : Int := sint 32 (a % 4294967296 + 4294967296 - b % 4294967296)

/-- R80: the angle of step `k` of an edge source, rounded to whole tu. -/
def edgeAngle (off n k : Nat) : Nat := (off + (2 * k * 4294967296 + n) / (2 * n)) % 4294967296

/-- R80: the step whose angle lies nearest to the predicted loop angle. -/
def nearestEdge (off n pred : Nat) : Nat :=
  let dist := fun k => (sint 64 (edgeAngle off n k * 4294967296 + turn64 - pred)).natAbs
  let best := (List.range n).foldl (fun b k => if dist k < dist b then k else b) 0
  edgeAngle off n best

/-- R85: the loop angle at a stamp, and the state after its open rounding. -/
def State.phPred (s : State) (d : Nat) (stamp : Int) : Nat × State :=
  let x := s.ph d
  let back := ((s.now * tickU : Nat) : Int) - stamp
  let r := s.divOpen (x.omega * back) tickU
  ((((x.theta : Int) - r.1) % (turn64 : Int)).toNat, r.2)

/-- R80, R85: ω̂ held to the direction of an edge source, and clamped to vel_max. -/
def State.omegaLim (s : State) (d : Nat) (w : Int) : Int × Bool :=
  let w1 := if s.phSrc d = 0 then
      (if s.on (PHS_CFG.a d) PHS_CFG.edge_dir then (if 0 < w then 0 else w) else (if w < 0 then 0 else w)) else w
  let vm := ((s.f (PHS_LIM.a d) PHS_LIM.vel_max * 4294967296 : Nat) : Int)
  (clampInt (-vm) vm w1, decide (w1 < -vm) || decide (vm < w1))

/-- R80: the edge step of 2^32 / N in whole tu, in the direction of edge_dir (log entry 53). -/
def State.edgeStep (s : State) (d : Nat) : Int :=
  let n := s.phN d
  let stp := (2 * 4294967296 + n) / (2 * n)
  if s.on (PHS_CFG.a d) PHS_CFG.edge_dir then -(stp : Int) else stp

/-- R86, R87: the domain enters TRACK from ACQUIRE: m is set, θ̂ is int(θ_loop), and `recovered` after a loss. -/
def State.phTrack (s : State) (d : Nat) : State :=
  let x := s.ph d
  let m := if s.phSrc d = 0 then b2n (s.on (PHS_CFG.a d) PHS_CFG.edge_dir) else if x.omega < 0 then 1 else 0
  let i := x.theta / 4294967296 % 4294967296
  let s1 := (s.setPh d { x with hadLoss := false, hat := i, hatPrev := i, mPrev := m }).setFs (PHS_STAT.a d)
    [(PHS_STAT.state, 2), (PHS_STAT.dir, m), (PHS_STAT.standstill, 0)]
  s1.raiseIf x.hadLoss 32 2 d

/-- R86, R87: the domain returns to TRACK from HOLD: θ̂ follows the rule of both states. -/
def State.phRegain (s : State) (d : Nat) : State := (s.setF (PHS_STAT.a d) PHS_STAT.state 2).phPublish d

/-- R81, R87: ACQUIRE has its consecutive good observations and, where z_req asks for it, its Z edge. -/
def State.phLocked (s : State) (d : Nat) : Bool :=
  decide (s.acqObs d - 2 ≤ (s.ph d).run) && decide (2 ≤ (s.ph d).acqN) &&
  (!(s.phSrc d == 1) || !(s.on (PHS_CFG.a d) PHS_CFG.z_req) ||
    s.on (PHS_STAT.a d) PHS_STAT.z_seen)

/-- An accepted observation is recorded: its stamp, and the silence restarted. -/
def State.phNote (s : State) (d : Nat) (stamp : Int) : State :=
  let x := s.ph d
  s.setPh d { x with prevObs := some stamp, since := s.now, upd := s.now }

/-- R87, R88: the first of two observations: θ_loop ← θ_m. -/
def State.obsFirst (s : State) (d θ : Nat) (stamp : Int) : State :=
  (s.setPh d { s.ph d with theta := θ % 4294967296 * 4294967296, omega := 0, firstTheta := θ }).phNote d stamp

/-- R80, R87, R88: the second of two observations: ω̂ from their difference (an edge source: one edge step), within its limits; θ_m
carried forward to the current tick. -/
def State.obsSecond (s : State) (d θ : Nat) (stamp : Int) : State :=
  let x := s.ph d
  let dt0 := stamp - x.prevObs.getD stamp
  let dt := if dt0 < (tickU : Int) then tickU else dt0.toNat
  let df := if s.phSrc d = 0 then s.edgeStep d else adiff θ x.firstTheta
  let r := s.divOpen (df * ((4294967296 * tickU : Nat) : Int)) dt
  let w := r.2.omegaLim d r.1
  let back := ((s.now * tickU : Nat) : Int) - stamp
  let c := r.2.divOpen (w.1 * back) tickU
  let th := (((θ % 4294967296 * 4294967296 : Nat) : Int) + c.1) % (turn64 : Int)
  ((c.2.setPh d { c.2.ph d with theta := th.toNat, omega := w.1 }).phNote d stamp).raiseIf w.2 32 8 d

/-- R85: the α–β update with error `e` from the previous accepted observation. -/
def State.obsLoop (s : State) (d : Nat) (e : Int) (stamp : Int) : State :=
  let x := s.ph d
  let kp := s.f (PHS_GAIN.a d) PHS_GAIN.kp
  let ki := s.f (PHS_GAIN.a d) PHS_GAIN.ki
  let ni0 := stamp - x.prevObs.getD (stamp - (tickU : Int))
  let ni := if ni0 < (tickU : Int) then tickU else ni0.toNat
  let th := ((x.theta : Int) + (kp : Int) * e * 65536) % (turn64 : Int)
  let r := s.divOpen ((ki : Int) * e * ((65536 * tickU : Nat) : Int)) ni
  let w := r.2.omegaLim d (x.omega + r.1)
  ((r.2.setPh d { r.2.ph d with theta := th.toNat, omega := w.1 }).phNote d stamp).raiseIf w.2 32 8 d

/-- R80, R82, R85: θ_m of an observation, with the state after its open rounding. -/
def State.obsTheta (s : State) (d : Nat) (o : PhObs) (stamp : Int) : Nat × State :=
  let off := s.f (PHS_OFFSET.a d) PHS_OFFSET.offset
  let n := s.phN d
  let x := s.ph d
  let st := s.phState d
  if o.kind = 0 then
    if (st = 1 ∧ x.acqN = 0) ∨ st = 4 then (off, s)
    else if st = 1 ∧ x.acqN = 1 then ((((x.firstTheta : Int) + s.edgeStep d) % 4294967296).toNat, s)
    else
      let p := s.phPred d stamp
      (nearestEdge off n p.1, p.2)
  else if o.kind = 1 then (o.theta, s)
  else ((o.theta + off) % 4294967296, s)

/-- R85, R87, R88: an accepted observation with θ_m reaches the estimator on the current tick. -/
def State.obsRun (s : State) (d θ : Nat) (stamp : Int) : State :=
  let st := s.phState d
  let x := s.ph d
  if st = 4 then
    let u := (s.phAcquire d).obsFirst d θ stamp
    (u.setPh d { u.ph d with acqN := 1 }).phPublish d
  else if st = 1 then
    if x.acqN = 0 then
      let u := s.obsFirst d θ stamp
      (u.setPh d { u.ph d with acqN := 1 }).phPublish d
    else if x.acqN = 1 then
      let u := s.obsSecond d θ stamp
      let u1 := u.setPh d { u.ph d with acqN := 2, run := 0 }
      if u1.phLocked d then u1.phTrack d else u1.phPublish d
    else
      let p := s.phPred d stamp
      let e := adiff θ (p.1 / 4294967296)
      let u := p.2.obsLoop d e stamp
      let good := decide (e.natAbs ≤ s.f (PHS_THR.a d) PHS_THR.lock_thr * 65536)
      let u1 := u.setPh d { u.ph d with run := if good then x.run + 1 else 0 }
      if u1.phLocked d then u1.phTrack d else u1.phPublish d
  else if s.on (PHS_STAT.a d) PHS_STAT.standstill then
    let u := (s.setF (PHS_STAT.a d) PHS_STAT.standstill 0).obsFirst d θ stamp
    (u.setPh d { u.ph d with reest := 1 }).phMove d θ
  else if x.reest = 1 then
    let u := s.obsSecond d θ stamp
    (u.setPh d { u.ph d with reest := 0 }).phMove d θ
  else
    let p := s.phPred d stamp
    let e := adiff θ (p.1 / 4294967296)
    let em := s.f (PHS_LIM.a d) PHS_LIM.e_max
    let emax := (if 0x4000 < em then 0x4000 else em) * 65536
    if emax < e.natAbs then ((p.2).bump (PHS_DISC.a d) PHS_DISC.outliers).raise 32 4 d
    else
      let u := p.2.obsLoop d e stamp
      if st = 3 then u.phRegain d else u.phPublish d

/-- R83: the clock in which a sample's capture time is given. -/
def State.sampClock (s : State) (d : Nat) : Nat :=
  let c := s.f (PHS_SAMP.a d) PHS_SAMP.samp_clk
  if c = 1 then s.tim.dta else if c = 2 then s.tim.dtb else s.tim.wkt

/-- R83: a sample is discarded and counted with its event. -/
def State.sampDrop (s : State) (d cause : Nat) : State := (s.bump (PHS_DISC.a d) PHS_DISC.discards).raise 32 cause d

/-- R83, R84: the oldest ready observation is taken on the current tick: a sample is judged by its age, and what is not
discarded is applied. -/
def State.obsApply (s : State) (d : Nat) : State :=
  let x := s.ph d
  match x.queue with
  | [] => s
  | o :: r =>
    let s0 := s.setPh d { x with queue := r }
    let age := tdiff (s.sampClock d) o.cap
    let conv := taddU s.tim.wkt (-age)
    let stamp := if o.kind = 2 then ((s.now * tickU : Nat) : Int) - age else o.stamp
    let stale : Bool := match x.lastCap with
      | none => false
      | some t => decide (tdiff conv t ≤ 0)
    if o.kind = 2 ∧ o.fault then s0.sampDrop d 7
    else if o.kind = 2 ∧ (o.capBad ∨ age < 0 ∨ ((s.f (PHS_SAMP.a d) PHS_SAMP.max_age * 1000 * nsU : Nat) : Int) < age ∨
        stale = true) then s0.sampDrop d 6
    else
      let s1 := s0.setPh d { s0.ph d with lastApply := some s.now, lastCap := if o.kind = 2 then some conv else x.lastCap }
      let th := s1.obsTheta d o stamp
      th.2.obsRun d th.1 stamp

/-- R87, R88: obs_timeout of domain `d` has passed in silence. -/
def State.obsSilent (s : State) (d : Nat) : Bool :=
  let t := s.f (PHS_TIMING.a d) PHS_TIMING.obs_timeout
  decide ((s.ph d).since + (if t = 0 then 1 else t) * 2500 ≤ s.now)

/-- R87, R88: the silence of obs_timeout. -/
def State.obsTimeout (s : State) (d : Nat) : State :=
  let st := s.phState d
  let x := s.ph d
  if s.obsSilent d then
    if st = 1 then s.phAcquire d
    else if st = 2 then
      if s.phSrc d = 1 then
        if s.on (PHS_STAT.a d) PHS_STAT.standstill then s
        else (s.setPh d { x.stand (s.phM d) x.count with omega := 0, theta := x.count * 4294967296 }).setF (PHS_STAT.a d)
          PHS_STAT.standstill 1
      else ((s.setPh d { x with holdSince := s.now }).setF (PHS_STAT.a d) PHS_STAT.state 3).raise 32 3 d
    else s
  else s

/-- R87, R92: hold_time elapses in HOLD; an accepted observation of the same tick wins. -/
def State.holdExpiry (s : State) (d : Nat) : State :=
  if s.phState d = 3 ∧ (s.ph d).holdSince + msTicks (s.f (PHS_TIMING.a d) PHS_TIMING.hold_time) ≤ s.now then
    if s.obsDue d ∧ (s.obsApply d).phState d = 2 then s else s.phLose d
  else s

/-- R84: the observations of domain `d` that are due on this tick: one is applied, and one that is discarded makes room for the
next. -/
def State.obsSettle (s : State) (d : Nat) : State :=
  let u := if s.obsDue d then s.obsApply d else s
  if u.obsDue d then u.obsApply d else u

/-- R92: the observations of this tick come before what reads the published angle on it. -/
def State.phsDue (s : State) : State := (List.range 4).foldl (fun u d => u.obsSettle d) s

/-- R94: the six words of PHS_SNAP. -/
def State.phSnapWords (s : State) (d : Nat) : List Nat :=
  let x := s.ph d
  let w := ubits 64 x.omega
  [x.hat, w % 4294967296, w / 4294967296, x.theta / 4294967296 % 4294967296, nsOf s.tim.wkt,
   secOf s.tim.wkt % 4294967296]

/-- The PHS_SNAP request (R94); it has no op table, so op is not judged (log entry 13). -/
def State.phSnapReq (s : State) (arg : Nat) : State :=
  if 4 ≤ arg then s.mbxFail 0x300400 15 else (s.obsSettle arg).snap 0x300400 ((s.obsSettle arg).phSnapWords arg)

/-- R82: the payload of an angle-sample frame: offset of the payload, if the frame matches domain `d`'s filter. -/
def State.sampMatch (s : State) (d port et pay : Nat) (b : List Byte) : Bool :=
  s.phState d != 0 && s.phSrc d == 2 && s.f (PHS_SAMP.a d) PHS_SAMP.samp_port == port &&
  decide (s.f (PHS_SAMP.a d) PHS_SAMP.samp_port ≤ 23) &&
  decide (s.f (PHS_SAMP_ID.a d) PHS_SAMP_ID.samp_ethertype ≠ 0) &&
  s.f (PHS_SAMP_ID.a d) PHS_SAMP_ID.samp_ethertype == et && s.f (PHS_SAMP_ID.a d) PHS_SAMP_ID.stream_tag == be16 b pay

/-- R82, R83: the observation that the payload at `pay` yields. -/
def State.sampObs (s : State) (pay : Nat) (b : List Byte) : PhObs :=
  let ns := beAt b (pay + 10) 4
  ⟨2, beAt b (pay + 14) 4, 0, mkTime (beAt b (pay + 4) 6) (if ns < 1000000000 then ns else 0) 0,
   decide (1000000000 ≤ ns), nbit (be16 b (pay + 18)) 0, false, s.now⟩

/-- R82: an angle-sample frame on `port`, with EtherType `et` and payload at `pay`: its sample is ready where the frame has passed its
checks, and is else discarded and counted. -/
def State.sampFrame (s : State) (ok : Bool) (port et pay : Nat) (b : List Byte) : State :=
  (List.range 4).foldl (fun u d =>
    if u.sampMatch d port et pay b then (if ok then u.obsPush d (u.sampObs pay b) else u.bump (PHS_DISC.a d) PHS_DISC.discards)
    else u) s

/-- Every domain on one TIME tick. -/
def State.tickPhs (s : State) : State := (List.range 4).foldl (fun u d => u.tickPh d) s

/-- A pin level recorded: pin set `p`, pin 0 A, 1 B. -/
def State.setLev (s : State) (p k : Nat) (b : Bool) : State :=
  { s with phLev := Cells.set (fun _ => false) s.phLev (2 * p + k) b }

/-- What is due in domain `d` on this tick and no command has taken (R84, R87), and the report of a reversal. -/
def State.phSettle (s : State) (d : Nat) : State := (((s.obsSettle d).obsTimeout d).holdExpiry d).phReport d

/-- What is due in the domains on this tick. -/
def State.phsSettle (s : State) : State := (List.range 4).foldl (fun u d => u.phSettle d) s

/-! ### The commands that no software access issues -/

/-- PHASE_EDGE (R79, R80): PHASE_IN_A of pin set `p` took its new level `back` samples of
5 ns ago and has held it for `held` samples. -/
def execPhaseEdge (p : Fin 4) (rise : Bool) (held back : BitVec 16) (s : State) : Host.Outcome State Fault Refusal :=
  .next (s.live ((List.range 4).foldl
    (fun u d => if u.phUses d 0 p.val then u.edgeIn d rise held.toNat back.toNat else u) (s.setLev p.val 0 rise)))

/-- QUAD_TRANSITION (R79, R81): the levels of A and B of pin set `p`, sampled at once, with or without a rising Z edge. -/
def execQuadTransition (p : Fin 4) (a b z : Bool) (held back : BitVec 16) (s : State) :
    Host.Outcome State Fault Refusal :=
  .next (s.live ((List.range 4).foldl
    (fun u d => if u.phUses d 1 p.val then u.quadIn d a b z held.toNat back.toNat else u)
    ((s.setLev p.val 0 a).setLev p.val 1 b)))

/-- Z_EDGE (R79, R81): a rising edge on PHASE_IN_Z of pin set `p`, with A and B at rest. -/
def execZEdge (p : Fin 4) (held back : BitVec 16) (s : State) : Host.Outcome State Fault Refusal :=
  .next (s.live ((List.range 4).foldl
    (fun u d => if u.phUses d 1 p.val then u.quadIn d (u.ph d).levA (u.ph d).levB true held.toNat back.toNat else u)
    s))

/-- OBSERVATION_APPLY (R84, R85): domain `d` applies its oldest ready observation on this tick. -/
def execObservationApply (d : Fin 4) (s : State) : Host.Outcome State Fault Refusal :=
  .next (s.live (if s.obsDue d.val then s.obsApply d.val else s))

/-- OBS_TIMEOUT (R87, R88). -/
def execObsTimeout (d : Fin 4) (s : State) : Host.Outcome State Fault Refusal := .next (s.live (s.obsTimeout d.val))

/-- HOLD_TIME_EXPIRY (R87). -/
def execHoldTimeExpiry (d : Fin 4) (s : State) : Host.Outcome State Fault Refusal := .next (s.live (s.holdExpiry d.val))

end Sys2Proof.Machine
end

