-- ==== Sys2Proof/Machine/Path.lean ====
section
/-! DEFINITION. The path of a frame: reception on a port (12 R282, R284; 03 R66 to R69; 11 R255 to R257), the end of
reception and its findings (07 R153, 09 R209 to R213), whole frames from the internal ports, and what leaves (12 R283,
03 R70, 15 R353). -/

namespace Sys2Proof.Machine

/-! ### Timestamps (R66 to R69, R284) -/

/-- 12 R284: internal_rx of a mode in units of 62.5 ps. -/
def internalRx (m : Nat) : Nat := [0, 348, 472, 492, 532, 612, 752, 1536, 37760].getD m 0

/-- 12 R284: internal_tx of a mode in units of 62.5 ps. -/
def internalTx (m : Nat) : Nat := [0, 408, 532, 544, 616, 760, 880, 1920, 19840].getD m 0

/-- 03 R68: an instant within a tick, in units of 250 ps, at the resolution of a mode. -/
def stampRes (m ph : Nat) : Nat := if m = 8 then 0 else if m = 6 ∨ m = 7 then ph / 4 * 4 else ph

/-- The counters FRT, DTA, DTB and WKT at an instant `late` units of 62.5 ps after the tick and `early` before it. -/
def State.stamps (s : State) (early late : Nat) : List Nat := (List.range 4).map (fun c => s.stampAt c early late)

/-- 03 R66: the receive timestamps of a frame whose first bit crosses the PCS boundary `ph` units of 250 ps after the tick. -/
def State.rxStamps (s : State) (n ph : Nat) : List Nat :=
  let m := s.portMode n
  s.stamps (internalRx m + s.latAt (TIM_PORT_RXLAT.a n)) (4 * stampRes m ph)

/-- 03 R66: the transmit timestamps of a frame whose first bit crosses the PCS boundary `ph` units of 250 ps after the
tick. -/
def State.txStamps (s : State) (n ph : Nat) : List Nat :=
  let m := s.portMode n
  s.stamps 0 (4 * (ph / 16 * 16 + stampRes m (ph % 16)) + internalTx m + s.latAt (TIM_PORT_TXLAT.a n))

/-- 03 R69: the position of the PTP message of a frame, if it is an event message. -/
def ptpEvent (r : ParseRes) (data : List Byte) : Option Nat :=
  let k := baseET r.tags + 2
  if r.tags < 3 ∧ r.ety = 0x88f7 ∧ k < data.length ∧ byteAt data k % 16 < 4 then some k else none

/-- 03 R69: the FIFO entry of a PTP event message at position `k` with its four timestamps. -/
def State.ptpEntry (s : State) (port k : Nat) (data : List Byte) (st : List Nat) : TsEntry :=
  let num := byteAt data (k + 4)
  let d := s.ptpDomain num
  { seqId := be16 data (k + 30), mtype := byteAt data k % 16, domNum := num, lost := false, dom := d.getD 0
    domHit := d.isSome, port := port, frt := st.getD 0 0
    other := match d with
      | some x => st.getD (x + 1) 0
      | none => st.getD 3 0 }

/-- 03 R69: a received PTP event message is recorded. -/
def State.rxPtp (s : State) (f : Frame) (r : ParseRes) : State :=
  if s.on (TIM_PORT_CFG.a f.port) TIM_PORT_CFG.ts_en then
    match ptpEvent r f.data with
    | some k => s.pushRxts (s.ptpEntry f.port k f.data ([f.tsFrt] ++ f.tsDom ++ [f.tsWkt]))
    | none => s
  else s

/-! ### Reception (R282, R255, R256) -/

/-- 15 R360: the frame is a heartbeat or a report for the pair logic. -/
def State.isHeartbeat (s : State) (port ety : Nat) (data : List Byte) : Bool :=
  fldGet (s.reg PAIR_STAT.a) PAIR_STAT.state != 0 && s.f PAIR_CFG.a PAIR_CFG.xlink_port == port && ety == 0x88b5 &&
  beAt data 0 6 == s.f PAIR_OWN_MAC_LO.a PAIR_OWN_MAC_LO.mac + s.f PAIR_OWN_MAC_HI.a PAIR_OWN_MAC_HI.mac * 2 ^ 32 &&
  beAt data 6 6 == s.f PAIR_PEER_MAC_LO.a PAIR_PEER_MAC_LO.mac + s.f PAIR_PEER_MAC_HI.a PAIR_PEER_MAC_HI.mac * 2 ^ 32

/-- A frame's own data enters the parser (R145 to R153), with the records that its head makes. -/
def State.headIn (s : State) (f : Frame) : State :=
  let r := s.parse f.pipe f.inPort (s.frameMax f.inPort) f.data
  let f1 := { f with head := some r, tagged := decide (0 < r.tags), hb := s.isHeartbeat f.port r.ety f.data }
  (s.setFrame f1).rxPtp f1 r

/-- A frame with the parser's result `r` delivers its angle sample where it passes its checks; else the sample is discarded (04 R82). -/
def State.sampleIn (s : State) (ok : Bool) (port : Nat) (r : ParseRes) (data : List Byte) : State :=
  if r.tags < 3 then s.sampFrame ok port r.ety (baseET r.tags + 2) data else s

/-- 11 R255: a frame without a SecTAG on a MACsec port: dropped, or counted and forwarded. -/
def State.noTag (s : State) (f : Frame) : State :=
  let r := s.parse f.pipe f.inPort (s.frameMax f.inPort) f.data
  if s.bypassed f.port r.ety then s.headIn f
  else if s.on (CIP_PORT_CFG.a f.port) CIP_PORT_CFG.validate then (s.cipInc f.port 0).headIn f
  else ((s.cipInc f.port 1).setFrame { f with act := { f.act with drop := true } }).sampleIn false f.port r f.data

/-- The frame that a port takes in: the bytes `wire` that the link delivers, ended abnormally where `abort` says so; a
frame longer than frame_max ends abnormally after byte frame_max (R282). -/
def State.rxFrame (s : State) (n : Nat) (wire : List Byte) (abort : Bool) (ph : Nat) : Frame :=
  let m := s.frameMax n
  let w := wire.take m
  let ovl := decide (m < wire.length)
  let data := w.take (w.length - 4)
  let st := s.rxStamps n ph
  { port := n, inPort := n, wire := w, abort := abort || ovl, ovl := ovl, data := data, len := w.length
    fcsOk := w.drop (w.length - 4) == fcsOf data, mode := s.portMode n
    tsOk := true, tsFrt := st.getD 0 0, tsDom := [st.getD 1 0, st.getD 2 0], tsWkt := st.getD 3 0
    secDue := s.on (CIP_PORT_CFG.a n) CIP_PORT_CFG.macsec_en && be16 data 12 == 0x88e5 }

/-- The frame in reception on a port. -/
def State.rxOf (s : State) (n : Nat) : Option Frame := (s.port n).rx.map s.frame

/-- A frame with the bytes `wire` begins to arrive at the MAC of a port that takes it in. -/
def State.takeHead (s : State) (n : Nat) (wire : List Byte) (abort : Bool) (ph : Nat) : State :=
  let r := s.newFrame (s.rxFrame n wire abort ph)
  let s1 := r.2.setPort n { s.port n with rx := some r.1, toBusy := s.portMode n == 8 }
  let f := s1.frame r.1
  if f.wire.length < 64 ∨ f.secDue = true then s1
  else if s.on (CIP_PORT_CFG.a n) CIP_PORT_CFG.macsec_en then s1.noTag f
  else s1.headIn f

/-- FRAME_HEAD (R147, R278, R282, R287, R290, R291). In a near-end loopback the frame is the oldest that the transmit side has fed; in a
far-end loopback the port sends what it receives. -/
def State.frameHead (s : State) (n : Nat) (wire : List Byte) (abort looped : Bool) (ph : Nat) : State :=
  let x := s.port n
  let lb := x.lpbk == 1 || x.lpbk == 2
  if !s.portOn n then s.mibInc n 7
  else if s.portMode n = 0 ∨ x.prbs ≠ 0 ∨ lb ≠ looped ∨ x.rx.isSome = true ∨ (lb && x.loop.isEmpty) = true ∨
      (s.portMode n == 8 && !lb && (s.sending n).isSome) = true then s
  else
    let w := if lb then x.loop.headD [] else wire
    let s0 := if lb then s.setPort n { x with loop := x.loop.tail } else if x.lpbk = 3 then s.emit (.frame n w) else s
    if be16 w 12 = 0x8808 then s0.mibInc n 6 else s0.takeHead n w abort ph

/-- SECTAG_COMPLETE (R252, R256): the frame in reception meets its three checks; `bad` says that its SA's slot shows an
uncorrectable error (R253). -/
def State.secTag (s0 : State) (n : Nat) (bad : Bool) : State :=
  match s0.rxOf n with
  | none => s0
  | some f =>
    if f.secDue then
      let s := if bad then
          match s0.secCheck n f.data with
          | .ok x _ => s0.saEcc x.slot
          | .bad _ => s0
        else s0
      let f1 := { f with secDue := false }
      match s.secCheck n f.data with
      | .bad k => (s.cipInc n k).setFrame { f1 with act := { f.act with drop := true } }
      | .ok x d =>
        let s1 := if s.inSequence n x then s else s.bump CIP_POOL_STAT.a CIP_POOL_STAT.oos
        s1.headIn { f1 with sec := some x, verd := 1, data := d, len := d.length + 4 }
    else s0

/-! ### The end of reception (R153, R209 to R213, R235, R238) -/

/-- R153: the finding at a frame's end, with its event and its class count; frames that have been dropped are checked too. -/
def State.endCode (s : State) (f : Frame) : Nat × State :=
  match f.head with
  | none => (0, s)
  | some r =>
    let k := endFinding r f.len
    if k = 7 then (7, (s.excCount f.pipe 7).raise (41 + f.pipe) 0x20 f.inPort)
    else if k = 8 then (8, (s.excCount f.pipe 8).raise (41 + f.pipe) 0x21 f.inPort)
    else (0, s)

/-- R208: the copies of a whole frame become eligible when every verdict on it has passed. -/
def State.wholeElig (s : State) (id : Nat) : State :=
  (s.copiesOf id).foldl (fun u c => u.setCopy { c with elig := true }) s

/-- A finding reaches a frame that is still in the device: copies marked or dropped, acceptance withdrawn (R213, R351), the class drop
counted (R153). What is left of a frame that has ended is sent whole (R209, R212). -/
def State.badFrame (s : State) (id cause code : Nat) : State :=
  let f := s.frame id
  if !(s.frames.any (fun g => g.id == id)) || f.act.drop then s
  else
    let s1 := if f.accepted then (s.frWithdraw f.act.stream f.seqIn).setFrame { f with accepted := false } else s
    let r := s1.finding id cause
    if r.2 then (if f.ended then r.1.wholeElig id else r.1)
    else
      let s2 := if code = 7 then r.1.clsDrop f.pipe 3 else if code = 8 then r.1.clsDrop f.pipe 4 else r.1
      s2.frameDrop id

/-- R235: the charge at the end of reception. -/
def State.endCharge (s : State) (f : Frame) : State :=
  match f.meter with
  | none => s
  | some (k, n) => (s.meterCharge (k / 2048) (k % 2048) ((f.len : Int) - (n : Int))).setFrame { f with meter := none }

/-- R236: the receptions on the ports of `l` end in this SWC cycle: their end charges come before what follows. -/
def State.endCharges (s : State) (l : List Nat) : State :=
  l.foldl (fun u n => match (u.port n).rx with
    | some id => u.endCharge (u.frame id)
    | none => u) s

/-- R238: the cell writer finds that `got` received bytes of a frame exceed its max_sdu, for the first time. -/
def State.sduOver (s : State) (id got : Nat) : Bool :=
  let f := s.frame id
  !f.act.drop && f.looked && !f.sduHit && f.act.maxSdu != 0 && decide (f.act.maxSdu < got)

/-- R238: the records of a frame longer than its max_sdu. -/
def State.sduNote (s : State) (f : Frame) : State :=
  (s.bump (SHP_CNT.a f.inPort 6) SHP_CNT.count).raise (41 + f.pipe) 0x20 f.inPort

/-- R238: the excess over max_sdu in `got` received bytes, where there is one: recorded, and the frame dropped or marked. -/
def State.sduFind (s : State) (id got : Nat) : State :=
  if s.sduOver id got then
    let f := s.frame id
    ((s.sduNote f).setFrame { f with sduHit := true }).badFrame id 2 0
  else s

/-- LOOKUP_START (R155): `got` bytes of the frame in reception have been received: its lookups start where they reach its decision
point, and the cell writer judges its length (10 R238). -/
def State.lookupStart (s : State) (n got : Nat) : State :=
  match s.rxOf n with
  | none => s
  | some f =>
    let g := min got f.wire.length
    let s1 := s.setFrame { f with rcvd := max f.rcvd g }
    match f.head with
    | none => s1
    | some r =>
      let cut := match f.sec with
        | some x => x.tagLen
        | none => 0
      let k := max f.rcvd g - cut
      let s2 := if !f.looked && !f.act.drop && !f.hb && decide (max (s.decisionPoint f.pipe r.tpl (min r.tags 2)) 64 ≤ k)
        then s1.lookup f.id false else s1
      s2.sduFind f.id k

/-- What the MAC counts of a whole frame (R292), and whether it is bad (cause 0). -/
def State.macCount (s : State) (f : Frame) : Bool × State :=
  let n := f.port
  if f.abort then (true, (s.mibInc n (if f.ovl then 5 else 3)).raise n 4 n)
  else if !f.fcsOk then (true, (s.mibInc n 2).raise n 3 n)
  else
    let s1 := (s.mibInc n 0).mibAdd n 1 f.wire.length
    (false, if f.dst = 2 ^ 48 - 1 then s1.mibInc n 8 else if nbit (f.dst / 2 ^ 40) 0 then s1.mibInc n 9 else s1)

/-- The angle sample of a frame that the parser has read. -/
def State.sampleOf (s : State) (ok : Bool) (f : Frame) : State :=
  match f.head with
  | some r => s.sampleIn ok f.port r f.data
  | none => s

/-- The end of a frame that is not too short: `f` as it stands, ended. The heartbeat that it delivers, if it is one. -/
def State.frameEnd (s0 : State) (f : Frame) : State × Option (List Byte) :=
  let id := f.id
  let m := s0.macCount f
  let s := m.2.setFrame { f with verd := if m.1 then 0 else f.verd }
  if f.hb then
    (if m.1 ∨ f.verd = 1 then (if m.1 then (s.frameDrop id, none) else (s, none))
     else (s.frameDrop id, some f.data))
  else
    let e := s.endCode f
    let smp := fun (u : State) => if m.1 then u.sampleOf false f else if f.verd = 0 then u.sampleOf true f else u
    if f.act.drop then ((smp (e.2.endCharge (e.2.frame id))).frameDrop id, none)
    else
      let s1 := if f.looked then e.2 else (e.2.setFrame { e.2.frame id with code := e.1 }).lookup id (m.1 || e.1 != 0)
      let s2 := s1.endCharge (s1.frame id)
      let s3 := if !m.1 then s2.sduFind id f.len
        else if s2.sduOver id f.len then (s2.sduNote f).setFrame { s2.frame id with sduHit := true } else s2
      let g := s3.regrow id
      let s4 := if g.2 then g.1.raise (41 + f.pipe) 0x20 f.inPort else g.1
      let s5 := smp s4
      if m.1 then (s5.badFrame id 0 e.1, none)
      else if e.1 = 7 ∨ g.2 = true then (s5.badFrame id 2 e.1, none)
      else if e.1 = 8 then (s5.badFrame id 3 e.1, none)
      else if f.verd = 1 then (s5, none)
      else ((s5.wholeElig id).reap id, none)

/-- RECEPTION_END: the last byte of the frame in reception on a port has arrived, or it ends abnormally. -/
def State.recEnd (s : State) (n : Nat) : State × Option (List Byte) :=
  match s.rxOf n with
  | none => (s, none)
  | some f0 =>
    let s1 := s.setPort n { s.port n with rx := none }
    if f0.wire.length < 64 then
      ((if f0.abort then (s1.mibInc n 3).raise n 4 n else s1.mibInc n 4).setFrame { f0 with ended := true } |>.frameDrop f0.id, none)
    else
      let s2 := if f0.secDue then s.secTag n false else s
      let f := s2.frame f0.id
      let s3 := s2.setPort n { s2.port n with rx := none }
      let f1 := { f with ended := true }
      (s3.setFrame f1).frameEnd f1

/-- 12 R278, R280, R289: the frame in reception on a port ends abnormally where it stands. Before its lookups, what lies beyond its end
is no longer valid for them (07 R155). -/
def State.breakRx (s : State) (n : Nat) : State :=
  match s.rxOf n with
  | none => s
  | some f =>
    let w := f.wire.take f.rcvd
    let f1 := if f.sec.isSome then { f with abort := true, ovl := false, wire := w, len := min f.len f.rcvd, data := f.data.take (f.rcvd - 4) }
      else { f with abort := true, ovl := false, wire := w, len := w.length, data := w.take (w.length - 4) }
    let f2 := if f.looked || f.head.isNone then f1
      else { f1 with head := some (s.parse f.pipe f.inPort (s.frameMax f.inPort) f1.data) }
    ((s.setFrame f2).recEnd n).1

/-- 11 R258: a frame that is forwarded without a passed verdict (R257) reaches neither P24 to P26 nor, on a port with vbf, any port. -/
def State.unverified (s : State) (n id : Nat) : State :=
  if s.on (CIP_PORT_CFG.a n) CIP_PORT_CFG.vbf then s.badFrame id 1 0
  else (s.copiesOf id).foldl (fun u c => if 24 ≤ c.port ∧ c.port < 27 ∧ c.st = 0 then u.copyDrop c else u) s

/-- MACSEC_VERDICT (R257) on the oldest whole frame of a port that waits for one; the heartbeat that it delivers, if it is
one. -/
def State.secVerdict (s : State) (n : Nat) : State × Option (List Byte) :=
  match s.frames.find? (fun f => f.port == n && f.ended && f.verd == 1) with
  | none => (s, none)
  | some f =>
    match f.sec with
    | none => (s, none)
    | some x =>
      let v := s.verdictOf n x
      let s1 := (s.setFrame { f with verd := 0 }).sampleOf (v == 0) f
      if v = 1 then ((((s1.cipInc n 5).raise 48 1 n).badFrame f.id 1 0).reap f.id, none)
      else if v = 3 then ((((s1.cipInc n 4).raise 48 2 n).badFrame f.id 1 0).reap f.id, none)
      else
        let s2 := if v = 2 then (s1.cipInc n 6).unverified n f.id
          else ((s1.pnCommit n x).cipInc n 7).cipAdd n (if x.enc then 9 else 8) (f.data.length - 12)
        if f.hb then (s2.frameDrop f.id, if v = 0 then some f.data else none) else ((s2.wholeElig f.id).reap f.id, none)

/-! ### Whole frames from the internal ports (12 R296, R440) -/

/-- A whole frame enters on port `port` (24 to 27), with what its descriptor gives it; whether a copy of it was admitted. -/
def State.enter (s : State) (f0 : Frame) : Bool × State :=
  let nf := s.newFrame { f0 with ended := true, len := f0.data.length + 4, wire := f0.data ++ fcsOf f0.data }
  let id := nf.1
  let f := nf.2.frame id
  let r := s.parse f.pipe f.inPort 9216 f.data
  let f1 := { f with head := some r, tagged := decide (0 < r.tags) }
  let e := (nf.2.setFrame f1).endCode f1
  let s1 := (e.2.setFrame { f1 with code := e.1 }).lookup id (e.1 != 0)
  let s2 := s1.sduFind id f.len
  let s3 := if e.1 ≠ 0 then s2.badFrame id (if e.1 = 7 then 2 else 3) e.1 else s2
  (!(s3.copiesOf id).isEmpty, (s3.reap id).wfqAll)

/-! ### What leaves (R283, R353, R70, R259, R212) -/

/-- 15 R353: the R-TAG of a copy for `port`. -/
def State.rtagEdit (s : State) (f : Frame) (port : Nat) : List Byte :=
  match f.head with
  | none => f.data
  | some r =>
    if !f.act.frer then f.data
    else
      let et := baseET r.tags
      let rest := f.data.drop (if f.seqIn.isSome then et + 6 else et)
      let num := match f.seqGen with
        | some q => some q
        | none => f.seqIn
      match num with
      | some q =>
        if nbit (s.f (FRE_STR_ENC.a f.act.stream) FRE_STR_ENC.enc_mask) port then
          f.data.take et ++ beBytes 2 0xf1c1 ++ beBytes 2 0 ++ beBytes 2 q ++ rest
        else f.data.take et ++ rest
      | none => f.data

/-- 12 R283: the egress edit of a copy for an external port. -/
def State.tagEdit (s : State) (f : Frame) (port : Nat) (d : List Byte) : List Byte :=
  let a := ETH_PORT_EDIT.a port
  if f.tagged then
    (if s.on a ETH_PORT_EDIT.untag_en && s.f a ETH_PORT_EDIT.untag_vid == f.act.vid then d.take 12 ++ d.drop 16
     else d.take 14 ++ beBytes 2 (f.act.pcp * 8192 + be16 d 14 / 4096 % 2 * 4096 + f.act.vid) ++ d.drop 16)
  else if s.on a ETH_PORT_EDIT.tag_add then
    d.take 12 ++ beBytes 2 0x8100 ++ beBytes 2 (f.act.pcp * 8192 + f.act.vid) ++ d.drop 12
  else d

/-- The number of VLAN tags of a frame's bytes. -/
def ptpPos (d : List Byte) : Option Nat :=
  let et := baseET (countTags d)
  if countTags d < 3 ∧ be16 d et = 0x88f7 then some (et + 2) else none

/-- `l` with `v` in its place at position `k`. -/
def patch (l : List Byte) (k : Nat) (v : List Byte) : List Byte := l.take k ++ v ++ l.drop (k + v.length)

/-- 03 R70: the one-step operation of a frame on its bytes `d`, and whether its domainNumber matched none. -/
def State.oneStepEdit (s : State) (f : Frame) (c : Copy) (d : List Byte) : List Byte × Bool :=
  if c.port < 24 ∧ (f.oneStep = 1 ∨ f.oneStep = 2) ∧ s.on (TIM_PORT_CFG.a c.port) TIM_PORT_CFG.one_step_en = true then
    match ptpPos d with
    | none => (d, false)
    | some k =>
      match s.ptpDomain (byteAt d (k + 4)) with
      | none => (d, true)
      | some x =>
        let t := c.stamp.getD (x + 1) 0
        let old := sint 64 (beAt d (k + 8) 8)
        if f.oneStep = 1 then
          (patch (patch d (k + 8) (beBytes 8 (ubits 64 (old + (frac16 t : Nat))))) (k + 34)
            (beBytes 6 (secOf t) ++ beBytes 4 (nsOf t)), false)
        else (patch d (k + 8) (beBytes 8 (ubits 64 (old + tdiff t f.ref / 65536))), false)
  else (d, false)

/-- The bytes of a copy before its protection: edits applied (a mirror copy keeps its R-TAG as received), and whether a
one-step operation found no domain. The unit's own heartbeat carries WKT at its transmission (15 R360). -/
def State.copyPlain (s : State) (c : Copy) : List Byte × Bool :=
  let f := s.frame c.fid
  let d0 := if c.mir.isSome then f.data else s.rtagEdit f c.port
  let t := c.stamp.getD 3 0
  let d := if f.hb && be16 d0 14 == 1 then patch d0 32 (beBytes 6 (secOf t) ++ beBytes 4 (nsOf t)) else d0
  if 24 ≤ c.port then (d, false)
  else
    let e := s.tagEdit f c.port d
    if c.mir.isSome then (e, false) else s.oneStepEdit f c e

/-- R212: a mirror copy of a truncating session. -/
def State.mirrorCut (s : State) (c : Copy) (d : List Byte) : List Byte :=
  match c.mir with
  | some k => if s.on (QM_MIR_CFG.a k) QM_MIR_CFG.trunc && decide (124 < d.length) then d.take 124 else d
  | none => d

/-- The FCS of a copy, complemented where the copy is marked. -/
def copyFcs (mark : Bool) (d : List Byte) : List Byte := if mark then (fcsOf d).map (fun b => ~~~b) else fcsOf d

/-- 12 R292: what a port counts of a transmitted copy of `n` bytes. -/
def State.txCount (s : State) (c : Copy) (n : Nat) : State :=
  let ovl := decide (s.frameMax c.port + (if c.slot.isSome then 32 else 0) < n)
  let s1 := if ovl then s.mibInc c.port 14 else s
  if c.mark then s1.mibInc c.port 12 else (s1.mibInc c.port 10).mibAdd c.port 11 n

/-- 03 R69: a departing PTP event message from P24 or P25 is recorded. -/
def State.txPtp (s : State) (c : Copy) (d : List Byte) : State :=
  let f := s.frame c.fid
  if s.on (TIM_PORT_CFG.a c.port) TIM_PORT_CFG.ts_en ∧ (f.inPort = 24 ∨ f.inPort = 25) ∧ c.mir.isNone = true then
    match ptpPos d with
    | some k => if byteAt d k % 16 < 4 then s.pushTxts (s.ptpEntry c.port k d c.stamp) else s
    | none => s
  else s

/-- A copy leaves an external port: its bytes, counters, records and release. -/
def State.sendOut (s : State) (c : Copy) : State :=
  let f := s.frame c.fid
  let p := s.copyPlain c
  let d0 := s.mirrorCut c p.1
  let pad := decide (d0.length < 60)
  let d := if pad then d0 ++ List.replicate (60 - d0.length) 0#8 else d0
  let s1 := if pad then s.mibInc c.port 15 else s
  let s2 := (if p.2 then s1.mibInc c.port 17 else s1).txPtp c p.1
  let w := match c.slot with
    | some k => protect (s.saAt k) c.secCfg c.sci c.pn d
    | none => d
  let s3 := match c.slot with
    | some _ => s2.protCount c.port (d.length - 12) c.secCfg
    | none =>
      if s.on (CIP_PORT_CFG.a c.port) CIP_PORT_CFG.macsec_en && s.bypassed c.port f.ety then s2.cipInc c.port 10 else s2
  let out := w ++ copyFcs c.mark w
  let s4 := s3.txCount c out.length
  let x := s.port c.port
  let s5 := if x.lpbk = 3 then s3
    else if x.lpbk = 0 then s4.emit (.frame c.port out)
    else s4.setPort c.port { x with loop := x.loop ++ [out] }
  (s5.copyGone c).laneNote c.port

/-! ### Receive rings (12 R296, R298, R300) -/

/-- R300: a register of ring `r` of group `g` (0 P25 transmit, 1 P25 receive, 2 P24 transmit, 3 P24 receive). -/
def ringReg (g r o : Nat) : Nat := [0x1408000, 0x1408400, 0x1408800, 0x1408a00].getD g 0 + 0x40 * r + o

/-- R300: the size of a ring: a power of two from 64 to 4,096. -/
def ringSize (v : Nat) : Nat :=
  if 4096 ≤ v then 4096 else if 2048 ≤ v then 2048 else if 1024 ≤ v then 1024 else if 512 ≤ v then 512
  else if 256 ≤ v then 256 else if 128 ≤ v then 128 else 64

/-- The size of a ring. -/
def State.ringN (s : State) (g r : Nat) : Nat := ringSize (nbits (s.hw (ringReg g r 8)).toNat 12 0)

/-- The device's index of a ring. -/
def State.ringHead (s : State) (g r : Nat) : Nat := (s.hw (ringReg g r 0x10)).toNat % s.ringN g r

/-- R296: the ring is enabled and the device owns a descriptor; D3hot stops the DMA of P25 (R295). -/
def State.ringWork (s : State) (g r : Nat) : Bool :=
  nbit (s.hw (ringReg g r 8)).toNat 31 && (decide (2 ≤ g) || !s.d3hot) && s.ringHead g r != (s.hw (ringReg g r 0xc)).toNat % 4096 % s.ringN g r

/-- The address of the descriptor at the head of a ring. -/
def State.ringDesc (s : State) (g r : Nat) : Nat :=
  (s.hw (ringReg g r 0)).toNat / 64 * 64 + (s.hw (ringReg g r 4)).toNat * 2 ^ 32 + 64 * s.ringHead g r

/-- The head of a ring moves past a completed descriptor. -/
def State.ringStep (s : State) (g r : Nat) : State :=
  (s.setReg (ringReg g r 0x10) (BitVec.ofNat 32 ((s.ringHead g r + 1) % s.ringN g r))).bump (ringReg g r 0x14) ⟨31, 0⟩

/-- Bytes that the device writes for a ring: in host memory for P25, in Carr's memory for P24. -/
def State.ringWrite (s : State) (g a : Nat) (l : List Byte) : State :=
  if g < 2 then s.emit (.hostWrite a l) else s.carrWrite a l

/-- R301, R299: a ring event: causes 3 tx_done, 4 rx_ready, 5 rx_drop, 6 dma_err of EV62, or those of P24 in EV52. -/
def State.ringEvent (s : State) (g r k : Nat) : State :=
  if g < 2 then s.raise 62 k (r + 16 * g) else s.raise 52 k (if k = 6 then r + 16 * (g - 2) else r)

/-- R301: AER logs an uncorrectable error. -/
def State.aerLog (s : State) (k : Option Nat) : State :=
  match k with
  | none => s
  | some k =>
    let p := s.pcie
    let v := Cells.get cfgReset p.cfg 0x104 ||| BitVec.ofNat 32 (2 ^ k)
    { s with pcie := { p with cfg := Cells.set cfgReset p.cfg 0x104 v } }.raise 62 8 k

/-- 14 R341, R342: an uncorrectable error that a ring of P24 meets: in bank `k` of Carr SRAM, or from 16 on in the LPDDR5X, at `a`. -/
def State.memLog (s : State) (k : Option Nat) (a : Nat) : State :=
  match k with
  | none => s
  | some k => if k < 16 then s.sramError k else s.memError 0 (a - dramBase)

/-- DMA_ERROR (R301, R299): an access of ring `r` of group `g` fails and the ring stops; `wr` says that the status of a
transmit descriptor can still be written, `err` the error that AER logs of it, or the uncorrectable error that a ring of P24 meets. -/
def State.dmaError (s0 : State) (g r : Nat) (wr : Bool) (err : Option Nat) : State :=
  let s := if g < 2 then s0.aerLog err else s0.memLog err (s0.ringDesc g r)
  if nbit (s.hw (ringReg g r 8)).toNat 31 then
    let s1 := if (g = 0 ∨ g = 2) ∧ wr = true then
        ((s.ringWrite g (s.ringDesc g r + 40) (leBytes 4 (2 ^ 31 + 2))).bump (ringReg g r 0x14) ⟨31, 0⟩).bump
          (ringReg g r 0x18) ⟨31, 0⟩
      else s
    (s1.setF (ringReg g r 8) ⟨31, 31⟩ 0).ringEvent g r 6
  else s

/-- R298: the ring of a traffic class. -/
def State.ringFor (s : State) (port tc : Nat) : Nat :=
  if port = 25 then nbits (s.hw ETH_HRX_MAP.a).toNat (4 * tc + 3) (4 * tc)
  else nbits (s.hw ETH_CRX_MAP.a).toNat (2 * tc + 1) (2 * tc)

/-- R102: a time in the 12-byte layout. -/
def timeBytes (t : Nat) : List Byte := ((timeWords t).map (fun w => leBytes 4 w)).flatten

/-- R299: a P24 receive ring reaches its descriptor, and the buffer for `n` bytes that `desc` names. -/
def State.ringReach (s : State) (g r n : Nat) (desc : List Byte) : Bool :=
  decide (g < 2) || (inCarr (s.ringDesc g r) 64 && inCarr (leNat (slice desc 0 8)) n)

/-- R298: a copy reaches P24 or P25: its ring takes it, or drops it, or stops on an access error. `desc` is the descriptor at the head of
the ring. -/
def State.ringDeliver (s : State) (c : Copy) (desc : List Byte) : State :=
  let f := s.frame c.fid
  let g := if c.port = 25 then 1 else 3
  let r := s.ringFor c.port c.tc
  let d := s.mirrorCut c (s.copyPlain c).1
  let w := d ++ copyFcs c.mark d
  if s.ringWork g r && decide (w.length ≤ leNat (slice desc 8 2)) && !s.ringReach g r w.length desc then s.dmaError g r false none
  else if s.ringWork g r && decide (w.length ≤ leNat (slice desc 8 2)) then
    let a := s.ringDesc g r
    let st := 2 ^ 31 + b2n f.tsOk * 2 ^ 30 + f.pass * 2 ^ 29 + f.inPort
    let s1 := (s.ringWrite g (leNat (slice desc 0 8)) w).ringWrite g (a + 16)
      (timeBytes (if f.tsOk then f.tsFrt else 0) ++ timeBytes (if f.tsOk then f.tsWkt else 0) ++ leBytes 16 f.act.bits)
    let s2 := ((s1.ringWrite g (a + 10) (leBytes 2 w.length)).ringWrite g (a + 12) (leBytes 4 st)).ringStep g r
    if nbit (s.hw (ringReg g r 8)).toNat 30 then s2.ringEvent g r 4 else s2
  else (s.bump (ringReg g r 0x18) ⟨31, 0⟩).ringEvent g r 5

end Sys2Proof.Machine
end

