-- ==== Sys2Proof/Machine/Ports.lean ====
section
/-! DEFINITION. Ethernet ports (chapter 12): enable, disable and link state, in-band words, 10BASE-T1S, MDIO, lane tests,
counters, the PCIe link and descriptor rings; and the egress side of a port (10 R221, R222). -/

namespace Sys2Proof.Machine

/-! ### Enable, disable, link (R274, R277 to R281) -/

/-- R274: the ports that support a mode. -/
def modeOk (m n : Nat) : Bool :=
  if m = 1 then decide (n < 4) else if m = 2 ∨ m = 3 then decide (n < 12)
  else if m = 4 ∨ m = 5 then decide (4 ≤ n) && decide (n < 12)
  else if m = 6 then decide (12 ≤ n) && decide (n < 20)
  else if m = 7 then decide (4 ≤ n) && decide (n < 20)
  else m == 8 && decide (20 ≤ n) && decide (n < 24)

/-- R276: the mode carries an in-band control word. -/
def modeInband (m : Nat) : Bool := m == 3 || m == 4 || m == 5 || m == 7

/-- R279: ETH_PORT_STAT.ready follows the receive path; a change starts its hold timer. -/
def State.readyNote (s : State) (n : Nat) : State :=
  let r := s.pathReady n
  let a := ETH_PORT_STAT.a n
  if fldGet (s.reg a) ETH_PORT_STAT.ready = b2n r then s.laneNote n
  else ((s.setF a ETH_PORT_STAT.ready (b2n r)).setPort n { s.port n with since := s.now }).laneNote n

/-- R276: the speed code of a mode in its in-band word (log entry 20). -/
def inbandSpeed (m : Nat) : Nat := if m = 3 then 3 else if m = 4 then 5 else if m = 5 then 4 else 2

/-- R276: the in-band word that a port transmits: link up, full duplex, the speed of its mode (log entry 20). -/
def inbandWord (m : Nat) : Nat := 0x9001 + inbandSpeed m * (if m = 7 then 2 ^ 10 else 2 ^ 9)

/-- R276: a port that has been enabled transmits its in-band word. -/
def State.inbandOut (s : State) (n : Nat) : State :=
  let m := s.portMode n
  if modeInband m ∧ (s.port n).sig ≠ .idleElec then s.emit (.inband n (inbandWord m)) else s

/-- PORT_ENABLE (R277, R279, R274). -/
def State.portEnable (s : State) (n : Nat) : State :=
  let a := ETH_PORT_STAT.a n
  let w := ETH_PORT_MODE.a n
  let m := s.f w ETH_PORT_MODE.mode
  let ok := m == 0 || modeOk m n
  let prbs := s.f w ETH_PORT_MODE.prbs
  let s1 := (s.raiseIf (!ok) n 6 n).setFs a
    [(ETH_PORT_STAT.active_mode, if ok then m else 0), (ETH_PORT_STAT.link, 0), (ETH_PORT_STAT.ready, 0)]
  let s2 := s1.setPort n { s.port n with
    since := s.now, lpbk := s.f w ETH_PORT_MODE.lpbk, prbs := if prbs = 3 ∨ 20 ≤ n then 0 else prbs, coll := 0
    plcaLost := false, loop := [], toOn := false, toId := 0, toAt := 0, toBusy := false, burst := 0 }
  let s3 := if n < 20 then s2.setF (ETH_PORT_PRBS.a n) ETH_PORT_PRBS.locked 0
    else s2.setF (ETH_T1S_STAT.a n) ETH_T1S_STAT.plca_status 0
  let s4 := (s3.preInit n).readyNote n
  (s4.setPort n { s4.port n with since := s.now }).inbandOut n

/-- R278: the copies of a port that are not in transmission are flushed. -/
def State.flushPort (s : State) (n : Nat) : State :=
  (s.copies.filter (fun c => c.port == n && c.st != 1)).foldl
    (fun u c => ((if c.st = 2 then u.cutShort n else u).mibInc n 16).copyDrop c) s

/-- PORT_DISABLE (R278). -/
def State.portDisable (s : State) (n : Nat) : State :=
  let s1 := s.setFs (ETH_PORT_STAT.a n) [(ETH_PORT_STAT.link, 0), (ETH_PORT_STAT.ready, 0)]
  (((s1.flushPort n).breakRx n).wfqAll).laneNote n

/-- R277, R278: a write of ETH_PORT_CFG. -/
def State.portCfgChanged (s : State) (n : Nat) (old : Word) : State :=
  let was := fldGet old ETH_PORT_CFG.en
  let now := fldGet (s.reg (ETH_PORT_CFG.a n)) ETH_PORT_CFG.en
  if was = 0 ∧ now = 1 then s.portEnable n
  else if was = 1 ∧ now = 0 then s.portDisable n
  else s.readyNote n

/-- RX_PATH_CHANGE (R279): the conditions of a port's receive path. -/
def State.rxPath (s : State) (n : Nat) (lock lf rf : Bool) : State :=
  let s1 := s.setPort n { s.port n with lock := lock, lf := lf, rf := rf }
  let s2 := if 1 ≤ s.portMode n ∧ s.portMode n ≤ 5 then
      s1.setFs (ETH_PORT_STAT.a n) [(ETH_PORT_STAT.local_fault, b2n lf), (ETH_PORT_STAT.remote_fault, b2n rf)]
    else s1
  s2.readyNote n

/-- LINK_UP (R279, 16 R383): the receive path has been ready for up_hold; a fast_link port does not wait, once after a wake. -/
def State.linkGoesUp (s : State) (n : Nat) : State :=
  let a := ETH_PORT_STAT.a n
  let quick := nbit s.pwr.fast n
  let hold := if quick then 0 else max 1 (s.f (ETH_PORT_LINK.a n) ETH_PORT_LINK.up_hold)
  let p := s.pwr
  let u : State := if quick then { s with pwr := { p with fast := p.fast - 2 ^ n } } else s
  if s.portOn n && !s.linkUp n && fldGet (s.reg a) ETH_PORT_STAT.ready == 1 &&
      decide ((s.port n).since + msTicks hold ≤ s.now) then
    (u.setF a ETH_PORT_STAT.link 1).raise n 2 n
  else s

/-- LINK_DOWN (R279, R280): the receive path has been not ready for down_hold. -/
def State.linkGoesDown (s : State) (n : Nat) : State :=
  let a := ETH_PORT_STAT.a n
  let hold := s.f (ETH_PORT_LINK.a n) ETH_PORT_LINK.down_hold
  if s.portOn n && s.linkUp n && fldGet (s.reg a) ETH_PORT_STAT.ready == 0 &&
      decide ((s.port n).since + usTicks hold ≤ s.now) then
    ((((s.setF a ETH_PORT_STAT.link 0).raise n 1 n).mibInc n 18).breakRx n).wfqAll
  else s

/-- INBAND_WORD (R276): the word is recorded; a link that is up with another speed or half duplex is reported. -/
def State.inband (s : State) (n w : Nat) : State :=
  let m := s.portMode n
  if modeInband m && s.portOn n then
    let s1 := (s.setF (ETH_PORT_STAT.a n) ETH_PORT_STAT.inband w).readyNote n
    let sp := if m = 7 then nbits w 11 10 else nbits w 11 9
    s1.raiseIf (nbit w 15 && (sp != inbandSpeed m || !nbit w 12)) n 5 n
  else s

/-! ### 10BASE-T1S (R287 to R289) -/

/-- R288: the port takes part in PLCA. -/
def State.plcaOn (s : State) (n : Nat) : Bool :=
  decide (20 ≤ n) && s.portMode n == 8 && s.portOn n && s.on (ETH_T1S_PLCA.a n) ETH_T1S_PLCA.plca_en &&
  s.f (ETH_T1S_PLCA.a n) ETH_T1S_PLCA.node_id != 255

/-- PLCA_BEACON (R288). -/
def State.plcaBeacon (s : State) (n : Nat) : State :=
  if s.plcaOn n then
    let x := s.port n
    let y : PortSt := { x with beacon := s.now, plcaLost := false }
    let z : PortSt := if s.f (ETH_T1S_PLCA.a n) ETH_T1S_PLCA.node_id = 0 then y
      else { y with toOn := true, toId := 0, toAt := s.now, toBusy := false, burst := 0 }
    ((s.setF (ETH_T1S_STAT.a n) ETH_T1S_STAT.plca_status 1).setPort n z).raiseIf x.plcaLost n 8 n
  else s

/-- R288: the coordinator begins a cycle of transmit opportunities with a BEACON of 20 bit times (log entry 61). -/
def State.plcaSend (s : State) (n : Nat) : State :=
  let u := (s.emit (.beacon n)).plcaBeacon n
  u.setPort n { u.port n with toOn := true, toId := 0, toAt := s.now + 25 * 20, toBusy := false, burst := 0 }

/-- R288: the transmit opportunity in progress ends; after the last of its cycle the coordinator sends a BEACON. -/
def State.plcaNext (s : State) (n : Nat) : State :=
  let a := ETH_T1S_PLCA.a n
  let x := s.port n
  if s.f a ETH_T1S_PLCA.node_id = 0 ∧ s.f a ETH_T1S_PLCA.node_count ≤ x.toId + 1 then s.plcaSend n
  else s.setPort n { x with toId := min 255 (x.toId + 1), toAt := s.now, toBusy := false, burst := 0 }

/-- R288: the transmit opportunities of a segment on a TIME tick, 25 ticks to a bit time: one lasts to_timer unless a frame is sent in
it; after a frame of its own the port may send burst_cnt further ones, each within burst_tmr. -/
def State.plcaTick (s : State) (n : Nat) : State :=
  let x := s.port n
  if !s.plcaOn n || x.lpbk != 0 then s
  else
    let own := x.toId == s.f (ETH_T1S_PLCA.a n) ETH_T1S_PLCA.node_id
    if x.rx.isSome || (s.sending n).isSome then (if x.toBusy then s else s.setPort n { x with toBusy := true })
    else if !x.toOn then (if s.f (ETH_T1S_PLCA.a n) ETH_T1S_PLCA.node_id = 0 then s.plcaSend n else s)
    else if x.toBusy then
      (if own && decide (x.burst < s.f (ETH_T1S_BURST.a n) ETH_T1S_BURST.burst_cnt) then
        s.setPort n { x with toBusy := false, burst := x.burst + 1, toAt := s.now }
       else s.plcaNext n)
    else
      let t := if own && decide (0 < x.burst) then s.f (ETH_T1S_BURST.a n) ETH_T1S_BURST.burst_tmr
        else s.f (ETH_T1S_PLCA.a n) ETH_T1S_PLCA.to_timer
      if x.toAt + 25 * t ≤ s.now then s.plcaNext n else s

/-- R288: the segments on a TIME tick. -/
def State.tickPlca (s : State) : State := [20, 21, 22, 23].foldl (fun (u : State) n => u.plcaTick n) s

/-- R287, R288: a port may begin a frame: a segment is half duplex, and while PLCA runs the port sends in its own transmit opportunity. -/
def State.mayTalk (s : State) (n : Nat) : Bool :=
  let x := s.port n
  if s.portMode n ≠ 8 ∨ x.lpbk = 1 ∨ x.lpbk = 2 then true
  else x.rx.isNone &&
    (!(s.plcaOn n && fldGet (s.reg (ETH_T1S_STAT.a n)) ETH_T1S_STAT.plca_status == 1) ||
      (x.toOn && !x.toBusy && x.toId == s.f (ETH_T1S_PLCA.a n) ETH_T1S_PLCA.node_id && decide (x.toAt ≤ s.now)))

/-- R288: the time without a BEACON that loses PLCA, in ticks (a bit time is 25 ticks). -/
def State.plcaLoss (s : State) (n : Nat) : Nat :=
  4 * s.f (ETH_T1S_PLCA.a n) ETH_T1S_PLCA.to_timer * s.f (ETH_T1S_PLCA.a n) ETH_T1S_PLCA.node_count * 25

/-- PLCA_TIMEOUT (R288). -/
def State.plcaTimeout (s : State) (n : Nat) : State :=
  let x := s.port n
  if s.plcaOn n && fldGet (s.reg (ETH_T1S_STAT.a n)) ETH_T1S_STAT.plca_status == 1 &&
      decide (x.beacon + s.plcaLoss n ≤ s.now) then
    ((s.setF (ETH_T1S_STAT.a n) ETH_T1S_STAT.plca_status 0).setPort n { x with plcaLost := true }).raise n 7 n
  else s

/-- COLLISION (R289): in PLCA it is counted; under CSMA/CD the frame in transmission backs off, and is dropped after its 16th
collision. A frame in reception ends abnormally. -/
def State.collision (s : State) (n : Nat) : State :=
  if s.portMode n = 8 ∧ s.portOn n = true then
    let s0 := s.breakRx n
    if s.plcaOn n && fldGet (s.reg (ETH_T1S_STAT.a n)) ETH_T1S_STAT.plca_status == 1 then (s0.mibInc n 20).raise n 9 n
    else match s0.sending n with
      | none => s0
      | some c =>
        let k := (s0.port n).coll + 1
        if 16 ≤ k then (((s0.setPort n { s0.port n with coll := 0 }).mibInc n 19).copyGone c).wfqAll
        else s0.setPort n { s0.port n with coll := k }
  else s

/-! ### MDIO (R285, R286) -/

/-- The MDIO mailboxes. -/
def mdioCmd : Nat := 0x1403000
def mdioRes : Nat := 0x1403100

/-- R286: the operand words are in range for an op. -/
def mdioOk (op d0 d1 : Nat) : Bool :=
  decide (d0 < 2 ^ 29) && decide (d0 / 2 ^ 21 % 8 = 0) &&
  (if op = 2 ∨ op = 5 ∨ op = 6 then d0 % 65536 == 0 else true) && (if op = 8 then decide (d1 < 65536) else d1 == 0)

/-- R285: the 32 bits of an MDIO frame after its preamble: start, operation, address, register or device, turnaround, data. -/
def mdioFrame (st op d0 data : Nat) : Nat :=
  st * 2 ^ 30 + op * 2 ^ 28 + nbits d0 28 24 * 2 ^ 23 + nbits d0 20 16 * 2 ^ 18 + 2 * 2 ^ 16 + data

/-- R286: the frames of an operation. -/
def mdioFrames (op d0 d1 : Nat) : List Nat :=
  if op = 1 then [mdioFrame 1 1 d0 (d0 % 65536)]
  else if op = 2 then [mdioFrame 1 2 d0 0]
  else if op = 3 then [mdioFrame 0 0 d0 (d0 % 65536)]
  else if op = 4 then [mdioFrame 0 1 d0 (d0 % 65536)]
  else if op = 5 then [mdioFrame 0 3 d0 0]
  else if op = 6 then [mdioFrame 0 2 d0 0]
  else if op = 7 then [mdioFrame 0 0 d0 (d0 % 65536), mdioFrame 0 3 d0 0]
  else [mdioFrame 0 0 d0 (d0 % 65536), mdioFrame 0 1 d0 (d1 % 65536)]

/-- R285: a frame with its preamble of 32 ones, unless it is suppressed. -/
def mdioOut (m : Nat) (short : Bool) (b : Nat) : Output :=
  if short then .mdio m 32 b else .mdio m 64 ((2 ^ 32 - 1) * 2 ^ 32 + b)

/-- R286: an ETH_MDIO_CMD request: it fails at once, or its frames are sent and the mailbox stays busy. -/
def State.mdioReq (s : State) (op arg : Nat) : State :=
  let d0 := s.dw mdioCmd 0
  let d1 := s.dw mdioCmd 1
  match lowestErr [(decide (1 ≤ op) && decide (op ≤ 8) && !mdioOk op d0 d1, 2), (op == 0 || decide (8 < op) || decide (1 < arg), 15)] with
  | some e => s.mbxEnd mdioCmd 2 (some e)
  | none =>
    let s1 : State := { s with mdio := { busy := true, op := op, master := arg, d0 := d0, d1 := d1 } }
    let short := s.on (ETH_MDIO_CFG.a arg) ETH_MDIO_CFG.pre_sup
    (mdioFrames op d0 d1).foldl (fun u b => u.emit (mdioOut arg short b)) s1

/-- MDIO_OP_DONE (R286): the last frame of the operation ends; a read delivers `data`, or nothing where the PHY did not
respond. `again` says that a write of 1 to req falls in the same cycle (02 R37). -/
def State.mdioDone (s : State) (data : Nat) (resp again : Bool) : State :=
  if s.mdio.busy then
    let op := s.mdio.op
    let rd := op == 2 || op == 5 || op == 6 || op == 7
    let s1 : State := { s with mdio := {} }
    let s2 := if rd && resp then s1.snap mdioRes [op * 2 ^ 24 + data] else s1
    let s3 := s2.mbxEnd mdioCmd 2 (if rd && !resp then some 1 else none)
    if again then s3.setF (mdioCmd + 4) MBX_STAT.overrun 1 else s3
  else s

/-! ### Counters and lane tests (R291, R292) -/

/-- The ETH_MIB mailbox. -/
def ethMib : Nat := 0x1403200

/-- R292: an ETH_MIB request. -/
def State.mibReq (s : State) (op arg : Nat) : State :=
  let port := nbits arg 12 8
  let k := arg % 32
  if 1 < op ∨ 23 < port ∨ 20 < k ∨ arg / 2 ^ 13 ≠ 0 ∨ nbits arg 7 5 ≠ 0 then s.mbxFail ethMib 15
  else
    let v := Cells.get (fun _ => 0) s.mib (port * 32 + k)
    let s1 := s.snap ethMib [v % 2 ^ 32, v / 2 ^ 32]
    if op = 1 then { s1 with mib := Cells.set (fun _ => 0) s1.mib (port * 32 + k) 0 } else s1

/-- PRBS_BIT_ERROR (R291): the checker synchronises, or finds a bit error. -/
def State.prbsBit (s : State) (n : Nat) (sync : Bool) : State :=
  let a := ETH_PORT_PRBS.a n
  if s.portOn n && (s.port n).prbs != 0 then
    (if sync then s.setF a ETH_PORT_PRBS.locked 1
     else if fldGet (s.reg a) ETH_PORT_PRBS.locked = 1 then s.bump a ETH_PORT_PRBS.errors else s)
  else s

/-! ### PCIe and rings (R295 to R301) -/

/-- PCIE_LINK_CHANGE (R301): the link comes up at generation `g` (1 to 4), or goes down (0), with the error that AER logs of it. -/
def State.pcieLink (s : State) (g : Nat) (aer : Option Nat) : State :=
  if g = s.pcieGen then s
  else if g = 0 then ({ s with pcieGen := 0 }.raise 62 2 0).aerLog aer
  else { s with pcieGen := g }.raise 62 1 g

/-- R296: a write of a ring's CFG register. -/
def State.ringCfgChanged (s : State) (g r : Nat) (old : Word) : State :=
  if nbit old.toNat 31 = false ∧ nbit (s.reg (ringReg g r 8)).toNat 31 = true then
    (s.setReg (ringReg g r 0xc) 0#32).setReg (ringReg g r 0x10) 0#32
  else s

/-- R297: the result of a transmit descriptor before its frame enters. -/
def descResult (d : List Byte) : Nat :=
  let n := leNat (slice d 8 2)
  let fl := byteAt d 10
  if n < 60 ∨ 9212 < n then 1 else if nbits fl 2 1 = 3 ∨ 8 ≤ fl then 4 else 0

/-- R102: the time that 12 bytes of a descriptor spell, none where all are 0. One whose nanoseconds fail the check against 10^9 is an open
time (log entry 56). -/
def State.bytesTime (s : State) (l : List Byte) : Option Nat × State :=
  if l.all (fun b => b == 0#8) then (none, s)
  else
    let t := timeOf12 (leNat (slice l 0 4)) (leNat (slice l 4 4)) (leNat (slice l 8 4))
    if t.2 then (some t.1, s)
    else
      let v := s.fresh
      (some (v.1.toNat % timeMod), v.2)

/-- R297: a transmit descriptor completes with a result. -/
def State.txDescDone (s : State) (g r : Nat) (irq : Bool) (res : Nat) : State :=
  let s1 := (s.ringWrite g (s.ringDesc g r + 40) (leBytes 4 (2 ^ 31 + res))).ringStep g r
  let s2 := if res = 0 then s1 else s1.bump (ringReg g r 0x18) ⟨31, 0⟩
  if irq then s2.ringEvent g r 3 else s2

/-- R296: the ring whose turn it is among the `n` transmit rings of group `g`. -/
def State.ringTurn (s : State) (g n : Nat) : Option Nat :=
  rotFind n (Cells.get (fun _ => 0) s.ringPtr g) (fun r => s.ringWork g r)

/-- TX_DESCRIPTOR (R296, R297): the device takes the descriptor `d` and the buffer `buf` of ring `r` of group `g`; P25 alone takes a launch
time (10 R230). -/
def State.txDesc (s : State) (g r : Nat) (d buf : List Byte) : State :=
  let n := if g = 0 then 16 else 4
  if s.ringTurn g n = some r then
    let s0 : State := { s with ringPtr := Cells.set (fun _ => 0) s.ringPtr g ((r + 1) % n) }
    let res := descResult d
    let irq := nbit (byteAt d 10) 0
    if res ≠ 0 then s0.txDescDone g r irq res
    else
      let port := if g = 0 then 25 else 24
      let l := if g = 0 then s0.bytesTime (slice d 12 12) else (none, s0)
      let t := l.2.bytesTime (slice d 24 12)
      let e := t.2.enter
        { port := port, inPort := port, data := slice buf 0 (leNat (slice d 8 2)), launch := l.1
          oneStep := nbits (byteAt d 10) 2 1, ref := t.1.getD 0 }
      e.2.txDescDone g r irq (if e.1 then 0 else 3)
  else s

/-- 17 R390: a PCIe reset disables every P25 ring. -/
def State.ringsOff (s : State) : State :=
  (List.range 16).foldl (fun u r => (u.setF (ringReg 0 r 8) ⟨31, 31⟩ 0).setF (ringReg 1 r 8) ⟨31, 31⟩ 0) s

/-! ### Egress (10 R221, R222; 09 R193) -/

/-- The first copy of a frame begins (09 R209, R215), and a fair-queueing selection moves the port's virtual time (10 R234). -/
def State.begins (s : State) (c : Copy) : State := (s.setFrame { s.frame c.fid with begun := true }).wfqTaken c

/-- A copy begins its transmission: its stamp, its SA and PN, as its egress edit begins. None where it is dropped for want of
an SA. -/
def State.startCopy (s0 : State) (c : Copy) (saBad : Nat) : State :=
  let u := s0.begins c
  let s := if u.portMode c.port = 8 then u.setPort c.port { u.port c.port with coll := 0, toBusy := true } else u
  let f := s.frame c.fid
  let v := s.fresh
  let st := v.2.txStamps c.port (v.1.toNat % 193)
  if s.encrypts c.port f.ety then
    let k := v.2.encodeSa c.port saBad
    match k.1 with
    | none => ((k.2.setFrame { f with begun := (s0.frame c.fid).begun }).copyDrop c).wfqAll
    | some j =>
      let pn := k.2.takePn j
      pn.2.setCopy { c with
        st := 1, start := s.now, stamp := st, slot := some j, pn := pn.1, secCfg := s.hw (CIP_PORT_CFG.a c.port)
        sci := s.sciAt (CIP_TXSCI_LO.a c.port) (CIP_TXSCI_HI.a c.port) }
  else v.2.setCopy { c with st := 1, start := s.now, stamp := if c.port < 24 then st else [] }

/-! ### The commands that no software access issues -/

/-- FRAME_HEAD (R147, R282): the frame `wire`, FCS included, arrives on port `n`; `ph` places its first bit in the tick. -/
def execFrameHead (n : Fin 24) (wire : List Byte) (abort looped : Bool) (ph : Fin 16) (s : State) :
    Host.Outcome State Fault Refusal :=
  .next (s.live (s.frameHead n.val wire abort looped ph.val))

/-- SECTAG_COMPLETE (R256). -/
def execSectagComplete (n : Fin 24) (bad : Bool) (s : State) : Host.Outcome State Fault Refusal := .next (s.live (s.secTag n.val bad))

/-- LOOKUP_START (R155): `got` bytes of the frame in reception on port `n` have arrived. -/
def execLookupStart (n : Fin 24) (got : BitVec 14) (ends : List (Fin 24)) (s : State) : Host.Outcome State Fault Refusal :=
  .next (s.live ((s.endCharges (ends.map (·.val))).lookupStart n.val got.toNat).wfqAll)

/-- RX_PATH_CHANGE (R279). -/
def execRxPathChange (n : Fin 24) (lock lf rf : Bool) (s : State) : Host.Outcome State Fault Refusal :=
  .next (s.live (s.rxPath n.val lock lf rf))

/-- LINK_UP (R279). -/
def execLinkUp (n : Fin 24) (s : State) : Host.Outcome State Fault Refusal := .next (s.live (s.linkGoesUp n.val))

/-- LINK_DOWN (R279). -/
def execLinkDown (n : Fin 24) (s : State) : Host.Outcome State Fault Refusal := .next (s.live (s.linkGoesDown n.val))

/-- INBAND_WORD (R276). -/
def execInbandWord (n : Fin 24) (w : BitVec 16) (s : State) : Host.Outcome State Fault Refusal :=
  .next (s.live (s.inband n.val w.toNat))

/-- PLCA_BEACON (R288): on port 20 + `k`. -/
def execPlcaBeacon (k : Fin 4) (s : State) : Host.Outcome State Fault Refusal := .next (s.live (s.plcaBeacon (20 + k.val)))

/-- PLCA_TIMEOUT (R288): on port 20 + `k`. -/
def execPlcaTimeout (k : Fin 4) (s : State) : Host.Outcome State Fault Refusal := .next (s.live (s.plcaTimeout (20 + k.val)))

/-- COLLISION (R289): on port 20 + `k`. -/
def execCollision (k : Fin 4) (s : State) : Host.Outcome State Fault Refusal := .next (s.live (s.collision (20 + k.val)))

/-- MDIO_OP_DONE (R286). -/
def execMdioOpDone (data : BitVec 16) (resp again : Bool) (s : State) : Host.Outcome State Fault Refusal :=
  .next (s.live (s.mdioDone data.toNat resp again))

/-- PRBS_BIT_ERROR (R291). -/
def execPrbsBitError (n : Fin 20) (sync : Bool) (s : State) : Host.Outcome State Fault Refusal := .next (s.live (s.prbsBit n.val sync))

/-- PCIE_LINK_CHANGE (R301): generation `g`, 0 for a link that goes down; `aer` the error that AER logs of it. -/
def execPcieLinkChange (g : Fin 5) (aer : Option (Fin 32)) (s : State) : Host.Outcome State Fault Refusal :=
  .next (s.live (s.pcieLink g.val (aer.map (·.val))))

/-- R297, R299: ring `r` of P24 takes its descriptor and buffer from Carr's memory, or stops on an access error. -/
def State.txCarr (s : State) (r : Nat) : State :=
  let a := s.ringDesc 2 r
  let d := s.carrRead a 64
  let b := leNat (slice d 0 8)
  let n := leNat (slice d 8 2)
  if s.ringTurn 2 4 ≠ some r then s
  else if !inCarr a 64 then s.dmaError 2 r false none
  else if descResult d = 0 ∧ inCarr b n = false then s.dmaError 2 r true none
  else s.txDesc 2 r d (s.carrRead b n)

/-- TX_DESCRIPTOR (R297): of ring `r` of P25; the host's descriptor and buffer. Rings 16 to 19 are those of P24, whose
descriptor and buffer stand in Carr's memory. -/
def execTxDescriptor (r : Fin 20) (d buf : List Byte) (s : State) : Host.Outcome State Fault Refusal :=
  if r.val < 16 then .next (s.live (s.txDesc 0 r.val (slice d 0 64) buf))
  else .next (s.live (s.txCarr (r.val - 16)))

/-- DMA_ERROR (R301): of ring `r` of group `g`; the groups of P24 have four rings. -/
def execDmaError (g : Fin 4) (r : Fin 16) (wr : Bool) (err : Option (Fin 32)) (s : State) : Host.Outcome State Fault Refusal :=
  if g.val < 2 ∨ r.val < 4 then .next (s.live (s.dmaError g.val r.val wr (err.map (·.val)))) else .fault (.illFormed "DMA_ERROR")

end Sys2Proof.Machine
end

