-- ==== Sys2Proof/Machine/Gateway.lean ====
section
/-! DEFINITION. CAN, LIN and the gateway (13): the controllers and their message RAM, the gateway pool and the sequencers'
input queues, the batches toward Ethernet and the receive streams from P26. -/

namespace Sys2Proof.Machine

/-! ### Message RAM (R305) -/

/-- The message RAM's base in the table windows. -/
def msgBase : Nat := 0x3a00000

/-- A word of the message RAM. -/
def State.mw (s : State) (o : Nat) : Nat := s.winW (msgBase + o)

/-- A word of the message RAM written by the device. -/
def State.setMw (s : State) (o v : Nat) : State :=
  { s with win := memPut (fun _ => 0#8) s.win (msgBase + o) (leBytes 4 v) }

/-- Bytes of the message RAM. -/
def State.msgBytes (s : State) (o n : Nat) : List Byte := memBytes (fun _ => 0#8) s.win (msgBase + o) n

/-- Bytes of the message RAM written by the device. -/
def State.setMsg (s : State) (o : Nat) (l : List Byte) : State := { s with win := memPut (fun _ => 0#8) s.win (msgBase + o) l }

/-- Word `k` of the descriptor of buffer `b` of controller `c`. -/
def canDesc (c b k : Nat) : Nat := 0x400 * c + 0x10 * b + 4 * k

/-- Word `k` of the frame-table entry of identifier `i` of controller `l`. -/
def linEnt (l i k : Nat) : Nat := 0x6000 + 0x400 * l + 0x10 * i + 4 * k

/-- The offset of a data unit. -/
def unitOff (u : Nat) : Nat := 0x8000 + 0x40 * u

/-- R305: the data units of a message of `n` bytes. -/
def unitsOf (n : Nat) : Nat := ceilDiv (16 + n) 64

/-- A message header's word `k` in unit `u`. -/
def State.hdr (s : State) (u k : Nat) : Nat := s.mw (unitOff u + 4 * k)

/-- R302, R305: the data length that the message at unit `u` states: the 11 bits of H0 say 2,048 as 0, a length that CAN XL has and no
message of it is without data (log entry 28). -/
def State.msgLen (s : State) (u fmt : Nat) : Nat :=
  let n := s.hdr u 0 % 2048
  if fmt = 2 ∧ n = 0 then 2048 else n

/-- The data of the message at unit `u` in a format. -/
def State.msgData (s : State) (u fmt : Nat) : List Byte := s.msgBytes (unitOff u + 16) (s.msgLen u fmt)

/-- R302: a length that a frame of the format can carry. -/
def canLenOk (fmt n : Nat) : Bool := if fmt = 0 then decide (n ≤ 8) else if fmt = 1 then decide (n ≤ 64) else decide (1 ≤ n) && decide (n ≤ 2048)

/-- R302, R305: brs is of CAN FD alone, rtr of classical CAN alone. -/
def canFlags (fmt flags : Nat) : Nat := (if fmt = 1 then flags / 2 % 2 * 2 else 0) + (if fmt = 0 then flags % 2 else 0)

/-- R305, R307: a message written in the order data, header. `t` is the WKT of its start of frame. -/
def State.putMsg (s : State) (u h0 h1 t : Nat) (data : List Byte) : State :=
  ((((s.setMsg (unitOff u + 16) data).setMw (unitOff u) h0).setMw (unitOff u + 4) h1).setMw (unitOff u + 8)
    (nsOf t)).setMw (unitOff u + 12) (secOf t % 65536)

/-! ### The gateway pool and the input queues (R308 to R310) -/

/-- A CAN controller's bookkeeping. -/
def State.canSt (s : State) (c : Nat) : CanSt := Cells.get (fun _ => {}) s.can c

/-- The state with a CAN controller's bookkeeping set. -/
def State.setCan (s : State) (c : Nat) (x : CanSt) : State := { s with can := Cells.set (fun _ => {}) s.can c x }

/-- A sequencer's input queue. -/
def State.inqOf (s : State) (n : Nat) : List Nat := Cells.get (fun _ => []) s.inq n

/-- The state with a sequencer's input queue set. -/
def State.setInq (s : State) (n : Nat) (l : List Nat) : State := { s with inq := Cells.set (fun _ => []) s.inq n l }

/-- The buffer references of the handles that a sequencer holds. -/
def State.heldBy (s : State) (n : Nat) : List Nat := Cells.get (fun _ => []) s.held n

/-- The state with a sequencer's held handles set. -/
def State.setHeld (s : State) (n : Nat) (l : List Nat) : State := { s with held := Cells.set (fun _ => []) s.held n l }

/-- R112: the handle of a message. -/
def GwMsg.handle (m : GwMsg) : Nat := m.kind * 2 ^ 28 + m.bus % 32 * 2 ^ 23 + m.unit % 65536

/-- R112: the CAN format of a message. -/
def GwMsg.fmt (m : GwMsg) : Nat := nbits m.ident 30 29

/-- The message in the pool with a buffer reference. -/
def State.msgAt (s : State) (u : Nat) : Option GwMsg := s.msgs.find? (fun m => m.unit == u)

/-- R308: the pool unit belongs to a message. -/
def State.unitUsed (s : State) (u : Nat) : Bool := s.msgs.any (fun m => decide (m.unit ≤ u) && decide (u < m.unit + m.n))

/-- R308: the first unit of the lowest run of `n` consecutive free units from unit `u` on, of `k` candidates. -/
def State.freeRun (s : State) (hi n : Nat) : Nat → Nat → Option Nat
  | 0, _ => none
  | k + 1, u =>
    if u + n ≤ hi ∧ (List.range n).all (fun j => !(s.unitUsed (u + j))) = true then some u else s.freeRun hi n k (u + 1)

/-- R310: one reference to a message ends; its units return to the pool with the last one. -/
def State.gwRelease (s : State) (u : Nat) : State :=
  let l := s.msgs.map (fun m => if m.unit = u then { m with refs := m.refs - 1 } else m)
  { s with msgs := l.filter (fun m => decide (0 < m.refs)) }

/-- R310: one more reference to a message. -/
def State.gwRef (s : State) (u : Nat) : State :=
  { s with msgs := s.msgs.map (fun m => if m.unit = u then { m with refs := m.refs + 1 } else m) }

/-- A gateway counter advances (R321). -/
def State.gwCount (s : State) (k : Nat) : State := s.bump (GW_CNT.a k) GW_CNT.count

/-- R308, R309: a message handed to the gateway for sequencer `sq`; `t` is the time in its header. -/
def State.gwIn (s : State) (sq : Nat) (m : GwMsg) (h0 h1 t : Nat) (data : List Byte) : State :=
  let n := unitsOf data.length
  let lo := s.f GW_POOL.a GW_POOL.lo
  let hi := s.f GW_POOL.a GW_POOL.hi
  match s.freeRun hi n (hi - lo) lo with
  | none => (s.gwCount 0).raise 28 1 sq
  | some u =>
    if 256 ≤ (s.inqOf sq).length then (s.gwCount 1).raise 28 2 sq
    else
      let m1 := { m with unit := u, n := n, refs := 1 }
      let s1 := s.putMsg u h0 h1 t data
      let s2 : State := { s1 with msgs := s1.msgs ++ [m1] }
      s2.setInq sq (s2.inqOf sq ++ [m1.handle])

/-- R310: a sequencer that enters STOP, HALT or TRAP, or starts, loses every handle that it holds. -/
def State.gwReleaseAll (s : State) (n : Nat) : State := ((s.heldBy n).foldl (fun u x => u.gwRelease x) s).setHeld n []

/-- GRX (05 R113): the head of the queue, or 0. -/
def State.gwPop (s : State) (n : Nat) : Nat × State :=
  match s.inqOf n with
  | [] => (0, s)
  | h :: r => (h, (s.setInq n r).setHeld n (s.heldBy n ++ [h % 65536]))

/-- The message of a handle that a sequencer holds (05 R113). -/
def State.gwHeld (s : State) (n h : Nat) : Option GwMsg :=
  match s.msgAt (h % 65536) with
  | some m => if m.handle = h ∧ (s.heldBy n).contains m.unit = true then some m else none
  | none => none

/-- The release of a handle (05 R113). -/
def State.gwDrop (s : State) (n u : Nat) : State := (s.setHeld n ((s.heldBy n).erase u)).gwRelease u

/-! ### CAN (R302, R307, R311 to R313, R317) -/

/-- The event source of a controller (R322). -/
def canSrc (c : Nat) : Nat := 24 + c / 8

/-- A counter of a controller advances (R319). -/
def State.canCount (s : State) (c k : Nat) : State := s.bump (CAN_CNT.a c k) CAN_CNT.count

/-- The protocol state of a controller: 0 error active, 1 error passive, 2 bus-off, 3 off. -/
def State.canState (s : State) (c : Nat) : Nat := fldGet (s.reg (CAN_STAT.a c)) CAN_STAT.state

/-- 15 R363: a controller of PAIR_BUS while the bus role is not held. -/
def State.busMuted (s : State) (k : Nat) : Bool :=
  fldGet (s.reg PAIR_STAT.a) PAIR_STAT.state != 0 && nbit (s.hw PAIR_BUS.a).toNat k &&
  !(nbit (fldGet (s.reg PAIR_STAT.a) PAIR_STAT.roles) 1)

/-- A controller that sends nothing: listen-only, or muted by the pair logic. -/
def State.canQuiet (s : State) (c : Nat) : Bool := s.on (CAN_CFG.a c) CAN_CFG.listen || s.busMuted c

/-- R302: the format is enabled: 0 classical, 1 CAN FD, 2 CAN XL. -/
def State.canFmt (s : State) (c fmt : Nat) : Bool :=
  fmt == 0 || (fmt == 1 && s.on (CAN_CFG.a c) CAN_CFG.fd_en) || (fmt == 2 && s.on (CAN_CFG.a c) CAN_CFG.xl_en)

/-- R312: the place of a message in CAN arbitration: the leading 11 bits, base before extended, the rest. -/
def arbKey (ident : Nat) : Nat :=
  if nbit ident 31 then nbits ident 28 18 * 2 ^ 19 + 2 ^ 18 + nbits ident 17 0 else ident % 2048 * 2 ^ 19

/-- The BUS cycle that begins at or after an instant in units of 250 ps (R134, R313). -/
def busCycle (t : Nat) : Nat := ceilDiv t 50

/-- The BUS cycle of the present tick. -/
def State.busNow (s : State) : Nat := busCycle (16 * s.now)

/-- The identifier word of a buffer (05 R112). -/
def State.bufIdent (s : State) (c b : Nat) : Nat :=
  let w0 := s.mw (canDesc c b 0)
  (if nbits w0 28 27 = 2 then 0 else nbits w0 26 26 * 2 ^ 31) + nbits w0 28 27 * 2 ^ 29 + s.mw (canDesc c b 1) % 2 ^ 29

/-- The format of a buffer. -/
def State.bufFmt (s : State) (c b : Nat) : Nat := nbits (s.mw (canDesc c b 0)) 28 27

/-- The buffer's brs and rtr. -/
def State.bufFlags (s : State) (c b : Nat) : Nat := canFlags (s.bufFmt c b) (nbits (s.mw (canDesc c b 0)) 25 24)

/-- The first data unit of a buffer. -/
def State.bufUnit (s : State) (c b : Nat) : Nat := nbits (s.mw (canDesc c b 0)) 23 12

/-- An enabled transmit buffer. -/
def State.isTxBuf (s : State) (c b : Nat) : Bool := nbits (s.mw (canDesc c b 0)) 31 30 == 3

/-- A pending transmit buffer. -/
def State.txPend (s : State) (c b : Nat) : Bool := s.isTxBuf c b && nbit (s.mw (canDesc c b 3)) 31

/-- R302, R306: the message of a transmit buffer fits its units and a frame of its format, which is enabled. -/
def State.txFits (s : State) (c b : Nat) : Bool :=
  let n := s.msgLen (s.bufUnit c b) (s.bufFmt c b)
  decide (unitsOf n ≤ nbits (s.mw (canDesc c b 0)) 11 6) && canLenOk (s.bufFmt c b) n && s.canFmt c (s.bufFmt c b)

/-- Word W3 of a buffer: bit 31 full or pend, bit 30 lost, bits 29:28 the result. -/
def State.setW3 (s : State) (c b top lost res : Nat) : State := s.setMw (canDesc c b 3) (top * 2 ^ 31 + lost * 2 ^ 30 + res * 2 ^ 28)

/-- R306, R134: the transmit request of a buffer at the placed instant `t`; whether it is refused. With a software request of the same
BUS cycle it makes one request (R313). -/
def State.cantxAction (s : State) (c b t : Nat) : State × Bool :=
  if s.txPend c b = true ∧ (s.canSt c).req = some (b, busCycle t) ∧ s.canState c ≠ 2 then (s, false)
  else if s.txPend c b = true ∨ s.isTxBuf c b = false ∨ s.canState c = 2 ∨ s.txFits c b = false then (s, true)
  else (s.setW3 c b 1 0 0, false)

/-- R319: a write of CAN_BUF_CMD. -/
def State.canBufCmd (s : State) (c op b : Nat) : State :=
  if op = 1 then
    (if s.txPend c b = true ∨ s.isTxBuf c b = false ∨ s.txFits c b = false then s
     else (s.setW3 c b 1 0 0).setCan c { s.canSt c with req := some (b, s.busNow) })
  else if op = 2 then
    (if s.txPend c b = true ∧ (s.canSt c).tx ≠ some (0, b) then s.setW3 c b 0 0 2 else s)
  else if op = 3 then
    (if nbit (s.mw (canDesc c b 0)) 30 then s
     else (s.setW3 c b 0 0 0).setCan c { s.canSt c with rel := some (b, s.busNow, nbit (s.mw (canDesc c b 3)) 31) })
  else s

/-- The controller's gateway queue replaced, with CAN_STAT.gwq_used. -/
def State.setGwq (s : State) (c : Nat) (l : List Nat) : State :=
  (s.setCan c { s.canSt c with gwq := l }).setF (CAN_STAT.a c) CAN_STAT.gwq_used l.length

/-- R312: at bus-off the gateway queue is discarded and pending buffers are marked aborted. -/
def State.canBusOff (s : State) (c : Nat) : State :=
  let q := (s.canSt c).gwq
  let s1 := q.foldl (fun u x => (u.gwRelease x).canCount c 4) s
  let s2 := (List.range 64).foldl (fun u b => if u.txPend c b then u.setW3 c b 0 0 2 else u) s1
  let s3 := ((s2.setGwq c []).setCan c {}).setF (CAN_STAT.a c) CAN_STAT.state 2
  s3.raise (canSrc c) 4 c

/-- ISO 11898-1 (R302): the error counters after a success or an error, with the state that follows. -/
def State.canErr (s : State) (c tec rec : Nat) : State :=
  if 255 < tec then (s.setFs (CAN_STAT.a c) [(CAN_STAT.tec, 255), (CAN_STAT.rec, satTo 255 rec)]).canBusOff c
  else
    let p := decide (127 < tec) || decide (127 < rec)
    let s1 := s.setFs (CAN_STAT.a c) [(CAN_STAT.tec, tec), (CAN_STAT.rec, satTo 255 rec), (CAN_STAT.state, b2n p)]
    s1.raiseIf (p && s.canState c == 0) (canSrc c) 3 c

/-- The transmit and the receive error count. -/
def State.canTec (s : State) (c : Nat) : Nat := fldGet (s.reg (CAN_STAT.a c)) CAN_STAT.tec
def State.canRec (s : State) (c : Nat) : Nat := fldGet (s.reg (CAN_STAT.a c)) CAN_STAT.rec

/-- ISO 11898-1: a frame received without error lowers REC by 1; from above 127 to a value from 119 to 127. -/
def State.canRxOk (s : State) (c : Nat) : State :=
  if s.canRec c = 0 ∨ s.canQuiet c = true then s
  else if 127 < s.canRec c then s.fresh.2.canErr c (s.canTec c) (119 + s.fresh.1.toNat % 9)
  else s.canErr c (s.canTec c) (s.canRec c - 1)

/-- R317, 16 R374, R381: the controller is in ignore mode: by its own bit, asleep in PARTIAL, or a watch controller from DESCEND
on. What ends in the cycle in which the bit is set is handled in normal mode (R318). -/
def State.canIgn (s : State) (c : Nat) : Bool :=
  (s.on (CAN_CFG.a c) CAN_CFG.ignore && (s.canSt c).ignAt != some s.busNow) ||
  (fldGet (s.reg PWR_STAT.a) PWR_STAT.state == 1 && nbit (s.f PWR_PART_BUS.a PWR_PART_BUS.can) c) ||
  (decide (c < 4) && s.on (CAN_WUF_CFG.a c) CAN_WUF_CFG.wuf_en && !s.powered)

/-- R304, 16 R378: the controller is enabled and powered; the watch controllers stay powered in FEN. -/
def State.canOn (s : State) (c : Nat) : Bool :=
  s.on (CAN_CFG.a c) CAN_CFG.en && !s.jtag.held && (s.powered || decide (c < 4))

/-- R304, R317: the controller takes part in the traffic of its bus. -/
def State.canLive (s : State) (c : Nat) : Bool :=
  s.canOn c && s.powered && !s.canIgn c && s.canState c != 2

/-- CAN_BUS_ERROR: `kind` 0 a receiver's error, 1 one that adds 8, 2 a transmitter's, 3 one that leaves TEC. An error
destroys the message in transmission, which stays pending (R312). -/
def State.canBusError (s : State) (c kind : Nat) : State :=
  if s.canLive c = false ∨ (s.canSt c).tx.isSome ≠ decide (2 ≤ kind) then s
  else
    let s1 := s.canCount c 5
    let s2 := s1.setCan c { s1.canSt c with tx := none }
    if s.canQuiet c then s2
    else s2.canErr c (s.canTec c + (if kind = 2 then 8 else 0)) (s.canRec c + (if kind = 0 then 1 else if kind = 1 then 8 else 0))

/-- R302: bus-off ends. -/
def State.canRecover (s : State) (c : Nat) : State :=
  ((s.setCan c { s.canSt c with recov := false }).setFs (CAN_STAT.a c)
    [(CAN_STAT.tec, 0), (CAN_STAT.rec, 0), (CAN_STAT.state, 0)]).setF (CAN_CTRL.a c) CAN_CTRL.restart 0

/-- R302: the 128 occurrences of 11 recessive bits have passed: the controller leaves bus-off where bo_auto or a restart
lets it, and remembers them otherwise. -/
def State.canRecessive (s : State) (c : Nat) : State :=
  if s.canState c = 2 ∧ s.canOn c = true ∧ s.powered = true then
    (if s.on (CAN_CFG.a c) CAN_CFG.bo_auto || fldGet (s.reg (CAN_CTRL.a c)) CAN_CTRL.restart == 1 then s.canRecover c
     else s.setCan c { s.canSt c with recov := true })
  else s

/-- R319: a write of 1 to CAN_CTRL.restart. -/
def State.canRestart (s : State) (c : Nat) : State :=
  if s.canState c = 2 then
    (if (s.canSt c).recov then s.canRecover c else s.setF (CAN_CTRL.a c) CAN_CTRL.restart 1)
  else s

/-- R304, R318: a change of CAN_CFG. -/
def State.canCfgChanged (s0 : State) (c : Nat) (old : Word) : State :=
  let s := if fldGet old CAN_CFG.ignore = 0 ∧ fldGet (s0.reg (CAN_CFG.a c)) CAN_CFG.ignore = 1 then
      s0.setCan c { s0.canSt c with ignAt := some s0.busNow }
    else s0
  let en := fldGet (s.reg (CAN_CFG.a c)) CAN_CFG.en
  let was := fldGet old CAN_CFG.en
  if en = was then s
  else if en = 1 then
    (s.setCan c { s.canSt c with tx := none, recov := false }).setFs (CAN_STAT.a c)
      [(CAN_STAT.tec, 0), (CAN_STAT.rec, 0), (CAN_STAT.state, 0)]
  else
    let x := s.canSt c
    let s1 := match x.tx with
      | some (0, b) => s.setW3 c b 0 0 2
      | _ => s
    ((s1.setCan c { x with tx := none }).setF (CAN_STAT.a c) CAN_STAT.state 3).raiseIf x.tx.isSome (canSrc c) 5 c

/-- R318: an entry of the gateway queue that joined it in this BUS cycle; a start is judged before it. -/
def State.gwqLate (s : State) (c u : Nat) : Bool := (s.canSt c).lateAt == s.busNow && (s.canSt c).late.contains u

/-- R312: the messages ready at a controller: arbitration place, 0 buffer or 1 gateway, number or place in the queue. -/
def State.canReady (s : State) (c : Nat) : List (Nat × Nat × Nat) :=
  (((List.range 64).filter (fun b => s.txPend c b)).map (fun b => (arbKey (s.bufIdent c b), 0, b))) ++
  (((s.canSt c).gwq.filter (fun u => !s.gwqLate c u)).map (fun u => (match s.msgAt u with
    | some m => arbKey m.ident
    | none => 0, 1, u)))

/-- The first entry of the lowest key: earlier entries win ties. -/
def minKey : List (Nat × Nat × Nat) → Option (Nat × Nat × Nat)
  | [] => none
  | e :: r => match minKey r with
    | none => some e
    | some x => if x.1 < e.1 then some x else some e

/-- R305: H2 and H3 of a message, and esi of an FD or XL message, as its start of frame leaves. -/
def State.startMsg (s : State) (c u fmt : Nat) : State :=
  let h0 := s.hdr u 0
  let s1 := if fmt = 0 then s
    else s.setMw (unitOff u) (h0 / 2 ^ 15 * 2 ^ 15 + b2n (s.canState c == 1) * 2 ^ 14 + h0 % 2 ^ 14)
  (s1.setMw (unitOff u + 8) (nsOf s.tim.wkt)).setMw (unitOff u + 12) (secOf s.tim.wkt % 65536)

/-- CAN_TRANSMIT: the bus permits a start; `lost` says that the message loses arbitration. -/
def State.canTransmit (s : State) (c : Nat) (lost : Bool) : State :=
  if s.canLive c = false ∨ s.canQuiet c = true ∨ (s.canSt c).tx.isSome = true then s
  else match minKey (s.canReady c) with
    | none => s
    | some (_, k, x) =>
      let u := if k = 0 then s.bufUnit c x else x
      let fmt := if k = 0 then s.bufFmt c x else match s.msgAt x with
        | some m => m.fmt
        | none => 0
      let s1 := s.startMsg c u fmt
      if lost then s1.canCount c 7 else s1.setCan c { s1.canSt c with tx := some (k, x) }

/-- The frame that controller `c` sends for the message at unit `u`; a remote frame carries no data. -/
def State.canOut (s : State) (c ident flags u fmt : Nat) : Output :=
  .can c ident flags (s.hdr u 0) (s.hdr u 1) (if nbit flags 0 then [] else s.msgData u fmt)

/-- CAN_FRAME_SENT (R312): the message in transmission is complete. -/
def State.canSent (s : State) (c : Nat) : State :=
  match (s.canSt c).tx with
  | none => s
  | some (k, x) =>
    let s1 := (s.canCount c 3).setCan c { s.canSt c with tx := none }
    let s2 := if k = 0 then
        (s1.setW3 c x 0 0 1).emit (s.canOut c (s.bufIdent c x) (s.bufFlags c x) (s.bufUnit c x) (s.bufFmt c x))
      else match s.msgAt x with
        | none => s1
        | some m => ((s1.setGwq c ((s1.canSt c).gwq.erase x)).gwRelease x).emit
            (s.canOut c m.ident (canFlags m.fmt m.flags) x m.fmt)
    if s.canTec c = 0 then s2 else s2.canErr c (s.canTec c - 1) (s.canRec c)

/-- A received CAN frame. -/
structure CanRx where
  fmt : Nat
  ide : Bool
  rtr : Bool
  brs : Bool
  esi : Bool
  id : Nat
  dlc : Nat
  data : List Byte
  xl : Nat × Nat × Nat × Nat
  err : Bool
  back : Nat
deriving DecidableEq, Repr

/-- The data length of a DLC code in CAN FD. -/
def fdLen (dlc : Nat) : Nat := [0, 1, 2, 3, 4, 5, 6, 7, 8, 12, 16, 20, 24, 32, 48, 64].getD dlc 0

/-- R302: the data of the frame has a length that its format and its DLC give; identifiers and flags are of its format. -/
def CanRx.ok (r : CanRx) : Bool :=
  (r.ide || decide (r.id < 2048)) &&
  (if r.fmt = 0 then r.data.length == (if r.rtr then 0 else min r.dlc 8)
   else if r.fmt = 1 then !r.rtr && r.data.length == fdLen r.dlc
   else !r.rtr && !r.ide && decide (1 ≤ r.data.length) && decide (r.data.length ≤ 2048))

/-- R307: the receive buffer matches. -/
def State.rxMatch (s : State) (c b : Nat) (r : CanRx) : Bool :=
  let w0 := s.mw (canDesc c b 0)
  nbits w0 31 30 == 2 && nbit w0 26 == r.ide && decide (r.fmt ≤ nbits w0 28 27) &&
  (Nat.xor r.id (s.mw (canDesc c b 1) % 2 ^ 29)) &&& (s.mw (canDesc c b 2) % 2 ^ 29) == 0 &&
  decide (unitsOf r.data.length ≤ nbits w0 11 6)

/-- The first header word of a received message. -/
def CanRx.h0 (r : CanRx) : Nat :=
  r.xl.1 % 256 * 2 ^ 24 + r.xl.2.1 % 256 * 2 ^ 16 + r.xl.2.2.1 % 2 * 2 ^ 15 + b2n r.esi * 2 ^ 14 + r.data.length % 2048

/-- The identifier word of a received message (05 R112). -/
def CanRx.ident (r : CanRx) : Nat := b2n r.ide * 2 ^ 31 + r.fmt * 2 ^ 29 + r.id

/-- R318: software released buffer `b` in this BUS cycle: whether the buffer was full before. -/
def State.relNow (s : State) (c b : Nat) : Option Bool :=
  match (s.canSt c).rel with
  | some (x, n, full) => if x = b ∧ n = s.busNow then some full else none
  | none => none

/-- R307: a frame received without error. A release of the same BUS cycle comes after the store (R318). -/
def State.canStore (s : State) (c : Nat) (r : CanRx) : State :=
  let t := taddU s.tim.wkt (-((r.back * nsU : Nat) : Int))
  let ms := (List.range 64).filter (fun b => s.rxMatch c b r)
  match ms.find? (fun b => !(nbit (s.mw (canDesc c b 3)) 31) && s.relNow c b != some true) with
  | some b =>
    if nbit (s.mw (canDesc c b 0)) 29 then
      (s.canCount c 0).gwIn (s.f (CAN_CFG.a c) CAN_CFG.gw_seq)
        ⟨0, 0, 0, 1, c, r.ident, b2n r.brs * 2 + b2n r.rtr⟩ r.h0 r.xl.2.2.2 t r.data
    else
      (((s.putMsg (s.bufUnit c b) r.h0 r.xl.2.2.2 t r.data).setMw (canDesc c b 3)
        (b2n (s.relNow c b).isNone * 2 ^ 31 + s.mw (canDesc c b 3) % 2 ^ 31)).canCount c 0).raiseIf (s.on (CAN_CFG.a c) CAN_CFG.rx_evt_en) (canSrc c) 1 c
  | none =>
    match ms with
    | [] => s.canCount c 2
    | b :: _ => ((s.setMw (canDesc c b 3) (s.mw (canDesc c b 3) ||| 2 ^ 30)).canCount c 1).raise (canSrc c) 2 c

/-- CAN_FRAME_RECEIVED in normal and listen-only operation. -/
def State.canReceive (s : State) (c : Nat) (r : CanRx) : State :=
  if s.canLive c = false ∨ s.canFmt c r.fmt = false ∨ r.err = true ∨ (s.canSt c).tx.isSome = true then s
  else (((if s.canQuiet c then s else s.emit (.canAck c))).canRxOk c).canStore c r

/-- R317: the frame matches the wake filter. -/
def State.wufHit (s : State) (c : Nat) (r : CanRx) : Bool :=
  let m := s.f (CAN_WUF_IDM.a c) CAN_WUF_IDM.id
  let mask := leBytes 4 (s.hw (CAN_WUF_DATA_LO.a c)).toNat ++ leBytes 4 (s.hw (CAN_WUF_DATA_HI.a c)).toNat
  s.on (CAN_WUF_CFG.a c) CAN_WUF_CFG.wuf_en && r.fmt == 0 && !r.err && (s.on (CAN_WUF_ID.a c) CAN_WUF_ID.wuf_ide == r.ide) &&
  (r.id &&& m) == (s.f (CAN_WUF_ID.a c) CAN_WUF_ID.id &&& m) &&
  (!(s.on (CAN_WUF_CFG.a c) CAN_WUF_CFG.data_en) ||
    (s.f (CAN_WUF_CFG.a c) CAN_WUF_CFG.wuf_dlc == r.dlc && (r.data.zip mask).any (fun e => e.1 &&& e.2 != 0#8)))

/-- R317: a frame in ignore mode; the wake cause it brings: 0 wake_frame, 1 pn_err_limit. -/
def State.canIgnored (s : State) (c : Nat) (r : CanRx) : State × Option Nat :=
  let s1 := s.canCount c 6
  let n := fldGet (s.reg (CAN_STAT.a c)) CAN_STAT.pn_err
  if r.err then
    (if r.fmt ≠ 0 then (s1, none)
     else if 31 < n + 1 then ((s1.setF (CAN_STAT.a c) CAN_STAT.pn_err 0).raiseAon (canSrc c) 7 c, some 1)
     else (s1.setF (CAN_STAT.a c) CAN_STAT.pn_err (n + 1), none))
  else
    let s2 := s1.setF (CAN_STAT.a c) CAN_STAT.pn_err (n - 1)
    if s.wufHit c r then (s2.raiseAon (canSrc c) 6 c, some 0) else (s2, none)

/-! ### LIN (R303, R307, R320) -/

/-- R303 (ISO 17987): the protected identifier: the identifier with its two parity bits. -/
def linPid (i : Nat) : Nat :=
  let x (k : Nat) : Nat := b2n (nbit i k)
  i % 64 + (x 0 + x 1 + x 2 + x 4) % 2 * 64 + (1 + x 1 + x 3 + x 4 + x 5) % 2 * 128

/-- R303 (ISO 17987): the checksum of bytes: the inverted sum of 8 bits, each carry added back. -/
def linSum (l : List Byte) : Nat := 255 - l.foldl (fun a b => let v := a + b.toNat; if 255 < v then v - 255 else v) 0

/-- R303, R307: the checksum of a response of identifier `i`: enhanced, over its protected identifier too, where its entry says so. -/
def State.linCheck (s : State) (l i : Nat) (d : List Byte) : Nat :=
  linSum (if nbit (s.mw (linEnt l i 0)) 29 then BitVec.ofNat 8 (linPid i) :: d else d)

/-- R307: the error of a frame of identifier `i`: what the bus shows (2 framing, 3 no response, 4 bit error), or what a subscriber finds
in the response `data` with its checksum byte `sum`. -/
def State.linError (s : State) (l i : Nat) (data : List Byte) (sum err : Nat) : Nat :=
  let e0 := s.mw (linEnt l i 0)
  let len := min 8 (max 1 (nbits e0 27 24))
  if err = 2 ∨ err = 3 ∨ err = 4 then err
  else if nbits e0 31 30 ≠ 2 then 0
  else if data.length < len then 5
  else if s.linCheck l i (data.take len) ≠ sum then 1
  else 0

/-- R307: the outcome of a frame of identifier `i`: `data` and `sum` its response as the bus carries it, `err` the error it meets. -/
def State.linFrame (s0 : State) (l i : Nat) (data : List Byte) (sum err : Nat) : State :=
  let s := s0.setF (LIN_STAT.a l) LIN_STAT.cur_id i
  let e0 := s.mw (linEnt l i 0)
  let e1 := s.mw (linEnt l i 1)
  let dir := nbits e0 31 30
  let len := min 8 (max 1 (nbits e0 27 24))
  let k := s.linError l i data sum err
  if dir = 0 ∨ dir = 3 then s
  else if k ≠ 0 then
    let s1 := (s.setMw (linEnt l i 1) (e1 / 16 * 16 + k)).setF (LIN_STAT.a l) LIN_STAT.last_err k
    (s1.bump (LIN_STAT.a l) LIN_STAT.err_cnt).raise 27 8 l
  else if dir = 1 then
    let d := s.msgBytes (linEnt l i 2) len
    s.emit (.lin l i d (s.linCheck l i d))
  else
    let d := data.take len
    let s1 := (s.setMsg (linEnt l i 2) d).setMw (linEnt l i 1) (2 ^ 31 + b2n (nbit e1 31 || nbit e1 30) * 2 ^ 30 + e1 % 2 ^ 30)
    let s2 := s1.raise 27 1 l
    if nbit e0 28 then
      s2.gwIn (s.f (LIN_CFG.a l) LIN_CFG.gw_seq) ⟨0, 0, 0, 2, l, i, 0⟩ len 0 s.tim.wkt d
    else s2

/-- A LIN controller's schedule. -/
def State.linSt (s : State) (l : Nat) : LinSt := Cells.get (fun _ => {}) s.lin l

/-- The state with a LIN controller's schedule set. -/
def State.setLin (s : State) (l : Nat) (x : LinSt) : State := { s with lin := Cells.set (fun _ => {}) s.lin l x }

/-- R320: the bit rate and the break length, held to their ranges. -/
def State.linBaud (s : State) (l : Nat) : Nat := min 20000 (max 1000 (s.f (LIN_CFG.a l) LIN_CFG.baud))
def State.linBrk (s : State) (l : Nat) : Nat := min 20 (max 13 (s.f (LIN_CFG.a l) LIN_CFG.brk_len))

/-- R320: the shortest slot of identifier `i`, in units of 2^-32 ns: its frame's nominal length plus 40 %. -/
def State.linMin (s : State) (l i : Nat) : Nat :=
  let len := min 8 (max 1 (nbits (s.mw (linEnt l i 0)) 27 24))
  ceilDiv ((s.linBrk l + 21 + 10 * (len + 1)) * 1400000000 * nsU) (s.linBaud l)

/-- R304, 16 R374: the controller is enabled, powered and awake. -/
def State.linOn (s : State) (l : Nat) : Bool :=
  s.on (LIN_CFG.a l) LIN_CFG.en && s.powered &&
  !(fldGet (s.reg PWR_STAT.a) PWR_STAT.state == 1 && nbit (s.f PWR_PART_BUS.a PWR_PART_BUS.lin) l)

/-- LIN_SLOT (R320): the schedule's next slot starts; its header leaves and its frame ends as `data`, `sum` and `err` say. -/
def State.linSlot (s : State) (l : Nat) (data : List Byte) (sum err : Nat) : State :=
  let x := s.linSt l
  let go := match x.next with
    | none => true
    | some t => decide (0 ≤ tdiff s.tim.wkt t)
  if (s.linOn l && s.on (LIN_CFG.a l) LIN_CFG.commander && s.on (LIN_SCHED.a l) LIN_SCHED.run && go) = false then s
  else
    let n := s.f (LIN_SCHED.a l) LIN_SCHED.count + 1
    let e := s.mw (unitOff (s.f (LIN_SCHED.a l) LIN_SCHED.unit) + 4 * (x.pos % n))
    let i := e % 64
    let want := e / 2 ^ 16 * 50000 * nsU
    let len := if want < s.linMin l i then s.linMin l i else want
    let s1 := s.setLin l ⟨(x.pos + 1) % n, some (taddU (x.next.getD s.tim.wkt) (len : Nat))⟩
    let s2 := if want < s.linMin l i then s1.bump (LIN_STAT.a l) LIN_STAT.slot_short else s1
    if s.busMuted (24 + l) then s2 else (s2.emit (.linHead l (s.linBrk l) (linPid i))).linFrame l i data sum err

/-- R303: a responder accepts a header: a break of at least 11 bits, and a bit rate within 14 % of its own. -/
def State.linAccepts (s : State) (l brk rate : Nat) : Bool :=
  decide (11 ≤ brk) && decide (86 * s.linBaud l ≤ 100 * rate) && decide (100 * rate ≤ 114 * s.linBaud l)

/-- LIN_HEADER_RECEIVED (R303): a responder receives a header: a break of `brk` bits at the bit rate `rate`. -/
def State.linHeader (s : State) (l i : Nat) (data : List Byte) (sum err brk rate : Nat) : State :=
  if (s.linOn l && !(s.on (LIN_CFG.a l) LIN_CFG.commander) && s.linAccepts l brk rate) = false then s
  else if s.busMuted (24 + l) ∧ nbits (s.mw (linEnt l i 0)) 31 30 = 1 then s.setF (LIN_STAT.a l) LIN_STAT.cur_id i
  else (s.linFrame l i data sum err).raiseIf
    (s.linError l i data sum err == 0 && i == 0x3c && decide (0 < data.length) && byteAt data 0 == 0 && nbits (s.mw (linEnt l i 0)) 31 30 != 1) 27 9 l

/-- R320: a write that starts the schedule starts it at its first entry. -/
def State.linSchedChanged (s : State) (l : Nat) (old : Word) : State :=
  if s.on (LIN_SCHED.a l) LIN_SCHED.run && fldGet old LIN_SCHED.run == 0 then s.setLin l {} else s

/-! ### Batches toward Ethernet (R314, R315) -/

/-- The mailboxes of the gateway. -/
def gwBatch : Nat := 0x1a04100
def gwRxStr : Nat := 0x1a04200

/-- A batch. -/
def State.batchOf (s : State) (b : Nat) : BatchSt := Cells.get (fun _ => {}) s.batch b

/-- The state with a batch set. -/
def State.setBatch (s : State) (b : Nat) (x : BatchSt) : State := { s with batch := Cells.set (fun _ => {}) s.batch b x }

/-- A configuration word of a batch. -/
def BatchSt.w (x : BatchSt) (k : Nat) : Nat := x.cfg.getD k 0

/-- R314: the largest number of ACF bytes, from 16 to 1,476. -/
def BatchSt.maxAcf (x : BatchSt) : Nat := min 1476 (max 16 (nbits (x.w 0) 10 0))

/-- R321: the message limit and the latency limit in ticks. -/
def BatchSt.maxMsgs (x : BatchSt) : Nat := max 1 (x.w 1 % 256)
def BatchSt.maxLat (x : BatchSt) : Nat := usTicks (max 1 (nbits (x.w 1) 31 16))

/-- The sealed frames of a batch that wait for P26. -/
def State.sealedOf (s : State) (b : Nat) : Nat := (s.sealedQ.filter (fun e => e.batch == b)).length

/-- R314: the message_timestamp of the message at unit `u`: H2 and H3 completed with the current WKT seconds. -/
def State.acfTime (s : State) (u : Nat) : Nat :=
  (secOf s.tim.wkt / 65536 * 65536 + s.hdr u 3 % 65536) * 1000000000 + s.hdr u 2 % 2 ^ 30

/-- R314 (IEEE 1722-2016): an ACF message: its type, octets 2 and 3, the rest of its header and its payload, padded. -/
def acfMsg (type o2 o3 : Nat) (hdr payload : List Byte) : List Byte :=
  let pad := (4 - payload.length % 4) % 4
  let body := hdr ++ payload ++ List.replicate pad 0#8
  beBytes 2 (type * 512 + (4 + body.length) / 4) ++ beBytes 1 (pad * 64 + o2) ++ beBytes 1 o3 ++ body

/-- R314: the ACF message of a pool message. -/
def State.acfOf (s : State) (brief : Bool) (m : GwMsg) : List Byte :=
  let data := s.msgData m.unit m.fmt
  let time := beBytes 8 (s.acfTime m.unit)
  if m.kind % 2 = 1 then
    let fl := m.flags % 2 * 16 + nbits m.ident 31 31 * 8 + m.flags / 2 % 2 * 4 + nbits m.ident 29 29 * 2 +
      nbits (s.hdr m.unit 0) 14 14
    let idw := beBytes 4 (m.ident % 2 ^ 29)
    if brief then acfMsg 2 fl (m.bus % 32) idw data else acfMsg 1 (32 + fl) (m.bus % 32) (time ++ idw) data
  else acfMsg 3 (32 + m.bus % 32) (m.ident % 64) time data

/-- R315: the open frame of a batch is sealed. -/
def State.gwSeal (s : State) (b : Nat) : State :=
  let x := s.batchOf b
  let s1 : State := { s with sealedQ := s.sealedQ ++ [⟨b, x.acf, x.refs⟩] }
  s1.setBatch b { x with acf := [], count := 0, refs := [] }

/-- R315: max_lat has passed since the first message of a batch's open frame joined, and with it the tick in which a message could still
join. -/
def State.batchDue (s : State) (b : Nat) : Bool :=
  let x := s.batchOf b
  x.count != 0 && decide (x.first + x.maxLat < s.now) && decide (s.sealedOf b < 2)

/-- R315: a message offered to a batch by GTX; whether it is refused, and the counter of the refusal. -/
def State.gtxBatch (s0 : State) (b : Nat) (m : GwMsg) : State × Option Nat :=
  let s := if s0.batchDue b then s0.gwSeal b else s0
  let x := s.batchOf b
  if nbit (x.w 0) 31 = false ∨ nbits m.ident 30 29 = 2 then (s, some 2)
  else
    let a := s.acfOf (nbit (x.w 0) 29) m
    let first := x.count != 0 && decide (x.maxAcf < x.acf.length + a.length)
    let cnt := (if first then 0 else x.count) + 1
    let last := decide (x.maxMsgs ≤ cnt)
    if x.maxAcf < a.length then (s, some 2)
    else if 2 < s.sealedOf b + b2n first + b2n last then (s, some 3)
    else
      let s1 := if first then s.gwSeal b else s
      let y := s1.batchOf b
      let t0 := if y.count = 0 then s.now else y.first
      let y1 := { y with acf := y.acf ++ a, count := cnt, first := t0, refs := y.refs ++ [m.unit] }
      let s2 := (s1.setBatch b y1).gwRef m.unit
      (if last then s2.gwSeal b else s2, none)

/-- BATCH_TIMEOUT (R315): max_lat has passed since the first message of a batch's open frame joined. -/
def State.batchTimeout (s : State) (b : Nat) : State := if s.batchDue b then s.gwSeal b else s

/-- R314: the frame of a sealed batch frame. -/
def State.batchFrame (s : State) (x : BatchSt) (acf : List Byte) : List Byte :=
  let mac (lo hi : Nat) : List Byte := beBytes 6 (hi % 65536 * 2 ^ 32 + lo)
  let sid := beBytes 8 (x.w 5 * 2 ^ 32 + x.w 4)
  let eth := mac (x.w 2) (x.w 3) ++ mac (s.hw SYS_GW_MAC_LO.a).toNat (s.hw SYS_GW_MAC_HI.a).toNat ++ beBytes 2 0x8100 ++
    beBytes 2 (nbits (x.w 0) 15 13 * 8192 + nbits (x.w 0) 27 16) ++ beBytes 2 0x22f0
  let t := (secOf s.tim.wkt * 1000000000 + nsOf s.tim.wkt + x.w 6) % 2 ^ 32
  eth ++ (if nbit (x.w 0) 30 then
      beBytes 1 0x05 ++ beBytes 1 0x81 ++ beBytes 1 x.seqNum ++ beBytes 1 0 ++ sid ++ beBytes 4 t ++ beBytes 4 0 ++
        beBytes 2 acf.length ++ beBytes 2 0
    else beBytes 1 0x82 ++ beBytes 2 (0x8000 + acf.length) ++ beBytes 1 x.seqNum ++ sid) ++ acf

/-- BATCH_INJECT (R315): the oldest sealed frame enters pipeline A on P26. -/
def State.batchInject (s : State) : State :=
  match s.sealedQ with
  | [] => s
  | e :: r =>
    let x := s.batchOf e.batch
    let s1 : State := { s with sealedQ := r }
    let s2 := e.refs.foldl (fun u k => u.gwRelease k) (s1.setBatch e.batch { x with seqNum := (x.seqNum + 1) % 256 })
    (s2.enter { port := 26, inPort := 26, data := s.batchFrame x e.acf }).2

/-- A request at GW_BATCH (R321). -/
def State.batchReq (s : State) (op arg : Nat) : State :=
  let b := arg % 32
  let ws := (List.range 8).map (fun k => s.dw gwBatch k)
  let e := lowestErr [(op != 1 || decide (32 ≤ arg), 15), ((s.batchOf b).count != 0 || s.sealedOf b != 0, 1)]
  (if e.isNone then s.setBatch b { cfg := ws } else s).mbxEnd gwBatch 8 e

/-- A request at GW_RXSTR (R321), whose op has no table and is not judged (log entry 13). -/
def State.rxStrReq (s : State) (arg : Nat) : State :=
  let b := arg % 32
  let w0 := s.dw gwRxStr 0
  let e := if 32 ≤ arg then some 15 else none
  let x : RxStr := ⟨nbit w0 31, w0 % 8, s.dw gwRxStr 2 * 2 ^ 32 + s.dw gwRxStr 1, none⟩
  let s1 : State := if e.isNone then { s with rxStr := Cells.set (fun _ => {}) s.rxStr b x } else s
  s1.mbxEnd gwRxStr 4 e

/-! ### From P26 to the sequencers (R316) -/

/-- A receive stream. -/
def State.rxStrOf (s : State) (k : Nat) : RxStr := Cells.get (fun _ => {}) s.rxStr k

/-- R316: one ACF CAN or LIN message `a` (its octets) for sequencer `sq`. -/
def State.acfTake (s : State) (sq : Nat) (a : List Byte) : State :=
  let type := byteAt a 0 / 2
  let o2 := byteAt a 2
  let pad := o2 / 64
  let h := if type = 1 then 16 else if type = 2 then 8 else 12
  let ts := beAt a 4 8
  let t := if type ≠ 2 ∧ nbit o2 5 = true then mkTime (ts / 1000000000) (ts % 1000000000) 0 else s.tim.wkt
  let data := (a.drop h).take (a.length - h - pad)
  if type = 3 then s.gwIn sq ⟨0, 0, 0, 4, o2 % 32, byteAt a 3 % 64, 0⟩ data.length 0 t data
  else
    let idw := beAt a (h - 4) 4
    let id := if nbit o2 3 then idw % 2 ^ 29 else idw % 2048
    s.gwIn sq ⟨0, 0, 0, 3, byteAt a 3 % 32, nbits o2 3 3 * 2 ^ 31 + nbits o2 1 1 * 2 ^ 29 + id, nbits o2 2 2 * 2 + nbits o2 4 4⟩
      (o2 % 2 * 2 ^ 14 + data.length) 0 t data

/-- R316: the ACF messages in order, at most `n` of them; `k` is the stream. -/
def State.acfWalk (s : State) (k sq : Nat) : Nat → List Byte → State
  | 0, _ => s
  | n + 1, l =>
    if l = [] then s
    else
      let type := byteAt l 0 / 2
      let len := 4 * (be16 l 0 % 512)
      let h := if type = 1 then 16 else if type = 2 then 8 else if type = 3 then 12 else 4
      let pad := if type = 1 ∨ type = 2 ∨ type = 3 then byteAt l 2 / 64 else 0
      if l.length < 4 ∨ len = 0 ∨ l.length < len ∨ len < h + pad then (s.gwCount 5).raise 28 3 k
      else
        let s1 := if type = 1 ∨ type = 2 ∨ type = 3 then s.acfTake sq (l.take len) else s.gwCount 4
        s1.acfWalk k sq n (l.drop len)

/-- R316: a frame delivered to P26. -/
def State.acfRx (s : State) (d : List Byte) : State :=
  let et := baseET (countTags d)
  let p := d.drop (et + 2)
  let sub := byteAt p 0
  if be16 d et = 0x22f0 ∧ (sub = 0x82 ∨ sub = 0x05) then
    let sid := beAt p 4 8
    match (List.range 32).find? (fun k => (s.rxStrOf k).en && (s.rxStrOf k).sid == sid) with
    | none => s.gwCount 6
    | some k =>
      let x := s.rxStrOf k
      let q := if sub = 0x82 then byteAt p 3 else byteAt p 2
      let s1 : State := { s with rxStr := Cells.set (fun _ => {}) s.rxStr k { x with last := some q } }
      let s2 := match x.last with
        | some z => if q = (z + 1) % 256 then s1 else s1.gwCount 7
        | none => s1
      let len := if sub = 0x82 then be16 p 1 % 2048 else be16 p 20
      let body := p.drop (if sub = 0x82 then 12 else 24)
      if body.length < len then (s2.acfWalk k x.sq body.length body) else s2.acfWalk k x.sq len (body.take len)
  else s

/-! ### GTX (05 R113, R311) -/

/-- R311: a message offered to CAN controller `c`. -/
def State.gtxCan (s : State) (c : Nat) (m : GwMsg) : State × Option Nat :=
  let q := (s.canSt c).gwq
  if 32 ≤ q.length ∨ m.kind % 2 = 0 ∨ s.canFmt c m.fmt = false ∨ canLenOk m.fmt (s.msgLen m.unit m.fmt) = false ∨
      s.on (CAN_CFG.a c) CAN_CFG.en = false ∨ s.canState c = 2 ∨ s.canQuiet c = true ∨ s.canIgn c = true then (s, some 2)
  else
    let u := s.setGwq c (q ++ [m.unit])
    let k := u.canSt c
    let late := if k.lateAt = s.busNow then k.late ++ [m.unit] else [m.unit]
    ((u.setCan c { k with late := late, lateAt := s.busNow }).gwRef m.unit, none)

/-- R311: a message offered to LIN controller `l`. -/
def State.gtxLin (s : State) (l : Nat) (m : GwMsg) : State × Option Nat :=
  let i := m.ident % 64
  let e0 := s.mw (linEnt l i 0)
  if m.kind % 2 = 1 ∨ nbits e0 31 30 ≠ 1 ∨ nbits e0 27 24 ≠ s.msgLen m.unit 0 then (s, some 2)
  else (s.setMsg (linEnt l i 2) (s.msgData m.unit 0), none)

/-- R112, R113: the route word names a destination. -/
def routeOk (w : Nat) : Bool :=
  let k := nbits w 31 28
  let d := nbits w 27 23
  (k == 1 && decide (d < 24)) || (k == 2 && decide (d < 8)) || k == 3

/-- GTX of a held message (R113): the item offered, the handle released unless it is kept; the value of ws. -/
def State.gtx (s : State) (n : Nat) (m : GwMsg) (route : Nat) : Nat × State :=
  let d := nbits route 27 23
  let r := if nbits route 31 28 = 1 then s.gtxCan d m else if nbits route 31 28 = 2 then s.gtxLin d m else s.gtxBatch d m
  let s1 := match r.2 with
    | some k => r.1.gwCount k
    | none => r.1
  (b2n r.2.isSome, if nbit route 0 then s1 else s1.gwDrop n m.unit)

/-! ### The commands -/

/-- CAN_TRANSMIT (R313). -/
def execCanTransmit (c : Fin 24) (lost : Bool) (s : State) : Host.Outcome State Fault Refusal := .next (s.canTransmit c.val lost)

/-- CAN_FRAME_SENT (R312). -/
def execCanFrameSent (c : Fin 24) (s : State) : Host.Outcome State Fault Refusal := .next (s.live (s.canSent c.val))

/-- CAN_BUS_ERROR (R302). -/
def execCanBusError (c : Fin 24) (kind : Fin 4) (s : State) : Host.Outcome State Fault Refusal :=
  .next (s.canBusError c.val kind.val)

/-- BUS_OFF_RECOVERY (R302). -/
def execBusOffRecovery (c : Fin 24) (s : State) : Host.Outcome State Fault Refusal := .next (s.canRecessive c.val)

/-- LIN_SLOT (R320). -/
def execLinSlot (l : Fin 8) (data : List Byte) (sum : BitVec 8) (err : Fin 6) (s : State) : Host.Outcome State Fault Refusal :=
  .next (s.linSlot l.val data sum.toNat err.val)

/-- LIN_HEADER_RECEIVED (R303): with a break of `brk` bits, at the bit rate `rate`. -/
def execLinHeaderReceived (l : Fin 8) (ident : Fin 64) (data : List Byte) (sum : BitVec 8) (err : Fin 6) (brk : Fin 64)
    (rate : BitVec 16) (s : State) : Host.Outcome State Fault Refusal :=
  .next (s.linHeader l.val ident.val data sum.toNat err.val brk.val rate.toNat)

/-- BATCH_TIMEOUT (R315). -/
def execBatchTimeout (b : Fin 32) (s : State) : Host.Outcome State Fault Refusal := .next (s.live (s.batchTimeout b.val))

/-- BATCH_INJECT (R315). -/
def execBatchInject (s : State) : Host.Outcome State Fault Refusal := .next (s.live s.batchInject)

end Sys2Proof.Machine
end

