-- ==== Sys2Proof/Machine/Carr.lean ====
section
/-! DEFINITION. Carr (14): the vote over the transactions of its three positions, the window signatures, resynchronisation,
safe hold, and the LPDDR5X's training and scrubbing. What a released transaction does on the bus stands in CarrBus.lean. -/

namespace Sys2Proof.Machine

/-- CPX_STAT.state: 0 STOPPED, 1 TRIPLEX, 2 DUPLEX_RESYNC, 3 DUPLEX_FAILED, 4 SAFE_HOLD. -/
def State.cpxState (s : State) : Nat := fldGet (s.reg CPX_STAT.a) CPX_STAT.state

/-- Carr runs, as three cores or as a pair, and no debug session has halted it. -/
def State.carrRuns (s : State) : Bool :=
  (s.cpxState == 1 || s.cpxState == 2 || s.cpxState == 3) && s.powered && !(s.jtag.halted.contains 8)

/-- The core in a position. -/
def State.posCore (s : State) (p : Nat) : Nat :=
  fldGet (s.reg CPX_STAT.a) (if p = 0 then CPX_STAT.pos0 else if p = 1 then CPX_STAT.pos1 else CPX_STAT.pos2)

/-- R336: safe hold, with EV51's cause and index. -/
def State.safeHold (s : State) (cause idx : Nat) : State := (s.setF CPX_STAT.a CPX_STAT.state 4).raise 51 cause idx

/-- A counter of Carr advances (R344). -/
def State.cpxCount (s : State) (k : Nat) : State := s.bump (CPX_CNT.a k) CPX_CNT.count

/-- The lanes of 64-bit data whose strobe is 1. -/
def laneMask (st : BitVec 8) : BitVec 64 :=
  (List.range 8).foldl (fun m k => if st.getLsbD k then m ||| (0xff#64 <<< (8 * k)) else m) 0#64

/-- R330: the effective content of a transaction. -/
def effOf (t : CarrTx) : CarrTx :=
  if t.kind.val < 2 then { t with op := 0#5, attr := t.attr &&& 0x3f#8, strobe := 0#8, data := 0#64 }
  else { t with op := if t.kind.val = 2 then 0#5 else t.op, attr := t.attr &&& 0x3f#8, data := t.data &&& laneMask t.strobe }

/-- One bit of the CRC-64 of R331. -/
def crc64Bit (c : BitVec 64) (b : Bool) : BitVec 64 :=
  if Bool.xor c.msb b then (c <<< 1) ^^^ 0x42f0e1eba9ea3693#64 else c <<< 1

/-- One byte of the CRC-64, its most significant bit first. -/
def crc64Byte (c : BitVec 64) (b : Byte) : BitVec 64 :=
  [7, 6, 5, 4, 3, 2, 1, 0].foldl (fun u k => crc64Bit u (b.getLsbD k)) c

/-- R331: the CRC-64 of a byte string, from a value. -/
def crc64 (c : BitVec 64) (l : List Byte) : BitVec 64 := l.foldl crc64Byte c

/-- R331: the canonical record of 18 bytes of a transaction of kind `kind`. -/
def recordOf (kind attr size strobe addr data : Nat) : List Byte :=
  beBytes 18 (((((kind % 16 * 2 ^ 8 + attr % 64) * 2 ^ 4 + size % 16) * 2 ^ 8 + strobe % 256) * 2 ^ 48 + addr % 2 ^ 48) *
    2 ^ 72 + data % 2 ^ 64 * 2 ^ 8)

/-- R330, R331: the canonical record of a transaction's effective content (log entry 18). -/
def txRecord (tx : CarrTx) : List Byte :=
  let t := effOf tx
  recordOf t.kind.val t.attr.toNat t.size.toNat t.strobe.toNat t.addr.toNat (t.data &&& laneMask t.strobe).toNat

/-- R332: the vote of three positions, or of the first two: 3 agreement, 0 to 2 the odd position, 4 no majority. -/
def vote {α : Type} [DecidableEq α] (three : Bool) (a b c : α) : Nat :=
  if !three then (if a = b then 3 else 4)
  else if a = b then (if a = c then 3 else 2)
  else if a = c then 1
  else if b = c then 0
  else 4

/-- R332: the first-mismatch record, if it is free. -/
def State.mmRecord (s : State) (kind core src addr : Nat) : State :=
  if fldGet (s.reg CPX_MM.a) CPX_MM.valid = 1 then s
  else (s.setFs CPX_MM.a [(CPX_MM.valid, 1), (CPX_MM.kind, kind), (CPX_MM.core, core), (CPX_MM.src, src)]).setReg CPX_MM_ADDR.a
    (BitVec.ofNat 32 addr)

/-- R332: the core in position `p` is odd: it is halted and the pair keeps its order. -/
def State.carrOdd (s : State) (p kind src addr : Nat) : State :=
  let c := s.posCore p
  let rest := [0, 1, 2].filter (fun q => q != p)
  let s1 := (s.mmRecord kind c src addr).setFs CPX_STAT.a
    [(CPX_STAT.state, 2), (CPX_STAT.odd, c), (CPX_STAT.pos0, s.posCore (rest.getD 0 0)),
     (CPX_STAT.pos1, s.posCore (rest.getD 1 0)), (CPX_STAT.pos2, 3)]
  let k := s1.carr
  let s2 : State := { s1 with carr := { k with tested := false, sigs := [0, 0, 0] } }
  (s2.cpxCount 0).raise 50 1 c

/-- R335: in Window mode, the odd core was the lead. -/
def State.leadEscape (s : State) (c : Nat) : State := (s.cpxCount 2).raise 50 4 c

/-- The verdict of a vote acts on Carr. -/
def State.carrJudge (s : State) (v kind src addr : Nat) : State :=
  if v = 3 then s
  else if v = 4 then (s.mmRecord kind 3 src addr).safeHold 4 3
  else
    let c := s.posCore v
    let s1 := s.carrOdd v kind src addr
    if src ≠ 0 ∧ v = 0 then s1.leadEscape c else s1

/-- R336: a comparator disagreement (1) or a parity fault in the FIFO of position `fault` - 2. -/
def State.carrFault (s : State) (fault : Nat) : State :=
  if fault = 1 then s.safeHold 1 3 else s.safeHold 2 (s.posCore (fault - 2))

/-- The number of positions at work. -/
def State.carrThree (s : State) : Bool := s.cpxState == 1

/-- CARR_TRANSACTION_COMPARE (R329, R330): the transaction of each position; the one that is released, if any. -/
def State.carrVote (s : State) (a b c : CarrTx) (fault : Nat) : State × Option CarrTx :=
  if !s.carrRuns then (s, none)
  else if fault ≠ 0 then (s.carrFault fault, none)
  else if fldGet (s.reg CPX_STAT.a) CPX_STAT.mode_active = 1 then
    let fold (k : Nat) (t : CarrTx) : Nat := (crc64 (BitVec.ofNat 64 (s.carr.sigs.getD k 0)) (txRecord t)).toNat
    let k := s.carr
    let s1 : State := { s with carr := { k with sigs := [fold 0 a, fold 1 b, if s.carrThree then fold 2 c else 0] } }
    (s1, some a)
  else
    let v := vote s.carrThree (effOf a) (effOf b) (effOf c)
    (s.carrJudge v a.kind.val 0 a.addr.toNat, if v = 4 then none else if v = 0 then some b else some a)

/-- The CPX cycle of the present tick: 1.2 GHz against ticks of 4 ns. -/
def State.cpxCycle (s : State) : Nat := s.now * 24 / 5

/-- R331: the signatures of the window are compared and restart at 0; `src` 1 a window's end, 2 a CHKPT. The next window begins in the CPX
cycle `next`. -/
def State.windowClose (s : State) (kind src addr next : Nat) : State :=
  if !s.carrRuns || fldGet (s.reg CPX_STAT.a) CPX_STAT.mode_active == 0 then s
  else
    let g := s.carr.sigs
    let v := vote s.carrThree (g.getD 0 0) (g.getD 1 0) (g.getD 2 0)
    let k := s.carr
    let s1 : State := { s with carr := { k with sigs := [0, 0, 0], winAt := next } }
    s1.carrJudge v kind src addr

/-- WINDOW_CLOSE (R331): win_len cycles of the lead have passed since the window began. -/
def State.windowEnd (s : State) : State :=
  let k := s.carr
  if k.winAt + k.winLen ≤ s.cpxCycle then s.windowClose 0 1 0 (k.winAt + k.winLen) else s

/-- R338: the words of a CHKPT, each as 8 bytes, least significant first. -/
def chkptSig (l : List (BitVec 64)) : Nat := (crc64 0#64 ((l.map (fun w => leBytes 8 w.toNat)).flatten)).toNat

/-- CHKPT_WRITE (R338): the words of the three positions, from v to satp. -/
def State.chkptWrite (s : State) (a b c : List (BitVec 64)) : State :=
  if !s.carrRuns then s
  else
    let g := [chkptSig a, chkptSig b, chkptSig c]
    let chk := (List.range 3).foldl
      (fun l p => if p < 2 ∨ s.carrThree = true then setAt l (s.posCore p) (g.getD p 0) else l) s.carr.chk
    let k := s.carr
    let s1 : State := { s with carr := { k with chk := chk } }
    if fldGet (s.reg CPX_STAT.a) CPX_STAT.mode_active = 1 then
      let fold (p : Nat) : Nat := (crc64 (BitVec.ofNat 64 (s.carr.sigs.getD p 0)) (recordOf 4 0 3 0xff 0 (g.getD p 0))).toNat
      let k1 := s1.carr
      let s2 : State := { s1 with carr := { k1 with sigs := [fold 0, fold 1, if s.carrThree then fold 2 else 0] } }
      s2.windowClose 4 2 0 s.cpxCycle
    else s1.carrJudge (vote s.carrThree (g.getD 0 0) (g.getD 1 0) (g.getD 2 0)) 4 0 0

/-- RESYNC_SELFTEST_DONE (R333, R334). -/
def State.resyncTest (s : State) (ok : Bool) : State :=
  if s.cpxState = 2 ∧ s.carr.tested = false then
    let k := s.carr
    let c := fldGet (s.reg CPX_STAT.a) CPX_STAT.odd
    if ok then { s with carr := { k with tested := true } }
    else
      let s1 : State := { s with carr := { k with bad := some c } }
      ((s1.setF CPX_STAT.a CPX_STAT.state 3).cpxCount 3).raise 50 3 c
  else s

/-- RESYNC_STALL (R333): the odd core takes the third position. -/
def State.resyncStall (s : State) : State :=
  if s.cpxState = 2 ∧ s.carr.tested = true then
    let k := s.carr
    let c := fldGet (s.reg CPX_STAT.a) CPX_STAT.odd
    let chk := setAt k.chk c (k.chk.getD (s.posCore 0) 0)
    let s1 : State := { s with carr := { k with tested := false, lr := none, l1 := [], sigs := [0, 0, 0], chk := chk } }
    ((s1.setFs CPX_STAT.a [(CPX_STAT.state, 1), (CPX_STAT.odd, 3), (CPX_STAT.pos2, c)]).cpxCount 1).raise 50 2 c
  else s

/-- INJECTION_TEST (R337): every 10 ms; the position and the bit rotate over three positions and 144 bits. -/
def State.injection (s : State) (ok : Bool) : State :=
  if !s.carrRuns || decide (s.now < s.carr.injAt + msTicks 10) then s
  else
    let k := s.carr
    let p := k.inj % 3
    let s1 : State := { s with carr := { k with inj := (k.inj + 1) % 432, injAt := s.now } }
    if ok then s1.cpxCount 4 else s1.safeHold 3 (s.posCore p)

/-- R326, R329, R334: Carr starts after a Carr reset. A core that had failed is tested again, with an open outcome. -/
def State.carrStart (s0 : State) : State :=
  let old := s0.carr
  let again : Bool := match old.bad with
    | some _ => s0.fresh.1.getLsbD 0
    | none => false
  let s := if old.bad.isSome then s0.fresh.2 else s0
  let k := s.f CPX_CFG.a CPX_CFG.skew
  let sk := if k < 8 then 8 else if 32 < k then 32 else k
  let c := if again then old.bad.getD 3 else 3
  let cs := ([0, 1, 2].filter (fun q => q != c)) ++ (if again then [3] else [])
  let s1 : State := { s with carr := { old with sigs := [0, 0, 0], chk := [0, 0, 0], tested := false, lr := none, l1 := [], inj := 0,
                                                injAt := s.now, winAt := s.cpxCycle, winLen := max 256 (s.f CPX_CFG.a CPX_CFG.win_len)
                                                bad := if again then old.bad else none } }
  let s2 := s1.setFs CPX_STAT.a
    [(CPX_STAT.state, if again then 3 else 1), (CPX_STAT.mode_active, s.f CPX_CFG.a CPX_CFG.mode), (CPX_STAT.skew_active, sk),
     (CPX_STAT.odd, c), (CPX_STAT.pos0, cs.getD 0 0), (CPX_STAT.pos1, cs.getD 1 0), (CPX_STAT.pos2, cs.getD 2 3)]
  if again then (s2.cpxCount 3).raise 50 3 c else s2

/-- R344: a write of CPX_DOORBELL by initiator `i`. -/
def State.doorbell (s : State) (i v : Nat) : State :=
  (List.range 32).foldl (fun u b => if nbit v b then u.raise 52 1 (b + 32 * i) else u) s

/-! ### The LPDDR5X (R342, R343) -/

/-- R342, R344: the unit of 64 bytes that the scrubber read: no error, one it corrected, or one it could not. -/
def State.memScrub (s : State) (addr err : Nat) : State :=
  if !(s.on MEM_SCRUB_CFG.a MEM_SCRUB_CFG.scrub_en) || fldGet (s.reg MEM_STAT.a) MEM_STAT.self_refresh == 1 then s
  else if err = 1 then s.bump MEM_ECC_CNT.a MEM_ECC_CNT.corr
  else if err = 2 then s.memError 0 (64 * addr)
  else s

/-- R343: a training is due: the first, by the interval, by the temperature, or the retry of a failed one. -/
def State.trainDue (s : State) (temp : Int) : Bool :=
  match s.carr.trainAt with
  | none => true
  | some t =>
    if fldGet (s.reg MEM_STAT.a) MEM_STAT.link_ok = 0 then decide (t + msTicks 10 ≤ s.now)
    else s.on MEM_TRAIN_CFG.a MEM_TRAIN_CFG.train_en &&
      (decide (t + msTicks (max 1 (s.f MEM_TRAIN_CFG.a MEM_TRAIN_CFG.interval)) ≤ s.now) ||
       decide (((max 1 (s.f MEM_TRAIN_CFG.a MEM_TRAIN_CFG.temp_step) : Nat) : Int) ≤ (temp - s.carr.trainTemp).natAbs))

/-- MEM_TRAINING (R343, R205). -/
def State.memTrain (s : State) (temp : Int) (ok : Bool) : State :=
  if fldGet (s.reg MEM_STAT.a) MEM_STAT.self_refresh = 1 ∨ s.trainDue temp = false then s
  else
    let k := s.carr
    let s1 : State := { s with carr := { k with trainAt := some s.now, trainTemp := temp } }
    let s2 := s1.setFs MEM_STAT.a
      [(MEM_STAT.train_cnt, fldGet (s.reg MEM_STAT.a) MEM_STAT.train_cnt + 1), (MEM_STAT.link_ok, b2n ok)]
    let f := fldGet (s.reg QM_PEAT_STAT.a) QM_PEAT_STAT.link_fault
    if ok then (if f = 1 then (s2.setF QM_PEAT_STAT.a QM_PEAT_STAT.link_fault 0).raise 44 4 0 else s2)
    else
      let s3 := s2.raise 53 2 0
      if f = 1 then s3 else ((s3.setF QM_PEAT_STAT.a QM_PEAT_STAT.link_fault 1).raise 44 1 0).peatDiscard

/-! ### The commands -/

/-- WINDOW_CLOSE (R331). -/
def execWindowClose (s : State) : Host.Outcome State Fault Refusal := .next s.windowEnd

/-- RESYNC_SELFTEST_DONE (R333, R334). -/
def execResyncSelftestDone (ok : Bool) (s : State) : Host.Outcome State Fault Refusal := .next (s.live (s.resyncTest ok))

/-- RESYNC_STALL (R333). -/
def execResyncStall (s : State) : Host.Outcome State Fault Refusal := .next (s.live s.resyncStall)

/-- INJECTION_TEST (R337). -/
def execInjectionTest (ok : Bool) (s : State) : Host.Outcome State Fault Refusal := .next (s.injection ok)

/-- CHKPT_WRITE (R338): the 81 words of each position, from v to satp; `machine` is machine mode. -/
def execChkptWrite (machine : Bool) (a b c : List (BitVec 64)) (s : State) : Host.Outcome State Fault Refusal :=
  if a.length = 81 ∧ b.length = 81 ∧ c.length = 81 then .next (if machine then s.chkptWrite a b c else s)
  else .fault (.illFormed "CHKPT_WRITE")

/-- MEM_TRAINING (R343): at a junction temperature in °C. -/
def execMemTraining (temp : BitVec 9) (ok : Bool) (s : State) : Host.Outcome State Fault Refusal := .next (s.live (s.memTrain temp.toInt ok))

/-- MEM_SCRUB (R342): of a unit of 64 bytes. -/
def execMemScrub (addr : BitVec 27) (err : Fin 3) (s : State) : Host.Outcome State Fault Refusal :=
  .next (s.live (s.memScrub addr.toNat err.val))

end Sys2Proof.Machine
end

