-- ==== Sys2Proof/Machine/PairBase.lean ====
section
/-! DEFINITION. Causeway pairing (15 R357 to R371), the parts that fire no activation set: fitness, enable and disable, the
announcement of a hand-back, the frames the unit sends, the standby self-test. -/

namespace Sys2Proof.Machine

/-- The state of the unit: 0 OFF, 1 INIT, 2 STANDBY, 3 ACTIVE. -/
def State.pairState (s : State) : Nat := fldGet (s.reg PAIR_STAT.a) PAIR_STAT.state

/-- The roles that the unit holds. -/
def State.pairRoles (s : State) : Nat := fldGet (s.reg PAIR_STAT.a) PAIR_STAT.roles

/-- The state of the unit set, with PAIR_STAT. -/
def State.setPairState (s : State) (k : Nat) : State := s.setF PAIR_STAT.a PAIR_STAT.state k

/-- The pair bookkeeping set. -/
def State.setPair (s : State) (x : PairSt) : State := { s with pair := x }

/-- R358: the unit is fit. -/
def State.pairFit (s : State) : Bool :=
  let m := (s.hw PAIR_FIT_LO.a).toNat + (s.hw PAIR_FIT_HI.a).toNat * 2 ^ 32
  !((List.range 64).any (fun n => nbit m n && s.on (EVT_SRC_STAT.a n) EVT_SRC_STAT.pend)) && s.cpxState != 4 &&
  fldGet (s.reg PAIR_STAT.a) PAIR_STAT.st_failed == 0

/-- R362: this unit is the preferred one. -/
def State.preferred (s : State) : Bool := s.f PAIR_CFG.a PAIR_CFG.unit == s.f PAIR_CFG.a PAIR_CFG.pref

/-- R370: the heartbeat interval in ticks. -/
def State.pairTicks (s : State) : Nat := usTicks (100 * max 1 (s.f PAIR_CFG.a PAIR_CFG.interval))

/-- A counter of the block advances (R370). -/
def State.pairCount (s : State) (k : Nat) : State := s.bump (PAIR_CNT.a k) PAIR_CNT.count

/-- R361: path `p` is healthy (0 pin, 1 frame). -/
def State.pathOk (s : State) (p : Nat) : Bool :=
  fldGet (s.reg PAIR_STAT.a) (if p = 0 then PAIR_STAT.pin_ok else PAIR_STAT.frame_ok) == 1

/-- The health of a path set. -/
def State.setPathOk (s : State) (p v : Nat) : State :=
  s.setF PAIR_STAT.a (if p = 0 then PAIR_STAT.pin_ok else PAIR_STAT.frame_ok) v

/-- R362, R364: the unit enters INIT. -/
def State.pairInit (s : State) : State :=
  (s.setPair { since := s.now, hbAt := s.now, repAt := s.now }).setReg PAIR_STAT.a (fldSet 0#32 PAIR_STAT.state 1)

/-- R362: the unit enters OFF: its roles end, and no set fires. -/
def State.pairOff (s : State) : State :=
  let r := s.pairRoles
  let s1 := (s.setPair {}).setReg PAIR_STAT.a 0#32
  (List.range 3).foldl (fun u k => if nbit r k then u.raise 57 6 k else u) s1

/-- A committed change of PAIR_CFG (R362). -/
def State.pairCfgChanged (s : State) (old : Word) : State :=
  let v := fldGet (s.reg PAIR_CFG.a) PAIR_CFG.pair_en
  if v = fldGet old PAIR_CFG.pair_en then s else if v = 1 then s.pairInit else s.pairOff

/-- R365 step 1: the hand-back instant is announced, in the whole nanoseconds of R360. -/
def State.handbackAnnounce (s : State) : State :=
  if s.pair.ann.isSome then s
  else
    let t := taddU (s.tim.wkt / nsU * nsU) ((max 1 (s.f PAIR_TIMING.a PAIR_TIMING.handback_lead) * 1000000 * nsU : Nat) : Int)
    let x := s.pair
    ((s.setPair { x with ann := some t, annOk := false }).setF PAIR_STAT.a PAIR_STAT.handback 1).raise 57 8 0

/-- R365 step 4: the announcement is withdrawn, and hold_off starts again. -/
def State.handbackCancel (s : State) : State :=
  let x := s.pair
  ((s.setPair { x with ann := none, annOk := false, stby := x.stby.map (fun _ => s.now) }).setF PAIR_STAT.a
    PAIR_STAT.handback 0).raise 57 9 0

/-- R365: a write of 1 to PAIR_CTRL.yield. -/
def State.pairYield (s : State) : State := if s.pairState = 3 then s.handbackAnnounce else s

/-- R367: a write of 1 to PAIR_CTRL.st_clear. -/
def State.stClear (s : State) : State := s.setF PAIR_STAT.a PAIR_STAT.st_failed 0

/-- HOLD_OFF_EXPIRY (R365). -/
def State.holdOff (s : State) : State :=
  match s.pair.stby with
  | none => s
  | some t =>
    if s.pairState = 3 ∧ s.on PAIR_CFG.a PAIR_CFG.revert_en = true ∧ s.preferred = false ∧
        t + msTicks (s.f PAIR_TIMING.a PAIR_TIMING.hold_off) ≤ s.now then s.handbackAnnounce
    else s

/-- HANDBACK_ECHO_DEADLINE (R365 step 4): no echo at one interval before T. -/
def State.echoDeadline (s : State) : State :=
  match s.pair.ann with
  | none => s
  | some t =>
    if s.pair.annOk = false ∧ tdiff t s.tim.wkt < ((s.pairTicks * 4 * nsU : Nat) : Int) then s.handbackCancel else s

/-! ### The frames the unit sends (R360, R368) -/

/-- R360: a frame of the unit enters the queue of xlink_port in class hb_tc. -/
def State.pairSend (s : State) (payload : List Byte) : State :=
  let mac (lo hi : Nat) : List Byte := beBytes 6 (hi % 65536 * 2 ^ 32 + lo)
  let d := mac (s.hw PAIR_PEER_MAC_LO.a).toNat (s.hw PAIR_PEER_MAC_HI.a).toNat ++
    mac (s.hw PAIR_OWN_MAC_LO.a).toNat (s.hw PAIR_OWN_MAC_HI.a).toNat ++ beBytes 2 0x88b5 ++ payload
  let port := s.f PAIR_CFG.a PAIR_CFG.xlink_port
  let act : Act := { inPort := 24, tc := s.f PAIR_CFG.a PAIR_CFG.hb_tc, mode := 1, dest := port }
  let f : Frame := { port := 24, inPort := 24, ended := true, data := d, len := d.length + 4, wire := d ++ fcsOf d, hb := true
                     looked := true, act := act, head := some (s.parse 0 24 9216 d) }
  let r := s.newFrame f
  let s1 := r.2.takeIn r.1 [port]
  (s1.reap r.1).wfqAll

/-- A time in the layout of R360: seconds and nanoseconds, big-endian. -/
def pairTime (t : Nat) : List Byte := beBytes 6 (secOf t) ++ beBytes 4 (nsOf t)

/-- Byte 3 of R360. -/
def State.pairCond (s : State) : Nat := s.f PAIR_CFG.a PAIR_CFG.unit * 128 + b2n s.pairFit * 8 + s.pairState

/-- R360: the heartbeat's payload. -/
def State.hbPayload (s : State) : List Byte :=
  let x := s.pair
  let t := match x.ann with
    | some t => some t
    | none => x.echo
  beBytes 2 1 ++ beBytes 1 1 ++ beBytes 1 s.pairCond ++ beBytes 2 x.hbSeq ++ beBytes 1 s.pairRoles ++
  beBytes 1 (b2n x.ann.isSome + 2 * b2n x.echo.isSome) ++ (match t with
    | some t => pairTime t
    | none => List.replicate 10 0#8) ++ pairTime s.tim.wkt ++ List.replicate 18 0#8

/-- HEARTBEAT_INTERVAL (R359, R360). -/
def State.heartbeat (s : State) : State :=
  if s.pairState ≠ 0 ∧ s.pair.hbAt ≤ s.now then
    let w := if s.pairFit then (if s.pairState = 1 then 1000 else if s.pairState = 2 then 2000 else 4000) else 6000
    let x := s.pair
    let y := { x with hbAt := x.hbAt + s.pairTicks, hbSeq := (x.hbSeq + 1) % 65536 }
    ((s.setPair y).emit (.pulse "HB_OUT" w)).pairSend s.hbPayload
  else s

/-- R368: the report's payload. -/
def State.repPayload (s : State) : List Byte :=
  let x := s.pair
  beBytes 2 2 ++ beBytes 1 1 ++ beBytes 1 s.pairCond ++ beBytes 2 x.repSeq ++ beBytes 4 x.cycles ++ beBytes 2 x.fails ++
  beBytes 2 x.item ++ beBytes 1 s.cpxState ++ beBytes 1 0 ++
  beBytes 2 (ubits 16 (sint 10 (fldGet (s.reg SYS_MON_STAT.a) SYS_MON_STAT.tj_now))) ++
  beBytes 4 (secOf s.tim.frt) ++ List.replicate 24 0#8

/-- HEALTH_REPORT_SEND (R368). -/
def State.healthReport (s : State) : State :=
  if s.pairState = 2 ∧ s.pair.repAt ≤ s.now then
    let x := s.pair
    (s.setPair { x with repAt := x.repAt + msTicks 10, repSeq := (x.repSeq + 1) % 65536 }).pairSend s.repPayload
  else s

/-- REPORT_MISSING (R368): no report for 30 ms from a partner that shows STANDBY, counted from its last report or from the heartbeat
that first shows STANDBY. -/
def State.reportMissing (s : State) : State :=
  match s.pair.repLast with
  | none => s
  | some t =>
    if s.pairState ≠ 0 ∧ fldGet (s.reg PAIR_STAT.a) PAIR_STAT.partner = 2 ∧ t + msTicks 30 ≤ s.now then
      let x := s.pair
      (s.setPair { x with repLast := none }).raise 58 2 0
    else s

/-- R368: a health report arrives. -/
def State.reportIn (s : State) (p : List Byte) : State :=
  let n := be16 p 10
  let x := s.pair
  let s1 := (s.setPair { x with repLast := some s.now, peerFails := n }).snap 0x1d00100
    ((List.range 12).map (fun k => leNat (slice p (4 * k) 4)))
  s1.raiseIf (decide (x.peerFails < n)) 58 3 (be16 p 12)

/-! ### Standby self-test (R367) -/

/-- R367: the item is eligible. -/
def State.itemOk (s : State) (k : Nat) : Bool :=
  let n := k % 256
  if k = 0x400 then true
  else if k / 256 = 0 then decide (n < 20) && nbit (s.f PAIR_ST_CFG.a PAIR_ST_CFG.lb_ports) n && !(s.on (ETH_PORT_CFG.a n) ETH_PORT_CFG.en)
  else if k / 256 = 1 then decide (n < 24) && !(s.on (CAN_CFG.a n) CAN_CFG.en)
  else if k / 256 = 2 then decide (n < 8) && !(s.on (LIN_CFG.a n) LIN_CFG.en)
  else if k / 256 = 3 then decide (n < 8) && s.seqState n == 0 && (s.sq n).used == 0
  else false

/-- R367: the item codes. -/
def stItems : List Nat :=
  0x400 :: (List.range 20 ++ (List.range 24).map (fun n => 0x100 + n) ++ (List.range 8).map (fun n => 0x200 + n) ++
    (List.range 8).map (fun n => 0x300 + n))

/-- R367: item `k` is covered; when every eligible item has been, the cycle ends, and the next begins one test_cycle after it began. -/
def State.covered (s : State) (k : Nat) : State :=
  let x := s.pair
  let l := k :: x.done
  if stItems.all (fun j => !(s.itemOk j) || l.contains j) then
    (s.setPair { x with done := [], cycles := x.cycles + 1,
                        cycAt := x.cycAt + msTicks (100 * max 1 (s.f PAIR_ST_CFG.a PAIR_ST_CFG.test_cycle)) }).pairCount 6
  else s.setPair { x with done := l }

/-- R367: an item that the cycle has still to cover. -/
def State.itemDue (s : State) (k : Nat) : Bool :=
  s.on PAIR_ST_CFG.a PAIR_ST_CFG.st_en && s.pairState == 2 && s.itemOk k && !(s.pair.done.contains k) && decide (s.pair.cycAt ≤ s.now)

/-- SELFTEST_ITEM_DONE (R367): of item `k`. -/
def State.itemDone (s : State) (k : Nat) (ok : Bool) : State :=
  if s.itemDue k then
    let s1 := s.covered k
    if ok then s1
    else
      let y := s1.pair
      (((s1.setPair { y with fails := y.fails + 1, item := k }).setF PAIR_STAT.a PAIR_STAT.st_failed 1).pairCount 7).raise 58 1 k
  else s

/-! ### The commands -/

/-- HEARTBEAT_INTERVAL (R359). -/
def execHeartbeatInterval (s : State) : Host.Outcome State Fault Refusal := .next (s.live s.heartbeat)

/-- HOLD_OFF_EXPIRY (R365). -/
def execHoldOffExpiry (s : State) : Host.Outcome State Fault Refusal := .next (s.live s.holdOff)

/-- HANDBACK_ECHO_DEADLINE (R365). -/
def execHandbackEchoDeadline (s : State) : Host.Outcome State Fault Refusal := .next (s.live s.echoDeadline)

/-- SELFTEST_ITEM_DONE (R367). -/
def execSelftestItemDone (item : BitVec 11) (ok : Bool) (s : State) : Host.Outcome State Fault Refusal :=
  .next (s.live (s.itemDone item.toNat ok))

/-- HEALTH_REPORT_SEND (R368). -/
def execHealthReportSend (s : State) : Host.Outcome State Fault Refusal := .next (s.live s.healthReport)

/-- REPORT_MISSING (R368). -/
def execReportMissing (s : State) : Host.Outcome State Fault Refusal := .next (s.live s.reportMissing)

end Sys2Proof.Machine
end

