-- ==== Sys2Proof/Machine/SeqRun.lean ====
section
/-! DEFINITION. Running the sequencers (06): their states and commands that execute no instruction, the memories they read,
the check of an action word, host posts, inspection. -/

namespace Sys2Proof.Machine

/-! ### States (R121 to R125) -/

/-- The pc of a sequencer. -/
def State.seqPc (s : State) (n : Nat) : Nat := fldGet (s.reg (SEQ_STAT.a n)) SEQ_STAT.pc

/-- The pc of a sequencer set. -/
def State.setPc (s : State) (n pc : Nat) : State := s.setF (SEQ_STAT.a n) SEQ_STAT.pc pc

/-- The wait of a sequencer set, with SEQ_STAT.wait. -/
def State.setWait (s : State) (n : Nat) (w : WaitSt) : State :=
  let x := s.sq n
  (s.setSq n { x with wait := w }).setF (SEQ_STAT.a n) SEQ_STAT.wait w.kind

/-- A sequencer enters a state in which it does not wait. -/
def State.enterSeq (s : State) (n st : Nat) : State := (s.setWait n {}).setF (SEQ_STAT.a n) SEQ_STAT.state st

/-- R140: the watchdog period in use, in µs. -/
def State.wdogPeriod (s : State) (n : Nat) : Nat :=
  let p := s.f (SEQ_WDOG.a n) SEQ_WDOG.period
  if p < 10 then 10 else if 1000000 < p then 1000000 else p

/-- R124: the reason for which a start is refused. -/
def State.startReason (s : State) (n : Nat) : Option Nat :=
  let st := s.seqState n
  let len := s.f (SEQ_PROG.a n) SEQ_PROG.length
  let lo := s.f (SEQ_TWIN_LO.a n) SEQ_TWIN_LO.twin_lo
  let hi := s.f (SEQ_TWIN_HI.a n) SEQ_TWIN_HI.twin_hi
  lowestErr [(st == 1 || st == 2, 1), (len == 0 || decide (32768 < len) || decide (len ≤ s.f (SEQ_PROG.a n) SEQ_PROG.entry), 2),
    (decide (hi ≤ lo) || decide (0x100000 < hi), 3), (s.wktState == 0, 4)]

/-- R96: the architectural state at a start; the queue is untouched. -/
def SeqSt.clear (x : SeqSt) (now period : Nat) : SeqSt :=
  { x with g := Vector.replicate 16 0#32, t := Vector.replicate 4 0#96, ax := Vector.replicate 4 0#32, ws := 0#32, sig := 0#8
           fresh := 0#8, freshAt := 0, start := now, cyc := 0, wdog := 0, wperiod := period, wait := {} }

/-- R123, R124: a start command. -/
def State.seqStart (s : State) (n : Nat) : State :=
  match s.startReason n with
  | some k => s.raise (33 + n) 9 k
  | none =>
    let s1 := (s.gwReleaseAll n).setSq n ((s.sq n).clear s.now (s.wdogPeriod n))
    ((s1.enterSeq n 1).setPc n (s.f (SEQ_PROG.a n) SEQ_PROG.entry)).setReg (SEQ_TRAP.a n) 0#32

/-- R123: a stop, with or without the queue's flush. -/
def State.seqStop (s : State) (n : Nat) (flush : Bool) : State :=
  let s1 := (s.enterSeq n 0).gwReleaseAll n
  if flush then s1.flushQ n else s1

/-- R123, R125: a pause. -/
def State.seqPause (s : State) (n : Nat) : State := if s.seqState n = 1 then s.enterSeq n 2 else s

/-- R123: a resume. -/
def State.seqResume (s : State) (n : Nat) : State := if s.seqState n = 2 then s.enterSeq n 1 else s

/-- R121: the HALT instruction. -/
def State.seqHalt (s : State) (n : Nat) : State := ((s.enterSeq n 3).gwReleaseAll n).raise (33 + n) 1 0

/-- R140: a change of wdog_en from 0 to 1 restarts the count, from 0 on the next TIME tick. -/
def State.wdogCfgChanged (s : State) (n : Nat) (old : Word) : State :=
  if s.on (SEQ_WDOG.a n) SEQ_WDOG.wdog_en && fldGet old SEQ_WDOG.wdog_en == 0 then
    let x := s.sq n
    s.setSq n { x with wdog := 0, wdogZero := true }
  else s

/-- R142: SLEEP_COMMIT or a device reset: every queue is discarded and every sequencer enters STOP. -/
def State.seqSleep (s : State) : State :=
  (List.range 8).foldl (fun u n =>
    let x := u.sq n
    let k := x.used
    let u1 := ((u.enterSeq n 0).gwReleaseAll n).setQ n { (u.sq n) with tq := [], aq := [], wait := {} }
    if k = 0 then u1 else (u1.bumpN (SEQ_QCNT_A.a n) SEQ_QCNT_A.flushed k).raise (33 + n) 5 0) s

/-- R115, R140: the watchdogs on a TIME tick. -/
def State.tickWdog (s : State) : State :=
  (List.range 8).foldl (fun u n =>
    let x := u.sq n
    if x.wdogZero then u.setSq n { x with wdog := 0, wdogZero := false }
    else if u.seqState n == 1 && u.on (SEQ_WDOG.a n) SEQ_WDOG.wdog_en then u.setSq n { x with wdog := x.wdog + 1 }
    else u) s

/-- R115: the count has reached the period. -/
def State.wdogDue (s : State) (n : Nat) : Bool :=
  s.seqState n == 1 && s.on (SEQ_WDOG.a n) SEQ_WDOG.wdog_en && decide (usTicks (s.sq n).wperiod ≤ (s.sq n).wdog)

/-! ### Memories (R127 to R129; 05 R98, R99) -/

/-- The address of instruction word `k` of a sequencer in the table windows. -/
def progAddr (n k : Nat) : Nat := 0x3800000 + 0x20000 * n + 4 * k

/-- Table memory's base in the table windows. -/
def tblBase : Nat := 0x3900000

/-- The instruction word at a pc. -/
def State.progWord (s : State) (n pc : Nat) : Word := BitVec.ofNat 32 (s.winW (progAddr n pc))

/-- A word of table memory. -/
def State.tblW (s : State) (a : Nat) : Nat := s.winW (tblBase + a)

/-- A word of table memory written by a sequencer. -/
def State.setTblW (s : State) (a v : Nat) : State :=
  { s with win := memPut (fun _ => 0#8) s.win (tblBase + a) (leBytes 4 v) }

/-! ### Action words (05 R110, R111) -/

/-- 05 R111: the checks of an action word. -/
def actionOk (w : Nat) : Bool :=
  let k := w / 2 ^ 28
  let port := nbits w 27 23
  if k = 1 then nbits w 22 17 == 0 && nbits w 7 0 == 0 && decide (port < 24) && (!(nbit w 16) || decide (port < 12))
  else if k = 2 then nbits w 15 0 == 0 && decide (port < 24) && nbits w 19 16 != 0
  else if k = 3 then
    nbits w 21 20 == 0 && nbits w 23 22 != 3 && (nbits w 23 22 != 0 || nbits w 19 0 != 0)
  else if k = 4 then nbits w 16 0 == 0 && decide (port < 24)
  else if k = 5 then nbits w 25 0 == 0 && nbits w 27 26 != 3
  else if k = 6 then nbits w 23 0 == 0
  else if k = 7 then nbits w 27 12 == 0
  else if k = 8 then nbits w 27 24 == 0 && nbits w 15 8 == 0 && nbits w 23 16 != 0
  else false

/-! ### Mailboxes (R130, R136, R137, "Inspection") -/

/-- The mailboxes of the block. -/
def seqActMbx : Nat := 0x401000
def seqHpost : Nat := 0x401200
def seqQinsp : Nat := 0x401300
def seqDbg : Nat := 0x401400

/-- R136: a request at SEQ_HPOST. -/
def State.hpostReq (s : State) (op arg : Nat) : State :=
  let n := arg % 8
  let w := s.dw seqHpost 0
  let t := timeOf12 (s.dw seqHpost 1) (s.dw seqHpost 2) (s.dw seqHpost 3)
  let e := lowestErr [(op != 1 || decide (8 ≤ arg), 15), (!(actionOk w), 1), (decide (256 ≤ (s.sq n).used), 2), (!t.2, 3)]
  (if e.isNone then s.postTime n (BitVec.ofNat 32 w) t.1 else s).mbxEnd seqHpost 4 e

/-- An activation set. -/
def State.actSet (s : State) (k : Nat) : ActSt := Cells.get (fun _ => {}) s.acts k

/-- An activation set's contents set. -/
def State.setAct (s : State) (k : Nat) (x : ActSt) : State := { s with acts := Cells.set (fun _ => {}) s.acts k x }

/-- R137: the state of an activation set: 0 EMPTY, 1 OPEN, 2 SEALED, 3 DONE. -/
def State.actState (s : State) (k : Nat) : Nat := fldGet (s.reg (SEQ_ACT_STAT.a k)) SEQ_ACT_STAT.state

/-- R137: an address that an activation set may hold. -/
def actAddrOk (a : Nat) : Bool :=
  a % 4 == 0 && decide (a < 0x2000000) && blockOf a != 1 && blockOf a != 2 && blockOf a != 5 &&
  (match kindOf a with
   | .reg r => !r.guard
   | .comp _ => false
   | _ => true)

/-- R137: a request at SEQ_ACT. -/
def State.actReq (s : State) (op arg : Nat) : State :=
  let k := arg % 16
  let st := s.actState k
  let d0 := s.dw seqActMbx 0
  let d1 := s.reg (mbxData seqActMbx 1)
  let x := s.actSet k
  let e :=
    if op = 1 then lowestErr [(decide (16 ≤ arg), 15)]
    else if op = 2 then
      lowestErr [(decide (16 ≤ arg), 15), (decide (1 < st), 1), (decide (32 ≤ x.writes.length), 2), (!(actAddrOk d0), 3)]
    else if op = 3 then
      lowestErr [(decide (16 ≤ arg), 15), (decide (1 < st), 1), (nbits d0 15 8 &&& nbits d0 7 0 != 0, 4), (d0 / 2 ^ 18 != 0, 5)]
    else some 15
  let s1 :=
    if e.isSome then s
    else if op = 1 then (s.setAct k {}).setReg (SEQ_ACT_STAT.a k) 0#32
    else if op = 2 then
      (s.setAct k { x with writes := x.writes ++ [(d0, d1)] }).setFs (SEQ_ACT_STAT.a k)
        [(SEQ_ACT_STAT.state, 1), (SEQ_ACT_STAT.count, x.writes.length + 1)]
    else (s.setAct k { x with ctrl := BitVec.ofNat 32 d0 }).setF (SEQ_ACT_STAT.a k) SEQ_ACT_STAT.state 2
  s1.mbxEnd seqActMbx 4 e

/-- R142, R378: every activation set becomes EMPTY. -/
def State.actsEmpty (s : State) : State :=
  (List.range 16).foldl (fun u k => (u.setAct k {}).setReg (SEQ_ACT_STAT.a k) 0#32) s

/-- 05 R109: the words of a queued entry. -/
def TEnt.words (e : TEnt) : List Nat :=
  let v := secOf e.tgt * 2 ^ 46 + nsOf e.tgt * 65536 + frac16 e.tgt
  [v % 2 ^ 32, v / 2 ^ 32 % 2 ^ 32, v / 2 ^ 64 % 2 ^ 30, e.word.toNat]

/-- 05 R109: the words of an armed entry. -/
def AEnt.words (e : AEnt) : List Nat := [e.tau, e.dir * 4 + e.dom, 2 ^ 30, e.word.toNat]

/-- A request at SEQ_QINSP. -/
def State.qinspReq (s : State) (arg : Nat) : State :=
  let n := nbits arg 10 8
  let k := arg % 256
  let x := s.sq n
  let ws := (x.tq.map TEnt.words ++ x.aq.map AEnt.words)[k]?
  match lowestErr [(decide (2048 ≤ arg), 15), (ws.isNone, 1)] with
  | some c => s.mbxFail seqQinsp c
  | none => s.snap seqQinsp (ws.getD [])

/-- A time register: the bits of R96. -/
def SeqSt.treg (x : SeqSt) (k : Nat) : Nat := (x.t.getD k 0#96).toNat

/-- The layout of R102 of the 96 bits of a time register. -/
def tregWords (v : Nat) : List Nat :=
  [nbits v 77 46, nbits v 15 0 * 65536 + nbits v 93 78, nbits v 45 16]

/-- A request at SEQ_DBG. -/
def State.dbgReq (s : State) (op arg : Nat) : State :=
  let n := nbits arg 10 8
  let x := s.sq n
  let st := s.seqState n
  let e := lowestErr [(decide (2 < op) || decide (arg / 2048 ≠ 0) || decide (arg % 256 ≠ 0), 15), (st == 0 || st == 1, 1)]
  let g (k : Nat) : Nat := (x.g.getD k 0#32).toNat
  let ws :=
    if op = 0 then x.ws.toNat :: (List.range 15).map (fun k => g (k + 1))
    else if op = 1 then ((List.range 4).map (fun k => tregWords (x.treg k))).flatten ++
      (List.range 4).map (fun k => (x.ax.getD k 0#32).toNat)
    else [s.seqPc n, (x.sig ||| x.fresh).toNat] ++ List.replicate 14 0
  match e with
  | some c => s.mbxFail seqDbg c
  | none => s.snap seqDbg ws

end Sys2Proof.Machine
end

