-- ==== Sys2Proof/Machine/Roles.lean ====
section
/-! DEFINITION. Roles, lifecycle and the audit mailbox (02 R44 to R54, R439). -/

namespace Sys2Proof.Machine

/-- The mailboxes of the block. -/
def rolChal : Nat := 0x180000
def rolResp : Nat := 0x180100
def rolAud : Nat := 0x180300

/-- R53: the next entry of the audit log needs an anchor before it. -/
def State.anchorDue (s : State) : State :=
  let a := s.aud
  { s with aud := { a with anchor := none } }

/-- R49: the secret of a role: the last replacement, or the one fused before. A RETURN voids those of Installer and
Operator. -/
def State.secretOf (s : State) (r : Nat) : Option (BitVec 256) :=
  if r = 3 then some (Config.factorySecret 3)
  else if s.fuse.voided then none
  else if r = 2 then some (s.fuse.instSecret.getD (Config.factorySecret 2))
  else some (s.fuse.operSecret.getD (Config.factorySecret 1))

/-- R50: the roles that a lifecycle state lets in. -/
def lcAllows (state r : Nat) : Bool :=
  if state = 0 ∨ state = 3 then r == 3 else r == 1 || r == 2 || r == 3

/-- R44, R52, R53: the role of an initiator changes, with its audit entry and EV60; the entry names the register whose write changed it
(log entry 50). -/
def State.setRoleAt (s : State) (i r a : Nat) : State :=
  let x := s.sessOf i
  if x.role = r then s
  else ((s.setSess i { x with role := r }).audit 1 r i a x.role r).raise 60 4 i

/-- The same where no register write changed it: the entry's address is 0 (log entry 50). -/
def State.setRole (s : State) (i r : Nat) : State := s.setRoleAt i r 0

/-- R44: every session ends. A reset's end of a session is recorded like any role change. -/
def State.endSessions (s : State) : State :=
  ([0, 1, 2].foldl (fun u i => u.setRole i 0) s)

/-- R47: a request at ROL_CHAL. A refused request leaves an earlier challenge as it stands (log entry 50). -/
def State.chalReq (s : State) (i op arg : Nat) : State :=
  let known := op == 1 || op == 2 || op == 3
  let l := s.lockOf op
  match lowestErr [(!known || arg != 0, 15), (known && l.locked, 3)] with
  | some k => (if known then s.setSess i { s.sessOf i with reqRole := op } else s).mbxFail rolChal k
  | none =>
    let c := s.fresh.1
    let x := { s.sessOf i with reqRole := op, chalRole := op, chal := c, chalValid := true, chalEnd := s.now + msTicks 100 }
    (s.fresh.2.setSess i x).snap rolChal ((List.range 4).map (fun k => nbits c.toNat (32 * k + 31) (32 * k)))

/-- R47: the message that a response signs. -/
def respMsg (c : BitVec 128) (role i : Nat) : List Byte :=
  leBytes 16 c.toNat ++ leBytes 1 role ++ leBytes 1 i ++ leBytes 8 Config.devId.toNat

/-- R48: a failed response for a role. -/
def State.authFail (s : State) (i r : Nat) : State :=
  let s1 := s.raise 60 2 i
  if r = 0 then s1
  else
    let l := s.lockOf r
    let n := l.fails + 1
    if n % 4 = 0 then
      let d := min 320 (10 * 2 ^ l.locks)
      (s1.setLock r { fails := n, locks := l.locks + 1, locked := true, lockEnd := s.now + msTicks (1000 * d) }).raise 60 3 i
    else s1.setLock r { l with fails := n }

/-- R47, R48: a response. One for a role that the lifecycle state lets nobody enter counts as wrong; a correct one to a challenge issued
before its role was locked still enters and ends the lockout (log entry 50). -/
def State.respJudge (s : State) (i : Nat) (resp : List Byte) : State :=
  let x := s.sessOf i
  let s1 := s.setSess i { x with chalValid := false }
  if x.chalValid = true ∧ s.now ≤ x.chalEnd then
    let good := match s.secretOf x.chalRole with
      | some k => lcAllows s.fuse.state x.chalRole && hmacSha256 (beBytes 32 k.toNat) (respMsg x.chal x.chalRole i) == resp
      | none => false
    if good then
      let s2 := (s1.setLock x.chalRole {}).setRoleAt i x.chalRole rolResp
      s2.setSess i { s2.sessOf i with lastResult := 1 }
    else (s1.setSess i { x with chalValid := false, lastResult := 2 }).authFail i x.chalRole
  else (s1.setSess i { x with chalValid := false, lastResult := 3 }).authFail i x.reqRole

/-- R49: a replacement secret. -/
def State.replaceSecret (s : State) (r : Nat) (k : BitVec 256) : State :=
  let f := s.fuse
  if r = 2 then { s with fuse := { f with instUsed := f.instUsed + 1, instSecret := some k } }
  else { s with fuse := { f with operUsed := f.operUsed + 1, operSecret := some k } }

/-- R47, R49: a request at ROL_RESP. -/
def State.respReq (s : State) (i op arg : Nat) : State :=
  let bytes := ((List.range 8).map (fun k => leBytes 4 (s.dw rolResp k))).flatten
  let k := BitVec.ofNat 256 (beNat bytes)
  let e := lowestErr [(!(op == 1 || op == 2 || op == 3) || arg != 0, 15),
    (op == 2 && decide (4 ≤ s.fuse.instUsed), 4), (op == 3 && decide (8 ≤ s.fuse.operUsed), 4)]
  let s1 := if e.isSome then s else if op = 1 then s.respJudge i bytes else s.replaceSecret op k
  s1.mbxEnd rolResp 8 e

/-- R44: a write of 1 to ROL_CTRL.leave. -/
def State.roleLeave (s : State) (i : Nat) : State := s.setRoleAt i 0 ROL_CTRL.a

/-- R50: the path to a state is open. -/
def State.lcPath (s : State) (t : Nat) : Bool :=
  let st := s.fuse.state
  (st == 0 && t == 1) || (st == 1 && t == 2 && s.fuse.instSecret.isSome) || (st == 1 && t == 3) || (st == 2 && t == 3)

/-- R50: a committed lifecycle request. One along no path fails; ROL_LC_REQ keeps the code it asked for (log entry 50). -/
def State.lcRequest (s : State) (i t : Nat) : State :=
  let s1 := s.audit 3 (s.sessOf i).role i ROL_LC_REQ.a s.fuse.state t
  if s.lcPath t then { s1 with fuse := { s1.fuse with target := t } } else s1.raise 61 10 t

/-- R50, R51: at a pin or power-on reset a requested state takes effect; RETURN voids the Installer's and Operator's
secrets. -/
def RoleFuse.apply (f : RoleFuse) : RoleFuse :=
  if f.target = f.state then f else { f with state := f.target, voided := f.voided || f.target == 3 }

/-- R54: a request at ROL_AUD. -/
def State.audReq (s : State) (op arg : Nat) : State :=
  if 3 < op ∨ (op = 0 ∧ 4096 ≤ arg) then s.mbxFail rolAud 15
  else
    let words (v : Nat) (n : Nat) : List Nat := (List.range 8).map (fun k => if k < n then nbits v (32 * k + 31) (32 * k) else 0)
    let dig (d : BitVec 256) : List Nat := (List.range 8).map (fun k => leNat (slice (beBytes 32 d.toNat) (4 * k) 4))
    s.snap rolAud
      (if op = 0 then words (Cells.get (fun _ => 0#112) s.aud.ring arg).toNat 4
       else if op = 1 then dig s.aud.head
       else if op = 2 then dig s.aud.base
       else [(s.aud.next + 4095) % 4096, s.aud.cnt, 0, 0, 0, 0, 0, 0])

/-- CHALLENGE_EXPIRY (R47). -/
def State.chalExpiry (s : State) (i : Nat) : State :=
  let x := s.sessOf i
  if x.chalValid = true ∧ x.chalEnd < s.now then s.setSess i { x with chalValid := false } else s

/-- LOCKOUT_END (R48). -/
def State.lockoutEnd (s : State) (r : Nat) : State :=
  let l := s.lockOf r
  if l.locked = true ∧ l.lockEnd ≤ s.now then s.setLock r { l with locked := false } else s

/-- ROL_STAT as initiator `i` reads it; a begun unit of 10 ms of a lockout counts (log entry 50). -/
def State.rolStat (s : State) (i : Nat) : Word :=
  let x := s.sessOf i
  let l := s.lockOf x.reqRole
  let left := if x.reqRole ≠ 0 ∧ l.locked = true then ceilDiv (l.lockEnd - s.now) (msTicks 10) else 0
  BitVec.ofNat 32 (satTo 0xffff left * 65536 + satTo 15 (if x.reqRole = 0 then 0 else l.fails) * 4096 + x.lastResult * 256 + x.role)

/-- ROL_LC. -/
def State.rolLc (s : State) : Word := BitVec.ofNat 32 (s.fuse.target * 16 + s.fuse.state)

/-- CHALLENGE_EXPIRY (R47). -/
def execChallengeExpiry (i : Fin 3) (s : State) : Host.Outcome State Fault Refusal := .next (s.chalExpiry i.val)

/-- LOCKOUT_END (R48). -/
def execLockoutEnd (r : Fin 4) (s : State) : Host.Outcome State Fault Refusal := .next (s.lockoutEnd r.val)

end Sys2Proof.Machine
end

