-- ==== Sys2Proof/Machine/Pwr.lean ====
section
/-! DEFINITION. Fen sleep, PARTIAL and wake (16), but for the cold start of Carr at the end of a wake, which stands in Boot.lean. -/

namespace Sys2Proof.Machine

/-- The state code: 0 RUN, 1 PARTIAL, 2 FEN, 3 OFF. -/
def State.pwrState (s : State) : Nat := fldGet (s.reg PWR_STAT.a) PWR_STAT.state

/-- The phase of the entry: 0 none, 1 PREPARE, 2 DESCEND. -/
def State.pwrPhase (s : State) : Nat := fldGet (s.reg PWR_STAT.a) PWR_STAT.phase

/-- The power bookkeeping set. -/
def State.setPwr (s : State) (p : PwrSt) : State := { s with pwr := p }

/-- R373: the levels of INH_OUT in column `k` of PWR_INH_CFG: 0 RUN, 1 PARTIAL, 2 FEN, 3 OFF, 4 reset. -/
def State.inhLevels (s : State) (k : Nat) : Nat :=
  b2n (nbit (s.f PWR_INH_CFG.a PWR_INH_CFG.inh0) k) + 2 * b2n (nbit (s.f PWR_INH_CFG.a PWR_INH_CFG.inh1) k)

/-- R373: the INH_OUT outputs take levels. -/
def State.setInh (s : State) (v : Nat) : State :=
  let old := s.pwr.inh
  let pin (u : State) (k : Nat) : State := if nbit old k = nbit v k then u else u.emit (.pin "INH_OUT" k (nbit v k))
  pin (pin (s.setPwr { s.pwr with inh := v }) 0) 1

/-! ### Sleep request and PREPARE (R375, R377, R381) -/

/-- R379: the source is enabled. -/
def State.wakeEn (s : State) (k : Nat) : Bool := nbit (s.f PWR_WAKE_EN.a PWR_WAKE_EN.en) k

/-- R386: Wisp masks the source. -/
def State.wispMasked (s : State) (k : Nat) : Bool := fldGet (s.reg (PWR_WISP_STAT.a k)) PWR_WISP_STAT.masked_now == 1

/-- R375: the cycle of the 16 MHz AON clock, of 62.5 ns, that a tick falls into. -/
def aonCycle (t : Nat) : Nat := t * 8 / 125

/-- R379: a wake that aborted an entry or began a wake was latched in this AON cycle. -/
def State.sameLatch (s : State) : Bool :=
  match s.pwr.latchAt with
  | some t => aonCycle t == aonCycle s.now
  | none => false

/-- R375: the entry is aborted (R385). -/
def State.sleepAbort (s : State) (k : Nat) : State :=
  let w := fldGet (s.reg PWR_STAT.a) PWR_STAT.wake_src
  (((s.setFs PWR_STAT.a [(PWR_STAT.phase, 0), (PWR_STAT.wake_src, w ||| 2 ^ k)]).setF PWR_CTRL.a PWR_CTRL.sleep_req 0).setPwr
    { s.pwr with latchAt := some s.now }).raise 55 2 k

/-- R383, R386: a wake latched at `t` begins in FEN. -/
def State.wakeStart (s : State) (k t : Nat) : State :=
  let win := max 1 (s.f PWR_WISP_CFG.a PWR_WISP_CFG.wisp_win)
  let p := s.pwr
  let s1 := s.setPwr { p with wakeStep := 1, latchAt := some t, wisp := p.wisp ++ [(k, t + msTicks win)], judged := false }
  (s1.setF PWR_STAT.a PWR_STAT.first_src k).setInh (s1.inhLevels 0)

/-- R379: of the sources that latch in one AON cycle the lowest counts as first. -/
def State.wakeFirst (s : State) (k : Nat) : State :=
  let p := s.pwr
  if s.sameLatch && decide (k < fldGet (s.reg PWR_STAT.a) PWR_STAT.first_src) then
    (s.setPwr { p with wisp := p.wisp.dropLast ++ p.wisp.getLast?.toList.map (fun e => (k, e.2)) }).setF PWR_STAT.a PWR_STAT.first_src k
  else s

/-- R385: a wake latched in DESCEND; the first counts, and of one AON cycle the lowest. -/
def State.wakeLate (s : State) (k : Nat) : State :=
  let p := s.pwr
  match p.lateSrc with
  | none => s.setPwr { p with lateSrc := some k, latchAt := some s.now }
  | some j => if s.sameLatch then s.setPwr { p with lateSrc := some (min j k) } else s

/-- R379, R385, R374: a request of wake source `k`; a source of the AON cycle that aborted an entry is recorded beside it. -/
def State.wakeLatch (s : State) (k : Nat) : State :=
  let st := s.pwrState
  let ph := s.pwrPhase
  if s.wakeEn k = false ∨ (st = 0 ∧ ph = 0 ∧ s.sameLatch = false) then s
  else if s.wispMasked k then s.bump (PWR_WISP_STAT.a k) PWR_WISP_STAT.masked
  else if ph = 1 then s.sleepAbort k
  else
    let w := fldGet (s.reg PWR_STAT.a) PWR_STAT.wake_src
    let s1 := s.setF PWR_STAT.a PWR_STAT.wake_src (w ||| 2 ^ k)
    if ph = 2 then s1.wakeLate k
    else if st = 2 then (if s.pwr.wakeStep = 0 then s1.wakeStart k s.now else s1.wakeFirst k)
    else if s.sameLatch then s1
    else s.raise 55 1 k

/-- R381: the watch controllers that could not run on the AON clock. -/
def State.aonBad (s : State) : List Nat :=
  (List.range 4).filter (fun c => s.on (CAN_WUF_CFG.a c) CAN_WUF_CFG.wuf_en && (s.f (CAN_NBT.a c) CAN_NBT.brp + 1) % 5 != 0)

/-- R377, R381: the reason for which a sleep request is refused. -/
def State.sleepReason (s : State) : Option Nat :=
  lowestErr [(s.f PWR_WAKE_EN.a PWR_WAKE_EN.en == 0, 1), ((s.sessOf 2).role == 3, 2), (!s.aonBad.isEmpty, 3)]

/-- SLEEP_REQUEST (R375, R377, R380): PREPARE begins; a WAKE_IN pin that is already active aborts it at once. -/
def State.sleepReq (s : State) : State :=
  if s.powered = false ∨ s.pwrPhase ≠ 0 then s
  else
    let s0 := s.aonBad.foldl (fun u c => u.raise 55 7 c) s
    match s.sleepReason with
    | some k => (s0.setF PWR_CTRL.a PWR_CTRL.sleep_req 0).raise 55 5 k
    | none =>
      let seq := fldGet (s.reg PWR_PARK_CFG.a) PWR_PARK_CFG.seq
      let s1 := ((s.setF PWR_CTRL.a PWR_CTRL.sleep_req 1).setF PWR_PARK_CFG.a PWR_PARK_CFG.seq (seq + 1)).setFs PWR_STAT.a
        [(PWR_STAT.phase, 1), (PWR_STAT.wake_src, 0)]
      let s2 := s1.setPwr { s1.pwr with prepAt := s.now, lateSrc := none, latchAt := none }
      (List.range 4).foldl (fun u k => if nbit s.pwr.pins k then u.wakeLatch k else u) s2

/-! ### SLEEP_COMMIT and DESCEND (R375, R378) -/

/-- R378: CAN and LIN: pending requests end with result 2; queues, the pool, open and sealed batches are discarded; the message RAM
and the configuration of the batches and streams stay. -/
def State.busSleep (s : State) : State :=
  let s1 := (List.range 24).foldl (fun u c =>
    let v := (List.range 64).foldl (fun u b => if u.txPend c b then u.setW3 c b 0 0 2 else u) u
    v.setCan c {}) s
  let s2 := (List.range 32).foldl (fun u b =>
    u.setBatch b { u.batchOf b with acf := [], count := 0, first := 0, refs := [] }) s1
  { s2 with msgs := [], inq := [], held := [], sealedQ := [], lin := [] }

/-- R189: the update engines complete a flush in progress and discard their learning queues. -/
def State.tablesSleep (s : State) : State :=
  [0, 1].foldl (fun (u : State) (p : Nat) =>
    let u1 := match (u.pp p).flush with
      | none => u
      | some f =>
        let v := (List.range 32768).foldl (fun (w : State) (l : Nat) =>
          match w.fdbAt p l with
          | some e => if f.next ≤ l ∧ f.selects e = true then w.setFdb p l none else w
          | none => w) u
        v.setPp p { v.pp p with flush := none }
    u1.setPp p { u1.pp p with learnQ := [], notif := [], notifLost := false }) s

/-- 00 R6, 03 R71: in reset, and without power, the SYNC_OUT pins and TIME_PPS_OUT are low and the lanes electrically idle. -/
def State.pinsLow (s : State) : State :=
  let s1 := s.sync.foldl (fun u e => if e.2.level then u.emit (.edge "SYNC_OUT" e.1 false (16 * s.now)) else u) s
  let s2 := s.ports.foldl (fun u e => if e.2.sig = .idleElec then u else u.emit (.lane e.1 .idleElec)) s1
  if s.tim.ppsOut then s2.emit (.edge "TIME_PPS_OUT" 0 false (16 * s.now)) else s2

/-- R378: the switch core, the ports, the phase domains and the parts of Carr that lose power. -/
def State.coreSleep (s : State) : State :=
  let t := s.tim
  { s with frames := [], copies := [], bankUse := [], bankPtr := [], spilling := false, peatFull := false, ports := [], credit := [],
           wfq := [], wfqV := [], meters := [], mib := [], cipMib := [], cjobs := [], ringPtr := [], pcieGen := 0, pcie := {}, eraseBad := false, mdio := {}, fre := [],
           latch := [], phs := [], sync := [], guards := [], sram := [], carr := { bad := s.carr.bad }, pair := {},
           tim := { t with frozen := s.wktInc.toNat, rxts := [], txts := [], rxLost := false, txLost := false, ppsDue := none,
                           ppsOut := false } }

/-- R378: the bits of a register that Fen sleep keeps: RW, RWG and RWH fields; all of the EVT, ROL and PWR blocks, of SYS_RST_CAUSE
(R391), of the increments and the state of the time base (R59, R384), of TIM_ADJ_CNT, which only a reset clears (03 R58), TEC and REC of the watch controllers, the occupancy of the tables (08 R190), the ACTIVE banks and the
sampled BOOT_MODE. -/
def keepMask (a : Nat) : Word :=
  let b := blockOf a
  if b = 1 ∨ b = 2 ∨ b = 12 ∨ a = SYS_RST_CAUSE.a ∨ (0x200000 ≤ a ∧ a < 0x200020) ∨ a = TIM_WKT_STAT.a ∨
      a = TIM_DOM_STAT.a 0 ∨ a = TIM_DOM_STAT.a 1 ∨ a = FDB_STAT.a 0 ∨ a = FDB_STAT.a 1 ∨ (0x200380 ≤ a ∧ a < 0x20038c) ∨ (List.range 4).any (fun c => a == CAN_STAT.a c) then 0xffffffff#32
  else if a = CLS_BANK_STAT.a 0 ∨ a = CLS_BANK_STAT.a 1 then fldMask CLS_BANK_STAT.active
  else if a = SYS_BOOT_STAT.a then fldMask SYS_BOOT_STAT.boot_mode
  else match kindOf a with
    | .reg r => r.rw ||| r.rwg ||| r.rwh
    | _ => 0#32

/-- The registers with the bits outside `keep` at their reset values. -/
def State.keepRegs (s : State) (keep : Nat → Word) : State :=
  { s with regs := s.regs.foldl (fun m e => Cells.set resetOf m e.1 ((e.2 &&& keep e.1) ||| (resetOf e.1 &&& ~~~(keep e.1)))) [] }

/-- SLEEP_COMMIT (R375): the entry becomes unabortable; what R378 lists as lost is discarded, Causeway stops, the LPDDR5X enters
self-refresh. -/
def State.sleepCommit (s : State) (parked : Bool) : State :=
  let s1 := (((s.pairOff.seqSleep).actsEmpty.busSleep).tablesSleep.pinsLow.coreSleep).keepRegs keepMask
  let s2 := (s1.setF PWR_CTRL.a PWR_CTRL.sleep_req 0).setFs PWR_STAT.a [(PWR_STAT.phase, 2), (PWR_STAT.parked, b2n parked)]
  (s2.setF MEM_STAT.a MEM_STAT.self_refresh 1).setPwr
    { s2.pwr with lateSrc := none, latchAt := none, wakeStep := 0, ticks := 0, timer := 0, timerHit := false, fast := 0 }

/-- R375: a write of 1 to park_done. -/
def State.parkDone (s : State) : State := if s.pwrPhase = 1 then s.sleepCommit true else s

/-- PREP_TIMEOUT (R375). -/
def State.prepTimeout (s : State) : State :=
  let t := max 1 (s.f PWR_PREP_CFG.a PWR_PREP_CFG.prep_timeout)
  if s.pwrPhase = 1 ∧ s.pwr.prepAt + msTicks t ≤ s.now then (s.raise 55 4 0).sleepCommit false else s

/-- DESCEND_DONE (R375, R385): a wake that was latched since SLEEP_COMMIT goes on at once. -/
def State.descendDone (s : State) : State :=
  if s.pwrPhase = 2 then
    let s1 := s.setFs PWR_STAT.a [(PWR_STAT.state, 2), (PWR_STAT.phase, 0)]
    let fen := s1.inhLevels 2
    match s.pwr.lateSrc with
    | none => s1.setInh fen
    | some k => (s1.setInh (fen / 2 * 2 + s1.inhLevels 0 % 2)).wakeStart k (s.pwr.latchAt.getD s.now)
  else s

/-! ### Sources (R379 to R382) -/

/-- WAKE_IN_PIN (R380): pin `k` has held a level for `held` samples of 62.5 ns. -/
def State.wakeInPin (s : State) (k : Nat) (level : Bool) (held : Nat) : State :=
  let act := level == s.on (PWR_WAKEIN_CFG.a k) PWR_WAKEIN_CFG.active_high
  let was := s.pwr.pins
  let p := s.pwr
  if act = false then s.setPwr { p with pins := was - (if nbit was k then 2 ^ k else 0) }
  else if held < 16 * max 1 (s.f (PWR_WAKEIN_CFG.a k) PWR_WAKEIN_CFG.filt) then s
  else (s.setPwr { p with pins := was ||| 2 ^ k }).wakeLatch k

/-- WUP_DETECT (R382): a wake-up pulse on port 20 + `k`: on a port that sleeps with det_en a wake source, on an awake one an event. -/
def State.wupDetect (s : State) (k : Nat) : State :=
  if s.powered && !s.portAsleep (20 + k) then s.raise 55 6 (20 + k)
  else if nbit (s.f PWR_TC10_CFG.a PWR_TC10_CFG.det_en) k then s.wakeLatch (8 + k)
  else s

/-- AON_TIMER_EXPIRY (R379). -/
def State.aonTimer (s : State) : State :=
  if s.inFen && s.pwr.timerHit then (s.setPwr { s.pwr with timerHit := false }).wakeLatch 12 else s

/-- R379: a write of 1 to wake_now: a wake source in PREPARE only. -/
def State.wakeNow (s : State) : State := if s.pwrPhase = 1 then s.wakeLatch 14 else s

/-- R388: PWR_TIMER on a TIME tick in FEN: it counts units of 1/1024 s. -/
def State.tickAon (s : State) : State :=
  let p := s.pwr
  let n := fldGet (s.reg PWR_TIMER.a) PWR_TIMER.count
  let s1 : State := { s with now := s.now + 1, pwr := { p with ticks := p.ticks + 1 } }
  if n = 0 ∨ s.inFen = false then s1
  else if p.timer + 1024 < 250000000 then s1.setPwr { s1.pwr with timer := p.timer + 1024 }
  else (s1.setPwr { s1.pwr with timer := p.timer + 1024 - 250000000, timerHit := n == 1 }).setF PWR_TIMER.a PWR_TIMER.count (n - 1)

/-- CAN_FRAME_RECEIVED (13 R307, R317; R381): a watch controller's match, or an overflow of its error count, is a wake request. -/
def State.canFrame (s : State) (c : Nat) (r : CanRx) : State :=
  if s.canOn c = false then s
  else if s.canIgn c then
    let x := s.canIgnored c r
    let wakes := match x.2 with
      | some 0 => true
      | some _ => s.on PWR_WAKE_EN.a PWR_WAKE_EN.pn_wake_en
      | none => false
    if wakes && decide (c < 4) then x.1.wakeLatch (4 + c) else x.1
  else if s.powered then s.canReceive c r
  else s

/-! ### Waking (R383, R384) -/

/-- WAKE_POWER_GOOD (R383). -/
def State.powerGood (s : State) : State := if s.pwr.wakeStep = 1 then s.setPwr { s.pwr with wakeStep := 2 } else s

/-- R389: the events of the sleep are raised. -/
def State.raiseLater (s : State) : State :=
  (s.pwr.later.foldl (fun u e => u.raise e.1 e.2.1 e.2.2) s).setPwr { s.pwr with later := [] }

/-- R57: the duration of the sleep, to within one AON tick of 30.52 µs either way, in units of 2^-32 ns. -/
def sleepSpan (ticks : Nat) (v : BitVec 128) : Nat :=
  ((((ticks * 4 + 30520) * nsU : Nat) : Int) - ((v.toNat % (61040 * nsU + 1) : Nat) : Int)).toNat

/-- WAKE_PLL_LOCKED (R57, R383, R384, R389): the counters are advanced, both domains are lost, WKT is in HOLDOVER. -/
def State.pllLocked (s : State) : State :=
  if s.pwr.wakeStep = 2 then
    let d : Int := (sleepSpan s.pwr.ticks s.fresh.1 : Nat)
    let t := s.tim
    let s1 : State := { s.fresh.2 with
      wktPrev := taddU t.wkt d
      tim := { t with frt := taddU t.frt d, dta := taddU t.dta d, dtb := taddU t.dtb d, wkt := taddU t.wkt d } }
    let s2 := ((s1.domLose 0).domLose 1).wktSettle
    let t2 := s2.tim
    let s3 : State := { s2 with tim := { t2 with frozen := t.frozen } }
    let s4 := s3.raiseLater
    let s5 := match s.pwr.lateSrc with
      | some k => s4.raise 55 3 k
      | none => s4.raise 55 1 (fldGet (s.reg PWR_STAT.a) PWR_STAT.first_src)
    s5.setPwr { s5.pwr with wakeStep := 3, lateSrc := none }
  else s

/-- R189: aging and the freeze timers resume from where they stood. -/
def State.tablesWake (s : State) (k : Nat) : State :=
  let mv (e : Option FdbEnt) : Option FdbEnt := e.map (fun x => { x with frzEnd := x.frzEnd + k, win := x.win.map (· + k) })
  let s1 : State := { s with fdb := s.fdb.foldl (fun m e => Cells.set (fun _ => none) m e.1 (mv e.2)) [] }
  [0, 1].foldl (fun (u : State) (p : Nat) => u.setPp p { u.pp p with sweepAt := (u.pp p).sweepAt + k * 32768 }) s1

/-- WAKE_PIPELINES_READY (R383, R384, R364, R382). -/
def State.pipesReady (s : State) : State :=
  if s.pwr.wakeStep = 3 then
    let s1 := (s.setF PWR_STAT.a PWR_STAT.state 0).tablesWake s.pwr.ticks
    let s2 := s1.setPwr { s1.pwr with wakeStep := 4, fast := s.f PWR_WAKE_CFG.a PWR_WAKE_CFG.fast_link }
    let s3 := s2.setF MEM_STAT.a MEM_STAT.self_refresh 0
    let s4 := (List.range 24).foldl (fun u n => if u.on (ETH_PORT_CFG.a n) ETH_PORT_CFG.en then u.portEnable n else u) s3
    let s5 := (List.range 8).foldl (fun u n => if nbit (s.f PWR_WAKE_CFG.a PWR_WAKE_CFG.seq_start) n then u.seqStart n else u) s4
    let s6 := (List.range 4).foldl (fun u d => if u.phOn d then u.phEnable d else u) s5
    let s7 := if s.on PAIR_CFG.a PAIR_CFG.pair_en then s6.pairInit else s6
    ((List.range 4).foldl (fun u k => if nbit (s.f PWR_TC10_CFG.a PWR_TC10_CFG.wup_tx) k then u.emit (.wup (20 + k)) else u)
      s7).raiseLater
  else s

/-- R376: the park header in the LPDDR5X is correct: its magic, its CRC and its sequence. -/
def State.parkOk (s : State) : Bool :=
  let b := s.f PWR_PARK_CFG.a PWR_PARK_CFG.base_mib * 1048576
  let h := memBytes (fun _ => 0#8) s.dram b 64
  h.take 4 == [0x48#8, 0x5a#8, 0x50#8, 0x31#8] && leNat (slice h 4 4) == fldGet (s.reg PWR_PARK_CFG.a) PWR_PARK_CFG.seq &&
  leNat (slice h 60 4) == (crc32 (h.take 60)).toNat

/-- R376: Carr SRAM as the park area holds it. -/
def State.parkImage (s : State) : Cells Byte :=
  let b := s.f PWR_PARK_CFG.a PWR_PARK_CFG.base_mib * 1048576 + 0x400000
  (s.dram.filter (fun e => decide (b ≤ e.1) && decide (e.1 < b + 0x400000))).map (fun e => (e.1 - b + sramBase, e.2))

/-! ### PARTIAL (R374) -/

/-- R374: the PARTIAL masks after a write: the state, the ports that fall asleep or wake, the CAN and LIN controllers. -/
def State.partialChanged (s : State) (old : Nat) : State :=
  let new := s.f PWR_PART_PORTS.a PWR_PART_PORTS.ports
  let any := new != 0 || s.f PWR_PART_BUS.a PWR_PART_BUS.can != 0 || s.f PWR_PART_BUS.a PWR_PART_BUS.lin != 0
  let st := s.pwrState
  let was := if st = 1 then old else 0
  let p := s.pwr
  let s1 := (s.setF PWR_STAT.a PWR_STAT.state (b2n any)).setPwr
    { p with fast := p.fast ||| (was &&& (16777215 - new) &&& s.f PWR_WAKE_CFG.a PWR_WAKE_CFG.fast_link) }
  (List.range 24).foldl (fun u n =>
    if u.on (ETH_PORT_CFG.a n) ETH_PORT_CFG.en = false then u
    else if nbit new n && !(nbit was n) then u.portDisable n
    else if nbit was n && !(nbit new n) then u.portEnable n
    else u) s1

/-! ### Wisp (R386) -/

/-- R386: a wake's window ends unvalidated. -/
def State.wispCount (s : State) (k : Nat) : State :=
  let a := PWR_WISP_STAT.a k
  let n := satTo 127 (fldGet (s.reg a) PWR_WISP_STAT.count + 1)
  let s1 := s.setF a PWR_WISP_STAT.count n
  if s.f PWR_WISP_CFG.a PWR_WISP_CFG.wisp_thr < n then
    let s2 := s1.raiseAon 56 1 k
    if s.on PWR_WISP_CFG.a PWR_WISP_CFG.mask_en then
      let p := s2.pwr
      let e := s.now + msTicks (1000 * max 1 (s.f PWR_WISP_CFG.a PWR_WISP_CFG.backoff))
      (s2.setF a PWR_WISP_STAT.masked_now 1).setPwr { p with maskEnd := Cells.set (fun _ => 0) p.maskEnd k e }
    else s2
  else s1

/-- WISP_WINDOW_END (R386): the oldest window has expired; a write of wake_valid in the AON cycle of the expiry wins. -/
def State.wispEnd (s : State) : State :=
  match s.pwr.wisp with
  | [] => s
  | (k, e) :: r => if aonCycle e < aonCycle s.now then (s.setPwr { s.pwr with wisp := r, judged := s.pwr.judged || r.isEmpty }).wispCount k else s

/-- R386: a write of 1 to wake_valid validates the last wake. -/
def State.wakeValid (s : State) : State :=
  match s.pwr.wisp.getLast? with
  | none => s
  | some (k, e) =>
    if s.pwr.judged = false ∧ aonCycle s.now ≤ aonCycle e then
      (s.setPwr { s.pwr with wisp := s.pwr.wisp.dropLast, judged := true }).setF (PWR_WISP_STAT.a k) PWR_WISP_STAT.count 0
    else s

/-- R380: PWR_WAKEIN_CFG of pin `k` is written; a pin whose active level changes has not held it yet. -/
def State.wakeInChanged (s : State) (k : Nat) (old : Word) : State :=
  let p := s.pwr
  if fldGet old PWR_WAKEIN_CFG.active_high = s.f (PWR_WAKEIN_CFG.a k) PWR_WAKEIN_CFG.active_high then s
  else s.setPwr { p with pins := p.pins - (if nbit p.pins k then 2 ^ k else 0) }

/-- WISP_BACKOFF_END (R386). -/
def State.wispUnmask (s : State) (k : Nat) : State :=
  if s.wispMasked k && decide (Cells.get (fun _ => 0) s.pwr.maskEnd k ≤ s.now) then
    (s.setFs (PWR_WISP_STAT.a k) [(PWR_WISP_STAT.masked_now, 0), (PWR_WISP_STAT.count, 0)]).raiseAon 56 2 k
  else s

/-- R388: a write of PWR_CTRL: wake_valid, then off_req, then a wake, which precedes SLEEP_COMMIT in the same cycle (R385), then
park_done, then sleep_req. -/
def State.pwrCtrl (s : State) (w : Word) : State :=
  let go (x : Fld) (f : State → State) (u : State) : State := if fldGet w x = 1 then f u else u
  go PWR_CTRL.sleep_req State.sleepReq (go PWR_CTRL.park_done State.parkDone (go PWR_CTRL.wake_now State.wakeNow
    (go PWR_CTRL.off_req (fun u => u.setInh (u.inhLevels 3)) (go PWR_CTRL.wake_valid State.wakeValid s))))

/-! ### The commands -/

/-- PREP_TIMEOUT (R375); `wake` a wake latched in the same AON cycle (R385). -/
def execPrepTimeout (wake : Option (Fin 15)) (s : State) : Host.Outcome State Fault Refusal :=
  .next (match wake with
    | some k => (s.wakeLatch k.val).prepTimeout
    | none => s.prepTimeout)

/-- DESCEND_DONE (R375). -/
def execDescendDone (s : State) : Host.Outcome State Fault Refusal := .next s.descendDone

/-- WAKE_IN_PIN (R380). -/
def execWakeInPin (k : Fin 4) (level : Bool) (held : BitVec 16) (s : State) : Host.Outcome State Fault Refusal :=
  .next (s.wakeInPin k.val level held.toNat)

/-- WUP_DETECT (R382). -/
def execWupDetect (k : Fin 4) (s : State) : Host.Outcome State Fault Refusal := .next (s.wupDetect k.val)

/-- AON_TIMER_EXPIRY (R379). -/
def execAonTimerExpiry (s : State) : Host.Outcome State Fault Refusal := .next s.aonTimer

/-- WAKE_POWER_GOOD (R383). -/
def execWakePowerGood (s : State) : Host.Outcome State Fault Refusal := .next s.powerGood

/-- WAKE_PLL_LOCKED (R383). -/
def execWakePllLocked (s : State) : Host.Outcome State Fault Refusal := .next s.pllLocked

/-- WAKE_PIPELINES_READY (R383). -/
def execWakePipelinesReady (s : State) : Host.Outcome State Fault Refusal := .next s.pipesReady

/-- WISP_WINDOW_END (R386). -/
def execWispWindowEnd (s : State) : Host.Outcome State Fault Refusal := .next s.wispEnd

/-- WISP_BACKOFF_END (R386). -/
def execWispBackoffEnd (k : Fin 15) (s : State) : Host.Outcome State Fault Refusal := .next (s.wispUnmask k.val)

/-- CAN_FRAME_RECEIVED (13 R307). -/
def execCanFrameReceived (c : Fin 24) (fmt : Fin 3) (ide rtr brs esi : Bool) (ident : BitVec 29) (dlc : BitVec 4) (data : List Byte)
    (sdt vcid : BitVec 8) (sec : BitVec 1) (af : BitVec 32) (err : Bool) (back : BitVec 32) (s : State) :
    Host.Outcome State Fault Refusal :=
  let r : CanRx := { fmt := fmt.val, ide := ide, rtr := rtr, brs := brs, esi := esi, id := ident.toNat, dlc := dlc.toNat, data := data
                     xl := (sdt.toNat, vcid.toNat, sec.toNat, af.toNat), err := err, back := back.toNat }
  if r.ok then .next (s.canFrame c.val r) else .fault (.illFormed "CAN_FRAME_RECEIVED")

end Sys2Proof.Machine
end

