-- ==== Sys2Proof/Machine/Boot.lean ====
section
/-! DEFINITION. Resets, the boot ROM, the flash and the boot verifier (17). -/

namespace Sys2Proof.Machine

/-- The boot bookkeeping set. -/
def State.setBoot (s : State) (b : BootSt) : State := { s with boot := b }

/-- 02 R43, 11 R267, 17 R394: FAULT_n is asserted. -/
def State.faultN (s : State) : Bool :=
  s.boot.faultHold || s.cpxState == 4 || !s.powered ||
  (List.range 64).any (fun n => isSafety n && s.on (EVT_SRC_CFG.a n) EVT_SRC_CFG.fault_en &&
    fldGet (s.reg (EVT_SRC_STAT.a n)) EVT_SRC_STAT.pend == 1) ||
  (s.eraseBad && s.on (EVT_SRC_CFG.a 49) EVT_SRC_CFG.fault_en)

/-! ### The flash (R398 to R400) -/

/-- The size of the flash. -/
def flashSize : Nat := 0x8000000 + Config.flashExtra

/-- `n` bytes of the flash; an erased byte reads 0xFF. -/
def State.flashRead (s : State) (a n : Nat) : List Byte := memBytes (fun _ => 0xff#8) s.flash a n

/-- R399: the sequence number and the flags of a correct boot record. -/
def bootRecord (b : List Byte) : Option (Nat × Nat) :=
  if b.take 4 = [0x48#8, 0x5a#8, 0x42#8, 0x31#8] ∧ leNat (slice b 60 4) = (crc32 (b.take 60)).toNat then
    some (leNat (slice b 4 4), leNat (slice b 8 4))
  else none

/-- R399: the record in force says that an image set is staged. -/
def State.staging (s : State) : Bool :=
  match bootRecord (s.flashRead 0 64), bootRecord (s.flashRead 0x10000 64) with
  | some a, some b => nbit (if serialLt a.1 b.1 then b.2 else a.2) 0
  | some a, none => nbit a.2 0
  | none, some b => nbit b.2 0
  | none, none => false

/-- The slots. -/
def activeSlot : Nat := 0x100000
def stagingSlot : Nat := 0x2100000

/-- R400: an erase or a program within the slot that can boot. -/
def State.slotLocked (s : State) (a : Nat) : Bool :=
  let lo := if s.staging then stagingSlot else activeSlot
  decide (lo ≤ a) && decide (a < lo + 0x2000000)

/-- The SYS_FLASH mailbox. -/
def sysFlash : Nat := 0x400

/-- R400: a request at SYS_FLASH: it fails at once, or the mailbox stays busy until the flash has finished. -/
def State.flashReq (s : State) (op arg : Nat) : State :=
  let a := s.dw sysFlash 0
  let unit := if op = 1 then 65536 else 32
  let known := op == 1 || op == 2
  match lowestErr [(known && (a % unit != 0 || decide (flashSize < a + unit)), 1), (known && s.slotLocked a, 2), (!known || arg != 0, 15)] with
  | some 2 => (s.raise 61 12 (a / 2 ^ 20)).mbxEnd sysFlash 9 (some 2)
  | some e => s.mbxEnd sysFlash 9 (some e)
  | none =>
    let d := ((List.range 8).map (fun k => leBytes 4 (s.dw sysFlash (k + 1)))).flatten
    s.setBoot { s.boot with flashOp := op, flashAddr := a, flashData := d }

/-- `n` open bytes at a flash address, 16 at a time. -/
def State.flashScramble (s : State) (a : Nat) : Nat → State
  | 0 => s
  | n + 1 =>
    let v := s.fresh
    let u : State := { v.2 with flash := memPut (fun _ => 0xff#8) v.2.flash a (leBytes 16 v.1.toNat) }
    u.flashScramble (a + 16) n

/-- The bytes of the command in progress become open: it failed, or a reset cut it short. -/
def State.flashBroken (s : State) : State :=
  if s.boot.flashOp = 0 then s else s.flashScramble s.boot.flashAddr (if s.boot.flashOp = 1 then 4096 else 2)

/-- R400: the flash does what the command says: an erased byte reads 0xFF; a program clears bits. -/
def State.flashApply (s : State) : State :=
  let a := s.boot.flashAddr
  if s.boot.flashOp = 1 then { s with flash := Cells.clear s.flash a (a + 65536) }
  else
    let d := (s.flashRead a 32).zipWith (fun x y => x &&& y) s.boot.flashData
    { s with flash := memPut (fun _ => 0xff#8) s.flash a d }

/-- FLASH_OP_DONE (R400): `again` says that a write of 1 to req falls in the same cycle (02 R37). -/
def State.flashDone (s : State) (ok again : Bool) : State :=
  if s.boot.flashOp = 0 then s
  else
    let s1 := if ok then s.flashApply else s.flashBroken
    let s2 := (s1.setBoot { s1.boot with flashOp := 0, flashData := [] }).mbxEnd sysFlash 9 (if ok then none else some 3)
    if again then s2.setF (sysFlash + 4) MBX_STAT.overrun 1 else s2

/-! ### Containers and their verification (R401, R402) -/

/-- R401: where a container's payload may be loaded: Carr SRAM for firmware, the LPDDR5X for a configuration. -/
def loadFits (kind a n : Nat) : Bool :=
  if kind = 1 then decide (n ≤ 0x200000) && decide (sramBase ≤ a) && decide (a + n ≤ sramEnd)
  else decide (n ≤ 0x1800000) && inDram a n

/-- R402: the check that a container of kind `kind` fails, or 0; `rd k n` delivers its bytes. -/
def bootCheck (kind : Nat) (rd : Nat → Nat → List Byte) : Nat :=
  let h := rd 0 256
  let n := leNat (slice h 8 4)
  let key := slice h 0x40 64
  let kh := BitVec.ofNat 256 (beNat (sha256 key))
  if !(h.take 4 == [0x48#8, 0x5a#8, 0x43#8, 0x31#8] && leNat (slice h 4 2) == 1 && leNat (slice h 6 2) == kind &&
      leNat (slice h 12 4) == 0 && leNat (slice h 0xc0 64) == 0) then 1
  else if !((List.range 4).any (fun k => kh == Config.keyHash k && !(Config.keyRevoked k))) then 2
  else if !(loadFits kind (leNat (slice h 16 8)) n) then 3
  else if sha256 (rd 256 n) != slice h 0x20 32 then 4
  else if !(Config.ecdsaVerify key (h.take 128) (slice h 0x80 64)) then 5
  else 0

/-- The bytes of a container in the flash, in Carr SRAM, or received over UART. -/
def State.rdFlash (s : State) (base k n : Nat) : List Byte := s.flashRead (base + k) n
def State.rdSram (s : State) (base k n : Nat) : List Byte := s.sramRead (base + k) n
def State.rdUart (s : State) (k n : Nat) : List Byte := slice s.boot.uart k n

/-- BV_GO (R402): the verifier checks the configuration container at the Carr address in SYS_BV_ADDR: in the flash window or in
Carr SRAM; it reads nothing elsewhere. -/
def State.bvGo (s : State) : State :=
  let a := s.f SYS_BV_ADDR.a SYS_BV_ADDR.addr
  let c :=
    if 0x60000000 ≤ a ∧ a < 0x70000000 then bootCheck 2 (s.rdFlash (a - 0x60000000))
    else if sramBase ≤ a ∧ a < sramEnd then bootCheck 2 (s.rdSram a)
    else 1
  s.setFs SYS_BV_CTRL.a [(SYS_BV_CTRL.busy, 0), (SYS_BV_CTRL.code, c), (SYS_BV_CTRL.go, 0)]

/-! ### The boot ROM (R396, R397, R403, R404) -/

/-- R403: the boot ROM turns to the flash. -/
def State.bootFlash (s : State) : State := s.setBoot { s.boot with stage := if s.staging then 1 else 2 }

/-- RESET_RELEASE (R396, R438): after a device-scope reset BOOT_MODE is sampled; the source is chosen. A test instruction that
holds the functional logic keeps it in reset (18 R435). -/
def State.resetRelease (s : State) (pins : Nat) : State :=
  if s.boot.stage ≠ 0 ∨ s.clocked = false then s
  else
    let dev := !s.boot.carr
    let mode := if dev then pins else fldGet (s.reg SYS_BOOT_STAT.a) SYS_BOOT_STAT.boot_mode
    let s1 := s.setFs SYS_BOOT_STAT.a [(SYS_BOOT_STAT.boot_mode, mode), (SYS_BOOT_STAT.result, 0)]
    let b := s1.boot
    let s2 := ((if dev then s1.ageStart else s1).setBoot
      { b with carr := false, relAt := if dev then s.now else b.relAt }).raiseIf (dev && mode == 3) 61 11 3
    if mode = 1 then s2.setBoot { s2.boot with stage := 3 }
    else if mode = 2 ∧ (s.fuse.state = 0 ∨ s.fuse.state = 3) then s2.setBoot { s2.boot with stage := 4, uart := [], beaconAt := some s.now }
    else s2.bootFlash

/-- R403, R404: a firmware container has passed: its payload stands at its load address, Carr starts, the Carr initiator holds an
Installer session for 1 s. -/
def State.bootStart (s : State) (rd : Nat → Nat → List Byte) (result : Nat) : State :=
  let h := rd 0 256
  let s1 := (s.sramWrite (leNat (slice h 16 8)) (rd 256 (leNat (slice h 8 4)))).setF SYS_BOOT_STAT.a SYS_BOOT_STAT.result result
  let s2 := (s1.carrStart).setRole 1 2
  s2.setBoot { s2.boot with stage := 7, sessEnd := some (s.now + msTicks 1000), uart := [], beaconAt := none }

/-- R403: no container passes. -/
def State.noImage (s : State) : State :=
  let s1 := (s.raise 61 5 0).setF SYS_BOOT_STAT.a SYS_BOOT_STAT.result 5
  s1.setBoot { s1.boot with stage := 3 }

/-- BOOT_VERIFY_DONE (R403, R397): the verifier finishes the container of the stage. The boot ROM waits for a SYS_FLASH command
in progress before it reads the flash (R392). -/
def State.bootVerify (s : State) : State :=
  let k := s.boot.stage
  if s.powered = false then s
  else if k = 1 ∨ k = 2 then
    if s.boot.flashOp ≠ 0 then s
    else
      let rd := s.rdFlash (if k = 1 then stagingSlot else activeSlot)
      let c := bootCheck 1 rd
      if c = 0 then (if k = 1 then (s.bootStart rd 2).raise 61 2 0 else (s.bootStart rd 1).raise 61 1 0)
      else if k = 1 then (s.raise 61 3 c).setBoot { (s.raise 61 3 c).boot with stage := 2 }
      else (s.raise 61 4 c).noImage
  else if k = 5 then
    let rd := s.rdSram sramBase
    let c := bootCheck 1 rd
    if c = 0 then s.bootStart rd 3
    else
      let s1 := (s.raise 61 4 c).setF SYS_BOOT_STAT.a SYS_BOOT_STAT.result 5
      s1.setBoot { s1.boot with stage := 3 }
  else if k = 6 then
    let rd := s.rdUart
    let c := bootCheck 1 rd
    if c = 0 then (s.bootStart rd 4).emit (.uart [0x06#8])
    else
      let s1 := (s.raise 61 4 c).emit (.uart [0x15#8])
      s1.setBoot { s1.boot with stage := 4, uart := [] }
  else s

/-- R397: a write of 1 to host_go. -/
def State.hostGo (s : State) : State := if s.boot.stage = 3 then s.setBoot { s.boot with stage := 5 } else s

/-- R397: the SYS_BOOT window is open. -/
def State.bootWindow (s : State) : Bool := s.boot.stage == 3

/-- UART_BOOT_BLOCK (R397): a block of 1 to 1,024 bytes with its CRC-32; the empty block ends the transfer. -/
def State.uartBlock (s : State) (data : List Byte) (crc : Nat) : State :=
  if s.boot.stage ≠ 4 ∨ s.powered = false then s
  else
    let b := { s.boot with beaconAt := none }
    if data = [] then s.setBoot { b with stage := 6 }
    else if data.length ≤ 1024 ∧ (crc32 data).toNat = crc ∧ b.uart.length + data.length ≤ 0x400000 then
      (s.setBoot { b with uart := b.uart ++ data }).emit (.uart [0x06#8])
    else (s.setBoot b).emit (.uart [0x15#8])

/-- UART_GAP_TIMEOUT (R397): the partial block is discarded. -/
def State.uartGap (s : State) : State :=
  if s.boot.stage ≠ 4 ∨ s.powered = false then s
  else (s.setBoot { s.boot with beaconAt := none }).emit (.uart [0x15#8])

/-- UART_BOOT_BEACON (R397). -/
def State.uartBeacon (s : State) : State :=
  match s.boot.beaconAt with
  | none => s
  | some t =>
    if s.boot.stage = 4 ∧ s.powered = true ∧ t ≤ s.now then
      (s.setBoot { s.boot with beaconAt := some (s.now + msTicks 100) }).emit (.uart [0x48#8, 0x5a#8, 0x55#8, 0x31#8])
    else s

/-- R404: the boot Installer session ends. -/
def State.bootSessEnd (s : State) : State :=
  if s.boot.sessEnd.isSome then
    let s1 := s.setBoot { s.boot with sessEnd := none }
    if (s1.sessOf 1).role = 2 then s1.setRole 1 0 else s1
  else s

/-- R394, R404: a write of 1 to load_done. -/
def State.loadDone (s : State) : State :=
  let t := satTo 0xffff ((s.now - s.boot.relAt) / 2500)
  let s1 := if fldGet (s.reg SYS_BOOT_STAT.a) SYS_BOOT_STAT.loaded = 1 then s
    else s.setFs SYS_BOOT_STAT.a [(SYS_BOOT_STAT.loaded, 1), (SYS_BOOT_STAT.load_time, t)]
  (s1.setBoot { s1.boot with faultHold := false }).bootSessEnd

/-- INSTALLER_SESSION_TIMEOUT (R404). -/
def State.bootSessTimeout (s : State) : State :=
  match s.boot.sessEnd with
  | none => s
  | some t => if t ≤ s.now then s.bootSessEnd else s

/-- R412: a write of SYS_UPD_NOTE, from Carr alone. -/
def State.updNote (s : State) (i : Nat) (w : Word) : State :=
  let c := fldGet w SYS_UPD_NOTE.cause
  s.raiseIf (i == 1 && (c == 6 || c == 7 || c == 8 || c == 13)) 61 c (fldGet w SYS_UPD_NOTE.index)

/-! ### Resets (R390 to R392) -/

/-- A reset cause recorded. -/
def State.rstCause (s : State) (k : Nat) : State := s.setReg SYS_RST_CAUSE.a (fldSet (s.reg SYS_RST_CAUSE.a) ⟨k, k⟩ 1)

/-- R391: the registers that a pin or a device reset keeps: the PWR block and SYS_RST_CAUSE. -/
def keepReset (a : Nat) : Bool := blockOf a == 12 || a == SYS_RST_CAUSE.a

/-- R391: what a device-scope reset leaves: `kind` 0 power-on, 1 pin, 2 device; `aon` that VDD_AON lost power. -/
def State.devScope (s0 : State) (kind : Nat) (aon : Bool) : State :=
  let s := s0.flashBroken.endSessions.pinsLow
  let f := if kind < 2 then s.fuse.apply else s.fuse
  let a := s.aud
  let p := s.pwr
  let regs := if kind = 0 then [] else Cells.keep keepReset s.regs
  { State.reset with
    pending := s.pending, now := s.now, freeIdx := s.freeIdx, out := s.out, phLev := s.phLev
    regs := Cells.set resetOf regs ROL_LC_REQ.a (BitVec.ofNat 32 f.state)
    lock := if aon then [] else s.lock
    aud := if aon then State.reset.aud else { a with anchor := none }
    fuse := f, flash := s.flash, jtag := if kind = 0 then {} else s.jtag
    pwr := if kind = 0 then { pins := p.pins, inh := p.inh } else { pins := p.pins, inh := p.inh, wisp := p.wisp, judged := p.judged, maskEnd := p.maskEnd }
    boot := { relAt := s.now } }

/-- R392: a Carr reset of the same tick is not recorded beside a device-scope reset. -/
def State.carrForget (s : State) : State :=
  match s.boot.carrNew with
  | some (t, k) => if t = s.now then s.setReg SYS_RST_CAUSE.a (fldSet (s.reg SYS_RST_CAUSE.a) ⟨k, k⟩ 0) else s
  | none => s

/-- R390 to R393: a device-scope reset. -/
def State.devReset (s : State) (kind : Nat) (aon : Bool) : State :=
  let s1 := s.carrForget.devScope kind aon
  let s2 := if kind = 0 then s1
    else ((s1.setFs PWR_STAT.a [(PWR_STAT.state, 0), (PWR_STAT.phase, 0), (PWR_STAT.wake_src, 0)]).setF PWR_CTRL.a PWR_CTRL.sleep_req 0).rstCause
      kind
  s2.setInh (s2.inhLevels 4)

/-- R390 to R392, R411: a Carr reset; `bit` its bit of SYS_RST_CAUSE: 3 software, 4 an activation set, 5 JTAG. -/
def State.carrReset (s : State) (bit : Nat) : State :=
  if s.boot.stage = 0 ∧ s.boot.carr = false then s
  else
    let busy := s.boot.stage == 0
    let new := if fldGet (s.reg SYS_RST_CAUSE.a) ⟨bit, bit⟩ = 0 then some (s.now, bit) else none
    let s1 := s.endSessions.anchorDue.rstCause bit
    let s2 : State := { s1 with sram := [], carr := { bad := s1.carr.bad, trainAt := s1.carr.trainAt, trainTemp := s1.carr.trainTemp } }
    let s3 := (s2.setReg CPX_STAT.a (resetOf CPX_STAT.a)).setF SYS_BOOT_STAT.a SYS_BOOT_STAT.result 0
    (s3.setBoot { s3.boot with stage := 0, carr := true, carrNew := new, sessEnd := none, uart := [], beaconAt := none }).raiseIf (!busy) 61 9 bit

/-- PCIE_RESET (R390, 16 R379): the endpoint is reset; `hot` a hot reset, else PERST_n, whose rise is a wake source. -/
def State.pcieReset (s : State) (hot : Bool) : State :=
  let s1 := if s.powered then
      let u := (s.endSessions.anchorDue.rstCause 6).ringsOff
      let p := u.pcie
      let v : State := { u with pcie := { cfg := if hot then p.cfg.filter (fun e => e.1 == 0x104) else [] } }
      (v.pcieLink 0 none).raise 62 7 0
    else s
  if hot then s1 else s1.wakeLatch 13

/-- CARR_RESUME (16 R376, R383): Carr resumes from a valid parked state; otherwise it starts cold from flash. `ecc` says that the
restore meets an uncorrectable error. -/
def State.carrResume (s : State) (ecc : Bool) : State :=
  if s.pwr.wakeStep ≠ 4 then s
  else
    let s1 := s.setPwr { s.pwr with wakeStep := 0 }
    let parked := fldGet (s.reg PWR_STAT.a) PWR_STAT.parked == 1
    if parked && s.parkOk && !ecc then ({ s1 with sram := s.parkImage } : State).carrStart
    else (s1.raiseIf parked 55 8 (if s.parkOk then 2 else 1)).bootFlash

/-! ### The commands -/

/-- POWER_ON_RESET (R390): `aon` that VDD_AON lost power. -/
def execPowerOnReset (aon : Bool) (s : State) : Host.Outcome State Fault Refusal := .next (s.devReset 0 aon)

/-- PIN_RESET (R390): a low pulse of RESET_n of `len` ns; one from 50 ns to below 100 ns acts or not. -/
def execPinReset (len : BitVec 32) (s : State) : Host.Outcome State Fault Refusal :=
  .next (
    if len.toNat < 50 then s
    else if len.toNat < 100 then (if s.fresh.1.getLsbD 0 then s.fresh.2.devReset 1 false else s.fresh.2)
    else s.devReset 1 false)

/-- PCIE_RESET (R390). -/
def execPcieReset (hot : Bool) (s : State) : Host.Outcome State Fault Refusal := .next (s.pcieReset hot)

/-- RESET_RELEASE (R396). -/
def execResetRelease (mode : Fin 4) (s : State) : Host.Outcome State Fault Refusal := .next (s.resetRelease mode.val)

/-- BOOT_VERIFY_DONE (R403). -/
def execBootVerifyDone (s : State) : Host.Outcome State Fault Refusal := .next (s.bootVerify)

/-- UART_BOOT_BLOCK (R397). -/
def execUartBootBlock (data : List Byte) (crc : BitVec 32) (s : State) : Host.Outcome State Fault Refusal :=
  .next (s.uartBlock data crc.toNat)

/-- UART_GAP_TIMEOUT (R397). -/
def execUartGapTimeout (s : State) : Host.Outcome State Fault Refusal := .next s.uartGap

/-- UART_BOOT_BEACON (R397). -/
def execUartBootBeacon (s : State) : Host.Outcome State Fault Refusal := .next s.uartBeacon

/-- INSTALLER_SESSION_TIMEOUT (R404). -/
def execInstallerSessionTimeout (s : State) : Host.Outcome State Fault Refusal := .next s.bootSessTimeout

/-- FLASH_OP_DONE (R400). -/
def execFlashOpDone (ok again : Bool) (s : State) : Host.Outcome State Fault Refusal := .next (s.flashDone ok again)

/-- CARR_RESUME (16 R383). -/
def execCarrResume (ecc : Bool) (s : State) : Host.Outcome State Fault Refusal := .next (s.carrResume ecc)

end Sys2Proof.Machine
end

