-- ==== Sys2Proof/Machine/Jtag.lean ====
section
/-! DEFINITION. The test access port and the monitors (18). -/

namespace Sys2Proof.Machine

/-- The port's bookkeeping set. -/
def State.setJtag (s : State) (x : JtagSt) : State := { s with jtag := x }

/-- R433: the instruction takes effect in lifecycle state `st` under the JTAG initiator's role `r`. -/
def jtagAllows (code st r : Nat) : Bool :=
  if code = 0 ∨ code = 4 ∨ code = 5 ∨ code = 8 ∨ code = 9 then st != 2 || r == 2
  else if code = 17 ∨ code = 24 ∨ code = 25 then st != 2 && r == 3
  else if code = 32 then (st == 0 || st == 3) && r == 3
  else if code = 33 ∨ code = 34 then st == 0 && r == 3
  else true

/-- R434: the instruction holds the functional logic in reset. -/
def jtagHolds (code : Nat) : Bool := [0, 4, 5, 8, 9, 24, 25, 32, 33].contains code

/-- R431 to R434: an instruction enters the instruction register; a refused one acts as BYPASS and raises EV60. Loading another
instruction releases the functional logic, unless that one holds it too. -/
def State.jtagLoad (s : State) (code : Nat) : State :=
  if s.jtag.ir = code then s
  else if jtagAllows code s.fuse.state (s.sessOf 2).role then
    if jtagHolds code then
      let s1 := if s.jtag.held then s else s.devReset 1 false
      s1.setJtag { s1.jtag with ir := code, held := true, bist := 0 }
    else s.setJtag { s.jtag with ir := code, held := false, bist := 0 }
  else (s.setJtag { s.jtag with ir := 63, held := false, bist := 0 }).raise 60 1 2

/-- An instruction is loaded and, if it was not refused, `f` is its effect. Without power of VDDIO18 the port does nothing. -/
def State.jtagRun (s : State) (code : Nat) (f : State → State) : State :=
  if s.inFen then s
  else
    let s1 := s.jtagLoad code
    if s1.jtag.ir = code then f s1 else s1.emit (.tdo 0)

/-- A scan whose captured bits the spec does not give. -/
def State.tdoOpen (s : State) : State := s.fresh.2.emit (.tdo s.fresh.1.toNat)

/-- R432: a boundary instruction: the cells capture `pins`, `v` is shifted in, and the pins follow the cells. -/
def State.boundary (s : State) (code : Nat) (pins v : BitVec 612) : State :=
  s.jtagRun code (fun u =>
    (((u.setJtag { u.jtag with bnd := v }).emit (.tdo pins.toNat)).emit (.boundary code v.toNat)))

/-- CLAMP and HIGHZ (R432): the pins hold the preloaded values, or are in high impedance. -/
def State.clampPins (s : State) (code : Nat) : State :=
  s.jtagRun code (fun u => (u.emit (.tdo 0)).emit (.boundary code u.jtag.bnd.toNat))

/-- TEST_LOGIC_RESET (R431, R435): IDCODE is selected, the JTAG sessions end, debugged units resume. -/
def State.tlr (s : State) : State :=
  if s.inFen then s
  else
    let s1 := if s.jtag.halted = [] then s else s.alarmInactive 3
    let s2 := s1.setRole 2 0
    let s3 := s2.setSess 2 { s2.sessOf 2 with chalValid := false }
    s3.setJtag { s3.jtag with ir := 1, held := false, halted := [], bist := 0 }

/-- DEBUG (14 R339, R434): unit `k` (0 to 7 the sequencers, 8 Carr) halts or resumes; the first halt activates alarm source 3. -/
def State.debug (s : State) (k : Nat) (halt : Bool) : State :=
  s.jtagRun 17 (fun u =>
    let l := u.jtag.halted
    if halt then
      let u1 := u.setJtag { u.jtag with halted := if l.contains k then l else l ++ [k] }
      if l = [] then u1.alarmActive 3 true else u1
    else
      let u1 := u.setJtag { u.jtag with halted := l.erase k }
      if l ≠ [] ∧ l.erase k = [] then u1.alarmInactive 3 else u1)

/-- MBIST and LBIST (R432, R434): loading one starts its test; a scan delivers the status. -/
def State.selfTest (s : State) (code which : Nat) : State :=
  let new := decide (s.jtag.ir ≠ code)
  s.jtagRun code (fun u =>
    let u1 := if new then u.setJtag { u.jtag with bist := which, bistStat := 0#32 } else u
    u1.emit (.tdo u1.jtag.bistStat.toNat))

/-- BIST_DONE (R434): the status that the self-test reports. -/
def State.bistDone (s : State) (v : Word) : State :=
  if s.jtag.bist = 0 then s else s.setJtag { s.jtag with bist := 0, bistStat := v }

/-! ### The monitors (R420, R436, R437) -/

/-- R420: rails 3 (VDD_AON) and 4 (VDDIO33_AON) are monitored in FEN too. -/
def State.railWatched (s : State) (k : Nat) : Bool := !s.jtag.held && (!s.inFen || k == 3 || k == 4)

/-- RAIL_OUT_OF_RANGE: rail `k` has been above or below its range for 1 µs. -/
def State.railOut (s : State) (k : Nat) (ovl : Bool) : State :=
  let m := fldGet (s.reg SYS_MON_STAT.a) SYS_MON_STAT.rail_out
  if s.railWatched k = false ∨ nbit m k = true then s
  else (s.setF SYS_MON_STAT.a SYS_MON_STAT.rail_out (m ||| 2 ^ k)).raiseAon 63 (if ovl then 2 else 1) k

/-- RAIL_IN_RANGE. -/
def State.railIn (s : State) (k : Nat) : State :=
  let m := fldGet (s.reg SYS_MON_STAT.a) SYS_MON_STAT.rail_out
  if s.railWatched k then s.setF SYS_MON_STAT.a SYS_MON_STAT.rail_out (m - (if nbit m k then 2 ^ k else 0)) else s

/-- The hottest sensor reads `t`. -/
def State.tempNow (s : State) (t : Int) : State :=
  let m := sint 10 (fldGet (s.reg SYS_MON_STAT.a) SYS_MON_STAT.tj_max)
  s.setFs SYS_MON_STAT.a [(SYS_MON_STAT.tj_now, ubits 10 t), (SYS_MON_STAT.tj_max, ubits 10 (max m t))]

/-- R420: the hottest sensor `k` reads `t`: each warning whose temperature it has reached, once until it re-arms. -/
def State.tempRise (s : State) (k : Nat) (t : Int) : State :=
  let warn := decide (sint 10 (s.f SYS_MON_CFG.a SYS_MON_CFG.temp_warn) ≤ t) && !s.mon.warned
  let crit := decide (155 ≤ t) && !s.mon.crit
  let s1 : State := { s.tempNow t with mon := { warned := s.mon.warned || warn, crit := s.mon.crit || crit } }
  (s1.raiseIf warn 63 3 k).raiseIf crit 63 4 k

/-- TEMP_CLEAR: the hottest sensor reads `t`. -/
def State.tempClear (s : State) (t : Int) : State :=
  let s1 := s.tempNow t
  if t < sint 10 (s.f SYS_MON_CFG.a SYS_MON_CFG.temp_clear) then { s1 with mon := {} } else s1

/-! ### The commands -/

/-- TEST_LOGIC_RESET (R431). -/
def execTestLogicReset (s : State) : Host.Outcome State Fault Refusal := .next s.tlr

/-- EXTEST (R432). -/
def execExtest (pins v : BitVec 612) (s : State) : Host.Outcome State Fault Refusal := .next (s.boundary 0 pins v)

/-- IDCODE (R431, R432). -/
def execIdcode (s : State) : Host.Outcome State Fault Refusal := .next (s.jtagRun 1 (fun u => u.emit (.tdo 0x292409cb)))

/-- SAMPLE/PRELOAD (R432): the cells sample `pins` and take `v`; the pins are not disturbed. -/
def execSamplePreload (pins v : BitVec 612) (s : State) : Host.Outcome State Fault Refusal :=
  .next (s.jtagRun 2 (fun u => (u.setJtag { u.jtag with bnd := v }).emit (.tdo pins.toNat)))

/-- CLAMP (R432). -/
def execClamp (s : State) : Host.Outcome State Fault Refusal := .next (s.clampPins 4)

/-- HIGHZ (R432). -/
def execHighz (s : State) : Host.Outcome State Fault Refusal := .next (s.clampPins 5)

/-- EXTEST_PULSE (R432). -/
def execExtestPulse (pins v : BitVec 612) (s : State) : Host.Outcome State Fault Refusal := .next (s.boundary 8 pins v)

/-- EXTEST_TRAIN (R432). -/
def execExtestTrain (pins v : BitVec 612) (s : State) : Host.Outcome State Fault Refusal := .next (s.boundary 9 pins v)

/-- DEBUG (R432, 14 R339). -/
def execDebug (k : Fin 9) (halt : Bool) (s : State) : Host.Outcome State Fault Refusal := .next (s.debug k.val halt)

/-- MBIST (R432). -/
def execMbist (s : State) : Host.Outcome State Fault Refusal := .next (s.selfTest 24 1)

/-- LBIST (R432). -/
def execLbist (s : State) : Host.Outcome State Fault Refusal := .next (s.selfTest 25 2)

/-- SCAN (R432): what the internal chains deliver is open. -/
def execScan (s : State) : Host.Outcome State Fault Refusal := .next (s.jtagRun 32 State.tdoOpen)

/-- TRIM (R432): a trim word. -/
def execTrim (w : BitVec 64) (s : State) : Host.Outcome State Fault Refusal :=
  .next (s.jtagRun 33 (fun u => (u.setJtag { u.jtag with trim := w :: u.jtag.trim }).tdoOpen))

/-- FUSE (R432): a fuse word. -/
def execFuse (w : BitVec 64) (s : State) : Host.Outcome State Fault Refusal :=
  .next (s.jtagRun 34 (fun u => (u.setJtag { u.jtag with fuse := w :: u.jtag.fuse }).tdoOpen))

/-- BYPASS (R432). -/
def execBypass (s : State) : Host.Outcome State Fault Refusal := .next (s.jtagRun 63 (fun u => u.emit (.tdo 0)))

/-- BIST_DONE (R434). -/
def execBistDone (v : BitVec 32) (s : State) : Host.Outcome State Fault Refusal := .next (s.bistDone v)

/-- RAIL_OUT_OF_RANGE (R420). -/
def execRailOutOfRange (k : Fin 10) (ovl : Bool) (s : State) : Host.Outcome State Fault Refusal := .next (s.railOut k.val ovl)

/-- RAIL_IN_RANGE (R420). -/
def execRailInRange (k : Fin 10) (s : State) : Host.Outcome State Fault Refusal := .next (s.railIn k.val)

/-- TEMP_WARN (R420). -/
def execTempWarn (k : Fin 8) (t : BitVec 10) (s : State) : Host.Outcome State Fault Refusal := .next (s.live (s.tempRise k.val t.toInt))

/-- TEMP_CRIT (R420). -/
def execTempCrit (k : Fin 8) (t : BitVec 10) (s : State) : Host.Outcome State Fault Refusal := .next (s.live (s.tempRise k.val t.toInt))

/-- TEMP_CLEAR (R420). -/
def execTempClear (t : BitVec 10) (s : State) : Host.Outcome State Fault Refusal := .next (s.live (s.tempClear t.toInt))

/-- SENSOR_FAULT (R437): of sensor `k`. -/
def execSensorFault (k : Fin 8) (s : State) : Host.Outcome State Fault Refusal := .next (s.live (s.raise 63 5 k.val))

end Sys2Proof.Machine
end

