-- ==== Sys2Proof/Machine/RegEffect.lean ====
section
/-! DEFINITION. What a committed register write does: the value that a register takes by its field types (02 R25, R26), the effect
that its chapter gives the write, the requests at the mailboxes (02 R35, R37, R439), and the audit entry (02 R52). Nothing here asks
for a role; the fabric does. -/

namespace Sys2Proof.Machine

/-! ### Values (02 R25) -/

/-- The bits of a register that a plain write sets: a source outside the safety class has no fault_en, and that of EV51 is fixed
(02 "EVT_SRC_CFG"); the gateway pool stays while a message is held (13 "GW_POOL"); preempt_en is reserved on ports 12 to 27 (10 R248),
prbs on P20 to P23 (12 R293). -/
def State.rwMask (s : State) (r : RegRow) (a : Nat) : Word :=
  let m := r.rw ||| r.rwh ||| r.rwg
  if r.base = EVT_SRC_CFG.a 0 then
    let n := (a - r.base) / 16
    if isSafety n && n != 51 then m else m &&& ~~~(fldMask EVT_SRC_CFG.fault_en)
  else if r.base = GW_POOL.a ∧ !s.msgs.isEmpty then 0#32
  else if r.base = SHP_PORT_CFG.a 0 ∧ 12 ≤ (a - r.base) / 256 then m &&& ~~~(fldMask SHP_PORT_CFG.preempt_en)
  else if r.base = ETH_PORT_MODE.a 0 ∧ 20 ≤ (a - r.base) / 256 then m &&& ~~~(fldMask ETH_PORT_MODE.prbs)
  else m

/-- The bits that a write of 1 clears; the alarm latch clears only under 11 R269. -/
def clearMask (r : RegRow) : Word :=
  if r.base = CIP_ALARM_STAT.a then r.w1c &&& ~~~(fldMask CIP_ALARM_STAT.latched) else r.w1c

/-- 02 R25: the stored value after a write of `w`. -/
def State.newVal (s : State) (r : RegRow) (a : Nat) (w : Word) : Word :=
  let m := s.rwMask r a
  ((s.reg a &&& ~~~m) ||| (w &&& m)) &&& ~~~(w &&& clearMask r)

/-- 02 R33: a rewritten field leaves its safe behaviour. -/
def State.parClear (s : State) (a : Nat) (m : Word) : State :=
  let p := s.parOf a
  { s with par := Cells.set (fun _ => {}) s.par a { bad := p.bad &&& ~~~m, vote := p.vote &&& ~~~m } }

/-- 02 R26, R27: hardware writes `h` to the RWH field in the same cycle: it wins, and a software value that differs is lost. -/
def State.raceWith (s : State) (r : RegRow) (a : Nat) (w : Word) : Option Word → State
  | none => s
  | some h =>
    if r.rwh = 0#32 then s
    else
      let s1 := s.setReg a ((s.reg a &&& ~~~r.rwh) ||| (h &&& r.rwh))
      if w &&& r.rwh = h &&& r.rwh then s1 else s1.integ (blockOf a) .writeLost a

/-! ### Effects -/

/-- Register tables of a family whose write has an effect at index `k`. -/
abbrev Effect := State → Nat → State

/-- 02 R41: a write of EVT_SRC_STAT that clears a storm resumes delivery; `old` the value before. -/
def State.evtStatWritten (s : State) (n : Nat) (old w : Word) : State :=
  if fldGet old EVT_SRC_STAT.storm = 1 ∧ fldGet w EVT_SRC_STAT.storm = 1 ∧ s.on (EVT_SRC_STAT.a n) EVT_SRC_STAT.pend = true then s.deliver n else s

/-- 02 R40: event counts cleared by a strobe word of the sources from `base` on. -/
def State.evtClear (s : State) (base : Nat) (w : Word) : State :=
  (List.range 32).foldl (fun u k =>
    if nbit w.toNat k then u.setF (EVT_SRC_STAT.a (base + k)) EVT_SRC_STAT.count 0 else u) s

/-- 17 R390, R392: a committed SYS_RST_CTRL. -/
def State.rstCommit (s : State) (w : Word) : State :=
  if fldGet w SYS_RST_CTRL.dev = 1 then s.devReset 2 false
  else if fldGet w SYS_RST_CTRL.carr = 1 then s.carrReset 3
  else s

/-- The effects in the SYS, EVT and ROL blocks; initiator `i` writes `w` at index `k` of the table at `b`; `old` the value before. -/
def State.effCore (s : State) (b k i : Nat) (old w : Word) : State :=
  if b = EVT_SRC_STAT.a 0 then s.evtStatWritten k old w
  else if b = EVT_CNT_CLR_LO.a then s.evtClear 0 w
  else if b = EVT_CNT_CLR_HI.a then s.evtClear 32 w
  else if b = ROL_CTRL.a then (if fldGet w ROL_CTRL.leave = 1 then s.roleLeave i else s)
  else if b = SYS_RST_CTRL.a then s.rstCommit w
  else if b = SYS_BOOT_CTRL.a then
    let s1 := if fldGet w SYS_BOOT_CTRL.host_go = 1 then s.hostGo else s
    if fldGet w SYS_BOOT_CTRL.load_done = 1 then s1.loadDone else s1
  else if b = SYS_UPD_NOTE.a then s.updNote i w
  else if b = SYS_BV_CTRL.a then (if fldGet w SYS_BV_CTRL.go = 1 then s.bvGo else s)
  else s

/-- The effects in the TIM, PHS and SEQ blocks, but for SEQ_CTRL; `old` the value before. -/
def State.effTime (s : State) (b k : Nat) (old w : Word) : State :=
  if b = TIM_DOM_CFG.a 0 then s.domCfgChanged k old
  else if b = TIM_DOM_CTRL.a 0 then s.domCtrl k w
  else if b = TIM_WKT_CFG.a then s.wktDue
  else if b = TIM_PORT_RXLAT.a 0 then s.latWritten (TIM_PORT_RXLAT.a k) old
  else if b = TIM_PORT_TXLAT.a 0 then s.latWritten (TIM_PORT_TXLAT.a k) old
  else if b = TIM_WKT_CTRL.a then (if fldGet w TIM_WKT_CTRL.align = 1 then s.align else s)
  else if b = TIM_PORT_CFG.a 0 then (if fldGet w TIM_PORT_CFG.ldly_accept = 1 then s.ldlyAccept k else s)
  else if b = TIM_PORT_LDLY_MEAS.a 0 then s.ldlyMeas k
  else if b = PHS_CFG.a 0 then s.phCfgChanged k old
  else if b = PHS_CTRL.a 0 then s.phCtrl k w
  else if b = SEQ_WDOG.a 0 then s.wdogCfgChanged k old
  else if b = SEQ_QSTAT.a 0 then s.qstatWritten k
  else s

/-- The effects in pipeline `p`. -/
def State.effPipe (s : State) (b p k : Nat) (old w : Word) : State :=
  if b = CLS_TPL_CFG.a 0 0 ∨ b = CLS_TPL_LEN.a 0 0 ∨ b = CLS_FLD_DESC.a 0 0 0 ∨ b = CLS_FLD_MASK.a 0 0 0 then s.tplWritten p
  else if b = CLS_BANK_CTRL.a 0 then (if fldGet w CLS_BANK_CTRL.swap = 1 then s.swapReq p false else s)
  else if b = FDB_AGE_CFG.a 0 then s.ageCfgChanged p old
  else if b = POL_METER_BURST.a 0 0 then s.meterFill p k
  else s

/-- The effects in the switch core, the ports, the cipher pool and the buses; initiator `i`. -/
def State.effPort (s : State) (b k i : Nat) (old w : Word) : State :=
  if b = QM_PORT_CFG.a 0 then s.qmPortCfgChanged k old
  else if b = QM_POOL.a ∨ b = QM_SPILL_CFG.a then s.poolNote
  else if b = SLU_GATE.a 0 then s.gateWritten k old
  else if b = SHP_PORT_CFG.a 0 then s.preCfgChanged k old
  else if b = FRE_STR_CFG.a 0 then s.frCfgChanged k old
  else if b = CIP_TXSC.a 0 then s.txscWritten k
  else if b = CIP_ALARM_CTRL.a then (if fldGet w CIP_ALARM_CTRL.erase = 1 then s.alarmActive 4 false else s)
  else if b = CIP_ALARM_STAT.a then (if fldGet w CIP_ALARM_STAT.latched = 1 then s.alarmClear else s)
  else if b = ETH_PORT_CFG.a 0 then s.portCfgChanged k old
  else if b = ringReg 0 0 8 then s.ringCfgChanged 0 k old
  else if b = ringReg 1 0 8 then s.ringCfgChanged 1 k old
  else if b = ringReg 2 0 8 then s.ringCfgChanged 2 k old
  else if b = ringReg 3 0 8 then s.ringCfgChanged 3 k old
  else if b = CAN_CFG.a 0 then s.canCfgChanged k old
  else if b = CAN_CTRL.a 0 then (if fldGet w CAN_CTRL.restart = 1 then s.canRestart k else s)
  else if b = CAN_BUF_CMD.a 0 then s.canBufCmd k (fldGet w CAN_BUF_CMD.op) (fldGet w CAN_BUF_CMD.buf)
  else if b = LIN_SCHED.a 0 then s.linSchedChanged k old
  else if b = GW_POOL.a then s.raiseIf (!s.msgs.isEmpty) 28 4 0
  else if b = CPX_DOORBELL.a then s.doorbell i w.toNat
  else s

/-- The effects in the PWR and PAIR blocks. -/
def State.effPair (s : State) (b k : Nat) (old w : Word) : State :=
  if b = PAIR_CFG.a then s.pairCfgChanged old
  else if b = PAIR_CTRL.a then
    let s1 := if fldGet w PAIR_CTRL.st_clear = 1 then s.stClear else s
    if fldGet w PAIR_CTRL.yield = 1 then s1.pairYield else s1
  else if b = PWR_CTRL.a then s.pwrCtrl w
  else if b = PWR_PART_PORTS.a then s.partialChanged (fldGet old PWR_PART_PORTS.ports)
  else if b = PWR_PART_BUS.a then s.partialChanged (s.f PWR_PART_PORTS.a PWR_PART_PORTS.ports)
  else if b = PWR_WAKEIN_CFG.a 0 then s.wakeInChanged k old
  else s

/-- The effect of a committed write of `w` to the register at `a` by initiator `i`; `old` the value that the hardware used before. -/
def State.regEffect (s : State) (r : RegRow) (i a : Nat) (old w : Word) : State :=
  let k := (foldPipe a - r.base) / r.s1
  let b := blockOf a
  if b ≤ 2 then s.effCore r.base k i old w
  else if b ≤ 5 then s.effTime r.base k old w
  else if b ≤ 7 then s.effPipe r.base (b - 6) k old w
  else if b = 12 ∨ b = 13 then s.effPair r.base k old w
  else s.effPort r.base k i old w

/-- The tables whose effect is that of a write as such, not of the new value. -/
def writeOnly (b : Nat) : Bool :=
  b == TIM_PORT_LDLY_MEAS.a 0 || b == CLS_TPL_CFG.a 0 0 || b == CLS_TPL_LEN.a 0 0 || b == CLS_FLD_DESC.a 0 0 0 || b == CLS_FLD_MASK.a 0 0 0 ||
  b == POL_METER_BURST.a 0 0 || b == GW_POOL.a || b == CIP_TXSC.a 0 || b == CAN_BUF_CMD.a 0 || b == CPX_DOORBELL.a

/-- 02 R33: the value that the hardware uses at `a` changes with no write: a field enters its safe behaviour. The block acts as on a write
that sets no strobe; `old` is the value used before. -/
def State.useChanged (s : State) (r : RegRow) (a : Nat) (old : Word) : State :=
  if writeOnly r.base then s else s.regEffect r 3 a old 0#32

/-- What must be settled before a register changes: a meter's bucket fills at the old rate until now (10 R235). -/
def State.preWrite (s : State) (r : RegRow) (a : Nat) : State :=
  if r.base = POL_METER_CFG.a 0 0 then
    let p := blockOf a - 6
    let m := (foldPipe a - r.base) / 16
    s.meterSet p m (s.meterTok p m)
  else s

/-! ### The audit entry (02 R52) -/

/-- 02 R52: the write of a register with an RW or RWG field is recorded. -/
def logged (r : RegRow) : Bool := (r.rw ||| r.rwg) != 0#32

/-- The role under which an initiator acts; the device itself acts as Installer (06 R139). -/
def State.roleOf (s : State) (i : Nat) : Nat := if i = 3 then 2 else (s.sessOf i).role

/-- 02 R52: the entry of a committed write. A lifecycle request has an entry of its own (R50). -/
def State.auditWrite (s : State) (i a : Nat) (old new : Word) : State :=
  if a = ROL_LC_REQ.a then s.lcRequest i (fldGet new ROL_LC_REQ.target)
  else s.audit 0 (s.roleOf i) i a old.toNat new.toNat

/-- A plain or guarded write that commits: the value, its audit entry, its effect. -/
def State.regCommit (s : State) (r : RegRow) (i a : Nat) (w : Word) (race : Option Word) : State :=
  let old := s.reg a
  let s0 := s.preWrite r a
  let new := s0.newVal r a w
  let s1 := (s0.setReg a new).parClear a (s0.rwMask r a)
  let s2 := s1.raceWith r a w race
  let s3 := if logged r && s0.rwMask r a != 0#32 then s2.auditWrite i a old (s2.reg a) else s2
  s3.regEffect r i a (s.hw a) w

/-! ### Mailboxes (02 R35, R37, R439) -/

/-- The leaf of EVT_FF: op is ignored, arg[5:0] the source. -/
def State.ffReq (s : State) (arg : Nat) : State :=
  let n := arg % 64
  let e := (s.evtSt n).ff
  let v := fldGet (s.reg (EVT_SRC_STAT.a n)) EVT_SRC_STAT.ff_valid
  if 64 ≤ arg then s.mbxFail 0x100500 15
  else s.snap 0x100500 (timeWords e.frt ++ [n * 2 ^ 26 + e.idx % 4096 * 4096 + e.cause % 256 * 16 + v])

/-- A request at the mailbox with base `m` by initiator `i`; a mailbox that hardware alone feeds has no op (log entry 13). -/
def State.mbxReq (s : State) (m i op arg : Nat) : State :=
  let p := if blockOf m = 7 then 1 else 0
  let b := foldPipe m
  if b = 0x100500 then s.ffReq arg
  else if b = rolChal then s.chalReq i op arg
  else if b = rolResp then s.respReq i op arg
  else if b = rolAud then s.audReq op arg
  else if b = 0x200200 then s.timSnapReq op arg
  else if b = timAdj then s.timAdjReq i op arg
  else if b = 0x200400 then s.rxtsReq op arg
  else if b = 0x200500 then s.txtsReq op arg
  else if b = 0x300400 then s.phSnapReq arg
  else if b = seqActMbx then s.actReq op arg
  else if b = seqHpost then s.hpostReq op arg
  else if b = seqQinsp then s.qinspReq arg
  else if b = seqDbg then s.dbgReq op arg
  else if b = fdbCmd 0 then s.fdbReq p op arg
  else if b = flwCmd 0 then s.flwReq p op arg
  else if b = cipKey then s.keyReq op arg
  else if b = cipSaStat then s.saStatReq arg
  else if b = cipMibMbx then s.cipMibReq op arg
  else if b = mdioCmd then s.mdioReq op arg
  else if b = ethMib then s.mibReq op arg
  else if b = gwBatch then s.batchReq op arg
  else if b = gwRxStr then s.rxStrReq arg
  else if b = freScnt then s.freReq op arg
  else if b = sysFlash then s.flashReq op arg
  else s.mbxFail m 15

/-- 02 R52: the write of a mailbox control register is logged, but for a request to a read mailbox and the TIM_ADJ commands that
TIM_ADJ_CNT counts. -/
def ctrlLogged (m : MbxRow) (w : Word) : Bool :=
  !(fldGet w MBX_CTRL.req == 1 && (m.rd || (m.base == timAdj && timAdjUnlogged (fldGet w MBX_CTRL.op) (fldGet w MBX_CTRL.arg))))

/-- 02 R37: a write of MBX_CTRL; while the mailbox is busy no new command starts, and the refused req sets no flag but in the cycle of a
completion (log entry 49). `a` is the control register's address. -/
def State.mbxCtrl (s : State) (m : MbxRow) (i a : Nat) (w : Word) : State :=
  let old := s.reg a
  let busy := fldGet old MBX_CTRL.req == 1
  let go := fldGet w MBX_CTRL.req == 1 && !busy
  let new := fldSet (w &&& 0xffffff00#32) MBX_CTRL.req (b2n (busy || (go && !m.rd)))
  let s1 := s.setReg a new
  let s2 := if ctrlLogged m w then s1.auditWrite i a old new else s1
  if go then s2.mbxReq a i (fldGet w MBX_CTRL.op) (fldGet w MBX_CTRL.arg) else s2

/-- A write of MBX_STAT: its flags are W1C. -/
def State.mbxStat (s : State) (a : Nat) (w : Word) : State := s.setReg a (s.reg a &&& ~~~(w &&& 0xe#32))

/-- 02 R37: a write of data word `k`: a busy write mailbox refuses it; a read mailbox's words are RO. `a` is the word's address. -/
def State.mbxWord (s : State) (m : MbxRow) (a k : Nat) (w : Word) : State :=
  let base := a - 0x20 - 4 * k
  if m.rd then s
  else if fldGet (s.reg base) MBX_CTRL.req = 1 then s.setF (base + 4) MBX_STAT.overrun 1
  else s.setReg a w

/-! ### Guarded pairs and plain writes (02 R28, R29) -/

/-- The pending guarded pair of block `b`. -/
def State.guardOf (s : State) (b : Nat) : Option GuardPend := Cells.get (fun _ => none) s.guards b

/-- The pending guarded pair of block `b` set. -/
def State.setGuard (s : State) (b : Nat) (g : Option GuardPend) : State :=
  { s with guards := Cells.set (fun _ => none) s.guards b g }

/-- R29: the pending pair of block `b` fails. -/
def State.guardBreak (s : State) (b : Nat) : State :=
  match s.guardOf b with
  | none => s
  | some g => (s.setGuard b none).integ b .guardFail g.a

/-- An aligned 32-bit write into the register space by initiator `i`, neither a guarded register nor a complement nor SEQ_CTRL. -/
def State.plainWrite (s : State) (i a : Nat) (w : Word) (race : Option Word) : State :=
  match kindOf a with
  | .reg r => s.regCommit r i a w race
  | .mctrl m => s.mbxCtrl m i a w
  | .mstat _ => s.mbxStat a w
  | .mdata m k => s.mbxWord m a k w
  | .integ => s.setReg a (s.reg a &&& ~~~(w &&& 0xfe000000#32))
  | .integA => s
  | .comp _ => s
  | .none => s.integ (blockOf a) .unmapped a

/-- The same; it fails a pair that is pending in its block (R29). What it clears itself, the failure sets in the same cycle, and wins
(R26): the clears come first, and a pend that stays 1 sends no message (R42). Of two faults of the cycle INTEG_ADDR holds the lower
address (R34). -/
def State.coreWrite (s : State) (i a : Nat) (w : Word) (race : Option Word) : State :=
  match s.guardOf (blockOf a) with
  | none => s.plainWrite i a w race
  | some g =>
    if race.isSome && decide (g.a < a) then (s.guardBreak (blockOf a)).plainWrite i a w race
    else
      let v := if a = EVT_SRC_STAT.a 59 then w &&& ~~~(fldMask EVT_SRC_STAT.pend) else w
      ((s.setGuard (blockOf a) none).plainWrite i a v race).integ (blockOf a) .guardFail g.a

end Sys2Proof.Machine
end

