-- ==== Sys2Proof/Machine/Action.lean ====
section
/-! DEFINITION. Timed actions and traps: activation sets (06 R137 to R139), what a fired action reaches (06 R134, R135), the firing of
due entries (06 R131, R132; 04 R90, R91; 05 R111), and the trap (05 R114, 06 R141). -/

namespace Sys2Proof.Machine

/-! ### Activation sets (R137 to R139) -/

/-- R137: the result of a set is recorded, and the set is DONE. -/
def State.actEnd (s : State) (k res : Nat) : State :=
  if s.actState k = 3 then s
  else s.setFs (SEQ_ACT_STAT.a k) [(SEQ_ACT_STAT.result, res), (SEQ_ACT_STAT.state, 3)]

/-- R139: the hardware updates that meet the writes of a set, by their place in the set. -/
abbrev Races := List (Fin 32 × Word)

/-- The hardware update that meets write `k` of a set. -/
def raceOf (l : Races) (k : Nat) : Option Word := (l.find? (fun e => e.1.val == k)).map (·.2)

/-- R138, R139: the contents of a set applied: its writes in list order as initiator 3, with the outcomes of 02 R26, then the stops, the
starts, the restart of Carr. -/
def State.actApply (s : State) (x : ActSt) (races : Races) : State :=
  let s1 := ((List.range x.writes.length).zip x.writes).foldl (fun u e => u.coreWrite 3 e.2.1 e.2.2 (raceOf races e.1)) s
  let stop := nbits x.ctrl.toNat 15 8
  let start := nbits x.ctrl.toNat 7 0
  let s2 := (List.range 8).foldl (fun u n => if nbit stop n then u.seqStop n true else u) s1
  let s3 := (List.range 8).foldl (fun u n => if nbit start n then u.seqStart n else u) s2
  if nbit x.ctrl.toNat 16 then s3.carrReset 4 else s3

/-- R137: the reason for which the ACTIVATE of a set is refused: 2 not SEALED, 3 the WKT condition. -/
def State.actReason (s : State) (k : Nat) : Option Nat :=
  if s.actState k ≠ 2 then some 2
  else if nbit (s.actSet k).ctrl.toNat 17 && (s.wktState == 0 || s.wktState == 3) then some 3
  else none

/-- R137, R138: a set is fired; whether it was refused. -/
def State.activate (s : State) (k : Nat) (races : Races) : State × Bool :=
  match s.actReason k with
  | some r => (s.actEnd k r, true)
  | none => ((s.actEnd k 1).actApply (s.actSet k) races, false)

/-- R134, R137: an ACTIVATE of sequencer `n`, with its event. -/
def State.activateFrom (s : State) (n k : Nat) (races : Races) : State :=
  let r := s.activate k races
  if r.2 then (r.1.bump (SEQ_QCNT_B.a n) SEQ_QCNT_B.refused).raise (33 + n) 8 k else r.1.raise (33 + n) 11 k

/-! ### SYNC_OUT (R135); instants in units of 250 ps -/

/-- A pin. -/
def State.pin (s : State) (k : Nat) : SyncPin := Cells.get (fun _ => {}) s.sync k

/-- A pin set; a change of its level is an edge at the instant `t`. -/
def State.setPin (s : State) (k : Nat) (x : SyncPin) (t : Nat) : State :=
  let s1 := { s with sync := Cells.set (fun _ => {}) s.sync k x }
  if (s.pin k).level = x.level then s1 else s1.emit (.edge "SYNC_OUT" k x.level t)

/-- A pending fall that lies before the instant `t` takes place. -/
def State.fallBefore (s : State) (k t : Nat) : State :=
  match (s.pin k).fall with
  | some f => if f < t then s.setPin k {} f else s
  | none => s

/-- R135: an action on pin `k` at instant `t`: mode 0 pulse, 1 set high, 2 set low. -/
def State.pulseAction (s0 : State) (k mode width t : Nat) : State :=
  let s := s0.fallBefore k t
  let x := s.pin k
  if mode = 0 then
    let f := t + 16 * width
    if x.level then s.setPin k { x with fall := x.fall.map (fun g => max g f) } t
    else s.setPin k ⟨true, some f⟩ t
  else if mode = 1 then s.setPin k ⟨true, none⟩ t
  else s.setPin k ⟨false, none⟩ t

/-- PULSE_FALL (R135). -/
def State.pulseFall (s : State) (k : Nat) : State :=
  match (s.pin k).fall with
  | some f => if f ≤ 16 * s.now then s.setPin k {} f else s
  | none => s

/-- The falls that are due and no command has taken. -/
def State.fallAll (s : State) : State := (List.range 16).foldl State.pulseFall s

/-! ### Signals (05 R110, 06 R134) -/

/-- The flags of a sequencer with those of an earlier tick visible. -/
def SeqSt.settleSig (x : SeqSt) (now : Nat) : SeqSt :=
  if x.freshAt < now then { x with sig := x.sig ||| x.fresh, fresh := 0#8, freshAt := now } else x

/-- SIGNAL: flags `m` set in sequencer `n` on this tick. -/
def State.signal (s : State) (n m : Nat) : State :=
  let x := (s.sq n).settleSig s.now
  s.setSq n { x with fresh := x.fresh ||| BitVec.ofNat 8 m, freshAt := s.now }

/-! ### Delivery (R134) -/

/-- R134: a refusal is counted and reported with the action kind. -/
def State.deliver2 (r : State × Bool) (n kind : Nat) : State :=
  if r.2 then (r.1.bump (SEQ_QCNT_B.a n) SEQ_QCNT_B.refused).raise (33 + n) 7 kind else r.1

/-- R110, R134: action word `w` of sequencer `n` takes effect at the placed instant `t`; `rel` the WKT of that instant. -/
def State.act (s : State) (n w t rel : Nat) (races : Races) : State :=
  let kind := w / 2 ^ 28
  let port := nbits w 27 23
  if kind = 1 then State.deliver2 (s.gateAction port (nbits w 16 16) (nbits w 15 8) t) n 1
  else if kind = 2 then State.deliver2 (s.launchAction port (nbits w 22 20) (nbits w 19 16) rel) n 2
  else if kind = 3 then s.pulseAction (nbits w 27 24) (nbits w 23 22) (nbits w 19 0) t
  else if kind = 4 then State.deliver2 (s.cantxAction port (nbits w 22 17) t) n 4
  else if kind = 5 then
    let b := nbits w 27 26
    State.deliver2 (s.bankAction (b != 1) (b != 0)) n 5
  else if kind = 6 then s.activateFrom n (nbits w 27 24) races
  else if kind = 7 then s.raise (33 + n) 3 (nbits w 11 0)
  else if kind = 8 then
    (List.range 8).foldl (fun u k => if nbit (nbits w 23 16) k then u.signal k (nbits w 7 0) else u) s
  else s

/-- R132: the placed instant of a selected time entry. -/
def TEnt.instant (e : TEnt) : Nat :=
  match e.due with
  | some (tick, k) => if k = 0 then 16 * tick else 16 * (tick - 1) + k
  | none => 0

/-- 04 R91: the placed instant of an angle entry on its firing tick. -/
def State.angleInstant (s : State) (e : AEnt) : Nat :=
  let x := s.ph e.dom
  let m := s.phM e.dom
  if x.upd = s.now then 16 * s.now
  else 16 * (s.now - 1) + ceilDiv (16 * arcDist m x.hatPrev e.tau) (arcDist m x.hatPrev x.hat)

/-- A time entry fires; a late one is counted (R144). -/
def State.fireTime (s : State) (n : Nat) (e : TEnt) (races : Races) : State :=
  let x := s.sq n
  let s1 := s.setQ n { x with tq := x.tq.filter (fun y => y.post != e.post) }
  let kind := e.word.toNat / 2 ^ 28
  let s2 := if e.late then (s1.bump (SEQ_QCNT_A.a n) SEQ_QCNT_A.late).raise (33 + n) 4 kind else s1
  s2.act n e.word.toNat e.instant (if e.late then s.tim.wkt else e.tgt) races

/-- An angle entry fires. -/
def State.fireAngle (s : State) (n : Nat) (e : AEnt) (races : Races) : State :=
  let x := s.sq n
  let s1 := s.setQ n { x with aq := x.aq.filter (fun y => y.post != e.post) }
  let t := s.angleInstant e
  s1.act n e.word.toNat t (s.wktAt t) races

/-- The entry of least posting number. -/
def minPost (f : Nat × (TEnt ⊕ AEnt)) : List (Nat × (TEnt ⊕ AEnt)) → TEnt ⊕ AEnt
  | [] => f.2
  | g :: r => minPost (if g.1 < f.1 then g else f) r

/-- R131, 05 R111: the first entry of sequencer `n` that is due on this tick, in posting order. -/
def State.dueIn (s : State) (n : Nat) : Option (TEnt ⊕ AEnt) :=
  let x := s.sq n
  match (x.tq.filter (fun e => e.due.isSome)).map (fun e => (e.post, (Sum.inl e : TEnt ⊕ AEnt))) ++
      (x.aq.filter (fun e => s.angleDue e)).map (fun e => (e.post, (Sum.inr e : TEnt ⊕ AEnt))) with
  | [] => none
  | f :: r => some (minPost f r)

/-- 05 R111: the first due entry of the device: in ascending sequencer number, then in posting order. -/
def State.nextDue (s : State) : Option (Nat × (TEnt ⊕ AEnt)) :=
  (List.range 8).foldl (fun o n => match o with
    | some v => some v
    | none => (s.dueIn n).map (fun e => (n, e))) none

/-- The entry of sequencer `n` fires. -/
def State.fire (s : State) (n : Nat) : TEnt ⊕ AEnt → State
  | .inl e => s.fireTime n e []
  | .inr e => s.fireAngle n e []

/-- Every due entry fires, at most as many as the fuel. -/
def State.fireAll : Nat → State → State
  | 0, s => s
  | k + 1, s => match s.nextDue with
    | none => s
    | some (n, e) => State.fireAll k (s.fire n e)

/-- The number of entries in all queues. -/
def State.queued (s : State) : Nat := (List.range 8).foldl (fun k n => k + (s.sq n).used) 0

/-! ### Traps (05 R114, 06 R141) -/

/-- R141: what a trap does with the queue. -/
def State.trapQueue (s : State) (n : Nat) : State :=
  let k := s.f (SEQ_WDOG.a n) SEQ_WDOG.trap_action
  if k = 0 then s
  else if k = 2 then (s.flushQ n).activateFrom n (s.f (SEQ_WDOG.a n) SEQ_WDOG.safe_set) []
  else s.flushQ n

/-- R114: a trap of sequencer `n` with a code; `user` is the code of a TRAP instruction. pc stays at the instruction. -/
def State.trap (s : State) (n code user : Nat) : State :=
  let s1 := ((s.enterSeq n 4).gwReleaseAll n).setFs (SEQ_TRAP.a n) [(SEQ_TRAP.user_code, user), (SEQ_TRAP.code, code)]
  (s1.raise (33 + n) 2 code).trapQueue n

/-! ### The commands -/

/-- TIME_ACTION_FIRE (R131): the next entry of the device to fire, if it is a time entry of sequencer `sq`. -/
def execTimeActionFire (sq : Fin 8) (races : List (Fin 32 × BitVec 32)) (s : State) : Host.Outcome State Fault Refusal :=
  let u := s.phsDue
  .next (s.live (match u.nextDue with
    | some (n, .inl e) => if n = sq.val then u.fireTime n e races else u
    | _ => u))

/-- ANGLE_ACTION_FIRE (04 R90): the next entry of the device to fire, if it is an angle entry of sequencer `sq`. -/
def execAngleActionFire (sq : Fin 8) (races : List (Fin 32 × BitVec 32)) (s : State) : Host.Outcome State Fault Refusal :=
  let u := s.phsDue
  .next (s.live (match u.nextDue with
    | some (n, .inr e) => if n = sq.val then u.fireAngle n e races else u
    | _ => u))

/-- PULSE_FALL (R135). -/
def execPulseFall (pin : Fin 16) (s : State) : Host.Outcome State Fault Refusal := .next (s.live (s.pulseFall pin.val))

/-- WATCHDOG_EXPIRY (05 R115). -/
def execWatchdogExpiry (sq : Fin 8) (s : State) : Host.Outcome State Fault Refusal :=
  .next (s.live (if s.wdogDue sq.val then s.trap sq.val 8 0 else s))

end Sys2Proof.Machine
end

