-- ==== Sys2Proof/Machine/PairRole.lean ====
section
/-! DEFINITION. Causeway pairing (15 R357 to R368), the parts that move roles: the judging of heartbeats, path failures, the states
of the unit, and the hand-back instant. -/

namespace Sys2Proof.Machine

/-! ### Roles (R363) -/

/-- R363: the activation set of role `k`. -/
def State.roleSet (s : State) (k : Nat) (gain : Bool) : Nat :=
  let a := PAIR_ROLE.a
  if k = 0 then s.f a (if gain then PAIR_ROLE.gain_time else PAIR_ROLE.lose_time)
  else if k = 1 then s.f a (if gain then PAIR_ROLE.gain_bus else PAIR_ROLE.lose_bus)
  else s.f a (if gain then PAIR_ROLE.gain_gate else PAIR_ROLE.lose_gate)

/-- R363: role `k` is gained or lost: its bit, its event, its set. -/
def State.roleMove (s : State) (k : Nat) (gain : Bool) : State :=
  if nbit s.pairRoles k = gain then s
  else
    let r := s.pairRoles
    let s1 := (s.setF PAIR_STAT.a PAIR_STAT.roles (if gain then r + 2 ^ k else r - 2 ^ k)).raise 57 (if gain then 5 else 6) k
    if nbit (s1.f PAIR_ROLE.a PAIR_ROLE.set_en) k then
      let n := s1.roleSet k gain
      let x := s1.activate n []
      if x.2 then x.1.raise 57 10 n else x.1
    else s1

/-- The bus role is to move at the next bus idle (R363). -/
def State.wantBus (s : State) (v : Option Bool) : State :=
  let x := s.pair
  s.setPair { x with busWant := v }

/-- R362, R363: the unit enters ACTIVE and takes the roles. -/
def State.takeRoles (s : State) : State :=
  let x := s.pair
  let s1 := (s.setPair { x with ann := none, annOk := false, echo := none, busWant := some true, stby := none }).setFs PAIR_STAT.a
    [(PAIR_STAT.state, 3), (PAIR_STAT.handback, 0)]
  (s1.roleMove 0 true).roleMove 2 true

/-- R362, R363: the unit enters STANDBY and releases the roles. -/
def State.releaseRoles (s : State) : State :=
  let x := s.pair
  let s1 := (s.setPair { x with ann := none, annOk := false, echo := none, busWant := some false, repAt := s.now, done := [], cycAt := s.now }).setFs
    PAIR_STAT.a [(PAIR_STAT.state, 2), (PAIR_STAT.handback, 0)]
  (s1.roleMove 0 false).roleMove 2 false

/-- R362: the unit enters STANDBY without a role. -/
def State.toStandby (s : State) : State :=
  let x := s.pair
  (s.setPair { x with repAt := s.now, done := [], cycAt := s.now }).setPairState 2

/-- R362: a failover, where this unit is STANDBY and fit. -/
def State.failover (s : State) : State :=
  if s.pairState = 2 ∧ s.pairFit = true then (s.pairCount 4).takeRoles else s

/-- BUS_ROLE_SWITCH (R363): at a bus idle the bus role moves. -/
def State.busSwitch (s : State) : State :=
  match s.pair.busWant with
  | none => s
  | some g => (s.wantBus none).roleMove 1 g

/-! ### Heartbeats (R359 to R362) -/

/-- R361: path `p` has shown a heartbeat: its count, its health, what it shows of the partner. -/
def State.beatPath (s : State) (p : Nat) (st : Option Nat) (fit : Bool) : State :=
  let x := s.pair
  let back := !s.pathOk p && x.faulted.getD p false
  let stby := decide (st = some 2) && fldGet (s.reg PAIR_STAT.a) PAIR_STAT.partner != 2
  let y := { x with
    last := x.last.set p (some s.now), faulted := if back then x.faulted.set p false else x.faulted, heard := true, peerFit := fit
    repLast := if stby then some s.now else x.repLast
    unfit := x.unfit.set p (if fit then 0 else x.unfit.getD p 0 + 1) }
  let s1 := (((s.setPair y).pairCount p).setPathOk p 1).raiseIf back 57 2 p
  match st with
  | some k => s1.setF PAIR_STAT.a PAIR_STAT.partner k
  | none => s1

/-- R365: since when the partner has shown STANDBY and fit on both paths. -/
def State.stbyTrack (s : State) : State :=
  let x := s.pair
  let c := x.pinCode == 2000 && x.frCond && s.pathOk 0 && s.pathOk 1
  s.setPair { x with stby := if c then some (x.stby.getD s.now) else none }

/-- R358, R362, R366: what a heartbeat of path `p` does to the state of the unit. -/
def State.beatJudge (s : State) (p : Nat) (st : Option Nat) (fit : Bool) : State :=
  let two := decide (2 ≤ s.pair.unfit.getD p 0)
  if s.pairState = 1 ∧ st = some 3 then s.toStandby
  else if s.pairState = 2 ∧ two = true then s.failover
  else if s.pairState = 3 ∧ st = some 3 ∧ fit = true ∧ (s.pairFit = false ∨ s.preferred = false) then s.releaseRoles.raise 57 7 0
  else if s.pairState = 3 ∧ fit = false ∧ s.pair.ann.isSome = true then s.handbackCancel
  else s

/-- A valid heartbeat on path `p` (0 pin, 1 frame) that shows the partner's state, if it does, and its fitness. -/
def State.beat (s : State) (p : Nat) (st : Option Nat) (fit : Bool) : State :=
  let s1 := s.beatPath p st fit
  let s2 := s1.stbyTrack.raiseIf (s1.pair.unfit.getD p 0 == 2) 57 4 0
  s2.beatJudge p st fit

/-- R359: the width that a pulse of HB_IN stands for; of 1.5 µs, within reach of two widths, `b` chooses. -/
def pulseCode (ns : Nat) (b : Bool) : Option Nat :=
  if 500 ≤ ns ∧ (ns < 1500 ∨ (ns = 1500 ∧ b = true)) then some 1000
  else if 1500 ≤ ns ∧ ns ≤ 2500 then some 2000
  else if 3500 ≤ ns ∧ ns ≤ 4500 then some 4000
  else if 5500 ≤ ns ∧ ns ≤ 6500 then some 6000
  else none

/-- HB_IN_PULSE (R359). -/
def State.hbPulse (s0 : State) (ns : Nat) : State :=
  if s0.pairState = 0 then s0
  else
    let v := s0.fresh
    let s := v.2
    match pulseCode ns (nbit v.1.toNat 0) with
    | none => s.pairCount 2
    | some w =>
      let x := s.pair
      let s1 := s.setPair { x with pinCode := w }
      s1.beat 0 (if w = 1000 then some 1 else if w = 2000 then some 2 else if w = 4000 then some 3 else none) (w != 6000)

/-- R365 steps 2 and 3: the hand-back flags of a heartbeat frame with payload `p`. -/
def State.handbackFlags (s : State) (p : List Byte) : State :=
  let t := mkTime (beAt p 8 6) (beAt p 14 4) 0
  let x := s.pair
  let ok := match x.ann with
    | some u => nbit (byteAt p 7) 1 && decide (u = t) && decide (((s.pairTicks * 4 * nsU : Nat) : Int) ≤ tdiff t s.tim.wkt)
    | none => false
  let echo := if nbit (byteAt p 7) 0 && s.preferred && s.pairState == 2 && s.pairFit then some t else none
  s.setPair { x with annOk := x.annOk || ok, echo := echo }

/-- R360: a frame of the partner, from its destination address on. -/
def State.pairFrame (s : State) (d : List Byte) : State :=
  let p := slice d 14 46
  if s.pairState = 0 ∨ byteAt p 2 ≠ 1 then s
  else if be16 p 0 = 1 then
    let st := byteAt p 3 % 8
    let fit := nbit (byteAt p 3) 3
    let x := s.pair
    let s1 := (s.setPair { x with frCond := st == 2 && fit }).beat 1 (some st) fit
    s1.handbackFlags p
  else if be16 p 0 = 2 then s.reportIn p
  else s

/-! ### Failures and instants (R361, R362, R365, R366) -/

/-- R361: the tick at which path `p` stops being healthy. -/
def State.pathEnd (s : State) (p : Nat) : Nat := ((s.pair.last.getD p none).getD 0) + 3 * s.pairTicks

/-- R361, R366: the partner is declared failed. -/
def State.partnerFailed (s : State) : State :=
  let s1 := s.raise 57 3 0
  let s2 := if s1.pair.ann.isSome then s1.handbackCancel else s1
  let x := s2.pair
  (s2.setPair { x with echo := none }).failover

/-- PATH_TIMEOUT (R361): a heartbeat of the same tick wins (R366). -/
def State.pathTimeout (s : State) (p : Nat) : State :=
  if s.pairState ≠ 0 ∧ s.pathOk p = true ∧ s.pathEnd p < s.now then
    let x := s.pair
    let s1 := (((s.setPair { x with faulted := x.faulted.set p true, stby := none }).setPathOk p 0).pairCount 3).raise 57 1 p
    if s1.pathOk (1 - p) then s1 else s1.partnerFailed
  else s

/-- R361: the partner stands declared failed. -/
def State.partnerGone (s : State) : Bool := !s.pathOk 0 && !s.pathOk 1

/-- R362: a STANDBY unit takes the roles of a partner declared failed as soon as it is fit. -/
def State.pairCheck (s : State) : State := if s.partnerGone then s.failover else s

/-- STARTUP_WAIT_EXPIRY (R362). -/
def State.startupWait (s : State) : State :=
  let x := s.pair
  if s.pairState = 1 ∧ x.since + msTicks (s.f PAIR_TIMING.a PAIR_TIMING.startup_wait) ≤ s.now then
    (if s.pairFit ∧ (s.preferred = true ∨ x.heard = false ∨ x.peerFit = false) then s.takeRoles else s.toStandby)
  else s

/-- HANDBACK_INSTANT (R365 step 3): WKT has reached T; a declaration of the same tick wins (R366). -/
def State.handbackInstant (s : State) : State :=
  let x := s.pair
  let alive := (s.pathOk 0 && decide (s.now < s.pathEnd 0)) || (s.pathOk 1 && decide (s.now < s.pathEnd 1))
  let due : Option Nat → Bool := fun t => match t with
    | some u => decide (tdiff u s.tim.wkt ≤ 0)
    | none => false
  if !alive then s
  else if s.pairState = 3 ∧ s.preferred = false ∧ x.annOk = true ∧ due x.ann = true then (s.pairCount 5).releaseRoles
  else if s.pairState = 2 ∧ s.preferred = true ∧ s.pairFit = true ∧ due x.echo = true then (s.pairCount 5).takeRoles
  else s

/-! ### The commands -/

/-- HB_IN_PULSE (R359): a pulse of `ns` nanoseconds. -/
def execHbInPulse (ns : BitVec 32) (s : State) : Host.Outcome State Fault Refusal := .next (s.live (s.hbPulse ns.toNat))

/-- BUS_ROLE_SWITCH (R363). -/
def execBusRoleSwitch (s : State) : Host.Outcome State Fault Refusal := .next (s.live s.busSwitch)

/-- PATH_TIMEOUT (R361). -/
def execPathTimeout (p : Fin 2) (s : State) : Host.Outcome State Fault Refusal := .next (s.live (s.pathTimeout p.val))

/-- STARTUP_WAIT_EXPIRY (R362). -/
def execStartupWaitExpiry (s : State) : Host.Outcome State Fault Refusal := .next (s.live s.startupWait)

/-- HANDBACK_INSTANT (R365). -/
def execHandbackInstant (s : State) : Host.Outcome State Fault Refusal := .next (s.live s.handbackInstant)

end Sys2Proof.Machine
end

