-- ==== Sys2Proof/Machine/FrameRows.lean ====
section
/-! DEFINITION. Where a frame changes hands: the end of its reception and its MACsec verdict, which may deliver a frame of the pair
logic (15 R360); the end of a transmission (10 R222), which delivers a copy to a link, a ring or the gateway; and the second pass
(07 R167). -/

namespace Sys2Proof.Machine

/-- A frame that the pair logic takes, if there is one (15 R360). -/
def State.pairTake (r : State × Option (List Byte)) : State :=
  match r.2 with
  | some d => r.1.pairFrame d
  | none => r.1

/-- A copy leaves on port `n`; `desc` is the descriptor at the head of its receive ring. -/
def State.leave (s : State) (c : Copy) (desc : List Byte) : State :=
  if c.port < 24 then s.sendOut c
  else if c.port = 26 then
    (if c.mark then s.copyGone c else (s.copyGone c).acfRx (s.copyPlain c).1)
  else if c.port = 27 then s.copyGone c
  else (s.ringDeliver c desc).copyGone c

/-- FRAME_TRANSMITTED (10 R222): the copy in transmission on port `n` ends. -/
def State.transmitted (s : State) (n : Nat) (desc : List Byte) : State :=
  match s.sending n with
  | none => s
  | some c => ((s.payRest c).leave c desc).wfqAll

/-- The frame that enters its second pass, from a copy on P27 (07 R167, R441). -/
def State.secondPass (s : State) (c : Copy) : Frame :=
  let f := s.frame c.fid
  let b := f.bankB.getD (s.activeBank 1)
  { port := f.port, inPort := f.inPort, pass := 1, data := (s.copyPlain c).1, sec := f.sec, tsOk := f.tsOk, tsFrt := f.tsFrt
    tsWkt := f.tsWkt, tsDom := f.tsDom, launch := f.launch, oneStep := f.oneStep, ref := f.ref, mode := f.mode
    mirDone := f.mirDone, hold := if f.hold.contains (1, b) then f.hold else f.hold ++ [(1, b)], bankB := some b }

/-- RECIRCULATE_ENTRY (07 R167): the next copy of P27, in the order of 10 R221, leaves its queue and its frame enters pipeline B
again; reading it meets the errors named (09 R193). -/
def State.recirculate (s : State) (corr : Nat) (bad : Option Nat) : State :=
  let r := State.pick (s.copies.length + 1) s 27 false 0
  match r.1 with
  | none => r.2.wfqAll
  | some c =>
    let u := r.2.mereRead c.fid corr bad
    if u.copies.any (fun x => x.id == c.id) then
      let v := u.begins c
      ((v.copyGone c).enter (v.secondPass c)).2
    else u.wfqAll

/-! ### The commands -/

/-- RECEPTION_END (07 R153): the frame in reception on port `n` has ended; those on the ports `ends` end in the same SWC cycle (10
R236). -/
def execReceptionEnd (n : Fin 24) (ends : List (Fin 24)) (s : State) : Host.Outcome State Fault Refusal :=
  .next (s.live (State.pairTake ((s.endCharges (ends.map (·.val))).recEnd n.val)).wfqAll)

/-- MACSEC_VERDICT (11 R257). -/
def execMacsecVerdict (n : Fin 24) (s : State) : Host.Outcome State Fault Refusal :=
  .next (s.live (State.pairTake (s.secVerdict n.val)).wfqAll)

/-- FRAME_TRANSMITTED (10 R222): `desc` is the descriptor in host memory at the head of the copy's ring, for P25; that of P24 stands
in Carr's memory. -/
def execFrameTransmitted (n : Fin 28) (desc : List Byte) (s : State) : Host.Outcome State Fault Refusal :=
  .next (s.live (match s.sending n.val with
    | some c => s.transmitted n.val
        (if c.port = 24 then s.carrRead (s.ringDesc 3 (s.ringFor 24 c.tc)) 64 else slice desc 0 64)
    | none => s))

/-- RECIRCULATE_ENTRY (07 R167): `corr` corrected errors, and an uncorrectable one in cell `bad` (09 R193). -/
def execRecirculateEntry (corr : Fin 64) (bad : Option (Fin 64)) (s : State) : Host.Outcome State Fault Refusal :=
  .next (s.live (s.recirculate corr.val (bad.map (·.val))))

end Sys2Proof.Machine
end

