-- ==== Sys2Proof/Machine/Pcie.lean ====
section
/-! DEFINITION. The PCIe endpoint as the host sees it beside BAR0 (12 R295): its configuration space, and the MSI-X table and pending bits of
BAR2. Where they lie among the addresses of initiator 0, and the places of the PCI Express Base Specification that they take, are log entry 59. -/

namespace Sys2Proof.Machine

/-- The addresses of initiator 0 that the endpoint itself answers: BAR2, and the 4 KiB of the configuration space. -/
def pcieOwn (a : Nat) : Bool :=
  (decide (0x4000000 ≤ a) && decide (a < 0x4004000)) || (decide (0x5000000 ≤ a) && decide (a < 0x5001000))

/-- A word of the configuration space: its fixed bits, and the bits that a write sets. -/
structure CfgRow where
  off : Nat
  fixed : Nat
  rw : Nat
deriving DecidableEq, Repr

/-- R295: the fixed words: 64-bit BAR0 of 64 MiB and BAR2 of 16 KiB, power management with D0 and D3hot, MSI-X with 64 vectors in BAR2,
AER, the device serial number. -/
def cfgRows : List CfgRow :=
  [⟨0x04, 0x100000, 0x546⟩, ⟨0x10, 4, 0xfc000000⟩, ⟨0x14, 0, 0xffffffff⟩, ⟨0x18, 4, 0xffffc000⟩, ⟨0x1c, 0, 0xffffffff⟩,
   ⟨0x34, 0x40, 0⟩, ⟨0x40, 0x35001, 0⟩, ⟨0x44, 8, 3⟩, ⟨0x50, 0x3f6011, 0xc0000000⟩, ⟨0x54, 2, 0⟩, ⟨0x58, 0x2002, 0⟩,
   ⟨0x60, 0x20010, 0⟩, ⟨0x64, 0x8001, 0⟩, ⟨0x68, 0, 0x78ff⟩, ⟨0x6c, 0x24, 0⟩] ++
  [⟨0x100, 0x14020001, 0⟩, ⟨0x104, 0, 0xffffffff⟩, ⟨0x108, 0, 0xffffffff⟩, ⟨0x10c, 0, 0xffffffff⟩, ⟨0x140, 0x10003, 0⟩]

/-- R295: the words whose fixed bits depend on the device: identifiers, revision, link generation, serial number. -/
def State.cfgDevice (s : State) (o : Nat) : Nat :=
  if o = 0 then 0x92400000 + Config.vendorId.toNat
  else if o = 8 then 0x2800000 + s.f SYS_ID.a SYS_ID.stepping
  else if o = 0x70 then s.pcieGen * 65536
  else if o = 0x144 then Config.devId.toNat % 2 ^ 32
  else if o = 0x148 then Config.devId.toNat / 2 ^ 32
  else 0

/-- A word of the configuration space as a read delivers it. -/
def State.cfgRead (s : State) (o : Nat) : Nat :=
  match cfgRows.find? (fun r => r.off == o) with
  | some r => r.fixed ||| (s.cfgAt o &&& r.rw)
  | none => s.cfgDevice o

/-- A pending-bit word: its vectors whose message still waits and whose source is still pending. -/
def State.pbaRead (s : State) (base : Nat) : Nat :=
  (List.range 32).foldl (fun m k =>
    if s.pcie.pba.contains (base + k) && s.on (EVT_SRC_STAT.a (base + k)) EVT_SRC_STAT.pend then m + 2 ^ k else m) 0

/-- A word of BAR2 as a read delivers it. -/
def State.bar2Read (s : State) (o : Nat) : Nat :=
  if o < 0x400 then (Cells.get msixReset s.pcie.tbl (o / 4)).toNat
  else if o = 0x2000 then s.pbaRead 0
  else if o = 0x2004 then s.pbaRead 32
  else 0

/-- The aligned word at an address of the endpoint. -/
def State.pcieWord (s : State) (a : Nat) : Nat := if a < 0x5000000 then s.bar2Read (a - 0x4000000) else s.cfgRead (a - 0x5000000)

/-- A read of `n` bytes: within a word, or two words. -/
def State.pcieRead (s : State) (a n : Nat) : Nat :=
  let w := s.pcieWord (a / 4 * 4)
  if n = 8 then w + s.pcieWord (a / 4 * 4 + 4) * 2 ^ 32 else w / 2 ^ (8 * (a % 4)) % 2 ^ (8 * n)

/-- The endpoint's state set. -/
def State.setPcie (s : State) (p : PcieSt) : State := { s with pcie := p }

/-- A message whose mask has gone is sent, if its source still asks for it (02 R42). -/
def State.msixUnmask (s : State) (n : Nat) : State :=
  if s.msixPass n then
    let p := s.pcie
    let u := s.setPcie { p with pba := p.pba.filter (fun k => k != n) }
    if s.on (EVT_SRC_STAT.a n) EVT_SRC_STAT.pend then u.deliver n else u
  else s

/-- The word that a write of the lowest `n` bytes of `v` at byte `k` of the word `w` leaves. -/
def lanes (w k n v : Nat) : Nat :=
  let m := (2 ^ (8 * n) - 1) * 2 ^ (8 * k) % 2 ^ 32
  (w &&& (2 ^ 32 - 1 - m)) ||| (v * 2 ^ (8 * k) &&& m)

/-- A write of a word of the configuration space; AER status bits clear by a 1; the power states D1 and D2 do not exist. -/
def State.cfgWrite (s : State) (o k n v : Nat) : State :=
  match cfgRows.find? (fun r => r.off == o) with
  | none => s
  | some r =>
    let old := s.cfgAt o
    let new := if o = 0x104 then old &&& (2 ^ 32 - 1 - lanes 0 k n v) else lanes old k n v &&& r.rw
    if o = 0x44 ∧ (new % 4 = 1 ∨ new % 4 = 2) then s
    else
      let p := s.pcie
      s.setPcie { p with cfg := Cells.set cfgReset p.cfg o (BitVec.ofNat 32 new) }

/-- A write of a word of BAR2: a word of the MSI-X table, of which the reserved bits stay 0. -/
def State.bar2Write (s : State) (o k n v : Nat) : State :=
  if 0x400 ≤ o then s
  else
    let j := o / 4
    let m := if j % 4 = 3 then 1 else if j % 4 = 0 then 0xfffffffc else 0xffffffff
    let p := s.pcie
    let w := lanes (Cells.get msixReset p.tbl j).toNat k n v &&& m
    s.setPcie { p with tbl := Cells.set msixReset p.tbl j (BitVec.ofNat 32 w) }

/-- A write within one word of the endpoint. -/
def State.pciePut (s : State) (a k n v : Nat) : State :=
  if a < 0x5000000 then s.bar2Write (a - 0x4000000) k n v else s.cfgWrite (a - 0x5000000) k n v

/-- A write of `n` bytes to the endpoint; messages whose mask it takes away are sent. -/
def State.pcieWrite (s : State) (a n v : Nat) : State :=
  let w := a / 4 * 4
  let u := if n = 8 then (s.pciePut w 0 4 (v % 2 ^ 32)).pciePut (w + 4) 0 4 (v / 2 ^ 32) else s.pciePut w (a % 4) n v
  u.pcie.pba.foldl (fun (x : State) k => x.msixUnmask k) u

end Sys2Proof.Machine
end

