-- ==== Sys2Proof/Machine/Yufen.lean ====
section
/-! DEFINITION. The Yufen instructions (05): the registers, issue, table memory, time arithmetic, and one meaning per instruction.
A command of this file issues one instruction on a sequencer: it acts where the sequencer runs, is not waiting, has come to the instruction's
SEQ cycle within the present TIME tick, and holds that instruction at its pc. -/

namespace Sys2Proof.Machine

/-! ### Registers (R96, R97) -/

/-- R97: g0 reads 0. -/
def State.gr (s : State) (n : Nat) (k : BitVec 4) : Word :=
  if k = 0#4 then 0#32 else (s.sq n).g.getD k.toNat 0#32

/-- R97: a write to g0 is discarded. -/
def State.setGr (s : State) (n : Nat) (k : BitVec 4) (v : Word) : State :=
  if k = 0#4 then s
  else
    let x := s.sq n
    s.setSq n { x with g := x.g.setIfInBounds k.toNat v }

/-- The 96 bits of a time register. -/
def State.tr (s : State) (n : Nat) (k : BitVec 2) : Nat := (s.sq n).treg k.toNat

/-- A time register set. -/
def State.setTr (s : State) (n : Nat) (k : BitVec 2) (v : Nat) : State :=
  let x := s.sq n
  s.setSq n { x with t := x.t.setIfInBounds k.toNat (BitVec.ofNat 96 v) }

/-- An angle register. -/
def State.ar (s : State) (n : Nat) (k : BitVec 2) : Word := (s.sq n).ax.getD k.toNat 0#32

/-- An angle register set. -/
def State.setAr (s : State) (n : Nat) (k : BitVec 2) (v : Word) : State :=
  let x := s.sq n
  s.setSq n { x with ax := x.ax.setIfInBounds k.toNat v }

/-- ws set. -/
def State.setWs (s : State) (n v : Nat) : State :=
  let x := s.sq n
  s.setSq n { x with ws := BitVec.ofNat 32 v }

/-! ### Time values (R96, R102) -/

/-- R96: the bits of a time: seconds [93:46], nanoseconds [45:16], fraction [15:0]. -/
def tbits (sec ns fr : Nat) : Nat := sec % 2 ^ 48 * 2 ^ 46 + ns % 2 ^ 30 * 2 ^ 16 + fr % 2 ^ 16

/-- The parts of a time register. -/
def tSec (v : Nat) : Nat := v / 2 ^ 46 % 2 ^ 48
def tNs (v : Nat) : Nat := v / 2 ^ 16 % 2 ^ 30
def tFr (v : Nat) : Nat := v % 2 ^ 16

/-- R102: the value of a time, exact, in units of 2^-16 ns. -/
def tVal (v : Nat) : Nat := (tSec v * 1000000000 + tNs v) * 65536 + tFr v

/-- The time of a value, its seconds modulo 2^48. -/
def tOfVal (u : Nat) : Nat := tbits (u / 65536 / 1000000000) (u / 65536 % 1000000000) (u % 65536)

/-- The counter value of a time register. -/
def tClock (v : Nat) : Nat := mkTime (tSec v) (tNs v) (tFr v)

/-- The time register bits of a counter value. -/
def clockT (t : Nat) : Nat := tbits (secOf t) (nsOf t) (frac16 t)

/-- R102: tadd. -/
def tadd (y : Nat) (g : Word) : Nat :=
  let total : Int := (tNs y : Int) + g.toInt
  tbits (((tSec y : Int) + total / 1000000000) % (2 ^ 48 : Nat)).toNat (total % 1000000000).toNat (tFr y)

/-- R102: tsub. -/
def tsub (x y : Nat) : Word :=
  BitVec.ofInt 32 (clampInt (-2147483648) 2147483647 (((tVal x : Int) - (tVal y : Int)) / 65536))

/-- R102: tnext, for a period that is not 0. -/
def tnext (x y g : Nat) : Nat :=
  if tVal x ≤ tVal y then y
  else tOfVal (tVal y + ceilDiv (tVal x - tVal y) (g * 65536) * (g * 65536))

/-- The word of a field of a time: 0 seconds [31:0], 1 seconds [47:32], 2 nanoseconds, 3 fraction. -/
def tGet (v : Nat) (sel : BitVec 2) : Nat :=
  if sel = 0#2 then tSec v % 2 ^ 32 else if sel = 1#2 then tSec v / 2 ^ 32 else if sel = 2#2 then tNs v else tFr v

/-- A time with a field replaced. -/
def tPut (v : Nat) (sel : BitVec 2) (g : Nat) : Nat :=
  if sel = 0#2 then tbits (tSec v / 2 ^ 32 * 2 ^ 32 + g) (tNs v) (tFr v)
  else if sel = 1#2 then tbits (tSec v % 2 ^ 32 + g % 2 ^ 16 * 2 ^ 32) (tNs v) (tFr v)
  else if sel = 2#2 then tbits (tSec v) g (tFr v)
  else tbits (tSec v) (tNs v) g

/-! ### Issue (R97, R98, R100) -/

/-- The sequencer executes: it is in RUN, powered, and no debug session has halted it. -/
def State.seqLive (s : State) (n : Nat) : Bool := s.powered && s.seqState n == 1 && !(s.jtag.halted.contains n)

/-- The SEQ cycle of the next issue, counted from the start: not before the present tick (01 R17: 3.2 SEQ cycles to a TIME tick). -/
def State.yCycle (s : State) (n : Nat) : Nat :=
  let x := s.sq n
  max x.cyc (ceilDiv (16 * (s.now - x.start)) 5)

/-- The next issue falls in the present TIME tick. -/
def State.yDue (s : State) (n : Nat) : Bool :=
  let x := s.sq n
  decide (s.yCycle n * 5 < (s.now - x.start + 1) * 16)

/-- The SEQ cycle of the present issue noted. -/
def State.yBegin (s : State) (n : Nat) : State :=
  let x := s.sq n
  s.setSq n { x with cyc := s.yCycle n }

/-- R97: the SEQ cycles that an instruction takes. -/
def State.yCost (s : State) (n c : Nat) : State :=
  let x := s.sq n
  s.setSq n { x with cyc := x.cyc + c }

/-- R98: the words of the program; no target at 2^15 or beyond is one. -/
def State.progLen (s : State) (n : Nat) : Nat := min 32768 (s.f (SEQ_PROG.a n) SEQ_PROG.length)

/-- R98: execution goes to `target` after the effect that led to `t`; a target outside the program traps with `pc_range`, and the
instruction, issued in `s`, has no effect. -/
def State.yGo (s : State) (n : Nat) (target : Int) (c : Nat) (t : State) : State :=
  if 0 ≤ target ∧ target < (s.progLen n : Int) then (t.setPc n target.toNat).yCost n c
  else s.trap n 2 0

/-- The next instruction in sequence. -/
def State.yNext (s : State) (n c : Nat) (t : State) : State := s.yGo n (s.seqPc n + 1 : Nat) c t

/-- R98: a branch, taken to pc + off or not. -/
def State.yBranch (s : State) (n : Nat) (taken : Bool) (off : BitVec 18) : State :=
  if taken then s.yGo n ((s.seqPc n : Int) + off.toInt) 2 s else s.yNext n 1 s

/-- A result in a general register. -/
def State.ySet (s : State) (n : Nat) (d : BitVec 4) (v : Word) (c : Nat) : State := s.yNext n c (s.setGr n d v)

/-- The instruction with word `w` issues on sequencer `n`, with the effect `f`; a word that no instruction has traps with `illegal`. On
the tick on which the watchdog's count reaches the period the trap is taken before it (R115). -/
def State.yIssue (s : State) (n : Nat) (w : Word) (f : State → State) : State :=
  if s.seqLive n && (s.sq n).wait.kind == 0 && s.yDue n then
    let p := s.progWord n (s.seqPc n)
    if s.wdogDue n then s.trap n 8 0
    else if p = w then f (s.yBegin n)
    else if (decodeYufen 0 p).isNone then s.trap n 1 0
    else s
  else s

/-! ### Table memory (R99, R128) -/

/-- The trap that an access of `size` bytes meets, if any. -/
def State.tblTrap (s : State) (n a size : Nat) (store : Bool) : Option Nat :=
  if a % 4 ≠ 0 then some 3
  else if a < s.f (SEQ_TWIN_LO.a n) SEQ_TWIN_LO.twin_lo ∨
      min (s.f (SEQ_TWIN_HI.a n) SEQ_TWIN_HI.twin_hi) 0x100000 < a + size ∨
      (store = true ∧ s.on (SEQ_TWIN_LO.a n) SEQ_TWIN_LO.wr_en = false) then some 4
  else none

/-- The byte address a + sext(imm18). -/
def State.yAddr (s : State) (n : Nat) (a : BitVec 4) (imm : BitVec 18) : Nat := (s.gr n a + imm.signExtend 32).toNat

/-- R99: an access that no trap stops: the arbitration wait of 0 to 7 cycles is open. -/
def State.yTable (s : State) (n a size : Nat) (store : Bool) (c : Nat) (f : State → State) : State :=
  match s.tblTrap n a size store with
  | some k => s.trap n k 0
  | none =>
    let r := s.fresh
    s.yNext n (c + r.1.toNat % 8) (f r.2)

/-- R99: an indivisible access to the word at register `a`: the old word in `d`, the new one `f old`. -/
def State.yAmo (s : State) (n : Nat) (d a : BitVec 4) (f : Word → Word) : State :=
  let p := (s.gr n a).toNat
  s.yTable n p 4 true 3 (fun u =>
    let old := BitVec.ofNat 32 (u.tblW p)
    (u.setTblW p (f old).toNat).setGr n d old)

/-! ### Waits (R105 to R108) -/

/-- A wait begins. -/
def State.yWait (s : State) (n : Nat) (w : WaitSt) : State := s.setWait n w

/-- A wait of the instruction at pc ends: ws, the flags cleared from sig, the target; `c` the SEQ cycle of the next issue. -/
def State.yEnd (s : State) (n ws : Nat) (clr : Nat) (target : Int) (c : Nat) : State :=
  if 0 ≤ target ∧ target < (s.progLen n : Int) then
    let x := s.sq n
    let s1 := s.setSq n { x with ws := BitVec.ofNat 32 ws, sig := x.sig &&& ~~~(BitVec.ofNat 8 clr), cyc := c }
    (s1.setWait n {}).setPc n target.toNat
  else s.trap n 2 0

/-- R108: the wait ends at its issue: the next issue follows within 4 SEQ cycles. -/
def State.yEndNow (s : State) (n ws clr : Nat) (target : Int) : State :=
  let r := s.fresh
  r.2.yEnd n ws clr target ((s.sq n).cyc + 1 + r.1.toNat % 4)

/-- R108: the wait ends on the present tick: the next issue follows within 4 SEQ cycles of its start. -/
def State.yEndTick (s : State) (n ws clr : Nat) (target : Int) : State :=
  let r := s.fresh
  r.2.yEnd n ws clr target (s.yCycle n + r.1.toNat % 4)

/-- R107: the bits that a condition word may hold. -/
def condOk (c : Nat) : Bool := nbits c 30 24 == 0 && nbits c 14 6 == 0

/-- R107: the selected conditions that hold now, in the layout of the condition word. -/
def State.yConds (s : State) (n c : Nat) : Nat :=
  let vis := ((s.sq n).settleSig s.now).sig.toNat
  (if nbit c 31 && !(s.inqOf n).isEmpty then 2 ^ 31 else 0) + (vis &&& nbits c 23 16) * 2 ^ 16 +
    (if nbit c 15 && s.seqLine (c % 64) then 2 ^ 15 + c % 64 else 0)

/-- The flags of earlier ticks made visible (06 R134). -/
def State.ySettle (s : State) (n : Nat) : State := s.setSq n ((s.sq n).settleSig s.now)

/-- R107: a WAITE judged; `fin` ends it. -/
def State.yWaiteJudge (s0 : State) (n c tt : Nat) (next off : Int) (fin : State → Nat → Nat → Int → State) (wait : State → State) :
    State :=
  let s := s0.ySettle n
  let r := s.yConds n c
  if r ≠ 0 then fin s r (nbits r 23 16) next
  else if tt ≤ s.tim.wkt then fin s 0 0 off
  else wait s0

/-- R105: a WAITT in progress. -/
def State.waittDone (s : State) (n : Nat) : State :=
  let w := (s.sq n).wait
  if s.seqLive n && w.kind == 1 && !s.wdogDue n && decide (w.tt ≤ s.tim.wkt) then s.yEndTick n 0 0 (s.seqPc n + 1 : Nat) else s

/-- R106: a WAITA in progress, from the tick after its issue: loss, then the crossing, then the timeout. -/
def State.waitaEnd (s : State) (n : Nat) : State :=
  let w := (s.sq n).wait
  let off : Int := (s.seqPc n : Int) + w.off
  if s.seqLive n && w.kind == 2 && !s.wdogDue n then
    if w.since < s.now ∧ s.phState w.dom ≠ 2 ∧ s.phState w.dom ≠ 3 then s.yEndTick n 2 0 off
    else if s.crosses w.dom w.dir w.reg w.since then s.yEndTick n 0 0 (s.seqPc n + 1 : Nat)
    else if w.since < s.now ∧ w.tt ≤ s.tim.wkt then s.yEndTick n 1 0 off
    else s
  else s

/-- R107: a WAITE in progress. -/
def State.waiteEnd (s : State) (n : Nat) : State :=
  let w := (s.sq n).wait
  if s.seqLive n && w.kind == 3 && !s.wdogDue n then
    s.yWaiteJudge n w.reg w.tt (s.seqPc n + 1 : Nat) ((s.seqPc n : Int) + w.off)
      (fun u ws clr t => u.yEndTick n ws clr t) (fun u => u)
  else s

/-- R115, R105 to R107: what a TIME tick leaves of a sequencer's watchdog and wait. -/
def State.seqSettle (s : State) (n : Nat) : State :=
  if s.wdogDue n then s.trap n 8 0 else ((s.waittDone n).waitaEnd n).waiteEnd n

/-! ### The instructions (R101) -/

/-- NOP. -/
def State.yNop (s : State) (n : Nat) : State :=
  s.yNext n 1 s

/-- HALT (06 R121). -/
def State.yHalt (s : State) (n : Nat) : State :=
  s.seqHalt n

/-- WDOG (R115): the count restarts, with the period that SEQ_WDOG now sets (06 R140). -/
def State.yWdog (s : State) (n : Nat) : State :=
  let x := s.sq n
  s.yNext n 1 (s.setSq n { x with wdog := 0, wperiod := s.wdogPeriod n })

/-- TRAP (R114). -/
def State.yTrap (s : State) (n : Nat) (imm : BitVec 16) : State :=
  s.trap n 9 imm.toNat

/-- RDS (R104). -/
def State.yRds (s : State) (n : Nat) (d : BitVec 4) (k : Fin 5) : State :=
  let x := s.sq n
  let v : Word :=
    if k.val = 0 then x.ws else if k.val = 1 then BitVec.ofNat 32 n else if k.val = 2 then BitVec.ofNat 32 (256 - x.used)
    else if k.val = 3 then BitVec.ofNat 32 x.cyc else BitVec.ofNat 32 (x.sig ||| x.fresh).toNat
  s.ySet n d v 1

/-- ADD. -/
def State.yAdd (s : State) (n : Nat) (d : BitVec 4) (a : BitVec 4) (b : BitVec 4) : State :=
  s.ySet n d (s.gr n a + s.gr n b) 1

/-- SUB. -/
def State.ySub (s : State) (n : Nat) (d : BitVec 4) (a : BitVec 4) (b : BitVec 4) : State :=
  s.ySet n d (s.gr n a - s.gr n b) 1

/-- AND. -/
def State.yAnd (s : State) (n : Nat) (d : BitVec 4) (a : BitVec 4) (b : BitVec 4) : State :=
  s.ySet n d (s.gr n a &&& s.gr n b) 1

/-- OR. -/
def State.yOr (s : State) (n : Nat) (d : BitVec 4) (a : BitVec 4) (b : BitVec 4) : State :=
  s.ySet n d (s.gr n a ||| s.gr n b) 1

/-- XOR. -/
def State.yXor (s : State) (n : Nat) (d : BitVec 4) (a : BitVec 4) (b : BitVec 4) : State :=
  s.ySet n d (s.gr n a ^^^ s.gr n b) 1

/-- SLL. -/
def State.ySll (s : State) (n : Nat) (d : BitVec 4) (a : BitVec 4) (b : BitVec 4) : State :=
  s.ySet n d (s.gr n a <<< ((s.gr n b).toNat % 32)) 1

/-- SRL. -/
def State.ySrl (s : State) (n : Nat) (d : BitVec 4) (a : BitVec 4) (b : BitVec 4) : State :=
  s.ySet n d (s.gr n a >>> ((s.gr n b).toNat % 32)) 1

/-- SRA. -/
def State.ySra (s : State) (n : Nat) (d : BitVec 4) (a : BitVec 4) (b : BitVec 4) : State :=
  s.ySet n d ((s.gr n a).sshiftRight ((s.gr n b).toNat % 32)) 1

/-- MUL. -/
def State.yMul (s : State) (n : Nat) (d : BitVec 4) (a : BitVec 4) (b : BitVec 4) : State :=
  s.ySet n d (s.gr n a * s.gr n b) 2

/-- ADDI. -/
def State.yAddi (s : State) (n : Nat) (d : BitVec 4) (a : BitVec 4) (imm : BitVec 18) : State :=
  s.ySet n d (s.gr n a + imm.signExtend 32) 1

/-- ANDI. -/
def State.yAndi (s : State) (n : Nat) (d : BitVec 4) (a : BitVec 4) (imm : BitVec 18) : State :=
  s.ySet n d (s.gr n a &&& imm.setWidth 32) 1

/-- ORI. -/
def State.yOri (s : State) (n : Nat) (d : BitVec 4) (a : BitVec 4) (imm : BitVec 18) : State :=
  s.ySet n d (s.gr n a ||| imm.setWidth 32) 1

/-- XORI. -/
def State.yXori (s : State) (n : Nat) (d : BitVec 4) (a : BitVec 4) (imm : BitVec 18) : State :=
  s.ySet n d (s.gr n a ^^^ imm.setWidth 32) 1

/-- SLLI. -/
def State.ySlli (s : State) (n : Nat) (d : BitVec 4) (a : BitVec 4) (sh : BitVec 5) : State :=
  s.ySet n d (s.gr n a <<< sh.toNat) 1

/-- SRLI. -/
def State.ySrli (s : State) (n : Nat) (d : BitVec 4) (a : BitVec 4) (sh : BitVec 5) : State :=
  s.ySet n d (s.gr n a >>> sh.toNat) 1

/-- SRAI. -/
def State.ySrai (s : State) (n : Nat) (d : BitVec 4) (a : BitVec 4) (sh : BitVec 5) : State :=
  s.ySet n d ((s.gr n a).sshiftRight sh.toNat) 1

/-- LUI. -/
def State.yLui (s : State) (n : Nat) (d : BitVec 4) (imm : BitVec 16) : State :=
  s.ySet n d (imm.setWidth 32 <<< 16) 1

/-- LD. -/
def State.yLd (s : State) (n : Nat) (d : BitVec 4) (a : BitVec 4) (imm : BitVec 18) : State :=
  let p := s.yAddr n a imm
  s.yTable n p 4 false 2 (fun u => u.setGr n d (BitVec.ofNat 32 (u.tblW p)))

/-- ST: `d` is the source. -/
def State.ySt (s : State) (n : Nat) (d : BitVec 4) (a : BitVec 4) (imm : BitVec 18) : State :=
  let p := s.yAddr n a imm
  s.yTable n p 4 true 2 (fun u => u.setTblW p (u.gr n d).toNat)

/-- LDT: nanoseconds of 10^9 or more trap with `time_range` (R102). -/
def State.yLdt (s : State) (n : Nat) (tx : BitVec 2) (a : BitVec 4) (imm : BitVec 18) : State :=
  let p := s.yAddr n a imm
  let t := timeOf12 (s.tblW p) (s.tblW (p + 4)) (s.tblW (p + 8))
  if (s.tblTrap n p 12 false).isNone && !t.2 then s.trap n 5 0
  else s.yTable n p 12 false 4 (fun u => u.setTr n tx (clockT t.1))

/-- STT. -/
def State.yStt (s : State) (n : Nat) (tx : BitVec 2) (a : BitVec 4) (imm : BitVec 18) : State :=
  let p := s.yAddr n a imm
  let w := tregWords (s.tr n tx)
  s.yTable n p 12 true 4 (fun u => ((u.setTblW p (w.getD 0 0)).setTblW (p + 4) (w.getD 1 0)).setTblW (p + 8) (w.getD 2 0))

/-- AMOADD. -/
def State.yAmoadd (s : State) (n : Nat) (d : BitVec 4) (a : BitVec 4) (b : BitVec 4) : State :=
  let v := s.gr n b
  s.yAmo n d a (fun old => old + v)

/-- AMOSWAP. -/
def State.yAmoswap (s : State) (n : Nat) (d : BitVec 4) (a : BitVec 4) (b : BitVec 4) : State :=
  let v := s.gr n b
  s.yAmo n d a (fun _ => v)

/-- BEQ. -/
def State.yBeq (s : State) (n : Nat) (a : BitVec 4) (b : BitVec 4) (off : BitVec 18) : State :=
  s.yBranch n (s.gr n a == s.gr n b) off

/-- BNE. -/
def State.yBne (s : State) (n : Nat) (a : BitVec 4) (b : BitVec 4) (off : BitVec 18) : State :=
  s.yBranch n (s.gr n a != s.gr n b) off

/-- BLT. -/
def State.yBlt (s : State) (n : Nat) (a : BitVec 4) (b : BitVec 4) (off : BitVec 18) : State :=
  s.yBranch n ((s.gr n a).slt (s.gr n b)) off

/-- BGE. -/
def State.yBge (s : State) (n : Nat) (a : BitVec 4) (b : BitVec 4) (off : BitVec 18) : State :=
  s.yBranch n (!((s.gr n a).slt (s.gr n b))) off

/-- BLTU. -/
def State.yBltu (s : State) (n : Nat) (a : BitVec 4) (b : BitVec 4) (off : BitVec 18) : State :=
  s.yBranch n ((s.gr n a).ult (s.gr n b)) off

/-- BGEU. -/
def State.yBgeu (s : State) (n : Nat) (a : BitVec 4) (b : BitVec 4) (off : BitVec 18) : State :=
  s.yBranch n (!((s.gr n a).ult (s.gr n b))) off

/-- JAL. -/
def State.yJal (s : State) (n : Nat) (d : BitVec 4) (off : BitVec 22) : State :=
  s.yGo n ((s.seqPc n : Int) + off.toInt) 2 (s.setGr n d (BitVec.ofNat 32 (s.seqPc n + 1)))

/-- JALR: the target is the full 32-bit sum (R98). -/
def State.yJalr (s : State) (n : Nat) (d : BitVec 4) (a : BitVec 4) (imm : BitVec 18) : State :=
  s.yGo n ((s.gr n a + imm.signExtend 32).toNat : Int) 2 (s.setGr n d (BitVec.ofNat 32 (s.seqPc n + 1)))

/-- TGET: 0 WKT, 1 DTA, 2 DTB, 3 FRT, as of the present tick (R103). -/
def State.yTget (s : State) (n : Nat) (tx : BitVec 2) (clk : BitVec 2) : State :=
  s.yNext n 3 (s.setTr n tx (clockT (s.clock (if clk = 0#2 then 3 else if clk = 3#2 then 0 else clk.toNat))))

/-- TADD. -/
def State.yTadd (s : State) (n : Nat) (tx : BitVec 2) (ty : BitVec 2) (g : BitVec 4) : State :=
  s.yNext n 2 (s.setTr n tx (tadd (s.tr n ty) (s.gr n g)))

/-- TSUB. -/
def State.yTsub (s : State) (n : Nat) (tx : BitVec 2) (ty : BitVec 2) (g : BitVec 4) : State :=
  s.ySet n g (tsub (s.tr n tx) (s.tr n ty)) 2

/-- TMOV. -/
def State.yTmov (s : State) (n : Nat) (tx : BitVec 2) (ty : BitVec 2) : State :=
  s.yNext n 1 (s.setTr n tx (s.tr n ty))

/-- TEXT. -/
def State.yText (s : State) (n : Nat) (ty : BitVec 2) (g : BitVec 4) (sel : BitVec 2) : State :=
  s.ySet n g (BitVec.ofNat 32 (tGet (s.tr n ty) sel)) 1

/-- TINS: nanoseconds of 10^9 or more trap with `time_range`; g[31:30] is ignored. -/
def State.yTins (s : State) (n : Nat) (tx : BitVec 2) (g : BitVec 4) (sel : BitVec 2) : State :=
  let v := (s.gr n g).toNat
  if sel = 2#2 ∧ 1000000000 ≤ v % 2 ^ 30 then s.trap n 5 0
  else s.yNext n 1 (s.setTr n tx (tPut (s.tr n tx) sel v))

/-- TNEXT: a period of 0 traps with `time_range`. -/
def State.yTnext (s : State) (n : Nat) (tx : BitVec 2) (ty : BitVec 2) (g : BitVec 4) : State :=
  let v := (s.gr n g).toNat
  if v = 0 then s.trap n 5 0 else s.yNext n 48 (s.setTr n tx (tnext (s.tr n tx) (s.tr n ty) v))

/-- TBLT: the full 94-bit values, without wrap. -/
def State.yTblt (s : State) (n : Nat) (tx : BitVec 2) (ty : BitVec 2) (off : BitVec 18) : State :=
  s.yBranch n (decide (tVal (s.tr n tx) < tVal (s.tr n ty))) off

/-- AGET: θ̂ as the tick's observation leaves it. -/
def State.yAget (s0 : State) (n : Nat) (ax : BitVec 2) (pd : BitVec 2) : State :=
  let s := s0.obsSettle pd.toNat
  s.yNext n 3 ((s.setAr n ax (BitVec.ofNat 32 (s.ph pd.toNat).hat)).setWs n (s.phState pd.toNat))

/-- ASET. -/
def State.yAset (s : State) (n : Nat) (ax : BitVec 2) (g : BitVec 4) : State :=
  s.yNext n 1 (s.setAr n ax (s.gr n g))

/-- AREAD. -/
def State.yAread (s : State) (n : Nat) (ay : BitVec 2) (g : BitVec 4) : State :=
  s.ySet n g (s.ar n ay) 1

/-- AADD. -/
def State.yAadd (s : State) (n : Nat) (ax : BitVec 2) (ay : BitVec 2) (g : BitVec 4) : State :=
  s.yNext n 1 (s.setAr n ax (s.ar n ay + s.gr n g))

/-- VGET: the integer part of the speed. -/
def State.yVget (s0 : State) (n : Nat) (g : BitVec 4) (pd : BitVec 2) : State :=
  let s := s0.obsSettle pd.toNat
  s.yNext n 3 ((s.setGr n g (BitVec.ofInt 32 ((s.ph pd.toNat).omega / 4294967296))).setWs n (s.phState pd.toNat))

/-- POST (R111). -/
def State.yPost (s : State) (n : Nat) (tx : BitVec 2) (g : BitVec 4) : State :=
  let w := s.gr n g
  if !(actionOk w.toNat) then s.trap n 6 0
  else if 256 ≤ (s.sq n).used then s.trap n 7 0
  else s.yNext n 2 (s.postTime n w (tClock (s.tr n tx)))

/-- APOST (R111): armed on the tick that holds the end of its second SEQ cycle. -/
def State.yApost (s : State) (n : Nat) (ax : BitVec 2) (g : BitVec 4) (pd : BitVec 2) (dir : Fin 3) : State :=
  let w := s.gr n g
  let x := s.sq n
  if !(actionOk w.toNat) then s.trap n 6 0
  else if 256 ≤ x.used then s.trap n 7 0
  else s.yNext n 2 (s.postAngle n w pd.toNat dir.val (s.ar n ax).toNat (x.start + ((x.cyc + 2) * 5 - 1) / 16))

/-- WAITT (R105). -/
def State.yWaitt (s : State) (n : Nat) (tx : BitVec 2) : State :=
  let t := tClock (s.tr n tx)
  if t ≤ s.tim.wkt then s.yEndNow n 0 0 (s.seqPc n + 1 : Nat)
  else s.yWait n { kind := 1, tt := t, since := s.now }

/-- WAITA (R106): only a domain that is not in TRACK or HOLD ends it at issue. -/
def State.yWaita (s : State) (n : Nat) (ax : BitVec 2) (pd : BitVec 2) (dir : Fin 3) (tt : BitVec 2) (off : BitVec 18) : State :=
  let st := s.phState pd.toNat
  if st ≠ 2 ∧ st ≠ 3 then s.yEndNow n 2 0 ((s.seqPc n : Int) + off.toInt)
  else s.yWait n { kind := 2, reg := (s.ar n ax).toNat, dom := pd.toNat, dir := dir.val, tt := tClock (s.tr n tt), off := off.toInt
                   since := s.now }

/-- WAITE (R107). -/
def State.yWaite (s : State) (n : Nat) (g : BitVec 4) (tt : BitVec 2) (off : BitVec 18) : State :=
  let c := (s.gr n g).toNat
  let t := tClock (s.tr n tt)
  if condOk c then
    s.yWaiteJudge n c t (s.seqPc n + 1 : Nat) ((s.seqPc n : Int) + off.toInt) (fun u ws clr p => u.yEndNow n ws clr p)
      (fun u => u.yWait n { kind := 3, reg := c, tt := t, off := off.toInt, since := u.now })
  else s.trap n 1 0

/-- GRX (R113). -/
def State.yGrx (s : State) (n : Nat) (d : BitVec 4) : State :=
  let r := s.gwPop n
  s.yNext n 3 ((r.2.setGr n d (BitVec.ofNat 32 r.1)).setWs n (satTo 0xffff (r.2.inqOf n).length))

/-- GID (R113). -/
def State.yGid (s : State) (n : Nat) (d : BitVec 4) (a : BitVec 4) : State :=
  match s.gwHeld n (s.gr n a).toNat with
  | none => s.trap n 10 0
  | some m => s.ySet n d (BitVec.ofNat 32 m.ident) 3

/-- GTX (R113). -/
def State.yGtx (s : State) (n : Nat) (a : BitVec 4) (b : BitVec 4) : State :=
  let w := (s.gr n b).toNat
  match s.gwHeld n (s.gr n a).toNat with
  | none => s.trap n 10 0
  | some m =>
    if routeOk w then
      let r := s.gtx n m w
      s.yNext n 2 (r.2.setWs n r.1)
    else s.trap n 10 0

/-- GREL (R113). -/
def State.yGrel (s : State) (n : Nat) (a : BitVec 4) : State :=
  match s.gwHeld n (s.gr n a).toNat with
  | none => s.trap n 10 0
  | some m => s.yNext n 2 (s.gwDrop n m.unit)

/-- The instruction `i`, decoded at the pc of sequencer `n`, runs (06 R126). -/
def State.yRun (s : State) (n : Nat) (i : Instr) : State :=
  match i with
  | .iNop _ => s.yNop n
  | .iHalt _ => s.yHalt n
  | .iWdog _ => s.yWdog n
  | .iTrap _ imm => s.yTrap n imm
  | .iRds _ d k => s.yRds n d k
  | .iAdd _ d a b => s.yAdd n d a b
  | .iSub _ d a b => s.ySub n d a b
  | .iAnd _ d a b => s.yAnd n d a b
  | .iOr _ d a b => s.yOr n d a b
  | .iXor _ d a b => s.yXor n d a b
  | .iSll _ d a b => s.ySll n d a b
  | .iSrl _ d a b => s.ySrl n d a b
  | .iSra _ d a b => s.ySra n d a b
  | .iMul _ d a b => s.yMul n d a b
  | .iAddi _ d a imm => s.yAddi n d a imm
  | .iAndi _ d a imm => s.yAndi n d a imm
  | .iOri _ d a imm => s.yOri n d a imm
  | .iXori _ d a imm => s.yXori n d a imm
  | .iSlli _ d a sh => s.ySlli n d a sh
  | .iSrli _ d a sh => s.ySrli n d a sh
  | .iSrai _ d a sh => s.ySrai n d a sh
  | .iLui _ d imm => s.yLui n d imm
  | .iLd _ d a imm => s.yLd n d a imm
  | .iSt _ d a imm => s.ySt n d a imm
  | .iLdt _ tx a imm => s.yLdt n tx a imm
  | .iStt _ tx a imm => s.yStt n tx a imm
  | .iAmoadd _ d a b => s.yAmoadd n d a b
  | .iAmoswap _ d a b => s.yAmoswap n d a b
  | .iBeq _ a b off => s.yBeq n a b off
  | .iBne _ a b off => s.yBne n a b off
  | .iBlt _ a b off => s.yBlt n a b off
  | .iBge _ a b off => s.yBge n a b off
  | .iBltu _ a b off => s.yBltu n a b off
  | .iBgeu _ a b off => s.yBgeu n a b off
  | .iJal _ d off => s.yJal n d off
  | .iJalr _ d a imm => s.yJalr n d a imm
  | .iTget _ tx clk => s.yTget n tx clk
  | .iTadd _ tx ty g => s.yTadd n tx ty g
  | .iTsub _ tx ty g => s.yTsub n tx ty g
  | .iTmov _ tx ty => s.yTmov n tx ty
  | .iText _ ty g sel => s.yText n ty g sel
  | .iTins _ tx g sel => s.yTins n tx g sel
  | .iTnext _ tx ty g => s.yTnext n tx ty g
  | .iTblt _ tx ty off => s.yTblt n tx ty off
  | .iAget _ ax pd => s.yAget n ax pd
  | .iAset _ ax g => s.yAset n ax g
  | .iAread _ ay g => s.yAread n ay g
  | .iAadd _ ax ay g => s.yAadd n ax ay g
  | .iVget _ g pd => s.yVget n g pd
  | .iPost _ tx g => s.yPost n tx g
  | .iApost _ ax g pd dir => s.yApost n ax g pd dir
  | .iWaitt _ tx => s.yWaitt n tx
  | .iWaita _ ax pd dir tt off => s.yWaita n ax pd dir tt off
  | .iWaite _ g tt off => s.yWaite n g tt off
  | .iGrx _ d => s.yGrx n d
  | .iGid _ d a => s.yGid n d a
  | .iGtx _ a b => s.yGtx n a b
  | .iGrel _ a => s.yGrel n a
  | _ => s

/-- 06 R126: one instruction of a paused sequencer; a wait that does not end leaves pc at the wait. -/
def State.yStep (s : State) (n : Nat) : State :=
  if s.powered && s.seqState n == 2 then
    let s1 := (s.setF (SEQ_STAT.a n) SEQ_STAT.state 1).yBegin n
    let t := match decodeYufen 0 (s1.progWord n (s1.seqPc n)) with
      | none => s1.trap n 1 0
      | some i => s1.yRun n i
    if t.seqState n = 1 then t.enterSeq n 2 else t
  else s

/-- 06 R123: a write of SEQ_CTRL: the highest-priority command acts. -/
def State.seqCtrl (s : State) (n : Nat) (w : Word) : State :=
  if fldGet w SEQ_CTRL.stop = 1 then s.seqStop n (fldGet w SEQ_CTRL.stop_flush == 1)
  else if fldGet w SEQ_CTRL.start = 1 then s.seqStart n
  else if fldGet w SEQ_CTRL.pause = 1 then s.seqPause n
  else if fldGet w SEQ_CTRL.resume = 1 then s.seqResume n
  else if fldGet w SEQ_CTRL.step = 1 then s.yStep n
  else s

/-! ### The commands -/

/-- NOP (05 R101). -/
def execINop (sq : Fin 8) (s : State) : Host.Outcome State Fault Refusal :=
  .next (s.yIssue sq.val (yU 0x01 0 0) (fun u => u.yNop sq.val))

/-- HALT (05 R101). -/
def execIHalt (sq : Fin 8) (s : State) : Host.Outcome State Fault Refusal :=
  .next (s.yIssue sq.val (yU 0x02 0 0) (fun u => u.yHalt sq.val))

/-- WDOG (05 R101). -/
def execIWdog (sq : Fin 8) (s : State) : Host.Outcome State Fault Refusal :=
  .next (s.yIssue sq.val (yU 0x03 0 0) (fun u => u.yWdog sq.val))

/-- TRAP (05 R101). -/
def execITrap (sq : Fin 8) (imm : BitVec 16) (s : State) : Host.Outcome State Fault Refusal :=
  .next (s.yIssue sq.val (yU 0x04 0 imm) (fun u => u.yTrap sq.val imm))

/-- RDS (05 R101). -/
def execIRds (sq : Fin 8) (d : BitVec 4) (k : Fin 5) (s : State) : Host.Outcome State Fault Refusal :=
  .next (s.yIssue sq.val (yI 0x05 d 0 (BitVec.ofNat 18 k.val)) (fun u => u.yRds sq.val d k))

/-- ADD (05 R101). -/
def execIAdd (sq : Fin 8) (d : BitVec 4) (a : BitVec 4) (b : BitVec 4) (s : State) : Host.Outcome State Fault Refusal :=
  .next (s.yIssue sq.val (yR 0x08 d a b) (fun u => u.yAdd sq.val d a b))

/-- SUB (05 R101). -/
def execISub (sq : Fin 8) (d : BitVec 4) (a : BitVec 4) (b : BitVec 4) (s : State) : Host.Outcome State Fault Refusal :=
  .next (s.yIssue sq.val (yR 0x09 d a b) (fun u => u.ySub sq.val d a b))

/-- AND (05 R101). -/
def execIAnd (sq : Fin 8) (d : BitVec 4) (a : BitVec 4) (b : BitVec 4) (s : State) : Host.Outcome State Fault Refusal :=
  .next (s.yIssue sq.val (yR 0x0A d a b) (fun u => u.yAnd sq.val d a b))

/-- OR (05 R101). -/
def execIOr (sq : Fin 8) (d : BitVec 4) (a : BitVec 4) (b : BitVec 4) (s : State) : Host.Outcome State Fault Refusal :=
  .next (s.yIssue sq.val (yR 0x0B d a b) (fun u => u.yOr sq.val d a b))

/-- XOR (05 R101). -/
def execIXor (sq : Fin 8) (d : BitVec 4) (a : BitVec 4) (b : BitVec 4) (s : State) : Host.Outcome State Fault Refusal :=
  .next (s.yIssue sq.val (yR 0x0C d a b) (fun u => u.yXor sq.val d a b))

/-- SLL (05 R101). -/
def execISll (sq : Fin 8) (d : BitVec 4) (a : BitVec 4) (b : BitVec 4) (s : State) : Host.Outcome State Fault Refusal :=
  .next (s.yIssue sq.val (yR 0x0D d a b) (fun u => u.ySll sq.val d a b))

/-- SRL (05 R101). -/
def execISrl (sq : Fin 8) (d : BitVec 4) (a : BitVec 4) (b : BitVec 4) (s : State) : Host.Outcome State Fault Refusal :=
  .next (s.yIssue sq.val (yR 0x0E d a b) (fun u => u.ySrl sq.val d a b))

/-- SRA (05 R101). -/
def execISra (sq : Fin 8) (d : BitVec 4) (a : BitVec 4) (b : BitVec 4) (s : State) : Host.Outcome State Fault Refusal :=
  .next (s.yIssue sq.val (yR 0x0F d a b) (fun u => u.ySra sq.val d a b))

/-- MUL (05 R101). -/
def execIMul (sq : Fin 8) (d : BitVec 4) (a : BitVec 4) (b : BitVec 4) (s : State) : Host.Outcome State Fault Refusal :=
  .next (s.yIssue sq.val (yR 0x10 d a b) (fun u => u.yMul sq.val d a b))

/-- ADDI (05 R101). -/
def execIAddi (sq : Fin 8) (d : BitVec 4) (a : BitVec 4) (imm : BitVec 18) (s : State) : Host.Outcome State Fault Refusal :=
  .next (s.yIssue sq.val (yI 0x11 d a imm) (fun u => u.yAddi sq.val d a imm))

/-- ANDI (05 R101). -/
def execIAndi (sq : Fin 8) (d : BitVec 4) (a : BitVec 4) (imm : BitVec 18) (s : State) : Host.Outcome State Fault Refusal :=
  .next (s.yIssue sq.val (yI 0x12 d a imm) (fun u => u.yAndi sq.val d a imm))

/-- ORI (05 R101). -/
def execIOri (sq : Fin 8) (d : BitVec 4) (a : BitVec 4) (imm : BitVec 18) (s : State) : Host.Outcome State Fault Refusal :=
  .next (s.yIssue sq.val (yI 0x13 d a imm) (fun u => u.yOri sq.val d a imm))

/-- XORI (05 R101). -/
def execIXori (sq : Fin 8) (d : BitVec 4) (a : BitVec 4) (imm : BitVec 18) (s : State) : Host.Outcome State Fault Refusal :=
  .next (s.yIssue sq.val (yI 0x14 d a imm) (fun u => u.yXori sq.val d a imm))

/-- SLLI (05 R101). -/
def execISlli (sq : Fin 8) (d : BitVec 4) (a : BitVec 4) (sh : BitVec 5) (s : State) : Host.Outcome State Fault Refusal :=
  .next (s.yIssue sq.val (yI 0x15 d a (BitVec.ofNat 18 sh.toNat)) (fun u => u.ySlli sq.val d a sh))

/-- SRLI (05 R101). -/
def execISrli (sq : Fin 8) (d : BitVec 4) (a : BitVec 4) (sh : BitVec 5) (s : State) : Host.Outcome State Fault Refusal :=
  .next (s.yIssue sq.val (yI 0x16 d a (BitVec.ofNat 18 sh.toNat)) (fun u => u.ySrli sq.val d a sh))

/-- SRAI (05 R101). -/
def execISrai (sq : Fin 8) (d : BitVec 4) (a : BitVec 4) (sh : BitVec 5) (s : State) : Host.Outcome State Fault Refusal :=
  .next (s.yIssue sq.val (yI 0x17 d a (BitVec.ofNat 18 sh.toNat)) (fun u => u.ySrai sq.val d a sh))

/-- LUI (05 R101). -/
def execILui (sq : Fin 8) (d : BitVec 4) (imm : BitVec 16) (s : State) : Host.Outcome State Fault Refusal :=
  .next (s.yIssue sq.val (yU 0x18 d imm) (fun u => u.yLui sq.val d imm))

/-- LD (05 R101). -/
def execILd (sq : Fin 8) (d : BitVec 4) (a : BitVec 4) (imm : BitVec 18) (s : State) : Host.Outcome State Fault Refusal :=
  .next (s.yIssue sq.val (yI 0x19 d a imm) (fun u => u.yLd sq.val d a imm))

/-- ST (05 R101). -/
def execISt (sq : Fin 8) (d : BitVec 4) (a : BitVec 4) (imm : BitVec 18) (s : State) : Host.Outcome State Fault Refusal :=
  .next (s.yIssue sq.val (yI 0x1A d a imm) (fun u => u.ySt sq.val d a imm))

/-- LDT (05 R101). -/
def execILdt (sq : Fin 8) (tx : BitVec 2) (a : BitVec 4) (imm : BitVec 18) (s : State) : Host.Outcome State Fault Refusal :=
  .next (s.yIssue sq.val (yV 0x1B tx a imm) (fun u => u.yLdt sq.val tx a imm))

/-- STT (05 R101). -/
def execIStt (sq : Fin 8) (tx : BitVec 2) (a : BitVec 4) (imm : BitVec 18) (s : State) : Host.Outcome State Fault Refusal :=
  .next (s.yIssue sq.val (yV 0x1C tx a imm) (fun u => u.yStt sq.val tx a imm))

/-- AMOADD (05 R101). -/
def execIAmoadd (sq : Fin 8) (d : BitVec 4) (a : BitVec 4) (b : BitVec 4) (s : State) : Host.Outcome State Fault Refusal :=
  .next (s.yIssue sq.val (yR 0x1D d a b) (fun u => u.yAmoadd sq.val d a b))

/-- AMOSWAP (05 R101). -/
def execIAmoswap (sq : Fin 8) (d : BitVec 4) (a : BitVec 4) (b : BitVec 4) (s : State) : Host.Outcome State Fault Refusal :=
  .next (s.yIssue sq.val (yR 0x1E d a b) (fun u => u.yAmoswap sq.val d a b))

/-- BEQ (05 R101). -/
def execIBeq (sq : Fin 8) (a : BitVec 4) (b : BitVec 4) (off : BitVec 18) (s : State) : Host.Outcome State Fault Refusal :=
  .next (s.yIssue sq.val (yI 0x20 a b off) (fun u => u.yBeq sq.val a b off))

/-- BNE (05 R101). -/
def execIBne (sq : Fin 8) (a : BitVec 4) (b : BitVec 4) (off : BitVec 18) (s : State) : Host.Outcome State Fault Refusal :=
  .next (s.yIssue sq.val (yI 0x21 a b off) (fun u => u.yBne sq.val a b off))

/-- BLT (05 R101). -/
def execIBlt (sq : Fin 8) (a : BitVec 4) (b : BitVec 4) (off : BitVec 18) (s : State) : Host.Outcome State Fault Refusal :=
  .next (s.yIssue sq.val (yI 0x22 a b off) (fun u => u.yBlt sq.val a b off))

/-- BGE (05 R101). -/
def execIBge (sq : Fin 8) (a : BitVec 4) (b : BitVec 4) (off : BitVec 18) (s : State) : Host.Outcome State Fault Refusal :=
  .next (s.yIssue sq.val (yI 0x23 a b off) (fun u => u.yBge sq.val a b off))

/-- BLTU (05 R101). -/
def execIBltu (sq : Fin 8) (a : BitVec 4) (b : BitVec 4) (off : BitVec 18) (s : State) : Host.Outcome State Fault Refusal :=
  .next (s.yIssue sq.val (yI 0x24 a b off) (fun u => u.yBltu sq.val a b off))

/-- BGEU (05 R101). -/
def execIBgeu (sq : Fin 8) (a : BitVec 4) (b : BitVec 4) (off : BitVec 18) (s : State) : Host.Outcome State Fault Refusal :=
  .next (s.yIssue sq.val (yI 0x25 a b off) (fun u => u.yBgeu sq.val a b off))

/-- JAL (05 R101). -/
def execIJal (sq : Fin 8) (d : BitVec 4) (off : BitVec 22) (s : State) : Host.Outcome State Fault Refusal :=
  .next (s.yIssue sq.val (yJ 0x26 d off) (fun u => u.yJal sq.val d off))

/-- JALR (05 R101). -/
def execIJalr (sq : Fin 8) (d : BitVec 4) (a : BitVec 4) (imm : BitVec 18) (s : State) : Host.Outcome State Fault Refusal :=
  .next (s.yIssue sq.val (yI 0x27 d a imm) (fun u => u.yJalr sq.val d a imm))

/-- TGET (05 R101). -/
def execITget (sq : Fin 8) (tx : BitVec 2) (clk : BitVec 2) (s : State) : Host.Outcome State Fault Refusal :=
  .next (s.yIssue sq.val (yT 0x28 tx 0 0 clk) (fun u => u.yTget sq.val tx clk))

/-- TADD (05 R101). -/
def execITadd (sq : Fin 8) (tx : BitVec 2) (ty : BitVec 2) (g : BitVec 4) (s : State) : Host.Outcome State Fault Refusal :=
  .next (s.yIssue sq.val (yT 0x29 tx ty g 0) (fun u => u.yTadd sq.val tx ty g))

/-- TSUB (05 R101). -/
def execITsub (sq : Fin 8) (tx : BitVec 2) (ty : BitVec 2) (g : BitVec 4) (s : State) : Host.Outcome State Fault Refusal :=
  .next (s.yIssue sq.val (yT 0x2A tx ty g 0) (fun u => u.yTsub sq.val tx ty g))

/-- TMOV (05 R101). -/
def execITmov (sq : Fin 8) (tx : BitVec 2) (ty : BitVec 2) (s : State) : Host.Outcome State Fault Refusal :=
  .next (s.yIssue sq.val (yT 0x2B tx ty 0 0) (fun u => u.yTmov sq.val tx ty))

/-- TEXT (05 R101). -/
def execIText (sq : Fin 8) (ty : BitVec 2) (g : BitVec 4) (sel : BitVec 2) (s : State) : Host.Outcome State Fault Refusal :=
  .next (s.yIssue sq.val (yT 0x2C 0 ty g sel) (fun u => u.yText sq.val ty g sel))

/-- TINS (05 R101). -/
def execITins (sq : Fin 8) (tx : BitVec 2) (g : BitVec 4) (sel : BitVec 2) (s : State) : Host.Outcome State Fault Refusal :=
  .next (s.yIssue sq.val (yT 0x2D tx 0 g sel) (fun u => u.yTins sq.val tx g sel))

/-- TNEXT (05 R101). -/
def execITnext (sq : Fin 8) (tx : BitVec 2) (ty : BitVec 2) (g : BitVec 4) (s : State) : Host.Outcome State Fault Refusal :=
  .next (s.yIssue sq.val (yT 0x2E tx ty g 0) (fun u => u.yTnext sq.val tx ty g))

/-- TBLT (05 R101). -/
def execITblt (sq : Fin 8) (tx : BitVec 2) (ty : BitVec 2) (off : BitVec 18) (s : State) : Host.Outcome State Fault Refusal :=
  .next (s.yIssue sq.val (yW 0x2F tx ty 0 0 off) (fun u => u.yTblt sq.val tx ty off))

/-- AGET (05 R101). -/
def execIAget (sq : Fin 8) (ax : BitVec 2) (pd : BitVec 2) (s : State) : Host.Outcome State Fault Refusal :=
  .next (s.yIssue sq.val (yA 0x30 ax 0 0 pd 0) (fun u => u.yAget sq.val ax pd))

/-- ASET (05 R101). -/
def execIAset (sq : Fin 8) (ax : BitVec 2) (g : BitVec 4) (s : State) : Host.Outcome State Fault Refusal :=
  .next (s.yIssue sq.val (yA 0x31 ax 0 g 0 0) (fun u => u.yAset sq.val ax g))

/-- AREAD (05 R101). -/
def execIAread (sq : Fin 8) (ay : BitVec 2) (g : BitVec 4) (s : State) : Host.Outcome State Fault Refusal :=
  .next (s.yIssue sq.val (yA 0x32 0 ay g 0 0) (fun u => u.yAread sq.val ay g))

/-- AADD (05 R101). -/
def execIAadd (sq : Fin 8) (ax : BitVec 2) (ay : BitVec 2) (g : BitVec 4) (s : State) : Host.Outcome State Fault Refusal :=
  .next (s.yIssue sq.val (yA 0x33 ax ay g 0 0) (fun u => u.yAadd sq.val ax ay g))

/-- VGET (05 R101). -/
def execIVget (sq : Fin 8) (g : BitVec 4) (pd : BitVec 2) (s : State) : Host.Outcome State Fault Refusal :=
  .next (s.yIssue sq.val (yA 0x34 0 0 g pd 0) (fun u => u.yVget sq.val g pd))

/-- POST (05 R101). -/
def execIPost (sq : Fin 8) (tx : BitVec 2) (g : BitVec 4) (s : State) : Host.Outcome State Fault Refusal :=
  .next (s.yIssue sq.val (yT 0x35 tx 0 g 0) (fun u => u.yPost sq.val tx g))

/-- APOST (05 R101). -/
def execIApost (sq : Fin 8) (ax : BitVec 2) (g : BitVec 4) (pd : BitVec 2) (dir : Fin 3) (s : State) : Host.Outcome State Fault Refusal :=
  .next (s.yIssue sq.val (yA 0x36 ax 0 g pd (BitVec.ofNat 2 dir.val)) (fun u => u.yApost sq.val ax g pd dir))

/-- WAITT (05 R101). -/
def execIWaitt (sq : Fin 8) (tx : BitVec 2) (s : State) : Host.Outcome State Fault Refusal :=
  .next (s.yIssue sq.val (yT 0x37 tx 0 0 0) (fun u => u.yWaitt sq.val tx))

/-- WAITA (05 R101). -/
def execIWaita (sq : Fin 8) (ax : BitVec 2) (pd : BitVec 2) (dir : Fin 3) (tt : BitVec 2) (off : BitVec 18) (s : State) : Host.Outcome State Fault Refusal :=
  .next (s.yIssue sq.val (yW 0x38 ax pd (BitVec.ofNat 2 dir.val) tt off) (fun u => u.yWaita sq.val ax pd dir tt off))

/-- WAITE (05 R101). -/
def execIWaite (sq : Fin 8) (g : BitVec 4) (tt : BitVec 2) (off : BitVec 18) (s : State) : Host.Outcome State Fault Refusal :=
  .next (s.yIssue sq.val (yI 0x39 g (BitVec.ofNat 4 tt.toNat) off) (fun u => u.yWaite sq.val g tt off))

/-- GRX (05 R101). -/
def execIGrx (sq : Fin 8) (d : BitVec 4) (s : State) : Host.Outcome State Fault Refusal :=
  .next (s.yIssue sq.val (yR 0x3A d 0 0) (fun u => u.yGrx sq.val d))

/-- GID (05 R101). -/
def execIGid (sq : Fin 8) (d : BitVec 4) (a : BitVec 4) (s : State) : Host.Outcome State Fault Refusal :=
  .next (s.yIssue sq.val (yR 0x3B d a 0) (fun u => u.yGid sq.val d a))

/-- GTX (05 R101). -/
def execIGtx (sq : Fin 8) (a : BitVec 4) (b : BitVec 4) (s : State) : Host.Outcome State Fault Refusal :=
  .next (s.yIssue sq.val (yR 0x3C 0 a b) (fun u => u.yGtx sq.val a b))

/-- GREL (05 R101). -/
def execIGrel (sq : Fin 8) (a : BitVec 4) (s : State) : Host.Outcome State Fault Refusal :=
  .next (s.yIssue sq.val (yR 0x3D 0 a 0) (fun u => u.yGrel sq.val a))

/-- WAITT_DONE (05 R105). -/
def execWaittDone (sq : Fin 8) (s : State) : Host.Outcome State Fault Refusal := .next (s.waittDone sq.val)

/-- WAITA_END (05 R106). -/
def execWaitaEnd (sq : Fin 8) (s : State) : Host.Outcome State Fault Refusal := .next (s.waitaEnd sq.val)

/-- WAITE_END (05 R107). -/
def execWaiteEnd (sq : Fin 8) (s : State) : Host.Outcome State Fault Refusal := .next (s.waiteEnd sq.val)

end Sys2Proof.Machine
end

