-- ==== Sys2Proof/Machine/Fabric.lean ====
section
/-! DEFINITION. The register fabric (02 R21 to R37, R45): an access of an initiator, judged by its width and alignment, then by the
rights of its role, then performed; guarded pairs; the values that reads deliver; the table windows. -/

namespace Sys2Proof.Machine

/-! ### Rights (R45) -/

/-- 11 R271, 12 R299: a register that Carr alone writes. -/
def carrOnly (a : Nat) : Bool :=
  (decide (0x1802100 ≤ a) && decide (a < 0x1802110)) || (decide (0x1408800 ≤ a) && decide (a < 0x1408c00)) ||
  a == 0x1408c04

/-- R45: pend, storm, ff_valid and the event counts. -/
def evtClearable (a : Nat) : Bool :=
  (decide (0x100000 ≤ a) && decide (a < 0x100400) && a % 16 == 8) || a == EVT_CNT_CLR_LO.a || a == EVT_CNT_CLR_HI.a

/-- R44, R47: the registers through which any initiator enters and leaves a role. A replacement of a secret is not among them. -/
def roleEntry (a : Nat) (w : Word) : Bool :=
  a == ROL_CTRL.a || a == rolChal || a == rolChal + 4 || a == rolResp + 4 ||
  (decide (rolResp + 0x20 ≤ a) && decide (a < rolResp + 0x40)) ||
  (a == rolResp && fldGet w MBX_CTRL.op != 2 && fldGet w MBX_CTRL.op != 3)

/-- A request to a read mailbox, or a clear of its flags: part of reading it. -/
def readMailbox : RegKind → Bool
  | .mctrl m => m.rd
  | .mstat m => m.rd
  | _ => false

/-- R45: initiator `i` may write `w` at `a`. -/
def State.mayWrite (s : State) (i a : Nat) (w : Word) : Bool :=
  let r := s.roleOf i
  if a = ROL_LC_REQ.a ∨ a = ROL_LC_REQ.a + 4 then r == 3
  else if carrOnly a then i == 1 && r == 2
  else r == 2 || roleEntry a w || (r == 1 && evtClearable a) || (r != 0 && readMailbox (kindOf a)) ||
    (a == SYS_BOOT_CTRL.a && s.bootWindow)

/-- R45: initiator `i` may read `a`: identification and the ROL registers but the audit log need no role. A Maker session in FIELD
reads as any other (R50, log entry 50). -/
def State.mayRead (s : State) (i a : Nat) : Bool :=
  s.roleOf i != 0 || a == SYS_ID.a || a == SYS_DEVID_LO.a || a == SYS_DEVID_HI.a ||
  (blockOf a == 2 && !(decide (rolAud ≤ a) && decide (a < rolAud + 0x40)))

/-- R45: the record of an access outside the rights. -/
def State.denied (s : State) (i : Nat) : State := s.raise 60 1 i

/-! ### Integrity faults of one access (R29, R34) -/

/-- A fault put in order of its address. -/
def insFault (e : Integ × Nat) : List (Integ × Nat) → List (Integ × Nat)
  | [] => [e]
  | x :: r => if e.2 < x.2 then e :: x :: r else x :: insFault e r

/-- R34: faults of one cycle, the lowest address first. -/
def State.integAll (s : State) (b : Nat) (l : List (Integ × Nat)) : State :=
  (l.foldl (fun m e => insFault e m) []).foldl (fun (u : State) e => u.integ b e.1 e.2) s

/-- R29: the guarded register that a word address is a half of. -/
def guardBase (a : Nat) : Option Nat :=
  match kindOf a with
  | .reg r => if r.guard then some a else none
  | .comp _ => some (a - 4)
  | _ => none

/-- R29: the pair that a write in block `b` fails. -/
def State.broken (s : State) (b : Nat) : List (Integ × Nat) :=
  match s.guardOf b with
  | some g => [(.guardFail, g.a)]
  | none => []

/-- R29: a narrow or unaligned half fails its pair: a single failure where that pair is the one pending. -/
def State.halfFault (s : State) (a : Nat) : List (Integ × Nat) :=
  match guardBase (a / 4 * 4) with
  | none => []
  | some g => match s.guardOf (blockOf a) with
    | some p => if p.a = g then [] else [(.guardFail, g)]
    | none => [(.guardFail, g)]

/-- R22, R29: a write rejected for `k`. -/
def State.rejectWrite (s : State) (k : Integ) (a : Nat) : State :=
  let b := blockOf a
  let half := if k = .unmapped then [] else s.halfFault a
  (s.setGuard b none).integAll b ((k, a) :: s.broken b ++ half)

/-! ### Writes in the register space -/

/-- R28 step 1: the first half of a guarded pair; it fails a pair that is pending in its block. -/
def State.guardOpen (s : State) (i a : Nat) (v : Word) : State :=
  (s.guardBreak (blockOf a)).setGuard (blockOf a) (some ⟨i, a, v, s.now + 320⟩)

/-- R28, R29: a write to the complement of the guarded register at `a`. INTEG_ADDR of a failed pair is the address of its guarded
register (log entry 48). -/
def State.guardClose (s0 : State) (r : RegRow) (i a : Nat) (v : Word) : State :=
  let b := blockOf a
  let s := match s0.guardOf b with
    | some g => if g.deadline < s0.now then s0.guardBreak b else s0
    | none => s0
  match s.guardOf b with
  | none => s.integ b .guardFail a
  | some g =>
    let s1 := s.setGuard b none
    if g.a ≠ a then s1.integAll b [(.guardFail, g.a), (.guardFail, a)]
    else if g.i = i ∧ g.v = ~~~v then s1.regCommit r i a g.v none
    else s1.integ b .guardFail a

/-- R22, R45: an aligned 32-bit write into the register space; whether it was rejected or denied. `race` is the value that hardware
writes to the register's RWH fields in the same cycle (R26). -/
def State.write32 (s : State) (i a : Nat) (v : Word) (race : Option Word) : State × Bool :=
  let b := blockOf a
  match kindOf a with
  | .none => (s.rejectWrite .unmapped a, true)
  | k =>
    if !s.mayWrite i a v then ((s.guardBreak b).denied i, true)
    else match k with
      | .comp r => (s.guardClose r i (a - 4) v, false)
      | .reg r =>
        if r.guard then (s.guardOpen i a v, false)
        else if r.base = SEQ_CTRL.a 0 then ((s.guardBreak b).seqCtrl ((a - r.base) / r.s1) v, false)
        else (s.coreWrite i a v race, false)
      | _ => (s.coreWrite i a v race, false)

/-! ### Reads in the register space (R22, R25, R30, R35) -/

/-- EVT_PEND: the pend bits of the sources from `base` on. -/
def State.pendWord (s : State) (base : Nat) : Nat :=
  (List.range 32).foldl (fun m k => if fldGet (s.reg (EVT_SRC_STAT.a (base + k))) EVT_SRC_STAT.pend = 1 then m + 2 ^ k else m) 0

/-- The registers of the blocks 0 to 5 and 12, 13 whose value is derived; `w` the stored bits. -/
def State.viewCtl (s : State) (b k i : Nat) (w : Word) : Word :=
  if b = EVT_PEND_LO.a then BitVec.ofNat 32 (s.pendWord 0)
  else if b = EVT_PEND_HI.a then BitVec.ofNat 32 (s.pendWord 32)
  else if b = ROL_STAT.a then s.rolStat i
  else if b = ROL_LC.a then s.rolLc
  else if b = TIM_DOM_STAT.a 0 then fldSet w TIM_DOM_STAT.since_kick (s.sinceKick k)
  else if b = TIM_INC.a 0 ∧ k = 3 then BitVec.ofInt 32 s.wktInc
  else if b = TIM_INC_INT.a 0 ∧ k = 3 then fldSet w TIM_INC_INT.int (s.wktInc.toNat / nsU)
  else if b = PAIR_STAT.a then fldSet w PAIR_STAT.fit (b2n s.pairFit)
  else w

/-- 07: frames that hold the DRAINING bank of a pipeline. -/
def State.drainCount (s : State) (p : Nat) : Nat :=
  let b := 1 - s.activeBank p
  if s.bankState p b = 2 then satTo 0xffff (s.holders p b) else 0

/-- The registers of the blocks 6 to 11 whose value is derived; `p` the pipeline, `k` and `j` the indices. -/
def State.viewNet (s : State) (b p k j : Nat) (w : Word) : Word :=
  if b = CLS_BANK_STAT.a 0 then fldSet w CLS_BANK_STAT.drain_count (s.drainCount p)
  else if b = POL_METER_TOK.a 0 0 then BitVec.ofInt 32 (s.meterTok p k / 8000000)
  else if b = QM_POOL.a then fldSet w QM_POOL.free s.poolFree.toNat
  else if b = QM_DESC_STAT.a then
    fldSet (fldSet w QM_DESC_STAT.desc_free (8192 - s.descUsed)) QM_DESC_STAT.qent_free (32768 - s.qentUsed)
  else if b = QM_PORT_OCC.a 0 then
    fldSet (fldSet w QM_PORT_OCC.mere_cells
      (sumOf ((s.copies.filter (fun c => c.port == k && !c.peat)).map (fun c => (s.frame c.fid).cells))))
      QM_PORT_OCC.reserve_used (s.resvUsed k)
  else if b = SHP_CREDIT.a 0 0 then BitVec.ofInt 32 (s.creditOf k j * 256 / 1000000)
  else if b = CIP_TXSC.a 0 then fldSet (fldSet w CIP_TXSC.an_valid (s.anValid false k)) CIP_TXSC.an_exh (s.anExh k)
  else if b = CIP_RXSC_CFG.a 0 then fldSet w CIP_RXSC_CFG.an_valid (s.anValid true k)
  else if b = CIP_POOL_STAT.a then fldSet w CIP_POOL_STAT.sa_free s.saFree
  else if b = ETH_T1S_STAT.a 20 then
    fldSet w ETH_T1S_STAT.cur_id (if fldGet w ETH_T1S_STAT.plca_status = 1 then (s.port (20 + k)).toId else 0)
  else w

/-- What a read of the register at `a` delivers to initiator `i`, and the state after it: an RC field clears. -/
def State.readReg (s : State) (r : RegRow) (i a : Nat) : State × Word :=
  let o := foldPipe a - r.base
  let w := s.reg a
  let k := o / r.s1
  let b := blockOf a
  let v := if b ≤ 5 ∨ b = 12 ∨ b = 13 then s.viewCtl r.base k i w else s.viewNet r.base (b - 6) k (o % r.s1 / r.s2) w
  (if r.rc = 0#32 then s else s.setReg a (w &&& ~~~r.rc), v &&& ~~~(r.wo ||| r.w1s))

/-- R35: a read of data word `k` of a read mailbox; that of the highest word clears VALID. -/
def State.readData (s : State) (m : MbxRow) (a k : Nat) : State :=
  let base := a - 0x20 - 4 * k
  if fldGet (s.reg (base + 4)) MBX_STAT.valid = 0 then s.setF (base + 4) MBX_STAT.stale_read 1
  else if k + 1 = m.n then
    let s1 := s.setF (base + 4) MBX_STAT.valid 0
    if base = fdbLnot 0 then s1.lnotRead 0 else if base = fdbLnot 1 then s1.lnotRead 1 else s1
  else s

/-- R22, R45: a read of the 32-bit word that holds the byte at `a`; the word, and whether the read was rejected or denied. -/
def State.read32 (s : State) (i a : Nat) : State × Nat × Bool :=
  let b := a / 4 * 4
  match kindOf b with
  | .none => (s.integ (blockOf a) .unmapped a, 0, true)
  | k =>
    if !s.mayRead i b then (s.denied i, 0, true)
    else match k with
      | .reg r => ((s.readReg r i b).1, (s.readReg r i b).2.toNat, false)
      | .comp _ => (s, (~~~(s.reg (b - 4))).toNat, false)
      | .mdata m j => if m.rd then (s.readData m b j, (s.reg b).toNat, false) else (s, 0, false)
      | _ => (s, (s.reg b).toNat, false)

/-! ### Table windows -/

/-- What a table window holds at an address: a rule or pattern of bank `b` of pipeline `p`, a counter (its key in `ruleCnt`), the
program of a sequencer, the table memory, the message RAM, the SYS_BOOT window. -/
inductive WinKind where
  | rule (p b : Nat)
  | count (k : Nat)
  | prog (n : Nat)
  | table
  | msg
  | boot
  | none
deriving DecidableEq, Repr

/-- The windows (06 R127, 07 R156, R162; 13 R305; 17 R397). -/
def winAt (a : Nat) : WinKind :=
  if a < 0x2000000 then .none
  else if a < 0x2100000 then
    let o := a - 0x2000000
    let x := o % 0x40000
    if x < 0x28000 ∨ (0x30000 ≤ x ∧ x < 0x33000) then .rule (o / 0x80000) (o % 0x80000 / 0x40000) else .none
  else if a < 0x2200000 then
    let o := a - 0x2100000
    if o % 0x80000 < 0x8000 then .count ((o / 0x80000 * 2048 + o % 0x80000 / 16) * 2 + o % 16 / 8) else .none
  else if a < 0x3800000 then .none
  else if a < 0x3900000 then .prog ((a - 0x3800000) / 0x20000)
  else if a < 0x3a00000 then .table
  else if a < 0x3a40000 then .msg
  else if 0x3c00000 ≤ a ∧ a < 0x4000000 then .boot
  else .none

/-- 13 R306: a word of the message RAM as a write leaves it: W3 of a CAN descriptor and bit 31 of a LIN entry's E1 are the
device's. -/
def State.msgWord (s : State) (a v : Nat) : Nat :=
  let o := a - 0x3a00000
  if o < 0x6000 ∧ o % 16 = 12 then s.winW a
  else if 0x6000 ≤ o ∧ o < 0x8000 ∧ o % 16 = 4 then s.winW a / 2 ^ 31 * 2 ^ 31 + v % 2 ^ 31
  else v

/-- `n` bytes, 4 or 8, written into the byte store behind the windows. -/
def State.winPut (s : State) (a n v : Nat) : State := { s with win := memPut (fun _ => 0#8) s.win a (leBytes n v) }

/-- R22, R127, R162, R166, R305, R397: an aligned write of `n` bytes, 4 or 8, into a table window; whether a Carr initiator
receives a bus error. -/
def State.winWrite (s : State) (i a n v : Nat) : State × Bool :=
  match winAt a with
  | .none => (s.integ 16 .unmapped a, true)
  | .boot =>
    if s.bootWindow then ({ s with sram := memPut (fun _ => 0#8) s.sram (sramBase + (a - 0x3c00000)) (leBytes n v) }, false)
    else (s.integ 16 .unmapped a, true)
  | k =>
    if s.roleOf i ≠ 2 then (s.denied i, true)
    else match k with
      | .rule p b =>
        if s.bankState p b = 2 then
          ((s.setF (CLS_BANK_STAT.a p) CLS_BANK_STAT.wr_busy 1).raise (41 + p) 0x24 b, true)
        else
          let s1 := s.ruleWrite p b a (v % 2 ^ 32)
          (if n = 8 then s1.ruleWrite p b (a + 4) (v / 2 ^ 32) else s1, false)
      | .count c =>
        if n = 8 ∧ v = 0 ∧ c % 2 = 0 then
          ({ s with ruleCnt := Cells.set (fun _ => 0) (Cells.set (fun _ => 0) s.ruleCnt c 0) (c + 1) 0 }, false)
        else (s, false)
      | .prog q =>
        if s.seqState q = 1 ∨ s.seqState q = 2 then (s.raise (33 + q) 10 0, true) else (s.winPut a n v, false)
      | .msg =>
        let s1 := s.winPut a 4 (s.msgWord a (v % 2 ^ 32))
        (if n = 8 then s1.winPut (a + 4) 4 (s1.msgWord (a + 4) (v / 2 ^ 32)) else s1, false)
      | _ => (s.winPut a n v, false)

/-- R162: the latch of an initiator. -/
def State.setLatch (s : State) (i : Nat) (x : Option (Nat × Nat)) : State :=
  { s with latch := Cells.set (fun _ => none) s.latch i x }

/-- R162: a read of `n` bytes of counter word `c` at byte `o` of its 8 bytes; an aligned 64-bit read of a frame count latches the
byte count for one such read of it by the same initiator. -/
def State.countRead (s : State) (i c o n : Nat) : State × Nat :=
  let v := Cells.get (fun _ => 0) s.ruleCnt c
  if n = 8 ∧ c % 2 = 0 then (s.setLatch i (some (c + 1, Cells.get (fun _ => 0) s.ruleCnt (c + 1))), v)
  else match Cells.get (fun _ => none) s.latch i with
    | some x => if n = 8 ∧ x.1 = c then (s.setLatch i none, x.2) else (s, v / 2 ^ (8 * o) % 2 ^ (8 * n))
    | none => (s, v / 2 ^ (8 * o) % 2 ^ (8 * n))

/-- R22: an aligned read of `n` bytes from a table window; the value, and whether it was rejected or denied. -/
def State.winRead (s : State) (i a n : Nat) : State × Nat × Bool :=
  match winAt a with
  | .none => (s.integ 16 .unmapped a, 0, true)
  | .boot =>
    if s.bootWindow then (s, memGet (fun _ => 0#8) s.sram (sramBase + (a - 0x3c00000)) n, false)
    else (s.integ 16 .unmapped a, 0, true)
  | k =>
    if s.roleOf i = 0 then (s.denied i, 0, true)
    else match k with
      | .count c => ((s.countRead i c (a % 8) n).1, (s.countRead i c (a % 8) n).2, false)
      | _ => (s, memGet (fun _ => 0#8) s.win a n, false)

/-! ### Accesses (R22, R23) -/

/-- R23: a Carr initiator receives a bus error. -/
def State.carrError (s : State) (i : Nat) (bad : Bool) : State := if bad && i == 1 then s.emit (.busError i) else s

/-- R22: a write of `n` = 1, 2, 4 or 8 bytes by initiator `i`; whether it was rejected or denied. An access that several rows of the
table reject raises the first of unaligned, narrow and unmapped (log entry 48). The two halves of a split access run in one step
(log entry 49). -/
def State.writeAt (s : State) (i a n v : Nat) (race : Option Word) : State × Bool :=
  if a % n ≠ 0 then (s.rejectWrite .unaligned a, true)
  else if n < 4 then (s.rejectWrite .narrowWrite a, true)
  else if 0x2000000 ≤ a then s.winWrite i a n v
  else if n = 4 then s.write32 i a (BitVec.ofNat 32 v) race
  else
    let x := s.write32 i a (BitVec.ofNat 32 v) race
    let y := x.1.write32 i (a + 4) (BitVec.ofNat 32 (v / 2 ^ 32)) none
    (y.1, x.2 || y.2)

/-- R22: a read of `n` bytes by initiator `i`: a narrow one delivers its byte lanes; an unaligned one raises unaligned alone (log entry 48). -/
def State.readAt (s : State) (i a n : Nat) : State × Nat × Bool :=
  if a % n ≠ 0 then (s.integ (blockOf a) .unaligned a, 0, true)
  else if 0x2000000 ≤ a then s.winRead i a n
  else if n ≤ 4 then
    let x := s.read32 i a
    (x.1, x.2.1 / 2 ^ (8 * (a % 4)) % 2 ^ (8 * n), x.2.2)
  else
    let x := s.read32 i a
    let y := x.1.read32 i (a + 4)
    (y.1, x.2.1 + y.2.1 * 2 ^ 32, x.2.2 || y.2.2)

/-- A write on the bus of initiator `i`; the host reaches BAR2 and the configuration space beside the register space (12 R295). -/
def State.busWrite (s : State) (i a n v : Nat) (race : Option Word) : State :=
  if i = 0 ∧ pcieOwn a = true then s.pcieWrite a n v
  else
    let x := s.writeAt i a n v race
    x.1.carrError i x.2

/-- A read on the bus of initiator `i`, and what the initiator receives. -/
def State.busRead (s : State) (i a n : Nat) : State :=
  if i = 0 ∧ pcieOwn a = true then s.emit (.readData 0 (s.pcieRead a n))
  else
  let x := s.readAt i a n
  if x.2.2 && i == 1 then x.1.emit (.busError i) else x.1.emit (.readData i x.2.1)

/-- A plain 32-bit write on the bus. -/
def State.poke (s : State) (i a : Nat) (v : Word) : State := s.busWrite i a 4 v.toNat none

/-- A guarded write on the bus: both halves in succession (R28). -/
def State.pokeGuarded (s : State) (i a : Nat) (v : Word) : State := (s.poke i a v).poke i (a + 4) (~~~v)

/-- A mailbox request on the bus: op, arg and req in one write (R35, R37). -/
def State.request (s : State) (i m op arg : Nat) : State := s.poke i m (BitVec.ofNat 32 (arg * 65536 + op * 256 + 1))

end Sys2Proof.Machine
end

