-- ==== Sys2Proof/Machine/CarrBus.lean ====
section
/-! DEFINITION. What a transaction that Carr releases does on its bus (14 R324, R327, R341, R342): initiator 1 of the register
fabric, Carr SRAM, the LPDDR5X, the boot ROM, the flash and Carr's local registers. -/

namespace Sys2Proof.Machine

/-- R324: the regions of Carr's address map. -/
inductive CarrRegion where
  | rom
  | sram
  | device
  | localRegs
  | flash
  | dram
  | none
deriving DecidableEq, Repr

/-- R324: the region that holds `n` bytes at `a`. -/
def carrRegion (a n : Nat) : CarrRegion :=
  if a + n ≤ 0x10000 then .rom
  else if inSram a n then .sram
  else if 0x40000000 ≤ a ∧ a + n ≤ 0x44000000 then .device
  else if 0x50000000 ≤ a ∧ a + n ≤ 0x50010000 then .localRegs
  else if 0x60000000 ≤ a ∧ a + n ≤ 0x70000000 then .flash
  else if inDram a n then .dram
  else .none

/-- An access-fault or bus-error exception, which all three cores take (R324, R341). -/
def State.carrFaulted (s : State) : State := s.emit (.busError 1)

/-- The bytes of a memory region. -/
def State.carrMem (s : State) (r : CarrRegion) (a n : Nat) : List Byte :=
  match r with
  | .rom => (List.range n).map (fun k => Config.bootRom (a + k))
  | .sram => s.sramRead a n
  | .flash => s.flashRead (a - 0x60000000) n
  | .dram => memBytes (fun _ => 0#8) s.dram (a - dramBase) n
  | _ => []

/-- A byte of Carr SRAM or of the LPDDR5X written. -/
def State.carrPut (s : State) (r : CarrRegion) (a : Nat) (b : Byte) : State :=
  if r = .sram then { s with sram := Cells.set (fun _ => 0#8) s.sram a b }
  else { s with dram := Cells.set (fun _ => 0#8) s.dram (a - dramBase) b }

/-- The byte lanes of a transaction written: lane `k` of `data` at byte `k` of the aligned 8 bytes. -/
def State.carrLanes (s : State) (r : CarrRegion) (a st data : Nat) : State :=
  (List.range 8).foldl (fun (u : State) k =>
    if nbit st k then u.carrPut r (a / 8 * 8 + k) (BitVec.ofNat 8 (data / 2 ^ (8 * k))) else u) s

/-- R341, R342: the error that a read of SRAM or of the LPDDR5X meets: 1 corrected, 2 uncorrectable. -/
def State.carrEcc (s : State) (r : CarrRegion) (a ecc bank : Nat) : State :=
  if ecc = 0 then s
  else if r = .sram then
    (if ecc = 1 then s.bump CPX_SRAM_ECC.a CPX_SRAM_ECC.corr
     else s.sramError bank)
  else if r = .dram then
    (if ecc = 1 then s.bump MEM_ECC_CNT.a MEM_ECC_CNT.corr else s.memError 0 (a - dramBase))
  else s

/-- The result of an atomic operation on an old value and an operand of `w` bits, in the encoding of the A extension (R323). -/
def amoResult (op w old v : Nat) : Option Nat :=
  let lt (x y : Nat) : Bool := decide (sint w x < sint w y)
  if op = 0 then some ((old + v) % 2 ^ w)
  else if op = 1 then some v
  else if op = 4 then some (old ^^^ v)
  else if op = 8 then some (old ||| v)
  else if op = 12 then some (old &&& v)
  else if op = 16 then some (if lt old v then old else v)
  else if op = 20 then some (if lt old v then v else old)
  else if op = 24 then some (min old v)
  else if op = 28 then some (max old v)
  else none

/-- The reservation of LR set or ended. -/
def State.setLr (s : State) (x : Option Nat) : State :=
  let k := s.carr
  { s with carr := { k with lr := x } }

/-- An atomic transaction of `n` bytes at `a` on SRAM or the LPDDR5X: LR, SC or a read-modify-write. -/
def State.carrAtomic (s : State) (r : CarrRegion) (t : CarrTx) (a n : Nat) : State :=
  let old := leNat (s.carrMem r a n)
  let v := t.data.toNat / 2 ^ (8 * (a % 8)) % 2 ^ (8 * n)
  let op := t.op.toNat
  if n ≠ 4 ∧ n ≠ 8 then s.carrFaulted
  else if op = 2 then (s.setLr (some a)).emit (.readData 1 old)
  else if op = 3 then
    (if s.carr.lr = some a then ((s.setLr none).carrLanes r a t.strobe.toNat t.data.toNat).emit (.readData 1 0)
     else (s.setLr none).emit (.readData 1 1))
  else match amoResult op (8 * n) old v with
    | some x =>
      ((List.range n).foldl (fun (u : State) k => u.carrPut r (a + k) (BitVec.ofNat 8 (x / 2 ^ (8 * k)))) s).emit (.readData 1 old)
    | none => s.carrFaulted

/-- R324: the region lets a transaction of kind `k` in: 0 read, 1 fetch, 2 write, 3 atomic. -/
def regionLets (r : CarrRegion) (k n : Nat) : Bool :=
  match r with
  | .rom => k == 0 || k == 1
  | .sram => true
  | .dram => true
  | .flash => k == 0
  | .device => k == 0 || k == 2
  | .localRegs => (k == 0 || k == 2) && n == 4
  | .none => false

/-- R327: a released transaction acts on memory and devices. Carr's local registers deliver an open value. -/
def State.release (s : State) (t : CarrTx) (ecc bank : Nat) : State :=
  let n := 2 ^ t.size.toNat
  let a := t.addr.toNat
  let k := t.kind.val
  let r := carrRegion a n
  if !regionLets r k n then s.carrFaulted
  else if r = .device then
    (if 8 < n then s.carrFaulted
     else if k = 0 then s.busRead 1 (a - 0x40000000) n
     else s.busWrite 1 (a - 0x40000000) n (t.data.toNat / 2 ^ (8 * (a % 8)) % 2 ^ (8 * n)) none)
  else if r = .localRegs then (if k = 0 then s.fresh.2.emit (.readData 1 (s.fresh.1.toNat % 2 ^ 32)) else s)
  else if k = 2 then s.carrLanes r a t.strobe.toNat t.data.toNat
  else
    let s1 := s.carrEcc r a ecc bank
    if ecc = 2 ∧ (r = .sram ∨ r = .dram) then s1.carrFaulted
    else if k = 3 then s1.carrAtomic r t a n
    else s1.emit (.readData 1 (leNat (s1.carrMem r a n)))

/-- CARR_TRANSACTION_COMPARE (R329): the transaction of each position; `fault` 1 a comparator disagreement, 2 to 4 a parity fault in
the FIFO of a position; `ecc` and `bank` the error that a read of memory meets. -/
def execCarrTransactionCompare (a b c : CarrTx) (fault : Fin 5) (ecc : Fin 3) (bank : Fin 16) (s : State) :
    Host.Outcome State Fault Refusal :=
  let r := s.carrVote a b c fault.val
  match r.2 with
  | some t => .next (r.1.release t ecc.val bank.val)
  | none => .next r.1

end Sys2Proof.Machine
end

