-- ==== Sys2Proof/Machine/CtlRows.lean ====
section
/-! DEFINITION. Commands over the register fabric: the software accesses of chapters 02 to 06, each by initiator `i` through the fabric. -/

namespace Sys2Proof.Machine

/-! ### Parity, guarded pairs and storm windows (02 R28 to R33, R41) -/

/-- The lowest bit of the field that holds bit `k`; `cut` marks the lowest bits of the fields. -/
def fieldLow (cut : Word) : Nat → Nat
  | 0 => 0
  | k + 1 => if nbit cut.toNat (k + 1) then k + 1 else fieldLow cut k

/-- The bits of every field that holds a bit of `m`. -/
def fieldSpread (cut m : Word) : Word :=
  (List.range 32).foldl (fun w k =>
    if (List.range 32).any (fun j => nbit m.toNat j && fieldLow cut j == fieldLow cut k) then w ||| BitVec.ofNat 32 (2 ^ k) else w) 0#32

/-- The parity bookkeeping of a register set. -/
def State.setPar (s : State) (a : Nat) (p : ParSt) : State := { s with par := Cells.set (fun _ => {}) s.par a p }

/-- R31 to R33: the register at `a` shows flipped bits. In a T field of which two copies agree they wait for their restore; in any
other field the stored bits are flipped and the field enters safe behaviour, with the effect that its new value has in its block. -/
def State.parityScan (s : State) (a : Nat) (flip : Word) (agree : Bool) : State :=
  match kindOf a with
  | .reg r =>
    let m := flip &&& r.par
    let t := if agree then m &&& r.tri else 0#32
    let n := m &&& ~~~t
    let p := s.parOf a
    let s1 := if t = 0#32 then s else s.setPar a { p with vote := p.vote ||| t }
    if n = 0#32 then s1
    else
      let q := s1.parOf a
      let s2 := ((s1.setReg a (s1.reg a ^^^ n)).setPar a { q with bad := q.bad ||| (fieldSpread r.cut n &&& r.par) }).integ (blockOf a) .parityFault a
      if s2.hw a = s.hw a then s2 else s2.useChanged r a (s.hw a)
  | _ => s

/-- R32: the T fields of the register at `a` are restored. -/
def State.parityRestore (s : State) (a : Nat) : State :=
  let p := s.parOf a
  if p.vote = 0#32 then s else (s.setPar a { p with vote := 0#32 }).integ (blockOf a) .parityRestored a

/-- R29: the pair pending in block `b` has waited 256 REG cycles. -/
def State.guardTimeout (s : State) (b : Nat) : State :=
  match s.guardOf b with
  | some g => if g.deadline < s.now then s.guardBreak b else s
  | none => s

/-- R41: the storm window of source `n` closes. -/
def State.stormEnd (s : State) (n : Nat) : State :=
  let e := s.evtSt n
  if e.winOpen ∧ e.winEnd ≤ s.now then s.setEvt n { e with winOpen := false, winCnt := 0 } else s

/-- GUARD_TIMEOUT (R29). -/
def execGuardTimeout (b : Fin 17) (s : State) : Host.Outcome State Fault Refusal := .next (s.live (s.guardTimeout b.val))

/-- PARITY_SCAN (R31): the scan, or a read or use, meets the register at `a` with the bits `flip` flipped; `agree` says that two copies
of its T fields agree. -/
def execParityScan (a flip : BitVec 32) (agree : Bool) (s : State) : Host.Outcome State Fault Refusal :=
  .next (s.live (s.parityScan a.toNat flip agree))

/-- PARITY_RESTORE (R32). -/
def execParityRestore (a : BitVec 32) (s : State) : Host.Outcome State Fault Refusal := .next (s.live (s.parityRestore a.toNat))

/-- STORM_WINDOW_END (R41). -/
def execStormWindowEnd (n : Fin 64) (s : State) : Host.Outcome State Fault Refusal := .next (s.live (s.stormEnd n.val))

/-! ### Software accesses -/

/-- REGISTER_WRITE (R25): a write of 2^`w` bytes; `race` is what hardware writes to the RWH fields in the same cycle (R26). -/
def execRegisterWrite (i : Fin 3) (a : BitVec 32) (w : Fin 4) (v : BitVec 64) (race : Option (BitVec 32)) (s : State) :
    Host.Outcome State Fault Refusal :=
  .next (s.live (s.busWrite i.val a.toNat (2 ^ w.val) (v.toNat % 2 ^ (8 * 2 ^ w.val)) race))

/-- RC_COUNTER_READ (R25). -/
def execRcCounterRead (i : Fin 3) (a : BitVec 32) (w : Fin 4) (s : State) : Host.Outcome State Fault Refusal :=
  .next (s.live (s.busRead i.val a.toNat (2 ^ w.val)))

/-- GUARD_FIRST_HALF (R28): the value at A. -/
def execGuardFirstHalf (i : Fin 3) (a : BitVec 32) (v : BitVec 32) (s : State) : Host.Outcome State Fault Refusal :=
  .next (s.live (s.poke i.val a.toNat v))

/-- GUARD_COMMIT (R28): the complement at A + 0x4. -/
def execGuardCommit (i : Fin 3) (a : BitVec 32) (v : BitVec 32) (s : State) : Host.Outcome State Fault Refusal :=
  .next (s.live (s.poke i.val (a.toNat + 4) v))

/-- MAILBOX_DATA_READ (R35). -/
def execMailboxDataRead (i : Fin 3) (a : BitVec 32) (w : Fin 4) (s : State) : Host.Outcome State Fault Refusal :=
  .next (s.live (s.busRead i.val a.toNat (2 ^ w.val)))

/-- MAILBOX_DATA_WRITE (R37). -/
def execMailboxDataWrite (i : Fin 3) (a : BitVec 32) (w : Fin 4) (v : BitVec 64) (s : State) : Host.Outcome State Fault Refusal :=
  .next (s.live (s.busWrite i.val a.toNat (2 ^ w.val) (v.toNat % 2 ^ (8 * 2 ^ w.val)) none))

/-- CLEAR_PEND (R42). -/
def execClearPend (i : Fin 3) (n : Fin 64) (s : State) : Host.Outcome State Fault Refusal :=
  .next (s.live (s.poke i.val (EVT_SRC_STAT.a n.val) (fldMask EVT_SRC_STAT.pend)))

/-- CLEAR_STORM (R41). -/
def execClearStorm (i : Fin 3) (n : Fin 64) (s : State) : Host.Outcome State Fault Refusal :=
  .next (s.live (s.poke i.val (EVT_SRC_STAT.a n.val) (fldMask EVT_SRC_STAT.storm)))

/-- CLEAR_FF_VALID (R39). -/
def execClearFfValid (i : Fin 3) (n : Fin 64) (s : State) : Host.Outcome State Fault Refusal :=
  .next (s.live (s.poke i.val (EVT_SRC_STAT.a n.val) (fldMask EVT_SRC_STAT.ff_valid)))

/-- EVENT_COUNT_CLEAR (R40). -/
def execEventCountClear (i : Fin 3) (n : Fin 64) (s : State) : Host.Outcome State Fault Refusal :=
  .next (s.live (s.poke i.val (if n.val < 32 then EVT_CNT_CLR_LO.a else EVT_CNT_CLR_HI.a) (BitVec.ofNat 32 (2 ^ (n.val % 32)))))

/-- FIRST_FAULT_READ (R39): a request at EVT_FF. -/
def execFirstFaultRead (i : Fin 3) (n : Fin 64) (s : State) : Host.Outcome State Fault Refusal :=
  .next (s.live (s.request i.val 0x100500 0 n.val))

/-- CHALLENGE_REQUEST (R47). -/
def execChallengeRequest (i : Fin 3) (op : BitVec 8) (arg : BitVec 16) (s : State) : Host.Outcome State Fault Refusal :=
  .next (s.live (s.request i.val rolChal op.toNat arg.toNat))

/-- ROLE_RESPONSE (R47). -/
def execRoleResponse (i : Fin 3) (arg : BitVec 16) (s : State) : Host.Outcome State Fault Refusal :=
  .next (s.live (s.request i.val rolResp 1 arg.toNat))

/-- REPLACE_INSTALLER_SECRET (R49). -/
def execReplaceInstallerSecret (i : Fin 3) (arg : BitVec 16) (s : State) : Host.Outcome State Fault Refusal :=
  .next (s.live (s.request i.val rolResp 2 arg.toNat))

/-- REPLACE_OPERATOR_SECRET (R49). -/
def execReplaceOperatorSecret (i : Fin 3) (arg : BitVec 16) (s : State) : Host.Outcome State Fault Refusal :=
  .next (s.live (s.request i.val rolResp 3 arg.toNat))

/-- ROLE_LEAVE (R44). -/
def execRoleLeave (i : Fin 3) (s : State) : Host.Outcome State Fault Refusal :=
  .next (s.live (s.poke i.val ROL_CTRL.a (fldMask ROL_CTRL.leave)))

/-- LIFECYCLE_REQUEST (R50): both halves of the pair. -/
def execLifecycleRequest (i : Fin 3) (target : BitVec 32) (s : State) : Host.Outcome State Fault Refusal :=
  .next (s.live (s.pokeGuarded i.val ROL_LC_REQ.a target))

/-- AUDIT_READ_ENTRY (R54). -/
def execAuditReadEntry (i : Fin 3) (arg : BitVec 16) (s : State) : Host.Outcome State Fault Refusal :=
  .next (s.live (s.request i.val rolAud 0 arg.toNat))

/-- AUDIT_HEAD_DIGEST (R54). -/
def execAuditHeadDigest (i : Fin 3) (arg : BitVec 16) (s : State) : Host.Outcome State Fault Refusal :=
  .next (s.live (s.request i.val rolAud 1 arg.toNat))

/-- AUDIT_BASE_DIGEST (R54). -/
def execAuditBaseDigest (i : Fin 3) (arg : BitVec 16) (s : State) : Host.Outcome State Fault Refusal :=
  .next (s.live (s.request i.val rolAud 2 arg.toNat))

/-- AUDIT_INDEX (R54). -/
def execAuditIndex (i : Fin 3) (arg : BitVec 16) (s : State) : Host.Outcome State Fault Refusal :=
  .next (s.live (s.request i.val rolAud 3 arg.toNat))

/-- ADD_OFFSET (03 R57). -/
def execAddOffset (i : Fin 3) (arg : BitVec 16) (s : State) : Host.Outcome State Fault Refusal :=
  .next (s.live (s.request i.val timAdj 1 arg.toNat))

/-- SET_TIME (03 R57). -/
def execSetTime (i : Fin 3) (arg : BitVec 16) (s : State) : Host.Outcome State Fault Refusal :=
  .next (s.live (s.request i.val timAdj 2 arg.toNat))

/-- SET_INCREMENT (03 R56). -/
def execSetIncrement (i : Fin 3) (arg : BitVec 16) (s : State) : Host.Outcome State Fault Refusal :=
  .next (s.live (s.request i.val timAdj 3 arg.toNat))

/-- DOMAIN_KICK (03 R59). -/
def execDomainKick (i : Fin 3) (d : Fin 2) (s : State) : Host.Outcome State Fault Refusal :=
  .next (s.live (s.poke i.val (TIM_DOM_CTRL.a d.val) (fldMask TIM_DOM_CTRL.kick)))

/-- DOMAIN_DECLARE_LOST (03 R59). -/
def execDomainDeclareLost (i : Fin 3) (d : Fin 2) (s : State) : Host.Outcome State Fault Refusal :=
  .next (s.live (s.poke i.val (TIM_DOM_CTRL.a d.val) (fldMask TIM_DOM_CTRL.declare_lost)))

/-- ALIGN (03 R63). -/
def execAlign (i : Fin 3) (s : State) : Host.Outcome State Fault Refusal :=
  .next (s.live (s.poke i.val TIM_WKT_CTRL.a (fldMask TIM_WKT_CTRL.align)))

/-- TIME_SNAPSHOT (03 R73). -/
def execTimeSnapshot (i : Fin 3) (arg : BitVec 16) (s : State) : Host.Outcome State Fault Refusal :=
  .next (s.live (s.request i.val 0x200200 0 arg.toNat))

/-- RX_TIMESTAMP_POP (03 R69). -/
def execRxTimestampPop (i : Fin 3) (arg : BitVec 16) (s : State) : Host.Outcome State Fault Refusal :=
  .next (s.live (s.request i.val 0x200400 0 arg.toNat))

/-- TX_TIMESTAMP_POP (03 R69). -/
def execTxTimestampPop (i : Fin 3) (arg : BitVec 16) (s : State) : Host.Outcome State Fault Refusal :=
  .next (s.live (s.request i.val 0x200500 0 arg.toNat))

/-- LDLY_MEASUREMENT_WRITE (03 R74). -/
def execLdlyMeasurementWrite (i : Fin 3) (n : Fin 24) (v : BitVec 32) (s : State) : Host.Outcome State Fault Refusal :=
  .next (s.live (s.poke i.val (TIM_PORT_LDLY_MEAS.a n.val) v))

/-- LDLY_ACCEPT (03 R74): the other fields are written back as they stand. -/
def execLdlyAccept (i : Fin 3) (n : Fin 24) (s : State) : Host.Outcome State Fault Refusal :=
  .next (s.live (s.poke i.val (TIM_PORT_CFG.a n.val) (s.reg (TIM_PORT_CFG.a n.val) ||| fldMask TIM_PORT_CFG.ldly_accept)))

/-- PHASE_ENABLE_WRITE (04 R87): a write of PHS_CFG. -/
def execPhaseEnableWrite (i : Fin 3) (d : Fin 4) (v : BitVec 32) (s : State) : Host.Outcome State Fault Refusal :=
  .next (s.live (s.poke i.val (PHS_CFG.a d.val) v))

/-- PHASE_RESTART (04 R87). -/
def execPhaseRestart (i : Fin 3) (d : Fin 4) (s : State) : Host.Outcome State Fault Refusal :=
  .next (s.live (s.poke i.val (PHS_CTRL.a d.val) (fldMask PHS_CTRL.restart)))

/-- PHASE_DECLARE_LOST (04 R87). -/
def execPhaseDeclareLost (i : Fin 3) (d : Fin 4) (s : State) : Host.Outcome State Fault Refusal :=
  .next (s.live (s.poke i.val (PHS_CTRL.a d.val) (fldMask PHS_CTRL.declare_lost)))

/-- PHASE_SNAPSHOT (04 R94). -/
def execPhaseSnapshot (i : Fin 3) (arg : BitVec 16) (s : State) : Host.Outcome State Fault Refusal :=
  .next (s.live (s.request i.val 0x300400 0 arg.toNat))

/-- SEQ_START (06 R124). -/
def execSeqStart (i : Fin 3) (sq : Fin 8) (s : State) : Host.Outcome State Fault Refusal :=
  .next (s.live (s.poke i.val (SEQ_CTRL.a sq.val) (fldMask SEQ_CTRL.start)))

/-- SEQ_STOP (06 R123). -/
def execSeqStop (i : Fin 3) (sq : Fin 8) (flush : Bool) (s : State) : Host.Outcome State Fault Refusal :=
  .next (s.live (s.poke i.val (SEQ_CTRL.a sq.val) (fldMask SEQ_CTRL.stop ||| (if flush then fldMask SEQ_CTRL.stop_flush else 0#32))))

/-- SEQ_PAUSE (06 R125). -/
def execSeqPause (i : Fin 3) (sq : Fin 8) (s : State) : Host.Outcome State Fault Refusal :=
  .next (s.live (s.poke i.val (SEQ_CTRL.a sq.val) (fldMask SEQ_CTRL.pause)))

/-- SEQ_RESUME (06 R123). -/
def execSeqResume (i : Fin 3) (sq : Fin 8) (s : State) : Host.Outcome State Fault Refusal :=
  .next (s.live (s.poke i.val (SEQ_CTRL.a sq.val) (fldMask SEQ_CTRL.resume)))

/-- SEQ_STEP (06 R126). -/
def execSeqStep (i : Fin 3) (sq : Fin 8) (s : State) : Host.Outcome State Fault Refusal :=
  .next (s.live (s.poke i.val (SEQ_CTRL.a sq.val) (fldMask SEQ_CTRL.step)))

/-- PROGRAM_MEMORY_WRITE (06 R127): instruction word `k`. -/
def execProgramMemoryWrite (i : Fin 3) (sq : Fin 8) (k : BitVec 15) (v : BitVec 32) (s : State) :
    Host.Outcome State Fault Refusal :=
  .next (s.live (s.busWrite i.val (0x3800000 + 0x20000 * sq.val + 4 * k.toNat) 4 v.toNat none))

/-- SEQ_TABLE_WRITE (06 R129): one word or two at byte `a` of table memory. -/
def execSeqTableWrite (i : Fin 3) (a : BitVec 20) (wide : Bool) (v : BitVec 64) (s : State) : Host.Outcome State Fault Refusal :=
  .next (s.live (if wide then s.busWrite i.val (0x3900000 + a.toNat) 8 v.toNat none
    else s.busWrite i.val (0x3900000 + a.toNat) 4 (v.toNat % 2 ^ 32) none))

/-- HOST_POST (06 R136). -/
def execHostPost (i : Fin 3) (arg : BitVec 16) (s : State) : Host.Outcome State Fault Refusal :=
  .next (s.live (s.request i.val seqHpost 1 arg.toNat))

/-- ACT_CLEAR (06 R137). -/
def execActClear (i : Fin 3) (arg : BitVec 16) (s : State) : Host.Outcome State Fault Refusal :=
  .next (s.live (s.request i.val seqActMbx 1 arg.toNat))

/-- ACT_APPEND (06 R137). -/
def execActAppend (i : Fin 3) (arg : BitVec 16) (s : State) : Host.Outcome State Fault Refusal :=
  .next (s.live (s.request i.val seqActMbx 2 arg.toNat))

/-- ACT_SEAL (06 R137). -/
def execActSeal (i : Fin 3) (arg : BitVec 16) (s : State) : Host.Outcome State Fault Refusal :=
  .next (s.live (s.request i.val seqActMbx 3 arg.toNat))

/-- QUEUE_INSPECT (06 R130). -/
def execQueueInspect (i : Fin 3) (arg : BitVec 16) (s : State) : Host.Outcome State Fault Refusal :=
  .next (s.live (s.request i.val seqQinsp 0 arg.toNat))

/-- DBG_READ_GENERAL (05 R96). -/
def execDbgReadGeneral (i : Fin 3) (arg : BitVec 16) (s : State) : Host.Outcome State Fault Refusal :=
  .next (s.live (s.request i.val seqDbg 0 arg.toNat))

/-- DBG_READ_TIME_ANGLE (05 R96). -/
def execDbgReadTimeAngle (i : Fin 3) (arg : BitVec 16) (s : State) : Host.Outcome State Fault Refusal :=
  .next (s.live (s.request i.val seqDbg 1 arg.toNat))

/-- DBG_READ_PC_SIG (05 R96). -/
def execDbgReadPcSig (i : Fin 3) (arg : BitVec 16) (s : State) : Host.Outcome State Fault Refusal :=
  .next (s.live (s.request i.val seqDbg 2 arg.toNat))

end Sys2Proof.Machine
end

