-- ==== Sys2Proof/Machine/NetRows.lean ====
section
/-! DEFINITION. Commands over the register fabric: the software accesses of chapters 07 to 13, each by initiator `i` through the fabric. -/

namespace Sys2Proof.Machine

/-- TEMPLATE_WRITE (07 R148). -/
def execTemplateWrite (i : Fin 3) (a : BitVec 32) (v : BitVec 32) (s : State) : Host.Outcome State Fault Refusal :=
  .next (s.live (s.poke i.val a.toNat v))

/-- RULE_WINDOW_WRITE (07 R166). -/
def execRuleWindowWrite (i : Fin 3) (a : BitVec 32) (w : Fin 4) (v : BitVec 64) (s : State) : Host.Outcome State Fault Refusal :=
  .next (s.live (s.busWrite i.val a.toNat (2 ^ w.val) (v.toNat % 2 ^ (8 * 2 ^ w.val)) none))

/-- BANK_SWAP_REQUEST (07 R168). -/
def execBankSwapRequest (i : Fin 3) (p : Fin 2) (s : State) : Host.Outcome State Fault Refusal :=
  .next (s.live (s.poke i.val (CLS_BANK_CTRL.a p.val) (fldMask CLS_BANK_CTRL.swap)))

/-- RULE_COUNT_FRAME_READ (07 R162). -/
def execRuleCountFrameRead (i : Fin 3) (p : Fin 2) (c : Fin 2048) (s : State) : Host.Outcome State Fault Refusal :=
  .next (s.live (s.busRead i.val (0x2100000 + 0x80000 * p.val + 0x10 * c.val) 8))

/-- RULE_COUNT_BYTE_READ (07 R162). -/
def execRuleCountByteRead (i : Fin 3) (p : Fin 2) (c : Fin 2048) (wide : Bool) (s : State) : Host.Outcome State Fault Refusal :=
  .next (s.live (s.busRead i.val (0x2100000 + 0x80000 * p.val + 0x10 * c.val + 8) (if wide then 8 else 4)))

/-- RULE_COUNT_CLEAR (07 R162). -/
def execRuleCountClear (i : Fin 3) (p : Fin 2) (c : Fin 2048) (v : BitVec 64) (s : State) : Host.Outcome State Fault Refusal :=
  .next (s.live (s.busWrite i.val (0x2100000 + 0x80000 * p.val + 0x10 * c.val) 8 v.toNat none))

/-- METER_BURST_WRITE (10 R235). -/
def execMeterBurstWrite (i : Fin 3) (p : Fin 2) (m : Fin 2048) (v : BitVec 32) (s : State) : Host.Outcome State Fault Refusal :=
  .next (s.live (s.poke i.val (POL_METER_BURST.a p.val m.val) v))

/-- FDB_INSERT (08 R178). -/
def execFdbInsert (i : Fin 3) (p : Fin 2) (arg : BitVec 16) (s : State) : Host.Outcome State Fault Refusal :=
  .next (s.live (s.request i.val (fdbCmd p.val) 1 arg.toNat))

/-- FDB_DELETE (08 R174). -/
def execFdbDelete (i : Fin 3) (p : Fin 2) (arg : BitVec 16) (s : State) : Host.Outcome State Fault Refusal :=
  .next (s.live (s.request i.val (fdbCmd p.val) 2 arg.toNat))

/-- FDB_SEARCH (08 R174). -/
def execFdbSearch (i : Fin 3) (p : Fin 2) (arg : BitVec 16) (s : State) : Host.Outcome State Fault Refusal :=
  .next (s.live (s.request i.val (fdbCmd p.val) 3 arg.toNat))

/-- FDB_READ_SLOT (08 R174). -/
def execFdbReadSlot (i : Fin 3) (p : Fin 2) (arg : BitVec 16) (s : State) : Host.Outcome State Fault Refusal :=
  .next (s.live (s.request i.val (fdbCmd p.val) 4 arg.toNat))

/-- FDB_FLUSH (08 R174). -/
def execFdbFlush (i : Fin 3) (p : Fin 2) (arg : BitVec 16) (s : State) : Host.Outcome State Fault Refusal :=
  .next (s.live (s.request i.val (fdbCmd p.val) 5 arg.toNat))

/-- FLW_INSERT (08 R176). -/
def execFlwInsert (i : Fin 3) (p : Fin 2) (arg : BitVec 16) (s : State) : Host.Outcome State Fault Refusal :=
  .next (s.live (s.request i.val (flwCmd p.val) 1 arg.toNat))

/-- FLW_DELETE (08 R176). -/
def execFlwDelete (i : Fin 3) (p : Fin 2) (arg : BitVec 16) (s : State) : Host.Outcome State Fault Refusal :=
  .next (s.live (s.request i.val (flwCmd p.val) 2 arg.toNat))

/-- FLW_SEARCH (08 R176). -/
def execFlwSearch (i : Fin 3) (p : Fin 2) (arg : BitVec 16) (s : State) : Host.Outcome State Fault Refusal :=
  .next (s.live (s.request i.val (flwCmd p.val) 3 arg.toNat))

/-- FLW_READ_SLOT (08 R176). -/
def execFlwReadSlot (i : Fin 3) (p : Fin 2) (arg : BitVec 16) (s : State) : Host.Outcome State Fault Refusal :=
  .next (s.live (s.request i.val (flwCmd p.val) 4 arg.toNat))

/-- LEARN_NOTIFY_READ (08 R183): a read of DATA3 of FDB_LNOT. -/
def execLearnNotifyRead (i : Fin 3) (p : Fin 2) (s : State) : Host.Outcome State Fault Refusal :=
  .next (s.live (s.busRead i.val (mbxData (fdbLnot p.val) 3) 4))

/-- SA_INSTALL (11 R261). -/
def execSaInstall (i : Fin 3) (arg : BitVec 16) (s : State) : Host.Outcome State Fault Refusal :=
  .next (s.live (s.request i.val cipKey 1 arg.toNat))

/-- SA_BIND (11 R261). -/
def execSaBind (i : Fin 3) (arg : BitVec 16) (s : State) : Host.Outcome State Fault Refusal :=
  .next (s.live (s.request i.val cipKey 2 arg.toNat))

/-- SA_RETIRE (11 R262). -/
def execSaRetire (i : Fin 3) (arg : BitVec 16) (s : State) : Host.Outcome State Fault Refusal :=
  .next (s.live (s.request i.val cipKey 3 arg.toNat))

/-- SET_LOWEST_PN (11 R261). -/
def execSetLowestPn (i : Fin 3) (arg : BitVec 16) (s : State) : Host.Outcome State Fault Refusal :=
  .next (s.live (s.request i.val cipKey 4 arg.toNat))

/-- SA_STATUS_READ (11 R260). -/
def execSaStatusRead (i : Fin 3) (arg : BitVec 16) (s : State) : Host.Outcome State Fault Refusal :=
  .next (s.live (s.request i.val cipSaStat 0 arg.toNat))

/-- MACSEC_MIB_READ (11 R272). -/
def execMacsecMibRead (i : Fin 3) (arg : BitVec 16) (s : State) : Host.Outcome State Fault Refusal :=
  .next (s.live (s.request i.val cipMibMbx 0 arg.toNat))

/-- MACSEC_MIB_READ_CLEAR (11 R272). -/
def execMacsecMibReadClear (i : Fin 3) (arg : BitVec 16) (s : State) : Host.Outcome State Fault Refusal :=
  .next (s.live (s.request i.val cipMibMbx 1 arg.toNat))

/-- SOFTWARE_ERASE (11 R266). -/
def execSoftwareErase (i : Fin 3) (s : State) : Host.Outcome State Fault Refusal :=
  .next (s.live (s.poke i.val CIP_ALARM_CTRL.a (fldMask CIP_ALARM_CTRL.erase)))

/-- ALARM_LATCH_CLEAR (11 R269). -/
def execAlarmLatchClear (i : Fin 3) (s : State) : Host.Outcome State Fault Refusal :=
  .next (s.live (s.poke i.val CIP_ALARM_STAT.a (fldMask CIP_ALARM_STAT.latched)))

/-- PORT_ENABLE (12 R277): a write of ETH_PORT_CFG with en = 1. -/
def execPortEnable (i : Fin 3) (n : Fin 24) (v : BitVec 32) (s : State) : Host.Outcome State Fault Refusal :=
  .next (s.live (s.poke i.val (ETH_PORT_CFG.a n.val) (fldSet v ETH_PORT_CFG.en 1)))

/-- PORT_DISABLE (12 R278): a write of ETH_PORT_CFG with en = 0. -/
def execPortDisable (i : Fin 3) (n : Fin 24) (v : BitVec 32) (s : State) : Host.Outcome State Fault Refusal :=
  .next (s.live (s.poke i.val (ETH_PORT_CFG.a n.val) (fldSet v ETH_PORT_CFG.en 0)))

/-- C22_WRITE (12 R286). -/
def execC22Write (i : Fin 3) (arg : BitVec 16) (s : State) : Host.Outcome State Fault Refusal :=
  .next (s.live (s.request i.val mdioCmd 1 arg.toNat))

/-- C22_READ (12 R286). -/
def execC22Read (i : Fin 3) (arg : BitVec 16) (s : State) : Host.Outcome State Fault Refusal :=
  .next (s.live (s.request i.val mdioCmd 2 arg.toNat))

/-- C45_ADDRESS (12 R286). -/
def execC45Address (i : Fin 3) (arg : BitVec 16) (s : State) : Host.Outcome State Fault Refusal :=
  .next (s.live (s.request i.val mdioCmd 3 arg.toNat))

/-- C45_WRITE (12 R286). -/
def execC45Write (i : Fin 3) (arg : BitVec 16) (s : State) : Host.Outcome State Fault Refusal :=
  .next (s.live (s.request i.val mdioCmd 4 arg.toNat))

/-- C45_READ (12 R286). -/
def execC45Read (i : Fin 3) (arg : BitVec 16) (s : State) : Host.Outcome State Fault Refusal :=
  .next (s.live (s.request i.val mdioCmd 5 arg.toNat))

/-- C45_READ_INCREMENT (12 R286). -/
def execC45ReadIncrement (i : Fin 3) (arg : BitVec 16) (s : State) : Host.Outcome State Fault Refusal :=
  .next (s.live (s.request i.val mdioCmd 6 arg.toNat))

/-- C45_INDIRECT_READ (12 R286). -/
def execC45IndirectRead (i : Fin 3) (arg : BitVec 16) (s : State) : Host.Outcome State Fault Refusal :=
  .next (s.live (s.request i.val mdioCmd 7 arg.toNat))

/-- C45_INDIRECT_WRITE (12 R286). -/
def execC45IndirectWrite (i : Fin 3) (arg : BitVec 16) (s : State) : Host.Outcome State Fault Refusal :=
  .next (s.live (s.request i.val mdioCmd 8 arg.toNat))

/-- PORT_MIB_READ (12 R292). -/
def execPortMibRead (i : Fin 3) (arg : BitVec 16) (s : State) : Host.Outcome State Fault Refusal :=
  .next (s.live (s.request i.val ethMib 0 arg.toNat))

/-- PORT_MIB_READ_CLEAR (12 R292). -/
def execPortMibReadClear (i : Fin 3) (arg : BitVec 16) (s : State) : Host.Outcome State Fault Refusal :=
  .next (s.live (s.request i.val ethMib 1 arg.toNat))

/-- RING_ENABLE (12 R296): a write of a ring's CFG register with en = 1. -/
def execRingEnable (i : Fin 3) (g : Fin 4) (r : Fin 16) (v : BitVec 32) (s : State) : Host.Outcome State Fault Refusal :=
  .next (s.live (s.poke i.val (ringReg g.val r.val 8) (fldSet v ⟨31, 31⟩ 1)))

/-- RING_DISABLE (12 R296): a write of a ring's CFG register with en = 0. -/
def execRingDisable (i : Fin 3) (g : Fin 4) (r : Fin 16) (v : BitVec 32) (s : State) : Host.Outcome State Fault Refusal :=
  .next (s.live (s.poke i.val (ringReg g.val r.val 8) (fldSet v ⟨31, 31⟩ 0)))

/-- CAN_RESTART (13 R302). -/
def execCanRestart (i : Fin 3) (c : Fin 24) (s : State) : Host.Outcome State Fault Refusal :=
  .next (s.live (s.poke i.val (CAN_CTRL.a c.val) (fldMask CAN_CTRL.restart)))

/-- CAN_REQUEST_TRANSMIT (13 R307). -/
def execCanRequestTransmit (i : Fin 3) (c : Fin 24) (b : Fin 64) (s : State) : Host.Outcome State Fault Refusal :=
  .next (s.live (s.poke i.val (CAN_BUF_CMD.a c.val) (fldSet (fldSet 0#32 CAN_BUF_CMD.op 1) CAN_BUF_CMD.buf b.val)))

/-- CAN_ABORT_TRANSMIT (13 R307). -/
def execCanAbortTransmit (i : Fin 3) (c : Fin 24) (b : Fin 64) (s : State) : Host.Outcome State Fault Refusal :=
  .next (s.live (s.poke i.val (CAN_BUF_CMD.a c.val) (fldSet (fldSet 0#32 CAN_BUF_CMD.op 2) CAN_BUF_CMD.buf b.val)))

/-- CAN_RELEASE_BUFFER (13 R307). -/
def execCanReleaseBuffer (i : Fin 3) (c : Fin 24) (b : Fin 64) (s : State) : Host.Outcome State Fault Refusal :=
  .next (s.live (s.poke i.val (CAN_BUF_CMD.a c.val) (fldSet (fldSet 0#32 CAN_BUF_CMD.op 3) CAN_BUF_CMD.buf b.val)))

/-- CAN_DISABLE (13 R304): a write of CAN_CFG with en = 0. -/
def execCanDisable (i : Fin 3) (c : Fin 24) (v : BitVec 32) (s : State) : Host.Outcome State Fault Refusal :=
  .next (s.live (s.poke i.val (CAN_CFG.a c.val) (fldSet v CAN_CFG.en 0)))

/-- BATCH_CONFIGURE (13 R321). -/
def execBatchConfigure (i : Fin 3) (arg : BitVec 16) (s : State) : Host.Outcome State Fault Refusal :=
  .next (s.live (s.request i.val gwBatch 1 arg.toNat))

/-- RX_STREAM_CONFIGURE (13 R321). -/
def execRxStreamConfigure (i : Fin 3) (arg : BitVec 16) (s : State) : Host.Outcome State Fault Refusal :=
  .next (s.live (s.request i.val gwRxStr 1 arg.toNat))

/-- GW_POOL_WRITE (13 R321). -/
def execGwPoolWrite (i : Fin 3) (v : BitVec 32) (s : State) : Host.Outcome State Fault Refusal :=
  .next (s.live (s.poke i.val GW_POOL.a v))

end Sys2Proof.Machine
end

