-- ==== Sys2Proof/Machine/Select.lean ====
section
/-! DEFINITION. The selection of an egress port (10 R221, R222, R226, R229, R239, R240), on the gates that the timed actions of the tick
leave. -/

namespace Sys2Proof.Machine

/-- R221, R222: port `n`, whose transmitter can accept a frame, selects its next copy on the SWC edge `b` ns before the tick; reading its
frame meets the errors named (09 R193). A suspended frame resumes where nothing goes before it, unless its deadline has passed (R242). -/
def State.selectNext (s : State) (n corr : Nat) (bad : Option Nat) (saBad : Nat) (b : Nat) : State :=
  let ex := (s.suspended n).isSome || (s.preActive n && s.on (SLU_GATE.a n) SLU_GATE.hold)
  let r := State.pick (s.copies.length + 1) s n ex b
  match r.1 with
  | some c =>
    if bad = some 0 then (r.2.mereRead c.fid corr bad).wfqAll
    else
      let s1 := r.2.startCopy c saBad
      (if (s1.sending n).isSome then s1.mereRead c.fid corr bad else s1).wfqAll
  | none =>
    match r.2.suspended n with
    | some c =>
      if c.deadline ≤ r.2.now then (r.2.residence n).wfqAll
      else if r.2.canResume n c b then r.2.setCopy { c with st := 1, frag := c.paid } else r.2
    | none => r.2

/-- EGRESS_SELECT (R221, 12 R280, R287, R288, R291): the entries that fall due on the tick act before the selection sees its gates (R229). -/
def State.egressSelect (s0 : State) (n corr : Nat) (bad : Option Nat) (saBad : Nat) (b : Nat) : State :=
  if n = 27 ∨ s0.linkUp n = false ∨ s0.portOn n = false ∨ (n < 24 ∧ (s0.port n).prbs ≠ 0) ∨ s0.mayTalk n = false then s0
  else
    let s := (State.fireAll s0.queued s0.phsDue).preempt n b
    if (s.sending n).isSome then s else s.selectNext n corr bad saBad b

/-- EGRESS_SELECT (R221): on the SWC edge `edge` of the four of the tick, the last of which is its start; `corr` corrected errors, an
uncorrectable one in cell `bad`, and one in the SA slot of each AN in `saBad`. -/
def execEgressSelect (n : Fin 28) (edge : Fin 4) (corr : Fin 64) (bad : Option (Fin 64)) (saBad : BitVec 4) (s : State) :
    Host.Outcome State Fault Refusal :=
  .next (s.live (s.egressSelect n.val corr.val (bad.map (·.val)) saBad.toNat (3 - edge.val)))

end Sys2Proof.Machine
end

