-- ==== Sys2Proof/Machine/SysRows.lean ====
section
/-! DEFINITION. Commands over the register fabric: the software accesses of chapters 14 to 18, each by initiator `i` through the fabric. -/

namespace Sys2Proof.Machine

/-- REG_ACCESS (18 R432): a register access as initiator 2: the operation shifted in runs, and the port shifts out the result of the one
before; the result that a write leaves is open. -/
def execRegAccess (wr : Bool) (addr : BitVec 31) (v : BitVec 32) (s : State) : Host.Outcome State Fault Refusal :=
  .next (s.jtagRun 16 (fun u =>
    let u1 := u.emit (.tdo u.jtag.acc.toNat)
    if u1.powered = false then u1
    else if wr then
      let x := u1.writeAt 2 addr.toNat 4 v.toNat none
      let v := x.1.fresh
      v.2.setJtag { v.2.jtag with acc := v.1.setWidth 32 }
    else
      let x := u1.readAt 2 addr.toNat 4
      x.1.setJtag { x.1.jtag with acc := BitVec.ofNat 32 x.2.1 }))

/-- DOORBELL (14 R344). -/
def execDoorbell (i : Fin 3) (v : BitVec 32) (s : State) : Host.Outcome State Fault Refusal :=
  .next (s.live (s.poke i.val CPX_DOORBELL.a v))

/-- STREAM_COUNTERS_READ (15 R355). -/
def execStreamCountersRead (i : Fin 3) (arg : BitVec 16) (s : State) : Host.Outcome State Fault Refusal :=
  .next (s.live (s.request i.val freScnt 0 arg.toNat))

/-- STREAM_COUNTERS_READ_CLEAR (15 R355). -/
def execStreamCountersReadClear (i : Fin 3) (arg : BitVec 16) (s : State) : Host.Outcome State Fault Refusal :=
  .next (s.live (s.request i.val freScnt 1 arg.toNat))

/-- PAIR_ENABLE (15 R362): both halves of a PAIR_CFG with pair_en = 1. -/
def execPairEnable (i : Fin 3) (v : BitVec 32) (s : State) : Host.Outcome State Fault Refusal :=
  .next (s.live (s.pokeGuarded i.val PAIR_CFG.a (fldSet v PAIR_CFG.pair_en 1)))

/-- PAIR_DISABLE (15 R362): both halves of a PAIR_CFG with pair_en = 0. -/
def execPairDisable (i : Fin 3) (v : BitVec 32) (s : State) : Host.Outcome State Fault Refusal :=
  .next (s.live (s.pokeGuarded i.val PAIR_CFG.a (fldSet v PAIR_CFG.pair_en 0)))

/-- YIELD (15 R365). -/
def execYield (i : Fin 3) (s : State) : Host.Outcome State Fault Refusal :=
  .next (s.live (s.poke i.val PAIR_CTRL.a (fldMask PAIR_CTRL.yield)))

/-- ST_CLEAR (15 R367). -/
def execStClear (i : Fin 3) (s : State) : Host.Outcome State Fault Refusal :=
  .next (s.live (s.poke i.val PAIR_CTRL.a (fldMask PAIR_CTRL.st_clear)))

/-- SLEEP_REQUEST (16 R375). -/
def execSleepRequest (i : Fin 3) (s : State) : Host.Outcome State Fault Refusal :=
  .next (s.live (s.poke i.val PWR_CTRL.a (fldMask PWR_CTRL.sleep_req)))

/-- PARK_DONE (16 R375): `wake` a wake latched in the same AON cycle (R385). -/
def execParkDone (i : Fin 3) (wake : Option (Fin 15)) (s : State) : Host.Outcome State Fault Refusal :=
  .next (s.live ((match wake with
    | some k => s.wakeLatch k.val
    | none => s).poke i.val PWR_CTRL.a (fldMask PWR_CTRL.park_done)))

/-- WAKE_NOW (16 R379). -/
def execWakeNow (i : Fin 3) (s : State) : Host.Outcome State Fault Refusal :=
  .next (s.live (s.poke i.val PWR_CTRL.a (fldMask PWR_CTRL.wake_now)))

/-- PARTIAL_MASK_WRITE (16 R374). -/
def execPartialMaskWrite (i : Fin 3) (bus : Bool) (v : BitVec 32) (s : State) : Host.Outcome State Fault Refusal :=
  .next (s.live (s.poke i.val (if bus then PWR_PART_BUS.a else PWR_PART_PORTS.a) v))

/-- WAKE_VALID (16 R386). -/
def execWakeValid (i : Fin 3) (s : State) : Host.Outcome State Fault Refusal :=
  .next (s.live (s.poke i.val PWR_CTRL.a (fldMask PWR_CTRL.wake_valid)))

/-- OFF_REQUEST (16 R388). -/
def execOffRequest (i : Fin 3) (s : State) : Host.Outcome State Fault Refusal :=
  .next (s.live (s.poke i.val PWR_CTRL.a (fldMask PWR_CTRL.off_req)))

/-- DEVICE_RESET (17 R390): both halves of SYS_RST_CTRL.dev. -/
def execDeviceReset (i : Fin 3) (s : State) : Host.Outcome State Fault Refusal :=
  .next (s.live (s.pokeGuarded i.val SYS_RST_CTRL.a (fldMask SYS_RST_CTRL.dev)))

/-- CARR_RESET (17 R390): both halves of SYS_RST_CTRL.carr, or the Maker's command on the test port, which needs that session (R433) and is shut in FIELD, where the Maker may only request RETURN (02 R50). -/
def execCarrReset (jtag : Bool) (i : Fin 3) (s : State) : Host.Outcome State Fault Refusal :=
  .next (s.live (if jtag then (if (s.sessOf 2).role = 3 ∧ s.fuse.state ≠ 2 then s.carrReset 5 else s.denied 2)
    else s.pokeGuarded i.val SYS_RST_CTRL.a (fldMask SYS_RST_CTRL.carr)))

/-- HOST_GO (17 R397). -/
def execHostGo (i : Fin 3) (s : State) : Host.Outcome State Fault Refusal :=
  .next (s.live (s.poke i.val SYS_BOOT_CTRL.a (fldMask SYS_BOOT_CTRL.host_go)))

/-- LOAD_DONE (17 R394). -/
def execLoadDone (i : Fin 3) (s : State) : Host.Outcome State Fault Refusal :=
  .next (s.live (s.poke i.val SYS_BOOT_CTRL.a (fldMask SYS_BOOT_CTRL.load_done)))

/-- BV_GO (17 R402). -/
def execBvGo (i : Fin 3) (s : State) : Host.Outcome State Fault Refusal :=
  .next (s.live (s.poke i.val SYS_BV_CTRL.a (fldMask SYS_BV_CTRL.go)))

/-- UPD_NOTE_WRITE (17 R412). -/
def execUpdNoteWrite (i : Fin 3) (v : BitVec 32) (s : State) : Host.Outcome State Fault Refusal :=
  .next (s.live (s.poke i.val SYS_UPD_NOTE.a v))

/-- FLASH_ERASE (17 R400). -/
def execFlashErase (i : Fin 3) (arg : BitVec 16) (s : State) : Host.Outcome State Fault Refusal :=
  .next (s.live (s.request i.val sysFlash 1 arg.toNat))

/-- FLASH_PROGRAM (17 R400). -/
def execFlashProgram (i : Fin 3) (arg : BitVec 16) (s : State) : Host.Outcome State Fault Refusal :=
  .next (s.live (s.request i.val sysFlash 2 arg.toNat))

end Sys2Proof.Machine
end

