-- ==== Sys2Proof/Machine/Dispatch.lean ====
section
/-! DEFINITION. One arm per command; each arm is one call of the command's meaning. -/

namespace Sys2Proof.Machine

open Sys2Proof

def exec (i : Instr) (s : State) : Host.Outcome State Fault Refusal :=
  match i with
  | .registerWrite ini a w v race => Sys2Proof.Machine.execRegisterWrite ini a w v race s
  | .rcCounterRead ini a w => Sys2Proof.Machine.execRcCounterRead ini a w s
  | .guardFirstHalf ini a v => Sys2Proof.Machine.execGuardFirstHalf ini a v s
  | .guardCommit ini a v => Sys2Proof.Machine.execGuardCommit ini a v s
  | .guardTimeout b => Sys2Proof.Machine.execGuardTimeout b s
  | .parityScan a flip agree => Sys2Proof.Machine.execParityScan a flip agree s
  | .parityRestore a => Sys2Proof.Machine.execParityRestore a s
  | .mailboxDataRead ini a w => Sys2Proof.Machine.execMailboxDataRead ini a w s
  | .mailboxDataWrite ini a w v => Sys2Proof.Machine.execMailboxDataWrite ini a w v s
  | .stormWindowEnd n => Sys2Proof.Machine.execStormWindowEnd n s
  | .clearPend ini n => Sys2Proof.Machine.execClearPend ini n s
  | .clearStorm ini n => Sys2Proof.Machine.execClearStorm ini n s
  | .clearFfValid ini n => Sys2Proof.Machine.execClearFfValid ini n s
  | .eventCountClear ini n => Sys2Proof.Machine.execEventCountClear ini n s
  | .firstFaultRead ini n => Sys2Proof.Machine.execFirstFaultRead ini n s
  | .challengeRequest ini op arg => Sys2Proof.Machine.execChallengeRequest ini op arg s
  | .roleResponse ini arg => Sys2Proof.Machine.execRoleResponse ini arg s
  | .replaceInstallerSecret ini arg => Sys2Proof.Machine.execReplaceInstallerSecret ini arg s
  | .replaceOperatorSecret ini arg => Sys2Proof.Machine.execReplaceOperatorSecret ini arg s
  | .challengeExpiry ini => Sys2Proof.Machine.execChallengeExpiry ini s
  | .lockoutEnd r => Sys2Proof.Machine.execLockoutEnd r s
  | .roleLeave ini => Sys2Proof.Machine.execRoleLeave ini s
  | .lifecycleRequest ini target => Sys2Proof.Machine.execLifecycleRequest ini target s
  | .auditReadEntry ini arg => Sys2Proof.Machine.execAuditReadEntry ini arg s
  | .auditHeadDigest ini arg => Sys2Proof.Machine.execAuditHeadDigest ini arg s
  | .auditBaseDigest ini arg => Sys2Proof.Machine.execAuditBaseDigest ini arg s
  | .auditIndex ini arg => Sys2Proof.Machine.execAuditIndex ini arg s
  | .addOffset ini arg => Sys2Proof.Machine.execAddOffset ini arg s
  | .setTime ini arg => Sys2Proof.Machine.execSetTime ini arg s
  | .setIncrement ini arg => Sys2Proof.Machine.execSetIncrement ini arg s
  | .domainKick ini d => Sys2Proof.Machine.execDomainKick ini d s
  | .domainDeclareLost ini d => Sys2Proof.Machine.execDomainDeclareLost ini d s
  | .kickTimeout d => Sys2Proof.Machine.execKickTimeout d s
  | .wktLocked => Sys2Proof.Machine.execWktLocked s
  | .align ini => Sys2Proof.Machine.execAlign ini s
  | .timeSnapshot ini arg => Sys2Proof.Machine.execTimeSnapshot ini arg s
  | .rxTimestampPop ini arg => Sys2Proof.Machine.execRxTimestampPop ini arg s
  | .txTimestampPop ini arg => Sys2Proof.Machine.execTxTimestampPop ini arg s
  | .ppsOutSecond => Sys2Proof.Machine.execPpsOutSecond s
  | .ppsOutFall => Sys2Proof.Machine.execPpsOutFall s
  | .ppsInEdge len => Sys2Proof.Machine.execPpsInEdge len s
  | .ldlyMeasurementWrite ini n v => Sys2Proof.Machine.execLdlyMeasurementWrite ini n v s
  | .ldlyAccept ini n => Sys2Proof.Machine.execLdlyAccept ini n s
  | .phaseEnableWrite ini d v => Sys2Proof.Machine.execPhaseEnableWrite ini d v s
  | .phaseEdge p rise held back => Sys2Proof.Machine.execPhaseEdge p rise held back s
  | .quadTransition p a b z held back => Sys2Proof.Machine.execQuadTransition p a b z held back s
  | .zEdge p held back => Sys2Proof.Machine.execZEdge p held back s
  | .observationApply d => Sys2Proof.Machine.execObservationApply d s
  | .obsTimeout d => Sys2Proof.Machine.execObsTimeout d s
  | .holdTimeExpiry d => Sys2Proof.Machine.execHoldTimeExpiry d s
  | .phaseRestart ini d => Sys2Proof.Machine.execPhaseRestart ini d s
  | .phaseDeclareLost ini d => Sys2Proof.Machine.execPhaseDeclareLost ini d s
  | .phaseSnapshot ini arg => Sys2Proof.Machine.execPhaseSnapshot ini arg s
  | .angleActionFire sq races => Sys2Proof.Machine.execAngleActionFire sq races s
  | .iNop sq => Sys2Proof.Machine.execINop sq s
  | .iHalt sq => Sys2Proof.Machine.execIHalt sq s
  | .iWdog sq => Sys2Proof.Machine.execIWdog sq s
  | .iTrap sq imm => Sys2Proof.Machine.execITrap sq imm s
  | .iRds sq d k => Sys2Proof.Machine.execIRds sq d k s
  | .iAdd sq d a b => Sys2Proof.Machine.execIAdd sq d a b s
  | .iSub sq d a b => Sys2Proof.Machine.execISub sq d a b s
  | .iAnd sq d a b => Sys2Proof.Machine.execIAnd sq d a b s
  | .iOr sq d a b => Sys2Proof.Machine.execIOr sq d a b s
  | .iXor sq d a b => Sys2Proof.Machine.execIXor sq d a b s
  | .iSll sq d a b => Sys2Proof.Machine.execISll sq d a b s
  | .iSrl sq d a b => Sys2Proof.Machine.execISrl sq d a b s
  | .iSra sq d a b => Sys2Proof.Machine.execISra sq d a b s
  | .iMul sq d a b => Sys2Proof.Machine.execIMul sq d a b s
  | .iAddi sq d a imm => Sys2Proof.Machine.execIAddi sq d a imm s
  | .iAndi sq d a imm => Sys2Proof.Machine.execIAndi sq d a imm s
  | .iOri sq d a imm => Sys2Proof.Machine.execIOri sq d a imm s
  | .iXori sq d a imm => Sys2Proof.Machine.execIXori sq d a imm s
  | .iSlli sq d a sh => Sys2Proof.Machine.execISlli sq d a sh s
  | .iSrli sq d a sh => Sys2Proof.Machine.execISrli sq d a sh s
  | .iSrai sq d a sh => Sys2Proof.Machine.execISrai sq d a sh s
  | .iLui sq d imm => Sys2Proof.Machine.execILui sq d imm s
  | .iLd sq d a imm => Sys2Proof.Machine.execILd sq d a imm s
  | .iSt sq d a imm => Sys2Proof.Machine.execISt sq d a imm s
  | .iLdt sq tx a imm => Sys2Proof.Machine.execILdt sq tx a imm s
  | .iStt sq tx a imm => Sys2Proof.Machine.execIStt sq tx a imm s
  | .iAmoadd sq d a b => Sys2Proof.Machine.execIAmoadd sq d a b s
  | .iAmoswap sq d a b => Sys2Proof.Machine.execIAmoswap sq d a b s
  | .iBeq sq a b off => Sys2Proof.Machine.execIBeq sq a b off s
  | .iBne sq a b off => Sys2Proof.Machine.execIBne sq a b off s
  | .iBlt sq a b off => Sys2Proof.Machine.execIBlt sq a b off s
  | .iBge sq a b off => Sys2Proof.Machine.execIBge sq a b off s
  | .iBltu sq a b off => Sys2Proof.Machine.execIBltu sq a b off s
  | .iBgeu sq a b off => Sys2Proof.Machine.execIBgeu sq a b off s
  | .iJal sq d off => Sys2Proof.Machine.execIJal sq d off s
  | .iJalr sq d a imm => Sys2Proof.Machine.execIJalr sq d a imm s
  | .iTget sq tx clk => Sys2Proof.Machine.execITget sq tx clk s
  | .iTadd sq tx ty g => Sys2Proof.Machine.execITadd sq tx ty g s
  | .iTsub sq tx ty g => Sys2Proof.Machine.execITsub sq tx ty g s
  | .iTmov sq tx ty => Sys2Proof.Machine.execITmov sq tx ty s
  | .iText sq ty g sel => Sys2Proof.Machine.execIText sq ty g sel s
  | .iTins sq tx g sel => Sys2Proof.Machine.execITins sq tx g sel s
  | .iTnext sq tx ty g => Sys2Proof.Machine.execITnext sq tx ty g s
  | .iTblt sq tx ty off => Sys2Proof.Machine.execITblt sq tx ty off s
  | .iAget sq ax pd => Sys2Proof.Machine.execIAget sq ax pd s
  | .iAset sq ax g => Sys2Proof.Machine.execIAset sq ax g s
  | .iAread sq ay g => Sys2Proof.Machine.execIAread sq ay g s
  | .iAadd sq ax ay g => Sys2Proof.Machine.execIAadd sq ax ay g s
  | .iVget sq g pd => Sys2Proof.Machine.execIVget sq g pd s
  | .iPost sq tx g => Sys2Proof.Machine.execIPost sq tx g s
  | .iApost sq ax g pd dir => Sys2Proof.Machine.execIApost sq ax g pd dir s
  | .iWaitt sq tx => Sys2Proof.Machine.execIWaitt sq tx s
  | .iWaita sq ax pd dir tt off => Sys2Proof.Machine.execIWaita sq ax pd dir tt off s
  | .iWaite sq g tt off => Sys2Proof.Machine.execIWaite sq g tt off s
  | .iGrx sq d => Sys2Proof.Machine.execIGrx sq d s
  | .iGid sq d a => Sys2Proof.Machine.execIGid sq d a s
  | .iGtx sq a b => Sys2Proof.Machine.execIGtx sq a b s
  | .iGrel sq a => Sys2Proof.Machine.execIGrel sq a s
  | .waittDone sq => Sys2Proof.Machine.execWaittDone sq s
  | .waitaEnd sq => Sys2Proof.Machine.execWaitaEnd sq s
  | .waiteEnd sq => Sys2Proof.Machine.execWaiteEnd sq s
  | .watchdogExpiry sq => Sys2Proof.Machine.execWatchdogExpiry sq s
  | .timeActionFire sq races => Sys2Proof.Machine.execTimeActionFire sq races s
  | .pulseFall pin => Sys2Proof.Machine.execPulseFall pin s
  | .seqStart ini sq => Sys2Proof.Machine.execSeqStart ini sq s
  | .seqStop ini sq flush => Sys2Proof.Machine.execSeqStop ini sq flush s
  | .seqPause ini sq => Sys2Proof.Machine.execSeqPause ini sq s
  | .seqResume ini sq => Sys2Proof.Machine.execSeqResume ini sq s
  | .seqStep ini sq => Sys2Proof.Machine.execSeqStep ini sq s
  | .programMemoryWrite ini sq k v => Sys2Proof.Machine.execProgramMemoryWrite ini sq k v s
  | .seqTableWrite ini a wide v => Sys2Proof.Machine.execSeqTableWrite ini a wide v s
  | .hostPost ini arg => Sys2Proof.Machine.execHostPost ini arg s
  | .actClear ini arg => Sys2Proof.Machine.execActClear ini arg s
  | .actAppend ini arg => Sys2Proof.Machine.execActAppend ini arg s
  | .actSeal ini arg => Sys2Proof.Machine.execActSeal ini arg s
  | .queueInspect ini arg => Sys2Proof.Machine.execQueueInspect ini arg s
  | .dbgReadGeneral ini arg => Sys2Proof.Machine.execDbgReadGeneral ini arg s
  | .dbgReadTimeAngle ini arg => Sys2Proof.Machine.execDbgReadTimeAngle ini arg s
  | .dbgReadPcSig ini arg => Sys2Proof.Machine.execDbgReadPcSig ini arg s
  | .frameHead n wire abort looped ph => Sys2Proof.Machine.execFrameHead n wire abort looped ph s
  | .lookupStart n got ends => Sys2Proof.Machine.execLookupStart n got ends s
  | .receptionEnd n ends => Sys2Proof.Machine.execReceptionEnd n ends s
  | .recirculateEntry corr bad => Sys2Proof.Machine.execRecirculateEntry corr bad s
  | .egressSelect n edge corr bad saBad => Sys2Proof.Machine.execEgressSelect n edge corr bad saBad s
  | .frameTransmitted n desc => Sys2Proof.Machine.execFrameTransmitted n desc s
  | .launchTimeReached n => Sys2Proof.Machine.execLaunchTimeReached n s
  | .residenceDeadline n => Sys2Proof.Machine.execResidenceDeadline n s
  | .spill n tc corr bad => Sys2Proof.Machine.execSpill n tc corr bad s
  | .refill n tc bad => Sys2Proof.Machine.execRefill n tc bad s
  | .meterBurstWrite ini p m v => Sys2Proof.Machine.execMeterBurstWrite ini p m v s
  | .preemptVerifyDone n ok => Sys2Proof.Machine.execPreemptVerifyDone n ok s
  | .templateWrite ini a v => Sys2Proof.Machine.execTemplateWrite ini a v s
  | .dpRecomputeDone p b => Sys2Proof.Machine.execDpRecomputeDone p b s
  | .ruleWindowWrite ini a w v => Sys2Proof.Machine.execRuleWindowWrite ini a w v s
  | .bankSwapRequest ini p => Sys2Proof.Machine.execBankSwapRequest ini p s
  | .drainDone p => Sys2Proof.Machine.execDrainDone p s
  | .ruleParityScan p b e bad => Sys2Proof.Machine.execRuleParityScan p b e bad s
  | .ruleCountFrameRead ini p c => Sys2Proof.Machine.execRuleCountFrameRead ini p c s
  | .ruleCountByteRead ini p c wide => Sys2Proof.Machine.execRuleCountByteRead ini p c wide s
  | .ruleCountClear ini p c v => Sys2Proof.Machine.execRuleCountClear ini p c v s
  | .fdbInsert ini p arg => Sys2Proof.Machine.execFdbInsert ini p arg s
  | .fdbDelete ini p arg => Sys2Proof.Machine.execFdbDelete ini p arg s
  | .fdbSearch ini p arg => Sys2Proof.Machine.execFdbSearch ini p arg s
  | .fdbReadSlot ini p arg => Sys2Proof.Machine.execFdbReadSlot ini p arg s
  | .fdbFlush ini p arg => Sys2Proof.Machine.execFdbFlush ini p arg s
  | .flwInsert ini p arg => Sys2Proof.Machine.execFlwInsert ini p arg s
  | .flwDelete ini p arg => Sys2Proof.Machine.execFlwDelete ini p arg s
  | .flwSearch ini p arg => Sys2Proof.Machine.execFlwSearch ini p arg s
  | .flwReadSlot ini p arg => Sys2Proof.Machine.execFlwReadSlot ini p arg s
  | .learnApply p => Sys2Proof.Machine.execLearnApply p s
  | .learnNotifyRead ini p => Sys2Proof.Machine.execLearnNotifyRead ini p s
  | .moveWindowEnd p loc => Sys2Proof.Machine.execMoveWindowEnd p loc s
  | .freezeEnd p loc => Sys2Proof.Machine.execFreezeEnd p loc s
  | .agingVisit p => Sys2Proof.Machine.execAgingVisit p s
  | .tableParityScan p flow bad loc => Sys2Proof.Machine.execTableParityScan p flow bad loc s
  | .sectagComplete n bad => Sys2Proof.Machine.execSectagComplete n bad s
  | .macsecVerdict n => Sys2Proof.Machine.execMacsecVerdict n s
  | .saInstall ini arg => Sys2Proof.Machine.execSaInstall ini arg s
  | .saBind ini arg => Sys2Proof.Machine.execSaBind ini arg s
  | .saRetire ini arg => Sys2Proof.Machine.execSaRetire ini arg s
  | .setLowestPn ini arg => Sys2Proof.Machine.execSetLowestPn ini arg s
  | .saRetireDone k => Sys2Proof.Machine.execSaRetireDone k s
  | .saStatusRead ini arg => Sys2Proof.Machine.execSaStatusRead ini arg s
  | .macsecMibRead ini arg => Sys2Proof.Machine.execMacsecMibRead ini arg s
  | .macsecMibReadClear ini arg => Sys2Proof.Machine.execMacsecMibReadClear ini arg s
  | .alarmIn => Sys2Proof.Machine.execAlarmIn s
  | .supplyGlitch => Sys2Proof.Machine.execSupplyGlitch s
  | .clockMonitorAlarm => Sys2Proof.Machine.execClockMonitorAlarm s
  | .softwareErase ini => Sys2Proof.Machine.execSoftwareErase ini s
  | .eraseDone bad => Sys2Proof.Machine.execEraseDone bad s
  | .alarmLatchClear ini => Sys2Proof.Machine.execAlarmLatchClear ini s
  | .cjobCmacGenerate => Sys2Proof.Machine.execCjobCmacGenerate s
  | .cjobCmacVerify => Sys2Proof.Machine.execCjobCmacVerify s
  | .cjobGcmEncrypt => Sys2Proof.Machine.execCjobGcmEncrypt s
  | .cjobGcmDecrypt => Sys2Proof.Machine.execCjobGcmDecrypt s
  | .cjobKeyUnwrap => Sys2Proof.Machine.execCjobKeyUnwrap s
  | .cjobComplete j bad => Sys2Proof.Machine.execCjobComplete j bad s
  | .portEnable ini n v => Sys2Proof.Machine.execPortEnable ini n v s
  | .portDisable ini n v => Sys2Proof.Machine.execPortDisable ini n v s
  | .rxPathChange n lock lf rf => Sys2Proof.Machine.execRxPathChange n lock lf rf s
  | .linkUp n => Sys2Proof.Machine.execLinkUp n s
  | .linkDown n => Sys2Proof.Machine.execLinkDown n s
  | .inbandWord n w => Sys2Proof.Machine.execInbandWord n w s
  | .plcaBeacon k => Sys2Proof.Machine.execPlcaBeacon k s
  | .plcaTimeout k => Sys2Proof.Machine.execPlcaTimeout k s
  | .collision k => Sys2Proof.Machine.execCollision k s
  | .c22Write ini arg => Sys2Proof.Machine.execC22Write ini arg s
  | .c22Read ini arg => Sys2Proof.Machine.execC22Read ini arg s
  | .c45Address ini arg => Sys2Proof.Machine.execC45Address ini arg s
  | .c45Write ini arg => Sys2Proof.Machine.execC45Write ini arg s
  | .c45Read ini arg => Sys2Proof.Machine.execC45Read ini arg s
  | .c45ReadIncrement ini arg => Sys2Proof.Machine.execC45ReadIncrement ini arg s
  | .c45IndirectRead ini arg => Sys2Proof.Machine.execC45IndirectRead ini arg s
  | .c45IndirectWrite ini arg => Sys2Proof.Machine.execC45IndirectWrite ini arg s
  | .mdioOpDone data resp again => Sys2Proof.Machine.execMdioOpDone data resp again s
  | .portMibRead ini arg => Sys2Proof.Machine.execPortMibRead ini arg s
  | .portMibReadClear ini arg => Sys2Proof.Machine.execPortMibReadClear ini arg s
  | .ringEnable ini g r v => Sys2Proof.Machine.execRingEnable ini g r v s
  | .ringDisable ini g r v => Sys2Proof.Machine.execRingDisable ini g r v s
  | .txDescriptor r d buf => Sys2Proof.Machine.execTxDescriptor r d buf s
  | .dmaError g r wr aer => Sys2Proof.Machine.execDmaError g r wr aer s
  | .pcieLinkChange g aer => Sys2Proof.Machine.execPcieLinkChange g aer s
  | .canFrameReceived c fmt ide rtr brs esi ident dlc data sdt vcid sec af err back => Sys2Proof.Machine.execCanFrameReceived c fmt ide rtr brs esi ident dlc data sdt vcid sec af err back s
  | .canTransmit c lost => Sys2Proof.Machine.execCanTransmit c lost s
  | .canBusError c kind => Sys2Proof.Machine.execCanBusError c kind s
  | .busOffRecovery c => Sys2Proof.Machine.execBusOffRecovery c s
  | .canRestart ini c => Sys2Proof.Machine.execCanRestart ini c s
  | .canRequestTransmit ini c b => Sys2Proof.Machine.execCanRequestTransmit ini c b s
  | .canAbortTransmit ini c b => Sys2Proof.Machine.execCanAbortTransmit ini c b s
  | .canReleaseBuffer ini c b => Sys2Proof.Machine.execCanReleaseBuffer ini c b s
  | .canDisable ini c v => Sys2Proof.Machine.execCanDisable ini c v s
  | .linSlot l data sum err => Sys2Proof.Machine.execLinSlot l data sum err s
  | .linHeaderReceived l ident data sum err brk rate => Sys2Proof.Machine.execLinHeaderReceived l ident data sum err brk rate s
  | .batchTimeout b => Sys2Proof.Machine.execBatchTimeout b s
  | .batchInject => Sys2Proof.Machine.execBatchInject s
  | .batchConfigure ini arg => Sys2Proof.Machine.execBatchConfigure ini arg s
  | .rxStreamConfigure ini arg => Sys2Proof.Machine.execRxStreamConfigure ini arg s
  | .gwPoolWrite ini v => Sys2Proof.Machine.execGwPoolWrite ini v s
  | .carrTransactionCompare a b c fault ecc bank => Sys2Proof.Machine.execCarrTransactionCompare a b c fault ecc bank s
  | .windowClose => Sys2Proof.Machine.execWindowClose s
  | .resyncSelftestDone ok => Sys2Proof.Machine.execResyncSelftestDone ok s
  | .resyncStall => Sys2Proof.Machine.execResyncStall s
  | .injectionTest ok => Sys2Proof.Machine.execInjectionTest ok s
  | .chkptWrite machine a b c => Sys2Proof.Machine.execChkptWrite machine a b c s
  | .doorbell ini v => Sys2Proof.Machine.execDoorbell ini v s
  | .memTraining temp ok => Sys2Proof.Machine.execMemTraining temp ok s
  | .memScrub addr err => Sys2Proof.Machine.execMemScrub addr err s
  | .recoveryReset k => Sys2Proof.Machine.execRecoveryReset k s
  | .latentTest k => Sys2Proof.Machine.execLatentTest k s
  | .latentBaselineReset k => Sys2Proof.Machine.execLatentBaselineReset k s
  | .streamCountersRead ini arg => Sys2Proof.Machine.execStreamCountersRead ini arg s
  | .streamCountersReadClear ini arg => Sys2Proof.Machine.execStreamCountersReadClear ini arg s
  | .pairEnable ini v => Sys2Proof.Machine.execPairEnable ini v s
  | .pairDisable ini v => Sys2Proof.Machine.execPairDisable ini v s
  | .heartbeatInterval => Sys2Proof.Machine.execHeartbeatInterval s
  | .hbInPulse ns => Sys2Proof.Machine.execHbInPulse ns s
  | .busRoleSwitch => Sys2Proof.Machine.execBusRoleSwitch s
  | .pathTimeout p => Sys2Proof.Machine.execPathTimeout p s
  | .startupWaitExpiry => Sys2Proof.Machine.execStartupWaitExpiry s
  | .holdOffExpiry => Sys2Proof.Machine.execHoldOffExpiry s
  | .handbackEchoDeadline => Sys2Proof.Machine.execHandbackEchoDeadline s
  | .handbackInstant => Sys2Proof.Machine.execHandbackInstant s
  | .yield ini => Sys2Proof.Machine.execYield ini s
  | .stClear ini => Sys2Proof.Machine.execStClear ini s
  | .selftestItemDone item ok => Sys2Proof.Machine.execSelftestItemDone item ok s
  | .healthReportSend => Sys2Proof.Machine.execHealthReportSend s
  | .reportMissing => Sys2Proof.Machine.execReportMissing s
  | .sleepRequest ini => Sys2Proof.Machine.execSleepRequest ini s
  | .parkDone ini wake => Sys2Proof.Machine.execParkDone ini wake s
  | .prepTimeout wake => Sys2Proof.Machine.execPrepTimeout wake s
  | .descendDone => Sys2Proof.Machine.execDescendDone s
  | .wakeInPin k level held => Sys2Proof.Machine.execWakeInPin k level held s
  | .wupDetect k => Sys2Proof.Machine.execWupDetect k s
  | .aonTimerExpiry => Sys2Proof.Machine.execAonTimerExpiry s
  | .wakeNow ini => Sys2Proof.Machine.execWakeNow ini s
  | .wakePowerGood => Sys2Proof.Machine.execWakePowerGood s
  | .wakePllLocked => Sys2Proof.Machine.execWakePllLocked s
  | .wakePipelinesReady => Sys2Proof.Machine.execWakePipelinesReady s
  | .carrResume ecc => Sys2Proof.Machine.execCarrResume ecc s
  | .partialMaskWrite ini bus v => Sys2Proof.Machine.execPartialMaskWrite ini bus v s
  | .wakeValid ini => Sys2Proof.Machine.execWakeValid ini s
  | .wispWindowEnd => Sys2Proof.Machine.execWispWindowEnd s
  | .wispBackoffEnd k => Sys2Proof.Machine.execWispBackoffEnd k s
  | .offRequest ini => Sys2Proof.Machine.execOffRequest ini s
  | .powerOnReset aon => Sys2Proof.Machine.execPowerOnReset aon s
  | .pinReset len => Sys2Proof.Machine.execPinReset len s
  | .deviceReset ini => Sys2Proof.Machine.execDeviceReset ini s
  | .carrReset jtag ini => Sys2Proof.Machine.execCarrReset jtag ini s
  | .pcieReset hot => Sys2Proof.Machine.execPcieReset hot s
  | .resetRelease mode => Sys2Proof.Machine.execResetRelease mode s
  | .bootVerifyDone => Sys2Proof.Machine.execBootVerifyDone s
  | .hostGo ini => Sys2Proof.Machine.execHostGo ini s
  | .uartBootBlock data crc => Sys2Proof.Machine.execUartBootBlock data crc s
  | .loadDone ini => Sys2Proof.Machine.execLoadDone ini s
  | .installerSessionTimeout => Sys2Proof.Machine.execInstallerSessionTimeout s
  | .bvGo ini => Sys2Proof.Machine.execBvGo ini s
  | .updNoteWrite ini v => Sys2Proof.Machine.execUpdNoteWrite ini v s
  | .flashErase ini arg => Sys2Proof.Machine.execFlashErase ini arg s
  | .flashProgram ini arg => Sys2Proof.Machine.execFlashProgram ini arg s
  | .flashOpDone ok again => Sys2Proof.Machine.execFlashOpDone ok again s
  | .railOutOfRange k hi => Sys2Proof.Machine.execRailOutOfRange k hi s
  | .tempWarn k t => Sys2Proof.Machine.execTempWarn k t s
  | .tempCrit k t => Sys2Proof.Machine.execTempCrit k t s
  | .sensorFault k => Sys2Proof.Machine.execSensorFault k s
  | .testLogicReset => Sys2Proof.Machine.execTestLogicReset s
  | .extest pins v => Sys2Proof.Machine.execExtest pins v s
  | .idcode => Sys2Proof.Machine.execIdcode s
  | .samplePreload pins v => Sys2Proof.Machine.execSamplePreload pins v s
  | .clamp => Sys2Proof.Machine.execClamp s
  | .highz => Sys2Proof.Machine.execHighz s
  | .extestPulse pins v => Sys2Proof.Machine.execExtestPulse pins v s
  | .extestTrain pins v => Sys2Proof.Machine.execExtestTrain pins v s
  | .regAccess wr addr v => Sys2Proof.Machine.execRegAccess wr addr v s
  | .debug k halt => Sys2Proof.Machine.execDebug k halt s
  | .mbist => Sys2Proof.Machine.execMbist s
  | .lbist => Sys2Proof.Machine.execLbist s
  | .scan => Sys2Proof.Machine.execScan s
  | .trim w => Sys2Proof.Machine.execTrim w s
  | .fuse w => Sys2Proof.Machine.execFuse w s
  | .bypass => Sys2Proof.Machine.execBypass s
  | .pllUnlock p => Sys2Proof.Machine.execPllUnlock p s
  | .alarmSourceInactive k => Sys2Proof.Machine.execAlarmSourceInactive k s
  | .canFrameSent c => Sys2Proof.Machine.execCanFrameSent c s
  | .flushVisit p again => Sys2Proof.Machine.execFlushVisit p again s
  | .tempClear t => Sys2Proof.Machine.execTempClear t s
  | .railInRange k => Sys2Proof.Machine.execRailInRange k s
  | .uartGapTimeout => Sys2Proof.Machine.execUartGapTimeout s
  | .uartBootBeacon => Sys2Proof.Machine.execUartBootBeacon s
  | .bistDone v => Sys2Proof.Machine.execBistDone v s
  | .prbsBitError n sync => Sys2Proof.Machine.execPrbsBitError n sync s

end Sys2Proof.Machine
end

