-- ==== Sys2Proof/Machine/Matcher.lean ====
section
/-! DEFINITION. The egress matcher (09 R206): the pairing of the read ports of Mere with the ports that read, SWC cycle by SWC cycle. -/

namespace Sys2Proof.Machine

/-- The elements of `0 … n - 1` from `p` on, in rotation. -/
def rotFrom (n p : Nat) : List Nat := (List.range n).map (fun k => (p + k) % n)

/-- `l` with `v` at place `k`; places that it lacks hold 0. -/
def putAt (l : List Nat) (k v : Nat) : List Nat :=
  (List.range (max l.length (k + 1))).map (fun i => if i = k then v else l.getD i 0)

/-- R206: the transmit FIFO of a copy's port has room for a cell: how many it holds the spec leaves open (log entry 55). -/
def fifoRoom (c : Copy) : Bool :=
  decide (24 ≤ c.port) || decide (c.read - (c.paid / 8000000 - 8) / 256 < max 1 (Config.txFifo c.port))

/-- R206: the ports that request a slice, each with its class's express mark: that of the next cell of the copy in transmission. -/
def State.readReqs (s : State) (slice : Nat) : List (Nat × Bool) :=
  s.copies.filterMap (fun c =>
    if c.st == 1 && fifoRoom c then
      match (s.frame c.fid).banks.reverse[c.read]? with
      | some k => if k.1 / 16 = slice then some (c.port, s.express c.port c.tc && c.mir.isNone) else none
      | none => none
    else none)

/-- R206 steps 2 and 3: each free read port grants the first requester at or after its grant pointer, each requester accepts the first
grant at or after its accept pointer; the pointers move past the partner where `move` says so. The pairs (read port, port). -/
def matchIter (m : MatchSt) (slice : Nat) (free reqs : List Nat) (move : Bool) : MatchSt × List (Nat × Nat) :=
  let grants := free.filterMap (fun r =>
    ((rotFrom 28 (m.grant.getD (slice * 8 + r) 0)).find? (fun p => reqs.contains p)).map (fun p => (r, p)))
  reqs.foldl (fun (x : MatchSt × List (Nat × Nat)) p =>
    match (rotFrom 8 (m.accept.getD p 0)).find? (fun r => grants.contains (r, p)) with
    | some r =>
      (if move then { x.1 with grant := putAt x.1.grant (slice * 8 + r) ((p + 1) % 28), accept := putAt x.1.accept p ((r + 1) % 8) }
       else x.1, x.2 ++ [(r, p)])
    | none => x) (m, [])

/-- R206: the pairs of one slice in SWC cycle `cyc`: the express pass, then two iterations. -/
def matchSlice (m : MatchSt) (slice cyc : Nat) (reqs : List (Nat × Bool)) : MatchSt × List (Nat × Nat) :=
  let free := (List.range 8).filter (fun r => decide (m.busy.getD (slice * 8 + r) 0 ≤ cyc))
  let ex := ((rotFrom 28 (m.expr.getD slice 0)).filter (fun p => reqs.contains (p, true))).take free.length
  let m1 := match ex.getLast? with
    | some p => { m with expr := putAt m.expr slice ((p + 1) % 28) }
    | none => m
  let free1 := free.drop ex.length
  let rest := (reqs.map (·.1)).filter (fun p => !(ex.contains p))
  let a := matchIter m1 slice free1 rest true
  let b := matchIter a.1 slice (free1.filter (fun r => !(a.2.any (fun e => e.1 == r))))
    (rest.filter (fun p => !(a.2.any (fun e => e.2 == p)))) false
  let l := free.zip ex ++ a.2 ++ b.2
  (l.foldl (fun m e => { m with busy := putAt m.busy (slice * 8 + e.1) (cyc + 4) }) b.1, l)

/-- R206: one slice in one SWC cycle: each pair reads a cell. -/
def State.matchCycle (s : State) (slice cyc : Nat) : State :=
  match s.readReqs slice with
  | [] => s
  | reqs =>
    let x := matchSlice s.matcher slice cyc reqs
    { s with
      matcher := x.1
      copies := s.copies.map (fun c => if c.st == 1 && x.2.any (fun e => e.2 == c.port) then { c with read := c.read + 1 } else c) }

/-- R206: the four SWC cycles of a TIME tick. -/
def State.tickMatch (s : State) : State :=
  (List.range 4).foldl (fun u k => (u.matchCycle 0 (4 * s.now + k)).matchCycle 1 (4 * s.now + k)) s

end Sys2Proof.Machine
end

