-- ==== Sys2Proof/Machine/Step.lean ====
section
/-! DEFINITION. The step of the device: the command at the front of the queue, or one TIME tick where none waits (log entry 1). -/

namespace Sys2Proof.Machine

open Sys2Proof

/-- What is due on the present tick and no command has taken: observations are applied (04 R84), entries fire (06 R131, 05 R111), watchdogs and waits end (05 R105 to
R107, R115), pulses end (06 R135), a pair unit that has become fit takes over (15 R362). -/
def State.settle (s : State) : State :=
  ((List.range 8).foldl (fun (u : State) n => u.seqSettle n) (State.fireAll s.queued s.phsSettle)).fallAll.pairCheck.ppsSettle.wktSettle

/-- The clocks of the switched domains advance by one TIME tick of 4 ns (03 R55, 04 R84, 06 R131, 10 R233, 09 R206, 12 R288, 05 R115). -/
def State.advance (s : State) : State :=
  (((({ s with wktPrev := s.tim.wkt } : State).tickTime.tickPhs).selectAll).tickShapers).tickSend.tickMatch.tickPlca.tickWdog

/-- In FEN after the PLLs have locked, the time base counts and the rest still waits (16 R383). -/
def State.tickWaking (s : State) : State :=
  let p := s.pwr
  ({ s with wktPrev := s.tim.wkt, pwr := { p with ticks := p.ticks + 1 } } : State).tickTime

/-- One TIME tick. In a device-scope reset no clock of the device counts. -/
def State.tick (s : State) : State :=
  if s.jtag.held || s.inReset then { s with now := s.now + 1 }
  else if s.pwrPhase = 2 ∨ (s.inFen = true ∧ s.pwr.wakeStep < 3) then s.tickAon
  else if s.inFen then s.tickWaking
  else s.settle.advance

/-- One step: the command at the front of the queue, on the state with the rest of the queue; with an empty queue, one TIME tick. -/
def step (s : State) : Host.Outcome State Fault Refusal :=
  match s.pending with
  | [] => .next s.tick
  | c :: rest => exec c { s with pending := rest }

/-- The state with the command that the word spells put at the front of the queue; no word spells one (the table gives its rows no bits). -/
def State.withFetchWord (s : State) (nbits w : Nat) : State :=
  match decodeTableWord nbits w with
  | some c => { s with pending := c :: s.pending }
  | none => s

end Sys2Proof.Machine
end

