-- ==== Sys2Proof/WellFormed.lean ====
section
/-! DEFINITION. The commands that the device can meet: what the types of their operands do not say. -/

namespace Sys2Proof

/-- 13 R302: the bytes of a CAN FD frame of a DLC. -/
def canFdLen (dlc : Nat) : Nat := [0, 1, 2, 3, 4, 5, 6, 7, 8, 12, 16, 20, 24, 32, 48, 64].getD dlc 0

/-- 13 R302: a CAN frame as its format allows it: a standard identifier has 11 bits; the data has the length that the DLC gives, none
for a remote frame; CAN XL carries 1 to 2,048 bytes and has neither remote frames nor extended identifiers. -/
def canFrameOk (fmt : Fin 3) (ide rtr : Bool) (ident : BitVec 29) (dlc : BitVec 4) (data : List Byte) : Bool :=
  (ide || decide (ident.toNat < 2048)) &&
  (if fmt.val = 0 then data.length == (if rtr then 0 else min dlc.toNat 8)
   else if fmt.val = 1 then !rtr && data.length == canFdLen dlc.toNat
   else !rtr && !ide && decide (1 ≤ data.length) && decide (data.length ≤ 2048))

/-- A command is well-formed: a P24 ring is one of four (12 R296); CHKPT writes the 81 words of R338 for each position; a CAN frame is
one that its format allows. Every other row's operands are limited by their types alone. -/
def Instr.wellFormed : Instr → Bool
  | .dmaError g r _ _ => decide (g.val < 2) || decide (r.val < 4)
  | .chkptWrite _ a b c => a.length == 81 && b.length == 81 && c.length == 81
  | .canFrameReceived _ fmt ide rtr _ _ ident dlc data _ _ _ _ _ _ => canFrameOk fmt ide rtr ident dlc data
  | _ => true

end Sys2Proof
end

