-- ==== Sys2Proof/Safety.lean ====
section
/-! DEFINITION. What counts as a safe run: the canonical form of every store, a queue of well-formed commands, and what no
command may do to the queue, the clock, the outputs and the fuses. The hypotheses under which a software access takes its effect
stand here too, since the claims share them. -/

namespace Sys2Proof.Machine

/-- Every store of the state is in its canonical form: keys rising, no entry at the value that an unlisted key reads as. -/
structure State.Canonical (s : State) : Prop where
  regs : Cells.wf resetOf s.regs = true
  par : Cells.wf (fun _ => {}) s.par = true
  guards : Cells.wf (fun _ => none) s.guards = true
  evt : Cells.wf (fun _ => {}) s.evt = true
  sess : Cells.wf (fun _ => {}) s.sess = true
  lock : Cells.wf (fun _ => {}) s.lock = true
  phs : Cells.wf (fun _ => {}) s.phs = true
  phLev : Cells.wf (fun _ => false) s.phLev = true
  seq : Cells.wf (fun _ => {}) s.seq = true
  acts : Cells.wf (fun _ => {}) s.acts = true
  sync : Cells.wf (fun _ => {}) s.sync = true
  win : Cells.wf (fun _ => 0#8) s.win = true
  fdb : Cells.wf (fun _ => none) s.fdb = true
  flw : Cells.wf (fun _ => none) s.flw = true
  pipe : Cells.wf (fun _ => {}) s.pipe = true
  ruleBad : Cells.wf (fun _ => false) s.ruleBad = true
  ruleCnt : Cells.wf (fun _ => 0) s.ruleCnt = true
  latch : Cells.wf (fun _ => none) s.latch = true
  bankUse : Cells.wf (fun _ => 0) s.bankUse = true
  bankPtr : Cells.wf (fun _ => 0) s.bankPtr = true
  ports : Cells.wf (fun _ => {}) s.ports = true
  credit : Cells.wf (fun _ => 0) s.credit = true
  wfq : Cells.wf (fun _ => 0) s.wfq = true
  wfqV : Cells.wf (fun _ => 0) s.wfqV = true
  meters : Cells.wf (fun _ => {}) s.meters = true
  mib : Cells.wf (fun _ => 0) s.mib = true
  sa : Cells.wf (fun _ => {}) s.sa = true
  rxLast : Cells.wf (fun _ => 0) s.rxLast = true
  cipMib : Cells.wf (fun _ => 0) s.cipMib = true
  ringPtr : Cells.wf (fun _ => 0) s.ringPtr = true
  pcieCfg : Cells.wf cfgReset s.pcie.cfg = true
  pcieTbl : Cells.wf msixReset s.pcie.tbl = true
  fre : Cells.wf (fun _ => {}) s.fre = true
  sram : Cells.wf (fun _ => 0#8) s.sram = true
  can : Cells.wf (fun _ => {}) s.can = true
  lin : Cells.wf (fun _ => {}) s.lin = true
  inq : Cells.wf (fun _ => []) s.inq = true
  held : Cells.wf (fun _ => []) s.held = true
  batch : Cells.wf (fun _ => {}) s.batch = true
  rxStr : Cells.wf (fun _ => {}) s.rxStr = true
  dram : Cells.wf (fun _ => 0#8) s.dram = true
  flash : Cells.wf (fun _ => 0xff#8) s.flash = true

/-- Every waiting command is well-formed. -/
def State.QueueOk (s : State) : Prop := ∀ c ∈ s.pending, c.wellFormed = true

/-- 02 R50: a lifecycle request names no state before the present one. -/
def State.LifecycleOk (s : State) : Prop := s.fuse.state ≤ s.fuse.target

/-- Frames and copies have numbers of their own, below the next number. -/
def State.Numbered (s : State) : Prop :=
  (∀ f ∈ s.frames, f.id < s.nextId) ∧ (∀ c ∈ s.copies, c.id < s.nextId) ∧ (s.frames.map (fun (f : Frame) => f.id)).Nodup ∧
  (s.copies.map (fun (c : Copy) => c.id)).Nodup

/-- The invariant of the machine. -/
def State.Inv (s : State) : Prop := s.Canonical ∧ s.QueueOk ∧ s.LifecycleOk ∧ s.Numbered

/-- What every command keeps from `s` to `t`: the queue and the clock; outputs and drawn open values are only added; fuses are only
blown and the lifecycle only advances (02 R49, R50); canonical stores stay canonical; frames and copies keep numbers of their own. -/
structure State.Keeps (s t : State) : Prop where
  pending : t.pending = s.pending
  now : t.now = s.now
  free : s.freeIdx ≤ t.freeIdx
  out : s.out <:+ t.out
  inst : s.fuse.instUsed ≤ t.fuse.instUsed
  oper : s.fuse.operUsed ≤ t.fuse.operUsed
  life : s.LifecycleOk → s.fuse.state ≤ t.fuse.state ∧ t.LifecycleOk
  canon : s.Canonical → t.Canonical
  numbered : s.Numbered → t.Numbered

/-! ### The hypotheses of software accesses -/

/-- Initiator `i` acts as Installer on a running device, and no guarded pair is pending in the block of `a` (02 R29, R45). -/
structure State.May (s : State) (i a : Nat) : Prop where
  powered : s.powered = true
  role : s.roleOf i = 2
  quiet : s.guardOf (blockOf a) = none

/-- Initiator `i` may send a request to the read mailbox at `m` (02 R35, R45): it holds a role, and the mailbox is idle. -/
structure State.MayAsk (s : State) (i m : Nat) : Prop where
  powered : s.powered = true
  role : s.roleOf i ≠ 0
  quiet : s.guardOf (blockOf m) = none
  idle : fldGet (s.reg m) MBX_CTRL.req = 0

/-- Initiator `i` may send a command to the write mailbox at `m` (02 R37, R45): it is Installer, and the mailbox is idle. -/
structure State.MayOrder (s : State) (i m : Nat) : Prop where
  may : s.May i m
  idle : fldGet (s.reg m) MBX_CTRL.req = 0

/-- The control word that a request leaves in MBX_CTRL: arg and op as written, and req (02 R35, R37). -/
def reqWord (op arg req : Nat) : Word := fldSet ((BitVec.ofNat 32 (arg * 65536 + op * 256 + 1)) &&& 0xffffff00#32) MBX_CTRL.req req

/-- The state in which the read mailbox at `m` judges a request: its control register holds arg and op. -/
def State.asked (s : State) (m op arg : Nat) : State := s.setReg m (reqWord op arg 0)

/-- The state in which the write mailbox at `m` judges a command of initiator `i`: its control register holds arg, op and req, and the
audit log an entry for that write (02 R52). -/
def State.ordered (s : State) (i m op arg : Nat) : State :=
  (s.setReg m (reqWord op arg 1)).audit 0 (s.roleOf i) i m (s.reg m).toNat (reqWord op arg 1).toNat

/-- The state after a plain write of `w` to the register at `a`, of row `r`, has committed: the value by field type (02 R25), its parity
(02 R33) and its audit entry (02 R52); the effect that the register's chapter gives the write comes on top. -/
def State.committed (s : State) (r : RegRow) (i a : Nat) (w : Word) : State :=
  ((s.setReg a (s.newVal r a w)).parClear a (s.rwMask r a)).audit 0 (s.roleOf i) i a (s.reg a).toNat (s.newVal r a w).toNat

/-- 02 R35: the read mailbox at `m` shows a snapshot. -/
def State.Shows (s : State) (m : Nat) (ws : List Nat) : Prop :=
  fldGet (s.reg (m + 4)) MBX_STAT.valid = 1 ∧ ∀ k, k < ws.length → s.reg (mbxData m k) = BitVec.ofNat 32 (ws.getD k 0)

/-- 02 R35: in `t` the read mailbox at `m` answers with `ws`, and nothing but the mailbox has changed since `s`. -/
def State.Answered (s t : State) (m : Nat) (ws : List Nat) : Prop :=
  t.Shows m ws ∧ t = { s with regs := t.regs } ∧
  ∀ a, a ≠ m → a ≠ m + 4 → (∀ k, k < ws.length → a ≠ mbxData m k) → t.reg a = s.reg a

/-- 02 R37, R439: in `t` the write mailbox at `m` has refused its command with `code`: req is clear, and err shows the code. -/
def State.Refused (t : State) (m code : Nat) : Prop :=
  fldGet (t.reg m) MBX_CTRL.req = 0 ∧ fldGet (t.reg (m + 4)) MBX_STAT.err = 1 ∧ fldGet (t.reg (m + 4)) MBX_STAT.err_code = code

/-- 02 R37: the write mailbox at `m` with `n` data words has completed its command without an error: req is clear, the words are 0, and
MBX_STAT is as in `s`. -/
def State.Done (t s : State) (m n : Nat) : Prop :=
  fldGet (t.reg m) MBX_CTRL.req = 0 ∧ (∀ k, k < n → t.reg (mbxData m k) = 0#32) ∧ t.reg (m + 4) = s.reg (m + 4)

/-- The response that ROL_RESP holds, or the secret of a replacement (02 R47, R49). -/
def State.respBytes (s : State) : List Byte := ((List.range 8).map (fun k => leBytes 4 (s.dw rolResp k))).flatten

/-- 06 R142: in `t` every queue has lost its angle entries of domain `d`, and kept the rest. -/
def State.Cancelled (s t : State) (d : Nat) : Prop :=
  ∀ n, n < 8 → t.sq n = { s.sq n with aq := (s.sq n).aq.filter (fun e => e.dom != d) }

/-! ### The instructions of a sequencer -/

/-- Sequencer `n` issues the instruction word `w` now: it executes, waits for nothing, its watchdog is not due, it has come to the
instruction's SEQ cycle, and holds the word at its pc (05 R97, R98, R115). -/
structure State.Holds (s : State) (n : Nat) (w : Word) : Prop where
  live : s.seqLive n = true
  idle : (s.sq n).wait.kind = 0
  wdog : s.wdogDue n = false
  due : s.yDue n = true
  word : s.progWord n (s.seqPc n) = w

/-- The same for an instruction that is not the last of its program. -/
structure State.Issues (s : State) (n : Nat) (w : Word) : Prop where
  holds : s.Holds n w
  inside : s.seqPc n + 1 < s.progLen n

/-- From `s` to `t` sequencer `n` has gone on to `pc`, `c` SEQ cycles later, and nothing but that sequencer has changed, nor its state, its
queue, its flags or its watchdog (05 R97, R98). -/
def State.Ran (s t : State) (n pc c : Nat) : Prop :=
  t = { s with regs := t.regs, seq := t.seq } ∧ t.seqPc n = pc ∧ t.seqState n = 1 ∧ (∀ a, a ≠ SEQ_STAT.a n → t.reg a = s.reg a) ∧
  (∀ m, m ≠ n → t.sq m = s.sq m) ∧
  t.sq n = { s.sq n with cyc := s.yCycle n + c, g := (t.sq n).g, t := (t.sq n).t, ax := (t.sq n).ax, ws := (t.sq n).ws }

/-- The outcome `x` is that of an instruction of sequencer `n` that takes `c` SEQ cycles, puts `v` in general register `d`, or nowhere if that
is g0 (05 R97), and changes no other register. -/
def State.Yields (s : State) (x : Host.Outcome State Fault Refusal) (n : Nat) (d : BitVec 4) (v : Word) (c : Nat) : Prop :=
  ∃ t : State, x = .next t ∧ s.Ran t n (s.seqPc n + 1) c ∧ (∀ k, t.gr n k = if k = d ∧ d ≠ 0#4 then v else s.gr n k) ∧
    (t.sq n).t = (s.sq n).t ∧ (t.sq n).ax = (s.sq n).ax ∧ (t.sq n).ws = (s.sq n).ws

/-- The same for time register `d`, which gets `v`. -/
def State.YieldsTime (s : State) (x : Host.Outcome State Fault Refusal) (n : Nat) (d : BitVec 2) (v c : Nat) : Prop :=
  ∃ t : State, x = .next t ∧ s.Ran t n (s.seqPc n + 1) c ∧ (∀ k, t.tr n k = if k = d then v else s.tr n k) ∧
    (t.sq n).g = (s.sq n).g ∧ (t.sq n).ax = (s.sq n).ax ∧ (t.sq n).ws = (s.sq n).ws

/-- The same for angle register `d`, which gets `v`; ws gets `ws` (05 R104). -/
def State.YieldsAngle (s : State) (x : Host.Outcome State Fault Refusal) (n : Nat) (d : BitVec 2) (v ws : Word) (c : Nat) : Prop :=
  ∃ t : State, x = .next t ∧ s.Ran t n (s.seqPc n + 1) c ∧ (∀ k, t.ar n k = if k = d then v else s.ar n k) ∧
    (t.sq n).g = (s.sq n).g ∧ (t.sq n).t = (s.sq n).t ∧ (t.sq n).ws = ws

/-- The outcome `x` is a trap of sequencer `n` with a code: TRAP, the pc at the instruction, no wait, its registers as they were (05 R114). -/
def State.Traps (s : State) (x : Host.Outcome State Fault Refusal) (n code user : Nat) : Prop :=
  ∃ t : State, x = .next t ∧ t.seqState n = 4 ∧ t.seqPc n = s.seqPc n ∧ fldGet (t.reg (SEQ_TRAP.a n)) SEQ_TRAP.code = code ∧
    fldGet (t.reg (SEQ_TRAP.a n)) SEQ_TRAP.user_code = user ∧ (t.sq n).wait = {} ∧ (t.sq n).g = (s.sq n).g ∧ (t.sq n).t = (s.sq n).t ∧
    (t.sq n).ax = (s.sq n).ax ∧ (t.sq n).ws = (s.sq n).ws ∧ (t.sq n).tq = (s.sq n).tq ∧ (t.sq n).aq = (s.sq n).aq

/-- The outcome `x` is that of an instruction of sequencer `n` that takes it to `pc`, `c` SEQ cycles later, and changes no register of it. -/
def State.Jumps (s : State) (x : Host.Outcome State Fault Refusal) (n pc c : Nat) : Prop :=
  ∃ t : State, x = .next t ∧ s.Ran t n pc c ∧ t.sq n = { s.sq n with cyc := s.yCycle n + c }

/-- The outcome `x` is that of a branch, `taken` or not: 1 SEQ cycle in sequence, 2 to pc + off, or the trap pc_range (05 R98, R101). -/
def State.Branches (s : State) (x : Host.Outcome State Fault Refusal) (n : Nat) (taken : Prop) (off : BitVec 18) : Prop :=
  (¬taken → s.seqPc n + 1 < s.progLen n → s.Jumps x n (s.seqPc n + 1) 1) ∧
  (taken → 0 ≤ (s.seqPc n : Int) + off.toInt → (s.seqPc n : Int) + off.toInt < s.progLen n → s.Jumps x n ((s.seqPc n : Int) + off.toInt).toNat 2) ∧
  (taken → ¬(0 ≤ (s.seqPc n : Int) + off.toInt ∧ (s.seqPc n : Int) + off.toInt < s.progLen n) → s.f (SEQ_WDOG.a n) SEQ_WDOG.trap_action = 0 → s.Traps x n 2 0)

/-- 05 R99: `size` bytes at table address `a` are aligned and lie in the window of sequencer `n`, and the window takes stores if it must. -/
structure State.InWindow (s : State) (n a size : Nat) (store : Bool) : Prop where
  aligned : a % 4 = 0
  low : s.f (SEQ_TWIN_LO.a n) SEQ_TWIN_LO.twin_lo ≤ a
  high : a + size ≤ s.f (SEQ_TWIN_HI.a n) SEQ_TWIN_HI.twin_hi
  top : a + size ≤ 0x100000
  rights : store = true → s.on (SEQ_TWIN_LO.a n) SEQ_TWIN_LO.wr_en = true

/-- From `s` to `t` sequencer `n` has stepped on over a table access of `c` SEQ cycles and up to 7 of waiting (05 R99); nothing but that sequencer's
registers and table memory has changed, and one open value has been drawn. -/
def State.RanTable (s t : State) (n c : Nat) : Prop :=
  t = { s with regs := t.regs, seq := t.seq, win := t.win, freeIdx := s.freeIdx + 1 } ∧ t.seqPc n = s.seqPc n + 1 ∧ t.seqState n = 1 ∧
  (∀ a, a ≠ SEQ_STAT.a n → t.reg a = s.reg a) ∧ (∀ m, m ≠ n → t.sq m = s.sq m) ∧
  (t.sq n).ax = (s.sq n).ax ∧ (t.sq n).ws = (s.sq n).ws ∧ (t.sq n).tq = (s.sq n).tq ∧ (t.sq n).aq = (s.sq n).aq ∧ (t.sq n).sig = (s.sq n).sig ∧
  s.yCycle n + c ≤ (t.sq n).cyc ∧ (t.sq n).cyc ≤ s.yCycle n + c + 7

/-- A byte of table memory. -/
def State.tblB (s : State) (a : Nat) : Byte := Cells.get (fun _ => 0#8) s.win (tblBase + a)

/-- The outcome `x` is the end of a wait of sequencer `n`, which goes on at `pc` within 4 SEQ cycles, with `y` of it beside the cycle and the wait;
nothing but that sequencer has changed, and one open value has been drawn (05 R108). -/
def State.Ends (s : State) (x : Host.Outcome State Fault Refusal) (n : Nat) (y : SeqSt) (pc : Int) : Prop :=
  ∃ (t : State) (c : Nat), x = .next t ∧ t = { s with regs := t.regs, seq := t.seq, freeIdx := s.freeIdx + 1 } ∧ (t.seqPc n : Int) = pc ∧ t.seqState n = 1 ∧
    fldGet (t.reg (SEQ_STAT.a n)) SEQ_STAT.wait = 0 ∧ (∀ a, a ≠ SEQ_STAT.a n → t.reg a = s.reg a) ∧ (∀ m, m ≠ n → t.sq m = s.sq m) ∧
    s.yCycle n ≤ c ∧ c ≤ s.yCycle n + 4 ∧ t.sq n = { y with cyc := c, wait := {} }

/-- The outcome `x` leaves sequencer `n` in the wait `w`, at the same pc; nothing but that sequencer has changed. -/
def State.Waits (s : State) (x : Host.Outcome State Fault Refusal) (n : Nat) (w : WaitSt) : Prop :=
  ∃ t : State, x = .next t ∧ t = { s with regs := t.regs, seq := t.seq } ∧ t.seqPc n = s.seqPc n ∧ t.seqState n = 1 ∧
    fldGet (t.reg (SEQ_STAT.a n)) SEQ_STAT.wait = w.kind % 4 ∧ t.sq n = { s.sq n with cyc := s.yCycle n, wait := w }

/-- Sequencer `n` is in a wait of kind `k` and executes, and its watchdog is not due. -/
structure State.Waiting (s : State) (n k : Nat) : Prop where
  live : s.seqLive n = true
  kind : (s.sq n).wait.kind = k
  wdog : s.wdogDue n = false

/-! ### Frames in the switch core -/

/-- `t` is `u` but for the finish times of weighted fair queueing, which every change of the queues brings up to date (10 R234). -/
def State.Fair (u t : State) : Prop :=
  t = { u with copies := t.copies, wfq := t.wfq, wfqV := t.wfqV } ∧
  t.copies.map (fun c => { c with vf := none }) = u.copies.map (fun c => { c with vf := none })

/-- Port `n` can start a frame: its link is up, it is on and sends no test pattern, and its medium is its own (10 R221, 12 R280, R287, R288). -/
structure State.MaySend (s : State) (n : Nat) : Prop where
  powered : s.powered = true
  notLoop : n ≠ 27
  link : s.linkUp n = true
  on : s.portOn n = true
  noTest : n < 24 → (s.port n).prbs = 0
  talk : s.mayTalk n = true

/-- No copy of port `n` is in transmission or suspended, and no hold request stops its preemptable classes (10 R222, R240). -/
structure State.Unbusy (s : State) (n : Nat) : Prop where
  free : s.sending n = none
  noRest : s.suspended n = none
  noHold : (s.preActive n && s.on (SLU_GATE.a n) SLU_GATE.hold) = false

end Sys2Proof.Machine
end

