-- ==== Sys2Proof/Certificates/Slice0/Obligations.lean ====
section
/-! DEFINITION. The statements for the provers. The hypotheses that most of them share stand in Safety.lean: `State.Canonical` (every store in its
canonical form), `State.Numbered` (frames and copies have numbers of their own), `State.May`, `State.MayAsk` and `State.MayOrder` (a software access
takes its effect), and `State.Holds` and `State.Issues` (a sequencer issues an instruction). `t = { s with x := t.x }` says that nothing but `x` has
changed. -/

open Sys2Proof Sys2Proof.Machine Host

/-- A step takes the command at the front of the queue and runs it on the state with the rest of the queue. The queue is the model's own (log entry 1). -/
def Obligations.StepRunsTheFrontCommand : Prop :=
  ∀ (c : Instr) (rest : List Instr) (s : State), s.pending = c :: rest → step s = exec c { s with pending := rest }

/-- With an empty queue a step is one TIME tick. DESIGN CHOICE, log entry 1: the model's choice, no rule of the spec. -/
def Obligations.EmptyQueueTicks : Prop :=
  ∀ s : State, s.pending = [] → step s = .next s.tick

/-- The state after reset meets the invariant `State.Inv` of Safety.lean. -/
def Obligations.ResetMeetsInv : Prop :=
  State.reset.Inv

/-- Every step, a command or a tick, keeps the invariant. -/
def Obligations.EveryStepKeepsInv : Prop :=
  ∀ s t : State, s.Inv → step s = .next t → t.Inv

/-- 02 R49, R50: what every command keeps (`State.Keeps` of Safety.lean). -/
def Obligations.EveryCommandKeeps : Prop :=
  ∀ (c : Instr) (s t : State), exec c s = .next t → s.Keeps t

/-- What reset leaves: the queue and every store empty, every register at the value of its table, the sequencers in STOP (06 R121), the phase domains in OFF, no role session (02 R44), FAULT_n asserted (17 R394). Values for which the spec gives none are the model's choice (log entry 10), and so is the lifecycle state FIELD (log entry 14). -/
def Obligations.ResetLeavesTheStatedValues : Prop :=
  let s := State.reset
  s.pending = [] ∧ s.frames = [] ∧ s.copies = [] ∧ s.fdb = [] ∧ s.flw = [] ∧ s.sa = [] ∧ s.msgs = [] ∧ s.sram = [] ∧ s.dram = [] ∧ s.win = [] ∧ s.guards = [] ∧
  (∀ a, a ≠ ROL_LC_REQ.a → s.reg a = resetOf a) ∧ s.fuse.state = 2 ∧ s.fuse.target = 2 ∧ fldGet (s.reg ROL_LC_REQ.a) ROL_LC_REQ.target = 2 ∧
  (∀ n, n < 8 → s.seqState n = 0) ∧ (∀ n, (s.sq n).tq = [] ∧ (s.sq n).aq = []) ∧ (∀ d, d < 4 → s.phState d = 0) ∧ (∀ i, i < 3 → s.roleOf i = 0) ∧
  s.clocked = true ∧ s.inReset = true ∧ s.powered = false ∧ s.pwrState = 0 ∧ s.pwrPhase = 0 ∧ s.wktState = 0 ∧ s.pairState = 0 ∧ s.cpxState = 0 ∧ s.faultN = true ∧
  (∀ c, c < 24 → s.canState c = 0) ∧
  (∀ k, k < 4 → s.reg (TIM_INC_INT.a k) = 4#32) ∧ s.reg CPX_CFG.a = resetOf CPX_CFG.a ∧ sint 10 (fldGet (s.reg SYS_MON_STAT.a) SYS_MON_STAT.tj_max) = -40 ∧
  fldGet (s.reg SYS_MON_CFG.a) SYS_MON_CFG.temp_warn = 140 ∧ fldGet (s.reg SYS_MON_CFG.a) SYS_MON_CFG.temp_clear = 130 ∧ fldGet (s.reg FRE_CFG.a) FRE_CFG.reset_ms = 100

/-- 02 R22, R25, R26, R28, R52: a write commits by field type, at once or, for a guarded register, with its second half; hardware wins a race for an RWH field. `State.regEffect` is the effect that the register's own chapter gives the write. -/
def Obligations.RegisterWritesActByFieldType : Prop :=
  (∀ (s : State) (i : Fin 3) (a : BitVec 32) (v : BitVec 64) (r : RegRow), s.Canonical → s.May i.val a.toNat → kindOf a.toNat = .reg r →
    (a.toNat % 4 == 0 && decide (a.toNat < 0x2000000) && a.toNat != ROL_LC_REQ.a && a.toNat != ROL_LC_REQ.a + 4 && !carrOnly a.toNat) = true →
    (!r.guard && r.base != SEQ_CTRL.a 0 && r.base != POL_METER_CFG.a 0 0) = true →
    let w := BitVec.ofNat 32 v.toNat
    (∀ race : Option (BitVec 32), exec (.registerWrite i a 2 v race) s = .next (s.regCommit r i.val a.toNat w race)) ∧
    (logged r = true → s.rwMask r a.toNat ≠ 0#32 →
      exec (.registerWrite i a 2 v none) s = .next ((s.committed r i a.toNat w).regEffect r i a.toNat (s.hw a.toNat) w) ∧
      (a.toNat ≠ EVT_SRC_STAT.a 60 → (s.committed r i a.toNat w).reg a.toNat =
        ((s.reg a.toNat &&& ~~~(s.rwMask r a.toNat)) ||| (w &&& s.rwMask r a.toNat)) &&& ~~~(w &&& clearMask r)) ∧
      ∀ b, b ≠ a.toNat → b ≠ EVT_SRC_STAT.a 60 → (s.committed r i a.toNat w).reg b = s.reg b) ∧
    (s.rwMask r a.toNat = 0#32 →
      exec (.registerWrite i a 2 v none) s =
        .next ((s.setReg a.toNat (s.reg a.toNat &&& ~~~(w &&& clearMask r))).regEffect r i a.toNat (s.hw a.toNat) w))) ∧
  (∀ (s : State) (r : RegRow) (a : Nat) (w h : Word), s.Canonical → kindOf a = .reg r → r.rwh ≠ 0#32 →
    (w &&& r.rwh = h &&& r.rwh → s.raceWith r a w (some h) = s.setReg a ((s.reg a &&& ~~~r.rwh) ||| (h &&& r.rwh))) ∧
    (w &&& r.rwh ≠ h &&& r.rwh → a ≠ EVT_SRC_STAT.a 59 →
      let t := s.raceWith r a w (some h)
      t.reg a = (s.reg a &&& ~~~r.rwh) ||| (h &&& r.rwh) ∧ fldGet (t.reg (integAddr (blockOf a))) ⟨31, 31⟩ = 1 ∧
        fldGet (t.reg (EVT_SRC_STAT.a 59)) EVT_SRC_STAT.pend = 1)) ∧
  (∀ (s : State) (i : Fin 3) (a v : BitVec 32) (r : RegRow) (d : Nat), s.Canonical → s.powered = true → s.roleOf i.val = 2 → a.toNat % 4 = 0 → a.toNat + 4 < 0x2000000 →
    kindOf a.toNat = .reg r → r.guard = true → kindOf (a.toNat + 4) = .comp r → a.toNat ≠ ROL_LC_REQ.a → carrOnly a.toNat = false → carrOnly (a.toNat + 4) = false →
    let b := blockOf a.toNat
    (s.guardOf b = none → exec (.guardFirstHalf i a v) s = .next (s.setGuard b (some ⟨i.val, a.toNat, v, s.now + 320⟩))) ∧
    (s.guardOf b = some ⟨i.val, a.toNat, v, d⟩ → s.now ≤ d → exec (.guardCommit i a (~~~v)) s = .next ((s.setGuard b none).regCommit r i.val a.toNat v none)) ∧
    (∀ k : Fin 17, k.val = b → s.guardOf b = some ⟨i.val, a.toNat, v, d⟩ → d < s.now →
      exec (.guardTimeout k) s = .next ((s.setGuard b none).integ b .guardFail a.toNat)))

/-- 02 R22, R25, R35, R37: what a read delivers and clears, and the data words of a write mailbox. -/
def Obligations.ReadsDeliverAndMailboxWordsAreStored : Prop :=
  ((∀ (s : State) (i : Fin 3) (a : BitVec 32) (r : RegRow), s.Canonical → s.powered = true → s.mayRead i.val a.toNat = true → a.toNat % 4 = 0 → a.toNat < 0x2000000 →
    kindOf a.toNat = .reg r →
    ∃ t : State, exec (.rcCounterRead i a 2) s = .next t ∧ t.reg a.toNat = s.reg a.toNat &&& ~~~r.rc ∧
      t = { s with regs := t.regs, out := .readData i.val (s.readReg r i.val a.toNat).2.toNat :: s.out } ∧ ∀ b, b ≠ a.toNat → t.reg b = s.reg b) ∧
  (∀ (s : State) (i : Fin 3) (n : Fin 8), (s.readReg { base := SEQ_QCNT_A.a 0, s1 := 256, n1 := 8, rc := 0xffffffff#32 } i.val (SEQ_QCNT_A.a n.val)).2 = s.reg (SEQ_QCNT_A.a n.val)) ∧
  (∀ (s : State) (i : Fin 3) (a : BitVec 32) (mb : MbxRow) (m k : Nat), s.Canonical → s.powered = true → s.mayRead i.val a.toNat = true → a.toNat % 4 = 0 → a.toNat < 0x2000000 →
    a.toNat = mbxData m k → kindOf a.toNat = .mdata mb k → mb.rd = true → m ≠ fdbLnot 0 → m ≠ fdbLnot 1 →
    ∃ t : State, exec (.mailboxDataRead i a 2) s = .next t ∧ t = { s with regs := t.regs, out := .readData i.val (s.reg a.toNat).toNat :: s.out } ∧
      (∀ b, b ≠ m + 4 → t.reg b = s.reg b) ∧
      t.reg (m + 4) = (if fldGet (s.reg (m + 4)) MBX_STAT.valid = 0 then fldSet (s.reg (m + 4)) MBX_STAT.stale_read 1
        else if k + 1 = mb.n then fldSet (s.reg (m + 4)) MBX_STAT.valid 0 else s.reg (m + 4)))) ∧
  (∀ (s : State) (i : Fin 3) (a : BitVec 32) (v : BitVec 64) (mb : MbxRow) (m k : Nat), s.Canonical → s.May i.val a.toNat → a.toNat % 4 = 0 → a.toNat < 0x2000000 →
    a.toNat = mbxData m k → kindOf a.toNat = .mdata mb k → mb.rd = false → a.toNat ≠ ROL_LC_REQ.a → a.toNat ≠ ROL_LC_REQ.a + 4 → carrOnly a.toNat = false →
    exec (.mailboxDataWrite i a 2 v) s = .next (if fldGet (s.reg m) MBX_CTRL.req = 1 then s.setF (m + 4) MBX_STAT.overrun 1 else s.setReg a.toNat (BitVec.ofNat 32 v.toNat)))

/-- 02 R22, R23, R34, R45: a write that is rejected or denied changes only what reports it. -/
def Obligations.RejectedAccessesChangeNothingElse : Prop :=
  ∀ (s : State) (i : Fin 3) (a : BitVec 32) (w : Fin 4) (v : BitVec 64) (race : Option (BitVec 32)), s.Canonical → s.powered = true → a.toNat < 0x2000000 →
    s.guardOf (blockOf a.toNat) = none → guardBase (a.toNat / 4 * 4) = none →
    (∀ k : Integ, (k = .unaligned ∧ a.toNat % 2 ^ w.val ≠ 0) ∨ (k = .narrowWrite ∧ a.toNat % 2 ^ w.val = 0 ∧ w.val < 2) ∨ (k = .unmapped ∧ w = 2 ∧ a.toNat % 4 = 0 ∧ kindOf a.toNat = .none) →
      ∃ t : State, exec (.registerWrite i a w v race) s = .next t ∧ t = { s with regs := t.regs, evt := t.evt, out := t.out, pcie := { s.pcie with pba := t.pcie.pba } } ∧
        fldGet (t.reg (integAddr (blockOf a.toNat))) ⟨k.bit, k.bit⟩ = 1 ∧ fldGet (t.reg (EVT_SRC_STAT.a 59)) EVT_SRC_STAT.pend = 1 ∧
        (s.reg (integAddr (blockOf a.toNat)) = 0#32 → t.reg (integAddr (blockOf a.toNat) + 4) = a) ∧
        (∀ b, b ≠ integAddr (blockOf a.toNat) → b ≠ integAddr (blockOf a.toNat) + 4 → b ≠ EVT_SRC_STAT.a 59 → t.reg b = s.reg b)) ∧
    (∀ r : RegRow, a.toNat % 4 = 0 → kindOf a.toNat = .reg r → s.mayWrite i.val a.toNat (BitVec.ofNat 32 v.toNat) = false →
      ∃ t : State, exec (.registerWrite i a 2 v race) s = .next t ∧ t = { s with regs := t.regs, evt := t.evt, out := t.out, pcie := { s.pcie with pba := t.pcie.pba } } ∧
        fldGet (t.reg (EVT_SRC_STAT.a 60)) EVT_SRC_STAT.pend = 1 ∧ (i = 1 → t.out.head? = some (.busError 1)) ∧ (∀ b, b ≠ EVT_SRC_STAT.a 60 → t.reg b = s.reg b))

/-- 02 R28, R29: what the first half of a guarded pair, its second half and its timeout do, for every initiator that may write both halves. -/
def Obligations.GuardedPairsCommitOrFail : Prop :=
  (∀ (s : State) (i : Fin 3) (a v : BitVec 32) (r : RegRow), s.Canonical → s.powered = true → a.toNat % 4 = 0 → a.toNat + 4 < 0x2000000 →
    kindOf a.toNat = .reg r → r.guard = true → kindOf (a.toNat + 4) = .comp r → (∀ x, s.mayWrite i.val a.toNat x = true) → (∀ x, s.mayWrite i.val (a.toNat + 4) x = true) →
    let b := blockOf a.toNat
    (s.guardOf b = none → ∃ t : State, exec (.guardFirstHalf i a v) s = .next t ∧ t.guardOf b = some ⟨i.val, a.toNat, v, s.now + 320⟩ ∧
      t = { s with guards := t.guards } ∧ ∀ c, c ≠ b → t.guardOf c = s.guardOf c) ∧
    (∀ g : GuardPend, s.guardOf b = some g → ∃ t : State, exec (.guardFirstHalf i a v) s = .next t ∧ t.guardOf b = some ⟨i.val, a.toNat, v, s.now + 320⟩ ∧
      fldGet (t.reg (integAddr b)) ⟨27, 27⟩ = 1 ∧ fldGet (t.reg (EVT_SRC_STAT.a 59)) EVT_SRC_STAT.pend = 1 ∧ (∀ c, c ≠ b → t.guardOf c = s.guardOf c) ∧
      (∀ c, c ≠ integAddr b → c ≠ integAddr b + 4 → c ≠ EVT_SRC_STAT.a 59 → t.reg c = s.reg c) ∧
      t = { s with guards := t.guards, regs := t.regs, evt := t.evt, out := t.out, pcie := { s.pcie with pba := t.pcie.pba } }) ∧
    (∀ (d : Nat), s.guardOf b = some ⟨i.val, a.toNat, v, d⟩ → s.now ≤ d →
      exec (.guardCommit i a (~~~v)) s = .next ((s.setGuard b none).regCommit r i a.toNat v none) ∧
      (∀ (j : Fin 3) (x : BitVec 32), j ≠ i ∨ x ≠ ~~~v → s.mayWrite j.val (a.toNat + 4) x = true → ∃ z : State, exec (.guardCommit j a x) s = .next z ∧
        (∀ c, c ≠ integAddr b → c ≠ integAddr b + 4 → c ≠ EVT_SRC_STAT.a 59 → z.reg c = s.reg c) ∧ z.guardOf b = none ∧
        fldGet (z.reg (EVT_SRC_STAT.a 59)) EVT_SRC_STAT.pend = 1 ∧ fldGet (z.reg (integAddr b)) ⟨27, 27⟩ = 1 ∧
        z = { s with guards := z.guards, regs := z.regs, evt := z.evt, out := z.out, pcie := { s.pcie with pba := z.pcie.pba } })) ∧
    (s.guardOf b = none → ∃ z : State, exec (.guardCommit i a v) s = .next z ∧ z.guardOf b = none ∧
      fldGet (z.reg (EVT_SRC_STAT.a 59)) EVT_SRC_STAT.pend = 1 ∧ fldGet (z.reg (integAddr b)) ⟨27, 27⟩ = 1 ∧
      z = { s with regs := z.regs, evt := z.evt, out := z.out, pcie := { s.pcie with pba := z.pcie.pba } })) ∧
  (∀ (s : State) (b : Fin 17), s.Canonical → s.powered = true →
    (∀ g : GuardPend, s.guardOf b.val = some g → g.deadline < s.now →
      ∃ t : State, exec (.guardTimeout b) s = .next t ∧ t.guardOf b.val = none ∧ fldGet (t.reg (integAddr b.val)) ⟨27, 27⟩ = 1 ∧
        fldGet (t.reg (EVT_SRC_STAT.a 59)) EVT_SRC_STAT.pend = 1 ∧ t = { s with guards := t.guards, regs := t.regs, evt := t.evt, out := t.out, pcie := { s.pcie with pba := t.pcie.pba } }) ∧
    (∀ g : GuardPend, s.guardOf b.val = some g → s.now ≤ g.deadline → exec (.guardTimeout b) s = .next s) ∧
    (s.guardOf b.val = none → exec (.guardTimeout b) s = .next s))

/-- 02 R31 to R33: parity faults and their restoration. Bits of a T field of which two copies agree wait for their restore; every other flipped bit puts its field in safe behaviour, with the effect that its value has in its block. -/
def Obligations.ParityFaultsEnterSafeBehaviour : Prop :=
  ∀ (s : State) (a flip : BitVec 32) (agree : Bool) (r : RegRow), s.Canonical → s.powered = true → kindOf a.toNat = .reg r → a.toNat ≠ EVT_SRC_STAT.a 59 →
    let voted := if agree then flip &&& r.par &&& r.tri else 0#32
    let n := flip &&& r.par &&& ~~~voted
    (flip &&& r.par = 0#32 → exec (.parityScan a flip agree) s = .next s) ∧
    (n ≠ 0#32 →
      ∃ t : State, exec (.parityScan a flip agree) s = .next (if t.hw a.toNat = s.hw a.toNat then t else t.useChanged r a.toNat (s.hw a.toNat)) ∧
        t.reg a.toNat = s.reg a.toNat ^^^ n ∧ (t.parOf a.toNat).vote = (s.parOf a.toNat).vote ||| voted ∧
        (t.parOf a.toNat).bad = (s.parOf a.toNat).bad ||| (fieldSpread r.cut n &&& r.par) ∧
        fldGet (t.reg (integAddr (blockOf a.toNat))) ⟨26, 26⟩ = 1 ∧ fldGet (t.reg (EVT_SRC_STAT.a 59)) EVT_SRC_STAT.pend = 1 ∧
        t = { s with regs := t.regs, par := t.par, evt := t.evt, out := t.out, pcie := { s.pcie with pba := t.pcie.pba } } ∧
        (∀ k : Nat, (fieldSpread r.cut n &&& r.par).getLsbD k = true → (t.hw a.toNat).getLsbD k = (resetOf a.toNat).getLsbD k)) ∧
    (voted ≠ 0#32 → n = 0#32 →
      ∃ t : State, exec (.parityScan a flip agree) s = .next t ∧ (t.parOf a.toNat).vote = (s.parOf a.toNat).vote ||| voted ∧ t = { s with par := t.par } ∧
        ∃ u : State, exec (.parityRestore a) t = .next u ∧ (u.parOf a.toNat).vote = 0#32 ∧ u.reg a.toNat = s.reg a.toNat ∧
          fldGet (u.reg (integAddr (blockOf a.toNat))) ⟨25, 25⟩ = 1 ∧ fldGet (u.reg (EVT_SRC_STAT.a 59)) EVT_SRC_STAT.pend = 1)

/-- 02 R40: each source keeps a 16-bit count of its causes; every cause reaches it through `State.raise`. No hypothesis speaks of storms, so the count runs in them too. -/
def Obligations.CausesAddOneToTheirCount : Prop :=
  ∀ (s : State) (n : Fin 64), s.Canonical →
    let count := fun (u : State) => fldGet (u.reg (EVT_SRC_STAT.a n.val)) EVT_SRC_STAT.count
    count s ≤ 0xffff ∧
    (∀ c x : Nat, (s.raise n.val c x).now = s.now ∧ count (s.raise n.val c x) = if count s = 0xffff then 0xffff else count s + 1) ∧
    (∀ c x c' x' : Nat, count ((s.raise n.val c x).raise n.val c' x') = min 0xffff (count s + 2)) ∧
    (∀ (m : Fin 64) (c x : Nat), m ≠ n → count (s.raise m.val c x) = count s)

/-- 02 R39 to R43: a cause at its source (shown by the two commands whose whole effect is a cause), its clearing, the first-fault record and the storm window. -/
def Obligations.EventSourcesRecordClearAndCloseWindows : Prop :=
  (∀ (s : State), s.Canonical → s.powered = true →
    (∀ (c : Instr) (n cause idx : Nat), ((∃ p : Fin 4, c = .pllUnlock p ∧ n = 29 ∧ cause = 1 ∧ idx = p.val) ∨ (∃ k : Fin 8, c = .sensorFault k ∧ n = 63 ∧ cause = 5 ∧ idx = k.val)) →
      ∃ t : State, exec c s = .next t ∧ t = { s with regs := t.regs, evt := t.evt, out := t.out, pcie := { s.pcie with pba := t.pcie.pba } } ∧ (∀ a, a ≠ EVT_SRC_STAT.a n → t.reg a = s.reg a) ∧
        fldGet (t.reg (EVT_SRC_STAT.a n)) EVT_SRC_STAT.pend = 1 ∧ fldGet (t.reg (EVT_SRC_STAT.a n)) EVT_SRC_STAT.ff_valid = 1 ∧
        fldGet (t.reg (EVT_SRC_STAT.a n)) EVT_SRC_STAT.count = min 0xffff (fldGet (s.reg (EVT_SRC_STAT.a n)) EVT_SRC_STAT.count + 1) ∧
        (fldGet (s.reg (EVT_SRC_STAT.a n)) EVT_SRC_STAT.ff_valid = 0 → (t.evtSt n).ff = ⟨s.tim.frt, s.now, cause, idx⟩) ∧
        (fldGet (s.reg (EVT_SRC_STAT.a n)) EVT_SRC_STAT.pend = 1 → t.out = s.out))) ∧
  (∀ (s : State) (i : Fin 3) (n : Fin 64), s.Canonical → s.powered = true → s.guardOf 1 = none → s.roleOf i.val = 1 ∨ s.roleOf i.val = 2 →
    exec (.clearPend i n) s = .next (s.setF (EVT_SRC_STAT.a n.val) EVT_SRC_STAT.pend 0) ∧
    exec (.clearFfValid i n) s = .next (s.setF (EVT_SRC_STAT.a n.val) EVT_SRC_STAT.ff_valid 0) ∧
    exec (.eventCountClear i n) s = .next (s.setF (EVT_SRC_STAT.a n.val) EVT_SRC_STAT.count 0) ∧
    (let u := s.setF (EVT_SRC_STAT.a n.val) EVT_SRC_STAT.storm 0
     let sends := fldGet (s.hw (EVT_SRC_STAT.a n.val)) EVT_SRC_STAT.storm = 1 ∧ u.on (EVT_SRC_STAT.a n.val) EVT_SRC_STAT.pend = true ∧
       u.on (EVT_SRC_CFG.a n.val) EVT_SRC_CFG.msix_en = true ∧ u.on (EVT_SRC_STAT.a n.val) EVT_SRC_STAT.storm = false
     (¬sends → exec (.clearStorm i n) s = .next u) ∧
     (sends → u.msixPass n.val = true → exec (.clearStorm i n) s = .next { u with out := .msix n.val :: u.out }) ∧
     (sends → u.msixPass n.val = false → exec (.clearStorm i n) s = .next { u with pcie := { u.pcie with pba := u.pcie.pba.filter (fun k => k != n.val) ++ [n.val] } }))) ∧
  ((∀ (s : State) (i : Fin 3) (n : Fin 64), s.Canonical → s.MayAsk i.val 0x100500 →
    ∃ t : State, exec (.firstFaultRead i n) s = .next t ∧ s.Answered t 0x100500
      (timeWords (s.evtSt n.val).ff.frt ++ [n.val * 2 ^ 26 + (s.evtSt n.val).ff.idx % 4096 * 4096 + (s.evtSt n.val).ff.cause % 256 * 16 + fldGet (s.reg (EVT_SRC_STAT.a n.val)) EVT_SRC_STAT.ff_valid])) ∧
  (∀ (s : State) (n : Fin 64), s.Canonical → s.powered = true → (s.evtSt n.val).winOpen = true →
    ((s.evtSt n.val).winEnd ≤ s.now → ∃ t : State, exec (.stormWindowEnd n) s = .next t ∧ (t.evtSt n.val).winOpen = false ∧ (t.evtSt n.val).winCnt = 0 ∧
      (t.evtSt n.val).ff = (s.evtSt n.val).ff ∧ t = { s with evt := t.evt } ∧ ∀ m, m ≠ n.val → t.evtSt m = s.evtSt m) ∧
    (s.now < (s.evtSt n.val).winEnd → exec (.stormWindowEnd n) s = .next s)))

/-- 02 R47, R48: challenge and response, expiry and lockout. The challenge is a free value (log entry 3). That a right response for a role which the lifecycle state forbids counts as a wrong one is the model's choice (log entry 50). -/
def Obligations.RolesAreEnteredByChallenge : Prop :=
  ((∀ (s : State) (i : Fin 3) (op : BitVec 8), s.Canonical → s.powered = true → s.guardOf 2 = none → fldGet (s.reg rolChal) MBX_CTRL.req = 0 → op = 1 ∨ op = 2 ∨ op = 3 →
    ((s.lockOf op.toNat).locked = false → ∃ t : State, exec (.challengeRequest i op 0) s = .next t ∧
      t.sessOf i.val = { s.sessOf i.val with reqRole := op.toNat, chalRole := op.toNat, chal := Config.freeValue s.freeIdx, chalValid := true, chalEnd := s.now + 25000000 } ∧
      (∀ j, j ≠ i.val → t.sessOf j = s.sessOf j) ∧ t.Shows rolChal ((List.range 4).map (fun k => nbits (Config.freeValue s.freeIdx).toNat (32 * k + 31) (32 * k))) ∧
      t = { s with regs := t.regs, sess := t.sess, freeIdx := s.freeIdx + 1 }) ∧
    ((s.lockOf op.toNat).locked = true → ∃ t : State, exec (.challengeRequest i op 0) s = .next t ∧ fldGet (t.reg (rolChal + 4)) MBX_STAT.err = 1 ∧
      fldGet (t.reg (rolChal + 4)) MBX_STAT.err_code = 3 ∧ t.sessOf i.val = { s.sessOf i.val with reqRole := op.toNat } ∧ t = { s with regs := t.regs, sess := t.sess })) ∧
  (∀ (s : State) (i : Fin 3), s.Canonical → (s.sessOf i.val).chalValid = true →
    ((s.sessOf i.val).chalEnd < s.now → ∃ t : State, exec (.challengeExpiry i) s = .next t ∧ t.sessOf i.val = { s.sessOf i.val with chalValid := false } ∧ t = { s with sess := t.sess } ∧
      ∀ j, j ≠ i.val → t.sessOf j = s.sessOf j) ∧
    (s.now ≤ (s.sessOf i.val).chalEnd → exec (.challengeExpiry i) s = .next s)) ∧
  (∀ (s : State) (r : Fin 4), s.Canonical → (s.lockOf r.val).locked = true →
    ((s.lockOf r.val).lockEnd ≤ s.now → ∃ t : State, exec (.lockoutEnd r) s = .next t ∧ t.lockOf r.val = { s.lockOf r.val with locked := false } ∧ t = { s with lock := t.lock }) ∧
    (s.now < (s.lockOf r.val).lockEnd → exec (.lockoutEnd r) s = .next s))) ∧
  (∀ (s : State) (i : Fin 3) (k : BitVec 256), s.Canonical → s.powered = true → s.guardOf 2 = none → fldGet (s.reg rolResp) MBX_CTRL.req = 0 →
    (s.sessOf i.val).chalValid = true → s.now ≤ (s.sessOf i.val).chalEnd → s.secretOf (s.sessOf i.val).chalRole = some k → (s.sessOf i.val).chalRole ≠ 0 →
    let r := (s.sessOf i.val).chalRole
    let good := hmacSha256 (beBytes 32 k.toNat) (respMsg (s.sessOf i.val).chal r i.val) = s.respBytes
    (good → lcAllows s.fuse.state r = true → ∃ t : State, exec (.roleResponse i 0) s = .next t ∧ (t.sessOf i.val).role = r ∧ (t.sessOf i.val).lastResult = 1 ∧
      (t.sessOf i.val).chalValid = false ∧ t.lockOf r = {} ∧ t.Done s rolResp 8 ∧ ∀ j, j ≠ i.val → t.sessOf j = s.sessOf j) ∧
    (¬(good ∧ lcAllows s.fuse.state r = true) → ∃ t : State, exec (.roleResponse i 0) s = .next t ∧ (t.sessOf i.val).role = (s.sessOf i.val).role ∧ (t.sessOf i.val).lastResult = 2 ∧ (t.sessOf i.val).chalValid = false ∧
      (t.lockOf r).fails = (s.lockOf r).fails + 1 ∧ t.Done s rolResp 8 ∧
      (((s.lockOf r).fails + 1) % 4 = 0 → (t.lockOf r).locked = true ∧ (t.lockOf r).lockEnd = s.now + 250000000 * min 320 (10 * 2 ^ (s.lockOf r).locks))))

/-- 02 R44, R49, R50, R54: secrets, leaving a role, lifecycle requests and the audit mailbox. That a lifecycle request along no path leaves its code in ROL_LC_REQ is the model's choice (log entry 50). -/
def Obligations.SecretsLifecycleAndAudit : Prop :=
  (∀ (s : State) (i : Fin 3), s.Canonical → s.powered = true → s.guardOf 2 = none →
    (s.MayOrder i.val rolResp →
      (s.fuse.instUsed < 4 → ∃ t : State, exec (.replaceInstallerSecret i 0) s = .next t ∧ t.Done s rolResp 8 ∧
        t.fuse = { s.fuse with instUsed := s.fuse.instUsed + 1, instSecret := some (BitVec.ofNat 256 (beNat (s.respBytes))) }) ∧
      (4 ≤ s.fuse.instUsed → ∃ t : State, exec (.replaceInstallerSecret i 0) s = .next t ∧ t.Refused rolResp 4 ∧ t.fuse = s.fuse) ∧
      (s.fuse.operUsed < 8 → ∃ t : State, exec (.replaceOperatorSecret i 0) s = .next t ∧ t.Done s rolResp 8 ∧
        t.fuse = { s.fuse with operUsed := s.fuse.operUsed + 1, operSecret := some (BitVec.ofNat 256 (beNat (s.respBytes))) }) ∧
      (8 ≤ s.fuse.operUsed → ∃ t : State, exec (.replaceOperatorSecret i 0) s = .next t ∧ t.Refused rolResp 4 ∧ t.fuse = s.fuse)) ∧
    ((∃ t : State, exec (.roleLeave i) s = .next t ∧ (t.sessOf i.val).role = 0 ∧ (∀ j, j ≠ i.val → t.sessOf j = s.sessOf j) ∧
      t = { s with sess := t.sess, aud := t.aud, regs := t.regs, evt := t.evt, out := t.out, pcie := { s.pcie with pba := t.pcie.pba } } ∧
      ((s.sessOf i.val).role ≠ 0 → fldGet (t.reg (EVT_SRC_STAT.a 60)) EVT_SRC_STAT.pend = 1))) ∧
    (∀ target : BitVec 32, s.roleOf i.val = 3 →
      let n := target.toNat % 4
      (s.lcPath n = true → ∃ t : State, exec (.lifecycleRequest i target) s = .next t ∧ t.fuse = { s.fuse with target := n } ∧ fldGet (t.reg ROL_LC_REQ.a) ROL_LC_REQ.target = n) ∧
      (s.lcPath n = false → ∃ t : State, exec (.lifecycleRequest i target) s = .next t ∧ t.fuse = s.fuse ∧ fldGet (t.reg (EVT_SRC_STAT.a 61)) EVT_SRC_STAT.pend = 1 ∧ fldGet (t.reg ROL_LC_REQ.a) ROL_LC_REQ.target = n))) ∧
  (∀ (s : State) (i : Fin 3), s.Canonical → s.MayAsk i.val rolAud →
    (∀ arg : BitVec 16, arg.toNat < 4096 → ∃ t : State, exec (.auditReadEntry i arg) s = .next t ∧ s.Answered t rolAud
      ((List.range 8).map (fun k => if k < 4 then nbits (Cells.get (fun _ => 0#112) s.aud.ring arg.toNat).toNat (32 * k + 31) (32 * k) else 0))) ∧
    (∀ arg : BitVec 16, ∃ t : State, exec (.auditHeadDigest i arg) s = .next t ∧ s.Answered t rolAud ((List.range 8).map (fun k => leNat (slice (beBytes 32 s.aud.head.toNat) (4 * k) 4)))) ∧
    (∀ arg : BitVec 16, ∃ t : State, exec (.auditBaseDigest i arg) s = .next t ∧ s.Answered t rolAud ((List.range 8).map (fun k => leNat (slice (beBytes 32 s.aud.base.toNat) (4 * k) 4)))) ∧
    (∀ arg : BitVec 16, ∃ t : State, exec (.auditIndex i arg) s = .next t ∧ s.Answered t rolAud [(s.aud.next + 4095) % 4096, s.aud.cnt, 0, 0, 0, 0, 0, 0]))

/-- 03 R55 to R58: adjustments of the counters wait for the next TIME tick, on which each counter counts and then takes them in order. -/
def Obligations.TimeAdjustmentsActOnTheirCounter : Prop :=
  (∀ (s : State) (i : Fin 3), s.Canonical → s.MayOrder i.val timAdj →
    (∀ d : Fin 2, s.domOn d.val = true →
      (∃ t : State, exec (.addOffset i (BitVec.ofNat 16 (d.val + 1))) s = .next t ∧ t.Done s timAdj 4 ∧
        t = { s with regs := t.regs, tim := { s.tim with adj := s.tim.adj ++ [(d.val + 1, false, sint 32 (s.dw timAdj 0) * 4294967296 + (s.dw timAdj 1 % 65536 * 65536 : Nat))] } } ∧
        t.reg (TIM_ADJ_CNT.a i.val) = BitVec.ofNat 32 (min 0xffffffff ((s.reg (TIM_ADJ_CNT.a i.val)).toNat + 1)) ∧
        ∀ a, a ≠ timAdj → a ≠ TIM_ADJ_CNT.a i.val → (∀ k, k < 4 → a ≠ mbxData timAdj k) → t.reg a = s.reg a) ∧
      (s.dw timAdj 2 % 2 ^ 30 < 1000000000 → ∃ t : State, exec (.setTime i (BitVec.ofNat 16 (d.val + 1))) s = .next t ∧ t.Done s timAdj 4 ∧
        t = { s with regs := t.regs, evt := t.evt, out := t.out, aud := t.aud, pcie := { s.pcie with pba := t.pcie.pba }, tim := { s.tim with adj := s.tim.adj ++
          [(d.val + 1, true, ((mkTime (s.dw timAdj 0 + s.dw timAdj 1 % 65536 * 2 ^ 32) (s.dw timAdj 2 % 2 ^ 30) (s.dw timAdj 1 / 65536) : Nat) : Int))] } } ∧
        ∀ a, a ≠ timAdj → a ≠ EVT_SRC_STAT.a 60 → (∀ k, k < 4 → a ≠ mbxData timAdj k) → t.reg a = s.reg a) ∧
      (1000000000 ≤ s.dw timAdj 2 % 2 ^ 30 → ∃ t : State, exec (.setTime i (BitVec.ofNat 16 (d.val + 1))) s = .next t ∧ t.Refused timAdj 1 ∧ t.tim = s.tim)) ∧
    (∀ k : Fin 3, k = 0 ∨ s.domOn (k.val - 1) = true →
      let v := s.dw timAdj 1 % 16 * 4294967296 + s.dw timAdj 0
      (3996 * 4294967296 ≤ 1000 * v ∧ 1000 * v ≤ 4004 * 4294967296 → ∃ t : State, exec (.setIncrement i (BitVec.ofNat 16 k.val)) s = .next t ∧ t.Done s timAdj 4 ∧
        t.incReg k.val = v ∧ (k ≠ 0 → t.aud = s.aud) ∧ t = { s with regs := t.regs, evt := t.evt, out := t.out, aud := t.aud, pcie := { s.pcie with pba := t.pcie.pba } } ∧
        ∀ a, a ≠ timAdj → a ≠ TIM_INC.a k.val → a ≠ TIM_INC_INT.a k.val → a ≠ TIM_ADJ_CNT.a i.val → a ≠ EVT_SRC_STAT.a 60 → (∀ j, j < 4 → a ≠ mbxData timAdj j) → t.reg a = s.reg a) ∧
      (1000 * v < 3996 * 4294967296 ∨ 4004 * 4294967296 < 1000 * v → ∃ t : State, exec (.setIncrement i (BitVec.ofNat 16 k.val)) s = .next t ∧ t.Refused timAdj 1 ∧ t.tim = s.tim)) ∧
    (∀ k : BitVec 16, k = 0#16 ∨ k = 3#16 →
      ∃ t : State, exec (.addOffset i k) s = .next t ∧ t.Refused timAdj 2 ∧ t.tim = s.tim)) ∧
  (∀ s : State,
    (∀ d : Fin 2, s.tickTime.clock (d.val + 1) = adjAfter (d.val + 1) (if s.domOn d.val then (s.clock (d.val + 1) + s.incReg (d.val + 1)) % timeMod else s.clock (d.val + 1)) s.tim.adj) ∧
    s.tickTime.clock 0 = (s.clock 0 + s.incReg 0) % timeMod ∧ s.tickTime.tim.adj = [] ∧
    (∀ (c v : Nat) (x : Int), adjAfter c v [(c, false, x)] = taddU v x ∧ adjAfter c v [(c, true, x)] = x.toNat))

/-- 03 R59 to R64: domain health, the source of WKT, and its alignment. A change of health is judged once, when its tick settles (`State.wktSettle`), and a waiting align acts on the next tick (`State.alignTick`). -/
def Obligations.DomainHealthMovesWorkingTime : Prop :=
  ∀ (s : State), s.Canonical →
    (s.powered = true →
      (∀ (i : Fin 3) (d : Fin 2), s.May i.val (TIM_DOM_CTRL.a d.val) → s.domOn d.val = true → (s.parOf (TIM_DOM_STAT.a d.val)).bad = 0#32 →
        (s.domHealthy d.val = true → exec (.domainKick i d) s = .next ((s.setF (TIM_DOM_STAT.a d.val) TIM_DOM_STAT.lost 0).setDom d.val
          { s.domSt d.val with lastKick := some s.now, incKick := s.incReg (d.val + 1), lostRaised := false })) ∧
        (s.domHealthy d.val = false → ∃ t : State, exec (.domainKick i d) s = .next t ∧ t.domHealthy d.val = true ∧
          t.domSt d.val = { s.domSt d.val with lastKick := some s.now, incKick := s.incReg (d.val + 1), lostRaised := false } ∧ t.tim.evalDue = true ∧
          ((s.domSt d.val).lostRaised = true → fldGet (t.reg (EVT_SRC_STAT.a (30 + d.val))) EVT_SRC_STAT.pend = 1) ∧
          t = { s with regs := t.regs, evt := t.evt, out := t.out, tim := { s.tim with domA := t.tim.domA, domB := t.tim.domB, evalDue := true }, pcie := { s.pcie with pba := t.pcie.pba } } ∧
          ∀ a, a ≠ TIM_DOM_STAT.a d.val → a ≠ EVT_SRC_STAT.a (30 + d.val) → t.reg a = s.reg a)) ∧
      (∀ (c : Instr) (d : Fin 2), ((∃ i : Fin 3, c = .domainDeclareLost i d ∧ s.May i.val (TIM_DOM_CTRL.a d.val)) ∨ (c = .kickTimeout d ∧ s.kickExpired d.val = true)) →
        s.domHealthy d.val = true → ∃ t : State, exec c s = .next t ∧ t.domHealthy d.val = false ∧ t.domSt d.val = { s.domSt d.val with lostRaised := true } ∧ t.tim.evalDue = true ∧
          fldGet (t.reg (EVT_SRC_STAT.a (30 + d.val))) EVT_SRC_STAT.pend = 1 ∧
          t = { s with regs := t.regs, evt := t.evt, out := t.out, tim := { s.tim with domA := t.tim.domA, domB := t.tim.domB, evalDue := true }, pcie := { s.pcie with pba := t.pcie.pba } } ∧
          ∀ a, a ≠ TIM_DOM_STAT.a d.val → a ≠ EVT_SRC_STAT.a (30 + d.val) → t.reg a = s.reg a) ∧
      (s.wktState = 2 ∧ (s.wktErr s.wktSrc).natAbs < s.slew → ∃ t : State, exec .wktLocked s = .next t ∧ t.wktState = 1 ∧ t.clock 3 = s.clock (s.wktSrc + 1) ∧
        fldGet (t.reg (EVT_SRC_STAT.a 31)) EVT_SRC_STAT.pend = 1 ∧ t = { s with regs := t.regs, evt := t.evt, out := t.out, tim := { s.tim with wkt := t.tim.wkt }, pcie := { s.pcie with pba := t.pcie.pba } } ∧
        ∀ a, a ≠ TIM_WKT_STAT.a → a ≠ EVT_SRC_STAT.a 31 → t.reg a = s.reg a) ∧
      (¬(s.wktState = 2 ∧ (s.wktErr s.wktSrc).natAbs < s.slew) → exec .wktLocked s = .next s) ∧
      (∀ i : Fin 3, s.May i.val TIM_WKT_CTRL.a → exec (.align i) s = .next (s.setF TIM_WKT_CTRL.a TIM_WKT_CTRL.align 1))) ∧
    (s.tim.evalDue = true → (s.wktState = 1 ∨ s.wktState = 2) →
      let t := s.wktSettle
      t = { s with regs := t.regs, evt := t.evt, out := t.out, tim := { s.tim with frozen := t.tim.frozen, evalDue := false }, pcie := { s.pcie with pba := t.pcie.pba } } ∧
      (∀ a, a ≠ TIM_WKT_STAT.a → a ≠ EVT_SRC_STAT.a 31 → t.reg a = s.reg a) ∧
      (s.domHealthy 0 = false → s.domHealthy 1 = false → t.wktState = 3 ∧ t.tim.frozen = (s.domSt s.wktSrc).incKick) ∧
      (∀ d, s.wktNamed = some d → d ≠ s.wktSrc →
        (s.errTooBig d = false → t.wktState = 2 ∧ t.wktSrc = d ∧ t.tim.frozen = s.tim.frozen) ∧ (s.errTooBig d = true → t.wktState = 3 ∧ t.tim.frozen = (s.domSt s.wktSrc).incKick)) ∧
      (s.wktNamed = some s.wktSrc → t.wktState = s.wktState ∧ t.wktSrc = s.wktSrc ∧ t.tim.frozen = s.tim.frozen)) ∧
    (s.tim.evalDue = false → s.wktSettle = s) ∧
    (fldGet (s.reg TIM_WKT_CTRL.a) TIM_WKT_CTRL.align = 0 → s.alignTick = s) ∧
    (fldGet (s.reg TIM_WKT_CTRL.a) TIM_WKT_CTRL.align = 1 →
      (∀ d : Nat, s.wktNamed = some d → s.anyRunning = false →
        let t := s.alignTick
        t.wktState = 1 ∧ t.wktSrc = d ∧ t.clock 3 = s.clock (d + 1) ∧ t.wktPrev = s.clock (d + 1) ∧ fldGet (t.reg TIM_WKT_CTRL.a) TIM_WKT_CTRL.align = 0 ∧
        fldGet (t.reg (EVT_SRC_STAT.a 31)) EVT_SRC_STAT.pend = 1 ∧
        t = { s with regs := t.regs, evt := t.evt, out := t.out, wktPrev := t.wktPrev, tim := { s.tim with wkt := t.tim.wkt }, pcie := { s.pcie with pba := t.pcie.pba } } ∧
        ∀ a, a ≠ TIM_WKT_CTRL.a → a ≠ TIM_WKT_STAT.a → a ≠ EVT_SRC_STAT.a 31 → t.reg a = s.reg a) ∧
      (s.wktNamed = none ∨ s.anyRunning = true → s.alignTick = (s.setF TIM_WKT_CTRL.a TIM_WKT_CTRL.align 0).raise 31 0x14 0))

/-- 03 R69, R71 to R74: snapshots, timestamp FIFOs, pulses and link delay. -/
def Obligations.TimeReadsPulsesAndLinkDelay : Prop :=
  ∀ (s : State), s.Canonical → s.powered = true →
    (∀ i : Fin 3, s.MayAsk i.val 0x200200 → ∃ t : State, exec (.timeSnapshot i 0) s = .next t ∧
      s.Answered t 0x200200 (timeWords s.tim.frt ++ timeWords s.tim.dta ++ timeWords s.tim.dtb ++ timeWords s.tim.wkt)) ∧
    (∀ i : Fin 3, s.MayAsk i.val 0x200400 →
      (∀ e r, s.tim.rxts = e :: r → ∃ t : State, exec (.rxTimestampPop i 0) s = .next t ∧ t.Shows 0x200400 (tsWords e) ∧
        t = { s with regs := t.regs, tim := { s.tim with rxts := r } } ∧ ∀ a, a < 0x200400 ∨ 0x200440 ≤ a → t.reg a = s.reg a) ∧
      (s.tim.rxts = [] → ∃ t : State, exec (.rxTimestampPop i 0) s = .next t ∧ fldGet (t.reg 0x200404) MBX_STAT.err = 1 ∧ fldGet (t.reg 0x200404) MBX_STAT.err_code = 1 ∧
        fldGet (t.reg 0x200404) MBX_STAT.valid = fldGet (s.reg 0x200404) MBX_STAT.valid ∧ t = { s with regs := t.regs } ∧ ∀ a, a ≠ 0x200400 → a ≠ 0x200404 → t.reg a = s.reg a)) ∧
    (∀ i : Fin 3, s.MayAsk i.val 0x200500 →
      (∀ e r, s.tim.txts = e :: r → ∃ t : State, exec (.txTimestampPop i 0) s = .next t ∧ t.Shows 0x200500 (tsWords e) ∧
        t = { s with regs := t.regs, tim := { s.tim with txts := r } } ∧ ∀ a, a < 0x200500 ∨ 0x200540 ≤ a → t.reg a = s.reg a) ∧
      (s.tim.txts = [] → ∃ t : State, exec (.txTimestampPop i 0) s = .next t ∧ fldGet (t.reg 0x200504) MBX_STAT.err = 1 ∧ fldGet (t.reg 0x200504) MBX_STAT.err_code = 1 ∧
        fldGet (t.reg 0x200504) MBX_STAT.valid = fldGet (s.reg 0x200504) MBX_STAT.valid ∧ t = { s with regs := t.regs } ∧ ∀ a, a ≠ 0x200500 → a ≠ 0x200504 → t.reg a = s.reg a)) ∧
    (∀ k, s.tim.ppsDue = some k → s.ppsOn = true → exec .ppsOutSecond s = .next { s with
      tim := { s.tim with ppsOut := true, ppsDue := none, ppsFall := 16 * (s.now - 1) + k + 4000 * s.f TIM_PPS_CFG.a TIM_PPS_CFG.width }
      out := .edge "TIME_PPS_OUT" 0 true (16 * (s.now - 1) + k) :: s.out }) ∧
    (s.tim.ppsDue = none ∨ s.ppsOn = false → exec .ppsOutSecond s = .next s) ∧
    (exec .ppsOutFall s = .next (if s.tim.ppsOut = true ∧ s.tim.ppsFall ≤ 16 * s.now then
      { s with tim := { s.tim with ppsOut := false }, out := .edge "TIME_PPS_OUT" 0 false s.tim.ppsFall :: s.out } else s)) ∧
    (∀ len : BitVec 32, s.on TIM_PPS_CFG.a TIM_PPS_CFG.in_en = true → 100 ≤ len.toNat → ∃ t : State, exec (.ppsInEdge len) s = .next t ∧
      s.Answered t 0x200600 (timeWords s.tim.frt ++ timeWords s.tim.dta ++ timeWords s.tim.dtb ++ timeWords s.tim.wkt) ∧ t.reg 0x200600 = s.reg 0x200600 ∧
      (fldGet (s.reg 0x200604) MBX_STAT.valid = 1 → fldGet (t.reg 0x200604) MBX_STAT.overrun = 1)) ∧
    (∀ (i : Fin 3) (n : Fin 24) (v : BitVec 32), s.May i.val (TIM_PORT_LDLY_MEAS.a n.val) →
      let c := s.f (TIM_PORT_LDLY_CAL.a n.val) TIM_PORT_LDLY_CAL.cal
      let a := s.on (TIM_PORT_CFG.a n.val) TIM_PORT_CFG.dom_a
      let b := s.on (TIM_PORT_CFG.a n.val) TIM_PORT_CFG.dom_b
      let bad := decide (s.f (TIM_PORT_CFG.a n.val) TIM_PORT_CFG.ldly_tol * 16 < (v.toNat % 2 ^ 24 - c) + (c - v.toNat % 2 ^ 24))
      ∃ t : State, exec (.ldlyMeasurementWrite i n v) s = .next t ∧ fldGet (t.reg (TIM_PORT_LDLY_MEAS.a n.val)) TIM_PORT_LDLY_MEAS.meas = v.toNat % 2 ^ 24 ∧
        fldGet (t.reg (TIM_PORT_LDLY_MEAS.a n.val)) TIM_PORT_LDLY_MEAS.out_tol = (if a || b then b2n bad else fldGet (s.reg (TIM_PORT_LDLY_MEAS.a n.val)) TIM_PORT_LDLY_MEAS.out_tol) ∧
        (bad = true → a = true → fldGet (t.reg (EVT_SRC_STAT.a 30)) EVT_SRC_STAT.pend = 1) ∧ (bad = true → b = true → fldGet (t.reg (EVT_SRC_STAT.a 31)) EVT_SRC_STAT.pend = 1) ∧
        t = { s with regs := t.regs, par := t.par, aud := t.aud, evt := t.evt, out := t.out, pcie := { s.pcie with pba := t.pcie.pba } } ∧
        ∀ x, x ≠ TIM_PORT_LDLY_MEAS.a n.val → x ≠ EVT_SRC_STAT.a 30 → x ≠ EVT_SRC_STAT.a 31 → x ≠ EVT_SRC_STAT.a 60 → t.reg x = s.reg x) ∧
    (∀ (i : Fin 3) (n : Fin 24), s.May i.val (TIM_PORT_CFG.a n.val) →
      ∃ t : State, exec (.ldlyAccept i n) s = .next t ∧ fldGet (t.reg (TIM_PORT_LDLY_CAL.a n.val)) TIM_PORT_LDLY_CAL.cal = s.f (TIM_PORT_LDLY_MEAS.a n.val) TIM_PORT_LDLY_MEAS.meas ∧
        fldGet (t.reg (TIM_PORT_LDLY_MEAS.a n.val)) TIM_PORT_LDLY_MEAS.out_tol = 0 ∧ fldGet (t.reg (TIM_PORT_LDLY_MEAS.a n.val)) TIM_PORT_LDLY_MEAS.meas = fldGet (s.reg (TIM_PORT_LDLY_MEAS.a n.val)) TIM_PORT_LDLY_MEAS.meas ∧
        t = { s with regs := t.regs, par := t.par, aud := t.aud, evt := t.evt, out := t.out, pcie := { s.pcie with pba := t.pcie.pba } } ∧
        ∀ x, x ≠ TIM_PORT_LDLY_MEAS.a n.val → x ≠ TIM_PORT_LDLY_CAL.a n.val → x ≠ EVT_SRC_STAT.a 60 → t.reg x = s.reg x)

/-- 04 R79 to R81, R84, R94: the phase pins and the snapshot. A filter takes a level once, flt_len + 1 samples after it appeared; the open point of its start is log entry 53. -/
def Obligations.PhasePinsGiveObservations : Prop :=
  ∀ (s : State) (p d : Fin 4) (held back : BitVec 16), s.Canonical → s.powered = true →
    let x := s.ph d.val
    let flt := s.f (PHS_CFG.a d.val) PHS_CFG.flt_len
    let stamp : Int := (((4 * s.now / 5 : Nat) : Int) - (back.toNat : Int)) * ((5 * 4294967296 : Nat) : Int)
    let ready := 5 * (4 * s.now / 5 - (back.toNat - flt)) / 4
    (∀ rise : Bool, (∀ e, e < 4 → (s.phUses e 0 p.val = true ↔ e = d.val)) →
      (flt + 1 ≤ held.toNat → flt ≤ back.toNat → x.levA ≠ rise →
        let soon := ∃ l : Int, x.lastEdge = some l ∧ (stamp - l) * (s.f (PHS_LIM.a d.val) PHS_LIM.vel_max * s.phN d.val : Nat) < 4294967296 * (4 * 4294967296)
        (edgeSel (s.f (PHS_CFG.a d.val) PHS_CFG.edge_sel) rise = true →
          (¬soon → x.queue.length < 2 → exec (.phaseEdge p rise held back) s = .next ((s.setLev p.val 0 rise).setPh d.val
            { x with levA := rise, lastEdge := some stamp, queue := x.queue ++ [⟨0, 0, stamp, 0, false, false, false, ready⟩] })) ∧
          (soon → exec (.phaseEdge p rise held back) s = .next ((((s.setLev p.val 0 rise).setPh d.val { x with levA := rise }).bump (PHS_DISC.a d.val) PHS_DISC.outliers).raise 32 4 d.val))) ∧
        (edgeSel (s.f (PHS_CFG.a d.val) PHS_CFG.edge_sel) rise = false → exec (.phaseEdge p rise held back) s = .next ((s.setLev p.val 0 rise).setPh d.val { x with levA := rise }))) ∧
      (held.toNat < flt + 1 ∨ back.toNat < flt ∨ x.levA = rise → exec (.phaseEdge p rise held back) s = .next (s.setLev p.val 0 rise))) ∧
    ((∀ e, e < 4 → (s.phUses e 1 p.val = true ↔ e = d.val)) → flt + 1 ≤ held.toNat → flt ≤ back.toNat →
      (∀ a b : Bool,
        let tpc := s.f (PHS_TPC.a d.val) PHS_TPC.tu_per_count
        let fwd := quadFwd x.levA x.levB a b != s.on (PHS_CFG.a d.val) PHS_CFG.swap_ab
        ((x.levA = a ∧ x.levB ≠ b) ∨ (x.levA ≠ a ∧ x.levB = b) → x.queue.length < 2 →
          let c := if fwd then (x.count + tpc) % 4294967296 else (x.count + 4294967296 - tpc) % 4294967296
          exec (.quadTransition p a b false held back) s = .next (((s.setLev p.val 0 a).setLev p.val 1 b).setPh d.val
            { x with levA := a, levB := b, since := s.now, count := c, queue := x.queue ++ [⟨1, c, stamp, 0, false, false, false, ready⟩] })) ∧
        (x.levA = a → x.levB = b → exec (.quadTransition p a b false held back) s = .next ((s.setLev p.val 0 a).setLev p.val 1 b)) ∧
        (x.levA ≠ a → x.levB ≠ b → (x.quadErr.filter (fun t => decide (s.now < t + 250000))).length < 7 → ∃ t : State, exec (.quadTransition p a b false held back) s = .next t ∧
          t.ph d.val = { x with levA := a, levB := b, since := s.now, quadErr := s.now :: x.quadErr.filter (fun t => decide (s.now < t + 250000)) } ∧
          fldGet (t.reg (EVT_SRC_STAT.a 32)) EVT_SRC_STAT.pend = 1 ∧ t = { s with regs := t.regs, evt := t.evt, out := t.out, phs := t.phs, phLev := t.phLev, pcie := { s.pcie with pba := t.pcie.pba } } ∧
          ∀ y, y ≠ PHS_DISC.a d.val → y ≠ EVT_SRC_STAT.a 32 → t.reg y = s.reg y)) ∧
      (x.zAt ≠ some stamp → x.queue.length < 2 → let off := s.f (PHS_OFFSET.a d.val) PHS_OFFSET.offset
        ∃ t : State, exec (.zEdge p held back) s = .next t ∧
          t.ph d.val = { x with since := s.now, zAt := some stamp, count := off, queue := x.queue ++ [⟨1, off, stamp, 0, false, false, true, ready⟩] } ∧
          fldGet (t.reg (PHS_STAT.a d.val)) PHS_STAT.z_seen = 1 ∧ t = { s with regs := t.regs, phs := t.phs } ∧ (∀ y, y ≠ PHS_STAT.a d.val → t.reg y = s.reg y) ∧
          ∀ e, e ≠ d.val → t.ph e = s.ph e)) ∧
    (∀ i : Fin 3, s.MayAsk i.val 0x300400 →
      let words := fun u : State => [(u.ph d.val).hat, ubits 64 (u.ph d.val).omega % 4294967296, ubits 64 (u.ph d.val).omega / 4294967296, (u.ph d.val).theta / 4294967296 % 4294967296,
        nsOf u.tim.wkt, secOf u.tim.wkt % 4294967296]
      (s.obsDue d.val = false → ∃ t : State, exec (.phaseSnapshot i (BitVec.ofNat 16 d.val)) s = .next t ∧ s.Answered t 0x300400 (words s)) ∧
      ∃ t : State, exec (.phaseSnapshot i (BitVec.ofNat 16 d.val)) s = .next t ∧ t.Shows 0x300400 (words ((s.asked 0x300400 0 d.val).obsSettle d.val)))

/-- 04 R77, R78, R81, R83 to R88, R92, 06 R142: the states of a phase domain and its loop. The quotient of the prediction is one of two neighbours (log entry 12). -/
def Obligations.PhaseDomainsChangeStateAndSteer : Prop :=
  (∀ (s : State) (i : Fin 3) (d : Fin 4), s.Canonical →
    (s.May i.val (PHS_CFG.a d.val) → ∀ v : BitVec 32,
      (fldGet v PHS_CFG.enable = 1 → fldGet v PHS_CFG.src ≠ 3 → s.phState d.val = 0 → ∃ t : State, exec (.phaseEnableWrite i d v) s = .next t ∧ t.phState d.val = 1 ∧
        (t.ph d.val).theta = 0 ∧ (t.ph d.val).omega = 0 ∧ (t.ph d.val).acqN = 0 ∧ (t.ph d.val).queue = [] ∧ (t.ph d.val).count = s.f (PHS_OFFSET.a d.val) PHS_OFFSET.offset ∧
        (t.ph d.val).levA = s.lev (fldGet v PHS_CFG.pin_sel) 0 ∧ (t.ph d.val).levB = s.lev (fldGet v PHS_CFG.pin_sel) 1 ∧
        t.reg (PHS_CFG.a d.val) = (s.reg (PHS_CFG.a d.val) &&& 0x3f0000#32) ||| (v &&& 0xffc0ffff#32) ∧
        t = { s with regs := t.regs, par := t.par, aud := t.aud, evt := t.evt, out := t.out, phs := t.phs, pcie := { s.pcie with pba := t.pcie.pba } } ∧ (∀ e, e ≠ d.val → t.ph e = s.ph e) ∧
        ∀ a, a ≠ PHS_CFG.a d.val → a ≠ PHS_STAT.a d.val → a ≠ EVT_SRC_STAT.a 60 → t.reg a = s.reg a) ∧
      (fldGet v PHS_CFG.enable = 0 ∨ fldGet v PHS_CFG.src = 3 → s.phState d.val ≠ 0 → ∃ t : State, exec (.phaseEnableWrite i d v) s = .next t ∧ t.phState d.val = 0 ∧
        t.ph d.val = { hat := (s.ph d.val).hat, hatPrev := (s.ph d.val).hat, rev := (s.ph d.val).rev } ∧ s.Cancelled t d.val ∧ (∀ e, e ≠ d.val → t.ph e = s.ph e) ∧
        t = { s with regs := t.regs, par := t.par, aud := t.aud, evt := t.evt, out := t.out, phs := t.phs, seq := t.seq, pcie := { s.pcie with pba := t.pcie.pba } })) ∧
    (s.May i.val (PHS_CTRL.a d.val) →
      (s.phState d.val ≠ 0 → ∃ t : State, exec (.phaseRestart i d) s = .next t ∧ t.phState d.val = 1 ∧ (t.ph d.val).theta = 0 ∧ (t.ph d.val).omega = 0 ∧ (t.ph d.val).acqN = 0 ∧
        s.Cancelled t d.val ∧ (∀ e, e ≠ d.val → t.ph e = s.ph e) ∧ t = { s with regs := t.regs, evt := t.evt, out := t.out, phs := t.phs, seq := t.seq, pcie := { s.pcie with pba := t.pcie.pba } }) ∧
      (s.phState d.val ≠ 0 → s.phState d.val ≠ 4 → ∃ t : State, exec (.phaseDeclareLost i d) s = .next t ∧ t.phState d.val = 4 ∧ (t.ph d.val).hat = (s.ph d.val).hat ∧
        (t.ph d.val).hadLoss = true ∧ fldGet (t.reg (EVT_SRC_STAT.a 32)) EVT_SRC_STAT.pend = 1 ∧ s.Cancelled t d.val ∧ (∀ e, e ≠ d.val → t.ph e = s.ph e) ∧
        (t.ph d.val).queue = (if s.obsDue d.val then (s.ph d.val).queue.drop 1 else (s.ph d.val).queue) ∧
        t = { s with regs := t.regs, evt := t.evt, out := t.out, phs := t.phs, seq := t.seq, pcie := { s.pcie with pba := t.pcie.pba } }) ∧
      (s.phState d.val = 4 → exec (.phaseDeclareLost i d) s = .next (if s.obsDue d.val then s.setPh d.val { s.ph d.val with queue := (s.ph d.val).queue.drop 1 } else s)) ∧
      (s.phState d.val = 0 → exec (.phaseRestart i d) s = .next s ∧ exec (.phaseDeclareLost i d) s = .next s))) ∧
  (∀ (s : State) (d : Fin 4), s.Canonical → s.powered = true →
    let x := s.ph d.val
    (s.obsDue d.val = false → exec (.observationApply d) s = .next s) ∧
    (∀ (o : PhObs) (r : List PhObs), s.obsDue d.val = true → x.queue = o :: r →
      ∃ t : State, exec (.observationApply d) s = .next t ∧ (t.ph d.val).queue = r ∧ (∀ e, e ≠ d.val → t.ph e = s.ph e) ∧
        t = { s with regs := t.regs, evt := t.evt, out := t.out, phs := t.phs, freeIdx := t.freeIdx, pcie := { s.pcie with pba := t.pcie.pba } } ∧
        (∀ a, a ≠ PHS_STAT.a d.val → a ≠ PHS_DISC.a d.val → a ≠ EVT_SRC_STAT.a 32 → t.reg a = s.reg a) ∧
        (o.kind = 2 → o.fault = true ∨ o.capBad = true → (t.ph d.val).theta = x.theta ∧ (t.ph d.val).omega = x.omega ∧ t.phState d.val = s.phState d.val ∧
          fldGet (t.reg (EVT_SRC_STAT.a 32)) EVT_SRC_STAT.pend = 1) ∧
        (o.kind = 1 → s.phState d.val = 1 → x.acqN = 0 → (t.ph d.val).theta = o.theta % 4294967296 * 4294967296 ∧ (t.ph d.val).omega = 0 ∧ (t.ph d.val).acqN = 1 ∧
          (t.ph d.val).hat = o.theta % 4294967296 ∧ t.phState d.val = 1) ∧
        (o.kind = 1 → s.phState d.val = 4 → (t.ph d.val).theta = o.theta % 4294967296 * 4294967296 ∧ (t.ph d.val).omega = 0 ∧ (t.ph d.val).acqN = 1 ∧ t.phState d.val = 1) ∧
        (o.kind = 1 → s.phState d.val = 2 → s.on (PHS_STAT.a d.val) PHS_STAT.standstill = false → x.reest ≠ 1 → s.phSrc d.val = 1 →
          let back := ((s.now * 17179869184 : Nat) : Int) - o.stamp
          let q := x.omega * back / (17179869184 : Nat)
          let em := min 0x4000 (s.f (PHS_LIM.a d.val) PHS_LIM.e_max) * 65536
          ∃ b : Int, (b = q ∨ b = q + 1) ∧
            let e := adiff o.theta ((((x.theta : Int) - b) % (18446744073709551616 : Int)).toNat / 4294967296)
            (em < e.natAbs → (t.ph d.val).theta = x.theta ∧ (t.ph d.val).omega = x.omega ∧ fldGet (t.reg (EVT_SRC_STAT.a 32)) EVT_SRC_STAT.pend = 1) ∧
            (e.natAbs ≤ em → ((t.ph d.val).theta : Int) = ((x.theta : Int) + (s.f (PHS_GAIN.a d.val) PHS_GAIN.kp : Int) * e * 65536) % (18446744073709551616 : Int) ∧
              ((t.ph d.val).omega.natAbs ≤ s.f (PHS_LIM.a d.val) PHS_LIM.vel_max * 4294967296)))) ∧
    (s.obsSilent d.val = true →
      (s.phState d.val = 1 → ∃ t : State, exec (.obsTimeout d) s = .next t ∧ t.phState d.val = 1 ∧ (t.ph d.val).theta = 0 ∧ (t.ph d.val).omega = 0 ∧ (t.ph d.val).acqN = 0 ∧
        (t.ph d.val).since = s.now ∧ t = { s with regs := t.regs, phs := t.phs } ∧ ∀ a, a ≠ PHS_STAT.a d.val → t.reg a = s.reg a) ∧
      (s.phState d.val = 2 → s.phSrc d.val ≠ 1 → ∃ t : State, exec (.obsTimeout d) s = .next t ∧ t.phState d.val = 3 ∧ t.ph d.val = { x with holdSince := s.now } ∧
        fldGet (t.reg (EVT_SRC_STAT.a 32)) EVT_SRC_STAT.pend = 1 ∧ t = { s with regs := t.regs, evt := t.evt, out := t.out, phs := t.phs, pcie := { s.pcie with pba := t.pcie.pba } } ∧
        ∀ a, a ≠ PHS_STAT.a d.val → a ≠ EVT_SRC_STAT.a 32 → t.reg a = s.reg a) ∧
      (s.phState d.val = 2 → s.phSrc d.val = 1 → s.on (PHS_STAT.a d.val) PHS_STAT.standstill = false → ∃ t : State, exec (.obsTimeout d) s = .next t ∧ t.phState d.val = 2 ∧
        (t.ph d.val).omega = 0 ∧ (t.ph d.val).theta = x.count * 4294967296 ∧ (t.ph d.val).hat = x.count ∧ fldGet (t.reg (PHS_STAT.a d.val)) PHS_STAT.standstill = 1)) ∧
    (s.obsSilent d.val = false → exec (.obsTimeout d) s = .next s) ∧
    (s.phState d.val = 3 → x.holdSince + 250000 * s.f (PHS_TIMING.a d.val) PHS_TIMING.hold_time ≤ s.now →
      (s.obsDue d.val = false → ∃ t : State, exec (.holdTimeExpiry d) s = .next t ∧ t.phState d.val = 4 ∧ (t.ph d.val).hat = x.hat ∧ s.Cancelled t d.val ∧
        fldGet (t.reg (EVT_SRC_STAT.a 32)) EVT_SRC_STAT.pend = 1) ∧
      (s.obsDue d.val = true → (s.obsApply d.val).phState d.val = 2 → exec (.holdTimeExpiry d) s = .next s)) ∧
    (s.now < x.holdSince + 250000 * s.f (PHS_TIMING.a d.val) PHS_TIMING.hold_time → exec (.holdTimeExpiry d) s = .next s))

/-- 05 R99 to R101: decode of encode, over every Yufen instruction and every operand that its encoding admits. -/
def Obligations.YufenWordsRoundTrip : Prop :=
  ∀ (i : Instr) (w : Word), encodeYufen i = some w → ∃ sq : Fin 8, decodeYufen sq w = some i

/-- 05 R100, R101: words of the spec's own listing decode as it lists them. -/
def Obligations.ListedYufenWordsDecode : Prop :=
  ∀ sq : Fin 8, decodeYufen sq 0xA0000000#32 = some (.iTget sq 0 0) ∧ decodeYufen sq 0x6040000F#32 = some (.iLui sq 1 15) ∧
    decodeYufen sq 0x4C444240#32 = some (.iOri sq 1 1 0x4240) ∧ decodeYufen sq 0xA4040000#32 = some (.iTadd sq 0 0 1) ∧
    decodeYufen sq 0x6D001000#32 = some (.iLdt sq 1 0 0x1000) ∧ decodeYufen sq 0xDF000000#32 = some (.iWaitt sq 3) ∧
    decodeYufen sq 0x0C000000#32 = some (.iWdog sq) ∧ decodeYufen sq 0x983FFFF6#32 = some (.iJal sq 0 0x3ffff6) ∧
    decodeYufen sq 0#32 = none ∧ decodeYufen sq 0xFFFFFFFF#32 = none ∧ decodeYufen sq 0x04000001#32 = none

/-- 05 R96 to R99, R101 to R104, R106: the results of the instructions on general, time and angle registers. -/
def Obligations.YufenComputesItsResults : Prop :=
  (∀ (s : State) (q : Fin 8) (d a b : BitVec 4), s.Canonical →
    (s.Issues q.val (yR 0x08 d a b) → s.Yields (exec (.iAdd q d a b) s) q.val d (s.gr q.val a + s.gr q.val b) 1) ∧
    (s.Issues q.val (yR 0x09 d a b) → s.Yields (exec (.iSub q d a b) s) q.val d (s.gr q.val a - s.gr q.val b) 1) ∧
    (s.Issues q.val (yR 0x0A d a b) → s.Yields (exec (.iAnd q d a b) s) q.val d (s.gr q.val a &&& s.gr q.val b) 1) ∧
    (s.Issues q.val (yR 0x0B d a b) → s.Yields (exec (.iOr q d a b) s) q.val d (s.gr q.val a ||| s.gr q.val b) 1) ∧
    (s.Issues q.val (yR 0x0C d a b) → s.Yields (exec (.iXor q d a b) s) q.val d (s.gr q.val a ^^^ s.gr q.val b) 1) ∧
    (s.Issues q.val (yR 0x0D d a b) → s.Yields (exec (.iSll q d a b) s) q.val d (s.gr q.val a <<< ((s.gr q.val b).toNat % 32)) 1) ∧
    (s.Issues q.val (yR 0x0E d a b) → s.Yields (exec (.iSrl q d a b) s) q.val d (s.gr q.val a >>> ((s.gr q.val b).toNat % 32)) 1) ∧
    (s.Issues q.val (yR 0x0F d a b) → s.Yields (exec (.iSra q d a b) s) q.val d ((s.gr q.val a).sshiftRight ((s.gr q.val b).toNat % 32)) 1) ∧
    (s.Issues q.val (yR 0x10 d a b) → s.Yields (exec (.iMul q d a b) s) q.val d (s.gr q.val a * s.gr q.val b) 2) ∧
    (∀ imm : BitVec 18,
      (s.Issues q.val (yI 0x11 d a imm) → s.Yields (exec (.iAddi q d a imm) s) q.val d (s.gr q.val a + imm.signExtend 32) 1) ∧
      (s.Issues q.val (yI 0x12 d a imm) → s.Yields (exec (.iAndi q d a imm) s) q.val d (s.gr q.val a &&& imm.setWidth 32) 1) ∧
      (s.Issues q.val (yI 0x13 d a imm) → s.Yields (exec (.iOri q d a imm) s) q.val d (s.gr q.val a ||| imm.setWidth 32) 1) ∧
      (s.Issues q.val (yI 0x14 d a imm) → s.Yields (exec (.iXori q d a imm) s) q.val d (s.gr q.val a ^^^ imm.setWidth 32) 1)) ∧
    (∀ sh : BitVec 5,
      (s.Issues q.val (yI 0x15 d a (BitVec.ofNat 18 sh.toNat)) → s.Yields (exec (.iSlli q d a sh) s) q.val d (s.gr q.val a <<< sh.toNat) 1) ∧
      (s.Issues q.val (yI 0x16 d a (BitVec.ofNat 18 sh.toNat)) → s.Yields (exec (.iSrli q d a sh) s) q.val d (s.gr q.val a >>> sh.toNat) 1) ∧
      (s.Issues q.val (yI 0x17 d a (BitVec.ofNat 18 sh.toNat)) → s.Yields (exec (.iSrai q d a sh) s) q.val d ((s.gr q.val a).sshiftRight sh.toNat) 1)) ∧
    (∀ imm : BitVec 16, s.Issues q.val (yU 0x18 d imm) → s.Yields (exec (.iLui q d imm) s) q.val d (imm.setWidth 32 <<< 16) 1) ∧
    (∀ k : Fin 5, s.Issues q.val (yI 0x05 d 0 (BitVec.ofNat 18 k.val)) → s.Yields (exec (.iRds q d k) s) q.val d
      (if k.val = 0 then (s.sq q.val).ws else if k.val = 1 then BitVec.ofNat 32 q.val else if k.val = 2 then BitVec.ofNat 32 (256 - (s.sq q.val).used)
       else if k.val = 3 then BitVec.ofNat 32 (s.yCycle q.val) else BitVec.ofNat 32 ((s.sq q.val).sig ||| (s.sq q.val).fresh).toNat) 1)) ∧
  (∀ (s : State) (q : Fin 8) (x y : BitVec 2) (g : BitVec 4), s.Canonical →
    (∀ c : BitVec 2, s.Issues q.val (yT 0x28 x 0 0 c) → s.YieldsTime (exec (.iTget q x c) s) q.val x (clockT (if c = 0#2 then s.tim.wkt else if c = 1#2 then s.tim.dta else if c = 2#2 then s.tim.dtb else s.tim.frt)) 3) ∧
    (s.Issues q.val (yT 0x29 x y g 0) → s.YieldsTime (exec (.iTadd q x y g) s) q.val x (tadd (s.tr q.val y) (s.gr q.val g)) 2) ∧
    (s.Issues q.val (yT 0x2A x y g 0) → s.Yields (exec (.iTsub q x y g) s) q.val g
      (BitVec.ofInt 32 (clampInt (-2147483648) 2147483647 (((tVal (s.tr q.val x) : Int) - tVal (s.tr q.val y)) / 65536))) 2) ∧
    (s.Issues q.val (yT 0x2B x y 0 0) → s.YieldsTime (exec (.iTmov q x y) s) q.val x (s.tr q.val y) 1) ∧
    (∀ sel : BitVec 2, s.Issues q.val (yT 0x2C 0 y g sel) → s.Yields (exec (.iText q y g sel) s) q.val g
      (BitVec.ofNat 32 (if sel = 0#2 then tSec (s.tr q.val y) else if sel = 1#2 then tSec (s.tr q.val y) / 2 ^ 32 else if sel = 2#2 then tNs (s.tr q.val y) else tFr (s.tr q.val y))) 1) ∧
    (∀ sel : BitVec 2,
      (s.Issues q.val (yT 0x2D x 0 g sel) → ¬(sel = 2#2 ∧ 1000000000 ≤ (s.gr q.val g).toNat % 2 ^ 30) →
        s.YieldsTime (exec (.iTins q x g sel) s) q.val x (tPut (s.tr q.val x) sel (s.gr q.val g).toNat) 1) ∧
      (s.Holds q.val (yT 0x2D x 0 g sel) → sel = 2#2 → 1000000000 ≤ (s.gr q.val g).toNat % 2 ^ 30 → s.f (SEQ_WDOG.a q.val) SEQ_WDOG.trap_action = 0 →
        s.Traps (exec (.iTins q x g sel) s) q.val 5 0)) ∧
    (s.Issues q.val (yT 0x2E x y g 0) → s.gr q.val g ≠ 0#32 → s.YieldsTime (exec (.iTnext q x y g) s) q.val x (tnext (s.tr q.val x) (s.tr q.val y) (s.gr q.val g).toNat) 48) ∧
    (s.Holds q.val (yT 0x2E x y g 0) → s.gr q.val g = 0#32 → s.f (SEQ_WDOG.a q.val) SEQ_WDOG.trap_action = 0 → s.Traps (exec (.iTnext q x y g) s) q.val 5 0) ∧
    (∀ pd : BitVec 2, s.Issues q.val (yA 0x30 x 0 0 pd 0) →
      s.YieldsAngle (exec (.iAget q x pd) s) q.val x (BitVec.ofNat 32 (s.ph pd.toNat).hat) (BitVec.ofNat 32 (s.phState pd.toNat)) 3) ∧
    (s.Issues q.val (yA 0x31 x 0 g 0 0) → s.YieldsAngle (exec (.iAset q x g) s) q.val x (s.gr q.val g) (s.sq q.val).ws 1) ∧
    (s.Issues q.val (yA 0x32 0 y g 0 0) → s.Yields (exec (.iAread q y g) s) q.val g (s.ar q.val y) 1) ∧
    (s.Issues q.val (yA 0x33 x y g 0 0) → s.YieldsAngle (exec (.iAadd q x y g) s) q.val x (s.ar q.val y + s.gr q.val g) (s.sq q.val).ws 1) ∧
    (∀ pd : BitVec 2, s.Issues q.val (yA 0x34 0 0 g pd 0) → ∃ t : State, exec (.iVget q g pd) s = .next t ∧ s.Ran t q.val (s.seqPc q.val + 1) 3 ∧
      (∀ k, t.gr q.val k = if k = g ∧ g ≠ 0#4 then BitVec.ofInt 32 ((s.ph pd.toNat).omega / 4294967296) else s.gr q.val k) ∧
      (t.sq q.val).ws = BitVec.ofNat 32 (s.phState pd.toNat) ∧ (t.sq q.val).t = (s.sq q.val).t ∧ (t.sq q.val).ax = (s.sq q.val).ax))

/-- 05 R97 to R99, R101, R102, R114: table memory and control flow. -/
def Obligations.YufenMemoryAndFlow : Prop :=
  (∀ (s : State) (q : Fin 8) (d a b : BitVec 4) (tx : BitVec 2) (imm : BitVec 18), s.Canonical →
    let p := (s.gr q.val a + imm.signExtend 32).toNat
    let p0 := (s.gr q.val a).toNat
    (s.Issues q.val (yI 0x19 d a imm) → s.InWindow q.val p 4 false → ∃ t : State, exec (.iLd q d a imm) s = .next t ∧ s.RanTable t q.val 2 ∧ t.win = s.win ∧
      (∀ k, t.gr q.val k = if k = d ∧ d ≠ 0#4 then BitVec.ofNat 32 (s.tblW p) else s.gr q.val k) ∧ (t.sq q.val).t = (s.sq q.val).t) ∧
    (s.Issues q.val (yI 0x1A d a imm) → s.InWindow q.val p 4 true → ∃ t : State, exec (.iSt q d a imm) s = .next t ∧ s.RanTable t q.val 2 ∧
      (t.sq q.val).g = (s.sq q.val).g ∧ (t.sq q.val).t = (s.sq q.val).t ∧ t.tblW p = (s.gr q.val d).toNat ∧ ∀ x, x < p ∨ p + 4 ≤ x → t.tblB x = s.tblB x) ∧
    (s.Issues q.val (yV 0x1B tx a imm) → s.InWindow q.val p 12 false →
      (s.tblW (p + 8) % 2 ^ 30 < 1000000000 → ∃ t : State, exec (.iLdt q tx a imm) s = .next t ∧ s.RanTable t q.val 4 ∧ t.win = s.win ∧ (t.sq q.val).g = (s.sq q.val).g ∧
        ∀ k, t.tr q.val k = if k = tx then tbits (s.tblW p + s.tblW (p + 4) % 65536 * 2 ^ 32) (s.tblW (p + 8) % 2 ^ 30) (s.tblW (p + 4) / 65536) else s.tr q.val k) ∧
      (1000000000 ≤ s.tblW (p + 8) % 2 ^ 30 → s.f (SEQ_WDOG.a q.val) SEQ_WDOG.trap_action = 0 → s.Traps (exec (.iLdt q tx a imm) s) q.val 5 0)) ∧
    (s.Issues q.val (yV 0x1C tx a imm) → s.InWindow q.val p 12 true → ∃ t : State, exec (.iStt q tx a imm) s = .next t ∧ s.RanTable t q.val 4 ∧
      (t.sq q.val).g = (s.sq q.val).g ∧ (t.sq q.val).t = (s.sq q.val).t ∧ t.tblW p = tSec (s.tr q.val tx) % 2 ^ 32 ∧
      t.tblW (p + 4) = tFr (s.tr q.val tx) * 65536 + tSec (s.tr q.val tx) / 2 ^ 32 ∧ t.tblW (p + 8) = tNs (s.tr q.val tx) ∧ ∀ x, x < p ∨ p + 12 ≤ x → t.tblB x = s.tblB x) ∧
    (s.Issues q.val (yR 0x1D d a b) → s.InWindow q.val p0 4 true → ∃ t : State, exec (.iAmoadd q d a b) s = .next t ∧ s.RanTable t q.val 3 ∧
      (∀ k, t.gr q.val k = if k = d ∧ d ≠ 0#4 then BitVec.ofNat 32 (s.tblW p0) else s.gr q.val k) ∧
      t.tblW p0 = (BitVec.ofNat 32 (s.tblW p0) + s.gr q.val b).toNat ∧ ∀ x, x < p0 ∨ p0 + 4 ≤ x → t.tblB x = s.tblB x) ∧
    (s.Issues q.val (yR 0x1E d a b) → s.InWindow q.val p0 4 true → ∃ t : State, exec (.iAmoswap q d a b) s = .next t ∧ s.RanTable t q.val 3 ∧
      (∀ k, t.gr q.val k = if k = d ∧ d ≠ 0#4 then BitVec.ofNat 32 (s.tblW p0) else s.gr q.val k) ∧
      t.tblW p0 = (s.gr q.val b).toNat ∧ ∀ x, x < p0 ∨ p0 + 4 ≤ x → t.tblB x = s.tblB x) ∧
    (s.Holds q.val (yI 0x19 d a imm) → s.f (SEQ_WDOG.a q.val) SEQ_WDOG.trap_action = 0 →
      (p % 4 ≠ 0 → s.Traps (exec (.iLd q d a imm) s) q.val 3 0) ∧
      (p % 4 = 0 → p < s.f (SEQ_TWIN_LO.a q.val) SEQ_TWIN_LO.twin_lo ∨ s.f (SEQ_TWIN_HI.a q.val) SEQ_TWIN_HI.twin_hi < p + 4 → s.Traps (exec (.iLd q d a imm) s) q.val 4 0))) ∧
  (∀ (s : State) (q : Fin 8) (d a b : BitVec 4) (x y : BitVec 2) (off : BitVec 18), s.Canonical →
    (s.Holds q.val (yI 0x20 a b off) → s.Branches (exec (.iBeq q a b off) s) q.val (s.gr q.val a = s.gr q.val b) off) ∧
    (s.Holds q.val (yI 0x21 a b off) → s.Branches (exec (.iBne q a b off) s) q.val (s.gr q.val a ≠ s.gr q.val b) off) ∧
    (s.Holds q.val (yI 0x22 a b off) → s.Branches (exec (.iBlt q a b off) s) q.val ((s.gr q.val a).toInt < (s.gr q.val b).toInt) off) ∧
    (s.Holds q.val (yI 0x23 a b off) → s.Branches (exec (.iBge q a b off) s) q.val ((s.gr q.val b).toInt ≤ (s.gr q.val a).toInt) off) ∧
    (s.Holds q.val (yI 0x24 a b off) → s.Branches (exec (.iBltu q a b off) s) q.val ((s.gr q.val a).toNat < (s.gr q.val b).toNat) off) ∧
    (s.Holds q.val (yI 0x25 a b off) → s.Branches (exec (.iBgeu q a b off) s) q.val ((s.gr q.val b).toNat ≤ (s.gr q.val a).toNat) off) ∧
    (s.Holds q.val (yW 0x2F x y 0 0 off) → s.Branches (exec (.iTblt q x y off) s) q.val (tVal (s.tr q.val x) < tVal (s.tr q.val y)) off) ∧
    (∀ off22 : BitVec 22, s.Holds q.val (yJ 0x26 d off22) → 0 ≤ (s.seqPc q.val : Int) + off22.toInt → (s.seqPc q.val : Int) + off22.toInt < s.progLen q.val →
      ∃ t : State, exec (.iJal q d off22) s = .next t ∧ s.Ran t q.val ((s.seqPc q.val : Int) + off22.toInt).toNat 2 ∧
        ∀ k, t.gr q.val k = if k = d ∧ d ≠ 0#4 then BitVec.ofNat 32 (s.seqPc q.val + 1) else s.gr q.val k) ∧
    (s.Holds q.val (yI 0x27 d a off) → (s.gr q.val a + off.signExtend 32).toNat < s.progLen q.val →
      ∃ t : State, exec (.iJalr q d a off) s = .next t ∧ s.Ran t q.val (s.gr q.val a + off.signExtend 32).toNat 2 ∧
        ∀ k, t.gr q.val k = if k = d ∧ d ≠ 0#4 then BitVec.ofNat 32 (s.seqPc q.val + 1) else s.gr q.val k) ∧
    (s.Issues q.val (yU 0x01 0 0) → s.Jumps (exec (.iNop q) s) q.val (s.seqPc q.val + 1) 1))

/-- 05 R109 to R115, 06 R121: posts, control and gateway instructions. -/
def Obligations.YufenPostsControlAndGateway : Prop :=
  (∀ (s : State) (q : Fin 8) (x : BitVec 2) (g : BitVec 4), s.Canonical →
    let w := s.gr q.val g
    (actionOk w.toNat = true → (s.sq q.val).used < 256 →
      (s.Issues q.val (yT 0x35 x 0 g 0) → ∃ t : State, exec (.iPost q x g) s = .next t ∧ t.seqPc q.val = s.seqPc q.val + 1 ∧
        t.sq q.val = { s.sq q.val with cyc := s.yCycle q.val + 2, post := (s.sq q.val).post + 1, tq := insEnt ⟨w, tClock (s.tr q.val x), (s.sq q.val).post, s.now, decide (tClock (s.tr q.val x) < s.tim.wkt + 16 * 4294967296), none⟩ (s.sq q.val).tq } ∧
        fldGet (t.reg (SEQ_QSTAT.a q.val)) SEQ_QSTAT.used = (s.sq q.val).used + 1 ∧ t = { s with regs := t.regs, seq := t.seq } ∧
        (∀ m, m ≠ q.val → t.sq m = s.sq m) ∧ ∀ a, a ≠ SEQ_STAT.a q.val → a ≠ SEQ_QSTAT.a q.val → t.reg a = s.reg a) ∧
      (∀ (pd : BitVec 2) (dir : Fin 3), s.Issues q.val (yA 0x36 x 0 g pd (BitVec.ofNat 2 dir.val)) → ∃ t : State, exec (.iApost q x g pd dir) s = .next t ∧ t.seqPc q.val = s.seqPc q.val + 1 ∧
        t.sq q.val = { s.sq q.val with cyc := s.yCycle q.val + 2, post := (s.sq q.val).post + 1, aq := (s.sq q.val).aq ++ [⟨w, pd.toNat, dir.val, (s.ar q.val x).toNat, (s.sq q.val).post, (s.sq q.val).start + ((s.yCycle q.val + 2) * 5 - 1) / 16⟩] } ∧
        fldGet (t.reg (SEQ_QSTAT.a q.val)) SEQ_QSTAT.used = (s.sq q.val).used + 1 ∧ t = { s with regs := t.regs, seq := t.seq } ∧
        (∀ m, m ≠ q.val → t.sq m = s.sq m) ∧ ∀ a, a ≠ SEQ_STAT.a q.val → a ≠ SEQ_QSTAT.a q.val → t.reg a = s.reg a)) ∧
    (s.f (SEQ_WDOG.a q.val) SEQ_WDOG.trap_action = 0 → s.Holds q.val (yT 0x35 x 0 g 0) →
      (actionOk w.toNat = false → s.Traps (exec (.iPost q x g) s) q.val 6 0) ∧
      (actionOk w.toNat = true → 256 ≤ (s.sq q.val).used → s.Traps (exec (.iPost q x g) s) q.val 7 0))) ∧
  (∀ (s : State) (q : Fin 8) (d a b : BitVec 4), s.Canonical →
    (s.Holds q.val (yU 0x02 0 0) → ∃ t : State, exec (.iHalt q) s = .next t ∧ t.seqState q.val = 3 ∧ t.seqPc q.val = s.seqPc q.val ∧ t.heldBy q.val = [] ∧
      t.sq q.val = { s.sq q.val with cyc := s.yCycle q.val, wait := {} } ∧ fldGet (t.reg (EVT_SRC_STAT.a (33 + q.val))) EVT_SRC_STAT.pend = 1 ∧
      t = { s with regs := t.regs, evt := t.evt, out := t.out, seq := t.seq, msgs := t.msgs, held := t.held, pcie := { s.pcie with pba := t.pcie.pba } } ∧
      ∀ x, x ≠ SEQ_STAT.a q.val → x ≠ EVT_SRC_STAT.a (33 + q.val) → t.reg x = s.reg x) ∧
    (s.Issues q.val (yU 0x03 0 0) → ∃ t : State, exec (.iWdog q) s = .next t ∧ t.seqPc q.val = s.seqPc q.val + 1 ∧
      t.sq q.val = { s.sq q.val with cyc := s.yCycle q.val + 1, wdog := 0, wperiod := s.wdogPeriod q.val } ∧ t = { s with regs := t.regs, seq := t.seq } ∧
      ∀ x, x ≠ SEQ_STAT.a q.val → t.reg x = s.reg x) ∧
    (s.f (SEQ_WDOG.a q.val) SEQ_WDOG.trap_action = 0 →
      (∀ imm : BitVec 16, s.Holds q.val (yU 0x04 0 imm) → s.Traps (exec (.iTrap q imm) s) q.val 9 imm.toNat) ∧
      (∀ w : Word, s.Holds q.val w → decodeYufen 0 w = none → s.Traps (exec (.iNop q) s) q.val 1 0) ∧
      (s.seqLive q.val = true → (s.sq q.val).wait.kind = 0 → s.yDue q.val = true → s.wdogDue q.val = true → s.Traps (exec (.iNop q) s) q.val 8 0) ∧
      (s.Holds q.val (yR 0x3B d a 0) → s.gwHeld q.val (s.gr q.val a).toNat = none → s.Traps (exec (.iGid q d a) s) q.val 10 0)) ∧
    (s.Issues q.val (yR 0x3A d 0 0) → ∃ t : State, exec (.iGrx q d) s = .next t ∧ t.seqPc q.val = s.seqPc q.val + 1 ∧
      (∀ k, t.gr q.val k = if k = d ∧ d ≠ 0#4 then BitVec.ofNat 32 ((s.inqOf q.val).headD 0) else s.gr q.val k) ∧
      (t.sq q.val).ws = BitVec.ofNat 32 (min 0xffff (s.inqOf q.val).tail.length) ∧ t.inqOf q.val = (s.inqOf q.val).tail ∧
      t.heldBy q.val = s.heldBy q.val ++ ((s.inqOf q.val).take 1).map (· % 65536) ∧ t = { s with regs := t.regs, seq := t.seq, inq := t.inq, held := t.held }) ∧
    (∀ m : GwMsg, s.gwHeld q.val (s.gr q.val a).toNat = some m →
      (s.Issues q.val (yR 0x3B d a 0) → s.Yields (exec (.iGid q d a) s) q.val d (BitVec.ofNat 32 m.ident) 3) ∧
      (s.Issues q.val (yR 0x3D 0 a 0) → ∃ t : State, exec (.iGrel q a) s = .next t ∧ t.seqPc q.val = s.seqPc q.val + 1 ∧ t.heldBy q.val = (s.heldBy q.val).erase m.unit ∧
        (t.sq q.val).g = (s.sq q.val).g ∧ (t.sq q.val).ws = (s.sq q.val).ws ∧ t = { s with regs := t.regs, seq := t.seq, msgs := t.msgs, held := t.held }) ∧
      (s.Issues q.val (yR 0x3C 0 a b) → routeOk (s.gr q.val b).toNat = true → nbits (s.gr q.val b).toNat 31 28 = 1 →
        let c := nbits (s.gr q.val b).toNat 27 23
        ∃ t : State, exec (.iGtx q a b) s = .next t ∧ t.seqPc q.val = s.seqPc q.val + 1 ∧ (t.sq q.val).g = (s.sq q.val).g ∧
          ((s.gtxCan c m).2 = none → (t.sq q.val).ws = 0#32 ∧ (t.canSt c).gwq = (s.canSt c).gwq ++ [m.unit]) ∧
          ((s.gtxCan c m).2 ≠ none → (t.sq q.val).ws = 1#32 ∧ t.can = s.can) ∧
          t.heldBy q.val = if nbit (s.gr q.val b).toNat 0 then s.heldBy q.val else (s.heldBy q.val).erase m.unit)))

/-- 05 R104 to R108: the waits. How many of the up to 4 SEQ cycles a wake-up takes is a free value (log entry 3). -/
def Obligations.YufenWaitsBeginAndEnd : Prop :=
  ∀ (s : State) (q : Fin 8) (x pd tt : BitVec 2) (g : BitVec 4) (dir : Fin 3) (off : BitVec 18), s.Canonical →
    let pc := (s.seqPc q.val : Int)
    let y := s.sq q.val
    let z := y.settleSig s.now
    let w := y.wait
    (s.Issues q.val (yT 0x37 x 0 0 0) →
      (tClock (s.tr q.val x) ≤ s.tim.wkt → s.Ends (exec (.iWaitt q x) s) q.val { y with ws := 0#32 } (pc + 1)) ∧
      (s.tim.wkt < tClock (s.tr q.val x) → s.Waits (exec (.iWaitt q x) s) q.val { kind := 1, tt := tClock (s.tr q.val x), since := s.now })) ∧
    (s.Holds q.val (yW 0x38 x pd (BitVec.ofNat 2 dir.val) tt off) →
      (s.phState pd.toNat ≠ 2 → s.phState pd.toNat ≠ 3 → 0 ≤ pc + off.toInt → pc + off.toInt < s.progLen q.val →
        s.Ends (exec (.iWaita q x pd dir tt off) s) q.val { y with ws := 2#32 } (pc + off.toInt)) ∧
      (s.phState pd.toNat = 2 ∨ s.phState pd.toNat = 3 → s.Waits (exec (.iWaita q x pd dir tt off) s) q.val
        { kind := 2, reg := (s.ar q.val x).toNat, dom := pd.toNat, dir := dir.val, tt := tClock (s.tr q.val tt), off := off.toInt, since := s.now })) ∧
    (s.Issues q.val (yI 0x39 g (BitVec.ofNat 4 tt.toNat) off) →
      let c := (s.gr q.val g).toNat
      let r := s.yConds q.val c
      (condOk c = true → r ≠ 0 → s.Ends (exec (.iWaite q g tt off) s) q.val { z with ws := BitVec.ofNat 32 r, sig := z.sig &&& ~~~(BitVec.ofNat 8 (nbits r 23 16)) } (pc + 1)) ∧
      (condOk c = true → r = 0 → tClock (s.tr q.val tt) ≤ s.tim.wkt → 0 ≤ pc + off.toInt → pc + off.toInt < s.progLen q.val →
        s.Ends (exec (.iWaite q g tt off) s) q.val { z with ws := 0#32 } (pc + off.toInt)) ∧
      (condOk c = true → r = 0 → s.tim.wkt < tClock (s.tr q.val tt) →
        s.Waits (exec (.iWaite q g tt off) s) q.val { kind := 3, reg := c, tt := tClock (s.tr q.val tt), off := off.toInt, since := s.now }) ∧
      (condOk c = false → s.f (SEQ_WDOG.a q.val) SEQ_WDOG.trap_action = 0 → s.Traps (exec (.iWaite q g tt off) s) q.val 1 0)) ∧
    (s.Waiting q.val 1 → s.seqPc q.val + 1 < s.progLen q.val →
      (w.tt ≤ s.tim.wkt → s.Ends (exec (.waittDone q) s) q.val { y with ws := 0#32 } (pc + 1)) ∧ (s.tim.wkt < w.tt → exec (.waittDone q) s = .next s)) ∧
    (s.Waiting q.val 2 → s.seqPc q.val + 1 < s.progLen q.val → 0 ≤ pc + w.off → pc + w.off < s.progLen q.val →
      (w.since < s.now → s.phState w.dom ≠ 2 → s.phState w.dom ≠ 3 → s.Ends (exec (.waitaEnd q) s) q.val { y with ws := 2#32 } (pc + w.off)) ∧
      (s.now ≤ w.since → exec (.waitaEnd q) s = .next s) ∧
      (s.phState w.dom = 2 ∨ s.phState w.dom = 3 →
        (s.crosses w.dom w.dir w.reg w.since = true → s.Ends (exec (.waitaEnd q) s) q.val { y with ws := 0#32 } (pc + 1)) ∧
        (s.crosses w.dom w.dir w.reg w.since = false → w.since < s.now → w.tt ≤ s.tim.wkt → s.Ends (exec (.waitaEnd q) s) q.val { y with ws := 1#32 } (pc + w.off)) ∧
        (s.crosses w.dom w.dir w.reg w.since = false → s.tim.wkt < w.tt → exec (.waitaEnd q) s = .next s))) ∧
    (s.Waiting q.val 3 → s.seqPc q.val + 1 < s.progLen q.val → 0 ≤ pc + w.off → pc + w.off < s.progLen q.val →
      let r := s.yConds q.val w.reg
      (r ≠ 0 → s.Ends (exec (.waiteEnd q) s) q.val { z with ws := BitVec.ofNat 32 r, sig := z.sig &&& ~~~(BitVec.ofNat 8 (nbits r 23 16)) } (pc + 1)) ∧
      (r = 0 → w.tt ≤ s.tim.wkt → s.Ends (exec (.waiteEnd q) s) q.val { z with ws := 0#32 } (pc + w.off)) ∧
      (r = 0 → s.tim.wkt < w.tt → exec (.waiteEnd q) s = .next s))

/-- 06 R121 to R129: the commands that move a sequencer between its states, and the writes of its memories. -/
def Obligations.SequencersMoveBetweenStates : Prop :=
  ∀ (s : State) (i : Fin 3) (q : Fin 8), s.Canonical →
    (s.May i.val (SEQ_CTRL.a q.val) →
      (s.startReason q.val = none → ∃ t : State, exec (.seqStart i q) s = .next t ∧ t.seqState q.val = 1 ∧ t.seqPc q.val = s.f (SEQ_PROG.a q.val) SEQ_PROG.entry ∧
        t.sq q.val = (s.sq q.val).clear s.now (s.wdogPeriod q.val) ∧ t.reg (SEQ_TRAP.a q.val) = 0#32 ∧ t.heldBy q.val = [] ∧ (∀ m, m ≠ q.val → t.sq m = s.sq m) ∧
        t = { s with regs := t.regs, seq := t.seq, msgs := t.msgs, held := t.held } ∧ ∀ a, a ≠ SEQ_STAT.a q.val → a ≠ SEQ_TRAP.a q.val → t.reg a = s.reg a) ∧
      (∀ k, s.startReason q.val = some k → exec (.seqStart i q) s = .next (s.raise (33 + q.val) 9 k)) ∧
      (∀ flush : Bool, ∃ t : State, exec (.seqStop i q flush) s = .next t ∧ t.seqState q.val = 0 ∧ t.heldBy q.val = [] ∧ (∀ m, m ≠ q.val → t.sq m = s.sq m) ∧
        t.sq q.val = { s.sq q.val with wait := {}, tq := if flush then (s.sq q.val).tq.filter (fun e => e.due.isSome) else (s.sq q.val).tq, aq := if flush then (s.sq q.val).aq.filter (fun e => s.angleDue e) else (s.sq q.val).aq } ∧
        t = { s with regs := t.regs, evt := t.evt, out := t.out, seq := t.seq, msgs := t.msgs, held := t.held, pcie := { s.pcie with pba := t.pcie.pba } }) ∧
      (s.seqState q.val = 1 → ∃ t : State, exec (.seqPause i q) s = .next t ∧ t.seqState q.val = 2 ∧ t.seqPc q.val = s.seqPc q.val ∧ t.sq q.val = { s.sq q.val with wait := {} } ∧
        t = { s with regs := t.regs, seq := t.seq } ∧ (∀ m, m ≠ q.val → t.sq m = s.sq m) ∧ ∀ a, a ≠ SEQ_STAT.a q.val → t.reg a = s.reg a) ∧
      (s.seqState q.val ≠ 1 → exec (.seqPause i q) s = .next s) ∧
      (s.seqState q.val = 2 → ∃ t : State, exec (.seqResume i q) s = .next t ∧ t.seqState q.val = 1 ∧ t.seqPc q.val = s.seqPc q.val ∧ t.sq q.val = { s.sq q.val with wait := {} } ∧
        t = { s with regs := t.regs, seq := t.seq } ∧ (∀ m, m ≠ q.val → t.sq m = s.sq m) ∧ ∀ a, a ≠ SEQ_STAT.a q.val → t.reg a = s.reg a) ∧
      (s.seqState q.val ≠ 2 → exec (.seqResume i q) s = .next s ∧ exec (.seqStep i q) s = .next s) ∧
      (s.seqState q.val = 2 → s.seqPc q.val + 1 < s.progLen q.val → ∀ d a b : BitVec 4, s.progWord q.val (s.seqPc q.val) = yR 0x08 d a b →
        ∃ t : State, exec (.seqStep i q) s = .next t ∧ t.seqState q.val = 2 ∧ t.seqPc q.val = s.seqPc q.val + 1 ∧
          (∀ k, t.gr q.val k = if k = d ∧ d ≠ 0#4 then s.gr q.val a + s.gr q.val b else s.gr q.val k) ∧ t = { s with regs := t.regs, seq := t.seq }) ∧
      (s.seqState q.val = 2 → decodeYufen 0 (s.progWord q.val (s.seqPc q.val)) = none → s.f (SEQ_WDOG.a q.val) SEQ_WDOG.trap_action = 0 → s.Traps (exec (.seqStep i q) s) q.val 1 0)) ∧
    (s.powered = true → s.roleOf i.val = 2 → ∀ (k : BitVec 15) (v : BitVec 32),
      (s.seqState q.val ≠ 1 → s.seqState q.val ≠ 2 → ∃ t : State, exec (.programMemoryWrite i q k v) s = .next t ∧ t.progWord q.val k.toNat = v ∧ t = { s with win := t.win } ∧
        ∀ x, x < progAddr q.val k.toNat ∨ progAddr q.val k.toNat + 4 ≤ x → Cells.get (fun _ => 0#8) t.win x = Cells.get (fun _ => 0#8) s.win x) ∧
      (s.seqState q.val = 1 ∨ s.seqState q.val = 2 → ∃ t : State, exec (.programMemoryWrite i q k v) s = .next t ∧ t = { s with regs := t.regs, evt := t.evt, out := t.out, pcie := { s.pcie with pba := t.pcie.pba } } ∧
        fldGet (t.reg (EVT_SRC_STAT.a (33 + q.val))) EVT_SRC_STAT.pend = 1)) ∧
    (s.powered = true → s.roleOf i.val = 2 → ∀ (a : BitVec 20) (v : BitVec 64),
      (a.toNat % 4 = 0 → ∃ t : State, exec (.seqTableWrite i a false v) s = .next t ∧ t.tblW a.toNat = v.toNat % 2 ^ 32 ∧ t = { s with win := t.win } ∧
        ∀ x, x < a.toNat ∨ a.toNat + 4 ≤ x → t.tblB x = s.tblB x) ∧
      (a.toNat % 8 = 0 → ∃ t : State, exec (.seqTableWrite i a true v) s = .next t ∧ t.tblW a.toNat = v.toNat % 2 ^ 32 ∧ t.tblW (a.toNat + 4) = v.toNat / 2 ^ 32 ∧ t = { s with win := t.win } ∧
        ∀ x, x < a.toNat ∨ a.toNat + 8 ≤ x → t.tblB x = s.tblB x))

/-- 04 R90 to R92, 05 R96, R110, R115, 06 R130 to R137: queues, activation sets, inspection and firing. Observations that are due come before what fires (`State.phsDue`). -/
def Obligations.QueuesFireAndAreInspected : Prop :=
  (∀ (s : State) (i : Fin 3), s.Canonical →
    (s.MayOrder i.val seqHpost → ∀ q : Fin 8,
      let w := s.dw seqHpost 0
      let tgt := mkTime (s.dw seqHpost 2 % 65536 * 2 ^ 32 + s.dw seqHpost 1) (s.dw seqHpost 3 % 2 ^ 30) (s.dw seqHpost 2 / 65536)
      (actionOk w = true → (s.sq q.val).used < 256 → s.dw seqHpost 3 % 2 ^ 30 < 1000000000 → ∃ t : State, exec (.hostPost i (BitVec.ofNat 16 q.val)) s = .next t ∧ t.Done s seqHpost 4 ∧
        t.sq q.val = { s.sq q.val with post := (s.sq q.val).post + 1, tq := insEnt ⟨BitVec.ofNat 32 w, tgt, (s.sq q.val).post, s.now, decide (tgt < s.tim.wkt + 16 * 4294967296), none⟩ (s.sq q.val).tq } ∧
        (∀ m, m ≠ q.val → t.sq m = s.sq m) ∧ t = { s with regs := t.regs, seq := t.seq, aud := t.aud, evt := t.evt, out := t.out, pcie := { s.pcie with pba := t.pcie.pba } }) ∧
      (actionOk w = false → ∃ t : State, exec (.hostPost i (BitVec.ofNat 16 q.val)) s = .next t ∧ t.Refused seqHpost 1 ∧ t.seq = s.seq) ∧
      (actionOk w = true → 256 ≤ (s.sq q.val).used → ∃ t : State, exec (.hostPost i (BitVec.ofNat 16 q.val)) s = .next t ∧ t.Refused seqHpost 2 ∧ t.seq = s.seq)) ∧
    (s.MayOrder i.val seqActMbx → ∀ k : Fin 16,
      (∃ t : State, exec (.actClear i (BitVec.ofNat 16 k.val)) s = .next t ∧ t.Done s seqActMbx 4 ∧ t.actSet k.val = {} ∧ t.reg (SEQ_ACT_STAT.a k.val) = 0#32 ∧
        (∀ j, j ≠ k.val → t.actSet j = s.actSet j) ∧ t = { s with regs := t.regs, acts := t.acts, aud := t.aud, evt := t.evt, out := t.out, pcie := { s.pcie with pba := t.pcie.pba } }) ∧
      (s.actState k.val ≤ 1 → (s.actSet k.val).writes.length < 32 → actAddrOk (s.dw seqActMbx 0) = true → ∃ t : State, exec (.actAppend i (BitVec.ofNat 16 k.val)) s = .next t ∧ t.Done s seqActMbx 4 ∧
        t.actSet k.val = { s.actSet k.val with writes := (s.actSet k.val).writes ++ [(s.dw seqActMbx 0, s.reg (mbxData seqActMbx 1))] } ∧ t.actState k.val = 1 ∧
        fldGet (t.reg (SEQ_ACT_STAT.a k.val)) SEQ_ACT_STAT.count = (s.actSet k.val).writes.length + 1 ∧ (∀ j, j ≠ k.val → t.actSet j = s.actSet j) ∧
        t = { s with regs := t.regs, acts := t.acts, aud := t.aud, evt := t.evt, out := t.out, pcie := { s.pcie with pba := t.pcie.pba } }) ∧
      (s.actState k.val ≤ 1 → nbits (s.dw seqActMbx 0) 15 8 &&& nbits (s.dw seqActMbx 0) 7 0 = 0 → s.dw seqActMbx 0 < 2 ^ 18 →
        ∃ t : State, exec (.actSeal i (BitVec.ofNat 16 k.val)) s = .next t ∧ t.Done s seqActMbx 4 ∧ t.actSet k.val = { s.actSet k.val with ctrl := BitVec.ofNat 32 (s.dw seqActMbx 0) } ∧
          t.actState k.val = 2 ∧ (∀ j, j ≠ k.val → t.actSet j = s.actSet j) ∧ t = { s with regs := t.regs, acts := t.acts, aud := t.aud, evt := t.evt, out := t.out, pcie := { s.pcie with pba := t.pcie.pba } }) ∧
      (1 < s.actState k.val → (∃ t : State, exec (.actAppend i (BitVec.ofNat 16 k.val)) s = .next t ∧ t.Refused seqActMbx 1 ∧ t.acts = s.acts) ∧
        ∃ t : State, exec (.actSeal i (BitVec.ofNat 16 k.val)) s = .next t ∧ t.Refused seqActMbx 1 ∧ t.acts = s.acts)) ∧
    (s.MayAsk i.val seqQinsp → ∀ (q : Fin 8) (k : Fin 256),
      (∀ ws, ((s.sq q.val).tq.map TEnt.words ++ (s.sq q.val).aq.map AEnt.words)[k.val]? = some ws → ∃ t : State, exec (.queueInspect i (BitVec.ofNat 16 (q.val * 256 + k.val))) s = .next t ∧ s.Answered t seqQinsp ws) ∧
      ((s.sq q.val).used ≤ k.val → ∃ t : State, exec (.queueInspect i (BitVec.ofNat 16 (q.val * 256 + k.val))) s = .next t ∧ fldGet (t.reg (seqQinsp + 4)) MBX_STAT.err = 1 ∧
        fldGet (t.reg (seqQinsp + 4)) MBX_STAT.err_code = 1 ∧ t = { s with regs := t.regs })) ∧
    (s.MayAsk i.val seqDbg → ∀ q : Fin 8, s.seqState q.val ≠ 0 → s.seqState q.val ≠ 1 →
      (∃ t : State, exec (.dbgReadGeneral i (BitVec.ofNat 16 (q.val * 256))) s = .next t ∧ s.Answered t seqDbg
        ((s.sq q.val).ws.toNat :: (List.range 15).map (fun k => ((s.sq q.val).g.getD (k + 1) 0#32).toNat))) ∧
      (∃ t : State, exec (.dbgReadTimeAngle i (BitVec.ofNat 16 (q.val * 256))) s = .next t ∧ s.Answered t seqDbg
        (((List.range 4).map (fun k => tregWords ((s.sq q.val).treg k))).flatten ++ (List.range 4).map (fun k => ((s.sq q.val).ax.getD k 0#32).toNat))) ∧
      (∃ t : State, exec (.dbgReadPcSig i (BitVec.ofNat 16 (q.val * 256))) s = .next t ∧ s.Answered t seqDbg
        ([s.seqPc q.val, ((s.sq q.val).sig ||| (s.sq q.val).fresh).toNat] ++ List.replicate 14 0)))) ∧
  (∀ (s : State) (q : Fin 8) (races : Races), s.Canonical → s.powered = true →
    let u := s.phsDue
    (∀ e : TEnt, u.nextDue = some (q.val, .inl e) → e.late = false →
      (e.word.toNat / 2 ^ 28 = 7 → ∃ t : State, exec (.timeActionFire q races) s = .next t ∧ (t.sq q.val) = { u.sq q.val with tq := (u.sq q.val).tq.filter (fun y => y.post != e.post) } ∧
        fldGet (t.reg (EVT_SRC_STAT.a (33 + q.val))) EVT_SRC_STAT.pend = 1 ∧ (∀ m, m ≠ q.val → t.sq m = u.sq m) ∧ t = { u with regs := t.regs, evt := t.evt, out := t.out, seq := t.seq, pcie := { u.pcie with pba := t.pcie.pba } }) ∧
      (e.word.toNat / 2 ^ 28 = 3 → nbits e.word.toNat 23 22 = 1 → ∃ t : State, exec (.timeActionFire q races) s = .next t ∧ (t.sq q.val) = { u.sq q.val with tq := (u.sq q.val).tq.filter (fun y => y.post != e.post) } ∧
        t.pin (nbits e.word.toNat 27 24) = ⟨true, none⟩ ∧ (∀ k, k ≠ nbits e.word.toNat 27 24 → t.pin k = u.pin k) ∧
        t = { u with regs := t.regs, seq := t.seq, sync := t.sync, out := t.out }) ∧
      (e.word.toNat / 2 ^ 28 = 6 → exec (.timeActionFire q races) s =
        .next ((u.setQ q.val { u.sq q.val with tq := (u.sq q.val).tq.filter (fun y => y.post != e.post) }).activateFrom q.val (nbits e.word.toNat 27 24) races))) ∧
    (∀ e : AEnt, u.nextDue = some (q.val, .inr e) →
      (e.word.toNat / 2 ^ 28 = 7 → ∃ t : State, exec (.angleActionFire q races) s = .next t ∧ (t.sq q.val) = { u.sq q.val with aq := (u.sq q.val).aq.filter (fun y => y.post != e.post) } ∧
        fldGet (t.reg (EVT_SRC_STAT.a (33 + q.val))) EVT_SRC_STAT.pend = 1 ∧ (∀ m, m ≠ q.val → t.sq m = u.sq m) ∧ t = { u with regs := t.regs, evt := t.evt, out := t.out, seq := t.seq, pcie := { u.pcie with pba := t.pcie.pba } }) ∧
      (e.word.toNat / 2 ^ 28 = 3 → nbits e.word.toNat 23 22 = 2 → ∃ t : State, exec (.angleActionFire q races) s = .next t ∧ (t.sq q.val) = { u.sq q.val with aq := (u.sq q.val).aq.filter (fun y => y.post != e.post) } ∧
        t.pin (nbits e.word.toNat 27 24) = ⟨false, none⟩ ∧ (∀ k, k ≠ nbits e.word.toNat 27 24 → t.pin k = u.pin k) ∧
        t = { u with regs := t.regs, seq := t.seq, sync := t.sync, out := t.out })) ∧
    (u.nextDue = none → exec (.timeActionFire q races) s = .next u ∧ exec (.angleActionFire q races) s = .next u) ∧
    ((∀ d, d < 4 → s.obsDue d = false) → u = s) ∧
    (∀ k : Fin 16, (∀ f, (s.pin k.val).fall = some f → f ≤ 16 * s.now → ∃ t : State, exec (.pulseFall k) s = .next t ∧ t.pin k.val = {} ∧ (∀ j, j ≠ k.val → t.pin j = s.pin j) ∧
        t = { s with sync := t.sync, out := t.out } ∧ ((s.pin k.val).level = true → t.out = .edge "SYNC_OUT" k.val false f :: s.out)) ∧
      ((s.pin k.val).fall = none → exec (.pulseFall k) s = .next s)) ∧
    (s.wdogDue q.val = true → s.f (SEQ_WDOG.a q.val) SEQ_WDOG.trap_action = 0 → s.Traps (exec (.watchdogExpiry q) s) q.val 8 0) ∧
    (s.wdogDue q.val = false → exec (.watchdogExpiry q) s = .next s))

/-- 07 R148, R154, R156, R162, R163, R165 to R169: templates, rule windows, banks and rule counters. -/
def Obligations.RulesAreWrittenSwappedAndCounted : Prop :=
  (∀ (s : State) (i : Fin 3) (p b : Fin 2), s.Canonical →
    (∀ (a v : BitVec 32) (t : Fin 16) (r : RegRow), s.May i.val a.toNat → rowAt a.toNat = some r →
      (a.toNat = CLS_TPL_CFG.a p.val t.val ∨ a.toNat = CLS_TPL_LEN.a p.val t.val ∨
        ∃ k : Fin 24, a.toNat = CLS_FLD_DESC.a p.val t.val k.val ∨ a.toNat = CLS_FLD_MASK.a p.val t.val k.val) →
      ∃ u : State, exec (.templateWrite i a v) s = .next u ∧ u.reg a.toNat = (s.reg a.toNat &&& ~~~r.rw) ||| (v &&& r.rw) ∧
        u.dpStale p.val 0 = true ∧ u.dpStale p.val 1 = true ∧ (∀ tpl tags, u.decisionPoint p.val tpl tags = 192) ∧
        u = { s with regs := u.regs, par := u.par, aud := u.aud, evt := u.evt, out := u.out, pipe := u.pipe, pcie := { s.pcie with pba := u.pcie.pba } } ∧
        ∀ x, x ≠ a.toNat → x ≠ EVT_SRC_STAT.a 60 → u.reg x = s.reg x) ∧
    (s.powered = true →
      (s.dpStale p.val b.val = true → ∃ u : State, exec (.dpRecomputeDone p b) s = .next u ∧ u.dpStale p.val b.val = false ∧
        (∀ t : Fin 16, u.reg (if s.activeBank p.val = b.val then CLS_TPL_DP.a p.val t.val else CLS_TPL_DP_SH.a p.val t.val) =
          BitVec.ofNat 32 (s.dpOf p.val b.val t.val 2 * 65536 + s.dpOf p.val b.val t.val 1 * 256 + s.dpOf p.val b.val t.val 0)) ∧
        u = { s with regs := u.regs, pipe := u.pipe } ∧
        ∀ x, (∀ t : Fin 16, x ≠ (if s.activeBank p.val = b.val then CLS_TPL_DP.a p.val t.val else CLS_TPL_DP_SH.a p.val t.val)) → u.reg x = s.reg x) ∧
      (s.dpStale p.val b.val = false → exec (.dpRecomputeDone p b) s = .next s)) ∧
    (s.powered = true → s.roleOf i.val = 2 → ∀ (a : BitVec 32) (v : BitVec 64), winAt a.toNat = .rule p.val b.val →
      (s.bankState p.val b.val ≠ 2 →
        (a.toNat % 4 = 0 → ∃ u : State, exec (.ruleWindowWrite i a 2 v) s = .next u ∧ u.winW a.toNat = (v.setWidth 32 &&& ruleMask (a.toNat - bankBase p.val b.val)).toNat ∧ u.dpStale p.val b.val = true ∧
          (∀ x, x < a.toNat ∨ a.toNat + 4 ≤ x → Cells.get (fun _ => 0#8) u.win x = Cells.get (fun _ => 0#8) s.win x) ∧
          (∀ e : Fin 2048, a.toNat = bankBase p.val b.val + 80 * e.val + 76 → u.entryBad p.val b.val e.val = false) ∧
          (∀ e : Fin 256, a.toNat = bankBase p.val b.val + 0x30000 + 48 * e.val + 44 → u.entryBad p.val b.val (2048 + e.val) = false) ∧
          u = { s with win := u.win, ruleBad := u.ruleBad, pipe := u.pipe }) ∧
        (a.toNat % 8 = 0 → ∃ u : State, exec (.ruleWindowWrite i a 3 v) s = .next u ∧ u.winW a.toNat = (v.setWidth 32 &&& ruleMask (a.toNat - bankBase p.val b.val)).toNat ∧
          u.winW (a.toNat + 4) = (BitVec.ofNat 32 (v.toNat / 2 ^ 32) &&& ruleMask (a.toNat + 4 - bankBase p.val b.val)).toNat ∧ u.dpStale p.val b.val = true ∧ (∀ x, x < a.toNat ∨ a.toNat + 8 ≤ x → Cells.get (fun _ => 0#8) u.win x = Cells.get (fun _ => 0#8) s.win x) ∧
          u = { s with win := u.win, ruleBad := u.ruleBad, pipe := u.pipe })) ∧
      (s.bankState p.val b.val = 2 → a.toNat % 4 = 0 → ∃ u : State, exec (.ruleWindowWrite i a 2 v) s = .next u ∧
        fldGet (u.reg (CLS_BANK_STAT.a p.val)) CLS_BANK_STAT.wr_busy = 1 ∧ fldGet (u.reg (EVT_SRC_STAT.a (41 + p.val))) EVT_SRC_STAT.pend = 1 ∧
        u = { s with regs := u.regs, evt := u.evt, out := u.out, pcie := { s.pcie with pba := u.pcie.pba } }))) ∧
  (∀ (s : State) (i : Fin 3) (p b : Fin 2), s.Canonical →
    (s.May i.val (CLS_BANK_CTRL.a p.val) →
      ((s.pp p.val).swapTick ≠ some s.now →
        s.bankState p.val (1 - s.activeBank p.val) = 0 ∨ (s.bankState p.val (1 - s.activeBank p.val) = 2 ∧ ∀ f ∈ s.frames, (p.val, 1 - s.activeBank p.val) ∉ f.hold) →
        ∃ u : State, exec (.bankSwapRequest i p) s = .next u ∧ u.activeBank p.val = 1 - s.activeBank p.val ∧ u.pp p.val = { s.pp p.val with swapTick := some s.now, swapAct := false } ∧
        u.bankState p.val (s.activeBank p.val) = 2 ∧ u.bankState p.val (1 - s.activeBank p.val) = 1 ∧
        (∀ t : Fin 16, u.reg (CLS_TPL_DP.a p.val t.val) = s.reg (CLS_TPL_DP_SH.a p.val t.val) ∧ u.reg (CLS_TPL_DP_SH.a p.val t.val) = s.reg (CLS_TPL_DP.a p.val t.val)) ∧
        fldGet (u.reg (EVT_SRC_STAT.a (41 + p.val))) EVT_SRC_STAT.pend = 1 ∧ u = { s with regs := u.regs, evt := u.evt, out := u.out, pipe := u.pipe, pcie := { s.pcie with pba := u.pcie.pba } }) ∧
      ((s.pp p.val).swapTick = some s.now → (s.pp p.val).swapAct = true → exec (.bankSwapRequest i p) s = .next s) ∧
      (s.bankState p.val (1 - s.activeBank p.val) ≠ 0 →
        ((s.pp p.val).swapTick ≠ some s.now ∧ ∃ f ∈ s.frames, (p.val, 1 - s.activeBank p.val) ∈ f.hold) ∨ ((s.pp p.val).swapTick = some s.now ∧ (s.pp p.val).swapAct = false) → ∃ u : State, exec (.bankSwapRequest i p) s = .next u ∧
        fldGet (u.reg (CLS_BANK_STAT.a p.val)) CLS_BANK_STAT.swap_refused = 1 ∧ u.activeBank p.val = s.activeBank p.val ∧ u.bankState p.val 0 = s.bankState p.val 0 ∧
        u.bankState p.val 1 = s.bankState p.val 1 ∧ fldGet (u.reg (EVT_SRC_STAT.a (41 + p.val))) EVT_SRC_STAT.pend = 1 ∧
        u = { s with regs := u.regs, evt := u.evt, out := u.out, pcie := { s.pcie with pba := u.pcie.pba } })) ∧
    (s.powered = true →
      (s.bankState p.val (1 - s.activeBank p.val) = 2 → (∀ f ∈ s.frames, (p.val, 1 - s.activeBank p.val) ∉ f.hold) → ∃ u : State, exec (.drainDone p) s = .next u ∧
        u.bankState p.val (1 - s.activeBank p.val) = 0 ∧ u.activeBank p.val = s.activeBank p.val ∧
        fldGet (u.reg (EVT_SRC_STAT.a (41 + p.val))) EVT_SRC_STAT.pend = 1 ∧ u = { s with regs := u.regs, evt := u.evt, out := u.out, pcie := { s.pcie with pba := u.pcie.pba } }) ∧
      (∀ f ∈ s.frames, (p.val, 1 - s.activeBank p.val) ∈ f.hold → exec (.drainDone p) s = .next s) ∧
      (∀ e : Fin 2304, s.entryBad p.val b.val e.val = false → ∃ u : State, exec (.ruleParityScan p b e true) s = .next u ∧ u.entryBad p.val b.val e.val = true ∧
        (e.val < 2048 → ∀ tpl pass fv, u.ruleMatch p.val b.val e.val tpl pass fv = true) ∧
        (∀ r n pass m d, (u.classify p.val b.val r n pass m d).rule = some e.val → (u.classify p.val b.val r n pass m d).stage = 2) ∧
        (∀ k, k ≠ parKey p.val b.val e.val → Cells.get (fun _ => false) u.ruleBad k = Cells.get (fun _ => false) s.ruleBad k) ∧
        fldGet (u.reg (EVT_SRC_STAT.a (41 + p.val))) EVT_SRC_STAT.pend = 1 ∧ u = { s with ruleBad := u.ruleBad, regs := u.regs, evt := u.evt, out := u.out, pcie := { s.pcie with pba := u.pcie.pba } }) ∧
      (∀ e : Fin 2304, exec (.ruleParityScan p b e false) s = .next s))) ∧
  (∀ (s : State) (i : Fin 3) (p : Fin 2) (c : Fin 2048), s.Canonical → s.powered = true →
    let k := (p.val * 2048 + c.val) * 2
    let fr := Cells.get (fun _ => 0) s.ruleCnt k
    let oct := Cells.get (fun _ => 0) s.ruleCnt (k + 1)
    (s.roleOf i.val ≠ 0 →
      (∃ u : State, exec (.ruleCountFrameRead i p c) s = .next u ∧ u.out = .readData i.val fr :: s.out ∧ Cells.get (fun _ => none) u.latch i.val = some (k + 1, oct) ∧
        u = { s with latch := u.latch, out := u.out } ∧ ∀ j, j ≠ i.val → Cells.get (fun _ => none) u.latch j = Cells.get (fun _ => none) s.latch j) ∧
      (∀ x, Cells.get (fun _ => none) s.latch i.val = some (k + 1, x) → ∃ u : State, exec (.ruleCountByteRead i p c true) s = .next u ∧
        u.out = .readData i.val x :: s.out ∧ Cells.get (fun _ => none) u.latch i.val = none ∧ u = { s with latch := u.latch, out := u.out } ∧
        ∀ j, j ≠ i.val → Cells.get (fun _ => none) u.latch j = Cells.get (fun _ => none) s.latch j) ∧
      ((∀ x, Cells.get (fun _ => none) s.latch i.val ≠ some (k + 1, x)) → oct < 2 ^ 64 → exec (.ruleCountByteRead i p c true) s = .next { s with out := .readData i.val oct :: s.out }) ∧
      exec (.ruleCountByteRead i p c false) s = .next { s with out := .readData i.val (oct % 2 ^ 32) :: s.out }) ∧
    (s.roleOf i.val = 2 →
      (∃ u : State, exec (.ruleCountClear i p c 0#64) s = .next u ∧ u = { s with ruleCnt := u.ruleCnt } ∧
        ∀ j, Cells.get (fun _ => 0) u.ruleCnt j = if j = k ∨ j = k + 1 then 0 else Cells.get (fun _ => 0) s.ruleCnt j) ∧
      (∀ v, v ≠ 0#64 → exec (.ruleCountClear i p c v) s = .next s)))

/-- 07 R147, R153, 09 R208, R209, 10 R236, 12 R282, R287, R290: reception. -/
def Obligations.ReceptionEntersAndEndsFrames : Prop :=
  ∀ (s : State) (n : Fin 24), s.Canonical → s.Numbered → s.powered = true →
    let x := s.port n.val
    (∀ (wire : List Byte) (abort looped : Bool) (ph : Fin 16),
      (s.portOn n.val = false → ∃ t : State, exec (.frameHead n wire abort looped ph) s = .next t ∧ t = { s with mib := t.mib } ∧
        ∀ k, Cells.get (fun _ => 0) t.mib k = if k = n.val * 32 + 7 then (Cells.get (fun _ => 0) s.mib k + 1) % 2 ^ 64 else Cells.get (fun _ => 0) s.mib k) ∧
      (s.portOn n.val = true → ((x.lpbk == 1 || x.lpbk == 2) ≠ looped ∨ (looped = true ∧ x.loop = []) ∨
        (s.portMode n.val = 8 ∧ looped = false ∧ s.sending n.val ≠ none)) → exec (.frameHead n wire abort looped ph) s = .next s) ∧
      (∀ (w : List Byte) (rest : List (List Byte)),
        (looped = false ∧ x.lpbk ≠ 1 ∧ x.lpbk ≠ 2 ∧ w = wire ∧ rest = x.loop) ∨ (looped = true ∧ (x.lpbk = 1 ∨ x.lpbk = 2) ∧ x.loop = w :: rest) →
        s.portOn n.val = true → s.portMode n.val ≠ 0 → x.prbs = 0 → x.rx = none → (s.portMode n.val = 8 → looped = false → s.sending n.val = none) →
        be16 w 12 ≠ 0x8808 → s.on (CIP_PORT_CFG.a n.val) CIP_PORT_CFG.macsec_en = false → 64 ≤ w.length →
        let f : Frame := { s.rxFrame n.val w abort ph.val with id := s.nextId }
        let r := s.parse f.pipe n.val (s.frameMax n.val) f.data
        ∃ t : State, exec (.frameHead n wire abort looped ph) s = .next t ∧
          t.port n.val = { x with rx := some s.nextId, toBusy := s.portMode n.val == 8, loop := rest } ∧ (x.lpbk = 3 → Output.frame n.val w ∈ t.out) ∧
          t.frame s.nextId = { f with head := some r, tagged := decide (0 < r.tags), hb := s.isHeartbeat n.val r.ety f.data } ∧
          (∀ id, id ≠ s.nextId → t.frame id = s.frame id) ∧ (∀ k, k ≠ n.val → t.port k = s.port k) ∧
          t = { s with nextId := s.nextId + 1, frames := t.frames, ports := t.ports, tim := t.tim, regs := t.regs, evt := t.evt, out := t.out, pcie := { s.pcie with pba := t.pcie.pba } })) ∧
    (∀ ends : List (Fin 24),
      let u := s.endCharges (ends.map (·.val))
      u = { s with meters := u.meters, frames := u.frames } ∧
      u.frames.map (fun f => { f with meter := none }) = s.frames.map (fun f => { f with meter := none }) ∧
      (x.rx = none → ∃ t : State, exec (.receptionEnd n ends) s = .next t ∧ u.Fair t) ∧
      (∀ f ∈ u.frames, x.rx = some f.id → f.port = n.val →
        (f.wire.length < 64 → f.verd ≠ 1 → ∃ t : State, exec (.receptionEnd n ends) s = .next t ∧ (t.port n.val).rx = none ∧ (∀ y ∈ t.frames, y.id ≠ f.id) ∧ (∀ y ∈ t.copies, y.fid ≠ f.id) ∧
          Cells.get (fun _ => 0) t.mib (n.val * 32 + if f.abort then 3 else 4) = (Cells.get (fun _ => 0) s.mib (n.val * 32 + if f.abort then 3 else 4) + 1) % 2 ^ 64) ∧
        (64 ≤ f.wire.length → f.secDue = false → f.hb = false → f.act.drop = true → f.verd = 0 →
          ∃ t : State, exec (.receptionEnd n ends) s = .next t ∧ (t.port n.val).rx = none ∧ (∀ y ∈ t.frames, y.id ≠ f.id) ∧ (∀ y ∈ t.copies, y.fid ≠ f.id)) ∧
        (64 ≤ f.wire.length → f.secDue = false → f.hb = false → f.act.drop = false → f.abort = false → f.fcsOk = true → f.looked = true → f.verd = 0 → f.meter = none →
          (∀ r, f.head = some r → endFinding r f.len = 0) → (f.sduHit = true ∨ f.act.maxSdu = 0 ∨ f.len ≤ f.act.maxSdu) → cellsOf f.len ≤ f.cells →
          ∃ t : State, exec (.receptionEnd n ends) s = .next t ∧ (t.port n.val).rx = none ∧ (∀ y ∈ t.copies, y.fid = f.id → y.elig = true) ∧
            t.copies.map (fun y => { y with elig := true, vf := none }) = s.copies.map (fun y => { y with elig := true, vf := none }) ∧
            ((∃ y ∈ s.copies, y.fid = f.id) → (t.frame f.id).ended = true ∧ (t.frame f.id).cells = cellsOf f.len) ∧
            Cells.get (fun _ => 0) t.mib (n.val * 32) = (Cells.get (fun _ => 0) s.mib (n.val * 32) + 1) % 2 ^ 64 ∧
            Cells.get (fun _ => 0) t.mib (n.val * 32 + 1) = (Cells.get (fun _ => 0) s.mib (n.val * 32 + 1) + f.wire.length) % 2 ^ 64) ∧
        (64 ≤ f.wire.length → f.secDue = false → f.hb = false → f.act.drop = false → f.abort = false → f.fcsOk = false → f.looked = true → f.finding = none →
          (∀ y ∈ s.copies, y.fid = f.id → y.st = 0) → ∃ t : State, exec (.receptionEnd n ends) s = .next t ∧ (t.port n.val).rx = none ∧
            (∀ y ∈ t.frames, y.id ≠ f.id) ∧ (∀ y ∈ t.copies, y.fid ≠ f.id) ∧ fldGet (t.reg (EVT_SRC_STAT.a n.val)) EVT_SRC_STAT.pend = 1 ∧
            Cells.get (fun _ => 0) t.mib (n.val * 32 + 2) = (Cells.get (fun _ => 0) s.mib (n.val * 32 + 2) + 1) % 2 ^ 64)))

/-- 07 R154, R155, R158, R167, 10 R236, R238: the decision point, the first lookup and recirculation. -/
def Obligations.LookupsStartAtTheDecisionPoint : Prop :=
  ∀ (s : State), s.Canonical → s.Numbered → s.powered = true →
    (∀ (n : Fin 24) (got : BitVec 14) (ends : List (Fin 24)) (f : Frame) (r : ParseRes),
      let v := s.endCharges (ends.map (·.val))
      f ∈ v.frames → (s.port n.val).rx = some f.id → f.port = n.val → f.head = some r → f.pass = 0 → f.hb = false → f.act.drop = false →
      let g := max f.rcvd (min got.toNat f.wire.length)
      let cut := match f.sec with
        | some x => x.tagLen
        | none => 0
      let u := v.setFrame { f with rcvd := g }
      let c := v.classify f.pipe (v.activeBank f.pipe) r f.inPort 0 f.sec.isSome f.data
      (g - cut < max (v.decisionPoint f.pipe r.tpl (min r.tags 2)) 64 ∨ f.looked = true →
        ∃ t : State, exec (.lookupStart n got ends) s = .next t ∧ (u.sduFind f.id (g - cut)).Fair t) ∧
      (max (v.decisionPoint f.pipe r.tpl (min r.tags 2)) 64 ≤ g - cut → f.looked = false →
        (∃ t : State, exec (.lookupStart n got ends) s = .next t ∧ ((u.lookup f.id false).sduFind f.id (g - cut)).Fair t) ∧
        (f.ended = false → f.code = 0 → r.hintBad = false → c.stage ≠ 0 → ∃ t : State, exec (.lookupStart n got ends) s = .next t ∧ (∀ x ∈ t.copies, x.fid ≠ f.id) ∧
          (t.frame f.id).act.drop = true ∧ (t.frame f.id).act.stage = c.stage ∧ (t.frame f.id).hold = [] ∧ (t.frame f.id).looked = true ∧
          t.reg (CLS_DROP_CNT.a f.pipe c.cause) = BitVec.ofNat 32 (min 0xffffffff ((s.reg (CLS_DROP_CNT.a f.pipe c.cause)).toNat + 1)) ∧
          (t.copies.map (fun x => { x with vf := none })) = (s.copies.filter (fun x => x.fid != f.id)).map (fun x => { x with vf := none })))) ∧
    (∀ (c : Copy) (corr : Fin 64), s.tryList 0 (s.selOrder 27 false) = some (.inl c) →
      let v := (s.bumpN QM_MERE_ECC.a QM_MERE_ECC.corr corr.val).begins c
      ∃ t : State, exec (.recirculateEntry corr none) s = .next t ∧ t = ((v.copyGone c).enter (v.secondPass c)).2 ∧ (∀ x ∈ t.copies, x.id ≠ c.id) ∧
        (v.secondPass c).pass = 1 ∧ (v.secondPass c).inPort = (s.frame c.fid).inPort ∧ (v.secondPass c).data = (s.copyPlain c).1 ∧
        (1, (s.frame c.fid).bankB.getD (s.activeBank 1)) ∈ (v.secondPass c).hold) ∧
    (∀ (corr : Fin 64) (bad : Option (Fin 64)), s.tryList 0 (s.selOrder 27 false) = none → ∃ t : State, exec (.recirculateEntry corr bad) s = .next t ∧ s.Fair t)

/-- 09 R193, 10 R221, R222, R229, R230, R231, R239, R241, R242, 11 R259, 12 R287, R288: egress. The phase of the transmit stamp is a free value
(log entry 15). -/
def Obligations.EgressSelectsSendsAndReleases : Prop :=
  ∀ (s : State) (n : Fin 28), s.Canonical → s.Numbered →
    (s.MaySend n.val → ∀ (edge : Fin 4) (corr : Fin 64),
      let b := 3 - edge.val
      let w := (State.fireAll s.queued s.phsDue).preempt n.val b
      (w.sending n.val ≠ none → ∀ bad saBad, exec (.egressSelect n edge corr bad saBad) s = .next w) ∧
      (w.Unbusy n.val → w.tryList b (w.selOrder n.val false) = none → ∀ bad saBad, exec (.egressSelect n edge corr bad saBad) s = .next w) ∧
      (∀ c : Copy, w.Unbusy n.val → w.tryList b (w.selOrder n.val false) = some (.inl c) →
        let y := w.begins c
        let z := if y.portMode c.port = 8 then y.setPort c.port { y.port c.port with coll := 0, toBusy := true } else y
        (w.encrypts n.val (w.frame c.fid).ety = false → ∀ saBad, ∃ t : State, exec (.egressSelect n edge corr none saBad) s = .next t ∧
          ((z.fresh.2.setCopy { c with st := 1, start := s.now, stamp := if c.port < 24 then z.fresh.2.txStamps c.port (z.fresh.1.toNat % 193) else [] }).bumpN
            QM_MERE_ECC.a QM_MERE_ECC.corr corr.val).Fair t) ∧
        (∀ (saBad : BitVec 4) (k : Nat), w.encrypts n.val (w.frame c.fid).ety = true → (z.fresh.2.encodeSa n.val saBad.toNat).1 = some k →
          ∃ t : State, ∃ x ∈ t.copies, exec (.egressSelect n edge corr none saBad) s = .next t ∧ x.id = c.id ∧ x.st = 1 ∧ x.slot = some k ∧
            x.pn = ((z.fresh.2.encodeSa n.val saBad.toNat).2.saAt k).pn ∧ (t.saAt k).pn = x.pn + 1) ∧
        (∀ saBad : BitVec 4, w.encrypts n.val (w.frame c.fid).ety = true → (z.fresh.2.encodeSa n.val saBad.toNat).1 = none →
          ∃ t : State, exec (.egressSelect n edge corr none saBad) s = .next t ∧ ∀ x ∈ t.copies, x.id ≠ c.id) ∧
        ((w.frame c.fid).len ≠ 0 → ∀ saBad, ∃ t : State, exec (.egressSelect n edge corr (some 0) saBad) s = .next t ∧ (∀ x ∈ t.copies, x.fid = c.fid → x.st ≠ 0) ∧
          fldGet (t.reg (EVT_SRC_STAT.a 43)) EVT_SRC_STAT.pend = 1))) ∧
    (s.powered = true → s.linkUp n.val = false ∨ s.portOn n.val = false ∨ s.mayTalk n.val = false →
      ∀ edge corr bad saBad, exec (.egressSelect n edge corr bad saBad) s = .next s) ∧
    (s.powered = true →
      (s.sending n.val = none → ∀ d, exec (.frameTransmitted n d) s = .next s) ∧
      (∀ (c : Copy) (d : List Byte), s.sending n.val = some c → (∃ t : State, exec (.frameTransmitted n d) s = .next t ∧ ∀ x ∈ t.copies, x.id ≠ c.id) ∧
        (n.val < 24 → (s.port n.val).lpbk ≠ 3 → c.slot = none → c.mir = none → c.mark = false → 60 ≤ (s.copyPlain c).1.length →
          let sent := (s.copyPlain c).1 ++ fcsOf (s.copyPlain c).1
          ∃ t : State, exec (.frameTransmitted n d) s = .next t ∧ ((s.port n.val).lpbk = 0 → Output.frame n.val sent ∈ t.out) ∧
            ((s.port n.val).lpbk ≠ 0 → (t.port n.val).loop = (s.port n.val).loop ++ [sent]) ∧
            Cells.get (fun _ => 0) t.mib (n.val * 32 + 10) = (Cells.get (fun _ => 0) s.mib (n.val * 32 + 10) + 1) % 2 ^ 64)) ∧
      (let due := fun c : Copy => c.port = n.val ∧ c.timed = true ∧ (s.frame c.fid).ended = true ∧ c.peat = false ∧ (∃ w, c.rel = some w ∧ tdiff w s.tim.wkt ≤ 0);
        ((∃ c ∈ s.copies, due c) → ∃ c ∈ s.copies, due c ∧ ∃ t : State, exec (.launchTimeReached n) s = .next t ∧ (s.setCopy { c with timed := false }).Fair t) ∧
        ((∀ c ∈ s.copies, ¬due c) → ∃ t : State, exec (.launchTimeReached n) s = .next t ∧ s.Fair t)) ∧
      (let due := fun c : Copy => c.port = n.val ∧ c.st ≠ 1 ∧ c.deadline ≤ s.now;
        ((∃ c ∈ s.copies, due c) → ∃ c ∈ s.copies, due c ∧ ∃ t : State, exec (.residenceDeadline n) s = .next t ∧ (∀ x ∈ t.copies, x.id ≠ c.id) ∧
          (c.st = 2 → (s.port n.val).lpbk = 0 → Output.abandoned n.val ∈ t.out) ∧
          (s.on (SHP_RES.a n.val c.tc) SHP_RES.may_starve = false → fldGet (t.reg (EVT_SRC_STAT.a 45)) EVT_SRC_STAT.pend = 1)) ∧
        ((∀ c ∈ s.copies, ¬due c) → ∃ t : State, exec (.residenceDeadline n) s = .next t ∧ s.Fair t)))

/-- 09 R193, R202 to R205, 10 R235, R239: Peat, meters and preemption. -/
def Obligations.PeatMetersAndPreemption : Prop :=
  ∀ (s : State), s.Canonical → s.Numbered →
    (s.powered = true → ∀ (n : Fin 28) (tc : Fin 8),
      (∀ (c : Copy) (corr : Fin 64), s.spillable n.val tc.val = true → s.spillPick n.val tc.val = some c →
        let used := fldGet (s.reg QM_PEAT_STAT.a) QM_PEAT_STAT.used
        let need := peatBlocks (s.frame c.fid).len
        (used + need ≤ s.f QM_PEAT_CFG.a QM_PEAT_CFG.size_mib * 4096 →
          (∃ t : State, exec (.spill n tc corr none) s = .next t ∧ fldGet (t.reg QM_PEAT_STAT.a) QM_PEAT_STAT.used = used + need ∧
            ((s.copiesOf c.fid).length = 1 → { c with peat := true } ∈ t.copies ∧ (t.frame c.fid).spilled = true ∧ (t.frame c.fid).cells = 0 ∧ (t.frame c.fid).pool = 0 ∧
              (t.frame c.fid).banks = [] ∧ ∀ id, id ≠ c.fid → t.frame id = s.frame id) ∧
            ((s.copiesOf c.fid).length ≠ 1 → { c with peat := true, fid := s.nextId } ∈ t.copies ∧ (t.frame s.nextId).spilled = true ∧ (t.frame s.nextId).cells = 0 ∧
              (t.frame s.nextId).banks = [] ∧ (t.frame s.nextId).data = (s.frame c.fid).data ∧ ∀ id, id ≠ s.nextId → t.frame id = s.frame id) ∧
            t = { s with copies := t.copies, frames := t.frames, bankUse := t.bankUse, regs := t.regs, spilling := t.spilling, dram := t.dram, freeIdx := t.freeIdx, nextId := t.nextId }) ∧
          ((s.frame c.fid).len ≠ 0 → ∃ t : State, exec (.spill n tc corr (some 0)) s = .next t ∧ (∀ x ∈ t.copies, x.fid = c.fid → x.st ≠ 0) ∧
            fldGet (t.reg (EVT_SRC_STAT.a 43)) EVT_SRC_STAT.pend = 1)) ∧
        (s.f QM_PEAT_CFG.a QM_PEAT_CFG.size_mib * 4096 < used + need → ∀ bad,
          (s.peatFull = false → ∃ t : State, exec (.spill n tc corr bad) s = .next t ∧ fldGet (t.reg (EVT_SRC_STAT.a 44)) EVT_SRC_STAT.pend = 1 ∧
            t = { s with peatFull := true, regs := t.regs, evt := t.evt, out := t.out, pcie := { s.pcie with pba := t.pcie.pba } }) ∧
          (s.peatFull = true → exec (.spill n tc corr bad) s = .next s))) ∧
      (s.spillable n.val tc.val = false → ∀ corr bad, exec (.spill n tc corr bad) s = .next s) ∧
      (∀ c, (s.queue n.val tc.val).find? (fun c => c.peat) = some c → s.peatOn = true → s.headSeg n.val tc.val < s.f QM_REFILL_CFG.a QM_REFILL_CFG.refill_min →
        ((s.f QM_SPILL_CFG.a QM_SPILL_CFG.spill_lo : Nat) : Int) ≤ s.poolFree → (∃ f ∈ s.frames, f.id = c.fid) →
        ((s.frame c.fid).spilled = true → ∃ t : State, exec (.refill n tc false) s = .next t ∧ { c with peat := false } ∈ t.copies ∧ (t.frame c.fid).spilled = false ∧
          (t.frame c.fid).cells = cellsOf (s.frame c.fid).len ∧ (t.frame c.fid).pool = cellsOf (s.frame c.fid).len ∧
          (t.frame c.fid).data = slice (s.peatRead (s.frame c.fid).peatBlk) 48 ((s.frame c.fid).len - 4) ∧ (∀ id, id ≠ c.fid → t.frame id = s.frame id) ∧
          fldGet (t.reg QM_PEAT_STAT.a) QM_PEAT_STAT.used = fldGet (s.reg QM_PEAT_STAT.a) QM_PEAT_STAT.used - peatBlocks (s.frame c.fid).len) ∧
        (∃ t : State, exec (.refill n tc true) s = .next t ∧ (∀ x ∈ t.copies, x.id ≠ c.id) ∧ fldGet (t.reg (EVT_SRC_STAT.a 44)) EVT_SRC_STAT.pend = 1))) ∧
    (∀ (i : Fin 3) (p : Fin 2) (m : Fin 2048) (v : BitVec 32), s.May i.val (POL_METER_BURST.a p.val m.val) →
      ∃ t : State, exec (.meterBurstWrite i p m v) s = .next t ∧ t.meterTok p.val m.val = ((fldGet v POL_METER_BURST.burst * 8000000 : Nat) : Int) ∧
        fldGet (t.reg (POL_METER_BURST.a p.val m.val)) POL_METER_BURST.burst = fldGet v POL_METER_BURST.burst ∧
        t = { s with regs := t.regs, par := t.par, aud := t.aud, evt := t.evt, out := t.out, meters := t.meters, pcie := { s.pcie with pba := t.pcie.pba } } ∧
        (∀ k, k ≠ p.val * 2048 + m.val → Cells.get (fun _ => {}) t.meters k = Cells.get (fun _ => {}) s.meters k)) ∧
    (s.powered = true → ∀ n : Fin 12,
      (fldGet (s.reg (SHP_PORT_CFG.a n.val)) SHP_PORT_CFG.pre_state = 1 →
        (∃ t : State, exec (.preemptVerifyDone n true) s = .next t ∧ fldGet (t.reg (SHP_PORT_CFG.a n.val)) SHP_PORT_CFG.pre_state = 2 ∧
          (s.sending n.val = none → t = s.setF (SHP_PORT_CFG.a n.val) SHP_PORT_CFG.pre_state 2)) ∧
        (∃ t : State, exec (.preemptVerifyDone n false) s = .next t ∧ fldGet (t.reg (SHP_PORT_CFG.a n.val)) SHP_PORT_CFG.pre_state = 3 ∧
          fldGet (t.reg (EVT_SRC_STAT.a 45)) EVT_SRC_STAT.pend = 1 ∧ t = { s with regs := t.regs, evt := t.evt, out := t.out, pcie := { s.pcie with pba := t.pcie.pba } })) ∧
      (fldGet (s.reg (SHP_PORT_CFG.a n.val)) SHP_PORT_CFG.pre_state ≠ 1 → ∀ ok, exec (.preemptVerifyDone n ok) s = .next s))

/-- 08 R174, R175, R177, R178, R182: the FDB commands, after the learning requests that came before them. -/
def Obligations.FdbCommandsActOnTheTable : Prop :=
  ∀ (s : State) (i : Fin 3) (p : Fin 2), s.Canonical → s.MayOrder i.val (fdbCmd p.val) →
    let d := s.dw (fdbCmd p.val)
    let mac := d 0 + d 1 % 65536 * 2 ^ 32
    let vid := d 1 / 65536 % 4096
    let e : FdbEnt := { mac := mac, vid := vid, fixed := nbit (d 2) 31, dest := d 2 % 512 }
    let v := fun op arg => (s.ordered i.val (fdbCmd p.val) op arg).learnDrain p.val
    ((s.pp p.val).learnQ = [] → ∀ op arg, (v op arg).fdb = s.fdb) ∧
    (∀ (arg : BitVec 16) (k : Nat),
      ((v 1 arg.toNat).fdbErr p.val 1 arg.toNat = some k → ∃ t : State, exec (.fdbInsert i p arg) s = .next t ∧ t.Refused (fdbCmd p.val) k ∧ t.fdb = (v 1 arg.toNat).fdb) ∧
      ((v 2 arg.toNat).fdbErr p.val 2 arg.toNat = some k → ∃ t : State, exec (.fdbDelete i p arg) s = .next t ∧ t.Refused (fdbCmd p.val) k ∧ t.fdb = (v 2 arg.toNat).fdb) ∧
      ((v 3 arg.toNat).fdbErr p.val 3 arg.toNat = some k → ∃ t : State, exec (.fdbSearch i p arg) s = .next t ∧ t.Refused (fdbCmd p.val) k ∧ t.fdb = (v 3 arg.toNat).fdb) ∧
      ((v 4 arg.toNat).fdbErr p.val 4 arg.toNat = some k → ∃ t : State, exec (.fdbReadSlot i p arg) s = .next t ∧ t.Refused (fdbCmd p.val) k ∧ t.fdb = (v 4 arg.toNat).fdb) ∧
      ((v 5 arg.toNat).fdbErr p.val 5 arg.toNat = some k → ∃ t : State, exec (.fdbFlush i p arg) s = .next t ∧ t.Refused (fdbCmd p.val) k ∧ t.fdb = (v 5 arg.toNat).fdb)) ∧
    ((v 2 0).fdbFind p.val mac vid = none → ∃ t : State, exec (.fdbDelete i p 0) s = .next t ∧ t.Refused (fdbCmd p.val) 1 ∧ t.fdb = (v 2 0).fdb) ∧
    ((v 1 0).fdbErr p.val 1 0 = none →
      (∀ l x, (v 1 0).fdbFind p.val mac vid = some l → (v 1 0).fdbAt p.val l = some x → ∃ t : State, exec (.fdbInsert i p 0) s = .next t ∧ t.Done s (fdbCmd p.val) 4 ∧ t.fdbAt p.val l = some e ∧
        (∀ k, k ≠ p.val * 32768 + l → Cells.get (fun _ => none) t.fdb k = Cells.get (fun _ => none) (v 1 0).fdb k) ∧
        (x.frozen = true → fldGet (t.reg (EVT_SRC_STAT.a (41 + p.val))) EVT_SRC_STAT.pend = 1) ∧
        t = { s with fdb := t.fdb, regs := t.regs, aud := t.aud, evt := t.evt, out := t.out, pipe := t.pipe, pcie := { s.pcie with pba := t.pcie.pba } }) ∧
      ((v 1 0).fdbFind p.val mac vid = none → ∃ l ∈ keyLocs 12 (fdbKey mac vid), ∃ t : State, exec (.fdbInsert i p 0) s = .next t ∧ t.Done s (fdbCmd p.val) 4 ∧ t.fdbAt p.val l = some e ∧
        ((∃ j ∈ keyLocs 12 (fdbKey mac vid), (v 1 0).fdbAt p.val j = none) → (v 1 0).fdbAt p.val l = none ∧
          ∀ k, k ≠ p.val * 32768 + l → Cells.get (fun _ => none) t.fdb k = Cells.get (fun _ => none) (v 1 0).fdb k) ∧
        t = { s with fdb := t.fdb, regs := t.regs, aud := t.aud, evt := t.evt, out := t.out, pipe := t.pipe, pcie := { s.pcie with pba := t.pcie.pba } })) ∧
    ((v 2 0).fdbErr p.val 2 0 = none → ∀ l x, (v 2 0).fdbFind p.val mac vid = some l → (v 2 0).fdbAt p.val l = some x →
      ∃ t : State, exec (.fdbDelete i p 0) s = .next t ∧ t.Done s (fdbCmd p.val) 4 ∧
      t.fdbAt p.val l = none ∧ (∀ k, k ≠ p.val * 32768 + l → Cells.get (fun _ => none) t.fdb k = Cells.get (fun _ => none) (v 2 0).fdb k) ∧
      (x.frozen = true → fldGet (t.reg (EVT_SRC_STAT.a (41 + p.val))) EVT_SRC_STAT.pend = 1) ∧
      t = { s with fdb := t.fdb, regs := t.regs, aud := t.aud, evt := t.evt, out := t.out, pipe := t.pipe, pcie := { s.pcie with pba := t.pcie.pba } }) ∧
    ((v 3 0).fdbErr p.val 3 0 = none → ∃ t : State, exec (.fdbSearch i p 0) s = .next t ∧ t.Done s (fdbCmd p.val) 4 ∧
      t.fdb = ((v 3 0).thaw p.val ((v 3 0).fdbFind p.val mac vid)).fdb ∧
      (∀ l x, (v 3 0).fdbFind p.val mac vid = some l → ((v 3 0).freezeEnd p.val l).fdbAt p.val l = some x → t.Shows (fdbRes p.val) (fdbWords true x l)) ∧
      ((v 3 0).fdbFind p.val mac vid = none → t.Shows (fdbRes p.val) [d 0, d 1, 0, 0]) ∧
      t = { s with fdb := t.fdb, regs := t.regs, aud := t.aud, evt := t.evt, out := t.out, pipe := t.pipe, pcie := { s.pcie with pba := t.pcie.pba } }) ∧
    (∀ arg : BitVec 16, (v 4 arg.toNat).fdbErr p.val 4 arg.toNat = none → ∃ t : State, exec (.fdbReadSlot i p arg) s = .next t ∧ t.Done s (fdbCmd p.val) 4 ∧
      t.fdb = ((v 4 arg.toNat).freezeEnd p.val arg.toNat).fdb ∧
      (∀ x, t.fdbAt p.val arg.toNat = some x → t.Shows (fdbRes p.val) (fdbWords true x arg.toNat)) ∧
      (t.fdbAt p.val arg.toNat = none → t.Shows (fdbRes p.val) [0, 0, 0, arg.toNat])) ∧
    ((v 5 0).fdbErr p.val 5 0 = none → ∃ t : State, exec (.fdbFlush i p 0) s = .next t ∧ (t.pp p.val).flush = some ⟨0, vid, d 2 % 512, d 3⟩ ∧ t.fdb = (v 5 0).fdb ∧
      fldGet (t.reg (fdbCmd p.val)) MBX_CTRL.req = 1 ∧
      (∀ f again, (t.pp p.val).flush = some f → ∃ u : State, exec (.flushVisit p again) t = .next u ∧ (u.pp p.val).flush = some { f with next := 1 } ∧
        u.fdbAt p.val 0 = (match t.fdbAt p.val 0 with
          | some x => if f.selects x then none else some x
          | none => none)))

/-- 08 R176, R178: the flow-table commands. -/
def Obligations.FlowCommandsActOnTheTable : Prop :=
  ∀ (s : State) (i : Fin 3) (p : Fin 2), s.Canonical → s.MayOrder i.val (flwCmd p.val) →
    let d := s.dw (flwCmd p.val)
    let at' := s.flwFind p.val (d 0) (d 1) (d 2) (d 3)
    let e : FlwEnt := ⟨d 0, d 1, d 2, d 3, d 4, d 5⟩
    (∀ (arg : BitVec 16) (k : Nat),
      (s.flwErr p.val 1 arg.toNat = some k → ∃ t : State, exec (.flwInsert i p arg) s = .next t ∧ t.Refused (flwCmd p.val) k ∧ t.flw = s.flw) ∧
      (s.flwErr p.val 2 arg.toNat = some k → ∃ t : State, exec (.flwDelete i p arg) s = .next t ∧ t.Refused (flwCmd p.val) k ∧ t.flw = s.flw) ∧
      (s.flwErr p.val 3 arg.toNat = some k → ∃ t : State, exec (.flwSearch i p arg) s = .next t ∧ t.Refused (flwCmd p.val) k ∧ t.flw = s.flw) ∧
      (s.flwErr p.val 4 arg.toNat = some k → ∃ t : State, exec (.flwReadSlot i p arg) s = .next t ∧ t.Refused (flwCmd p.val) k ∧ t.flw = s.flw)) ∧
    (s.flwErr p.val 1 0 = none →
      (∀ l, at' = some l → ∃ t : State, exec (.flwInsert i p 0) s = .next t ∧ t.Done s (flwCmd p.val) 8 ∧ t.flwAt p.val l = some e ∧
        (∀ k, k ≠ p.val * 16384 + l → Cells.get (fun _ => none) t.flw k = Cells.get (fun _ => none) s.flw k) ∧ t = { s with flw := t.flw, regs := t.regs, aud := t.aud, evt := t.evt, out := t.out, pcie := { s.pcie with pba := t.pcie.pba } }) ∧
      (at' = none → ∃ l ∈ keyLocs 11 (flwKey (d 0) (d 1) (d 2) (d 3)), ∃ t : State, exec (.flwInsert i p 0) s = .next t ∧ t.Done s (flwCmd p.val) 8 ∧ t.flwAt p.val l = some e ∧
        ((∃ j ∈ keyLocs 11 (flwKey (d 0) (d 1) (d 2) (d 3)), s.flwAt p.val j = none) → s.flwAt p.val l = none ∧ ∀ k, k ≠ p.val * 16384 + l → Cells.get (fun _ => none) t.flw k = Cells.get (fun _ => none) s.flw k) ∧
        t = { s with flw := t.flw, regs := t.regs, aud := t.aud, evt := t.evt, out := t.out, pcie := { s.pcie with pba := t.pcie.pba } })) ∧
    (s.flwErr p.val 2 0 = none → ∀ l, at' = some l → ∃ t : State, exec (.flwDelete i p 0) s = .next t ∧ t.Done s (flwCmd p.val) 8 ∧ t.flwAt p.val l = none ∧
      (∀ k, k ≠ p.val * 16384 + l → Cells.get (fun _ => none) t.flw k = Cells.get (fun _ => none) s.flw k) ∧ t = { s with flw := t.flw, regs := t.regs, aud := t.aud, evt := t.evt, out := t.out, pcie := { s.pcie with pba := t.pcie.pba } }) ∧
    (s.flwErr p.val 3 0 = none → ∃ t : State, exec (.flwSearch i p 0) s = .next t ∧ t.Done s (flwCmd p.val) 8 ∧ t.flw = s.flw ∧
      (∀ l x, at' = some l → s.flwAt p.val l = some x → t.Shows (flwRes p.val) (flwWords x l)) ∧ (at' = none → t.Shows (flwRes p.val) [d 0, d 1, d 2, d 3, 0, 0, 0, 0])) ∧
    (∀ arg : BitVec 16, s.flwErr p.val 4 arg.toNat = none → ∃ t : State, exec (.flwReadSlot i p arg) s = .next t ∧ t.Done s (flwCmd p.val) 8 ∧ t.flw = s.flw ∧
      (∀ x, s.flwAt p.val arg.toNat = some x → t.Shows (flwRes p.val) (flwWords x arg.toNat)) ∧ (s.flwAt p.val arg.toNat = none → t.Shows (flwRes p.val) [0, 0, 0, 0, 0, 0, 0, arg.toNat]))

/-- 08 R174, R177, R181 to R183, R185, R187: learning, windows, aging, parity and flush. -/
def Obligations.LearningAndSweepsVisitTheSlots : Prop :=
  (∀ (s : State) (p : Fin 2), s.Canonical → s.powered = true →
    ((s.pp p.val).learnQ = [] ∨ (s.pp p.val).flush ≠ none → exec (.learnApply p) s = .next s) ∧
    (∀ r rest, (s.pp p.val).flush = none → (s.pp p.val).learnQ = r :: rest →
      (s.fdbFind p.val r.mac r.vid = none →
        (place 12 (s.fdbKeyAt p.val) (fdbKey r.mac r.vid) ≠ none → ∃ l ∈ keyLocs 12 (fdbKey r.mac r.vid), ∃ t : State, exec (.learnApply p) s = .next t ∧ (t.pp p.val).learnQ = rest ∧
          t.fdbAt p.val l = some { mac := r.mac, vid := r.vid, fixed := false, dest := r.dest }) ∧
        (place 12 (s.fdbKeyAt p.val) (fdbKey r.mac r.vid) = none → ∃ t : State, exec (.learnApply p) s = .next t ∧ (t.pp p.val).learnQ = rest ∧ t.fdb = s.fdb ∧
          fldGet (t.reg (EVT_SRC_STAT.a (41 + p.val))) EVT_SRC_STAT.pend = 1)) ∧
      (∀ l e, s.fdbFind p.val r.mac r.vid = some l → (s.freezeEnd p.val l).fdbAt p.val l = some e →
        let n := if s.winOpen e then e.moves + 1 else 1
        let w := s.f (FDB_MOVE_CFG.a p.val) FDB_MOVE_CFG.move_win
        ∃ t : State, exec (.learnApply p) s = .next t ∧ (t.pp p.val).learnQ = rest ∧
          (∀ k, k ≠ p.val * 32768 + l → Cells.get (fun _ => none) t.fdb k = Cells.get (fun _ => none) s.fdb k) ∧
          (e.dest = r.dest → t.fdbAt p.val l = some { e with hit := true, stale := false }) ∧
          (e.dest ≠ r.dest → e.fixed = true → t.fdbAt p.val l = some e ∧ fldGet (t.reg (EVT_SRC_STAT.a (41 + p.val))) EVT_SRC_STAT.pend = 1) ∧
          (e.dest ≠ r.dest → e.fixed = false → e.frozen = true → t.fdbAt p.val l = some e) ∧
          (e.dest ≠ r.dest → e.fixed = false → e.frozen = false → (w = 0 ∨ n ≤ s.f (FDB_MOVE_CFG.a p.val) FDB_MOVE_CFG.move_max) →
            t.fdbAt p.val l = some { e with dest := r.dest, hit := true, stale := false, moves := n, win := if w = 0 then none else if s.winOpen e then e.win else some (s.now + msTicks w) }) ∧
          (e.dest ≠ r.dest → e.fixed = false → e.frozen = false → w ≠ 0 → s.f (FDB_MOVE_CFG.a p.val) FDB_MOVE_CFG.move_max < n →
            t.fdbAt p.val l = some { e with frozen := true, frzEnd := s.now + s.f (FDB_MOVE_CFG.a p.val) FDB_MOVE_CFG.freeze_time * 2500000 } ∧
            fldGet (t.reg (EVT_SRC_STAT.a (41 + p.val))) EVT_SRC_STAT.pend = 1))) ∧
    (∀ i : Fin 3, s.roleOf i.val ≠ 0 →
      (fldGet (s.reg (fdbLnot p.val + 4)) MBX_STAT.valid = 1 → ∃ t : State, exec (.learnNotifyRead i p) s = .next t ∧ t.out = .readData i.val (s.dw (fdbLnot p.val) 3) :: s.out ∧
        (t.pp p.val).notif = (s.pp p.val).notif.drop 1 ∧ t.fdb = s.fdb ∧ (∀ e rest, (s.pp p.val).notif.drop 1 = e :: rest → t.Shows (fdbLnot p.val) e) ∧
        ((s.pp p.val).notif.drop 1 = [] → fldGet (t.reg (fdbLnot p.val + 4)) MBX_STAT.valid = 0) ∧ t = { s with regs := t.regs, pipe := t.pipe, out := t.out }) ∧
      (fldGet (s.reg (fdbLnot p.val + 4)) MBX_STAT.valid = 0 → ∃ t : State, exec (.learnNotifyRead i p) s = .next t ∧
        fldGet (t.reg (fdbLnot p.val + 4)) MBX_STAT.stale_read = 1 ∧ t = { s with regs := t.regs, out := .readData i.val (s.dw (fdbLnot p.val) 3) :: s.out }))) ∧
  (∀ (s : State) (p : Fin 2), s.Canonical → s.powered = true →
    (∀ (l : Fin 32768) (e : FdbEnt), s.fdbAt p.val l.val = some e →
      (∀ w, e.win = some w → w ≤ s.now → ∃ t : State, exec (.moveWindowEnd p l) s = .next t ∧ t.fdbAt p.val l.val = some { e with win := none, moves := 0 } ∧
        (∀ k, k ≠ p.val * 32768 + l.val → Cells.get (fun _ => none) t.fdb k = Cells.get (fun _ => none) s.fdb k) ∧ t = { s with fdb := t.fdb, regs := t.regs }) ∧
      ((e.win = none ∨ ∃ w, e.win = some w ∧ s.now < w) → exec (.moveWindowEnd p l) s = .next s) ∧
      (e.frozen = true → e.frzEnd ≤ s.now → ∃ t : State, exec (.freezeEnd p l) s = .next t ∧
        t.fdbAt p.val l.val = some { e with frozen := false, hit := true, stale := false, win := none, moves := 0 } ∧ fldGet (t.reg (EVT_SRC_STAT.a (41 + p.val))) EVT_SRC_STAT.pend = 1 ∧
        (∀ k, k ≠ p.val * 32768 + l.val → Cells.get (fun _ => none) t.fdb k = Cells.get (fun _ => none) s.fdb k) ∧ t = { s with fdb := t.fdb, regs := t.regs, evt := t.evt, out := t.out, pcie := { s.pcie with pba := t.pcie.pba } }) ∧
      (e.frozen = false ∨ s.now < e.frzEnd → exec (.freezeEnd p l) s = .next s)) ∧
    (let x := s.pp p.val;
      (s.on (FDB_AGE_CFG.a p.val) FDB_AGE_CFG.age_en = false ∨ s.now * 32768 < x.sweepAt → exec (.agingVisit p) s = .next s) ∧
      (s.on (FDB_AGE_CFG.a p.val) FDB_AGE_CFG.age_en = true → x.sweepAt ≤ s.now * 32768 → ∃ t : State, exec (.agingVisit p) s = .next t ∧
        (t.pp p.val).sweep = (x.sweep + 1) % 32768 ∧ (t.pp p.val).sweepAt = x.sweepAt + s.agePeriod p.val * 250000000 ∧
        (∀ k, k ≠ p.val * 32768 + x.sweep → Cells.get (fun _ => none) t.fdb k = Cells.get (fun _ => none) s.fdb k) ∧
        (s.fdbAt p.val x.sweep = none → t.fdbAt p.val x.sweep = none) ∧
        (∀ e, (s.freezeEnd p.val x.sweep).fdbAt p.val x.sweep = some e → t.fdbAt p.val x.sweep =
          if e.fixed = true ∨ e.frozen = true then some e else if e.hit = true then some { e with hit := false, stale := false } else if e.stale = false then some { e with stale := true } else none))) ∧
    (∀ (l : Fin 32768) (flow : Bool), exec (.tableParityScan p flow false l) s = .next s) ∧
    (∀ l : Fin 32768, ∃ t : State, exec (.tableParityScan p false true l) s = .next t ∧ t.fdbAt p.val l.val = none ∧
      (∀ k, k ≠ p.val * 32768 + l.val → Cells.get (fun _ => none) t.fdb k = Cells.get (fun _ => none) s.fdb k) ∧ fldGet (t.reg (EVT_SRC_STAT.a (41 + p.val))) EVT_SRC_STAT.pend = 1 ∧
      (fldGet (s.reg (FDB_PAR_LOC.a p.val)) FDB_PAR_LOC.valid = 0 → fldGet (t.reg (FDB_PAR_LOC.a p.val)) FDB_PAR_LOC.valid = 1 ∧ fldGet (t.reg (FDB_PAR_LOC.a p.val)) FDB_PAR_LOC.loc = l.val) ∧
      t = { s with fdb := t.fdb, regs := t.regs, evt := t.evt, out := t.out, pcie := { s.pcie with pba := t.pcie.pba } }) ∧
    (∀ l : Fin 32768, l.val < 16384 → ∃ t : State, exec (.tableParityScan p true true l) s = .next t ∧ t.flwAt p.val l.val = none ∧
      (∀ k, k ≠ p.val * 16384 + l.val → Cells.get (fun _ => none) t.flw k = Cells.get (fun _ => none) s.flw k) ∧ fldGet (t.reg (EVT_SRC_STAT.a (41 + p.val))) EVT_SRC_STAT.pend = 1 ∧
      (fldGet (s.reg (FLW_PAR_LOC.a p.val)) FLW_PAR_LOC.valid = 0 → fldGet (t.reg (FLW_PAR_LOC.a p.val)) FLW_PAR_LOC.valid = 1 ∧ fldGet (t.reg (FLW_PAR_LOC.a p.val)) FLW_PAR_LOC.loc = l.val) ∧
      t = { s with flw := t.flw, regs := t.regs, evt := t.evt, out := t.out, pcie := { s.pcie with pba := t.pcie.pba } }) ∧
    ((s.pp p.val).flush = none → ∀ again, exec (.flushVisit p again) s = .next s) ∧
    (∀ f again, (s.pp p.val).flush = some f → ∃ t : State, exec (.flushVisit p again) s = .next t ∧ t.fdbAt p.val f.next = (match s.fdbAt p.val f.next with
        | some e => if f.selects e then none else some e
        | none => none) ∧
      (∀ k, k ≠ p.val * 32768 + f.next → Cells.get (fun _ => none) t.fdb k = Cells.get (fun _ => none) s.fdb k) ∧
      (f.next ≠ 32767 → (t.pp p.val).flush = some { f with next := f.next + 1 }) ∧ (f.next = 32767 → (t.pp p.val).flush = none ∧ fldGet (t.reg (fdbCmd p.val)) MBX_CTRL.req = 0 ∧
        (again = false → t.Done s (fdbCmd p.val) 4) ∧ (again = true → fldGet (t.reg (fdbCmd p.val + 4)) MBX_STAT.overrun = 1))))

/-- 11 R252, R253, R256, R257: SecTAGs and verdicts. -/
def Obligations.SecTagsAreCheckedAndJudged : Prop :=
  ∀ (s : State) (n : Fin 24), s.Canonical → s.Numbered → s.powered = true →
    ((s.port n.val).rx = none → ∀ bad, exec (.sectagComplete n bad) s = .next s) ∧
    (∀ f ∈ s.frames, (s.port n.val).rx = some f.id → f.port = n.val →
      (f.secDue = false → ∀ bad, exec (.sectagComplete n bad) s = .next s) ∧
      (∀ k, f.secDue = true → s.secCheck n.val f.data = .bad k → ∃ t : State, exec (.sectagComplete n false) s = .next t ∧
        t.frame f.id = { f with secDue := false, act := { f.act with drop := true } } ∧ t = { s with cipMib := t.cipMib, frames := t.frames } ∧
        ∀ j, Cells.get (fun _ => 0) t.cipMib j = if j = n.val * 32 + k then (Cells.get (fun _ => 0) s.cipMib j + 1) % 2 ^ 64 else Cells.get (fun _ => 0) s.cipMib j) ∧
      (∀ x d, f.secDue = true → s.secCheck n.val f.data = .ok x d →
        (∃ t : State, exec (.sectagComplete n false) s = .next t ∧ (t.frame f.id).sec = some x ∧ (t.frame f.id).verd = 1 ∧ (t.frame f.id).data = d ∧
          (t.frame f.id).len = d.length + 4 ∧ (t.frame f.id).secDue = false ∧ (t.frame f.id).head.isSome = true ∧ (∀ id, id ≠ f.id → t.frame id = s.frame id) ∧
          t = { s with frames := t.frames, regs := t.regs, evt := t.evt, out := t.out, tim := t.tim, pcie := { s.pcie with pba := t.pcie.pba } }) ∧
        ∃ t : State, exec (.sectagComplete n true) s = .next t ∧ t.saAt x.slot = {} ∧ fldGet (t.reg (EVT_SRC_STAT.a 48)) EVT_SRC_STAT.pend = 1)) ∧
    (s.frames.find? (fun f => f.port == n.val && f.ended && f.verd == 1) = none → ∃ t : State, exec (.macsecVerdict n) s = .next t ∧ s.Fair t) ∧
    (∀ f x, s.frames.find? (fun f => f.port == n.val && f.ended && f.verd == 1) = some f → f.sec = some x → f.hb = false →
      let y := s.saAt x.slot
      let h := max y.pn x.pn
      let early := s.on (CIP_PORT_CFG.a n.val) CIP_PORT_CFG.replay_en = true ∧ x.pn < y.lowPn
      let cnt := fun (t : State) (k : Nat) => Cells.get (fun _ => 0) t.cipMib (n.val * 32 + k) = (Cells.get (fun _ => 0) s.cipMib (n.val * 32 + k) + 1) % 2 ^ 64
      (x.icvOk = true → ¬early → ∃ t : State, exec (.macsecVerdict n) s = .next t ∧ cnt t 7 ∧ t.saAt x.slot = (if y.valid then { y with pn := h, lowPn := max y.lowPn (h + 1 - s.rxWindow n.val y) } else y) ∧
        (∀ c ∈ t.copies, c.fid = f.id → c.elig = true) ∧ ((∃ c ∈ s.copies, c.fid = f.id) → (t.frame f.id).verd = 0)) ∧
      (x.icvOk = false → x.enc = false → s.on (CIP_PORT_CFG.a n.val) CIP_PORT_CFG.validate = true → ∃ t : State, exec (.macsecVerdict n) s = .next t ∧ cnt t 6 ∧ t.sa = s.sa ∧
        (∀ c ∈ t.copies, c.fid = f.id → c.elig = true) ∧
        (s.on (CIP_PORT_CFG.a n.val) CIP_PORT_CFG.vbf = false → ∀ c ∈ t.copies, c.fid = f.id → 24 ≤ c.port → c.port < 27 → c.st ≠ 0)) ∧
      (f.finding = none → (∀ c ∈ s.copies, c.fid = f.id → c.st = 0) → (f.act.drop = true → ∀ c ∈ s.copies, c.fid ≠ f.id) →
        (x.icvOk = false → x.enc = true ∨ s.on (CIP_PORT_CFG.a n.val) CIP_PORT_CFG.validate = false → ∃ t : State, exec (.macsecVerdict n) s = .next t ∧ cnt t 5 ∧ t.sa = s.sa ∧
          (∀ g ∈ t.frames, g.id ≠ f.id) ∧ (∀ c ∈ t.copies, c.fid ≠ f.id) ∧ fldGet (t.reg (EVT_SRC_STAT.a 48)) EVT_SRC_STAT.pend = 1) ∧
        (x.icvOk = true → early → ∃ t : State, exec (.macsecVerdict n) s = .next t ∧ cnt t 4 ∧ t.sa = s.sa ∧
          (∀ g ∈ t.frames, g.id ≠ f.id) ∧ (∀ c ∈ t.copies, c.fid ≠ f.id) ∧ fldGet (t.reg (EVT_SRC_STAT.a 48)) EVT_SRC_STAT.pend = 1)))

/-- 11 R260 to R262, R272: the key commands, SA status and MACsec counters. -/
def Obligations.KeyCommandsChangeTheirSlot : Prop :=
  ∀ (s : State) (i : Fin 3), s.Canonical →
    (s.MayOrder i.val cipKey → ∀ arg : BitVec 16, let k := arg.toNat % 512
      let w := s.dw cipKey
      (s.saAt k).sc < 128 →
      (∀ c, (s.keyErr 1 arg.toNat = some c → ∃ t : State, exec (.saInstall i arg) s = .next t ∧ t.Refused cipKey c ∧ t.sa = s.sa) ∧
        (s.keyErr 2 arg.toNat = some c → ∃ t : State, exec (.saBind i arg) s = .next t ∧ t.Refused cipKey c ∧ t.sa = s.sa) ∧
        (s.keyErr 3 arg.toNat = some c → ∃ t : State, exec (.saRetire i arg) s = .next t ∧ t.Refused cipKey c ∧ t.sa = s.sa) ∧
        (s.keyErr 4 arg.toNat = some c → ∃ t : State, exec (.setLowestPn i arg) s = .next t ∧ t.Refused cipKey c ∧ t.sa = s.sa)) ∧
      ((s.saAt k).valid = true → s.on CIP_ALARM_STAT.a CIP_ALARM_STAT.latched = false → ∃ t : State, exec (.saInstall i arg) s = .next t ∧ t.Refused cipKey 1 ∧ t.sa = s.sa) ∧
      (s.on CIP_ALARM_STAT.a CIP_ALARM_STAT.latched = true → ∀ (op : Nat) (c : Instr), (op = 1 ∧ c = .saInstall i arg) ∨ (op = 2 ∧ c = .saBind i arg) ∨ (op = 3 ∧ c = .saRetire i arg) ∨ (op = 4 ∧ c = .setLowestPn i arg) →
        s.keyErr op arg.toNat = some 2 ∧ ∃ t : State, exec c s = .next t ∧ t.Refused cipKey 2 ∧ t.sa = s.sa) ∧
      (s.keyErr 1 arg.toNat = none → let x := installOf arg.toNat w
        ∃ t : State, exec (.saInstall i arg) s = .next t ∧ t.Done s cipKey 16 ∧ (∀ j, j ≠ k → t.saAt j = s.saAt j) ∧
          t.saAt k = { valid := true, kind := x.kind, xpn := x.xpn, aes256 := x.aes256, key := x.key, hkey := BitVec.ofNat 128 (beNat (aesEnc x.key (List.replicate 16 0#8))), salt := x.salt, ssci := x.ssci, pn := if x.kind = 1 then 0 else x.pn, lowPn := if x.kind = 1 then x.pn else 0, limit := x.limit } ∧
          t = { s with sa := t.sa, regs := t.regs, aud := t.aud, evt := t.evt, out := t.out, pcie := { s.pcie with pba := t.pcie.pba } }) ∧
      (s.keyErr 2 arg.toNat = none → let rx := nbit (w 0) 31
        let sc := nbits (w 0) 22 16
        let an := w 0 % 4
        ∃ t : State, exec (.saBind i arg) s = .next t ∧ t.Done s cipKey 16 ∧ t.saAt k = { s.saAt k with bound := true, rx := rx, sc := sc, an := an } ∧
          (∀ j, j ≠ k → t.saAt j = if s.saBound rx sc an = some j then { s.saAt j with bound := false } else s.saAt j) ∧
          t = { s with sa := t.sa, regs := t.regs, aud := t.aud, evt := t.evt, out := t.out, pcie := { s.pcie with pba := t.pcie.pba } }) ∧
      (s.keyErr 3 arg.toNat = none → ∃ t : State, exec (.saRetire i arg) s = .next t ∧ t.Done s cipKey 16 ∧ t.saAt k = { s.saAt k with retiring := true } ∧ (∀ j, j ≠ k → t.saAt j = s.saAt j) ∧
        t = { s with sa := t.sa, regs := t.regs, aud := t.aud, evt := t.evt, out := t.out, pcie := { s.pcie with pba := t.pcie.pba } }) ∧
      (s.keyErr 4 arg.toNat = none → ∃ t : State, exec (.setLowestPn i arg) s = .next t ∧ t.Done s cipKey 16 ∧ t.saAt k = { s.saAt k with lowPn := w 12 + w 13 * 2 ^ 32 } ∧
        (∀ j, j ≠ k → t.saAt j = s.saAt j) ∧ t = { s with sa := t.sa, regs := t.regs, aud := t.aud, evt := t.evt, out := t.out, pcie := { s.pcie with pba := t.pcie.pba } })) ∧
    (s.powered = true → ∀ k : Fin 512,
      ((s.saAt k.val).retiring = true → s.saBusy k.val = false → ∃ t : State, exec (.saRetireDone k) s = .next t ∧ t.saAt k.val = {} ∧ (∀ j, j ≠ k.val → t.saAt j = s.saAt j) ∧
        (∀ j, Cells.get (fun _ => 0) t.rxLast j = if Cells.get (fun _ => 0) s.rxLast j = k.val + 1 then 0 else Cells.get (fun _ => 0) s.rxLast j) ∧ t = { s with sa := t.sa, rxLast := t.rxLast }) ∧
      ((s.saAt k.val).retiring = false ∨ s.saBusy k.val = true → exec (.saRetireDone k) s = .next s)) ∧
    (s.MayAsk i.val cipSaStat → ∀ k : Fin 512, ∃ t : State, exec (.saStatusRead i (BitVec.ofNat 16 k.val)) s = .next t ∧ s.Answered t cipSaStat (saWords (s.saAt k.val))) ∧
    (s.MayAsk i.val cipMibMbx → ∀ (n : Fin 24) (k : Fin 17), let v := Cells.get (fun _ => 0) s.cipMib (n.val * 32 + k.val)
      (∃ t : State, exec (.macsecMibRead i (BitVec.ofNat 16 (n.val * 256 + k.val))) s = .next t ∧ s.Answered t cipMibMbx [v % 2 ^ 32, v / 2 ^ 32]) ∧
      (∃ t : State, exec (.macsecMibReadClear i (BitVec.ofNat 16 (n.val * 256 + k.val))) s = .next t ∧ t.Shows cipMibMbx [v % 2 ^ 32, v / 2 ^ 32] ∧
        t = { s with regs := t.regs, cipMib := t.cipMib } ∧ ∀ j, Cells.get (fun _ => 0) t.cipMib j = if j = n.val * 32 + k.val then 0 else Cells.get (fun _ => 0) s.cipMib j))

/-- 11 R266 to R269: alarms and the erase. -/
def Obligations.AlarmsEraseTheKeys : Prop :=
  ∀ (s : State) (i : Fin 3), s.Canonical → s.jtag.held = false →
    let act := s.f CIP_ALARM_STAT.a CIP_ALARM_STAT.active
    let Erased := fun (t : State) (k : Nat) => t.sa = [] ∧ t.rxLast = [] ∧ t.cjobs = [] ∧ t.eraseBad = false ∧ fldGet (t.reg CIP_ALARM_STAT.a) CIP_ALARM_STAT.latched = 1 ∧
      fldGet (t.reg CIP_ALARM_STAT.a) CIP_ALARM_STAT.erasing = 1 ∧
      (s.on CIP_ALARM_STAT.a CIP_ALARM_STAT.latched = false → s.parOf CIP_ALARM_STAT.a = {} → fldGet (t.reg CIP_ALARM_STAT.a) CIP_ALARM_STAT.first_src = k) ∧
      (s.inFen = false → fldGet (t.reg (EVT_SRC_STAT.a 49)) EVT_SRC_STAT.pend = 1)
    (nbit act 0 = false → nbit s.alarmEn 0 = true → ∃ t : State, exec .alarmIn s = .next t ∧ Erased t 0 ∧ nbit (fldGet (t.reg CIP_ALARM_STAT.a) CIP_ALARM_STAT.active) 0 = true) ∧
    (nbit act 0 = false → nbit s.alarmEn 0 = false → exec .alarmIn s = .next (s.setF CIP_ALARM_STAT.a CIP_ALARM_STAT.active (act ||| 1))) ∧
    (s.powered = true →
      (nbit act 1 = false → nbit s.alarmEn 1 = true → ∃ t : State, exec .supplyGlitch s = .next t ∧ Erased t 1 ∧ nbit (fldGet (t.reg CIP_ALARM_STAT.a) CIP_ALARM_STAT.active) 1 = true) ∧
      (nbit act 1 = false → nbit s.alarmEn 1 = false → exec .supplyGlitch s = .next (s.setF CIP_ALARM_STAT.a CIP_ALARM_STAT.active (act ||| 2))) ∧
      (nbit act 2 = false → nbit s.alarmEn 2 = true → ∃ t : State, exec .clockMonitorAlarm s = .next t ∧ Erased t 2 ∧ nbit (fldGet (t.reg CIP_ALARM_STAT.a) CIP_ALARM_STAT.active) 2 = true) ∧
      (nbit act 2 = false → nbit s.alarmEn 2 = false → exec .clockMonitorAlarm s = .next (s.setF CIP_ALARM_STAT.a CIP_ALARM_STAT.active (act ||| 4))) ∧
      (∀ k : Fin 3, nbit act k.val = true → ∃ t : State, exec (.alarmSourceInactive k) s = .next t ∧ fldGet (t.reg CIP_ALARM_STAT.a) CIP_ALARM_STAT.active = act - 2 ^ k.val ∧
        t = { s with regs := t.regs } ∧ ∀ a, a ≠ CIP_ALARM_STAT.a → t.reg a = s.reg a) ∧
      (s.on CIP_ALARM_STAT.a CIP_ALARM_STAT.erasing = true → (∃ t : State, exec (.eraseDone none) s = .next t ∧ fldGet (t.reg CIP_ALARM_STAT.a) CIP_ALARM_STAT.erasing = 0 ∧
        fldGet (t.reg (EVT_SRC_STAT.a 49)) EVT_SRC_STAT.pend = 1 ∧ t = { s with regs := t.regs, evt := t.evt, out := t.out, eraseBad := false, pcie := { s.pcie with pba := t.pcie.pba } }) ∧
        ∀ k, exec (.eraseDone (some k)) s = .next { s with eraseBad := true }) ∧
      (s.on CIP_ALARM_STAT.a CIP_ALARM_STAT.erasing = false → ∀ bad, exec (.eraseDone bad) s = .next s)) ∧
    (s.May i.val CIP_ALARM_CTRL.a → nbit act 4 = false → ∃ t : State, exec (.softwareErase i) s = .next t ∧ Erased t 4) ∧
    (s.May i.val CIP_ALARM_STAT.a →
      (act &&& s.alarmEn = 0 → exec (.alarmLatchClear i) s = .next (s.setF CIP_ALARM_STAT.a CIP_ALARM_STAT.latched 0)) ∧
      (act &&& s.alarmEn ≠ 0 → exec (.alarmLatchClear i) s = .next s))

/-- 11 R270, R271: the cipher jobs of Carr. The algorithms are PRESUMED from their standards (log entry 6). -/
def Obligations.CarrJobsStartAndComplete : Prop :=
  ∀ (s : State), s.Canonical → s.powered = true →
    let h := s.f CIP_CJOB_HEAD.a CIP_CJOB_HEAD.head
    let n := s.f CIP_CJOB_SIZE.a CIP_CJOB_SIZE.size
    let base := s.f CIP_CJOB_BASE.a CIP_CJOB_BASE.base
    let d := s.sramRead (base + 32 * h) 32
    (∀ (op : Nat) (c : Instr), (op = 1 ∧ c = .cjobCmacGenerate) ∨ (op = 2 ∧ c = .cjobCmacVerify) ∨ (op = 3 ∧ c = .cjobGcmEncrypt) ∨ (op = 4 ∧ c = .cjobGcmDecrypt) ∨ (op = 5 ∧ c = .cjobKeyUnwrap) →
      (h ≠ s.f CIP_CJOB_TAIL.a CIP_CJOB_TAIL.tail → s.cjobs.length < 16 → byteAt d 0 = op → s.on CIP_ALARM_STAT.a CIP_ALARM_STAT.erasing = false →
        ∃ t : State, exec c s = .next t ∧ t.cjobs = s.cjobs ++ [⟨h, d⟩] ∧ fldGet (t.reg CIP_CJOB_HEAD.a) CIP_CJOB_HEAD.head = (if n = 0 then h + 1 else (h + 1) % n) % 1024 ∧
          t = { s with cjobs := t.cjobs, regs := t.regs } ∧ ∀ a, a ≠ CIP_CJOB_HEAD.a → t.reg a = s.reg a) ∧
      ((h = s.f CIP_CJOB_TAIL.a CIP_CJOB_TAIL.tail ∨ 16 ≤ s.cjobs.length ∨ byteAt d 0 ≠ op ∨ s.on CIP_ALARM_STAT.a CIP_ALARM_STAT.erasing = true) → exec c s = .next s)) ∧
    (∀ k : Fin 1024, (∀ j ∈ s.cjobs, j.idx ≠ k.val) → ∀ bad, exec (.cjobComplete k bad) s = .next s) ∧
    (∀ (k : Fin 1024) (j : CJob), s.cjobs.find? (fun j => j.idx == k.val) = some j →
      let q := j.desc
      let x := s.saAt (leNat (slice q 2 2))
      let src := leNat (slice q 4 4)
      let dst := leNat (slice q 8 4)
      let len := leNat (slice q 12 4)
      let aad := leNat (slice q 16 4)
      let p := leNat (slice q 20 4)
      let a := base + 32 * k.val + 24
      let Ends := fun (m : Cells Byte) (code : Nat) => ∃ t : State, exec (.cjobComplete k false) s = .next t ∧ t.cjobs = s.cjobs.filter (fun y => y.idx != k.val) ∧
        t.sram = memPut (fun _ => 0#8) m a (leBytes 4 (2 ^ 31 + code)) ∧ (nbit (byteAt q 1) 0 = true → fldGet (t.reg (EVT_SRC_STAT.a 52)) EVT_SRC_STAT.pend = 1) ∧
        t = { s with cjobs := t.cjobs, sram := t.sram, carr := t.carr, regs := t.regs, evt := t.evt, out := t.out, sa := t.sa, freeIdx := t.freeIdx, pcie := { s.pcie with pba := t.pcie.pba } } ∧ (byteAt q 0 ≠ 5 → t.sa = s.sa ∧ t.freeIdx = s.freeIdx)
      (leNat (slice q 2 2) < 512 → x.valid = true → ∃ t : State, exec (.cjobComplete k true) s = .next t ∧ t.saAt (leNat (slice q 2 2)) = {} ∧
        (∀ m, m ≠ leNat (slice q 2 2) → t.saAt m = s.saAt m) ∧ t.cjobs = s.cjobs.filter (fun y => y.idx != k.val) ∧
        t.sram = memPut (fun _ => 0#8) s.sram a (leBytes 4 (2 ^ 31 + 2)) ∧ fldGet (t.reg (EVT_SRC_STAT.a 48)) EVT_SRC_STAT.pend = 1) ∧
      (512 ≤ leNat (slice q 2 2) ∨ x.valid = false ∨ x.retiring = true ∨ x.kind ≠ 2 → Ends s.sram 2) ∧
      (leNat (slice q 2 2) < 512 → x.valid = true → x.retiring = false → x.kind = 2 →
        (65536 < len ∨ inSram src len = false → Ends s.sram 3) ∧
        (len ≤ 65536 → inSram src len = true →
          (byteAt q 0 = 1 → inSram dst 16 = true → Ends (memPut (fun _ => 0#8) s.sram dst (aesCmac x.key (s.sramRead src len))) 0) ∧
          (byteAt q 0 = 1 → inSram dst 16 = false → Ends s.sram 3) ∧
          (byteAt q 0 = 2 → inSram p 16 = true → Ends s.sram (if aesCmac x.key (s.sramRead src len) = s.sramRead p 16 then 0 else 1)) ∧
          (byteAt q 0 = 3 → inSram src (aad + len) = true → inSram dst (len + 16) = true → inSram p 12 = true →
            let ct := gcmCrypt x.key (s.sramRead p 12) (s.sramRead (src + aad) len)
            Ends (memPut (fun _ => 0#8) s.sram dst (ct ++ gcmTag x.key (s.sramRead p 12) (s.sramRead src aad) ct)) 0) ∧
          (byteAt q 0 = 4 → inSram src (aad + len + 16) = true → inSram dst len = true → inSram p 12 = true →
            let ct := s.sramRead (src + aad) len
            let ok := gcmTag x.key (s.sramRead p 12) (s.sramRead src aad) ct = s.sramRead (src + aad + len) 16
            (ok → Ends (memPut (fun _ => 0#8) s.sram dst (gcmCrypt x.key (s.sramRead p 12) ct)) 0) ∧ (¬ok → Ends s.sram 1)) ∧
          (byteAt q 0 = 5 → aesUnwrap x.key (s.sramRead src len) = none → Ends s.sram 4) ∧
          (∀ key, byteAt q 0 = 5 → aesUnwrap x.key (s.sramRead src len) = some key → s.on CIP_ALARM_STAT.a CIP_ALARM_STAT.latched = false →
            (s.saAt (dst % 512)).valid = false → nbits dst 24 16 < 16 → nbits (nbits dst 24 16) 3 2 ≠ 3 → key.length = (if nbit (nbits dst 24 16) 1 then 32 else 16) →
            ∃ t : State, exec (.cjobComplete k false) s = .next t ∧ (t.saAt (dst % 512)).valid = true ∧ (t.saAt (dst % 512)).key = key ∧
              (t.saAt (dst % 512)).kind = nbits (nbits dst 24 16) 3 2 ∧ (∀ m, m ≠ dst % 512 → t.saAt m = s.saAt m) ∧
              t.sram = memPut (fun _ => 0#8) s.sram a (leBytes 4 (2 ^ 31))))))

/-- 12 R274, R277 to R280: enable, disable and the link. -/
def Obligations.PortsFollowEnableAndReceivePath : Prop :=
  ∀ (s : State) (i : Fin 3) (n : Fin 24), s.Canonical → s.Numbered →
    let cfg := ETH_PORT_CFG.a n.val
    let st := ETH_PORT_STAT.a n.val
    (s.May i.val cfg → ∀ v : BitVec 32,
      (fldGet (s.reg cfg) ETH_PORT_CFG.en = 0 → let m := s.f (ETH_PORT_MODE.a n.val) ETH_PORT_MODE.mode
        ∃ t : State, exec (.portEnable i n v) s = .next t ∧ fldGet (t.reg cfg) ETH_PORT_CFG.en = 1 ∧ fldGet (t.reg cfg) ETH_PORT_CFG.frame_max = fldGet v ETH_PORT_CFG.frame_max ∧
          fldGet (t.reg st) ETH_PORT_STAT.active_mode = (if m = 0 ∨ modeOk m n.val = true then m else 0) ∧ fldGet (t.reg st) ETH_PORT_STAT.link = 0 ∧
          (t.port n.val).since = s.now ∧ (t.port n.val).lpbk = s.f (ETH_PORT_MODE.a n.val) ETH_PORT_MODE.lpbk ∧ (t.port n.val).loop = [] ∧ (t.port n.val).coll = 0 ∧
          (m ≠ 0 → modeOk m n.val = false → fldGet (t.reg (EVT_SRC_STAT.a n.val)) EVT_SRC_STAT.pend = 1) ∧
          t = { s with regs := t.regs, par := t.par, aud := t.aud, evt := t.evt, out := t.out, ports := t.ports, pcie := { s.pcie with pba := t.pcie.pba } }) ∧
      (fldGet (s.reg cfg) ETH_PORT_CFG.en = 1 → ∃ t : State, exec (.portEnable i n v) s = .next t ∧ fldGet (t.reg cfg) ETH_PORT_CFG.en = 1 ∧
        fldGet (t.reg st) ETH_PORT_STAT.active_mode = fldGet (s.reg st) ETH_PORT_STAT.active_mode ∧ fldGet (t.reg st) ETH_PORT_STAT.link = fldGet (s.reg st) ETH_PORT_STAT.link ∧
        t = { s with regs := t.regs, par := t.par, aud := t.aud, evt := t.evt, out := t.out, ports := t.ports, pcie := { s.pcie with pba := t.pcie.pba } }) ∧
      (fldGet (s.reg cfg) ETH_PORT_CFG.en = 1 → (s.port n.val).rx = none → ∃ t : State, exec (.portDisable i n v) s = .next t ∧ fldGet (t.reg cfg) ETH_PORT_CFG.en = 0 ∧
        fldGet (t.reg st) ETH_PORT_STAT.link = 0 ∧ fldGet (t.reg st) ETH_PORT_STAT.ready = 0 ∧ (∀ c ∈ t.copies, c.port = n.val → c.st = 1) ∧
        ∀ c ∈ s.copies, c.mir = none → c.port ≠ n.val ∨ c.st = 1 → ∃ x ∈ t.copies, { x with vf := none } = { c with vf := none }) ∧
      (∀ f ∈ s.frames, fldGet (s.reg cfg) ETH_PORT_CFG.en = 1 → (s.port n.val).rx = some f.id → ∃ t : State, exec (.portDisable i n v) s = .next t ∧ (t.port n.val).rx = none) ∧
      (fldGet (s.reg cfg) ETH_PORT_CFG.en = 0 → ∃ t : State, exec (.portDisable i n v) s = .next t ∧ fldGet (t.reg cfg) ETH_PORT_CFG.en = 0 ∧ t.copies = s.copies)) ∧
    (s.powered = true →
      (∀ lock lf rf : Bool, ∃ t : State, exec (.rxPathChange n lock lf rf) s = .next t ∧ (t.port n.val).lock = lock ∧ (t.port n.val).lf = lf ∧ (t.port n.val).rf = rf ∧
        fldGet (t.reg st) ETH_PORT_STAT.ready = b2n (t.pathReady n.val) ∧
        (fldGet (s.reg st) ETH_PORT_STAT.ready ≠ fldGet (t.reg st) ETH_PORT_STAT.ready → (t.port n.val).since = s.now) ∧
        (fldGet (s.reg st) ETH_PORT_STAT.ready = fldGet (t.reg st) ETH_PORT_STAT.ready → (t.port n.val).since = (s.port n.val).since) ∧
        (1 ≤ s.portMode n.val → s.portMode n.val ≤ 5 → fldGet (t.reg st) ETH_PORT_STAT.local_fault = b2n lf ∧ fldGet (t.reg st) ETH_PORT_STAT.remote_fault = b2n rf) ∧
        fldGet (t.reg st) ETH_PORT_STAT.link = fldGet (s.reg st) ETH_PORT_STAT.link ∧ t.laneOf n.val = (t.port n.val).sig ∧
        ((t.port n.val).sig ≠ (s.port n.val).sig → Output.lane n.val (t.port n.val).sig ∈ t.out) ∧ t = { s with regs := t.regs, ports := t.ports, out := t.out }) ∧
      (let hold := if nbit s.pwr.fast n.val then 0 else max 1 (s.f (ETH_PORT_LINK.a n.val) ETH_PORT_LINK.up_hold);
        (s.portOn n.val = true → s.linkUp n.val = false → fldGet (s.reg st) ETH_PORT_STAT.ready = 1 → (s.port n.val).since + msTicks hold ≤ s.now →
          ∃ t : State, exec (.linkUp n) s = .next t ∧ t.linkUp n.val = true ∧ fldGet (t.reg (EVT_SRC_STAT.a n.val)) EVT_SRC_STAT.pend = 1 ∧
            t = { s with regs := t.regs, evt := t.evt, out := t.out, pwr := t.pwr, pcie := { s.pcie with pba := t.pcie.pba } } ∧ ∀ a, a ≠ st → a ≠ EVT_SRC_STAT.a n.val → t.reg a = s.reg a) ∧
        (s.portOn n.val = false ∨ s.linkUp n.val = true ∨ fldGet (s.reg st) ETH_PORT_STAT.ready = 0 ∨ s.now < (s.port n.val).since + msTicks hold → exec (.linkUp n) s = .next s)) ∧
      (let hold := s.f (ETH_PORT_LINK.a n.val) ETH_PORT_LINK.down_hold;
        (s.portOn n.val = true → s.linkUp n.val = true → fldGet (s.reg st) ETH_PORT_STAT.ready = 0 → (s.port n.val).since + usTicks hold ≤ s.now →
          ((s.port n.val).rx = none → ∃ t : State, exec (.linkDown n) s = .next t ∧ t.linkUp n.val = false ∧ fldGet (t.reg (EVT_SRC_STAT.a n.val)) EVT_SRC_STAT.pend = 1 ∧
            Cells.get (fun _ => 0) t.mib (n.val * 32 + 18) = (Cells.get (fun _ => 0) s.mib (n.val * 32 + 18) + 1) % 2 ^ 64 ∧
            t.copies.map (fun c => { c with vf := none }) = s.copies.map (fun c => { c with vf := none }) ∧ t.frames = s.frames ∧
            ∀ a, a ≠ st → a ≠ EVT_SRC_STAT.a n.val → t.reg a = s.reg a) ∧
          (∀ f ∈ s.frames, (s.port n.val).rx = some f.id → ∃ t : State, exec (.linkDown n) s = .next t ∧ (t.port n.val).rx = none)) ∧
        (s.portOn n.val = false ∨ s.linkUp n.val = false ∨ fldGet (s.reg st) ETH_PORT_STAT.ready = 1 ∨ s.now < (s.port n.val).since + usTicks hold → exec (.linkDown n) s = .next s)))

/-- 12 R276, R288, R289, R291, R292, R301: what a port records. -/
def Obligations.PortSignalsAreRecorded : Prop :=
  ∀ (s : State), s.Canonical → s.Numbered → s.powered = true →
    (∀ (n : Fin 24) (w : BitVec 16), let m := s.portMode n.val
      (modeInband m = true → s.portOn n.val = true → ∃ t : State, exec (.inbandWord n w) s = .next t ∧ fldGet (t.reg (ETH_PORT_STAT.a n.val)) ETH_PORT_STAT.inband = w.toNat ∧
        (nbit w.toNat 15 = true → nbit w.toNat 12 = false → fldGet (t.reg (EVT_SRC_STAT.a n.val)) EVT_SRC_STAT.pend = 1) ∧
        (nbit w.toNat 15 = false → t.evt = s.evt) ∧ t = { s with regs := t.regs, ports := t.ports, evt := t.evt, out := t.out, pcie := { s.pcie with pba := t.pcie.pba } }) ∧
      (modeInband m = false ∨ s.portOn n.val = false → exec (.inbandWord n w) s = .next s)) ∧
    (∀ k : Fin 4, let n := 20 + k.val
      (s.plcaOn n = true → ∃ t : State, exec (.plcaBeacon k) s = .next t ∧ fldGet (t.reg (ETH_T1S_STAT.a n)) ETH_T1S_STAT.plca_status = 1 ∧ (t.port n).beacon = s.now ∧
        (t.port n).plcaLost = false ∧ (s.f (ETH_T1S_PLCA.a n) ETH_T1S_PLCA.node_id ≠ 0 → (t.port n).toOn = true ∧ (t.port n).toId = 0 ∧ (t.port n).toAt = s.now) ∧
        ((s.port n).plcaLost = true → fldGet (t.reg (EVT_SRC_STAT.a n)) EVT_SRC_STAT.pend = 1) ∧
        ((s.port n).plcaLost = false → t.evt = s.evt) ∧ t = { s with regs := t.regs, ports := t.ports, evt := t.evt, out := t.out, pcie := { s.pcie with pba := t.pcie.pba } }) ∧
      (s.plcaOn n = false → exec (.plcaBeacon k) s = .next s ∧ exec (.plcaTimeout k) s = .next s) ∧
      (s.plcaOn n = true → fldGet (s.reg (ETH_T1S_STAT.a n)) ETH_T1S_STAT.plca_status = 1 → (s.port n).beacon + s.plcaLoss n ≤ s.now →
        ∃ t : State, exec (.plcaTimeout k) s = .next t ∧ fldGet (t.reg (ETH_T1S_STAT.a n)) ETH_T1S_STAT.plca_status = 0 ∧ (t.port n).plcaLost = true ∧
          fldGet (t.reg (EVT_SRC_STAT.a n)) EVT_SRC_STAT.pend = 1 ∧ t = { s with regs := t.regs, ports := t.ports, evt := t.evt, out := t.out, pcie := { s.pcie with pba := t.pcie.pba } }) ∧
      (s.now < (s.port n).beacon + s.plcaLoss n → exec (.plcaTimeout k) s = .next s) ∧
      (s.portMode n ≠ 8 ∨ s.portOn n = false → exec (.collision k) s = .next s) ∧
      (s.portMode n = 8 → s.portOn n = true → (s.port n).rx = none →
        let plca := s.plcaOn n = true ∧ fldGet (s.reg (ETH_T1S_STAT.a n)) ETH_T1S_STAT.plca_status = 1
        (plca → ∃ t : State, exec (.collision k) s = .next t ∧ Cells.get (fun _ => 0) t.mib (n * 32 + 20) = (Cells.get (fun _ => 0) s.mib (n * 32 + 20) + 1) % 2 ^ 64 ∧
          fldGet (t.reg (EVT_SRC_STAT.a n)) EVT_SRC_STAT.pend = 1 ∧ t = { s with mib := t.mib, regs := t.regs, evt := t.evt, out := t.out, pcie := { s.pcie with pba := t.pcie.pba } }) ∧
        (∀ c, ¬plca → s.sending n = some c →
          ((s.port n).coll < 15 → ∃ t : State, exec (.collision k) s = .next t ∧ (t.port n).coll = (s.port n).coll + 1 ∧ t = { s with ports := t.ports }) ∧
          (15 ≤ (s.port n).coll → ∃ t : State, exec (.collision k) s = .next t ∧ (t.port n).coll = 0 ∧ (∀ x ∈ t.copies, x.id ≠ c.id) ∧
            Cells.get (fun _ => 0) t.mib (n * 32 + 19) = (Cells.get (fun _ => 0) s.mib (n * 32 + 19) + 1) % 2 ^ 64)) ∧
        (¬plca → s.sending n = none → exec (.collision k) s = .next s))) ∧
    (∀ n : Fin 20,
      (s.portOn n.val = true → (s.port n.val).prbs ≠ 0 → (∃ t : State, exec (.prbsBitError n true) s = .next t ∧ fldGet (t.reg (ETH_PORT_PRBS.a n.val)) ETH_PORT_PRBS.locked = 1 ∧
          fldGet (t.reg (ETH_PORT_PRBS.a n.val)) ETH_PORT_PRBS.errors = fldGet (s.reg (ETH_PORT_PRBS.a n.val)) ETH_PORT_PRBS.errors ∧ t = { s with regs := t.regs }) ∧
        (fldGet (s.reg (ETH_PORT_PRBS.a n.val)) ETH_PORT_PRBS.locked = 1 → ∃ t : State, exec (.prbsBitError n false) s = .next t ∧
          fldGet (t.reg (ETH_PORT_PRBS.a n.val)) ETH_PORT_PRBS.errors = min (2 ^ 31 - 1) (fldGet (s.reg (ETH_PORT_PRBS.a n.val)) ETH_PORT_PRBS.errors + 1) ∧ t = { s with regs := t.regs }) ∧
        (fldGet (s.reg (ETH_PORT_PRBS.a n.val)) ETH_PORT_PRBS.locked = 0 → exec (.prbsBitError n false) s = .next s)) ∧
      (s.portOn n.val = false ∨ (s.port n.val).prbs = 0 → ∀ b, exec (.prbsBitError n b) s = .next s)) ∧
    (∀ i : Fin 3, s.MayAsk i.val ethMib → ∀ (n : Fin 24) (k : Fin 21), let v := Cells.get (fun _ => 0) s.mib (n.val * 32 + k.val)
      (∃ t : State, exec (.portMibRead i (BitVec.ofNat 16 (n.val * 256 + k.val))) s = .next t ∧ s.Answered t ethMib [v % 2 ^ 32, v / 2 ^ 32]) ∧
      (∃ t : State, exec (.portMibReadClear i (BitVec.ofNat 16 (n.val * 256 + k.val))) s = .next t ∧ t.Shows ethMib [v % 2 ^ 32, v / 2 ^ 32] ∧
        t = { s with regs := t.regs, mib := t.mib } ∧ ∀ j, Cells.get (fun _ => 0) t.mib j = if j = n.val * 32 + k.val then 0 else Cells.get (fun _ => 0) s.mib j)) ∧
    (∀ (g : Fin 5) (aer : Option (Fin 32)), (g.val = s.pcieGen → exec (.pcieLinkChange g aer) s = .next s) ∧
      (g.val ≠ s.pcieGen → ∃ t : State, exec (.pcieLinkChange g aer) s = .next t ∧ t.pcieGen = g.val ∧ fldGet (t.reg (EVT_SRC_STAT.a 62)) EVT_SRC_STAT.pend = 1 ∧
        (g.val ≠ 0 ∨ aer = none → t.pcie.cfg = s.pcie.cfg) ∧
        (∀ k, g.val = 0 → aer = some k → Cells.get cfgReset t.pcie.cfg 0x104 = Cells.get cfgReset s.pcie.cfg 0x104 ||| BitVec.ofNat 32 (2 ^ k.val)) ∧
        t = { s with pcieGen := t.pcieGen, regs := t.regs, evt := t.evt, out := t.out, pcie := { s.pcie with pba := t.pcie.pba, cfg := t.pcie.cfg } }))

/-- 12 R285, R286: MDIO. -/
def Obligations.MdioOperationsSendFrames : Prop :=
  ∀ (s : State) (i : Fin 3), s.Canonical →
    (s.MayOrder i.val mdioCmd → ∀ (op : Nat) (m : Fin 2) (c : Instr),
      (op = 1 ∧ c = .c22Write i (BitVec.ofNat 16 m.val)) ∨ (op = 2 ∧ c = .c22Read i (BitVec.ofNat 16 m.val)) ∨ (op = 3 ∧ c = .c45Address i (BitVec.ofNat 16 m.val)) ∨
      (op = 4 ∧ c = .c45Write i (BitVec.ofNat 16 m.val)) ∨ (op = 5 ∧ c = .c45Read i (BitVec.ofNat 16 m.val)) ∨ (op = 6 ∧ c = .c45ReadIncrement i (BitVec.ofNat 16 m.val)) ∨
      (op = 7 ∧ c = .c45IndirectRead i (BitVec.ofNat 16 m.val)) ∨ (op = 8 ∧ c = .c45IndirectWrite i (BitVec.ofNat 16 m.val)) →
      (mdioOk op (s.dw mdioCmd 0) (s.dw mdioCmd 1) = true → ∃ t : State, exec c s = .next t ∧
        t.mdio = { busy := true, op := op, master := m.val, d0 := s.dw mdioCmd 0, d1 := s.dw mdioCmd 1 } ∧ fldGet (t.reg mdioCmd) MBX_CTRL.req = 1 ∧
        ∃ o, t.out = (mdioFrames op (s.dw mdioCmd 0) (s.dw mdioCmd 1)).reverse.map (fun w => mdioOut m.val (s.on (ETH_MDIO_CFG.a m.val) ETH_MDIO_CFG.pre_sup) w) ++ o ∧ s.out <:+ o ∧
          t = { s with mdio := t.mdio, regs := t.regs, aud := t.aud, evt := t.evt, out := t.out, pcie := { s.pcie with pba := t.pcie.pba } }) ∧
      (mdioOk op (s.dw mdioCmd 0) (s.dw mdioCmd 1) = false → ∃ t : State, exec c s = .next t ∧ t.Refused mdioCmd 2 ∧ t.mdio = s.mdio)) ∧
    (s.powered = true → ∀ (data : BitVec 16) (again : Bool),
      (s.mdio.busy = false → ∀ resp, exec (.mdioOpDone data resp again) s = .next s) ∧
      (s.mdio.busy = true → let rd := s.mdio.op = 2 ∨ s.mdio.op = 5 ∨ s.mdio.op = 6 ∨ s.mdio.op = 7
        (rd → ∃ t : State, exec (.mdioOpDone data true false) s = .next t ∧ t.mdio = {} ∧ t.Done s mdioCmd 2 ∧ t.Shows mdioRes [s.mdio.op * 2 ^ 24 + data.toNat] ∧ t = { s with mdio := {}, regs := t.regs }) ∧
        (rd → ∃ t : State, exec (.mdioOpDone data false again) s = .next t ∧ t.mdio = {} ∧ t.Refused mdioCmd 1 ∧ t = { s with mdio := {}, regs := t.regs }) ∧
        (¬rd → ∀ resp, ∃ t : State, exec (.mdioOpDone data resp false) s = .next t ∧ t.mdio = {} ∧ t.Done s mdioCmd 2 ∧ t = { s with mdio := {}, regs := t.regs }) ∧
        (∀ resp, ∃ t : State, exec (.mdioOpDone data resp true) s = .next t ∧ fldGet (t.reg mdioCmd) MBX_CTRL.req = 0 ∧ fldGet (t.reg (mdioCmd + 4)) MBX_STAT.overrun = 1)))

/-- 12 R296, R297, R299, R301: rings. -/
def Obligations.RingsRunStopAndTransmit : Prop :=
  ∀ (s : State), s.Canonical → s.Numbered →
    (∀ (i : Fin 3) (g : Fin 4) (r : Fin 16) (v : BitVec 32), let a := ringReg g.val r.val
      s.May i.val (a 8) → g.val < 2 ∨ r.val < 4 →
      (g.val < 2 ∨ i.val = 1 →
        (nbit (s.reg (a 8)).toNat 31 = false → ∃ t : State, exec (.ringEnable i g r v) s = .next t ∧ nbit (t.reg (a 8)).toNat 31 = true ∧ t.reg (a 0xc) = 0#32 ∧ t.reg (a 0x10) = 0#32 ∧
          t = { s with regs := t.regs, par := t.par, aud := t.aud, evt := t.evt, out := t.out, pcie := { s.pcie with pba := t.pcie.pba } }) ∧
        (∃ t : State, exec (.ringDisable i g r v) s = .next t ∧ nbit (t.reg (a 8)).toNat 31 = false ∧ t.reg (a 0xc) = s.reg (a 0xc) ∧ t.reg (a 0x10) = s.reg (a 0x10) ∧
          t = { s with regs := t.regs, par := t.par, aud := t.aud, evt := t.evt, out := t.out, pcie := { s.pcie with pba := t.pcie.pba } })) ∧
      (2 ≤ g.val → i.val ≠ 1 → (∃ t : State, exec (.ringEnable i g r v) s = .next t ∧ t.reg (a 8) = s.reg (a 8) ∧ fldGet (t.reg (EVT_SRC_STAT.a 60)) EVT_SRC_STAT.pend = 1) ∧
        ∃ t : State, exec (.ringDisable i g r v) s = .next t ∧ t.reg (a 8) = s.reg (a 8) ∧ fldGet (t.reg (EVT_SRC_STAT.a 60)) EVT_SRC_STAT.pend = 1)) ∧
    (s.powered = true → ∀ (r : Fin 16) (d buf : List Byte), let q : Fin 20 := ⟨r.val, by omega⟩
      let x := slice d 0 64
      let u : State := { s with ringPtr := Cells.set (fun _ => 0) s.ringPtr 0 ((r.val + 1) % 16) }
      (s.ringTurn 0 16 ≠ some r.val → exec (.txDescriptor q d buf) s = .next s) ∧
      (s.ringTurn 0 16 = some r.val → descResult x ≠ 0 → ∃ t : State, exec (.txDescriptor q d buf) s = .next t ∧
        Output.hostWrite (s.ringDesc 0 r.val + 40) (leBytes 4 (2 ^ 31 + descResult x)) ∈ t.out ∧ t.reg (ringReg 0 r.val 0x10) = BitVec.ofNat 32 ((s.ringHead 0 r.val + 1) % s.ringN 0 r.val) ∧
        Cells.get (fun _ => 0) t.ringPtr 0 = (r.val + 1) % 16 ∧ t.frames = s.frames ∧ t.copies = s.copies) ∧
      (s.ringTurn 0 16 = some r.val → descResult x = 0 →
        let l := u.bytesTime (slice x 12 12)
        let y := l.2.bytesTime (slice x 24 12)
        let e := y.2.enter { port := 25, inPort := 25, data := slice buf 0 (leNat (slice x 8 2)), launch := l.1, oneStep := nbits (byteAt x 10) 2 1, ref := y.1.getD 0 }
        ∃ t : State, exec (.txDescriptor q d buf) s = .next t ∧ t = e.2.txDescDone 0 r.val (nbit (byteAt x 10) 0) (if e.1 then 0 else 3) ∧
          t.reg (ringReg 0 r.val 0x10) = BitVec.ofNat 32 ((e.2.ringHead 0 r.val + 1) % e.2.ringN 0 r.val) ∧ t.copies = e.2.copies ∧
          Output.hostWrite (e.2.ringDesc 0 r.val + 40) (leBytes 4 (2 ^ 31 + if e.1 then 0 else 3)) ∈ t.out)) ∧
    (s.powered = true → ∀ (r : Fin 4) (d buf : List Byte), let q : Fin 20 := ⟨16 + r.val, by omega⟩
      let a := s.ringDesc 2 r.val
      let x := s.carrRead a 64
      let u : State := { s with ringPtr := Cells.set (fun _ => 0) s.ringPtr 2 ((r.val + 1) % 4) }
      let dst := leNat (slice x 0 8)
      let n := leNat (slice x 8 2)
      let Stops := ∃ t : State, exec (.txDescriptor q d buf) s = .next t ∧ nbit (t.reg (ringReg 2 r.val 8)).toNat 31 = false ∧
        fldGet (t.reg (EVT_SRC_STAT.a 52)) EVT_SRC_STAT.pend = 1 ∧ t.frames = s.frames ∧ t.copies = s.copies
      (s.ringTurn 2 4 ≠ some r.val → exec (.txDescriptor q d buf) s = .next s) ∧
      (s.ringTurn 2 4 = some r.val → inCarr a 64 = false ∨ (descResult x = 0 ∧ inCarr dst n = false) → Stops) ∧
      (s.ringTurn 2 4 = some r.val → inCarr a 64 = true → descResult x ≠ 0 → ∃ t : State, exec (.txDescriptor q d buf) s = .next t ∧
        (inSram a 64 = true → t.sram = memPut (fun _ => 0#8) s.sram (a + 40) (leBytes 4 (2 ^ 31 + descResult x))) ∧
        (inSram a 64 = false → t.dram = memPut (fun _ => 0#8) s.dram (a + 40 - dramBase) (leBytes 4 (2 ^ 31 + descResult x))) ∧
        t.reg (ringReg 2 r.val 0x10) = BitVec.ofNat 32 ((s.ringHead 2 r.val + 1) % s.ringN 2 r.val) ∧ t.frames = s.frames ∧ t.copies = s.copies) ∧
      (s.ringTurn 2 4 = some r.val → inCarr a 64 = true → descResult x = 0 → inCarr dst n = true →
        let y := u.bytesTime (slice x 24 12)
        let e := y.2.enter { port := 24, inPort := 24, data := slice (s.carrRead dst n) 0 n, launch := none, oneStep := nbits (byteAt x 10) 2 1, ref := y.1.getD 0 }
        exec (.txDescriptor q d buf) s = .next (e.2.txDescDone 2 r.val (nbit (byteAt x 10) 0) (if e.1 then 0 else 3)))) ∧
    (s.powered = true → ∀ (g : Fin 4) (r : Fin 16) (wr : Bool), let a := ringReg g.val r.val
      (g.val < 2 ∨ r.val < 4 → nbit (s.hw (a 8)).toNat 31 = true → ∀ err, ∃ t : State, exec (.dmaError g r wr err) s = .next t ∧ nbit (t.reg (a 8)).toNat 31 = false ∧
        fldGet (t.reg (EVT_SRC_STAT.a (if g.val < 2 then 62 else 52))) EVT_SRC_STAT.pend = 1 ∧ t.frames = s.frames ∧ t.copies = s.copies) ∧
      (g.val < 2 ∨ r.val < 4 → nbit (s.hw (a 8)).toNat 31 = false → exec (.dmaError g r wr none) s = .next s ∧
        ∀ k : Fin 32, exec (.dmaError g r wr (some k)) s = .next (if g.val < 2 then s.aerLog (some k.val) else s.memLog (some k.val) (s.ringDesc g.val r.val))) ∧
      (2 ≤ g.val → 4 ≤ r.val → ∀ err, exec (.dmaError g r wr err) s = .fault (.illFormed "DMA_ERROR")))

/-- 13 R302, R304, R306, R307, R312: a CAN controller. The steps of the error counters are PRESUMED from ISO 11898-1 (log entry 21). -/
def Obligations.CanControllersFollowTheirBus : Prop :=
  ∀ (s : State) (i : Fin 3) (c : Fin 24), s.Canonical →
    let st := CAN_STAT.a c.val
    let cs := s.canSt c.val
    let Only := fun (t : State) (o n : Nat) => ∀ a, a < msgBase + o ∨ msgBase + o + n ≤ a → Cells.get (fun _ => 0#8) t.win a = Cells.get (fun _ => 0#8) s.win a
    let Counted := fun (t : State) (k : Nat) => fldGet (t.reg (CAN_CNT.a c.val k)) CAN_CNT.count = min (2 ^ 32 - 1) (fldGet (s.reg (CAN_CNT.a c.val k)) CAN_CNT.count + 1)
    (s.May i.val (CAN_BUF_CMD.a c.val) → ∀ b : Fin 64, let w3 := canDesc c.val b.val 3
      let W3 := fun (x : Instr) (v : Nat) (y : CanSt) => ∃ t : State, exec x s = .next t ∧ t.mw w3 = v ∧ Only t w3 4 ∧ t.canSt c.val = y ∧
        (∀ k, k ≠ c.val → t.canSt k = s.canSt k) ∧ t = { s with win := t.win, can := t.can }
      (s.txPend c.val b.val = false → s.isTxBuf c.val b.val = true → s.txFits c.val b.val = true → W3 (.canRequestTransmit i c b) (2 ^ 31) { cs with req := some (b.val, s.busNow) }) ∧
      (s.txPend c.val b.val = true ∨ s.isTxBuf c.val b.val = false ∨ s.txFits c.val b.val = false → exec (.canRequestTransmit i c b) s = .next s) ∧
      (s.txPend c.val b.val = true → cs.tx ≠ some (0, b.val) → W3 (.canAbortTransmit i c b) (2 ^ 29) cs) ∧
      (s.txPend c.val b.val = false ∨ cs.tx = some (0, b.val) → exec (.canAbortTransmit i c b) s = .next s) ∧
      (nbit (s.mw (canDesc c.val b.val 0)) 30 = false → W3 (.canReleaseBuffer i c b) 0 { cs with rel := some (b.val, s.busNow, nbit (s.mw w3) 31) }) ∧
      (nbit (s.mw (canDesc c.val b.val 0)) 30 = true → exec (.canReleaseBuffer i c b) s = .next s)) ∧
    (s.canLive c.val = true → s.canQuiet c.val = false → cs.tx = none →
      (s.canReady c.val = [] → ∀ lost, exec (.canTransmit c lost) s = .next s) ∧
      (s.canReady c.val ≠ [] → ∃ e ∈ s.canReady c.val, (∀ y ∈ s.canReady c.val, e.1 ≤ y.1) ∧
        let u := unitOff (if e.2.1 = 0 then s.bufUnit c.val e.2.2 else e.2.2)
        (∃ t : State, exec (.canTransmit c false) s = .next t ∧ t.canSt c.val = { cs with tx := some e.2 } ∧ t.mw (u + 8) = nsOf s.tim.wkt ∧ t.mw (u + 12) = secOf s.tim.wkt % 65536 ∧
          Only t u 16 ∧ t = { s with win := t.win, can := t.can }) ∧
        ∃ t : State, exec (.canTransmit c true) s = .next t ∧ Counted t 7 ∧ Only t u 16 ∧ t = { s with win := t.win, regs := t.regs })) ∧
    (s.canLive c.val = false ∨ s.canQuiet c.val = true ∨ cs.tx ≠ none → ∀ lost, exec (.canTransmit c lost) s = .next s) ∧
    (cs.tx = none → exec (.canFrameSent c) s = .next s) ∧
    (s.powered = true →
      (∀ b : Fin 64, cs.tx = some (0, b.val) → ∃ t : State, exec (.canFrameSent c) s = .next t ∧ Counted t 3 ∧ (t.canSt c.val).tx = none ∧ (t.canSt c.val).gwq = cs.gwq ∧
        t.mw (canDesc c.val b.val 3) = 2 ^ 28 ∧ Only t (canDesc c.val b.val 3) 4 ∧ s.canTec c.val - 1 = t.canTec c.val ∧
        Output.can c.val (s.bufIdent c.val b.val) (s.bufFlags c.val b.val) (s.hdr (s.bufUnit c.val b.val) 0) (s.hdr (s.bufUnit c.val b.val) 1)
          (if nbit (s.bufFlags c.val b.val) 0 then [] else s.msgData (s.bufUnit c.val b.val) (s.bufFmt c.val b.val)) ∈ t.out ∧
        t = { s with win := t.win, can := t.can, regs := t.regs, evt := t.evt, out := t.out, pcie := { s.pcie with pba := t.pcie.pba } }) ∧
      (∀ (u : Nat) (m : GwMsg), cs.tx = some (1, u) → s.msgAt u = some m → ∃ t : State, exec (.canFrameSent c) s = .next t ∧ Counted t 3 ∧ (t.canSt c.val).tx = none ∧
        (t.canSt c.val).gwq = cs.gwq.erase u ∧ t.msgs = (s.gwRelease u).msgs ∧ s.canTec c.val - 1 = t.canTec c.val ∧
        Output.can c.val m.ident (canFlags m.fmt m.flags) (s.hdr u 0) (s.hdr u 1) (if nbit (canFlags m.fmt m.flags) 0 then [] else s.msgData u m.fmt) ∈ t.out ∧
        t = { s with can := t.can, msgs := t.msgs, regs := t.regs, evt := t.evt, out := t.out, pcie := { s.pcie with pba := t.pcie.pba } })) ∧
    (∀ kind : Fin 4,
      (s.canLive c.val = false ∨ cs.tx.isSome ≠ decide (2 ≤ kind.val) → exec (.canBusError c kind) s = .next s) ∧
      (s.canLive c.val = true → cs.tx.isSome = decide (2 ≤ kind.val) →
        (s.canQuiet c.val = true → ∃ t : State, exec (.canBusError c kind) s = .next t ∧ Counted t 5 ∧ t.canSt c.val = { cs with tx := none } ∧ t = { s with can := t.can, regs := t.regs }) ∧
        (s.canQuiet c.val = false →
          let tec := s.canTec c.val + (if kind.val = 2 then 8 else 0)
          let rec' := s.canRec c.val + (if kind.val = 0 then 1 else if kind.val = 1 then 8 else 0)
          (tec ≤ 255 → ∃ t : State, exec (.canBusError c kind) s = .next t ∧ Counted t 5 ∧ t.canSt c.val = { cs with tx := none } ∧ t.canTec c.val = tec ∧ t.canRec c.val = min 255 rec' ∧
            t.canState c.val = (if 127 < tec ∨ 127 < rec' then 1 else 0) ∧ ((127 < tec ∨ 127 < rec') → s.canState c.val = 0 → fldGet (t.reg (EVT_SRC_STAT.a (canSrc c.val))) EVT_SRC_STAT.pend = 1) ∧
            t = { s with can := t.can, regs := t.regs, evt := t.evt, out := t.out, pcie := { s.pcie with pba := t.pcie.pba } }) ∧
          (255 < tec → ∃ t : State, exec (.canBusError c kind) s = .next t ∧ t.canState c.val = 2 ∧ t.canTec c.val = 255 ∧ t.canSt c.val = {} ∧
            (∀ b : Fin 64, s.txPend c.val b.val = true → t.mw (canDesc c.val b.val 3) = 2 ^ 29) ∧ fldGet (t.reg (EVT_SRC_STAT.a (canSrc c.val))) EVT_SRC_STAT.pend = 1 ∧
            t = { s with can := t.can, win := t.win, msgs := t.msgs, regs := t.regs, evt := t.evt, out := t.out, pcie := { s.pcie with pba := t.pcie.pba } })))) ∧
    (let Recovers := fun (x : Instr) => ∃ t : State, exec x s = .next t ∧ t.canState c.val = 0 ∧ t.canTec c.val = 0 ∧ t.canRec c.val = 0 ∧ t.canSt c.val = { cs with recov := false } ∧
        fldGet (t.reg (CAN_CTRL.a c.val)) CAN_CTRL.restart = 0 ∧ t = { s with can := t.can, regs := t.regs } ∧ ∀ a, a ≠ st → a ≠ CAN_CTRL.a c.val → t.reg a = s.reg a;
      (s.canState c.val = 2 → s.canOn c.val = true → s.powered = true →
        (s.on (CAN_CFG.a c.val) CAN_CFG.bo_auto = true ∨ fldGet (s.reg (CAN_CTRL.a c.val)) CAN_CTRL.restart = 1 → Recovers (.busOffRecovery c)) ∧
        (s.on (CAN_CFG.a c.val) CAN_CFG.bo_auto = false → fldGet (s.reg (CAN_CTRL.a c.val)) CAN_CTRL.restart = 0 → ∃ t : State, exec (.busOffRecovery c) s = .next t ∧
          t.canSt c.val = { cs with recov := true } ∧ t = { s with can := t.can })) ∧
      (s.canState c.val ≠ 2 ∨ s.canOn c.val = false ∨ s.powered = false → exec (.busOffRecovery c) s = .next s) ∧
      (s.May i.val (CAN_CTRL.a c.val) →
        (s.canState c.val = 2 → cs.recov = true → Recovers (.canRestart i c)) ∧
        (s.canState c.val = 2 → cs.recov = false → ∃ t : State, exec (.canRestart i c) s = .next t ∧ fldGet (t.reg (CAN_CTRL.a c.val)) CAN_CTRL.restart = 1 ∧
          t = { s with regs := t.regs } ∧ ∀ a, a ≠ CAN_CTRL.a c.val → t.reg a = s.reg a) ∧
        (s.canState c.val ≠ 2 → exec (.canRestart i c) s = .next s))) ∧
    (s.May i.val (CAN_CFG.a c.val) → ∀ v : BitVec 32,
      let cs' := if fldGet (s.reg (CAN_CFG.a c.val)) CAN_CFG.ignore = 0 ∧ fldGet v CAN_CFG.ignore = 1 then { cs with ignAt := some s.busNow } else cs
      ∃ t : State, exec (.canDisable i c v) s = .next t ∧ fldGet (t.reg (CAN_CFG.a c.val)) CAN_CFG.en = 0 ∧
      fldGet (t.reg (CAN_CFG.a c.val)) CAN_CFG.gw_seq = fldGet v CAN_CFG.gw_seq ∧
      t = { s with regs := t.regs, par := t.par, aud := t.aud, evt := t.evt, out := t.out, can := t.can, win := t.win, pcie := { s.pcie with pba := t.pcie.pba } } ∧
      (∀ k, k ≠ c.val → t.canSt k = s.canSt k) ∧
      (fldGet (s.reg (CAN_CFG.a c.val)) CAN_CFG.en = 0 → t.canSt c.val = cs' ∧ t.win = s.win ∧ t.reg st = s.reg st) ∧
      (fldGet (s.reg (CAN_CFG.a c.val)) CAN_CFG.en = 1 → t.canState c.val = 3 ∧ t.canSt c.val = { cs' with tx := none } ∧
        (cs.tx ≠ none → fldGet (t.reg (EVT_SRC_STAT.a (canSrc c.val))) EVT_SRC_STAT.pend = 1) ∧
        (∀ b : Fin 64, cs.tx = some (0, b.val) → t.mw (canDesc c.val b.val 3) = 2 ^ 29 ∧ Only t (canDesc c.val b.val 3) 4)))

/-- 13 R307 to R309, R317: reception on CAN. -/
def Obligations.ReceivedCanFramesAreStoredCountedOrHandedOn : Prop :=
  ∀ (s : State) (c : Fin 24) (fmt : Fin 3) (ide rtr brs esi : Bool) (ident : BitVec 29) (dlc : BitVec 4) (data : List Byte) (sdt vcid : BitVec 8) (sec : BitVec 1) (af : BitVec 32) (back : BitVec 32),
    s.Canonical →
    let x := fun err => Instr.canFrameReceived c fmt ide rtr brs esi ident dlc data sdt vcid sec af err back
    let r := fun err => (⟨fmt.val, ide, rtr, brs, esi, ident.toNat, dlc.toNat, data, (sdt.toNat, vcid.toNat, sec.toNat, af.toNat), err, back.toNat⟩ : CanRx)
    let m := r false
    let Counted := fun (t : State) (k : Nat) => fldGet (t.reg (CAN_CNT.a c.val k)) CAN_CNT.count = min (2 ^ 32 - 1) (fldGet (s.reg (CAN_CNT.a c.val k)) CAN_CNT.count + 1)
    let W3 := fun (u : State) (b : Nat) => u.mw (canDesc c.val b 3)
    -- buffer `b` is full, or software has released it full in this BUS cycle (R318)
    let Full := fun (b : Nat) => nbit (W3 s b) 31 = true ∨ s.relNow c.val b = some true
    let pn := fldGet (s.reg (CAN_STAT.a c.val)) CAN_STAT.pn_err
    let pnOf := fun (t : State) => fldGet (t.reg (CAN_STAT.a c.val)) CAN_STAT.pn_err
    (m.ok = false → ∀ err, exec (x err) s = .fault (.illFormed "CAN_FRAME_RECEIVED")) ∧
    (m.ok = true →
      (s.canOn c.val = false → ∀ err, exec (x err) s = .next s) ∧
      (s.canLive c.val = true → (exec (x true) s = .next s) ∧
        (s.canFmt c.val fmt.val = false ∨ (s.canSt c.val).tx ≠ none → exec (x false) s = .next s) ∧
        (s.canFmt c.val fmt.val = true → (s.canSt c.val).tx = none → ∃ t : State, exec (x false) s = .next t ∧
          t = { s with regs := t.regs, win := t.win, evt := t.evt, out := t.out, freeIdx := t.freeIdx, msgs := t.msgs, inq := t.inq, pcie := { s.pcie with pba := t.pcie.pba } } ∧
          (s.canQuiet c.val = false → Output.canAck c.val ∈ t.out) ∧
          t.canTec c.val = s.canTec c.val ∧ (s.canQuiet c.val = true → t.canRec c.val = s.canRec c.val) ∧
          (s.canQuiet c.val = false → s.canRec c.val ≤ 127 → t.canRec c.val = s.canRec c.val - 1) ∧
          (s.canQuiet c.val = false → 127 < s.canRec c.val → 119 ≤ t.canRec c.val ∧ t.canRec c.val ≤ 127) ∧
          ((∀ b : Fin 64, s.rxMatch c.val b.val m = false) → Counted t 2 ∧ t.win = s.win ∧ t.inq = s.inq) ∧
          (∀ b : Fin 64, s.rxMatch c.val b.val m = true →
            ((∀ k : Fin 64, k < b → s.rxMatch c.val k.val m = false) → (∀ k : Fin 64, s.rxMatch c.val k.val m = true → Full k.val) →
              Counted t 1 ∧ nbit (W3 t b.val) 30 = true ∧ W3 t b.val ||| 2 ^ 30 = W3 s b.val ||| 2 ^ 30 ∧ fldGet (t.reg (EVT_SRC_STAT.a (canSrc c.val))) EVT_SRC_STAT.pend = 1 ∧ t.inq = s.inq) ∧
            ((∀ k : Fin 64, k < b → s.rxMatch c.val k.val m = true → Full k.val) → ¬Full b.val →
              let u := unitOff (s.bufUnit c.val b.val)
              let start := taddU s.tim.wkt (-((back.toNat * nsU : Nat) : Int))
              let q := s.f (CAN_CFG.a c.val) CAN_CFG.gw_seq
              let lo := s.f GW_POOL.a GW_POOL.lo
              let hi := s.f GW_POOL.a GW_POOL.hi
              (nbit (s.mw (canDesc c.val b.val 0)) 29 = false → Counted t 0 ∧ nbit (W3 t b.val) 31 = (s.relNow c.val b.val).isNone ∧ t.mw u = m.h0 ∧ t.mw (u + 4) = af.toNat ∧
                t.mw (u + 8) = nsOf start ∧ t.mw (u + 12) = secOf start % 65536 ∧ t.msgBytes (u + 16) data.length = data ∧ t.inq = s.inq ∧
                (s.on (CAN_CFG.a c.val) CAN_CFG.rx_evt_en = true → fldGet (t.reg (EVT_SRC_STAT.a (canSrc c.val))) EVT_SRC_STAT.pend = 1)) ∧
              (nbit (s.mw (canDesc c.val b.val 0)) 29 = true → Counted t 0 ∧ W3 t b.val = W3 s b.val ∧
                (s.freeRun hi (unitsOf data.length) (hi - lo) lo = none → t.inq = s.inq ∧ t.msgs = s.msgs ∧ fldGet (t.reg (EVT_SRC_STAT.a 28)) EVT_SRC_STAT.pend = 1) ∧
                (∀ v, s.freeRun hi (unitsOf data.length) (hi - lo) lo = some v →
                  (256 ≤ (s.inqOf q).length → t.inq = s.inq ∧ t.msgs = s.msgs ∧ fldGet (t.reg (EVT_SRC_STAT.a 28)) EVT_SRC_STAT.pend = 1) ∧
                  ((s.inqOf q).length < 256 → t.inqOf q = s.inqOf q ++ [2 ^ 28 + c.val * 2 ^ 23 + v] ∧ (∀ n, n ≠ q → t.inqOf n = s.inqOf n) ∧
                    t.msgs = s.msgs ++ [⟨v, unitsOf data.length, 1, 1, c.val, m.ident, b2n brs * 2 + b2n rtr⟩] ∧ t.msgBytes (unitOff v + 16) data.length = data))))))) ∧
      (s.canOn c.val = true → s.canIgn c.val = true →
        (fmt.val = 0 → ∃ t : State, exec (x true) s = .next t ∧ Counted t 6 ∧ pnOf t = (if pn < 31 then pn + 1 else 0) ∧
          (31 ≤ pn → s.inFen = false → fldGet (t.reg (EVT_SRC_STAT.a (canSrc c.val))) EVT_SRC_STAT.pend = 1) ∧ t.win = s.win ∧ t.canTec c.val = s.canTec c.val ∧ t.canRec c.val = s.canRec c.val) ∧
        (fmt.val ≠ 0 → ∃ t : State, exec (x true) s = .next t ∧ Counted t 6 ∧ t = { s with regs := t.regs } ∧ ∀ a, a ≠ CAN_CNT.a c.val 6 → t.reg a = s.reg a) ∧
        ∃ t : State, exec (x false) s = .next t ∧ Counted t 6 ∧ pnOf t = pn - 1 ∧ t.win = s.win ∧ t.canTec c.val = s.canTec c.val ∧ t.canRec c.val = s.canRec c.val ∧
          (s.wufHit c.val m = true → s.inFen = false → fldGet (t.reg (EVT_SRC_STAT.a (canSrc c.val))) EVT_SRC_STAT.pend = 1) ∧
          (s.wufHit c.val m = false → t = { s with regs := t.regs }) ∧
          (s.wufHit c.val m = true → c.val < 4 → s.wakeEn (4 + c.val) = true → s.wispMasked (4 + c.val) = false → s.inFen = true → s.pwrPhase = 0 → s.pwrState = 2 → s.pwr.wakeStep = 0 →
            fldGet (t.reg PWR_STAT.a) PWR_STAT.wake_src = fldGet (s.reg PWR_STAT.a) PWR_STAT.wake_src ||| 2 ^ (4 + c.val) ∧ t.pwr.wakeStep = 1)))

/-- 13 R303, R307, R308, R320: LIN. -/
def Obligations.LinFramesFollowTheFrameTable : Prop :=
  ∀ (s : State) (l : Fin 8) (data : List Byte) (sum : BitVec 8) (err : Fin 6), s.Canonical →
    let st := LIN_STAT.a l.val
    let ent := fun (i k : Nat) => linEnt l.val i k
    -- from `u` to `t`, the outcome of a frame of identifier `i`
    let Framed := fun (u t : State) (i : Nat) =>
      let e0 := u.mw (ent i 0)
      let e1 := u.mw (ent i 1)
      let dir := nbits e0 31 30
      let len := min 8 (max 1 (nbits e0 27 24))
      let k := if err.val = 2 ∨ err.val = 3 ∨ err.val = 4 then err.val else if dir ≠ 2 then 0 else if data.length < len then 5
        else if u.linCheck l.val i (data.take len) ≠ sum.toNat then 1 else 0
      let Only := fun (o n : Nat) => ∀ a, a < msgBase + o ∨ msgBase + o + n ≤ a → Cells.get (fun _ => 0#8) t.win a = Cells.get (fun _ => 0#8) u.win a
      fldGet (t.reg st) LIN_STAT.cur_id = i ∧ t = { u with regs := t.regs, win := t.win, evt := t.evt, out := t.out, msgs := t.msgs, inq := t.inq, pcie := { u.pcie with pba := t.pcie.pba } } ∧
      (dir = 0 ∨ dir = 3 → t.win = u.win ∧ t.inq = u.inq ∧ fldGet (t.reg st) LIN_STAT.err_cnt = fldGet (u.reg st) LIN_STAT.err_cnt) ∧
      (dir = 1 ∨ dir = 2 → k ≠ 0 → t.mw (ent i 1) = e1 / 16 * 16 + k ∧ Only (ent i 1) 4 ∧ fldGet (t.reg st) LIN_STAT.last_err = k ∧
        fldGet (t.reg st) LIN_STAT.err_cnt = min 255 (fldGet (u.reg st) LIN_STAT.err_cnt + 1) ∧ fldGet (t.reg (EVT_SRC_STAT.a 27)) EVT_SRC_STAT.pend = 1 ∧ t.inq = u.inq) ∧
      (dir = 1 → k = 0 → t.win = u.win ∧ Output.lin l.val i (u.msgBytes (ent i 2) len) (u.linCheck l.val i (u.msgBytes (ent i 2) len)) ∈ t.out) ∧
      (dir = 2 → k = 0 → t.msgBytes (ent i 2) len = data.take len ∧ nbit (t.mw (ent i 1)) 31 = true ∧ nbit (t.mw (ent i 1)) 30 = (nbit e1 31 || nbit e1 30) ∧
        fldGet (t.reg (EVT_SRC_STAT.a 27)) EVT_SRC_STAT.pend = 1 ∧ (nbit e0 28 = false → Only (ent i 1) 12 ∧ t.inq = u.inq) ∧
        (nbit e0 28 = true → let q := u.f (LIN_CFG.a l.val) LIN_CFG.gw_seq
          let lo := u.f GW_POOL.a GW_POOL.lo
          let hi := u.f GW_POOL.a GW_POOL.hi
          ∀ v, u.freeRun hi (unitsOf len) (hi - lo) lo = some v → (u.inqOf q).length < 256 → t.inqOf q = u.inqOf q ++ [2 * 2 ^ 28 + l.val * 2 ^ 23 + v] ∧
            t.msgBytes (unitOff v + 16) len = data.take len));
    (∀ (i brk : Fin 64) (rate : BitVec 16),
      let hears := s.linOn l.val = true ∧ s.on (LIN_CFG.a l.val) LIN_CFG.commander = false ∧ 11 ≤ brk.val ∧
        86 * s.linBaud l.val ≤ 100 * rate.toNat ∧ 100 * rate.toNat ≤ 114 * s.linBaud l.val
      (¬hears → exec (.linHeaderReceived l i data sum err brk rate) s = .next s) ∧
      (hears →
        (¬(s.busMuted (24 + l.val) = true ∧ nbits (s.mw (ent i.val 0)) 31 30 = 1) → ∃ t : State, exec (.linHeaderReceived l i data sum err brk rate) s = .next t ∧ Framed s t i.val ∧
          (s.linError l.val i.val data sum.toNat err.val = 0 → i.val = 0x3c → 0 < data.length → byteAt data 0 = 0 → nbits (s.mw (ent i.val 0)) 31 30 ≠ 1 → fldGet (t.reg (EVT_SRC_STAT.a 27)) EVT_SRC_STAT.pend = 1)) ∧
        (s.busMuted (24 + l.val) = true → nbits (s.mw (ent i.val 0)) 31 30 = 1 → ∃ t : State, exec (.linHeaderReceived l i data sum err brk rate) s = .next t ∧ fldGet (t.reg st) LIN_STAT.cur_id = i.val ∧
          t = { s with regs := t.regs } ∧ ∀ a, a ≠ st → t.reg a = s.reg a))) ∧
    (let x := s.linSt l.val
      let Due := (match x.next with
        | none => True
        | some w => 0 ≤ tdiff s.tim.wkt w);
      (s.linOn l.val = false ∨ s.on (LIN_CFG.a l.val) LIN_CFG.commander = false ∨ s.on (LIN_SCHED.a l.val) LIN_SCHED.run = false ∨ ¬Due → exec (.linSlot l data sum err) s = .next s) ∧
      (s.linOn l.val = true → s.on (LIN_CFG.a l.val) LIN_CFG.commander = true → s.on (LIN_SCHED.a l.val) LIN_SCHED.run = true → Due →
        let n := s.f (LIN_SCHED.a l.val) LIN_SCHED.count + 1
        let e := s.mw (unitOff (s.f (LIN_SCHED.a l.val) LIN_SCHED.unit) + 4 * (x.pos % n))
        let slot := max (e / 2 ^ 16 * 50000 * nsU) (s.linMin l.val (e % 64))
        ∃ u t : State, exec (.linSlot l data sum err) s = .next t ∧ u = { s with lin := u.lin, regs := u.regs } ∧ (∀ a, a ≠ st → u.reg a = s.reg a) ∧
          u.linSt l.val = ⟨(x.pos + 1) % n, some (taddU (x.next.getD s.tim.wkt) (slot : Nat))⟩ ∧
          fldGet (u.reg st) LIN_STAT.slot_short = (if e / 2 ^ 16 * 50000 * nsU < s.linMin l.val (e % 64) then min 255 (fldGet (s.reg st) LIN_STAT.slot_short + 1) else fldGet (s.reg st) LIN_STAT.slot_short) ∧
          (s.busMuted (24 + l.val) = true → t = u) ∧
          (s.busMuted (24 + l.val) = false → Output.linHead l.val (s.linBrk l.val) (linPid (e % 64)) ∈ t.out ∧ Framed (u.emit (.linHead l.val (s.linBrk l.val) (linPid (e % 64)))) t (e % 64))))

/-- 13 R308, R314 to R316, R321: batches, streams and the pool. -/
def Obligations.GatewayBatchesFillSealAndEnter : Prop :=
  ∀ (s : State) (i : Fin 3), s.Canonical →
    (s.powered = true → ∀ b : Fin 32, let x := s.batchOf b.val
      (x.count ≠ 0 → x.first + x.maxLat < s.now → s.sealedOf b.val < 2 → ∃ t : State, exec (.batchTimeout b) s = .next t ∧ t.sealedQ = s.sealedQ ++ [⟨b.val, x.acf, x.refs⟩] ∧
        t.batchOf b.val = { x with acf := [], count := 0, refs := [] } ∧ (∀ k, k ≠ b.val → t.batchOf k = s.batchOf k) ∧ t = { s with sealedQ := t.sealedQ, batch := t.batch }) ∧
      (x.count = 0 ∨ s.now ≤ x.first + x.maxLat ∨ 2 ≤ s.sealedOf b.val → exec (.batchTimeout b) s = .next s)) ∧
    (s.sealedQ = [] → exec .batchInject s = .next s) ∧
    (s.powered = true → ∀ (e : Sealed) (r : List Sealed), s.sealedQ = e :: r → ∃ (t u : State), exec .batchInject s = .next t ∧ u = { s with sealedQ := r, batch := u.batch, msgs := u.msgs } ∧
      u.batchOf e.batch = { s.batchOf e.batch with seqNum := ((s.batchOf e.batch).seqNum + 1) % 256 } ∧ (∀ k, k ≠ e.batch → u.batchOf k = s.batchOf k) ∧
      u.msgs = (e.refs.foldl (fun v k => v.gwRelease k) s).msgs ∧ t = (u.enter { port := 26, inPort := 26, data := s.batchFrame (s.batchOf e.batch) e.acf }).2) ∧
    (s.MayOrder i.val gwBatch → ∀ b : Fin 32, let arg := BitVec.ofNat 16 b.val
      ((s.batchOf b.val).count = 0 → s.sealedOf b.val = 0 → ∃ t : State, exec (.batchConfigure i arg) s = .next t ∧ t.Done s gwBatch 8 ∧
        t.batchOf b.val = { cfg := [s.dw gwBatch 0, s.dw gwBatch 1, s.dw gwBatch 2, s.dw gwBatch 3, s.dw gwBatch 4, s.dw gwBatch 5, s.dw gwBatch 6, s.dw gwBatch 7] } ∧
        (∀ k, k ≠ b.val → t.batchOf k = s.batchOf k) ∧ t = { s with batch := t.batch, regs := t.regs, aud := t.aud, evt := t.evt, out := t.out, pcie := { s.pcie with pba := t.pcie.pba } }) ∧
      ((s.batchOf b.val).count ≠ 0 ∨ s.sealedOf b.val ≠ 0 → ∃ t : State, exec (.batchConfigure i arg) s = .next t ∧ t.Refused gwBatch 1 ∧ t.batch = s.batch)) ∧
    (s.MayOrder i.val gwRxStr → ∀ arg : BitVec 16,
      (arg.toNat < 32 → ∃ t : State, exec (.rxStreamConfigure i arg) s = .next t ∧ t.Done s gwRxStr 4 ∧
        t.rxStrOf arg.toNat = ⟨nbit (s.dw gwRxStr 0) 31, s.dw gwRxStr 0 % 8, s.dw gwRxStr 2 * 2 ^ 32 + s.dw gwRxStr 1, none⟩ ∧
        (∀ k, k ≠ arg.toNat → t.rxStrOf k = s.rxStrOf k) ∧ t = { s with rxStr := t.rxStr, regs := t.regs, aud := t.aud, evt := t.evt, out := t.out, pcie := { s.pcie with pba := t.pcie.pba } }) ∧
      (32 ≤ arg.toNat → ∃ t : State, exec (.rxStreamConfigure i arg) s = .next t ∧ t.Refused gwRxStr 15 ∧ t.rxStr = s.rxStr)) ∧
    (s.May i.val GW_POOL.a → ∀ v : BitVec 32,
      (s.msgs = [] → ∃ t : State, exec (.gwPoolWrite i v) s = .next t ∧ fldGet (t.reg GW_POOL.a) GW_POOL.lo = fldGet v GW_POOL.lo ∧ fldGet (t.reg GW_POOL.a) GW_POOL.hi = fldGet v GW_POOL.hi ∧
        t = { s with regs := t.regs, par := t.par, aud := t.aud, evt := t.evt, out := t.out, pcie := { s.pcie with pba := t.pcie.pba } }) ∧
      (s.msgs ≠ [] → ∃ t : State, exec (.gwPoolWrite i v) s = .next t ∧ t.reg GW_POOL.a = s.reg GW_POOL.a ∧ fldGet (t.reg (EVT_SRC_STAT.a 28)) EVT_SRC_STAT.pend = 1 ∧
        t = { s with regs := t.regs, par := t.par, aud := t.aud, evt := t.evt, out := t.out, pcie := { s.pcie with pba := t.pcie.pba } }))

/-- 14 R324, R327, R329, R330, R332, R336, R341: voting and the released transaction. -/
def Obligations.CarrTransactionsAreVotedAndReleased : Prop :=
  ∀ (s : State) (a b c : CarrTx) (ecc : Fin 3) (bank : Fin 16), s.Canonical →
    let x := fun (f : Fin 5) => Instr.carrTransactionCompare a b c f ecc bank
    let three := s.cpxState = 1
    let window := fldGet (s.reg CPX_STAT.a) CPX_STAT.mode_active = 1
    let ea := effOf a
    let eb := effOf b
    let ec := effOf c
    (s.carrRuns = false → ∀ f, exec (x f) s = .next s) ∧
    (s.carrRuns = true →
      (∀ f : Fin 5, f ≠ 0 → ∃ t : State, exec (x f) s = .next t ∧ t.cpxState = 4 ∧ t.carrRuns = false ∧ fldGet (t.reg (EVT_SRC_STAT.a 51)) EVT_SRC_STAT.pend = 1 ∧
        t = { s with regs := t.regs, evt := t.evt, out := t.out, pcie := { s.pcie with pba := t.pcie.pba } } ∧ ∀ r, r ≠ CPX_STAT.a → r ≠ EVT_SRC_STAT.a 51 → t.reg r = s.reg r) ∧
      (window → ∃ u : State, u = { s with carr := u.carr } ∧ exec (x 0) s = .next (u.release a ecc.val bank.val) ∧ u.carr.chk = s.carr.chk ∧ u.carr.lr = s.carr.lr ∧
        (∀ p (q : CarrTx), (p = 0 ∧ q = a) ∨ (p = 1 ∧ q = b) ∨ (p = 2 ∧ q = c ∧ three) →
          u.carr.sigs.getD p 0 = (crc64 (BitVec.ofNat 64 (s.carr.sigs.getD p 0)) (txRecord q)).toNat)) ∧
      (¬window →
        (ea = eb → (three → ea = ec) → exec (x 0) s = .next (s.release a ecc.val bank.val)) ∧
        (∀ p : Fin 3, three → (p = 0 ∧ eb = ec ∧ ea ≠ eb) ∨ (p = 1 ∧ ea = ec ∧ ea ≠ eb) ∨ (p = 2 ∧ ea = eb ∧ ea ≠ ec) →
          ∃ u : State, exec (x 0) s = .next (u.release (if p = 0 then b else a) ecc.val bank.val) ∧ u.cpxState = 2 ∧ fldGet (u.reg CPX_STAT.a) CPX_STAT.odd = s.posCore p.val ∧
            u.posCore 0 = s.posCore (if p = 0 then 1 else 0) ∧ u.posCore 1 = s.posCore (if p = 2 then 1 else 2) ∧ u.posCore 2 = 3 ∧
            fldGet (u.reg (EVT_SRC_STAT.a 50)) EVT_SRC_STAT.pend = 1 ∧ fldGet (u.reg CPX_MM.a) CPX_MM.valid = 1 ∧
            (fldGet (s.reg CPX_MM.a) CPX_MM.valid = 0 → fldGet (u.reg CPX_MM.a) CPX_MM.core = s.posCore p.val ∧ fldGet (u.reg CPX_MM.a) CPX_MM.kind = a.kind.val ∧
              fldGet (u.reg CPX_MM.a) CPX_MM.src = 0 ∧ u.reg CPX_MM_ADDR.a = BitVec.ofNat 32 a.addr.toNat) ∧
            u = { s with regs := u.regs, carr := u.carr, evt := u.evt, out := u.out, pcie := { s.pcie with pba := u.pcie.pba } }) ∧
        ((three → ea ≠ eb ∧ ea ≠ ec ∧ eb ≠ ec) → (¬three → ea ≠ eb) → ∃ t : State, exec (x 0) s = .next t ∧ t.cpxState = 4 ∧ t.carrRuns = false ∧
          fldGet (t.reg (EVT_SRC_STAT.a 51)) EVT_SRC_STAT.pend = 1 ∧ t = { s with regs := t.regs, evt := t.evt, out := t.out, pcie := { s.pcie with pba := t.pcie.pba } }))) ∧
    -- what a released transaction does
    (let n := 2 ^ a.size.toNat
     let ad := a.addr.toNat
     let r := carrRegion ad n
     let t := s.release a ecc.val bank.val
     (regionLets r a.kind.val n = false → t = s.emit (.busError 1)) ∧
     (a.kind = 2 → r = .sram → t = { s with sram := t.sram } ∧ ∀ k, Cells.get (fun _ => 0#8) t.sram k =
       (if ad / 8 = k / 8 ∧ a.strobe.getLsbD (k % 8) = true then BitVec.ofNat 8 (a.data.toNat / 2 ^ (8 * (k % 8))) else Cells.get (fun _ => 0#8) s.sram k)) ∧
     (a.kind = 2 → r = .dram → t = { s with dram := t.dram } ∧ ∀ k, Cells.get (fun _ => 0#8) t.dram k =
       (if ad / 8 = (k + dramBase) / 8 ∧ a.strobe.getLsbD (k % 8) = true then BitVec.ofNat 8 (a.data.toNat / 2 ^ (8 * (k % 8))) else Cells.get (fun _ => 0#8) s.dram k)) ∧
     (a.kind.val < 2 → r = .sram → ecc.val < 2 → Output.readData 1 (leNat (s.sramRead ad n)) ∈ t.out ∧ t = { s with regs := t.regs, out := t.out } ∧
       fldGet (t.reg CPX_SRAM_ECC.a) CPX_SRAM_ECC.corr = (if ecc.val = 1 then min 65535 (fldGet (s.reg CPX_SRAM_ECC.a) CPX_SRAM_ECC.corr + 1) else fldGet (s.reg CPX_SRAM_ECC.a) CPX_SRAM_ECC.corr)) ∧
     (a.kind.val ≠ 2 → r = .sram → ecc.val = 2 → Output.busError 1 ∈ t.out ∧ t.sram = s.sram ∧ t.carr = s.carr ∧ fldGet (t.reg (EVT_SRC_STAT.a 54)) EVT_SRC_STAT.pend = 1 ∧
       fldGet (t.reg CPX_SRAM_ECC.a) CPX_SRAM_ECC.uncorr = min 65535 (fldGet (s.reg CPX_SRAM_ECC.a) CPX_SRAM_ECC.uncorr + 1)) ∧
     (a.kind.val ≠ 2 → r = .dram → ecc.val = 2 → Output.busError 1 ∈ t.out ∧ t.dram = s.dram ∧ t.carr = s.carr ∧ fldGet (t.reg (EVT_SRC_STAT.a 53)) EVT_SRC_STAT.pend = 1 ∧
       fldGet (t.reg MEM_ECC_ADDR.a) MEM_ECC_ADDR.valid = 1) ∧
     (a.kind.val = 3 → r = .sram → ecc.val = 0 → a.size.toNat = 2 ∨ a.size.toNat = 3 →
       (a.op = 2#5 → t.carr.lr = some ad ∧ t.sram = s.sram ∧ Output.readData 1 (leNat (s.sramRead ad n)) ∈ t.out) ∧
       (a.op = 3#5 → s.carr.lr ≠ some ad → t.carr.lr = none ∧ t.sram = s.sram ∧ t.out = .readData 1 1 :: s.out) ∧
       (a.op = 3#5 → s.carr.lr = some ad → t.carr.lr = none ∧ t.out = .readData 1 0 :: s.out ∧ ∀ k, Cells.get (fun _ => 0#8) t.sram k =
         (if ad / 8 = k / 8 ∧ a.strobe.getLsbD (k % 8) = true then BitVec.ofNat 8 (a.data.toNat / 2 ^ (8 * (k % 8))) else Cells.get (fun _ => 0#8) s.sram k)) ∧
       (∀ y, amoResult a.op.toNat (8 * n) (leNat (s.sramRead ad n)) (a.data.toNat / 2 ^ (8 * (ad % 8)) % 2 ^ (8 * n)) = some y → a.op ≠ 2#5 → a.op ≠ 3#5 →
         t.out = .readData 1 (leNat (s.sramRead ad n)) :: s.out ∧ leNat (t.sramRead ad n) = y % 2 ^ (8 * n) ∧ t = { s with sram := t.sram, out := t.out } ∧
         ∀ k, k < ad ∨ ad + n ≤ k → Cells.get (fun _ => 0#8) t.sram k = Cells.get (fun _ => 0#8) s.sram k)))

/-- 14 R331, R333 to R338, R340, R342 to R344: redundancy and memory. -/
def Obligations.CarrResynchronisesTestsAndTrains : Prop :=
  ∀ (s : State), s.Canonical → s.Numbered →
    let three := s.cpxState = 1
    let window := fldGet (s.reg CPX_STAT.a) CPX_STAT.mode_active = 1
    let g := fun p => s.carr.sigs.getD p 0
    let odd := fldGet (s.reg CPX_STAT.a) CPX_STAT.odd
    let Cnt := fun (t : State) (k : Nat) => fldGet (t.reg (CPX_CNT.a k)) CPX_CNT.count = min (2 ^ 32 - 1) (fldGet (s.reg (CPX_CNT.a k)) CPX_CNT.count + 1)
    let Pend := fun (t : State) (n : Nat) => fldGet (t.reg (EVT_SRC_STAT.a n)) EVT_SRC_STAT.pend = 1
    let Odd := fun (t : State) (p : Nat) => t.cpxState = 2 ∧ fldGet (t.reg CPX_STAT.a) CPX_STAT.odd = s.posCore p ∧ t.posCore 2 = 3 ∧ t.posCore 0 = s.posCore (if p = 0 then 1 else 0) ∧ Pend t 50 ∧ Cnt t 0
    let endAt := s.carr.winAt + s.carr.winLen
    (s.carrRuns = false ∨ ¬window ∨ s.cpxCycle < endAt → exec .windowClose s = .next s) ∧
    (s.carrRuns = true → window → endAt ≤ s.cpxCycle →
      (g 0 = g 1 → (three → g 0 = g 2) → ∃ t : State, exec .windowClose s = .next t ∧ t.carr = { s.carr with sigs := [0, 0, 0], winAt := endAt } ∧ t = { s with carr := t.carr }) ∧
      (three → g 1 = g 2 → g 0 ≠ g 1 → ∃ t : State, exec .windowClose s = .next t ∧ Odd t 0 ∧ Cnt t 2 ∧ t.carr.sigs = [0, 0, 0]) ∧
      (three → g 0 = g 2 → g 0 ≠ g 1 → ∃ t : State, exec .windowClose s = .next t ∧ Odd t 1 ∧ t.carr.sigs = [0, 0, 0]) ∧
      (three → g 0 = g 1 → g 0 ≠ g 2 → ∃ t : State, exec .windowClose s = .next t ∧ Odd t 2 ∧ t.carr.sigs = [0, 0, 0]) ∧
      (g 0 ≠ g 1 → (three → g 0 ≠ g 2 ∧ g 1 ≠ g 2) → ∃ t : State, exec .windowClose s = .next t ∧ t.cpxState = 4 ∧ Pend t 51)) ∧
    (∀ (m : Bool) (a b c : List (BitVec 64)),
      (¬(a.length = 81 ∧ b.length = 81 ∧ c.length = 81) → exec (.chkptWrite m a b c) s = .fault (.illFormed "CHKPT_WRITE")) ∧
      (a.length = 81 → b.length = 81 → c.length = 81 →
        (exec (.chkptWrite false a b c) s = .next s) ∧ (s.carrRuns = false → exec (.chkptWrite m a b c) s = .next s) ∧
        (s.carrRuns = true → ¬window → chkptSig a = chkptSig b → (three → chkptSig a = chkptSig c) → ∃ t : State, exec (.chkptWrite true a b c) s = .next t ∧ t = { s with carr := t.carr } ∧
          (∀ p, p < 2 ∨ (p = 2 ∧ three) → s.posCore p < s.carr.chk.length → t.carr.chk.getD (s.posCore p) 0 = chkptSig a) ∧ t.carr.sigs = s.carr.sigs ∧ t.carr.lr = s.carr.lr) ∧
        (s.carrRuns = true → ¬window → three → chkptSig a = chkptSig c → chkptSig a ≠ chkptSig b → ∃ t : State, exec (.chkptWrite true a b c) s = .next t ∧ Odd t 1) ∧
        (s.carrRuns = true → window → chkptSig a = chkptSig b → g 0 = g 1 → (three → chkptSig a = chkptSig c ∧ g 0 = g 2) →
          ∃ t : State, exec (.chkptWrite true a b c) s = .next t ∧ t = { s with carr := t.carr } ∧ t.carr.sigs = [0, 0, 0]))) ∧
    (s.powered = true → ∀ ok : Bool,
      (s.cpxState = 2 → s.carr.tested = false → ∃ t : State, exec (.resyncSelftestDone ok) s = .next t ∧
        (ok = true → t = { s with carr := { s.carr with tested := true } }) ∧
        (ok = false → t.cpxState = 3 ∧ t.carr = { s.carr with bad := some odd } ∧ Pend t 50 ∧ Cnt t 3 ∧ t = { s with carr := t.carr, regs := t.regs, evt := t.evt, out := t.out, pcie := { s.pcie with pba := t.pcie.pba } })) ∧
      (s.cpxState ≠ 2 ∨ s.carr.tested = true → exec (.resyncSelftestDone ok) s = .next s)) ∧
    (s.powered = true → s.cpxState = 2 → s.carr.tested = true → ∃ t : State, exec .resyncStall s = .next t ∧ t.cpxState = 1 ∧ fldGet (t.reg CPX_STAT.a) CPX_STAT.odd = 3 ∧ t.posCore 2 = odd ∧
      t.posCore 0 = s.posCore 0 ∧ t.posCore 1 = s.posCore 1 ∧ t.carr.tested = false ∧ t.carr.lr = none ∧ Pend t 50 ∧ Cnt t 1 ∧ t = { s with carr := t.carr, regs := t.regs, evt := t.evt, out := t.out, pcie := { s.pcie with pba := t.pcie.pba } }) ∧
    (s.cpxState ≠ 2 ∨ s.carr.tested = false → exec .resyncStall s = .next s) ∧
    (s.carrRuns = false ∨ s.now < s.carr.injAt + msTicks 10 → ∀ ok, exec (.injectionTest ok) s = .next s) ∧
    (s.carrRuns = true → s.carr.injAt + msTicks 10 ≤ s.now → (∃ t : State, exec (.injectionTest true) s = .next t ∧ Cnt t 4 ∧ t.carr = { s.carr with inj := (s.carr.inj + 1) % 432, injAt := s.now } ∧ t.cpxState = s.cpxState ∧ t = { s with carr := t.carr, regs := t.regs }) ∧
      ∃ t : State, exec (.injectionTest false) s = .next t ∧ t.cpxState = 4 ∧ t.carrRuns = false ∧ Pend t 51 ∧ t = { s with carr := t.carr, regs := t.regs, evt := t.evt, out := t.out, pcie := { s.pcie with pba := t.pcie.pba } }) ∧
    (∀ (i : Fin 3) (v : BitVec 32), s.May i.val CPX_DOORBELL.a →
      (v = 0#32 → exec (.doorbell i v) s = .next s) ∧
      (∀ b : Fin 32, v.getLsbD b.val = true → (∀ k, k < b.val → v.getLsbD k = false) → ∃ t : State, exec (.doorbell i v) s = .next t ∧ Pend t 52 ∧
        (fldGet (s.reg (EVT_SRC_STAT.a 52)) EVT_SRC_STAT.ff_valid = 0 → (t.evtSt 52).ff = ⟨s.tim.frt, s.now, 1, b.val + 32 * i.val⟩) ∧
        t = { s with regs := t.regs, evt := t.evt, out := t.out, pcie := { s.pcie with pba := t.pcie.pba } } ∧ ∀ r, r ≠ EVT_SRC_STAT.a 52 → t.reg r = s.reg r)) ∧
    (s.powered = true → ∀ (w : BitVec 9) (ok : Bool), let fault := fldGet (s.reg QM_PEAT_STAT.a) QM_PEAT_STAT.link_fault
      (fldGet (s.reg MEM_STAT.a) MEM_STAT.self_refresh = 1 ∨ s.trainDue w.toInt = false → exec (.memTraining w ok) s = .next s) ∧
      (fldGet (s.reg MEM_STAT.a) MEM_STAT.self_refresh = 0 → s.trainDue w.toInt = true → ∃ t : State, exec (.memTraining w ok) s = .next t ∧
        fldGet (t.reg MEM_STAT.a) MEM_STAT.link_ok = b2n ok ∧ fldGet (t.reg MEM_STAT.a) MEM_STAT.train_cnt = (fldGet (s.reg MEM_STAT.a) MEM_STAT.train_cnt + 1) % 65536 ∧
        t.carr = { s.carr with trainAt := some s.now, trainTemp := w.toInt } ∧ fldGet (t.reg QM_PEAT_STAT.a) QM_PEAT_STAT.link_fault = b2n (!ok) ∧
        (ok = false → Pend t 53) ∧ (ok = true → fault = 1 → Pend t 44) ∧ (ok = false → fault = 0 → Pend t 44 ∧ ∀ c ∈ t.copies, c.peat = false) ∧
        (ok = true ∨ fault = 1 → t = { s with carr := t.carr, regs := t.regs, evt := t.evt, out := t.out, pcie := { s.pcie with pba := t.pcie.pba } }))) ∧
    (s.powered = true → ∀ (u : BitVec 27) (e : Fin 3),
      (s.on MEM_SCRUB_CFG.a MEM_SCRUB_CFG.scrub_en = false ∨ fldGet (s.reg MEM_STAT.a) MEM_STAT.self_refresh = 1 ∨ e = 0 → exec (.memScrub u e) s = .next s) ∧
      (s.on MEM_SCRUB_CFG.a MEM_SCRUB_CFG.scrub_en = true → fldGet (s.reg MEM_STAT.a) MEM_STAT.self_refresh = 0 →
        (∃ t : State, exec (.memScrub u 1) s = .next t ∧ fldGet (t.reg MEM_ECC_CNT.a) MEM_ECC_CNT.corr = min 65535 (fldGet (s.reg MEM_ECC_CNT.a) MEM_ECC_CNT.corr + 1) ∧ t = { s with regs := t.regs }) ∧
        ∃ t : State, exec (.memScrub u 2) s = .next t ∧ fldGet (t.reg MEM_ECC_CNT.a) MEM_ECC_CNT.uncorr = min 65535 (fldGet (s.reg MEM_ECC_CNT.a) MEM_ECC_CNT.uncorr + 1) ∧ Pend t 53 ∧
          fldGet (t.reg MEM_ECC_ADDR.a) MEM_ECC_ADDR.valid = 1 ∧ (fldGet (s.reg MEM_ECC_ADDR.a) MEM_ECC_ADDR.valid = 0 → fldGet (t.reg MEM_ECC_ADDR.a) MEM_ECC_ADDR.addr = u.toNat) ∧
          t = { s with regs := t.regs, evt := t.evt, out := t.out, pcie := { s.pcie with pba := t.pcie.pba } }))

/-- 15 R350: the reset of a silent stream, and the write that also sets take_any. -/
def Obligations.SilentStreamsAreReset : Prop :=
  ∀ (s : State) (k : Fin 1024), s.Canonical →
    let x := s.fr k.val
    let st := FRE_STR_STAT.a k.val
    let cfg := FRE_STR_CFG.a k.val
    (s.powered = true →
      (∀ t0, x.lastPass = some t0 →
        (s.on cfg FRE_STR_CFG.rcv_en = true → t0 + msTicks (max 1 (s.f FRE_CFG.a FRE_CFG.reset_ms)) < s.now → ∃ t : State, exec (.recoveryReset k) s = .next t ∧
          t.fr k.val = { x with hist := 0, lastPass := none, cnt := setAt x.cnt 6 (min (2 ^ 32 - 1) (x.cnt.getD 6 0 + 1)), was := x.before s.now, wasAt := s.now } ∧ (∀ j, j ≠ k.val → t.fr j = s.fr j) ∧
          fldGet (t.reg st) FRE_STR_STAT.take_any = 1 ∧ fldGet (t.reg (EVT_SRC_STAT.a 46)) EVT_SRC_STAT.pend = 1 ∧ t = { s with fre := t.fre, regs := t.regs, evt := t.evt, out := t.out, pcie := { s.pcie with pba := t.pcie.pba } } ∧
          ∀ a, a ≠ st → a ≠ EVT_SRC_STAT.a 46 → t.reg a = s.reg a) ∧
        (s.on cfg FRE_STR_CFG.rcv_en = false ∨ s.now ≤ t0 + msTicks (max 1 (s.f FRE_CFG.a FRE_CFG.reset_ms)) → exec (.recoveryReset k) s = .next s)) ∧
      (x.lastPass = none → exec (.recoveryReset k) s = .next s)) ∧
    (∀ (i : Fin 3) (v : BitVec 64), s.May i.val cfg → fldGet (s.reg cfg) FRE_STR_CFG.rcv_en = 0 → fldGet (BitVec.ofNat 32 v.toNat) FRE_STR_CFG.rcv_en = 1 →
      ∃ t : State, exec (.registerWrite i (BitVec.ofNat 32 cfg) 2 v none) s = .next t ∧ fldGet (t.reg st) FRE_STR_STAT.take_any = 1 ∧ fldGet (t.reg cfg) FRE_STR_CFG.rcv_en = 1 ∧
        (∀ j, j ≠ k.val → t.fr j = s.fr j) ∧ t = { s with regs := t.regs, par := t.par, aud := t.aud, evt := t.evt, out := t.out, fre := t.fre, pcie := { s.pcie with pba := t.pcie.pba } })

/-- 15 R354 to R356: latent errors and counters. -/
def Obligations.FrerStreamsTestAndCount : Prop :=
  ∀ (s : State) (k : Fin 1024), s.Canonical →
    let x := s.fr k.val
    let st := FRE_STR_STAT.a k.val
    let cfg := FRE_STR_CFG.a k.val
    (s.powered = true →
      (let p := msTicks (max 1 (s.f FRE_CFG.a FRE_CFG.lat_period))
       -- the counts since the latent reset, as they stood before this tick
       let counts := if x.wasAt = s.now then x.was else [((x.cnt.getD 0 0 : Nat) : Int) - x.base.getD 0 0, ((x.cnt.getD 1 0 : Nat) : Int) - x.base.getD 1 0, ((x.cnt.getD 7 0 : Nat) : Int) - x.base.getD 2 0]
       let passed := counts.getD 0 0
       let discarded := counts.getD 1 0
       let withdrawn := counts.getD 2 0
       let diff := (passed - withdrawn) * ((max 2 (s.f cfg FRE_STR_CFG.paths) - 1 : Nat) : Int) - discarded
       let due := s.on cfg FRE_STR_CFG.lat_en = true ∧ testDue p (k.val * p / 1024) x.testAt s.now = true
       (due → ((s.f cfg FRE_STR_CFG.lat_diff : Nat) : Int) < diff → ∃ t : State, exec (.latentTest k) s = .next t ∧ t.fr k.val = { x with testAt := s.now } ∧
         fldGet (t.reg st) FRE_STR_STAT.latent = 1 ∧ fldGet (t.reg (EVT_SRC_STAT.a 46)) EVT_SRC_STAT.pend = 1 ∧ (∀ j, j ≠ k.val → t.fr j = s.fr j) ∧
         t = { s with fre := t.fre, regs := t.regs, evt := t.evt, out := t.out, pcie := { s.pcie with pba := t.pcie.pba } }) ∧
       (due → diff ≤ ((s.f cfg FRE_STR_CFG.lat_diff : Nat) : Int) → ∃ t : State, exec (.latentTest k) s = .next t ∧ t.fr k.val = { x with testAt := s.now } ∧
         (∀ j, j ≠ k.val → t.fr j = s.fr j) ∧ t = { s with fre := t.fre }) ∧
       (¬due → exec (.latentTest k) s = .next s)) ∧
      (let e := x.baseAt + msTicks (1000 * max 1 (s.f FRE_LAT_RESET.a FRE_LAT_RESET.lat_reset));
       (e ≤ s.now → ∃ t : State, exec (.latentBaselineReset k) s = .next t ∧ t.fr k.val = { x with baseAt := s.now, base := [((x.cnt.getD 0 0 : Nat) : Int), ((x.cnt.getD 1 0 : Nat) : Int), ((x.cnt.getD 7 0 : Nat) : Int)] } ∧
         (∀ j, j ≠ k.val → t.fr j = s.fr j) ∧ t = { s with fre := t.fre }) ∧
       (s.now < e → exec (.latentBaselineReset k) s = .next s))) ∧
    (∀ i : Fin 3, s.MayAsk i.val freScnt →
      (∃ t : State, exec (.streamCountersRead i (BitVec.ofNat 16 k.val)) s = .next t ∧ s.Answered t freScnt x.cnt) ∧
      (∃ t : State, exec (.streamCountersReadClear i (BitVec.ofNat 16 k.val)) s = .next t ∧ t.Shows freScnt x.cnt ∧ (t.fr k.val).cnt = [0, 0, 0, 0, 0, 0, 0, 0] ∧
        (t.fr k.val).since = x.since ∧ (∀ j, j ≠ k.val → t.fr j = s.fr j) ∧ t = { s with fre := t.fre, regs := t.regs }) ∧
      ∀ arg : BitVec 16, 1024 ≤ arg.toNat → ∀ c, c = .streamCountersRead i arg ∨ c = .streamCountersReadClear i arg → ∃ t : State, exec c s = .next t ∧
        fldGet (t.reg (freScnt + 4)) MBX_STAT.err = 1 ∧ fldGet (t.reg (freScnt + 4)) MBX_STAT.err_code = 15 ∧ t.fre = s.fre)

/-- 15 R357, R359, R361 to R363: heartbeats, paths and roles. Pulses on a boundary of two ranges are free (log entry 24). -/
def Obligations.HeartbeatsAndPathsMoveTheUnit : Prop :=
  ∀ (s : State) (i : Fin 3), s.Canonical →
    let x := s.pair
    let Pend := fun (t : State) (n : Nat) => fldGet (t.reg (EVT_SRC_STAT.a n)) EVT_SRC_STAT.pend = 1
    let Cnt := fun (t : State) (k : Nat) => fldGet (t.reg (PAIR_CNT.a k)) PAIR_CNT.count = min (2 ^ 32 - 1) (fldGet (s.reg (PAIR_CNT.a k)) PAIR_CNT.count + 1)
    let noSets := s.f PAIR_ROLE.a PAIR_ROLE.set_en = 0
    let Active := fun (t : State) => t.pairState = 3 ∧ nbit t.pairRoles 0 = true ∧ nbit t.pairRoles 2 = true ∧ nbit t.pairRoles 1 = nbit s.pairRoles 1 ∧ t.pair.busWant = some true ∧ t.pair.ann = none
    let Standby := fun (t : State) => t.pairState = 2 ∧ nbit t.pairRoles 0 = false ∧ nbit t.pairRoles 2 = false ∧ nbit t.pairRoles 1 = nbit s.pairRoles 1 ∧ t.pair.busWant = some false ∧ t.pair.ann = none
    let fitMasked := nbit (s.hw PAIR_FIT_HI.a).toNat 25 = false
    (s.May i.val PAIR_CFG.a → ∀ v : BitVec 32,
      (∃ t : State, exec (.pairEnable i v) s = .next t ∧ fldGet (t.reg PAIR_CFG.a) PAIR_CFG.pair_en = 1 ∧ fldGet (t.reg PAIR_CFG.a) PAIR_CFG.interval = fldGet v PAIR_CFG.interval ∧
        (fldGet (s.reg PAIR_CFG.a) PAIR_CFG.pair_en = 0 → t.reg PAIR_STAT.a = fldSet 0#32 PAIR_STAT.state 1 ∧ t.pair = { since := s.now, hbAt := s.now, repAt := s.now }) ∧
        (fldGet (s.reg PAIR_CFG.a) PAIR_CFG.pair_en = 1 → t.reg PAIR_STAT.a = s.reg PAIR_STAT.a ∧ t.pair = x) ∧
        t = { s with regs := t.regs, par := t.par, aud := t.aud, evt := t.evt, out := t.out, pair := t.pair, pcie := { s.pcie with pba := t.pcie.pba } }) ∧
      (∃ t : State, exec (.pairDisable i v) s = .next t ∧ fldGet (t.reg PAIR_CFG.a) PAIR_CFG.pair_en = 0 ∧
        (fldGet (s.reg PAIR_CFG.a) PAIR_CFG.pair_en = 1 → t.reg PAIR_STAT.a = 0#32 ∧ t.pair = {} ∧ (s.pairRoles ≠ 0 → Pend t 57)) ∧
        (fldGet (s.reg PAIR_CFG.a) PAIR_CFG.pair_en = 0 → t.reg PAIR_STAT.a = s.reg PAIR_STAT.a ∧ t.pair = x) ∧
        t = { s with regs := t.regs, par := t.par, aud := t.aud, evt := t.evt, out := t.out, pair := t.pair, pcie := { s.pcie with pba := t.pcie.pba } })) ∧
    (s.pairState = 0 ∨ s.now < x.hbAt → exec .heartbeatInterval s = .next s) ∧
    (s.powered = true → s.pairState ≠ 0 → x.hbAt ≤ s.now →
      let w := if s.pairFit = true then (if s.pairState = 1 then 1000 else if s.pairState = 2 then 2000 else 4000) else 6000
      let u : State := { s with pair := { x with hbAt := x.hbAt + s.pairTicks, hbSeq := (x.hbSeq + 1) % 65536 }, out := .pulse "HB_OUT" w :: s.out }
      exec .heartbeatInterval s = .next (u.pairSend s.hbPayload)) ∧
    (s.pairState = 0 → ∀ ns, exec (.hbInPulse ns) s = .next s) ∧
    (s.powered = true → s.pairState ≠ 0 → ∀ ns : BitVec 32, let n := ns.toNat
      (n < 500 ∨ (2500 < n ∧ n < 3500) ∨ (4500 < n ∧ n < 5500) ∨ 6500 < n → ∃ t : State, exec (.hbInPulse ns) s = .next t ∧ Cnt t 2 ∧ t = { s with regs := t.regs, freeIdx := s.freeIdx + 1 } ∧
        ∀ a, a ≠ PAIR_CNT.a 2 → t.reg a = s.reg a) ∧
      (3500 ≤ n → n ≤ 4500 → s.pairState = 1 → ∃ t : State, exec (.hbInPulse ns) s = .next t ∧ Cnt t 0 ∧ t.pathOk 0 = true ∧ t.pairState = 2 ∧ t.pairRoles = s.pairRoles ∧
        fldGet (t.reg PAIR_STAT.a) PAIR_STAT.partner = 3 ∧ t.pair.heard = true) ∧
      (∀ code, (500 ≤ n ∧ n < 1500 ∧ code = 1) ∨ (1500 < n ∧ n ≤ 2500 ∧ code = 2) ∨ (3500 ≤ n ∧ n ≤ 4500 ∧ code = 3) → s.pairState = 2 → 0 < x.unfit.length → ∃ t : State, exec (.hbInPulse ns) s = .next t ∧ Cnt t 0 ∧
        t.pathOk 0 = true ∧ t.pairState = 2 ∧ t.pairRoles = s.pairRoles ∧ fldGet (t.reg PAIR_STAT.a) PAIR_STAT.partner = code ∧ t.pair.unfit.getD 0 0 = 0 ∧
        t = { s with regs := t.regs, evt := t.evt, out := t.out, pair := t.pair, freeIdx := s.freeIdx + 1, pcie := { s.pcie with pba := t.pcie.pba } }) ∧
      (5500 ≤ n → n ≤ 6500 → s.pairState = 2 → 0 < x.unfit.length → 1 ≤ x.unfit.getD 0 0 → s.pairFit = true → fitMasked → noSets → ∃ t : State, exec (.hbInPulse ns) s = .next t ∧ Cnt t 0 ∧ Cnt t 4 ∧ Active t) ∧
      (5500 ≤ n → n ≤ 6500 → s.pairState = 2 → 0 < x.unfit.length → x.unfit.getD 0 0 = 0 → ∃ t : State, exec (.hbInPulse ns) s = .next t ∧ Cnt t 0 ∧ t.pairState = 2 ∧ t.pairRoles = s.pairRoles ∧ t.pair.unfit.getD 0 0 = 1) ∧
      (3500 ≤ n → n ≤ 4500 → s.pairState = 3 → s.pairFit = false ∨ s.preferred = false → noSets → ∃ t : State, exec (.hbInPulse ns) s = .next t ∧ Cnt t 0 ∧ Standby t ∧ Pend t 57)) ∧
    (∀ p : Fin 2,
      (s.pairState = 0 ∨ s.pathOk p.val = false ∨ s.now ≤ s.pathEnd p.val → exec (.pathTimeout p) s = .next s) ∧
      (s.powered = true → s.pairState ≠ 0 → s.pathOk p.val = true → s.pathEnd p.val < s.now →
        (s.pathOk (1 - p.val) = true → ∃ t : State, exec (.pathTimeout p) s = .next t ∧ t.pathOk p.val = false ∧ t.pathOk (1 - p.val) = true ∧ t.pairState = s.pairState ∧ t.pairRoles = s.pairRoles ∧
          Cnt t 3 ∧ Pend t 57 ∧ t = { s with regs := t.regs, evt := t.evt, out := t.out, pair := t.pair, pcie := { s.pcie with pba := t.pcie.pba } }) ∧
        (s.pathOk (1 - p.val) = false → s.pairState = 2 → s.pairFit = true → fitMasked → noSets → ∃ t : State, exec (.pathTimeout p) s = .next t ∧ t.pathOk p.val = false ∧ Active t ∧ Cnt t 3 ∧ Cnt t 4 ∧ Pend t 57) ∧
        (s.pathOk (1 - p.val) = false → s.pairState = 2 → s.pairFit = false → ∃ t : State, exec (.pathTimeout p) s = .next t ∧ t.pathOk p.val = false ∧ t.pairState = 2 ∧ t.pairRoles = s.pairRoles ∧ Cnt t 3 ∧ Pend t 57) ∧
        (s.pathOk (1 - p.val) = false → s.pairState = 3 → ∃ t : State, exec (.pathTimeout p) s = .next t ∧ t.pathOk p.val = false ∧ t.pairState = 3 ∧ t.pairRoles = s.pairRoles ∧ t.pair.ann = none ∧ Cnt t 3 ∧ Pend t 57))) ∧
    (x.busWant = none → exec .busRoleSwitch s = .next s) ∧
    (s.powered = true → ∀ g, x.busWant = some g →
      (nbit s.pairRoles 1 = g → exec .busRoleSwitch s = .next { s with pair := { x with busWant := none } }) ∧
      (nbit s.pairRoles 1 ≠ g → ∃ t u : State, exec .busRoleSwitch s = .next t ∧ u = { s with pair := { x with busWant := none }, regs := u.regs, evt := u.evt, out := u.out, pcie := { s.pcie with pba := u.pcie.pba } } ∧
        (∀ j : Fin 3, nbit u.pairRoles j.val = if j = 1 then g else nbit s.pairRoles j.val) ∧ u.pairState = s.pairState ∧ Pend u 57 ∧
        (nbit (s.f PAIR_ROLE.a PAIR_ROLE.set_en) 1 = false → t = u) ∧
        (nbit (s.f PAIR_ROLE.a PAIR_ROLE.set_en) 1 = true → let n := if g then s.f PAIR_ROLE.a PAIR_ROLE.gain_bus else s.f PAIR_ROLE.a PAIR_ROLE.lose_bus
          t = if (u.activate n []).2 = true then (u.activate n []).1.raise 57 10 n else (u.activate n []).1))) ∧
    (let due := x.since + msTicks (s.f PAIR_TIMING.a PAIR_TIMING.startup_wait)
     let may := s.pairFit = true ∧ (s.preferred = true ∨ x.heard = false ∨ x.peerFit = false);
     (s.pairState ≠ 1 ∨ s.now < due → exec .startupWaitExpiry s = .next s) ∧
     (s.powered = true → s.pairState = 1 → due ≤ s.now →
       (¬may → ∃ t : State, exec .startupWaitExpiry s = .next t ∧ t.pairState = 2 ∧ t.pairRoles = s.pairRoles ∧ t = { s with regs := t.regs, pair := { x with repAt := s.now, done := [], cycAt := s.now } }) ∧
       (may → noSets → ∃ t : State, exec .startupWaitExpiry s = .next t ∧ Active t ∧ t = { s with regs := t.regs, evt := t.evt, out := t.out, pair := t.pair, pcie := { s.pcie with pba := t.pcie.pba } }) ∧
       (may → ∃ u : State, exec .startupWaitExpiry s = .next ((u.roleMove 0 true).roleMove 2 true) ∧ u.pairState = 3 ∧ u.pairRoles = s.pairRoles ∧ u = { s with regs := u.regs, pair := u.pair } ∧
         u.pair.busWant = some true)))

/-- 15 R365 to R368: hand-back, self-test and reports. -/
def Obligations.HandBacksSelfTestsAndReports : Prop :=
  ∀ (s : State) (i : Fin 3), s.Canonical →
    let x := s.pair
    let Pend := fun (t : State) (n : Nat) => fldGet (t.reg (EVT_SRC_STAT.a n)) EVT_SRC_STAT.pend = 1
    let Cnt := fun (t : State) (k : Nat) => fldGet (t.reg (PAIR_CNT.a k)) PAIR_CNT.count = min (2 ^ 32 - 1) (fldGet (s.reg (PAIR_CNT.a k)) PAIR_CNT.count + 1)
    let Announces := fun (c : Instr) => ∃ t : State, exec c s = .next t ∧
      t.pair = { x with ann := some (taddU (s.tim.wkt / nsU * nsU) ((max 1 (s.f PAIR_TIMING.a PAIR_TIMING.handback_lead) * 1000000 * nsU : Nat) : Int)), annOk := false } ∧
      fldGet (t.reg PAIR_STAT.a) PAIR_STAT.handback = 1 ∧ Pend t 57 ∧ t.pairState = s.pairState ∧ t.pairRoles = s.pairRoles ∧ t = { s with pair := t.pair, regs := t.regs, evt := t.evt, out := t.out, pcie := { s.pcie with pba := t.pcie.pba } }
    (let ready := s.pairState = 3 ∧ s.on PAIR_CFG.a PAIR_CFG.revert_en = true ∧ s.preferred = false ∧ ∃ t0, x.stby = some t0 ∧ t0 + msTicks (s.f PAIR_TIMING.a PAIR_TIMING.hold_off) ≤ s.now;
     (¬ready ∨ x.ann ≠ none → exec .holdOffExpiry s = .next s) ∧ (s.powered = true → ready → x.ann = none → Announces .holdOffExpiry)) ∧
    (s.May i.val PAIR_CTRL.a →
      (s.pairState = 3 → x.ann = none → Announces (.yield i)) ∧ (s.pairState ≠ 3 ∨ x.ann ≠ none → exec (.yield i) s = .next s) ∧
      (∃ t : State, exec (.stClear i) s = .next t ∧ fldGet (t.reg PAIR_STAT.a) PAIR_STAT.st_failed = 0 ∧ t = { s with regs := t.regs } ∧ ∀ a, a ≠ PAIR_STAT.a → t.reg a = s.reg a)) ∧
    (x.ann = none → exec .handbackEchoDeadline s = .next s) ∧
    (∀ T, x.ann = some T → let near := tdiff T s.tim.wkt < ((s.pairTicks * 4 * nsU : Nat) : Int)
      (x.annOk = true ∨ ¬near → exec .handbackEchoDeadline s = .next s) ∧
      (s.powered = true → x.annOk = false → near → ∃ t : State, exec .handbackEchoDeadline s = .next t ∧ t.pair = { x with ann := none, annOk := false, stby := x.stby.map (fun _ => s.now) } ∧
        fldGet (t.reg PAIR_STAT.a) PAIR_STAT.handback = 0 ∧ Pend t 57 ∧ t.pairState = s.pairState ∧ t.pairRoles = s.pairRoles ∧ t = { s with pair := t.pair, regs := t.regs, evt := t.evt, out := t.out, pcie := { s.pcie with pba := t.pcie.pba } })) ∧
    (let alive := (s.pathOk 0 = true ∧ s.now < s.pathEnd 0) ∨ (s.pathOk 1 = true ∧ s.now < s.pathEnd 1)
     let Due := fun (o : Option Nat) => ∃ T, o = some T ∧ tdiff T s.tim.wkt ≤ 0
     let gives := s.pairState = 3 ∧ s.preferred = false ∧ x.annOk = true ∧ Due x.ann
     let takes := s.pairState = 2 ∧ s.preferred = true ∧ s.pairFit = true ∧ Due x.echo;
     (¬alive ∨ (¬gives ∧ ¬takes) → exec .handbackInstant s = .next s) ∧
     (s.powered = true → alive → gives → ∃ u : State, exec .handbackInstant s = .next ((u.roleMove 0 false).roleMove 2 false) ∧ u.pairState = 2 ∧ u.pairRoles = s.pairRoles ∧ Cnt u 5 ∧
       fldGet (u.reg PAIR_STAT.a) PAIR_STAT.handback = 0 ∧ u.pair = { x with ann := none, annOk := false, echo := none, busWant := some false, repAt := s.now, done := [], cycAt := s.now } ∧ u = { s with regs := u.regs, pair := u.pair }) ∧
     (s.powered = true → alive → takes → ∃ u : State, exec .handbackInstant s = .next ((u.roleMove 0 true).roleMove 2 true) ∧ u.pairState = 3 ∧ u.pairRoles = s.pairRoles ∧ Cnt u 5 ∧
       u.pair = { x with ann := none, annOk := false, echo := none, busWant := some true, stby := none } ∧ u = { s with regs := u.regs, pair := u.pair }) ∧
     (s.powered = true → alive → s.f PAIR_ROLE.a PAIR_ROLE.set_en = 0 →
       (gives → ∃ t : State, exec .handbackInstant s = .next t ∧ t.pairState = 2 ∧ nbit t.pairRoles 0 = false ∧ nbit t.pairRoles 2 = false ∧ t = { s with regs := t.regs, evt := t.evt, out := t.out, pair := t.pair, pcie := { s.pcie with pba := t.pcie.pba } }) ∧
       (takes → ∃ t : State, exec .handbackInstant s = .next t ∧ t.pairState = 3 ∧ nbit t.pairRoles 0 = true ∧ nbit t.pairRoles 2 = true ∧ t = { s with regs := t.regs, evt := t.evt, out := t.out, pair := t.pair, pcie := { s.pcie with pba := t.pcie.pba } }))) ∧
    (∀ k : BitVec 11, let n := k.toNat
      let on := s.on PAIR_ST_CFG.a PAIR_ST_CFG.st_en = true ∧ s.pairState = 2 ∧ s.itemOk n = true ∧ n ∉ x.done ∧ x.cycAt ≤ s.now
      let ends := ∀ j, j ∈ stItems → s.itemOk j = true → j = n ∨ j ∈ x.done
      let period := msTicks (100 * max 1 (s.f PAIR_ST_CFG.a PAIR_ST_CFG.test_cycle))
      (¬on → ∀ ok, exec (.selftestItemDone k ok) s = .next s) ∧
      (s.powered = true → on →
        (¬ends → exec (.selftestItemDone k true) s = .next { s with pair := { x with done := n :: x.done } }) ∧
        (ends → ∃ t : State, exec (.selftestItemDone k true) s = .next t ∧ t.pair = { x with done := [], cycles := x.cycles + 1, cycAt := x.cycAt + period } ∧ Cnt t 6 ∧ t = { s with pair := t.pair, regs := t.regs }) ∧
        ∃ t : State, exec (.selftestItemDone k false) s = .next t ∧ t.pair.fails = x.fails + 1 ∧ t.pair.item = n ∧ Cnt t 7 ∧
          (¬ends → t.pair.done = n :: x.done ∧ t.pair.cycles = x.cycles ∧ t.pair.cycAt = x.cycAt) ∧ (ends → t.pair.done = [] ∧ t.pair.cycles = x.cycles + 1 ∧ t.pair.cycAt = x.cycAt + period ∧ Cnt t 6) ∧
          fldGet (t.reg PAIR_STAT.a) PAIR_STAT.st_failed = 1 ∧ t.pairFit = false ∧ Pend t 58 ∧ t = { s with pair := t.pair, regs := t.regs, evt := t.evt, out := t.out, pcie := { s.pcie with pba := t.pcie.pba } })) ∧
    (s.pairState ≠ 2 ∨ s.now < x.repAt → exec .healthReportSend s = .next s) ∧
    (s.powered = true → s.pairState = 2 → x.repAt ≤ s.now →
      let u : State := { s with pair := { x with repAt := x.repAt + msTicks 10, repSeq := (x.repSeq + 1) % 65536 } }
      exec .healthReportSend s = .next (u.pairSend s.repPayload)) ∧
    (let miss := s.pairState ≠ 0 ∧ fldGet (s.reg PAIR_STAT.a) PAIR_STAT.partner = 2 ∧ ∃ t0, x.repLast = some t0 ∧ t0 + msTicks 30 ≤ s.now;
     (¬miss → exec .reportMissing s = .next s) ∧
     (s.powered = true → miss → ∃ t : State, exec .reportMissing s = .next t ∧ Pend t 58 ∧ t.pair = { x with repLast := none } ∧ t = { s with pair := t.pair, regs := t.regs, evt := t.evt, out := t.out, pcie := { s.pcie with pba := t.pcie.pba } })) ∧
    -- the commands of R357 to R363 complete
    (s.May i.val PAIR_CFG.a → ∀ v : BitVec 32,
      (∃ t : State, exec (.pairEnable i v) s = .next t ∧ fldGet (t.reg PAIR_CFG.a) PAIR_CFG.pair_en = 1 ∧ (s.pairState = 0 → fldGet (s.reg PAIR_CFG.a) PAIR_CFG.pair_en = 0 → t.pairState = 1)) ∧
      (∃ t : State, exec (.pairDisable i v) s = .next t ∧ fldGet (t.reg PAIR_CFG.a) PAIR_CFG.pair_en = 0 ∧ (fldGet (s.reg PAIR_CFG.a) PAIR_CFG.pair_en = 1 → t.pairState = 0))) ∧
    (s.powered = true → s.pairState ≠ 0 → x.hbAt ≤ s.now → ∃ t : State, exec .heartbeatInterval s = .next t ∧ t.pair = { x with hbAt := x.hbAt + s.pairTicks, hbSeq := (x.hbSeq + 1) % 65536 }) ∧
    (s.powered = true → s.pairState = 1 → ∀ ns : BitVec 32, 3500 ≤ ns.toNat → ns.toNat ≤ 4500 → ∃ t : State, exec (.hbInPulse ns) s = .next t ∧ t.pairState = 2 ∧ t.pathOk 0 = true) ∧
    (s.powered = true → s.pairState ≠ 0 → ∀ p : Fin 2, s.pathOk p.val = true → s.pathOk (1 - p.val) = true → s.pathEnd p.val < s.now →
      ∃ t : State, exec (.pathTimeout p) s = .next t ∧ t.pathOk p.val = false ∧ Cnt t 3) ∧
    (s.powered = true → ∀ g, x.busWant = some g → nbit (s.f PAIR_ROLE.a PAIR_ROLE.set_en) 1 = false →
      ∃ t : State, exec .busRoleSwitch s = .next t ∧ nbit t.pairRoles 1 = g ∧ t.pair = { x with busWant := none }) ∧
    (s.powered = true → s.pairState = 1 → x.since + msTicks (s.f PAIR_TIMING.a PAIR_TIMING.startup_wait) ≤ s.now →
      (s.pairFit = false → ∃ t : State, exec .startupWaitExpiry s = .next t ∧ t.pairState = 2) ∧
      (s.pairFit = true → s.preferred = true → s.f PAIR_ROLE.a PAIR_ROLE.set_en = 0 → ∃ t : State, exec .startupWaitExpiry s = .next t ∧ t.pairState = 3))

/-- 16 R377: a refused sleep request. -/
def Obligations.RefusedSleepRequestsSayWhy : Prop :=
  ∀ (s : State) (i : Fin 3), s.Canonical → s.May i.val PWR_CTRL.a → s.pwrPhase = 0 →
    let Refused := fun (k : Nat) => ∃ t : State, exec (.sleepRequest i) s = .next t ∧ t.pwrState = s.pwrState ∧ t.pwrPhase = 0 ∧ fldGet (t.reg PWR_CTRL.a) PWR_CTRL.sleep_req = 0 ∧
      fldGet (t.reg (EVT_SRC_STAT.a 55)) EVT_SRC_STAT.pend = 1 ∧ t = { s with regs := t.regs, evt := t.evt, out := t.out, pcie := { s.pcie with pba := t.pcie.pba } } ∧
      (s.aonBad = [] → fldGet (s.reg (EVT_SRC_STAT.a 55)) EVT_SRC_STAT.ff_valid = 0 → (t.evtSt 55).ff = ⟨s.tim.frt, s.now, 5, k⟩)
    (s.f PWR_WAKE_EN.a PWR_WAKE_EN.en = 0 → Refused 1) ∧
    (s.f PWR_WAKE_EN.a PWR_WAKE_EN.en ≠ 0 → (s.sessOf 2).role = 3 → Refused 2)

/-- 16 R373 to R376, R378 to R380, R382 to R386: sleep and wake. The time that the sleep adds is free within its bound (log entry 16). -/
def Obligations.SleepIsEnteredAndLeft : Prop :=
  (∀ (s : State) (i : Fin 3), s.Canonical →
    let Pend := fun (t : State) => fldGet (t.reg (EVT_SRC_STAT.a 55)) EVT_SRC_STAT.pend = 1
    let Aborted := fun (t : State) => t.pwrPhase = 0 ∧ t.pwrState = s.pwrState ∧ Pend t ∧ fldGet (t.reg PWR_CTRL.a) PWR_CTRL.sleep_req = 0 ∧ t.frames = s.frames ∧ t.copies = s.copies ∧ t.sram = s.sram
    let Committed := fun (t : State) (parked : Nat) => t.pwrPhase = 2 ∧ t.powered = false ∧ fldGet (t.reg PWR_STAT.a) PWR_STAT.parked = parked ∧ fldGet (t.reg PWR_CTRL.a) PWR_CTRL.sleep_req = 0 ∧
      t.frames = [] ∧ t.copies = [] ∧ t.sram = [] ∧ t.msgs = [] ∧ t.pair = {} ∧ t.phs = [] ∧ (∀ n : Fin 8, t.seqState n.val = 0 ∧ (t.sq n.val).tq = [] ∧ (t.sq n.val).aq = []) ∧
      t.sa = s.sa ∧ t.flw = s.flw ∧ t.dram = s.dram ∧ t.flash = s.flash ∧ t.fuse = s.fuse ∧ t.lock = s.lock ∧ (∀ n : Fin 24, fldGet (t.reg (ETH_PORT_CFG.a n.val)) ETH_PORT_CFG.en = fldGet (s.reg (ETH_PORT_CFG.a n.val)) ETH_PORT_CFG.en)
    let refused := s.f PWR_WAKE_EN.a PWR_WAKE_EN.en = 0 ∨ (s.sessOf 2).role = 3 ∨ s.aonBad ≠ []
    (s.May i.val PWR_CTRL.a →
      (s.pwrPhase ≠ 0 → exec (.sleepRequest i) s = .next s) ∧
      (s.pwrPhase = 0 → refused → ∃ t : State, exec (.sleepRequest i) s = .next t ∧ Pend t ∧ t.pwrPhase = 0 ∧ t.pwrState = s.pwrState ∧ fldGet (t.reg PWR_CTRL.a) PWR_CTRL.sleep_req = 0 ∧
        t = { s with regs := t.regs, evt := t.evt, out := t.out, pcie := { s.pcie with pba := t.pcie.pba } }) ∧
      (s.pwrPhase = 0 → ¬refused → (∀ k : Fin 4, nbit s.pwr.pins k.val = false) → ∃ t : State, exec (.sleepRequest i) s = .next t ∧ t.pwrPhase = 1 ∧ t.pwrState = s.pwrState ∧
        fldGet (t.reg PWR_STAT.a) PWR_STAT.wake_src = 0 ∧ fldGet (t.reg PWR_CTRL.a) PWR_CTRL.sleep_req = 1 ∧
        fldGet (t.reg PWR_PARK_CFG.a) PWR_PARK_CFG.seq = (fldGet (s.reg PWR_PARK_CFG.a) PWR_PARK_CFG.seq + 1) % 256 ∧ t.pwr = { s.pwr with prepAt := s.now, lateSrc := none, latchAt := none } ∧ t = { s with regs := t.regs, pwr := t.pwr }) ∧
      (∀ k : Fin 4, s.pwrPhase = 0 → ¬refused → nbit s.pwr.pins k.val = true → s.wakeEn k.val = true → s.wispMasked k.val = false → ∃ t : State, exec (.sleepRequest i) s = .next t ∧ Aborted t) ∧
      (s.pwrPhase = 1 → (∃ t : State, exec (.parkDone i none) s = .next t ∧ Committed t 1) ∧
        ∀ k : Fin 15, (s.wakeEn k.val = false → ∃ t : State, exec (.parkDone i (some k)) s = .next t ∧ Committed t 1) ∧
          (s.wakeEn k.val = true → s.wispMasked k.val = false → ∃ t : State, exec (.parkDone i (some k)) s = .next t ∧ Aborted t)) ∧
      (s.pwrPhase ≠ 1 → exec (.parkDone i none) s = .next s ∧ exec (.wakeNow i) s = .next s) ∧
      (s.pwrPhase = 1 → s.wakeEn 14 = true → s.wispMasked 14 = false → ∃ t : State, exec (.wakeNow i) s = .next t ∧ Aborted t ∧ nbit (fldGet (t.reg PWR_STAT.a) PWR_STAT.wake_src) 14 = true) ∧
      (s.pwrPhase = 1 → s.wakeEn 14 = false → exec (.wakeNow i) s = .next s) ∧
      (∃ t : State, exec (.offRequest i) s = .next t ∧ t.pwr = { s.pwr with inh := s.inhLevels 3 } ∧ t = { s with pwr := t.pwr, out := t.out } ∧
        ∀ k : Fin 2, nbit s.pwr.inh k.val ≠ nbit (s.inhLevels 3) k.val → Output.pin "INH_OUT" k.val (nbit (s.inhLevels 3) k.val) ∈ t.out)) ∧
    (let late := s.pwrPhase = 1 ∧ s.pwr.prepAt + msTicks (max 1 (s.f PWR_PREP_CFG.a PWR_PREP_CFG.prep_timeout)) ≤ s.now;
     (¬late → exec (.prepTimeout none) s = .next s) ∧ (late → ∃ t : State, exec (.prepTimeout none) s = .next t ∧ Committed t 0 ∧ Pend t) ∧
     (∀ k : Fin 15, s.pwrPhase = 1 → s.wakeEn k.val = true → s.wispMasked k.val = false → ∃ t : State, exec (.prepTimeout (some k)) s = .next t ∧ Aborted t)) ∧
    (s.pwrPhase ≠ 2 → exec .descendDone s = .next s) ∧
    (s.pwrPhase = 2 →
      (s.pwr.lateSrc = none → ∃ t : State, exec .descendDone s = .next t ∧ t.pwrState = 2 ∧ t.pwrPhase = 0 ∧ t.pwr = { s.pwr with inh := s.inhLevels 2 } ∧ t = { s with regs := t.regs, pwr := t.pwr, out := t.out }) ∧
      (∀ k, s.pwr.lateSrc = some k → ∃ t : State, exec .descendDone s = .next t ∧ t.pwrState = 2 ∧ t.pwrPhase = 0 ∧ t.pwr.wakeStep = 1 ∧ fldGet (t.reg PWR_STAT.a) PWR_STAT.first_src = k % 16 ∧
        t.pwr.inh = s.inhLevels 0 ∧ t = { s with regs := t.regs, pwr := t.pwr, out := t.out }))) ∧
  (∀ (s : State) (i : Fin 3), s.Canonical → s.Numbered →
    let Pend := fun (t : State) (n : Nat) => fldGet (t.reg (EVT_SRC_STAT.a n)) EVT_SRC_STAT.pend = 1
    -- a request of wake source `k` takes `u` to `t`
    let Latch := fun (u t : State) (k : Nat) =>
      let src := fun (x : State) => fldGet (x.reg PWR_STAT.a) PWR_STAT.wake_src
      let first := fun (x : State) => fldGet (x.reg PWR_STAT.a) PWR_STAT.first_src
      let go := u.wakeEn k = true ∧ u.wispMasked k = false
      -- another wake has been latched in the same cycle of the AON clock
      let same := ∃ t0, u.pwr.latchAt = some t0 ∧ aonCycle t0 = aonCycle u.now
      (u.wakeEn k = false ∨ (u.pwrState = 0 ∧ u.pwrPhase = 0 ∧ ¬same) → t = u) ∧
      (u.wakeEn k = true → ¬(u.pwrState = 0 ∧ u.pwrPhase = 0 ∧ ¬same) → u.wispMasked k = true → t = { u with regs := t.regs } ∧
        fldGet (t.reg (PWR_WISP_STAT.a k)) PWR_WISP_STAT.masked = min 65535 (fldGet (u.reg (PWR_WISP_STAT.a k)) PWR_WISP_STAT.masked + 1)) ∧
      (go → u.pwrPhase = 1 → t.pwrPhase = 0 ∧ t.pwrState = u.pwrState ∧ src t = src u ||| 2 ^ k ∧ Pend t 55 ∧ t = { u with regs := t.regs, evt := t.evt, out := t.out, pwr := { u.pwr with latchAt := some u.now }, pcie := { u.pcie with pba := t.pcie.pba } }) ∧
      (go → u.pwrPhase = 2 → src t = src u ||| 2 ^ k ∧ t = { u with regs := t.regs, pwr := t.pwr } ∧
        (u.pwr.lateSrc = none → t.pwr = { u.pwr with lateSrc := some k, latchAt := some u.now }) ∧
        (∀ j, u.pwr.lateSrc = some j → (same → t.pwr = { u.pwr with lateSrc := some (min j k) }) ∧ (¬same → t.pwr = u.pwr))) ∧
      (go → u.pwrPhase = 0 → u.pwrState = 2 → src t = src u ||| 2 ^ k ∧ t.pwrState = 2 ∧
        (u.pwr.wakeStep = 0 → t.pwr.wakeStep = 1 ∧ first t = k ∧ t.pwr.inh = u.inhLevels 0 ∧ t.pwr.latchAt = some u.now ∧
          t.pwr.wisp = u.pwr.wisp ++ [(k, u.now + msTicks (max 1 (u.f PWR_WISP_CFG.a PWR_WISP_CFG.wisp_win)))]) ∧
        (u.pwr.wakeStep ≠ 0 → (same → k < first u → first t = k ∧ t.pwr.wakeStep = u.pwr.wakeStep) ∧ (¬(same ∧ k < first u) → t.pwr = u.pwr ∧ first t = first u)) ∧
        t = { u with regs := t.regs, pwr := t.pwr, out := t.out }) ∧
      (go → u.pwrPhase = 0 → u.pwrState < 2 → same → src t = src u ||| 2 ^ k ∧ t = { u with regs := t.regs } ∧ t.pwrState = u.pwrState) ∧
      (go → u.pwrPhase = 0 → u.pwrState = 1 → ¬same → Pend t 55 ∧ t = { u with regs := t.regs, evt := t.evt, out := t.out, pcie := { u.pcie with pba := t.pcie.pba } } ∧ t.pwrState = 1)
    (∀ (k : Fin 4) (level : Bool) (held : BitVec 16),
      let act := level = s.on (PWR_WAKEIN_CFG.a k.val) PWR_WAKEIN_CFG.active_high
      let long := 16 * max 1 (s.f (PWR_WAKEIN_CFG.a k.val) PWR_WAKEIN_CFG.filt) ≤ held.toNat
      (¬act → exec (.wakeInPin k level held) s = .next { s with pwr := { s.pwr with pins := if nbit s.pwr.pins k.val then s.pwr.pins - 2 ^ k.val else s.pwr.pins } }) ∧
      (act → ¬long → exec (.wakeInPin k level held) s = .next s) ∧
      (act → long → ∃ t : State, exec (.wakeInPin k level held) s = .next t ∧ Latch { s with pwr := { s.pwr with pins := s.pwr.pins ||| 2 ^ k.val } } t k.val)) ∧
    (∀ k : Fin 4,
      (s.powered = true → s.portAsleep (20 + k.val) = false → ∃ t : State, exec (.wupDetect k) s = .next t ∧ Pend t 55 ∧ t = { s with regs := t.regs, evt := t.evt, out := t.out, pcie := { s.pcie with pba := t.pcie.pba } }) ∧
      (s.powered = false ∨ s.portAsleep (20 + k.val) = true →
        (nbit (s.f PWR_TC10_CFG.a PWR_TC10_CFG.det_en) k.val = true → ∃ t : State, exec (.wupDetect k) s = .next t ∧ Latch s t (8 + k.val)) ∧
        (nbit (s.f PWR_TC10_CFG.a PWR_TC10_CFG.det_en) k.val = false → exec (.wupDetect k) s = .next s))) ∧
    (s.inFen = true → s.pwr.timerHit = true → ∃ t : State, exec .aonTimerExpiry s = .next t ∧ Latch { s with pwr := { s.pwr with timerHit := false } } t 12) ∧
    (s.inFen = false ∨ s.pwr.timerHit = false → exec .aonTimerExpiry s = .next s) ∧
    (s.pwr.wakeStep = 1 → exec .wakePowerGood s = .next { s with pwr := { s.pwr with wakeStep := 2 } }) ∧ (s.pwr.wakeStep ≠ 1 → exec .wakePowerGood s = .next s) ∧
    (s.pwr.wakeStep ≠ 2 → exec .wakePllLocked s = .next s) ∧
    (s.pwr.wakeStep = 2 → ∃ (t : State) (d : Nat), exec .wakePllLocked s = .next t ∧ t.pwr.wakeStep = 3 ∧ t.pwr.lateSrc = none ∧ t.pwr.later = [] ∧ Pend t 55 ∧
      s.pwr.ticks * 4 * nsU ≤ d + 30520 * nsU ∧ d ≤ (s.pwr.ticks * 4 + 30520) * nsU ∧ t.tim.frt = taddU s.tim.frt d ∧ t.tim.dta = taddU s.tim.dta d ∧ t.tim.dtb = taddU s.tim.dtb d ∧ t.tim.wkt = taddU s.tim.wkt d) ∧
    (s.pwr.wakeStep ≠ 3 → exec .wakePipelinesReady s = .next s) ∧
    (s.pwr.wakeStep = 3 → (∀ e ∈ s.pwr.later, e.1 < 64) → ∃ t : State, exec .wakePipelinesReady s = .next t ∧ t.pwrState = 0 ∧ t.pwr.wakeStep = 4 ∧ t.pwr.fast = s.f PWR_WAKE_CFG.a PWR_WAKE_CFG.fast_link ∧
      fldGet (t.reg MEM_STAT.a) MEM_STAT.self_refresh = 0 ∧ (∀ n : Fin 24, s.on (ETH_PORT_CFG.a n.val) ETH_PORT_CFG.en = true → (t.port n.val).since = s.now) ∧
      (s.on PAIR_CFG.a PAIR_CFG.pair_en = true → t.pairState = 1 ∧ t.pairRoles = 0) ∧
      ∀ k : Fin 4, nbit (s.f PWR_TC10_CFG.a PWR_TC10_CFG.wup_tx) k.val = true → Output.wup (20 + k.val) ∈ t.out) ∧
    (s.pwr.wakeStep ≠ 4 → ∀ ecc, exec (.carrResume ecc) s = .next s) ∧
    (s.pwr.wakeStep = 4 → ∀ ecc, let parked := fldGet (s.reg PWR_STAT.a) PWR_STAT.parked = 1
      (parked → s.parkOk = true → ecc = false → s.carr.bad = none → ∃ t : State, exec (.carrResume ecc) s = .next t ∧ t.sram = s.parkImage ∧ t.cpxState = 1 ∧ t.posCore 0 = 0 ∧ t.posCore 1 = 1 ∧ t.posCore 2 = 2 ∧
        t.pwr = { s.pwr with wakeStep := 0 } ∧ t = { s with sram := t.sram, carr := t.carr, regs := t.regs, pwr := t.pwr }) ∧
      (¬parked ∨ s.parkOk = false ∨ ecc = true → ∃ t : State, exec (.carrResume ecc) s = .next t ∧ t.boot = { s.boot with stage := if s.staging then 1 else 2 } ∧ (parked → Pend t 55) ∧
        t.pwr = { s.pwr with wakeStep := 0 } ∧ t = { s with regs := t.regs, evt := t.evt, out := t.out, pwr := t.pwr, boot := t.boot, pcie := { s.pcie with pba := t.pcie.pba } })) ∧
    (s.May i.val PWR_PART_BUS.a → ∀ v : BitVec 32, s.pwrState = 1 ∨ s.f PWR_PART_PORTS.a PWR_PART_PORTS.ports = 0 → ∃ t : State, exec (.partialMaskWrite i true v) s = .next t ∧
      fldGet (t.reg PWR_PART_BUS.a) PWR_PART_BUS.can = fldGet v PWR_PART_BUS.can ∧ fldGet (t.reg PWR_PART_BUS.a) PWR_PART_BUS.lin = fldGet v PWR_PART_BUS.lin ∧
      t.pwrState = b2n (s.f PWR_PART_PORTS.a PWR_PART_PORTS.ports != 0 || v != 0#32) ∧ t = { s with regs := t.regs, par := t.par, aud := t.aud, evt := t.evt, out := t.out, pcie := { s.pcie with pba := t.pcie.pba } }) ∧
    (s.May i.val PWR_PART_PORTS.a → (∀ n : Fin 24, (s.port n.val).rx = none) → ∀ v : BitVec 32, let new := fldGet v PWR_PART_PORTS.ports
      let was := if s.pwrState = 1 then fldGet (s.reg PWR_PART_PORTS.a) PWR_PART_PORTS.ports else 0
      ∃ t : State, exec (.partialMaskWrite i false v) s = .next t ∧ fldGet (t.reg PWR_PART_PORTS.a) PWR_PART_PORTS.ports = new ∧
        t.pwrState = b2n (new != 0 || s.f PWR_PART_BUS.a PWR_PART_BUS.can != 0 || s.f PWR_PART_BUS.a PWR_PART_BUS.lin != 0) ∧ t.frames.length ≤ s.frames.length ∧
        ∀ n : Fin 24, s.on (ETH_PORT_CFG.a n.val) ETH_PORT_CFG.en = true → fldGet (t.reg (ETH_PORT_CFG.a n.val)) ETH_PORT_CFG.en = fldGet (s.reg (ETH_PORT_CFG.a n.val)) ETH_PORT_CFG.en ∧
          (nbit new n.val = true → nbit was n.val = false → fldGet (t.reg (ETH_PORT_STAT.a n.val)) ETH_PORT_STAT.link = 0 ∧ ∀ c ∈ t.copies, c.port = n.val → c.st = 1) ∧
          (nbit new n.val = false → nbit was n.val = true → fldGet (t.reg (ETH_PORT_STAT.a n.val)) ETH_PORT_STAT.link = 0 ∧ (t.port n.val).since = s.now)) ∧
    (s.May i.val PWR_CTRL.a →
      (s.pwr.wisp = [] → exec (.wakeValid i) s = .next s) ∧
      (∀ k e, s.pwr.wisp.getLast? = some (k, e) → (s.pwr.judged = false → aonCycle s.now ≤ aonCycle e → ∃ t : State, exec (.wakeValid i) s = .next t ∧ t.pwr = { s.pwr with wisp := s.pwr.wisp.dropLast, judged := true } ∧
          fldGet (t.reg (PWR_WISP_STAT.a k)) PWR_WISP_STAT.count = 0 ∧ t = { s with pwr := t.pwr, regs := t.regs }) ∧
        (s.pwr.judged = true ∨ aonCycle e < aonCycle s.now → exec (.wakeValid i) s = .next s))) ∧
    (s.pwr.wisp = [] → exec .wispWindowEnd s = .next s) ∧
    (∀ (k : Fin 15) (e : Nat) (r : List (Nat × Nat)), s.pwr.wisp = (k.val, e) :: r →
      let a := PWR_WISP_STAT.a k.val
      let n := min 127 (fldGet (s.reg a) PWR_WISP_STAT.count + 1)
      (aonCycle s.now ≤ aonCycle e → exec .wispWindowEnd s = .next s) ∧
      (aonCycle e < aonCycle s.now → ∃ t : State, exec .wispWindowEnd s = .next t ∧ t.pwr.wisp = r ∧ fldGet (t.reg a) PWR_WISP_STAT.count = n ∧
        (s.f PWR_WISP_CFG.a PWR_WISP_CFG.wisp_thr < n → (s.inFen = false → Pend t 56) ∧
          (s.on PWR_WISP_CFG.a PWR_WISP_CFG.mask_en = true → fldGet (t.reg a) PWR_WISP_STAT.masked_now = 1)) ∧
        (n ≤ s.f PWR_WISP_CFG.a PWR_WISP_CFG.wisp_thr → t = { s with pwr := t.pwr, regs := t.regs } ∧ ∀ x, x ≠ a → t.reg x = s.reg x))) ∧
    (∀ k : Fin 15, let a := PWR_WISP_STAT.a k.val
      let go := fldGet (s.reg a) PWR_WISP_STAT.masked_now = 1 ∧ Cells.get (fun _ => 0) s.pwr.maskEnd k.val ≤ s.now
      (¬go → exec (.wispBackoffEnd k) s = .next s) ∧
      (go → ∃ t : State, exec (.wispBackoffEnd k) s = .next t ∧ fldGet (t.reg a) PWR_WISP_STAT.masked_now = 0 ∧ fldGet (t.reg a) PWR_WISP_STAT.count = 0 ∧ (s.inFen = false → Pend t 56) ∧
        t = { s with regs := t.regs, evt := t.evt, out := t.out, pwr := t.pwr, pcie := { s.pcie with pba := t.pcie.pba } })))

/-- 17 R390 to R392, R396, R438: resets and their release. Whether a short RESET_n pulse acts is free (log entry 17). -/
def Obligations.ResetsLeaveOnlyWhatTheyKeep : Prop :=
  ∀ (s : State) (i : Fin 3), s.Canonical →
    let Reset := fun (t : State) (kind : Nat) => t.pending = s.pending ∧ t.now = s.now ∧ t.frames = [] ∧ t.copies = [] ∧ t.seq = [] ∧ t.win = [] ∧ t.sess = [] ∧ t.evt = [] ∧ t.sa = [] ∧ t.guards = [] ∧
      t.pair = {} ∧ t.boot = { relAt := s.now } ∧ (∀ a, a ≠ ROL_LC_REQ.a → a ≠ SYS_RST_CAUSE.a → blockOf a ≠ 12 → t.reg a = resetOf a) ∧
      (0 < kind → fldGet (t.reg SYS_RST_CAUSE.a) ⟨kind, kind⟩ = 1 ∧ t.pwrState = 0 ∧ t.pwrPhase = 0) ∧
      (kind = 0 → t.reg SYS_RST_CAUSE.a = resetOf SYS_RST_CAUSE.a ∧ t.reg PWR_STAT.a = resetOf PWR_STAT.a) ∧ (s.boot.flashOp = 0 → t.flash = s.flash)
    let CarrReset := fun (t : State) (bit : Nat) => t.cpxState = 0 ∧ t.sram = [] ∧ t.boot.stage = 0 ∧ t.boot.carr = true ∧ t.boot.sessEnd = none ∧ fldGet (t.reg SYS_RST_CAUSE.a) ⟨bit, bit⟩ = 1 ∧
      t.frames = s.frames ∧ t.flw = s.flw ∧ t.seq = s.seq ∧ t.sa = s.sa
    (∀ aon, ∃ t : State, exec (.powerOnReset aon) s = .next t ∧ Reset t 0 ∧ (aon = true → t.lock = []) ∧ (aon = false → t.lock = s.lock)) ∧
    (∀ len : BitVec 32, (len.toNat < 50 → exec (.pinReset len) s = .next s) ∧
      (100 ≤ len.toNat → ∃ t : State, exec (.pinReset len) s = .next t ∧ Reset t 1 ∧ t.lock = s.lock) ∧
      (50 ≤ len.toNat → len.toNat < 100 → ∃ t : State, exec (.pinReset len) s = .next t ∧ (t = { s with freeIdx := s.freeIdx + 1 } ∨ Reset t 1))) ∧
    (s.May i.val SYS_RST_CTRL.a → ∃ t : State, exec (.deviceReset i) s = .next t ∧ Reset t 2) ∧
    (s.powered = true → (s.sessOf 2).role ≠ 3 ∨ s.fuse.state = 2 → ∃ t : State, exec (.carrReset true i) s = .next t ∧ fldGet (t.reg (EVT_SRC_STAT.a 60)) EVT_SRC_STAT.pend = 1 ∧
      t = { s with regs := t.regs, evt := t.evt, out := t.out, pcie := { s.pcie with pba := t.pcie.pba } }) ∧
    (s.powered = true → (s.sessOf 2).role = 3 → s.fuse.state ≠ 2 → ∃ t : State, exec (.carrReset true i) s = .next t ∧ CarrReset t 5) ∧
    (s.May i.val SYS_RST_CTRL.a → ∃ t : State, exec (.carrReset false i) s = .next t ∧ CarrReset t 3) ∧
    (s.powered = false → ∀ jtag, exec (.carrReset jtag i) s = .next s) ∧
    (∀ hot, s.powered = true → hot = true ∨ (s.pwrState = 0 ∧ s.pwrPhase = 0) → ∃ t : State, exec (.pcieReset hot) s = .next t ∧ fldGet (t.reg SYS_RST_CAUSE.a) ⟨6, 6⟩ = 1 ∧
      (∀ n : Fin 3, (t.sessOf n.val).role = 0) ∧ (∀ g r : Nat, g < 2 → r < 16 → fldGet (t.reg (ringReg g r 8)) ⟨31, 31⟩ = 0) ∧ t.pcieGen = 0 ∧
      fldGet (t.reg (EVT_SRC_STAT.a 62)) EVT_SRC_STAT.pend = 1 ∧ t.pcie.tbl = [] ∧ (hot = false → t.pcie.cfg = []) ∧ t.frames = s.frames ∧ t.flw = s.flw ∧ t.sa = s.sa ∧ t.boot = s.boot) ∧
    (s.powered = false → exec (.pcieReset true) s = .next s ∧ (s.wakeEn 13 = false → exec (.pcieReset false) s = .next s) ∧
      (s.wakeEn 13 = true → s.wispMasked 13 = false → s.pwrPhase = 0 → s.pwrState = 2 → s.pwr.wakeStep = 0 → ∃ t : State, exec (.pcieReset false) s = .next t ∧ t.pwr.wakeStep = 1 ∧
        fldGet (t.reg PWR_STAT.a) PWR_STAT.first_src = 13 ∧ t = { s with regs := t.regs, pwr := t.pwr, out := t.out })) ∧
    (∀ mode : Fin 4, let kept := fldGet (s.reg SYS_BOOT_STAT.a) SYS_BOOT_STAT.boot_mode
      let stage := fun (m : Nat) => if m = 1 then 3 else if m = 2 ∧ (s.fuse.state = 0 ∨ s.fuse.state = 3) then 4 else if s.staging then 1 else 2
      (s.boot.stage ≠ 0 ∨ s.clocked = false → exec (.resetRelease mode) s = .next s) ∧
      (s.boot.stage = 0 → s.clocked = true → s.boot.carr = false → ∃ t : State, exec (.resetRelease mode) s = .next t ∧ fldGet (t.reg SYS_BOOT_STAT.a) SYS_BOOT_STAT.boot_mode = mode.val ∧
        t.boot.relAt = s.now ∧ t.boot.stage = stage mode.val ∧ (mode.val = 3 → fldGet (t.reg (EVT_SRC_STAT.a 61)) EVT_SRC_STAT.pend = 1) ∧ (∀ p : Fin 2, t.pp p.val = { s.pp p.val with sweep := 0, sweepAt := s.now * 32768 }) ∧ t = { s with pipe := t.pipe, regs := t.regs, evt := t.evt, out := t.out, boot := t.boot, pcie := { s.pcie with pba := t.pcie.pba } }) ∧
      (s.boot.stage = 0 → s.clocked = true → s.boot.carr = true → ∃ t : State, exec (.resetRelease mode) s = .next t ∧ fldGet (t.reg SYS_BOOT_STAT.a) SYS_BOOT_STAT.boot_mode = kept ∧
        t.boot.relAt = s.boot.relAt ∧ t.boot.carr = false ∧ t.boot.stage = stage kept ∧ t = { s with regs := t.regs, evt := t.evt, out := t.out, boot := t.boot, pcie := { s.pcie with pba := t.pcie.pba } }))

/-- 17 R394, R397 to R404, R412: the boot ROM, the verifier and the flash. Signature verification is a free function (log entry 5). -/
def Obligations.BootRomAndFlashFollowTheirRules : Prop :=
  ∀ (s : State) (i : Fin 3), s.Canonical →
    let Pend := fun (t : State) => fldGet (t.reg (EVT_SRC_STAT.a 61)) EVT_SRC_STAT.pend = 1
    let result := fun (t : State) => fldGet (t.reg SYS_BOOT_STAT.a) SYS_BOOT_STAT.result
    -- the container that `rd` delivers boots
    let Boots := fun (t : State) (rd : Nat → Nat → List Byte) (r : Nat) => t.boot = { s.boot with stage := 7, sessEnd := some (s.now + msTicks 1000), uart := [], beaconAt := none } ∧ (t.sessOf 1).role = 2 ∧
      t.sram = (s.sramWrite (leNat (slice (rd 0 256) 16 8)) (rd 256 (leNat (slice (rd 0 256) 8 4)))).sram ∧ result t = r
    let Failed := fun (t : State) (b : BootSt) => t.boot = b ∧ Pend t ∧ t = { s with regs := t.regs, evt := t.evt, out := t.out, boot := t.boot, pcie := { s.pcie with pba := t.pcie.pba } }
    let b := s.boot
    (s.powered = true → b.stage = 1 → b.flashOp = 0 → ∃ t : State, exec .bootVerifyDone s = .next t ∧ Pend t ∧
      (bootCheck 1 (s.rdFlash stagingSlot) = 0 → Boots t (s.rdFlash stagingSlot) 2) ∧ (bootCheck 1 (s.rdFlash stagingSlot) ≠ 0 → Failed t { b with stage := 2 })) ∧
    (s.powered = true → b.stage = 2 → b.flashOp = 0 → ∃ t : State, exec .bootVerifyDone s = .next t ∧ Pend t ∧
      (bootCheck 1 (s.rdFlash activeSlot) = 0 → Boots t (s.rdFlash activeSlot) 1) ∧ (bootCheck 1 (s.rdFlash activeSlot) ≠ 0 → Failed t { b with stage := 3 } ∧ result t = 5)) ∧
    (s.powered = true → b.stage = 5 → ∃ t : State, exec .bootVerifyDone s = .next t ∧
      (bootCheck 1 (s.rdSram sramBase) = 0 → Boots t (s.rdSram sramBase) 3) ∧ (bootCheck 1 (s.rdSram sramBase) ≠ 0 → Failed t { b with stage := 3 } ∧ result t = 5)) ∧
    (s.powered = true → b.stage = 6 → ∃ t : State, exec .bootVerifyDone s = .next t ∧
      (bootCheck 1 s.rdUart = 0 → Boots t s.rdUart 4 ∧ Output.uart [0x06#8] ∈ t.out) ∧ (bootCheck 1 s.rdUart ≠ 0 → Failed t { b with stage := 4, uart := [] } ∧ Output.uart [0x15#8] ∈ t.out)) ∧
    ((b.stage = 1 ∨ b.stage = 2) ∧ b.flashOp ≠ 0 ∨ b.stage = 0 ∨ b.stage = 3 ∨ b.stage = 4 ∨ 6 < b.stage → exec .bootVerifyDone s = .next s) ∧
    (s.powered = true → b.stage = 3 → s.guardOf 0 = none → exec (.hostGo i) s = .next { s with boot := { b with stage := 5 } }) ∧
    (s.May i.val SYS_BOOT_CTRL.a → ∃ t : State, exec (.loadDone i) s = .next t ∧ t.boot = { b with faultHold := false, sessEnd := none } ∧ fldGet (t.reg SYS_BOOT_STAT.a) SYS_BOOT_STAT.loaded = 1 ∧
      (fldGet (s.reg SYS_BOOT_STAT.a) SYS_BOOT_STAT.loaded = 0 → fldGet (t.reg SYS_BOOT_STAT.a) SYS_BOOT_STAT.load_time = min 0xffff ((s.now - b.relAt) / 2500)) ∧
      (b.sessEnd.isSome = true → (s.sessOf 1).role = 2 → (t.sessOf 1).role = 0) ∧ (b.sessEnd = none → t.sess = s.sess) ∧ t.flash = s.flash ∧ t.sram = s.sram) ∧
    (s.May i.val SYS_BV_CTRL.a → let x := s.f SYS_BV_ADDR.a SYS_BV_ADDR.addr; ∃ t : State, exec (.bvGo i) s = .next t ∧ fldGet (t.reg SYS_BV_CTRL.a) SYS_BV_CTRL.busy = 0 ∧
      fldGet (t.reg SYS_BV_CTRL.a) SYS_BV_CTRL.code = (if 0x60000000 ≤ x ∧ x < 0x70000000 then bootCheck 2 (s.rdFlash (x - 0x60000000)) else if sramBase ≤ x ∧ x < sramEnd then bootCheck 2 (s.rdSram x) else 1) ∧
      t = { s with regs := t.regs, par := t.par, aud := t.aud, evt := t.evt, out := t.out, pcie := { s.pcie with pba := t.pcie.pba } }) ∧
    (∀ v : BitVec 32, s.May i.val SYS_UPD_NOTE.a → let c := fldGet v SYS_UPD_NOTE.cause
      ∃ t : State, exec (.updNoteWrite i v) s = .next t ∧ t = { s with regs := t.regs, par := t.par, aud := t.aud, evt := t.evt, out := t.out, pcie := { s.pcie with pba := t.pcie.pba } } ∧
        (i.val = 1 → c = 6 ∨ c = 7 ∨ c = 8 ∨ c = 13 → Pend t) ∧ (¬(i.val = 1 ∧ (c = 6 ∨ c = 7 ∨ c = 8 ∨ c = 13)) → t.reg (EVT_SRC_STAT.a 61) = s.reg (EVT_SRC_STAT.a 61))) ∧
    (∀ (data : List Byte) (crc : BitVec 32),
      (b.stage ≠ 4 ∨ s.powered = false → exec (.uartBootBlock data crc) s = .next s) ∧
      (b.stage = 4 → s.powered = true → (data = [] → exec (.uartBootBlock data crc) s = .next { s with boot := { b with beaconAt := none, stage := 6 } }) ∧
        (data ≠ [] → data.length ≤ 1024 → crc32 data = crc → b.uart.length + data.length ≤ 0x400000 →
          exec (.uartBootBlock data crc) s = .next { s with boot := { b with beaconAt := none, uart := b.uart ++ data }, out := .uart [0x06#8] :: s.out }) ∧
        (data ≠ [] → crc32 data ≠ crc → exec (.uartBootBlock data crc) s = .next { s with boot := { b with beaconAt := none }, out := .uart [0x15#8] :: s.out }))) ∧
    (b.stage = 4 → s.powered = true → exec .uartGapTimeout s = .next { s with boot := { b with beaconAt := none }, out := .uart [0x15#8] :: s.out }) ∧
    (b.stage ≠ 4 → exec .uartGapTimeout s = .next s ∧ exec .uartBootBeacon s = .next s) ∧
    (∀ t0, b.beaconAt = some t0 → b.stage = 4 → s.powered = true → (s.now < t0 → exec .uartBootBeacon s = .next s) ∧
      (t0 ≤ s.now → exec .uartBootBeacon s = .next { s with boot := { b with beaconAt := some (s.now + msTicks 100) }, out := .uart [0x48#8, 0x5a#8, 0x55#8, 0x31#8] :: s.out })) ∧
    (b.beaconAt = none → exec .uartBootBeacon s = .next s) ∧
    (b.sessEnd = none → exec .installerSessionTimeout s = .next s) ∧
    (∀ e, b.sessEnd = some e → (s.now < e → exec .installerSessionTimeout s = .next s) ∧
      (e ≤ s.now → ∃ t : State, exec .installerSessionTimeout s = .next t ∧ t.boot = { b with sessEnd := none } ∧ ((s.sessOf 1).role = 2 → (t.sessOf 1).role = 0) ∧ ((s.sessOf 1).role ≠ 2 → t.sess = s.sess))) ∧
    (∀ arg : BitVec 16, s.MayOrder i.val sysFlash → ∀ op, op = 1 ∨ op = 2 →
      let x := if op = 1 then exec (.flashErase i arg) s else exec (.flashProgram i arg) s
      let a := s.dw sysFlash 0
      let unit := if op = 1 then 65536 else 32
      (a % unit ≠ 0 ∨ flashSize < a + unit → ∃ t : State, x = .next t ∧ t.Refused sysFlash 1 ∧ t.flash = s.flash ∧ t.boot = b) ∧
      (a % unit = 0 → a + unit ≤ flashSize → s.slotLocked a = true → ∃ t : State, x = .next t ∧ t.Refused sysFlash 2 ∧ t.flash = s.flash ∧ t.boot = b ∧ Pend t) ∧
      (a % unit = 0 → a + unit ≤ flashSize → s.slotLocked a = false → arg ≠ 0#16 → ∃ t : State, x = .next t ∧ t.Refused sysFlash 15 ∧ t.flash = s.flash ∧ t.boot = b) ∧
      (a % unit = 0 → a + unit ≤ flashSize → s.slotLocked a = false → arg = 0#16 → ∃ t : State, x = .next t ∧ t.flash = s.flash ∧ fldGet (t.reg sysFlash) MBX_CTRL.req = 1 ∧
        t.boot = { b with flashOp := op, flashAddr := a, flashData := ((List.range 8).map (fun k => leBytes 4 (s.dw sysFlash (k + 1)))).flatten })) ∧
    (∀ ok again, let a := b.flashAddr
      (b.flashOp = 0 → exec (.flashOpDone ok again) s = .next s) ∧
      (b.flashOp = 1 → ∃ t : State, exec (.flashOpDone true false) s = .next t ∧ t.Done s sysFlash 9 ∧ t.boot = { b with flashOp := 0, flashData := [] } ∧ t.flash = Cells.clear s.flash a (a + 65536)) ∧
      (1 < b.flashOp → ∃ t : State, exec (.flashOpDone true false) s = .next t ∧ t.Done s sysFlash 9 ∧ t.boot = { b with flashOp := 0, flashData := [] } ∧
        t.flash = memPut (fun _ => 0xff#8) s.flash a ((s.flashRead a 32).zipWith (fun x y => x &&& y) b.flashData)) ∧
      (b.flashOp ≠ 0 → ∃ t : State, exec (.flashOpDone false false) s = .next t ∧ t.Refused sysFlash 3 ∧ t.boot = { b with flashOp := 0, flashData := [] }) ∧
      (b.flashOp ≠ 0 → ∃ t : State, exec (.flashOpDone ok true) s = .next t ∧ fldGet (t.reg (sysFlash + 4)) MBX_STAT.overrun = 1 ∧ fldGet (t.reg sysFlash) MBX_CTRL.req = 0 ∧
        t.boot = { b with flashOp := 0, flashData := [] }))

/-- 18 R420, R435 to R437: the monitors. -/
def Obligations.MonitorsReportRailsAndTemperatures : Prop :=
  ∀ (s : State), s.Canonical →
    let rails := fun (u : State) => fldGet (u.reg SYS_MON_STAT.a) SYS_MON_STAT.rail_out
    let now := fun (u : State) => sint 10 (fldGet (u.reg SYS_MON_STAT.a) SYS_MON_STAT.tj_now)
    let top := fun (u : State) => sint 10 (fldGet (u.reg SYS_MON_STAT.a) SYS_MON_STAT.tj_max)
    let Pend := fun (u : State) => fldGet (u.reg (EVT_SRC_STAT.a 63)) EVT_SRC_STAT.pend = 1
    (∀ (k : Fin 10) (ovl : Bool),
      let seen := s.jtag.held = false ∧ (s.inFen = false ∨ k.val = 3 ∨ k.val = 4)
      (¬seen → exec (.railOutOfRange k ovl) s = .next s ∧ exec (.railInRange k) s = .next s) ∧
      (nbit (rails s) k.val = true → exec (.railOutOfRange k ovl) s = .next s) ∧
      (seen → nbit (rails s) k.val = false → ∃ t : State, exec (.railOutOfRange k ovl) s = .next t ∧ rails t = rails s ||| 2 ^ k.val ∧ now t = now s ∧ top t = top s ∧
        (s.inFen = false → Pend t ∧ t = { s with regs := t.regs, evt := t.evt, out := t.out, pcie := { s.pcie with pba := t.pcie.pba } }) ∧
        (s.inFen = true → t.pwr = { s.pwr with later := s.pwr.later ++ [(63, if ovl then 2 else 1, k.val)] } ∧ t = { s with regs := t.regs, pwr := t.pwr })) ∧
      (seen → ∃ t : State, exec (.railInRange k) s = .next t ∧ (∀ j : Fin 10, nbit (rails t) j.val = (nbit (rails s) j.val && j != k)) ∧ now t = now s ∧ top t = top s ∧
        t = { s with regs := t.regs } ∧ ∀ a, a ≠ SYS_MON_STAT.a → t.reg a = s.reg a)) ∧
    (s.powered = true → ∀ (k : Fin 8) (t : BitVec 10),
      let Read := fun (u : State) => now u = t.toInt ∧ top u = max (top s) t.toInt ∧ rails u = rails s ∧ ∀ a, a ≠ SYS_MON_STAT.a → a ≠ EVT_SRC_STAT.a 63 → u.reg a = s.reg a
      let warn := sint 10 (s.f SYS_MON_CFG.a SYS_MON_CFG.temp_warn) ≤ t.toInt ∧ s.mon.warned = false
      let crit := 155 ≤ t.toInt ∧ s.mon.crit = false
      let clear := t.toInt < sint 10 (s.f SYS_MON_CFG.a SYS_MON_CFG.temp_clear)
      (∀ c, c = Instr.tempWarn k t ∨ c = Instr.tempCrit k t → ∃ u : State, exec c s = .next u ∧ Read u ∧
        (warn ∨ crit → Pend u ∧ u = { s with regs := u.regs, evt := u.evt, out := u.out, mon := u.mon, pcie := { s.pcie with pba := u.pcie.pba } } ∧
          (u.mon.warned = true ↔ s.mon.warned = true ∨ warn) ∧ (u.mon.crit = true ↔ s.mon.crit = true ∨ crit)) ∧
        (¬warn → ¬crit → u = { s with regs := u.regs } ∧ u.reg (EVT_SRC_STAT.a 63) = s.reg (EVT_SRC_STAT.a 63))) ∧
      (∃ u : State, exec (.tempClear t) s = .next u ∧ Read u ∧ u.reg (EVT_SRC_STAT.a 63) = s.reg (EVT_SRC_STAT.a 63) ∧ (clear → u = { s with regs := u.regs, mon := {} }) ∧ (¬clear → u = { s with regs := u.regs })))

/-- 18 R431 to R435, 14 R339: the test port. What the internal chains shift out is free (log entry 19). -/
def Obligations.TestPortLoadsRunsAndRefuses : Prop :=
  ∀ (s : State), s.Canonical →
    let st := s.fuse.state
    let role := (s.sessOf 2).role
    let allowed := fun (code : Nat) => if code ∈ [0, 4, 5, 8, 9] then st ≠ 2 ∨ role = 2 else if code ∈ [17, 24, 25] then st ≠ 2 ∧ role = 3 else if code = 32 then (st = 0 ∨ st = 3) ∧ role = 3
      else if code ∈ [33, 34] then st = 0 ∧ role = 3 else True
    let holds := fun (code : Nat) => code ∈ [0, 4, 5, 8, 9, 24, 25, 32, 33]
    let Loaded := fun (code : Nat) (u : State) => (s.jtag.ir = code → u = s) ∧
      (s.jtag.ir ≠ code → holds code → u.jtag = { s.jtag with ir := code, held := true, bist := 0 } ∧ (s.jtag.held = true → u = { s with jtag := u.jtag }) ∧
        (s.jtag.held = false → u.frames = [] ∧ u.sess = [] ∧ u.boot = { relAt := s.now } ∧ fldGet (u.reg SYS_RST_CAUSE.a) ⟨1, 1⟩ = 1 ∧ u.pending = s.pending)) ∧
      (s.jtag.ir ≠ code → ¬holds code → u = { s with jtag := { s.jtag with ir := code, held := false, bist := 0 } })
    -- instruction `c` with `code`: loaded, it does `f`; refused, it acts as BYPASS
    let Does := fun (c : Instr) (code : Nat) (f : State → State) =>
      (s.inFen = true → exec c s = .next s) ∧
      (s.inFen = false → s.jtag.ir = code ∨ allowed code → ∃ u : State, Loaded code u ∧ exec c s = .next (f u)) ∧
      (s.inFen = false → s.jtag.ir ≠ code → ¬allowed code → ∃ t : State, exec c s = .next t ∧ t.jtag = { s.jtag with ir := 63, held := false, bist := 0 } ∧ t.out.head? = some (.tdo 0) ∧
        fldGet (t.reg (EVT_SRC_STAT.a 60)) EVT_SRC_STAT.pend = 1 ∧ t = { s with jtag := t.jtag, regs := t.regs, evt := t.evt, out := t.out, pcie := { s.pcie with pba := t.pcie.pba } })
    let Drives := fun (code : Nat) (pins v : BitVec 612) (u : State) => ({ u with jtag := { u.jtag with bnd := v }, out := .boundary code v.toNat :: .tdo pins.toNat :: u.out } : State)
    let Keeps := fun (code : Nat) (u : State) => ({ u with out := .boundary code u.jtag.bnd.toNat :: .tdo 0 :: u.out } : State)
    let Tests := fun (code which : Nat) (u : State) => if s.jtag.ir ≠ code then ({ u with jtag := { u.jtag with bist := which, bistStat := 0#32 }, out := .tdo 0 :: u.out } : State)
      else ({ u with out := .tdo u.jtag.bistStat.toNat :: u.out } : State)
    let Open := fun (u : State) => ({ u with freeIdx := u.freeIdx + 1, out := .tdo (Config.freeValue u.freeIdx).toNat :: u.out } : State)
    (∀ pins v : BitVec 612, Does (.extest pins v) 0 (Drives 0 pins v) ∧ Does (.extestPulse pins v) 8 (Drives 8 pins v) ∧ Does (.extestTrain pins v) 9 (Drives 9 pins v) ∧
      Does (.samplePreload pins v) 2 (fun u => { u with jtag := { u.jtag with bnd := v }, out := .tdo pins.toNat :: u.out })) ∧
    Does .clamp 4 (Keeps 4) ∧ Does .highz 5 (Keeps 5) ∧
    Does .idcode 1 (fun u => { u with out := .tdo 0x292409cb :: u.out }) ∧ Does .bypass 63 (fun u => { u with out := .tdo 0 :: u.out }) ∧
    Does .mbist 24 (Tests 24 1) ∧ Does .lbist 25 (Tests 25 2) ∧ Does .scan 32 Open ∧
    (∀ w : BitVec 64, Does (.trim w) 33 (fun u => Open { u with jtag := { u.jtag with trim := w :: u.jtag.trim } }) ∧ Does (.fuse w) 34 (fun u => Open { u with jtag := { u.jtag with fuse := w :: u.jtag.fuse } })) ∧
    (∀ k : Fin 9,
      Does (.debug k true) 17 (fun u => let v : State := { u with jtag := { u.jtag with halted := if k.val ∈ u.jtag.halted then u.jtag.halted else u.jtag.halted ++ [k.val] } }
        if u.jtag.halted = [] then v.alarmActive 3 true else v) ∧
      Does (.debug k false) 17 (fun u => let v : State := { u with jtag := { u.jtag with halted := u.jtag.halted.erase k.val } }
        if u.jtag.halted ≠ [] ∧ u.jtag.halted.erase k.val = [] then v.alarmInactive 3 else v)) ∧
    (∀ (wr : Bool) (addr : BitVec 31) (x : BitVec 32), Does (.regAccess wr addr x) 16 (fun u =>
      let v : State := { u with out := .tdo u.jtag.acc.toNat :: u.out }
      if v.powered = false then v
      else if wr then (let y := (v.writeAt 2 addr.toNat 4 x.toNat none).1; { y with freeIdx := y.freeIdx + 1, jtag := { y.jtag with acc := (Config.freeValue y.freeIdx).setWidth 32 } })
      else (let y := v.readAt 2 addr.toNat 4; { y.1 with jtag := { y.1.jtag with acc := BitVec.ofNat 32 y.2.1 } }))) ∧
    (s.inFen = true → exec .testLogicReset s = .next s) ∧
    (s.inFen = false → ∃ t : State, exec .testLogicReset s = .next t ∧ t.jtag = { s.jtag with ir := 1, held := false, halted := [], bist := 0 } ∧ (t.sessOf 2).role = 0 ∧ (t.sessOf 2).chalValid = false ∧
      (∀ n : Fin 2, t.sessOf n.val = s.sessOf n.val) ∧ t.frames = s.frames ∧ t.boot = s.boot ∧ t.sa = s.sa) ∧
    (∀ v : BitVec 32, (s.jtag.bist = 0 → exec (.bistDone v) s = .next s) ∧ (s.jtag.bist ≠ 0 → exec (.bistDone v) s = .next { s with jtag := { s.jtag with bist := 0, bistStat := v } }))
end

