-- ==== Sys2Proof/Laws/Bits.lean ====
section
/-! SUPPORT. Fields of a word: a field read after a write of the same field, and of a field that does not overlap it. -/

namespace Sys2Proof.Machine

theorem fldGet_eq (w : Word) (f : Fld) : fldGet w f = (w.extractLsb' f.lo (f.hi + 1 - f.lo)).toNat := by
  unfold fldGet
  rw [BitVec.extractLsb'_toNat, Nat.shiftRight_eq_div_pow]

theorem fldMask_bit (f : Fld) (k : Nat) (hk : k < 32) : (fldMask f).getLsbD k = (decide (f.lo ≤ k) && decide (k ≤ f.hi)) := by
  unfold fldMask
  rw [BitVec.getLsbD_ofNat]
  simp only [hk, decide_true, Bool.true_and]
  rw [Nat.testBit_mul_two_pow, Nat.testBit_two_pow_sub_one]
  by_cases h1 : f.lo ≤ k <;> by_cases h2 : k ≤ f.hi <;> simp [h1, h2] <;> omega

theorem fldSet_bit (w : Word) (f : Fld) (v k : Nat) (hk : k < 32) :
    (fldSet w f v).getLsbD k = if f.lo ≤ k ∧ k ≤ f.hi then v.testBit (k - f.lo) else w.getLsbD k := by
  unfold fldSet
  rw [BitVec.getLsbD_or, BitVec.getLsbD_and, BitVec.getLsbD_not, fldMask_bit f k hk, BitVec.getLsbD_ofNat]
  simp only [hk, decide_true, Bool.true_and]
  rw [Nat.testBit_mul_two_pow, Nat.testBit_mod_two_pow]
  by_cases h1 : f.lo ≤ k <;> by_cases h2 : k ≤ f.hi <;> simp [h1, h2] <;> omega

/-- A field read after a write of it. -/
theorem fldGet_fldSet (w : Word) (f : Fld) (v : Nat) (h : f.hi < 32) : fldGet (fldSet w f v) f = v % 2 ^ (f.hi + 1 - f.lo) := by
  rw [fldGet_eq]
  apply Nat.eq_of_testBit_eq
  intro i
  rw [BitVec.testBit_toNat, BitVec.getLsbD_extractLsb', Nat.testBit_mod_two_pow]
  by_cases hi : i < f.hi + 1 - f.lo
  · rw [fldSet_bit _ _ _ _ (by omega), if_pos (by omega)]
    simp [hi]
  · simp [hi]

/-- A field read after a write of a field that does not overlap it. -/
theorem fldGet_fldSet_ne (w : Word) (f g : Fld) (v : Nat) (h : g.hi < 32) (hd : g.hi < f.lo ∨ f.hi < g.lo) :
    fldGet (fldSet w f v) g = fldGet w g := by
  rw [fldGet_eq, fldGet_eq]
  apply Nat.eq_of_testBit_eq
  intro i
  rw [BitVec.testBit_toNat, BitVec.testBit_toNat, BitVec.getLsbD_extractLsb', BitVec.getLsbD_extractLsb']
  by_cases hi : i < g.hi + 1 - g.lo
  · rw [fldSet_bit _ _ _ _ (by omega), if_neg (by omega)]
  · simp [hi]

theorem fldGet_lt (w : Word) (f : Fld) : fldGet w f < 2 ^ (f.hi + 1 - f.lo) := Nat.mod_lt _ (Nat.two_pow_pos _)

theorem fldGet_zero (f : Fld) : fldGet 0#32 f = 0 := by unfold fldGet; simp

end Sys2Proof.Machine
end

