-- ==== Sys2Proof/Laws/Cells.lean ====
section
/-! SUPPORT. The laws of sparse stores: a read after a write, the canonical form, and that every operation keeps it. -/

namespace Sys2Proof.Machine

variable {α : Type}

theorem Cells.get_set_same [DecidableEq α] (d : Nat → α) (m : Cells α) (lo k : Nat) (v : α)
    (h : Cells.wfFrom d lo m = true) : Cells.get d (Cells.set d m k v) k = v := by
  induction m generalizing lo with
  | nil => unfold Cells.set; split <;> simp_all [Cells.get]
  | cons e r ih =>
    obtain ⟨k', v'⟩ := e
    have hr : ∀ j ≤ k', Cells.get d r j = d j := by
      have h3 : Cells.wfFrom d (k' + 1) r = true := by simp [Cells.wfFrom] at h; exact h.2
      clear ih h
      generalize hlo : k' + 1 = lo' at h3
      intro j hj
      have hlt : j < lo' := by omega
      clear hlo hj
      induction r generalizing lo' with
      | nil => rfl
      | cons e r ih =>
        obtain ⟨k2, v2⟩ := e
        simp [Cells.wfFrom] at h3
        have : j ≠ k2 := by omega
        simp [Cells.get, this]
        exact ih (k2 + 1) h3.2 (by omega)
    simp [Cells.wfFrom] at h
    unfold Cells.set
    split
    · split
      · rename_i h1 h2; have : k ≠ k' := by omega
        simp [Cells.get, this, hr k (by omega), h2]
      · simp [Cells.get]
    · split
      · split
        · rename_i h1 h2 h3; subst h2; simp [hr k (by omega), h3]
        · simp [Cells.get]
      · rename_i h1 h2
        simp [Cells.get, h2]
        exact ih _ h.2

theorem Cells.get_of_lt [DecidableEq α] (d : Nat → α) (m : Cells α) (lo k : Nat)
    (h : Cells.wfFrom d lo m = true) (hk : k < lo) : Cells.get d m k = d k := by
  induction m generalizing lo with
  | nil => rfl
  | cons e r ih =>
    obtain ⟨k', v'⟩ := e
    simp [Cells.wfFrom] at h
    have : k ≠ k' := by omega
    simp [Cells.get, this]
    exact ih (k' + 1) h.2 (by omega)

theorem Cells.get_set_ne [DecidableEq α] (d : Nat → α) (m : Cells α) (k j : Nat) (v : α) (hj : j ≠ k) :
    Cells.get d (Cells.set d m k v) j = Cells.get d m j := by
  induction m with
  | nil => unfold Cells.set; split <;> simp [Cells.get, hj]
  | cons e r ih =>
    obtain ⟨k', v'⟩ := e
    unfold Cells.set
    split
    · split <;> simp [Cells.get, hj]
    · split
      · rename_i h1 h2; subst h2; split <;> simp [Cells.get, hj]
      · simp [Cells.get, ih]

theorem Cells.wfFrom_mono [DecidableEq α] (d : Nat → α) (m : Cells α) (lo lo' : Nat) (h : Cells.wfFrom d lo m = true)
    (hl : lo' ≤ lo) : Cells.wfFrom d lo' m = true := by
  cases m with
  | nil => rfl
  | cons e r => obtain ⟨k, v⟩ := e; simp [Cells.wfFrom] at *; exact ⟨⟨by omega, h.1.2⟩, h.2⟩

theorem Cells.wfFrom_set [DecidableEq α] (d : Nat → α) (m : Cells α) (lo k : Nat) (v : α)
    (h : Cells.wfFrom d lo m = true) (hk : lo ≤ k) : Cells.wfFrom d lo (Cells.set d m k v) = true := by
  induction m generalizing lo with
  | nil => unfold Cells.set; split <;> simp_all [Cells.wfFrom]
  | cons e r ih =>
    obtain ⟨k', v'⟩ := e
    simp [Cells.wfFrom] at h
    unfold Cells.set
    split
    · split
      · simp [Cells.wfFrom]; exact h
      · simp [Cells.wfFrom]; exact ⟨⟨hk, by assumption⟩, ⟨by omega, h.1.2⟩, h.2⟩
    · split
      · rename_i h1 h2; subst h2; split
        · exact Cells.wfFrom_mono d r _ _ h.2 (by omega)
        · simp [Cells.wfFrom]; exact ⟨⟨hk, by assumption⟩, h.2⟩
      · simp [Cells.wfFrom]; exact ⟨h.1, ih _ h.2 (by omega)⟩

/-- A write keeps the canonical form. -/
theorem Cells.wf_set [DecidableEq α] {d : Nat → α} {m : Cells α} (h : Cells.wf d m = true) (k : Nat) (v : α) :
    Cells.wf d (Cells.set d m k v) = true := Cells.wfFrom_set d m 0 k v h (Nat.zero_le _)

/-- A read after a write of the same key. -/
theorem Cells.get_set [DecidableEq α] {d : Nat → α} {m : Cells α} (h : Cells.wf d m = true) (k : Nat) (v : α) :
    Cells.get d (Cells.set d m k v) k = v := Cells.get_set_same d m 0 k v h

theorem Cells.set_get_from [DecidableEq α] (d : Nat → α) (m : Cells α) (lo k : Nat) (h : Cells.wfFrom d lo m = true) :
    Cells.set d m k (Cells.get d m k) = m := by
  induction m generalizing lo with
  | nil => simp [Cells.set, Cells.get]
  | cons e r ih =>
    obtain ⟨k', v'⟩ := e
    simp [Cells.wfFrom] at h
    unfold Cells.set
    split
    · rename_i h1; have : k ≠ k' := by omega
      have h2 : Cells.get d r k = d k := Cells.get_of_lt d r (k' + 1) k h.2 (by omega)
      simp [Cells.get, this, h2]
    · split
      · rename_i h1 h2; subst h2; simp [Cells.get, h.1.2]
      · rename_i h1 h2; simp [Cells.get, h2]; exact ih _ h.2

/-- Writing what a key holds changes nothing. -/
theorem Cells.set_get [DecidableEq α] {d : Nat → α} {m : Cells α} (h : Cells.wf d m = true) (k : Nat) :
    Cells.set d m k (Cells.get d m k) = m := Cells.set_get_from d m 0 k h

theorem Cells.set_set_from [DecidableEq α] (d : Nat → α) (m : Cells α) (lo k : Nat) (v w : α) (h : Cells.wfFrom d lo m = true) :
    Cells.set d (Cells.set d m k v) k w = Cells.set d m k w := by
  induction m generalizing lo with
  | nil => by_cases hv : v = d k <;> simp [Cells.set, hv]
  | cons e r ih =>
    obtain ⟨k', v'⟩ := e
    simp [Cells.wfFrom] at h
    by_cases h1 : k < k'
    · by_cases hv : v = d k
      · simp [Cells.set, h1, hv]
      · simp [Cells.set, h1, hv]
    · by_cases h2 : k = k'
      · subst h2
        by_cases hv : v = d k
        · simp [Cells.set, hv]
          cases r with
          | nil => simp [Cells.set]
          | cons e2 r2 =>
            obtain ⟨k2, v2⟩ := e2
            simp [Cells.wfFrom] at h
            have : k < k2 := by omega
            simp [Cells.set, this]
        · simp [Cells.set, hv]
      · simp only [Cells.set, h1, h2, if_false]
        rw [ih _ h.2]

/-- The later of two writes of a key stands. -/
theorem Cells.set_set [DecidableEq α] {d : Nat → α} {m : Cells α} (h : Cells.wf d m = true) (k : Nat) (v w : α) :
    Cells.set d (Cells.set d m k v) k w = Cells.set d m k w := Cells.set_set_from d m 0 k v w h

theorem Cells.wf_nil [DecidableEq α] (d : Nat → α) : Cells.wf d ([] : Cells α) = true := rfl

theorem Cells.wfFrom_filter [DecidableEq α] (d : Nat → α) (p : Nat × α → Bool) (m : Cells α) (lo : Nat)
    (h : Cells.wfFrom d lo m = true) : Cells.wfFrom d lo (m.filter p) = true := by
  induction m generalizing lo with
  | nil => rfl
  | cons e r ih =>
    obtain ⟨k, v⟩ := e
    simp [Cells.wfFrom] at h
    rw [List.filter_cons]
    split
    · simp [Cells.wfFrom]; exact ⟨h.1, ih _ h.2⟩
    · exact Cells.wfFrom_mono d _ _ _ (ih _ h.2) (by omega)

/-- Dropping entries keeps the canonical form. -/
theorem Cells.wf_keep [DecidableEq α] {d : Nat → α} {m : Cells α} (h : Cells.wf d m = true) (p : Nat → Bool) :
    Cells.wf d (Cells.keep p m) = true := Cells.wfFrom_filter d _ m 0 h

theorem Cells.wf_clear [DecidableEq α] {d : Nat → α} {m : Cells α} (h : Cells.wf d m = true) (lo hi : Nat) :
    Cells.wf d (Cells.clear m lo hi) = true := Cells.wf_keep h _

/-- A store built by writes is canonical. -/
theorem Cells.wf_foldl [DecidableEq α] {β : Type} {d : Nat → α} (f : Cells α → β → Cells α) (l : List β) (m : Cells α)
    (h : Cells.wf d m = true) (hf : ∀ m x, Cells.wf d m = true → Cells.wf d (f m x) = true) :
    Cells.wf d (l.foldl f m) = true := by
  induction l generalizing m with
  | nil => exact h
  | cons x r ih => exact ih _ (hf _ _ h)

/-- A read of a store restricted to the keys of `p`. -/
theorem Cells.get_keep (d : Nat → α) (p : Nat → Bool) (m : Cells α) (k : Nat) :
    Cells.get d (Cells.keep p m) k = if p k then Cells.get d m k else d k := by
  induction m with
  | nil => simp [Cells.keep, Cells.get]
  | cons e r ih =>
    obtain ⟨k', v⟩ := e
    simp only [Cells.keep, List.filter_cons] at *
    by_cases hk : k = k'
    · subst hk
      cases hp : p k
      · simpa [hp] using ih
      · simp [hp, Cells.get]
    · cases hp : p k' <;> simp [hp, Cells.get, hk, ih]

/-- A store moved from the keys from `b` on to the keys from `c` on (all entries lie there). -/
theorem Cells.wfFrom_shift [DecidableEq α] (v0 : α) (m : Cells α) (b c lo : Nat) (h : Cells.wfFrom (fun _ => v0) lo m = true)
    (hb : ∀ e ∈ m, b ≤ e.1) (hl : b ≤ lo) : Cells.wfFrom (fun _ => v0) (lo - b + c) (m.map (fun e => (e.1 - b + c, e.2))) = true := by
  induction m generalizing lo with
  | nil => rfl
  | cons e r ih =>
    obtain ⟨k, v⟩ := e
    simp [Cells.wfFrom] at h
    have hk : b ≤ k := hb (k, v) (by simp)
    simp [Cells.wfFrom]
    refine ⟨⟨by omega, h.1.2⟩, ?_⟩
    have := ih (k + 1) h.2 (fun e he => hb e (by simp [he])) (by omega)
    have e : k + 1 - b + c = k - b + c + 1 := by omega
    rw [e] at this; exact this

theorem Cells.wfFrom_ge [DecidableEq α] (d : Nat → α) (m : Cells α) (lo b : Nat) (h : Cells.wfFrom d lo m = true)
    (hb : ∀ e ∈ m, b ≤ e.1) : Cells.wfFrom d (max lo b) m = true := by
  cases m with
  | nil => rfl
  | cons e r =>
    obtain ⟨k, v⟩ := e
    have hk : b ≤ k := hb (k, v) (by simp)
    simp [Cells.wfFrom] at *
    exact ⟨⟨⟨h.1.1, hk⟩, h.1.2⟩, h.2⟩

/-- The entries of a window of `z` keys from `b` on, moved to `c`. -/
theorem Cells.wf_move [DecidableEq α] (v0 : α) (m : Cells α) (b z c : Nat) (h : Cells.wf (fun _ => v0) m = true) :
    Cells.wf (fun _ => v0) ((m.filter (fun e => decide (b ≤ e.1) && decide (e.1 < b + z))).map (fun e => (e.1 - b + c, e.2))) = true := by
  have h1 := Cells.wfFrom_filter (fun _ => v0) (fun e => decide (b ≤ e.1) && decide (e.1 < b + z)) m 0 h
  have hb : ∀ e ∈ m.filter (fun e => decide (b ≤ e.1) && decide (e.1 < b + z)), b ≤ e.1 := by
    intro e he; simp at he; exact he.2.1
  have h2 := Cells.wfFrom_shift v0 _ b c (max 0 b) (Cells.wfFrom_ge _ _ _ b h1 hb) hb (by omega)
  exact Cells.wfFrom_mono _ _ _ _ h2 (Nat.zero_le _)

end Sys2Proof.Machine
end

