-- ==== Sys2Proof/Laws/State.lean ====
section
/-! SUPPORT. What each update of the state leaves of each field: one lemma per field per update, so that no proof unfolds a record
update; and what a read of a register gives after a write. -/

namespace Sys2Proof.Machine

@[simp] theorem State.setReg_pending (s : State) (a : Nat) (w : Word) : (s.setReg a w).pending = s.pending := rfl
@[simp] theorem State.setReg_now (s : State) (a : Nat) (w : Word) : (s.setReg a w).now = s.now := rfl
@[simp] theorem State.setReg_freeIdx (s : State) (a : Nat) (w : Word) : (s.setReg a w).freeIdx = s.freeIdx := rfl
@[simp] theorem State.setReg_out (s : State) (a : Nat) (w : Word) : (s.setReg a w).out = s.out := rfl
@[simp] theorem State.setReg_par (s : State) (a : Nat) (w : Word) : (s.setReg a w).par = s.par := rfl
@[simp] theorem State.setReg_guards (s : State) (a : Nat) (w : Word) : (s.setReg a w).guards = s.guards := rfl
@[simp] theorem State.setReg_evt (s : State) (a : Nat) (w : Word) : (s.setReg a w).evt = s.evt := rfl
@[simp] theorem State.setReg_sess (s : State) (a : Nat) (w : Word) : (s.setReg a w).sess = s.sess := rfl
@[simp] theorem State.setReg_lock (s : State) (a : Nat) (w : Word) : (s.setReg a w).lock = s.lock := rfl
@[simp] theorem State.setReg_fuse (s : State) (a : Nat) (w : Word) : (s.setReg a w).fuse = s.fuse := rfl
@[simp] theorem State.setReg_aud (s : State) (a : Nat) (w : Word) : (s.setReg a w).aud = s.aud := rfl
@[simp] theorem State.setReg_tim (s : State) (a : Nat) (w : Word) : (s.setReg a w).tim = s.tim := rfl
@[simp] theorem State.setReg_wktPrev (s : State) (a : Nat) (w : Word) : (s.setReg a w).wktPrev = s.wktPrev := rfl
@[simp] theorem State.setReg_phs (s : State) (a : Nat) (w : Word) : (s.setReg a w).phs = s.phs := rfl
@[simp] theorem State.setReg_phLev (s : State) (a : Nat) (w : Word) : (s.setReg a w).phLev = s.phLev := rfl
@[simp] theorem State.setReg_seq (s : State) (a : Nat) (w : Word) : (s.setReg a w).seq = s.seq := rfl
@[simp] theorem State.setReg_acts (s : State) (a : Nat) (w : Word) : (s.setReg a w).acts = s.acts := rfl
@[simp] theorem State.setReg_sync (s : State) (a : Nat) (w : Word) : (s.setReg a w).sync = s.sync := rfl
@[simp] theorem State.setReg_win (s : State) (a : Nat) (w : Word) : (s.setReg a w).win = s.win := rfl
@[simp] theorem State.setReg_fdb (s : State) (a : Nat) (w : Word) : (s.setReg a w).fdb = s.fdb := rfl
@[simp] theorem State.setReg_flw (s : State) (a : Nat) (w : Word) : (s.setReg a w).flw = s.flw := rfl
@[simp] theorem State.setReg_pipe (s : State) (a : Nat) (w : Word) : (s.setReg a w).pipe = s.pipe := rfl
@[simp] theorem State.setReg_ruleBad (s : State) (a : Nat) (w : Word) : (s.setReg a w).ruleBad = s.ruleBad := rfl
@[simp] theorem State.setReg_ruleCnt (s : State) (a : Nat) (w : Word) : (s.setReg a w).ruleCnt = s.ruleCnt := rfl
@[simp] theorem State.setReg_latch (s : State) (a : Nat) (w : Word) : (s.setReg a w).latch = s.latch := rfl
@[simp] theorem State.setReg_nextId (s : State) (a : Nat) (w : Word) : (s.setReg a w).nextId = s.nextId := rfl
@[simp] theorem State.setReg_frames (s : State) (a : Nat) (w : Word) : (s.setReg a w).frames = s.frames := rfl
@[simp] theorem State.setReg_copies (s : State) (a : Nat) (w : Word) : (s.setReg a w).copies = s.copies := rfl
@[simp] theorem State.setReg_bankUse (s : State) (a : Nat) (w : Word) : (s.setReg a w).bankUse = s.bankUse := rfl
@[simp] theorem State.setReg_bankPtr (s : State) (a : Nat) (w : Word) : (s.setReg a w).bankPtr = s.bankPtr := rfl
@[simp] theorem State.setReg_matcher (s : State) (a : Nat) (w : Word) : (s.setReg a w).matcher = s.matcher := rfl
@[simp] theorem State.setReg_eraseBad (s : State) (a : Nat) (w : Word) : (s.setReg a w).eraseBad = s.eraseBad := rfl
@[simp] theorem State.setReg_pcie (s : State) (a : Nat) (w : Word) : (s.setReg a w).pcie = s.pcie := rfl
@[simp] theorem State.setReg_spilling (s : State) (a : Nat) (w : Word) : (s.setReg a w).spilling = s.spilling := rfl
@[simp] theorem State.setReg_peatFull (s : State) (a : Nat) (w : Word) : (s.setReg a w).peatFull = s.peatFull := rfl
@[simp] theorem State.setReg_ports (s : State) (a : Nat) (w : Word) : (s.setReg a w).ports = s.ports := rfl
@[simp] theorem State.setReg_credit (s : State) (a : Nat) (w : Word) : (s.setReg a w).credit = s.credit := rfl
@[simp] theorem State.setReg_wfq (s : State) (a : Nat) (w : Word) : (s.setReg a w).wfq = s.wfq := rfl
@[simp] theorem State.setReg_wfqV (s : State) (a : Nat) (w : Word) : (s.setReg a w).wfqV = s.wfqV := rfl
@[simp] theorem State.setReg_meters (s : State) (a : Nat) (w : Word) : (s.setReg a w).meters = s.meters := rfl
@[simp] theorem State.setReg_mib (s : State) (a : Nat) (w : Word) : (s.setReg a w).mib = s.mib := rfl
@[simp] theorem State.setReg_sa (s : State) (a : Nat) (w : Word) : (s.setReg a w).sa = s.sa := rfl
@[simp] theorem State.setReg_rxLast (s : State) (a : Nat) (w : Word) : (s.setReg a w).rxLast = s.rxLast := rfl
@[simp] theorem State.setReg_cipMib (s : State) (a : Nat) (w : Word) : (s.setReg a w).cipMib = s.cipMib := rfl
@[simp] theorem State.setReg_cjobs (s : State) (a : Nat) (w : Word) : (s.setReg a w).cjobs = s.cjobs := rfl
@[simp] theorem State.setReg_ringPtr (s : State) (a : Nat) (w : Word) : (s.setReg a w).ringPtr = s.ringPtr := rfl
@[simp] theorem State.setReg_pcieGen (s : State) (a : Nat) (w : Word) : (s.setReg a w).pcieGen = s.pcieGen := rfl
@[simp] theorem State.setReg_mdio (s : State) (a : Nat) (w : Word) : (s.setReg a w).mdio = s.mdio := rfl
@[simp] theorem State.setReg_fre (s : State) (a : Nat) (w : Word) : (s.setReg a w).fre = s.fre := rfl
@[simp] theorem State.setReg_sram (s : State) (a : Nat) (w : Word) : (s.setReg a w).sram = s.sram := rfl
@[simp] theorem State.setReg_can (s : State) (a : Nat) (w : Word) : (s.setReg a w).can = s.can := rfl
@[simp] theorem State.setReg_lin (s : State) (a : Nat) (w : Word) : (s.setReg a w).lin = s.lin := rfl
@[simp] theorem State.setReg_msgs (s : State) (a : Nat) (w : Word) : (s.setReg a w).msgs = s.msgs := rfl
@[simp] theorem State.setReg_inq (s : State) (a : Nat) (w : Word) : (s.setReg a w).inq = s.inq := rfl
@[simp] theorem State.setReg_held (s : State) (a : Nat) (w : Word) : (s.setReg a w).held = s.held := rfl
@[simp] theorem State.setReg_batch (s : State) (a : Nat) (w : Word) : (s.setReg a w).batch = s.batch := rfl
@[simp] theorem State.setReg_sealedQ (s : State) (a : Nat) (w : Word) : (s.setReg a w).sealedQ = s.sealedQ := rfl
@[simp] theorem State.setReg_rxStr (s : State) (a : Nat) (w : Word) : (s.setReg a w).rxStr = s.rxStr := rfl
@[simp] theorem State.setReg_carr (s : State) (a : Nat) (w : Word) : (s.setReg a w).carr = s.carr := rfl
@[simp] theorem State.setReg_dram (s : State) (a : Nat) (w : Word) : (s.setReg a w).dram = s.dram := rfl
@[simp] theorem State.setReg_pair (s : State) (a : Nat) (w : Word) : (s.setReg a w).pair = s.pair := rfl
@[simp] theorem State.setReg_pwr (s : State) (a : Nat) (w : Word) : (s.setReg a w).pwr = s.pwr := rfl
@[simp] theorem State.setReg_boot (s : State) (a : Nat) (w : Word) : (s.setReg a w).boot = s.boot := rfl
@[simp] theorem State.setReg_flash (s : State) (a : Nat) (w : Word) : (s.setReg a w).flash = s.flash := rfl
@[simp] theorem State.setReg_jtag (s : State) (a : Nat) (w : Word) : (s.setReg a w).jtag = s.jtag := rfl
@[simp] theorem State.setReg_mon (s : State) (a : Nat) (w : Word) : (s.setReg a w).mon = s.mon := rfl

@[simp] theorem State.setF_pending (s : State) (a : Nat) (x : Fld) (v : Nat) : (s.setF a x v).pending = s.pending := rfl
@[simp] theorem State.setF_now (s : State) (a : Nat) (x : Fld) (v : Nat) : (s.setF a x v).now = s.now := rfl
@[simp] theorem State.setF_freeIdx (s : State) (a : Nat) (x : Fld) (v : Nat) : (s.setF a x v).freeIdx = s.freeIdx := rfl
@[simp] theorem State.setF_out (s : State) (a : Nat) (x : Fld) (v : Nat) : (s.setF a x v).out = s.out := rfl
@[simp] theorem State.setF_par (s : State) (a : Nat) (x : Fld) (v : Nat) : (s.setF a x v).par = s.par := rfl
@[simp] theorem State.setF_guards (s : State) (a : Nat) (x : Fld) (v : Nat) : (s.setF a x v).guards = s.guards := rfl
@[simp] theorem State.setF_evt (s : State) (a : Nat) (x : Fld) (v : Nat) : (s.setF a x v).evt = s.evt := rfl
@[simp] theorem State.setF_sess (s : State) (a : Nat) (x : Fld) (v : Nat) : (s.setF a x v).sess = s.sess := rfl
@[simp] theorem State.setF_lock (s : State) (a : Nat) (x : Fld) (v : Nat) : (s.setF a x v).lock = s.lock := rfl
@[simp] theorem State.setF_fuse (s : State) (a : Nat) (x : Fld) (v : Nat) : (s.setF a x v).fuse = s.fuse := rfl
@[simp] theorem State.setF_aud (s : State) (a : Nat) (x : Fld) (v : Nat) : (s.setF a x v).aud = s.aud := rfl
@[simp] theorem State.setF_tim (s : State) (a : Nat) (x : Fld) (v : Nat) : (s.setF a x v).tim = s.tim := rfl
@[simp] theorem State.setF_wktPrev (s : State) (a : Nat) (x : Fld) (v : Nat) : (s.setF a x v).wktPrev = s.wktPrev := rfl
@[simp] theorem State.setF_phs (s : State) (a : Nat) (x : Fld) (v : Nat) : (s.setF a x v).phs = s.phs := rfl
@[simp] theorem State.setF_phLev (s : State) (a : Nat) (x : Fld) (v : Nat) : (s.setF a x v).phLev = s.phLev := rfl
@[simp] theorem State.setF_seq (s : State) (a : Nat) (x : Fld) (v : Nat) : (s.setF a x v).seq = s.seq := rfl
@[simp] theorem State.setF_acts (s : State) (a : Nat) (x : Fld) (v : Nat) : (s.setF a x v).acts = s.acts := rfl
@[simp] theorem State.setF_sync (s : State) (a : Nat) (x : Fld) (v : Nat) : (s.setF a x v).sync = s.sync := rfl
@[simp] theorem State.setF_win (s : State) (a : Nat) (x : Fld) (v : Nat) : (s.setF a x v).win = s.win := rfl
@[simp] theorem State.setF_fdb (s : State) (a : Nat) (x : Fld) (v : Nat) : (s.setF a x v).fdb = s.fdb := rfl
@[simp] theorem State.setF_flw (s : State) (a : Nat) (x : Fld) (v : Nat) : (s.setF a x v).flw = s.flw := rfl
@[simp] theorem State.setF_pipe (s : State) (a : Nat) (x : Fld) (v : Nat) : (s.setF a x v).pipe = s.pipe := rfl
@[simp] theorem State.setF_ruleBad (s : State) (a : Nat) (x : Fld) (v : Nat) : (s.setF a x v).ruleBad = s.ruleBad := rfl
@[simp] theorem State.setF_ruleCnt (s : State) (a : Nat) (x : Fld) (v : Nat) : (s.setF a x v).ruleCnt = s.ruleCnt := rfl
@[simp] theorem State.setF_latch (s : State) (a : Nat) (x : Fld) (v : Nat) : (s.setF a x v).latch = s.latch := rfl
@[simp] theorem State.setF_nextId (s : State) (a : Nat) (x : Fld) (v : Nat) : (s.setF a x v).nextId = s.nextId := rfl
@[simp] theorem State.setF_frames (s : State) (a : Nat) (x : Fld) (v : Nat) : (s.setF a x v).frames = s.frames := rfl
@[simp] theorem State.setF_copies (s : State) (a : Nat) (x : Fld) (v : Nat) : (s.setF a x v).copies = s.copies := rfl
@[simp] theorem State.setF_bankUse (s : State) (a : Nat) (x : Fld) (v : Nat) : (s.setF a x v).bankUse = s.bankUse := rfl
@[simp] theorem State.setF_bankPtr (s : State) (a : Nat) (x : Fld) (v : Nat) : (s.setF a x v).bankPtr = s.bankPtr := rfl
@[simp] theorem State.setF_matcher (s : State) (a : Nat) (x : Fld) (v : Nat) : (s.setF a x v).matcher = s.matcher := rfl
@[simp] theorem State.setF_eraseBad (s : State) (a : Nat) (x : Fld) (v : Nat) : (s.setF a x v).eraseBad = s.eraseBad := rfl
@[simp] theorem State.setF_pcie (s : State) (a : Nat) (x : Fld) (v : Nat) : (s.setF a x v).pcie = s.pcie := rfl
@[simp] theorem State.setF_spilling (s : State) (a : Nat) (x : Fld) (v : Nat) : (s.setF a x v).spilling = s.spilling := rfl
@[simp] theorem State.setF_peatFull (s : State) (a : Nat) (x : Fld) (v : Nat) : (s.setF a x v).peatFull = s.peatFull := rfl
@[simp] theorem State.setF_ports (s : State) (a : Nat) (x : Fld) (v : Nat) : (s.setF a x v).ports = s.ports := rfl
@[simp] theorem State.setF_credit (s : State) (a : Nat) (x : Fld) (v : Nat) : (s.setF a x v).credit = s.credit := rfl
@[simp] theorem State.setF_wfq (s : State) (a : Nat) (x : Fld) (v : Nat) : (s.setF a x v).wfq = s.wfq := rfl
@[simp] theorem State.setF_wfqV (s : State) (a : Nat) (x : Fld) (v : Nat) : (s.setF a x v).wfqV = s.wfqV := rfl
@[simp] theorem State.setF_meters (s : State) (a : Nat) (x : Fld) (v : Nat) : (s.setF a x v).meters = s.meters := rfl
@[simp] theorem State.setF_mib (s : State) (a : Nat) (x : Fld) (v : Nat) : (s.setF a x v).mib = s.mib := rfl
@[simp] theorem State.setF_sa (s : State) (a : Nat) (x : Fld) (v : Nat) : (s.setF a x v).sa = s.sa := rfl
@[simp] theorem State.setF_rxLast (s : State) (a : Nat) (x : Fld) (v : Nat) : (s.setF a x v).rxLast = s.rxLast := rfl
@[simp] theorem State.setF_cipMib (s : State) (a : Nat) (x : Fld) (v : Nat) : (s.setF a x v).cipMib = s.cipMib := rfl
@[simp] theorem State.setF_cjobs (s : State) (a : Nat) (x : Fld) (v : Nat) : (s.setF a x v).cjobs = s.cjobs := rfl
@[simp] theorem State.setF_ringPtr (s : State) (a : Nat) (x : Fld) (v : Nat) : (s.setF a x v).ringPtr = s.ringPtr := rfl
@[simp] theorem State.setF_pcieGen (s : State) (a : Nat) (x : Fld) (v : Nat) : (s.setF a x v).pcieGen = s.pcieGen := rfl
@[simp] theorem State.setF_mdio (s : State) (a : Nat) (x : Fld) (v : Nat) : (s.setF a x v).mdio = s.mdio := rfl
@[simp] theorem State.setF_fre (s : State) (a : Nat) (x : Fld) (v : Nat) : (s.setF a x v).fre = s.fre := rfl
@[simp] theorem State.setF_sram (s : State) (a : Nat) (x : Fld) (v : Nat) : (s.setF a x v).sram = s.sram := rfl
@[simp] theorem State.setF_can (s : State) (a : Nat) (x : Fld) (v : Nat) : (s.setF a x v).can = s.can := rfl
@[simp] theorem State.setF_lin (s : State) (a : Nat) (x : Fld) (v : Nat) : (s.setF a x v).lin = s.lin := rfl
@[simp] theorem State.setF_msgs (s : State) (a : Nat) (x : Fld) (v : Nat) : (s.setF a x v).msgs = s.msgs := rfl
@[simp] theorem State.setF_inq (s : State) (a : Nat) (x : Fld) (v : Nat) : (s.setF a x v).inq = s.inq := rfl
@[simp] theorem State.setF_held (s : State) (a : Nat) (x : Fld) (v : Nat) : (s.setF a x v).held = s.held := rfl
@[simp] theorem State.setF_batch (s : State) (a : Nat) (x : Fld) (v : Nat) : (s.setF a x v).batch = s.batch := rfl
@[simp] theorem State.setF_sealedQ (s : State) (a : Nat) (x : Fld) (v : Nat) : (s.setF a x v).sealedQ = s.sealedQ := rfl
@[simp] theorem State.setF_rxStr (s : State) (a : Nat) (x : Fld) (v : Nat) : (s.setF a x v).rxStr = s.rxStr := rfl
@[simp] theorem State.setF_carr (s : State) (a : Nat) (x : Fld) (v : Nat) : (s.setF a x v).carr = s.carr := rfl
@[simp] theorem State.setF_dram (s : State) (a : Nat) (x : Fld) (v : Nat) : (s.setF a x v).dram = s.dram := rfl
@[simp] theorem State.setF_pair (s : State) (a : Nat) (x : Fld) (v : Nat) : (s.setF a x v).pair = s.pair := rfl
@[simp] theorem State.setF_pwr (s : State) (a : Nat) (x : Fld) (v : Nat) : (s.setF a x v).pwr = s.pwr := rfl
@[simp] theorem State.setF_boot (s : State) (a : Nat) (x : Fld) (v : Nat) : (s.setF a x v).boot = s.boot := rfl
@[simp] theorem State.setF_flash (s : State) (a : Nat) (x : Fld) (v : Nat) : (s.setF a x v).flash = s.flash := rfl
@[simp] theorem State.setF_jtag (s : State) (a : Nat) (x : Fld) (v : Nat) : (s.setF a x v).jtag = s.jtag := rfl
@[simp] theorem State.setF_mon (s : State) (a : Nat) (x : Fld) (v : Nat) : (s.setF a x v).mon = s.mon := rfl

@[simp] theorem State.setFs_pending (s : State) (a : Nat) (l : List (Fld × Nat)) : (s.setFs a l).pending = s.pending := rfl
@[simp] theorem State.setFs_now (s : State) (a : Nat) (l : List (Fld × Nat)) : (s.setFs a l).now = s.now := rfl
@[simp] theorem State.setFs_freeIdx (s : State) (a : Nat) (l : List (Fld × Nat)) : (s.setFs a l).freeIdx = s.freeIdx := rfl
@[simp] theorem State.setFs_out (s : State) (a : Nat) (l : List (Fld × Nat)) : (s.setFs a l).out = s.out := rfl
@[simp] theorem State.setFs_par (s : State) (a : Nat) (l : List (Fld × Nat)) : (s.setFs a l).par = s.par := rfl
@[simp] theorem State.setFs_guards (s : State) (a : Nat) (l : List (Fld × Nat)) : (s.setFs a l).guards = s.guards := rfl
@[simp] theorem State.setFs_evt (s : State) (a : Nat) (l : List (Fld × Nat)) : (s.setFs a l).evt = s.evt := rfl
@[simp] theorem State.setFs_sess (s : State) (a : Nat) (l : List (Fld × Nat)) : (s.setFs a l).sess = s.sess := rfl
@[simp] theorem State.setFs_lock (s : State) (a : Nat) (l : List (Fld × Nat)) : (s.setFs a l).lock = s.lock := rfl
@[simp] theorem State.setFs_fuse (s : State) (a : Nat) (l : List (Fld × Nat)) : (s.setFs a l).fuse = s.fuse := rfl
@[simp] theorem State.setFs_aud (s : State) (a : Nat) (l : List (Fld × Nat)) : (s.setFs a l).aud = s.aud := rfl
@[simp] theorem State.setFs_tim (s : State) (a : Nat) (l : List (Fld × Nat)) : (s.setFs a l).tim = s.tim := rfl
@[simp] theorem State.setFs_wktPrev (s : State) (a : Nat) (l : List (Fld × Nat)) : (s.setFs a l).wktPrev = s.wktPrev := rfl
@[simp] theorem State.setFs_phs (s : State) (a : Nat) (l : List (Fld × Nat)) : (s.setFs a l).phs = s.phs := rfl
@[simp] theorem State.setFs_phLev (s : State) (a : Nat) (l : List (Fld × Nat)) : (s.setFs a l).phLev = s.phLev := rfl
@[simp] theorem State.setFs_seq (s : State) (a : Nat) (l : List (Fld × Nat)) : (s.setFs a l).seq = s.seq := rfl
@[simp] theorem State.setFs_acts (s : State) (a : Nat) (l : List (Fld × Nat)) : (s.setFs a l).acts = s.acts := rfl
@[simp] theorem State.setFs_sync (s : State) (a : Nat) (l : List (Fld × Nat)) : (s.setFs a l).sync = s.sync := rfl
@[simp] theorem State.setFs_win (s : State) (a : Nat) (l : List (Fld × Nat)) : (s.setFs a l).win = s.win := rfl
@[simp] theorem State.setFs_fdb (s : State) (a : Nat) (l : List (Fld × Nat)) : (s.setFs a l).fdb = s.fdb := rfl
@[simp] theorem State.setFs_flw (s : State) (a : Nat) (l : List (Fld × Nat)) : (s.setFs a l).flw = s.flw := rfl
@[simp] theorem State.setFs_pipe (s : State) (a : Nat) (l : List (Fld × Nat)) : (s.setFs a l).pipe = s.pipe := rfl
@[simp] theorem State.setFs_ruleBad (s : State) (a : Nat) (l : List (Fld × Nat)) : (s.setFs a l).ruleBad = s.ruleBad := rfl
@[simp] theorem State.setFs_ruleCnt (s : State) (a : Nat) (l : List (Fld × Nat)) : (s.setFs a l).ruleCnt = s.ruleCnt := rfl
@[simp] theorem State.setFs_latch (s : State) (a : Nat) (l : List (Fld × Nat)) : (s.setFs a l).latch = s.latch := rfl
@[simp] theorem State.setFs_nextId (s : State) (a : Nat) (l : List (Fld × Nat)) : (s.setFs a l).nextId = s.nextId := rfl
@[simp] theorem State.setFs_frames (s : State) (a : Nat) (l : List (Fld × Nat)) : (s.setFs a l).frames = s.frames := rfl
@[simp] theorem State.setFs_copies (s : State) (a : Nat) (l : List (Fld × Nat)) : (s.setFs a l).copies = s.copies := rfl
@[simp] theorem State.setFs_bankUse (s : State) (a : Nat) (l : List (Fld × Nat)) : (s.setFs a l).bankUse = s.bankUse := rfl
@[simp] theorem State.setFs_bankPtr (s : State) (a : Nat) (l : List (Fld × Nat)) : (s.setFs a l).bankPtr = s.bankPtr := rfl
@[simp] theorem State.setFs_matcher (s : State) (a : Nat) (l : List (Fld × Nat)) : (s.setFs a l).matcher = s.matcher := rfl
@[simp] theorem State.setFs_eraseBad (s : State) (a : Nat) (l : List (Fld × Nat)) : (s.setFs a l).eraseBad = s.eraseBad := rfl
@[simp] theorem State.setFs_pcie (s : State) (a : Nat) (l : List (Fld × Nat)) : (s.setFs a l).pcie = s.pcie := rfl
@[simp] theorem State.setFs_spilling (s : State) (a : Nat) (l : List (Fld × Nat)) : (s.setFs a l).spilling = s.spilling := rfl
@[simp] theorem State.setFs_peatFull (s : State) (a : Nat) (l : List (Fld × Nat)) : (s.setFs a l).peatFull = s.peatFull := rfl
@[simp] theorem State.setFs_ports (s : State) (a : Nat) (l : List (Fld × Nat)) : (s.setFs a l).ports = s.ports := rfl
@[simp] theorem State.setFs_credit (s : State) (a : Nat) (l : List (Fld × Nat)) : (s.setFs a l).credit = s.credit := rfl
@[simp] theorem State.setFs_wfq (s : State) (a : Nat) (l : List (Fld × Nat)) : (s.setFs a l).wfq = s.wfq := rfl
@[simp] theorem State.setFs_wfqV (s : State) (a : Nat) (l : List (Fld × Nat)) : (s.setFs a l).wfqV = s.wfqV := rfl
@[simp] theorem State.setFs_meters (s : State) (a : Nat) (l : List (Fld × Nat)) : (s.setFs a l).meters = s.meters := rfl
@[simp] theorem State.setFs_mib (s : State) (a : Nat) (l : List (Fld × Nat)) : (s.setFs a l).mib = s.mib := rfl
@[simp] theorem State.setFs_sa (s : State) (a : Nat) (l : List (Fld × Nat)) : (s.setFs a l).sa = s.sa := rfl
@[simp] theorem State.setFs_rxLast (s : State) (a : Nat) (l : List (Fld × Nat)) : (s.setFs a l).rxLast = s.rxLast := rfl
@[simp] theorem State.setFs_cipMib (s : State) (a : Nat) (l : List (Fld × Nat)) : (s.setFs a l).cipMib = s.cipMib := rfl
@[simp] theorem State.setFs_cjobs (s : State) (a : Nat) (l : List (Fld × Nat)) : (s.setFs a l).cjobs = s.cjobs := rfl
@[simp] theorem State.setFs_ringPtr (s : State) (a : Nat) (l : List (Fld × Nat)) : (s.setFs a l).ringPtr = s.ringPtr := rfl
@[simp] theorem State.setFs_pcieGen (s : State) (a : Nat) (l : List (Fld × Nat)) : (s.setFs a l).pcieGen = s.pcieGen := rfl
@[simp] theorem State.setFs_mdio (s : State) (a : Nat) (l : List (Fld × Nat)) : (s.setFs a l).mdio = s.mdio := rfl
@[simp] theorem State.setFs_fre (s : State) (a : Nat) (l : List (Fld × Nat)) : (s.setFs a l).fre = s.fre := rfl
@[simp] theorem State.setFs_sram (s : State) (a : Nat) (l : List (Fld × Nat)) : (s.setFs a l).sram = s.sram := rfl
@[simp] theorem State.setFs_can (s : State) (a : Nat) (l : List (Fld × Nat)) : (s.setFs a l).can = s.can := rfl
@[simp] theorem State.setFs_lin (s : State) (a : Nat) (l : List (Fld × Nat)) : (s.setFs a l).lin = s.lin := rfl
@[simp] theorem State.setFs_msgs (s : State) (a : Nat) (l : List (Fld × Nat)) : (s.setFs a l).msgs = s.msgs := rfl
@[simp] theorem State.setFs_inq (s : State) (a : Nat) (l : List (Fld × Nat)) : (s.setFs a l).inq = s.inq := rfl
@[simp] theorem State.setFs_held (s : State) (a : Nat) (l : List (Fld × Nat)) : (s.setFs a l).held = s.held := rfl
@[simp] theorem State.setFs_batch (s : State) (a : Nat) (l : List (Fld × Nat)) : (s.setFs a l).batch = s.batch := rfl
@[simp] theorem State.setFs_sealedQ (s : State) (a : Nat) (l : List (Fld × Nat)) : (s.setFs a l).sealedQ = s.sealedQ := rfl
@[simp] theorem State.setFs_rxStr (s : State) (a : Nat) (l : List (Fld × Nat)) : (s.setFs a l).rxStr = s.rxStr := rfl
@[simp] theorem State.setFs_carr (s : State) (a : Nat) (l : List (Fld × Nat)) : (s.setFs a l).carr = s.carr := rfl
@[simp] theorem State.setFs_dram (s : State) (a : Nat) (l : List (Fld × Nat)) : (s.setFs a l).dram = s.dram := rfl
@[simp] theorem State.setFs_pair (s : State) (a : Nat) (l : List (Fld × Nat)) : (s.setFs a l).pair = s.pair := rfl
@[simp] theorem State.setFs_pwr (s : State) (a : Nat) (l : List (Fld × Nat)) : (s.setFs a l).pwr = s.pwr := rfl
@[simp] theorem State.setFs_boot (s : State) (a : Nat) (l : List (Fld × Nat)) : (s.setFs a l).boot = s.boot := rfl
@[simp] theorem State.setFs_flash (s : State) (a : Nat) (l : List (Fld × Nat)) : (s.setFs a l).flash = s.flash := rfl
@[simp] theorem State.setFs_jtag (s : State) (a : Nat) (l : List (Fld × Nat)) : (s.setFs a l).jtag = s.jtag := rfl
@[simp] theorem State.setFs_mon (s : State) (a : Nat) (l : List (Fld × Nat)) : (s.setFs a l).mon = s.mon := rfl

@[simp] theorem State.bump_pending (s : State) (a : Nat) (x : Fld) : (s.bump a x).pending = s.pending := rfl
@[simp] theorem State.bump_now (s : State) (a : Nat) (x : Fld) : (s.bump a x).now = s.now := rfl
@[simp] theorem State.bump_freeIdx (s : State) (a : Nat) (x : Fld) : (s.bump a x).freeIdx = s.freeIdx := rfl
@[simp] theorem State.bump_out (s : State) (a : Nat) (x : Fld) : (s.bump a x).out = s.out := rfl
@[simp] theorem State.bump_par (s : State) (a : Nat) (x : Fld) : (s.bump a x).par = s.par := rfl
@[simp] theorem State.bump_guards (s : State) (a : Nat) (x : Fld) : (s.bump a x).guards = s.guards := rfl
@[simp] theorem State.bump_evt (s : State) (a : Nat) (x : Fld) : (s.bump a x).evt = s.evt := rfl
@[simp] theorem State.bump_sess (s : State) (a : Nat) (x : Fld) : (s.bump a x).sess = s.sess := rfl
@[simp] theorem State.bump_lock (s : State) (a : Nat) (x : Fld) : (s.bump a x).lock = s.lock := rfl
@[simp] theorem State.bump_fuse (s : State) (a : Nat) (x : Fld) : (s.bump a x).fuse = s.fuse := rfl
@[simp] theorem State.bump_aud (s : State) (a : Nat) (x : Fld) : (s.bump a x).aud = s.aud := rfl
@[simp] theorem State.bump_tim (s : State) (a : Nat) (x : Fld) : (s.bump a x).tim = s.tim := rfl
@[simp] theorem State.bump_wktPrev (s : State) (a : Nat) (x : Fld) : (s.bump a x).wktPrev = s.wktPrev := rfl
@[simp] theorem State.bump_phs (s : State) (a : Nat) (x : Fld) : (s.bump a x).phs = s.phs := rfl
@[simp] theorem State.bump_phLev (s : State) (a : Nat) (x : Fld) : (s.bump a x).phLev = s.phLev := rfl
@[simp] theorem State.bump_seq (s : State) (a : Nat) (x : Fld) : (s.bump a x).seq = s.seq := rfl
@[simp] theorem State.bump_acts (s : State) (a : Nat) (x : Fld) : (s.bump a x).acts = s.acts := rfl
@[simp] theorem State.bump_sync (s : State) (a : Nat) (x : Fld) : (s.bump a x).sync = s.sync := rfl
@[simp] theorem State.bump_win (s : State) (a : Nat) (x : Fld) : (s.bump a x).win = s.win := rfl
@[simp] theorem State.bump_fdb (s : State) (a : Nat) (x : Fld) : (s.bump a x).fdb = s.fdb := rfl
@[simp] theorem State.bump_flw (s : State) (a : Nat) (x : Fld) : (s.bump a x).flw = s.flw := rfl
@[simp] theorem State.bump_pipe (s : State) (a : Nat) (x : Fld) : (s.bump a x).pipe = s.pipe := rfl
@[simp] theorem State.bump_ruleBad (s : State) (a : Nat) (x : Fld) : (s.bump a x).ruleBad = s.ruleBad := rfl
@[simp] theorem State.bump_ruleCnt (s : State) (a : Nat) (x : Fld) : (s.bump a x).ruleCnt = s.ruleCnt := rfl
@[simp] theorem State.bump_latch (s : State) (a : Nat) (x : Fld) : (s.bump a x).latch = s.latch := rfl
@[simp] theorem State.bump_nextId (s : State) (a : Nat) (x : Fld) : (s.bump a x).nextId = s.nextId := rfl
@[simp] theorem State.bump_frames (s : State) (a : Nat) (x : Fld) : (s.bump a x).frames = s.frames := rfl
@[simp] theorem State.bump_copies (s : State) (a : Nat) (x : Fld) : (s.bump a x).copies = s.copies := rfl
@[simp] theorem State.bump_bankUse (s : State) (a : Nat) (x : Fld) : (s.bump a x).bankUse = s.bankUse := rfl
@[simp] theorem State.bump_bankPtr (s : State) (a : Nat) (x : Fld) : (s.bump a x).bankPtr = s.bankPtr := rfl
@[simp] theorem State.bump_matcher (s : State) (a : Nat) (x : Fld) : (s.bump a x).matcher = s.matcher := rfl
@[simp] theorem State.bump_eraseBad (s : State) (a : Nat) (x : Fld) : (s.bump a x).eraseBad = s.eraseBad := rfl
@[simp] theorem State.bump_pcie (s : State) (a : Nat) (x : Fld) : (s.bump a x).pcie = s.pcie := rfl
@[simp] theorem State.bump_spilling (s : State) (a : Nat) (x : Fld) : (s.bump a x).spilling = s.spilling := rfl
@[simp] theorem State.bump_peatFull (s : State) (a : Nat) (x : Fld) : (s.bump a x).peatFull = s.peatFull := rfl
@[simp] theorem State.bump_ports (s : State) (a : Nat) (x : Fld) : (s.bump a x).ports = s.ports := rfl
@[simp] theorem State.bump_credit (s : State) (a : Nat) (x : Fld) : (s.bump a x).credit = s.credit := rfl
@[simp] theorem State.bump_wfq (s : State) (a : Nat) (x : Fld) : (s.bump a x).wfq = s.wfq := rfl
@[simp] theorem State.bump_wfqV (s : State) (a : Nat) (x : Fld) : (s.bump a x).wfqV = s.wfqV := rfl
@[simp] theorem State.bump_meters (s : State) (a : Nat) (x : Fld) : (s.bump a x).meters = s.meters := rfl
@[simp] theorem State.bump_mib (s : State) (a : Nat) (x : Fld) : (s.bump a x).mib = s.mib := rfl
@[simp] theorem State.bump_sa (s : State) (a : Nat) (x : Fld) : (s.bump a x).sa = s.sa := rfl
@[simp] theorem State.bump_rxLast (s : State) (a : Nat) (x : Fld) : (s.bump a x).rxLast = s.rxLast := rfl
@[simp] theorem State.bump_cipMib (s : State) (a : Nat) (x : Fld) : (s.bump a x).cipMib = s.cipMib := rfl
@[simp] theorem State.bump_cjobs (s : State) (a : Nat) (x : Fld) : (s.bump a x).cjobs = s.cjobs := rfl
@[simp] theorem State.bump_ringPtr (s : State) (a : Nat) (x : Fld) : (s.bump a x).ringPtr = s.ringPtr := rfl
@[simp] theorem State.bump_pcieGen (s : State) (a : Nat) (x : Fld) : (s.bump a x).pcieGen = s.pcieGen := rfl
@[simp] theorem State.bump_mdio (s : State) (a : Nat) (x : Fld) : (s.bump a x).mdio = s.mdio := rfl
@[simp] theorem State.bump_fre (s : State) (a : Nat) (x : Fld) : (s.bump a x).fre = s.fre := rfl
@[simp] theorem State.bump_sram (s : State) (a : Nat) (x : Fld) : (s.bump a x).sram = s.sram := rfl
@[simp] theorem State.bump_can (s : State) (a : Nat) (x : Fld) : (s.bump a x).can = s.can := rfl
@[simp] theorem State.bump_lin (s : State) (a : Nat) (x : Fld) : (s.bump a x).lin = s.lin := rfl
@[simp] theorem State.bump_msgs (s : State) (a : Nat) (x : Fld) : (s.bump a x).msgs = s.msgs := rfl
@[simp] theorem State.bump_inq (s : State) (a : Nat) (x : Fld) : (s.bump a x).inq = s.inq := rfl
@[simp] theorem State.bump_held (s : State) (a : Nat) (x : Fld) : (s.bump a x).held = s.held := rfl
@[simp] theorem State.bump_batch (s : State) (a : Nat) (x : Fld) : (s.bump a x).batch = s.batch := rfl
@[simp] theorem State.bump_sealedQ (s : State) (a : Nat) (x : Fld) : (s.bump a x).sealedQ = s.sealedQ := rfl
@[simp] theorem State.bump_rxStr (s : State) (a : Nat) (x : Fld) : (s.bump a x).rxStr = s.rxStr := rfl
@[simp] theorem State.bump_carr (s : State) (a : Nat) (x : Fld) : (s.bump a x).carr = s.carr := rfl
@[simp] theorem State.bump_dram (s : State) (a : Nat) (x : Fld) : (s.bump a x).dram = s.dram := rfl
@[simp] theorem State.bump_pair (s : State) (a : Nat) (x : Fld) : (s.bump a x).pair = s.pair := rfl
@[simp] theorem State.bump_pwr (s : State) (a : Nat) (x : Fld) : (s.bump a x).pwr = s.pwr := rfl
@[simp] theorem State.bump_boot (s : State) (a : Nat) (x : Fld) : (s.bump a x).boot = s.boot := rfl
@[simp] theorem State.bump_flash (s : State) (a : Nat) (x : Fld) : (s.bump a x).flash = s.flash := rfl
@[simp] theorem State.bump_jtag (s : State) (a : Nat) (x : Fld) : (s.bump a x).jtag = s.jtag := rfl
@[simp] theorem State.bump_mon (s : State) (a : Nat) (x : Fld) : (s.bump a x).mon = s.mon := rfl

@[simp] theorem State.emit_pending (s : State) (o : Output) : (s.emit o).pending = s.pending := rfl
@[simp] theorem State.emit_now (s : State) (o : Output) : (s.emit o).now = s.now := rfl
@[simp] theorem State.emit_freeIdx (s : State) (o : Output) : (s.emit o).freeIdx = s.freeIdx := rfl
@[simp] theorem State.emit_regs (s : State) (o : Output) : (s.emit o).regs = s.regs := rfl
@[simp] theorem State.emit_par (s : State) (o : Output) : (s.emit o).par = s.par := rfl
@[simp] theorem State.emit_guards (s : State) (o : Output) : (s.emit o).guards = s.guards := rfl
@[simp] theorem State.emit_evt (s : State) (o : Output) : (s.emit o).evt = s.evt := rfl
@[simp] theorem State.emit_sess (s : State) (o : Output) : (s.emit o).sess = s.sess := rfl
@[simp] theorem State.emit_lock (s : State) (o : Output) : (s.emit o).lock = s.lock := rfl
@[simp] theorem State.emit_fuse (s : State) (o : Output) : (s.emit o).fuse = s.fuse := rfl
@[simp] theorem State.emit_aud (s : State) (o : Output) : (s.emit o).aud = s.aud := rfl
@[simp] theorem State.emit_tim (s : State) (o : Output) : (s.emit o).tim = s.tim := rfl
@[simp] theorem State.emit_wktPrev (s : State) (o : Output) : (s.emit o).wktPrev = s.wktPrev := rfl
@[simp] theorem State.emit_phs (s : State) (o : Output) : (s.emit o).phs = s.phs := rfl
@[simp] theorem State.emit_phLev (s : State) (o : Output) : (s.emit o).phLev = s.phLev := rfl
@[simp] theorem State.emit_seq (s : State) (o : Output) : (s.emit o).seq = s.seq := rfl
@[simp] theorem State.emit_acts (s : State) (o : Output) : (s.emit o).acts = s.acts := rfl
@[simp] theorem State.emit_sync (s : State) (o : Output) : (s.emit o).sync = s.sync := rfl
@[simp] theorem State.emit_win (s : State) (o : Output) : (s.emit o).win = s.win := rfl
@[simp] theorem State.emit_fdb (s : State) (o : Output) : (s.emit o).fdb = s.fdb := rfl
@[simp] theorem State.emit_flw (s : State) (o : Output) : (s.emit o).flw = s.flw := rfl
@[simp] theorem State.emit_pipe (s : State) (o : Output) : (s.emit o).pipe = s.pipe := rfl
@[simp] theorem State.emit_ruleBad (s : State) (o : Output) : (s.emit o).ruleBad = s.ruleBad := rfl
@[simp] theorem State.emit_ruleCnt (s : State) (o : Output) : (s.emit o).ruleCnt = s.ruleCnt := rfl
@[simp] theorem State.emit_latch (s : State) (o : Output) : (s.emit o).latch = s.latch := rfl
@[simp] theorem State.emit_nextId (s : State) (o : Output) : (s.emit o).nextId = s.nextId := rfl
@[simp] theorem State.emit_frames (s : State) (o : Output) : (s.emit o).frames = s.frames := rfl
@[simp] theorem State.emit_copies (s : State) (o : Output) : (s.emit o).copies = s.copies := rfl
@[simp] theorem State.emit_bankUse (s : State) (o : Output) : (s.emit o).bankUse = s.bankUse := rfl
@[simp] theorem State.emit_bankPtr (s : State) (o : Output) : (s.emit o).bankPtr = s.bankPtr := rfl
@[simp] theorem State.emit_matcher (s : State) (o : Output) : (s.emit o).matcher = s.matcher := rfl
@[simp] theorem State.emit_eraseBad (s : State) (o : Output) : (s.emit o).eraseBad = s.eraseBad := rfl
@[simp] theorem State.emit_pcie (s : State) (o : Output) : (s.emit o).pcie = s.pcie := rfl
@[simp] theorem State.emit_spilling (s : State) (o : Output) : (s.emit o).spilling = s.spilling := rfl
@[simp] theorem State.emit_peatFull (s : State) (o : Output) : (s.emit o).peatFull = s.peatFull := rfl
@[simp] theorem State.emit_ports (s : State) (o : Output) : (s.emit o).ports = s.ports := rfl
@[simp] theorem State.emit_credit (s : State) (o : Output) : (s.emit o).credit = s.credit := rfl
@[simp] theorem State.emit_wfq (s : State) (o : Output) : (s.emit o).wfq = s.wfq := rfl
@[simp] theorem State.emit_wfqV (s : State) (o : Output) : (s.emit o).wfqV = s.wfqV := rfl
@[simp] theorem State.emit_meters (s : State) (o : Output) : (s.emit o).meters = s.meters := rfl
@[simp] theorem State.emit_mib (s : State) (o : Output) : (s.emit o).mib = s.mib := rfl
@[simp] theorem State.emit_sa (s : State) (o : Output) : (s.emit o).sa = s.sa := rfl
@[simp] theorem State.emit_rxLast (s : State) (o : Output) : (s.emit o).rxLast = s.rxLast := rfl
@[simp] theorem State.emit_cipMib (s : State) (o : Output) : (s.emit o).cipMib = s.cipMib := rfl
@[simp] theorem State.emit_cjobs (s : State) (o : Output) : (s.emit o).cjobs = s.cjobs := rfl
@[simp] theorem State.emit_ringPtr (s : State) (o : Output) : (s.emit o).ringPtr = s.ringPtr := rfl
@[simp] theorem State.emit_pcieGen (s : State) (o : Output) : (s.emit o).pcieGen = s.pcieGen := rfl
@[simp] theorem State.emit_mdio (s : State) (o : Output) : (s.emit o).mdio = s.mdio := rfl
@[simp] theorem State.emit_fre (s : State) (o : Output) : (s.emit o).fre = s.fre := rfl
@[simp] theorem State.emit_sram (s : State) (o : Output) : (s.emit o).sram = s.sram := rfl
@[simp] theorem State.emit_can (s : State) (o : Output) : (s.emit o).can = s.can := rfl
@[simp] theorem State.emit_lin (s : State) (o : Output) : (s.emit o).lin = s.lin := rfl
@[simp] theorem State.emit_msgs (s : State) (o : Output) : (s.emit o).msgs = s.msgs := rfl
@[simp] theorem State.emit_inq (s : State) (o : Output) : (s.emit o).inq = s.inq := rfl
@[simp] theorem State.emit_held (s : State) (o : Output) : (s.emit o).held = s.held := rfl
@[simp] theorem State.emit_batch (s : State) (o : Output) : (s.emit o).batch = s.batch := rfl
@[simp] theorem State.emit_sealedQ (s : State) (o : Output) : (s.emit o).sealedQ = s.sealedQ := rfl
@[simp] theorem State.emit_rxStr (s : State) (o : Output) : (s.emit o).rxStr = s.rxStr := rfl
@[simp] theorem State.emit_carr (s : State) (o : Output) : (s.emit o).carr = s.carr := rfl
@[simp] theorem State.emit_dram (s : State) (o : Output) : (s.emit o).dram = s.dram := rfl
@[simp] theorem State.emit_pair (s : State) (o : Output) : (s.emit o).pair = s.pair := rfl
@[simp] theorem State.emit_pwr (s : State) (o : Output) : (s.emit o).pwr = s.pwr := rfl
@[simp] theorem State.emit_boot (s : State) (o : Output) : (s.emit o).boot = s.boot := rfl
@[simp] theorem State.emit_flash (s : State) (o : Output) : (s.emit o).flash = s.flash := rfl
@[simp] theorem State.emit_jtag (s : State) (o : Output) : (s.emit o).jtag = s.jtag := rfl
@[simp] theorem State.emit_mon (s : State) (o : Output) : (s.emit o).mon = s.mon := rfl

@[simp] theorem State.setEvt_pending (s : State) (n : Nat) (e : EvtSt) : (s.setEvt n e).pending = s.pending := rfl
@[simp] theorem State.setEvt_now (s : State) (n : Nat) (e : EvtSt) : (s.setEvt n e).now = s.now := rfl
@[simp] theorem State.setEvt_freeIdx (s : State) (n : Nat) (e : EvtSt) : (s.setEvt n e).freeIdx = s.freeIdx := rfl
@[simp] theorem State.setEvt_out (s : State) (n : Nat) (e : EvtSt) : (s.setEvt n e).out = s.out := rfl
@[simp] theorem State.setEvt_regs (s : State) (n : Nat) (e : EvtSt) : (s.setEvt n e).regs = s.regs := rfl
@[simp] theorem State.setEvt_par (s : State) (n : Nat) (e : EvtSt) : (s.setEvt n e).par = s.par := rfl
@[simp] theorem State.setEvt_guards (s : State) (n : Nat) (e : EvtSt) : (s.setEvt n e).guards = s.guards := rfl
@[simp] theorem State.setEvt_sess (s : State) (n : Nat) (e : EvtSt) : (s.setEvt n e).sess = s.sess := rfl
@[simp] theorem State.setEvt_lock (s : State) (n : Nat) (e : EvtSt) : (s.setEvt n e).lock = s.lock := rfl
@[simp] theorem State.setEvt_fuse (s : State) (n : Nat) (e : EvtSt) : (s.setEvt n e).fuse = s.fuse := rfl
@[simp] theorem State.setEvt_aud (s : State) (n : Nat) (e : EvtSt) : (s.setEvt n e).aud = s.aud := rfl
@[simp] theorem State.setEvt_tim (s : State) (n : Nat) (e : EvtSt) : (s.setEvt n e).tim = s.tim := rfl
@[simp] theorem State.setEvt_wktPrev (s : State) (n : Nat) (e : EvtSt) : (s.setEvt n e).wktPrev = s.wktPrev := rfl
@[simp] theorem State.setEvt_phs (s : State) (n : Nat) (e : EvtSt) : (s.setEvt n e).phs = s.phs := rfl
@[simp] theorem State.setEvt_phLev (s : State) (n : Nat) (e : EvtSt) : (s.setEvt n e).phLev = s.phLev := rfl
@[simp] theorem State.setEvt_seq (s : State) (n : Nat) (e : EvtSt) : (s.setEvt n e).seq = s.seq := rfl
@[simp] theorem State.setEvt_acts (s : State) (n : Nat) (e : EvtSt) : (s.setEvt n e).acts = s.acts := rfl
@[simp] theorem State.setEvt_sync (s : State) (n : Nat) (e : EvtSt) : (s.setEvt n e).sync = s.sync := rfl
@[simp] theorem State.setEvt_win (s : State) (n : Nat) (e : EvtSt) : (s.setEvt n e).win = s.win := rfl
@[simp] theorem State.setEvt_fdb (s : State) (n : Nat) (e : EvtSt) : (s.setEvt n e).fdb = s.fdb := rfl
@[simp] theorem State.setEvt_flw (s : State) (n : Nat) (e : EvtSt) : (s.setEvt n e).flw = s.flw := rfl
@[simp] theorem State.setEvt_pipe (s : State) (n : Nat) (e : EvtSt) : (s.setEvt n e).pipe = s.pipe := rfl
@[simp] theorem State.setEvt_ruleBad (s : State) (n : Nat) (e : EvtSt) : (s.setEvt n e).ruleBad = s.ruleBad := rfl
@[simp] theorem State.setEvt_ruleCnt (s : State) (n : Nat) (e : EvtSt) : (s.setEvt n e).ruleCnt = s.ruleCnt := rfl
@[simp] theorem State.setEvt_latch (s : State) (n : Nat) (e : EvtSt) : (s.setEvt n e).latch = s.latch := rfl
@[simp] theorem State.setEvt_nextId (s : State) (n : Nat) (e : EvtSt) : (s.setEvt n e).nextId = s.nextId := rfl
@[simp] theorem State.setEvt_frames (s : State) (n : Nat) (e : EvtSt) : (s.setEvt n e).frames = s.frames := rfl
@[simp] theorem State.setEvt_copies (s : State) (n : Nat) (e : EvtSt) : (s.setEvt n e).copies = s.copies := rfl
@[simp] theorem State.setEvt_bankUse (s : State) (n : Nat) (e : EvtSt) : (s.setEvt n e).bankUse = s.bankUse := rfl
@[simp] theorem State.setEvt_bankPtr (s : State) (n : Nat) (e : EvtSt) : (s.setEvt n e).bankPtr = s.bankPtr := rfl
@[simp] theorem State.setEvt_matcher (s : State) (n : Nat) (e : EvtSt) : (s.setEvt n e).matcher = s.matcher := rfl
@[simp] theorem State.setEvt_eraseBad (s : State) (n : Nat) (e : EvtSt) : (s.setEvt n e).eraseBad = s.eraseBad := rfl
@[simp] theorem State.setEvt_pcie (s : State) (n : Nat) (e : EvtSt) : (s.setEvt n e).pcie = s.pcie := rfl
@[simp] theorem State.setEvt_spilling (s : State) (n : Nat) (e : EvtSt) : (s.setEvt n e).spilling = s.spilling := rfl
@[simp] theorem State.setEvt_peatFull (s : State) (n : Nat) (e : EvtSt) : (s.setEvt n e).peatFull = s.peatFull := rfl
@[simp] theorem State.setEvt_ports (s : State) (n : Nat) (e : EvtSt) : (s.setEvt n e).ports = s.ports := rfl
@[simp] theorem State.setEvt_credit (s : State) (n : Nat) (e : EvtSt) : (s.setEvt n e).credit = s.credit := rfl
@[simp] theorem State.setEvt_wfq (s : State) (n : Nat) (e : EvtSt) : (s.setEvt n e).wfq = s.wfq := rfl
@[simp] theorem State.setEvt_wfqV (s : State) (n : Nat) (e : EvtSt) : (s.setEvt n e).wfqV = s.wfqV := rfl
@[simp] theorem State.setEvt_meters (s : State) (n : Nat) (e : EvtSt) : (s.setEvt n e).meters = s.meters := rfl
@[simp] theorem State.setEvt_mib (s : State) (n : Nat) (e : EvtSt) : (s.setEvt n e).mib = s.mib := rfl
@[simp] theorem State.setEvt_sa (s : State) (n : Nat) (e : EvtSt) : (s.setEvt n e).sa = s.sa := rfl
@[simp] theorem State.setEvt_rxLast (s : State) (n : Nat) (e : EvtSt) : (s.setEvt n e).rxLast = s.rxLast := rfl
@[simp] theorem State.setEvt_cipMib (s : State) (n : Nat) (e : EvtSt) : (s.setEvt n e).cipMib = s.cipMib := rfl
@[simp] theorem State.setEvt_cjobs (s : State) (n : Nat) (e : EvtSt) : (s.setEvt n e).cjobs = s.cjobs := rfl
@[simp] theorem State.setEvt_ringPtr (s : State) (n : Nat) (e : EvtSt) : (s.setEvt n e).ringPtr = s.ringPtr := rfl
@[simp] theorem State.setEvt_pcieGen (s : State) (n : Nat) (e : EvtSt) : (s.setEvt n e).pcieGen = s.pcieGen := rfl
@[simp] theorem State.setEvt_mdio (s : State) (n : Nat) (e : EvtSt) : (s.setEvt n e).mdio = s.mdio := rfl
@[simp] theorem State.setEvt_fre (s : State) (n : Nat) (e : EvtSt) : (s.setEvt n e).fre = s.fre := rfl
@[simp] theorem State.setEvt_sram (s : State) (n : Nat) (e : EvtSt) : (s.setEvt n e).sram = s.sram := rfl
@[simp] theorem State.setEvt_can (s : State) (n : Nat) (e : EvtSt) : (s.setEvt n e).can = s.can := rfl
@[simp] theorem State.setEvt_lin (s : State) (n : Nat) (e : EvtSt) : (s.setEvt n e).lin = s.lin := rfl
@[simp] theorem State.setEvt_msgs (s : State) (n : Nat) (e : EvtSt) : (s.setEvt n e).msgs = s.msgs := rfl
@[simp] theorem State.setEvt_inq (s : State) (n : Nat) (e : EvtSt) : (s.setEvt n e).inq = s.inq := rfl
@[simp] theorem State.setEvt_held (s : State) (n : Nat) (e : EvtSt) : (s.setEvt n e).held = s.held := rfl
@[simp] theorem State.setEvt_batch (s : State) (n : Nat) (e : EvtSt) : (s.setEvt n e).batch = s.batch := rfl
@[simp] theorem State.setEvt_sealedQ (s : State) (n : Nat) (e : EvtSt) : (s.setEvt n e).sealedQ = s.sealedQ := rfl
@[simp] theorem State.setEvt_rxStr (s : State) (n : Nat) (e : EvtSt) : (s.setEvt n e).rxStr = s.rxStr := rfl
@[simp] theorem State.setEvt_carr (s : State) (n : Nat) (e : EvtSt) : (s.setEvt n e).carr = s.carr := rfl
@[simp] theorem State.setEvt_dram (s : State) (n : Nat) (e : EvtSt) : (s.setEvt n e).dram = s.dram := rfl
@[simp] theorem State.setEvt_pair (s : State) (n : Nat) (e : EvtSt) : (s.setEvt n e).pair = s.pair := rfl
@[simp] theorem State.setEvt_pwr (s : State) (n : Nat) (e : EvtSt) : (s.setEvt n e).pwr = s.pwr := rfl
@[simp] theorem State.setEvt_boot (s : State) (n : Nat) (e : EvtSt) : (s.setEvt n e).boot = s.boot := rfl
@[simp] theorem State.setEvt_flash (s : State) (n : Nat) (e : EvtSt) : (s.setEvt n e).flash = s.flash := rfl
@[simp] theorem State.setEvt_jtag (s : State) (n : Nat) (e : EvtSt) : (s.setEvt n e).jtag = s.jtag := rfl
@[simp] theorem State.setEvt_mon (s : State) (n : Nat) (e : EvtSt) : (s.setEvt n e).mon = s.mon := rfl

@[simp] theorem State.setSess_pending (s : State) (i : Nat) (x : RoleSess) : (s.setSess i x).pending = s.pending := rfl
@[simp] theorem State.setSess_now (s : State) (i : Nat) (x : RoleSess) : (s.setSess i x).now = s.now := rfl
@[simp] theorem State.setSess_freeIdx (s : State) (i : Nat) (x : RoleSess) : (s.setSess i x).freeIdx = s.freeIdx := rfl
@[simp] theorem State.setSess_out (s : State) (i : Nat) (x : RoleSess) : (s.setSess i x).out = s.out := rfl
@[simp] theorem State.setSess_regs (s : State) (i : Nat) (x : RoleSess) : (s.setSess i x).regs = s.regs := rfl
@[simp] theorem State.setSess_par (s : State) (i : Nat) (x : RoleSess) : (s.setSess i x).par = s.par := rfl
@[simp] theorem State.setSess_guards (s : State) (i : Nat) (x : RoleSess) : (s.setSess i x).guards = s.guards := rfl
@[simp] theorem State.setSess_evt (s : State) (i : Nat) (x : RoleSess) : (s.setSess i x).evt = s.evt := rfl
@[simp] theorem State.setSess_lock (s : State) (i : Nat) (x : RoleSess) : (s.setSess i x).lock = s.lock := rfl
@[simp] theorem State.setSess_fuse (s : State) (i : Nat) (x : RoleSess) : (s.setSess i x).fuse = s.fuse := rfl
@[simp] theorem State.setSess_aud (s : State) (i : Nat) (x : RoleSess) : (s.setSess i x).aud = s.aud := rfl
@[simp] theorem State.setSess_tim (s : State) (i : Nat) (x : RoleSess) : (s.setSess i x).tim = s.tim := rfl
@[simp] theorem State.setSess_wktPrev (s : State) (i : Nat) (x : RoleSess) : (s.setSess i x).wktPrev = s.wktPrev := rfl
@[simp] theorem State.setSess_phs (s : State) (i : Nat) (x : RoleSess) : (s.setSess i x).phs = s.phs := rfl
@[simp] theorem State.setSess_phLev (s : State) (i : Nat) (x : RoleSess) : (s.setSess i x).phLev = s.phLev := rfl
@[simp] theorem State.setSess_seq (s : State) (i : Nat) (x : RoleSess) : (s.setSess i x).seq = s.seq := rfl
@[simp] theorem State.setSess_acts (s : State) (i : Nat) (x : RoleSess) : (s.setSess i x).acts = s.acts := rfl
@[simp] theorem State.setSess_sync (s : State) (i : Nat) (x : RoleSess) : (s.setSess i x).sync = s.sync := rfl
@[simp] theorem State.setSess_win (s : State) (i : Nat) (x : RoleSess) : (s.setSess i x).win = s.win := rfl
@[simp] theorem State.setSess_fdb (s : State) (i : Nat) (x : RoleSess) : (s.setSess i x).fdb = s.fdb := rfl
@[simp] theorem State.setSess_flw (s : State) (i : Nat) (x : RoleSess) : (s.setSess i x).flw = s.flw := rfl
@[simp] theorem State.setSess_pipe (s : State) (i : Nat) (x : RoleSess) : (s.setSess i x).pipe = s.pipe := rfl
@[simp] theorem State.setSess_ruleBad (s : State) (i : Nat) (x : RoleSess) : (s.setSess i x).ruleBad = s.ruleBad := rfl
@[simp] theorem State.setSess_ruleCnt (s : State) (i : Nat) (x : RoleSess) : (s.setSess i x).ruleCnt = s.ruleCnt := rfl
@[simp] theorem State.setSess_latch (s : State) (i : Nat) (x : RoleSess) : (s.setSess i x).latch = s.latch := rfl
@[simp] theorem State.setSess_nextId (s : State) (i : Nat) (x : RoleSess) : (s.setSess i x).nextId = s.nextId := rfl
@[simp] theorem State.setSess_frames (s : State) (i : Nat) (x : RoleSess) : (s.setSess i x).frames = s.frames := rfl
@[simp] theorem State.setSess_copies (s : State) (i : Nat) (x : RoleSess) : (s.setSess i x).copies = s.copies := rfl
@[simp] theorem State.setSess_bankUse (s : State) (i : Nat) (x : RoleSess) : (s.setSess i x).bankUse = s.bankUse := rfl
@[simp] theorem State.setSess_bankPtr (s : State) (i : Nat) (x : RoleSess) : (s.setSess i x).bankPtr = s.bankPtr := rfl
@[simp] theorem State.setSess_matcher (s : State) (i : Nat) (x : RoleSess) : (s.setSess i x).matcher = s.matcher := rfl
@[simp] theorem State.setSess_eraseBad (s : State) (i : Nat) (x : RoleSess) : (s.setSess i x).eraseBad = s.eraseBad := rfl
@[simp] theorem State.setSess_pcie (s : State) (i : Nat) (x : RoleSess) : (s.setSess i x).pcie = s.pcie := rfl
@[simp] theorem State.setSess_spilling (s : State) (i : Nat) (x : RoleSess) : (s.setSess i x).spilling = s.spilling := rfl
@[simp] theorem State.setSess_peatFull (s : State) (i : Nat) (x : RoleSess) : (s.setSess i x).peatFull = s.peatFull := rfl
@[simp] theorem State.setSess_ports (s : State) (i : Nat) (x : RoleSess) : (s.setSess i x).ports = s.ports := rfl
@[simp] theorem State.setSess_credit (s : State) (i : Nat) (x : RoleSess) : (s.setSess i x).credit = s.credit := rfl
@[simp] theorem State.setSess_wfq (s : State) (i : Nat) (x : RoleSess) : (s.setSess i x).wfq = s.wfq := rfl
@[simp] theorem State.setSess_wfqV (s : State) (i : Nat) (x : RoleSess) : (s.setSess i x).wfqV = s.wfqV := rfl
@[simp] theorem State.setSess_meters (s : State) (i : Nat) (x : RoleSess) : (s.setSess i x).meters = s.meters := rfl
@[simp] theorem State.setSess_mib (s : State) (i : Nat) (x : RoleSess) : (s.setSess i x).mib = s.mib := rfl
@[simp] theorem State.setSess_sa (s : State) (i : Nat) (x : RoleSess) : (s.setSess i x).sa = s.sa := rfl
@[simp] theorem State.setSess_rxLast (s : State) (i : Nat) (x : RoleSess) : (s.setSess i x).rxLast = s.rxLast := rfl
@[simp] theorem State.setSess_cipMib (s : State) (i : Nat) (x : RoleSess) : (s.setSess i x).cipMib = s.cipMib := rfl
@[simp] theorem State.setSess_cjobs (s : State) (i : Nat) (x : RoleSess) : (s.setSess i x).cjobs = s.cjobs := rfl
@[simp] theorem State.setSess_ringPtr (s : State) (i : Nat) (x : RoleSess) : (s.setSess i x).ringPtr = s.ringPtr := rfl
@[simp] theorem State.setSess_pcieGen (s : State) (i : Nat) (x : RoleSess) : (s.setSess i x).pcieGen = s.pcieGen := rfl
@[simp] theorem State.setSess_mdio (s : State) (i : Nat) (x : RoleSess) : (s.setSess i x).mdio = s.mdio := rfl
@[simp] theorem State.setSess_fre (s : State) (i : Nat) (x : RoleSess) : (s.setSess i x).fre = s.fre := rfl
@[simp] theorem State.setSess_sram (s : State) (i : Nat) (x : RoleSess) : (s.setSess i x).sram = s.sram := rfl
@[simp] theorem State.setSess_can (s : State) (i : Nat) (x : RoleSess) : (s.setSess i x).can = s.can := rfl
@[simp] theorem State.setSess_lin (s : State) (i : Nat) (x : RoleSess) : (s.setSess i x).lin = s.lin := rfl
@[simp] theorem State.setSess_msgs (s : State) (i : Nat) (x : RoleSess) : (s.setSess i x).msgs = s.msgs := rfl
@[simp] theorem State.setSess_inq (s : State) (i : Nat) (x : RoleSess) : (s.setSess i x).inq = s.inq := rfl
@[simp] theorem State.setSess_held (s : State) (i : Nat) (x : RoleSess) : (s.setSess i x).held = s.held := rfl
@[simp] theorem State.setSess_batch (s : State) (i : Nat) (x : RoleSess) : (s.setSess i x).batch = s.batch := rfl
@[simp] theorem State.setSess_sealedQ (s : State) (i : Nat) (x : RoleSess) : (s.setSess i x).sealedQ = s.sealedQ := rfl
@[simp] theorem State.setSess_rxStr (s : State) (i : Nat) (x : RoleSess) : (s.setSess i x).rxStr = s.rxStr := rfl
@[simp] theorem State.setSess_carr (s : State) (i : Nat) (x : RoleSess) : (s.setSess i x).carr = s.carr := rfl
@[simp] theorem State.setSess_dram (s : State) (i : Nat) (x : RoleSess) : (s.setSess i x).dram = s.dram := rfl
@[simp] theorem State.setSess_pair (s : State) (i : Nat) (x : RoleSess) : (s.setSess i x).pair = s.pair := rfl
@[simp] theorem State.setSess_pwr (s : State) (i : Nat) (x : RoleSess) : (s.setSess i x).pwr = s.pwr := rfl
@[simp] theorem State.setSess_boot (s : State) (i : Nat) (x : RoleSess) : (s.setSess i x).boot = s.boot := rfl
@[simp] theorem State.setSess_flash (s : State) (i : Nat) (x : RoleSess) : (s.setSess i x).flash = s.flash := rfl
@[simp] theorem State.setSess_jtag (s : State) (i : Nat) (x : RoleSess) : (s.setSess i x).jtag = s.jtag := rfl
@[simp] theorem State.setSess_mon (s : State) (i : Nat) (x : RoleSess) : (s.setSess i x).mon = s.mon := rfl

@[simp] theorem State.setLock_pending (s : State) (k : Nat) (x : RoleLock) : (s.setLock k x).pending = s.pending := rfl
@[simp] theorem State.setLock_now (s : State) (k : Nat) (x : RoleLock) : (s.setLock k x).now = s.now := rfl
@[simp] theorem State.setLock_freeIdx (s : State) (k : Nat) (x : RoleLock) : (s.setLock k x).freeIdx = s.freeIdx := rfl
@[simp] theorem State.setLock_out (s : State) (k : Nat) (x : RoleLock) : (s.setLock k x).out = s.out := rfl
@[simp] theorem State.setLock_regs (s : State) (k : Nat) (x : RoleLock) : (s.setLock k x).regs = s.regs := rfl
@[simp] theorem State.setLock_par (s : State) (k : Nat) (x : RoleLock) : (s.setLock k x).par = s.par := rfl
@[simp] theorem State.setLock_guards (s : State) (k : Nat) (x : RoleLock) : (s.setLock k x).guards = s.guards := rfl
@[simp] theorem State.setLock_evt (s : State) (k : Nat) (x : RoleLock) : (s.setLock k x).evt = s.evt := rfl
@[simp] theorem State.setLock_sess (s : State) (k : Nat) (x : RoleLock) : (s.setLock k x).sess = s.sess := rfl
@[simp] theorem State.setLock_fuse (s : State) (k : Nat) (x : RoleLock) : (s.setLock k x).fuse = s.fuse := rfl
@[simp] theorem State.setLock_aud (s : State) (k : Nat) (x : RoleLock) : (s.setLock k x).aud = s.aud := rfl
@[simp] theorem State.setLock_tim (s : State) (k : Nat) (x : RoleLock) : (s.setLock k x).tim = s.tim := rfl
@[simp] theorem State.setLock_wktPrev (s : State) (k : Nat) (x : RoleLock) : (s.setLock k x).wktPrev = s.wktPrev := rfl
@[simp] theorem State.setLock_phs (s : State) (k : Nat) (x : RoleLock) : (s.setLock k x).phs = s.phs := rfl
@[simp] theorem State.setLock_phLev (s : State) (k : Nat) (x : RoleLock) : (s.setLock k x).phLev = s.phLev := rfl
@[simp] theorem State.setLock_seq (s : State) (k : Nat) (x : RoleLock) : (s.setLock k x).seq = s.seq := rfl
@[simp] theorem State.setLock_acts (s : State) (k : Nat) (x : RoleLock) : (s.setLock k x).acts = s.acts := rfl
@[simp] theorem State.setLock_sync (s : State) (k : Nat) (x : RoleLock) : (s.setLock k x).sync = s.sync := rfl
@[simp] theorem State.setLock_win (s : State) (k : Nat) (x : RoleLock) : (s.setLock k x).win = s.win := rfl
@[simp] theorem State.setLock_fdb (s : State) (k : Nat) (x : RoleLock) : (s.setLock k x).fdb = s.fdb := rfl
@[simp] theorem State.setLock_flw (s : State) (k : Nat) (x : RoleLock) : (s.setLock k x).flw = s.flw := rfl
@[simp] theorem State.setLock_pipe (s : State) (k : Nat) (x : RoleLock) : (s.setLock k x).pipe = s.pipe := rfl
@[simp] theorem State.setLock_ruleBad (s : State) (k : Nat) (x : RoleLock) : (s.setLock k x).ruleBad = s.ruleBad := rfl
@[simp] theorem State.setLock_ruleCnt (s : State) (k : Nat) (x : RoleLock) : (s.setLock k x).ruleCnt = s.ruleCnt := rfl
@[simp] theorem State.setLock_latch (s : State) (k : Nat) (x : RoleLock) : (s.setLock k x).latch = s.latch := rfl
@[simp] theorem State.setLock_nextId (s : State) (k : Nat) (x : RoleLock) : (s.setLock k x).nextId = s.nextId := rfl
@[simp] theorem State.setLock_frames (s : State) (k : Nat) (x : RoleLock) : (s.setLock k x).frames = s.frames := rfl
@[simp] theorem State.setLock_copies (s : State) (k : Nat) (x : RoleLock) : (s.setLock k x).copies = s.copies := rfl
@[simp] theorem State.setLock_bankUse (s : State) (k : Nat) (x : RoleLock) : (s.setLock k x).bankUse = s.bankUse := rfl
@[simp] theorem State.setLock_bankPtr (s : State) (k : Nat) (x : RoleLock) : (s.setLock k x).bankPtr = s.bankPtr := rfl
@[simp] theorem State.setLock_matcher (s : State) (k : Nat) (x : RoleLock) : (s.setLock k x).matcher = s.matcher := rfl
@[simp] theorem State.setLock_eraseBad (s : State) (k : Nat) (x : RoleLock) : (s.setLock k x).eraseBad = s.eraseBad := rfl
@[simp] theorem State.setLock_pcie (s : State) (k : Nat) (x : RoleLock) : (s.setLock k x).pcie = s.pcie := rfl
@[simp] theorem State.setLock_spilling (s : State) (k : Nat) (x : RoleLock) : (s.setLock k x).spilling = s.spilling := rfl
@[simp] theorem State.setLock_peatFull (s : State) (k : Nat) (x : RoleLock) : (s.setLock k x).peatFull = s.peatFull := rfl
@[simp] theorem State.setLock_ports (s : State) (k : Nat) (x : RoleLock) : (s.setLock k x).ports = s.ports := rfl
@[simp] theorem State.setLock_credit (s : State) (k : Nat) (x : RoleLock) : (s.setLock k x).credit = s.credit := rfl
@[simp] theorem State.setLock_wfq (s : State) (k : Nat) (x : RoleLock) : (s.setLock k x).wfq = s.wfq := rfl
@[simp] theorem State.setLock_wfqV (s : State) (k : Nat) (x : RoleLock) : (s.setLock k x).wfqV = s.wfqV := rfl
@[simp] theorem State.setLock_meters (s : State) (k : Nat) (x : RoleLock) : (s.setLock k x).meters = s.meters := rfl
@[simp] theorem State.setLock_mib (s : State) (k : Nat) (x : RoleLock) : (s.setLock k x).mib = s.mib := rfl
@[simp] theorem State.setLock_sa (s : State) (k : Nat) (x : RoleLock) : (s.setLock k x).sa = s.sa := rfl
@[simp] theorem State.setLock_rxLast (s : State) (k : Nat) (x : RoleLock) : (s.setLock k x).rxLast = s.rxLast := rfl
@[simp] theorem State.setLock_cipMib (s : State) (k : Nat) (x : RoleLock) : (s.setLock k x).cipMib = s.cipMib := rfl
@[simp] theorem State.setLock_cjobs (s : State) (k : Nat) (x : RoleLock) : (s.setLock k x).cjobs = s.cjobs := rfl
@[simp] theorem State.setLock_ringPtr (s : State) (k : Nat) (x : RoleLock) : (s.setLock k x).ringPtr = s.ringPtr := rfl
@[simp] theorem State.setLock_pcieGen (s : State) (k : Nat) (x : RoleLock) : (s.setLock k x).pcieGen = s.pcieGen := rfl
@[simp] theorem State.setLock_mdio (s : State) (k : Nat) (x : RoleLock) : (s.setLock k x).mdio = s.mdio := rfl
@[simp] theorem State.setLock_fre (s : State) (k : Nat) (x : RoleLock) : (s.setLock k x).fre = s.fre := rfl
@[simp] theorem State.setLock_sram (s : State) (k : Nat) (x : RoleLock) : (s.setLock k x).sram = s.sram := rfl
@[simp] theorem State.setLock_can (s : State) (k : Nat) (x : RoleLock) : (s.setLock k x).can = s.can := rfl
@[simp] theorem State.setLock_lin (s : State) (k : Nat) (x : RoleLock) : (s.setLock k x).lin = s.lin := rfl
@[simp] theorem State.setLock_msgs (s : State) (k : Nat) (x : RoleLock) : (s.setLock k x).msgs = s.msgs := rfl
@[simp] theorem State.setLock_inq (s : State) (k : Nat) (x : RoleLock) : (s.setLock k x).inq = s.inq := rfl
@[simp] theorem State.setLock_held (s : State) (k : Nat) (x : RoleLock) : (s.setLock k x).held = s.held := rfl
@[simp] theorem State.setLock_batch (s : State) (k : Nat) (x : RoleLock) : (s.setLock k x).batch = s.batch := rfl
@[simp] theorem State.setLock_sealedQ (s : State) (k : Nat) (x : RoleLock) : (s.setLock k x).sealedQ = s.sealedQ := rfl
@[simp] theorem State.setLock_rxStr (s : State) (k : Nat) (x : RoleLock) : (s.setLock k x).rxStr = s.rxStr := rfl
@[simp] theorem State.setLock_carr (s : State) (k : Nat) (x : RoleLock) : (s.setLock k x).carr = s.carr := rfl
@[simp] theorem State.setLock_dram (s : State) (k : Nat) (x : RoleLock) : (s.setLock k x).dram = s.dram := rfl
@[simp] theorem State.setLock_pair (s : State) (k : Nat) (x : RoleLock) : (s.setLock k x).pair = s.pair := rfl
@[simp] theorem State.setLock_pwr (s : State) (k : Nat) (x : RoleLock) : (s.setLock k x).pwr = s.pwr := rfl
@[simp] theorem State.setLock_boot (s : State) (k : Nat) (x : RoleLock) : (s.setLock k x).boot = s.boot := rfl
@[simp] theorem State.setLock_flash (s : State) (k : Nat) (x : RoleLock) : (s.setLock k x).flash = s.flash := rfl
@[simp] theorem State.setLock_jtag (s : State) (k : Nat) (x : RoleLock) : (s.setLock k x).jtag = s.jtag := rfl
@[simp] theorem State.setLock_mon (s : State) (k : Nat) (x : RoleLock) : (s.setLock k x).mon = s.mon := rfl

theorem State.setReg_regs (s : State) (a : Nat) (w : Word) : (s.setReg a w).regs = Cells.set resetOf s.regs a w := rfl
theorem State.emit_out (s : State) (o : Output) : (s.emit o).out = o :: s.out := rfl
theorem State.setEvt_evt (s : State) (n : Nat) (e : EvtSt) : (s.setEvt n e).evt = Cells.set (fun _ => {}) s.evt n e := rfl
theorem State.setSess_sess (s : State) (i : Nat) (x : RoleSess) : (s.setSess i x).sess = Cells.set (fun _ => {}) s.sess i x := rfl
theorem State.setLock_lock (s : State) (k : Nat) (x : RoleLock) : (s.setLock k x).lock = Cells.set (fun _ => {}) s.lock k x := rfl

@[simp] theorem State.deliver_pending (s : State) (n : Nat) : (s.deliver n).pending = s.pending := by unfold State.deliver State.msixSend; (repeat' split) <;> rfl
@[simp] theorem State.raise_pending (s : State) (n c i : Nat) : (s.raise n c i).pending = s.pending := by
  unfold State.raise; dsimp only; split <;> [(rw [State.deliver_pending]; rfl); rfl]
@[simp] theorem State.deliver_now (s : State) (n : Nat) : (s.deliver n).now = s.now := by unfold State.deliver State.msixSend; (repeat' split) <;> rfl
@[simp] theorem State.raise_now (s : State) (n c i : Nat) : (s.raise n c i).now = s.now := by
  unfold State.raise; dsimp only; split <;> [(rw [State.deliver_now]; rfl); rfl]
@[simp] theorem State.deliver_freeIdx (s : State) (n : Nat) : (s.deliver n).freeIdx = s.freeIdx := by unfold State.deliver State.msixSend; (repeat' split) <;> rfl
@[simp] theorem State.raise_freeIdx (s : State) (n c i : Nat) : (s.raise n c i).freeIdx = s.freeIdx := by
  unfold State.raise; dsimp only; split <;> [(rw [State.deliver_freeIdx]; rfl); rfl]
@[simp] theorem State.deliver_par (s : State) (n : Nat) : (s.deliver n).par = s.par := by unfold State.deliver State.msixSend; (repeat' split) <;> rfl
@[simp] theorem State.raise_par (s : State) (n c i : Nat) : (s.raise n c i).par = s.par := by
  unfold State.raise; dsimp only; split <;> [(rw [State.deliver_par]; rfl); rfl]
@[simp] theorem State.deliver_guards (s : State) (n : Nat) : (s.deliver n).guards = s.guards := by unfold State.deliver State.msixSend; (repeat' split) <;> rfl
@[simp] theorem State.raise_guards (s : State) (n c i : Nat) : (s.raise n c i).guards = s.guards := by
  unfold State.raise; dsimp only; split <;> [(rw [State.deliver_guards]; rfl); rfl]
@[simp] theorem State.deliver_sess (s : State) (n : Nat) : (s.deliver n).sess = s.sess := by unfold State.deliver State.msixSend; (repeat' split) <;> rfl
@[simp] theorem State.raise_sess (s : State) (n c i : Nat) : (s.raise n c i).sess = s.sess := by
  unfold State.raise; dsimp only; split <;> [(rw [State.deliver_sess]; rfl); rfl]
@[simp] theorem State.deliver_lock (s : State) (n : Nat) : (s.deliver n).lock = s.lock := by unfold State.deliver State.msixSend; (repeat' split) <;> rfl
@[simp] theorem State.raise_lock (s : State) (n c i : Nat) : (s.raise n c i).lock = s.lock := by
  unfold State.raise; dsimp only; split <;> [(rw [State.deliver_lock]; rfl); rfl]
@[simp] theorem State.deliver_fuse (s : State) (n : Nat) : (s.deliver n).fuse = s.fuse := by unfold State.deliver State.msixSend; (repeat' split) <;> rfl
@[simp] theorem State.raise_fuse (s : State) (n c i : Nat) : (s.raise n c i).fuse = s.fuse := by
  unfold State.raise; dsimp only; split <;> [(rw [State.deliver_fuse]; rfl); rfl]
@[simp] theorem State.deliver_aud (s : State) (n : Nat) : (s.deliver n).aud = s.aud := by unfold State.deliver State.msixSend; (repeat' split) <;> rfl
@[simp] theorem State.raise_aud (s : State) (n c i : Nat) : (s.raise n c i).aud = s.aud := by
  unfold State.raise; dsimp only; split <;> [(rw [State.deliver_aud]; rfl); rfl]
@[simp] theorem State.deliver_tim (s : State) (n : Nat) : (s.deliver n).tim = s.tim := by unfold State.deliver State.msixSend; (repeat' split) <;> rfl
@[simp] theorem State.raise_tim (s : State) (n c i : Nat) : (s.raise n c i).tim = s.tim := by
  unfold State.raise; dsimp only; split <;> [(rw [State.deliver_tim]; rfl); rfl]
@[simp] theorem State.deliver_wktPrev (s : State) (n : Nat) : (s.deliver n).wktPrev = s.wktPrev := by unfold State.deliver State.msixSend; (repeat' split) <;> rfl
@[simp] theorem State.raise_wktPrev (s : State) (n c i : Nat) : (s.raise n c i).wktPrev = s.wktPrev := by
  unfold State.raise; dsimp only; split <;> [(rw [State.deliver_wktPrev]; rfl); rfl]
@[simp] theorem State.deliver_phs (s : State) (n : Nat) : (s.deliver n).phs = s.phs := by unfold State.deliver State.msixSend; (repeat' split) <;> rfl
@[simp] theorem State.raise_phs (s : State) (n c i : Nat) : (s.raise n c i).phs = s.phs := by
  unfold State.raise; dsimp only; split <;> [(rw [State.deliver_phs]; rfl); rfl]
@[simp] theorem State.deliver_phLev (s : State) (n : Nat) : (s.deliver n).phLev = s.phLev := by unfold State.deliver State.msixSend; (repeat' split) <;> rfl
@[simp] theorem State.raise_phLev (s : State) (n c i : Nat) : (s.raise n c i).phLev = s.phLev := by
  unfold State.raise; dsimp only; split <;> [(rw [State.deliver_phLev]; rfl); rfl]
@[simp] theorem State.deliver_seq (s : State) (n : Nat) : (s.deliver n).seq = s.seq := by unfold State.deliver State.msixSend; (repeat' split) <;> rfl
@[simp] theorem State.raise_seq (s : State) (n c i : Nat) : (s.raise n c i).seq = s.seq := by
  unfold State.raise; dsimp only; split <;> [(rw [State.deliver_seq]; rfl); rfl]
@[simp] theorem State.deliver_acts (s : State) (n : Nat) : (s.deliver n).acts = s.acts := by unfold State.deliver State.msixSend; (repeat' split) <;> rfl
@[simp] theorem State.raise_acts (s : State) (n c i : Nat) : (s.raise n c i).acts = s.acts := by
  unfold State.raise; dsimp only; split <;> [(rw [State.deliver_acts]; rfl); rfl]
@[simp] theorem State.deliver_sync (s : State) (n : Nat) : (s.deliver n).sync = s.sync := by unfold State.deliver State.msixSend; (repeat' split) <;> rfl
@[simp] theorem State.raise_sync (s : State) (n c i : Nat) : (s.raise n c i).sync = s.sync := by
  unfold State.raise; dsimp only; split <;> [(rw [State.deliver_sync]; rfl); rfl]
@[simp] theorem State.deliver_win (s : State) (n : Nat) : (s.deliver n).win = s.win := by unfold State.deliver State.msixSend; (repeat' split) <;> rfl
@[simp] theorem State.raise_win (s : State) (n c i : Nat) : (s.raise n c i).win = s.win := by
  unfold State.raise; dsimp only; split <;> [(rw [State.deliver_win]; rfl); rfl]
@[simp] theorem State.deliver_fdb (s : State) (n : Nat) : (s.deliver n).fdb = s.fdb := by unfold State.deliver State.msixSend; (repeat' split) <;> rfl
@[simp] theorem State.raise_fdb (s : State) (n c i : Nat) : (s.raise n c i).fdb = s.fdb := by
  unfold State.raise; dsimp only; split <;> [(rw [State.deliver_fdb]; rfl); rfl]
@[simp] theorem State.deliver_flw (s : State) (n : Nat) : (s.deliver n).flw = s.flw := by unfold State.deliver State.msixSend; (repeat' split) <;> rfl
@[simp] theorem State.raise_flw (s : State) (n c i : Nat) : (s.raise n c i).flw = s.flw := by
  unfold State.raise; dsimp only; split <;> [(rw [State.deliver_flw]; rfl); rfl]
@[simp] theorem State.deliver_pipe (s : State) (n : Nat) : (s.deliver n).pipe = s.pipe := by unfold State.deliver State.msixSend; (repeat' split) <;> rfl
@[simp] theorem State.raise_pipe (s : State) (n c i : Nat) : (s.raise n c i).pipe = s.pipe := by
  unfold State.raise; dsimp only; split <;> [(rw [State.deliver_pipe]; rfl); rfl]
@[simp] theorem State.deliver_ruleBad (s : State) (n : Nat) : (s.deliver n).ruleBad = s.ruleBad := by unfold State.deliver State.msixSend; (repeat' split) <;> rfl
@[simp] theorem State.raise_ruleBad (s : State) (n c i : Nat) : (s.raise n c i).ruleBad = s.ruleBad := by
  unfold State.raise; dsimp only; split <;> [(rw [State.deliver_ruleBad]; rfl); rfl]
@[simp] theorem State.deliver_ruleCnt (s : State) (n : Nat) : (s.deliver n).ruleCnt = s.ruleCnt := by unfold State.deliver State.msixSend; (repeat' split) <;> rfl
@[simp] theorem State.raise_ruleCnt (s : State) (n c i : Nat) : (s.raise n c i).ruleCnt = s.ruleCnt := by
  unfold State.raise; dsimp only; split <;> [(rw [State.deliver_ruleCnt]; rfl); rfl]
@[simp] theorem State.deliver_latch (s : State) (n : Nat) : (s.deliver n).latch = s.latch := by unfold State.deliver State.msixSend; (repeat' split) <;> rfl
@[simp] theorem State.raise_latch (s : State) (n c i : Nat) : (s.raise n c i).latch = s.latch := by
  unfold State.raise; dsimp only; split <;> [(rw [State.deliver_latch]; rfl); rfl]
@[simp] theorem State.deliver_nextId (s : State) (n : Nat) : (s.deliver n).nextId = s.nextId := by unfold State.deliver State.msixSend; (repeat' split) <;> rfl
@[simp] theorem State.raise_nextId (s : State) (n c i : Nat) : (s.raise n c i).nextId = s.nextId := by
  unfold State.raise; dsimp only; split <;> [(rw [State.deliver_nextId]; rfl); rfl]
@[simp] theorem State.deliver_frames (s : State) (n : Nat) : (s.deliver n).frames = s.frames := by unfold State.deliver State.msixSend; (repeat' split) <;> rfl
@[simp] theorem State.raise_frames (s : State) (n c i : Nat) : (s.raise n c i).frames = s.frames := by
  unfold State.raise; dsimp only; split <;> [(rw [State.deliver_frames]; rfl); rfl]
@[simp] theorem State.deliver_copies (s : State) (n : Nat) : (s.deliver n).copies = s.copies := by unfold State.deliver State.msixSend; (repeat' split) <;> rfl
@[simp] theorem State.raise_copies (s : State) (n c i : Nat) : (s.raise n c i).copies = s.copies := by
  unfold State.raise; dsimp only; split <;> [(rw [State.deliver_copies]; rfl); rfl]
@[simp] theorem State.deliver_bankUse (s : State) (n : Nat) : (s.deliver n).bankUse = s.bankUse := by unfold State.deliver State.msixSend; (repeat' split) <;> rfl
@[simp] theorem State.raise_bankUse (s : State) (n c i : Nat) : (s.raise n c i).bankUse = s.bankUse := by
  unfold State.raise; dsimp only; split <;> [(rw [State.deliver_bankUse]; rfl); rfl]
@[simp] theorem State.deliver_bankPtr (s : State) (n : Nat) : (s.deliver n).bankPtr = s.bankPtr := by unfold State.deliver State.msixSend; (repeat' split) <;> rfl
@[simp] theorem State.deliver_matcher (s : State) (n : Nat) : (s.deliver n).matcher = s.matcher := by unfold State.deliver State.msixSend; (repeat' split) <;> rfl
@[simp] theorem State.deliver_eraseBad (s : State) (n : Nat) : (s.deliver n).eraseBad = s.eraseBad := by unfold State.deliver State.msixSend; (repeat' split) <;> rfl
@[simp] theorem State.raise_bankPtr (s : State) (n c i : Nat) : (s.raise n c i).bankPtr = s.bankPtr := by
  unfold State.raise; dsimp only; split <;> [(rw [State.deliver_bankPtr]; rfl); rfl]
@[simp] theorem State.raise_matcher (s : State) (n c i : Nat) : (s.raise n c i).matcher = s.matcher := by
  unfold State.raise; dsimp only; split <;> [(rw [State.deliver_matcher]; rfl); rfl]
@[simp] theorem State.raise_eraseBad (s : State) (n c i : Nat) : (s.raise n c i).eraseBad = s.eraseBad := by
  unfold State.raise; dsimp only; split <;> [(rw [State.deliver_eraseBad]; rfl); rfl]
@[simp] theorem State.deliver_spilling (s : State) (n : Nat) : (s.deliver n).spilling = s.spilling := by unfold State.deliver State.msixSend; (repeat' split) <;> rfl
@[simp] theorem State.raise_spilling (s : State) (n c i : Nat) : (s.raise n c i).spilling = s.spilling := by
  unfold State.raise; dsimp only; split <;> [(rw [State.deliver_spilling]; rfl); rfl]
@[simp] theorem State.deliver_peatFull (s : State) (n : Nat) : (s.deliver n).peatFull = s.peatFull := by unfold State.deliver State.msixSend; (repeat' split) <;> rfl
@[simp] theorem State.raise_peatFull (s : State) (n c i : Nat) : (s.raise n c i).peatFull = s.peatFull := by
  unfold State.raise; dsimp only; split <;> [(rw [State.deliver_peatFull]; rfl); rfl]
@[simp] theorem State.deliver_ports (s : State) (n : Nat) : (s.deliver n).ports = s.ports := by unfold State.deliver State.msixSend; (repeat' split) <;> rfl
@[simp] theorem State.raise_ports (s : State) (n c i : Nat) : (s.raise n c i).ports = s.ports := by
  unfold State.raise; dsimp only; split <;> [(rw [State.deliver_ports]; rfl); rfl]
@[simp] theorem State.deliver_credit (s : State) (n : Nat) : (s.deliver n).credit = s.credit := by unfold State.deliver State.msixSend; (repeat' split) <;> rfl
@[simp] theorem State.raise_credit (s : State) (n c i : Nat) : (s.raise n c i).credit = s.credit := by
  unfold State.raise; dsimp only; split <;> [(rw [State.deliver_credit]; rfl); rfl]
@[simp] theorem State.deliver_wfq (s : State) (n : Nat) : (s.deliver n).wfq = s.wfq := by unfold State.deliver State.msixSend; (repeat' split) <;> rfl
@[simp] theorem State.raise_wfq (s : State) (n c i : Nat) : (s.raise n c i).wfq = s.wfq := by
  unfold State.raise; dsimp only; split <;> [(rw [State.deliver_wfq]; rfl); rfl]
@[simp] theorem State.deliver_wfqV (s : State) (n : Nat) : (s.deliver n).wfqV = s.wfqV := by unfold State.deliver State.msixSend; (repeat' split) <;> rfl
@[simp] theorem State.raise_wfqV (s : State) (n c i : Nat) : (s.raise n c i).wfqV = s.wfqV := by
  unfold State.raise; dsimp only; split <;> [(rw [State.deliver_wfqV]; rfl); rfl]
@[simp] theorem State.deliver_meters (s : State) (n : Nat) : (s.deliver n).meters = s.meters := by unfold State.deliver State.msixSend; (repeat' split) <;> rfl
@[simp] theorem State.raise_meters (s : State) (n c i : Nat) : (s.raise n c i).meters = s.meters := by
  unfold State.raise; dsimp only; split <;> [(rw [State.deliver_meters]; rfl); rfl]
@[simp] theorem State.deliver_mib (s : State) (n : Nat) : (s.deliver n).mib = s.mib := by unfold State.deliver State.msixSend; (repeat' split) <;> rfl
@[simp] theorem State.raise_mib (s : State) (n c i : Nat) : (s.raise n c i).mib = s.mib := by
  unfold State.raise; dsimp only; split <;> [(rw [State.deliver_mib]; rfl); rfl]
@[simp] theorem State.deliver_sa (s : State) (n : Nat) : (s.deliver n).sa = s.sa := by unfold State.deliver State.msixSend; (repeat' split) <;> rfl
@[simp] theorem State.raise_sa (s : State) (n c i : Nat) : (s.raise n c i).sa = s.sa := by
  unfold State.raise; dsimp only; split <;> [(rw [State.deliver_sa]; rfl); rfl]
@[simp] theorem State.deliver_rxLast (s : State) (n : Nat) : (s.deliver n).rxLast = s.rxLast := by unfold State.deliver State.msixSend; (repeat' split) <;> rfl
@[simp] theorem State.raise_rxLast (s : State) (n c i : Nat) : (s.raise n c i).rxLast = s.rxLast := by
  unfold State.raise; dsimp only; split <;> [(rw [State.deliver_rxLast]; rfl); rfl]
@[simp] theorem State.deliver_cipMib (s : State) (n : Nat) : (s.deliver n).cipMib = s.cipMib := by unfold State.deliver State.msixSend; (repeat' split) <;> rfl
@[simp] theorem State.raise_cipMib (s : State) (n c i : Nat) : (s.raise n c i).cipMib = s.cipMib := by
  unfold State.raise; dsimp only; split <;> [(rw [State.deliver_cipMib]; rfl); rfl]
@[simp] theorem State.deliver_cjobs (s : State) (n : Nat) : (s.deliver n).cjobs = s.cjobs := by unfold State.deliver State.msixSend; (repeat' split) <;> rfl
@[simp] theorem State.raise_cjobs (s : State) (n c i : Nat) : (s.raise n c i).cjobs = s.cjobs := by
  unfold State.raise; dsimp only; split <;> [(rw [State.deliver_cjobs]; rfl); rfl]
@[simp] theorem State.deliver_ringPtr (s : State) (n : Nat) : (s.deliver n).ringPtr = s.ringPtr := by unfold State.deliver State.msixSend; (repeat' split) <;> rfl
@[simp] theorem State.raise_ringPtr (s : State) (n c i : Nat) : (s.raise n c i).ringPtr = s.ringPtr := by
  unfold State.raise; dsimp only; split <;> [(rw [State.deliver_ringPtr]; rfl); rfl]
@[simp] theorem State.deliver_pcieGen (s : State) (n : Nat) : (s.deliver n).pcieGen = s.pcieGen := by unfold State.deliver State.msixSend; (repeat' split) <;> rfl
@[simp] theorem State.raise_pcieGen (s : State) (n c i : Nat) : (s.raise n c i).pcieGen = s.pcieGen := by
  unfold State.raise; dsimp only; split <;> [(rw [State.deliver_pcieGen]; rfl); rfl]
@[simp] theorem State.deliver_mdio (s : State) (n : Nat) : (s.deliver n).mdio = s.mdio := by unfold State.deliver State.msixSend; (repeat' split) <;> rfl
@[simp] theorem State.raise_mdio (s : State) (n c i : Nat) : (s.raise n c i).mdio = s.mdio := by
  unfold State.raise; dsimp only; split <;> [(rw [State.deliver_mdio]; rfl); rfl]
@[simp] theorem State.deliver_fre (s : State) (n : Nat) : (s.deliver n).fre = s.fre := by unfold State.deliver State.msixSend; (repeat' split) <;> rfl
@[simp] theorem State.raise_fre (s : State) (n c i : Nat) : (s.raise n c i).fre = s.fre := by
  unfold State.raise; dsimp only; split <;> [(rw [State.deliver_fre]; rfl); rfl]
@[simp] theorem State.deliver_sram (s : State) (n : Nat) : (s.deliver n).sram = s.sram := by unfold State.deliver State.msixSend; (repeat' split) <;> rfl
@[simp] theorem State.raise_sram (s : State) (n c i : Nat) : (s.raise n c i).sram = s.sram := by
  unfold State.raise; dsimp only; split <;> [(rw [State.deliver_sram]; rfl); rfl]
@[simp] theorem State.deliver_can (s : State) (n : Nat) : (s.deliver n).can = s.can := by unfold State.deliver State.msixSend; (repeat' split) <;> rfl
@[simp] theorem State.raise_can (s : State) (n c i : Nat) : (s.raise n c i).can = s.can := by
  unfold State.raise; dsimp only; split <;> [(rw [State.deliver_can]; rfl); rfl]
@[simp] theorem State.deliver_lin (s : State) (n : Nat) : (s.deliver n).lin = s.lin := by unfold State.deliver State.msixSend; (repeat' split) <;> rfl
@[simp] theorem State.raise_lin (s : State) (n c i : Nat) : (s.raise n c i).lin = s.lin := by
  unfold State.raise; dsimp only; split <;> [(rw [State.deliver_lin]; rfl); rfl]
@[simp] theorem State.deliver_msgs (s : State) (n : Nat) : (s.deliver n).msgs = s.msgs := by unfold State.deliver State.msixSend; (repeat' split) <;> rfl
@[simp] theorem State.raise_msgs (s : State) (n c i : Nat) : (s.raise n c i).msgs = s.msgs := by
  unfold State.raise; dsimp only; split <;> [(rw [State.deliver_msgs]; rfl); rfl]
@[simp] theorem State.deliver_inq (s : State) (n : Nat) : (s.deliver n).inq = s.inq := by unfold State.deliver State.msixSend; (repeat' split) <;> rfl
@[simp] theorem State.raise_inq (s : State) (n c i : Nat) : (s.raise n c i).inq = s.inq := by
  unfold State.raise; dsimp only; split <;> [(rw [State.deliver_inq]; rfl); rfl]
@[simp] theorem State.deliver_held (s : State) (n : Nat) : (s.deliver n).held = s.held := by unfold State.deliver State.msixSend; (repeat' split) <;> rfl
@[simp] theorem State.raise_held (s : State) (n c i : Nat) : (s.raise n c i).held = s.held := by
  unfold State.raise; dsimp only; split <;> [(rw [State.deliver_held]; rfl); rfl]
@[simp] theorem State.deliver_batch (s : State) (n : Nat) : (s.deliver n).batch = s.batch := by unfold State.deliver State.msixSend; (repeat' split) <;> rfl
@[simp] theorem State.raise_batch (s : State) (n c i : Nat) : (s.raise n c i).batch = s.batch := by
  unfold State.raise; dsimp only; split <;> [(rw [State.deliver_batch]; rfl); rfl]
@[simp] theorem State.deliver_sealedQ (s : State) (n : Nat) : (s.deliver n).sealedQ = s.sealedQ := by unfold State.deliver State.msixSend; (repeat' split) <;> rfl
@[simp] theorem State.raise_sealedQ (s : State) (n c i : Nat) : (s.raise n c i).sealedQ = s.sealedQ := by
  unfold State.raise; dsimp only; split <;> [(rw [State.deliver_sealedQ]; rfl); rfl]
@[simp] theorem State.deliver_rxStr (s : State) (n : Nat) : (s.deliver n).rxStr = s.rxStr := by unfold State.deliver State.msixSend; (repeat' split) <;> rfl
@[simp] theorem State.raise_rxStr (s : State) (n c i : Nat) : (s.raise n c i).rxStr = s.rxStr := by
  unfold State.raise; dsimp only; split <;> [(rw [State.deliver_rxStr]; rfl); rfl]
@[simp] theorem State.deliver_carr (s : State) (n : Nat) : (s.deliver n).carr = s.carr := by unfold State.deliver State.msixSend; (repeat' split) <;> rfl
@[simp] theorem State.raise_carr (s : State) (n c i : Nat) : (s.raise n c i).carr = s.carr := by
  unfold State.raise; dsimp only; split <;> [(rw [State.deliver_carr]; rfl); rfl]
@[simp] theorem State.deliver_dram (s : State) (n : Nat) : (s.deliver n).dram = s.dram := by unfold State.deliver State.msixSend; (repeat' split) <;> rfl
@[simp] theorem State.raise_dram (s : State) (n c i : Nat) : (s.raise n c i).dram = s.dram := by
  unfold State.raise; dsimp only; split <;> [(rw [State.deliver_dram]; rfl); rfl]
@[simp] theorem State.deliver_pair (s : State) (n : Nat) : (s.deliver n).pair = s.pair := by unfold State.deliver State.msixSend; (repeat' split) <;> rfl
@[simp] theorem State.raise_pair (s : State) (n c i : Nat) : (s.raise n c i).pair = s.pair := by
  unfold State.raise; dsimp only; split <;> [(rw [State.deliver_pair]; rfl); rfl]
@[simp] theorem State.deliver_pwr (s : State) (n : Nat) : (s.deliver n).pwr = s.pwr := by unfold State.deliver State.msixSend; (repeat' split) <;> rfl
@[simp] theorem State.raise_pwr (s : State) (n c i : Nat) : (s.raise n c i).pwr = s.pwr := by
  unfold State.raise; dsimp only; split <;> [(rw [State.deliver_pwr]; rfl); rfl]
@[simp] theorem State.deliver_boot (s : State) (n : Nat) : (s.deliver n).boot = s.boot := by unfold State.deliver State.msixSend; (repeat' split) <;> rfl
@[simp] theorem State.raise_boot (s : State) (n c i : Nat) : (s.raise n c i).boot = s.boot := by
  unfold State.raise; dsimp only; split <;> [(rw [State.deliver_boot]; rfl); rfl]
@[simp] theorem State.deliver_flash (s : State) (n : Nat) : (s.deliver n).flash = s.flash := by unfold State.deliver State.msixSend; (repeat' split) <;> rfl
@[simp] theorem State.raise_flash (s : State) (n c i : Nat) : (s.raise n c i).flash = s.flash := by
  unfold State.raise; dsimp only; split <;> [(rw [State.deliver_flash]; rfl); rfl]
@[simp] theorem State.deliver_jtag (s : State) (n : Nat) : (s.deliver n).jtag = s.jtag := by unfold State.deliver State.msixSend; (repeat' split) <;> rfl
@[simp] theorem State.raise_jtag (s : State) (n c i : Nat) : (s.raise n c i).jtag = s.jtag := by
  unfold State.raise; dsimp only; split <;> [(rw [State.deliver_jtag]; rfl); rfl]
@[simp] theorem State.deliver_mon (s : State) (n : Nat) : (s.deliver n).mon = s.mon := by unfold State.deliver State.msixSend; (repeat' split) <;> rfl
@[simp] theorem State.raise_mon (s : State) (n c i : Nat) : (s.raise n c i).mon = s.mon := by
  unfold State.raise; dsimp only; split <;> [(rw [State.deliver_mon]; rfl); rfl]

@[simp] theorem State.audPut_pending (s : State) (e : BitVec 112) (i : Nat) : (s.audPut e i).pending = s.pending := by
  unfold State.audPut; dsimp only; split <;> [(rw [State.raise_pending]); rfl]
@[simp] theorem State.audit_pending (s : State) (kind role i a old new : Nat) : (s.audit kind role i a old new).pending = s.pending := by
  unfold State.audit State.audAnchor; dsimp only; rw [State.audPut_pending]; split <;> [exact State.audPut_pending _ _ _; rfl]
@[simp] theorem State.audPut_now (s : State) (e : BitVec 112) (i : Nat) : (s.audPut e i).now = s.now := by
  unfold State.audPut; dsimp only; split <;> [(rw [State.raise_now]); rfl]
@[simp] theorem State.audit_now (s : State) (kind role i a old new : Nat) : (s.audit kind role i a old new).now = s.now := by
  unfold State.audit State.audAnchor; dsimp only; rw [State.audPut_now]; split <;> [exact State.audPut_now _ _ _; rfl]
@[simp] theorem State.audPut_freeIdx (s : State) (e : BitVec 112) (i : Nat) : (s.audPut e i).freeIdx = s.freeIdx := by
  unfold State.audPut; dsimp only; split <;> [(rw [State.raise_freeIdx]); rfl]
@[simp] theorem State.audit_freeIdx (s : State) (kind role i a old new : Nat) : (s.audit kind role i a old new).freeIdx = s.freeIdx := by
  unfold State.audit State.audAnchor; dsimp only; rw [State.audPut_freeIdx]; split <;> [exact State.audPut_freeIdx _ _ _; rfl]
@[simp] theorem State.audPut_par (s : State) (e : BitVec 112) (i : Nat) : (s.audPut e i).par = s.par := by
  unfold State.audPut; dsimp only; split <;> [(rw [State.raise_par]); rfl]
@[simp] theorem State.audit_par (s : State) (kind role i a old new : Nat) : (s.audit kind role i a old new).par = s.par := by
  unfold State.audit State.audAnchor; dsimp only; rw [State.audPut_par]; split <;> [exact State.audPut_par _ _ _; rfl]
@[simp] theorem State.audPut_guards (s : State) (e : BitVec 112) (i : Nat) : (s.audPut e i).guards = s.guards := by
  unfold State.audPut; dsimp only; split <;> [(rw [State.raise_guards]); rfl]
@[simp] theorem State.audit_guards (s : State) (kind role i a old new : Nat) : (s.audit kind role i a old new).guards = s.guards := by
  unfold State.audit State.audAnchor; dsimp only; rw [State.audPut_guards]; split <;> [exact State.audPut_guards _ _ _; rfl]
@[simp] theorem State.audPut_sess (s : State) (e : BitVec 112) (i : Nat) : (s.audPut e i).sess = s.sess := by
  unfold State.audPut; dsimp only; split <;> [(rw [State.raise_sess]); rfl]
@[simp] theorem State.audit_sess (s : State) (kind role i a old new : Nat) : (s.audit kind role i a old new).sess = s.sess := by
  unfold State.audit State.audAnchor; dsimp only; rw [State.audPut_sess]; split <;> [exact State.audPut_sess _ _ _; rfl]
@[simp] theorem State.audPut_lock (s : State) (e : BitVec 112) (i : Nat) : (s.audPut e i).lock = s.lock := by
  unfold State.audPut; dsimp only; split <;> [(rw [State.raise_lock]); rfl]
@[simp] theorem State.audit_lock (s : State) (kind role i a old new : Nat) : (s.audit kind role i a old new).lock = s.lock := by
  unfold State.audit State.audAnchor; dsimp only; rw [State.audPut_lock]; split <;> [exact State.audPut_lock _ _ _; rfl]
@[simp] theorem State.audPut_fuse (s : State) (e : BitVec 112) (i : Nat) : (s.audPut e i).fuse = s.fuse := by
  unfold State.audPut; dsimp only; split <;> [(rw [State.raise_fuse]); rfl]
@[simp] theorem State.audit_fuse (s : State) (kind role i a old new : Nat) : (s.audit kind role i a old new).fuse = s.fuse := by
  unfold State.audit State.audAnchor; dsimp only; rw [State.audPut_fuse]; split <;> [exact State.audPut_fuse _ _ _; rfl]
@[simp] theorem State.audPut_tim (s : State) (e : BitVec 112) (i : Nat) : (s.audPut e i).tim = s.tim := by
  unfold State.audPut; dsimp only; split <;> [(rw [State.raise_tim]); rfl]
@[simp] theorem State.audit_tim (s : State) (kind role i a old new : Nat) : (s.audit kind role i a old new).tim = s.tim := by
  unfold State.audit State.audAnchor; dsimp only; rw [State.audPut_tim]; split <;> [exact State.audPut_tim _ _ _; rfl]
@[simp] theorem State.audPut_wktPrev (s : State) (e : BitVec 112) (i : Nat) : (s.audPut e i).wktPrev = s.wktPrev := by
  unfold State.audPut; dsimp only; split <;> [(rw [State.raise_wktPrev]); rfl]
@[simp] theorem State.audit_wktPrev (s : State) (kind role i a old new : Nat) : (s.audit kind role i a old new).wktPrev = s.wktPrev := by
  unfold State.audit State.audAnchor; dsimp only; rw [State.audPut_wktPrev]; split <;> [exact State.audPut_wktPrev _ _ _; rfl]
@[simp] theorem State.audPut_phs (s : State) (e : BitVec 112) (i : Nat) : (s.audPut e i).phs = s.phs := by
  unfold State.audPut; dsimp only; split <;> [(rw [State.raise_phs]); rfl]
@[simp] theorem State.audit_phs (s : State) (kind role i a old new : Nat) : (s.audit kind role i a old new).phs = s.phs := by
  unfold State.audit State.audAnchor; dsimp only; rw [State.audPut_phs]; split <;> [exact State.audPut_phs _ _ _; rfl]
@[simp] theorem State.audPut_phLev (s : State) (e : BitVec 112) (i : Nat) : (s.audPut e i).phLev = s.phLev := by
  unfold State.audPut; dsimp only; split <;> [(rw [State.raise_phLev]); rfl]
@[simp] theorem State.audit_phLev (s : State) (kind role i a old new : Nat) : (s.audit kind role i a old new).phLev = s.phLev := by
  unfold State.audit State.audAnchor; dsimp only; rw [State.audPut_phLev]; split <;> [exact State.audPut_phLev _ _ _; rfl]
@[simp] theorem State.audPut_seq (s : State) (e : BitVec 112) (i : Nat) : (s.audPut e i).seq = s.seq := by
  unfold State.audPut; dsimp only; split <;> [(rw [State.raise_seq]); rfl]
@[simp] theorem State.audit_seq (s : State) (kind role i a old new : Nat) : (s.audit kind role i a old new).seq = s.seq := by
  unfold State.audit State.audAnchor; dsimp only; rw [State.audPut_seq]; split <;> [exact State.audPut_seq _ _ _; rfl]
@[simp] theorem State.audPut_acts (s : State) (e : BitVec 112) (i : Nat) : (s.audPut e i).acts = s.acts := by
  unfold State.audPut; dsimp only; split <;> [(rw [State.raise_acts]); rfl]
@[simp] theorem State.audit_acts (s : State) (kind role i a old new : Nat) : (s.audit kind role i a old new).acts = s.acts := by
  unfold State.audit State.audAnchor; dsimp only; rw [State.audPut_acts]; split <;> [exact State.audPut_acts _ _ _; rfl]
@[simp] theorem State.audPut_sync (s : State) (e : BitVec 112) (i : Nat) : (s.audPut e i).sync = s.sync := by
  unfold State.audPut; dsimp only; split <;> [(rw [State.raise_sync]); rfl]
@[simp] theorem State.audit_sync (s : State) (kind role i a old new : Nat) : (s.audit kind role i a old new).sync = s.sync := by
  unfold State.audit State.audAnchor; dsimp only; rw [State.audPut_sync]; split <;> [exact State.audPut_sync _ _ _; rfl]
@[simp] theorem State.audPut_win (s : State) (e : BitVec 112) (i : Nat) : (s.audPut e i).win = s.win := by
  unfold State.audPut; dsimp only; split <;> [(rw [State.raise_win]); rfl]
@[simp] theorem State.audit_win (s : State) (kind role i a old new : Nat) : (s.audit kind role i a old new).win = s.win := by
  unfold State.audit State.audAnchor; dsimp only; rw [State.audPut_win]; split <;> [exact State.audPut_win _ _ _; rfl]
@[simp] theorem State.audPut_fdb (s : State) (e : BitVec 112) (i : Nat) : (s.audPut e i).fdb = s.fdb := by
  unfold State.audPut; dsimp only; split <;> [(rw [State.raise_fdb]); rfl]
@[simp] theorem State.audit_fdb (s : State) (kind role i a old new : Nat) : (s.audit kind role i a old new).fdb = s.fdb := by
  unfold State.audit State.audAnchor; dsimp only; rw [State.audPut_fdb]; split <;> [exact State.audPut_fdb _ _ _; rfl]
@[simp] theorem State.audPut_flw (s : State) (e : BitVec 112) (i : Nat) : (s.audPut e i).flw = s.flw := by
  unfold State.audPut; dsimp only; split <;> [(rw [State.raise_flw]); rfl]
@[simp] theorem State.audit_flw (s : State) (kind role i a old new : Nat) : (s.audit kind role i a old new).flw = s.flw := by
  unfold State.audit State.audAnchor; dsimp only; rw [State.audPut_flw]; split <;> [exact State.audPut_flw _ _ _; rfl]
@[simp] theorem State.audPut_pipe (s : State) (e : BitVec 112) (i : Nat) : (s.audPut e i).pipe = s.pipe := by
  unfold State.audPut; dsimp only; split <;> [(rw [State.raise_pipe]); rfl]
@[simp] theorem State.audit_pipe (s : State) (kind role i a old new : Nat) : (s.audit kind role i a old new).pipe = s.pipe := by
  unfold State.audit State.audAnchor; dsimp only; rw [State.audPut_pipe]; split <;> [exact State.audPut_pipe _ _ _; rfl]
@[simp] theorem State.audPut_ruleBad (s : State) (e : BitVec 112) (i : Nat) : (s.audPut e i).ruleBad = s.ruleBad := by
  unfold State.audPut; dsimp only; split <;> [(rw [State.raise_ruleBad]); rfl]
@[simp] theorem State.audit_ruleBad (s : State) (kind role i a old new : Nat) : (s.audit kind role i a old new).ruleBad = s.ruleBad := by
  unfold State.audit State.audAnchor; dsimp only; rw [State.audPut_ruleBad]; split <;> [exact State.audPut_ruleBad _ _ _; rfl]
@[simp] theorem State.audPut_ruleCnt (s : State) (e : BitVec 112) (i : Nat) : (s.audPut e i).ruleCnt = s.ruleCnt := by
  unfold State.audPut; dsimp only; split <;> [(rw [State.raise_ruleCnt]); rfl]
@[simp] theorem State.audit_ruleCnt (s : State) (kind role i a old new : Nat) : (s.audit kind role i a old new).ruleCnt = s.ruleCnt := by
  unfold State.audit State.audAnchor; dsimp only; rw [State.audPut_ruleCnt]; split <;> [exact State.audPut_ruleCnt _ _ _; rfl]
@[simp] theorem State.audPut_latch (s : State) (e : BitVec 112) (i : Nat) : (s.audPut e i).latch = s.latch := by
  unfold State.audPut; dsimp only; split <;> [(rw [State.raise_latch]); rfl]
@[simp] theorem State.audit_latch (s : State) (kind role i a old new : Nat) : (s.audit kind role i a old new).latch = s.latch := by
  unfold State.audit State.audAnchor; dsimp only; rw [State.audPut_latch]; split <;> [exact State.audPut_latch _ _ _; rfl]
@[simp] theorem State.audPut_nextId (s : State) (e : BitVec 112) (i : Nat) : (s.audPut e i).nextId = s.nextId := by
  unfold State.audPut; dsimp only; split <;> [(rw [State.raise_nextId]); rfl]
@[simp] theorem State.audit_nextId (s : State) (kind role i a old new : Nat) : (s.audit kind role i a old new).nextId = s.nextId := by
  unfold State.audit State.audAnchor; dsimp only; rw [State.audPut_nextId]; split <;> [exact State.audPut_nextId _ _ _; rfl]
@[simp] theorem State.audPut_frames (s : State) (e : BitVec 112) (i : Nat) : (s.audPut e i).frames = s.frames := by
  unfold State.audPut; dsimp only; split <;> [(rw [State.raise_frames]); rfl]
@[simp] theorem State.audit_frames (s : State) (kind role i a old new : Nat) : (s.audit kind role i a old new).frames = s.frames := by
  unfold State.audit State.audAnchor; dsimp only; rw [State.audPut_frames]; split <;> [exact State.audPut_frames _ _ _; rfl]
@[simp] theorem State.audPut_copies (s : State) (e : BitVec 112) (i : Nat) : (s.audPut e i).copies = s.copies := by
  unfold State.audPut; dsimp only; split <;> [(rw [State.raise_copies]); rfl]
@[simp] theorem State.audit_copies (s : State) (kind role i a old new : Nat) : (s.audit kind role i a old new).copies = s.copies := by
  unfold State.audit State.audAnchor; dsimp only; rw [State.audPut_copies]; split <;> [exact State.audPut_copies _ _ _; rfl]
@[simp] theorem State.audPut_bankUse (s : State) (e : BitVec 112) (i : Nat) : (s.audPut e i).bankUse = s.bankUse := by
  unfold State.audPut; dsimp only; split <;> [(rw [State.raise_bankUse]); rfl]
@[simp] theorem State.audit_bankUse (s : State) (kind role i a old new : Nat) : (s.audit kind role i a old new).bankUse = s.bankUse := by
  unfold State.audit State.audAnchor; dsimp only; rw [State.audPut_bankUse]; split <;> [exact State.audPut_bankUse _ _ _; rfl]
@[simp] theorem State.audPut_bankPtr (s : State) (e : BitVec 112) (i : Nat) : (s.audPut e i).bankPtr = s.bankPtr := by
  unfold State.audPut; dsimp only; split <;> [(rw [State.raise_bankPtr]); rfl]
@[simp] theorem State.audPut_matcher (s : State) (e : BitVec 112) (i : Nat) : (s.audPut e i).matcher = s.matcher := by
  unfold State.audPut; dsimp only; split <;> [(rw [State.raise_matcher]); rfl]
@[simp] theorem State.audPut_eraseBad (s : State) (e : BitVec 112) (i : Nat) : (s.audPut e i).eraseBad = s.eraseBad := by
  unfold State.audPut; dsimp only; split <;> [(rw [State.raise_eraseBad]); rfl]
@[simp] theorem State.audit_bankPtr (s : State) (kind role i a old new : Nat) : (s.audit kind role i a old new).bankPtr = s.bankPtr := by
  unfold State.audit State.audAnchor; dsimp only; rw [State.audPut_bankPtr]; split <;> [exact State.audPut_bankPtr _ _ _; rfl]
@[simp] theorem State.audit_matcher (s : State) (kind role i a old new : Nat) : (s.audit kind role i a old new).matcher = s.matcher := by
  unfold State.audit State.audAnchor; dsimp only; rw [State.audPut_matcher]; split <;> [exact State.audPut_matcher _ _ _; rfl]
@[simp] theorem State.audit_eraseBad (s : State) (kind role i a old new : Nat) : (s.audit kind role i a old new).eraseBad = s.eraseBad := by
  unfold State.audit State.audAnchor; dsimp only; rw [State.audPut_eraseBad]; split <;> [exact State.audPut_eraseBad _ _ _; rfl]
@[simp] theorem State.audPut_spilling (s : State) (e : BitVec 112) (i : Nat) : (s.audPut e i).spilling = s.spilling := by
  unfold State.audPut; dsimp only; split <;> [(rw [State.raise_spilling]); rfl]
@[simp] theorem State.audit_spilling (s : State) (kind role i a old new : Nat) : (s.audit kind role i a old new).spilling = s.spilling := by
  unfold State.audit State.audAnchor; dsimp only; rw [State.audPut_spilling]; split <;> [exact State.audPut_spilling _ _ _; rfl]
@[simp] theorem State.audPut_peatFull (s : State) (e : BitVec 112) (i : Nat) : (s.audPut e i).peatFull = s.peatFull := by
  unfold State.audPut; dsimp only; split <;> [(rw [State.raise_peatFull]); rfl]
@[simp] theorem State.audit_peatFull (s : State) (kind role i a old new : Nat) : (s.audit kind role i a old new).peatFull = s.peatFull := by
  unfold State.audit State.audAnchor; dsimp only; rw [State.audPut_peatFull]; split <;> [exact State.audPut_peatFull _ _ _; rfl]
@[simp] theorem State.audPut_ports (s : State) (e : BitVec 112) (i : Nat) : (s.audPut e i).ports = s.ports := by
  unfold State.audPut; dsimp only; split <;> [(rw [State.raise_ports]); rfl]
@[simp] theorem State.audit_ports (s : State) (kind role i a old new : Nat) : (s.audit kind role i a old new).ports = s.ports := by
  unfold State.audit State.audAnchor; dsimp only; rw [State.audPut_ports]; split <;> [exact State.audPut_ports _ _ _; rfl]
@[simp] theorem State.audPut_credit (s : State) (e : BitVec 112) (i : Nat) : (s.audPut e i).credit = s.credit := by
  unfold State.audPut; dsimp only; split <;> [(rw [State.raise_credit]); rfl]
@[simp] theorem State.audit_credit (s : State) (kind role i a old new : Nat) : (s.audit kind role i a old new).credit = s.credit := by
  unfold State.audit State.audAnchor; dsimp only; rw [State.audPut_credit]; split <;> [exact State.audPut_credit _ _ _; rfl]
@[simp] theorem State.audPut_wfq (s : State) (e : BitVec 112) (i : Nat) : (s.audPut e i).wfq = s.wfq := by
  unfold State.audPut; dsimp only; split <;> [(rw [State.raise_wfq]); rfl]
@[simp] theorem State.audit_wfq (s : State) (kind role i a old new : Nat) : (s.audit kind role i a old new).wfq = s.wfq := by
  unfold State.audit State.audAnchor; dsimp only; rw [State.audPut_wfq]; split <;> [exact State.audPut_wfq _ _ _; rfl]
@[simp] theorem State.audPut_wfqV (s : State) (e : BitVec 112) (i : Nat) : (s.audPut e i).wfqV = s.wfqV := by
  unfold State.audPut; dsimp only; split <;> [(rw [State.raise_wfqV]); rfl]
@[simp] theorem State.audit_wfqV (s : State) (kind role i a old new : Nat) : (s.audit kind role i a old new).wfqV = s.wfqV := by
  unfold State.audit State.audAnchor; dsimp only; rw [State.audPut_wfqV]; split <;> [exact State.audPut_wfqV _ _ _; rfl]
@[simp] theorem State.audPut_meters (s : State) (e : BitVec 112) (i : Nat) : (s.audPut e i).meters = s.meters := by
  unfold State.audPut; dsimp only; split <;> [(rw [State.raise_meters]); rfl]
@[simp] theorem State.audit_meters (s : State) (kind role i a old new : Nat) : (s.audit kind role i a old new).meters = s.meters := by
  unfold State.audit State.audAnchor; dsimp only; rw [State.audPut_meters]; split <;> [exact State.audPut_meters _ _ _; rfl]
@[simp] theorem State.audPut_mib (s : State) (e : BitVec 112) (i : Nat) : (s.audPut e i).mib = s.mib := by
  unfold State.audPut; dsimp only; split <;> [(rw [State.raise_mib]); rfl]
@[simp] theorem State.audit_mib (s : State) (kind role i a old new : Nat) : (s.audit kind role i a old new).mib = s.mib := by
  unfold State.audit State.audAnchor; dsimp only; rw [State.audPut_mib]; split <;> [exact State.audPut_mib _ _ _; rfl]
@[simp] theorem State.audPut_sa (s : State) (e : BitVec 112) (i : Nat) : (s.audPut e i).sa = s.sa := by
  unfold State.audPut; dsimp only; split <;> [(rw [State.raise_sa]); rfl]
@[simp] theorem State.audit_sa (s : State) (kind role i a old new : Nat) : (s.audit kind role i a old new).sa = s.sa := by
  unfold State.audit State.audAnchor; dsimp only; rw [State.audPut_sa]; split <;> [exact State.audPut_sa _ _ _; rfl]
@[simp] theorem State.audPut_rxLast (s : State) (e : BitVec 112) (i : Nat) : (s.audPut e i).rxLast = s.rxLast := by
  unfold State.audPut; dsimp only; split <;> [(rw [State.raise_rxLast]); rfl]
@[simp] theorem State.audit_rxLast (s : State) (kind role i a old new : Nat) : (s.audit kind role i a old new).rxLast = s.rxLast := by
  unfold State.audit State.audAnchor; dsimp only; rw [State.audPut_rxLast]; split <;> [exact State.audPut_rxLast _ _ _; rfl]
@[simp] theorem State.audPut_cipMib (s : State) (e : BitVec 112) (i : Nat) : (s.audPut e i).cipMib = s.cipMib := by
  unfold State.audPut; dsimp only; split <;> [(rw [State.raise_cipMib]); rfl]
@[simp] theorem State.audit_cipMib (s : State) (kind role i a old new : Nat) : (s.audit kind role i a old new).cipMib = s.cipMib := by
  unfold State.audit State.audAnchor; dsimp only; rw [State.audPut_cipMib]; split <;> [exact State.audPut_cipMib _ _ _; rfl]
@[simp] theorem State.audPut_cjobs (s : State) (e : BitVec 112) (i : Nat) : (s.audPut e i).cjobs = s.cjobs := by
  unfold State.audPut; dsimp only; split <;> [(rw [State.raise_cjobs]); rfl]
@[simp] theorem State.audit_cjobs (s : State) (kind role i a old new : Nat) : (s.audit kind role i a old new).cjobs = s.cjobs := by
  unfold State.audit State.audAnchor; dsimp only; rw [State.audPut_cjobs]; split <;> [exact State.audPut_cjobs _ _ _; rfl]
@[simp] theorem State.audPut_ringPtr (s : State) (e : BitVec 112) (i : Nat) : (s.audPut e i).ringPtr = s.ringPtr := by
  unfold State.audPut; dsimp only; split <;> [(rw [State.raise_ringPtr]); rfl]
@[simp] theorem State.audit_ringPtr (s : State) (kind role i a old new : Nat) : (s.audit kind role i a old new).ringPtr = s.ringPtr := by
  unfold State.audit State.audAnchor; dsimp only; rw [State.audPut_ringPtr]; split <;> [exact State.audPut_ringPtr _ _ _; rfl]
@[simp] theorem State.audPut_pcieGen (s : State) (e : BitVec 112) (i : Nat) : (s.audPut e i).pcieGen = s.pcieGen := by
  unfold State.audPut; dsimp only; split <;> [(rw [State.raise_pcieGen]); rfl]
@[simp] theorem State.audit_pcieGen (s : State) (kind role i a old new : Nat) : (s.audit kind role i a old new).pcieGen = s.pcieGen := by
  unfold State.audit State.audAnchor; dsimp only; rw [State.audPut_pcieGen]; split <;> [exact State.audPut_pcieGen _ _ _; rfl]
@[simp] theorem State.audPut_mdio (s : State) (e : BitVec 112) (i : Nat) : (s.audPut e i).mdio = s.mdio := by
  unfold State.audPut; dsimp only; split <;> [(rw [State.raise_mdio]); rfl]
@[simp] theorem State.audit_mdio (s : State) (kind role i a old new : Nat) : (s.audit kind role i a old new).mdio = s.mdio := by
  unfold State.audit State.audAnchor; dsimp only; rw [State.audPut_mdio]; split <;> [exact State.audPut_mdio _ _ _; rfl]
@[simp] theorem State.audPut_fre (s : State) (e : BitVec 112) (i : Nat) : (s.audPut e i).fre = s.fre := by
  unfold State.audPut; dsimp only; split <;> [(rw [State.raise_fre]); rfl]
@[simp] theorem State.audit_fre (s : State) (kind role i a old new : Nat) : (s.audit kind role i a old new).fre = s.fre := by
  unfold State.audit State.audAnchor; dsimp only; rw [State.audPut_fre]; split <;> [exact State.audPut_fre _ _ _; rfl]
@[simp] theorem State.audPut_sram (s : State) (e : BitVec 112) (i : Nat) : (s.audPut e i).sram = s.sram := by
  unfold State.audPut; dsimp only; split <;> [(rw [State.raise_sram]); rfl]
@[simp] theorem State.audit_sram (s : State) (kind role i a old new : Nat) : (s.audit kind role i a old new).sram = s.sram := by
  unfold State.audit State.audAnchor; dsimp only; rw [State.audPut_sram]; split <;> [exact State.audPut_sram _ _ _; rfl]
@[simp] theorem State.audPut_can (s : State) (e : BitVec 112) (i : Nat) : (s.audPut e i).can = s.can := by
  unfold State.audPut; dsimp only; split <;> [(rw [State.raise_can]); rfl]
@[simp] theorem State.audit_can (s : State) (kind role i a old new : Nat) : (s.audit kind role i a old new).can = s.can := by
  unfold State.audit State.audAnchor; dsimp only; rw [State.audPut_can]; split <;> [exact State.audPut_can _ _ _; rfl]
@[simp] theorem State.audPut_lin (s : State) (e : BitVec 112) (i : Nat) : (s.audPut e i).lin = s.lin := by
  unfold State.audPut; dsimp only; split <;> [(rw [State.raise_lin]); rfl]
@[simp] theorem State.audit_lin (s : State) (kind role i a old new : Nat) : (s.audit kind role i a old new).lin = s.lin := by
  unfold State.audit State.audAnchor; dsimp only; rw [State.audPut_lin]; split <;> [exact State.audPut_lin _ _ _; rfl]
@[simp] theorem State.audPut_msgs (s : State) (e : BitVec 112) (i : Nat) : (s.audPut e i).msgs = s.msgs := by
  unfold State.audPut; dsimp only; split <;> [(rw [State.raise_msgs]); rfl]
@[simp] theorem State.audit_msgs (s : State) (kind role i a old new : Nat) : (s.audit kind role i a old new).msgs = s.msgs := by
  unfold State.audit State.audAnchor; dsimp only; rw [State.audPut_msgs]; split <;> [exact State.audPut_msgs _ _ _; rfl]
@[simp] theorem State.audPut_inq (s : State) (e : BitVec 112) (i : Nat) : (s.audPut e i).inq = s.inq := by
  unfold State.audPut; dsimp only; split <;> [(rw [State.raise_inq]); rfl]
@[simp] theorem State.audit_inq (s : State) (kind role i a old new : Nat) : (s.audit kind role i a old new).inq = s.inq := by
  unfold State.audit State.audAnchor; dsimp only; rw [State.audPut_inq]; split <;> [exact State.audPut_inq _ _ _; rfl]
@[simp] theorem State.audPut_held (s : State) (e : BitVec 112) (i : Nat) : (s.audPut e i).held = s.held := by
  unfold State.audPut; dsimp only; split <;> [(rw [State.raise_held]); rfl]
@[simp] theorem State.audit_held (s : State) (kind role i a old new : Nat) : (s.audit kind role i a old new).held = s.held := by
  unfold State.audit State.audAnchor; dsimp only; rw [State.audPut_held]; split <;> [exact State.audPut_held _ _ _; rfl]
@[simp] theorem State.audPut_batch (s : State) (e : BitVec 112) (i : Nat) : (s.audPut e i).batch = s.batch := by
  unfold State.audPut; dsimp only; split <;> [(rw [State.raise_batch]); rfl]
@[simp] theorem State.audit_batch (s : State) (kind role i a old new : Nat) : (s.audit kind role i a old new).batch = s.batch := by
  unfold State.audit State.audAnchor; dsimp only; rw [State.audPut_batch]; split <;> [exact State.audPut_batch _ _ _; rfl]
@[simp] theorem State.audPut_sealedQ (s : State) (e : BitVec 112) (i : Nat) : (s.audPut e i).sealedQ = s.sealedQ := by
  unfold State.audPut; dsimp only; split <;> [(rw [State.raise_sealedQ]); rfl]
@[simp] theorem State.audit_sealedQ (s : State) (kind role i a old new : Nat) : (s.audit kind role i a old new).sealedQ = s.sealedQ := by
  unfold State.audit State.audAnchor; dsimp only; rw [State.audPut_sealedQ]; split <;> [exact State.audPut_sealedQ _ _ _; rfl]
@[simp] theorem State.audPut_rxStr (s : State) (e : BitVec 112) (i : Nat) : (s.audPut e i).rxStr = s.rxStr := by
  unfold State.audPut; dsimp only; split <;> [(rw [State.raise_rxStr]); rfl]
@[simp] theorem State.audit_rxStr (s : State) (kind role i a old new : Nat) : (s.audit kind role i a old new).rxStr = s.rxStr := by
  unfold State.audit State.audAnchor; dsimp only; rw [State.audPut_rxStr]; split <;> [exact State.audPut_rxStr _ _ _; rfl]
@[simp] theorem State.audPut_carr (s : State) (e : BitVec 112) (i : Nat) : (s.audPut e i).carr = s.carr := by
  unfold State.audPut; dsimp only; split <;> [(rw [State.raise_carr]); rfl]
@[simp] theorem State.audit_carr (s : State) (kind role i a old new : Nat) : (s.audit kind role i a old new).carr = s.carr := by
  unfold State.audit State.audAnchor; dsimp only; rw [State.audPut_carr]; split <;> [exact State.audPut_carr _ _ _; rfl]
@[simp] theorem State.audPut_dram (s : State) (e : BitVec 112) (i : Nat) : (s.audPut e i).dram = s.dram := by
  unfold State.audPut; dsimp only; split <;> [(rw [State.raise_dram]); rfl]
@[simp] theorem State.audit_dram (s : State) (kind role i a old new : Nat) : (s.audit kind role i a old new).dram = s.dram := by
  unfold State.audit State.audAnchor; dsimp only; rw [State.audPut_dram]; split <;> [exact State.audPut_dram _ _ _; rfl]
@[simp] theorem State.audPut_pair (s : State) (e : BitVec 112) (i : Nat) : (s.audPut e i).pair = s.pair := by
  unfold State.audPut; dsimp only; split <;> [(rw [State.raise_pair]); rfl]
@[simp] theorem State.audit_pair (s : State) (kind role i a old new : Nat) : (s.audit kind role i a old new).pair = s.pair := by
  unfold State.audit State.audAnchor; dsimp only; rw [State.audPut_pair]; split <;> [exact State.audPut_pair _ _ _; rfl]
@[simp] theorem State.audPut_pwr (s : State) (e : BitVec 112) (i : Nat) : (s.audPut e i).pwr = s.pwr := by
  unfold State.audPut; dsimp only; split <;> [(rw [State.raise_pwr]); rfl]
@[simp] theorem State.audit_pwr (s : State) (kind role i a old new : Nat) : (s.audit kind role i a old new).pwr = s.pwr := by
  unfold State.audit State.audAnchor; dsimp only; rw [State.audPut_pwr]; split <;> [exact State.audPut_pwr _ _ _; rfl]
@[simp] theorem State.audPut_boot (s : State) (e : BitVec 112) (i : Nat) : (s.audPut e i).boot = s.boot := by
  unfold State.audPut; dsimp only; split <;> [(rw [State.raise_boot]); rfl]
@[simp] theorem State.audit_boot (s : State) (kind role i a old new : Nat) : (s.audit kind role i a old new).boot = s.boot := by
  unfold State.audit State.audAnchor; dsimp only; rw [State.audPut_boot]; split <;> [exact State.audPut_boot _ _ _; rfl]
@[simp] theorem State.audPut_flash (s : State) (e : BitVec 112) (i : Nat) : (s.audPut e i).flash = s.flash := by
  unfold State.audPut; dsimp only; split <;> [(rw [State.raise_flash]); rfl]
@[simp] theorem State.audit_flash (s : State) (kind role i a old new : Nat) : (s.audit kind role i a old new).flash = s.flash := by
  unfold State.audit State.audAnchor; dsimp only; rw [State.audPut_flash]; split <;> [exact State.audPut_flash _ _ _; rfl]
@[simp] theorem State.audPut_jtag (s : State) (e : BitVec 112) (i : Nat) : (s.audPut e i).jtag = s.jtag := by
  unfold State.audPut; dsimp only; split <;> [(rw [State.raise_jtag]); rfl]
@[simp] theorem State.audit_jtag (s : State) (kind role i a old new : Nat) : (s.audit kind role i a old new).jtag = s.jtag := by
  unfold State.audit State.audAnchor; dsimp only; rw [State.audPut_jtag]; split <;> [exact State.audPut_jtag _ _ _; rfl]
@[simp] theorem State.audPut_mon (s : State) (e : BitVec 112) (i : Nat) : (s.audPut e i).mon = s.mon := by
  unfold State.audPut; dsimp only; split <;> [(rw [State.raise_mon]); rfl]
@[simp] theorem State.audit_mon (s : State) (kind role i a old new : Nat) : (s.audit kind role i a old new).mon = s.mon := by
  unfold State.audit State.audAnchor; dsimp only; rw [State.audPut_mon]; split <;> [exact State.audPut_mon _ _ _; rfl]

/-- A register read after a write of the same register. -/
theorem State.reg_setReg (s : State) (a : Nat) (w : Word) (h : Cells.wf resetOf s.regs = true) : (s.setReg a w).reg a = w :=
  Cells.get_set h a w

/-- A register read after a write of another register. -/
theorem State.reg_setReg_ne (s : State) (a b : Nat) (w : Word) (h : b ≠ a) : (s.setReg a w).reg b = s.reg b :=
  Cells.get_set_ne _ _ _ _ _ h

@[simp] theorem State.reg_emit (s : State) (o : Output) (a : Nat) : (s.emit o).reg a = s.reg a := rfl

@[simp] theorem State.reg_setEvt (s : State) (n : Nat) (e : EvtSt) (a : Nat) : (s.setEvt n e).reg a = s.reg a := rfl

theorem State.reg_setF_ne (s : State) (a b : Nat) (x : Fld) (v : Nat) (h : b ≠ a) : (s.setF a x v).reg b = s.reg b :=
  Cells.get_set_ne _ _ _ _ _ h

theorem State.reg_setFs_ne (s : State) (a b : Nat) (l : List (Fld × Nat)) (h : b ≠ a) : (s.setFs a l).reg b = s.reg b :=
  Cells.get_set_ne _ _ _ _ _ h

theorem State.reg_deliver (s : State) (n a : Nat) : (s.deliver n).reg a = s.reg a := by unfold State.deliver State.msixSend; (repeat' split) <;> rfl

/-- A cause changes no register but the status of its source. -/
theorem State.reg_raise_ne (s : State) (n c i b : Nat) (h : b ≠ EVT_SRC_STAT.a n) : (s.raise n c i).reg b = s.reg b := by
  unfold State.raise
  dsimp only
  split
  · rw [State.reg_deliver, State.reg_setFs_ne _ _ _ _ h]; rfl
  · rw [State.reg_setFs_ne _ _ _ _ h]; rfl

theorem State.reg_audPut_ne (s : State) (e : BitVec 112) (i b : Nat) (h : b ≠ EVT_SRC_STAT.a 60) : (s.audPut e i).reg b = s.reg b := by
  unfold State.audPut
  dsimp only
  split
  · rw [State.reg_raise_ne _ _ _ _ _ h]; rfl
  · rfl

/-- An audit entry changes no register but the status of source 60. -/
theorem State.reg_audit_ne (s : State) (kind role i a old new b : Nat) (h : b ≠ EVT_SRC_STAT.a 60) :
    (s.audit kind role i a old new).reg b = s.reg b := by
  unfold State.audit State.audAnchor
  dsimp only
  rw [State.reg_audPut_ne _ _ _ _ h]
  split
  · exact State.reg_audPut_ne _ _ _ _ h
  · rfl

theorem State.setReg_self (s : State) (a : Nat) (h : Cells.wf resetOf s.regs = true) : s.setReg a (s.reg a) = s := by
  unfold State.setReg State.reg
  rw [Cells.set_get h]

end Sys2Proof.Machine
end

