-- ==== Sys2Proof/Laws/Events.lean ====
section
/-! SUPPORT. What a cause that reaches an event source, an integrity fault and an audit entry leave (02 R34, R39 to R42, R52). -/

namespace Sys2Proof.Machine

theorem State.deliver_same (s : State) (n : Nat) :
    s.deliver n = { s with out := (s.deliver n).out, pcie := { s.pcie with pba := (s.deliver n).pcie.pba } } := by
  unfold State.deliver
  split
  · unfold State.msixSend
    dsimp only
    split <;> rfl
  · rfl

theorem State.raise_same (s : State) (n c i : Nat) : s.raise n c i = { s with regs := (s.raise n c i).regs, evt := (s.raise n c i).evt, out := (s.raise n c i).out, pcie := { s.pcie with pba := (s.raise n c i).pcie.pba } } := by
  unfold State.raise
  dsimp only
  split
  · rw [State.deliver_same]; rfl
  · rfl

/-- The storm window of source `n` after a cause, and whether the count now exceeds storm_n. -/
def raiseSt (s : State) (n : Nat) : EvtSt × Bool :=
  stormAfter (s.evtSt n) s.now (s.f (EVT_SRC_STORM.a n) EVT_SRC_STORM.storm_n) (s.f (EVT_SRC_STORM.a n) EVT_SRC_STORM.storm_win)

theorem State.reg_raise (s : State) (n c i : Nat) (hc : s.Canonical) : (s.raise n c i).reg (EVT_SRC_STAT.a n) =
    [(EVT_SRC_STAT.count, satTo 0xffff (fldGet (s.reg (EVT_SRC_STAT.a n)) EVT_SRC_STAT.count + 1)), (EVT_SRC_STAT.ff_valid, 1),
     (EVT_SRC_STAT.storm, if (raiseSt s n).2 then 1 else fldGet (s.reg (EVT_SRC_STAT.a n)) EVT_SRC_STAT.storm), (EVT_SRC_STAT.pend, 1)].foldl (fun w e => fldSet w e.1 e.2) (s.reg (EVT_SRC_STAT.a n)) := by
  have h : ∀ x : EvtSt, ((s.setEvt n x).setFs (EVT_SRC_STAT.a n) [(EVT_SRC_STAT.count, satTo 0xffff (fldGet (s.reg (EVT_SRC_STAT.a n)) EVT_SRC_STAT.count + 1)), (EVT_SRC_STAT.ff_valid, 1),
     (EVT_SRC_STAT.storm, if (raiseSt s n).2 then 1 else fldGet (s.reg (EVT_SRC_STAT.a n)) EVT_SRC_STAT.storm), (EVT_SRC_STAT.pend, 1)]).reg (EVT_SRC_STAT.a n) = _ := fun x => State.reg_setReg _ _ _ hc.regs
  unfold State.raise
  dsimp only
  split
  · rw [State.reg_deliver]; exact h _
  · exact h _

theorem State.evtSt_raise (s : State) (n c i : Nat) (hc : s.Canonical) : (s.raise n c i).evtSt n =
    { (raiseSt s n).1 with ff := ffAfter (fldGet (s.reg (EVT_SRC_STAT.a n)) EVT_SRC_STAT.ff_valid == 1) (s.evtSt n).ff ⟨s.tim.frt, s.now, c, i⟩ } := by
  have h : ∀ x, (s.setEvt n x).evtSt n = x := fun x => Cells.get_set hc.evt _ _
  unfold State.raise
  dsimp only
  split
  · rw [State.deliver_same]; exact h _
  · exact h _

theorem State.evtSt_raise_ne (s : State) (n c i m : Nat) (hm : m ≠ n) : (s.raise n c i).evtSt m = s.evtSt m := by
  have h : ∀ x, (s.setEvt n x).evtSt m = s.evtSt m := fun x => Cells.get_set_ne _ _ _ _ _ hm
  unfold State.raise
  dsimp only
  split
  · rw [State.deliver_same]; exact h _
  · exact h _

theorem integAddr_ne (b : Nat) (hb : b < 17) : integAddr b ≠ EVT_SRC_STAT.a 59 ∧ integAddr b + 4 ≠ EVT_SRC_STAT.a 59 := by
  revert hb; revert b; decide

theorem State.integ_same (s : State) (b : Nat) (k : Integ) (a : Nat) :
    s.integ b k a = { s with regs := (s.integ b k a).regs, evt := (s.integ b k a).evt, out := (s.integ b k a).out, pcie := { s.pcie with pba := (s.integ b k a).pcie.pba } } := by
  have h : ∀ u : State, u = { s with regs := u.regs } → ∀ w, (u.setReg (integAddr b) w).raise 59 k.code b =
      { s with regs := ((u.setReg (integAddr b) w).raise 59 k.code b).regs, evt := ((u.setReg (integAddr b) w).raise 59 k.code b).evt, out := ((u.setReg (integAddr b) w).raise 59 k.code b).out, pcie := { s.pcie with pba := ((u.setReg (integAddr b) w).raise 59 k.code b).pcie.pba } } := by
    intro u hu w
    conv => lhs; rw [State.raise_same]
    rw [hu]
    rfl
  unfold State.integ
  dsimp only
  split
  · exact h _ rfl _
  · exact h _ rfl _

theorem State.integ_sess (s : State) (b : Nat) (k : Integ) (a : Nat) : (s.integ b k a).sess = s.sess := by
  unfold State.integ
  dsimp only
  rw [State.raise_sess, State.setReg_sess]
  split <;> rfl

/-- `t` is `s` but for the audit log and the record of events. -/
def State.AudOnly (s t : State) : Prop := ∃ aud regs evt out pba, t = { s with aud := aud, regs := regs, evt := evt, out := out, pcie := { s.pcie with pba := pba } }

theorem State.AudOnly.trans {s t u : State} (h : s.AudOnly t) (k : t.AudOnly u) : s.AudOnly u := by
  obtain ⟨a, b, c, d, e, rfl⟩ := h
  obtain ⟨a2, b2, c2, d2, e2, rfl⟩ := k
  exact ⟨a2, b2, c2, d2, e2, rfl⟩

theorem State.AudOnly.same {s t : State} (h : s.AudOnly t) : t = { s with aud := t.aud, regs := t.regs, evt := t.evt, out := t.out, pcie := { s.pcie with pba := t.pcie.pba } } := by
  obtain ⟨a, b, c, d, e, rfl⟩ := h
  rfl

theorem State.AudOnly.of_raise (s : State) (n c i : Nat) : s.AudOnly (s.raise n c i) :=
  ⟨_, _, _, _, _, State.raise_same s n c i⟩

theorem State.audPut_only (s : State) (e : BitVec 112) (i : Nat) : s.AudOnly (s.audPut e i) := by
  unfold State.audPut
  dsimp only
  split
  · exact State.AudOnly.trans ⟨_, _, _, _, _, rfl⟩ (State.AudOnly.of_raise _ _ _ _)
  · exact ⟨_, _, _, _, _, rfl⟩

/-- An audit entry changes the log, and the record of source 60 where the log wraps. -/
theorem State.audit_only (s : State) (k r i a o n : Nat) : s.AudOnly (s.audit k r i a o n) := by
  unfold State.audit State.audAnchor
  dsimp only
  split
  · exact State.AudOnly.trans (State.AudOnly.trans (State.audPut_only _ _ _) ⟨_, _, _, _, _, rfl⟩) (State.audPut_only _ _ _)
  · exact State.audPut_only _ _ _

end Sys2Proof.Machine
end

