-- ==== Sys2Proof/Laws/Fabric.lean ====
section
/-! SUPPORT. What a software access that is in order does: an aligned 32-bit write of a plain register, of a strobe register, a
request at a mailbox; the fields of a request word. -/

namespace Sys2Proof.Machine

theorem and_ones (w : Word) : w &&& 4294967295#32 = w := by
  have e : (4294967295#32 : Word) = BitVec.allOnes 32 := by decide
  rw [e, BitVec.and_allOnes]

theorem State.live_of (s t : State) (h : s.powered = true) : s.live t = t := by unfold State.live; rw [if_pos h]

theorem State.guardBreak_quiet (s : State) (b : Nat) (h : s.guardOf b = none) : s.guardBreak b = s := by
  unfold State.guardBreak; rw [h]

theorem State.mayWrite_installer (s : State) (i a : Nat) (w : Word) (h : s.roleOf i = 2)
    (h1 : (a = ROL_LC_REQ.a ∨ a = ROL_LC_REQ.a + 4) = False) (h2 : carrOnly a = false) : s.mayWrite i a w = true := by
  unfold State.mayWrite
  rw [h]
  simp only [h1, h2]
  simp

/-- What the endpoint itself answers lies above the register windows. -/
theorem pcieOwn_lt {a : Nat} (ha : a < 0x2000000) : pcieOwn a = false := by
  unfold pcieOwn
  simp
  omega

theorem State.busWrite_word (s : State) (i a v : Nat) (race : Option Word) (h4 : a % 4 = 0) (ha : a < 0x2000000)
    (t : State) (h : s.write32 i a (BitVec.ofNat 32 v) race = (t, false)) : s.busWrite i a 4 v race = t := by
  unfold State.busWrite State.writeAt
  have e1 : ¬(a % 4 ≠ 0) := by omega
  have e3 : ¬(0x2000000 ≤ a) := by omega
  dsimp only
  rw [if_neg (by rw [pcieOwn_lt ha]; simp), if_neg e1, if_neg (by decide), if_neg e3, if_pos rfl, h]
  rfl

/-- A plain write of a register that is neither guarded nor SEQ_CTRL commits where the initiator's rights allow it. -/
theorem State.busWrite_may (s : State) (i a v : Nat) (race : Option Word) (r : RegRow) (hq : s.guardOf (blockOf a) = none)
    (hm : s.mayWrite i a (BitVec.ofNat 32 v) = true) (h4 : a % 4 = 0) (ha : a < 0x2000000)
    (hk : kindOf a = .reg r) (hg : r.guard = false) (hs : r.base ≠ SEQ_CTRL.a 0) :
    s.busWrite i a 4 v race = s.regCommit r i a (BitVec.ofNat 32 v) race := by
  refine State.busWrite_word s i a v race h4 ha _ ?_
  unfold State.write32
  rw [hk]
  simp only [hm, Bool.not_true]
  rw [if_neg (by decide), if_neg (by rw [hg]; decide), if_neg hs]
  unfold State.coreWrite
  rw [hq]
  dsimp only
  unfold State.plainWrite
  rw [hk]

/-- The same for the Installer. -/
theorem State.busWrite_reg (s : State) (i a v : Nat) (race : Option Word) (r : RegRow) (h : s.May i a) (h4 : a % 4 = 0) (ha : a < 0x2000000)
    (hk : kindOf a = .reg r) (hg : r.guard = false) (hs : r.base ≠ SEQ_CTRL.a 0)
    (h1 : (a = ROL_LC_REQ.a ∨ a = ROL_LC_REQ.a + 4) = False) (h2 : carrOnly a = false) :
    s.busWrite i a 4 v race = s.regCommit r i a (BitVec.ofNat 32 v) race :=
  State.busWrite_may s i a v race r h.quiet (State.mayWrite_installer s i a _ h.role h1 h2) h4 ha hk hg hs

theorem State.busRead_word (s : State) (i a : Nat) (r : RegRow) (hm : s.mayRead i a = true) (h4 : a % 4 = 0) (ha : a < 0x2000000)
    (hk : kindOf a = .reg r) :
    s.busRead i a 4 = (s.readReg r i a).1.emit (.readData i (s.readReg r i a).2.toNat) := by
  have hr32 : s.read32 i a = ((s.readReg r i a).1, (s.readReg r i a).2.toNat, false) := by
    have : a / 4 * 4 = a := by omega
    unfold State.read32
    dsimp only
    rw [this, hk]
    simp [hm]
  have hra : s.readAt i a 4 = ((s.readReg r i a).1, (s.readReg r i a).2.toNat, false) := by
    unfold State.readAt
    have e1 : ¬(a % 4 ≠ 0) := by omega
    have e2 : ¬(0x2000000 ≤ a) := by omega
    dsimp only
    rw [if_neg e1, if_neg e2, if_pos (by decide), hr32, h4]
    have : (s.readReg r i a).2.toNat < 2 ^ 32 := (s.readReg r i a).2.isLt
    simp
    omega
  unfold State.busRead
  rw [if_neg (by rw [pcieOwn_lt ha]; simp), hra]
  rfl

theorem State.guardOf_setGuard (s : State) (b : Nat) (g : Option GuardPend) (h : s.Canonical) : (s.setGuard b g).guardOf b = g :=
  Cells.get_set h.guards _ _

theorem State.poke_comp (s : State) (i a : Nat) (v : Word) (r : RegRow) (h4 : a % 4 = 0) (ha : a + 4 < 0x2000000)
    (hm : s.mayWrite i (a + 4) v = true) (hk : kindOf (a + 4) = .comp r) : s.poke i (a + 4) v = s.guardClose r i a v := by
  unfold State.poke
  refine State.busWrite_word s i _ _ none (by omega) (by omega) _ ?_
  unfold State.write32
  rw [hk]
  have e3 : BitVec.ofNat 32 v.toNat = v := by rw [BitVec.ofNat_toNat, BitVec.setWidth_eq]
  simp only [e3, hm, Bool.not_true]
  rw [if_neg (by decide), Nat.add_sub_cancel]

/-- Both halves of a guarded pair in succession commit (02 R28). -/
theorem State.pokeGuarded_commit (s : State) (i a : Nat) (v : Word) (r : RegRow) (hc : s.Canonical) (hq : s.guardOf (blockOf a) = none)
    (h4 : a % 4 = 0) (ha : a + 4 < 0x2000000) (hk : kindOf a = .reg r) (hg : r.guard = true) (hk2 : kindOf (a + 4) = .comp r)
    (hw : ∀ w, s.mayWrite i a w = true) (hw2 : ∀ g w, (s.setGuard (blockOf a) g).mayWrite i (a + 4) w = true) :
    s.pokeGuarded i a v = s.regCommit r i a v none := by
  have e3 : BitVec.ofNat 32 v.toNat = v := by rw [BitVec.ofNat_toNat, BitVec.setWidth_eq]
  have h1 : s.poke i a v = s.setGuard (blockOf a) (some ⟨i, a, v, s.now + 320⟩) := by
    unfold State.poke
    refine State.busWrite_word s i a _ none h4 (by omega) _ ?_
    unfold State.write32
    rw [hk, e3]
    simp only [hw v, Bool.not_true]
    rw [if_neg (by decide), if_pos hg]
    unfold State.guardOpen
    rw [State.guardBreak_quiet s _ hq]
  unfold State.pokeGuarded
  rw [h1, State.poke_comp _ i a _ r h4 ha (hw2 _ _) hk2]
  unfold State.guardClose
  dsimp only
  rw [State.guardOf_setGuard _ _ _ hc]
  dsimp only
  rw [if_neg (by show ¬(s.now + 320 < s.now); omega), State.guardOf_setGuard _ _ _ hc]
  dsimp only
  rw [if_neg (by simp), if_pos (by simp)]
  congr 1
  unfold State.setGuard
  have : Cells.set (fun _ => none) (Cells.set (fun _ => none) s.guards (blockOf a) (some ⟨i, a, v, s.now + 320⟩)) (blockOf a) none = s.guards := by
    rw [Cells.set_set hc.guards]
    have := Cells.set_get hc.guards (blockOf a)
    unfold State.guardOf at hq
    rw [hq] at this
    exact this
  dsimp only
  rw [this]

theorem State.poke_reg (s : State) (i a : Nat) (v : Word) (r : RegRow) (h : s.May i a) (h4 : a % 4 = 0) (ha : a < 0x2000000)
    (hk : kindOf a = .reg r) (hg : r.guard = false) (hs : r.base ≠ SEQ_CTRL.a 0)
    (h1 : (a = ROL_LC_REQ.a ∨ a = ROL_LC_REQ.a + 4) = False) (h2 : carrOnly a = false) :
    s.poke i a v = s.regCommit r i a v none := by
  unfold State.poke
  rw [State.busWrite_reg s i a v.toNat none r h h4 ha hk hg hs h1 h2]
  simp

theorem State.rwMask_plain (s : State) (r : RegRow) (a : Nat) (h : (r.base != EVT_SRC_CFG.a 0 && r.base != GW_POOL.a && r.base != SHP_PORT_CFG.a 0 && r.base != ETH_PORT_MODE.a 0) = true) :
    s.rwMask r a = r.rw ||| r.rwh ||| r.rwg := by
  simp only [Bool.and_eq_true, bne_iff_ne] at h
  obtain ⟨⟨⟨h1, h2⟩, h3⟩, h4⟩ := h
  unfold State.rwMask
  dsimp only
  rw [if_neg h1, if_neg (fun q => h2 q.1), if_neg (fun q => h3 q.1), if_neg (fun q => h4 q.1)]

/-- A plain write of a register that holds RW fields: the value, its audit entry, and the effect of its chapter. -/
theorem State.poke_commit (s : State) (i a : Nat) (w : Word) (r : RegRow) (hc : s.Canonical) (h : s.May i a) (hk : kindOf a = .reg r)
    (ha : (a % 4 == 0 && decide (a < 0x2000000) && a != ROL_LC_REQ.a && a != ROL_LC_REQ.a + 4 && !carrOnly a) = true)
    (hr : (!r.guard && r.base != SEQ_CTRL.a 0 && r.base != POL_METER_CFG.a 0 0) = true) (hl : logged r = true) (hm : s.rwMask r a ≠ 0#32) :
    s.poke i a w = (s.committed r i a w).regEffect r i a (s.hw a) w := by
  simp only [Bool.and_eq_true, beq_iff_eq, bne_iff_ne, Bool.not_eq_true', decide_eq_true_eq] at hr ha
  obtain ⟨⟨⟨⟨a1, a2⟩, a3⟩, a4⟩, a5⟩ := ha
  obtain ⟨⟨h5, h6⟩, h7⟩ := hr
  rw [State.poke_reg s i a w r h a1 a2 hk h5 h6 (by simp [a3, a4]) a5]
  unfold State.regCommit State.preWrite
  rw [if_neg h7]
  dsimp only
  have e : ((s.setReg a (s.newVal r a w)).parClear a (s.rwMask r a)).reg a = s.newVal r a w := State.reg_setReg _ _ _ hc.regs
  have e2 : (s.rwMask r a != 0#32) = true := by simpa using hm
  unfold State.raceWith State.auditWrite
  dsimp only
  rw [e, hl, e2, if_neg a3]
  rfl

/-- The parity bookkeeping that nothing changes. -/
theorem State.parClear_zero (s : State) (a : Nat) (h : Cells.wf (fun _ => {}) s.par = true) : s.parClear a 0#32 = s := by
  unfold State.parClear
  have e : ∀ w : Word, w &&& ~~~0#32 = w := by intro w; simp [and_ones]
  simp only [e]
  have : Cells.set (fun _ => ({} : ParSt)) s.par a (s.parOf a) = s.par := Cells.set_get h a
  show { s with par := Cells.set (fun _ => {}) s.par a (s.parOf a) } = s
  rw [this]

/-- A write of a register that holds no stored bit of its own: its effect. -/
theorem State.regCommit_strobe (s : State) (r : RegRow) (i a : Nat) (w : Word) (h : s.Canonical)
    (hm : s.rwMask r a = 0#32) (hc : clearMask r = 0#32) (hb : r.base ≠ POL_METER_CFG.a 0 0) :
    s.regCommit r i a w none = s.regEffect r i a (s.hw a) w := by
  unfold State.regCommit State.preWrite
  rw [if_neg hb]
  dsimp only
  have e : s.newVal r a w = s.reg a := by
    unfold State.newVal
    rw [hm, hc]
    simp [and_ones]
  rw [e, State.setReg_self s a h.regs, hm, State.parClear_zero s a h.par]
  unfold State.raceWith
  dsimp only
  rw [if_neg (by simp)]

/-- A write of a register whose bits only clear. -/
theorem State.regCommit_clear (s : State) (r : RegRow) (i a : Nat) (w : Word) (h : s.Canonical)
    (hm : s.rwMask r a = 0#32) (hb : r.base ≠ POL_METER_CFG.a 0 0) :
    s.regCommit r i a w none = (s.setReg a (s.reg a &&& ~~~(w &&& clearMask r))).regEffect r i a (s.hw a) w := by
  unfold State.regCommit State.preWrite
  rw [if_neg hb]
  dsimp only
  have e : s.newVal r a w = s.reg a &&& ~~~(w &&& clearMask r) := by
    unfold State.newVal
    rw [hm]
    simp [and_ones]
  rw [e, hm, State.parClear_zero _ a (by simpa using h.par)]
  unfold State.raceWith
  dsimp only
  rw [if_neg (by simp)]

/-! ### Requests -/

/-- The word of a request. -/
theorem request_fields (op arg : Nat) (ho : op < 256) (ha : arg < 65536) :
    let w := BitVec.ofNat 32 (arg * 65536 + op * 256 + 1)
    fldGet w MBX_CTRL.req = 1 ∧ fldGet w MBX_CTRL.op = op ∧ fldGet w MBX_CTRL.arg = arg := by
  dsimp only
  unfold fldGet MBX_CTRL.req MBX_CTRL.op MBX_CTRL.arg
  simp only [BitVec.toNat_ofNat]
  refine ⟨by omega, by omega, by omega⟩

theorem reqWord_idle (op arg : Nat) : fldGet (reqWord op arg 0) MBX_CTRL.req = 0 := fldGet_fldSet _ _ _ (by decide)

theorem State.mbxCtrl_go (s : State) (mb : MbxRow) (i a op arg : Nat) (ho : op < 256) (ha : arg < 65536)
    (h : fldGet (s.reg a) MBX_CTRL.req = 0) :
    s.mbxCtrl mb i a (BitVec.ofNat 32 (arg * 65536 + op * 256 + 1)) =
      ((if ctrlLogged mb (BitVec.ofNat 32 (arg * 65536 + op * 256 + 1)) = true then
        (s.setReg a (reqWord op arg (b2n (!mb.rd)))).auditWrite i a (s.reg a) (reqWord op arg (b2n (!mb.rd)))
        else s.setReg a (reqWord op arg (b2n (!mb.rd)))).mbxReq a i op arg) := by
  obtain ⟨h1, h2, h3⟩ := request_fields op arg ho ha
  unfold State.mbxCtrl reqWord
  simp only [h, h1, h2, h3]
  simp

/-- A request at a read mailbox (02 R35): the words of its snapshot, with no audit entry (02 R52). -/
theorem State.request_ask_may (s : State) (i m op arg : Nat) (mb : MbxRow) (hq : s.guardOf (blockOf m) = none)
    (h0 : fldGet (s.reg m) MBX_CTRL.req = 0) (hw : s.mayWrite i m (BitVec.ofNat 32 (arg * 65536 + op * 256 + 1)) = true) (ho : op < 256)
    (ha : arg < 65536) (h4 : m % 4 = 0) (hm : m < 0x2000000) (hk : kindOf m = .mctrl mb) (hr : mb.rd = true) :
    s.request i m op arg = (s.asked m op arg).mbxReq m i op arg := by
  unfold State.request State.poke
  refine State.busWrite_word s i m _ none h4 hm _ ?_
  have e : BitVec.ofNat 32 (BitVec.ofNat 32 (arg * 65536 + op * 256 + 1)).toNat = BitVec.ofNat 32 (arg * 65536 + op * 256 + 1) := by
    rw [BitVec.ofNat_toNat, BitVec.setWidth_eq]
  rw [e]
  unfold State.write32
  rw [hk]
  simp only [hw, Bool.not_true]
  rw [if_neg (by decide)]
  unfold State.coreWrite
  rw [hq]
  dsimp only
  unfold State.plainWrite
  rw [hk]
  dsimp only
  rw [State.mbxCtrl_go s mb i m op arg ho ha h0]
  have hl : ctrlLogged mb (BitVec.ofNat 32 (arg * 65536 + op * 256 + 1)) = false := by
    unfold ctrlLogged
    rw [(request_fields op arg ho ha).1, hr]
    rfl
  rw [hl, hr]
  rfl

/-- The same where the initiator holds a role. -/
theorem State.request_ask (s : State) (i m op arg : Nat) (mb : MbxRow) (h : s.MayAsk i m) (ho : op < 256) (ha : arg < 65536)
    (h4 : m % 4 = 0) (hm : m < 0x2000000) (hk : kindOf m = .mctrl mb) (hr : mb.rd = true)
    (h1 : (m = ROL_LC_REQ.a ∨ m = ROL_LC_REQ.a + 4) = False) (h2 : carrOnly m = false) :
    s.request i m op arg = (s.asked m op arg).mbxReq m i op arg := by
  refine State.request_ask_may s i m op arg mb h.quiet h.idle ?_ ho ha h4 hm hk hr
  unfold State.mayWrite
  have hr0 : (s.roleOf i != 0) = true := by simpa using h.role
  simp only [h1, h2, hk, readMailbox, hr, hr0]
  simp

/-- A command at a write mailbox (02 R37): the control word, its audit entry where it is logged (02 R52), the command. -/
theorem State.request_order_may (s : State) (i m op arg : Nat) (mb : MbxRow) (hq : s.guardOf (blockOf m) = none)
    (h0 : fldGet (s.reg m) MBX_CTRL.req = 0) (hw : s.mayWrite i m (BitVec.ofNat 32 (arg * 65536 + op * 256 + 1)) = true) (ho : op < 256)
    (ha : arg < 65536) (h4 : m % 4 = 0) (hm : m < 0x2000000) (hk : kindOf m = .mctrl mb) (hr : mb.rd = false)
    (h1 : (m = ROL_LC_REQ.a ∨ m = ROL_LC_REQ.a + 4) = False) :
    s.request i m op arg = ((if ctrlLogged mb (BitVec.ofNat 32 (arg * 65536 + op * 256 + 1)) = true then
        s.ordered i m op arg else s.setReg m (reqWord op arg 1)).mbxReq m i op arg) := by
  unfold State.request State.poke
  refine State.busWrite_word s i m _ none h4 hm _ ?_
  have e : BitVec.ofNat 32 (BitVec.ofNat 32 (arg * 65536 + op * 256 + 1)).toNat = BitVec.ofNat 32 (arg * 65536 + op * 256 + 1) := by
    rw [BitVec.ofNat_toNat, BitVec.setWidth_eq]
  rw [e]
  unfold State.write32
  rw [hk]
  simp only [hw, Bool.not_true]
  rw [if_neg (by decide)]
  unfold State.coreWrite
  rw [hq]
  dsimp only
  unfold State.plainWrite
  rw [hk]
  dsimp only
  rw [State.mbxCtrl_go s mb i m op arg ho ha h0, hr]
  have e2 : (s.setReg m (reqWord op arg 1)).auditWrite i m (s.reg m) (reqWord op arg 1) =
      (s.setReg m (reqWord op arg 1)).audit 0 (s.roleOf i) i m (s.reg m).toNat (reqWord op arg 1).toNat := by
    unfold State.auditWrite
    have : ¬(m = ROL_LC_REQ.a) := fun q => by simp [q] at h1
    rw [if_neg this]
    rfl
  show (_, false) = (_, false)
  have e3 : b2n (!false) = 1 := rfl
  rw [e3, e2]
  rfl

/-- The same for the Installer. -/
theorem State.request_order (s : State) (i m op arg : Nat) (mb : MbxRow) (h : s.MayOrder i m) (ho : op < 256) (ha : arg < 65536)
    (h4 : m % 4 = 0) (hm : m < 0x2000000) (hk : kindOf m = .mctrl mb) (hr : mb.rd = false)
    (h1 : (m = ROL_LC_REQ.a ∨ m = ROL_LC_REQ.a + 4) = False) (h2 : carrOnly m = false) :
    s.request i m op arg = ((if ctrlLogged mb (BitVec.ofNat 32 (arg * 65536 + op * 256 + 1)) = true then s.ordered i m op arg
        else s.setReg m (reqWord op arg 1)).mbxReq m i op arg) := by
  rw [State.request_order_may s i m op arg mb h.may.quiet h.idle (State.mayWrite_installer s i m _ h.may.role h1 h2) ho ha h4 hm hk hr h1]

end Sys2Proof.Machine
end

