-- ==== Sys2Proof/Laws/Keeps.lean ====
section
/-! SUPPORT. `State.Keeps` as a relation: it is reflexive and transitive, an update of each field keeps it, and so does a fold of
operations that keep it. -/

namespace Sys2Proof.Machine

theorem State.Keeps.refl (s : State) : s.Keeps s :=
  ⟨rfl, rfl, Nat.le_refl _, List.suffix_refl _, Nat.le_refl _, Nat.le_refl _, fun h => ⟨Nat.le_refl _, h⟩, fun h => h, fun h => h⟩

theorem State.Keeps.trans {a b c : State} (h : a.Keeps b) (k : b.Keeps c) : a.Keeps c :=
  ⟨k.pending.trans h.pending, k.now.trans h.now, Nat.le_trans h.free k.free, h.out.trans k.out, Nat.le_trans h.inst k.inst,
   Nat.le_trans h.oper k.oper, fun l => ⟨Nat.le_trans (h.life l).1 (k.life (h.life l).2).1, (k.life (h.life l).2).2⟩,
   fun l => k.canon (h.canon l), fun l => k.numbered (h.numbered l)⟩

theorem State.Keeps.freeIdx_upd {s0 s : State} {x : Nat} (h : s0.Keeps s) (hx : s.freeIdx ≤ x) :
    s0.Keeps { s with freeIdx := x } :=
  ⟨h.1, h.2, Nat.le_trans h.3 hx, h.4, h.5, h.6, h.7, fun c => { h.8 c with }, h.9⟩

theorem State.Keeps.out_upd {s0 s : State} {x : Output} (h : s0.Keeps s) : s0.Keeps { s with out := x :: s.out } :=
  ⟨h.1, h.2, h.3, h.4.trans (List.suffix_cons _ _), h.5, h.6, h.7, fun c => { h.8 c with }, h.9⟩

theorem State.Keeps.regs_upd {s0 s : State} {x : Cells Word} (h : s0.Keeps s)
    (hx : s.Canonical → Cells.wf resetOf x = true) : s0.Keeps { s with regs := x } :=
  ⟨h.1, h.2, h.3, h.4, h.5, h.6, h.7, fun c => { h.8 c with regs := hx (h.8 c) }, h.9⟩

theorem State.Keeps.par_upd {s0 s : State} {x : Cells ParSt} (h : s0.Keeps s)
    (hx : s.Canonical → Cells.wf (fun _ => {}) x = true) : s0.Keeps { s with par := x } :=
  ⟨h.1, h.2, h.3, h.4, h.5, h.6, h.7, fun c => { h.8 c with par := hx (h.8 c) }, h.9⟩

theorem State.Keeps.guards_upd {s0 s : State} {x : Cells (Option GuardPend)} (h : s0.Keeps s)
    (hx : s.Canonical → Cells.wf (fun _ => none) x = true) : s0.Keeps { s with guards := x } :=
  ⟨h.1, h.2, h.3, h.4, h.5, h.6, h.7, fun c => { h.8 c with guards := hx (h.8 c) }, h.9⟩

theorem State.Keeps.evt_upd {s0 s : State} {x : Cells EvtSt} (h : s0.Keeps s)
    (hx : s.Canonical → Cells.wf (fun _ => {}) x = true) : s0.Keeps { s with evt := x } :=
  ⟨h.1, h.2, h.3, h.4, h.5, h.6, h.7, fun c => { h.8 c with evt := hx (h.8 c) }, h.9⟩

theorem State.Keeps.sess_upd {s0 s : State} {x : Cells RoleSess} (h : s0.Keeps s)
    (hx : s.Canonical → Cells.wf (fun _ => {}) x = true) : s0.Keeps { s with sess := x } :=
  ⟨h.1, h.2, h.3, h.4, h.5, h.6, h.7, fun c => { h.8 c with sess := hx (h.8 c) }, h.9⟩

theorem State.Keeps.lock_upd {s0 s : State} {x : Cells RoleLock} (h : s0.Keeps s)
    (hx : s.Canonical → Cells.wf (fun _ => {}) x = true) : s0.Keeps { s with lock := x } :=
  ⟨h.1, h.2, h.3, h.4, h.5, h.6, h.7, fun c => { h.8 c with lock := hx (h.8 c) }, h.9⟩

theorem State.Keeps.fuse_upd {s0 s : State} {x : RoleFuse} (h : s0.Keeps s) (h1 : s.fuse.instUsed ≤ x.instUsed)
    (h2 : s.fuse.operUsed ≤ x.operUsed) (h3 : s.LifecycleOk → s.fuse.state ≤ x.state ∧ x.state ≤ x.target) :
    s0.Keeps { s with fuse := x } :=
  ⟨h.1, h.2, h.3, h.4, Nat.le_trans h.5 h1, Nat.le_trans h.6 h2,
   fun l => ⟨Nat.le_trans (h.7 l).1 (h3 (h.7 l).2).1, (h3 (h.7 l).2).2⟩, fun c => { h.8 c with }, h.9⟩

theorem State.Keeps.aud_upd {s0 s : State} {x : AudSt} (h : s0.Keeps s) : s0.Keeps { s with aud := x } :=
  ⟨h.1, h.2, h.3, h.4, h.5, h.6, h.7, fun c => { h.8 c with }, h.9⟩

theorem State.Keeps.tim_upd {s0 s : State} {x : TimSt} (h : s0.Keeps s) : s0.Keeps { s with tim := x } :=
  ⟨h.1, h.2, h.3, h.4, h.5, h.6, h.7, fun c => { h.8 c with }, h.9⟩

theorem State.Keeps.wktPrev_upd {s0 s : State} {x : Nat} (h : s0.Keeps s) : s0.Keeps { s with wktPrev := x } :=
  ⟨h.1, h.2, h.3, h.4, h.5, h.6, h.7, fun c => { h.8 c with }, h.9⟩

theorem State.Keeps.phs_upd {s0 s : State} {x : Cells PhSt} (h : s0.Keeps s)
    (hx : s.Canonical → Cells.wf (fun _ => {}) x = true) : s0.Keeps { s with phs := x } :=
  ⟨h.1, h.2, h.3, h.4, h.5, h.6, h.7, fun c => { h.8 c with phs := hx (h.8 c) }, h.9⟩

theorem State.Keeps.phLev_upd {s0 s : State} {x : Cells Bool} (h : s0.Keeps s)
    (hx : s.Canonical → Cells.wf (fun _ => false) x = true) : s0.Keeps { s with phLev := x } :=
  ⟨h.1, h.2, h.3, h.4, h.5, h.6, h.7, fun c => { h.8 c with phLev := hx (h.8 c) }, h.9⟩

theorem State.Keeps.seq_upd {s0 s : State} {x : Cells SeqSt} (h : s0.Keeps s)
    (hx : s.Canonical → Cells.wf (fun _ => {}) x = true) : s0.Keeps { s with seq := x } :=
  ⟨h.1, h.2, h.3, h.4, h.5, h.6, h.7, fun c => { h.8 c with seq := hx (h.8 c) }, h.9⟩

theorem State.Keeps.acts_upd {s0 s : State} {x : Cells ActSt} (h : s0.Keeps s)
    (hx : s.Canonical → Cells.wf (fun _ => {}) x = true) : s0.Keeps { s with acts := x } :=
  ⟨h.1, h.2, h.3, h.4, h.5, h.6, h.7, fun c => { h.8 c with acts := hx (h.8 c) }, h.9⟩

theorem State.Keeps.sync_upd {s0 s : State} {x : Cells SyncPin} (h : s0.Keeps s)
    (hx : s.Canonical → Cells.wf (fun _ => {}) x = true) : s0.Keeps { s with sync := x } :=
  ⟨h.1, h.2, h.3, h.4, h.5, h.6, h.7, fun c => { h.8 c with sync := hx (h.8 c) }, h.9⟩

theorem State.Keeps.win_upd {s0 s : State} {x : Cells Byte} (h : s0.Keeps s)
    (hx : s.Canonical → Cells.wf (fun _ => 0#8) x = true) : s0.Keeps { s with win := x } :=
  ⟨h.1, h.2, h.3, h.4, h.5, h.6, h.7, fun c => { h.8 c with win := hx (h.8 c) }, h.9⟩

theorem State.Keeps.fdb_upd {s0 s : State} {x : Cells (Option FdbEnt)} (h : s0.Keeps s)
    (hx : s.Canonical → Cells.wf (fun _ => none) x = true) : s0.Keeps { s with fdb := x } :=
  ⟨h.1, h.2, h.3, h.4, h.5, h.6, h.7, fun c => { h.8 c with fdb := hx (h.8 c) }, h.9⟩

theorem State.Keeps.flw_upd {s0 s : State} {x : Cells (Option FlwEnt)} (h : s0.Keeps s)
    (hx : s.Canonical → Cells.wf (fun _ => none) x = true) : s0.Keeps { s with flw := x } :=
  ⟨h.1, h.2, h.3, h.4, h.5, h.6, h.7, fun c => { h.8 c with flw := hx (h.8 c) }, h.9⟩

theorem State.Keeps.pipe_upd {s0 s : State} {x : Cells PipeSt} (h : s0.Keeps s)
    (hx : s.Canonical → Cells.wf (fun _ => {}) x = true) : s0.Keeps { s with pipe := x } :=
  ⟨h.1, h.2, h.3, h.4, h.5, h.6, h.7, fun c => { h.8 c with pipe := hx (h.8 c) }, h.9⟩

theorem State.Keeps.ruleBad_upd {s0 s : State} {x : Cells Bool} (h : s0.Keeps s)
    (hx : s.Canonical → Cells.wf (fun _ => false) x = true) : s0.Keeps { s with ruleBad := x } :=
  ⟨h.1, h.2, h.3, h.4, h.5, h.6, h.7, fun c => { h.8 c with ruleBad := hx (h.8 c) }, h.9⟩

theorem State.Keeps.ruleCnt_upd {s0 s : State} {x : Cells Nat} (h : s0.Keeps s)
    (hx : s.Canonical → Cells.wf (fun _ => 0) x = true) : s0.Keeps { s with ruleCnt := x } :=
  ⟨h.1, h.2, h.3, h.4, h.5, h.6, h.7, fun c => { h.8 c with ruleCnt := hx (h.8 c) }, h.9⟩

theorem State.Keeps.latch_upd {s0 s : State} {x : Cells (Option (Nat × Nat))} (h : s0.Keeps s)
    (hx : s.Canonical → Cells.wf (fun _ => none) x = true) : s0.Keeps { s with latch := x } :=
  ⟨h.1, h.2, h.3, h.4, h.5, h.6, h.7, fun c => { h.8 c with latch := hx (h.8 c) }, h.9⟩

theorem State.Keeps.nextId_upd {s0 s : State} {x : Nat} (h : s0.Keeps s) (hx : s.Numbered → State.Numbered { s with nextId := x }) :
    s0.Keeps { s with nextId := x } :=
  ⟨h.1, h.2, h.3, h.4, h.5, h.6, h.7, fun c => { h.8 c with }, fun n => hx (h.9 n)⟩

theorem State.Keeps.frames_upd {s0 s : State} {x : List Frame} (h : s0.Keeps s) (hx : s.Numbered → State.Numbered { s with frames := x }) :
    s0.Keeps { s with frames := x } :=
  ⟨h.1, h.2, h.3, h.4, h.5, h.6, h.7, fun c => { h.8 c with }, fun n => hx (h.9 n)⟩

theorem State.Keeps.copies_upd {s0 s : State} {x : List Copy} (h : s0.Keeps s) (hx : s.Numbered → State.Numbered { s with copies := x }) :
    s0.Keeps { s with copies := x } :=
  ⟨h.1, h.2, h.3, h.4, h.5, h.6, h.7, fun c => { h.8 c with }, fun n => hx (h.9 n)⟩

theorem State.Keeps.bankUse_upd {s0 s : State} {x : Cells Nat} (h : s0.Keeps s)
    (hx : s.Canonical → Cells.wf (fun _ => 0) x = true) : s0.Keeps { s with bankUse := x } :=
  ⟨h.1, h.2, h.3, h.4, h.5, h.6, h.7, fun c => { h.8 c with bankUse := hx (h.8 c) }, h.9⟩

theorem State.Keeps.bankPtr_upd {s0 s : State} {x : Cells Nat} (h : s0.Keeps s)
    (hx : s.Canonical → Cells.wf (fun _ => 0) x = true) : s0.Keeps { s with bankPtr := x } :=
  ⟨h.1, h.2, h.3, h.4, h.5, h.6, h.7, fun c => { h.8 c with bankPtr := hx (h.8 c) }, h.9⟩

theorem State.Keeps.matcher_upd {s0 s : State} {x : MatchSt} (h : s0.Keeps s) : s0.Keeps { s with matcher := x } :=
  ⟨h.1, h.2, h.3, h.4, h.5, h.6, h.7, fun c => { h.8 c with }, h.9⟩

theorem State.Keeps.eraseBad_upd {s0 s : State} {x : Bool} (h : s0.Keeps s) : s0.Keeps { s with eraseBad := x } :=
  ⟨h.1, h.2, h.3, h.4, h.5, h.6, h.7, fun c => { h.8 c with }, h.9⟩

theorem State.Keeps.pcie_upd {s0 s : State} {x : PcieSt} (h : s0.Keeps s)
    (hx : s.Canonical → Cells.wf cfgReset x.cfg = true) (hy : s.Canonical → Cells.wf msixReset x.tbl = true) :
    s0.Keeps { s with pcie := x } :=
  ⟨h.1, h.2, h.3, h.4, h.5, h.6, h.7, fun c => { h.8 c with pcieCfg := hx (h.8 c), pcieTbl := hy (h.8 c) }, h.9⟩

theorem State.Keeps.pcieCfg_set {s0 s : State} (h : s0.Keeps s) (k : Nat) (v : Word) :
    s0.Keeps { s with pcie := { s.pcie with cfg := Cells.set cfgReset s.pcie.cfg k v } } :=
  State.Keeps.pcie_upd h (fun c => Cells.wf_set c.pcieCfg k v) (fun c => c.pcieTbl)

theorem State.Keeps.spilling_upd {s0 s : State} {x : Bool} (h : s0.Keeps s) : s0.Keeps { s with spilling := x } :=
  ⟨h.1, h.2, h.3, h.4, h.5, h.6, h.7, fun c => { h.8 c with }, h.9⟩

theorem State.Keeps.peatFull_upd {s0 s : State} {x : Bool} (h : s0.Keeps s) : s0.Keeps { s with peatFull := x } :=
  ⟨h.1, h.2, h.3, h.4, h.5, h.6, h.7, fun c => { h.8 c with }, h.9⟩

theorem State.Keeps.ports_upd {s0 s : State} {x : Cells PortSt} (h : s0.Keeps s)
    (hx : s.Canonical → Cells.wf (fun _ => {}) x = true) : s0.Keeps { s with ports := x } :=
  ⟨h.1, h.2, h.3, h.4, h.5, h.6, h.7, fun c => { h.8 c with ports := hx (h.8 c) }, h.9⟩

theorem State.Keeps.credit_upd {s0 s : State} {x : Cells Int} (h : s0.Keeps s)
    (hx : s.Canonical → Cells.wf (fun _ => 0) x = true) : s0.Keeps { s with credit := x } :=
  ⟨h.1, h.2, h.3, h.4, h.5, h.6, h.7, fun c => { h.8 c with credit := hx (h.8 c) }, h.9⟩

theorem State.Keeps.wfq_upd {s0 s : State} {x : Cells Nat} (h : s0.Keeps s)
    (hx : s.Canonical → Cells.wf (fun _ => 0) x = true) : s0.Keeps { s with wfq := x } :=
  ⟨h.1, h.2, h.3, h.4, h.5, h.6, h.7, fun c => { h.8 c with wfq := hx (h.8 c) }, h.9⟩

theorem State.Keeps.wfqV_upd {s0 s : State} {x : Cells Nat} (h : s0.Keeps s)
    (hx : s.Canonical → Cells.wf (fun _ => 0) x = true) : s0.Keeps { s with wfqV := x } :=
  ⟨h.1, h.2, h.3, h.4, h.5, h.6, h.7, fun c => { h.8 c with wfqV := hx (h.8 c) }, h.9⟩

theorem State.Keeps.meters_upd {s0 s : State} {x : Cells MeterSt} (h : s0.Keeps s)
    (hx : s.Canonical → Cells.wf (fun _ => {}) x = true) : s0.Keeps { s with meters := x } :=
  ⟨h.1, h.2, h.3, h.4, h.5, h.6, h.7, fun c => { h.8 c with meters := hx (h.8 c) }, h.9⟩

theorem State.Keeps.mib_upd {s0 s : State} {x : Cells Nat} (h : s0.Keeps s)
    (hx : s.Canonical → Cells.wf (fun _ => 0) x = true) : s0.Keeps { s with mib := x } :=
  ⟨h.1, h.2, h.3, h.4, h.5, h.6, h.7, fun c => { h.8 c with mib := hx (h.8 c) }, h.9⟩

theorem State.Keeps.sa_upd {s0 s : State} {x : Cells SaSlot} (h : s0.Keeps s)
    (hx : s.Canonical → Cells.wf (fun _ => {}) x = true) : s0.Keeps { s with sa := x } :=
  ⟨h.1, h.2, h.3, h.4, h.5, h.6, h.7, fun c => { h.8 c with sa := hx (h.8 c) }, h.9⟩

theorem State.Keeps.rxLast_upd {s0 s : State} {x : Cells Nat} (h : s0.Keeps s)
    (hx : s.Canonical → Cells.wf (fun _ => 0) x = true) : s0.Keeps { s with rxLast := x } :=
  ⟨h.1, h.2, h.3, h.4, h.5, h.6, h.7, fun c => { h.8 c with rxLast := hx (h.8 c) }, h.9⟩

theorem State.Keeps.cipMib_upd {s0 s : State} {x : Cells Nat} (h : s0.Keeps s)
    (hx : s.Canonical → Cells.wf (fun _ => 0) x = true) : s0.Keeps { s with cipMib := x } :=
  ⟨h.1, h.2, h.3, h.4, h.5, h.6, h.7, fun c => { h.8 c with cipMib := hx (h.8 c) }, h.9⟩

theorem State.Keeps.cjobs_upd {s0 s : State} {x : List CJob} (h : s0.Keeps s) : s0.Keeps { s with cjobs := x } :=
  ⟨h.1, h.2, h.3, h.4, h.5, h.6, h.7, fun c => { h.8 c with }, h.9⟩

theorem State.Keeps.ringPtr_upd {s0 s : State} {x : Cells Nat} (h : s0.Keeps s)
    (hx : s.Canonical → Cells.wf (fun _ => 0) x = true) : s0.Keeps { s with ringPtr := x } :=
  ⟨h.1, h.2, h.3, h.4, h.5, h.6, h.7, fun c => { h.8 c with ringPtr := hx (h.8 c) }, h.9⟩

theorem State.Keeps.pcieGen_upd {s0 s : State} {x : Nat} (h : s0.Keeps s) : s0.Keeps { s with pcieGen := x } :=
  ⟨h.1, h.2, h.3, h.4, h.5, h.6, h.7, fun c => { h.8 c with }, h.9⟩

theorem State.Keeps.mdio_upd {s0 s : State} {x : MdioSt} (h : s0.Keeps s) : s0.Keeps { s with mdio := x } :=
  ⟨h.1, h.2, h.3, h.4, h.5, h.6, h.7, fun c => { h.8 c with }, h.9⟩

theorem State.Keeps.fre_upd {s0 s : State} {x : Cells FreSt} (h : s0.Keeps s)
    (hx : s.Canonical → Cells.wf (fun _ => {}) x = true) : s0.Keeps { s with fre := x } :=
  ⟨h.1, h.2, h.3, h.4, h.5, h.6, h.7, fun c => { h.8 c with fre := hx (h.8 c) }, h.9⟩

theorem State.Keeps.sram_upd {s0 s : State} {x : Cells Byte} (h : s0.Keeps s)
    (hx : s.Canonical → Cells.wf (fun _ => 0#8) x = true) : s0.Keeps { s with sram := x } :=
  ⟨h.1, h.2, h.3, h.4, h.5, h.6, h.7, fun c => { h.8 c with sram := hx (h.8 c) }, h.9⟩

theorem State.Keeps.can_upd {s0 s : State} {x : Cells CanSt} (h : s0.Keeps s)
    (hx : s.Canonical → Cells.wf (fun _ => {}) x = true) : s0.Keeps { s with can := x } :=
  ⟨h.1, h.2, h.3, h.4, h.5, h.6, h.7, fun c => { h.8 c with can := hx (h.8 c) }, h.9⟩

theorem State.Keeps.lin_upd {s0 s : State} {x : Cells LinSt} (h : s0.Keeps s)
    (hx : s.Canonical → Cells.wf (fun _ => {}) x = true) : s0.Keeps { s with lin := x } :=
  ⟨h.1, h.2, h.3, h.4, h.5, h.6, h.7, fun c => { h.8 c with lin := hx (h.8 c) }, h.9⟩

theorem State.Keeps.msgs_upd {s0 s : State} {x : List GwMsg} (h : s0.Keeps s) : s0.Keeps { s with msgs := x } :=
  ⟨h.1, h.2, h.3, h.4, h.5, h.6, h.7, fun c => { h.8 c with }, h.9⟩

theorem State.Keeps.inq_upd {s0 s : State} {x : Cells (List Nat)} (h : s0.Keeps s)
    (hx : s.Canonical → Cells.wf (fun _ => []) x = true) : s0.Keeps { s with inq := x } :=
  ⟨h.1, h.2, h.3, h.4, h.5, h.6, h.7, fun c => { h.8 c with inq := hx (h.8 c) }, h.9⟩

theorem State.Keeps.held_upd {s0 s : State} {x : Cells (List Nat)} (h : s0.Keeps s)
    (hx : s.Canonical → Cells.wf (fun _ => []) x = true) : s0.Keeps { s with held := x } :=
  ⟨h.1, h.2, h.3, h.4, h.5, h.6, h.7, fun c => { h.8 c with held := hx (h.8 c) }, h.9⟩

theorem State.Keeps.batch_upd {s0 s : State} {x : Cells BatchSt} (h : s0.Keeps s)
    (hx : s.Canonical → Cells.wf (fun _ => {}) x = true) : s0.Keeps { s with batch := x } :=
  ⟨h.1, h.2, h.3, h.4, h.5, h.6, h.7, fun c => { h.8 c with batch := hx (h.8 c) }, h.9⟩

theorem State.Keeps.sealedQ_upd {s0 s : State} {x : List Sealed} (h : s0.Keeps s) : s0.Keeps { s with sealedQ := x } :=
  ⟨h.1, h.2, h.3, h.4, h.5, h.6, h.7, fun c => { h.8 c with }, h.9⟩

theorem State.Keeps.rxStr_upd {s0 s : State} {x : Cells RxStr} (h : s0.Keeps s)
    (hx : s.Canonical → Cells.wf (fun _ => {}) x = true) : s0.Keeps { s with rxStr := x } :=
  ⟨h.1, h.2, h.3, h.4, h.5, h.6, h.7, fun c => { h.8 c with rxStr := hx (h.8 c) }, h.9⟩

theorem State.Keeps.carr_upd {s0 s : State} {x : CarrSt} (h : s0.Keeps s) : s0.Keeps { s with carr := x } :=
  ⟨h.1, h.2, h.3, h.4, h.5, h.6, h.7, fun c => { h.8 c with }, h.9⟩

theorem State.Keeps.dram_upd {s0 s : State} {x : Cells Byte} (h : s0.Keeps s)
    (hx : s.Canonical → Cells.wf (fun _ => 0#8) x = true) : s0.Keeps { s with dram := x } :=
  ⟨h.1, h.2, h.3, h.4, h.5, h.6, h.7, fun c => { h.8 c with dram := hx (h.8 c) }, h.9⟩

theorem State.Keeps.pair_upd {s0 s : State} {x : PairSt} (h : s0.Keeps s) : s0.Keeps { s with pair := x } :=
  ⟨h.1, h.2, h.3, h.4, h.5, h.6, h.7, fun c => { h.8 c with }, h.9⟩

theorem State.Keeps.pwr_upd {s0 s : State} {x : PwrSt} (h : s0.Keeps s) : s0.Keeps { s with pwr := x } :=
  ⟨h.1, h.2, h.3, h.4, h.5, h.6, h.7, fun c => { h.8 c with }, h.9⟩

theorem State.Keeps.boot_upd {s0 s : State} {x : BootSt} (h : s0.Keeps s) : s0.Keeps { s with boot := x } :=
  ⟨h.1, h.2, h.3, h.4, h.5, h.6, h.7, fun c => { h.8 c with }, h.9⟩

theorem State.Keeps.flash_upd {s0 s : State} {x : Cells Byte} (h : s0.Keeps s)
    (hx : s.Canonical → Cells.wf (fun _ => 0xff#8) x = true) : s0.Keeps { s with flash := x } :=
  ⟨h.1, h.2, h.3, h.4, h.5, h.6, h.7, fun c => { h.8 c with flash := hx (h.8 c) }, h.9⟩

theorem State.Keeps.jtag_upd {s0 s : State} {x : JtagSt} (h : s0.Keeps s) : s0.Keeps { s with jtag := x } :=
  ⟨h.1, h.2, h.3, h.4, h.5, h.6, h.7, fun c => { h.8 c with }, h.9⟩

theorem State.Keeps.mon_upd {s0 s : State} {x : MonSt} (h : s0.Keeps s) : s0.Keeps { s with mon := x } :=
  ⟨h.1, h.2, h.3, h.4, h.5, h.6, h.7, fun c => { h.8 c with }, h.9⟩

theorem State.Keeps.upd {s0 s t : State} (h : s0.Keeps s) (h1 : t.pending = s.pending) (h2 : t.now = s.now)
    (h3 : s.freeIdx ≤ t.freeIdx) (h4 : s.out <:+ t.out) (h5 : t.fuse = s.fuse) (h6 : s.Canonical → t.Canonical)
    (h7 : s.Numbered → t.Numbered := by exact fun h => h) : s0.Keeps t :=
  h.trans ⟨h1, h2, h3, h4, by rw [h5], by rw [h5],
    fun l => by unfold State.LifecycleOk at *; rw [h5]; exact ⟨Nat.le_refl _, l⟩, h6, h7⟩

theorem State.Keeps.ite {s0 a b : State} {c : Prop} [Decidable c] (h1 : s0.Keeps a) (h2 : s0.Keeps b) :
    s0.Keeps (if c then a else b) := by
  by_cases h : c
  · rw [if_pos h]; exact h1
  · rw [if_neg h]; exact h2

theorem State.Keeps.ite_fst {α : Type} {s0 : State} {a b : State × α} {c : Prop} [Decidable c] (h1 : s0.Keeps a.1) (h2 : s0.Keeps b.1) :
    s0.Keeps (if c then a else b).1 := by
  by_cases h : c
  · rw [if_pos h]; exact h1
  · rw [if_neg h]; exact h2

theorem State.Keeps.ite_snd {α : Type} {s0 : State} {a b : α × State} {c : Prop} [Decidable c] (h1 : s0.Keeps a.2) (h2 : s0.Keeps b.2) :
    s0.Keeps (if c then a else b).2 := by
  by_cases h : c
  · rw [if_pos h]; exact h1
  · rw [if_neg h]; exact h2

theorem State.Keeps.foldl {α : Type} {s0 s : State} {f : State → α → State} {l : List α} (h : s0.Keeps s)
    (hf : ∀ u x, s0.Keeps u → s0.Keeps (f u x)) : s0.Keeps (l.foldl f s) := by
  induction l generalizing s with
  | nil => exact h
  | cons x r ih => exact ih (hf _ _ h)

theorem memPut_wf {d : Nat → Byte} {m : Cells Byte} (h : Cells.wf d m = true) (a : Nat) (l : List Byte) :
    Cells.wf d (memPut d m a l) = true := by
  induction l generalizing m a with
  | nil => exact h
  | cons x r ih => exact ih (Cells.wf_set h _ _) _

end Sys2Proof.Machine
end

