-- ==== Sys2Proof/Laws/KeepsOps.lean ====
section
/-! SUPPORT. `State.Keeps` for the operations of Machine/Ops.lean. -/

namespace Sys2Proof.Machine

set_option linter.unusedTactic false
set_option linter.unreachableTactic false

theorem State.setReg_keeps {s0 s : State} (h : s0.Keeps s) (a : Nat) (w : Word) :
    s0.Keeps (State.setReg s a w) := by
  unfold State.setReg
  try dsimp only
  repeat' (first | (intro c; exact Cells.wf_set c.regs _ _) | with_reducible assumption | with_reducible apply State.Keeps.regs_upd)

theorem State.setF_keeps {s0 s : State} (h : s0.Keeps s) (a : Nat) (x : Fld) (v : Nat) :
    s0.Keeps (State.setF s a x v) := by
  unfold State.setF
  try dsimp only
  repeat' (first | with_reducible assumption | with_reducible apply State.setReg_keeps)

theorem State.setFs_keeps {s0 s : State} (h : s0.Keeps s) (a : Nat) (l : List (Fld × Nat)) :
    s0.Keeps (State.setFs s a l) := by
  unfold State.setFs
  try dsimp only
  repeat' (first | with_reducible assumption | intro _ | with_reducible (first | apply State.setReg_keeps | apply State.Keeps.foldl))

theorem State.bumpN_keeps {s0 s : State} (h : s0.Keeps s) (a : Nat) (x : Fld) (n : Nat) :
    s0.Keeps (State.bumpN s a x n) := by
  unfold State.bumpN
  try dsimp only
  repeat' (first | with_reducible assumption | with_reducible apply State.setF_keeps)

theorem State.bump_keeps {s0 s : State} (h : s0.Keeps s) (a : Nat) (x : Fld) :
    s0.Keeps (State.bump s a x) := by
  unfold State.bump
  try dsimp only
  repeat' (first | with_reducible assumption | with_reducible apply State.bumpN_keeps)

theorem State.emit_keeps {s0 s : State} (h : s0.Keeps s) (o : Output) :
    s0.Keeps (State.emit s o) := by
  unfold State.emit
  try dsimp only
  repeat' (first | with_reducible assumption | with_reducible apply State.Keeps.out_upd)

theorem State.fresh_keeps {s0 s : State} (h : s0.Keeps s) :
    s0.Keeps (State.fresh s).2 := by
  unfold State.fresh
  try dsimp only
  repeat' (first | with_reducible assumption | with_reducible apply State.Keeps.freeIdx_upd | omega)

theorem State.setEvt_keeps {s0 s : State} (h : s0.Keeps s) (n : Nat) (e : EvtSt) :
    s0.Keeps (State.setEvt s n e) := by
  unfold State.setEvt
  try dsimp only
  repeat' (first | (intro c; exact Cells.wf_set c.evt _ _) | with_reducible assumption | with_reducible apply State.Keeps.evt_upd)

theorem State.msixSend_keeps {s0 s : State} (h : s0.Keeps s) (n : Nat) :
    s0.Keeps (State.msixSend s n) := by
  unfold State.msixSend
  exact State.Keeps.ite (State.emit_keeps h _) (State.Keeps.pcie_upd h (fun c => c.pcieCfg) (fun c => c.pcieTbl))

theorem State.deliver_keeps {s0 s : State} (h : s0.Keeps s) (n : Nat) :
    s0.Keeps (State.deliver s n) := by
  unfold State.deliver
  try dsimp only
  repeat' (first | with_reducible assumption | intro _ | with_reducible (first | apply State.msixSend_keeps | apply State.Keeps.ite | apply State.Keeps.ite_fst | apply State.Keeps.ite_snd | apply State.Keeps.foldl) | split)

theorem State.raise_keeps {s0 s : State} (h : s0.Keeps s) (n : Nat) (cause : Nat) (idx : Nat) :
    s0.Keeps (State.raise s n cause idx) := by
  unfold State.raise
  try dsimp only
  repeat' (first | with_reducible assumption | with_reducible (first | apply State.setFs_keeps | apply State.setEvt_keeps | apply State.deliver_keeps | apply State.Keeps.ite))

theorem State.raiseIf_keeps {s0 s : State} (h : s0.Keeps s) (c : Bool) (n : Nat) (cause : Nat) (idx : Nat) :
    s0.Keeps (State.raiseIf s c n cause idx) := by
  unfold State.raiseIf
  try dsimp only
  repeat' (first | with_reducible assumption | with_reducible (first | apply State.raise_keeps | apply State.Keeps.ite))

theorem State.live_keeps {s0 s t : State} (h : s0.Keeps s) (ht : s0.Keeps t) :
    s0.Keeps (State.live s t) := by
  unfold State.live
  try dsimp only
  repeat' (first | with_reducible assumption | with_reducible apply State.Keeps.ite)

theorem State.raiseAon_keeps {s0 s : State} (h : s0.Keeps s) (n : Nat) (cause : Nat) (idx : Nat) :
    s0.Keeps (State.raiseAon s n cause idx) := by
  unfold State.raiseAon
  try dsimp only
  repeat' (first | with_reducible assumption | with_reducible (first | apply State.raise_keeps | apply State.Keeps.ite) | with_reducible apply State.Keeps.pwr_upd)

theorem State.integ_keeps {s0 s : State} (h : s0.Keeps s) (b : Nat) (k : Integ) (a : Nat) :
    s0.Keeps (State.integ s b k a) := by
  unfold State.integ
  try dsimp only
  repeat' (first | with_reducible assumption | with_reducible (first | apply State.setReg_keeps | apply State.raise_keeps | apply State.Keeps.ite))

theorem State.audPut_keeps {s0 s : State} (h : s0.Keeps s) (e : BitVec 112) (i : Nat) :
    s0.Keeps (State.audPut s e i) := by
  unfold State.audPut
  dsimp only
  split
  · exact State.raise_keeps (State.Keeps.aud_upd h) _ _ _
  · exact State.Keeps.aud_upd h

theorem State.audAnchor_keeps {s0 s : State} (h : s0.Keeps s) :
    s0.Keeps (State.audAnchor s) := by
  unfold State.audAnchor
  try dsimp only
  repeat' (first | with_reducible assumption | with_reducible apply State.audPut_keeps | with_reducible apply State.Keeps.aud_upd)

theorem State.audit_keeps {s0 s : State} (h : s0.Keeps s) (kind : Nat) (role : Nat) (i : Nat) (a : Nat) (old : Nat) (new : Nat) :
    s0.Keeps (State.audit s kind role i a old new) := by
  unfold State.audit
  try dsimp only
  repeat' (first | with_reducible assumption | with_reducible (first | apply State.audAnchor_keeps | apply State.audPut_keeps | apply State.Keeps.ite))

theorem State.setSess_keeps {s0 s : State} (h : s0.Keeps s) (i : Nat) (r : RoleSess) :
    s0.Keeps (State.setSess s i r) := by
  unfold State.setSess
  try dsimp only
  repeat' (first | (intro c; exact Cells.wf_set c.sess _ _) | with_reducible assumption | with_reducible apply State.Keeps.sess_upd)

theorem State.setLock_keeps {s0 s : State} (h : s0.Keeps s) (r : Nat) (l : RoleLock) :
    s0.Keeps (State.setLock s r l) := by
  unfold State.setLock
  try dsimp only
  repeat' (first | (intro c; exact Cells.wf_set c.lock _ _) | with_reducible assumption | with_reducible apply State.Keeps.lock_upd)

theorem State.setWords_keeps {s0 s : State} (h : s0.Keeps s) (m : Nat) (x2 : Nat) (x3 : List Nat) :
    s0.Keeps (State.setWords s m x2 x3) := by
  induction x3 generalizing s x2 with
  | nil => exact h
  | cons v r ih => exact ih (State.setReg_keeps h _ _) _

theorem State.snap_keeps {s0 s : State} (h : s0.Keeps s) (m : Nat) (ws : List Nat) :
    s0.Keeps (State.snap s m ws) := by
  unfold State.snap
  try dsimp only
  repeat' (first | with_reducible assumption | with_reducible (first | apply State.setWords_keeps | apply State.setReg_keeps | apply State.Keeps.ite))

theorem State.mbxFail_keeps {s0 s : State} (h : s0.Keeps s) (m : Nat) (code : Nat) :
    s0.Keeps (State.mbxFail s m code) := by
  unfold State.mbxFail
  try dsimp only
  repeat' (first | with_reducible assumption | with_reducible apply State.setFs_keeps)

theorem State.mbxDone_keeps {s0 s : State} (h : s0.Keeps s) (m : Nat) (n : Nat) :
    s0.Keeps (State.mbxDone s m n) := by
  unfold State.mbxDone
  try dsimp only
  repeat' (first | with_reducible assumption | with_reducible (first | apply State.setWords_keeps | apply State.setF_keeps))

theorem State.mbxEnd_keeps {s0 s : State} (h : s0.Keeps s) (m : Nat) (n : Nat) (err : Option Nat) :
    s0.Keeps (State.mbxEnd s m n err) := by
  unfold State.mbxEnd
  try dsimp only
  repeat' (first | with_reducible assumption | with_reducible (first | apply State.mbxDone_keeps | apply State.mbxFail_keeps) | split)

end Sys2Proof.Machine
end

