-- ==== Sys2Proof/Laws/KeepsTables.lean ====
section
/-! SUPPORT. `State.Keeps` for the operations of Machine/Tables.lean. -/

namespace Sys2Proof.Machine

set_option linter.unusedTactic false
set_option linter.unreachableTactic false

theorem State.setPp_keeps {s0 s : State} (h : s0.Keeps s) (p : Nat) (x : PipeSt) :
    s0.Keeps (State.setPp s p x) := by
  unfold State.setPp
  try dsimp only
  repeat' (first | (intro c; exact Cells.wf_set c.pipe _ _) | with_reducible assumption | with_reducible apply State.Keeps.pipe_upd)

theorem State.setFdb_keeps {s0 s : State} (h : s0.Keeps s) (p : Nat) (loc : Nat) (e : Option FdbEnt) :
    s0.Keeps (State.setFdb s p loc e) := by
  unfold State.setFdb
  try dsimp only
  repeat' (first | (intro c; exact Cells.wf_set c.fdb _ _) | with_reducible assumption | with_reducible (first | apply State.setReg_keeps | apply State.Keeps.ite) | split | with_reducible apply State.Keeps.fdb_upd)

theorem State.setFlw_keeps {s0 s : State} (h : s0.Keeps s) (p : Nat) (loc : Nat) (e : Option FlwEnt) :
    s0.Keeps (State.setFlw s p loc e) := by
  unfold State.setFlw
  try dsimp only
  repeat' (first | (intro c; exact Cells.wf_set c.flw _ _) | with_reducible assumption | with_reducible apply State.Keeps.flw_upd)

theorem State.fdbPlace_keeps {s0 s : State} (h : s0.Keeps s) (p : Nat) (e : FdbEnt) :
    ∀ v, (State.fdbPlace s p e) = some v → s0.Keeps v := by
  intro v e'
  unfold State.fdbPlace at e'
  split at e'
  · cases e'
  · cases e'
    exact State.setFdb_keeps (State.Keeps.foldl h (fun u x hu => State.setFdb_keeps (State.setFdb_keeps hu _ _ _) _ _ _)) _ _ _

theorem State.lnotShow_keeps {s0 s : State} (h : s0.Keeps s) (p : Nat) :
    s0.Keeps (State.lnotShow s p) := by
  unfold State.lnotShow
  try dsimp only
  repeat' (first | with_reducible assumption | with_reducible (first | apply State.setF_keeps | apply State.setWords_keeps | apply State.Keeps.ite) | split)

theorem State.lnotRead_keeps {s0 s : State} (h : s0.Keeps s) (p : Nat) :
    s0.Keeps (State.lnotRead s p) := by
  unfold State.lnotRead
  try dsimp only
  repeat' (first | with_reducible assumption | with_reducible (first | apply State.lnotShow_keeps | apply State.setPp_keeps))

theorem State.notify_keeps {s0 s : State} (h : s0.Keeps s) (p : Nat) (kind : Nat) (e : FdbEnt) (loc : Nat) :
    s0.Keeps (State.notify s p kind e loc) := by
  unfold State.notify
  try dsimp only
  repeat' (first | with_reducible assumption | with_reducible (first | apply State.lnotShow_keeps | apply State.setPp_keeps | apply State.Keeps.ite))

theorem State.unfreezeEv_keeps {s0 s : State} (h : s0.Keeps s) (p : Nat) (e : FdbEnt) :
    s0.Keeps (State.unfreezeEv s p e) := by
  unfold State.unfreezeEv
  try dsimp only
  repeat' (first | with_reducible assumption | with_reducible apply State.raiseIf_keeps)

theorem State.freezeEnd_keeps {s0 s : State} (h : s0.Keeps s) (p : Nat) (l : Nat) :
    s0.Keeps (State.freezeEnd s p l) := by
  unfold State.freezeEnd
  try dsimp only
  repeat' (first | with_reducible assumption | with_reducible (first | apply State.raise_keeps | apply State.setFdb_keeps | apply State.Keeps.ite) | split)

theorem State.thaw_keeps {s0 s : State} (h : s0.Keeps s) (p : Nat) (l : Option Nat) :
    s0.Keeps (State.thaw s p l) := by
  unfold State.thaw
  try dsimp only
  repeat' (first | with_reducible assumption | intro _ | with_reducible (first | apply State.freezeEnd_keeps | apply State.Keeps.ite | apply State.Keeps.ite_fst | apply State.Keeps.ite_snd | apply State.Keeps.foldl) | split)

theorem State.learnPush_keeps {s0 s : State} (h : s0.Keeps s) (p : Nat) (r : LearnReq) :
    s0.Keeps (State.learnPush s p r) := by
  unfold State.learnPush
  try dsimp only
  repeat' (first | with_reducible assumption | with_reducible (first | apply State.setPp_keeps | apply State.raise_keeps | apply State.bump_keeps | apply State.Keeps.ite))

theorem State.learnFreeze_keeps {s0 s : State} (h : s0.Keeps s) (p : Nat) (l : Nat) (e : FdbEnt) :
    s0.Keeps (State.learnFreeze s p l e) := by
  unfold State.learnFreeze
  try dsimp only
  repeat' (first | with_reducible assumption | with_reducible (first | apply State.notify_keeps | apply State.raise_keeps | apply State.setFdb_keeps))

theorem State.learnMove_keeps {s0 s : State} (h : s0.Keeps s) (p : Nat) (l : Nat) (e : FdbEnt) (dest : Nat) :
    s0.Keeps (State.learnMove s p l e dest) := by
  unfold State.learnMove
  try dsimp only
  repeat' (first | with_reducible assumption | with_reducible (first | apply State.learnFreeze_keeps | apply State.notify_keeps | apply State.bump_keeps | apply State.setFdb_keeps | apply State.Keeps.ite))

theorem State.learnJudge_keeps {s0 s : State} (h : s0.Keeps s) (p : Nat) (r : LearnReq) :
    s0.Keeps (State.learnJudge s p r) := by
  unfold State.learnJudge
  dsimp only
  generalize hu : s.thaw p (s.fdbFind p r.mac r.vid) = u
  have hk : s0.Keeps u := hu ▸ State.thaw_keeps h _ _
  split
  · split
    · exact State.raise_keeps (State.bump_keeps hk _ _) _ _ _
    · rename_i e
      exact State.notify_keeps (State.bump_keeps (State.fdbPlace_keeps hk _ _ _ e) _ _) _ _ _ _
  · repeat' (first | with_reducible assumption | with_reducible (first | apply State.setFdb_keeps | apply State.raise_keeps | apply State.bump_keeps | apply State.learnMove_keeps) | split)

theorem State.learnApply_keeps {s0 s : State} (h : s0.Keeps s) (p : Nat) :
    s0.Keeps (State.learnApply s p) := by
  unfold State.learnApply
  try dsimp only
  repeat' (first | with_reducible assumption | with_reducible (first | apply State.learnJudge_keeps | apply State.setPp_keeps) | split)

theorem State.learnDrain_keeps {s0 s : State} (h : s0.Keeps s) (p : Nat) :
    s0.Keeps (State.learnDrain s p) := by
  unfold State.learnDrain
  try dsimp only
  repeat' (first | with_reducible assumption | intro _ | with_reducible (first | apply State.learnApply_keeps | apply State.Keeps.ite | apply State.Keeps.ite_fst | apply State.Keeps.ite_snd | apply State.Keeps.foldl) | split)

theorem State.fdbAct_keeps {s0 s : State} (h : s0.Keeps s) (p : Nat) (op : Nat) (arg : Nat) :
    s0.Keeps (State.fdbAct s p op arg) := by
  have hp : ∀ e, s0.Keeps ((s.fdbPlace p e).getD s) := by
    intro e
    cases hq : s.fdbPlace p e with
    | none => exact h
    | some v => exact State.fdbPlace_keeps h _ _ _ hq
  unfold State.fdbAct
  dsimp only
  repeat' (first | with_reducible assumption | exact hp _ | with_reducible (first | apply State.setFdb_keeps | apply State.unfreezeEv_keeps | apply State.snap_keeps) | split)

theorem State.fdbDo_keeps {s0 s : State} (h : s0.Keeps s) (p : Nat) (op : Nat) (arg : Nat) :
    s0.Keeps (State.fdbDo s p op arg) := State.fdbAct_keeps (State.thaw_keeps h _ _) _ _ _

theorem State.fdbReq_keeps {s00 s0 : State} (h : s00.Keeps s0) (p : Nat) (op : Nat) (arg : Nat) :
    s00.Keeps (State.fdbReq s0 p op arg) := by
  unfold State.fdbReq
  try dsimp only
  repeat' (first | with_reducible assumption | intro _ | with_reducible (first | apply State.learnDrain_keeps | apply State.mbxEnd_keeps | apply State.setPp_keeps | apply State.fdbDo_keeps | apply State.Keeps.ite | apply State.Keeps.ite_fst | apply State.Keeps.ite_snd | apply State.Keeps.foldl) | split)

theorem State.flushVisit_keeps {s0 s : State} (h : s0.Keeps s) (p : Nat) (again : Bool) :
    s0.Keeps (State.flushVisit s p again) := by
  unfold State.flushVisit
  try dsimp only
  repeat' (first | with_reducible assumption | intro _ | with_reducible (first | apply State.setFdb_keeps | apply State.setPp_keeps | apply State.mbxEnd_keeps | apply State.setF_keeps | apply State.Keeps.ite | apply State.Keeps.ite_fst | apply State.Keeps.ite_snd | apply State.Keeps.foldl) | split)

theorem State.flwPlace_keeps {s0 s : State} (h : s0.Keeps s) (p : Nat) (e : FlwEnt) :
    ∀ v, (State.flwPlace s p e) = some v → s0.Keeps v := by
  intro v e'
  unfold State.flwPlace at e'
  split at e'
  · cases e'
  · cases e'
    exact State.setFlw_keeps (State.Keeps.foldl h (fun u x hu => State.setFlw_keeps (State.setFlw_keeps hu _ _ _) _ _ _)) _ _ _

theorem State.flwDo_keeps {s0 s : State} (h : s0.Keeps s) (p : Nat) (op : Nat) (arg : Nat) :
    s0.Keeps (State.flwDo s p op arg) := by
  have hp : ∀ e, s0.Keeps ((s.flwPlace p e).getD s) := by
    intro e
    cases hq : s.flwPlace p e with
    | none => exact h
    | some v => exact State.flwPlace_keeps h _ _ _ hq
  unfold State.flwDo
  dsimp only
  repeat' (first | with_reducible assumption | with_reducible exact hp _ | with_reducible (first | apply State.setFlw_keeps | apply State.snap_keeps) | split)

theorem State.flwReq_keeps {s0 s : State} (h : s0.Keeps s) (p : Nat) (op : Nat) (arg : Nat) :
    s0.Keeps (State.flwReq s p op arg) := by
  unfold State.flwReq
  try dsimp only
  repeat' (first | with_reducible assumption | with_reducible (first | apply State.mbxEnd_keeps | apply State.flwDo_keeps) | split)

theorem State.moveWindowEnd_keeps {s0 s : State} (h : s0.Keeps s) (p : Nat) (l : Nat) :
    s0.Keeps (State.moveWindowEnd s p l) := by
  unfold State.moveWindowEnd
  try dsimp only
  repeat' (first | with_reducible assumption | with_reducible (first | apply State.setFdb_keeps | apply State.Keeps.ite) | split)

theorem State.ageSlot_keeps {s00 s0 : State} (h : s00.Keeps s0) (p : Nat) (l : Nat) :
    s00.Keeps (State.ageSlot s0 p l) := by
  unfold State.ageSlot
  try dsimp only
  repeat' (first | with_reducible assumption | intro _ | with_reducible (first | apply State.freezeEnd_keeps | apply State.setFdb_keeps | apply State.bump_keeps | apply State.notify_keeps | apply State.Keeps.ite | apply State.Keeps.ite_fst | apply State.Keeps.ite_snd | apply State.Keeps.foldl) | split)

theorem State.agingVisit_keeps {s0 s : State} (h : s0.Keeps s) (p : Nat) :
    s0.Keeps (State.agingVisit s p) := by
  unfold State.agingVisit
  try dsimp only
  repeat' (first | with_reducible assumption | with_reducible (first | apply State.ageSlot_keeps | apply State.setPp_keeps | apply State.Keeps.ite))

theorem State.ageCfgChanged_keeps {s0 s : State} (h : s0.Keeps s) (p : Nat) (old : Word) :
    s0.Keeps (State.ageCfgChanged s p old) := by
  unfold State.ageCfgChanged
  try dsimp only
  repeat' (first | with_reducible assumption | with_reducible (first | apply State.setPp_keeps | apply State.Keeps.ite))

theorem State.ageStart_keeps {s0 s : State} (h : s0.Keeps s) :
    s0.Keeps (State.ageStart s) := by
  unfold State.ageStart
  try dsimp only
  repeat' (first | with_reducible assumption | intro _ | with_reducible (first | apply State.setPp_keeps | apply State.Keeps.ite | apply State.Keeps.ite_fst | apply State.Keeps.ite_snd | apply State.Keeps.foldl) | split)

theorem State.fdbParity_keeps {s0 s : State} (h : s0.Keeps s) (p : Nat) (l : Nat) :
    s0.Keeps (State.fdbParity s p l) := by
  unfold State.fdbParity
  try dsimp only
  repeat' (first | with_reducible assumption | with_reducible (first | apply State.bump_keeps | apply State.setFdb_keeps | apply State.setFs_keeps | apply State.raise_keeps | apply State.Keeps.ite))

theorem State.flwParity_keeps {s0 s : State} (h : s0.Keeps s) (p : Nat) (l : Nat) :
    s0.Keeps (State.flwParity s p l) := by
  unfold State.flwParity
  try dsimp only
  repeat' (first | with_reducible assumption | with_reducible (first | apply State.bump_keeps | apply State.setFlw_keeps | apply State.setFs_keeps | apply State.raise_keeps | apply State.Keeps.ite))

theorem State.fdbHit_keeps {s0 s : State} (h : s0.Keeps s) (p : Nat) (l : Nat) :
    s0.Keeps (State.fdbHit s p l) := by
  unfold State.fdbHit
  try dsimp only
  repeat' (first | with_reducible assumption | with_reducible apply State.setFdb_keeps | split)

theorem State.fdbDest_keeps {s0 s : State} (h : s0.Keeps s) (p : Nat) (mac : Nat) (vid : Nat) :
    s0.Keeps (State.fdbDest s p mac vid).2 := by
  unfold State.fdbDest
  try dsimp only
  repeat' (first | with_reducible assumption | with_reducible apply State.fdbHit_keeps | split)

theorem State.fdbSource_keeps {s0 s : State} (h : s0.Keeps s) (p : Nat) (mac : Nat) (vid : Nat) (port : Nat) :
    s0.Keeps (State.fdbSource s p mac vid port).2 := by
  unfold State.fdbSource
  try dsimp only
  repeat' (first | with_reducible assumption | with_reducible (first | apply State.fdbHit_keeps | apply State.Keeps.ite | apply State.Keeps.ite_fst | apply State.Keeps.ite_snd) | split)

end Sys2Proof.Machine
end

