-- ==== Sys2Proof/Laws/KeepsClassify.lean ====
section
/-! SUPPORT. `State.Keeps` for the operations of Machine/Classify.lean. -/

namespace Sys2Proof.Machine

set_option linter.unusedTactic false
set_option linter.unreachableTactic false

theorem State.ruleCount_keeps {s0 s : State} (h : s0.Keeps s) (p : Nat) (len : Nat) (c : Nat) :
    s0.Keeps (State.ruleCount s p len c) := by
  unfold State.ruleCount
  exact State.Keeps.ruleCnt_upd h (fun c => Cells.wf_set (Cells.wf_set c.ruleCnt _ _) _ _)

theorem State.clsDrop_keeps {s0 s : State} (h : s0.Keeps s) (p : Nat) (k : Nat) :
    s0.Keeps (State.clsDrop s p k) := by
  unfold State.clsDrop
  try dsimp only
  repeat' (first | with_reducible assumption | with_reducible apply State.bump_keeps)

theorem State.excCount_keeps {s0 s : State} (h : s0.Keeps s) (p : Nat) (c : Nat) :
    s0.Keeps (State.excCount s p c) := by
  unfold State.excCount
  try dsimp only
  repeat' (first | with_reducible assumption | with_reducible (first | apply State.bump_keeps | apply State.Keeps.ite))

theorem State.setStale_keeps {s0 s : State} (h : s0.Keeps s) (p : Nat) (b : Nat) (v : Bool) :
    s0.Keeps (State.setStale s p b v) := by
  unfold State.setStale
  try dsimp only
  repeat' (first | with_reducible assumption | with_reducible (first | apply State.setPp_keeps | apply State.Keeps.ite))

theorem State.tplWritten_keeps {s0 s : State} (h : s0.Keeps s) (p : Nat) :
    s0.Keeps (State.tplWritten s p) := by
  unfold State.tplWritten
  try dsimp only
  repeat' (first | with_reducible assumption | with_reducible apply State.setStale_keeps)

theorem State.dpRecompute_keeps {s0 s : State} (h : s0.Keeps s) (p : Nat) (b : Nat) :
    s0.Keeps (State.dpRecompute s p b) := by
  unfold State.dpRecompute
  try dsimp only
  repeat' (first | with_reducible assumption | intro _ | with_reducible (first | apply State.setStale_keeps | apply State.setReg_keeps | apply State.Keeps.foldl | apply State.Keeps.ite))

theorem State.swapDo_keeps {s0 s : State} (h : s0.Keeps s) (p : Nat) (act : Bool) :
    s0.Keeps (State.swapDo s p act) := by
  unfold State.swapDo
  try dsimp only
  repeat' (first | with_reducible assumption | intro _ | with_reducible (first | apply State.setPp_keeps | apply State.setFs_keeps | apply State.setReg_keeps | apply State.raise_keeps | apply State.Keeps.ite | apply State.Keeps.ite_fst | apply State.Keeps.ite_snd | apply State.Keeps.foldl) | split)

theorem State.swapRefuse_keeps {s0 s : State} (h : s0.Keeps s) (p : Nat) :
    s0.Keeps (State.swapRefuse s p) := by
  unfold State.swapRefuse
  try dsimp only
  repeat' (first | with_reducible assumption | with_reducible (first | apply State.raise_keeps | apply State.setF_keeps))

theorem State.drainBank_keeps {s0 s : State} (h : s0.Keeps s) (p : Nat) (b : Nat) :
    s0.Keeps (State.drainBank s p b) := by
  unfold State.drainBank
  try dsimp only
  repeat' (first | with_reducible assumption | with_reducible (first | apply State.raise_keeps | apply State.setF_keeps | apply State.Keeps.ite))

theorem State.drainDone_keeps {s0 s : State} (h : s0.Keeps s) (p : Nat) :
    s0.Keeps (State.drainDone s p) := by
  unfold State.drainDone
  try dsimp only
  repeat' (first | with_reducible assumption | with_reducible apply State.drainBank_keeps)

theorem State.swapDrain_keeps {s0 s : State} (h : s0.Keeps s) (p : Nat) :
    s0.Keeps (State.swapDrain s p) := by
  unfold State.swapDrain
  try dsimp only
  repeat' (first | with_reducible assumption | intro _ | with_reducible (first | apply State.drainDone_keeps | apply State.Keeps.ite | apply State.Keeps.ite_fst | apply State.Keeps.ite_snd | apply State.Keeps.foldl) | split)

theorem State.swapTry_keeps {s0 s : State} (h : s0.Keeps s) (p : Nat) (act : Bool) :
    s0.Keeps (State.swapTry s p act) := by
  unfold State.swapTry
  try dsimp only
  repeat' (first | with_reducible assumption | intro _ | with_reducible (first | apply State.swapDo_keeps | apply State.swapRefuse_keeps | apply State.Keeps.ite | apply State.Keeps.ite_fst | apply State.Keeps.ite_snd | apply State.Keeps.foldl) | split)

theorem State.swapReq_keeps {s0 s : State} (h : s0.Keeps s) (p : Nat) (act : Bool) :
    s0.Keeps (State.swapReq s p act) := by
  unfold State.swapReq
  try dsimp only
  repeat' (first | with_reducible assumption | intro _ | with_reducible (first | apply State.swapDrain_keeps | apply State.swapTry_keeps | apply State.Keeps.ite | apply State.Keeps.ite_fst | apply State.Keeps.ite_snd | apply State.Keeps.foldl) | split)

theorem State.bankOne_keeps {s0 s : State} (h : s0.Keeps s) (p : Nat) :
    s0.Keeps (State.bankOne s p).1 := by
  unfold State.bankOne
  try dsimp only
  repeat' (first | with_reducible assumption | intro _ | with_reducible (first | apply State.swapReq_keeps | apply State.swapDrain_keeps | apply State.Keeps.ite | apply State.Keeps.ite_fst | apply State.Keeps.ite_snd | apply State.Keeps.foldl) | split)

theorem State.bankAction_keeps {s00 s0 : State} (h : s00.Keeps s0) (a : Bool) (b : Bool) :
    s00.Keeps (State.bankAction s0 a b).1 := by
  unfold State.bankAction
  try dsimp only
  repeat' (first | with_reducible assumption | intro _ | with_reducible (first | apply State.swapDrain_keeps | apply State.swapDo_keeps | apply State.swapRefuse_keeps | apply State.bankOne_keeps | apply State.Keeps.ite | apply State.Keeps.ite_fst | apply State.Keeps.ite_snd | apply State.Keeps.foldl) | split)

theorem State.ruleParity_keeps {s0 s : State} (h : s0.Keeps s) (p : Nat) (b : Nat) (e : Nat) :
    s0.Keeps (State.ruleParity s p b e) := by
  unfold State.ruleParity
  try dsimp only
  repeat' (first | (intro c; exact Cells.wf_set c.ruleBad _ _) | with_reducible assumption | with_reducible (first | apply State.raise_keeps | apply State.Keeps.ite) | with_reducible apply State.Keeps.ruleBad_upd)

theorem State.ruleWrite_keeps {s0 s : State} (h : s0.Keeps s) (p : Nat) (b : Nat) (a : Nat) (v : Nat) :
    s0.Keeps (State.ruleWrite s p b a v) := by
  unfold State.ruleWrite
  dsimp only
  apply State.setStale_keeps
  have h1 := State.Keeps.win_upd h (x := memPut (fun _ => 0#8) s.win a (leBytes 4 (BitVec.ofNat 32 v &&& ruleMask (a - bankBase p b)).toNat))
    (fun c => memPut_wf c.win _ _)
  split
  · exact State.Keeps.ruleBad_upd h1 (fun c => Cells.wf_set c.ruleBad _ _)
  · exact h1

end Sys2Proof.Machine
end

