-- ==== Sys2Proof/Laws/KeepsSwitch.lean ====
section
/-! SUPPORT. `State.Keeps` for the operations of Machine/Switch.lean. -/

namespace Sys2Proof.Machine

set_option linter.unusedTactic false
set_option linter.unreachableTactic false

theorem State.mibAdd_keeps {s0 s : State} (h : s0.Keeps s) (port : Nat) (k : Nat) (n : Nat) :
    s0.Keeps (State.mibAdd s port k n) := by
  unfold State.mibAdd
  try dsimp only
  repeat' (first | (intro c; exact Cells.wf_set c.mib _ _) | with_reducible assumption | with_reducible apply State.Keeps.mib_upd)

theorem State.mibInc_keeps {s0 s : State} (h : s0.Keeps s) (port : Nat) (k : Nat) :
    s0.Keeps (State.mibInc s port k) := by
  unfold State.mibInc
  try dsimp only
  repeat' (first | with_reducible assumption | with_reducible apply State.mibAdd_keeps)

theorem setFrame_ids (l : List Frame) (f : Frame) : (l.map (fun g => if g.id = f.id then f else g)).map (fun (x : Frame) => x.id) =
    l.map (fun (x : Frame) => x.id) := by
  rw [List.map_map]
  apply List.map_congr_left
  intro g _
  show (if g.id = f.id then f else g).id = g.id
  split
  · exact (by assumption : g.id = f.id).symm
  · rfl

theorem setCopy_ids (l : List Copy) (f : Copy) : (l.map (fun g => if g.id = f.id then f else g)).map (fun (x : Copy) => x.id) =
    l.map (fun (x : Copy) => x.id) := by
  rw [List.map_map]
  apply List.map_congr_left
  intro g _
  show (if g.id = f.id then f else g).id = g.id
  split
  · exact (by assumption : g.id = f.id).symm
  · rfl

/-- Numbers below the next one, as a statement about a list of numbers. -/
theorem below_iff {α : Type} (l : List α) (f : α → Nat) (n : Nat) : (∀ x ∈ l, f x < n) ↔ ∀ k ∈ l.map f, k < n := by
  simp

theorem State.setFrame_numbered (s : State) (f : Frame) (h : s.Numbered) : (s.setFrame f).Numbered := by
  obtain ⟨h1, h2, h3, h4⟩ := h
  refine ⟨?_, h2, ?_, h4⟩
  · rw [below_iff] at h1 ⊢
    exact (setFrame_ids s.frames f).symm ▸ h1
  · exact (setFrame_ids s.frames f).symm ▸ h3

theorem State.setCopy_numbered (s : State) (f : Copy) (h : s.Numbered) : (s.setCopy f).Numbered := by
  obtain ⟨h1, h2, h3, h4⟩ := h
  refine ⟨h1, ?_, h3, ?_⟩
  · rw [below_iff] at h2 ⊢
    exact (setCopy_ids s.copies f).symm ▸ h2
  · exact (setCopy_ids s.copies f).symm ▸ h4

theorem State.frames_filter_numbered (s : State) (p : Frame → Bool) (h : s.Numbered) : State.Numbered { s with frames := s.frames.filter p } := by
  obtain ⟨h1, h2, h3, h4⟩ := h
  exact ⟨fun f hf => h1 f (List.mem_filter.1 hf).1, h2, h3.sublist (List.filter_sublist.map _), h4⟩

theorem State.copies_filter_numbered (s : State) (p : Copy → Bool) (h : s.Numbered) : State.Numbered { s with copies := s.copies.filter p } := by
  obtain ⟨h1, h2, h3, h4⟩ := h
  exact ⟨h1, fun f hf => h2 f (List.mem_filter.1 hf).1, h3, h4.sublist (List.filter_sublist.map _)⟩

theorem nodup_next {α : Type} (l : List α) (x : α) (f : α → Nat) (h : (l.map f).Nodup) (h2 : ∀ y ∈ l, f y < f x) : ((l ++ [x]).map f).Nodup := by
  rw [List.map_append, List.nodup_append]
  refine ⟨h, by simp, ?_⟩
  intro a ha b hb
  simp only [List.map_cons, List.map_nil, List.mem_cons, List.not_mem_nil, or_false] at hb
  obtain ⟨y, hy, rfl⟩ := List.mem_map.1 ha
  have := h2 y hy
  omega

theorem State.newFrame_numbered (s : State) (f : Frame) (h : s.Numbered) : (s.newFrame f).2.Numbered := by
  obtain ⟨h1, h2, h3, h4⟩ := h
  refine ⟨?_, fun c hc => Nat.lt_succ_of_lt (h2 c hc), nodup_next s.frames { f with id := s.nextId } (fun g => g.id) h3 h1, h4⟩
  intro g hg
  obtain hg | hg := List.mem_append.1 hg
  · exact Nat.lt_succ_of_lt (h1 g hg)
  · rw [List.mem_singleton.1 hg]; exact Nat.lt_succ_self _

theorem State.addCopy_numbered (s : State) (c : Copy) (h : s.Numbered) : (s.addCopy c).Numbered := by
  obtain ⟨h1, h2, h3, h4⟩ := h
  refine ⟨fun c hc => Nat.lt_succ_of_lt (h1 c hc), ?_, h3, nodup_next s.copies { c with id := s.nextId } (fun g => g.id) h4 h2⟩
  intro g hg
  obtain hg | hg := List.mem_append.1 hg
  · exact Nat.lt_succ_of_lt (h2 g hg)
  · rw [List.mem_singleton.1 hg]; exact Nat.lt_succ_self _

theorem State.setPort_keeps {s0 s : State} (h : s0.Keeps s) (n : Nat) (x : PortSt) :
    s0.Keeps (State.setPort s n x) := by
  unfold State.setPort
  try dsimp only
  repeat' (first | with_reducible assumption | (intro c; with_reducible exact Cells.wf_set c.ports _ _) | (intro c; with_reducible exact memPut_wf c.ports _ _) | (intro c; with_reducible exact c.ports) | intro _ | with_reducible (first | apply State.Keeps.ports_upd | apply State.Keeps.ite | apply State.Keeps.ite_fst | apply State.Keeps.ite_snd | apply State.Keeps.foldl) | split)

theorem State.cutShort_keeps {s0 s : State} (h : s0.Keeps s) (n : Nat) :
    s0.Keeps (State.cutShort s n) := by
  unfold State.cutShort
  try dsimp only
  repeat' (first | with_reducible assumption | intro _ | with_reducible (first | apply State.emit_keeps | apply State.Keeps.ite | apply State.Keeps.ite_fst | apply State.Keeps.ite_snd | apply State.Keeps.foldl) | split)

theorem State.setFrame_keeps {s0 s : State} (h : s0.Keeps s) (f : Frame) :
    s0.Keeps (State.setFrame s f) :=
  State.Keeps.frames_upd h (State.setFrame_numbered s f)

theorem State.newFrame_keeps {s0 s : State} (h : s0.Keeps s) (f : Frame) :
    s0.Keeps (State.newFrame s f).2 := by
  exact State.Keeps.upd h rfl rfl (Nat.le_refl _) (List.suffix_refl _) rfl (fun c => { c with  }) (State.newFrame_numbered s f)

theorem State.setCopy_keeps {s0 s : State} (h : s0.Keeps s) (c : Copy) :
    s0.Keeps (State.setCopy s c) :=
  State.Keeps.copies_upd h (State.setCopy_numbered s c)

theorem State.poolNote_keeps {s0 s : State} (h : s0.Keeps s) :
    s0.Keeps (State.poolNote s) := by
  unfold State.poolNote
  dsimp only
  split
  · exact State.Keeps.spilling_upd (State.setF_keeps h _ _ _)
  · exact State.Keeps.spilling_upd h

theorem State.takeCell_keeps {s0 s : State} (h : s0.Keeps s) (l : List (Nat × Nat)) (slice : Nat) :
    s0.Keeps (State.takeCell s l slice).2 := by
  exact State.Keeps.bankPtr_upd (State.Keeps.bankUse_upd (State.fresh_keeps h) (fun c => Cells.wf_set c.bankUse _ _))
    (fun c => Cells.wf_set c.bankPtr _ _)

theorem State.takeCells_keeps {s0 x1 : State} (hx1 : s0.Keeps x1) (x0 : Nat) (x2 : List (Nat × Nat)) :
    s0.Keeps (State.takeCells x0 x1 x2).2 := by
  induction x0 generalizing x1 x2 with
  | zero => exact hx1
  | succ n ih => unfold State.takeCells; exact ih (State.takeCell_keeps hx1 _ _) _

theorem State.freeCells_keeps {s0 s : State} (h : s0.Keeps s) (l : List (Nat × Nat)) :
    s0.Keeps (State.freeCells s l) := by
  unfold State.freeCells
  exact State.Keeps.bankUse_upd h (fun c => Cells.wf_foldl _ _ _ c.bankUse (fun _ _ hm => Cells.wf_set hm _ _))

theorem State.peatFree_keeps {s0 s : State} (h : s0.Keeps s) (f : Frame) :
    s0.Keeps (State.peatFree s f) := by
  unfold State.peatFree
  split
  · exact State.setF_keeps (State.Keeps.peatFull_upd h) _ _ _
  · exact h

theorem State.reap_keeps {s0 s : State} (h : s0.Keeps s) (id : Nat) :
    s0.Keeps (State.reap s id) := by
  unfold State.reap
  exact State.Keeps.ite (State.poolNote_keeps (State.peatFree_keeps (State.freeCells_keeps
    (State.Keeps.frames_upd h (State.frames_filter_numbered s _)) _) _)) h

theorem State.copyGone_keeps {s0 s : State} (h : s0.Keeps s) (c : Copy) :
    s0.Keeps (State.copyGone s c) := by
  unfold State.copyGone
  try dsimp only
  repeat' (first | with_reducible assumption | with_reducible apply State.reap_keeps | with_reducible exact State.Keeps.copies_upd h (State.copies_filter_numbered s _))

theorem State.frameDrop_keeps {s0 s : State} (h : s0.Keeps s) (id : Nat) :
    s0.Keeps (State.frameDrop s id) := by
  unfold State.frameDrop
  exact State.reap_keeps (State.poolNote_keeps (State.setFrame_keeps (State.peatFree_keeps (State.freeCells_keeps
    (State.Keeps.copies_upd h (State.copies_filter_numbered s _)) _) _) _)) _

theorem State.copyDrop_keeps {s0 s : State} (h : s0.Keeps s) (c : Copy) :
    s0.Keeps (State.copyDrop s c) := by
  unfold State.copyDrop
  try dsimp only
  repeat' (first | with_reducible assumption | intro _ | with_reducible (first | apply State.copyGone_keeps | apply State.Keeps.ite | apply State.Keeps.ite_fst | apply State.Keeps.ite_snd | apply State.Keeps.foldl) | split)

theorem State.launchDrop_keeps {s0 s : State} (h : s0.Keeps s) (port : Nat) (k : Nat) (cause : Nat) :
    s0.Keeps (State.launchDrop s port k cause) := by
  unfold State.launchDrop
  try dsimp only
  repeat' (first | with_reducible assumption | with_reducible (first | apply State.raise_keeps | apply State.bump_keeps))

theorem State.addCopy_keeps {s0 s : State} (h : s0.Keeps s) (c : Copy) :
    s0.Keeps (State.addCopy s c) := by
  exact State.Keeps.upd h rfl rfl (Nat.le_refl _) (List.suffix_refl _) rfl (fun c => { c with  }) (State.addCopy_numbered s c)

theorem State.admitCopy_keeps {s0 s : State} (h : s0.Keeps s) (id : Nat) (free : Int) (port : Nat) :
    s0.Keeps (State.admitCopy s id free port).1 := by
  unfold State.admitCopy
  try dsimp only
  repeat' (first | with_reducible assumption | with_reducible (first | apply State.mibInc_keeps | apply State.launchDrop_keeps | apply State.bump_keeps | apply State.addCopy_keeps | apply State.setFrame_keeps | apply State.Keeps.ite | apply State.Keeps.ite_fst | apply State.Keeps.ite_snd) | split)

theorem State.mirrorCopy_keeps {s0 s : State} (h : s0.Keeps s) (id : Nat) (k : Nat) :
    s0.Keeps (State.mirrorCopy s id k) := by
  unfold State.mirrorCopy
  try dsimp only
  repeat' (first | with_reducible assumption | intro _ | with_reducible (first | apply State.mibInc_keeps | apply State.bump_keeps | apply State.raise_keeps | apply State.setFrame_keeps | apply State.addCopy_keeps | apply State.Keeps.ite | apply State.Keeps.ite_fst | apply State.Keeps.ite_snd | apply State.Keeps.foldl) | split)

theorem State.admitAll_keeps {s0 s : State} (h : s0.Keeps s) (id : Nat) (ports : List Nat) :
    s0.Keeps (State.admitAll s id ports).1 := by
  unfold State.admitAll
  dsimp only
  generalize s.poolFree = fr
  have key : ∀ (l : List Nat) (x : State × List Nat × Bool), s0.Keeps x.1 → s0.Keeps (l.foldl (fun (x : State × List Nat × Bool) n =>
      match (x.1.admitCopy id fr n).2 with
      | none => ((x.1.admitCopy id fr n).1, x.2)
      | some sh => ((x.1.admitCopy id fr n).1, x.2.1 ++ [n], x.2.2 || sh)) x).1 := by
    intro l
    induction l with
    | nil => exact fun _ hx => hx
    | cons n r ih =>
      intro x hx
      have hk : s0.Keeps (x.1.admitCopy id fr n).1 := State.admitCopy_keeps hx _ _ _
      simp only [List.foldl_cons]
      split
      · exact ih _ hk
      · exact ih _ hk
  exact key ports (s, [], false) h

theorem State.takeIn_keeps {s0 s : State} (h : s0.Keeps s) (id : Nat) (ports : List Nat) :
    s0.Keeps (State.takeIn s id ports) := by
  unfold State.takeIn
  try dsimp only
  repeat' (first | with_reducible assumption | intro _ | with_reducible (first | apply State.frameDrop_keeps | apply State.raise_keeps | apply State.bump_keeps | apply State.admitAll_keeps | apply State.takeCells_keeps | apply State.poolNote_keeps | apply State.setFrame_keeps | apply State.mirrorCopy_keeps | apply State.Keeps.foldl | apply State.Keeps.ite) | split)

theorem State.regrow_keeps {s0 s : State} (h : s0.Keeps s) (id : Nat) :
    s0.Keeps (State.regrow s id).1 := by
  unfold State.regrow
  try dsimp only
  repeat' (first | with_reducible assumption | with_reducible (first | apply State.takeCells_keeps | apply State.poolNote_keeps | apply State.setFrame_keeps | apply State.Keeps.ite | apply State.Keeps.ite_fst | apply State.Keeps.ite_snd) | split)

theorem State.markCopy_keeps {s0 s : State} (h : s0.Keeps s) (begun : Bool) (c : Copy) :
    s0.Keeps (State.markCopy s begun c) := by
  unfold State.markCopy
  try dsimp only
  repeat' (first | with_reducible assumption | with_reducible (first | apply State.setCopy_keeps | apply State.copyGone_keeps | apply State.Keeps.ite))

theorem State.finding_keeps {s0 s : State} (h : s0.Keeps s) (id : Nat) (cause : Nat) :
    s0.Keeps (State.finding s id cause).1 := by
  unfold State.finding
  try dsimp only
  repeat' (first | with_reducible assumption | intro _ | with_reducible (first | apply State.setFrame_keeps | apply State.markCopy_keeps | apply State.bump_keeps | apply State.Keeps.foldl | apply State.Keeps.ite | apply State.Keeps.ite_fst | apply State.Keeps.ite_snd))

theorem State.cellBank_keeps {s0 s : State} (h : s0.Keeps s) (f : Frame) (k : Nat) :
    s0.Keeps (State.cellBank s f k).2 := by
  unfold State.cellBank
  try dsimp only
  repeat' (first | with_reducible assumption | intro _ | with_reducible (first | apply State.fresh_keeps | apply State.Keeps.ite | apply State.Keeps.ite_fst | apply State.Keeps.ite_snd | apply State.Keeps.foldl) | split)

theorem State.eccUncorr_keeps {s00 s0 : State} (h : s00.Keeps s0) (id : Nat) (k : Nat) :
    s00.Keeps (State.eccUncorr s0 id k) := by
  unfold State.eccUncorr
  try dsimp only
  repeat' (first | with_reducible assumption | intro _ | with_reducible (first | apply State.cellBank_keeps | apply State.bump_keeps | apply State.raise_keeps | apply State.copyGone_keeps | apply State.setCopy_keeps | apply State.Keeps.ite | apply State.Keeps.ite_fst | apply State.Keeps.ite_snd | apply State.Keeps.foldl) | split)

theorem State.mereRead_keeps {s0 s : State} (h : s0.Keeps s) (id : Nat) (corr : Nat) (bad : Option Nat) :
    s0.Keeps (State.mereRead s id corr bad) := by
  unfold State.mereRead
  try dsimp only
  repeat' (first | with_reducible assumption | intro _ | with_reducible (first | apply State.bumpN_keeps | apply State.eccUncorr_keeps | apply State.Keeps.ite | apply State.Keeps.ite_fst | apply State.Keeps.ite_snd | apply State.Keeps.foldl) | split)

theorem State.takeBlocks_keeps {s0 s : State} (h : s0.Keeps s) (n : Nat) :
    s0.Keeps (State.takeBlocks s n).2 := by
  unfold State.takeBlocks
  try dsimp only
  repeat' (first | with_reducible assumption | intro _ | with_reducible (first | apply State.fresh_keeps | apply State.Keeps.ite | apply State.Keeps.ite_fst | apply State.Keeps.ite_snd | apply State.Keeps.foldl) | split)

theorem State.peatWrite_keeps {s0 s : State} (h : s0.Keeps s) (b : List Nat) (l : List Byte) :
    s0.Keeps (State.peatWrite s b l) := by
  induction b generalizing s l with
  | nil => exact h
  | cons x r ih => exact ih (State.Keeps.dram_upd h (fun c => memPut_wf c.dram _ _)) _

theorem State.descBytes_keeps {s0 s : State} (h : s0.Keeps s) :
    s0.Keeps (State.descBytes s).2 := by
  unfold State.descBytes
  try dsimp only
  repeat' (first | with_reducible assumption | intro _ | with_reducible (first | apply State.fresh_keeps | apply State.Keeps.ite | apply State.Keeps.ite_fst | apply State.Keeps.ite_snd | apply State.Keeps.foldl) | split)

theorem State.spillMove_keeps {s00 s0 : State} (h : s00.Keeps s0) (c : Copy) (f : Frame) :
    s00.Keeps (State.spillMove s0 c f) := by
  unfold State.spillMove
  dsimp only
  have hd := State.peatWrite_keeps (State.descBytes_keeps (State.takeBlocks_keeps h (peatBlocks f.len)))
    (s0.takeBlocks (peatBlocks f.len)).1 ((s0.takeBlocks (peatBlocks f.len)).2.descBytes.1 ++ f.data ++ fcsOf f.data)
  generalize (s0.takeBlocks (peatBlocks f.len)).2.descBytes.2.peatWrite (s0.takeBlocks (peatBlocks f.len)).1
    ((s0.takeBlocks (peatBlocks f.len)).2.descBytes.1 ++ f.data ++ fcsOf f.data) = u at hd
  apply State.poolNote_keeps
  apply State.setF_keeps
  split
  · exact State.freeCells_keeps (State.setFrame_keeps (State.setCopy_keeps hd _) _) _
  · exact State.setCopy_keeps (State.newFrame_keeps hd _) _

theorem State.spill_keeps {s00 s0 : State} (h : s00.Keeps s0) (port : Nat) (tc : Nat) (corr : Nat) (bad : Option Nat) :
    s00.Keeps (State.spill s0 port tc corr bad) := by
  unfold State.spill
  dsimp only
  apply State.Keeps.ite _ h
  split
  · exact h
  · rename_i c _
    have hm := State.mereRead_keeps h c.fid corr bad
    exact State.Keeps.ite (State.Keeps.ite h (State.raise_keeps (State.Keeps.peatFull_upd h) _ _ _))
      (State.Keeps.ite (State.spillMove_keeps hm _ _) hm)

theorem State.refill_keeps {s0 s : State} (h : s0.Keeps s) (port : Nat) (tc : Nat) (bad : Bool) :
    s0.Keeps (State.refill s port tc bad) := by
  unfold State.refill
  split
  · exact h
  · exact State.Keeps.ite (State.Keeps.ite (State.copyGone_keeps (State.raise_keeps (State.bump_keeps h _ _) _ _ _) _)
      (State.poolNote_keeps (State.setFrame_keeps (State.setCopy_keeps (State.takeCells_keeps (State.peatFree_keeps h _) _ _) _) _))) h

theorem State.peatDiscard_keeps {s0 s : State} (h : s0.Keeps s) :
    s0.Keeps (State.peatDiscard s) := by
  unfold State.peatDiscard
  try dsimp only
  repeat' (first | with_reducible assumption | intro _ | with_reducible (first | apply State.bump_keeps | apply State.copyDrop_keeps | apply State.Keeps.ite | apply State.Keeps.ite_fst | apply State.Keeps.ite_snd | apply State.Keeps.foldl) | split)

theorem State.qmPortCfgChanged_keeps {s0 s : State} (h : s0.Keeps s) (n : Nat) (old : Word) :
    s0.Keeps (State.qmPortCfgChanged s n old) := by
  unfold State.qmPortCfgChanged
  try dsimp only
  repeat' (first | with_reducible assumption | with_reducible (first | apply State.poolNote_keeps | apply State.setF_keeps | apply State.Keeps.ite))

end Sys2Proof.Machine
end

