-- ==== Sys2Proof/Laws/Frames.lean ====
section
/-! SUPPORT. Frames and copies: what an update of one does to the others, and what fair queueing leaves as it was. -/

namespace Sys2Proof.Machine

theorem State.Fair.refl (s : State) : s.Fair s := ⟨rfl, rfl⟩

theorem State.Fair.trans {a b c : State} (h : a.Fair b) (k : b.Fair c) : a.Fair c := by
  obtain ⟨h1, h2⟩ := h
  obtain ⟨k1, k2⟩ := k
  refine ⟨?_, k2.trans h2⟩
  rw [k1, h1]

theorem State.Fair.numbered {a b : State} (h : a.Fair b) (n : a.Numbered) : b.Numbered := by
  obtain ⟨h1, h2⟩ := h
  obtain ⟨n1, n2, n3, n4⟩ := n
  have hid : b.copies.map (fun (c : Copy) => c.id) = a.copies.map (fun (c : Copy) => c.id) := by
    have := congrArg (List.map (fun (c : Copy) => c.id)) h2
    rwa [List.map_map, List.map_map] at this
  have hf : b.frames = a.frames := by rw [h1]
  have hn : b.nextId = a.nextId := by rw [h1]
  unfold State.Numbered
  rw [hf, hn, hid]
  refine ⟨n1, ?_, n3, n4⟩
  rw [below_iff] at n2 ⊢
  rw [hid]
  exact n2

theorem find_mem_id {l : List Copy} {p : Copy → Bool} {c : Copy} (h : l.find? p = some c) : c ∈ l ∧ p c = true :=
  ⟨List.mem_of_find?_eq_some h, List.find?_some h⟩

/-- With numbers of their own, the copy with `c`'s number is `c`. -/
theorem copy_unique {l : List Copy} (h : (l.map (fun (c : Copy) => c.id)).Nodup) {c g : Copy} (hc : c ∈ l) (hg : g ∈ l) (e : g.id = c.id) : g = c :=
  List.inj_on_of_nodup_map h hg hc e

/-- The copy at the head of a queue is one of the copies. -/
theorem State.headOf_mem {s : State} {port tc : Nat} {c : Copy} (h : s.headOf port tc = some c) : c ∈ s.copies := by
  unfold State.headOf at h
  split at h
  · cases h
  · exact (find_mem_id h).1

theorem State.wfqHead_fair (s : State) (port tc : Nat) (h : s.Numbered) : s.Fair (s.wfqHead port tc) := by
  unfold State.wfqHead
  split
  · exact State.Fair.refl s
  · rename_i c hc
    split
    · exact State.Fair.refl s
    · refine ⟨rfl, ?_⟩
      dsimp only [State.setCopy]
      rw [List.map_map]
      apply List.map_congr_left
      intro g hg
      show ({ (if g.id = c.id then _ else g) with vf := none } : Copy) = _
      split
      · rw [copy_unique h.2.2.2 (State.headOf_mem hc) hg (by assumption)]
      · rfl

theorem State.Fair.foldl {α : Type} {s0 s : State} {f : State → α → State} {l : List α} (h : s0.Fair s) (n : s0.Numbered)
    (hf : ∀ (u : State) (x : α), u.Numbered → u.Fair (f u x)) : s0.Fair (l.foldl f s) := by
  induction l generalizing s with
  | nil => exact h
  | cons x r ih => exact ih (h.trans (hf _ _ (h.numbered n)))

theorem State.wfqPort_fair (s : State) (port : Nat) (h : s.Numbered) : s.Fair (s.wfqPort port) := by
  unfold State.wfqPort
  dsimp only
  split
  · exact ⟨rfl, rfl⟩
  · exact State.Fair.foldl (State.Fair.refl s) h (fun u x hu => State.wfqHead_fair u port x hu)

/-- 10 R234: what brings the finish times up to date changes nothing else. -/
theorem State.wfqAll_fair (s : State) (h : s.Numbered) : s.Fair s.wfqAll :=
  State.Fair.foldl (State.Fair.refl s) h (fun u x hu => State.wfqPort_fair u x hu)

theorem State.Fair.ids {u t : State} (h : u.Fair t) : t.copies.map (fun (c : Copy) => c.id) = u.copies.map (fun (c : Copy) => c.id) := by
  have := congrArg (List.map (fun (c : Copy) => c.id)) h.2
  rwa [List.map_map, List.map_map] at this

theorem State.poolNote_same (s : State) : s.poolNote = { s with regs := s.poolNote.regs, spilling := s.poolNote.spilling } := by
  unfold State.poolNote
  dsimp only
  split <;> rfl

theorem State.reg_poolNote_ne (s : State) (a : Nat) (h : a ≠ QM_POOL.a) : s.poolNote.reg a = s.reg a := by
  unfold State.poolNote
  dsimp only
  split
  · exact State.reg_setF_ne _ _ _ _ _ h
  · rfl

theorem State.peatFree_same (s : State) (f : Frame) :
    s.peatFree f = { s with regs := (s.peatFree f).regs, peatFull := (s.peatFree f).peatFull } := by
  unfold State.peatFree; split <;> rfl

theorem State.reg_peatFree_ne (s : State) (f : Frame) (a : Nat) (h : a ≠ QM_PEAT_STAT.a) : (s.peatFree f).reg a = s.reg a := by
  unfold State.peatFree
  split
  · exact State.reg_setF_ne _ _ _ _ _ h
  · rfl

theorem State.reap_same (s : State) (id : Nat) : s.reap id =
    { s with regs := (s.reap id).regs, spilling := (s.reap id).spilling, peatFull := (s.reap id).peatFull
             frames := (s.reap id).frames, bankUse := (s.reap id).bankUse } := by
  unfold State.reap
  dsimp only
  split
  · generalize hu : ({ s with frames := s.frames.filter (fun g => g.id != id) } : State).freeCells (s.frame id).banks = u
    have h1 := State.peatFree_same u (s.frame id)
    have h2 := State.poolNote_same (u.peatFree (s.frame id))
    generalize u.peatFree (s.frame id) = v at h1 h2 ⊢
    generalize v.poolNote = t at h2 ⊢
    rw [h2, h1, ← hu]
    rfl
  · rfl

theorem State.reg_reap_ne (s : State) (id a : Nat) (h : a ≠ QM_POOL.a) (hp : a ≠ QM_PEAT_STAT.a) : (s.reap id).reg a = s.reg a := by
  unfold State.reap
  dsimp only
  split
  · exact (State.reg_poolNote_ne _ _ h).trans (State.reg_peatFree_ne _ _ _ hp)
  · rfl

theorem State.copyGone_copies (s : State) (c : Copy) : (s.copyGone c).copies = s.copies.filter (fun g => g.id != c.id) := by
  unfold State.copyGone
  rw [State.reap_same]

theorem State.copyGone_same (s : State) (c : Copy) : s.copyGone c = { s with
    regs := (s.copyGone c).regs, spilling := (s.copyGone c).spilling, peatFull := (s.copyGone c).peatFull, frames := (s.copyGone c).frames, bankUse := (s.copyGone c).bankUse
    copies := s.copies.filter (fun g => g.id != c.id) } := by
  conv => lhs; unfold State.copyGone; rw [State.reap_same]
  rfl

theorem State.reg_copyGone_ne (s : State) (c : Copy) (a : Nat) (h : a ≠ QM_POOL.a) (hp : a ≠ QM_PEAT_STAT.a) : (s.copyGone c).reg a = s.reg a := by
  unfold State.copyGone
  exact State.reg_reap_ne _ _ _ h hp

theorem State.cutShort_same (s : State) (n : Nat) : s.cutShort n = { s with out := (s.cutShort n).out } := by
  unfold State.cutShort; split <;> rfl

theorem State.laneNote_same (s : State) (n : Nat) : s.laneNote n = { s with ports := (s.laneNote n).ports, out := (s.laneNote n).out } := by
  unfold State.laneNote
  dsimp only
  split <;> rfl

theorem State.reg_laneNote (s : State) (n a : Nat) : (s.laneNote n).reg a = s.reg a := by
  rw [State.laneNote_same]; rfl

theorem State.reg_cutShort (s : State) (n a : Nat) : (s.cutShort n).reg a = s.reg a := by
  rw [State.cutShort_same]; rfl

theorem State.frameDrop_same (s : State) (id : Nat) : s.frameDrop id =
    { s with regs := (s.frameDrop id).regs, spilling := (s.frameDrop id).spilling, peatFull := (s.frameDrop id).peatFull
             frames := (s.frameDrop id).frames, copies := (s.frameDrop id).copies, bankUse := (s.frameDrop id).bankUse } := by
  unfold State.frameDrop
  extract_lets f
  generalize hu : ({ s with copies := s.copies.filter (fun c => c.fid != id) } : State).freeCells f.banks = u
  have h1 := State.peatFree_same u f
  generalize u.peatFree f = v at h1 ⊢
  generalize ({ f with hold := [], pool := 0, resv := [], banks := [], peatBlk := [], spilled := false, act := { f.act with drop := true } } : Frame) = g
  have h2 := State.poolNote_same (v.setFrame g)
  generalize (v.setFrame g).poolNote = w at h2 ⊢
  have h3 := State.reap_same w id
  generalize w.reap id = t at h3 ⊢
  rw [h3, h2]
  unfold State.setFrame
  rw [h1, ← hu]
  rfl

theorem State.reg_frameDrop_ne (s : State) (id a : Nat) (h : a ≠ QM_POOL.a) (hp : a ≠ QM_PEAT_STAT.a) : (s.frameDrop id).reg a = s.reg a := by
  unfold State.frameDrop
  dsimp only
  rw [State.reg_reap_ne _ _ _ h hp, State.reg_poolNote_ne _ _ h]
  exact State.reg_peatFree_ne _ _ _ hp

theorem State.frame_setFrame (s : State) (f g : Frame) (h : s.Numbered) (hg : g ∈ s.frames) (e : g.id = f.id) : (s.setFrame f).frame f.id = f := by
  have hm : f ∈ (s.setFrame f).frames := by
    show f ∈ s.frames.map _
    rw [List.mem_map]
    exact ⟨g, hg, if_pos e⟩
  have hn := (State.setFrame_numbered s f h).2.2.1
  unfold State.frame
  cases hf : (s.setFrame f).frames.find? (fun x => x.id == f.id) with
  | none =>
    have := List.find?_eq_none.1 hf f hm
    simp at this
  | some x =>
    have hx := List.mem_of_find?_eq_some hf
    have he := List.find?_some hf
    show x = f
    exact List.inj_on_of_nodup_map hn hx hm (by simpa using he)

theorem State.frame_setFrame_ne (s : State) (f : Frame) (id : Nat) (h : id ≠ f.id) : (s.setFrame f).frame id = s.frame id := by
  unfold State.frame State.setFrame
  dsimp only
  congr 1
  induction s.frames with
  | nil => rfl
  | cons g r ih =>
    rw [List.map_cons, List.find?_cons, List.find?_cons]
    by_cases hg : g.id = f.id
    · rw [if_pos hg]
      have h1 : (f.id == id) = false := by simpa using fun e => h e.symm
      have h2 : (g.id == id) = false := by rw [hg]; exact h1
      rw [h1, h2]
      exact ih
    · rw [if_neg hg]
      cases (g.id == id)
      · exact ih
      · rfl

/-- A new frame is the one with the next number. -/
theorem State.frame_newFrame (s : State) (f : Frame) (h : s.Numbered) : (s.newFrame f).2.frame s.nextId = { f with id := s.nextId } := by
  have hm : ({ f with id := s.nextId } : Frame) ∈ (s.newFrame f).2.frames := List.mem_append.2 (.inr (List.mem_singleton.2 rfl))
  have hn := (State.newFrame_numbered s f h).2.2.1
  unfold State.frame
  cases hf : (s.newFrame f).2.frames.find? (fun x => x.id == s.nextId) with
  | none =>
    have := List.find?_eq_none.1 hf _ hm
    simp at this
  | some x =>
    have hx := List.mem_of_find?_eq_some hf
    have he := List.find?_some hf
    show x = _
    exact List.inj_on_of_nodup_map hn hx hm (by simpa using he)

end Sys2Proof.Machine
end

