-- ==== Sys2Proof/Laws/KeepsTime.lean ====
section
/-! SUPPORT. `State.Keeps` for the operations of Machine/Time.lean. -/

namespace Sys2Proof.Machine

set_option linter.unusedTactic false
set_option linter.unreachableTactic false

theorem State.setDom_keeps {s0 s : State} (h : s0.Keeps s) (d : Nat) (x : DomSt) :
    s0.Keeps (State.setDom s d x) := by
  unfold State.setDom
  try dsimp only
  repeat' (first | with_reducible assumption | with_reducible apply State.Keeps.ite | with_reducible apply State.Keeps.tim_upd)

theorem State.setClock_keeps {s0 s : State} (h : s0.Keeps s) (c : Nat) (t : Nat) :
    s0.Keeps (State.setClock s c t) := by
  unfold State.setClock
  try dsimp only
  repeat' (first | with_reducible assumption | with_reducible apply State.Keeps.ite | with_reducible apply State.Keeps.tim_upd)

theorem State.wktRefuse_keeps {s0 s : State} (h : s0.Keeps s) (d : Nat) :
    s0.Keeps (State.wktRefuse s d) := by
  unfold State.wktRefuse
  try dsimp only
  repeat' (first | with_reducible assumption | with_reducible (first | apply State.raise_keeps | apply State.setFs_keeps | apply State.Keeps.ite) | with_reducible apply State.Keeps.tim_upd)

theorem State.wktSlew_keeps {s0 s : State} (h : s0.Keeps s) (d : Nat) :
    s0.Keeps (State.wktSlew s d) := by
  unfold State.wktSlew
  try dsimp only
  repeat' (first | with_reducible assumption | with_reducible apply State.setFs_keeps)

theorem State.wktDue_keeps {s0 s : State} (h : s0.Keeps s) :
    s0.Keeps (State.wktDue s) := by
  unfold State.wktDue
  try dsimp only
  repeat' (first | with_reducible assumption | intro _ | with_reducible (first | apply State.Keeps.tim_upd | apply State.Keeps.ite | apply State.Keeps.ite_fst | apply State.Keeps.ite_snd | apply State.Keeps.foldl) | split)

theorem State.wktEval_keeps {s0 s : State} (h : s0.Keeps s) :
    s0.Keeps (State.wktEval s) := by
  unfold State.wktEval
  try dsimp only
  repeat' (first | with_reducible assumption | with_reducible (first | apply State.setF_keeps | apply State.raise_keeps | apply State.setFs_keeps | apply State.wktRefuse_keeps | apply State.wktSlew_keeps | apply State.Keeps.ite) | split | with_reducible apply State.Keeps.tim_upd)

theorem State.wktSettle_keeps {s0 s : State} (h : s0.Keeps s) :
    s0.Keeps (State.wktSettle s) := by
  unfold State.wktSettle
  exact State.Keeps.ite (State.wktEval_keeps (State.Keeps.tim_upd h)) h

theorem State.wktAdjusted_keeps {s0 s : State} (h : s0.Keeps s) (d : Nat) :
    s0.Keeps (State.wktAdjusted s d) := by
  unfold State.wktAdjusted
  try dsimp only
  repeat' (first | with_reducible assumption | with_reducible (first | apply State.wktRefuse_keeps | apply State.setF_keeps | apply State.wktEval_keeps | apply State.Keeps.ite))

theorem State.domLose_keeps {s0 s : State} (h : s0.Keeps s) (d : Nat) :
    s0.Keeps (State.domLose s d) := by
  unfold State.domLose
  try dsimp only
  repeat' (first | with_reducible assumption | intro _ | with_reducible (first | apply State.setF_keeps | apply State.setDom_keeps | apply State.raise_keeps | apply State.wktDue_keeps | apply State.Keeps.ite | apply State.Keeps.ite_fst | apply State.Keeps.ite_snd | apply State.Keeps.foldl) | split)

theorem State.domKick_keeps {s0 s : State} (h : s0.Keeps s) (d : Nat) :
    s0.Keeps (State.domKick s d) := by
  unfold State.domKick
  try dsimp only
  repeat' (first | with_reducible assumption | intro _ | with_reducible (first | apply State.setF_keeps | apply State.setDom_keeps | apply State.raiseIf_keeps | apply State.wktDue_keeps | apply State.Keeps.ite | apply State.Keeps.ite_fst | apply State.Keeps.ite_snd | apply State.Keeps.foldl) | split)

theorem State.domCtrl_keeps {s0 s : State} (h : s0.Keeps s) (d : Nat) (w : Word) :
    s0.Keeps (State.domCtrl s d w) := by
  unfold State.domCtrl
  try dsimp only
  repeat' (first | with_reducible assumption | with_reducible (first | apply State.domLose_keeps | apply State.domKick_keeps | apply State.Keeps.ite))

theorem State.domCfgChanged_keeps {s0 s : State} (h : s0.Keeps s) (d : Nat) (old : Word) :
    s0.Keeps (State.domCfgChanged s d old) := by
  unfold State.domCfgChanged
  try dsimp only
  repeat' (first | with_reducible assumption | intro _ | with_reducible (first | apply State.setF_keeps | apply State.setDom_keeps | apply State.wktDue_keeps | apply State.Keeps.ite | apply State.Keeps.ite_fst | apply State.Keeps.ite_snd | apply State.Keeps.foldl) | split)

theorem State.align_keeps {s0 s : State} (h : s0.Keeps s) :
    s0.Keeps (State.align s) := by
  unfold State.align
  try dsimp only
  repeat' (first | with_reducible assumption | intro _ | with_reducible (first | apply State.setF_keeps | apply State.Keeps.ite | apply State.Keeps.ite_fst | apply State.Keeps.ite_snd | apply State.Keeps.foldl) | split)

theorem State.alignTick_keeps {s0 s : State} (h : s0.Keeps s) :
    s0.Keeps (State.alignTick s) := by
  unfold State.alignTick
  dsimp only
  split
  · exact h
  · have hu := State.setF_keeps h TIM_WKT_CTRL.a TIM_WKT_CTRL.align 0
    split
    · exact State.Keeps.ite (State.raise_keeps hu _ _ _)
        (State.raise_keeps (State.setFs_keeps (State.Keeps.wktPrev_upd (State.setClock_keeps hu _ _)) _ _) _ _ _)
    · exact State.raise_keeps hu _ _ _

theorem State.adjust_keeps {s0 s : State} (h : s0.Keeps s) (k : Nat) (set : Bool) (v : Int) :
    s0.Keeps (State.adjust s k set v) := by
  unfold State.adjust
  try dsimp only
  repeat' (first | with_reducible assumption | intro _ | with_reducible (first | apply State.Keeps.tim_upd | apply State.Keeps.ite | apply State.Keeps.ite_fst | apply State.Keeps.ite_snd | apply State.Keeps.foldl) | split)

theorem State.timAdjDo_keeps {s0 s : State} (h : s0.Keeps s) (i : Nat) (op : Nat) (arg : Nat) :
    s0.Keeps (State.timAdjDo s i op arg) := by
  unfold State.timAdjDo
  try dsimp only
  repeat' (first | with_reducible assumption | intro _ | with_reducible (first | apply State.adjust_keeps | apply State.bump_keeps | apply State.setReg_keeps | apply State.setF_keeps | apply State.Keeps.ite | apply State.Keeps.ite_fst | apply State.Keeps.ite_snd | apply State.Keeps.foldl) | split)

theorem State.timAdjReq_keeps {s0 s : State} (h : s0.Keeps s) (i : Nat) (op : Nat) (arg : Nat) :
    s0.Keeps (State.timAdjReq s i op arg) := by
  unfold State.timAdjReq
  try dsimp only
  repeat' (first | with_reducible assumption | with_reducible (first | apply State.mbxEnd_keeps | apply State.timAdjDo_keeps) | split)

theorem State.timSnapReq_keeps {s0 s : State} (h : s0.Keeps s) (op : Nat) (arg : Nat) :
    s0.Keeps (State.timSnapReq s op arg) := by
  unfold State.timSnapReq
  try dsimp only
  repeat' (first | with_reducible assumption | with_reducible (first | apply State.mbxFail_keeps | apply State.snap_keeps | apply State.Keeps.ite))

theorem State.rxtsReq_keeps {s0 s : State} (h : s0.Keeps s) (op : Nat) (arg : Nat) :
    s0.Keeps (State.rxtsReq s op arg) := by
  unfold State.rxtsReq
  try dsimp only
  repeat' (first | with_reducible assumption | with_reducible (first | apply State.mbxFail_keeps | apply State.snap_keeps | apply State.Keeps.ite) | split | with_reducible apply State.Keeps.tim_upd)

theorem State.txtsReq_keeps {s0 s : State} (h : s0.Keeps s) (op : Nat) (arg : Nat) :
    s0.Keeps (State.txtsReq s op arg) := by
  unfold State.txtsReq
  try dsimp only
  repeat' (first | with_reducible assumption | with_reducible (first | apply State.mbxFail_keeps | apply State.snap_keeps | apply State.Keeps.ite) | split | with_reducible apply State.Keeps.tim_upd)

theorem State.latWritten_keeps {s0 s : State} (h : s0.Keeps s) (a : Nat) (old : Word) :
    s0.Keeps (State.latWritten s a old) := by
  unfold State.latWritten
  exact State.Keeps.ite h (State.Keeps.tim_upd h)

theorem State.pushRxts_keeps {s0 s : State} (h : s0.Keeps s) (e : TsEntry) :
    s0.Keeps (State.pushRxts s e) := by
  unfold State.pushRxts
  try dsimp only
  repeat' (first | with_reducible assumption | with_reducible (first | apply State.raise_keeps | apply State.Keeps.ite) | with_reducible apply State.Keeps.tim_upd)

theorem State.pushTxts_keeps {s0 s : State} (h : s0.Keeps s) (e : TsEntry) :
    s0.Keeps (State.pushTxts s e) := by
  unfold State.pushTxts
  try dsimp only
  repeat' (first | with_reducible assumption | with_reducible (first | apply State.raise_keeps | apply State.Keeps.ite) | with_reducible apply State.Keeps.tim_upd)

theorem State.ldlyMeas_keeps {s0 s : State} (h : s0.Keeps s) (n : Nat) :
    s0.Keeps (State.ldlyMeas s n) := by
  unfold State.ldlyMeas
  try dsimp only
  repeat' (first | with_reducible assumption | with_reducible (first | apply State.raiseIf_keeps | apply State.setF_keeps | apply State.Keeps.ite))

theorem State.ldlyAccept_keeps {s0 s : State} (h : s0.Keeps s) (n : Nat) :
    s0.Keeps (State.ldlyAccept s n) := by
  unfold State.ldlyAccept
  try dsimp only
  repeat' (first | with_reducible assumption | with_reducible apply State.setF_keeps)

theorem State.wktLock_keeps {s0 s : State} (h : s0.Keeps s) :
    s0.Keeps (State.wktLock s) := by
  unfold State.wktLock
  try dsimp only
  repeat' (first | with_reducible assumption | intro _ | with_reducible (first | apply State.setClock_keeps | apply State.setF_keeps | apply State.raise_keeps | apply State.Keeps.ite | apply State.Keeps.ite_fst | apply State.Keeps.ite_snd | apply State.Keeps.foldl) | split)

theorem State.ppsRise_keeps {s0 s : State} (h : s0.Keeps s) :
    s0.Keeps (State.ppsRise s) := by
  unfold State.ppsRise
  split
  · exact h
  · exact State.Keeps.ite (State.emit_keeps (State.Keeps.tim_upd h) _) h

theorem State.ppsDrop_keeps {s0 s : State} (h : s0.Keeps s) :
    s0.Keeps (State.ppsDrop s) := by
  unfold State.ppsDrop
  exact State.Keeps.ite (State.emit_keeps (State.Keeps.tim_upd h) _) h

theorem State.ppsSettle_keeps {s0 s : State} (h : s0.Keeps s) :
    s0.Keeps (State.ppsSettle s) := by
  unfold State.ppsSettle
  try dsimp only
  repeat' (first | with_reducible assumption | intro _ | with_reducible (first | apply State.ppsRise_keeps | apply State.ppsDrop_keeps | apply State.Keeps.ite | apply State.Keeps.ite_fst | apply State.Keeps.ite_snd | apply State.Keeps.foldl) | split)

end Sys2Proof.Machine
end

