-- ==== Sys2Proof/Laws/KeepsSeqBase.lean ====
section
/-! SUPPORT. `State.Keeps` for the operations of Machine/SeqBase.lean. -/

namespace Sys2Proof.Machine

set_option linter.unusedTactic false
set_option linter.unreachableTactic false

theorem State.setSq_keeps {s0 s : State} (h : s0.Keeps s) (n : Nat) (x : SeqSt) :
    s0.Keeps (State.setSq s n x) := by
  unfold State.setSq
  try dsimp only
  repeat' (first | (intro c; exact Cells.wf_set c.seq _ _) | with_reducible assumption | with_reducible apply State.Keeps.seq_upd)

theorem State.setQ_keeps {s0 s : State} (h : s0.Keeps s) (n : Nat) (x : SeqSt) :
    s0.Keeps (State.setQ s n x) := by
  unfold State.setQ
  try dsimp only
  repeat' (first | with_reducible assumption | with_reducible (first | apply State.setSq_keeps | apply State.setFs_keeps | apply State.Keeps.ite))

theorem State.qstatWritten_keeps {s0 s : State} (h : s0.Keeps s) (n : Nat) :
    s0.Keeps (State.qstatWritten s n) := by
  unfold State.qstatWritten
  try dsimp only
  repeat' (first | with_reducible assumption | intro _ | with_reducible (first | apply State.setQ_keeps | apply State.Keeps.ite | apply State.Keeps.ite_fst | apply State.Keeps.ite_snd | apply State.Keeps.foldl) | split)

theorem State.postTime_keeps {s0 s : State} (h : s0.Keeps s) (n : Nat) (w : Word) (tgt : Nat) :
    s0.Keeps (State.postTime s n w tgt) := by
  unfold State.postTime
  try dsimp only
  repeat' (first | with_reducible assumption | with_reducible apply State.setQ_keeps)

theorem State.postAngle_keeps {s0 s : State} (h : s0.Keeps s) (n : Nat) (w : Word) (dom : Nat) (dir : Nat) (tau : Nat) (armed : Nat) :
    s0.Keeps (State.postAngle s n w dom dir tau armed) := by
  unfold State.postAngle
  try dsimp only
  repeat' (first | with_reducible assumption | with_reducible apply State.setQ_keeps)

theorem State.selectAll_keeps {s0 s : State} (h : s0.Keeps s) :
    s0.Keeps (State.selectAll s) := by
  unfold State.selectAll
  try dsimp only
  repeat' (first | with_reducible assumption | intro _ | with_reducible (first | apply State.setSq_keeps | apply State.Keeps.foldl | apply State.Keeps.ite))

theorem State.setPh_keeps {s0 s : State} (h : s0.Keeps s) (d : Nat) (x : PhSt) :
    s0.Keeps (State.setPh s d x) := by
  unfold State.setPh
  try dsimp only
  repeat' (first | (intro c; exact Cells.wf_set c.phs _ _) | with_reducible assumption | with_reducible apply State.Keeps.phs_upd)

theorem State.flushQ_keeps {s0 s : State} (h : s0.Keeps s) (n : Nat) :
    s0.Keeps (State.flushQ s n) := by
  unfold State.flushQ
  try dsimp only
  repeat' (first | with_reducible assumption | with_reducible (first | apply State.raise_keeps | apply State.bumpN_keeps | apply State.setQ_keeps | apply State.Keeps.ite))

theorem State.cancelIn_keeps {s0 s : State} (h : s0.Keeps s) (d : Nat) (n : Nat) :
    s0.Keeps (State.cancelIn s d n) := by
  unfold State.cancelIn
  try dsimp only
  repeat' (first | with_reducible assumption | with_reducible (first | apply State.raise_keeps | apply State.bumpN_keeps | apply State.setQ_keeps | apply State.Keeps.ite))

theorem State.cancelAngle_keeps {s0 s : State} (h : s0.Keeps s) (d : Nat) :
    s0.Keeps (State.cancelAngle s d) := by
  unfold State.cancelAngle
  try dsimp only
  repeat' (first | with_reducible assumption | intro _ | with_reducible (first | apply State.cancelIn_keeps | apply State.Keeps.foldl))

end Sys2Proof.Machine
end

