-- ==== Sys2Proof/Laws/KeepsTraffic.lean ====
section
/-! SUPPORT. `State.Keeps` for the operations of Machine/Traffic.lean. -/

namespace Sys2Proof.Machine

set_option linter.unusedTactic false
set_option linter.unreachableTactic false

theorem State.meterSet_keeps {s0 s : State} (h : s0.Keeps s) (p : Nat) (m : Nat) (v : Int) :
    s0.Keeps (State.meterSet s p m v) := by
  unfold State.meterSet
  try dsimp only
  repeat' (first | (intro c; exact Cells.wf_set c.meters _ _) | with_reducible assumption | with_reducible apply State.Keeps.meters_upd)

theorem State.meterCharge_keeps {s0 s : State} (h : s0.Keeps s) (p : Nat) (m : Nat) (n : Int) :
    s0.Keeps (State.meterCharge s p m n) := by
  unfold State.meterCharge
  try dsimp only
  repeat' (first | with_reducible assumption | with_reducible apply State.meterSet_keeps)

theorem State.meterTest_keeps {s0 s : State} (h : s0.Keeps s) (p : Nat) (m : Nat) (n : Nat) :
    s0.Keeps (State.meterTest s p m n).2 := by
  unfold State.meterTest
  try dsimp only
  repeat' (first | with_reducible assumption | with_reducible (first | apply State.meterCharge_keeps | apply State.raise_keeps | apply State.bump_keeps | apply State.Keeps.ite | apply State.Keeps.ite_fst | apply State.Keeps.ite_snd))

theorem State.meterFill_keeps {s0 s : State} (h : s0.Keeps s) (p : Nat) (m : Nat) :
    s0.Keeps (State.meterFill s p m) := by
  unfold State.meterFill
  try dsimp only
  repeat' (first | with_reducible assumption | with_reducible apply State.meterSet_keeps)

theorem State.laneNote_keeps {s0 s : State} (h : s0.Keeps s) (n : Nat) :
    s0.Keeps (State.laneNote s n) := by
  unfold State.laneNote
  try dsimp only
  repeat' (first | with_reducible assumption | intro _ | with_reducible (first | apply State.setPort_keeps | apply State.emit_keeps | apply State.Keeps.ite | apply State.Keeps.ite_fst | apply State.Keeps.ite_snd | apply State.Keeps.foldl) | split)

theorem State.suspend_keeps {s0 s : State} (h : s0.Keeps s) (c : Copy) :
    s0.Keeps (State.suspend s c) := by
  unfold State.suspend
  try dsimp only
  repeat' (first | with_reducible assumption | with_reducible (first | apply State.bump_keeps | apply State.setCopy_keeps))

theorem State.cutTry_keeps {s0 s : State} (h : s0.Keeps s) (c : Copy) :
    s0.Keeps (State.cutTry s c) := by
  unfold State.cutTry
  try dsimp only
  repeat' (first | with_reducible assumption | intro _ | with_reducible (first | apply State.suspend_keeps | apply State.setCopy_keeps | apply State.Keeps.ite | apply State.Keeps.ite_fst | apply State.Keeps.ite_snd | apply State.Keeps.foldl) | split)

theorem State.gateClosed_keeps {s0 s : State} (h : s0.Keeps s) (port : Nat) (closed : Nat) :
    s0.Keeps (State.gateClosed s port closed) := by
  unfold State.gateClosed
  try dsimp only
  repeat' (first | with_reducible assumption | intro _ | with_reducible (first | apply State.cutTry_keeps | apply State.bump_keeps | apply State.raise_keeps | apply State.Keeps.ite | apply State.Keeps.ite_fst | apply State.Keeps.ite_snd | apply State.Keeps.foldl) | split)

theorem State.holdNote_keeps {s0 s : State} (h : s0.Keeps s) (port : Nat) :
    s0.Keeps (State.holdNote s port) := by
  unfold State.holdNote
  try dsimp only
  repeat' (first | with_reducible assumption | intro _ | with_reducible (first | apply State.cutTry_keeps | apply State.Keeps.ite | apply State.Keeps.ite_fst | apply State.Keeps.ite_snd | apply State.Keeps.foldl) | split)

theorem State.gateNote_keeps {s0 s : State} (h : s0.Keeps s) (port : Nat) (t : Nat) :
    s0.Keeps (State.gateNote s port t) := by
  unfold State.gateNote
  try dsimp only
  repeat' (first | with_reducible assumption | intro _ | with_reducible (first | apply State.setPort_keeps | apply State.Keeps.ite | apply State.Keeps.ite_fst | apply State.Keeps.ite_snd | apply State.Keeps.foldl) | split)

theorem State.gateAction_keeps {s0 s : State} (h : s0.Keeps s) (port : Nat) (hold : Nat) (mask : Nat) (t : Nat) :
    s0.Keeps (State.gateAction s port hold mask t).1 := by
  unfold State.gateAction
  try dsimp only
  repeat' (first | with_reducible assumption | intro _ | with_reducible (first | apply State.gateNote_keeps | apply State.setFs_keeps | apply State.gateClosed_keeps | apply State.holdNote_keeps | apply State.Keeps.ite | apply State.Keeps.ite_fst | apply State.Keeps.ite_snd | apply State.Keeps.foldl) | split)

theorem State.gateWritten_keeps {s0 s : State} (h : s0.Keeps s) (port : Nat) (old : Word) :
    s0.Keeps (State.gateWritten s port old) := by
  unfold State.gateWritten
  try dsimp only
  repeat' (first | with_reducible assumption | with_reducible (first | apply State.holdNote_keeps | apply State.gateClosed_keeps))

theorem State.launchAction_keeps {s0 s : State} (h : s0.Keeps s) (port : Nat) (tc : Nat) (count : Nat) (instant : Nat) :
    s0.Keeps (State.launchAction s port tc count instant).1 := by
  unfold State.launchAction
  try dsimp only
  repeat' (first | with_reducible assumption | intro _ | with_reducible (first | apply State.setCopy_keeps | apply State.Keeps.foldl | apply State.Keeps.ite | apply State.Keeps.ite_fst | apply State.Keeps.ite_snd))

theorem State.launchReached_keeps {s0 s : State} (h : s0.Keeps s) (port : Nat) :
    s0.Keeps (State.launchReached s port) := by
  unfold State.launchReached
  try dsimp only
  repeat' (first | with_reducible assumption | with_reducible apply State.setCopy_keeps | split)

theorem State.tickCredit_keeps {s0 s : State} (h : s0.Keeps s) (k : Nat) :
    s0.Keeps (State.tickCredit s k) := by
  unfold State.tickCredit
  try dsimp only
  repeat' (first | (intro c; exact Cells.wf_set c.credit _ _) | with_reducible assumption | with_reducible apply State.Keeps.ite | with_reducible apply State.Keeps.credit_upd)

theorem State.tickShapers_keeps {s0 s : State} (h : s0.Keeps s) :
    s0.Keeps (State.tickShapers s) := by
  unfold State.tickShapers
  try dsimp only
  repeat' (first | with_reducible assumption | intro _ | with_reducible (first | apply State.tickCredit_keeps | apply State.Keeps.foldl))

theorem State.payRest_keeps {s0 s : State} (h : s0.Keeps s) (c : Copy) :
    s0.Keeps (State.payRest s c) := by
  unfold State.payRest
  exact State.Keeps.ite (State.Keeps.credit_upd h (fun c => Cells.wf_set c.credit _ _)) h

theorem State.tickSend_keeps {s0 s : State} (h : s0.Keeps s) :
    s0.Keeps (State.tickSend s) := by
  unfold State.tickSend
  try dsimp only
  repeat' (first | with_reducible assumption | intro _ | with_reducible (first | apply State.suspend_keeps | apply State.setCopy_keeps | apply State.Keeps.ite | apply State.Keeps.ite_fst | apply State.Keeps.ite_snd | apply State.Keeps.foldl) | split)

theorem State.wfqHead_keeps {s0 s : State} (h : s0.Keeps s) (port : Nat) (tc : Nat) :
    s0.Keeps (State.wfqHead s port tc) := by
  unfold State.wfqHead
  try dsimp only
  repeat' (first | (intro c; exact Cells.wf_set c.wfq _ _) | with_reducible assumption | with_reducible (first | apply State.setCopy_keeps | apply State.Keeps.ite) | split | with_reducible apply State.Keeps.wfq_upd)

theorem State.wfqPort_keeps {s0 s : State} (h : s0.Keeps s) (port : Nat) :
    s0.Keeps (State.wfqPort s port) := by
  unfold State.wfqPort
  dsimp only
  split
  · exact State.Keeps.upd h rfl rfl (Nat.le_refl _) (List.suffix_refl _) rfl (fun c => { c with wfqV := Cells.wf_set c.wfqV _ _, wfq := Cells.wf_foldl _ _ _ c.wfq (fun _ _ hm => Cells.wf_set hm _ _) })
  · exact State.Keeps.foldl h (fun u x hu => State.wfqHead_keeps hu _ _)

theorem State.wfqTaken_keeps {s0 s : State} (h : s0.Keeps s) (c : Copy) :
    s0.Keeps (State.wfqTaken s c) := by
  unfold State.wfqTaken
  split
  · exact State.Keeps.ite h (State.Keeps.wfqV_upd h (fun c => Cells.wf_set c.wfqV _ _))
  · exact h

theorem State.wfqAll_keeps {s0 s : State} (h : s0.Keeps s) :
    s0.Keeps (State.wfqAll s) := by
  unfold State.wfqAll
  try dsimp only
  repeat' (first | with_reducible assumption | intro _ | with_reducible (first | apply State.wfqPort_keeps | apply State.Keeps.foldl))

theorem State.resDrop_keeps {s0 s : State} (h : s0.Keeps s) (c : Copy) :
    s0.Keeps (State.resDrop s c) := by
  unfold State.resDrop
  try dsimp only
  repeat' (first | with_reducible assumption | intro _ | with_reducible (first | apply State.bump_keeps | apply State.raiseIf_keeps | apply State.copyDrop_keeps | apply State.Keeps.ite | apply State.Keeps.ite_fst | apply State.Keeps.ite_snd | apply State.Keeps.foldl) | split)

theorem State.preDrop_keeps {s0 s : State} (h : s0.Keeps s) (c : Copy) :
    ∀ v, (State.preDrop s c) = some v → s0.Keeps v := by
  intro v e
  unfold State.preDrop at e
  dsimp only at e
  split at e
  · cases e
  · split at e
    · cases e; exact State.copyDrop_keeps (State.raise_keeps (State.bump_keeps h _ _) _ _ _) _
    · by_cases hP : c.port < 24 ∧ s.frameMax c.port + (if s.encrypts c.port (s.frame c.fid).ety = true then 32 else 0) < s.lprime c
      · rw [if_pos hP] at e; cases e; exact State.copyDrop_keeps (State.mibInc_keeps h _ _) _
      · rw [if_neg hP] at e; cases e

theorem State.tryList_keeps {s0 s : State} (h : s0.Keeps s) (b : Nat) (l : List Copy) (s1 : State) (e : s.tryList b l = some (.inr s1)) :
    s0.Keeps s1 := by
  induction l with
  | nil => cases e
  | cons c r ih =>
    unfold State.tryList at e
    generalize (if c.mir.isSome = true then 0 else c.tc) = k at e
    split at e
    · rename_i hp
      cases e
      exact State.preDrop_keeps h _ _ hp
    · split at e
      · split at e
        · cases e
        · cases e; exact State.resDrop_keeps h _
      · exact ih e

theorem State.pick_keeps {s0 x1 : State} (hx1 : s0.Keeps x1) (x0 : Nat) (x2 : Nat) (x3 : Bool) (x4 : Nat) :
    s0.Keeps (State.pick x0 x1 x2 x3 x4).2 := by
  induction x0 generalizing x1 with
  | zero => exact hx1
  | succ n ih =>
    unfold State.pick
    split
    · exact hx1
    · exact hx1
    · rename_i e
      exact ih (State.wfqAll_keeps (State.tryList_keeps hx1 _ _ _ e))

theorem State.preempt_keeps {s0 s : State} (h : s0.Keeps s) (port : Nat) (b : Nat) :
    s0.Keeps (State.preempt s port b) := by
  unfold State.preempt
  try dsimp only
  repeat' (first | with_reducible assumption | intro _ | with_reducible (first | apply State.cutTry_keeps | apply State.Keeps.ite | apply State.Keeps.ite_fst | apply State.Keeps.ite_snd | apply State.Keeps.foldl) | split)

theorem State.preInit_keeps {s0 s : State} (h : s0.Keeps s) (port : Nat) :
    s0.Keeps (State.preInit s port) := by
  unfold State.preInit
  try dsimp only
  repeat' (first | with_reducible assumption | with_reducible (first | apply State.setF_keeps | apply State.Keeps.ite))

theorem State.preCfgChanged_keeps {s0 s : State} (h : s0.Keeps s) (port : Nat) (old : Word) :
    s0.Keeps (State.preCfgChanged s port old) := by
  unfold State.preCfgChanged
  try dsimp only
  repeat' (first | with_reducible assumption | with_reducible (first | apply State.wfqAll_keeps | apply State.preInit_keeps | apply State.Keeps.ite))

theorem State.residence_keeps {s0 s : State} (h : s0.Keeps s) (port : Nat) :
    s0.Keeps (State.residence s port) := by
  unfold State.residence
  try dsimp only
  repeat' (first | with_reducible assumption | intro _ | with_reducible (first | apply State.mibInc_keeps | apply State.cutShort_keeps | apply State.resDrop_keeps | apply State.Keeps.ite | apply State.Keeps.ite_fst | apply State.Keeps.ite_snd | apply State.Keeps.foldl) | split)

end Sys2Proof.Machine
end

