-- ==== Sys2Proof/Laws/KeepsMacsec.lean ====
section
/-! SUPPORT. `State.Keeps` for the operations of Machine/Macsec.lean. -/

namespace Sys2Proof.Machine

set_option linter.unusedTactic false
set_option linter.unreachableTactic false

theorem State.setSa_keeps {s0 s : State} (h : s0.Keeps s) (k : Nat) (x : SaSlot) :
    s0.Keeps (State.setSa s k x) := by
  unfold State.setSa
  try dsimp only
  repeat' (first | (intro c; exact Cells.wf_set c.sa _ _) | with_reducible assumption | with_reducible apply State.Keeps.sa_upd)

theorem State.cipAdd_keeps {s0 s : State} (h : s0.Keeps s) (port : Nat) (k : Nat) (n : Nat) :
    s0.Keeps (State.cipAdd s port k n) := by
  unfold State.cipAdd
  try dsimp only
  repeat' (first | (intro c; exact Cells.wf_set c.cipMib _ _) | with_reducible assumption | with_reducible apply State.Keeps.cipMib_upd)

theorem State.cipInc_keeps {s0 s : State} (h : s0.Keeps s) (port : Nat) (k : Nat) :
    s0.Keeps (State.cipInc s port k) := by
  unfold State.cipInc
  try dsimp only
  repeat' (first | with_reducible assumption | with_reducible apply State.cipAdd_keeps)

theorem State.saErase_keeps {s0 s : State} (h : s0.Keeps s) (k : Nat) :
    s0.Keeps (State.saErase s k) := by
  unfold State.saErase
  exact State.Keeps.rxLast_upd (State.setSa_keeps h k {}) (fun c => Cells.wfFrom_filter _ _ _ _ c.rxLast)

theorem State.saInstall_keeps {s0 s : State} (h : s0.Keeps s) (k : Nat) (x : Install) :
    s0.Keeps (State.saInstall s k x) := by
  unfold State.saInstall
  try dsimp only
  repeat' (first | with_reducible assumption | with_reducible (first | apply State.setSa_keeps | apply State.Keeps.ite))

theorem State.saBind_keeps {s0 s : State} (h : s0.Keeps s) (k : Nat) (rx : Bool) (sc : Nat) (an : Nat) :
    s0.Keeps (State.saBind s k rx sc an) := by
  unfold State.saBind
  try dsimp only
  repeat' (first | with_reducible assumption | with_reducible apply State.setSa_keeps | split)

theorem State.keyDo_keeps {s0 s : State} (h : s0.Keeps s) (op : Nat) (arg : Nat) :
    s0.Keeps (State.keyDo s op arg) := by
  unfold State.keyDo
  try dsimp only
  repeat' (first | with_reducible assumption | with_reducible (first | apply State.saInstall_keeps | apply State.saBind_keeps | apply State.setSa_keeps | apply State.Keeps.ite))

theorem State.keyReq_keeps {s0 s : State} (h : s0.Keeps s) (op : Nat) (arg : Nat) :
    s0.Keeps (State.keyReq s op arg) := by
  unfold State.keyReq
  try dsimp only
  repeat' (first | with_reducible assumption | with_reducible (first | apply State.mbxEnd_keeps | apply State.keyDo_keeps) | split)

theorem State.saRetired_keeps {s0 s : State} (h : s0.Keeps s) (k : Nat) :
    s0.Keeps (State.saRetired s k) := by
  unfold State.saRetired
  try dsimp only
  repeat' (first | with_reducible assumption | intro _ | with_reducible (first | apply State.saErase_keeps | apply State.Keeps.ite | apply State.Keeps.ite_fst | apply State.Keeps.ite_snd | apply State.Keeps.foldl) | split)

theorem State.saStatReq_keeps {s0 s : State} (h : s0.Keeps s) (arg : Nat) :
    s0.Keeps (State.saStatReq s arg) := by
  unfold State.saStatReq
  try dsimp only
  repeat' (first | with_reducible assumption | with_reducible (first | apply State.mbxFail_keeps | apply State.snap_keeps | apply State.Keeps.ite))

theorem State.cipMibReq_keeps {s0 s : State} (h : s0.Keeps s) (op : Nat) (arg : Nat) :
    s0.Keeps (State.cipMibReq s op arg) := by
  unfold State.cipMibReq
  try dsimp only
  repeat' (first | (intro c; exact Cells.wf_set c.cipMib _ _) | with_reducible assumption | with_reducible (first | apply State.mbxFail_keeps | apply State.snap_keeps | apply State.Keeps.ite) | with_reducible apply State.Keeps.cipMib_upd)

theorem State.saEcc_keeps {s0 s : State} (h : s0.Keeps s) (k : Nat) :
    s0.Keeps (State.saEcc s k) := by
  unfold State.saEcc
  try dsimp only
  repeat' (first | with_reducible assumption | intro _ | with_reducible (first | apply State.saErase_keeps | apply State.raise_keeps | apply State.Keeps.ite | apply State.Keeps.ite_fst | apply State.Keeps.ite_snd | apply State.Keeps.foldl) | split)

theorem State.pnCommit_keeps {s0 s : State} (h : s0.Keeps s) (port : Nat) (x : SecRx) :
    s0.Keeps (State.pnCommit s port x) := by
  unfold State.pnCommit
  exact State.Keeps.ite h (State.Keeps.rxLast_upd (State.setSa_keeps h _ _) (fun c => Cells.wf_set c.rxLast _ _))

theorem State.takePn_keeps {s0 s : State} (h : s0.Keeps s) (k : Nat) :
    s0.Keeps (State.takePn s k).2 := by
  unfold State.takePn
  try dsimp only
  repeat' (first | with_reducible assumption | with_reducible (first | apply State.raiseIf_keeps | apply State.setSa_keeps | apply State.Keeps.ite | apply State.Keeps.ite_fst | apply State.Keeps.ite_snd))

theorem State.noSa_keeps {s0 s : State} (h : s0.Keeps s) (port : Nat) :
    s0.Keeps (State.noSa s port) := by
  unfold State.noSa
  try dsimp only
  repeat' (first | with_reducible assumption | with_reducible (first | apply State.raise_keeps | apply State.cipInc_keeps | apply State.setF_keeps))

theorem State.changeover_keeps {s0 : State} (port an bad : Nat) (l : List Nat) :
    ∀ {s : State}, s0.Keeps s → s0.Keeps (State.changeover s port an bad l).2 := by
  induction l with
  | nil => intro s h; exact State.noSa_keeps h port
  | cons j r ih =>
    intro s h
    unfold State.changeover
    dsimp only
    split
    · exact ih h
    · split
      · exact ih (State.saEcc_keeps h _)
      · split
        · exact ih h
        · exact State.raise_keeps (State.setF_keeps h _ _ _) _ _ _

theorem State.encodeSa_keeps {s00 s0 : State} (h : s00.Keeps s0) (port : Nat) (bad : Nat) :
    s00.Keeps (State.encodeSa s0 port bad).2 := by
  have go : ∀ (s : State), s00.Keeps s → ∀ an : Nat, s00.Keeps
      (if s.on CIP_ALARM_STAT.a CIP_ALARM_STAT.latched then ((none, s.cipInc port 16) : Option Nat × State)
       else if s.on (CIP_TXSC.a port) CIP_TXSC.no_sa then (none, s.noSa port)
       else match s.saBound false port an with
         | none => (none, s.noSa port)
         | some k => if !(s.saAt k).exh then (some k, s) else s.changeover port an bad [1, 2, 3]).2 := by
    intro s hk an
    split
    · exact State.cipInc_keeps hk _ _
    · split
      · exact State.noSa_keeps hk _
      · split
        · exact State.noSa_keeps hk _
        · split
          · exact hk
          · exact State.changeover_keeps _ _ _ _ hk
  unfold State.encodeSa
  refine go _ ?_ _
  split
  · exact State.Keeps.ite (State.saEcc_keeps h _) h
  · exact h

theorem State.txscWritten_keeps {s0 s : State} (h : s0.Keeps s) (port : Nat) :
    s0.Keeps (State.txscWritten s port) := by
  unfold State.txscWritten
  try dsimp only
  repeat' (first | with_reducible assumption | with_reducible (first | apply State.setF_keeps | apply State.Keeps.ite))

theorem State.protCount_keeps {s0 s : State} (h : s0.Keeps s) (port : Nat) (n : Nat) (cfg : Word) :
    s0.Keeps (State.protCount s port n cfg) := by
  unfold State.protCount
  try dsimp only
  repeat' (first | with_reducible assumption | with_reducible (first | apply State.cipAdd_keeps | apply State.cipInc_keeps | apply State.Keeps.ite))

theorem State.eraseCopy_keeps {s0 s : State} (h : s0.Keeps s) (c : Copy) :
    s0.Keeps (State.eraseCopy s c) := by
  unfold State.eraseCopy
  try dsimp only
  repeat' (first | with_reducible assumption | intro _ | with_reducible (first | apply State.cipInc_keeps | apply State.cutShort_keeps | apply State.copyGone_keeps | apply State.laneNote_keeps | apply State.Keeps.ite | apply State.Keeps.ite_fst | apply State.Keeps.ite_snd | apply State.Keeps.foldl) | split)

theorem State.eraseFrame_keeps {s0 s : State} (h : s0.Keeps s) (f : Frame) :
    s0.Keeps (State.eraseFrame s f) := by
  unfold State.eraseFrame
  try dsimp only
  repeat' (first | with_reducible assumption | with_reducible (first | apply State.frameDrop_keeps | apply State.setFrame_keeps | apply State.Keeps.ite))

theorem State.jobStatus_keeps {s0 s : State} (h : s0.Keeps s) (j : CJob) (code : Nat) :
    s0.Keeps (State.jobStatus s j code) := by
  unfold State.jobStatus
  try dsimp only
  repeat' (first | (intro c; exact memPut_wf c.sram _ _) | with_reducible assumption | with_reducible apply State.raiseIf_keeps | with_reducible apply State.Keeps.sram_upd)

theorem State.erase_keeps {s0 s : State} (h : s0.Keeps s) :
    s0.Keeps (State.erase s) := by
  unfold State.erase
  dsimp only
  apply State.setF_keeps
  refine State.Keeps.upd (State.Keeps.foldl (State.Keeps.foldl (State.Keeps.foldl (State.Keeps.cjobs_upd h) ?_) ?_) ?_) rfl rfl
    (Nat.le_refl _) (List.suffix_refl _) rfl (fun c => { c with sa := rfl, rxLast := rfl })
  · exact fun u x hu => State.jobStatus_keeps hu _ _
  · exact fun u x hu => State.eraseCopy_keeps hu _
  · exact fun u x hu => State.eraseFrame_keeps hu _

theorem State.alarmActive_keeps {s0 s : State} (h : s0.Keeps s) (k : Nat) (stays : Bool) :
    s0.Keeps (State.alarmActive s k stays) := by
  unfold State.alarmActive
  try dsimp only
  repeat' (first | with_reducible assumption | with_reducible (first | apply State.setF_keeps | apply State.erase_keeps | apply State.raiseAon_keeps | apply State.Keeps.ite))

theorem State.alarmInactive_keeps {s0 s : State} (h : s0.Keeps s) (k : Nat) :
    s0.Keeps (State.alarmInactive s k) := by
  unfold State.alarmInactive
  try dsimp only
  repeat' (first | with_reducible assumption | with_reducible (first | apply State.setF_keeps | apply State.Keeps.ite))

theorem State.alarmClear_keeps {s0 s : State} (h : s0.Keeps s) :
    s0.Keeps (State.alarmClear s) := by
  unfold State.alarmClear
  try dsimp only
  repeat' (first | with_reducible assumption | with_reducible (first | apply State.setF_keeps | apply State.Keeps.ite))

theorem State.eraseDone_keeps {s0 s : State} (h : s0.Keeps s) (bad : Bool) :
    s0.Keeps (State.eraseDone s bad) := by
  unfold State.eraseDone
  exact State.Keeps.ite (State.Keeps.ite (State.Keeps.eraseBad_upd h)
    (State.raise_keeps (State.setF_keeps (State.Keeps.eraseBad_upd h) _ _ _) _ _ _)) h

theorem State.lrEnd_keeps {s0 s : State} (h : s0.Keeps s) (a : Nat) (n : Nat) :
    s0.Keeps (State.lrEnd s a n) := by
  unfold State.lrEnd
  try dsimp only
  repeat' (first | with_reducible assumption | intro _ | with_reducible (first | apply State.Keeps.carr_upd | apply State.Keeps.ite | apply State.Keeps.ite_fst | apply State.Keeps.ite_snd | apply State.Keeps.foldl) | split)

theorem State.sramWrite_keeps {s0 s : State} (h : s0.Keeps s) (a : Nat) (l : List Byte) :
    s0.Keeps (State.sramWrite s a l) := by
  exact State.Keeps.upd h rfl rfl (Nat.le_refl _) (List.suffix_refl _) rfl (fun c => { c with sram := memPut_wf c.sram _ _ })

theorem State.memError_keeps {s0 s : State} (h : s0.Keeps s) (who : Nat) (addr : Nat) :
    s0.Keeps (State.memError s who addr) := by
  unfold State.memError
  try dsimp only
  repeat' (first | with_reducible assumption | intro _ | with_reducible (first | apply State.bump_keeps | apply State.setFs_keeps | apply State.raise_keeps | apply State.Keeps.ite | apply State.Keeps.ite_fst | apply State.Keeps.ite_snd | apply State.Keeps.foldl) | split)

theorem State.sramError_keeps {s0 s : State} (h : s0.Keeps s) (bank : Nat) :
    s0.Keeps (State.sramError s bank) := by
  unfold State.sramError
  try dsimp only
  repeat' (first | with_reducible assumption | intro _ | with_reducible (first | apply State.bump_keeps | apply State.raise_keeps | apply State.Keeps.ite | apply State.Keeps.ite_fst | apply State.Keeps.ite_snd | apply State.Keeps.foldl) | split)

theorem State.carrWrite_keeps {s0 s : State} (h : s0.Keeps s) (a : Nat) (l : List Byte) :
    s0.Keeps (State.carrWrite s a l) := by
  unfold State.carrWrite
  exact State.Keeps.ite (State.sramWrite_keeps h _ _)
    (State.Keeps.ite (State.lrEnd_keeps (State.Keeps.dram_upd h (fun c => memPut_wf c.dram _ _)) _ _) h)

theorem State.jobStart_keeps {s0 s : State} (h : s0.Keeps s) (op : Nat) :
    s0.Keeps (State.jobStart s op) := by
  unfold State.jobStart
  try dsimp only
  repeat' (first | with_reducible assumption | with_reducible (first | apply State.setF_keeps | apply State.Keeps.ite) | with_reducible apply State.Keeps.cjobs_upd)

theorem State.unwrapInto_keeps {s0 s : State} (h : s0.Keeps s) (j : CJob) (key : List Byte) :
    s0.Keeps (State.unwrapInto s j key).1 := by
  unfold State.unwrapInto
  try dsimp only
  repeat' (first | with_reducible assumption | with_reducible (first | apply State.fresh_keeps | apply State.saInstall_keeps | apply State.Keeps.ite | apply State.Keeps.ite_fst | apply State.Keeps.ite_snd))

theorem State.jobRun_keeps {s0 s : State} (h : s0.Keeps s) (j : CJob) :
    s0.Keeps (State.jobRun s j).1 := by
  unfold State.jobRun
  try dsimp only
  repeat' (first | with_reducible assumption | with_reducible (first | apply State.sramWrite_keeps | apply State.unwrapInto_keeps | apply State.Keeps.ite | apply State.Keeps.ite_fst | apply State.Keeps.ite_snd) | split)

theorem State.jobDone_keeps {s0 s : State} (h : s0.Keeps s) (i : Nat) (bad : Bool) :
    s0.Keeps (State.jobDone s i bad) := by
  unfold State.jobDone
  split
  · exact h
  · have h1 := State.Keeps.cjobs_upd (x := s.cjobs.filter (fun x => x.idx != i)) h
    exact State.jobStatus_keeps (State.jobRun_keeps (State.Keeps.ite (State.saEcc_keeps h1 _) h1) _) _ _

end Sys2Proof.Machine
end

