-- ==== Sys2Proof/Laws/KeepsFrer.lean ====
section
/-! SUPPORT. `State.Keeps` for the operations of Machine/Frer.lean. -/

namespace Sys2Proof.Machine

set_option linter.unusedTactic false
set_option linter.unreachableTactic false

theorem State.setFr_keeps {s0 s : State} (h : s0.Keeps s) (k : Nat) (x : FreSt) :
    s0.Keeps (State.setFr s k x) := by
  unfold State.setFr
  try dsimp only
  repeat' (first | (intro c; exact Cells.wf_set c.fre _ _) | with_reducible assumption | with_reducible apply State.Keeps.fre_upd)

theorem State.frBump_keeps {s0 s : State} (h : s0.Keeps s) (k : Nat) (j : Nat) (n : Nat) :
    s0.Keeps (State.frBump s k j n) := by
  unfold State.frBump
  try dsimp only
  repeat' (first | with_reducible assumption | with_reducible apply State.setFr_keeps)

theorem State.frPass_keeps {s0 s : State} (h : s0.Keeps s) (k : Nat) (rsn : Nat) (hist : Nat) :
    s0.Keeps (State.frPass s k rsn hist) := by
  unfold State.frPass
  try dsimp only
  repeat' (first | with_reducible assumption | with_reducible (first | apply State.setFr_keeps | apply State.frBump_keeps | apply State.setFs_keeps))

theorem State.recover_keeps {s0 s : State} (h : s0.Keeps s) (k : Nat) (seq : Option Nat) :
    s0.Keeps (State.recover s k seq).2 := by
  unfold State.recover
  try dsimp only
  repeat' (first | with_reducible assumption | with_reducible (first | apply State.frBump_keeps | apply State.frPass_keeps | apply State.Keeps.ite | apply State.Keeps.ite_fst | apply State.Keeps.ite_snd) | split)

theorem State.frGen_keeps {s0 s : State} (h : s0.Keeps s) (k : Nat) :
    s0.Keeps (State.frGen s k).2 := by
  unfold State.frGen
  try dsimp only
  repeat' (first | with_reducible assumption | with_reducible apply State.setFr_keeps)

theorem State.frWithdraw_keeps {s0 s : State} (h : s0.Keeps s) (k : Nat) (seq : Option Nat) :
    s0.Keeps (State.frWithdraw s k seq) := by
  unfold State.frWithdraw
  try dsimp only
  repeat' (first | with_reducible assumption | with_reducible (first | apply State.setFr_keeps | apply State.frBump_keeps | apply State.Keeps.ite) | split)

theorem State.frReset_keeps {s0 s : State} (h : s0.Keeps s) (k : Nat) :
    s0.Keeps (State.frReset s k) := by
  unfold State.frReset
  try dsimp only
  repeat' (first | with_reducible assumption | with_reducible (first | apply State.raise_keeps | apply State.frBump_keeps | apply State.setF_keeps | apply State.setFr_keeps | apply State.Keeps.ite) | split)

theorem State.frCfgChanged_keeps {s0 s : State} (h : s0.Keeps s) (k : Nat) (old : Word) :
    s0.Keeps (State.frCfgChanged s k old) := by
  unfold State.frCfgChanged
  try dsimp only
  repeat' (first | with_reducible assumption | with_reducible (first | apply State.setF_keeps | apply State.setFr_keeps | apply State.Keeps.ite))

theorem State.latTest_keeps {s0 s : State} (h : s0.Keeps s) (k : Nat) :
    s0.Keeps (State.latTest s k) := by
  unfold State.latTest
  try dsimp only
  repeat' (first | with_reducible assumption | with_reducible (first | apply State.setFr_keeps | apply State.raise_keeps | apply State.setF_keeps | apply State.Keeps.ite))

theorem State.latBase_keeps {s0 s : State} (h : s0.Keeps s) (k : Nat) :
    s0.Keeps (State.latBase s k) := by
  unfold State.latBase
  try dsimp only
  repeat' (first | with_reducible assumption | with_reducible (first | apply State.setFr_keeps | apply State.Keeps.ite))

theorem State.freReq_keeps {s0 s : State} (h : s0.Keeps s) (op : Nat) (arg : Nat) :
    s0.Keeps (State.freReq s op arg) := by
  unfold State.freReq
  try dsimp only
  repeat' (first | with_reducible assumption | with_reducible (first | apply State.mbxFail_keeps | apply State.snap_keeps | apply State.setFr_keeps | apply State.Keeps.ite))

end Sys2Proof.Machine
end

