-- ==== Sys2Proof/Laws/KeepsMerge.lean ====
section
/-! SUPPORT. `State.Keeps` for the operations of Machine/Merge.lean. -/

namespace Sys2Proof.Machine

set_option linter.unusedTactic false
set_option linter.unreachableTactic false

theorem State.weir_keeps {s0 s : State} (h : s0.Keeps s) (f : Frame) (r : ParseRes) (e : Option FlwEnt) :
    s0.Keeps (State.weir s f r e).2.2 := by
  unfold State.weir
  try dsimp only
  repeat' (first | with_reducible assumption | with_reducible (first | apply State.meterTest_keeps | apply State.Keeps.ite | apply State.Keeps.ite_fst | apply State.Keeps.ite_snd) | split)

theorem State.flowStage_keeps {s0 s : State} (h : s0.Keeps s) (id : Nat) (r : ParseRes) (e : Option FlwEnt) :
    s0.Keeps (State.flowStage s id r e).2 := by
  unfold State.flowStage
  try dsimp only
  repeat' (first | with_reducible assumption | with_reducible (first | apply State.recover_keeps | apply State.weir_keeps | apply State.frGen_keeps | apply State.setFrame_keeps | apply State.Keeps.ite | apply State.Keeps.ite_fst | apply State.Keeps.ite_snd))

theorem State.clsNote_keeps {s0 s : State} (h : s0.Keeps s) (p : Nat) (f : Frame) (c : ClsRes) :
    s0.Keeps (State.clsNote s p f c) := by
  unfold State.clsNote
  try dsimp only
  repeat' (first | with_reducible assumption | intro _ | with_reducible (first | apply State.ruleCount_keeps | apply State.raise_keeps | apply State.raiseIf_keeps | apply State.Keeps.foldl))

theorem State.lagLost_keeps {s0 s : State} (h : s0.Keeps s) (l : List Nat) :
    s0.Keeps (State.lagLost s l) := by
  unfold State.lagLost
  try dsimp only
  repeat' (first | with_reducible assumption | intro _ | with_reducible (first | apply State.bump_keeps | apply State.Keeps.ite | apply State.Keeps.ite_fst | apply State.Keeps.ite_snd | apply State.Keeps.foldl) | split)

theorem State.earlyStage_keeps {s0 s : State} (h : s0.Keeps s) (p : Nat) (f : Frame) (r : ParseRes) (c : ClsRes) (d : DestRes) :
    s0.Keeps (State.earlyStage s p f r c d).2 := by
  unfold State.earlyStage
  try dsimp only
  repeat' (first | with_reducible assumption | intro _ | with_reducible (first | apply State.clsDrop_keeps | apply State.excCount_keeps | apply State.raise_keeps | apply State.bump_keeps | apply State.lagLost_keeps | apply State.Keeps.ite | apply State.Keeps.ite_fst | apply State.Keeps.ite_snd | apply State.Keeps.foldl) | split)

theorem State.mergeDrop_keeps {s0 s : State} (h : s0.Keeps s) (id : Nat) (stage : Nat) (a : Act) :
    s0.Keeps (State.mergeDrop s id stage a) := by
  unfold State.mergeDrop
  try dsimp only
  repeat' (first | with_reducible assumption | with_reducible (first | apply State.frameDrop_keeps | apply State.setFrame_keeps))

theorem State.learnReq_keeps {s0 s : State} (h : s0.Keeps s) (p : Nat) (f : Frame) (vid : Nat) (due : Bool) :
    s0.Keeps (State.learnReq s p f vid due) := by
  unfold State.learnReq
  try dsimp only
  repeat' (first | with_reducible assumption | with_reducible (first | apply State.learnPush_keeps | apply State.Keeps.ite))

theorem State.destPorts_keeps {s0 s : State} (h : s0.Keeps s) (r : ParseRes) (data : List Byte) (d : DestRes) :
    s0.Keeps (State.destPorts s r data d).2 := by
  unfold State.destPorts
  try dsimp only
  repeat' (first | with_reducible assumption | with_reducible (first | apply State.bump_keeps | apply State.lagReduce_keeps | apply State.Keeps.ite | apply State.Keeps.ite_fst | apply State.Keeps.ite_snd) | split)

theorem State.mergePass_keeps {s0 s : State} (h : s0.Keeps s) (id : Nat) (p : Nat) (r : ParseRes) (c : ClsRes) (d : DestRes) (e : Option FlwEnt) (src : Bool) (bad : Bool) :
    s0.Keeps (State.mergePass s id p r c d e src bad) := by
  unfold State.mergePass
  try dsimp only
  repeat' (first | with_reducible assumption | intro _ | with_reducible (first | apply State.lagLost_keeps | apply State.destPorts_keeps | apply State.setFrame_keeps | apply State.learnReq_keeps | apply State.frameDrop_keeps | apply State.takeIn_keeps | apply State.Keeps.ite | apply State.Keeps.ite_fst | apply State.Keeps.ite_snd | apply State.Keeps.foldl) | split)

theorem State.lookup_keeps {s0 s : State} (h : s0.Keeps s) (id : Nat) (bad : Bool) :
    s0.Keeps (State.lookup s id bad) := by
  unfold State.lookup
  try dsimp only
  repeat' (first | with_reducible assumption | with_reducible (first | apply State.clsNote_keeps | apply State.setFrame_keeps | apply State.fdbDest_keeps | apply State.fdbSource_keeps | apply State.excCount_keeps | apply State.earlyStage_keeps | apply State.mergeDrop_keeps | apply State.bump_keeps | apply State.flowStage_keeps | apply State.mergePass_keeps | apply State.Keeps.ite) | split)

end Sys2Proof.Machine
end

