-- ==== Sys2Proof/Laws/KeepsPhase.lean ====
section
/-! SUPPORT. `State.Keeps` for the operations of Machine/Phase.lean. -/

namespace Sys2Proof.Machine

set_option linter.unusedTactic false
set_option linter.unreachableTactic false

theorem State.divOpen_keeps {s0 s : State} (h : s0.Keeps s) (num : Int) (den : Nat) :
    s0.Keeps (State.divOpen s num den).2 := by
  unfold State.divOpen
  try dsimp only
  repeat' (first | with_reducible assumption | with_reducible (first | apply State.fresh_keeps | apply State.Keeps.ite | apply State.Keeps.ite_fst | apply State.Keeps.ite_snd))

theorem State.phPublish_keeps {s0 s : State} (h : s0.Keeps s) (d : Nat) :
    s0.Keeps (State.phPublish s d) := by
  unfold State.phPublish
  try dsimp only
  repeat' (first | with_reducible assumption | with_reducible (first | apply State.setPh_keeps | apply State.raiseIf_keeps | apply State.setF_keeps | apply State.Keeps.ite))

theorem State.phReport_keeps {s0 s : State} (h : s0.Keeps s) (d : Nat) :
    s0.Keeps (State.phReport s d) := by
  unfold State.phReport
  try dsimp only
  repeat' (first | with_reducible assumption | intro _ | with_reducible (first | apply State.setPh_keeps | apply State.raise_keeps | apply State.Keeps.ite | apply State.Keeps.ite_fst | apply State.Keeps.ite_snd | apply State.Keeps.foldl) | split)

theorem State.phMove_keeps {s0 s : State} (h : s0.Keeps s) (d : Nat) (c : Nat) :
    s0.Keeps (State.phMove s d c) := by
  unfold State.phMove
  try dsimp only
  repeat' (first | with_reducible assumption | intro _ | with_reducible (first | apply State.setPh_keeps | apply State.setF_keeps | apply State.Keeps.ite | apply State.Keeps.ite_fst | apply State.Keeps.ite_snd | apply State.Keeps.foldl) | split)

theorem State.tickPh_keeps {s0 s : State} (h : s0.Keeps s) (d : Nat) :
    s0.Keeps (State.tickPh s d) := by
  unfold State.tickPh
  try dsimp only
  repeat' (first | with_reducible assumption | with_reducible (first | apply State.phPublish_keeps | apply State.setPh_keeps | apply State.Keeps.ite))

theorem State.phAcquire_keeps {s0 s : State} (h : s0.Keeps s) (d : Nat) :
    s0.Keeps (State.phAcquire s d) := by
  unfold State.phAcquire
  try dsimp only
  repeat' (first | with_reducible assumption | with_reducible (first | apply State.setFs_keeps | apply State.setPh_keeps))

theorem State.phPins_keeps {s0 s : State} (h : s0.Keeps s) (d : Nat) :
    s0.Keeps (State.phPins s d) := by
  unfold State.phPins
  try dsimp only
  repeat' (first | with_reducible assumption | intro _ | with_reducible (first | apply State.setPh_keeps | apply State.Keeps.ite | apply State.Keeps.ite_fst | apply State.Keeps.ite_snd | apply State.Keeps.foldl) | split)

theorem State.phEnable_keeps {s0 s : State} (h : s0.Keeps s) (d : Nat) :
    s0.Keeps (State.phEnable s d) := by
  unfold State.phEnable
  try dsimp only
  repeat' (first | with_reducible assumption | intro _ | with_reducible (first | apply State.setPh_keeps | apply State.phPins_keeps | apply State.phAcquire_keeps | apply State.Keeps.ite | apply State.Keeps.ite_fst | apply State.Keeps.ite_snd | apply State.Keeps.foldl) | split)

theorem State.phDisable_keeps {s0 s : State} (h : s0.Keeps s) (d : Nat) :
    s0.Keeps (State.phDisable s d) := by
  unfold State.phDisable
  try dsimp only
  repeat' (first | with_reducible assumption | with_reducible (first | apply State.cancelAngle_keeps | apply State.setFs_keeps | apply State.setPh_keeps))

theorem State.phCfgChanged_keeps {s0 s : State} (h : s0.Keeps s) (d : Nat) (old : Word) :
    s0.Keeps (State.phCfgChanged s d old) := by
  unfold State.phCfgChanged
  try dsimp only
  repeat' (first | with_reducible assumption | intro _ | with_reducible (first | apply State.phEnable_keeps | apply State.phPins_keeps | apply State.phDisable_keeps | apply State.Keeps.ite | apply State.Keeps.ite_fst | apply State.Keeps.ite_snd | apply State.Keeps.foldl) | split)

theorem State.phLose_keeps {s0 s : State} (h : s0.Keeps s) (d : Nat) :
    s0.Keeps (State.phLose s d) := by
  unfold State.phLose
  try dsimp only
  repeat' (first | with_reducible assumption | with_reducible (first | apply State.cancelAngle_keeps | apply State.raise_keeps | apply State.setFs_keeps | apply State.setPh_keeps))

theorem State.phDeclareLost_keeps {s0 s : State} (h : s0.Keeps s) (d : Nat) :
    s0.Keeps (State.phDeclareLost s d) := by
  unfold State.phDeclareLost
  try dsimp only
  repeat' (first | with_reducible assumption | with_reducible (first | apply State.phLose_keeps | apply State.setPh_keeps | apply State.Keeps.ite))

theorem State.phRestart_keeps {s0 s : State} (h : s0.Keeps s) (d : Nat) :
    s0.Keeps (State.phRestart s d) := by
  unfold State.phRestart
  try dsimp only
  repeat' (first | with_reducible assumption | with_reducible (first | apply State.cancelAngle_keeps | apply State.phAcquire_keeps | apply State.Keeps.ite))

theorem State.phCtrl_keeps {s0 s : State} (h : s0.Keeps s) (d : Nat) (w : Word) :
    s0.Keeps (State.phCtrl s d w) := by
  unfold State.phCtrl
  try dsimp only
  repeat' (first | with_reducible assumption | with_reducible (first | apply State.phDeclareLost_keeps | apply State.phRestart_keeps | apply State.Keeps.ite))

theorem State.obsPush_keeps {s0 s : State} (h : s0.Keeps s) (d : Nat) (o : PhObs) :
    s0.Keeps (State.obsPush s d o) := by
  unfold State.obsPush
  try dsimp only
  repeat' (first | with_reducible assumption | with_reducible (first | apply State.setPh_keeps | apply State.bump_keeps | apply State.Keeps.ite))

theorem State.edgeObs_keeps {s0 s : State} (h : s0.Keeps s) (d : Nat) (back : Nat) :
    s0.Keeps (State.edgeObs s d back) := by
  unfold State.edgeObs
  try dsimp only
  repeat' (first | with_reducible assumption | intro _ | with_reducible (first | apply State.bump_keeps | apply State.raise_keeps | apply State.setPh_keeps | apply State.obsPush_keeps | apply State.Keeps.ite | apply State.Keeps.ite_fst | apply State.Keeps.ite_snd | apply State.Keeps.foldl) | split)

theorem State.edgeIn_keeps {s0 s : State} (h : s0.Keeps s) (d : Nat) (rise : Bool) (held : Nat) (back : Nat) :
    s0.Keeps (State.edgeIn s d rise held back) := by
  unfold State.edgeIn
  try dsimp only
  repeat' (first | with_reducible assumption | intro _ | with_reducible (first | apply State.setPh_keeps | apply State.edgeObs_keeps | apply State.Keeps.ite | apply State.Keeps.ite_fst | apply State.Keeps.ite_snd | apply State.Keeps.foldl) | split)

theorem State.quadError_keeps {s0 s : State} (h : s0.Keeps s) (d : Nat) :
    s0.Keeps (State.quadError s d) := by
  unfold State.quadError
  try dsimp only
  repeat' (first | with_reducible assumption | with_reducible (first | apply State.raise_keeps | apply State.bump_keeps | apply State.setPh_keeps | apply State.phLose_keeps | apply State.Keeps.ite))

theorem State.quadIn_keeps {s0 s : State} (h : s0.Keeps s) (d : Nat) (a' : Bool) (b' : Bool) (z : Bool) (held : Nat) (back : Nat) :
    s0.Keeps (State.quadIn s d a' b' z held back) := by
  unfold State.quadIn
  try dsimp only
  repeat' (first | with_reducible assumption | with_reducible (first | apply State.setPh_keeps | apply State.quadError_keeps | apply State.setF_keeps | apply State.obsPush_keeps | apply State.Keeps.ite))

theorem State.phPred_keeps {s0 s : State} (h : s0.Keeps s) (d : Nat) (stamp : Int) :
    s0.Keeps (State.phPred s d stamp).2 := by
  unfold State.phPred
  try dsimp only
  repeat' (first | with_reducible assumption | with_reducible apply State.divOpen_keeps)

theorem State.phTrack_keeps {s0 s : State} (h : s0.Keeps s) (d : Nat) :
    s0.Keeps (State.phTrack s d) := by
  unfold State.phTrack
  try dsimp only
  repeat' (first | with_reducible assumption | with_reducible (first | apply State.setFs_keeps | apply State.setPh_keeps | apply State.raiseIf_keeps | apply State.Keeps.ite))

theorem State.phRegain_keeps {s0 s : State} (h : s0.Keeps s) (d : Nat) :
    s0.Keeps (State.phRegain s d) := by
  unfold State.phRegain
  try dsimp only
  repeat' (first | with_reducible assumption | intro _ | with_reducible (first | apply State.setF_keeps | apply State.phPublish_keeps | apply State.Keeps.ite | apply State.Keeps.ite_fst | apply State.Keeps.ite_snd | apply State.Keeps.foldl) | split)

theorem State.phNote_keeps {s0 s : State} (h : s0.Keeps s) (d : Nat) (stamp : Int) :
    s0.Keeps (State.phNote s d stamp) := by
  unfold State.phNote
  try dsimp only
  repeat' (first | with_reducible assumption | with_reducible apply State.setPh_keeps)

theorem State.obsFirst_keeps {s0 s : State} (h : s0.Keeps s) (d : Nat) (θ : Nat) (stamp : Int) :
    s0.Keeps (State.obsFirst s d θ stamp) := by
  unfold State.obsFirst
  try dsimp only
  repeat' (first | with_reducible assumption | with_reducible (first | apply State.phNote_keeps | apply State.setPh_keeps))

theorem State.obsSecond_keeps {s0 s : State} (h : s0.Keeps s) (d : Nat) (θ : Nat) (stamp : Int) :
    s0.Keeps (State.obsSecond s d θ stamp) := by
  unfold State.obsSecond
  try dsimp only
  repeat' (first | with_reducible assumption | intro _ | with_reducible (first | apply State.divOpen_keeps | apply State.setPh_keeps | apply State.phNote_keeps | apply State.raiseIf_keeps | apply State.Keeps.ite | apply State.Keeps.ite_fst | apply State.Keeps.ite_snd | apply State.Keeps.foldl) | split)

theorem State.obsLoop_keeps {s0 s : State} (h : s0.Keeps s) (d : Nat) (e : Int) (stamp : Int) :
    s0.Keeps (State.obsLoop s d e stamp) := by
  unfold State.obsLoop
  try dsimp only
  repeat' (first | with_reducible assumption | with_reducible (first | apply State.divOpen_keeps | apply State.raiseIf_keeps | apply State.phNote_keeps | apply State.setPh_keeps | apply State.Keeps.ite))

theorem State.obsTheta_keeps {s0 s : State} (h : s0.Keeps s) (d : Nat) (o : PhObs) (stamp : Int) :
    s0.Keeps (State.obsTheta s d o stamp).2 := by
  unfold State.obsTheta
  try dsimp only
  repeat' (first | with_reducible assumption | with_reducible (first | apply State.phPred_keeps | apply State.Keeps.ite | apply State.Keeps.ite_fst | apply State.Keeps.ite_snd))

theorem State.obsRun_keeps {s0 s : State} (h : s0.Keeps s) (d : Nat) (θ : Nat) (stamp : Int) :
    s0.Keeps (State.obsRun s d θ stamp) := by
  unfold State.obsRun
  try dsimp only
  repeat' (first | with_reducible assumption | intro _ | with_reducible (first | apply State.phAcquire_keeps | apply State.obsFirst_keeps | apply State.setPh_keeps | apply State.phPublish_keeps | apply State.obsSecond_keeps | apply State.phTrack_keeps | apply State.phPred_keeps | apply State.obsLoop_keeps | apply State.setF_keeps | apply State.phMove_keeps | apply State.bump_keeps | apply State.raise_keeps | apply State.phRegain_keeps | apply State.Keeps.ite | apply State.Keeps.ite_fst | apply State.Keeps.ite_snd | apply State.Keeps.foldl) | split)

theorem State.sampDrop_keeps {s0 s : State} (h : s0.Keeps s) (d : Nat) (cause : Nat) :
    s0.Keeps (State.sampDrop s d cause) := by
  unfold State.sampDrop
  try dsimp only
  repeat' (first | with_reducible assumption | with_reducible (first | apply State.raise_keeps | apply State.bump_keeps))

theorem State.obsApply_keeps {s0 s : State} (h : s0.Keeps s) (d : Nat) :
    s0.Keeps (State.obsApply s d) := by
  unfold State.obsApply
  try dsimp only
  repeat' (first | with_reducible assumption | with_reducible (first | apply State.setPh_keeps | apply State.sampDrop_keeps | apply State.obsTheta_keeps | apply State.obsRun_keeps | apply State.Keeps.ite) | split)

theorem State.obsTimeout_keeps {s0 s : State} (h : s0.Keeps s) (d : Nat) :
    s0.Keeps (State.obsTimeout s d) := by
  unfold State.obsTimeout
  try dsimp only
  repeat' (first | with_reducible assumption | with_reducible (first | apply State.phAcquire_keeps | apply State.phPublish_keeps | apply State.setF_keeps | apply State.setPh_keeps | apply State.raise_keeps | apply State.Keeps.ite))

theorem State.holdExpiry_keeps {s0 s : State} (h : s0.Keeps s) (d : Nat) :
    s0.Keeps (State.holdExpiry s d) := by
  unfold State.holdExpiry
  try dsimp only
  repeat' (first | with_reducible assumption | with_reducible (first | apply State.obsApply_keeps | apply State.phLose_keeps | apply State.Keeps.ite))

theorem State.obsSettle_keeps {s0 s : State} (h : s0.Keeps s) (d : Nat) :
    s0.Keeps (State.obsSettle s d) := by
  unfold State.obsSettle
  try dsimp only
  repeat' (first | with_reducible assumption | intro _ | with_reducible (first | apply State.obsApply_keeps | apply State.Keeps.ite | apply State.Keeps.ite_fst | apply State.Keeps.ite_snd | apply State.Keeps.foldl) | split)

theorem State.phsDue_keeps {s0 s : State} (h : s0.Keeps s) :
    s0.Keeps (State.phsDue s) := by
  unfold State.phsDue
  try dsimp only
  repeat' (first | with_reducible assumption | intro _ | with_reducible (first | apply State.obsSettle_keeps | apply State.Keeps.ite | apply State.Keeps.ite_fst | apply State.Keeps.ite_snd | apply State.Keeps.foldl) | split)

theorem State.phSnapReq_keeps {s0 s : State} (h : s0.Keeps s) (arg : Nat) :
    s0.Keeps (State.phSnapReq s arg) := by
  unfold State.phSnapReq
  try dsimp only
  repeat' (first | with_reducible assumption | intro _ | with_reducible (first | apply State.mbxFail_keeps | apply State.obsSettle_keeps | apply State.snap_keeps | apply State.Keeps.ite | apply State.Keeps.ite_fst | apply State.Keeps.ite_snd | apply State.Keeps.foldl) | split)

theorem State.sampFrame_keeps {s0 s : State} (h : s0.Keeps s) (ok : Bool) (port : Nat) (et : Nat) (pay : Nat) (b : List Byte) :
    s0.Keeps (State.sampFrame s ok port et pay b) := by
  unfold State.sampFrame
  try dsimp only
  repeat' (first | with_reducible assumption | intro _ | with_reducible (first | apply State.obsPush_keeps | apply State.bump_keeps | apply State.Keeps.ite | apply State.Keeps.ite_fst | apply State.Keeps.ite_snd | apply State.Keeps.foldl) | split)

theorem State.tickPhs_keeps {s0 s : State} (h : s0.Keeps s) :
    s0.Keeps (State.tickPhs s) := by
  unfold State.tickPhs
  try dsimp only
  repeat' (first | with_reducible assumption | intro _ | with_reducible (first | apply State.tickPh_keeps | apply State.Keeps.foldl))

theorem State.setLev_keeps {s0 s : State} (h : s0.Keeps s) (p : Nat) (k : Nat) (b : Bool) :
    s0.Keeps (State.setLev s p k b) := by
  unfold State.setLev
  try dsimp only
  repeat' (first | (intro c; exact Cells.wf_set c.phLev _ _) | with_reducible assumption | with_reducible apply State.Keeps.phLev_upd)

theorem State.phSettle_keeps {s0 s : State} (h : s0.Keeps s) (d : Nat) :
    s0.Keeps (State.phSettle s d) := by
  unfold State.phSettle
  try dsimp only
  repeat' (first | with_reducible assumption | intro _ | with_reducible (first | apply State.obsSettle_keeps | apply State.obsTimeout_keeps | apply State.holdExpiry_keeps | apply State.phReport_keeps | apply State.Keeps.ite | apply State.Keeps.ite_fst | apply State.Keeps.ite_snd | apply State.Keeps.foldl) | split)

theorem State.phsSettle_keeps {s0 s : State} (h : s0.Keeps s) :
    s0.Keeps (State.phsSettle s) := by
  unfold State.phsSettle
  try dsimp only
  repeat' (first | with_reducible assumption | intro _ | with_reducible (first | apply State.phSettle_keeps | apply State.Keeps.ite | apply State.Keeps.ite_fst | apply State.Keeps.ite_snd | apply State.Keeps.foldl) | split)

end Sys2Proof.Machine
end

