-- ==== Sys2Proof/Laws/KeepsPath.lean ====
section
/-! SUPPORT. `State.Keeps` for the operations of Machine/Path.lean. -/

namespace Sys2Proof.Machine

set_option linter.unusedTactic false
set_option linter.unreachableTactic false

theorem State.rxPtp_keeps {s0 s : State} (h : s0.Keeps s) (f : Frame) (r : ParseRes) :
    s0.Keeps (State.rxPtp s f r) := by
  unfold State.rxPtp
  try dsimp only
  repeat' (first | with_reducible assumption | with_reducible (first | apply State.pushRxts_keeps | apply State.Keeps.ite) | split)

theorem State.headIn_keeps {s0 s : State} (h : s0.Keeps s) (f : Frame) :
    s0.Keeps (State.headIn s f) := by
  unfold State.headIn
  try dsimp only
  repeat' (first | with_reducible assumption | with_reducible (first | apply State.rxPtp_keeps | apply State.setFrame_keeps))

theorem State.sampleIn_keeps {s0 s : State} (h : s0.Keeps s) (ok : Bool) (port : Nat) (r : ParseRes) (data : List Byte) :
    s0.Keeps (State.sampleIn s ok port r data) := by
  unfold State.sampleIn
  try dsimp only
  repeat' (first | with_reducible assumption | intro _ | with_reducible (first | apply State.sampFrame_keeps | apply State.Keeps.ite | apply State.Keeps.ite_fst | apply State.Keeps.ite_snd | apply State.Keeps.foldl) | split)

theorem State.noTag_keeps {s0 s : State} (h : s0.Keeps s) (f : Frame) :
    s0.Keeps (State.noTag s f) := by
  unfold State.noTag
  try dsimp only
  repeat' (first | with_reducible assumption | intro _ | with_reducible (first | apply State.headIn_keeps | apply State.cipInc_keeps | apply State.setFrame_keeps | apply State.sampleIn_keeps | apply State.Keeps.ite | apply State.Keeps.ite_fst | apply State.Keeps.ite_snd | apply State.Keeps.foldl) | split)

theorem State.takeHead_keeps {s0 s : State} (h : s0.Keeps s) (n : Nat) (wire : List Byte) (abort : Bool) (ph : Nat) :
    s0.Keeps (State.takeHead s n wire abort ph) := by
  unfold State.takeHead
  try dsimp only
  repeat' (first | with_reducible assumption | intro _ | with_reducible (first | apply State.newFrame_keeps | apply State.setPort_keeps | apply State.noTag_keeps | apply State.headIn_keeps | apply State.Keeps.ite | apply State.Keeps.ite_fst | apply State.Keeps.ite_snd | apply State.Keeps.foldl) | split)

theorem State.frameHead_keeps {s0 s : State} (h : s0.Keeps s) (n : Nat) (wire : List Byte) (abort : Bool) (looped : Bool) (ph : Nat) :
    s0.Keeps (State.frameHead s n wire abort looped ph) := by
  unfold State.frameHead
  try dsimp only
  repeat' (first | with_reducible assumption | intro _ | with_reducible (first | apply State.mibInc_keeps | apply State.setPort_keeps | apply State.emit_keeps | apply State.takeHead_keeps | apply State.Keeps.ite | apply State.Keeps.ite_fst | apply State.Keeps.ite_snd | apply State.Keeps.foldl) | split)

theorem State.secTag_keeps {s0 sa : State} (h : s0.Keeps sa) (n : Nat) (bad : Bool) :
    s0.Keeps (State.secTag sa n bad) := by
  unfold State.secTag
  try dsimp only
  repeat' (first | with_reducible assumption | with_reducible (first | apply State.saEcc_keeps | apply State.setFrame_keeps | apply State.cipInc_keeps | apply State.bump_keeps | apply State.headIn_keeps | apply State.Keeps.ite) | split)

theorem State.endCode_keeps {s0 s : State} (h : s0.Keeps s) (f : Frame) :
    s0.Keeps (State.endCode s f).2 := by
  unfold State.endCode
  try dsimp only
  repeat' (first | with_reducible assumption | with_reducible (first | apply State.raise_keeps | apply State.excCount_keeps | apply State.Keeps.ite | apply State.Keeps.ite_fst | apply State.Keeps.ite_snd) | split)

theorem State.wholeElig_keeps {s0 s : State} (h : s0.Keeps s) (id : Nat) :
    s0.Keeps (State.wholeElig s id) := by
  unfold State.wholeElig
  try dsimp only
  repeat' (first | with_reducible assumption | intro _ | with_reducible (first | apply State.setCopy_keeps | apply State.Keeps.foldl))

theorem State.badFrame_keeps {s0 s : State} (h : s0.Keeps s) (id : Nat) (cause : Nat) (code : Nat) :
    s0.Keeps (State.badFrame s id cause code) := by
  unfold State.badFrame
  try dsimp only
  repeat' (first | with_reducible assumption | intro _ | with_reducible (first | apply State.frWithdraw_keeps | apply State.setFrame_keeps | apply State.finding_keeps | apply State.wholeElig_keeps | apply State.clsDrop_keeps | apply State.frameDrop_keeps | apply State.Keeps.ite | apply State.Keeps.ite_fst | apply State.Keeps.ite_snd | apply State.Keeps.foldl) | split)

theorem State.endCharge_keeps {s0 s : State} (h : s0.Keeps s) (f : Frame) :
    s0.Keeps (State.endCharge s f) := by
  unfold State.endCharge
  try dsimp only
  repeat' (first | with_reducible assumption | with_reducible (first | apply State.setFrame_keeps | apply State.meterCharge_keeps) | split)

theorem State.endCharges_keeps {s0 s : State} (h : s0.Keeps s) (l : List Nat) :
    s0.Keeps (State.endCharges s l) := by
  unfold State.endCharges
  try dsimp only
  repeat' (first | with_reducible assumption | intro _ | with_reducible (first | apply State.endCharge_keeps | apply State.Keeps.ite | apply State.Keeps.ite_fst | apply State.Keeps.ite_snd | apply State.Keeps.foldl) | split)

theorem State.sduNote_keeps {s0 s : State} (h : s0.Keeps s) (f : Frame) :
    s0.Keeps (State.sduNote s f) := by
  unfold State.sduNote
  try dsimp only
  repeat' (first | with_reducible assumption | with_reducible (first | apply State.raise_keeps | apply State.bump_keeps))

theorem State.sduFind_keeps {s0 s : State} (h : s0.Keeps s) (id : Nat) (got : Nat) :
    s0.Keeps (State.sduFind s id got) := by
  unfold State.sduFind
  try dsimp only
  repeat' (first | with_reducible assumption | intro _ | with_reducible (first | apply State.sduNote_keeps | apply State.setFrame_keeps | apply State.badFrame_keeps | apply State.Keeps.ite | apply State.Keeps.ite_fst | apply State.Keeps.ite_snd | apply State.Keeps.foldl) | split)

theorem State.lookupStart_keeps {s0 s : State} (h : s0.Keeps s) (n : Nat) (got : Nat) :
    s0.Keeps (State.lookupStart s n got) := by
  unfold State.lookupStart
  try dsimp only
  repeat' (first | with_reducible assumption | intro _ | with_reducible (first | apply State.setFrame_keeps | apply State.lookup_keeps | apply State.sduFind_keeps | apply State.Keeps.ite | apply State.Keeps.ite_fst | apply State.Keeps.ite_snd | apply State.Keeps.foldl) | split)

theorem State.macCount_keeps {s0 s : State} (h : s0.Keeps s) (f : Frame) :
    s0.Keeps (State.macCount s f).2 := by
  unfold State.macCount
  try dsimp only
  repeat' (first | with_reducible assumption | with_reducible (first | apply State.raise_keeps | apply State.mibInc_keeps | apply State.mibAdd_keeps | apply State.Keeps.ite | apply State.Keeps.ite_fst | apply State.Keeps.ite_snd))

theorem State.sampleOf_keeps {s0 s : State} (h : s0.Keeps s) (ok : Bool) (f : Frame) :
    s0.Keeps (State.sampleOf s ok f) := by
  unfold State.sampleOf
  try dsimp only
  repeat' (first | with_reducible assumption | intro _ | with_reducible (first | apply State.sampleIn_keeps | apply State.Keeps.ite | apply State.Keeps.ite_fst | apply State.Keeps.ite_snd | apply State.Keeps.foldl) | split)

theorem State.frameEnd_keeps {s00 s0 : State} (h : s00.Keeps s0) (f : Frame) :
    s00.Keeps (State.frameEnd s0 f).1 := by
  unfold State.frameEnd
  try dsimp only
  repeat' (first | with_reducible assumption | intro _ | with_reducible (first | apply State.macCount_keeps | apply State.setFrame_keeps | apply State.frameDrop_keeps | apply State.endCode_keeps | apply State.sampleOf_keeps | apply State.endCharge_keeps | apply State.lookup_keeps | apply State.sduFind_keeps | apply State.sduNote_keeps | apply State.regrow_keeps | apply State.raise_keeps | apply State.badFrame_keeps | apply State.wholeElig_keeps | apply State.reap_keeps | apply State.Keeps.ite | apply State.Keeps.ite_fst | apply State.Keeps.ite_snd | apply State.Keeps.foldl) | split)

theorem State.recEnd_keeps {s0 s : State} (h : s0.Keeps s) (n : Nat) :
    s0.Keeps (State.recEnd s n).1 := by
  unfold State.recEnd
  try dsimp only
  repeat' (first | with_reducible assumption | with_reducible (first | apply State.setPort_keeps | apply State.frameDrop_keeps | apply State.setFrame_keeps | apply State.raise_keeps | apply State.mibInc_keeps | apply State.secTag_keeps | apply State.frameEnd_keeps | apply State.Keeps.ite | apply State.Keeps.ite_fst | apply State.Keeps.ite_snd) | split)

theorem State.breakRx_keeps {s0 s : State} (h : s0.Keeps s) (n : Nat) :
    s0.Keeps (State.breakRx s n) := by
  unfold State.breakRx
  try dsimp only
  repeat' (first | with_reducible assumption | with_reducible (first | apply State.recEnd_keeps | apply State.setFrame_keeps | apply State.Keeps.ite) | split)

theorem State.unverified_keeps {s0 s : State} (h : s0.Keeps s) (n : Nat) (id : Nat) :
    s0.Keeps (State.unverified s n id) := by
  unfold State.unverified
  try dsimp only
  repeat' (first | with_reducible assumption | intro _ | with_reducible (first | apply State.badFrame_keeps | apply State.copyDrop_keeps | apply State.Keeps.ite | apply State.Keeps.ite_fst | apply State.Keeps.ite_snd | apply State.Keeps.foldl) | split)

theorem State.secVerdict_keeps {s0 s : State} (h : s0.Keeps s) (n : Nat) :
    s0.Keeps (State.secVerdict s n).1 := by
  unfold State.secVerdict
  try dsimp only
  repeat' (first | with_reducible assumption | intro _ | with_reducible (first | apply State.setFrame_keeps | apply State.sampleOf_keeps | apply State.cipInc_keeps | apply State.raise_keeps | apply State.badFrame_keeps | apply State.reap_keeps | apply State.unverified_keeps | apply State.pnCommit_keeps | apply State.cipAdd_keeps | apply State.frameDrop_keeps | apply State.wholeElig_keeps | apply State.Keeps.ite | apply State.Keeps.ite_fst | apply State.Keeps.ite_snd | apply State.Keeps.foldl) | split)

theorem State.enter_keeps {s0 s : State} (h : s0.Keeps s) (f0 : Frame) :
    s0.Keeps (State.enter s f0).2 := by
  unfold State.enter
  try dsimp only
  repeat' (first | with_reducible assumption | intro _ | with_reducible (first | apply State.newFrame_keeps | apply State.setFrame_keeps | apply State.endCode_keeps | apply State.lookup_keeps | apply State.sduFind_keeps | apply State.badFrame_keeps | apply State.reap_keeps | apply State.wfqAll_keeps | apply State.Keeps.ite | apply State.Keeps.ite_fst | apply State.Keeps.ite_snd | apply State.Keeps.foldl) | split)

theorem State.txCount_keeps {s0 s : State} (h : s0.Keeps s) (c : Copy) (n : Nat) :
    s0.Keeps (State.txCount s c n) := by
  unfold State.txCount
  try dsimp only
  repeat' (first | with_reducible assumption | with_reducible (first | apply State.mibInc_keeps | apply State.mibAdd_keeps | apply State.Keeps.ite))

theorem State.txPtp_keeps {s0 s : State} (h : s0.Keeps s) (c : Copy) (d : List Byte) :
    s0.Keeps (State.txPtp s c d) := by
  unfold State.txPtp
  try dsimp only
  repeat' (first | with_reducible assumption | with_reducible (first | apply State.pushTxts_keeps | apply State.Keeps.ite) | split)

theorem State.sendOut_keeps {s0 s : State} (h : s0.Keeps s) (c : Copy) :
    s0.Keeps (State.sendOut s c) := by
  unfold State.sendOut
  try dsimp only
  repeat' (first | with_reducible assumption | intro _ | with_reducible (first | apply State.mibInc_keeps | apply State.txPtp_keeps | apply State.protCount_keeps | apply State.cipInc_keeps | apply State.txCount_keeps | apply State.emit_keeps | apply State.setPort_keeps | apply State.copyGone_keeps | apply State.laneNote_keeps | apply State.Keeps.out_upd | apply State.Keeps.ite | apply State.Keeps.ite_fst | apply State.Keeps.ite_snd | apply State.Keeps.foldl) | split)

theorem State.ringStep_keeps {s0 s : State} (h : s0.Keeps s) (g : Nat) (r : Nat) :
    s0.Keeps (State.ringStep s g r) := by
  unfold State.ringStep
  try dsimp only
  repeat' (first | with_reducible assumption | with_reducible (first | apply State.bump_keeps | apply State.setReg_keeps))

theorem State.ringWrite_keeps {s0 s : State} (h : s0.Keeps s) (g : Nat) (a : Nat) (l : List Byte) :
    s0.Keeps (State.ringWrite s g a l) := by
  unfold State.ringWrite
  try dsimp only
  repeat' (first | with_reducible assumption | intro _ | with_reducible (first | apply State.emit_keeps | apply State.carrWrite_keeps | apply State.Keeps.ite | apply State.Keeps.ite_fst | apply State.Keeps.ite_snd | apply State.Keeps.foldl) | split)

theorem State.ringEvent_keeps {s0 s : State} (h : s0.Keeps s) (g : Nat) (r : Nat) (k : Nat) :
    s0.Keeps (State.ringEvent s g r k) := by
  unfold State.ringEvent
  try dsimp only
  repeat' (first | with_reducible assumption | with_reducible (first | apply State.raise_keeps | apply State.Keeps.ite))

theorem State.aerLog_keeps {s0 s : State} (h : s0.Keeps s) (k : Option Nat) :
    s0.Keeps (State.aerLog s k) := by
  unfold State.aerLog
  split
  · exact h
  · dsimp only
    apply State.raise_keeps
    with_reducible apply State.Keeps.pcieCfg_set h

theorem State.memLog_keeps {s0 s : State} (h : s0.Keeps s) (k : Option Nat) (a : Nat) :
    s0.Keeps (State.memLog s k a) := by
  unfold State.memLog
  try dsimp only
  repeat' (first | with_reducible assumption | intro _ | with_reducible (first | apply State.sramError_keeps | apply State.memError_keeps | apply State.Keeps.ite | apply State.Keeps.ite_fst | apply State.Keeps.ite_snd | apply State.Keeps.foldl) | split)

theorem State.dmaError_keeps {s00 s0 : State} (h : s00.Keeps s0) (g : Nat) (r : Nat) (wr : Bool) (err : Option Nat) :
    s00.Keeps (State.dmaError s0 g r wr err) := by
  unfold State.dmaError
  try dsimp only
  repeat' (first | with_reducible assumption | intro _ | with_reducible (first | apply State.aerLog_keeps | apply State.memLog_keeps | apply State.ringWrite_keeps | apply State.bump_keeps | apply State.setF_keeps | apply State.ringEvent_keeps | apply State.Keeps.ite | apply State.Keeps.ite_fst | apply State.Keeps.ite_snd | apply State.Keeps.foldl) | split)

theorem State.ringDeliver_keeps {s0 s : State} (h : s0.Keeps s) (c : Copy) (desc : List Byte) :
    s0.Keeps (State.ringDeliver s c desc) := by
  unfold State.ringDeliver
  try dsimp only
  repeat' (first | with_reducible assumption | intro _ | with_reducible (first | apply State.dmaError_keeps | apply State.ringWrite_keeps | apply State.ringStep_keeps | apply State.ringEvent_keeps | apply State.bump_keeps | apply State.Keeps.ite | apply State.Keeps.ite_fst | apply State.Keeps.ite_snd | apply State.Keeps.foldl) | split)

end Sys2Proof.Machine
end

