-- ==== Sys2Proof/Laws/KeepsPorts.lean ====
section
/-! SUPPORT. `State.Keeps` for the operations of Machine/Ports.lean. -/

namespace Sys2Proof.Machine

set_option linter.unusedTactic false
set_option linter.unreachableTactic false

theorem State.readyNote_keeps {s0 s : State} (h : s0.Keeps s) (n : Nat) :
    s0.Keeps (State.readyNote s n) := by
  unfold State.readyNote
  try dsimp only
  repeat' (first | with_reducible assumption | intro _ | with_reducible (first | apply State.laneNote_keeps | apply State.setF_keeps | apply State.setPort_keeps | apply State.Keeps.ite | apply State.Keeps.ite_fst | apply State.Keeps.ite_snd | apply State.Keeps.foldl) | split)

theorem State.inbandOut_keeps {s0 s : State} (h : s0.Keeps s) (n : Nat) :
    s0.Keeps (State.inbandOut s n) := by
  unfold State.inbandOut
  try dsimp only
  repeat' (first | with_reducible assumption | intro _ | with_reducible (first | apply State.emit_keeps | apply State.Keeps.ite | apply State.Keeps.ite_fst | apply State.Keeps.ite_snd | apply State.Keeps.foldl) | split)

theorem State.portEnable_keeps {s0 s : State} (h : s0.Keeps s) (n : Nat) :
    s0.Keeps (State.portEnable s n) := by
  unfold State.portEnable
  try dsimp only
  repeat' (first | with_reducible assumption | intro _ | with_reducible (first | apply State.raiseIf_keeps | apply State.setFs_keeps | apply State.setPort_keeps | apply State.setF_keeps | apply State.preInit_keeps | apply State.readyNote_keeps | apply State.inbandOut_keeps | apply State.Keeps.ite | apply State.Keeps.ite_fst | apply State.Keeps.ite_snd | apply State.Keeps.foldl) | split)

theorem State.flushPort_keeps {s0 s : State} (h : s0.Keeps s) (n : Nat) :
    s0.Keeps (State.flushPort s n) := by
  unfold State.flushPort
  try dsimp only
  repeat' (first | with_reducible assumption | intro _ | with_reducible (first | apply State.cutShort_keeps | apply State.mibInc_keeps | apply State.copyDrop_keeps | apply State.Keeps.ite | apply State.Keeps.ite_fst | apply State.Keeps.ite_snd | apply State.Keeps.foldl) | split)

theorem State.portDisable_keeps {s0 s : State} (h : s0.Keeps s) (n : Nat) :
    s0.Keeps (State.portDisable s n) := by
  unfold State.portDisable
  try dsimp only
  repeat' (first | with_reducible assumption | intro _ | with_reducible (first | apply State.setFs_keeps | apply State.flushPort_keeps | apply State.breakRx_keeps | apply State.wfqAll_keeps | apply State.laneNote_keeps | apply State.Keeps.ite | apply State.Keeps.ite_fst | apply State.Keeps.ite_snd | apply State.Keeps.foldl) | split)

theorem State.portCfgChanged_keeps {s0 s : State} (h : s0.Keeps s) (n : Nat) (old : Word) :
    s0.Keeps (State.portCfgChanged s n old) := by
  unfold State.portCfgChanged
  try dsimp only
  repeat' (first | with_reducible assumption | with_reducible (first | apply State.portEnable_keeps | apply State.portDisable_keeps | apply State.readyNote_keeps | apply State.Keeps.ite))

theorem State.rxPath_keeps {s0 s : State} (h : s0.Keeps s) (n : Nat) (lock : Bool) (lf : Bool) (rf : Bool) :
    s0.Keeps (State.rxPath s n lock lf rf) := by
  unfold State.rxPath
  try dsimp only
  repeat' (first | with_reducible assumption | with_reducible (first | apply State.setPort_keeps | apply State.setFs_keeps | apply State.readyNote_keeps | apply State.Keeps.ite))

theorem State.linkGoesUp_keeps {s0 s : State} (h : s0.Keeps s) (n : Nat) :
    s0.Keeps (State.linkGoesUp s n) := by
  unfold State.linkGoesUp
  try dsimp only
  repeat' (first | with_reducible assumption | with_reducible (first | apply State.raise_keeps | apply State.setF_keeps | apply State.Keeps.ite) | with_reducible apply State.Keeps.pwr_upd)

theorem State.linkGoesDown_keeps {s0 s : State} (h : s0.Keeps s) (n : Nat) :
    s0.Keeps (State.linkGoesDown s n) := by
  unfold State.linkGoesDown
  try dsimp only
  repeat' (first | with_reducible assumption | with_reducible (first | apply State.wfqAll_keeps | apply State.breakRx_keeps | apply State.mibInc_keeps | apply State.raise_keeps | apply State.setF_keeps | apply State.Keeps.ite))

theorem State.inband_keeps {s0 s : State} (h : s0.Keeps s) (n : Nat) (w : Nat) :
    s0.Keeps (State.inband s n w) := by
  unfold State.inband
  try dsimp only
  repeat' (first | with_reducible assumption | with_reducible (first | apply State.readyNote_keeps | apply State.setF_keeps | apply State.raiseIf_keeps | apply State.Keeps.ite))

theorem State.plcaBeacon_keeps {s0 s : State} (h : s0.Keeps s) (n : Nat) :
    s0.Keeps (State.plcaBeacon s n) := by
  unfold State.plcaBeacon
  try dsimp only
  repeat' (first | with_reducible assumption | with_reducible (first | apply State.raiseIf_keeps | apply State.setPort_keeps | apply State.setF_keeps | apply State.Keeps.ite))

theorem State.plcaSend_keeps {s0 s : State} (h : s0.Keeps s) (n : Nat) :
    s0.Keeps (State.plcaSend s n) := by
  unfold State.plcaSend
  try dsimp only
  repeat' (first | with_reducible assumption | intro _ | with_reducible (first | apply State.emit_keeps | apply State.plcaBeacon_keeps | apply State.setPort_keeps | apply State.Keeps.ite | apply State.Keeps.ite_fst | apply State.Keeps.ite_snd | apply State.Keeps.foldl) | split)

theorem State.plcaNext_keeps {s0 s : State} (h : s0.Keeps s) (n : Nat) :
    s0.Keeps (State.plcaNext s n) := by
  unfold State.plcaNext
  try dsimp only
  repeat' (first | with_reducible assumption | intro _ | with_reducible (first | apply State.plcaSend_keeps | apply State.setPort_keeps | apply State.Keeps.ite | apply State.Keeps.ite_fst | apply State.Keeps.ite_snd | apply State.Keeps.foldl) | split)

theorem State.plcaTick_keeps {s0 s : State} (h : s0.Keeps s) (n : Nat) :
    s0.Keeps (State.plcaTick s n) := by
  unfold State.plcaTick
  try dsimp only
  repeat' (first | with_reducible assumption | intro _ | with_reducible (first | apply State.setPort_keeps | apply State.plcaSend_keeps | apply State.plcaNext_keeps | apply State.Keeps.ite | apply State.Keeps.ite_fst | apply State.Keeps.ite_snd | apply State.Keeps.foldl) | split)

theorem State.tickPlca_keeps {s0 s : State} (h : s0.Keeps s) :
    s0.Keeps (State.tickPlca s) := by
  unfold State.tickPlca
  try dsimp only
  repeat' (first | with_reducible assumption | intro _ | with_reducible (first | apply State.plcaTick_keeps | apply State.Keeps.ite | apply State.Keeps.ite_fst | apply State.Keeps.ite_snd | apply State.Keeps.foldl) | split)

theorem State.plcaTimeout_keeps {s0 s : State} (h : s0.Keeps s) (n : Nat) :
    s0.Keeps (State.plcaTimeout s n) := by
  unfold State.plcaTimeout
  try dsimp only
  repeat' (first | with_reducible assumption | with_reducible (first | apply State.raise_keeps | apply State.setPort_keeps | apply State.setF_keeps | apply State.Keeps.ite))

theorem State.collision_keeps {s0 s : State} (h : s0.Keeps s) (n : Nat) :
    s0.Keeps (State.collision s n) := by
  unfold State.collision
  try dsimp only
  repeat' (first | with_reducible assumption | with_reducible (first | apply State.breakRx_keeps | apply State.raise_keeps | apply State.mibInc_keeps | apply State.wfqAll_keeps | apply State.copyGone_keeps | apply State.setPort_keeps | apply State.Keeps.ite) | split)

theorem State.mdioReq_keeps {s0 s : State} (h : s0.Keeps s) (op : Nat) (arg : Nat) :
    s0.Keeps (State.mdioReq s op arg) := by
  unfold State.mdioReq
  try dsimp only
  repeat' (first | with_reducible assumption | intro _ | with_reducible (first | apply State.mbxEnd_keeps | apply State.emit_keeps | apply State.Keeps.foldl) | split | with_reducible apply State.Keeps.mdio_upd)

theorem State.mdioDone_keeps {s0 s : State} (h : s0.Keeps s) (data : Nat) (resp : Bool) (again : Bool) :
    s0.Keeps (State.mdioDone s data resp again) := by
  unfold State.mdioDone
  try dsimp only
  repeat' (first | with_reducible assumption | with_reducible (first | apply State.snap_keeps | apply State.mbxEnd_keeps | apply State.setF_keeps | apply State.Keeps.ite) | with_reducible apply State.Keeps.mdio_upd)

theorem State.mibReq_keeps {s0 s : State} (h : s0.Keeps s) (op : Nat) (arg : Nat) :
    s0.Keeps (State.mibReq s op arg) := by
  unfold State.mibReq
  try dsimp only
  repeat' (first | (intro c; exact Cells.wf_set c.mib _ _) | with_reducible assumption | with_reducible (first | apply State.mbxFail_keeps | apply State.snap_keeps | apply State.Keeps.ite) | with_reducible apply State.Keeps.mib_upd)

theorem State.prbsBit_keeps {s0 s : State} (h : s0.Keeps s) (n : Nat) (sync : Bool) :
    s0.Keeps (State.prbsBit s n sync) := by
  unfold State.prbsBit
  try dsimp only
  repeat' (first | with_reducible assumption | with_reducible (first | apply State.setF_keeps | apply State.bump_keeps | apply State.Keeps.ite))

theorem State.pcieLink_keeps {s0 s : State} (h : s0.Keeps s) (g : Nat) (aer : Option Nat) :
    s0.Keeps (State.pcieLink s g aer) := by
  unfold State.pcieLink
  exact State.Keeps.ite h (State.Keeps.ite
    (State.aerLog_keeps (State.raise_keeps (State.Keeps.pcieGen_upd h) _ _ _) _)
    (State.raise_keeps (State.Keeps.pcieGen_upd h) _ _ _))

theorem State.ringCfgChanged_keeps {s0 s : State} (h : s0.Keeps s) (g : Nat) (r : Nat) (old : Word) :
    s0.Keeps (State.ringCfgChanged s g r old) := by
  unfold State.ringCfgChanged
  try dsimp only
  repeat' (first | with_reducible assumption | with_reducible (first | apply State.setReg_keeps | apply State.Keeps.ite))

theorem State.bytesTime_keeps {s0 s : State} (h : s0.Keeps s) (l : List Byte) :
    s0.Keeps (State.bytesTime s l).2 := by
  unfold State.bytesTime
  try dsimp only
  repeat' (first | with_reducible assumption | intro _ | with_reducible (first | apply State.fresh_keeps | apply State.Keeps.ite | apply State.Keeps.ite_fst | apply State.Keeps.ite_snd | apply State.Keeps.foldl) | split)

theorem State.txDescDone_keeps {s0 s : State} (h : s0.Keeps s) (g : Nat) (r : Nat) (irq : Bool) (res : Nat) :
    s0.Keeps (State.txDescDone s g r irq res) := by
  unfold State.txDescDone
  try dsimp only
  repeat' (first | with_reducible assumption | with_reducible (first | apply State.ringStep_keeps | apply State.ringWrite_keeps | apply State.bump_keeps | apply State.ringEvent_keeps | apply State.Keeps.ite))

theorem State.txDesc_keeps {s0 s : State} (h : s0.Keeps s) (g : Nat) (r : Nat) (d : List Byte) (buf : List Byte) :
    s0.Keeps (State.txDesc s g r d buf) := by
  unfold State.txDesc
  extract_lets n s1 res irq port l t e
  have h1 : s0.Keeps s1 := State.Keeps.ringPtr_upd h (fun c => Cells.wf_set c.ringPtr _ _)
  have hl : s0.Keeps l.2 := State.Keeps.ite_snd (State.bytesTime_keeps h1 _) h1
  exact State.Keeps.ite (State.Keeps.ite (State.txDescDone_keeps h1 _ _ _ _)
    (State.txDescDone_keeps (State.enter_keeps (State.bytesTime_keeps hl _) _) _ _ _ _)) h

theorem State.ringsOff_keeps {s0 s : State} (h : s0.Keeps s) :
    s0.Keeps (State.ringsOff s) := by
  unfold State.ringsOff
  try dsimp only
  repeat' (first | with_reducible assumption | intro _ | with_reducible (first | apply State.setF_keeps | apply State.Keeps.foldl))

theorem State.begins_keeps {s0 s : State} (h : s0.Keeps s) (c : Copy) :
    s0.Keeps (State.begins s c) := by
  unfold State.begins
  try dsimp only
  repeat' (first | with_reducible assumption | intro _ | with_reducible (first | apply State.setFrame_keeps | apply State.wfqTaken_keeps | apply State.Keeps.ite | apply State.Keeps.ite_fst | apply State.Keeps.ite_snd | apply State.Keeps.foldl) | split)

theorem State.startCopy_keeps {s00 s0 : State} (h : s00.Keeps s0) (c : Copy) (saBad : Nat) :
    s00.Keeps (State.startCopy s0 c saBad) := by
  unfold State.startCopy
  try dsimp only
  repeat' (first | with_reducible assumption | intro _ | with_reducible (first | apply State.begins_keeps | apply State.setPort_keeps | apply State.fresh_keeps | apply State.encodeSa_keeps | apply State.setFrame_keeps | apply State.copyDrop_keeps | apply State.wfqAll_keeps | apply State.takePn_keeps | apply State.setCopy_keeps | apply State.Keeps.ite | apply State.Keeps.ite_fst | apply State.Keeps.ite_snd | apply State.Keeps.foldl) | split)

theorem State.txCarr_keeps {s0 s : State} (h : s0.Keeps s) (r : Nat) :
    s0.Keeps (State.txCarr s r) := by
  unfold State.txCarr
  try dsimp only
  repeat' (first | with_reducible assumption | intro _ | with_reducible (first | apply State.dmaError_keeps | apply State.txDesc_keeps | apply State.Keeps.ite | apply State.Keeps.ite_fst | apply State.Keeps.ite_snd | apply State.Keeps.foldl) | split)

end Sys2Proof.Machine
end

