-- ==== Sys2Proof/Laws/KeepsGateway.lean ====
section
/-! SUPPORT. `State.Keeps` for the operations of Machine/Gateway.lean. -/

namespace Sys2Proof.Machine

set_option linter.unusedTactic false
set_option linter.unreachableTactic false

theorem State.setMw_keeps {s0 s : State} (h : s0.Keeps s) (o : Nat) (v : Nat) :
    s0.Keeps (State.setMw s o v) := by
  unfold State.setMw
  try dsimp only
  repeat' (first | (intro c; exact memPut_wf c.win _ _) | with_reducible assumption | with_reducible apply State.Keeps.win_upd)

theorem State.setMsg_keeps {s0 s : State} (h : s0.Keeps s) (o : Nat) (l : List Byte) :
    s0.Keeps (State.setMsg s o l) := by
  unfold State.setMsg
  try dsimp only
  repeat' (first | (intro c; exact memPut_wf c.win _ _) | with_reducible assumption | with_reducible apply State.Keeps.win_upd)

theorem State.putMsg_keeps {s0 s : State} (h : s0.Keeps s) (u : Nat) (h0 : Nat) (h1 : Nat) (t : Nat) (data : List Byte) :
    s0.Keeps (State.putMsg s u h0 h1 t data) := by
  unfold State.putMsg
  try dsimp only
  repeat' (first | with_reducible assumption | with_reducible (first | apply State.setMw_keeps | apply State.setMsg_keeps))

theorem State.setCan_keeps {s0 s : State} (h : s0.Keeps s) (c : Nat) (x : CanSt) :
    s0.Keeps (State.setCan s c x) := by
  unfold State.setCan
  try dsimp only
  repeat' (first | (intro c; exact Cells.wf_set c.can _ _) | with_reducible assumption | with_reducible apply State.Keeps.can_upd)

theorem State.setInq_keeps {s0 s : State} (h : s0.Keeps s) (n : Nat) (l : List Nat) :
    s0.Keeps (State.setInq s n l) := by
  unfold State.setInq
  try dsimp only
  repeat' (first | (intro c; exact Cells.wf_set c.inq _ _) | with_reducible assumption | with_reducible apply State.Keeps.inq_upd)

theorem State.setHeld_keeps {s0 s : State} (h : s0.Keeps s) (n : Nat) (l : List Nat) :
    s0.Keeps (State.setHeld s n l) := by
  unfold State.setHeld
  try dsimp only
  repeat' (first | (intro c; exact Cells.wf_set c.held _ _) | with_reducible assumption | with_reducible apply State.Keeps.held_upd)

theorem State.gwRelease_keeps {s0 s : State} (h : s0.Keeps s) (u : Nat) :
    s0.Keeps (State.gwRelease s u) := by
  unfold State.gwRelease
  try dsimp only
  repeat' (first | with_reducible assumption | with_reducible apply State.Keeps.ite | with_reducible apply State.Keeps.msgs_upd)

theorem State.gwRef_keeps {s0 s : State} (h : s0.Keeps s) (u : Nat) :
    s0.Keeps (State.gwRef s u) := by
  unfold State.gwRef
  try dsimp only
  repeat' (first | with_reducible assumption | with_reducible apply State.Keeps.ite | with_reducible apply State.Keeps.msgs_upd)

theorem State.gwCount_keeps {s0 s : State} (h : s0.Keeps s) (k : Nat) :
    s0.Keeps (State.gwCount s k) := by
  unfold State.gwCount
  try dsimp only
  repeat' (first | with_reducible assumption | with_reducible apply State.bump_keeps)

theorem State.gwIn_keeps {s0 s : State} (h : s0.Keeps s) (sq : Nat) (m : GwMsg) (h0 : Nat) (h1 : Nat) (t : Nat) (data : List Byte) :
    s0.Keeps (State.gwIn s sq m h0 h1 t data) := by
  unfold State.gwIn
  try dsimp only
  repeat' (first | with_reducible assumption | with_reducible (first | apply State.raise_keeps | apply State.gwCount_keeps | apply State.putMsg_keeps | apply State.setInq_keeps | apply State.Keeps.ite) | split | with_reducible apply State.Keeps.msgs_upd)

theorem State.gwReleaseAll_keeps {s0 s : State} (h : s0.Keeps s) (n : Nat) :
    s0.Keeps (State.gwReleaseAll s n) := by
  unfold State.gwReleaseAll
  try dsimp only
  repeat' (first | with_reducible assumption | intro _ | with_reducible (first | apply State.setHeld_keeps | apply State.gwRelease_keeps | apply State.Keeps.foldl))

theorem State.gwPop_keeps {s0 s : State} (h : s0.Keeps s) (n : Nat) :
    s0.Keeps (State.gwPop s n).2 := by
  unfold State.gwPop
  try dsimp only
  repeat' (first | with_reducible assumption | with_reducible (first | apply State.setHeld_keeps | apply State.setInq_keeps) | split)

theorem State.gwDrop_keeps {s0 s : State} (h : s0.Keeps s) (n : Nat) (u : Nat) :
    s0.Keeps (State.gwDrop s n u) := by
  unfold State.gwDrop
  try dsimp only
  repeat' (first | with_reducible assumption | with_reducible (first | apply State.gwRelease_keeps | apply State.setHeld_keeps))

theorem State.canCount_keeps {s0 s : State} (h : s0.Keeps s) (c : Nat) (k : Nat) :
    s0.Keeps (State.canCount s c k) := by
  unfold State.canCount
  try dsimp only
  repeat' (first | with_reducible assumption | with_reducible apply State.bump_keeps)

theorem State.setW3_keeps {s0 s : State} (h : s0.Keeps s) (c : Nat) (b : Nat) (top : Nat) (lost : Nat) (res : Nat) :
    s0.Keeps (State.setW3 s c b top lost res) := by
  unfold State.setW3
  try dsimp only
  repeat' (first | with_reducible assumption | with_reducible apply State.setMw_keeps)

theorem State.cantxAction_keeps {s0 s : State} (h : s0.Keeps s) (c : Nat) (b : Nat) (t : Nat) :
    s0.Keeps (State.cantxAction s c b t).1 := by
  unfold State.cantxAction
  try dsimp only
  repeat' (first | with_reducible assumption | intro _ | with_reducible (first | apply State.setW3_keeps | apply State.Keeps.ite | apply State.Keeps.ite_fst | apply State.Keeps.ite_snd | apply State.Keeps.foldl) | split)

theorem State.canBufCmd_keeps {s0 s : State} (h : s0.Keeps s) (c : Nat) (op : Nat) (b : Nat) :
    s0.Keeps (State.canBufCmd s c op b) := by
  unfold State.canBufCmd
  try dsimp only
  repeat' (first | with_reducible assumption | intro _ | with_reducible (first | apply State.setW3_keeps | apply State.setCan_keeps | apply State.Keeps.ite | apply State.Keeps.ite_fst | apply State.Keeps.ite_snd | apply State.Keeps.foldl) | split)

theorem State.setGwq_keeps {s0 s : State} (h : s0.Keeps s) (c : Nat) (l : List Nat) :
    s0.Keeps (State.setGwq s c l) := by
  unfold State.setGwq
  try dsimp only
  repeat' (first | with_reducible assumption | with_reducible (first | apply State.setF_keeps | apply State.setCan_keeps))

theorem State.canBusOff_keeps {s0 s : State} (h : s0.Keeps s) (c : Nat) :
    s0.Keeps (State.canBusOff s c) := by
  unfold State.canBusOff
  try dsimp only
  repeat' (first | with_reducible assumption | intro _ | with_reducible (first | apply State.canCount_keeps | apply State.gwRelease_keeps | apply State.setW3_keeps | apply State.setF_keeps | apply State.setCan_keeps | apply State.setGwq_keeps | apply State.raise_keeps | apply State.Keeps.foldl | apply State.Keeps.ite))

theorem State.canErr_keeps {s0 s : State} (h : s0.Keeps s) (c : Nat) (tec : Nat) (rec : Nat) :
    s0.Keeps (State.canErr s c tec rec) := by
  unfold State.canErr
  try dsimp only
  repeat' (first | with_reducible assumption | with_reducible (first | apply State.canBusOff_keeps | apply State.setFs_keeps | apply State.raiseIf_keeps | apply State.Keeps.ite))

theorem State.canRxOk_keeps {s0 s : State} (h : s0.Keeps s) (c : Nat) :
    s0.Keeps (State.canRxOk s c) := by
  unfold State.canRxOk
  try dsimp only
  repeat' (first | with_reducible assumption | with_reducible (first | apply State.canErr_keeps | apply State.fresh_keeps | apply State.Keeps.ite))

theorem State.canBusError_keeps {s0 s : State} (h : s0.Keeps s) (c : Nat) (kind : Nat) :
    s0.Keeps (State.canBusError s c kind) := by
  unfold State.canBusError
  try dsimp only
  repeat' (first | with_reducible assumption | with_reducible (first | apply State.canCount_keeps | apply State.setCan_keeps | apply State.canErr_keeps | apply State.Keeps.ite))

theorem State.canRecover_keeps {s0 s : State} (h : s0.Keeps s) (c : Nat) :
    s0.Keeps (State.canRecover s c) := by
  unfold State.canRecover
  try dsimp only
  repeat' (first | with_reducible assumption | with_reducible (first | apply State.setF_keeps | apply State.setFs_keeps | apply State.setCan_keeps))

theorem State.canRecessive_keeps {s0 s : State} (h : s0.Keeps s) (c : Nat) :
    s0.Keeps (State.canRecessive s c) := by
  unfold State.canRecessive
  try dsimp only
  repeat' (first | with_reducible assumption | with_reducible (first | apply State.canRecover_keeps | apply State.setCan_keeps | apply State.Keeps.ite))

theorem State.canRestart_keeps {s0 s : State} (h : s0.Keeps s) (c : Nat) :
    s0.Keeps (State.canRestart s c) := by
  unfold State.canRestart
  try dsimp only
  repeat' (first | with_reducible assumption | with_reducible (first | apply State.canRecover_keeps | apply State.setF_keeps | apply State.Keeps.ite))

theorem State.canCfgChanged_keeps {s0 s : State} (h : s0.Keeps s) (c : Nat) (old : Word) :
    s0.Keeps (State.canCfgChanged s c old) := by
  unfold State.canCfgChanged
  try dsimp only
  repeat' (first | with_reducible assumption | with_reducible (first | apply State.setFs_keeps | apply State.setCan_keeps | apply State.setW3_keeps | apply State.raiseIf_keeps | apply State.setF_keeps | apply State.Keeps.ite) | split)

theorem State.startMsg_keeps {s0 s : State} (h : s0.Keeps s) (c : Nat) (u : Nat) (fmt : Nat) :
    s0.Keeps (State.startMsg s c u fmt) := by
  unfold State.startMsg
  try dsimp only
  repeat' (first | with_reducible assumption | with_reducible (first | apply State.setMw_keeps | apply State.Keeps.ite))

theorem State.canTransmit_keeps {s0 s : State} (h : s0.Keeps s) (c : Nat) (lost : Bool) :
    s0.Keeps (State.canTransmit s c lost) := by
  unfold State.canTransmit
  try dsimp only
  repeat' (first | with_reducible assumption | with_reducible (first | apply State.startMsg_keeps | apply State.canCount_keeps | apply State.setCan_keeps | apply State.Keeps.ite) | split)

theorem State.canSent_keeps {s0 s : State} (h : s0.Keeps s) (c : Nat) :
    s0.Keeps (State.canSent s c) := by
  unfold State.canSent
  try dsimp only
  repeat' (first | with_reducible assumption | with_reducible (first | apply State.setCan_keeps | apply State.canCount_keeps | apply State.emit_keeps | apply State.setW3_keeps | apply State.gwRelease_keeps | apply State.setGwq_keeps | apply State.canErr_keeps | apply State.Keeps.ite) | split)

theorem State.canStore_keeps {s0 s : State} (h : s0.Keeps s) (c : Nat) (r : CanRx) :
    s0.Keeps (State.canStore s c r) := by
  unfold State.canStore
  try dsimp only
  repeat' (first | with_reducible assumption | with_reducible (first | apply State.gwIn_keeps | apply State.canCount_keeps | apply State.raiseIf_keeps | apply State.setMw_keeps | apply State.putMsg_keeps | apply State.raise_keeps | apply State.Keeps.ite) | split)

theorem State.canReceive_keeps {s0 s : State} (h : s0.Keeps s) (c : Nat) (r : CanRx) :
    s0.Keeps (State.canReceive s c r) := by
  unfold State.canReceive
  try dsimp only
  repeat' (first | with_reducible assumption | intro _ | with_reducible (first | apply State.emit_keeps | apply State.canRxOk_keeps | apply State.canStore_keeps | apply State.Keeps.ite | apply State.Keeps.ite_fst | apply State.Keeps.ite_snd | apply State.Keeps.foldl) | split)

theorem State.canIgnored_keeps {s0 s : State} (h : s0.Keeps s) (c : Nat) (r : CanRx) :
    s0.Keeps (State.canIgnored s c r).1 := by
  unfold State.canIgnored
  try dsimp only
  repeat' (first | with_reducible assumption | with_reducible (first | apply State.canCount_keeps | apply State.raiseAon_keeps | apply State.setF_keeps | apply State.Keeps.ite | apply State.Keeps.ite_fst | apply State.Keeps.ite_snd))

theorem State.linFrame_keeps {s00 s0 : State} (h : s00.Keeps s0) (l : Nat) (i : Nat) (data : List Byte) (sum : Nat) (err : Nat) :
    s00.Keeps (State.linFrame s0 l i data sum err) := by
  unfold State.linFrame
  try dsimp only
  repeat' (first | with_reducible assumption | intro _ | with_reducible (first | apply State.setF_keeps | apply State.setMw_keeps | apply State.bump_keeps | apply State.raise_keeps | apply State.emit_keeps | apply State.setMsg_keeps | apply State.gwIn_keeps | apply State.Keeps.ite | apply State.Keeps.ite_fst | apply State.Keeps.ite_snd | apply State.Keeps.foldl) | split)

theorem State.setLin_keeps {s0 s : State} (h : s0.Keeps s) (l : Nat) (x : LinSt) :
    s0.Keeps (State.setLin s l x) := by
  unfold State.setLin
  try dsimp only
  repeat' (first | (intro c; exact Cells.wf_set c.lin _ _) | with_reducible assumption | with_reducible apply State.Keeps.lin_upd)

theorem State.linSlot_keeps {s0 s : State} (h : s0.Keeps s) (l : Nat) (data : List Byte) (sum : Nat) (err : Nat) :
    s0.Keeps (State.linSlot s l data sum err) := by
  unfold State.linSlot
  try dsimp only
  repeat' (first | with_reducible assumption | intro _ | with_reducible (first | apply State.setLin_keeps | apply State.bump_keeps | apply State.emit_keeps | apply State.linFrame_keeps | apply State.Keeps.ite | apply State.Keeps.ite_fst | apply State.Keeps.ite_snd | apply State.Keeps.foldl) | split)

theorem State.linHeader_keeps {s0 s : State} (h : s0.Keeps s) (l : Nat) (i : Nat) (data : List Byte) (sum : Nat) (err : Nat) (brk : Nat) (rate : Nat) :
    s0.Keeps (State.linHeader s l i data sum err brk rate) := by
  unfold State.linHeader
  try dsimp only
  repeat' (first | with_reducible assumption | intro _ | with_reducible (first | apply State.setF_keeps | apply State.linFrame_keeps | apply State.raiseIf_keeps | apply State.Keeps.ite | apply State.Keeps.ite_fst | apply State.Keeps.ite_snd | apply State.Keeps.foldl) | split)

theorem State.linSchedChanged_keeps {s0 s : State} (h : s0.Keeps s) (l : Nat) (old : Word) :
    s0.Keeps (State.linSchedChanged s l old) := by
  unfold State.linSchedChanged
  try dsimp only
  repeat' (first | with_reducible assumption | with_reducible (first | apply State.setLin_keeps | apply State.Keeps.ite))

theorem State.setBatch_keeps {s0 s : State} (h : s0.Keeps s) (b : Nat) (x : BatchSt) :
    s0.Keeps (State.setBatch s b x) := by
  unfold State.setBatch
  try dsimp only
  repeat' (first | (intro c; exact Cells.wf_set c.batch _ _) | with_reducible assumption | with_reducible apply State.Keeps.batch_upd)

theorem State.gwSeal_keeps {s0 s : State} (h : s0.Keeps s) (b : Nat) :
    s0.Keeps (State.gwSeal s b) := by
  unfold State.gwSeal
  try dsimp only
  repeat' (first | with_reducible assumption | with_reducible apply State.setBatch_keeps | with_reducible apply State.Keeps.sealedQ_upd)

theorem State.gtxBatch_keeps {s0 s : State} (h : s0.Keeps s) (b : Nat) (m : GwMsg) :
    s0.Keeps (State.gtxBatch s b m).1 := by
  unfold State.gtxBatch
  try dsimp only
  repeat' (first | with_reducible assumption | with_reducible (first | apply State.gwSeal_keeps | apply State.gwRef_keeps | apply State.setBatch_keeps | apply State.Keeps.ite | apply State.Keeps.ite_fst | apply State.Keeps.ite_snd))

theorem State.batchTimeout_keeps {s0 s : State} (h : s0.Keeps s) (b : Nat) :
    s0.Keeps (State.batchTimeout s b) := by
  unfold State.batchTimeout
  try dsimp only
  repeat' (first | with_reducible assumption | with_reducible (first | apply State.gwSeal_keeps | apply State.Keeps.ite))

theorem State.batchInject_keeps {s0 s : State} (h : s0.Keeps s) :
    s0.Keeps (State.batchInject s) := by
  unfold State.batchInject
  try dsimp only
  repeat' (first | with_reducible assumption | intro _ | with_reducible (first | apply State.gwRelease_keeps | apply State.setBatch_keeps | apply State.enter_keeps | apply State.Keeps.foldl) | split | with_reducible apply State.Keeps.sealedQ_upd)

theorem State.batchReq_keeps {s0 s : State} (h : s0.Keeps s) (op : Nat) (arg : Nat) :
    s0.Keeps (State.batchReq s op arg) := by
  unfold State.batchReq
  try dsimp only
  repeat' (first | with_reducible assumption | with_reducible (first | apply State.mbxEnd_keeps | apply State.setBatch_keeps | apply State.Keeps.ite))

theorem State.rxStrReq_keeps {s0 s : State} (h : s0.Keeps s) (arg : Nat) :
    s0.Keeps (State.rxStrReq s arg) := by
  unfold State.rxStrReq
  extract_lets b w0 e x s1
  have h1 : s0.Keeps s1 := State.Keeps.ite (State.Keeps.rxStr_upd h (fun c => Cells.wf_set c.rxStr _ _)) h
  exact State.mbxEnd_keeps h1 _ _ _

theorem State.acfTake_keeps {s0 s : State} (h : s0.Keeps s) (sq : Nat) (a : List Byte) :
    s0.Keeps (State.acfTake s sq a) := by
  unfold State.acfTake
  try dsimp only
  repeat' (first | with_reducible assumption | with_reducible (first | apply State.gwIn_keeps | apply State.Keeps.ite))

theorem State.acfWalk_keeps {s0 s : State} (h : s0.Keeps s) (k : Nat) (sq : Nat) (x3 : Nat) (x4 : List Byte) :
    s0.Keeps (State.acfWalk s k sq x3 x4) := by
  induction x3 generalizing s x4 with
  | zero => exact h
  | succ n ih =>
    unfold State.acfWalk
    dsimp only
    apply State.Keeps.ite h
    apply State.Keeps.ite
    · exact State.raise_keeps (State.gwCount_keeps h _) _ _ _
    · apply ih
      split
      · exact State.acfTake_keeps h _ _
      · exact State.gwCount_keeps h _

theorem State.acfRx_keeps {s0 s : State} (h : s0.Keeps s) (d : List Byte) :
    s0.Keeps (State.acfRx s d) := by
  unfold State.acfRx
  try dsimp only
  repeat' (first | (intro c; exact Cells.wf_set c.rxStr _ _) | with_reducible assumption | with_reducible (first | apply State.gwCount_keeps | apply State.acfWalk_keeps | apply State.Keeps.ite) | split | with_reducible apply State.Keeps.rxStr_upd)

theorem State.gtxCan_keeps {s0 s : State} (h : s0.Keeps s) (c : Nat) (m : GwMsg) :
    s0.Keeps (State.gtxCan s c m).1 := by
  unfold State.gtxCan
  try dsimp only
  repeat' (first | with_reducible assumption | intro _ | with_reducible (first | apply State.setGwq_keeps | apply State.setCan_keeps | apply State.gwRef_keeps | apply State.Keeps.ite | apply State.Keeps.ite_fst | apply State.Keeps.ite_snd | apply State.Keeps.foldl) | split)

theorem State.gtxLin_keeps {s0 s : State} (h : s0.Keeps s) (l : Nat) (m : GwMsg) :
    s0.Keeps (State.gtxLin s l m).1 := by
  unfold State.gtxLin
  try dsimp only
  repeat' (first | with_reducible assumption | with_reducible (first | apply State.setMsg_keeps | apply State.Keeps.ite | apply State.Keeps.ite_fst | apply State.Keeps.ite_snd))

theorem State.gtx_keeps {s0 s : State} (h : s0.Keeps s) (n : Nat) (m : GwMsg) (route : Nat) :
    s0.Keeps (State.gtx s n m route).2 := by
  unfold State.gtx
  try dsimp only
  repeat' (first | with_reducible assumption | with_reducible (first | apply State.gtxCan_keeps | apply State.gtxLin_keeps | apply State.gtxBatch_keeps | apply State.gwCount_keeps | apply State.gwDrop_keeps | apply State.Keeps.ite | apply State.Keeps.ite_fst | apply State.Keeps.ite_snd) | split)

end Sys2Proof.Machine
end

