-- ==== Sys2Proof/Laws/KeepsCarr.lean ====
section
/-! SUPPORT. `State.Keeps` for the operations of Machine/Carr.lean. -/

namespace Sys2Proof.Machine

set_option linter.unusedTactic false
set_option linter.unreachableTactic false

theorem State.safeHold_keeps {s0 s : State} (h : s0.Keeps s) (cause : Nat) (idx : Nat) :
    s0.Keeps (State.safeHold s cause idx) := by
  unfold State.safeHold
  try dsimp only
  repeat' (first | with_reducible assumption | with_reducible (first | apply State.raise_keeps | apply State.setF_keeps))

theorem State.cpxCount_keeps {s0 s : State} (h : s0.Keeps s) (k : Nat) :
    s0.Keeps (State.cpxCount s k) := by
  unfold State.cpxCount
  try dsimp only
  repeat' (first | with_reducible assumption | with_reducible apply State.bump_keeps)

theorem State.mmRecord_keeps {s0 s : State} (h : s0.Keeps s) (kind : Nat) (core : Nat) (src : Nat) (addr : Nat) :
    s0.Keeps (State.mmRecord s kind core src addr) := by
  unfold State.mmRecord
  try dsimp only
  repeat' (first | with_reducible assumption | with_reducible (first | apply State.setReg_keeps | apply State.setFs_keeps | apply State.Keeps.ite))

theorem State.carrOdd_keeps {s0 s : State} (h : s0.Keeps s) (p : Nat) (kind : Nat) (src : Nat) (addr : Nat) :
    s0.Keeps (State.carrOdd s p kind src addr) := by
  unfold State.carrOdd
  try dsimp only
  repeat' (first | with_reducible assumption | with_reducible (first | apply State.setFs_keeps | apply State.mmRecord_keeps | apply State.raise_keeps | apply State.cpxCount_keeps) | with_reducible apply State.Keeps.carr_upd)

theorem State.leadEscape_keeps {s0 s : State} (h : s0.Keeps s) (c : Nat) :
    s0.Keeps (State.leadEscape s c) := by
  unfold State.leadEscape
  try dsimp only
  repeat' (first | with_reducible assumption | with_reducible (first | apply State.raise_keeps | apply State.cpxCount_keeps))

theorem State.carrJudge_keeps {s0 s : State} (h : s0.Keeps s) (v : Nat) (kind : Nat) (src : Nat) (addr : Nat) :
    s0.Keeps (State.carrJudge s v kind src addr) := by
  unfold State.carrJudge
  try dsimp only
  repeat' (first | with_reducible assumption | with_reducible (first | apply State.safeHold_keeps | apply State.mmRecord_keeps | apply State.carrOdd_keeps | apply State.leadEscape_keeps | apply State.Keeps.ite))

theorem State.carrFault_keeps {s0 s : State} (h : s0.Keeps s) (fault : Nat) :
    s0.Keeps (State.carrFault s fault) := by
  unfold State.carrFault
  try dsimp only
  repeat' (first | with_reducible assumption | with_reducible (first | apply State.safeHold_keeps | apply State.Keeps.ite))

theorem State.carrVote_keeps {s0 s : State} (h : s0.Keeps s) (a : CarrTx) (b : CarrTx) (c : CarrTx) (fault : Nat) :
    s0.Keeps (State.carrVote s a b c fault).1 := by
  unfold State.carrVote
  try dsimp only
  repeat' (first | with_reducible assumption | with_reducible (first | apply State.carrFault_keeps | apply State.carrJudge_keeps | apply State.Keeps.ite | apply State.Keeps.ite_fst | apply State.Keeps.ite_snd) | with_reducible apply State.Keeps.carr_upd)

theorem State.windowClose_keeps {s0 s : State} (h : s0.Keeps s) (kind : Nat) (src : Nat) (addr : Nat) (next : Nat) :
    s0.Keeps (State.windowClose s kind src addr next) := by
  unfold State.windowClose
  exact State.Keeps.ite h (State.carrJudge_keeps (State.Keeps.carr_upd h) _ _ _ _)

theorem State.windowEnd_keeps {s0 s : State} (h : s0.Keeps s) :
    s0.Keeps (State.windowEnd s) := by
  unfold State.windowEnd
  try dsimp only
  repeat' (first | with_reducible assumption | with_reducible (first | apply State.windowClose_keeps | apply State.Keeps.ite | apply State.Keeps.ite_fst | apply State.Keeps.ite_snd | apply State.Keeps.foldl) | intro _ | split)

theorem State.chkptWrite_keeps {s0 s : State} (h : s0.Keeps s) (a : List (BitVec 64)) (b : List (BitVec 64)) (c : List (BitVec 64)) :
    s0.Keeps (State.chkptWrite s a b c) := by
  unfold State.chkptWrite
  try dsimp only
  repeat' (first | with_reducible assumption | intro _ | with_reducible (first | apply State.windowClose_keeps | apply State.carrJudge_keeps | apply State.Keeps.foldl | apply State.Keeps.ite) | with_reducible apply State.Keeps.carr_upd)

theorem State.resyncTest_keeps {s0 s : State} (h : s0.Keeps s) (ok : Bool) :
    s0.Keeps (State.resyncTest s ok) := by
  unfold State.resyncTest
  try dsimp only
  repeat' (first | with_reducible assumption | with_reducible (first | apply State.raise_keeps | apply State.cpxCount_keeps | apply State.setF_keeps | apply State.Keeps.ite) | with_reducible apply State.Keeps.carr_upd)

theorem State.resyncStall_keeps {s0 s : State} (h : s0.Keeps s) :
    s0.Keeps (State.resyncStall s) := by
  unfold State.resyncStall
  try dsimp only
  repeat' (first | with_reducible assumption | with_reducible (first | apply State.raise_keeps | apply State.cpxCount_keeps | apply State.setFs_keeps | apply State.Keeps.ite) | with_reducible apply State.Keeps.carr_upd)

theorem State.injection_keeps {s0 s : State} (h : s0.Keeps s) (ok : Bool) :
    s0.Keeps (State.injection s ok) := by
  unfold State.injection
  try dsimp only
  repeat' (first | with_reducible assumption | with_reducible (first | apply State.cpxCount_keeps | apply State.safeHold_keeps | apply State.Keeps.ite) | with_reducible apply State.Keeps.carr_upd)

theorem State.carrStart_keeps {s0 sa : State} (h : s0.Keeps sa) :
    s0.Keeps (State.carrStart sa) := by
  unfold State.carrStart
  try dsimp only
  repeat' (first | with_reducible assumption | with_reducible (first | apply State.fresh_keeps | apply State.setFs_keeps | apply State.raise_keeps | apply State.cpxCount_keeps | apply State.Keeps.ite) | split | with_reducible apply State.Keeps.carr_upd)

theorem State.doorbell_keeps {s0 s : State} (h : s0.Keeps s) (i : Nat) (v : Nat) :
    s0.Keeps (State.doorbell s i v) := by
  unfold State.doorbell
  try dsimp only
  repeat' (first | with_reducible assumption | intro _ | with_reducible (first | apply State.raise_keeps | apply State.Keeps.foldl | apply State.Keeps.ite))

theorem State.memScrub_keeps {s0 s : State} (h : s0.Keeps s) (addr : Nat) (err : Nat) :
    s0.Keeps (State.memScrub s addr err) := by
  unfold State.memScrub
  try dsimp only
  repeat' (first | with_reducible assumption | with_reducible (first | apply State.bump_keeps | apply State.memError_keeps | apply State.Keeps.ite))

theorem State.memTrain_keeps {s0 s : State} (h : s0.Keeps s) (temp : Int) (ok : Bool) :
    s0.Keeps (State.memTrain s temp ok) := by
  unfold State.memTrain
  try dsimp only
  repeat' (first | with_reducible assumption | with_reducible (first | apply State.setFs_keeps | apply State.raise_keeps | apply State.setF_keeps | apply State.peatDiscard_keeps | apply State.Keeps.ite) | with_reducible apply State.Keeps.carr_upd)

end Sys2Proof.Machine
end

