-- ==== Sys2Proof/Laws/KeepsPairBase.lean ====
section
/-! SUPPORT. `State.Keeps` for the operations of Machine/PairBase.lean. -/

namespace Sys2Proof.Machine

set_option linter.unusedTactic false
set_option linter.unreachableTactic false

theorem State.setPairState_keeps {s0 s : State} (h : s0.Keeps s) (k : Nat) :
    s0.Keeps (State.setPairState s k) := by
  unfold State.setPairState
  try dsimp only
  repeat' (first | with_reducible assumption | with_reducible apply State.setF_keeps)

theorem State.setPair_keeps {s0 s : State} (h : s0.Keeps s) (x : PairSt) :
    s0.Keeps (State.setPair s x) := by
  unfold State.setPair
  try dsimp only
  repeat' (first | with_reducible assumption | with_reducible apply State.Keeps.pair_upd)

theorem State.pairCount_keeps {s0 s : State} (h : s0.Keeps s) (k : Nat) :
    s0.Keeps (State.pairCount s k) := by
  unfold State.pairCount
  try dsimp only
  repeat' (first | with_reducible assumption | with_reducible apply State.bump_keeps)

theorem State.setPathOk_keeps {s0 s : State} (h : s0.Keeps s) (p : Nat) (v : Nat) :
    s0.Keeps (State.setPathOk s p v) := by
  unfold State.setPathOk
  try dsimp only
  repeat' (first | with_reducible assumption | with_reducible (first | apply State.setF_keeps | apply State.Keeps.ite))

theorem State.pairInit_keeps {s0 s : State} (h : s0.Keeps s) :
    s0.Keeps (State.pairInit s) := by
  unfold State.pairInit
  try dsimp only
  repeat' (first | with_reducible assumption | with_reducible (first | apply State.setReg_keeps | apply State.setPair_keeps))

theorem State.pairOff_keeps {s0 s : State} (h : s0.Keeps s) :
    s0.Keeps (State.pairOff s) := by
  unfold State.pairOff
  try dsimp only
  repeat' (first | with_reducible assumption | intro _ | with_reducible (first | apply State.setReg_keeps | apply State.setPair_keeps | apply State.raise_keeps | apply State.Keeps.foldl | apply State.Keeps.ite))

theorem State.pairCfgChanged_keeps {s0 s : State} (h : s0.Keeps s) (old : Word) :
    s0.Keeps (State.pairCfgChanged s old) := by
  unfold State.pairCfgChanged
  try dsimp only
  repeat' (first | with_reducible assumption | with_reducible (first | apply State.pairInit_keeps | apply State.pairOff_keeps | apply State.Keeps.ite))

theorem State.handbackAnnounce_keeps {s0 s : State} (h : s0.Keeps s) :
    s0.Keeps (State.handbackAnnounce s) := by
  unfold State.handbackAnnounce
  try dsimp only
  repeat' (first | with_reducible assumption | with_reducible (first | apply State.raise_keeps | apply State.setF_keeps | apply State.setPair_keeps | apply State.Keeps.ite))

theorem State.handbackCancel_keeps {s0 s : State} (h : s0.Keeps s) :
    s0.Keeps (State.handbackCancel s) := by
  unfold State.handbackCancel
  try dsimp only
  repeat' (first | with_reducible assumption | with_reducible (first | apply State.raise_keeps | apply State.setF_keeps | apply State.setPair_keeps))

theorem State.pairYield_keeps {s0 s : State} (h : s0.Keeps s) :
    s0.Keeps (State.pairYield s) := by
  unfold State.pairYield
  try dsimp only
  repeat' (first | with_reducible assumption | with_reducible (first | apply State.handbackAnnounce_keeps | apply State.Keeps.ite))

theorem State.stClear_keeps {s0 s : State} (h : s0.Keeps s) :
    s0.Keeps (State.stClear s) := by
  unfold State.stClear
  try dsimp only
  repeat' (first | with_reducible assumption | with_reducible apply State.setF_keeps)

theorem State.holdOff_keeps {s0 s : State} (h : s0.Keeps s) :
    s0.Keeps (State.holdOff s) := by
  unfold State.holdOff
  try dsimp only
  repeat' (first | with_reducible assumption | with_reducible (first | apply State.handbackAnnounce_keeps | apply State.Keeps.ite) | split)

theorem State.echoDeadline_keeps {s0 s : State} (h : s0.Keeps s) :
    s0.Keeps (State.echoDeadline s) := by
  unfold State.echoDeadline
  try dsimp only
  repeat' (first | with_reducible assumption | with_reducible (first | apply State.handbackCancel_keeps | apply State.Keeps.ite) | split)

theorem State.pairSend_keeps {s0 s : State} (h : s0.Keeps s) (payload : List Byte) :
    s0.Keeps (State.pairSend s payload) := by
  unfold State.pairSend
  extract_lets mac d port act f r s1
  have h1 : s0.Keeps s1 := State.takeIn_keeps (State.newFrame_keeps h f) _ _
  exact State.wfqAll_keeps (State.reap_keeps h1 _)

theorem State.heartbeat_keeps {s0 s : State} (h : s0.Keeps s) :
    s0.Keeps (State.heartbeat s) := by
  unfold State.heartbeat
  try dsimp only
  repeat' (first | with_reducible assumption | with_reducible (first | apply State.pairSend_keeps | apply State.emit_keeps | apply State.setPair_keeps | apply State.Keeps.ite))

theorem State.healthReport_keeps {s0 s : State} (h : s0.Keeps s) :
    s0.Keeps (State.healthReport s) := by
  unfold State.healthReport
  try dsimp only
  repeat' (first | with_reducible assumption | with_reducible (first | apply State.pairSend_keeps | apply State.setPair_keeps | apply State.Keeps.ite))

theorem State.reportMissing_keeps {s0 s : State} (h : s0.Keeps s) :
    s0.Keeps (State.reportMissing s) := by
  unfold State.reportMissing
  try dsimp only
  repeat' (first | with_reducible assumption | with_reducible (first | apply State.raise_keeps | apply State.setPair_keeps | apply State.Keeps.ite) | split)

theorem State.reportIn_keeps {s0 s : State} (h : s0.Keeps s) (p : List Byte) :
    s0.Keeps (State.reportIn s p) := by
  unfold State.reportIn
  try dsimp only
  repeat' (first | with_reducible assumption | with_reducible (first | apply State.snap_keeps | apply State.setPair_keeps | apply State.raiseIf_keeps))

theorem State.covered_keeps {s0 s : State} (h : s0.Keeps s) (k : Nat) :
    s0.Keeps (State.covered s k) := by
  unfold State.covered
  try dsimp only
  repeat' (first | with_reducible assumption | with_reducible (first | apply State.setPair_keeps | apply State.pairCount_keeps | apply State.Keeps.ite | apply State.Keeps.ite_fst | apply State.Keeps.ite_snd | apply State.Keeps.foldl) | intro _ | split)

theorem State.itemDone_keeps {s0 s : State} (h : s0.Keeps s) (k : Nat) (ok : Bool) :
    s0.Keeps (State.itemDone s k ok) := by
  unfold State.itemDone
  try dsimp only
  repeat' (first | with_reducible assumption | with_reducible (first | apply State.covered_keeps | apply State.setPair_keeps | apply State.setF_keeps | apply State.pairCount_keeps | apply State.raise_keeps | apply State.Keeps.ite | apply State.Keeps.ite_fst | apply State.Keeps.ite_snd | apply State.Keeps.foldl) | intro _ | split)

end Sys2Proof.Machine
end

