-- ==== Sys2Proof/Laws/KeepsSeqRun.lean ====
section
/-! SUPPORT. `State.Keeps` for the operations of Machine/SeqRun.lean. -/

namespace Sys2Proof.Machine

set_option linter.unusedTactic false
set_option linter.unreachableTactic false

theorem State.setPc_keeps {s0 s : State} (h : s0.Keeps s) (n : Nat) (pc : Nat) :
    s0.Keeps (State.setPc s n pc) := by
  unfold State.setPc
  try dsimp only
  repeat' (first | with_reducible assumption | with_reducible apply State.setF_keeps)

theorem State.setWait_keeps {s0 s : State} (h : s0.Keeps s) (n : Nat) (w : WaitSt) :
    s0.Keeps (State.setWait s n w) := by
  unfold State.setWait
  try dsimp only
  repeat' (first | with_reducible assumption | with_reducible (first | apply State.setF_keeps | apply State.setSq_keeps))

theorem State.enterSeq_keeps {s0 s : State} (h : s0.Keeps s) (n : Nat) (st : Nat) :
    s0.Keeps (State.enterSeq s n st) := by
  unfold State.enterSeq
  try dsimp only
  repeat' (first | with_reducible assumption | with_reducible (first | apply State.setF_keeps | apply State.setWait_keeps))

theorem State.seqStart_keeps {s0 s : State} (h : s0.Keeps s) (n : Nat) :
    s0.Keeps (State.seqStart s n) := by
  unfold State.seqStart
  try dsimp only
  repeat' (first | with_reducible assumption | with_reducible (first | apply State.raise_keeps | apply State.setSq_keeps | apply State.gwReleaseAll_keeps | apply State.setReg_keeps | apply State.setPc_keeps | apply State.enterSeq_keeps) | split)

theorem State.seqStop_keeps {s0 s : State} (h : s0.Keeps s) (n : Nat) (flush : Bool) :
    s0.Keeps (State.seqStop s n flush) := by
  unfold State.seqStop
  try dsimp only
  repeat' (first | with_reducible assumption | with_reducible (first | apply State.gwReleaseAll_keeps | apply State.enterSeq_keeps | apply State.flushQ_keeps | apply State.Keeps.ite))

theorem State.seqPause_keeps {s0 s : State} (h : s0.Keeps s) (n : Nat) :
    s0.Keeps (State.seqPause s n) := by
  unfold State.seqPause
  try dsimp only
  repeat' (first | with_reducible assumption | with_reducible (first | apply State.enterSeq_keeps | apply State.Keeps.ite))

theorem State.seqResume_keeps {s0 s : State} (h : s0.Keeps s) (n : Nat) :
    s0.Keeps (State.seqResume s n) := by
  unfold State.seqResume
  try dsimp only
  repeat' (first | with_reducible assumption | with_reducible (first | apply State.enterSeq_keeps | apply State.Keeps.ite))

theorem State.seqHalt_keeps {s0 s : State} (h : s0.Keeps s) (n : Nat) :
    s0.Keeps (State.seqHalt s n) := by
  unfold State.seqHalt
  try dsimp only
  repeat' (first | with_reducible assumption | with_reducible (first | apply State.raise_keeps | apply State.gwReleaseAll_keeps | apply State.enterSeq_keeps))

theorem State.wdogCfgChanged_keeps {s0 s : State} (h : s0.Keeps s) (n : Nat) (old : Word) :
    s0.Keeps (State.wdogCfgChanged s n old) := by
  unfold State.wdogCfgChanged
  try dsimp only
  repeat' (first | with_reducible assumption | with_reducible (first | apply State.setSq_keeps | apply State.Keeps.ite))

theorem State.seqSleep_keeps {s0 s : State} (h : s0.Keeps s) :
    s0.Keeps (State.seqSleep s) := by
  unfold State.seqSleep
  try dsimp only
  repeat' (first | with_reducible assumption | intro _ | with_reducible (first | apply State.setQ_keeps | apply State.gwReleaseAll_keeps | apply State.enterSeq_keeps | apply State.raise_keeps | apply State.bumpN_keeps | apply State.Keeps.foldl | apply State.Keeps.ite))

theorem State.tickWdog_keeps {s0 s : State} (h : s0.Keeps s) :
    s0.Keeps (State.tickWdog s) := by
  unfold State.tickWdog
  try dsimp only
  repeat' (first | with_reducible assumption | intro _ | with_reducible (first | apply State.setSq_keeps | apply State.Keeps.foldl | apply State.Keeps.ite))

theorem State.setTblW_keeps {s0 s : State} (h : s0.Keeps s) (a : Nat) (v : Nat) :
    s0.Keeps (State.setTblW s a v) := by
  unfold State.setTblW
  try dsimp only
  repeat' (first | (intro c; exact memPut_wf c.win _ _) | with_reducible assumption | with_reducible apply State.Keeps.win_upd)

theorem State.hpostReq_keeps {s0 s : State} (h : s0.Keeps s) (op : Nat) (arg : Nat) :
    s0.Keeps (State.hpostReq s op arg) := by
  unfold State.hpostReq
  try dsimp only
  repeat' (first | with_reducible assumption | with_reducible (first | apply State.mbxEnd_keeps | apply State.postTime_keeps | apply State.Keeps.ite))

theorem State.setAct_keeps {s0 s : State} (h : s0.Keeps s) (k : Nat) (x : ActSt) :
    s0.Keeps (State.setAct s k x) := by
  unfold State.setAct
  try dsimp only
  repeat' (first | (intro c; exact Cells.wf_set c.acts _ _) | with_reducible assumption | with_reducible apply State.Keeps.acts_upd)

theorem State.actReq_keeps {s0 s : State} (h : s0.Keeps s) (op : Nat) (arg : Nat) :
    s0.Keeps (State.actReq s op arg) := by
  unfold State.actReq
  try dsimp only
  repeat' (first | with_reducible assumption | with_reducible (first | apply State.setReg_keeps | apply State.setAct_keeps | apply State.setFs_keeps | apply State.setF_keeps | apply State.mbxEnd_keeps | apply State.Keeps.ite))

theorem State.actsEmpty_keeps {s0 s : State} (h : s0.Keeps s) :
    s0.Keeps (State.actsEmpty s) := by
  unfold State.actsEmpty
  try dsimp only
  repeat' (first | with_reducible assumption | intro _ | with_reducible (first | apply State.setReg_keeps | apply State.setAct_keeps | apply State.Keeps.foldl))

theorem State.qinspReq_keeps {s0 s : State} (h : s0.Keeps s) (arg : Nat) :
    s0.Keeps (State.qinspReq s arg) := by
  unfold State.qinspReq
  try dsimp only
  repeat' (first | with_reducible assumption | with_reducible (first | apply State.mbxFail_keeps | apply State.snap_keeps | apply State.Keeps.ite) | split)

theorem State.dbgReq_keeps {s0 s : State} (h : s0.Keeps s) (op : Nat) (arg : Nat) :
    s0.Keeps (State.dbgReq s op arg) := by
  unfold State.dbgReq
  try dsimp only
  repeat' (first | with_reducible assumption | with_reducible (first | apply State.mbxFail_keeps | apply State.snap_keeps | apply State.Keeps.ite) | split)

end Sys2Proof.Machine
end

