-- ==== Sys2Proof/Laws/KeepsRoles.lean ====
section
/-! SUPPORT. `State.Keeps` for the operations of Machine/Roles.lean. -/

namespace Sys2Proof.Machine

set_option linter.unusedTactic false
set_option linter.unreachableTactic false

theorem State.anchorDue_keeps {s0 s : State} (h : s0.Keeps s) :
    s0.Keeps (State.anchorDue s) := by
  unfold State.anchorDue
  try dsimp only
  repeat' (first | with_reducible assumption | with_reducible (first | apply State.Keeps.aud_upd | apply State.Keeps.ite | apply State.Keeps.ite_fst | apply State.Keeps.ite_snd | apply State.Keeps.foldl) | intro _ | split)

theorem State.setRoleAt_keeps {s0 s : State} (h : s0.Keeps s) (i : Nat) (r : Nat) (a : Nat) :
    s0.Keeps (State.setRoleAt s i r a) := by
  unfold State.setRoleAt
  try dsimp only
  repeat' (first | with_reducible assumption | with_reducible (first | apply State.setSess_keeps | apply State.audit_keeps | apply State.raise_keeps | apply State.Keeps.ite | apply State.Keeps.ite_fst | apply State.Keeps.ite_snd | apply State.Keeps.foldl) | intro _ | split)

theorem State.setRole_keeps {s0 s : State} (h : s0.Keeps s) (i : Nat) (r : Nat) :
    s0.Keeps (State.setRole s i r) := by
  unfold State.setRole
  try dsimp only
  repeat' (first | with_reducible assumption | with_reducible (first | apply State.setRoleAt_keeps | apply State.Keeps.ite | apply State.Keeps.ite_fst | apply State.Keeps.ite_snd | apply State.Keeps.foldl) | intro _ | split)

theorem State.endSessions_keeps {s0 s : State} (h : s0.Keeps s) :
    s0.Keeps (State.endSessions s) := by
  unfold State.endSessions
  try dsimp only
  repeat' (first | with_reducible assumption | intro _ | with_reducible (first | apply State.setRole_keeps | apply State.Keeps.foldl))

theorem State.chalReq_keeps {s0 s : State} (h : s0.Keeps s) (i : Nat) (op : Nat) (arg : Nat) :
    s0.Keeps (State.chalReq s i op arg) := by
  unfold State.chalReq
  try dsimp only
  repeat' (first | with_reducible assumption | with_reducible (first | apply State.mbxFail_keeps | apply State.setSess_keeps | apply State.fresh_keeps | apply State.snap_keeps | apply State.Keeps.ite) | split)

theorem State.authFail_keeps {s0 s : State} (h : s0.Keeps s) (i : Nat) (r : Nat) :
    s0.Keeps (State.authFail s i r) := by
  unfold State.authFail
  try dsimp only
  repeat' (first | with_reducible assumption | with_reducible (first | apply State.raise_keeps | apply State.setLock_keeps | apply State.Keeps.ite))

theorem State.respJudge_keeps {s0 s : State} (h : s0.Keeps s) (i : Nat) (resp : List Byte) :
    s0.Keeps (State.respJudge s i resp) := by
  unfold State.respJudge
  try dsimp only
  repeat' (first | with_reducible assumption | with_reducible (first | apply State.setSess_keeps | apply State.setLock_keeps | apply State.setRoleAt_keeps | apply State.authFail_keeps | apply State.Keeps.ite | apply State.Keeps.ite_fst | apply State.Keeps.ite_snd | apply State.Keeps.foldl) | intro _ | split)

theorem State.replaceSecret_keeps {s0 s : State} (h : s0.Keeps s) (r : Nat) (k : BitVec 256) :
    s0.Keeps (State.replaceSecret s r k) := by
  unfold State.replaceSecret
  dsimp only
  split
  · exact State.Keeps.fuse_upd h (Nat.le_succ _) (Nat.le_refl _) (fun l => ⟨Nat.le_refl _, l⟩)
  · exact State.Keeps.fuse_upd h (Nat.le_refl _) (Nat.le_succ _) (fun l => ⟨Nat.le_refl _, l⟩)

theorem State.respReq_keeps {s0 s : State} (h : s0.Keeps s) (i : Nat) (op : Nat) (arg : Nat) :
    s0.Keeps (State.respReq s i op arg) := by
  unfold State.respReq
  try dsimp only
  repeat' (first | with_reducible assumption | with_reducible (first | apply State.respJudge_keeps | apply State.replaceSecret_keeps | apply State.mbxEnd_keeps | apply State.Keeps.ite))

theorem State.roleLeave_keeps {s0 s : State} (h : s0.Keeps s) (i : Nat) :
    s0.Keeps (State.roleLeave s i) := by
  unfold State.roleLeave
  try dsimp only
  repeat' (first | with_reducible assumption | with_reducible (first | apply State.setRoleAt_keeps | apply State.Keeps.ite | apply State.Keeps.ite_fst | apply State.Keeps.ite_snd | apply State.Keeps.foldl) | intro _ | split)

theorem State.lcRequest_keeps {s0 s : State} (h : s0.Keeps s) (i : Nat) (t : Nat) :
    s0.Keeps (State.lcRequest s i t) := by
  unfold State.lcRequest
  dsimp only
  have ha := State.audit_keeps h 3 (s.sessOf i).role i ROL_LC_REQ.a s.fuse.state t
  split
  · rename_i hp
    refine State.Keeps.fuse_upd ha (Nat.le_refl _) (Nat.le_refl _) (fun l => ⟨Nat.le_refl _, ?_⟩)
    show (s.audit 3 (s.sessOf i).role i ROL_LC_REQ.a s.fuse.state t).fuse.state ≤ t
    rw [State.audit_fuse]
    simp [State.lcPath] at hp
    omega
  · exact State.raise_keeps ha _ _ _

theorem State.audReq_keeps {s0 s : State} (h : s0.Keeps s) (op : Nat) (arg : Nat) :
    s0.Keeps (State.audReq s op arg) := by
  unfold State.audReq
  try dsimp only
  repeat' (first | with_reducible assumption | with_reducible (first | apply State.mbxFail_keeps | apply State.snap_keeps | apply State.Keeps.ite))

theorem State.chalExpiry_keeps {s0 s : State} (h : s0.Keeps s) (i : Nat) :
    s0.Keeps (State.chalExpiry s i) := by
  unfold State.chalExpiry
  try dsimp only
  repeat' (first | with_reducible assumption | with_reducible (first | apply State.setSess_keeps | apply State.Keeps.ite))

theorem State.lockoutEnd_keeps {s0 s : State} (h : s0.Keeps s) (r : Nat) :
    s0.Keeps (State.lockoutEnd s r) := by
  unfold State.lockoutEnd
  try dsimp only
  repeat' (first | with_reducible assumption | with_reducible (first | apply State.setLock_keeps | apply State.Keeps.ite))

end Sys2Proof.Machine
end

