-- ==== Sys2Proof/Laws/KeepsPwr.lean ====
section
/-! SUPPORT. `State.Keeps` for the operations of Machine/Pwr.lean. -/

namespace Sys2Proof.Machine

set_option linter.unusedTactic false
set_option linter.unreachableTactic false

theorem State.setPwr_keeps {s0 s : State} (h : s0.Keeps s) (p : PwrSt) :
    s0.Keeps (State.setPwr s p) := by
  unfold State.setPwr
  try dsimp only
  repeat' (first | with_reducible assumption | with_reducible apply State.Keeps.pwr_upd)

theorem State.setInh_keeps {s0 s : State} (h : s0.Keeps s) (v : Nat) :
    s0.Keeps (State.setInh s v) := by
  unfold State.setInh
  try dsimp only
  repeat' (first | with_reducible assumption | with_reducible (first | apply State.emit_keeps | apply State.setPwr_keeps | apply State.Keeps.ite))

theorem State.sleepAbort_keeps {s0 s : State} (h : s0.Keeps s) (k : Nat) :
    s0.Keeps (State.sleepAbort s k) := by
  unfold State.sleepAbort
  try dsimp only
  repeat' (first | with_reducible assumption | with_reducible (first | apply State.setFs_keeps | apply State.setF_keeps | apply State.setPwr_keeps | apply State.raise_keeps | apply State.Keeps.ite | apply State.Keeps.ite_fst | apply State.Keeps.ite_snd | apply State.Keeps.foldl) | intro _ | split)

theorem State.wakeStart_keeps {s0 s : State} (h : s0.Keeps s) (k : Nat) (t : Nat) :
    s0.Keeps (State.wakeStart s k t) := by
  unfold State.wakeStart
  try dsimp only
  repeat' (first | with_reducible assumption | (intro c; with_reducible exact Cells.wf_set c.win _ _) | (intro c; with_reducible exact memPut_wf c.win _ _) | (intro c; with_reducible exact c.win) | with_reducible (first | apply State.setPwr_keeps | apply State.setF_keeps | apply State.setInh_keeps | apply State.Keeps.win_upd | apply State.Keeps.ite | apply State.Keeps.ite_fst | apply State.Keeps.ite_snd | apply State.Keeps.foldl) | intro _ | split)

theorem State.wakeFirst_keeps {s0 s : State} (h : s0.Keeps s) (k : Nat) :
    s0.Keeps (State.wakeFirst s k) := by
  unfold State.wakeFirst
  try dsimp only
  repeat' (first | with_reducible assumption | with_reducible (first | apply State.setPwr_keeps | apply State.setF_keeps | apply State.Keeps.ite | apply State.Keeps.ite_fst | apply State.Keeps.ite_snd | apply State.Keeps.foldl) | intro _ | split)

theorem State.wakeLate_keeps {s0 s : State} (h : s0.Keeps s) (k : Nat) :
    s0.Keeps (State.wakeLate s k) := by
  unfold State.wakeLate
  try dsimp only
  repeat' (first | with_reducible assumption | with_reducible (first | apply State.setPwr_keeps | apply State.Keeps.ite | apply State.Keeps.ite_fst | apply State.Keeps.ite_snd | apply State.Keeps.foldl) | intro _ | split)

theorem State.wakeLatch_keeps {s0 s : State} (h : s0.Keeps s) (k : Nat) :
    s0.Keeps (State.wakeLatch s k) := by
  unfold State.wakeLatch
  try dsimp only
  repeat' (first | with_reducible assumption | with_reducible (first | apply State.bump_keeps | apply State.sleepAbort_keeps | apply State.setF_keeps | apply State.wakeLate_keeps | apply State.wakeStart_keeps | apply State.wakeFirst_keeps | apply State.raise_keeps | apply State.Keeps.ite | apply State.Keeps.ite_fst | apply State.Keeps.ite_snd | apply State.Keeps.foldl) | intro _ | split)

theorem State.sleepReq_keeps {s0 s : State} (h : s0.Keeps s) :
    s0.Keeps (State.sleepReq s) := by
  unfold State.sleepReq
  try dsimp only
  repeat' (first | with_reducible assumption | intro _ | with_reducible (first | apply State.raise_keeps | apply State.setF_keeps | apply State.setFs_keeps | apply State.setPwr_keeps | apply State.wakeLatch_keeps | apply State.Keeps.foldl | apply State.Keeps.ite) | split)

theorem State.busSleep_keeps {s0 s : State} (h : s0.Keeps s) :
    s0.Keeps (State.busSleep s) := by
  have key : ∀ (l24 l32 l64 : List Nat), s0.Keeps
      (let s2 := l32.foldl (fun (u : State) b => u.setBatch b { u.batchOf b with acf := [], count := 0, first := 0, refs := [] })
        (l24.foldl (fun (u : State) c => (l64.foldl (fun (u : State) b => if u.txPend c b then u.setW3 c b 0 0 2 else u) u).setCan c {}) s)
      { s2 with msgs := [], inq := [], held := [], sealedQ := [], lin := [] }) := by
    intro l24 l32 l64
    have h2 := State.Keeps.foldl (l := l32) (f := fun (u : State) b => u.setBatch b { u.batchOf b with acf := [], count := 0, first := 0, refs := [] })
      (State.Keeps.foldl (l := l24) (f := fun (u : State) c => (l64.foldl (fun (u : State) b => if u.txPend c b then u.setW3 c b 0 0 2 else u) u).setCan c {}) h
        (fun u x hu => State.setCan_keeps (State.Keeps.foldl hu (fun w y hw => State.Keeps.ite (State.setW3_keeps hw _ _ _ _ _) hw)) _ _))
      (fun u x hu => State.setBatch_keeps hu _ _)
    exact State.Keeps.upd h2 rfl rfl (Nat.le_refl _) (List.suffix_refl _) rfl (fun c => { c with inq := rfl, held := rfl, lin := rfl })
  exact key (List.range 24) (List.range 32) (List.range 64)

theorem State.tablesSleep_keeps {s0 s : State} (h : s0.Keeps s) :
    s0.Keeps (State.tablesSleep s) := by
  unfold State.tablesSleep
  try dsimp only
  repeat' (first | with_reducible assumption | intro _ | with_reducible (first | apply State.setFdb_keeps | apply State.setPp_keeps | apply State.Keeps.foldl | apply State.Keeps.ite) | split)

theorem State.pinsLow_keeps {s0 s : State} (h : s0.Keeps s) :
    s0.Keeps (State.pinsLow s) := by
  unfold State.pinsLow
  extract_lets s1 s2
  have h1 : s0.Keeps s1 := State.Keeps.foldl h (fun _ _ hu => State.Keeps.ite (State.emit_keeps hu _) hu)
  have h2 : s0.Keeps s2 := State.Keeps.foldl h1 (fun _ _ hu => State.Keeps.ite hu (State.emit_keeps hu _))
  exact State.Keeps.ite (State.emit_keeps h2 _) h2

theorem State.coreSleep_keeps {s0 s : State} (h : s0.Keeps s) :
    s0.Keeps (State.coreSleep s) := by
  exact State.Keeps.upd h rfl rfl (Nat.le_refl _) (List.suffix_refl _) rfl (fun c => { c with
    bankUse := rfl, bankPtr := rfl, ports := rfl, credit := rfl, wfq := rfl, wfqV := rfl, meters := rfl, mib := rfl, cipMib := rfl
    ringPtr := rfl, fre := rfl, latch := rfl, phs := rfl, sync := rfl, guards := rfl, sram := rfl, pcieCfg := rfl, pcieTbl := rfl })
    (fun _ => ⟨fun _ h => absurd h List.not_mem_nil, fun _ h => absurd h List.not_mem_nil, List.nodup_nil, List.nodup_nil⟩)

theorem State.keepRegs_keeps {s0 s : State} (h : s0.Keeps s) (keep : Nat → Word) :
    s0.Keeps (State.keepRegs s keep) := by
  unfold State.keepRegs
  exact State.Keeps.regs_upd h (fun _ => Cells.wf_foldl _ _ _ (Cells.wf_nil _) (fun _ _ hm => Cells.wf_set hm _ _))

theorem State.sleepCommit_keeps {s0 s : State} (h : s0.Keeps s) (parked : Bool) :
    s0.Keeps (State.sleepCommit s parked) := by
  unfold State.sleepCommit
  try dsimp only
  repeat' (first | with_reducible assumption | with_reducible (first | apply State.pairOff_keeps | apply State.seqSleep_keeps | apply State.actsEmpty_keeps | apply State.busSleep_keeps | apply State.tablesSleep_keeps | apply State.pinsLow_keeps | apply State.coreSleep_keeps | apply State.keepRegs_keeps | apply State.setF_keeps | apply State.setFs_keeps | apply State.setPwr_keeps | apply State.Keeps.ite | apply State.Keeps.ite_fst | apply State.Keeps.ite_snd | apply State.Keeps.foldl) | intro _ | split)

theorem State.parkDone_keeps {s0 s : State} (h : s0.Keeps s) :
    s0.Keeps (State.parkDone s) := by
  unfold State.parkDone
  try dsimp only
  repeat' (first | with_reducible assumption | with_reducible (first | apply State.sleepCommit_keeps | apply State.Keeps.ite))

theorem State.prepTimeout_keeps {s0 s : State} (h : s0.Keeps s) :
    s0.Keeps (State.prepTimeout s) := by
  unfold State.prepTimeout
  try dsimp only
  repeat' (first | with_reducible assumption | with_reducible (first | apply State.sleepCommit_keeps | apply State.raise_keeps | apply State.Keeps.ite))

theorem State.descendDone_keeps {s0 s : State} (h : s0.Keeps s) :
    s0.Keeps (State.descendDone s) := by
  unfold State.descendDone
  try dsimp only
  repeat' (first | with_reducible assumption | with_reducible (first | apply State.setFs_keeps | apply State.setInh_keeps | apply State.wakeStart_keeps | apply State.Keeps.ite | apply State.Keeps.ite_fst | apply State.Keeps.ite_snd | apply State.Keeps.foldl) | intro _ | split)

theorem State.wakeInPin_keeps {s0 s : State} (h : s0.Keeps s) (k : Nat) (level : Bool) (held : Nat) :
    s0.Keeps (State.wakeInPin s k level held) := by
  unfold State.wakeInPin
  try dsimp only
  repeat' (first | with_reducible assumption | with_reducible (first | apply State.setPwr_keeps | apply State.wakeLatch_keeps | apply State.Keeps.ite))

theorem State.wupDetect_keeps {s0 s : State} (h : s0.Keeps s) (k : Nat) :
    s0.Keeps (State.wupDetect s k) := by
  unfold State.wupDetect
  try dsimp only
  repeat' (first | with_reducible assumption | with_reducible (first | apply State.raise_keeps | apply State.wakeLatch_keeps | apply State.Keeps.ite))

theorem State.aonTimer_keeps {s0 s : State} (h : s0.Keeps s) :
    s0.Keeps (State.aonTimer s) := by
  unfold State.aonTimer
  try dsimp only
  repeat' (first | with_reducible assumption | with_reducible (first | apply State.wakeLatch_keeps | apply State.setPwr_keeps | apply State.Keeps.ite))

theorem State.wakeNow_keeps {s0 s : State} (h : s0.Keeps s) :
    s0.Keeps (State.wakeNow s) := by
  unfold State.wakeNow
  try dsimp only
  repeat' (first | with_reducible assumption | with_reducible (first | apply State.wakeLatch_keeps | apply State.Keeps.ite))

theorem State.canFrame_keeps {s0 s : State} (h : s0.Keeps s) (c : Nat) (r : CanRx) :
    s0.Keeps (State.canFrame s c r) := by
  unfold State.canFrame
  try dsimp only
  repeat' (first | with_reducible assumption | with_reducible (first | apply State.canIgnored_keeps | apply State.wakeLatch_keeps | apply State.canReceive_keeps | apply State.Keeps.ite) | split)

theorem State.powerGood_keeps {s0 s : State} (h : s0.Keeps s) :
    s0.Keeps (State.powerGood s) := by
  unfold State.powerGood
  try dsimp only
  repeat' (first | with_reducible assumption | with_reducible (first | apply State.setPwr_keeps | apply State.Keeps.ite))

theorem State.raiseLater_keeps {s0 s : State} (h : s0.Keeps s) :
    s0.Keeps (State.raiseLater s) := by
  unfold State.raiseLater
  try dsimp only
  repeat' (first | with_reducible assumption | intro _ | with_reducible (first | apply State.setPwr_keeps | apply State.raise_keeps | apply State.Keeps.foldl))

theorem State.pllLocked_keeps {s0 s : State} (h : s0.Keeps s) :
    s0.Keeps (State.pllLocked s) := by
  unfold State.pllLocked
  extract_lets d t q s1 s2 t2 s3 s4 s5
  have h1 : s0.Keeps s1 := State.Keeps.upd (State.fresh_keeps h) rfl rfl (Nat.le_refl _) (List.suffix_refl _) rfl (fun c => { c with })
  have h2 : s0.Keeps s2 := State.wktSettle_keeps (State.domLose_keeps (State.domLose_keeps h1 0) 1)
  have h4 : s0.Keeps s4 := State.raiseLater_keeps (State.Keeps.tim_upd h2)
  have h5 : s0.Keeps s5 := by
    show s0.Keeps (match s.pwr.lateSrc with
      | some k => s4.raise 55 3 k
      | none => s4.raise 55 1 (fldGet (s.reg PWR_STAT.a) PWR_STAT.first_src))
    split <;> exact State.raise_keeps h4 _ _ _
  exact State.Keeps.ite (State.setPwr_keeps h5 _) h

theorem State.tablesWake_keeps {s0 s : State} (h : s0.Keeps s) (k : Nat) :
    s0.Keeps (State.tablesWake s k) := by
  unfold State.tablesWake
  dsimp only
  refine State.Keeps.foldl (State.Keeps.fdb_upd h (fun _ => Cells.wf_foldl _ _ _ (Cells.wf_nil _) (fun _ _ hm => Cells.wf_set hm _ _))) ?_
  exact fun u x hu => State.setPp_keeps hu _ _

theorem State.pipesReady_keeps {s0 s : State} (h : s0.Keeps s) :
    s0.Keeps (State.pipesReady s) := by
  unfold State.pipesReady
  try dsimp only
  repeat' (first | with_reducible assumption | intro _ | with_reducible (first | apply State.tablesWake_keeps | apply State.setF_keeps | apply State.setPwr_keeps | apply State.portEnable_keeps | apply State.seqStart_keeps | apply State.phEnable_keeps | apply State.pairInit_keeps | apply State.raiseLater_keeps | apply State.emit_keeps | apply State.Keeps.foldl | apply State.Keeps.ite))

theorem State.partialChanged_keeps {s0 s : State} (h : s0.Keeps s) (old : Nat) :
    s0.Keeps (State.partialChanged s old) := by
  unfold State.partialChanged
  try dsimp only
  repeat' (first | with_reducible assumption | intro _ | with_reducible (first | apply State.setPwr_keeps | apply State.setF_keeps | apply State.portDisable_keeps | apply State.portEnable_keeps | apply State.Keeps.foldl | apply State.Keeps.ite))

theorem State.wispCount_keeps {s0 s : State} (h : s0.Keeps s) (k : Nat) :
    s0.Keeps (State.wispCount s k) := by
  unfold State.wispCount
  try dsimp only
  repeat' (first | with_reducible assumption | with_reducible (first | apply State.setF_keeps | apply State.raiseAon_keeps | apply State.setPwr_keeps | apply State.Keeps.ite))

theorem State.wispEnd_keeps {s0 s : State} (h : s0.Keeps s) :
    s0.Keeps (State.wispEnd s) := by
  unfold State.wispEnd
  try dsimp only
  repeat' (first | with_reducible assumption | with_reducible (first | apply State.wispCount_keeps | apply State.setPwr_keeps | apply State.Keeps.ite) | split)

theorem State.wakeValid_keeps {s0 s : State} (h : s0.Keeps s) :
    s0.Keeps (State.wakeValid s) := by
  unfold State.wakeValid
  try dsimp only
  repeat' (first | with_reducible assumption | with_reducible (first | apply State.setF_keeps | apply State.setPwr_keeps | apply State.Keeps.ite) | split)

theorem State.wakeInChanged_keeps {s0 s : State} (h : s0.Keeps s) (k : Nat) (old : Word) :
    s0.Keeps (State.wakeInChanged s k old) := by
  unfold State.wakeInChanged
  try dsimp only
  repeat' (first | with_reducible assumption | with_reducible (first | apply State.setPwr_keeps | apply State.Keeps.ite | apply State.Keeps.ite_fst | apply State.Keeps.ite_snd | apply State.Keeps.foldl) | intro _ | split)

theorem State.wispUnmask_keeps {s0 s : State} (h : s0.Keeps s) (k : Nat) :
    s0.Keeps (State.wispUnmask s k) := by
  unfold State.wispUnmask
  try dsimp only
  repeat' (first | with_reducible assumption | with_reducible (first | apply State.raiseAon_keeps | apply State.setFs_keeps | apply State.Keeps.ite))

theorem State.pwrCtrl_keeps {s0 s : State} (h : s0.Keeps s) (w : Word) :
    s0.Keeps (State.pwrCtrl s w) := by
  unfold State.pwrCtrl
  try dsimp only
  repeat' (first | with_reducible assumption | intro _ | with_reducible (first | apply State.sleepReq_keeps | apply State.parkDone_keeps | apply State.wakeNow_keeps | apply State.setInh_keeps | apply State.wakeValid_keeps | apply State.Keeps.ite))

end Sys2Proof.Machine
end

