-- ==== Sys2Proof/Laws/KeepsBoot.lean ====
section
/-! SUPPORT. `State.Keeps` for the operations of Machine/Boot.lean. -/

namespace Sys2Proof.Machine

set_option linter.unusedTactic false
set_option linter.unreachableTactic false

theorem State.setBoot_keeps {s0 s : State} (h : s0.Keeps s) (b : BootSt) :
    s0.Keeps (State.setBoot s b) := by
  unfold State.setBoot
  try dsimp only
  repeat' (first | with_reducible assumption | with_reducible apply State.Keeps.boot_upd)

theorem State.flashReq_keeps {s0 s : State} (h : s0.Keeps s) (op : Nat) (arg : Nat) :
    s0.Keeps (State.flashReq s op arg) := by
  unfold State.flashReq
  try dsimp only
  repeat' (first | with_reducible assumption | with_reducible (first | apply State.mbxEnd_keeps | apply State.raise_keeps | apply State.setBoot_keeps | apply State.Keeps.ite) | split)

theorem State.flashScramble_keeps {s0 s : State} (h : s0.Keeps s) (a : Nat) (x2 : Nat) :
    s0.Keeps (State.flashScramble s a x2) := by
  induction x2 generalizing s a with
  | zero => exact h
  | succ n ih => unfold State.flashScramble; exact ih (State.Keeps.flash_upd (State.fresh_keeps h) (fun c => memPut_wf c.flash _ _)) _

theorem State.flashBroken_keeps {s0 s : State} (h : s0.Keeps s) :
    s0.Keeps (State.flashBroken s) := by
  unfold State.flashBroken
  try dsimp only
  repeat' (first | with_reducible assumption | with_reducible (first | apply State.flashScramble_keeps | apply State.Keeps.ite))

theorem State.flashApply_keeps {s0 s : State} (h : s0.Keeps s) :
    s0.Keeps (State.flashApply s) := by
  unfold State.flashApply
  try dsimp only
  repeat' (first | (intro c; first | exact Cells.wf_clear c.flash _ _ | exact memPut_wf c.flash _ _) | with_reducible assumption | with_reducible apply State.Keeps.ite | with_reducible apply State.Keeps.flash_upd)

theorem State.flashDone_keeps {s0 s : State} (h : s0.Keeps s) (ok : Bool) (again : Bool) :
    s0.Keeps (State.flashDone s ok again) := by
  unfold State.flashDone
  try dsimp only
  repeat' (first | with_reducible assumption | with_reducible (first | apply State.flashApply_keeps | apply State.flashBroken_keeps | apply State.mbxEnd_keeps | apply State.setBoot_keeps | apply State.setF_keeps | apply State.Keeps.ite))

theorem State.bvGo_keeps {s0 s : State} (h : s0.Keeps s) :
    s0.Keeps (State.bvGo s) := by
  unfold State.bvGo
  try dsimp only
  repeat' (first | with_reducible assumption | with_reducible (first | apply State.setFs_keeps | apply State.Keeps.ite))

theorem State.bootFlash_keeps {s0 s : State} (h : s0.Keeps s) :
    s0.Keeps (State.bootFlash s) := by
  unfold State.bootFlash
  try dsimp only
  repeat' (first | with_reducible assumption | with_reducible (first | apply State.setBoot_keeps | apply State.Keeps.ite))

theorem State.resetRelease_keeps {s0 s : State} (h : s0.Keeps s) (pins : Nat) :
    s0.Keeps (State.resetRelease s pins) := by
  unfold State.resetRelease
  extract_lets dev mode s1 b s2
  have h1 : s0.Keeps s1 := State.setFs_keeps h _ _
  have h2 : s0.Keeps s2 :=
    State.raiseIf_keeps (State.setBoot_keeps (State.Keeps.ite (State.ageStart_keeps h1) h1) _) _ _ _ _
  exact State.Keeps.ite h (State.Keeps.ite (State.setBoot_keeps h2 _)
    (State.Keeps.ite (State.setBoot_keeps h2 _) (State.bootFlash_keeps h2)))

theorem State.bootStart_keeps {s0 s : State} (h : s0.Keeps s) (rd : Nat → Nat → List Byte) (result : Nat) :
    s0.Keeps (State.bootStart s rd result) := by
  unfold State.bootStart
  try dsimp only
  repeat' (first | with_reducible assumption | with_reducible (first | apply State.setF_keeps | apply State.sramWrite_keeps | apply State.setRole_keeps | apply State.carrStart_keeps | apply State.setBoot_keeps))

theorem State.noImage_keeps {s0 s : State} (h : s0.Keeps s) :
    s0.Keeps (State.noImage s) := by
  unfold State.noImage
  try dsimp only
  repeat' (first | with_reducible assumption | with_reducible (first | apply State.setF_keeps | apply State.raise_keeps | apply State.setBoot_keeps))

theorem State.bootVerify_keeps {s0 s : State} (h : s0.Keeps s) :
    s0.Keeps (State.bootVerify s) := by
  unfold State.bootVerify
  try dsimp only
  repeat' (first | with_reducible assumption | with_reducible (first | apply State.raise_keeps | apply State.bootStart_keeps | apply State.setBoot_keeps | apply State.noImage_keeps | apply State.setF_keeps | apply State.emit_keeps | apply State.Keeps.ite))

theorem State.hostGo_keeps {s0 s : State} (h : s0.Keeps s) :
    s0.Keeps (State.hostGo s) := by
  unfold State.hostGo
  try dsimp only
  repeat' (first | with_reducible assumption | with_reducible (first | apply State.setBoot_keeps | apply State.Keeps.ite))

theorem State.uartBlock_keeps {s0 s : State} (h : s0.Keeps s) (data : List Byte) (crc : Nat) :
    s0.Keeps (State.uartBlock s data crc) := by
  unfold State.uartBlock
  try dsimp only
  repeat' (first | with_reducible assumption | with_reducible (first | apply State.setBoot_keeps | apply State.emit_keeps | apply State.Keeps.ite))

theorem State.uartGap_keeps {s0 s : State} (h : s0.Keeps s) :
    s0.Keeps (State.uartGap s) := by
  unfold State.uartGap
  try dsimp only
  repeat' (first | with_reducible assumption | with_reducible (first | apply State.emit_keeps | apply State.setBoot_keeps | apply State.Keeps.ite))

theorem State.uartBeacon_keeps {s0 s : State} (h : s0.Keeps s) :
    s0.Keeps (State.uartBeacon s) := by
  unfold State.uartBeacon
  try dsimp only
  repeat' (first | with_reducible assumption | with_reducible (first | apply State.emit_keeps | apply State.setBoot_keeps | apply State.Keeps.ite) | split)

theorem State.bootSessEnd_keeps {s0 s : State} (h : s0.Keeps s) :
    s0.Keeps (State.bootSessEnd s) := by
  unfold State.bootSessEnd
  try dsimp only
  repeat' (first | with_reducible assumption | with_reducible (first | apply State.setBoot_keeps | apply State.setRole_keeps | apply State.Keeps.ite))

theorem State.loadDone_keeps {s0 s : State} (h : s0.Keeps s) :
    s0.Keeps (State.loadDone s) := by
  unfold State.loadDone
  try dsimp only
  repeat' (first | with_reducible assumption | with_reducible (first | apply State.setFs_keeps | apply State.bootSessEnd_keeps | apply State.setBoot_keeps | apply State.Keeps.ite))

theorem State.bootSessTimeout_keeps {s0 s : State} (h : s0.Keeps s) :
    s0.Keeps (State.bootSessTimeout s) := by
  unfold State.bootSessTimeout
  try dsimp only
  repeat' (first | with_reducible assumption | with_reducible (first | apply State.bootSessEnd_keeps | apply State.Keeps.ite) | split)

theorem State.updNote_keeps {s0 s : State} (h : s0.Keeps s) (i : Nat) (w : Word) :
    s0.Keeps (State.updNote s i w) := by
  unfold State.updNote
  try dsimp only
  repeat' (first | with_reducible assumption | with_reducible apply State.raiseIf_keeps)

theorem State.rstCause_keeps {s0 s : State} (h : s0.Keeps s) (k : Nat) :
    s0.Keeps (State.rstCause s k) := by
  unfold State.rstCause
  try dsimp only
  repeat' (first | with_reducible assumption | with_reducible apply State.setReg_keeps)

theorem State.devScope_keeps {s0 sa : State} (h : s0.Keeps sa) (kind : Nat) (aon : Bool) :
    s0.Keeps (State.devScope sa kind aon) := by
  unfold State.devScope
  dsimp only
  have h1 := State.pinsLow_keeps (State.endSessions_keeps (State.flashBroken_keeps h))
  generalize sa.flashBroken.endSessions.pinsLow = s at *
  have hf : ∀ f : RoleFuse, (f.apply.instUsed = f.instUsed ∧ f.apply.operUsed = f.operUsed) ∧
      (f.state ≤ f.target → f.state ≤ f.apply.state ∧ f.apply.state ≤ f.apply.target) := by
    intro f; unfold RoleFuse.apply; split
    · exact ⟨⟨rfl, rfl⟩, fun l => ⟨Nat.le_refl _, l⟩⟩
    · exact ⟨⟨rfl, rfl⟩, fun l => ⟨l, Nat.le_refl _⟩⟩
  refine h1.trans ⟨rfl, rfl, Nat.le_refl _, List.suffix_refl _, ?_, ?_, ?_, ?_,
    fun _ => ⟨fun _ h => absurd h List.not_mem_nil, fun _ h => absurd h List.not_mem_nil, List.nodup_nil, List.nodup_nil⟩⟩
  · dsimp only; split <;> simp [(hf s.fuse).1]
  · dsimp only; split <;> simp [(hf s.fuse).1]
  · intro l
    unfold State.LifecycleOk at *
    dsimp only
    split
    · exact (hf s.fuse).2 l
    · exact ⟨Nat.le_refl _, l⟩
  · intro c
    have hr : Cells.wf resetOf (if kind = 0 then ([] : Cells Word) else Cells.keep keepReset s.regs) = true := by
      split
      · rfl
      · exact Cells.wf_keep c.regs _
    have hl : Cells.wf (fun _ => ({} : RoleLock)) (if aon = true then ([] : Cells RoleLock) else s.lock) = true := by
      split
      · rfl
      · exact c.lock
    constructor <;> first | rfl | exact Cells.wf_set hr _ _ | exact hl | exact c.phLev | exact c.flash

theorem State.carrForget_keeps {s0 s : State} (h : s0.Keeps s) :
    s0.Keeps (State.carrForget s) := by
  unfold State.carrForget
  try dsimp only
  repeat' (first | with_reducible assumption | with_reducible (first | apply State.setReg_keeps | apply State.Keeps.ite | apply State.Keeps.ite_fst | apply State.Keeps.ite_snd | apply State.Keeps.foldl) | intro _ | split)

theorem State.devReset_keeps {s0 s : State} (h : s0.Keeps s) (kind : Nat) (aon : Bool) :
    s0.Keeps (State.devReset s kind aon) := by
  unfold State.devReset
  try dsimp only
  repeat' (first | with_reducible assumption | with_reducible (first | apply State.carrForget_keeps | apply State.devScope_keeps | apply State.setFs_keeps | apply State.setF_keeps | apply State.rstCause_keeps | apply State.setInh_keeps | apply State.Keeps.ite | apply State.Keeps.ite_fst | apply State.Keeps.ite_snd | apply State.Keeps.foldl) | intro _ | split)

theorem State.carrReset_keeps {s0 s : State} (h : s0.Keeps s) (bit : Nat) :
    s0.Keeps (State.carrReset s bit) := by
  unfold State.carrReset
  apply State.Keeps.ite h
  dsimp only
  apply State.raiseIf_keeps
  apply State.setBoot_keeps
  apply State.setF_keeps
  apply State.setReg_keeps
  have h1 := State.rstCause_keeps (State.anchorDue_keeps (State.endSessions_keeps h)) bit
  generalize s.endSessions.anchorDue.rstCause bit = s1 at *
  exact State.Keeps.upd h1 rfl rfl (Nat.le_refl _) (List.suffix_refl _) rfl (fun c => { c with sram := rfl })

theorem State.pcieReset_keeps {s0 s : State} (h : s0.Keeps s) (hot : Bool) :
    s0.Keeps (State.pcieReset s hot) := by
  unfold State.pcieReset
  have hu : s0.Keeps (s.endSessions.anchorDue.rstCause 6).ringsOff :=
    State.ringsOff_keeps (State.rstCause_keeps (State.anchorDue_keeps (State.endSessions_keeps h)) _)
  generalize (s.endSessions.anchorDue.rstCause 6).ringsOff = u at hu ⊢
  extract_lets u0 p v s1
  have hv : s0.Keeps v := State.Keeps.pcie_upd hu
    (fun c => by
      show Cells.wf cfgReset (if hot = true then u.pcie.cfg.filter (fun e => e.1 == 0x104) else []) = true
      split
      · exact Cells.wfFrom_filter _ _ _ _ c.pcieCfg
      · exact Cells.wf_nil _)
    (fun _ => Cells.wf_nil _)
  have h1 : s0.Keeps s1 := State.Keeps.ite (State.raise_keeps (State.pcieLink_keeps hv _ _) _ _ _) h
  exact State.Keeps.ite h1 (State.wakeLatch_keeps h1 _)

theorem State.parkImage_wf {s : State} (h : Cells.wf (fun _ => 0#8) s.dram = true) : Cells.wf (fun _ => 0#8) s.parkImage = true :=
  Cells.wf_move 0#8 s.dram _ _ _ h

theorem State.carrResume_keeps {s0 s : State} (h : s0.Keeps s) (ecc : Bool) :
    s0.Keeps (State.carrResume s ecc) := by
  unfold State.carrResume
  split
  · exact h
  dsimp only
  split
  · apply State.carrStart_keeps
    exact State.Keeps.sram_upd (State.setPwr_keeps h _) (fun c => State.parkImage_wf c.dram)
  · exact State.bootFlash_keeps (State.raiseIf_keeps (State.setPwr_keeps h _) _ _ _ _)

end Sys2Proof.Machine
end

