-- ==== Sys2Proof/Laws/KeepsPcie.lean ====
section
/-! SUPPORT. `State.Keeps` for the operations of Machine/Pcie.lean. -/

namespace Sys2Proof.Machine

set_option linter.unusedTactic false
set_option linter.unreachableTactic false

theorem State.setPcie_keeps {s0 s : State} (h : s0.Keeps s) (p : PcieSt) (hc : s.Canonical → Cells.wf cfgReset p.cfg = true)
    (ht : s.Canonical → Cells.wf msixReset p.tbl = true) : s0.Keeps (State.setPcie s p) :=
  State.Keeps.pcie_upd h hc ht

theorem State.msixUnmask_keeps {s0 s : State} (h : s0.Keeps s) (n : Nat) :
    s0.Keeps (State.msixUnmask s n) := by
  unfold State.msixUnmask
  extract_lets p u
  have hu : s0.Keeps u := State.setPcie_keeps h _ (fun c => c.pcieCfg) (fun c => c.pcieTbl)
  exact State.Keeps.ite (State.Keeps.ite (State.deliver_keeps hu _) hu) h

theorem State.cfgWrite_keeps {s0 s : State} (h : s0.Keeps s) (o : Nat) (k : Nat) (n : Nat) (v : Nat) :
    s0.Keeps (State.cfgWrite s o k n v) := by
  unfold State.cfgWrite
  split
  · exact h
  · extract_lets old new p
    exact State.Keeps.ite h (State.setPcie_keeps h _ (fun c => Cells.wf_set c.pcieCfg _ _) (fun c => c.pcieTbl))

theorem State.bar2Write_keeps {s0 s : State} (h : s0.Keeps s) (o : Nat) (k : Nat) (n : Nat) (v : Nat) :
    s0.Keeps (State.bar2Write s o k n v) := by
  unfold State.bar2Write
  extract_lets j m p w
  exact State.Keeps.ite h (State.setPcie_keeps h _ (fun c => c.pcieCfg) (fun c => Cells.wf_set c.pcieTbl _ _))

theorem State.pciePut_keeps {s0 s : State} (h : s0.Keeps s) (a : Nat) (k : Nat) (n : Nat) (v : Nat) :
    s0.Keeps (State.pciePut s a k n v) := by
  unfold State.pciePut
  try dsimp only
  repeat' (first | with_reducible assumption | with_reducible intro _ | with_reducible (first | apply State.bar2Write_keeps | apply State.cfgWrite_keeps | apply State.Keeps.ite | apply State.Keeps.ite_fst | apply State.Keeps.ite_snd | apply State.Keeps.foldl) | split)

theorem State.pcieWrite_keeps {s0 s : State} (h : s0.Keeps s) (a : Nat) (n : Nat) (v : Nat) :
    s0.Keeps (State.pcieWrite s a n v) := by
  unfold State.pcieWrite
  try dsimp only
  repeat' (first | with_reducible assumption | with_reducible intro _ | with_reducible (first | apply State.pciePut_keeps | apply State.msixUnmask_keeps | apply State.Keeps.ite | apply State.Keeps.ite_fst | apply State.Keeps.ite_snd | apply State.Keeps.foldl) | split)

end Sys2Proof.Machine
end

