-- ==== Sys2Proof/Laws/KeepsJtag.lean ====
section
/-! SUPPORT. `State.Keeps` for the operations of Machine/Jtag.lean. -/

namespace Sys2Proof.Machine

set_option linter.unusedTactic false
set_option linter.unreachableTactic false

theorem State.setJtag_keeps {s0 s : State} (h : s0.Keeps s) (x : JtagSt) :
    s0.Keeps (State.setJtag s x) := by
  unfold State.setJtag
  try dsimp only
  repeat' (first | with_reducible assumption | with_reducible apply State.Keeps.jtag_upd)

theorem State.jtagLoad_keeps {s0 s : State} (h : s0.Keeps s) (code : Nat) :
    s0.Keeps (State.jtagLoad s code) := by
  unfold State.jtagLoad
  try dsimp only
  repeat' (first | with_reducible assumption | with_reducible (first | apply State.devReset_keeps | apply State.setJtag_keeps | apply State.raise_keeps | apply State.Keeps.ite))

theorem State.jtagRun_keeps {s0 s : State} (f : State → State) (h : s0.Keeps s) (hf : ∀ u, s0.Keeps u → s0.Keeps (f u)) (code : Nat) :
    s0.Keeps (State.jtagRun s code f) := by
  unfold State.jtagRun
  split
  · exact h
  dsimp only
  split
  · exact hf _ (State.jtagLoad_keeps h _)
  · exact State.emit_keeps (State.jtagLoad_keeps h _) _

theorem State.tdoOpen_keeps {s0 s : State} (h : s0.Keeps s) :
    s0.Keeps (State.tdoOpen s) := by
  unfold State.tdoOpen
  try dsimp only
  repeat' (first | with_reducible assumption | with_reducible (first | apply State.emit_keeps | apply State.fresh_keeps))

theorem State.boundary_keeps {s0 s : State} (h : s0.Keeps s) (code : Nat) (pins : BitVec 612) (v : BitVec 612) :
    s0.Keeps (State.boundary s code pins v) := by
  unfold State.boundary
  exact State.jtagRun_keeps _ h (fun u hu => State.emit_keeps (State.emit_keeps (State.setJtag_keeps hu _) _) _) _

theorem State.clampPins_keeps {s0 s : State} (h : s0.Keeps s) (code : Nat) :
    s0.Keeps (State.clampPins s code) := by
  unfold State.clampPins
  exact State.jtagRun_keeps _ h (fun u hu => State.emit_keeps (State.emit_keeps hu _) _) _

theorem State.tlr_keeps {s0 s : State} (h : s0.Keeps s) :
    s0.Keeps (State.tlr s) := by
  unfold State.tlr
  try dsimp only
  repeat' (first | with_reducible assumption | with_reducible (first | apply State.alarmInactive_keeps | apply State.setRole_keeps | apply State.setSess_keeps | apply State.setJtag_keeps | apply State.Keeps.ite))

theorem State.debug_keeps {s0 s : State} (h : s0.Keeps s) (k : Nat) (halt : Bool) :
    s0.Keeps (State.debug s k halt) := by
  unfold State.debug
  refine State.jtagRun_keeps _ h (fun u hu => ?_) _
  dsimp only
  repeat' (first | with_reducible assumption | with_reducible (first | apply State.setJtag_keeps | apply State.alarmActive_keeps | apply State.alarmInactive_keeps) | split)

theorem State.selfTest_keeps {s0 s : State} (h : s0.Keeps s) (code : Nat) (which : Nat) :
    s0.Keeps (State.selfTest s code which) := by
  unfold State.selfTest
  refine State.jtagRun_keeps _ h (fun u hu => ?_) _
  dsimp only
  apply State.emit_keeps
  split
  · exact State.setJtag_keeps hu _
  · exact hu

theorem State.bistDone_keeps {s0 s : State} (h : s0.Keeps s) (v : Word) :
    s0.Keeps (State.bistDone s v) := by
  unfold State.bistDone
  try dsimp only
  repeat' (first | with_reducible assumption | with_reducible (first | apply State.setJtag_keeps | apply State.Keeps.ite))

theorem State.railOut_keeps {s0 s : State} (h : s0.Keeps s) (k : Nat) (ovl : Bool) :
    s0.Keeps (State.railOut s k ovl) := by
  unfold State.railOut
  try dsimp only
  repeat' (first | with_reducible assumption | with_reducible (first | apply State.raiseAon_keeps | apply State.setF_keeps | apply State.Keeps.ite))

theorem State.railIn_keeps {s0 s : State} (h : s0.Keeps s) (k : Nat) :
    s0.Keeps (State.railIn s k) := by
  unfold State.railIn
  try dsimp only
  repeat' (first | with_reducible assumption | with_reducible (first | apply State.setF_keeps | apply State.Keeps.ite))

theorem State.tempNow_keeps {s0 s : State} (h : s0.Keeps s) (t : Int) :
    s0.Keeps (State.tempNow s t) := by
  unfold State.tempNow
  try dsimp only
  repeat' (first | with_reducible assumption | with_reducible apply State.setFs_keeps)

theorem State.tempRise_keeps {s0 s : State} (h : s0.Keeps s) (k : Nat) (t : Int) :
    s0.Keeps (State.tempRise s k t) := by
  unfold State.tempRise
  try dsimp only
  repeat' (first | with_reducible assumption | with_reducible (first | apply State.tempNow_keeps | apply State.raiseIf_keeps | apply State.Keeps.mon_upd | apply State.Keeps.ite | apply State.Keeps.ite_fst | apply State.Keeps.ite_snd | apply State.Keeps.foldl) | intro _ | split)

theorem State.tempClear_keeps {s0 s : State} (h : s0.Keeps s) (t : Int) :
    s0.Keeps (State.tempClear s t) := by
  unfold State.tempClear
  try dsimp only
  repeat' (first | with_reducible assumption | with_reducible (first | apply State.tempNow_keeps | apply State.Keeps.ite) | with_reducible apply State.Keeps.mon_upd)

end Sys2Proof.Machine
end

