-- ==== Sys2Proof/Laws/KeepsRegEffect.lean ====
section
/-! SUPPORT. `State.Keeps` for the operations of Machine/RegEffect.lean. -/

namespace Sys2Proof.Machine

set_option linter.unusedTactic false
set_option linter.unreachableTactic false

theorem State.parClear_keeps {s0 s : State} (h : s0.Keeps s) (a : Nat) (m : Word) :
    s0.Keeps (State.parClear s a m) := by
  unfold State.parClear
  try dsimp only
  repeat' (first | (intro c; exact Cells.wf_set c.par _ _) | with_reducible assumption | with_reducible apply State.Keeps.par_upd)

theorem State.raceWith_keeps {s0 s : State} (h : s0.Keeps s) (r : RegRow) (a : Nat) (w : Word) (x4 : Option Word) :
    s0.Keeps (State.raceWith s r a w x4) := by
  unfold State.raceWith
  try dsimp only
  repeat' (first | with_reducible assumption | with_reducible (first | apply State.setReg_keeps | apply State.integ_keeps | apply State.Keeps.ite) | split)

theorem State.evtStatWritten_keeps {s0 s : State} (h : s0.Keeps s) (n : Nat) (old : Word) (w : Word) :
    s0.Keeps (State.evtStatWritten s n old w) := by
  unfold State.evtStatWritten
  try dsimp only
  repeat' (first | with_reducible assumption | with_reducible (first | apply State.deliver_keeps | apply State.Keeps.ite | apply State.Keeps.ite_fst | apply State.Keeps.ite_snd | apply State.Keeps.foldl) | intro _ | split)

theorem State.evtClear_keeps {s0 s : State} (h : s0.Keeps s) (base : Nat) (w : Word) :
    s0.Keeps (State.evtClear s base w) := by
  unfold State.evtClear
  try dsimp only
  repeat' (first | with_reducible assumption | intro _ | with_reducible (first | apply State.setF_keeps | apply State.Keeps.foldl | apply State.Keeps.ite))

theorem State.rstCommit_keeps {s0 s : State} (h : s0.Keeps s) (w : Word) :
    s0.Keeps (State.rstCommit s w) := by
  unfold State.rstCommit
  try dsimp only
  repeat' (first | with_reducible assumption | with_reducible (first | apply State.devReset_keeps | apply State.carrReset_keeps | apply State.Keeps.ite))

theorem State.effCore_keeps {s0 s : State} (h : s0.Keeps s) (b : Nat) (k : Nat) (i : Nat) (old : Word) (w : Word) :
    s0.Keeps (State.effCore s b k i old w) := by
  unfold State.effCore
  try dsimp only
  repeat' (first | with_reducible assumption | with_reducible (first | apply State.evtStatWritten_keeps | apply State.evtClear_keeps | apply State.roleLeave_keeps | apply State.rstCommit_keeps | apply State.hostGo_keeps | apply State.loadDone_keeps | apply State.updNote_keeps | apply State.bvGo_keeps | apply State.Keeps.ite | apply State.Keeps.ite_fst | apply State.Keeps.ite_snd | apply State.Keeps.foldl) | intro _ | split)

theorem State.effTime_keeps {s0 s : State} (h : s0.Keeps s) (b : Nat) (k : Nat) (old : Word) (w : Word) :
    s0.Keeps (State.effTime s b k old w) := by
  unfold State.effTime
  try dsimp only
  repeat' (first | with_reducible assumption | with_reducible (first | apply State.domCfgChanged_keeps | apply State.domCtrl_keeps | apply State.wktDue_keeps | apply State.latWritten_keeps | apply State.align_keeps | apply State.ldlyAccept_keeps | apply State.ldlyMeas_keeps | apply State.phCfgChanged_keeps | apply State.phCtrl_keeps | apply State.wdogCfgChanged_keeps | apply State.qstatWritten_keeps | apply State.Keeps.ite | apply State.Keeps.ite_fst | apply State.Keeps.ite_snd | apply State.Keeps.foldl) | intro _ | split)

theorem State.effPipe_keeps {s0 s : State} (h : s0.Keeps s) (b : Nat) (p : Nat) (k : Nat) (old : Word) (w : Word) :
    s0.Keeps (State.effPipe s b p k old w) := by
  unfold State.effPipe
  try dsimp only
  repeat' (first | with_reducible assumption | with_reducible (first | apply State.tplWritten_keeps | apply State.swapReq_keeps | apply State.ageCfgChanged_keeps | apply State.meterFill_keeps | apply State.Keeps.ite))

theorem State.effPort_keeps {s0 s : State} (h : s0.Keeps s) (b : Nat) (k : Nat) (i : Nat) (old : Word) (w : Word) :
    s0.Keeps (State.effPort s b k i old w) := by
  unfold State.effPort
  try dsimp only
  repeat' (first | with_reducible assumption | with_reducible (first | apply State.qmPortCfgChanged_keeps | apply State.poolNote_keeps | apply State.gateWritten_keeps | apply State.preCfgChanged_keeps | apply State.frCfgChanged_keeps | apply State.txscWritten_keeps | apply State.erase_keeps | apply State.alarmActive_keeps | apply State.alarmClear_keeps | apply State.portCfgChanged_keeps | apply State.ringCfgChanged_keeps | apply State.canCfgChanged_keeps | apply State.canRestart_keeps | apply State.canBufCmd_keeps | apply State.linSchedChanged_keeps | apply State.raiseIf_keeps | apply State.doorbell_keeps | apply State.Keeps.ite | apply State.Keeps.ite_fst | apply State.Keeps.ite_snd | apply State.Keeps.foldl) | intro _ | split)

theorem State.effPair_keeps {s0 s : State} (h : s0.Keeps s) (b : Nat) (k : Nat) (old : Word) (w : Word) :
    s0.Keeps (State.effPair s b k old w) := by
  unfold State.effPair
  try dsimp only
  repeat' (first | with_reducible assumption | with_reducible (first | apply State.pairCfgChanged_keeps | apply State.stClear_keeps | apply State.pairYield_keeps | apply State.pwrCtrl_keeps | apply State.partialChanged_keeps | apply State.wakeInChanged_keeps | apply State.Keeps.ite | apply State.Keeps.ite_fst | apply State.Keeps.ite_snd | apply State.Keeps.foldl) | intro _ | split)

theorem State.regEffect_keeps {s0 s : State} (h : s0.Keeps s) (r : RegRow) (i : Nat) (a : Nat) (old : Word) (w : Word) :
    s0.Keeps (State.regEffect s r i a old w) := by
  unfold State.regEffect
  try dsimp only
  repeat' (first | with_reducible assumption | with_reducible (first | apply State.effCore_keeps | apply State.effTime_keeps | apply State.effPipe_keeps | apply State.effPair_keeps | apply State.effPort_keeps | apply State.Keeps.ite | apply State.Keeps.ite_fst | apply State.Keeps.ite_snd | apply State.Keeps.foldl) | intro _ | split)

theorem State.useChanged_keeps {s0 s : State} (h : s0.Keeps s) (r : RegRow) (a : Nat) (old : Word) :
    s0.Keeps (State.useChanged s r a old) := by
  unfold State.useChanged
  try dsimp only
  repeat' (first | with_reducible assumption | with_reducible (first | apply State.regEffect_keeps | apply State.Keeps.ite | apply State.Keeps.ite_fst | apply State.Keeps.ite_snd | apply State.Keeps.foldl) | intro _ | split)

theorem State.preWrite_keeps {s0 s : State} (h : s0.Keeps s) (r : RegRow) (a : Nat) :
    s0.Keeps (State.preWrite s r a) := by
  unfold State.preWrite
  try dsimp only
  repeat' (first | with_reducible assumption | with_reducible (first | apply State.meterSet_keeps | apply State.Keeps.ite))

theorem State.auditWrite_keeps {s0 s : State} (h : s0.Keeps s) (i : Nat) (a : Nat) (old : Word) (new : Word) :
    s0.Keeps (State.auditWrite s i a old new) := by
  unfold State.auditWrite
  try dsimp only
  repeat' (first | with_reducible assumption | with_reducible (first | apply State.lcRequest_keeps | apply State.audit_keeps | apply State.Keeps.ite))

theorem State.regCommit_keeps {s0 s : State} (h : s0.Keeps s) (r : RegRow) (i : Nat) (a : Nat) (w : Word) (race : Option Word) :
    s0.Keeps (State.regCommit s r i a w race) := by
  unfold State.regCommit
  try dsimp only
  repeat' (first | with_reducible assumption | with_reducible (first | apply State.preWrite_keeps | apply State.parClear_keeps | apply State.setReg_keeps | apply State.raceWith_keeps | apply State.auditWrite_keeps | apply State.regEffect_keeps | apply State.Keeps.ite))

theorem State.ffReq_keeps {s0 s : State} (h : s0.Keeps s) (arg : Nat) :
    s0.Keeps (State.ffReq s arg) := by
  unfold State.ffReq
  try dsimp only
  repeat' (first | with_reducible assumption | with_reducible (first | apply State.mbxFail_keeps | apply State.snap_keeps | apply State.Keeps.ite))

theorem State.mbxReq_keeps {s0 s : State} (h : s0.Keeps s) (m : Nat) (i : Nat) (op : Nat) (arg : Nat) :
    s0.Keeps (State.mbxReq s m i op arg) := by
  unfold State.mbxReq
  try dsimp only
  repeat' (first | with_reducible assumption | with_reducible (first | apply State.ffReq_keeps | apply State.chalReq_keeps | apply State.respReq_keeps | apply State.audReq_keeps | apply State.timSnapReq_keeps | apply State.timAdjReq_keeps | apply State.rxtsReq_keeps | apply State.txtsReq_keeps | apply State.phSnapReq_keeps | apply State.actReq_keeps | apply State.hpostReq_keeps | apply State.qinspReq_keeps | apply State.dbgReq_keeps | apply State.fdbReq_keeps | apply State.flwReq_keeps | apply State.keyReq_keeps | apply State.saStatReq_keeps | apply State.cipMibReq_keeps | apply State.mdioReq_keeps | apply State.mibReq_keeps | apply State.batchReq_keeps | apply State.rxStrReq_keeps | apply State.freReq_keeps | apply State.flashReq_keeps | apply State.mbxFail_keeps | apply State.Keeps.ite))

theorem State.mbxCtrl_keeps {s0 s : State} (h : s0.Keeps s) (m : MbxRow) (i : Nat) (a : Nat) (w : Word) :
    s0.Keeps (State.mbxCtrl s m i a w) := by
  unfold State.mbxCtrl
  try dsimp only
  repeat' (first | with_reducible assumption | with_reducible (first | apply State.setReg_keeps | apply State.auditWrite_keeps | apply State.mbxReq_keeps | apply State.Keeps.ite))

theorem State.mbxStat_keeps {s0 s : State} (h : s0.Keeps s) (a : Nat) (w : Word) :
    s0.Keeps (State.mbxStat s a w) := by
  unfold State.mbxStat
  try dsimp only
  repeat' (first | with_reducible assumption | with_reducible apply State.setReg_keeps)

theorem State.mbxWord_keeps {s0 s : State} (h : s0.Keeps s) (m : MbxRow) (a : Nat) (k : Nat) (w : Word) :
    s0.Keeps (State.mbxWord s m a k w) := by
  unfold State.mbxWord
  try dsimp only
  repeat' (first | with_reducible assumption | with_reducible (first | apply State.setF_keeps | apply State.setReg_keeps | apply State.Keeps.ite))

theorem State.setGuard_keeps {s0 s : State} (h : s0.Keeps s) (b : Nat) (g : Option GuardPend) :
    s0.Keeps (State.setGuard s b g) := by
  unfold State.setGuard
  try dsimp only
  repeat' (first | (intro c; exact Cells.wf_set c.guards _ _) | with_reducible assumption | with_reducible apply State.Keeps.guards_upd)

theorem State.guardBreak_keeps {s0 s : State} (h : s0.Keeps s) (b : Nat) :
    s0.Keeps (State.guardBreak s b) := by
  unfold State.guardBreak
  try dsimp only
  repeat' (first | with_reducible assumption | with_reducible (first | apply State.integ_keeps | apply State.setGuard_keeps) | split)

theorem State.plainWrite_keeps {s0 s : State} (h : s0.Keeps s) (i : Nat) (a : Nat) (w : Word) (race : Option Word) :
    s0.Keeps (State.plainWrite s i a w race) := by
  unfold State.plainWrite
  try dsimp only
  repeat' (first | with_reducible assumption | with_reducible (first | apply State.regCommit_keeps | apply State.mbxCtrl_keeps | apply State.mbxStat_keeps | apply State.mbxWord_keeps | apply State.integ_keeps | apply State.setReg_keeps | apply State.Keeps.ite | apply State.Keeps.ite_fst | apply State.Keeps.ite_snd | apply State.Keeps.foldl) | intro _ | split)

theorem State.coreWrite_keeps {s0 s : State} (h : s0.Keeps s) (i : Nat) (a : Nat) (w : Word) (race : Option Word) :
    s0.Keeps (State.coreWrite s i a w race) := by
  unfold State.coreWrite
  try dsimp only
  repeat' (first | with_reducible assumption | with_reducible (first | apply State.plainWrite_keeps | apply State.guardBreak_keeps | apply State.setGuard_keeps | apply State.integ_keeps | apply State.Keeps.ite | apply State.Keeps.ite_fst | apply State.Keeps.ite_snd | apply State.Keeps.foldl) | intro _ | split)

end Sys2Proof.Machine
end

