-- ==== Sys2Proof/Laws/KeepsAction.lean ====
section
/-! SUPPORT. `State.Keeps` for the operations of Machine/Action.lean. -/

namespace Sys2Proof.Machine

set_option linter.unusedTactic false
set_option linter.unreachableTactic false

theorem State.actEnd_keeps {s0 s : State} (h : s0.Keeps s) (k : Nat) (res : Nat) :
    s0.Keeps (State.actEnd s k res) := by
  unfold State.actEnd
  try dsimp only
  repeat' (first | with_reducible assumption | with_reducible (first | apply State.setFs_keeps | apply State.Keeps.ite))

theorem State.actApply_keeps {s0 s : State} (h : s0.Keeps s) (x : ActSt) (races : Races) :
    s0.Keeps (State.actApply s x races) := by
  unfold State.actApply
  try dsimp only
  repeat' (first | with_reducible assumption | with_reducible intro _ | with_reducible (first | apply State.coreWrite_keeps | apply State.seqStop_keeps | apply State.seqStart_keeps | apply State.carrReset_keeps | apply State.Keeps.ite | apply State.Keeps.ite_fst | apply State.Keeps.ite_snd | apply State.Keeps.foldl) | split)

theorem State.activate_keeps {s0 s : State} (h : s0.Keeps s) (k : Nat) (races : Races) :
    s0.Keeps (State.activate s k races).1 := by
  unfold State.activate
  try dsimp only
  repeat' (first | with_reducible assumption | with_reducible (first | apply State.actEnd_keeps | apply State.actApply_keeps | apply State.Keeps.ite | apply State.Keeps.ite_fst | apply State.Keeps.ite_snd | apply State.Keeps.foldl) | intro _ | split)

theorem State.activateFrom_keeps {s0 s : State} (h : s0.Keeps s) (n : Nat) (k : Nat) (races : Races) :
    s0.Keeps (State.activateFrom s n k races) := by
  unfold State.activateFrom
  try dsimp only
  repeat' (first | with_reducible assumption | with_reducible (first | apply State.activate_keeps | apply State.bump_keeps | apply State.raise_keeps | apply State.Keeps.ite | apply State.Keeps.ite_fst | apply State.Keeps.ite_snd | apply State.Keeps.foldl) | intro _ | split)

theorem State.setPin_keeps {s0 s : State} (h : s0.Keeps s) (k : Nat) (x : SyncPin) (t : Nat) :
    s0.Keeps (State.setPin s k x t) := by
  unfold State.setPin
  try dsimp only
  repeat' (first | (intro c; exact Cells.wf_set c.sync _ _) | with_reducible assumption | with_reducible (first | apply State.emit_keeps | apply State.Keeps.ite) | with_reducible apply State.Keeps.sync_upd)

theorem State.fallBefore_keeps {s0 s : State} (h : s0.Keeps s) (k : Nat) (t : Nat) :
    s0.Keeps (State.fallBefore s k t) := by
  unfold State.fallBefore
  try dsimp only
  repeat' (first | with_reducible assumption | with_reducible (first | apply State.setPin_keeps | apply State.Keeps.ite) | split)

theorem State.pulseAction_keeps {s0 sa : State} (h : s0.Keeps sa) (k : Nat) (mode : Nat) (width : Nat) (t : Nat) :
    s0.Keeps (State.pulseAction sa k mode width t) := by
  unfold State.pulseAction
  try dsimp only
  repeat' (first | with_reducible assumption | with_reducible (first | apply State.fallBefore_keeps | apply State.setPin_keeps | apply State.Keeps.ite))

theorem State.pulseFall_keeps {s0 s : State} (h : s0.Keeps s) (k : Nat) :
    s0.Keeps (State.pulseFall s k) := by
  unfold State.pulseFall
  try dsimp only
  repeat' (first | with_reducible assumption | with_reducible (first | apply State.setPin_keeps | apply State.Keeps.ite) | split)

theorem State.fallAll_keeps {s0 s : State} (h : s0.Keeps s) :
    s0.Keeps (State.fallAll s) := by
  unfold State.fallAll
  try dsimp only
  repeat' (first | with_reducible assumption | with_reducible (first | apply State.pulseFall_keeps | apply State.Keeps.ite | apply State.Keeps.ite_fst | apply State.Keeps.ite_snd | apply State.Keeps.foldl) | intro _ | split)

theorem State.signal_keeps {s0 s : State} (h : s0.Keeps s) (n : Nat) (m : Nat) :
    s0.Keeps (State.signal s n m) := by
  unfold State.signal
  try dsimp only
  repeat' (first | with_reducible assumption | with_reducible apply State.setSq_keeps)

theorem State.deliver2_keeps {s0 : State} {r : State × Bool} (h : s0.Keeps r.1) (n kind : Nat) : s0.Keeps (State.deliver2 r n kind) := by
  unfold State.deliver2
  exact State.Keeps.ite (State.raise_keeps (State.bump_keeps h _ _) _ _ _) h

theorem State.act_keeps {s0 s : State} (h : s0.Keeps s) (n : Nat) (w : Nat) (t : Nat) (rel : Nat) (races : Races) :
    s0.Keeps (State.act s n w t rel races) := by
  unfold State.act
  try dsimp only
  repeat' (first | with_reducible assumption | with_reducible intro _ | with_reducible (first | apply State.deliver2_keeps | apply State.gateAction_keeps | apply State.launchAction_keeps | apply State.pulseAction_keeps | apply State.cantxAction_keeps | apply State.bankAction_keeps | apply State.activateFrom_keeps | apply State.raise_keeps | apply State.signal_keeps | apply State.Keeps.ite | apply State.Keeps.ite_fst | apply State.Keeps.ite_snd | apply State.Keeps.foldl) | split)

theorem State.fireTime_keeps {s0 s : State} (h : s0.Keeps s) (n : Nat) (e : TEnt) (races : Races) :
    s0.Keeps (State.fireTime s n e races) := by
  unfold State.fireTime
  try dsimp only
  repeat' (first | with_reducible assumption | with_reducible (first | apply State.setQ_keeps | apply State.bump_keeps | apply State.raise_keeps | apply State.act_keeps | apply State.Keeps.ite | apply State.Keeps.ite_fst | apply State.Keeps.ite_snd | apply State.Keeps.foldl) | intro _ | split)

theorem State.fireAngle_keeps {s0 s : State} (h : s0.Keeps s) (n : Nat) (e : AEnt) (races : Races) :
    s0.Keeps (State.fireAngle s n e races) := by
  unfold State.fireAngle
  try dsimp only
  repeat' (first | with_reducible assumption | with_reducible (first | apply State.setQ_keeps | apply State.act_keeps | apply State.Keeps.ite | apply State.Keeps.ite_fst | apply State.Keeps.ite_snd | apply State.Keeps.foldl) | intro _ | split)

theorem State.fire_keeps {s0 s : State} (h : s0.Keeps s) (n : Nat) (x2 : TEnt ⊕ AEnt) :
    s0.Keeps (State.fire s n x2) := by
  unfold State.fire
  split
  · exact State.fireTime_keeps h _ _ _
  · exact State.fireAngle_keeps h _ _ _

theorem State.fireAll_keeps {s0 x1 : State} (hx1 : s0.Keeps x1) (x0 : Nat) :
    s0.Keeps (State.fireAll x0 x1) := by
  induction x0 generalizing x1 with
  | zero => exact hx1
  | succ n ih =>
    unfold State.fireAll
    split
    · exact hx1
    · exact ih (State.fire_keeps hx1 _ _)

theorem State.trapQueue_keeps {s0 s : State} (h : s0.Keeps s) (n : Nat) :
    s0.Keeps (State.trapQueue s n) := by
  unfold State.trapQueue
  try dsimp only
  repeat' (first | with_reducible assumption | with_reducible (first | apply State.flushQ_keeps | apply State.activateFrom_keeps | apply State.Keeps.ite | apply State.Keeps.ite_fst | apply State.Keeps.ite_snd | apply State.Keeps.foldl) | intro _ | split)

theorem State.trap_keeps {s0 s : State} (h : s0.Keeps s) (n : Nat) (code : Nat) (user : Nat) :
    s0.Keeps (State.trap s n code user) := by
  unfold State.trap
  try dsimp only
  repeat' (first | with_reducible assumption | with_reducible (first | apply State.setFs_keeps | apply State.gwReleaseAll_keeps | apply State.enterSeq_keeps | apply State.trapQueue_keeps | apply State.raise_keeps))

end Sys2Proof.Machine
end

