-- ==== Sys2Proof/Laws/KeepsSelect.lean ====
section
/-! SUPPORT. `State.Keeps` for the operations of Machine/Select.lean. -/

namespace Sys2Proof.Machine

set_option linter.unusedTactic false
set_option linter.unreachableTactic false

theorem State.selectNext_keeps {s0 s : State} (h : s0.Keeps s) (n : Nat) (corr : Nat) (bad : Option Nat) (saBad : Nat) (b : Nat) :
    s0.Keeps (State.selectNext s n corr bad saBad b) := by
  unfold State.selectNext
  try dsimp only
  repeat' (first | with_reducible assumption | with_reducible intro _ | with_reducible (first | apply State.pick_keeps | apply State.mereRead_keeps | apply State.wfqAll_keeps | apply State.startCopy_keeps | apply State.residence_keeps | apply State.setCopy_keeps | apply State.Keeps.ite | apply State.Keeps.ite_fst | apply State.Keeps.ite_snd | apply State.Keeps.foldl) | split)

theorem State.egressSelect_keeps {s00 s0 : State} (h : s00.Keeps s0) (n : Nat) (corr : Nat) (bad : Option Nat) (saBad : Nat) (b : Nat) :
    s00.Keeps (State.egressSelect s0 n corr bad saBad b) := by
  unfold State.egressSelect
  try dsimp only
  repeat' (first | with_reducible assumption | with_reducible intro _ | with_reducible (first | apply State.fireAll_keeps | apply State.phsDue_keeps | apply State.preempt_keeps | apply State.selectNext_keeps | apply State.Keeps.ite | apply State.Keeps.ite_fst | apply State.Keeps.ite_snd | apply State.Keeps.foldl) | split)

end Sys2Proof.Machine
end

