-- ==== Sys2Proof/Laws/KeepsPairRole.lean ====
section
/-! SUPPORT. `State.Keeps` for the operations of Machine/PairRole.lean. -/

namespace Sys2Proof.Machine

set_option linter.unusedTactic false
set_option linter.unreachableTactic false

theorem State.roleMove_keeps {s0 s : State} (h : s0.Keeps s) (k : Nat) (gain : Bool) :
    s0.Keeps (State.roleMove s k gain) := by
  unfold State.roleMove
  try dsimp only
  repeat' (first | with_reducible assumption | with_reducible (first | apply State.raise_keeps | apply State.setF_keeps | apply State.activate_keeps | apply State.Keeps.ite))

theorem State.wantBus_keeps {s0 s : State} (h : s0.Keeps s) (v : Option Bool) :
    s0.Keeps (State.wantBus s v) := by
  unfold State.wantBus
  try dsimp only
  repeat' (first | with_reducible assumption | with_reducible apply State.setPair_keeps)

theorem State.takeRoles_keeps {s0 s : State} (h : s0.Keeps s) :
    s0.Keeps (State.takeRoles s) := by
  unfold State.takeRoles
  try dsimp only
  repeat' (first | with_reducible assumption | with_reducible (first | apply State.setFs_keeps | apply State.setPair_keeps | apply State.roleMove_keeps))

theorem State.releaseRoles_keeps {s0 s : State} (h : s0.Keeps s) :
    s0.Keeps (State.releaseRoles s) := by
  unfold State.releaseRoles
  try dsimp only
  repeat' (first | with_reducible assumption | with_reducible (first | apply State.setFs_keeps | apply State.setPair_keeps | apply State.roleMove_keeps))

theorem State.toStandby_keeps {s0 s : State} (h : s0.Keeps s) :
    s0.Keeps (State.toStandby s) := by
  unfold State.toStandby
  try dsimp only
  repeat' (first | with_reducible assumption | with_reducible (first | apply State.setPairState_keeps | apply State.setPair_keeps))

theorem State.failover_keeps {s0 s : State} (h : s0.Keeps s) :
    s0.Keeps (State.failover s) := by
  unfold State.failover
  try dsimp only
  repeat' (first | with_reducible assumption | with_reducible (first | apply State.takeRoles_keeps | apply State.pairCount_keeps | apply State.Keeps.ite))

theorem State.busSwitch_keeps {s0 s : State} (h : s0.Keeps s) :
    s0.Keeps (State.busSwitch s) := by
  unfold State.busSwitch
  try dsimp only
  repeat' (first | with_reducible assumption | with_reducible (first | apply State.roleMove_keeps | apply State.wantBus_keeps) | split)

theorem State.beatPath_keeps {s0 s : State} (h : s0.Keeps s) (p : Nat) (st : Option Nat) (fit : Bool) :
    s0.Keeps (State.beatPath s p st fit) := by
  unfold State.beatPath
  try dsimp only
  repeat' (first | with_reducible assumption | with_reducible (first | apply State.raiseIf_keeps | apply State.setPathOk_keeps | apply State.pairCount_keeps | apply State.setPair_keeps | apply State.setF_keeps | apply State.Keeps.ite) | split)

theorem State.stbyTrack_keeps {s0 s : State} (h : s0.Keeps s) :
    s0.Keeps (State.stbyTrack s) := by
  unfold State.stbyTrack
  try dsimp only
  repeat' (first | with_reducible assumption | with_reducible (first | apply State.setPair_keeps | apply State.Keeps.ite))

theorem State.beatJudge_keeps {s0 s : State} (h : s0.Keeps s) (p : Nat) (st : Option Nat) (fit : Bool) :
    s0.Keeps (State.beatJudge s p st fit) := by
  unfold State.beatJudge
  try dsimp only
  repeat' (first | with_reducible assumption | with_reducible (first | apply State.toStandby_keeps | apply State.failover_keeps | apply State.raise_keeps | apply State.releaseRoles_keeps | apply State.handbackCancel_keeps | apply State.Keeps.ite))

theorem State.beat_keeps {s0 s : State} (h : s0.Keeps s) (p : Nat) (st : Option Nat) (fit : Bool) :
    s0.Keeps (State.beat s p st fit) := by
  unfold State.beat
  try dsimp only
  repeat' (first | with_reducible assumption | with_reducible (first | apply State.beatPath_keeps | apply State.raiseIf_keeps | apply State.stbyTrack_keeps | apply State.beatJudge_keeps))

theorem State.hbPulse_keeps {s0 sa : State} (h : s0.Keeps sa) (ns : Nat) :
    s0.Keeps (State.hbPulse sa ns) := by
  unfold State.hbPulse
  try dsimp only
  repeat' (first | with_reducible assumption | with_reducible (first | apply State.fresh_keeps | apply State.pairCount_keeps | apply State.setPair_keeps | apply State.beat_keeps | apply State.Keeps.ite) | split)

theorem State.handbackFlags_keeps {s0 s : State} (h : s0.Keeps s) (p : List Byte) :
    s0.Keeps (State.handbackFlags s p) := by
  unfold State.handbackFlags
  try dsimp only
  repeat' (first | with_reducible assumption | with_reducible (first | apply State.setPair_keeps | apply State.Keeps.ite) | split)

theorem State.pairFrame_keeps {s0 s : State} (h : s0.Keeps s) (d : List Byte) :
    s0.Keeps (State.pairFrame s d) := by
  unfold State.pairFrame
  try dsimp only
  repeat' (first | with_reducible assumption | with_reducible (first | apply State.beat_keeps | apply State.setPair_keeps | apply State.handbackFlags_keeps | apply State.reportIn_keeps | apply State.Keeps.ite))

theorem State.partnerFailed_keeps {s0 s : State} (h : s0.Keeps s) :
    s0.Keeps (State.partnerFailed s) := by
  unfold State.partnerFailed
  try dsimp only
  repeat' (first | with_reducible assumption | with_reducible (first | apply State.raise_keeps | apply State.handbackCancel_keeps | apply State.failover_keeps | apply State.setPair_keeps | apply State.Keeps.ite))

theorem State.pathTimeout_keeps {s0 s : State} (h : s0.Keeps s) (p : Nat) :
    s0.Keeps (State.pathTimeout s p) := by
  unfold State.pathTimeout
  try dsimp only
  repeat' (first | with_reducible assumption | with_reducible (first | apply State.raise_keeps | apply State.pairCount_keeps | apply State.setPathOk_keeps | apply State.setPair_keeps | apply State.partnerFailed_keeps | apply State.Keeps.ite))

theorem State.pairCheck_keeps {s0 s : State} (h : s0.Keeps s) :
    s0.Keeps (State.pairCheck s) := by
  unfold State.pairCheck
  try dsimp only
  repeat' (first | with_reducible assumption | with_reducible (first | apply State.failover_keeps | apply State.Keeps.ite))

theorem State.startupWait_keeps {s0 s : State} (h : s0.Keeps s) :
    s0.Keeps (State.startupWait s) := by
  unfold State.startupWait
  try dsimp only
  repeat' (first | with_reducible assumption | with_reducible (first | apply State.takeRoles_keeps | apply State.toStandby_keeps | apply State.Keeps.ite))

theorem State.handbackInstant_keeps {s0 s : State} (h : s0.Keeps s) :
    s0.Keeps (State.handbackInstant s) := by
  unfold State.handbackInstant
  try dsimp only
  repeat' (first | with_reducible assumption | with_reducible (first | apply State.releaseRoles_keeps | apply State.pairCount_keeps | apply State.takeRoles_keeps | apply State.Keeps.ite) | split)

end Sys2Proof.Machine
end

