-- ==== Sys2Proof/Laws/KeepsFrameRows.lean ====
section
/-! SUPPORT. `State.Keeps` for the operations of Machine/FrameRows.lean. -/

namespace Sys2Proof.Machine

set_option linter.unusedTactic false
set_option linter.unreachableTactic false

theorem State.pairTake_keeps {s0 : State} {r : State × Option (List Byte)} (h : s0.Keeps r.1) : s0.Keeps (State.pairTake r) := by
  unfold State.pairTake
  split
  · exact State.pairFrame_keeps h _
  · exact h

theorem State.leave_keeps {s0 s : State} (h : s0.Keeps s) (c : Copy) (desc : List Byte) :
    s0.Keeps (State.leave s c desc) := by
  unfold State.leave
  try dsimp only
  repeat' (first | with_reducible assumption | with_reducible (first | apply State.sendOut_keeps | apply State.copyGone_keeps | apply State.acfRx_keeps | apply State.ringDeliver_keeps | apply State.Keeps.ite))

theorem State.transmitted_keeps {s0 s : State} (h : s0.Keeps s) (n : Nat) (desc : List Byte) :
    s0.Keeps (State.transmitted s n desc) := by
  unfold State.transmitted
  try dsimp only
  repeat' (first | with_reducible assumption | with_reducible intro _ | with_reducible (first | apply State.payRest_keeps | apply State.leave_keeps | apply State.wfqAll_keeps | apply State.Keeps.ite | apply State.Keeps.ite_fst | apply State.Keeps.ite_snd | apply State.Keeps.foldl) | split)

theorem State.recirculate_keeps {s0 s : State} (h : s0.Keeps s) (corr : Nat) (bad : Option Nat) :
    s0.Keeps (State.recirculate s corr bad) := by
  unfold State.recirculate
  try dsimp only
  repeat' (first | with_reducible assumption | with_reducible intro _ | with_reducible (first | apply State.pick_keeps | apply State.wfqAll_keeps | apply State.mereRead_keeps | apply State.begins_keeps | apply State.copyGone_keeps | apply State.enter_keeps | apply State.Keeps.ite | apply State.Keeps.ite_fst | apply State.Keeps.ite_snd | apply State.Keeps.foldl) | split)

end Sys2Proof.Machine
end

