-- ==== Sys2Proof/Laws/KeepsYufen.lean ====
section
/-! SUPPORT. `State.Keeps` for the operations of Machine/Yufen.lean. -/

namespace Sys2Proof.Machine

set_option linter.unusedTactic false
set_option linter.unreachableTactic false

theorem State.setGr_keeps {s0 s : State} (h : s0.Keeps s) (n : Nat) (k : BitVec 4) (v : Word) :
    s0.Keeps (State.setGr s n k v) := by
  unfold State.setGr
  try dsimp only
  repeat' (first | with_reducible assumption | with_reducible (first | apply State.setSq_keeps | apply State.Keeps.ite))

theorem State.setTr_keeps {s0 s : State} (h : s0.Keeps s) (n : Nat) (k : BitVec 2) (v : Nat) :
    s0.Keeps (State.setTr s n k v) := by
  unfold State.setTr
  try dsimp only
  repeat' (first | with_reducible assumption | with_reducible apply State.setSq_keeps)

theorem State.setAr_keeps {s0 s : State} (h : s0.Keeps s) (n : Nat) (k : BitVec 2) (v : Word) :
    s0.Keeps (State.setAr s n k v) := by
  unfold State.setAr
  try dsimp only
  repeat' (first | with_reducible assumption | with_reducible apply State.setSq_keeps)

theorem State.setWs_keeps {s0 s : State} (h : s0.Keeps s) (n : Nat) (v : Nat) :
    s0.Keeps (State.setWs s n v) := by
  unfold State.setWs
  try dsimp only
  repeat' (first | with_reducible assumption | with_reducible apply State.setSq_keeps)

theorem State.yBegin_keeps {s0 s : State} (h : s0.Keeps s) (n : Nat) :
    s0.Keeps (State.yBegin s n) := by
  unfold State.yBegin
  try dsimp only
  repeat' (first | with_reducible assumption | with_reducible apply State.setSq_keeps)

theorem State.yCost_keeps {s0 s : State} (h : s0.Keeps s) (n : Nat) (c : Nat) :
    s0.Keeps (State.yCost s n c) := by
  unfold State.yCost
  try dsimp only
  repeat' (first | with_reducible assumption | with_reducible apply State.setSq_keeps)

theorem State.yGo_keeps {s0 s t : State} (h : s0.Keeps s) (ht : s0.Keeps t) (n : Nat) (target : Int) (c : Nat) :
    s0.Keeps (State.yGo s n target c t) := by
  unfold State.yGo
  try dsimp only
  repeat' (first | with_reducible assumption | with_reducible (first | apply State.yCost_keeps | apply State.setPc_keeps | apply State.trap_keeps | apply State.Keeps.ite))

theorem State.yNext_keeps {s0 s t : State} (h : s0.Keeps s) (ht : s0.Keeps t) (n : Nat) (c : Nat) :
    s0.Keeps (State.yNext s n c t) := by
  unfold State.yNext
  try dsimp only
  repeat' (first | with_reducible assumption | with_reducible apply State.yGo_keeps)

theorem State.yBranch_keeps {s0 s : State} (h : s0.Keeps s) (n : Nat) (taken : Bool) (off : BitVec 18) :
    s0.Keeps (State.yBranch s n taken off) := by
  unfold State.yBranch
  try dsimp only
  repeat' (first | with_reducible assumption | with_reducible (first | apply State.yGo_keeps | apply State.yNext_keeps | apply State.Keeps.ite))

theorem State.ySet_keeps {s0 s : State} (h : s0.Keeps s) (n : Nat) (d : BitVec 4) (v : Word) (c : Nat) :
    s0.Keeps (State.ySet s n d v c) := by
  unfold State.ySet
  try dsimp only
  repeat' (first | with_reducible assumption | with_reducible (first | apply State.yNext_keeps | apply State.setGr_keeps))

theorem State.yIssue_keeps {s0 s : State} (f : State → State) (h : s0.Keeps s) (hf : ∀ u, s0.Keeps u → s0.Keeps (f u)) (n : Nat) (w : Word) :
    s0.Keeps (State.yIssue s n w f) := by
  unfold State.yIssue
  exact State.Keeps.ite (State.Keeps.ite (State.trap_keeps h _ _ _)
    (State.Keeps.ite (hf _ (State.yBegin_keeps h _)) (State.Keeps.ite (State.trap_keeps h _ _ _) h))) h

theorem State.yTable_keeps {s0 s : State} (f : State → State) (h : s0.Keeps s) (hf : ∀ u, s0.Keeps u → s0.Keeps (f u)) (n : Nat) (a : Nat) (size : Nat) (store : Bool) (c : Nat) :
    s0.Keeps (State.yTable s n a size store c f) := by
  unfold State.yTable
  split
  · exact State.trap_keeps h _ _ _
  · exact State.yNext_keeps h (hf _ (State.fresh_keeps h)) _ _

theorem State.yAmo_keeps {s0 s : State} (h : s0.Keeps s) (n : Nat) (d : BitVec 4) (a : BitVec 4) (f : Word → Word) :
    s0.Keeps (State.yAmo s n d a f) := by
  unfold State.yAmo
  try dsimp only
  repeat' (first | with_reducible assumption | intro _ | with_reducible (first | apply State.yTable_keeps | apply State.setGr_keeps | apply State.setTblW_keeps))

theorem State.yWait_keeps {s0 s : State} (h : s0.Keeps s) (n : Nat) (w : WaitSt) :
    s0.Keeps (State.yWait s n w) := by
  unfold State.yWait
  try dsimp only
  repeat' (first | with_reducible assumption | with_reducible apply State.setWait_keeps)

theorem State.yEnd_keeps {s0 s : State} (h : s0.Keeps s) (n : Nat) (ws : Nat) (clr : Nat) (target : Int) (c : Nat) :
    s0.Keeps (State.yEnd s n ws clr target c) := by
  unfold State.yEnd
  try dsimp only
  repeat' (first | with_reducible assumption | with_reducible (first | apply State.setSq_keeps | apply State.setPc_keeps | apply State.setWait_keeps | apply State.trap_keeps | apply State.Keeps.ite))

theorem State.yEndNow_keeps {s0 s : State} (h : s0.Keeps s) (n : Nat) (ws : Nat) (clr : Nat) (target : Int) :
    s0.Keeps (State.yEndNow s n ws clr target) := by
  unfold State.yEndNow
  try dsimp only
  repeat' (first | with_reducible assumption | with_reducible (first | apply State.fresh_keeps | apply State.yEnd_keeps))

theorem State.yEndTick_keeps {s0 s : State} (h : s0.Keeps s) (n : Nat) (ws : Nat) (clr : Nat) (target : Int) :
    s0.Keeps (State.yEndTick s n ws clr target) := by
  unfold State.yEndTick
  try dsimp only
  repeat' (first | with_reducible assumption | with_reducible (first | apply State.fresh_keeps | apply State.yEnd_keeps))

theorem State.ySettle_keeps {s0 s : State} (h : s0.Keeps s) (n : Nat) :
    s0.Keeps (State.ySettle s n) := by
  unfold State.ySettle
  try dsimp only
  repeat' (first | with_reducible assumption | with_reducible apply State.setSq_keeps)

theorem State.yWaiteJudge_keeps {s0 sa : State} (fin : State → Nat → Nat → Int → State) (wait : State → State) (h : s0.Keeps sa)
    (hfin : ∀ u a b t, s0.Keeps u → s0.Keeps (fin u a b t)) (hwait : ∀ u, s0.Keeps u → s0.Keeps (wait u)) (n c tt : Nat) (next off : Int) :
    s0.Keeps (State.yWaiteJudge sa n c tt next off fin wait) := by
  unfold State.yWaiteJudge
  dsimp only
  exact State.Keeps.ite (hfin _ _ _ _ (State.ySettle_keeps h _)) (State.Keeps.ite (hfin _ _ _ _ (State.ySettle_keeps h _)) (hwait _ h))

theorem State.waittDone_keeps {s0 s : State} (h : s0.Keeps s) (n : Nat) :
    s0.Keeps (State.waittDone s n) := by
  unfold State.waittDone
  try dsimp only
  repeat' (first | with_reducible assumption | with_reducible (first | apply State.yEndTick_keeps | apply State.Keeps.ite))

theorem State.waitaEnd_keeps {s0 s : State} (h : s0.Keeps s) (n : Nat) :
    s0.Keeps (State.waitaEnd s n) := by
  unfold State.waitaEnd
  try dsimp only
  repeat' (first | with_reducible assumption | with_reducible (first | apply State.yEndTick_keeps | apply State.Keeps.ite))

theorem State.waiteEnd_keeps {s0 s : State} (h : s0.Keeps s) (n : Nat) :
    s0.Keeps (State.waiteEnd s n) := by
  unfold State.waiteEnd
  try dsimp only
  repeat' (first | with_reducible assumption | intro _ | with_reducible (first | apply State.yWaiteJudge_keeps | apply State.yEndTick_keeps | apply State.Keeps.ite))

theorem State.seqSettle_keeps {s0 s : State} (h : s0.Keeps s) (n : Nat) :
    s0.Keeps (State.seqSettle s n) := by
  unfold State.seqSettle
  try dsimp only
  repeat' (first | with_reducible assumption | with_reducible (first | apply State.trap_keeps | apply State.waiteEnd_keeps | apply State.waitaEnd_keeps | apply State.waittDone_keeps | apply State.Keeps.ite))

theorem State.yNop_keeps {s0 s : State} (h : s0.Keeps s) (n : Nat) :
    s0.Keeps (State.yNop s n) := by
  unfold State.yNop
  try dsimp only
  repeat' (first | with_reducible assumption | with_reducible apply State.yNext_keeps)

theorem State.yHalt_keeps {s0 s : State} (h : s0.Keeps s) (n : Nat) :
    s0.Keeps (State.yHalt s n) := by
  unfold State.yHalt
  try dsimp only
  repeat' (first | with_reducible assumption | with_reducible apply State.seqHalt_keeps)

theorem State.yWdog_keeps {s0 s : State} (h : s0.Keeps s) (n : Nat) :
    s0.Keeps (State.yWdog s n) := by
  unfold State.yWdog
  try dsimp only
  repeat' (first | with_reducible assumption | with_reducible (first | apply State.yNext_keeps | apply State.setSq_keeps))

theorem State.yTrap_keeps {s0 s : State} (h : s0.Keeps s) (n : Nat) (imm : BitVec 16) :
    s0.Keeps (State.yTrap s n imm) := by
  unfold State.yTrap
  try dsimp only
  repeat' (first | with_reducible assumption | with_reducible apply State.trap_keeps)

theorem State.yRds_keeps {s0 s : State} (h : s0.Keeps s) (n : Nat) (d : BitVec 4) (k : Fin 5) :
    s0.Keeps (State.yRds s n d k) := by
  unfold State.yRds
  try dsimp only
  repeat' (first | with_reducible assumption | with_reducible (first | apply State.ySet_keeps | apply State.Keeps.ite))

theorem State.yAdd_keeps {s0 s : State} (h : s0.Keeps s) (n : Nat) (d : BitVec 4) (a : BitVec 4) (b : BitVec 4) :
    s0.Keeps (State.yAdd s n d a b) := by
  unfold State.yAdd
  try dsimp only
  repeat' (first | with_reducible assumption | with_reducible apply State.ySet_keeps)

theorem State.ySub_keeps {s0 s : State} (h : s0.Keeps s) (n : Nat) (d : BitVec 4) (a : BitVec 4) (b : BitVec 4) :
    s0.Keeps (State.ySub s n d a b) := by
  unfold State.ySub
  try dsimp only
  repeat' (first | with_reducible assumption | with_reducible apply State.ySet_keeps)

theorem State.yAnd_keeps {s0 s : State} (h : s0.Keeps s) (n : Nat) (d : BitVec 4) (a : BitVec 4) (b : BitVec 4) :
    s0.Keeps (State.yAnd s n d a b) := by
  unfold State.yAnd
  try dsimp only
  repeat' (first | with_reducible assumption | with_reducible apply State.ySet_keeps)

theorem State.yOr_keeps {s0 s : State} (h : s0.Keeps s) (n : Nat) (d : BitVec 4) (a : BitVec 4) (b : BitVec 4) :
    s0.Keeps (State.yOr s n d a b) := by
  unfold State.yOr
  try dsimp only
  repeat' (first | with_reducible assumption | with_reducible apply State.ySet_keeps)

theorem State.yXor_keeps {s0 s : State} (h : s0.Keeps s) (n : Nat) (d : BitVec 4) (a : BitVec 4) (b : BitVec 4) :
    s0.Keeps (State.yXor s n d a b) := by
  unfold State.yXor
  try dsimp only
  repeat' (first | with_reducible assumption | with_reducible apply State.ySet_keeps)

theorem State.ySll_keeps {s0 s : State} (h : s0.Keeps s) (n : Nat) (d : BitVec 4) (a : BitVec 4) (b : BitVec 4) :
    s0.Keeps (State.ySll s n d a b) := by
  unfold State.ySll
  try dsimp only
  repeat' (first | with_reducible assumption | with_reducible apply State.ySet_keeps)

theorem State.ySrl_keeps {s0 s : State} (h : s0.Keeps s) (n : Nat) (d : BitVec 4) (a : BitVec 4) (b : BitVec 4) :
    s0.Keeps (State.ySrl s n d a b) := by
  unfold State.ySrl
  try dsimp only
  repeat' (first | with_reducible assumption | with_reducible apply State.ySet_keeps)

theorem State.ySra_keeps {s0 s : State} (h : s0.Keeps s) (n : Nat) (d : BitVec 4) (a : BitVec 4) (b : BitVec 4) :
    s0.Keeps (State.ySra s n d a b) := by
  unfold State.ySra
  try dsimp only
  repeat' (first | with_reducible assumption | with_reducible apply State.ySet_keeps)

theorem State.yMul_keeps {s0 s : State} (h : s0.Keeps s) (n : Nat) (d : BitVec 4) (a : BitVec 4) (b : BitVec 4) :
    s0.Keeps (State.yMul s n d a b) := by
  unfold State.yMul
  try dsimp only
  repeat' (first | with_reducible assumption | with_reducible apply State.ySet_keeps)

theorem State.yAddi_keeps {s0 s : State} (h : s0.Keeps s) (n : Nat) (d : BitVec 4) (a : BitVec 4) (imm : BitVec 18) :
    s0.Keeps (State.yAddi s n d a imm) := by
  unfold State.yAddi
  try dsimp only
  repeat' (first | with_reducible assumption | with_reducible apply State.ySet_keeps)

theorem State.yAndi_keeps {s0 s : State} (h : s0.Keeps s) (n : Nat) (d : BitVec 4) (a : BitVec 4) (imm : BitVec 18) :
    s0.Keeps (State.yAndi s n d a imm) := by
  unfold State.yAndi
  try dsimp only
  repeat' (first | with_reducible assumption | with_reducible apply State.ySet_keeps)

theorem State.yOri_keeps {s0 s : State} (h : s0.Keeps s) (n : Nat) (d : BitVec 4) (a : BitVec 4) (imm : BitVec 18) :
    s0.Keeps (State.yOri s n d a imm) := by
  unfold State.yOri
  try dsimp only
  repeat' (first | with_reducible assumption | with_reducible apply State.ySet_keeps)

theorem State.yXori_keeps {s0 s : State} (h : s0.Keeps s) (n : Nat) (d : BitVec 4) (a : BitVec 4) (imm : BitVec 18) :
    s0.Keeps (State.yXori s n d a imm) := by
  unfold State.yXori
  try dsimp only
  repeat' (first | with_reducible assumption | with_reducible apply State.ySet_keeps)

theorem State.ySlli_keeps {s0 s : State} (h : s0.Keeps s) (n : Nat) (d : BitVec 4) (a : BitVec 4) (sh : BitVec 5) :
    s0.Keeps (State.ySlli s n d a sh) := by
  unfold State.ySlli
  try dsimp only
  repeat' (first | with_reducible assumption | with_reducible apply State.ySet_keeps)

theorem State.ySrli_keeps {s0 s : State} (h : s0.Keeps s) (n : Nat) (d : BitVec 4) (a : BitVec 4) (sh : BitVec 5) :
    s0.Keeps (State.ySrli s n d a sh) := by
  unfold State.ySrli
  try dsimp only
  repeat' (first | with_reducible assumption | with_reducible apply State.ySet_keeps)

theorem State.ySrai_keeps {s0 s : State} (h : s0.Keeps s) (n : Nat) (d : BitVec 4) (a : BitVec 4) (sh : BitVec 5) :
    s0.Keeps (State.ySrai s n d a sh) := by
  unfold State.ySrai
  try dsimp only
  repeat' (first | with_reducible assumption | with_reducible apply State.ySet_keeps)

theorem State.yLui_keeps {s0 s : State} (h : s0.Keeps s) (n : Nat) (d : BitVec 4) (imm : BitVec 16) :
    s0.Keeps (State.yLui s n d imm) := by
  unfold State.yLui
  try dsimp only
  repeat' (first | with_reducible assumption | with_reducible apply State.ySet_keeps)

theorem State.yLd_keeps {s0 s : State} (h : s0.Keeps s) (n : Nat) (d : BitVec 4) (a : BitVec 4) (imm : BitVec 18) :
    s0.Keeps (State.yLd s n d a imm) := by
  unfold State.yLd
  try dsimp only
  repeat' (first | with_reducible assumption | intro _ | with_reducible (first | apply State.yTable_keeps | apply State.setGr_keeps))

theorem State.ySt_keeps {s0 s : State} (h : s0.Keeps s) (n : Nat) (d : BitVec 4) (a : BitVec 4) (imm : BitVec 18) :
    s0.Keeps (State.ySt s n d a imm) := by
  unfold State.ySt
  try dsimp only
  repeat' (first | with_reducible assumption | intro _ | with_reducible (first | apply State.yTable_keeps | apply State.setTblW_keeps))

theorem State.yLdt_keeps {s0 s : State} (h : s0.Keeps s) (n : Nat) (tx : BitVec 2) (a : BitVec 4) (imm : BitVec 18) :
    s0.Keeps (State.yLdt s n tx a imm) := by
  unfold State.yLdt
  try dsimp only
  repeat' (first | with_reducible assumption | intro _ | with_reducible (first | apply State.trap_keeps | apply State.yTable_keeps | apply State.setTr_keeps | apply State.Keeps.ite))

theorem State.yStt_keeps {s0 s : State} (h : s0.Keeps s) (n : Nat) (tx : BitVec 2) (a : BitVec 4) (imm : BitVec 18) :
    s0.Keeps (State.yStt s n tx a imm) := by
  unfold State.yStt
  try dsimp only
  repeat' (first | with_reducible assumption | intro _ | with_reducible (first | apply State.yTable_keeps | apply State.setTblW_keeps))

theorem State.yAmoadd_keeps {s0 s : State} (h : s0.Keeps s) (n : Nat) (d : BitVec 4) (a : BitVec 4) (b : BitVec 4) :
    s0.Keeps (State.yAmoadd s n d a b) := by
  unfold State.yAmoadd
  try dsimp only
  repeat' (first | with_reducible assumption | with_reducible apply State.yAmo_keeps)

theorem State.yAmoswap_keeps {s0 s : State} (h : s0.Keeps s) (n : Nat) (d : BitVec 4) (a : BitVec 4) (b : BitVec 4) :
    s0.Keeps (State.yAmoswap s n d a b) := by
  unfold State.yAmoswap
  try dsimp only
  repeat' (first | with_reducible assumption | with_reducible apply State.yAmo_keeps)

theorem State.yBeq_keeps {s0 s : State} (h : s0.Keeps s) (n : Nat) (a : BitVec 4) (b : BitVec 4) (off : BitVec 18) :
    s0.Keeps (State.yBeq s n a b off) := by
  unfold State.yBeq
  try dsimp only
  repeat' (first | with_reducible assumption | with_reducible apply State.yBranch_keeps)

theorem State.yBne_keeps {s0 s : State} (h : s0.Keeps s) (n : Nat) (a : BitVec 4) (b : BitVec 4) (off : BitVec 18) :
    s0.Keeps (State.yBne s n a b off) := by
  unfold State.yBne
  try dsimp only
  repeat' (first | with_reducible assumption | with_reducible apply State.yBranch_keeps)

theorem State.yBlt_keeps {s0 s : State} (h : s0.Keeps s) (n : Nat) (a : BitVec 4) (b : BitVec 4) (off : BitVec 18) :
    s0.Keeps (State.yBlt s n a b off) := by
  unfold State.yBlt
  try dsimp only
  repeat' (first | with_reducible assumption | with_reducible apply State.yBranch_keeps)

theorem State.yBge_keeps {s0 s : State} (h : s0.Keeps s) (n : Nat) (a : BitVec 4) (b : BitVec 4) (off : BitVec 18) :
    s0.Keeps (State.yBge s n a b off) := by
  unfold State.yBge
  try dsimp only
  repeat' (first | with_reducible assumption | with_reducible apply State.yBranch_keeps)

theorem State.yBltu_keeps {s0 s : State} (h : s0.Keeps s) (n : Nat) (a : BitVec 4) (b : BitVec 4) (off : BitVec 18) :
    s0.Keeps (State.yBltu s n a b off) := by
  unfold State.yBltu
  try dsimp only
  repeat' (first | with_reducible assumption | with_reducible apply State.yBranch_keeps)

theorem State.yBgeu_keeps {s0 s : State} (h : s0.Keeps s) (n : Nat) (a : BitVec 4) (b : BitVec 4) (off : BitVec 18) :
    s0.Keeps (State.yBgeu s n a b off) := by
  unfold State.yBgeu
  try dsimp only
  repeat' (first | with_reducible assumption | with_reducible apply State.yBranch_keeps)

theorem State.yJal_keeps {s0 s : State} (h : s0.Keeps s) (n : Nat) (d : BitVec 4) (off : BitVec 22) :
    s0.Keeps (State.yJal s n d off) := by
  unfold State.yJal
  try dsimp only
  repeat' (first | with_reducible assumption | with_reducible (first | apply State.yGo_keeps | apply State.setGr_keeps))

theorem State.yJalr_keeps {s0 s : State} (h : s0.Keeps s) (n : Nat) (d : BitVec 4) (a : BitVec 4) (imm : BitVec 18) :
    s0.Keeps (State.yJalr s n d a imm) := by
  unfold State.yJalr
  try dsimp only
  repeat' (first | with_reducible assumption | with_reducible (first | apply State.yGo_keeps | apply State.setGr_keeps))

theorem State.yTget_keeps {s0 s : State} (h : s0.Keeps s) (n : Nat) (tx : BitVec 2) (clk : BitVec 2) :
    s0.Keeps (State.yTget s n tx clk) := by
  unfold State.yTget
  try dsimp only
  repeat' (first | with_reducible assumption | with_reducible (first | apply State.yNext_keeps | apply State.setTr_keeps | apply State.Keeps.ite))

theorem State.yTadd_keeps {s0 s : State} (h : s0.Keeps s) (n : Nat) (tx : BitVec 2) (ty : BitVec 2) (g : BitVec 4) :
    s0.Keeps (State.yTadd s n tx ty g) := by
  unfold State.yTadd
  try dsimp only
  repeat' (first | with_reducible assumption | with_reducible (first | apply State.yNext_keeps | apply State.setTr_keeps))

theorem State.yTsub_keeps {s0 s : State} (h : s0.Keeps s) (n : Nat) (tx : BitVec 2) (ty : BitVec 2) (g : BitVec 4) :
    s0.Keeps (State.yTsub s n tx ty g) := by
  unfold State.yTsub
  try dsimp only
  repeat' (first | with_reducible assumption | with_reducible apply State.ySet_keeps)

theorem State.yTmov_keeps {s0 s : State} (h : s0.Keeps s) (n : Nat) (tx : BitVec 2) (ty : BitVec 2) :
    s0.Keeps (State.yTmov s n tx ty) := by
  unfold State.yTmov
  try dsimp only
  repeat' (first | with_reducible assumption | with_reducible (first | apply State.yNext_keeps | apply State.setTr_keeps))

theorem State.yText_keeps {s0 s : State} (h : s0.Keeps s) (n : Nat) (ty : BitVec 2) (g : BitVec 4) (sel : BitVec 2) :
    s0.Keeps (State.yText s n ty g sel) := by
  unfold State.yText
  try dsimp only
  repeat' (first | with_reducible assumption | with_reducible apply State.ySet_keeps)

theorem State.yTins_keeps {s0 s : State} (h : s0.Keeps s) (n : Nat) (tx : BitVec 2) (g : BitVec 4) (sel : BitVec 2) :
    s0.Keeps (State.yTins s n tx g sel) := by
  unfold State.yTins
  try dsimp only
  repeat' (first | with_reducible assumption | with_reducible (first | apply State.trap_keeps | apply State.yNext_keeps | apply State.setTr_keeps | apply State.Keeps.ite))

theorem State.yTnext_keeps {s0 s : State} (h : s0.Keeps s) (n : Nat) (tx : BitVec 2) (ty : BitVec 2) (g : BitVec 4) :
    s0.Keeps (State.yTnext s n tx ty g) := by
  unfold State.yTnext
  try dsimp only
  repeat' (first | with_reducible assumption | with_reducible (first | apply State.trap_keeps | apply State.yNext_keeps | apply State.setTr_keeps | apply State.Keeps.ite))

theorem State.yTblt_keeps {s0 s : State} (h : s0.Keeps s) (n : Nat) (tx : BitVec 2) (ty : BitVec 2) (off : BitVec 18) :
    s0.Keeps (State.yTblt s n tx ty off) := by
  unfold State.yTblt
  try dsimp only
  repeat' (first | with_reducible assumption | with_reducible apply State.yBranch_keeps)

theorem State.yAget_keeps {s00 s0 : State} (h : s00.Keeps s0) (n : Nat) (ax : BitVec 2) (pd : BitVec 2) :
    s00.Keeps (State.yAget s0 n ax pd) := by
  unfold State.yAget
  try dsimp only
  repeat' (first | with_reducible assumption | with_reducible intro _ | with_reducible (first | apply State.obsSettle_keeps | apply State.yNext_keeps | apply State.setAr_keeps | apply State.setWs_keeps | apply State.Keeps.ite | apply State.Keeps.ite_fst | apply State.Keeps.ite_snd | apply State.Keeps.foldl) | split)

theorem State.yAset_keeps {s0 s : State} (h : s0.Keeps s) (n : Nat) (ax : BitVec 2) (g : BitVec 4) :
    s0.Keeps (State.yAset s n ax g) := by
  unfold State.yAset
  try dsimp only
  repeat' (first | with_reducible assumption | with_reducible (first | apply State.yNext_keeps | apply State.setAr_keeps))

theorem State.yAread_keeps {s0 s : State} (h : s0.Keeps s) (n : Nat) (ay : BitVec 2) (g : BitVec 4) :
    s0.Keeps (State.yAread s n ay g) := by
  unfold State.yAread
  try dsimp only
  repeat' (first | with_reducible assumption | with_reducible apply State.ySet_keeps)

theorem State.yAadd_keeps {s0 s : State} (h : s0.Keeps s) (n : Nat) (ax : BitVec 2) (ay : BitVec 2) (g : BitVec 4) :
    s0.Keeps (State.yAadd s n ax ay g) := by
  unfold State.yAadd
  try dsimp only
  repeat' (first | with_reducible assumption | with_reducible (first | apply State.yNext_keeps | apply State.setAr_keeps))

theorem State.yVget_keeps {s00 s0 : State} (h : s00.Keeps s0) (n : Nat) (g : BitVec 4) (pd : BitVec 2) :
    s00.Keeps (State.yVget s0 n g pd) := by
  unfold State.yVget
  try dsimp only
  repeat' (first | with_reducible assumption | with_reducible intro _ | with_reducible (first | apply State.obsSettle_keeps | apply State.yNext_keeps | apply State.setGr_keeps | apply State.setWs_keeps | apply State.Keeps.ite | apply State.Keeps.ite_fst | apply State.Keeps.ite_snd | apply State.Keeps.foldl) | split)

theorem State.yPost_keeps {s0 s : State} (h : s0.Keeps s) (n : Nat) (tx : BitVec 2) (g : BitVec 4) :
    s0.Keeps (State.yPost s n tx g) := by
  unfold State.yPost
  try dsimp only
  repeat' (first | with_reducible assumption | with_reducible (first | apply State.trap_keeps | apply State.yNext_keeps | apply State.postTime_keeps | apply State.Keeps.ite))

theorem State.yApost_keeps {s0 s : State} (h : s0.Keeps s) (n : Nat) (ax : BitVec 2) (g : BitVec 4) (pd : BitVec 2) (dir : Fin 3) :
    s0.Keeps (State.yApost s n ax g pd dir) := by
  unfold State.yApost
  try dsimp only
  repeat' (first | with_reducible assumption | with_reducible (first | apply State.trap_keeps | apply State.yNext_keeps | apply State.postAngle_keeps | apply State.Keeps.ite))

theorem State.yWaitt_keeps {s0 s : State} (h : s0.Keeps s) (n : Nat) (tx : BitVec 2) :
    s0.Keeps (State.yWaitt s n tx) := by
  unfold State.yWaitt
  try dsimp only
  repeat' (first | with_reducible assumption | with_reducible (first | apply State.yEndNow_keeps | apply State.yWait_keeps | apply State.Keeps.ite))

theorem State.yWaita_keeps {s0 s : State} (h : s0.Keeps s) (n : Nat) (ax : BitVec 2) (pd : BitVec 2) (dir : Fin 3) (tt : BitVec 2) (off : BitVec 18) :
    s0.Keeps (State.yWaita s n ax pd dir tt off) := by
  unfold State.yWaita
  try dsimp only
  repeat' (first | with_reducible assumption | with_reducible (first | apply State.yEndNow_keeps | apply State.yWait_keeps | apply State.Keeps.ite))

theorem State.yWaite_keeps {s0 s : State} (h : s0.Keeps s) (n : Nat) (g : BitVec 4) (tt : BitVec 2) (off : BitVec 18) :
    s0.Keeps (State.yWaite s n g tt off) := by
  unfold State.yWaite
  try dsimp only
  repeat' (first | with_reducible assumption | intro _ | with_reducible (first | apply State.yWaiteJudge_keeps | apply State.yEndNow_keeps | apply State.yWait_keeps | apply State.trap_keeps | apply State.Keeps.ite))

theorem State.yGrx_keeps {s0 s : State} (h : s0.Keeps s) (n : Nat) (d : BitVec 4) :
    s0.Keeps (State.yGrx s n d) := by
  unfold State.yGrx
  try dsimp only
  repeat' (first | with_reducible assumption | with_reducible (first | apply State.gwPop_keeps | apply State.yNext_keeps | apply State.setWs_keeps | apply State.setGr_keeps))

theorem State.yGid_keeps {s0 s : State} (h : s0.Keeps s) (n : Nat) (d : BitVec 4) (a : BitVec 4) :
    s0.Keeps (State.yGid s n d a) := by
  unfold State.yGid
  try dsimp only
  repeat' (first | with_reducible assumption | with_reducible (first | apply State.trap_keeps | apply State.ySet_keeps) | split)

theorem State.yGtx_keeps {s0 s : State} (h : s0.Keeps s) (n : Nat) (a : BitVec 4) (b : BitVec 4) :
    s0.Keeps (State.yGtx s n a b) := by
  unfold State.yGtx
  try dsimp only
  repeat' (first | with_reducible assumption | with_reducible (first | apply State.trap_keeps | apply State.gtx_keeps | apply State.yNext_keeps | apply State.setWs_keeps | apply State.Keeps.ite) | split)

theorem State.yGrel_keeps {s0 s : State} (h : s0.Keeps s) (n : Nat) (a : BitVec 4) :
    s0.Keeps (State.yGrel s n a) := by
  unfold State.yGrel
  try dsimp only
  repeat' (first | with_reducible assumption | with_reducible (first | apply State.trap_keeps | apply State.yNext_keeps | apply State.gwDrop_keeps) | split)

theorem State.yRun_keeps {s0 s : State} (h : s0.Keeps s) (n : Nat) (i : Instr) :
    s0.Keeps (State.yRun s n i) := by
  unfold State.yRun
  try dsimp only
  repeat' (first | with_reducible assumption | with_reducible (first | apply State.yNop_keeps | apply State.yHalt_keeps | apply State.yWdog_keeps | apply State.yTrap_keeps | apply State.yRds_keeps | apply State.yAdd_keeps | apply State.ySub_keeps | apply State.yAnd_keeps | apply State.yOr_keeps | apply State.yXor_keeps | apply State.ySll_keeps | apply State.ySrl_keeps | apply State.ySra_keeps | apply State.yMul_keeps | apply State.yAddi_keeps | apply State.yAndi_keeps | apply State.yOri_keeps | apply State.yXori_keeps | apply State.ySlli_keeps | apply State.ySrli_keeps | apply State.ySrai_keeps | apply State.yLui_keeps | apply State.yLd_keeps | apply State.ySt_keeps | apply State.yLdt_keeps | apply State.yStt_keeps | apply State.yAmoadd_keeps | apply State.yAmoswap_keeps | apply State.yBeq_keeps | apply State.yBne_keeps | apply State.yBlt_keeps | apply State.yBge_keeps | apply State.yBltu_keeps | apply State.yBgeu_keeps | apply State.yJal_keeps | apply State.yJalr_keeps | apply State.yTget_keeps | apply State.yTadd_keeps | apply State.yTsub_keeps | apply State.yTmov_keeps | apply State.yText_keeps | apply State.yTins_keeps | apply State.yTnext_keeps | apply State.yTblt_keeps | apply State.yAget_keeps | apply State.yAset_keeps | apply State.yAread_keeps | apply State.yAadd_keeps | apply State.yVget_keeps | apply State.yPost_keeps | apply State.yApost_keeps | apply State.yWaitt_keeps | apply State.yWaita_keeps | apply State.yWaite_keeps | apply State.yGrx_keeps | apply State.yGid_keeps | apply State.yGtx_keeps | apply State.yGrel_keeps) | split)

theorem State.yStep_keeps {s0 s : State} (h : s0.Keeps s) (n : Nat) :
    s0.Keeps (State.yStep s n) := by
  unfold State.yStep
  try dsimp only
  repeat' (first | with_reducible assumption | with_reducible (first | apply State.yBegin_keeps | apply State.setF_keeps | apply State.trap_keeps | apply State.yRun_keeps | apply State.enterSeq_keeps | apply State.Keeps.ite) | split)

theorem State.seqCtrl_keeps {s0 s : State} (h : s0.Keeps s) (n : Nat) (w : Word) :
    s0.Keeps (State.seqCtrl s n w) := by
  unfold State.seqCtrl
  try dsimp only
  repeat' (first | with_reducible assumption | with_reducible (first | apply State.seqStop_keeps | apply State.seqStart_keeps | apply State.seqPause_keeps | apply State.seqResume_keeps | apply State.yStep_keeps | apply State.Keeps.ite))

end Sys2Proof.Machine
end

