-- ==== Sys2Proof/Laws/KeepsFabric.lean ====
section
/-! SUPPORT. `State.Keeps` for the operations of Machine/Fabric.lean. -/

namespace Sys2Proof.Machine

set_option linter.unusedTactic false
set_option linter.unreachableTactic false

theorem State.denied_keeps {s0 s : State} (h : s0.Keeps s) (i : Nat) :
    s0.Keeps (State.denied s i) := by
  unfold State.denied
  try dsimp only
  repeat' (first | with_reducible assumption | with_reducible apply State.raise_keeps)

theorem State.integAll_keeps {s0 s : State} (h : s0.Keeps s) (b : Nat) (l : List (Integ × Nat)) :
    s0.Keeps (State.integAll s b l) := by
  unfold State.integAll
  try dsimp only
  repeat' (first | with_reducible assumption | intro _ | with_reducible (first | apply State.integ_keeps | apply State.Keeps.foldl))

theorem State.rejectWrite_keeps {s0 s : State} (h : s0.Keeps s) (k : Integ) (a : Nat) :
    s0.Keeps (State.rejectWrite s k a) := by
  unfold State.rejectWrite
  try dsimp only
  repeat' (first | with_reducible assumption | with_reducible (first | apply State.integAll_keeps | apply State.setGuard_keeps | apply State.Keeps.ite))

theorem State.guardOpen_keeps {s0 s : State} (h : s0.Keeps s) (i : Nat) (a : Nat) (v : Word) :
    s0.Keeps (State.guardOpen s i a v) := by
  unfold State.guardOpen
  try dsimp only
  repeat' (first | with_reducible assumption | with_reducible (first | apply State.setGuard_keeps | apply State.guardBreak_keeps))

theorem State.guardClose_keeps {s0 sa : State} (h : s0.Keeps sa) (r : RegRow) (i : Nat) (a : Nat) (v : Word) :
    s0.Keeps (State.guardClose sa r i a v) := by
  unfold State.guardClose
  try dsimp only
  repeat' (first | with_reducible assumption | with_reducible (first | apply State.guardBreak_keeps | apply State.integ_keeps | apply State.setGuard_keeps | apply State.integAll_keeps | apply State.regCommit_keeps | apply State.Keeps.ite) | split)

theorem State.write32_keeps {s0 s : State} (h : s0.Keeps s) (i : Nat) (a : Nat) (v : Word) (race : Option Word) :
    s0.Keeps (State.write32 s i a v race).1 := by
  unfold State.write32
  try dsimp only
  repeat' (first | with_reducible assumption | with_reducible (first | apply State.rejectWrite_keeps | apply State.denied_keeps | apply State.guardBreak_keeps | apply State.guardClose_keeps | apply State.guardOpen_keeps | apply State.seqCtrl_keeps | apply State.coreWrite_keeps | apply State.Keeps.ite | apply State.Keeps.ite_fst | apply State.Keeps.ite_snd) | split)

theorem State.readReg_keeps {s0 s : State} (h : s0.Keeps s) (r : RegRow) (i : Nat) (a : Nat) :
    s0.Keeps (State.readReg s r i a).1 := by
  unfold State.readReg
  try dsimp only
  repeat' (first | with_reducible assumption | with_reducible (first | apply State.fresh_keeps | apply State.setReg_keeps | apply State.Keeps.ite | apply State.Keeps.ite_fst | apply State.Keeps.ite_snd))

theorem State.readData_keeps {s0 s : State} (h : s0.Keeps s) (m : MbxRow) (a : Nat) (k : Nat) :
    s0.Keeps (State.readData s m a k) := by
  unfold State.readData
  try dsimp only
  repeat' (first | with_reducible assumption | with_reducible (first | apply State.setF_keeps | apply State.lnotRead_keeps | apply State.Keeps.ite))

theorem State.read32_keeps {s0 s : State} (h : s0.Keeps s) (i : Nat) (a : Nat) :
    s0.Keeps (State.read32 s i a).1 := by
  unfold State.read32
  try dsimp only
  repeat' (first | with_reducible assumption | with_reducible (first | apply State.integ_keeps | apply State.denied_keeps | apply State.readReg_keeps | apply State.readData_keeps | apply State.Keeps.ite | apply State.Keeps.ite_fst | apply State.Keeps.ite_snd) | split)

theorem State.winPut_keeps {s0 s : State} (h : s0.Keeps s) (a : Nat) (n : Nat) (v : Nat) :
    s0.Keeps (State.winPut s a n v) := by
  unfold State.winPut
  try dsimp only
  repeat' (first | (intro c; exact memPut_wf c.win _ _) | with_reducible assumption | with_reducible apply State.Keeps.win_upd)

theorem State.winWrite_keeps {s0 s : State} (h : s0.Keeps s) (i : Nat) (a : Nat) (n : Nat) (v : Nat) :
    s0.Keeps (State.winWrite s i a n v).1 := by
  unfold State.winWrite
  split
  · exact State.integ_keeps h _ _ _
  · apply State.Keeps.ite_fst
    · exact State.Keeps.sram_upd h (fun c => memPut_wf c.sram _ _)
    · exact State.integ_keeps h _ _ _
  · apply State.Keeps.ite_fst
    · exact State.denied_keeps h _
    split
    · dsimp only
      apply State.Keeps.ite_fst
      · exact State.raise_keeps (State.setF_keeps h _ _ _) _ _ _
      · exact State.Keeps.ite (State.ruleWrite_keeps (State.ruleWrite_keeps h _ _ _ _) _ _ _ _) (State.ruleWrite_keeps h _ _ _ _)
    · apply State.Keeps.ite_fst
      · exact State.Keeps.ruleCnt_upd h (fun c => Cells.wf_set (Cells.wf_set c.ruleCnt _ _) _ _)
      · exact h
    · exact State.Keeps.ite_fst (State.raise_keeps h _ _ _) (State.winPut_keeps h _ _ _)
    · exact State.Keeps.ite (State.winPut_keeps (State.winPut_keeps h _ _ _) _ _ _) (State.winPut_keeps h _ _ _)
    · exact State.winPut_keeps h _ _ _

theorem State.setLatch_keeps {s0 s : State} (h : s0.Keeps s) (i : Nat) (x : Option (Nat × Nat)) :
    s0.Keeps (State.setLatch s i x) := by
  unfold State.setLatch
  try dsimp only
  repeat' (first | (intro c; exact Cells.wf_set c.latch _ _) | with_reducible assumption | with_reducible apply State.Keeps.latch_upd)

theorem State.countRead_keeps {s0 s : State} (h : s0.Keeps s) (i : Nat) (c : Nat) (o : Nat) (n : Nat) :
    s0.Keeps (State.countRead s i c o n).1 := by
  unfold State.countRead
  try dsimp only
  repeat' (first | with_reducible assumption | with_reducible (first | apply State.setLatch_keeps | apply State.Keeps.ite | apply State.Keeps.ite_fst | apply State.Keeps.ite_snd) | split)

theorem State.winRead_keeps {s0 s : State} (h : s0.Keeps s) (i : Nat) (a : Nat) (n : Nat) :
    s0.Keeps (State.winRead s i a n).1 := by
  unfold State.winRead
  try dsimp only
  repeat' (first | with_reducible assumption | with_reducible (first | apply State.integ_keeps | apply State.denied_keeps | apply State.countRead_keeps | apply State.Keeps.ite | apply State.Keeps.ite_fst | apply State.Keeps.ite_snd) | split)

theorem State.carrError_keeps {s0 s : State} (h : s0.Keeps s) (i : Nat) (bad : Bool) :
    s0.Keeps (State.carrError s i bad) := by
  unfold State.carrError
  try dsimp only
  repeat' (first | with_reducible assumption | with_reducible (first | apply State.emit_keeps | apply State.Keeps.ite))

theorem State.writeAt_keeps {s0 s : State} (h : s0.Keeps s) (i : Nat) (a : Nat) (n : Nat) (v : Nat) (race : Option Word) :
    s0.Keeps (State.writeAt s i a n v race).1 := by
  unfold State.writeAt
  try dsimp only
  repeat' (first | with_reducible assumption | with_reducible (first | apply State.rejectWrite_keeps | apply State.winWrite_keeps | apply State.write32_keeps | apply State.Keeps.ite | apply State.Keeps.ite_fst | apply State.Keeps.ite_snd))

theorem State.readAt_keeps {s0 s : State} (h : s0.Keeps s) (i : Nat) (a : Nat) (n : Nat) :
    s0.Keeps (State.readAt s i a n).1 := by
  unfold State.readAt
  try dsimp only
  repeat' (first | with_reducible assumption | with_reducible (first | apply State.integ_keeps | apply State.winRead_keeps | apply State.read32_keeps | apply State.Keeps.ite | apply State.Keeps.ite_fst | apply State.Keeps.ite_snd))

theorem State.busWrite_keeps {s0 s : State} (h : s0.Keeps s) (i : Nat) (a : Nat) (n : Nat) (v : Nat) (race : Option Word) :
    s0.Keeps (State.busWrite s i a n v race) := by
  unfold State.busWrite
  try dsimp only
  repeat' (first | with_reducible assumption | with_reducible intro _ | with_reducible (first | apply State.pcieWrite_keeps | apply State.writeAt_keeps | apply State.carrError_keeps | apply State.Keeps.ite | apply State.Keeps.ite_fst | apply State.Keeps.ite_snd | apply State.Keeps.foldl) | split)

theorem State.busRead_keeps {s0 s : State} (h : s0.Keeps s) (i : Nat) (a : Nat) (n : Nat) :
    s0.Keeps (State.busRead s i a n) := by
  unfold State.busRead
  try dsimp only
  repeat' (first | with_reducible assumption | with_reducible (first | apply State.readAt_keeps | apply State.emit_keeps | apply State.Keeps.ite))

theorem State.poke_keeps {s0 s : State} (h : s0.Keeps s) (i : Nat) (a : Nat) (v : Word) :
    s0.Keeps (State.poke s i a v) := by
  unfold State.poke
  try dsimp only
  repeat' (first | with_reducible assumption | with_reducible apply State.busWrite_keeps)

theorem State.pokeGuarded_keeps {s0 s : State} (h : s0.Keeps s) (i : Nat) (a : Nat) (v : Word) :
    s0.Keeps (State.pokeGuarded s i a v) := by
  unfold State.pokeGuarded
  try dsimp only
  repeat' (first | with_reducible assumption | with_reducible apply State.poke_keeps)

theorem State.request_keeps {s0 s : State} (h : s0.Keeps s) (i : Nat) (m : Nat) (op : Nat) (arg : Nat) :
    s0.Keeps (State.request s i m op arg) := by
  unfold State.request
  try dsimp only
  repeat' (first | with_reducible assumption | with_reducible apply State.poke_keeps)

end Sys2Proof.Machine
end

