-- ==== Sys2Proof/Laws/KeepsCarrBus.lean ====
section
/-! SUPPORT. `State.Keeps` for the operations of Machine/CarrBus.lean. -/

namespace Sys2Proof.Machine

set_option linter.unusedTactic false
set_option linter.unreachableTactic false

theorem State.carrFaulted_keeps {s0 s : State} (h : s0.Keeps s) :
    s0.Keeps (State.carrFaulted s) := by
  unfold State.carrFaulted
  try dsimp only
  repeat' (first | with_reducible assumption | with_reducible apply State.emit_keeps)

theorem State.carrPut_keeps {s0 s : State} (h : s0.Keeps s) (r : CarrRegion) (a : Nat) (b : Byte) :
    s0.Keeps (State.carrPut s r a b) := by
  unfold State.carrPut
  try dsimp only
  repeat' (first | (intro c; first | exact Cells.wf_set c.sram _ _ | exact Cells.wf_set c.dram _ _) | with_reducible assumption | with_reducible apply State.Keeps.ite | with_reducible (first | apply State.Keeps.sram_upd | apply State.Keeps.dram_upd))

theorem State.carrLanes_keeps {s0 s : State} (h : s0.Keeps s) (r : CarrRegion) (a : Nat) (st : Nat) (data : Nat) :
    s0.Keeps (State.carrLanes s r a st data) := by
  unfold State.carrLanes
  try dsimp only
  repeat' (first | with_reducible assumption | intro _ | with_reducible (first | apply State.carrPut_keeps | apply State.Keeps.foldl | apply State.Keeps.ite))

theorem State.carrEcc_keeps {s0 s : State} (h : s0.Keeps s) (r : CarrRegion) (a : Nat) (ecc : Nat) (bank : Nat) :
    s0.Keeps (State.carrEcc s r a ecc bank) := by
  unfold State.carrEcc
  try dsimp only
  repeat' (first | with_reducible assumption | with_reducible intro _ | with_reducible (first | apply State.bump_keeps | apply State.sramError_keeps | apply State.memError_keeps | apply State.Keeps.ite | apply State.Keeps.ite_fst | apply State.Keeps.ite_snd | apply State.Keeps.foldl) | split)

theorem State.setLr_keeps {s0 s : State} (h : s0.Keeps s) (x : Option Nat) :
    s0.Keeps (State.setLr s x) := by
  unfold State.setLr
  try dsimp only
  repeat' (first | with_reducible assumption | with_reducible apply State.Keeps.carr_upd)

theorem State.carrAtomic_keeps {s0 s : State} (h : s0.Keeps s) (r : CarrRegion) (t : CarrTx) (a : Nat) (n : Nat) :
    s0.Keeps (State.carrAtomic s r t a n) := by
  unfold State.carrAtomic
  try dsimp only
  repeat' (first | with_reducible assumption | intro _ | with_reducible (first | apply State.carrFaulted_keeps | apply State.emit_keeps | apply State.setLr_keeps | apply State.carrLanes_keeps | apply State.carrPut_keeps | apply State.Keeps.foldl | apply State.Keeps.ite) | split)

theorem State.release_keeps {s0 s : State} (h : s0.Keeps s) (t : CarrTx) (ecc : Nat) (bank : Nat) :
    s0.Keeps (State.release s t ecc bank) := by
  unfold State.release
  try dsimp only
  repeat' (first | with_reducible assumption | with_reducible (first | apply State.carrFaulted_keeps | apply State.busRead_keeps | apply State.busWrite_keeps | apply State.emit_keeps | apply State.fresh_keeps | apply State.carrLanes_keeps | apply State.carrEcc_keeps | apply State.carrAtomic_keeps | apply State.Keeps.ite))

end Sys2Proof.Machine
end

