-- ==== Sys2Proof/Laws/KeepsCtlRows.lean ====
section
/-! SUPPORT. `State.Keeps` for the operations of Machine/CtlRows.lean. -/

namespace Sys2Proof.Machine

set_option linter.unusedTactic false
set_option linter.unreachableTactic false

theorem State.setPar_keeps {s0 s : State} (h : s0.Keeps s) (a : Nat) (p : ParSt) :
    s0.Keeps (State.setPar s a p) := by
  unfold State.setPar
  try dsimp only
  repeat' (first | (intro c; exact Cells.wf_set c.par _ _) | with_reducible assumption | with_reducible apply State.Keeps.par_upd)

theorem State.parityScan_keeps {s0 s : State} (h : s0.Keeps s) (a : Nat) (flip : Word) (agree : Bool) :
    s0.Keeps (State.parityScan s a flip agree) := by
  unfold State.parityScan
  try dsimp only
  repeat' (first | with_reducible assumption | with_reducible intro _ | with_reducible (first | apply State.setPar_keeps | apply State.setReg_keeps | apply State.integ_keeps | apply State.useChanged_keeps | apply State.Keeps.ite | apply State.Keeps.ite_fst | apply State.Keeps.ite_snd | apply State.Keeps.foldl) | split)

theorem State.parityRestore_keeps {s0 s : State} (h : s0.Keeps s) (a : Nat) :
    s0.Keeps (State.parityRestore s a) := by
  unfold State.parityRestore
  try dsimp only
  repeat' (first | with_reducible assumption | with_reducible (first | apply State.integ_keeps | apply State.setPar_keeps | apply State.Keeps.ite))

theorem State.guardTimeout_keeps {s0 s : State} (h : s0.Keeps s) (b : Nat) :
    s0.Keeps (State.guardTimeout s b) := by
  unfold State.guardTimeout
  try dsimp only
  repeat' (first | with_reducible assumption | with_reducible (first | apply State.guardBreak_keeps | apply State.Keeps.ite) | split)

theorem State.stormEnd_keeps {s0 s : State} (h : s0.Keeps s) (n : Nat) :
    s0.Keeps (State.stormEnd s n) := by
  unfold State.stormEnd
  try dsimp only
  repeat' (first | with_reducible assumption | with_reducible (first | apply State.setEvt_keeps | apply State.Keeps.ite))

end Sys2Proof.Machine
end

