-- ==== Sys2Proof/Laws/Mailbox.lean ====
section
/-! SUPPORT. What a delivery to a read mailbox and the completion of a write mailbox leave (02 R35, R37, R439). -/

namespace Sys2Proof.Machine

theorem Cells.wf_regs_setWords (s : State) (m k : Nat) (ws : List Nat) (h : Cells.wf resetOf s.regs = true) :
    Cells.wf resetOf (s.setWords m k ws).regs = true := by
  induction ws generalizing s k with
  | nil => exact h
  | cons v r ih => exact ih _ _ (Cells.wf_set h _ _)

theorem State.setWords_same (s : State) (m k : Nat) (ws : List Nat) :
    s.setWords m k ws = { s with regs := (s.setWords m k ws).regs } := by
  induction ws generalizing s k with
  | nil => rfl
  | cons v r ih => show State.setWords _ m (k + 1) r = _; rw [ih]; rfl

theorem State.reg_setWords_ne (s : State) (m k a : Nat) (ws : List Nat) (h : ∀ j, j < ws.length → a ≠ mbxData m (k + j)) :
    (s.setWords m k ws).reg a = s.reg a := by
  induction ws generalizing s k with
  | nil => rfl
  | cons v r ih =>
    show (State.setWords _ m (k + 1) r).reg a = _
    rw [ih _ _ (fun j hj => by have := h (j + 1) (by simp; omega); rwa [Nat.add_comm j 1, ← Nat.add_assoc] at this)]
    exact State.reg_setReg_ne _ _ _ _ (h 0 (by simp))

theorem State.reg_setWords (s : State) (m k j : Nat) (ws : List Nat) (hc : Cells.wf resetOf s.regs = true) (hj : j < ws.length) :
    (s.setWords m k ws).reg (mbxData m (k + j)) = BitVec.ofNat 32 (ws.getD j 0) := by
  induction ws generalizing s k j with
  | nil => simp at hj
  | cons v r ih =>
    show (State.setWords _ m (k + 1) r).reg _ = _
    cases j with
    | zero =>
      rw [State.reg_setWords_ne _ _ _ _ _ (fun j _ => by unfold mbxData; omega)]
      exact State.reg_setReg _ _ _ hc
    | succ j =>
      have e : k + (j + 1) = k + 1 + j := by omega
      rw [e, ih _ _ _ (Cells.wf_set hc _ _) (by simpa using hj)]
      rfl

/-- A snapshot in a read mailbox changes registers alone. -/
theorem State.snap_same (s : State) (m : Nat) (ws : List Nat) : s.snap m ws = { s with regs := (s.snap m ws).regs } := by
  unfold State.snap
  dsimp only
  rw [State.setWords_same]
  rfl

/-- A snapshot in a read mailbox shows. -/
theorem State.snap_shows (s : State) (m : Nat) (ws : List Nat) (hc : Cells.wf resetOf s.regs = true) : (s.snap m ws).Shows m ws := by
  unfold State.Shows State.snap
  dsimp only
  refine ⟨?_, ?_⟩
  · rw [State.reg_setReg _ _ _ (Cells.wf_regs_setWords s m 0 ws hc)]
    exact fldGet_fldSet _ _ _ (by decide)
  · intro k hk
    rw [State.reg_setReg_ne _ _ _ _ (by unfold mbxData; omega)]
    have := State.reg_setWords s m 0 k ws hc hk
    rwa [Nat.zero_add] at this

/-- What a snapshot leaves. -/
theorem State.reg_snap_ne (s : State) (m a : Nat) (ws : List Nat) (h : a ≠ m + 4) (h2 : ∀ j, j < ws.length → a ≠ mbxData m j) :
    (s.snap m ws).reg a = s.reg a := by
  unfold State.snap
  dsimp only
  rw [State.reg_setReg_ne _ _ _ _ h, State.reg_setWords_ne _ _ _ _ _ (fun j hj => by rw [Nat.zero_add]; exact h2 j hj)]

theorem State.mbxDone_same (s : State) (m n : Nat) : s.mbxDone m n = { s with regs := (s.mbxDone m n).regs } := by
  unfold State.mbxDone
  rw [State.setWords_same]
  rfl

/-- A write mailbox that completes. -/
theorem State.mbxDone_done (s s0 : State) (m n : Nat) (hc : Cells.wf resetOf s.regs = true) (h : s.reg (m + 4) = s0.reg (m + 4)) :
    (s.mbxDone m n).Done s0 m n := by
  have hl : (List.replicate n 0).length = n := List.length_replicate
  have hw : Cells.wf resetOf (s.setF m MBX_CTRL.req 0).regs = true := Cells.wf_set hc _ _
  refine ⟨?_, ?_, ?_⟩
  · unfold State.mbxDone
    rw [State.reg_setWords_ne _ _ _ _ _ (fun j _ => by unfold mbxData; omega)]
    unfold State.setF
    rw [State.reg_setReg _ _ _ hc]
    exact fldGet_fldSet _ _ _ (by decide)
  · intro k hk
    have := State.reg_setWords (s.setF m MBX_CTRL.req 0) m 0 k (List.replicate n 0) hw (by rw [hl]; exact hk)
    rw [Nat.zero_add] at this
    unfold State.mbxDone
    rw [this]
    simp [List.getD]
  · unfold State.mbxDone
    rw [State.reg_setWords_ne _ _ _ _ _ (fun j _ => by unfold mbxData; omega)]
    rw [State.reg_setF_ne _ _ _ _ _ (by omega)]
    exact h

theorem State.reg_mbxDone_ne (s : State) (m n a : Nat) (h : a ≠ m) (h2 : ∀ j, j < n → a ≠ mbxData m j) : (s.mbxDone m n).reg a = s.reg a := by
  unfold State.mbxDone
  rw [State.reg_setWords_ne _ _ _ _ _ (fun j hj => by rw [Nat.zero_add]; exact h2 j (by simpa using hj)), State.reg_setF_ne _ _ _ _ _ h]

/-! ### The words of a request -/

theorem State.asked_same (s : State) (m op arg : Nat) : s.asked m op arg = { s with regs := (s.asked m op arg).regs } := rfl

theorem State.reg_asked_ne (s : State) (m op arg a : Nat) (h : a ≠ m) : (s.asked m op arg).reg a = s.reg a :=
  State.reg_setReg_ne _ _ _ _ h

theorem State.asked_wf (s : State) (m op arg : Nat) (h : s.Canonical) : Cells.wf resetOf (s.asked m op arg).regs = true :=
  Cells.wf_set h.regs _ _

theorem State.ordered_canon (s : State) (i m op arg : Nat) (h : s.Canonical) : (s.ordered i m op arg).Canonical := by
  unfold State.ordered
  exact (State.audit_keeps (State.setReg_keeps (State.Keeps.refl s) _ _) _ _ _ _ _ _).canon h

/-- A request that its mailbox answers with `ws`. -/
theorem State.answered_of (s : State) (m op arg : Nat) (x : Host.Outcome State Fault Refusal) (ws : List Nat) (hc : s.Canonical)
    (h : x = .next ((s.asked m op arg).snap m ws)) : ∃ t, x = .next t ∧ s.Answered t m ws := by
  refine ⟨_, h, State.snap_shows _ _ _ (State.asked_wf _ _ _ _ hc), ?_, ?_⟩
  · conv => lhs; rw [State.snap_same]
    rfl
  · intro a h1 h2 h3
    rw [State.reg_snap_ne _ _ _ _ h2 h3, State.reg_asked_ne _ _ _ _ _ h1]

/-- A command in the write mailbox at `m` changes its control word, the log and the event of a log that wraps. -/
theorem State.ordered_same (s : State) (i m op arg : Nat) :
    ∃ aud regs evt out pba, s.ordered i m op arg =
      { s with aud := aud, regs := regs, evt := evt, out := out, pcie := { s.pcie with pba := pba } } := by
  obtain ⟨a, b, c, d, e, h⟩ := State.audit_only (s.setReg m (reqWord op arg 1)) 0 (s.roleOf i) i m (s.reg m).toNat (reqWord op arg 1).toNat
  exact ⟨a, b, c, d, e, h⟩

theorem State.reg_ordered_ne (s : State) (i m op arg a : Nat) (h : a ≠ m) (h2 : a ≠ EVT_SRC_STAT.a 60) :
    (s.ordered i m op arg).reg a = s.reg a := by
  unfold State.ordered
  rw [State.reg_audit_ne _ _ _ _ _ _ _ _ h2, State.reg_setReg_ne _ _ _ _ h]

/-- A command that its mailbox refuses. -/
theorem State.refused_of (u : State) (m n c : Nat) (hc : u.Canonical) (hcn : c < 16) :
    ((u.mbxDone m n).mbxFail m c).Refused m c := by
  have hw : Cells.wf resetOf (u.mbxDone m n).regs = true := ((State.mbxDone_keeps (State.Keeps.refl u) m n).canon hc).regs
  unfold State.mbxFail
  refine ⟨?_, ?_, ?_⟩
  · rw [State.reg_setFs_ne _ _ _ _ (by omega)]
    exact (State.mbxDone_done u u m n hc.regs rfl).1
  · unfold State.setFs
    rw [State.reg_setReg _ _ _ hw]
    simp only [List.foldl]
    rw [fldGet_fldSet_ne _ _ _ _ (by decide) (by decide), fldGet_fldSet _ _ _ (by decide)]
    decide
  · unfold State.setFs
    rw [State.reg_setReg _ _ _ hw]
    simp only [List.foldl]
    rw [fldGet_fldSet _ _ _ (by decide)]
    unfold MBX_STAT.err_code
    dsimp only; omega

theorem State.refused_same (u : State) (m n c : Nat) : (u.mbxDone m n).mbxFail m c = { u with regs := ((u.mbxDone m n).mbxFail m c).regs } := by
  have h := State.mbxDone_same u m n
  generalize u.mbxDone m n = x at h ⊢
  rw [h]
  rfl

end Sys2Proof.Machine
end

