-- ==== Sys2Proof/Laws/Map.lean ====
section
/-! SUPPORT. What the register map holds at the addresses that commands of their own write (the registers and mailboxes of the
chapters), as the map's tables give it. -/

namespace Sys2Proof.Machine

theorem kindOf_EVT_SRC_STAT (n : Fin 64) : kindOf (EVT_SRC_STAT.a n.val) = .reg { base := 1048584, s1 := 16, n1 := 64, w1c := 0x0000000d#32 } := by revert n; decide
theorem kindOf_EVT_CNT_CLR_LO : kindOf (EVT_CNT_CLR_LO.a) = .reg { base := 1049600, w1s := 0xffffffff#32 } := by decide
theorem kindOf_EVT_CNT_CLR_HI : kindOf (EVT_CNT_CLR_HI.a) = .reg { base := 1049604, w1s := 0xffffffff#32 } := by decide
theorem kindOf_0x100500 : kindOf (0x100500) = .mctrl ⟨1049856, 4, true⟩ := by decide
theorem kindOf_rolChal : kindOf (rolChal) = .mctrl ⟨1572864, 4, true⟩ := by decide
theorem kindOf_rolResp : kindOf (rolResp) = .mctrl ⟨1573120, 8, false⟩ := by decide
theorem kindOf_ROL_CTRL : kindOf (ROL_CTRL.a) = .reg { base := 1573380, w1s := 0x00000001#32 } := by decide
theorem kindOf_ROL_LC_REQ : kindOf (ROL_LC_REQ.a) = .reg { base := 1573416, rwg := 0x00000003#32, par := 0x00000003#32, tri := 0x00000003#32, cut := 0x00000005#32, guard := true } := by decide
theorem kindOf_rolAud : kindOf (rolAud) = .mctrl ⟨1573632, 8, true⟩ := by decide
theorem kindOf_timAdj : kindOf (timAdj) = .mctrl ⟨2097920, 4, false⟩ := by decide
theorem kindOf_TIM_DOM_CTRL (n : Fin 2) : kindOf (TIM_DOM_CTRL.a n.val) = .reg { base := 2097220, s1 := 16, n1 := 2, w1s := 0x00000003#32 } := by revert n; decide
theorem kindOf_TIM_WKT_CTRL : kindOf (TIM_WKT_CTRL.a) = .reg { base := 2097284, rws := 0x00000001#32 } := by decide
theorem kindOf_0x200200 : kindOf (0x200200) = .mctrl ⟨2097664, 12, true⟩ := by decide
theorem kindOf_0x200400 : kindOf (0x200400) = .mctrl ⟨2098176, 8, true⟩ := by decide
theorem kindOf_0x200500 : kindOf (0x200500) = .mctrl ⟨2098432, 8, true⟩ := by decide
theorem kindOf_0x200600 : kindOf (0x200600) = .mctrl ⟨2098688, 12, true⟩ := by decide
theorem kindOf_TIM_PORT_LDLY_MEAS (n : Fin 24) : kindOf (TIM_PORT_LDLY_MEAS.a n.val) = .reg { base := 2101264, s1 := 32, n1 := 24, rw := 0x00ffffff#32, par := 0x00ffffff#32, cut := 0x81000001#32 } := by revert n; decide
theorem kindOf_TIM_PORT_CFG (n : Fin 24) : kindOf (TIM_PORT_CFG.a n.val) = .reg { base := 2101248, s1 := 32, n1 := 24, reset := 0x00001000#32, rw := 0x0000ff36#32, w1s := 0x00000008#32, par := 0x0000ff36#32, cut := 0x0001017f#32 } := by revert n; decide
theorem kindOf_PHS_CFG (n : Fin 4) : kindOf (PHS_CFG.a n.val) = .reg { base := 3145728, s1 := 64, n1 := 4, reset := 0x08000314#32, rw := 0xffc0ffff#32, par := 0xffc0ffff#32, cut := 0xbd410111#32 } := by revert n; decide
theorem kindOf_PHS_CTRL (n : Fin 4) : kindOf (PHS_CTRL.a n.val) = .reg { base := 3145776, s1 := 64, n1 := 4, w1s := 0x00000003#32 } := by revert n; decide
theorem kindOf_0x300400 : kindOf (0x300400) = .mctrl ⟨3146752, 6, true⟩ := by decide
theorem kindOf_SEQ_CTRL (n : Fin 8) : kindOf (SEQ_CTRL.a n.val) = .reg { base := 4194320, s1 := 256, n1 := 8, w1s := 0x0000003f#32 } := by revert n; decide
theorem kindOf_seqHpost : kindOf (seqHpost) = .mctrl ⟨4198912, 4, false⟩ := by decide
theorem kindOf_seqActMbx : kindOf (seqActMbx) = .mctrl ⟨4198400, 4, false⟩ := by decide
theorem kindOf_seqQinsp : kindOf (seqQinsp) = .mctrl ⟨4199168, 4, true⟩ := by decide
theorem kindOf_seqDbg : kindOf (seqDbg) = .mctrl ⟨4199424, 16, true⟩ := by decide
theorem kindOf_CLS_BANK_CTRL (n : Fin 2) : kindOf (CLS_BANK_CTRL.a n.val) = .reg { base := 8396816, w1s := 0x00000001#32 } := by revert n; decide
theorem kindOf_fdbCmd (n : Fin 2) : kindOf (fdbCmd n.val) = .mctrl ⟨8400896, 4, false⟩ := by revert n; decide
theorem kindOf_flwCmd (n : Fin 2) : kindOf (flwCmd n.val) = .mctrl ⟨8401408, 8, false⟩ := by revert n; decide
theorem kindOf_cipKey : kindOf (cipKey) = .mctrl ⟨25178112, 16, false⟩ := by decide
theorem kindOf_cipSaStat : kindOf (cipSaStat) = .mctrl ⟨25178368, 8, true⟩ := by decide
theorem kindOf_cipMibMbx : kindOf (cipMibMbx) = .mctrl ⟨25178624, 2, true⟩ := by decide
theorem kindOf_CIP_ALARM_CTRL : kindOf (CIP_ALARM_CTRL.a) = .reg { base := 25174040, w1s := 0x00000001#32 } := by decide
theorem kindOf_CIP_ALARM_STAT : kindOf (CIP_ALARM_STAT.a) = .reg { base := 25174044, w1c := 0x80000000#32 } := by decide
theorem kindOf_ETH_PORT_CFG (n : Fin 24) : kindOf (ETH_PORT_CFG.a n.val) = .reg { base := 20971520, s1 := 256, n1 := 24, reset := 0x400005f2#32, rw := 0xc0003fff#32, par := 0xc0003fff#32, cut := 0xc0004001#32 } := by revert n; decide
theorem kindOf_mdioCmd : kindOf (mdioCmd) = .mctrl ⟨20983808, 2, false⟩ := by decide
theorem kindOf_ethMib : kindOf (ethMib) = .mctrl ⟨20984320, 2, true⟩ := by decide
theorem kindOf_CAN_CTRL (n : Fin 24) : kindOf (CAN_CTRL.a n.val) = .reg { base := 27262988, s1 := 256, n1 := 24, w1s := 0x00000001#32 } := by revert n; decide
theorem kindOf_CAN_BUF_CMD (n : Fin 24) : kindOf (CAN_BUF_CMD.a n.val) = .reg { base := 27262992, s1 := 256, n1 := 24, wo := 0xc000003f#32 } := by revert n; decide
theorem kindOf_CAN_CFG (n : Fin 24) : kindOf (CAN_CFG.a n.val) = .reg { base := 27262976, s1 := 256, n1 := 24, reset := 0x02040000#32, rw := 0xff07ff00#32, par := 0xff07ff00#32, cut := 0xff090101#32 } := by revert n; decide
theorem kindOf_gwBatch : kindOf (gwBatch) = .mctrl ⟨27279616, 8, false⟩ := by decide
theorem kindOf_gwRxStr : kindOf (gwRxStr) = .mctrl ⟨27279872, 4, false⟩ := by decide
theorem kindOf_GW_POOL : kindOf (GW_POOL.a) = .reg { base := 27279360, rw := 0x0fff0fff#32, par := 0x0fff0fff#32, cut := 0x10011001#32 } := by decide
theorem kindOf_CPX_DOORBELL : kindOf (CPX_DOORBELL.a) = .reg { base := 31457344, w1s := 0xffffffff#32 } := by decide
theorem kindOf_freScnt : kindOf (freScnt) = .mctrl ⟨16809792, 8, true⟩ := by decide
theorem kindOf_PAIR_CFG : kindOf (PAIR_CFG.a) = .reg { base := 30408704, reset := 0x10f0000a#32, rwg := 0xfff003ff#32, par := 0xfff003ff#32, tri := 0xfff003ff#32, cut := 0xf0900401#32, guard := true } := by decide
theorem kindOf_PAIR_CTRL : kindOf (PAIR_CTRL.a) = .reg { base := 30408772, w1s := 0x00000003#32 } := by decide
theorem kindOf_PWR_CTRL : kindOf (PWR_CTRL.a) = .reg { base := 29360128, w1s := 0x0000001e#32, rws := 0x00000001#32 } := by decide
theorem kindOf_PWR_PART_PORTS : kindOf (PWR_PART_PORTS.a) = .reg { base := 29360144, rw := 0x00ffffff#32, par := 0x00ffffff#32, cut := 0x01000001#32 } := by decide
theorem kindOf_PWR_PART_BUS : kindOf (PWR_PART_BUS.a) = .reg { base := 29360148, rw := 0xffffffff#32, par := 0xffffffff#32, cut := 0x01000001#32 } := by decide
theorem kindOf_SYS_RST_CTRL : kindOf (SYS_RST_CTRL.a) = .reg { base := 24, rwg := 0x00000003#32, par := 0x00000003#32, tri := 0x00000003#32, cut := 0x00000007#32, guard := true } := by decide
theorem kindOf_SYS_BOOT_CTRL : kindOf (SYS_BOOT_CTRL.a) = .reg { base := 36, w1s := 0x00000003#32 } := by decide
theorem kindOf_SYS_BV_CTRL : kindOf (SYS_BV_CTRL.a) = .reg { base := 64, rws := 0x00000001#32 } := by decide
theorem kindOf_SYS_UPD_NOTE : kindOf (SYS_UPD_NOTE.a) = .reg { base := 40, wo := 0x000fffff#32 } := by decide
theorem kindOf_sysFlash : kindOf (sysFlash) = .mctrl ⟨1024, 9, false⟩ := by decide
theorem kindOf_ROL_LC_REQ_C : kindOf (ROL_LC_REQ.a + 4) = .comp { base := 1573416, rwg := 0x00000003#32, par := 0x00000003#32, tri := 0x00000003#32, cut := 0x00000005#32, guard := true } := by decide
theorem kindOf_PAIR_CFG_C : kindOf (PAIR_CFG.a + 4) = .comp { base := 30408704, reset := 0x10f0000a#32, rwg := 0xfff003ff#32, par := 0xfff003ff#32, tri := 0xfff003ff#32, cut := 0xf0900401#32, guard := true } := by decide
theorem kindOf_SYS_RST_CTRL_C : kindOf (SYS_RST_CTRL.a + 4) = .comp { base := 24, rwg := 0x00000003#32, par := 0x00000003#32, tri := 0x00000003#32, cut := 0x00000007#32, guard := true } := by decide

/-- The row of an address, where one row alone holds it. -/
theorem find_only {α : Type} (l : List α) (p : α → Bool) (x : α) (hx : x ∈ l) (hp : p x = true) (h : ∀ y ∈ l, y ≠ x → p y = false) : l.find? p = some x := by
  induction l with
  | nil => cases hx
  | cons a r ih =>
    rw [List.find?_cons]
    by_cases e : a = x
    · subst e; rw [hp]
    · rw [h a (List.mem_cons.2 (.inl rfl)) e]
      exact ih ((List.mem_cons.1 hx).resolve_left (fun q => e q.symm)) (fun y hy => h y (List.mem_cons.2 (.inr hy)))
/-- A row can hold an address only in its extent. -/
theorem rowHit_extent (r : RegRow) (a : Nat) (h : rowHit r a = true) (h1 : r.s1 ≠ 0) : r.base ≤ a ∧ a < r.base + r.s1 * r.n1 := by
  unfold rowHit at h
  dsimp only at h
  split at h
  · cases h
  · have : (a - r.base) / r.s1 < r.n1 := by
      split at h <;> simp at h <;> tauto
    rw [Nat.div_lt_iff_lt_mul (by omega)] at this
    rw [Nat.mul_comm] at this
    omega
theorem rowAt_POL_METER_BURST (p : Fin 2) (m : Fin 2048) : rowAt (POL_METER_BURST.a p.val m.val) = some { base := 8519684, s1 := 16, n1 := 2048, rw := 0x00ffffff#32, par := 0x00ffffff#32, cut := 0x01000001#32 } := by
  have hm := m.isLt
  have hb : blockOf (POL_METER_BURST.a p.val m.val) = 6 + p.val := by
    unfold blockOf POL_METER_BURST.a; split_ifs <;> omega
  have hf : foldPipe (POL_METER_BURST.a p.val m.val) = 8519684 + 16 * m.val := by
    unfold foldPipe; rw [hb]; unfold POL_METER_BURST.a; split_ifs <;> omega
  unfold rowAt
  rw [hf, hb]
  have : blockRows (6 + p.val) = blockRows 6 := by clear hb hf; revert p; decide
  rw [this]
  apply find_only
  · decide
  · unfold rowHit; dsimp only; rw [if_neg (by omega), if_pos rfl]; simp
  · intro r hr hne
    have hs : ∀ r ∈ blockRows 6, r ≠ { base := 8519684, s1 := 16, n1 := 2048, rw := 0x00ffffff#32, par := 0x00ffffff#32, cut := 0x01000001#32 } → r.s1 ≠ 0 ∧ (8519684 + 16 * 2047 < r.base ∨ r.base + r.s1 * r.n1 ≤ 8519684 ∨ (r.n2 = 1 ∧ r.base % 16 ≠ 4 ∧ r.s1 % 16 = 0 ∧ r.base ≤ 8519684 + 16)) := by decide
    obtain ⟨h1, h2⟩ := hs r hr hne
    by_contra hc
    have hc : rowHit r (8519684 + 16 * m.val) = true := by simpa using hc
    obtain ⟨h3, h4⟩ := rowHit_extent r _ hc h1
    obtain h2 | h2 | ⟨h2, h5, h6, h7⟩ := h2
    · omega
    · omega
    · unfold rowHit at hc
      dsimp only at hc
      rw [if_neg (by omega), if_pos h2] at hc
      simp only [Bool.and_eq_true, decide_eq_true_eq] at hc
      obtain ⟨q, hq⟩ := Nat.dvd_of_mod_eq_zero hc.1
      obtain ⟨k, hk⟩ := Nat.dvd_of_mod_eq_zero h6
      have e : 8519684 + 16 * m.val - r.base = 16 * (k * q) := by rw [hq, hk]; ring
      omega

theorem kindOf_of_row (a : Nat) (r : RegRow) (h : rowAt a = some r) : kindOf a = .reg r := by
  unfold kindOf; rw [h]

end Sys2Proof.Machine
end

