-- ==== Sys2Proof/Laws/Mem.lean ====
section
/-! SUPPORT. Reads of a byte store after writes of several bytes. -/

namespace Sys2Proof.Machine

theorem leBytes_length (n v : Nat) : (leBytes n v).length = n := by
  induction n generalizing v with
  | zero => rfl
  | succ n ih => show (leBytes n (v / 256)).length + 1 = n + 1; rw [ih]

/-- A byte outside the written ones. -/
theorem get_memPut_out {d : Nat → Byte} (m : Cells Byte) (a k : Nat) (l : List Byte) (h : k < a ∨ a + l.length ≤ k) :
    Cells.get d (memPut d m a l) k = Cells.get d m k := by
  induction l generalizing m a with
  | nil => rfl
  | cons b r ih =>
    simp only [List.length_cons] at h
    show Cells.get d (memPut d (Cells.set d m a b) (a + 1) r) k = _
    rw [ih _ _ (by omega), Cells.get_set_ne _ _ _ _ _ (by omega)]

/-- The number read back where it was written. -/
theorem memGet_memPut {d : Nat → Byte} {m : Cells Byte} (h : Cells.wf d m = true) (a n v : Nat) :
    memGet d (memPut d m a (leBytes n v)) a n = v % 256 ^ n := by
  induction n generalizing m a v with
  | zero => simp [memGet, Nat.mod_one]
  | succ n ih =>
    have hs : Cells.wf d (Cells.set d m a (BitVec.ofNat 8 v)) = true := Cells.wf_set h a (BitVec.ofNat 8 v)
    show (Cells.get d (memPut d (Cells.set d m a (BitVec.ofNat 8 v)) (a + 1) (leBytes n (v / 256))) a).toNat +
      256 * memGet d (memPut d (Cells.set d m a (BitVec.ofNat 8 v)) (a + 1) (leBytes n (v / 256))) (a + 1) n = _
    rw [ih hs, get_memPut_out _ _ _ _ (by omega), Cells.get_set h, BitVec.toNat_ofNat, Nat.pow_succ 256 n, Nat.mul_comm (256 ^ n) 256, Nat.mod_mul]

/-- A number read elsewhere. -/
theorem memGet_memPut_out {d : Nat → Byte} (m : Cells Byte) (a b n : Nat) (l : List Byte) (h : b + n ≤ a ∨ a + l.length ≤ b) :
    memGet d (memPut d m a l) b n = memGet d m b n := by
  induction n generalizing b with
  | zero => rfl
  | succ n ih =>
    show (Cells.get d (memPut d m a l) b).toNat + 256 * memGet d (memPut d m a l) (b + 1) n = (Cells.get d m b).toNat + 256 * memGet d m (b + 1) n
    rw [get_memPut_out _ _ _ _ (by omega), ih _ (by omega)]

theorem memGet_lt (d : Nat → Byte) (m : Cells Byte) (a n : Nat) : memGet d m a n < 256 ^ n := by
  induction n generalizing a with
  | zero => simp [memGet]
  | succ n ih =>
    have h1 := ih (a + 1)
    have h2 := (Cells.get d m a).isLt
    show (Cells.get d m a).toNat + 256 * memGet d m (a + 1) n < 256 ^ (n + 1)
    rw [Nat.pow_succ]
    omega

end Sys2Proof.Machine
end

