-- ==== Sys2Proof/Laws/Queues.lean ====
section
/-! SUPPORT. What the operations on the timed-action queues do to one sequencer's queue and to the registers. -/

namespace Sys2Proof.Machine

theorem State.sq_setSq (s : State) (n : Nat) (x : SeqSt) (hc : s.Canonical) : (s.setSq n x).sq n = x := Cells.get_set hc.seq _ _

theorem State.sq_setSq_ne (s : State) (n m : Nat) (x : SeqSt) (h : m ≠ n) : (s.setSq n x).sq m = s.sq m := Cells.get_set_ne _ _ _ _ _ h

theorem State.sq_raise (s : State) (n c i m : Nat) : (s.raise n c i).sq m = s.sq m := by
  unfold State.sq; rw [State.raise_seq]

theorem State.bumpN_same (s : State) (a : Nat) (f : Fld) (k : Nat) : s.bumpN a f k = { s with regs := (s.bumpN a f k).regs } := rfl

theorem State.sq_bumpN (s : State) (a : Nat) (f : Fld) (k m : Nat) : (s.bumpN a f k).sq m = s.sq m := rfl

theorem State.setQ_same (s : State) (n : Nat) (x : SeqSt) : s.setQ n x = { s with regs := (s.setQ n x).regs, seq := (s.setQ n x).seq } := rfl

theorem State.sq_setQ (s : State) (n : Nat) (x : SeqSt) (hc : s.Canonical) : (s.setQ n x).sq n = x := State.sq_setSq s n x hc

theorem State.sq_setQ_ne (s : State) (n m : Nat) (x : SeqSt) (h : m ≠ n) : (s.setQ n x).sq m = s.sq m := State.sq_setSq_ne s n m x h

/-! ### The cancel of a domain's entries (06 R142) -/

theorem State.cancelIn_same (s : State) (d n : Nat) : s.cancelIn d n =
    { s with regs := (s.cancelIn d n).regs, evt := (s.cancelIn d n).evt, out := (s.cancelIn d n).out, seq := (s.cancelIn d n).seq, pcie := { s.pcie with pba := (s.cancelIn d n).pcie.pba } } := by
  unfold State.cancelIn
  dsimp only
  split
  · rfl
  · rw [State.raise_same]; rfl

theorem State.cancelIn_sq (s : State) (d n : Nat) (hc : s.Canonical) :
    (s.cancelIn d n).sq n = { s.sq n with aq := (s.sq n).aq.filter (fun e => e.dom != d) } := by
  unfold State.cancelIn
  dsimp only
  split
  · rename_i h
    have hl : ((s.sq n).aq.filter (fun e => e.dom != d)).length = (s.sq n).aq.length := by
      have := List.length_filter_le (fun e : AEnt => e.dom != d) (s.sq n).aq
      omega
    rw [List.filter_eq_self.2 (List.length_filter_eq_length_iff.1 hl)]
  · rw [State.sq_raise, State.sq_bumpN]; exact State.sq_setQ s n _ hc

theorem State.cancelIn_sq_ne (s : State) (d n m : Nat) (h : m ≠ n) : (s.cancelIn d n).sq m = s.sq m := by
  unfold State.cancelIn
  dsimp only
  split
  · rfl
  · rw [State.sq_raise, State.sq_bumpN]; exact State.sq_setQ_ne s n m _ h

theorem State.reg_cancelIn_ne (s : State) (d n a : Nat) (h1 : a ≠ SEQ_QSTAT.a n) (h2 : a ≠ SEQ_QCNT_B.a n) (h3 : a ≠ EVT_SRC_STAT.a (33 + n)) :
    (s.cancelIn d n).reg a = s.reg a := by
  unfold State.cancelIn
  dsimp only
  split
  · rfl
  · rw [State.reg_raise_ne _ _ _ _ _ h3]
    unfold State.bumpN
    rw [State.reg_setF_ne _ _ _ _ _ h2]
    exact State.reg_setFs_ne _ _ _ _ h1

/-- What the cancel of a domain's entries in the first `k` queues has done. -/
theorem State.cancelTo (s : State) (d k : Nat) (hc : s.Canonical) :
    let t := (List.range k).foldl (fun u n => u.cancelIn d n) s
    t.Canonical ∧ (t = { s with regs := t.regs, evt := t.evt, out := t.out, seq := t.seq, pcie := { s.pcie with pba := t.pcie.pba } }) ∧
    (∀ n, t.sq n = if n < k then { s.sq n with aq := (s.sq n).aq.filter (fun e => e.dom != d) } else s.sq n) ∧
    (∀ a, (∀ n, n < k → a ≠ SEQ_QSTAT.a n ∧ a ≠ SEQ_QCNT_B.a n ∧ a ≠ EVT_SRC_STAT.a (33 + n)) → t.reg a = s.reg a) := by
  dsimp only
  induction k with
  | zero => exact ⟨hc, rfl, fun n => by simp, fun a _ => rfl⟩
  | succ k ih =>
    rw [List.range_succ, List.foldl_append]
    simp only [List.foldl_cons, List.foldl_nil]
    generalize hu : (List.range k).foldl (fun u n => u.cancelIn d n) s = u at ih
    obtain ⟨h1, h2, h3, h4⟩ := ih
    refine ⟨(State.cancelIn_keeps (State.Keeps.refl u) d k).canon h1, ?_, ?_, ?_⟩
    · generalize hv : u.cancelIn d k = v
      have := State.cancelIn_same u d k
      rw [hv] at this
      rw [this, h2]
    · intro n
      by_cases hn : n = k
      · subst hn
        rw [State.cancelIn_sq _ _ _ h1, h3 n, if_neg (by omega), if_pos (by omega)]
      · rw [State.cancelIn_sq_ne _ _ _ _ hn, h3 n]
        by_cases hk : n < k
        · rw [if_pos hk, if_pos (by omega)]
        · rw [if_neg hk, if_neg (by omega)]
    · intro a ha
      rw [State.reg_cancelIn_ne _ _ _ _ (ha k (by omega)).1 (ha k (by omega)).2.1 (ha k (by omega)).2.2]
      exact h4 a fun n hn => ha n (by omega)

/-- The cancel of a domain's entries, as one operation: the queues, and nothing of the domains. -/
theorem State.cancelAngle_spec (s : State) (d : Nat) (hc : s.Canonical) :
    s.Cancelled (s.cancelAngle d) d ∧
    (s.cancelAngle d = { s with regs := (s.cancelAngle d).regs, evt := (s.cancelAngle d).evt, out := (s.cancelAngle d).out, seq := (s.cancelAngle d).seq, pcie := { s.pcie with pba := (s.cancelAngle d).pcie.pba } }) ∧
    (∀ a, (∀ n, n < 8 → a ≠ SEQ_QSTAT.a n ∧ a ≠ SEQ_QCNT_B.a n ∧ a ≠ EVT_SRC_STAT.a (33 + n)) → (s.cancelAngle d).reg a = s.reg a) := by
  obtain ⟨_, h2, h3, h4⟩ := State.cancelTo s d 8 hc
  rw [show s.cancelAngle d = (List.range 8).foldl (fun u n => u.cancelIn d n) s by unfold State.cancelAngle; rfl]
  generalize (List.range 8).foldl (fun u n => u.cancelIn d n) s = t at h2 h3 h4 ⊢
  exact ⟨fun n hn => by rw [h3 n, if_pos hn], h2, h4⟩

theorem State.cancelAngle_ph (s : State) (d e : Nat) (hc : s.Canonical) : (s.cancelAngle d).ph e = s.ph e := by
  have h := (State.cancelAngle_spec s d hc).2.1
  generalize s.cancelAngle d = t at h ⊢
  unfold State.ph
  rw [h]

theorem State.cancelAngle_phState (s : State) (d : Nat) (e : Fin 4) (hc : s.Canonical) : (s.cancelAngle d).phState e.val = s.phState e.val := by
  unfold State.phState
  rw [(State.cancelAngle_spec s d hc).2.2 _ fun n hn => ?_]
  unfold PHS_STAT.a SEQ_QSTAT.a SEQ_QCNT_B.a EVT_SRC_STAT.a
  omega

theorem State.setPh_setPh (s : State) (d : Nat) (x y : PhSt) (hc : s.Canonical) : (s.setPh d x).setPh d y = s.setPh d y := by
  unfold State.setPh
  dsimp only
  rw [Cells.set_set hc.phs]

theorem State.ph_setPh (s : State) (d : Nat) (x : PhSt) (hc : s.Canonical) : (s.setPh d x).ph d = x := Cells.get_set hc.phs _ _

theorem State.ph_setFs (s : State) (a d : Nat) (l : List (Fld × Nat)) : (s.setFs a l).ph d = s.ph d := rfl

theorem State.ph_raise (s : State) (n c i d : Nat) : (s.raise n c i).ph d = s.ph d := by
  unfold State.ph; rw [State.raise_phs]

/-- The flush of a queue keeps the entries that fall due on this tick (06 R131). -/
theorem State.flushQ_sq (s : State) (n : Nat) (hc : s.Canonical) :
    (s.flushQ n).sq n = { s.sq n with tq := (s.sq n).tq.filter (fun e => e.due.isSome), aq := (s.sq n).aq.filter (fun e => s.angleDue e) } := by
  unfold State.flushQ
  dsimp only
  split
  · rename_i h
    have h1 := List.length_filter_le (fun e : TEnt => e.due.isSome) (s.sq n).tq
    have h2 := List.length_filter_le (fun e : AEnt => s.angleDue e) (s.sq n).aq
    unfold SeqSt.used at h
    rw [List.filter_eq_self.2 (List.length_filter_eq_length_iff.1 (show ((s.sq n).tq.filter (fun e => e.due.isSome)).length = _ by omega)),
      List.filter_eq_self.2 (List.length_filter_eq_length_iff.1 (show ((s.sq n).aq.filter (fun e => s.angleDue e)).length = _ by omega))]
  · rw [State.sq_raise, State.sq_bumpN]; exact State.sq_setQ s n _ hc

theorem State.flushQ_sq_ne (s : State) (n m : Nat) (h : m ≠ n) : (s.flushQ n).sq m = s.sq m := by
  unfold State.flushQ
  dsimp only
  split
  · rfl
  · rw [State.sq_raise, State.sq_bumpN]; exact State.sq_setQ_ne s n m _ h

theorem State.reg_flushQ_ne (s : State) (n a : Nat) (h1 : a ≠ SEQ_QSTAT.a n) (h2 : a ≠ SEQ_QCNT_A.a n) (h3 : a ≠ EVT_SRC_STAT.a (33 + n)) : (s.flushQ n).reg a = s.reg a := by
  unfold State.flushQ
  dsimp only
  split
  · rfl
  · rw [State.reg_raise_ne _ _ _ _ _ h3]
    unfold State.bumpN
    rw [State.reg_setF_ne _ _ _ _ _ h2]
    exact State.reg_setFs_ne _ _ _ _ h1

/-- Whether an entry is due rests on its phase domain alone. -/
theorem State.angleDue_eq (s t : State) (e : AEnt) (h1 : t.phs = s.phs) (h2 : t.now = s.now) (h3 : ∀ d, t.reg (PHS_STAT.a d) = s.reg (PHS_STAT.a d)) : t.angleDue e = s.angleDue e := by
  unfold State.angleDue State.crosses State.ph State.phM State.phState
  rw [h1, h2, h3]

end Sys2Proof.Machine
end

