-- ==== Sys2Proof/Laws/Requests.lean ====
section
/-! SUPPORT. What a request at each mailbox does when it is in order: the control word, the audit entry where the write is logged,
and the command of the mailbox's chapter. -/

namespace Sys2Proof.Machine

theorem State.request_at_0x100500 (s : State) (i op arg : Nat) (h : s.MayAsk i 0x100500) (ho : op < 256) (ha : arg < 65536) :
    s.request i 0x100500 op arg = (s.asked 0x100500 op arg).ffReq arg := by
  rw [State.request_ask s i 0x100500 op arg _ h ho ha (by decide) (by decide) kindOf_0x100500 rfl (by simp; decide) (by decide)]
  unfold State.mbxReq
  have hf : foldPipe 0x100500 = 0x100500 := by decide
  dsimp only
  rw [hf, if_pos rfl]

theorem State.request_rolChal (s : State) (i op arg : Nat) (h : s.MayAsk i rolChal) (ho : op < 256) (ha : arg < 65536) :
    s.request i rolChal op arg = (s.asked rolChal op arg).chalReq i op arg := by
  rw [State.request_ask s i rolChal op arg _ h ho ha (by decide) (by decide) kindOf_rolChal rfl (by simp; decide) (by decide)]
  unfold State.mbxReq
  have hf : foldPipe rolChal = 1572864 := by decide
  dsimp only
  rw [hf]
  rfl

theorem State.request_rolAud (s : State) (i op arg : Nat) (h : s.MayAsk i rolAud) (ho : op < 256) (ha : arg < 65536) :
    s.request i rolAud op arg = (s.asked rolAud op arg).audReq op arg := by
  rw [State.request_ask s i rolAud op arg _ h ho ha (by decide) (by decide) kindOf_rolAud rfl (by simp; decide) (by decide)]
  unfold State.mbxReq
  have hf : foldPipe rolAud = 1573632 := by decide
  dsimp only
  rw [hf]
  rfl

theorem State.request_at_0x200200 (s : State) (i op arg : Nat) (h : s.MayAsk i 0x200200) (ho : op < 256) (ha : arg < 65536) :
    s.request i 0x200200 op arg = (s.asked 0x200200 op arg).timSnapReq op arg := by
  rw [State.request_ask s i 0x200200 op arg _ h ho ha (by decide) (by decide) kindOf_0x200200 rfl (by simp; decide) (by decide)]
  unfold State.mbxReq
  have hf : foldPipe 0x200200 = 0x200200 := by decide
  dsimp only
  rw [hf]
  rfl

theorem State.request_at_0x200400 (s : State) (i op arg : Nat) (h : s.MayAsk i 0x200400) (ho : op < 256) (ha : arg < 65536) :
    s.request i 0x200400 op arg = (s.asked 0x200400 op arg).rxtsReq op arg := by
  rw [State.request_ask s i 0x200400 op arg _ h ho ha (by decide) (by decide) kindOf_0x200400 rfl (by simp; decide) (by decide)]
  unfold State.mbxReq
  have hf : foldPipe 0x200400 = 0x200400 := by decide
  dsimp only
  rw [hf]
  rfl

theorem State.request_at_0x200500 (s : State) (i op arg : Nat) (h : s.MayAsk i 0x200500) (ho : op < 256) (ha : arg < 65536) :
    s.request i 0x200500 op arg = (s.asked 0x200500 op arg).txtsReq op arg := by
  rw [State.request_ask s i 0x200500 op arg _ h ho ha (by decide) (by decide) kindOf_0x200500 rfl (by simp; decide) (by decide)]
  unfold State.mbxReq
  have hf : foldPipe 0x200500 = 0x200500 := by decide
  dsimp only
  rw [hf]
  rfl

theorem State.request_at_0x300400 (s : State) (i op arg : Nat) (h : s.MayAsk i 0x300400) (ho : op < 256) (ha : arg < 65536) :
    s.request i 0x300400 op arg = (s.asked 0x300400 op arg).phSnapReq arg := by
  rw [State.request_ask s i 0x300400 op arg _ h ho ha (by decide) (by decide) kindOf_0x300400 rfl (by simp; decide) (by decide)]
  unfold State.mbxReq
  have hf : foldPipe 0x300400 = 0x300400 := by decide
  dsimp only
  rw [hf]
  rfl

theorem State.request_seqQinsp (s : State) (i op arg : Nat) (h : s.MayAsk i seqQinsp) (ho : op < 256) (ha : arg < 65536) :
    s.request i seqQinsp op arg = (s.asked seqQinsp op arg).qinspReq arg := by
  rw [State.request_ask s i seqQinsp op arg _ h ho ha (by decide) (by decide) kindOf_seqQinsp rfl (by simp; decide) (by decide)]
  unfold State.mbxReq
  have hf : foldPipe seqQinsp = 4199168 := by decide
  dsimp only
  rw [hf]
  rfl

theorem State.request_seqDbg (s : State) (i op arg : Nat) (h : s.MayAsk i seqDbg) (ho : op < 256) (ha : arg < 65536) :
    s.request i seqDbg op arg = (s.asked seqDbg op arg).dbgReq op arg := by
  rw [State.request_ask s i seqDbg op arg _ h ho ha (by decide) (by decide) kindOf_seqDbg rfl (by simp; decide) (by decide)]
  unfold State.mbxReq
  have hf : foldPipe seqDbg = 4199424 := by decide
  dsimp only
  rw [hf]
  rfl

theorem State.request_cipSaStat (s : State) (i op arg : Nat) (h : s.MayAsk i cipSaStat) (ho : op < 256) (ha : arg < 65536) :
    s.request i cipSaStat op arg = (s.asked cipSaStat op arg).saStatReq arg := by
  rw [State.request_ask s i cipSaStat op arg _ h ho ha (by decide) (by decide) kindOf_cipSaStat rfl (by simp; decide) (by decide)]
  unfold State.mbxReq
  have hf : foldPipe cipSaStat = 25178368 := by decide
  dsimp only
  rw [hf]
  rfl

theorem State.request_cipMibMbx (s : State) (i op arg : Nat) (h : s.MayAsk i cipMibMbx) (ho : op < 256) (ha : arg < 65536) :
    s.request i cipMibMbx op arg = (s.asked cipMibMbx op arg).cipMibReq op arg := by
  rw [State.request_ask s i cipMibMbx op arg _ h ho ha (by decide) (by decide) kindOf_cipMibMbx rfl (by simp; decide) (by decide)]
  unfold State.mbxReq
  have hf : foldPipe cipMibMbx = 25178624 := by decide
  dsimp only
  rw [hf]
  rfl

theorem State.request_ethMib (s : State) (i op arg : Nat) (h : s.MayAsk i ethMib) (ho : op < 256) (ha : arg < 65536) :
    s.request i ethMib op arg = (s.asked ethMib op arg).mibReq op arg := by
  rw [State.request_ask s i ethMib op arg _ h ho ha (by decide) (by decide) kindOf_ethMib rfl (by simp; decide) (by decide)]
  unfold State.mbxReq
  have hf : foldPipe ethMib = 20984320 := by decide
  dsimp only
  rw [hf]
  rfl

theorem State.request_freScnt (s : State) (i op arg : Nat) (h : s.MayAsk i freScnt) (ho : op < 256) (ha : arg < 65536) :
    s.request i freScnt op arg = (s.asked freScnt op arg).freReq op arg := by
  rw [State.request_ask s i freScnt op arg _ h ho ha (by decide) (by decide) kindOf_freScnt rfl (by simp; decide) (by decide)]
  unfold State.mbxReq
  have hf : foldPipe freScnt = 16809792 := by decide
  dsimp only
  rw [hf]
  rfl

theorem State.request_rolResp (s : State) (i op arg : Nat) (h : s.MayOrder i (rolResp)) (ho : op < 256) (ha : arg < 65536) :
    s.request i (rolResp) op arg = (s.ordered i (rolResp) op arg).respReq i op arg := by
  rw [State.request_order s i (rolResp) op arg _ h ho ha (by decide) (by decide) (kindOf_rolResp) rfl (by simp; decide) (by decide), if_pos ?_]
  · unfold State.mbxReq
    have hf : foldPipe rolResp = 1573120 := by decide
    dsimp only
    rw [hf]
    rfl
  · unfold ctrlLogged
    rw [(request_fields op arg ho ha).1]
    rfl

theorem State.request_seqActMbx (s : State) (i op arg : Nat) (h : s.MayOrder i (seqActMbx)) (ho : op < 256) (ha : arg < 65536) :
    s.request i (seqActMbx) op arg = (s.ordered i (seqActMbx) op arg).actReq op arg := by
  rw [State.request_order s i (seqActMbx) op arg _ h ho ha (by decide) (by decide) (kindOf_seqActMbx) rfl (by simp; decide) (by decide), if_pos ?_]
  · unfold State.mbxReq
    have hf : foldPipe seqActMbx = 4198400 := by decide
    dsimp only
    rw [hf]
    rfl
  · unfold ctrlLogged
    rw [(request_fields op arg ho ha).1]
    rfl

theorem State.request_seqHpost (s : State) (i op arg : Nat) (h : s.MayOrder i (seqHpost)) (ho : op < 256) (ha : arg < 65536) :
    s.request i (seqHpost) op arg = (s.ordered i (seqHpost) op arg).hpostReq op arg := by
  rw [State.request_order s i (seqHpost) op arg _ h ho ha (by decide) (by decide) (kindOf_seqHpost) rfl (by simp; decide) (by decide), if_pos ?_]
  · unfold State.mbxReq
    have hf : foldPipe seqHpost = 4198912 := by decide
    dsimp only
    rw [hf]
    rfl
  · unfold ctrlLogged
    rw [(request_fields op arg ho ha).1]
    rfl

theorem State.request_fdbCmd (s : State) (i op arg : Nat) (n : Fin 2) (h : s.MayOrder i (fdbCmd n.val)) (ho : op < 256) (ha : arg < 65536) :
    s.request i (fdbCmd n.val) op arg = (s.ordered i (fdbCmd n.val) op arg).fdbReq n.val op arg := by
  rw [State.request_order s i (fdbCmd n.val) op arg _ h ho ha (by clear h; revert n; decide) (by clear h; revert n; decide) (kindOf_fdbCmd n) rfl (by clear h; revert n; simp; decide) (by clear h; revert n; decide), if_pos ?_]
  · unfold State.mbxReq
    have hb : (if blockOf (fdbCmd n.val) = 7 then 1 else 0) = n.val := by clear h; revert n; decide
    have hf : foldPipe (fdbCmd n.val) = 8400896 := by clear h; revert n; decide
    dsimp only
    rw [hb, hf]
    rfl
  · unfold ctrlLogged
    rw [(request_fields op arg ho ha).1]
    rfl

theorem State.request_flwCmd (s : State) (i op arg : Nat) (n : Fin 2) (h : s.MayOrder i (flwCmd n.val)) (ho : op < 256) (ha : arg < 65536) :
    s.request i (flwCmd n.val) op arg = (s.ordered i (flwCmd n.val) op arg).flwReq n.val op arg := by
  rw [State.request_order s i (flwCmd n.val) op arg _ h ho ha (by clear h; revert n; decide) (by clear h; revert n; decide) (kindOf_flwCmd n) rfl (by clear h; revert n; simp; decide) (by clear h; revert n; decide), if_pos ?_]
  · unfold State.mbxReq
    have hb : (if blockOf (flwCmd n.val) = 7 then 1 else 0) = n.val := by clear h; revert n; decide
    have hf : foldPipe (flwCmd n.val) = 8401408 := by clear h; revert n; decide
    dsimp only
    rw [hb, hf]
    rfl
  · unfold ctrlLogged
    rw [(request_fields op arg ho ha).1]
    rfl

theorem State.request_cipKey (s : State) (i op arg : Nat) (h : s.MayOrder i (cipKey)) (ho : op < 256) (ha : arg < 65536) :
    s.request i (cipKey) op arg = (s.ordered i (cipKey) op arg).keyReq op arg := by
  rw [State.request_order s i (cipKey) op arg _ h ho ha (by decide) (by decide) (kindOf_cipKey) rfl (by simp; decide) (by decide), if_pos ?_]
  · unfold State.mbxReq
    have hf : foldPipe cipKey = 25178112 := by decide
    dsimp only
    rw [hf]
    rfl
  · unfold ctrlLogged
    rw [(request_fields op arg ho ha).1]
    rfl

theorem State.request_mdioCmd (s : State) (i op arg : Nat) (h : s.MayOrder i (mdioCmd)) (ho : op < 256) (ha : arg < 65536) :
    s.request i (mdioCmd) op arg = (s.ordered i (mdioCmd) op arg).mdioReq op arg := by
  rw [State.request_order s i (mdioCmd) op arg _ h ho ha (by decide) (by decide) (kindOf_mdioCmd) rfl (by simp; decide) (by decide), if_pos ?_]
  · unfold State.mbxReq
    have hf : foldPipe mdioCmd = 20983808 := by decide
    dsimp only
    rw [hf]
    rfl
  · unfold ctrlLogged
    rw [(request_fields op arg ho ha).1]
    rfl

theorem State.request_gwBatch (s : State) (i op arg : Nat) (h : s.MayOrder i (gwBatch)) (ho : op < 256) (ha : arg < 65536) :
    s.request i (gwBatch) op arg = (s.ordered i (gwBatch) op arg).batchReq op arg := by
  rw [State.request_order s i (gwBatch) op arg _ h ho ha (by decide) (by decide) (kindOf_gwBatch) rfl (by simp; decide) (by decide), if_pos ?_]
  · unfold State.mbxReq
    have hf : foldPipe gwBatch = 27279616 := by decide
    dsimp only
    rw [hf]
    rfl
  · unfold ctrlLogged
    rw [(request_fields op arg ho ha).1]
    rfl

theorem State.request_gwRxStr (s : State) (i op arg : Nat) (h : s.MayOrder i (gwRxStr)) (ho : op < 256) (ha : arg < 65536) :
    s.request i (gwRxStr) op arg = (s.ordered i (gwRxStr) op arg).rxStrReq arg := by
  rw [State.request_order s i (gwRxStr) op arg _ h ho ha (by decide) (by decide) (kindOf_gwRxStr) rfl (by simp; decide) (by decide), if_pos ?_]
  · unfold State.mbxReq
    have hf : foldPipe gwRxStr = 27279872 := by decide
    dsimp only
    rw [hf]
    rfl
  · unfold ctrlLogged
    rw [(request_fields op arg ho ha).1]
    rfl

theorem State.request_sysFlash (s : State) (i op arg : Nat) (h : s.MayOrder i (sysFlash)) (ho : op < 256) (ha : arg < 65536) :
    s.request i (sysFlash) op arg = (s.ordered i (sysFlash) op arg).flashReq op arg := by
  rw [State.request_order s i (sysFlash) op arg _ h ho ha (by decide) (by decide) (kindOf_sysFlash) rfl (by simp; decide) (by decide), if_pos ?_]
  · unfold State.mbxReq
    have hf : foldPipe sysFlash = 1024 := by decide
    dsimp only
    rw [hf]
    rfl
  · unfold ctrlLogged
    rw [(request_fields op arg ho ha).1]
    rfl

/-- A TIM_ADJ command (03 R57), logged unless it is one that TIM_ADJ_CNT counts (02 R52). -/
theorem State.request_timAdj (s : State) (i op arg : Nat) (h : s.MayOrder i timAdj) (ho : op < 256) (ha : arg < 65536) :
    s.request i timAdj op arg = (if timAdjUnlogged op arg = true then s.setReg timAdj (reqWord op arg 1) else s.ordered i timAdj op arg).timAdjReq i op arg := by
  rw [State.request_order s i timAdj op arg _ h ho ha (by decide) (by decide) kindOf_timAdj rfl (by simp; decide) (by decide)]
  have e : ctrlLogged ⟨2097920, 4, false⟩ (BitVec.ofNat 32 (arg * 65536 + op * 256 + 1)) = !timAdjUnlogged op arg := by
    unfold ctrlLogged
    obtain ⟨h1, h2, h3⟩ := request_fields op arg ho ha
    rw [h1, h2, h3]
    have : (2097920 == timAdj) = true := by decide
    dsimp only
    rw [this]
    simp
  rw [e]
  cases timAdjUnlogged op arg <;> rfl

end Sys2Proof.Machine
end

