-- ==== Sys2Proof/Laws/Strobes.lean ====
section
/-! SUPPORT. What a write of each strobe register does when it is in order: nothing is stored, and its command acts. -/

namespace Sys2Proof.Machine

/-- A register with no bit that a plain write stores or clears. -/
def strobeRow (r : RegRow) : Bool :=
  r.rw == 0#32 && r.rwh == 0#32 && r.rwg == 0#32 && clearMask r == 0#32 && !r.guard && r.base != SEQ_CTRL.a 0 && r.base != POL_METER_CFG.a 0 0 &&
  r.base != EVT_SRC_CFG.a 0 && r.base != GW_POOL.a && r.base != SHP_PORT_CFG.a 0 && r.base != ETH_PORT_MODE.a 0

theorem State.poke_strobe (s : State) (i a : Nat) (v : Word) (r : RegRow) (hc : s.Canonical) (hm : s.May i a) (hk : kindOf a = .reg r)
    (hs : strobeRow r = true) (ha : (a % 4 == 0 && decide (a < 0x2000000) && a != ROL_LC_REQ.a && a != ROL_LC_REQ.a + 4 && !carrOnly a) = true) :
    s.poke i a v = s.regEffect r i a (s.hw a) v := by
  simp only [strobeRow, Bool.and_eq_true, beq_iff_eq, bne_iff_ne, Bool.not_eq_true', decide_eq_true_eq] at hs ha
  obtain ⟨⟨⟨⟨⟨⟨⟨⟨⟨⟨h1, h2⟩, h3⟩, h4⟩, h5⟩, h6⟩, h7⟩, h8⟩, h9⟩, h10⟩, h11⟩ := hs
  obtain ⟨⟨⟨⟨a1, a2⟩, a3⟩, a4⟩, a5⟩ := ha
  rw [State.poke_reg s i a v r hm a1 a2 hk h5 h6 (by simp [a3, a4]) a5]
  refine State.regCommit_strobe s r i a v hc ?_ h4 h7
  rw [State.rwMask_plain s r a (by simp [h8, h9, h10, h11]), h1, h2, h3]
  rfl

theorem State.poke_TIM_DOM_CTRL (s : State) (i : Nat) (n : Fin 2) (v : Word) (hc : s.Canonical) (hm : s.May i (TIM_DOM_CTRL.a n.val)) :
    s.poke i (TIM_DOM_CTRL.a n.val) v = s.domCtrl n.val v := by
  rw [State.poke_strobe s i _ v _ hc hm (kindOf_TIM_DOM_CTRL n) (by decide) (by clear hm; revert n; decide)]
  unfold State.regEffect
  have hb : blockOf (TIM_DOM_CTRL.a n.val) = 3 := by clear hm; revert n; decide
  have hi : (foldPipe (TIM_DOM_CTRL.a n.val) - 2097220) / 16 = n.val := by clear hm hb; revert n; decide
  simp only [hb, hi]
  rfl

theorem State.poke_TIM_WKT_CTRL (s : State) (i : Nat) (v : Word) (hc : s.Canonical) (hm : s.May i (TIM_WKT_CTRL.a)) :
    s.poke i (TIM_WKT_CTRL.a) v = (if fldGet v TIM_WKT_CTRL.align = 1 then s.align else s) := by
  rw [State.poke_strobe s i _ v _ hc hm (kindOf_TIM_WKT_CTRL) (by decide) (by clear hm; decide)]
  unfold State.regEffect
  have hb : blockOf (TIM_WKT_CTRL.a) = 3 := by clear hm; decide
  simp only [hb]
  rfl

theorem State.poke_PHS_CTRL (s : State) (i : Nat) (n : Fin 4) (v : Word) (hc : s.Canonical) (hm : s.May i (PHS_CTRL.a n.val)) :
    s.poke i (PHS_CTRL.a n.val) v = s.phCtrl n.val v := by
  rw [State.poke_strobe s i _ v _ hc hm (kindOf_PHS_CTRL n) (by decide) (by clear hm; revert n; decide)]
  unfold State.regEffect
  have hb : blockOf (PHS_CTRL.a n.val) = 4 := by clear hm; revert n; decide
  have hi : (foldPipe (PHS_CTRL.a n.val) - 3145776) / 64 = n.val := by clear hm hb; revert n; decide
  simp only [hb, hi]
  rfl

theorem State.poke_EVT_CNT_CLR_LO (s : State) (i : Nat) (v : Word) (hc : s.Canonical) (hm : s.May i (EVT_CNT_CLR_LO.a)) :
    s.poke i (EVT_CNT_CLR_LO.a) v = s.evtClear 0 v := by
  rw [State.poke_strobe s i _ v _ hc hm (kindOf_EVT_CNT_CLR_LO) (by decide) (by clear hm; decide)]
  unfold State.regEffect
  have hb : blockOf (EVT_CNT_CLR_LO.a) = 1 := by clear hm; decide
  simp only [hb]
  rfl

theorem State.poke_EVT_CNT_CLR_HI (s : State) (i : Nat) (v : Word) (hc : s.Canonical) (hm : s.May i (EVT_CNT_CLR_HI.a)) :
    s.poke i (EVT_CNT_CLR_HI.a) v = s.evtClear 32 v := by
  rw [State.poke_strobe s i _ v _ hc hm (kindOf_EVT_CNT_CLR_HI) (by decide) (by clear hm; decide)]
  unfold State.regEffect
  have hb : blockOf (EVT_CNT_CLR_HI.a) = 1 := by clear hm; decide
  simp only [hb]
  rfl

theorem State.poke_ROL_CTRL (s : State) (i : Nat) (v : Word) (hc : s.Canonical) (hm : s.May i (ROL_CTRL.a)) :
    s.poke i (ROL_CTRL.a) v = (if fldGet v ROL_CTRL.leave = 1 then s.roleLeave i else s) := by
  rw [State.poke_strobe s i _ v _ hc hm (kindOf_ROL_CTRL) (by decide) (by clear hm; decide)]
  unfold State.regEffect
  have hb : blockOf (ROL_CTRL.a) = 2 := by clear hm; decide
  simp only [hb]
  rfl

theorem State.poke_CIP_ALARM_CTRL (s : State) (i : Nat) (v : Word) (hc : s.Canonical) (hm : s.May i (CIP_ALARM_CTRL.a)) :
    s.poke i (CIP_ALARM_CTRL.a) v = (if fldGet v CIP_ALARM_CTRL.erase = 1 then s.alarmActive 4 false else s) := by
  rw [State.poke_strobe s i _ v _ hc hm (kindOf_CIP_ALARM_CTRL) (by decide) (by clear hm; decide)]
  unfold State.regEffect
  have hb : blockOf (CIP_ALARM_CTRL.a) = 10 := by clear hm; decide
  simp only [hb]
  rfl

theorem State.poke_CIP_ALARM_STAT (s : State) (i : Nat) (v : Word) (hc : s.Canonical) (hm : s.May i (CIP_ALARM_STAT.a)) :
    s.poke i (CIP_ALARM_STAT.a) v = (if fldGet v CIP_ALARM_STAT.latched = 1 then s.alarmClear else s) := by
  rw [State.poke_strobe s i _ v _ hc hm (kindOf_CIP_ALARM_STAT) (by decide) (by clear hm; decide)]
  unfold State.regEffect
  have hb : blockOf (CIP_ALARM_STAT.a) = 10 := by clear hm; decide
  simp only [hb]
  rfl

theorem State.poke_CAN_CTRL (s : State) (i : Nat) (n : Fin 24) (v : Word) (hc : s.Canonical) (hm : s.May i (CAN_CTRL.a n.val)) :
    s.poke i (CAN_CTRL.a n.val) v = (if fldGet v CAN_CTRL.restart = 1 then s.canRestart n.val else s) := by
  rw [State.poke_strobe s i _ v _ hc hm (kindOf_CAN_CTRL n) (by decide) (by clear hm; revert n; decide)]
  unfold State.regEffect
  have hb : blockOf (CAN_CTRL.a n.val) = 11 := by clear hm; revert n; decide
  have hi : (foldPipe (CAN_CTRL.a n.val) - 27262988) / 256 = n.val := by clear hm hb; revert n; decide
  simp only [hb, hi]
  rfl

theorem State.poke_CAN_BUF_CMD (s : State) (i : Nat) (n : Fin 24) (v : Word) (hc : s.Canonical) (hm : s.May i (CAN_BUF_CMD.a n.val)) :
    s.poke i (CAN_BUF_CMD.a n.val) v = s.canBufCmd n.val (fldGet v CAN_BUF_CMD.op) (fldGet v CAN_BUF_CMD.buf) := by
  rw [State.poke_strobe s i _ v _ hc hm (kindOf_CAN_BUF_CMD n) (by decide) (by clear hm; revert n; decide)]
  unfold State.regEffect
  have hb : blockOf (CAN_BUF_CMD.a n.val) = 11 := by clear hm; revert n; decide
  have hi : (foldPipe (CAN_BUF_CMD.a n.val) - 27262992) / 256 = n.val := by clear hm hb; revert n; decide
  simp only [hb, hi]
  rfl

theorem State.poke_CPX_DOORBELL (s : State) (i : Nat) (v : Word) (hc : s.Canonical) (hm : s.May i (CPX_DOORBELL.a)) :
    s.poke i (CPX_DOORBELL.a) v = s.doorbell i v.toNat := by
  rw [State.poke_strobe s i _ v _ hc hm (kindOf_CPX_DOORBELL) (by decide) (by clear hm; decide)]
  unfold State.regEffect
  have hb : blockOf (CPX_DOORBELL.a) = 14 := by clear hm; decide
  simp only [hb]
  rfl

theorem State.poke_PAIR_CTRL (s : State) (i : Nat) (v : Word) (hc : s.Canonical) (hm : s.May i (PAIR_CTRL.a)) :
    s.poke i (PAIR_CTRL.a) v = (let s1 := if fldGet v PAIR_CTRL.st_clear = 1 then s.stClear else s; if fldGet v PAIR_CTRL.yield = 1 then s1.pairYield else s1) := by
  rw [State.poke_strobe s i _ v _ hc hm (kindOf_PAIR_CTRL) (by decide) (by clear hm; decide)]
  unfold State.regEffect
  have hb : blockOf (PAIR_CTRL.a) = 13 := by clear hm; decide
  simp only [hb]
  rfl

theorem State.poke_PWR_CTRL (s : State) (i : Nat) (v : Word) (hc : s.Canonical) (hm : s.May i (PWR_CTRL.a)) :
    s.poke i (PWR_CTRL.a) v = s.pwrCtrl v := by
  rw [State.poke_strobe s i _ v _ hc hm (kindOf_PWR_CTRL) (by decide) (by clear hm; decide)]
  unfold State.regEffect
  have hb : blockOf (PWR_CTRL.a) = 12 := by clear hm; decide
  simp only [hb]
  rfl

theorem State.poke_SYS_BOOT_CTRL (s : State) (i : Nat) (v : Word) (hc : s.Canonical) (hm : s.May i (SYS_BOOT_CTRL.a)) :
    s.poke i (SYS_BOOT_CTRL.a) v = (let s1 := if fldGet v SYS_BOOT_CTRL.host_go = 1 then s.hostGo else s; if fldGet v SYS_BOOT_CTRL.load_done = 1 then s1.loadDone else s1) := by
  rw [State.poke_strobe s i _ v _ hc hm (kindOf_SYS_BOOT_CTRL) (by decide) (by clear hm; decide)]
  unfold State.regEffect
  have hb : blockOf (SYS_BOOT_CTRL.a) = 0 := by clear hm; decide
  simp only [hb]
  rfl

theorem State.poke_SYS_BV_CTRL (s : State) (i : Nat) (v : Word) (hc : s.Canonical) (hm : s.May i (SYS_BV_CTRL.a)) :
    s.poke i (SYS_BV_CTRL.a) v = (if fldGet v SYS_BV_CTRL.go = 1 then s.bvGo else s) := by
  rw [State.poke_strobe s i _ v _ hc hm (kindOf_SYS_BV_CTRL) (by decide) (by clear hm; decide)]
  unfold State.regEffect
  have hb : blockOf (SYS_BV_CTRL.a) = 0 := by clear hm; decide
  simp only [hb]
  rfl

theorem State.poke_SYS_UPD_NOTE (s : State) (i : Nat) (v : Word) (hc : s.Canonical) (hm : s.May i (SYS_UPD_NOTE.a)) :
    s.poke i (SYS_UPD_NOTE.a) v = s.updNote i v := by
  rw [State.poke_strobe s i _ v _ hc hm (kindOf_SYS_UPD_NOTE) (by decide) (by clear hm; decide)]
  unfold State.regEffect
  have hb : blockOf (SYS_UPD_NOTE.a) = 0 := by clear hm; decide
  simp only [hb]
  rfl

theorem State.poke_CLS_BANK_CTRL (s : State) (i : Nat) (n : Fin 2) (v : Word) (hc : s.Canonical) (hm : s.May i (CLS_BANK_CTRL.a n.val)) :
    s.poke i (CLS_BANK_CTRL.a n.val) v = (if fldGet v CLS_BANK_CTRL.swap = 1 then s.swapReq n.val false else s) := by
  rw [State.poke_strobe s i _ v _ hc hm (kindOf_CLS_BANK_CTRL n) (by decide) (by clear hm; revert n; decide)]
  unfold State.regEffect
  have hb : blockOf (CLS_BANK_CTRL.a n.val) = 6 + n.val := by clear hm; revert n; decide
  have h1 : ¬(6 + n.val ≤ 2) := by omega
  have h2 : ¬(6 + n.val ≤ 5) := by omega
  have h3 : 6 + n.val ≤ 7 := by omega
  have h4 : 6 + n.val - 6 = n.val := by omega
  dsimp only
  rw [hb, if_neg h1, if_neg h2, if_pos h3, h4]
  rfl

/-- A write of SEQ_CTRL (06 R123). -/
theorem State.poke_SEQ_CTRL (s : State) (i : Nat) (n : Fin 8) (v : Word) (hm : s.May i (SEQ_CTRL.a n.val)) :
    s.poke i (SEQ_CTRL.a n.val) v = s.seqCtrl n.val v := by
  have h1 : (SEQ_CTRL.a n.val = ROL_LC_REQ.a ∨ SEQ_CTRL.a n.val = ROL_LC_REQ.a + 4) = False := by clear hm; revert n; decide
  have h2 : carrOnly (SEQ_CTRL.a n.val) = false := by clear hm h1; revert n; decide
  have h3 : (SEQ_CTRL.a n.val - 4194320) / 256 = n.val := by clear hm h1 h2; revert n; decide
  unfold State.poke
  refine State.busWrite_word s i _ _ none (by clear hm h1 h2 h3; revert n; decide) (by clear hm h1 h2 h3; revert n; decide) _ ?_
  have e : BitVec.ofNat 32 v.toNat = v := by rw [BitVec.ofNat_toNat, BitVec.setWidth_eq]
  rw [e]
  unfold State.write32
  rw [kindOf_SEQ_CTRL]
  simp only [State.mayWrite_installer s i _ v hm.role h1 h2, Bool.not_true]
  rw [State.guardBreak_quiet s _ hm.quiet, h3]
  rfl

end Sys2Proof.Machine
end

