-- ==== Sys2Proof/Laws/Common.lean ====
section
/-! SUPPORT. Lemmas about reading back what the named operations wrote, shared by the lemmas of several chapters. -/

namespace Sys2Proof.Machine

theorem fldSet_zero_of (w m : Word) (f : Fld) (h : fldMask f &&& m = fldMask f) : w &&& ~~~(fldMask f &&& m) = fldSet w f 0 := by
  rw [h]; unfold fldSet; simp

theorem busRead_data (s : State) (i a m k : Nat) (mb : MbxRow) (h4 : a % 4 = 0) (ha : a < 0x2000000) (he : a = mbxData m k) (hk : kindOf a = .mdata mb k) (hr : mb.rd = true)
    (hm : s.mayRead i a = true) : s.busRead i a 4 = (s.readData mb a k).emit (.readData i (s.reg a).toNat) := by
  have hr32 : s.read32 i a = (s.readData mb a k, (s.reg a).toNat, false) := by
    have : a / 4 * 4 = a := by omega
    unfold State.read32
    simp only [this]
    rw [hk]
    simp [hm, hr]
  have hra : s.readAt i a 4 = (s.readData mb a k, (s.reg a).toNat, false) := by
    unfold State.readAt
    have e1 : ¬(a % 4 ≠ 0) := by omega
    have e2 : ¬(0x2000000 ≤ a) := by omega
    dsimp only
    rw [if_neg e1, if_neg e2, if_pos (by decide), hr32, h4]
    have : (s.reg a).toNat < 2 ^ 32 := (s.reg a).isLt
    simp
    omega
  unfold State.busRead
  rw [if_neg (by rw [pcieOwn_lt ha]; simp), hra]
  rfl

theorem setRoleAt_facts (u : State) (i r q : Nat) (hc : u.Canonical) : ((u.setRoleAt i r q).sessOf i) = { u.sessOf i with role := r } ∧
    (∀ j, j ≠ i → (u.setRoleAt i r q).sessOf j = u.sessOf j) ∧ (u.setRoleAt i r q).lock = u.lock ∧
    (∀ a, a ≠ EVT_SRC_STAT.a 60 → (u.setRoleAt i r q).reg a = u.reg a) := by
  unfold State.setRoleAt
  dsimp only
  split
  · rename_i h
    refine ⟨by rw [← h], fun _ _ => rfl, rfl, fun _ _ => rfl⟩
  · have hs : ∀ z, (((u.setSess i z).audit 1 r i q (u.sessOf i).role r).raise 60 4 i).sess = Cells.set (fun _ => {}) u.sess i z := by
      intro z
      obtain ⟨a, b, c, d, e, he⟩ := State.audit_only (u.setSess i z) 1 r i q (u.sessOf i).role r
      rw [State.raise_sess, he]
      rfl
    refine ⟨?_, ?_, ?_, ?_⟩
    · show Cells.get _ (State.raise _ 60 4 i).sess i = _
      rw [hs]; exact Cells.get_set hc.sess _ _
    · intro j hj
      show Cells.get _ (State.raise _ 60 4 i).sess j = _
      rw [hs]; exact Cells.get_set_ne _ _ _ _ _ hj
    · rw [State.raise_lock, State.audit_lock]; rfl
    · intro a ha
      rw [State.reg_raise_ne _ _ _ _ _ ha, State.reg_audit_ne _ _ _ _ _ _ _ _ ha]
      rfl

theorem setRole_facts (u : State) (i r : Nat) (hc : u.Canonical) : ((u.setRole i r).sessOf i) = { u.sessOf i with role := r } ∧
    (∀ j, j ≠ i → (u.setRole i r).sessOf j = u.sessOf j) ∧ (u.setRole i r).lock = u.lock ∧ (∀ a, a ≠ EVT_SRC_STAT.a 60 → (u.setRole i r).reg a = u.reg a) :=
  setRoleAt_facts u i r 0 hc

theorem setPh_setPh (s : State) (d : Nat) (x y : PhSt) (hc : Cells.wf (fun _ => ({} : PhSt)) s.phs = true) : (s.setPh d x).setPh d y = s.setPh d y := by
  unfold State.setPh
  dsimp only
  rw [Cells.set_set hc]

theorem ph_setPh (s : State) (d : Nat) (x : PhSt) (hc : Cells.wf (fun _ => ({} : PhSt)) s.phs = true) : (s.setPh d x).ph d = x := Cells.get_set hc _ _

theorem port_setPort (s : State) (n : Nat) (x : PortSt) (hc : s.Canonical) : (s.setPort n x).port n = x := Cells.get_set hc.ports _ _

theorem pp_setPp (s : State) (p : Nat) (x : PipeSt) (hc : s.Canonical) : (s.setPp p x).pp p = x := Cells.get_set hc.pipe _ _

theorem fdbAt_setFdb (s : State) (p l : Nat) (e : Option FdbEnt) (hc : s.Canonical) : (s.setFdb p l e).fdbAt p l = e := Cells.get_set hc.fdb _ _

theorem fdb_setFdb_ne (s : State) (p l k : Nat) (e : Option FdbEnt) (h : k ≠ p * 32768 + l) : Cells.get (fun _ => none) (s.setFdb p l e).fdb k = Cells.get (fun _ => none) s.fdb k :=
  Cells.get_set_ne _ _ _ _ _ h

theorem next_live (s t : State) (h : s.powered = true) : (Host.Outcome.next (s.live t) : Host.Outcome State Fault Refusal) = .next t := by rw [State.live_of _ _ h]

theorem reg_setFs (s : State) (a : Nat) (l : List (Fld × Nat)) (hc : Cells.wf resetOf s.regs = true) : (s.setFs a l).reg a = l.foldl (fun w p => fldSet w p.1 p.2) (s.reg a) := State.reg_setReg _ _ _ hc

theorem reg_setF (s : State) (a : Nat) (f : Fld) (v : Nat) (hc : Cells.wf resetOf s.regs = true) : (s.setF a f v).reg a = fldSet (s.reg a) f v := State.reg_setReg _ _ _ hc

theorem newVal_fld (s : State) (r : RegRow) (a : Nat) (w : Word) (f : Fld) (h : ∀ k, f.lo ≤ k → k ≤ f.hi → (s.rwMask r a).getLsbD k = true ∧ (clearMask r).getLsbD k = false) (hf : f.hi < 32) :
    fldGet (s.newVal r a w) f = fldGet w f := by
  rw [fldGet_eq, fldGet_eq]
  refine congrArg BitVec.toNat ?_
  apply BitVec.eq_of_getLsbD_eq
  intro k hk
  rw [BitVec.getLsbD_extractLsb', BitVec.getLsbD_extractLsb']
  obtain ⟨h1, h2⟩ := h (f.lo + k) (by omega) (by omega)
  have hlt : f.lo + k < 32 := by omega
  rw [BitVec.getLsbD_eq_getElem hlt] at h1 h2
  unfold State.newVal
  simp [h1, h2, hlt]

theorem reg_setF_ne (s : State) (a b : Nat) (f : Fld) (v : Nat) (h : b ≠ a) : (s.setF a f v).reg b = s.reg b := State.reg_setReg_ne _ _ _ _ h

theorem pend_raise (s : State) (n c i : Nat) (hc : s.Canonical) : fldGet ((s.raise n c i).reg (EVT_SRC_STAT.a n)) EVT_SRC_STAT.pend = 1 := by
  rw [State.reg_raise _ _ _ _ hc]
  simp only [List.foldl]
  exact (fldGet_fldSet _ _ _ (by decide)).trans (by decide)

theorem pwrX (s : State) (i : Fin 3) (f : Fld) (hc : s.Canonical) (hm : s.May i.val PWR_CTRL.a) : (Host.Outcome.next (s.live (s.poke i.val PWR_CTRL.a (fldMask f))) : Host.Outcome State Fault Refusal) = .next (s.pwrCtrl (fldMask f)) := by
  rw [State.live_of _ _ hm.powered, State.poke_PWR_CTRL _ _ _ hc hm]

theorem inh_same (s : State) (v : Nat) : ∃ o, s.setInh v = { s with pwr := { s.pwr with inh := v }, out := o } := by
  unfold State.setInh
  dsimp only
  split <;> split <;> exact ⟨_, rfl⟩

theorem reg_setFs_ne (s : State) (a b : Nat) (l : List (Fld × Nat)) (h : b ≠ a) : (s.setFs a l).reg b = s.reg b := State.reg_setReg_ne _ _ _ _ h

theorem setRoleAt_same (u : State) (i r q : Nat) : ∃ se au re ev o pb, u.setRoleAt i r q =
    { u with sess := se, aud := au, regs := re, evt := ev, out := o, pcie := { u.pcie with pba := pb } } := by
  unfold State.setRoleAt
  dsimp only
  split
  · exact ⟨_, _, _, _, _, _, rfl⟩
  · obtain ⟨a, b, c, d, e, he⟩ := State.audit_only (u.setSess i { u.sessOf i with role := r }) 1 r i q (u.sessOf i).role r
    rw [State.raise_same, he]
    exact ⟨_, _, _, _, _, _, rfl⟩

theorem setRole_same (u : State) (i r : Nat) : ∃ se au re ev o pb, u.setRole i r =
    { u with sess := se, aud := au, regs := re, evt := ev, out := o, pcie := { u.pcie with pba := pb } } := setRoleAt_same u i r 0

end Sys2Proof.Machine
end

