-- ==== Sys2Proof/Laws/AlarmRows.lean ====
section
/-! SUPPORT. Lemmas about the alarm and its erase. -/

namespace Sys2Proof.Machine

theorem alarm_live' (s t : State) (h : s.powered = true) : (Host.Outcome.next (s.live t) : Host.Outcome State Fault Refusal) = .next t := by rw [State.live_of _ _ h]

theorem alarm_jobStatus_facts (s : State) (j : CJob) (c : Nat) : (s.jobStatus j c).cjobs = s.cjobs ∧ ∀ a, a ≠ EVT_SRC_STAT.a 52 → (s.jobStatus j c).reg a = s.reg a := by
  unfold State.jobStatus State.raiseIf
  split
  · exact ⟨by rw [State.raise_same], fun a h => State.reg_raise_ne _ _ _ _ _ h⟩
  · exact ⟨rfl, fun _ _ => rfl⟩

theorem alarm_eraseCopy_facts (s : State) (c : Copy) :
    (s.eraseCopy c).cjobs = s.cjobs ∧ ∀ a, a ≠ QM_POOL.a ∧ a ≠ QM_PEAT_STAT.a → (s.eraseCopy c).reg a = s.reg a := by
  unfold State.eraseCopy
  dsimp only
  split
  · refine ⟨?_, fun a h => ?_⟩
    · rw [State.laneNote_same, State.copyGone_same, State.cutShort_same]; rfl
    · rw [State.reg_laneNote, State.reg_copyGone_ne _ _ _ h.1 h.2, State.reg_cutShort]; rfl
  · split
    · exact ⟨by rw [State.copyGone_same]; rfl, fun a h => State.reg_copyGone_ne _ _ _ h.1 h.2⟩
    · exact ⟨rfl, fun _ _ => rfl⟩

theorem alarm_eraseFrame_facts (s : State) (f : Frame) :
    (s.eraseFrame f).cjobs = s.cjobs ∧ ∀ a, a ≠ QM_POOL.a ∧ a ≠ QM_PEAT_STAT.a → (s.eraseFrame f).reg a = s.reg a := by
  unfold State.eraseFrame
  split
  · exact ⟨by rw [State.frameDrop_same]; rfl, fun a h => (State.reg_frameDrop_ne _ _ _ h.1 h.2).trans rfl⟩
  · exact ⟨rfl, fun _ _ => rfl⟩

theorem alarm_fold_facts {α : Type} (l : List α) (f : State → α → State) (P : Nat → Prop)
    (h : ∀ u x, (f u x).cjobs = u.cjobs ∧ ∀ a, P a → (f u x).reg a = u.reg a) (s : State) :
    (l.foldl f s).cjobs = s.cjobs ∧ ∀ a, P a → (l.foldl f s).reg a = s.reg a := by
  induction l generalizing s with
  | nil => exact ⟨rfl, fun _ _ => rfl⟩
  | cons x r ih => exact ⟨(ih _).1.trans (h _ _).1, fun a ha => ((ih _).2 a ha).trans ((h _ _).2 a ha)⟩

theorem alarm_erase_facts (s : State) (hc : s.Canonical) : s.erase.sa = [] ∧ s.erase.rxLast = [] ∧ s.erase.cjobs = [] ∧ s.erase.reg CIP_ALARM_STAT.a = fldSet (s.reg CIP_ALARM_STAT.a) CIP_ALARM_STAT.erasing 1 := by
  have hk := (State.erase_keeps (State.Keeps.refl s)).canon hc
  refine ⟨rfl, rfl, ?_, ?_⟩
  · unfold State.erase
    show State.cjobs (List.foldl _ _ _) = _
    rw [(alarm_fold_facts _ _ (fun a => a ≠ QM_POOL.a ∧ a ≠ QM_PEAT_STAT.a) (fun u x => alarm_eraseFrame_facts u x) _).1, (alarm_fold_facts _ _ (fun a => a ≠ QM_POOL.a ∧ a ≠ QM_PEAT_STAT.a) (fun u x => alarm_eraseCopy_facts u x) _).1, (alarm_fold_facts _ _ (fun a => a ≠ EVT_SRC_STAT.a 52) (fun u x => alarm_jobStatus_facts u x 5) _).1]
  · have hw : ∀ v : State, Cells.wf resetOf v.regs = true → (v.setF CIP_ALARM_STAT.a CIP_ALARM_STAT.erasing 1).reg CIP_ALARM_STAT.a = fldSet (v.reg CIP_ALARM_STAT.a) CIP_ALARM_STAT.erasing 1 := fun v h => State.reg_setReg _ _ _ h
    unfold State.erase
    dsimp only
    rw [hw]
    · refine congrArg (fun w => fldSet w CIP_ALARM_STAT.erasing 1) ?_
      show State.reg (List.foldl _ _ _) _ = _
      rw [(alarm_fold_facts _ _ (fun a => a ≠ QM_POOL.a ∧ a ≠ QM_PEAT_STAT.a) (fun u x => alarm_eraseFrame_facts u x) _).2 _ (by decide), (alarm_fold_facts _ _ (fun a => a ≠ QM_POOL.a ∧ a ≠ QM_PEAT_STAT.a) (fun u x => alarm_eraseCopy_facts u x) _).2 _ (by decide), (alarm_fold_facts _ _ (fun a => a ≠ EVT_SRC_STAT.a 52) (fun u x => alarm_jobStatus_facts u x 5) _).2 _ (by decide)]
      rfl
    · have hk3 : s.Keeps ((List.foldl (fun (u : State) (c : Copy) => u.eraseCopy c) (s.cjobs.foldl (fun (u : State) j => u.jobStatus j 5) { s with cjobs := [] }) (s.cjobs.foldl (fun (u : State) j => u.jobStatus j 5) { s with cjobs := [] }).copies).frames.foldl
          (fun (u : State) f => u.eraseFrame f) (List.foldl (fun (u : State) (c : Copy) => u.eraseCopy c) (s.cjobs.foldl (fun (u : State) j => u.jobStatus j 5) { s with cjobs := [] }) (s.cjobs.foldl (fun (u : State) j => u.jobStatus j 5) { s with cjobs := [] }).copies)) := by
        refine State.Keeps.foldl (State.Keeps.foldl (State.Keeps.foldl (State.Keeps.cjobs_upd (State.Keeps.refl s)) ?_) ?_) ?_
        · exact fun u x hu => State.jobStatus_keeps hu _ _
        · exact fun u x hu => State.eraseCopy_keeps hu _
        · exact fun u x hu => State.eraseFrame_keeps hu _
      exact (hk3.canon hc).regs

theorem alarm_raiseAon_reg (s : State) (n c i a : Nat) (h : a ≠ EVT_SRC_STAT.a n) : (s.raiseAon n c i).reg a = s.reg a := by
  unfold State.raiseAon
  split
  · rfl
  · exact State.reg_raise_ne _ _ _ _ _ h

theorem alarm_alarm_go (s : State) (k : Nat) (stays : Bool) (hc : s.Canonical) (h1 : s.jtag.held = false) (h2 : nbit (s.f CIP_ALARM_STAT.a CIP_ALARM_STAT.active) k = false) (h3 : k = 0 ∨ s.powered = true) (h4 : nbit s.alarmEn k = true) (hk : k < 8) :
    (s.alarmActive k stays).sa = [] ∧ (s.alarmActive k stays).rxLast = [] ∧ (s.alarmActive k stays).cjobs = [] ∧ fldGet ((s.alarmActive k stays).reg CIP_ALARM_STAT.a) CIP_ALARM_STAT.latched = 1 ∧ fldGet ((s.alarmActive k stays).reg CIP_ALARM_STAT.a) CIP_ALARM_STAT.erasing = 1 ∧
      (s.on CIP_ALARM_STAT.a CIP_ALARM_STAT.latched = false → s.parOf CIP_ALARM_STAT.a = {} → fldGet ((s.alarmActive k stays).reg CIP_ALARM_STAT.a) CIP_ALARM_STAT.first_src = k) := by
  have hp : (k != 0 && !s.powered) = false := by
    obtain rfl | h := h3
    · rfl
    · rw [h]; simp
  have hne : ∀ j : Nat, (s.setF CIP_ALARM_STAT.a CIP_ALARM_STAT.active j).Canonical := fun j => (State.setF_keeps (State.Keeps.refl s) _ _ _).canon hc
  have e : s.alarmActive k stays = (let s1 := if stays then s.setF CIP_ALARM_STAT.a CIP_ALARM_STAT.active (s.f CIP_ALARM_STAT.a CIP_ALARM_STAT.active ||| 2 ^ k) else s
      let s2 := if s1.on CIP_ALARM_STAT.a CIP_ALARM_STAT.latched then s1 else s1.setF CIP_ALARM_STAT.a CIP_ALARM_STAT.first_src k
      ((s2.setF CIP_ALARM_STAT.a CIP_ALARM_STAT.latched 1).raiseAon 49 1 k).erase) := by
    unfold State.alarmActive
    dsimp only
    rw [h1, h2, hp, h4]
    rfl
  rw [e]
  dsimp only
  generalize hs1 : (if stays = true then s.setF CIP_ALARM_STAT.a CIP_ALARM_STAT.active (s.f CIP_ALARM_STAT.a CIP_ALARM_STAT.active ||| 2 ^ k) else s) = s1
  have c1 : s1.Canonical := by subst hs1; split; exacts [hne _, hc]
  have p1 : s1.parOf CIP_ALARM_STAT.a = s.parOf CIP_ALARM_STAT.a := by subst hs1; split <;> rfl
  have l1 : s.parOf CIP_ALARM_STAT.a = {} → s1.on CIP_ALARM_STAT.a CIP_ALARM_STAT.latched = s.on CIP_ALARM_STAT.a CIP_ALARM_STAT.latched := by
    intro hpar
    unfold State.on State.f State.hw
    rw [p1, hpar]
    subst hs1
    split
    · dsimp only
      rw [if_pos rfl, if_pos rfl]
      unfold State.setF
      rw [State.reg_setReg _ _ _ hc.regs, fldGet_fldSet_ne _ _ _ _ (by decide) (by decide)]
    · rfl
  generalize hs2 : (if s1.on CIP_ALARM_STAT.a CIP_ALARM_STAT.latched = true then s1 else s1.setF CIP_ALARM_STAT.a CIP_ALARM_STAT.first_src k) = s2
  have c2 : s2.Canonical := by subst hs2; split; exacts [c1, (State.setF_keeps (State.Keeps.refl s1) _ _ _).canon c1]
  have c3 : (s2.setF CIP_ALARM_STAT.a CIP_ALARM_STAT.latched 1).Canonical := (State.setF_keeps (State.Keeps.refl s2) _ _ _).canon c2
  have c4 : ((s2.setF CIP_ALARM_STAT.a CIP_ALARM_STAT.latched 1).raiseAon 49 1 k).Canonical := (State.raiseAon_keeps (State.Keeps.refl _) _ _ _).canon c3
  obtain ⟨f1, f2, f3, f4⟩ := alarm_erase_facts _ c4
  refine ⟨f1, f2, f3, ?_, ?_, fun hl hpar => ?_⟩
  · rw [f4, fldGet_fldSet_ne _ _ _ _ (by decide) (by decide), alarm_raiseAon_reg _ _ _ _ _ (by decide)]
    unfold State.setF; rw [State.reg_setReg _ _ _ c2.regs]; exact fldGet_fldSet _ _ _ (by decide)
  · rw [f4]; exact fldGet_fldSet _ _ _ (by decide)
  · rw [f4, fldGet_fldSet_ne _ _ _ _ (by decide) (by decide), alarm_raiseAon_reg _ _ _ _ _ (by decide)]
    unfold State.setF; rw [State.reg_setReg _ _ _ c2.regs, fldGet_fldSet_ne _ _ _ _ (by decide) (by decide)]
    rw [← hs2, l1 hpar, hl, if_neg (by decide)]
    unfold State.setF; rw [State.reg_setReg _ _ _ c1.regs]; rw [fldGet_fldSet _ _ _ (by decide)]; exact Nat.mod_eq_of_lt hk

theorem alarm_alarm_off (s : State) (k : Nat) (h1 : s.jtag.held = false) (h2 : nbit (s.f CIP_ALARM_STAT.a CIP_ALARM_STAT.active) k = false) (h3 : k = 0 ∨ s.powered = true) (h4 : nbit s.alarmEn k = false) :
    s.alarmActive k true = s.setF CIP_ALARM_STAT.a CIP_ALARM_STAT.active (s.f CIP_ALARM_STAT.a CIP_ALARM_STAT.active ||| 2 ^ k) := by
  have hp : (k != 0 && !s.powered) = false := by
    obtain rfl | h := h3
    · rfl
    · rw [h]; simp
  unfold State.alarmActive
  dsimp only
  rw [h1, h2, hp, h4]
  rfl

theorem alarm_soft_en (s : State) : nbit s.alarmEn 4 = true := by
  unfold State.alarmEn
  have : nbits (s.hw CIP_ALARM_CFG.a).toNat 3 0 < 16 := by unfold nbits; exact Nat.mod_lt _ (by decide)
  generalize nbits (s.hw CIP_ALARM_CFG.a).toNat 3 0 = n at this
  revert this; revert n; decide

end Sys2Proof.Machine
end

