-- ==== Sys2Proof/Laws/BankRows.lean ====
section
/-! SUPPORT. Lemmas about templates and rule banks. -/

namespace Sys2Proof.Machine

theorem bank_kindOf_tpl (p : Fin 2) (t : Fin 16) : rowAt (CLS_TPL_CFG.a p.val t.val) = some { base := 8392704, s1 := 256, n1 := 16, rw := 0xffe0ffff#32, par := 0xffe0ffff#32, cut := 0xa0210001#32 } := by revert p t; decide

theorem bank_kindOf_tlen (p : Fin 2) (t : Fin 16) : rowAt (CLS_TPL_LEN.a p.val t.val) = some { base := 8392708, s1 := 256, n1 := 16, rw := 0xffffc0ff#32, par := 0xffffc0ff#32, cut := 0x40404101#32 } := by revert p t; decide

set_option maxRecDepth 100000 in
theorem bank_kindOf_fdesc (p : Fin 2) (t : Fin 16) (k : Fin 24) : rowAt (CLS_FLD_DESC.a p.val t.val k.val) = some { base := 8392768, s1 := 256, n1 := 16, s2 := 8, n2 := 24, rw := 0xffffc000#32, par := 0xffffc000#32, cut := 0xa0284001#32 } := by
  revert p t k; decide

set_option maxRecDepth 100000 in
theorem bank_kindOf_fmask (p : Fin 2) (t : Fin 16) (k : Fin 24) : rowAt (CLS_FLD_MASK.a p.val t.val k.val) = some { base := 8392772, s1 := 256, n1 := 16, s2 := 8, n2 := 24, reset := 0xffffffff#32, rw := 0xffffffff#32, par := 0xffffffff#32, cut := 0x00000001#32 } := by
  revert p t k; decide

theorem bank_dpStale_setStale (s : State) (p b : Nat) (v : Bool) (hc : s.Canonical) : (s.setStale p b v).dpStale p b = v := by
  unfold State.setStale State.dpStale
  by_cases h : b = 0
  · rw [if_pos h, if_pos h, pp_setPp _ _ _ hc]
  · rw [if_neg h, if_neg h, pp_setPp _ _ _ hc]

theorem bank_setStale_regs (s : State) (p b : Nat) (v : Bool) : (s.setStale p b v).regs = s.regs ∧ (s.setStale p b v).win = s.win := by
  unfold State.setStale; split <;> exact ⟨rfl, rfl⟩

theorem bank_setStale_canon (s : State) (p b : Nat) (v : Bool) (hc : s.Canonical) : (s.setStale p b v).Canonical :=
  (State.setStale_keeps (State.Keeps.refl s) _ _ _).canon hc

theorem bank_dpStale_setStale_ne (s : State) (p : Nat) (v : Bool) (hc : s.Canonical) : (s.setStale p 1 v).dpStale p 0 = s.dpStale p 0 := by
  have : s.setStale p 1 v = s.setPp p { s.pp p with stale1 := v } := rfl
  rw [this]
  unfold State.dpStale
  rw [if_pos rfl, if_pos rfl, pp_setPp s p _ hc]

theorem bank_tplWritten_stale (s : State) (p : Nat) (b : Fin 2) (hc : s.Canonical) : (s.tplWritten p).dpStale p b.val = true := by
  have h0 := bank_setStale_canon s p 0 true hc
  match b with
  | 0 => exact (bank_dpStale_setStale_ne _ p true h0).trans (bank_dpStale_setStale s p 0 true hc)
  | 1 => exact bank_dpStale_setStale _ p 1 true h0

theorem bank_tplWritten_same (s : State) (p : Nat) : (s.tplWritten p).regs = s.regs := by
  unfold State.tplWritten; rw [(bank_setStale_regs _ _ _ _).1, (bank_setStale_regs _ _ _ _).1]

theorem bank_dp192 (s : State) (p tpl tags : Nat) (h : ∀ b : Fin 2, s.dpStale p b.val = true) : s.decisionPoint p tpl tags = 192 := by
  unfold State.decisionPoint
  have : s.dpStale p (s.activeBank p) = true := by
    have h0 := h 0; have h1 := h 1
    unfold State.dpStale at h0 h1 ⊢
    split
    · exact h0
    · exact h1
  rw [if_pos this]

theorem bank_tplOut (s : State) (i p : Nat) (a : Nat) (v : Word) (r : RegRow) (hc : s.Canonical) (hm : s.May i a) (hr : rowAt a = some r)
    (ha : (a % 4 == 0 && decide (a < 0x2000000) && a != ROL_LC_REQ.a && a != ROL_LC_REQ.a + 4 && !carrOnly a) = true)
    (hb : blockOf a = 6 + p) (hp : p < 2)
    (hh : (!r.guard && r.base != SEQ_CTRL.a 0 && r.base != POL_METER_CFG.a 0 0) = true) (hl : logged r = true) (hk : (r.base != EVT_SRC_CFG.a 0 && r.base != GW_POOL.a && r.base != SHP_PORT_CFG.a 0 && r.base != ETH_PORT_MODE.a 0) = true) (hw : r.rw ||| r.rwh ||| r.rwg ≠ 0#32)
    (hbase : r.base = CLS_TPL_CFG.a 0 0 ∨ r.base = CLS_TPL_LEN.a 0 0 ∨ r.base = CLS_FLD_DESC.a 0 0 0 ∨ r.base = CLS_FLD_MASK.a 0 0 0) :
    s.poke i a v = (s.committed r i a v).tplWritten p := by
  rw [State.poke_commit s i a v r hc hm (kindOf_of_row _ _ hr) ha hh hl (by rw [State.rwMask_plain _ _ _ hk]; exact hw)]
  unfold State.regEffect
  dsimp only
  rw [hb, if_neg (by omega), if_neg (by omega), if_pos (by omega)]
  unfold State.effPipe
  rw [if_pos hbase, Nat.add_sub_cancel_left]

theorem bank_reg_committed (s : State) (r : RegRow) (i a : Nat) (w : Word) (hc : s.Canonical) (ha : a ≠ EVT_SRC_STAT.a 60) : (s.committed r i a w).reg a = s.newVal r a w := by
  unfold State.committed
  rw [State.reg_audit_ne _ _ _ _ _ _ _ _ ha]
  exact State.reg_setReg _ _ _ hc.regs

theorem bank_committed_canon (s : State) (r : RegRow) (i a : Nat) (w : Word) (hc : s.Canonical) : (s.committed r i a w).Canonical := by
  unfold State.committed
  exact (State.audit_keeps (State.parClear_keeps (State.setReg_keeps (State.Keeps.refl s) _ _) _ _) _ _ _ _ _ _).canon hc

theorem bank_reg_foldSet (l : List Nat) (s : State) (f : Nat → Nat) (g : Nat → Word) (hc : Cells.wf resetOf s.regs = true) (hinj : ∀ x y, f x = f y → x = y) (k : Nat) :
    Cells.wf resetOf (l.foldl (fun (u : State) t => u.setReg (f t) (g t)) s).regs = true ∧
    (l.foldl (fun (u : State) t => u.setReg (f t) (g t)) s).reg (f k) = if k ∈ l then g k else s.reg (f k) := by
  induction l generalizing s with
  | nil => exact ⟨hc, by simp⟩
  | cons a r ih =>
    have h1 := ih (s.setReg (f a) (g a)) (Cells.wf_set hc _ _)
    refine ⟨h1.1, ?_⟩
    rw [List.foldl_cons, h1.2]
    by_cases hk : k ∈ r
    · rw [if_pos hk, if_pos (List.mem_cons.2 (.inr hk))]
    · rw [if_neg hk]
      by_cases e : k = a
      · subst e; rw [if_pos (List.mem_cons.2 (.inl rfl)), State.reg_setReg _ _ _ hc]
      · rw [if_neg (by simp [e, hk]), State.reg_setReg_ne _ _ _ _ (fun h => e (hinj _ _ h))]

theorem bank_raise_frames (s : State) (n c i : Nat) : (s.raise n c i).frames = s.frames := by rw [State.raise_same]

theorem bank_fold_frames (l : List Nat) (f : State → Nat → State) (u : State) (h : ∀ (u : State) k, (f u k).frames = u.frames) : (l.foldl f u).frames = u.frames := by
  induction l generalizing u with
  | nil => rfl
  | cons x r ih => rw [List.foldl_cons, ih, h]

theorem bank_swapDo_frames (s : State) (p : Nat) (act : Bool) : (s.swapDo p act).frames = s.frames := by
  unfold State.swapDo
  dsimp only
  rw [bank_raise_frames, bank_fold_frames]
  · rfl
  · intro u k; rfl

end Sys2Proof.Machine
end

