-- ==== Sys2Proof/Laws/BatchRows.lean ====
section
/-! SUPPORT. Lemmas about the gateway mailboxes and the message pool. -/

namespace Sys2Proof.Machine

structure batch_Ready (m : Nat) (s o : State) : Prop where
  canon : o.Canonical
  stat : o.reg (m + 4) = s.reg (m + 4)
  dw : ∀ j, o.dw m j = s.dw m j
  batch : o.batch = s.batch
  seald : o.sealedQ = s.sealedQ
  str : o.rxStr = s.rxStr

theorem batch_ready (s : State) (i m op arg : Nat) (hm : m = gwBatch ∨ m = gwRxStr) (hc : s.Canonical) : batch_Ready m s (s.ordered i m op arg) := by
  have hd : ∀ j, (s.ordered i m op arg).dw m j = s.dw m j := by
    intro j; unfold State.dw
    rw [State.reg_ordered_ne _ _ _ _ _ _ (by unfold mbxData; omega) (by rcases hm with rfl | rfl <;> unfold mbxData EVT_SRC_STAT.a <;> first | unfold gwBatch; omega | unfold gwRxStr; omega)]
  obtain ⟨a, b, c, d, pb, h⟩ := State.ordered_same s i m op arg
  refine ⟨State.ordered_canon _ _ _ _ _ hc, ?_, hd, by rw [h], by rw [h], by rw [h]⟩
  exact State.reg_ordered_ne _ _ _ _ _ _ (by omega) (by rcases hm with rfl | rfl <;> decide)

def batchRowPool : RegRow := { base := 27279360, rw := 0x0fff0fff#32, par := 0x0fff0fff#32, cut := 0x10011001#32 }

end Sys2Proof.Machine
end

