-- ==== Sys2Proof/Laws/BootRows.lean ====
section
/-! SUPPORT. Lemmas about resets, the boot ROM and the flash. -/

namespace Sys2Proof.Machine

def bootRowRst : RegRow := { base := 24, rwg := 0x00000003#32, par := 0x00000003#32, tri := 0x00000003#32, cut := 0x00000007#32, guard := true }

theorem boot_rstWrite (s : State) (i : Nat) (v : Word) (hc : s.Canonical) (hm : s.May i SYS_RST_CTRL.a) :
    s.pokeGuarded i SYS_RST_CTRL.a v = (s.committed bootRowRst i SYS_RST_CTRL.a v).rstCommit v := by
  have hmask : s.rwMask bootRowRst SYS_RST_CTRL.a = 0x00000003#32 := by
    rw [State.rwMask_plain _ _ _ (by decide)]; decide
  rw [State.pokeGuarded_commit s i SYS_RST_CTRL.a v bootRowRst hc hm.quiet (by decide) (by decide) kindOf_SYS_RST_CTRL rfl kindOf_SYS_RST_CTRL_C
    (fun w => State.mayWrite_installer s i _ w hm.role (by decide) (by decide)) (fun g w => State.mayWrite_installer _ i _ w hm.role (by decide) (by decide))]
  unfold State.regCommit State.preWrite
  rw [if_neg (by decide)]
  dsimp only
  have e : ((s.setReg SYS_RST_CTRL.a (s.newVal bootRowRst SYS_RST_CTRL.a v)).parClear SYS_RST_CTRL.a (s.rwMask bootRowRst SYS_RST_CTRL.a)).reg SYS_RST_CTRL.a = s.newVal bootRowRst SYS_RST_CTRL.a v := State.reg_setReg _ _ _ hc.regs
  have e2 : (s.rwMask bootRowRst SYS_RST_CTRL.a != 0#32) = true := by rw [hmask]; decide
  unfold State.raceWith State.auditWrite
  dsimp only
  have hl : logged bootRowRst = true := by decide
  rw [e, hl, e2, if_neg (show ¬ SYS_RST_CTRL.a = ROL_LC_REQ.a by decide)]
  rfl

theorem boot_committed_same (s : State) (r : RegRow) (i a : Nat) (v : Word) : s.committed r i a v = { s with regs := (s.committed r i a v).regs, par := (s.committed r i a v).par, aud := (s.committed r i a v).aud, evt := (s.committed r i a v).evt, out := (s.committed r i a v).out, pcie := { s.pcie with pba := (s.committed r i a v).pcie.pba } } := by
  have h := (State.audit_only ((s.setReg a (s.newVal r a v)).parClear a (s.rwMask r a)) 0 (s.roleOf i) i a (s.reg a).toNat (s.newVal r a v).toNat).same
  unfold State.committed
  rw [h]
  rfl

theorem boot_devScope_facts (s : State) (kind : Nat) (aon : Bool) :
    let D := s.flashBroken.endSessions.pinsLow
    let t := s.devScope kind aon
    t.pending = D.pending ∧ t.now = D.now ∧ t.frames = [] ∧ t.copies = [] ∧ t.seq = [] ∧ t.win = [] ∧ t.sess = [] ∧ t.evt = [] ∧ t.sa = [] ∧ t.guards = [] ∧ t.pair = {} ∧
      t.boot = { relAt := D.now } ∧ ∃ w, t.regs = Cells.set resetOf (if kind = 0 then [] else Cells.keep keepReset D.regs) ROL_LC_REQ.a w := by
  unfold State.devScope
  dsimp only
  generalize s.flashBroken.endSessions.pinsLow = D
  exact ⟨rfl, rfl, rfl, rfl, rfl, rfl, rfl, rfl, rfl, rfl, rfl, rfl, ⟨_, rfl⟩⟩

theorem boot_devScope_reg (s : State) (kind : Nat) (aon : Bool) (a : Nat) (h1 : a ≠ ROL_LC_REQ.a) (h : keepReset a = false ∨ kind = 0) :
    (s.devScope kind aon).reg a = resetOf a := by
  obtain ⟨w, hw⟩ := (boot_devScope_facts s kind aon).2.2.2.2.2.2.2.2.2.2.2.2
  unfold State.reg
  rw [hw, Cells.get_set_ne _ _ _ _ _ h1]
  by_cases hk : kind = 0
  · rw [if_pos hk]; rfl
  · rw [if_neg hk, Cells.get_keep]
    rw [h.resolve_right hk]
    rfl

theorem boot_devReset_form (s : State) (kind : Nat) (aon : Bool) (hk : kind ≠ 0) :
    ∃ p o, s.devReset kind aon = { ((((s.carrForget.devScope kind aon).setFs PWR_STAT.a [(PWR_STAT.state, 0), (PWR_STAT.phase, 0), (PWR_STAT.wake_src, 0)]).setF PWR_CTRL.a PWR_CTRL.sleep_req 0).rstCause kind) with pwr := p, out := o } := by
  unfold State.devReset
  dsimp only
  rw [if_neg hk]
  generalize ((((s.carrForget.devScope kind aon).setFs PWR_STAT.a [(PWR_STAT.state, 0), (PWR_STAT.phase, 0), (PWR_STAT.wake_src, 0)]).setF PWR_CTRL.a PWR_CTRL.sleep_req 0).rstCause kind) = u
  obtain ⟨o, ho⟩ := inh_same u (u.inhLevels 4)
  exact ⟨_, o, ho⟩

theorem boot_devReset_form0 (s : State) (aon : Bool) : ∃ p o, s.devReset 0 aon = { s.carrForget.devScope 0 aon with pwr := p, out := o } := by
  unfold State.devReset
  dsimp only
  rw [if_pos rfl]
  generalize s.carrForget.devScope 0 aon = u
  obtain ⟨o, ho⟩ := inh_same u (u.inhLevels 4)
  exact ⟨_, o, ho⟩

theorem boot_reg_rst (s : State) (k : Nat) (hc : Cells.wf resetOf s.regs = true) : (s.rstCause k).reg SYS_RST_CAUSE.a = fldSet (s.reg SYS_RST_CAUSE.a) ⟨k, k⟩ 1 := State.reg_setReg _ _ _ hc

theorem boot_reg_rst_ne (s : State) (k b : Nat) (h : b ≠ SYS_RST_CAUSE.a) : (s.rstCause k).reg b = s.reg b := State.reg_setReg_ne _ _ _ _ h

theorem boot_setFs_keep (s : State) (a : Nat) (l : List (Fld × Nat)) (hc : Cells.wf resetOf s.regs = true) : Cells.wf resetOf (s.setFs a l).regs = true := Cells.wf_set hc _ _

theorem boot_tail_facts (d : State) (kind : Nat) (hk : kind ≠ 0) (hk3 : kind < 3) (hw : Cells.wf resetOf d.regs = true) :
    let u := ((d.setFs PWR_STAT.a [(PWR_STAT.state, 0), (PWR_STAT.phase, 0), (PWR_STAT.wake_src, 0)]).setF PWR_CTRL.a PWR_CTRL.sleep_req 0).rstCause kind
    fldGet (u.reg SYS_RST_CAUSE.a) ⟨kind, kind⟩ = 1 ∧ u.pwrState = 0 ∧ u.pwrPhase = 0 ∧
      (∀ a, a ≠ SYS_RST_CAUSE.a → blockOf a ≠ 12 → u.reg a = d.reg a) := by
  dsimp only
  have w1 := boot_setFs_keep d PWR_STAT.a [(PWR_STAT.state, 0), (PWR_STAT.phase, 0), (PWR_STAT.wake_src, 0)] hw
  have w2 : Cells.wf resetOf ((d.setFs PWR_STAT.a [(PWR_STAT.state, 0), (PWR_STAT.phase, 0), (PWR_STAT.wake_src, 0)]).setF PWR_CTRL.a PWR_CTRL.sleep_req 0).regs = true := boot_setFs_keep _ _ [(PWR_CTRL.sleep_req, 0)] w1
  refine ⟨?_, ?_, ?_, fun a h1 h2 => ?_⟩
  · rw [boot_reg_rst _ _ w2]
    refine (fldGet_fldSet _ _ _ ?_).trans ?_
    · clear * - hk3; revert kind; decide
    · clear * - hk3; revert kind; decide
  · show fldGet (State.reg _ PWR_STAT.a) PWR_STAT.state = 0
    rw [boot_reg_rst_ne _ _ _ (by decide), reg_setF_ne _ _ _ _ _ (by decide), reg_setFs _ _ _ hw]
    simp only [List.foldl]
    rw [fldGet_fldSet_ne _ _ _ _ (by decide) (by decide), fldGet_fldSet_ne _ _ _ _ (by decide) (by decide), fldGet_fldSet _ _ _ (by decide)]
    decide
  · show fldGet (State.reg _ PWR_STAT.a) PWR_STAT.phase = 0
    rw [boot_reg_rst_ne _ _ _ (by decide), reg_setF_ne _ _ _ _ _ (by decide), reg_setFs _ _ _ hw]
    simp only [List.foldl]
    rw [fldGet_fldSet_ne _ _ _ _ (by decide) (by decide), fldGet_fldSet _ _ _ (by decide)]
    decide
  · have e1 : a ≠ PWR_CTRL.a := fun e => h2 (by rw [e]; decide)
    have e2 : a ≠ PWR_STAT.a := fun e => h2 (by rw [e]; decide)
    rw [boot_reg_rst_ne _ _ _ h1, reg_setF_ne _ _ _ _ _ e1, reg_setFs_ne _ _ _ _ e2]

theorem boot_devFacts (s : State) (kind : Nat) (aon : Bool) (hc : s.Canonical) (hk : kind < 3) :
    let t := s.devReset kind aon
    t.pending = s.pending ∧ t.now = s.now ∧ t.frames = [] ∧ t.copies = [] ∧ t.seq = [] ∧ t.win = [] ∧ t.sess = [] ∧ t.evt = [] ∧ t.sa = [] ∧ t.guards = [] ∧ t.pair = {} ∧ t.boot = { relAt := s.now } ∧
      (∀ a, a ≠ ROL_LC_REQ.a → a ≠ SYS_RST_CAUSE.a → blockOf a ≠ 12 → t.reg a = resetOf a) ∧
      (0 < kind → fldGet (t.reg SYS_RST_CAUSE.a) ⟨kind, kind⟩ = 1 ∧ t.pwrState = 0 ∧ t.pwrPhase = 0) ∧ (kind = 0 → t.reg SYS_RST_CAUSE.a = resetOf SYS_RST_CAUSE.a ∧ t.reg PWR_STAT.a = resetOf PWR_STAT.a) := by
  dsimp only
  have hk1 : s.Keeps s.carrForget.flashBroken.endSessions.pinsLow :=
    State.pinsLow_keeps (State.endSessions_keeps (State.flashBroken_keeps (State.carrForget_keeps (State.Keeps.refl s))))
  have hd := boot_devScope_facts s.carrForget kind aon
  have hr := boot_devScope_reg s.carrForget kind aon
  have hw : Cells.wf resetOf (s.carrForget.devScope kind aon).regs = true := by
    obtain ⟨w, hw⟩ := hd.2.2.2.2.2.2.2.2.2.2.2.2
    rw [hw]
    apply Cells.wf_set
    split
    · rfl
    · exact Cells.wf_keep (hk1.canon hc).regs _
  dsimp only at hd
  rw [hk1.pending, hk1.now] at hd
  obtain ⟨d1, d2, d3, d4, d5, d6, d7, d8, d9, d10, d11, d12, -⟩ := hd
  by_cases h0 : kind = 0
  · subst h0
    obtain ⟨p, o, e⟩ := boot_devReset_form0 s aon
    rw [e]
    generalize s.carrForget.devScope 0 aon = d at *
    exact ⟨d1, d2, d3, d4, d5, d6, d7, d8, d9, d10, d11, d12, fun a x y z => hr a x (.inr rfl), fun h => absurd h (by decide), fun _ => ⟨hr _ (by decide) (.inr rfl), hr _ (by decide) (.inr rfl)⟩⟩
  · obtain ⟨p, o, e⟩ := boot_devReset_form s kind aon h0
    rw [e]
    generalize s.carrForget.devScope kind aon = d at *
    obtain ⟨t1, t2, t3, t4⟩ := boot_tail_facts d kind h0 hk hw
    refine ⟨d1, d2, d3, d4, d5, d6, d7, d8, d9, d10, d11, d12, fun a x y z => (t4 a y z).trans (hr a x (.inl ?_)), fun _ => ⟨t1, t2, t3⟩, fun h => absurd h h0⟩
    unfold keepReset
    simp only [Bool.or_eq_false_iff, beq_eq_false_iff_ne]
    exact ⟨z, y⟩

theorem boot_carrFacts (s : State) (bit : Nat) (hc : s.Canonical) (h1 : 3 ≤ bit) (h2 : bit ≤ 5) (h : s.boot.stage ≠ 0 ∨ s.boot.carr = true) :
    let t := s.carrReset bit
    t.cpxState = 0 ∧ t.sram = [] ∧ t.boot.stage = 0 ∧ t.boot.carr = true ∧ t.boot.sessEnd = none ∧ fldGet (t.reg SYS_RST_CAUSE.a) ⟨bit, bit⟩ = 1 := by
  have hk : s.Keeps s.endSessions.anchorDue := State.anchorDue_keeps (State.endSessions_keeps (State.Keeps.refl s))
  unfold State.carrReset
  rw [if_neg (by rintro ⟨a, b⟩; rcases h with h | h; exact h a; rw [b] at h; cases h)]
  dsimp only
  have hw := (hk.canon hc).regs
  generalize s.endSessions.anchorDue = e at *
  generalize (s.boot.stage == 0) = b
  have w1 : Cells.wf resetOf (e.rstCause bit).regs = true := Cells.wf_set hw _ _
  have c1 : fldGet ((e.rstCause bit).reg SYS_RST_CAUSE.a) ⟨bit, bit⟩ = 1 := by
    rw [boot_reg_rst _ _ hw]
    refine (fldGet_fldSet _ _ _ ?_).trans ?_
    · clear * - h1 h2; show bit < 32; omega
    · clear * - h1 h2; have : bit = 3 ∨ bit = 4 ∨ bit = 5 := by omega
      rcases this with rfl | rfl | rfl <;> decide
  generalize e.rstCause bit = r at *
  have hs : ∀ (u : State), u.sram = [] → u.cpxState = 0 → fldGet (u.reg SYS_RST_CAUSE.a) ⟨bit, bit⟩ = 1 → u.boot.stage = 0 → u.boot.carr = true → u.boot.sessEnd = none →
      (u.raiseIf (!b) 61 9 bit).cpxState = 0 ∧ (u.raiseIf (!b) 61 9 bit).sram = [] ∧ (u.raiseIf (!b) 61 9 bit).boot.stage = 0 ∧ (u.raiseIf (!b) 61 9 bit).boot.carr = true ∧ (u.raiseIf (!b) 61 9 bit).boot.sessEnd = none ∧
        fldGet ((u.raiseIf (!b) 61 9 bit).reg SYS_RST_CAUSE.a) ⟨bit, bit⟩ = 1 := by
    intro u a1 a2 a3 a4 a5 a6
    unfold State.raiseIf
    split
    · rw [State.raise_sram, State.raise_boot]
      refine ⟨?_, a1, a4, a5, a6, ?_⟩
      · show fldGet (State.reg _ CPX_STAT.a) _ = 0
        rw [State.reg_raise_ne _ _ _ _ _ (by decide)]
        exact a2
      · rw [State.reg_raise_ne _ _ _ _ _ (by decide)]
        exact a3
    · exact ⟨a2, a1, a4, a5, a6, a3⟩
  refine hs _ rfl ?_ ?_ rfl rfl rfl
  · show fldGet (State.reg _ CPX_STAT.a) _ = 0
    refine (congrArg (fun w => fldGet w CPX_STAT.state) (?_ : _ = resetOf CPX_STAT.a)).trans (by decide)
    refine (reg_setF_ne (({ r with sram := [], carr := { bad := r.carr.bad, trainAt := r.carr.trainAt, trainTemp := r.carr.trainTemp } } : State).setReg CPX_STAT.a (resetOf CPX_STAT.a)) SYS_BOOT_STAT.a CPX_STAT.a SYS_BOOT_STAT.result 0 (by decide)).trans ?_
    exact State.reg_setReg _ _ _ w1
  · refine (congrArg (fun w => fldGet w ⟨bit, bit⟩) (?_ : _ = r.reg SYS_RST_CAUSE.a)).trans c1
    refine (reg_setF_ne (({ r with sram := [], carr := { bad := r.carr.bad, trainAt := r.carr.trainAt, trainTemp := r.carr.trainTemp } } : State).setReg CPX_STAT.a (resetOf CPX_STAT.a)) SYS_BOOT_STAT.a SYS_RST_CAUSE.a SYS_BOOT_STAT.result 0 (by decide)).trans ?_
    exact State.reg_setReg_ne _ _ _ _ (by decide)

theorem boot_relFacts (s : State) (pins : Nat) (hc : s.Canonical) (h1 : s.boot.stage = 0) (h2 : s.clocked = true) :
    let m := if s.boot.carr then fldGet (s.reg SYS_BOOT_STAT.a) SYS_BOOT_STAT.boot_mode else pins
    let t := s.resetRelease pins
    fldGet (t.reg SYS_BOOT_STAT.a) SYS_BOOT_STAT.boot_mode = m % 4 ∧ t.boot.relAt = (if s.boot.carr then s.boot.relAt else s.now) ∧
      t.boot.stage = (if m = 1 then 3 else if m = 2 ∧ (s.fuse.state = 0 ∨ s.fuse.state = 3) then 4 else if s.staging then 1 else 2) ∧
      (s.boot.carr = false → pins = 3 → fldGet (t.reg (EVT_SRC_STAT.a 61)) EVT_SRC_STAT.pend = 1) := by
  dsimp only
  unfold State.resetRelease
  rw [if_neg (by rintro (h | h); exact h h1; rw [h2] at h; cases h)]
  dsimp only
  have em : (if (!s.boot.carr) = true then pins else fldGet (s.reg SYS_BOOT_STAT.a) SYS_BOOT_STAT.boot_mode) = (if s.boot.carr = true then fldGet (s.reg SYS_BOOT_STAT.a) SYS_BOOT_STAT.boot_mode else pins) := by
    cases s.boot.carr <;> rfl
  have er : (if (!s.boot.carr) = true then s.now else s.boot.relAt) = (if s.boot.carr = true then s.boot.relAt else s.now) := by
    cases s.boot.carr <;> rfl
  rw [em]
  have e2 : (!s.boot.carr && (if s.boot.carr = true then fldGet (s.reg SYS_BOOT_STAT.a) SYS_BOOT_STAT.boot_mode else pins) == 3) = true ↔ (s.boot.carr = false ∧ pins = 3) := by
    cases s.boot.carr <;> simp
  generalize (if s.boot.carr = true then fldGet (s.reg SYS_BOOT_STAT.a) SYS_BOOT_STAT.boot_mode else pins) = m at *
  generalize (!s.boot.carr && m == 3) = c at *
  have hp : (if (!s.boot.carr) = true then (s.setFs SYS_BOOT_STAT.a [(SYS_BOOT_STAT.boot_mode, m), (SYS_BOOT_STAT.result, 0)]).ageStart else s.setFs SYS_BOOT_STAT.a [(SYS_BOOT_STAT.boot_mode, m), (SYS_BOOT_STAT.result, 0)]) =
      { s.setFs SYS_BOOT_STAT.a [(SYS_BOOT_STAT.boot_mode, m), (SYS_BOOT_STAT.result, 0)] with pipe := if (!s.boot.carr) = true then (s.setFs SYS_BOOT_STAT.a [(SYS_BOOT_STAT.boot_mode, m), (SYS_BOOT_STAT.result, 0)]).ageStart.pipe else s.pipe } := by
    split <;> rfl
  have hpw : Cells.wf (fun _ => ({} : PipeSt)) (if (!s.boot.carr) = true then (s.setFs SYS_BOOT_STAT.a [(SYS_BOOT_STAT.boot_mode, m), (SYS_BOOT_STAT.result, 0)]).ageStart.pipe else s.pipe) = true := by
    split
    · exact ((State.ageStart_keeps (State.setFs_keeps (State.Keeps.refl s) _ _)).canon hc).pipe
    · exact hc.pipe
  rw [hp]
  generalize (if (!s.boot.carr) = true then (s.setFs SYS_BOOT_STAT.a [(SYS_BOOT_STAT.boot_mode, m), (SYS_BOOT_STAT.result, 0)]).ageStart.pipe else s.pipe) = pp at hpw ⊢
  let v : State := ({ s.setFs SYS_BOOT_STAT.a [(SYS_BOOT_STAT.boot_mode, m), (SYS_BOOT_STAT.result, 0)] with pipe := pp } : State).setBoot { s.boot with carr := false, relAt := if (!s.boot.carr) = true then s.now else s.boot.relAt }
  have hv : v.Canonical := { hc with regs := boot_setFs_keep s _ _ hc.regs, pipe := hpw }
  have v1 : fldGet (v.reg SYS_BOOT_STAT.a) SYS_BOOT_STAT.boot_mode = m % 4 := by
    refine (congrArg (fun w => fldGet w SYS_BOOT_STAT.boot_mode) (reg_setFs s SYS_BOOT_STAT.a [(SYS_BOOT_STAT.boot_mode, m), (SYS_BOOT_STAT.result, 0)] hc.regs)).trans ?_
    simp only [List.foldl]
    rw [fldGet_fldSet_ne _ _ _ _ (by decide) (by decide), fldGet_fldSet _ _ _ (by decide)]
    rfl
  have v2 : v.boot.relAt = (if s.boot.carr then s.boot.relAt else s.now) := er
  have v3 : v.fuse = s.fuse := rfl
  have v4 : v.staging = s.staging := rfl
  have hw : ∀ w : State, w = v.raiseIf c 61 11 3 → fldGet (w.reg SYS_BOOT_STAT.a) SYS_BOOT_STAT.boot_mode = m % 4 ∧ w.boot = v.boot ∧ w.fuse = s.fuse ∧ w.staging = s.staging ∧
      (c = true → fldGet (w.reg (EVT_SRC_STAT.a 61)) EVT_SRC_STAT.pend = 1) := by
    rintro w rfl
    unfold State.raiseIf
    cases c
    · exact ⟨v1, rfl, v3, v4, fun h => by cases h⟩
    · rw [if_pos rfl]
      have hf := State.raise_flash v 61 11 3
      have hb : (v.raise 61 11 3).staging = v.staging := by
        unfold State.staging State.flashRead
        rw [hf]
      refine ⟨?_, State.raise_boot _ _ _ _, State.raise_fuse _ _ _ _, hb.trans v4, fun _ => pend_raise _ _ _ _ hv⟩
      rw [State.reg_raise_ne _ _ _ _ _ (by decide)]
      exact v1
  have hw1 := hw _ rfl
  have ee : (v.raiseIf c 61 11 3) = (({ s.setFs SYS_BOOT_STAT.a [(SYS_BOOT_STAT.boot_mode, m), (SYS_BOOT_STAT.result, 0)] with pipe := pp } : State).setBoot { (s.setFs SYS_BOOT_STAT.a [(SYS_BOOT_STAT.boot_mode, m), (SYS_BOOT_STAT.result, 0)]).boot with carr := false, relAt := if (!s.boot.carr) = true then s.now else (s.setFs SYS_BOOT_STAT.a [(SYS_BOOT_STAT.boot_mode, m), (SYS_BOOT_STAT.result, 0)]).boot.relAt }).raiseIf c 61 11 3 := rfl
  rw [← ee]
  generalize v.raiseIf c 61 11 3 = w at *
  obtain ⟨w1, w2, w3, w4, w5⟩ := hw1
  have w6 : s.boot.carr = false → pins = 3 → fldGet (w.reg (EVT_SRC_STAT.a 61)) EVT_SRC_STAT.pend = 1 := fun a b => w5 (e2.mpr ⟨a, b⟩)
  have w7 : w.boot.relAt = (if s.boot.carr then s.boot.relAt else s.now) := (congrArg BootSt.relAt w2).trans v2
  have q : (s.setFs SYS_BOOT_STAT.a [(SYS_BOOT_STAT.boot_mode, m), (SYS_BOOT_STAT.result, 0)]).boot = s.boot := rfl
  split
  · exact ⟨w1, w7, rfl, w6⟩
  · split
    · exact ⟨w1, w7, rfl, w6⟩
    · refine ⟨w1, w7, ?_, w6⟩
      show (if w.staging then 1 else 2) = _
      rw [w4]

theorem boot_relDev (s : State) (mode : Fin 4) (hc : s.Canonical) (h1 : s.boot.stage = 0) (h2 : s.clocked = true) (h3 : s.boot.carr = false) :
    ∃ t : State, exec (.resetRelease mode) s = .next t ∧ fldGet (t.reg SYS_BOOT_STAT.a) SYS_BOOT_STAT.boot_mode = mode.val ∧
        t.boot.relAt = s.now ∧ t.boot.stage = (if mode.val = 1 then 3 else if mode.val = 2 ∧ (s.fuse.state = 0 ∨ s.fuse.state = 3) then 4 else if s.staging then 1 else 2) ∧
        (mode.val = 3 → fldGet (t.reg (EVT_SRC_STAT.a 61)) EVT_SRC_STAT.pend = 1) := by
  have h := boot_relFacts s mode.val hc h1 h2
  dsimp only at h
  rw [h3] at h
  simp only [Bool.false_eq_true, if_false] at h
  rw [Nat.mod_eq_of_lt mode.isLt] at h
  exact ⟨_, rfl, h.1, h.2.1, h.2.2.1, h.2.2.2 trivial⟩

theorem boot_relCarr (s : State) (mode : Fin 4) (hc : s.Canonical) (h1 : s.boot.stage = 0) (h2 : s.clocked = true) (h3 : s.boot.carr = true) :
    ∃ t : State, exec (.resetRelease mode) s = .next t ∧ fldGet (t.reg SYS_BOOT_STAT.a) SYS_BOOT_STAT.boot_mode = fldGet (s.reg SYS_BOOT_STAT.a) SYS_BOOT_STAT.boot_mode ∧ t.boot.relAt = s.boot.relAt ∧
        t.boot.stage = (if fldGet (s.reg SYS_BOOT_STAT.a) SYS_BOOT_STAT.boot_mode = 1 then 3 else if fldGet (s.reg SYS_BOOT_STAT.a) SYS_BOOT_STAT.boot_mode = 2 ∧ (s.fuse.state = 0 ∨ s.fuse.state = 3) then 4 else if s.staging then 1 else 2) := by
  have h := boot_relFacts s mode.val hc h1 h2
  dsimp only at h
  rw [h3] at h
  simp only [if_true] at h
  have hl : fldGet (s.reg SYS_BOOT_STAT.a) SYS_BOOT_STAT.boot_mode < 4 := fldGet_lt _ _
  rw [Nat.mod_eq_of_lt hl] at h
  exact ⟨_, rfl, h.1, h.2.1, h.2.2.1⟩

theorem boot_carrStart_same (u : State) : (∃ fr re ca ev o pb, u.carrStart = { u with freeIdx := fr, regs := re, carr := ca, evt := ev, out := o, pcie := { u.pcie with pba := pb } }) ∧ u.carrStart.reg SYS_BOOT_STAT.a = u.reg SYS_BOOT_STAT.a := by
  have hraise : ∀ (w : State) (c : Nat), (∃ fr re ca ev o pb, w = { u with freeIdx := fr, regs := re, carr := ca, evt := ev, out := o, pcie := { u.pcie with pba := pb } }) ∧ w.reg SYS_BOOT_STAT.a = u.reg SYS_BOOT_STAT.a →
      (∃ fr re ca ev o pb, (w.cpxCount 3).raise 50 3 c = { u with freeIdx := fr, regs := re, carr := ca, evt := ev, out := o, pcie := { u.pcie with pba := pb } }) ∧ ((w.cpxCount 3).raise 50 3 c).reg SYS_BOOT_STAT.a = u.reg SYS_BOOT_STAT.a := by
    rintro w c ⟨⟨fr, re, ca, ev, o, pb, h⟩, h2⟩
    refine ⟨?_, ?_⟩
    · rw [State.raise_same]
      subst h
      exact ⟨_, _, _, _, _, _, rfl⟩
    · rw [State.reg_raise_ne _ _ _ _ _ (by decide)]
      refine Eq.trans ?_ h2
      unfold State.cpxCount
      first | exact State.reg_setReg_ne _ _ _ _ (by decide) | (split <;> first | rfl | exact State.reg_setReg_ne _ _ _ _ (by decide))
  have hset : ∀ (w : State) (l : List (Fld × Nat)), (∃ fr re ca ev o pb, w = { u with freeIdx := fr, regs := re, carr := ca, evt := ev, out := o, pcie := { u.pcie with pba := pb } }) ∧ w.reg SYS_BOOT_STAT.a = u.reg SYS_BOOT_STAT.a →
      (∃ fr re ca ev o pb, w.setFs CPX_STAT.a l = { u with freeIdx := fr, regs := re, carr := ca, evt := ev, out := o, pcie := { u.pcie with pba := pb } }) ∧ (w.setFs CPX_STAT.a l).reg SYS_BOOT_STAT.a = u.reg SYS_BOOT_STAT.a := by
    rintro w l ⟨⟨fr, re, ca, ev, o, pb, h⟩, h2⟩
    refine ⟨?_, ?_⟩
    · subst h
      exact ⟨_, _, _, _, _, _, rfl⟩
    · exact (State.reg_setReg_ne _ _ _ _ (by decide)).trans h2
  unfold State.carrStart
  dsimp only
  have h0 : ∀ b : Bool, (∃ fr re ca ev o pb, (if b = true then u.fresh.2 else u) = { u with freeIdx := fr, regs := re, carr := ca, evt := ev, out := o, pcie := { u.pcie with pba := pb } }) ∧ (if b = true then u.fresh.2 else u).reg SYS_BOOT_STAT.a = u.reg SYS_BOOT_STAT.a := by
    intro b; cases b <;> exact ⟨⟨_, _, _, _, _, _, rfl⟩, rfl⟩
  have h1 := h0 u.carr.bad.isSome
  generalize (if u.carr.bad.isSome = true then u.fresh.2 else u) = v at *
  have h2 : ∀ k : CarrSt, (∃ fr re ca ev o pb, ({ v with carr := k } : State) = { u with freeIdx := fr, regs := re, carr := ca, evt := ev, out := o, pcie := { u.pcie with pba := pb } }) ∧ ({ v with carr := k } : State).reg SYS_BOOT_STAT.a = u.reg SYS_BOOT_STAT.a := by
    intro k
    obtain ⟨⟨fr, re, ca, ev, o, pb, h⟩, h3⟩ := h1
    subst h
    exact ⟨⟨_, _, _, _, _, _, rfl⟩, h3⟩
  split
  · split
    · exact hraise _ _ (hset _ _ (h2 _))
    · exact hset _ _ (h2 _)
  · split
    · exact hraise _ _ (hset _ _ (h2 _))
    · exact hset _ _ (h2 _)

theorem boot_bootStart_facts (s : State) (rd : Nat → Nat → List Byte) (r : Nat) (hc : s.Canonical) (hr : r < 6) : let u := s.bootStart rd r; let h := rd 0 256
      u.boot = { s.boot with stage := 7, sessEnd := some (s.now + msTicks 1000), uart := [], beaconAt := none } ∧ (u.sessOf 1).role = 2 ∧
        u.sram = (s.sramWrite (leNat (slice h 16 8)) (rd 256 (leNat (slice h 8 4)))).sram ∧ fldGet (u.reg SYS_BOOT_STAT.a) SYS_BOOT_STAT.result = r := by
  dsimp only
  unfold State.bootStart
  dsimp only
  have k0 : s.Keeps (s.sramWrite (leNat (slice (rd 0 256) 16 8)) (rd 256 (leNat (slice (rd 0 256) 8 4)))) := State.sramWrite_keeps (State.Keeps.refl s) _ _
  have b0 : (s.sramWrite (leNat (slice (rd 0 256) 16 8)) (rd 256 (leNat (slice (rd 0 256) 8 4)))).boot = s.boot := rfl
  generalize s.sramWrite (leNat (slice (rd 0 256) 16 8)) (rd 256 (leNat (slice (rd 0 256) 8 4))) = w at *
  have k1 : s.Keeps ((w.setF SYS_BOOT_STAT.a SYS_BOOT_STAT.result r).carrStart) := State.carrStart_keeps (State.setF_keeps k0 _ _ _)
  obtain ⟨⟨fr, re, ca, ev, o, pb, h1⟩, h2⟩ := boot_carrStart_same (w.setF SYS_BOOT_STAT.a SYS_BOOT_STAT.result r)
  have h3 : fldGet ((w.setF SYS_BOOT_STAT.a SYS_BOOT_STAT.result r).carrStart.reg SYS_BOOT_STAT.a) SYS_BOOT_STAT.result = r := by
    rw [h2, reg_setF _ _ _ _ (k0.canon hc).regs, fldGet_fldSet _ _ _ (by decide)]
    exact Nat.mod_eq_of_lt (by clear * - hr; show r < 2 ^ 4; omega)
  have h4 : (w.setF SYS_BOOT_STAT.a SYS_BOOT_STAT.result r).carrStart.boot = s.boot := by rw [h1]; exact b0
  have h5 : (w.setF SYS_BOOT_STAT.a SYS_BOOT_STAT.result r).carrStart.sram = w.sram := by rw [h1]; rfl
  generalize (w.setF SYS_BOOT_STAT.a SYS_BOOT_STAT.result r).carrStart = x at *
  obtain ⟨f1, -, -, f4⟩ := setRole_facts x 1 2 (k1.canon hc)
  obtain ⟨se, au, re', ev', o', pb', h6⟩ := setRole_same x 1 2
  have g1 : (x.setRole 1 2).boot = s.boot := by rw [h6]; exact h4
  have g2 : (x.setRole 1 2).sram = w.sram := by rw [h6]; exact h5
  have g3 : (x.setRole 1 2).now = s.now := by rw [h6]; exact k1.now
  have g4 : fldGet ((x.setRole 1 2).reg SYS_BOOT_STAT.a) SYS_BOOT_STAT.result = r := by rw [f4 _ (by decide)]; exact h3
  have g5 : ((x.setRole 1 2).sessOf 1).role = 2 := by rw [f1]
  generalize x.setRole 1 2 = y at *
  refine ⟨?_, g5, g2, g4⟩
  show ({ y.boot with stage := 7, sessEnd := some (s.now + msTicks 1000), uart := [], beaconAt := none } : BootSt) = _
  rw [g1]

theorem boot_verify_k (s : State) (h : s.powered = true) : s.powered ≠ false := by rw [h]; decide

theorem boot_verify1 (s : State) (hp : s.powered = true) (h : s.boot.stage = 1) (hf : s.boot.flashOp = 0) : s.bootVerify =
    if bootCheck 1 (s.rdFlash stagingSlot) = 0 then (s.bootStart (s.rdFlash stagingSlot) 2).raise 61 2 0
    else (s.raise 61 3 (bootCheck 1 (s.rdFlash stagingSlot))).setBoot { (s.raise 61 3 (bootCheck 1 (s.rdFlash stagingSlot))).boot with stage := 2 } := by
  unfold State.bootVerify; simp [hp, h, hf]

theorem boot_verify2 (s : State) (hp : s.powered = true) (h : s.boot.stage = 2) (hf : s.boot.flashOp = 0) : s.bootVerify =
    if bootCheck 1 (s.rdFlash activeSlot) = 0 then (s.bootStart (s.rdFlash activeSlot) 1).raise 61 1 0
    else (s.raise 61 4 (bootCheck 1 (s.rdFlash activeSlot))).noImage := by
  unfold State.bootVerify; simp [hp, h, hf]

theorem boot_verify5 (s : State) (hp : s.powered = true) (h : s.boot.stage = 5) : s.bootVerify =
    if bootCheck 1 (s.rdSram sramBase) = 0 then s.bootStart (s.rdSram sramBase) 3
    else ((s.raise 61 4 (bootCheck 1 (s.rdSram sramBase))).setF SYS_BOOT_STAT.a SYS_BOOT_STAT.result 5).setBoot
      { ((s.raise 61 4 (bootCheck 1 (s.rdSram sramBase))).setF SYS_BOOT_STAT.a SYS_BOOT_STAT.result 5).boot with stage := 3 } := by
  unfold State.bootVerify; simp [hp, h]

theorem boot_verify6 (s : State) (hp : s.powered = true) (h : s.boot.stage = 6) : s.bootVerify =
    if bootCheck 1 s.rdUart = 0 then (s.bootStart s.rdUart 4).emit (.uart [0x06#8])
    else ((s.raise 61 4 (bootCheck 1 s.rdUart)).emit (.uart [0x15#8])).setBoot
      { ((s.raise 61 4 (bootCheck 1 s.rdUart)).emit (.uart [0x15#8])).boot with stage := 4, uart := [] } := by
  unfold State.bootVerify; simp [hp, h]

theorem boot_failTo (s : State) (c : Nat) (hc : s.Canonical) :
    (s.raise 61 4 c).noImage.boot = { s.boot with stage := 3 } ∧ fldGet ((s.raise 61 4 c).noImage.reg SYS_BOOT_STAT.a) SYS_BOOT_STAT.result = 5 := by
  have k : s.Keeps (s.raise 61 4 c) := State.raise_keeps (State.Keeps.refl s) _ _ _
  have b1 : (s.raise 61 4 c).boot = s.boot := State.raise_boot _ _ _ _
  generalize s.raise 61 4 c = u at *
  have k2 : s.Keeps (u.raise 61 5 0) := State.raise_keeps k _ _ _
  have b2 : (u.raise 61 5 0).boot = s.boot := (State.raise_boot _ _ _ _).trans b1
  unfold State.noImage
  generalize u.raise 61 5 0 = v at *
  refine ⟨?_, ?_⟩
  · show ({ v.boot with stage := 3 } : BootSt) = _
    rw [b2]
  · refine (congrArg (fun w => fldGet w SYS_BOOT_STAT.result) (reg_setF v SYS_BOOT_STAT.a SYS_BOOT_STAT.result 5 (k2.canon hc).regs)).trans ?_
    refine (fldGet_fldSet _ _ _ (by decide)).trans (by decide)

theorem boot_failHost (s : State) (c : Nat) (hc : s.Canonical) (u : State) (hu : u = (s.raise 61 4 c).setF SYS_BOOT_STAT.a SYS_BOOT_STAT.result 5) :
    (u.setBoot { u.boot with stage := 3 }).boot = { s.boot with stage := 3 } ∧ fldGet ((u.setBoot { u.boot with stage := 3 }).reg SYS_BOOT_STAT.a) SYS_BOOT_STAT.result = 5 := by
  subst hu
  have k : s.Keeps (s.raise 61 4 c) := State.raise_keeps (State.Keeps.refl s) _ _ _
  have b1 : (s.raise 61 4 c).boot = s.boot := State.raise_boot _ _ _ _
  generalize s.raise 61 4 c = v at *
  refine ⟨?_, ?_⟩
  · show ({ v.boot with stage := 3 } : BootSt) = _
    rw [b1]
  · refine (congrArg (fun w => fldGet w SYS_BOOT_STAT.result) (reg_setF v SYS_BOOT_STAT.a SYS_BOOT_STAT.result 5 (k.canon hc).regs)).trans ?_
    refine (fldGet_fldSet _ _ _ (by decide)).trans (by decide)

theorem boot_bsess (s : State) (hc : s.Canonical) (h : s.boot.sessEnd.isSome = true) :
    s.bootSessEnd.boot = { s.boot with sessEnd := none } ∧ (s.bootSessEnd.sessOf 1).role ≠ 2 ∧ ((s.sessOf 1).role = 2 → (s.bootSessEnd.sessOf 1).role = 0) ∧
      s.bootSessEnd.reg SYS_BOOT_STAT.a = s.reg SYS_BOOT_STAT.a := by
  unfold State.bootSessEnd
  rw [if_pos h]
  dsimp only
  have hc2 : (s.setBoot { s.boot with sessEnd := none }).Canonical := { hc with }
  split
  · obtain ⟨f1, -, -, f4⟩ := setRole_facts (s.setBoot { s.boot with sessEnd := none }) 1 0 hc2
    obtain ⟨se, au, re', ev', o', pb', h6⟩ := setRole_same (s.setBoot { s.boot with sessEnd := none }) 1 0
    refine ⟨?_, ?_, fun _ => ?_, f4 _ (by decide)⟩
    · rw [h6]; rfl
    · rw [f1]; exact (by decide : (0 : Nat) ≠ 2)
    · rw [f1]
  · rename_i h2
    exact ⟨rfl, h2, fun h3 => absurd h3 h2, rfl⟩

theorem boot_hostGo_poke (s : State) (i : Nat) (hc : s.Canonical) (h3 : s.boot.stage = 3) (hg : s.guardOf 0 = none) :
    s.poke i SYS_BOOT_CTRL.a (fldMask SYS_BOOT_CTRL.host_go) = s.hostGo := by
  have hb : blockOf SYS_BOOT_CTRL.a = 0 := by decide
  have e0 : BitVec.ofNat 32 (fldMask SYS_BOOT_CTRL.host_go).toNat = fldMask SYS_BOOT_CTRL.host_go := by decide
  have hw : s.mayWrite i SYS_BOOT_CTRL.a (fldMask SYS_BOOT_CTRL.host_go) = true := by
    unfold State.mayWrite
    dsimp only
    rw [if_neg (by decide), if_neg (by decide)]
    have : s.bootWindow = true := by unfold State.bootWindow; rw [h3]; rfl
    rw [this]
    simp
  unfold State.poke
  rw [State.busWrite_may s i SYS_BOOT_CTRL.a _ none _ (by rw [hb]; exact hg) (by rw [e0]; exact hw) (by decide) (by decide) kindOf_SYS_BOOT_CTRL rfl (by decide), e0]
  rw [State.regCommit_strobe s _ i _ _ hc (by rw [State.rwMask_plain _ _ _ (by decide)]; decide) (by decide) (by decide)]
  unfold State.regEffect
  simp only [hb]
  rfl

theorem boot_loadFacts (s : State) (hc : s.Canonical) : s.loadDone.boot = { s.boot with faultHold := false, sessEnd := none } ∧ fldGet (s.loadDone.reg SYS_BOOT_STAT.a) SYS_BOOT_STAT.loaded = 1 ∧
      (fldGet (s.reg SYS_BOOT_STAT.a) SYS_BOOT_STAT.loaded = 0 → fldGet (s.loadDone.reg SYS_BOOT_STAT.a) SYS_BOOT_STAT.load_time = min 0xffff ((s.now - s.boot.relAt) / 2500)) ∧
      (s.boot.sessEnd.isSome = true → (s.sessOf 1).role = 2 → (s.loadDone.sessOf 1).role = 0) := by
  unfold State.loadDone
  dsimp only
  have h1 : ∀ w : State, w = (if fldGet (s.reg SYS_BOOT_STAT.a) SYS_BOOT_STAT.loaded = 1 then s
      else s.setFs SYS_BOOT_STAT.a [(SYS_BOOT_STAT.loaded, 1), (SYS_BOOT_STAT.load_time, satTo 65535 ((s.now - s.boot.relAt) / 2500))]) →
      w.boot = s.boot ∧ w.Canonical ∧ w.sess = s.sess ∧ fldGet (w.reg SYS_BOOT_STAT.a) SYS_BOOT_STAT.loaded = 1 ∧
      (fldGet (s.reg SYS_BOOT_STAT.a) SYS_BOOT_STAT.loaded = 0 → fldGet (w.reg SYS_BOOT_STAT.a) SYS_BOOT_STAT.load_time = min 0xffff ((s.now - s.boot.relAt) / 2500)) := by
    rintro w rfl
    split
    · rename_i h; exact ⟨rfl, hc, rfl, h, fun h0 => by rw [h] at h0; cases h0⟩
    · refine ⟨rfl, (State.setFs_keeps (State.Keeps.refl s) _ _).canon hc, rfl, ?_, fun _ => ?_⟩
      · rw [reg_setFs _ _ _ hc.regs]
        simp only [List.foldl]
        rw [fldGet_fldSet_ne _ _ _ _ (by decide) (by decide), fldGet_fldSet _ _ _ (by decide)]
        decide
      · rw [reg_setFs _ _ _ hc.regs]
        simp only [List.foldl]
        rw [fldGet_fldSet _ _ _ (by decide)]
        have hsat : ∀ x, satTo 65535 x % 65536 = min 65535 x := fun x => by
          unfold satTo
          rcases Nat.lt_or_ge x 65535 with h | h
          · first | rw [if_pos h, Nat.min_eq_right (by omega)]; omega | rw [if_neg (by omega), Nat.min_eq_right (by omega)]; omega | omega
          · first | rw [if_neg (by omega), Nat.min_eq_left h] | rw [if_pos (by omega), Nat.min_eq_left h] | omega
        exact hsat _
  have h2 := h1 _ rfl
  generalize (if fldGet (s.reg SYS_BOOT_STAT.a) SYS_BOOT_STAT.loaded = 1 then s
      else s.setFs SYS_BOOT_STAT.a [(SYS_BOOT_STAT.loaded, 1), (SYS_BOOT_STAT.load_time, satTo 65535 ((s.now - s.boot.relAt) / 2500))]) = w at *
  obtain ⟨a1, a2, a3, a4, a5⟩ := h2
  have hc3 : (w.setBoot { w.boot with faultHold := false }).Canonical := { a2 with }
  cases he : s.boot.sessEnd with
  | none =>
    have e : (w.setBoot { w.boot with faultHold := false }).bootSessEnd = w.setBoot { w.boot with faultHold := false } := by
      unfold State.bootSessEnd
      rw [if_neg]
      show ¬ (w.boot.sessEnd.isSome = true)
      rw [a1, he]; decide
    rw [e]
    refine ⟨?_, a4, a5, fun h => by cases h⟩
    show ({ w.boot with faultHold := false } : BootSt) = _
    rw [a1, ← he]
  | some x =>
    obtain ⟨b1, b2, b3, b4⟩ := boot_bsess (w.setBoot { w.boot with faultHold := false }) hc3 (by show w.boot.sessEnd.isSome = true; rw [a1, he]; rfl)
    rw [b4]
    refine ⟨?_, a4, a5, fun _ h => b3 (by show (Cells.get _ w.sess 1).role = 2; rw [a3]; exact h)⟩
    rw [b1]
    show ({ ({ w.boot with faultHold := false } : BootSt) with sessEnd := none } : BootSt) = _
    rw [a1]

theorem boot_bootCheck_lt (k : Nat) (rd : Nat → Nat → List Byte) : bootCheck k rd < 8 := by
  unfold bootCheck
  dsimp only
  repeat' split
  all_goals decide

theorem boot_bvFacts (s : State) (hc : s.Canonical) : s.bvGo = { s with regs := s.bvGo.regs } ∧ fldGet (s.bvGo.reg SYS_BV_CTRL.a) SYS_BV_CTRL.busy = 0 ∧
        fldGet (s.bvGo.reg SYS_BV_CTRL.a) SYS_BV_CTRL.code = (if 0x60000000 ≤ s.f SYS_BV_ADDR.a SYS_BV_ADDR.addr ∧ s.f SYS_BV_ADDR.a SYS_BV_ADDR.addr < 0x70000000 then bootCheck 2 (s.rdFlash (s.f SYS_BV_ADDR.a SYS_BV_ADDR.addr - 0x60000000))
          else if sramBase ≤ s.f SYS_BV_ADDR.a SYS_BV_ADDR.addr ∧ s.f SYS_BV_ADDR.a SYS_BV_ADDR.addr < sramEnd then bootCheck 2 (s.rdSram (s.f SYS_BV_ADDR.a SYS_BV_ADDR.addr)) else 1) := by
  unfold State.bvGo
  dsimp only
  have hl : ∀ c, c = (if 0x60000000 ≤ s.f SYS_BV_ADDR.a SYS_BV_ADDR.addr ∧ s.f SYS_BV_ADDR.a SYS_BV_ADDR.addr < 0x70000000 then bootCheck 2 (s.rdFlash (s.f SYS_BV_ADDR.a SYS_BV_ADDR.addr - 0x60000000))
          else if sramBase ≤ s.f SYS_BV_ADDR.a SYS_BV_ADDR.addr ∧ s.f SYS_BV_ADDR.a SYS_BV_ADDR.addr < sramEnd then bootCheck 2 (s.rdSram (s.f SYS_BV_ADDR.a SYS_BV_ADDR.addr)) else 1) → c < 8 := by
    rintro c rfl
    split
    · exact boot_bootCheck_lt _ _
    · split
      · exact boot_bootCheck_lt _ _
      · decide
  have hl2 := hl _ rfl
  generalize (if 0x60000000 ≤ s.f SYS_BV_ADDR.a SYS_BV_ADDR.addr ∧ s.f SYS_BV_ADDR.a SYS_BV_ADDR.addr < 0x70000000 then bootCheck 2 (s.rdFlash (s.f SYS_BV_ADDR.a SYS_BV_ADDR.addr - 0x60000000))
          else if sramBase ≤ s.f SYS_BV_ADDR.a SYS_BV_ADDR.addr ∧ s.f SYS_BV_ADDR.a SYS_BV_ADDR.addr < sramEnd then bootCheck 2 (s.rdSram (s.f SYS_BV_ADDR.a SYS_BV_ADDR.addr)) else 1) = c at *
  refine ⟨rfl, ?_, ?_⟩
  · rw [reg_setFs _ _ _ hc.regs]
    simp only [List.foldl]
    rw [fldGet_fldSet_ne _ _ _ _ (by decide) (by decide), fldGet_fldSet_ne _ _ _ _ (by decide) (by decide), fldGet_fldSet _ _ _ (by decide)]
    decide
  · rw [reg_setFs _ _ _ hc.regs]
    simp only [List.foldl]
    rw [fldGet_fldSet_ne _ _ _ _ (by decide) (by decide), fldGet_fldSet _ _ _ (by decide)]
    exact Nat.mod_eq_of_lt hl2

theorem boot_scramble_same (s : State) (a n : Nat) : ∃ fl fr, s.flashScramble a n = { s with flash := fl, freeIdx := fr } := by
  induction n generalizing s a with
  | zero => exact ⟨_, _, rfl⟩
  | succ n ih =>
    unfold State.flashScramble
    dsimp only
    obtain ⟨fl, fr, h⟩ := ih _ (a + 16)
    rw [h]
    exact ⟨_, _, rfl⟩

theorem boot_broken_same (s : State) : ∃ fl fr, s.flashBroken = { s with flash := fl, freeIdx := fr } := by
  unfold State.flashBroken
  split
  · exact ⟨_, _, rfl⟩
  · exact boot_scramble_same _ _ _

theorem boot_done_core (s w : State) (hcw : w.Canonical) (hw : ∃ fl fr, w = { s with flash := fl, freeIdx := fr }) (e : Option Nat) (he : e = none ∨ e = some 3) :
    let t := (w.setBoot { w.boot with flashOp := 0, flashData := [] }).mbxEnd sysFlash 9 e
    t.boot = { s.boot with flashOp := 0, flashData := [] } ∧ t.flash = w.flash ∧ fldGet (t.reg sysFlash) MBX_CTRL.req = 0 ∧ Cells.wf resetOf t.regs = true ∧
      (e = none → t.Done s sysFlash 9) ∧ (e = some 3 → t.Refused sysFlash 3) := by
  obtain ⟨fl, fr, rfl⟩ := hw
  dsimp only
  let w : State := ({ s with flash := fl, freeIdx := fr } : State).setBoot { s.boot with flashOp := 0, flashData := [] }
  have hwc : w.Canonical := { hcw with }
  have hwr : Cells.wf resetOf w.regs = true := hcw.regs
  have k1 : Cells.wf resetOf (w.mbxDone sysFlash 9).regs = true := by
    unfold State.mbxDone
    exact Cells.wf_regs_setWords _ _ _ _ (Cells.wf_set hwr _ _)
  rcases he with rfl | rfl
  · have hd : (w.mbxDone sysFlash 9).Done s sysFlash 9 := State.mbxDone_done w s sysFlash 9 hwr rfl
    have hs := State.mbxDone_same w sysFlash 9
    refine ⟨?_, ?_, hd.1, k1, fun _ => hd, fun h => absurd h (by decide)⟩
    · show (w.mbxDone sysFlash 9).boot = _
      rw [hs]; rfl
    · show (w.mbxDone sysFlash 9).flash = _
      rw [hs]; rfl
  · have hr : ((w.mbxDone sysFlash 9).mbxFail sysFlash 3).Refused sysFlash 3 := State.refused_of w sysFlash 9 3 hwc (by decide)
    have hr2 : Cells.wf resetOf ((w.mbxDone sysFlash 9).mbxFail sysFlash 3).regs = true := Cells.wf_set k1 _ _
    have hs := State.refused_same w sysFlash 9 3
    refine ⟨?_, ?_, hr.1, hr2, fun h => absurd h (by decide), fun _ => hr⟩
    · show ((w.mbxDone sysFlash 9).mbxFail sysFlash 3).boot = _
      rw [hs]; rfl
    · show ((w.mbxDone sysFlash 9).mbxFail sysFlash 3).flash = _
      rw [hs]; rfl

theorem boot_doneFacts (s : State) (ok again : Bool) (hc : s.Canonical) :
    (let a := s.boot.flashAddr;
      (s.boot.flashOp = 0 → exec (.flashOpDone ok again) s = .next s) ∧
      (s.boot.flashOp = 1 → ∃ t : State, exec (.flashOpDone true false) s = .next t ∧ t.Done s sysFlash 9 ∧ t.boot = { s.boot with flashOp := 0, flashData := [] } ∧ t.flash = Cells.clear s.flash a (a + 65536)) ∧
      (1 < s.boot.flashOp → ∃ t : State, exec (.flashOpDone true false) s = .next t ∧ t.Done s sysFlash 9 ∧ t.boot = { s.boot with flashOp := 0, flashData := [] } ∧
        t.flash = memPut (fun _ => 0xff#8) s.flash a ((s.flashRead a 32).zipWith (fun x y => x &&& y) s.boot.flashData)) ∧
      (s.boot.flashOp ≠ 0 → ∃ t : State, exec (.flashOpDone false false) s = .next t ∧ t.Refused sysFlash 3 ∧ t.boot = { s.boot with flashOp := 0, flashData := [] } ∧ t.flash = s.flashBroken.flash) ∧
      (s.boot.flashOp ≠ 0 → ∃ t : State, exec (.flashOpDone ok true) s = .next t ∧ fldGet (t.reg (sysFlash + 4)) MBX_STAT.overrun = 1 ∧ fldGet (t.reg sysFlash) MBX_CTRL.req = 0 ∧ t.boot = { s.boot with flashOp := 0, flashData := [] })) := by
  dsimp only
  have hx : ∀ ok again, s.boot.flashOp ≠ 0 → exec (.flashOpDone ok again) s = .next (if again then (((if ok then s.flashApply else s.flashBroken).setBoot { (if ok then s.flashApply else s.flashBroken).boot with flashOp := 0, flashData := [] }).mbxEnd sysFlash 9 (if ok then none else some 3)).setF (sysFlash + 4) MBX_STAT.overrun 1
      else ((if ok then s.flashApply else s.flashBroken).setBoot { (if ok then s.flashApply else s.flashBroken).boot with flashOp := 0, flashData := [] }).mbxEnd sysFlash 9 (if ok then none else some 3)) := by
    intro ok again h
    show Host.Outcome.next (s.flashDone ok again) = _
    unfold State.flashDone
    rw [if_neg h]
  have ha : ∃ fl fr, s.flashApply = { s with flash := fl, freeIdx := fr } := by
    unfold State.flashApply
    dsimp only
    split <;> exact ⟨_, _, rfl⟩
  have hb := boot_broken_same s
  have ca := boot_done_core s s.flashApply ((State.flashApply_keeps (State.Keeps.refl s)).canon hc) ha none (.inl rfl)
  have cb := boot_done_core s s.flashBroken ((State.flashBroken_keeps (State.Keeps.refl s)).canon hc) hb (some 3) (.inr rfl)
  dsimp only at ca cb
  refine ⟨fun h => ?_, fun h => ?_, fun h => ?_, fun h => ?_, fun h => ?_⟩
  · show Host.Outcome.next (s.flashDone ok again) = _
    unfold State.flashDone
    rw [if_pos h]
  · refine ⟨_, hx true false (by omega), ca.2.2.2.2.1 rfl, ca.1, ?_⟩
    refine ca.2.1.trans ?_
    unfold State.flashApply
    rw [if_pos h]
  · refine ⟨_, hx true false (by omega), ca.2.2.2.2.1 rfl, ca.1, ?_⟩
    refine ca.2.1.trans ?_
    unfold State.flashApply
    rw [if_neg (by omega)]
  · exact ⟨_, hx false false h, cb.2.2.2.2.2 rfl, cb.1, cb.2.1⟩
  · have fin : ∀ u : State, Cells.wf resetOf u.regs = true → fldGet (u.reg sysFlash) MBX_CTRL.req = 0 → u.boot = { s.boot with flashOp := 0, flashData := [] } →
        fldGet ((u.setF (sysFlash + 4) MBX_STAT.overrun 1).reg (sysFlash + 4)) MBX_STAT.overrun = 1 ∧ fldGet ((u.setF (sysFlash + 4) MBX_STAT.overrun 1).reg sysFlash) MBX_CTRL.req = 0 ∧ (u.setF (sysFlash + 4) MBX_STAT.overrun 1).boot = { s.boot with flashOp := 0, flashData := [] } := by
      intro u h1 h2 h3
      refine ⟨?_, ?_, h3⟩
      · rw [reg_setF _ _ _ _ h1]
        exact (fldGet_fldSet _ _ _ (by decide)).trans (by decide)
      · rw [reg_setF_ne _ _ _ _ _ (by decide)]
        exact h2
    cases ok
    · exact ⟨_, hx false true h, fin _ cb.2.2.2.1 cb.2.2.1 cb.1⟩
    · exact ⟨_, hx true true h, fin _ ca.2.2.2.1 ca.2.2.1 ca.1⟩

theorem boot_flashFacts (s : State) (i : Fin 3) (arg : BitVec 16) (op : Nat) (ho : op = 1 ∨ op = 2) (hm : s.MayOrder i.val sysFlash) (hc : s.Canonical) :
      let x := if op = 1 then exec (.flashErase i arg) s else exec (.flashProgram i arg) s
      let a := s.dw sysFlash 0; let unit := if op = 1 then 65536 else 32;
      ((a % unit ≠ 0 ∨ flashSize < a + unit) → ∃ t : State, x = .next t ∧ t.Refused sysFlash 1 ∧ t.flash = s.flash ∧ t.boot = s.boot) ∧
      (a % unit = 0 → a + unit ≤ flashSize → s.slotLocked a = true → ∃ t : State, x = .next t ∧ t.Refused sysFlash 2 ∧ t.flash = s.flash ∧ t.boot = s.boot ∧
        fldGet (t.reg (EVT_SRC_STAT.a 61)) EVT_SRC_STAT.pend = 1) ∧
      (a % unit = 0 → a + unit ≤ flashSize → s.slotLocked a = false → arg = 0#16 → ∃ t : State, x = .next t ∧ t.flash = s.flash ∧
        t.boot = { s.boot with flashOp := op, flashAddr := a, flashData := ((List.range 8).map (fun k => leBytes 4 (s.dw sysFlash (k + 1)))).flatten } ∧ fldGet (t.reg sysFlash) MBX_CTRL.req = 1) ∧
      (a % unit = 0 → a + unit ≤ flashSize → s.slotLocked a = false → arg ≠ 0#16 → ∃ t : State, x = .next t ∧ t.Refused sysFlash 15 ∧ t.flash = s.flash ∧ t.boot = s.boot) := by
  dsimp only
  have hx : (if op = 1 then exec (.flashErase i arg) s else exec (.flashProgram i arg) s) = .next ((s.ordered i.val sysFlash op arg.toNat).flashReq op arg.toNat) := by
    rcases ho with rfl | rfl
    · rw [if_pos rfl]
      refine (next_live s _ hm.may.powered).trans ?_
      rw [State.request_sysFlash s i.val 1 arg.toNat hm (by decide) arg.isLt]
    · rw [if_neg (by decide)]
      refine (next_live s _ hm.may.powered).trans ?_
      rw [State.request_sysFlash s i.val 2 arg.toNat hm (by decide) arg.isLt]
  rw [hx]
  clear hx
  have hcan := State.ordered_canon s i.val sysFlash op arg.toNat hc
  have hd : ∀ j, j < 9 → (s.ordered i.val sysFlash op arg.toNat).dw sysFlash j = s.dw sysFlash j := by
    intro j hj; unfold State.dw
    rw [State.reg_ordered_ne _ _ _ _ _ _ (by unfold mbxData; omega) (by unfold mbxData EVT_SRC_STAT.a sysFlash; omega)]
  have hreq : fldGet ((s.ordered i.val sysFlash op arg.toNat).reg sysFlash) MBX_CTRL.req = 1 := by
    unfold State.ordered
    rw [State.reg_audit_ne _ _ _ _ _ _ _ _ (by decide), State.reg_setReg _ _ _ hc.regs]
    unfold reqWord
    exact (fldGet_fldSet _ _ _ (by decide)).trans (by decide)
  have hsame : (s.ordered i.val sysFlash op arg.toNat).flash = s.flash ∧ (s.ordered i.val sysFlash op arg.toNat).boot = s.boot ∧ (s.ordered i.val sysFlash op arg.toNat).slotLocked (s.dw sysFlash 0) = s.slotLocked (s.dw sysFlash 0) := by
    obtain ⟨a, b, c, d, pb, h⟩ := State.ordered_same s i.val sysFlash op arg.toNat
    rw [h]
    exact ⟨rfl, rfl, rfl⟩
  generalize s.ordered i.val sysFlash op arg.toNat = o at *
  obtain ⟨e1, e2, e3⟩ := hsame
  unfold State.flashReq
  dsimp only
  have hl : (List.range 8).map (fun k => leBytes 4 (o.dw sysFlash (k + 1))) = (List.range 8).map (fun k => leBytes 4 (s.dw sysFlash (k + 1))) :=
    List.map_congr_left (fun k hk => by rw [hd (k + 1) (by have := List.mem_range.mp hk; omega)])
  rw [hl, hd 0 (by decide), e3]
  have hknown : (op == 1 || op == 2) = true := by rcases ho with rfl | rfl <;> rfl
  rw [hknown]
  simp only [Bool.true_and, Bool.not_true, Bool.false_or]
  have hfail : ∀ c, c < 16 → ((o.mbxDone sysFlash 9).mbxFail sysFlash c).Refused sysFlash c ∧ ((o.mbxDone sysFlash 9).mbxFail sysFlash c).flash = s.flash ∧ ((o.mbxDone sysFlash 9).mbxFail sysFlash c).boot = s.boot := by
    intro c hcn
    refine ⟨State.refused_of o _ _ _ hcan hcn, ?_, ?_⟩
    · rw [State.refused_same]; exact e1
    · rw [State.refused_same]; exact e2
  refine ⟨fun h => ?_, fun h1 h2 h3 => ?_, fun h1 h2 h3 h4 => ?_, fun h1 h2 h3 h4 => ?_⟩
  · have e : (s.dw sysFlash 0 % (if op = 1 then 65536 else 32) != 0 || decide (flashSize < s.dw sysFlash 0 + (if op = 1 then 65536 else 32))) = true := by
      simp only [Bool.or_eq_true, bne_iff_ne, decide_eq_true_eq]; exact h
    rw [e]
    have e' : lowestErr [(true, 1), (s.slotLocked (s.dw sysFlash 0), 2), (arg.toNat != 0, 15)] = some 1 := by
      cases s.slotLocked (s.dw sysFlash 0) <;> cases (arg.toNat != 0) <;> rfl
    rw [e']
    obtain ⟨a1, a2, a3⟩ := hfail 1 (by decide)
    exact ⟨_, rfl, a1, a2, a3⟩
  · have e : (s.dw sysFlash 0 % (if op = 1 then 65536 else 32) != 0 || decide (flashSize < s.dw sysFlash 0 + (if op = 1 then 65536 else 32))) = false := by
      simp only [Bool.or_eq_false_iff, bne_eq_false_iff_eq, decide_eq_false_iff_not]; exact ⟨h1, by omega⟩
    rw [e, h3]
    have e' : lowestErr [(false, 1), (true, 2), (arg.toNat != 0, 15)] = some 2 := by
      cases (arg.toNat != 0) <;> rfl
    rw [e']
    have kr : o.Keeps (o.raise 61 12 (s.dw sysFlash 0 / 2 ^ 20)) := State.raise_keeps (State.Keeps.refl o) _ _ _
    have pr := pend_raise o 61 12 (s.dw sysFlash 0 / 2 ^ 20) hcan
    have f1 : (o.raise 61 12 (s.dw sysFlash 0 / 2 ^ 20)).flash = s.flash := (State.raise_flash _ _ _ _).trans e1
    have f2 : (o.raise 61 12 (s.dw sysFlash 0 / 2 ^ 20)).boot = s.boot := (State.raise_boot _ _ _ _).trans e2
    generalize o.raise 61 12 (s.dw sysFlash 0 / 2 ^ 20) = r at *
    refine ⟨(r.mbxDone sysFlash 9).mbxFail sysFlash 2, rfl, State.refused_of r _ _ _ (kr.canon hcan) (by decide), ?_, ?_, ?_⟩
    · rw [State.refused_same]; exact f1
    · rw [State.refused_same]; exact f2
    · unfold State.mbxFail
      rw [State.reg_setFs_ne _ _ _ _ (by decide), State.reg_mbxDone_ne _ _ _ _ (by decide) (fun j hj => by unfold mbxData EVT_SRC_STAT.a sysFlash; omega)]
      exact pr
  · have e : (s.dw sysFlash 0 % (if op = 1 then 65536 else 32) != 0 || decide (flashSize < s.dw sysFlash 0 + (if op = 1 then 65536 else 32))) = false := by
      simp only [Bool.or_eq_false_iff, bne_eq_false_iff_eq, decide_eq_false_iff_not]; exact ⟨h1, by omega⟩
    rw [e, h3, h4]
    refine ⟨_, rfl, e1, ?_, hreq⟩
    show ({ o.boot with flashOp := op, flashAddr := _, flashData := _ } : BootSt) = _
    rw [e2]
  · have e : (s.dw sysFlash 0 % (if op = 1 then 65536 else 32) != 0 || decide (flashSize < s.dw sysFlash 0 + (if op = 1 then 65536 else 32))) = false := by
      simp only [Bool.or_eq_false_iff, bne_eq_false_iff_eq, decide_eq_false_iff_not]; exact ⟨h1, by omega⟩
    have e4 : (arg.toNat != 0) = true := by
      simp only [bne_iff_ne]; intro h; exact h4 (BitVec.eq_of_toNat_eq h)
    rw [e, h3, e4]
    obtain ⟨a1, a2, a3⟩ := hfail 15 (by decide)
    exact ⟨_, rfl, a1, a2, a3⟩

end Sys2Proof.Machine
end

