-- ==== Sys2Proof/Laws/BusRows.lean ====
section
/-! SUPPORT. Lemmas about the CAN and LIN controllers. -/

namespace Sys2Proof.Machine

theorem bus_bufCmd (s : State) (i : Fin 3) (c : Fin 24) (b : Fin 64) (op : Nat) (ho : op < 4) (hc : s.Canonical) (hm : s.May i.val (CAN_BUF_CMD.a c.val)) :
    (Host.Outcome.next (s.live (s.poke i.val (CAN_BUF_CMD.a c.val) (fldSet (fldSet 0#32 CAN_BUF_CMD.op op) CAN_BUF_CMD.buf b.val))) : Host.Outcome State Fault Refusal) = .next (s.canBufCmd c.val op b.val) := by
  have hb := b.isLt
  rw [State.live_of _ _ hm.powered, State.poke_CAN_BUF_CMD _ _ _ _ hc hm, fldGet_fldSet _ _ _ (by decide), fldGet_fldSet_ne _ _ _ _ (by decide) (by decide), fldGet_fldSet _ _ _ (by decide)]
  have e1 : op % 2 ^ (CAN_BUF_CMD.op.hi + 1 - CAN_BUF_CMD.op.lo) = op := Nat.mod_eq_of_lt ho
  have e2 : b.val % 2 ^ (CAN_BUF_CMD.buf.hi + 1 - CAN_BUF_CMD.buf.lo) = b.val := Nat.mod_eq_of_lt hb
  rw [e1, e2]

theorem bus_restartPoke (s : State) (i : Fin 3) (c : Fin 24) (hc : s.Canonical) (hm : s.May i.val (CAN_CTRL.a c.val)) : exec (.canRestart i c) s = .next (s.canRestart c.val) := by
  show Host.Outcome.next (s.live (s.poke i.val (CAN_CTRL.a c.val) (fldMask CAN_CTRL.restart))) = _
  rw [State.live_of _ _ hm.powered, State.poke_CAN_CTRL _ _ _ _ hc hm, if_pos (by decide)]

theorem bus_recover_facts (s : State) (c : Fin 24) (hc : s.Canonical) : let t := s.canRecover c.val
    fldGet (t.reg (CAN_STAT.a c.val)) CAN_STAT.state = 0 ∧ fldGet (t.reg (CAN_STAT.a c.val)) CAN_STAT.tec = 0 ∧ fldGet (t.reg (CAN_STAT.a c.val)) CAN_STAT.rec = 0 := by
  dsimp only
  unfold State.canRecover
  rw [reg_setF_ne _ _ _ _ _ (by unfold CAN_STAT.a CAN_CTRL.a; omega), reg_setFs _ _ _ (by exact hc.regs)]
  simp only [List.foldl]
  refine ⟨?_, ?_, ?_⟩
  · exact (fldGet_fldSet _ _ _ (by decide)).trans (by decide)
  · rw [fldGet_fldSet_ne _ _ _ _ (by decide) (by decide), fldGet_fldSet_ne _ _ _ _ (by decide) (by decide)]; exact (fldGet_fldSet _ _ _ (by decide)).trans (by decide)
  · rw [fldGet_fldSet_ne _ _ _ _ (by decide) (by decide)]; exact (fldGet_fldSet _ _ _ (by decide)).trans (by decide)

def busRowCan : RegRow := { base := 27262976, s1 := 256, n1 := 24, reset := 0x02040000#32, rw := 0xff07ff00#32, par := 0xff07ff00#32, cut := 0xff090101#32 }

theorem bus_canWrite (s : State) (i : Nat) (n : Fin 24) (v : Word) (hc : s.Canonical) (hm : s.May i (CAN_CFG.a n.val)) :
    s.poke i (CAN_CFG.a n.val) v = (s.committed busRowCan i (CAN_CFG.a n.val) v).canCfgChanged n.val (s.hw (CAN_CFG.a n.val)) := by
  rw [State.poke_commit s i _ v busRowCan hc hm (kindOf_CAN_CFG n) (by clear hm; revert n; decide) (by decide) (by decide) (by rw [State.rwMask_plain _ _ _ (by decide)]; decide)]
  unfold State.regEffect
  have hb : blockOf (CAN_CFG.a n.val) = 11 := by clear hm; revert n; decide
  have hi : (foldPipe (CAN_CFG.a n.val) - 27262976) / 256 = n.val := by clear hm hb; revert n; decide
  have hi' : (foldPipe (CAN_CFG.a n.val) - busRowCan.base) / busRowCan.s1 = n.val := hi
  simp only [hb, hi']
  rfl

theorem bus_audOnly_can {s t : State} (h : s.AudOnly t) : t.can = s.can := by rw [h.same]

theorem bus_raise_can (s : State) (n c i : Nat) : (s.raise n c i).can = s.can := by rw [State.raise_same]

theorem bus_raiseIf_can (s : State) (b : Bool) (n c i : Nat) : (s.raiseIf b n c i).can = s.can := by unfold State.raiseIf; split; exact bus_raise_can _ _ _ _; rfl

theorem bus_canSt_setCan (s : State) (c : Nat) (x : CanSt) (hc : s.Canonical) : (s.setCan c x).canSt c = x := Cells.get_set hc.can _ _

theorem bus_cfg_aux (c : Fin 24) (x : CanSt) (u : State) (hu : u.Canonical) : let t := ((u.setCan c.val { x with tx := none }).setF (CAN_STAT.a c.val) CAN_STAT.state 3).raiseIf x.tx.isSome (canSrc c.val) 5 c.val
    fldGet (t.reg (CAN_STAT.a c.val)) CAN_STAT.state = 3 ∧ (t.canSt c.val).tx = none ∧ (t.canSt c.val).gwq = x.gwq ∧ (x.tx.isSome = true → fldGet (t.reg (EVT_SRC_STAT.a (canSrc c.val))) EVT_SRC_STAT.pend = 1) := by
  dsimp only
  have hc1 : (u.setCan c.val { x with tx := none }).Canonical := (State.setCan_keeps (State.Keeps.refl u) _ _).canon hu
  have hcs := bus_canSt_setCan u c.val { x with tx := none } hu
  generalize u.setCan c.val { x with tx := none } = w at *
  have hc2 : (w.setF (CAN_STAT.a c.val) CAN_STAT.state 3).Canonical := (State.setF_keeps (State.Keeps.refl w) _ _ _).canon hc1
  have hsrc : CAN_STAT.a c.val ≠ EVT_SRC_STAT.a (canSrc c.val) := by clear * -; revert c; decide
  have hr : fldGet ((w.setF (CAN_STAT.a c.val) CAN_STAT.state 3).reg (CAN_STAT.a c.val)) CAN_STAT.state = 3 := by
    rw [reg_setF _ _ _ _ hc1.regs]
    exact (fldGet_fldSet _ _ _ (by decide)).trans (by decide)
  have hcs2 : (w.setF (CAN_STAT.a c.val) CAN_STAT.state 3).canSt c.val = { x with tx := none } := hcs
  generalize w.setF (CAN_STAT.a c.val) CAN_STAT.state 3 = v at *
  have hcn : ((v.raiseIf x.tx.isSome (canSrc c.val) 5 c.val)).canSt c.val = { x with tx := none } := by
    unfold State.canSt at hcs2 ⊢
    rw [bus_raiseIf_can]; exact hcs2
  refine ⟨?_, ?_, ?_, fun h => ?_⟩
  · unfold State.raiseIf
    split
    · rw [State.reg_raise_ne _ _ _ _ _ hsrc]; exact hr
    · exact hr
  · rw [hcn]
  · rw [hcn]
  · unfold State.raiseIf
    rw [if_pos h, State.reg_raise _ _ _ _ hc2]
    simp only [List.foldl]
    exact (fldGet_fldSet _ _ _ (by decide)).trans (by decide)

theorem bus_quiet_same (s : State) (c : Fin 24) (x : CanSt) : ((s.canCount c.val 5).setCan c.val x).canQuiet c.val = s.canQuiet c.val := by
  have h : ∀ a, a ≠ CAN_CNT.a c.val 5 → ((s.canCount c.val 5).setCan c.val x).reg a = s.reg a := fun a ha => reg_setF_ne _ _ _ _ _ ha
  have hh : ∀ a, a ≠ CAN_CNT.a c.val 5 → ((s.canCount c.val 5).setCan c.val x).hw a = s.hw a := by
    intro a ha; unfold State.hw; rw [h a ha]; rfl
  unfold State.canQuiet State.busMuted State.on State.f
  rw [hh _ (by unfold CAN_CFG.a CAN_CNT.a; omega), h _ (by unfold PAIR_STAT.a CAN_CNT.a; omega), hh _ (by unfold PAIR_BUS.a CAN_CNT.a; omega)]

end Sys2Proof.Machine
end

