-- ==== Sys2Proof/Laws/CarrRows.lean ====
section
/-! SUPPORT. Lemmas about the vote over Carr. -/

namespace Sys2Proof.Machine

theorem carr_pos_lt (s : State) (p : Nat) : s.posCore p < 4 := by
  unfold State.posCore
  split
  · exact fldGet_lt _ CPX_STAT.pos0
  · split
    · exact fldGet_lt _ CPX_STAT.pos1
    · exact fldGet_lt _ CPX_STAT.pos2

theorem carr_mm_reg (s : State) (k core src addr r : Nat) (h1 : r ≠ CPX_MM.a) (h2 : r ≠ CPX_MM_ADDR.a) : (s.mmRecord k core src addr).reg r = s.reg r := by
  unfold State.mmRecord
  split
  · rfl
  · rw [State.reg_setReg_ne _ _ _ _ h2, State.reg_setFs_ne _ _ _ _ h1]

theorem carr_mm_canon (s : State) (k core src addr : Nat) (hc : s.Canonical) : (s.mmRecord k core src addr).Canonical :=
  (State.mmRecord_keeps (State.Keeps.refl s) _ _ _ _).canon hc

theorem carr_odd_facts (s : State) (p k src addr : Nat) (hp : p < 3) (hc : s.Canonical) : let u := s.carrOdd p k src addr
    u.cpxState = 2 ∧ fldGet (u.reg CPX_STAT.a) CPX_STAT.odd = s.posCore p ∧ u.posCore 2 = 3 ∧ u.posCore 0 = s.posCore (if p = 0 then 1 else 0) ∧
      u.posCore 1 = s.posCore (if p = 2 then 1 else 2) ∧ fldGet (u.reg (EVT_SRC_STAT.a 50)) EVT_SRC_STAT.pend = 1 := by
  dsimp only
  have hcm := carr_mm_canon s k (s.posCore p) src addr hc
  have hr : ∃ q0 q1, q0 = s.posCore (if p = 0 then 1 else 0) ∧ q1 = s.posCore (if p = 2 then 1 else 2) ∧ (s.carrOdd p k src addr) =
    (State.cpxCount { ((s.mmRecord k (s.posCore p) src addr).setFs CPX_STAT.a [(CPX_STAT.state, 2), (CPX_STAT.odd, s.posCore p), (CPX_STAT.pos0, q0), (CPX_STAT.pos1, q1), (CPX_STAT.pos2, 3)]) with
      carr := { ((s.mmRecord k (s.posCore p) src addr).setFs CPX_STAT.a [(CPX_STAT.state, 2), (CPX_STAT.odd, s.posCore p), (CPX_STAT.pos0, q0), (CPX_STAT.pos1, q1), (CPX_STAT.pos2, 3)]).carr with tested := false, sigs := [0, 0, 0] } } 0).raise 50 1 (s.posCore p) := by
    obtain rfl | rfl | rfl : p = 0 ∨ p = 1 ∨ p = 2 := by omega
    · exact ⟨_, _, rfl, rfl, rfl⟩
    · exact ⟨_, _, rfl, rfl, rfl⟩
    · exact ⟨_, _, rfl, rfl, rfl⟩
  obtain ⟨q0, q1, h0, h1, hr⟩ := hr
  have b0 : q0 < 4 := by rw [h0]; exact carr_pos_lt _ _
  have b1 : q1 < 4 := by rw [h1]; exact carr_pos_lt _ _
  have bp : s.posCore p < 4 := carr_pos_lt _ _
  rw [← h0, ← h1]
  generalize s.posCore p = c at *
  generalize s.mmRecord k c src addr = u at *
  have hreg : (s.carrOdd p k src addr).reg CPX_STAT.a = [(CPX_STAT.state, 2), (CPX_STAT.odd, c), (CPX_STAT.pos0, q0), (CPX_STAT.pos1, q1), (CPX_STAT.pos2, 3)].foldl (fun w e => fldSet w e.1 e.2) (u.reg CPX_STAT.a) := by
    rw [hr, State.reg_raise_ne _ _ _ _ _ (by decide)]
    refine (reg_setF_ne _ _ _ _ _ (by decide)).trans ?_
    exact reg_setFs u _ _ hcm.regs
  have hp5 : fldGet ((s.carrOdd p k src addr).reg (EVT_SRC_STAT.a 50)) EVT_SRC_STAT.pend = 1 := by
    rw [hr, State.reg_raise]
    · simp only [List.foldl]
      exact (fldGet_fldSet _ _ _ (by decide)).trans (by decide)
    · have h2 : (u.setFs CPX_STAT.a [(CPX_STAT.state, 2), (CPX_STAT.odd, c), (CPX_STAT.pos0, q0), (CPX_STAT.pos1, q1), (CPX_STAT.pos2, 3)]).Canonical := (State.setFs_keeps (State.Keeps.refl u) _ _).canon hcm
      generalize u.setFs CPX_STAT.a [(CPX_STAT.state, 2), (CPX_STAT.odd, c), (CPX_STAT.pos0, q0), (CPX_STAT.pos1, q1), (CPX_STAT.pos2, 3)] = v at *
      refine (State.cpxCount_keeps (State.Keeps.refl _) _).canon ?_
      exact { h2 with }
  clear hr
  generalize s.carrOdd p k src addr = t at *
  simp only [List.foldl] at hreg
  refine ⟨?_, ?_, ?_, ?_, ?_, hp5⟩
  · unfold State.cpxState
    rw [hreg, fldGet_fldSet_ne _ _ _ _ (by decide) (by decide), fldGet_fldSet_ne _ _ _ _ (by decide) (by decide), fldGet_fldSet_ne _ _ _ _ (by decide) (by decide), fldGet_fldSet_ne _ _ _ _ (by decide) (by decide)]
    exact (fldGet_fldSet _ _ _ (by decide)).trans (by decide)
  · rw [hreg, fldGet_fldSet_ne _ _ _ _ (by decide) (by decide), fldGet_fldSet_ne _ _ _ _ (by decide) (by decide), fldGet_fldSet_ne _ _ _ _ (by decide) (by decide)]
    exact (fldGet_fldSet _ _ _ (by decide)).trans (Nat.mod_eq_of_lt bp)
  · unfold State.posCore
    rw [if_neg (by decide), if_neg (by decide), hreg]
    exact (fldGet_fldSet _ _ _ (by decide)).trans (by decide)
  · unfold State.posCore
    rw [if_pos rfl, hreg, fldGet_fldSet_ne _ _ _ _ (by decide) (by decide), fldGet_fldSet_ne _ _ _ _ (by decide) (by decide)]
    exact (fldGet_fldSet _ _ _ (by decide)).trans (Nat.mod_eq_of_lt b0)
  · unfold State.posCore
    rw [if_neg (by decide), if_pos rfl, hreg, fldGet_fldSet_ne _ _ _ _ (by decide) (by decide)]
    exact (fldGet_fldSet _ _ _ (by decide)).trans (Nat.mod_eq_of_lt b1)

theorem carr_hold_facts (s : State) (n k : Nat) (hc : s.Canonical) : (s.safeHold n k).cpxState = 4 ∧ (s.safeHold n k).carrRuns = false ∧ fldGet ((s.safeHold n k).reg (EVT_SRC_STAT.a 51)) EVT_SRC_STAT.pend = 1 := by
  have h : (s.safeHold n k).cpxState = 4 := by
    unfold State.safeHold State.cpxState
    rw [State.reg_raise_ne _ _ _ _ _ (by decide), reg_setF _ _ _ _ hc.regs]
    exact (fldGet_fldSet _ _ _ (by decide)).trans (by decide)
  refine ⟨h, ?_, ?_⟩
  · unfold State.carrRuns; rw [h]; rfl
  · unfold State.safeHold
    rw [State.reg_raise _ _ _ _ ((State.setF_keeps (State.Keeps.refl s) _ _ _).canon hc)]
    simp only [List.foldl]
    exact (fldGet_fldSet _ _ _ (by decide)).trans (by decide)

end Sys2Proof.Machine
end

