-- ==== Sys2Proof/Laws/CopyRows.lean ====
section
/-! SUPPORT. Lemmas about copies on their way out. -/

namespace Sys2Proof.Machine

theorem copy_setCopy_mem (s : State) (c x : Copy) (h : c ∈ s.copies) (e : c.id = x.id) : x ∈ (s.setCopy x).copies := by
  show x ∈ s.copies.map _
  exact List.mem_map.2 ⟨c, h, if_pos e⟩

theorem copy_takeCell_copies (s : State) (l : List (Nat × Nat)) (k : Nat) : (s.takeCell l k).2.copies = s.copies := rfl

theorem copy_takeCells_copies (n : Nat) (s : State) (l : List (Nat × Nat)) : (State.takeCells n s l).2.copies = s.copies := by
  induction n generalizing s l with
  | zero => rfl
  | succ n ih => exact (ih _ _).trans rfl

theorem copy_pick_some (k : Nat) (s : State) (n : Nat) (b : Bool) (e : Nat) (c : Copy) (h : s.tryList e (s.selOrder n b) = some (.inl c)) : State.pick (k + 1) s n b e = (some c, s) := by
  unfold State.pick; rw [h]

theorem copy_pick_none (k : Nat) (s : State) (n : Nat) (b : Bool) (e : Nat) (h : s.tryList e (s.selOrder n b) = none) : State.pick (k + 1) s n b e = (none, s) := by
  unfold State.pick; rw [h]

theorem copy_preempt_free (s : State) (n e : Nat) (h : s.sending n = none) : s.preempt n e = s := by
  unfold State.preempt; rw [h]; split <;> rfl

theorem copy_insRel_mem (l : List Copy) (c x : Copy) (h : x ∈ insRel c l) : x = c ∨ x ∈ l := by
  induction l with
  | nil => simpa [insRel] using h
  | cons a r ih =>
    unfold insRel at h; dsimp only at h
    split at h
    · simpa using h
    · rcases List.mem_cons.1 h with h | h
      · exact .inr (List.mem_cons.2 (.inl h))
      · rcases ih h with h | h
        · exact .inl h
        · exact .inr (List.mem_cons.2 (.inr h))

theorem copy_insVf_mem (l : List Copy) (c x : Copy) (h : x ∈ insVf c l) : x = c ∨ x ∈ l := by
  induction l with
  | nil => simpa [insVf] using h
  | cons a r ih =>
    unfold insVf at h; dsimp only at h
    split at h
    · simpa using h
    · rcases List.mem_cons.1 h with h | h
      · exact .inr (List.mem_cons.2 (.inl h))
      · rcases ih h with h | h
        · exact .inl h
        · exact .inr (List.mem_cons.2 (.inr h))

theorem copy_foldIns_mem (f : Copy → List Copy → List Copy) (hf : ∀ l c x, x ∈ f c l → x = c ∨ x ∈ l) (l a : List Copy) (x : Copy)
    (h : x ∈ l.foldl (fun l c => f c l) a) : x ∈ l ∨ x ∈ a := by
  induction l generalizing a with
  | nil => exact .inr h
  | cons b r ih =>
    rcases ih _ h with h | h
    · exact .inl (List.mem_cons.2 (.inr h))
    · rcases hf _ _ _ h with h | h
      · exact .inl (List.mem_cons.2 (.inl h))
      · exact .inr h

theorem copy_headOf_mem (s : State) (n tc : Nat) (c : Copy) (h : s.headOf n tc = some c) : c ∈ s.copies ∧ c.port = n := by
  unfold State.headOf at h
  split at h
  · cases h
  have h1 := find_mem_id h
  refine ⟨h1.1, ?_⟩
  have := h1.2
  simp at this
  tauto

theorem copy_selOrder_mem (s : State) (n : Nat) (b : Bool) (c : Copy) (h : c ∈ s.selOrder n b) : c ∈ s.copies ∧ c.port = n := by
  have hheads : ∀ (p : Copy → Bool) (x : Copy), x ∈ (List.range 8).reverse.filterMap (fun tc => (s.headOf n tc).bind (fun c => if p c then some c else none)) → x ∈ s.copies ∧ x.port = n := by
    intro p x hx
    obtain ⟨tc, _, e⟩ := List.mem_filterMap.1 hx
    obtain ⟨y, hy, e⟩ := Option.bind_eq_some_iff.1 e
    split at e
    · injection e with e; subst e; exact copy_headOf_mem _ _ _ _ hy
    · cases e
  unfold State.selOrder at h
  dsimp only at h
  rcases List.mem_append.1 h with h | h
  · rcases List.mem_append.1 h with h | h
    · rcases List.mem_append.1 h with h | h
      · rcases copy_foldIns_mem insRel copy_insRel_mem _ _ _ h with h | h
        · have := List.mem_filter.1 h
          refine ⟨this.1, ?_⟩
          have h2 := this.2
          simp only [Bool.and_eq_true, beq_iff_eq] at h2
          tauto
        · cases h
      · exact hheads _ _ (List.mem_filter.1 h).1
    · rcases copy_foldIns_mem insVf copy_insVf_mem _ _ _ h with h | h
      · exact hheads _ _ (List.mem_filter.1 h).1
      · cases h
  · split at h
    · rename_i x hx
      split at h
      · rw [List.mem_singleton.1 h]
        split at hx
        · cases hx
        · have := find_mem_id hx
          refine ⟨this.1, ?_⟩
          have h2 := this.2
          simp only [Bool.and_eq_true, beq_iff_eq] at h2
          tauto
      · cases h
    · cases h

theorem copy_tryList_mem (s : State) (e : Nat) (l : List Copy) (c : Copy) (h : s.tryList e l = some (.inl c)) : c ∈ l := by
  induction l with
  | nil => cases h
  | cons a r ih =>
    unfold State.tryList at h
    split at h
    · cases h
    · generalize s.gatePass a.port (if a.mir.isSome = true then 0 else a.tc) (s.lprime a) e = g at h
      cases g
      · exact List.mem_cons.2 (.inr (ih h))
      · rw [if_pos rfl] at h
        split at h
        · injection h with h; injection h with h; subst h; exact List.mem_cons.2 (.inl rfl)
        · cases h

theorem copy_copyGone_gone (s : State) (c : Copy) : ∀ x ∈ (s.copyGone c).copies, x.id ≠ c.id := by
  intro x hx
  rw [State.copyGone_copies] at hx
  simpa using (List.mem_filter.1 hx).2

theorem copy_Fair_gone {u t : State} (h : u.Fair t) (k : Nat) (hk : ∀ x ∈ u.copies, x.id ≠ k) : ∀ x ∈ t.copies, x.id ≠ k := by
  intro x hx e
  have : k ∈ t.copies.map (fun (c : Copy) => c.id) := List.mem_map.2 ⟨x, hx, e⟩
  rw [h.ids] at this
  obtain ⟨y, hy, e2⟩ := List.mem_map.1 this
  exact hk y hy e2

theorem copy_frame_ended (s : State) (id : Nat) (h : (s.frame id).ended = true) : s.frame id ∈ s.frames ∧ (s.frame id).id = id := by
  unfold State.frame at h ⊢
  cases hf : s.frames.find? (fun f => f.id == id) with
  | none => rw [hf] at h; exact absurd h (by simp)
  | some f => exact ⟨List.mem_of_find?_eq_some hf, by simpa using List.find?_some hf⟩

theorem copy_queue_mem (s : State) (n tc : Nat) (c : Copy) (h : c ∈ s.queue n tc) : c ∈ s.copies := (List.mem_filter.1 h).1

theorem copy_spillPick_spec (s : State) (n tc : Nat) (c : Copy) (h : s.spillPick n tc = some c) : c ∈ s.copies ∧ s.canSpill c = true := by
  unfold State.spillPick at h
  dsimp only at h
  split at h
  · rename_i x hx
    injection h with h
    subst h
    have h1 := List.mem_of_find?_eq_some hx
    have h2 := List.find?_some hx
    have h1 : x ∈ (((s.queue n tc).reverse.takeWhile (fun c => !c.peat)).reverse) := by
      split at h1
      · exact h1
      · cases h1
    rw [List.mem_reverse] at h1
    have h3 := (List.takeWhile_sublist _).subset h1
    rw [List.mem_reverse] at h3
    exact ⟨copy_queue_mem _ _ _ _ h3, h2⟩
  · split at h
    · have h1 := List.mem_of_find?_eq_some h
      have h2 := List.find?_some h
      rw [List.mem_reverse] at h1
      exact ⟨copy_queue_mem _ _ _ _ ((List.takeWhile_sublist _).subset (List.mem_of_mem_drop h1)), h2⟩
    · cases h

end Sys2Proof.Machine
end

