-- ==== Sys2Proof/Laws/Encoding.lean ====
section
/-! SUPPORT. The fields of an encoded word, one lemma per format (05 R99, R100). -/

namespace Sys2Proof

theorem toNat_of (n : Nat) (h : n < 2 ^ 32) : (BitVec.ofNat 32 n).toNat = n := by rw [BitVec.toNat_ofNat]; exact Nat.mod_eq_of_lt h

theorem fx_of (n lo k : Nat) (h : n < 2 ^ 32) (x : BitVec k) (hx : n / 2 ^ lo % 2 ^ k = x.toNat) : fx (BitVec.ofNat 32 n) lo k = x := by
  apply BitVec.eq_of_toNat_eq
  unfold fx
  rw [toNat_of n h, BitVec.toNat_ofNat, hx]

theorem fz_of (n lo k : Nat) (h : n < 2 ^ 32) (hx : n / 2 ^ lo % 2 ^ k = 0) : fz (BitVec.ofNat 32 n) lo k = true := by
  unfold fz
  rw [toNat_of n h, hx]; rfl

theorem op_of (n op : Nat) (h : n < 2 ^ 32) (hx : n / 2 ^ 26 = op) : (fx (BitVec.ofNat 32 n) 26 6).toNat = op := by
  unfold fx
  rw [toNat_of n h, BitVec.toNat_ofNat, hx]
  omega

/-- A field that is zero as a value is zero as unused bits. -/
theorem fz_of_fx (w : Word) (lo k : Nat) (h : fx w lo k = 0) : fz w lo k = true := by
  have := congrArg BitVec.toNat h
  unfold fx at this
  rw [BitVec.toNat_ofNat] at this
  unfold fz
  rw [this]
  simp

/-- Unused bits in two neighbouring pieces. -/
theorem fz_join (w : Word) (lo j k : Nat) (h1 : fz w lo j = true) (h2 : fz w (lo + j) k = true) : fz w lo (j + k) = true := by
  unfold fz at *
  simp only [beq_iff_eq] at *
  rw [Nat.pow_add, ← Nat.div_div_eq_div_mul] at h2
  rw [Nat.pow_add, Nat.mod_mul, h1, h2]
  rfl

theorem yR_fields (op : Nat) (d a b : BitVec 4) (h : op < 64) :
    (fx (yR op d a b) 26 6).toNat = op ∧ fx (yR op d a b) 22 4 = d ∧ fx (yR op d a b) 18 4 = a ∧ fx (yR op d a b) 14 4 = b ∧ fz (yR op d a b) 0 14 = true := by
  have h_d := d.isLt
  have h_a := a.isLt
  have h_b := b.isLt
  unfold yR
  have hN : op * 2 ^ 26 + d.toNat * 2 ^ 22 + a.toNat * 2 ^ 18 + b.toNat * 2 ^ 14 < 2 ^ 32 := by omega
  exact ⟨op_of _ _ hN (by omega), fx_of _ _ _ hN _ (by omega), fx_of _ _ _ hN _ (by omega), fx_of _ _ _ hN _ (by omega), fz_of _ _ _ hN (by omega)⟩

theorem yI_fields (op : Nat) (d a : BitVec 4) (imm : BitVec 18) (h : op < 64) :
    (fx (yI op d a imm) 26 6).toNat = op ∧ fx (yI op d a imm) 22 4 = d ∧ fx (yI op d a imm) 18 4 = a ∧ fx (yI op d a imm) 0 18 = imm := by
  have h_d := d.isLt
  have h_a := a.isLt
  have h_imm := imm.isLt
  unfold yI
  have hN : op * 2 ^ 26 + d.toNat * 2 ^ 22 + a.toNat * 2 ^ 18 + imm.toNat < 2 ^ 32 := by omega
  exact ⟨op_of _ _ hN (by omega), fx_of _ _ _ hN _ (by omega), fx_of _ _ _ hN _ (by omega), fx_of _ _ _ hN _ (by omega)⟩

theorem yU_fields (op : Nat) (d : BitVec 4) (imm : BitVec 16) (h : op < 64) :
    (fx (yU op d imm) 26 6).toNat = op ∧ fx (yU op d imm) 22 4 = d ∧ fx (yU op d imm) 0 16 = imm ∧ fz (yU op d imm) 16 6 = true := by
  have h_d := d.isLt
  have h_imm := imm.isLt
  unfold yU
  have hN : op * 2 ^ 26 + d.toNat * 2 ^ 22 + imm.toNat < 2 ^ 32 := by omega
  exact ⟨op_of _ _ hN (by omega), fx_of _ _ _ hN _ (by omega), fx_of _ _ _ hN _ (by omega), fz_of _ _ _ hN (by omega)⟩

theorem yJ_fields (op : Nat) (d : BitVec 4) (off : BitVec 22) (h : op < 64) :
    (fx (yJ op d off) 26 6).toNat = op ∧ fx (yJ op d off) 22 4 = d ∧ fx (yJ op d off) 0 22 = off := by
  have h_d := d.isLt
  have h_off := off.isLt
  unfold yJ
  have hN : op * 2 ^ 26 + d.toNat * 2 ^ 22 + off.toNat < 2 ^ 32 := by omega
  exact ⟨op_of _ _ hN (by omega), fx_of _ _ _ hN _ (by omega), fx_of _ _ _ hN _ (by omega)⟩

theorem yT_fields (op : Nat) (tx ty : BitVec 2) (g : BitVec 4) (sel : BitVec 2) (h : op < 64) :
    (fx (yT op tx ty g sel) 26 6).toNat = op ∧ fx (yT op tx ty g sel) 24 2 = tx ∧ fx (yT op tx ty g sel) 22 2 = ty ∧ fx (yT op tx ty g sel) 18 4 = g ∧ fx (yT op tx ty g sel) 14 2 = sel ∧ fz (yT op tx ty g sel) 16 2 = true ∧ fz (yT op tx ty g sel) 0 14 = true := by
  have h_tx := tx.isLt
  have h_ty := ty.isLt
  have h_g := g.isLt
  have h_sel := sel.isLt
  unfold yT
  have hN : op * 2 ^ 26 + tx.toNat * 2 ^ 24 + ty.toNat * 2 ^ 22 + g.toNat * 2 ^ 18 + sel.toNat * 2 ^ 14 < 2 ^ 32 := by omega
  exact ⟨op_of _ _ hN (by omega), fx_of _ _ _ hN _ (by omega), fx_of _ _ _ hN _ (by omega), fx_of _ _ _ hN _ (by omega), fx_of _ _ _ hN _ (by omega), fz_of _ _ _ hN (by omega), fz_of _ _ _ hN (by omega)⟩

theorem yV_fields (op : Nat) (tx : BitVec 2) (a : BitVec 4) (imm : BitVec 18) (h : op < 64) :
    (fx (yV op tx a imm) 26 6).toNat = op ∧ fx (yV op tx a imm) 24 2 = tx ∧ fx (yV op tx a imm) 18 4 = a ∧ fx (yV op tx a imm) 0 18 = imm ∧ fz (yV op tx a imm) 22 2 = true := by
  have h_tx := tx.isLt
  have h_a := a.isLt
  have h_imm := imm.isLt
  unfold yV
  have hN : op * 2 ^ 26 + tx.toNat * 2 ^ 24 + a.toNat * 2 ^ 18 + imm.toNat < 2 ^ 32 := by omega
  exact ⟨op_of _ _ hN (by omega), fx_of _ _ _ hN _ (by omega), fx_of _ _ _ hN _ (by omega), fx_of _ _ _ hN _ (by omega), fz_of _ _ _ hN (by omega)⟩

theorem yW_fields (op : Nat) (p q r t : BitVec 2) (off : BitVec 18) (h : op < 64) :
    (fx (yW op p q r t off) 26 6).toNat = op ∧ fx (yW op p q r t off) 24 2 = p ∧ fx (yW op p q r t off) 22 2 = q ∧ fx (yW op p q r t off) 20 2 = r ∧ fx (yW op p q r t off) 18 2 = t ∧ fx (yW op p q r t off) 0 18 = off := by
  have h_p := p.isLt
  have h_q := q.isLt
  have h_r := r.isLt
  have h_t := t.isLt
  have h_off := off.isLt
  unfold yW
  have hN : op * 2 ^ 26 + p.toNat * 2 ^ 24 + q.toNat * 2 ^ 22 + r.toNat * 2 ^ 20 + t.toNat * 2 ^ 18 + off.toNat < 2 ^ 32 := by omega
  exact ⟨op_of _ _ hN (by omega), fx_of _ _ _ hN _ (by omega), fx_of _ _ _ hN _ (by omega), fx_of _ _ _ hN _ (by omega), fx_of _ _ _ hN _ (by omega), fx_of _ _ _ hN _ (by omega)⟩

theorem yA_fields (op : Nat) (ax ay : BitVec 2) (g : BitVec 4) (pd dir : BitVec 2) (h : op < 64) :
    (fx (yA op ax ay g pd dir) 26 6).toNat = op ∧ fx (yA op ax ay g pd dir) 24 2 = ax ∧ fx (yA op ax ay g pd dir) 22 2 = ay ∧ fx (yA op ax ay g pd dir) 18 4 = g ∧ fx (yA op ax ay g pd dir) 16 2 = pd ∧ fx (yA op ax ay g pd dir) 14 2 = dir ∧ fz (yA op ax ay g pd dir) 0 14 = true := by
  have h_ax := ax.isLt
  have h_ay := ay.isLt
  have h_g := g.isLt
  have h_pd := pd.isLt
  have h_dir := dir.isLt
  unfold yA
  have hN : op * 2 ^ 26 + ax.toNat * 2 ^ 24 + ay.toNat * 2 ^ 22 + g.toNat * 2 ^ 18 + pd.toNat * 2 ^ 16 + dir.toNat * 2 ^ 14 < 2 ^ 32 := by omega
  exact ⟨op_of _ _ hN (by omega), fx_of _ _ _ hN _ (by omega), fx_of _ _ _ hN _ (by omega), fx_of _ _ _ hN _ (by omega), fx_of _ _ _ hN _ (by omega), fx_of _ _ _ hN _ (by omega), fz_of _ _ _ hN (by omega)⟩

end Sys2Proof
end

