-- ==== Sys2Proof/Laws/FrameRows.lean ====
section
/-! SUPPORT. Lemmas about frames on their way in. -/

namespace Sys2Proof.Machine

theorem frame_frame_self (s : State) (f : Frame) (h : s.Numbered) (hf : f ∈ s.frames) : s.frame f.id = f := by
  unfold State.frame
  cases hx : s.frames.find? (fun x => x.id == f.id) with
  | none =>
    have := List.find?_eq_none.1 hx f hf
    simp at this
  | some x =>
    exact List.inj_on_of_nodup_map h.2.2.1 (List.mem_of_find?_eq_some hx) hf (by simpa using List.find?_some hx)

theorem frame_setFrame_mem (s : State) (f g : Frame) (hg : g ∈ s.frames) (e : g.id = f.id) : f ∈ (s.setFrame f).frames :=
  List.mem_map.2 ⟨g, hg, if_pos e⟩

theorem frame_frameDrop_frames (s : State) (f : Frame) (hf : f ∈ s.frames) (he : f.ended = true) (hv : f.verd ≠ 1) (hn : s.Numbered) : ∀ x ∈ (s.frameDrop f.id).frames, x.id ≠ f.id := by
  unfold State.frameDrop
  dsimp only
  have hs := frame_frame_self s f hn hf
  rw [hs]
  generalize hu : ({ s with copies := s.copies.filter (fun c => c.fid != f.id) } : State).freeCells f.banks = u
  have h1 := State.peatFree_same u f
  generalize u.peatFree f = v at h1 ⊢
  have hv2 : v = { s with copies := s.copies.filter (fun c => c.fid != f.id), regs := v.regs, peatFull := v.peatFull, bankUse := v.bankUse } := by
    rw [h1, ← hu]; rfl
  let g : Frame := { f with hold := [], pool := 0, resv := [], banks := [], peatBlk := [], spilled := false, act := { f.act with drop := true } }
  show ∀ x ∈ ((v.setFrame g).poolNote.reap f.id).frames, x.id ≠ f.id
  have hn2 : v.Numbered := by rw [hv2]; exact State.copies_filter_numbered s _ hn
  have hfr : (v.setFrame g).frame f.id = g := State.frame_setFrame v g f hn2 (by rw [hv2]; exact hf) rfl
  have hcp : (v.setFrame g).copiesOf f.id = [] := by
    show v.copies.filter _ = []
    rw [hv2]
    show (s.copies.filter _).filter _ = []
    rw [List.filter_filter]
    apply List.filter_eq_nil_iff.2
    intro a _
    simp
  generalize v.setFrame g = y at hfr hcp ⊢
  have hfr2 : y.poolNote.frame f.id = g := by rw [State.poolNote_same]; exact hfr
  have hcp2 : y.poolNote.copiesOf f.id = [] := by rw [State.poolNote_same]; exact hcp
  unfold State.reap
  dsimp only
  rw [hfr2, hcp2]
  have hc : (g.ended && g.verd != 1 && ([] : List Copy).isEmpty) = true := by
    show (f.ended && f.verd != 1 && true) = true
    simp [he, hv]
  rw [if_pos hc]
  intro x hx
  rw [State.poolNote_same, State.peatFree_same] at hx
  have := (List.mem_filter.1 hx).2
  simpa using this

theorem frame_rxPtp_same (s : State) (f : Frame) (r : ParseRes) : ∃ a b c d pb, s.rxPtp f r = { s with tim := a, regs := b, evt := c, out := d, pcie := { s.pcie with pba := pb } } := by
  unfold State.rxPtp
  split
  · split
    · unfold State.pushRxts
      split
      · exact ⟨_, _, _, _, _, rfl⟩
      · exact ⟨_, _, _, _, _, State.raise_same _ _ _ _⟩
    · exact ⟨_, _, _, _, _, rfl⟩
  · exact ⟨_, _, _, _, _, rfl⟩

theorem frame_headIn_spec (v : State) (f : Frame) (hn : v.Numbered) (hf : ∃ g ∈ v.frames, g.id = f.id) :
    (v.headIn f).frame f.id = { f with head := some (v.parse f.pipe f.inPort (v.frameMax f.inPort) f.data), tagged := decide (0 < (v.parse f.pipe f.inPort (v.frameMax f.inPort) f.data).tags), hb := v.isHeartbeat f.port (v.parse f.pipe f.inPort (v.frameMax f.inPort) f.data).ety f.data } ∧
    (v.headIn f).ports = v.ports ∧ (v.headIn f).copies = v.copies := by
  unfold State.headIn
  dsimp only
  generalize v.parse f.pipe f.inPort (v.frameMax f.inPort) f.data = r
  obtain ⟨g, hg, e⟩ := hf
  have h1 := State.frame_setFrame v { f with head := some r, tagged := decide (0 < r.tags), hb := v.isHeartbeat f.port r.ety f.data } g hn hg e
  generalize hq : v.setFrame { f with head := some r, tagged := decide (0 < r.tags), hb := v.isHeartbeat f.port r.ety f.data } = u at h1 ⊢
  have hp : u.ports = v.ports := by rw [← hq]; rfl
  have hc : u.copies = v.copies := by rw [← hq]; rfl
  obtain ⟨a, b, c, d, pb, h⟩ := frame_rxPtp_same u { f with head := some r, tagged := decide (0 < r.tags), hb := v.isHeartbeat f.port r.ety f.data } r
  rw [h]
  exact ⟨h1, hp, hc⟩

theorem frame_rxOf_some (s : State) (n : Nat) (f : Frame) (h : s.rxOf n = some f) : ∃ k, (s.port n).rx = some k ∧ s.frame k = f := by
  unfold State.rxOf at h
  cases e : (s.port n).rx with
  | none => rw [e] at h; cases h
  | some k => rw [e] at h; injection h with h; exact ⟨k, rfl, h⟩

theorem frame_ite_none {α β : Type} {c : Prop} [Decidable c] {a b : α × Option β} (h1 : a.2 = none) (h2 : b.2 = none) : (if c then a else b).2 = none := by
  split
  · exact h1
  · exact h2

theorem frame_frameEnd_none (s : State) (f : Frame) (h : f.hb = false) : (s.frameEnd f).2 = none := by
  unfold State.frameEnd
  extract_lets id m s1 e smp s2 s3 s4 g s5 s6
  rw [if_neg (by rw [h]; decide)]
  repeat' (first | exact rfl | apply frame_ite_none)

theorem frame_frameDrop_ports (s : State) (id : Nat) : (s.frameDrop id).ports = s.ports := by
  rw [State.frameDrop_same]

theorem frame_macCount_same (s : State) (f : Frame) : ∃ a b c d pb, (s.macCount f).2 = { s with mib := a, regs := b, evt := c, out := d, pcie := { s.pcie with pba := pb } } := by
  unfold State.macCount
  dsimp only
  split
  · rw [State.raise_same]; exact ⟨_, _, _, _, _, rfl⟩
  · split
    · rw [State.raise_same]; exact ⟨_, _, _, _, _, rfl⟩
    · dsimp only
      split
      · exact ⟨_, _, _, _, _, rfl⟩
      · split
        · exact ⟨_, _, _, _, _, rfl⟩
        · exact ⟨_, _, _, _, _, rfl⟩

theorem frame_endCode_same (s : State) (f : Frame) : (s.endCode f).2 = { s with regs := (s.endCode f).2.regs, evt := (s.endCode f).2.evt, out := (s.endCode f).2.out, pcie := { s.pcie with pba := (s.endCode f).2.pcie.pba } } := by
  unfold State.endCode
  split
  · rfl
  · dsimp only
    split
    · exact State.raise_same _ _ _ _
    · split
      · exact State.raise_same _ _ _ _
      · rfl

end Sys2Proof.Machine
end

