-- ==== Sys2Proof/Laws/JtagRows.lean ====
section
/-! SUPPORT. Lemmas about the test access port and the monitors. -/

namespace Sys2Proof.Machine

theorem jtag_pinsLow (s : State) : s.pinsLow.jtag = s.jtag := by
  have hf : ∀ {α : Type} (l : List α) (f : State → α → State) (u : State), (∀ (u : State) x, (f u x).jtag = u.jtag) → (l.foldl f u).jtag = u.jtag := by
    intro α l f u h
    induction l generalizing u with
    | nil => rfl
    | cons x r ih => exact (ih _).trans (h _ _)
  unfold State.pinsLow
  extract_lets s1 s2
  have h1 : s1.jtag = s.jtag := hf _ _ _ (fun u x => by split <;> rfl)
  have h2 : s2.jtag = s1.jtag := hf _ _ _ (fun u x => by split <;> rfl)
  split
  · exact h2.trans h1
  · exact h2.trans h1

theorem jtag_devScope_jtag (s : State) : (s.devScope 1 false).jtag = s.jtag := by
  have h1 : s.flashBroken.endSessions.jtag = s.jtag := by
    have hb : s.flashBroken.jtag = s.jtag := by
      have : ∀ (n : Nat) (u : State) (a : Nat), (u.flashScramble a n).jtag = u.jtag := by
        intro n
        induction n with
        | zero => intro u a; rfl
        | succ n ih => intro u a; unfold State.flashScramble; dsimp only; rw [ih]; rfl
      unfold State.flashBroken
      split
      · rfl
      · exact this _ _ _
    generalize s.flashBroken = w at *
    unfold State.endSessions
    simp only [List.foldl]
    have hr : ∀ (x : State) (i r : Nat), (x.setRole i r).jtag = x.jtag := fun x i r => by
      obtain ⟨a, b, c, d, e, pb, h⟩ := setRole_same x i r
      rw [h]
    rw [hr, hr, hr, hb]
  unfold State.devScope
  extract_lets D
  show D.jtag = _
  exact (jtag_pinsLow _).trans h1

theorem jtag_devReset_jtag (s : State) : (s.devReset 1 false).jtag = s.jtag := by
  have h3 : s.carrForget.jtag = s.jtag := by
    unfold State.carrForget
    split
    · split <;> rfl
    · rfl
  have hs : ∀ (u : State) (v : Nat), (u.setInh v).jtag = u.jtag := by
    intro u v; unfold State.setInh; dsimp only; split <;> split <;> rfl
  unfold State.devReset
  dsimp only
  have hg : ∀ (w : State) (a b : Nat) (l : List (Fld × Nat)) (f : Fld) (v k : Nat), (((w.setFs a l).setF b f v).rstCause k).jtag = w.jtag := fun _ _ _ _ _ _ _ => rfl
  rw [hs, if_neg (by decide), hg, jtag_devScope_jtag, h3]

theorem jtag_allows_iff (code st r : Nat) : jtagAllows code st r = true ↔ (if code ∈ [0, 4, 5, 8, 9] then st ≠ 2 ∨ r = 2 else if code ∈ [17, 24, 25] then st ≠ 2 ∧ r = 3 else if code = 32 then (st = 0 ∨ st = 3) ∧ r = 3 else if code ∈ [33, 34] then st = 0 ∧ r = 3 else True) := by
  unfold jtagAllows
  have e1 : code ∈ [0, 4, 5, 8, 9] ↔ (code = 0 ∨ code = 4 ∨ code = 5 ∨ code = 8 ∨ code = 9) := by simp
  have e2 : code ∈ [17, 24, 25] ↔ (code = 17 ∨ code = 24 ∨ code = 25) := by simp
  have e3 : code ∈ [33, 34] ↔ (code = 33 ∨ code = 34) := by simp
  rw [if_congr e1 rfl rfl, if_congr e2 rfl rfl, if_congr e3 rfl rfl]
  split
  · simp
  · split
    · simp
    · split
      · simp
      · split
        · simp
        · simp

theorem jtag_holds_iff (code : Nat) : jtagHolds code = true ↔ code ∈ [0, 4, 5, 8, 9, 24, 25, 32, 33] := by
  unfold jtagHolds; simp

theorem jtag_run_ok (s : State) (code : Nat) (f : State → State) (hf : s.inFen = false) (h : (s.jtagLoad code).jtag.ir = code) : s.jtagRun code f = f (s.jtagLoad code) := by
  unfold State.jtagRun; rw [hf]; dsimp only; rw [if_neg (by decide), if_pos h]

theorem jtag_run_no (s : State) (code : Nat) (f : State → State) (hf : s.inFen = false) (h : (s.jtagLoad code).jtag.ir ≠ code) : s.jtagRun code f = (s.jtagLoad code).emit (.tdo 0) := by
  unfold State.jtagRun; rw [hf]; dsimp only; rw [if_neg (by decide), if_neg h]

theorem jtag_no_row (s : State) (code : Nat) (i : Instr) (f : State → State) (hx : exec i s = .next (s.jtagRun code f)) (hf : s.inFen = false) (hn : (s.jtagLoad code).jtag.ir ≠ code) :
    exec i s = .next { s.jtagLoad code with out := .tdo 0 :: (s.jtagLoad code).out } := by
  rw [hx, jtag_run_no s code f hf hn]
  rfl

theorem jtag_load_open (s : State) (code : Nat) (h : code = 1 ∨ code = 2 ∨ code = 63 ∨ code = 16) : (s.jtagLoad code).jtag.ir = code := by
  unfold State.jtagLoad
  split
  · assumption
  · have h1 : jtagAllows code s.fuse.state (s.sessOf 2).role = true := by rw [jtag_allows_iff]; rcases h with rfl | rfl | rfl | rfl <;> simp
    have h2 : jtagHolds code = false := by rcases h with rfl | rfl | rfl | rfl <;> rfl
    rw [if_pos h1, if_neg (by rw [h2]; decide)]
    rfl

theorem jtag_row_0 (s : State) (pins v : BitVec 612) (hf : s.inFen = false) (hi : (s.jtagLoad 0).jtag.ir = 0) :
    exec (.extest pins v) s = .next (let u := s.jtagLoad 0; ({ u with jtag := { u.jtag with bnd := v }, out := .boundary 0 v.toNat :: .tdo pins.toNat :: u.out } : State)) := by
  show Host.Outcome.next (s.boundary 0 pins v) = _
  unfold State.boundary
  refine congrArg Host.Outcome.next ((jtag_run_ok s 0 _ hf hi).trans ?_)
  rfl

theorem jtag_row_8 (s : State) (pins v : BitVec 612) (hf : s.inFen = false) (hi : (s.jtagLoad 8).jtag.ir = 8) :
    exec (.extestPulse pins v) s = .next (let u := s.jtagLoad 8; ({ u with jtag := { u.jtag with bnd := v }, out := .boundary 8 v.toNat :: .tdo pins.toNat :: u.out } : State)) := by
  show Host.Outcome.next (s.boundary 8 pins v) = _
  unfold State.boundary
  refine congrArg Host.Outcome.next ((jtag_run_ok s 8 _ hf hi).trans ?_)
  rfl

theorem jtag_row_9 (s : State) (pins v : BitVec 612) (hf : s.inFen = false) (hi : (s.jtagLoad 9).jtag.ir = 9) :
    exec (.extestTrain pins v) s = .next (let u := s.jtagLoad 9; ({ u with jtag := { u.jtag with bnd := v }, out := .boundary 9 v.toNat :: .tdo pins.toNat :: u.out } : State)) := by
  show Host.Outcome.next (s.boundary 9 pins v) = _
  unfold State.boundary
  refine congrArg Host.Outcome.next ((jtag_run_ok s 9 _ hf hi).trans ?_)
  rfl

theorem jtag_row_4 (s : State) (hf : s.inFen = false) (hi : (s.jtagLoad 4).jtag.ir = 4) :
    exec .clamp s = .next (let u := s.jtagLoad 4; ({ u with out := .boundary 4 u.jtag.bnd.toNat :: .tdo 0 :: u.out } : State)) := by
  show Host.Outcome.next (s.clampPins 4) = _
  unfold State.clampPins
  refine congrArg Host.Outcome.next ((jtag_run_ok s 4 _ hf hi).trans ?_)
  rfl

theorem jtag_row_5 (s : State) (hf : s.inFen = false) (hi : (s.jtagLoad 5).jtag.ir = 5) :
    exec .highz s = .next (let u := s.jtagLoad 5; ({ u with out := .boundary 5 u.jtag.bnd.toNat :: .tdo 0 :: u.out } : State)) := by
  show Host.Outcome.next (s.clampPins 5) = _
  unfold State.clampPins
  refine congrArg Host.Outcome.next ((jtag_run_ok s 5 _ hf hi).trans ?_)
  rfl

theorem jtag_row_2 (s : State) (pins v : BitVec 612) (hf : s.inFen = false) (hi : (s.jtagLoad 2).jtag.ir = 2) :
    exec (.samplePreload pins v) s = .next (let u := s.jtagLoad 2; ({ u with jtag := { u.jtag with bnd := v }, out := .tdo pins.toNat :: u.out } : State)) := by
  show Host.Outcome.next (s.jtagRun 2 (fun u => (u.setJtag { u.jtag with bnd := v }).emit (.tdo pins.toNat))) = _
  skip
  refine congrArg Host.Outcome.next ((jtag_run_ok s 2 _ hf hi).trans ?_)
  rfl

theorem jtag_row_1 (s : State) (hf : s.inFen = false) (hi : (s.jtagLoad 1).jtag.ir = 1) :
    exec .idcode s = .next (let u := s.jtagLoad 1; ({ u with out := .tdo 0x292409cb :: u.out } : State)) := by
  show Host.Outcome.next (s.jtagRun 1 (fun u => u.emit (.tdo 0x292409cb))) = _
  skip
  refine congrArg Host.Outcome.next ((jtag_run_ok s 1 _ hf hi).trans ?_)
  rfl

theorem jtag_row_63 (s : State) (hf : s.inFen = false) (hi : (s.jtagLoad 63).jtag.ir = 63) :
    exec .bypass s = .next (let u := s.jtagLoad 63; ({ u with out := .tdo 0 :: u.out } : State)) := by
  show Host.Outcome.next (s.jtagRun 63 (fun u => u.emit (.tdo 0))) = _
  skip
  refine congrArg Host.Outcome.next ((jtag_run_ok s 63 _ hf hi).trans ?_)
  rfl

theorem jtag_row_32 (s : State) (hf : s.inFen = false) (hi : (s.jtagLoad 32).jtag.ir = 32) :
    exec .scan s = .next (let u := s.jtagLoad 32; ({ u with freeIdx := u.freeIdx + 1, out := .tdo (Config.freeValue u.freeIdx).toNat :: u.out } : State)) := by
  show Host.Outcome.next (s.jtagRun 32 State.tdoOpen) = _
  skip
  refine congrArg Host.Outcome.next ((jtag_run_ok s 32 _ hf hi).trans ?_)
  rfl

theorem jtag_row_33 (s : State) (w : BitVec 64) (hf : s.inFen = false) (hi : (s.jtagLoad 33).jtag.ir = 33) :
    exec (.trim w) s = .next (let u := s.jtagLoad 33; ({ u with freeIdx := u.freeIdx + 1, out := .tdo (Config.freeValue u.freeIdx).toNat :: u.out, jtag := { u.jtag with trim := w :: u.jtag.trim } } : State)) := by
  show Host.Outcome.next (s.jtagRun 33 (fun u => (u.setJtag { u.jtag with trim := w :: u.jtag.trim }).tdoOpen)) = _
  skip
  refine congrArg Host.Outcome.next ((jtag_run_ok s 33 _ hf hi).trans ?_)
  rfl

theorem jtag_row_34 (s : State) (w : BitVec 64) (hf : s.inFen = false) (hi : (s.jtagLoad 34).jtag.ir = 34) :
    exec (.fuse w) s = .next (let u := s.jtagLoad 34; ({ u with freeIdx := u.freeIdx + 1, out := .tdo (Config.freeValue u.freeIdx).toNat :: u.out, jtag := { u.jtag with fuse := w :: u.jtag.fuse } } : State)) := by
  show Host.Outcome.next (s.jtagRun 34 (fun u => (u.setJtag { u.jtag with fuse := w :: u.jtag.fuse }).tdoOpen)) = _
  skip
  refine congrArg Host.Outcome.next ((jtag_run_ok s 34 _ hf hi).trans ?_)
  rfl

theorem jtag_row_24 (s : State) (hf : s.inFen = false) (hi : (s.jtagLoad 24).jtag.ir = 24) :
    exec .mbist s = .next (let u := s.jtagLoad 24; let u1 := if decide (s.jtag.ir ≠ 24) then u.setJtag { u.jtag with bist := 1, bistStat := 0#32 } else u; u1.emit (.tdo u1.jtag.bistStat.toNat)) := by
  show Host.Outcome.next (s.selfTest 24 1) = _
  unfold State.selfTest
  refine congrArg Host.Outcome.next ((jtag_run_ok s 24 _ hf hi).trans ?_)
  rfl

theorem jtag_row_25 (s : State) (hf : s.inFen = false) (hi : (s.jtagLoad 25).jtag.ir = 25) :
    exec .lbist s = .next (let u := s.jtagLoad 25; let u1 := if decide (s.jtag.ir ≠ 25) then u.setJtag { u.jtag with bist := 2, bistStat := 0#32 } else u; u1.emit (.tdo u1.jtag.bistStat.toNat)) := by
  show Host.Outcome.next (s.selfTest 25 2) = _
  unfold State.selfTest
  refine congrArg Host.Outcome.next ((jtag_run_ok s 25 _ hf hi).trans ?_)
  rfl

theorem jtag_row_17 (s : State) (k : Fin 9) (halt : Bool) (hf : s.inFen = false) (hi : (s.jtagLoad 17).jtag.ir = 17) :
    exec (.debug k halt) s = .next (let u := s.jtagLoad 17; let l := u.jtag.halted; if halt then let u1 := u.setJtag { u.jtag with halted := if l.contains k.val then l else l ++ [k.val] }; if l = [] then u1.alarmActive 3 true else u1 else let u1 := u.setJtag { u.jtag with halted := l.erase k.val }; if l ≠ [] ∧ l.erase k.val = [] then u1.alarmInactive 3 else u1) := by
  show Host.Outcome.next (s.debug k.val halt) = _
  unfold State.debug
  refine congrArg Host.Outcome.next ((jtag_run_ok s 17 _ hf hi).trans ?_)
  rfl

theorem jtag_row_16 (s : State) (wr : Bool) (addr : BitVec 31) (b : BitVec 32) (hf : s.inFen = false) (hi : (s.jtagLoad 16).jtag.ir = 16) :
    exec (.regAccess wr addr b) s = .next (let u := s.jtagLoad 16; let u1 := u.emit (.tdo u.jtag.acc.toNat); if u1.powered = false then u1 else if wr then let x := u1.writeAt 2 addr.toNat 4 b.toNat none; let v := x.1.fresh; v.2.setJtag { v.2.jtag with acc := v.1.setWidth 32 } else let x := u1.readAt 2 addr.toNat 4; x.1.setJtag { x.1.jtag with acc := BitVec.ofNat 32 x.2.1 }) := by
  show Host.Outcome.next (s.jtagRun 16 _) = _
  skip
  refine congrArg Host.Outcome.next ((jtag_run_ok s 16 _ hf hi).trans ?_)
  rfl

theorem jtag_sint_ubits (x : Int) (h1 : -512 ≤ x) (h2 : x < 512) : sint 10 (ubits 10 x) = x := by
  unfold sint ubits
  dsimp only
  have : ((2 ^ 10 : Nat) : Int) = 1024 := by norm_num
  simp only [show (2:Nat)^10 = 1024 from rfl, show (2:Nat)^(10-1) = 512 from rfl]
  split <;> omega

theorem jtag_ubits_lt (x : Int) : ubits 10 x < 2 ^ 10 := by
  unfold ubits
  simp only [show (2:Nat)^10 = 1024 from rfl]
  omega

theorem jtag_sint_range (v : Nat) : -512 ≤ sint 10 v ∧ sint 10 v < 512 := by
  unfold sint
  simp only [show (2:Nat)^10 = 1024 from rfl, show (2:Nat)^(10-1) = 512 from rfl]
  split <;> omega

theorem jtag_watched_iff (s : State) (k : Fin 10) : s.railWatched k.val = true ↔ (s.jtag.held = false ∧ (s.inFen = false ∨ k = 3 ∨ k = 4)) := by
  unfold State.railWatched
  have e3 : (k.val == 3) = decide (k = 3) := by revert k; decide
  have e4 : (k.val == 4) = decide (k = 4) := by revert k; decide
  rw [e3, e4]
  cases s.jtag.held <;> cases s.inFen <;> simp

end Sys2Proof.Machine
end

