-- ==== Sys2Proof/Laws/KeepsExec.lean ====
section
/-! SUPPORT. Every command keeps what `State.Keeps` says: one lemma per meaning, and their sum over exec. -/

set_option linter.unreachableTactic false
set_option linter.unusedTactic false

namespace Sys2Proof.Machine

theorem execRegisterWrite_keeps (s t : State) (i : Fin 3) (a : BitVec 32) (w : Fin 4) (v : BitVec 64) (race : Option (BitVec 32)) (e : execRegisterWrite i a w v race s = .next t) : s.Keeps t := by
  have h := State.Keeps.refl s
  unfold execRegisterWrite at e
  injection e with e
  subst e
  repeat' (first | with_reducible assumption | intro _ | with_reducible (first | apply State.live_keeps | apply State.busWrite_keeps  | apply State.Keeps.ite | apply State.Keeps.foldl) | split)

theorem execRcCounterRead_keeps (s t : State) (i : Fin 3) (a : BitVec 32) (w : Fin 4) (e : execRcCounterRead i a w s = .next t) : s.Keeps t := by
  have h := State.Keeps.refl s
  unfold execRcCounterRead at e
  injection e with e
  subst e
  repeat' (first | with_reducible assumption | intro _ | with_reducible (first | apply State.live_keeps | apply State.busRead_keeps  | apply State.Keeps.ite | apply State.Keeps.foldl) | split)

theorem execGuardFirstHalf_keeps (s t : State) (i : Fin 3) (a : BitVec 32) (v : BitVec 32) (e : execGuardFirstHalf i a v s = .next t) : s.Keeps t := by
  have h := State.Keeps.refl s
  unfold execGuardFirstHalf at e
  injection e with e
  subst e
  repeat' (first | with_reducible assumption | intro _ | with_reducible (first | apply State.live_keeps | apply State.poke_keeps  | apply State.Keeps.ite | apply State.Keeps.foldl) | split)

theorem execGuardCommit_keeps (s t : State) (i : Fin 3) (a : BitVec 32) (v : BitVec 32) (e : execGuardCommit i a v s = .next t) : s.Keeps t := by
  have h := State.Keeps.refl s
  unfold execGuardCommit at e
  injection e with e
  subst e
  repeat' (first | with_reducible assumption | intro _ | with_reducible (first | apply State.live_keeps | apply State.poke_keeps  | apply State.Keeps.ite | apply State.Keeps.foldl) | split)

theorem execGuardTimeout_keeps (s t : State) (b : Fin 17) (e : execGuardTimeout b s = .next t) : s.Keeps t := by
  have h := State.Keeps.refl s
  unfold execGuardTimeout at e
  injection e with e
  subst e
  repeat' (first | with_reducible assumption | intro _ | with_reducible (first | apply State.live_keeps | apply State.guardTimeout_keeps  | apply State.Keeps.ite | apply State.Keeps.foldl) | split)

theorem execParityScan_keeps (s t : State) (a : BitVec 32) (flip : BitVec 32) (agree : Bool) (e : execParityScan a flip agree s = .next t) : s.Keeps t := by
  have h := State.Keeps.refl s
  unfold execParityScan at e
  injection e with e
  subst e
  repeat' (first | with_reducible assumption | intro _ | with_reducible (first | apply State.live_keeps | apply State.parityScan_keeps  | apply State.Keeps.ite | apply State.Keeps.foldl) | split)

theorem execParityRestore_keeps (s t : State) (a : BitVec 32) (e : execParityRestore a s = .next t) : s.Keeps t := by
  have h := State.Keeps.refl s
  unfold execParityRestore at e
  injection e with e
  subst e
  repeat' (first | with_reducible assumption | intro _ | with_reducible (first | apply State.live_keeps | apply State.parityRestore_keeps  | apply State.Keeps.ite | apply State.Keeps.foldl) | split)

theorem execMailboxDataRead_keeps (s t : State) (i : Fin 3) (a : BitVec 32) (w : Fin 4) (e : execMailboxDataRead i a w s = .next t) : s.Keeps t := by
  have h := State.Keeps.refl s
  unfold execMailboxDataRead at e
  injection e with e
  subst e
  repeat' (first | with_reducible assumption | intro _ | with_reducible (first | apply State.live_keeps | apply State.busRead_keeps  | apply State.Keeps.ite | apply State.Keeps.foldl) | split)

theorem execMailboxDataWrite_keeps (s t : State) (i : Fin 3) (a : BitVec 32) (w : Fin 4) (v : BitVec 64) (e : execMailboxDataWrite i a w v s = .next t) : s.Keeps t := by
  have h := State.Keeps.refl s
  unfold execMailboxDataWrite at e
  injection e with e
  subst e
  repeat' (first | with_reducible assumption | intro _ | with_reducible (first | apply State.live_keeps | apply State.busWrite_keeps  | apply State.Keeps.ite | apply State.Keeps.foldl) | split)

theorem execStormWindowEnd_keeps (s t : State) (n : Fin 64) (e : execStormWindowEnd n s = .next t) : s.Keeps t := by
  have h := State.Keeps.refl s
  unfold execStormWindowEnd at e
  injection e with e
  subst e
  repeat' (first | with_reducible assumption | intro _ | with_reducible (first | apply State.live_keeps | apply State.stormEnd_keeps  | apply State.Keeps.ite | apply State.Keeps.foldl) | split)

theorem execClearPend_keeps (s t : State) (i : Fin 3) (n : Fin 64) (e : execClearPend i n s = .next t) : s.Keeps t := by
  have h := State.Keeps.refl s
  unfold execClearPend at e
  injection e with e
  subst e
  repeat' (first | with_reducible assumption | intro _ | with_reducible (first | apply State.live_keeps | apply State.poke_keeps  | apply State.Keeps.ite | apply State.Keeps.foldl) | split)

theorem execClearStorm_keeps (s t : State) (i : Fin 3) (n : Fin 64) (e : execClearStorm i n s = .next t) : s.Keeps t := by
  have h := State.Keeps.refl s
  unfold execClearStorm at e
  injection e with e
  subst e
  repeat' (first | with_reducible assumption | intro _ | with_reducible (first | apply State.live_keeps | apply State.poke_keeps  | apply State.Keeps.ite | apply State.Keeps.foldl) | split)

theorem execClearFfValid_keeps (s t : State) (i : Fin 3) (n : Fin 64) (e : execClearFfValid i n s = .next t) : s.Keeps t := by
  have h := State.Keeps.refl s
  unfold execClearFfValid at e
  injection e with e
  subst e
  repeat' (first | with_reducible assumption | intro _ | with_reducible (first | apply State.live_keeps | apply State.poke_keeps  | apply State.Keeps.ite | apply State.Keeps.foldl) | split)

theorem execEventCountClear_keeps (s t : State) (i : Fin 3) (n : Fin 64) (e : execEventCountClear i n s = .next t) : s.Keeps t := by
  have h := State.Keeps.refl s
  unfold execEventCountClear at e
  injection e with e
  subst e
  repeat' (first | with_reducible assumption | intro _ | with_reducible (first | apply State.live_keeps | apply State.poke_keeps  | apply State.Keeps.ite | apply State.Keeps.foldl) | split)

theorem execFirstFaultRead_keeps (s t : State) (i : Fin 3) (n : Fin 64) (e : execFirstFaultRead i n s = .next t) : s.Keeps t := by
  have h := State.Keeps.refl s
  unfold execFirstFaultRead at e
  injection e with e
  subst e
  repeat' (first | with_reducible assumption | intro _ | with_reducible (first | apply State.live_keeps | apply State.request_keeps  | apply State.Keeps.ite | apply State.Keeps.foldl) | split)

theorem execChallengeRequest_keeps (s t : State) (i : Fin 3) (op : BitVec 8) (arg : BitVec 16) (e : execChallengeRequest i op arg s = .next t) : s.Keeps t := by
  have h := State.Keeps.refl s
  unfold execChallengeRequest at e
  injection e with e
  subst e
  repeat' (first | with_reducible assumption | intro _ | with_reducible (first | apply State.live_keeps | apply State.request_keeps  | apply State.Keeps.ite | apply State.Keeps.foldl) | split)

theorem execRoleResponse_keeps (s t : State) (i : Fin 3) (arg : BitVec 16) (e : execRoleResponse i arg s = .next t) : s.Keeps t := by
  have h := State.Keeps.refl s
  unfold execRoleResponse at e
  injection e with e
  subst e
  repeat' (first | with_reducible assumption | intro _ | with_reducible (first | apply State.live_keeps | apply State.request_keeps  | apply State.Keeps.ite | apply State.Keeps.foldl) | split)

theorem execReplaceInstallerSecret_keeps (s t : State) (i : Fin 3) (arg : BitVec 16) (e : execReplaceInstallerSecret i arg s = .next t) : s.Keeps t := by
  have h := State.Keeps.refl s
  unfold execReplaceInstallerSecret at e
  injection e with e
  subst e
  repeat' (first | with_reducible assumption | intro _ | with_reducible (first | apply State.live_keeps | apply State.request_keeps  | apply State.Keeps.ite | apply State.Keeps.foldl) | split)

theorem execReplaceOperatorSecret_keeps (s t : State) (i : Fin 3) (arg : BitVec 16) (e : execReplaceOperatorSecret i arg s = .next t) : s.Keeps t := by
  have h := State.Keeps.refl s
  unfold execReplaceOperatorSecret at e
  injection e with e
  subst e
  repeat' (first | with_reducible assumption | intro _ | with_reducible (first | apply State.live_keeps | apply State.request_keeps  | apply State.Keeps.ite | apply State.Keeps.foldl) | split)

theorem execChallengeExpiry_keeps (s t : State) (i : Fin 3) (e : execChallengeExpiry i s = .next t) : s.Keeps t := by
  have h := State.Keeps.refl s
  unfold execChallengeExpiry at e
  injection e with e
  subst e
  repeat' (first | with_reducible assumption | intro _ | with_reducible (first | apply State.chalExpiry_keeps  | apply State.Keeps.ite | apply State.Keeps.foldl) | split)

theorem execLockoutEnd_keeps (s t : State) (r : Fin 4) (e : execLockoutEnd r s = .next t) : s.Keeps t := by
  have h := State.Keeps.refl s
  unfold execLockoutEnd at e
  injection e with e
  subst e
  repeat' (first | with_reducible assumption | intro _ | with_reducible (first | apply State.lockoutEnd_keeps  | apply State.Keeps.ite | apply State.Keeps.foldl) | split)

theorem execRoleLeave_keeps (s t : State) (i : Fin 3) (e : execRoleLeave i s = .next t) : s.Keeps t := by
  have h := State.Keeps.refl s
  unfold execRoleLeave at e
  injection e with e
  subst e
  repeat' (first | with_reducible assumption | intro _ | with_reducible (first | apply State.live_keeps | apply State.poke_keeps  | apply State.Keeps.ite | apply State.Keeps.foldl) | split)

theorem execLifecycleRequest_keeps (s t : State) (i : Fin 3) (target : BitVec 32) (e : execLifecycleRequest i target s = .next t) : s.Keeps t := by
  have h := State.Keeps.refl s
  unfold execLifecycleRequest at e
  injection e with e
  subst e
  repeat' (first | with_reducible assumption | intro _ | with_reducible (first | apply State.live_keeps | apply State.pokeGuarded_keeps  | apply State.Keeps.ite | apply State.Keeps.foldl) | split)

theorem execAuditReadEntry_keeps (s t : State) (i : Fin 3) (arg : BitVec 16) (e : execAuditReadEntry i arg s = .next t) : s.Keeps t := by
  have h := State.Keeps.refl s
  unfold execAuditReadEntry at e
  injection e with e
  subst e
  repeat' (first | with_reducible assumption | intro _ | with_reducible (first | apply State.live_keeps | apply State.request_keeps  | apply State.Keeps.ite | apply State.Keeps.foldl) | split)

theorem execAuditHeadDigest_keeps (s t : State) (i : Fin 3) (arg : BitVec 16) (e : execAuditHeadDigest i arg s = .next t) : s.Keeps t := by
  have h := State.Keeps.refl s
  unfold execAuditHeadDigest at e
  injection e with e
  subst e
  repeat' (first | with_reducible assumption | intro _ | with_reducible (first | apply State.live_keeps | apply State.request_keeps  | apply State.Keeps.ite | apply State.Keeps.foldl) | split)

theorem execAuditBaseDigest_keeps (s t : State) (i : Fin 3) (arg : BitVec 16) (e : execAuditBaseDigest i arg s = .next t) : s.Keeps t := by
  have h := State.Keeps.refl s
  unfold execAuditBaseDigest at e
  injection e with e
  subst e
  repeat' (first | with_reducible assumption | intro _ | with_reducible (first | apply State.live_keeps | apply State.request_keeps  | apply State.Keeps.ite | apply State.Keeps.foldl) | split)

theorem execAuditIndex_keeps (s t : State) (i : Fin 3) (arg : BitVec 16) (e : execAuditIndex i arg s = .next t) : s.Keeps t := by
  have h := State.Keeps.refl s
  unfold execAuditIndex at e
  injection e with e
  subst e
  repeat' (first | with_reducible assumption | intro _ | with_reducible (first | apply State.live_keeps | apply State.request_keeps  | apply State.Keeps.ite | apply State.Keeps.foldl) | split)

theorem execAddOffset_keeps (s t : State) (i : Fin 3) (arg : BitVec 16) (e : execAddOffset i arg s = .next t) : s.Keeps t := by
  have h := State.Keeps.refl s
  unfold execAddOffset at e
  injection e with e
  subst e
  repeat' (first | with_reducible assumption | intro _ | with_reducible (first | apply State.live_keeps | apply State.request_keeps  | apply State.Keeps.ite | apply State.Keeps.foldl) | split)

theorem execSetTime_keeps (s t : State) (i : Fin 3) (arg : BitVec 16) (e : execSetTime i arg s = .next t) : s.Keeps t := by
  have h := State.Keeps.refl s
  unfold execSetTime at e
  injection e with e
  subst e
  repeat' (first | with_reducible assumption | intro _ | with_reducible (first | apply State.live_keeps | apply State.request_keeps  | apply State.Keeps.ite | apply State.Keeps.foldl) | split)

theorem execSetIncrement_keeps (s t : State) (i : Fin 3) (arg : BitVec 16) (e : execSetIncrement i arg s = .next t) : s.Keeps t := by
  have h := State.Keeps.refl s
  unfold execSetIncrement at e
  injection e with e
  subst e
  repeat' (first | with_reducible assumption | intro _ | with_reducible (first | apply State.live_keeps | apply State.request_keeps  | apply State.Keeps.ite | apply State.Keeps.foldl) | split)

theorem execDomainKick_keeps (s t : State) (i : Fin 3) (d : Fin 2) (e : execDomainKick i d s = .next t) : s.Keeps t := by
  have h := State.Keeps.refl s
  unfold execDomainKick at e
  injection e with e
  subst e
  repeat' (first | with_reducible assumption | intro _ | with_reducible (first | apply State.live_keeps | apply State.poke_keeps  | apply State.Keeps.ite | apply State.Keeps.foldl) | split)

theorem execDomainDeclareLost_keeps (s t : State) (i : Fin 3) (d : Fin 2) (e : execDomainDeclareLost i d s = .next t) : s.Keeps t := by
  have h := State.Keeps.refl s
  unfold execDomainDeclareLost at e
  injection e with e
  subst e
  repeat' (first | with_reducible assumption | intro _ | with_reducible (first | apply State.live_keeps | apply State.poke_keeps  | apply State.Keeps.ite | apply State.Keeps.foldl) | split)

theorem execKickTimeout_keeps (s t : State) (d : Fin 2) (e : execKickTimeout d s = .next t) : s.Keeps t := by
  have h := State.Keeps.refl s
  unfold execKickTimeout at e
  injection e with e
  subst e
  repeat' (first | with_reducible assumption | intro _ | with_reducible (first | apply State.live_keeps | apply State.domLose_keeps  | apply State.Keeps.ite | apply State.Keeps.foldl) | split)

theorem execWktLocked_keeps (s t : State) (e : execWktLocked s = .next t) : s.Keeps t := by
  have h := State.Keeps.refl s
  unfold execWktLocked at e
  injection e with e
  subst e
  repeat' (first | with_reducible assumption | with_reducible intro _ | with_reducible (first | apply State.live_keeps | apply State.wktLock_keeps | apply State.Keeps.ite | apply State.Keeps.ite_fst | apply State.Keeps.ite_snd | apply State.Keeps.foldl) | split)

theorem execAlign_keeps (s t : State) (i : Fin 3) (e : execAlign i s = .next t) : s.Keeps t := by
  have h := State.Keeps.refl s
  unfold execAlign at e
  injection e with e
  subst e
  repeat' (first | with_reducible assumption | intro _ | with_reducible (first | apply State.live_keeps | apply State.poke_keeps  | apply State.Keeps.ite | apply State.Keeps.foldl) | split)

theorem execTimeSnapshot_keeps (s t : State) (i : Fin 3) (arg : BitVec 16) (e : execTimeSnapshot i arg s = .next t) : s.Keeps t := by
  have h := State.Keeps.refl s
  unfold execTimeSnapshot at e
  injection e with e
  subst e
  repeat' (first | with_reducible assumption | intro _ | with_reducible (first | apply State.live_keeps | apply State.request_keeps  | apply State.Keeps.ite | apply State.Keeps.foldl) | split)

theorem execRxTimestampPop_keeps (s t : State) (i : Fin 3) (arg : BitVec 16) (e : execRxTimestampPop i arg s = .next t) : s.Keeps t := by
  have h := State.Keeps.refl s
  unfold execRxTimestampPop at e
  injection e with e
  subst e
  repeat' (first | with_reducible assumption | intro _ | with_reducible (first | apply State.live_keeps | apply State.request_keeps  | apply State.Keeps.ite | apply State.Keeps.foldl) | split)

theorem execTxTimestampPop_keeps (s t : State) (i : Fin 3) (arg : BitVec 16) (e : execTxTimestampPop i arg s = .next t) : s.Keeps t := by
  have h := State.Keeps.refl s
  unfold execTxTimestampPop at e
  injection e with e
  subst e
  repeat' (first | with_reducible assumption | intro _ | with_reducible (first | apply State.live_keeps | apply State.request_keeps  | apply State.Keeps.ite | apply State.Keeps.foldl) | split)

theorem execPpsOutSecond_keeps (s t : State) (e : execPpsOutSecond s = .next t) : s.Keeps t := by
  have h := State.Keeps.refl s
  unfold execPpsOutSecond at e
  injection e with e
  subst e
  repeat' (first | with_reducible assumption | with_reducible intro _ | with_reducible (first | apply State.live_keeps | apply State.ppsRise_keeps | apply State.Keeps.ite | apply State.Keeps.ite_fst | apply State.Keeps.ite_snd | apply State.Keeps.foldl) | split)

theorem execPpsOutFall_keeps (s t : State) (e : execPpsOutFall s = .next t) : s.Keeps t := by
  have h := State.Keeps.refl s
  unfold execPpsOutFall at e
  injection e with e
  subst e
  exact State.live_keeps h (State.Keeps.ite (State.emit_keeps (State.Keeps.tim_upd h) _) h)

theorem execPpsInEdge_keeps (s t : State) (len : BitVec 32) (e : execPpsInEdge len s = .next t) : s.Keeps t := by
  have h := State.Keeps.refl s
  unfold execPpsInEdge at e
  injection e with e
  subst e
  repeat' (first | with_reducible assumption | intro _ | with_reducible (first | apply State.live_keeps | apply State.snap_keeps  | apply State.Keeps.ite | apply State.Keeps.foldl) | split)

theorem execLdlyMeasurementWrite_keeps (s t : State) (i : Fin 3) (n : Fin 24) (v : BitVec 32) (e : execLdlyMeasurementWrite i n v s = .next t) : s.Keeps t := by
  have h := State.Keeps.refl s
  unfold execLdlyMeasurementWrite at e
  injection e with e
  subst e
  repeat' (first | with_reducible assumption | intro _ | with_reducible (first | apply State.live_keeps | apply State.poke_keeps  | apply State.Keeps.ite | apply State.Keeps.foldl) | split)

theorem execLdlyAccept_keeps (s t : State) (i : Fin 3) (n : Fin 24) (e : execLdlyAccept i n s = .next t) : s.Keeps t := by
  have h := State.Keeps.refl s
  unfold execLdlyAccept at e
  injection e with e
  subst e
  repeat' (first | with_reducible assumption | intro _ | with_reducible (first | apply State.live_keeps | apply State.poke_keeps  | apply State.Keeps.ite | apply State.Keeps.foldl) | split)

theorem execPhaseEnableWrite_keeps (s t : State) (i : Fin 3) (d : Fin 4) (v : BitVec 32) (e : execPhaseEnableWrite i d v s = .next t) : s.Keeps t := by
  have h := State.Keeps.refl s
  unfold execPhaseEnableWrite at e
  injection e with e
  subst e
  repeat' (first | with_reducible assumption | intro _ | with_reducible (first | apply State.live_keeps | apply State.poke_keeps  | apply State.Keeps.ite | apply State.Keeps.foldl) | split)

theorem execPhaseEdge_keeps (s t : State) (p : Fin 4) (rise : Bool) (held : BitVec 16) (back : BitVec 16) (e : execPhaseEdge p rise held back s = .next t) : s.Keeps t := by
  have h := State.Keeps.refl s
  unfold execPhaseEdge at e
  injection e with e
  subst e
  repeat' (first | with_reducible assumption | intro _ | with_reducible (first | apply State.live_keeps | apply State.edgeIn_keeps | apply State.setLev_keeps  | apply State.Keeps.ite | apply State.Keeps.foldl) | split)

theorem execQuadTransition_keeps (s t : State) (p : Fin 4) (a : Bool) (b : Bool) (z : Bool) (held : BitVec 16) (back : BitVec 16) (e : execQuadTransition p a b z held back s = .next t) : s.Keeps t := by
  have h := State.Keeps.refl s
  unfold execQuadTransition at e
  injection e with e
  subst e
  repeat' (first | with_reducible assumption | intro _ | with_reducible (first | apply State.live_keeps | apply State.quadIn_keeps | apply State.setLev_keeps  | apply State.Keeps.ite | apply State.Keeps.foldl) | split)

theorem execZEdge_keeps (s t : State) (p : Fin 4) (held : BitVec 16) (back : BitVec 16) (e : execZEdge p held back s = .next t) : s.Keeps t := by
  have h := State.Keeps.refl s
  unfold execZEdge at e
  injection e with e
  subst e
  repeat' (first | with_reducible assumption | intro _ | with_reducible (first | apply State.live_keeps | apply State.quadIn_keeps | apply State.setLev_keeps  | apply State.Keeps.ite | apply State.Keeps.foldl) | split)

theorem execObservationApply_keeps (s t : State) (d : Fin 4) (e : execObservationApply d s = .next t) : s.Keeps t := by
  have h := State.Keeps.refl s
  unfold execObservationApply at e
  injection e with e
  subst e
  repeat' (first | with_reducible assumption | intro _ | with_reducible (first | apply State.live_keeps | apply State.obsApply_keeps  | apply State.Keeps.ite | apply State.Keeps.foldl) | split)

theorem execObsTimeout_keeps (s t : State) (d : Fin 4) (e : execObsTimeout d s = .next t) : s.Keeps t := by
  have h := State.Keeps.refl s
  unfold execObsTimeout at e
  injection e with e
  subst e
  repeat' (first | with_reducible assumption | intro _ | with_reducible (first | apply State.live_keeps | apply State.obsTimeout_keeps  | apply State.Keeps.ite | apply State.Keeps.foldl) | split)

theorem execHoldTimeExpiry_keeps (s t : State) (d : Fin 4) (e : execHoldTimeExpiry d s = .next t) : s.Keeps t := by
  have h := State.Keeps.refl s
  unfold execHoldTimeExpiry at e
  injection e with e
  subst e
  repeat' (first | with_reducible assumption | intro _ | with_reducible (first | apply State.live_keeps | apply State.holdExpiry_keeps  | apply State.Keeps.ite | apply State.Keeps.foldl) | split)

theorem execPhaseRestart_keeps (s t : State) (i : Fin 3) (d : Fin 4) (e : execPhaseRestart i d s = .next t) : s.Keeps t := by
  have h := State.Keeps.refl s
  unfold execPhaseRestart at e
  injection e with e
  subst e
  repeat' (first | with_reducible assumption | intro _ | with_reducible (first | apply State.live_keeps | apply State.poke_keeps  | apply State.Keeps.ite | apply State.Keeps.foldl) | split)

theorem execPhaseDeclareLost_keeps (s t : State) (i : Fin 3) (d : Fin 4) (e : execPhaseDeclareLost i d s = .next t) : s.Keeps t := by
  have h := State.Keeps.refl s
  unfold execPhaseDeclareLost at e
  injection e with e
  subst e
  repeat' (first | with_reducible assumption | intro _ | with_reducible (first | apply State.live_keeps | apply State.poke_keeps  | apply State.Keeps.ite | apply State.Keeps.foldl) | split)

theorem execPhaseSnapshot_keeps (s t : State) (i : Fin 3) (arg : BitVec 16) (e : execPhaseSnapshot i arg s = .next t) : s.Keeps t := by
  have h := State.Keeps.refl s
  unfold execPhaseSnapshot at e
  injection e with e
  subst e
  repeat' (first | with_reducible assumption | intro _ | with_reducible (first | apply State.live_keeps | apply State.request_keeps  | apply State.Keeps.ite | apply State.Keeps.foldl) | split)

theorem execAngleActionFire_keeps (s t : State) (sq : Fin 8) (races : List (Fin 32 × BitVec 32)) (e : execAngleActionFire sq races s = .next t) : s.Keeps t := by
  have h := State.Keeps.refl s
  unfold execAngleActionFire at e
  injection e with e
  subst e
  repeat' (first | with_reducible assumption | with_reducible intro _ | with_reducible (first | apply State.phsDue_keeps | apply State.live_keeps | apply State.fireAngle_keeps | apply State.Keeps.ite | apply State.Keeps.ite_fst | apply State.Keeps.ite_snd | apply State.Keeps.foldl) | split)

theorem execINop_keeps (s t : State) (sq : Fin 8) (e : execINop sq s = .next t) : s.Keeps t := by
  have h := State.Keeps.refl s
  unfold execINop at e
  injection e with e
  subst e
  repeat' (first | with_reducible assumption | intro _ | with_reducible (first | apply State.yIssue_keeps | apply State.yNop_keeps  | apply State.Keeps.ite | apply State.Keeps.foldl) | split)

theorem execIHalt_keeps (s t : State) (sq : Fin 8) (e : execIHalt sq s = .next t) : s.Keeps t := by
  have h := State.Keeps.refl s
  unfold execIHalt at e
  injection e with e
  subst e
  repeat' (first | with_reducible assumption | intro _ | with_reducible (first | apply State.yIssue_keeps | apply State.yHalt_keeps  | apply State.Keeps.ite | apply State.Keeps.foldl) | split)

theorem execIWdog_keeps (s t : State) (sq : Fin 8) (e : execIWdog sq s = .next t) : s.Keeps t := by
  have h := State.Keeps.refl s
  unfold execIWdog at e
  injection e with e
  subst e
  repeat' (first | with_reducible assumption | intro _ | with_reducible (first | apply State.yIssue_keeps | apply State.yWdog_keeps  | apply State.Keeps.ite | apply State.Keeps.foldl) | split)

theorem execITrap_keeps (s t : State) (sq : Fin 8) (imm : BitVec 16) (e : execITrap sq imm s = .next t) : s.Keeps t := by
  have h := State.Keeps.refl s
  unfold execITrap at e
  injection e with e
  subst e
  repeat' (first | with_reducible assumption | intro _ | with_reducible (first | apply State.yIssue_keeps | apply State.yTrap_keeps  | apply State.Keeps.ite | apply State.Keeps.foldl) | split)

theorem execIRds_keeps (s t : State) (sq : Fin 8) (d : BitVec 4) (k : Fin 5) (e : execIRds sq d k s = .next t) : s.Keeps t := by
  have h := State.Keeps.refl s
  unfold execIRds at e
  injection e with e
  subst e
  repeat' (first | with_reducible assumption | intro _ | with_reducible (first | apply State.yIssue_keeps | apply State.yRds_keeps  | apply State.Keeps.ite | apply State.Keeps.foldl) | split)

theorem execIAdd_keeps (s t : State) (sq : Fin 8) (d : BitVec 4) (a : BitVec 4) (b : BitVec 4) (e : execIAdd sq d a b s = .next t) : s.Keeps t := by
  have h := State.Keeps.refl s
  unfold execIAdd at e
  injection e with e
  subst e
  repeat' (first | with_reducible assumption | intro _ | with_reducible (first | apply State.yIssue_keeps | apply State.yAdd_keeps  | apply State.Keeps.ite | apply State.Keeps.foldl) | split)

theorem execISub_keeps (s t : State) (sq : Fin 8) (d : BitVec 4) (a : BitVec 4) (b : BitVec 4) (e : execISub sq d a b s = .next t) : s.Keeps t := by
  have h := State.Keeps.refl s
  unfold execISub at e
  injection e with e
  subst e
  repeat' (first | with_reducible assumption | intro _ | with_reducible (first | apply State.yIssue_keeps | apply State.ySub_keeps  | apply State.Keeps.ite | apply State.Keeps.foldl) | split)

theorem execIAnd_keeps (s t : State) (sq : Fin 8) (d : BitVec 4) (a : BitVec 4) (b : BitVec 4) (e : execIAnd sq d a b s = .next t) : s.Keeps t := by
  have h := State.Keeps.refl s
  unfold execIAnd at e
  injection e with e
  subst e
  repeat' (first | with_reducible assumption | intro _ | with_reducible (first | apply State.yIssue_keeps | apply State.yAnd_keeps  | apply State.Keeps.ite | apply State.Keeps.foldl) | split)

theorem execIOr_keeps (s t : State) (sq : Fin 8) (d : BitVec 4) (a : BitVec 4) (b : BitVec 4) (e : execIOr sq d a b s = .next t) : s.Keeps t := by
  have h := State.Keeps.refl s
  unfold execIOr at e
  injection e with e
  subst e
  repeat' (first | with_reducible assumption | intro _ | with_reducible (first | apply State.yIssue_keeps | apply State.yOr_keeps  | apply State.Keeps.ite | apply State.Keeps.foldl) | split)

theorem execIXor_keeps (s t : State) (sq : Fin 8) (d : BitVec 4) (a : BitVec 4) (b : BitVec 4) (e : execIXor sq d a b s = .next t) : s.Keeps t := by
  have h := State.Keeps.refl s
  unfold execIXor at e
  injection e with e
  subst e
  repeat' (first | with_reducible assumption | intro _ | with_reducible (first | apply State.yIssue_keeps | apply State.yXor_keeps  | apply State.Keeps.ite | apply State.Keeps.foldl) | split)

theorem execISll_keeps (s t : State) (sq : Fin 8) (d : BitVec 4) (a : BitVec 4) (b : BitVec 4) (e : execISll sq d a b s = .next t) : s.Keeps t := by
  have h := State.Keeps.refl s
  unfold execISll at e
  injection e with e
  subst e
  repeat' (first | with_reducible assumption | intro _ | with_reducible (first | apply State.yIssue_keeps | apply State.ySll_keeps  | apply State.Keeps.ite | apply State.Keeps.foldl) | split)

theorem execISrl_keeps (s t : State) (sq : Fin 8) (d : BitVec 4) (a : BitVec 4) (b : BitVec 4) (e : execISrl sq d a b s = .next t) : s.Keeps t := by
  have h := State.Keeps.refl s
  unfold execISrl at e
  injection e with e
  subst e
  repeat' (first | with_reducible assumption | intro _ | with_reducible (first | apply State.yIssue_keeps | apply State.ySrl_keeps  | apply State.Keeps.ite | apply State.Keeps.foldl) | split)

theorem execISra_keeps (s t : State) (sq : Fin 8) (d : BitVec 4) (a : BitVec 4) (b : BitVec 4) (e : execISra sq d a b s = .next t) : s.Keeps t := by
  have h := State.Keeps.refl s
  unfold execISra at e
  injection e with e
  subst e
  repeat' (first | with_reducible assumption | intro _ | with_reducible (first | apply State.yIssue_keeps | apply State.ySra_keeps  | apply State.Keeps.ite | apply State.Keeps.foldl) | split)

theorem execIMul_keeps (s t : State) (sq : Fin 8) (d : BitVec 4) (a : BitVec 4) (b : BitVec 4) (e : execIMul sq d a b s = .next t) : s.Keeps t := by
  have h := State.Keeps.refl s
  unfold execIMul at e
  injection e with e
  subst e
  repeat' (first | with_reducible assumption | intro _ | with_reducible (first | apply State.yIssue_keeps | apply State.yMul_keeps  | apply State.Keeps.ite | apply State.Keeps.foldl) | split)

theorem execIAddi_keeps (s t : State) (sq : Fin 8) (d : BitVec 4) (a : BitVec 4) (imm : BitVec 18) (e : execIAddi sq d a imm s = .next t) : s.Keeps t := by
  have h := State.Keeps.refl s
  unfold execIAddi at e
  injection e with e
  subst e
  repeat' (first | with_reducible assumption | intro _ | with_reducible (first | apply State.yIssue_keeps | apply State.yAddi_keeps  | apply State.Keeps.ite | apply State.Keeps.foldl) | split)

theorem execIAndi_keeps (s t : State) (sq : Fin 8) (d : BitVec 4) (a : BitVec 4) (imm : BitVec 18) (e : execIAndi sq d a imm s = .next t) : s.Keeps t := by
  have h := State.Keeps.refl s
  unfold execIAndi at e
  injection e with e
  subst e
  repeat' (first | with_reducible assumption | intro _ | with_reducible (first | apply State.yIssue_keeps | apply State.yAndi_keeps  | apply State.Keeps.ite | apply State.Keeps.foldl) | split)

theorem execIOri_keeps (s t : State) (sq : Fin 8) (d : BitVec 4) (a : BitVec 4) (imm : BitVec 18) (e : execIOri sq d a imm s = .next t) : s.Keeps t := by
  have h := State.Keeps.refl s
  unfold execIOri at e
  injection e with e
  subst e
  repeat' (first | with_reducible assumption | intro _ | with_reducible (first | apply State.yIssue_keeps | apply State.yOri_keeps  | apply State.Keeps.ite | apply State.Keeps.foldl) | split)

theorem execIXori_keeps (s t : State) (sq : Fin 8) (d : BitVec 4) (a : BitVec 4) (imm : BitVec 18) (e : execIXori sq d a imm s = .next t) : s.Keeps t := by
  have h := State.Keeps.refl s
  unfold execIXori at e
  injection e with e
  subst e
  repeat' (first | with_reducible assumption | intro _ | with_reducible (first | apply State.yIssue_keeps | apply State.yXori_keeps  | apply State.Keeps.ite | apply State.Keeps.foldl) | split)

theorem execISlli_keeps (s t : State) (sq : Fin 8) (d : BitVec 4) (a : BitVec 4) (sh : BitVec 5) (e : execISlli sq d a sh s = .next t) : s.Keeps t := by
  have h := State.Keeps.refl s
  unfold execISlli at e
  injection e with e
  subst e
  repeat' (first | with_reducible assumption | intro _ | with_reducible (first | apply State.yIssue_keeps | apply State.ySlli_keeps  | apply State.Keeps.ite | apply State.Keeps.foldl) | split)

theorem execISrli_keeps (s t : State) (sq : Fin 8) (d : BitVec 4) (a : BitVec 4) (sh : BitVec 5) (e : execISrli sq d a sh s = .next t) : s.Keeps t := by
  have h := State.Keeps.refl s
  unfold execISrli at e
  injection e with e
  subst e
  repeat' (first | with_reducible assumption | intro _ | with_reducible (first | apply State.yIssue_keeps | apply State.ySrli_keeps  | apply State.Keeps.ite | apply State.Keeps.foldl) | split)

theorem execISrai_keeps (s t : State) (sq : Fin 8) (d : BitVec 4) (a : BitVec 4) (sh : BitVec 5) (e : execISrai sq d a sh s = .next t) : s.Keeps t := by
  have h := State.Keeps.refl s
  unfold execISrai at e
  injection e with e
  subst e
  repeat' (first | with_reducible assumption | intro _ | with_reducible (first | apply State.yIssue_keeps | apply State.ySrai_keeps  | apply State.Keeps.ite | apply State.Keeps.foldl) | split)

theorem execILui_keeps (s t : State) (sq : Fin 8) (d : BitVec 4) (imm : BitVec 16) (e : execILui sq d imm s = .next t) : s.Keeps t := by
  have h := State.Keeps.refl s
  unfold execILui at e
  injection e with e
  subst e
  repeat' (first | with_reducible assumption | intro _ | with_reducible (first | apply State.yIssue_keeps | apply State.yLui_keeps  | apply State.Keeps.ite | apply State.Keeps.foldl) | split)

theorem execILd_keeps (s t : State) (sq : Fin 8) (d : BitVec 4) (a : BitVec 4) (imm : BitVec 18) (e : execILd sq d a imm s = .next t) : s.Keeps t := by
  have h := State.Keeps.refl s
  unfold execILd at e
  injection e with e
  subst e
  repeat' (first | with_reducible assumption | intro _ | with_reducible (first | apply State.yIssue_keeps | apply State.yLd_keeps  | apply State.Keeps.ite | apply State.Keeps.foldl) | split)

theorem execISt_keeps (s t : State) (sq : Fin 8) (d : BitVec 4) (a : BitVec 4) (imm : BitVec 18) (e : execISt sq d a imm s = .next t) : s.Keeps t := by
  have h := State.Keeps.refl s
  unfold execISt at e
  injection e with e
  subst e
  repeat' (first | with_reducible assumption | intro _ | with_reducible (first | apply State.yIssue_keeps | apply State.ySt_keeps  | apply State.Keeps.ite | apply State.Keeps.foldl) | split)

theorem execILdt_keeps (s t : State) (sq : Fin 8) (tx : BitVec 2) (a : BitVec 4) (imm : BitVec 18) (e : execILdt sq tx a imm s = .next t) : s.Keeps t := by
  have h := State.Keeps.refl s
  unfold execILdt at e
  injection e with e
  subst e
  repeat' (first | with_reducible assumption | intro _ | with_reducible (first | apply State.yIssue_keeps | apply State.yLdt_keeps  | apply State.Keeps.ite | apply State.Keeps.foldl) | split)

theorem execIStt_keeps (s t : State) (sq : Fin 8) (tx : BitVec 2) (a : BitVec 4) (imm : BitVec 18) (e : execIStt sq tx a imm s = .next t) : s.Keeps t := by
  have h := State.Keeps.refl s
  unfold execIStt at e
  injection e with e
  subst e
  repeat' (first | with_reducible assumption | intro _ | with_reducible (first | apply State.yIssue_keeps | apply State.yStt_keeps  | apply State.Keeps.ite | apply State.Keeps.foldl) | split)

theorem execIAmoadd_keeps (s t : State) (sq : Fin 8) (d : BitVec 4) (a : BitVec 4) (b : BitVec 4) (e : execIAmoadd sq d a b s = .next t) : s.Keeps t := by
  have h := State.Keeps.refl s
  unfold execIAmoadd at e
  injection e with e
  subst e
  repeat' (first | with_reducible assumption | intro _ | with_reducible (first | apply State.yIssue_keeps | apply State.yAmoadd_keeps  | apply State.Keeps.ite | apply State.Keeps.foldl) | split)

theorem execIAmoswap_keeps (s t : State) (sq : Fin 8) (d : BitVec 4) (a : BitVec 4) (b : BitVec 4) (e : execIAmoswap sq d a b s = .next t) : s.Keeps t := by
  have h := State.Keeps.refl s
  unfold execIAmoswap at e
  injection e with e
  subst e
  repeat' (first | with_reducible assumption | intro _ | with_reducible (first | apply State.yIssue_keeps | apply State.yAmoswap_keeps  | apply State.Keeps.ite | apply State.Keeps.foldl) | split)

theorem execIBeq_keeps (s t : State) (sq : Fin 8) (a : BitVec 4) (b : BitVec 4) (off : BitVec 18) (e : execIBeq sq a b off s = .next t) : s.Keeps t := by
  have h := State.Keeps.refl s
  unfold execIBeq at e
  injection e with e
  subst e
  repeat' (first | with_reducible assumption | intro _ | with_reducible (first | apply State.yIssue_keeps | apply State.yBeq_keeps  | apply State.Keeps.ite | apply State.Keeps.foldl) | split)

theorem execIBne_keeps (s t : State) (sq : Fin 8) (a : BitVec 4) (b : BitVec 4) (off : BitVec 18) (e : execIBne sq a b off s = .next t) : s.Keeps t := by
  have h := State.Keeps.refl s
  unfold execIBne at e
  injection e with e
  subst e
  repeat' (first | with_reducible assumption | intro _ | with_reducible (first | apply State.yIssue_keeps | apply State.yBne_keeps  | apply State.Keeps.ite | apply State.Keeps.foldl) | split)

theorem execIBlt_keeps (s t : State) (sq : Fin 8) (a : BitVec 4) (b : BitVec 4) (off : BitVec 18) (e : execIBlt sq a b off s = .next t) : s.Keeps t := by
  have h := State.Keeps.refl s
  unfold execIBlt at e
  injection e with e
  subst e
  repeat' (first | with_reducible assumption | intro _ | with_reducible (first | apply State.yIssue_keeps | apply State.yBlt_keeps  | apply State.Keeps.ite | apply State.Keeps.foldl) | split)

theorem execIBge_keeps (s t : State) (sq : Fin 8) (a : BitVec 4) (b : BitVec 4) (off : BitVec 18) (e : execIBge sq a b off s = .next t) : s.Keeps t := by
  have h := State.Keeps.refl s
  unfold execIBge at e
  injection e with e
  subst e
  repeat' (first | with_reducible assumption | intro _ | with_reducible (first | apply State.yIssue_keeps | apply State.yBge_keeps  | apply State.Keeps.ite | apply State.Keeps.foldl) | split)

theorem execIBltu_keeps (s t : State) (sq : Fin 8) (a : BitVec 4) (b : BitVec 4) (off : BitVec 18) (e : execIBltu sq a b off s = .next t) : s.Keeps t := by
  have h := State.Keeps.refl s
  unfold execIBltu at e
  injection e with e
  subst e
  repeat' (first | with_reducible assumption | intro _ | with_reducible (first | apply State.yIssue_keeps | apply State.yBltu_keeps  | apply State.Keeps.ite | apply State.Keeps.foldl) | split)

theorem execIBgeu_keeps (s t : State) (sq : Fin 8) (a : BitVec 4) (b : BitVec 4) (off : BitVec 18) (e : execIBgeu sq a b off s = .next t) : s.Keeps t := by
  have h := State.Keeps.refl s
  unfold execIBgeu at e
  injection e with e
  subst e
  repeat' (first | with_reducible assumption | intro _ | with_reducible (first | apply State.yIssue_keeps | apply State.yBgeu_keeps  | apply State.Keeps.ite | apply State.Keeps.foldl) | split)

theorem execIJal_keeps (s t : State) (sq : Fin 8) (d : BitVec 4) (off : BitVec 22) (e : execIJal sq d off s = .next t) : s.Keeps t := by
  have h := State.Keeps.refl s
  unfold execIJal at e
  injection e with e
  subst e
  repeat' (first | with_reducible assumption | intro _ | with_reducible (first | apply State.yIssue_keeps | apply State.yJal_keeps  | apply State.Keeps.ite | apply State.Keeps.foldl) | split)

theorem execIJalr_keeps (s t : State) (sq : Fin 8) (d : BitVec 4) (a : BitVec 4) (imm : BitVec 18) (e : execIJalr sq d a imm s = .next t) : s.Keeps t := by
  have h := State.Keeps.refl s
  unfold execIJalr at e
  injection e with e
  subst e
  repeat' (first | with_reducible assumption | intro _ | with_reducible (first | apply State.yIssue_keeps | apply State.yJalr_keeps  | apply State.Keeps.ite | apply State.Keeps.foldl) | split)

theorem execITget_keeps (s t : State) (sq : Fin 8) (tx : BitVec 2) (clk : BitVec 2) (e : execITget sq tx clk s = .next t) : s.Keeps t := by
  have h := State.Keeps.refl s
  unfold execITget at e
  injection e with e
  subst e
  repeat' (first | with_reducible assumption | intro _ | with_reducible (first | apply State.yIssue_keeps | apply State.yTget_keeps  | apply State.Keeps.ite | apply State.Keeps.foldl) | split)

theorem execITadd_keeps (s t : State) (sq : Fin 8) (tx : BitVec 2) (ty : BitVec 2) (g : BitVec 4) (e : execITadd sq tx ty g s = .next t) : s.Keeps t := by
  have h := State.Keeps.refl s
  unfold execITadd at e
  injection e with e
  subst e
  repeat' (first | with_reducible assumption | intro _ | with_reducible (first | apply State.yIssue_keeps | apply State.yTadd_keeps  | apply State.Keeps.ite | apply State.Keeps.foldl) | split)

theorem execITsub_keeps (s t : State) (sq : Fin 8) (tx : BitVec 2) (ty : BitVec 2) (g : BitVec 4) (e : execITsub sq tx ty g s = .next t) : s.Keeps t := by
  have h := State.Keeps.refl s
  unfold execITsub at e
  injection e with e
  subst e
  repeat' (first | with_reducible assumption | intro _ | with_reducible (first | apply State.yIssue_keeps | apply State.yTsub_keeps  | apply State.Keeps.ite | apply State.Keeps.foldl) | split)

theorem execITmov_keeps (s t : State) (sq : Fin 8) (tx : BitVec 2) (ty : BitVec 2) (e : execITmov sq tx ty s = .next t) : s.Keeps t := by
  have h := State.Keeps.refl s
  unfold execITmov at e
  injection e with e
  subst e
  repeat' (first | with_reducible assumption | intro _ | with_reducible (first | apply State.yIssue_keeps | apply State.yTmov_keeps  | apply State.Keeps.ite | apply State.Keeps.foldl) | split)

theorem execIText_keeps (s t : State) (sq : Fin 8) (ty : BitVec 2) (g : BitVec 4) (sel : BitVec 2) (e : execIText sq ty g sel s = .next t) : s.Keeps t := by
  have h := State.Keeps.refl s
  unfold execIText at e
  injection e with e
  subst e
  repeat' (first | with_reducible assumption | intro _ | with_reducible (first | apply State.yIssue_keeps | apply State.yText_keeps  | apply State.Keeps.ite | apply State.Keeps.foldl) | split)

theorem execITins_keeps (s t : State) (sq : Fin 8) (tx : BitVec 2) (g : BitVec 4) (sel : BitVec 2) (e : execITins sq tx g sel s = .next t) : s.Keeps t := by
  have h := State.Keeps.refl s
  unfold execITins at e
  injection e with e
  subst e
  repeat' (first | with_reducible assumption | intro _ | with_reducible (first | apply State.yIssue_keeps | apply State.yTins_keeps  | apply State.Keeps.ite | apply State.Keeps.foldl) | split)

theorem execITnext_keeps (s t : State) (sq : Fin 8) (tx : BitVec 2) (ty : BitVec 2) (g : BitVec 4) (e : execITnext sq tx ty g s = .next t) : s.Keeps t := by
  have h := State.Keeps.refl s
  unfold execITnext at e
  injection e with e
  subst e
  repeat' (first | with_reducible assumption | intro _ | with_reducible (first | apply State.yIssue_keeps | apply State.yTnext_keeps  | apply State.Keeps.ite | apply State.Keeps.foldl) | split)

theorem execITblt_keeps (s t : State) (sq : Fin 8) (tx : BitVec 2) (ty : BitVec 2) (off : BitVec 18) (e : execITblt sq tx ty off s = .next t) : s.Keeps t := by
  have h := State.Keeps.refl s
  unfold execITblt at e
  injection e with e
  subst e
  repeat' (first | with_reducible assumption | intro _ | with_reducible (first | apply State.yIssue_keeps | apply State.yTblt_keeps  | apply State.Keeps.ite | apply State.Keeps.foldl) | split)

theorem execIAget_keeps (s t : State) (sq : Fin 8) (ax : BitVec 2) (pd : BitVec 2) (e : execIAget sq ax pd s = .next t) : s.Keeps t := by
  have h := State.Keeps.refl s
  unfold execIAget at e
  injection e with e
  subst e
  repeat' (first | with_reducible assumption | intro _ | with_reducible (first | apply State.yIssue_keeps | apply State.yAget_keeps  | apply State.Keeps.ite | apply State.Keeps.foldl) | split)

theorem execIAset_keeps (s t : State) (sq : Fin 8) (ax : BitVec 2) (g : BitVec 4) (e : execIAset sq ax g s = .next t) : s.Keeps t := by
  have h := State.Keeps.refl s
  unfold execIAset at e
  injection e with e
  subst e
  repeat' (first | with_reducible assumption | intro _ | with_reducible (first | apply State.yIssue_keeps | apply State.yAset_keeps  | apply State.Keeps.ite | apply State.Keeps.foldl) | split)

theorem execIAread_keeps (s t : State) (sq : Fin 8) (ay : BitVec 2) (g : BitVec 4) (e : execIAread sq ay g s = .next t) : s.Keeps t := by
  have h := State.Keeps.refl s
  unfold execIAread at e
  injection e with e
  subst e
  repeat' (first | with_reducible assumption | intro _ | with_reducible (first | apply State.yIssue_keeps | apply State.yAread_keeps  | apply State.Keeps.ite | apply State.Keeps.foldl) | split)

theorem execIAadd_keeps (s t : State) (sq : Fin 8) (ax : BitVec 2) (ay : BitVec 2) (g : BitVec 4) (e : execIAadd sq ax ay g s = .next t) : s.Keeps t := by
  have h := State.Keeps.refl s
  unfold execIAadd at e
  injection e with e
  subst e
  repeat' (first | with_reducible assumption | intro _ | with_reducible (first | apply State.yIssue_keeps | apply State.yAadd_keeps  | apply State.Keeps.ite | apply State.Keeps.foldl) | split)

theorem execIVget_keeps (s t : State) (sq : Fin 8) (g : BitVec 4) (pd : BitVec 2) (e : execIVget sq g pd s = .next t) : s.Keeps t := by
  have h := State.Keeps.refl s
  unfold execIVget at e
  injection e with e
  subst e
  repeat' (first | with_reducible assumption | intro _ | with_reducible (first | apply State.yIssue_keeps | apply State.yVget_keeps  | apply State.Keeps.ite | apply State.Keeps.foldl) | split)

theorem execIPost_keeps (s t : State) (sq : Fin 8) (tx : BitVec 2) (g : BitVec 4) (e : execIPost sq tx g s = .next t) : s.Keeps t := by
  have h := State.Keeps.refl s
  unfold execIPost at e
  injection e with e
  subst e
  repeat' (first | with_reducible assumption | intro _ | with_reducible (first | apply State.yIssue_keeps | apply State.yPost_keeps  | apply State.Keeps.ite | apply State.Keeps.foldl) | split)

theorem execIApost_keeps (s t : State) (sq : Fin 8) (ax : BitVec 2) (g : BitVec 4) (pd : BitVec 2) (dir : Fin 3) (e : execIApost sq ax g pd dir s = .next t) : s.Keeps t := by
  have h := State.Keeps.refl s
  unfold execIApost at e
  injection e with e
  subst e
  repeat' (first | with_reducible assumption | intro _ | with_reducible (first | apply State.yIssue_keeps | apply State.yApost_keeps  | apply State.Keeps.ite | apply State.Keeps.foldl) | split)

theorem execIWaitt_keeps (s t : State) (sq : Fin 8) (tx : BitVec 2) (e : execIWaitt sq tx s = .next t) : s.Keeps t := by
  have h := State.Keeps.refl s
  unfold execIWaitt at e
  injection e with e
  subst e
  repeat' (first | with_reducible assumption | intro _ | with_reducible (first | apply State.yIssue_keeps | apply State.yWaitt_keeps  | apply State.Keeps.ite | apply State.Keeps.foldl) | split)

theorem execIWaita_keeps (s t : State) (sq : Fin 8) (ax : BitVec 2) (pd : BitVec 2) (dir : Fin 3) (tt : BitVec 2) (off : BitVec 18) (e : execIWaita sq ax pd dir tt off s = .next t) : s.Keeps t := by
  have h := State.Keeps.refl s
  unfold execIWaita at e
  injection e with e
  subst e
  repeat' (first | with_reducible assumption | intro _ | with_reducible (first | apply State.yIssue_keeps | apply State.yWaita_keeps  | apply State.Keeps.ite | apply State.Keeps.foldl) | split)

theorem execIWaite_keeps (s t : State) (sq : Fin 8) (g : BitVec 4) (tt : BitVec 2) (off : BitVec 18) (e : execIWaite sq g tt off s = .next t) : s.Keeps t := by
  have h := State.Keeps.refl s
  unfold execIWaite at e
  injection e with e
  subst e
  repeat' (first | with_reducible assumption | intro _ | with_reducible (first | apply State.yIssue_keeps | apply State.yWaite_keeps  | apply State.Keeps.ite | apply State.Keeps.foldl) | split)

theorem execIGrx_keeps (s t : State) (sq : Fin 8) (d : BitVec 4) (e : execIGrx sq d s = .next t) : s.Keeps t := by
  have h := State.Keeps.refl s
  unfold execIGrx at e
  injection e with e
  subst e
  repeat' (first | with_reducible assumption | intro _ | with_reducible (first | apply State.yIssue_keeps | apply State.yGrx_keeps  | apply State.Keeps.ite | apply State.Keeps.foldl) | split)

theorem execIGid_keeps (s t : State) (sq : Fin 8) (d : BitVec 4) (a : BitVec 4) (e : execIGid sq d a s = .next t) : s.Keeps t := by
  have h := State.Keeps.refl s
  unfold execIGid at e
  injection e with e
  subst e
  repeat' (first | with_reducible assumption | intro _ | with_reducible (first | apply State.yIssue_keeps | apply State.yGid_keeps  | apply State.Keeps.ite | apply State.Keeps.foldl) | split)

theorem execIGtx_keeps (s t : State) (sq : Fin 8) (a : BitVec 4) (b : BitVec 4) (e : execIGtx sq a b s = .next t) : s.Keeps t := by
  have h := State.Keeps.refl s
  unfold execIGtx at e
  injection e with e
  subst e
  repeat' (first | with_reducible assumption | intro _ | with_reducible (first | apply State.yIssue_keeps | apply State.yGtx_keeps  | apply State.Keeps.ite | apply State.Keeps.foldl) | split)

theorem execIGrel_keeps (s t : State) (sq : Fin 8) (a : BitVec 4) (e : execIGrel sq a s = .next t) : s.Keeps t := by
  have h := State.Keeps.refl s
  unfold execIGrel at e
  injection e with e
  subst e
  repeat' (first | with_reducible assumption | intro _ | with_reducible (first | apply State.yIssue_keeps | apply State.yGrel_keeps  | apply State.Keeps.ite | apply State.Keeps.foldl) | split)

theorem execWaittDone_keeps (s t : State) (sq : Fin 8) (e : execWaittDone sq s = .next t) : s.Keeps t := by
  have h := State.Keeps.refl s
  unfold execWaittDone at e
  injection e with e
  subst e
  repeat' (first | with_reducible assumption | intro _ | with_reducible (first | apply State.waittDone_keeps  | apply State.Keeps.ite | apply State.Keeps.foldl) | split)

theorem execWaitaEnd_keeps (s t : State) (sq : Fin 8) (e : execWaitaEnd sq s = .next t) : s.Keeps t := by
  have h := State.Keeps.refl s
  unfold execWaitaEnd at e
  injection e with e
  subst e
  repeat' (first | with_reducible assumption | intro _ | with_reducible (first | apply State.waitaEnd_keeps  | apply State.Keeps.ite | apply State.Keeps.foldl) | split)

theorem execWaiteEnd_keeps (s t : State) (sq : Fin 8) (e : execWaiteEnd sq s = .next t) : s.Keeps t := by
  have h := State.Keeps.refl s
  unfold execWaiteEnd at e
  injection e with e
  subst e
  repeat' (first | with_reducible assumption | intro _ | with_reducible (first | apply State.waiteEnd_keeps  | apply State.Keeps.ite | apply State.Keeps.foldl) | split)

theorem execWatchdogExpiry_keeps (s t : State) (sq : Fin 8) (e : execWatchdogExpiry sq s = .next t) : s.Keeps t := by
  have h := State.Keeps.refl s
  unfold execWatchdogExpiry at e
  injection e with e
  subst e
  repeat' (first | with_reducible assumption | intro _ | with_reducible (first | apply State.live_keeps | apply State.trap_keeps  | apply State.Keeps.ite | apply State.Keeps.foldl) | split)

theorem execTimeActionFire_keeps (s t : State) (sq : Fin 8) (races : List (Fin 32 × BitVec 32)) (e : execTimeActionFire sq races s = .next t) : s.Keeps t := by
  have h := State.Keeps.refl s
  unfold execTimeActionFire at e
  injection e with e
  subst e
  repeat' (first | with_reducible assumption | with_reducible intro _ | with_reducible (first | apply State.phsDue_keeps | apply State.live_keeps | apply State.fireTime_keeps | apply State.Keeps.ite | apply State.Keeps.ite_fst | apply State.Keeps.ite_snd | apply State.Keeps.foldl) | split)

theorem execPulseFall_keeps (s t : State) (pin : Fin 16) (e : execPulseFall pin s = .next t) : s.Keeps t := by
  have h := State.Keeps.refl s
  unfold execPulseFall at e
  injection e with e
  subst e
  repeat' (first | with_reducible assumption | intro _ | with_reducible (first | apply State.live_keeps | apply State.pulseFall_keeps  | apply State.Keeps.ite | apply State.Keeps.foldl) | split)

theorem execSeqStart_keeps (s t : State) (i : Fin 3) (sq : Fin 8) (e : execSeqStart i sq s = .next t) : s.Keeps t := by
  have h := State.Keeps.refl s
  unfold execSeqStart at e
  injection e with e
  subst e
  repeat' (first | with_reducible assumption | intro _ | with_reducible (first | apply State.live_keeps | apply State.poke_keeps  | apply State.Keeps.ite | apply State.Keeps.foldl) | split)

theorem execSeqStop_keeps (s t : State) (i : Fin 3) (sq : Fin 8) (flush : Bool) (e : execSeqStop i sq flush s = .next t) : s.Keeps t := by
  have h := State.Keeps.refl s
  unfold execSeqStop at e
  injection e with e
  subst e
  repeat' (first | with_reducible assumption | intro _ | with_reducible (first | apply State.live_keeps | apply State.poke_keeps  | apply State.Keeps.ite | apply State.Keeps.foldl) | split)

theorem execSeqPause_keeps (s t : State) (i : Fin 3) (sq : Fin 8) (e : execSeqPause i sq s = .next t) : s.Keeps t := by
  have h := State.Keeps.refl s
  unfold execSeqPause at e
  injection e with e
  subst e
  repeat' (first | with_reducible assumption | intro _ | with_reducible (first | apply State.live_keeps | apply State.poke_keeps  | apply State.Keeps.ite | apply State.Keeps.foldl) | split)

theorem execSeqResume_keeps (s t : State) (i : Fin 3) (sq : Fin 8) (e : execSeqResume i sq s = .next t) : s.Keeps t := by
  have h := State.Keeps.refl s
  unfold execSeqResume at e
  injection e with e
  subst e
  repeat' (first | with_reducible assumption | intro _ | with_reducible (first | apply State.live_keeps | apply State.poke_keeps  | apply State.Keeps.ite | apply State.Keeps.foldl) | split)

theorem execSeqStep_keeps (s t : State) (i : Fin 3) (sq : Fin 8) (e : execSeqStep i sq s = .next t) : s.Keeps t := by
  have h := State.Keeps.refl s
  unfold execSeqStep at e
  injection e with e
  subst e
  repeat' (first | with_reducible assumption | intro _ | with_reducible (first | apply State.live_keeps | apply State.poke_keeps  | apply State.Keeps.ite | apply State.Keeps.foldl) | split)

theorem execProgramMemoryWrite_keeps (s t : State) (i : Fin 3) (sq : Fin 8) (k : BitVec 15) (v : BitVec 32) (e : execProgramMemoryWrite i sq k v s = .next t) : s.Keeps t := by
  have h := State.Keeps.refl s
  unfold execProgramMemoryWrite at e
  injection e with e
  subst e
  repeat' (first | with_reducible assumption | intro _ | with_reducible (first | apply State.live_keeps | apply State.busWrite_keeps  | apply State.Keeps.ite | apply State.Keeps.foldl) | split)

theorem execSeqTableWrite_keeps (s t : State) (i : Fin 3) (a : BitVec 20) (wide : Bool) (v : BitVec 64) (e : execSeqTableWrite i a wide v s = .next t) : s.Keeps t := by
  have h := State.Keeps.refl s
  unfold execSeqTableWrite at e
  injection e with e
  subst e
  repeat' (first | with_reducible assumption | intro _ | with_reducible (first | apply State.live_keeps | apply State.busWrite_keeps  | apply State.Keeps.ite | apply State.Keeps.foldl) | split)

theorem execHostPost_keeps (s t : State) (i : Fin 3) (arg : BitVec 16) (e : execHostPost i arg s = .next t) : s.Keeps t := by
  have h := State.Keeps.refl s
  unfold execHostPost at e
  injection e with e
  subst e
  repeat' (first | with_reducible assumption | intro _ | with_reducible (first | apply State.live_keeps | apply State.request_keeps  | apply State.Keeps.ite | apply State.Keeps.foldl) | split)

theorem execActClear_keeps (s t : State) (i : Fin 3) (arg : BitVec 16) (e : execActClear i arg s = .next t) : s.Keeps t := by
  have h := State.Keeps.refl s
  unfold execActClear at e
  injection e with e
  subst e
  repeat' (first | with_reducible assumption | intro _ | with_reducible (first | apply State.live_keeps | apply State.request_keeps  | apply State.Keeps.ite | apply State.Keeps.foldl) | split)

theorem execActAppend_keeps (s t : State) (i : Fin 3) (arg : BitVec 16) (e : execActAppend i arg s = .next t) : s.Keeps t := by
  have h := State.Keeps.refl s
  unfold execActAppend at e
  injection e with e
  subst e
  repeat' (first | with_reducible assumption | intro _ | with_reducible (first | apply State.live_keeps | apply State.request_keeps  | apply State.Keeps.ite | apply State.Keeps.foldl) | split)

theorem execActSeal_keeps (s t : State) (i : Fin 3) (arg : BitVec 16) (e : execActSeal i arg s = .next t) : s.Keeps t := by
  have h := State.Keeps.refl s
  unfold execActSeal at e
  injection e with e
  subst e
  repeat' (first | with_reducible assumption | intro _ | with_reducible (first | apply State.live_keeps | apply State.request_keeps  | apply State.Keeps.ite | apply State.Keeps.foldl) | split)

theorem execQueueInspect_keeps (s t : State) (i : Fin 3) (arg : BitVec 16) (e : execQueueInspect i arg s = .next t) : s.Keeps t := by
  have h := State.Keeps.refl s
  unfold execQueueInspect at e
  injection e with e
  subst e
  repeat' (first | with_reducible assumption | intro _ | with_reducible (first | apply State.live_keeps | apply State.request_keeps  | apply State.Keeps.ite | apply State.Keeps.foldl) | split)

theorem execDbgReadGeneral_keeps (s t : State) (i : Fin 3) (arg : BitVec 16) (e : execDbgReadGeneral i arg s = .next t) : s.Keeps t := by
  have h := State.Keeps.refl s
  unfold execDbgReadGeneral at e
  injection e with e
  subst e
  repeat' (first | with_reducible assumption | intro _ | with_reducible (first | apply State.live_keeps | apply State.request_keeps  | apply State.Keeps.ite | apply State.Keeps.foldl) | split)

theorem execDbgReadTimeAngle_keeps (s t : State) (i : Fin 3) (arg : BitVec 16) (e : execDbgReadTimeAngle i arg s = .next t) : s.Keeps t := by
  have h := State.Keeps.refl s
  unfold execDbgReadTimeAngle at e
  injection e with e
  subst e
  repeat' (first | with_reducible assumption | intro _ | with_reducible (first | apply State.live_keeps | apply State.request_keeps  | apply State.Keeps.ite | apply State.Keeps.foldl) | split)

theorem execDbgReadPcSig_keeps (s t : State) (i : Fin 3) (arg : BitVec 16) (e : execDbgReadPcSig i arg s = .next t) : s.Keeps t := by
  have h := State.Keeps.refl s
  unfold execDbgReadPcSig at e
  injection e with e
  subst e
  repeat' (first | with_reducible assumption | intro _ | with_reducible (first | apply State.live_keeps | apply State.request_keeps  | apply State.Keeps.ite | apply State.Keeps.foldl) | split)

theorem execFrameHead_keeps (s t : State) (n : Fin 24) (wire : List Byte) (abort : Bool) (looped : Bool) (ph : Fin 16) (e : execFrameHead n wire abort looped ph s = .next t) : s.Keeps t := by
  have h := State.Keeps.refl s
  unfold execFrameHead at e
  injection e with e
  subst e
  repeat' (first | with_reducible assumption | intro _ | with_reducible (first | apply State.live_keeps | apply State.frameHead_keeps  | apply State.Keeps.ite | apply State.Keeps.foldl) | split)

theorem execLookupStart_keeps (s t : State) (n : Fin 24) (got : BitVec 14) (ends : List (Fin 24)) (e : execLookupStart n got ends s = .next t) : s.Keeps t := by
  have h := State.Keeps.refl s
  unfold execLookupStart at e
  injection e with e
  subst e
  repeat' (first | with_reducible assumption | with_reducible intro _ | with_reducible (first | apply State.live_keeps | apply State.endCharges_keeps | apply State.lookupStart_keeps | apply State.wfqAll_keeps | apply State.Keeps.ite | apply State.Keeps.ite_fst | apply State.Keeps.ite_snd | apply State.Keeps.foldl) | split)

theorem execReceptionEnd_keeps (s t : State) (n : Fin 24) (ends : List (Fin 24)) (e : execReceptionEnd n ends s = .next t) : s.Keeps t := by
  have h := State.Keeps.refl s
  unfold execReceptionEnd at e
  injection e with e
  subst e
  repeat' (first | with_reducible assumption | with_reducible intro _ | with_reducible (first | apply State.live_keeps | apply State.pairTake_keeps | apply State.endCharges_keeps | apply State.recEnd_keeps | apply State.wfqAll_keeps | apply State.Keeps.ite | apply State.Keeps.ite_fst | apply State.Keeps.ite_snd | apply State.Keeps.foldl) | split)

theorem execRecirculateEntry_keeps (s t : State) (corr : Fin 64) (bad : Option (Fin 64)) (e : execRecirculateEntry corr bad s = .next t) : s.Keeps t := by
  have h := State.Keeps.refl s
  unfold execRecirculateEntry at e
  injection e with e
  subst e
  repeat' (first | with_reducible assumption | with_reducible intro _ | with_reducible (first | apply State.live_keeps | apply State.recirculate_keeps | apply State.Keeps.ite | apply State.Keeps.ite_fst | apply State.Keeps.ite_snd | apply State.Keeps.foldl) | split)

theorem execEgressSelect_keeps (s t : State) (n : Fin 28) (edge : Fin 4) (corr : Fin 64) (bad : Option (Fin 64)) (saBad : BitVec 4) (e : execEgressSelect n edge corr bad saBad s = .next t) : s.Keeps t := by
  have h := State.Keeps.refl s
  unfold execEgressSelect at e
  injection e with e
  subst e
  repeat' (first | with_reducible assumption | with_reducible intro _ | with_reducible (first | apply State.live_keeps | apply State.egressSelect_keeps | apply State.Keeps.ite | apply State.Keeps.ite_fst | apply State.Keeps.ite_snd | apply State.Keeps.foldl) | split)

theorem execFrameTransmitted_keeps (s t : State) (n : Fin 28) (desc : List Byte) (e : execFrameTransmitted n desc s = .next t) : s.Keeps t := by
  have h := State.Keeps.refl s
  unfold execFrameTransmitted at e
  injection e with e
  subst e
  repeat' (first | with_reducible assumption | intro _ | with_reducible (first | apply State.live_keeps | apply State.transmitted_keeps  | apply State.Keeps.ite | apply State.Keeps.foldl) | split)

theorem execLaunchTimeReached_keeps (s t : State) (n : Fin 28) (e : execLaunchTimeReached n s = .next t) : s.Keeps t := by
  have h := State.Keeps.refl s
  unfold execLaunchTimeReached at e
  injection e with e
  subst e
  repeat' (first | with_reducible assumption | intro _ | with_reducible (first | apply State.live_keeps | apply State.wfqAll_keeps | apply State.launchReached_keeps  | apply State.Keeps.ite | apply State.Keeps.foldl) | split)

theorem execResidenceDeadline_keeps (s t : State) (n : Fin 28) (e : execResidenceDeadline n s = .next t) : s.Keeps t := by
  have h := State.Keeps.refl s
  unfold execResidenceDeadline at e
  injection e with e
  subst e
  repeat' (first | with_reducible assumption | intro _ | with_reducible (first | apply State.live_keeps | apply State.wfqAll_keeps | apply State.residence_keeps  | apply State.Keeps.ite | apply State.Keeps.foldl) | split)

theorem execSpill_keeps (s t : State) (n : Fin 28) (tc : Fin 8) (corr : Fin 64) (bad : Option (Fin 64)) (e : execSpill n tc corr bad s = .next t) : s.Keeps t := by
  have h := State.Keeps.refl s
  unfold execSpill at e
  injection e with e
  subst e
  repeat' (first | with_reducible assumption | with_reducible intro _ | with_reducible (first | apply State.live_keeps | apply State.spill_keeps | apply State.Keeps.ite | apply State.Keeps.ite_fst | apply State.Keeps.ite_snd | apply State.Keeps.foldl) | split)

theorem execRefill_keeps (s t : State) (n : Fin 28) (tc : Fin 8) (bad : Bool) (e : execRefill n tc bad s = .next t) : s.Keeps t := by
  have h := State.Keeps.refl s
  unfold execRefill at e
  injection e with e
  subst e
  repeat' (first | with_reducible assumption | intro _ | with_reducible (first | apply State.live_keeps | apply State.refill_keeps  | apply State.Keeps.ite | apply State.Keeps.foldl) | split)

theorem execMeterBurstWrite_keeps (s t : State) (i : Fin 3) (p : Fin 2) (m : Fin 2048) (v : BitVec 32) (e : execMeterBurstWrite i p m v s = .next t) : s.Keeps t := by
  have h := State.Keeps.refl s
  unfold execMeterBurstWrite at e
  injection e with e
  subst e
  repeat' (first | with_reducible assumption | intro _ | with_reducible (first | apply State.live_keeps | apply State.poke_keeps  | apply State.Keeps.ite | apply State.Keeps.foldl) | split)

theorem execPreemptVerifyDone_keeps (s t : State) (n : Fin 12) (ok : Bool) (e : execPreemptVerifyDone n ok s = .next t) : s.Keeps t := by
  have h := State.Keeps.refl s
  unfold execPreemptVerifyDone at e
  injection e with e
  subst e
  repeat' (first | with_reducible assumption | intro _ | with_reducible (first | apply State.live_keeps | apply State.preempt_keeps | apply State.setF_keeps | apply State.raise_keeps  | apply State.Keeps.ite | apply State.Keeps.foldl) | split)

theorem execTemplateWrite_keeps (s t : State) (i : Fin 3) (a : BitVec 32) (v : BitVec 32) (e : execTemplateWrite i a v s = .next t) : s.Keeps t := by
  have h := State.Keeps.refl s
  unfold execTemplateWrite at e
  injection e with e
  subst e
  repeat' (first | with_reducible assumption | intro _ | with_reducible (first | apply State.live_keeps | apply State.poke_keeps  | apply State.Keeps.ite | apply State.Keeps.foldl) | split)

theorem execDpRecomputeDone_keeps (s t : State) (p : Fin 2) (b : Fin 2) (e : execDpRecomputeDone p b s = .next t) : s.Keeps t := by
  have h := State.Keeps.refl s
  unfold execDpRecomputeDone at e
  injection e with e
  subst e
  repeat' (first | with_reducible assumption | intro _ | with_reducible (first | apply State.live_keeps | apply State.dpRecompute_keeps  | apply State.Keeps.ite | apply State.Keeps.foldl) | split)

theorem execRuleWindowWrite_keeps (s t : State) (i : Fin 3) (a : BitVec 32) (w : Fin 4) (v : BitVec 64) (e : execRuleWindowWrite i a w v s = .next t) : s.Keeps t := by
  have h := State.Keeps.refl s
  unfold execRuleWindowWrite at e
  injection e with e
  subst e
  repeat' (first | with_reducible assumption | intro _ | with_reducible (first | apply State.live_keeps | apply State.busWrite_keeps  | apply State.Keeps.ite | apply State.Keeps.foldl) | split)

theorem execBankSwapRequest_keeps (s t : State) (i : Fin 3) (p : Fin 2) (e : execBankSwapRequest i p s = .next t) : s.Keeps t := by
  have h := State.Keeps.refl s
  unfold execBankSwapRequest at e
  injection e with e
  subst e
  repeat' (first | with_reducible assumption | intro _ | with_reducible (first | apply State.live_keeps | apply State.poke_keeps  | apply State.Keeps.ite | apply State.Keeps.foldl) | split)

theorem execDrainDone_keeps (s t : State) (p : Fin 2) (e : execDrainDone p s = .next t) : s.Keeps t := by
  have h := State.Keeps.refl s
  unfold execDrainDone at e
  injection e with e
  subst e
  repeat' (first | with_reducible assumption | intro _ | with_reducible (first | apply State.live_keeps | apply State.drainDone_keeps  | apply State.Keeps.ite | apply State.Keeps.foldl) | split)

theorem execRuleParityScan_keeps (s t : State) (p : Fin 2) (b : Fin 2) (e : Fin 2304) (bad : Bool) (e : execRuleParityScan p b e bad s = .next t) : s.Keeps t := by
  have h := State.Keeps.refl s
  unfold execRuleParityScan at e
  injection e with e
  subst e
  repeat' (first | with_reducible assumption | intro _ | with_reducible (first | apply State.live_keeps | apply State.ruleParity_keeps  | apply State.Keeps.ite | apply State.Keeps.foldl) | split)

theorem execRuleCountFrameRead_keeps (s t : State) (i : Fin 3) (p : Fin 2) (c : Fin 2048) (e : execRuleCountFrameRead i p c s = .next t) : s.Keeps t := by
  have h := State.Keeps.refl s
  unfold execRuleCountFrameRead at e
  injection e with e
  subst e
  repeat' (first | with_reducible assumption | intro _ | with_reducible (first | apply State.live_keeps | apply State.busRead_keeps  | apply State.Keeps.ite | apply State.Keeps.foldl) | split)

theorem execRuleCountByteRead_keeps (s t : State) (i : Fin 3) (p : Fin 2) (c : Fin 2048) (wide : Bool) (e : execRuleCountByteRead i p c wide s = .next t) : s.Keeps t := by
  have h := State.Keeps.refl s
  unfold execRuleCountByteRead at e
  injection e with e
  subst e
  repeat' (first | with_reducible assumption | intro _ | with_reducible (first | apply State.live_keeps | apply State.busRead_keeps  | apply State.Keeps.ite | apply State.Keeps.foldl) | split)

theorem execRuleCountClear_keeps (s t : State) (i : Fin 3) (p : Fin 2) (c : Fin 2048) (v : BitVec 64) (e : execRuleCountClear i p c v s = .next t) : s.Keeps t := by
  have h := State.Keeps.refl s
  unfold execRuleCountClear at e
  injection e with e
  subst e
  repeat' (first | with_reducible assumption | intro _ | with_reducible (first | apply State.live_keeps | apply State.busWrite_keeps  | apply State.Keeps.ite | apply State.Keeps.foldl) | split)

theorem execFdbInsert_keeps (s t : State) (i : Fin 3) (p : Fin 2) (arg : BitVec 16) (e : execFdbInsert i p arg s = .next t) : s.Keeps t := by
  have h := State.Keeps.refl s
  unfold execFdbInsert at e
  injection e with e
  subst e
  repeat' (first | with_reducible assumption | intro _ | with_reducible (first | apply State.live_keeps | apply State.request_keeps  | apply State.Keeps.ite | apply State.Keeps.foldl) | split)

theorem execFdbDelete_keeps (s t : State) (i : Fin 3) (p : Fin 2) (arg : BitVec 16) (e : execFdbDelete i p arg s = .next t) : s.Keeps t := by
  have h := State.Keeps.refl s
  unfold execFdbDelete at e
  injection e with e
  subst e
  repeat' (first | with_reducible assumption | intro _ | with_reducible (first | apply State.live_keeps | apply State.request_keeps  | apply State.Keeps.ite | apply State.Keeps.foldl) | split)

theorem execFdbSearch_keeps (s t : State) (i : Fin 3) (p : Fin 2) (arg : BitVec 16) (e : execFdbSearch i p arg s = .next t) : s.Keeps t := by
  have h := State.Keeps.refl s
  unfold execFdbSearch at e
  injection e with e
  subst e
  repeat' (first | with_reducible assumption | intro _ | with_reducible (first | apply State.live_keeps | apply State.request_keeps  | apply State.Keeps.ite | apply State.Keeps.foldl) | split)

theorem execFdbReadSlot_keeps (s t : State) (i : Fin 3) (p : Fin 2) (arg : BitVec 16) (e : execFdbReadSlot i p arg s = .next t) : s.Keeps t := by
  have h := State.Keeps.refl s
  unfold execFdbReadSlot at e
  injection e with e
  subst e
  repeat' (first | with_reducible assumption | intro _ | with_reducible (first | apply State.live_keeps | apply State.request_keeps  | apply State.Keeps.ite | apply State.Keeps.foldl) | split)

theorem execFdbFlush_keeps (s t : State) (i : Fin 3) (p : Fin 2) (arg : BitVec 16) (e : execFdbFlush i p arg s = .next t) : s.Keeps t := by
  have h := State.Keeps.refl s
  unfold execFdbFlush at e
  injection e with e
  subst e
  repeat' (first | with_reducible assumption | intro _ | with_reducible (first | apply State.live_keeps | apply State.request_keeps  | apply State.Keeps.ite | apply State.Keeps.foldl) | split)

theorem execFlwInsert_keeps (s t : State) (i : Fin 3) (p : Fin 2) (arg : BitVec 16) (e : execFlwInsert i p arg s = .next t) : s.Keeps t := by
  have h := State.Keeps.refl s
  unfold execFlwInsert at e
  injection e with e
  subst e
  repeat' (first | with_reducible assumption | intro _ | with_reducible (first | apply State.live_keeps | apply State.request_keeps  | apply State.Keeps.ite | apply State.Keeps.foldl) | split)

theorem execFlwDelete_keeps (s t : State) (i : Fin 3) (p : Fin 2) (arg : BitVec 16) (e : execFlwDelete i p arg s = .next t) : s.Keeps t := by
  have h := State.Keeps.refl s
  unfold execFlwDelete at e
  injection e with e
  subst e
  repeat' (first | with_reducible assumption | intro _ | with_reducible (first | apply State.live_keeps | apply State.request_keeps  | apply State.Keeps.ite | apply State.Keeps.foldl) | split)

theorem execFlwSearch_keeps (s t : State) (i : Fin 3) (p : Fin 2) (arg : BitVec 16) (e : execFlwSearch i p arg s = .next t) : s.Keeps t := by
  have h := State.Keeps.refl s
  unfold execFlwSearch at e
  injection e with e
  subst e
  repeat' (first | with_reducible assumption | intro _ | with_reducible (first | apply State.live_keeps | apply State.request_keeps  | apply State.Keeps.ite | apply State.Keeps.foldl) | split)

theorem execFlwReadSlot_keeps (s t : State) (i : Fin 3) (p : Fin 2) (arg : BitVec 16) (e : execFlwReadSlot i p arg s = .next t) : s.Keeps t := by
  have h := State.Keeps.refl s
  unfold execFlwReadSlot at e
  injection e with e
  subst e
  repeat' (first | with_reducible assumption | intro _ | with_reducible (first | apply State.live_keeps | apply State.request_keeps  | apply State.Keeps.ite | apply State.Keeps.foldl) | split)

theorem execLearnApply_keeps (s t : State) (p : Fin 2) (e : execLearnApply p s = .next t) : s.Keeps t := by
  have h := State.Keeps.refl s
  unfold execLearnApply at e
  injection e with e
  subst e
  repeat' (first | with_reducible assumption | intro _ | with_reducible (first | apply State.live_keeps | apply State.learnApply_keeps  | apply State.Keeps.ite | apply State.Keeps.foldl) | split)

theorem execLearnNotifyRead_keeps (s t : State) (i : Fin 3) (p : Fin 2) (e : execLearnNotifyRead i p s = .next t) : s.Keeps t := by
  have h := State.Keeps.refl s
  unfold execLearnNotifyRead at e
  injection e with e
  subst e
  repeat' (first | with_reducible assumption | intro _ | with_reducible (first | apply State.live_keeps | apply State.busRead_keeps  | apply State.Keeps.ite | apply State.Keeps.foldl) | split)

theorem execMoveWindowEnd_keeps (s t : State) (p : Fin 2) (loc : Fin 32768) (e : execMoveWindowEnd p loc s = .next t) : s.Keeps t := by
  have h := State.Keeps.refl s
  unfold execMoveWindowEnd at e
  injection e with e
  subst e
  repeat' (first | with_reducible assumption | intro _ | with_reducible (first | apply State.live_keeps | apply State.moveWindowEnd_keeps  | apply State.Keeps.ite | apply State.Keeps.foldl) | split)

theorem execFreezeEnd_keeps (s t : State) (p : Fin 2) (loc : Fin 32768) (e : execFreezeEnd p loc s = .next t) : s.Keeps t := by
  have h := State.Keeps.refl s
  unfold execFreezeEnd at e
  injection e with e
  subst e
  repeat' (first | with_reducible assumption | intro _ | with_reducible (first | apply State.live_keeps | apply State.freezeEnd_keeps  | apply State.Keeps.ite | apply State.Keeps.foldl) | split)

theorem execAgingVisit_keeps (s t : State) (p : Fin 2) (e : execAgingVisit p s = .next t) : s.Keeps t := by
  have h := State.Keeps.refl s
  unfold execAgingVisit at e
  injection e with e
  subst e
  repeat' (first | with_reducible assumption | intro _ | with_reducible (first | apply State.live_keeps | apply State.agingVisit_keeps  | apply State.Keeps.ite | apply State.Keeps.foldl) | split)

theorem execTableParityScan_keeps (s t : State) (p : Fin 2) (flow : Bool) (bad : Bool) (loc : Fin 32768) (e : execTableParityScan p flow bad loc s = .next t) : s.Keeps t := by
  have h := State.Keeps.refl s
  unfold execTableParityScan at e
  injection e with e
  subst e
  repeat' (first | with_reducible assumption | intro _ | with_reducible (first | apply State.live_keeps | apply State.flwParity_keeps | apply State.fdbParity_keeps  | apply State.Keeps.ite | apply State.Keeps.foldl) | split)

theorem execSectagComplete_keeps (s t : State) (n : Fin 24) (bad : Bool) (e : execSectagComplete n bad s = .next t) : s.Keeps t := by
  have h := State.Keeps.refl s
  unfold execSectagComplete at e
  injection e with e
  subst e
  repeat' (first | with_reducible assumption | intro _ | with_reducible (first | apply State.live_keeps | apply State.secTag_keeps  | apply State.Keeps.ite | apply State.Keeps.foldl) | split)

theorem execMacsecVerdict_keeps (s t : State) (n : Fin 24) (e : execMacsecVerdict n s = .next t) : s.Keeps t := by
  have h := State.Keeps.refl s
  unfold execMacsecVerdict at e
  injection e with e
  subst e
  repeat' (first | with_reducible assumption | intro _ | with_reducible (first | apply State.live_keeps | apply State.wfqAll_keeps | apply State.pairTake_keeps | apply State.secVerdict_keeps  | apply State.Keeps.ite | apply State.Keeps.foldl) | split)

theorem execSaInstall_keeps (s t : State) (i : Fin 3) (arg : BitVec 16) (e : execSaInstall i arg s = .next t) : s.Keeps t := by
  have h := State.Keeps.refl s
  unfold execSaInstall at e
  injection e with e
  subst e
  repeat' (first | with_reducible assumption | intro _ | with_reducible (first | apply State.live_keeps | apply State.request_keeps  | apply State.Keeps.ite | apply State.Keeps.foldl) | split)

theorem execSaBind_keeps (s t : State) (i : Fin 3) (arg : BitVec 16) (e : execSaBind i arg s = .next t) : s.Keeps t := by
  have h := State.Keeps.refl s
  unfold execSaBind at e
  injection e with e
  subst e
  repeat' (first | with_reducible assumption | intro _ | with_reducible (first | apply State.live_keeps | apply State.request_keeps  | apply State.Keeps.ite | apply State.Keeps.foldl) | split)

theorem execSaRetire_keeps (s t : State) (i : Fin 3) (arg : BitVec 16) (e : execSaRetire i arg s = .next t) : s.Keeps t := by
  have h := State.Keeps.refl s
  unfold execSaRetire at e
  injection e with e
  subst e
  repeat' (first | with_reducible assumption | intro _ | with_reducible (first | apply State.live_keeps | apply State.request_keeps  | apply State.Keeps.ite | apply State.Keeps.foldl) | split)

theorem execSetLowestPn_keeps (s t : State) (i : Fin 3) (arg : BitVec 16) (e : execSetLowestPn i arg s = .next t) : s.Keeps t := by
  have h := State.Keeps.refl s
  unfold execSetLowestPn at e
  injection e with e
  subst e
  repeat' (first | with_reducible assumption | intro _ | with_reducible (first | apply State.live_keeps | apply State.request_keeps  | apply State.Keeps.ite | apply State.Keeps.foldl) | split)

theorem execSaRetireDone_keeps (s t : State) (k : Fin 512) (e : execSaRetireDone k s = .next t) : s.Keeps t := by
  have h := State.Keeps.refl s
  unfold execSaRetireDone at e
  injection e with e
  subst e
  repeat' (first | with_reducible assumption | intro _ | with_reducible (first | apply State.live_keeps | apply State.saRetired_keeps  | apply State.Keeps.ite | apply State.Keeps.foldl) | split)

theorem execSaStatusRead_keeps (s t : State) (i : Fin 3) (arg : BitVec 16) (e : execSaStatusRead i arg s = .next t) : s.Keeps t := by
  have h := State.Keeps.refl s
  unfold execSaStatusRead at e
  injection e with e
  subst e
  repeat' (first | with_reducible assumption | intro _ | with_reducible (first | apply State.live_keeps | apply State.request_keeps  | apply State.Keeps.ite | apply State.Keeps.foldl) | split)

theorem execMacsecMibRead_keeps (s t : State) (i : Fin 3) (arg : BitVec 16) (e : execMacsecMibRead i arg s = .next t) : s.Keeps t := by
  have h := State.Keeps.refl s
  unfold execMacsecMibRead at e
  injection e with e
  subst e
  repeat' (first | with_reducible assumption | intro _ | with_reducible (first | apply State.live_keeps | apply State.request_keeps  | apply State.Keeps.ite | apply State.Keeps.foldl) | split)

theorem execMacsecMibReadClear_keeps (s t : State) (i : Fin 3) (arg : BitVec 16) (e : execMacsecMibReadClear i arg s = .next t) : s.Keeps t := by
  have h := State.Keeps.refl s
  unfold execMacsecMibReadClear at e
  injection e with e
  subst e
  repeat' (first | with_reducible assumption | intro _ | with_reducible (first | apply State.live_keeps | apply State.request_keeps  | apply State.Keeps.ite | apply State.Keeps.foldl) | split)

theorem execAlarmIn_keeps (s t : State) (e : execAlarmIn s = .next t) : s.Keeps t := by
  have h := State.Keeps.refl s
  unfold execAlarmIn at e
  injection e with e
  subst e
  repeat' (first | with_reducible assumption | intro _ | with_reducible (first | apply State.alarmActive_keeps  | apply State.Keeps.ite | apply State.Keeps.foldl) | split)

theorem execSupplyGlitch_keeps (s t : State) (e : execSupplyGlitch s = .next t) : s.Keeps t := by
  have h := State.Keeps.refl s
  unfold execSupplyGlitch at e
  injection e with e
  subst e
  repeat' (first | with_reducible assumption | intro _ | with_reducible (first | apply State.alarmActive_keeps  | apply State.Keeps.ite | apply State.Keeps.foldl) | split)

theorem execClockMonitorAlarm_keeps (s t : State) (e : execClockMonitorAlarm s = .next t) : s.Keeps t := by
  have h := State.Keeps.refl s
  unfold execClockMonitorAlarm at e
  injection e with e
  subst e
  repeat' (first | with_reducible assumption | intro _ | with_reducible (first | apply State.alarmActive_keeps  | apply State.Keeps.ite | apply State.Keeps.foldl) | split)

theorem execSoftwareErase_keeps (s t : State) (i : Fin 3) (e : execSoftwareErase i s = .next t) : s.Keeps t := by
  have h := State.Keeps.refl s
  unfold execSoftwareErase at e
  injection e with e
  subst e
  repeat' (first | with_reducible assumption | intro _ | with_reducible (first | apply State.live_keeps | apply State.poke_keeps  | apply State.Keeps.ite | apply State.Keeps.foldl) | split)

theorem execEraseDone_keeps (s t : State) (bad : Option (Fin 16)) (e : execEraseDone bad s = .next t) : s.Keeps t := by
  have h := State.Keeps.refl s
  unfold execEraseDone at e
  injection e with e
  subst e
  repeat' (first | with_reducible assumption | with_reducible intro _ | with_reducible (first | apply State.live_keeps | apply State.eraseDone_keeps | apply State.Keeps.ite | apply State.Keeps.ite_fst | apply State.Keeps.ite_snd | apply State.Keeps.foldl) | split)

theorem execAlarmLatchClear_keeps (s t : State) (i : Fin 3) (e : execAlarmLatchClear i s = .next t) : s.Keeps t := by
  have h := State.Keeps.refl s
  unfold execAlarmLatchClear at e
  injection e with e
  subst e
  repeat' (first | with_reducible assumption | intro _ | with_reducible (first | apply State.live_keeps | apply State.poke_keeps  | apply State.Keeps.ite | apply State.Keeps.foldl) | split)

theorem execCjobCmacGenerate_keeps (s t : State) (e : execCjobCmacGenerate s = .next t) : s.Keeps t := by
  have h := State.Keeps.refl s
  unfold execCjobCmacGenerate at e
  injection e with e
  subst e
  repeat' (first | with_reducible assumption | intro _ | with_reducible (first | apply State.live_keeps | apply State.jobStart_keeps  | apply State.Keeps.ite | apply State.Keeps.foldl) | split)

theorem execCjobCmacVerify_keeps (s t : State) (e : execCjobCmacVerify s = .next t) : s.Keeps t := by
  have h := State.Keeps.refl s
  unfold execCjobCmacVerify at e
  injection e with e
  subst e
  repeat' (first | with_reducible assumption | intro _ | with_reducible (first | apply State.live_keeps | apply State.jobStart_keeps  | apply State.Keeps.ite | apply State.Keeps.foldl) | split)

theorem execCjobGcmEncrypt_keeps (s t : State) (e : execCjobGcmEncrypt s = .next t) : s.Keeps t := by
  have h := State.Keeps.refl s
  unfold execCjobGcmEncrypt at e
  injection e with e
  subst e
  repeat' (first | with_reducible assumption | intro _ | with_reducible (first | apply State.live_keeps | apply State.jobStart_keeps  | apply State.Keeps.ite | apply State.Keeps.foldl) | split)

theorem execCjobGcmDecrypt_keeps (s t : State) (e : execCjobGcmDecrypt s = .next t) : s.Keeps t := by
  have h := State.Keeps.refl s
  unfold execCjobGcmDecrypt at e
  injection e with e
  subst e
  repeat' (first | with_reducible assumption | intro _ | with_reducible (first | apply State.live_keeps | apply State.jobStart_keeps  | apply State.Keeps.ite | apply State.Keeps.foldl) | split)

theorem execCjobKeyUnwrap_keeps (s t : State) (e : execCjobKeyUnwrap s = .next t) : s.Keeps t := by
  have h := State.Keeps.refl s
  unfold execCjobKeyUnwrap at e
  injection e with e
  subst e
  repeat' (first | with_reducible assumption | intro _ | with_reducible (first | apply State.live_keeps | apply State.jobStart_keeps  | apply State.Keeps.ite | apply State.Keeps.foldl) | split)

theorem execCjobComplete_keeps (s t : State) (j : Fin 1024) (bad : Bool) (e : execCjobComplete j bad s = .next t) : s.Keeps t := by
  have h := State.Keeps.refl s
  unfold execCjobComplete at e
  injection e with e
  subst e
  repeat' (first | with_reducible assumption | with_reducible intro _ | with_reducible (first | apply State.live_keeps | apply State.jobDone_keeps | apply State.Keeps.ite | apply State.Keeps.ite_fst | apply State.Keeps.ite_snd | apply State.Keeps.foldl) | split)

theorem execPortEnable_keeps (s t : State) (i : Fin 3) (n : Fin 24) (v : BitVec 32) (e : execPortEnable i n v s = .next t) : s.Keeps t := by
  have h := State.Keeps.refl s
  unfold execPortEnable at e
  injection e with e
  subst e
  repeat' (first | with_reducible assumption | intro _ | with_reducible (first | apply State.live_keeps | apply State.poke_keeps  | apply State.Keeps.ite | apply State.Keeps.foldl) | split)

theorem execPortDisable_keeps (s t : State) (i : Fin 3) (n : Fin 24) (v : BitVec 32) (e : execPortDisable i n v s = .next t) : s.Keeps t := by
  have h := State.Keeps.refl s
  unfold execPortDisable at e
  injection e with e
  subst e
  repeat' (first | with_reducible assumption | intro _ | with_reducible (first | apply State.live_keeps | apply State.poke_keeps  | apply State.Keeps.ite | apply State.Keeps.foldl) | split)

theorem execRxPathChange_keeps (s t : State) (n : Fin 24) (lock : Bool) (lf : Bool) (rf : Bool) (e : execRxPathChange n lock lf rf s = .next t) : s.Keeps t := by
  have h := State.Keeps.refl s
  unfold execRxPathChange at e
  injection e with e
  subst e
  repeat' (first | with_reducible assumption | intro _ | with_reducible (first | apply State.live_keeps | apply State.rxPath_keeps  | apply State.Keeps.ite | apply State.Keeps.foldl) | split)

theorem execLinkUp_keeps (s t : State) (n : Fin 24) (e : execLinkUp n s = .next t) : s.Keeps t := by
  have h := State.Keeps.refl s
  unfold execLinkUp at e
  injection e with e
  subst e
  repeat' (first | with_reducible assumption | intro _ | with_reducible (first | apply State.live_keeps | apply State.linkGoesUp_keeps  | apply State.Keeps.ite | apply State.Keeps.foldl) | split)

theorem execLinkDown_keeps (s t : State) (n : Fin 24) (e : execLinkDown n s = .next t) : s.Keeps t := by
  have h := State.Keeps.refl s
  unfold execLinkDown at e
  injection e with e
  subst e
  repeat' (first | with_reducible assumption | intro _ | with_reducible (first | apply State.live_keeps | apply State.linkGoesDown_keeps  | apply State.Keeps.ite | apply State.Keeps.foldl) | split)

theorem execInbandWord_keeps (s t : State) (n : Fin 24) (w : BitVec 16) (e : execInbandWord n w s = .next t) : s.Keeps t := by
  have h := State.Keeps.refl s
  unfold execInbandWord at e
  injection e with e
  subst e
  repeat' (first | with_reducible assumption | intro _ | with_reducible (first | apply State.live_keeps | apply State.inband_keeps  | apply State.Keeps.ite | apply State.Keeps.foldl) | split)

theorem execPlcaBeacon_keeps (s t : State) (k : Fin 4) (e : execPlcaBeacon k s = .next t) : s.Keeps t := by
  have h := State.Keeps.refl s
  unfold execPlcaBeacon at e
  injection e with e
  subst e
  repeat' (first | with_reducible assumption | intro _ | with_reducible (first | apply State.live_keeps | apply State.plcaBeacon_keeps  | apply State.Keeps.ite | apply State.Keeps.foldl) | split)

theorem execPlcaTimeout_keeps (s t : State) (k : Fin 4) (e : execPlcaTimeout k s = .next t) : s.Keeps t := by
  have h := State.Keeps.refl s
  unfold execPlcaTimeout at e
  injection e with e
  subst e
  repeat' (first | with_reducible assumption | intro _ | with_reducible (first | apply State.live_keeps | apply State.plcaTimeout_keeps  | apply State.Keeps.ite | apply State.Keeps.foldl) | split)

theorem execCollision_keeps (s t : State) (k : Fin 4) (e : execCollision k s = .next t) : s.Keeps t := by
  have h := State.Keeps.refl s
  unfold execCollision at e
  injection e with e
  subst e
  repeat' (first | with_reducible assumption | intro _ | with_reducible (first | apply State.live_keeps | apply State.collision_keeps  | apply State.Keeps.ite | apply State.Keeps.foldl) | split)

theorem execC22Write_keeps (s t : State) (i : Fin 3) (arg : BitVec 16) (e : execC22Write i arg s = .next t) : s.Keeps t := by
  have h := State.Keeps.refl s
  unfold execC22Write at e
  injection e with e
  subst e
  repeat' (first | with_reducible assumption | intro _ | with_reducible (first | apply State.live_keeps | apply State.request_keeps  | apply State.Keeps.ite | apply State.Keeps.foldl) | split)

theorem execC22Read_keeps (s t : State) (i : Fin 3) (arg : BitVec 16) (e : execC22Read i arg s = .next t) : s.Keeps t := by
  have h := State.Keeps.refl s
  unfold execC22Read at e
  injection e with e
  subst e
  repeat' (first | with_reducible assumption | intro _ | with_reducible (first | apply State.live_keeps | apply State.request_keeps  | apply State.Keeps.ite | apply State.Keeps.foldl) | split)

theorem execC45Address_keeps (s t : State) (i : Fin 3) (arg : BitVec 16) (e : execC45Address i arg s = .next t) : s.Keeps t := by
  have h := State.Keeps.refl s
  unfold execC45Address at e
  injection e with e
  subst e
  repeat' (first | with_reducible assumption | intro _ | with_reducible (first | apply State.live_keeps | apply State.request_keeps  | apply State.Keeps.ite | apply State.Keeps.foldl) | split)

theorem execC45Write_keeps (s t : State) (i : Fin 3) (arg : BitVec 16) (e : execC45Write i arg s = .next t) : s.Keeps t := by
  have h := State.Keeps.refl s
  unfold execC45Write at e
  injection e with e
  subst e
  repeat' (first | with_reducible assumption | intro _ | with_reducible (first | apply State.live_keeps | apply State.request_keeps  | apply State.Keeps.ite | apply State.Keeps.foldl) | split)

theorem execC45Read_keeps (s t : State) (i : Fin 3) (arg : BitVec 16) (e : execC45Read i arg s = .next t) : s.Keeps t := by
  have h := State.Keeps.refl s
  unfold execC45Read at e
  injection e with e
  subst e
  repeat' (first | with_reducible assumption | intro _ | with_reducible (first | apply State.live_keeps | apply State.request_keeps  | apply State.Keeps.ite | apply State.Keeps.foldl) | split)

theorem execC45ReadIncrement_keeps (s t : State) (i : Fin 3) (arg : BitVec 16) (e : execC45ReadIncrement i arg s = .next t) : s.Keeps t := by
  have h := State.Keeps.refl s
  unfold execC45ReadIncrement at e
  injection e with e
  subst e
  repeat' (first | with_reducible assumption | intro _ | with_reducible (first | apply State.live_keeps | apply State.request_keeps  | apply State.Keeps.ite | apply State.Keeps.foldl) | split)

theorem execC45IndirectRead_keeps (s t : State) (i : Fin 3) (arg : BitVec 16) (e : execC45IndirectRead i arg s = .next t) : s.Keeps t := by
  have h := State.Keeps.refl s
  unfold execC45IndirectRead at e
  injection e with e
  subst e
  repeat' (first | with_reducible assumption | intro _ | with_reducible (first | apply State.live_keeps | apply State.request_keeps  | apply State.Keeps.ite | apply State.Keeps.foldl) | split)

theorem execC45IndirectWrite_keeps (s t : State) (i : Fin 3) (arg : BitVec 16) (e : execC45IndirectWrite i arg s = .next t) : s.Keeps t := by
  have h := State.Keeps.refl s
  unfold execC45IndirectWrite at e
  injection e with e
  subst e
  repeat' (first | with_reducible assumption | intro _ | with_reducible (first | apply State.live_keeps | apply State.request_keeps  | apply State.Keeps.ite | apply State.Keeps.foldl) | split)

theorem execMdioOpDone_keeps (s t : State) (data : BitVec 16) (resp : Bool) (again : Bool) (e : execMdioOpDone data resp again s = .next t) : s.Keeps t := by
  have h := State.Keeps.refl s
  unfold execMdioOpDone at e
  injection e with e
  subst e
  repeat' (first | with_reducible assumption | intro _ | with_reducible (first | apply State.live_keeps | apply State.mdioDone_keeps  | apply State.Keeps.ite | apply State.Keeps.foldl) | split)

theorem execPortMibRead_keeps (s t : State) (i : Fin 3) (arg : BitVec 16) (e : execPortMibRead i arg s = .next t) : s.Keeps t := by
  have h := State.Keeps.refl s
  unfold execPortMibRead at e
  injection e with e
  subst e
  repeat' (first | with_reducible assumption | intro _ | with_reducible (first | apply State.live_keeps | apply State.request_keeps  | apply State.Keeps.ite | apply State.Keeps.foldl) | split)

theorem execPortMibReadClear_keeps (s t : State) (i : Fin 3) (arg : BitVec 16) (e : execPortMibReadClear i arg s = .next t) : s.Keeps t := by
  have h := State.Keeps.refl s
  unfold execPortMibReadClear at e
  injection e with e
  subst e
  repeat' (first | with_reducible assumption | intro _ | with_reducible (first | apply State.live_keeps | apply State.request_keeps  | apply State.Keeps.ite | apply State.Keeps.foldl) | split)

theorem execRingEnable_keeps (s t : State) (i : Fin 3) (g : Fin 4) (r : Fin 16) (v : BitVec 32) (e : execRingEnable i g r v s = .next t) : s.Keeps t := by
  have h := State.Keeps.refl s
  unfold execRingEnable at e
  injection e with e
  subst e
  repeat' (first | with_reducible assumption | intro _ | with_reducible (first | apply State.live_keeps | apply State.poke_keeps  | apply State.Keeps.ite | apply State.Keeps.foldl) | split)

theorem execRingDisable_keeps (s t : State) (i : Fin 3) (g : Fin 4) (r : Fin 16) (v : BitVec 32) (e : execRingDisable i g r v s = .next t) : s.Keeps t := by
  have h := State.Keeps.refl s
  unfold execRingDisable at e
  injection e with e
  subst e
  repeat' (first | with_reducible assumption | intro _ | with_reducible (first | apply State.live_keeps | apply State.poke_keeps  | apply State.Keeps.ite | apply State.Keeps.foldl) | split)

theorem execTxDescriptor_keeps (s t : State) (r : Fin 20) (d buf : List Byte) (e : execTxDescriptor r d buf s = .next t) : s.Keeps t := by
  have h := State.Keeps.refl s
  unfold execTxDescriptor at e
  split at e
  · injection e with e; subst e; exact State.live_keeps h (State.txDesc_keeps h _ _ _ _)
  · injection e with e; subst e; exact State.live_keeps h (State.txCarr_keeps h _)

theorem execDmaError_keeps (s t : State) (g : Fin 4) (r : Fin 16) (wr : Bool) (err : Option (Fin 32)) (e : execDmaError g r wr err s = .next t) : s.Keeps t := by
  have h := State.Keeps.refl s
  unfold execDmaError at e
  split at e
  · injection e with e; subst e; exact State.live_keeps h (State.dmaError_keeps h _ _ _ _)
  · cases e

theorem execPcieLinkChange_keeps (s t : State) (g : Fin 5) (aer : Option (Fin 32)) (e : execPcieLinkChange g aer s = .next t) : s.Keeps t := by
  have h := State.Keeps.refl s
  unfold execPcieLinkChange at e
  injection e with e
  subst e
  repeat' (first | with_reducible assumption | with_reducible intro _ | with_reducible (first | apply State.live_keeps | apply State.pcieLink_keeps | apply State.Keeps.ite | apply State.Keeps.ite_fst | apply State.Keeps.ite_snd | apply State.Keeps.foldl) | split)

theorem execCanFrameReceived_keeps (s t : State) (c : Fin 24) (fmt : Fin 3) (ide rtr brs esi : Bool) (ident : BitVec 29) (dlc : BitVec 4) (data : List Byte) (sdt vcid : BitVec 8) (sec : BitVec 1) (af : BitVec 32) (err : Bool) (back : BitVec 32) (e : execCanFrameReceived c fmt ide rtr brs esi ident dlc data sdt vcid sec af err back s = .next t) : s.Keeps t := by
  have h := State.Keeps.refl s
  unfold execCanFrameReceived at e
  dsimp only at e
  split at e
  · injection e with e; subst e; exact State.canFrame_keeps h _ _
  · cases e

theorem execCanTransmit_keeps (s t : State) (c : Fin 24) (lost : Bool) (e : execCanTransmit c lost s = .next t) : s.Keeps t := by
  have h := State.Keeps.refl s
  unfold execCanTransmit at e
  injection e with e
  subst e
  repeat' (first | with_reducible assumption | intro _ | with_reducible (first | apply State.canTransmit_keeps  | apply State.Keeps.ite | apply State.Keeps.foldl) | split)

theorem execCanBusError_keeps (s t : State) (c : Fin 24) (kind : Fin 4) (e : execCanBusError c kind s = .next t) : s.Keeps t := by
  have h := State.Keeps.refl s
  unfold execCanBusError at e
  injection e with e
  subst e
  repeat' (first | with_reducible assumption | intro _ | with_reducible (first | apply State.canBusError_keeps  | apply State.Keeps.ite | apply State.Keeps.foldl) | split)

theorem execBusOffRecovery_keeps (s t : State) (c : Fin 24) (e : execBusOffRecovery c s = .next t) : s.Keeps t := by
  have h := State.Keeps.refl s
  unfold execBusOffRecovery at e
  injection e with e
  subst e
  repeat' (first | with_reducible assumption | intro _ | with_reducible (first | apply State.canRecessive_keeps  | apply State.Keeps.ite | apply State.Keeps.foldl) | split)

theorem execCanRestart_keeps (s t : State) (i : Fin 3) (c : Fin 24) (e : execCanRestart i c s = .next t) : s.Keeps t := by
  have h := State.Keeps.refl s
  unfold execCanRestart at e
  injection e with e
  subst e
  repeat' (first | with_reducible assumption | intro _ | with_reducible (first | apply State.live_keeps | apply State.poke_keeps  | apply State.Keeps.ite | apply State.Keeps.foldl) | split)

theorem execCanRequestTransmit_keeps (s t : State) (i : Fin 3) (c : Fin 24) (b : Fin 64) (e : execCanRequestTransmit i c b s = .next t) : s.Keeps t := by
  have h := State.Keeps.refl s
  unfold execCanRequestTransmit at e
  injection e with e
  subst e
  repeat' (first | with_reducible assumption | intro _ | with_reducible (first | apply State.live_keeps | apply State.poke_keeps  | apply State.Keeps.ite | apply State.Keeps.foldl) | split)

theorem execCanAbortTransmit_keeps (s t : State) (i : Fin 3) (c : Fin 24) (b : Fin 64) (e : execCanAbortTransmit i c b s = .next t) : s.Keeps t := by
  have h := State.Keeps.refl s
  unfold execCanAbortTransmit at e
  injection e with e
  subst e
  repeat' (first | with_reducible assumption | intro _ | with_reducible (first | apply State.live_keeps | apply State.poke_keeps  | apply State.Keeps.ite | apply State.Keeps.foldl) | split)

theorem execCanReleaseBuffer_keeps (s t : State) (i : Fin 3) (c : Fin 24) (b : Fin 64) (e : execCanReleaseBuffer i c b s = .next t) : s.Keeps t := by
  have h := State.Keeps.refl s
  unfold execCanReleaseBuffer at e
  injection e with e
  subst e
  repeat' (first | with_reducible assumption | intro _ | with_reducible (first | apply State.live_keeps | apply State.poke_keeps  | apply State.Keeps.ite | apply State.Keeps.foldl) | split)

theorem execCanDisable_keeps (s t : State) (i : Fin 3) (c : Fin 24) (v : BitVec 32) (e : execCanDisable i c v s = .next t) : s.Keeps t := by
  have h := State.Keeps.refl s
  unfold execCanDisable at e
  injection e with e
  subst e
  repeat' (first | with_reducible assumption | intro _ | with_reducible (first | apply State.live_keeps | apply State.poke_keeps  | apply State.Keeps.ite | apply State.Keeps.foldl) | split)

theorem execLinSlot_keeps (s t : State) (l : Fin 8) (data : List Byte) (sum : BitVec 8) (err : Fin 6) (e : execLinSlot l data sum err s = .next t) : s.Keeps t := by
  have h := State.Keeps.refl s
  unfold execLinSlot at e
  injection e with e
  subst e
  repeat' (first | with_reducible assumption | with_reducible intro _ | with_reducible (first | apply State.linSlot_keeps | apply State.Keeps.ite | apply State.Keeps.ite_fst | apply State.Keeps.ite_snd | apply State.Keeps.foldl) | split)

theorem execLinHeaderReceived_keeps (s t : State) (l : Fin 8) (ident : Fin 64) (data : List Byte) (sum : BitVec 8) (err : Fin 6) (brk : Fin 64) (rate : BitVec 16) (e : execLinHeaderReceived l ident data sum err brk rate s = .next t) : s.Keeps t := by
  have h := State.Keeps.refl s
  unfold execLinHeaderReceived at e
  injection e with e
  subst e
  repeat' (first | with_reducible assumption | with_reducible intro _ | with_reducible (first | apply State.linHeader_keeps | apply State.Keeps.ite | apply State.Keeps.ite_fst | apply State.Keeps.ite_snd | apply State.Keeps.foldl) | split)

theorem execBatchTimeout_keeps (s t : State) (b : Fin 32) (e : execBatchTimeout b s = .next t) : s.Keeps t := by
  have h := State.Keeps.refl s
  unfold execBatchTimeout at e
  injection e with e
  subst e
  repeat' (first | with_reducible assumption | intro _ | with_reducible (first | apply State.live_keeps | apply State.batchTimeout_keeps  | apply State.Keeps.ite | apply State.Keeps.foldl) | split)

theorem execBatchInject_keeps (s t : State) (e : execBatchInject s = .next t) : s.Keeps t := by
  have h := State.Keeps.refl s
  unfold execBatchInject at e
  injection e with e
  subst e
  repeat' (first | with_reducible assumption | intro _ | with_reducible (first | apply State.live_keeps | apply State.batchInject_keeps  | apply State.Keeps.ite | apply State.Keeps.foldl) | split)

theorem execBatchConfigure_keeps (s t : State) (i : Fin 3) (arg : BitVec 16) (e : execBatchConfigure i arg s = .next t) : s.Keeps t := by
  have h := State.Keeps.refl s
  unfold execBatchConfigure at e
  injection e with e
  subst e
  repeat' (first | with_reducible assumption | intro _ | with_reducible (first | apply State.live_keeps | apply State.request_keeps  | apply State.Keeps.ite | apply State.Keeps.foldl) | split)

theorem execRxStreamConfigure_keeps (s t : State) (i : Fin 3) (arg : BitVec 16) (e : execRxStreamConfigure i arg s = .next t) : s.Keeps t := by
  have h := State.Keeps.refl s
  unfold execRxStreamConfigure at e
  injection e with e
  subst e
  repeat' (first | with_reducible assumption | intro _ | with_reducible (first | apply State.live_keeps | apply State.request_keeps  | apply State.Keeps.ite | apply State.Keeps.foldl) | split)

theorem execGwPoolWrite_keeps (s t : State) (i : Fin 3) (v : BitVec 32) (e : execGwPoolWrite i v s = .next t) : s.Keeps t := by
  have h := State.Keeps.refl s
  unfold execGwPoolWrite at e
  injection e with e
  subst e
  repeat' (first | with_reducible assumption | intro _ | with_reducible (first | apply State.live_keeps | apply State.poke_keeps  | apply State.Keeps.ite | apply State.Keeps.foldl) | split)

theorem execCarrTransactionCompare_keeps (s t : State) (a : CarrTx) (b : CarrTx) (c : CarrTx) (fault : Fin 5) (ecc : Fin 3) (bank : Fin 16) (e : execCarrTransactionCompare a b c fault ecc bank s = .next t) : s.Keeps t := by
  have h1 := State.carrVote_keeps (State.Keeps.refl s) a b c fault.val
  unfold execCarrTransactionCompare at e
  dsimp only at e
  split at e
  · injection e with e; subst e; exact State.release_keeps h1 _ _ _
  · injection e with e; subst e; exact h1

theorem execWindowClose_keeps (s t : State) (e : execWindowClose s = .next t) : s.Keeps t := by
  have h := State.Keeps.refl s
  unfold execWindowClose at e
  injection e with e
  subst e
  repeat' (first | with_reducible assumption | with_reducible intro _ | with_reducible (first | apply State.windowEnd_keeps | apply State.Keeps.ite | apply State.Keeps.ite_fst | apply State.Keeps.ite_snd | apply State.Keeps.foldl) | split)

theorem execResyncSelftestDone_keeps (s t : State) (ok : Bool) (e : execResyncSelftestDone ok s = .next t) : s.Keeps t := by
  have h := State.Keeps.refl s
  unfold execResyncSelftestDone at e
  injection e with e
  subst e
  repeat' (first | with_reducible assumption | intro _ | with_reducible (first | apply State.live_keeps | apply State.resyncTest_keeps  | apply State.Keeps.ite | apply State.Keeps.foldl) | split)

theorem execResyncStall_keeps (s t : State) (e : execResyncStall s = .next t) : s.Keeps t := by
  have h := State.Keeps.refl s
  unfold execResyncStall at e
  injection e with e
  subst e
  repeat' (first | with_reducible assumption | intro _ | with_reducible (first | apply State.live_keeps | apply State.resyncStall_keeps  | apply State.Keeps.ite | apply State.Keeps.foldl) | split)

theorem execInjectionTest_keeps (s t : State) (ok : Bool) (e : execInjectionTest ok s = .next t) : s.Keeps t := by
  have h := State.Keeps.refl s
  unfold execInjectionTest at e
  injection e with e
  subst e
  repeat' (first | with_reducible assumption | intro _ | with_reducible (first | apply State.injection_keeps  | apply State.Keeps.ite | apply State.Keeps.foldl) | split)

theorem execChkptWrite_keeps (s t : State) (machine : Bool) (a b c : List (BitVec 64)) (e : execChkptWrite machine a b c s = .next t) : s.Keeps t := by
  have h := State.Keeps.refl s
  unfold execChkptWrite at e
  split at e
  · injection e with e; subst e; exact State.Keeps.ite (State.chkptWrite_keeps h _ _ _) h
  · cases e

theorem execDoorbell_keeps (s t : State) (i : Fin 3) (v : BitVec 32) (e : execDoorbell i v s = .next t) : s.Keeps t := by
  have h := State.Keeps.refl s
  unfold execDoorbell at e
  injection e with e
  subst e
  repeat' (first | with_reducible assumption | intro _ | with_reducible (first | apply State.live_keeps | apply State.poke_keeps  | apply State.Keeps.ite | apply State.Keeps.foldl) | split)

theorem execMemTraining_keeps (s t : State) (temp : BitVec 9) (ok : Bool) (e : execMemTraining temp ok s = .next t) : s.Keeps t := by
  have h := State.Keeps.refl s
  unfold execMemTraining at e
  injection e with e
  subst e
  repeat' (first | with_reducible assumption | intro _ | with_reducible (first | apply State.live_keeps | apply State.memTrain_keeps  | apply State.Keeps.ite | apply State.Keeps.foldl) | split)

theorem execMemScrub_keeps (s t : State) (addr : BitVec 27) (err : Fin 3) (e : execMemScrub addr err s = .next t) : s.Keeps t := by
  have h := State.Keeps.refl s
  unfold execMemScrub at e
  injection e with e
  subst e
  repeat' (first | with_reducible assumption | intro _ | with_reducible (first | apply State.live_keeps | apply State.memScrub_keeps  | apply State.Keeps.ite | apply State.Keeps.foldl) | split)

theorem execRecoveryReset_keeps (s t : State) (k : Fin 1024) (e : execRecoveryReset k s = .next t) : s.Keeps t := by
  have h := State.Keeps.refl s
  unfold execRecoveryReset at e
  injection e with e
  subst e
  repeat' (first | with_reducible assumption | intro _ | with_reducible (first | apply State.live_keeps | apply State.frReset_keeps  | apply State.Keeps.ite | apply State.Keeps.foldl) | split)

theorem execLatentTest_keeps (s t : State) (k : Fin 1024) (e : execLatentTest k s = .next t) : s.Keeps t := by
  have h := State.Keeps.refl s
  unfold execLatentTest at e
  injection e with e
  subst e
  repeat' (first | with_reducible assumption | intro _ | with_reducible (first | apply State.live_keeps | apply State.latTest_keeps  | apply State.Keeps.ite | apply State.Keeps.foldl) | split)

theorem execLatentBaselineReset_keeps (s t : State) (k : Fin 1024) (e : execLatentBaselineReset k s = .next t) : s.Keeps t := by
  have h := State.Keeps.refl s
  unfold execLatentBaselineReset at e
  injection e with e
  subst e
  repeat' (first | with_reducible assumption | intro _ | with_reducible (first | apply State.live_keeps | apply State.latBase_keeps  | apply State.Keeps.ite | apply State.Keeps.foldl) | split)

theorem execStreamCountersRead_keeps (s t : State) (i : Fin 3) (arg : BitVec 16) (e : execStreamCountersRead i arg s = .next t) : s.Keeps t := by
  have h := State.Keeps.refl s
  unfold execStreamCountersRead at e
  injection e with e
  subst e
  repeat' (first | with_reducible assumption | intro _ | with_reducible (first | apply State.live_keeps | apply State.request_keeps  | apply State.Keeps.ite | apply State.Keeps.foldl) | split)

theorem execStreamCountersReadClear_keeps (s t : State) (i : Fin 3) (arg : BitVec 16) (e : execStreamCountersReadClear i arg s = .next t) : s.Keeps t := by
  have h := State.Keeps.refl s
  unfold execStreamCountersReadClear at e
  injection e with e
  subst e
  repeat' (first | with_reducible assumption | intro _ | with_reducible (first | apply State.live_keeps | apply State.request_keeps  | apply State.Keeps.ite | apply State.Keeps.foldl) | split)

theorem execPairEnable_keeps (s t : State) (i : Fin 3) (v : BitVec 32) (e : execPairEnable i v s = .next t) : s.Keeps t := by
  have h := State.Keeps.refl s
  unfold execPairEnable at e
  injection e with e
  subst e
  repeat' (first | with_reducible assumption | intro _ | with_reducible (first | apply State.live_keeps | apply State.pokeGuarded_keeps  | apply State.Keeps.ite | apply State.Keeps.foldl) | split)

theorem execPairDisable_keeps (s t : State) (i : Fin 3) (v : BitVec 32) (e : execPairDisable i v s = .next t) : s.Keeps t := by
  have h := State.Keeps.refl s
  unfold execPairDisable at e
  injection e with e
  subst e
  repeat' (first | with_reducible assumption | intro _ | with_reducible (first | apply State.live_keeps | apply State.pokeGuarded_keeps  | apply State.Keeps.ite | apply State.Keeps.foldl) | split)

theorem execHeartbeatInterval_keeps (s t : State) (e : execHeartbeatInterval s = .next t) : s.Keeps t := by
  have h := State.Keeps.refl s
  unfold execHeartbeatInterval at e
  injection e with e
  subst e
  repeat' (first | with_reducible assumption | intro _ | with_reducible (first | apply State.live_keeps | apply State.heartbeat_keeps  | apply State.Keeps.ite | apply State.Keeps.foldl) | split)

theorem execHbInPulse_keeps (s t : State) (ns : BitVec 32) (e : execHbInPulse ns s = .next t) : s.Keeps t := by
  have h := State.Keeps.refl s
  unfold execHbInPulse at e
  injection e with e
  subst e
  repeat' (first | with_reducible assumption | intro _ | with_reducible (first | apply State.live_keeps | apply State.hbPulse_keeps  | apply State.Keeps.ite | apply State.Keeps.foldl) | split)

theorem execBusRoleSwitch_keeps (s t : State) (e : execBusRoleSwitch s = .next t) : s.Keeps t := by
  have h := State.Keeps.refl s
  unfold execBusRoleSwitch at e
  injection e with e
  subst e
  repeat' (first | with_reducible assumption | intro _ | with_reducible (first | apply State.live_keeps | apply State.busSwitch_keeps  | apply State.Keeps.ite | apply State.Keeps.foldl) | split)

theorem execPathTimeout_keeps (s t : State) (p : Fin 2) (e : execPathTimeout p s = .next t) : s.Keeps t := by
  have h := State.Keeps.refl s
  unfold execPathTimeout at e
  injection e with e
  subst e
  repeat' (first | with_reducible assumption | intro _ | with_reducible (first | apply State.live_keeps | apply State.pathTimeout_keeps  | apply State.Keeps.ite | apply State.Keeps.foldl) | split)

theorem execStartupWaitExpiry_keeps (s t : State) (e : execStartupWaitExpiry s = .next t) : s.Keeps t := by
  have h := State.Keeps.refl s
  unfold execStartupWaitExpiry at e
  injection e with e
  subst e
  repeat' (first | with_reducible assumption | intro _ | with_reducible (first | apply State.live_keeps | apply State.startupWait_keeps  | apply State.Keeps.ite | apply State.Keeps.foldl) | split)

theorem execHoldOffExpiry_keeps (s t : State) (e : execHoldOffExpiry s = .next t) : s.Keeps t := by
  have h := State.Keeps.refl s
  unfold execHoldOffExpiry at e
  injection e with e
  subst e
  repeat' (first | with_reducible assumption | intro _ | with_reducible (first | apply State.live_keeps | apply State.holdOff_keeps  | apply State.Keeps.ite | apply State.Keeps.foldl) | split)

theorem execHandbackEchoDeadline_keeps (s t : State) (e : execHandbackEchoDeadline s = .next t) : s.Keeps t := by
  have h := State.Keeps.refl s
  unfold execHandbackEchoDeadline at e
  injection e with e
  subst e
  repeat' (first | with_reducible assumption | intro _ | with_reducible (first | apply State.live_keeps | apply State.echoDeadline_keeps  | apply State.Keeps.ite | apply State.Keeps.foldl) | split)

theorem execHandbackInstant_keeps (s t : State) (e : execHandbackInstant s = .next t) : s.Keeps t := by
  have h := State.Keeps.refl s
  unfold execHandbackInstant at e
  injection e with e
  subst e
  repeat' (first | with_reducible assumption | intro _ | with_reducible (first | apply State.live_keeps | apply State.handbackInstant_keeps  | apply State.Keeps.ite | apply State.Keeps.foldl) | split)

theorem execYield_keeps (s t : State) (i : Fin 3) (e : execYield i s = .next t) : s.Keeps t := by
  have h := State.Keeps.refl s
  unfold execYield at e
  injection e with e
  subst e
  repeat' (first | with_reducible assumption | intro _ | with_reducible (first | apply State.live_keeps | apply State.poke_keeps  | apply State.Keeps.ite | apply State.Keeps.foldl) | split)

theorem execStClear_keeps (s t : State) (i : Fin 3) (e : execStClear i s = .next t) : s.Keeps t := by
  have h := State.Keeps.refl s
  unfold execStClear at e
  injection e with e
  subst e
  repeat' (first | with_reducible assumption | intro _ | with_reducible (first | apply State.live_keeps | apply State.poke_keeps  | apply State.Keeps.ite | apply State.Keeps.foldl) | split)

theorem execSelftestItemDone_keeps (s t : State) (item : BitVec 11) (ok : Bool) (e : execSelftestItemDone item ok s = .next t) : s.Keeps t := by
  have h := State.Keeps.refl s
  unfold execSelftestItemDone at e
  injection e with e
  subst e
  repeat' (first | with_reducible assumption | with_reducible intro _ | with_reducible (first | apply State.live_keeps | apply State.itemDone_keeps | apply State.Keeps.ite | apply State.Keeps.ite_fst | apply State.Keeps.ite_snd | apply State.Keeps.foldl) | split)

theorem execHealthReportSend_keeps (s t : State) (e : execHealthReportSend s = .next t) : s.Keeps t := by
  have h := State.Keeps.refl s
  unfold execHealthReportSend at e
  injection e with e
  subst e
  repeat' (first | with_reducible assumption | intro _ | with_reducible (first | apply State.live_keeps | apply State.healthReport_keeps  | apply State.Keeps.ite | apply State.Keeps.foldl) | split)

theorem execReportMissing_keeps (s t : State) (e : execReportMissing s = .next t) : s.Keeps t := by
  have h := State.Keeps.refl s
  unfold execReportMissing at e
  injection e with e
  subst e
  repeat' (first | with_reducible assumption | intro _ | with_reducible (first | apply State.live_keeps | apply State.reportMissing_keeps  | apply State.Keeps.ite | apply State.Keeps.foldl) | split)

theorem execSleepRequest_keeps (s t : State) (i : Fin 3) (e : execSleepRequest i s = .next t) : s.Keeps t := by
  have h := State.Keeps.refl s
  unfold execSleepRequest at e
  injection e with e
  subst e
  repeat' (first | with_reducible assumption | intro _ | with_reducible (first | apply State.live_keeps | apply State.poke_keeps  | apply State.Keeps.ite | apply State.Keeps.foldl) | split)

theorem execParkDone_keeps (s t : State) (i : Fin 3) (wake : Option (Fin 15)) (e : execParkDone i wake s = .next t) : s.Keeps t := by
  have h := State.Keeps.refl s
  unfold execParkDone at e
  injection e with e
  subst e
  repeat' (first | with_reducible assumption | intro _ | with_reducible (first | apply State.live_keeps | apply State.poke_keeps | apply State.wakeLatch_keeps  | apply State.Keeps.ite | apply State.Keeps.foldl) | split)

theorem execPrepTimeout_keeps (s t : State) (wake : Option (Fin 15)) (e : execPrepTimeout wake s = .next t) : s.Keeps t := by
  have h := State.Keeps.refl s
  unfold execPrepTimeout at e
  injection e with e
  subst e
  repeat' (first | with_reducible assumption | intro _ | with_reducible (first | apply State.prepTimeout_keeps | apply State.wakeLatch_keeps  | apply State.Keeps.ite | apply State.Keeps.foldl) | split)

theorem execDescendDone_keeps (s t : State) (e : execDescendDone s = .next t) : s.Keeps t := by
  have h := State.Keeps.refl s
  unfold execDescendDone at e
  injection e with e
  subst e
  repeat' (first | with_reducible assumption | intro _ | with_reducible (first | apply State.descendDone_keeps  | apply State.Keeps.ite | apply State.Keeps.foldl) | split)

theorem execWakeInPin_keeps (s t : State) (k : Fin 4) (level : Bool) (held : BitVec 16) (e : execWakeInPin k level held s = .next t) : s.Keeps t := by
  have h := State.Keeps.refl s
  unfold execWakeInPin at e
  injection e with e
  subst e
  repeat' (first | with_reducible assumption | intro _ | with_reducible (first | apply State.wakeInPin_keeps  | apply State.Keeps.ite | apply State.Keeps.foldl) | split)

theorem execWupDetect_keeps (s t : State) (k : Fin 4) (e : execWupDetect k s = .next t) : s.Keeps t := by
  have h := State.Keeps.refl s
  unfold execWupDetect at e
  injection e with e
  subst e
  repeat' (first | with_reducible assumption | intro _ | with_reducible (first | apply State.wupDetect_keeps  | apply State.Keeps.ite | apply State.Keeps.foldl) | split)

theorem execAonTimerExpiry_keeps (s t : State) (e : execAonTimerExpiry s = .next t) : s.Keeps t := by
  have h := State.Keeps.refl s
  unfold execAonTimerExpiry at e
  injection e with e
  subst e
  repeat' (first | with_reducible assumption | intro _ | with_reducible (first | apply State.aonTimer_keeps  | apply State.Keeps.ite | apply State.Keeps.foldl) | split)

theorem execWakeNow_keeps (s t : State) (i : Fin 3) (e : execWakeNow i s = .next t) : s.Keeps t := by
  have h := State.Keeps.refl s
  unfold execWakeNow at e
  injection e with e
  subst e
  repeat' (first | with_reducible assumption | intro _ | with_reducible (first | apply State.live_keeps | apply State.poke_keeps  | apply State.Keeps.ite | apply State.Keeps.foldl) | split)

theorem execWakePowerGood_keeps (s t : State) (e : execWakePowerGood s = .next t) : s.Keeps t := by
  have h := State.Keeps.refl s
  unfold execWakePowerGood at e
  injection e with e
  subst e
  repeat' (first | with_reducible assumption | intro _ | with_reducible (first | apply State.powerGood_keeps  | apply State.Keeps.ite | apply State.Keeps.foldl) | split)

theorem execWakePllLocked_keeps (s t : State) (e : execWakePllLocked s = .next t) : s.Keeps t := by
  have h := State.Keeps.refl s
  unfold execWakePllLocked at e
  injection e with e
  subst e
  repeat' (first | with_reducible assumption | intro _ | with_reducible (first | apply State.pllLocked_keeps  | apply State.Keeps.ite | apply State.Keeps.foldl) | split)

theorem execWakePipelinesReady_keeps (s t : State) (e : execWakePipelinesReady s = .next t) : s.Keeps t := by
  have h := State.Keeps.refl s
  unfold execWakePipelinesReady at e
  injection e with e
  subst e
  repeat' (first | with_reducible assumption | intro _ | with_reducible (first | apply State.pipesReady_keeps  | apply State.Keeps.ite | apply State.Keeps.foldl) | split)

theorem execCarrResume_keeps (s t : State) (ecc : Bool) (e : execCarrResume ecc s = .next t) : s.Keeps t := by
  have h := State.Keeps.refl s
  unfold execCarrResume at e
  injection e with e
  subst e
  repeat' (first | with_reducible assumption | intro _ | with_reducible (first | apply State.carrResume_keeps  | apply State.Keeps.ite | apply State.Keeps.foldl) | split)

theorem execPartialMaskWrite_keeps (s t : State) (i : Fin 3) (bus : Bool) (v : BitVec 32) (e : execPartialMaskWrite i bus v s = .next t) : s.Keeps t := by
  have h := State.Keeps.refl s
  unfold execPartialMaskWrite at e
  injection e with e
  subst e
  repeat' (first | with_reducible assumption | intro _ | with_reducible (first | apply State.live_keeps | apply State.poke_keeps  | apply State.Keeps.ite | apply State.Keeps.foldl) | split)

theorem execWakeValid_keeps (s t : State) (i : Fin 3) (e : execWakeValid i s = .next t) : s.Keeps t := by
  have h := State.Keeps.refl s
  unfold execWakeValid at e
  injection e with e
  subst e
  repeat' (first | with_reducible assumption | intro _ | with_reducible (first | apply State.live_keeps | apply State.poke_keeps  | apply State.Keeps.ite | apply State.Keeps.foldl) | split)

theorem execWispWindowEnd_keeps (s t : State) (e : execWispWindowEnd s = .next t) : s.Keeps t := by
  have h := State.Keeps.refl s
  unfold execWispWindowEnd at e
  injection e with e
  subst e
  repeat' (first | with_reducible assumption | intro _ | with_reducible (first | apply State.wispEnd_keeps  | apply State.Keeps.ite | apply State.Keeps.foldl) | split)

theorem execWispBackoffEnd_keeps (s t : State) (k : Fin 15) (e : execWispBackoffEnd k s = .next t) : s.Keeps t := by
  have h := State.Keeps.refl s
  unfold execWispBackoffEnd at e
  injection e with e
  subst e
  repeat' (first | with_reducible assumption | intro _ | with_reducible (first | apply State.wispUnmask_keeps  | apply State.Keeps.ite | apply State.Keeps.foldl) | split)

theorem execOffRequest_keeps (s t : State) (i : Fin 3) (e : execOffRequest i s = .next t) : s.Keeps t := by
  have h := State.Keeps.refl s
  unfold execOffRequest at e
  injection e with e
  subst e
  repeat' (first | with_reducible assumption | intro _ | with_reducible (first | apply State.live_keeps | apply State.poke_keeps  | apply State.Keeps.ite | apply State.Keeps.foldl) | split)

theorem execPowerOnReset_keeps (s t : State) (aon : Bool) (e : execPowerOnReset aon s = .next t) : s.Keeps t := by
  have h := State.Keeps.refl s
  unfold execPowerOnReset at e
  injection e with e
  subst e
  repeat' (first | with_reducible assumption | intro _ | with_reducible (first | apply State.devReset_keeps  | apply State.Keeps.ite | apply State.Keeps.foldl) | split)

theorem execPinReset_keeps (s t : State) (len : BitVec 32) (e : execPinReset len s = .next t) : s.Keeps t := by
  have h := State.Keeps.refl s
  unfold execPinReset at e
  injection e with e
  subst e
  repeat' (first | with_reducible assumption | intro _ | with_reducible (first | apply State.fresh_keeps | apply State.devReset_keeps  | apply State.Keeps.ite | apply State.Keeps.foldl) | split)

theorem execDeviceReset_keeps (s t : State) (i : Fin 3) (e : execDeviceReset i s = .next t) : s.Keeps t := by
  have h := State.Keeps.refl s
  unfold execDeviceReset at e
  injection e with e
  subst e
  repeat' (first | with_reducible assumption | intro _ | with_reducible (first | apply State.live_keeps | apply State.pokeGuarded_keeps  | apply State.Keeps.ite | apply State.Keeps.foldl) | split)

theorem execCarrReset_keeps (s t : State) (jtag : Bool) (i : Fin 3) (e : execCarrReset jtag i s = .next t) : s.Keeps t := by
  have h := State.Keeps.refl s
  unfold execCarrReset at e
  injection e with e
  subst e
  repeat' (first | with_reducible assumption | intro _ | with_reducible (first | apply State.live_keeps | apply State.carrReset_keeps | apply State.denied_keeps | apply State.pokeGuarded_keeps  | apply State.Keeps.ite | apply State.Keeps.foldl) | split)

theorem execPcieReset_keeps (s t : State) (hot : Bool) (e : execPcieReset hot s = .next t) : s.Keeps t := by
  have h := State.Keeps.refl s
  unfold execPcieReset at e
  injection e with e
  subst e
  repeat' (first | with_reducible assumption | intro _ | with_reducible (first | apply State.pcieReset_keeps  | apply State.Keeps.ite | apply State.Keeps.foldl) | split)

theorem execResetRelease_keeps (s t : State) (mode : Fin 4) (e : execResetRelease mode s = .next t) : s.Keeps t := by
  have h := State.Keeps.refl s
  unfold execResetRelease at e
  injection e with e
  subst e
  repeat' (first | with_reducible assumption | intro _ | with_reducible (first | apply State.resetRelease_keeps  | apply State.Keeps.ite | apply State.Keeps.foldl) | split)

theorem execBootVerifyDone_keeps (s t : State) (e : execBootVerifyDone s = .next t) : s.Keeps t := by
  have h := State.Keeps.refl s
  unfold execBootVerifyDone at e
  injection e with e
  subst e
  repeat' (first | with_reducible assumption | intro _ | with_reducible (first | apply State.bootVerify_keeps  | apply State.Keeps.ite | apply State.Keeps.foldl) | split)

theorem execHostGo_keeps (s t : State) (i : Fin 3) (e : execHostGo i s = .next t) : s.Keeps t := by
  have h := State.Keeps.refl s
  unfold execHostGo at e
  injection e with e
  subst e
  repeat' (first | with_reducible assumption | intro _ | with_reducible (first | apply State.live_keeps | apply State.poke_keeps  | apply State.Keeps.ite | apply State.Keeps.foldl) | split)

theorem execUartBootBlock_keeps (s t : State) (data : List Byte) (crc : BitVec 32) (e : execUartBootBlock data crc s = .next t) : s.Keeps t := by
  have h := State.Keeps.refl s
  unfold execUartBootBlock at e
  injection e with e
  subst e
  repeat' (first | with_reducible assumption | intro _ | with_reducible (first | apply State.uartBlock_keeps  | apply State.Keeps.ite | apply State.Keeps.foldl) | split)

theorem execLoadDone_keeps (s t : State) (i : Fin 3) (e : execLoadDone i s = .next t) : s.Keeps t := by
  have h := State.Keeps.refl s
  unfold execLoadDone at e
  injection e with e
  subst e
  repeat' (first | with_reducible assumption | intro _ | with_reducible (first | apply State.live_keeps | apply State.poke_keeps  | apply State.Keeps.ite | apply State.Keeps.foldl) | split)

theorem execInstallerSessionTimeout_keeps (s t : State) (e : execInstallerSessionTimeout s = .next t) : s.Keeps t := by
  have h := State.Keeps.refl s
  unfold execInstallerSessionTimeout at e
  injection e with e
  subst e
  repeat' (first | with_reducible assumption | intro _ | with_reducible (first | apply State.bootSessTimeout_keeps  | apply State.Keeps.ite | apply State.Keeps.foldl) | split)

theorem execBvGo_keeps (s t : State) (i : Fin 3) (e : execBvGo i s = .next t) : s.Keeps t := by
  have h := State.Keeps.refl s
  unfold execBvGo at e
  injection e with e
  subst e
  repeat' (first | with_reducible assumption | intro _ | with_reducible (first | apply State.live_keeps | apply State.poke_keeps  | apply State.Keeps.ite | apply State.Keeps.foldl) | split)

theorem execUpdNoteWrite_keeps (s t : State) (i : Fin 3) (v : BitVec 32) (e : execUpdNoteWrite i v s = .next t) : s.Keeps t := by
  have h := State.Keeps.refl s
  unfold execUpdNoteWrite at e
  injection e with e
  subst e
  repeat' (first | with_reducible assumption | intro _ | with_reducible (first | apply State.live_keeps | apply State.poke_keeps  | apply State.Keeps.ite | apply State.Keeps.foldl) | split)

theorem execFlashErase_keeps (s t : State) (i : Fin 3) (arg : BitVec 16) (e : execFlashErase i arg s = .next t) : s.Keeps t := by
  have h := State.Keeps.refl s
  unfold execFlashErase at e
  injection e with e
  subst e
  repeat' (first | with_reducible assumption | intro _ | with_reducible (first | apply State.live_keeps | apply State.request_keeps  | apply State.Keeps.ite | apply State.Keeps.foldl) | split)

theorem execFlashProgram_keeps (s t : State) (i : Fin 3) (arg : BitVec 16) (e : execFlashProgram i arg s = .next t) : s.Keeps t := by
  have h := State.Keeps.refl s
  unfold execFlashProgram at e
  injection e with e
  subst e
  repeat' (first | with_reducible assumption | intro _ | with_reducible (first | apply State.live_keeps | apply State.request_keeps  | apply State.Keeps.ite | apply State.Keeps.foldl) | split)

theorem execFlashOpDone_keeps (s t : State) (ok : Bool) (again : Bool) (e : execFlashOpDone ok again s = .next t) : s.Keeps t := by
  have h := State.Keeps.refl s
  unfold execFlashOpDone at e
  injection e with e
  subst e
  repeat' (first | with_reducible assumption | intro _ | with_reducible (first | apply State.flashDone_keeps  | apply State.Keeps.ite | apply State.Keeps.foldl) | split)

theorem execRailOutOfRange_keeps (s t : State) (k : Fin 10) (ovl : Bool) (e : execRailOutOfRange k ovl s = .next t) : s.Keeps t := by
  have h := State.Keeps.refl s
  unfold execRailOutOfRange at e
  injection e with e
  subst e
  repeat' (first | with_reducible assumption | intro _ | with_reducible (first | apply State.railOut_keeps  | apply State.Keeps.ite | apply State.Keeps.foldl) | split)

theorem execTempWarn_keeps (s t : State) (k : Fin 8) (x : BitVec 10) (e : execTempWarn k x s = .next t) : s.Keeps t := by
  have h := State.Keeps.refl s
  unfold execTempWarn at e
  injection e with e
  subst e
  exact State.live_keeps h (State.tempRise_keeps h _ _)

theorem execTempCrit_keeps (s t : State) (k : Fin 8) (x : BitVec 10) (e : execTempCrit k x s = .next t) : s.Keeps t := by
  have h := State.Keeps.refl s
  unfold execTempCrit at e
  injection e with e
  subst e
  exact State.live_keeps h (State.tempRise_keeps h _ _)

theorem execSensorFault_keeps (s t : State) (k : Fin 8) (e : execSensorFault k s = .next t) : s.Keeps t := by
  have h := State.Keeps.refl s
  unfold execSensorFault at e
  injection e with e
  subst e
  repeat' (first | with_reducible assumption | intro _ | with_reducible (first | apply State.live_keeps | apply State.raise_keeps  | apply State.Keeps.ite | apply State.Keeps.foldl) | split)

theorem execTestLogicReset_keeps (s t : State) (e : execTestLogicReset s = .next t) : s.Keeps t := by
  have h := State.Keeps.refl s
  unfold execTestLogicReset at e
  injection e with e
  subst e
  repeat' (first | with_reducible assumption | intro _ | with_reducible (first | apply State.tlr_keeps  | apply State.Keeps.ite | apply State.Keeps.foldl) | split)

theorem execExtest_keeps (s t : State) (pins : BitVec 612) (v : BitVec 612) (e : execExtest pins v s = .next t) : s.Keeps t := by
  have h := State.Keeps.refl s
  unfold execExtest at e
  injection e with e
  subst e
  repeat' (first | with_reducible assumption | intro _ | with_reducible (first | apply State.boundary_keeps  | apply State.Keeps.ite | apply State.Keeps.foldl) | split)

theorem execIdcode_keeps (s t : State) (e : execIdcode s = .next t) : s.Keeps t := by
  have h := State.Keeps.refl s
  unfold execIdcode at e
  injection e with e
  subst e
  repeat' (first | with_reducible assumption | intro _ | with_reducible (first | apply State.jtagRun_keeps | apply State.emit_keeps  | apply State.Keeps.ite | apply State.Keeps.foldl) | split)

theorem execSamplePreload_keeps (s t : State) (pins : BitVec 612) (v : BitVec 612) (e : execSamplePreload pins v s = .next t) : s.Keeps t := by
  have h := State.Keeps.refl s
  unfold execSamplePreload at e
  injection e with e
  subst e
  repeat' (first | with_reducible assumption | intro _ | with_reducible (first | apply State.jtagRun_keeps | apply State.emit_keeps | apply State.setJtag_keeps  | apply State.Keeps.ite | apply State.Keeps.foldl) | split)

theorem execClamp_keeps (s t : State) (e : execClamp s = .next t) : s.Keeps t := by
  have h := State.Keeps.refl s
  unfold execClamp at e
  injection e with e
  subst e
  repeat' (first | with_reducible assumption | intro _ | with_reducible (first | apply State.clampPins_keeps  | apply State.Keeps.ite | apply State.Keeps.foldl) | split)

theorem execHighz_keeps (s t : State) (e : execHighz s = .next t) : s.Keeps t := by
  have h := State.Keeps.refl s
  unfold execHighz at e
  injection e with e
  subst e
  repeat' (first | with_reducible assumption | intro _ | with_reducible (first | apply State.clampPins_keeps  | apply State.Keeps.ite | apply State.Keeps.foldl) | split)

theorem execExtestPulse_keeps (s t : State) (pins : BitVec 612) (v : BitVec 612) (e : execExtestPulse pins v s = .next t) : s.Keeps t := by
  have h := State.Keeps.refl s
  unfold execExtestPulse at e
  injection e with e
  subst e
  repeat' (first | with_reducible assumption | intro _ | with_reducible (first | apply State.boundary_keeps  | apply State.Keeps.ite | apply State.Keeps.foldl) | split)

theorem execExtestTrain_keeps (s t : State) (pins : BitVec 612) (v : BitVec 612) (e : execExtestTrain pins v s = .next t) : s.Keeps t := by
  have h := State.Keeps.refl s
  unfold execExtestTrain at e
  injection e with e
  subst e
  repeat' (first | with_reducible assumption | intro _ | with_reducible (first | apply State.boundary_keeps  | apply State.Keeps.ite | apply State.Keeps.foldl) | split)

theorem execRegAccess_keeps (s t : State) (wr : Bool) (addr : BitVec 31) (v : BitVec 32) (e : execRegAccess wr addr v s = .next t) : s.Keeps t := by
  have h := State.Keeps.refl s
  unfold execRegAccess at e
  injection e with e
  subst e
  repeat' (first | with_reducible assumption | with_reducible intro _ | with_reducible (first | apply State.jtagRun_keeps | apply State.emit_keeps | apply State.writeAt_keeps | apply State.fresh_keeps | apply State.setJtag_keeps | apply State.readAt_keeps | apply State.Keeps.ite | apply State.Keeps.ite_fst | apply State.Keeps.ite_snd | apply State.Keeps.foldl) | split)

theorem execDebug_keeps (s t : State) (k : Fin 9) (halt : Bool) (e : execDebug k halt s = .next t) : s.Keeps t := by
  have h := State.Keeps.refl s
  unfold execDebug at e
  injection e with e
  subst e
  repeat' (first | with_reducible assumption | intro _ | with_reducible (first | apply State.debug_keeps  | apply State.Keeps.ite | apply State.Keeps.foldl) | split)

theorem execMbist_keeps (s t : State) (e : execMbist s = .next t) : s.Keeps t := by
  have h := State.Keeps.refl s
  unfold execMbist at e
  injection e with e
  subst e
  repeat' (first | with_reducible assumption | intro _ | with_reducible (first | apply State.selfTest_keeps  | apply State.Keeps.ite | apply State.Keeps.foldl) | split)

theorem execLbist_keeps (s t : State) (e : execLbist s = .next t) : s.Keeps t := by
  have h := State.Keeps.refl s
  unfold execLbist at e
  injection e with e
  subst e
  repeat' (first | with_reducible assumption | intro _ | with_reducible (first | apply State.selfTest_keeps  | apply State.Keeps.ite | apply State.Keeps.foldl) | split)

theorem execScan_keeps (s t : State) (e : execScan s = .next t) : s.Keeps t := by
  have h := State.Keeps.refl s
  unfold execScan at e
  injection e with e
  subst e
  repeat' (first | with_reducible assumption | intro _ | with_reducible (first | apply State.jtagRun_keeps | apply State.tdoOpen_keeps  | apply State.Keeps.ite | apply State.Keeps.foldl) | split)

theorem execTrim_keeps (s t : State) (w : BitVec 64) (e : execTrim w s = .next t) : s.Keeps t := by
  have h := State.Keeps.refl s
  unfold execTrim at e
  injection e with e
  subst e
  repeat' (first | with_reducible assumption | intro _ | with_reducible (first | apply State.jtagRun_keeps | apply State.tdoOpen_keeps | apply State.setJtag_keeps  | apply State.Keeps.ite | apply State.Keeps.foldl) | split)

theorem execFuse_keeps (s t : State) (w : BitVec 64) (e : execFuse w s = .next t) : s.Keeps t := by
  have h := State.Keeps.refl s
  unfold execFuse at e
  injection e with e
  subst e
  repeat' (first | with_reducible assumption | intro _ | with_reducible (first | apply State.jtagRun_keeps | apply State.tdoOpen_keeps | apply State.setJtag_keeps  | apply State.Keeps.ite | apply State.Keeps.foldl) | split)

theorem execBypass_keeps (s t : State) (e : execBypass s = .next t) : s.Keeps t := by
  have h := State.Keeps.refl s
  unfold execBypass at e
  injection e with e
  subst e
  repeat' (first | with_reducible assumption | intro _ | with_reducible (first | apply State.jtagRun_keeps | apply State.emit_keeps  | apply State.Keeps.ite | apply State.Keeps.foldl) | split)

theorem execPllUnlock_keeps (s t : State) (p : Fin 4) (e : execPllUnlock p s = .next t) : s.Keeps t := by
  have h := State.Keeps.refl s
  unfold execPllUnlock at e
  injection e with e
  subst e
  repeat' (first | with_reducible assumption | intro _ | with_reducible (first | apply State.live_keeps | apply State.raise_keeps  | apply State.Keeps.ite | apply State.Keeps.foldl) | split)

theorem execAlarmSourceInactive_keeps (s t : State) (k : Fin 3) (e : execAlarmSourceInactive k s = .next t) : s.Keeps t := by
  have h := State.Keeps.refl s
  unfold execAlarmSourceInactive at e
  injection e with e
  subst e
  repeat' (first | with_reducible assumption | intro _ | with_reducible (first | apply State.live_keeps | apply State.alarmInactive_keeps  | apply State.Keeps.ite | apply State.Keeps.foldl) | split)

theorem execCanFrameSent_keeps (s t : State) (c : Fin 24) (e : execCanFrameSent c s = .next t) : s.Keeps t := by
  have h := State.Keeps.refl s
  unfold execCanFrameSent at e
  injection e with e
  subst e
  repeat' (first | with_reducible assumption | intro _ | with_reducible (first | apply State.live_keeps | apply State.canSent_keeps  | apply State.Keeps.ite | apply State.Keeps.foldl) | split)

theorem execFlushVisit_keeps (s t : State) (p : Fin 2) (again : Bool) (e : execFlushVisit p again s = .next t) : s.Keeps t := by
  have h := State.Keeps.refl s
  unfold execFlushVisit at e
  injection e with e
  subst e
  repeat' (first | with_reducible assumption | with_reducible intro _ | with_reducible (first | apply State.live_keeps | apply State.flushVisit_keeps | apply State.Keeps.ite | apply State.Keeps.ite_fst | apply State.Keeps.ite_snd | apply State.Keeps.foldl) | split)

theorem execTempClear_keeps (s t : State) (x : BitVec 10) (e : execTempClear x s = .next t) : s.Keeps t := by
  have h := State.Keeps.refl s
  unfold execTempClear at e
  injection e with e
  subst e
  exact State.live_keeps h (State.tempClear_keeps h _)

theorem execRailInRange_keeps (s t : State) (k : Fin 10) (e : execRailInRange k s = .next t) : s.Keeps t := by
  have h := State.Keeps.refl s
  unfold execRailInRange at e
  injection e with e
  subst e
  repeat' (first | with_reducible assumption | intro _ | with_reducible (first | apply State.railIn_keeps  | apply State.Keeps.ite | apply State.Keeps.foldl) | split)

theorem execUartGapTimeout_keeps (s t : State) (e : execUartGapTimeout s = .next t) : s.Keeps t := by
  have h := State.Keeps.refl s
  unfold execUartGapTimeout at e
  injection e with e
  subst e
  repeat' (first | with_reducible assumption | intro _ | with_reducible (first | apply State.uartGap_keeps  | apply State.Keeps.ite | apply State.Keeps.foldl) | split)

theorem execUartBootBeacon_keeps (s t : State) (e : execUartBootBeacon s = .next t) : s.Keeps t := by
  have h := State.Keeps.refl s
  unfold execUartBootBeacon at e
  injection e with e
  subst e
  repeat' (first | with_reducible assumption | intro _ | with_reducible (first | apply State.uartBeacon_keeps  | apply State.Keeps.ite | apply State.Keeps.foldl) | split)

theorem execBistDone_keeps (s t : State) (v : BitVec 32) (e : execBistDone v s = .next t) : s.Keeps t := by
  have h := State.Keeps.refl s
  unfold execBistDone at e
  injection e with e
  subst e
  repeat' (first | with_reducible assumption | intro _ | with_reducible (first | apply State.bistDone_keeps  | apply State.Keeps.ite | apply State.Keeps.foldl) | split)

theorem execPrbsBitError_keeps (s t : State) (n : Fin 20) (sync : Bool) (e : execPrbsBitError n sync s = .next t) : s.Keeps t := by
  have h := State.Keeps.refl s
  unfold execPrbsBitError at e
  injection e with e
  subst e
  repeat' (first | with_reducible assumption | intro _ | with_reducible (first | apply State.live_keeps | apply State.prbsBit_keeps  | apply State.Keeps.ite | apply State.Keeps.foldl) | split)

end Sys2Proof.Machine
end

