-- ==== Sys2Proof/Laws/KeepsMatcher.lean ====
section
/-! SUPPORT. `State.Keeps` for the operations of Machine/Matcher.lean. -/

namespace Sys2Proof.Machine

set_option linter.unusedTactic false
set_option linter.unreachableTactic false

/-- Copies that keep their numbers leave the numbering as it is. -/
theorem State.copies_map_numbered (s : State) (g : Copy → Copy) (hg : ∀ c, (g c).id = c.id) (h : s.Numbered) :
    State.Numbered { s with copies := s.copies.map g } := by
  have he : (s.copies.map g).map (fun (c : Copy) => c.id) = s.copies.map (fun (c : Copy) => c.id) := by
    rw [List.map_map]; exact List.map_congr_left (fun c _ => hg c)
  refine ⟨h.1, ?_, h.2.2.1, ?_⟩
  · intro c hc
    obtain ⟨d, hd, rfl⟩ := List.mem_map.1 hc
    rw [hg]; exact h.2.1 d hd
  · show ((s.copies.map g).map (fun (c : Copy) => c.id)).Nodup
    rw [he]; exact h.2.2.2

theorem State.matchCycle_keeps {s0 s : State} (h : s0.Keeps s) (slice : Nat) (cyc : Nat) :
    s0.Keeps (State.matchCycle s slice cyc) := by
  have go : ∀ (m : MatchSt) (g : Copy → Copy), (∀ c, (g c).id = c.id) →
      s0.Keeps { s with matcher := m, copies := s.copies.map g } := fun m g hg =>
    State.Keeps.copies_upd (State.Keeps.matcher_upd h) (State.copies_map_numbered { s with matcher := m } g hg)
  unfold State.matchCycle
  split
  · exact h
  · refine go _ _ (fun c => ?_)
    split <;> rfl

theorem State.tickMatch_keeps {s0 s : State} (h : s0.Keeps s) :
    s0.Keeps (State.tickMatch s) := by
  unfold State.tickMatch
  try dsimp only
  repeat' (first | with_reducible assumption | with_reducible intro _ | with_reducible (first | apply State.matchCycle_keeps | apply State.Keeps.ite | apply State.Keeps.ite_fst | apply State.Keeps.ite_snd | apply State.Keeps.foldl) | split)

end Sys2Proof.Machine
end

