-- ==== Sys2Proof/Laws/KeepsStep.lean ====
section
/-! SUPPORT. The tick keeps what a command keeps, but for the clock, which it advances by one; and the two forms of a step. -/

namespace Sys2Proof.Machine

/-- The state with the clock one tick on. -/
def State.later (s : State) : State := { s with now := s.now + 1 }

theorem State.Keeps.tick {s u : State} (h : s.Keeps u) : s.later.Keeps u.later :=
  ⟨h.1, by show u.now + 1 = s.now + 1; rw [h.2], h.3, h.4, h.5, h.6, h.7, fun c => { h.8 { c with } with }, h.9⟩

theorem State.countTime_keeps {s u : State} (h : s.Keeps u) : s.later.Keeps u.countTime :=
  State.Keeps.tim_upd h.tick

theorem State.tickTime_keeps {s u : State} (h : s.Keeps u) : s.later.Keeps u.tickTime := by
  unfold State.tickTime
  extract_lets t s1 c s2 s3 x
  have h1 : s.later.Keeps s1 := State.countTime_keeps h
  have h2 : s.later.Keeps s2 := State.Keeps.tim_upd h1
  have h3 : s.later.Keeps s3 :=
    State.alignTick_keeps (State.Keeps.foldl h2 (fun _ _ hu => State.wktAdjusted_keeps hu _))
  exact State.Keeps.tim_upd h3

theorem State.tickAon_keeps (s : State) : s.later.Keeps s.tickAon := by
  have h1 : s.later.Keeps s.later := State.Keeps.refl _
  have h2 : ∀ p, s.later.Keeps { s.later with pwr := p } := fun p => State.Keeps.pwr_upd h1
  unfold State.tickAon State.setPwr
  dsimp only
  split
  · exact h2 _
  · split
    · exact h2 _
    · exact State.setF_keeps (h2 _) _ _ _

theorem State.tickWaking_keeps (s : State) : s.later.Keeps s.tickWaking := by
  have h1 : ∀ w p, s.Keeps { s with wktPrev := w, pwr := p } := fun w p => by
    have h := State.Keeps.wktPrev_upd (x := w) (State.Keeps.refl s)
    exact State.Keeps.pwr_upd h
  unfold State.tickWaking
  exact State.tickTime_keeps (h1 _ _)

theorem State.settle_keeps (s : State) : s.Keeps s.settle := by
  unfold State.settle
  refine State.wktSettle_keeps (State.ppsSettle_keeps (State.pairCheck_keeps (State.fallAll_keeps (State.Keeps.foldl ?_ ?_))))
  · exact State.fireAll_keeps (State.phsSettle_keeps (State.Keeps.refl s)) _
  · exact fun u n hu => State.seqSettle_keeps hu n

theorem State.advance_keeps {s u : State} (h : s.Keeps u) : s.later.Keeps u.advance := by
  have h1 : s.Keeps { u with wktPrev := u.tim.wkt } := State.Keeps.wktPrev_upd h
  unfold State.advance
  generalize ({ u with wktPrev := u.tim.wkt } : State) = w at *
  have h2 := State.tickTime_keeps h1
  generalize w.tickTime = x at *
  exact State.tickWdog_keeps (State.tickPlca_keeps (State.tickMatch_keeps (State.tickSend_keeps
    (State.tickShapers_keeps (State.selectAll_keeps (State.tickPhs_keeps h2))))))

theorem State.tick_keeps (s : State) : s.later.Keeps s.tick := by
  unfold State.tick
  split
  · exact State.Keeps.refl _
  · split
    · exact s.tickAon_keeps
    · split
      · exact s.tickWaking_keeps
      · exact State.advance_keeps s.settle_keeps

theorem step_cases (s : State) : (s.pending = [] ∧ step s = .next s.tick) ∨ ∃ c r, s.pending = c :: r ∧ step s = exec c { s with pending := r } := by
  unfold step
  cases h : s.pending with
  | nil => exact .inl ⟨rfl, rfl⟩
  | cons c r => exact .inr ⟨c, r, rfl, rfl⟩

end Sys2Proof.Machine
end

