-- ==== Sys2Proof/Laws/KeyRows.lean ====
section
/-! SUPPORT. Lemmas about the key commands. -/

namespace Sys2Proof.Machine

theorem key_saAt_setSa (s : State) (k : Nat) (x : SaSlot) (hc : s.Canonical) : (s.setSa k x).saAt k = x := Cells.get_set hc.sa _ _

theorem key_saAt_setSa_ne (s : State) (k j : Nat) (x : SaSlot) (h : j ≠ k) : (s.setSa k x).saAt j = s.saAt j := Cells.get_set_ne _ _ _ _ _ h

theorem key_saAt_congr (u s : State) (k : Nat) (h : u.sa = s.sa) : u.saAt k = s.saAt k := by unfold State.saAt; rw [h]

theorem key_saBound_congr (u s : State) (rx : Bool) (a b : Nat) (h : u.sa = s.sa) : u.saBound rx a b = s.saBound rx a b := by unfold State.saBound; rw [h]

theorem key_keyErr_congr (u s : State) (op arg : Nat) (h1 : u.dw cipKey = s.dw cipKey) (h2 : u.sa = s.sa) (h3 : ∀ a, 0x1800000 ≤ a → a < cipKey → u.hw a = s.hw a) (h4 : (s.saAt (arg % 512)).sc < 128) :
    u.keyErr op arg = s.keyErr op arg := by
  have hl : u.on CIP_ALARM_STAT.a CIP_ALARM_STAT.latched = s.on CIP_ALARM_STAT.a CIP_ALARM_STAT.latched := by unfold State.on State.f; rw [h3 _ (by decide) (by decide)]
  have hr : u.on (CIP_RXSC_CFG.a (nbits (s.dw cipKey 0) 22 16)) CIP_RXSC_CFG.en = s.on (CIP_RXSC_CFG.a (nbits (s.dw cipKey 0) 22 16)) CIP_RXSC_CFG.en := by
    have : nbits (s.dw cipKey 0) 22 16 < 128 := by unfold nbits; exact Nat.mod_lt _ (by decide)
    generalize nbits (s.dw cipKey 0) 22 16 = n at *
    unfold State.on State.f; rw [h3 _ (by unfold CIP_RXSC_CFG.a; omega) (by unfold CIP_RXSC_CFG.a cipKey; omega)]
  have he : u.isEncoding (arg % 512) = s.isEncoding (arg % 512) := by
    unfold State.isEncoding
    have : u.f (CIP_TXSC.a (s.saAt (arg % 512)).sc) CIP_TXSC.enc_an = s.f (CIP_TXSC.a (s.saAt (arg % 512)).sc) CIP_TXSC.enc_an := by
      generalize (s.saAt (arg % 512)).sc = n at *
      unfold State.f; rw [h3 _ (by unfold CIP_TXSC.a; omega) (by unfold CIP_TXSC.a cipKey; omega)]
    rw [key_saAt_congr u s _ h2]
    dsimp only
    rw [this]
  unfold State.keyErr
  dsimp only
  rw [key_saAt_congr u s _ h2, h1, hl, hr, he]

theorem key_ordHw (s : State) (i m op arg a : Nat) (h1 : a ≠ m) (h2 : a ≠ EVT_SRC_STAT.a 60) : (s.ordered i m op arg).hw a = s.hw a := by
  have hr := State.reg_ordered_ne s i m op arg a h1 h2
  obtain ⟨a', b, c, d, pb, h⟩ := State.ordered_same s i m op arg
  unfold State.hw State.parOf
  rw [hr, h]

structure key_KeyReady (s o : State) (op arg : Nat) : Prop where
  canon : o.Canonical
  stat : o.reg (cipKey + 4) = s.reg (cipKey + 4)
  sa : o.sa = s.sa
  dw : o.dw cipKey = s.dw cipKey
  err : o.keyErr op arg = s.keyErr op arg

theorem key_keyReady (s : State) (i op arg : Nat) (hc : s.Canonical) (h4 : (s.saAt (arg % 512)).sc < 128) : key_KeyReady s (s.ordered i cipKey op arg) op arg := by
  have hd : (s.ordered i cipKey op arg).dw cipKey = s.dw cipKey := by
    funext j; unfold State.dw; rw [State.reg_ordered_ne _ _ _ _ _ _ (by unfold mbxData; omega) (by unfold mbxData cipKey EVT_SRC_STAT.a; omega)]
  have hs : (s.ordered i cipKey op arg).sa = s.sa := by obtain ⟨a, b, c, d, pb, h⟩ := State.ordered_same s i cipKey op arg; rw [h]
  refine ⟨State.ordered_canon _ _ _ _ _ hc, State.reg_ordered_ne _ _ _ _ _ _ (by decide) (by decide), hs, hd, key_keyErr_congr _ _ _ _ hd hs (fun a h0 ha => key_ordHw _ _ _ _ _ _ (by omega) (by unfold EVT_SRC_STAT.a; omega)) h4⟩

theorem key_ended_sa (v : State) (n : Nat) (e : Option Nat) : (v.mbxEnd cipKey n e).sa = v.sa := by
  cases e with
  | none => show (v.mbxDone cipKey n).sa = _; rw [State.mbxDone_same]
  | some c => show ((v.mbxDone cipKey n).mbxFail cipKey c).sa = _; rw [State.refused_same]

theorem key_keyReq_none (o s : State) (op arg : Nat) (h : key_KeyReady s o op arg) (he : s.keyErr op arg = none) : o.keyReq op arg = (o.keyDo op arg).mbxEnd cipKey 16 none := by
  unfold State.keyReq; rw [h.err, he]

theorem key_keyReq_some (o s : State) (op arg c : Nat) (h : key_KeyReady s o op arg) (he : s.keyErr op arg = some c) : o.keyReq op arg = (o.mbxDone cipKey 16).mbxFail cipKey c := by
  unfold State.keyReq; rw [h.err, he]; rfl

theorem key_keyDone (s v : State) (hc : v.Canonical) (h : v.reg (cipKey + 4) = s.reg (cipKey + 4)) : (v.mbxEnd cipKey 16 none).Done s cipKey 16 := State.mbxDone_done v s _ _ hc.regs h

theorem key_bind_spec (o : State) (k : Nat) (rx : Bool) (sc an : Nat) (hc : o.Canonical) : (o.saBind k rx sc an).Canonical ∧ (o.saBind k rx sc an).reg (cipKey + 4) = o.reg (cipKey + 4) ∧
    (o.saBind k rx sc an).saAt k = { o.saAt k with bound := true, rx := rx, sc := sc, an := an } ∧
    (∀ j, o.saBound rx sc an = some j → j ≠ k → (o.saBind k rx sc an).saAt j = { o.saAt j with bound := false }) ∧ ∀ j, o.saBound rx sc an ≠ some j → j ≠ k → (o.saBind k rx sc an).saAt j = o.saAt j := by
  unfold State.saBind
  cases h : o.saBound rx sc an with
  | none =>
    dsimp only
    exact ⟨(State.setSa_keeps (State.Keeps.refl o) _ _).canon hc, rfl, key_saAt_setSa _ _ _ hc, fun j h => (by cases h), fun j _ hj => key_saAt_setSa_ne _ _ _ _ hj⟩
  | some j =>
    dsimp only
    have h1 : (o.setSa j { o.saAt j with bound := false }).Canonical := (State.setSa_keeps (State.Keeps.refl o) _ _).canon hc
    refine ⟨(State.setSa_keeps (State.Keeps.refl _) _ _).canon h1, rfl, ?_, fun i hi hk => ?_, fun i hi hk => ?_⟩
    · rw [key_saAt_setSa _ _ _ h1]
      by_cases e : k = j
      · subst e; rw [key_saAt_setSa _ _ _ hc]
      · rw [key_saAt_setSa_ne _ _ _ _ e]
    · injection hi with hi; subst hi
      rw [key_saAt_setSa_ne _ _ _ _ hk, key_saAt_setSa _ _ _ hc]
    · rw [key_saAt_setSa_ne _ _ _ _ hk, key_saAt_setSa_ne _ _ _ _ (fun e => hi (by rw [e]))]

theorem key_low2 (a b c : Bool) : lowestErr [(false, 1), (true, 2), (a, 3)] = some 2 ∧ lowestErr [(false, 1), (true, 2), (a, 3), (b, 4)] = some 2 ∧ lowestErr [(false, 1), (true, 2), (a, 3), (c, 5)] = some 2 := by
  cases a <;> cases b <;> cases c <;> decide

end Sys2Proof.Machine
end

