-- ==== Sys2Proof/Laws/PairRows.lean ====
section
/-! SUPPORT. Lemmas about the Causeway unit. -/

namespace Sys2Proof.Machine

def pairRowPair : RegRow := { base := 30408704, reset := 0x10f0000a#32, rwg := 0xfff003ff#32, par := 0xfff003ff#32, tri := 0xfff003ff#32, cut := 0xf0900401#32, guard := true }

theorem pair_pairWrite (s : State) (i : Nat) (v : Word) (hc : s.Canonical) (hm : s.May i PAIR_CFG.a) :
    s.pokeGuarded i PAIR_CFG.a v = (s.committed pairRowPair i PAIR_CFG.a v).pairCfgChanged (s.hw PAIR_CFG.a) := by
  have hmask : s.rwMask pairRowPair PAIR_CFG.a = 0xfff003ff#32 := by
    rw [State.rwMask_plain _ _ _ (by decide)]; decide
  have k2 : kindOf (PAIR_CFG.a + 4) = .comp pairRowPair := by decide
  rw [State.pokeGuarded_commit s i PAIR_CFG.a v pairRowPair hc hm.quiet (by decide) (by decide) kindOf_PAIR_CFG rfl k2
    (fun w => State.mayWrite_installer s i _ w hm.role (by decide) (by decide)) (fun g w => State.mayWrite_installer _ i _ w hm.role (by decide) (by decide))]
  unfold State.regCommit State.preWrite
  rw [if_neg (by decide)]
  dsimp only
  have e : ((s.setReg PAIR_CFG.a (s.newVal pairRowPair PAIR_CFG.a v)).parClear PAIR_CFG.a (s.rwMask pairRowPair PAIR_CFG.a)).reg PAIR_CFG.a = s.newVal pairRowPair PAIR_CFG.a v := State.reg_setReg _ _ _ hc.regs
  have e2 : (s.rwMask pairRowPair PAIR_CFG.a != 0#32) = true := by rw [hmask]; decide
  unfold State.raceWith State.auditWrite
  dsimp only
  have hl : logged pairRowPair = true := by decide
  rw [e, hl, e2, if_neg (show ¬ PAIR_CFG.a = ROL_LC_REQ.a by decide)]
  rfl

theorem pair_committed_cfg (s : State) (i : Nat) (v : Word) (hc : s.Canonical) : (s.committed pairRowPair i PAIR_CFG.a v).Canonical ∧
    fldGet ((s.committed pairRowPair i PAIR_CFG.a v).reg PAIR_CFG.a) PAIR_CFG.pair_en = fldGet v PAIR_CFG.pair_en ∧ (s.committed pairRowPair i PAIR_CFG.a v).now = s.now := by
  have hk : s.Keeps (s.committed pairRowPair i PAIR_CFG.a v) := State.audit_keeps (State.parClear_keeps (State.setReg_keeps (State.Keeps.refl s) _ _) _ _) _ _ _ _ _ _
  have hreg : (s.committed pairRowPair i PAIR_CFG.a v).reg PAIR_CFG.a = s.newVal pairRowPair PAIR_CFG.a v := by
    unfold State.committed; rw [State.reg_audit_ne _ _ _ _ _ _ _ _ (by decide)]; exact State.reg_setReg _ _ _ hc.regs
  refine ⟨hk.canon hc, ?_, hk.now⟩
  rw [hreg]
  refine newVal_fld _ _ _ _ _ (fun k h1 h2 => ?_) (by decide)
  obtain rfl : k = 31 := by simp [PAIR_CFG.pair_en] at h1 h2; omega
  rw [State.rwMask_plain _ _ _ (by decide)]
  decide

theorem pair_raises_reg (l : List Nat) (r : Nat) (u : State) (a : Nat) (h : a ≠ EVT_SRC_STAT.a 57) : (l.foldl (fun u k => if nbit r k then u.raise 57 6 k else u) u).reg a = u.reg a ∧
    (l.foldl (fun u k => if nbit r k then u.raise 57 6 k else u) u).pair = u.pair := by
  induction l generalizing u with
  | nil => exact ⟨rfl, rfl⟩
  | cons k l ih =>
    rw [List.foldl_cons]
    split
    · refine ⟨(ih _).1.trans (State.reg_raise_ne _ _ _ _ _ h), (ih _).2.trans ?_⟩
      rw [State.raise_same]
    · exact ih _

theorem pair_pairFld (u : State) (f g : Fld) (v : Nat) (hc : u.Canonical) (h : f.hi < g.lo ∨ g.hi < f.lo) (hf : f.lo ≤ f.hi ∧ f.hi < 32) :
    fldGet ((u.setF PAIR_STAT.a g v).reg PAIR_STAT.a) f = fldGet (u.reg PAIR_STAT.a) f := by
  rw [reg_setF _ _ _ _ hc.regs]
  exact fldGet_fldSet_ne _ _ _ _ (by omega) (by omega)

theorem pair_alive_true (s : State) (h : s.pathOk 0 = true ∧ s.now < s.pathEnd 0 ∨ s.pathOk 1 = true ∧ s.now < s.pathEnd 1) : ((s.pathOk 0 && decide (s.now < s.pathEnd 0)) || (s.pathOk 1 && decide (s.now < s.pathEnd 1))) = true := by
  simp only [Bool.or_eq_true, Bool.and_eq_true, decide_eq_true_eq]; exact h

theorem pair_alive_false (s : State) (h : ¬(s.pathOk 0 = true ∧ s.now < s.pathEnd 0 ∨ s.pathOk 1 = true ∧ s.now < s.pathEnd 1)) : ((s.pathOk 0 && decide (s.now < s.pathEnd 0)) || (s.pathOk 1 && decide (s.now < s.pathEnd 1))) = false := by
  rw [← Bool.not_eq_true]; simp only [Bool.or_eq_true, Bool.and_eq_true, decide_eq_true_eq]; exact h

theorem pair_bitUp : ∀ r : Fin 8, ∀ k j : Fin 3, nbit r.val k.val = false → (r.val + 2 ^ k.val < 8) ∧ nbit (r.val + 2 ^ k.val) j.val = (if j = k then true else nbit r.val j.val) := by decide

theorem pair_bitDown : ∀ r : Fin 8, ∀ k j : Fin 3, nbit r.val k.val = true → nbit (r.val - 2 ^ k.val) j.val = (if j = k then false else nbit r.val j.val) := by decide

structure pair_Moved (u t : State) (k : Fin 3) (g : Bool) : Prop where
  canon : t.Canonical
  state : t.pairState = u.pairState
  role : ∀ j : Fin 3, nbit t.pairRoles j.val = (if j = k then g else nbit u.pairRoles j.val)
  pair : t.pair = u.pair
  set : t.f PAIR_ROLE.a PAIR_ROLE.set_en = u.f PAIR_ROLE.a PAIR_ROLE.set_en

theorem pair_moved (u : State) (k : Fin 3) (g : Bool) (hc : u.Canonical) (h : u.f PAIR_ROLE.a PAIR_ROLE.set_en = 0) : pair_Moved u (u.roleMove k.val g) k g := by
  unfold State.roleMove
  have hr8 : u.pairRoles < 8 := fldGet_lt _ PAIR_STAT.roles
  by_cases hg : nbit u.pairRoles k.val = g
  · rw [if_pos hg]
    refine ⟨hc, rfl, fun j => ?_, rfl, rfl⟩
    split
    · subst_vars; rfl
    · rfl
  · rw [if_neg hg]
    dsimp only
    generalize hv : (if g = true then u.pairRoles + 2 ^ k.val else u.pairRoles - 2 ^ k.val) = v
    generalize hcode : (if g = true then 5 else 6) = code
    have hcu : (u.setF PAIR_STAT.a PAIR_STAT.roles v).Canonical := (State.setF_keeps (State.Keeps.refl u) _ _ _).canon hc
    have hreg : ((u.setF PAIR_STAT.a PAIR_STAT.roles v).raise 57 code k.val).reg PAIR_STAT.a = fldSet (u.reg PAIR_STAT.a) PAIR_STAT.roles v := by
      rw [State.reg_raise_ne _ _ _ _ _ (by decide), reg_setF _ _ _ _ hc.regs]
    have hset : ((u.setF PAIR_STAT.a PAIR_STAT.roles v).raise 57 code k.val).f PAIR_ROLE.a PAIR_ROLE.set_en = u.f PAIR_ROLE.a PAIR_ROLE.set_en := by
      have e1 : ((u.setF PAIR_STAT.a PAIR_STAT.roles v).raise 57 code k.val).reg PAIR_ROLE.a = u.reg PAIR_ROLE.a := by
        rw [State.reg_raise_ne _ _ _ _ _ (by decide), reg_setF_ne _ _ _ _ _ (by decide)]
      have e2 : ((u.setF PAIR_STAT.a PAIR_STAT.roles v).raise 57 code k.val).parOf PAIR_ROLE.a = u.parOf PAIR_ROLE.a := by
        unfold State.parOf; rw [State.raise_same]; rfl
      unfold State.f State.hw
      rw [e1, e2]
    have hct := (State.raise_keeps (State.Keeps.refl (u.setF PAIR_STAT.a PAIR_STAT.roles v)) 57 code k.val).canon hcu
    have hpr : ((u.setF PAIR_STAT.a PAIR_STAT.roles v).raise 57 code k.val).pair = u.pair := by rw [State.raise_same]; rfl
    generalize (u.setF PAIR_STAT.a PAIR_STAT.roles v).raise 57 code k.val = t at *
    rw [hset, h, show nbit 0 k.val = false from by clear * -; revert k; decide, if_neg (by decide)]
    refine ⟨hct, ?_, fun j => ?_, hpr, hset⟩
    · unfold State.pairState; rw [hreg, fldGet_fldSet_ne _ _ _ _ (by decide) (by decide)]
    · have e : t.pairRoles = v % 8 := by
        unfold State.pairRoles; rw [hreg]; exact fldGet_fldSet _ _ _ (by decide)
      rw [e]
      cases g with
      | true =>
        have := pair_bitUp ⟨u.pairRoles, hr8⟩ k j (by simpa using hg)
        rw [if_pos rfl] at hv
        subst hv
        rw [Nat.mod_eq_of_lt this.1]; exact this.2
      | false =>
        have := pair_bitDown ⟨u.pairRoles, hr8⟩ k j (by simpa using hg)
        rw [if_neg (by decide)] at hv
        subst hv
        rw [Nat.mod_eq_of_lt (Nat.lt_of_le_of_lt (Nat.sub_le _ _) hr8)]; exact this

theorem pair_take_facts (s : State) (hc : s.Canonical) (h : s.f PAIR_ROLE.a PAIR_ROLE.set_en = 0) : s.takeRoles.pairState = 3 ∧ nbit s.takeRoles.pairRoles 0 = true ∧ nbit s.takeRoles.pairRoles 2 = true ∧ s.takeRoles.pair.busWant = some true := by
  unfold State.takeRoles
  dsimp only
  generalize hx : ({ s.pair with ann := none, annOk := false, echo := none, busWant := some true, stby := none } : PairSt) = x
  have hb : x.busWant = some true := by rw [← hx]
  have hcx : (s.setPair x).Canonical := { hc with }
  have hreg : ((s.setPair x).setFs PAIR_STAT.a [(PAIR_STAT.state, 3), (PAIR_STAT.handback, 0)]).reg PAIR_STAT.a = fldSet (fldSet (s.reg PAIR_STAT.a) PAIR_STAT.state 3) PAIR_STAT.handback 0 := reg_setFs _ _ _ hc.regs
  have hset : ((s.setPair x).setFs PAIR_STAT.a [(PAIR_STAT.state, 3), (PAIR_STAT.handback, 0)]).f PAIR_ROLE.a PAIR_ROLE.set_en = 0 := by
    have e1 : ((s.setPair x).setFs PAIR_STAT.a [(PAIR_STAT.state, 3), (PAIR_STAT.handback, 0)]).reg PAIR_ROLE.a = s.reg PAIR_ROLE.a := State.reg_setFs_ne _ _ _ _ (by decide)
    refine Eq.trans ?_ h
    unfold State.f State.hw
    rw [e1]
    rfl
  have hcu := (State.setFs_keeps (State.Keeps.refl (s.setPair x)) PAIR_STAT.a [(PAIR_STAT.state, 3), (PAIR_STAT.handback, 0)]).canon hcx
  have hp : ((s.setPair x).setFs PAIR_STAT.a [(PAIR_STAT.state, 3), (PAIR_STAT.handback, 0)]).pair = x := rfl
  have hst : ((s.setPair x).setFs PAIR_STAT.a [(PAIR_STAT.state, 3), (PAIR_STAT.handback, 0)]).pairState = 3 := by
    unfold State.pairState; rw [hreg, fldGet_fldSet_ne _ _ _ _ (by decide) (by decide)]; exact (fldGet_fldSet _ _ _ (by decide)).trans (by decide)
  generalize (s.setPair x).setFs PAIR_STAT.a [(PAIR_STAT.state, 3), (PAIR_STAT.handback, 0)] = u at *
  have m1 := pair_moved u 0 true hcu hset
  have m2 := pair_moved (u.roleMove 0 true) 2 true m1.canon (m1.set.trans hset)
  refine ⟨m2.state.trans (m1.state.trans hst), ?_, ?_, ?_⟩
  · exact (m2.role 0).trans ((if_neg (by decide)).trans ((m1.role 0).trans (if_pos rfl)))
  · exact (m2.role 2).trans (if_pos rfl)
  · exact (congrArg PairSt.busWant (m2.pair.trans (m1.pair.trans hp))).trans hb

structure pair_Ended (s t : State) (p : Fin 2) : Prop where
  off : t.pathOk p.val = false
  other : t.pathOk (1 - p.val) = s.pathOk (1 - p.val)
  state : t.pairState = s.pairState
  roles : t.pairRoles = s.pairRoles
  pend : fldGet (t.reg (EVT_SRC_STAT.a 57)) EVT_SRC_STAT.pend = 1

theorem pair_ended (s : State) (x : PairSt) (p : Fin 2) (hc : s.Canonical) : pair_Ended s ((((s.setPair x).setPathOk p.val 0).pairCount 3).raise 57 1 p.val) p := by
  have hcx : (s.setPair x).Canonical := { hc with }
  have hc2 : ((s.setPair x).setPathOk p.val 0).Canonical := (State.setF_keeps (State.Keeps.refl (s.setPair x)) _ _ _).canon hcx
  have hr : ((((s.setPair x).setPathOk p.val 0).pairCount 3).raise 57 1 p.val).reg PAIR_STAT.a = fldSet (s.reg PAIR_STAT.a) (if p.val = 0 then PAIR_STAT.pin_ok else PAIR_STAT.frame_ok) 0 := by
    rw [State.reg_raise_ne _ _ _ _ _ (by decide)]
    exact (reg_setF_ne _ _ _ _ _ (by decide)).trans (reg_setF _ _ _ _ hc.regs)
  have hpe := pend_raise (((s.setPair x).setPathOk p.val 0).pairCount 3) 57 1 p.val ((State.setF_keeps (State.Keeps.refl _) _ _ _).canon hc2)
  generalize (((s.setPair x).setPathOk p.val 0).pairCount 3).raise 57 1 p.val = t at *
  have hp : p.val = 0 ∨ p.val = 1 := by omega
  refine ⟨?_, ?_, ?_, ?_, hpe⟩
  · unfold State.pathOk
    rw [hr]
    obtain h | h := hp <;> rw [h]
    · exact beq_false_of_ne (by rw [show (if 0 = 0 then PAIR_STAT.pin_ok else PAIR_STAT.frame_ok) = PAIR_STAT.pin_ok from rfl, fldGet_fldSet _ _ _ (by decide)]; decide)
    · exact beq_false_of_ne (by rw [show (if 1 = 0 then PAIR_STAT.pin_ok else PAIR_STAT.frame_ok) = PAIR_STAT.frame_ok from rfl, fldGet_fldSet _ _ _ (by decide)]; decide)
  · unfold State.pathOk
    rw [hr]
    obtain h | h := hp <;> rw [h]
    · show (fldGet (fldSet _ PAIR_STAT.pin_ok 0) PAIR_STAT.frame_ok == 1) = _
      rw [fldGet_fldSet_ne _ _ _ _ (by decide) (by decide)]; rfl
    · show (fldGet (fldSet _ PAIR_STAT.frame_ok 0) PAIR_STAT.pin_ok == 1) = _
      rw [fldGet_fldSet_ne _ _ _ _ (by decide) (by decide)]; rfl
  · unfold State.pairState
    rw [hr]
    obtain h | h := hp <;> rw [h]
    · exact fldGet_fldSet_ne _ PAIR_STAT.pin_ok PAIR_STAT.state _ (by decide) (by decide)
    · exact fldGet_fldSet_ne _ PAIR_STAT.frame_ok PAIR_STAT.state _ (by decide) (by decide)
  · unfold State.pairRoles
    rw [hr]
    obtain h | h := hp <;> rw [h]
    · exact fldGet_fldSet_ne _ PAIR_STAT.pin_ok PAIR_STAT.roles _ (by decide) (by decide)
    · exact fldGet_fldSet_ne _ PAIR_STAT.frame_ok PAIR_STAT.roles _ (by decide) (by decide)

theorem pair_leLen (n v : Nat) : (leBytes n v).length = n := by
  induction n generalizing v with
  | zero => rfl
  | succ n ih => unfold leBytes; rw [List.length_cons, ih]

theorem pair_beLen (n v : Nat) : (beBytes n v).length = n := by unfold beBytes; rw [List.length_reverse, pair_leLen]

theorem pair_timeLen (o : Option Nat) : (match o with | some t => pairTime t | none => List.replicate 10 0#8).length = 10 := by
  cases o
  · rfl
  · unfold pairTime; rw [List.length_append, pair_beLen, pair_beLen]

end Sys2Proof.Machine
end

