-- ==== Sys2Proof/Laws/PhaseRows.lean ====
section
/-! SUPPORT. Lemmas about the phase domains. -/

namespace Sys2Proof.Machine

theorem phase_foldOne (f : State → Nat → State) (c : State → Nat → Bool) (s0 t : State) (d : Nat) (hd : d < 4)
    (h0 : ∀ e, e < 4 → (c s0 e = true ↔ e = d)) (hf : f s0 d = t) (ht : ∀ e, e < 4 → e ≠ d → c t e = false) :
    (List.range 4).foldl (fun u e => if c u e then f u e else u) s0 = t := by
  have hr : List.range 4 = [0, 1, 2, 3] := rfl
  have n0 : ∀ e, e < 4 → e ≠ d → c s0 e = false := by
    intro e he hne
    have := h0 e he
    cases hc : c s0 e
    · rfl
    · exact absurd (this.1 hc) hne
  have nd : c s0 d = true := (h0 d hd).2 rfl
  rw [hr]
  simp only [List.foldl]
  have : d = 0 ∨ d = 1 ∨ d = 2 ∨ d = 3 := by omega
  obtain h | h | h | h := this <;> subst h
  · simp [nd, hf, ht 1 (by omega) (by omega), ht 2 (by omega) (by omega), ht 3 (by omega) (by omega)]
  · simp [nd, hf, n0 0 (by omega) (by omega), ht 2 (by omega) (by omega), ht 3 (by omega) (by omega)]
  · simp [nd, hf, n0 0 (by omega) (by omega), n0 1 (by omega) (by omega), ht 3 (by omega) (by omega)]
  · simp [nd, hf, n0 0 (by omega) (by omega), n0 1 (by omega) (by omega), n0 2 (by omega) (by omega)]

theorem phase_obsPush_room (s : State) (d : Nat) (o : PhObs) (h : (s.ph d).queue.length < 2) : s.obsPush d o = s.setPh d { s.ph d with queue := (s.ph d).queue ++ [o] } := by
  unfold State.obsPush
  dsimp only
  rw [if_pos h]

theorem phase_phUses_of (s u : State) (e k p : Nat) (h1 : u.reg (PHS_STAT.a e) = s.reg (PHS_STAT.a e)) (h2 : u.reg (PHS_CFG.a e) = s.reg (PHS_CFG.a e)) (h3 : u.par = s.par) :
    u.phUses e k p = s.phUses e k p := by
  unfold State.phUses State.phState State.phSrc State.f State.hw State.parOf
  rw [h1, h2, h3]

theorem phase_divOpen_cases (s : State) (n : Int) (d : Nat) : (∃ k, (s.divOpen n d).2 = { s with freeIdx := k }) ∧ ((s.divOpen n d).1 = n / d ∨ (s.divOpen n d).1 = n / d + 1) := by
  unfold State.divOpen
  dsimp only
  split
  · exact ⟨⟨s.freeIdx, rfl⟩, .inl rfl⟩
  · refine ⟨⟨s.freeIdx + 1, rfl⟩, ?_⟩
    have : (s.fresh.1.toNat % 2 = 0) ∨ (s.fresh.1.toNat % 2 = 1) := by omega
    obtain h | h := this
    · left; simp [h]
    · right; simp [h]

/-- What phLose does. -/
theorem phase_lose (s : State) (d : Fin 4) (hc : s.Canonical) : let t := s.phLose d.val
    t.phState d.val = 4 ∧ (t.ph d.val).hat = (s.ph d.val).hat ∧ s.Cancelled t d.val := by
  dsimp only
  unfold State.phLose
  dsimp only
  generalize hu : ((s.setPh d.val { s.ph d.val with hadLoss := true, acqN := 0, prevObs := none, reest := 0, hatPrev := (s.ph d.val).hat }).setFs (PHS_STAT.a d.val)
    [(PHS_STAT.state, 4), (PHS_STAT.standstill, 0)]).raise 32 1 d.val = u
  have huc : u.Canonical := by
    rw [← hu]
    exact (State.raise_keeps (State.setFs_keeps (State.setPh_keeps (State.Keeps.refl s) _ _) _ _) _ _ _).canon hc
  have hsq : ∀ n, u.sq n = s.sq n := by intro n; rw [← hu, State.sq_raise]; rfl
  have hph : (u.ph d.val).hat = (s.ph d.val).hat := by
    rw [← hu, State.ph_raise, State.ph_setFs, State.ph_setPh _ _ _ hc]
  have hst : u.phState d.val = 4 := by
    rw [← hu]
    unfold State.phState
    rw [State.reg_raise_ne _ _ _ _ _ (by unfold PHS_STAT.a EVT_SRC_STAT.a; omega)]
    unfold State.setFs
    rw [State.reg_setReg _ _ _ (by exact hc.regs)]
    simp only [List.foldl]
    rw [fldGet_fldSet_ne _ _ _ _ (by decide) (by decide), fldGet_fldSet _ _ _ (by decide)]
    rfl
  refine ⟨?_, ?_, ?_⟩
  · rw [State.cancelAngle_phState _ _ _ huc, hst]
  · rw [State.cancelAngle_ph _ _ _ huc, hph]
  · intro n hn
    rw [(State.cancelAngle_spec u d.val huc).1 n hn, hsq]

theorem phase_acq (s : State) (d : Nat) (hc : s.Canonical) : let t := s.phAcquire d
    t.phState d = 1 ∧ (t.ph d).theta = 0 ∧ (t.ph d).omega = 0 ∧ (t.ph d).acqN = 0 ∧ (t.ph d).since = s.now ∧ (t.ph d).queue = (s.ph d).queue ∧ (t.ph d).count = (s.ph d).count ∧
    t = { s with regs := t.regs, phs := t.phs } := by
  dsimp only
  unfold State.phAcquire
  dsimp only
  rw [State.ph_setFs, State.ph_setPh _ _ _ hc]
  refine ⟨?_, rfl, rfl, rfl, rfl, rfl, rfl, rfl⟩
  unfold State.phState State.setFs
  have hw : Cells.wf resetOf s.regs = true := hc.regs
  rw [State.reg_setReg _ _ _ (by exact hw)]
  simp only [List.foldl]
  rw [fldGet_fldSet_ne _ _ _ _ (by decide) (by decide), fldGet_fldSet_ne _ _ _ _ (by decide) (by decide), fldGet_fldSet _ _ _ (by decide)]
  rfl

theorem phase_commRest (s : State) (r : RegRow) (i a : Nat) (w : Word) : let u := s.committed r i a w
    u = { s with regs := u.regs, par := u.par, aud := u.aud, evt := u.evt, out := u.out, pcie := { s.pcie with pba := u.pcie.pba } } := by
  dsimp only
  unfold State.committed
  obtain ⟨a1, b1, c1, d1, pb, h⟩ := State.audit_only ((s.setReg a (s.newVal r a w)).parClear a (s.rwMask r a)) 0 (s.roleOf i) i a (s.reg a).toNat (s.newVal r a w).toNat
  rw [h]
  rfl

theorem phase_reg_comm (s : State) (r : RegRow) (i a b : Nat) (w : Word) (h : b ≠ a) (h2 : b ≠ EVT_SRC_STAT.a 60) : (s.committed r i a w).reg b = s.reg b := by
  unfold State.committed
  rw [State.reg_audit_ne _ _ _ _ _ _ _ _ h2]
  exact State.reg_setReg_ne _ _ _ _ h

theorem phase_commCanon (s : State) (r : RegRow) (i a : Nat) (w : Word) (hc : s.Canonical) : (s.committed r i a w).Canonical := by
  unfold State.committed
  exact (State.audit_keeps (State.parClear_keeps (State.setReg_keeps (State.Keeps.refl s) _ _) _ _) _ _ _ _ _ _).canon hc

theorem phase_enable (s : State) (i : Nat) (d : Fin 4) (v : Word) (r : RegRow) (hc : s.Canonical) (hk : kindOf (PHS_CFG.a d.val) = .reg r) (hm : s.May i (PHS_CFG.a d.val)) :
    s.live (s.poke i (PHS_CFG.a d.val) v) = (s.committed r i (PHS_CFG.a d.val) v).phCfgChanged d.val (s.hw (PHS_CFG.a d.val)) := by
  rw [kindOf_PHS_CFG] at hk
  cases hk
  rw [State.live_of _ _ hm.powered, State.poke_commit s i _ v _ hc hm (kindOf_PHS_CFG d) (by clear hm; revert d; decide) (by decide) (by decide) (by rw [State.rwMask_plain _ _ _ (by decide)]; decide)]
  have hb : blockOf (PHS_CFG.a d.val) = 4 := by clear hm; revert d; decide
  have hi : (foldPipe (PHS_CFG.a d.val) - 3145728) / 64 = d.val := by clear hm hb; revert d; decide
  unfold State.regEffect
  simp only [hb, hi]
  rfl

end Sys2Proof.Machine
end

