-- ==== Sys2Proof/Laws/PortRows.lean ====
section
/-! SUPPORT. Lemmas about ports and links. -/

namespace Sys2Proof.Machine

theorem port_laneNote_facts (s : State) (n : Nat) (hc : s.Canonical) : (s.laneNote n).Canonical ∧ (∃ v, (s.laneNote n).port n = { s.port n with sig := v }) ∧
    (∀ m, m ≠ n → (s.laneNote n).port m = s.port m) := by
  unfold State.laneNote
  extract_lets v
  split
  · exact ⟨hc, ⟨_, rfl⟩, fun _ _ => rfl⟩
  · exact ⟨(State.emit_keeps (State.setPort_keeps (State.Keeps.refl s) _ _) _).canon hc, ⟨v, port_setPort _ _ _ hc⟩, fun m h => Cells.get_set_ne _ _ _ _ _ h⟩

theorem port_readyNote_facts (s : State) (n : Nat) (hc : s.Canonical) : (s.readyNote n).Canonical ∧ fldGet ((s.readyNote n).reg (ETH_PORT_STAT.a n)) ETH_PORT_STAT.ready = b2n (s.pathReady n) ∧
    (∀ f : Fld, f.hi < 30 ∨ 30 < f.lo → f.hi < 32 → fldGet ((s.readyNote n).reg (ETH_PORT_STAT.a n)) f = fldGet (s.reg (ETH_PORT_STAT.a n)) f) ∧ (∀ a, a ≠ ETH_PORT_STAT.a n → (s.readyNote n).reg a = s.reg a) ∧
    (∃ x v, (s.readyNote n).port n = { s.port n with since := x, sig := v }) ∧ s.readyNote n = { s with regs := (s.readyNote n).regs, ports := (s.readyNote n).ports, out := (s.readyNote n).out } := by
  unfold State.readyNote
  extract_lets r a
  split
  · obtain ⟨h1, ⟨v, h2⟩, h3⟩ := port_laneNote_facts s n hc
    have h4 := State.laneNote_same s n
    generalize hl : s.laneNote n = l at *
    have hr : ∀ a, l.reg a = s.reg a := fun a => by rw [← hl]; exact State.reg_laneNote _ _ _
    refine ⟨h1, ?_, fun _ _ _ => by rw [hr], fun _ _ => hr _, ⟨_, v, h2⟩, by rw [h4]⟩
    rw [hr]; assumption
  · have hc1 := (State.setF_keeps (State.Keeps.refl s) a ETH_PORT_STAT.ready (b2n r)).canon hc
    have e1 := reg_setF s a ETH_PORT_STAT.ready (b2n r) hc.regs
    have e2 : ∀ x, x ≠ a → (s.setF a ETH_PORT_STAT.ready (b2n r)).reg x = s.reg x := fun x h => State.reg_setF_ne _ _ _ _ _ h
    have e3 : s.setF a ETH_PORT_STAT.ready (b2n r) = { s with regs := (s.setF a ETH_PORT_STAT.ready (b2n r)).regs } := rfl
    have hc2 := (State.setPort_keeps (State.Keeps.refl (s.setF a ETH_PORT_STAT.ready (b2n r))) n { s.port n with since := s.now }).canon hc1
    have e4 := port_setPort (s.setF a ETH_PORT_STAT.ready (b2n r)) n { s.port n with since := s.now } hc1
    have e5 : (s.setF a ETH_PORT_STAT.ready (b2n r)).setPort n { s.port n with since := s.now } = { s with regs := (s.setF a ETH_PORT_STAT.ready (b2n r)).regs, ports := ((s.setF a ETH_PORT_STAT.ready (b2n r)).setPort n { s.port n with since := s.now }).ports } := rfl
    have e6 : ∀ x, ((s.setF a ETH_PORT_STAT.ready (b2n r)).setPort n { s.port n with since := s.now }).reg x = (s.setF a ETH_PORT_STAT.ready (b2n r)).reg x := fun _ => rfl
    generalize (s.setF a ETH_PORT_STAT.ready (b2n r)).setPort n { s.port n with since := s.now } = u at *
    obtain ⟨h1, ⟨v, h2⟩, h3⟩ := port_laneNote_facts u n hc2
    have h4 := State.laneNote_same u n
    generalize hl : u.laneNote n = l at *
    have hr : ∀ a, l.reg a = u.reg a := fun a => by rw [← hl]; exact State.reg_laneNote _ _ _
    refine ⟨h1, ?_, fun f h h2 => ?_, fun x h => by rw [hr, e6, e2 x h], ⟨s.now, v, by rw [h2, e4]⟩, by rw [h4, e5]⟩
    · rw [hr, e6, e1, fldGet_fldSet _ _ _ (by decide)]
      show b2n (s.pathReady n) % _ = _
      cases s.pathReady n <;> rfl
    · rw [hr, e6, e1, fldGet_fldSet_ne _ _ _ _ h2 (by show f.hi < 30 ∨ 30 < f.lo; exact h)]

def portRowPort : RegRow := { base := 20971520, s1 := 256, n1 := 24, reset := 0x400005f2#32, rw := 0xc0003fff#32, par := 0xc0003fff#32, cut := 0xc0004001#32 }

theorem port_portWrite (s : State) (i : Nat) (n : Fin 24) (v : Word) (hc : s.Canonical) (hm : s.May i (ETH_PORT_CFG.a n.val)) :
    s.poke i (ETH_PORT_CFG.a n.val) v = (s.committed portRowPort i (ETH_PORT_CFG.a n.val) v).portCfgChanged n.val (s.hw (ETH_PORT_CFG.a n.val)) := by
  rw [State.poke_commit s i _ v portRowPort hc hm (kindOf_ETH_PORT_CFG n) (by clear hm; revert n; decide) (by decide) (by decide) (by rw [State.rwMask_plain _ _ _ (by decide)]; decide)]
  unfold State.regEffect
  have hb : blockOf (ETH_PORT_CFG.a n.val) = 9 := by clear hm; revert n; decide
  have hi : (foldPipe (ETH_PORT_CFG.a n.val) - 20971520) / 256 = n.val := by clear hm hb; revert n; decide
  have hi' : (foldPipe (ETH_PORT_CFG.a n.val) - portRowPort.base) / portRowPort.s1 = n.val := hi
  simp only [hb, hi']
  rfl

theorem port_committed_facts (s : State) (i : Nat) (n : Fin 24) (v : Word) (hc : s.Canonical) : (s.committed portRowPort i (ETH_PORT_CFG.a n.val) v).Canonical ∧
    (∀ a, a ≠ ETH_PORT_CFG.a n.val → a ≠ EVT_SRC_STAT.a 60 → (s.committed portRowPort i (ETH_PORT_CFG.a n.val) v).hw a = s.hw a ∧ (s.committed portRowPort i (ETH_PORT_CFG.a n.val) v).reg a = s.reg a) ∧
    fldGet ((s.committed portRowPort i (ETH_PORT_CFG.a n.val) v).reg (ETH_PORT_CFG.a n.val)) ETH_PORT_CFG.en = fldGet v ETH_PORT_CFG.en ∧ (s.committed portRowPort i (ETH_PORT_CFG.a n.val) v).now = s.now ∧
    ((s.Numbered → (s.committed portRowPort i (ETH_PORT_CFG.a n.val) v).Numbered)) ∧ (s.committed portRowPort i (ETH_PORT_CFG.a n.val) v).reg (ETH_PORT_CFG.a n.val) = s.newVal portRowPort (ETH_PORT_CFG.a n.val) v := by
  have hne : ETH_PORT_CFG.a n.val ≠ EVT_SRC_STAT.a 60 := by unfold ETH_PORT_CFG.a EVT_SRC_STAT.a; omega
  have hk : s.Keeps (s.committed portRowPort i (ETH_PORT_CFG.a n.val) v) := State.audit_keeps (State.parClear_keeps (State.setReg_keeps (State.Keeps.refl s) _ _) _ _) _ _ _ _ _ _
  have hreg : (s.committed portRowPort i (ETH_PORT_CFG.a n.val) v).reg (ETH_PORT_CFG.a n.val) = s.newVal portRowPort (ETH_PORT_CFG.a n.val) v := by
    unfold State.committed; rw [State.reg_audit_ne _ _ _ _ _ _ _ _ hne]; exact State.reg_setReg _ _ _ hc.regs
  refine ⟨hk.canon hc, fun a h1 h2 => ?_, ?_, hk.now, hk.numbered, hreg⟩
  · have e : (s.committed portRowPort i (ETH_PORT_CFG.a n.val) v).reg a = s.reg a := by
      unfold State.committed; rw [State.reg_audit_ne _ _ _ _ _ _ _ _ h2]; exact State.reg_setReg_ne _ _ _ _ h1
    refine ⟨?_, e⟩
    unfold State.hw
    rw [e]
    have p : (s.committed portRowPort i (ETH_PORT_CFG.a n.val) v).parOf a = s.parOf a := by
      unfold State.committed
      obtain ⟨a1, b1, c1, d1, pb, h⟩ := State.audit_only ((s.setReg (ETH_PORT_CFG.a n.val) (s.newVal portRowPort (ETH_PORT_CFG.a n.val) v)).parClear (ETH_PORT_CFG.a n.val) (s.rwMask portRowPort (ETH_PORT_CFG.a n.val))) 0 (s.roleOf i) i (ETH_PORT_CFG.a n.val) (s.reg (ETH_PORT_CFG.a n.val)).toNat (s.newVal portRowPort (ETH_PORT_CFG.a n.val) v).toNat
      unfold State.parOf
      rw [h]
      exact Cells.get_set_ne _ _ _ _ _ h1
    rw [p]
  · rw [hreg]
    refine newVal_fld _ _ _ _ _ (fun k h1 h2 => ?_) (by decide)
    obtain rfl : k = 31 := by simp [ETH_PORT_CFG.en] at h1 h2; omega
    rw [State.rwMask_plain _ _ _ (by decide)]
    decide

theorem port_portEnable_facts (u : State) (n : Fin 24) (hc : u.Canonical) : let t := u.portEnable n.val
    let m := u.f (ETH_PORT_MODE.a n.val) ETH_PORT_MODE.mode
    t.reg (ETH_PORT_CFG.a n.val) = u.reg (ETH_PORT_CFG.a n.val) ∧ fldGet (t.reg (ETH_PORT_STAT.a n.val)) ETH_PORT_STAT.active_mode = (if m = 0 ∨ modeOk m n.val = true then m else 0) ∧
    fldGet (t.reg (ETH_PORT_STAT.a n.val)) ETH_PORT_STAT.link = 0 ∧ (t.port n.val).since = u.now ∧ (t.port n.val).lpbk = u.f (ETH_PORT_MODE.a n.val) ETH_PORT_MODE.lpbk := by
  dsimp only
  unfold State.portEnable
  dsimp only
  generalize hm : u.f (ETH_PORT_MODE.a n.val) ETH_PORT_MODE.mode = m
  have hn := n.isLt
  generalize hl : u.f (ETH_PORT_MODE.a n.val) ETH_PORT_MODE.lpbk = lp
  generalize u.f (ETH_PORT_MODE.a n.val) ETH_PORT_MODE.prbs = pr
  have hmlt : m < 16 := by rw [← hm]; exact fldGet_lt _ _
  have r0 : (u.raiseIf (!(m == 0 || modeOk m n.val)) n.val 6 n.val).Canonical := (State.raiseIf_keeps (State.Keeps.refl u) _ _ _ _).canon hc
  have r1 : ∀ a, a ≠ EVT_SRC_STAT.a n.val → (u.raiseIf (!(m == 0 || modeOk m n.val)) n.val 6 n.val).reg a = u.reg a := by
    intro a h; unfold State.raiseIf; split
    · exact State.reg_raise_ne _ _ _ _ _ h
    · rfl
  generalize u.raiseIf (!(m == 0 || modeOk m n.val)) n.val 6 n.val = w at *
  have w1 := reg_setFs w (ETH_PORT_STAT.a n.val) [(ETH_PORT_STAT.active_mode, if (m == 0 || modeOk m n.val) = true then m else 0), (ETH_PORT_STAT.link, 0), (ETH_PORT_STAT.ready, 0)] r0.regs
  have w2 : ∀ a, a ≠ ETH_PORT_STAT.a n.val → (w.setFs (ETH_PORT_STAT.a n.val) [(ETH_PORT_STAT.active_mode, if (m == 0 || modeOk m n.val) = true then m else 0), (ETH_PORT_STAT.link, 0), (ETH_PORT_STAT.ready, 0)]).reg a = w.reg a :=
    fun a h => State.reg_setFs_ne _ _ _ _ h
  have wc : (w.setFs (ETH_PORT_STAT.a n.val) [(ETH_PORT_STAT.active_mode, if (m == 0 || modeOk m n.val) = true then m else 0), (ETH_PORT_STAT.link, 0), (ETH_PORT_STAT.ready, 0)]).Canonical := (State.setFs_keeps (State.Keeps.refl w) _ _).canon r0
  generalize w.setFs (ETH_PORT_STAT.a n.val) [(ETH_PORT_STAT.active_mode, if (m == 0 || modeOk m n.val) = true then m else 0), (ETH_PORT_STAT.link, 0), (ETH_PORT_STAT.ready, 0)] = x at *
  have hpc : ∀ y, (x.setPort n.val y).Canonical := fun y => (State.setPort_keeps (State.Keeps.refl x) _ _).canon wc
  generalize hy : ({ u.port n.val with since := u.now, lpbk := lp, prbs := if pr = 3 ∨ 20 ≤ n.val then 0 else pr, coll := 0, plcaLost := false, loop := [], toOn := false, toId := 0, toAt := 0, toBusy := false, burst := 0 } : PortSt) = y
  have hyl : y.lpbk = lp := by rw [← hy]
  have p2 := port_setPort x n.val y wc
  have p3 : ∀ a, (x.setPort n.val y).reg a = x.reg a := fun _ => rfl
  have p4 := hpc y
  generalize x.setPort n.val y = z at *
  generalize hq : (if n.val < 20 then z.setF (ETH_PORT_PRBS.a n.val) ETH_PORT_PRBS.locked 0 else z.setF (ETH_T1S_STAT.a n.val) ETH_T1S_STAT.plca_status 0) = q
  have q1 : q.Canonical := by subst hq; split <;> exact (State.setF_keeps (State.Keeps.refl z) _ _ _).canon p4
  have q2 : ∀ a, a ≠ ETH_PORT_PRBS.a n.val → a ≠ ETH_T1S_STAT.a n.val → q.reg a = z.reg a := by
    intro a h1 h2; subst hq; split
    · exact State.reg_setF_ne _ _ _ _ _ h1
    · exact State.reg_setF_ne _ _ _ _ _ h2
  have q3 : q.port n.val = z.port n.val := by subst hq; split <;> rfl
  have i1 : (q.preInit n.val).Canonical := (State.preInit_keeps (State.Keeps.refl q) _).canon q1
  have i2 : ∀ a, a ≠ SHP_PORT_CFG.a n.val → (q.preInit n.val).reg a = q.reg a := by
    intro a h; unfold State.preInit; split
    · rfl
    · exact State.reg_setF_ne _ _ _ _ _ h
  have i3 : (q.preInit n.val).port n.val = q.port n.val := by unfold State.preInit; split <;> rfl
  generalize q.preInit n.val = j at *
  obtain ⟨k1, k2, k3, k4, ⟨k5, kv, k6⟩, k7⟩ := port_readyNote_facts j n.val i1
  generalize j.readyNote n.val = k at *
  have hS : j.reg (ETH_PORT_STAT.a n.val) = x.reg (ETH_PORT_STAT.a n.val) := by
    rw [i2 _ (by unfold ETH_PORT_STAT.a SHP_PORT_CFG.a; omega), q2 _ (by unfold ETH_PORT_STAT.a ETH_PORT_PRBS.a; omega) (by unfold ETH_PORT_STAT.a ETH_T1S_STAT.a; omega), p3]
  have hio : ∀ (w : State), (∀ a, (w.inbandOut n.val).reg a = w.reg a) ∧ (w.inbandOut n.val).port n.val = w.port n.val := by
    intro w; unfold State.inbandOut; extract_lets m; split <;> exact ⟨fun _ => rfl, rfl⟩
  obtain ⟨o1, o2⟩ := hio (k.setPort n.val { k.port n.val with since := u.now })
  refine ⟨?_, ?_, ?_, ?_, ?_⟩
  · rw [o1]; show k.reg _ = _
    rw [k4 _ (by unfold ETH_PORT_STAT.a ETH_PORT_CFG.a; omega), i2 _ (by unfold ETH_PORT_CFG.a SHP_PORT_CFG.a; omega), q2 _ (by unfold ETH_PORT_CFG.a ETH_PORT_PRBS.a; omega) (by unfold ETH_PORT_CFG.a ETH_T1S_STAT.a; omega), p3,
      w2 _ (by unfold ETH_PORT_STAT.a ETH_PORT_CFG.a; omega), r1 _ (by unfold ETH_PORT_CFG.a EVT_SRC_STAT.a; omega)]
  · rw [o1]; show fldGet (k.reg _) _ = _
    rw [k3 _ (by decide) (by decide), hS, w1]
    simp only [List.foldl_cons, List.foldl_nil]
    rw [fldGet_fldSet_ne _ _ _ _ (by decide) (by decide), fldGet_fldSet_ne _ _ _ _ (by decide) (by decide), fldGet_fldSet _ _ _ (by decide)]
    rw [Nat.mod_eq_of_lt (by show _ < 16; split <;> omega)]
    simp
  · rw [o1]; show fldGet (k.reg _) _ = _
    rw [k3 _ (by decide) (by decide), hS, w1]
    simp only [List.foldl_cons, List.foldl_nil]
    rw [fldGet_fldSet_ne _ _ _ _ (by decide) (by decide), fldGet_fldSet _ _ _ (by decide), Nat.zero_mod]
  · rw [o2, port_setPort _ _ _ k1]
  · rw [o2, port_setPort _ _ _ k1]
    show (k.port n.val).lpbk = _
    rw [k6, i3, q3, p2, hyl]

theorem port_copyDrop_sub (s : State) (c : Copy) : ∀ x ∈ (s.copyDrop c).copies, x ∈ s.copies ∧ x.id ≠ c.id := by
  have hf : ∀ (l : List Copy) (u : State), ∀ x ∈ (l.foldl (fun (u : State) (y : Copy) => u.copyGone y) u).copies, x ∈ u.copies := by
    intro l
    induction l with
    | nil => intro u x h; exact h
    | cons y r ih =>
      intro u x h
      have := ih _ x h
      rw [State.copyGone_copies] at this
      exact (List.mem_filter.1 this).1
  have h1 : ∀ x ∈ (s.copyGone c).copies, x ∈ s.copies ∧ x.id ≠ c.id := by
    intro x h
    rw [State.copyGone_copies] at h
    have := List.mem_filter.1 h
    exact ⟨this.1, by simpa using this.2⟩
  unfold State.copyDrop
  extract_lets s1 f
  intro x h
  split at h
  · exact h1 x (hf _ _ x h)
  · exact h1 x h

theorem port_flushed (u : State) (n : Nat) : ∀ c ∈ (u.flushPort n).copies, c.port = n → c.st = 1 := by
  have key : ∀ (l : List Copy) (w : State), ∀ x ∈ (l.foldl (fun (u : State) (c : Copy) => ((if c.st = 2 then u.cutShort n else u).mibInc n 16).copyDrop c) w).copies, x ∈ w.copies ∧ ∀ c ∈ l, x.id ≠ c.id := by
    intro l
    induction l with
    | nil => intro w x h; exact ⟨h, fun c hc => by cases hc⟩
    | cons y r ih =>
      intro w x h
      obtain ⟨a1, a2⟩ := ih _ x h
      obtain ⟨b1, b2⟩ := port_copyDrop_sub _ _ x a1
      have e : ((if y.st = 2 then w.cutShort n else w).mibInc n 16).copies = w.copies := by
        split
        · show (w.cutShort n).copies = _
          rw [State.cutShort_same]
        · rfl
      rw [e] at b1
      refine ⟨b1, fun c hc => ?_⟩
      rcases List.mem_cons.1 hc with rfl | hc
      · exact b2
      · exact a2 c hc
  intro c hc hp
  unfold State.flushPort at hc
  obtain ⟨h1, h2⟩ := key _ _ c hc
  by_contra h
  exact h2 c (List.mem_filter.2 ⟨h1, by simp [hp, h]⟩) rfl

theorem port_pathReady_note (u : State) (n : Fin 24) (hc : u.Canonical) : (u.readyNote n.val).pathReady n.val = u.pathReady n.val := by
  obtain ⟨k1, k2, k3, k4, ⟨k5, kv, k6⟩, k7⟩ := port_readyNote_facts u n.val hc
  have hN1 : ETH_PORT_CFG.a n.val ≠ ETH_PORT_STAT.a n.val := by unfold ETH_PORT_STAT.a ETH_PORT_CFG.a; omega
  have hN2 : PWR_STAT.a ≠ ETH_PORT_STAT.a n.val := by unfold ETH_PORT_STAT.a PWR_STAT.a; omega
  have hN3 : PWR_PART_PORTS.a ≠ ETH_PORT_STAT.a n.val := by unfold ETH_PORT_STAT.a PWR_PART_PORTS.a; omega
  have hpar : ∀ a, (u.readyNote n.val).parOf a = u.parOf a := by intro a; unfold State.parOf; rw [k7]
  have hj : (u.readyNote n.val).jtag = u.jtag := by rw [k7]
  have hb : (u.readyNote n.val).boot = u.boot := by rw [k7]
  generalize u.readyNote n.val = t at *
  have hmode : t.portMode n.val = u.portMode n.val := k3 _ (by decide) (by decide)
  have hib := k3 ETH_PORT_STAT.inband (by decide) (by decide)
  have hhw : ∀ a, a ≠ ETH_PORT_STAT.a n.val → t.hw a = u.hw a := by intro a h; unfold State.hw; rw [k4 a h, hpar]
  have hon : t.portOn n.val = u.portOn n.val := by
    unfold State.portOn State.portAsleep State.powered State.clocked State.inReset State.inFen State.on State.f
    rw [hhw _ hN1, hhw _ hN3, k4 _ hN2, hj, hb]
  have hrf : t.on (ETH_PORT_CFG.a n.val) ETH_PORT_CFG.rf_down = u.on (ETH_PORT_CFG.a n.val) ETH_PORT_CFG.rf_down := by unfold State.on State.f; rw [hhw _ hN1]
  unfold State.pathReady
  dsimp only
  rw [hmode, hon, hrf, hib, k6]

end Sys2Proof.Machine
end

