-- ==== Sys2Proof/Laws/PowerRows.lean ====
section
/-! SUPPORT. Lemmas about sleep and wake. -/

namespace Sys2Proof.Machine

theorem pwr_aon_fold (l : List Nat) (u : State) (a : Nat) (h : a ≠ EVT_SRC_STAT.a 55) : (l.foldl (fun u c => u.raise 55 7 c) u).reg a = u.reg a := by
  induction l generalizing u with
  | nil => rfl
  | cons k l ih => rw [List.foldl_cons]; exact (ih _).trans (State.reg_raise_ne _ _ _ _ _ h)

theorem pwr_aon_keeps (l : List Nat) (u : State) : u.Keeps (l.foldl (fun u c => u.raise 55 7 c) u) := State.Keeps.foldl (State.Keeps.refl u) (fun _ _ hu => State.raise_keeps hu _ _ _)

theorem pwr_abort_before (s : State) (a b v : Nat) (f : Fld) (l : List (Fld × Nat)) (x : PwrSt) (hc : s.Canonical) (h : a ≠ b) :
    (((s.setFs a l).setF b f v).setPwr x).Canonical ∧ (((s.setFs a l).setF b f v).setPwr x).reg a = l.foldl (fun u e => fldSet u e.1 e.2) (s.reg a) ∧ (((s.setFs a l).setF b f v).setPwr x).pwr = x := by
  refine ⟨(State.setPwr_keeps (State.setF_keeps (State.setFs_keeps (State.Keeps.refl s) _ _) _ _ _) _).canon hc, ?_, rfl⟩
  show ((s.setFs a l).setF b f v).reg a = _
  rw [reg_setF_ne _ _ _ _ _ h]; exact reg_setFs _ _ _ hc.regs

theorem pwr_abort_facts (s : State) (k : Nat) (hc : s.Canonical) : (s.sleepAbort k).pwrPhase = 0 ∧ (s.sleepAbort k).pwrState = s.pwrState ∧ fldGet ((s.sleepAbort k).reg (EVT_SRC_STAT.a 55)) EVT_SRC_STAT.pend = 1 ∧
    (s.sleepAbort k).pwr = { s.pwr with latchAt := some s.now } ∧ (s.sleepAbort k).reg PWR_STAT.a = fldSet (fldSet (s.reg PWR_STAT.a) PWR_STAT.phase 0) PWR_STAT.wake_src (fldGet (s.reg PWR_STAT.a) PWR_STAT.wake_src ||| 2 ^ k) := by
  unfold State.sleepAbort
  dsimp only
  generalize fldGet (s.reg PWR_STAT.a) PWR_STAT.wake_src ||| 2 ^ k = w
  generalize hx : ({ s.pwr with latchAt := some s.now } : PwrSt) = x
  obtain ⟨hcu, hr0, hp⟩ := pwr_abort_before s PWR_STAT.a PWR_CTRL.a 0 PWR_CTRL.sleep_req [(PWR_STAT.phase, 0), (PWR_STAT.wake_src, w)] x hc (by decide)
  generalize ((s.setFs PWR_STAT.a [(PWR_STAT.phase, 0), (PWR_STAT.wake_src, w)]).setF PWR_CTRL.a PWR_CTRL.sleep_req 0).setPwr x = u at hcu hr0 hp ⊢
  have hr : (u.raise 55 2 k).reg PWR_STAT.a = fldSet (fldSet (s.reg PWR_STAT.a) PWR_STAT.phase 0) PWR_STAT.wake_src w := by
    rw [State.reg_raise_ne _ _ _ _ _ (by decide)]; exact hr0
  refine ⟨?_, ?_, pend_raise u 55 2 k hcu, ?_, ?_⟩
  · unfold State.pwrPhase; rw [hr, fldGet_fldSet_ne _ _ _ _ (by decide) (by decide)]; exact (fldGet_fldSet _ _ _ (by decide)).trans (by decide)
  · unfold State.pwrState; rw [hr, fldGet_fldSet_ne _ _ _ _ (by decide) (by decide), fldGet_fldSet_ne _ _ _ _ (by decide) (by decide)]
  · rw [State.raise_same]; exact hp
  · exact hr

theorem pwr_latch_abort (s : State) (k : Nat) (h1 : s.wakeEn k = true) (h2 : s.wispMasked k = false) (h3 : s.pwrPhase = 1) : s.wakeLatch k = s.sleepAbort k := by
  unfold State.wakeLatch
  dsimp only
  rw [if_neg (by rw [h1, h3]; simp), if_neg (by rw [h2]; decide), if_pos h3]

theorem pwr_inh_reg (s : State) (v a : Nat) : (s.setInh v).reg a = s.reg a ∧ (s.setInh v).pwr = { s.pwr with inh := v } ∧ (s.setInh v).jtag = s.jtag ∧ ((s.setInh v).Canonical ↔ s.Canonical) := by
  obtain ⟨o, h⟩ := inh_same s v
  rw [h]
  exact ⟨rfl, rfl, rfl, ⟨fun h => { h with }, fun h => { h with }⟩⟩

theorem pwr_start_facts (s : State) (k t : Nat) (hc : s.Canonical) : (s.wakeStart k t).pwr.wakeStep = 1 ∧ fldGet ((s.wakeStart k t).reg PWR_STAT.a) PWR_STAT.first_src = k % 16 ∧ (s.wakeStart k t).pwrState = s.pwrState ∧ (s.wakeStart k t).pwrPhase = s.pwrPhase ∧
    (s.wakeStart k t).pwr.wisp = s.pwr.wisp ++ [(k, t + msTicks (max 1 (s.f PWR_WISP_CFG.a PWR_WISP_CFG.wisp_win)))] ∧ (s.wakeStart k t).pwr.latchAt = some t := by
  unfold State.wakeStart
  dsimp only
  generalize hX : ({ s.pwr with wakeStep := 1, latchAt := some t, wisp := s.pwr.wisp ++ [(k, t + msTicks (max 1 (s.f PWR_WISP_CFG.a PWR_WISP_CFG.wisp_win)))], judged := false } : PwrSt) = x
  have e1 : x.wakeStep = 1 ∧ x.wisp = s.pwr.wisp ++ [(k, t + msTicks (max 1 (s.f PWR_WISP_CFG.a PWR_WISP_CFG.wisp_win)))] ∧ x.latchAt = some t := by rw [← hX]; exact ⟨rfl, rfl, rfl⟩
  have hr : ((s.setPwr x).setF PWR_STAT.a PWR_STAT.first_src k).reg PWR_STAT.a = fldSet (s.reg PWR_STAT.a) PWR_STAT.first_src k := reg_setF _ _ _ _ hc.regs
  have hp : ((s.setPwr x).setF PWR_STAT.a PWR_STAT.first_src k).pwr = x := rfl
  generalize (s.setPwr x).setF PWR_STAT.a PWR_STAT.first_src k = v at *
  generalize (s.setPwr x).inhLevels 0 = n
  obtain ⟨i1, i2, i3, i4⟩ := pwr_inh_reg v n PWR_STAT.a
  refine ⟨?_, ?_, ?_, ?_, ?_, ?_⟩
  · rw [i2, hp]; exact e1.1
  · rw [i1, hr]; exact fldGet_fldSet _ _ _ (by decide)
  · unfold State.pwrState; rw [i1, hr, fldGet_fldSet_ne _ _ _ _ (by decide) (by decide)]
  · unfold State.pwrPhase; rw [i1, hr, fldGet_fldSet_ne _ _ _ _ (by decide) (by decide)]
  · rw [i2, hp]; exact e1.2.1
  · rw [i2, hp]; exact e1.2.2

/-- The pins of reset are outputs and nothing else. -/
theorem pwr_pinsLow_same (v : State) : ∃ o, v.pinsLow = { v with out := o } := by
  have hf : ∀ {α : Type} (g : State → α → State) (_ : ∀ (u : State) x, ∃ o, g u x = { u with out := o }) (l : List α) (u : State), ∃ o, l.foldl g u = { u with out := o } := by
    intro α g hg l
    induction l with
    | nil => intro u; exact ⟨u.out, rfl⟩
    | cons x r ih =>
      intro u
      obtain ⟨o1, h1⟩ := hg u x
      obtain ⟨o2, h2⟩ := ih (g u x)
      exact ⟨o2, by rw [List.foldl_cons, h2, h1]⟩
  unfold State.pinsLow
  extract_lets s1 s2
  obtain ⟨o1, h1⟩ := hf (fun (u : State) (e : Nat × SyncPin) => if e.2.level then u.emit (.edge "SYNC_OUT" e.1 false (16 * v.now)) else u)
    (fun u x => by split <;> exact ⟨_, rfl⟩) v.sync v
  obtain ⟨o2, h2⟩ := hf (fun (u : State) (e : Nat × PortSt) => if e.2.sig = .idleElec then u else u.emit (.lane e.1 .idleElec))
    (fun u x => by split <;> exact ⟨_, rfl⟩) v.ports s1
  have e2 : s2 = { v with out := o2 } := h2.trans (by rw [show s1 = _ from h1])
  split
  · rw [e2]; exact ⟨_, rfl⟩
  · exact ⟨o2, e2⟩

theorem pwr_core_frames (v : State) : (v.coreSleep.keepRegs keepMask).frames = [] ∧ (v.coreSleep.keepRegs keepMask).copies = [] ∧ (v.coreSleep.keepRegs keepMask).sram = [] ∧ (v.coreSleep.keepRegs keepMask).pair = {} ∧ (v.coreSleep.keepRegs keepMask).msgs = v.msgs :=
  ⟨rfl, rfl, rfl, rfl, rfl⟩

theorem pwr_foldl_msgs {α : Type} (f : State → α → State) (h : ∀ u x, (f u x).msgs = u.msgs) (l : List α) (u : State) : (l.foldl f u).msgs = u.msgs := by
  induction l generalizing u with
  | nil => rfl
  | cons x l ih => rw [List.foldl_cons]; exact (ih _).trans (h _ _)

theorem pwr_setPp_msgs (v : State) (p : Nat) (x) : (v.setPp p x).msgs = v.msgs := rfl

theorem pwr_flush_msgs (p : Nat) (f : FlushSt) (l : List Nat) (u : State) : (l.foldl (fun (w : State) (l : Nat) =>
          match w.fdbAt p l with
          | some e => if f.next ≤ l ∧ f.selects e = true then w.setFdb p l none else w
          | none => w) u).msgs = u.msgs := by
  refine pwr_foldl_msgs _ (fun w l => ?_) _ _
  split
  · split <;> rfl
  · rfl

theorem pwr_tables_msgs (v : State) : v.tablesSleep.msgs = v.msgs := by
  unfold State.tablesSleep
  refine pwr_foldl_msgs _ (fun u p => ?_) _ _
  dsimp only
  rw [pwr_setPp_msgs]
  cases (u.pp p).flush with
  | none => rfl
  | some f => dsimp only; rw [pwr_setPp_msgs]; exact pwr_flush_msgs p f _ u

theorem pwr_no_pins (v : Nat) (hv : v = 0) (l : List Nat) (u : State) : l.foldl (fun w n => if w.pwrPhase == 1 && nbit v n then w.wakeLatch n else w) u = u := by
  have : ∀ n, nbit v n = false := by intro n; subst hv; unfold nbit; simp
  induction l generalizing u with
  | nil => rfl
  | cons x l ih => rw [List.foldl_cons, this, Bool.and_false, if_neg (by decide)]; exact ih u

theorem pwr_tail_same (m : State) (a b c : Nat) (f g : Fld) (v w : Nat) (l : List (Fld × Nat)) (p : PwrSt) : (((m.setF a f v).setFs b l).setF c g w).setPwr p = { m with regs := ((((m.setF a f v).setFs b l).setF c g w).setPwr p).regs, pwr := p } := rfl

theorem pwr_tail_reg (m : State) (a b c : Nat) (f g : Fld) (v w : Nat) (l : List (Fld × Nat)) (p : PwrSt) (hc : Cells.wf resetOf (m.setF a f v).regs = true) (h : b ≠ c) :
    ((((m.setF a f v).setFs b l).setF c g w).setPwr p).reg b = l.foldl (fun u e => fldSet u e.1 e.2) ((m.setF a f v).reg b) := by
  show (((m.setF a f v).setFs b l).setF c g w).reg b = _
  rw [reg_setF_ne _ _ _ _ _ h, reg_setFs _ _ _ hc]

theorem pwr_ask_reg (m : State) (b x : Nat) (l : List (Fld × Nat)) (p : PwrSt) (hc : Cells.wf resetOf m.regs = true) :
    ((m.setFs b l).setPwr p).reg b = l.foldl (fun u e => fldSet u e.1 e.2) (m.reg b) ∧ (x ≠ b → ((m.setFs b l).setPwr p).reg x = m.reg x) :=
  ⟨reg_setFs _ _ _ hc, fun h => State.reg_setFs_ne _ _ _ _ h⟩

theorem pwr_bus_msgs (v : State) : v.busSleep.msgs = [] := rfl

theorem pwr_pins_msgs (v : State) : v.pinsLow.msgs = v.msgs := by
  obtain ⟨o, h⟩ := pwr_pinsLow_same v
  rw [h]

theorem pwr_chain_facts (v : State) : (v.busSleep.tablesSleep.pinsLow.coreSleep.keepRegs keepMask).frames = [] ∧ (v.busSleep.tablesSleep.pinsLow.coreSleep.keepRegs keepMask).copies = [] ∧ (v.busSleep.tablesSleep.pinsLow.coreSleep.keepRegs keepMask).sram = [] ∧
    (v.busSleep.tablesSleep.pinsLow.coreSleep.keepRegs keepMask).pair = {} ∧ (v.busSleep.tablesSleep.pinsLow.coreSleep.keepRegs keepMask).msgs = [] := by
  have h := pwr_core_frames v.busSleep.tablesSleep.pinsLow
  exact ⟨h.1, h.2.1, h.2.2.1, h.2.2.2.1, h.2.2.2.2.trans ((pwr_pins_msgs _).trans ((pwr_tables_msgs v.busSleep).trans (pwr_bus_msgs v)))⟩

theorem pwr_tail_msgs (m : State) (a b c : Nat) (f g : Fld) (v w : Nat) (l : List (Fld × Nat)) (p : PwrSt) (h : m.msgs = []) : ((((m.setF a f v).setFs b l).setF c g w).setPwr p).msgs = [] := h

theorem pwr_commit_facts (s : State) (b : Bool) (hc : s.Canonical) : (s.sleepCommit b).pwrPhase = 2 ∧ (s.sleepCommit b).frames = [] ∧ (s.sleepCommit b).copies = [] ∧ (s.sleepCommit b).sram = [] ∧ (s.sleepCommit b).pair = {} ∧ (s.sleepCommit b).msgs = [] ∧
      (s.sleepCommit b).powered = false ∧ fldGet ((s.sleepCommit b).reg PWR_STAT.a) PWR_STAT.parked = b2n b := by
  unfold State.sleepCommit
  dsimp only
  have hk : s.Keeps (((((s.pairOff.seqSleep).actsEmpty.busSleep).tablesSleep.pinsLow.coreSleep).keepRegs keepMask)) := by
    exact State.keepRegs_keeps (State.coreSleep_keeps (State.pinsLow_keeps (State.tablesSleep_keeps (State.busSleep_keeps (State.actsEmpty_keeps (State.seqSleep_keeps (State.pairOff_keeps (State.Keeps.refl s)))))))) keepMask
  obtain ⟨d1, d2, d3, d4, d5⟩ := pwr_chain_facts (s.pairOff.seqSleep).actsEmpty
  generalize (((s.pairOff.seqSleep).actsEmpty.busSleep).tablesSleep.pinsLow.coreSleep).keepRegs keepMask = m at *
  have hcm := hk.canon hc
  have hcw : (m.setF PWR_CTRL.a PWR_CTRL.sleep_req 0).Canonical := (State.setF_keeps (State.Keeps.refl m) _ _ _).canon hcm
  have hr : ∀ p, (((m.setF PWR_CTRL.a PWR_CTRL.sleep_req 0).setFs PWR_STAT.a [(PWR_STAT.phase, 2), (PWR_STAT.parked, b2n b)]).setF MEM_STAT.a MEM_STAT.self_refresh 1 |>.setPwr p).reg PWR_STAT.a =
    fldSet (fldSet ((m.setF PWR_CTRL.a PWR_CTRL.sleep_req 0).reg PWR_STAT.a) PWR_STAT.phase 2) PWR_STAT.parked (b2n b) := by
    intro p
    exact pwr_tail_reg m _ _ _ _ _ _ _ _ p hcw.regs (by decide)
  have hph : ∀ p, State.pwrPhase ((((m.setF PWR_CTRL.a PWR_CTRL.sleep_req 0).setFs PWR_STAT.a [(PWR_STAT.phase, 2), (PWR_STAT.parked, b2n b)]).setF MEM_STAT.a MEM_STAT.self_refresh 1).setPwr p) = 2 := by
    intro p
    unfold State.pwrPhase; rw [hr, fldGet_fldSet_ne _ _ _ _ (by decide) (by decide)]; exact (fldGet_fldSet _ _ _ (by decide)).trans (by decide)
  refine ⟨hph _, ?_, ?_, ?_, ?_, ?_, ?_, ?_⟩
  · rw [pwr_tail_same]; exact d1
  · rw [pwr_tail_same]; exact d2
  · rw [pwr_tail_same]; exact d3
  · rw [pwr_tail_same]; exact d4
  · exact pwr_tail_msgs m _ _ _ _ _ _ _ _ _ d5
  · unfold State.powered State.clocked
    rw [hr, fldGet_fldSet_ne _ PWR_STAT.parked PWR_STAT.phase _ (by decide) (by decide), fldGet_fldSet _ PWR_STAT.phase _ (by decide)]
    rw [show (2 % 2 ^ (PWR_STAT.phase.hi + 1 - PWR_STAT.phase.lo) != 2) = false from rfl, Bool.and_false, Bool.false_and, Bool.false_and]
  · rw [hr]; exact (fldGet_fldSet _ _ _ (by decide)).trans (by cases b <;> decide)

structure pwr_Clk (s t : State) : Prop where
  frt : t.tim.frt = s.tim.frt
  dta : t.tim.dta = s.tim.dta
  dtb : t.tim.dtb = s.tim.dtb
  wkt : t.tim.wkt = s.tim.wkt
  pwr : t.pwr = s.pwr

theorem pwr_Clk.raise {s t : State} (h : pwr_Clk s t) (a b c : Nat) : pwr_Clk s (t.raise a b c) := by
  rw [State.raise_same]; exact ⟨h.frt, h.dta, h.dtb, h.wkt, h.pwr⟩

theorem pwr_Clk.setF {s t : State} (h : pwr_Clk s t) (a : Nat) (f : Fld) (b : Nat) : pwr_Clk s (t.setF a f b) := ⟨h.frt, h.dta, h.dtb, h.wkt, h.pwr⟩

theorem pwr_Clk.setFs {s t : State} (h : pwr_Clk s t) (a : Nat) (l : List (Fld × Nat)) : pwr_Clk s (t.setFs a l) := ⟨h.frt, h.dta, h.dtb, h.wkt, h.pwr⟩

theorem pwr_Clk.setReg {s t : State} (h : pwr_Clk s t) (a : Nat) (w : Word) : pwr_Clk s (t.setReg a w) := ⟨h.frt, h.dta, h.dtb, h.wkt, h.pwr⟩

theorem pwr_Clk.setDom {s t : State} (h : pwr_Clk s t) (d : Nat) (x : DomSt) : pwr_Clk s (t.setDom d x) := by
  unfold State.setDom; split <;> exact ⟨h.frt, h.dta, h.dtb, h.wkt, h.pwr⟩

theorem pwr_Clk.ite {s t u : State} {p : Prop} [Decidable p] (h : pwr_Clk s t) (k : pwr_Clk s u) : pwr_Clk s (if p then t else u) := by split <;> assumption

theorem pwr_Clk.wktSlew {s t : State} (h : pwr_Clk s t) (d : Nat) : pwr_Clk s (t.wktSlew d) := pwr_Clk.setFs h _ _

theorem pwr_Clk.frozen {s t : State} (h : pwr_Clk s t) (n : Nat) : pwr_Clk s { t with tim := { t.tim with frozen := n } } := ⟨h.frt, h.dta, h.dtb, h.wkt, h.pwr⟩

theorem pwr_Clk.wktRefuse {s t : State} (h : pwr_Clk s t) (d : Nat) : pwr_Clk s (t.wktRefuse d) := pwr_Clk.raise (pwr_Clk.setFs (pwr_Clk.ite h (pwr_Clk.frozen h _)) _ _) _ _ _

theorem pwr_Clk.eval {s t : State} (h : pwr_Clk s t) : pwr_Clk s t.wktEval := by
  unfold State.wktEval; dsimp only
  split
  · exact pwr_Clk.ite (pwr_Clk.setF h _ _ _) (pwr_Clk.ite (pwr_Clk.setF h _ _ _) (pwr_Clk.raise (pwr_Clk.setFs (pwr_Clk.frozen h _) _ _) _ _ _))
  · exact pwr_Clk.ite (pwr_Clk.setFs h _ _) (pwr_Clk.ite (pwr_Clk.ite (pwr_Clk.wktRefuse (pwr_Clk.raise h _ _ _) _) (pwr_Clk.wktSlew (pwr_Clk.raise h _ _ _) _)) (pwr_Clk.ite (pwr_Clk.setF h _ _ _) (pwr_Clk.ite (pwr_Clk.wktRefuse h _) (pwr_Clk.raise (pwr_Clk.wktSlew h _) _ _ _))))

theorem pwr_Clk.due {s t : State} (h : pwr_Clk s t) : pwr_Clk s t.wktDue := ⟨h.frt, h.dta, h.dtb, h.wkt, h.pwr⟩

theorem pwr_Clk.settle {s t : State} (h : pwr_Clk s t) : pwr_Clk s t.wktSettle := by
  unfold State.wktSettle
  extract_lets x
  split
  · exact pwr_Clk.eval (t := { t with tim := { x with evalDue := false } }) ⟨h.frt, h.dta, h.dtb, h.wkt, h.pwr⟩
  · exact h

theorem pwr_Clk.lose {s t : State} (h : pwr_Clk s t) (d : Nat) : pwr_Clk s (t.domLose d) := by
  unfold State.domLose
  split
  · exact pwr_Clk.due (pwr_Clk.raise (pwr_Clk.setDom (pwr_Clk.setF h _ _ _) _ _) _ _ _)
  · exact h

theorem pwr_Clk.foldl {α : Type} (f : State → α → State) (hf : ∀ s u x, pwr_Clk s u → pwr_Clk s (f u x)) (l : List α) {s t : State} (h : pwr_Clk s t) : pwr_Clk s (l.foldl f t) := by
  induction l generalizing t with
  | nil => exact h
  | cons x l ih => exact ih (hf _ _ _ h)

theorem pwr_span_bounds (n : Nat) (v : BitVec 128) : n * 4 * nsU ≤ sleepSpan n v + 30520 * nsU ∧ sleepSpan n v ≤ (n * 4 + 30520) * nsU := by
  unfold sleepSpan
  have h := Nat.mod_lt v.toNat (show 61040 * nsU + 1 > 0 by omega)
  generalize v.toNat % (61040 * nsU + 1) = r at *
  have e : (n * 4 + 30520) * nsU = n * 4 * nsU + 30520 * nsU := Nat.add_mul _ _ _
  have e2 : 61040 * nsU = 30520 * nsU + 30520 * nsU := by rw [← Nat.add_mul]
  rw [e]
  generalize 30520 * nsU = b at *
  generalize n * 4 * nsU = c at *
  omega

theorem pwr_pll_facts (s : State) (h : s.pwr.wakeStep = 2) : ∃ d : Nat, s.pllLocked.pwr.wakeStep = 3 ∧ s.pllLocked.pwr.lateSrc = none ∧ s.pllLocked.pwr.later = [] ∧
      s.pwr.ticks * 4 * nsU ≤ d + 30520 * nsU ∧ d ≤ (s.pwr.ticks * 4 + 30520) * nsU ∧
      s.pllLocked.tim.frt = taddU s.tim.frt d ∧ s.pllLocked.tim.dta = taddU s.tim.dta d ∧ s.pllLocked.tim.dtb = taddU s.tim.dtb d ∧ s.pllLocked.tim.wkt = taddU s.tim.wkt d := by
  have hb := pwr_span_bounds s.pwr.ticks s.fresh.1
  unfold State.pllLocked
  rw [if_pos h]
  dsimp only
  generalize sleepSpan s.pwr.ticks s.fresh.1 = d at *
  generalize hu : ({ s.fresh.2 with wktPrev := taddU s.tim.wkt d, tim := { s.tim with frt := taddU s.tim.frt d, dta := taddU s.tim.dta d, dtb := taddU s.tim.dtb d, wkt := taddU s.tim.wkt d } } : State) = u
  have u1 : u.tim.frt = taddU s.tim.frt d := by rw [← hu]
  have u2 : u.tim.dta = taddU s.tim.dta d := by rw [← hu]
  have u3 : u.tim.dtb = taddU s.tim.dtb d := by rw [← hu]
  have u4 : u.tim.wkt = taddU s.tim.wkt d := by rw [← hu]
  have c2 : pwr_Clk u ((u.domLose 0).domLose 1).wktSettle := pwr_Clk.settle (pwr_Clk.lose (pwr_Clk.lose ⟨rfl, rfl, rfl, rfl, rfl⟩ 0) 1)
  have c3 := pwr_Clk.frozen c2 s.tim.frozen
  generalize ((u.domLose 0).domLose 1).wktSettle = q at *
  generalize ({ q with tim := { q.tim with frozen := s.tim.frozen } } : State) = w at *
  have c5 : pwr_Clk u (w.pwr.later.foldl (fun u e => u.raise e.1 e.2.1 e.2.2) w) := pwr_Clk.foldl _ (fun _ _ _ h => pwr_Clk.raise h _ _ _) _ c3
  have c8 : w.raiseLater.tim = (w.pwr.later.foldl (fun u e => u.raise e.1 e.2.1 e.2.2) w).tim ∧ w.raiseLater.pwr.later = [] := ⟨rfl, rfl⟩
  generalize w.pwr.later.foldl (fun u e => u.raise e.1 e.2.1 e.2.2) w = v at *
  obtain ⟨c8, c9⟩ := c8
  generalize w.raiseLater = y at *
  have c6 : ∀ x : State, pwr_Clk y x → x.tim.frt = taddU s.tim.frt d ∧ x.tim.dta = taddU s.tim.dta d ∧ x.tim.dtb = taddU s.tim.dtb d ∧ x.tim.wkt = taddU s.tim.wkt d ∧ x.pwr.later = [] := by
    intro x hx
    exact ⟨hx.frt.trans (((congrArg TimSt.frt c8).trans c5.frt).trans u1), hx.dta.trans (((congrArg TimSt.dta c8).trans c5.dta).trans u2), hx.dtb.trans (((congrArg TimSt.dtb c8).trans c5.dtb).trans u3), hx.wkt.trans (((congrArg TimSt.wkt c8).trans c5.wkt).trans u4), by rw [hx.pwr]; exact c9⟩
  have c7 : ∀ x : State, pwr_Clk y x → ∃ d : Nat, (x.setPwr { x.pwr with wakeStep := 3, lateSrc := none }).pwr.wakeStep = 3 ∧ (x.setPwr { x.pwr with wakeStep := 3, lateSrc := none }).pwr.lateSrc = none ∧ (x.setPwr { x.pwr with wakeStep := 3, lateSrc := none }).pwr.later = [] ∧
      s.pwr.ticks * 4 * nsU ≤ d + 30520 * nsU ∧ d ≤ (s.pwr.ticks * 4 + 30520) * nsU ∧
      (x.setPwr { x.pwr with wakeStep := 3, lateSrc := none }).tim.frt = taddU s.tim.frt d ∧ (x.setPwr { x.pwr with wakeStep := 3, lateSrc := none }).tim.dta = taddU s.tim.dta d ∧ (x.setPwr { x.pwr with wakeStep := 3, lateSrc := none }).tim.dtb = taddU s.tim.dtb d ∧
      (x.setPwr { x.pwr with wakeStep := 3, lateSrc := none }).tim.wkt = taddU s.tim.wkt d := by
    intro x hx
    obtain ⟨a1, a2, a3, a4, a5⟩ := c6 x hx
    exact ⟨d, rfl, rfl, a5, hb.1, hb.2, a1, a2, a3, a4⟩
  split
  · exact c7 _ (pwr_Clk.raise ⟨rfl, rfl, rfl, rfl, rfl⟩ _ _ _)
  · exact c7 _ (pwr_Clk.raise ⟨rfl, rfl, rfl, rfl, rfl⟩ _ _ _)

def pwrRowPorts : RegRow := { base := 29360144, rw := 0x00ffffff#32, par := 0x00ffffff#32, cut := 0x01000001#32 }

def pwrRowBus : RegRow := { base := 29360148, rw := 0xffffffff#32, par := 0xffffffff#32, cut := 0x01000001#32 }

theorem pwr_aon_facts (s : State) (n c i a : Nat) (h : a ≠ EVT_SRC_STAT.a n) : (s.raiseAon n c i).reg a = s.reg a ∧ (s.raiseAon n c i).pwr.wisp = s.pwr.wisp ∧ (s.Canonical → (s.raiseAon n c i).Canonical) := by
  refine ⟨?_, ?_, (State.raiseAon_keeps (State.Keeps.refl s) _ _ _).canon⟩
  · unfold State.raiseAon
    split
    · rfl
    · exact State.reg_raise_ne _ _ _ _ _ h
  · unfold State.raiseAon
    split
    · rfl
    · rw [State.raise_same]

theorem pwr_count_facts (s : State) (n : Nat) (hn : n < 15) (hc : s.Canonical) : (s.wispCount n).pwr.wisp = s.pwr.wisp ∧ fldGet ((s.wispCount n).reg (PWR_WISP_STAT.a n)) PWR_WISP_STAT.count = min 127 (fldGet (s.reg (PWR_WISP_STAT.a n)) PWR_WISP_STAT.count + 1) := by
  unfold State.wispCount
  dsimp only
  have hm : satTo 127 (fldGet (s.reg (PWR_WISP_STAT.a n)) PWR_WISP_STAT.count + 1) = min 127 (fldGet (s.reg (PWR_WISP_STAT.a n)) PWR_WISP_STAT.count + 1) := by unfold satTo; split <;> omega
  rw [hm]
  generalize fldGet (s.reg (PWR_WISP_STAT.a n)) PWR_WISP_STAT.count + 1 = m
  have hr : fldGet ((s.setF (PWR_WISP_STAT.a n) PWR_WISP_STAT.count (min 127 m)).reg (PWR_WISP_STAT.a n)) PWR_WISP_STAT.count = min 127 m := by
    rw [reg_setF _ _ _ _ hc.regs]; exact (fldGet_fldSet _ _ _ (by decide)).trans (Nat.mod_eq_of_lt (show min 127 m < 128 by omega))
  have hp : (s.setF (PWR_WISP_STAT.a n) PWR_WISP_STAT.count (min 127 m)).pwr.wisp = s.pwr.wisp := rfl
  have hcv := (State.setF_keeps (State.Keeps.refl s) (PWR_WISP_STAT.a n) PWR_WISP_STAT.count (min 127 m)).canon hc
  generalize s.setF (PWR_WISP_STAT.a n) PWR_WISP_STAT.count (min 127 m) = v at *
  have ha := pwr_aon_facts v 56 1 n (PWR_WISP_STAT.a n) (by unfold PWR_WISP_STAT.a EVT_SRC_STAT.a; omega)
  have hca := ha.2.2 hcv
  split
  · split
    · constructor
      · exact ha.2.1.trans hp
      · refine (congrArg (fun w => fldGet w PWR_WISP_STAT.count) (reg_setF _ _ _ _ hca.regs)).trans ?_
        rw [fldGet_fldSet_ne _ _ _ _ (by decide) (by decide), ha.1]; exact hr
    · exact ⟨ha.2.1.trans hp, by rw [ha.1]; exact hr⟩
  · exact ⟨hp, hr⟩

theorem pwr_mask16 (v : Word) (r : Word) : fldGet ((r &&& ~~~0x00ffffff#32) ||| (v &&& 0x00ffffff#32)) PWR_PART_PORTS.ports = v.toNat % 16777216 := by
  rw [fldGet_eq]
  have : ((r &&& ~~~0x00ffffff#32) ||| (v &&& 0x00ffffff#32)).extractLsb' 0 24 = v.extractLsb' 0 24 := by
    ext k hk
    have h1 : (0x00ffffff#32).getLsbD k = true := by clear * - hk; revert k; decide
    have h2 : (4278190080#32).getLsbD k = false := by clear * - hk; revert k; decide
    simp [h1, h2]
  show (((r &&& ~~~0x00ffffff#32) ||| (v &&& 0x00ffffff#32)).extractLsb' 0 24).toNat = _
  rw [this]
  simp

theorem pwr_ports_off (new was : Nat) (l : List Nat) (u : State) (h : ∀ n ∈ l, u.on (ETH_PORT_CFG.a n) ETH_PORT_CFG.en = false) : l.foldl (fun u n =>
    if u.on (ETH_PORT_CFG.a n) ETH_PORT_CFG.en = false then u
    else if nbit new n && !(nbit was n) then u.portDisable n
    else if nbit was n && !(nbit new n) then u.portEnable n
    else u) u = u := by
  induction l with
  | nil => rfl
  | cons x l ih => rw [List.foldl_cons, if_pos (h x (by simp))]; exact ih (fun n hn => h n (by simp [hn]))

end Sys2Proof.Machine
end

