-- ==== Sys2Proof/Laws/RegisterRows.lean ====
section
/-! SUPPORT. Lemmas about the register, guarded, event and mailbox rows of the fabric. -/

namespace Sys2Proof.Machine

theorem State.raceWith_sess (s : State) (r : RegRow) (a : Nat) (w : Word) (h : Option Word) : (s.raceWith r a w h).sess = s.sess := by
  unfold State.raceWith
  split
  · rfl
  · dsimp only
    split
    · rfl
    · split
      · rfl
      · rw [State.integ_sess]; rfl

def regRaiseSt (s : State) (n : Nat) : EvtSt × Bool :=
  stormAfter (s.evtSt n) s.now (s.f (EVT_SRC_STORM.a n) EVT_SRC_STORM.storm_n) (s.f (EVT_SRC_STORM.a n) EVT_SRC_STORM.storm_win)

theorem reg_integAddr_ne (b : Nat) (hb : b < 17) : integAddr b ≠ EVT_SRC_STAT.a 59 ∧ integAddr b + 4 ≠ EVT_SRC_STAT.a 59 := by
  revert hb; revert b; decide

theorem State.setGuard_quiet (s : State) (b : Nat) (hc : s.Canonical) (hq : s.guardOf b = none) : s.setGuard b none = s := by
  have := Cells.set_get hc.guards b
  unfold State.guardOf at hq
  rw [hq] at this
  unfold State.setGuard
  rw [this]

theorem reg_rejectWrite_quiet (s : State) (k : Integ) (a : Nat) (hc : s.Canonical) (hq : s.guardOf (blockOf a) = none)
    (h : k = .unmapped ∨ guardBase (a / 4 * 4) = none) : s.rejectWrite k a = s.integ (blockOf a) k a := by
  unfold State.rejectWrite State.broken State.halfFault
  dsimp only
  rw [State.setGuard_quiet _ _ hc hq, hq]
  obtain h | h := h
  · rw [if_pos h]; rfl
  · rw [h]; simp; rfl

theorem reg_evtMay (s : State) (i a : Nat) (w : Word) (h : s.roleOf i = 1 ∨ s.roleOf i = 2) (he : evtClearable a = true) (h1 : (a = ROL_LC_REQ.a ∨ a = ROL_LC_REQ.a + 4) = False)
    (h2 : carrOnly a = false) : s.mayWrite i a w = true := by
  unfold State.mayWrite
  simp only [h1, h2, he]
  obtain h | h := h <;> simp [h]

theorem reg_pokeStat (s : State) (i : Nat) (n : Fin 64) (f : Fld) (hc : s.Canonical) (hq : s.guardOf 1 = none) (h : s.roleOf i = 1 ∨ s.roleOf i = 2)
    (hf : fldMask f &&& 0xd#32 = fldMask f) :
    s.poke i (EVT_SRC_STAT.a n.val) (fldMask f) =
      (s.setF (EVT_SRC_STAT.a n.val) f 0).evtStatWritten n.val (s.hw (EVT_SRC_STAT.a n.val)) (fldMask f) := by
  have hb : blockOf (EVT_SRC_STAT.a n.val) = 1 := by revert n; decide
  unfold State.poke
  rw [State.busWrite_may s i _ _ none _ (by rw [hb]; exact hq)
    (reg_evtMay s i _ _ h (by clear hb; revert n; decide) (by clear hb; revert n; simp; decide) (by clear hb; revert n; decide)) (by clear hb; revert n; decide)
    (by clear hb; revert n; decide) (kindOf_EVT_SRC_STAT n) (by decide) (by decide)]
  rw [State.regCommit_clear s _ i _ _ hc (by rfl) (by decide)]
  have e3 : BitVec.ofNat 32 (fldMask f).toNat = fldMask f := by rw [BitVec.ofNat_toNat, BitVec.setWidth_eq]
  have hm : clearMask { base := 1048584, s1 := 16, n1 := 64, w1c := 0x0000000d#32 } = 0xd#32 := by decide
  rw [e3, hm, fldSet_zero_of _ _ _ hf]
  unfold State.regEffect
  have hi : (foldPipe (EVT_SRC_STAT.a n.val) - 1048584) / 16 = n.val := by clear hb; revert n; decide
  simp only [hb, hi]
  rfl

theorem reg_pokeClr (s : State) (i : Nat) (n : Fin 64) (hc : s.Canonical) (hq : s.guardOf 1 = none) (h : s.roleOf i = 1 ∨ s.roleOf i = 2) :
    s.poke i (if n.val < 32 then EVT_CNT_CLR_LO.a else EVT_CNT_CLR_HI.a) (BitVec.ofNat 32 (2 ^ (n.val % 32))) =
      s.setF (EVT_SRC_STAT.a n.val) EVT_SRC_STAT.count 0 := by
  have key : ∀ base, s.evtClear base (BitVec.ofNat 32 (2 ^ (n.val % 32))) = s.setF (EVT_SRC_STAT.a (base + n.val % 32)) EVT_SRC_STAT.count 0 := by
    intro base
    unfold State.evtClear
    have hf : (List.range 32).filter (fun k => nbit (BitVec.ofNat 32 (2 ^ (n.val % 32))).toNat k) = [n.val % 32] := by revert n; decide
    rw [← List.foldl_filter, hf]
    rfl
  unfold State.poke
  by_cases hn : n.val < 32
  · rw [if_pos hn, State.busWrite_may s i _ _ none _ (by exact hq) (reg_evtMay s i _ _ h (by decide) (by simp; decide) (by decide)) (by decide) (by decide)
      kindOf_EVT_CNT_CLR_LO (by decide) (by decide), State.regCommit_strobe s _ i _ _ hc (by rfl) (by decide) (by decide)]
    have := key 0
    have e : 0 + n.val % 32 = n.val := by omega
    rw [e] at this
    rw [← this]
    have e3 : ∀ w : Word, BitVec.ofNat 32 w.toNat = w := by intro w; rw [BitVec.ofNat_toNat, BitVec.setWidth_eq]
    rw [e3]
    rfl
  · rw [if_neg hn, State.busWrite_may s i _ _ none _ (by exact hq) (reg_evtMay s i _ _ h (by decide) (by simp; decide) (by decide)) (by decide) (by decide)
      kindOf_EVT_CNT_CLR_HI (by decide) (by decide), State.regCommit_strobe s _ i _ _ hc (by rfl) (by decide) (by decide)]
    have := key 32
    have e : 32 + n.val % 32 = n.val := by omega
    rw [e] at this
    rw [← this]
    have e3 : ∀ w : Word, BitVec.ofNat 32 w.toNat = w := by intro w; rw [BitVec.ofNat_toNat, BitVec.setWidth_eq]
    rw [e3]
    rfl

end Sys2Proof.Machine
end

