-- ==== Sys2Proof/Laws/RingRows.lean ====
section
/-! SUPPORT. Lemmas about MDIO and descriptor rings. -/

namespace Sys2Proof.Machine

theorem ring_foldEmit (m : Nat) (p : Bool) (l : List Nat) (s : State) : (l.foldl (fun (u : State) b => u.emit (mdioOut m p b)) s).out = (l.map (mdioOut m p)).reverse ++ s.out ∧
    (l.foldl (fun (u : State) b => u.emit (mdioOut m p b)) s).mdio = s.mdio ∧ (l.foldl (fun (u : State) b => u.emit (mdioOut m p b)) s).regs = s.regs := by
  induction l generalizing s with
  | nil => exact ⟨rfl, rfl, rfl⟩
  | cons x r ih =>
    obtain ⟨h1, h2, h3⟩ := ih (s.emit (mdioOut m p x))
    refine ⟨?_, h2, h3⟩
    rw [List.foldl_cons, h1, List.map_cons, List.reverse_cons, List.append_assoc]
    rfl

theorem ring_mdio_go (o : State) (op arg : Nat) (h1 : 1 ≤ op) (h8 : op ≤ 8) (ha : arg < 2) (hok : mdioOk op (o.dw mdioCmd 0) (o.dw mdioCmd 1) = true) :
    o.mdioReq op arg = (mdioFrames op (o.dw mdioCmd 0) (o.dw mdioCmd 1)).foldl (fun (u : State) b => u.emit (mdioOut arg (o.on (ETH_MDIO_CFG.a arg) ETH_MDIO_CFG.pre_sup) b)) { o with mdio := { busy := true, op := op, master := arg, d0 := o.dw mdioCmd 0, d1 := o.dw mdioCmd 1 } } := by
  unfold State.mdioReq
  dsimp only
  have h0 : (op == 0) = false := beq_false_of_ne (by omega)
  rw [hok, decide_eq_true h1, decide_eq_true h8, h0, decide_eq_false (by omega), decide_eq_false (by omega)]
  rfl

theorem ring_mdio_no (o : State) (op arg : Nat) (h1 : 1 ≤ op) (h8 : op ≤ 8) (ha : arg < 2) (hok : mdioOk op (o.dw mdioCmd 0) (o.dw mdioCmd 1) = false) :
    o.mdioReq op arg = (o.mbxDone mdioCmd 2).mbxFail mdioCmd 2 := by
  unfold State.mdioReq
  dsimp only
  have h0 : (op == 0) = false := beq_false_of_ne (by omega)
  rw [hok, decide_eq_true h1, decide_eq_true h8, h0, decide_eq_false (by omega), decide_eq_false (by omega)]
  rfl

theorem ring_mdio_row (s : State) (i : Fin 3) (arg : BitVec 16) (hc : s.Canonical) (hm : s.MayOrder i.val mdioCmd) (ha : arg.toNat < 2) (op : Nat) (h1 : 1 ≤ op) (h8 : op ≤ 8) (c : Instr) (hx : exec c s = .next (s.live (s.request i.val mdioCmd op arg.toNat))) :
        (mdioOk op (s.dw mdioCmd 0) (s.dw mdioCmd 1) = true → ∃ t : State, exec c s = .next t ∧ t.mdio = { busy := true, op := op, master := arg.toNat, d0 := s.dw mdioCmd 0, d1 := s.dw mdioCmd 1 } ∧ fldGet (t.reg mdioCmd) MBX_CTRL.req = 1 ∧
          t.out = (((mdioFrames op (s.dw mdioCmd 0) (s.dw mdioCmd 1)).map (mdioOut arg.toNat (s.on (ETH_MDIO_CFG.a arg.toNat) ETH_MDIO_CFG.pre_sup))).reverse ++ (s.ordered i.val mdioCmd op arg.toNat).out)) ∧
        (mdioOk op (s.dw mdioCmd 0) (s.dw mdioCmd 1) = false → ∃ t : State, exec c s = .next t ∧ t.Refused mdioCmd 2 ∧ t.mdio = s.mdio) := by
  rw [next_live _ _ hm.may.powered, State.request_mdioCmd s i.val op arg.toNat hm (by omega) arg.isLt] at hx
  have hd : (s.ordered i.val mdioCmd op arg.toNat).dw mdioCmd = s.dw mdioCmd := by
    funext j; unfold State.dw; rw [State.reg_ordered_ne _ _ _ _ _ _ (by unfold mbxData; omega) (by unfold mbxData mdioCmd EVT_SRC_STAT.a; omega)]
  have hon : (s.ordered i.val mdioCmd op arg.toNat).on (ETH_MDIO_CFG.a arg.toNat) ETH_MDIO_CFG.pre_sup = s.on (ETH_MDIO_CFG.a arg.toNat) ETH_MDIO_CFG.pre_sup := by
    unfold State.on State.f State.hw State.parOf
    rw [State.reg_ordered_ne _ _ _ _ _ _ (by unfold ETH_MDIO_CFG.a mdioCmd; omega) (by unfold ETH_MDIO_CFG.a EVT_SRC_STAT.a; omega)]
    obtain ⟨a, b, c, d, pb, h⟩ := State.ordered_same s i.val mdioCmd op arg.toNat
    rw [h]
  have hcc := State.ordered_canon s i.val mdioCmd op arg.toNat hc
  have hreq : fldGet ((s.ordered i.val mdioCmd op arg.toNat).reg mdioCmd) MBX_CTRL.req = 1 := by
    unfold State.ordered
    rw [State.reg_audit_ne _ _ _ _ _ _ _ _ (by decide), State.reg_setReg _ _ _ hc.regs]
    exact fldGet_fldSet _ _ _ (by decide)
  have hmd : (s.ordered i.val mdioCmd op arg.toNat).mdio = s.mdio := by obtain ⟨a, b, c, d, pb, h⟩ := State.ordered_same s i.val mdioCmd op arg.toNat; rw [h]
  generalize s.ordered i.val mdioCmd op arg.toNat = o at *
  rw [← hd, ← hon]
  refine ⟨fun h => ?_, fun h => ?_⟩
  · rw [ring_mdio_go o op arg.toNat h1 h8 ha h] at hx
    obtain ⟨e1, e2, e3⟩ := ring_foldEmit arg.toNat (o.on (ETH_MDIO_CFG.a arg.toNat) ETH_MDIO_CFG.pre_sup) (mdioFrames op (o.dw mdioCmd 0) (o.dw mdioCmd 1)) { o with mdio := { busy := true, op := op, master := arg.toNat, d0 := o.dw mdioCmd 0, d1 := o.dw mdioCmd 1 } }
    refine ⟨_, hx, e2, ?_, e1⟩
    unfold State.reg
    rw [e3]
    exact hreq
  · rw [ring_mdio_no o op arg.toNat h1 h8 ha h] at hx
    refine ⟨_, hx, State.refused_of o mdioCmd 2 2 hcc (by decide), ?_⟩
    rw [State.refused_same]
    exact hmd

/-- A plain write whose initiator has the right to it. -/
theorem ring_poke_may (s : State) (i a : Nat) (w : Word) (r : RegRow) (hc : s.Canonical) (hq : s.guardOf (blockOf a) = none) (hw : s.mayWrite i a w = true) (hk : kindOf a = .reg r)
    (ha : (a % 4 == 0 && decide (a < 0x2000000) && a != ROL_LC_REQ.a) = true)
    (hr : (!r.guard && r.base != SEQ_CTRL.a 0 && r.base != POL_METER_CFG.a 0 0) = true) (hl : logged r = true) (hm : s.rwMask r a ≠ 0#32) :
    s.poke i a w = (s.committed r i a w).regEffect r i a (s.hw a) w := by
  simp only [Bool.and_eq_true, beq_iff_eq, bne_iff_ne, Bool.not_eq_true', decide_eq_true_eq] at hr ha
  obtain ⟨⟨a1, a2⟩, a3⟩ := ha
  obtain ⟨⟨h5, h6⟩, h7⟩ := hr
  have e0 : BitVec.ofNat 32 w.toNat = w := by simp
  have : s.poke i a w = s.regCommit r i a w none := by
    unfold State.poke
    rw [State.busWrite_may s i a w.toNat none r hq (by rw [e0]; exact hw) a1 a2 hk h5 h6, e0]
  rw [this]
  unfold State.regCommit State.preWrite
  rw [if_neg h7]
  dsimp only
  have e : ((s.setReg a (s.newVal r a w)).parClear a (s.rwMask r a)).reg a = s.newVal r a w := State.reg_setReg _ _ _ hc.regs
  have e2 : (s.rwMask r a != 0#32) = true := by simpa using hm
  unfold State.raceWith State.auditWrite
  dsimp only
  rw [e, hl, e2, if_neg a3]
  rfl

def ringRingRow (g : Nat) : RegRow := { base := ringReg g 0 8, s1 := 64, n1 := if g < 2 then 16 else 4, s2 := 4, n2 := 1, reset := 0x40#32, rw := if g % 2 = 0 then 0x80001fff#32 else 0xc0001fff#32, par := if g % 2 = 0 then 0x80001fff#32 else 0xc0001fff#32, cut := if g % 2 = 0 then 0x80002001#32 else 0xc0002001#32 }

theorem ring_ring_row (g : Fin 4) (r : Fin 16) : g.val < 2 ∨ r.val < 4 → kindOf (ringReg g.val r.val 8) = .reg (ringRingRow g.val) ∧ blockOf (ringReg g.val r.val 8) = 9 ∧ (foldPipe (ringReg g.val r.val 8) - (ringRingRow g.val).base) / (ringRingRow g.val).s1 = r.val ∧
    ((ringReg g.val r.val 8) % 4 == 0 && decide ((ringReg g.val r.val 8) < 0x2000000) && (ringReg g.val r.val 8) != ROL_LC_REQ.a) = true ∧ carrOnly (ringReg g.val r.val 8) = decide (2 ≤ g.val) ∧ ringReg g.val r.val 8 ≠ ROL_LC_REQ.a + 4 ∧
    ringReg g.val r.val 8 ≠ EVT_SRC_STAT.a 60 := by
  revert g r; decide

theorem ring_ring_eff (u : State) (g : Fin 4) (k i : Nat) (old w : Word) : u.effPort (ringRingRow g.val).base k i old w = u.ringCfgChanged g.val k old := by
  have hb : (ringRingRow g.val).base = ringReg g.val 0 8 := rfl
  rw [hb]
  unfold State.effPort
  have hn : ringReg g.val 0 8 ≠ QM_PORT_CFG.a 0 ∧ ¬(ringReg g.val 0 8 = QM_POOL.a ∨ ringReg g.val 0 8 = QM_SPILL_CFG.a) ∧ ringReg g.val 0 8 ≠ SLU_GATE.a 0 ∧ ringReg g.val 0 8 ≠ SHP_PORT_CFG.a 0 ∧ ringReg g.val 0 8 ≠ FRE_STR_CFG.a 0 ∧ ringReg g.val 0 8 ≠ CIP_TXSC.a 0 ∧
      ringReg g.val 0 8 ≠ CIP_ALARM_CTRL.a ∧ ringReg g.val 0 8 ≠ CIP_ALARM_STAT.a ∧ ringReg g.val 0 8 ≠ ETH_PORT_CFG.a 0 := by revert g; decide
  rw [if_neg hn.1, if_neg hn.2.1, if_neg hn.2.2.1, if_neg hn.2.2.2.1, if_neg hn.2.2.2.2.1, if_neg hn.2.2.2.2.2.1, if_neg hn.2.2.2.2.2.2.1, if_neg hn.2.2.2.2.2.2.2.1, if_neg hn.2.2.2.2.2.2.2.2]
  have key : g.val = 0 ∨ g.val = 1 ∨ g.val = 2 ∨ g.val = 3 := by omega
  have h01 : (ringReg 1 0 8 = ringReg 0 0 8) = False := by decide
  have h20 : (ringReg 2 0 8 = ringReg 0 0 8) = False := by decide
  have h21 : (ringReg 2 0 8 = ringReg 1 0 8) = False := by decide
  have h30 : (ringReg 3 0 8 = ringReg 0 0 8) = False := by decide
  have h31 : (ringReg 3 0 8 = ringReg 1 0 8) = False := by decide
  have h32 : (ringReg 3 0 8 = ringReg 2 0 8) = False := by decide
  clear hb hn
  obtain h | h | h | h := key <;> rw [h]
  · rw [if_pos rfl]
  · rw [if_neg (by rw [h01]; exact id), if_pos rfl]
  · rw [if_neg (by rw [h20]; exact id), if_neg (by rw [h21]; exact id), if_pos rfl]
  · rw [if_neg (by rw [h30]; exact id), if_neg (by rw [h31]; exact id), if_neg (by rw [h32]; exact id), if_pos rfl]

theorem ring_ring_write (s : State) (i : Nat) (g : Fin 4) (r : Fin 16) (v : Word) (hc : s.Canonical) (h : g.val < 2 ∨ (r.val < 4 ∧ i = 1)) (hm : s.May i (ringReg g.val r.val 8)) :
    s.poke i (ringReg g.val r.val 8) v = (s.committed (ringRingRow g.val) i (ringReg g.val r.val 8) v).ringCfgChanged g.val r.val (s.hw (ringReg g.val r.val 8)) := by
  obtain ⟨h1, h2, h3, h4, h5, h6, h7⟩ := ring_ring_row g r (by omega)
  have hmw : s.mayWrite i (ringReg g.val r.val 8) v = true := by
    unfold State.mayWrite
    dsimp only
    simp only [Bool.and_eq_true, bne_iff_ne] at h4
    rw [if_neg (by intro hh; obtain hh | hh := hh; exacts [h4.2 hh, h6 hh]), h5, hm.role]
    obtain h | ⟨_, rfl⟩ := h
    · rw [if_neg (by simp; omega)]; rfl
    · split <;> rfl
  have hrw : s.rwMask (ringRingRow g.val) (ringReg g.val r.val 8) = (ringRingRow g.val).rw ||| (ringRingRow g.val).rwh ||| (ringRingRow g.val).rwg := State.rwMask_plain _ _ _ (by clear * -; revert g; decide)
  rw [ring_poke_may s i _ v (ringRingRow g.val) hc hm.quiet hmw h1 h4 (by clear * -; revert g; decide) (by clear * -; revert g; decide) (by rw [hrw]; clear * -; revert g; decide)]
  unfold State.regEffect
  dsimp only
  rw [h2, h3, if_neg (by decide), if_neg (by decide), if_neg (by decide), if_neg (by decide)]
  rw [ring_ring_eff]

theorem ring_nbit31 (s : State) (g : Fin 4) (a : Nat) (w : Word) : nbit (s.newVal (ringRingRow g.val) a w).toNat 31 = nbit w.toNat 31 := by
  have h1 : (s.rwMask (ringRingRow g.val) a)[31] = true := by
    rw [State.rwMask_plain _ _ _ (by revert g; decide)]; revert g; decide
  have h2 : (clearMask (ringRingRow g.val))[31] = false := by clear * -; revert g; decide
  have e : (s.newVal (ringRingRow g.val) a w).getLsbD 31 = w.getLsbD 31 := by
    unfold State.newVal
    simp [h1, h2]
  unfold BitVec.getLsbD at e
  unfold nbit
  simpa [Nat.testBit_eq_decide_div_mod_eq] using e

theorem ring_fld31 (v : Word) (b : Nat) (h : b < 2) : nbit (fldSet v ⟨31, 31⟩ b).toNat 31 = decide (b = 1) := by
  have h1 := fldGet_fldSet v ⟨31, 31⟩ b (by decide)
  have h2 : fldGet (fldSet v ⟨31, 31⟩ b) ⟨31, 31⟩ = (fldSet v ⟨31, 31⟩ b).toNat / 2 ^ 31 % 2 := by unfold fldGet; rfl
  rw [h2] at h1
  unfold nbit
  rw [h1]
  have : b % 2 ^ (31 + 1 - 31) = b := Nat.mod_eq_of_lt h
  rw [this]
  by_cases hb : b = 1 <;> simp [hb]

end Sys2Proof.Machine
end

