-- ==== Sys2Proof/Laws/RoleRows.lean ====
section
/-! SUPPORT. Lemmas about challenges, responses, secrets and the lifecycle. -/

namespace Sys2Proof.Machine

theorem role_sessOf_setSess (s : State) (i : Nat) (x : RoleSess) (hc : s.Canonical) : (s.setSess i x).sessOf i = x := Cells.get_set hc.sess _ _

theorem role_sessOf_setSess_ne (s : State) (i j : Nat) (x : RoleSess) (h : j ≠ i) : (s.setSess i x).sessOf j = s.sessOf j := Cells.get_set_ne _ _ _ _ _ h

theorem role_chalAsk (s : State) (i : Nat) (op : Nat) (ho : op < 256) (hq : s.guardOf 2 = none) (h0 : fldGet (s.reg rolChal) MBX_CTRL.req = 0) :
    s.request i rolChal op 0 = (s.asked rolChal op 0).chalReq i op 0 := by
  rw [State.request_ask_may s i rolChal op 0 _ hq h0 ?_ ho (by decide) (by decide) (by decide) kindOf_rolChal rfl]
  · unfold State.mbxReq
    have hf : foldPipe rolChal = 1572864 := by decide
    dsimp only
    rw [hf]
    rfl
  · have e1 : ¬(rolChal = ROL_LC_REQ.a ∨ rolChal = ROL_LC_REQ.a + 4) := by decide
    have e2 : carrOnly rolChal = false := by decide
    unfold State.mayWrite
    rw [if_neg e1, e2]
    simp [roleEntry]

theorem role_chalReq_open (u : State) (i op : Nat) (hop : op = 1 ∨ op = 2 ∨ op = 3) (hl : (u.lockOf op).locked = false) :
    u.chalReq i op 0 = (({ u with freeIdx := u.freeIdx + 1 } : State).setSess i ⟨(u.sessOf i).role, (u.sessOf i).lastResult, op, op, Config.freeValue u.freeIdx, true, u.now + 25000000⟩).snap
      rolChal [nbits (Config.freeValue u.freeIdx).toNat 31 0, nbits (Config.freeValue u.freeIdx).toNat 63 32,
        nbits (Config.freeValue u.freeIdx).toNat 95 64, nbits (Config.freeValue u.freeIdx).toNat 127 96] := by
  have hk : (op == 1 || op == 2 || op == 3) = true := by obtain h | h | h := hop <;> subst h <;> decide
  unfold State.chalReq
  simp only [hk, hl, lowestErr]
  rfl

theorem role_chalReq_locked (u : State) (i op : Nat) (hop : op = 1 ∨ op = 2 ∨ op = 3) (hl : (u.lockOf op).locked = true) :
    u.chalReq i op 0 = (u.setSess i { u.sessOf i with reqRole := op }).mbxFail rolChal 3 := by
  have hk : (op == 1 || op == 2 || op == 3) = true := by obtain h | h | h := hop <;> subst h <;> decide
  unfold State.chalReq
  simp only [hk, hl, lowestErr]
  rfl

theorem role_respOrder (s : State) (i : Nat) (op : Nat) (ho : op < 256) (hq : s.guardOf 2 = none) (h0 : fldGet (s.reg rolResp) MBX_CTRL.req = 0)
    (hw : s.mayWrite i rolResp (BitVec.ofNat 32 (0 * 65536 + op * 256 + 1)) = true) :
    s.request i rolResp op 0 = (s.ordered i rolResp op 0).respReq i op 0 := by
  rw [State.request_order_may s i rolResp op 0 _ hq h0 hw ho (by decide) (by decide) (by decide) kindOf_rolResp rfl (by simp; decide), if_pos ?_]
  · unfold State.mbxReq
    have hf : foldPipe rolResp = 1573120 := by decide
    dsimp only
    rw [hf]
    rfl
  · unfold ctrlLogged
    rw [(request_fields op 0 ho (by decide)).1]
    rfl

theorem role_ordered_only (s : State) (i m op arg : Nat) : ∃ aud regs evt out pba, s.ordered i m op arg = { s with aud := aud, regs := regs, evt := evt, out := out, pcie := { s.pcie with pba := pba } } :=
  State.audit_only _ _ _ _ _ _ _ |> fun ⟨a, b, c, d, h⟩ => ⟨a, b, c, d, h⟩

theorem role_reg_ordered_ne (s : State) (i m op arg a : Nat) (h : a ≠ m) (h2 : a ≠ EVT_SRC_STAT.a 60) : (s.ordered i m op arg).reg a = s.reg a := by
  unfold State.ordered
  rw [State.reg_audit_ne _ _ _ _ _ _ _ _ h2, State.reg_setReg_ne _ _ _ _ h]

theorem role_authFail_facts (u : State) (i r : Nat) (hr : r ≠ 0) (hc : u.Canonical) : (u.authFail i r).sess = u.sess ∧
    ((u.authFail i r).lockOf r).fails = (u.lockOf r).fails + 1 ∧
    (((u.authFail i r).lockOf r).fails % 4 = 0 → ((u.authFail i r).lockOf r).locked = true ∧
        ((u.authFail i r).lockOf r).lockEnd = u.now + 250000000 * min 320 (10 * 2 ^ (u.lockOf r).locks)) ∧
    (∀ a, a ≠ EVT_SRC_STAT.a 60 → (u.authFail i r).reg a = u.reg a) := by
  unfold State.authFail
  dsimp only
  rw [if_neg hr]
  have hcl : Cells.wf (fun _ => ({} : RoleLock)) (u.raise 60 2 i).lock = true := by rw [State.raise_lock]; exact hc.lock
  split
  · rename_i h4
    have hk : ∀ x, (((u.raise 60 2 i).setLock r x).raise 60 3 i).lockOf r = x := by
      intro x; unfold State.lockOf; rw [State.raise_lock]; exact Cells.get_set hcl _ _
    refine ⟨?_, ?_, ?_, ?_⟩
    · rw [State.raise_sess]; show (u.raise 60 2 i).sess = _; rw [State.raise_sess]
    · rw [hk]
    · intro _; rw [hk]; refine ⟨rfl, ?_⟩
      dsimp only; unfold msTicks; omega
    · intro a ha
      rw [State.reg_raise_ne _ _ _ _ _ ha]; show (u.raise 60 2 i).reg a = _; rw [State.reg_raise_ne _ _ _ _ _ ha]
  · rename_i h4
    have hk : ∀ x, ((u.raise 60 2 i).setLock r x).lockOf r = x := by
      intro x; exact Cells.get_set hcl _ _
    refine ⟨?_, ?_, ?_, ?_⟩
    · show (u.raise 60 2 i).sess = _; rw [State.raise_sess]
    · rw [hk]
    · intro q; rw [hk] at q; exact absurd q h4
    · intro a ha
      show (u.raise 60 2 i).reg a = _; rw [State.reg_raise_ne _ _ _ _ _ ha]

theorem role_mbxDone_sess (s : State) (m n : Nat) : (s.mbxDone m n).sess = s.sess := by rw [State.mbxDone_same]

theorem role_mbxDone_lock (s : State) (m n : Nat) : (s.mbxDone m n).lock = s.lock := by rw [State.mbxDone_same]

theorem role_get_done_sess (s : State) (m n i : Nat) : (s.mbxDone m n).sessOf i = s.sessOf i := by unfold State.sessOf; rw [role_mbxDone_sess]

theorem role_get_done_lock (s : State) (m n i : Nat) : (s.mbxDone m n).lockOf i = s.lockOf i := by unfold State.lockOf; rw [role_mbxDone_lock]

theorem role_lcCommit (s : State) (i : Nat) (w : Word) (hc : s.Canonical) (hq : s.guardOf 2 = none) (hr : s.roleOf i = 3) :
    s.pokeGuarded i ROL_LC_REQ.a w = ((s.setReg ROL_LC_REQ.a ((s.reg ROL_LC_REQ.a &&& ~~~3#32) ||| (w &&& 3#32))).parClear ROL_LC_REQ.a 3#32).lcRequest i (fldGet (((s.setReg ROL_LC_REQ.a ((s.reg ROL_LC_REQ.a &&& ~~~3#32) ||| (w &&& 3#32))).parClear ROL_LC_REQ.a 3#32).reg ROL_LC_REQ.a) ROL_LC_REQ.target) := by
  have k2 : kindOf (ROL_LC_REQ.a + 4) = .comp { base := 1573416, rwg := 0x00000003#32, par := 0x00000003#32, tri := 0x00000003#32, cut := 0x00000005#32, guard := true } := by decide
  rw [State.pokeGuarded_commit s i ROL_LC_REQ.a w _ hc hq (by decide) (by decide) kindOf_ROL_LC_REQ rfl k2 ?_ ?_]
  · unfold State.regCommit State.preWrite
    rw [if_neg (by decide)]
    dsimp only
    have hm : s.rwMask { base := 1573416, rwg := 0x00000003#32, par := 0x00000003#32, tri := 0x00000003#32, cut := 0x00000005#32, guard := true } ROL_LC_REQ.a = 3#32 := rfl
    have hn : s.newVal { base := 1573416, rwg := 0x00000003#32, par := 0x00000003#32, tri := 0x00000003#32, cut := 0x00000005#32, guard := true } ROL_LC_REQ.a w = (s.reg ROL_LC_REQ.a &&& ~~~3#32) ||| (w &&& 3#32) := by
      unfold State.newVal
      rw [hm]
      have : clearMask { base := 1573416, rwg := 0x00000003#32, par := 0x00000003#32, tri := 0x00000003#32, cut := 0x00000005#32, guard := true } = 0#32 := by decide
      rw [this]
      simp [and_ones]
    rw [hm, hn]
    rfl
  · intro v
    unfold State.mayWrite
    rw [if_pos (.inl rfl), hr]
    rfl
  · intro g v
    unfold State.mayWrite
    rw [if_pos (.inr rfl)]
    show (s.roleOf i == 3) = true
    rw [hr]
    rfl

theorem role_lcVal (r w : Word) : fldGet ((r &&& ~~~3#32) ||| (w &&& 3#32)) ROL_LC_REQ.target = w.toNat % 4 := by
  rw [fldGet_eq]
  have : ((r &&& ~~~3#32) ||| (w &&& 3#32)).extractLsb' 0 2 = w.extractLsb' 0 2 := by
    ext k hk
    have : k = 0 ∨ k = 1 := by omega
    obtain h | h := this <;> subst h <;> simp
  show (((r &&& ~~~3#32) ||| (w &&& 3#32)).extractLsb' 0 2).toNat = _
  rw [this]
  simp

end Sys2Proof.Machine
end

