-- ==== Sys2Proof/Laws/Yufen.lean ====
section
/-! SUPPORT. What the issue of a Yufen instruction does: the sequencer's registers, its pc, and the rest of the machine. -/

namespace Sys2Proof.Machine

/-- A read of a vector after a write. -/
theorem getD_setIn {α : Type} {n : Nat} (v : Vector α n) (i j : Nat) (x d : α) (hi : i < n) :
    (v.setIfInBounds i x).getD j d = if i = j then x else v.getD j d := by
  have hs : i < v.toArray.size := by rw [v.size_toArray]; exact hi
  show (v.setIfInBounds i x).toArray.getD j d = if i = j then x else v.toArray.getD j d
  rw [Vector.toArray_setIfInBounds, Array.getD_eq_getD_getElem?, Array.getD_eq_getD_getElem?, Array.getElem?_setIfInBounds]
  by_cases h : i = j
  · rw [if_pos h, if_pos hs, if_pos h]; rfl
  · rw [if_neg h, if_neg h]

theorem State.sq_setReg (s : State) (a : Nat) (w : Word) (n : Nat) : (s.setReg a w).sq n = s.sq n := rfl

theorem State.setSq_setSq (s : State) (n : Nat) (x y : SeqSt) (hc : s.Canonical) : (s.setSq n x).setSq n y = s.setSq n y := by
  unfold State.setSq
  dsimp only
  rw [Cells.set_set hc.seq]

theorem State.setSq_self (s : State) (n : Nat) (hc : s.Canonical) : s.setSq n (s.sq n) = s := by
  unfold State.setSq State.sq
  rw [Cells.set_get hc.seq]

theorem State.Holds.run {s : State} {n : Nat} {w : Word} (h : s.Holds n w) (f : State → State) : s.yIssue n w f = f (s.yBegin n) := by
  unfold State.yIssue
  dsimp only
  rw [if_pos (by rw [h.live, h.idle, h.due]; rfl), if_neg (by rw [h.wdog]; decide), if_pos h.word]

theorem State.Issues.run {s : State} {n : Nat} {w : Word} (h : s.Issues n w) (f : State → State) : s.yIssue n w f = f (s.yBegin n) := h.holds.run f

theorem State.yGo_in (s t : State) (n : Nat) (target : Int) (c : Nat) (h0 : 0 ≤ target) (h : target < (s.progLen n : Int)) :
    s.yGo n target c t = (t.setPc n target.toNat).yCost n c := by
  unfold State.yGo
  rw [if_pos ⟨h0, h⟩]

/-- The state in which an instruction of sequencer `n` acts. -/
theorem State.yBegin_regs (s : State) (n a : Nat) : (s.yBegin n).reg a = s.reg a := rfl

theorem State.yBegin_sq (s : State) (n : Nat) (hc : s.Canonical) : (s.yBegin n).sq n = { s.sq n with cyc := s.yCycle n } := State.sq_setSq s n _ hc

theorem State.yBegin_canon (s : State) (n : Nat) (hc : s.Canonical) : (s.yBegin n).Canonical := (State.yBegin_keeps (State.Keeps.refl s) n).canon hc

theorem State.yBegin_gr (s : State) (n : Nat) (k : BitVec 4) (hc : s.Canonical) : (s.yBegin n).gr n k = s.gr n k := by
  unfold State.gr; rw [State.yBegin_sq s n hc]

theorem State.yBegin_tr (s : State) (n : Nat) (k : BitVec 2) (hc : s.Canonical) : (s.yBegin n).tr n k = s.tr n k := by
  unfold State.tr SeqSt.treg; rw [State.yBegin_sq s n hc]

theorem State.yBegin_ar (s : State) (n : Nat) (k : BitVec 2) (hc : s.Canonical) : (s.yBegin n).ar n k = s.ar n k := by
  unfold State.ar; rw [State.yBegin_sq s n hc]

theorem State.yBegin_pc (s : State) (n : Nat) : (s.yBegin n).seqPc n = s.seqPc n := rfl

theorem State.yBegin_len (s : State) (n : Nat) : (s.yBegin n).progLen n = s.progLen n := rfl

/-- An instruction that leaves `y` of its sequencer goes on to `pc`. -/
theorem State.ran_core (s : State) (n : Nat) (y : SeqSt) (pc c : Nat) (hc : s.Canonical) (hl : s.seqState n = 1) (hp : pc < 32768)
    (hy : y = { s.sq n with cyc := s.yCycle n, g := y.g, t := y.t, ax := y.ax, ws := y.ws }) :
    let t := (((s.yBegin n).setSq n y).setPc n pc).yCost n c
    s.Ran t n pc c ∧ t.sq n = { y with cyc := s.yCycle n + c } := by
  dsimp only
  have hb : (s.yBegin n).setSq n y = s.setSq n y := State.setSq_setSq s n _ y hc
  rw [hb]
  have hcy : (s.setSq n y).Canonical := (State.setSq_keeps (State.Keeps.refl s) n y).canon hc
  have hcp : ((s.setSq n y).setPc n pc).Canonical := (State.setPc_keeps (State.Keeps.refl _) n pc).canon hcy
  have hq : ((s.setSq n y).setPc n pc).sq n = y := State.sq_setSq s n y hc
  have hcyc : y.cyc = s.yCycle n := by rw [hy]
  have hsq : (((s.setSq n y).setPc n pc).yCost n c).sq n = { y with cyc := s.yCycle n + c } := by
    unfold State.yCost
    dsimp only
    rw [State.sq_setSq _ _ _ hcp, hq, hcyc]
  have hr : (((s.setSq n y).setPc n pc).yCost n c).reg (SEQ_STAT.a n) = fldSet (s.reg (SEQ_STAT.a n)) SEQ_STAT.pc pc := State.reg_setReg _ _ _ hc.regs
  refine ⟨⟨rfl, ?_, ?_, ?_, ?_, ?_⟩, hsq⟩
  · unfold State.seqPc
    rw [hr, fldGet_fldSet _ _ _ (by decide)]
    unfold SEQ_STAT.pc
    dsimp only
    omega
  · unfold State.seqState
    rw [hr, fldGet_fldSet_ne _ _ _ _ (by decide) (by decide)]
    exact hl
  · intro a ha
    exact State.reg_setF_ne _ _ _ _ _ ha
  · intro m hm
    unfold State.yCost
    dsimp only
    rw [State.sq_setSq_ne _ _ _ _ hm]
    exact State.sq_setSq_ne _ _ _ _ hm
  · rw [hsq]
    conv => lhs; rw [hy]

theorem State.Holds.running {s : State} {n : Nat} {w : Word} (h : s.Holds n w) : s.seqState n = 1 := by
  have := h.live
  unfold State.seqLive at this
  simp only [Bool.and_eq_true, beq_iff_eq] at this
  exact this.1.2

theorem State.Issues.running {s : State} {n : Nat} {w : Word} (h : s.Issues n w) : s.seqState n = 1 := h.holds.running

/-- A result in a general register. -/
theorem State.Issues.yields {s : State} {n : Nat} {w : Word} (h : s.Issues n w) (hc : s.Canonical) (f : State → State) (d : BitVec 4) (v : Word) (c : Nat)
    (hf : f (s.yBegin n) = (s.yBegin n).ySet n d v c) : s.Yields (.next (s.yIssue n w f)) n d v c := by
  rw [h.run, hf]
  unfold State.ySet State.yNext
  have hi := h.inside
  rw [State.yGo_in _ _ _ _ _ (by omega) (by rw [State.yBegin_len, State.yBegin_pc]; omega), State.yBegin_pc]
  have hp : ((s.seqPc n + 1 : Nat) : Int).toNat = s.seqPc n + 1 := by omega
  rw [hp]
  have hlen : s.seqPc n + 1 < 32768 := by unfold State.progLen at hi; omega
  by_cases hd : d = 0#4
  · have e : (s.yBegin n).setGr n d v = (s.yBegin n).setSq n { s.sq n with cyc := s.yCycle n } := by
      rw [← State.yBegin_sq s n hc, State.setSq_self _ _ (State.yBegin_canon s n hc)]
      unfold State.setGr
      rw [if_pos hd]
    rw [e]
    obtain ⟨h1, h2⟩ := State.ran_core s n { s.sq n with cyc := s.yCycle n } (s.seqPc n + 1) c hc h.running hlen rfl
    refine ⟨_, rfl, h1, ?_, ?_, ?_, ?_⟩
    · intro k
      rw [if_neg (by simp [hd])]
      unfold State.gr
      rw [h2]
    · rw [h2]
    · rw [h2]
    · rw [h2]
  · have e : (s.yBegin n).setGr n d v = (s.yBegin n).setSq n { s.sq n with cyc := s.yCycle n, g := (s.sq n).g.setIfInBounds d.toNat v } := by
      unfold State.setGr
      dsimp only
      rw [if_neg hd, State.yBegin_sq s n hc]
    rw [e]
    obtain ⟨h1, h2⟩ := State.ran_core s n { s.sq n with cyc := s.yCycle n, g := (s.sq n).g.setIfInBounds d.toNat v } (s.seqPc n + 1) c hc h.running hlen rfl
    refine ⟨_, rfl, h1, ?_, ?_, ?_, ?_⟩
    · intro k
      unfold State.gr
      rw [h2]
      dsimp only
      rw [getD_setIn _ _ _ _ _ d.isLt]
      by_cases hk : k = d
      · subst hk; simp [hd]
      · have h1 : ¬(d.toNat = k.toNat) := fun h => hk (BitVec.eq_of_toNat_eq h.symm)
        have h2 : ¬(k = d ∧ d ≠ 0#4) := fun h => hk h.1
        simp only [if_neg h1, if_neg h2]
    · rw [h2]
    · rw [h2]
    · rw [h2]

/-- An instruction that leaves `y` of its sequencer and steps on. -/
theorem State.Issues.goes {s : State} {n : Nat} {w : Word} (h : s.Issues n w) (hc : s.Canonical) (f : State → State) (y : SeqSt) (c : Nat)
    (hy : y = { s.sq n with cyc := s.yCycle n, g := y.g, t := y.t, ax := y.ax, ws := y.ws })
    (hf : f (s.yBegin n) = (s.yBegin n).yNext n c ((s.yBegin n).setSq n y)) :
    ∃ t : State, s.yIssue n w f = t ∧ s.Ran t n (s.seqPc n + 1) c ∧ t.sq n = { y with cyc := s.yCycle n + c } := by
  rw [h.run, hf]
  unfold State.yNext
  have hi := h.inside
  rw [State.yGo_in _ _ _ _ _ (by omega) (by rw [State.yBegin_len, State.yBegin_pc]; omega), State.yBegin_pc]
  have hp : ((s.seqPc n + 1 : Nat) : Int).toNat = s.seqPc n + 1 := by omega
  rw [hp]
  have hlen : s.seqPc n + 1 < 32768 := by unfold State.progLen at hi; omega
  obtain ⟨h1, h2⟩ := State.ran_core s n y (s.seqPc n + 1) c hc h.running hlen hy
  exact ⟨_, rfl, h1, h2⟩

/-- A result in a time register. -/
theorem State.Issues.yieldsTime {s : State} {n : Nat} {w : Word} (h : s.Issues n w) (hc : s.Canonical) (f : State → State) (d : BitVec 2) (v c : Nat)
    (hv : v < 2 ^ 96) (hf : f (s.yBegin n) = (s.yBegin n).yNext n c ((s.yBegin n).setTr n d v)) :
    s.YieldsTime (.next (s.yIssue n w f)) n d v c := by
  obtain ⟨t, e, h1, h2⟩ := h.goes hc f { s.sq n with cyc := s.yCycle n, t := (s.sq n).t.setIfInBounds d.toNat (BitVec.ofNat 96 v) } c rfl (by
    rw [hf]
    unfold State.setTr
    dsimp only
    rw [State.yBegin_sq s n hc])
  refine ⟨t, by rw [e], h1, ?_, ?_, ?_, ?_⟩
  · intro k
    unfold State.tr SeqSt.treg
    rw [h2]
    dsimp only
    rw [getD_setIn _ _ _ _ _ d.isLt]
    by_cases hk : k = d
    · subst hk
      simp only [if_true]
      rw [BitVec.toNat_ofNat, Nat.mod_eq_of_lt hv]
    · have h1 : ¬(d.toNat = k.toNat) := fun h => hk (BitVec.eq_of_toNat_eq h.symm)
      simp only [if_neg h1, if_neg hk]
  · rw [h2]
  · rw [h2]
  · rw [h2]

/-- A result in an angle register, with or without a new ws. -/
theorem State.Issues.yieldsAngle {s : State} {n : Nat} {w : Word} (h : s.Issues n w) (hc : s.Canonical) (f : State → State) (d : BitVec 2) (v ws : Word) (c : Nat)
    (hf : f (s.yBegin n) = (s.yBegin n).yNext n c ((s.yBegin n).setSq n { s.sq n with cyc := s.yCycle n, ax := (s.sq n).ax.setIfInBounds d.toNat v, ws := ws })) :
    s.YieldsAngle (.next (s.yIssue n w f)) n d v ws c := by
  obtain ⟨t, e, h1, h2⟩ := h.goes hc f { s.sq n with cyc := s.yCycle n, ax := (s.sq n).ax.setIfInBounds d.toNat v, ws := ws } c rfl hf
  refine ⟨t, by rw [e], h1, ?_, ?_, ?_, ?_⟩
  · intro k
    unfold State.ar
    rw [h2]
    dsimp only
    rw [getD_setIn _ _ _ _ _ d.isLt]
    by_cases hk : k = d
    · subst hk; simp
    · have h1 : ¬(d.toNat = k.toNat) := fun h => hk (BitVec.eq_of_toNat_eq h.symm)
      simp only [if_neg h1, if_neg hk]
  · rw [h2]
  · rw [h2]
  · rw [h2]

/-! ### Times (05 R96, R102) -/

theorem tbits_lt (a b c : Nat) : tbits a b c < 2 ^ 96 := by unfold tbits; omega

theorem tSec_tbits (a b c : Nat) : tSec (tbits a b c) = a % 2 ^ 48 := by unfold tSec tbits; omega

theorem tNs_tbits (a b c : Nat) : tNs (tbits a b c) = b % 2 ^ 30 := by unfold tNs tbits; omega

theorem tFr_tbits (a b c : Nat) : tFr (tbits a b c) = c % 2 ^ 16 := by unfold tFr tbits; omega

theorem clockT_mkTime (sec ns fr : Nat) (hn : ns < 1000000000) (hf : fr < 65536) : clockT (mkTime sec ns fr) = tbits sec ns fr := by
  have h1 : secOf (mkTime sec ns fr) = sec % 2 ^ 48 := by
    unfold secOf mkTime secU nsU
    omega
  have h2 : nsOf (mkTime sec ns fr) = ns := by
    unfold nsOf mkTime secU nsU
    omega
  have h3 : frac16 (mkTime sec ns fr) = fr := by
    unfold frac16 mkTime secU nsU
    omega
  unfold clockT
  rw [h1, h2, h3]
  unfold tbits
  omega

/-! ### States and traps (06 R121, R141; 05 R114) -/

theorem State.gwRelease_fold (s : State) (l : List Nat) : ∃ m, l.foldl (fun u x => u.gwRelease x) s = { s with msgs := m } := by
  induction l generalizing s with
  | nil => exact ⟨s.msgs, rfl⟩
  | cons x r ih =>
    obtain ⟨m, h⟩ := ih (s.gwRelease x)
    exact ⟨m, h⟩

/-- A release of all handles touches the pool and the handles only. -/
theorem State.gwReleaseAll_same (s : State) (n : Nat) : ∃ m h, s.gwReleaseAll n = { s with msgs := m, held := h } := by
  unfold State.gwReleaseAll
  obtain ⟨m, h⟩ := State.gwRelease_fold s (s.heldBy n)
  rw [h]
  exact ⟨_, _, rfl⟩

theorem State.enterSeq_canon (s : State) (n st : Nat) (hc : s.Canonical) : (s.enterSeq n st).Canonical :=
  (State.enterSeq_keeps (State.Keeps.refl s) n st).canon hc

theorem State.enterSeq_sq (s : State) (n st : Nat) (hc : s.Canonical) : (s.enterSeq n st).sq n = { s.sq n with wait := {} } := by
  unfold State.enterSeq State.setWait
  exact State.sq_setSq s n _ hc

theorem State.enterSeq_sq_ne (s : State) (n st m : Nat) (h : m ≠ n) : (s.enterSeq n st).sq m = s.sq m := by
  unfold State.enterSeq State.setWait
  exact State.sq_setSq_ne s n m _ h

theorem State.enterSeq_reg (s : State) (n st : Nat) (hc : s.Canonical) :
    (s.enterSeq n st).reg (SEQ_STAT.a n) = fldSet (fldSet (s.reg (SEQ_STAT.a n)) SEQ_STAT.wait 0) SEQ_STAT.state st := by
  have h1 : (s.setWait n {}).reg (SEQ_STAT.a n) = fldSet (s.reg (SEQ_STAT.a n)) SEQ_STAT.wait 0 := State.reg_setReg _ _ _ hc.regs
  have h2 : (s.setWait n {}).Canonical := (State.setWait_keeps (State.Keeps.refl s) n {}).canon hc
  rw [← h1]
  exact State.reg_setReg _ _ _ h2.regs

theorem State.enterSeq_reg_ne (s : State) (n st a : Nat) (h : a ≠ SEQ_STAT.a n) : (s.enterSeq n st).reg a = s.reg a := by
  unfold State.enterSeq State.setWait
  rw [State.reg_setF_ne _ _ _ _ _ h]
  exact State.reg_setF_ne _ _ _ _ _ h

theorem State.enterSeq_state (s : State) (n st : Nat) (hc : s.Canonical) (h : st < 8) : (s.enterSeq n st).seqState n = st := by
  unfold State.seqState
  rw [State.enterSeq_reg s n st hc, fldGet_fldSet _ _ _ (by decide)]
  unfold SEQ_STAT.state
  dsimp only
  omega

theorem State.enterSeq_pc (s : State) (n st : Nat) (hc : s.Canonical) : (s.enterSeq n st).seqPc n = s.seqPc n := by
  unfold State.seqPc
  rw [State.enterSeq_reg s n st hc, fldGet_fldSet_ne _ _ _ _ (by decide) (by decide), fldGet_fldSet_ne _ _ _ _ (by decide) (by decide)]

theorem State.enterSeq_rest (s : State) (n st : Nat) : s.enterSeq n st = { s with regs := (s.enterSeq n st).regs, seq := (s.enterSeq n st).seq } := rfl

theorem State.sq_setFs (s : State) (a n : Nat) (l : List (Fld × Nat)) : (s.setFs a l).sq n = s.sq n := rfl

theorem State.par_setFs (s : State) (a b : Nat) (l : List (Fld × Nat)) : (s.setFs a l).parOf b = s.parOf b := rfl

theorem State.gwReleaseAll_sq (s : State) (n m : Nat) : (s.gwReleaseAll n).sq m = s.sq m := by
  obtain ⟨x, h, e⟩ := State.gwReleaseAll_same s n
  rw [e]; rfl

theorem State.gwReleaseAll_reg (s : State) (n a : Nat) : (s.gwReleaseAll n).reg a = s.reg a := by
  obtain ⟨x, h, e⟩ := State.gwReleaseAll_same s n
  rw [e]; rfl

theorem State.gwReleaseAll_par (s : State) (n a : Nat) : (s.gwReleaseAll n).parOf a = s.parOf a := by
  obtain ⟨x, h, e⟩ := State.gwReleaseAll_same s n
  rw [e]; rfl

theorem State.gwReleaseAll_canon (s : State) (n : Nat) (hc : s.Canonical) : (s.gwReleaseAll n).Canonical :=
  (State.gwReleaseAll_keeps (State.Keeps.refl s) n).canon hc

theorem State.enterSeq_par (s : State) (n st a : Nat) : (s.enterSeq n st).parOf a = s.parOf a := rfl

/-- The state of a trap before what it does with the queue: the registers of the sequencer. -/
theorem State.trap_core (s u : State) (n : Fin 8) (code user : Nat) (hc : u.Canonical) (h1 : code < 256) (h2 : user < 65536)
    (hpc : u.seqPc n.val = s.seqPc n.val) (hs : u.sq n.val = { s.sq n.val with cyc := (u.sq n.val).cyc }) :
    ∃ v : State, u.trap n.val code user = v.trapQueue n.val ∧ v.Canonical ∧ v.seqState n.val = 4 ∧ v.seqPc n.val = s.seqPc n.val ∧
      fldGet (v.reg (SEQ_TRAP.a n.val)) SEQ_TRAP.code = code ∧ fldGet (v.reg (SEQ_TRAP.a n.val)) SEQ_TRAP.user_code = user ∧
      v.sq n.val = { s.sq n.val with cyc := (u.sq n.val).cyc, wait := {} } ∧ (∀ f, v.f (SEQ_WDOG.a n.val) f = u.f (SEQ_WDOG.a n.val) f) ∧
      v.phs = u.phs ∧ v.now = u.now ∧ ∀ d, v.reg (PHS_STAT.a d) = u.reg (PHS_STAT.a d) := by
  unfold State.trap
  dsimp only
  have hec := State.enterSeq_canon u n.val 4 hc
  have hgc := State.gwReleaseAll_canon _ n.val hec
  have hn := n.isLt
  have hne : SEQ_STAT.a n.val ≠ SEQ_TRAP.a n.val := by unfold SEQ_STAT.a SEQ_TRAP.a; omega
  have hne2 : SEQ_WDOG.a n.val ≠ SEQ_TRAP.a n.val := by unfold SEQ_WDOG.a SEQ_TRAP.a; omega
  have hne3 : SEQ_WDOG.a n.val ≠ SEQ_STAT.a n.val := by unfold SEQ_WDOG.a SEQ_STAT.a; omega
  have hne4 : ∀ d, PHS_STAT.a d ≠ SEQ_TRAP.a n.val := by intro d; unfold PHS_STAT.a SEQ_TRAP.a; omega
  have hne5 : ∀ d, PHS_STAT.a d ≠ SEQ_STAT.a n.val := by intro d; unfold PHS_STAT.a SEQ_STAT.a; omega
  have hne6 : ∀ d, PHS_STAT.a d ≠ EVT_SRC_STAT.a (33 + n.val) := by intro d; unfold PHS_STAT.a EVT_SRC_STAT.a; omega
  generalize hv : ((u.enterSeq n.val 4).gwReleaseAll n.val).setFs (SEQ_TRAP.a n.val) [(SEQ_TRAP.user_code, user), (SEQ_TRAP.code, code)] = v
  have hvc : v.Canonical := by rw [← hv]; exact (State.setFs_keeps (State.Keeps.refl _) _ _).canon hgc
  have hvs : v.sq n.val = { u.sq n.val with wait := {} } := by rw [← hv, State.sq_setFs, State.gwReleaseAll_sq, State.enterSeq_sq u n.val 4 hc]
  have hvr : v.reg (SEQ_STAT.a n.val) = (u.enterSeq n.val 4).reg (SEQ_STAT.a n.val) := by rw [← hv, State.reg_setFs_ne _ _ _ _ hne, State.gwReleaseAll_reg]
  have hvw : v.reg (SEQ_WDOG.a n.val) = u.reg (SEQ_WDOG.a n.val) := by
    rw [← hv, State.reg_setFs_ne _ _ _ _ hne2, State.gwReleaseAll_reg, State.enterSeq_reg_ne u n.val 4 _ hne3]
  have hvd : ∀ d, v.reg (PHS_STAT.a d) = u.reg (PHS_STAT.a d) := by
    intro d
    rw [← hv, State.reg_setFs_ne _ _ _ _ (hne4 d), State.gwReleaseAll_reg, State.enterSeq_reg_ne u n.val 4 _ (hne5 d)]
  have hvp : ∀ a, v.parOf a = u.parOf a := by intro a; rw [← hv, State.par_setFs, State.gwReleaseAll_par, State.enterSeq_par]
  have hph : v.phs = u.phs ∧ v.now = u.now := by
    obtain ⟨m, h, hg⟩ := State.gwReleaseAll_same (u.enterSeq n.val 4) n.val
    rw [← hv, hg]
    exact ⟨rfl, rfl⟩
  have hvt : v.reg (SEQ_TRAP.a n.val) = fldSet (fldSet (u.reg (SEQ_TRAP.a n.val)) SEQ_TRAP.user_code user) SEQ_TRAP.code code := by
    rw [← State.enterSeq_reg_ne u n.val 4 _ hne.symm, ← State.gwReleaseAll_reg (u.enterSeq n.val 4) n.val, ← hv]
    exact State.reg_setReg _ _ _ hgc.regs
  have hre : ∀ a, a ≠ EVT_SRC_STAT.a (33 + n.val) → (v.raise (33 + n.val) 2 code).reg a = v.reg a := fun a ha => State.reg_raise_ne _ _ _ _ _ ha
  have q1 : SEQ_STAT.a n.val ≠ EVT_SRC_STAT.a (33 + n.val) := by unfold SEQ_STAT.a EVT_SRC_STAT.a; omega
  have q2 : SEQ_TRAP.a n.val ≠ EVT_SRC_STAT.a (33 + n.val) := by unfold SEQ_TRAP.a EVT_SRC_STAT.a; omega
  have q3 : SEQ_WDOG.a n.val ≠ EVT_SRC_STAT.a (33 + n.val) := by unfold SEQ_WDOG.a EVT_SRC_STAT.a; omega
  refine ⟨_, rfl, (State.raise_keeps (State.Keeps.refl v) _ _ _).canon hvc, ?_, ?_, ?_, ?_, ?_, ?_, ?_, ?_, ?_⟩
  · unfold State.seqState
    rw [hre _ q1, hvr]
    exact State.enterSeq_state u n.val 4 hc (by omega)
  · rw [← hpc]
    unfold State.seqPc
    rw [hre _ q1, hvr]
    exact State.enterSeq_pc u n.val 4 hc
  · rw [hre _ q2, hvt, fldGet_fldSet _ _ _ (by decide)]
    unfold SEQ_TRAP.code
    dsimp only
    omega
  · rw [hre _ q2, hvt, fldGet_fldSet_ne _ _ _ _ (by decide) (by decide), fldGet_fldSet _ _ _ (by decide)]
    unfold SEQ_TRAP.user_code
    dsimp only
    omega
  · rw [State.sq_raise, hvs, hs]
  · intro f
    unfold State.f State.hw
    dsimp only
    have hpar : (v.raise (33 + n.val) 2 code).parOf (SEQ_WDOG.a n.val) = u.parOf (SEQ_WDOG.a n.val) := by
      rw [← hvp]
      unfold State.parOf
      rw [State.raise_par]
    rw [hpar, hre _ q3, hvw]
  · rw [State.raise_phs, hph.1]
  · rw [State.raise_now, hph.2]
  · intro d
    rw [hre _ (hne6 d), hvd]

/-- A trap whose queue is kept. -/
theorem State.traps_of (s u : State) (n : Fin 8) (code user : Nat) (hc : u.Canonical) (h0 : u.f (SEQ_WDOG.a n.val) SEQ_WDOG.trap_action = 0) (h1 : code < 256)
    (h2 : user < 65536) (hpc : u.seqPc n.val = s.seqPc n.val) (hs : u.sq n.val = { s.sq n.val with cyc := (u.sq n.val).cyc }) :
    s.Traps (.next (u.trap n.val code user)) n.val code user := by
  obtain ⟨v, e, vc, v1, v2, v3, v4, v5, v6, v7, v8, v9⟩ := State.trap_core s u n code user hc h1 h2 hpc hs
  have hk : v.trapQueue n.val = v := by
    unfold State.trapQueue
    dsimp only
    rw [v6, if_pos h0]
  rw [e, hk]
  refine ⟨v, rfl, v1, v2, v3, v4, ?_⟩
  rw [v5]
  exact ⟨rfl, rfl, rfl, rfl, rfl, rfl, rfl⟩

/-! ### Waits (05 R105 to R108) -/

theorem State.setWait_reg (s : State) (n : Nat) (w : WaitSt) (hc : s.Canonical) : (s.setWait n w).reg (SEQ_STAT.a n) = fldSet (s.reg (SEQ_STAT.a n)) SEQ_STAT.wait w.kind :=
  State.reg_setReg _ _ _ hc.regs

/-- The end of a wait whose target lies in the program. -/
theorem State.ends_of (s u : State) (n : Nat) (y : SeqSt) (ws clr c : Nat) (pc : Int) (hc : s.Canonical) (hus : Cells.wf (fun _ => ({} : SeqSt)) u.seq = true)
    (hu : u = { s with seq := u.seq, freeIdx := s.freeIdx + 1 }) (hm : ∀ m, m ≠ n → u.sq m = s.sq m) (h0 : 0 ≤ pc) (hp : pc < (s.progLen n : Int)) (hr : s.seqState n = 1)
    (hy : { u.sq n with ws := BitVec.ofNat 32 ws, sig := (u.sq n).sig &&& ~~~(BitVec.ofNat 8 clr), cyc := c, wait := {} } = { y with cyc := c, wait := {} })
    (hl : s.yCycle n ≤ c) (hh : c ≤ s.yCycle n + 4) : s.Ends (.next (u.yEnd n ws clr pc c)) n y pc := by
  have hcan : u.Canonical := by
    have : ({ s with freeIdx := s.freeIdx + 1 } : State).Canonical := (State.fresh_keeps (State.Keeps.refl s)).canon hc
    have h2 := (State.Keeps.seq_upd (State.Keeps.refl ({ s with freeIdx := s.freeIdx + 1 } : State)) (x := u.seq) (fun _ => hus)).canon this
    rw [hu]
    exact h2
  have hlen : u.progLen n = s.progLen n := by rw [hu]; rfl
  have hreg : ∀ a, u.reg a = s.reg a := by intro a; rw [hu]; rfl
  unfold State.yEnd
  rw [if_pos ⟨h0, by rw [hlen]; exact hp⟩]
  dsimp only
  generalize hz : ({ u.sq n with ws := BitVec.ofNat 32 ws, sig := (u.sq n).sig &&& ~~~(BitVec.ofNat 8 clr), cyc := c } : SeqSt) = z
  have hs1 : (u.setSq n z).Canonical := (State.setSq_keeps (State.Keeps.refl u) n z).canon hcan
  have hs2 : ((u.setSq n z).setWait n {}).Canonical := (State.setWait_keeps (State.Keeps.refl _) n {}).canon hs1
  have hsq : (((u.setSq n z).setWait n {}).setPc n pc.toNat).sq n = { z with wait := {} } := by
    show ((u.setSq n z).setSq n { (u.setSq n z).sq n with wait := {} }).sq n = _
    rw [State.sq_setSq _ _ _ hs1, State.sq_setSq _ _ _ hcan]
  have hrg : (((u.setSq n z).setWait n {}).setPc n pc.toNat).reg (SEQ_STAT.a n) = fldSet (fldSet (s.reg (SEQ_STAT.a n)) SEQ_STAT.wait 0) SEQ_STAT.pc pc.toNat := by
    have h1 : ((u.setSq n z).setWait n {}).reg (SEQ_STAT.a n) = fldSet (s.reg (SEQ_STAT.a n)) SEQ_STAT.wait 0 := by
      rw [State.setWait_reg _ _ _ hs1, ← hreg]; rfl
    rw [← h1]
    exact State.reg_setReg _ _ _ hs2.regs
  refine ⟨_, c, rfl, ?_, ?_, ?_, ?_, ?_, ?_, hl, hh, ?_⟩
  · have hrest : (((u.setSq n z).setWait n {}).setPc n pc.toNat) = { u with regs := (((u.setSq n z).setWait n {}).setPc n pc.toNat).regs, seq := (((u.setSq n z).setWait n {}).setPc n pc.toNat).seq } := rfl
    generalize (((u.setSq n z).setWait n {}).setPc n pc.toNat) = t at hrest ⊢
    exact hrest.trans (by rw [hu])
  · have hpc : pc.toNat < 32768 := by unfold State.progLen at hp; omega
    unfold State.seqPc
    rw [hrg, fldGet_fldSet _ _ _ (by decide)]
    unfold SEQ_STAT.pc
    dsimp only
    omega
  · unfold State.seqState
    rw [hrg, fldGet_fldSet_ne _ _ _ _ (by decide) (by decide), fldGet_fldSet_ne _ _ _ _ (by decide) (by decide)]
    exact hr
  · rw [hrg, fldGet_fldSet_ne _ _ _ _ (by decide) (by decide), fldGet_fldSet _ _ _ (by decide)]
    rfl
  · intro a ha
    rw [← hreg]
    unfold State.setPc State.setWait
    rw [State.reg_setF_ne _ _ _ _ _ ha]
    exact State.reg_setF_ne _ _ _ _ _ ha
  · intro m h
    rw [← hm m h]
    show ((u.setSq n z).setSq n { (u.setSq n z).sq n with wait := {} }).sq m = _
    rw [State.sq_setSq_ne _ _ _ _ h, State.sq_setSq_ne _ _ _ _ h]
  · rw [hsq, ← hy, ← hz]

/-- A wait begins. -/
theorem State.waits_of (s : State) (n : Nat) (w : WaitSt) (hc : s.Canonical) (hr : s.seqState n = 1) : s.Waits (.next ((s.yBegin n).yWait n w)) n w := by
  have hB := State.yBegin_canon s n hc
  have hrg : ((s.yBegin n).setWait n w).reg (SEQ_STAT.a n) = fldSet (s.reg (SEQ_STAT.a n)) SEQ_STAT.wait w.kind := State.setWait_reg _ _ _ hB
  unfold State.yWait
  refine ⟨_, rfl, rfl, ?_, ?_, ?_, ?_⟩
  · unfold State.seqPc
    rw [hrg, fldGet_fldSet_ne _ _ _ _ (by decide) (by decide)]
  · unfold State.seqState
    rw [hrg, fldGet_fldSet_ne _ _ _ _ (by decide) (by decide)]
    exact hr
  · rw [hrg, fldGet_fldSet _ _ _ (by decide)]
    rfl
  · show ((s.yBegin n).setSq n { (s.yBegin n).sq n with wait := w }).sq n = _
    rw [State.sq_setSq _ _ _ hB, State.yBegin_sq s n hc]

end Sys2Proof.Machine
end

