-- ==== Sys2Proof/Laws/SeqRows.lean ====
section
/-! SUPPORT. Lemmas about the commands and mailboxes of the sequencers. -/

namespace Sys2Proof.Machine

theorem seq_heldAll (s : State) (n : Nat) (hc : s.Canonical) : (s.gwReleaseAll n).heldBy n = [] := by
  unfold State.gwReleaseAll State.heldBy
  obtain ⟨m, e⟩ := State.gwRelease_fold s (s.heldBy n)
  unfold State.heldBy at e
  rw [e]
  exact Cells.get_set hc.held _ _

theorem seq_carrOk (s : State) (i : Nat) : s.carrError i false = s := rfl

theorem seq_winOwn {a : Nat} {k : WinKind} (h : winAt a = k) (hk : k ≠ .none) : pcieOwn a = false := by
  have : a < 0x4000000 := by
    by_contra h1
    have : winAt a = .none := by
      unfold winAt
      rw [if_neg (by omega), if_neg (by omega), if_neg (by omega), if_neg (by omega), if_neg (by omega), if_neg (by omega), if_neg (by omega), if_neg (by omega)]
    exact hk (h.symm.trans this)
  unfold pcieOwn
  simp
  omega

theorem seq_winProg (s : State) (i a n v q : Nat) (hr : s.roleOf i = 2) (hn : n = 4 ∨ n = 8) (ha : a % n = 0) (h2 : 0x2000000 ≤ a) (hk : winAt a = .prog q) (h1 : s.seqState q ≠ 1) (h3 : s.seqState q ≠ 2) :
    s.busWrite i a n v none = s.winPut a n v := by
  unfold State.busWrite
  rw [if_neg (by rw [seq_winOwn hk (by simp)]; simp)]
  unfold State.writeAt
  rw [if_neg (by omega), if_neg (by omega), if_pos h2]
  unfold State.winWrite
  rw [hk]
  dsimp only
  rw [if_neg (by omega), if_neg (by omega)]
  exact seq_carrOk _ i

theorem seq_winTable (s : State) (i a n v : Nat) (hr : s.roleOf i = 2) (hn : n = 4 ∨ n = 8) (ha : a % n = 0) (h2 : 0x2000000 ≤ a) (hk : winAt a = .table) :
    s.busWrite i a n v none = s.winPut a n v := by
  unfold State.busWrite
  rw [if_neg (by rw [seq_winOwn hk (by simp)]; simp)]
  unfold State.writeAt
  rw [if_neg (by omega), if_neg (by omega), if_pos h2]
  unfold State.winWrite
  rw [hk]
  dsimp only
  rw [if_neg (by omega)]
  exact seq_carrOk _ i

theorem seq_ordDw (s : State) (i m op arg m2 j : Nat) (h1 : mbxData m2 j ≠ m) (h2 : mbxData m2 j ≠ EVT_SRC_STAT.a 60) : (s.ordered i m op arg).dw m2 j = s.dw m2 j := by
  unfold State.dw; rw [State.reg_ordered_ne _ _ _ _ _ _ h1 h2]

theorem seq_ordSq (s : State) (i m op arg n : Nat) : (s.ordered i m op arg).sq n = s.sq n := by
  obtain ⟨a, b, c, d, pb, h⟩ := State.ordered_same s i m op arg
  rw [h]; rfl

end Sys2Proof.Machine
end

