-- ==== Sys2Proof/Laws/TableRows.lean ====
section
/-! SUPPORT. Lemmas about the host commands of the tables, learning and aging. -/

namespace Sys2Proof.Machine

theorem table_setFdb_same (s : State) (p l : Nat) (e : Option FdbEnt) : s.setFdb p l e = { s with fdb := (s.setFdb p l e).fdb, regs := (s.setFdb p l e).regs } := rfl

theorem table_reg_setFdb_ne (s : State) (p l a : Nat) (e : Option FdbEnt) (h : a ≠ FDB_STAT.a p) : (s.setFdb p l e).reg a = s.reg a := State.reg_setReg_ne _ _ _ _ h

theorem table_flwAt_setFlw (s : State) (p l : Nat) (e : Option FlwEnt) (hc : s.Canonical) : (s.setFlw p l e).flwAt p l = e := Cells.get_set hc.flw _ _

theorem table_flw_setFlw_ne (s : State) (p l k : Nat) (e : Option FlwEnt) (h : k ≠ p * 16384 + l) : Cells.get (fun _ => none) (s.setFlw p l e).flw k = Cells.get (fun _ => none) s.flw k :=
  Cells.get_set_ne _ _ _ _ _ h

theorem table_fdbErr_congr (u s : State) (p op arg : Nat) (h1 : ∀ j, u.dw (fdbCmd p) j = s.dw (fdbCmd p) j) (h2 : u.fdb = s.fdb) : u.fdbErr p op arg = s.fdbErr p op arg := by
  unfold State.fdbErr State.fdbFind State.fdbKeyAt State.fdbAt
  simp only [h1, h2]

theorem table_flwErr_congr (u s : State) (p op arg : Nat) (h1 : ∀ j, u.dw (flwCmd p) j = s.dw (flwCmd p) j) (h2 : u.flw = s.flw) : u.flwErr p op arg = s.flwErr p op arg := by
  unfold State.flwErr State.flwFind State.flwKeyAt State.flwAt
  have : u.dw (flwCmd p) = s.dw (flwCmd p) := funext h1
  simp only [this, h2]

/-- A mailbox of pipeline `p` and one of its registers. -/
theorem table_fdbNe (p : Fin 2) : fdbCmd p.val + 4 ≠ FDB_STAT.a p.val ∧ (∀ n : Fin 64, fdbCmd p.val + 4 ≠ EVT_SRC_STAT.a n.val) ∧ (∀ j, mbxData (fdbCmd p.val) j ≠ fdbCmd p.val) ∧ fdbCmd p.val ≠ EVT_SRC_STAT.a 60 := by
  revert p; unfold fdbCmd FDB_STAT.a EVT_SRC_STAT.a mbxData
  intro p
  refine ⟨by omega, fun n => by omega, fun j => by omega, by omega⟩

structure table_Ordered (s o : State) (m n : Nat) : Prop where
  dw : ∀ j, o.dw m j = s.dw m j
  canon : o.Canonical
  stat : o.reg (m + 4) = s.reg (m + 4)
  same : ∃ aud regs evt out pba, o = { s with aud := aud, regs := regs, evt := evt, out := out, pcie := { s.pcie with pba := pba } }
  req : fldGet (o.reg m) MBX_CTRL.req = 1

theorem table_ordered_facts (s : State) (i m op arg n : Nat) (hc : s.Canonical) (h1 : ∀ j, mbxData m j ≠ EVT_SRC_STAT.a 60) (h2 : m + 4 ≠ EVT_SRC_STAT.a 60) (h3 : m ≠ EVT_SRC_STAT.a 60) :
    table_Ordered s (s.ordered i m op arg) m n := by
  refine ⟨fun j => ?_, State.ordered_canon _ _ _ _ _ hc, State.reg_ordered_ne _ _ _ _ _ _ (by omega) h2, State.ordered_same _ _ _ _ _, ?_⟩
  · unfold State.dw; rw [State.reg_ordered_ne _ _ _ _ _ _ (by unfold mbxData; omega) (h1 j)]
  · unfold State.ordered
    rw [State.reg_audit_ne _ _ _ _ _ _ _ _ h3, State.reg_setReg _ _ _ hc.regs]
    exact fldGet_fldSet _ _ _ (by decide)

/-- A command that leaves `v` and completes. -/
theorem table_ended (s v : State) (m n : Nat) (hc : v.Canonical) (h : v.reg (m + 4) = s.reg (m + 4)) : (v.mbxEnd m n none).Done s m n := State.mbxDone_done v s m n hc.regs h

theorem table_ended_same (v : State) (m n : Nat) (e : Option Nat) : v.mbxEnd m n e = { v with regs := (v.mbxEnd m n e).regs } := by
  cases e with
  | none => exact State.mbxDone_same v m n
  | some c => exact State.refused_same v m n c

theorem table_ended_shows (v : State) (m n r : Nat) (ws : List Nat) (h : v.Shows r ws) (h1 : r + 4 ≠ m) (h2 : ∀ k, k < n → r + 4 ≠ mbxData m k) (h3 : ∀ j, j < ws.length → mbxData r j ≠ m ∧ ∀ k, k < n → mbxData r j ≠ mbxData m k) :
    (v.mbxEnd m n none).Shows r ws := by
  refine ⟨?_, fun k hk => ?_⟩
  · show fldGet ((v.mbxDone m n).reg _) _ = 1
    rw [State.reg_mbxDone_ne _ _ _ _ h1 h2]
    exact h.1
  · show (v.mbxDone m n).reg _ = _
    rw [State.reg_mbxDone_ne _ _ _ _ (h3 k hk).1 (h3 k hk).2]
    exact h.2 k hk

theorem table_unfreeze_fdb (u : State) (p : Nat) (x : FdbEnt) : (u.unfreezeEv p x).fdb = u.fdb := by
  unfold State.unfreezeEv State.raiseIf
  split
  · rw [State.raise_same]
  · rfl

theorem table_unfreeze_reg (u : State) (p : Fin 2) (x : FdbEnt) : (u.unfreezeEv p.val x).reg (fdbCmd p.val + 4) = u.reg (fdbCmd p.val + 4) := by
  unfold State.unfreezeEv State.raiseIf
  split
  · exact State.reg_raise_ne _ _ _ _ _ ((table_fdbNe p).2.1 ⟨41 + p.val, by omega⟩)
  · rfl

theorem table_fdbFind_at (s : State) (p mac vid l : Nat) (h : s.fdbFind p mac vid = some l) : ∃ x, s.fdbAt p l = some x := by
  have := List.find?_some h
  split at this
  · exact ⟨_, by assumption⟩
  · cases this

/-- The moves of a relocation touch the FDB and FDB_STAT alone. -/
theorem table_moves_same (p : Nat) (l : List Move) (s : State) : let t := l.foldl (fun (u : State) m => (u.setFdb p m.2 (u.fdbAt p m.1)).setFdb p m.1 none) s
    t = { s with fdb := t.fdb, regs := t.regs } ∧ (s.Canonical → t.Canonical) ∧ ∀ a, a ≠ FDB_STAT.a p → t.reg a = s.reg a := by
  induction l generalizing s with
  | nil => exact ⟨rfl, id, fun _ _ => rfl⟩
  | cons m r ih =>
    obtain ⟨h1, h2, h3⟩ := ih ((s.setFdb p m.2 (s.fdbAt p m.1)).setFdb p m.1 none)
    dsimp only [List.foldl_cons]
    refine ⟨?_, fun hc => h2 ((State.setFdb_keeps (State.setFdb_keeps (State.Keeps.refl s) _ _ _) _ _ _).canon hc), fun a ha => ?_⟩
    · generalize List.foldl _ _ r = t at h1 ⊢
      exact h1.trans rfl
    · exact (h3 a ha).trans ((table_reg_setFdb_ne _ _ _ _ _ ha).trans (table_reg_setFdb_ne _ _ _ _ _ ha))

theorem table_flwMoves_same (p : Nat) (l : List Move) (s : State) : let t := l.foldl (fun (u : State) m => (u.setFlw p m.2 (u.flwAt p m.1)).setFlw p m.1 none) s
    t = { s with flw := t.flw } ∧ (s.Canonical → t.Canonical) := by
  induction l generalizing s with
  | nil => exact ⟨rfl, id⟩
  | cons m r ih =>
    obtain ⟨h1, h2⟩ := ih ((s.setFlw p m.2 (s.flwAt p m.1)).setFlw p m.1 none)
    dsimp only [List.foldl_cons]
    refine ⟨?_, fun hc => h2 ((State.setFlw_keeps (State.setFlw_keeps (State.Keeps.refl s) _ _ _) _ _ _).canon hc)⟩
    generalize List.foldl _ _ r = t at h1 ⊢
    exact h1.trans rfl

/-! ### What the update engine can touch -/

/-- The update engine of pipeline `p` leaves alone all but the FDB, its notifications, its counters, its event and their record; the
mailboxes below FDB_LNOT stay as they are. -/
structure table_Only (s t : State) (p : Nat) : Prop where
  same : t = { s with fdb := t.fdb, regs := t.regs, evt := t.evt, out := t.out, pipe := t.pipe, pcie := { s.pcie with pba := t.pcie.pba } }
  reg : ∀ a, a < fdbLnot p → a ≠ EVT_SRC_STAT.a (41 + p) → t.reg a = s.reg a

theorem table_Only.refl (s : State) (p : Nat) : table_Only s s p := ⟨rfl, fun _ _ _ => rfl⟩

theorem table_Only.trans {s t u : State} {p : Nat} (h : table_Only s t p) (k : table_Only t u p) : table_Only s u p := by
  refine ⟨?_, fun a h1 h2 => (k.reg a h1 h2).trans (h.reg a h1 h2)⟩
  have h1 := h.same
  have k1 := k.same
  rw [k1, h1]

theorem table_only_setFdb (s : State) (p l : Nat) (e : Option FdbEnt) : table_Only s (s.setFdb p l e) p :=
  ⟨rfl, fun a h1 _ => table_reg_setFdb_ne _ _ _ _ _ (by unfold FDB_STAT.a; unfold fdbLnot at h1; omega)⟩

theorem table_only_raise (s : State) (p c i : Nat) : table_Only s (s.raise (41 + p) c i) p :=
  ⟨by have h := State.raise_same s (41 + p) c i
      generalize s.raise (41 + p) c i = t at h ⊢
      rw [h], fun a _ h2 => State.reg_raise_ne _ _ _ _ _ h2⟩

theorem table_only_bump (s : State) (p k : Nat) (f : Fld) : table_Only s (s.bump (FDB_CNT.a p k) f) p :=
  ⟨rfl, fun a h1 _ => State.reg_setReg_ne _ _ _ _ (by unfold FDB_CNT.a; unfold fdbLnot at h1; omega)⟩

theorem table_only_setPp (s : State) (p : Nat) (x : PipeSt) : table_Only s (s.setPp p x) p := ⟨rfl, fun _ _ _ => rfl⟩

theorem table_only_lnotShow (s : State) (p : Nat) : table_Only s (s.lnotShow p) p := by
  unfold State.lnotShow
  split
  · exact table_Only.refl s p
  · split
    · exact table_Only.refl s p
    · refine ⟨?_, fun a h1 _ => ?_⟩
      · unfold State.setF; rw [State.setWords_same]; rfl
      · rw [State.reg_setF_ne _ _ _ _ _ (by omega), State.reg_setWords_ne _ _ _ _ _ (fun j _ => by unfold mbxData; omega)]

theorem table_only_notify (s : State) (p k : Nat) (e : FdbEnt) (l : Nat) : table_Only s (s.notify p k e l) p := by
  unfold State.notify
  split
  · extract_lets x w
    split
    · exact (table_only_setPp _ _ _).trans (table_only_lnotShow _ _)
    · exact table_only_setPp _ _ _
  · exact table_Only.refl s p

theorem table_only_freezeEnd (s : State) (p l : Nat) : table_Only s (s.freezeEnd p l) p := by
  unfold State.freezeEnd
  split
  · exact table_Only.refl s p
  · split
    · exact (table_only_setFdb _ _ _ _).trans (table_only_raise _ _ _ _)
    · exact table_Only.refl s p

theorem table_only_thaw (s : State) (p : Nat) (l : Option Nat) : table_Only s (s.thaw p l) p := by
  cases l with
  | none => exact table_Only.refl s p
  | some k => exact table_only_freezeEnd s p k

theorem table_only_place (s v : State) (p : Nat) (e : FdbEnt) (h : s.fdbPlace p e = some v) : table_Only s v p := by
  unfold State.fdbPlace at h
  split at h
  · cases h
  · rename_i l path _
    injection h with h
    subst h
    obtain ⟨h1, -, h3⟩ := table_moves_same p (pathMoves none path) s
    generalize List.foldl (fun (u : State) (m : Move) => (u.setFdb p m.2 (u.fdbAt p m.1)).setFdb p m.1 none) s (pathMoves none path) = t at h1 h3 ⊢
    exact (show table_Only s t p from ⟨by rw [h1], fun a h1 _ => h3 a (by unfold FDB_STAT.a; unfold fdbLnot at h1; omega)⟩).trans (table_only_setFdb _ _ _ _)

theorem table_only_learnMove (s : State) (p l : Nat) (e : FdbEnt) (d : Nat) : table_Only s (s.learnMove p l e d) p := by
  unfold State.learnMove
  extract_lets win op n e'
  split
  · unfold State.learnFreeze
    exact ((table_only_setFdb _ _ _ _).trans (table_only_raise _ _ _ _)).trans (table_only_notify _ _ _ _ _)
  · exact ((table_only_setFdb _ _ _ _).trans (table_only_bump _ _ _ _)).trans (table_only_notify _ _ _ _ _)

theorem table_only_learnJudge (s : State) (p : Nat) (r : LearnReq) : table_Only s (s.learnJudge p r) p := by
  unfold State.learnJudge
  extract_lets v e
  refine (table_only_thaw s p (s.fdbFind p r.mac r.vid)).trans ?_
  show table_Only v _ p
  split
  · split
    · exact (table_only_bump _ _ _ _).trans (table_only_raise _ _ _ _)
    · rename_i u hu
      exact ((table_only_place v u p e hu).trans (table_only_bump _ _ _ _)).trans (table_only_notify _ _ _ _ _)
  · split
    · exact table_Only.refl _ _
    · split
      · exact table_only_setFdb _ _ _ _
      · split
        · exact (table_only_bump _ _ _ _).trans (table_only_raise _ _ _ _)
        · split
          · exact table_only_bump _ _ _ _
          · exact table_only_learnMove _ _ _ _ _

theorem table_only_learnApply (s : State) (p : Nat) : table_Only s (s.learnApply p) p := by
  unfold State.learnApply
  split
  · exact (table_only_setPp _ _ _).trans (table_only_learnJudge _ _ _)
  · exact table_Only.refl _ _

theorem table_only_learnDrain (s : State) (p : Nat) : table_Only s (s.learnDrain p) p := by
  unfold State.learnDrain
  have : ∀ (l : List LearnReq) (u : State), table_Only u (l.foldl (fun u _ => u.learnApply p) u) p := by
    intro l
    induction l with
    | nil => intro u; exact table_Only.refl u p
    | cons x r ih => intro u; exact (table_only_learnApply u p).trans (ih _)
  exact this _ _

theorem table_drain_nil (s : State) (p : Nat) (h : (s.pp p).learnQ = []) : s.learnDrain p = s := by
  unfold State.learnDrain; rw [h]; rfl

theorem table_only_dw {s t : State} {p : Nat} (h : table_Only s t p) (j : Nat) (hj : j < 4) : t.dw (fdbCmd p) j = s.dw (fdbCmd p) j := by
  unfold State.dw
  rw [h.reg _ (by unfold mbxData fdbCmd fdbLnot; omega) (by unfold mbxData fdbCmd EVT_SRC_STAT.a; omega)]

/-- A freeze that ends changes no key. -/
theorem table_freezeEnd_keys (s : State) (p l : Nat) (hc : s.Canonical) (m v : Nat) : (s.freezeEnd p l).fdbFind p m v = s.fdbFind p m v := by
  unfold State.freezeEnd
  split
  · rfl
  · rename_i e he
    split
    · unfold State.fdbFind
      refine congrArg (fun f => List.find? f (keyLocs 12 (fdbKey m v))) (funext fun k => ?_)
      have e1 : ∀ c i, ((s.setFdb p l (some { e with frozen := false, hit := true, stale := false, win := none, moves := 0 })).raise (41 + p) c i).fdbAt p k =
          (s.setFdb p l (some { e with frozen := false, hit := true, stale := false, win := none, moves := 0 })).fdbAt p k := by
        intro c i; unfold State.fdbAt; rw [State.raise_same]
      rw [e1]
      by_cases hk : k = l
      · subst hk
        rw [fdbAt_setFdb _ _ _ _ hc, he]
      · have : (s.setFdb p l (some { e with frozen := false, hit := true, stale := false, win := none, moves := 0 })).fdbAt p k = s.fdbAt p k :=
          fdb_setFdb_ne _ _ _ _ _ (by omega)
        rw [this]
    · rfl

theorem table_thaw_find (s : State) (p : Nat) (l : Option Nat) (hc : s.Canonical) (m v : Nat) : (s.thaw p l).fdbFind p m v = s.fdbFind p m v := by
  cases l with
  | none => rfl
  | some k => exact table_freezeEnd_keys s p k hc m v

theorem table_thaw_ent (o : State) (p : Nat) (l : Option Nat) : (o.thaw p l).fdbCmdEnt p = o.fdbCmdEnt p := by
  have h := table_only_thaw o p l
  unfold State.fdbCmdEnt
  dsimp only
  rw [table_only_dw h 0 (by decide), table_only_dw h 1 (by decide), table_only_dw h 2 (by decide)]

theorem table_thaw_at (o : State) (p : Nat) (l : Option Nat) (hc : o.Canonical) : (o.thaw p l).fdbCmdAt p = o.fdbCmdAt p := by
  unfold State.fdbCmdAt
  rw [table_thaw_ent, table_thaw_find o p l hc]

/-- A command on a key meets its slot after the freeze there that has run out. -/
theorem table_fdbDo_at (o : State) (p op arg l : Nat) (h4 : op ≠ 4) (h : o.fdbCmdAt p = some l) : o.fdbDo p op arg = (o.freezeEnd p l).fdbAct p op arg := by
  unfold State.fdbDo; rw [if_neg h4, h]; rfl

theorem table_fdbDo_no (o : State) (p op arg : Nat) (h4 : op ≠ 4) (h : o.fdbCmdAt p = none) : o.fdbDo p op arg = o.fdbAct p op arg := by
  unfold State.fdbDo; rw [if_neg h4, h]; rfl

theorem table_freezeEnd_at (o : State) (p l : Nat) (hc : o.Canonical) (h : o.fdbCmdAt p = some l) : (o.freezeEnd p l).fdbCmdAt p = some l :=
  (table_thaw_at o p (some l) hc).trans h

theorem table_fdbDo_1 (o : State) (p arg : Nat) (l : Nat) (x : FdbEnt) (hc : o.Canonical) (h : o.fdbCmdAt p = some l) (h2 : (o.freezeEnd p l).fdbAt p l = some x) :
    o.fdbDo p 1 arg = ((o.freezeEnd p l).setFdb p l (some (o.fdbCmdEnt p))).unfreezeEv p x := by
  rw [table_fdbDo_at o p 1 arg l (by decide) h]
  unfold State.fdbAct
  rw [if_pos rfl, table_freezeEnd_at o p l hc h, show (o.freezeEnd p l).fdbCmdEnt p = o.fdbCmdEnt p from table_thaw_ent o p (some l)]
  dsimp only
  rw [h2]

theorem table_fdbDo_1n (o v : State) (p arg : Nat) (h : o.fdbCmdAt p = none) (h2 : o.fdbPlace p (o.fdbCmdEnt p) = some v) :
    o.fdbDo p 1 arg = v := by
  rw [table_fdbDo_no o p 1 arg (by decide) h]
  unfold State.fdbAct
  rw [if_pos rfl, h]
  dsimp only
  rw [h2]; rfl

theorem table_fdbDo_2 (o : State) (p arg : Nat) (l : Nat) (x : FdbEnt) (hc : o.Canonical) (h : o.fdbCmdAt p = some l) (h2 : (o.freezeEnd p l).fdbAt p l = some x) :
    o.fdbDo p 2 arg = ((o.freezeEnd p l).setFdb p l none).unfreezeEv p x := by
  rw [table_fdbDo_at o p 2 arg l (by decide) h]
  unfold State.fdbAct
  rw [if_neg (by decide), if_pos rfl, table_freezeEnd_at o p l hc h]
  dsimp only
  rw [h2]

theorem table_fdbDo_3 (o : State) (p arg : Nat) (l : Nat) (x : FdbEnt) (hc : o.Canonical) (h : o.fdbCmdAt p = some l) (h2 : (o.freezeEnd p l).fdbAt p l = some x) :
    o.fdbDo p 3 arg = (o.freezeEnd p l).snap (fdbRes p) (fdbWords true x l) := by
  rw [table_fdbDo_at o p 3 arg l (by decide) h]
  unfold State.fdbAct
  rw [if_neg (by decide), if_neg (by decide), if_pos rfl, table_freezeEnd_at o p l hc h]
  dsimp only
  rw [h2]

theorem table_fdbDo_3n (o : State) (p arg : Nat) (h : o.fdbCmdAt p = none) :
    o.fdbDo p 3 arg = o.snap (fdbRes p) [o.dw (fdbCmd p) 0, o.dw (fdbCmd p) 1, 0, 0] := by
  rw [table_fdbDo_no o p 3 arg (by decide) h]
  unfold State.fdbAct
  rw [if_neg (by decide), if_neg (by decide), if_pos rfl, h]

theorem table_fdbDo_4 (o : State) (p arg : Nat) : o.fdbDo p 4 arg = match (o.freezeEnd p arg).fdbAt p arg with
    | some x => (o.freezeEnd p arg).snap (fdbRes p) (fdbWords true x arg)
    | none => (o.freezeEnd p arg).snap (fdbRes p) [0, 0, 0, arg] := rfl

theorem table_snap_ended (o s : State) (m r n : Nat) (ws : List Nat) (hc : o.Canonical) (hs : o.reg (m + 4) = s.reg (m + 4)) (h1 : r + 4 ≠ m) (h2 : ∀ k, k < n → r + 4 ≠ mbxData m k) (h3 : ∀ j, j < ws.length → mbxData r j ≠ m ∧ ∀ k, k < n → mbxData r j ≠ mbxData m k)
    (h4 : m + 4 ≠ r + 4) (h5 : ∀ j, j < ws.length → m + 4 ≠ mbxData r j) :
    ((o.snap r ws).mbxEnd m n none).Done s m n ∧ ((o.snap r ws).mbxEnd m n none).Shows r ws ∧ ((o.snap r ws).mbxEnd m n none).fdb = o.fdb ∧ ((o.snap r ws).mbxEnd m n none).flw = o.flw := by
  have hk := (State.snap_keeps (State.Keeps.refl o) r ws).canon hc
  refine ⟨table_ended s _ m n hk ?_, table_ended_shows _ m n r ws (State.snap_shows _ _ _ hc.regs) h1 h2 h3, ?_, ?_⟩
  · rw [State.reg_snap_ne _ _ _ _ h4 h5]; exact hs
  · rw [table_ended_same, State.snap_same]
  · rw [table_ended_same, State.snap_same]

theorem table_ended_fdb (v : State) (m n : Nat) (e : Option Nat) : (v.mbxEnd m n e).fdb = v.fdb ∧ (v.mbxEnd m n e).flw = v.flw := by rw [table_ended_same]; exact ⟨rfl, rfl⟩

theorem table_fdbReq_none (o : State) (p op arg : Nat) (h : (o.learnDrain p).fdbErr p op arg = none) (h5 : op ≠ 5) : o.fdbReq p op arg = ((o.learnDrain p).fdbDo p op arg).mbxEnd (fdbCmd p) 4 none := by
  unfold State.fdbReq; extract_lets v; rw [show v.fdbErr p op arg = none from h]; dsimp only; rw [if_neg h5]

theorem table_fdbReq_some (o : State) (p op arg c : Nat) (h : (o.learnDrain p).fdbErr p op arg = some c) : o.fdbReq p op arg = ((o.learnDrain p).mbxDone (fdbCmd p) 4).mbxFail (fdbCmd p) c := by
  unfold State.fdbReq; extract_lets v; rw [show v.fdbErr p op arg = some c from h]; rfl

theorem table_fdbOrdered (s : State) (i : Nat) (p : Fin 2) (op arg : Nat) (hc : s.Canonical) : table_Ordered s (s.ordered i (fdbCmd p.val) op arg) (fdbCmd p.val) 4 ∧ (s.ordered i (fdbCmd p.val) op arg).dw (fdbCmd p.val) = s.dw (fdbCmd p.val) ∧
    (s.ordered i (fdbCmd p.val) op arg).fdb = s.fdb ∧ (∀ k, (s.ordered i (fdbCmd p.val) op arg).fdbErr p.val k arg = s.fdbErr p.val k arg) ∧ (∀ q, (s.ordered i (fdbCmd p.val) op arg).pp q = s.pp q) := by
  have h := table_ordered_facts s i (fdbCmd p.val) op arg 4 hc (by revert p; unfold fdbCmd EVT_SRC_STAT.a mbxData; intro p j; omega) (by revert p; decide) (by revert p; decide)
  obtain ⟨a, r, e, o, pb, hs⟩ := h.same
  have hf : (s.ordered i (fdbCmd p.val) op arg).fdb = s.fdb := by rw [hs]
  exact ⟨h, funext h.dw, hf, fun k => table_fdbErr_congr _ _ _ _ _ h.dw hf, fun q => by rw [hs]; rfl⟩

theorem table_fdbFind_congr (u s : State) (p a b : Nat) (h : u.fdb = s.fdb) : u.fdbFind p a b = s.fdbFind p a b := by unfold State.fdbFind State.fdbAt; rw [h]

theorem table_fdbAt_congr (u s : State) (p a : Nat) (h : u.fdb = s.fdb) : u.fdbAt p a = s.fdbAt p a := by unfold State.fdbAt; rw [h]

theorem table_fdbKeyAt_congr (u s : State) (p : Nat) (h : u.fdb = s.fdb) : u.fdbKeyAt p = s.fdbKeyAt p := by funext a; unfold State.fdbKeyAt State.fdbAt; rw [h]

theorem table_resNe (p : Fin 2) : fdbRes p.val + 4 ≠ fdbCmd p.val ∧ (∀ k, k < 4 → fdbRes p.val + 4 ≠ mbxData (fdbCmd p.val) k) ∧ (∀ j, j < 4 → mbxData (fdbRes p.val) j ≠ fdbCmd p.val ∧ ∀ k, k < 4 → mbxData (fdbRes p.val) j ≠ mbxData (fdbCmd p.val) k) ∧
    fdbCmd p.val + 4 ≠ fdbRes p.val + 4 ∧ (∀ j, j < 4 → fdbCmd p.val + 4 ≠ mbxData (fdbRes p.val) j) := by
  unfold fdbRes fdbCmd mbxData
  refine ⟨by omega, by intros; omega, fun j hj => ⟨by omega, by intros; omega⟩, by omega, by intros; omega⟩

theorem table_flwReq_none (o : State) (p op arg : Nat) (h : o.flwErr p op arg = none) : o.flwReq p op arg = (o.flwDo p op arg).mbxEnd (flwCmd p) 8 none := by
  unfold State.flwReq; rw [h]

theorem table_flwOrdered (s : State) (i : Nat) (p : Fin 2) (op arg : Nat) (hc : s.Canonical) : table_Ordered s (s.ordered i (flwCmd p.val) op arg) (flwCmd p.val) 8 ∧ (s.ordered i (flwCmd p.val) op arg).dw (flwCmd p.val) = s.dw (flwCmd p.val) ∧
    (s.ordered i (flwCmd p.val) op arg).flw = s.flw ∧ (∀ k, (s.ordered i (flwCmd p.val) op arg).flwErr p.val k arg = s.flwErr p.val k arg) := by
  have h := table_ordered_facts s i (flwCmd p.val) op arg 8 hc (by revert p; unfold flwCmd EVT_SRC_STAT.a mbxData; intro p j; omega) (by revert p; decide) (by revert p; decide)
  obtain ⟨a, r, e, o, pb, hs⟩ := h.same
  have hf : (s.ordered i (flwCmd p.val) op arg).flw = s.flw := by rw [hs]
  exact ⟨h, funext h.dw, hf, fun k => table_flwErr_congr _ _ _ _ _ h.dw hf⟩

theorem table_flwFind_congr (u s : State) (p a b c d : Nat) (h : u.flw = s.flw) : u.flwFind p a b c d = s.flwFind p a b c d := by unfold State.flwFind State.flwAt; rw [h]

theorem table_flwAt_congr (u s : State) (p a : Nat) (h : u.flw = s.flw) : u.flwAt p a = s.flwAt p a := by unfold State.flwAt; rw [h]

theorem table_flwKeyAt_congr (u s : State) (p : Nat) (h : u.flw = s.flw) : u.flwKeyAt p = s.flwKeyAt p := by funext a; unfold State.flwKeyAt State.flwAt; rw [h]

theorem table_fresNe (p : Fin 2) : flwRes p.val + 4 ≠ flwCmd p.val ∧ (∀ k, k < 8 → flwRes p.val + 4 ≠ mbxData (flwCmd p.val) k) ∧ (∀ j, j < 8 → mbxData (flwRes p.val) j ≠ flwCmd p.val ∧ ∀ k, k < 8 → mbxData (flwRes p.val) j ≠ mbxData (flwCmd p.val) k) ∧
    flwCmd p.val + 4 ≠ flwRes p.val + 4 ∧ (∀ j, j < 8 → flwCmd p.val + 4 ≠ mbxData (flwRes p.val) j) := by
  unfold flwRes flwCmd mbxData
  refine ⟨by omega, by intros; omega, fun j hj => ⟨by omega, by intros; omega⟩, by omega, by intros; omega⟩

theorem table_low1 (b1 b2 : Bool) : lowestErr [(true, 1), (false, 2), (b1, 3), (b2, 15)] = some 1 := by cases b1 <;> cases b2 <;> rfl

theorem table_visited (s : State) (p : Fin 2) (f : FlushSt) (hc : s.Canonical) (u : State)
    (hu : u = match s.fdbAt p.val f.next with
      | some e => if f.selects e then s.setFdb p.val f.next none else s
      | none => s) :
    u.Canonical ∧ u.pp p.val = s.pp p.val ∧ u.reg (fdbCmd p.val + 4) = s.reg (fdbCmd p.val + 4) ∧ (∀ x, s.fdbAt p.val f.next = some x → u.fdbAt p.val f.next = if f.selects x then none else some x) ∧
      ∀ k, k ≠ p.val * 32768 + f.next → Cells.get (fun _ => none) u.fdb k = Cells.get (fun _ => none) s.fdb k := by
  subst hu
  cases h : s.fdbAt p.val f.next with
  | none =>
    dsimp only
    refine ⟨hc, rfl, rfl, ?_, fun _ _ => rfl⟩
    intro x hx
    cases hx
  | some e =>
    dsimp only
    by_cases hs : f.selects e = true
    · rw [if_pos hs]
      refine ⟨(State.setFdb_keeps (State.Keeps.refl s) _ _ _).canon hc, rfl, table_reg_setFdb_ne _ _ _ _ _ (table_fdbNe p).1, fun x hx => ?_, fun k hk => fdb_setFdb_ne _ _ _ _ _ hk⟩
      injection hx with hx; subst hx
      rw [if_pos hs, fdbAt_setFdb _ _ _ _ hc]
    · rw [if_neg hs]
      refine ⟨hc, rfl, rfl, fun x hx => ?_, fun _ _ => rfl⟩
      injection hx with hx; subst hx
      rw [if_neg hs, h]

theorem table_bump_reg_same (s : State) (a : Nat) (f : Fld) : s.bump a f = { s with regs := (s.bump a f).regs } := rfl

theorem table_kindOf_lnot3 (p : Fin 2) : ∃ mb, kindOf (mbxData (fdbLnot p.val) 3) = .mdata mb 3 ∧ mb.rd = true ∧ mb.n = 4 := by
  have := (by decide : ∀ p : Fin 2, (match kindOf (mbxData (fdbLnot p.val) 3) with | .mdata mb k => k == 3 && mb.rd && mb.n == 4 | _ => false) = true) p
  generalize kindOf (mbxData (fdbLnot p.val) 3) = x at this ⊢
  cases x with
  | mdata mb k =>
    simp only [Bool.and_eq_true, beq_iff_eq] at this
    obtain ⟨⟨rfl, h⟩, h2⟩ := this
    exact ⟨mb, rfl, h, h2⟩
  | _ => cases this

theorem table_shown (u : State) (m : Nat) (ws : List Nat) (h : Cells.wf resetOf u.regs = true) : ((u.setWords m 0 ws).setF (m + 4) MBX_STAT.valid 1).Shows m ws := by
  refine ⟨?_, fun k hk => ?_⟩
  · unfold State.setF; rw [State.reg_setReg _ _ _ (Cells.wf_regs_setWords _ _ _ _ h)]; exact fldGet_fldSet _ _ _ (by decide)
  · rw [State.reg_setF_ne _ _ _ _ _ (by unfold mbxData; omega)]
    have := State.reg_setWords u m 0 k ws h hk
    rw [Nat.zero_add] at this
    exact this

theorem table_learnMove_freeze (u : State) (p l : Nat) (e : FdbEnt) (d : Nat) (h4 : u.f (FDB_MOVE_CFG.a p) FDB_MOVE_CFG.move_win ≠ 0)
    (h5 : u.f (FDB_MOVE_CFG.a p) FDB_MOVE_CFG.move_max < if u.winOpen e then e.moves + 1 else 1) : u.learnMove p l e d = u.learnFreeze p l e := by
  unfold State.learnMove; dsimp only; rw [if_pos ⟨h4, h5⟩]

theorem table_learnMove_move (u : State) (p l : Nat) (e : FdbEnt) (d : Nat) (h : u.f (FDB_MOVE_CFG.a p) FDB_MOVE_CFG.move_win = 0 ∨ (if u.winOpen e then e.moves + 1 else 1) ≤ u.f (FDB_MOVE_CFG.a p) FDB_MOVE_CFG.move_max) :
    u.learnMove p l e d = ((u.setFdb p l (some { e with
      dest := d, hit := true, stale := false, moves := if u.winOpen e then e.moves + 1 else 1
      win := if u.f (FDB_MOVE_CFG.a p) FDB_MOVE_CFG.move_win = 0 then none else if u.winOpen e then e.win else some (u.now + msTicks (u.f (FDB_MOVE_CFG.a p) FDB_MOVE_CFG.move_win)) })).bump (FDB_CNT.a p 1) FDB_CNT.count).notify p 1 { e with
      dest := d, hit := true, stale := false, moves := if u.winOpen e then e.moves + 1 else 1
      win := if u.f (FDB_MOVE_CFG.a p) FDB_MOVE_CFG.move_win = 0 then none else if u.winOpen e then e.win else some (u.now + msTicks (u.f (FDB_MOVE_CFG.a p) FDB_MOVE_CFG.move_win)) } l := by
  unfold State.learnMove; dsimp only; rw [if_neg (fun ⟨a, b⟩ => by omega)]

theorem table_learnJudge_move (u : State) (p : Nat) (r : LearnReq) (k : Nat) (e : FdbEnt) (hc : u.Canonical) (hk : u.fdbFind p r.mac r.vid = some k) (he : (u.freezeEnd p k).fdbAt p k = some e) (h : e.dest ≠ r.dest) (h2 : e.fixed = false) (h3 : e.frozen = false) :
    u.learnJudge p r = (u.freezeEnd p k).learnMove p k e r.dest := by
  unfold State.learnJudge
  rw [hk, show u.thaw p (some k) = u.freezeEnd p k from rfl]
  dsimp only
  rw [table_freezeEnd_keys u p k hc, hk]; dsimp only; rw [he]; dsimp only; rw [if_neg h, h2, if_neg (by decide), h3, if_neg (by decide)]

theorem table_lnotA (p : Fin 2) : mbxData (fdbLnot p.val) 3 % 4 = 0 ∧ mbxData (fdbLnot p.val) 3 < 0x2000000 := by revert p; decide

theorem table_lnotIf (p : Fin 2) (u : State) : (if fdbLnot p.val = fdbLnot 0 then u.lnotRead 0 else if fdbLnot p.val = fdbLnot 1 then u.lnotRead 1 else u) = u.lnotRead p.val :=
  match p with
  | ⟨0, _⟩ => if_pos rfl
  | ⟨1, _⟩ => (if_neg (show ¬fdbLnot 1 = fdbLnot 0 by decide)).trans (if_pos rfl)

theorem table_bumpS (v : State) (a : Nat) (f : Fld) : (v.bump a f).fdb = v.fdb ∧ (v.bump a f).flw = v.flw := ⟨rfl, rfl⟩

theorem table_setFsS (v : State) (a : Nat) (l : List (Fld × Nat)) : (v.setFs a l).fdb = v.fdb ∧ (v.setFs a l).flw = v.flw := ⟨rfl, rfl⟩

theorem table_lnotRead_spec (s : State) (p : Nat) (hc : s.Canonical) (hv : fldGet (s.reg (fdbLnot p + 4)) MBX_STAT.valid = 0) :
    ((s.lnotRead p).pp p).notif = (s.pp p).notif.drop 1 ∧ (s.lnotRead p).out = s.out ∧ ∀ e rest, (s.pp p).notif.drop 1 = e :: rest → (s.lnotRead p).Shows (fdbLnot p) e := by
  unfold State.lnotRead State.lnotShow
  have e : (s.setPp p { s.pp p with notif := (s.pp p).notif.drop 1 }).pp p = { s.pp p with notif := (s.pp p).notif.drop 1 } := Cells.get_set hc.pipe _ _
  dsimp only
  rw [e]
  dsimp only
  cases h : (s.pp p).notif.drop 1 with
  | nil =>
    dsimp only
    rw [h] at e
    exact ⟨congrArg PipeSt.notif e, rfl, fun e r hh => by cases hh⟩
  | cons a r =>
    dsimp only
    have hv' : ¬fldGet ((s.setPp p { s.pp p with notif := (s.pp p).notif.drop 1 }).reg (fdbLnot p + 4)) MBX_STAT.valid = 1 := by
      show ¬fldGet (s.reg _) _ = 1
      omega
    rw [h] at e hv'
    rw [if_neg hv']
    refine ⟨?_, ?_, fun e' r' hh => ?_⟩
    · unfold State.pp State.setF; rw [State.setWords_same]; exact congrArg PipeSt.notif e
    · unfold State.setF; rw [State.setWords_same]; rfl
    · injection hh with h1 h2; subst h1
      exact table_shown _ _ _ (by exact hc.regs)

end Sys2Proof.Machine
end

