-- ==== Sys2Proof/Laws/TimeRows.lean ====
section
/-! SUPPORT. Lemmas about the time commands: a source evaluation changes WKT only. -/

namespace Sys2Proof.Machine

/-- What the judgement of WKT's source touches. -/
def timeWktOnly (u t : State) : Prop := (∃ regs evt out fr pba, t =
    { u with regs := regs, evt := evt, out := out, tim := { u.tim with frozen := fr }, pcie := { u.pcie with pba := pba } }) ∧
  ∀ a, a ≠ TIM_WKT_STAT.a → a ≠ EVT_SRC_STAT.a 31 → t.reg a = u.reg a

theorem timeWktOnly.refl (u : State) : timeWktOnly u u := ⟨⟨_, _, _, _, _, rfl⟩, fun _ _ _ => rfl⟩

theorem timeWktOnly.setFs {u t : State} (h : timeWktOnly u t) (l) : timeWktOnly u (t.setFs TIM_WKT_STAT.a l) := by
  obtain ⟨⟨a, b, c, d, e, rfl⟩, h2⟩ := h
  exact ⟨⟨_, _, _, _, _, rfl⟩, fun x h1 h3 => (State.reg_setFs_ne _ _ _ _ h1).trans (h2 x h1 h3)⟩

theorem timeWktOnly.setF {u t : State} (h : timeWktOnly u t) (f v) : timeWktOnly u (t.setF TIM_WKT_STAT.a f v) := by
  obtain ⟨⟨a, b, c, d, e, rfl⟩, h2⟩ := h
  exact ⟨⟨_, _, _, _, _, rfl⟩, fun x h1 h3 => (State.reg_setF_ne _ _ _ _ _ h1).trans (h2 x h1 h3)⟩

theorem timeWktOnly.raise {u t : State} (h : timeWktOnly u t) (c i) : timeWktOnly u (t.raise 31 c i) := by
  refine ⟨?_, fun x h1 h3 => (State.reg_raise_ne _ _ _ _ _ h3).trans (h.2 x h1 h3)⟩
  obtain ⟨⟨a, b, c, d, e, rfl⟩, h2⟩ := h
  exact ⟨_, _, _, _, _, State.raise_same _ _ _ _⟩

theorem timeWktOnly.frozen {u t : State} (h : timeWktOnly u t) (v) : timeWktOnly u { t with tim := { t.tim with frozen := v } } := by
  obtain ⟨⟨a, b, c, d, e, rfl⟩, h2⟩ := h
  exact ⟨⟨_, _, _, _, _, rfl⟩, h2⟩

theorem timeWktOnly.refuse {u t : State} (h : timeWktOnly u t) (d) : timeWktOnly u (t.wktRefuse d) := by
  unfold State.wktRefuse
  dsimp only
  apply timeWktOnly.raise
  apply timeWktOnly.setFs
  split
  · exact h
  · exact h.frozen _

theorem timeWktOnly.eval {u t : State} (h : timeWktOnly u t) : timeWktOnly u t.wktEval := by
  unfold State.wktEval
  dsimp only
  split
  · split
    · exact h.setF _ _
    · split
      · exact h.setF _ _
      · exact ((h.frozen _).setFs _).raise _ _
  · split
    · exact h.setFs _
    · split
      · split
        · exact (h.raise _ _).refuse _
        · exact (h.raise _ _).setFs _
      · split
        · exact h.setF _ _
        · split
          · exact h.refuse _
          · exact (h.setFs _).raise _ _

theorem timeWktOnly.adjusted (u : State) (d : Nat) : timeWktOnly u (u.wktAdjusted d) := by
  unfold State.wktAdjusted
  dsimp only
  split
  · split
    · exact (timeWktOnly.refl u).refuse _
    · exact (timeWktOnly.refl u).setF _ _
  · exact (timeWktOnly.refl u).eval

theorem timeWktOnly.clock {u t : State} (h : timeWktOnly u t) (c : Nat) : t.clock c = u.clock c := by
  obtain ⟨⟨a, b, c, d, e, rfl⟩, h2⟩ := h
  rfl

theorem time_clock_setClock (s : State) (c t x : Nat) (h : c < 4) (hx : x < 4) : (s.setClock c t).clock x = if x = c then t else s.clock x := by
  have : c = 0 ∨ c = 1 ∨ c = 2 ∨ c = 3 := by omega
  have hx : x = 0 ∨ x = 1 ∨ x = 2 ∨ x = 3 := by omega
  obtain h | h | h | h := this <;> subst h <;> obtain h | h | h | h := hx <;> subst h <;> rfl

theorem time_setClock_reg (s : State) (c t a : Nat) : (s.setClock c t).reg a = s.reg a := by
  unfold State.setClock; split <;> [rfl; (split <;> [rfl; (split <;> rfl)])]

theorem time_setClock_regs (s : State) (c t : Nat) : (s.setClock c t).regs = s.regs := by
  unfold State.setClock; split <;> [rfl; (split <;> [rfl; (split <;> rfl)])]

theorem time_setClock_aud (s : State) (c t : Nat) : (s.setClock c t).aud = s.aud := by
  unfold State.setClock; split <;> [rfl; (split <;> [rfl; (split <;> rfl)])]

theorem timeWktOnly.aud {u t : State} (h : timeWktOnly u t) : t.aud = u.aud := by
  obtain ⟨⟨a, b, c, d, e, rfl⟩, h2⟩ := h
  rfl

theorem time_adjErr1 (u : State) (k : Nat) (hk : k = 1 ∨ k = 2) (ho : u.domOn (k - 1) = true) : u.timAdjErr 1 k = none := by
  unfold State.timAdjErr
  obtain h | h := hk <;> subst h <;> simp_all [lowestErr]

theorem time_adjErr2 (u : State) (k : Nat) (hk : k = 1 ∨ k = 2) (ho : u.domOn (k - 1) = true) (h : u.dw timAdj 2 % 2 ^ 30 < 1000000000) : u.timAdjErr 2 k = none := by
  unfold State.timAdjErr
  obtain h | h := hk <;> subst h <;> simp_all [lowestErr] <;> rw [if_neg (by omega)]

theorem time_adjErr3 (u : State) (k : Nat) (hk : k = 0 ∨ ((k = 1 ∨ k = 2) ∧ u.domOn (k - 1) = true)) (h1 : 3996 * 4294967296 ≤ 1000 * (u.dw timAdj 1 % 16 * 4294967296 + u.dw timAdj 0))
    (h2 : 1000 * (u.dw timAdj 1 % 16 * 4294967296 + u.dw timAdj 0) ≤ 4004 * 4294967296) : u.timAdjErr 3 k = none := by
  unfold State.timAdjErr
  have : incOk (u.dw timAdj 1 % 16 * nsU + u.dw timAdj 0) = true := by unfold incOk nsU; simp only [Bool.and_eq_true, decide_eq_true_eq]; exact ⟨h1, h2⟩
  obtain h | ⟨h | h, h3⟩ := hk <;> subst h <;> simp_all [lowestErr]

end Sys2Proof.Machine
end

