-- ==== Sys2Proof/Laws/YufenRows.lean ====
section
/-! SUPPORT. Lemmas about the Yufen instructions and the action queues. -/

namespace Sys2Proof.Machine

theorem yufen_tr_lt (s : State) (n : Nat) (k : BitVec 2) : s.tr n k < 2 ^ 96 := BitVec.isLt _

theorem yufen_jumps {s : State} {q : Fin 8} {w : Word} (h : s.Holds q.val w) (hc : s.Canonical) (f : State → State) (t c : Nat) (ht : t < s.progLen q.val)
    (hf : f (s.yBegin q.val) = (s.yBegin q.val).yGo q.val (t : Int) c (s.yBegin q.val)) : s.Jumps (.next (s.yIssue q.val w f)) q.val t c := by
  rw [h.run, hf, State.yGo_in _ _ _ _ _ (by omega) (by rw [State.yBegin_len]; omega)]
  have hp : (t : Int).toNat = t := by omega
  rw [hp]
  have hlen : t < 32768 := by unfold State.progLen at ht; omega
  obtain ⟨h1, h2⟩ := State.ran_core s q.val { s.sq q.val with cyc := s.yCycle q.val } t c hc h.running hlen rfl
  have e : (s.yBegin q.val).setSq q.val { s.sq q.val with cyc := s.yCycle q.val } = s.yBegin q.val := by
    rw [← State.yBegin_sq s q.val hc, State.setSq_self _ _ (State.yBegin_canon s q.val hc)]
  rw [e] at h1 h2
  exact ⟨_, rfl, h1, h2⟩

theorem yufen_links {s : State} {q : Fin 8} {w : Word} (h : s.Holds q.val w) (hc : s.Canonical) (f : State → State) (d : BitVec 4) (v : Word) (t c : Nat) (ht : t < s.progLen q.val)
    (hf : f (s.yBegin q.val) = (s.yBegin q.val).yGo q.val (t : Int) c ((s.yBegin q.val).setGr q.val d v)) :
    ∃ u : State, Host.Outcome.next (s.yIssue q.val w f) = (.next u : Host.Outcome State Fault Refusal) ∧ s.Ran u q.val t c ∧ ∀ k, u.gr q.val k = if k = d ∧ d ≠ 0#4 then v else s.gr q.val k := by
  rw [h.run, hf, State.yGo_in _ _ _ _ _ (by omega) (by rw [State.yBegin_len]; omega)]
  have hp : (t : Int).toNat = t := by omega
  rw [hp]
  have hlen : t < 32768 := by unfold State.progLen at ht; omega
  have e : (s.yBegin q.val).setGr q.val d v = (s.yBegin q.val).setSq q.val { s.sq q.val with cyc := s.yCycle q.val, g := if d = 0#4 then (s.sq q.val).g else (s.sq q.val).g.setIfInBounds d.toNat v } := by
    unfold State.setGr
    dsimp only
    by_cases hd : d = 0#4
    · rw [if_pos hd, if_pos hd, ← State.yBegin_sq s q.val hc, State.setSq_self _ _ (State.yBegin_canon s q.val hc)]
    · rw [if_neg hd, if_neg hd, State.yBegin_sq s q.val hc]
  rw [e]
  obtain ⟨h1, h2⟩ := State.ran_core s q.val { s.sq q.val with cyc := s.yCycle q.val, g := if d = 0#4 then (s.sq q.val).g else (s.sq q.val).g.setIfInBounds d.toNat v } t c hc h.running hlen rfl
  refine ⟨_, rfl, h1, ?_⟩
  intro k
  unfold State.gr
  rw [h2]
  dsimp only
  by_cases hd : d = 0#4
  · rw [if_pos hd]; simp [hd]
  · rw [if_neg hd, getD_setIn _ _ _ _ _ d.isLt]
    by_cases hk : k = d
    · subst hk; simp [hd]
    · have h1 : ¬(d.toNat = k.toNat) := fun h => hk (BitVec.eq_of_toNat_eq h.symm)
      have h2 : ¬(k = d ∧ d ≠ 0#4) := fun h => hk h.1
      simp only [if_neg h1, if_neg h2]

theorem yufen_branches {s : State} {q : Fin 8} {w : Word} (h : s.Holds q.val w) (hc : s.Canonical) (f : State → State) (taken : Bool) (P : Prop) (off : BitVec 18) (hP : taken = true ↔ P)
    (hf : f (s.yBegin q.val) = (s.yBegin q.val).yBranch q.val taken off) : s.Branches (.next (s.yIssue q.val w f)) q.val P off := by
  unfold State.yBranch State.yNext at hf
  rw [State.yBegin_pc] at hf
  refine ⟨fun hn hin => ?_, fun ht h0 h1 => ?_, fun ht hx hz => ?_⟩
  · have : taken = false := by cases taken <;> simp_all
    rw [this, if_neg (by decide)] at hf
    exact yufen_jumps h hc f _ 1 hin hf
  · rw [hP.2 ht, if_pos rfl] at hf
    have e : (s.seqPc q.val : Int) + off.toInt = (((s.seqPc q.val : Int) + off.toInt).toNat : Int) := by omega
    rw [e] at hf
    exact yufen_jumps h hc f _ 2 (by omega) hf
  · rw [hP.2 ht, if_pos rfl] at hf
    unfold State.yGo at hf
    rw [State.yBegin_len, if_neg hx] at hf
    rw [h.run, hf]
    refine State.traps_of s (s.yBegin q.val) q 2 0 (State.yBegin_canon s q.val hc) hz (by omega) (by omega) rfl ?_
    rw [State.yBegin_sq s q.val hc]

theorem yufen_trapNone {s : State} {n a size : Nat} {store : Bool} (h : s.InWindow n a size store) : s.tblTrap n a size store = none := by
  obtain ⟨h1, h2, h3, h4, h5⟩ := h
  unfold State.tblTrap
  rw [if_neg (by omega), if_neg]
  rintro (h | h | h)
  · omega
  · omega
  · rw [h5 h.1] at h; exact absurd h.2 (by decide)

/-- A table access that no trap stops, in terms of the sequencer `y` and the windows `w` that it leaves. -/
theorem yufen_table {s : State} {q : Fin 8} {w : Word} (h : s.Issues q.val w) (hc : s.Canonical) (f : State → State) (c : Nat) (g : State → State) (y : SeqSt) (mem : Cells Byte)
    (p size : Nat) (store : Bool) (hw : s.InWindow q.val p size store) (hf : f (s.yBegin q.val) = (s.yBegin q.val).yTable q.val p size store c g)
    (hg : ∀ u : State, u = { (s.yBegin q.val) with freeIdx := s.freeIdx + 1 } → g u = ({ u with seq := s.seq, win := mem } : State).setSq q.val y)
    (hy : y = { s.sq q.val with cyc := s.yCycle q.val, g := y.g, t := y.t }) :
    ∃ t : State, Host.Outcome.next (s.yIssue q.val w f) = (.next t : Host.Outcome State Fault Refusal) ∧ s.RanTable t q.val c ∧ t.win = mem ∧ (t.sq q.val).g = y.g ∧ (t.sq q.val).t = y.t := by
  rw [h.run, hf]
  unfold State.yTable
  have hn : (s.yBegin q.val).tblTrap q.val p size store = none := yufen_trapNone (s := s) hw
  rw [hn]
  dsimp only
  have hfr : (s.yBegin q.val).fresh.2 = { (s.yBegin q.val) with freeIdx := s.freeIdx + 1 } := rfl
  rw [hfr, hg _ rfl]
  have hrec : ({ ({ (s.yBegin q.val) with freeIdx := s.freeIdx + 1 } : State) with seq := s.seq, win := mem } : State) = { s with freeIdx := s.freeIdx + 1, win := mem } := rfl
  rw [hrec]
  generalize hk : (s.yBegin q.val).fresh.1.toNat % 8 = k
  have hk8 : k < 8 := by omega
  unfold State.yNext
  have hi := h.inside
  rw [State.yGo_in _ _ _ _ _ (by omega) (by rw [State.yBegin_len, State.yBegin_pc]; omega), State.yBegin_pc]
  have hp : ((s.seqPc q.val + 1 : Nat) : Int).toNat = s.seqPc q.val + 1 := by omega
  rw [hp]
  have hlen : s.seqPc q.val + 1 < 32768 := by unfold State.progLen at hi; omega
  generalize hs1 : ({ s with freeIdx := s.freeIdx + 1, win := mem } : State) = s1
  have hsw : Cells.wf (fun _ => ({} : SeqSt)) s1.seq = true := by rw [← hs1]; exact hc.seq
  have hrw : Cells.wf resetOf s1.regs = true := by rw [← hs1]; exact hc.regs
  have hreg : ∀ a, s1.reg a = s.reg a := by intro a; rw [← hs1]; rfl
  have hsq : ∀ m, s1.sq m = s.sq m := by intro m; rw [← hs1]; rfl
  have hq1 : ((s1.setSq q.val y).setPc q.val (s.seqPc q.val + 1)).sq q.val = y := Cells.get_set hsw _ _
  have hsq2 : (((s1.setSq q.val y).setPc q.val (s.seqPc q.val + 1)).yCost q.val (c + k)).sq q.val = { y with cyc := s.yCycle q.val + (c + k) } := by
    unfold State.yCost
    dsimp only
    rw [hq1]
    have hcyc : y.cyc = s.yCycle q.val := by rw [hy]
    rw [hcyc]
    exact Cells.get_set (Cells.wf_set hsw _ _) _ _
  have hr : (((s1.setSq q.val y).setPc q.val (s.seqPc q.val + 1)).yCost q.val (c + k)).reg (SEQ_STAT.a q.val) = fldSet (s.reg (SEQ_STAT.a q.val)) SEQ_STAT.pc (s.seqPc q.val + 1) := by
    rw [← hreg]; exact State.reg_setReg _ _ _ hrw
  refine ⟨_, rfl, ⟨?_, ?_, ?_, ?_, ?_, ?_, ?_, ?_, ?_, ?_, ?_, ?_⟩, ?_, ?_, ?_⟩
  · rw [← hs1]; rfl
  · generalize s.seqPc q.val + 1 = m at *
    unfold State.seqPc
    rw [hr, fldGet_fldSet _ _ _ (by decide)]
    unfold SEQ_STAT.pc
    dsimp only
    omega
  · unfold State.seqState
    rw [hr, fldGet_fldSet_ne _ _ _ _ (by decide) (by decide)]
    exact h.running
  · intro a ha
    rw [← hreg a]
    exact State.reg_setF_ne _ _ _ _ _ ha
  · intro m hm
    rw [← hsq m]
    unfold State.yCost
    dsimp only
    rw [State.sq_setSq_ne _ _ _ _ hm]
    exact State.sq_setSq_ne _ _ _ _ hm
  · rw [hsq2, hy]
  · rw [hsq2, hy]
  · rw [hsq2, hy]
  · rw [hsq2, hy]
  · rw [hsq2, hy]
  · rw [hsq2]; show _ ≤ s.yCycle q.val + (c + k); omega
  · rw [hsq2]; show s.yCycle q.val + (c + k) ≤ _; omega
  · rw [← hs1]; rfl
  · rw [hsq2]
  · rw [hsq2]

theorem yufen_setGr_as (s u : State) (q : Nat) (d : BitVec 4) (v : Word) (hu : u.seq = (s.yBegin q).seq) (hc : s.Canonical) : u.setGr q d v =
    { u with seq := s.seq }.setSq q { s.sq q with cyc := s.yCycle q, g := if d = 0#4 then (s.sq q).g else (s.sq q).g.setIfInBounds d.toNat v } := by
  have hus : u.sq q = { s.sq q with cyc := s.yCycle q } := by
    rw [← State.yBegin_sq s q hc]; unfold State.sq; rw [hu]
  have e : ∀ y, u.setSq q y = { u with seq := s.seq }.setSq q y := by
    intro y
    unfold State.setSq
    dsimp only
    rw [hu]
    show ({ u with seq := Cells.set _ (Cells.set _ s.seq q _) q y } : State) = _
    rw [Cells.set_set hc.seq]
  unfold State.setGr
  dsimp only
  by_cases hd : d = 0#4
  · rw [if_pos hd, if_pos hd, ← hus, ← e]
    unfold State.setSq State.sq
    rw [hu, Cells.set_get (State.yBegin_canon s q hc).seq, ← hu]
  · rw [if_neg hd, if_neg hd, hus, e]

theorem yufen_gr_of (t s : State) (q : Nat) (d : BitVec 4) (v : Word) (h : (t.sq q).g = if d = 0#4 then (s.sq q).g else (s.sq q).g.setIfInBounds d.toNat v) :
    ∀ k, t.gr q k = if k = d ∧ d ≠ 0#4 then v else s.gr q k := by
  intro k
  unfold State.gr
  rw [h]
  by_cases hd : d = 0#4
  · rw [if_pos hd]; simp [hd]
  · rw [if_neg hd, getD_setIn _ _ _ _ _ d.isLt]
    by_cases hk : k = d
    · subst hk; simp [hd]
    · have h1 : ¬(d.toNat = k.toNat) := fun h => hk (BitVec.eq_of_toNat_eq h.symm)
      have h2 : ¬(k = d ∧ d ≠ 0#4) := fun h => hk h.1
      simp only [if_neg h1, if_neg h2]

theorem yufen_live1 {s : State} {n : Nat} (h : s.seqLive n = true) : s.seqState n = 1 := by
  unfold State.seqLive at h
  simp only [Bool.and_eq_true, beq_iff_eq] at h
  exact h.1.2

theorem yufen_and_not_zero (x : BitVec 8) : x &&& ~~~(BitVec.ofNat 8 0) = x := by
  have : ~~~(BitVec.ofNat 8 0) = BitVec.allOnes 8 := by decide
  rw [this, BitVec.and_allOnes]

/-- The end at the issue of a wait, from the state `u` whose sequencer is `y`. -/
theorem yufen_endNow (s u : State) (n : Nat) (y : SeqSt) (ws clr : Nat) (pc : Int) (hc : s.Canonical) (hu : u = { s with seq := u.seq }) (hus : Cells.wf (fun _ => ({} : SeqSt)) u.seq = true)
    (hm : ∀ m, m ≠ n → u.sq m = s.sq m) (hcy : (u.sq n).cyc = s.yCycle n) (h0 : 0 ≤ pc) (hp : pc < (s.progLen n : Int)) (hr : s.seqState n = 1)
    (hy : { u.sq n with ws := BitVec.ofNat 32 ws, sig := (u.sq n).sig &&& ~~~(BitVec.ofNat 8 clr), cyc := 0, wait := {} } = { y with cyc := 0, wait := {} }) :
    s.Ends (.next (u.yEndNow n ws clr pc)) n y pc := by
  unfold State.yEndNow
  dsimp only
  have hf : u.fresh.2 = { s with seq := u.seq, freeIdx := s.freeIdx + 1 } := by
    show ({ u with freeIdx := u.freeIdx + 1 } : State) = _
    rw [hu]
  rw [hf]
  have hk : u.fresh.1.toNat % 4 < 4 := by omega
  generalize u.fresh.1.toNat % 4 = k at hk
  refine State.ends_of s _ n y ws clr _ pc hc hus rfl hm h0 hp hr ?_ (by omega) (by omega)
  have := congrArg (fun r : SeqSt => { r with cyc := (u.sq n).cyc + 1 + k }) hy
  exact this

theorem yufen_endTick (s u : State) (n : Nat) (y : SeqSt) (ws clr : Nat) (pc : Int) (hc : s.Canonical) (hu : u = { s with seq := u.seq }) (hus : Cells.wf (fun _ => ({} : SeqSt)) u.seq = true)
    (hm : ∀ m, m ≠ n → u.sq m = s.sq m) (hcy : u.yCycle n = s.yCycle n) (h0 : 0 ≤ pc) (hp : pc < (s.progLen n : Int)) (hr : s.seqState n = 1)
    (hy : { u.sq n with ws := BitVec.ofNat 32 ws, sig := (u.sq n).sig &&& ~~~(BitVec.ofNat 8 clr), cyc := 0, wait := {} } = { y with cyc := 0, wait := {} }) :
    s.Ends (.next (u.yEndTick n ws clr pc)) n y pc := by
  unfold State.yEndTick
  dsimp only
  have hf : u.fresh.2 = { s with seq := u.seq, freeIdx := s.freeIdx + 1 } := by
    show ({ u with freeIdx := u.freeIdx + 1 } : State) = _
    rw [hu]
  rw [hf]
  have hk : u.fresh.1.toNat % 4 < 4 := by omega
  generalize u.fresh.1.toNat % 4 = k at hk
  refine State.ends_of s _ n y ws clr _ pc hc hus rfl hm h0 hp hr ?_ (by omega) (by omega)
  have := congrArg (fun r : SeqSt => { r with cyc := u.yCycle n + k }) hy
  exact this

/-- An instruction that leaves the state `v`, with the sequencer `y`, and steps on. -/
theorem yufen_stepsOn {s v : State} {n : Nat} {w : Word} (h : s.Issues n w) (f : State → State) (y : SeqSt) (c : Nat)
    (hv : v.Canonical) (hvq : v.sq n = y) (hvr : v.reg (SEQ_STAT.a n) = s.reg (SEQ_STAT.a n)) (hf : f (s.yBegin n) = (s.yBegin n).yNext n c v) :
    let t := (v.setPc n (s.seqPc n + 1)).yCost n c
    s.yIssue n w f = t ∧ t.seqPc n = s.seqPc n + 1 ∧ t.sq n = { y with cyc := y.cyc + c } ∧ ∀ a, a ≠ SEQ_STAT.a n → t.reg a = v.reg a := by
  dsimp only
  rw [h.run, hf]
  unfold State.yNext
  have hi := h.inside
  rw [State.yGo_in _ _ _ _ _ (by omega) (by rw [State.yBegin_len, State.yBegin_pc]; omega), State.yBegin_pc]
  have hp : ((s.seqPc n + 1 : Nat) : Int).toNat = s.seqPc n + 1 := by omega
  rw [hp]
  have hlen : s.seqPc n + 1 < 32768 := by unfold State.progLen at hi; omega
  have hvp : (v.setPc n (s.seqPc n + 1)).Canonical := (State.setPc_keeps (State.Keeps.refl v) _ _).canon hv
  refine ⟨rfl, ?_, ?_, ?_⟩
  · generalize s.seqPc n + 1 = m at *
    have : ((v.setPc n m).yCost n c).reg (SEQ_STAT.a n) = fldSet (s.reg (SEQ_STAT.a n)) SEQ_STAT.pc m := by rw [← hvr]; exact State.reg_setReg _ _ _ hv.regs
    unfold State.seqPc
    rw [this, fldGet_fldSet _ _ _ (by decide)]
    unfold SEQ_STAT.pc
    dsimp only
    omega
  · unfold State.yCost
    dsimp only
    rw [State.sq_setSq _ _ _ hvp, show (v.setPc n (s.seqPc n + 1)).sq n = y from hvq]
  · intro a ha
    exact State.reg_setF_ne _ _ _ _ _ ha

theorem yufen_yCost_rest (v : State) (n p c : Nat) : ((v.setPc n p).yCost n c) = { v with regs := ((v.setPc n p).yCost n c).regs, seq := ((v.setPc n p).yCost n c).seq } := rfl

theorem yufen_setQ_used (s : State) (n : Nat) (x : SeqSt) (hc : s.Canonical) (h : x.used < 512) : fldGet ((s.setQ n x).reg (SEQ_QSTAT.a n)) SEQ_QSTAT.used = x.used := by
  unfold State.setQ
  have hr : ((s.setSq n x).setFs (SEQ_QSTAT.a n) [(SEQ_QSTAT.used, x.used), (SEQ_QSTAT.high_water, if fldGet (s.reg (SEQ_QSTAT.a n)) SEQ_QSTAT.high_water < x.used then x.used else fldGet (s.reg (SEQ_QSTAT.a n)) SEQ_QSTAT.high_water)]).reg (SEQ_QSTAT.a n) = _ :=
    State.reg_setReg _ _ _ hc.regs
  dsimp only
  rw [hr]
  simp only [List.foldl]
  rw [fldGet_fldSet_ne _ _ _ _ (by decide) (by decide), fldGet_fldSet _ _ _ (by decide)]
  unfold SEQ_QSTAT.used
  dsimp only
  omega

theorem yufen_insEnt_length (e : TEnt) (l : List TEnt) : (insEnt e l).length = l.length + 1 := by
  induction l with
  | nil => rfl
  | cons x r ih => unfold insEnt; split <;> simp [ih]

theorem yufen_pop_nil (u : State) (n : Nat) (h : u.inqOf n = []) : u.gwPop n = (0, u) := by unfold State.gwPop; rw [h]

theorem yufen_pop_cons (u : State) (n x : Nat) (r : List Nat) (h : u.inqOf n = x :: r) : u.gwPop n = (x, (u.setInq n r).setHeld n (u.heldBy n ++ [x % 65536])) := by unfold State.gwPop; rw [h]

theorem yufen_popFacts (s : State) (n : Nat) (y : SeqSt) (hc : s.Canonical) (hB : (s.yBegin n).Canonical) (hBq : (s.yBegin n).sq n = y) :
    ((s.yBegin n).gwPop n).1 = (s.inqOf n).headD 0 ∧ ((s.yBegin n).gwPop n).2.Canonical ∧ ((s.yBegin n).gwPop n).2.sq n = y ∧
        ((s.yBegin n).gwPop n).2.inqOf n = (s.inqOf n).tail ∧ ((s.yBegin n).gwPop n).2.heldBy n = s.heldBy n ++ ((s.inqOf n).take 1).map (· % 65536) ∧
        (∀ a, ((s.yBegin n).gwPop n).2.reg a = s.reg a) ∧ ((s.yBegin n).gwPop n).2 = { s with seq := ((s.yBegin n).gwPop n).2.seq, inq := ((s.yBegin n).gwPop n).2.inq, held := ((s.yBegin n).gwPop n).2.held } := by
  have hcp : ((s.yBegin n).gwPop n).2.Canonical := (State.gwPop_keeps (State.Keeps.refl _) _).canon hB
  have hiq : (s.yBegin n).inqOf n = s.inqOf n := rfl
  cases hl : s.inqOf n with
  | nil =>
    rw [yufen_pop_nil _ _ (hiq.trans hl)]
    refine ⟨rfl, hB, hBq, hiq.trans hl, ?_, fun _ => rfl, rfl⟩
    show s.heldBy n = _
    simp
  | cons hh r =>
    rw [yufen_pop_cons _ _ _ _ (hiq.trans hl)] at hcp ⊢
    refine ⟨rfl, hcp, hBq, ?_, ?_, fun _ => rfl, rfl⟩
    · exact Cells.get_set hc.inq _ _
    · exact Cells.get_set hc.held _ _

theorem yufen_pin_setPin (s : State) (k t : Nat) (x : SyncPin) (hc : s.Canonical) : (s.setPin k x t).pin k = x ∧ (∀ j, j ≠ k → (s.setPin k x t).pin j = s.pin j) ∧
    s.setPin k x t = { s with sync := (s.setPin k x t).sync, out := (s.setPin k x t).out } := by
  unfold State.setPin
  dsimp only
  split
  · exact ⟨Cells.get_set hc.sync _ _, fun j h => Cells.get_set_ne _ _ _ _ _ h, rfl⟩
  · exact ⟨Cells.get_set hc.sync _ _, fun j h => Cells.get_set_ne _ _ _ _ _ h, rfl⟩

end Sys2Proof.Machine
end

