-- ==== Sys2Proof/Tests/Slice0.lean ====
section
/-! SUPPORT. Tests: for each obligation with hypotheses a state and operands that meet them, ill-formed commands that the checks refuse, words that the decoder reads, and single steps. -/

namespace Sys2Proof.Tests

open Sys2Proof Sys2Proof.Machine

set_option Elab.async false

/-! ### States and hypotheses -/

/-- Every store of a state is in its canonical form, as one Bool. -/
def canonB (s : State) : Bool :=
  Cells.wf resetOf s.regs && Cells.wf (fun _ => {}) s.par && Cells.wf (fun _ => none) s.guards && Cells.wf (fun _ => {}) s.evt &&
  Cells.wf (fun _ => {}) s.sess && Cells.wf (fun _ => {}) s.lock && Cells.wf (fun _ => {}) s.phs && Cells.wf (fun _ => false) s.phLev &&
  Cells.wf (fun _ => {}) s.seq && Cells.wf (fun _ => {}) s.acts && Cells.wf (fun _ => {}) s.sync && Cells.wf (fun _ => 0#8) s.win &&
  Cells.wf (fun _ => none) s.fdb && Cells.wf (fun _ => none) s.flw && Cells.wf (fun _ => {}) s.pipe && Cells.wf (fun _ => false) s.ruleBad &&
  Cells.wf (fun _ => 0) s.ruleCnt && Cells.wf (fun _ => none) s.latch && Cells.wf (fun _ => 0) s.bankUse && Cells.wf (fun _ => 0) s.bankPtr &&
  Cells.wf (fun _ => {}) s.ports && Cells.wf (fun _ => 0) s.credit && Cells.wf (fun _ => 0) s.wfq && Cells.wf (fun _ => 0) s.wfqV &&
  Cells.wf (fun _ => {}) s.meters && Cells.wf (fun _ => 0) s.mib && Cells.wf (fun _ => {}) s.sa && Cells.wf (fun _ => 0) s.rxLast &&
  Cells.wf (fun _ => 0) s.cipMib && Cells.wf (fun _ => 0) s.ringPtr && Cells.wf cfgReset s.pcie.cfg && Cells.wf msixReset s.pcie.tbl && Cells.wf (fun _ => {}) s.fre && Cells.wf (fun _ => 0#8) s.sram &&
  Cells.wf (fun _ => {}) s.can && Cells.wf (fun _ => {}) s.lin && Cells.wf (fun _ => []) s.inq && Cells.wf (fun _ => []) s.held &&
  Cells.wf (fun _ => {}) s.batch && Cells.wf (fun _ => {}) s.rxStr && Cells.wf (fun _ => 0#8) s.dram && Cells.wf (fun _ => 0xff#8) s.flash

theorem canonical_iff (s : State) : s.Canonical ↔ canonB s = true := by
  constructor
  · rintro ⟨⟩
    simp only [canonB, Bool.and_eq_true]
    refine ⟨⟨⟨⟨⟨⟨⟨⟨⟨⟨⟨⟨⟨⟨⟨⟨⟨⟨⟨⟨⟨⟨⟨⟨⟨⟨⟨⟨⟨⟨⟨⟨⟨⟨⟨⟨⟨⟨⟨⟨⟨?_, ?_⟩, ?_⟩, ?_⟩, ?_⟩, ?_⟩, ?_⟩, ?_⟩, ?_⟩, ?_⟩, ?_⟩, ?_⟩, ?_⟩, ?_⟩, ?_⟩, ?_⟩, ?_⟩, ?_⟩, ?_⟩, ?_⟩, ?_⟩, ?_⟩, ?_⟩, ?_⟩, ?_⟩, ?_⟩, ?_⟩, ?_⟩, ?_⟩, ?_⟩, ?_⟩, ?_⟩, ?_⟩, ?_⟩, ?_⟩, ?_⟩, ?_⟩, ?_⟩, ?_⟩, ?_⟩, ?_⟩, ?_⟩ <;> assumption
  · intro h
    simp only [canonB, Bool.and_eq_true] at h
    obtain ⟨⟨⟨⟨⟨⟨⟨⟨⟨⟨⟨⟨⟨⟨⟨⟨⟨⟨⟨⟨⟨⟨⟨⟨⟨⟨⟨⟨⟨⟨⟨⟨⟨⟨⟨⟨⟨⟨⟨⟨⟨_, _⟩, _⟩, _⟩, _⟩, _⟩, _⟩, _⟩, _⟩, _⟩, _⟩, _⟩, _⟩, _⟩, _⟩, _⟩, _⟩, _⟩, _⟩, _⟩, _⟩, _⟩, _⟩, _⟩, _⟩, _⟩, _⟩, _⟩, _⟩, _⟩, _⟩, _⟩, _⟩, _⟩, _⟩, _⟩, _⟩, _⟩, _⟩, _⟩, _⟩, _⟩ := h
    constructor <;> assumption

theorem may_iff (s : State) (i a : Nat) : s.May i a ↔ s.powered = true ∧ s.roleOf i = 2 ∧ s.guardOf (blockOf a) = none :=
  ⟨fun h => ⟨h.powered, h.role, h.quiet⟩, fun h => ⟨h.1, h.2.1, h.2.2⟩⟩

theorem mayAsk_iff (s : State) (i m : Nat) :
    s.MayAsk i m ↔ s.powered = true ∧ s.roleOf i ≠ 0 ∧ s.guardOf (blockOf m) = none ∧ fldGet (s.reg m) MBX_CTRL.req = 0 :=
  ⟨fun h => ⟨h.powered, h.role, h.quiet, h.idle⟩, fun h => ⟨h.1, h.2.1, h.2.2.1, h.2.2.2⟩⟩

theorem mayOrder_iff (s : State) (i m : Nat) : s.MayOrder i m ↔ s.May i m ∧ fldGet (s.reg m) MBX_CTRL.req = 0 :=
  ⟨fun h => ⟨h.may, h.idle⟩, fun h => ⟨h.1, h.2⟩⟩

theorem holds_iff (s : State) (n : Nat) (w : Word) :
    s.Holds n w ↔ s.seqLive n = true ∧ (s.sq n).wait.kind = 0 ∧ s.wdogDue n = false ∧ s.yDue n = true ∧ s.progWord n (s.seqPc n) = w :=
  ⟨fun h => ⟨h.live, h.idle, h.wdog, h.due, h.word⟩, fun h => ⟨h.1, h.2.1, h.2.2.1, h.2.2.2.1, h.2.2.2.2⟩⟩

theorem issues_iff (s : State) (n : Nat) (w : Word) : s.Issues n w ↔ s.Holds n w ∧ s.seqPc n + 1 < s.progLen n :=
  ⟨fun h => ⟨h.holds, h.inside⟩, fun h => ⟨h.1, h.2⟩⟩

theorem waiting_iff (s : State) (n k : Nat) :
    s.Waiting n k ↔ s.seqLive n = true ∧ (s.sq n).wait.kind = k ∧ s.wdogDue n = false :=
  ⟨fun h => ⟨h.live, h.kind, h.wdog⟩, fun h => ⟨h.1, h.2.1, h.2.2⟩⟩

theorem inWindow_iff (s : State) (n a size : Nat) (store : Bool) :
    s.InWindow n a size store ↔ a % 4 = 0 ∧ s.f (SEQ_TWIN_LO.a n) SEQ_TWIN_LO.twin_lo ≤ a ∧
      a + size ≤ s.f (SEQ_TWIN_HI.a n) SEQ_TWIN_HI.twin_hi ∧ a + size ≤ 0x100000 ∧
      (store = true → s.on (SEQ_TWIN_LO.a n) SEQ_TWIN_LO.wr_en = true) :=
  ⟨fun h => ⟨h.aligned, h.low, h.high, h.top, h.rights⟩, fun h => ⟨h.1, h.2.1, h.2.2.1, h.2.2.2.1, h.2.2.2.2⟩⟩

theorem maySend_iff (s : State) (n : Nat) :
    s.MaySend n ↔ s.powered = true ∧ n ≠ 27 ∧ s.linkUp n = true ∧ s.portOn n = true ∧ (n < 24 → (s.port n).prbs = 0) ∧ s.mayTalk n = true :=
  ⟨fun h => ⟨h.powered, h.notLoop, h.link, h.on, h.noTest, h.talk⟩, fun h => ⟨h.1, h.2.1, h.2.2.1, h.2.2.2.1, h.2.2.2.2.1, h.2.2.2.2.2⟩⟩

theorem unbusy_iff (s : State) (n : Nat) :
    s.Unbusy n ↔ s.sending n = none ∧ s.suspended n = none ∧ (s.preActive n && s.on (SLU_GATE.a n) SLU_GATE.hold) = false :=
  ⟨fun h => ⟨h.free, h.noRest, h.noHold⟩, fun h => ⟨h.1, h.2.1, h.2.2⟩⟩

/-- A device that has booted, with an Installer on PCIe. -/
def host : State := { State.reset with sess := [(0, { role := 2 })], boot := { stage := 7 } }

/-- A device that has booted, with a Maker on PCIe. -/
def maker : State := { State.reset with sess := [(0, { role := 3 })], boot := { stage := 7 } }

/-- The register row at an address. -/
def rowFor (a : Nat) : RegRow := (rowAt a).getD { base := 0 }

/-- The state that a command leaves. -/
def after (c : Instr) (s : State) : State :=
  match exec c s with
  | .next t => t
  | _ => s
/-! ### Well-formed commands -/

theorem test_wellFormed_dmaError : (Instr.dmaError 2 4 true none).wellFormed = false ∧ (Instr.dmaError 2 3 true none).wellFormed = true := by decide
theorem test_wellFormed_chkpt :
    (Instr.chkptWrite true [] [] []).wellFormed = false ∧
    (Instr.chkptWrite true (List.replicate 81 0#64) (List.replicate 81 0#64) (List.replicate 80 0#64)).wellFormed = false ∧
    (Instr.chkptWrite true (List.replicate 81 0#64) (List.replicate 81 0#64) (List.replicate 81 0#64)).wellFormed = true := by decide +kernel
/-- A standard identifier has 11 bits, and a classical frame of DLC 1 carries one byte (13 R302). -/
theorem test_wellFormed_can :
    (Instr.canFrameReceived 0 0 false false false false 0x800#29 1#4 [0#8] 0 0 0 0 false 0).wellFormed = false ∧
    (Instr.canFrameReceived 0 0 false false false false 0x7ff#29 1#4 [0#8, 1#8] 0 0 0 0 false 0).wellFormed = false ∧
    (Instr.canFrameReceived 0 0 false false false false 0x7ff#29 1#4 [0#8] 0 0 0 0 false 0).wellFormed = true := by decide

/-! ### Words of the listing of chapter 05 -/

theorem test_word_tnext : decodeYufen 2 0xB8480000#32 = some (.iTnext 2 0 1 2) := by decide
theorem test_word_addi : decodeYufen 2 0x45C0C350#32 = some (.iAddi 2 7 0 0xC350#18) := by decide
theorem test_word_tmov : decodeYufen 2 0xAE000000#32 = some (.iTmov 2 2 0) := by decide
theorem test_word_post : decodeYufen 2 0xD60C0000#32 = some (.iPost 2 2 3) := by decide
/-- 05 R99: dir code 3 of APOST is reserved. -/
theorem test_word_reserved : decodeYufen 2 (yA 0x36 1 0 2 0 3) = none ∧ decodeYufen 2 (yA 0x36 1 0 2 0 2) = some (.iApost 2 1 2 0 2) := by decide

/-! ### Steps and registers (02) -/

theorem test_hyps_StepRunsTheFrontCommand : ({ host with pending := [.idcode, .bypass] } : State).pending = .idcode :: [.bypass] := rfl
theorem test_hyps_EmptyQueueTicks : host.pending = [] := rfl
theorem test_hyps_EveryStepKeepsInv : host.Inv ∧ step host = .next host.tick := by
  refine ⟨⟨(canonical_iff _).mpr (by decide +kernel), ?_, by unfold State.LifecycleOk; decide, ?_⟩, rfl⟩
  · intro c hc
    have h : host.pending = [] := rfl
    rw [h] at hc
    cases hc
  · unfold State.Numbered; decide
theorem test_hyps_EveryCommandKeeps : ∃ t : State, exec .idcode host = .next t := ⟨_, rfl⟩

/-- A plain register with stored fields and one without. -/
theorem test_hyps_RegisterWritesActByFieldType :
    (host.Canonical ∧ host.May 0 0x300004 ∧ kindOf 0x300004 = .reg (rowFor 0x300004) ∧
      (0x300004 % 4 == 0 && decide (0x300004 < 0x2000000) && 0x300004 != ROL_LC_REQ.a && 0x300004 != ROL_LC_REQ.a + 4 && !carrOnly 0x300004) = true ∧
      (!(rowFor 0x300004).guard && (rowFor 0x300004).base != SEQ_CTRL.a 0 && (rowFor 0x300004).base != POL_METER_CFG.a 0 0) = true ∧
      logged (rowFor 0x300004) = true ∧ host.rwMask (rowFor 0x300004) 0x300004 ≠ 0#32) ∧
    (host.May 0 0x100038 ∧ kindOf 0x100038 = .reg (rowFor 0x100038) ∧
      (!(rowFor 0x100038).guard && (rowFor 0x100038).base != SEQ_CTRL.a 0 && (rowFor 0x100038).base != POL_METER_CFG.a 0 0) = true ∧
      host.rwMask (rowFor 0x100038) 0x100038 = 0#32) := by
  simp only [canonical_iff, may_iff]; decide +kernel
theorem test_write_reads_back : (after (.registerWrite 0 0x300004 2 0x123456789 none) host).reg 0x300004 = 0x23456789#32 := by decide +kernel

/-- The event count of source 3 read, a word of TIM_SNAP read, a word of TIM_ADJ written. -/
theorem test_hyps_ReadsDeliverAndMailboxWordsAreStored :
    (host.Canonical ∧ host.powered = true ∧ host.mayRead 0 0x100038 = true ∧ kindOf 0x100038 = .reg (rowFor 0x100038) ∧ (rowFor 0x100038).base ≠ ETH_T1S_STAT.a 20) ∧
    (host.mayRead 0 0x20024c = true ∧ 0x20024c = mbxData 0x200200 11 ∧ kindOf 0x20024c = .mdata ⟨0x200200, 12, true⟩ 11) ∧
    (host.May 0 0x200324 ∧ 0x200324 = mbxData 0x200300 1 ∧ kindOf 0x200324 = .mdata ⟨0x200300, 4, false⟩ 1 ∧ carrOnly 0x200324 = false) := by
  simp only [canonical_iff, may_iff]; decide +kernel
theorem test_mailbox_word : (after (.mailboxDataWrite 0 0x200324 2 77) host).reg 0x200324 = 77#32 := by decide +kernel

/-- An unaligned, a narrow and an unmapped write, and one without a role. -/
theorem test_hyps_RejectedAccessesChangeNothingElse :
    host.Canonical ∧ host.powered = true ∧ (0x200082 % 2 ^ 2 ≠ 0 ∧ host.guardOf (blockOf 0x200082) = none ∧ guardBase (0x200082 / 4 * 4) = none) ∧
    (0x200082 % 2 ^ 1 = 0 ∧ 1 < 2) ∧ (kindOf 0x2fff00 = .none ∧ guardBase (0x2fff00 / 4 * 4) = none) ∧
    (kindOf 0x200080 = .reg (rowFor 0x200080) ∧ host.mayWrite 1 0x200080 (BitVec.ofNat 32 7) = false ∧ guardBase (0x200080 / 4 * 4) = none) := by
  simp only [canonical_iff]; decide +kernel
theorem test_unaligned_flag : fldGet ((after (.registerWrite 0 0x200082 2 0 none) host).reg (integAddr 3)) ⟨29, 29⟩ = 1 := by decide +kernel

/-- A guarded pair at EVT_SRC_CFG of source 3: opened, and pending up to and past its deadline. -/
def guarded (d now : Nat) : State := { host with guards := [(1, some ⟨0, 0x100030, 0x40000000#32, d⟩)], now := now }
theorem test_hyps_GuardedPairsCommitOrFail :
    (host.Canonical ∧ host.roleOf 0 = 2 ∧ kindOf 0x100030 = .reg (rowFor 0x100030) ∧ (rowFor 0x100030).guard = true ∧ kindOf 0x100034 = .comp (rowFor 0x100030) ∧
      carrOnly 0x100030 = false ∧ carrOnly 0x100034 = false ∧ host.guardOf (blockOf 0x100030) = none) ∧
    ((guarded 320 320).Canonical ∧ (guarded 320 320).powered = true ∧ (guarded 320 320).guardOf (blockOf 0x100030) = some ⟨0, 0x100030, 0x40000000#32, 320⟩) ∧
    ((guarded 320 321).Canonical ∧ (guarded 320 321).guardOf 1 = some ⟨0, 0x100030, 0x40000000#32, 320⟩ ∧ 320 < (guarded 320 321).now) := by
  simp only [canonical_iff]; decide +kernel
theorem test_guard_commit : (after (.guardCommit 0 0x100030 0xBFFFFFFF) (guarded 320 320)).reg 0x100030 = 0x40000000#32 := by decide +kernel
theorem test_guard_late : (after (.guardTimeout 1) (guarded 320 321)).guardOf 1 = none := by decide +kernel

/-- A plain parity fault in PHS_OFFSET and one in a triplicated field of EVT_SRC_CFG. -/
theorem test_hyps_ParityFaultsEnterSafeBehaviour :
    (host.Canonical ∧ host.powered = true ∧ kindOf 0x300004 = .reg (rowFor 0x300004) ∧ 0x1#32 &&& (rowFor 0x300004).par ≠ 0#32) ∧
    (kindOf 0x100030 = .reg (rowFor 0x100030) ∧ 0x40000000#32 &&& (rowFor 0x100030).par &&& (rowFor 0x100030).tri ≠ 0#32 ∧
      0x40000000#32 &&& (rowFor 0x100030).par &&& ~~~(rowFor 0x100030).tri = 0#32) := by
  simp only [canonical_iff]; decide +kernel

/-- Counts just below and at their end. -/
theorem test_hyps_CausesAddOneToTheirCount :
    (host.setF (EVT_SRC_STAT.a 3) EVT_SRC_STAT.count 0xfffe).Canonical ∧
    fldGet ((((host.setF (EVT_SRC_STAT.a 3) EVT_SRC_STAT.count 0xfffe).raise 3 1 0).raise 3 1 0).reg (EVT_SRC_STAT.a 3)) EVT_SRC_STAT.count = 0xffff := by
  simp only [canonical_iff]; decide +kernel

/-- An open storm window of source 3. -/
def storm (now : Nat) : State := { host with evt := [(3, { winOpen := true, winEnd := 2500, winCnt := 1 })], now := now }
theorem test_hyps_EventSourcesRecordClearAndCloseWindows :
    (host.Canonical ∧ host.powered = true ∧ host.guardOf 1 = none ∧ (host.roleOf 0 = 1 ∨ host.roleOf 0 = 2)) ∧ host.MayAsk 0 0x100500 ∧
    ((storm 2500).Canonical ∧ (storm 2500).powered = true ∧ ((storm 2500).evtSt 3).winOpen = true ∧ ((storm 2500).evtSt 3).winEnd ≤ (storm 2500).now) ∧
    ((storm 2499).Canonical ∧ ((storm 2499).evtSt 3).winOpen = true ∧ (storm 2499).now < ((storm 2499).evtSt 3).winEnd) := by
  simp only [canonical_iff, mayAsk_iff]; decide +kernel

/-! ### Roles (02) -/

def locked (now : Nat) : State := { host with lock := [(1, { fails := 4, locks := 1, locked := true, lockEnd := 100 })], now := now }
def challenged (now : Nat) : State :=
  { host with sess := [(0, { role := 2 }), (1, { reqRole := 1, chalRole := 1, chal := 7#128, chalValid := true, chalEnd := 100 })], now := now
              fuse := { operUsed := 1, operSecret := some 5#256 } }
/-- The same with a response in ROL_RESP. -/
def answered (r : List Byte) : State := (challenged 100).setWords rolResp 0 ((List.range 8).map (fun k => leNat (slice r (4 * k) 4)))

theorem leBytes_leNat : ∀ l : List Byte, leBytes l.length (leNat l) = l
  | [] => rfl
  | b :: r => by
    have h1 : BitVec.ofNat 8 (b.toNat + 256 * leNat r) = b := by
      apply BitVec.eq_of_toNat_eq
      have := b.isLt
      simp
      omega
    have h2 : (b.toNat + 256 * leNat r) / 256 = leNat r := by have := b.isLt; omega
    simp only [List.length_cons, leNat, leBytes, h1, h2, leBytes_leNat r]

theorem leNat_lt : ∀ l : List Byte, leNat l < 256 ^ l.length
  | [] => by simp [leNat]
  | b :: r => by
    have h := leNat_lt r
    have := b.isLt
    simp only [List.length_cons, leNat, pow_succ]; omega

theorem slices_flatten (r : List Byte) : ∀ n, 4 * n ≤ r.length → ((List.range n).map (fun k => slice r (4 * k) 4)).flatten = r.take (4 * n)
  | 0, _ => rfl
  | n + 1, h => by
    have h4 : slice r (4 * n) 4 = (r.drop (4 * n)).take 4 := by
      have : ((r.drop (4 * n)).take 4).length = 4 := by simp; omega
      simp only [slice, this, Nat.sub_self, List.replicate_zero, List.append_nil]
    rw [List.range_succ, List.map_append, List.flatten_append, slices_flatten r n (by omega), List.map_singleton, List.flatten_singleton, h4,
      show 4 * (n + 1) = 4 * n + 4 by omega, List.take_add]

/-- ROL_RESP holds the response that was written there. -/
theorem answered_respBytes (r : List Byte) (h : r.length = 32) : (answered r).respBytes = r := by
  have hw : ∀ k, k < 8 → leBytes 4 ((answered r).dw rolResp k) = slice r (4 * k) 4 := by
    intro k hk
    have hl : (slice r (4 * k) 4).length = 4 := by simp [slice]
    have h1 : (answered r).dw rolResp k = leNat (slice r (4 * k) 4) := by
      unfold State.dw answered
      have hq := State.reg_setWords (challenged 100) rolResp 0 k ((List.range 8).map (fun k => leNat (slice r (4 * k) 4))) rfl (by simp [hk])
      rw [Nat.zero_add] at hq
      have hb := leNat_lt (slice r (4 * k) 4)
      rw [hl] at hb
      rw [hq, BitVec.toNat_ofNat, List.getD_eq_getElem _ _ (by simp [hk]), List.getElem_map, List.getElem_range]
      exact Nat.mod_eq_of_lt hb
    have h2 := leBytes_leNat (slice r (4 * k) 4)
    rw [hl] at h2
    rw [h1, h2]
  have h3 : (answered r).respBytes = ((List.range 8).map (fun k => slice r (4 * k) 4)).flatten := by
    unfold State.respBytes
    congr 1
    exact List.map_congr_left (fun k hk => hw k (List.mem_range.mp hk))
  rw [h3, slices_flatten r 8 (by omega), List.take_of_length_le (by omega)]

theorem hmac_length (k m : List Byte) : (hmacSha256 k m).length = 32 := by simp [hmacSha256, sha256, beBytes, leBytes_length]

/-- The response that the challenge asks for, as ROL_RESP holds it; and another. -/
theorem test_hyps_response :
    hmacSha256 (beBytes 32 5) (respMsg 7#128 1 1) = (answered (hmacSha256 (beBytes 32 5) (respMsg 7#128 1 1))).respBytes ∧
    ∃ r, hmacSha256 (beBytes 32 5) (respMsg 7#128 1 1) ≠ (answered r).respBytes := by
  refine ⟨(answered_respBytes _ (hmac_length _ _)).symm, (hmacSha256 (beBytes 32 5) (respMsg 7#128 1 1)).map (fun b => b + 1#8), ?_⟩
  rw [answered_respBytes _ (by simp [hmac_length])]
  intro h
  have hl := hmac_length (beBytes 32 5) (respMsg 7#128 1 1)
  match hmacSha256 (beBytes 32 5) (respMsg 7#128 1 1), hl, h with
  | b :: r, _, h =>
    simp only [List.map_cons, List.cons.injEq] at h
    have h1 := congrArg BitVec.toNat h.1
    have := b.isLt
    rw [BitVec.toNat_add] at h1
    change b.toNat = (b.toNat + 1) % 256 at h1
    omega

theorem answered_same (r : List Byte) : answered r = { challenged 100 with regs := (answered r).regs } := State.setWords_same _ _ _ _
/-- Every other hypothesis of a response holds in both. -/
theorem test_hyps_answered (r : List Byte) :
    (answered r).Canonical ∧ (answered r).powered = true ∧ (answered r).guardOf 2 = none ∧ fldGet ((answered r).reg rolResp) MBX_CTRL.req = 0 ∧
    ((answered r).sessOf 1).chalValid = true ∧ (answered r).now ≤ ((answered r).sessOf 1).chalEnd ∧ ((answered r).sessOf 1).chalRole ≠ 0 ∧
    (answered r).secretOf ((answered r).sessOf 1).chalRole = some 5#256 := by
  have hn : ∀ a, a < rolResp + 0x20 ∨ rolResp + 0x40 ≤ a → (answered r).reg a = (challenged 100).reg a := by
    intro a ha
    refine State.reg_setWords_ne _ _ _ _ _ (fun j hj => ?_)
    simp at hj
    unfold mbxData
    omega
  refine ⟨?_, ?_, ?_, ?_, ?_, ?_, ?_, ?_⟩
  · have hc : (challenged 100).Canonical := (canonical_iff _).mpr (by decide +kernel)
    have hw := Cells.wf_regs_setWords (challenged 100) rolResp 0 ((List.range 8).map (fun k => leNat (slice r (4 * k) 4))) hc.regs
    rw [answered_same]
    exact { hc with regs := hw }
  · have h1 : (answered r).powered = (challenged 100).powered := by
      unfold State.powered State.clocked State.inReset State.inFen
      rw [hn _ (by decide), answered_same]
    rw [h1]; decide +kernel
  · have h1 : (answered r).guardOf 2 = (challenged 100).guardOf 2 := by unfold State.guardOf; rw [answered_same]
    rw [h1]; decide +kernel
  · rw [hn _ (by decide)]; decide +kernel
  all_goals
    have h1 : (answered r).sessOf 1 = (challenged 100).sessOf 1 := by unfold State.sessOf; rw [answered_same]
    rw [h1]
  · decide +kernel
  · have h2 : (answered r).now = (challenged 100).now := by rw [answered_same]
    rw [h2]; decide +kernel
  · decide +kernel
  · have h2 : (answered r).secretOf 1 = (challenged 100).secretOf 1 := by unfold State.secretOf; rw [answered_same]
    exact h2.trans (by decide +kernel)

theorem test_hyps_RolesAreEnteredByChallenge :
    (host.Canonical ∧ host.powered = true ∧ host.guardOf 2 = none ∧ fldGet (host.reg rolChal) MBX_CTRL.req = 0 ∧ (host.lockOf 1).locked = false) ∧
    ((locked 99).Canonical ∧ ((locked 99).lockOf 1).locked = true ∧ (locked 99).now < ((locked 99).lockOf 1).lockEnd) ∧
    ((locked 100).Canonical ∧ ((locked 100).lockOf 1).locked = true ∧ ((locked 100).lockOf 1).lockEnd ≤ (locked 100).now) ∧
    ((challenged 100).Canonical ∧ ((challenged 100).sessOf 1).chalValid = true ∧ (challenged 100).now ≤ ((challenged 100).sessOf 1).chalEnd ∧
      (challenged 100).guardOf 2 = none ∧ fldGet ((challenged 100).reg rolResp) MBX_CTRL.req = 0 ∧
      (challenged 100).secretOf ((challenged 100).sessOf 1).chalRole = some 5#256 ∧ ((challenged 100).sessOf 1).chalRole ≠ 0 ∧
      lcAllows (challenged 100).fuse.state ((challenged 100).sessOf 1).chalRole = true) ∧
    ((challenged 101).Canonical ∧ ((challenged 101).sessOf 1).chalEnd < (challenged 101).now) := by
  simp only [canonical_iff]; decide +kernel

theorem test_hyps_SecretsLifecycleAndAudit :
    (host.Canonical ∧ host.guardOf 2 = none ∧ host.MayOrder 0 rolResp ∧ host.fuse.instUsed < 4 ∧ host.fuse.operUsed < 8 ∧ host.MayAsk 0 rolAud) ∧
    (let s : State := { host with fuse := { instUsed := 4, operUsed := 8 } }; s.Canonical ∧ s.MayOrder 0 rolResp ∧ 4 ≤ s.fuse.instUsed ∧ 8 ≤ s.fuse.operUsed) ∧
    (maker.Canonical ∧ maker.powered = true ∧ maker.guardOf 2 = none ∧ maker.roleOf 0 = 3 ∧ maker.lcPath 3 = true ∧ maker.lcPath 1 = false) := by
  simp only [canonical_iff, mayAsk_iff, mayOrder_iff, may_iff]; decide +kernel
/-! ### Network time (03) -/

/-- Domain A enabled; TIM_ADJ holds an offset of 100 ns and a time below and at 10^9 ns. -/
def domA : State := (host.setF (TIM_DOM_CFG.a 0) TIM_DOM_CFG.enable 1).setF (TIM_DOM_STAT.a 0) TIM_DOM_STAT.lost 0
def domLostA : State := { (domA.setF (TIM_DOM_STAT.a 0) TIM_DOM_STAT.lost 1) with tim := { domA.tim with domA := { lostRaised := true } } }
theorem test_hyps_TimeAdjustmentsActOnTheirCounter :
    (domA.Canonical ∧ domA.MayOrder 0 timAdj ∧ domA.domOn 0 = true ∧ domA.dw timAdj 2 % 2 ^ 30 < 1000000000) ∧
    (let s := domA.setWords timAdj 0 [100, 0, 999999999, 0]; s.Canonical ∧ s.MayOrder 0 timAdj ∧ s.domOn 0 = true ∧ s.dw timAdj 2 % 2 ^ 30 < 1000000000) ∧
    (let s := domA.setWords timAdj 0 [0, 0, 1000000000, 0]; s.Canonical ∧ s.MayOrder 0 timAdj ∧ 1000000000 ≤ s.dw timAdj 2 % 2 ^ 30) ∧
    (let s := domA.setWords timAdj 0 [17179869, 4, 0, 0]; s.Canonical ∧ s.MayOrder 0 timAdj ∧ s.domOn 0 = true ∧
      1000 * (s.dw timAdj 1 % 16 * 4294967296 + s.dw timAdj 0) ≤ 4004 * 4294967296) ∧
    (let s := domA.setWords timAdj 0 [17179869, 4, 0, 0]; 3996 * 4294967296 ≤ 1000 * (s.dw timAdj 1 % 16 * 4294967296 + s.dw timAdj 0)) ∧
    (let s := domA.setWords timAdj 0 [0, 5, 0, 0]; s.Canonical ∧ s.MayOrder 0 timAdj ∧ 4004 * 4294967296 < 1000 * (s.dw timAdj 1 % 16 * 4294967296 + s.dw timAdj 0)) := by
  simp only [canonical_iff, mayOrder_iff, may_iff]; decide +kernel
theorem test_setTime : (after (.setTime 0 1) (domA.setWords timAdj 0 [7, 0, 999999999, 0])).tickTime.clock 1 = mkTime 7 999999999 0 := by decide +kernel

/-- WKT locked to domain A, or slewing to it; domain A with its kick expired. -/
def wktA (st : Nat) : State := domA.setFs TIM_WKT_STAT.a [(TIM_WKT_STAT.state, st), (TIM_WKT_STAT.src_valid, 1)]
def evalDue (s : State) : State := { s with tim := { s.tim with evalDue := true } }
/-- The source lost on this tick, and the other domain healthy, `sec` seconds away. -/
def twoDoms (sec : Nat) : State :=
  let s := (((wktA 1).setF (TIM_DOM_STAT.a 0) TIM_DOM_STAT.lost 1).setF (TIM_DOM_CFG.a 1) TIM_DOM_CFG.enable 1).setFs (TIM_DOM_STAT.a 1) [(TIM_DOM_STAT.lost, 0)]
  let u := s.setF TIM_WKT_CFG.a TIM_WKT_CFG.auto_switch 1
  { u with tim := { u.tim with evalDue := true, dtb := mkTime sec 0 0 } }
theorem test_hyps_DomainHealthMovesWorkingTime :
    (domA.Canonical ∧ domA.powered = true ∧ domA.May 0 (TIM_DOM_CTRL.a 0) ∧ domA.domOn 0 = true ∧ (domA.parOf (TIM_DOM_STAT.a 0)).bad = 0#32 ∧ domA.domHealthy 0 = true) ∧
    (domLostA.Canonical ∧ domLostA.powered = true ∧ domLostA.May 0 (TIM_DOM_CTRL.a 0) ∧ domLostA.domOn 0 = true ∧ (domLostA.parOf (TIM_DOM_STAT.a 0)).bad = 0#32 ∧
      domLostA.domHealthy 0 = false ∧ (domLostA.domSt 0).lostRaised = true) ∧
    ((wktA 1).Canonical ∧ (wktA 1).kickExpired 0 = true ∧ (wktA 1).domHealthy 0 = true ∧ (wktA 1).wktState = 1 ∧ (wktA 1).wktSrc = 0 ∧ (wktA 1).domHealthy (1 - 0) = false) ∧
    ((evalDue (wktA 1)).Canonical ∧ (evalDue (wktA 1)).wktState = 1 ∧ (evalDue (wktA 1)).wktNamed = some (evalDue (wktA 1)).wktSrc) ∧
    (let s := evalDue ((wktA 1).setF (TIM_DOM_STAT.a 0) TIM_DOM_STAT.lost 1)
     s.Canonical ∧ s.tim.evalDue = true ∧ s.wktState = 1 ∧ s.domHealthy 0 = false ∧ s.domHealthy 1 = false) ∧
    (let s := twoDoms 0; s.Canonical ∧ s.tim.evalDue = true ∧ s.wktState = 1 ∧ s.wktNamed = some 1 ∧ s.wktSrc = 0 ∧ s.errTooBig 1 = false) ∧
    (let s := twoDoms 9; s.Canonical ∧ s.wktState = 1 ∧ s.wktNamed = some 1 ∧ s.wktSrc = 0 ∧ s.errTooBig 1 = true) ∧
    (let s := (wktA 1).setF TIM_WKT_CTRL.a TIM_WKT_CTRL.align 1
     s.Canonical ∧ fldGet (s.reg TIM_WKT_CTRL.a) TIM_WKT_CTRL.align = 1 ∧ s.wktNamed = some 0 ∧ s.anyRunning = false) ∧
    (let s := host.setF TIM_WKT_CTRL.a TIM_WKT_CTRL.align 1
     s.Canonical ∧ fldGet (s.reg TIM_WKT_CTRL.a) TIM_WKT_CTRL.align = 1 ∧ s.wktNamed = none ∧ fldGet (host.reg TIM_WKT_CTRL.a) TIM_WKT_CTRL.align = 0) ∧
    ((wktA 2).Canonical ∧ (wktA 2).wktState = 2 ∧ ((wktA 2).wktErr (wktA 2).wktSrc).natAbs < (wktA 2).slew) ∧
    ((wktA 1).May 0 TIM_WKT_CTRL.a ∧ (wktA 1).wktNamed = some 0 ∧ (wktA 1).anyRunning = false) ∧
    (host.May 0 TIM_WKT_CTRL.a ∧ host.wktNamed = none) ∧ ((wktA 1).setF (SEQ_STAT.a 7) SEQ_STAT.state 2).anyRunning = true := by
  simp only [canonical_iff, may_iff]; and_intros <;> decide +kernel
theorem test_align : (after (.align 0) (wktA 3)).alignTick.wktState = 1 ∧ (after (.align 0) host).alignTick.wktState = 0 := by decide +kernel

/-- Timestamps in both FIFOs, a pulse due and up, TIME_PPS_IN enabled. -/
def stamped : State :=
  { (host.setF TIM_PPS_CFG.a TIM_PPS_CFG.in_en 1) with
    tim := { rxts := [⟨1, 0, 0, false, 0, true, 3, 5, 6⟩], txts := [⟨2, 1, 0, false, 0, true, 3, 5, 6⟩], ppsOut := true, ppsFall := 160, ppsDue := some 5 }, now := 10 }
/-- A second passed 5 units of 250 ps into tick 9, with the pulses enabled. -/
def ppsUp : State := stamped.setFs TIM_PPS_CFG.a [(TIM_PPS_CFG.out_en, 1), (TIM_PPS_CFG.width, 1000)]
theorem test_hyps_TimeReadsPulsesAndLinkDelay :
    (ppsUp.Canonical ∧ ppsUp.powered = true ∧ ppsUp.tim.ppsDue = some 5 ∧ ppsUp.ppsOn = true) ∧
    (host.Canonical ∧ host.powered = true ∧ host.MayAsk 0 0x200200 ∧ host.MayAsk 0 0x200400 ∧ host.tim.rxts = [] ∧ host.MayAsk 0 0x200500 ∧ host.tim.txts = []) ∧
    (stamped.Canonical ∧ stamped.powered = true ∧ stamped.MayAsk 0 0x200400 ∧ stamped.MayAsk 0 0x200500 ∧ stamped.tim.rxts = ⟨1, 0, 0, false, 0, true, 3, 5, 6⟩ :: [] ∧
      stamped.tim.txts = ⟨2, 1, 0, false, 0, true, 3, 5, 6⟩ :: [] ∧ stamped.on TIM_PPS_CFG.a TIM_PPS_CFG.in_en = true ∧ 100 ≤ (100#32).toNat) ∧
    (host.May 0 (TIM_PORT_LDLY_MEAS.a 23) ∧ host.May 0 (TIM_PORT_CFG.a 23)) := by
  simp only [canonical_iff, mayAsk_iff, may_iff]; decide +kernel
theorem test_pps_fall : (after .ppsOutFall stamped).tim.ppsOut = false ∧ (after .ppsOutFall { stamped with now := 9 }).tim.ppsOut = true ∧
    (after .ppsOutSecond ppsUp).out.head? = some (.edge "TIME_PPS_OUT" 0 true 149) := by decide +kernel

/-! ### Phase domains (04) -/

/-- Domain 1 in a state, from a source kind, at tick 1000. -/
def phase (st src : Nat) : State :=
  { ((host.setF (PHS_STAT.a 1) PHS_STAT.state st).setFs (PHS_CFG.a 1) [(PHS_CFG.enable, 1), (PHS_CFG.src, src)]) with now := 1000 }
def phaseX (st src : Nat) (x : PhSt) : State := { (phase st src) with phs := [(1, x)] }
theorem test_hyps_PhasePinsGiveObservations :
    ((phase 2 0).Canonical ∧ (phase 2 0).powered = true ∧ (∀ e, e < 4 → ((phase 2 0).phUses e 0 1 = true ↔ e = 1)) ∧
      edgeSel ((phase 2 0).f (PHS_CFG.a 1) PHS_CFG.edge_sel) true = true ∧ (phase 2 0).f (PHS_CFG.a 1) PHS_CFG.flt_len + 1 ≤ (0x100#16).toNat ∧
      (phase 2 0).f (PHS_CFG.a 1) PHS_CFG.flt_len ≤ (0x100#16).toNat ∧ ((phase 2 0).ph 1).levA ≠ true ∧ ((phase 2 0).ph 1).zAt ≠ some 0 ∧ ((phase 2 0).ph 1).lastEdge = none ∧ ((phase 2 0).ph 1).queue.length < 2) ∧
    (let s := phaseX 2 0 { lastEdge := some ((1000 * 17179869184 : Nat) : Int) }
     s.Canonical ∧ (∀ e, e < 4 → (s.phUses e 0 1 = true ↔ e = 1)) ∧ (s.ph 1).lastEdge = some ((1000 * 17179869184 : Nat) : Int) ∧
      ((((4 * s.now / 5 : Nat) : Int) - ((0x100#16).toNat : Int)) * ((5 * 4294967296 : Nat) : Int) - ((1000 * 17179869184 : Nat) : Int)) * (s.f (PHS_LIM.a 1) PHS_LIM.vel_max * s.phN 1 : Nat) < 4294967296 * (4 * 4294967296)) ∧
    ((phase 2 1).Canonical ∧ (∀ e, e < 4 → ((phase 2 1).phUses e 1 1 = true ↔ e = 1)) ∧ ((phase 2 1).ph 1).queue.length < 2 ∧
      ((phase 2 1).ph 1).levA = false ∧ ((phase 2 1).ph 1).levB ≠ true ∧ ((phase 2 1).ph 1).levA ≠ true ∧
      (((phase 2 1).ph 1).quadErr.filter (fun t => decide ((phase 2 1).now < t + 250000))).length < 7) ∧ host.MayAsk 0 0x300400 := by
  simp only [canonical_iff, mayAsk_iff]; decide +kernel
theorem test_quad_counts : ((after (.quadTransition 1 true false false 0x100 0x100) (phase 2 1)).ph 1).count = 0 + (phase 2 1).f (PHS_TPC.a 1) PHS_TPC.tu_per_count := by decide +kernel

/-- An observation of a kind that waits since tick 0. -/
def waits (st src kind : Nat) (x : PhSt) : State := phaseX st src { x with queue := [⟨kind, 0x80000000, 0, 0, true, false, false, 0⟩] }
theorem test_hyps_PhaseDomainsChangeStateAndSteer :
    (host.Canonical ∧ host.May 0 (PHS_CFG.a 1) ∧ fldGet 0x80000000#32 PHS_CFG.enable = 1 ∧ fldGet 0x80000000#32 PHS_CFG.src ≠ 3 ∧ host.phState 1 = 0 ∧ host.May 0 (PHS_CTRL.a 1)) ∧
    (∀ st, st < 5 → (phase st 0).Canonical ∧ (phase st 0).May 0 (PHS_CFG.a 1) ∧ (phase st 0).May 0 (PHS_CTRL.a 1) ∧ (phase st 0).phState 1 = st) ∧
    ((waits 2 2 2 {}).Canonical ∧ (waits 2 2 2 {}).obsDue 1 = true ∧ ((waits 2 2 2 {}).ph 1).queue = [⟨2, 0x80000000, 0, 0, true, false, false, 0⟩] ∧ host.obsDue 1 = false) ∧
    (∀ st, st = 1 ∨ st = 4 ∨ st = 2 → st < 5 → (waits st 1 1 {}).Canonical ∧ (waits st 1 1 {}).obsDue 1 = true ∧ (waits st 1 1 {}).phState 1 = st ∧
      ((waits st 1 1 {}).ph 1).acqN = 0 ∧ (waits st 1 1 {}).on (PHS_STAT.a 1) PHS_STAT.standstill = false ∧ ((waits st 1 1 {}).ph 1).reest ≠ 1 ∧ (waits st 1 1 {}).phSrc 1 = 1) ∧
    (∀ st, st = 1 ∨ st = 2 → st < 5 → let s := { phase st 0 with now := 30000000 }; s.Canonical ∧ s.obsSilent 1 = true ∧ s.phState 1 = st ∧ s.phSrc 1 ≠ 1) ∧
    (let s := { phase 2 1 with now := 30000000 }; s.obsSilent 1 = true ∧ s.phState 1 = 2 ∧ s.phSrc 1 = 1 ∧ s.on (PHS_STAT.a 1) PHS_STAT.standstill = false) ∧
    (let s := { phase 3 0 with now := 250000 * (phase 3 0).f (PHS_TIMING.a 1) PHS_TIMING.hold_time }
     s.Canonical ∧ s.phState 1 = 3 ∧ (s.ph 1).holdSince + 250000 * s.f (PHS_TIMING.a 1) PHS_TIMING.hold_time ≤ s.now ∧ s.obsDue 1 = false) ∧
    (let s := { waits 3 2 2 {} with now := 250000 * (phase 3 0).f (PHS_TIMING.a 1) PHS_TIMING.hold_time }; s.phState 1 = 3 ∧ s.obsDue 1 = true) ∧
    (phase 3 0).obsSilent 1 = false ∧ (phase 3 0).now < ((phase 3 0).ph 1).holdSince + 250000 * (phase 3 0).f (PHS_TIMING.a 1) PHS_TIMING.hold_time := by
  simp only [canonical_iff, may_iff]
  refine ⟨by decide +kernel, by decide +kernel, by decide +kernel, ?_, ?_, by decide +kernel, by decide +kernel, by decide +kernel, by decide +kernel, by decide +kernel⟩
  · rintro st (rfl | rfl | rfl) - <;> decide +kernel
  · rintro st (rfl | rfl) - <;> decide +kernel
/-- In HOLD, an edge that is due and accepted on the tick of hold_time's end brings the domain back to TRACK. -/
def holdEdge : State :=
  let s := phaseX 3 1 { queue := [⟨1, 0, (1000 * 17179869184 : Nat), 0, false, false, false, 0⟩], prevObs := some 0, hadLoss := false }
  (s.setF (PHS_TIMING.a 1) PHS_TIMING.hold_time 0)
theorem test_hold_returns : holdEdge.phState 1 = 3 ∧ holdEdge.obsDue 1 = true ∧ (holdEdge.ph 1).holdSince + 250000 * holdEdge.f (PHS_TIMING.a 1) PHS_TIMING.hold_time ≤ holdEdge.now ∧
    (holdEdge.obsApply 1).phState 1 = 2 := by decide +kernel

/-! ### The sequencers (05, 06) -/

/-- Registers 1 to 4 of a running sequencer. -/
def seqRegs : SeqSt := { g := (((Vector.replicate 16 0#32).set 1 5#32).set 2 0xFFFFFFFB#32).set 3 64#32, wperiod := 10 }

/-- The registers of sequencer 0 in a state, at word 1 of a program of 4 words, with a table window of 0x40 to 0x100. -/
def seqBase (st kind : Nat) : State :=
  (((host.setFs (SEQ_STAT.a 0) [(SEQ_STAT.state, st), (SEQ_STAT.pc, 1), (SEQ_STAT.wait, kind)]).setF (SEQ_PROG.a 0) SEQ_PROG.length 4).setFs (SEQ_TWIN_LO.a 0)
    [(SEQ_TWIN_LO.twin_lo, 0x40), (SEQ_TWIN_LO.wr_en, 1)]).setF (SEQ_TWIN_HI.a 0) SEQ_TWIN_HI.twin_hi 0x100

/-- Sequencer 0 in a state, with `w` at its pc. -/
def seqAt (st : Nat) (x : SeqSt) (w : Word) : State :=
  { seqBase st x.wait.kind with seq := [(0, x)], win := memPut (fun _ => 0#8) [] (progAddr 0 1) (leBytes 4 w.toNat) }
def runs (w : Word) : State := seqAt 1 seqRegs w

theorem seqBase_pc : (seqBase 1 0).seqPc 0 = 1 := by decide +kernel
theorem seqBase_live : (seqBase 1 0).seqLive 0 = true := by decide +kernel
theorem seqBase_len : (seqBase 1 0).progLen 0 = 4 := by decide +kernel

/-- Sequencer 0 issues the word at its pc, whatever the word. -/
theorem seqAt_issues (x : SeqSt) (hk : x.wait.kind = 0) (hc : x.cyc = 0) (hs : x.start = 0)
    (hd : decide (usTicks x.wperiod ≤ x.wdog) = false) (w : Word) : (seqAt 1 x w).Issues 0 w := by
  have he : seqAt 1 x w = { seqBase 1 0 with seq := [(0, x)], win := memPut (fun _ => 0#8) [] (progAddr 0 1) (leBytes 4 w.toNat) } := by unfold seqAt; rw [hk]
  have hpc : (seqAt 1 x w).seqPc 0 = 1 := by rw [he]; exact seqBase_pc
  refine (issues_iff _ _ _).2 ⟨(holds_iff _ _ _).2 ⟨by rw [he]; exact seqBase_live, hk, ?_, ?_, ?_⟩, ?_⟩
  · unfold State.wdogDue
    rw [show (seqAt 1 x w).sq 0 = x from rfl, hd, Bool.and_false]
  · unfold State.yDue State.yCycle
    simp only [show (seqAt 1 x w).sq 0 = x from rfl, show (seqAt 1 x w).now = 0 by rw [he]; rfl, hc, hs]; rfl
  · rw [hpc]
    have h := memGet_memPut (Cells.wf_nil (fun _ => 0#8)) (progAddr 0 1) 4 w.toNat
    show BitVec.ofNat 32 (memGet (fun _ => 0#8) (memPut (fun _ => 0#8) [] (progAddr 0 1) (leBytes 4 w.toNat)) (progAddr 0 1) 4) = w
    rw [h]
    apply BitVec.eq_of_toNat_eq
    have := w.isLt
    rw [BitVec.toNat_ofNat]; omega
  · rw [hpc, he]
    exact lt_of_lt_of_eq (by decide : 1 + 1 < 4) seqBase_len.symm
theorem seqAt_canonical (x : SeqSt) (h : (seqAt 1 x 0).Canonical) (w : Word) : (seqAt 1 x w).Canonical :=
  { h with win := memPut_wf (Cells.wf_nil _) _ _ }
theorem runs_ok (w : Word) : (runs w).Canonical ∧ (runs w).Issues 0 w :=
  ⟨seqAt_canonical _ ((canonical_iff _).2 (by decide +kernel)) w, seqAt_issues _ rfl rfl rfl (by decide) w⟩

/-- Every word issues (`runs_ok`); the rest of the hypotheses on its operands. -/
theorem test_hyps_YufenComputesItsResults :
    (∀ w, (runs w).Canonical ∧ (runs w).Issues 0 w ∧ (runs w).Holds 0 w) ∧
    (1000000000 ≤ ((runs 0).gr 0 2).toNat % 2 ^ 30 ∧ (runs 0).f (SEQ_WDOG.a 0) SEQ_WDOG.trap_action = 0 ∧ ((runs 0).gr 0 1).toNat % 2 ^ 30 < 1000000000 ∧ (runs 0).gr 0 1 ≠ 0#32 ∧ (runs 0).gr 0 4 = 0#32) :=
  ⟨fun w => ⟨(runs_ok w).1, (runs_ok w).2, (runs_ok w).2.holds⟩, by decide +kernel⟩
theorem test_add : (after (.iAdd 0 4 1 2) (runs (yR 0x08 4 1 2))).gr 0 4 = 0#32 := by decide +kernel
theorem test_sra_g0 : (after (.iSra 0 0 1 2) (runs (yR 0x0F 0 1 2))).gr 0 0 = 0#32 ∧ (after (.iSra 0 0 1 2) (runs (yR 0x0F 0 1 2))).seqPc 0 = 2 := by decide +kernel

/-- A time in table memory whose nanoseconds are 10^9. -/
def badNs : State := (runs (yV 0x1B 1 3 0)).setTblW 0x48 1000000000

/-- Table accesses at the first and the last word of the window, and one word before it. -/
theorem test_hyps_YufenMemoryAndFlow :
    (∀ w, (runs w).Canonical ∧ (runs w).Issues 0 w ∧ (runs w).Holds 0 w) ∧
    ((runs 0).InWindow 0 0x40 4 false ∧ (runs 0).InWindow 0 0xFC 4 true ∧ (runs 0).InWindow 0 0x40 12 false ∧ (runs 0).InWindow 0 0xF4 12 true ∧
      ((runs 0).gr 0 3 + (0xBC#18).signExtend 32).toNat = 0xFC ∧ ((runs 0).gr 0 3 + (0x3ffff#18).signExtend 32).toNat % 4 ≠ 0 ∧
      ((runs 0).gr 0 3 + (0x3fffc#18).signExtend 32).toNat < (runs 0).f (SEQ_TWIN_LO.a 0) SEQ_TWIN_LO.twin_lo ∧
      (runs 0).f (SEQ_TWIN_HI.a 0) SEQ_TWIN_HI.twin_hi < ((runs 0).gr 0 3 + (0xC0#18).signExtend 32).toNat + 4) ∧
    ((runs 0).tblW (0x40 + 8) % 2 ^ 30 < 1000000000 ∧ badNs.Canonical ∧ badNs.Issues 0 (yV 0x1B 1 3 0) ∧ 1000000000 ≤ badNs.tblW (0x40 + 8) % 2 ^ 30) ∧
    ((runs 0).gr 0 1 ≠ (runs 0).gr 0 2 ∧ ((runs 0).gr 0 2).toInt < ((runs 0).gr 0 1).toInt ∧ ((runs 0).gr 0 1).toNat < ((runs 0).gr 0 2).toNat ∧ (runs 0).seqPc 0 + 1 < (runs 0).progLen 0 ∧
      ((runs 0).seqPc 0 : Int) + (2#18).toInt < (runs 0).progLen 0 ∧ ¬(((runs 0).seqPc 0 : Int) + (3#18).toInt < (runs 0).progLen 0) ∧ 0 ≤ ((runs 0).seqPc 0 : Int) + (0x3fffff#22).toInt ∧
      ¬(0 ≤ ((runs 0).seqPc 0 : Int) + (0x3fffe#18).toInt) ∧ ((runs 0).gr 0 0 + (3#18).signExtend 32).toNat < (runs 0).progLen 0) := by
  refine ⟨fun w => ⟨(runs_ok w).1, (runs_ok w).2, (runs_ok w).2.holds⟩, ?_⟩
  simp only [canonical_iff, issues_iff, holds_iff, inWindow_iff]; and_intros <;> decide +kernel
theorem test_ld_last_word : (after (.iLd 0 4 3 0xBC) (runs (yI 0x19 4 3 0xBC))).seqPc 0 = 2 ∧ (after (.iLd 0 4 3 0xC0) (runs (yI 0x19 4 3 0xC0))).seqState 0 = 4 := by decide +kernel
theorem test_branch_edges : (after (.iBne 0 1 2 2) (runs (yI 0x21 1 2 2))).seqPc 0 = 3 ∧ (after (.iBne 0 1 2 3) (runs (yI 0x21 1 2 3))).seqState 0 = 4 := by decide +kernel

/-- An EVENT action, and register 4 with it; a queue that holds 255 or 256 entries; a held gateway message. -/
def tEntry (post : Nat) : TEnt := ⟨0x70000001#32, 0, post, 0, false, none⟩
def postSeq (n : Nat) (g : Word) : SeqSt := { seqRegs with g := seqRegs.g.set 4 g, tq := (List.range n).map tEntry, post := n }
theorem postSeq_wdog (n : Nat) (g : Word) : decide (usTicks (postSeq n g).wperiod ≤ (postSeq n g).wdog) = false := by simp only [postSeq, seqRegs, usTicks]; rfl
def gwMsg : GwMsg := ⟨5, 1, 1, 1, 2, 0x123, 0⟩
def gwSeq (w : Word) (bus : Nat) : State :=
  { seqAt 1 { seqRegs with g := (seqRegs.g.set 4 0x11000005#32).set 5 (BitVec.ofNat 32 (2 ^ 28 + bus * 2 ^ 23)) } w with
    msgs := [gwMsg], held := [(0, [5])], inq := [(0, [0x11000006])] }
theorem test_hyps_YufenPostsControlAndGateway :
    (actionOk 0x70000001 = true ∧ actionOk 0 = false ∧ ∀ n ∈ [0, 255, 256], (∀ w, (seqAt 1 (postSeq n 0x70000001) w).Canonical ∧ (seqAt 1 (postSeq n 0x70000001) w).Issues 0 w) ∧
      ((seqAt 1 (postSeq n 0x70000001) 0).sq 0).used = n ∧ (seqAt 1 (postSeq n 0x70000001) 0).gr 0 4 = 0x70000001#32 ∧ (seqAt 1 (postSeq n 0x70000001) 0).f (SEQ_WDOG.a 0) SEQ_WDOG.trap_action = 0) ∧
    (∀ w, (runs w).Canonical ∧ (runs w).Holds 0 w) ∧ decodeYufen 0 0#32 = none ∧
    (let s := (seqAt 1 { seqRegs with wdog := 2500 } 0).setF (SEQ_WDOG.a 0) SEQ_WDOG.wdog_en 1; s.seqLive 0 = true ∧ (s.sq 0).wait.kind = 0 ∧ s.yDue 0 = true ∧ s.wdogDue 0 = true) ∧
    (∀ w, (gwSeq w 2).Canonical ∧ (gwSeq w 2).Issues 0 w) ∧
    (gwSeq 0 2).gwHeld 0 ((gwSeq 0 2).gr 0 4).toNat = some gwMsg ∧ routeOk ((gwSeq 0 2).gr 0 5).toNat = true ∧ nbits ((gwSeq 0 2).gr 0 5).toNat 31 28 = 1 ∧
    (gwSeq 0 2).gwHeld 0 ((gwSeq 0 2).gr 0 1).toNat = none ∧
    ((gwSeq 0 2).gtxCan 2 gwMsg).2 ≠ none ∧ ((((gwSeq 0 2).setF (CAN_CFG.a 2) CAN_CFG.en 1).setF (CAN_STAT.a 2) CAN_STAT.state 0).gtxCan 2 gwMsg).2 = none := by
  have hp : ∀ n ∈ [0, 255, 256], (seqAt 1 (postSeq n 0x70000001) 0).Canonical := by simp only [canonical_iff]; decide +kernel
  have hg : (gwSeq 0 2).Canonical := (canonical_iff _).2 (by decide +kernel)
  refine ⟨⟨by decide +kernel, by decide +kernel, fun n hn => ⟨fun w => ⟨seqAt_canonical _ (hp n hn) w, seqAt_issues _ rfl rfl rfl (postSeq_wdog n _) w⟩, ?_⟩⟩,
    fun w => ⟨(runs_ok w).1, (runs_ok w).2.holds⟩, by decide +kernel, by decide +kernel, fun w => ⟨{ hg with win := memPut_wf (Cells.wf_nil _) _ _ }, ?_⟩, ?_⟩
  · revert n; decide +kernel
  · have h := seqAt_issues { seqRegs with g := (seqRegs.g.set 4 0x11000005#32).set 5 (BitVec.ofNat 32 (2 ^ 28 + 2 * 2 ^ 23)) } rfl rfl rfl (by decide) w
    exact ⟨⟨h.holds.live, h.holds.idle, h.holds.wdog, h.holds.due, h.holds.word⟩, h.inside⟩
  · and_intros <;> decide +kernel
theorem test_gtx : ((after (.iGtx 0 4 5) ((gwSeq (yR 0x3C 0 4 5) 2).setF (CAN_CFG.a 2) CAN_CFG.en 1)).canSt 2).gwq = [5] := by decide +kernel

/-- Time register 1 after the present WKT. -/
def laterRegs : SeqSt := { seqRegs with t := seqRegs.t.set 1 1000000#96 }

/-- A wait of a kind, with its target before or after the present WKT, and domain 3 in a state. -/
def waiting (k tt dom st : Nat) : State :=
  (seqAt 1 { seqRegs with wait := { kind := k, tt := tt, dom := dom, off := -1, reg := 2 ^ 31 } } 0).setF (PHS_STAT.a 3) PHS_STAT.state st
/-- The same with domain 3 past its angle on tick 1. -/
def crossed : State := { waiting 2 1 3 2 with now := 1, phs := [(3, { hatPrev := 0x7ffffff0, hat := 0x80000000 })] }
theorem test_hyps_YufenWaitsBeginAndEnd :
    (∀ w, ((runs w).Canonical ∧ (runs w).Issues 0 w ∧ (runs w).Holds 0 w) ∧ (seqAt 1 laterRegs w).Canonical ∧ (seqAt 1 laterRegs w).Issues 0 w) ∧
    (tClock ((runs 0).tr 0 1) ≤ (runs 0).tim.wkt ∧ (seqAt 1 laterRegs 0).tim.wkt < tClock ((seqAt 1 laterRegs 0).tr 0 1)) ∧
    ((runs 0).phState 3 = 0 ∧ ((runs 0).setF (PHS_STAT.a 3) PHS_STAT.state 2).phState 3 = 2 ∧ 0 ≤ ((runs 0).seqPc 0 : Int) + (0x3ffff#18).toInt) ∧
    (condOk ((runs 0).gr 0 4).toNat = true ∧ condOk ((runs 0).gr 0 2).toNat = false ∧ (runs 0).yConds 0 0 = 0 ∧ condOk (2 ^ 31) = true ∧ { runs 0 with inq := [(0, [1])] }.yConds 0 (2 ^ 31) ≠ 0) ∧
    (∀ k ∈ [1, 2, 3], ∀ tt ∈ [0, 1], ∀ st ∈ [0, 2, 3], let s := waiting k tt 3 st; s.Canonical ∧ s.Waiting 0 k ∧ s.seqPc 0 + 1 < s.progLen 0 ∧ 0 ≤ (s.seqPc 0 : Int) + (s.sq 0).wait.off ∧
      (tt = 0 ↔ (s.sq 0).wait.tt ≤ s.tim.wkt) ∧ s.phState 3 = st ∧ s.crosses 3 0 (2 ^ 31) 0 = false ∧ s.yConds 0 (s.sq 0).wait.reg = 0) ∧
    (crossed.Canonical ∧ crossed.Waiting 0 2 ∧ crossed.phState 3 = 2 ∧ crossed.crosses 3 0 (2 ^ 31) 0 = true) ∧
    (let s : State := { waiting 2 0 3 0 with now := 1 }; s.Waiting 0 2 ∧ (s.sq 0).wait.since < s.now ∧ s.phState 3 = 0) ∧
    (let s : State := { waiting 2 0 3 2 with now := 1 }; s.Waiting 0 2 ∧ s.crosses 3 0 (2 ^ 31) 0 = false ∧ (s.sq 0).wait.since < s.now ∧ (s.sq 0).wait.tt ≤ s.tim.wkt) ∧
    { waiting 3 0 3 0 with inq := [(0, [1])] }.yConds 0 (2 ^ 31) ≠ 0 := by
  refine ⟨fun w => ⟨⟨(runs_ok w).1, (runs_ok w).2, (runs_ok w).2.holds⟩, seqAt_canonical _ ((canonical_iff _).2 (by decide +kernel)) w, seqAt_issues _ rfl rfl rfl (by decide) w⟩, ?_⟩
  simp only [canonical_iff, waiting_iff]; and_intros <;> decide +kernel
theorem test_waitt_ends : (after (.waittDone 0) (waiting 1 0 3 0)).seqPc 0 = 2 ∧ ((after (.waittDone 0) (waiting 1 1 3 0)).sq 0).wait.kind = 1 := by decide +kernel

theorem test_hyps_SequencersMoveBetweenStates :
    (∀ st, st < 5 → (seqAt st seqRegs (yR 0x08 4 1 2)).Canonical ∧ (seqAt st seqRegs (yR 0x08 4 1 2)).May 0 (SEQ_CTRL.a 0) ∧ (seqAt st seqRegs (yR 0x08 4 1 2)).seqState 0 = st ∧
      (seqAt st seqRegs (yR 0x08 4 1 2)).seqPc 0 + 1 < (seqAt st seqRegs (yR 0x08 4 1 2)).progLen 0 ∧ (seqAt st seqRegs (yR 0x08 4 1 2)).progWord 0 ((seqAt st seqRegs (yR 0x08 4 1 2)).seqPc 0) = yR 0x08 4 1 2) ∧
    (seqAt 0 seqRegs 0).startReason 0 = some 4 ∧ ((seqAt 0 seqRegs 0).setF TIM_WKT_STAT.a TIM_WKT_STAT.state 1).startReason 0 = none ∧ (seqAt 1 seqRegs 0).startReason 0 = some 1 ∧
    decodeYufen 0 ((seqAt 2 seqRegs 0).progWord 0 ((seqAt 2 seqRegs 0).seqPc 0)) = none ∧ (seqAt 2 seqRegs 0).f (SEQ_WDOG.a 0) SEQ_WDOG.trap_action = 0 ∧
    (host.powered = true ∧ host.roleOf 0 = 2 ∧ (0xFFFFC#20).toNat % 4 = 0 ∧ (0xFFFF8#20).toNat % 8 = 0) := by
  simp only [canonical_iff, may_iff]; decide +kernel
theorem test_step : (after (.seqStep 0 0) (seqAt 2 seqRegs (yR 0x08 4 1 2))).seqState 0 = 2 ∧ (after (.seqStep 0 0) (seqAt 2 seqRegs (yR 0x08 4 1 2))).seqPc 0 = 2 := by decide +kernel

/-- SEQ_HPOST and SEQ_ACT hold a request; activation set 15 in a state. -/
def hpost (w ns n : Nat) : State := { (seqAt 0 (postSeq n 0) 0) with regs := ((seqAt 0 (postSeq n 0) 0).setWords seqHpost 0 [w, 0, 0, ns]).regs }
def actMbx (st n w : Nat) : State :=
  { ((host.setFs (SEQ_ACT_STAT.a 15) [(SEQ_ACT_STAT.state, st)]).setWords seqActMbx 0 [w, 1]) with acts := [(15, { writes := List.replicate n (0x300004, 1#32), ctrl := 1#32 })] }
/-- A due time entry and an angle entry that is crossed. -/
def dueT (w : Word) : State := { seqAt 1 { tq := [⟨w, 0, 0, 0, false, some (0, 0)⟩] } 0 with sync := [(3, ⟨false, some 16⟩)] }
def dueA (w : Word) : State :=
  { (seqAt 1 { aq := [⟨w, 3, 0, 0x80000000, 0, 0⟩] } 0).setF (PHS_STAT.a 3) PHS_STAT.state 2 with now := 1, phs := [(3, { hatPrev := 0x7ffffff0, hat := 0x80000000 })], sync := [(3, ⟨true, some 16⟩)] }
theorem test_hyps_QueuesFireAndAreInspected :
    (∀ n ∈ [0, 255, 256], (hpost 0x70000001 999999999 n).Canonical ∧ (hpost 0x70000001 999999999 n).MayOrder 0 seqHpost ∧ actionOk ((hpost 0x70000001 999999999 n).dw seqHpost 0) = true ∧
      (hpost 0x70000001 999999999 n).dw seqHpost 3 % 2 ^ 30 < 1000000000 ∧ ((hpost 0x70000001 999999999 n).sq 0).used = n) ∧
    ((hpost 0 0 0).MayOrder 0 seqHpost ∧ actionOk ((hpost 0 0 0).dw seqHpost 0) = false) ∧
    (∀ st ∈ [0, 1, 2, 3], ∀ n ∈ [0, 31], (actMbx st n 0x300004).Canonical ∧ (actMbx st n 0x300004).MayOrder 0 seqActMbx ∧ (actMbx st n 0x300004).actState 15 = st ∧
      ((actMbx st n 0x300004).actSet 15).writes.length = n ∧ actAddrOk ((actMbx st n 0x300004).dw seqActMbx 0) = true) ∧
    ((actMbx 1 1 0x102).MayOrder 0 seqActMbx ∧ nbits ((actMbx 1 1 0x102).dw seqActMbx 0) 15 8 &&& nbits ((actMbx 1 1 0x102).dw seqActMbx 0) 7 0 = 0 ∧ (actMbx 1 1 0x102).dw seqActMbx 0 < 2 ^ 18) ∧
    ((hpost 0 0 2).MayAsk 0 seqQinsp ∧ (((hpost 0 0 2).sq 0).tq.map TEnt.words ++ ((hpost 0 0 2).sq 0).aq.map AEnt.words)[1]? = some (tEntry 1).words ∧ ((hpost 0 0 2).sq 0).used ≤ 2) ∧
    (∀ st ∈ [2, 3, 4], (seqAt st seqRegs 0).MayAsk 0 seqDbg ∧ (seqAt st seqRegs 0).seqState 0 ≠ 0 ∧ (seqAt st seqRegs 0).seqState 0 ≠ 1) ∧
    ((dueT 0x70000001).Canonical ∧ (dueT 0x70000001).powered = true ∧ (dueT 0x70000001).phsDue.nextDue = some (0, .inl ⟨0x70000001, 0, 0, 0, false, some (0, 0)⟩)) ∧
    (dueT 0x60000000).phsDue.nextDue = some (0, .inl ⟨0x60000000, 0, 0, 0, false, some (0, 0)⟩) ∧ (0x60000000#32).toNat / 2 ^ 28 = 6 ∧
    ((dueT 0x33400000).Canonical ∧ (dueT 0x33400000).powered = true ∧ (dueT 0x33400000).phsDue.nextDue = some (0, .inl ⟨0x33400000, 0, 0, 0, false, some (0, 0)⟩)) ∧
    ((dueA 0x70000001).Canonical ∧ (dueA 0x70000001).phsDue.nextDue = some (0, .inr ⟨0x70000001, 3, 0, 0x80000000, 0, 0⟩)) ∧
    ((dueA 0x33800000).Canonical ∧ (dueA 0x33800000).phsDue.nextDue = some (0, .inr ⟨0x33800000, 3, 0, 0x80000000, 0, 0⟩)) ∧
    (nbits (0x33400000#32).toNat 23 22 = 1 ∧ nbits (0x33800000#32).toNat 23 22 = 2 ∧ (0x33800000#32).toNat / 2 ^ 28 = 3 ∧ (0x70000001#32).toNat / 2 ^ 28 = 7) ∧
    (host.phsDue.nextDue = none ∧ (∀ d, d < 4 → host.obsDue d = false) ∧ ((dueA 0).pin 3).fall = some 16 ∧ 16 ≤ 16 * (dueA 0).now ∧ (host.pin 3).fall = none) ∧
    (let s := (seqAt 1 { seqRegs with wdog := 2500 } 0).setF (SEQ_WDOG.a 0) SEQ_WDOG.wdog_en 1; s.Canonical ∧ s.powered = true ∧ s.wdogDue 0 = true) ∧
    ((seqAt 1 { seqRegs with wdog := 2499 } 0).setF (SEQ_WDOG.a 0) SEQ_WDOG.wdog_en 1).wdogDue 0 = false := by
  simp only [canonical_iff, mayAsk_iff, mayOrder_iff, may_iff]; and_intros <;> decide +kernel
theorem test_set_high : (after (.timeActionFire 0 []) (dueT 0x33400000)).pin 3 = ⟨true, none⟩ := by decide +kernel

/-! ### Classification (07) and the switch core (09, 10) -/

/-- Pipeline 0 with the shadow bank in a state, and with an entry of the counters. -/
def bank (st1 : Nat) : State := host.setFs (CLS_BANK_STAT.a 0) [(CLS_BANK_STAT.state0, 1), (CLS_BANK_STAT.state1, st1), (CLS_BANK_STAT.active, 0)]
theorem test_hyps_RulesAreWrittenSwappedAndCounted :
    (host.Canonical ∧ host.May 0 (CLS_TPL_CFG.a 1 15) ∧ rowAt (CLS_TPL_CFG.a 1 15) = some (rowFor (CLS_TPL_CFG.a 1 15)) ∧ rowAt (CLS_FLD_MASK.a 1 15 23) = some (rowFor (CLS_FLD_MASK.a 1 15 23))) ∧
    (host.dpStale 0 1 = false ∧ { host with pipe := [(0, { stale1 := true })] }.dpStale 0 1 = true ∧ { host with pipe := [(0, { stale1 := true })] }.Canonical) ∧
    (winAt (bankBase 1 1) = .rule 1 1 ∧ winAt (bankBase 1 1 + 0x30000 + 48 * 255 + 44) = .rule 1 1 ∧ winAt (bankBase 0 0 + 80 * 2047 + 72) = .rule 0 0 ∧ (bankBase 0 0 + 80 * 2047 + 72) % 8 = 0) ∧
    (∀ st ∈ [0, 2], (bank st).Canonical ∧ (bank st).powered = true ∧ (bank st).roleOf 0 = 2 ∧ (bank st).May 0 (CLS_BANK_CTRL.a 0) ∧ (bank st).bankState 0 (1 - (bank st).activeBank 0) = st ∧
      (bank st).entryBad 0 1 2303 = false) ∧
    (let s : State := { bank 2 with frames := [{ hold := [(0, 1)] }] }; ∀ f ∈ s.frames, (0, 1 - s.activeBank 0) ∈ f.hold) ∧
    (let s : State := { host with ruleCnt := [(8190, 5), (8191, 2 ^ 64 - 1)], latch := [(0, some (8191, 77))] }
     s.Canonical ∧ s.powered = true ∧ s.roleOf 0 ≠ 0 ∧ Cells.get (fun _ => none) s.latch 0 = some ((1 * 2048 + 2047) * 2 + 1, 77) ∧ Cells.get (fun _ => 0) s.ruleCnt ((1 * 2048 + 2047) * 2 + 1) < 2 ^ 64) := by
  simp only [canonical_iff, may_iff]; and_intros <;> decide +kernel
/-- A swap on this tick, by a command or by a BANK action, and a bank that a frame holds. -/
def swapped (act : Bool) : State := { bank 2 with pipe := [(0, { swapTick := some 0, swapAct := act })] }
theorem test_hyps_swaps :
    (∀ act, (swapped act).Canonical ∧ (swapped act).May 0 (CLS_BANK_CTRL.a 0) ∧ ((swapped act).pp 0).swapTick = some (swapped act).now ∧ ((swapped act).pp 0).swapAct = act ∧
      (swapped act).bankState 0 (1 - (swapped act).activeBank 0) ≠ 0) ∧
    ((bank 0).pp 0).swapTick ≠ some (bank 0).now ∧ ((bank 2).pp 0).swapTick ≠ some (bank 2).now ∧
    (let s : State := { bank 2 with frames := [{ hold := [(0, 1)] }] }; s.May 0 (CLS_BANK_CTRL.a 0) ∧ ∃ f ∈ s.frames, (0, 1 - s.activeBank 0) ∈ f.hold) := by
  simp only [canonical_iff, may_iff]; decide +kernel
theorem test_swap : (after (.bankSwapRequest 0 0) (bank 0)).activeBank 0 = 1 := by decide +kernel

/-- A port that is on, in mode 1, with its link up. -/
def portUp : State := (host.setF (ETH_PORT_CFG.a 3) ETH_PORT_CFG.en 1).setFs (ETH_PORT_STAT.a 3) [(ETH_PORT_STAT.active_mode, 1), (ETH_PORT_STAT.link, 1)]
/-- A frame of 64 bytes in reception on port 3, and its copy for port 24. -/
def frm : Frame := { id := 5, port := 3, inPort := 3, wire := List.replicate 64 0#8, rcvd := 64, data := List.replicate 60 0#8, len := 64, head := some { ety := 0x800 }, looked := true, cells := 1, pool := 1, banks := [0] }
def cpy : Copy := { id := 7, fid := 5, port := 24, tc := 2, deadline := 1000 }
def inRx (f : Frame) (c : Copy) : State := { portUp with nextId := 9, frames := [f], copies := [c], ports := [(3, { rx := some 5 })] }
theorem test_hyps_ReceptionEntersAndEndsFrames :
    (host.Canonical ∧ host.Numbered ∧ host.powered = true ∧ host.portOn 3 = false) ∧
    (∀ (lp : Nat) (l : List (List Byte)), lp = 0 ∧ l = [] ∨ lp = 1 ∧ l = [] ∨ lp = 1 ∧ l = [List.replicate 64 0#8] ∨ lp = 3 ∧ l = [] →
      let s : State := { portUp with ports := [(3, { lpbk := lp, loop := l, since := 1 })] }
      s.Canonical ∧ s.Numbered ∧ s.powered = true ∧ s.portOn 3 = true ∧ s.portMode 3 ≠ 0 ∧ (s.port 3).prbs = 0 ∧ (s.port 3).lpbk = lp ∧ (s.port 3).loop = l ∧ (s.port 3).rx = none ∧ s.portMode 3 ≠ 8 ∧
        s.on (CIP_PORT_CFG.a 3) CIP_PORT_CFG.macsec_en = false) ∧
    (be16 (List.replicate 64 0#8) 12 ≠ 0x8808 ∧ 64 ≤ (List.replicate 64 0#8).length) ∧
    (let s : State := { portUp with regs := (portUp.setF (ETH_PORT_STAT.a 20) ETH_PORT_STAT.active_mode 8).regs, copies := [{ port := 20, st := 1 }] }; s.portMode 20 = 8 ∧ s.sending 20 ≠ none) ∧
    (∀ f ∈ [frm, { frm with wire := List.replicate 63 0#8 }, { frm with wire := List.replicate 63 0#8, abort := true }, { frm with act := { drop := true } }, { frm with fcsOk := false }],
      (inRx f cpy).Canonical ∧ (inRx f cpy).Numbered ∧ (inRx f cpy).powered = true ∧ f ∈ ((inRx f cpy).endCharges [3]).frames ∧ ((inRx f cpy).port 3).rx = some f.id ∧ f.port = 3 ∧ f.secDue = false ∧ f.hb = false ∧ f.looked = true ∧ f.finding = none ∧
      f.verd = 0 ∧ f.meter = none ∧ (f.act.maxSdu = 0 ∨ f.len ≤ f.act.maxSdu) ∧ cellsOf f.len ≤ f.cells) ∧
    (frm.head = some { ety := 0x800 } ∧ endFinding { ety := 0x800 } frm.len = 0 ∧ frm.abort = false ∧ frm.fcsOk = true ∧ frm.act.drop = false ∧ 64 ≤ frm.wire.length ∧ cpy.st = 0) := by
  simp only [canonical_iff, State.Numbered]
  refine ⟨by decide +kernel, ?_, by decide +kernel, by decide +kernel, by decide +kernel, by decide +kernel⟩
  rintro lp l (⟨rfl, rfl⟩ | ⟨rfl, rfl⟩ | ⟨rfl, rfl⟩ | ⟨rfl, rfl⟩) <;> decide +kernel
theorem test_reception_end : (after (.receptionEnd 3 []) (inRx frm cpy)).frames.map (fun f => f.ended) = [true] ∧ (after (.receptionEnd 3 []) (inRx { frm with fcsOk := false } cpy)).copies = [] := by decide +kernel

/-- A complete frame with a copy on port 27. -/
def looped : State := inRx { frm with ended := true } { cpy with port := 27, elig := true }
theorem test_hyps_LookupsStartAtTheDecisionPoint :
    (let f : Frame := { frm with rcvd := 0, looked := false }; let s := inRx f cpy; let v := s.endCharges [3]; let r : ParseRes := { ety := 0x800 }
     s.Canonical ∧ s.Numbered ∧ s.powered = true ∧ f ∈ v.frames ∧ (s.port 3).rx = some f.id ∧ f.port = 3 ∧ f.head = some r ∧ f.pass = 0 ∧ f.hb = false ∧ f.act.drop = false ∧ f.looked = false ∧ f.sec = none ∧
      max f.rcvd (min (63#14).toNat f.wire.length) < max (v.decisionPoint f.pipe r.tpl (min r.tags 2)) 64 ∧ max (v.decisionPoint f.pipe r.tpl (min r.tags 2)) 64 ≤ max f.rcvd (min (64#14).toNat f.wire.length) ∧
      f.ended = false ∧ f.code = 0 ∧ r.hintBad = false ∧ (v.classify f.pipe (v.activeBank f.pipe) r f.inPort 0 f.sec.isSome f.data).stage ≠ 0) ∧
    (looped.Canonical ∧ looped.Numbered ∧ looped.tryList 0 (looped.selOrder 27 false) = some (.inl { cpy with port := 27, elig := true })) ∧ (inRx frm cpy).tryList 0 ((inRx frm cpy).selOrder 27 false) = none := by
  simp only [canonical_iff, State.Numbered]; and_intros <;> decide +kernel

/-- Port 3 with MACsec protection, its encoding SA in slot 3 or none. -/
def secured (sa : Bool) : State :=
  { inRx { frm with ended := true } { cpy with port := 3, elig := true } with
    regs := (portUp.setFs (CIP_PORT_CFG.a 3) [(CIP_PORT_CFG.macsec_en, 1), (CIP_PORT_CFG.protect, 1)]).regs
    sa := if sa then [(3, { valid := true, bound := true, sc := 3, key := List.replicate 16 0#8, pn := 1, limit := 9 })] else [] }
/-- A complete frame with a copy on port 3, with what `c` says of it. -/
def sends (c : Copy) : State := inRx { frm with ended := true } { c with port := 3, elig := true }
/-- What egress sees of a state on the SWC edge `b` ns before the tick. -/
def shown (s : State) (n b : Nat) : State := (State.fireAll s.queued s.phsDue).preempt n b
theorem test_hyps_EgressSelectsSendsAndReleases :
    (let s := inRx { frm with ended := true } { cpy with elig := true }; let w := shown s 24 0
     s.Canonical ∧ s.Numbered ∧ s.MaySend 24 ∧ w.Unbusy 24 ∧ w.tryList 0 (w.selOrder 24 false) = some (.inl { cpy with elig := true }) ∧ w.encrypts 24 (w.frame 5).ety = false ∧ (w.frame 5).len ≠ 0) ∧
    (let s := sends cpy; let w := shown s 3 3
     s.Canonical ∧ s.MaySend 3 ∧ w.Unbusy 3 ∧ w.tryList 3 (w.selOrder 3 false) = some (.inl { cpy with port := 3, elig := true }) ∧ w.encrypts 3 (w.frame 5).ety = false) ∧
    (let s : State := { sends cpy with copies := [] }; let w := shown s 3 3; s.Canonical ∧ s.MaySend 3 ∧ w.Unbusy 3 ∧ w.tryList 3 (w.selOrder 3 false) = none) ∧
    (let s := sends { cpy with st := 1 }; s.MaySend 3 ∧ (shown s 3 0).sending 3 ≠ none) ∧
    (∀ sa : Bool, let s := secured sa; let w := shown s 3 0; let y := w.begins { cpy with port := 3, elig := true }
     s.Canonical ∧ s.Numbered ∧ s.MaySend 3 ∧ w.Unbusy 3 ∧ w.tryList 0 (w.selOrder 3 false) = some (.inl { cpy with port := 3, elig := true }) ∧
      w.encrypts 3 (w.frame 5).ety = true ∧ y.portMode 3 ≠ 8 ∧ (y.fresh.2.encodeSa 3 0).1 = if sa then some 3 else none) ∧
    (host.Canonical ∧ host.linkUp 3 = false ∧ host.powered = true ∧ host.sending 3 = none) ∧
    (let s := sends { cpy with st := 1 }; s.Canonical ∧ s.Numbered ∧ s.powered = true ∧ s.sending 3 = some { cpy with port := 3, elig := true, st := 1 } ∧ (s.port 3).lpbk ≠ 3 ∧
      60 ≤ (s.copyPlain { cpy with port := 3, elig := true, st := 1 }).1.length) ∧
    (let s := sends { cpy with timed := true, rel := some 0 }; s.Canonical ∧ ∀ c ∈ s.copies, c.port = 3 ∧ c.timed = true ∧ (s.frame c.fid).ended = true ∧ c.peat = false ∧ c.rel = some 0 ∧ tdiff 0 s.tim.wkt ≤ 0) ∧
    (∀ c ∈ (sends cpy).copies, c.timed = false ∧ (sends cpy).now < c.deadline) ∧
    (∀ st ∈ [0, 2], let s : State := { sends { cpy with st := st } with now := 1000 }; s.Canonical ∧ ∀ c ∈ s.copies, c.port = 3 ∧ c.st ≠ 1 ∧ c.deadline ≤ s.now ∧ c.st = st ∧
      s.on (SHP_RES.a 3 c.tc) SHP_RES.may_starve = false) := by
  simp only [canonical_iff, State.Numbered, maySend_iff, unbusy_iff]; and_intros <;> decide +kernel
theorem test_protected_copy : (after (.egressSelect 3 3 0 none 0) (secured true)).copies.map (fun c => c.slot) = [some 3] := by decide +kernel

/-- Peat of `mib` MiB, of which `used` blocks hold frames, and two frames in class 2 of port 3, the second in Peat or not. -/
def peated (mib used : Nat) (peat : Bool) : State :=
  { ((portUp.setFs QM_PEAT_CFG.a [(QM_PEAT_CFG.peat_en, 1), (QM_PEAT_CFG.size_mib, mib)]).setF QM_PEAT_STAT.a QM_PEAT_STAT.used used).setF (QM_PORT_CFG.a 3) QM_PORT_CFG.spill_en 4 with
    nextId := 9, frames := [{ frm with ended := true }, if peat then { frm with id := 6, ended := true, spilled := true, cells := 0, pool := 0, banks := [] } else { frm with id := 6, ended := true }]
    copies := [{ cpy with port := 3, elig := true }, { cpy with id := 8, fid := 6, port := 3, elig := true, peat := peat }], spilling := true }
theorem test_hyps_PeatMetersAndPreemption :
    ((peated 1 4095 false).Canonical ∧ (peated 1 4095 false).Numbered ∧ (peated 1 4095 false).powered = true ∧ (peated 1 4095 false).spillable 3 2 = true ∧
      (peated 1 4095 false).spillPick 3 2 = some { cpy with id := 8, fid := 6, port := 3, elig := true } ∧
      fldGet ((peated 1 4095 false).reg QM_PEAT_STAT.a) QM_PEAT_STAT.used + peatBlocks ((peated 1 4095 false).frame 6).len ≤ (peated 1 4095 false).f QM_PEAT_CFG.a QM_PEAT_CFG.size_mib * 4096) ∧
    ((peated 1 4096 false).Canonical ∧ (peated 1 4096 false).spillable 3 2 = true ∧ (peated 1 4096 false).spillPick 3 2 = some { cpy with id := 8, fid := 6, port := 3, elig := true } ∧
      (peated 1 4096 false).f QM_PEAT_CFG.a QM_PEAT_CFG.size_mib * 4096 < fldGet ((peated 1 4096 false).reg QM_PEAT_STAT.a) QM_PEAT_STAT.used + peatBlocks ((peated 1 4096 false).frame 6).len ∧
      (peated 1 4096 false).peatFull = false) ∧ host.spillable 3 2 = false ∧
    ((peated 1 1 true).Canonical ∧ ((peated 1 1 true).queue 3 2).find? (fun c => c.peat) = some { cpy with id := 8, fid := 6, port := 3, elig := true, peat := true } ∧ (peated 1 1 true).peatOn = true ∧
      (peated 1 1 true).headSeg 3 2 < (peated 1 1 true).f QM_REFILL_CFG.a QM_REFILL_CFG.refill_min ∧ (((peated 1 1 true).f QM_SPILL_CFG.a QM_SPILL_CFG.spill_lo : Nat) : Int) ≤ (peated 1 1 true).poolFree ∧
      (∃ f ∈ (peated 1 1 true).frames, f.id = 6) ∧ ((peated 1 1 true).frame 6).spilled = true) ∧
    ((((peated 1 4095 false).copiesOf 6).length = 1 ∧ ((peated 1 4095 false).frame 6).len ≠ 0) ∧
      let s : State := { peated 1 4095 false with copies := { cpy with id := 3, fid := 6 } :: (peated 1 4095 false).copies }
      s.Canonical ∧ s.Numbered ∧ s.spillable 3 2 = true ∧ s.spillPick 3 2 = some { cpy with id := 8, fid := 6, port := 3, elig := true } ∧ (s.copiesOf 6).length ≠ 1) ∧ host.May 0 (POL_METER_BURST.a 1 2047) ∧
    (let s := host.setF (SHP_PORT_CFG.a 11) SHP_PORT_CFG.pre_state 1; s.Canonical ∧ s.Numbered ∧ s.powered = true ∧ fldGet (s.reg (SHP_PORT_CFG.a 11)) SHP_PORT_CFG.pre_state = 1 ∧ s.sending 11 = none) ∧
    fldGet (host.reg (SHP_PORT_CFG.a 11)) SHP_PORT_CFG.pre_state ≠ 1 := by
  simp only [canonical_iff, State.Numbered, may_iff]; and_intros <;> decide +kernel

/-! ### Tables (08) -/

/-- FDB_CMD of pipeline 1 holds data words; the table holds an address at its first location. -/
def fdbAsk (w : List Nat) (l : List (Nat × Option FdbEnt)) : State := { host.setWords (fdbCmd 1) 0 w with fdb := l }
def ent : FdbEnt := { mac := 0x010203040506, vid := 7, fixed := false, dest := 3 }
def loc : Nat := ((keyLocs 12 (fdbKey 0x010203040506 7)).headD 0)
def key : List Nat := [0x03040506, 0x00070102]
/-- What a command of pipeline 1 finds after the learning requests before it. -/
def drained (s : State) (op arg : Nat) : State := (s.ordered 0 (fdbCmd 1) op arg).learnDrain 1
theorem test_hyps_FdbCommandsActOnTheTable :
    (let s := fdbAsk (key ++ [3, 0]) []; s.Canonical ∧ s.MayOrder 0 (fdbCmd 1) ∧ (s.pp 1).learnQ = [] ∧ (drained s 1 0).fdbErr 1 1 0 = none ∧ (∀ op ∈ [1, 2, 3], (drained s op 0).fdbFind 1 0x010203040506 7 = none) ∧ (∃ j ∈ keyLocs 12 (fdbKey 0x010203040506 7), (drained s 1 0).fdbAt 1 j = none) ∧
      (drained s 2 0).fdbErr 1 2 0 = some 1 ∧ (drained s 3 0).fdbErr 1 3 0 = some 3 ∧ (drained s 4 0).fdbErr 1 4 0 = some 3 ∧ (drained s 5 0).fdbErr 1 5 0 = some 3 ∧ (drained s 1 1).fdbErr 1 1 1 = some 15) ∧
    (let s := fdbAsk (key ++ [3, 0]) [(32768 + loc, some ent)]; s.Canonical ∧ (drained s 1 0).fdbErr 1 1 0 = none ∧ (∀ op ∈ [1, 2, 3], (drained s op 0).fdbFind 1 0x010203040506 7 = some loc ∧ (drained s op 0).fdbAt 1 loc = some ent)) ∧
    (let s := fdbAsk (key ++ [0, 0]) [(32768 + loc, some { ent with frozen := true })]; s.Canonical ∧ (drained s 2 0).fdbErr 1 2 0 = none ∧ (drained s 3 0).fdbErr 1 3 0 = none ∧ (drained s 2 0).fdbAt 1 loc = some { ent with frozen := true }) ∧
    (let s := fdbAsk [0, 0, 0, 0] [(32768, some ent)]; s.Canonical ∧ (drained s 4 0).fdbErr 1 4 0 = none ∧ (drained s 4 32767).fdbErr 1 4 32767 = none ∧ (drained s 5 0).fdbErr 1 5 0 = none ∧ (drained s 4 0).fdbAt 1 0 = some ent ∧ (drained s 4 32767).fdbAt 1 32767 = none) := by
  simp only [canonical_iff, mayOrder_iff, may_iff]; and_intros <;> decide +kernel
theorem test_fdb_delete : (after (.fdbDelete 0 1 0) (fdbAsk (key ++ [0, 0]) [(32768 + loc, some ent)])).fdb = [] := by decide +kernel

def flwAsk (w : List Nat) (l : List (Nat × Option FlwEnt)) : State := { host.setWords (flwCmd 1) 0 w with flw := l }
def fent : FlwEnt := ⟨1, 1, 2, 0, 0, 0⟩
def floc : Nat := ((keyLocs 11 (flwKey 1 1 2 0)).headD 0)
theorem test_hyps_FlowCommandsActOnTheTable :
    (let s := flwAsk [1, 1, 2, 0, 0, 0] []; s.Canonical ∧ s.MayOrder 0 (flwCmd 1) ∧ s.flwErr 1 1 0 = none ∧ s.flwFind 1 1 1 2 0 = none ∧ (∃ j ∈ keyLocs 11 (flwKey 1 1 2 0), s.flwAt 1 j = none) ∧
      s.flwErr 1 3 0 = none ∧ s.flwErr 1 2 0 = some 1 ∧ s.flwErr 1 4 0 = some 3 ∧ s.flwErr 1 1 1 = some 15 ∧ s.flwErr 1 3 1 = some 15) ∧
    (let s := flwAsk [1, 1, 2, 0, 0, 0] [(16384 + floc, some fent)]; s.Canonical ∧ s.flwErr 1 1 0 = none ∧ s.flwErr 1 2 0 = none ∧ s.flwErr 1 3 0 = none ∧ s.flwFind 1 1 1 2 0 = some floc ∧ s.flwAt 1 floc = some fent) ∧
    (let s := flwAsk [] [(32767, some fent)]; s.Canonical ∧ s.MayOrder 0 (flwCmd 1) ∧ s.flwErr 1 4 16383 = none ∧ s.flwAt 1 16383 = some fent ∧ s.flwErr 1 4 0 = none ∧ s.flwAt 1 0 = none) := by
  simp only [canonical_iff, mayOrder_iff, may_iff]; and_intros <;> decide +kernel

/-- A learning request waits in pipeline 1, over a table. -/
def learns (l : List (Nat × Option FdbEnt)) : State := { host with pipe := [(1, { learnQ := [⟨0x010203040506, 7, 4, 4⟩] })], fdb := l }
/-- The same with a move window of 1 ms and no move allowed in it, or one. -/
def windowed (m : Nat) (e : FdbEnt) : State := { learns [(32768 + loc, some e)] with regs := (host.setFs (FDB_MOVE_CFG.a 1) [(FDB_MOVE_CFG.move_win, 1), (FDB_MOVE_CFG.move_max, m)]).regs }
/-- Every location of the address, and of the address that takes them all, is taken. -/
def crowded : State :=
  let o : FdbEnt := { mac := 1, vid := 1, fixed := false, dest := 1 }
  { learns [] with fdb := (keyLocs 12 (fdbKey 0x010203040506 7) ++ keyLocs 12 (fdbKey 1 1)).foldl (fun m l => Cells.set (fun _ => none) m (32768 + l) (some o)) [] }
/-- Notifications wait. -/
def notes (l : List (List Nat)) (v : Nat) : State := { host.setF (fdbLnot 1 + 4) MBX_STAT.valid v with pipe := [(1, { notif := l })] }
def slotAt (e : FdbEnt) : State := { host with fdb := [(65535, some e)], now := 100 }
def aging (at' now : Nat) (l : List (Nat × Option FdbEnt)) : State := { (host.setF (FDB_AGE_CFG.a 1) FDB_AGE_CFG.age_en 1) with pipe := [(1, { sweep := 32767, sweepAt := at' })], fdb := l, now := now }
theorem test_hyps_LearningAndSweepsVisitTheSlots :
    (host.Canonical ∧ (host.pp 1).learnQ = [] ∧ (learns []).Canonical ∧ ((learns []).pp 1).learnQ = [⟨0x010203040506, 7, 4, 4⟩] ∧ ((learns []).pp 1).flush = none ∧ (learns []).fdbFind 1 0x010203040506 7 = none ∧
      place 12 ((learns []).fdbKeyAt 1) (fdbKey 0x010203040506 7) ≠ none) ∧
    (crowded.Canonical ∧ crowded.fdbFind 1 0x010203040506 7 = none ∧ place 12 (crowded.fdbKeyAt 1) (fdbKey 0x010203040506 7) = none) ∧
    (∀ e ∈ [{ ent with dest := 4 }, { ent with fixed := true }, { ent with frozen := true }, ent], (learns [(32768 + loc, some e)]).Canonical ∧ (learns [(32768 + loc, some e)]).fdbFind 1 0x010203040506 7 = some loc ∧
      ((learns [(32768 + loc, some e)]).freezeEnd 1 loc).fdbAt 1 loc = some (if e.frozen then { e with frozen := false, hit := true } else e)) ∧
    ((learns [(32768 + loc, some { ent with frozen := true, frzEnd := 1 })]).freezeEnd 1 loc).fdbAt 1 loc = some { ent with frozen := true, frzEnd := 1 } ∧
    ((windowed 0 ent).winOpen { ent with win := some 5 } = true ∧ (windowed 0 ent).winOpen { ent with win := some 0 } = false ∧ ({ learns [] with regs := (host.setFs (FDB_MOVE_CFG.a 1) [(FDB_MOVE_CFG.move_win, 0)]).regs } : State).f (FDB_MOVE_CFG.a 1) FDB_MOVE_CFG.move_win = 0) ∧
    (∀ m ∈ [0, 1], (windowed m ent).Canonical ∧ (windowed m ent).f (FDB_MOVE_CFG.a 1) FDB_MOVE_CFG.move_win = 1 ∧ (windowed m ent).f (FDB_MOVE_CFG.a 1) FDB_MOVE_CFG.move_max = m ∧ ent.win.isSome = false) ∧
    ((windowed 0 { ent with win := some 5, moves := 1 }).f (FDB_MOVE_CFG.a 1) FDB_MOVE_CFG.move_max < 1 + 1) ∧
    ((notes [[1, 2, 3, 4], [5, 6, 7, 8]] 1).Canonical ∧ (notes [[1, 2, 3, 4], [5, 6, 7, 8]] 1).powered = true ∧ (notes [[1, 2, 3, 4], [5, 6, 7, 8]] 1).roleOf 0 ≠ 0 ∧
      fldGet ((notes [[1, 2, 3, 4], [5, 6, 7, 8]] 1).reg (fdbLnot 1 + 4)) MBX_STAT.valid = 1 ∧ ((notes [[1, 2, 3, 4], [5, 6, 7, 8]] 1).pp 1).notif.drop 1 = [5, 6, 7, 8] :: [] ∧ ((notes [[1, 2, 3, 4]] 1).pp 1).notif.drop 1 = [] ∧
      fldGet (host.reg (fdbLnot 1 + 4)) MBX_STAT.valid = 0) ∧
    (∀ w ∈ [100, 101], (slotAt { ent with win := some w }).Canonical ∧ (slotAt { ent with win := some w }).powered = true ∧ (slotAt { ent with win := some w }).fdbAt 1 32767 = some { ent with win := some w } ∧
      (slotAt { ent with frozen := true, frzEnd := w }).fdbAt 1 32767 = some { ent with frozen := true, frzEnd := w } ∧ (slotAt ent).now = 100) ∧
    (∀ l ∈ [[], [(65535, some { ent with hit := true })], [(65535, some { ent with hit := false })], [(65535, some { ent with hit := false, stale := true })], [(65535, some { ent with fixed := true })]],
      (aging 32768 1 l).Canonical ∧ (aging 32768 1 l).on (FDB_AGE_CFG.a 1) FDB_AGE_CFG.age_en = true ∧ ((aging 32768 1 l).pp 1).sweepAt ≤ (aging 32768 1 l).now * 32768) ∧
    ((aging 32769 1 []).now * 32768 < ((aging 32769 1 []).pp 1).sweepAt ∧ (host.setF (FDB_AGE_CFG.a 1) FDB_AGE_CFG.age_en 0).on (FDB_AGE_CFG.a 1) FDB_AGE_CFG.age_en = false) ∧
    (fldGet (host.reg (FDB_PAR_LOC.a 1)) FDB_PAR_LOC.valid = 0 ∧ fldGet (host.reg (FLW_PAR_LOC.a 1)) FLW_PAR_LOC.valid = 0) ∧
    (∀ k ∈ [0, 32767], let s : State := { host with pipe := [(1, { flush := some ⟨k, 0, 0, 0⟩ })] }; s.Canonical ∧ (s.pp 1).flush = some ⟨k, 0, 0, 0⟩) := by
  simp only [canonical_iff]; and_intros <;> decide +kernel
theorem test_learn_moves : (after (.learnApply 1) (windowed 1 ent)).fdbAt 1 loc = some { ent with dest := 4, hit := true, stale := false, moves := 1, win := some (msTicks 1) } := by decide +kernel

/-! ### MACsec (11) -/

/-- A protected frame of 88 bytes with PN 1 in reception on port 3, its SecTAG due; `ok` says that its receive SC is in order. -/
def secData : List Byte := List.replicate 12 0#8 ++ [0x88#8, 0xe5#8, 0#8, 0#8, 0#8, 0#8, 0#8, 1#8] ++ List.replicate 64 0#8
def secFrm : Frame := { frm with wire := secData ++ List.replicate 4 0#8, data := secData, len := 88, head := none, looked := false, secDue := true }
def rxSa : SaSlot := { valid := true, bound := true, rx := true, key := List.replicate 16 0#8, pn := 0, lowPn := 1, limit := 9 }
def secRegs (en : Nat) : State :=
  (portUp.setFs (CIP_PORT_CFG.a 3) [(CIP_PORT_CFG.macsec_en, 1), (CIP_PORT_CFG.imp_en, en), (CIP_PORT_CFG.replay_en, en), (CIP_PORT_CFG.validate, 1)]).setFs (CIP_RXSC_CFG.a 0) [(CIP_RXSC_CFG.en, 1), (CIP_RXSC_CFG.port, 3)]
def secRx (en : Nat) : State := { inRx secFrm cpy with regs := (secRegs en).regs, sa := [(3, rxSa)] }
theorem secRx_tag : (secRx 1).secCheck 3 secData ≠ .bad 2 ∧ (secRx 1).secCheck 3 secData ≠ .bad 3 ∧ (secRx 1).secCheck 3 secData ≠ .bad 4 ∧ ∃ x d, (secRx 1).secCheck 3 secData = .ok x d := by
  have h : ∃ x d, (secRx 1).secCheck 3 secData = .ok x d := by
    have h1 : tagOk secData = true := by decide +kernel
    have h2 : ((secRx 1).rxscOf 3 secData).bind (fun k => (secRx 1).saBound true k (byteAt secData 14 % 4) |>.map (fun j => (k, j))) = some (0, 3) := by decide +kernel
    have h3 : ((secRx 1).on (CIP_PORT_CFG.a 3) CIP_PORT_CFG.replay_en && decide (pnOf ((secRx 1).saAt 3) (beAt secData 16 4) + (secRx 1).rxWindow 3 ((secRx 1).saAt 3) < (secRx 1).pnPending 3 + 1)) = false := by decide +kernel
    unfold State.secCheck
    simp only [h1, h2, h3]
    exact ⟨_, _, rfl⟩
  obtain ⟨x, d, h⟩ := h
  exact ⟨by rw [h]; simp, by rw [h]; simp, by rw [h]; simp, x, d, h⟩
def judged (x : SecRx) (low : Nat) : State :=
  { secRx 1 with frames := [{ secFrm with ended := true, secDue := false, looked := true, verd := 1, sec := some x }], ports := [], sa := [(3, { rxSa with pn := 7, lowPn := low })] }
def srx (pn : Nat) (enc ok : Bool) : SecRx := ⟨3, pn, enc, ok, 8⟩
theorem test_hyps_SecTagsAreCheckedAndJudged :
    ((∃ x d, secFrm.secDue = true ∧ (secRx 1).secCheck 3 secFrm.data = .ok x d) ∧ (secRx 0).secCheck 3 secFrm.data = .bad 3 ∧ (secRx 1).secCheck 3 [] = .bad 2) ∧
    (∀ en ∈ [0, 1], (secRx en).Canonical ∧ (secRx en).Numbered ∧ (secRx en).powered = true ∧ secFrm ∈ (secRx en).frames ∧ ((secRx en).port 3).rx = some secFrm.id ∧ secFrm.port = 3) ∧
    (portUp.port 3).rx = none ∧ frm.secDue = false ∧ host.frames.find? (fun f => f.port == 3 && f.ended && f.verd == 1) = none ∧
    (∀ x ∈ [srx 8 true true, srx 8 false false, srx 8 true false, srx 5 true true], (judged x 6).Canonical ∧ (judged x 6).Numbered ∧
      (judged x 6).frames.find? (fun f => f.port == 3 && f.ended && f.verd == 1) = some { secFrm with ended := true, secDue := false, looked := true, verd := 1, sec := some x } ∧
      (judged x 6).on (CIP_PORT_CFG.a 3) CIP_PORT_CFG.validate = true ∧ (judged x 6).on (CIP_PORT_CFG.a 3) CIP_PORT_CFG.replay_en = true ∧ ((judged x 6).saAt x.slot).lowPn = 6 ∧
      secFrm.finding = none ∧ secFrm.hb = false ∧ secFrm.act.drop = false ∧ (∃ c ∈ (judged x 6).copies, c.fid = 5) ∧ (judged x 6).on (CIP_PORT_CFG.a 3) CIP_PORT_CFG.vbf = false ∧ ∀ c ∈ (judged x 6).copies, c.fid = 5 → c.st = 0) := by
  refine ⟨⟨?_, ?_, ?_⟩, ?_⟩
  · obtain ⟨-, -, -, x, d, h⟩ := secRx_tag
    exact ⟨x, d, rfl, h⟩
  · unfold State.secCheck
    have h1 : tagOk secFrm.data = true := by decide +kernel
    have h2 : ((secRx 0).rxscOf 3 secFrm.data).bind (fun k => (secRx 0).saBound true k (byteAt secFrm.data 14 % 4) |>.map (fun j => (k, j))) = none := by decide +kernel
    simp only [h1, h2]; rfl
  · unfold State.secCheck
    have h1 : tagOk [] = false := by decide +kernel
    simp only [h1]; rfl
  · simp only [canonical_iff, State.Numbered]; and_intros <;> decide +kernel

/-- CIP_KEY holds words; slot 511 holds an SA or none. -/
def keyAsk (w : List Nat) (x : List (Nat × SaSlot)) : State := { host.setWords cipKey 0 w with sa := x }
def keyWords : List Nat := [1, 2, 3, 4, 0, 0, 0, 0, 0, 0, 0, 0, 5, 0, 9, 0]
def sa0 : SaSlot := { valid := true, key := List.replicate 16 1#8, pn := 1, limit := 9 }
def busy (st : Nat) : State := { keyAsk [] [(511, { sa0 with retiring := true })] with copies := [{ cpy with st := st, slot := some 511 }] }
theorem test_hyps_KeyCommandsChangeTheirSlot :
    ((keyAsk keyWords []).Canonical ∧ (keyAsk keyWords []).MayOrder 0 cipKey ∧ ((keyAsk keyWords []).saAt 511).sc < 128 ∧ (keyAsk keyWords []).keyErr 1 511 = none ∧ (keyAsk keyWords []).keyErr 2 511 = some 1 ∧
      (keyAsk keyWords []).keyErr 3 511 = some 1 ∧ (keyAsk keyWords []).keyErr 4 511 = some 1 ∧ (keyAsk [] []).keyErr 1 511 = some 3) ∧
    ((keyAsk [3 * 2 ^ 16 + 2] [(510, { sa0 with bound := true, sc := 3, an := 2 }), (511, sa0)]).Canonical ∧ (keyAsk [3 * 2 ^ 16 + 2] [(510, { sa0 with bound := true, sc := 3, an := 2 }), (511, sa0)]).keyErr 2 511 = none ∧
      (keyAsk [3 * 2 ^ 16 + 2] [(510, { sa0 with bound := true, sc := 3, an := 2 }), (511, sa0)]).saBound false 3 2 = some 510) ∧
    ((keyAsk [] [(511, sa0)]).Canonical ∧ (keyAsk [] [(511, sa0)]).keyErr 3 511 = none ∧ (keyAsk [] [(511, sa0)]).keyErr 4 511 = none ∧ ((keyAsk [] [(511, sa0)]).saAt 511).valid = true ∧ (keyAsk [] [(511, sa0)]).on CIP_ALARM_STAT.a CIP_ALARM_STAT.latched = false) ∧
    (let s := (keyAsk [] [(511, sa0)]).setF CIP_ALARM_STAT.a CIP_ALARM_STAT.latched 1; s.Canonical ∧ s.MayOrder 0 cipKey ∧ (s.saAt 511).valid = true ∧ s.on CIP_ALARM_STAT.a CIP_ALARM_STAT.latched = true) ∧
    (∀ st ∈ [0, 1], (busy st).Canonical ∧ (busy st).powered = true ∧ ((busy st).saAt 511).retiring = true ∧ (busy st).saBusy 511 = (st == 1)) ∧ host.MayAsk 0 cipSaStat ∧ host.MayAsk 0 cipMibMbx := by
  simp only [canonical_iff, mayAsk_iff, mayOrder_iff, may_iff]; and_intros <;> decide +kernel
theorem test_retire_done : (after (.saRetireDone 511) (busy 0)).sa = [] := by decide +kernel

/-- The alarm sources enabled or not, some active. -/
def alarms (en act erasing : Nat) : State := (host.setReg CIP_ALARM_CFG.a (BitVec.ofNat 32 en)).setFs CIP_ALARM_STAT.a [(CIP_ALARM_STAT.active, act), (CIP_ALARM_STAT.erasing, erasing)]
theorem test_hyps_AlarmsEraseTheKeys :
    (∀ en ∈ [0, 7], ∀ act ∈ [0, 7], (alarms en act 1).Canonical ∧ (alarms en act 1).jtag.held = false ∧ (alarms en act 1).powered = true ∧ (alarms en act 1).alarmEn = en + 16 ∧
      (alarms en act 1).f CIP_ALARM_STAT.a CIP_ALARM_STAT.active = act ∧ (alarms en act 1).May 0 CIP_ALARM_CTRL.a ∧ (alarms en act 1).May 0 CIP_ALARM_STAT.a) ∧
    ((alarms 0 0 1).on CIP_ALARM_STAT.a CIP_ALARM_STAT.erasing = true ∧ (alarms 0 0 0).on CIP_ALARM_STAT.a CIP_ALARM_STAT.erasing = false ∧ nbit 7 4 = false ∧ nbit 7 0 = true ∧ 7 &&& (7 + 16) ≠ 0 ∧ 7 &&& 16 = 0 ∧
      (alarms 0 0 0).on CIP_ALARM_STAT.a CIP_ALARM_STAT.latched = false ∧ (alarms 0 0 0).parOf CIP_ALARM_STAT.a = {} ∧ (alarms 0 0 0).inFen = false) := by
  simp only [canonical_iff, may_iff]; and_intros <;> decide +kernel

/-- A job descriptor under slot 5, and a ring of 4 that holds one. -/
def jobDesc (op src dst len aad p : Nat) : List Byte := [BitVec.ofNat 8 op, 1#8, 5#8, 0#8] ++ leBytes 4 src ++ leBytes 4 dst ++ leBytes 4 len ++ leBytes 4 aad ++ leBytes 4 p ++ List.replicate 8 0#8
def ring (op tail : Nat) : State :=
  { (((host.setF CIP_CJOB_BASE.a CIP_CJOB_BASE.base sramBase).setF CIP_CJOB_SIZE.a CIP_CJOB_SIZE.size 4).setF CIP_CJOB_TAIL.a CIP_CJOB_TAIL.tail tail) with
    sram := memPut (fun _ => 0#8) [] sramBase (jobDesc op sramBase sramBase 0 0 sramBase) }
/-- A job in progress, with the key of slot 5 and what stands in Carr SRAM. -/
def job (d : List Byte) (x : SaSlot) (m : List Byte) : State := { host with cjobs := [⟨1023, d⟩], sa := [(5, x)], sram := memPut (fun _ => 0#8) [] 0x10001000 m }
def jobSa : SaSlot := { valid := true, kind := 2, key := (List.range 16).map (BitVec.ofNat 8) }
/-- RFC 3394 4.1: 128 bits of key data wrapped under a 128-bit key, and AES-GCM of no data under a key and an IV of zeros (GCM test case 1). -/
def wrapped : List Byte := beBytes 24 0x1FA68B0A8112B447AEF34BD8FB5A7B829D3E862371D2CFE5
def tag0 : List Byte := beBytes 16 0x58e2fccefa7e3061367f1d57a4e7455a
def B : Nat := 0x10001000
theorem test_hyps_CarrJobsStartAndComplete :
    (∀ op ∈ [1, 2, 3, 4, 5], (ring op 1).Canonical ∧ (ring op 1).powered = true ∧ (ring op 1).f CIP_CJOB_HEAD.a CIP_CJOB_HEAD.head ≠ (ring op 1).f CIP_CJOB_TAIL.a CIP_CJOB_TAIL.tail ∧
      (ring op 1).cjobs.length < 16 ∧ byteAt ((ring op 1).sramRead sramBase 32) 0 = op ∧ (ring op 1).f CIP_CJOB_BASE.a CIP_CJOB_BASE.base = sramBase ∧ (ring op 1).on CIP_ALARM_STAT.a CIP_ALARM_STAT.erasing = false) ∧
    ((ring 1 0).f CIP_CJOB_HEAD.a CIP_CJOB_HEAD.head = (ring 1 0).f CIP_CJOB_TAIL.a CIP_CJOB_TAIL.tail ∧ (∀ j ∈ host.cjobs, j.idx ≠ 0) ∧ ((ring 1 1).setF CIP_ALARM_STAT.a CIP_ALARM_STAT.erasing 1).on CIP_ALARM_STAT.a CIP_ALARM_STAT.erasing = true ∧ byteAt ((ring 1 1).sramRead sramBase 32) 0 ≠ 2) ∧
    (∀ d ∈ [jobDesc 1 B B 16 0 B, jobDesc 1 B (0x10400000 - 15) 16 0 B, jobDesc 2 B B 16 0 B, jobDesc 3 B B 16 16 B, jobDesc 4 B B 0 0 (B + 32), jobDesc 5 B 100 24 0 B], (job d jobSa wrapped).Canonical ∧ (job d jobSa wrapped).powered = true ∧
      (job d jobSa wrapped).cjobs.find? (fun j => j.idx == 1023) = some ⟨1023, d⟩ ∧ leNat (slice d 2 2) < 512 ∧ ((job d jobSa wrapped).saAt (leNat (slice d 2 2))) = jobSa ∧ inSram (leNat (slice d 4 4)) (leNat (slice d 12 4)) = true ∧
      leNat (slice d 12 4) ≤ 65536 ∧ inSram (leNat (slice d 20 4)) 16 = true ∧ inSram (leNat (slice d 4 4)) (leNat (slice d 16 4) + leNat (slice d 12 4) + 16) = true) ∧
    (inSram B 16 = true ∧ inSram (0x10400000 - 15) 16 = false ∧ inSram (0x10400000 - 16) 16 = true ∧ inSram (sramBase - 1) 1 = false ∧ jobSa.valid = true ∧ jobSa.retiring = false ∧ jobSa.kind = 2 ∧ leNat (slice (jobDesc 5 B 100 24 0 B) 8 4) = 100) ∧
    (let s := job (jobDesc 5 B 100 24 0 B) jobSa wrapped
     aesUnwrap jobSa.key (s.sramRead B 24) = some (beBytes 16 0x00112233445566778899AABBCCDDEEFF) ∧ s.on CIP_ALARM_STAT.a CIP_ALARM_STAT.latched = false ∧ (s.saAt 100).valid = false ∧ nbits 100 24 16 = 0) ∧
    aesUnwrap jobSa.key ((job (jobDesc 5 B 100 0 0 B) jobSa []).sramRead B 0) = none ∧
    (let s := job (jobDesc 4 B B 0 0 (B + 32)) { jobSa with key := List.replicate 16 0#8 } tag0
     gcmTag (List.replicate 16 0#8) (s.sramRead (B + 32) 12) (s.sramRead B 0) (s.sramRead (B + 0) 0) = s.sramRead (B + 0 + 0) 16) ∧
    (let s := job (jobDesc 4 B B 0 0 (B + 32)) { jobSa with key := List.replicate 16 0#8 } []
     gcmTag (List.replicate 16 0#8) (s.sramRead (B + 32) 12) (s.sramRead B 0) (s.sramRead (B + 0) 0) ≠ s.sramRead (B + 0 + 0) 16) := by
  simp only [canonical_iff]; and_intros <;> decide +kernel

/-! ### Ports, MDIO and rings (12) -/

/-- Port 3 enabled in mode 1 or not, its link and its receive path as named since tick 0. -/
def port3 (en mode link ready : Nat) : State := ((host.setF (ETH_PORT_CFG.a 3) ETH_PORT_CFG.en en).setF (ETH_PORT_MODE.a 3) ETH_PORT_MODE.mode mode).setFs (ETH_PORT_STAT.a 3)
  [(ETH_PORT_STAT.active_mode, mode), (ETH_PORT_STAT.link, link), (ETH_PORT_STAT.ready, ready)]
theorem test_hyps_PortsFollowEnableAndReceivePath :
    (∀ en ∈ [0, 1], ∀ mode ∈ [0, 1, 6], (port3 en mode 0 0).Canonical ∧ (port3 en mode 0 0).Numbered ∧ (port3 en mode 0 0).May 0 (ETH_PORT_CFG.a 3) ∧ fldGet ((port3 en mode 0 0).reg (ETH_PORT_CFG.a 3)) ETH_PORT_CFG.en = en ∧
      (port3 en mode 0 0).f (ETH_PORT_MODE.a 3) ETH_PORT_MODE.mode = mode ∧ ((port3 en mode 0 0).port 3).rx = none ∧ (port3 en mode 0 0).powered = true ∧ (port3 en mode 0 0).portMode 3 = mode) ∧
    (modeOk 1 3 = true ∧ modeOk 6 3 = false ∧ modeOk 1 4 = false) ∧ (fldGet ((inRx frm cpy).reg (ETH_PORT_CFG.a 3)) ETH_PORT_CFG.en = 1 ∧ (inRx frm cpy).May 0 (ETH_PORT_CFG.a 3) ∧ frm ∈ (inRx frm cpy).frames) ∧
    (let s := port3 1 1 0 1; let u : State := { s with now := msTicks (max 1 (s.f (ETH_PORT_LINK.a 3) ETH_PORT_LINK.up_hold)) }
     u.Canonical ∧ u.portOn 3 = true ∧ u.linkUp 3 = false ∧ fldGet (u.reg (ETH_PORT_STAT.a 3)) ETH_PORT_STAT.ready = 1 ∧ (u.port 3).since + msTicks (max 1 (u.f (ETH_PORT_LINK.a 3) ETH_PORT_LINK.up_hold)) ≤ u.now ∧
      nbit u.pwr.fast 3 = false ∧ s.now < (s.port 3).since + msTicks (max 1 (s.f (ETH_PORT_LINK.a 3) ETH_PORT_LINK.up_hold))) ∧
    (let s := port3 1 1 1 0; let u : State := { s with now := usTicks (s.f (ETH_PORT_LINK.a 3) ETH_PORT_LINK.down_hold) }
     u.Canonical ∧ u.portOn 3 = true ∧ u.linkUp 3 = true ∧ fldGet (u.reg (ETH_PORT_STAT.a 3)) ETH_PORT_STAT.ready = 0 ∧ (u.port 3).since + usTicks (u.f (ETH_PORT_LINK.a 3) ETH_PORT_LINK.down_hold) ≤ u.now ∧ (u.port 3).rx = none) ∧
    (port3 0 1 1 0).portOn 3 = false := by
  simp only [canonical_iff, State.Numbered, may_iff]; and_intros <;> decide +kernel

/-- Port 23 in mode 8 with PLCA on or off, a BEACON at tick 0, `coll` collisions and a copy in transmission or none; port 4 in mode 3. -/
def t1s (plca st coll now : Nat) (l : List Copy) : State :=
  { ((((host.setF (ETH_PORT_CFG.a 23) ETH_PORT_CFG.en 1).setF (ETH_PORT_STAT.a 23) ETH_PORT_STAT.active_mode 8).setFs (ETH_T1S_PLCA.a 23) [(ETH_T1S_PLCA.plca_en, plca), (ETH_T1S_PLCA.node_id, 1), (ETH_T1S_PLCA.node_count, 2),
      (ETH_T1S_PLCA.to_timer, 32)]).setF (ETH_T1S_STAT.a 23) ETH_T1S_STAT.plca_status st) with
    ports := [(23, { coll := coll, plcaLost := true })], now := now, copies := l, frames := [{ frm with ended := true }], nextId := 9 }
def sent : Copy := { cpy with port := 23, st := 1 }
def tested (locked errors : Nat) : State :=
  { port3 1 1 0 0 with regs := ((port3 1 1 0 0).setFs (ETH_PORT_PRBS.a 3) [(ETH_PORT_PRBS.locked, locked), (ETH_PORT_PRBS.errors, errors)]).regs, ports := [(3, { prbs := 1 })] }
theorem test_hyps_PortSignalsAreRecorded :
    (let s := (host.setF (ETH_PORT_CFG.a 4) ETH_PORT_CFG.en 1).setF (ETH_PORT_STAT.a 4) ETH_PORT_STAT.active_mode 3; s.Canonical ∧ s.Numbered ∧ s.powered = true ∧ modeInband (s.portMode 4) = true ∧ s.portOn 4 = true) ∧
    ((t1s 1 1 0 0 []).Canonical ∧ (t1s 1 1 0 0 []).Numbered ∧ (t1s 1 1 0 0 []).plcaOn 23 = true ∧ (t1s 0 1 0 0 []).plcaOn 23 = false ∧ ((t1s 1 1 0 0 []).port 23).plcaLost = true ∧
      fldGet ((t1s 1 1 0 0 []).reg (ETH_T1S_STAT.a 23)) ETH_T1S_STAT.plca_status = 1 ∧ (t1s 1 1 0 0 []).plcaLoss 23 = 6400 ∧ ((t1s 1 1 0 6400 []).port 23).beacon + 6400 ≤ (t1s 1 1 0 6400 []).now ∧
      (t1s 1 1 0 6399 []).now < ((t1s 1 1 0 6399 []).port 23).beacon + 6400) ∧
    (host.portMode 23 ≠ 8 ∧ (t1s 1 1 0 0 []).portMode 23 = 8 ∧ (t1s 1 1 0 0 []).portOn 23 = true ∧ ((t1s 1 1 0 0 []).port 23).rx = none) ∧
    (∀ coll ∈ [0, 14, 15], (t1s 0 0 coll 0 [sent]).Canonical ∧ (t1s 0 0 coll 0 [sent]).Numbered ∧ (t1s 0 0 coll 0 [sent]).sending 23 = some sent ∧ ((t1s 0 0 coll 0 [sent]).port 23).coll = coll) ∧ (t1s 0 0 0 0 []).sending 23 = none ∧
    (∀ locked ∈ [0, 1], (tested locked (2 ^ 31 - 1)).Canonical ∧ (tested locked (2 ^ 31 - 1)).portOn 3 = true ∧ ((tested locked (2 ^ 31 - 1)).port 3).prbs ≠ 0 ∧
      fldGet ((tested locked (2 ^ 31 - 1)).reg (ETH_PORT_PRBS.a 3)) ETH_PORT_PRBS.locked = locked) ∧ (port3 1 1 0 0 |>.port 3).prbs = 0 ∧ (t1s 1 0 0 0 []).sending 23 = none ∧ (t1s 0 0 0 0 []).plcaOn 23 = false ∧ (t1s 1 1 0 0 []).f (ETH_T1S_PLCA.a 23) ETH_T1S_PLCA.node_id ≠ 0 ∧ host.MayAsk 0 ethMib ∧ host.pcieGen = 0 := by
  simp only [canonical_iff, State.Numbered, mayAsk_iff]; and_intros <;> decide +kernel

/-- MDIO_CMD holds operand words, with an operation in progress or none. -/
def mdioAsk (d0 d1 : Nat) (x : MdioSt) : State := { host.setWords mdioCmd 0 [d0, d1] with mdio := x }
theorem test_hyps_MdioOperationsSendFrames :
    (∀ op ∈ [1, 3, 4, 7, 8], (mdioAsk 0x1F1FFFFF 0 {}).Canonical ∧ (mdioAsk 0x1F1FFFFF 0 {}).MayOrder 0 mdioCmd ∧ mdioOk op ((mdioAsk 0x1F1FFFFF 0 {}).dw mdioCmd 0) ((mdioAsk 0x1F1FFFFF 0 {}).dw mdioCmd 1) = true ∧
      mdioOk op ((mdioAsk 0x20000000 0 {}).dw mdioCmd 0) ((mdioAsk 0x20000000 0 {}).dw mdioCmd 1) = false) ∧
    (∀ op ∈ [2, 5, 6], mdioOk op ((mdioAsk 0x1F1F0000 0 {}).dw mdioCmd 0) 0 = true ∧ mdioOk op ((mdioAsk 0x1F1F0001 0 {}).dw mdioCmd 0) 0 = false) ∧ mdioOk 8 0 65535 = true ∧ mdioOk 8 0 65536 = false ∧ mdioOk 7 0 1 = false ∧
    (∀ op ∈ [1, 2, 5, 6, 7, 8], (mdioAsk 0 0 ⟨true, op, 1, 0, 0⟩).Canonical ∧ (mdioAsk 0 0 ⟨true, op, 1, 0, 0⟩).powered = true ∧ (mdioAsk 0 0 ⟨true, op, 1, 0, 0⟩).mdio.busy = true) ∧ host.mdio.busy = false := by
  simp only [canonical_iff, mayOrder_iff, may_iff]; and_intros <;> decide +kernel

/-- Ring `r` of a group enabled, with a descriptor for the device or none; Carr as Installer. -/
def ringOn (g r tail : Nat) : State := ({ host with sess := [(0, { role := 2 }), (1, { role := 2 })] }.setReg (ringReg g r 8) 0x80000040#32).setReg (ringReg g r 0xc) (BitVec.ofNat 32 tail)
def txd (len fl : Nat) : List Byte := List.replicate 8 0#8 ++ leBytes 2 len ++ [BitVec.ofNat 8 fl] ++ List.replicate 53 0#8
theorem test_hyps_RingsRunStopAndTransmit :
    ((ringOn 2 3 1).Canonical ∧ (ringOn 2 3 1).Numbered ∧ (ringOn 2 3 1).May 1 (ringReg 2 3 8) ∧ (ringOn 2 3 1).May 0 (ringReg 2 3 8) ∧ host.May 0 (ringReg 1 15 8) ∧ nbit (host.reg (ringReg 1 15 8)).toNat 31 = false) ∧
    ((ringOn 0 15 1).Canonical ∧ (ringOn 0 15 1).powered = true ∧ (ringOn 0 15 1).ringTurn 0 16 = some 15 ∧ (ringOn 0 15 0).ringTurn 0 16 ≠ some 15 ∧ (ringOn 2 3 1).ringTurn 2 4 = some 3 ∧ (ringOn 2 3 0).ringTurn 2 4 ≠ some 3) ∧
    (descResult (slice (txd 60 0) 0 64) = 0 ∧ descResult (slice (txd 9212 5) 0 64) = 0 ∧ descResult (slice (txd 59 0) 0 64) = 1 ∧ descResult (slice (txd 9213 0) 0 64) = 1 ∧ descResult (slice (txd 60 6) 0 64) = 4 ∧
      descResult (slice (txd 60 8) 0 64) = 4 ∧ descResult ((ringOn 2 3 1).sramRead ((ringOn 2 3 1).ringDesc 2 3) 64) = 1) ∧
    (inCarr ((ringOn 2 3 1).ringDesc 2 3) 64 = false ∧
      let s : State := { (ringOn 2 3 1).setReg (ringReg 2 3 0) 0x10000000#32 with sram := memPut (fun _ => 0#8) [] sramBase (leBytes 8 (sramBase + 64) ++ leBytes 2 60 ++ List.replicate 54 0#8) }
      s.Canonical ∧ s.ringTurn 2 4 = some 3 ∧ s.ringDesc 2 3 = sramBase ∧ inCarr sramBase 64 = true ∧ inSram sramBase 64 = true ∧ descResult (s.carrRead sramBase 64) = 0 ∧ leNat (slice (s.carrRead sramBase 64) 0 8) = sramBase + 64 ∧
        inCarr (sramBase + 64) 60 = true ∧ descResult (({ s with sram := [] } : State).carrRead sramBase 64) = 1 ∧ inCarr (dramBase - 64) 64 = false) ∧
    (nbit ((ringOn 3 3 1).hw (ringReg 3 3 8)).toNat 31 = true ∧ nbit (host.hw (ringReg 3 3 8)).toNat 31 = false) := by
  simp only [canonical_iff, State.Numbered, may_iff]; and_intros <;> decide +kernel

/-! ### CAN, LIN and the gateway (13) -/

/-- Controller 2 enabled, error active, with an empty gateway pool of the units 0x10 to 0x20. -/
def canOn : State := ((host.setFs (CAN_CFG.a 2) [(CAN_CFG.en, 1)]).setF (CAN_STAT.a 2) CAN_STAT.state 0).setFs GW_POOL.a [(GW_POOL.lo, 0x10), (GW_POOL.hi, 0x20)]
/-- The same with words of the message RAM. -/
def canRam (l : List (Nat × Nat)) : State := l.foldl (fun s e => s.setMw e.1 e.2) canOn
/-- Buffer 63 transmits from unit 2, of one unit, and is pending or not. -/
def txBuf (w3 : Nat) : State := canRam [(canDesc 2 63 0, 3 * 2 ^ 30 + 2 * 2 ^ 12 + 1 * 2 ^ 6), (canDesc 2 63 3, w3)]
def sendingBuf : State := { txBuf (2 ^ 31) with can := [(2, { tx := some (0, 63) })] }
def sendingMsg : State := { canOn with can := [(2, { gwq := [5], tx := some (1, 5) })], msgs := [gwMsg] }
/-- Controller 2 in bus-off, or with its error counters as named. -/
def busOff (auto restart : Nat) (recov : Bool) : State :=
  { (((canOn.setF (CAN_STAT.a 2) CAN_STAT.state 2).setF (CAN_CFG.a 2) CAN_CFG.bo_auto auto).setF (CAN_CTRL.a 2) CAN_CTRL.restart restart) with can := if recov then [(2, { recov := true })] else [] }
def errs (tec rec' : Nat) (x : CanSt) : State := { canOn.setFs (CAN_STAT.a 2) [(CAN_STAT.tec, tec), (CAN_STAT.rec, rec')] with can := if x = {} then [] else [(2, x)] }
theorem test_hyps_CanControllersFollowTheirBus :
    ((txBuf 0).Canonical ∧ (txBuf 0).May 0 (CAN_BUF_CMD.a 2) ∧ (txBuf 0).txPend 2 63 = false ∧ (txBuf 0).isTxBuf 2 63 = true ∧ (txBuf 0).txFits 2 63 = true ∧ canOn.isTxBuf 2 63 = false ∧
      nbit (canOn.mw (canDesc 2 63 0)) 30 = false ∧ nbit ((txBuf 0).mw (canDesc 2 63 0)) 30 = true) ∧
    ((txBuf (2 ^ 31)).Canonical ∧ (txBuf (2 ^ 31)).txPend 2 63 = true ∧ ((txBuf (2 ^ 31)).canSt 2).tx = none ∧ (txBuf (2 ^ 31)).canLive 2 = true ∧ (txBuf (2 ^ 31)).canQuiet 2 = false ∧ (txBuf (2 ^ 31)).canReady 2 ≠ [] ∧
      canOn.canReady 2 = [] ∧ host.canLive 2 = false) ∧
    (sendingBuf.Canonical ∧ sendingBuf.powered = true ∧ (sendingBuf.canSt 2).tx = some (0, 63) ∧ sendingBuf.txPend 2 63 = true ∧ sendingBuf.canLive 2 = true) ∧
    (sendingMsg.Canonical ∧ (sendingMsg.canSt 2).tx = some (1, 5) ∧ sendingMsg.msgAt 5 = some gwMsg) ∧
    (∀ e ∈ [(247, 127), (119, 119), (120, 0), (0, 127), (248, 0)], (errs e.1 e.2 { tx := some (0, 63) }).Canonical ∧ (errs e.1 e.2 { tx := some (0, 63) }).canTec 2 = e.1 ∧ (errs e.1 e.2 { tx := some (0, 63) }).canRec 2 = e.2 ∧
      (errs e.1 e.2 { tx := some (0, 63) }).canLive 2 = true ∧ (errs e.1 e.2 { tx := some (0, 63) }).canQuiet 2 = false ∧ ((errs e.1 e.2 { tx := some (0, 63) }).canSt 2).tx.isSome = true ∧ ((errs e.1 e.2 {}).canSt 2).tx.isSome = false) ∧
    ((canOn.setF (CAN_CFG.a 2) CAN_CFG.listen 1).canQuiet 2 = true ∧ (canOn.setF (CAN_CFG.a 2) CAN_CFG.listen 1).canLive 2 = true) ∧
    (∀ auto ∈ [0, 1], ∀ restart ∈ [0, 1], ∀ recov ∈ [true, false], (busOff auto restart recov).Canonical ∧ (busOff auto restart recov).canState 2 = 2 ∧ (busOff auto restart recov).canOn 2 = true ∧
      (busOff auto restart recov).powered = true ∧ (busOff auto restart recov).on (CAN_CFG.a 2) CAN_CFG.bo_auto = (auto == 1) ∧ fldGet ((busOff auto restart recov).reg (CAN_CTRL.a 2)) CAN_CTRL.restart = restart ∧
      ((busOff auto restart recov).canSt 2).recov = recov ∧ (busOff auto restart recov).May 0 (CAN_CTRL.a 2) ∧ (busOff auto restart recov).May 0 (CAN_CFG.a 2)) ∧
    fldGet (host.reg (CAN_CFG.a 2)) CAN_CFG.en = 0 ∧ fldGet (sendingBuf.reg (CAN_CFG.a 2)) CAN_CFG.en = 1 := by
  simp only [canonical_iff, may_iff]; and_intros <;> decide +kernel
theorem test_bus_off : (after (.canBusError 2 2) (errs 248 0 { tx := some (0, 63) })).canState 2 = 2 ∧ (after (.canBusError 2 2) (errs 247 0 { tx := some (0, 63) })).canState 2 = 1 := by decide +kernel

/-- A classical frame of two bytes, and receive buffers 0 and 1 that accept its identifier, empty or full, for the gateway or not. -/
def rxm : CanRx := ⟨0, false, false, false, false, 0x123, 2, [1#8, 2#8], (0, 0, 0, 0), false, 0⟩
def rxBufs (gw w3a w3b : Nat) : State :=
  canRam [(canDesc 2 0 0, 2 * 2 ^ 30 + gw * 2 ^ 29 + 2 * 2 ^ 12 + 2 ^ 6), (canDesc 2 0 1, 0x123), (canDesc 2 0 2, 0x7ff), (canDesc 2 0 3, w3a), (canDesc 2 1 0, 2 * 2 ^ 30 + gw * 2 ^ 29 + 3 * 2 ^ 12 + 2 ^ 6), (canDesc 2 1 3, w3b)]
def gwFull (n : Nat) : State := { rxBufs 1 0 0 with inq := [((rxBufs 1 0 0).f (CAN_CFG.a 2) CAN_CFG.gw_seq, (List.range n).map (fun k => k))] }
def asleep (pn : Nat) : State := (canOn.setF (CAN_CFG.a 2) CAN_CFG.ignore 1).setF (CAN_STAT.a 2) CAN_STAT.pn_err pn
/-- FEN with a wake filter of controller 2 on, or with it off. -/
def wuf (en : Nat) : State :=
  ((((asleep 0).setF PWR_STAT.a PWR_STAT.state 2).setF (CAN_WUF_CFG.a 2) CAN_WUF_CFG.wuf_en en).setF (CAN_WUF_ID.a 2) CAN_WUF_ID.id 0x123).setF PWR_WAKE_EN.a PWR_WAKE_EN.en (2 ^ 6)
theorem test_hyps_ReceivedCanFramesAreStoredCountedOrHandedOn :
    (rxm.ok = true ∧ { rxm with data := [] }.ok = false ∧ { rxm with id := 2048 }.ok = false ∧ { rxm with ide := true, id := 2 ^ 29 - 1 }.ok = true ∧ { rxm with fmt := 2, data := List.replicate 2048 0#8 }.ok = true) ∧
    (canOn.Canonical ∧ canOn.canLive 2 = true ∧ canOn.canFmt 2 0 = true ∧ canOn.canFmt 2 1 = false ∧ (canOn.canSt 2).tx = none ∧ canOn.canQuiet 2 = false ∧ canOn.canRec 2 ≤ 127 ∧ (errs 0 128 {}).canRec 2 = 128 ∧
      (∀ b, b < 64 → canOn.rxMatch 2 b rxm = false) ∧ host.canOn 2 = false) ∧
    (∀ gw ∈ [0, 1], (rxBufs gw 0 0).Canonical ∧ (rxBufs gw 0 0).canLive 2 = true ∧ (rxBufs gw 0 0).rxMatch 2 0 rxm = true ∧ (rxBufs gw 0 0).rxMatch 2 1 rxm = true ∧ nbit ((rxBufs gw 0 0).mw (canDesc 2 0 3)) 31 = false ∧
      nbit ((rxBufs gw 0 0).mw (canDesc 2 0 0)) 29 = (gw == 1)) ∧
    ((rxBufs 0 (2 ^ 31) (2 ^ 31)).Canonical ∧ ∀ k, k < 64 → (rxBufs 0 (2 ^ 31) (2 ^ 31)).rxMatch 2 k rxm = true → nbit ((rxBufs 0 (2 ^ 31) (2 ^ 31)).mw (canDesc 2 k 3)) 31 = true) ∧
    (let s : State := { rxBufs 0 0 0 with can := [(2, { rel := some (0, 0, true) })] }; s.Canonical ∧ s.relNow 2 0 = some true ∧ s.relNow 2 1 = none) ∧
    (∀ n ∈ [255, 256], (gwFull n).Canonical ∧ ((gwFull n).inqOf ((gwFull n).f (CAN_CFG.a 2) CAN_CFG.gw_seq)).length = n ∧ (gwFull n).freeRun 0x20 (unitsOf 2) 0x10 0x10 = some 0x10) ∧
    { canOn with msgs := [⟨0x10, 0x10, 1, 1, 2, 0, 0⟩] }.freeRun 0x20 (unitsOf 2) 0x10 0x10 = none ∧
    (∀ pn ∈ [0, 30, 31], (asleep pn).Canonical ∧ (asleep pn).canOn 2 = true ∧ (asleep pn).canIgn 2 = true ∧ fldGet ((asleep pn).reg (CAN_STAT.a 2)) CAN_STAT.pn_err = pn ∧ (asleep pn).inFen = false) ∧
    (∀ en ∈ [0, 1], (wuf en).Canonical ∧ (wuf en).canOn 2 = true ∧ (wuf en).canIgn 2 = true ∧ (wuf en).wufHit 2 rxm = (en == 1) ∧ (wuf en).wakeEn 6 = true ∧ (wuf en).wispMasked 6 = false ∧ (wuf en).inFen = true ∧
      (wuf en).pwrPhase = 0 ∧ (wuf en).pwrState = 2 ∧ (wuf en).pwr.wakeStep = 0) := by
  simp only [canonical_iff]; and_intros <;> decide +kernel
theorem test_rx_stored : nbit ((after (.canFrameReceived 2 0 false false false false 0x123 2 [1#8, 2#8] 0 0 0 0 false 0) (rxBufs 0 (2 ^ 31) 0)).mw (canDesc 2 1 3)) 31 = true := by decide +kernel

/-- LIN controller 7 enabled, as responder or commander, with the words of identifier 5's entry. -/
def lin7 (cmd run w0 : Nat) : State :=
  (((((host.setFs (LIN_CFG.a 7) [(LIN_CFG.en, 1), (LIN_CFG.commander, cmd)]).setFs (LIN_SCHED.a 7) [(LIN_SCHED.run, run), (LIN_SCHED.unit, 1)]).setFs GW_POOL.a [(GW_POOL.lo, 0x10), (GW_POOL.hi, 0x20)]).setMw (linEnt 7 5 0) w0).setMw
    (unitOff 1) (10 * 2 ^ 16 + 5))
def muted (s : State) : State := (s.setF PAIR_STAT.a PAIR_STAT.state 1).setReg PAIR_BUS.a 0x80000000#32
theorem test_hyps_LinFramesFollowTheFrameTable :
    (∀ dir ∈ [0, 1, 2, 3], (lin7 0 0 (dir * 2 ^ 30 + 2 * 2 ^ 24)).Canonical ∧ (lin7 0 0 (dir * 2 ^ 30 + 2 * 2 ^ 24)).linOn 7 = true ∧ (lin7 0 0 (dir * 2 ^ 30 + 2 * 2 ^ 24)).on (LIN_CFG.a 7) LIN_CFG.commander = false ∧
      (lin7 0 0 (dir * 2 ^ 30 + 2 * 2 ^ 24)).busMuted 31 = false ∧ nbits ((lin7 0 0 (dir * 2 ^ 30 + 2 * 2 ^ 24)).mw (linEnt 7 5 0)) 31 30 = dir) ∧
    ((lin7 0 0 (2 * 2 ^ 30 + 2 ^ 28 + 2 ^ 24)).Canonical ∧ nbit ((lin7 0 0 (2 * 2 ^ 30 + 2 ^ 28 + 2 ^ 24)).mw (linEnt 7 5 0)) 28 = true ∧ (lin7 0 0 0).freeRun 0x20 (unitsOf 1) 0x10 0x10 = some 0x10 ∧ ((lin7 0 0 0).inqOf 0).length < 256) ∧
    (host.linOn 7 = false ∧ (lin7 1 1 0).on (LIN_CFG.a 7) LIN_CFG.commander = true ∧ (muted (lin7 0 0 (2 ^ 30))).Canonical ∧ (muted (lin7 0 0 (2 ^ 30))).linOn 7 = true ∧ (muted (lin7 0 0 (2 ^ 30))).busMuted 31 = true ∧
      nbits ((muted (lin7 0 0 (2 ^ 30))).mw (linEnt 7 5 0)) 31 30 = 1) ∧
    ((lin7 1 1 0).Canonical ∧ (lin7 1 1 0).linOn 7 = true ∧ (lin7 1 1 0).on (LIN_SCHED.a 7) LIN_SCHED.run = true ∧ ((lin7 1 1 0).linSt 7).next = none ∧ (lin7 1 0 0).on (LIN_SCHED.a 7) LIN_SCHED.run = false ∧
      0 ≤ tdiff (lin7 1 1 0).tim.wkt 0 ∧ ¬0 ≤ tdiff (lin7 1 1 0).tim.wkt 1 ∧ (muted (lin7 1 1 0)).busMuted 31 = true ∧ (lin7 1 1 0).busMuted 31 = false) ∧
    -- the rate of a header 14 % below and above the own, and beyond
    (let b := (lin7 0 0 0).linBaud 7
     b = 19200 ∧ 86 * b ≤ 100 * 16512 ∧ 100 * 21888 ≤ 114 * b ∧ 100 * 16511 < 86 * b ∧ 114 * b < 100 * 21889) ∧
    ((lin7 0 0 (2 * 2 ^ 30 + 2 ^ 24)).linCheck 7 5 [1#8] = 0xfe ∧ (lin7 0 0 0).linError 7 0x3c [0#8] 0xff 0 = 0 ∧ nbits ((lin7 0 0 0).mw (linEnt 7 0x3c 0)) 31 30 ≠ 1) := by
  simp only [canonical_iff]; and_intros <;> decide +kernel
theorem test_lin_header : fldGet ((after (.linHeaderReceived 7 5 [1#8, 2#8] 0xfc 0 11 (BitVec.ofNat 16 ((lin7 0 0 0).linBaud 7))) (lin7 0 0 (2 * 2 ^ 30 + 2 * 2 ^ 24))).reg (LIN_STAT.a 7)) LIN_STAT.cur_id = 5 := by decide +kernel

/-- Batch 31 with `count` messages since tick 0, and `k` sealed frames of it. -/
def batched (count now k : Nat) : State :=
  { host.setWords gwBatch 0 [0, 0, 0, 0, 0, 0, 0, 0] with
    batch := [(31, { cfg := [0, 0x100, 0, 0, 0, 0, 0, 0], acf := [1#8], count := count, first := 0 })], now := now, sealedQ := List.replicate k ⟨31, [1#8], []⟩ }
theorem test_hyps_GatewayBatchesFillSealAndEnter :
    (let l := ((batched 1 0 0).batchOf 31).maxLat
     (∀ k ∈ [0, 1], (batched 1 (l + 1) k).Canonical ∧ (batched 1 (l + 1) k).powered = true ∧ ((batched 1 (l + 1) k).batchOf 31).first + ((batched 1 (l + 1) k).batchOf 31).maxLat < (batched 1 (l + 1) k).now ∧ (batched 1 (l + 1) k).sealedOf 31 < 2) ∧
     (batched 1 l 0).now ≤ ((batched 1 l 0).batchOf 31).first + ((batched 1 l 0).batchOf 31).maxLat ∧ 2 ≤ (batched 1 l 2).sealedOf 31) ∧
    (host.sealedQ = [] ∧ (batched 0 0 1).sealedQ = ⟨31, [1#8], []⟩ :: []) ∧
    ((batched 0 0 0).Canonical ∧ (batched 0 0 0).MayOrder 0 gwBatch ∧ ((batched 0 0 0).batchOf 31).count = 0 ∧ (batched 0 0 0).sealedOf 31 = 0 ∧ ((batched 1 0 0).batchOf 31).count ≠ 0 ∧ host.MayOrder 0 gwRxStr) ∧
    (host.May 0 GW_POOL.a ∧ host.msgs = [] ∧ sendingMsg.May 0 GW_POOL.a ∧ sendingMsg.msgs ≠ []) := by
  simp only [canonical_iff, mayOrder_iff, may_iff]; and_intros <;> decide +kernel

/-! ### Carr (14) -/

/-- Carr in a state with cores 0, 1, 2 in their places, its comparator in a mode. -/
def carr (st mode : Nat) (k : CarrSt) : State :=
  { host.setFs CPX_STAT.a [(CPX_STAT.state, st), (CPX_STAT.mode_active, mode), (CPX_STAT.pos0, 0), (CPX_STAT.pos1, 1), (CPX_STAT.pos2, 2)] with carr := k }
def tx (kind : Fin 4) (op : BitVec 5) (size : BitVec 4) (strobe : BitVec 8) (addr : BitVec 48) : CarrTx := ⟨kind, op, 0#8, size, strobe, addr, 0x0807060504030201#64⟩
/-- Two transactions that differ in a lane that their strobe leaves out, and one that differs in one that it names; a DRAM clause needs a part that is fitted. -/
theorem test_hyps_CarrTransactionsAreVotedAndReleased :
    (host.Canonical ∧ host.carrRuns = false) ∧
    (∀ st ∈ [1, 2, 3], ∀ mode ∈ [0, 1], (carr st mode {}).Canonical ∧ (carr st mode {}).carrRuns = true ∧ (carr st mode {}).cpxState = st ∧ fldGet ((carr st mode {}).reg CPX_STAT.a) CPX_STAT.mode_active = mode) ∧
    (let a := tx 2 0 3 1 0x10000000; let b := { tx 2 0 3 1 0x10000000 with data := 0xff01#64 }; let c := tx 2 0 3 3 0x10000000; effOf a = effOf b ∧ effOf a ≠ effOf c) ∧
    (effOf (tx 0 0 3 0 0) ≠ effOf (tx 0 0 3 0 8) ∧ effOf (tx 0 0 3 0 0) ≠ effOf (tx 1 0 3 0 0) ∧ effOf (tx 0 0 3 0 8) ≠ effOf (tx 1 0 3 0 0) ∧ fldGet (host.reg CPX_MM.a) CPX_MM.valid = 0) ∧
    (carrRegion 0x10000000 8 = .sram ∧ carrRegion 0x103FFFF8 8 = .sram ∧ carrRegion 0x103FFFFC 8 = .none ∧ carrRegion dramBase 8 = .dram ∧ carrRegion (dramBase + 0x6ffffff8) 8 = .dram ∧ carrRegion (dramBase + 0x1c0000000) 8 = .none ∧ regionLets .none 0 8 = false ∧ regionLets .rom 2 8 = false ∧ regionLets .rom 0 8 = true) ∧
    ((carr 1 0 { lr := some 0x10000008 }).carr.lr = some (tx 3 3 3 0xff 0x10000008).addr.toNat ∧ (carr 1 0 {}).carr.lr ≠ some 0x10000008 ∧ (∃ y, amoResult 0 64 (leNat (host.sramRead 0x10000000 8)) 5 = some y)) := by
  simp only [canonical_iff]
  refine ⟨by decide +kernel, by decide +kernel, by decide +kernel, by decide +kernel, ?_, by decide +kernel, by decide +kernel, ⟨_, rfl⟩⟩
  have dram (o : Nat) : inDram (dramBase + o) 8 = decide (o + 8 ≤ Config.memUsable) := by unfold inDram; rw [decide_eq_true (by omega), Bool.true_and]; exact decide_eq_decide.mpr (by omega)
  have h0 := dram 0
  have h1 := dram 0x6ffffff8
  have h2 := dram 0x1c0000000
  rw [decide_eq_true (by unfold Config.memUsable; omega)] at h0 h1
  rw [decide_eq_false (by unfold Config.memUsable; omega)] at h2
  refine ⟨by decide +kernel, by decide +kernel, ?_, ?_, ?_, ?_, by decide +kernel⟩
  · simp [carrRegion, inSram, inDram, dramBase, sramBase, sramEnd]
  · simp [dramBase] at h0; simp [carrRegion, h0, inSram, dramBase, sramBase, sramEnd]
  · simp [dramBase] at h1; simp [carrRegion, h1, inSram, dramBase, sramBase, sramEnd]
  · simp [dramBase] at h2; simp [carrRegion, h2, inSram, dramBase, sramBase, sramEnd]
theorem test_odd_core : fldGet ((after (.carrTransactionCompare (tx 0 0 3 0 0) (tx 0 0 3 0 8) (tx 0 0 3 0 0) 0 0 0) (carr 1 0 {})).reg CPX_STAT.a) CPX_STAT.odd = 1 := by decide +kernel

/-- The words of a CHKPT, all 0 but the last. -/
def words81 (v : BitVec 64) : List (BitVec 64) := List.replicate 80 0#64 ++ [v]
theorem crc64_zeros (n : Nat) : crc64 0#64 (List.replicate n 0#8) = 0#64 := by
  induction n with
  | zero => rfl
  | succ n ih => rw [List.replicate_succ]; exact (congrArg (fun c => crc64 c (List.replicate n 0#8)) (by decide +kernel : crc64Byte 0#64 0#8 = 0#64)).trans ih
theorem chkptSig_words81 (v : BitVec 64) : chkptSig (words81 v) = (crc64 0#64 (leBytes 8 v.toNat)).toNat := by
  have h : ((words81 v).map (fun w => leBytes 8 w.toNat)).flatten = List.replicate 640 0#8 ++ leBytes 8 v.toNat := by
    unfold words81
    rw [List.map_append, List.flatten_append, List.map_replicate, List.map_singleton, List.flatten_singleton,
      show leBytes 8 (0#64).toNat = List.replicate 8 0#8 from rfl, List.flatten_replicate_replicate]
  unfold chkptSig
  rw [h, show crc64 0#64 (List.replicate 640 0#8 ++ leBytes 8 v.toNat) = crc64 (crc64 0#64 (List.replicate 640 0#8)) (leBytes 8 v.toNat) from List.foldl_append, crc64_zeros]
def trained (ok temp : Nat) (now : Nat) : State :=
  { ((host.setFs MEM_TRAIN_CFG.a [(MEM_TRAIN_CFG.train_en, 1), (MEM_TRAIN_CFG.interval, 1000), (MEM_TRAIN_CFG.temp_step, 5)]).setFs MEM_STAT.a [(MEM_STAT.self_refresh, 0), (MEM_STAT.link_ok, ok)]) with
    carr := { trainAt := some 0, trainTemp := temp }, now := now }
theorem test_hyps_CarrResynchronisesTestsAndTrains :
    (∀ sigs ∈ [[7, 7, 7], [1, 7, 7], [7, 1, 7], [7, 7, 1], [1, 2, 3]], (carr 1 1 { sigs := sigs }).Canonical ∧ (carr 1 1 { sigs := sigs }).Numbered ∧ (carr 1 1 { sigs := sigs }).carrRuns = true ∧
      (carr 1 1 { sigs := sigs }).cpxState = 1 ∧ ({ carr 1 1 { sigs := sigs } with now := 214 } : State).carr.winAt + ({ carr 1 1 { sigs := sigs } with now := 214 } : State).carr.winLen ≤ ({ carr 1 1 { sigs := sigs } with now := 214 } : State).cpxCycle ∧
      ({ carr 1 1 { sigs := sigs } with now := 213 } : State).cpxCycle < 1024 ∧ fldGet ((carr 1 1 { sigs := sigs }).reg CPX_STAT.a) CPX_STAT.mode_active = 1 ∧ (carr 1 1 { sigs := sigs }).carr.sigs = sigs) ∧
    (∀ now ∈ [msTicks 10, msTicks 10 - 1], let s : State := { carr 1 0 {} with now := now }; s.Canonical ∧ s.carrRuns = true ∧ (s.carr.injAt + msTicks 10 ≤ s.now ↔ now = msTicks 10)) ∧
    ((words81 0).length = 81 ∧ chkptSig (words81 0) ≠ chkptSig (words81 1) ∧ ∀ p, p < 3 → (carr 1 0 {}).posCore p < (carr 1 0 {}).carr.chk.length) ∧
    (∀ t ∈ [true, false], (carr 2 0 { tested := t }).Canonical ∧ (carr 2 0 { tested := t }).Numbered ∧ (carr 2 0 { tested := t }).powered = true ∧ (carr 2 0 { tested := t }).cpxState = 2 ∧ (carr 2 0 { tested := t }).carr.tested = t) ∧
    (host.May 0 CPX_DOORBELL.a ∧ (0x80000000#32).getLsbD 31 = true ∧ (∀ k, k < 31 → (0x80000000#32).getLsbD k = false) ∧ fldGet (host.reg (EVT_SRC_STAT.a 52)) EVT_SRC_STAT.ff_valid = 0) ∧
    ((trained 1 20 0).Canonical ∧ (trained 1 20 0).powered = true ∧ fldGet ((trained 1 20 0).reg MEM_STAT.a) MEM_STAT.self_refresh = 0 ∧ (trained 1 20 0).trainDue 24 = false ∧ (trained 1 20 0).trainDue 25 = true ∧ (trained 1 20 0).trainDue 15 = true ∧
      (trained 1 20 (msTicks 1000)).trainDue 20 = true ∧ (trained 1 20 (msTicks 1000 - 1)).trainDue 20 = false ∧ (trained 0 20 (msTicks 10)).trainDue 20 = true ∧ (trained 0 20 (msTicks 10 - 1)).trainDue 20 = false) ∧
    ((trained 1 20 0).setF QM_PEAT_STAT.a QM_PEAT_STAT.link_fault 1).Canonical ∧ fldGet ((trained 1 20 0).reg QM_PEAT_STAT.a) QM_PEAT_STAT.link_fault = 0 ∧
    ((trained 1 20 0).setF MEM_SCRUB_CFG.a MEM_SCRUB_CFG.scrub_en 1).on MEM_SCRUB_CFG.a MEM_SCRUB_CFG.scrub_en = true ∧ ((trained 1 20 0).setF MEM_SCRUB_CFG.a MEM_SCRUB_CFG.scrub_en 0).on MEM_SCRUB_CFG.a MEM_SCRUB_CFG.scrub_en = false ∧
    fldGet (host.reg MEM_ECC_ADDR.a) MEM_ECC_ADDR.valid = 0 := by
  simp only [canonical_iff, State.Numbered, may_iff, chkptSig_words81]; and_intros <;> decide +kernel
theorem test_resync : (after .resyncStall (carr 2 0 { tested := true })).cpxState = 1 := by decide +kernel

/-! ### FRER and the pair (15) -/

/-- Stream 1023 with recovery and the latent test on or off, its record, at a tick. -/
def stream (rcv lat : Nat) (x : FreSt) (now : Nat) : State := { host.setFs (FRE_STR_CFG.a 1023) [(FRE_STR_CFG.rcv_en, rcv), (FRE_STR_CFG.lat_en, lat), (FRE_STR_CFG.paths, 2), (FRE_STR_CFG.lat_diff, 3)] with fre := [(1023, x)], now := now }
def seen : FreSt := { lastPass := some 10 }
theorem test_hyps_SilentStreamsAreReset :
    (let d := msTicks (max 1 (host.f FRE_CFG.a FRE_CFG.reset_ms))
     (stream 1 0 seen (11 + d)).Canonical ∧ (stream 1 0 seen (11 + d)).powered = true ∧ ((stream 1 0 seen (11 + d)).fr 1023).lastPass = some 10 ∧ (stream 1 0 seen (11 + d)).on (FRE_STR_CFG.a 1023) FRE_STR_CFG.rcv_en = true ∧
     10 + d < (stream 1 0 seen (11 + d)).now ∧ (stream 1 0 seen (10 + d)).now ≤ 10 + d ∧ (stream 0 0 seen (11 + d)).on (FRE_STR_CFG.a 1023) FRE_STR_CFG.rcv_en = false) ∧ (host.fr 1023).lastPass = none ∧
    (host.May 0 (FRE_STR_CFG.a 1023) ∧ fldGet (host.reg (FRE_STR_CFG.a 1023)) FRE_STR_CFG.rcv_en = 0 ∧ fldGet (fldSet 0#32 FRE_STR_CFG.rcv_en 1) FRE_STR_CFG.rcv_en = 1) := by
  simp only [canonical_iff, may_iff]; and_intros <;> decide +kernel

/-- Four passed, and one or none discarded: a difference of 3 or 4. -/
def counted (passed discarded : Nat) : FreSt := { cnt := [passed, discarded, 0, 0, 0, 0, 0, 0] }
theorem test_hyps_FrerStreamsTestAndCount :
    (let p := msTicks (max 1 (host.f FRE_CFG.a FRE_CFG.lat_period)); let o := 1023 * p / 1024
     (∀ d ∈ [0, 1], (stream 0 1 (counted 4 d) o).Canonical ∧ (stream 0 1 (counted 4 d) o).powered = true ∧ (stream 0 1 (counted 4 d) o).on (FRE_STR_CFG.a 1023) FRE_STR_CFG.lat_en = true ∧
       testDue p o ((stream 0 1 (counted 4 d) o).fr 1023).testAt (stream 0 1 (counted 4 d) o).now = true ∧ (stream 0 1 (counted 4 d) o).f (FRE_STR_CFG.a 1023) FRE_STR_CFG.lat_diff = 3 ∧
       max 2 ((stream 0 1 (counted 4 d) o).f (FRE_STR_CFG.a 1023) FRE_STR_CFG.paths) = 2 ∧ ((counted 4 d).cnt.getD 0 0 : Int) - (counted 4 d).cnt.getD 1 0 = 4 - d) ∧
     (let x : FreSt := { counted 4 0 with was := [7, 4, 0], wasAt := o }; (stream 0 1 x o).Canonical ∧ ((stream 0 1 x o).fr 1023).wasAt = (stream 0 1 x o).now ∧ (counted 4 0).wasAt ≠ o) ∧
     testDue p o ((stream 0 1 (counted 4 0) (o - 1)).fr 1023).testAt (o - 1) = false ∧ (stream 0 0 (counted 4 0) o).on (FRE_STR_CFG.a 1023) FRE_STR_CFG.lat_en = false) ∧
    (let e := msTicks (1000 * max 1 (host.f FRE_LAT_RESET.a FRE_LAT_RESET.lat_reset)); (stream 0 0 (counted 4 0) e).Canonical ∧ e ≤ (stream 0 0 (counted 4 0) e).now ∧ (stream 0 0 (counted 4 0) (e - 1)).now < e) ∧
    host.MayAsk 0 freScnt ∧ 1024 ≤ (1024#16).toNat := by
  simp only [canonical_iff, mayAsk_iff]; and_intros <;> decide +kernel

/-- The unit in a state, unit A, preferred or not, with its paths' health, roles and bookkeeping, at a tick. -/
def pairIn (st pref pin frame roles : Nat) (x : PairSt) (now : Nat) : State :=
  { ((host.setFs PAIR_CFG.a [(PAIR_CFG.pair_en, if st = 0 then 0 else 1), (PAIR_CFG.unit, 0), (PAIR_CFG.pref, 1 - pref), (PAIR_CFG.revert_en, 1)]).setFs PAIR_STAT.a
      [(PAIR_STAT.state, st), (PAIR_STAT.pin_ok, pin), (PAIR_STAT.frame_ok, frame), (PAIR_STAT.roles, roles), (PAIR_STAT.partner, 2)]) with pair := x, now := now }
def unfit (s : State) : State := s.setF PAIR_STAT.a PAIR_STAT.st_failed 1
theorem test_hyps_HeartbeatsAndPathsMoveTheUnit :
    (∀ st ∈ [0, 1, 2, 3], (pairIn st 1 0 0 5 {} 0).Canonical ∧ (pairIn st 1 0 0 5 {} 0).May 0 PAIR_CFG.a ∧ (pairIn st 1 0 0 5 {} 0).powered = true ∧ (pairIn st 1 0 0 5 {} 0).pairState = st ∧ (pairIn st 1 0 0 5 {} 0).pairRoles = 5 ∧
      fldGet ((pairIn st 1 0 0 5 {} 0).reg PAIR_CFG.a) PAIR_CFG.pair_en = (if st = 0 then 0 else 1) ∧ (pairIn st 1 0 0 5 {} 0).pair.hbAt ≤ (pairIn st 1 0 0 5 {} 0).now ∧ (pairIn st 1 0 0 5 {} 0).pairFit = true ∧
      (pairIn st 1 0 0 5 {} 0).f PAIR_ROLE.a PAIR_ROLE.set_en = 0 ∧ nbit ((pairIn st 1 0 0 5 {} 0).hw PAIR_FIT_HI.a).toNat 25 = false ∧ (pairIn st 1 0 0 5 {} 0).preferred = true ∧ (pairIn st 0 0 0 5 {} 0).preferred = false) ∧
    ((pairIn 2 1 0 0 0 { hbAt := 1 } 0).now < (pairIn 2 1 0 0 0 { hbAt := 1 } 0).pair.hbAt ∧ (unfit (pairIn 2 1 0 0 0 {} 0)).pairFit = false ∧ (unfit (pairIn 2 1 0 0 0 {} 0)).Canonical) ∧
    (∀ n ∈ [0, 1], (pairIn 2 1 1 0 0 { unfit := [n, 0] } 0).Canonical ∧ (pairIn 2 1 1 0 0 { unfit := [n, 0] } 0).pair.unfit.getD 0 0 = n ∧ 0 < (pairIn 2 1 1 0 0 { unfit := [n, 0] } 0).pair.unfit.length) ∧
    (let e := 3 * host.pairTicks
     (∀ st ∈ [2, 3], ∀ other ∈ [0, 1], (pairIn st 1 1 other 0 {} (e + 1)).Canonical ∧ (pairIn st 1 1 other 0 {} (e + 1)).pathOk 0 = true ∧ (pairIn st 1 1 other 0 {} (e + 1)).pathOk (1 - 0) = (other == 1) ∧
       (pairIn st 1 1 other 0 {} (e + 1)).pathEnd 0 < (pairIn st 1 1 other 0 {} (e + 1)).now) ∧ (pairIn 2 1 1 0 0 {} e).now ≤ (pairIn 2 1 1 0 0 {} e).pathEnd 0) ∧
    (∀ g ∈ [true, false], (pairIn 2 1 1 0 2 { busWant := some g } 0).Canonical ∧ (pairIn 2 1 1 0 2 { busWant := some g } 0).pair.busWant = some g ∧ nbit (pairIn 2 1 1 0 2 { busWant := some g } 0).pairRoles 1 = true) ∧
    (let s := (pairIn 2 1 1 0 2 { busWant := some false } 0).setFs PAIR_ROLE.a [(PAIR_ROLE.set_en, 2)]; s.Canonical ∧ nbit (s.f PAIR_ROLE.a PAIR_ROLE.set_en) 1 = true) ∧
    (let w := msTicks (host.f PAIR_TIMING.a PAIR_TIMING.startup_wait)
     (∀ heard ∈ [true, false], (pairIn 1 0 0 0 0 { heard := heard } w).Canonical ∧ (pairIn 1 0 0 0 0 { heard := heard } w).pair.since + w ≤ (pairIn 1 0 0 0 0 { heard := heard } w).now ∧ (pairIn 1 0 0 0 0 { heard := heard } w).pairFit = true ∧
       (pairIn 1 0 0 0 0 { heard := heard } w).preferred = false ∧ (pairIn 1 0 0 0 0 { heard := heard } w).pair.peerFit = true) ∧ (w ≠ 0 → (pairIn 1 0 0 0 0 {} (w - 1)).now < w)) := by
  simp only [canonical_iff, may_iff]; and_intros <;> decide +kernel
theorem test_failover : (after (.pathTimeout 0) (pairIn 2 1 1 0 0 {} (3 * host.pairTicks + 1))).pairState = 3 ∧ (after (.pathTimeout 0) (pairIn 2 1 1 0 0 {} (3 * host.pairTicks))).pairState = 2 := by decide +kernel

theorem test_hyps_HandBacksSelfTestsAndReports :
    (let h := msTicks (host.f PAIR_TIMING.a PAIR_TIMING.hold_off)
     (pairIn 3 0 1 1 7 { stby := some 0 } h).Canonical ∧ (pairIn 3 0 1 1 7 { stby := some 0 } h).pairState = 3 ∧ (pairIn 3 0 1 1 7 { stby := some 0 } h).on PAIR_CFG.a PAIR_CFG.revert_en = true ∧
       (pairIn 3 0 1 1 7 { stby := some 0 } h).preferred = false ∧ (pairIn 3 0 1 1 7 { stby := some 0 } h).pair.stby = some 0 ∧ 0 + h ≤ (pairIn 3 0 1 1 7 { stby := some 0 } h).now ∧ (pairIn 3 0 1 1 7 { stby := some 0 } h).pair.ann = none ∧
       (pairIn 3 0 1 1 7 { stby := some 0 } h).May 0 PAIR_CTRL.a) ∧
    (∀ ok ∈ [true, false], (pairIn 3 0 1 1 7 { ann := some 0, annOk := ok } 0).Canonical ∧ (pairIn 3 0 1 1 7 { ann := some 0, annOk := ok } 0).pair.ann = some 0 ∧ (pairIn 3 0 1 1 7 { ann := some 0, annOk := ok } 0).pair.annOk = ok ∧
      tdiff 0 (pairIn 3 0 1 1 7 { ann := some 0, annOk := ok } 0).tim.wkt < (((pairIn 3 0 1 1 7 { ann := some 0, annOk := ok } 0).pairTicks * 4 * nsU : Nat) : Int)) ∧
    ¬tdiff (host.pairTicks * 4 * nsU) host.tim.wkt < ((host.pairTicks * 4 * nsU : Nat) : Int) ∧
    (let s := pairIn 3 0 1 0 5 { ann := some 0, annOk := true } 0; s.Canonical ∧ s.powered = true ∧ s.pathOk 0 = true ∧ s.now < s.pathEnd 0 ∧ s.preferred = false ∧ tdiff 0 s.tim.wkt ≤ 0 ∧ s.f PAIR_ROLE.a PAIR_ROLE.set_en = 0) ∧
    (let s := pairIn 2 1 0 1 0 { echo := some 0 } 0; s.Canonical ∧ s.pathOk 1 = true ∧ s.now < s.pathEnd 1 ∧ s.preferred = true ∧ s.pairFit = true ∧ s.pair.echo = some 0) ∧
    (let s := (pairIn 2 1 0 1 0 {} 0).setFs PAIR_ST_CFG.a [(PAIR_ST_CFG.st_en, 1), (PAIR_ST_CFG.lb_ports, 2 ^ 19)]
     s.Canonical ∧ s.on PAIR_ST_CFG.a PAIR_ST_CFG.st_en = true ∧ s.pairState = 2 ∧ s.itemOk 0x400 = true ∧ s.itemOk 19 = true ∧ s.itemOk 18 = false ∧ s.itemOk 0x117 = true ∧ s.itemOk 0x118 = false ∧ s.itemOk 0x307 = true ∧ s.itemDue 0x400 = true ∧ s.itemDue 18 = false ∧ (∃ j ∈ stItems, s.itemOk j = true ∧ j ≠ 0x400) ∧
       (let u : State := { s with pair := { s.pair with done := stItems.tail } }; u.Canonical ∧ u.itemDue 0x400 = true ∧ u.itemDue 19 = false ∧ ∀ j ∈ stItems, u.itemOk j = true → j = 0x400 ∨ j ∈ u.pair.done) ∧
       ({ s with pair := { s.pair with cycAt := 1 } } : State).itemDue 0x400 = false) ∧
    (∀ now ∈ [msTicks 30, msTicks 30 - 1], (pairIn 2 1 0 1 0 { repLast := some 0, repAt := now } now).Canonical ∧ (pairIn 2 1 0 1 0 { repLast := some 0, repAt := now } now).pair.repAt ≤ now ∧
      fldGet ((pairIn 2 1 0 1 0 { repLast := some 0, repAt := now } now).reg PAIR_STAT.a) PAIR_STAT.partner = 2 ∧ (pairIn 2 1 0 1 0 { repLast := some 0, repAt := now } now).pair.repLast = some 0 ∧
      (0 + msTicks 30 ≤ (pairIn 2 1 0 1 0 { repLast := some 0, repAt := now } now).now ↔ now = msTicks 30)) ∧ (pairIn 2 1 0 1 0 { repAt := 1 } 0).now < 1 := by
  simp only [canonical_iff, may_iff]; and_intros <;> decide +kernel

/-! ### Power (16) -/

/-- A state of PWR_STAT with wake sources enabled, the power bookkeeping, at a tick. -/
def power (st ph en : Nat) (p : PwrSt) (now : Nat) : State :=
  { (host.setFs PWR_STAT.a [(PWR_STAT.state, st), (PWR_STAT.phase, ph)]).setF PWR_WAKE_EN.a PWR_WAKE_EN.en en with pwr := p, now := now }
/-- The same with a Maker on JTAG. -/
def withMaker (s : State) : State := { s with sess := [(0, { role := 2 }), (2, { role := 3 })] }
/-- A watch controller whose prescaler does not divide by 5. -/
def badWatch : State := ((power 0 0 0x7fff {} 0).setF (CAN_WUF_CFG.a 2) CAN_WUF_CFG.wuf_en 1).setF (CAN_NBT.a 2) CAN_NBT.brp 3
theorem test_hyps_RefusedSleepRequestsSayWhy :
    (∀ s ∈ [power 0 0 0 {} 0, withMaker (power 0 0 1 {} 0)], s.Canonical ∧ s.May 0 PWR_CTRL.a ∧ s.pwrPhase = 0 ∧ s.aonBad = [] ∧ fldGet (s.reg (EVT_SRC_STAT.a 55)) EVT_SRC_STAT.ff_valid = 0) ∧
    (power 0 0 0 {} 0).f PWR_WAKE_EN.a PWR_WAKE_EN.en = 0 ∧ (withMaker (power 0 0 1 {} 0)).f PWR_WAKE_EN.a PWR_WAKE_EN.en ≠ 0 ∧ ((withMaker (power 0 0 1 {} 0)).sessOf 2).role = 3 := by
  simp only [canonical_iff, may_iff]; and_intros <;> decide +kernel

/-- PREPARE that began at tick 0. -/
def preparing (now : Nat) : State := (power 0 1 0x7fff {} now).setF PWR_PREP_CFG.a PWR_PREP_CFG.prep_timeout 0
/-- Wisp masks source 3. -/
def masks (s : State) : State := s.setF (PWR_WISP_STAT.a 3) PWR_WISP_STAT.masked_now 1
/-- Filter length 0 or 255 on pin 3. -/
def filtered (n : Nat) : State := (power 1 0 0x7fff {} 0).setFs (PWR_WAKEIN_CFG.a 3) [(PWR_WAKEIN_CFG.active_high, 1), (PWR_WAKEIN_CFG.filt, n)]
/-- PARTIAL with ports 20 to 23 asleep and the detectors of ports 20 and 23 on. -/
def partialTen : State := ((power 1 0 0x7fff {} 0).setF PWR_PART_PORTS.a PWR_PART_PORTS.ports 0xf00000).setF PWR_TC10_CFG.a PWR_TC10_CFG.det_en 9
/-- A park header of sequence 0 with its CRC-32, computed by another program. -/
def parkHead : List Byte := [0x48#8, 0x5a#8, 0x50#8, 0x31#8] ++ List.replicate 56 0#8 ++ leBytes 4 0x96bc2178
def resuming (parked : Nat) (good : Bool) : State :=
  { (power 0 0 0 { wakeStep := 4 } 0).setF PWR_STAT.a PWR_STAT.parked parked with dram := if good then memPut (fun _ => 0#8) [] 0 parkHead else [] }
/-- Wisp: windows that end at tick 100, the latest of source 14; its count; the tick. -/
def window (count thr mask : Nat) (now : Nat) : State :=
  ((power 0 0 0x7fff { wisp := [(14, 100)] } now).setF (PWR_WISP_STAT.a 14) PWR_WISP_STAT.count count).setFs PWR_WISP_CFG.a [(PWR_WISP_CFG.wisp_thr, thr), (PWR_WISP_CFG.mask_en, mask)]
def backoff (m now : Nat) : State := (power 0 0 0 { maskEnd := [(14, 100)] } now).setF (PWR_WISP_STAT.a 14) PWR_WISP_STAT.masked_now m
theorem test_hyps_SleepIsEnteredAndLeft :
    (∀ ph ∈ [0, 1], (power 0 ph 0x7fff {} 0).Canonical ∧ (power 0 ph 0x7fff {} 0).Numbered ∧ (power 0 ph 0x7fff {} 0).May 0 PWR_CTRL.a ∧ (power 0 ph 0x7fff {} 0).pwrPhase = ph) ∧
    (¬((power 0 0 0x7fff {} 0).f PWR_WAKE_EN.a PWR_WAKE_EN.en = 0 ∨ ((power 0 0 0x7fff {} 0).sessOf 2).role = 3 ∨ (power 0 0 0x7fff {} 0).aonBad ≠ []) ∧ (∀ k, k < 4 → nbit (power 0 0 0x7fff {} 0).pwr.pins k = false)) ∧
    (badWatch.Canonical ∧ badWatch.May 0 PWR_CTRL.a ∧ badWatch.aonBad = [2] ∧ badWatch.pwrPhase = 0) ∧
    (let s := power 0 0 0x7fff { pins := 8 } 0; s.Canonical ∧ s.May 0 PWR_CTRL.a ∧ nbit s.pwr.pins 3 = true ∧ s.wakeEn 3 = true ∧ s.wispMasked 3 = false ∧ s.aonBad = []) ∧
    (∀ k ∈ [0, 14], (power 0 1 0x7fff {} 0).wakeEn k = true ∧ (power 0 1 0x7fff {} 0).wispMasked k = false ∧ (power 0 1 0x2001 {} 0).wakeEn 14 = false ∧ (power 0 1 0x2001 {} 0).May 0 PWR_CTRL.a) ∧
    ((preparing 250000).Canonical ∧ (preparing 250000).pwrPhase = 1 ∧ (preparing 250000).pwr.prepAt + msTicks (max 1 ((preparing 250000).f PWR_PREP_CFG.a PWR_PREP_CFG.prep_timeout)) ≤ (preparing 250000).now ∧
      ¬(preparing 249999).pwr.prepAt + msTicks (max 1 ((preparing 249999).f PWR_PREP_CFG.a PWR_PREP_CFG.prep_timeout)) ≤ (preparing 249999).now) ∧
    (∀ late ∈ [none, some 14], (power 0 2 0x7fff { lateSrc := late } 0).Canonical ∧ (power 0 2 0x7fff { lateSrc := late } 0).Numbered ∧ (power 0 2 0x7fff { lateSrc := late } 0).pwrPhase = 2 ∧ (power 0 2 0x7fff { lateSrc := late } 0).pwr.lateSrc = late) ∧
    (∀ n ∈ [0, 255], (filtered n).Canonical ∧ (filtered n).Numbered ∧ true = (filtered n).on (PWR_WAKEIN_CFG.a 3) PWR_WAKEIN_CFG.active_high ∧ (filtered n).pwrState = 1 ∧ (filtered n).pwrPhase = 0) ∧
    (16 * max 1 ((filtered 0).f (PWR_WAKEIN_CFG.a 3) PWR_WAKEIN_CFG.filt) = (16#16).toNat ∧ 16 * max 1 ((filtered 255).f (PWR_WAKEIN_CFG.a 3) PWR_WAKEIN_CFG.filt) = (4080#16).toNat) ∧
    ((masks (power 2 0 0x7fff {} 0)).wakeEn 3 = true ∧ (masks (power 2 0 0x7fff {} 0)).wispMasked 3 = true ∧ (masks (power 2 0 0x7fff {} 0)).Canonical ∧ ¬((masks (power 2 0 0x7fff {} 0)).pwrState = 0 ∧ (masks (power 2 0 0x7fff {} 0)).pwrPhase = 0)) ∧
    (partialTen.Canonical ∧ partialTen.Numbered ∧ partialTen.powered = true ∧ (∀ k, k < 4 → partialTen.portAsleep (20 + k) = true) ∧ nbit (partialTen.f PWR_TC10_CFG.a PWR_TC10_CFG.det_en) 3 = true ∧
      nbit (partialTen.f PWR_TC10_CFG.a PWR_TC10_CFG.det_en) 2 = false ∧ host.portAsleep 23 = false ∧ (power 2 0 0 {} 0).powered = false) ∧
    (∀ st ∈ [0, 1, 2, 3, 4], (power 2 0 0x7fff { wakeStep := st } 0).Canonical ∧ (power 2 0 0x7fff { wakeStep := st } 0).Numbered ∧ (power 2 0 0x7fff { wakeStep := st } 0).pwr.wakeStep = st ∧ (power 2 0 0x7fff { wakeStep := st } 0).inFen = true ∧
      (power 2 0 0x7fff { wakeStep := st } 0).pwrState = 2 ∧ (power 2 0 0x7fff { wakeStep := st } 0).pwrPhase = 0) ∧
    ((power 2 0 0x7fff { timerHit := true } 0).Canonical ∧ (power 2 0 0x7fff { timerHit := true } 0).inFen = true ∧ (power 2 0 0x7fff { timerHit := true } 0).pwr.timerHit = true) ∧
    ((power 2 0 0x7fff { wakeStep := 3, later := [(63, 1, 2)] } 0).Canonical ∧ ∀ e ∈ (power 2 0 0x7fff { wakeStep := 3, later := [(63, 1, 2)] } 0).pwr.later, e.1 < 64) := by
  simp only [canonical_iff, State.Numbered, may_iff]; and_intros <;> decide +kernel
/-- R379: requests of one cycle of the AON clock (15.625 ticks) and of the next; a wake already judged valid. -/
theorem test_hyps_SleepIsEnteredAndLeft_latch :
    (∀ st ∈ [0, 1, 2], ∀ ph ∈ [0, 2], ∀ now ∈ [15, 16], let s := power st ph 0x7fff { latchAt := some 0, lateSrc := some 9, wakeStep := st / 2 } now
      s.Canonical ∧ s.Numbered ∧ s.wakeEn 3 = true ∧ s.wispMasked 3 = false ∧ s.pwr.latchAt = some 0 ∧ (aonCycle 0 = aonCycle s.now ↔ now = 15)) ∧
    (∀ j ∈ [true, false], let s := power 0 0 0x7fff { wisp := [(14, 100)], judged := j } 100; s.Canonical ∧ s.May 0 PWR_CTRL.a ∧ s.pwr.judged = j ∧ aonCycle s.now ≤ aonCycle 100 ∧ aonCycle 100 < aonCycle 110) := by
  simp only [canonical_iff, State.Numbered, may_iff]; and_intros <;> decide +kernel
theorem test_hyps_SleepIsEnteredAndLeft_end :
    (∀ good ∈ [true, false], ∀ parked ∈ [0, 1], (resuming parked good).Canonical ∧ (resuming parked good).Numbered ∧ (resuming parked good).pwr.wakeStep = 4 ∧ (resuming parked good).parkOk = good ∧
      fldGet ((resuming parked good).reg PWR_STAT.a) PWR_STAT.parked = parked ∧ (resuming parked good).carr.bad = none) ∧
    (∀ st ∈ [0, 1], (power st 0 0 {} 0).Canonical ∧ (power st 0 0 {} 0).Numbered ∧ (power st 0 0 {} 0).May 0 PWR_PART_BUS.a ∧ (power st 0 0 {} 0).May 0 PWR_PART_PORTS.a ∧ (power st 0 0 {} 0).pwrState = st ∧
      (power st 0 0 {} 0).f PWR_PART_PORTS.a PWR_PART_PORTS.ports = 0 ∧ (∀ n : Fin 24, ((power st 0 0 {} 0).port n.val).rx = none)) ∧
    (∀ now ∈ [93, 100, 110], (window 2 3 1 now).Canonical ∧ (window 2 3 1 now).Numbered ∧ (window 2 3 1 now).May 0 PWR_CTRL.a ∧ (window 2 3 1 now).pwr.wisp.getLast? = some (14, 100) ∧ (window 2 3 1 now).now = now) ∧
    (∀ e ∈ [(2, 3), (3, 3), (127, 127), (127, 126)], (window e.1 e.2 1 110).Canonical ∧ (window e.1 e.2 1 110).f PWR_WISP_CFG.a PWR_WISP_CFG.wisp_thr = e.2 ∧ fldGet ((window e.1 e.2 1 110).reg (PWR_WISP_STAT.a 14)) PWR_WISP_STAT.count = e.1 ∧
      (window e.1 e.2 1 110).inFen = false ∧ (window e.1 e.2 1 110).on PWR_WISP_CFG.a PWR_WISP_CFG.mask_en = true) ∧
    (∀ m ∈ [0, 1], (backoff m 100).Canonical ∧ (backoff m 100).Numbered ∧ fldGet ((backoff m 100).reg (PWR_WISP_STAT.a 14)) PWR_WISP_STAT.masked_now = m ∧ Cells.get (fun _ => 0) (backoff m 100).pwr.maskEnd 14 = 100 ∧ (backoff m 99).now < 100) := by
  simp only [canonical_iff, State.Numbered, may_iff]; and_intros <;> decide +kernel
theorem test_sleep : (after (.sleepRequest 0) (power 0 0 1 {} 0)).pwrPhase = 1 := by decide +kernel

/-! ### Reset, boot, flash (17) -/

/-- The boot in a stage, or Carr alone in reset. -/
def booting (b : BootSt) (now : Nat) : State := { host with boot := b, now := now }
/-- FEN with PERST_n as a wake source or not. -/
def perst (en : Nat) : State := power 2 0 (en * 2 ^ 13) {} 0
theorem test_hyps_ResetsLeaveOnlyWhatTheyKeep :
    (host.Canonical ∧ host.May 0 SYS_RST_CTRL.a ∧ host.powered = true ∧ (host.sessOf 2).role ≠ 3 ∧ host.boot.flashOp = 0 ∧ host.pcieGen = 0) ∧
    ((49#32).toNat < 50 ∧ 50 ≤ (50#32).toNat ∧ (99#32).toNat < 100 ∧ 100 ≤ (100#32).toNat) ∧
    (∀ b ∈ [{ carr := true }, { stage := 7 }], let s : State := { withMaker (booting b 0) with fuse := { state := 0 } }; s.Canonical ∧ s.powered = true ∧ (s.sessOf 2).role = 3 ∧ s.fuse.state ≠ 2 ∧ s.May 0 SYS_RST_CTRL.a ∧ s.boot = b) ∧
    (let s : State := { withMaker host with fuse := { state := 2 } }; s.Canonical ∧ s.powered = true ∧ s.fuse.state = 2) ∧
    (∀ f ∈ [0, 2, 3], ∀ c ∈ [true, false], let s : State := { booting { carr := c } 0 with fuse := { state := f } }
      s.Canonical ∧ s.boot.stage = 0 ∧ s.boot.carr = c ∧ s.clocked = true ∧ s.powered = c ∧ s.fuse.state = f) ∧ host.boot.stage ≠ 0 ∧ (power 2 0 0 {} 0).clocked = false ∧
    ((power 1 0 0 {} 0).powered = true ∧ (power 0 0 0 {} 0).powered = true ∧ (power 0 0 0 {} 0).pwrState = 0 ∧ (power 0 0 0 {} 0).pwrPhase = 0 ∧ { host with pcieGen := 3 }.Canonical ∧ { host with pcieGen := 3 }.powered = true) ∧
    (∀ en ∈ [0, 1], (perst en).Canonical ∧ (perst en).powered = false ∧ (perst en).wakeEn 13 = (en == 1) ∧ (perst en).wispMasked 13 = false ∧ (perst en).pwrPhase = 0 ∧ (perst en).pwrState = 2 ∧ (perst en).pwr.wakeStep = 0) := by
  simp only [canonical_iff, may_iff]; and_intros <;> decide +kernel
theorem test_pin_reset : (after (.pinReset 100) (power 2 0 0 {} 0)).pwrState = 0 ∧ (after (.pinReset 49) (power 2 0 0 {} 0)).pwrState = 2 := by decide +kernel

/-- A request at SYS_FLASH for an address. -/
def flashAt (a : Nat) : State := host.setWords sysFlash 0 [a]
/-- The empty block, a block of 1,024 bytes at the end of the room, one with its CRC-32, one without. A container that passes needs the free functions of log entries 5 and 9. -/
theorem test_hyps_BootRomAndFlashFollowTheirRules :
    (∀ st ∈ [1, 2, 3, 4, 5, 6, 7], ∀ op ∈ [0, 1, 2], (booting { stage := st, flashOp := op } 0).Canonical ∧ (booting { stage := st, flashOp := op } 0).powered = true ∧ (booting { stage := st, flashOp := op } 0).boot.stage = st ∧
      (booting { stage := st, flashOp := op } 0).boot.flashOp = op ∧ (booting { stage := st, flashOp := op } 0).guardOf 0 = none ∧ (booting { stage := st, flashOp := op } 0).May 0 SYS_BOOT_CTRL.a) ∧
    ((booting {} 0).Canonical ∧ (booting {} 0).boot.stage = 0 ∧ (booting {} 0).powered = false) ∧
    (bootCheck 1 (host.rdFlash stagingSlot) ≠ 0 ∧ bootCheck 1 (host.rdFlash activeSlot) ≠ 0 ∧ bootCheck 1 (host.rdSram sramBase) ≠ 0 ∧ bootCheck 1 host.rdUart ≠ 0) ∧
    (host.May 0 SYS_BV_CTRL.a ∧ host.May 0 SYS_UPD_NOTE.a ∧ { host with sess := [(1, { role := 2 })] }.May 1 SYS_UPD_NOTE.a ∧ fldGet 13#32 SYS_UPD_NOTE.cause = 13 ∧ fldGet 9#32 SYS_UPD_NOTE.cause = 9) ∧
    (crc32 [1#8, 2#8, 3#8] = 0x55bc801d#32 ∧ crc32 [1#8, 2#8, 4#8] ≠ 0x55bc801d#32) ∧
    (∀ e ∈ [99, 100], (booting { stage := 4, beaconAt := some 100, sessEnd := some 100 } e).Canonical ∧ (booting { stage := 4, beaconAt := some 100, sessEnd := some 100 } e).boot.beaconAt = some 100 ∧
      (booting { stage := 4, beaconAt := some 100, sessEnd := some 100 } e).boot.sessEnd = some 100 ∧ (booting { stage := 4, beaconAt := some 100, sessEnd := some 100 } e).now = e) ∧
    (∀ a ∈ [0, 1, 0x100000, 0x20fffe0, 0x2100000, 0x7ffffe0], (flashAt a).Canonical ∧ (flashAt a).MayOrder 0 sysFlash ∧ (flashAt a).dw sysFlash 0 = a) ∧
    ((flashAt 0).slotLocked 0 = false ∧ (flashAt 0x100000).slotLocked 0x100000 = true ∧ (flashAt 0x20fffe0).slotLocked 0x20fffe0 = true ∧ (flashAt 0x2100000).slotLocked 0x2100000 = false) ∧
    (0x7ffffe0 + 32 ≤ flashSize ∧ (Config.flashExtra = 0 → flashSize < 0x7ffffe1 + 32)) := by
  simp only [canonical_iff, mayOrder_iff, may_iff]
  refine ⟨by decide +kernel, by decide +kernel, by and_intros <;> decide +kernel, by decide +kernel, by decide +kernel, by decide +kernel, by decide +kernel, by decide +kernel, ?_, ?_⟩
  · unfold flashSize; omega
  · intro h; unfold flashSize; omega
theorem test_beacon : (after .uartBootBeacon (booting { stage := 4, beaconAt := some 100 } 100)).out.length = 1 ∧ (after .uartBootBeacon (booting { stage := 4, beaconAt := some 100 } 99)).out.length = 0 := by decide +kernel
theorem test_flash_erase : (after (.flashOpDone true false) { booting { flashOp := 1 } 0 with flash := [(0, 0#8), (65535, 1#8), (65536, 2#8)] }).flash = [(65536, 2#8)] := by decide +kernel

/-! ### The monitors and the test port (18) -/

/-- The rails that are out, the temperatures that have warned, in a power state. -/
def monitored (st rails : Nat) (m : MonSt) : State := { (power st 0 0 {} 0).setF SYS_MON_STAT.a SYS_MON_STAT.rail_out rails with mon := m }
theorem test_hyps_MonitorsReportRailsAndTemperatures :
    (∀ st ∈ [0, 2], ∀ r ∈ [0, 2 ^ 3, 2 ^ 9], (monitored st r {}).Canonical ∧ (monitored st r {}).jtag.held = false ∧ (monitored st r {}).inFen = (st == 2) ∧ nbit (fldGet ((monitored st r {}).reg SYS_MON_STAT.a) SYS_MON_STAT.rail_out) 3 = (r == 8)) ∧
    (∀ w ∈ [true, false], (monitored 0 0 ⟨w, w⟩).Canonical ∧ (monitored 0 0 ⟨w, w⟩).powered = true ∧ (monitored 0 0 ⟨w, w⟩).mon.warned = w ∧ (monitored 0 0 ⟨w, w⟩).mon.crit = w) ∧
    (let s := host.setFs SYS_MON_CFG.a [(SYS_MON_CFG.temp_warn, 140), (SYS_MON_CFG.temp_clear, 1023)]
     s.Canonical ∧ s.powered = true ∧ sint 10 (s.f SYS_MON_CFG.a SYS_MON_CFG.temp_warn) = (140#10).toInt ∧ (139#10).toInt < 140 ∧ sint 10 (s.f SYS_MON_CFG.a SYS_MON_CFG.temp_clear) = -1 ∧ (1022#10).toInt < -1 ∧ ¬(1023#10).toInt < -1 ∧
      155 ≤ (155#10).toInt ∧ ¬155 ≤ (154#10).toInt) := by
  simp only [canonical_iff]; and_intros <;> decide +kernel
theorem test_temp_crit : (after (.tempCrit 0 155) host).mon.crit = true ∧ (after (.tempCrit 0 154) host).mon.crit = false := by decide +kernel

/-- The test port with an instruction, in a lifecycle state, with a role on JTAG. -/
def jtagIn (st role : Nat) (j : JtagSt) : State := { host with sess := [(0, { role := 2 }), (2, { role := role })], fuse := { state := st }, jtag := j }
theorem test_hyps_TestPortLoadsRunsAndRefuses :
    (∀ e ∈ [(0, 3), (3, 3), (2, 2), (2, 3)], ∀ held ∈ [true, false], (jtagIn e.1 e.2 { ir := 0, held := held }).Canonical ∧ (jtagIn e.1 e.2 { ir := 0, held := held }).fuse.state = e.1 ∧ ((jtagIn e.1 e.2 { ir := 0, held := held }).sessOf 2).role = e.2 ∧
      (jtagIn e.1 e.2 { ir := 0, held := held }).jtag.held = held ∧ (jtagIn e.1 e.2 { ir := 0, held := held }).jtag.ir ≠ 24 ∧ (jtagIn e.1 e.2 { ir := 0, held := held }).inFen = false) ∧
    (∀ h ∈ [[], [8], [0, 8]], (jtagIn 0 3 { ir := 17, halted := h }).Canonical ∧ (jtagIn 0 3 { ir := 17, halted := h }).jtag.halted = h ∧ (jtagIn 0 3 { ir := 17, halted := h }).jtag.ir = 17) ∧
    (∀ b ∈ [0, 1, 2], (jtagIn 0 3 { ir := 24, bist := b }).Canonical ∧ (jtagIn 0 3 { ir := 24, bist := b }).jtag.bist = b) ∧
    ((power 2 0 0 {} 0).Canonical ∧ (power 2 0 0 {} 0).inFen = true ∧ (jtagIn 0 3 { ir := 16 }).powered = true ∧ (jtagIn 0 3 { ir := 0, held := true }).powered = false) := by
  simp only [canonical_iff]; and_intros <;> decide +kernel
theorem test_idcode : (after .idcode host).out = [.tdo 0x292409cb] := by decide +kernel

/-- A Yufen word of each shape that encodes. -/
theorem test_hyps_YufenWordsRoundTrip :
    encodeYufen (.iAdd 0 4 1 2) = some (yR 0x08 4 1 2) ∧ encodeYufen (.iLui 7 1 15) = some 0x6040000F#32 ∧ encodeYufen (.iWdog 0) = some 0x0C000000#32 ∧ encodeYufen (.iJal 0 0 0x3ffff6) = some 0x983FFFF6#32 := by decide +kernel

end Sys2Proof.Tests
end

section
/-! SUPPORT. The state after reset (17 R394, 02 R44, R50): its stores, its registers, and the invariant. -/

namespace Sys2Proof.Machine

/-- Every store but the registers is empty, and these hold one word that differs from its table (log entry 14). -/
theorem reset_canonical : State.reset.Canonical := by
  constructor
  case regs => decide
  all_goals exact Cells.wf_nil _

/-- After reset every register but ROL_LC_REQ reads the value of its table. -/
theorem reg_reset {a : Nat} (h : a ≠ ROL_LC_REQ.a) : State.reset.reg a = resetOf a := if_neg h

/-- Settles O3: every store is empty but for the word of ROL_LC_REQ, and no command, frame or copy is there. -/
theorem resetMeetsInv : Obligations.ResetMeetsInv := by
  unfold Obligations.ResetMeetsInv
  refine ⟨reset_canonical, fun c hc => absurd hc List.not_mem_nil, ?_, ?_⟩
  · unfold State.LifecycleOk
    decide
  · unfold State.Numbered
    decide

/-- Settles O6: the registers by `reg_reset`, the states that fields of registers show by evaluation. -/
theorem resetLeavesTheStatedValues : Obligations.ResetLeavesTheStatedValues := by
  unfold Obligations.ResetLeavesTheStatedValues
  dsimp only
  have states : (∀ n, n < 8 → State.reset.seqState n = 0) ∧ (∀ d, d < 4 → State.reset.phState d = 0) ∧ (∀ c, c < 24 → State.reset.canState c = 0) ∧
      (∀ k, k < 4 → State.reset.reg (TIM_INC_INT.a k) = 4#32) := by decide
  obtain ⟨hseq, hphs, hcan, hinc⟩ := states
  refine ⟨rfl, rfl, rfl, rfl, rfl, rfl, rfl, rfl, rfl, rfl, rfl, fun a h => reg_reset h, rfl, rfl, by decide, hseq, fun _ => ⟨rfl, rfl⟩, hphs,
    fun i hi => ?_, ?_⟩
  · unfold State.roleOf
    rw [if_neg (by omega)]
    rfl
  · refine ⟨by decide, by decide, by decide, by decide, by decide, by decide, by decide, by decide, rfl, hcan, hinc, reg_reset (by decide), ?_⟩
    decide

end Sys2Proof.Machine
end

section
/-! SUPPORT. The sum of the commands' lemmas over exec, and the invariant along a step (02 R49, R50). -/

namespace Sys2Proof.Machine

/-- What every command keeps, command by command. -/
theorem exec_keeps (c : Instr) (s u : State) (he : exec c s = .next u) : s.Keeps u := by
  cases c with
  | registerWrite ini a w v race => exact execRegisterWrite_keeps s u ini a w v race he
  | rcCounterRead ini a w => exact execRcCounterRead_keeps s u ini a w he
  | guardFirstHalf ini a v => exact execGuardFirstHalf_keeps s u ini a v he
  | guardCommit ini a v => exact execGuardCommit_keeps s u ini a v he
  | guardTimeout b => exact execGuardTimeout_keeps s u b he
  | parityScan a flip agree => exact execParityScan_keeps s u a flip agree he
  | parityRestore a => exact execParityRestore_keeps s u a he
  | mailboxDataRead ini a w => exact execMailboxDataRead_keeps s u ini a w he
  | mailboxDataWrite ini a w v => exact execMailboxDataWrite_keeps s u ini a w v he
  | stormWindowEnd n => exact execStormWindowEnd_keeps s u n he
  | clearPend ini n => exact execClearPend_keeps s u ini n he
  | clearStorm ini n => exact execClearStorm_keeps s u ini n he
  | clearFfValid ini n => exact execClearFfValid_keeps s u ini n he
  | eventCountClear ini n => exact execEventCountClear_keeps s u ini n he
  | firstFaultRead ini n => exact execFirstFaultRead_keeps s u ini n he
  | challengeRequest ini op arg => exact execChallengeRequest_keeps s u ini op arg he
  | roleResponse ini arg => exact execRoleResponse_keeps s u ini arg he
  | replaceInstallerSecret ini arg => exact execReplaceInstallerSecret_keeps s u ini arg he
  | replaceOperatorSecret ini arg => exact execReplaceOperatorSecret_keeps s u ini arg he
  | challengeExpiry ini => exact execChallengeExpiry_keeps s u ini he
  | lockoutEnd r => exact execLockoutEnd_keeps s u r he
  | roleLeave ini => exact execRoleLeave_keeps s u ini he
  | lifecycleRequest ini target => exact execLifecycleRequest_keeps s u ini target he
  | auditReadEntry ini arg => exact execAuditReadEntry_keeps s u ini arg he
  | auditHeadDigest ini arg => exact execAuditHeadDigest_keeps s u ini arg he
  | auditBaseDigest ini arg => exact execAuditBaseDigest_keeps s u ini arg he
  | auditIndex ini arg => exact execAuditIndex_keeps s u ini arg he
  | addOffset ini arg => exact execAddOffset_keeps s u ini arg he
  | setTime ini arg => exact execSetTime_keeps s u ini arg he
  | setIncrement ini arg => exact execSetIncrement_keeps s u ini arg he
  | domainKick ini d => exact execDomainKick_keeps s u ini d he
  | domainDeclareLost ini d => exact execDomainDeclareLost_keeps s u ini d he
  | kickTimeout d => exact execKickTimeout_keeps s u d he
  | wktLocked => exact execWktLocked_keeps s u he
  | align ini => exact execAlign_keeps s u ini he
  | timeSnapshot ini arg => exact execTimeSnapshot_keeps s u ini arg he
  | rxTimestampPop ini arg => exact execRxTimestampPop_keeps s u ini arg he
  | txTimestampPop ini arg => exact execTxTimestampPop_keeps s u ini arg he
  | ppsOutSecond => exact execPpsOutSecond_keeps s u he
  | ppsOutFall => exact execPpsOutFall_keeps s u he
  | ppsInEdge len => exact execPpsInEdge_keeps s u len he
  | ldlyMeasurementWrite ini n v => exact execLdlyMeasurementWrite_keeps s u ini n v he
  | ldlyAccept ini n => exact execLdlyAccept_keeps s u ini n he
  | phaseEnableWrite ini d v => exact execPhaseEnableWrite_keeps s u ini d v he
  | phaseEdge p rise held back => exact execPhaseEdge_keeps s u p rise held back he
  | quadTransition p a b z held back => exact execQuadTransition_keeps s u p a b z held back he
  | zEdge p held back => exact execZEdge_keeps s u p held back he
  | observationApply d => exact execObservationApply_keeps s u d he
  | obsTimeout d => exact execObsTimeout_keeps s u d he
  | holdTimeExpiry d => exact execHoldTimeExpiry_keeps s u d he
  | phaseRestart ini d => exact execPhaseRestart_keeps s u ini d he
  | phaseDeclareLost ini d => exact execPhaseDeclareLost_keeps s u ini d he
  | phaseSnapshot ini arg => exact execPhaseSnapshot_keeps s u ini arg he
  | angleActionFire sq races => exact execAngleActionFire_keeps s u sq races he
  | iNop sq => exact execINop_keeps s u sq he
  | iHalt sq => exact execIHalt_keeps s u sq he
  | iWdog sq => exact execIWdog_keeps s u sq he
  | iTrap sq imm => exact execITrap_keeps s u sq imm he
  | iRds sq d k => exact execIRds_keeps s u sq d k he
  | iAdd sq d a b => exact execIAdd_keeps s u sq d a b he
  | iSub sq d a b => exact execISub_keeps s u sq d a b he
  | iAnd sq d a b => exact execIAnd_keeps s u sq d a b he
  | iOr sq d a b => exact execIOr_keeps s u sq d a b he
  | iXor sq d a b => exact execIXor_keeps s u sq d a b he
  | iSll sq d a b => exact execISll_keeps s u sq d a b he
  | iSrl sq d a b => exact execISrl_keeps s u sq d a b he
  | iSra sq d a b => exact execISra_keeps s u sq d a b he
  | iMul sq d a b => exact execIMul_keeps s u sq d a b he
  | iAddi sq d a imm => exact execIAddi_keeps s u sq d a imm he
  | iAndi sq d a imm => exact execIAndi_keeps s u sq d a imm he
  | iOri sq d a imm => exact execIOri_keeps s u sq d a imm he
  | iXori sq d a imm => exact execIXori_keeps s u sq d a imm he
  | iSlli sq d a sh => exact execISlli_keeps s u sq d a sh he
  | iSrli sq d a sh => exact execISrli_keeps s u sq d a sh he
  | iSrai sq d a sh => exact execISrai_keeps s u sq d a sh he
  | iLui sq d imm => exact execILui_keeps s u sq d imm he
  | iLd sq d a imm => exact execILd_keeps s u sq d a imm he
  | iSt sq d a imm => exact execISt_keeps s u sq d a imm he
  | iLdt sq tx a imm => exact execILdt_keeps s u sq tx a imm he
  | iStt sq tx a imm => exact execIStt_keeps s u sq tx a imm he
  | iAmoadd sq d a b => exact execIAmoadd_keeps s u sq d a b he
  | iAmoswap sq d a b => exact execIAmoswap_keeps s u sq d a b he
  | iBeq sq a b off => exact execIBeq_keeps s u sq a b off he
  | iBne sq a b off => exact execIBne_keeps s u sq a b off he
  | iBlt sq a b off => exact execIBlt_keeps s u sq a b off he
  | iBge sq a b off => exact execIBge_keeps s u sq a b off he
  | iBltu sq a b off => exact execIBltu_keeps s u sq a b off he
  | iBgeu sq a b off => exact execIBgeu_keeps s u sq a b off he
  | iJal sq d off => exact execIJal_keeps s u sq d off he
  | iJalr sq d a imm => exact execIJalr_keeps s u sq d a imm he
  | iTget sq tx clk => exact execITget_keeps s u sq tx clk he
  | iTadd sq tx ty g => exact execITadd_keeps s u sq tx ty g he
  | iTsub sq tx ty g => exact execITsub_keeps s u sq tx ty g he
  | iTmov sq tx ty => exact execITmov_keeps s u sq tx ty he
  | iText sq ty g sel => exact execIText_keeps s u sq ty g sel he
  | iTins sq tx g sel => exact execITins_keeps s u sq tx g sel he
  | iTnext sq tx ty g => exact execITnext_keeps s u sq tx ty g he
  | iTblt sq tx ty off => exact execITblt_keeps s u sq tx ty off he
  | iAget sq ax pd => exact execIAget_keeps s u sq ax pd he
  | iAset sq ax g => exact execIAset_keeps s u sq ax g he
  | iAread sq ay g => exact execIAread_keeps s u sq ay g he
  | iAadd sq ax ay g => exact execIAadd_keeps s u sq ax ay g he
  | iVget sq g pd => exact execIVget_keeps s u sq g pd he
  | iPost sq tx g => exact execIPost_keeps s u sq tx g he
  | iApost sq ax g pd dir => exact execIApost_keeps s u sq ax g pd dir he
  | iWaitt sq tx => exact execIWaitt_keeps s u sq tx he
  | iWaita sq ax pd dir tt off => exact execIWaita_keeps s u sq ax pd dir tt off he
  | iWaite sq g tt off => exact execIWaite_keeps s u sq g tt off he
  | iGrx sq d => exact execIGrx_keeps s u sq d he
  | iGid sq d a => exact execIGid_keeps s u sq d a he
  | iGtx sq a b => exact execIGtx_keeps s u sq a b he
  | iGrel sq a => exact execIGrel_keeps s u sq a he
  | waittDone sq => exact execWaittDone_keeps s u sq he
  | waitaEnd sq => exact execWaitaEnd_keeps s u sq he
  | waiteEnd sq => exact execWaiteEnd_keeps s u sq he
  | watchdogExpiry sq => exact execWatchdogExpiry_keeps s u sq he
  | timeActionFire sq races => exact execTimeActionFire_keeps s u sq races he
  | pulseFall pin => exact execPulseFall_keeps s u pin he
  | seqStart ini sq => exact execSeqStart_keeps s u ini sq he
  | seqStop ini sq flush => exact execSeqStop_keeps s u ini sq flush he
  | seqPause ini sq => exact execSeqPause_keeps s u ini sq he
  | seqResume ini sq => exact execSeqResume_keeps s u ini sq he
  | seqStep ini sq => exact execSeqStep_keeps s u ini sq he
  | programMemoryWrite ini sq k v => exact execProgramMemoryWrite_keeps s u ini sq k v he
  | seqTableWrite ini a wide v => exact execSeqTableWrite_keeps s u ini a wide v he
  | hostPost ini arg => exact execHostPost_keeps s u ini arg he
  | actClear ini arg => exact execActClear_keeps s u ini arg he
  | actAppend ini arg => exact execActAppend_keeps s u ini arg he
  | actSeal ini arg => exact execActSeal_keeps s u ini arg he
  | queueInspect ini arg => exact execQueueInspect_keeps s u ini arg he
  | dbgReadGeneral ini arg => exact execDbgReadGeneral_keeps s u ini arg he
  | dbgReadTimeAngle ini arg => exact execDbgReadTimeAngle_keeps s u ini arg he
  | dbgReadPcSig ini arg => exact execDbgReadPcSig_keeps s u ini arg he
  | frameHead n wire abort looped ph => exact execFrameHead_keeps s u n wire abort looped ph he
  | lookupStart n got ends => exact execLookupStart_keeps s u n got ends he
  | receptionEnd n ends => exact execReceptionEnd_keeps s u n ends he
  | recirculateEntry corr bad => exact execRecirculateEntry_keeps s u corr bad he
  | egressSelect n edge corr bad saBad => exact execEgressSelect_keeps s u n edge corr bad saBad he
  | frameTransmitted n desc => exact execFrameTransmitted_keeps s u n desc he
  | launchTimeReached n => exact execLaunchTimeReached_keeps s u n he
  | residenceDeadline n => exact execResidenceDeadline_keeps s u n he
  | spill n tc corr bad => exact execSpill_keeps s u n tc corr bad he
  | refill n tc bad => exact execRefill_keeps s u n tc bad he
  | meterBurstWrite ini p m v => exact execMeterBurstWrite_keeps s u ini p m v he
  | preemptVerifyDone n ok => exact execPreemptVerifyDone_keeps s u n ok he
  | templateWrite ini a v => exact execTemplateWrite_keeps s u ini a v he
  | dpRecomputeDone p b => exact execDpRecomputeDone_keeps s u p b he
  | ruleWindowWrite ini a w v => exact execRuleWindowWrite_keeps s u ini a w v he
  | bankSwapRequest ini p => exact execBankSwapRequest_keeps s u ini p he
  | drainDone p => exact execDrainDone_keeps s u p he
  | ruleParityScan p b e bad => exact execRuleParityScan_keeps s u p b e bad he
  | ruleCountFrameRead ini p c => exact execRuleCountFrameRead_keeps s u ini p c he
  | ruleCountByteRead ini p c wide => exact execRuleCountByteRead_keeps s u ini p c wide he
  | ruleCountClear ini p c v => exact execRuleCountClear_keeps s u ini p c v he
  | fdbInsert ini p arg => exact execFdbInsert_keeps s u ini p arg he
  | fdbDelete ini p arg => exact execFdbDelete_keeps s u ini p arg he
  | fdbSearch ini p arg => exact execFdbSearch_keeps s u ini p arg he
  | fdbReadSlot ini p arg => exact execFdbReadSlot_keeps s u ini p arg he
  | fdbFlush ini p arg => exact execFdbFlush_keeps s u ini p arg he
  | flwInsert ini p arg => exact execFlwInsert_keeps s u ini p arg he
  | flwDelete ini p arg => exact execFlwDelete_keeps s u ini p arg he
  | flwSearch ini p arg => exact execFlwSearch_keeps s u ini p arg he
  | flwReadSlot ini p arg => exact execFlwReadSlot_keeps s u ini p arg he
  | learnApply p => exact execLearnApply_keeps s u p he
  | learnNotifyRead ini p => exact execLearnNotifyRead_keeps s u ini p he
  | moveWindowEnd p loc => exact execMoveWindowEnd_keeps s u p loc he
  | freezeEnd p loc => exact execFreezeEnd_keeps s u p loc he
  | agingVisit p => exact execAgingVisit_keeps s u p he
  | tableParityScan p flow bad loc => exact execTableParityScan_keeps s u p flow bad loc he
  | sectagComplete n bad => exact execSectagComplete_keeps s u n bad he
  | macsecVerdict n => exact execMacsecVerdict_keeps s u n he
  | saInstall ini arg => exact execSaInstall_keeps s u ini arg he
  | saBind ini arg => exact execSaBind_keeps s u ini arg he
  | saRetire ini arg => exact execSaRetire_keeps s u ini arg he
  | setLowestPn ini arg => exact execSetLowestPn_keeps s u ini arg he
  | saRetireDone k => exact execSaRetireDone_keeps s u k he
  | saStatusRead ini arg => exact execSaStatusRead_keeps s u ini arg he
  | macsecMibRead ini arg => exact execMacsecMibRead_keeps s u ini arg he
  | macsecMibReadClear ini arg => exact execMacsecMibReadClear_keeps s u ini arg he
  | alarmIn => exact execAlarmIn_keeps s u he
  | supplyGlitch => exact execSupplyGlitch_keeps s u he
  | clockMonitorAlarm => exact execClockMonitorAlarm_keeps s u he
  | softwareErase ini => exact execSoftwareErase_keeps s u ini he
  | eraseDone bad => exact execEraseDone_keeps s u bad he
  | alarmLatchClear ini => exact execAlarmLatchClear_keeps s u ini he
  | cjobCmacGenerate => exact execCjobCmacGenerate_keeps s u he
  | cjobCmacVerify => exact execCjobCmacVerify_keeps s u he
  | cjobGcmEncrypt => exact execCjobGcmEncrypt_keeps s u he
  | cjobGcmDecrypt => exact execCjobGcmDecrypt_keeps s u he
  | cjobKeyUnwrap => exact execCjobKeyUnwrap_keeps s u he
  | cjobComplete j bad => exact execCjobComplete_keeps s u j bad he
  | portEnable ini n v => exact execPortEnable_keeps s u ini n v he
  | portDisable ini n v => exact execPortDisable_keeps s u ini n v he
  | rxPathChange n lock lf rf => exact execRxPathChange_keeps s u n lock lf rf he
  | linkUp n => exact execLinkUp_keeps s u n he
  | linkDown n => exact execLinkDown_keeps s u n he
  | inbandWord n w => exact execInbandWord_keeps s u n w he
  | plcaBeacon k => exact execPlcaBeacon_keeps s u k he
  | plcaTimeout k => exact execPlcaTimeout_keeps s u k he
  | collision k => exact execCollision_keeps s u k he
  | c22Write ini arg => exact execC22Write_keeps s u ini arg he
  | c22Read ini arg => exact execC22Read_keeps s u ini arg he
  | c45Address ini arg => exact execC45Address_keeps s u ini arg he
  | c45Write ini arg => exact execC45Write_keeps s u ini arg he
  | c45Read ini arg => exact execC45Read_keeps s u ini arg he
  | c45ReadIncrement ini arg => exact execC45ReadIncrement_keeps s u ini arg he
  | c45IndirectRead ini arg => exact execC45IndirectRead_keeps s u ini arg he
  | c45IndirectWrite ini arg => exact execC45IndirectWrite_keeps s u ini arg he
  | mdioOpDone data resp again => exact execMdioOpDone_keeps s u data resp again he
  | portMibRead ini arg => exact execPortMibRead_keeps s u ini arg he
  | portMibReadClear ini arg => exact execPortMibReadClear_keeps s u ini arg he
  | ringEnable ini g r v => exact execRingEnable_keeps s u ini g r v he
  | ringDisable ini g r v => exact execRingDisable_keeps s u ini g r v he
  | txDescriptor r d buf => exact execTxDescriptor_keeps s u r d buf he
  | dmaError g r wr aer => exact execDmaError_keeps s u g r wr aer he
  | pcieLinkChange g aer => exact execPcieLinkChange_keeps s u g aer he
  | canFrameReceived c fmt ide rtr brs esi ident dlc data sdt vcid sec af err back => exact execCanFrameReceived_keeps s u c fmt ide rtr brs esi ident dlc data sdt vcid sec af err back he
  | canTransmit c lost => exact execCanTransmit_keeps s u c lost he
  | canBusError c kind => exact execCanBusError_keeps s u c kind he
  | busOffRecovery c => exact execBusOffRecovery_keeps s u c he
  | canRestart ini c => exact execCanRestart_keeps s u ini c he
  | canRequestTransmit ini c b => exact execCanRequestTransmit_keeps s u ini c b he
  | canAbortTransmit ini c b => exact execCanAbortTransmit_keeps s u ini c b he
  | canReleaseBuffer ini c b => exact execCanReleaseBuffer_keeps s u ini c b he
  | canDisable ini c v => exact execCanDisable_keeps s u ini c v he
  | linSlot l data sum err => exact execLinSlot_keeps s u l data sum err he
  | linHeaderReceived l ident data sum err brk rate => exact execLinHeaderReceived_keeps s u l ident data sum err brk rate he
  | batchTimeout b => exact execBatchTimeout_keeps s u b he
  | batchInject => exact execBatchInject_keeps s u he
  | batchConfigure ini arg => exact execBatchConfigure_keeps s u ini arg he
  | rxStreamConfigure ini arg => exact execRxStreamConfigure_keeps s u ini arg he
  | gwPoolWrite ini v => exact execGwPoolWrite_keeps s u ini v he
  | carrTransactionCompare a b c fault ecc bank => exact execCarrTransactionCompare_keeps s u a b c fault ecc bank he
  | windowClose => exact execWindowClose_keeps s u he
  | resyncSelftestDone ok => exact execResyncSelftestDone_keeps s u ok he
  | resyncStall => exact execResyncStall_keeps s u he
  | injectionTest ok => exact execInjectionTest_keeps s u ok he
  | chkptWrite machine a b c => exact execChkptWrite_keeps s u machine a b c he
  | doorbell ini v => exact execDoorbell_keeps s u ini v he
  | memTraining temp ok => exact execMemTraining_keeps s u temp ok he
  | memScrub addr err => exact execMemScrub_keeps s u addr err he
  | recoveryReset k => exact execRecoveryReset_keeps s u k he
  | latentTest k => exact execLatentTest_keeps s u k he
  | latentBaselineReset k => exact execLatentBaselineReset_keeps s u k he
  | streamCountersRead ini arg => exact execStreamCountersRead_keeps s u ini arg he
  | streamCountersReadClear ini arg => exact execStreamCountersReadClear_keeps s u ini arg he
  | pairEnable ini v => exact execPairEnable_keeps s u ini v he
  | pairDisable ini v => exact execPairDisable_keeps s u ini v he
  | heartbeatInterval => exact execHeartbeatInterval_keeps s u he
  | hbInPulse ns => exact execHbInPulse_keeps s u ns he
  | busRoleSwitch => exact execBusRoleSwitch_keeps s u he
  | pathTimeout p => exact execPathTimeout_keeps s u p he
  | startupWaitExpiry => exact execStartupWaitExpiry_keeps s u he
  | holdOffExpiry => exact execHoldOffExpiry_keeps s u he
  | handbackEchoDeadline => exact execHandbackEchoDeadline_keeps s u he
  | handbackInstant => exact execHandbackInstant_keeps s u he
  | yield ini => exact execYield_keeps s u ini he
  | stClear ini => exact execStClear_keeps s u ini he
  | selftestItemDone item ok => exact execSelftestItemDone_keeps s u item ok he
  | healthReportSend => exact execHealthReportSend_keeps s u he
  | reportMissing => exact execReportMissing_keeps s u he
  | sleepRequest ini => exact execSleepRequest_keeps s u ini he
  | parkDone ini wake => exact execParkDone_keeps s u ini wake he
  | prepTimeout wake => exact execPrepTimeout_keeps s u wake he
  | descendDone => exact execDescendDone_keeps s u he
  | wakeInPin k level held => exact execWakeInPin_keeps s u k level held he
  | wupDetect k => exact execWupDetect_keeps s u k he
  | aonTimerExpiry => exact execAonTimerExpiry_keeps s u he
  | wakeNow ini => exact execWakeNow_keeps s u ini he
  | wakePowerGood => exact execWakePowerGood_keeps s u he
  | wakePllLocked => exact execWakePllLocked_keeps s u he
  | wakePipelinesReady => exact execWakePipelinesReady_keeps s u he
  | carrResume ecc => exact execCarrResume_keeps s u ecc he
  | partialMaskWrite ini bus v => exact execPartialMaskWrite_keeps s u ini bus v he
  | wakeValid ini => exact execWakeValid_keeps s u ini he
  | wispWindowEnd => exact execWispWindowEnd_keeps s u he
  | wispBackoffEnd k => exact execWispBackoffEnd_keeps s u k he
  | offRequest ini => exact execOffRequest_keeps s u ini he
  | powerOnReset aon => exact execPowerOnReset_keeps s u aon he
  | pinReset len => exact execPinReset_keeps s u len he
  | deviceReset ini => exact execDeviceReset_keeps s u ini he
  | carrReset jtag ini => exact execCarrReset_keeps s u jtag ini he
  | pcieReset hot => exact execPcieReset_keeps s u hot he
  | resetRelease mode => exact execResetRelease_keeps s u mode he
  | bootVerifyDone => exact execBootVerifyDone_keeps s u he
  | hostGo ini => exact execHostGo_keeps s u ini he
  | uartBootBlock data crc => exact execUartBootBlock_keeps s u data crc he
  | loadDone ini => exact execLoadDone_keeps s u ini he
  | installerSessionTimeout => exact execInstallerSessionTimeout_keeps s u he
  | bvGo ini => exact execBvGo_keeps s u ini he
  | updNoteWrite ini v => exact execUpdNoteWrite_keeps s u ini v he
  | flashErase ini arg => exact execFlashErase_keeps s u ini arg he
  | flashProgram ini arg => exact execFlashProgram_keeps s u ini arg he
  | flashOpDone ok again => exact execFlashOpDone_keeps s u ok again he
  | railOutOfRange k hi => exact execRailOutOfRange_keeps s u k hi he
  | tempWarn k t => exact execTempWarn_keeps s u k t he
  | tempCrit k t => exact execTempCrit_keeps s u k t he
  | sensorFault k => exact execSensorFault_keeps s u k he
  | testLogicReset => exact execTestLogicReset_keeps s u he
  | extest pins v => exact execExtest_keeps s u pins v he
  | idcode => exact execIdcode_keeps s u he
  | samplePreload pins v => exact execSamplePreload_keeps s u pins v he
  | clamp => exact execClamp_keeps s u he
  | highz => exact execHighz_keeps s u he
  | extestPulse pins v => exact execExtestPulse_keeps s u pins v he
  | extestTrain pins v => exact execExtestTrain_keeps s u pins v he
  | regAccess wr addr v => exact execRegAccess_keeps s u wr addr v he
  | debug k halt => exact execDebug_keeps s u k halt he
  | mbist => exact execMbist_keeps s u he
  | lbist => exact execLbist_keeps s u he
  | scan => exact execScan_keeps s u he
  | trim w => exact execTrim_keeps s u w he
  | fuse w => exact execFuse_keeps s u w he
  | bypass => exact execBypass_keeps s u he
  | pllUnlock p => exact execPllUnlock_keeps s u p he
  | alarmSourceInactive k => exact execAlarmSourceInactive_keeps s u k he
  | canFrameSent c => exact execCanFrameSent_keeps s u c he
  | flushVisit p again => exact execFlushVisit_keeps s u p again he
  | tempClear t => exact execTempClear_keeps s u t he
  | railInRange k => exact execRailInRange_keeps s u k he
  | uartGapTimeout => exact execUartGapTimeout_keeps s u he
  | uartBootBeacon => exact execUartBootBeacon_keeps s u he
  | bistDone v => exact execBistDone_keeps s u v he
  | prbsBitError n sync => exact execPrbsBitError_keeps s u n sync he

/-- Settles O5, by the lemma of each command. -/
theorem everyCommandKeeps : Obligations.EveryCommandKeeps := by
  unfold Obligations.EveryCommandKeeps
  intro c s t e
  exact exec_keeps c s t e

/-- What `State.Keeps` says of `s` and `t` carries the invariant from `s` to `t`. -/
theorem State.Keeps.inv {s t : State} (h : s.Keeps t) (hi : s.Inv) : t.Inv := by
  obtain ⟨hc, hq, hl, hn⟩ := hi
  refine ⟨h.canon hc, ?_, (h.life hl).2, h.numbered hn⟩
  intro c hm
  exact hq c (h.pending ▸ hm)

/-- The rest of the queue is well-formed where the queue is. -/
theorem State.Inv.dequeue {s : State} {c : Instr} {r : List Instr} (hi : s.Inv) (hp : s.pending = c :: r) :
    State.Inv { s with pending := r } := by
  obtain ⟨hc, hq, hl, hn⟩ := hi
  refine ⟨{ hc with }, fun d hd => hq d ?_, hl, hn⟩
  rw [hp]
  exact List.mem_cons_of_mem c hd

/-- The clock is no part of the invariant. -/
theorem State.Inv.later {s : State} (hi : s.Inv) : s.later.Inv := by
  obtain ⟨hc, hq, hl, hn⟩ := hi
  exact ⟨{ hc with }, hq, hl, hn⟩

/-- Settles O4: a step keeps what `State.Keeps` says, and with it the invariant. -/
theorem everyStepKeepsInv : Obligations.EveryStepKeepsInv := by
  unfold Obligations.EveryStepKeepsInv
  intro s t hi e
  obtain ⟨_, hs⟩ | ⟨c, r, hp, hs⟩ := step_cases s
  · obtain rfl : s.tick = t := Host.Outcome.next.inj (hs.symm.trans e)
    exact s.tick_keeps.inv hi.later
  · exact (exec_keeps c _ t (hs.symm.trans e)).inv (hi.dequeue hp)

end Sys2Proof.Machine
end

section
/-! SUPPORT. What a cause leaves in the status word of its source (02 R39, R40). -/

namespace Sys2Proof.Machine

/-- Different sources have status words of their own. -/
theorem evtStat_injective {m n : Nat} (h : m ≠ n) : EVT_SRC_STAT.a m ≠ EVT_SRC_STAT.a n := by
  unfold EVT_SRC_STAT.a
  omega

theorem satTo_succ {c : Nat} (h : c ≤ 0xffff) : satTo 0xffff (c + 1) = min 0xffff (c + 1) := by
  unfold satTo
  split <;> omega

/-- A 16-bit count. -/
theorem evtCount_le (w : Word) : fldGet w EVT_SRC_STAT.count ≤ 0xffff := Nat.le_of_lt_succ (fldGet_lt w EVT_SRC_STAT.count)

/-- A cause adds one to the count of its source, which stops at 0xFFFF. -/
theorem State.count_raise (s : State) (n c i : Nat) (hc : s.Canonical) :
    fldGet ((s.raise n c i).reg (EVT_SRC_STAT.a n)) EVT_SRC_STAT.count = min 0xffff (fldGet (s.reg (EVT_SRC_STAT.a n)) EVT_SRC_STAT.count + 1) := by
  rw [State.reg_raise _ _ _ _ hc, satTo_succ (evtCount_le _)]
  simp only [List.foldl]
  rw [fldGet_fldSet_ne _ _ _ _ (by decide) (by decide), fldGet_fldSet_ne _ _ _ _ (by decide) (by decide), fldGet_fldSet_ne _ _ _ _ (by decide) (by decide),
    fldGet_fldSet _ _ _ (by decide)]
  exact Nat.mod_eq_of_lt (by show _ < 65536; omega)

/-- A cause leaves the first-fault record of its source valid. -/
theorem State.ffValid_raise (s : State) (n c i : Nat) (hc : s.Canonical) :
    fldGet ((s.raise n c i).reg (EVT_SRC_STAT.a n)) EVT_SRC_STAT.ff_valid = 1 := by
  rw [State.reg_raise _ _ _ _ hc]
  simp only [List.foldl]
  rw [fldGet_fldSet_ne _ _ _ _ (by decide) (by decide), fldGet_fldSet_ne _ _ _ _ (by decide) (by decide), fldGet_fldSet _ _ _ (by decide)]
  rfl

/-- A cause takes the first-fault record where none was valid. -/
theorem State.ff_raise (s : State) (n c i : Nat) (hc : s.Canonical) (h : fldGet (s.reg (EVT_SRC_STAT.a n)) EVT_SRC_STAT.ff_valid = 0) :
    ((s.raise n c i).evtSt n).ff = ⟨s.tim.frt, s.now, c, i⟩ := by
  rw [State.evtSt_raise _ _ _ _ hc, h]
  rfl

/-- A cause at a source that is pending sends no message. -/
theorem State.out_raise_pend (s : State) (n c i : Nat) (h : fldGet (s.reg (EVT_SRC_STAT.a n)) EVT_SRC_STAT.pend = 1) :
    (s.raise n c i).out = s.out := by
  unfold State.raise
  dsimp only
  rw [if_neg (by omega)]
  rfl

/-- Settles O12: the count of a source by `State.count_raise`, and another source's by its address. -/
theorem causesAddOneToTheirCount : Obligations.CausesAddOneToTheirCount := by
  unfold Obligations.CausesAddOneToTheirCount
  intro s n hc
  dsimp only
  have hle := evtCount_le (s.reg (EVT_SRC_STAT.a n.val))
  refine ⟨hle, fun c x => ⟨State.raise_now _ _ _ _, ?_⟩, fun c x c' x' => ?_, fun m c x hm => ?_⟩
  · rw [s.count_raise _ _ _ hc]
    split <;> omega
  · have hc1 : (s.raise n.val c x).Canonical := (State.raise_keeps (State.Keeps.refl s) _ _ _).canon hc
    rw [State.count_raise _ _ _ _ hc1, s.count_raise _ _ _ hc]
    omega
  · rw [State.reg_raise_ne _ _ _ _ _ (evtStat_injective fun h => hm (Fin.ext h.symm))]

end Sys2Proof.Machine
end

section
/-! SUPPORT. The software side of an event source: its bits cleared, its record read, its storm window closed (02 R39 to R43). -/

namespace Sys2Proof.Machine

/-- The two commands whose whole effect is a cause. -/
theorem exec_cause (s : State) (hp : s.powered = true) {c : Instr} {n cause idx : Nat}
    (h : (∃ p : Fin 4, c = .pllUnlock p ∧ n = 29 ∧ cause = 1 ∧ idx = p.val) ∨ (∃ k : Fin 8, c = .sensorFault k ∧ n = 63 ∧ cause = 5 ∧ idx = k.val)) :
    exec c s = .next (s.raise n cause idx) := by
  obtain ⟨p, rfl, rfl, rfl, rfl⟩ | ⟨k, rfl, rfl, rfl, rfl⟩ := h
  · exact next_live s _ hp
  · exact next_live s _ hp

/-- The clear of a storm resumes delivery; that of another bit does not (02 R41). -/
theorem State.evtStatWritten_other (u : State) (n : Nat) (old w : Word) (h : fldGet w EVT_SRC_STAT.storm ≠ 1) : u.evtStatWritten n old w = u :=
  if_neg fun q => h q.2.1

/-- After the clear of a storm the source, if it is pending and routed, sends its message (02 R41, R42). -/
theorem State.evtStatWritten_storm (u : State) (n : Nat) (old : Word) :
    u.evtStatWritten n old (fldMask EVT_SRC_STAT.storm) =
      if fldGet old EVT_SRC_STAT.storm = 1 ∧ u.on (EVT_SRC_STAT.a n) EVT_SRC_STAT.pend = true ∧ u.on (EVT_SRC_CFG.a n) EVT_SRC_CFG.msix_en = true ∧
        u.on (EVT_SRC_STAT.a n) EVT_SRC_STAT.storm = false then u.msixSend n else u := by
  have hm : fldGet (fldMask EVT_SRC_STAT.storm) EVT_SRC_STAT.storm = 1 := by decide
  unfold State.evtStatWritten State.deliver
  simp only [hm, true_and, Bool.not_eq_true']
  by_cases h1 : fldGet old EVT_SRC_STAT.storm = 1 <;> by_cases h2 : u.on (EVT_SRC_STAT.a n) EVT_SRC_STAT.pend = true <;> simp [h1, h2]

/-- A message passes where neither the function nor its vector is masked. -/
theorem State.msixSend_pass (u : State) (n : Nat) (h : u.msixPass n = true) : u.msixSend n = { u with out := .msix n :: u.out } := if_pos h

/-- Behind a mask a message becomes pending. -/
theorem State.msixSend_mask (u : State) (n : Nat) (h : u.msixPass n = false) :
    u.msixSend n = { u with pcie := { u.pcie with pba := u.pcie.pba.filter (fun k => k != n) ++ [n] } } := if_neg (by rw [h]; decide)

/-- A first-fault request for a source answers its record (02 R39). -/
theorem State.ffReq_asked (s : State) (n : Fin 64) :
    (s.asked 0x100500 0 n.val).ffReq n.val = (s.asked 0x100500 0 n.val).snap 0x100500
      (timeWords (s.evtSt n.val).ff.frt ++ [n.val * 2 ^ 26 + (s.evtSt n.val).ff.idx % 4096 * 4096 + (s.evtSt n.val).ff.cause % 256 * 16 +
        fldGet (s.reg (EVT_SRC_STAT.a n.val)) EVT_SRC_STAT.ff_valid]) := by
  have hn : n.val % 64 = n.val := Nat.mod_eq_of_lt n.isLt
  have hreg : (s.asked 0x100500 0 n.val).reg (EVT_SRC_STAT.a n.val) = s.reg (EVT_SRC_STAT.a n.val) :=
    State.reg_asked_ne _ _ _ _ _ (by unfold EVT_SRC_STAT.a; omega)
  have hev : (s.asked 0x100500 0 n.val).evtSt n.val = s.evtSt n.val := rfl
  unfold State.ffReq
  dsimp only
  rw [if_neg (by omega), hn, hreg, hev]

/-- A storm window that is over closes (02 R41). -/
theorem State.stormEnd_over (s : State) (n : Nat) (ho : (s.evtSt n).winOpen = true) (h : (s.evtSt n).winEnd ≤ s.now) :
    s.stormEnd n = s.setEvt n { s.evtSt n with winOpen := false, winCnt := 0 } := if_pos ⟨ho, h⟩

/-- Before its end a storm window stays. -/
theorem State.stormEnd_early (s : State) (n : Nat) (h : s.now < (s.evtSt n).winEnd) : s.stormEnd n = s := if_neg fun q => by omega

/-- A cause at its source: the bits, the count and the record it leaves. -/
theorem cause_recorded (s : State) (n c i : Nat) (hc : s.Canonical) :
    let t := s.raise n c i
    t = { s with regs := t.regs, evt := t.evt, out := t.out, pcie := { s.pcie with pba := t.pcie.pba } } ∧ (∀ a, a ≠ EVT_SRC_STAT.a n → t.reg a = s.reg a) ∧
      fldGet (t.reg (EVT_SRC_STAT.a n)) EVT_SRC_STAT.pend = 1 ∧ fldGet (t.reg (EVT_SRC_STAT.a n)) EVT_SRC_STAT.ff_valid = 1 ∧
      fldGet (t.reg (EVT_SRC_STAT.a n)) EVT_SRC_STAT.count = min 0xffff (fldGet (s.reg (EVT_SRC_STAT.a n)) EVT_SRC_STAT.count + 1) ∧
      (fldGet (s.reg (EVT_SRC_STAT.a n)) EVT_SRC_STAT.ff_valid = 0 → (t.evtSt n).ff = ⟨s.tim.frt, s.now, c, i⟩) ∧
      (fldGet (s.reg (EVT_SRC_STAT.a n)) EVT_SRC_STAT.pend = 1 → t.out = s.out) :=
  ⟨s.raise_same n c i, fun _ ha => State.reg_raise_ne _ _ _ _ _ ha, pend_raise s n c i hc, s.ffValid_raise n c i hc, s.count_raise n c i hc,
    s.ff_raise n c i hc, s.out_raise_pend n c i⟩

/-- The clear of a storm by an Operator or Installer, with the message that it may release. -/
theorem exec_clearStorm (s : State) (i : Fin 3) (n : Fin 64) (hc : s.Canonical) (hp : s.powered = true) (hq : s.guardOf 1 = none)
    (hr : s.roleOf i.val = 1 ∨ s.roleOf i.val = 2) :
    exec (.clearStorm i n) s = .next ((s.setF (EVT_SRC_STAT.a n.val) EVT_SRC_STAT.storm 0).evtStatWritten n.val (s.hw (EVT_SRC_STAT.a n.val)) (fldMask EVT_SRC_STAT.storm)) :=
  (next_live s _ hp).trans (congrArg _ (reg_pokeStat s i.val n _ hc hq hr (by decide)))

/-- The clear of another bit of the status word by an Operator or Installer. -/
theorem State.pokeStat_other (s : State) (i : Nat) (n : Fin 64) (f : Fld) (hc : s.Canonical) (hq : s.guardOf 1 = none)
    (hr : s.roleOf i = 1 ∨ s.roleOf i = 2) (hf : fldMask f &&& 0xd#32 = fldMask f) (hs : fldGet (fldMask f) EVT_SRC_STAT.storm ≠ 1) :
    s.poke i (EVT_SRC_STAT.a n.val) (fldMask f) = s.setF (EVT_SRC_STAT.a n.val) f 0 := by
  rw [reg_pokeStat s i n f hc hq hr hf, State.evtStatWritten_other _ _ _ _ hs]

/-- Settles O13: a cause by `cause_recorded`, the clears by the status word's write, the record by its mailbox, the window by `State.stormEnd`. -/
theorem eventSourcesRecordClearAndCloseWindows : Obligations.EventSourcesRecordClearAndCloseWindows := by
  unfold Obligations.EventSourcesRecordClearAndCloseWindows
  refine ⟨fun s hc hp c n cause idx h => ⟨_, exec_cause s hp h, cause_recorded s n cause idx hc⟩, fun s i n hc hp hq hr => ⟨?_, ?_, ?_, ?_⟩,
    fun s i n hc hm => ?_, fun s n hc hp ho => ⟨fun hw => ?_, fun hw => ?_⟩⟩
  · exact (next_live s _ hp).trans (congrArg _ (s.pokeStat_other i.val n _ hc hq hr (by decide) (by decide)))
  · exact (next_live s _ hp).trans (congrArg _ (s.pokeStat_other i.val n _ hc hq hr (by decide) (by decide)))
  · exact (next_live s _ hp).trans (congrArg _ (reg_pokeClr s i.val n hc hq hr))
  · dsimp only
    rw [exec_clearStorm s i n hc hp hq hr, State.evtStatWritten_storm]
    refine ⟨fun h => ?_, fun h hpass => ?_, fun h hmask => ?_⟩
    · rw [if_neg h]
    · rw [if_pos h, State.msixSend_pass _ _ hpass]
    · rw [if_pos h, State.msixSend_mask _ _ hmask]
  · refine State.answered_of s 0x100500 0 n.val _ _ hc ((next_live s _ hm.powered).trans (congrArg _ ?_))
    rw [State.request_at_0x100500 s i.val 0 n.val hm (by decide) (by omega), s.ffReq_asked n]
  · have hget : (s.setEvt n.val { s.evtSt n.val with winOpen := false, winCnt := 0 }).evtSt n.val = { s.evtSt n.val with winOpen := false, winCnt := 0 } :=
      Cells.get_set hc.evt _ _
    refine ⟨_, (next_live s _ hp).trans (congrArg _ (s.stormEnd_over n.val ho hw)), ?_, ?_, ?_, rfl, fun m hm => Cells.get_set_ne _ _ _ _ _ hm⟩
    · rw [hget]
    · rw [hget]
    · rw [hget]
  · exact (next_live s _ hp).trans (congrArg _ (s.stormEnd_early n.val hw))

end Sys2Proof.Machine
end

section
/-! SUPPORT. What an integrity fault reports (02 R34), and a write that is rejected or denied (02 R22, R23, R45). -/

namespace Sys2Proof.Machine

theorem blockOf_lt (a : Nat) : blockOf a < 17 := by
  unfold blockOf
  split_ifs <;> decide

/-- Nothing but the registers, the events and what they send has changed from `s` to `t`. -/
def State.Reported (s t : State) : Prop := t = { s with regs := t.regs, evt := t.evt, out := t.out, pcie := { s.pcie with pba := t.pcie.pba } }

theorem State.Reported.emit {s t : State} (h : s.Reported t) (o : Output) : s.Reported (t.emit o) := by
  unfold State.Reported State.emit at *
  rw [h]

theorem State.Reported.guardOf {s t : State} (h : s.Reported t) (b : Nat) : t.guardOf b = s.guardOf b := by
  unfold State.Reported at h
  rw [h]
  rfl

/-- An integrity fault changes no register but INTEG, INTEG_ADDR and the status of EV59. -/
theorem State.reg_integ_ne (s : State) (b : Nat) (k : Integ) (a c : Nat) (h1 : c ≠ integAddr b) (h2 : c ≠ integAddr b + 4) (h3 : c ≠ EVT_SRC_STAT.a 59) :
    (s.integ b k a).reg c = s.reg c := by
  unfold State.integ
  dsimp only
  rw [State.reg_raise_ne _ _ _ _ _ h3, State.reg_setReg_ne _ _ _ _ h1]
  split
  · exact State.reg_setReg_ne _ _ _ _ h2
  · rfl

/-- The state before EV59 of an integrity fault is canonical. -/
theorem State.integ_noted_canonical (s : State) (b : Nat) (w : Word) (hc : s.Canonical) :
    State.Canonical (if s.reg (integAddr b) = 0#32 then s.setReg (integAddr b + 4) w else s) := by
  split
  · exact (State.setReg_keeps (State.Keeps.refl s) _ _).canon hc
  · exact hc

/-- INTEG after a fault: its flag is added. -/
theorem State.reg_integ (s : State) (b : Nat) (k : Integ) (a : Nat) (hc : s.Canonical) (hb : b < 17) :
    (s.integ b k a).reg (integAddr b) = fldSet (s.reg (integAddr b)) ⟨k.bit, k.bit⟩ 1 := by
  unfold State.integ
  dsimp only
  rw [State.reg_raise_ne _ _ _ _ _ (integAddr_ne b hb).1, State.reg_setReg _ _ _ (s.integ_noted_canonical b _ hc).regs]

theorem State.integ_flag (s : State) (b : Nat) (k : Integ) (a : Nat) (hc : s.Canonical) (hb : b < 17) :
    fldGet ((s.integ b k a).reg (integAddr b)) ⟨k.bit, k.bit⟩ = 1 := by
  rw [s.reg_integ b k a hc hb, fldGet_fldSet _ _ _ (by cases k <;> decide)]
  cases k <;> rfl

/-- The first address of a block's faults is recorded. -/
theorem State.reg_integ_addr (s : State) (b : Nat) (k : Integ) (a : Nat) (hc : s.Canonical) (hb : b < 17) (h : s.reg (integAddr b) = 0#32) :
    (s.integ b k a).reg (integAddr b + 4) = BitVec.ofNat 32 a := by
  unfold State.integ
  dsimp only
  rw [State.reg_raise_ne _ _ _ _ _ (integAddr_ne b hb).2, State.reg_setReg_ne _ _ _ _ (by omega), if_pos h, State.reg_setReg _ _ _ hc.regs]

/-- An integrity fault raises EV59. -/
theorem State.integ_pend (s : State) (b : Nat) (k : Integ) (a : Nat) (hc : s.Canonical) :
    fldGet ((s.integ b k a).reg (EVT_SRC_STAT.a 59)) EVT_SRC_STAT.pend = 1 := by
  unfold State.integ
  dsimp only
  refine pend_raise _ _ _ _ ((State.setReg_keeps (State.Keeps.refl _) _ _).canon ?_)
  exact s.integ_noted_canonical b _ hc

/-- 02 R23: what Carr hears of an access changes no register. -/
theorem State.reg_carrError (s : State) (i : Nat) (bad : Bool) (a : Nat) : (s.carrError i bad).reg a = s.reg a := by
  unfold State.carrError
  split <;> rfl

theorem State.Reported.carrError {s t : State} (h : s.Reported t) (i : Nat) (bad : Bool) : s.Reported (t.carrError i bad) := by
  unfold State.carrError
  split
  · exact h.emit _
  · exact h

/-- An access in the register space is judged by `State.writeAt`, and Carr hears whether it failed. -/
theorem State.busWrite_low (s : State) (i a n v : Nat) (race : Option Word) (ha : a < 0x2000000) :
    s.busWrite i a n v race = (s.writeAt i a n v race).1.carrError i (s.writeAt i a n v race).2 := by
  unfold State.busWrite
  rw [if_neg (by rw [pcieOwn_lt ha]; simp)]

/-- An aligned 32-bit write in the register space. -/
theorem State.writeAt_word (s : State) (i a v : Nat) (race : Option Word) (ha : a < 0x2000000) (h4 : a % 4 = 0) :
    s.writeAt i a 4 v race = s.write32 i a (BitVec.ofNat 32 v) race := by
  unfold State.writeAt
  rw [if_neg (by omega), if_neg (by decide), if_neg (by omega), if_pos rfl]

/-- What makes a write of 2^`w` bytes at `a` a fault of kind `k` (02 R22, log entry 48). -/
def RejectedFor (k : Integ) (a : Nat) (w : Fin 4) : Prop :=
  (k = .unaligned ∧ a % 2 ^ w.val ≠ 0) ∨ (k = .narrowWrite ∧ a % 2 ^ w.val = 0 ∧ w.val < 2) ∨ (k = .unmapped ∧ w = 2 ∧ a % 4 = 0 ∧ kindOf a = .none)

/-- A rejected write is the integrity fault of its kind. -/
theorem State.writeAt_rejected (s : State) (i a v : Nat) (w : Fin 4) (race : Option Word) (k : Integ) (hc : s.Canonical) (ha : a < 0x2000000)
    (hq : s.guardOf (blockOf a) = none) (hg : guardBase (a / 4 * 4) = none) (h : RejectedFor k a w) :
    s.writeAt i a (2 ^ w.val) v race = (s.integ (blockOf a) k a, true) := by
  rw [← reg_rejectWrite_quiet s k a hc hq (.inr hg)]
  obtain ⟨rfl, h1⟩ | ⟨rfl, h1, h2⟩ | ⟨rfl, rfl, h1, h2⟩ := h
  · unfold State.writeAt
    rw [if_pos h1]
  · have hn : 2 ^ w.val < 4 := by
      obtain h0 | h0 : w.val = 0 ∨ w.val = 1 := by omega
      · rw [h0]; decide
      · rw [h0]; decide
    unfold State.writeAt
    rw [if_neg (by omega), if_pos hn]
  · refine (s.writeAt_word i a v race ha h1).trans ?_
    unfold State.write32
    rw [h2]

/-- 02 R45: a write of a register outside the initiator's rights. -/
theorem State.write32_denied (s : State) (i a : Nat) (v : Word) (race : Option Word) (r : RegRow) (hk : kindOf a = .reg r)
    (hq : s.guardOf (blockOf a) = none) (hm : s.mayWrite i a v = false) : s.write32 i a v race = (s.denied i, true) := by
  unfold State.write32
  rw [hk]
  dsimp only
  rw [hm, if_pos (show (!false) = true from rfl), State.guardBreak_quiet s _ hq]

/-- The value of a 32-bit write. -/
theorem word_of_write (v : BitVec 64) : BitVec.ofNat 32 (v.toNat % 2 ^ (8 * 2 ^ 2)) = BitVec.ofNat 32 v.toNat := by
  apply BitVec.eq_of_toNat_eq
  simp

/-- A denied write leaves a bus error for Carr. -/
theorem State.carrError_head (s : State) : (s.carrError 1 true).out.head? = some (.busError 1) := rfl

/-- Settles O9: a rejected write is one integrity fault, a denied one the cause of EV60. -/
theorem rejectedAccessesChangeNothingElse : Obligations.RejectedAccessesChangeNothingElse := by
  unfold Obligations.RejectedAccessesChangeNothingElse
  intro s i a w v race hc hp ha hq hg
  have hb := blockOf_lt a.toNat
  refine ⟨fun k h => ?_, fun r h4 hk hm => ?_⟩
  · have hx : exec (.registerWrite i a w v race) s = .next ((s.integ (blockOf a.toNat) k a.toNat).carrError i.val true) := by
      refine (next_live s _ hp).trans (congrArg _ ?_)
      rw [State.busWrite_low _ _ _ _ _ _ ha, s.writeAt_rejected _ _ _ w race k hc ha hq hg h]
    refine ⟨_, hx, State.Reported.carrError (State.integ_same s _ k _) i.val true, ?_, ?_, fun h0 => ?_, fun b h1 h2 h3 => ?_⟩
    · rw [State.reg_carrError, s.integ_flag _ k _ hc hb]
    · rw [State.reg_carrError, s.integ_pend _ k _ hc]
    · rw [State.reg_carrError, s.reg_integ_addr _ k _ hc hb h0, BitVec.ofNat_toNat, BitVec.setWidth_eq]
    · rw [State.reg_carrError, s.reg_integ_ne _ k _ b h1 h2 h3]
  · have hx : exec (.registerWrite i a 2 v race) s = .next ((s.denied i.val).carrError i.val true) := by
      refine (next_live s _ hp).trans (congrArg _ ?_)
      have hw : s.writeAt i.val a.toNat (2 ^ (2 : Fin 4).val) (v.toNat % 2 ^ (8 * 2 ^ (2 : Fin 4).val)) race = (s.denied i.val, true) := by
        refine (s.writeAt_word _ _ _ race ha h4).trans ((congrArg (fun x => s.write32 i.val a.toNat x race) (word_of_write v)).trans ?_)
        exact s.write32_denied i.val a.toNat _ race r hk hq hm
      rw [State.busWrite_low _ _ _ _ _ _ ha, hw]
    refine ⟨_, hx, State.Reported.carrError (State.raise_same s 60 1 i.val) i.val true, ?_, ?_, fun b h1 => ?_⟩
    · rw [State.reg_carrError]
      exact pend_raise s 60 1 i.val hc
    · rintro rfl
      exact State.carrError_head _
    · rw [State.reg_carrError]
      exact State.reg_raise_ne _ _ _ _ _ h1

end Sys2Proof.Machine
end

section
/-! SUPPORT. Guarded pairs (02 R28, R29): how one opens, commits and fails. -/

namespace Sys2Proof.Machine

/-- From `s` to `t` the pair of block `b` has ended in a failure: guard_fail and EV59 report it, and no other pair and no other register has
changed (02 R29, R34). -/
structure State.PairFailed (s t : State) (b : Nat) : Prop where
  closed : t.guardOf b = none
  others : ∀ c, c ≠ b → t.guardOf c = s.guardOf c
  flag : fldGet (t.reg (integAddr b)) ⟨27, 27⟩ = 1
  pend : fldGet (t.reg (EVT_SRC_STAT.a 59)) EVT_SRC_STAT.pend = 1
  regs : ∀ c, c ≠ integAddr b → c ≠ integAddr b + 4 → c ≠ EVT_SRC_STAT.a 59 → t.reg c = s.reg c
  same : t = { s with guards := t.guards, regs := t.regs, evt := t.evt, out := t.out, pcie := { s.pcie with pba := t.pcie.pba } }

theorem State.guardOf_setGuard_ne (s : State) (b c : Nat) (g : Option GuardPend) (h : c ≠ b) : (s.setGuard b g).guardOf c = s.guardOf c :=
  Cells.get_set_ne _ _ _ _ _ h

theorem State.setGuard_canonical (s : State) (b : Nat) (g : Option GuardPend) (hc : s.Canonical) : (s.setGuard b g).Canonical :=
  (State.setGuard_keeps (State.Keeps.refl s) b g).canon hc

/-- The pair of a block taken away, with its failure reported. -/
theorem State.pairFailed_integ (s : State) (b a : Nat) (hc : s.Canonical) (hb : b < 17) :
    s.PairFailed ((s.setGuard b none).integ b .guardFail a) b := by
  have hc1 := s.setGuard_canonical b none hc
  have hr : (s.setGuard b none).Reported ((s.setGuard b none).integ b .guardFail a) := State.integ_same _ b .guardFail a
  refine ⟨?_, fun c h => ?_, State.integ_flag _ b .guardFail a hc1 hb, State.integ_pend _ b .guardFail a hc1,
    fun c h1 h2 h3 => State.reg_integ_ne _ b .guardFail a c h1 h2 h3, ?_⟩
  · rw [hr.guardOf, s.guardOf_setGuard b none hc]
  · rw [hr.guardOf, s.guardOf_setGuard_ne b c none h]
  · generalize (s.setGuard b none).integ b .guardFail a = t at hr ⊢
    unfold State.Reported at hr
    rw [hr]
    rfl

/-- A pending pair that its block fails. -/
theorem State.guardBreak_some (s : State) (b : Nat) (g : GuardPend) (h : s.guardOf b = some g) :
    s.guardBreak b = (s.setGuard b none).integ b .guardFail g.a := by
  unfold State.guardBreak
  rw [h]

/-- The first half on the bus opens the pair (02 R28). -/
theorem State.poke_guardOpen (s : State) (i a : Nat) (v : Word) (r : RegRow) (h4 : a % 4 = 0) (ha : a < 0x2000000) (hk : kindOf a = .reg r)
    (hg : r.guard = true) (hm : s.mayWrite i a v = true) : s.poke i a v = s.guardOpen i a v := by
  have e : BitVec.ofNat 32 v.toNat = v := by rw [BitVec.ofNat_toNat, BitVec.setWidth_eq]
  unfold State.poke
  refine State.busWrite_word s i a _ none h4 ha _ ?_
  unfold State.write32
  rw [hk, e]
  simp only [hm, Bool.not_true]
  rw [if_neg (by decide), if_pos hg]

/-- Where no pair is pending, the opened pair is all that changes. -/
theorem State.guardOpen_quiet (s : State) (i a : Nat) (v : Word) (h : s.guardOf (blockOf a) = none) :
    s.guardOpen i a v = s.setGuard (blockOf a) (some ⟨i, a, v, s.now + 320⟩) := by
  unfold State.guardOpen
  rw [State.guardBreak_quiet s _ h]

/-- A complement with no pair pending fails (02 R29). -/
theorem State.guardClose_none (s : State) (r : RegRow) (i a : Nat) (v : Word) (h : s.guardOf (blockOf a) = none) :
    s.guardClose r i a v = s.integ (blockOf a) .guardFail a := by
  unfold State.guardClose
  dsimp only
  rw [h]
  dsimp only
  rw [h]

/-- The complement of a pair in time: it commits where initiator and value agree, and fails otherwise. -/
theorem State.guardClose_pending (s : State) (r : RegRow) (i j a d : Nat) (v x : Word) (h : s.guardOf (blockOf a) = some ⟨i, a, v, d⟩) (hd : s.now ≤ d) :
    s.guardClose r j a x = if i = j ∧ v = ~~~x then (s.setGuard (blockOf a) none).regCommit r j a v none
      else (s.setGuard (blockOf a) none).integ (blockOf a) .guardFail a := by
  unfold State.guardClose
  dsimp only
  rw [h]
  dsimp only
  rw [if_neg (show ¬d < s.now by omega), h]
  dsimp only
  rw [if_neg (by simp)]

/-- The matching complement commits. -/
theorem State.guardClose_commit (s : State) (r : RegRow) (i a d : Nat) (v : Word) (h : s.guardOf (blockOf a) = some ⟨i, a, v, d⟩) (hd : s.now ≤ d) :
    s.guardClose r i a (~~~v) = (s.setGuard (blockOf a) none).regCommit r i a v none := by
  rw [s.guardClose_pending r i i a d v _ h hd, if_pos ⟨rfl, (BitVec.not_not).symm⟩]

/-- A pair past its deadline fails at its timeout (02 R29). -/
theorem State.guardTimeout_late (s : State) (b : Nat) (g : GuardPend) (h : s.guardOf b = some g) (hd : g.deadline < s.now) :
    s.guardTimeout b = (s.setGuard b none).integ b .guardFail g.a := by
  unfold State.guardTimeout
  rw [h]
  dsimp only
  rw [if_pos hd, s.guardBreak_some b g h]

/-- Before the deadline the timeout does nothing. -/
theorem State.guardTimeout_early (s : State) (b : Nat) (g : GuardPend) (h : s.guardOf b = some g) (hd : s.now ≤ g.deadline) : s.guardTimeout b = s := by
  unfold State.guardTimeout
  rw [h]
  exact if_neg (by omega)

theorem State.guardTimeout_none (s : State) (b : Nat) (h : s.guardOf b = none) : s.guardTimeout b = s := by
  unfold State.guardTimeout
  rw [h]

/-- A first half over a pending pair: that pair has failed, and the new one is open. -/
theorem State.guardOpen_pending (s : State) (i a : Nat) (v : Word) (g : GuardPend) (hc : s.Canonical) (h : s.guardOf (blockOf a) = some g) :
    ∃ u : State, s.PairFailed u (blockOf a) ∧ u.Canonical ∧ s.guardOpen i a v = u.setGuard (blockOf a) (some ⟨i, a, v, s.now + 320⟩) := by
  refine ⟨_, s.pairFailed_integ _ g.a hc (blockOf_lt a), (State.integ_keeps (State.Keeps.refl _) _ _ _).canon (s.setGuard_canonical _ none hc), ?_⟩
  unfold State.guardOpen
  rw [s.guardBreak_some _ g h]

/-- Settles O10: the first half opens, a matching second half commits, and every other end is a `State.PairFailed`. -/
theorem guardedPairsCommitOrFail : Obligations.GuardedPairsCommitOrFail := by
  unfold Obligations.GuardedPairsCommitOrFail
  refine ⟨fun s i a v r hc hp h4 ha hk hg hk2 hm hm2 => ?_, fun s b hc hp => ⟨fun g h hd => ?_, fun g h hd => ?_, fun h => ?_⟩⟩
  · have hopen : exec (.guardFirstHalf i a v) s = .next (s.guardOpen i.val a.toNat v) :=
      (next_live s _ hp).trans (congrArg _ (s.poke_guardOpen i.val a.toNat v r h4 (by omega) hk hg (hm v)))
    have hclose : ∀ (j : Fin 3) (x : Word), s.mayWrite j.val (a.toNat + 4) x = true →
        exec (.guardCommit j a x) s = .next (s.guardClose r j.val a.toNat x) := fun j x hj =>
      (next_live s _ hp).trans (congrArg _ (s.poke_comp j.val a.toNat x r h4 ha hj hk2))
    refine ⟨fun h => ?_, fun g h => ?_, fun d h hd => ⟨?_, fun j x hne hj => ?_⟩, fun h => ?_⟩
    · refine ⟨_, hopen, ?_, ?_, fun c hb => ?_⟩
      · rw [s.guardOpen_quiet _ _ _ h, s.guardOf_setGuard _ _ hc]
      · rw [s.guardOpen_quiet _ _ _ h]
        rfl
      · rw [s.guardOpen_quiet _ _ _ h, s.guardOf_setGuard_ne _ _ _ hb]
    · obtain ⟨u, hf, hcu, hu⟩ := s.guardOpen_pending i.val a.toNat v g hc h
      rw [hu] at hopen
      refine ⟨_, hopen, u.guardOf_setGuard _ _ hcu, hf.flag, hf.pend, fun c hb => ?_, hf.regs, ?_⟩
      · rw [u.guardOf_setGuard_ne _ _ _ hb, hf.others c hb]
      · conv => lhs; rw [hf.same]
        rfl
    · rw [hclose i _ (hm2 _), s.guardClose_commit r i.val a.toNat d v h hd]
    · have hfail : ¬(i.val = j.val ∧ v = ~~~x) := by
        rintro ⟨h1, h2⟩
        obtain h3 | h3 := hne
        · exact h3 (Fin.ext h1.symm)
        · exact h3 (by rw [h2, BitVec.not_not])
      have hf := s.pairFailed_integ (blockOf a.toNat) a.toNat hc (blockOf_lt _)
      refine ⟨_, (hclose j x hj).trans ?_, hf.regs, hf.closed, hf.pend, hf.flag, hf.same⟩
      rw [s.guardClose_pending r i.val j.val a.toNat d v x h hd, if_neg hfail]
    · refine ⟨_, (hclose i v (hm2 v)).trans (congrArg _ (s.guardClose_none r i.val a.toNat v h)), ?_, s.integ_pend _ .guardFail _ hc,
        s.integ_flag _ .guardFail _ hc (blockOf_lt _), s.integ_same _ _ _⟩
      rw [State.Reported.guardOf (s.integ_same _ .guardFail _), h]
  · have hf := s.pairFailed_integ b.val g.a hc b.isLt
    exact ⟨_, (next_live s _ hp).trans (congrArg _ (s.guardTimeout_late b.val g h hd)), hf.closed, hf.flag, hf.pend, hf.same⟩
  · exact (next_live s _ hp).trans (congrArg _ (s.guardTimeout_early b.val g h hd))
  · exact (next_live s _ hp).trans (congrArg _ (s.guardTimeout_none b.val h))

end Sys2Proof.Machine
end

section
/-! SUPPORT. Register writes by field type (02 R22, R25, R26, R28). -/

namespace Sys2Proof.Machine

/-- INTEG and INTEG_ADDR of a block are no rows of the register map. -/
theorem kindOf_integAddr {b : Nat} (hb : b < 17) : kindOf (integAddr b) = .integ ∧ kindOf (integAddr b + 4) = .integA := by
  revert hb
  revert b
  decide

/-- A register of the map is neither INTEG nor INTEG_ADDR of its block. -/
theorem ne_integAddr_of_reg {a : Nat} {r : RegRow} (hk : kindOf a = .reg r) : a ≠ integAddr (blockOf a) ∧ a ≠ integAddr (blockOf a) + 4 := by
  obtain ⟨h1, h2⟩ := kindOf_integAddr (blockOf_lt a)
  refine ⟨fun h => ?_, fun h => ?_⟩
  · rw [← h, hk] at h1
    cases h1
  · rw [← h, hk] at h2
    cases h2

/-- An Installer's aligned 32-bit write of a plain register commits, whatever hardware writes in the same cycle. -/
theorem exec_registerWrite_reg (s : State) (i : Fin 3) (a : BitVec 32) (v : BitVec 64) (race : Option (BitVec 32)) (r : RegRow) (hm : s.May i.val a.toNat)
    (hk : kindOf a.toNat = .reg r)
    (ha : (a.toNat % 4 == 0 && decide (a.toNat < 0x2000000) && a.toNat != ROL_LC_REQ.a && a.toNat != ROL_LC_REQ.a + 4 && !carrOnly a.toNat) = true)
    (hg : r.guard = false) (hs : r.base ≠ SEQ_CTRL.a 0) :
    exec (.registerWrite i a 2 v race) s = .next (s.regCommit r i.val a.toNat (BitVec.ofNat 32 v.toNat) race) := by
  simp only [Bool.and_eq_true, beq_iff_eq, bne_iff_ne, Bool.not_eq_true', decide_eq_true_eq] at ha
  obtain ⟨⟨⟨⟨h4, hlt⟩, h1⟩, h2⟩, h3⟩ := ha
  refine (next_live s _ hm.powered).trans (congrArg _ ?_)
  refine (s.busWrite_reg i.val a.toNat _ race r hm h4 hlt hk hg hs (by simp [h1, h2]) h3).trans ?_
  exact congrArg (fun w => s.regCommit r i.val a.toNat w race) (word_of_write v)

/-- A 32-bit write with no race is a write on the bus. -/
theorem exec_registerWrite_poke (s : State) (i : Fin 3) (a : BitVec 32) (v : BitVec 64) (hp : s.powered = true) :
    exec (.registerWrite i a 2 v none) s = .next (s.poke i.val a.toNat (BitVec.ofNat 32 v.toNat)) := by
  refine (next_live s _ hp).trans (congrArg _ ?_)
  unfold State.poke
  rw [BitVec.toNat_ofNat]
  rfl

/-- The register after its commit. -/
theorem State.reg_committed (s : State) (r : RegRow) (i a : Nat) (w : Word) (hc : s.Canonical) (h : a ≠ EVT_SRC_STAT.a 60) :
    (s.committed r i a w).reg a = s.newVal r a w := by
  unfold State.committed
  rw [State.reg_audit_ne _ _ _ _ _ _ _ _ h]
  exact State.reg_setReg _ _ _ hc.regs

/-- 02 R26: hardware writes the value that software writes. -/
theorem State.raceWith_equal (s : State) (r : RegRow) (a : Nat) (w h : Word) (hr : r.rwh ≠ 0#32) (he : w &&& r.rwh = h &&& r.rwh) :
    s.raceWith r a w (some h) = s.setReg a ((s.reg a &&& ~~~r.rwh) ||| (h &&& r.rwh)) := by
  unfold State.raceWith
  dsimp only
  rw [if_neg hr, if_pos he]

/-- 02 R26, R27: hardware writes another value, and the software's is lost. -/
theorem State.raceWith_lost (s : State) (r : RegRow) (a : Nat) (w h : Word) (hr : r.rwh ≠ 0#32) (he : w &&& r.rwh ≠ h &&& r.rwh) :
    s.raceWith r a w (some h) = (s.setReg a ((s.reg a &&& ~~~r.rwh) ||| (h &&& r.rwh))).integ (blockOf a) .writeLost a := by
  unfold State.raceWith
  dsimp only
  rw [if_neg hr, if_neg he]

/-- An Installer may write both halves of a guarded register that is neither the lifecycle's nor Carr's. -/
theorem State.mayWrite_halves (s : State) (i a : Nat) (r : RegRow) (hrole : s.roleOf i = 2) (hk : kindOf a = .reg r) (hk2 : kindOf (a + 4) = .comp r)
    (hlc : a ≠ ROL_LC_REQ.a) (h1 : carrOnly a = false) (h2 : carrOnly (a + 4) = false) (x : Word) :
    s.mayWrite i a x = true ∧ s.mayWrite i (a + 4) x = true := by
  have hcomp : a ≠ ROL_LC_REQ.a + 4 := fun h => by
    rw [h, kindOf_ROL_LC_REQ_C] at hk
    cases hk
  have hreg : a + 4 ≠ ROL_LC_REQ.a := fun h => by
    rw [h, kindOf_ROL_LC_REQ] at hk2
    cases hk2
  exact ⟨s.mayWrite_installer i a x hrole (by simp [hlc, hcomp]) h1, s.mayWrite_installer i (a + 4) x hrole (by simp [hlc, hreg]) h2⟩

/-- Settles O7: the plain writes by `State.regCommit`, the race by `State.raceWith`, the guarded pair by its halves. -/
theorem registerWritesActByFieldType : Obligations.RegisterWritesActByFieldType := by
  unfold Obligations.RegisterWritesActByFieldType
  refine ⟨fun s i a v r hc hm hk ha hr => ?_, fun s r a w h hc hk hr => ⟨s.raceWith_equal r a w h hr, fun he h59 => ?_⟩,
    fun s i a v r d hc hp hrole h4 hlt hk hg hk2 hlc hc1 hc2 => ⟨fun hq => ?_, fun hq hd => ?_, fun k hb hq hd => ?_⟩⟩
  · have hrow := hr
    simp only [Bool.and_eq_true, bne_iff_ne, Bool.not_eq_true'] at hrow
    obtain ⟨⟨hg, hs⟩, hpol⟩ := hrow
    have hx := fun race => exec_registerWrite_reg s i a v race r hm hk ha hg hs
    refine ⟨hx, fun hl hmask => ⟨?_, s.reg_committed r i.val a.toNat _ hc, fun b h1 h2 => phase_reg_comm s r i.val a.toNat b _ h1 h2⟩, fun hmask => ?_⟩
    · exact (exec_registerWrite_poke s i a v hm.powered).trans (congrArg _ (s.poke_commit i.val a.toNat _ r hc hm hk ha hr hl hmask))
    · rw [hx none, s.regCommit_clear r i.val a.toNat _ hc hmask hpol]
  · obtain ⟨hn1, hn2⟩ := ne_integAddr_of_reg hk
    have hc1 : (s.setReg a ((s.reg a &&& ~~~r.rwh) ||| (h &&& r.rwh))).Canonical := (State.setReg_keeps (State.Keeps.refl s) _ _).canon hc
    dsimp only
    rw [s.raceWith_lost r a w h hr he]
    exact ⟨(State.reg_integ_ne _ _ .writeLost a a hn1 hn2 h59).trans (State.reg_setReg _ _ _ hc.regs), State.integ_flag _ _ .writeLost a hc1 (blockOf_lt a),
      State.integ_pend _ _ .writeLost a hc1⟩
  · obtain ⟨hm, -⟩ := s.mayWrite_halves i.val a.toNat r hrole hk hk2 hlc hc1 hc2 v
    refine (next_live s _ hp).trans (congrArg _ ?_)
    rw [s.poke_guardOpen i.val a.toNat v r h4 (by omega) hk hg hm, s.guardOpen_quiet _ _ _ hq]
  · obtain ⟨-, hm⟩ := s.mayWrite_halves i.val a.toNat r hrole hk hk2 hlc hc1 hc2 (~~~v)
    refine (next_live s _ hp).trans (congrArg _ ?_)
    rw [s.poke_comp i.val a.toNat _ r h4 hlt hm hk2, s.guardClose_commit r i.val a.toNat d v hq hd]
  · rw [← hb] at hq ⊢
    exact (next_live s _ hp).trans (congrArg _ (s.guardTimeout_late k.val ⟨i.val, a.toNat, v, d⟩ hq hd))

end Sys2Proof.Machine
end

section
/-! SUPPORT. What reads deliver and clear, and the data words of mailboxes (02 R22, R25, R35, R37). -/

namespace Sys2Proof.Machine

/-- A read of a register clears its read-to-clear bits and nothing else. -/
theorem State.readReg_state (s : State) (r : RegRow) (i a : Nat) (hc : s.Canonical) : (s.readReg r i a).1 = s.setReg a (s.reg a &&& ~~~r.rc) := by
  unfold State.readReg
  dsimp only
  split
  · next h =>
    rw [h, BitVec.not_zero, BitVec.and_allOnes, State.setReg_self s a hc.regs]
  · rfl

/-- 06 "SEQ_QCNT_A": its value is the stored word. -/
theorem State.readReg_SEQ_QCNT_A (s : State) (i : Nat) (n : Fin 8) :
    (s.readReg { base := SEQ_QCNT_A.a 0, s1 := 256, n1 := 8, rc := 0xffffffff#32 } i (SEQ_QCNT_A.a n.val)).2 = s.reg (SEQ_QCNT_A.a n.val) := by
  have hb : blockOf (SEQ_QCNT_A.a n.val) = 5 := by revert n; decide
  have hview : ∀ k w, s.viewCtl (SEQ_QCNT_A.a 0) k i w = w := fun k w => rfl
  unfold State.readReg
  dsimp only
  rw [hb, if_pos (.inl (le_refl 5)), hview, BitVec.or_self, BitVec.not_zero, BitVec.and_allOnes]

/-- The status word of a read mailbox after data word `k` has been read (02 R35). -/
theorem State.readData_eq (s : State) (mb : MbxRow) (m k : Nat) (hc : s.Canonical) (h0 : m ≠ fdbLnot 0) (h1 : m ≠ fdbLnot 1) :
    s.readData mb (mbxData m k) k = s.setReg (m + 4) (if fldGet (s.reg (m + 4)) MBX_STAT.valid = 0 then fldSet (s.reg (m + 4)) MBX_STAT.stale_read 1
      else if k + 1 = mb.n then fldSet (s.reg (m + 4)) MBX_STAT.valid 0 else s.reg (m + 4)) := by
  have hm : mbxData m k - 0x20 - 4 * k = m := by unfold mbxData; omega
  unfold State.readData
  dsimp only
  rw [hm, if_neg h0, if_neg h1]
  split
  · rfl
  · split
    · rfl
    · exact (State.setReg_self s (m + 4) hc.regs).symm

/-- A 32-bit write of a mailbox's data word where no pair is pending. -/
theorem State.busWrite_mdata (s : State) (i a v k : Nat) (mb : MbxRow) (hq : s.guardOf (blockOf a) = none) (hm : s.mayWrite i a (BitVec.ofNat 32 v) = true)
    (h4 : a % 4 = 0) (ha : a < 0x2000000) (hk : kindOf a = .mdata mb k) :
    s.busWrite i a 4 v none = s.mbxWord mb a k (BitVec.ofNat 32 v) := by
  refine s.busWrite_word i a v none h4 ha _ ?_
  unfold State.write32
  rw [hk]
  simp only [hm, Bool.not_true]
  rw [if_neg (by decide)]
  unfold State.coreWrite
  rw [hq]
  dsimp only
  unfold State.plainWrite
  rw [hk]

/-- A data word of a write mailbox is stored while the mailbox is idle (02 R37). -/
theorem State.mbxWord_write (s : State) (mb : MbxRow) (m k : Nat) (w : Word) (hr : mb.rd = false) :
    s.mbxWord mb (mbxData m k) k w = if fldGet (s.reg m) MBX_CTRL.req = 1 then s.setF (m + 4) MBX_STAT.overrun 1 else s.setReg (mbxData m k) w := by
  have hm : mbxData m k - 0x20 - 4 * k = m := by unfold mbxData; omega
  unfold State.mbxWord
  dsimp only
  rw [hm, hr, if_neg (by decide)]

/-- Settles O8: a register's read by `State.readReg_state`, the words of the mailboxes by `State.readData_eq` and `State.mbxWord_write`. -/
theorem readsDeliverAndMailboxWordsAreStored : Obligations.ReadsDeliverAndMailboxWordsAreStored := by
  unfold Obligations.ReadsDeliverAndMailboxWordsAreStored
  refine ⟨⟨fun s i a r hc hp hm h4 ha hk => ?_, fun s i n => s.readReg_SEQ_QCNT_A i.val n, fun s i a mb m k hc hp hm h4 ha he hk hr h0 h1 => ?_⟩,
    fun s i a v mb m k hc hm h4 ha he hk hr hlc hlc4 hcarr => ?_⟩
  · refine ⟨_, (next_live s _ hp).trans (congrArg _ (s.busRead_word i.val a.toNat r hm h4 ha hk)), ?_, ?_, fun b hb => ?_⟩
    · rw [State.reg_emit, s.readReg_state r _ _ hc, State.reg_setReg _ _ _ hc.regs]
    · rw [s.readReg_state r _ _ hc]
      rfl
    · rw [State.reg_emit, s.readReg_state r _ _ hc, State.reg_setReg_ne _ _ _ _ hb]
  · have hd := s.readData_eq mb m k hc h0 h1
    rw [← he] at hd
    refine ⟨_, (next_live s _ hp).trans (congrArg _ (busRead_data s i.val a.toNat m k mb h4 ha he hk hr hm)), ?_, fun b hb => ?_, ?_⟩
    · rw [hd]
      rfl
    · rw [State.reg_emit, hd, State.reg_setReg_ne _ _ _ _ hb]
    · rw [State.reg_emit, hd, State.reg_setReg _ _ _ hc.regs]
  · have hw := s.mayWrite_installer i.val a.toNat (BitVec.ofNat 32 (v.toNat % 2 ^ (8 * 2 ^ 2))) hm.role (by simp [hlc, hlc4]) hcarr
    refine (next_live s _ hm.powered).trans (congrArg _ ((s.busWrite_mdata i.val a.toNat _ k mb hm.quiet hw h4 ha hk).trans ?_))
    rw [he]
    exact (congrArg _ (word_of_write v)).trans (s.mbxWord_write mb m k _ hr)

end Sys2Proof.Machine
end

section
/-! SUPPORT. Parity faults and the vote over T fields (02 R31 to R33). -/

namespace Sys2Proof.Machine

theorem State.parOf_setPar (s : State) (a : Nat) (p : ParSt) (hc : s.Canonical) : (s.setPar a p).parOf a = p := Cells.get_set hc.par a p

theorem State.setPar_canonical (s : State) (a : Nat) (p : ParSt) (hc : s.Canonical) : (s.setPar a p).Canonical :=
  (State.setPar_keeps (State.Keeps.refl s) a p).canon hc

theorem State.setPar_self (s : State) (a : Nat) (hc : s.Canonical) : s.setPar a (s.parOf a) = s := by
  unfold State.setPar State.parOf
  rw [Cells.set_get hc.par]

theorem State.Reported.parOf {s t : State} (h : s.Reported t) (a : Nat) : t.parOf a = s.parOf a := by
  unfold State.Reported at h
  rw [h]
  rfl

/-- The state in which the bits `t` of the T fields at `a` wait for their restore (02 R32). -/
def State.markVote (s : State) (a : Nat) (t : Word) : State := s.setPar a { s.parOf a with vote := (s.parOf a).vote ||| t }

/-- A mark of no bit changes nothing. -/
theorem State.markVote_zero (s : State) (a : Nat) (hc : s.Canonical) : s.markVote a 0#32 = s := by
  unfold State.markVote
  rw [BitVec.or_zero]
  exact s.setPar_self a hc

theorem State.parOf_markVote (s : State) (a : Nat) (t : Word) (hc : s.Canonical) :
    (s.markVote a t).parOf a = { s.parOf a with vote := (s.parOf a).vote ||| t } := s.parOf_setPar a _ hc

/-- The state in which the bits `n` at `a` are flipped, the fields `bad` are in safe behaviour, and the fault is reported (02 R31, R33). -/
def State.parityHit (s : State) (a : Nat) (n bad : Word) : State :=
  ((s.setReg a (s.reg a ^^^ n)).setPar a { s.parOf a with bad := (s.parOf a).bad ||| bad }).integ (blockOf a) .parityFault a

/-- A parity scan marks the bits that wait for their restore, and flips the others. -/
theorem State.parityScan_eq (s : State) (a : Nat) (flip : Word) (agree : Bool) (r : RegRow) (hc : s.Canonical) (hk : kindOf a = .reg r) :
    let voted := if agree then flip &&& r.par &&& r.tri else 0#32
    let n := flip &&& r.par &&& ~~~voted
    let t := (s.markVote a voted).parityHit a n (fieldSpread r.cut n &&& r.par)
    s.parityScan a flip agree = if n = 0#32 then s.markVote a voted else if t.hw a = s.hw a then t else t.useChanged r a (s.hw a) := by
  dsimp only
  generalize hv : (if agree = true then flip &&& r.par &&& r.tri else 0#32) = voted
  have hmark : (if voted = 0#32 then s else s.setPar a { s.parOf a with vote := (s.parOf a).vote ||| voted }) = s.markVote a voted := by
    split
    · next h => rw [h, s.markVote_zero a hc]
    · rfl
  unfold State.parityScan
  rw [hk]
  dsimp only
  rw [hv, hmark]
  rfl

/-- The bits that safe behaviour covers are used at their reset value (02 R33). -/
theorem State.hw_bad (s : State) (a k : Nat) (h : (s.parOf a).bad.getLsbD k = true) : (s.hw a).getLsbD k = (resetOf a).getLsbD k := by
  have hk : k < 32 := BitVec.lt_of_getLsbD h
  have hne : (s.parOf a).bad ≠ 0#32 := fun h0 => by
    rw [h0, BitVec.getLsbD_zero] at h
    cases h
  unfold State.hw
  dsimp only
  rw [if_neg hne, BitVec.getLsbD_or, BitVec.getLsbD_and, BitVec.getLsbD_and, BitVec.getLsbD_not, h]
  simp [hk]

section
variable (s : State) (a : Nat) (n bad : Word) (hc : s.Canonical)
include hc

theorem State.parityHit_before_canonical :
    ((s.setReg a (s.reg a ^^^ n)).setPar a { s.parOf a with bad := (s.parOf a).bad ||| bad }).Canonical :=
  State.setPar_canonical _ a _ ((State.setReg_keeps (State.Keeps.refl s) _ _).canon hc)

theorem State.reg_parityHit {r : RegRow} (hk : kindOf a = .reg r) (h59 : a ≠ EVT_SRC_STAT.a 59) : (s.parityHit a n bad).reg a = s.reg a ^^^ n := by
  obtain ⟨h1, h2⟩ := ne_integAddr_of_reg hk
  exact (State.reg_integ_ne _ _ .parityFault a a h1 h2 h59).trans (State.reg_setReg _ _ _ hc.regs)

theorem State.parOf_parityHit : (s.parityHit a n bad).parOf a = { s.parOf a with bad := (s.parOf a).bad ||| bad } :=
  (State.Reported.parOf (State.integ_same _ _ .parityFault a) a).trans
    (State.parOf_setPar _ a _ ((State.setReg_keeps (State.Keeps.refl s) _ _).canon hc))

/-- A parity fault sets its flag and raises EV59 (02 R34). -/
theorem State.parityHit_reported : fldGet ((s.parityHit a n bad).reg (integAddr (blockOf a))) ⟨26, 26⟩ = 1 ∧
    fldGet ((s.parityHit a n bad).reg (EVT_SRC_STAT.a 59)) EVT_SRC_STAT.pend = 1 := by
  have hc1 := s.parityHit_before_canonical a n bad hc
  exact ⟨State.integ_flag _ _ .parityFault a hc1 (blockOf_lt a), State.integ_pend _ _ .parityFault a hc1⟩

end

theorem State.parityHit_same (s : State) (a : Nat) (t n bad : Word) : let u := (s.markVote a t).parityHit a n bad
    u = { s with regs := u.regs, par := u.par, evt := u.evt, out := u.out, pcie := { s.pcie with pba := u.pcie.pba } } := by
  have h : ((((s.markVote a t).setReg a ((s.markVote a t).reg a ^^^ n)).setPar a
      { (s.markVote a t).parOf a with bad := ((s.markVote a t).parOf a).bad ||| bad })).Reported ((s.markVote a t).parityHit a n bad) :=
    State.integ_same _ _ .parityFault a
  dsimp only
  generalize (s.markVote a t).parityHit a n bad = u at h ⊢
  unfold State.Reported at h
  rw [h]
  rfl

/-- The bits that wait for their restore get it: the vote is clear, and the fabric reports it (02 R32). -/
theorem State.parityRestore_voted (s : State) (a : Nat) (hc : s.Canonical) {r : RegRow} (hk : kindOf a = .reg r) (h59 : a ≠ EVT_SRC_STAT.a 59)
    (hv : (s.parOf a).vote ≠ 0#32) :
    let u := s.parityRestore a
    (u.parOf a).vote = 0#32 ∧ u.reg a = s.reg a ∧ fldGet (u.reg (integAddr (blockOf a))) ⟨25, 25⟩ = 1 ∧
      fldGet (u.reg (EVT_SRC_STAT.a 59)) EVT_SRC_STAT.pend = 1 := by
  obtain ⟨h1, h2⟩ := ne_integAddr_of_reg hk
  have hc1 := s.setPar_canonical a { s.parOf a with vote := 0#32 } hc
  have hu : s.parityRestore a = (s.setPar a { s.parOf a with vote := 0#32 }).integ (blockOf a) .parityRestored a := if_neg hv
  dsimp only
  rw [hu]
  refine ⟨?_, State.reg_integ_ne _ _ .parityRestored a a h1 h2 h59, State.integ_flag _ _ .parityRestored a hc1 (blockOf_lt a),
    State.integ_pend _ _ .parityRestored a hc1⟩
  rw [State.Reported.parOf (State.integ_same _ _ .parityRestored a), s.parOf_setPar a _ hc]

/-- Settles O11: the scan by `State.parityScan_eq`, safe behaviour by `State.hw_bad`, the restore by `State.parityRestore_voted`. -/
theorem parityFaultsEnterSafeBehaviour : Obligations.ParityFaultsEnterSafeBehaviour := by
  unfold Obligations.ParityFaultsEnterSafeBehaviour
  intro s a flip agree r hc hp hk h59
  have hscan := s.parityScan_eq a.toNat flip agree r hc hk
  have hx : exec (.parityScan a flip agree) s = .next (s.parityScan a.toNat flip agree) := next_live s _ hp
  dsimp only at hscan ⊢
  refine ⟨fun h0 => ?_, fun hn => ?_, fun hv hn => ?_⟩
  · have hv : (if agree = true then flip &&& r.par &&& r.tri else 0#32) = 0#32 := by
      rw [h0, BitVec.zero_and, ite_self]
    rw [hv, h0, BitVec.zero_and, if_pos rfl, s.markVote_zero _ hc] at hscan
    rw [hx, hscan]
  · generalize (if agree = true then flip &&& r.par &&& r.tri else 0#32) = voted at *
    have hcm : (s.markVote a.toNat voted).Canonical := s.setPar_canonical _ _ hc
    obtain ⟨hflag, hpend⟩ := (s.markVote a.toNat voted).parityHit_reported a.toNat (flip &&& r.par &&& ~~~voted)
      (fieldSpread r.cut (flip &&& r.par &&& ~~~voted) &&& r.par) hcm
    rw [if_neg hn] at hscan
    refine ⟨_, hx.trans (congrArg _ hscan), State.reg_parityHit _ _ _ _ hcm hk h59, ?_, ?_, hflag, hpend, s.parityHit_same _ _ _ _, fun k hb => ?_⟩
    · rw [State.parOf_parityHit _ _ _ _ hcm, s.parOf_markVote _ _ hc]
    · rw [State.parOf_parityHit _ _ _ _ hcm, s.parOf_markVote _ _ hc]
    · refine State.hw_bad _ _ _ ?_
      rw [State.parOf_parityHit _ _ _ _ hcm, BitVec.getLsbD_or, hb, Bool.or_true]
  · generalize (if agree = true then flip &&& r.par &&& r.tri else 0#32) = voted at *
    have hcm : (s.markVote a.toNat voted).Canonical := s.setPar_canonical _ _ hc
    have hvote : ((s.markVote a.toNat voted).parOf a.toNat).vote ≠ 0#32 := by
      rw [s.parOf_markVote _ _ hc]
      exact fun h => hv (BitVec.or_eq_zero_iff.1 h).2
    obtain ⟨h1, h2, h3, h4⟩ := State.parityRestore_voted _ a.toNat hcm hk h59 hvote
    rw [if_pos hn] at hscan
    refine ⟨_, hx.trans (congrArg _ hscan), ?_, rfl, _, next_live _ _ hp, h1, h2, h3, h4⟩
    rw [s.parOf_markVote _ _ hc]

end Sys2Proof.Machine
end

section
/-! SUPPORT. Challenge and response (02 R47, R48). -/

namespace Sys2Proof.Machine

/-- What ROL_RESP holds is what it held before the request's control word and its audit entry. -/
theorem State.respBytes_ordered (s : State) (i op : Nat) : (s.ordered i rolResp op 0).respBytes = s.respBytes := by
  have h : ∀ k, (s.ordered i rolResp op 0).dw rolResp k = s.dw rolResp k := fun k =>
    seq_ordDw s i rolResp op 0 rolResp k (by unfold mbxData; omega) (by unfold mbxData rolResp EVT_SRC_STAT.a; omega)
  unfold State.respBytes
  simp only [h]

/-- A command in ROL_RESP leaves the status word of its mailbox. -/
theorem State.stat_ordered_rolResp (s : State) (i op : Nat) : (s.ordered i rolResp op 0).reg (rolResp + 4) = s.reg (rolResp + 4) :=
  State.reg_ordered_ne s i rolResp op 0 (rolResp + 4) (by decide) (by decide)

/-- Any initiator may send a response. -/
theorem State.mayWrite_response (s : State) (i : Nat) : s.mayWrite i rolResp (BitVec.ofNat 32 (0 * 65536 + 1 * 256 + 1)) = true := by
  have h1 : ¬(rolResp = ROL_LC_REQ.a ∨ rolResp = ROL_LC_REQ.a + 4) := by decide
  have h2 : carrOnly rolResp = false := by decide
  have h3 : roleEntry rolResp (BitVec.ofNat 32 (0 * 65536 + 1 * 256 + 1)) = true := by decide
  unfold State.mayWrite
  rw [if_neg h1, h2]
  simp [h3]

/-- A response is judged, and its mailbox completes. -/
theorem State.respReq_one (u : State) (i : Nat) : u.respReq i 1 0 = (u.respJudge i u.respBytes).mbxDone rolResp 8 := rfl

/-- ROLE_RESPONSE, in order. -/
theorem exec_roleResponse (s : State) (i : Fin 3) (hp : s.powered = true) (hq : s.guardOf 2 = none) (h0 : fldGet (s.reg rolResp) MBX_CTRL.req = 0) :
    exec (.roleResponse i 0) s = .next (((s.ordered i.val rolResp 1 0).respJudge i.val s.respBytes).mbxDone rolResp 8) := by
  refine (next_live s _ hp).trans (congrArg _ ((role_respOrder s i.val 1 (by decide) hq h0 (s.mayWrite_response i.val)).trans ?_))
  rw [State.respReq_one, s.respBytes_ordered]

/-- The judgement of a response to an open challenge: it is right where it is the HMAC under the role's secret and the lifecycle lets the role
in (02 R47, log entry 50). -/
theorem State.respJudge_open (u : State) (i : Nat) (resp : List Byte) (k : BitVec 256) (hv : (u.sessOf i).chalValid = true) (hn : u.now ≤ (u.sessOf i).chalEnd)
    (hk : u.secretOf (u.sessOf i).chalRole = some k) :
    u.respJudge i resp =
      if (lcAllows u.fuse.state (u.sessOf i).chalRole &&
          hmacSha256 (beBytes 32 k.toNat) (respMsg (u.sessOf i).chal (u.sessOf i).chalRole i) == resp) = true then
        (let t := ((u.setSess i { u.sessOf i with chalValid := false }).setLock (u.sessOf i).chalRole {}).setRoleAt i (u.sessOf i).chalRole rolResp
         t.setSess i { t.sessOf i with lastResult := 1 })
      else ((u.setSess i { u.sessOf i with chalValid := false }).setSess i { u.sessOf i with chalValid := false, lastResult := 2 }).authFail i
        (u.sessOf i).chalRole := by
  unfold State.respJudge
  dsimp only
  rw [if_pos ⟨hv, hn⟩, hk]

/-- From `u` to `t` initiator `i` has entered role `r`: its session has the role, and the role's lock record is cleared (02 R47, R48). -/
structure State.Entered (u t : State) (i r : Nat) : Prop where
  role : (t.sessOf i).role = r
  result : (t.sessOf i).lastResult = 1
  chal : (t.sessOf i).chalValid = false
  lock : t.lockOf r = {}
  others : ∀ j, j ≠ i → t.sessOf j = u.sessOf j
  regs : ∀ a, a ≠ EVT_SRC_STAT.a 60 → t.reg a = u.reg a

/-- From `u` to `t` a response of initiator `i` for role `r` has failed: the challenge is used up, and every fourth failure locks the role
(02 R47, R48). -/
structure State.Failed (u t : State) (i r : Nat) : Prop where
  role : (t.sessOf i).role = (u.sessOf i).role
  result : (t.sessOf i).lastResult = 2
  chal : (t.sessOf i).chalValid = false
  fails : (t.lockOf r).fails = (u.lockOf r).fails + 1
  locks : ((u.lockOf r).fails + 1) % 4 = 0 → (t.lockOf r).locked = true ∧ (t.lockOf r).lockEnd = u.now + 250000000 * min 320 (10 * 2 ^ (u.lockOf r).locks)
  regs : ∀ a, a ≠ EVT_SRC_STAT.a 60 → t.reg a = u.reg a

theorem State.setSess_canonical (u : State) (i : Nat) (x : RoleSess) (hc : u.Canonical) : (u.setSess i x).Canonical :=
  (State.setSess_keeps (State.Keeps.refl u) i x).canon hc

theorem State.setSess_setSess (u : State) (i : Nat) (x y : RoleSess) (hc : u.Canonical) : (u.setSess i x).setSess i y = u.setSess i y := by
  unfold State.setSess
  dsimp only
  rw [Cells.set_set hc.sess]

/-- A right response enters the role. -/
theorem State.entered_of_right (u : State) (i r : Nat) (hc : u.Canonical) :
    let t := ((u.setSess i { u.sessOf i with chalValid := false }).setLock r {}).setRoleAt i r rolResp
    u.Entered (t.setSess i { t.sessOf i with lastResult := 1 }) i r := by
  have hc1 : ((u.setSess i { u.sessOf i with chalValid := false }).setLock r {}).Canonical :=
    (State.setLock_keeps (State.Keeps.refl _) r {}).canon (u.setSess_canonical i _ hc)
  have hct := (State.setRoleAt_keeps (State.Keeps.refl _) i r rolResp).canon hc1
  obtain ⟨hs, ho, hl, hr⟩ := setRoleAt_facts _ i r rolResp hc1
  have hx : ((u.setSess i { u.sessOf i with chalValid := false }).setLock r {}).sessOf i = { u.sessOf i with chalValid := false } :=
    role_sessOf_setSess u i _ hc
  dsimp only
  refine ⟨?_, ?_, ?_, ?_, fun j hj => ?_, fun a ha => hr a ha⟩
  · rw [role_sessOf_setSess _ i _ hct, hs]
  · rw [role_sessOf_setSess _ i _ hct]
  · rw [role_sessOf_setSess _ i _ hct, hs, hx]
  · show Cells.get (fun _ => {}) (State.setRoleAt _ i r rolResp).lock r = _
    rw [hl]
    exact Cells.get_set hc.lock _ _
  · rw [role_sessOf_setSess_ne _ i j _ hj, ho j hj]
    exact role_sessOf_setSess_ne u i j _ hj

/-- A wrong response fails. -/
theorem State.failed_of_wrong (u : State) (i r : Nat) (hr : r ≠ 0) (hc : u.Canonical) :
    u.Failed (((u.setSess i { u.sessOf i with chalValid := false }).setSess i { u.sessOf i with chalValid := false, lastResult := 2 }).authFail i r) i r := by
  rw [u.setSess_setSess i _ _ hc]
  obtain ⟨hsess, hfails, hlock, hregs⟩ := role_authFail_facts (u.setSess i { u.sessOf i with chalValid := false, lastResult := 2 }) i r hr (u.setSess_canonical i _ hc)
  generalize (u.setSess i { u.sessOf i with chalValid := false, lastResult := 2 }).authFail i r = t at *
  have hx : t.sessOf i = { u.sessOf i with chalValid := false, lastResult := 2 } := by
    unfold State.sessOf
    rw [hsess]
    exact role_sessOf_setSess u i _ hc
  refine ⟨?_, ?_, ?_, hfails, fun h4 => hlock (hfails ▸ h4), hregs⟩
  · rw [hx]
  · rw [hx]
  · rw [hx]

end Sys2Proof.Machine
end

section
/-! SUPPORT. Challenges, their expiry and the end of a lockout (02 R47, R48). -/

namespace Sys2Proof.Machine

/-- A role that a challenge names, as the request's op. -/
theorem role_of_op {op : BitVec 8} (h : op = 1 ∨ op = 2 ∨ op = 3) : op.toNat = 1 ∨ op.toNat = 2 ∨ op.toNat = 3 := by
  obtain rfl | rfl | rfl := h
  · exact .inl rfl
  · exact .inr (.inl rfl)
  · exact .inr (.inr rfl)

/-- CHALLENGE_REQUEST, in order. -/
theorem exec_challengeRequest (s : State) (i : Fin 3) (op : BitVec 8) (hp : s.powered = true) (hq : s.guardOf 2 = none)
    (h0 : fldGet (s.reg rolChal) MBX_CTRL.req = 0) :
    exec (.challengeRequest i op 0) s = .next ((s.asked rolChal op.toNat 0).chalReq i.val op.toNat 0) :=
  (next_live s _ hp).trans (congrArg _ (role_chalAsk s i.val op.toNat op.isLt hq h0))

/-- A request that its mailbox refuses shows the code. -/
theorem State.mbxFail_shows (u : State) (m c : Nat) (hw : Cells.wf resetOf u.regs = true) (hcn : c < 16) :
    fldGet ((u.mbxFail m c).reg (m + 4)) MBX_STAT.err = 1 ∧ fldGet ((u.mbxFail m c).reg (m + 4)) MBX_STAT.err_code = c := by
  unfold State.mbxFail
  rw [reg_setFs u (m + 4) _ hw]
  simp only [List.foldl]
  rw [fldGet_fldSet_ne _ _ _ _ (by decide) (by decide), fldGet_fldSet _ _ _ (by decide), fldGet_fldSet _ _ _ (by decide)]
  exact ⟨rfl, Nat.mod_eq_of_lt hcn⟩

/-- The session of an initiator to whom a challenge is open (02 R47). -/
def RoleSess.challenged (x : RoleSess) (r : Nat) (c : BitVec 128) (e : Nat) : RoleSess :=
  { x with reqRole := r, chalRole := r, chal := c, chalValid := true, chalEnd := e }

/-- An open challenge: a free value (log entry 3), shown in ROL_CHAL. -/
theorem State.chalReq_open (s : State) (i op : Nat) (hop : op = 1 ∨ op = 2 ∨ op = 3) (hl : (s.lockOf op).locked = false) :
    (s.asked rolChal op 0).chalReq i op 0 =
      (({ s.asked rolChal op 0 with freeIdx := s.freeIdx + 1 } : State).setSess i ((s.sessOf i).challenged op (Config.freeValue s.freeIdx) (s.now + 25000000))).snap
        rolChal ((List.range 4).map (fun k => nbits (Config.freeValue s.freeIdx).toNat (32 * k + 31) (32 * k))) :=
  role_chalReq_open (s.asked rolChal op 0) i op hop hl

/-- A challenge past its time expires. -/
theorem State.chalExpiry_late (s : State) (i : Nat) (hv : (s.sessOf i).chalValid = true) (h : (s.sessOf i).chalEnd < s.now) :
    s.chalExpiry i = s.setSess i { s.sessOf i with chalValid := false } := if_pos ⟨hv, h⟩

theorem State.chalExpiry_early (s : State) (i : Nat) (h : s.now ≤ (s.sessOf i).chalEnd) : s.chalExpiry i = s := if_neg fun q => by omega

/-- A lockout past its time ends. -/
theorem State.lockoutEnd_late (s : State) (r : Nat) (hl : (s.lockOf r).locked = true) (h : (s.lockOf r).lockEnd ≤ s.now) :
    s.lockoutEnd r = s.setLock r { s.lockOf r with locked := false } := if_pos ⟨hl, h⟩

theorem State.lockoutEnd_early (s : State) (r : Nat) (h : s.now < (s.lockOf r).lockEnd) : s.lockoutEnd r = s := if_neg fun q => by omega

/-- A response that is right in every respect enters the role. -/
theorem State.respJudge_right (u : State) (i : Nat) (resp : List Byte) (k : BitVec 256) (hc : u.Canonical) (hv : (u.sessOf i).chalValid = true)
    (hn : u.now ≤ (u.sessOf i).chalEnd) (hk : u.secretOf (u.sessOf i).chalRole = some k)
    (hg : hmacSha256 (beBytes 32 k.toNat) (respMsg (u.sessOf i).chal (u.sessOf i).chalRole i) = resp)
    (hl : lcAllows u.fuse.state (u.sessOf i).chalRole = true) : u.Entered (u.respJudge i resp) i (u.sessOf i).chalRole := by
  rw [u.respJudge_open i resp k hv hn hk, if_pos (by rw [hl, hg]; simp)]
  exact u.entered_of_right i _ hc

/-- Any other response to an open challenge fails. -/
theorem State.respJudge_wrong (u : State) (i : Nat) (resp : List Byte) (k : BitVec 256) (hc : u.Canonical) (hv : (u.sessOf i).chalValid = true)
    (hn : u.now ≤ (u.sessOf i).chalEnd) (hk : u.secretOf (u.sessOf i).chalRole = some k) (hr : (u.sessOf i).chalRole ≠ 0)
    (h : ¬(hmacSha256 (beBytes 32 k.toNat) (respMsg (u.sessOf i).chal (u.sessOf i).chalRole i) = resp ∧
      lcAllows u.fuse.state (u.sessOf i).chalRole = true)) : u.Failed (u.respJudge i resp) i (u.sessOf i).chalRole := by
  rw [u.respJudge_open i resp k hv hn hk, if_neg (fun q => h ?_)]
  · exact u.failed_of_wrong i _ hr hc
  · rw [Bool.and_eq_true, beq_iff_eq] at q
    exact ⟨q.2, q.1⟩

/-- A mailbox command leaves the sessions, the locks, the fuses and the clock. -/
theorem State.ordered_roles (s : State) (i m op arg : Nat) :
    let u := s.ordered i m op arg
    (∀ j, u.sessOf j = s.sessOf j) ∧ (∀ r, u.lockOf r = s.lockOf r) ∧ (∀ r, u.secretOf r = s.secretOf r) ∧ u.fuse = s.fuse ∧ u.now = s.now := by
  obtain ⟨aud, regs, evt, out, pba, h⟩ := s.ordered_same i m op arg
  dsimp only
  rw [h]
  exact ⟨fun _ => rfl, fun _ => rfl, fun _ => rfl, rfl, rfl⟩

/-- ROL_RESP completes after its judgement. -/
theorem State.done_rolResp (s t : State) (i op : Nat) (hc : t.Canonical)
    (h : ∀ a, a ≠ EVT_SRC_STAT.a 60 → t.reg a = (s.ordered i rolResp op 0).reg a) : (t.mbxDone rolResp 8).Done s rolResp 8 :=
  State.mbxDone_done t s rolResp 8 hc.regs ((h _ (by decide)).trans (s.stat_ordered_rolResp i op))

/-- Settles O14: challenges by `State.chalReq_open`, a response by `State.respJudge_right` and `State.respJudge_wrong`. -/
theorem rolesAreEnteredByChallenge : Obligations.RolesAreEnteredByChallenge := by
  unfold Obligations.RolesAreEnteredByChallenge
  refine ⟨⟨fun s i op hc hp hq h0 hop => ⟨fun hl => ?_, fun hl => ?_⟩, fun s i hc hv => ⟨fun h => ?_, fun h => ?_⟩, fun s r hc hl => ⟨fun h => ?_, fun h => ?_⟩⟩,
    fun s i k hc hp hq h0 hv hn hk hr => ?_⟩
  · have hx := exec_challengeRequest s i op hp hq h0
    rw [s.chalReq_open i.val op.toNat (role_of_op hop) hl] at hx
    refine ⟨_, hx, ?_, fun j hj => ?_, State.snap_shows _ _ _ (s.asked_wf _ _ _ hc), ?_⟩
    · rw [State.snap_same]
      exact role_sessOf_setSess s i.val _ hc
    · rw [State.snap_same]
      exact role_sessOf_setSess_ne s i.val j _ hj
    · conv => lhs; rw [State.snap_same]
      rw [State.snap_same]
      rfl
  · have hx := exec_challengeRequest s i op hp hq h0
    rw [role_chalReq_locked (s.asked rolChal op.toNat 0) i.val op.toNat (role_of_op hop) hl] at hx
    obtain ⟨h1, h2⟩ := State.mbxFail_shows ((s.asked rolChal op.toNat 0).setSess i.val { s.sessOf i.val with reqRole := op.toNat }) rolChal 3 (s.asked_wf _ _ _ hc)
      (by decide)
    exact ⟨_, hx, h1, h2, role_sessOf_setSess s i.val _ hc, rfl⟩
  · exact ⟨_, congrArg Host.Outcome.next (s.chalExpiry_late i.val hv h), role_sessOf_setSess s i.val _ hc, rfl, fun j hj => role_sessOf_setSess_ne s i.val j _ hj⟩
  · exact congrArg Host.Outcome.next (s.chalExpiry_early i.val h)
  · exact ⟨_, congrArg Host.Outcome.next (s.lockoutEnd_late r.val hl h), Cells.get_set hc.lock _ _, rfl⟩
  · exact congrArg Host.Outcome.next (s.lockoutEnd_early r.val h)
  · have hx := exec_roleResponse s i hp hq h0
    obtain ⟨hsess, hlock, hsec, hfuse, hnow⟩ := s.ordered_roles i.val rolResp 1 0
    have hcu := s.ordered_canon i.val rolResp 1 0 hc
    have hcj := (State.respJudge_keeps (State.Keeps.refl (s.ordered i.val rolResp 1 0)) i.val s.respBytes).canon hcu
    have hdone := fun h => s.done_rolResp ((s.ordered i.val rolResp 1 0).respJudge i.val s.respBytes) i.val 1 hcj h
    have right := State.respJudge_right (s.ordered i.val rolResp 1 0) i.val s.respBytes k hcu
    have wrong := State.respJudge_wrong (s.ordered i.val rolResp 1 0) i.val s.respBytes k hcu
    rw [hsess, hsec, hfuse, hnow] at right wrong
    dsimp only
    refine ⟨fun hg hl => ?_, fun h => ?_⟩
    · have he := right hv hn hk hg hl
      refine ⟨_, hx, ?_, ?_, ?_, ?_, hdone he.regs, fun j hj => ?_⟩
      · rw [role_get_done_sess, he.role]
      · rw [role_get_done_sess, he.result]
      · rw [role_get_done_sess, he.chal]
      · rw [role_get_done_lock, he.lock]
      · rw [role_get_done_sess, he.others j hj, hsess]
    · have hf := wrong hv hn hk hr h
      refine ⟨_, hx, ?_, ?_, ?_, ?_, hdone hf.regs, fun h4 => ?_⟩
      · rw [role_get_done_sess, hf.role, hsess]
      · rw [role_get_done_sess, hf.result]
      · rw [role_get_done_sess, hf.chal]
      · rw [role_get_done_lock, hf.fails, hlock]
      · rw [role_get_done_lock, ← hlock, ← hnow]
        exact hf.locks (by rw [hlock]; exact h4)

end Sys2Proof.Machine
end

section
/-! SUPPORT. Secrets, leaving a role, lifecycle requests and the audit mailbox (02 R44, R49, R50, R54). -/

namespace Sys2Proof.Machine

/-- A replacement that the fuses allow: the secret is fused, and the mailbox completes (02 R49). -/
theorem State.respReq_replaced (u : State) (i op : Nat) (hop : (op = 2 ∧ u.fuse.instUsed < 4) ∨ (op = 3 ∧ u.fuse.operUsed < 8)) :
    u.respReq i op 0 = (u.replaceSecret op (BitVec.ofNat 256 (beNat u.respBytes))).mbxDone rolResp 8 := by
  unfold State.respReq
  obtain ⟨rfl, h⟩ | ⟨rfl, h⟩ := hop
  · simp only [lowestErr, decide_eq_false (Nat.not_le.2 h)]
    rfl
  · simp only [lowestErr, decide_eq_false (Nat.not_le.2 h)]
    rfl

/-- A replacement with no fuse left fails with code 4. -/
theorem State.respReq_spent (u : State) (i op : Nat) (hop : (op = 2 ∧ 4 ≤ u.fuse.instUsed) ∨ (op = 3 ∧ 8 ≤ u.fuse.operUsed)) :
    u.respReq i op 0 = (u.mbxDone rolResp 8).mbxFail rolResp 4 := by
  unfold State.respReq
  obtain ⟨rfl, h⟩ | ⟨rfl, h⟩ := hop
  · simp only [lowestErr, decide_eq_true h]
    rfl
  · simp only [lowestErr, decide_eq_true h]
    rfl

/-- A replacement of a secret by the Installer: fused while fuses remain, refused with code 4 after (02 R49). -/
theorem State.replacement (s : State) (i op : Nat) (hc : s.Canonical) (hm : s.MayOrder i rolResp) (ho : op < 256) :
    ((op = 2 ∧ s.fuse.instUsed < 4) ∨ (op = 3 ∧ s.fuse.operUsed < 8) →
      (s.request i rolResp op 0).Done s rolResp 8 ∧ (s.request i rolResp op 0).fuse = (s.replaceSecret op (BitVec.ofNat 256 (beNat s.respBytes))).fuse) ∧
    ((op = 2 ∧ 4 ≤ s.fuse.instUsed) ∨ (op = 3 ∧ 8 ≤ s.fuse.operUsed) →
      (s.request i rolResp op 0).Refused rolResp 4 ∧ (s.request i rolResp op 0).fuse = s.fuse) := by
  obtain ⟨-, -, -, hfuse, -⟩ := s.ordered_roles i rolResp op 0
  have hcu := s.ordered_canon i rolResp op 0 hc
  rw [s.request_rolResp i op 0 hm ho (by decide)]
  refine ⟨fun h => ?_, fun h => ?_⟩
  · rw [State.respReq_replaced _ i op (by rw [hfuse]; exact h), s.respBytes_ordered]
    refine ⟨s.done_rolResp _ i op ((State.replaceSecret_keeps (State.Keeps.refl _) op _).canon hcu) fun a _ => ?_, ?_⟩
    · unfold State.replaceSecret
      split <;> rfl
    · rw [State.mbxDone_same]
      unfold State.replaceSecret
      rw [hfuse]
      split <;> rfl
  · rw [State.respReq_spent _ i op (by rw [hfuse]; exact h)]
    refine ⟨State.refused_of _ rolResp 8 4 hcu (by decide), ?_⟩
    rw [State.refused_same]
    exact hfuse

/-- ROLE_LEAVE is open to any initiator (02 R44). -/
theorem State.poke_leave (s : State) (i : Nat) (hc : s.Canonical) (hq : s.guardOf 2 = none) :
    s.poke i ROL_CTRL.a (fldMask ROL_CTRL.leave) = s.setRoleAt i 0 ROL_CTRL.a := by
  have hm : ∀ w, s.mayWrite i ROL_CTRL.a w = true := by
    intro w
    have h1 : ¬(ROL_CTRL.a = ROL_LC_REQ.a ∨ ROL_CTRL.a = ROL_LC_REQ.a + 4) := by decide
    have h2 : carrOnly ROL_CTRL.a = false := by decide
    unfold State.mayWrite
    rw [if_neg h1, h2]
    simp [roleEntry]
  unfold State.poke
  rw [s.busWrite_may i ROL_CTRL.a _ none _ hq (hm _) (by decide) (by decide) kindOf_ROL_CTRL rfl (by decide),
    s.regCommit_strobe _ i _ _ hc rfl (by decide) (by decide)]
  rfl

/-- A role that changes raises EV60 (02 R44). -/
theorem State.setRoleAt_pend (u : State) (i r q : Nat) (hc : u.Canonical) (h : (u.sessOf i).role ≠ r) :
    fldGet ((u.setRoleAt i r q).reg (EVT_SRC_STAT.a 60)) EVT_SRC_STAT.pend = 1 := by
  unfold State.setRoleAt
  dsimp only
  rw [if_neg h]
  exact pend_raise _ 60 4 i ((State.audit_keeps (State.Keeps.refl _) _ _ _ _ _ _).canon (u.setSess_canonical i _ hc))

/-- The state in which a lifecycle request is judged: ROL_LC_REQ holds the code that it names (02 R50). -/
def State.lcAsked (s : State) (w : Word) : State :=
  (s.setReg ROL_LC_REQ.a ((s.reg ROL_LC_REQ.a &&& ~~~3#32) ||| (w &&& 3#32))).parClear ROL_LC_REQ.a 3#32

theorem State.lcAsked_target (s : State) (w : Word) (hc : s.Canonical) : fldGet ((s.lcAsked w).reg ROL_LC_REQ.a) ROL_LC_REQ.target = w.toNat % 4 :=
  (congrArg (fldGet · ROL_LC_REQ.target) (State.reg_setReg s _ _ hc.regs)).trans (role_lcVal _ _)

theorem State.lcAsked_canonical (s : State) (w : Word) (hc : s.Canonical) : (s.lcAsked w).Canonical :=
  (State.parClear_keeps (State.setReg_keeps (State.Keeps.refl s) _ _) _ _).canon hc

/-- LIFECYCLE_REQUEST by a Maker: the commit of both halves (02 R28, R50). -/
theorem exec_lifecycleRequest (s : State) (i : Fin 3) (w : BitVec 32) (hc : s.Canonical) (hp : s.powered = true) (hq : s.guardOf 2 = none)
    (hr : s.roleOf i.val = 3) : exec (.lifecycleRequest i w) s = .next ((s.lcAsked w).lcRequest i.val (w.toNat % 4)) := by
  refine (next_live s _ hp).trans (congrArg _ ((role_lcCommit s i.val w hc hq hr).trans ?_))
  rw [← s.lcAsked_target w hc]
  rfl

/-- Along a path the request becomes the target (02 R50). -/
theorem State.lcRequest_path (u : State) (i n : Nat) (h : u.lcPath n = true) :
    (u.lcRequest i n).fuse = { u.fuse with target := n } ∧ (u.lcRequest i n).reg ROL_LC_REQ.a = u.reg ROL_LC_REQ.a := by
  unfold State.lcRequest
  dsimp only
  rw [if_pos h]
  refine ⟨?_, State.reg_audit_ne _ _ _ _ _ _ _ _ (by decide)⟩
  dsimp only
  rw [State.audit_fuse]

/-- Along no path it raises EV61 (02 R50). -/
theorem State.lcRequest_noPath (u : State) (i n : Nat) (hc : u.Canonical) (h : u.lcPath n = false) :
    (u.lcRequest i n).fuse = u.fuse ∧ fldGet ((u.lcRequest i n).reg (EVT_SRC_STAT.a 61)) EVT_SRC_STAT.pend = 1 ∧
      (u.lcRequest i n).reg ROL_LC_REQ.a = u.reg ROL_LC_REQ.a := by
  unfold State.lcRequest
  dsimp only
  rw [if_neg (by rw [h]; decide)]
  refine ⟨?_, pend_raise _ 61 10 n ((State.audit_keeps (State.Keeps.refl u) _ _ _ _ _ _).canon hc), ?_⟩
  · rw [State.raise_fuse, State.audit_fuse]
  · rw [State.reg_raise_ne _ _ _ _ _ (by decide), State.reg_audit_ne _ _ _ _ _ _ _ _ (by decide)]

/-- What the audit mailbox answers to each op (02 R54). -/
def AudSt.answer (a : AudSt) (op arg : Nat) : List Nat :=
  let dig (d : BitVec 256) : List Nat := (List.range 8).map (fun k => leNat (slice (beBytes 32 d.toNat) (4 * k) 4))
  if op = 0 then (List.range 8).map (fun k => if k < 4 then nbits (Cells.get (fun _ => 0#112) a.ring arg).toNat (32 * k + 31) (32 * k) else 0)
  else if op = 1 then dig a.head
  else if op = 2 then dig a.base
  else [(a.next + 4095) % 4096, a.cnt, 0, 0, 0, 0, 0, 0]

/-- A request at the audit mailbox is answered. -/
theorem State.audit_answered (s : State) (i op arg : Nat) (hc : s.Canonical) (hm : s.MayAsk i rolAud) (ho : op ≤ 3) (ha : arg < 65536)
    (h0 : op = 0 → arg < 4096) :
    ∃ t : State, (.next (s.live (s.request i rolAud op arg)) : Host.Outcome State Fault Refusal) = .next t ∧ s.Answered t rolAud (s.aud.answer op arg) := by
  refine State.answered_of s rolAud op arg _ _ hc ((next_live s _ hm.powered).trans (congrArg _ ?_))
  rw [s.request_rolAud i op arg hm (by omega) ha]
  unfold State.audReq
  rw [if_neg (by omega)]
  rfl

/-- Settles O15: secrets by `State.replacement`, the role by `setRoleAt_facts`, the lifecycle by `State.lcRequest`, the log by its mailbox. -/
theorem secretsLifecycleAndAudit : Obligations.SecretsLifecycleAndAudit := by
  unfold Obligations.SecretsLifecycleAndAudit
  refine ⟨fun s i hc hp hq => ⟨fun hm => ?_, ?_, fun target hr => ⟨fun h => ?_, fun h => ?_⟩⟩, fun s i hc hm => ⟨fun arg ha => ?_, fun arg => ?_, fun arg => ?_, fun arg => ?_⟩⟩
  · obtain ⟨hinst, hinstSpent⟩ := s.replacement i.val 2 hc hm (by decide)
    obtain ⟨hoper, hoperSpent⟩ := s.replacement i.val 3 hc hm (by decide)
    refine ⟨fun h => ?_, fun h => ?_, fun h => ?_, fun h => ?_⟩
    · exact ⟨_, next_live s _ hp, hinst (.inl ⟨rfl, h⟩)⟩
    · exact ⟨_, next_live s _ hp, hinstSpent (.inl ⟨rfl, h⟩)⟩
    · exact ⟨_, next_live s _ hp, hoper (.inr ⟨rfl, h⟩)⟩
    · exact ⟨_, next_live s _ hp, hoperSpent (.inr ⟨rfl, h⟩)⟩
  · obtain ⟨hself, hothers, -, -⟩ := setRoleAt_facts s i.val 0 ROL_CTRL.a hc
    refine ⟨_, (next_live s _ hp).trans (congrArg _ (s.poke_leave i.val hc hq)), ?_, hothers, ?_, fun h => s.setRoleAt_pend i.val 0 _ hc h⟩
    · rw [hself]
    · obtain ⟨se, au, re, ev, o, pb, h⟩ := setRoleAt_same s i.val 0 ROL_CTRL.a
      rw [h]
  · obtain ⟨hfuse, hreg⟩ := (s.lcAsked target).lcRequest_path i.val (target.toNat % 4) h
    refine ⟨_, exec_lifecycleRequest s i target hc hp hq hr, hfuse, ?_⟩
    rw [hreg, s.lcAsked_target target hc]
  · obtain ⟨hfuse, hpend, hreg⟩ := (s.lcAsked target).lcRequest_noPath i.val (target.toNat % 4) (s.lcAsked_canonical target hc) h
    refine ⟨_, exec_lifecycleRequest s i target hc hp hq hr, hfuse, hpend, ?_⟩
    rw [hreg, s.lcAsked_target target hc]
  · exact s.audit_answered i.val 0 arg.toNat hc hm (by decide) arg.isLt fun _ => ha
  · exact s.audit_answered i.val 1 arg.toNat hc hm (by decide) arg.isLt fun h => absurd h (by decide)
  · exact s.audit_answered i.val 2 arg.toNat hc hm (by decide) arg.isLt fun h => absurd h (by decide)
  · exact s.audit_answered i.val 3 arg.toNat hc hm (by decide) arg.isLt fun h => absurd h (by decide)

end Sys2Proof.Machine
end

section
/-! SUPPORT. Adjustments of the counters: what a TIM_ADJ command judges, does and leaves (03 R56 to R58). -/

namespace Sys2Proof.Machine

/-- A register use reads its stored bits and its parity bookkeeping alone. -/
theorem State.hw_congr {s u : State} {a : Nat} (hr : u.reg a = s.reg a) (hp : u.par = s.par) : u.hw a = s.hw a := by
  unfold State.hw State.parOf
  rw [hr, hp]

theorem State.on_congr {s u : State} {a : Nat} (hr : u.reg a = s.reg a) (hp : u.par = s.par) (f : Fld) : u.on a f = s.on a f := by
  unfold State.on State.f
  rw [State.hw_congr hr hp]

/-- A write of a field that is the whole word. -/
theorem fldSet_word (w : Word) (v : Nat) : fldSet w ⟨31, 0⟩ v = BitVec.ofNat 32 v := by
  refine BitVec.eq_of_getLsbD_eq fun k hk => ?_
  rw [fldSet_bit w _ v k hk, if_pos ⟨Nat.zero_le k, Nat.le_of_lt_succ hk⟩, BitVec.getLsbD_ofNat]
  simp [hk]

theorem fldGet_word (w : Word) : fldGet w ⟨31, 0⟩ = w.toNat := by
  unfold fldGet
  rw [Nat.pow_zero, Nat.div_one]
  exact Nat.mod_eq_of_lt w.isLt

theorem satTo_min (m v : Nat) : satTo m v = min m v := by
  unfold satTo
  split <;> omega

/-- From `s` to `u` TIM_ADJ has taken a command: its control word holds it, and the log an entry where it is logged (02 R52). -/
structure State.TimTaken (s u : State) : Prop where
  canon : u.Canonical
  only : s.AudOnly u
  regs : ∀ a, a ≠ timAdj → a ≠ EVT_SRC_STAT.a 60 → u.reg a = s.reg a

/-- A command that TIM_ADJ_CNT counts is no entry of the log. -/
theorem State.timTaken_setReg (s : State) (w : Word) (hc : s.Canonical) : s.TimTaken (s.setReg timAdj w) :=
  ⟨(State.setReg_keeps (State.Keeps.refl s) _ _).canon hc, ⟨_, _, _, _, _, rfl⟩, fun _ h _ => State.reg_setReg_ne _ _ _ _ h⟩

theorem State.timTaken_ordered (s : State) (i op arg : Nat) (hc : s.Canonical) : s.TimTaken (s.ordered i timAdj op arg) :=
  ⟨s.ordered_canon i timAdj op arg hc, s.ordered_same i timAdj op arg, fun a => State.reg_ordered_ne s i timAdj op arg a⟩

section
variable {s u : State} (h : s.TimTaken u)
include h

theorem State.TimTaken.tim : u.tim = s.tim := by
  obtain ⟨a, b, c, d, e, hu⟩ := h.only
  rw [hu]

theorem State.TimTaken.par : u.par = s.par := by
  obtain ⟨a, b, c, d, e, hu⟩ := h.only
  rw [hu]

theorem State.TimTaken.dw (k : Nat) : u.dw timAdj k = s.dw timAdj k :=
  congrArg BitVec.toNat (h.regs (mbxData timAdj k) (by unfold mbxData; omega) (by unfold mbxData timAdj EVT_SRC_STAT.a; omega))

theorem State.TimTaken.domOn (d : Nat) (hd : d < 3) : u.domOn d = s.domOn d :=
  State.on_congr (h.regs (TIM_DOM_CFG.a d) (by unfold TIM_DOM_CFG.a timAdj; omega) (by unfold TIM_DOM_CFG.a EVT_SRC_STAT.a; omega)) h.par _

/-- The command is judged on what `s` holds. -/
theorem State.TimTaken.err (op arg : Nat) : u.timAdjErr op arg = s.timAdjErr op arg := by
  unfold State.timAdjErr
  simp only [h.dw, h.domOn (arg % 4 - 1) (by omega)]

end

/-- A command for a counter that no domain drives fails with code 2 (03 R57): FRT, or no counter that can be adjusted. -/
theorem State.timAdjErr_offset_refused (s : State) (k : Nat) (hk : k = 0 ∨ k = 3) : s.timAdjErr 1 k = some 2 := by
  unfold State.timAdjErr
  obtain rfl | rfl := hk <;> simp [lowestErr]

/-- A time whose nanoseconds are no fraction of a second fails with code 1. -/
theorem State.timAdjErr_setTime_refused (s : State) (k : Nat) (hk : k = 1 ∨ k = 2) (ho : s.domOn (k - 1) = true)
    (h : 1000000000 ≤ s.dw timAdj 2 % 2 ^ 30) : s.timAdjErr 2 k = some 1 := by
  unfold State.timAdjErr
  obtain rfl | rfl := hk <;> simp_all [lowestErr]

/-- An increment outside 3.996 ns to 4.004 ns fails with code 1 (03 R56). -/
theorem State.timAdjErr_increment_refused (s : State) (k : Nat) (hk : k = 0 ∨ ((k = 1 ∨ k = 2) ∧ s.domOn (k - 1) = true))
    (h : incOk (s.dw timAdj 1 % 16 * nsU + s.dw timAdj 0) = false) : s.timAdjErr 3 k = some 1 := by
  unfold State.timAdjErr
  obtain rfl | ⟨rfl | rfl, ho⟩ := hk <;> simp_all [lowestErr]

/-- TIM_ADJ takes the command as `u` and judges it there. -/
theorem State.request_timAdj_taken (s : State) (i op arg : Nat) (hc : s.Canonical) (hm : s.MayOrder i timAdj) (ho : op < 256) (ha : arg < 65536) :
    ∃ u : State, s.TimTaken u ∧ (timAdjUnlogged op arg = true → u = s.setReg timAdj (reqWord op arg 1)) ∧ s.request i timAdj op arg = u.timAdjReq i op arg := by
  rw [s.request_timAdj i op arg hm ho ha]
  split
  · exact ⟨_, s.timTaken_setReg _ hc, fun _ => rfl, rfl⟩
  · next h => exact ⟨_, s.timTaken_ordered i op arg hc, fun q => absurd q h, rfl⟩

/-- A command that fails changes no counter. -/
theorem State.timAdj_refused (s : State) (i op arg c : Nat) (hc : s.Canonical) (hm : s.MayOrder i timAdj) (ho : op < 256) (ha : arg < 65536)
    (he : s.timAdjErr op arg = some c) (hcn : c < 16) :
    (s.request i timAdj op arg).Refused timAdj c ∧ (s.request i timAdj op arg).tim = s.tim := by
  obtain ⟨u, hu, -, hreq⟩ := s.request_timAdj_taken i op arg hc hm ho ha
  have hfail : u.timAdjReq i op arg = (u.mbxDone timAdj 4).mbxFail timAdj c := by
    unfold State.timAdjReq
    rw [hu.err, he]
    rfl
  rw [hreq, hfail]
  exact ⟨State.refused_of u timAdj 4 c hu.canon hcn, (congrArg State.tim (State.refused_same u timAdj 4 c)).trans hu.tim⟩

/-- A command that does not fail acts, and its mailbox completes. -/
theorem State.timAdj_acts (s : State) (i op arg : Nat) (hc : s.Canonical) (hm : s.MayOrder i timAdj) (ho : op < 256) (ha : arg < 65536)
    (he : s.timAdjErr op arg = none) :
    ∃ u : State, s.TimTaken u ∧ (timAdjUnlogged op arg = true → u = s.setReg timAdj (reqWord op arg 1)) ∧
      s.request i timAdj op arg = (u.timAdjDo i op arg).mbxDone timAdj 4 := by
  obtain ⟨u, hu, hset, hreq⟩ := s.request_timAdj_taken i op arg hc hm ho ha
  refine ⟨u, hu, hset, hreq.trans ?_⟩
  unfold State.timAdjReq
  rw [hu.err, he]
  rfl

/-- The effect of an offset: it waits, and TIM_ADJ_CNT counts it (03 R57, R58). -/
theorem State.timAdjDo_offset (u : State) (i k : Nat) (hk : k < 4) :
    u.timAdjDo i 1 k = (u.adjust k false (sint 32 (u.dw timAdj 0) * 4294967296 + (u.dw timAdj 1 % 65536 * 65536 : Nat))).bump (TIM_ADJ_CNT.a i) TIM_ADJ_CNT.count := by
  unfold State.timAdjDo
  rw [Nat.mod_eq_of_lt hk]
  rfl

/-- The effect of a time: it waits. -/
theorem State.timAdjDo_setTime (u : State) (i k : Nat) (hk : k < 4) :
    u.timAdjDo i 2 k = u.adjust k true ((mkTime (u.dw timAdj 0 + u.dw timAdj 1 % 65536 * 2 ^ 32) (u.dw timAdj 2 % 2 ^ 30) (u.dw timAdj 1 / 65536) : Nat) : Int) := by
  unfold State.timAdjDo
  rw [Nat.mod_eq_of_lt hk]
  rfl

/-- The increment registers of a counter as a command writes them. -/
def State.incWritten (u : State) (k : Nat) : State :=
  (u.setReg (TIM_INC.a k) (BitVec.ofNat 32 (u.dw timAdj 0))).setF (TIM_INC_INT.a k) TIM_INC_INT.int (u.dw timAdj 1 % 16)

/-- The effect of an increment: it stands at once; TIM_ADJ_CNT counts that of a domain's counter (03 R56, R58). -/
theorem State.timAdjDo_increment (u : State) (i k : Nat) (hk : k < 4) :
    u.timAdjDo i 3 k = if k = 0 then u.incWritten k else (u.incWritten k).bump (TIM_ADJ_CNT.a i) TIM_ADJ_CNT.count := by
  unfold State.timAdjDo State.incWritten
  rw [Nat.mod_eq_of_lt hk]
  rfl

theorem State.incReg_congr {s u : State} {k : Nat} (h1 : u.reg (TIM_INC.a k) = s.reg (TIM_INC.a k)) (h2 : u.reg (TIM_INC_INT.a k) = s.reg (TIM_INC_INT.a k)) :
    u.incReg k = s.incReg k := by
  unfold State.incReg
  rw [h1, h2]

/-- The pair of increment registers holds the increment. -/
theorem State.incReg_incWritten (u : State) (k : Nat) (hc : u.Canonical) : (u.incWritten k).incReg k = u.dw timAdj 1 % 16 * 4294967296 + u.dw timAdj 0 := by
  have hset : (u.setReg (TIM_INC.a k) (BitVec.ofNat 32 (u.dw timAdj 0))).Canonical := (State.setReg_keeps (State.Keeps.refl u) _ _).canon hc
  have hint : fldGet ((u.incWritten k).reg (TIM_INC_INT.a k)) TIM_INC_INT.int = u.dw timAdj 1 % 16 := by
    unfold State.incWritten
    rw [reg_setF _ _ _ _ hset.regs, fldGet_fldSet _ _ _ (by decide)]
    exact Nat.mod_mod _ 16
  have hfrac : (u.incWritten k).reg (TIM_INC.a k) = BitVec.ofNat 32 (u.dw timAdj 0) := by
    unfold State.incWritten
    rw [reg_setF_ne _ _ _ _ _ (by unfold TIM_INC.a TIM_INC_INT.a; omega), State.reg_setReg _ _ _ hc.regs]
  unfold State.incReg nsU
  rw [hint, hfrac, BitVec.toNat_ofNat, Nat.mod_eq_of_lt (show u.dw timAdj 0 < 2 ^ 32 from (u.reg (mbxData timAdj 0)).isLt)]

/-- What an increment leaves: it changes the two registers of its counter, and TIM_ADJ_CNT. -/
theorem State.timAdjDo_increment_facts (u : State) (i k : Nat) (hc : u.Canonical) (hk : k < 3) :
    let w := u.timAdjDo i 3 k
    w = { u with regs := w.regs } ∧ w.incReg k = u.dw timAdj 1 % 16 * 4294967296 + u.dw timAdj 0 ∧
      ∀ a, a ≠ TIM_INC.a k → a ≠ TIM_INC_INT.a k → a ≠ TIM_ADJ_CNT.a i → w.reg a = u.reg a := by
  have hreg : ∀ a, a ≠ TIM_INC.a k → a ≠ TIM_INC_INT.a k → (u.incWritten k).reg a = u.reg a := fun a h1 h2 =>
    (reg_setF_ne _ _ _ _ _ h2).trans (State.reg_setReg_ne _ _ _ _ h1)
  dsimp only
  rw [u.timAdjDo_increment i k (by omega)]
  split
  · exact ⟨rfl, u.incReg_incWritten k hc, fun a h1 h2 _ => hreg a h1 h2⟩
  · refine ⟨rfl, ?_, fun a h1 h2 h3 => (reg_setF_ne _ _ _ _ _ h3).trans (hreg a h1 h2)⟩
    refine (State.incReg_congr ?_ ?_).trans (u.incReg_incWritten k hc)
    · exact reg_setF_ne _ _ _ _ _ (by unfold TIM_INC.a TIM_ADJ_CNT.a; omega)
    · exact reg_setF_ne _ _ _ _ _ (by unfold TIM_INC_INT.a TIM_ADJ_CNT.a; omega)

theorem timeWktOnly.trans {u v w : State} (h : timeWktOnly u v) (k : timeWktOnly v w) : timeWktOnly u w := by
  obtain ⟨⟨a, b, c, d, e, rfl⟩, hr⟩ := h
  obtain ⟨⟨a', b', c', d', e', rfl⟩, kr⟩ := k
  exact ⟨⟨_, _, _, _, _, rfl⟩, fun x h1 h2 => (kr x h1 h2).trans (hr x h1 h2)⟩

/-- The judgements after the adjustments of a tick change WKT's state alone. -/
theorem timeWktOnly.adjustedAll (l : List (Nat × Bool × Int)) (u : State) : timeWktOnly u (l.foldl (fun v e => v.wktAdjusted (e.1 - 1)) u) := by
  induction l generalizing u with
  | nil => exact timeWktOnly.refl u
  | cons e r ih => exact (timeWktOnly.adjusted u (e.1 - 1)).trans (ih _)

theorem timeWktOnly.adj {u t : State} (h : timeWktOnly u t) : t.tim.adj = u.tim.adj := by
  obtain ⟨⟨a, b, c, d, e, rfl⟩, -⟩ := h
  rfl

/-- A waiting align changes no counter but WKT. -/
theorem State.alignTick_tim (s : State) : ∃ w, s.alignTick.tim = { s.tim with wkt := w } := by
  unfold State.alignTick
  split
  · exact ⟨s.tim.wkt, rfl⟩
  · dsimp only
    split
    · split
      · exact ⟨s.tim.wkt, State.raise_tim _ _ _ _⟩
      · exact ⟨_, State.raise_tim _ _ _ _⟩
    · exact ⟨s.tim.wkt, State.raise_tim _ _ _ _⟩

theorem State.alignTick_clock (s : State) {c : Nat} (hc : c < 3) : s.alignTick.clock c = s.clock c := by
  obtain ⟨w, h⟩ := s.alignTick_tim
  unfold State.clock
  rw [h]
  obtain rfl | rfl | rfl : c = 0 ∨ c = 1 ∨ c = 2 := by omega
  all_goals rfl

/-- A tick leaves of the counters what they count and what its adjustments make of it (03 R55, R57). -/
theorem State.tickTime_clock (s : State) {c : Nat} (hc : c < 3) :
    s.tickTime.clock c = (let t := s.countTime.tim
      ({ s.countTime with tim := { t with dta := adjAfter 1 t.dta s.tim.adj, dtb := adjAfter 2 t.dtb s.tim.adj, adj := [] } } : State).clock c) := by
  have h := fun u => ((State.alignTick_clock _ hc).trans ((timeWktOnly.adjustedAll s.tim.adj u).clock c))
  obtain rfl | rfl | rfl : c = 0 ∨ c = 1 ∨ c = 2 := by omega
  all_goals exact h _

/-- After a tick no adjustment waits. -/
theorem State.tickTime_adj (s : State) : s.tickTime.tim.adj = [] := by
  have h : ∀ u : State, u.alignTick.tim.adj = u.tim.adj := fun u => by
    obtain ⟨w, hw⟩ := u.alignTick_tim
    rw [hw]
  exact (h _).trans (timeWktOnly.adjustedAll s.tim.adj _).adj

theorem toNat_arg {k : Nat} (h : k < 65536) : (BitVec.ofNat 16 k).toNat = k := (BitVec.toNat_ofNat k 16).trans (Nat.mod_eq_of_lt h)

/-- The three commands of TIM_ADJ, in order. -/
theorem exec_timAdj (s : State) (i : Fin 3) (arg : BitVec 16) (hp : s.powered = true) :
    exec (.addOffset i arg) s = .next (s.request i.val timAdj 1 arg.toNat) ∧ exec (.setTime i arg) s = .next (s.request i.val timAdj 2 arg.toNat) ∧
      exec (.setIncrement i arg) s = .next (s.request i.val timAdj 3 arg.toNat) :=
  ⟨next_live s _ hp, next_live s _ hp, next_live s _ hp⟩

/-- A change of the registers alone is one of those that `State.AudOnly` allows. -/
theorem State.AudOnly.of_regs {s t : State} (h : t = { s with regs := t.regs }) : s.AudOnly t := by
  rw [h]
  exact ⟨_, _, _, _, _, rfl⟩

theorem State.AudOnly.adjust {s u : State} (h : s.AudOnly u) (k : Nat) (set : Bool) (v : Int) : (s.adjust k set v).AudOnly (u.adjust k set v) := by
  obtain ⟨a, b, c, d, e, rfl⟩ := h
  exact ⟨_, _, _, _, _, rfl⟩

/-- What the completion of TIM_ADJ leaves. -/
theorem State.reg_timAdjDone (w : State) (a : Nat) (h : a ≠ timAdj) (hd : ∀ k, k < 4 → a ≠ mbxData timAdj k) : (w.mbxDone timAdj 4).reg a = w.reg a :=
  State.reg_mbxDone_ne w timAdj 4 a h hd

/-- The four data words of TIM_ADJ lie from 0x200320 on. -/
theorem ne_timAdj_word {a : Nat} (h : a < 0x200320 ∨ 0x200330 ≤ a) : ∀ k, k < 4 → a ≠ mbxData timAdj k := by
  intro k hk
  unfold mbxData timAdj
  omega

/-- Offsets and increments of a domain's counter are counted, and not logged (02 R52). -/
theorem timAdjUnlogged_domain {op k : Nat} (ho : op = 1 ∨ op = 3) (hk : k = 1 ∨ k = 2) : timAdjUnlogged op k = true := by
  obtain rfl | rfl := ho <;> obtain rfl | rfl := hk <;> rfl

/-- ADD_OFFSET on a domain (03 R57, R58). -/
theorem State.addOffset_waits (s : State) (i k : Nat) (hk : k = 1 ∨ k = 2) (hc : s.Canonical) (hm : s.MayOrder i timAdj) (ho : s.domOn (k - 1) = true) :
    let t := s.request i timAdj 1 k
    t.Done s timAdj 4 ∧
      t = { s with regs := t.regs, tim := { s.tim with adj := s.tim.adj ++ [(k, false, sint 32 (s.dw timAdj 0) * 4294967296 + (s.dw timAdj 1 % 65536 * 65536 : Nat))] } } ∧
      t.reg (TIM_ADJ_CNT.a i) = BitVec.ofNat 32 (min 0xffffffff ((s.reg (TIM_ADJ_CNT.a i)).toNat + 1)) ∧
      ∀ a, a ≠ timAdj → a ≠ TIM_ADJ_CNT.a i → (∀ k, k < 4 → a ≠ mbxData timAdj k) → t.reg a = s.reg a := by
  obtain ⟨u, hu, hset, hreq⟩ := s.timAdj_acts i 1 k hc hm (by decide) (by omega) (time_adjErr1 s k hk ho)
  obtain rfl := hset (timAdjUnlogged_domain (.inl rfl) hk)
  rw [State.timAdjDo_offset _ i k (by omega), hu.dw, hu.dw] at hreq
  generalize sint 32 (s.dw timAdj 0) * 4294967296 + (s.dw timAdj 1 % 65536 * 65536 : Nat) = v at *
  have hcw : ((s.setReg timAdj (reqWord 1 k 1)).adjust k false v).Canonical := (State.adjust_keeps (State.Keeps.refl _) _ _ _).canon hu.canon
  have hcnt : TIM_ADJ_CNT.a i ≠ timAdj := by unfold TIM_ADJ_CNT.a timAdj; omega
  have hold : ((s.setReg timAdj (reqWord 1 k 1)).adjust k false v).reg (TIM_ADJ_CNT.a i) = s.reg (TIM_ADJ_CNT.a i) := State.reg_setReg_ne _ _ _ _ hcnt
  have hother : ∀ a, a ≠ timAdj → a ≠ TIM_ADJ_CNT.a i →
      (((s.setReg timAdj (reqWord 1 k 1)).adjust k false v).bump (TIM_ADJ_CNT.a i) TIM_ADJ_CNT.count).reg a = s.reg a := fun a h1 h2 =>
    (reg_setF_ne _ _ _ _ _ h2).trans (State.reg_setReg_ne _ _ _ _ h1)
  dsimp only
  rw [hreq]
  refine ⟨State.mbxDone_done _ s timAdj 4 ?_ (hother _ (by decide) (by unfold TIM_ADJ_CNT.a timAdj; omega)), State.mbxDone_same _ _ _, ?_, fun a h1 h2 h3 => ?_⟩
  · exact ((State.bump_keeps (State.Keeps.refl _) _ _).canon hcw).regs
  · rw [State.reg_timAdjDone _ _ hcnt (ne_timAdj_word (by unfold TIM_ADJ_CNT.a; omega))]
    unfold State.bump State.bumpN
    rw [reg_setF _ _ _ _ hcw.regs, hold]
    exact (fldSet_word _ _).trans (congrArg _ ((satTo_min _ _).trans (congrArg (fun n => min _ (n + 1)) (fldGet_word _))))
  · rw [State.reg_timAdjDone _ a h1 h3, hother a h1 h2]

/-- SET_TIME on a domain with a nanosecond field below 10^9 (03 R57). -/
theorem State.setTime_waits (s : State) (i k : Nat) (hk : k = 1 ∨ k = 2) (hc : s.Canonical) (hm : s.MayOrder i timAdj) (ho : s.domOn (k - 1) = true)
    (hn : s.dw timAdj 2 % 2 ^ 30 < 1000000000) :
    let t := s.request i timAdj 2 k
    t.Done s timAdj 4 ∧
      (s.adjust k true ((mkTime (s.dw timAdj 0 + s.dw timAdj 1 % 65536 * 2 ^ 32) (s.dw timAdj 2 % 2 ^ 30) (s.dw timAdj 1 / 65536) : Nat) : Int)).AudOnly t ∧
      ∀ a, a ≠ timAdj → a ≠ EVT_SRC_STAT.a 60 → (∀ k, k < 4 → a ≠ mbxData timAdj k) → t.reg a = s.reg a := by
  obtain ⟨u, hu, -, hreq⟩ := s.timAdj_acts i 2 k hc hm (by decide) (by omega) (time_adjErr2 s k hk ho hn)
  rw [State.timAdjDo_setTime _ i k (by omega), hu.dw, hu.dw, hu.dw] at hreq
  have hcw := fun v : Int => (State.adjust_keeps (State.Keeps.refl u) k true v).canon hu.canon
  dsimp only
  rw [hreq]
  exact ⟨State.mbxDone_done _ s timAdj 4 (hcw _).regs (hu.regs _ (by decide) (by decide)),
    (hu.only.adjust k true _).trans (.of_regs (State.mbxDone_same _ timAdj 4)),
    fun a h1 h2 h3 => (State.reg_timAdjDone _ a h1 h3).trans (hu.regs a h1 h2)⟩

/-- SET_INCREMENT within 3.996 ns to 4.004 ns (03 R56). -/
theorem State.setIncrement_stands (s : State) (i k : Nat) (hk : k = 0 ∨ ((k = 1 ∨ k = 2) ∧ s.domOn (k - 1) = true)) (hc : s.Canonical) (hm : s.MayOrder i timAdj)
    (h1 : 3996 * 4294967296 ≤ 1000 * (s.dw timAdj 1 % 16 * 4294967296 + s.dw timAdj 0))
    (h2 : 1000 * (s.dw timAdj 1 % 16 * 4294967296 + s.dw timAdj 0) ≤ 4004 * 4294967296) :
    let t := s.request i timAdj 3 k
    t.Done s timAdj 4 ∧ t.incReg k = s.dw timAdj 1 % 16 * 4294967296 + s.dw timAdj 0 ∧ (k ≠ 0 → t.aud = s.aud) ∧ s.AudOnly t ∧
      ∀ a, a ≠ timAdj → a ≠ TIM_INC.a k → a ≠ TIM_INC_INT.a k → a ≠ TIM_ADJ_CNT.a i → a ≠ EVT_SRC_STAT.a 60 → (∀ j, j < 4 → a ≠ mbxData timAdj j) → t.reg a = s.reg a := by
  obtain ⟨u, hu, hset, hreq⟩ := s.timAdj_acts i 3 k hc hm (by decide) (by omega) (time_adjErr3 s k hk h1 h2)
  obtain ⟨hsame, hinc, hregs⟩ := u.timAdjDo_increment_facts i k hu.canon (by omega)
  have hcw := (State.timAdjDo_keeps (State.Keeps.refl u) i 3 k).canon hu.canon
  rw [hu.dw, hu.dw] at hinc
  dsimp only
  rw [hreq]
  generalize u.timAdjDo i 3 k = w at *
  refine ⟨State.mbxDone_done _ s timAdj 4 hcw.regs ?_, ?_, fun h0 => ?_, (hu.only.trans (.of_regs hsame)).trans (.of_regs (State.mbxDone_same w timAdj 4)),
    fun a ha hi hint hcnt h60 hd => ?_⟩
  · rw [hregs _ (by unfold timAdj TIM_INC.a; omega) (by unfold timAdj TIM_INC_INT.a; omega) (by unfold timAdj TIM_ADJ_CNT.a; omega),
      hu.regs _ (by decide) (by decide)]
  · refine (State.incReg_congr ?_ ?_).trans hinc
    · exact State.reg_timAdjDone _ _ (by unfold timAdj TIM_INC.a; omega) (ne_timAdj_word (by unfold TIM_INC.a; omega))
    · exact State.reg_timAdjDone _ _ (by unfold timAdj TIM_INC_INT.a; omega) (ne_timAdj_word (by unfold TIM_INC_INT.a; omega))
  · have hw : w.aud = u.aud := by rw [hsame]
    have hu' : u.aud = s.aud := by rw [hset (timAdjUnlogged_domain (.inr rfl) (by omega)), State.setReg_aud]
    exact (congrArg State.aud (State.mbxDone_same w timAdj 4)).trans (hw.trans hu')
  · rw [State.reg_timAdjDone _ a ha hd, hregs a hi hint hcnt, hu.regs a ha h60]

theorem State.clock_zero (s : State) : s.clock 0 = s.tim.frt := if_pos rfl

theorem State.countTime_frt (s : State) : s.countTime.tim.frt = (s.tim.frt + s.incReg 0) % timeMod := rfl

/-- The free-running counter over a tick (03 R55). -/
theorem State.tickTime_frt (s : State) : s.tickTime.clock 0 = (s.clock 0 + s.incReg 0) % timeMod := by
  rw [s.tickTime_clock (c := 0) (by decide), State.clock_zero, State.clock_zero]
  exact s.countTime_frt

/-- A domain's counter over a tick: it counts while its domain is on, then takes the adjustments that wait for it. -/
theorem State.tickTime_domain (s : State) (d : Fin 2) : s.tickTime.clock (d.val + 1) =
    adjAfter (d.val + 1) (if s.domOn d.val then (s.clock (d.val + 1) + s.incReg (d.val + 1)) % timeMod else s.clock (d.val + 1)) s.tim.adj := by
  rw [s.tickTime_clock (by omega)]
  obtain rfl | rfl : d = 0 ∨ d = 1 := by omega
  · rfl
  · rfl

theorem adjAfter_one (c v : Nat) (x : Int) : adjAfter c v [(c, false, x)] = taddU v x ∧ adjAfter c v [(c, true, x)] = x.toNat := by
  unfold adjAfter
  simp

/-- Settles O16: each command by its effect on the state that TIM_ADJ judges, the tick by `State.tickTime_clock`. -/
theorem timeAdjustmentsActOnTheirCounter : Obligations.TimeAdjustmentsActOnTheirCounter := by
  unfold Obligations.TimeAdjustmentsActOnTheirCounter
  refine ⟨fun s i hc hm => ⟨fun d ho => ?_, fun k hk => ?_, fun k hk => ?_⟩, fun s => ⟨s.tickTime_domain, s.tickTime_frt, s.tickTime_adj, adjAfter_one⟩⟩
  · obtain ⟨hx1, hx2, -⟩ := exec_timAdj s i (BitVec.ofNat 16 (d.val + 1)) hm.may.powered
    rw [toNat_arg (by omega)] at hx1 hx2
    have hk : d.val + 1 = 1 ∨ d.val + 1 = 2 := by omega
    refine ⟨⟨_, hx1, s.addOffset_waits i.val (d.val + 1) hk hc hm ho⟩, fun hn => ?_, fun hn => ?_⟩
    · obtain ⟨hdone, honly, hregs⟩ := s.setTime_waits i.val (d.val + 1) hk hc hm ho hn
      exact ⟨_, hx2, hdone, honly.same, hregs⟩
    · exact ⟨_, hx2, s.timAdj_refused i.val 2 (d.val + 1) 1 hc hm (by decide) (by omega) (s.timAdjErr_setTime_refused _ hk ho hn) (by decide)⟩
  · obtain ⟨-, -, hx⟩ := exec_timAdj s i (BitVec.ofNat 16 k.val) hm.may.powered
    rw [toNat_arg (by omega)] at hx
    have hk' : k.val = 0 ∨ ((k.val = 1 ∨ k.val = 2) ∧ s.domOn (k.val - 1) = true) := by
      obtain rfl | ho := hk
      · exact .inl rfl
      · by_cases h0 : k.val = 0
        · exact .inl h0
        · exact .inr ⟨by omega, ho⟩
    refine ⟨fun ⟨h1, h2⟩ => ?_, fun hv => ?_⟩
    · obtain ⟨hdone, hinc, haud, honly, hregs⟩ := s.setIncrement_stands i.val k.val hk' hc hm h1 h2
      exact ⟨_, hx, hdone, hinc, fun h0 => haud fun q => h0 (Fin.ext q), honly.same, hregs⟩
    · have hbad : incOk (s.dw timAdj 1 % 16 * nsU + s.dw timAdj 0) = false := by
        unfold incOk nsU
        rw [Bool.and_eq_false_iff, decide_eq_false_iff_not, decide_eq_false_iff_not, Nat.not_le, Nat.not_le]
        exact hv
      exact ⟨_, hx, s.timAdj_refused i.val 3 k.val 1 hc hm (by decide) (by omega) (s.timAdjErr_increment_refused _ hk' hbad) (by decide)⟩
  · obtain ⟨hx, -, -⟩ := exec_timAdj s i k hm.may.powered
    have hk' : k.toNat = 0 ∨ k.toNat = 3 := by
      obtain rfl | rfl := hk
      · exact .inl rfl
      · exact .inr rfl
    exact ⟨_, hx, s.timAdj_refused i.val 1 k.toNat 2 hc hm (by decide) k.isLt (s.timAdjErr_offset_refused _ hk') (by decide)⟩

end Sys2Proof.Machine
end

section
/-! SUPPORT. The health of a domain: what a kick and a loss leave (03 R59). -/

namespace Sys2Proof.Machine

/-- The state after a change of a domain's health that is due to be judged: `lost` and the bookkeeping of the domain, and its event. -/
def State.healthMoved (s : State) (d lost : Nat) (x : DomSt) (event : Bool) (cause : Nat) : State :=
  (((s.setF (TIM_DOM_STAT.a d) TIM_DOM_STAT.lost lost).setDom d x).raiseIf event (30 + d) cause 0).wktDue

/-- A healthy domain that is declared lost. -/
theorem State.domLose_healthy (s : State) (d : Nat) (h : s.domHealthy d = true) :
    s.domLose d = s.healthMoved d 1 { s.domSt d with lostRaised := true } true 1 := if_pos h

/-- A kick of a healthy domain. -/
theorem State.domKick_healthy (s : State) (d : Nat) (ho : s.domOn d = true) (h : s.domHealthy d = true) :
    s.domKick d = (s.setF (TIM_DOM_STAT.a d) TIM_DOM_STAT.lost 0).setDom d
      { s.domSt d with lastKick := some s.now, incKick := s.incReg (d + 1), lostRaised := false } := by
  unfold State.domKick
  dsimp only
  rw [if_pos ho, if_pos h]

/-- A kick of a lost domain: its loss is over, which an event tells where its begin was one. -/
theorem State.domKick_lost (s : State) (d : Nat) (ho : s.domOn d = true) (h : s.domHealthy d = false) :
    s.domKick d = s.healthMoved d 0 { s.domSt d with lastKick := some s.now, incKick := s.incReg (d + 1), lostRaised := false } (s.domSt d).lostRaised 2 := by
  unfold State.domKick
  dsimp only
  rw [if_pos ho, if_neg (by rw [h]; decide)]
  rfl

theorem State.domSt_setDom (s : State) (d : Nat) (x : DomSt) : (s.setDom d x).domSt d = x := by
  unfold State.setDom State.domSt
  by_cases h : d = 0
  · rw [if_pos h, if_pos h]
  · rw [if_neg h, if_neg h]

theorem State.setDom_same (s : State) (d : Nat) (x : DomSt) :
    s.setDom d x = { s with tim := { s.tim with domA := (s.setDom d x).tim.domA, domB := (s.setDom d x).tim.domB } } := by
  unfold State.setDom
  split <;> rfl

theorem State.reg_setDom (s : State) (d : Nat) (x : DomSt) (a : Nat) : (s.setDom d x).reg a = s.reg a := by
  rw [State.setDom_same]
  rfl

/-- A cause that may be reported touches what a cause touches. -/
theorem State.raiseIf_same (s : State) (b : Bool) (n c i : Nat) : s.raiseIf b n c i =
    { s with regs := (s.raiseIf b n c i).regs, evt := (s.raiseIf b n c i).evt, out := (s.raiseIf b n c i).out, pcie := { s.pcie with pba := (s.raiseIf b n c i).pcie.pba } } := by
  cases b
  · rfl
  · exact s.raise_same n c i

theorem State.Reported.raiseIf {s t : State} (h : s.Reported t) (b : Bool) (n c i : Nat) : s.Reported (t.raiseIf b n c i) := by
  have k := t.raiseIf_same b n c i
  unfold State.Reported at *
  generalize t.raiseIf b n c i = w at k ⊢
  rw [k, h]

theorem State.reg_raiseIf_ne (s : State) (b : Bool) (n c i a : Nat) (h : a ≠ EVT_SRC_STAT.a n) : (s.raiseIf b n c i).reg a = s.reg a := by
  cases b
  · rfl
  · exact State.reg_raise_ne s n c i a h

/-- The status word of a domain is none of an event source. -/
theorem domStat_ne_evt (d n : Nat) (hn : n < 64) : TIM_DOM_STAT.a d ≠ EVT_SRC_STAT.a n := by
  unfold TIM_DOM_STAT.a EVT_SRC_STAT.a
  omega

section
variable (s : State) (d lost : Nat) (x : DomSt) (event : Bool) (cause : Nat)

theorem State.healthMoved_same : let t := s.healthMoved d lost x event cause
    t = { s with regs := t.regs, evt := t.evt, out := t.out, tim := { s.tim with domA := t.tim.domA, domB := t.tim.domB, evalDue := true },
                 pcie := { s.pcie with pba := t.pcie.pba } } := by
  dsimp only
  unfold State.healthMoved
  rw [State.raiseIf_same, State.setDom_same]
  rfl

theorem State.healthMoved_domSt : (s.healthMoved d lost x event cause).domSt d = x := by
  unfold State.healthMoved
  rw [State.raiseIf_same]
  exact State.domSt_setDom _ d x

theorem State.healthMoved_due : (s.healthMoved d lost x event cause).tim.evalDue = true := rfl

theorem State.healthMoved_par : (s.healthMoved d lost x event cause).par = s.par := by
  rw [State.healthMoved_same]

theorem State.reg_healthMoved_ne (a : Nat) (h1 : a ≠ TIM_DOM_STAT.a d) (h2 : a ≠ EVT_SRC_STAT.a (30 + d)) :
    (s.healthMoved d lost x event cause).reg a = s.reg a :=
  (State.reg_raiseIf_ne _ event _ cause 0 a h2).trans ((State.reg_setDom _ d x a).trans (State.reg_setF_ne _ _ _ _ _ h1))

theorem State.healthMoved_lost (hc : s.Canonical) (hd : d < 2) :
    fldGet ((s.healthMoved d lost x event cause).reg (TIM_DOM_STAT.a d)) TIM_DOM_STAT.lost = lost % 2 := by
  have h : (s.healthMoved d lost x event cause).reg (TIM_DOM_STAT.a d) = fldSet (s.reg (TIM_DOM_STAT.a d)) TIM_DOM_STAT.lost lost :=
    (State.reg_raiseIf_ne _ event _ cause 0 _ (domStat_ne_evt d _ (by omega))).trans ((State.reg_setDom _ d x _).trans (reg_setF s _ _ _ hc.regs))
  rw [h]
  exact fldGet_fldSet _ _ _ (by decide)

theorem State.healthMoved_pend (hc : s.Canonical) (he : event = true) :
    fldGet ((s.healthMoved d lost x event cause).reg (EVT_SRC_STAT.a (30 + d))) EVT_SRC_STAT.pend = 1 := by
  subst he
  exact pend_raise _ (30 + d) cause 0 ((State.setDom_keeps (State.setF_keeps (State.Keeps.refl s) _ _ _) _ _).canon hc)

theorem State.healthMoved_domOn : (s.healthMoved d lost x event cause).domOn d = s.domOn d :=
  State.on_congr (State.reg_healthMoved_ne s d lost x event cause _ (by unfold TIM_DOM_CFG.a TIM_DOM_STAT.a; omega)
    (by unfold TIM_DOM_CFG.a EVT_SRC_STAT.a; omega)) (s.healthMoved_par d lost x event cause) _

end

/-- A field of one bit. -/
theorem fldGet_bit (w : Word) (k : Nat) : fldGet w ⟨k, k⟩ = (w.getLsbD k).toNat := by
  unfold fldGet
  rw [← BitVec.testBit_toNat, Nat.testBit_eq_decide_div_mod_eq]
  dsimp only
  rw [Nat.add_sub_cancel_left, Nat.pow_one]
  obtain h | h : w.toNat / 2 ^ k % 2 = 0 ∨ w.toNat / 2 ^ k % 2 = 1 := by omega
  all_goals rw [h]; rfl

/-- Outside safe behaviour a bit is used as it is stored (02 R33). -/
theorem State.hw_good (s : State) (a k : Nat) (h : (s.parOf a).bad.getLsbD k = false) : (s.hw a).getLsbD k = (s.reg a).getLsbD k := by
  unfold State.hw
  dsimp only
  split
  · rfl
  · rw [BitVec.getLsbD_or, BitVec.getLsbD_and, BitVec.getLsbD_and, BitVec.getLsbD_not, h]
    by_cases hk : k < 32
    · simp [hk]
    · simp [hk, BitVec.getLsbD_of_ge _ k (Nat.not_lt.1 hk)]

/-- The reset value of a domain's status is lost. -/
theorem resetOf_domStat_lost (d : Fin 2) : (resetOf (TIM_DOM_STAT.a d.val)).getLsbD 0 = true := by
  revert d
  decide

/-- A domain whose status is set to lost is lost, in safe behaviour too. -/
theorem State.domHealthy_of_lost (t : State) (d : Fin 2) (h : fldGet (t.reg (TIM_DOM_STAT.a d.val)) TIM_DOM_STAT.lost = 1) : t.domHealthy d.val = false := by
  have hbit : (t.hw (TIM_DOM_STAT.a d.val)).getLsbD 0 = true := by
    cases hb : (t.parOf (TIM_DOM_STAT.a d.val)).bad.getLsbD 0
    · rw [State.hw_good _ _ _ hb]
      exact Bool.toNat_eq_one.1 ((fldGet_bit _ 0).symm.trans h)
    · exact (State.hw_bad _ _ _ hb).trans (resetOf_domStat_lost d)
  have hon : t.on (TIM_DOM_STAT.a d.val) TIM_DOM_STAT.lost = true := by
    refine beq_iff_eq.2 ((fldGet_bit _ 0).trans ?_)
    rw [hbit]
    rfl
  unfold State.domHealthy
  rw [hon, Bool.not_true, Bool.and_false]

/-- An enabled domain whose status is not lost is healthy, outside safe behaviour. -/
theorem State.domHealthy_of_kicked (t : State) (d : Nat) (ho : t.domOn d = true) (hb : (t.parOf (TIM_DOM_STAT.a d)).bad = 0#32)
    (h : fldGet (t.reg (TIM_DOM_STAT.a d)) TIM_DOM_STAT.lost = 0) : t.domHealthy d = true := by
  have hon : t.on (TIM_DOM_STAT.a d) TIM_DOM_STAT.lost = false := by
    unfold State.on State.f State.hw
    dsimp only
    rw [if_pos hb, h]
    rfl
  unfold State.domHealthy
  rw [ho, hon]
  rfl

end Sys2Proof.Machine
end

section
/-! SUPPORT. The source of WKT: how it is judged, locked and aligned (03 R60 to R64). -/

namespace Sys2Proof.Machine

theorem State.clock_congr {s t : State} (h : t.tim = s.tim) (c : Nat) : t.clock c = s.clock c := by
  unfold State.clock
  rw [h]

/-- The source that the rule names is a domain (03 R61). -/
theorem State.wktNamed_lt (s : State) (d : Nat) (h : s.wktNamed = some d) : d < 2 := by
  have hp : s.f TIM_WKT_CFG.a TIM_WKT_CFG.pref < 2 := fldGet_lt _ _
  unfold State.wktNamed at h
  dsimp only at h
  split at h
  · cases h
    exact hp
  · split at h
    · cases h
      omega
    · cases h

/-- With both domains lost the rule names none. -/
theorem State.wktNamed_none (s : State) (h0 : s.domHealthy 0 = false) (h1 : s.domHealthy 1 = false) : s.wktNamed = none := by
  have hp : s.f TIM_WKT_CFG.a TIM_WKT_CFG.pref < 2 := fldGet_lt _ _
  unfold State.wktNamed
  dsimp only
  generalize s.f TIM_WKT_CFG.a TIM_WKT_CFG.pref = p at hp
  obtain rfl | rfl : p = 0 ∨ p = 1 := by omega
  · simp [h0, h1]
  · simp [h0, h1]

/-- WKT_STAT after an update that a cause reports. -/
theorem State.wktStat_raised (u : State) (l : List (Fld × Nat)) (c i : Nat) (hc : u.Canonical) :
    ((u.setFs TIM_WKT_STAT.a l).raise 31 c i).reg TIM_WKT_STAT.a = l.foldl (fun w e => fldSet w e.1 e.2) (u.reg TIM_WKT_STAT.a) :=
  (State.reg_raise_ne _ _ _ _ _ (by decide)).trans (reg_setFs u _ l hc.regs)

/-- WKT enters a state and keeps the source that it names. -/
theorem State.wktState_raised (u : State) (st valid c i : Nat) (hc : u.Canonical) :
    ((u.setFs TIM_WKT_STAT.a [(TIM_WKT_STAT.state, st), (TIM_WKT_STAT.src_valid, valid)]).raise 31 c i).wktState = st % 4 := by
  unfold State.wktState
  rw [u.wktStat_raised _ c i hc]
  simp only [List.foldl]
  rw [fldGet_fldSet_ne _ _ _ _ (by decide) (by decide), fldGet_fldSet _ _ _ (by decide)]
  rfl

/-- WKT enters a state with domain `d` as its source. -/
theorem State.wktSource_raised (u : State) (st d c i : Nat) (hc : u.Canonical) :
    let t := (u.setFs TIM_WKT_STAT.a [(TIM_WKT_STAT.state, st), (TIM_WKT_STAT.src, d), (TIM_WKT_STAT.src_valid, 1)]).raise 31 c i
    t.wktState = st % 4 ∧ t.wktSrc = d % 2 := by
  dsimp only
  unfold State.wktState State.wktSrc
  rw [u.wktStat_raised _ c i hc]
  simp only [List.foldl]
  rw [fldGet_fldSet_ne _ _ _ _ (by decide) (by decide), fldGet_fldSet_ne _ _ _ _ (by decide) (by decide), fldGet_fldSet _ _ _ (by decide),
    fldGet_fldSet_ne _ _ _ _ (by decide) (by decide), fldGet_fldSet _ _ _ (by decide)]
  exact ⟨rfl, rfl⟩

/-- The state in which HOLDOVER will count by the increment of the source's last kick (03 R60). -/
def State.holdRate (s : State) : State := { s with tim := { s.tim with frozen := (s.domSt s.wktSrc).incKick } }

theorem State.holdRate_canonical (s : State) (hc : s.Canonical) : s.holdRate.Canonical := { hc with }

theorem State.holdRate_raised (s : State) (l : List (Fld × Nat)) (c i : Nat) :
    ((s.holdRate.setFs TIM_WKT_STAT.a l).raise 31 c i).tim.frozen = (s.domSt s.wktSrc).incKick := congrArg TimSt.frozen (State.raise_tim _ _ _ _)

/-! What an evaluation does to a WKT that follows a domain. -/

section
variable (s : State) (hst : s.wktState = 1 ∨ s.wktState = 2)
include hst

/-- The rule names no source: HOLDOVER. -/
theorem State.wktEval_holdover (hn : s.wktNamed = none) :
    s.wktEval = (s.holdRate.setFs TIM_WKT_STAT.a [(TIM_WKT_STAT.state, 3), (TIM_WKT_STAT.src_valid, 0)]).raise 31 0x12 s.wktSrc := by
  unfold State.wktEval
  rw [hn]
  dsimp only
  rw [if_neg (by omega), if_neg (by omega)]
  rfl

/-- The rule still names the source. -/
theorem State.wktEval_stay (hn : s.wktNamed = some s.wktSrc) : s.wktEval = s.setF TIM_WKT_STAT.a TIM_WKT_STAT.src_valid 1 := by
  unfold State.wktEval
  rw [hn]
  dsimp only
  rw [if_neg (by omega), if_neg (by omega), if_pos rfl]

/-- The rule names the other domain: WKT slews toward it, or the error is too large (03 R62). -/
theorem State.wktEval_other (d : Nat) (hn : s.wktNamed = some d) (hd : d ≠ s.wktSrc) :
    s.wktEval = if s.errTooBig d then s.wktRefuse d else (s.wktSlew d).raise 31 0x10 d := by
  unfold State.wktEval
  rw [hn]
  dsimp only
  rw [if_neg (by omega), if_neg (by omega), if_neg (Ne.symm hd)]

/-- A refused source leaves WKT in HOLDOVER. -/
theorem State.wktRefuse_following (d : Nat) :
    s.wktRefuse d = (s.holdRate.setFs TIM_WKT_STAT.a [(TIM_WKT_STAT.state, 3), (TIM_WKT_STAT.src_valid, 1)]).raise 31 0x13 d := by
  unfold State.wktRefuse
  rw [if_neg (by omega)]
  rfl

/-- What an evaluation makes of WKT's state, its source and the increment of HOLDOVER (03 R61, R62). -/
theorem State.wktEval_following (hc : s.Canonical) :
    (s.wktNamed = none → s.wktEval.wktState = 3 ∧ s.wktEval.tim.frozen = (s.domSt s.wktSrc).incKick) ∧
    (∀ d, s.wktNamed = some d → d ≠ s.wktSrc →
      (s.errTooBig d = false → s.wktEval.wktState = 2 ∧ s.wktEval.wktSrc = d ∧ s.wktEval.tim.frozen = s.tim.frozen) ∧
      (s.errTooBig d = true → s.wktEval.wktState = 3 ∧ s.wktEval.tim.frozen = (s.domSt s.wktSrc).incKick)) ∧
    (s.wktNamed = some s.wktSrc → s.wktEval.wktState = s.wktState ∧ s.wktEval.wktSrc = s.wktSrc ∧ s.wktEval.tim.frozen = s.tim.frozen) := by
  have hhold := fun valid c i => s.holdRate.wktState_raised 3 valid c i (s.holdRate_canonical hc)
  refine ⟨fun hn => ?_, fun d hn hd => ⟨fun he => ?_, fun he => ?_⟩, fun hn => ?_⟩
  · rw [s.wktEval_holdover hst hn]
    exact ⟨hhold _ _ _, s.holdRate_raised _ _ _⟩
  · rw [s.wktEval_other hst d hn hd, if_neg (by rw [he]; decide)]
    obtain ⟨hs, hsrc⟩ := s.wktSource_raised 2 d 0x10 d hc
    exact ⟨hs, hsrc.trans (Nat.mod_eq_of_lt (s.wktNamed_lt d hn)), congrArg TimSt.frozen (State.raise_tim _ _ _ _)⟩
  · rw [s.wktEval_other hst d hn hd, if_pos he, s.wktRefuse_following hst d]
    exact ⟨hhold _ _ _, s.holdRate_raised _ _ _⟩
  · rw [s.wktEval_stay hst hn]
    unfold State.wktState State.wktSrc
    rw [reg_setF _ _ _ _ hc.regs]
    exact ⟨fldGet_fldSet_ne _ _ _ _ (by decide) (by decide), fldGet_fldSet_ne _ _ _ _ (by decide) (by decide), rfl⟩

end

/-- The evaluation of a tick on which it is due. -/
theorem State.wktSettle_due (s : State) (h : s.tim.evalDue = true) :
    s.wktSettle = ({ s with tim := { s.tim with evalDue := false } } : State).wktEval := if_pos h

theorem State.wktSettle_quiet (s : State) (h : s.tim.evalDue = false) : s.wktSettle = s := if_neg (by rw [h]; decide)

/-- An evaluation that is due changes WKT's state and the increment of HOLDOVER, and is due no more. -/
theorem State.wktSettle_same (s : State) (h : s.tim.evalDue = true) :
    (let t := s.wktSettle
     t = { s with regs := t.regs, evt := t.evt, out := t.out, tim := { s.tim with frozen := t.tim.frozen, evalDue := false },
                  pcie := { s.pcie with pba := t.pcie.pba } }) ∧
    ∀ a, a ≠ TIM_WKT_STAT.a → a ≠ EVT_SRC_STAT.a 31 → s.wktSettle.reg a = s.reg a := by
  obtain ⟨⟨regs, evt, out, fr, pba, hsame⟩, hregs⟩ := (timeWktOnly.refl { s with tim := { s.tim with evalDue := false } }).eval
  rw [s.wktSettle_due h]
  refine ⟨?_, hregs⟩
  dsimp only
  generalize ({ s with tim := { s.tim with evalDue := false } } : State).wktEval = t at hsame ⊢
  rw [hsame]

/-- The slew ends: WKT takes its source's time, and is LOCKED (03 R60). -/
theorem State.wktLock_locks (s : State) (h : s.wktState = 2 ∧ (s.wktErr s.wktSrc).natAbs < s.slew) :
    s.wktLock = ((s.setClock 3 (s.clock (s.wktSrc + 1))).setF TIM_WKT_STAT.a TIM_WKT_STAT.state 1).raise 31 0x11 s.wktSrc := if_pos h

theorem State.wktLock_quiet (s : State) (h : ¬(s.wktState = 2 ∧ (s.wktErr s.wktSrc).natAbs < s.slew)) : s.wktLock = s := if_neg h

theorem State.clock_setWkt (s : State) (x : Nat) : (s.setClock 3 x).clock 3 = x := rfl

theorem State.setWkt_canonical (s : State) (x : Nat) (hc : s.Canonical) : (s.setClock 3 x).Canonical := (State.setClock_keeps (State.Keeps.refl s) 3 x).canon hc

theorem State.wktLock_facts (s : State) (hc : s.Canonical) (h : s.wktState = 2 ∧ (s.wktErr s.wktSrc).natAbs < s.slew) :
    let t := s.wktLock
    t.wktState = 1 ∧ t.clock 3 = s.clock (s.wktSrc + 1) ∧ fldGet (t.reg (EVT_SRC_STAT.a 31)) EVT_SRC_STAT.pend = 1 ∧
      t = { s with regs := t.regs, evt := t.evt, out := t.out, tim := { s.tim with wkt := t.tim.wkt }, pcie := { s.pcie with pba := t.pcie.pba } } ∧
      ∀ a, a ≠ TIM_WKT_STAT.a → a ≠ EVT_SRC_STAT.a 31 → t.reg a = s.reg a := by
  have hcu := s.setWkt_canonical (s.clock (s.wktSrc + 1)) hc
  have hcv := (State.setF_keeps (State.Keeps.refl _) TIM_WKT_STAT.a TIM_WKT_STAT.state 1).canon hcu
  dsimp only
  rw [s.wktLock_locks h]
  refine ⟨?_, (State.clock_congr (State.raise_tim _ _ _ _) 3).trans (s.clock_setWkt _), pend_raise _ 31 _ _ hcv, ?_, fun a h1 h2 => ?_⟩
  · unfold State.wktState
    rw [State.reg_raise_ne _ _ _ _ _ (by decide), reg_setF _ _ _ _ hcu.regs, fldGet_fldSet _ _ _ (by decide)]
    rfl
  · rw [State.raise_same]
    rfl
  · rw [State.reg_raise_ne _ _ _ _ _ h2, reg_setF_ne _ _ _ _ _ h1, time_setClock_reg]

/-- No align waits. -/
theorem State.alignTick_quiet (s : State) (h : fldGet (s.reg TIM_WKT_CTRL.a) TIM_WKT_CTRL.align = 0) : s.alignTick = s := if_pos h

/-- WKT set to domain `d` by an align (03 R63). -/
def State.alignedTo (s : State) (d : Nat) : State :=
  { (s.setF TIM_WKT_CTRL.a TIM_WKT_CTRL.align 0).setClock 3 (s.clock (d + 1)) with wktPrev := s.clock (d + 1) }

/-- A waiting align while no sequencer runs. -/
theorem State.alignTick_acts (s : State) (d : Nat) (h : fldGet (s.reg TIM_WKT_CTRL.a) TIM_WKT_CTRL.align = 1) (hn : s.wktNamed = some d)
    (hr : s.anyRunning = false) :
    s.alignTick = ((s.alignedTo d).setFs TIM_WKT_STAT.a [(TIM_WKT_STAT.state, 1), (TIM_WKT_STAT.src, d), (TIM_WKT_STAT.src_valid, 1)]).raise 31 0x11 d := by
  unfold State.alignTick
  rw [if_neg (by omega), hn, hr]
  rfl

/-- A waiting align that is refused. -/
theorem State.alignTick_refused (s : State) (h : fldGet (s.reg TIM_WKT_CTRL.a) TIM_WKT_CTRL.align = 1) (hr : s.wktNamed = none ∨ s.anyRunning = true) :
    s.alignTick = (s.setF TIM_WKT_CTRL.a TIM_WKT_CTRL.align 0).raise 31 0x14 0 := by
  unfold State.alignTick
  rw [if_neg (by omega)]
  obtain hn | hr := hr
  · rw [hn]
  · rw [hr]
    cases s.wktNamed <;> rfl

theorem State.reg_alignedTo (s : State) (d a : Nat) : (s.alignedTo d).reg a = (s.setF TIM_WKT_CTRL.a TIM_WKT_CTRL.align 0).reg a := time_setClock_reg _ 3 (s.clock (d + 1)) a

theorem State.alignTick_facts (s : State) (d : Nat) (hc : s.Canonical) (h : fldGet (s.reg TIM_WKT_CTRL.a) TIM_WKT_CTRL.align = 1) (hn : s.wktNamed = some d)
    (hr : s.anyRunning = false) :
    let t := s.alignTick
    t.wktState = 1 ∧ t.wktSrc = d ∧ t.clock 3 = s.clock (d + 1) ∧ t.wktPrev = s.clock (d + 1) ∧ fldGet (t.reg TIM_WKT_CTRL.a) TIM_WKT_CTRL.align = 0 ∧
      fldGet (t.reg (EVT_SRC_STAT.a 31)) EVT_SRC_STAT.pend = 1 ∧
      t = { s with regs := t.regs, evt := t.evt, out := t.out, wktPrev := t.wktPrev, tim := { s.tim with wkt := t.tim.wkt }, pcie := { s.pcie with pba := t.pcie.pba } } ∧
      ∀ a, a ≠ TIM_WKT_CTRL.a → a ≠ TIM_WKT_STAT.a → a ≠ EVT_SRC_STAT.a 31 → t.reg a = s.reg a := by
  have hcu : (s.setF TIM_WKT_CTRL.a TIM_WKT_CTRL.align 0).Canonical := (State.setF_keeps (State.Keeps.refl s) _ _ _).canon hc
  have hcw : (s.alignedTo d).Canonical := (State.Keeps.wktPrev_upd (State.setClock_keeps (State.Keeps.refl _) _ _)).canon hcu
  have hcv := fun l => (State.setFs_keeps (State.Keeps.refl (s.alignedTo d)) TIM_WKT_STAT.a l).canon hcw
  obtain ⟨hst, hsrc⟩ := (s.alignedTo d).wktSource_raised 1 d 0x11 d hcw
  dsimp only
  rw [s.alignTick_acts d h hn hr]
  refine ⟨hst, hsrc.trans (Nat.mod_eq_of_lt (s.wktNamed_lt d hn)), State.clock_congr (State.raise_tim _ _ _ _) 3, State.raise_wktPrev _ _ _ _, ?_,
    pend_raise _ 31 _ _ (hcv _), ?_, fun a h1 h2 h3 => ?_⟩
  · rw [State.reg_raise_ne _ _ _ _ _ (by decide), State.reg_setFs_ne _ _ _ _ (by decide), State.reg_alignedTo, reg_setF _ _ _ _ hc.regs,
      fldGet_fldSet _ _ _ (by decide)]
    rfl
  · rw [State.raise_same]
    rfl
  · rw [State.reg_raise_ne _ _ _ _ _ h3, State.reg_setFs_ne _ _ _ _ h2, State.reg_alignedTo, reg_setF_ne _ _ _ _ _ h1]

/-- DOMAIN_KICK (03 R59). -/
theorem exec_domainKick (s : State) (i : Fin 3) (d : Fin 2) (hc : s.Canonical) (hm : s.May i.val (TIM_DOM_CTRL.a d.val)) :
    exec (.domainKick i d) s = .next (s.domKick d.val) :=
  (next_live s _ hm.powered).trans (congrArg _ (s.poke_TIM_DOM_CTRL i.val d _ hc hm))

/-- A loss, declared by the Installer or by the kick timeout (03 R59). -/
theorem exec_loss (s : State) (c : Instr) (d : Fin 2) (hc : s.Canonical) (hp : s.powered = true)
    (h : (∃ i : Fin 3, c = .domainDeclareLost i d ∧ s.May i.val (TIM_DOM_CTRL.a d.val)) ∨ (c = .kickTimeout d ∧ s.kickExpired d.val = true)) :
    exec c s = .next (s.domLose d.val) := by
  obtain ⟨i, rfl, hm⟩ | ⟨rfl, he⟩ := h
  · exact (next_live s _ hp).trans (congrArg _ (s.poke_TIM_DOM_CTRL i.val d _ hc hm))
  · exact (next_live s _ hp).trans (congrArg _ (if_pos he))

/-- Settles O17: a change of health by `State.healthMoved`, its judgement by `State.wktEval_following`, the align by `State.alignTick_facts`. -/
theorem domainHealthMovesWorkingTime : Obligations.DomainHealthMovesWorkingTime := by
  unfold Obligations.DomainHealthMovesWorkingTime
  refine fun s hc => ⟨fun hp => ⟨fun i d hm ho hb => ⟨fun hh => ?_, fun hl => ?_⟩, fun c d hcause hh => ?_, fun h => ?_, fun h => ?_, fun i hm => ?_⟩,
    fun hdue hst => ?_, s.wktSettle_quiet, s.alignTick_quiet, fun ha => ⟨fun d hn hr => s.alignTick_facts d hc ha hn hr, s.alignTick_refused ha⟩⟩
  · rw [exec_domainKick s i d hc hm, s.domKick_healthy d.val ho hh]
  · have hx := exec_domainKick s i d hc hm
    rw [s.domKick_lost d.val ho hl] at hx
    refine ⟨_, hx, ?_, State.healthMoved_domSt _ _ _ _ _ _, State.healthMoved_due _ _ _ _ _ _, fun he => State.healthMoved_pend _ _ _ _ _ _ hc he, State.healthMoved_same _ _ _ _ _ _,
      State.reg_healthMoved_ne _ _ _ _ _ _⟩
    refine State.domHealthy_of_kicked _ d.val ((State.healthMoved_domOn _ _ _ _ _ _).trans ho) ?_ (State.healthMoved_lost _ _ _ _ _ _ hc d.isLt)
    unfold State.parOf
    rw [State.healthMoved_par]
    exact hb
  · have hx := exec_loss s c d hc hp hcause
    rw [s.domLose_healthy d.val hh] at hx
    exact ⟨_, hx, State.domHealthy_of_lost _ d (State.healthMoved_lost _ _ _ _ _ _ hc d.isLt), State.healthMoved_domSt _ _ _ _ _ _, State.healthMoved_due _ _ _ _ _ _,
      State.healthMoved_pend _ _ _ _ _ _ hc rfl, State.healthMoved_same _ _ _ _ _ _, State.reg_healthMoved_ne _ _ _ _ _ _⟩
  · exact ⟨_, next_live s _ hp, s.wktLock_facts hc h⟩
  · exact (next_live s _ hp).trans (congrArg _ (s.wktLock_quiet h))
  · exact (next_live s _ hp).trans (congrArg _ (s.poke_TIM_WKT_CTRL i.val _ hc hm))
  · obtain ⟨hsame, hregs⟩ := s.wktSettle_same hdue
    obtain ⟨hnone, hother, hstay⟩ := ({ s with tim := { s.tim with evalDue := false } } : State).wktEval_following hst { hc with }
    rw [← s.wktSettle_due hdue] at hnone hother hstay
    exact ⟨hsame, hregs, fun h0 h1 => hnone (State.wktNamed_none _ h0 h1), hother, hstay⟩

end Sys2Proof.Machine
end

section
/-! SUPPORT. Snapshots, timestamp FIFOs and the pulse pins (03 R69, R71 to R73). -/

namespace Sys2Proof.Machine

/-- A snapshot of an unread mailbox sets its overrun flag (02 R35). -/
theorem State.snap_overrun (s : State) (m : Nat) (ws : List Nat) (hc : s.Canonical) (h : fldGet (s.reg (m + 4)) MBX_STAT.valid = 1) :
    fldGet ((s.snap m ws).reg (m + 4)) MBX_STAT.overrun = 1 := by
  unfold State.snap
  dsimp only
  rw [State.reg_setReg _ _ _ (Cells.wf_regs_setWords s m 0 ws hc.regs), if_pos h, fldGet_fldSet_ne _ _ _ _ (by decide) (by decide),
    fldGet_fldSet _ _ _ (by decide)]
  rfl

/-- What a snapshot taken from a FIFO leaves; `v` is the time base without the entry. -/
theorem State.snap_popped (s : State) (m : Nat) (v : TimSt) (ws : List Nat) (hc : s.Canonical) (hl : ws.length = 8) :
    let t := ({ s.asked m 0 0 with tim := v } : State).snap m ws
    t.Shows m ws ∧ t = { s with regs := t.regs, tim := v } ∧ ∀ a, a < m ∨ m + 0x40 ≤ a → t.reg a = s.reg a := by
  refine ⟨State.snap_shows _ m ws (s.asked_wf m 0 0 hc), State.snap_same _ m ws, fun a ha => ?_⟩
  refine (State.reg_snap_ne _ m a ws (by omega) fun j hj => ?_).trans (State.reg_asked_ne s m 0 0 a (by omega))
  unfold mbxData
  omega

/-- A pop of an empty FIFO fails with code 1, and shows what it showed (03 R69). -/
theorem State.pop_empty (s : State) (m : Nat) (hc : s.Canonical) :
    let t := (s.asked m 0 0).mbxFail m 1
    fldGet (t.reg (m + 4)) MBX_STAT.err = 1 ∧ fldGet (t.reg (m + 4)) MBX_STAT.err_code = 1 ∧
      fldGet (t.reg (m + 4)) MBX_STAT.valid = fldGet (s.reg (m + 4)) MBX_STAT.valid ∧ t = { s with regs := t.regs } ∧
      ∀ a, a ≠ m → a ≠ m + 4 → t.reg a = s.reg a := by
  obtain ⟨herr, hcode⟩ := State.mbxFail_shows (s.asked m 0 0) m 1 (s.asked_wf m 0 0 hc) (by decide)
  refine ⟨herr, hcode, ?_, rfl, fun a h1 h2 => (reg_setFs_ne _ _ _ _ h2).trans (s.reg_asked_ne m 0 0 a h1)⟩
  unfold State.mbxFail
  rw [reg_setFs _ _ _ (s.asked_wf m 0 0 hc)]
  simp only [List.foldl]
  rw [fldGet_fldSet_ne _ _ _ _ (by decide) (by decide), fldGet_fldSet_ne _ _ _ _ (by decide) (by decide), State.reg_asked_ne _ _ _ _ _ (by omega)]

theorem State.rxtsReq_some (u : State) (e : TsEntry) (r : List TsEntry) (h : u.tim.rxts = e :: r) :
    u.rxtsReq 0 0 = ({ u with tim := { u.tim with rxts := r } } : State).snap 0x200400 (tsWords e) := by
  unfold State.rxtsReq
  rw [h, if_neg (List.cons_ne_nil e r), if_neg (by decide)]

theorem State.rxtsReq_empty (u : State) (h : u.tim.rxts = []) : u.rxtsReq 0 0 = u.mbxFail 0x200400 1 := if_pos h

theorem State.txtsReq_some (u : State) (e : TsEntry) (r : List TsEntry) (h : u.tim.txts = e :: r) :
    u.txtsReq 0 0 = ({ u with tim := { u.tim with txts := r } } : State).snap 0x200500 (tsWords e) := by
  unfold State.txtsReq
  rw [h, if_neg (List.cons_ne_nil e r), if_neg (by decide)]

theorem State.txtsReq_empty (u : State) (h : u.tim.txts = []) : u.txtsReq 0 0 = u.mbxFail 0x200500 1 := if_pos h

/-- TIME_SNAPSHOT and the two pops, in order: op and arg 0. -/
theorem exec_timeSnapshot (s : State) (i : Fin 3) (hm : s.MayAsk i.val 0x200200) :
    exec (.timeSnapshot i 0) s = .next ((s.asked 0x200200 0 0).snap 0x200200 s.clockWords) :=
  (next_live s _ hm.powered).trans (congrArg _ (s.request_at_0x200200 i.val 0 0 hm (by decide) (by decide)))

theorem exec_rxTimestampPop (s : State) (i : Fin 3) (hm : s.MayAsk i.val 0x200400) :
    exec (.rxTimestampPop i 0) s = .next ((s.asked 0x200400 0 0).rxtsReq 0 0) :=
  (next_live s _ hm.powered).trans (congrArg _ (s.request_at_0x200400 i.val 0 0 hm (by decide) (by decide)))

theorem exec_txTimestampPop (s : State) (i : Fin 3) (hm : s.MayAsk i.val 0x200500) :
    exec (.txTimestampPop i 0) s = .next ((s.asked 0x200500 0 0).txtsReq 0 0) :=
  (next_live s _ hm.powered).trans (congrArg _ (s.request_at_0x200500 i.val 0 0 hm (by decide) (by decide)))

/-- A second that is due raises TIME_PPS_OUT at its placement (03 R71). -/
theorem State.ppsRise_due (s : State) (k : Nat) (h : s.tim.ppsDue = some k) (ho : s.ppsOn = true) : s.ppsRise = { s with
    tim := { s.tim with ppsOut := true, ppsDue := none, ppsFall := 16 * (s.now - 1) + k + 4000 * s.f TIM_PPS_CFG.a TIM_PPS_CFG.width }
    out := .edge "TIME_PPS_OUT" 0 true (16 * (s.now - 1) + k) :: s.out } := by
  unfold State.ppsRise
  rw [h]
  exact if_pos ho

theorem State.ppsRise_quiet (s : State) (h : s.tim.ppsDue = none ∨ s.ppsOn = false) : s.ppsRise = s := by
  unfold State.ppsRise
  obtain h | h := h
  · rw [h]
  · rw [h]
    cases s.tim.ppsDue <;> rfl

/-- The pulse falls at its end. -/
theorem State.ppsDrop_eq (s : State) : s.ppsDrop = if s.tim.ppsOut = true ∧ s.tim.ppsFall ≤ 16 * s.now then
    { s with tim := { s.tim with ppsOut := false }, out := .edge "TIME_PPS_OUT" 0 false s.tim.ppsFall :: s.out } else s := by
  unfold State.ppsDrop
  simp only [Bool.and_eq_true, decide_eq_true_eq]
  rfl

/-- A pulse of 100 ns or more captures the clocks (03 R72). -/
theorem exec_ppsInEdge (s : State) (len : BitVec 32) (hp : s.powered = true) (hon : s.on TIM_PPS_CFG.a TIM_PPS_CFG.in_en = true) (hl : 100 ≤ len.toNat) :
    exec (.ppsInEdge len) s = .next (s.snap 0x200600 s.clockWords) :=
  (next_live s _ hp).trans (congrArg _ (if_pos (by rw [hon, decide_eq_true hl]; rfl)))

/-- A snapshot that nobody asked for changes its mailbox alone. -/
theorem State.answered_snap (s : State) (m : Nat) (ws : List Nat) (hc : s.Canonical) : s.Answered (s.snap m ws) m ws :=
  ⟨State.snap_shows s m ws hc.regs, State.snap_same s m ws, fun a _ h1 h2 => State.reg_snap_ne s m a ws h1 h2⟩

end Sys2Proof.Machine
end

section
/-! SUPPORT. The link-delay check: a measurement and its acceptance (03 R74). -/

namespace Sys2Proof.Machine

/-- Fields of words that agree on its bits. -/
theorem fldGet_congr {w v : Word} {f : Fld} (h : ∀ k, f.lo ≤ k → k ≤ f.hi → w.getLsbD k = v.getLsbD k) : fldGet w f = fldGet v f := by
  rw [fldGet_eq, fldGet_eq]
  refine congrArg BitVec.toNat (BitVec.eq_of_getLsbD_eq fun k hk => ?_)
  rw [BitVec.getLsbD_extractLsb', BitVec.getLsbD_extractLsb', h (f.lo + k) (by omega) (by omega)]

/-- A field none of whose bits is in safe behaviour is used as it is stored (02 R33). -/
theorem State.f_good (s : State) (a : Nat) (f : Fld) (h : ∀ k, f.lo ≤ k → k ≤ f.hi → (s.parOf a).bad.getLsbD k = false) : s.f a f = fldGet (s.reg a) f :=
  fldGet_congr fun k h1 h2 => s.hw_good a k (h k h1 h2)

section
variable (s : State) (r : RegRow) (i a : Nat) (w : Word)

/-- A bit that a write neither stores nor clears stays (02 R25). -/
theorem State.newVal_kept (f : Fld) (h : ∀ k, f.lo ≤ k → k ≤ f.hi → (s.rwMask r a).getLsbD k = false ∧ (clearMask r).getLsbD k = false) :
    fldGet (s.newVal r a w) f = fldGet (s.reg a) f := by
  refine fldGet_congr fun k h1 h2 => ?_
  obtain ⟨hm, hcl⟩ := h k h1 h2
  unfold State.newVal
  dsimp only
  rw [BitVec.getLsbD_and, BitVec.getLsbD_or, BitVec.getLsbD_and, BitVec.getLsbD_and, BitVec.getLsbD_not, BitVec.getLsbD_not, BitVec.getLsbD_and, hm, hcl]
  by_cases hk : k < 32
  · simp [hk]
  · simp [hk, BitVec.getLsbD_of_ge _ k (Nat.not_lt.1 hk)]

/-- A write that puts what the stored bits hold changes no bit. -/
theorem State.newVal_same (hw : w &&& s.rwMask r a = s.reg a &&& s.rwMask r a) (hcl : clearMask r = 0#32) : s.newVal r a w = s.reg a := by
  unfold State.newVal
  dsimp only
  rw [hw, hcl, BitVec.and_zero, BitVec.not_zero, BitVec.and_allOnes]
  refine BitVec.eq_of_getLsbD_eq fun k hk => ?_
  rw [BitVec.getLsbD_or, BitVec.getLsbD_and, BitVec.getLsbD_and, BitVec.getLsbD_not, decide_eq_true hk]
  cases (s.reg a).getLsbD k <;> cases (s.rwMask r a).getLsbD k <;> rfl

/-- A write clears the safe behaviour of the bits that it stores, and leaves that of other registers. -/
theorem State.parOf_committed (hc : s.Canonical) : (s.committed r i a w).parOf a = { bad := (s.parOf a).bad &&& ~~~(s.rwMask r a), vote := (s.parOf a).vote &&& ~~~(s.rwMask r a) } := by
  unfold State.committed State.parOf
  rw [State.audit_par]
  exact Cells.get_set hc.par _ _

theorem State.parOf_committed_ne (b : Nat) (h : b ≠ a) : (s.committed r i a w).parOf b = s.parOf b := by
  unfold State.committed State.parOf
  rw [State.audit_par]
  exact Cells.get_set_ne _ _ _ _ _ h

/-- A write leaves what the hardware uses of other registers. -/
theorem State.f_committed_ne (b : Nat) (f : Fld) (h : b ≠ a) (h60 : b ≠ EVT_SRC_STAT.a 60) : (s.committed r i a w).f b f = s.f b f := by
  unfold State.f State.hw
  rw [s.parOf_committed_ne r i a w b h, phase_reg_comm s r i a b w h h60]

/-- A field that a write stores is used with its new value. -/
theorem State.f_committed (f : Fld) (hc : s.Canonical) (h60 : a ≠ EVT_SRC_STAT.a 60) (hf : f.hi < 32)
    (hm : ∀ k, f.lo ≤ k → k ≤ f.hi → (s.rwMask r a).getLsbD k = true ∧ (clearMask r).getLsbD k = false) : (s.committed r i a w).f a f = fldGet w f := by
  rw [State.f_good, s.reg_committed r i a w hc h60, newVal_fld s r a w f hm hf]
  intro k h1 h2
  rw [s.parOf_committed r i a w hc]
  dsimp only
  rw [BitVec.getLsbD_and, BitVec.getLsbD_not, (hm k h1 h2).1]
  simp

end

/-- The rows of TIM_PORT_LDLY_MEAS and TIM_PORT_CFG in the register map. -/
def ldlyMeasRow : RegRow := { base := 2101264, s1 := 32, n1 := 24, rw := 0x00ffffff#32, par := 0x00ffffff#32, cut := 0x81000001#32 }
def timPortRow : RegRow :=
  { base := 2101248, s1 := 32, n1 := 24, reset := 0x00001000#32, rw := 0x0000ff36#32, w1s := 0x00000008#32, par := 0x0000ff36#32, cut := 0x0001017f#32 }

theorem rwMask_ldlyMeas (s : State) (a : Nat) : s.rwMask ldlyMeasRow a = 0x00ffffff#32 := (s.rwMask_plain _ a (by decide)).trans (by decide)

theorem rwMask_timPort (s : State) (a : Nat) : s.rwMask timPortRow a = 0x0000ff36#32 := (s.rwMask_plain _ a (by decide)).trans (by decide)

/-- A write of TIM_PORT_LDLY_MEAS. -/
theorem State.poke_LDLY_MEAS (s : State) (i : Nat) (n : Fin 24) (v : Word) (hc : s.Canonical) (hm : s.May i (TIM_PORT_LDLY_MEAS.a n.val)) :
    s.poke i (TIM_PORT_LDLY_MEAS.a n.val) v = (s.committed ldlyMeasRow i (TIM_PORT_LDLY_MEAS.a n.val) v).ldlyMeas n.val := by
  rw [State.poke_commit s i _ v ldlyMeasRow hc hm (kindOf_TIM_PORT_LDLY_MEAS n) (by clear hm; revert n; decide) (by decide) (by decide)
    (by rw [rwMask_ldlyMeas]; decide)]
  have hb : blockOf (TIM_PORT_LDLY_MEAS.a n.val) = 3 := by clear hm; revert n; decide
  have hi : (foldPipe (TIM_PORT_LDLY_MEAS.a n.val) - ldlyMeasRow.base) / ldlyMeasRow.s1 = n.val := by clear hm hb; revert n; decide
  unfold State.regEffect
  simp only [hb, hi]
  rfl

/-- A write of TIM_PORT_CFG that sets ldly_accept and leaves the other fields as they stand. -/
theorem State.poke_ldlyAccept (s : State) (i : Nat) (n : Fin 24) (hc : s.Canonical) (hm : s.May i (TIM_PORT_CFG.a n.val)) :
    s.poke i (TIM_PORT_CFG.a n.val) (s.reg (TIM_PORT_CFG.a n.val) ||| fldMask TIM_PORT_CFG.ldly_accept) =
      (s.committed timPortRow i (TIM_PORT_CFG.a n.val) (s.reg (TIM_PORT_CFG.a n.val) ||| fldMask TIM_PORT_CFG.ldly_accept)).ldlyAccept n.val := by
  have hset : fldGet (s.reg (TIM_PORT_CFG.a n.val) ||| fldMask TIM_PORT_CFG.ldly_accept) TIM_PORT_CFG.ldly_accept = 1 := by
    have hbit : (fldMask TIM_PORT_CFG.ldly_accept).getLsbD 3 = true := by decide
    refine (fldGet_bit _ 3).trans ?_
    rw [BitVec.getLsbD_or, hbit, Bool.or_true]
    rfl
  generalize s.reg (TIM_PORT_CFG.a n.val) ||| fldMask TIM_PORT_CFG.ldly_accept = w at hset ⊢
  rw [State.poke_commit s i _ w timPortRow hc hm (kindOf_TIM_PORT_CFG n) (by clear hm; revert n; decide) (by decide) (by decide)
    (by rw [rwMask_timPort]; decide)]
  have hb : blockOf (TIM_PORT_CFG.a n.val) = 3 := by clear hm; revert n; decide
  have hi : (foldPipe (TIM_PORT_CFG.a n.val) - timPortRow.base) / timPortRow.s1 = n.val := by clear hm hb; revert n; decide
  unfold State.regEffect
  simp only [hb, hi]
  exact if_pos hset

/-- The registers of the link-delay check lie above the event sources. -/
theorem ldly_ne_evt (n k : Nat) :
    TIM_PORT_LDLY_MEAS.a n ≠ EVT_SRC_STAT.a k ∧ TIM_PORT_LDLY_CAL.a n ≠ EVT_SRC_STAT.a k ∧ TIM_PORT_CFG.a n ≠ EVT_SRC_STAT.a k := by
  unfold TIM_PORT_LDLY_MEAS.a TIM_PORT_LDLY_CAL.a TIM_PORT_CFG.a EVT_SRC_STAT.a
  omega

/-- The registers of the link-delay check of a port are different registers. -/
theorem ldly_ne (n : Nat) :
    TIM_PORT_LDLY_CAL.a n ≠ TIM_PORT_LDLY_MEAS.a n ∧ TIM_PORT_CFG.a n ≠ TIM_PORT_LDLY_MEAS.a n ∧ TIM_PORT_CFG.a n ≠ TIM_PORT_LDLY_CAL.a n := by
  unfold TIM_PORT_LDLY_MEAS.a TIM_PORT_LDLY_CAL.a TIM_PORT_CFG.a
  omega

/-- What the judgement of a measurement leaves: `a` and `b` say whether the port belongs to a domain, `bad` that the delay is out of tolerance. -/
theorem State.ldlyMeas_facts (u : State) (n : Nat) (a b bad : Bool) (hc : u.Canonical) (ha : u.on (TIM_PORT_CFG.a n) TIM_PORT_CFG.dom_a = a)
    (hb : u.on (TIM_PORT_CFG.a n) TIM_PORT_CFG.dom_b = b)
    (hbad : decide (u.f (TIM_PORT_CFG.a n) TIM_PORT_CFG.ldly_tol * 16 <
      (u.f (TIM_PORT_LDLY_MEAS.a n) TIM_PORT_LDLY_MEAS.meas - u.f (TIM_PORT_LDLY_CAL.a n) TIM_PORT_LDLY_CAL.cal) +
      (u.f (TIM_PORT_LDLY_CAL.a n) TIM_PORT_LDLY_CAL.cal - u.f (TIM_PORT_LDLY_MEAS.a n) TIM_PORT_LDLY_MEAS.meas)) = bad) :
    let t := u.ldlyMeas n
    fldGet (t.reg (TIM_PORT_LDLY_MEAS.a n)) TIM_PORT_LDLY_MEAS.meas = fldGet (u.reg (TIM_PORT_LDLY_MEAS.a n)) TIM_PORT_LDLY_MEAS.meas ∧
      fldGet (t.reg (TIM_PORT_LDLY_MEAS.a n)) TIM_PORT_LDLY_MEAS.out_tol =
        (if a || b then b2n bad else fldGet (u.reg (TIM_PORT_LDLY_MEAS.a n)) TIM_PORT_LDLY_MEAS.out_tol) ∧
      (bad = true → a = true → fldGet (t.reg (EVT_SRC_STAT.a 30)) EVT_SRC_STAT.pend = 1) ∧
      (bad = true → b = true → fldGet (t.reg (EVT_SRC_STAT.a 31)) EVT_SRC_STAT.pend = 1) ∧ u.Reported t ∧
      ∀ x, x ≠ TIM_PORT_LDLY_MEAS.a n → x ≠ EVT_SRC_STAT.a 30 → x ≠ EVT_SRC_STAT.a 31 → t.reg x = u.reg x := by
  dsimp only
  unfold State.ldlyMeas
  dsimp only
  rw [ha, hb, hbad]
  cases hab : a || b
  · obtain ⟨rfl, rfl⟩ := Bool.or_eq_false_iff.1 hab
    exact ⟨rfl, rfl, fun _ h => absurd h (by decide), fun _ h => absurd h (by decide), rfl, fun _ _ _ _ => rfl⟩
  · rw [if_pos rfl, if_pos rfl]
    obtain ⟨h30, -, -⟩ := ldly_ne_evt n 30
    obtain ⟨h31, -, -⟩ := ldly_ne_evt n 31
    have hcu : (u.setF (TIM_PORT_LDLY_MEAS.a n) TIM_PORT_LDLY_MEAS.out_tol (b2n bad)).Canonical := (State.setF_keeps (State.Keeps.refl u) _ _ _).canon hc
    have hcv := (State.raiseIf_keeps (State.Keeps.refl (u.setF (TIM_PORT_LDLY_MEAS.a n) TIM_PORT_LDLY_MEAS.out_tol (b2n bad))) (bad && a) 30 3 n).canon hcu
    have hmeas : (((u.setF (TIM_PORT_LDLY_MEAS.a n) TIM_PORT_LDLY_MEAS.out_tol (b2n bad)).raiseIf (bad && a) 30 3 n).raiseIf (bad && b) 31 3 n).reg
        (TIM_PORT_LDLY_MEAS.a n) = fldSet (u.reg (TIM_PORT_LDLY_MEAS.a n)) TIM_PORT_LDLY_MEAS.out_tol (b2n bad) := by
      rw [State.reg_raiseIf_ne _ _ _ _ _ _ h31, State.reg_raiseIf_ne _ _ _ _ _ _ h30, reg_setF _ _ _ _ hc.regs]
    refine ⟨?_, ?_, ?_, ?_, ?_, fun x h1 h2 h3 => ?_⟩
    · rw [hmeas, fldGet_fldSet_ne _ _ _ _ (by decide) (by decide)]
    · rw [hmeas, fldGet_fldSet _ _ _ (by decide)]
      cases bad <;> rfl
    · rintro rfl rfl
      rw [State.reg_raiseIf_ne _ _ _ _ _ _ (by decide)]
      exact pend_raise _ 30 3 n hcu
    · rintro rfl rfl
      exact pend_raise _ 31 3 n hcv
    · have hset : u.Reported (u.setF (TIM_PORT_LDLY_MEAS.a n) TIM_PORT_LDLY_MEAS.out_tol (b2n bad)) := rfl
      exact (hset.raiseIf (bad && a) 30 3 n).raiseIf (bad && b) 31 3 n
    · rw [State.reg_raiseIf_ne _ _ _ _ _ _ h3, State.reg_raiseIf_ne _ _ _ _ _ _ h2, reg_setF_ne _ _ _ _ _ h1]

/-- What an accepted measurement leaves. -/
theorem State.ldlyAccept_facts (u : State) (n : Nat) (hc : u.Canonical) :
    let t := u.ldlyAccept n
    fldGet (t.reg (TIM_PORT_LDLY_CAL.a n)) TIM_PORT_LDLY_CAL.cal = u.f (TIM_PORT_LDLY_MEAS.a n) TIM_PORT_LDLY_MEAS.meas ∧
      fldGet (t.reg (TIM_PORT_LDLY_MEAS.a n)) TIM_PORT_LDLY_MEAS.out_tol = 0 ∧
      fldGet (t.reg (TIM_PORT_LDLY_MEAS.a n)) TIM_PORT_LDLY_MEAS.meas = fldGet (u.reg (TIM_PORT_LDLY_MEAS.a n)) TIM_PORT_LDLY_MEAS.meas ∧
      t = { u with regs := t.regs } ∧ ∀ x, x ≠ TIM_PORT_LDLY_MEAS.a n → x ≠ TIM_PORT_LDLY_CAL.a n → t.reg x = u.reg x := by
  obtain ⟨hcal, -, -⟩ := ldly_ne n
  have hcu := fun v => (State.setF_keeps (State.Keeps.refl u) (TIM_PORT_LDLY_CAL.a n) TIM_PORT_LDLY_CAL.cal v).canon hc
  unfold State.ldlyAccept
  dsimp only
  refine ⟨?_, ?_, ?_, rfl, fun x h1 h2 => (reg_setF_ne _ _ _ _ _ h1).trans (reg_setF_ne _ _ _ _ _ h2)⟩
  · rw [reg_setF_ne _ _ _ _ _ hcal, reg_setF _ _ _ _ hc.regs, fldGet_fldSet _ _ _ (by decide)]
    exact Nat.mod_eq_of_lt (fldGet_lt _ TIM_PORT_LDLY_MEAS.meas)
  · rw [reg_setF _ _ _ _ (hcu _).regs, fldGet_fldSet _ _ _ (by decide)]
    rfl
  · rw [reg_setF _ _ _ _ (hcu _).regs, fldGet_fldSet_ne _ _ _ _ (by decide) (by decide), reg_setF_ne _ _ _ _ _ (Ne.symm hcal)]

/-- LDLY_MEASUREMENT_WRITE: the measurement is stored and judged. -/
theorem State.ldlyMeasured (s : State) (i : Nat) (n : Nat) (v : Word) (hc : s.Canonical) :
    let c := s.f (TIM_PORT_LDLY_CAL.a n) TIM_PORT_LDLY_CAL.cal
    let a := s.on (TIM_PORT_CFG.a n) TIM_PORT_CFG.dom_a
    let b := s.on (TIM_PORT_CFG.a n) TIM_PORT_CFG.dom_b
    let bad := decide (s.f (TIM_PORT_CFG.a n) TIM_PORT_CFG.ldly_tol * 16 < (v.toNat % 2 ^ 24 - c) + (c - v.toNat % 2 ^ 24))
    let t := (s.committed ldlyMeasRow i (TIM_PORT_LDLY_MEAS.a n) v).ldlyMeas n
    fldGet (t.reg (TIM_PORT_LDLY_MEAS.a n)) TIM_PORT_LDLY_MEAS.meas = v.toNat % 2 ^ 24 ∧
      fldGet (t.reg (TIM_PORT_LDLY_MEAS.a n)) TIM_PORT_LDLY_MEAS.out_tol =
        (if a || b then b2n bad else fldGet (s.reg (TIM_PORT_LDLY_MEAS.a n)) TIM_PORT_LDLY_MEAS.out_tol) ∧
      (bad = true → a = true → fldGet (t.reg (EVT_SRC_STAT.a 30)) EVT_SRC_STAT.pend = 1) ∧
      (bad = true → b = true → fldGet (t.reg (EVT_SRC_STAT.a 31)) EVT_SRC_STAT.pend = 1) ∧
      t = { s with regs := t.regs, par := t.par, aud := t.aud, evt := t.evt, out := t.out, pcie := { s.pcie with pba := t.pcie.pba } } ∧
      ∀ x, x ≠ TIM_PORT_LDLY_MEAS.a n → x ≠ EVT_SRC_STAT.a 30 → x ≠ EVT_SRC_STAT.a 31 → x ≠ EVT_SRC_STAT.a 60 → t.reg x = s.reg x := by
  obtain ⟨hcal, hcfg, -⟩ := ldly_ne n
  obtain ⟨m60, c60, p60⟩ := ldly_ne_evt n 60
  have hmask : ∀ k, k < 24 → (0x00ffffff#32).getLsbD k = true ∧ (clearMask ldlyMeasRow).getLsbD k = false := by decide
  have hstored : ∀ k, TIM_PORT_LDLY_MEAS.meas.lo ≤ k → k ≤ TIM_PORT_LDLY_MEAS.meas.hi →
      (s.rwMask ldlyMeasRow (TIM_PORT_LDLY_MEAS.a n)).getLsbD k = true ∧ (clearMask ldlyMeasRow).getLsbD k = false := fun k _ h => by
    rw [rwMask_ldlyMeas]
    exact hmask k (Nat.lt_succ_of_le h)
  have hkept : ∀ k, TIM_PORT_LDLY_MEAS.out_tol.lo ≤ k → k ≤ TIM_PORT_LDLY_MEAS.out_tol.hi →
      (s.rwMask ldlyMeasRow (TIM_PORT_LDLY_MEAS.a n)).getLsbD k = false ∧ (clearMask ldlyMeasRow).getLsbD k = false := fun k h1 h2 => by
    obtain rfl : k = 31 := Nat.le_antisymm h2 h1
    rw [rwMask_ldlyMeas]
    decide
  have hv : fldGet v TIM_PORT_LDLY_MEAS.meas = v.toNat % 2 ^ 24 := congrArg (· % 2 ^ 24) (Nat.div_one v.toNat)
  have hreg := s.reg_committed ldlyMeasRow i (TIM_PORT_LDLY_MEAS.a n) v hc m60
  have hmeas : (s.committed ldlyMeasRow i (TIM_PORT_LDLY_MEAS.a n) v).f (TIM_PORT_LDLY_MEAS.a n) TIM_PORT_LDLY_MEAS.meas = v.toNat % 2 ^ 24 :=
    (s.f_committed ldlyMeasRow i _ v _ hc m60 (by decide) hstored).trans hv
  have hf := fun (x : Fld) => s.f_committed_ne ldlyMeasRow i _ v (TIM_PORT_CFG.a n) x hcfg p60
  have hfc := s.f_committed_ne ldlyMeasRow i _ v (TIM_PORT_LDLY_CAL.a n) TIM_PORT_LDLY_CAL.cal hcal c60
  have hon := fun (x : Fld) => congrArg (· == 1) (hf x)
  obtain ⟨h1, h2, h3, h4, h5, h6⟩ := State.ldlyMeas_facts _ n _ _ _ (phase_commCanon s ldlyMeasRow i (TIM_PORT_LDLY_MEAS.a n) v hc)
    (hon TIM_PORT_CFG.dom_a) (hon TIM_PORT_CFG.dom_b) rfl
  rw [hmeas, hf, hfc] at h2 h3 h4
  rw [hreg] at h1 h2
  rw [newVal_fld s ldlyMeasRow _ v _ hstored (by decide), hv] at h1
  rw [s.newVal_kept ldlyMeasRow _ v _ hkept] at h2
  refine ⟨h1, h2, h3, h4, ?_, fun x x1 x2 x3 x4 => (h6 x x1 x2 x3).trans (phase_reg_comm s _ i _ x v x1 x4)⟩
  have hrest := phase_commRest s ldlyMeasRow i (TIM_PORT_LDLY_MEAS.a n) v
  dsimp only at hrest ⊢
  unfold State.Reported at h5
  generalize (s.committed ldlyMeasRow i (TIM_PORT_LDLY_MEAS.a n) v).ldlyMeas n = t at h5 ⊢
  rw [h5, hrest]

/-- LDLY_ACCEPT: the measurement becomes the calibration. -/
theorem State.ldlyAccepted (s : State) (i : Nat) (n : Nat) (hc : s.Canonical) :
    let t := (s.committed timPortRow i (TIM_PORT_CFG.a n) (s.reg (TIM_PORT_CFG.a n) ||| fldMask TIM_PORT_CFG.ldly_accept)).ldlyAccept n
    fldGet (t.reg (TIM_PORT_LDLY_CAL.a n)) TIM_PORT_LDLY_CAL.cal = s.f (TIM_PORT_LDLY_MEAS.a n) TIM_PORT_LDLY_MEAS.meas ∧
      fldGet (t.reg (TIM_PORT_LDLY_MEAS.a n)) TIM_PORT_LDLY_MEAS.out_tol = 0 ∧
      fldGet (t.reg (TIM_PORT_LDLY_MEAS.a n)) TIM_PORT_LDLY_MEAS.meas = fldGet (s.reg (TIM_PORT_LDLY_MEAS.a n)) TIM_PORT_LDLY_MEAS.meas ∧
      t = { s with regs := t.regs, par := t.par, aud := t.aud, evt := t.evt, out := t.out, pcie := { s.pcie with pba := t.pcie.pba } } ∧
      ∀ x, x ≠ TIM_PORT_LDLY_MEAS.a n → x ≠ TIM_PORT_LDLY_CAL.a n → x ≠ EVT_SRC_STAT.a 60 → t.reg x = s.reg x := by
  obtain ⟨-, hcfg, -⟩ := ldly_ne n
  obtain ⟨m60, -, p60⟩ := ldly_ne_evt n 60
  have hw : (s.reg (TIM_PORT_CFG.a n) ||| fldMask TIM_PORT_CFG.ldly_accept) &&& s.rwMask timPortRow (TIM_PORT_CFG.a n) =
      s.reg (TIM_PORT_CFG.a n) &&& s.rwMask timPortRow (TIM_PORT_CFG.a n) := by
    have hstrobe : fldMask TIM_PORT_CFG.ldly_accept &&& 0x0000ff36#32 = 0#32 := by decide
    rw [rwMask_timPort, BitVec.and_comm, BitVec.and_or_distrib_left, BitVec.and_comm _ (fldMask _), hstrobe, BitVec.or_zero, BitVec.and_comm]
  have hsame := s.newVal_same timPortRow (TIM_PORT_CFG.a n) _ hw (by decide)
  generalize s.reg (TIM_PORT_CFG.a n) ||| fldMask TIM_PORT_CFG.ldly_accept = w at hsame ⊢
  have hreg : ∀ x, x ≠ EVT_SRC_STAT.a 60 → (s.committed timPortRow i (TIM_PORT_CFG.a n) w).reg x = s.reg x := fun x h60 => by
    by_cases hx : x = TIM_PORT_CFG.a n
    · rw [hx, s.reg_committed timPortRow i _ w hc p60, hsame]
    · exact phase_reg_comm s timPortRow i _ x w hx h60
  obtain ⟨h1, h2, h3, h4, h5⟩ := State.ldlyAccept_facts _ n (phase_commCanon s timPortRow i (TIM_PORT_CFG.a n) w hc)
  rw [s.f_committed_ne timPortRow i _ w _ _ (Ne.symm hcfg) m60] at h1
  rw [hreg _ m60] at h3
  refine ⟨h1, h2, h3, ?_, fun x x1 x2 x3 => (h5 x x1 x2).trans (hreg x x3)⟩
  have hrest := phase_commRest s timPortRow i (TIM_PORT_CFG.a n) w
  dsimp only at hrest ⊢
  generalize (s.committed timPortRow i (TIM_PORT_CFG.a n) w).ldlyAccept n = t at h4 ⊢
  rw [h4, hrest]

/-- Settles O18: the mailboxes by their requests, the pulses by `State.ppsRise` and `State.ppsDrop`, link delay by the writes of its registers. -/
theorem timeReadsPulsesAndLinkDelay : Obligations.TimeReadsPulsesAndLinkDelay := by
  unfold Obligations.TimeReadsPulsesAndLinkDelay
  refine fun s hc hp => ⟨fun i hm => ?_, fun i hm => ⟨fun e r h => ?_, fun h => ?_⟩, fun i hm => ⟨fun e r h => ?_, fun h => ?_⟩, fun k h ho => ?_, fun h => ?_, ?_,
    fun len hon hl => ?_, fun i n v hm => ?_, fun i n hm => ?_⟩
  · exact s.answered_of 0x200200 0 0 _ _ hc (exec_timeSnapshot s i hm)
  · exact ⟨_, (exec_rxTimestampPop s i hm).trans (congrArg _ (State.rxtsReq_some _ e r h)), s.snap_popped 0x200400 _ _ hc rfl⟩
  · exact ⟨_, (exec_rxTimestampPop s i hm).trans (congrArg _ (State.rxtsReq_empty _ h)), s.pop_empty 0x200400 hc⟩
  · exact ⟨_, (exec_txTimestampPop s i hm).trans (congrArg _ (State.txtsReq_some _ e r h)), s.snap_popped 0x200500 _ _ hc rfl⟩
  · exact ⟨_, (exec_txTimestampPop s i hm).trans (congrArg _ (State.txtsReq_empty _ h)), s.pop_empty 0x200500 hc⟩
  · exact (next_live s _ hp).trans (congrArg _ (s.ppsRise_due k h ho))
  · exact (next_live s _ hp).trans (congrArg _ (s.ppsRise_quiet h))
  · exact (next_live s _ hp).trans (congrArg _ s.ppsDrop_eq)
  · refine ⟨_, exec_ppsInEdge s len hp hon hl, s.answered_snap 0x200600 _ hc, ?_, s.snap_overrun 0x200600 _ hc⟩
    exact State.reg_snap_ne s _ _ _ (by decide) fun j _ => by unfold mbxData; omega
  · exact ⟨_, (next_live s _ hp).trans (congrArg _ (s.poke_LDLY_MEAS i.val n v hc hm)), s.ldlyMeasured i.val n.val v hc⟩
  · exact ⟨_, (next_live s _ hp).trans (congrArg _ (s.poke_ldlyAccept i.val n hc hm)), s.ldlyAccepted i.val n.val hc⟩

end Sys2Proof.Machine
end

section
/-! SUPPORT. What an operation on one phase domain leaves alone: `State.Steers`, and one rule for each operation that keeps to it (04). -/

namespace Sys2Proof.Machine

/-- A hardware use of a register that is the same, with the same parity bookkeeping. -/
theorem State.f_congr {s u : State} {a : Nat} (hr : u.reg a = s.reg a) (hp : u.par = s.par) (x : Fld) : u.f a x = s.f a x := by
  unfold State.f
  rw [State.hw_congr hr hp]

theorem State.setPh_canonical (s : State) (d : Nat) (x : PhSt) (hc : s.Canonical) : (s.setPh d x).Canonical :=
  (State.setPh_keeps (State.Keeps.refl s) d x).canon hc

theorem State.setF_canonical (s : State) (a : Nat) (x : Fld) (v : Nat) (hc : s.Canonical) : (s.setF a x v).Canonical :=
  (State.setF_keeps (State.Keeps.refl s) a x v).canon hc

theorem State.raise_canonical (s : State) (n c i : Nat) (hc : s.Canonical) : (s.raise n c i).Canonical :=
  (State.raise_keeps (State.Keeps.refl s) n c i).canon hc

theorem State.ph_setPh_ne (s : State) (d e : Nat) (x : PhSt) (h : e ≠ d) : (s.setPh d x).ph e = s.ph e := Cells.get_set_ne _ _ _ _ _ h

/-- The registers that an operation on domain `d` may change lie apart, and apart from the other domains'. -/
theorem phsStat_ne (d : Nat) : PHS_STAT.a d ≠ PHS_DISC.a d ∧ PHS_STAT.a d ≠ EVT_SRC_STAT.a 32 ∧ PHS_DISC.a d ≠ EVT_SRC_STAT.a 32 := by
  unfold PHS_STAT.a PHS_DISC.a EVT_SRC_STAT.a
  omega

/-- From `s` to `t` only domain `d` has moved, and not its queue: what else may have changed are its status, its counters, the event source of
the phase domains, and the open values drawn. -/
structure State.Steers (s : State) (d : Nat) (t : State) : Prop where
  canon : t.Canonical
  same : t = { s with regs := t.regs, evt := t.evt, out := t.out, phs := t.phs, freeIdx := t.freeIdx, pcie := { s.pcie with pba := t.pcie.pba } }
  regs : ∀ a, a ≠ PHS_STAT.a d → a ≠ PHS_DISC.a d → a ≠ EVT_SRC_STAT.a 32 → t.reg a = s.reg a
  others : ∀ e, e ≠ d → t.ph e = s.ph e
  queue : (t.ph d).queue = (s.ph d).queue

namespace State.Steers

theorem refl {s : State} (d : Nat) (hc : s.Canonical) : s.Steers d s := ⟨hc, rfl, fun _ _ _ _ => rfl, fun _ _ => rfl, rfl⟩

variable {s t : State} {d : Nat}

theorem par (h : s.Steers d t) : t.par = s.par := by rw [h.same]

theorem now (h : s.Steers d t) : t.now = s.now := by rw [h.same]

/-- A configuration field of any domain is used as before. -/
theorem f (h : s.Steers d t) (a : Nat) (x : Fld) (h1 : a ≠ PHS_STAT.a d) (h2 : a ≠ PHS_DISC.a d) (h3 : a ≠ EVT_SRC_STAT.a 32) : t.f a x = s.f a x :=
  State.f_congr (h.regs a h1 h2 h3) h.par x

theorem setPh (h : s.Steers d t) (x : PhSt) (hq : x.queue = (t.ph d).queue := by rfl) : s.Steers d (t.setPh d x) where
  canon := t.setPh_canonical d x h.canon
  same := by
    have := h.same
    generalize hu : t.setPh d x = u
    have e : u = { t with phs := u.phs } := by rw [← hu]; rfl
    rw [e, this]
  regs := h.regs
  others e he := (t.ph_setPh_ne d e x he).trans (h.others e he)
  queue := by rw [t.ph_setPh d x h.canon, hq, h.queue]

theorem setReg (h : s.Steers d t) {b : Nat} (w : Word) (hb : b = PHS_STAT.a d ∨ b = PHS_DISC.a d) : s.Steers d (t.setReg b w) where
  canon := (State.setReg_keeps (State.Keeps.refl t) b w).canon h.canon
  same := by
    have := h.same
    generalize hu : t.setReg b w = u
    have e : u = { t with regs := u.regs } := by rw [← hu]; rfl
    rw [e, this]
  regs a h1 h2 h3 := (State.reg_setReg_ne t b a w (by rcases hb with rfl | rfl <;> assumption)).trans (h.regs a h1 h2 h3)
  others := h.others
  queue := h.queue

theorem setStat (h : s.Steers d t) (x : Fld) (v : Nat) : s.Steers d (t.setF (PHS_STAT.a d) x v) := h.setReg _ (.inl rfl)

theorem setStats (h : s.Steers d t) (l : List (Fld × Nat)) : s.Steers d (t.setFs (PHS_STAT.a d) l) := h.setReg _ (.inl rfl)

theorem count (h : s.Steers d t) (x : Fld) : s.Steers d (t.bump (PHS_DISC.a d) x) := h.setReg _ (.inr rfl)

theorem raise (h : s.Steers d t) (c i : Nat) : s.Steers d (t.raise 32 c i) where
  canon := t.raise_canonical 32 c i h.canon
  same := by
    have := h.same
    have e := t.raise_same 32 c i
    generalize t.raise 32 c i = u at e ⊢
    rw [e, this]
  regs a h1 h2 h3 := (State.reg_raise_ne t 32 c i a h3).trans (h.regs a h1 h2 h3)
  others e he := (t.ph_raise 32 c i e).trans (h.others e he)
  queue := (congrArg PhSt.queue (t.ph_raise 32 c i d)).trans h.queue

theorem raiseIf (h : s.Steers d t) (b : Bool) (c i : Nat) : s.Steers d (t.raiseIf b 32 c i) := by
  unfold State.raiseIf
  split
  · exact h.raise c i
  · exact h

theorem freeIdx (h : s.Steers d t) (k : Nat) : s.Steers d { t with freeIdx := k } :=
  ⟨{ h.canon with }, by rw [h.same], h.regs, h.others, h.queue⟩

theorem divOpen (h : s.Steers d t) (num : Int) (den : Nat) : s.Steers d (t.divOpen num den).2 := by
  obtain ⟨⟨k, hk⟩, -⟩ := phase_divOpen_cases t num den
  rw [hk]
  exact h.freeIdx k

theorem trans {u : State} (h : s.Steers d t) (k : t.Steers d u) : s.Steers d u where
  canon := k.canon
  same := by
    have := h.same
    have e := k.same
    rw [e, this]
  regs a h1 h2 h3 := (k.regs a h1 h2 h3).trans (h.regs a h1 h2 h3)
  others e he := (k.others e he).trans (h.others e he)
  queue := k.queue.trans h.queue

end State.Steers

end Sys2Proof.Machine
end

section
/-! SUPPORT. What the pins of a phase domain make of their levels (04 R79 to R81). -/

namespace Sys2Proof.Machine

theorem State.setLev_canonical (s : State) (p k : Nat) (b : Bool) (hc : s.Canonical) : (s.setLev p k b).Canonical :=
  (State.setLev_keeps (State.Keeps.refl s) p k b).canon hc

/-- The status and configuration of another domain are no register that an operation on domain `d` changes. -/
theorem phsRegs_apart {d e : Nat} (h : e ≠ d) (he : e < 4) :
    (PHS_STAT.a e ≠ PHS_STAT.a d ∧ PHS_STAT.a e ≠ PHS_DISC.a d ∧ PHS_STAT.a e ≠ EVT_SRC_STAT.a 32) ∧
    (PHS_CFG.a e ≠ PHS_STAT.a d ∧ PHS_CFG.a e ≠ PHS_DISC.a d ∧ PHS_CFG.a e ≠ EVT_SRC_STAT.a 32) := by
  unfold PHS_STAT.a PHS_DISC.a PHS_CFG.a EVT_SRC_STAT.a
  omega

/-- Where domain `d` alone runs from a pin set, an event at the pins is that domain's: what it does there leaves the other domains theirs. -/
theorem foldl_phUses {u t : State} {d k p : Nat} (f : State → Nat → State) (hd : d < 4) (hu : ∀ e, e < 4 → (u.phUses e k p = true ↔ e = d))
    (hf : f u d = t)
    (hr : ∀ a, a ≠ PHS_STAT.a d → a ≠ PHS_DISC.a d → a ≠ EVT_SRC_STAT.a 32 → t.reg a = u.reg a) (hp : t.par = u.par) : (List.range 4).foldl (fun v e => if v.phUses e k p then f v e else v) u = t := by
  refine phase_foldOne f (fun v e => v.phUses e k p) u t d hd hu hf fun e he hne => ?_
  obtain ⟨⟨s1, s2, s3⟩, c1, c2, c3⟩ := phsRegs_apart hne he
  rw [phase_phUses_of u t e k p (hr _ s1 s2 s3) (hr _ c1 c2 c3) hp]
  exact Bool.eq_false_iff.2 fun q => hne ((hu e he).1 q)

section
variable (u : State) (d held back : Nat)

/-- The filter takes a level that has stood for flt_len + 1 samples (04 R79). -/
theorem State.fltOk_of (h1 : u.f (PHS_CFG.a d) PHS_CFG.flt_len + 1 ≤ held) (h2 : u.f (PHS_CFG.a d) PHS_CFG.flt_len ≤ back) : u.fltOk d held back = true := by
  unfold State.fltOk
  rw [decide_eq_true h1, decide_eq_true h2]
  rfl

theorem State.fltOk_short (h : held < u.f (PHS_CFG.a d) PHS_CFG.flt_len + 1 ∨ back < u.f (PHS_CFG.a d) PHS_CFG.flt_len) : u.fltOk d held back = false := by
  unfold State.fltOk
  rcases h with h | h
  · rw [decide_eq_false (Nat.not_le.2 h), Bool.false_and]
  · rw [decide_eq_false (Nat.not_le.2 h), Bool.and_false]

/-! ### Edges (04 R80) -/

/-- A level that is too short, or that stands already, is not taken. -/
theorem State.edgeIn_none (rise : Bool) (h : u.fltOk d held back = false ∨ (u.ph d).levA = rise) : u.edgeIn d rise held back = u := by
  refine if_neg ?_
  rcases h with h | h <;> simp [h]

/-- A level that is taken: the filter keeps it, and an edge of the selected kind is observed. -/
theorem State.edgeIn_taken (rise : Bool) (h : u.fltOk d held back = true) (hl : (u.ph d).levA ≠ rise) : u.edgeIn d rise held back =
    if edgeSel (u.f (PHS_CFG.a d) PHS_CFG.edge_sel) rise then (u.setPh d { u.ph d with levA := rise }).edgeObs d back else u.setPh d { u.ph d with levA := rise } :=
  if_pos (by rw [h, bne_iff_ne.2 hl]; rfl)

/-- 04 R80: an edge at `stamp` comes within less than its least distance behind the last one. -/
def State.edgeSoon (stamp : Int) : Prop :=
  ∃ l : Int, (u.ph d).lastEdge = some l ∧ (stamp - l) * (u.f (PHS_LIM.a d) PHS_LIM.vel_max * u.phN d : Nat) < 4294967296 * (4 * 4294967296)

/-- An edge that comes too soon is an outlier. -/
theorem State.edgeObs_soon (h : u.edgeSoon d (u.stampBack back)) : u.edgeObs d back = (u.bump (PHS_DISC.a d) PHS_DISC.outliers).raise 32 4 d := by
  obtain ⟨l, hl, hs⟩ := h
  unfold State.edgeObs
  dsimp only
  rw [hl]
  exact if_pos (decide_eq_true hs)

/-- An edge that does not joins the queue, where it has room. -/
theorem State.edgeObs_queued (hc : u.Canonical) (h : ¬u.edgeSoon d (u.stampBack back)) (hq : (u.ph d).queue.length < 2) : u.edgeObs d back =
    u.setPh d { u.ph d with lastEdge := some (u.stampBack back), queue := (u.ph d).queue ++ [⟨0, 0, u.stampBack back, 0, false, false, false, u.fltTick d back⟩] } := by
  have hp : (u.setPh d { u.ph d with lastEdge := some (u.stampBack back) }).ph d = { u.ph d with lastEdge := some (u.stampBack back) } := u.ph_setPh d _ hc
  unfold State.edgeObs
  dsimp only
  rw [phase_obsPush_room _ _ _ (by rw [hp]; exact hq), hp, u.setPh_setPh d _ _ hc]
  refine if_neg fun q => h ?_
  cases hl : (u.ph d).lastEdge with
  | none => rw [hl] at q; cases q
  | some l => rw [hl] at q; exact ⟨l, hl, of_decide_eq_true q⟩

/-- An edge of another kind only moves the filter. -/
theorem State.edgeIn_unselected (rise : Bool) (h : u.fltOk d held back = true) (hl : (u.ph d).levA ≠ rise)
    (hsel : edgeSel (u.f (PHS_CFG.a d) PHS_CFG.edge_sel) rise = false) : u.edgeIn d rise held back = u.setPh d { u.ph d with levA := rise } :=
  (u.edgeIn_taken d held back rise h hl).trans (if_neg (Bool.eq_false_iff.1 hsel))

/-- An edge of the selected kind that does not come too soon is taken into the queue. -/
theorem State.edgeIn_queued (rise : Bool) (hc : u.Canonical) (h : u.fltOk d held back = true) (hl : (u.ph d).levA ≠ rise)
    (hsel : edgeSel (u.f (PHS_CFG.a d) PHS_CFG.edge_sel) rise = true) (hs : ¬u.edgeSoon d (u.stampBack back)) (hq : (u.ph d).queue.length < 2) :
    u.edgeIn d rise held back = u.setPh d { u.ph d with
      levA := rise, lastEdge := some (u.stampBack back), queue := (u.ph d).queue ++ [⟨0, 0, u.stampBack back, 0, false, false, false, u.fltTick d back⟩] } := by
  have hx := u.ph_setPh d { u.ph d with levA := rise } hc
  rw [u.edgeIn_taken d held back rise h hl, if_pos hsel, State.edgeObs_queued _ d back (u.setPh_canonical d _ hc) ?_ (by rw [hx]; exact hq), hx, u.setPh_setPh d _ _ hc]
  · rfl
  · rintro ⟨l, e1, e2⟩
    rw [hx] at e1
    exact hs ⟨l, e1, e2⟩

/-- An edge of the selected kind that comes too soon is taken, counted and reported. -/
theorem State.edgeIn_soon (rise : Bool) (hc : u.Canonical) (h : u.fltOk d held back = true) (hl : (u.ph d).levA ≠ rise)
    (hsel : edgeSel (u.f (PHS_CFG.a d) PHS_CFG.edge_sel) rise = true) (hs : u.edgeSoon d (u.stampBack back)) :
    u.edgeIn d rise held back = ((u.setPh d { u.ph d with levA := rise }).bump (PHS_DISC.a d) PHS_DISC.outliers).raise 32 4 d := by
  obtain ⟨l, e1, e2⟩ := hs
  rw [u.edgeIn_taken d held back rise h hl, if_pos hsel]
  exact State.edgeObs_soon _ d back ⟨l, by rw [u.ph_setPh d _ hc]; exact e1, e2⟩

/-! ### Quadrature and Z (04 R81) -/

/-- An observation of the count `c` of domain `d`. -/
def State.countObs (c : Nat) (z : Bool) : PhObs := ⟨1, c, u.stampBack back, 0, false, false, z, u.fltTick d back⟩

variable (a b : Bool)

/-- The count angle after a valid transition: one tu_per_count on, in its direction. -/
def State.quadCount : Nat :=
  if (quadFwd (u.ph d).levA (u.ph d).levB a b != u.on (PHS_CFG.a d) PHS_CFG.swap_ab) = true then ((u.ph d).count + u.f (PHS_TPC.a d) PHS_TPC.tu_per_count) % 4294967296
  else ((u.ph d).count + 4294967296 - u.f (PHS_TPC.a d) PHS_TPC.tu_per_count) % 4294967296

/-- Levels that stand already give nothing. -/
theorem State.quadIn_still (ha : (u.ph d).levA = a) (hb : (u.ph d).levB = b) : u.quadIn d a b false held back = u := by
  unfold State.quadIn
  simp [ha, hb]

/-- One level changes: a transition. -/
theorem State.quadIn_step (hc : u.Canonical) (h : u.fltOk d held back = true) (hv : ((u.ph d).levA = a ∧ (u.ph d).levB ≠ b) ∨ ((u.ph d).levA ≠ a ∧ (u.ph d).levB = b))
    (hq : (u.ph d).queue.length < 2) : u.quadIn d a b false held back = u.setPh d { u.ph d with
      levA := a, levB := b, since := u.now, count := u.quadCount d a b, queue := (u.ph d).queue ++ [u.countObs d back (u.quadCount d a b) false] } := by
  have hboth : ((u.ph d).levA != a && (u.ph d).levB != b) = false := by rcases hv with ⟨h1, -⟩ | ⟨-, h1⟩ <;> simp [h1]
  have hnone : ((u.ph d).levA == a && (u.ph d).levB == b) = false := by rcases hv with ⟨-, h1⟩ | ⟨h1, -⟩ <;> simp [h1]
  have hchg : ((u.ph d).levA != a || (u.ph d).levB != b) = true := by rcases hv with ⟨-, h1⟩ | ⟨h1, -⟩ <;> simp [h1]
  unfold State.quadIn
  simp only [h, hboth, hnone, hchg, Bool.false_and, Bool.true_and, Bool.false_or, Bool.or_self, Bool.false_eq_true, if_true, if_false]
  rw [phase_obsPush_room _ _ _ (by rw [State.ph_setPh _ _ _ (u.setPh_canonical d _ hc), u.ph_setPh d _ hc]; exact hq),
    State.ph_setPh _ _ _ (u.setPh_canonical d _ hc), u.ph_setPh d _ hc, State.setPh_setPh _ _ _ _ (u.setPh_canonical d _ hc), u.setPh_setPh d _ _ hc]
  rfl

end

end Sys2Proof.Machine
end

section
/-! SUPPORT. Quadrature errors, Z edges, and the commands of the phase pins and of PHS_SNAP (04 R79 to R81, R94). -/

namespace Sys2Proof.Machine

/-- The quadrature errors of the last 1 ms and the one of this tick (04 R81). -/
def State.quadErrs (u : State) (d : Nat) : List Nat := u.now :: (u.ph d).quadErr.filter (fun t => decide (u.now < t + 250000))

section
variable {u : State} {d : Nat}

/-- Fewer than eight quadrature errors: the change is counted and reported. -/
theorem State.quadError_few (hc : u.Canonical) (h : (u.quadErrs d).length < 8) : ∃ t, u.quadError d = t ∧ u.Steers d t ∧ t.ph d = { u.ph d with quadErr := u.quadErrs d } ∧
    fldGet (t.reg (EVT_SRC_STAT.a 32)) EVT_SRC_STAT.pend = 1 ∧ t.freeIdx = u.freeIdx ∧ ∀ y, y ≠ PHS_DISC.a d → y ≠ EVT_SRC_STAT.a 32 → t.reg y = u.reg y := by
  have he : u.quadError d = ((u.setPh d { u.ph d with quadErr := u.quadErrs d }).bump (PHS_DISC.a d) PHS_DISC.discards).raise 32 5 d := by
    have ht : (u.quadErrs d).take 8 = u.quadErrs d := List.take_of_length_le (by omega)
    unfold State.quadErrs at h ht ⊢
    unfold State.quadError
    dsimp only
    rw [ht, if_neg (by omega)]
  have hs := ((State.Steers.refl d hc).setPh { u.ph d with quadErr := u.quadErrs d }).count PHS_DISC.discards
  exact ⟨_, he, hs.raise 5 d, (State.ph_raise _ _ _ _ _).trans (u.ph_setPh d _ hc), pend_raise _ 32 5 d hs.canon, State.raise_freeIdx _ _ _ _,
    fun y h1 h2 => (State.reg_raise_ne _ 32 5 d y h2).trans (State.reg_setF_ne _ _ _ _ _ h1)⟩

/-- The state in which domain `d` has taken the levels of A and B. -/
def State.quadTaken (u : State) (d : Nat) (a b : Bool) : State := u.setPh d { u.ph d with levA := a, levB := b, since := u.now }

/-- Both levels change at once: a quadrature error, with no transition. -/
theorem State.quadIn_error (a b : Bool) (held back : Nat) (hc : u.Canonical) (h : u.fltOk d held back = true) (ha : (u.ph d).levA ≠ a) (hb : (u.ph d).levB ≠ b)
    (hq : (u.quadErrs d).length < 8) : ∃ t, u.quadIn d a b false held back = t ∧ u.Steers d t ∧
      t.ph d = { u.ph d with levA := a, levB := b, since := u.now, quadErr := u.quadErrs d } ∧ fldGet (t.reg (EVT_SRC_STAT.a 32)) EVT_SRC_STAT.pend = 1 ∧
      t.freeIdx = u.freeIdx ∧ ∀ y, y ≠ PHS_DISC.a d → y ≠ EVT_SRC_STAT.a 32 → t.reg y = u.reg y := by
  have hx : (u.quadTaken d a b).ph d = { u.ph d with levA := a, levB := b, since := u.now } := u.ph_setPh d _ hc
  have hs : u.Steers d (u.quadTaken d a b) := (State.Steers.refl d hc).setPh _
  have herrs : (u.quadTaken d a b).quadErrs d = u.quadErrs d := by
    unfold State.quadErrs
    rw [hx]
    rfl
  obtain ⟨t, he, ht, htx, hpend, hfree, hreg⟩ := State.quadError_few hs.canon (by rw [herrs]; exact hq)
  have hin : u.quadIn d a b false held back = t.setPh d { t.ph d with count := (u.ph d).count } := by
    rw [← he]
    unfold State.quadIn State.quadTaken
    simp [h, ha, hb]
  refine ⟨_, hin, (hs.trans ht).setPh _, ?_, hpend, hfree, hreg⟩
  rw [t.ph_setPh d _ ht.canon, htx, herrs, hx]

/-- A Z edge at resting levels that has not been taken before: the count goes to the offset, and PHS_STAT shows it (04 R81). -/
theorem State.quadIn_z (held back : Nat) (hc : u.Canonical) (h : u.fltOk d held back = true) (hz : (u.ph d).zAt ≠ some (u.stampBack back)) (hq : (u.ph d).queue.length < 2) :
    let off := u.f (PHS_OFFSET.a d) PHS_OFFSET.offset
    ∃ t, u.quadIn d (u.ph d).levA (u.ph d).levB true held back = t ∧
      t.ph d = { u.ph d with since := u.now, zAt := some (u.stampBack back), count := off, queue := (u.ph d).queue ++ [u.countObs d back off true] } ∧
      fldGet (t.reg (PHS_STAT.a d)) PHS_STAT.z_seen = 1 ∧ t = { u with regs := t.regs, phs := t.phs } ∧ (∀ y, y ≠ PHS_STAT.a d → t.reg y = u.reg y) ∧
      ∀ e, e ≠ d → t.ph e = u.ph e := by
  dsimp only
  have hz' : ((u.ph d).zAt != some (u.stampBack back)) = true := bne_iff_ne.2 hz
  unfold State.quadIn
  simp only [h, hz', bne_self_eq_false, Bool.and_self, Bool.and_false, Bool.true_or, Bool.not_true, Bool.false_eq_true, if_true, if_false]
  rw [u.ph_setPh d _ hc, u.setPh_setPh d _ _ hc]
  have hcan : ∀ x, ((u.setPh d x).setF (PHS_STAT.a d) PHS_STAT.z_seen 1).Canonical := fun x => State.setF_canonical _ _ _ _ (u.setPh_canonical d x hc)
  have hp : ∀ x, ((u.setPh d x).setF (PHS_STAT.a d) PHS_STAT.z_seen 1).ph d = x := fun x => u.ph_setPh d x hc
  rw [phase_obsPush_room _ _ _ (by rw [hp]; exact hq), hp]
  refine ⟨_, rfl, State.ph_setPh _ d _ (hcan _), ?_, rfl, fun y hy => State.reg_setF_ne _ _ _ _ _ hy, fun e he => ?_⟩
  · exact (congrArg (fldGet · PHS_STAT.z_seen) (reg_setF _ _ _ _ hc.regs)).trans (fldGet_fldSet _ _ _ (by decide))
  · exact (State.ph_setPh_ne _ _ _ _ he).trans (u.ph_setPh_ne _ _ _ he)

end

section
variable (s : State) (p d : Fin 4) (held back : BitVec 16) (hc : s.Canonical) (hp : s.powered = true)
include hp

/-- PHASE_EDGE where one domain runs from the pin set: that domain's filter sees the new level (04 R79). -/
theorem exec_phaseEdge (rise : Bool) {t : State} (hu : ∀ e, e < 4 → (s.phUses e 0 p.val = true ↔ e = d.val))
    (he : (s.setLev p.val 0 rise).edgeIn d.val rise held.toNat back.toNat = t)
    (hr : ∀ a, a ≠ PHS_STAT.a d.val → a ≠ PHS_DISC.a d.val → a ≠ EVT_SRC_STAT.a 32 → t.reg a = s.reg a) (hpar : t.par = s.par) :
    exec (.phaseEdge p rise held back) s = .next t :=
  (next_live s _ hp).trans (congrArg _ (foldl_phUses (fun u e => u.edgeIn e rise held.toNat back.toNat) d.isLt hu he hr hpar))

/-- QUAD_TRANSITION likewise. -/
theorem exec_quadTransition (a b : Bool) {t : State} (hu : ∀ e, e < 4 → (s.phUses e 1 p.val = true ↔ e = d.val))
    (he : ((s.setLev p.val 0 a).setLev p.val 1 b).quadIn d.val a b false held.toNat back.toNat = t)
    (hr : ∀ a, a ≠ PHS_STAT.a d.val → a ≠ PHS_DISC.a d.val → a ≠ EVT_SRC_STAT.a 32 → t.reg a = s.reg a) (hpar : t.par = s.par) :
    exec (.quadTransition p a b false held back) s = .next t :=
  (next_live s _ hp).trans (congrArg _ (foldl_phUses (fun u e => u.quadIn e a b false held.toNat back.toNat) d.isLt hu he hr hpar))

/-- Z_EDGE likewise. -/
theorem exec_zEdge {t : State} (hu : ∀ e, e < 4 → (s.phUses e 1 p.val = true ↔ e = d.val))
    (he : s.quadIn d.val (s.ph d.val).levA (s.ph d.val).levB true held.toNat back.toNat = t)
    (hr : ∀ a, a ≠ PHS_STAT.a d.val → a ≠ PHS_DISC.a d.val → a ≠ EVT_SRC_STAT.a 32 → t.reg a = s.reg a) (hpar : t.par = s.par) :
    exec (.zEdge p held back) s = .next t :=
  (next_live s _ hp).trans (congrArg _ (foldl_phUses (fun u e => u.quadIn e (u.ph e).levA (u.ph e).levB true held.toNat back.toNat) d.isLt hu he hr hpar))

end

/-- A domain with nothing due stays (04 R84). -/
theorem State.obsSettle_quiet (s : State) (d : Nat) (h : s.obsDue d = false) : s.obsSettle d = s := by
  unfold State.obsSettle
  simp [h]

/-- PHS_SNAP of a domain (04 R94). -/
theorem exec_phaseSnapshot (s : State) (i : Fin 3) (d : Fin 4) (hm : s.MayAsk i.val 0x300400) : exec (.phaseSnapshot i (BitVec.ofNat 16 d.val)) s =
    .next (((s.asked 0x300400 0 d.val).obsSettle d.val).snap 0x300400 (((s.asked 0x300400 0 d.val).obsSettle d.val).phSnapWords d.val)) := by
  have hd := d.isLt
  refine (next_live s _ hm.powered).trans (congrArg _ ?_)
  rw [toNat_arg (by omega), s.request_at_0x300400 i.val 0 d.val hm (by omega) (by omega)]
  exact if_neg (by omega)

theorem exec_phaseSnapshot_quiet (s : State) (i : Fin 3) (d : Fin 4) (hm : s.MayAsk i.val 0x300400) (h : s.obsDue d.val = false) :
    exec (.phaseSnapshot i (BitVec.ofNat 16 d.val)) s = .next ((s.asked 0x300400 0 d.val).snap 0x300400 (s.phSnapWords d.val)) := by
  have hq : (s.asked 0x300400 0 d.val).obsDue d.val = false := h
  rw [exec_phaseSnapshot s i d hm, State.obsSettle_quiet _ _ hq]
  rfl

/-- Settles O19: each event of the pins by what the filter of its domain makes of it, PHS_SNAP by its request. -/
theorem phasePinsGiveObservations : Obligations.PhasePinsGiveObservations := by
  unfold Obligations.PhasePinsGiveObservations
  intro s p d held back hc hp
  dsimp only
  refine ⟨fun rise hu => ⟨fun h1 h2 hl => ⟨fun hsel => ⟨fun hs hq => ?_, fun hs => ?_⟩, fun hsel => ?_⟩, fun h => ?_⟩,
    fun hu h1 h2 => ⟨fun a b => ⟨fun hv hq => ?_, fun ha hb => ?_, fun ha hb hq => ?_⟩, fun hz hq => ?_⟩, fun i hm => ⟨fun h => ?_, ?_⟩⟩
  · exact exec_phaseEdge s p d held back hp rise hu (State.edgeIn_queued _ _ _ _ rise (s.setLev_canonical p.val 0 rise hc) (s.fltOk_of _ _ _ h1 h2) hl hsel hs hq)
      (fun _ _ _ _ => rfl) rfl
  · have ht := (((State.Steers.refl d.val (s.setLev_canonical p.val 0 rise hc)).setPh { s.ph d.val with levA := rise }).count PHS_DISC.outliers).raise 4 d.val
    exact exec_phaseEdge s p d held back hp rise hu (State.edgeIn_soon _ _ _ _ rise (s.setLev_canonical p.val 0 rise hc) (s.fltOk_of _ _ _ h1 h2) hl hsel hs) ht.regs ht.par
  · exact exec_phaseEdge s p d held back hp rise hu (State.edgeIn_unselected _ _ _ _ rise (s.fltOk_of _ _ _ h1 h2) hl hsel) (fun _ _ _ _ => rfl) rfl
  · refine exec_phaseEdge s p d held back hp rise hu (State.edgeIn_none _ _ _ _ rise ?_) (fun _ _ _ _ => rfl) rfl
    rcases h with h | h | h
    · exact .inl (s.fltOk_short _ _ _ (.inl h))
    · exact .inl (s.fltOk_short _ _ _ (.inr h))
    · exact .inr h
  · exact exec_quadTransition s p d held back hp a b hu (State.quadIn_step _ _ _ _ a b (State.setLev_canonical _ p.val 1 b (s.setLev_canonical p.val 0 a hc)) (s.fltOk_of _ _ _ h1 h2) hv hq)
      (fun _ _ _ _ => rfl) rfl
  · exact exec_quadTransition s p d held back hp a b hu (State.quadIn_still _ _ _ _ a b ha hb) (fun _ _ _ _ => rfl) rfl
  · obtain ⟨t, he, ht, hx, hpend, hfree, hreg⟩ := State.quadIn_error a b held.toNat back.toNat (State.setLev_canonical _ p.val 1 b (s.setLev_canonical p.val 0 a hc)) (s.fltOk_of _ _ _ h1 h2) ha hb
      (Nat.succ_lt_succ hq)
    refine ⟨t, exec_quadTransition s p d held back hp a b hu he ht.regs ht.par, hx, hpend, ?_, hreg⟩
    have hsame := ht.same
    rw [hfree] at hsame
    rw [hsame]
    rfl
  · obtain ⟨t, he, hx, hseen, hsame, hreg, hothers⟩ := s.quadIn_z held.toNat back.toNat hc (s.fltOk_of _ _ _ h1 h2) hz hq
    exact ⟨t, exec_zEdge s p d held back hp hu he (fun a h1 _ _ => hreg a h1) (by rw [hsame]), hx, hseen, hsame, hreg, hothers⟩
  · exact s.answered_of 0x300400 0 d.val _ _ hc (exec_phaseSnapshot_quiet s i d hm h)
  · refine ⟨_, exec_phaseSnapshot s i d hm, State.snap_shows _ _ _ ?_⟩
    exact ((State.obsSettle_keeps (State.Keeps.refl _) d.val).canon ((State.setReg_keeps (State.Keeps.refl s) _ _).canon hc)).regs

end Sys2Proof.Machine
end

section
/-! SUPPORT. The estimator of a phase domain: what each of its operations leaves (04 R80 to R88). -/

namespace Sys2Proof.Machine

namespace State.Steers

variable {s t : State} {d : Nat}

theorem ite {c : Prop} [Decidable c] {u v : State} (hu : s.Steers d u) (hv : s.Steers d v) : s.Steers d (if c then u else v) := by
  split <;> assumption

/-! The updates of the estimator's own state, for any value: its loop, its count of observations, its lock and its re-estimate. -/

theorem setLoop (h : s.Steers d t) (θ : Nat) (w : Int) : s.Steers d (t.setPh d { t.ph d with theta := θ, omega := w }) := h.setPh _
theorem setAcqN (h : s.Steers d t) (n : Nat) : s.Steers d (t.setPh d { t.ph d with acqN := n }) := h.setPh _
theorem setRun (h : s.Steers d t) (k : Nat) : s.Steers d (t.setPh d { t.ph d with run := k }) := h.setPh _
theorem setAcqRun (h : s.Steers d t) (n k : Nat) : s.Steers d (t.setPh d { t.ph d with acqN := n, run := k }) := h.setPh _
theorem setReest (h : s.Steers d t) (n : Nat) : s.Steers d (t.setPh d { t.ph d with reest := n }) := h.setPh _

theorem phPublish (h : s.Steers d t) : s.Steers d (t.phPublish d) := .ite (h.setPh _) (.ite ((h.setPh _).setStat _ _) h)

theorem phMove (h : s.Steers d t) (c : Nat) : s.Steers d (t.phMove d c) := (h.setPh _).setStat _ _

theorem phAcquire (h : s.Steers d t) : s.Steers d (t.phAcquire d) := (h.setPh _).setStats _

theorem phTrack (h : s.Steers d t) : s.Steers d (t.phTrack d) := ((h.setPh _).setStats _).raiseIf _ _ _

theorem phRegain (h : s.Steers d t) : s.Steers d (t.phRegain d) := (h.setStat _ _).phPublish

theorem phNote (h : s.Steers d t) (stamp : Int) : s.Steers d (t.phNote d stamp) := h.setPh _

theorem obsFirst (h : s.Steers d t) (θ : Nat) (stamp : Int) : s.Steers d (t.obsFirst d θ stamp) := (h.setPh _).phNote stamp

theorem obsSecond (h : s.Steers d t) (θ : Nat) (stamp : Int) : s.Steers d (t.obsSecond d θ stamp) := by
  unfold State.obsSecond
  exact ((((h.divOpen _ _).divOpen _ _).setLoop _ _).phNote stamp).raiseIf _ _ _

theorem obsLoop (h : s.Steers d t) (e stamp : Int) : s.Steers d (t.obsLoop d e stamp) := (((h.divOpen _ _).setLoop _ _).phNote stamp).raiseIf _ _ _

theorem phPred (h : s.Steers d t) (stamp : Int) : s.Steers d (t.phPred d stamp).2 := h.divOpen _ _

theorem sampDrop (h : s.Steers d t) (cause : Nat) : s.Steers d (t.sampDrop d cause) := (h.count _).raise _ _

/-- What an acquisition makes of its next observation: TRACK, once it is locked. -/
theorem lockOrPublish (h : s.Steers d t) : s.Steers d (if t.phLocked d then t.phTrack d else t.phPublish d) := .ite h.phTrack h.phPublish

/-- An observation moves its domain alone (04 R85, R87, R88). -/
theorem obsRun (h : s.Steers d t) (θ : Nat) (stamp : Int) : s.Steers d (t.obsRun d θ stamp) := by
  have loop := (h.phPred stamp).obsLoop (adiff θ ((t.phPred d stamp).1 / 4294967296)) stamp
  have lost := ((h.phAcquire.obsFirst θ stamp).setAcqN 1).phPublish
  have first := ((h.obsFirst θ stamp).setAcqN 1).phPublish
  have second := ((h.obsSecond θ stamp).setAcqRun 2 0).lockOrPublish
  have moved := ((h.setStat PHS_STAT.standstill 0).obsFirst θ stamp).setReest 1
  have again := (h.obsSecond θ stamp).setReest 0
  unfold State.obsRun
  refine .ite lost (.ite (.ite first (.ite second (loop.setRun _).lockOrPublish)) (.ite (moved.phMove θ) (.ite (again.phMove θ) (.ite ?_ (.ite loop.phRegain loop.phPublish)))))
  exact ((h.phPred stamp).count _).raise _ _

theorem obsTheta (h : s.Steers d t) (o : PhObs) (stamp : Int) : s.Steers d (t.obsTheta d o stamp).2 := by
  unfold State.obsTheta
  dsimp only
  split
  · split
    · exact h
    · split
      · exact h
      · exact h.phPred stamp
  · split <;> exact h

end State.Steers

section
variable (s : State) (d : Nat)

/-- The state in which the oldest observation of domain `d` has left the queue. -/
def State.obsPopped (r : List PhObs) : State := s.setPh d { s.ph d with queue := r }

variable {o : PhObs} {r : List PhObs}

/-- An observation that is due moves its domain alone, and leaves the queue (04 R84). -/
theorem State.obsApply_steers (hc : s.Canonical) (hq : (s.ph d).queue = o :: r) : (s.obsPopped d r).Steers d (s.obsApply d) := by
  have h0 : (s.obsPopped d r).Steers d (s.obsPopped d r) := State.Steers.refl d (s.setPh_canonical d _ hc)
  unfold State.obsApply
  dsimp only
  rw [hq]
  exact .ite (h0.sampDrop 7) (.ite (h0.sampDrop 6) (((h0.setPh _).obsTheta o _).obsRun _ _))

end

end Sys2Proof.Machine
end

section
/-! SUPPORT. What an observation makes of its domain: discarded, the first of an acquisition, in TRACK (04 R83, R85, R87). -/

namespace Sys2Proof.Machine

theorem State.ph_setF (s : State) (a : Nat) (x : Fld) (v d : Nat) : (s.setF a x v).ph d = s.ph d := rfl

theorem State.ph_raiseIf (s : State) (b : Bool) (n c i d : Nat) : (s.raiseIf b n c i).ph d = s.ph d := by
  unfold State.raiseIf
  split
  · exact s.ph_raise n c i d
  · rfl

section
variable {u : State} {d : Nat}

/-- The state of a domain that is acquiring: its published angle follows the loop (04 R86). -/
theorem State.phPublish_acquire (h : u.phState d = 1) : u.phPublish d = u.setPh d { u.ph d with hat := (u.ph d).theta / 4294967296 % 4294967296 } := if_pos h

/-- The published angle is published from the loop, which stays, and so does the domain's state. -/
theorem State.phPublish_loop (hc : u.Canonical) : ((u.phPublish d).ph d).theta = (u.ph d).theta ∧ ((u.phPublish d).ph d).omega = (u.ph d).omega ∧
    (u.phPublish d).phState d = u.phState d := by
  unfold State.phPublish
  dsimp only
  split
  · rw [u.ph_setPh d _ hc]
    exact ⟨rfl, rfl, rfl⟩
  · split
    · rw [State.ph_setF, u.ph_setPh d _ hc]
      refine ⟨rfl, rfl, ?_⟩
      exact (congrArg (fldGet · PHS_STAT.state) (reg_setF _ _ _ _ (u.setPh_canonical d _ hc).regs)).trans (fldGet_fldSet_ne _ _ _ _ (by decide) (by decide))
    · exact ⟨rfl, rfl, rfl⟩

/-- The first of two observations sets the loop to its angle. -/
theorem State.obsFirst_eq (θ : Nat) (stamp : Int) (hc : u.Canonical) : u.obsFirst d θ stamp = u.setPh d { u.ph d with
    theta := θ % 4294967296 * 4294967296, omega := 0, firstTheta := θ, prevObs := some stamp, since := u.now, upd := u.now } := by
  unfold State.obsFirst State.phNote
  dsimp only
  rw [u.ph_setPh d _ hc, u.setPh_setPh d _ _ hc]
  rfl

/-- What an acquisition makes of its first observation. -/
theorem State.acquireFirst (θ : Nat) (stamp : Int) (hc : u.Canonical) (h : u.phState d = 1) :
    let v := u.obsFirst d θ stamp
    let t := (v.setPh d { v.ph d with acqN := 1 }).phPublish d
    (t.ph d).theta = θ % 4294967296 * 4294967296 ∧ (t.ph d).omega = 0 ∧ (t.ph d).acqN = 1 ∧ (t.ph d).hat = θ % 4294967296 ∧ t.phState d = 1 := by
  dsimp only
  rw [State.obsFirst_eq θ stamp hc, u.ph_setPh d _ hc, u.setPh_setPh d _ _ hc, State.phPublish_acquire (show (u.setPh d _).phState d = 1 from h), u.setPh_setPh d _ _ hc, u.ph_setPh d _ hc, u.ph_setPh d _ hc]
  exact ⟨rfl, rfl, rfl, by dsimp only; omega, h⟩

/-- The speed of the loop is bounded by vel_max (04 R85). -/
theorem State.omegaLim_natAbs (w : Int) : (u.omegaLim d w).1.natAbs ≤ u.f (PHS_LIM.a d) PHS_LIM.vel_max * 4294967296 := by
  unfold State.omegaLim
  dsimp only
  generalize u.f (PHS_LIM.a d) PHS_LIM.vel_max * 4294967296 = m
  generalize (if u.phSrc d = 0 then _ else w) = v
  unfold clampInt
  split_ifs <;> omega

/-- A new loop angle and speed, with the observation recorded. -/
theorem State.ph_loopSet (θ : Nat) (w stamp : Int) (b : Bool) (hc : u.Canonical) :
    (((u.setPh d { u.ph d with theta := θ, omega := w }).phNote d stamp).raiseIf b 32 8 d).ph d =
      { u.ph d with theta := θ, omega := w, prevObs := some stamp, since := u.now, upd := u.now } := by
  unfold State.phNote
  dsimp only
  rw [State.ph_raiseIf, u.ph_setPh d _ hc, u.setPh_setPh d _ _ hc, u.ph_setPh d _ hc]
  rfl

/-- The α–β update: the loop moves by kp times the error, and its speed stays within vel_max (04 R85). -/
theorem State.obsLoop_facts (e stamp : Int) (hc : u.Canonical) :
    ((u.obsLoop d e stamp).ph d).theta = (((u.ph d).theta + (u.f (PHS_GAIN.a d) PHS_GAIN.kp : Int) * e * 65536) % (turn64 : Int)).toNat ∧
    ((u.obsLoop d e stamp).ph d).omega.natAbs ≤ u.f (PHS_LIM.a d) PHS_LIM.vel_max * 4294967296 := by
  unfold State.obsLoop
  dsimp only
  generalize hr : u.divOpen _ _ = r
  have hs : u.Steers d r.2 := hr ▸ (State.Steers.refl d hc).divOpen _ _
  rw [State.ph_loopSet _ _ _ _ hs.canon]
  refine ⟨rfl, (State.omegaLim_natAbs _).trans_eq ?_⟩
  have hl : PHS_LIM.a d ≠ PHS_STAT.a d ∧ PHS_LIM.a d ≠ PHS_DISC.a d ∧ PHS_LIM.a d ≠ EVT_SRC_STAT.a 32 := by
    unfold PHS_LIM.a PHS_STAT.a PHS_DISC.a EVT_SRC_STAT.a
    omega
  rw [hs.f _ _ hl.1 hl.2.1 hl.2.2]

end

end Sys2Proof.Machine
end

section
/-! SUPPORT. The oldest observation applied (04 R83 to R87). -/

namespace Sys2Proof.Machine

section
variable {u : State} {d : Nat}

/-- A discarded sample leaves its domain as it is, and is reported. -/
theorem State.sampDrop_facts (c : Nat) (hc : u.Canonical) : (u.sampDrop d c).ph d = u.ph d ∧ (u.sampDrop d c).phState d = u.phState d ∧
    fldGet ((u.sampDrop d c).reg (EVT_SRC_STAT.a 32)) EVT_SRC_STAT.pend = 1 := by
  obtain ⟨h1, h2, -⟩ := phsStat_ne d
  have hs := (State.Steers.refl d hc).count PHS_DISC.discards
  refine ⟨State.ph_raise _ _ _ _ _, ?_, pend_raise _ 32 c d hs.canon⟩
  exact congrArg (fldGet · PHS_STAT.state) ((State.reg_raise_ne _ 32 c d _ h2).trans (State.reg_setF_ne _ _ _ _ _ h1))

/-! What an observation does, by the state of its domain. -/

section
variable (θ : Nat) (stamp : Int)

theorem State.obsRun_lost (h : u.phState d = 4) : u.obsRun d θ stamp =
    let v := (u.phAcquire d).obsFirst d θ stamp
    (v.setPh d { v.ph d with acqN := 1 }).phPublish d := if_pos h

theorem State.obsRun_first (h : u.phState d = 1) (h0 : (u.ph d).acqN = 0) : u.obsRun d θ stamp =
    let v := u.obsFirst d θ stamp
    (v.setPh d { v.ph d with acqN := 1 }).phPublish d := (if_neg (by omega)).trans ((if_pos h).trans (if_pos h0))

/-- In TRACK an observation whose error `e` exceeds e_max is an outlier, and another updates the loop (04 R85). -/
theorem State.obsRun_track (h : u.phState d = 2) (hst : u.on (PHS_STAT.a d) PHS_STAT.standstill = false) (hre : (u.ph d).reest ≠ 1) :
    u.obsRun d θ stamp =
      let p := u.phPred d stamp
      let e := adiff θ (p.1 / 4294967296)
      if min 0x4000 (u.f (PHS_LIM.a d) PHS_LIM.e_max) * 65536 < e.natAbs then (p.2.bump (PHS_DISC.a d) PHS_DISC.outliers).raise 32 4 d
      else (p.2.obsLoop d e stamp).phPublish d := by
  have hmin : min 0x4000 (u.f (PHS_LIM.a d) PHS_LIM.e_max) = if 0x4000 < u.f (PHS_LIM.a d) PHS_LIM.e_max then 0x4000 else u.f (PHS_LIM.a d) PHS_LIM.e_max := by
    split <;> omega
  dsimp only
  rw [hmin]
  unfold State.obsRun
  dsimp only
  rw [if_neg (by omega), if_neg (by omega), if_neg (Bool.eq_false_iff.1 hst), if_neg hre]
  simp only [h, if_neg (show ¬(2 = 3) by omega)]

/-- The same, with the two outcomes of the open quotient (log entry 12). -/
theorem State.obsRun_track_facts (hc : u.Canonical) (h : u.phState d = 2) (hst : u.on (PHS_STAT.a d) PHS_STAT.standstill = false) (hre : (u.ph d).reest ≠ 1) :
    let t := u.obsRun d θ stamp
    let q := (u.ph d).omega * (((u.now * 17179869184 : Nat) : Int) - stamp) / (17179869184 : Nat)
    let em := min 0x4000 (u.f (PHS_LIM.a d) PHS_LIM.e_max) * 65536
    ∃ b : Int, (b = q ∨ b = q + 1) ∧
      let e := adiff θ (((((u.ph d).theta : Int) - b) % (18446744073709551616 : Int)).toNat / 4294967296)
      (em < e.natAbs → (t.ph d).theta = (u.ph d).theta ∧ (t.ph d).omega = (u.ph d).omega ∧ fldGet (t.reg (EVT_SRC_STAT.a 32)) EVT_SRC_STAT.pend = 1) ∧
      (e.natAbs ≤ em → ((t.ph d).theta : Int) = (((u.ph d).theta : Int) + (u.f (PHS_GAIN.a d) PHS_GAIN.kp : Int) * e * 65536) % (18446744073709551616 : Int) ∧
        (t.ph d).omega.natAbs ≤ u.f (PHS_LIM.a d) PHS_LIM.vel_max * 4294967296) := by
  dsimp only
  rw [State.obsRun_track θ stamp h hst hre]
  unfold State.phPred
  dsimp only
  obtain ⟨⟨k, hk⟩, hq⟩ := phase_divOpen_cases u ((u.ph d).omega * (((u.now * tickU : Nat) : Int) - stamp)) tickU
  generalize u.divOpen _ _ = r at hk hq ⊢
  have hs : u.Steers d r.2 := hk ▸ (State.Steers.refl d hc).freeIdx k
  have hx : r.2.ph d = u.ph d := by rw [hk]; rfl
  have hf : ∀ a f, r.2.f a f = u.f a f := fun a f => by rw [hk]; rfl
  have hturn : (turn64 : Int) = 18446744073709551616 := rfl
  obtain ⟨lθ, lw⟩ := State.obsLoop_facts (d := d) (adiff θ ((((u.ph d).theta - r.1) % (turn64 : Int)).toNat / 4294967296)) stamp hs.canon
  obtain ⟨pθ, pw, -⟩ := State.phPublish_loop (hs.obsLoop (adiff θ ((((u.ph d).theta - r.1) % (turn64 : Int)).toNat / 4294967296)) stamp).canon
  rw [hturn] at lθ lw pθ pw ⊢
  refine ⟨r.1, hq, ?_⟩
  generalize adiff θ _ = e at lθ lw pθ pw ⊢
  refine ⟨fun hlt => ?_, fun hle => ?_⟩
  · rw [if_pos hlt, State.ph_raise]
    exact ⟨congrArg PhSt.theta hx, congrArg PhSt.omega hx, pend_raise _ 32 4 d (hs.count _).canon⟩
  · rw [if_neg (Nat.not_lt.2 hle), pθ, pw, lθ, hx, hf]
    rw [hf] at lw
    exact ⟨Int.toNat_of_nonneg (Int.emod_nonneg _ (by decide)), lw⟩

end

end

end Sys2Proof.Machine
end

section
/-! SUPPORT. The observation that is due, silence, and the loss of a domain (04 R83 to R88, R92; 06 R142). -/

namespace Sys2Proof.Machine

section
variable {s : State} {d : Nat} {o : PhObs} {r : List PhObs}

/-- The state in which domain `d` takes the count observation at the head of its queue. -/
def State.obsTaken (s : State) (d : Nat) (r : List PhObs) : State := s.setPh d { s.ph d with queue := r, lastApply := some s.now }

/-- A sample that is faulty, or whose capture time is none, is discarded. -/
theorem State.obsApply_dropped (hq : (s.ph d).queue = o :: r) (hk : o.kind = 2) (hbad : o.fault = true ∨ o.capBad = true) :
    ∃ c, s.obsApply d = (s.obsPopped d r).sampDrop d c := by
  unfold State.obsApply
  dsimp only
  rw [hq]
  dsimp only
  by_cases hf : o.fault = true
  · exact ⟨7, if_pos ⟨hk, hf⟩⟩
  · exact ⟨6, (if_neg fun q => hf q.2).trans (if_pos ⟨hk, .inl (hbad.resolve_left hf)⟩)⟩

/-- A count observation reaches the estimator. -/
theorem State.obsApply_count (hc : s.Canonical) (hq : (s.ph d).queue = o :: r) (hk : o.kind = 1) : s.obsApply d = (s.obsTaken d r).obsRun d o.theta o.stamp := by
  have h2 : ¬(o.kind = 2) := by omega
  have h0 : ¬(o.kind = 0) := by omega
  unfold State.obsApply
  dsimp only
  rw [hq]
  dsimp only
  rw [if_neg (fun q => h2 q.1), if_neg (fun q => h2 q.1), if_neg h2, if_neg h2, s.ph_setPh d _ hc, s.setPh_setPh d _ _ hc]
  unfold State.obsTheta
  dsimp only
  rw [if_neg h0, if_pos hk]
  rfl

end

/-! ### The loss of a domain, and the cancel of its angle entries -/

section
variable {s v : State} {d : Fin 4}

/-- The cancel of the entries of a domain, after what moved that domain alone. -/
theorem State.Steers.cancelled (h : s.Steers d.val v) (hf : v.freeIdx = s.freeIdx) : let t := v.cancelAngle d.val
    s.Cancelled t d.val ∧ (∀ e, t.ph e = v.ph e) ∧ (∀ e : Fin 4, t.phState e.val = v.phState e.val) ∧ t.reg (EVT_SRC_STAT.a 32) = v.reg (EVT_SRC_STAT.a 32) ∧
    t = { s with regs := t.regs, evt := t.evt, out := t.out, phs := t.phs, seq := t.seq, pcie := { s.pcie with pba := t.pcie.pba } } := by
  obtain ⟨hcan, hsame, hreg⟩ := v.cancelAngle_spec d.val h.canon
  have hph := fun e => v.cancelAngle_ph d.val e h.canon
  have hst := fun e => v.cancelAngle_phState d.val e h.canon
  have hv := h.same
  rw [hf] at hv
  dsimp only
  generalize v.cancelAngle d.val = t at hcan hsame hreg hph hst ⊢
  refine ⟨fun n hn => ?_, hph, hst, hreg _ fun n hn => ?_, ?_⟩
  · have hsq : v.sq n = s.sq n := by rw [hv]; rfl
    rw [hcan n hn, hsq]
  · unfold EVT_SRC_STAT.a SEQ_QSTAT.a SEQ_QCNT_B.a
    omega
  · rw [hsame, hv]

/-- What the loss of a domain leaves (04 R87, 06 R142). -/
theorem State.phLose_facts (hc : s.Canonical) : let t := s.phLose d.val
    t.phState d.val = 4 ∧ t.ph d.val = { s.ph d.val with hadLoss := true, acqN := 0, prevObs := none, reest := 0, hatPrev := (s.ph d.val).hat } ∧
    fldGet (t.reg (EVT_SRC_STAT.a 32)) EVT_SRC_STAT.pend = 1 ∧ s.Cancelled t d.val ∧ (∀ e, e ≠ d.val → t.ph e = s.ph e) ∧
    t = { s with regs := t.regs, evt := t.evt, out := t.out, phs := t.phs, seq := t.seq, pcie := { s.pcie with pba := t.pcie.pba } } := by
  have hst := (phase_lose s d hc).1
  dsimp only at hst ⊢
  unfold State.phLose at hst ⊢
  dsimp only at hst ⊢
  generalize hx : ({ s.ph d.val with hadLoss := true, acqN := 0, prevObs := none, reest := 0, hatPrev := (s.ph d.val).hat } : PhSt) = x at hst ⊢
  have hs := ((State.Steers.refl d.val hc).setPh x (by rw [← hx])).setStats [(PHS_STAT.state, 4), (PHS_STAT.standstill, 0)]
  have hphx : ((s.setPh d.val x).setFs (PHS_STAT.a d.val) [(PHS_STAT.state, 4), (PHS_STAT.standstill, 0)]).ph d.val = x := s.ph_setPh d.val x hc
  have hfree : ((s.setPh d.val x).setFs (PHS_STAT.a d.val) [(PHS_STAT.state, 4), (PHS_STAT.standstill, 0)]).freeIdx = s.freeIdx := rfl
  generalize (s.setPh d.val x).setFs (PHS_STAT.a d.val) [(PHS_STAT.state, 4), (PHS_STAT.standstill, 0)] = v at hs hphx hfree hst ⊢
  obtain ⟨hcan, hph, -, hevt, hsame⟩ := (hs.raise 1 d.val).cancelled ((State.raise_freeIdx _ _ _ _).trans hfree)
  refine ⟨hst, ?_, ?_, hcan, fun e he => (hph e).trans ((hs.raise 1 d.val).others e he), hsame⟩
  · rw [hph, State.ph_raise, hphx]
  · rw [hevt]
    exact pend_raise v 32 1 d.val hs.canon

/-- What a restart leaves (04 R87, 06 R142). -/
theorem State.phRestart_facts (hc : s.Canonical) (h : s.phState d.val ≠ 0) : let t := s.phRestart d.val
    t.phState d.val = 1 ∧ (t.ph d.val).theta = 0 ∧ (t.ph d.val).omega = 0 ∧ (t.ph d.val).acqN = 0 ∧ s.Cancelled t d.val ∧ (∀ e, e ≠ d.val → t.ph e = s.ph e) ∧
    t = { s with regs := t.regs, evt := t.evt, out := t.out, phs := t.phs, seq := t.seq, pcie := { s.pcie with pba := t.pcie.pba } } := by
  have hr : s.phRestart d.val = (s.phAcquire d.val).cancelAngle d.val := if_neg h
  have hs := (State.Steers.refl d.val hc).phAcquire
  obtain ⟨hst, hθ, hw, hn, -⟩ := phase_acq s d.val hc
  obtain ⟨hcan, hph, hst', -, hsame⟩ := hs.cancelled rfl
  dsimp only
  rw [hr]
  refine ⟨(hst' d).trans hst, ?_, ?_, ?_, hcan, fun e he => (hph e).trans (hs.others e he), hsame⟩
  · rw [hph, hθ]
  · rw [hph, hw]
  · rw [hph, hn]

end

end Sys2Proof.Machine
end

section
/-! SUPPORT. PHS_CFG written: a domain enabled and disabled (04 R79, R87). -/

namespace Sys2Proof.Machine

/-- The row of PHS_CFG in the register map. -/
def phsCfgRow : RegRow := { base := 3145728, s1 := 64, n1 := 4, reset := 0x08000314#32, rw := 0xffc0ffff#32, par := 0xffc0ffff#32, cut := 0xbd410111#32 }

theorem rwMask_phsCfg (s : State) (a : Nat) : s.rwMask phsCfgRow a = 0xffc0ffff#32 := (s.rwMask_plain _ a (by decide)).trans (by decide)

section
variable (s : State) (i : Nat) (d : Fin 4) (v : Word)

/-- A field of PHS_CFG that a write has stored. -/
theorem State.f_phsCfg (x : Fld) (hc : s.Canonical) (h1 : 22 ≤ x.lo) (h2 : x.hi < 32) : (s.committed phsCfgRow i (PHS_CFG.a d.val) v).f (PHS_CFG.a d.val) x = fldGet v x := by
  refine s.f_committed phsCfgRow i _ v x hc (by unfold PHS_CFG.a EVT_SRC_STAT.a; omega) h2 fun k hk1 hk2 => ?_
  have stored : ∀ k, k < 32 → 22 ≤ k → (0xffc0ffff#32 : Word).getLsbD k = true ∧ (clearMask phsCfgRow).getLsbD k = false := by decide
  rw [rwMask_phsCfg]
  exact stored k (by omega) (by omega)

/-- PHS_CFG after a write (02 R25). -/
theorem State.reg_phsCfg (hc : s.Canonical) : (s.committed phsCfgRow i (PHS_CFG.a d.val) v).reg (PHS_CFG.a d.val) =
    (s.reg (PHS_CFG.a d.val) &&& 0x3f0000#32) ||| (v &&& 0xffc0ffff#32) := by
  have hclear : clearMask phsCfgRow = 0#32 := by decide
  have hkeep : ~~~(0xffc0ffff#32 : Word) = 0x3f0000#32 := by decide
  rw [s.reg_committed phsCfgRow i _ v hc (by unfold PHS_CFG.a EVT_SRC_STAT.a; omega)]
  unfold State.newVal
  dsimp only
  rw [rwMask_phsCfg, hclear, hkeep, BitVec.and_zero, BitVec.not_zero, BitVec.and_allOnes]

/-- The write of PHS_CFG: the word, and the domain's change of state. -/
theorem exec_phaseEnableWrite (i : Fin 3) (hc : s.Canonical) (hm : s.May i.val (PHS_CFG.a d.val)) : exec (.phaseEnableWrite i d v) s =
    .next ((s.committed phsCfgRow i.val (PHS_CFG.a d.val) v).phCfgChanged d.val (s.hw (PHS_CFG.a d.val))) :=
  congrArg _ (phase_enable s i.val d v phsCfgRow hc (kindOf_PHS_CFG d) hm)

/-- The write leaves the registers of the domains and the audited rest. -/
theorem State.reg_phsCfg_ne (a : Nat) (h : a ≠ PHS_CFG.a d.val) (h60 : a ≠ EVT_SRC_STAT.a 60) : (s.committed phsCfgRow i (PHS_CFG.a d.val) v).reg a = s.reg a :=
  phase_reg_comm s phsCfgRow i _ a v h h60

theorem State.phState_phsCfg (e : Nat) (he : e < 4) : (s.committed phsCfgRow i (PHS_CFG.a d.val) v).phState e = s.phState e := by
  unfold State.phState
  rw [s.reg_phsCfg_ne i d v _ (by unfold PHS_STAT.a PHS_CFG.a; omega) (by unfold PHS_STAT.a EVT_SRC_STAT.a; omega)]

end

section
variable {u : State} {d : Fin 4}

theorem State.ph_phAcquire (hc : u.Canonical) : (u.phAcquire d.val).ph d.val = { u.ph d.val with
    theta := 0, omega := 0, prevObs := none, acqN := 0, firstTheta := 0, run := 0, reest := 0, since := u.now, hat := 0, hatPrev := 0 } := u.ph_setPh d.val _ hc

variable (u d) in
/-- What an enabled domain starts from: the count at the offset, and the levels of its pins (04 R79, R81). -/
def State.phFresh : PhSt where
  count := u.f (PHS_OFFSET.a d.val) PHS_OFFSET.offset
  levA := u.lev (u.f (PHS_CFG.a d.val) PHS_CFG.pin_sel) 0
  levB := u.lev (u.f (PHS_CFG.a d.val) PHS_CFG.pin_sel) 1

/-- A domain enters ACQUIRE with a cleared loop (04 R87). -/
theorem State.phEnable_facts (hc : u.Canonical) : let t := u.phEnable d.val
    t.phState d.val = 1 ∧ t.ph d.val = { u.phFresh d with since := u.now } ∧ t = { u with regs := t.regs, phs := t.phs } ∧ (∀ e, e ≠ d.val → t.ph e = u.ph e) ∧
    ∀ a, a ≠ PHS_STAT.a d.val → t.reg a = u.reg a := by
  have he : u.phEnable d.val = (u.setPh d.val (u.phFresh d)).phAcquire d.val := by
    unfold State.phEnable State.phPins
    dsimp only
    rw [u.ph_setPh d.val _ hc, u.setPh_setPh d.val _ _ hc]
    rfl
  have hv := u.setPh_canonical d.val (u.phFresh d) hc
  dsimp only
  rw [he]
  refine ⟨(phase_acq _ d.val hv).1, ?_, rfl, fun e he => ?_, fun a ha => State.reg_setFs_ne _ _ _ _ ha⟩
  · rw [State.ph_phAcquire hv, u.ph_setPh d.val _ hc]
    rfl
  · exact (((State.Steers.refl d.val hv).phAcquire).others e he).trans (u.ph_setPh_ne d.val e _ he)

/-- A domain enters OFF: its angle stays, and its angle entries are cancelled (04 R87, 06 R142). -/
theorem State.phDisable_facts (hc : u.Canonical) : let t := u.phDisable d.val
    t.phState d.val = 0 ∧ t.ph d.val = { hat := (u.ph d.val).hat, hatPrev := (u.ph d.val).hat, rev := (u.ph d.val).rev } ∧ u.Cancelled t d.val ∧
    (∀ e, e ≠ d.val → t.ph e = u.ph e) ∧
    t = { u with regs := t.regs, evt := t.evt, out := t.out, phs := t.phs, seq := t.seq, pcie := { u.pcie with pba := t.pcie.pba } } := by
  dsimp only
  unfold State.phDisable
  dsimp only
  generalize ({ hat := (u.ph d.val).hat, hatPrev := (u.ph d.val).hat, rev := (u.ph d.val).rev } : PhSt) = x
  have hv := u.setPh_canonical d.val x hc
  have hs := (State.Steers.refl d.val hv).setStats [(PHS_STAT.state, 0), (PHS_STAT.standstill, 0), (PHS_STAT.z_seen, 0), (PHS_STAT.dir, 0)]
  obtain ⟨hcan, hph, hst, -, hsame⟩ := hs.cancelled rfl
  refine ⟨(hst d).trans ?_, (hph d.val).trans (u.ph_setPh d.val x hc), hcan, fun e he => ?_, hsame⟩
  · refine (congrArg (fldGet · PHS_STAT.state) (reg_setFs _ _ _ hv.regs)).trans ?_
    simp only [List.foldl]
    rw [fldGet_fldSet_ne _ _ _ _ (by decide) (by decide), fldGet_fldSet_ne _ _ _ _ (by decide) (by decide), fldGet_fldSet_ne _ _ _ _ (by decide) (by decide),
      fldGet_fldSet _ _ _ (by decide)]
    rfl
  · exact ((hph e).trans (hs.others e he)).trans (u.ph_setPh_ne d.val e x he)

end

section
variable (s : State) (i : Nat) (d : Fin 4) (v : Word) (hc : s.Canonical)
include hc

/-- A write that enables a domain in OFF (04 R87). -/
theorem State.phsCfg_enables (he : fldGet v PHS_CFG.enable = 1) (hs : fldGet v PHS_CFG.src ≠ 3) (h0 : s.phState d.val = 0) (old : Word) :
    let u := s.committed phsCfgRow i (PHS_CFG.a d.val) v
    u.phCfgChanged d.val old = u.phEnable d.val := by
  have hon : (s.committed phsCfgRow i (PHS_CFG.a d.val) v).phOn d.val = true := by
    unfold State.phOn State.on
    rw [s.f_phsCfg i d v _ hc (by decide) (by decide), s.f_phsCfg i d v _ hc (by decide) (by decide), he]
    simpa using hs
  exact (if_pos hon).trans (if_pos ((s.phState_phsCfg i d v d.val d.isLt).trans h0))

/-- A write that disables a domain (04 R87). -/
theorem State.phsCfg_disables (he : fldGet v PHS_CFG.enable = 0 ∨ fldGet v PHS_CFG.src = 3) (h0 : s.phState d.val ≠ 0) (old : Word) :
    let u := s.committed phsCfgRow i (PHS_CFG.a d.val) v
    u.phCfgChanged d.val old = u.phDisable d.val := by
  have hoff : ¬(s.committed phsCfgRow i (PHS_CFG.a d.val) v).phOn d.val = true := by
    unfold State.phOn State.on
    rw [s.f_phsCfg i d v _ hc (by decide) (by decide), s.f_phsCfg i d v _ hc (by decide) (by decide)]
    rcases he with h | h <;> simp [h]
  exact (if_neg hoff).trans (if_neg (by rw [s.phState_phsCfg i d v d.val d.isLt]; exact h0))

/-- What the write that enables a domain leaves. -/
theorem State.phsCfg_enabled : let u := s.committed phsCfgRow i (PHS_CFG.a d.val) v
    let t := u.phEnable d.val
    t.phState d.val = 1 ∧ (t.ph d.val).theta = 0 ∧ (t.ph d.val).omega = 0 ∧ (t.ph d.val).acqN = 0 ∧ (t.ph d.val).queue = [] ∧
    (t.ph d.val).count = s.f (PHS_OFFSET.a d.val) PHS_OFFSET.offset ∧
    (t.ph d.val).levA = s.lev (fldGet v PHS_CFG.pin_sel) 0 ∧ (t.ph d.val).levB = s.lev (fldGet v PHS_CFG.pin_sel) 1 ∧
    t.reg (PHS_CFG.a d.val) = (s.reg (PHS_CFG.a d.val) &&& 0x3f0000#32) ||| (v &&& 0xffc0ffff#32) ∧
    t = { s with regs := t.regs, par := t.par, aud := t.aud, evt := t.evt, out := t.out, phs := t.phs, pcie := { s.pcie with pba := t.pcie.pba } } ∧
    (∀ e, e ≠ d.val → t.ph e = s.ph e) ∧
    ∀ a, a ≠ PHS_CFG.a d.val → a ≠ PHS_STAT.a d.val → a ≠ EVT_SRC_STAT.a 60 → t.reg a = s.reg a := by
  have hrest := phase_commRest s phsCfgRow i (PHS_CFG.a d.val) v
  have hoff := s.f_committed_ne phsCfgRow i (PHS_CFG.a d.val) v (PHS_OFFSET.a d.val) PHS_OFFSET.offset (by unfold PHS_OFFSET.a PHS_CFG.a; omega)
    (by unfold PHS_OFFSET.a EVT_SRC_STAT.a; omega)
  have hpin := s.f_phsCfg i d v PHS_CFG.pin_sel hc (by decide) (by decide)
  have hcfg := s.reg_phsCfg i d v hc
  have hreg := s.reg_phsCfg_ne i d v
  obtain ⟨hst, hx, hsame, hothers, hregs⟩ := State.phEnable_facts (d := d) (phase_commCanon s phsCfgRow i (PHS_CFG.a d.val) v hc)
  dsimp only at hrest ⊢
  generalize s.committed phsCfgRow i (PHS_CFG.a d.val) v = u at hrest hoff hpin hcfg hreg hst hx hsame hothers hregs ⊢
  have hph : ∀ e, u.ph e = s.ph e := fun e => by rw [hrest]; rfl
  have hlev : ∀ p k, u.lev p k = s.lev p k := fun p k => by rw [hrest]; rfl
  have hne : PHS_CFG.a d.val ≠ PHS_STAT.a d.val := by unfold PHS_CFG.a PHS_STAT.a; omega
  generalize u.phEnable d.val = t at hst hx hsame hothers hregs ⊢
  unfold State.phFresh at hx
  rw [hx, hoff, hpin, hlev, hlev]
  exact ⟨hst, rfl, rfl, rfl, rfl, rfl, rfl, rfl, (hregs _ hne).trans hcfg, by rw [hsame, hrest], fun e he => (hothers e he).trans (hph e),
    fun a h1 h2 h3 => (hregs a h2).trans (hreg a h1 h3)⟩

/-- What the write that disables a domain leaves. -/
theorem State.phsCfg_disabled : let u := s.committed phsCfgRow i (PHS_CFG.a d.val) v
    let t := u.phDisable d.val
    t.phState d.val = 0 ∧ t.ph d.val = { hat := (s.ph d.val).hat, hatPrev := (s.ph d.val).hat, rev := (s.ph d.val).rev } ∧ s.Cancelled t d.val ∧
    (∀ e, e ≠ d.val → t.ph e = s.ph e) ∧
    t = { s with regs := t.regs, par := t.par, aud := t.aud, evt := t.evt, out := t.out, phs := t.phs, seq := t.seq, pcie := { s.pcie with pba := t.pcie.pba } } := by
  have hrest := phase_commRest s phsCfgRow i (PHS_CFG.a d.val) v
  obtain ⟨hst, hx, hcan, hothers, hsame⟩ := State.phDisable_facts (d := d) (phase_commCanon s phsCfgRow i (PHS_CFG.a d.val) v hc)
  dsimp only at hrest ⊢
  generalize s.committed phsCfgRow i (PHS_CFG.a d.val) v = u at hrest hst hx hcan hothers hsame ⊢
  have hph : ∀ e, u.ph e = s.ph e := fun e => by rw [hrest]; rfl
  have hsq : ∀ n, u.sq n = s.sq n := fun n => by rw [hrest]; rfl
  generalize u.phDisable d.val = t at hst hx hcan hothers hsame ⊢
  rw [hph] at hx
  exact ⟨hst, hx, fun n hn => by rw [hcan n hn, hsq], fun e he => (hothers e he).trans (hph e), by rw [hsame, hrest]⟩

end

end Sys2Proof.Machine
end

section
/-! SUPPORT. The commands at PHS_CTRL, and the end of obs_timeout and hold_time (04 R87, R88, R92). -/

namespace Sys2Proof.Machine

section
variable {s : State} {d : Fin 4}

theorem State.setPh_self (hc : s.Canonical) : s.setPh d.val (s.ph d.val) = s := by
  unfold State.setPh State.ph
  rw [Cells.set_get hc.phs]

variable (s d) in
/-- The queue that a declare_lost leaves: without the observation that is due (04 R92). -/
def State.obsKept : List PhObs := if s.obsDue d.val then (s.ph d.val).queue.drop 1 else (s.ph d.val).queue

/-- The state in which a declare_lost has discarded what is due. -/
theorem State.obsKept_popped (hc : s.Canonical) : s.obsPopped d.val (s.obsKept d) =
    if s.obsDue d.val then s.setPh d.val { s.ph d.val with queue := (s.ph d.val).queue.drop 1 } else s := by
  unfold State.obsPopped State.obsKept
  split
  · rfl
  · exact State.setPh_self hc

/-- What a declare_lost leaves of a domain that runs (04 R87, R92). -/
theorem State.phDeclareLost_facts (hc : s.Canonical) (h0 : s.phState d.val ≠ 0) (h4 : s.phState d.val ≠ 4) : let t := s.phDeclareLost d.val
    t.phState d.val = 4 ∧ (t.ph d.val).hat = (s.ph d.val).hat ∧ (t.ph d.val).hadLoss = true ∧ fldGet (t.reg (EVT_SRC_STAT.a 32)) EVT_SRC_STAT.pend = 1 ∧
    s.Cancelled t d.val ∧ (∀ e, e ≠ d.val → t.ph e = s.ph e) ∧ (t.ph d.val).queue = s.obsKept d ∧
    t = { s with regs := t.regs, evt := t.evt, out := t.out, phs := t.phs, seq := t.seq, pcie := { s.pcie with pba := t.pcie.pba } } := by
  have he : s.phDeclareLost d.val = (s.obsPopped d.val (s.obsKept d)).phLose d.val := by
    rw [State.obsKept_popped hc]
    exact (if_neg h0).trans (if_neg h4)
  have hx : (s.obsPopped d.val (s.obsKept d)).ph d.val = { s.ph d.val with queue := s.obsKept d } := s.ph_setPh d.val _ hc
  obtain ⟨hst, hph, hpend, hcan, hothers, hsame⟩ := State.phLose_facts (d := d) (s.setPh_canonical d.val { s.ph d.val with queue := s.obsKept d } hc)
  dsimp only
  rw [he]
  rw [show s.setPh d.val { s.ph d.val with queue := s.obsKept d } = s.obsPopped d.val (s.obsKept d) from rfl] at *
  rw [hx] at hph
  refine ⟨hst, ?_, ?_, hpend, hcan, fun e he => (hothers e he).trans (s.ph_setPh_ne d.val e _ he), ?_, hsame⟩
  · rw [hph]
  · rw [hph]
  · rw [hph]

/-- A declare_lost in LOST only discards. -/
theorem State.phDeclareLost_lost (h4 : s.phState d.val = 4) : s.phDeclareLost d.val =
    if s.obsDue d.val then s.setPh d.val { s.ph d.val with queue := (s.ph d.val).queue.drop 1 } else s := (if_neg (by omega)).trans (if_pos h4)

theorem exec_phaseRestart (i : Fin 3) (hc : s.Canonical) (hm : s.May i.val (PHS_CTRL.a d.val)) : exec (.phaseRestart i d) s = .next (s.phRestart d.val) := by
  refine (next_live s _ hm.powered).trans (congrArg _ ?_)
  rw [s.poke_PHS_CTRL i.val d _ hc hm]
  exact (if_neg (by decide)).trans (if_pos (by decide))

theorem exec_phaseDeclareLost (i : Fin 3) (hc : s.Canonical) (hm : s.May i.val (PHS_CTRL.a d.val)) : exec (.phaseDeclareLost i d) s = .next (s.phDeclareLost d.val) := by
  refine (next_live s _ hm.powered).trans (congrArg _ ?_)
  rw [s.poke_PHS_CTRL i.val d _ hc hm]
  exact if_pos (by decide)

/-! ### Silence (04 R87, R88) -/

/-- Silence in ACQUIRE starts the acquisition again. -/
theorem State.obsTimeout_acquire (h : s.obsSilent d.val = true) (h1 : s.phState d.val = 1) : s.obsTimeout d.val = s.phAcquire d.val := (if_pos h).trans (if_pos h1)

/-- Silence in TRACK of a source that gives its observations in any case: HOLD. -/
theorem State.obsTimeout_hold (h : s.obsSilent d.val = true) (h2 : s.phState d.val = 2) (hs : s.phSrc d.val ≠ 1) :
    s.obsTimeout d.val = ((s.setPh d.val { s.ph d.val with holdSince := s.now }).setF (PHS_STAT.a d.val) PHS_STAT.state 3).raise 32 3 d.val :=
  (if_pos h).trans ((if_neg (by omega)).trans ((if_pos h2).trans (if_neg hs)))

/-- Silence of a quadrature source in TRACK: a standstill at the angle of the count. -/
theorem State.obsTimeout_stand (h : s.obsSilent d.val = true) (h2 : s.phState d.val = 2) (hs : s.phSrc d.val = 1) (hm : s.on (PHS_STAT.a d.val) PHS_STAT.standstill = false) :
    s.obsTimeout d.val = (s.setPh d.val { (s.ph d.val).stand (s.phM d.val) (s.ph d.val).count with omega := 0, theta := (s.ph d.val).count * 4294967296 }).setF (PHS_STAT.a d.val)
      PHS_STAT.standstill 1 :=
  (if_pos h).trans ((if_neg (by omega)).trans ((if_pos h2).trans ((if_pos hs).trans (if_neg (Bool.eq_false_iff.1 hm)))))

/-- What the end of observations in TRACK leaves. -/
theorem State.obsTimeout_hold_facts (hc : s.Canonical) (h : s.obsSilent d.val = true) (h2 : s.phState d.val = 2) (hs : s.phSrc d.val ≠ 1) : let t := s.obsTimeout d.val
    t.phState d.val = 3 ∧ t.ph d.val = { s.ph d.val with holdSince := s.now } ∧ fldGet (t.reg (EVT_SRC_STAT.a 32)) EVT_SRC_STAT.pend = 1 ∧
    t = { s with regs := t.regs, evt := t.evt, out := t.out, phs := t.phs, pcie := { s.pcie with pba := t.pcie.pba } } ∧
    ∀ a, a ≠ PHS_STAT.a d.val → a ≠ EVT_SRC_STAT.a 32 → t.reg a = s.reg a := by
  have hst := ((State.Steers.refl d.val hc).setPh { s.ph d.val with holdSince := s.now }).setStat PHS_STAT.state 3
  have hsame := (hst.raise 3 d.val).same
  rw [State.raise_freeIdx] at hsame
  dsimp only
  rw [State.obsTimeout_hold h h2 hs]
  refine ⟨?_, (State.ph_raise _ _ _ _ _).trans (s.ph_setPh d.val _ hc), pend_raise _ 32 3 d.val hst.canon, hsame,
    fun a h1 h2 => (State.reg_raise_ne _ 32 3 d.val a h2).trans (State.reg_setF_ne _ _ _ _ _ h1)⟩
  refine (congrArg (fldGet · PHS_STAT.state) ((State.reg_raise_ne _ 32 3 d.val _ (phsStat_ne d.val).2.1).trans (reg_setF _ _ _ _ (s.setPh_canonical d.val _ hc).regs))).trans ?_
  exact fldGet_fldSet _ _ _ (by decide)

/-- What a standstill leaves. -/
theorem State.obsTimeout_stand_facts (hc : s.Canonical) (h : s.obsSilent d.val = true) (h2 : s.phState d.val = 2) (hs : s.phSrc d.val = 1)
    (hm : s.on (PHS_STAT.a d.val) PHS_STAT.standstill = false) : let t := s.obsTimeout d.val
    t.phState d.val = 2 ∧ (t.ph d.val).omega = 0 ∧ (t.ph d.val).theta = (s.ph d.val).count * 4294967296 ∧ (t.ph d.val).hat = (s.ph d.val).count ∧
    fldGet (t.reg (PHS_STAT.a d.val)) PHS_STAT.standstill = 1 := by
  dsimp only
  rw [State.obsTimeout_stand h h2 hs hm]
  unfold State.phState
  rw [State.ph_setF, s.ph_setPh d.val _ hc, reg_setF _ _ _ _ (s.setPh_canonical d.val _ hc).regs]
  exact ⟨(fldGet_fldSet_ne _ _ _ _ (by decide) (by decide)).trans h2, rfl, rfl, rfl, fldGet_fldSet _ _ _ (by decide)⟩

/-! ### The end of HOLD (04 R87, R92) -/

/-- hold_time is over, and no observation that is accepted on this tick wins. -/
theorem State.holdExpiry_lost (h3 : s.phState d.val = 3) (ht : (s.ph d.val).holdSince + 250000 * s.f (PHS_TIMING.a d.val) PHS_TIMING.hold_time ≤ s.now) (h : s.obsDue d.val = false) :
    s.holdExpiry d.val = s.phLose d.val :=
  (if_pos ⟨h3, by unfold msTicks; omega⟩).trans (if_neg (by rw [h]; simp))

theorem State.holdExpiry_won (h : s.obsDue d.val = true) (h2 : (s.obsApply d.val).phState d.val = 2) : s.holdExpiry d.val = s := by
  unfold State.holdExpiry
  split
  · exact if_pos ⟨h, h2⟩
  · rfl

theorem State.holdExpiry_early (ht : s.now < (s.ph d.val).holdSince + 250000 * s.f (PHS_TIMING.a d.val) PHS_TIMING.hold_time) : s.holdExpiry d.val = s :=
  if_neg fun q => by have := q.2; unfold msTicks at this; omega

end

section
variable (s : State) (d : Fin 4) (hc : s.Canonical)
include hc

/-- What OBSERVATION_APPLY leaves of a domain whose oldest observation is due (04 R83 to R87). -/
theorem State.obsApply_facts (o : PhObs) (r : List PhObs) (hq : (s.ph d.val).queue = o :: r) : let t := s.obsApply d.val
    (t.ph d.val).queue = r ∧ (∀ e, e ≠ d.val → t.ph e = s.ph e) ∧
    t = { s with regs := t.regs, evt := t.evt, out := t.out, phs := t.phs, freeIdx := t.freeIdx, pcie := { s.pcie with pba := t.pcie.pba } } ∧
    ∀ a, a ≠ PHS_STAT.a d.val → a ≠ PHS_DISC.a d.val → a ≠ EVT_SRC_STAT.a 32 → t.reg a = s.reg a := by
  have hs := s.obsApply_steers d.val hc hq
  exact ⟨hs.queue.trans (congrArg PhSt.queue (s.ph_setPh d.val _ hc)), fun e he => (hs.others e he).trans (s.ph_setPh_ne d.val e _ he), hs.same, hs.regs⟩

variable {s d}

theorem State.obsApply_dropped_facts {o : PhObs} {r : List PhObs} (hq : (s.ph d.val).queue = o :: r) (hk : o.kind = 2) (hbad : o.fault = true ∨ o.capBad = true) :
    let t := s.obsApply d.val
    (t.ph d.val).theta = (s.ph d.val).theta ∧ (t.ph d.val).omega = (s.ph d.val).omega ∧ t.phState d.val = s.phState d.val ∧
    fldGet (t.reg (EVT_SRC_STAT.a 32)) EVT_SRC_STAT.pend = 1 := by
  obtain ⟨c, he⟩ := State.obsApply_dropped hq hk hbad
  obtain ⟨hx, hst, hpend⟩ := State.sampDrop_facts (d := d.val) c (s.setPh_canonical d.val { s.ph d.val with queue := r } hc)
  have hp : (s.obsPopped d.val r).ph d.val = { s.ph d.val with queue := r } := s.ph_setPh d.val _ hc
  have hx' : ((s.obsPopped d.val r).sampDrop d.val c).ph d.val = { s.ph d.val with queue := r } := hx.trans hp
  dsimp only
  rw [he]
  rw [hx']
  exact ⟨rfl, rfl, hst, hpend⟩

/-- The first observation of an acquisition, and one in LOST, which begins one (04 R87). -/
theorem State.obsApply_first_facts {o : PhObs} {r : List PhObs} (hq : (s.ph d.val).queue = o :: r) (hk : o.kind = 1)
    (hst : (s.phState d.val = 1 ∧ (s.ph d.val).acqN = 0) ∨ s.phState d.val = 4) : let t := s.obsApply d.val
    (t.ph d.val).theta = o.theta % 4294967296 * 4294967296 ∧ (t.ph d.val).omega = 0 ∧ (t.ph d.val).acqN = 1 ∧ (t.ph d.val).hat = o.theta % 4294967296 ∧
    t.phState d.val = 1 := by
  have hcan : (s.obsTaken d.val r).Canonical := s.setPh_canonical d.val _ hc
  dsimp only
  rw [State.obsApply_count hc hq hk]
  rcases hst with ⟨h1, h0⟩ | h4
  · have h0' : ((s.obsTaken d.val r).ph d.val).acqN = 0 := (congrArg PhSt.acqN (s.ph_setPh d.val _ hc)).trans h0
    rw [State.obsRun_first o.theta o.stamp (show (s.obsTaken d.val r).phState d.val = 1 from h1) h0']
    exact State.acquireFirst o.theta o.stamp hcan h1
  · rw [State.obsRun_lost o.theta o.stamp (show (s.obsTaken d.val r).phState d.val = 4 from h4)]
    exact State.acquireFirst o.theta o.stamp ((State.Steers.refl d.val hcan).phAcquire).canon (phase_acq _ d.val hcan).1

end

/-- Settles O20: PHS_CFG by `State.phsCfg_enabled` and `State.phsCfg_disabled`, PHS_CTRL by the restart and the loss, an observation by
`State.obsRun` in the state of its domain, silence by `State.obsTimeout` and `State.holdExpiry`. -/
theorem phaseDomainsChangeStateAndSteer : Obligations.PhaseDomainsChangeStateAndSteer := by
  unfold Obligations.PhaseDomainsChangeStateAndSteer
  refine ⟨fun s i d hc => ⟨fun hm v => ⟨fun he hs h0 => ?_, fun he h0 => ?_⟩, fun hm => ⟨fun h0 => ?_, fun h0 h4 => ?_, fun h4 => ?_, fun h0 => ⟨?_, ?_⟩⟩⟩,
    fun s d hc hp => ⟨fun h => ?_, fun o r h hq => ?_, fun h => ⟨fun h1 => ?_, fun h2 hs => ?_, fun h2 hs hm => ?_⟩, fun h => ?_, fun h3 ht => ⟨fun h => ?_, fun h h2 => ?_⟩, fun ht => ?_⟩⟩
  · exact ⟨_, (exec_phaseEnableWrite s d v i hc hm).trans (congrArg _ (s.phsCfg_enables i.val d v hc he hs h0 _)), s.phsCfg_enabled i.val d v hc⟩
  · exact ⟨_, (exec_phaseEnableWrite s d v i hc hm).trans (congrArg _ (s.phsCfg_disables i.val d v hc he h0 _)), s.phsCfg_disabled i.val d v hc⟩
  · exact ⟨_, exec_phaseRestart i hc hm, State.phRestart_facts hc h0⟩
  · exact ⟨_, exec_phaseDeclareLost i hc hm, State.phDeclareLost_facts hc h0 h4⟩
  · exact (exec_phaseDeclareLost i hc hm).trans (congrArg _ (State.phDeclareLost_lost h4))
  · exact (exec_phaseRestart i hc hm).trans (congrArg _ (if_pos h0))
  · exact (exec_phaseDeclareLost i hc hm).trans (congrArg _ (if_pos h0))
  · exact (next_live s _ hp).trans (congrArg _ (if_neg (Bool.eq_false_iff.1 h)))
  · obtain ⟨hr, hothers, hsame, hregs⟩ := s.obsApply_facts d hc o r hq
    refine ⟨_, (next_live s _ hp).trans (congrArg _ (if_pos h)), hr, hothers, hsame, hregs, fun hk hbad => ?_, fun hk h1 h0 => ?_, fun hk h4 => ?_, fun hk h2 hst hre hsrc => ?_⟩
    · exact State.obsApply_dropped_facts hc hq hk hbad
    · exact State.obsApply_first_facts hc hq hk (.inl ⟨h1, h0⟩)
    · obtain ⟨hθ, hw, hn, -, hst⟩ := State.obsApply_first_facts hc hq hk (.inr h4)
      exact ⟨hθ, hw, hn, hst⟩
    · have hx : (s.obsTaken d.val r).ph d.val = { s.ph d.val with queue := r, lastApply := some s.now } := s.ph_setPh d.val _ hc
      have ht := State.obsRun_track_facts (d := d.val) o.theta o.stamp (s.setPh_canonical d.val { s.ph d.val with queue := r, lastApply := some s.now } hc) h2 hst
        (by rw [s.ph_setPh d.val _ hc]; exact hre)
      rw [State.obsApply_count hc hq hk]
      dsimp only at ht
      rw [s.ph_setPh d.val _ hc] at ht
      exact ht
  · obtain ⟨hst, hθ, hw, hn, hsi, -, -, hsame⟩ := phase_acq s d.val hc
    rw [← State.obsTimeout_acquire h h1] at hst hθ hw hn hsi hsame
    refine ⟨_, next_live s _ hp, hst, hθ, hw, hn, hsi, hsame, fun a ha => ?_⟩
    rw [State.obsTimeout_acquire h h1]
    exact State.reg_setFs_ne _ _ _ _ ha
  · exact ⟨_, next_live s _ hp, State.obsTimeout_hold_facts hc h h2 hs⟩
  · exact ⟨_, next_live s _ hp, State.obsTimeout_stand_facts hc h h2 hs hm⟩
  · exact (next_live s _ hp).trans (congrArg _ (if_neg (Bool.eq_false_iff.1 h)))
  · obtain ⟨hst, hph, hpend, hcan, -⟩ := State.phLose_facts (d := d) hc
    rw [← State.holdExpiry_lost h3 ht h] at hst hph hpend hcan
    exact ⟨_, next_live s _ hp, hst, by rw [hph], hcan, hpend⟩
  · exact (next_live s _ hp).trans (congrArg _ (State.holdExpiry_won h h2))
  · exact (next_live s _ hp).trans (congrArg _ (State.holdExpiry_early ht))

end Sys2Proof.Machine
end

section
/-! SUPPORT. Commands to the write mailboxes of the sequencers: host posts (06 R136) and activation sets (06 R137). -/

namespace Sys2Proof.Machine

theorem State.sq_mbxEnd (s : State) (m n : Nat) (e : Option Nat) (k : Nat) : (s.mbxEnd m n e).sq k = s.sq k := by
  rw [table_ended_same]
  rfl

theorem State.actSet_mbxEnd (s : State) (m n : Nat) (e : Option Nat) (k : Nat) : (s.mbxEnd m n e).actSet k = s.actSet k := by
  rw [table_ended_same]
  rfl

section
variable {s o : State} {m n : Nat}

theorem table_Ordered.sq (h : table_Ordered s o m n) (k : Nat) : o.sq k = s.sq k := by
  obtain ⟨_, _, _, _, _, e⟩ := h.same
  rw [e]
  rfl

theorem table_Ordered.actSet (h : table_Ordered s o m n) (k : Nat) : o.actSet k = s.actSet k := by
  obtain ⟨_, _, _, _, _, e⟩ := h.same
  rw [e]
  rfl

/-- A refusal with the lowest code that applies leaves what the sequencers hold. -/
theorem table_Ordered.refused (h : table_Ordered s o m n) {c : Nat} (hc : c < 16) :
    (o.mbxEnd m n (some c)).Refused m c ∧ (o.mbxEnd m n (some c)).seq = s.seq ∧ (o.mbxEnd m n (some c)).acts = s.acts := by
  refine ⟨State.refused_of o m n c h.canon hc, ?_⟩
  obtain ⟨_, _, _, _, _, e⟩ := h.same
  rw [table_ended_same, e]
  exact ⟨rfl, rfl⟩

end

/-! ### Host posts -/

/-- R136: the err_code of a post into queue `q`. -/
def State.hpostErr (s : State) (q : Nat) : Option Nat :=
  lowestErr [(false, 15), (!(actionOk (s.dw seqHpost 0)), 1), (decide (256 ≤ (s.sq q).used), 2), (!(timeOf12 (s.dw seqHpost 1) (s.dw seqHpost 2) (s.dw seqHpost 3)).2, 3)]

theorem State.hpostReq_eq (s : State) (q : Fin 8) : s.hpostReq 1 q.val =
    (if (s.hpostErr q.val).isNone then s.postTime q.val (BitVec.ofNat 32 (s.dw seqHpost 0)) (timeOf12 (s.dw seqHpost 1) (s.dw seqHpost 2) (s.dw seqHpost 3)).1 else s).mbxEnd
      seqHpost 4 (s.hpostErr q.val) := by
  have h8 : q.val % 8 = q.val := Nat.mod_eq_of_lt q.isLt
  have h15 : (decide (8 ≤ q.val)) = false := decide_eq_false (by omega)
  unfold State.hpostReq State.hpostErr
  simp only [h8, h15, bne_self_eq_false, Bool.or_false]

theorem State.hpostErr_invalid {s : State} {q : Nat} (h : actionOk (s.dw seqHpost 0) = false) : s.hpostErr q = some 1 := by
  unfold State.hpostErr
  rw [h]
  generalize decide (256 ≤ (s.sq q).used) = b
  generalize (timeOf12 (s.dw seqHpost 1) (s.dw seqHpost 2) (s.dw seqHpost 3)).2 = c
  revert b c
  decide

theorem State.hpostErr_full {s : State} {q : Nat} (h : actionOk (s.dw seqHpost 0) = true) (hf : 256 ≤ (s.sq q).used) : s.hpostErr q = some 2 := by
  unfold State.hpostErr
  rw [h, decide_eq_true hf]
  generalize (timeOf12 (s.dw seqHpost 1) (s.dw seqHpost 2) (s.dw seqHpost 3)).2 = c
  revert c
  decide

theorem State.hpostErr_none {s : State} {q : Nat} (h : actionOk (s.dw seqHpost 0) = true) (hf : (s.sq q).used < 256) (hns : s.dw seqHpost 3 % 2 ^ 30 < 1000000000) :
    s.hpostErr q = none := by
  unfold State.hpostErr timeOf12
  rw [h, decide_eq_false (Nat.not_le.2 hf), decide_eq_true hns]
  rfl

theorem seqHpost_ordered (s : State) (i op arg : Nat) (hc : s.Canonical) : table_Ordered s (s.ordered i seqHpost op arg) seqHpost 4 :=
  table_ordered_facts s i seqHpost op arg 4 hc (fun j => by unfold mbxData seqHpost EVT_SRC_STAT.a; omega) (by decide) (by decide)

theorem exec_hostPost (s : State) (i : Fin 3) (q : Fin 8) (hm : s.MayOrder i.val seqHpost) :
    exec (.hostPost i (BitVec.ofNat 16 q.val)) s = .next ((s.ordered i.val seqHpost 1 q.val).hpostReq 1 q.val) := by
  have hq := q.isLt
  refine (next_live s _ hm.may.powered).trans (congrArg _ ?_)
  rw [toNat_arg (by omega), s.request_seqHpost i.val 1 q.val hm (by omega) (by omega)]

/-- The mailbox judges a host post by what the requester has written. -/
theorem State.hpostErr_ordered (s : State) (i op arg q : Nat) (hc : s.Canonical) : (s.ordered i seqHpost op arg).hpostErr q = s.hpostErr q := by
  have ho := seqHpost_ordered s i op arg hc
  unfold State.hpostErr
  rw [ho.dw, ho.dw, ho.dw, ho.dw, ho.sq]

theorem exec_hostPost_refused {s : State} (i : Fin 3) (q : Fin 8) (hc : s.Canonical) (hm : s.MayOrder i.val seqHpost) {c : Nat} (he : s.hpostErr q.val = some c) :
    exec (.hostPost i (BitVec.ofNat 16 q.val)) s = .next ((s.ordered i.val seqHpost 1 q.val).mbxEnd seqHpost 4 (some c)) := by
  rw [exec_hostPost s i q hm, State.hpostReq_eq, State.hpostErr_ordered s _ _ _ _ hc, he]
  rfl

theorem exec_hostPost_done {s : State} (i : Fin 3) (q : Fin 8) (hc : s.Canonical) (hm : s.MayOrder i.val seqHpost) (ha : actionOk (s.dw seqHpost 0) = true)
    (hu : (s.sq q.val).used < 256) (hn : s.dw seqHpost 3 % 2 ^ 30 < 1000000000) :
    exec (.hostPost i (BitVec.ofNat 16 q.val)) s = .next (((s.ordered i.val seqHpost 1 q.val).postTime q.val (BitVec.ofNat 32 (s.dw seqHpost 0))
      (timeOf12 (s.dw seqHpost 1) (s.dw seqHpost 2) (s.dw seqHpost 3)).1).mbxEnd seqHpost 4 none) := by
  have ho := seqHpost_ordered s i.val 1 q.val hc
  rw [exec_hostPost s i q hm, State.hpostReq_eq, State.hpostErr_ordered s _ _ _ _ hc, State.hpostErr_none ha hu hn, ho.dw, ho.dw, ho.dw, ho.dw]
  rfl

/-- A command that puts the time entry into the queue, as the mailbox has judged it. -/
theorem State.posted_facts {s o : State} (h : table_Ordered s o seqHpost 4) (q : Nat) (w : Word) (tgt : Nat) : let t := (o.postTime q w tgt).mbxEnd seqHpost 4 none
    t.Done s seqHpost 4 ∧
      t.sq q = { s.sq q with post := (s.sq q).post + 1, tq := insEnt ⟨w, tgt, (s.sq q).post, s.now, decide (tgt < s.tim.wkt + 16 * 4294967296), none⟩ (s.sq q).tq } ∧
      (∀ m, m ≠ q → t.sq m = s.sq m) ∧ t = { s with regs := t.regs, seq := t.seq, aud := t.aud, evt := t.evt, out := t.out, pcie := { s.pcie with pba := t.pcie.pba } } := by
  have hcan : (o.postTime q w tgt).Canonical := (State.postTime_keeps (State.Keeps.refl o) q w tgt).canon h.canon
  have hstat : (o.postTime q w tgt).reg (seqHpost + 4) = s.reg (seqHpost + 4) :=
    (State.reg_setFs_ne _ _ _ _ (by unfold seqHpost SEQ_QSTAT.a; omega)).trans h.stat
  have hnow : o.now = s.now ∧ o.tim = s.tim := by
    obtain ⟨_, _, _, _, _, e⟩ := h.same
    rw [e]
    exact ⟨rfl, rfl⟩
  refine ⟨table_ended s _ seqHpost 4 hcan hstat, ?_, fun m hm => ?_, ?_⟩
  · rw [State.sq_mbxEnd]
    refine (State.sq_setQ o q _ h.canon).trans ?_
    rw [h.sq, hnow.1, hnow.2]
    rfl
  · rw [State.sq_mbxEnd]
    exact (State.sq_setQ_ne o q m _ hm).trans (h.sq m)
  · obtain ⟨_, _, _, _, _, e⟩ := h.same
    have hp : o.postTime q w tgt = { o with regs := (o.postTime q w tgt).regs, seq := (o.postTime q w tgt).seq } := State.setQ_same _ _ _
    generalize o.postTime q w tgt = v at hp ⊢
    have hv := table_ended_same v seqHpost 4 none
    generalize v.mbxEnd seqHpost 4 none = t at hv ⊢
    dsimp only
    rw [hv, hp, e]

/-! ### Activation sets -/

section
variable {s o : State} {k : Fin 16}

/-- R137: the err_code of the append of a write to set `k`. -/
def State.actAppendErr (s : State) (k : Nat) : Option Nat :=
  lowestErr [(false, 15), (decide (1 < s.actState k), 1), (decide (32 ≤ (s.actSet k).writes.length), 2), (!(actAddrOk (s.dw seqActMbx 0)), 3)]

/-- R137: the err_code of the seal of set `k`. -/
def State.actSealErr (s : State) (k : Nat) : Option Nat :=
  lowestErr [(false, 15), (decide (1 < s.actState k), 1), (nbits (s.dw seqActMbx 0) 15 8 &&& nbits (s.dw seqActMbx 0) 7 0 != 0, 4), (s.dw seqActMbx 0 / 2 ^ 18 != 0, 5)]

theorem State.actAppendErr_sealed (h : 1 < s.actState k.val) : s.actAppendErr k.val = some 1 := by
  unfold State.actAppendErr
  rw [decide_eq_true h]
  generalize decide (32 ≤ (s.actSet k.val).writes.length) = b
  generalize actAddrOk (s.dw seqActMbx 0) = c
  revert b c
  decide

theorem State.actAppendErr_none (h : s.actState k.val ≤ 1) (hl : (s.actSet k.val).writes.length < 32) (ha : actAddrOk (s.dw seqActMbx 0) = true) : s.actAppendErr k.val = none := by
  unfold State.actAppendErr
  rw [decide_eq_false (Nat.not_lt.2 h), decide_eq_false (Nat.not_le.2 hl), ha]
  rfl

theorem State.actSealErr_sealed (h : 1 < s.actState k.val) : s.actSealErr k.val = some 1 := by
  unfold State.actSealErr
  rw [decide_eq_true h]
  generalize (nbits (s.dw seqActMbx 0) 15 8 &&& nbits (s.dw seqActMbx 0) 7 0 != 0) = b
  generalize (s.dw seqActMbx 0 / 2 ^ 18 != 0) = c
  revert b c
  decide

theorem State.actSealErr_none (h : s.actState k.val ≤ 1) (hx : nbits (s.dw seqActMbx 0) 15 8 &&& nbits (s.dw seqActMbx 0) 7 0 = 0) (hd : s.dw seqActMbx 0 < 2 ^ 18) :
    s.actSealErr k.val = none := by
  unfold State.actSealErr
  rw [decide_eq_false (Nat.not_lt.2 h), hx, Nat.div_eq_of_lt hd]
  rfl

theorem State.actReq_eqs (s : State) (k : Fin 16) : s.actReq 1 k.val = ((s.setAct k.val {}).setReg (SEQ_ACT_STAT.a k.val) 0#32).mbxEnd seqActMbx 4 none ∧
    s.actReq 2 k.val = (if (s.actAppendErr k.val).isSome then s else (s.setAct k.val { s.actSet k.val with writes := (s.actSet k.val).writes ++ [(s.dw seqActMbx 0, s.reg (mbxData seqActMbx 1))] }).setFs
      (SEQ_ACT_STAT.a k.val) [(SEQ_ACT_STAT.state, 1), (SEQ_ACT_STAT.count, (s.actSet k.val).writes.length + 1)]).mbxEnd seqActMbx 4 (s.actAppendErr k.val) ∧
    s.actReq 3 k.val = (if (s.actSealErr k.val).isSome then s else (s.setAct k.val { s.actSet k.val with ctrl := BitVec.ofNat 32 (s.dw seqActMbx 0) }).setF
      (SEQ_ACT_STAT.a k.val) SEQ_ACT_STAT.state 2).mbxEnd seqActMbx 4 (s.actSealErr k.val) := by
  have h16 : k.val % 16 = k.val := Nat.mod_eq_of_lt k.isLt
  have h15 : (decide (16 ≤ k.val)) = false := decide_eq_false (by omega)
  unfold State.actReq State.actAppendErr State.actSealErr
  rw [h16, h15]
  exact ⟨rfl, rfl, rfl⟩

theorem seqActMbx_ordered (s : State) (i op arg : Nat) (hc : s.Canonical) : table_Ordered s (s.ordered i seqActMbx op arg) seqActMbx 4 :=
  table_ordered_facts s i seqActMbx op arg 4 hc (fun j => by unfold mbxData seqActMbx EVT_SRC_STAT.a; omega) (by decide) (by decide)

/-- The status registers of the sets lie apart from the registers of the mailbox. -/
theorem actStat_ne (k : Fin 16) : SEQ_ACT_STAT.a k.val ≠ seqActMbx ∧ SEQ_ACT_STAT.a k.val ≠ seqActMbx + 4 ∧ SEQ_ACT_STAT.a k.val ≠ EVT_SRC_STAT.a 60 ∧
    ∀ j, j < 4 → SEQ_ACT_STAT.a k.val ≠ mbxData seqActMbx j := by
  unfold SEQ_ACT_STAT.a seqActMbx EVT_SRC_STAT.a mbxData
  exact ⟨by omega, by omega, by omega, fun j hj => by omega⟩

/-- A command that gives set `k` the contents `x` and its status the word `w`. -/
theorem State.actWritten (h : table_Ordered s o seqActMbx 4) (k : Fin 16) (x : ActSt) (w : Word) : let t := ((o.setAct k.val x).setReg (SEQ_ACT_STAT.a k.val) w).mbxEnd seqActMbx 4 none
    t.Done s seqActMbx 4 ∧ t.actSet k.val = x ∧ t.reg (SEQ_ACT_STAT.a k.val) = w ∧ (∀ j, j ≠ k.val → t.actSet j = s.actSet j) ∧
      t = { s with regs := t.regs, acts := t.acts, aud := t.aud, evt := t.evt, out := t.out, pcie := { s.pcie with pba := t.pcie.pba } } := by
  obtain ⟨hctl, hst, -, hdat⟩ := actStat_ne k
  have hcan : ((o.setAct k.val x).setReg (SEQ_ACT_STAT.a k.val) w).Canonical :=
    { h.canon with acts := Cells.wf_set h.canon.acts _ _, regs := Cells.wf_set h.canon.regs _ _ }
  refine ⟨table_ended s _ seqActMbx 4 hcan ((State.reg_setReg_ne _ _ _ _ hst.symm).trans h.stat), ?_, ?_, fun j hj => ?_, ?_⟩
  · rw [State.actSet_mbxEnd]
    exact Cells.get_set h.canon.acts _ _
  · exact (State.reg_mbxDone_ne _ _ _ _ hctl hdat).trans (State.reg_setReg _ _ _ h.canon.regs)
  · rw [State.actSet_mbxEnd]
    exact (Cells.get_set_ne _ _ _ _ _ hj).trans (h.actSet j)
  · obtain ⟨_, _, _, _, _, e⟩ := h.same
    have hp : (o.setAct k.val x).setReg (SEQ_ACT_STAT.a k.val) w =
      { o with regs := ((o.setAct k.val x).setReg (SEQ_ACT_STAT.a k.val) w).regs, acts := ((o.setAct k.val x).setReg (SEQ_ACT_STAT.a k.val) w).acts } := rfl
    generalize (o.setAct k.val x).setReg (SEQ_ACT_STAT.a k.val) w = v at hp ⊢
    have hv := table_ended_same v seqActMbx 4 none
    generalize v.mbxEnd seqActMbx 4 none = t at hv ⊢
    dsimp only
    rw [hv, hp, e]

theorem State.actState_ordered (s : State) (i op arg : Nat) (k : Fin 16) : (s.ordered i seqActMbx op arg).actState k.val = s.actState k.val := by
  obtain ⟨hctl, -, hev, -⟩ := actStat_ne k
  unfold State.actState
  rw [State.reg_ordered_ne _ _ _ _ _ _ hctl hev]

theorem State.actErrs_ordered (s : State) (i op arg : Nat) (k : Fin 16) (hc : s.Canonical) :
    (s.ordered i seqActMbx op arg).actAppendErr k.val = s.actAppendErr k.val ∧ (s.ordered i seqActMbx op arg).actSealErr k.val = s.actSealErr k.val := by
  have ho := seqActMbx_ordered s i op arg hc
  unfold State.actAppendErr State.actSealErr
  rw [State.actState_ordered, ho.dw, ho.actSet]
  exact ⟨rfl, rfl⟩

/-- The status of a set after an append that makes its length `n`. -/
def actAppended (w : Word) (n : Nat) : Word := fldSet (fldSet w SEQ_ACT_STAT.state 1) SEQ_ACT_STAT.count n

/-- The status of a set after a seal. -/
def actSealed (w : Word) : Word := fldSet w SEQ_ACT_STAT.state 2

theorem actAppended_state (w : Word) (n : Nat) : fldGet (actAppended w n) SEQ_ACT_STAT.state = 1 := by
  unfold actAppended
  rw [fldGet_fldSet_ne _ _ _ _ (by decide) (by decide), fldGet_fldSet _ _ _ (by decide)]
  rfl

theorem actAppended_count (w : Word) {n : Nat} (h : n ≤ 32) : fldGet (actAppended w n) SEQ_ACT_STAT.count = n := by
  unfold actAppended
  rw [fldGet_fldSet _ _ _ (by decide)]
  exact Nat.mod_eq_of_lt (Nat.lt_of_le_of_lt h (by decide))

theorem actSealed_state (w : Word) : fldGet (actSealed w) SEQ_ACT_STAT.state = 2 := fldGet_fldSet _ _ _ (by decide)

/-- The three commands to SEQ_ACT, in order. -/
theorem exec_actCommands (s : State) (i : Fin 3) (k : Fin 16) (hm : s.MayOrder i.val seqActMbx) :
    exec (.actClear i (BitVec.ofNat 16 k.val)) s = .next ((((s.ordered i.val seqActMbx 1 k.val).setAct k.val {}).setReg (SEQ_ACT_STAT.a k.val) 0#32).mbxEnd seqActMbx 4 none) ∧
    exec (.actAppend i (BitVec.ofNat 16 k.val)) s = .next ((s.ordered i.val seqActMbx 2 k.val).actReq 2 k.val) ∧
    exec (.actSeal i (BitVec.ofNat 16 k.val)) s = .next ((s.ordered i.val seqActMbx 3 k.val).actReq 3 k.val) := by
  have hk : (BitVec.ofNat 16 k.val).toNat = k.val := toNat_arg (by omega)
  have h (op : Nat) (ho : op < 256) := s.request_seqActMbx i.val op k.val hm ho (by omega)
  refine ⟨(next_live s _ hm.may.powered).trans (congrArg _ ?_), (next_live s _ hm.may.powered).trans (congrArg _ ?_), (next_live s _ hm.may.powered).trans (congrArg _ ?_)⟩
  · rw [hk, h 1 (by decide)]
    exact (State.actReq_eqs _ k).1
  · rw [hk, h 2 (by decide)]
  · rw [hk, h 3 (by decide)]

/-- An append to a set that is not yet sealed. -/
theorem exec_actAppend_done (i : Fin 3) (hc : s.Canonical) (hm : s.MayOrder i.val seqActMbx) (he : s.actAppendErr k.val = none) :
    exec (.actAppend i (BitVec.ofNat 16 k.val)) s = .next ((((s.ordered i.val seqActMbx 2 k.val).setAct k.val
      { s.actSet k.val with writes := (s.actSet k.val).writes ++ [(s.dw seqActMbx 0, s.reg (mbxData seqActMbx 1))] }).setReg (SEQ_ACT_STAT.a k.val)
        (actAppended (s.reg (SEQ_ACT_STAT.a k.val)) ((s.actSet k.val).writes.length + 1))).mbxEnd seqActMbx 4 none) := by
  have ho := seqActMbx_ordered s i.val 2 k.val hc
  have hw : (s.ordered i.val seqActMbx 2 k.val).reg (mbxData seqActMbx 1) = s.reg (mbxData seqActMbx 1) := State.reg_ordered_ne _ _ _ _ _ _ (by decide) (by decide)
  obtain ⟨hctl, -, hev, -⟩ := actStat_ne k
  rw [(exec_actCommands s i k hm).2.1, (State.actReq_eqs _ k).2.1, (s.actErrs_ordered i.val 2 k.val k hc).1, he, ho.dw, ho.actSet, hw]
  unfold actAppended
  rw [← State.reg_ordered_ne s i.val seqActMbx 2 k.val _ hctl hev]
  rfl

theorem exec_actSeal_done (i : Fin 3) (hc : s.Canonical) (hm : s.MayOrder i.val seqActMbx) (he : s.actSealErr k.val = none) :
    exec (.actSeal i (BitVec.ofNat 16 k.val)) s = .next ((((s.ordered i.val seqActMbx 3 k.val).setAct k.val { s.actSet k.val with ctrl := BitVec.ofNat 32 (s.dw seqActMbx 0) }).setReg
      (SEQ_ACT_STAT.a k.val) (actSealed (s.reg (SEQ_ACT_STAT.a k.val)))).mbxEnd seqActMbx 4 none) := by
  have ho := seqActMbx_ordered s i.val 3 k.val hc
  obtain ⟨hctl, -, hev, -⟩ := actStat_ne k
  rw [(exec_actCommands s i k hm).2.2, (State.actReq_eqs _ k).2.2, (s.actErrs_ordered i.val 3 k.val k hc).2, he, ho.dw, ho.actSet]
  unfold actSealed
  rw [← State.reg_ordered_ne s i.val seqActMbx 3 k.val _ hctl hev]
  rfl

/-- A sealed set refuses both. -/
theorem exec_act_sealed (i : Fin 3) (hc : s.Canonical) (hm : s.MayOrder i.val seqActMbx) (h : 1 < s.actState k.val) :
    exec (.actAppend i (BitVec.ofNat 16 k.val)) s = .next ((s.ordered i.val seqActMbx 2 k.val).mbxEnd seqActMbx 4 (some 1)) ∧
    exec (.actSeal i (BitVec.ofNat 16 k.val)) s = .next ((s.ordered i.val seqActMbx 3 k.val).mbxEnd seqActMbx 4 (some 1)) := by
  obtain ⟨-, happ, hseal⟩ := exec_actCommands s i k hm
  refine ⟨happ.trans (congrArg _ ?_), hseal.trans (congrArg _ ?_)⟩
  · rw [(State.actReq_eqs _ k).2.1, (s.actErrs_ordered i.val 2 k.val k hc).1, State.actAppendErr_sealed h]
    rfl
  · rw [(State.actReq_eqs _ k).2.2, (s.actErrs_ordered i.val 3 k.val k hc).2, State.actSealErr_sealed h]
    rfl

end

end Sys2Proof.Machine
end

section
/-! SUPPORT. The inspection mailboxes: queued entries (05 R109) and the registers of a stopped sequencer (05 R97). -/

namespace Sys2Proof.Machine

variable {s : State}

/-- The sequencer that an inspection names. -/
theorem nbits_sequencer (q : Fin 8) {k : Nat} (hk : k < 256) : nbits (q.val * 256 + k) 10 8 = q.val := by
  unfold nbits
  omega

/-! ### SEQ_QINSP -/

/-- The words of the entries of queue `q`, in the order in which SEQ_QINSP counts them. -/
def SeqSt.entryWords (x : SeqSt) : List (List Nat) := x.tq.map TEnt.words ++ x.aq.map AEnt.words

theorem exec_queueInspect (s : State) (i : Fin 3) (q : Fin 8) (k : Fin 256) (hm : s.MayAsk i.val seqQinsp) :
    exec (.queueInspect i (BitVec.ofNat 16 (q.val * 256 + k.val))) s = .next ((s.asked seqQinsp 0 (q.val * 256 + k.val)).qinspReq (q.val * 256 + k.val)) := by
  have hq := q.isLt
  have hk := k.isLt
  refine (next_live s _ hm.powered).trans (congrArg _ ?_)
  rw [toNat_arg (by omega), s.request_seqQinsp i.val 0 _ hm (by omega) (by omega)]

/-- 05 R109: the mailbox answers with entry `k`, or fails where the queue has no such entry. -/
theorem State.qinspReq_eq (s : State) (q : Fin 8) (k : Fin 256) :
    s.qinspReq (q.val * 256 + k.val) = ((s.sq q.val).entryWords[k.val]?).elim (s.mbxFail seqQinsp 1) (s.snap seqQinsp) := by
  have hk := k.isLt
  have hmod : (q.val * 256 + k.val) % 256 = k.val := by omega
  have hlow : decide (2048 ≤ q.val * 256 + k.val) = false := decide_eq_false (by omega)
  unfold State.qinspReq SeqSt.entryWords
  rw [nbits_sequencer q hk, hmod, hlow]
  dsimp only
  cases ((s.sq q.val).tq.map TEnt.words ++ (s.sq q.val).aq.map AEnt.words)[k.val]? <;> rfl

theorem SeqSt.entryWords_beyond {x : SeqSt} {k : Nat} (h : x.used ≤ k) : x.entryWords[k]? = none := by
  refine List.getElem?_eq_none ?_
  unfold SeqSt.entryWords
  rw [List.length_append, List.length_map, List.length_map]
  exact h

/-- An index beyond the entries. -/
theorem State.queueInspect_beyond (s : State) (m op arg : Nat) (hc : s.Canonical) : let t := (s.asked m op arg).mbxFail m 1
    fldGet (t.reg (m + 4)) MBX_STAT.err = 1 ∧ fldGet (t.reg (m + 4)) MBX_STAT.err_code = 1 ∧ t = { s with regs := t.regs } := by
  obtain ⟨herr, hcode⟩ := State.mbxFail_shows (s.asked m op arg) m 1 (s.asked_wf m op arg hc) (by decide)
  exact ⟨herr, hcode, rfl⟩

/-! ### SEQ_DBG -/

/-- The words of the three operations of SEQ_DBG. -/
def State.dbgWords (s : State) (q op : Nat) : List Nat :=
  if op = 0 then (s.sq q).ws.toNat :: (List.range 15).map (fun k => ((s.sq q).g.getD (k + 1) 0#32).toNat)
  else if op = 1 then ((List.range 4).map (fun k => tregWords ((s.sq q).treg k))).flatten ++ (List.range 4).map (fun k => ((s.sq q).ax.getD k 0#32).toNat)
  else [s.seqPc q, ((s.sq q).sig ||| (s.sq q).fresh).toNat] ++ List.replicate 14 0

/-- A sequencer that neither stands in STOP nor runs is answered for. -/
theorem State.dbgReq_snap (s : State) (q : Fin 8) (op : Fin 3) (h0 : s.seqState q.val ≠ 0) (h1 : s.seqState q.val ≠ 1) :
    s.dbgReq op.val (q.val * 256) = s.snap seqDbg (s.dbgWords q.val op.val) := by
  have hn : nbits (q.val * 256) 10 8 = q.val := by
    unfold nbits
    omega
  have hform : (decide (2 < op.val) || decide (q.val * 256 / 2048 ≠ 0) || decide (q.val * 256 % 256 ≠ 0)) = false := by
    simp only [Bool.or_eq_false_iff, decide_eq_false_iff_not]
    omega
  have hst : (s.seqState q.val == 0 || s.seqState q.val == 1) = false := by
    simp [h0, h1]
  unfold State.dbgReq
  rw [hn, hform]
  dsimp only
  rw [hst]
  rfl

theorem State.dbgAnswered (i : Fin 3) (q : Fin 8) (op : Fin 3) {x : Host.Outcome State Fault Refusal} (hc : s.Canonical) (hm : s.MayAsk i.val seqDbg)
    (h0 : s.seqState q.val ≠ 0) (h1 : s.seqState q.val ≠ 1)
    (hx : x = .next (s.live (s.request i.val seqDbg op.val (BitVec.ofNat 16 (q.val * 256)).toNat))) :
    ∃ t, x = .next t ∧ s.Answered t seqDbg (s.dbgWords q.val op.val) := by
  have hq := q.isLt
  have hop := op.isLt
  refine s.answered_of seqDbg op.val (q.val * 256) _ _ hc ?_
  rw [hx, next_live s _ hm.powered, toNat_arg (by omega), s.request_seqDbg i.val op.val _ hm (by omega) (by omega)]
  have hreg : ∀ a, a ≠ seqDbg → (s.asked seqDbg op.val (q.val * 256)).reg a = s.reg a := fun a => State.reg_asked_ne _ _ _ _ _
  have hst : (s.asked seqDbg op.val (q.val * 256)).reg (SEQ_STAT.a q.val) = s.reg (SEQ_STAT.a q.val) := hreg _ (by unfold SEQ_STAT.a seqDbg; omega)
  have hs : (s.asked seqDbg op.val (q.val * 256)).seqState q.val = s.seqState q.val := by
    unfold State.seqState
    rw [hst]
  have hw : (s.asked seqDbg op.val (q.val * 256)).dbgWords q.val op.val = s.dbgWords q.val op.val := by
    unfold State.dbgWords State.seqPc
    rw [hst]
    rfl
  rw [State.dbgReq_snap _ q op (hs ▸ h0) (hs ▸ h1), hw]

end Sys2Proof.Machine
end

section
/-! SUPPORT. The firing of due entries (06 R131, R132; 04 R90), SYNC_OUT (06 R135) and the watchdog (05 R115). -/

namespace Sys2Proof.Machine

/-! ### SYNC_OUT -/

theorem State.pin_setPin (s : State) (k t : Nat) (x : SyncPin) (hc : s.Canonical) : (s.setPin k x t).pin k = x := (yufen_pin_setPin s k t x hc).1

theorem State.pin_setPin_ne (s : State) (k t j : Nat) (x : SyncPin) (hc : s.Canonical) (h : j ≠ k) : (s.setPin k x t).pin j = s.pin j := (yufen_pin_setPin s k t x hc).2.1 j h

theorem State.setPin_same (s : State) (k t : Nat) (x : SyncPin) (hc : s.Canonical) : s.setPin k x t = { s with sync := (s.setPin k x t).sync, out := (s.setPin k x t).out } :=
  (yufen_pin_setPin s k t x hc).2.2

/-- A fall of an earlier instant moves the pin alone. -/
theorem State.fallBefore_facts (s : State) (k t : Nat) (hc : s.Canonical) : (s.fallBefore k t).Canonical ∧ (∀ j, j ≠ k → (s.fallBefore k t).pin j = s.pin j) ∧
    s.fallBefore k t = { s with sync := (s.fallBefore k t).sync, out := (s.fallBefore k t).out } := by
  unfold State.fallBefore
  split
  · split
    · next f _ _ => exact ⟨(State.setPin_keeps (State.Keeps.refl s) k {} f).canon hc, fun j h => s.pin_setPin_ne k f j {} hc h, s.setPin_same k f {} hc⟩
    · exact ⟨hc, fun _ _ => rfl, rfl⟩
  · exact ⟨hc, fun _ _ => rfl, rfl⟩

/-- A pin set high or low keeps no fall. -/
theorem State.pulseAction_level (s : State) (k mode width t : Nat) (hm : mode = 1 ∨ mode = 2) (hc : s.Canonical) : let v := s.pulseAction k mode width t
    v.pin k = ⟨decide (mode = 1), none⟩ ∧ (∀ j, j ≠ k → v.pin j = s.pin j) ∧ v = { s with sync := v.sync, out := v.out } := by
  obtain ⟨hcan, hothers, hsame⟩ := s.fallBefore_facts k t hc
  have hv : s.pulseAction k mode width t = (s.fallBefore k t).setPin k ⟨decide (mode = 1), none⟩ t := by
    rcases hm with rfl | rfl <;> rfl
  dsimp only
  rw [hv]
  refine ⟨State.pin_setPin _ k t _ hcan, fun j hj => (State.pin_setPin_ne _ k t j _ hcan hj).trans (hothers j hj), ?_⟩
  have hs := State.setPin_same _ k t ⟨decide (mode = 1), none⟩ hcan
  generalize (s.fallBefore k t).setPin k ⟨decide (mode = 1), none⟩ t = v at hs ⊢
  rw [hs, hsame]

theorem State.pulseFall_due {s : State} {k f : Nat} (h : (s.pin k).fall = some f) (hf : f ≤ 16 * s.now) : s.pulseFall k = s.setPin k {} f := by
  unfold State.pulseFall
  rw [h]
  exact if_pos hf

theorem State.pulseFall_none {s : State} {k : Nat} (h : (s.pin k).fall = none) : s.pulseFall k = s := by
  unfold State.pulseFall
  rw [h]

/-- The fall of a pin that stands high is an edge. -/
theorem State.setPin_falls {s : State} {k : Nat} (f : Nat) (h : (s.pin k).level = true) : (s.setPin k {} f).out = .edge "SYNC_OUT" k false f :: s.out := by
  unfold State.setPin
  rw [h]
  rfl

/-! ### Firing -/

section
variable {u : State} {q : Nat} (x : SeqSt)

/-- An entry that notes leaves the queue and raises its event. -/
theorem State.noted (i : Nat) (hc : u.Canonical) : let t := (u.setQ q x).raise (33 + q) 3 i
    t.sq q = x ∧ fldGet (t.reg (EVT_SRC_STAT.a (33 + q))) EVT_SRC_STAT.pend = 1 ∧ (∀ m, m ≠ q → t.sq m = u.sq m) ∧
      t = { u with regs := t.regs, evt := t.evt, out := t.out, seq := t.seq, pcie := { u.pcie with pba := t.pcie.pba } } := by
  have hcan : (u.setQ q x).Canonical := (State.setQ_keeps (State.Keeps.refl u) q x).canon hc
  refine ⟨(State.sq_raise _ _ _ _ q).trans (u.sq_setQ q x hc), pend_raise _ (33 + q) 3 i hcan, fun m hm => (State.sq_raise _ _ _ _ m).trans (u.sq_setQ_ne q m x hm), ?_⟩
  have hs := State.raise_same (u.setQ q x) (33 + q) 3 i
  generalize (u.setQ q x).raise (33 + q) 3 i = t at hs ⊢
  dsimp only
  rw [hs, u.setQ_same q x]

/-- An entry that sets a pin leaves the queue. -/
theorem State.pinned {k mode : Nat} (width t : Nat) (hm : mode = 1 ∨ mode = 2) (hc : u.Canonical) : let v := (u.setQ q x).pulseAction k mode width t
    v.sq q = x ∧ v.pin k = ⟨decide (mode = 1), none⟩ ∧ (∀ j, j ≠ k → v.pin j = u.pin j) ∧ v = { u with regs := v.regs, seq := v.seq, sync := v.sync, out := v.out } := by
  have hcan : (u.setQ q x).Canonical := (State.setQ_keeps (State.Keeps.refl u) q x).canon hc
  obtain ⟨hpin, hothers, hsame⟩ := (u.setQ q x).pulseAction_level k mode width t hm hcan
  refine ⟨?_, hpin, hothers, ?_⟩
  · rw [hsame]
    exact u.sq_setQ q x hc
  · generalize (u.setQ q x).pulseAction k mode width t = v at hsame ⊢
    rw [hsame, u.setQ_same q x]

end

section
variable {w : Nat} (s : State) (n t rel : Nat) (races : Races)

theorem State.act_note (h : w / 2 ^ 28 = 7) : s.act n w t rel races = s.raise (33 + n) 3 (nbits w 11 0) := by
  unfold State.act
  rw [h]
  rfl

theorem State.act_pulse (h : w / 2 ^ 28 = 3) : s.act n w t rel races = s.pulseAction (nbits w 27 24) (nbits w 23 22) (nbits w 19 0) t := by
  unfold State.act
  rw [h]
  rfl

theorem State.act_activate (h : w / 2 ^ 28 = 6) : s.act n w t rel races = s.activateFrom n (nbits w 27 24) races := by
  unfold State.act
  rw [h]
  rfl

end

/-- The time queue of sequencer `q` without the entry of a posting number. -/
def State.timePopped (u : State) (q post : Nat) : State := u.setQ q { u.sq q with tq := (u.sq q).tq.filter (fun y => y.post != post) }

/-- The armed entries of sequencer `q` without that of a posting number. -/
def State.anglePopped (u : State) (q post : Nat) : State := u.setQ q { u.sq q with aq := (u.sq q).aq.filter (fun y => y.post != post) }

theorem State.phsDue_canonical (s : State) (hc : s.Canonical) : s.phsDue.Canonical := (State.phsDue_keeps (State.Keeps.refl s)).canon hc

theorem State.foldl_obsSettle_quiet (s : State) (l : List Nat) (h : ∀ d ∈ l, s.obsDue d = false) : l.foldl (fun u d => u.obsSettle d) s = s := by
  induction l with
  | nil => rfl
  | cons d l ih =>
    rw [List.foldl_cons, s.obsSettle_quiet d (h d List.mem_cons_self)]
    exact ih fun e he => h e (List.mem_cons_of_mem _ he)

/-- A state in which no domain has an observation that is due. -/
theorem State.phsDue_quiet (s : State) (h : ∀ d, d < 4 → s.obsDue d = false) : s.phsDue = s :=
  s.foldl_obsSettle_quiet _ fun d hd => h d (List.mem_range.1 hd)

section
variable {s : State} (q : Fin 8) (races : Races)

theorem exec_timeActionFire {e : TEnt} (hp : s.powered = true) (h : s.phsDue.nextDue = some (q.val, .inl e)) (hl : e.late = false) :
    exec (.timeActionFire q races) s = .next ((s.phsDue.timePopped q.val e.post).act q.val e.word.toNat e.instant e.tgt races) := by
  refine (next_live s _ hp).trans (congrArg _ ?_)
  rw [h]
  refine (if_pos rfl).trans ?_
  unfold State.fireTime
  rw [hl]
  rfl

theorem exec_angleActionFire {e : AEnt} (hp : s.powered = true) (h : s.phsDue.nextDue = some (q.val, .inr e)) :
    exec (.angleActionFire q races) s =
      .next ((s.phsDue.anglePopped q.val e.post).act q.val e.word.toNat (s.phsDue.angleInstant e) (s.phsDue.wktAt (s.phsDue.angleInstant e)) races) := by
  refine (next_live s _ hp).trans (congrArg _ ?_)
  rw [h]
  exact if_pos rfl

theorem exec_fire_none (hp : s.powered = true) (h : s.phsDue.nextDue = none) :
    exec (.timeActionFire q races) s = .next s.phsDue ∧ exec (.angleActionFire q races) s = .next s.phsDue := by
  refine ⟨(next_live s _ hp).trans (congrArg _ ?_), (next_live s _ hp).trans (congrArg _ ?_)⟩ <;> rw [h]

end

/-- Settles O28: the commands by what their mailboxes judge, a firing by the action of its word on the state without the entry. -/
theorem queuesFireAndAreInspected : Obligations.QueuesFireAndAreInspected := by
  unfold Obligations.QueuesFireAndAreInspected
  refine ⟨fun s i hc => ⟨fun hm q => ⟨fun ha hu hn => ?_, fun ha => ?_, fun ha hu => ?_⟩, fun hm k => ⟨?_, fun h1 hl ha => ?_, fun h1 hx hd => ?_, fun h1 => ⟨?_, ?_⟩⟩,
      fun hm q k => ⟨fun ws h => ?_, fun h => ?_⟩, fun hm q h0 h1 => ⟨?_, ?_, ?_⟩⟩,
    fun s q races hc hp => ⟨fun e h hl => ⟨fun h7 => ?_, fun h3 hmode => ?_, fun h6 => ?_⟩, fun e h => ⟨fun h7 => ?_, fun h3 hmode => ?_⟩, fun h => ?_, fun h => ?_,
      fun k => ⟨fun f h hf => ?_, fun h => ?_⟩, fun h h0 => ?_, fun h => ?_⟩⟩
  · have ho := seqHpost_ordered s i.val 1 q.val hc
    exact ⟨_, exec_hostPost_done i q hc hm ha hu hn, State.posted_facts ho q.val _ _⟩
  · have ho := seqHpost_ordered s i.val 1 q.val hc
    obtain ⟨href, hseq, -⟩ := ho.refused (c := 1) (by decide)
    exact ⟨_, exec_hostPost_refused i q hc hm (State.hpostErr_invalid ha), href, hseq⟩
  · have ho := seqHpost_ordered s i.val 1 q.val hc
    obtain ⟨href, hseq, -⟩ := ho.refused (c := 2) (by decide)
    exact ⟨_, exec_hostPost_refused i q hc hm (State.hpostErr_full ha hu), href, hseq⟩
  · exact ⟨_, (exec_actCommands s i k hm).1, State.actWritten (seqActMbx_ordered s i.val 1 k.val hc) k {} _⟩
  · obtain ⟨hdone, hset, hreg, hrest⟩ := State.actWritten (seqActMbx_ordered s i.val 2 k.val hc) k
      { s.actSet k.val with writes := (s.actSet k.val).writes ++ [(s.dw seqActMbx 0, s.reg (mbxData seqActMbx 1))] } (actAppended (s.reg (SEQ_ACT_STAT.a k.val)) ((s.actSet k.val).writes.length + 1))
    refine ⟨_, exec_actAppend_done i hc hm (State.actAppendErr_none h1 hl ha), hdone, hset, ?_, ?_, hrest⟩
    · exact (congrArg (fldGet · SEQ_ACT_STAT.state) hreg).trans (actAppended_state _ _)
    · exact (congrArg (fldGet · SEQ_ACT_STAT.count) hreg).trans (actAppended_count _ hl)
  · obtain ⟨hdone, hset, hreg, hrest⟩ := State.actWritten (seqActMbx_ordered s i.val 3 k.val hc) k { s.actSet k.val with ctrl := BitVec.ofNat 32 (s.dw seqActMbx 0) } (actSealed (s.reg (SEQ_ACT_STAT.a k.val)))
    exact ⟨_, exec_actSeal_done i hc hm (State.actSealErr_none h1 hx hd), hdone, hset, (congrArg (fldGet · SEQ_ACT_STAT.state) hreg).trans (actSealed_state _), hrest⟩
  · obtain ⟨href, -, hacts⟩ := (seqActMbx_ordered s i.val 2 k.val hc).refused (c := 1) (by decide)
    exact ⟨_, (exec_act_sealed i hc hm h1).1, href, hacts⟩
  · obtain ⟨href, -, hacts⟩ := (seqActMbx_ordered s i.val 3 k.val hc).refused (c := 1) (by decide)
    exact ⟨_, (exec_act_sealed i hc hm h1).2, href, hacts⟩
  · refine s.answered_of seqQinsp 0 (q.val * 256 + k.val) _ ws hc ((exec_queueInspect s i q k hm).trans (congrArg _ ?_))
    exact (State.qinspReq_eq _ q k).trans (congrArg (Option.elim · _ _) h)
  · refine ⟨_, (exec_queueInspect s i q k hm).trans (congrArg _ ?_), s.queueInspect_beyond seqQinsp 0 (q.val * 256 + k.val) hc⟩
    exact (State.qinspReq_eq _ q k).trans (congrArg (Option.elim · _ _) (SeqSt.entryWords_beyond h))
  · exact State.dbgAnswered i q 0 hc hm h0 h1 rfl
  · exact State.dbgAnswered i q 1 hc hm h0 h1 rfl
  · exact State.dbgAnswered i q 2 hc hm h0 h1 rfl
  · exact ⟨_, (exec_timeActionFire q races hp h hl).trans (congrArg _ (State.act_note _ _ _ _ _ h7)), State.noted _ _ (s.phsDue_canonical hc)⟩
  · refine ⟨_, (exec_timeActionFire q races hp h hl).trans (congrArg _ (State.act_pulse _ _ _ _ _ h3)), ?_⟩
    rw [hmode]
    exact State.pinned _ _ _ (.inl rfl) (s.phsDue_canonical hc)
  · exact (exec_timeActionFire q races hp h hl).trans (congrArg _ (State.act_activate _ _ _ _ _ h6))
  · exact ⟨_, (exec_angleActionFire q races hp h).trans (congrArg _ (State.act_note _ _ _ _ _ h7)), State.noted _ _ (s.phsDue_canonical hc)⟩
  · refine ⟨_, (exec_angleActionFire q races hp h).trans (congrArg _ (State.act_pulse _ _ _ _ _ h3)), ?_⟩
    rw [hmode]
    exact State.pinned _ _ _ (.inr rfl) (s.phsDue_canonical hc)
  · exact exec_fire_none q races hp h
  · exact s.phsDue_quiet h
  · exact ⟨_, (next_live s _ hp).trans (congrArg _ (State.pulseFall_due h hf)), s.pin_setPin k.val f {} hc, fun j hj => s.pin_setPin_ne k.val f j {} hc hj, s.setPin_same k.val f {} hc,
      State.setPin_falls f⟩
  · exact (next_live s _ hp).trans (congrArg _ (State.pulseFall_none h))
  · have hx : exec (.watchdogExpiry q) s = .next (s.trap q.val 8 0) := (next_live s _ hp).trans (congrArg _ (if_pos h))
    rw [hx]
    exact State.traps_of s s q 8 0 hc h0 (by decide) (by decide) rfl rfl
  · exact (next_live s _ hp).trans (congrArg _ (if_neg (Bool.eq_false_iff.1 h)))

end Sys2Proof.Machine
end

section
/-! SUPPORT. The unused fields of an encoded word (05 R100), and the decoder on it. -/

namespace Sys2Proof

section
variable (op : Nat) (h : op < 64)
include h

theorem yU_unused : fz (yU op 0#4 0#16) 0 26 = true := by
  obtain ⟨-, hd, himm, hz⟩ := yU_fields op 0 0 h
  exact fz_join _ 0 22 4 (fz_join _ 0 16 6 (fz_of_fx _ _ _ himm) hz) (fz_of_fx _ _ _ hd)

theorem yU_unused_d (imm : BitVec 16) : fz (yU op 0#4 imm) 16 10 = true := by
  obtain ⟨-, hd, -, hz⟩ := yU_fields op 0 imm h
  exact fz_join _ 16 6 4 hz (fz_of_fx _ _ _ hd)

theorem yR_unused_b (d a : BitVec 4) : fz (yR op d a 0#4) 0 18 = true := by
  obtain ⟨-, -, -, hb, hz⟩ := yR_fields op d a 0 h
  exact fz_join _ 0 14 4 hz (fz_of_fx _ _ _ hb)

theorem yR_unused_ab (d : BitVec 4) : fz (yR op d 0#4 0#4) 0 22 = true := by
  obtain ⟨-, -, ha, -, -⟩ := yR_fields op d 0 0 h
  exact fz_join _ 0 18 4 (yR_unused_b op h d 0) (fz_of_fx _ _ _ ha)

theorem yT_unused_sel (tx ty : BitVec 2) (g : BitVec 4) : fz (yT op tx ty g 0#2) 0 18 = true := by
  obtain ⟨-, -, -, -, hsel, hz, hz0⟩ := yT_fields op tx ty g 0 h
  exact fz_join _ 0 16 2 (fz_join _ 0 14 2 hz0 (fz_of_fx _ _ _ hsel)) hz

theorem yT_unused_g (tx ty : BitVec 2) : fz (yT op tx ty 0#4 0#2) 0 22 = true := by
  obtain ⟨-, -, -, hg, -, -, -⟩ := yT_fields op tx ty 0 0 h
  exact fz_join _ 0 18 4 (yT_unused_sel op h tx ty 0) (fz_of_fx _ _ _ hg)

theorem yT_unused_ty (tx : BitVec 2) : fz (yT op tx 0#2 0#4 0#2) 0 24 = true := by
  obtain ⟨-, -, hty, -, -, -, -⟩ := yT_fields op tx 0 0 0 h
  exact fz_join _ 0 22 2 (yT_unused_g op h tx 0) (fz_of_fx _ _ _ hty)

theorem yT_unused_ty_g (tx sel : BitVec 2) : fz (yT op tx 0#2 0#4 sel) 16 8 = true := by
  obtain ⟨-, -, hty, hg, -, hz, -⟩ := yT_fields op tx 0 0 sel h
  exact fz_join _ 16 6 2 (fz_join _ 16 2 4 hz (fz_of_fx _ _ _ hg)) (fz_of_fx _ _ _ hty)

theorem yW_unused (p q : BitVec 2) (off : BitVec 18) : fz (yW op p q 0#2 0#2 off) 18 4 = true := by
  obtain ⟨-, -, -, hr, ht, -⟩ := yW_fields op p q 0 0 off h
  exact fz_join _ 18 2 2 (fz_of_fx _ _ _ ht) (fz_of_fx _ _ _ hr)

theorem yA_unused_dir (ax ay : BitVec 2) (g : BitVec 4) (pd : BitVec 2) : fz (yA op ax ay g pd 0#2) 0 16 = true := by
  obtain ⟨-, -, -, -, -, hdir, hz⟩ := yA_fields op ax ay g pd 0 h
  exact fz_join _ 0 14 2 hz (fz_of_fx _ _ _ hdir)

theorem yA_unused_pd (ax ay : BitVec 2) (g : BitVec 4) : fz (yA op ax ay g 0#2 0#2) 0 18 = true := by
  obtain ⟨-, -, -, -, hpd, -, -⟩ := yA_fields op ax ay g 0 0 h
  exact fz_join _ 0 16 2 (yA_unused_dir op h ax ay g 0) (fz_of_fx _ _ _ hpd)

theorem yA_unused_ay_g (ax pd dir : BitVec 2) : fz (yA op ax 0#2 0#4 pd dir) 18 6 = true := by
  obtain ⟨-, -, hay, hg, -, -, -⟩ := yA_fields op ax 0 0 pd dir h
  exact fz_join _ 18 4 2 (fz_of_fx _ _ _ hg) (fz_of_fx _ _ _ hay)

theorem yA_unused_ax_ay (g : BitVec 4) (pd dir : BitVec 2) : fz (yA op 0#2 0#2 g pd dir) 22 4 = true := by
  obtain ⟨-, hax, hay, -, -, -, -⟩ := yA_fields op 0 0 g pd dir h
  exact fz_join _ 22 2 2 (fz_of_fx _ _ _ hay) (fz_of_fx _ _ _ hax)

/-- The immediate of a shift: the amount in 4:0, the rest unused. -/
theorem yI_shift (d a : BitVec 4) (sh : BitVec 5) :
    fx (yI op d a (sh.setWidth 18)) 0 5 = sh ∧ fz (yI op d a (sh.setWidth 18)) 5 13 = true := by
  have hd := d.isLt
  have ha := a.isLt
  have hs := sh.isLt
  have himm : (sh.setWidth 18).toNat = sh.toNat := by rw [BitVec.toNat_setWidth]; omega
  unfold yI
  rw [himm]
  have hN : op * 2 ^ 26 + d.toNat * 2 ^ 22 + a.toNat * 2 ^ 18 + sh.toNat < 2 ^ 32 := by omega
  exact ⟨fx_of _ _ _ hN _ (by omega), fz_of _ _ _ hN (by omega)⟩

/-- The second field of WAITE: tt in 19:18, the rest unused. -/
theorem yI_timeout (g : BitVec 4) (tt : BitVec 2) (off : BitVec 18) :
    fx (yI op g (tt.setWidth 4) off) 18 2 = tt ∧ fz (yI op g (tt.setWidth 4) off) 20 2 = true := by
  have hg := g.isLt
  have ht := tt.isLt
  have ho := off.isLt
  have hf : (tt.setWidth 4).toNat = tt.toNat := by rw [BitVec.toNat_setWidth]; omega
  unfold yI
  rw [hf]
  have hN : op * 2 ^ 26 + g.toNat * 2 ^ 22 + tt.toNat * 2 ^ 18 + off.toNat < 2 ^ 32 := by omega
  exact ⟨fx_of _ _ _ hN _ (by omega), fz_of _ _ _ hN (by omega)⟩

end

/-- A bounded value comes back from a field that is wide enough for the bound. -/
theorem finOf_mod {n m : Nat} (hn : n ≤ m) (r : Fin n) : finOf n (r.val % m) = some r := by
  rw [Nat.mod_eq_of_lt (Nat.lt_of_lt_of_le r.isLt hn)]
  exact dif_pos r.isLt

end Sys2Proof

namespace Sys2Proof.Machine

/-- Settles O21: one case per row of the encoding table (05 R101), by the fields of its format; the sequencer is the instruction's own. -/
theorem yufenWordsRoundTrip : Obligations.YufenWordsRoundTrip := by
  unfold Obligations.YufenWordsRoundTrip
  intro i w h
  unfold encodeYufen at h
  split at h
  case h_59 => exact absurd h nofun
  all_goals obtain rfl := Option.some.inj h
  -- U: NOP, HALT, WDOG; TRAP; LUI
  case h_1 | h_2 | h_3 => exact ⟨‹Fin 8›, by simp [decodeYufen, yIf, yU_fields, yU_unused]⟩
  case h_4 => exact ⟨‹Fin 8›, by simp [decodeYufen, yIf, yU_fields, yU_unused_d]⟩
  case h_27 => exact ⟨‹Fin 8›, by simp [decodeYufen, yIf, yU_fields]⟩
  -- R: ADD to MUL, AMOADD, AMOSWAP; GRX; GID; GTX; GREL
  case h_6 | h_7 | h_8 | h_9 | h_10 | h_11 | h_12 | h_13 | h_14 | h_15 | h_16 => exact ⟨‹Fin 8›, by simp [decodeYufen, yIf, yR_fields]⟩
  case h_55 => exact ⟨‹Fin 8›, by simp [decodeYufen, yIf, yR_fields, yR_unused_ab]⟩
  case h_56 => exact ⟨‹Fin 8›, by simp [decodeYufen, yIf, yR_fields, yR_unused_b]⟩
  case h_57 => exact ⟨‹Fin 8›, by simp [decodeYufen, yIf, yR_fields, fz_of_fx]⟩
  case h_58 => exact ⟨‹Fin 8›, by simp [decodeYufen, yIf, yR_fields, fz_of_fx, yR_unused_b]⟩
  -- I and B: ADDI to XORI, LD, ST, JALR; BEQ to BGEU; RDS; SLLI to SRAI; WAITE; JAL in J; LDT and STT
  case h_17 | h_18 | h_19 | h_20 | h_21 | h_22 | h_23 => exact ⟨‹Fin 8›, by simp [decodeYufen, yI_fields]⟩
  case h_30 | h_31 | h_32 | h_33 | h_34 | h_35 => exact ⟨‹Fin 8›, by simp [decodeYufen, yI_fields]⟩
  case h_5 => exact ⟨‹Fin 8›, by simp [decodeYufen, yI_fields, fz_of_fx, finOf_mod]⟩
  case h_24 | h_25 | h_26 => exact ⟨‹Fin 8›, by simp [decodeYufen, yIf, yI_fields, yI_shift]⟩
  case h_54 => exact ⟨‹Fin 8›, by simp [decodeYufen, yIf, yI_fields, yI_timeout]⟩
  case h_36 => exact ⟨‹Fin 8›, by simp [decodeYufen, yJ_fields]⟩
  case h_28 | h_29 => exact ⟨‹Fin 8›, by simp [decodeYufen, yIf, yV_fields]⟩
  -- T: TGET; TADD, TSUB, TNEXT; TMOV; TEXT, TINS; POST; WAITT
  case h_37 => exact ⟨‹Fin 8›, by simp [decodeYufen, yIf, yT_fields, yT_unused_ty_g]⟩
  case h_38 | h_39 | h_43 => exact ⟨‹Fin 8›, by simp [decodeYufen, yIf, yT_fields, yT_unused_sel]⟩
  case h_40 => exact ⟨‹Fin 8›, by simp [decodeYufen, yIf, yT_fields, yT_unused_g]⟩
  case h_41 | h_42 => exact ⟨‹Fin 8›, by simp [decodeYufen, yIf, yT_fields, fz_of_fx]⟩
  case h_50 => exact ⟨‹Fin 8›, by simp [decodeYufen, yIf, yT_fields, fz_of_fx, yT_unused_sel]⟩
  case h_52 => exact ⟨‹Fin 8›, by simp [decodeYufen, yIf, yT_fields, yT_unused_ty]⟩
  -- TB and WA: TBLT; WAITA
  case h_44 => exact ⟨‹Fin 8›, by simp [decodeYufen, yIf, yW_fields, yW_unused]⟩
  case h_53 => exact ⟨‹Fin 8›, by simp [decodeYufen, yW_fields, finOf_mod]⟩
  -- A: AGET; ASET, AREAD; AADD; VGET; APOST
  case h_45 => exact ⟨‹Fin 8›, by simp [decodeYufen, yIf, yA_fields, yA_unused_ay_g, yA_unused_dir]⟩
  case h_46 | h_47 => exact ⟨‹Fin 8›, by simp [decodeYufen, yIf, yA_fields, fz_of_fx, yA_unused_pd]⟩
  case h_48 => exact ⟨‹Fin 8›, by simp [decodeYufen, yIf, yA_fields, yA_unused_pd]⟩
  case h_49 => exact ⟨‹Fin 8›, by simp [decodeYufen, yIf, yA_fields, yA_unused_ax_ay, yA_unused_dir]⟩
  case h_51 => exact ⟨‹Fin 8›, by simp [decodeYufen, yA_fields, fz_of_fx, finOf_mod]⟩

/-- Settles O22: the words are closed up to the sequencer, and so is their decoding. -/
theorem listedYufenWordsDecode : Obligations.ListedYufenWordsDecode := by
  unfold Obligations.ListedYufenWordsDecode
  intro sq
  exact ⟨rfl, rfl, rfl, rfl, rfl, rfl, rfl, rfl, rfl, rfl, rfl⟩

end Sys2Proof.Machine
end

section
/-! SUPPORT. A tick on which AGET meets a due observation of its domain (04 R84; 05 R101, R103). -/

namespace Sys2Proof.Machine

/-- Domain 0 is in LOST, an observation at the angle 5 is due on the present tick (04 R84), and sequencer 0 issues AGET a1, 0. -/
def agetOnObservation : State :=
  { ((State.reset.setF (SEQ_STAT.a 0) SEQ_STAT.state 1).setF (SEQ_PROG.a 0) SEQ_PROG.length 2).setF (PHS_STAT.a 0) PHS_STAT.state 4 with
    boot := { stage := 7 }
    now := 1
    seq := [(0, { wperiod := 10 })]
    win := memPut (fun _ => 0#8) [] (progAddr 0 0) (leBytes 4 (yA 0x30 1 0 0 0 0).toNat)
    phs := [(0, { queue := [⟨1, 5, 0, 0, false, false, false, 0⟩] })] }

theorem agetOnObservation_canonical : agetOnObservation.Canonical where
  __ := reset_canonical
  regs := by decide +kernel
  win := memPut_wf (Cells.wf_nil _) _ _
  seq := by decide
  phs := by decide

theorem agetOnObservation_issues : agetOnObservation.Issues 0 (yA 0x30 1 0 0 0 0) :=
  ⟨⟨by decide +kernel, by decide +kernel, by decide +kernel, by decide +kernel, by decide +kernel⟩, by decide +kernel⟩

/-- The observation is applied before AGET reads (04 R84, 05 R103): the domain is in ACQUIRE by then, and ws gets that state. -/
theorem agetOnObservation_ws : ∃ t : State, exec (.iAget 0 1 0) agetOnObservation = .next t ∧ (t.sq 0).ws = 1#32 :=
  ⟨_, rfl, by decide +kernel⟩

/-- Refutes O23: where an observation of the domain is due on the tick of an AGET, that observation is applied first (04 R84, 05 R103), so
ws gets the state that it leaves (here ACQUIRE) and not the state before the instruction (here LOST), as the statement has it. -/
theorem not_yufenComputesItsResults : ¬ Obligations.YufenComputesItsResults := by
  unfold Obligations.YufenComputesItsResults
  rintro ⟨-, htime⟩
  obtain ⟨-, -, -, -, -, -, -, -, haget, -⟩ := htime agetOnObservation 0 1 0 0 agetOnObservation_canonical
  obtain ⟨t, hexec, -, -, -, -, hws⟩ := haget 0 agetOnObservation_issues
  obtain ⟨u, hu, huws⟩ := agetOnObservation_ws
  obtain rfl : t = u := Host.Outcome.next.inj (hexec.symm.trans hu)
  have hlost : BitVec.ofNat 32 (agetOnObservation.phState 0) = 4#32 := by decide +kernel
  exact absurd (huws.symm.trans (hws.trans hlost)) (by decide)

end Sys2Proof.Machine
end

section
/-! SUPPORT. Table memory: what a word written reads back, and what an access of a sequencer leaves (05 R99, R102). -/

namespace Sys2Proof.Machine

theorem State.tblW_congr {s t : State} (h : t.win = s.win) (a : Nat) : t.tblW a = s.tblW a := by
  unfold State.tblW State.winW
  rw [h]

theorem State.tblB_congr {s t : State} (h : t.win = s.win) (a : Nat) : t.tblB a = s.tblB a := by
  unfold State.tblB
  rw [h]

theorem State.tblW_lt (s : State) (a : Nat) : s.tblW a < 2 ^ 32 := memGet_lt _ _ _ 4

theorem State.setTblW_canonical (s : State) (a v : Nat) (hc : s.Canonical) : (s.setTblW a v).Canonical :=
  (State.setTblW_keeps (State.Keeps.refl s) a v).canon hc

theorem State.tblW_setTblW (s : State) (a v : Nat) (hc : s.Canonical) (hv : v < 2 ^ 32) : (s.setTblW a v).tblW a = v :=
  (memGet_memPut hc.win _ 4 v).trans (Nat.mod_eq_of_lt hv)

theorem State.tblW_setTblW_ne (s : State) (a b v : Nat) (h : b + 4 ≤ a ∨ a + 4 ≤ b) : (s.setTblW a v).tblW b = s.tblW b :=
  memGet_memPut_out _ _ _ _ _ (by rw [leBytes_length]; omega)

theorem State.tblB_setTblW_ne (s : State) (a x v : Nat) (h : x < a ∨ a + 4 ≤ x) : (s.setTblW a v).tblB x = s.tblB x :=
  get_memPut_out _ _ _ _ (by rw [leBytes_length]; omega)

/-- R102: the three words of a time register. -/
theorem tregWords_eq (v : Nat) : tregWords v = [tSec v % 2 ^ 32, tFr v * 65536 + tSec v / 2 ^ 32, tNs v] := by
  unfold tregWords nbits tSec tFr tNs
  simp only [List.cons.injEq, and_true]
  omega

/-- The state with the three words of a time register at `a` (05 R102). -/
def State.setTblTime (s : State) (a v : Nat) : State :=
  ((s.setTblW a (tSec v % 2 ^ 32)).setTblW (a + 4) (tFr v * 65536 + tSec v / 2 ^ 32)).setTblW (a + 8) (tNs v)

theorem State.setTblTime_facts (s : State) (a v : Nat) (hc : s.Canonical) : (s.setTblTime a v).tblW a = tSec v % 2 ^ 32 ∧
    (s.setTblTime a v).tblW (a + 4) = tFr v * 65536 + tSec v / 2 ^ 32 ∧ (s.setTblTime a v).tblW (a + 8) = tNs v ∧
    ∀ x, x < a ∨ a + 12 ≤ x → (s.setTblTime a v).tblB x = s.tblB x := by
  have h1 := s.setTblW_canonical a (tSec v % 2 ^ 32) hc
  have h2 := State.setTblW_canonical _ (a + 4) (tFr v * 65536 + tSec v / 2 ^ 32) h1
  have hfr : tFr v * 65536 + tSec v / 2 ^ 32 < 2 ^ 32 := by unfold tFr tSec; omega
  have hns : tNs v < 2 ^ 32 := by unfold tNs; omega
  unfold State.setTblTime
  refine ⟨?_, ?_, State.tblW_setTblW _ _ _ h2 hns, fun x hx => ?_⟩
  · rw [State.tblW_setTblW_ne _ _ _ _ (by omega), State.tblW_setTblW_ne _ _ _ _ (by omega), State.tblW_setTblW _ _ _ hc (Nat.mod_lt _ (by decide))]
  · rw [State.tblW_setTblW_ne _ _ _ _ (by omega), State.tblW_setTblW _ _ _ h1 hfr]
  · rw [State.tblB_setTblW_ne _ _ _ _ (by omega), State.tblB_setTblW_ne _ _ _ _ (by omega), State.tblB_setTblW_ne _ _ _ _ (by omega)]

/-- The state in which a table access acts: the issue noted, the wait of its arbitration drawn (05 R99). -/
def State.yDrawn (s : State) (n : Nat) : State := (s.yBegin n).fresh.2

theorem State.yDrawn_gr (s : State) (n : Nat) (k : BitVec 4) (hc : s.Canonical) : (s.yDrawn n).gr n k = s.gr n k := s.yBegin_gr n k hc

theorem State.yBegin_addr (s : State) (n : Nat) (a : BitVec 4) (imm : BitVec 18) (hc : s.Canonical) :
    (s.yBegin n).yAddr n a imm = (s.gr n a + imm.signExtend 32).toNat := by
  unfold State.yAddr
  rw [s.yBegin_gr n a hc]

/-- A set sequencer forgets the issue that was noted in it. -/
theorem State.setSq_begun (s u : State) (n : Nat) (y : SeqSt) (hu : u.seq = (s.yBegin n).seq) (hc : s.Canonical) :
    u.setSq n y = ({ u with seq := s.seq } : State).setSq n y := by
  unfold State.setSq
  dsimp only
  rw [hu]
  exact congrArg (fun m => ({ u with seq := m } : State)) (Cells.set_set hc.seq _ _ _)

theorem State.setGr_zero (s : State) (n : Nat) (v : Word) : s.setGr n 0#4 v = s := if_pos rfl

section
variable {s : State} {q : Fin 8} {w : Word} {f g : State → State} {c p size : Nat} {store : Bool}

/-- A table access that no trap stops, with the table memory `mem` that it leaves and `v` in general register `d`, or nowhere if that is g0. -/
theorem State.Issues.access (h : s.Issues q.val w) (hc : s.Canonical) (hw : s.InWindow q.val p size store) (d : BitVec 4) (v : Word) (mem : Cells Byte)
    (hf : f (s.yBegin q.val) = (s.yBegin q.val).yTable q.val p size store c g) (hg : g (s.yDrawn q.val) = ({ s.yDrawn q.val with win := mem } : State).setGr q.val d v) :
    ∃ t : State, Host.Outcome.next (s.yIssue q.val w f) = (.next t : Host.Outcome State Fault Refusal) ∧ s.RanTable t q.val c ∧ t.win = mem ∧
      (∀ k, t.gr q.val k = if k = d ∧ d ≠ 0#4 then v else s.gr q.val k) ∧ (d = 0#4 → (t.sq q.val).g = (s.sq q.val).g) ∧ (t.sq q.val).t = (s.sq q.val).t := by
  obtain ⟨t, ht, hran, hwin, hregs, htimes⟩ := yufen_table h hc f c g
    { s.sq q.val with cyc := s.yCycle q.val, g := if d = 0#4 then (s.sq q.val).g else (s.sq q.val).g.setIfInBounds d.toNat v } mem p size store hw hf
    (fun u hu => by
      subst hu
      exact hg.trans (yufen_setGr_as s _ q.val d v rfl hc)) rfl
  exact ⟨t, ht, hran, hwin, yufen_gr_of t s q.val d v hregs, fun hd => hregs.trans (if_pos hd), htimes⟩

/-- A table access that no trap stops and that puts `v` in time register `d`. -/
theorem State.Issues.accessTime (h : s.Issues q.val w) (hc : s.Canonical) (hw : s.InWindow q.val p size store) (d : BitVec 2) (v : Nat) (hv : v < 2 ^ 96)
    (hf : f (s.yBegin q.val) = (s.yBegin q.val).yTable q.val p size store c g) (hg : g (s.yDrawn q.val) = (s.yDrawn q.val).setTr q.val d v) :
    ∃ t : State, Host.Outcome.next (s.yIssue q.val w f) = (.next t : Host.Outcome State Fault Refusal) ∧ s.RanTable t q.val c ∧ t.win = s.win ∧
      (t.sq q.val).g = (s.sq q.val).g ∧ ∀ k, t.tr q.val k = if k = d then v else s.tr q.val k := by
  obtain ⟨t, ht, hran, hwin, hregs, htimes⟩ := yufen_table h hc f c g
    { s.sq q.val with cyc := s.yCycle q.val, t := (s.sq q.val).t.setIfInBounds d.toNat (BitVec.ofNat 96 v) } s.win p size store hw hf
    (fun u hu => by
      subst hu
      have hsq : (s.yDrawn q.val).sq q.val = { s.sq q.val with cyc := s.yCycle q.val } := s.yBegin_sq q.val hc
      refine hg.trans ?_
      unfold State.setTr
      rw [hsq]
      exact State.setSq_begun s _ q.val _ rfl hc) rfl
  refine ⟨t, ht, hran, hwin, hregs, fun k => ?_⟩
  unfold State.tr SeqSt.treg
  rw [htimes, getD_setIn _ _ _ _ _ d.isLt]
  by_cases hk : k = d
  · rw [if_pos hk, if_pos (congrArg BitVec.toNat hk.symm), BitVec.toNat_ofNat, Nat.mod_eq_of_lt hv]
  · rw [if_neg hk, if_neg fun e => hk (BitVec.eq_of_toNat_eq e.symm)]

/-- An instruction that traps where it acts. -/
theorem State.Holds.traps (h : s.Holds q.val w) (hc : s.Canonical) (h0 : s.f (SEQ_WDOG.a q.val) SEQ_WDOG.trap_action = 0) {code user : Nat} (h1 : code < 256) (h2 : user < 65536)
    (hf : f (s.yBegin q.val) = (s.yBegin q.val).trap q.val code user) : s.Traps (.next (s.yIssue q.val w f)) q.val code user := by
  rw [h.run, hf]
  refine State.traps_of s (s.yBegin q.val) q code user (s.yBegin_canon q.val hc) h0 h1 h2 rfl ?_
  rw [s.yBegin_sq q.val hc]

end

theorem State.yTable_trap {s : State} {n a size k : Nat} {store : Bool} (h : s.tblTrap n a size store = some k) (c : Nat) (f : State → State) :
    s.yTable n a size store c f = s.trap n k 0 := by
  unfold State.yTable
  rw [h]

theorem State.tblTrap_misaligned (s : State) {n a : Nat} (size : Nat) (store : Bool) (h : a % 4 ≠ 0) : s.tblTrap n a size store = some 3 := if_pos h

theorem State.tblTrap_outside (s : State) {n a size : Nat} (store : Bool) (ha : a % 4 = 0)
    (h : a < s.f (SEQ_TWIN_LO.a n) SEQ_TWIN_LO.twin_lo ∨ s.f (SEQ_TWIN_HI.a n) SEQ_TWIN_HI.twin_hi < a + size) : s.tblTrap n a size store = some 4 := by
  unfold State.tblTrap
  rw [if_neg (by omega), if_pos (by omega)]

/-! ### The instructions of table memory -/

section
variable {s : State} {q : Fin 8} {d a b : BitVec 4} {tx : BitVec 2} {imm : BitVec 18} (hc : s.Canonical)
include hc

theorem State.exec_ld (h : s.Issues q.val (yI 0x19 d a imm)) (hw : s.InWindow q.val (s.gr q.val a + imm.signExtend 32).toNat 4 false) :
    ∃ t : State, exec (.iLd q d a imm) s = .next t ∧ s.RanTable t q.val 2 ∧ t.win = s.win ∧
      (∀ k, t.gr q.val k = if k = d ∧ d ≠ 0#4 then BitVec.ofNat 32 (s.tblW (s.gr q.val a + imm.signExtend 32).toNat) else s.gr q.val k) ∧ (t.sq q.val).t = (s.sq q.val).t := by
  obtain ⟨t, ht, hran, hwin, hgr, -, htimes⟩ := h.access hc hw d _ s.win (f := fun u => u.yLd q.val d a imm)
    (by unfold State.yLd; dsimp only; rw [s.yBegin_addr q.val a imm hc]) rfl
  exact ⟨t, ht, hran, hwin, hgr, htimes⟩

theorem State.exec_ld_traps {k : Nat} (h : s.Holds q.val (yI 0x19 d a imm)) (h0 : s.f (SEQ_WDOG.a q.val) SEQ_WDOG.trap_action = 0) (hk : k < 256)
    (ht : s.tblTrap q.val (s.gr q.val a + imm.signExtend 32).toNat 4 false = some k) : s.Traps (exec (.iLd q d a imm) s) q.val k 0 :=
  h.traps hc h0 hk (by decide) (by
    unfold State.yLd
    dsimp only
    rw [s.yBegin_addr q.val a imm hc]
    exact State.yTable_trap (s := s.yBegin q.val) ht _ _)

theorem State.exec_st (h : s.Issues q.val (yI 0x1A d a imm)) (hw : s.InWindow q.val (s.gr q.val a + imm.signExtend 32).toNat 4 true) :
    ∃ t : State, exec (.iSt q d a imm) s = .next t ∧ s.RanTable t q.val 2 ∧ (t.sq q.val).g = (s.sq q.val).g ∧ (t.sq q.val).t = (s.sq q.val).t ∧
      t.win = (s.setTblW (s.gr q.val a + imm.signExtend 32).toNat (s.gr q.val d).toNat).win := by
  obtain ⟨t, ht, hran, hwin, -, hg, htimes⟩ := h.access hc hw 0#4 0#32 (s.setTblW (s.gr q.val a + imm.signExtend 32).toNat (s.gr q.val d).toNat).win (f := fun u => u.ySt q.val d a imm)
    (by unfold State.ySt; dsimp only; rw [s.yBegin_addr q.val a imm hc]) (by dsimp only; rw [State.setGr_zero, s.yDrawn_gr q.val d hc]; rfl)
  exact ⟨t, ht, hran, hg rfl, htimes, hwin⟩

theorem State.exec_stt (h : s.Issues q.val (yV 0x1C tx a imm)) (hw : s.InWindow q.val (s.gr q.val a + imm.signExtend 32).toNat 12 true) :
    ∃ t : State, exec (.iStt q tx a imm) s = .next t ∧ s.RanTable t q.val 4 ∧ (t.sq q.val).g = (s.sq q.val).g ∧ (t.sq q.val).t = (s.sq q.val).t ∧
      t.win = (s.setTblTime (s.gr q.val a + imm.signExtend 32).toNat (s.tr q.val tx)).win := by
  obtain ⟨t, ht, hran, hwin, -, hg, htimes⟩ := h.access hc hw 0#4 0#32 (s.setTblTime (s.gr q.val a + imm.signExtend 32).toNat (s.tr q.val tx)).win (f := fun u => u.yStt q.val tx a imm)
    (by unfold State.yStt; dsimp only; rw [s.yBegin_addr q.val a imm hc, s.yBegin_tr q.val tx hc, tregWords_eq]) (by dsimp only; rw [State.setGr_zero]; rfl)
  exact ⟨t, ht, hran, hg rfl, htimes, hwin⟩

/-- LDT from three words whose nanoseconds are below 10^9. -/
theorem State.exec_ldt (h : s.Issues q.val (yV 0x1B tx a imm)) {p : Nat} (hp : (s.gr q.val a + imm.signExtend 32).toNat = p) (hw : s.InWindow q.val p 12 false)
    (hn : s.tblW (p + 8) % 2 ^ 30 < 1000000000) :
    ∃ t : State, exec (.iLdt q tx a imm) s = .next t ∧ s.RanTable t q.val 4 ∧ t.win = s.win ∧ (t.sq q.val).g = (s.sq q.val).g ∧
      ∀ k, t.tr q.val k = if k = tx then tbits (s.tblW p + s.tblW (p + 4) % 65536 * 2 ^ 32) (s.tblW (p + 8) % 2 ^ 30) (s.tblW (p + 4) / 65536) else s.tr q.val k := by
  have hfr : s.tblW (p + 4) / 65536 < 65536 := by have := s.tblW_lt (p + 4); omega
  refine h.accessTime hc hw tx _ (tbits_lt _ _ _) (f := fun u => u.yLdt q.val tx a imm) (g := fun u => u.setTr q.val tx
    (tbits (s.tblW p + s.tblW (p + 4) % 65536 * 2 ^ 32) (s.tblW (p + 8) % 2 ^ 30) (s.tblW (p + 4) / 65536))) ?_ rfl
  have hwords : ∀ x, (s.yBegin q.val).tblW x = s.tblW x := fun x => rfl
  unfold State.yLdt timeOf12
  dsimp only
  rw [s.yBegin_addr q.val a imm hc, hp]
  simp only [hwords, hn, decide_true, Bool.not_true, Bool.and_false, Bool.false_eq_true, if_false]
  rw [clockT_mkTime _ _ _ hn hfr, Nat.add_comm]

theorem State.exec_ldt_traps (h : s.Issues q.val (yV 0x1B tx a imm)) {p : Nat} (hp : (s.gr q.val a + imm.signExtend 32).toNat = p) (hw : s.InWindow q.val p 12 false)
    (hn : 1000000000 ≤ s.tblW (p + 8) % 2 ^ 30) (h0 : s.f (SEQ_WDOG.a q.val) SEQ_WDOG.trap_action = 0) : s.Traps (exec (.iLdt q tx a imm) s) q.val 5 0 :=
  h.holds.traps hc h0 (by decide) (by decide) (by
    have hno : (s.yBegin q.val).tblTrap q.val p 12 false = none := yufen_trapNone (s := s) hw
    have hbad : decide ((s.yBegin q.val).tblW (p + 8) % 2 ^ 30 < 1000000000) = false := decide_eq_false (Nat.not_lt.2 hn)
    unfold State.yLdt timeOf12
    dsimp only
    rw [s.yBegin_addr q.val a imm hc, hp, hno, hbad]
    rfl)

/-- R99: an indivisible access, with the old word in `d` and `f old` in its place. -/
theorem State.Issues.amo {w : Word} {i : State → State} (h : s.Issues q.val w) {p : Nat} (hp : (s.gr q.val a).toNat = p) (hw : s.InWindow q.val p 4 true) (f : Word → Word)
    (hi : i (s.yBegin q.val) = (s.yBegin q.val).yAmo q.val d a f) :
    ∃ t : State, Host.Outcome.next (s.yIssue q.val w i) = (.next t : Host.Outcome State Fault Refusal) ∧ s.RanTable t q.val 3 ∧
      (∀ k, t.gr q.val k = if k = d ∧ d ≠ 0#4 then BitVec.ofNat 32 (s.tblW p) else s.gr q.val k) ∧
      t.tblW p = (f (BitVec.ofNat 32 (s.tblW p))).toNat ∧ ∀ x, x < p ∨ p + 4 ≤ x → t.tblB x = s.tblB x := by
  obtain ⟨t, ht, hran, hwin, hgr, -, -⟩ := h.access hc hw d (BitVec.ofNat 32 (s.tblW p)) (s.setTblW p (f (BitVec.ofNat 32 (s.tblW p))).toNat).win
    (hi.trans (by unfold State.yAmo; dsimp only; rw [s.yBegin_gr q.val a hc, hp])) rfl
  exact ⟨t, ht, hran, hgr, (State.tblW_congr hwin p).trans (s.tblW_setTblW p _ hc (BitVec.isLt _)),
    fun x hx => (State.tblB_congr hwin x).trans (s.tblB_setTblW_ne p x _ hx)⟩

end

end Sys2Proof.Machine
end

section
/-! SUPPORT. Control flow of the sequencers, and table memory with it (05 R97 to R99, R101, R102, R114). -/

namespace Sys2Proof.Machine

section
variable {s : State} {q : Fin 8} {d a b : BitVec 4} {x y : BitVec 2} {off : BitVec 18} (hc : s.Canonical)
include hc

theorem State.exec_beq (h : s.Holds q.val (yI 0x20 a b off)) : s.Branches (exec (.iBeq q a b off) s) q.val (s.gr q.val a = s.gr q.val b) off :=
  yufen_branches h hc (fun u => u.yBeq q.val a b off) _ _ off beq_iff_eq (by unfold State.yBeq; rw [s.yBegin_gr q.val a hc, s.yBegin_gr q.val b hc])

theorem State.exec_bne (h : s.Holds q.val (yI 0x21 a b off)) : s.Branches (exec (.iBne q a b off) s) q.val (s.gr q.val a ≠ s.gr q.val b) off :=
  yufen_branches h hc (fun u => u.yBne q.val a b off) _ _ off bne_iff_ne (by unfold State.yBne; rw [s.yBegin_gr q.val a hc, s.yBegin_gr q.val b hc])

theorem State.exec_blt (h : s.Holds q.val (yI 0x22 a b off)) : s.Branches (exec (.iBlt q a b off) s) q.val ((s.gr q.val a).toInt < (s.gr q.val b).toInt) off :=
  yufen_branches h hc (fun u => u.yBlt q.val a b off) _ _ off BitVec.slt_iff_toInt_lt (by unfold State.yBlt; rw [s.yBegin_gr q.val a hc, s.yBegin_gr q.val b hc])

theorem State.exec_bge (h : s.Holds q.val (yI 0x23 a b off)) : s.Branches (exec (.iBge q a b off) s) q.val ((s.gr q.val b).toInt ≤ (s.gr q.val a).toInt) off :=
  yufen_branches h hc (fun u => u.yBge q.val a b off) (!((s.gr q.val a).slt (s.gr q.val b))) _ off (by simp [BitVec.slt])
    (by unfold State.yBge; rw [s.yBegin_gr q.val a hc, s.yBegin_gr q.val b hc])

theorem State.exec_bltu (h : s.Holds q.val (yI 0x24 a b off)) : s.Branches (exec (.iBltu q a b off) s) q.val ((s.gr q.val a).toNat < (s.gr q.val b).toNat) off :=
  yufen_branches h hc (fun u => u.yBltu q.val a b off) _ _ off BitVec.ult_iff_lt (by unfold State.yBltu; rw [s.yBegin_gr q.val a hc, s.yBegin_gr q.val b hc])

theorem State.exec_bgeu (h : s.Holds q.val (yI 0x25 a b off)) : s.Branches (exec (.iBgeu q a b off) s) q.val ((s.gr q.val b).toNat ≤ (s.gr q.val a).toNat) off :=
  yufen_branches h hc (fun u => u.yBgeu q.val a b off) (!((s.gr q.val a).ult (s.gr q.val b))) _ off (by simp [BitVec.ult])
    (by unfold State.yBgeu; rw [s.yBegin_gr q.val a hc, s.yBegin_gr q.val b hc])

theorem State.exec_tblt (h : s.Holds q.val (yW 0x2F x y 0 0 off)) : s.Branches (exec (.iTblt q x y off) s) q.val (tVal (s.tr q.val x) < tVal (s.tr q.val y)) off :=
  yufen_branches h hc (fun u => u.yTblt q.val x y off) _ _ off decide_eq_true_iff (by unfold State.yTblt; rw [s.yBegin_tr q.val x hc, s.yBegin_tr q.val y hc])

theorem State.exec_jal {off : BitVec 22} (h : s.Holds q.val (yJ 0x26 d off)) (h0 : 0 ≤ (s.seqPc q.val : Int) + off.toInt) (h1 : (s.seqPc q.val : Int) + off.toInt < s.progLen q.val) :
    ∃ t : State, exec (.iJal q d off) s = .next t ∧ s.Ran t q.val ((s.seqPc q.val : Int) + off.toInt).toNat 2 ∧
      ∀ k, t.gr q.val k = if k = d ∧ d ≠ 0#4 then BitVec.ofNat 32 (s.seqPc q.val + 1) else s.gr q.val k :=
  yufen_links h hc (fun u => u.yJal q.val d off) d _ _ 2 (by omega) (by rw [Int.toNat_of_nonneg h0]; rfl)

theorem State.exec_jalr (h : s.Holds q.val (yI 0x27 d a off)) (h1 : (s.gr q.val a + off.signExtend 32).toNat < s.progLen q.val) :
    ∃ t : State, exec (.iJalr q d a off) s = .next t ∧ s.Ran t q.val (s.gr q.val a + off.signExtend 32).toNat 2 ∧
      ∀ k, t.gr q.val k = if k = d ∧ d ≠ 0#4 then BitVec.ofNat 32 (s.seqPc q.val + 1) else s.gr q.val k :=
  yufen_links h hc (fun u => u.yJalr q.val d a off) d _ _ 2 h1 (by unfold State.yJalr; rw [s.yBegin_gr q.val a hc, s.yBegin_pc])

theorem State.exec_nop (h : s.Issues q.val (yU 0x01 0 0)) : s.Jumps (exec (.iNop q) s) q.val (s.seqPc q.val + 1) 1 :=
  yufen_jumps h.holds hc (fun u => u.yNop q.val) _ 1 h.inside rfl

end

/-- Settles O24: each access by the table memory that it leaves, each branch by its condition, each jump by its target. -/
theorem yufenMemoryAndFlow : Obligations.YufenMemoryAndFlow := by
  unfold Obligations.YufenMemoryAndFlow
  refine ⟨fun s q d a b tx imm hc => ?_, fun s q d a b x y off hc => ⟨s.exec_beq hc, s.exec_bne hc, s.exec_blt hc, s.exec_bge hc, s.exec_bltu hc, s.exec_bgeu hc,
    s.exec_tblt hc, fun _ => s.exec_jal hc, s.exec_jalr hc, s.exec_nop hc⟩⟩
  dsimp only
  refine ⟨State.exec_ld hc, fun h hw => ?_, fun h hw => ⟨State.exec_ldt hc h rfl hw, State.exec_ldt_traps hc h rfl hw⟩, fun h hw => ?_, fun h hw => ?_, fun h hw => ?_,
    fun h h0 => ⟨fun hp => ?_, fun hp hout => ?_⟩⟩
  · obtain ⟨t, ht, hran, hg, htimes, hwin⟩ := State.exec_st hc h hw
    exact ⟨t, ht, hran, hg, htimes, (State.tblW_congr hwin _).trans (s.tblW_setTblW _ _ hc (BitVec.isLt _)),
      fun x hx => (State.tblB_congr hwin x).trans (s.tblB_setTblW_ne _ x _ hx)⟩
  · obtain ⟨t, ht, hran, hg, htimes, hwin⟩ := State.exec_stt hc h hw
    obtain ⟨h0, h4, h8, hrest⟩ := s.setTblTime_facts (s.gr q.val a + imm.signExtend 32).toNat (s.tr q.val tx) hc
    exact ⟨t, ht, hran, hg, htimes, (State.tblW_congr hwin _).trans h0, (State.tblW_congr hwin _).trans h4, (State.tblW_congr hwin _).trans h8,
      fun x hx => (State.tblB_congr hwin x).trans (hrest x hx)⟩
  · exact h.amo hc rfl hw (fun old => old + s.gr q.val b) (i := fun u => u.yAmoadd q.val d a b) (by unfold State.yAmoadd; rw [s.yBegin_gr q.val b hc])
  · exact h.amo hc rfl hw (fun _ => s.gr q.val b) (i := fun u => u.yAmoswap q.val d a b) (by unfold State.yAmoswap; rw [s.yBegin_gr q.val b hc])
  · exact State.exec_ld_traps hc h h0 (by decide) (s.tblTrap_misaligned 4 false hp)
  · exact State.exec_ld_traps hc h h0 (by decide) (s.tblTrap_outside false hp hout)

end Sys2Proof.Machine
end

section
/-! SUPPORT. Posts, control and gateway instructions (05 R109 to R115, 06 R121): what each leaves before the step to the next word. -/

namespace Sys2Proof.Machine

/-- An instruction that leaves `v` and steps on, with what the step itself touches. -/
theorem State.Issues.steps {s v : State} {n c : Nat} {w : Word} {f : State → State} (h : s.Issues n w) (hv : v.Canonical) (hstat : v.reg (SEQ_STAT.a n) = s.reg (SEQ_STAT.a n))
    (hf : f (s.yBegin n) = (s.yBegin n).yNext n c v) : ∃ t : State, Host.Outcome.next (s.yIssue n w f) = (.next t : Host.Outcome State Fault Refusal) ∧ t.seqPc n = s.seqPc n + 1 ∧
      t.sq n = { v.sq n with cyc := (v.sq n).cyc + c } ∧ t = { v with regs := t.regs, seq := t.seq } ∧ (∀ m, m ≠ n → t.sq m = v.sq m) ∧ ∀ a, a ≠ SEQ_STAT.a n → t.reg a = v.reg a := by
  obtain ⟨hrun, hpc, hsq, hreg⟩ := yufen_stepsOn h f (v.sq n) c hv rfl hstat hf
  refine ⟨_, congrArg _ hrun, hpc, hsq, yufen_yCost_rest v n _ c, fun m hm => ?_, hreg⟩
  exact (State.sq_setSq_ne _ _ _ _ hm).trans rfl

/-! ### Posts -/

/-- In `t` sequencer `n` has stepped on over a post that leaves `y` of it, with one more entry in its queue; nothing else has changed. -/
def State.Posted (s t : State) (n : Nat) (y : SeqSt) : Prop :=
  t.seqPc n = s.seqPc n + 1 ∧ t.sq n = y ∧ fldGet (t.reg (SEQ_QSTAT.a n)) SEQ_QSTAT.used = (s.sq n).used + 1 ∧ t = { s with regs := t.regs, seq := t.seq } ∧
  (∀ m, m ≠ n → t.sq m = s.sq m) ∧ ∀ a, a ≠ SEQ_STAT.a n → a ≠ SEQ_QSTAT.a n → t.reg a = s.reg a

theorem State.Issues.posts {s : State} {n : Nat} {w : Word} {f : State → State} (h : s.Issues n w) (hc : s.Canonical) (hu : (s.sq n).used < 256) (x : SeqSt)
    (hx : x.used = (s.sq n).used + 1) (hf : f (s.yBegin n) = (s.yBegin n).yNext n 2 ((s.yBegin n).setQ n x)) :
    ∃ t : State, Host.Outcome.next (s.yIssue n w f) = (.next t : Host.Outcome State Fault Refusal) ∧ s.Posted t n { x with cyc := x.cyc + 2 } := by
  have hB := s.yBegin_canon n hc
  have hne : SEQ_STAT.a n ≠ SEQ_QSTAT.a n := by unfold SEQ_STAT.a SEQ_QSTAT.a; omega
  obtain ⟨t, ht, hpc, hsq, hsame, hothers, hreg⟩ := h.steps ((State.setQ_keeps (State.Keeps.refl _) n x).canon hB) (State.reg_setFs_ne _ _ _ _ hne) hf
  refine ⟨t, ht, hpc, ?_, ?_, hsame, fun m hm => ?_, fun a h1 h2 => ?_⟩
  · rw [hsq, State.sq_setQ _ n x hB]
  · rw [hreg _ hne.symm, ← hx]
    exact yufen_setQ_used _ n x hB (by omega)
  · rw [hothers m hm, State.sq_setQ_ne _ _ _ _ hm]
    exact State.sq_setSq_ne _ _ _ _ hm
  · exact (hreg a h1).trans (State.reg_setFs_ne _ _ _ _ h2)

/-- A sequencer with a time entry posted at SEQ cycle `c`. -/
def SeqSt.postedTime (y : SeqSt) (c : Nat) (e : TEnt) : SeqSt := { y with cyc := c, post := y.post + 1, tq := insEnt e y.tq }

/-- A sequencer with an angle entry posted at SEQ cycle `c`. -/
def SeqSt.postedAngle (y : SeqSt) (c : Nat) (e : AEnt) : SeqSt := { y with cyc := c, post := y.post + 1, aq := y.aq ++ [e] }

theorem SeqSt.used_postedTime (y : SeqSt) (c : Nat) (e : TEnt) : (y.postedTime c e).used = y.used + 1 := by
  show (insEnt e y.tq).length + y.aq.length = y.tq.length + y.aq.length + 1
  rw [yufen_insEnt_length]
  omega

theorem SeqSt.used_postedAngle (y : SeqSt) (c : Nat) (e : AEnt) : (y.postedAngle c e).used = y.used + 1 := by
  unfold SeqSt.used SeqSt.postedAngle
  rw [List.length_append]
  rfl

theorem State.yPost_invalid {u : State} {n : Nat} {x : BitVec 2} {g : BitVec 4} (ha : actionOk (u.gr n g).toNat = false) : u.yPost n x g = u.trap n 6 0 := by
  unfold State.yPost
  dsimp only
  rw [ha]
  rfl

theorem State.yPost_full {u : State} {n : Nat} {x : BitVec 2} {g : BitVec 4} (ha : actionOk (u.gr n g).toNat = true) (hu : 256 ≤ (u.sq n).used) :
    u.yPost n x g = u.trap n 7 0 := by
  unfold State.yPost
  dsimp only
  rw [ha]
  exact if_pos hu

theorem State.yPost_room {u : State} {n : Nat} {x : BitVec 2} {g : BitVec 4} (ha : actionOk (u.gr n g).toNat = true) (hu : (u.sq n).used < 256) :
    u.yPost n x g = u.yNext n 2 (u.postTime n (u.gr n g) (tClock (u.tr n x))) := by
  unfold State.yPost
  dsimp only
  rw [ha]
  exact if_neg (Nat.not_le.2 hu)

theorem State.yApost_room {u : State} {n : Nat} {x : BitVec 2} {g : BitVec 4} {pd : BitVec 2} {dir : Fin 3} (ha : actionOk (u.gr n g).toNat = true) (hu : (u.sq n).used < 256) :
    u.yApost n x g pd dir = u.yNext n 2 (u.postAngle n (u.gr n g) pd.toNat dir.val (u.ar n x).toNat ((u.sq n).start + (((u.sq n).cyc + 2) * 5 - 1) / 16)) := by
  unfold State.yApost
  dsimp only
  rw [ha]
  exact if_neg (Nat.not_le.2 hu)

section
variable {s : State} {q : Fin 8} {x : BitVec 2} {g : BitVec 4} (hc : s.Canonical)
include hc

theorem State.exec_post (ha : actionOk (s.gr q.val g).toNat = true) (hu : (s.sq q.val).used < 256) (h : s.Issues q.val (yT 0x35 x 0 g 0)) :
    ∃ t : State, exec (.iPost q x g) s = .next t ∧ s.Posted t q.val ((s.sq q.val).postedTime (s.yCycle q.val + 2)
      ⟨s.gr q.val g, tClock (s.tr q.val x), (s.sq q.val).post, s.now, decide (tClock (s.tr q.val x) < s.tim.wkt + 16 * 4294967296), none⟩) := by
  have hgr := s.yBegin_gr q.val g hc
  have htr := s.yBegin_tr q.val x hc
  have hsq := s.yBegin_sq q.val hc
  refine h.posts hc hu ((s.sq q.val).postedTime (s.yCycle q.val) _) (SeqSt.used_postedTime _ _ _) (f := fun u => u.yPost q.val x g)
    ((State.yPost_room (hgr.symm ▸ ha) (hsq.symm ▸ hu)).trans ?_)
  unfold State.postTime
  rw [hgr, htr, hsq]
  rfl

theorem State.exec_apost {pd : BitVec 2} {dir : Fin 3} (ha : actionOk (s.gr q.val g).toNat = true) (hu : (s.sq q.val).used < 256)
    (h : s.Issues q.val (yA 0x36 x 0 g pd (BitVec.ofNat 2 dir.val))) : ∃ t : State, exec (.iApost q x g pd dir) s = .next t ∧ s.Posted t q.val
      ((s.sq q.val).postedAngle (s.yCycle q.val + 2)
        ⟨s.gr q.val g, pd.toNat, dir.val, (s.ar q.val x).toNat, (s.sq q.val).post, (s.sq q.val).start + ((s.yCycle q.val + 2) * 5 - 1) / 16⟩) := by
  have hgr := s.yBegin_gr q.val g hc
  have har := s.yBegin_ar q.val x hc
  have hsq := s.yBegin_sq q.val hc
  refine h.posts hc hu ((s.sq q.val).postedAngle (s.yCycle q.val) _) (SeqSt.used_postedAngle _ _ _) (f := fun u => u.yApost q.val x g pd dir)
    ((State.yApost_room (hgr.symm ▸ ha) (hsq.symm ▸ hu)).trans ?_)
  unfold State.postAngle
  rw [hgr, har, hsq]
  rfl

variable (h0 : s.f (SEQ_WDOG.a q.val) SEQ_WDOG.trap_action = 0) (h : s.Holds q.val (yT 0x35 x 0 g 0))
include h0 h

theorem State.exec_post_invalid (ha : actionOk (s.gr q.val g).toNat = false) : s.Traps (exec (.iPost q x g) s) q.val 6 0 :=
  h.traps hc h0 (by decide) (by decide) (f := fun u => u.yPost q.val x g) (State.yPost_invalid ((s.yBegin_gr q.val g hc).symm ▸ ha))

theorem State.exec_post_full (ha : actionOk (s.gr q.val g).toNat = true) (hu : 256 ≤ (s.sq q.val).used) : s.Traps (exec (.iPost q x g) s) q.val 7 0 :=
  h.traps hc h0 (by decide) (by decide) (f := fun u => u.yPost q.val x g) (State.yPost_full ((s.yBegin_gr q.val g hc).symm ▸ ha) ((s.yBegin_sq q.val hc).symm ▸ hu))

end

/-! ### HALT, WDOG, TRAP and undefined words -/

/-- 06 R121: a sequencer in HALT waits for nothing and holds no message, and EV33 to EV40 say so. -/
theorem State.seqHalt_facts (u : State) (q : Fin 8) (hc : u.Canonical) : let t := u.seqHalt q.val
    t.seqState q.val = 3 ∧ t.seqPc q.val = u.seqPc q.val ∧ t.heldBy q.val = [] ∧ t.sq q.val = { u.sq q.val with wait := {} } ∧
      fldGet (t.reg (EVT_SRC_STAT.a (33 + q.val))) EVT_SRC_STAT.pend = 1 ∧
      t = { u with regs := t.regs, evt := t.evt, out := t.out, seq := t.seq, msgs := t.msgs, held := t.held, pcie := { u.pcie with pba := t.pcie.pba } } ∧
      ∀ x, x ≠ SEQ_STAT.a q.val → x ≠ EVT_SRC_STAT.a (33 + q.val) → t.reg x = u.reg x := by
  have hec := u.enterSeq_canon q.val 3 hc
  have hgc := State.gwReleaseAll_canon _ q.val hec
  have hne : SEQ_STAT.a q.val ≠ EVT_SRC_STAT.a (33 + q.val) := by unfold SEQ_STAT.a EVT_SRC_STAT.a; omega
  have hstat : (u.seqHalt q.val).reg (SEQ_STAT.a q.val) = (u.enterSeq q.val 3).reg (SEQ_STAT.a q.val) :=
    (State.reg_raise_ne _ _ _ _ _ hne).trans (State.gwReleaseAll_reg _ _ _)
  refine ⟨?_, ?_, ?_, ?_, pend_raise _ _ _ _ hgc, ?_, fun x h1 h2 => ?_⟩
  · exact (congrArg (fldGet · SEQ_STAT.state) hstat).trans (u.enterSeq_state q.val 3 hc (by decide))
  · exact (congrArg (fldGet · SEQ_STAT.pc) hstat).trans (u.enterSeq_pc q.val 3 hc)
  · unfold State.heldBy State.seqHalt
    rw [State.raise_held]
    exact seq_heldAll _ q.val hec
  · unfold State.seqHalt
    rw [State.sq_raise, State.gwReleaseAll_sq, u.enterSeq_sq q.val 3 hc]
  · unfold State.seqHalt
    obtain ⟨m, hd, he⟩ := (u.enterSeq q.val 3).gwReleaseAll_same q.val
    have hr := ((u.enterSeq q.val 3).gwReleaseAll q.val).raise_same (33 + q.val) 1 0
    rw [he] at hr ⊢
    generalize State.raise _ (33 + q.val) 1 0 = t at hr ⊢
    rw [hr, u.enterSeq_rest q.val 3]
  · exact ((State.reg_raise_ne _ _ _ _ _ h2).trans (State.gwReleaseAll_reg _ _ _)).trans (u.enterSeq_reg_ne q.val 3 x h1)

section
variable {s : State} {q : Fin 8} (hc : s.Canonical)
include hc

theorem State.exec_halt (h : s.Holds q.val (yU 0x02 0 0)) : ∃ t : State, exec (.iHalt q) s = .next t ∧ t.seqState q.val = 3 ∧ t.seqPc q.val = s.seqPc q.val ∧ t.heldBy q.val = [] ∧
    t.sq q.val = { s.sq q.val with cyc := s.yCycle q.val, wait := {} } ∧ fldGet (t.reg (EVT_SRC_STAT.a (33 + q.val))) EVT_SRC_STAT.pend = 1 ∧
    t = { s with regs := t.regs, evt := t.evt, out := t.out, seq := t.seq, msgs := t.msgs, held := t.held, pcie := { s.pcie with pba := t.pcie.pba } } ∧
    ∀ x, x ≠ SEQ_STAT.a q.val → x ≠ EVT_SRC_STAT.a (33 + q.val) → t.reg x = s.reg x := by
  obtain ⟨hstate, hpc, hheld, hsq, hpend, hsame, hreg⟩ := (s.yBegin q.val).seqHalt_facts q (s.yBegin_canon q.val hc)
  rw [s.yBegin_sq q.val hc] at hsq
  exact ⟨_, congrArg Host.Outcome.next (h.run fun u => u.yHalt q.val), hstate, hpc, hheld, hsq, hpend, hsame, hreg⟩

theorem State.exec_wdog (h : s.Issues q.val (yU 0x03 0 0)) : ∃ t : State, exec (.iWdog q) s = .next t ∧ t.seqPc q.val = s.seqPc q.val + 1 ∧
    t.sq q.val = { s.sq q.val with cyc := s.yCycle q.val + 1, wdog := 0, wperiod := s.wdogPeriod q.val } ∧ t = { s with regs := t.regs, seq := t.seq } ∧
    ∀ x, x ≠ SEQ_STAT.a q.val → t.reg x = s.reg x := by
  have hB := s.yBegin_canon q.val hc
  obtain ⟨t, ht, hpc, hsq, hsame, -, hreg⟩ := h.steps (f := fun u => u.yWdog q.val)
    ((State.setSq_keeps (State.Keeps.refl _) q.val { (s.yBegin q.val).sq q.val with wdog := 0, wperiod := s.wdogPeriod q.val }).canon hB) rfl rfl
  rw [State.sq_setSq _ _ _ hB, s.yBegin_sq q.val hc] at hsq
  exact ⟨t, ht, hpc, hsq, hsame, hreg⟩

variable (h0 : s.f (SEQ_WDOG.a q.val) SEQ_WDOG.trap_action = 0)
include h0

theorem State.exec_trap {imm : BitVec 16} (h : s.Holds q.val (yU 0x04 0 imm)) : s.Traps (exec (.iTrap q imm) s) q.val 9 imm.toNat :=
  h.traps hc h0 (by decide) imm.isLt rfl

/-- R100: a word that decodes to nothing is not NOP, whose command finds it. -/
theorem State.exec_undefined {w : Word} (h : s.Holds q.val w) (hw : decodeYufen 0 w = none) : s.Traps (exec (.iNop q) s) q.val 1 0 := by
  have hne : ¬ w = yU 0x01 0 0 := fun e => absurd (e ▸ hw) (by decide)
  have hrun : s.yIssue q.val (yU 0x01 0 0) (fun u => u.yNop q.val) = s.trap q.val 1 0 := by
    unfold State.yIssue
    rw [if_pos (by rw [h.live, h.idle, h.due]; rfl), if_neg (by rw [h.wdog]; decide), h.word, if_neg hne, hw]
    rfl
  have ht := State.traps_of s s q 1 0 hc h0 (by decide) (by decide) rfl rfl
  rw [← hrun] at ht
  exact ht

/-- R115: a watchdog that is due comes before the instruction. -/
theorem State.exec_wdogDue (hl : s.seqLive q.val = true) (hk : (s.sq q.val).wait.kind = 0) (hd : s.yDue q.val = true) (hw : s.wdogDue q.val = true) :
    s.Traps (exec (.iNop q) s) q.val 8 0 := by
  have hrun : s.yIssue q.val (yU 0x01 0 0) (fun u => u.yNop q.val) = s.trap q.val 8 0 := by
    unfold State.yIssue
    rw [if_pos (by rw [hl, hk, hd]; rfl), if_pos hw]
  have ht := State.traps_of s s q 8 0 hc h0 (by decide) (by decide) rfl rfl
  rw [← hrun] at ht
  exact ht

end

/-! ### The gateway instructions -/

theorem State.sq_setGr (u : State) (n : Nat) (d : BitVec 4) (v : Word) (hc : u.Canonical) :
    (u.setGr n d v).sq n = { u.sq n with g := if d = 0#4 then (u.sq n).g else (u.sq n).g.setIfInBounds d.toNat v } := by
  unfold State.setGr
  by_cases hd : d = 0#4
  · rw [if_pos hd, if_pos hd]
  · rw [if_neg hd, if_neg hd]
    exact State.sq_setSq u n _ hc

theorem State.setGr_setWs_same (u : State) (n ws : Nat) (d : BitVec 4) (v : Word) : (u.setGr n d v).setWs n ws = { u with seq := ((u.setGr n d v).setWs n ws).seq } := by
  unfold State.setWs State.setGr
  split <;> rfl

theorem State.sq_setWs (u : State) (n v : Nat) (hc : u.Canonical) : (u.setWs n v).sq n = { u.sq n with ws := BitVec.ofNat 32 v } := State.sq_setSq u n _ hc

theorem State.gwHeld_yBegin (s : State) (n h : Nat) : (s.yBegin n).gwHeld n h = s.gwHeld n h := rfl

section
variable {s : State} {q : Fin 8} {d a b : BitVec 4} (hc : s.Canonical)
include hc

theorem State.exec_grx (h : s.Issues q.val (yR 0x3A d 0 0)) : ∃ t : State, exec (.iGrx q d) s = .next t ∧ t.seqPc q.val = s.seqPc q.val + 1 ∧
    (∀ k, t.gr q.val k = if k = d ∧ d ≠ 0#4 then BitVec.ofNat 32 ((s.inqOf q.val).headD 0) else s.gr q.val k) ∧
    (t.sq q.val).ws = BitVec.ofNat 32 (min 0xffff (s.inqOf q.val).tail.length) ∧ t.inqOf q.val = (s.inqOf q.val).tail ∧
    t.heldBy q.val = s.heldBy q.val ++ ((s.inqOf q.val).take 1).map (· % 65536) ∧ t = { s with regs := t.regs, seq := t.seq, inq := t.inq, held := t.held } := by
  obtain ⟨hhead, hpop, hsq, hinq, hheld, hreg, hsame⟩ := yufen_popFacts s q.val _ hc (s.yBegin_canon q.val hc) (s.yBegin_sq q.val hc)
  have hrun : (s.yBegin q.val).yGrx q.val d = (s.yBegin q.val).yNext q.val 3 ((((s.yBegin q.val).gwPop q.val).2.setGr q.val d
    (BitVec.ofNat 32 ((s.yBegin q.val).gwPop q.val).1)).setWs q.val (satTo 0xffff (((s.yBegin q.val).gwPop q.val).2.inqOf q.val).length)) := rfl
  rw [hhead, hinq] at hrun
  generalize ((s.yBegin q.val).gwPop q.val).2 = u at *
  have hg : (u.setGr q.val d (BitVec.ofNat 32 ((s.inqOf q.val).headD 0))).Canonical := (State.setGr_keeps (State.Keeps.refl u) _ _ _).canon hpop
  have hset := u.setGr_setWs_same q.val (satTo 0xffff (s.inqOf q.val).tail.length) d (BitVec.ofNat 32 ((s.inqOf q.val).headD 0))
  obtain ⟨t, ht, hpc, htsq, htsame, -, -⟩ := h.steps (f := fun u => u.yGrx q.val d) ((State.setWs_keeps (State.Keeps.refl _) _ _).canon hg)
    ((congrArg (fun v => State.reg v (SEQ_STAT.a q.val)) hset).trans (hreg _)) hrun
  rw [State.sq_setWs _ _ _ hg, State.sq_setGr _ _ _ _ hpop, hsq] at htsq
  replace htsame : t = { u with regs := t.regs, seq := t.seq } := htsame.trans (by rw [hset])
  have htinq : t.inq = u.inq := by rw [htsame]
  have htheld : t.held = u.held := by rw [htsame]
  refine ⟨t, ht, hpc, yufen_gr_of t s q.val d _ (by rw [htsq]), by rw [htsq, satTo_min], ?_, ?_, htsame.trans ?_⟩
  · unfold State.inqOf at *
    rw [htinq, hinq]
  · unfold State.heldBy at *
    rw [htheld, hheld]
  · rw [htinq, htheld, hsame]

theorem State.exec_gid_bad (h0 : s.f (SEQ_WDOG.a q.val) SEQ_WDOG.trap_action = 0) (h : s.Holds q.val (yR 0x3B d a 0)) (hm : s.gwHeld q.val (s.gr q.val a).toNat = none) :
    s.Traps (exec (.iGid q d a) s) q.val 10 0 :=
  h.traps hc h0 (by decide) (by decide) (by
    unfold State.yGid
    rw [s.yBegin_gr q.val a hc, s.gwHeld_yBegin, hm])

variable {m : GwMsg} (hm : s.gwHeld q.val (s.gr q.val a).toNat = some m)
include hm

theorem State.exec_gid (h : s.Issues q.val (yR 0x3B d a 0)) : s.Yields (exec (.iGid q d a) s) q.val d (BitVec.ofNat 32 m.ident) 3 :=
  h.yields hc (fun u => u.yGid q.val d a) d _ 3 (by
    unfold State.yGid
    rw [s.yBegin_gr q.val a hc, s.gwHeld_yBegin, hm])

theorem State.exec_grel (h : s.Issues q.val (yR 0x3D 0 a 0)) : ∃ t : State, exec (.iGrel q a) s = .next t ∧ t.seqPc q.val = s.seqPc q.val + 1 ∧
    t.heldBy q.val = (s.heldBy q.val).erase m.unit ∧ (t.sq q.val).g = (s.sq q.val).g ∧ (t.sq q.val).ws = (s.sq q.val).ws ∧
    t = { s with regs := t.regs, seq := t.seq, msgs := t.msgs, held := t.held } := by
  have hB := s.yBegin_canon q.val hc
  obtain ⟨t, ht, hpc, hsq, hsame, -, -⟩ := h.steps (f := fun u => u.yGrel q.val a) (v := (s.yBegin q.val).gwDrop q.val m.unit) (c := 2)
    ((State.gwDrop_keeps (State.Keeps.refl _) q.val m.unit).canon hB) rfl (by
      unfold State.yGrel
      rw [s.yBegin_gr q.val a hc, s.gwHeld_yBegin, hm])
  have hq : ((s.yBegin q.val).gwDrop q.val m.unit).sq q.val = { s.sq q.val with cyc := s.yCycle q.val } := s.yBegin_sq q.val hc
  rw [hq] at hsq
  have hmsgs : t.msgs = _ := congrArg State.msgs hsame
  have hheld : t.held = _ := congrArg State.held hsame
  refine ⟨t, ht, hpc, ?_, by rw [hsq], by rw [hsq], hsame.trans ?_⟩
  · unfold State.heldBy
    rw [hheld]
    exact Cells.get_set hc.held _ _
  · rw [hmsgs, hheld]
    rfl

end

/-! ### GTX to a CAN controller (13 R311) -/

/-- R311: what makes CAN controller `c` refuse a message. -/
def State.CanRefuses (u : State) (c : Nat) (m : GwMsg) : Prop :=
  32 ≤ (u.canSt c).gwq.length ∨ m.kind % 2 = 0 ∨ u.canFmt c m.fmt = false ∨ canLenOk m.fmt (u.msgLen m.unit m.fmt) = false ∨
    u.on (CAN_CFG.a c) CAN_CFG.en = false ∨ u.canState c = 2 ∨ u.canQuiet c = true ∨ u.canIgn c = true

theorem State.gtxCan_refused {u : State} {c : Nat} {m : GwMsg} (h : u.CanRefuses c m) : u.gtxCan c m = (u, some 2) := if_pos h

/-- A message that is not refused is the last in the controller's gateway queue, and the rest of the machine is as it was but for its references. -/
theorem State.gtxCan_taken {u : State} {c : Nat} {m : GwMsg} (hc : u.Canonical) (h : ¬ u.CanRefuses c m) : ∃ t : State, u.gtxCan c m = (t, none) ∧
    (t.canSt c).gwq = (u.canSt c).gwq ++ [m.unit] ∧ t.seq = u.seq ∧ t.held = u.held ∧ ∀ a, a ≠ CAN_STAT.a c → t.reg a = u.reg a := by
  have hq := (State.setGwq_keeps (State.Keeps.refl u) c ((u.canSt c).gwq ++ [m.unit])).canon hc
  have hcan : (u.setGwq c ((u.canSt c).gwq ++ [m.unit])).canSt c = { u.canSt c with gwq := (u.canSt c).gwq ++ [m.unit] } := Cells.get_set hc.can _ _
  refine ⟨_, if_neg h, ?_, rfl, rfl, fun a ha => State.reg_setF_ne _ _ _ _ _ ha⟩
  rw [hcan]
  exact congrArg CanSt.gwq (Cells.get_set hq.can _ _)

theorem State.gtxCan_none_iff {u : State} {c : Nat} {m : GwMsg} (hc : u.Canonical) : (u.gtxCan c m).2 = none ↔ ¬ u.CanRefuses c m := by
  by_cases h : u.CanRefuses c m
  · rw [State.gtxCan_refused h]
    exact iff_of_false nofun (not_not_intro h)
  · obtain ⟨t, ht, -⟩ := State.gtxCan_taken hc h
    rw [ht]
    exact iff_of_true rfl h

/-- R113: the handle of an offered message is released unless GTX keeps it. -/
def State.gtxRelease (u : State) (n : Nat) (m : GwMsg) (w : Nat) : State := if nbit w 0 then u else u.gwDrop n m.unit

theorem State.gtxRelease_facts (u : State) (n : Nat) (m : GwMsg) (w : Nat) (hh : Cells.wf (fun _ => []) u.held = true) : let t := u.gtxRelease n m w
    t.seq = u.seq ∧ t.can = u.can ∧ (∀ a, t.reg a = u.reg a) ∧ t.heldBy n = if nbit w 0 then u.heldBy n else (u.heldBy n).erase m.unit := by
  unfold State.gtxRelease
  split
  · exact ⟨rfl, rfl, fun _ => rfl, rfl⟩
  · exact ⟨rfl, rfl, fun _ => rfl, Cells.get_set hh _ _⟩

theorem State.gtx_refused {u : State} {m : GwMsg} {w : Nat} (n : Nat) (hk : nbits w 31 28 = 1) (h : u.CanRefuses (nbits w 27 23) m) :
    u.gtx n m w = (1, (u.gwCount 2).gtxRelease n m w) := by
  unfold State.gtx
  dsimp only
  rw [if_pos hk, State.gtxCan_refused h]
  rfl

theorem State.gtx_taken {u t : State} {m : GwMsg} {w : Nat} (n : Nat) (hk : nbits w 31 28 = 1) (h : u.gtxCan (nbits w 27 23) m = (t, none)) :
    u.gtx n m w = (0, t.gtxRelease n m w) := by
  unfold State.gtx
  dsimp only
  rw [if_pos hk, h]
  rfl

section
variable {s v : State} {q : Fin 8} {a b : BitVec 4} {m : GwMsg} {w ws : Nat} (hc : s.Canonical) (hm : s.gwHeld q.val (s.gr q.val a).toNat = some m)
  (h : s.Issues q.val (yR 0x3C 0 a b))
include hc hm h

/-- GTX, with the value of ws and the state that the offer leaves. -/
theorem State.exec_gtx_of (hw : (s.gr q.val b).toNat = w) (hr : routeOk w = true) (hg : (s.yBegin q.val).gtx q.val m w = (ws, v)) (hseq : v.seq = (s.yBegin q.val).seq)
    (hstat : v.reg (SEQ_STAT.a q.val) = s.reg (SEQ_STAT.a q.val)) : ∃ t : State, exec (.iGtx q a b) s = .next t ∧ t.seqPc q.val = s.seqPc q.val + 1 ∧
      (t.sq q.val).g = (s.sq q.val).g ∧ (t.sq q.val).ws = BitVec.ofNat 32 ws ∧ t.can = v.can ∧ t.heldBy q.val = v.heldBy q.val := by
  have hv : v.Canonical := by
    have := (State.gtx_keeps (State.Keeps.refl (s.yBegin q.val)) q.val m w).canon (s.yBegin_canon q.val hc)
    rwa [hg] at this
  obtain ⟨t, ht, hpc, hsq, hsame, -, -⟩ := h.steps (f := fun u => u.yGtx q.val a b) (c := 2) ((State.setWs_keeps (State.Keeps.refl v) q.val ws).canon hv) hstat (by
    unfold State.yGtx
    rw [s.yBegin_gr q.val a hc, s.yBegin_gr q.val b hc, hw, s.gwHeld_yBegin, hm]
    dsimp only
    rw [if_pos hr, hg])
  have hvq : v.sq q.val = { s.sq q.val with cyc := s.yCycle q.val } := by
    rw [← s.yBegin_sq q.val hc]
    unfold State.sq
    rw [hseq]
  rw [State.sq_setWs v _ _ hv, hvq] at hsq
  have hcan : t.can = v.can := (congrArg State.can hsame).trans rfl
  have hheld : t.held = v.held := (congrArg State.held hsame).trans rfl
  refine ⟨t, ht, hpc, by rw [hsq], by rw [hsq], hcan, ?_⟩
  unfold State.heldBy
  rw [hheld]

theorem State.exec_gtx (hr : routeOk (s.gr q.val b).toNat = true) (hk : nbits (s.gr q.val b).toNat 31 28 = 1) : let c := nbits (s.gr q.val b).toNat 27 23
    ∃ t : State, exec (.iGtx q a b) s = .next t ∧ t.seqPc q.val = s.seqPc q.val + 1 ∧ (t.sq q.val).g = (s.sq q.val).g ∧
      ((s.gtxCan c m).2 = none → (t.sq q.val).ws = 0#32 ∧ (t.canSt c).gwq = (s.canSt c).gwq ++ [m.unit]) ∧
      ((s.gtxCan c m).2 ≠ none → (t.sq q.val).ws = 1#32 ∧ t.can = s.can) ∧
      t.heldBy q.val = if nbit (s.gr q.val b).toNat 0 then s.heldBy q.val else (s.heldBy q.val).erase m.unit := by
  generalize hw : (s.gr q.val b).toNat = w at *
  have hB := s.yBegin_canon q.val hc
  have hiff : (s.gtxCan (nbits w 27 23) m).2 = none ↔ ¬ (s.yBegin q.val).CanRefuses (nbits w 27 23) m := State.gtxCan_none_iff hc
  by_cases hno : (s.yBegin q.val).CanRefuses (nbits w 27 23) m
  · obtain ⟨hseq, hcan, hreg, hheld⟩ := ((s.yBegin q.val).gwCount 2).gtxRelease_facts q.val m w hc.held
    obtain ⟨t, ht, hpc, hg, hws, htcan, htheld⟩ := State.exec_gtx_of hc hm h hw hr (State.gtx_refused q.val hk hno) hseq
      ((hreg _).trans (State.reg_setF_ne _ _ _ _ _ (by unfold SEQ_STAT.a GW_CNT.a; omega)))
    exact ⟨t, ht, hpc, hg, fun hn => absurd hno (hiff.1 hn), fun _ => ⟨hws, htcan.trans hcan⟩, htheld.trans hheld⟩
  · obtain ⟨u, hu, hgwq, huseq, huheld, hureg⟩ := State.gtxCan_taken hB hno
    obtain ⟨hseq, hcan, hreg, hheld⟩ := u.gtxRelease_facts q.val m w (huheld ▸ hc.held)
    obtain ⟨t, ht, hpc, hg, hws, htcan, htheld⟩ := State.exec_gtx_of hc hm h hw hr (State.gtx_taken q.val hk hu) (hseq.trans huseq)
      ((hreg _).trans (hureg _ (by unfold SEQ_STAT.a CAN_STAT.a; omega)))
    refine ⟨t, ht, hpc, hg, fun _ => ⟨hws, ?_⟩, fun hn => absurd (hiff.2 hno) hn, htheld.trans (hheld.trans ?_)⟩
    · unfold State.canSt at *
      rw [htcan, hcan]
      exact hgwq
    · unfold State.heldBy
      rw [huheld]
      rfl

end

/-- Settles O25: posts by `State.Issues.posts`, control by the trap or the state entered, the gateway instructions by what the pool gives them. -/
theorem yufenPostsControlAndGateway : Obligations.YufenPostsControlAndGateway := by
  unfold Obligations.YufenPostsControlAndGateway
  refine ⟨fun s q x g hc => ⟨fun ha hu => ⟨State.exec_post hc ha hu, fun pd dir => State.exec_apost hc ha hu⟩, fun h0 h => ⟨State.exec_post_invalid hc h0 h, State.exec_post_full hc h0 h⟩⟩,
    fun s q d a b hc => ⟨State.exec_halt hc, State.exec_wdog hc, fun h0 => ⟨fun _ => State.exec_trap hc h0, fun _ => State.exec_undefined hc h0, State.exec_wdogDue hc h0, State.exec_gid_bad hc h0⟩,
      State.exec_grx hc, fun m hm => ⟨State.exec_gid hc hm, State.exec_grel hc hm, State.exec_gtx hc hm⟩⟩⟩

end Sys2Proof.Machine
end

section
/-! SUPPORT. The waits of the sequencers: how each begins, ends and times out (05 R104 to R108). -/

namespace Sys2Proof.Machine

/-! ### The flags of earlier ticks (06 R134) -/

theorem SeqSt.settleSig_settleSig (x : SeqSt) (now : Nat) : (x.settleSig now).settleSig now = x.settleSig now := by
  unfold SeqSt.settleSig
  split
  next => exact if_neg (Nat.lt_irrefl now)
  next => rfl

theorem SeqSt.settleSig_cyc (x : SeqSt) (c now : Nat) : ({ x with cyc := c } : SeqSt).settleSig now = { x.settleSig now with cyc := c } := by
  unfold SeqSt.settleSig
  split <;> rfl

theorem SeqSt.settleSig_start (x : SeqSt) (now : Nat) : (x.settleSig now).cyc = x.cyc ∧ (x.settleSig now).start = x.start := by
  unfold SeqSt.settleSig
  split <;> exact ⟨rfl, rfl⟩

theorem State.sq_ySettle (s : State) (n : Nat) (hc : s.Canonical) : (s.ySettle n).sq n = (s.sq n).settleSig s.now := State.sq_setSq s n _ hc

theorem State.sq_ySettle_yBegin (s : State) (n : Nat) (hc : s.Canonical) : ((s.yBegin n).ySettle n).sq n = { (s.sq n).settleSig s.now with cyc := s.yCycle n } := by
  rw [State.sq_ySettle _ n (s.yBegin_canon n hc), s.yBegin_sq n hc]
  exact SeqSt.settleSig_cyc _ _ _

theorem State.yCycle_ySettle (s : State) (n : Nat) (hc : s.Canonical) : (s.ySettle n).yCycle n = s.yCycle n := by
  obtain ⟨hcyc, hstart⟩ := (s.sq n).settleSig_start s.now
  unfold State.yCycle
  dsimp only
  rw [s.sq_ySettle n hc, hcyc, hstart]
  rfl

/-- R107: the conditions that hold depend on the flags that are visible, and on nothing else of the sequencer. -/
theorem State.yConds_congr {s u : State} {n : Nat} (c : Nat) (hu : u = { s with seq := u.seq }) (hs : ((u.sq n).settleSig s.now).sig = ((s.sq n).settleSig s.now).sig) :
    u.yConds n c = s.yConds n c := by
  have hnow : u.now = s.now := by rw [hu]
  have hinq : u.inqOf n = s.inqOf n := by rw [hu]; rfl
  have hline : ∀ k, u.seqLine k = s.seqLine k := fun k => by rw [hu]; rfl
  unfold State.yConds
  rw [hnow, hinq, hline, hs]

theorem State.yConds_ySettle (s : State) (n c : Nat) (hc : s.Canonical) : (s.ySettle n).yConds n c = s.yConds n c :=
  State.yConds_congr c rfl (by rw [s.sq_ySettle n hc, SeqSt.settleSig_settleSig])

theorem State.yConds_yBegin (s : State) (n c : Nat) (hc : s.Canonical) : (s.yBegin n).yConds n c = s.yConds n c :=
  State.yConds_congr c rfl (by rw [s.yBegin_sq n hc, SeqSt.settleSig_cyc])

/-! ### A WAITE judged (R107) -/

section
variable {s : State} {n c tt : Nat} {next off : Int} {fin : State → Nat → Nat → Int → State} {wait : State → State} (hc : s.Canonical)
include hc

theorem State.yWaiteJudge_met (h : s.yConds n c ≠ 0) :
    s.yWaiteJudge n c tt next off fin wait = fin (s.ySettle n) (s.yConds n c) (nbits (s.yConds n c) 23 16) next := by
  unfold State.yWaiteJudge
  dsimp only
  rw [s.yConds_ySettle n c hc]
  exact if_pos h

theorem State.yWaiteJudge_late (h : s.yConds n c = 0) (ht : tt ≤ s.tim.wkt) : s.yWaiteJudge n c tt next off fin wait = fin (s.ySettle n) 0 0 off := by
  unfold State.yWaiteJudge
  dsimp only
  rw [s.yConds_ySettle n c hc, h]
  exact (if_neg (not_not_intro rfl)).trans (if_pos ht)

theorem State.yWaiteJudge_waits (h : s.yConds n c = 0) (ht : s.tim.wkt < tt) : s.yWaiteJudge n c tt next off fin wait = wait s := by
  unfold State.yWaiteJudge
  dsimp only
  rw [s.yConds_ySettle n c hc, h]
  exact (if_neg (not_not_intro rfl)).trans (if_neg (Nat.not_le.2 ht))

end

/-! ### Ends (R108) -/

section
variable {s : State} {n : Nat} {pc : Int} (hc : s.Canonical) (hr : s.seqState n = 1) (h0 : 0 ≤ pc) (hp : pc < (s.progLen n : Int))
include hc hr h0 hp

/-- A wait that ends at its issue, with no flag cleared. -/
theorem State.ends_yBegin (ws : Nat) : s.Ends (.next ((s.yBegin n).yEndNow n ws 0 pc)) n { s.sq n with ws := BitVec.ofNat 32 ws } pc := by
  refine yufen_endNow s _ n _ ws 0 pc hc rfl (s.yBegin_canon n hc).seq (fun m hm => State.sq_setSq_ne _ _ _ _ hm) (by rw [s.yBegin_sq n hc]) h0 hp hr ?_
  rw [s.yBegin_sq n hc, yufen_and_not_zero]

/-- A WAITE that ends at its issue. -/
theorem State.ends_yBegin_settled (ws clr : Nat) : let z := (s.sq n).settleSig s.now
    s.Ends (.next (((s.yBegin n).ySettle n).yEndNow n ws clr pc)) n { z with ws := BitVec.ofNat 32 ws, sig := z.sig &&& ~~~(BitVec.ofNat 8 clr) } pc := by
  have hsq := s.sq_ySettle_yBegin n hc
  refine yufen_endNow s _ n _ ws clr pc hc rfl (Cells.wf_set (s.yBegin_canon n hc).seq _ _) (fun m hm => ?_) (by rw [hsq]) h0 hp hr (by rw [hsq])
  exact (State.sq_setSq_ne _ _ _ _ hm).trans (State.sq_setSq_ne _ _ _ _ hm)

/-- A wait in progress that ends, with no flag cleared. -/
theorem State.ends_tick (ws : Nat) : s.Ends (.next (s.yEndTick n ws 0 pc)) n { s.sq n with ws := BitVec.ofNat 32 ws } pc :=
  yufen_endTick s s n _ ws 0 pc hc rfl hc.seq (fun _ _ => rfl) rfl h0 hp hr (by rw [yufen_and_not_zero])

/-- A WAITE in progress that ends. -/
theorem State.ends_tick_settled (ws clr : Nat) : let z := (s.sq n).settleSig s.now
    s.Ends (.next ((s.ySettle n).yEndTick n ws clr pc)) n { z with ws := BitVec.ofNat 32 ws, sig := z.sig &&& ~~~(BitVec.ofNat 8 clr) } pc :=
  yufen_endTick s _ n _ ws clr pc hc rfl (Cells.wf_set hc.seq _ _) (fun _ hm => State.sq_setSq_ne _ _ _ _ hm) (s.yCycle_ySettle n hc) h0 hp hr (by rw [s.sq_ySettle n hc])

end

/-! ### Waits issued -/

section
variable {s : State} {q : Fin 8} {x pd tt : BitVec 2} {g : BitVec 4} {dir : Fin 3} {off : BitVec 18} (hc : s.Canonical)
include hc

theorem State.exec_waitt_ends (h : s.Issues q.val (yT 0x37 x 0 0 0)) (ht : tClock (s.tr q.val x) ≤ s.tim.wkt) :
    s.Ends (exec (.iWaitt q x) s) q.val { s.sq q.val with ws := 0#32 } ((s.seqPc q.val : Int) + 1) := by
  have hi := h.inside
  have hrun : exec (.iWaitt q x) s = .next ((s.yBegin q.val).yEndNow q.val 0 0 ((s.seqPc q.val : Int) + 1)) := congrArg Host.Outcome.next ((h.run _).trans (by
    unfold State.yWaitt
    rw [s.yBegin_tr q.val x hc]
    exact if_pos ht))
  rw [hrun]
  exact State.ends_yBegin hc h.running (by omega) (by omega) 0

theorem State.exec_waitt_waits (h : s.Issues q.val (yT 0x37 x 0 0 0)) (ht : s.tim.wkt < tClock (s.tr q.val x)) :
    s.Waits (exec (.iWaitt q x) s) q.val { kind := 1, tt := tClock (s.tr q.val x), since := s.now } := by
  have hrun : exec (.iWaitt q x) s = .next ((s.yBegin q.val).yWait q.val { kind := 1, tt := tClock (s.tr q.val x), since := s.now }) :=
    congrArg Host.Outcome.next ((h.run _).trans (by
      unfold State.yWaitt
      rw [s.yBegin_tr q.val x hc]
      exact if_neg (Nat.not_le.2 ht)))
  rw [hrun]
  exact State.waits_of s q.val _ hc h.running

theorem State.exec_waita_ends (h : s.Holds q.val (yW 0x38 x pd (BitVec.ofNat 2 dir.val) tt off)) (h2 : s.phState pd.toNat ≠ 2) (h3 : s.phState pd.toNat ≠ 3)
    (h0 : 0 ≤ (s.seqPc q.val : Int) + off.toInt) (hp : (s.seqPc q.val : Int) + off.toInt < s.progLen q.val) :
    s.Ends (exec (.iWaita q x pd dir tt off) s) q.val { s.sq q.val with ws := 2#32 } ((s.seqPc q.val : Int) + off.toInt) := by
  have hrun : exec (.iWaita q x pd dir tt off) s = .next ((s.yBegin q.val).yEndNow q.val 2 0 ((s.seqPc q.val : Int) + off.toInt)) :=
    congrArg Host.Outcome.next ((h.run _).trans (if_pos ⟨h2, h3⟩))
  rw [hrun]
  exact State.ends_yBegin hc h.running h0 hp 2

theorem State.exec_waita_waits (h : s.Holds q.val (yW 0x38 x pd (BitVec.ofNat 2 dir.val) tt off)) (hst : s.phState pd.toNat = 2 ∨ s.phState pd.toNat = 3) :
    s.Waits (exec (.iWaita q x pd dir tt off) s) q.val
      { kind := 2, reg := (s.ar q.val x).toNat, dom := pd.toNat, dir := dir.val, tt := tClock (s.tr q.val tt), off := off.toInt, since := s.now } := by
  have hrun : exec (.iWaita q x pd dir tt off) s = .next ((s.yBegin q.val).yWait q.val
      { kind := 2, reg := (s.ar q.val x).toNat, dom := pd.toNat, dir := dir.val, tt := tClock (s.tr q.val tt), off := off.toInt, since := s.now }) :=
    congrArg Host.Outcome.next ((h.run _).trans (by
      unfold State.yWaita
      rw [s.yBegin_ar q.val x hc, s.yBegin_tr q.val tt hc]
      exact if_neg fun hno => hst.elim hno.1 hno.2))
  rw [hrun]
  exact State.waits_of s q.val _ hc h.running

/-- A WAITE with a defined condition is judged at its issue. -/
theorem State.exec_waite_judged {w : Word} (h : s.Holds q.val w) (hw : w = yI 0x39 g (BitVec.ofNat 4 tt.toNat) off) (hok : condOk (s.gr q.val g).toNat = true) :
    exec (.iWaite q g tt off) s = .next ((s.yBegin q.val).yWaiteJudge q.val (s.gr q.val g).toNat (tClock (s.tr q.val tt)) ((s.seqPc q.val : Int) + 1)
      ((s.seqPc q.val : Int) + off.toInt) (fun u ws clr p => u.yEndNow q.val ws clr p)
      (fun u => u.yWait q.val { kind := 3, reg := (s.gr q.val g).toNat, tt := tClock (s.tr q.val tt), off := off.toInt, since := u.now })) := by
  subst hw
  refine congrArg Host.Outcome.next ((h.run _).trans ?_)
  unfold State.yWaite
  rw [s.yBegin_gr q.val g hc, s.yBegin_tr q.val tt hc]
  exact if_pos hok

section
variable (h : s.Issues q.val (yI 0x39 g (BitVec.ofNat 4 tt.toNat) off)) (hok : condOk (s.gr q.val g).toNat = true)
include h hok

theorem State.exec_waite_met (hm : s.yConds q.val (s.gr q.val g).toNat ≠ 0) : let z := (s.sq q.val).settleSig s.now
    let r := s.yConds q.val (s.gr q.val g).toNat
    s.Ends (exec (.iWaite q g tt off) s) q.val { z with ws := BitVec.ofNat 32 r, sig := z.sig &&& ~~~(BitVec.ofNat 8 (nbits r 23 16)) } ((s.seqPc q.val : Int) + 1) := by
  have hi := h.inside
  have hr := s.yConds_yBegin q.val (s.gr q.val g).toNat hc
  dsimp only
  rw [State.exec_waite_judged hc h.holds rfl hok, State.yWaiteJudge_met (s.yBegin_canon q.val hc) (hr.symm ▸ hm), hr]
  exact State.ends_yBegin_settled hc h.running (by omega) (by omega) _ _

theorem State.exec_waite_late (hm : s.yConds q.val (s.gr q.val g).toNat = 0) (ht : tClock (s.tr q.val tt) ≤ s.tim.wkt) (h0 : 0 ≤ (s.seqPc q.val : Int) + off.toInt)
    (hp : (s.seqPc q.val : Int) + off.toInt < s.progLen q.val) :
    s.Ends (exec (.iWaite q g tt off) s) q.val { (s.sq q.val).settleSig s.now with ws := 0#32 } ((s.seqPc q.val : Int) + off.toInt) := by
  have hr := s.yConds_yBegin q.val (s.gr q.val g).toNat hc
  rw [State.exec_waite_judged hc h.holds rfl hok, State.yWaiteJudge_late (s.yBegin_canon q.val hc) (hr.trans hm) ht]
  have hends := State.ends_yBegin_settled hc h.running h0 hp 0 0
  dsimp only at hends
  rwa [yufen_and_not_zero] at hends

theorem State.exec_waite_waits (hm : s.yConds q.val (s.gr q.val g).toNat = 0) (ht : s.tim.wkt < tClock (s.tr q.val tt)) :
    s.Waits (exec (.iWaite q g tt off) s) q.val { kind := 3, reg := (s.gr q.val g).toNat, tt := tClock (s.tr q.val tt), off := off.toInt, since := s.now } := by
  have hr := s.yConds_yBegin q.val (s.gr q.val g).toNat hc
  rw [State.exec_waite_judged hc h.holds rfl hok, State.yWaiteJudge_waits (s.yBegin_canon q.val hc) (hr.trans hm) ht]
  exact State.waits_of s q.val _ hc h.running

end

theorem State.exec_waite_undefined (h : s.Issues q.val (yI 0x39 g (BitVec.ofNat 4 tt.toNat) off)) (hbad : condOk (s.gr q.val g).toNat = false)
    (h0 : s.f (SEQ_WDOG.a q.val) SEQ_WDOG.trap_action = 0) : s.Traps (exec (.iWaite q g tt off) s) q.val 1 0 :=
  h.holds.traps hc h0 (by decide) (by decide) (by
    unfold State.yWaite
    rw [s.yBegin_gr q.val g hc]
    exact if_neg (by rw [hbad]; decide))

end

/-! ### Waits in progress -/

section
variable {s : State} {q : Fin 8} (hc : s.Canonical) (hi : s.seqPc q.val + 1 < s.progLen q.val)

theorem State.Waiting.running {n k : Nat} (h : s.Waiting n k) : s.seqState n = 1 := yufen_live1 h.live

/-- What a wait of kind `k` in progress is judged by. -/
theorem State.Waiting.judged {n k : Nat} (h : s.Waiting n k) : (s.seqLive n && (s.sq n).wait.kind == k && !s.wdogDue n) = true := by
  rw [h.live, h.kind, h.wdog, beq_self_eq_true]
  rfl

theorem State.Waiting.waittDone_early (h : s.Waiting q.val 1) (ht : s.tim.wkt < (s.sq q.val).wait.tt) : exec (.waittDone q) s = .next s :=
  congrArg Host.Outcome.next (if_neg (by rw [h.judged, decide_eq_false (Nat.not_le.2 ht)]; decide))

/-- R106: a WAITA in progress on a domain that does not track ends from the tick after its issue. -/
theorem State.Waiting.waitaEnd_eq (h : s.Waiting q.val 2) : let w := (s.sq q.val).wait
    exec (.waitaEnd q) s = .next (if w.since < s.now ∧ s.phState w.dom ≠ 2 ∧ s.phState w.dom ≠ 3 then s.yEndTick q.val 2 0 ((s.seqPc q.val : Int) + w.off)
      else if s.crosses w.dom w.dir w.reg w.since then s.yEndTick q.val 0 0 ((s.seqPc q.val : Int) + 1)
      else if w.since < s.now ∧ w.tt ≤ s.tim.wkt then s.yEndTick q.val 1 0 ((s.seqPc q.val : Int) + w.off) else s) :=
  congrArg Host.Outcome.next (if_pos h.judged)

theorem State.Waiting.waiteEnd_eq (h : s.Waiting q.val 3) : exec (.waiteEnd q) s = .next (s.yWaiteJudge q.val (s.sq q.val).wait.reg (s.sq q.val).wait.tt ((s.seqPc q.val : Int) + 1)
    ((s.seqPc q.val : Int) + (s.sq q.val).wait.off) (fun u ws clr t => u.yEndTick q.val ws clr t) (fun u => u)) :=
  congrArg Host.Outcome.next (if_pos h.judged)

/-- R90: nothing crosses on the tick of the arm. -/
theorem State.crosses_fresh (s : State) {d dir tau armed : Nat} (h : s.now ≤ armed) : s.crosses d dir tau armed = false := by
  unfold State.crosses
  simp [Nat.not_lt.2 h]

include hc hi

theorem State.Waiting.waittDone_ends (h : s.Waiting q.val 1) (ht : (s.sq q.val).wait.tt ≤ s.tim.wkt) :
    s.Ends (exec (.waittDone q) s) q.val { s.sq q.val with ws := 0#32 } ((s.seqPc q.val : Int) + 1) := by
  have hrun : exec (.waittDone q) s = .next (s.yEndTick q.val 0 0 ((s.seqPc q.val : Int) + 1)) :=
    congrArg Host.Outcome.next (if_pos (by rw [h.judged, decide_eq_true ht]; rfl))
  rw [hrun]
  exact State.ends_tick hc h.running (by omega) (by omega) 0

variable (h0 : 0 ≤ (s.seqPc q.val : Int) + (s.sq q.val).wait.off) (hp : (s.seqPc q.val : Int) + (s.sq q.val).wait.off < s.progLen q.val)
include h0 hp

theorem State.Waiting.waitaEnd (h : s.Waiting q.val 2) : let w := (s.sq q.val).wait
    (w.since < s.now → s.phState w.dom ≠ 2 → s.phState w.dom ≠ 3 → s.Ends (exec (.waitaEnd q) s) q.val { s.sq q.val with ws := 2#32 } ((s.seqPc q.val : Int) + w.off)) ∧
    (s.now ≤ w.since → exec (.waitaEnd q) s = .next s) ∧
    (s.phState w.dom = 2 ∨ s.phState w.dom = 3 →
      (s.crosses w.dom w.dir w.reg w.since = true → s.Ends (exec (.waitaEnd q) s) q.val { s.sq q.val with ws := 0#32 } ((s.seqPc q.val : Int) + 1)) ∧
      (s.crosses w.dom w.dir w.reg w.since = false → w.since < s.now → w.tt ≤ s.tim.wkt →
        s.Ends (exec (.waitaEnd q) s) q.val { s.sq q.val with ws := 1#32 } ((s.seqPc q.val : Int) + w.off)) ∧
      (s.crosses w.dom w.dir w.reg w.since = false → s.tim.wkt < w.tt → exec (.waitaEnd q) s = .next s)) := by
  dsimp only
  have hr := h.running
  rw [h.waitaEnd_eq]
  refine ⟨fun hs h2 h3 => ?_, fun hs => ?_, fun hst => ?_⟩
  · rw [if_pos ⟨hs, h2, h3⟩]
    exact State.ends_tick hc hr h0 hp 2
  · rw [if_neg fun hno => Nat.not_lt.2 hs hno.1, s.crosses_fresh hs, if_neg Bool.false_ne_true, if_neg fun hno => Nat.not_lt.2 hs hno.1]
  · rw [if_neg fun hno => hst.elim hno.2.1 hno.2.2]
    refine ⟨fun hx => ?_, fun hx hs ht => ?_, fun hx ht => ?_⟩
    · rw [if_pos hx]
      exact State.ends_tick hc hr (by omega) (by omega) 0
    · rw [hx, if_neg Bool.false_ne_true, if_pos ⟨hs, ht⟩]
      exact State.ends_tick hc hr h0 hp 1
    · rw [hx, if_neg Bool.false_ne_true, if_neg fun hno => Nat.not_le.2 ht hno.2]

theorem State.Waiting.waiteEnd (h : s.Waiting q.val 3) : let z := (s.sq q.val).settleSig s.now
    let w := (s.sq q.val).wait
    let r := s.yConds q.val w.reg
    (r ≠ 0 → s.Ends (exec (.waiteEnd q) s) q.val { z with ws := BitVec.ofNat 32 r, sig := z.sig &&& ~~~(BitVec.ofNat 8 (nbits r 23 16)) } ((s.seqPc q.val : Int) + 1)) ∧
    (r = 0 → w.tt ≤ s.tim.wkt → s.Ends (exec (.waiteEnd q) s) q.val { z with ws := 0#32 } ((s.seqPc q.val : Int) + w.off)) ∧
    (r = 0 → s.tim.wkt < w.tt → exec (.waiteEnd q) s = .next s) := by
  dsimp only
  have hr := h.running
  rw [h.waiteEnd_eq]
  refine ⟨fun hm => ?_, fun hm ht => ?_, fun hm ht => ?_⟩
  · rw [State.yWaiteJudge_met hc hm]
    exact State.ends_tick_settled hc hr (by omega) (by omega) _ _
  · rw [State.yWaiteJudge_late hc hm ht]
    have hends := State.ends_tick_settled hc hr h0 hp 0 0
    dsimp only at hends
    rwa [yufen_and_not_zero] at hends
  · rw [State.yWaiteJudge_waits hc hm ht]

end

/-- Settles O26: each wait by what its issue judges, and by what a later tick judges. -/
theorem yufenWaitsBeginAndEnd : Obligations.YufenWaitsBeginAndEnd := by
  unfold Obligations.YufenWaitsBeginAndEnd
  intro s q x pd tt g dir off hc
  dsimp only
  exact ⟨fun h => ⟨State.exec_waitt_ends hc h, State.exec_waitt_waits hc h⟩, fun h => ⟨State.exec_waita_ends hc h, State.exec_waita_waits hc h⟩,
    fun h => ⟨State.exec_waite_met hc h, State.exec_waite_late hc h, State.exec_waite_waits hc h, State.exec_waite_undefined hc h⟩,
    fun h hi => ⟨h.waittDone_ends hc hi, h.waittDone_early⟩, fun h hi h0 hp => h.waitaEnd hc hi h0 hp, fun h hi h0 hp => h.waiteEnd hc hi h0 hp⟩

end Sys2Proof.Machine
end

section
/-! SUPPORT. The states of the sequencers (06 R121 to R125): what a start, a stop, a pause and a resume leave. -/

namespace Sys2Proof.Machine

/-! ### The commands at SEQ_CTRL (R123) -/

section
variable {s : State} {i : Fin 3} {q : Fin 8} (hm : s.May i.val (SEQ_CTRL.a q.val))
include hm

/-- A write of SEQ_CTRL acts on the sequencer, and on nothing of the bus. -/
theorem next_seqCtrl (w : Word) :
    (Host.Outcome.next (s.live (s.poke i.val (SEQ_CTRL.a q.val) w)) : Host.Outcome State Fault Refusal) = .next (s.seqCtrl q.val w) :=
  (next_live s _ hm.powered).trans (congrArg _ (s.poke_SEQ_CTRL i.val q w hm))

theorem exec_seqStart : exec (.seqStart i q) s = .next (s.seqStart q.val) :=
  (next_seqCtrl hm _).trans (congrArg _ ((if_neg (by decide)).trans (if_pos (by decide))))

theorem exec_seqStop (flush : Bool) : exec (.seqStop i q flush) s = .next (s.seqStop q.val flush) := by
  refine (next_seqCtrl hm _).trans (congrArg _ ?_)
  cases flush <;> exact if_pos (by decide)

theorem exec_seqPause : exec (.seqPause i q) s = .next (s.seqPause q.val) :=
  (next_seqCtrl hm _).trans (congrArg _ ((if_neg (by decide)).trans ((if_neg (by decide)).trans (if_pos (by decide)))))

theorem exec_seqResume : exec (.seqResume i q) s = .next (s.seqResume q.val) :=
  (next_seqCtrl hm _).trans (congrArg _ ((if_neg (by decide)).trans ((if_neg (by decide)).trans ((if_neg (by decide)).trans (if_pos (by decide))))))

theorem exec_seqStep : exec (.seqStep i q) s = .next (s.yStep q.val) :=
  (next_seqCtrl hm _).trans
    (congrArg _ ((if_neg (by decide)).trans ((if_neg (by decide)).trans ((if_neg (by decide)).trans ((if_neg (by decide)).trans (if_pos (by decide)))))))

end

/-! ### Pause and resume -/

/-- A sequencer that enters a state keeps its pc and everything else but its wait. -/
theorem State.enterSeq_facts (s : State) (n st : Nat) (hc : s.Canonical) (hst : st < 8) : let t := s.enterSeq n st
    t.seqState n = st ∧ t.seqPc n = s.seqPc n ∧ t.sq n = { s.sq n with wait := {} } ∧ t = { s with regs := t.regs, seq := t.seq } ∧
      (∀ m, m ≠ n → t.sq m = s.sq m) ∧ ∀ a, a ≠ SEQ_STAT.a n → t.reg a = s.reg a :=
  ⟨s.enterSeq_state n st hc hst, s.enterSeq_pc n st hc, s.enterSeq_sq n st hc, s.enterSeq_rest n st, s.enterSeq_sq_ne n st, s.enterSeq_reg_ne n st⟩

section
variable {s : State} {n : Nat}

theorem State.seqPause_running (h : s.seqState n = 1) : s.seqPause n = s.enterSeq n 2 := if_pos h

theorem State.seqPause_other (h : s.seqState n ≠ 1) : s.seqPause n = s := if_neg h

theorem State.seqResume_paused (h : s.seqState n = 2) : s.seqResume n = s.enterSeq n 1 := if_pos h

theorem State.seqResume_other (h : s.seqState n ≠ 2) : s.seqResume n = s := if_neg h

theorem State.yStep_other (h : s.seqState n ≠ 2) : s.yStep n = s :=
  if_neg fun hno => h (beq_iff_eq.1 (Bool.and_eq_true_iff.1 hno).2)

end

/-! ### Starts (R123, R124) -/

theorem State.gwReleaseAll_rest (s : State) (n : Nat) : s.gwReleaseAll n = { s with msgs := (s.gwReleaseAll n).msgs, held := (s.gwReleaseAll n).held } := by
  obtain ⟨m, h, e⟩ := s.gwReleaseAll_same n
  rw [e]

section
variable {s : State} {n : Nat}

theorem State.seqStart_refused {k : Nat} (h : s.startReason n = some k) : s.seqStart n = s.raise (33 + n) 9 k := by
  unfold State.seqStart
  rw [h]

/-- 05 R96: a sequencer that starts has cleared registers, no trap and no message, and is at its entry. -/
theorem State.seqStart_facts (hc : s.Canonical) (h : s.startReason n = none) : let t := s.seqStart n
    t.seqState n = 1 ∧ t.seqPc n = s.f (SEQ_PROG.a n) SEQ_PROG.entry ∧ t.sq n = (s.sq n).clear s.now (s.wdogPeriod n) ∧ t.reg (SEQ_TRAP.a n) = 0#32 ∧
      t.heldBy n = [] ∧ (∀ m, m ≠ n → t.sq m = s.sq m) ∧ t = { s with regs := t.regs, seq := t.seq, msgs := t.msgs, held := t.held } ∧
      ∀ a, a ≠ SEQ_STAT.a n → a ≠ SEQ_TRAP.a n → t.reg a = s.reg a := by
  have hrun : s.seqStart n = ((((s.gwReleaseAll n).setSq n ((s.sq n).clear s.now (s.wdogPeriod n))).enterSeq n 1).setPc n (s.f (SEQ_PROG.a n) SEQ_PROG.entry)).setReg
      (SEQ_TRAP.a n) 0#32 := by
    unfold State.seqStart
    rw [h]
  have hgc := s.gwReleaseAll_canon n hc
  have hcc : ((s.gwReleaseAll n).setSq n ((s.sq n).clear s.now (s.wdogPeriod n))).Canonical := (State.setSq_keeps (State.Keeps.refl _) _ _).canon hgc
  obtain ⟨hstate, -, hsq, hsame, hothers, hreg⟩ := State.enterSeq_facts _ n 1 hcc (by decide)
  have huc := State.enterSeq_canon _ n 1 hcc
  have hheld : ((s.gwReleaseAll n).setSq n ((s.sq n).clear s.now (s.wdogPeriod n))).heldBy n = [] := seq_heldAll s n hc
  rw [State.sq_setSq _ _ _ hgc] at hsq
  dsimp only
  rw [hrun]
  generalize hu : State.enterSeq _ n 1 = u at *
  have hpc : (u.setPc n (s.f (SEQ_PROG.a n) SEQ_PROG.entry)).reg (SEQ_STAT.a n) = fldSet (u.reg (SEQ_STAT.a n)) SEQ_STAT.pc (s.f (SEQ_PROG.a n) SEQ_PROG.entry) :=
    reg_setF _ _ _ _ huc.regs
  have hstat : ((u.setPc n (s.f (SEQ_PROG.a n) SEQ_PROG.entry)).setReg (SEQ_TRAP.a n) 0#32).reg (SEQ_STAT.a n) = _ :=
    (State.reg_setReg_ne _ _ _ _ (by unfold SEQ_STAT.a SEQ_TRAP.a; omega)).trans hpc
  refine ⟨?_, ?_, hsq, State.reg_setReg _ _ _ ((State.setPc_keeps (State.Keeps.refl u) _ _).canon huc).regs, ?_, fun m hm => ?_, ?_, fun a h1 h2 => ?_⟩
  · unfold State.seqState at *
    rw [hstat, fldGet_fldSet_ne _ _ _ _ (by decide) (by decide), hstate]
  · unfold State.seqPc
    rw [hstat, fldGet_fldSet _ _ _ (by decide)]
    exact Nat.mod_eq_of_lt (fldGet_lt _ SEQ_PROG.entry)
  · rw [← hheld, hsame]
    rfl
  · rw [← s.gwReleaseAll_sq n m]
    exact (hothers m hm).trans (State.sq_setSq_ne _ _ _ _ hm)
  · have hrest := s.gwReleaseAll_rest n
    rw [hsame]
    generalize State.gwReleaseAll s n = v at hrest ⊢
    rw [hrest]
    rfl
  · rw [← s.gwReleaseAll_reg n a]
    exact (State.reg_setReg_ne _ _ _ _ h2).trans ((State.reg_setF_ne _ _ _ _ _ h1).trans (hreg a h1))

end

/-! ### Stops (R123) -/

theorem State.flushQ_same (s : State) (n : Nat) : s.flushQ n = { s with
    regs := (s.flushQ n).regs, evt := (s.flushQ n).evt, out := (s.flushQ n).out, seq := (s.flushQ n).seq, pcie := { s.pcie with pba := (s.flushQ n).pcie.pba } } := by
  unfold State.flushQ
  dsimp only
  split
  · rfl
  · rw [State.raise_same]
    rfl

section
variable {s : State} {n : Nat} (hc : s.Canonical)
include hc

/-- A stop that keeps the queue. -/
theorem State.seqStop_kept_facts : let t := s.seqStop n false
    t.Canonical ∧ t.seqState n = 0 ∧ t.heldBy n = [] ∧ (∀ m, m ≠ n → t.sq m = s.sq m) ∧ t.sq n = { s.sq n with wait := {} } ∧
      t = { s with regs := t.regs, seq := t.seq, msgs := t.msgs, held := t.held } ∧ ∀ a, a ≠ SEQ_STAT.a n → t.reg a = s.reg a := by
  have hrun : s.seqStop n false = (s.enterSeq n 0).gwReleaseAll n := rfl
  obtain ⟨hstate, -, hsq, hsame, hothers, hreg⟩ := s.enterSeq_facts n 0 hc (by decide)
  have hec := s.enterSeq_canon n 0 hc
  have hgsq := (s.enterSeq n 0).gwReleaseAll_sq n
  have hgreg := (s.enterSeq n 0).gwReleaseAll_reg n
  dsimp only
  rw [hrun]
  refine ⟨State.gwReleaseAll_canon _ n hec, (congrArg (fldGet · SEQ_STAT.state) (hgreg _)).trans hstate, seq_heldAll _ n hec, fun m hm => (hgsq m).trans (hothers m hm),
    (hgsq n).trans hsq, ?_, fun a ha => (hgreg a).trans (hreg a ha)⟩
  have hrest := (s.enterSeq n 0).gwReleaseAll_rest n
  generalize State.gwReleaseAll _ n = t at hrest ⊢
  rw [hrest, hsame]

theorem State.seqStop_facts (flush : Bool) : let t := s.seqStop n flush
    t.seqState n = 0 ∧ t.heldBy n = [] ∧ (∀ m, m ≠ n → t.sq m = s.sq m) ∧
      t.sq n = { s.sq n with wait := {}, tq := if flush then (s.sq n).tq.filter (fun e => e.due.isSome) else (s.sq n).tq, aq := if flush then (s.sq n).aq.filter (fun e => s.angleDue e) else (s.sq n).aq } ∧
      t = { s with regs := t.regs, evt := t.evt, out := t.out, seq := t.seq, msgs := t.msgs, held := t.held, pcie := { s.pcie with pba := t.pcie.pba } } := by
  obtain ⟨huc, hstate, hheld, hothers, hsq, hsame, hreg⟩ := State.seqStop_kept_facts (n := n) hc
  cases flush
  case false =>
    refine ⟨hstate, hheld, hothers, hsq, ?_⟩
    generalize s.seqStop n false = t at hsame ⊢
    rw [hsame]
  case true =>
    have hrun : s.seqStop n true = (s.seqStop n false).flushQ n := rfl
    dsimp only
    rw [hrun]
    generalize s.seqStop n false = u at *
    have hdue : ∀ e, u.angleDue e = s.angleDue e := fun e => s.angleDue_eq u e (by rw [hsame]) (by rw [hsame]) fun d => hreg _ (by unfold PHS_STAT.a SEQ_STAT.a; omega)
    have hstat := u.reg_flushQ_ne n (SEQ_STAT.a n) (by unfold SEQ_STAT.a SEQ_QSTAT.a; omega) (by unfold SEQ_STAT.a SEQ_QCNT_A.a; omega) (by unfold SEQ_STAT.a EVT_SRC_STAT.a; omega)
    have hflush := u.flushQ_same n
    refine ⟨(congrArg (fldGet · SEQ_STAT.state) hstat).trans hstate, ?_, fun m hm => (u.flushQ_sq_ne n m hm).trans (hothers m hm), ?_, ?_⟩
    · rw [← hheld, hflush]
      rfl
    · rw [u.flushQ_sq n huc, hsq]
      simp only [hdue, if_true]
    · generalize u.flushQ n = t at hflush ⊢
      rw [hflush, hsame]

end

end Sys2Proof.Machine
end

section
/-! SUPPORT. One instruction of a paused sequencer (06 R126). -/

namespace Sys2Proof.Machine

/-- A result in a general register, of a sequencer in RUN, whatever its cycle: `State.Ran` on to the next word. -/
theorem State.ySet_ran {s : State} {n : Nat} (hc : s.Canonical) (hr : s.seqState n = 1) (hi : s.seqPc n + 1 < s.progLen n) (d : BitVec 4) (v : Word) (c : Nat) :
    let t := (s.yBegin n).ySet n d v c
    s.Ran t n (s.seqPc n + 1) c ∧ ∀ k, t.gr n k = if k = d ∧ d ≠ 0#4 then v else s.gr n k := by
  have hlen : s.seqPc n + 1 < 32768 := Nat.lt_of_lt_of_le hi (Nat.min_le_left _ _)
  have hrun : (s.yBegin n).ySet n d v c = (((s.yBegin n).setGr n d v).setPc n (s.seqPc n + 1)).yCost n c :=
    State.yGo_in (s.yBegin n) _ n _ c (Int.natCast_nonneg _) (Int.ofNat_lt.2 hi)
  obtain ⟨hran, hsq⟩ := s.ran_core n { s.sq n with cyc := s.yCycle n, g := if d = 0#4 then (s.sq n).g else (s.sq n).g.setIfInBounds d.toNat v } (s.seqPc n + 1) c hc hr hlen rfl
  rw [State.setSq_begun s _ n _ rfl hc, ← yufen_setGr_as s (s.yBegin n) n d v rfl hc] at hran hsq
  dsimp only
  rw [hrun]
  exact ⟨hran, yufen_gr_of _ s n d v (by rw [hsq])⟩

/-- The state in which the instruction of a step issues: the paused sequencer in RUN. -/
def State.stepping (s : State) (n : Nat) : State := s.setF (SEQ_STAT.a n) SEQ_STAT.state 1

section
variable {s : State} {n : Nat}

theorem State.stepping_facts (hc : s.Canonical) : (s.stepping n).Canonical ∧ (s.stepping n).seqState n = 1 ∧ (s.stepping n).seqPc n = s.seqPc n ∧
    ∀ a, a ≠ SEQ_STAT.a n → (s.stepping n).reg a = s.reg a := by
  have hreg : (s.stepping n).reg (SEQ_STAT.a n) = fldSet (s.reg (SEQ_STAT.a n)) SEQ_STAT.state 1 := reg_setF _ _ _ _ hc.regs
  refine ⟨(State.setF_keeps (State.Keeps.refl s) _ _ _).canon hc, ?_, ?_, fun a ha => State.reg_setF_ne _ _ _ _ _ ha⟩
  · unfold State.seqState
    rw [hreg, fldGet_fldSet _ _ _ (by decide)]
    rfl
  · unfold State.seqPc
    rw [hreg, fldGet_fldSet_ne _ _ _ _ (by decide) (by decide)]

/-- A configuration field reads while a step runs as it did. -/
theorem State.stepping_f (hc : s.Canonical) {a : Nat} (ha : a ≠ SEQ_STAT.a n) (x : Fld) : (s.stepping n).f a x = s.f a x := by
  have hpar : (s.stepping n).parOf a = s.parOf a := rfl
  unfold State.f State.hw
  dsimp only
  rw [hpar, (State.stepping_facts hc).2.2.2 a ha]

variable (hc : s.Canonical) (hp : s.powered = true) (h2 : s.seqState n = 2)
include hc hp h2

/-- R126: a step executes the word at the pc, or traps on one that no instruction has, and pauses the sequencer again if it is still in RUN. -/
theorem State.yStep_eq : let u := (s.stepping n).yBegin n
    let t := (decodeYufen 0 (s.progWord n (s.seqPc n))).elim (u.trap n 1 0) (u.yRun n)
    s.yStep n = if t.seqState n = 1 then t.enterSeq n 2 else t := by
  have hword : ((s.setF (SEQ_STAT.a n) SEQ_STAT.state 1).yBegin n).progWord n (((s.setF (SEQ_STAT.a n) SEQ_STAT.state 1).yBegin n).seqPc n) = s.progWord n (s.seqPc n) :=
    congrArg (s.progWord n) (State.stepping_facts hc).2.2.1
  refine (if_pos (by rw [hp, h2]; rfl)).trans ?_
  dsimp only
  rw [hword]
  cases decodeYufen 0 (s.progWord n (s.seqPc n)) <;> rfl

/-- R126: a stepped ADD writes its sum and moves the pc on by one; the sequencer is paused again. -/
theorem State.yStep_add (hi : s.seqPc n + 1 < s.progLen n) {d a b : BitVec 4} (hw : s.progWord n (s.seqPc n) = yR 0x08 d a b) : let t := s.yStep n
    t.seqState n = 2 ∧ t.seqPc n = s.seqPc n + 1 ∧ (∀ k, t.gr n k = if k = d ∧ d ≠ 0#4 then s.gr n a + s.gr n b else s.gr n k) ∧ t = { s with regs := t.regs, seq := t.seq } := by
  obtain ⟨huc, hstate, hpc, hreg⟩ := State.stepping_facts (n := n) hc
  have hdec : decodeYufen 0 (yR 0x08 d a b) = some (.iAdd 0 d a b) := by simp [decodeYufen, yIf, yR_fields]
  have hlen : (s.stepping n).progLen n = s.progLen n :=
    congrArg (min 32768) (State.stepping_f hc (by unfold SEQ_PROG.a SEQ_STAT.a; omega) SEQ_PROG.length)
  obtain ⟨⟨hsame, hpc1, hrun, -⟩, hgr⟩ := State.ySet_ran huc hstate (by rw [hpc, hlen]; exact hi) d (s.gr n a + s.gr n b) 1
  have hadd : ((s.stepping n).yBegin n).yRun n (.iAdd 0 d a b) = ((s.stepping n).yBegin n).ySet n d (s.gr n a + s.gr n b) 1 := by
    show State.ySet _ n d (_ + _) 1 = _
    rw [(s.stepping n).yBegin_gr n a huc, (s.stepping n).yBegin_gr n b huc]
    rfl
  have htc : (((s.stepping n).yBegin n).ySet n d (s.gr n a + s.gr n b) 1).Canonical :=
    (State.ySet_keeps (State.Keeps.refl _) n d _ 1).canon ((s.stepping n).yBegin_canon n huc)
  have hstep := State.yStep_eq hc hp h2
  rw [hw, hdec] at hstep
  dsimp only [Option.elim] at hstep
  rw [hadd, if_pos hrun] at hstep
  dsimp only
  rw [hstep]
  generalize State.ySet _ n d _ 1 = t at *
  obtain ⟨hstate2, hpc2, hsq2, hsame2, -⟩ := t.enterSeq_facts n 2 htc (by decide)
  refine ⟨hstate2, hpc2.trans (hpc1.trans (by rw [hpc])), fun k => ?_, ?_⟩
  · have hkeep : (t.enterSeq n 2).gr n k = t.gr n k := by
      unfold State.gr
      rw [hsq2]
    exact hkeep.trans (hgr k)
  · rw [hsame2, hsame]
    rfl

end

/-- R126, 05 R100: a step on a word that no instruction has traps. -/
theorem State.yStep_undefined {s : State} {q : Fin 8} (hc : s.Canonical) (hp : s.powered = true) (h2 : s.seqState q.val = 2)
    (hd : decodeYufen 0 (s.progWord q.val (s.seqPc q.val)) = none) (h0 : s.f (SEQ_WDOG.a q.val) SEQ_WDOG.trap_action = 0) :
    s.Traps (.next (s.yStep q.val)) q.val 1 0 := by
  obtain ⟨huc, -, hpc, -⟩ := State.stepping_facts (n := q.val) hc
  have hwdog := (State.stepping_f hc (show SEQ_WDOG.a q.val ≠ SEQ_STAT.a q.val by unfold SEQ_WDOG.a SEQ_STAT.a; omega) SEQ_WDOG.trap_action).trans h0
  have htrap := State.traps_of s ((s.stepping q.val).yBegin q.val) q 1 0 ((s.stepping q.val).yBegin_canon q.val huc) hwdog (by decide) (by decide) hpc
    (by rw [(s.stepping q.val).yBegin_sq q.val huc]; rfl)
  obtain ⟨t, ht, hstate, -⟩ := id htrap
  have hne : (((s.stepping q.val).yBegin q.val).trap q.val 1 0).seqState q.val ≠ 1 := by
    rw [Host.Outcome.next.inj ht, hstate]
    decide
  have hstep := State.yStep_eq hc hp h2
  rw [hd] at hstep
  rw [hstep.trans (if_neg hne)]
  exact htrap

end Sys2Proof.Machine
end

section
/-! SUPPORT. Writes of program memory and table memory (06 R127 to R129). -/

namespace Sys2Proof.Machine

/-! ### Program memory -/

theorem winAt_prog (q : Fin 8) (k : BitVec 15) : winAt (progAddr q.val k.toNat) = .prog q.val := by
  have hk := k.isLt
  have hq := q.isLt
  unfold winAt progAddr
  rw [if_neg (by omega), if_neg (by omega), if_neg (by omega), if_neg (by omega), if_pos (by omega)]
  exact congrArg WinKind.prog (by omega)

/-- R127: program memory of a sequencer that runs or is paused refuses the write with its event, and a Carr initiator receives a bus error. -/
theorem State.busWrite_prog_refused (s : State) (i a v q : Nat) (hr : s.roleOf i = 2) (ha : a % 4 = 0) (hk : winAt a = .prog q) (h : s.seqState q = 1 ∨ s.seqState q = 2) :
    s.busWrite i a 4 v none = (s.raise (33 + q) 10 0).carrError i true := by
  have h2 : 0x2000000 ≤ a := by
    by_contra hlow
    exact absurd ((if_pos (Nat.lt_of_not_le hlow)).symm.trans hk) nofun
  have hwin : s.writeAt i a 4 v none = (s.raise (33 + q) 10 0, true) := by
    unfold State.writeAt State.winWrite
    rw [if_neg (not_not_intro ha), if_neg (by decide), if_pos h2, hk]
    exact (if_neg (not_not_intro hr)).trans (if_pos h)
  unfold State.busWrite
  rw [if_neg (by rw [seq_winOwn hk nofun]; simp), hwin]

section
variable {s : State} {i : Fin 3} {q : Fin 8} {k : BitVec 15} {v : BitVec 32} (hc : s.Canonical) (hp : s.powered = true) (hr : s.roleOf i.val = 2)
include hc hp hr

theorem exec_programMemoryWrite (h1 : s.seqState q.val ≠ 1) (h2 : s.seqState q.val ≠ 2) : ∃ t : State, exec (.programMemoryWrite i q k v) s = .next t ∧
    t.progWord q.val k.toNat = v ∧ t = { s with win := t.win } ∧
    ∀ x, x < progAddr q.val k.toNat ∨ progAddr q.val k.toNat + 4 ≤ x → Cells.get (fun _ => 0#8) t.win x = Cells.get (fun _ => 0#8) s.win x := by
  have hrun : s.busWrite i.val (progAddr q.val k.toNat) 4 v.toNat none = s.winPut (progAddr q.val k.toNat) 4 v.toNat :=
    seq_winProg s i.val _ 4 v.toNat q.val hr (.inl rfl) (by unfold progAddr; omega) (by unfold progAddr; omega) (winAt_prog q k) h1 h2
  refine ⟨_, (next_live s _ hp).trans (congrArg _ hrun), ?_, rfl, fun x hx => get_memPut_out _ _ _ _ (by rw [leBytes_length]; exact hx)⟩
  have hread : (s.winPut (progAddr q.val k.toNat) 4 v.toNat).winW (progAddr q.val k.toNat) = v.toNat :=
    (memGet_memPut hc.win _ 4 v.toNat).trans (Nat.mod_eq_of_lt v.isLt)
  unfold State.progWord
  rw [hread, BitVec.ofNat_toNat, BitVec.setWidth_eq]

theorem exec_programMemoryWrite_refused (h : s.seqState q.val = 1 ∨ s.seqState q.val = 2) : ∃ t : State, exec (.programMemoryWrite i q k v) s = .next t ∧
    s.Reported t ∧ fldGet (t.reg (EVT_SRC_STAT.a (33 + q.val))) EVT_SRC_STAT.pend = 1 := by
  have hrun : s.busWrite i.val (progAddr q.val k.toNat) 4 v.toNat none = (s.raise (33 + q.val) 10 0).carrError i.val true :=
    s.busWrite_prog_refused i.val _ v.toNat q.val hr (by unfold progAddr; omega) (winAt_prog q k) h
  refine ⟨_, (next_live s _ hp).trans (congrArg _ hrun), State.Reported.carrError (s.raise_same (33 + q.val) 10 0) i.val true, ?_⟩
  rw [State.reg_carrError]
  exact pend_raise s (33 + q.val) 10 0 hc

end

/-! ### Table memory -/

theorem winAt_tbl (a : BitVec 20) : winAt (tblBase + a.toNat) = .table := by
  have ha := a.isLt
  unfold winAt tblBase
  rw [if_neg (by omega), if_neg (by omega), if_neg (by omega), if_neg (by omega), if_neg (by omega), if_pos (by omega)]

/-- Bytes written in one go, or in two. -/
theorem memPut_leBytes_add (d : Nat → Byte) (m : Cells Byte) (a j n v : Nat) :
    memPut d m a (leBytes (j + n) v) = memPut d (memPut d m a (leBytes j v)) (a + j) (leBytes n (v / 256 ^ j)) := by
  induction j generalizing m a v with
  | zero => rw [Nat.zero_add, Nat.pow_zero, Nat.div_one]; rfl
  | succ j ih =>
    rw [Nat.add_right_comm]
    refine (ih (Cells.set d m a (BitVec.ofNat 8 v)) (a + 1) (v / 256)).trans ?_
    rw [Nat.div_div_eq_div_mul, Nat.add_assoc, Nat.add_comm 1 j, Nat.pow_succ, Nat.mul_comm 256]
    rfl

/-- R129: the table memory after a write of two words. -/
theorem State.winPut_tbl_wide (s : State) (a v : Nat) : s.winPut (tblBase + a) 8 v = (s.setTblW a v).setTblW (a + 4) (v / 2 ^ 32) := by
  unfold State.winPut
  rw [memPut_leBytes_add _ _ _ 4 4]
  rfl

theorem State.tblW_setTblW_mod (s : State) (a v : Nat) (hc : s.Canonical) : (s.setTblW a v).tblW a = v % 2 ^ 32 := memGet_memPut hc.win _ 4 v

section
variable {s : State} {i : Fin 3} {a : BitVec 20} {v : BitVec 64} (hp : s.powered = true) (hr : s.roleOf i.val = 2)
include hp hr

theorem exec_seqTableWrite_word (ha : a.toNat % 4 = 0) : exec (.seqTableWrite i a false v) s = .next (s.setTblW a.toNat (v.toNat % 2 ^ 32)) :=
  (next_live s _ hp).trans (congrArg _ (seq_winTable s i.val (tblBase + a.toNat) 4 _ hr (.inl rfl) (by unfold tblBase; omega) (by unfold tblBase; omega) (winAt_tbl a)))

theorem exec_seqTableWrite_wide (ha : a.toNat % 8 = 0) :
    exec (.seqTableWrite i a true v) s = .next ((s.setTblW a.toNat v.toNat).setTblW (a.toNat + 4) (v.toNat / 2 ^ 32)) := by
  refine (next_live s _ hp).trans (congrArg _ ?_)
  rw [← s.winPut_tbl_wide]
  exact seq_winTable s i.val (tblBase + a.toNat) 8 _ hr (.inr rfl) (by unfold tblBase; omega) (by unfold tblBase; omega) (winAt_tbl a)

end

end Sys2Proof.Machine
end

section
/-! SUPPORT. The sequencers' control and memories together (06 R121 to R129). -/

namespace Sys2Proof.Machine

/-- Settles O27: each command of SEQ_CTRL by the operation that it starts, the memories by what the bus leaves of a write. -/
theorem sequencersMoveBetweenStates : Obligations.SequencersMoveBetweenStates := by
  unfold Obligations.SequencersMoveBetweenStates
  refine fun s i q hc => ⟨fun hm => ⟨fun h => ?_, fun k h => ?_, fun flush => ?_, fun h => ?_, fun h => ?_, fun h => ?_, fun h => ⟨?_, ?_⟩, fun h hi d a b hw => ?_, fun h hd h0 => ?_⟩,
    fun hp hr k v => ⟨fun h1 h2 => exec_programMemoryWrite hc hp hr h1 h2, fun h => exec_programMemoryWrite_refused hc hp hr h⟩,
    fun hp hr a v => ⟨fun ha => ?_, fun ha => ?_⟩⟩
  · exact ⟨_, exec_seqStart hm, State.seqStart_facts hc h⟩
  · exact (exec_seqStart hm).trans (congrArg _ (State.seqStart_refused h))
  · exact ⟨_, exec_seqStop hm flush, State.seqStop_facts hc flush⟩
  · exact ⟨_, (exec_seqPause hm).trans (congrArg _ (State.seqPause_running h)), s.enterSeq_facts q.val 2 hc (by decide)⟩
  · exact (exec_seqPause hm).trans (congrArg _ (State.seqPause_other h))
  · exact ⟨_, (exec_seqResume hm).trans (congrArg _ (State.seqResume_paused h)), s.enterSeq_facts q.val 1 hc (by decide)⟩
  · exact (exec_seqResume hm).trans (congrArg _ (State.seqResume_other h))
  · exact (exec_seqStep hm).trans (congrArg _ (State.yStep_other h))
  · exact ⟨_, exec_seqStep hm, State.yStep_add hc hm.powered h hi hw⟩
  · rw [exec_seqStep hm]
    exact State.yStep_undefined hc hm.powered h hd h0
  · exact ⟨_, exec_seqTableWrite_word hp hr ha, s.tblW_setTblW _ _ hc (Nat.mod_lt _ (by decide)), rfl, fun x hx => s.tblB_setTblW_ne _ x _ hx⟩
  · have h1 := s.setTblW_canonical a.toNat v.toNat hc
    have hhigh : v.toNat / 2 ^ 32 < 2 ^ 32 := by omega
    refine ⟨_, exec_seqTableWrite_wide hp hr ha, ?_, State.tblW_setTblW _ _ _ h1 hhigh, rfl, fun x hx => ?_⟩
    · rw [State.tblW_setTblW_ne _ _ _ _ (by omega)]
      exact s.tblW_setTblW_mod _ _ hc
    · rw [State.tblB_setTblW_ne _ _ _ _ (by omega), State.tblB_setTblW_ne _ _ _ _ (by omega)]

end Sys2Proof.Machine
end

section
/-! SUPPORT. Writes of the templates, and the decision points computed anew (07 R148, R154). -/

namespace Sys2Proof.Machine

/-! ### Registers set one after the other -/

/-- Steps that change registers alone. -/
theorem State.foldl_regs {f : State → Nat → State} (h : ∀ (u : State) k, f u k = { u with regs := (f u k).regs }) (l : List Nat) (s : State) :
    l.foldl f s = { s with regs := (l.foldl f s).regs } := by
  induction l generalizing s with
  | nil => rfl
  | cons k l ih =>
    rw [List.foldl_cons, ih (f s k), h s k]

/-- Steps that leave a register leave it together. -/
theorem State.reg_foldl_ne {f : State → Nat → State} {a : Nat} (l : List Nat) (h : ∀ k ∈ l, ∀ u : State, (f u k).reg a = u.reg a) (s : State) :
    (l.foldl f s).reg a = s.reg a := by
  induction l generalizing s with
  | nil => rfl
  | cons k l ih =>
    exact (ih (fun j hj => h j (List.mem_cons_of_mem _ hj)) (f s k)).trans (h k List.mem_cons_self s)

/-! ### Template registers -/

/-- The rows of the registers that describe templates (07 R148, R149). -/
def tplRows : List RegRow :=
  [{ base := 8392704, s1 := 256, n1 := 16, rw := 0xffe0ffff#32, par := 0xffe0ffff#32, cut := 0xa0210001#32 },
   { base := 8392708, s1 := 256, n1 := 16, rw := 0xffffc0ff#32, par := 0xffffc0ff#32, cut := 0x40404101#32 },
   { base := 8392768, s1 := 256, n1 := 16, s2 := 8, n2 := 24, rw := 0xffffc000#32, par := 0xffffc000#32, cut := 0xa0284001#32 },
   { base := 8392772, s1 := 256, n1 := 16, s2 := 8, n2 := 24, reset := 0xffffffff#32, rw := 0xffffffff#32, par := 0xffffffff#32, cut := 0x00000001#32 }]

/-- An address of a register that describes template `t` of pipeline `p`. -/
def tplAddr (p t a : Nat) : Prop :=
  a = CLS_TPL_CFG.a p t ∨ a = CLS_TPL_LEN.a p t ∨ ∃ k : Fin 24, a = CLS_FLD_DESC.a p t k.val ∨ a = CLS_FLD_MASK.a p t k.val

theorem tplRow_mem {p : Fin 2} {t : Fin 16} {a : Nat} {r : RegRow} (h : tplAddr p.val t.val a) (hr : rowAt a = some r) : r ∈ tplRows := by
  obtain rfl | rfl | ⟨k, rfl | rfl⟩ := h
  · rw [Option.some.inj (hr.symm.trans (bank_kindOf_tpl p t))]; decide
  · rw [Option.some.inj (hr.symm.trans (bank_kindOf_tlen p t))]; decide
  · rw [Option.some.inj (hr.symm.trans (bank_kindOf_fdesc p t k))]; decide
  · rw [Option.some.inj (hr.symm.trans (bank_kindOf_fmask p t k))]; decide

theorem tplAddr_block {p : Fin 2} {t : Fin 16} {a : Nat} (h : tplAddr p.val t.val a) :
    (a % 4 == 0 && decide (a < 0x2000000) && a != ROL_LC_REQ.a && a != ROL_LC_REQ.a + 4 && !carrOnly a) = true ∧ blockOf a = 6 + p.val := by
  obtain rfl | rfl | ⟨k, rfl | rfl⟩ := h
  · revert p t; decide
  · revert p t; decide
  · revert p t k; decide
  · revert p t k; decide

/-- A template register has RW fields alone. -/
theorem tplRow_plain {r : RegRow} (h : r ∈ tplRows) :
    (!r.guard && r.base != SEQ_CTRL.a 0 && r.base != POL_METER_CFG.a 0 0) = true ∧ logged r = true ∧
    (r.base != EVT_SRC_CFG.a 0 && r.base != GW_POOL.a && r.base != SHP_PORT_CFG.a 0 && r.base != ETH_PORT_MODE.a 0) = true ∧
    r.rw ||| r.rwh ||| r.rwg = r.rw ∧ r.rw ≠ 0#32 ∧ clearMask r = 0#32 ∧
    (r.base = CLS_TPL_CFG.a 0 0 ∨ r.base = CLS_TPL_LEN.a 0 0 ∨ r.base = CLS_FLD_DESC.a 0 0 0 ∨ r.base = CLS_FLD_MASK.a 0 0 0) := by
  revert r; decide

section
variable {s : State} {i p : Nat} {a : Nat} {r : RegRow} (hc : s.Canonical)

theorem State.newVal_tpl (hr : r ∈ tplRows) (v : Word) : s.newVal r a v = (s.reg a &&& ~~~r.rw) ||| (v &&& r.rw) := by
  obtain ⟨-, -, hplain, hrw, -, hclr, -⟩ := tplRow_plain hr
  unfold State.newVal
  dsimp only
  rw [State.rwMask_plain _ _ _ hplain, hrw, hclr]
  simp [and_ones]

theorem State.committed_only (r : RegRow) (i a : Nat) (v : Word) :
    s.committed r i a v = { s with regs := (s.committed r i a v).regs, par := (s.committed r i a v).par, aud := (s.committed r i a v).aud,
                                   evt := (s.committed r i a v).evt, out := (s.committed r i a v).out,
                                   pcie := { s.pcie with pba := (s.committed r i a v).pcie.pba } } := by
  unfold State.committed
  obtain ⟨_, _, _, _, _, h⟩ := State.audit_only ((s.setReg a (s.newVal r a v)).parClear a (s.rwMask r a)) 0 (s.roleOf i) i a (s.reg a).toNat (s.newVal r a v).toNat
  rw [h]
  rfl

theorem State.reg_committed_ne (r : RegRow) (i a x : Nat) (v : Word) (h : x ≠ a) (h60 : x ≠ EVT_SRC_STAT.a 60) : (s.committed r i a v).reg x = s.reg x := by
  unfold State.committed
  rw [State.reg_audit_ne _ _ _ _ _ _ _ _ h60]
  exact State.reg_setReg_ne _ _ _ _ h

include hc in
theorem State.tplWritten_facts (p : Nat) :
    (s.tplWritten p).dpStale p 0 = true ∧ (s.tplWritten p).dpStale p 1 = true ∧ (∀ tpl tags, (s.tplWritten p).decisionPoint p tpl tags = 192) ∧
    s.tplWritten p = { s with pipe := (s.tplWritten p).pipe } :=
  ⟨bank_tplWritten_stale s p 0 hc, bank_tplWritten_stale s p 1 hc, fun tpl tags => bank_dp192 _ p tpl tags fun b => bank_tplWritten_stale s p b hc, rfl⟩

end

/-- R148, R154: a write of a template register. -/
theorem exec_templateWrite {s : State} {i : Fin 3} {p : Fin 2} {t : Fin 16} {a v : BitVec 32} {r : RegRow} (hc : s.Canonical)
    (hm : s.May i.val a.toNat) (hr : rowAt a.toNat = some r) (ha : tplAddr p.val t.val a.toNat) :
    exec (.templateWrite i a v) s = .next ((s.committed r i.val a.toNat v).tplWritten p.val) := by
  obtain ⟨hguard, hlog, hplain, hrw, hne, -, hbase⟩ := tplRow_plain (tplRow_mem ha hr)
  obtain ⟨haddr, hblock⟩ := tplAddr_block ha
  exact (next_live s _ hm.powered).trans
    (congrArg _ (bank_tplOut s i.val p.val a.toNat v r hc hm hr haddr hblock p.isLt hguard hlog hplain (by rwa [hrw]) hbase))

theorem tplAddr_ne {p : Fin 2} {t : Fin 16} {a : Nat} (h : tplAddr p.val t.val a) : a ≠ EVT_SRC_STAT.a 60 := by
  obtain rfl | rfl | ⟨k, rfl | rfl⟩ := h
  · unfold CLS_TPL_CFG.a EVT_SRC_STAT.a; omega
  · unfold CLS_TPL_LEN.a EVT_SRC_STAT.a; omega
  · unfold CLS_FLD_DESC.a EVT_SRC_STAT.a; omega
  · unfold CLS_FLD_MASK.a EVT_SRC_STAT.a; omega

/-! ### Decision points -/

/-- R154: the register that shows the decision points of template `t` from bank `b`. -/
def State.dpReg (s : State) (p b t : Nat) : Nat := if s.activeBank p = b then CLS_TPL_DP.a p t else CLS_TPL_DP_SH.a p t

/-- R154: the decision points of a template for 2, 1 and 0 tags in one word. -/
def State.dpWord (s : State) (p b t : Nat) : Word := BitVec.ofNat 32 (s.dpOf p b t 2 * 65536 + s.dpOf p b t 1 * 256 + s.dpOf p b t 0)

theorem State.dpReg_inj (s : State) (p b x y : Nat) (h : s.dpReg p b x = s.dpReg p b y) : x = y := by
  unfold State.dpReg CLS_TPL_DP.a CLS_TPL_DP_SH.a at h
  split at h <;> omega

theorem State.dpRecompute_eq (s : State) (p b : Nat) :
    s.dpRecompute p b = ((List.range 16).foldl (fun (u : State) t => u.setReg (s.dpReg p b t) (s.dpWord p b t)) s).setStale p b false := by
  unfold State.dpRecompute State.dpReg State.dpWord
  simp only [decide_eq_true_eq]

theorem State.reg_setStale (s : State) (p b : Nat) (v : Bool) (a : Nat) : (s.setStale p b v).reg a = s.reg a := by
  unfold State.reg
  rw [(bank_setStale_regs s p b v).1]

theorem State.setStale_only (s : State) (p b : Nat) (v : Bool) : s.setStale p b v = { s with pipe := (s.setStale p b v).pipe } := by
  unfold State.setStale
  split <;> rfl

theorem State.dpStale_setStale (s : State) (p b : Nat) (v : Bool) (h : Cells.wf (fun _ => {}) s.pipe = true) : (s.setStale p b v).dpStale p b = v := by
  have hpp : ∀ x : PipeSt, (s.setPp p x).pp p = x := fun x => Cells.get_set h _ _
  unfold State.setStale State.dpStale
  by_cases hb : b = 0
  · rw [if_pos hb, if_pos hb, hpp]
  · rw [if_neg hb, if_neg hb, hpp]

/-- R154: the registers of a bank's decision points after their recomputation. -/
theorem State.dpRecompute_facts {s : State} {p b : Nat} (hc : s.Canonical) :
    (s.dpRecompute p b).dpStale p b = false ∧ (∀ t : Fin 16, (s.dpRecompute p b).reg (s.dpReg p b t.val) = s.dpWord p b t.val) ∧
    s.dpRecompute p b = { s with regs := (s.dpRecompute p b).regs, pipe := (s.dpRecompute p b).pipe } ∧
    ∀ x, (∀ t : Fin 16, x ≠ s.dpReg p b t.val) → (s.dpRecompute p b).reg x = s.reg x := by
  rw [State.dpRecompute_eq]
  set v := (List.range 16).foldl (fun (u : State) t => u.setReg (s.dpReg p b t) (s.dpWord p b t)) s with hv
  have hregs : v = { s with regs := v.regs } := State.foldl_regs (fun _ _ => rfl) _ s
  refine ⟨State.dpStale_setStale _ _ _ _ (by rw [hregs]; exact hc.pipe), fun t => ?_, ?_, fun x hx => ?_⟩
  · rw [State.reg_setStale, hv, (bank_reg_foldSet (List.range 16) s (s.dpReg p b) (s.dpWord p b) hc.regs (s.dpReg_inj p b) t.val).2,
      if_pos (List.mem_range.2 t.isLt)]
  · rw [State.setStale_only v, hregs]
  · rw [State.reg_setStale, hv]
    exact State.reg_foldl_ne _ (fun k hk u => State.reg_setReg_ne _ _ _ _ (hx ⟨k, List.mem_range.1 hk⟩)) s

theorem exec_dpRecomputeDone {s : State} {p b : Fin 2} (hp : s.powered = true) (h : s.dpStale p.val b.val = true) :
    exec (.dpRecomputeDone p b) s = .next (s.dpRecompute p.val b.val) := by
  refine (next_live s _ hp).trans (congrArg _ ?_)
  rw [if_pos h]

theorem exec_dpRecomputeDone_fresh {s : State} {p b : Fin 2} (hp : s.powered = true) (h : s.dpStale p.val b.val = false) :
    exec (.dpRecomputeDone p b) s = .next s := by
  refine (next_live s _ hp).trans (congrArg _ ?_)
  rw [if_neg (by rw [h]; decide)]

end Sys2Proof.Machine
end

section
/-! SUPPORT. Writes of rules and patterns through the table window (07 R156, R163, R165, R166). -/

namespace Sys2Proof.Machine

/-- R22: a write by the Installer into a window that the fabric serves is the window's. -/
theorem State.busWrite_win (s : State) (i a n v : Nat) (k : WinKind) (hk : winAt a = k) (hwin : k ≠ .none) (hn : n = 4 ∨ n = 8) (ha : a % n = 0) :
    s.busWrite i a n v none = (s.winWrite i a n v).1.carrError i (s.winWrite i a n v).2 := by
  have hlow : 0x2000000 ≤ a := by
    by_contra hlt
    exact hwin (hk.symm.trans (if_pos (Nat.lt_of_not_le hlt)))
  unfold State.busWrite
  rw [if_neg (by rw [seq_winOwn hk hwin]; simp)]
  unfold State.writeAt
  rw [if_neg (by omega), if_neg (by omega), if_pos hlow]

section
variable (s : State) (p b a v : Nat)

/-- R163: the entry whose final word stands at place `o` of a bank. -/
def finalOf (o : Nat) : Option Nat :=
  if o < 80 * 2048 then (if o % 80 = 76 then some (o / 80) else none)
  else if 0x30000 ≤ o ∧ o < 0x30000 + 48 * 256 then (if (o - 0x30000) % 48 = 44 then some (2048 + (o - 0x30000) / 48) else none)
  else none

theorem finalOf_rule (e : Fin 2048) : finalOf (80 * e.val + 76) = some e.val := by
  unfold finalOf
  rw [if_pos (by omega), if_pos (by omega)]
  exact congrArg some (by omega)

theorem finalOf_pattern (e : Fin 256) : finalOf (0x30000 + 48 * e.val + 44) = some (2048 + e.val) := by
  unfold finalOf
  rw [if_neg (by omega), if_pos (by omega), if_pos (by omega)]
  exact congrArg some (by omega)

/-- The marks of bad parity that a written word leaves. -/
def State.parityAfter (s : State) (p b a : Nat) : Cells Bool :=
  match finalOf (a - bankBase p b) with
  | some e => Cells.set (fun _ => false) s.ruleBad (parKey p b e) false
  | none => s.ruleBad

theorem State.ruleWrite_eq : s.ruleWrite p b a v =
    { s with win := memPut (fun _ => 0#8) s.win a (leBytes 4 (BitVec.ofNat 32 v &&& ruleMask (a - bankBase p b)).toNat),
             ruleBad := s.parityAfter p b a }.setStale p b true := by
  unfold State.ruleWrite State.parityAfter
  dsimp only
  cases he : finalOf (a - bankBase p b) with
  | none =>
    unfold finalOf at he
    rw [he]
  | some e =>
    unfold finalOf at he
    rw [he]

theorem State.ruleWrite_win : (s.ruleWrite p b a v).win =
    memPut (fun _ => 0#8) s.win a (leBytes 4 (BitVec.ofNat 32 v &&& ruleMask (a - bankBase p b)).toNat) := by
  rw [State.ruleWrite_eq, (bank_setStale_regs _ _ _ _).2]

theorem State.ruleWrite_ruleBad : (s.ruleWrite p b a v).ruleBad = s.parityAfter p b a := by
  rw [State.ruleWrite_eq, State.setStale_only]

theorem State.ruleWrite_only : s.ruleWrite p b a v =
    { s with win := (s.ruleWrite p b a v).win, ruleBad := (s.ruleWrite p b a v).ruleBad, pipe := (s.ruleWrite p b a v).pipe } := by
  conv_lhs => rw [State.ruleWrite_eq, State.setStale_only]
  rw [State.ruleWrite_win, State.ruleWrite_ruleBad, State.ruleWrite_eq]

theorem State.ruleWrite_get (x : Nat) (h : x < a ∨ a + 4 ≤ x) :
    Cells.get (fun _ => 0#8) (s.ruleWrite p b a v).win x = Cells.get (fun _ => 0#8) s.win x := by
  rw [State.ruleWrite_win]
  exact get_memPut_out _ _ _ _ (by rw [leBytes_length]; exact h)

theorem State.winW_ruleWrite_ne (x : Nat) (h : x + 4 ≤ a ∨ a + 4 ≤ x) : (s.ruleWrite p b a v).winW x = s.winW x := by
  unfold State.winW
  rw [State.ruleWrite_win]
  exact memGet_memPut_out _ _ _ _ _ (by rw [leBytes_length]; exact h)

theorem State.ruleWrite_canonical (hc : s.Canonical) : (s.ruleWrite p b a v).Canonical :=
  (State.ruleWrite_keeps (State.Keeps.refl s) p b a v).canon hc

theorem State.winW_ruleWrite (hc : s.Canonical) : (s.ruleWrite p b a v).winW a = (BitVec.ofNat 32 v &&& ruleMask (a - bankBase p b)).toNat := by
  unfold State.winW
  rw [State.ruleWrite_win, memGet_memPut hc.win]
  exact Nat.mod_eq_of_lt (BitVec.isLt _)

theorem State.dpStale_ruleWrite (hc : s.Canonical) : (s.ruleWrite p b a v).dpStale p b = true := by
  rw [State.ruleWrite_eq]
  exact State.dpStale_setStale _ p b true hc.pipe

/-- R163, R165: the write of an entry's final word ends its parity fault. -/
theorem State.entryBad_ruleWrite (hc : s.Canonical) {e : Nat} (h : finalOf (a - bankBase p b) = some e) :
    (s.ruleWrite p b a v).entryBad p b e = false := by
  unfold State.entryBad
  rw [State.ruleWrite_ruleBad]
  unfold State.parityAfter
  rw [h]
  exact Cells.get_set hc.ruleBad _ _

end

section
variable {s : State} {i : Fin 3} {p b : Fin 2} {a : BitVec 32} {v : BitVec 64} (hp : s.powered = true) (hr : s.roleOf i.val = 2)
  (hwin : winAt a.toNat = .rule p.val b.val)
include hp hr hwin

theorem exec_ruleWindowWrite_word (hb : s.bankState p.val b.val ≠ 2) (ha : a.toNat % 4 = 0) :
    exec (.ruleWindowWrite i a 2 v) s = .next (s.ruleWrite p.val b.val a.toNat (v.toNat % 2 ^ 32)) := by
  have hrun : s.busWrite i.val a.toNat 4 (v.toNat % 2 ^ 32) none = s.ruleWrite p.val b.val a.toNat (v.toNat % 2 ^ 32) := by
    rw [State.busWrite_win s i.val a.toNat _ _ _ hwin nofun (.inl rfl) ha]
    unfold State.winWrite
    rw [hwin]
    dsimp only
    rw [if_neg (not_not_intro hr), if_neg hb, Nat.mod_mod]
    rfl
  exact (next_live s _ hp).trans (congrArg _ hrun)

theorem exec_ruleWindowWrite_wide (hb : s.bankState p.val b.val ≠ 2) (ha : a.toNat % 8 = 0) :
    exec (.ruleWindowWrite i a 3 v) s =
      .next ((s.ruleWrite p.val b.val a.toNat (v.toNat % 2 ^ 32)).ruleWrite p.val b.val (a.toNat + 4) (v.toNat / 2 ^ 32)) := by
  have hrun : s.busWrite i.val a.toNat 8 (v.toNat % 2 ^ 64) none =
      (s.ruleWrite p.val b.val a.toNat (v.toNat % 2 ^ 32)).ruleWrite p.val b.val (a.toNat + 4) (v.toNat / 2 ^ 32) := by
    rw [Nat.mod_eq_of_lt v.isLt, State.busWrite_win s i.val a.toNat _ _ _ hwin nofun (.inr rfl) ha]
    unfold State.winWrite
    rw [hwin]
    dsimp only
    rw [if_neg (not_not_intro hr), if_neg hb]
    rfl
  exact (next_live s _ hp).trans (congrArg _ hrun)

/-- R166: a DRAINING bank refuses the write. -/
theorem exec_ruleWindowWrite_busy (hb : s.bankState p.val b.val = 2) (ha : a.toNat % 4 = 0) :
    exec (.ruleWindowWrite i a 2 v) s =
      .next (((s.setF (CLS_BANK_STAT.a p.val) CLS_BANK_STAT.wr_busy 1).raise (41 + p.val) 0x24 b.val).carrError i.val true) := by
  have hrun : s.busWrite i.val a.toNat 4 (v.toNat % 2 ^ 32) none =
      ((s.setF (CLS_BANK_STAT.a p.val) CLS_BANK_STAT.wr_busy 1).raise (41 + p.val) 0x24 b.val).carrError i.val true := by
    rw [State.busWrite_win s i.val a.toNat _ _ _ hwin nofun (.inl rfl) ha]
    unfold State.winWrite
    rw [hwin]
    dsimp only
    rw [if_neg (not_not_intro hr), if_pos hb]
  exact (next_live s _ hp).trans (congrArg _ hrun)

end

theorem setWidth_low (v : BitVec 64) : BitVec.ofNat 32 (v.toNat % 2 ^ 32) = v.setWidth 32 := by
  apply BitVec.eq_of_toNat_eq
  simp

theorem bankStat_ne_evtStat (p : Fin 2) (n : Nat) : CLS_BANK_STAT.a p.val ≠ EVT_SRC_STAT.a n := by
  unfold CLS_BANK_STAT.a EVT_SRC_STAT.a
  omega

/-- A field of CLS_BANK_STAT changed and its event raised. -/
theorem State.bankNote_facts (s : State) (p : Fin 2) (f : Fld) (x c i : Nat) (hc : s.Canonical) :
    ((s.setF (CLS_BANK_STAT.a p.val) f x).raise (41 + p.val) c i).reg (CLS_BANK_STAT.a p.val) = fldSet (s.reg (CLS_BANK_STAT.a p.val)) f x ∧
    fldGet (((s.setF (CLS_BANK_STAT.a p.val) f x).raise (41 + p.val) c i).reg (EVT_SRC_STAT.a (41 + p.val))) EVT_SRC_STAT.pend = 1 ∧
    s.Reported ((s.setF (CLS_BANK_STAT.a p.val) f x).raise (41 + p.val) c i) := by
  have hcan : (s.setF (CLS_BANK_STAT.a p.val) f x).Canonical := (State.setF_keeps (State.Keeps.refl s) _ _ _).canon hc
  refine ⟨?_, pend_raise _ _ _ _ hcan, ?_⟩
  · rw [State.reg_raise_ne _ _ _ _ _ (bankStat_ne_evtStat p _)]
    exact State.reg_setReg _ _ _ hc.regs
  · unfold State.Reported
    rw [State.raise_same]
    rfl

/-- R166: what the refusal of a write into a DRAINING bank shows. -/
theorem State.bankBusy_facts (s : State) (i : Nat) (p b : Fin 2) (hc : s.Canonical) :
    let u := ((s.setF (CLS_BANK_STAT.a p.val) CLS_BANK_STAT.wr_busy 1).raise (41 + p.val) 0x24 b.val).carrError i true
    fldGet (u.reg (CLS_BANK_STAT.a p.val)) CLS_BANK_STAT.wr_busy = 1 ∧ fldGet (u.reg (EVT_SRC_STAT.a (41 + p.val))) EVT_SRC_STAT.pend = 1 ∧ s.Reported u := by
  obtain ⟨hstat, hpend, honly⟩ := s.bankNote_facts p CLS_BANK_STAT.wr_busy 1 0x24 b.val hc
  refine ⟨?_, ?_, honly.carrError i true⟩
  · rw [State.reg_carrError, hstat]
    exact fldGet_fldSet _ _ _ (by decide)
  · rw [State.reg_carrError]
    exact hpend

end Sys2Proof.Machine
end

section
/-! SUPPORT. Swaps and drains of the rule banks (07 R166 to R169). -/

namespace Sys2Proof.Machine

theorem State.Reported.trans {s t u : State} (h : s.Reported t) (k : t.Reported u) : s.Reported u := by
  unfold State.Reported at *
  rw [k, h]

theorem State.activeBank_lt (s : State) (p : Nat) : s.activeBank p < 2 := fldGet_lt _ CLS_BANK_STAT.active

/-- The field of CLS_BANK_STAT that shows the state of a bank. -/
def bankFld (b : Nat) : Fld := if b = 0 then CLS_BANK_STAT.state0 else CLS_BANK_STAT.state1

theorem bankFld_hi (b : Nat) : (bankFld b).hi < 32 := by
  unfold bankFld
  split <;> decide

theorem State.activeBank_congr {s t : State} {p : Nat} (h : t.reg (CLS_BANK_STAT.a p) = s.reg (CLS_BANK_STAT.a p)) : t.activeBank p = s.activeBank p := by
  unfold State.activeBank
  rw [h]

theorem State.holders_eq_zero {s : State} {p b : Nat} : s.holders p b = 0 ↔ ∀ f ∈ s.frames, (p, b) ∉ f.hold := by
  unfold State.holders
  rw [List.length_eq_zero_iff, List.filter_eq_nil_iff]
  simp

section
variable {s : State} {p : Fin 2}

/-! ### A refused swap -/

theorem State.swapRefuse_facts (hc : s.Canonical) :
    fldGet ((s.swapRefuse p.val).reg (CLS_BANK_STAT.a p.val)) CLS_BANK_STAT.swap_refused = 1 ∧ (s.swapRefuse p.val).activeBank p.val = s.activeBank p.val ∧
    (s.swapRefuse p.val).bankState p.val 0 = s.bankState p.val 0 ∧ (s.swapRefuse p.val).bankState p.val 1 = s.bankState p.val 1 ∧
    fldGet ((s.swapRefuse p.val).reg (EVT_SRC_STAT.a (41 + p.val))) EVT_SRC_STAT.pend = 1 ∧ s.Reported (s.swapRefuse p.val) := by
  obtain ⟨hstat, hpend, honly⟩ := s.bankNote_facts p CLS_BANK_STAT.swap_refused 1 0x22 (s.activeBank p.val) hc
  have hother : ∀ g : Fld, g.hi < 30 → fldGet ((s.swapRefuse p.val).reg (CLS_BANK_STAT.a p.val)) g = fldGet (s.reg (CLS_BANK_STAT.a p.val)) g :=
    fun g hg => (congrArg (fldGet · g) hstat).trans (fldGet_fldSet_ne _ _ _ _ (Nat.lt_of_lt_of_le hg (by decide)) (.inl hg))
  exact ⟨(congrArg (fldGet · _) hstat).trans (fldGet_fldSet _ _ _ (by decide)), hother CLS_BANK_STAT.active (by decide), hother CLS_BANK_STAT.state0 (by decide),
    hother CLS_BANK_STAT.state1 (by decide), hpend, honly⟩

/-! ### The end of a drain -/

/-- R168: a DRAINING bank without a holder becomes SHADOW. -/
theorem State.drainDone_facts (hc : s.Canonical) (h2 : s.bankState p.val (1 - s.activeBank p.val) = 2)
    (hhold : ∀ f ∈ s.frames, (p.val, 1 - s.activeBank p.val) ∉ f.hold) :
    (s.drainDone p.val).bankState p.val (1 - s.activeBank p.val) = 0 ∧ (s.drainDone p.val).activeBank p.val = s.activeBank p.val ∧
    fldGet ((s.drainDone p.val).reg (EVT_SRC_STAT.a (41 + p.val))) EVT_SRC_STAT.pend = 1 ∧ s.Reported (s.drainDone p.val) ∧
    ∀ x, x ≠ CLS_BANK_STAT.a p.val → x ≠ EVT_SRC_STAT.a (41 + p.val) → (s.drainDone p.val).reg x = s.reg x := by
  obtain ⟨hstat, hpend, honly⟩ := s.bankNote_facts p (bankFld (1 - s.activeBank p.val)) 0 0x23 (1 - s.activeBank p.val) hc
  have hdone : s.drainDone p.val = (s.setF (CLS_BANK_STAT.a p.val) (bankFld (1 - s.activeBank p.val)) 0).raise (41 + p.val) 0x23 (1 - s.activeBank p.val) :=
    if_pos ⟨h2, State.holders_eq_zero.2 hhold⟩
  rw [hdone]
  refine ⟨?_, ?_, hpend, honly, fun x hx hev => ?_⟩
  · exact (congrArg (fldGet · _) hstat).trans ((fldGet_fldSet _ _ _ (bankFld_hi _)).trans (Nat.zero_mod _))
  · refine (congrArg (fldGet · _) hstat).trans (fldGet_fldSet_ne _ _ _ _ (by decide) (.inl ?_))
    unfold bankFld
    split <;> decide
  · rw [State.reg_raise_ne _ _ _ _ _ hev, State.reg_setF_ne _ _ _ _ _ hx]

theorem State.drainDone_held {f : Frame} (hf : f ∈ s.frames) (h : (p.val, 1 - s.activeBank p.val) ∈ f.hold) : s.drainDone p.val = s :=
  if_neg fun hd => State.holders_eq_zero.1 hd.2 f hf h

theorem State.drainDone_shadow (h : s.bankState p.val (1 - s.activeBank p.val) ≠ 2) : s.drainDone p.val = s := if_neg fun hd => h hd.1

/-! ### A swap -/

/-- R168: what a step of the exchange of the decision points does; `v` the state before the swap. -/
def State.dpSwap (v : State) (p : Nat) (u : State) (t : Nat) : State :=
  (u.setReg (CLS_TPL_DP.a p t) (v.reg (CLS_TPL_DP_SH.a p t))).setReg (CLS_TPL_DP_SH.a p t) (v.reg (CLS_TPL_DP.a p t))

theorem State.reg_dpSwap_ne (v : State) (p t a : Nat) (u : State) (h1 : a ≠ CLS_TPL_DP.a p t) (h2 : a ≠ CLS_TPL_DP_SH.a p t) : (v.dpSwap p u t).reg a = u.reg a := by
  unfold State.dpSwap
  rw [State.reg_setReg_ne _ _ _ _ h2, State.reg_setReg_ne _ _ _ _ h1]

theorem State.wf_dpSwap (v : State) (p t : Nat) {u : State} (h : Cells.wf resetOf u.regs = true) : Cells.wf resetOf (v.dpSwap p u t).regs = true :=
  Cells.wf_set (Cells.wf_set h _ _) _ _

theorem tplDp_ne_shadow (p t k : Nat) : CLS_TPL_DP.a p t ≠ CLS_TPL_DP_SH.a p k := by
  unfold CLS_TPL_DP.a CLS_TPL_DP_SH.a
  omega

theorem State.reg_dpSwap (v : State) (p t : Nat) {u : State} (h : Cells.wf resetOf u.regs = true) :
    (v.dpSwap p u t).reg (CLS_TPL_DP.a p t) = v.reg (CLS_TPL_DP_SH.a p t) ∧ (v.dpSwap p u t).reg (CLS_TPL_DP_SH.a p t) = v.reg (CLS_TPL_DP.a p t) := by
  unfold State.dpSwap
  refine ⟨?_, State.reg_setReg _ _ _ (Cells.wf_set h _ _)⟩
  rw [State.reg_setReg_ne _ _ _ _ (tplDp_ne_shadow p t t), State.reg_setReg _ _ _ h]

/-- The decision points of the templates in `l`, exchanged. -/
theorem State.reg_dpSwaps (v : State) (p : Nat) (l : List Nat) {u : State} (h : Cells.wf resetOf u.regs = true) {t : Nat} (ht : t ∈ l) :
    (l.foldl (v.dpSwap p) u).reg (CLS_TPL_DP.a p t) = v.reg (CLS_TPL_DP_SH.a p t) ∧ (l.foldl (v.dpSwap p) u).reg (CLS_TPL_DP_SH.a p t) = v.reg (CLS_TPL_DP.a p t) := by
  induction l generalizing u with
  | nil => cases ht
  | cons k l ih =>
    by_cases hl : t ∈ l
    · exact ih (v.wf_dpSwap p k h) hl
    · obtain rfl := (List.mem_cons.1 ht).resolve_right hl
      have hne : ∀ j ∈ l, j ≠ t := fun j hj e => hl (e ▸ hj)
      obtain ⟨h1, h2⟩ := v.reg_dpSwap p t h
      constructor
      · refine (State.reg_foldl_ne l (fun j hj w => v.reg_dpSwap_ne p j _ w (fun e => hne j hj ?_) (tplDp_ne_shadow p t j)) _).trans h1
        unfold CLS_TPL_DP.a at e
        omega
      · refine (State.reg_foldl_ne l (fun j hj w => v.reg_dpSwap_ne p j _ w (tplDp_ne_shadow p j t).symm (fun e => hne j hj ?_)) _).trans h2
        unfold CLS_TPL_DP_SH.a at e
        omega

/-- R168: the word of CLS_BANK_STAT after a swap from bank `a`. -/
def swapWord (w : Word) (a : Nat) : Word := fldSet (fldSet (fldSet w (bankFld a) 2) (bankFld (1 - a)) 1) CLS_BANK_STAT.active (1 - a)

theorem swapWord_facts (w : Word) {a : Nat} (ha : a < 2) :
    fldGet (swapWord w a) CLS_BANK_STAT.active = 1 - a ∧ fldGet (swapWord w a) (bankFld a) = 2 ∧ fldGet (swapWord w a) (bankFld (1 - a)) = 1 := by
  have hact : ∀ b x y, fldGet (fldSet x CLS_BANK_STAT.active y) (bankFld b) = fldGet x (bankFld b) := by
    intro b x y
    refine fldGet_fldSet_ne _ _ _ _ (bankFld_hi b) (.inr ?_)
    unfold bankFld
    split <;> decide
  have hsep : (bankFld a).hi < (bankFld (1 - a)).lo ∨ (bankFld (1 - a)).hi < (bankFld a).lo := by
    obtain rfl | rfl : a = 0 ∨ a = 1 := by omega
    · exact .inl (by decide)
    · exact .inr (by decide)
  have hwide : ∀ b, (bankFld b).hi + 1 - (bankFld b).lo = 2 := by
    intro b
    unfold bankFld
    split <;> decide
  unfold swapWord
  refine ⟨(fldGet_fldSet _ _ _ (by decide)).trans (Nat.mod_eq_of_lt (by show 1 - a < 2; omega)), ?_, ?_⟩
  · rw [hact, fldGet_fldSet_ne _ _ _ _ (bankFld_hi _) hsep, fldGet_fldSet _ _ _ (bankFld_hi _), hwide]
    rfl
  · rw [hact, fldGet_fldSet _ _ _ (bankFld_hi _), hwide]
    rfl

/-- The state in which a swap exchanges the decision points. -/
def State.swapMarked (s : State) (p : Nat) (act : Bool) : State :=
  (s.setPp p { s.pp p with swapTick := some s.now, swapAct := act }).setFs (CLS_BANK_STAT.a p)
    [(bankFld (s.activeBank p), 2), (bankFld (1 - s.activeBank p), 1), (CLS_BANK_STAT.active, 1 - s.activeBank p)]

theorem State.swapDo_eq (p : Nat) (act : Bool) :
    s.swapDo p act = ((List.range 16).foldl (s.dpSwap p) (s.swapMarked p act)).raise (41 + p) 0x28 (1 - s.activeBank p) := by
  have hfld : ∀ a, a < 2 → (if a = 0 then CLS_BANK_STAT.state1 else CLS_BANK_STAT.state0) = bankFld (1 - a) := by decide
  unfold State.swapDo State.swapMarked
  dsimp only
  rw [hfld _ (s.activeBank_lt p)]
  rfl

/-- R168: the state in which the swap's event is raised. -/
theorem State.swapDo_exchange (hc : s.Canonical) (act : Bool) : ∃ d : State,
    s.swapDo p.val act = d.raise (41 + p.val) 0x28 (1 - s.activeBank p.val) ∧ d.Canonical ∧ d = { s with pipe := d.pipe, regs := d.regs } ∧
    d.pp p.val = { s.pp p.val with swapTick := some s.now, swapAct := act } ∧
    d.reg (CLS_BANK_STAT.a p.val) = swapWord (s.reg (CLS_BANK_STAT.a p.val)) (s.activeBank p.val) ∧
    ∀ t : Fin 16, d.reg (CLS_TPL_DP.a p.val t.val) = s.reg (CLS_TPL_DP_SH.a p.val t.val) ∧ d.reg (CLS_TPL_DP_SH.a p.val t.val) = s.reg (CLS_TPL_DP.a p.val t.val) := by
  have hmc : (s.swapMarked p.val act).Canonical := (State.setFs_keeps (State.setPp_keeps (State.Keeps.refl s) _ _) _ _).canon hc
  have hregs := State.foldl_regs (f := s.dpSwap p.val) (fun _ _ => rfl) (List.range 16) (s.swapMarked p.val act)
  have hcan := (State.Keeps.foldl (f := s.dpSwap p.val) (l := List.range 16) (State.Keeps.refl (s.swapMarked p.val act))
    fun u t hu => State.setReg_keeps (State.setReg_keeps hu _ _) _ _).canon hmc
  have hstat := State.reg_foldl_ne (f := s.dpSwap p.val) (a := CLS_BANK_STAT.a p.val) (List.range 16) (fun t ht u => s.reg_dpSwap_ne p.val t _ u
    (by have := List.mem_range.1 ht; unfold CLS_BANK_STAT.a CLS_TPL_DP.a; omega) (by have := List.mem_range.1 ht; unfold CLS_BANK_STAT.a CLS_TPL_DP_SH.a; omega))
    (s.swapMarked p.val act)
  have hdp := fun t : Fin 16 => s.reg_dpSwaps p.val (List.range 16) hmc.regs (List.mem_range.2 t.isLt)
  have hdo := s.swapDo_eq p.val act
  generalize (List.range 16).foldl (s.dpSwap p.val) (s.swapMarked p.val act) = d at *
  have hpipe : d.pipe = (s.swapMarked p.val act).pipe := by rw [hregs]
  refine ⟨d, hdo, hcan, by rw [hpipe]; exact hregs, ?_, hstat.trans (reg_setFs _ _ _ hc.regs), hdp⟩
  rw [hregs]
  exact pp_setPp s p.val _ hc

/-- R168: the banks after a swap. -/
theorem State.swapDo_facts (hc : s.Canonical) (act : Bool) :
    (s.swapDo p.val act).activeBank p.val = 1 - s.activeBank p.val ∧
    (s.swapDo p.val act).pp p.val = { s.pp p.val with swapTick := some s.now, swapAct := act } ∧
    (s.swapDo p.val act).bankState p.val (s.activeBank p.val) = 2 ∧ (s.swapDo p.val act).bankState p.val (1 - s.activeBank p.val) = 1 ∧
    (∀ t : Fin 16, (s.swapDo p.val act).reg (CLS_TPL_DP.a p.val t.val) = s.reg (CLS_TPL_DP_SH.a p.val t.val) ∧
      (s.swapDo p.val act).reg (CLS_TPL_DP_SH.a p.val t.val) = s.reg (CLS_TPL_DP.a p.val t.val)) ∧
    fldGet ((s.swapDo p.val act).reg (EVT_SRC_STAT.a (41 + p.val))) EVT_SRC_STAT.pend = 1 ∧
    s.swapDo p.val act = { s with regs := (s.swapDo p.val act).regs, evt := (s.swapDo p.val act).evt, out := (s.swapDo p.val act).out,
                                  pipe := (s.swapDo p.val act).pipe, pcie := { s.pcie with pba := (s.swapDo p.val act).pcie.pba } } := by
  obtain ⟨d, hdo, hcan, honly, hpp, hstat, hdp⟩ := s.swapDo_exchange (p := p) hc act
  obtain ⟨hact, hold, hnew⟩ := swapWord_facts (s.reg (CLS_BANK_STAT.a p.val)) (s.activeBank_lt p.val)
  rw [hdo]
  have hword : (d.raise (41 + p.val) 0x28 (1 - s.activeBank p.val)).reg (CLS_BANK_STAT.a p.val) = swapWord (s.reg (CLS_BANK_STAT.a p.val)) (s.activeBank p.val) :=
    (State.reg_raise_ne _ _ _ _ _ (bankStat_ne_evtStat p _)).trans hstat
  refine ⟨(congrArg (fldGet · _) hword).trans hact, ?_, (congrArg (fldGet · _) hword).trans hold, (congrArg (fldGet · _) hword).trans hnew, fun t => ?_,
    pend_raise d _ _ _ hcan, ?_⟩
  · unfold State.pp
    rw [State.raise_pipe]
    exact hpp
  · rw [State.reg_raise_ne _ _ _ _ _ (by unfold CLS_TPL_DP.a EVT_SRC_STAT.a; omega),
      State.reg_raise_ne _ _ _ _ _ (by unfold CLS_TPL_DP_SH.a EVT_SRC_STAT.a; omega)]
    exact hdp t
  · rw [State.raise_same, honly]

end

end Sys2Proof.Machine
end

section
/-! SUPPORT. The commands of the banks, the parity scan and the rule counters (07 R162, R165, R168, R169). -/

namespace Sys2Proof.Machine

/-! ### Swaps that the host asks for, and drains -/

section
variable {s : State} {i : Fin 3} {p : Fin 2}

theorem exec_bankSwapRequest (hc : s.Canonical) (hm : s.May i.val (CLS_BANK_CTRL.a p.val)) :
    exec (.bankSwapRequest i p) s = .next (s.swapReq p.val false) := by
  refine (next_live s _ hm.powered).trans (congrArg _ ?_)
  rw [State.poke_CLS_BANK_CTRL s i.val p _ hc hm]
  exact if_pos (by decide)

/-- R169: the request meets a BANK action's swap of the same edge. -/
theorem State.swapReq_met (ht : (s.pp p.val).swapTick = some s.now) (ha : (s.pp p.val).swapAct = true) : s.swapReq p.val false = s := by
  refine if_pos ?_
  unfold State.swapMet
  rw [ht, ha]
  simp

theorem State.swapReq_alone (h : (s.pp p.val).swapTick ≠ some s.now ∨ (s.pp p.val).swapAct = false) :
    s.swapReq p.val false = (s.swapDrain p.val).swapTry p.val false := by
  refine if_neg ?_
  unfold State.swapMet
  obtain h | h := h <;> simp [h]

theorem State.swapTry_shadow {act : Bool} (h : s.bankState p.val (1 - s.activeBank p.val) = 0) : s.swapTry p.val act = s.swapDo p.val act :=
  if_pos (beq_iff_eq.2 h)

theorem State.swapTry_busy {act : Bool} (h : s.bankState p.val (1 - s.activeBank p.val) ≠ 0) : s.swapTry p.val act = s.swapRefuse p.val :=
  if_neg fun hs => h (beq_iff_eq.1 hs)

/-- R168: a bank that a frame holds, or that has swapped on this edge, refuses. -/
theorem State.swapReq_refused (h0 : s.bankState p.val (1 - s.activeBank p.val) ≠ 0)
    (h : ((s.pp p.val).swapTick ≠ some s.now ∧ ∃ f ∈ s.frames, (p.val, 1 - s.activeBank p.val) ∈ f.hold) ∨
      ((s.pp p.val).swapTick = some s.now ∧ (s.pp p.val).swapAct = false)) :
    s.swapReq p.val false = s.swapRefuse p.val := by
  rw [State.swapReq_alone (h.imp (·.1) (·.2))]
  have hdrain : s.swapDrain p.val = s := by
    obtain ⟨ht, f, hf, hold⟩ | ⟨ht, -⟩ := h
    · exact (if_neg ht).trans (State.drainDone_held hf hold)
    · exact if_pos ht
  rw [hdrain, State.swapTry_busy h0]

/-- R168: the swap is made from the state that the drain leaves, which is as it was for all that a swap exchanges. -/
theorem State.swapReq_made (hc : s.Canonical) (ht : (s.pp p.val).swapTick ≠ some s.now)
    (h : s.bankState p.val (1 - s.activeBank p.val) = 0 ∨
      (s.bankState p.val (1 - s.activeBank p.val) = 2 ∧ ∀ f ∈ s.frames, (p.val, 1 - s.activeBank p.val) ∉ f.hold)) :
    ∃ v : State, s.swapReq p.val false = v.swapDo p.val false ∧ v.Canonical ∧ s.Reported v ∧ v.activeBank p.val = s.activeBank p.val ∧
      ∀ x, x ≠ CLS_BANK_STAT.a p.val → x ≠ EVT_SRC_STAT.a (41 + p.val) → v.reg x = s.reg x := by
  have hdrain : s.swapDrain p.val = s.drainDone p.val := if_neg ht
  rw [State.swapReq_alone (.inl ht), hdrain]
  obtain h0 | ⟨h2, hfree⟩ := h
  · rw [State.drainDone_shadow (by rw [h0]; decide), State.swapTry_shadow h0]
    exact ⟨s, rfl, hc, rfl, rfl, fun x _ _ => rfl⟩
  · obtain ⟨hshadow, hact, -, honly, hreg⟩ := State.drainDone_facts hc h2 hfree
    rw [State.swapTry_shadow (by rw [hact]; exact hshadow)]
    exact ⟨_, rfl, (State.drainDone_keeps (State.Keeps.refl s) p.val).canon hc, honly, hact, hreg⟩

theorem State.swapReq_facts (hc : s.Canonical) (ht : (s.pp p.val).swapTick ≠ some s.now)
    (h : s.bankState p.val (1 - s.activeBank p.val) = 0 ∨
      (s.bankState p.val (1 - s.activeBank p.val) = 2 ∧ ∀ f ∈ s.frames, (p.val, 1 - s.activeBank p.val) ∉ f.hold)) :
    (s.swapReq p.val false).activeBank p.val = 1 - s.activeBank p.val ∧
    (s.swapReq p.val false).pp p.val = { s.pp p.val with swapTick := some s.now, swapAct := false } ∧
    (s.swapReq p.val false).bankState p.val (s.activeBank p.val) = 2 ∧ (s.swapReq p.val false).bankState p.val (1 - s.activeBank p.val) = 1 ∧
    (∀ t : Fin 16, (s.swapReq p.val false).reg (CLS_TPL_DP.a p.val t.val) = s.reg (CLS_TPL_DP_SH.a p.val t.val) ∧
      (s.swapReq p.val false).reg (CLS_TPL_DP_SH.a p.val t.val) = s.reg (CLS_TPL_DP.a p.val t.val)) ∧
    fldGet ((s.swapReq p.val false).reg (EVT_SRC_STAT.a (41 + p.val))) EVT_SRC_STAT.pend = 1 ∧
    s.swapReq p.val false = { s with regs := (s.swapReq p.val false).regs, evt := (s.swapReq p.val false).evt, out := (s.swapReq p.val false).out,
                                     pipe := (s.swapReq p.val false).pipe, pcie := { s.pcie with pba := (s.swapReq p.val false).pcie.pba } } := by
  obtain ⟨v, hv, hvc, honly, hact, hreg⟩ := State.swapReq_made hc ht h
  obtain ⟨h1, h2, h3, h4, h5, h6, h7⟩ := State.swapDo_facts (p := p) hvc false
  have hpp : v.pp p.val = s.pp p.val := by rw [honly]; rfl
  have hnow : v.now = s.now := by rw [honly]
  rw [hact] at h1 h3 h4
  rw [hpp, hnow] at h2
  rw [hv]
  refine ⟨h1, h2, h3, h4, fun t => ?_, h6, ?_⟩
  · rw [(h5 t).1, (h5 t).2]
    constructor
    · exact hreg _ (by unfold CLS_BANK_STAT.a CLS_TPL_DP_SH.a; omega) (by unfold EVT_SRC_STAT.a CLS_TPL_DP_SH.a; omega)
    · exact hreg _ (by unfold CLS_BANK_STAT.a CLS_TPL_DP.a; omega) (by unfold EVT_SRC_STAT.a CLS_TPL_DP.a; omega)
  · rw [h7, honly]

theorem exec_drainDone (hp : s.powered = true) : exec (.drainDone p) s = .next (s.drainDone p.val) := next_live s _ hp

end

/-! ### Parity of the rules -/

section
variable {s : State} {p b : Fin 2} {e : Fin 2304}

theorem exec_ruleParityScan_good (hp : s.powered = true) : exec (.ruleParityScan p b e false) s = .next s := next_live s _ hp

theorem exec_ruleParityScan_bad (hp : s.powered = true) : exec (.ruleParityScan p b e true) s = .next (s.ruleParity p.val b.val e.val) := next_live s _ hp

/-- R165: an entry marked with bad parity, and its event. -/
theorem State.ruleParity_facts (hc : s.Canonical) (h : s.entryBad p.val b.val e.val = false) :
    (s.ruleParity p.val b.val e.val).entryBad p.val b.val e.val = true ∧
    (∀ k, k ≠ parKey p.val b.val e.val → Cells.get (fun _ => false) (s.ruleParity p.val b.val e.val).ruleBad k = Cells.get (fun _ => false) s.ruleBad k) ∧
    fldGet ((s.ruleParity p.val b.val e.val).reg (EVT_SRC_STAT.a (41 + p.val))) EVT_SRC_STAT.pend = 1 ∧
    s.ruleParity p.val b.val e.val = { s with ruleBad := (s.ruleParity p.val b.val e.val).ruleBad, regs := (s.ruleParity p.val b.val e.val).regs,
                                              evt := (s.ruleParity p.val b.val e.val).evt, out := (s.ruleParity p.val b.val e.val).out,
                                              pcie := { s.pcie with pba := (s.ruleParity p.val b.val e.val).pcie.pba } } := by
  have hmark : s.ruleParity p.val b.val e.val =
      ({ s with ruleBad := Cells.set (fun _ => false) s.ruleBad (parKey p.val b.val e.val) true } : State).raise (41 + p.val) 0x25 e.val :=
    if_neg (by rw [h]; decide)
  rw [hmark]
  refine ⟨?_, fun k hk => ?_, pend_raise _ _ _ _ { hc with ruleBad := Cells.wf_set hc.ruleBad _ _ }, ?_⟩
  · unfold State.entryBad
    rw [State.raise_ruleBad]
    exact Cells.get_set hc.ruleBad _ _
  · rw [State.raise_ruleBad]
    exact Cells.get_set_ne _ _ _ _ _ hk
  · rw [State.raise_same]

/-- R165: an entry with bad parity matches every frame. -/
theorem State.ruleMatch_bad {p b r : Nat} (h : s.entryBad p b r = true) (tpl pass : Nat) (fv : Nat → Option Nat) : s.ruleMatch p b r tpl pass fv = true := by
  unfold State.ruleMatch
  rw [h, Bool.true_or]

/-- R165: a frame that such a rule matches is dropped. -/
theorem State.classify_bad {p b k : Nat} (h : s.entryBad p b k = true) (r : ParseRes) (n pass : Nat) (m : Bool) (d : List Byte)
    (hr : (s.classify p b r n pass m d).rule = some k) : (s.classify p b r n pass m d).stage = 2 := by
  have hwin : s.winRule p b r.tpl pass (fieldVec r n pass m) = some k := hr
  unfold State.classify
  simp [hwin, h]

end

/-! ### Rule counters -/

section
variable {s : State} {i : Fin 3} {p : Fin 2} {c : Fin 2048}

/-- The key of the frame count of rule counter `c` (07 R162). -/
def cntKey (p c : Nat) : Nat := (p * 2048 + c) * 2

theorem winAt_frameCount (p : Fin 2) (c : Fin 2048) : winAt (0x2100000 + 0x80000 * p.val + 0x10 * c.val) = .count (cntKey p.val c.val) := by
  unfold winAt cntKey
  dsimp only
  rw [if_neg (by omega), if_neg (by omega), if_pos (by omega), if_pos (by omega)]
  exact congrArg WinKind.count (by omega)

theorem winAt_byteCount (p : Fin 2) (c : Fin 2048) : winAt (0x2100000 + 0x80000 * p.val + 0x10 * c.val + 8) = .count (cntKey p.val c.val + 1) := by
  unfold winAt cntKey
  dsimp only
  rw [if_neg (by omega), if_neg (by omega), if_pos (by omega), if_pos (by omega)]
  exact congrArg WinKind.count (by omega)

/-- R22, R162: an aligned read of a counter word. -/
theorem State.busRead_count (s : State) (i a n k : Nat) (hk : winAt a = .count k) (ha : a % n = 0) (hr : s.roleOf i ≠ 0) :
    s.busRead i a n = (s.countRead i k (a % 8) n).1.emit (.readData i (s.countRead i k (a % 8) n).2) := by
  have hlow : 0x2000000 ≤ a := by
    by_contra hlt
    exact absurd ((if_pos (Nat.lt_of_not_le hlt)).symm.trans hk) nofun
  unfold State.busRead
  rw [if_neg (by rw [seq_winOwn hk nofun]; simp)]
  unfold State.readAt
  rw [if_neg (not_not_intro ha), if_pos hlow]
  unfold State.winRead
  rw [hk]
  dsimp only
  rw [if_neg hr]
  rfl

/-- R162: a read of a frame count latches the byte count. -/
theorem State.countRead_frames (s : State) (i k : Nat) (hk : k % 2 = 0) : s.countRead i k 0 8 =
    (s.setLatch i (some (k + 1, Cells.get (fun _ => 0) s.ruleCnt (k + 1))), Cells.get (fun _ => 0) s.ruleCnt k) := by
  unfold State.countRead
  exact if_pos ⟨rfl, hk⟩

/-- R162: the byte count that a read of the frame count has latched. -/
theorem State.countRead_latched (s : State) (i k x : Nat) (hk : k % 2 = 1) (h : Cells.get (fun _ => none) s.latch i = some (k, x)) :
    s.countRead i k 0 8 = (s.setLatch i none, x) := by
  unfold State.countRead
  dsimp only
  rw [if_neg (by omega), h]
  exact if_pos ⟨rfl, rfl⟩

/-- R162: a byte count that is not latched, or not read in one access. -/
theorem State.countRead_plain (s : State) (i k n : Nat) (hk : k % 2 = 1) (h : n = 8 → ∀ x, Cells.get (fun _ => none) s.latch i ≠ some (k, x)) :
    s.countRead i k 0 n = (s, Cells.get (fun _ => 0) s.ruleCnt k % 2 ^ (8 * n)) := by
  unfold State.countRead
  dsimp only
  rw [if_neg (by omega)]
  split
  next x hx =>
    rw [if_neg fun hn => h hn.1 x.2 (hx.trans (by rw [← hn.2]))]
    simp
  next => simp

section
variable (hp : s.powered = true) (hr : s.roleOf i.val ≠ 0)
include hp hr

theorem exec_ruleCountFrameRead : exec (.ruleCountFrameRead i p c) s =
    .next ((s.setLatch i.val (some (cntKey p.val c.val + 1, Cells.get (fun _ => 0) s.ruleCnt (cntKey p.val c.val + 1)))).emit
      (.readData i.val (Cells.get (fun _ => 0) s.ruleCnt (cntKey p.val c.val)))) := by
  refine (next_live s _ hp).trans (congrArg _ ?_)
  have hz : (0x2100000 + 0x80000 * p.val + 0x10 * c.val) % 8 = 0 := by omega
  rw [State.busRead_count s i.val _ 8 _ (winAt_frameCount p c) hz hr, hz, State.countRead_frames _ _ _ (by unfold cntKey; omega)]

theorem exec_ruleCountByteRead_latched {x : Nat} (h : Cells.get (fun _ => none) s.latch i.val = some (cntKey p.val c.val + 1, x)) :
    exec (.ruleCountByteRead i p c true) s = .next ((s.setLatch i.val none).emit (.readData i.val x)) := by
  have hz : (0x2100000 + 0x80000 * p.val + 0x10 * c.val + 8) % 8 = 0 := by omega
  have hrun : s.busRead i.val (0x2100000 + 0x80000 * p.val + 0x10 * c.val + 8) 8 = (s.setLatch i.val none).emit (.readData i.val x) := by
    rw [State.busRead_count s i.val _ 8 _ (winAt_byteCount p c) hz hr, hz, State.countRead_latched _ _ _ x (by unfold cntKey; omega) h]
  exact (next_live s _ hp).trans (congrArg _ hrun)

theorem exec_ruleCountByteRead_wide (h : ∀ x, Cells.get (fun _ => none) s.latch i.val ≠ some (cntKey p.val c.val + 1, x))
    (hlt : Cells.get (fun _ => 0) s.ruleCnt (cntKey p.val c.val + 1) < 2 ^ 64) :
    exec (.ruleCountByteRead i p c true) s = .next (s.emit (.readData i.val (Cells.get (fun _ => 0) s.ruleCnt (cntKey p.val c.val + 1)))) := by
  have hz : (0x2100000 + 0x80000 * p.val + 0x10 * c.val + 8) % 8 = 0 := by omega
  have hrun : s.busRead i.val (0x2100000 + 0x80000 * p.val + 0x10 * c.val + 8) 8 =
      s.emit (.readData i.val (Cells.get (fun _ => 0) s.ruleCnt (cntKey p.val c.val + 1))) := by
    rw [State.busRead_count s i.val _ 8 _ (winAt_byteCount p c) hz hr, hz, State.countRead_plain _ _ _ _ (by unfold cntKey; omega) fun _ => h]
    exact congrArg (fun v => s.emit (.readData i.val v)) (Nat.mod_eq_of_lt hlt)
  exact (next_live s _ hp).trans (congrArg _ hrun)

theorem exec_ruleCountByteRead_narrow : exec (.ruleCountByteRead i p c false) s =
    .next (s.emit (.readData i.val (Cells.get (fun _ => 0) s.ruleCnt (cntKey p.val c.val + 1) % 2 ^ 32))) := by
  have hz : (0x2100000 + 0x80000 * p.val + 0x10 * c.val + 8) % 8 = 0 := by omega
  have hrun : s.busRead i.val (0x2100000 + 0x80000 * p.val + 0x10 * c.val + 8) 4 =
      s.emit (.readData i.val (Cells.get (fun _ => 0) s.ruleCnt (cntKey p.val c.val + 1) % 2 ^ 32)) := by
    rw [State.busRead_count s i.val _ 4 _ (winAt_byteCount p c) (by omega) hr, hz, State.countRead_plain s _ _ 4 (by unfold cntKey; omega) (fun h => absurd h (by decide))]
  exact (next_live s _ hp).trans (congrArg _ hrun)

end

theorem State.winWrite_count (s : State) (i a v k : Nat) (hk : winAt a = .count k) (heven : k % 2 = 0) (hr : s.roleOf i = 2) :
    s.winWrite i a 8 v = (if v = 0 then { s with ruleCnt := Cells.set (fun _ => 0) (Cells.set (fun _ => 0) s.ruleCnt k 0) (k + 1) 0 } else s, false) := by
  unfold State.winWrite
  rw [hk]
  dsimp only
  rw [if_neg (not_not_intro hr)]
  by_cases hv : v = 0
  · rw [if_pos ⟨rfl, hv, heven⟩, if_pos hv]
  · rw [if_neg fun h => hv h.2.1, if_neg hv]

/-- R162: a 64-bit write of 0 to a frame count clears the counter; any other does nothing. -/
theorem exec_ruleCountClear (hp : s.powered = true) (hr : s.roleOf i.val = 2) (v : BitVec 64) : exec (.ruleCountClear i p c v) s =
    .next (if v = 0#64 then { s with ruleCnt := Cells.set (fun _ => 0) (Cells.set (fun _ => 0) s.ruleCnt (cntKey p.val c.val) 0) (cntKey p.val c.val + 1) 0 } else s) := by
  refine (next_live s _ hp).trans (congrArg _ ?_)
  have hzero : v.toNat = 0 ↔ v = 0#64 := ⟨fun h => BitVec.eq_of_toNat_eq h, fun h => by rw [h]; rfl⟩
  rw [State.busWrite_win s i.val _ 8 _ _ (winAt_frameCount p c) nofun (.inr rfl) (by omega),
    State.winWrite_count s i.val _ _ _ (winAt_frameCount p c) (by unfold cntKey; omega) hr]
  simp only [hzero]
  rfl

theorem State.get_cleared (hc : s.Canonical) (k j : Nat) :
    Cells.get (fun _ => 0) (Cells.set (fun _ => 0) (Cells.set (fun _ => 0) s.ruleCnt k 0) (k + 1) 0) j =
      if j = k ∨ j = k + 1 then 0 else Cells.get (fun _ => 0) s.ruleCnt j := by
  have hwf : Cells.wf (fun _ => 0) (Cells.set (fun _ => 0) s.ruleCnt k 0) = true := Cells.wf_set hc.ruleCnt _ _
  by_cases h1 : j = k + 1
  · rw [if_pos (.inr h1), h1, Cells.get_set hwf]
  · rw [Cells.get_set_ne _ _ _ _ _ h1]
    by_cases h0 : j = k
    · rw [if_pos (.inl h0), h0, Cells.get_set hc.ruleCnt]
    · rw [if_neg (not_or_intro h0 h1), Cells.get_set_ne _ _ _ _ _ h0]

end

/-- Settles O29: templates by the commit of a plain register write, windows by what one word written leaves, banks by the swap and the drain,
counters by the latch. -/
theorem rulesAreWrittenSwappedAndCounted : Obligations.RulesAreWrittenSwappedAndCounted := by
  unfold Obligations.RulesAreWrittenSwappedAndCounted
  refine ⟨fun s i p b hc => ⟨fun a v t r hm hr ha => ?_, fun hp => ⟨fun h => ?_, fun h => exec_dpRecomputeDone_fresh hp h⟩,
      fun hp hrole a v hwin => ⟨fun hb => ⟨fun ha => ?_, fun ha => ?_⟩, fun hb ha => ?_⟩⟩,
    fun s i p b hc => ⟨fun hm => ⟨fun ht h => ?_, fun ht ha => ?_, fun h0 h => ?_⟩,
      fun hp => ⟨fun h2 hfree => ?_, fun f hf hold => ?_, fun e he => ?_, fun e => exec_ruleParityScan_good hp⟩⟩,
    fun s i p c hc hp => ⟨fun hrole => ⟨?_, fun x hx => ?_, fun hx hlt => ?_, ?_⟩, fun hrole => ⟨?_, fun v hv => ?_⟩⟩⟩
  · have hcc := bank_committed_canon s r i.val a.toNat v hc
    have hne := tplAddr_ne ha
    obtain ⟨h0, h1, h192, honly⟩ := State.tplWritten_facts hcc p.val
    refine ⟨_, exec_templateWrite hc hm hr ha, ?_, h0, h1, h192, ?_, fun x hx h60 => ?_⟩
    · unfold State.reg
      rw [bank_tplWritten_same]
      exact (bank_reg_committed s r i.val a.toNat v hc hne).trans (State.newVal_tpl (tplRow_mem ha hr) v)
    · rw [honly, State.committed_only r i.val a.toNat v]
    · unfold State.reg
      rw [bank_tplWritten_same]
      exact State.reg_committed_ne r i.val a.toNat x v hx h60
  · exact ⟨_, exec_dpRecomputeDone hp h, State.dpRecompute_facts hc⟩
  · refine ⟨_, exec_ruleWindowWrite_word hp hrole hwin hb ha, ?_, s.dpStale_ruleWrite _ _ _ _ hc, fun x hx => s.ruleWrite_get _ _ _ _ x hx,
      fun e he => s.entryBad_ruleWrite _ _ _ _ hc ?_, fun e he => s.entryBad_ruleWrite _ _ _ _ hc ?_, s.ruleWrite_only _ _ _ _⟩
    · rw [s.winW_ruleWrite _ _ _ _ hc, setWidth_low]
    · rw [he, Nat.add_assoc, Nat.add_sub_cancel_left]
      exact finalOf_rule e
    · rw [he, Nat.add_assoc, Nat.add_assoc, Nat.add_sub_cancel_left, ← Nat.add_assoc]
      exact finalOf_pattern e
  · have hc1 := s.ruleWrite_canonical p.val b.val a.toNat (v.toNat % 2 ^ 32) hc
    refine ⟨_, exec_ruleWindowWrite_wide hp hrole hwin hb ha, ?_, State.winW_ruleWrite _ _ _ _ _ hc1, State.dpStale_ruleWrite _ _ _ _ _ hc1, fun x hx => ?_, ?_⟩
    · rw [State.winW_ruleWrite_ne _ _ _ _ _ _ (.inl (Nat.le_refl _)), s.winW_ruleWrite _ _ _ _ hc, setWidth_low]
    · rw [State.ruleWrite_get _ _ _ _ _ x (by omega), State.ruleWrite_get _ _ _ _ _ x (by omega)]
    · rw [State.ruleWrite_only (s.ruleWrite _ _ _ _), s.ruleWrite_only]
  · exact ⟨_, exec_ruleWindowWrite_busy hp hrole hwin hb ha, s.bankBusy_facts i.val p b hc⟩
  · exact ⟨_, exec_bankSwapRequest hc hm, State.swapReq_facts hc ht h⟩
  · rw [exec_bankSwapRequest hc hm, State.swapReq_met ht ha]
  · exact ⟨_, (exec_bankSwapRequest hc hm).trans (congrArg _ (State.swapReq_refused h0 h)), State.swapRefuse_facts hc⟩
  · obtain ⟨hshadow, hact, hpend, honly, -⟩ := State.drainDone_facts hc h2 hfree
    exact ⟨_, exec_drainDone hp, hshadow, hact, hpend, honly⟩
  · rw [exec_drainDone hp, State.drainDone_held hf hold]
  · obtain ⟨hbad, hkeep, hpend, honly⟩ := State.ruleParity_facts hc he
    exact ⟨_, exec_ruleParityScan_bad hp, hbad, fun _ tpl pass fv => State.ruleMatch_bad hbad tpl pass fv,
      fun r n pass m d hr => State.classify_bad hbad r n pass m d hr, hkeep, hpend, honly⟩
  · exact ⟨_, exec_ruleCountFrameRead hp hrole, rfl, Cells.get_set hc.latch _ _, rfl, fun j hj => Cells.get_set_ne _ _ _ _ _ hj⟩
  · exact ⟨_, exec_ruleCountByteRead_latched hp hrole hx, rfl, Cells.get_set hc.latch _ _, rfl, fun j hj => Cells.get_set_ne _ _ _ _ _ hj⟩
  · exact exec_ruleCountByteRead_wide hp hrole hx hlt
  · exact exec_ruleCountByteRead_narrow hp hrole
  · exact ⟨_, (exec_ruleCountClear hp hrole 0#64).trans (congrArg _ (if_pos rfl)), rfl, fun j => State.get_cleared hc _ j⟩
  · exact (exec_ruleCountClear hp hrole v).trans (congrArg _ (if_neg hv))

end Sys2Proof.Machine
end

section
/-! SUPPORT. Operations of the switch core that move no frame and no copy: counters, events, tables, streams, meters. -/

namespace Sys2Proof.Machine

/-- `t` has the frames, the copies, the numbers, the ports and the port counters of `s`, and the registers of `K`. -/
structure State.Aside (K : Nat → Prop) (s t : State) : Prop where
  frames : t.frames = s.frames
  copies : t.copies = s.copies
  nextId : t.nextId = s.nextId
  ports : t.ports = s.ports
  mib : t.mib = s.mib
  regs : ∀ a, K a → t.reg a = s.reg a

namespace State.Aside

variable {K : Nat → Prop} {s0 s t : State}

theorem refl (s : State) : s.Aside K s := ⟨rfl, rfl, rfl, rfl, rfl, fun _ _ => rfl⟩

theorem trans (h : s0.Aside K s) (k : s.Aside K t) : s0.Aside K t :=
  ⟨k.frames.trans h.frames, k.copies.trans h.copies, k.nextId.trans h.nextId, k.ports.trans h.ports, k.mib.trans h.mib,
    fun a ha => (k.regs a ha).trans (h.regs a ha)⟩

theorem mono {L : Nat → Prop} (h : s0.Aside K s) (hl : ∀ a, L a → K a) : s0.Aside L s :=
  ⟨h.frames, h.copies, h.nextId, h.ports, h.mib, fun a ha => h.regs a (hl a ha)⟩

theorem ite {c : Prop} [Decidable c] {u : State} (h : s0.Aside K t) (k : s0.Aside K u) : s0.Aside K (if c then t else u) := by
  split
  · exact h
  · exact k

theorem ite_snd {α : Type} {c : Prop} [Decidable c] {x y : α × State} (h : s0.Aside K x.2) (k : s0.Aside K y.2) : s0.Aside K (if c then x else y).2 := by
  split
  · exact h
  · exact k

theorem foldl {α : Type} {f : State → α → State} (l : List α) (hf : ∀ x ∈ l, ∀ u : State, s0.Aside K u → s0.Aside K (f u x)) (h : s0.Aside K s) :
    s0.Aside K (l.foldl f s) := by
  induction l generalizing s with
  | nil => exact h
  | cons x l ih => exact ih (fun y hy => hf y (List.mem_cons_of_mem _ hy)) (hf x List.mem_cons_self s h)

section
variable (h : s0.Aside K s)
include h

theorem setReg {a : Nat} (w : Word) (ha : ¬K a) : s0.Aside K (s.setReg a w) :=
  h.trans ⟨rfl, rfl, rfl, rfl, rfl, fun _ hx => State.reg_setReg_ne _ _ _ _ fun e => ha (e ▸ hx)⟩

theorem setF {a : Nat} (f : Fld) (v : Nat) (ha : ¬K a) : s0.Aside K (s.setF a f v) := h.setReg _ ha

theorem setFs {a : Nat} (l : List (Fld × Nat)) (ha : ¬K a) : s0.Aside K (s.setFs a l) := h.setReg _ ha

theorem bump {a : Nat} (f : Fld) (ha : ¬K a) : s0.Aside K (s.bump a f) := h.setReg _ ha

theorem raise {n : Nat} (c i : Nat) (hn : ¬K (EVT_SRC_STAT.a n)) : s0.Aside K (s.raise n c i) :=
  h.trans ⟨State.raise_frames .., State.raise_copies .., State.raise_nextId .., State.raise_ports .., State.raise_mib ..,
    fun _ hx => State.reg_raise_ne _ _ _ _ _ fun e => hn (e ▸ hx)⟩

theorem raiseIf (b : Bool) {n : Nat} (c i : Nat) (hn : ¬K (EVT_SRC_STAT.a n)) : s0.Aside K (s.raiseIf b n c i) := (h.raise c i hn).ite h

/-! ### Classification and the tables (07 R158 to R162, 08 R173 to R185) -/

theorem clsDrop {p k : Nat} (ha : ¬K (CLS_DROP_CNT.a p k)) : s0.Aside K (s.clsDrop p k) := h.bump _ ha

theorem excCount {p c : Nat} (ha : ¬K (CLS_EXC_CNT.a p c)) : s0.Aside K (s.excCount p c) := h.ite (h.bump _ ha)

theorem clsNote {p : Nat} (f : Frame) (c : ClsRes) (hn : ¬K (EVT_SRC_STAT.a (41 + p))) : s0.Aside K (s.clsNote p f c) := by
  have hcount : s0.Aside K (c.cnt.foldl (fun u k => u.ruleCount p f.len k) s) :=
    foldl _ (fun _ _ _ hu => hu.trans ⟨rfl, rfl, rfl, rfl, rfl, fun _ _ => rfl⟩) h
  have hbad : s0.Aside K (c.bad.foldl (fun u k => u.raise (41 + p) 0x26 k) (c.cnt.foldl (fun u k => u.ruleCount p f.len k) s)) :=
    foldl _ (fun _ _ _ hu => hu.raise _ _ hn) hcount
  exact hbad.raiseIf _ _ _ hn

theorem setFdb {p : Nat} (l : Nat) (e : Option FdbEnt) (ha : ¬K (FDB_STAT.a p)) : s0.Aside K (s.setFdb p l e) :=
  h.trans ⟨rfl, rfl, rfl, rfl, rfl, fun _ hx => table_reg_setFdb_ne _ _ _ _ _ fun e => ha (e ▸ hx)⟩

theorem fdbHit {p : Nat} (l : Nat) (ha : ¬K (FDB_STAT.a p)) : s0.Aside K (s.fdbHit p l) := by
  unfold State.fdbHit
  split
  · exact h.setFdb _ _ ha
  · exact h

theorem fdbDest {p : Nat} (mac vid : Nat) (ha : ¬K (FDB_STAT.a p)) : s0.Aside K (s.fdbDest p mac vid).2 := by
  unfold State.fdbDest
  split
  · exact h
  · exact h.fdbHit _ ha

theorem fdbSource {p : Nat} (mac vid port : Nat) (ha : ¬K (FDB_STAT.a p)) : s0.Aside K (s.fdbSource p mac vid port).2 := by
  unfold State.fdbSource
  split
  · exact h
  · split
    · exact h
    · exact ite_snd (h.fdbHit _ ha) h

theorem endCode (f : Frame) (h7 : ¬K (CLS_EXC_CNT.a f.pipe 7)) (h8 : ¬K (CLS_EXC_CNT.a f.pipe 8)) (hn : ¬K (EVT_SRC_STAT.a (41 + f.pipe))) :
    s0.Aside K (s.endCode f).2 := by
  unfold State.endCode
  split
  · exact h
  · exact ite_snd ((h.excCount h7).raise _ _ hn) (ite_snd ((h.excCount h8).raise _ _ hn) h)

/-! ### Streams, meters and samples (15 R349 to R355, 10 R235, R238, 04 R82) -/

theorem frBump (k j n : Nat) : s0.Aside K (s.frBump k j n) := h.trans ⟨rfl, rfl, rfl, rfl, rfl, fun _ _ => rfl⟩

theorem setFr (k : Nat) (x : FreSt) : s0.Aside K (s.setFr k x) := h.trans ⟨rfl, rfl, rfl, rfl, rfl, fun _ _ => rfl⟩

theorem frWithdraw (k : Nat) (seq : Option Nat) : s0.Aside K (s.frWithdraw k seq) := by
  unfold State.frWithdraw
  refine frBump ?_ _ _ _
  split
  · exact h
  · exact ite (h.setFr _ _) h

theorem meterCharge (p m : Nat) (n : Int) : s0.Aside K (s.meterCharge p m n) := h.trans ⟨rfl, rfl, rfl, rfl, rfl, fun _ _ => rfl⟩

theorem sduNote (f : Frame) (ha : ¬K (SHP_CNT.a f.inPort 6)) (hn : ¬K (EVT_SRC_STAT.a (41 + f.pipe))) : s0.Aside K (s.sduNote f) :=
  (h.bump _ ha).raise _ _ hn

theorem sampFrame (ok : Bool) (port et pay : Nat) (b : List Byte) (ha : ∀ d < 4, ¬K (PHS_DISC.a d)) : s0.Aside K (s.sampFrame ok port et pay b) := by
  refine foldl _ (fun d hd u hu => ite (ite ?_ (hu.bump _ (ha d (List.mem_range.1 hd)))) hu) h
  exact ite (hu.trans ⟨rfl, rfl, rfl, rfl, rfl, fun _ _ => rfl⟩) (hu.bump _ (ha d (List.mem_range.1 hd)))

theorem sampleOf (ok : Bool) (f : Frame) (ha : ∀ d < 4, ¬K (PHS_DISC.a d)) : s0.Aside K (s.sampleOf ok f) := by
  unfold State.sampleOf
  split
  · exact ite (h.sampFrame _ _ _ _ _ ha) h
  · exact h

/-! ### Cells (09 R192, R202) -/

theorem poolNote (ha : ¬K QM_POOL.a) : s0.Aside K s.poolNote := by
  refine h.trans ⟨?_, ?_, ?_, ?_, ?_, fun _ hx => State.reg_poolNote_ne _ _ fun e => ha (e ▸ hx)⟩ <;> rw [State.poolNote_same]

theorem freeCells (l : List (Nat × Nat)) : s0.Aside K (s.freeCells l) := h.trans ⟨rfl, rfl, rfl, rfl, rfl, fun _ _ => rfl⟩

theorem peatFree (f : Frame) (ha : ¬K QM_PEAT_STAT.a) : s0.Aside K (s.peatFree f) := by
  refine h.trans ⟨?_, ?_, ?_, ?_, ?_, fun _ hx => State.reg_peatFree_ne _ _ _ fun e => ha (e ▸ hx)⟩ <;> rw [State.peatFree_same]

theorem takeCells (n : Nat) (l : List (Nat × Nat)) : s0.Aside K (State.takeCells n s l).2 := by
  induction n generalizing s l with
  | zero => exact h
  | succ n ih =>
    unfold State.takeCells
    dsimp only
    exact ih (s := (s.takeCell l _).2) (h.trans ⟨rfl, rfl, rfl, rfl, rfl, fun _ _ => rfl⟩) _

end

end State.Aside

theorem State.Aside.frame {K : Nat → Prop} {s t : State} (h : s.Aside K t) (id : Nat) : t.frame id = s.frame id := by
  unfold State.frame
  rw [h.frames]

theorem State.Aside.numbered {K : Nat → Prop} {s t : State} (h : s.Aside K t) (hn : s.Numbered) : t.Numbered := by
  unfold State.Numbered
  rw [h.frames, h.copies, h.nextId]
  exact hn

end Sys2Proof.Machine
end

section
/-! SUPPORT. The charges at the end of reception (10 R235, R236). -/

namespace Sys2Proof.Machine

/-- `t` is `s` but for the meters, and for the meters that its frames have yet to settle. -/
def State.Charged (s t : State) : Prop :=
  t = { s with meters := t.meters, frames := t.frames } ∧ t.frames.map (fun f => { f with meter := none }) = s.frames.map (fun f => { f with meter := none })

theorem State.Charged.trans {s t u : State} (h : s.Charged t) (k : t.Charged u) : s.Charged u := by
  obtain ⟨h1, h2⟩ := h
  obtain ⟨k1, k2⟩ := k
  refine ⟨?_, k2.trans h2⟩
  rw [k1, h1]

/-- A frame by its number is the one of the frames with it, or a frame that stands for none. -/
theorem State.frame_cases (s : State) (id : Nat) : (s.frame id ∈ s.frames ∧ (s.frame id).id = id) ∨ ((∀ g ∈ s.frames, g.id ≠ id) ∧ s.frame id = { id := id }) := by
  unfold State.frame
  cases hf : s.frames.find? (fun f => f.id == id) with
  | none => exact .inr ⟨fun g hg e => List.find?_eq_none.1 hf g hg (beq_iff_eq.2 e), rfl⟩
  | some f => exact .inl ⟨List.mem_of_find?_eq_some hf, by simpa using List.find?_some hf⟩

theorem State.endCharge_charged (s : State) (id : Nat) (hn : s.Numbered) : s.Charged (s.endCharge (s.frame id)) := by
  unfold State.endCharge
  split
  · exact ⟨rfl, rfl⟩
  next k n hm =>
    obtain ⟨hf, -⟩ | ⟨-, hno⟩ := s.frame_cases id
    · refine ⟨rfl, ?_⟩
      show List.map _ (s.frames.map _) = _
      rw [List.map_map]
      refine List.map_congr_left fun g hg => ?_
      by_cases he : g.id = (s.frame id).id
      · rw [Function.comp_apply, if_pos he, List.inj_on_of_nodup_map hn.2.2.1 hg hf he]
      · rw [Function.comp_apply, if_neg he]
    · rw [hno] at hm
      cases hm

theorem State.endCharges_charged (s : State) (l : List Nat) (hn : s.Numbered) : s.Charged (s.endCharges l) := by
  unfold State.endCharges
  induction l generalizing s with
  | nil => exact ⟨rfl, rfl⟩
  | cons n l ih =>
    rw [List.foldl_cons]
    split
    next id _ => exact (s.endCharge_charged id hn).trans (ih _ ((State.endCharge_keeps (State.Keeps.refl s) _).numbered hn))
    · exact ih s hn

/-- The frame in reception on a port. -/
theorem State.rxOf_eq {s : State} {n : Nat} {f : Frame} (hn : s.Numbered) (hf : f ∈ s.frames) (hrx : (s.port n).rx = some f.id) : s.rxOf n = some f := by
  unfold State.rxOf
  rw [hrx]
  exact congrArg some (frame_frame_self s f hn hf)

end Sys2Proof.Machine
end

section
/-! SUPPORT. A frame dropped while it arrives (07 R158, 09 R197). -/

namespace Sys2Proof.Machine

/-- What is left of a frame that has been dropped. -/
def Frame.emptied (f : Frame) : Frame :=
  { f with hold := [], pool := 0, resv := [], banks := [], peatBlk := [], spilled := false, act := { f.act with drop := true } }

/-- The state in which a dropped frame has lost its copies and its cells. -/
def State.emptying (s : State) (id : Nat) : State :=
  (((({ s with copies := s.copies.filter (fun c => c.fid != id) }).freeCells (s.frame id).banks).peatFree (s.frame id)).setFrame (s.frame id).emptied).poolNote

theorem State.frameDrop_eq (s : State) (id : Nat) : s.frameDrop id = (s.emptying id).reap id := rfl

/-- The frame and the copies in it, and the rest left alone. -/
theorem State.emptying_facts (s : State) (id : Nat) : ∃ u : State, ({ s with copies := s.copies.filter (fun c => c.fid != id) } : State).Aside
    (fun a => a ≠ QM_POOL.a ∧ a ≠ QM_PEAT_STAT.a) u ∧ (u.setFrame (s.frame id).emptied).Aside (fun a => a ≠ QM_POOL.a ∧ a ≠ QM_PEAT_STAT.a) (s.emptying id) :=
  ⟨_, ((State.Aside.refl _).freeCells _).peatFree _ (fun h => h.2 rfl), (State.Aside.refl _).poolNote fun h => h.1 rfl⟩

theorem State.emptying_copies (s : State) (id : Nat) : (s.emptying id).copies = s.copies.filter (fun c => c.fid != id) := by
  obtain ⟨u, h1, h2⟩ := s.emptying_facts id
  rw [h2.copies]
  exact h1.copies

theorem State.emptying_frames (s : State) (id : Nat) : (s.emptying id).frames = (s.setFrame (s.frame id).emptied).frames := by
  obtain ⟨u, h1, h2⟩ := s.emptying_facts id
  rw [h2.frames]
  unfold State.setFrame
  dsimp only
  rw [h1.frames]

theorem State.frameDrop_copies (s : State) (id : Nat) : (s.frameDrop id).copies = s.copies.filter (fun c => c.fid != id) := by
  rw [State.frameDrop_eq, State.reap_same]
  exact s.emptying_copies id

theorem State.frame_emptying {s : State} {f : Frame} (hn : s.Numbered) (hf : f ∈ s.frames) : (s.emptying f.id).frame f.id = f.emptied := by
  have hframe : (s.emptying f.id).frame f.id = (s.setFrame (s.frame f.id).emptied).frame f.id := by
    unfold State.frame
    rw [State.emptying_frames]
    rfl
  rw [hframe, frame_frame_self s f hn hf]
  exact State.frame_setFrame s f.emptied f hn hf rfl

/-- A frame in reception stays until it has ended. -/
theorem State.frameDrop_live {s : State} {f : Frame} (hn : s.Numbered) (hf : f ∈ s.frames) (he : f.ended = false) : (s.frameDrop f.id).frame f.id = f.emptied := by
  have hreap : s.frameDrop f.id = s.emptying f.id := by
    rw [State.frameDrop_eq]
    unfold State.reap
    rw [State.frame_emptying hn hf]
    exact if_neg (by simp [Frame.emptied, he])
  rw [hreap, State.frame_emptying hn hf]

end Sys2Proof.Machine
end

section
/-! SUPPORT. The decision point and the lookup of a frame in reception (07 R154, R155). -/

namespace Sys2Proof.Machine

theorem State.pipe_lt (f : Frame) : f.pipe < 2 := by
  unfold Frame.pipe pipeOf
  split
  · decide
  · split <;> decide

/-- R158: the drop counters are six of the first eight. -/
theorem State.cause_lt (s : State) (p b : Nat) (r : ParseRes) (n pass : Nat) (m : Bool) (d : List Byte) : (s.classify p b r n pass m d).cause < 8 := by
  unfold State.classify
  dsimp only
  split_ifs <;> decide

/-- R197 step 1: a frame that a rule drops, before flow. -/
theorem State.earlyStage_rule (s : State) (p : Nat) {f : Frame} {r : ParseRes} {c : ClsRes} (d : DestRes) (hcode : f.code = 0) (hbad : r.hintBad = false)
    (hc : c.stage ≠ 0) : s.earlyStage p f r c d = (c.stage, s.clsDrop p c.cause) := by
  simp [State.earlyStage, hcode, hbad, hc]

/-- R155, R158: the lookups of a frame that a rule drops end with its drop; what they note besides moves no frame. -/
theorem State.lookup_dropped {s : State} {id : Nat} {f : Frame} {r : ParseRes} (bad : Bool) (hf : s.frame id = f) (hh : f.head = some r) (hp : f.pass = 0)
    (hcode : f.code = 0) (hbad : r.hintBad = false) {c : ClsRes} (hcls : s.classify f.pipe (s.activeBank f.pipe) r f.inPort 0 f.sec.isSome f.data = c)
    (hst : c.stage ≠ 0) :
    ∃ (w : State) (a : Act), s.lookup id bad = (w.clsDrop f.pipe c.cause).mergeDrop id c.stage a ∧
      (s.setFrame { f with looked := true, hold := [(f.pipe, s.activeBank f.pipe)] }).Aside (fun a => a = CLS_DROP_CNT.a f.pipe c.cause) w ∧ s.Keeps w := by
  have hk := s.cause_lt f.pipe (s.activeBank f.pipe) r f.inPort 0 f.sec.isSome f.data
  rw [hcls] at hk
  have hpipe := State.pipe_lt f
  have hev : EVT_SRC_STAT.a (41 + f.pipe) ≠ CLS_DROP_CNT.a f.pipe c.cause := by unfold EVT_SRC_STAT.a CLS_DROP_CNT.a; omega
  have hfdb : FDB_STAT.a f.pipe ≠ CLS_DROP_CNT.a f.pipe c.cause := by unfold FDB_STAT.a CLS_DROP_CNT.a; omega
  have hexc : CLS_EXC_CNT.a f.pipe r.exc ≠ CLS_DROP_CNT.a f.pipe c.cause := by unfold CLS_EXC_CNT.a CLS_DROP_CNT.a; omega
  unfold State.lookup
  dsimp only
  rw [hf]
  split
  next hnone => rw [hh] at hnone; cases hnone
  next r' hr =>
  obtain rfl : r = r' := Option.some.inj (hh.symm.trans hr)
  have hno : ¬((0 : Nat) = 1) := by decide
  rw [hp]
  simp only [if_neg hno, ↓reduceIte]
  rw [hcls, State.earlyStage_rule _ _ _ hcode hbad hst, if_pos hst]
  exact ⟨_, _, rfl, ((((State.Aside.refl _).clsNote f c hev).fdbDest _ _ hfdb).fdbSource _ _ _ hfdb).excCount hexc,
    State.excCount_keeps (State.fdbSource_keeps (State.fdbDest_keeps (State.clsNote_keeps (State.setFrame_keeps (State.Keeps.refl s) _) _ _ _) _ _ _) _ _ _ _) _ _⟩

end Sys2Proof.Machine
end

section
/-! SUPPORT. The start of the lookups (07 R155, 10 R236, R238). -/

namespace Sys2Proof.Machine

theorem State.reg_bump_word (s : State) (a : Nat) (hc : s.Canonical) : (s.bump a ⟨31, 0⟩).reg a = BitVec.ofNat 32 (min 0xffffffff ((s.reg a).toNat + 1)) := by
  refine (State.reg_setReg _ _ _ hc.regs).trans ?_
  rw [fldSet_word, fldGet_word, satTo_min]
  rfl

/-- R158: what is left of a frame that a rule drops, and what counts it. -/
theorem State.lookup_dropped_facts {s : State} {f : Frame} {r : ParseRes} (bad : Bool) (hc : s.Canonical) (hn : s.Numbered) (hf : f ∈ s.frames) (he : f.ended = false)
    (hh : f.head = some r) (hp : f.pass = 0) (hcode : f.code = 0) (hbad : r.hintBad = false) {c : ClsRes}
    (hcls : s.classify f.pipe (s.activeBank f.pipe) r f.inPort 0 f.sec.isSome f.data = c) (hst : c.stage ≠ 0) :
    (s.lookup f.id bad).copies = s.copies.filter (fun x => x.fid != f.id) ∧ ((s.lookup f.id bad).frame f.id).act.drop = true ∧
    ((s.lookup f.id bad).frame f.id).act.stage = c.stage ∧ ((s.lookup f.id bad).frame f.id).hold = [] ∧ ((s.lookup f.id bad).frame f.id).looked = true ∧
    (s.lookup f.id bad).reg (CLS_DROP_CNT.a f.pipe c.cause) = BitVec.ofNat 32 (min 0xffffffff ((s.reg (CLS_DROP_CNT.a f.pipe c.cause)).toNat + 1)) := by
  have hk := s.cause_lt f.pipe (s.activeBank f.pipe) r f.inPort 0 f.sec.isSome f.data
  rw [hcls] at hk
  have hpipe := State.pipe_lt f
  obtain ⟨w, a, hl, hw, hkeep⟩ := State.lookup_dropped bad (frame_frame_self s f hn hf) hh hp hcode hbad hcls hst
  have hwc : w.Canonical := hkeep.canon hc
  set f1 : Frame := { f with looked := true, hold := [(f.pipe, s.activeBank f.pipe)] } with hf1
  have hcnt : (s.setFrame f1).Aside (fun _ => False) (w.clsDrop f.pipe c.cause) := (hw.mono fun _ h => h.elim).clsDrop id
  set w1 := w.clsDrop f.pipe c.cause with hw1
  have hmem : f1 ∈ w1.frames := by
    rw [hcnt.frames]
    exact frame_setFrame_mem s f1 f hf rfl
  have hn1 : w1.Numbered := hcnt.numbered (State.setFrame_numbered s f1 hn)
  set g : Frame := { w1.frame f.id with act := { a with drop := true, stage := c.stage } } with hg
  have hself : w1.frame f.id = f1 := frame_frame_self w1 f1 hn1 hmem
  have hgid : g.id = f.id := by rw [hg, hself]
  have hdrop : (s.lookup f.id bad).frame f.id = g.emptied := by
    rw [hl]
    show ((w1.setFrame g).frameDrop f.id).frame f.id = _
    rw [← hgid]
    exact State.frameDrop_live (State.setFrame_numbered w1 g hn1) (frame_setFrame_mem w1 g f1 hmem hgid.symm) (by rw [hg, hself]; exact he)
  refine ⟨?_, ?_, ?_, ?_, ?_, ?_⟩
  · rw [hl]
    show ((w1.setFrame g).frameDrop f.id).copies = _
    rw [State.frameDrop_copies]
    show w1.copies.filter _ = _
    rw [hcnt.copies]
    rfl
  · rw [hdrop]; rfl
  · rw [hdrop]; rfl
  · rw [hdrop]; rfl
  · rw [hdrop, hg, hself]; rfl
  · rw [hl]
    show ((w1.setFrame g).frameDrop f.id).reg _ = _
    rw [State.reg_frameDrop_ne _ _ _ (by unfold QM_POOL.a CLS_DROP_CNT.a; omega) (by unfold QM_PEAT_STAT.a CLS_DROP_CNT.a; omega)]
    show w1.reg _ = _
    rw [hw1]
    refine (w.reg_bump_word _ hwc).trans ?_
    rw [hw.regs _ rfl]
    rfl

/-- The tag bytes that the receive side has cut off a frame in reception (11 R256). -/
def Frame.cutLen (f : Frame) : Nat :=
  match f.sec with
  | some x => x.tagLen
  | none => 0

section
variable {s : State} {n : Nat} {f : Frame} {r : ParseRes} (hn : s.Numbered) (hf : f ∈ s.frames) (hrx : (s.port n).rx = some f.id) (hh : f.head = some r) (got : Nat)
include hn hf hrx hh

/-- R155: the received bytes noted; the lookups where they are due; and the judgement of the length. -/
theorem State.lookupStart_eq : s.lookupStart n got =
    (if !f.looked && !f.act.drop && !f.hb && decide (max (s.decisionPoint f.pipe r.tpl (min r.tags 2)) 64 ≤ max f.rcvd (min got f.wire.length) - f.cutLen)
      then (s.setFrame { f with rcvd := max f.rcvd (min got f.wire.length) }).lookup f.id false
      else s.setFrame { f with rcvd := max f.rcvd (min got f.wire.length) }).sduFind f.id (max f.rcvd (min got f.wire.length) - f.cutLen) := by
  unfold State.lookupStart
  rw [State.rxOf_eq hn hf hrx]
  dsimp only
  split
  next hnone => rw [hh] at hnone; cases hnone
  next r' hr =>
    obtain rfl : r = r' := Option.some.inj (hh.symm.trans hr)
    rfl

theorem State.lookupStart_early (h : max f.rcvd (min got f.wire.length) - f.cutLen < max (s.decisionPoint f.pipe r.tpl (min r.tags 2)) 64 ∨ f.looked = true) :
    s.lookupStart n got =
      (s.setFrame { f with rcvd := max f.rcvd (min got f.wire.length) }).sduFind f.id (max f.rcvd (min got f.wire.length) - f.cutLen) := by
  rw [State.lookupStart_eq hn hf hrx hh, if_neg]
  obtain h | h := h
  · intro hdue
    rw [Bool.and_eq_true, decide_eq_true_eq] at hdue
    exact absurd hdue.2 (Nat.not_le.2 h)
  · simp [h]

theorem State.lookupStart_due (h : max (s.decisionPoint f.pipe r.tpl (min r.tags 2)) 64 ≤ max f.rcvd (min got f.wire.length) - f.cutLen) (hl : f.looked = false)
    (hb : f.hb = false) (hd : f.act.drop = false) :
    s.lookupStart n got =
      ((s.setFrame { f with rcvd := max f.rcvd (min got f.wire.length) }).lookup f.id false).sduFind f.id (max f.rcvd (min got f.wire.length) - f.cutLen) := by
  rw [State.lookupStart_eq hn hf hrx hh, if_pos]
  simp [hl, hb, hd, h]

end

/-- R238: the length of a frame that has been dropped is not judged. -/
theorem State.sduFind_dropped {s : State} {id : Nat} (got : Nat) (h : (s.frame id).act.drop = true) : s.sduFind id got = s := by
  refine if_neg ?_
  simp [State.sduOver, h]

theorem State.Fair.fids {u t : State} (h : u.Fair t) : t.copies.map (fun (c : Copy) => c.fid) = u.copies.map (fun (c : Copy) => c.fid) := by
  have := congrArg (List.map (fun (c : Copy) => c.fid)) h.2
  rwa [List.map_map, List.map_map] at this

theorem State.Fair.frame {u t : State} (h : u.Fair t) (id : Nat) : t.frame id = u.frame id := by
  rw [h.1]
  rfl

theorem State.Fair.reg {u t : State} (h : u.Fair t) (a : Nat) : t.reg a = u.reg a := by
  rw [h.1]
  rfl

/-- A frame without copies has none when fair queueing has been brought up to date. -/
theorem State.Fair.noCopy {u t : State} (h : u.Fair t) {id : Nat} (hu : ∀ x ∈ u.copies, x.fid ≠ id) : ∀ x ∈ t.copies, x.fid ≠ id := by
  intro x hx e
  have hm : id ∈ t.copies.map (fun (c : Copy) => c.fid) := List.mem_map.2 ⟨x, hx, e⟩
  rw [h.fids] at hm
  obtain ⟨y, hy, hye⟩ := List.mem_map.1 hm
  exact hu y hy hye

theorem exec_lookupStart {s : State} (hp : s.powered = true) (n : Fin 24) (got : BitVec 14) (ends : List (Fin 24)) :
    exec (.lookupStart n got ends) s = .next ((s.endCharges (ends.map (·.val))).lookupStart n.val got.toNat).wfqAll := next_live s _ hp

end Sys2Proof.Machine
end

section
/-! SUPPORT. The second pass (07 R167): a copy that has left P27 has left for good. -/

namespace Sys2Proof.Machine

/-- No copy has the number `k`, and none will have it. -/
def State.Lacks (k : Nat) (s : State) : Prop := k < s.nextId ∧ ∀ x ∈ s.copies, x.id ≠ k

namespace State.Lacks

variable {k : Nat} {s t : State}

theorem of_same (h : s.Lacks k) (hc : t.copies = s.copies) (hn : t.nextId = s.nextId) : t.Lacks k := by
  unfold State.Lacks
  rw [hc, hn]
  exact h

theorem aside {K : Nat → Prop} (h : s.Lacks k) (ha : s.Aside K t) : t.Lacks k := h.of_same ha.copies ha.nextId

/-- An operation that moves no copy, whatever registers it writes. -/
theorem beside (h : s.Lacks k) (ha : s.Aside (fun _ => False) t) : t.Lacks k := h.aside ha

theorem ite {c : Prop} [Decidable c] {u : State} (h : t.Lacks k) (h' : u.Lacks k) : State.Lacks k (if c then t else u) := by
  split
  · exact h
  · exact h'

theorem ite_fst {α : Type} {c : Prop} [Decidable c] {x y : State × α} (h : x.1.Lacks k) (h' : y.1.Lacks k) : State.Lacks k (if c then x else y).1 := by
  split
  · exact h
  · exact h'

theorem ite_snd {α : Type} {c : Prop} [Decidable c] {x y : α × State} (h : x.2.Lacks k) (h' : y.2.Lacks k) : State.Lacks k (if c then x else y).2 := by
  split
  · exact h
  · exact h'

theorem foldl {α : Type} {f : State → α → State} (l : List α) (hf : ∀ (u : State) x, u.Lacks k → (f u x).Lacks k) (h : s.Lacks k) : (l.foldl f s).Lacks k := by
  induction l generalizing s with
  | nil => exact h
  | cons x l ih => exact ih (hf s x h)

section
variable (h : s.Lacks k)
include h

/-! ### Copies and frames -/

theorem setFrame (f : Frame) : (s.setFrame f).Lacks k := h.of_same rfl rfl

theorem newFrame (f : Frame) : (s.newFrame f).2.Lacks k := ⟨Nat.lt_succ_of_lt h.1, h.2⟩

theorem filter (p : Copy → Bool) : State.Lacks k { s with copies := s.copies.filter p } := ⟨h.1, fun x hx => h.2 x (List.mem_filter.1 hx).1⟩

theorem addCopy (c : Copy) : (s.addCopy c).Lacks k := by
  refine ⟨Nat.lt_succ_of_lt h.1, fun x hx => ?_⟩
  obtain hx | hx := List.mem_append.1 hx
  · exact h.2 x hx
  · rw [List.mem_singleton.1 hx]
    exact Nat.ne_of_gt h.1

theorem setCopy (c : Copy) : (s.setCopy c).Lacks k := by
  refine ⟨h.1, fun x hx => ?_⟩
  obtain ⟨g, hg, rfl⟩ := List.mem_map.1 hx
  split
  next he =>
    rw [← he]
    exact h.2 g hg
  · exact h.2 g hg

theorem reap (id : Nat) : (s.reap id).Lacks k := by
  refine h.of_same ?_ ?_ <;> rw [State.reap_same]

theorem copyGone (c : Copy) : (s.copyGone c).Lacks k := (h.filter _).reap _

theorem frameDrop (id : Nat) : (s.frameDrop id).Lacks k := by
  refine (h.filter (fun c => c.fid != id)).of_same ?_ ?_
  · exact s.frameDrop_copies id
  · rw [State.frameDrop_same]

theorem mibInc (p j : Nat) : (s.mibInc p j).Lacks k := h.of_same rfl rfl

theorem bump (a : Nat) (f : Fld) : (s.bump a f).Lacks k := h.of_same rfl rfl

theorem raise (n c i : Nat) : (s.raise n c i).Lacks k := h.beside ((State.Aside.refl s).raise c i id)

/-! ### The merge (09 R197) -/

theorem lagLost (l : List Nat) : (s.lagLost l).Lacks k := foldl l (fun _ _ hu => hu.bump _ _) h

theorem learnReq (p : Nat) (f : Frame) (vid : Nat) (due : Bool) : (s.learnReq p f vid due).Lacks k := by
  refine ite (ite (h.of_same rfl rfl) ?_) h
  exact (h.bump _ _).raise _ _ _

theorem earlyStage (p : Nat) (f : Frame) (r : ParseRes) (c : ClsRes) (d : DestRes) : (s.earlyStage p f r c d).2.Lacks k := by
  have hnote : State.Lacks k (if r.hintBad then (if r.exc = 7 then s.clsDrop p 3 else (s.clsDrop p 3).excCount p 7).raise (41 + p) 0x20 f.inPort
      else if f.code = 7 then s.clsDrop p 3 else if f.code = 8 then s.clsDrop p 4 else s) :=
    ite (raise (ite (h.bump _ _) (beside (h.bump _ _) ((State.Aside.refl _).excCount id))) _ _ _) (ite (h.bump _ _) (ite (h.bump _ _) h))
  exact ite_snd hnote (ite_snd (hnote.bump _ _) (ite_snd (lagLost (ite (hnote.bump _ _) hnote) _) hnote))

theorem mergeDrop (id stage : Nat) (a : Act) : (s.mergeDrop id stage a).Lacks k := (h.setFrame _).frameDrop id

theorem recover (j : Nat) (seq : Option Nat) : (s.recover j seq).2.Lacks k := by
  unfold State.recover
  split
  · exact ite_snd (h.of_same rfl rfl) (h.of_same rfl rfl)
  · exact ite_snd (h.of_same rfl rfl) (ite_snd (h.of_same rfl rfl) (ite_snd (h.of_same rfl rfl) (ite_snd (h.of_same rfl rfl) (h.of_same rfl rfl))))

theorem weir (f : Frame) (r : ParseRes) (e : Option FlwEnt) : (s.weir f r e).2.2.Lacks k := by
  have htest : ∀ p m n, (s.meterTest p m n).2.Lacks k := fun p m n =>
    ite_snd h (ite_snd (h.of_same rfl rfl) ((h.bump _ _).raise _ _ _))
  have hpair : ∀ (t : Bool × State) (x : Option (Nat × Nat)), t.2.Lacks k → State.Lacks k (if t.1 then (true, x, t.2) else (false, none, t.2)).2.2 := by
    intro t x ht
    cases t.1
    · exact ht
    · exact ht
  unfold State.weir
  split
  · exact h
  · split
    · exact h
    · exact hpair _ _ (htest _ _ _)

theorem flowStage (id : Nat) (r : ParseRes) (e : Option FlwEnt) : (s.flowStage id r e).2.Lacks k := by
  unfold State.flowStage
  extract_lets f a j seq rcv v w s1 g gen
  have hw : w.2.2.Lacks k := h.weir _ _ _
  have h1 : s1.Lacks k := ite (hw.recover _ _) hw
  have hg : g.2.Lacks k := ite_snd (h1.of_same rfl rfl) h1
  exact ite_snd (h.recover _ _) (ite_snd hw (hg.setFrame _))

/-! ### Admission (09 R194 to R201, R214) -/

theorem admitCopy (id : Nat) (free : Int) (port : Nat) : (s.admitCopy id free port).1.Lacks k := by
  unfold State.admitCopy
  dsimp only
  split
  · exact h.mibInc _ _
  · split
    · exact (h.bump _ _).raise _ _ _
    · split
      · exact h.bump _ _
      · exact (h.addCopy _).setFrame _

theorem mirrorCopy (id j : Nat) : (s.mirrorCopy id j).Lacks k :=
  ite (ite (h.mibInc _ _) (ite ((h.bump _ _).raise _ _ _) ((h.setFrame _).addCopy _))) h

theorem takeCells (n : Nat) (l : List (Nat × Nat)) : (State.takeCells n s l).2.Lacks k := h.beside ((State.Aside.refl s).takeCells n l)

theorem poolNote : s.poolNote.Lacks k := h.beside ((State.Aside.refl s).poolNote id)

end

theorem admitAll (h : s.Lacks k) (id : Nat) (ports : List Nat) : (s.admitAll id ports).1.Lacks k := by
  unfold State.admitAll
  dsimp only
  generalize s.poolFree = free
  suffices hall : ∀ x : State × List Nat × Bool, x.1.Lacks k → (ports.foldl (fun (x : State × List Nat × Bool) n =>
      match (x.1.admitCopy id free n).2 with
      | none => ((x.1.admitCopy id free n).1, x.2)
      | some sh => ((x.1.admitCopy id free n).1, x.2.1 ++ [n], x.2.2 || sh)) x).1.Lacks k from hall (s, [], false) h
  induction ports with
  | nil => exact fun _ hx => hx
  | cons n ports ih =>
    intro x hx
    refine ih _ ?_
    dsimp only
    split
    · exact hx.admitCopy _ _ _
    · exact hx.admitCopy _ _ _

section
variable (h : s.Lacks k)
include h

theorem takeIn (id : Nat) (ports : List Nat) : (s.takeIn id ports).Lacks k := by
  unfold State.takeIn
  dsimp only
  split
  · exact ((foldl _ (fun _ _ hu => hu.bump _ _) h).raise _ _ _).frameDrop _
  · refine ite ((h.admitAll _ _).frameDrop _) ?_
    exact foldl _ (fun _ _ hu => ite (hu.mirrorCopy _ _) hu) ((((h.admitAll _ _).takeCells _ _).setFrame _).poolNote)

theorem destPorts (r : ParseRes) (data : List Byte) (d : DestRes) : (s.destPorts r data d).2.Lacks k := by
  unfold State.destPorts
  extract_lets base
  have hbase : base.2.Lacks k := by
    refine ite_snd h (ite_snd ?_ (ite_snd h h))
    split
    · exact h
    · exact h.bump _ _
  exact ite_snd hbase hbase

theorem mergePass (id p : Nat) (r : ParseRes) (c : ClsRes) (d : DestRes) (e : Option FlwEnt) (src bad : Bool) : (s.mergePass id p r c d e src bad).Lacks k := by
  have hports := (h.lagLost d.lost).destPorts r (s.frame id).data d
  exact ite (((hports.setFrame _).learnReq _ _ _ _).frameDrop _) (((hports.setFrame _).learnReq _ _ _ _).takeIn _ _)

theorem lookup (id : Nat) (bad : Bool) : (s.lookup id bad).Lacks k := by
  unfold State.lookup
  extract_lets f p bank f1
  split
  · exact h
  next r _ =>
    extract_lets c s1 hit src fl d s2 a es w
    have h1 : s1.Lacks k := (h.setFrame f1).beside ((State.Aside.refl _).clsNote _ c fun x => x)
    have hhit : hit.2.Lacks k := h1.beside ((State.Aside.refl _).fdbDest _ _ fun x => x)
    have hsrc : src.2.Lacks k := ite_snd (hhit.beside ((State.Aside.refl _).fdbSource _ _ _ fun x => x)) hhit
    have h2 : s2.Lacks k := hsrc.beside ((State.Aside.refl _).excCount fun x => x)
    have hes : es.2.Lacks k := h2.earlyStage p _ r c d
    have hw : w.2.Lacks k := hes.flowStage id r fl.2
    clear_value w es
    exact ite (hes.mergeDrop _ _ _) (ite (hes.mergeDrop _ _ _) (ite ((hes.bump _ _).mergeDrop _ _ _) (ite (hw.mergeDrop _ _ _) (hw.mergePass _ _ _ _ _ _ _ _))))

/-! ### Findings (09 R209 to R213) -/

theorem markCopy (begun : Bool) (c : Copy) : (s.markCopy begun c).Lacks k := ite (ite (h.setCopy _) (h.copyGone c)) (ite (h.copyGone c) (h.setCopy _))

theorem finding (id cause : Nat) : (s.finding id cause).1.Lacks k := by
  have hmark : State.Lacks k ((s.copiesOf id).foldl (fun u c => u.markCopy ((s.copiesOf id).any (fun c => c.mir.isNone && c.st != 0)) c)
      (s.setFrame { s.frame id with finding := some cause, begun := (s.frame id).begun || (s.copiesOf id).any (fun c => c.mir.isNone && c.st != 0) })) :=
    foldl _ (fun _ _ hu => hu.markCopy _ _) (h.setFrame _)
  exact ite_fst h (ite (hmark.bump _ _) hmark)

theorem wholeElig (id : Nat) : (s.wholeElig id).Lacks k := foldl _ (fun _ _ hu => hu.setCopy _) h

theorem badFrame (id cause code : Nat) : (s.badFrame id cause code).Lacks k := by
  have hback : State.Lacks k (if (s.frame id).accepted then (s.frWithdraw (s.frame id).act.stream (s.frame id).seqIn).setFrame { s.frame id with accepted := false } else s) :=
    ite ((h.beside ((State.Aside.refl s).frWithdraw _ _)).setFrame _) h
  have hfind := hback.finding id cause
  exact ite h (ite (ite (hfind.wholeElig _) hfind) (frameDrop (ite (hfind.bump _ _) (ite (hfind.bump _ _) hfind)) _))

theorem sduFind (id got : Nat) : (s.sduFind id got).Lacks k :=
  ite (badFrame (setFrame (h.beside ((State.Aside.refl s).sduNote _ (fun x => x) fun x => x)) _) _ _ _) h

/-! ### Fair queueing (10 R234) -/

theorem wfqHead (port tc : Nat) : (s.wfqHead port tc).Lacks k := by
  unfold State.wfqHead
  split
  · exact h
  · exact ite h ((h.setCopy _).of_same rfl rfl)

theorem wfqPort (port : Nat) : (s.wfqPort port).Lacks k := ite (h.of_same rfl rfl) (foldl _ (fun _ _ hu => hu.wfqHead _ _) h)

theorem wfqAll : s.wfqAll.Lacks k := foldl _ (fun _ _ hu => hu.wfqPort _) h

/-- A frame that enters whole brings no copy with a number that was given before. -/
theorem enter (f : Frame) : (s.enter f).2.Lacks k := by
  unfold State.enter
  extract_lets nf id f' r f1 e s1 s2 s3
  have hnew : (nf.2.setFrame f1).Lacks k := (h.newFrame _).setFrame f1
  have he : e.2.Lacks k := hnew.beside ((State.Aside.refl _).endCode f1 (fun x => x) (fun x => x) fun x => x)
  have h1 : s1.Lacks k := (he.setFrame _).lookup id _
  have h2 : s2.Lacks k := h1.sduFind id _
  have h3 : s3.Lacks k := ite (h2.badFrame _ _ _) h2
  clear_value s3
  exact (h3.reap id).wfqAll

end

end State.Lacks

end Sys2Proof.Machine
end

section
/-! SUPPORT. The frame that enters its second pass (07 R167), and the three rules together. -/

namespace Sys2Proof.Machine

theorem State.wfqTaken_only (s : State) (c : Copy) : s.wfqTaken c = { s with wfqV := (s.wfqTaken c).wfqV } := by
  unfold State.wfqTaken
  split
  · split <;> rfl
  · rfl

theorem State.setFrame_absent (s : State) (f : Frame) (h : ∀ g ∈ s.frames, g.id ≠ f.id) : s.setFrame f = s := by
  have hmap : s.frames.map (fun g => if g.id = f.id then f else g) = s.frames :=
    (List.map_congr_left fun g hg => if_neg (h g hg)).trans (List.map_id s.frames)
  unfold State.setFrame
  rw [hmap]

theorem State.frame_begins (s : State) (c : Copy) (hn : s.Numbered) : ∃ x : Bool, (s.begins c).frame c.fid = { s.frame c.fid with begun := x } := by
  unfold State.begins
  have hw : ∀ u : State, (u.wfqTaken c).frame c.fid = u.frame c.fid := fun u => by
    rw [State.wfqTaken_only]
    rfl
  rw [hw]
  obtain ⟨hf, hid⟩ | ⟨hno, hdef⟩ := s.frame_cases c.fid
  · refine ⟨true, ?_⟩
    have hset := State.frame_setFrame s { s.frame c.fid with begun := true } (s.frame c.fid) hn hf rfl
    rw [show ({ s.frame c.fid with begun := true } : Frame).id = c.fid from hid] at hset
    exact hset
  · refine ⟨false, ?_⟩
    rw [s.setFrame_absent _ fun g hg => by rw [hdef]; exact hno g hg, hdef]

section
variable {s : State} (c : Copy) (corr : Nat)

/-- The state in which the copy that recirculates has begun. -/
def State.readOut (s : State) (c : Copy) (corr : Nat) : State := (s.bumpN QM_MERE_ECC.a QM_MERE_ECC.corr corr).begins c

theorem State.readOut_only : s.readOut c corr = { s with regs := (s.readOut c corr).regs, frames := (s.readOut c corr).frames, wfqV := (s.readOut c corr).wfqV } := by
  unfold State.readOut State.begins
  rw [State.wfqTaken_only]
  rfl

theorem State.reg_readOut (a : Nat) (h : a ≠ QM_MERE_ECC.a) : (s.readOut c corr).reg a = s.reg a := by
  unfold State.readOut State.begins
  rw [State.wfqTaken_only]
  exact State.reg_setF_ne _ _ _ _ _ h

theorem State.f_readOut (a : Nat) (f : Fld) (h : a ≠ QM_MERE_ECC.a) : (s.readOut c corr).f a f = s.f a f :=
  State.f_congr (State.reg_readOut c corr a h) (by rw [State.readOut_only]) f

theorem State.frame_readOut (hn : s.Numbered) : ∃ x : Bool, (s.readOut c corr).frame c.fid = { s.frame c.fid with begun := x } :=
  State.frame_begins (s.bumpN QM_MERE_ECC.a QM_MERE_ECC.corr corr) c hn

/-- The bytes of a copy for an internal port do not change as it begins. -/
theorem State.copyPlain_readOut (hn : s.Numbered) (hport : 24 ≤ c.port) : ((s.readOut c corr).copyPlain c).1 = (s.copyPlain c).1 := by
  obtain ⟨x, hx⟩ := State.frame_readOut (s := s) c corr hn
  have henc : ∀ k, (s.readOut c corr).f (FRE_STR_ENC.a k) FRE_STR_ENC.enc_mask = s.f (FRE_STR_ENC.a k) FRE_STR_ENC.enc_mask := fun k =>
    State.f_readOut c corr _ _ (by unfold FRE_STR_ENC.a QM_MERE_ECC.a; omega)
  unfold State.copyPlain State.rtagEdit
  simp only [hx, henc, if_pos hport]

theorem State.secondPass_facts (hn : s.Numbered) (hport : c.port = 27) :
    ((s.readOut c corr).secondPass c).inPort = (s.frame c.fid).inPort ∧ ((s.readOut c corr).secondPass c).data = (s.copyPlain c).1 ∧
    (1, (s.frame c.fid).bankB.getD (s.activeBank 1)) ∈ ((s.readOut c corr).secondPass c).hold := by
  obtain ⟨x, hx⟩ := State.frame_readOut (s := s) c corr hn
  have hact : (s.readOut c corr).activeBank 1 = s.activeBank 1 := State.activeBank_congr (State.reg_readOut c corr _ (by decide))
  unfold State.secondPass
  rw [hx, hact]
  refine ⟨rfl, State.copyPlain_readOut c corr hn (by omega), ?_⟩
  dsimp only
  split
  next hin => simpa using hin
  next => simp

theorem State.recirculate_some (h : s.tryList 0 (s.selOrder 27 false) = some (.inl c)) :
    s.recirculate corr none = (((s.readOut c corr).copyGone c).enter ((s.readOut c corr).secondPass c)).2 := by
  have hmem : c ∈ s.copies := (copy_selOrder_mem s 27 false c (copy_tryList_mem s 0 _ c h)).1
  unfold State.recirculate
  rw [copy_pick_some _ s 27 false 0 c h]
  have hany : s.copies.any (fun x => x.id == c.id) = true := List.any_eq_true.2 ⟨c, hmem, beq_iff_eq.2 rfl⟩
  exact if_pos hany

theorem State.recirculate_none (bad : Option Nat) (h : s.tryList 0 (s.selOrder 27 false) = none) : s.recirculate corr bad = s.wfqAll := by
  unfold State.recirculate
  rw [copy_pick_none _ s 27 false 0 h]

theorem State.lacks_readOut (hn : s.Numbered) (hmem : c ∈ s.copies) : ((s.readOut c corr).copyGone c).Lacks c.id := by
  have hnext : (s.readOut c corr).nextId = s.nextId := by rw [State.readOut_only]
  refine ⟨?_, copy_copyGone_gone _ c⟩
  rw [State.copyGone_same]
  show c.id < (s.readOut c corr).nextId
  rw [hnext]
  exact hn.2.1 c hmem

end

/-- Settles O31: what the lookup of a frame in reception leaves, up to the merge and beyond it, and the way of a copy through P27. -/
theorem lookupsStartAtTheDecisionPoint : Obligations.LookupsStartAtTheDecisionPoint := by
  unfold Obligations.LookupsStartAtTheDecisionPoint
  refine fun s hc hn hp => ⟨fun n got ends f r => ?_, fun c corr h => ?_, fun corr bad h => ?_⟩
  · intro v hf hrx hpf hh hpass hhb hdrop g cut u cls
    have hkeep : s.Keeps v := State.endCharges_keeps (State.Keeps.refl s) _
    have hnv : v.Numbered := hkeep.numbered hn
    have hcv : v.Canonical := hkeep.canon hc
    obtain ⟨hv, -⟩ := s.endCharges_charged (ends.map (·.val)) hn
    have hrxv : (v.port n.val).rx = some f.id := by
      show ((s.endCharges _).port n.val).rx = _
      rw [hv]
      exact hrx
    have hnu : u.Numbered := State.setFrame_numbered v _ hnv
    have hex := exec_lookupStart hp n got ends
    refine ⟨fun hearly => ?_, fun hdue hlook => ⟨?_, fun he hcode hbad hst => ?_⟩⟩
    · rw [hex, State.lookupStart_early hnv hf hrxv hh got.toNat hearly]
      exact ⟨_, rfl, State.wfqAll_fair _ ((State.sduFind_keeps (State.Keeps.refl u) _ _).numbered hnu)⟩
    · rw [hex, State.lookupStart_due hnv hf hrxv hh got.toNat hdue hlook hhb hdrop]
      exact ⟨_, rfl, State.wfqAll_fair _ ((State.sduFind_keeps (State.lookup_keeps (State.Keeps.refl u) _ _) _ _).numbered hnu)⟩
    · have hfu : ({ f with rcvd := g } : Frame) ∈ u.frames := frame_setFrame_mem v _ f hf rfl
      have hcu : u.Canonical := (State.setFrame_keeps (State.Keeps.refl v) _).canon hcv
      obtain ⟨hcopies, hd, hstage, hhold, hlooked, hreg⟩ := State.lookup_dropped_facts (s := u) (f := { f with rcvd := g }) (c := cls) false hcu hnu hfu he hh hpass hcode hbad rfl hst
      have hfair : (u.lookup f.id false).Fair (u.lookup f.id false).wfqAll := State.wfqAll_fair _ ((State.lookup_keeps (State.Keeps.refl u) _ _).numbered hnu)
      have hcs : v.copies = s.copies := by
        show (s.endCharges _).copies = _
        rw [hv]
      have hrs : ∀ a, v.reg a = s.reg a := fun a => by
        show (s.endCharges _).reg a = _
        rw [hv]
        rfl
      rw [hex, State.lookupStart_due hnv hf hrxv hh got.toNat hdue hlook hhb hdrop, State.sduFind_dropped _ hd]
      refine ⟨_, rfl, hfair.noCopy fun x hx => ?_, ?_, ?_, ?_, ?_, ?_, ?_⟩
      · rw [hcopies] at hx
        simpa using (List.mem_filter.1 hx).2
      · rw [hfair.frame]; exact hd
      · rw [hfair.frame]; exact hstage
      · rw [hfair.frame]; exact hhold
      · rw [hfair.frame]; exact hlooked
      · rw [hfair.reg, ← hrs]
        exact hreg
      · rw [hfair.2, hcopies, ← hcs]
        rfl
  · obtain ⟨hmem, hport⟩ := copy_selOrder_mem s 27 false c (copy_tryList_mem s 0 _ c h)
    obtain ⟨hin, hdata, hhold⟩ := State.secondPass_facts c corr.val hn hport
    exact ⟨_, (next_live s _ hp).trans (congrArg _ (State.recirculate_some c corr.val h)), rfl, ((State.lacks_readOut c corr.val hn hmem).enter _).2, rfl, hin, hdata, hhold⟩
  · exact ⟨_, (next_live s _ hp).trans (congrArg _ (State.recirculate_none corr.val _ h)), State.wfqAll_fair s hn⟩

end Sys2Proof.Machine
end

section
/-! SUPPORT. A frame head at a port (07 R147, 12 R282, R287, R290). -/

namespace Sys2Proof.Machine

theorem exec_frameHead {s : State} (hp : s.powered = true) (n : Fin 24) (wire : List Byte) (abort looped : Bool) (ph : Fin 16) :
    exec (.frameHead n wire abort looped ph) s = .next (s.frameHead n.val wire abort looped ph.val) := next_live s _ hp

/-- A port counter after it has advanced. -/
theorem State.mib_mibAdd {s : State} (hc : s.Canonical) (port k v : Nat) (j : Nat) : Cells.get (fun _ => 0) (s.mibAdd port k v).mib j =
    if j = port * 32 + k then (Cells.get (fun _ => 0) s.mib j + v) % 2 ^ 64 else Cells.get (fun _ => 0) s.mib j := by
  by_cases h : j = port * 32 + k
  · rw [if_pos h, h]
    exact Cells.get_set hc.mib _ _
  · rw [if_neg h]
    exact Cells.get_set_ne _ _ _ _ _ h

/-! ### What no port takes in -/

section
variable {s : State} {n : Nat} {wire : List Byte} {abort looped : Bool} {ph : Nat}

theorem State.frameHead_off (h : s.portOn n = false) : s.frameHead n wire abort looped ph = s.mibInc n 7 := if_pos (by rw [h]; rfl)

/-- R287, R290: a loopback takes its own frames alone, and a half-duplex port none while it sends. -/
theorem State.frameHead_deaf (hon : s.portOn n = true)
    (h : ((s.port n).lpbk == 1 || (s.port n).lpbk == 2) ≠ looped ∨ (looped = true ∧ (s.port n).loop = []) ∨ (s.portMode n = 8 ∧ looped = false ∧ s.sending n ≠ none)) :
    s.frameHead n wire abort looped ph = s := by
  unfold State.frameHead
  dsimp only
  rw [if_neg (by simp [hon])]
  refine if_pos ?_
  by_cases hlb : ((s.port n).lpbk == 1 || (s.port n).lpbk == 2) = looped
  · rw [hlb]
    obtain h | ⟨hl, hloop⟩ | ⟨hmode, hl, hsend⟩ := h
    · exact absurd hlb h
    · simp [hl, hloop]
    · have hsome : (s.sending n).isSome = true := Option.isSome_iff_ne_none.2 hsend
      simp [hmode, hl, hsome]
  · exact .inr (.inr (.inl hlb))

end

/-! ### The frame that a port takes in -/

/-- The state in which a port takes a frame in: a loopback has handed it over, and the remote loopback sends it again (R290). -/
def State.handed (s : State) (n : Nat) (looped : Bool) (w : List Byte) (rest : List (List Byte)) : State :=
  if looped then s.setPort n { s.port n with loop := rest } else if (s.port n).lpbk = 3 then s.emit (.frame n w) else s

section
variable {s : State} {n : Nat} {wire w : List Byte} {rest : List (List Byte)} {abort looped : Bool} {ph : Nat}

theorem State.handed_only : s.handed n looped w rest = { s with ports := (s.handed n looped w rest).ports, out := (s.handed n looped w rest).out } := by
  unfold State.handed
  split
  · rfl
  · split <;> rfl

theorem State.port_handed (hc : s.Canonical) (h : looped = false → rest = (s.port n).loop) : (s.handed n looped w rest).port n = { s.port n with loop := rest } := by
  unfold State.handed
  cases looped
  · rw [h rfl]
    split
    · rename_i hf
      cases hf
    · split <;> rfl
  · exact port_setPort s n _ hc

theorem State.port_handed_ne {k : Nat} (h : k ≠ n) : (s.handed n looped w rest).port k = s.port k := by
  unfold State.handed
  split
  · exact Cells.get_set_ne _ _ _ _ _ h
  · split <;> rfl

/-- R290: a port in reception mode hands the frame to its MAC. -/
theorem State.frameHead_takes
    (hw : (looped = false ∧ (s.port n).lpbk ≠ 1 ∧ (s.port n).lpbk ≠ 2 ∧ w = wire ∧ rest = (s.port n).loop) ∨
      (looped = true ∧ ((s.port n).lpbk = 1 ∨ (s.port n).lpbk = 2) ∧ (s.port n).loop = w :: rest))
    (hon : s.portOn n = true) (hmode : s.portMode n ≠ 0) (hprbs : (s.port n).prbs = 0) (hrx : (s.port n).rx = none)
    (hhalf : s.portMode n = 8 → looped = false → s.sending n = none) (hctrl : be16 w 12 ≠ 0x8808) :
    s.frameHead n wire abort looped ph = (s.handed n looped w rest).takeHead n w abort ph := by
  unfold State.frameHead
  dsimp only
  rw [if_neg (by simp [hon])]
  obtain ⟨rfl, h1, h2, rfl, rfl⟩ | ⟨rfl, hlb, hloop⟩ := hw
  · have hno : ((s.port n).lpbk == 1 || (s.port n).lpbk == 2) = false := by simp [h1, h2]
    rw [if_neg (by
      simp only [hno, hprbs, hrx]
      by_cases h8 : s.portMode n = 8
      · simp [hhalf h8 rfl, hmode]
      · simp [h8, hmode])]
    simp only [hno, Bool.false_eq_true, ↓reduceIte]
    exact if_neg hctrl
  · have hyes : ((s.port n).lpbk == 1 || (s.port n).lpbk == 2) = true := by
      obtain h | h := hlb <;> simp [h]
    rw [if_neg (by simp [hyes, hprbs, hrx, hmode, hloop])]
    simp only [hyes, ↓reduceIte, hloop, List.headD_cons, List.tail_cons]
    exact if_neg hctrl

end

/-- R282: a port takes in frames of 64 bytes at least. -/
theorem State.frameMax_ge (s : State) (n : Nat) : 64 ≤ s.frameMax n := by
  unfold State.frameMax
  dsimp only
  split_ifs <;> omega

/-- A new frame leaves the others. -/
theorem State.frame_newFrame_ne (s : State) (f : Frame) {id : Nat} (h : id ≠ s.nextId) : (s.newFrame f).2.frame id = s.frame id := by
  have hlast : ([{ f with id := s.nextId }] : List Frame).find? (fun g => g.id == id) = none := by
    rw [List.find?_eq_none]
    intro g hg
    rw [List.mem_singleton.1 hg]
    simpa using fun e => h e.symm
  unfold State.frame State.newFrame
  dsimp only
  rw [List.find?_append, hlast, Option.or_none]

/-- The frame that a port without MACsec takes in, under its new number. -/
def State.headFrame (s : State) (n : Nat) (w : List Byte) (abort : Bool) (ph : Nat) : Frame := { s.rxFrame n w abort ph with id := s.nextId }

/-- The same frame with what the parser finds in it. -/
def State.parsedFrame (s : State) (n : Nat) (w : List Byte) (abort : Bool) (ph : Nat) : Frame :=
  let f := s.headFrame n w abort ph
  let r := s.parse f.pipe n (s.frameMax n) f.data
  { f with head := some r, tagged := decide (0 < r.tags), hb := s.isHeartbeat n r.ety f.data }

section
variable {s : State} {n : Nat} {w : List Byte} {abort : Bool} {ph : Nat}

/-- The state in which the MAC of a port has begun to receive. -/
def State.receiving (s : State) (n : Nat) (w : List Byte) (abort : Bool) (ph : Nat) : State :=
  (s.newFrame (s.rxFrame n w abort ph)).2.setPort n { s.port n with rx := some s.nextId, toBusy := s.portMode n == 8 }

theorem State.takeHead_eq (hn : s.Numbered) (hsec : s.on (CIP_PORT_CFG.a n) CIP_PORT_CFG.macsec_en = false) (hlen : 64 ≤ w.length) :
    s.takeHead n w abort ph = (s.receiving n w abort ph).headIn (s.headFrame n w abort ph) := by
  have hself : (s.receiving n w abort ph).frame s.nextId = s.headFrame n w abort ph := State.frame_newFrame s _ hn
  have hwire : 64 ≤ (s.headFrame n w abort ph).wire.length := by
    show 64 ≤ (w.take (s.frameMax n)).length
    rw [List.length_take]
    exact Nat.le_min.2 ⟨s.frameMax_ge n, hlen⟩
  have hdue : (s.headFrame n w abort ph).secDue = false := by
    show (s.on (CIP_PORT_CFG.a n) CIP_PORT_CFG.macsec_en && _) = false
    rw [hsec, Bool.false_and]
  show (if ((s.receiving n w abort ph).frame s.nextId).wire.length < 64 ∨ ((s.receiving n w abort ph).frame s.nextId).secDue = true then s.receiving n w abort ph
    else if s.on (CIP_PORT_CFG.a n) CIP_PORT_CFG.macsec_en then (s.receiving n w abort ph).noTag ((s.receiving n w abort ph).frame s.nextId)
    else (s.receiving n w abort ph).headIn ((s.receiving n w abort ph).frame s.nextId)) = _
  rw [hself, if_neg (by rw [hdue]; simp [hwire]), if_neg (by rw [hsec]; decide)]

theorem State.takeHead_facts (hc : s.Canonical) (hn : s.Numbered) (hsec : s.on (CIP_PORT_CFG.a n) CIP_PORT_CFG.macsec_en = false) (hlen : 64 ≤ w.length) :
    let t := s.takeHead n w abort ph
    t.port n = { s.port n with rx := some s.nextId, toBusy := s.portMode n == 8 } ∧ t.frame s.nextId = s.parsedFrame n w abort ph ∧
    (∀ id, id ≠ s.nextId → t.frame id = s.frame id) ∧ (∀ k, k ≠ n → t.port k = s.port k) ∧
    t = { s with nextId := s.nextId + 1, frames := t.frames, ports := t.ports, tim := t.tim, regs := t.regs, evt := t.evt, out := t.out,
                 pcie := { s.pcie with pba := t.pcie.pba } } := by
  dsimp only
  rw [State.takeHead_eq hn hsec hlen]
  have hnum : (s.receiving n w abort ph).Numbered := State.newFrame_numbered s _ hn
  have hin : s.headFrame n w abort ph ∈ (s.receiving n w abort ph).frames := List.mem_append.2 (.inr (List.mem_singleton.2 rfl))
  have hset : ((s.receiving n w abort ph).setFrame (s.parsedFrame n w abort ph)).frame s.nextId = s.parsedFrame n w abort ph :=
    State.frame_setFrame _ (s.parsedFrame n w abort ph) (s.headFrame n w abort ph) hnum hin rfl
  have hne : ∀ id, id ≠ s.nextId → ((s.receiving n w abort ph).setFrame (s.parsedFrame n w abort ph)).frame id = s.frame id := fun id h =>
    (State.frame_setFrame_ne _ (s.parsedFrame n w abort ph) id h).trans (s.frame_newFrame_ne _ h)
  obtain ⟨tim, regs, evt, out, pba, hhead⟩ : ∃ a b c d pb, (s.receiving n w abort ph).headIn (s.headFrame n w abort ph) =
      { (s.receiving n w abort ph).setFrame (s.parsedFrame n w abort ph) with tim := a, regs := b, evt := c, out := d, pcie := { s.pcie with pba := pb } } :=
    frame_rxPtp_same ((s.receiving n w abort ph).setFrame (s.parsedFrame n w abort ph)) _ _
  rw [hhead]
  exact ⟨port_setPort _ n _ (State.newFrame_keeps (State.Keeps.refl s) _ |>.canon hc), hset, hne, fun k hk => Cells.get_set_ne _ _ _ _ _ hk, rfl⟩

end

/-- R290: the frame as the port takes it in does not depend on where it comes from. -/
theorem State.parsedFrame_handed (s : State) (n : Nat) (looped : Bool) (w : List Byte) (rest : List (List Byte)) (abort : Bool) (ph : Nat) :
    (s.handed n looped w rest).parsedFrame n w abort ph = s.parsedFrame n w abort ph := by
  rw [State.handed_only]
  rfl

end Sys2Proof.Machine
end

section
/-! SUPPORT. What operations on frames and copies leave of the ports, their counters and the registers. -/

namespace Sys2Proof.Machine

/-- `t` has the ports, the port counters and the registers of `K` as `s` has them. -/
structure State.Outside (K : Nat → Prop) (s t : State) : Prop where
  ports : t.ports = s.ports
  mib : t.mib = s.mib
  regs : ∀ a, K a → t.reg a = s.reg a

namespace State.Outside

variable {K : Nat → Prop} {s0 s t : State}

theorem refl (s : State) : s.Outside K s := ⟨rfl, rfl, fun _ _ => rfl⟩

theorem trans (h : s0.Outside K s) (k : s.Outside K t) : s0.Outside K t :=
  ⟨k.ports.trans h.ports, k.mib.trans h.mib, fun a ha => (k.regs a ha).trans (h.regs a ha)⟩

theorem aside (h : s0.Outside K s) (k : s.Aside K t) : s0.Outside K t := h.trans ⟨k.ports, k.mib, k.regs⟩

theorem fair (h : s0.Outside K s) (k : s.Fair t) : s0.Outside K t := h.trans ⟨by rw [k.1], by rw [k.1], fun a _ => k.reg a⟩

theorem ite {c : Prop} [Decidable c] {u : State} (h : s0.Outside K t) (k : s0.Outside K u) : s0.Outside K (if c then t else u) := by
  split
  · exact h
  · exact k

theorem foldl {α : Type} {f : State → α → State} (l : List α) (hf : ∀ (u : State) x, s0.Outside K u → s0.Outside K (f u x)) (h : s0.Outside K s) :
    s0.Outside K (l.foldl f s) := by
  induction l generalizing s with
  | nil => exact h
  | cons x l ih => exact ih (hf s x h)

section
variable (h : s0.Outside K s)
include h

theorem setFrame (f : Frame) : s0.Outside K (s.setFrame f) := h.trans ⟨rfl, rfl, fun _ _ => rfl⟩

theorem setCopy (c : Copy) : s0.Outside K (s.setCopy c) := h.trans ⟨rfl, rfl, fun _ _ => rfl⟩

theorem endCharge (f : Frame) : s0.Outside K (s.endCharge f) := by
  unfold State.endCharge
  split
  · exact h
  · exact h.trans ⟨rfl, rfl, fun _ _ => rfl⟩

theorem wholeElig (id : Nat) : s0.Outside K (s.wholeElig id) := foldl _ (fun _ _ hu => hu.setCopy _) h

section
variable (hpool : ¬K QM_POOL.a) (hpeat : ¬K QM_PEAT_STAT.a)
include hpool hpeat

theorem reap (id : Nat) : s0.Outside K (s.reap id) := by
  refine h.trans ⟨?_, ?_, fun _ ha => State.reg_reap_ne _ _ _ (fun e => hpool (e ▸ ha)) (fun e => hpeat (e ▸ ha))⟩ <;> rw [State.reap_same]

theorem copyGone (c : Copy) : s0.Outside K (s.copyGone c) := by
  refine h.trans ⟨?_, ?_, fun _ ha => State.reg_copyGone_ne _ _ _ (fun e => hpool (e ▸ ha)) (fun e => hpeat (e ▸ ha))⟩ <;> rw [State.copyGone_same]

theorem frameDrop (id : Nat) : s0.Outside K (s.frameDrop id) := by
  refine h.trans ⟨?_, ?_, fun _ ha => State.reg_frameDrop_ne _ _ _ (fun e => hpool (e ▸ ha)) (fun e => hpeat (e ▸ ha))⟩ <;> rw [State.frameDrop_same]

theorem markCopy (begun : Bool) (c : Copy) : s0.Outside K (s.markCopy begun c) :=
  ite (ite (h.setCopy _) (h.copyGone hpool hpeat c)) (ite (h.copyGone hpool hpeat c) (h.setCopy _))

end

theorem regrow (id : Nat) (hpool : ¬K QM_POOL.a) : s0.Outside K (s.regrow id).1 := by
  have hcells : ∀ (g : Frame) (n : Nat) (l : List (Nat × Nat)), s0.Outside K (((State.takeCells n s l).2.setFrame g).poolNote) := fun g n l =>
    aside (setFrame (h.aside ((State.Aside.refl s).takeCells n l)) g) ((State.Aside.refl _).poolNote hpool)
  unfold State.regrow
  dsimp only
  split
  · exact h
  · exact hcells _ _ _

end

end State.Outside

theorem State.Outside.port {K : Nat → Prop} {s t : State} (h : s.Outside K t) (n : Nat) : t.port n = s.port n := by
  unfold State.port
  rw [h.ports]

end Sys2Proof.Machine
end

section
/-! SUPPORT. A frame that has ended leaves the device when it is dropped (09 R194, R208). -/

namespace Sys2Proof.Machine

/-- Whatever frame has the number `id` has ended, and no verdict on it is due. -/
def State.Over (s : State) (id : Nat) : Prop := ∀ g ∈ s.frames, g.id = id → g.ended = true ∧ g.verd ≠ 1

namespace State.Over

variable {s t : State} {id : Nat}

theorem of_subset (h : s.Over id) (hs : t.frames ⊆ s.frames) : t.Over id := fun g hg => h g (hs hg)

theorem aside {K : Nat → Prop} (h : s.Over id) (ha : s.Aside K t) : t.Over id := h.of_subset (by rw [ha.frames]; exact List.Subset.refl _)

theorem frame (h : s.Over id) (hf : s.frame id ∈ s.frames) (hid : (s.frame id).id = id) : (s.frame id).ended = true ∧ (s.frame id).verd ≠ 1 := h _ hf hid

theorem setFrame (h : s.Over id) (f : Frame) (hf : f.id = id → f.ended = true ∧ f.verd ≠ 1) : (s.setFrame f).Over id := by
  intro g hg
  obtain ⟨x, hx, rfl⟩ := List.mem_map.1 hg
  split
  · exact hf
  · exact h x hx

theorem reap (h : s.Over id) (k : Nat) : (s.reap k).Over id := by
  refine h.of_subset ?_
  unfold State.reap
  dsimp only
  split
  · rw [State.poolNote_same, State.peatFree_same]
    exact List.filter_subset_self _
  · exact List.Subset.refl _

theorem copyGone (h : s.Over id) (c : Copy) : (s.copyGone c).Over id := reap (s := { s with copies := s.copies.filter (fun g => g.id != c.id) }) h _

/-- The meter of the frame with the number is settled, or another's. -/
theorem endCharge (h : s.Over id) (k : Nat) : (s.endCharge (s.frame k)).Over id := by
  unfold State.endCharge
  split
  · exact h
  next p hm =>
    obtain ⟨hf, -⟩ | ⟨-, hno⟩ := s.frame_cases k
    · exact setFrame (s := s.meterCharge _ _ _) h _ fun hid => h (s.frame k) hf hid
    · rw [hno] at hm
      cases hm

end State.Over

/-- The frame with the number is dropped, and is gone. -/
theorem State.frameDrop_over {s : State} {id : Nat} (hn : s.Numbered) (h : s.Over id) : ∀ y ∈ (s.frameDrop id).frames, y.id ≠ id := by
  obtain ⟨hf, hid⟩ | ⟨hno, hdef⟩ := s.frame_cases id
  · obtain ⟨hend, hverd⟩ := h.frame hf hid
    have hgone := frame_frameDrop_frames s (s.frame id) hf hend hverd hn
    rwa [hid] at hgone
  · intro y hy
    have hsub : (s.frameDrop id).frames ⊆ (s.emptying id).frames := by
      rw [State.frameDrop_eq]
      unfold State.reap
      dsimp only
      split
      · rw [State.poolNote_same, State.peatFree_same]
        exact List.filter_subset_self _
      · exact List.Subset.refl _
    have hy := hsub hy
    rw [State.emptying_frames, s.setFrame_absent _ (by rw [hdef]; exact hno)] at hy
    exact hno y hy

theorem State.frameDrop_noCopy (s : State) (id : Nat) : ∀ y ∈ (s.frameDrop id).copies, y.fid ≠ id := by
  intro y hy
  rw [State.frameDrop_copies] at hy
  simpa using (List.mem_filter.1 hy).2

end Sys2Proof.Machine
end

section
/-! SUPPORT. The end of reception (07 R153, 09 R208, R209, 10 R236). -/

namespace Sys2Proof.Machine

theorem exec_receptionEnd {s t : State} {n : Fin 24} {ends : List (Fin 24)} (hp : s.powered = true) (h : (s.endCharges (ends.map (·.val))).recEnd n.val = (t, none)) :
    exec (.receptionEnd n ends) s = .next t.wfqAll := by
  refine (next_live s _ hp).trans (congrArg _ ?_)
  rw [h]
  rfl

/-- The state in which the reception on a port has ended. -/
def State.stopped (s : State) (n : Nat) : State := s.setPort n { s.port n with rx := none }

/-- The state in which the frame in reception on a port has ended. -/
def State.ended (s : State) (n : Nat) (f : Frame) : State := (s.stopped n).setFrame { f with ended := true }

theorem State.stopped_rx {s : State} (hc : s.Canonical) (n : Nat) : ((s.stopped n).port n).rx = none := by
  rw [State.stopped, port_setPort s n _ hc]

theorem State.Over.setFrame_self {s : State} {f : Frame} (he : f.ended = true) (hv : f.verd ≠ 1) : (s.setFrame f).Over f.id := by
  intro g hg hid
  obtain ⟨x, hx, rfl⟩ := List.mem_map.1 hg
  by_cases hx : x.id = f.id
  · rw [if_pos hx]
    exact ⟨he, hv⟩
  · rw [if_neg hx] at hid
    exact absurd hid hx

theorem State.recEnd_idle {s : State} {n : Nat} (h : (s.port n).rx = none) : s.recEnd n = (s, none) := by
  unfold State.recEnd State.rxOf
  rw [h]
  rfl

/-- What the MAC counts of a frame of less than 64 bytes. -/
def State.runtNote (s : State) (n : Nat) (f : Frame) : State := if f.abort then (s.mibInc n 3).raise n 4 n else s.mibInc n 4

/-- The state that the end of a runt's reception leaves (12 R282). -/
def State.runtEnd (s : State) (n : Nat) (f : Frame) : State := (((s.stopped n).runtNote n f).setFrame { f with ended := true }).frameDrop f.id

section
variable {s : State} {n : Nat} {f : Frame} (hn : s.Numbered) (hf : f ∈ s.frames) (hrx : (s.port n).rx = some f.id)
include hn hf hrx

theorem State.recEnd_runt (h : f.wire.length < 64) : s.recEnd n = (s.runtEnd n f, none) := by
  unfold State.recEnd
  rw [State.rxOf_eq hn hf hrx]
  exact if_pos h

theorem State.recEnd_whole (h : 64 ≤ f.wire.length) (hsec : f.secDue = false) :
    s.recEnd n = (s.ended n f).frameEnd { f with ended := true } := by
  unfold State.recEnd
  rw [State.rxOf_eq hn hf hrx]
  dsimp only
  rw [if_neg (Nat.not_lt.2 h), if_neg (by rw [hsec]; decide), frame_frame_self s f hn hf]
  rfl

end

/-! ### A frame that has been dropped -/

/-- The state in which the MAC has counted a frame that has ended. -/
def State.macked (s : State) (f : Frame) : State := (s.macCount f).2.setFrame { f with verd := if (s.macCount f).1 then 0 else f.verd }

/-- The state in which the finding at a frame's end has been noted and its charge made. -/
def State.settled (s : State) (f : Frame) : State := (s.endCode f).2.endCharge ((s.endCode f).2.frame f.id)

theorem State.frameEnd_dropped {s : State} {f : Frame} (hb : f.hb = false) (hd : f.act.drop = true) (hv : f.verd = 0) :
    ∃ ok, s.frameEnd f = ((((s.macked f).settled f).sampleOf ok f).frameDrop f.id, none) := by
  refine ⟨!(s.macCount f).1, ?_⟩
  unfold State.frameEnd
  dsimp only
  rw [if_neg (by rw [hb]; decide), if_pos hd]
  cases hm : (s.macCount f).1 with
  | true => rw [if_pos rfl]; unfold State.macked State.settled; rw [hm]; rfl
  | false => rw [if_neg (by decide), if_pos hv]; unfold State.macked State.settled; rw [hm]; rfl

/-! ### Registers that the end of a frame leaves -/

/-- The status of the event source of port `n`. -/
def portEvt (n a : Nat) : Prop := a = EVT_SRC_STAT.a n

section
variable {n : Nat} (hn24 : n < 24)
include hn24

theorem portEvt_high {a : Nat} (h : 0x300000 ≤ a) : ¬portEvt n a := by
  unfold portEvt EVT_SRC_STAT.a
  omega

theorem portEvt_evt {k : Nat} (h : 24 ≤ k) : ¬portEvt n (EVT_SRC_STAT.a k) := by
  unfold portEvt EVT_SRC_STAT.a
  omega

section
variable {s0 s : State} (h : s0.Outside (portEvt n) s)
include h

theorem State.Outside.endCode (f : Frame) : s0.Outside (portEvt n) (s.endCode f).2 :=
  h.aside ((State.Aside.refl s).endCode f (portEvt_high hn24 (by unfold CLS_EXC_CNT.a; omega)) (portEvt_high hn24 (by unfold CLS_EXC_CNT.a; omega))
    (portEvt_evt hn24 (by omega)))

theorem State.Outside.settled (f : Frame) : s0.Outside (portEvt n) (s.settled f) := (h.endCode hn24 f).endCharge _

theorem State.Outside.sampleOf (ok : Bool) (f : Frame) : s0.Outside (portEvt n) (s.sampleOf ok f) :=
  h.aside ((State.Aside.refl s).sampleOf ok f fun d _ => portEvt_high hn24 (by unfold PHS_DISC.a; omega))

theorem State.Outside.sduNote (f : Frame) : s0.Outside (portEvt n) (s.sduNote f) :=
  h.aside ((State.Aside.refl s).sduNote f (portEvt_high hn24 (by unfold SHP_CNT.a; omega)) (portEvt_evt hn24 (by omega)))

end

theorem portEvt_pool : ¬portEvt n QM_POOL.a := portEvt_high hn24 (by decide)

theorem portEvt_peat : ¬portEvt n QM_PEAT_STAT.a := portEvt_high hn24 (by decide)

end

/-! ### A frame that ends with a bad FCS -/

/-- The frame has ended with no verdict due, no finding has reached it, and no stage has dropped it. -/
structure Frame.Spent (f : Frame) : Prop where
  ended : f.ended = true
  verd : f.verd = 0
  finding : f.finding = none
  kept : f.act.drop = false

/-- The frame with the number `id` is such a frame, and none of its copies has begun. -/
structure State.Spent (s : State) (id : Nat) : Prop where
  numbered : s.Numbered
  frame : (s.frame id).Spent
  idle : ∀ y ∈ s.copies, y.fid = id → y.st = 0

namespace State.Spent

variable {s t : State} {id : Nat}

theorem mem (h : s.Spent id) : s.frame id ∈ s.frames ∧ (s.frame id).id = id := copy_frame_ended s id h.frame.ended

theorem aside {K : Nat → Prop} (h : s.Spent id) (ha : s.Aside K t) : t.Spent id :=
  ⟨ha.numbered h.numbered, by rw [ha.frame]; exact h.frame, by rw [ha.copies]; exact h.idle⟩

theorem frame_set (h : s.Spent id) {g : Frame} (hid : g.id = id) : (s.setFrame g).frame id = g := by
  obtain ⟨hmem, hself⟩ := h.mem
  have hset := State.frame_setFrame s g (s.frame id) h.numbered hmem (hself.trans hid.symm)
  rwa [hid] at hset

theorem setFrame (h : s.Spent id) {g : Frame} (hid : g.id = id) (hg : g.Spent) : (s.setFrame g).Spent id :=
  ⟨State.setFrame_numbered s g h.numbered, by rw [h.frame_set hid]; exact hg, h.idle⟩

theorem endCharge (h : s.Spent id) : (s.endCharge (s.frame id)).Spent id := by
  unfold State.endCharge
  split
  · exact h
  · exact setFrame (h.aside ((State.Aside.refl (K := fun _ => False) s).meterCharge _ _ _)) h.mem.2 ⟨h.frame.ended, h.frame.verd, h.frame.finding, h.frame.kept⟩

theorem regrow (h : s.Spent id) : (s.regrow id).1.Spent id := by
  have hcells : ∀ (n : Nat) (l : List (Nat × Nat)) (g : Frame), g.id = id → g.Spent → ((State.takeCells n s l).2.setFrame g).poolNote.Spent id := fun n l g hid hg =>
    aside (setFrame (h.aside ((State.Aside.refl (K := fun _ => False) s).takeCells n l)) hid hg) ((State.Aside.refl (K := fun _ => False) _).poolNote fun x => x)
  unfold State.regrow
  dsimp only
  split
  · exact h
  · exact hcells _ _ _ h.mem.2 ⟨h.frame.ended, h.frame.verd, h.frame.finding, h.frame.kept⟩

theorem isOver (h : s.Spent id) : s.Over id := by
  intro g hg hid
  have hself : s.frame id = g := by
    rw [← hid]
    exact frame_frame_self s g h.numbered hg
  rw [← hself]
  exact ⟨h.frame.ended, by rw [h.frame.verd]; decide⟩

/-- R209: no copy has begun: the copies go. -/
theorem finding_drops (h : s.Spent id) (cause : Nat) : (s.finding id cause).2 = false ∧ (s.finding id cause).1.Over id := by
  have hbegun : (s.copiesOf id).any (fun c => c.mir.isNone && c.st != 0) = false := by
    rw [List.any_eq_false]
    intro c hc
    obtain ⟨hmem, hid⟩ := List.mem_filter.1 hc
    simp [h.idle c hmem (beq_iff_eq.1 hid)]
  have hmark : ∀ (u : State) (c : Copy), u.Over id → (u.markCopy false c).Over id := by
    intro u c hu
    unfold State.markCopy
    split_ifs
    · exact hu
    · exact hu.copyGone c
    · exact hu.copyGone c
    · exact hu
  have hset : (s.setFrame { s.frame id with finding := some cause, begun := (s.frame id).begun || false }).Over id :=
    h.isOver.setFrame _ fun _ => ⟨h.frame.ended, by rw [h.frame.verd]; decide⟩
  have hfold : ∀ (l : List Copy) (u : State), u.Over id → (l.foldl (fun u c => u.markCopy false c) u).Over id := by
    intro l
    induction l with
    | nil => exact fun _ hu => hu
    | cons c l ih => exact fun u hu => ih _ (hmark u c hu)
  unfold State.finding
  dsimp only
  rw [if_neg (by rw [h.frame.finding]; decide), hbegun]
  exact ⟨rfl, hfold _ _ hset⟩

end State.Spent

theorem State.Spent.any {s : State} {id : Nat} (h : s.Spent id) : s.frames.any (fun g => g.id == id) = true :=
  List.any_eq_true.2 ⟨s.frame id, h.mem.1, beq_iff_eq.2 h.mem.2⟩

/-- The acceptance of a frame is withdrawn, if it was accepted (15 R351). -/
def State.withdrawn (s : State) (id : Nat) : State :=
  if (s.frame id).accepted then (s.frWithdraw (s.frame id).act.stream (s.frame id).seqIn).setFrame { s.frame id with accepted := false } else s

theorem State.Spent.withdrawn {s : State} {id : Nat} (h : s.Spent id) : (s.withdrawn id).Spent id := by
  unfold State.withdrawn
  split
  · exact (h.aside ((State.Aside.refl (K := fun _ => False) s).frWithdraw _ _)).setFrame h.mem.2 ⟨h.frame.ended, h.frame.verd, h.frame.finding, h.frame.kept⟩
  · exact h

/-- The drop of a frame whose finding is a length contradiction or a short frame, counted (07 R153). -/
def State.codeDrop (s : State) (p code : Nat) : State := if code = 7 then s.clsDrop p 3 else if code = 8 then s.clsDrop p 4 else s

theorem State.badFrame_spent {s : State} {id : Nat} (h : s.Spent id) (cause code : Nat) :
    s.badFrame id cause code = (((s.withdrawn id).finding id cause).1.codeDrop (s.frame id).pipe code).frameDrop id := by
  have hno : ((s.withdrawn id).finding id cause).2 = false := (h.withdrawn.finding_drops cause).1
  unfold State.badFrame
  dsimp only
  rw [if_neg (by rw [h.any, h.frame.kept]; decide)]
  exact if_neg (by
    show ¬((s.withdrawn id).finding id cause).2 = true
    rw [hno]
    decide)

theorem State.Outside.withdrawn {K : Nat → Prop} {s0 s : State} (h : s0.Outside K s) (id : Nat) : s0.Outside K (s.withdrawn id) :=
  ite (setFrame (h.aside ((State.Aside.refl s).frWithdraw _ _)) _) h

section
variable {n : Nat} (hn24 : n < 24) {s0 s : State} (h : s0.Outside (portEvt n) s)
include hn24 h

theorem State.Outside.codeDrop (p code : Nat) : s0.Outside (portEvt n) (s.codeDrop p code) :=
  ite (h.aside ((State.Aside.refl s).clsDrop (portEvt_high hn24 (by unfold CLS_DROP_CNT.a; omega))))
    (ite (h.aside ((State.Aside.refl s).clsDrop (portEvt_high hn24 (by unfold CLS_DROP_CNT.a; omega)))) h)

theorem State.Outside.finding (id cause : Nat) : s0.Outside (portEvt n) (s.finding id cause).1 := by
  have hmark : ∀ (l : List Copy) (b : Bool) (g : Frame), s0.Outside (portEvt n) (l.foldl (fun u c => u.markCopy b c) (s.setFrame g)) := fun l b g =>
    foldl l (fun u c hu => hu.markCopy (portEvt_pool hn24) (portEvt_peat hn24) b c) (h.setFrame g)
  unfold State.finding
  dsimp only
  split
  · exact h
  · exact ite ((hmark _ _ _).aside ((State.Aside.refl _).bump _ (portEvt_high hn24 (by unfold QM_TAIL_CNT.a; omega)))) (hmark _ _ _)

end

/-- R209: a finding reaches a frame that has ended before any copy of it has begun. -/
theorem State.badFrame_facts {s : State} {id n : Nat} (h : s.Spent id) (hn24 : n < 24) (cause code : Nat) :
    (∀ y ∈ (s.badFrame id cause code).frames, y.id ≠ id) ∧ (∀ y ∈ (s.badFrame id cause code).copies, y.fid ≠ id) ∧ s.Outside (portEvt n) (s.badFrame id cause code) := by
  rw [State.badFrame_spent h]
  have hfound : s.Outside (portEvt n) ((s.withdrawn id).finding id cause).1 := ((State.Outside.refl s).withdrawn id).finding hn24 id cause
  have hnum : ((s.withdrawn id).finding id cause).1.Numbered := (State.finding_keeps (State.Keeps.refl _) id cause).numbered h.withdrawn.numbered
  have hover := (h.withdrawn.finding_drops cause).2
  generalize ((s.withdrawn id).finding id cause).1 = u at *
  have hdrop : u.Aside (fun _ => False) (u.codeDrop (s.frame id).pipe code) :=
    State.Aside.ite ((State.Aside.refl u).clsDrop fun x => x) (State.Aside.ite ((State.Aside.refl u).clsDrop fun x => x) (State.Aside.refl u))
  exact ⟨State.frameDrop_over (hdrop.numbered hnum) (hover.aside hdrop), State.frameDrop_noCopy _ _,
    (hfound.codeDrop hn24 _ _).frameDrop (portEvt_pool hn24) (portEvt_peat hn24) _⟩

/-- R238: the excess over max_sdu that a frame with another finding is found with at its end. -/
def State.sduMarked (s : State) (id got : Nat) (f : Frame) : State :=
  if s.sduOver id got then (s.sduNote f).setFrame { s.frame id with sduHit := true } else s

/-- R199: the cells settled, and the event of a frame that is cut short in Mere. -/
def State.regrown (s : State) (id : Nat) (f : Frame) : State :=
  if (s.regrow id).2 then (s.regrow id).1.raise (41 + f.pipe) 0x20 f.inPort else (s.regrow id).1

/-- What the end of a frame with a bad FCS leaves, before the finding reaches its copies. -/
def State.badEnd (s : State) (f : Frame) : State := ((((s.macked f).settled f).sduMarked f.id f.len f).regrown f.id f).sampleOf false f

theorem State.frameEnd_bad {s : State} {f : Frame} (hb : f.hb = false) (hd : f.act.drop = false) (hl : f.looked = true) (hm : (s.macCount f).1 = true) :
    s.frameEnd f = ((s.badEnd f).badFrame f.id 0 ((s.macked f).endCode f).1, none) := by
  have hw : (s.macCount f).2.setFrame { f with verd := 0 } = s.macked f := by
    unfold State.macked
    rw [hm]
    rfl
  unfold State.frameEnd
  dsimp only
  rw [if_neg (by rw [hb]; decide), if_neg (by rw [hd]; decide), if_pos hl, hm]
  simp only [↓reduceIte, Bool.not_true, Bool.false_eq_true, hw]
  rfl

section
variable {s : State} {id : Nat} (h : s.Spent id)
include h

theorem State.Spent.sduMarked (got : Nat) (f : Frame) : (s.sduMarked id got f).Spent id := by
  have hnote : s.Aside (fun _ => False) (s.sduNote f) := (State.Aside.refl s).sduNote f (fun x => x) fun x => x
  unfold State.sduMarked
  split
  · exact (h.aside hnote).setFrame h.mem.2 ⟨h.frame.ended, h.frame.verd, h.frame.finding, h.frame.kept⟩
  · exact h

theorem State.Spent.regrown (f : Frame) : (s.regrown id f).Spent id := by
  unfold State.regrown
  split
  · exact h.regrow.aside ((State.Aside.refl (K := fun _ => False) _).raise _ _ fun x => x)
  · exact h.regrow

theorem State.Spent.settled (f : Frame) (hid : f.id = id) : (s.settled f).Spent id := by
  have hcode : (s.endCode f).2.Spent id := h.aside ((State.Aside.refl (K := fun _ => False) s).endCode f (fun x => x) (fun x => x) fun x => x)
  unfold State.settled
  rw [hid]
  exact hcode.endCharge

end

end Sys2Proof.Machine
end

section
/-! SUPPORT. The end of a frame in each of its ways (09 R208, R209). -/

namespace Sys2Proof.Machine

section
variable {s : State} {f : Frame} {n : Nat}

/-! ### A bad FCS -/

theorem State.macCount_bad (ha : f.abort = false) (hfcs : f.fcsOk = false) : s.macCount f = (true, (s.mibInc f.port 2).raise f.port 3 f.port) := by
  unfold State.macCount
  dsimp only
  rw [if_neg (by rw [ha]; decide), if_pos (by rw [hfcs]; decide)]

theorem State.Outside.badEnd (hn24 : n < 24) {s0 : State} {f : Frame} (h : s0.Outside (portEvt n) (s.macked f)) : s0.Outside (portEvt n) (s.badEnd f) := by
  have hset : s0.Outside (portEvt n) ((s.macked f).settled f) := h.settled hn24 f
  have hsdu : s0.Outside (portEvt n) (((s.macked f).settled f).sduMarked f.id f.len f) := ite ((hset.sduNote hn24 f).setFrame _) hset
  have hgrown := hsdu.regrow f.id (portEvt_pool hn24)
  have hall : s0.Outside (portEvt n) ((((s.macked f).settled f).sduMarked f.id f.len f).regrown f.id f) :=
    ite (hgrown.aside ((State.Aside.refl _).raise _ _ (portEvt_evt hn24 (by omega)))) hgrown
  exact hall.sampleOf hn24 false f

theorem State.frameEnd_badFcs (hn : s.Numbered) (hn24 : n < 24) (hport : f.port = n) (hf : f ∈ s.frames) (he : f.ended = true) (hb : f.hb = false)
    (hd : f.act.drop = false) (ha : f.abort = false) (hfcs : f.fcsOk = false) (hl : f.looked = true) (hfind : f.finding = none)
    (hidle : ∀ y ∈ s.copies, y.fid = f.id → y.st = 0) :
    ∃ t : State, s.frameEnd f = (t, none) ∧ (∀ y ∈ t.frames, y.id ≠ f.id) ∧ (∀ y ∈ t.copies, y.fid ≠ f.id) ∧
      ((s.mibInc n 2).raise n 3 n).Outside (portEvt n) t ∧ t.Numbered := by
  have hmac := State.macCount_bad (s := s) ha hfcs
  rw [hport] at hmac
  have hmacked : s.macked f = ((s.mibInc n 2).raise n 3 n).setFrame { f with verd := 0 } := by
    unfold State.macked
    rw [hmac]
    rfl
  have hnote : (s.mibInc n 2).Aside (fun _ => False) ((s.mibInc n 2).raise n 3 n) := (State.Aside.refl _).raise _ _ fun x => x
  have hmem : f ∈ ((s.mibInc n 2).raise n 3 n).frames := by
    rw [hnote.frames]
    exact hf
  have hnum : ((s.mibInc n 2).raise n 3 n).Numbered := hnote.numbered hn
  have hspent : (s.macked f).Spent f.id := by
    rw [hmacked]
    refine ⟨State.setFrame_numbered _ _ hnum, ?_, ?_⟩
    · rw [State.frame_setFrame _ { f with verd := 0 } f hnum hmem rfl]
      exact ⟨he, rfl, hfind, hd⟩
    · show ∀ y ∈ ((s.mibInc n 2).raise n 3 n).copies, _
      rw [hnote.copies]
      exact hidle
  have hend : (s.badEnd f).Spent f.id :=
    (((hspent.settled f rfl).sduMarked f.len f).regrown f).aside ((State.Aside.refl (K := fun _ => False) _).sampleOf false f fun _ _ x => x)
  obtain ⟨hframes, hcopies, hout⟩ := State.badFrame_facts hend hn24 0 ((s.macked f).endCode f).1
  refine ⟨_, State.frameEnd_bad hb hd hl (by rw [hmac]), hframes, hcopies, State.Outside.trans ?_ hout, (State.badFrame_keeps (State.Keeps.refl _) _ _ _).numbered hend.numbered⟩
  refine State.Outside.badEnd hn24 ?_
  rw [hmacked]
  exact (State.Outside.refl _).setFrame _

/-! ### A frame that a stage has dropped -/

theorem State.frameEnd_dropped_facts (hn : s.Numbered) (he : f.ended = true) (hb : f.hb = false) (hd : f.act.drop = true) (hv : f.verd = 0) :
    ∃ t : State, s.frameEnd f = (t, none) ∧ (∀ y ∈ t.frames, y.id ≠ f.id) ∧ (∀ y ∈ t.copies, y.fid ≠ f.id) ∧ t.ports = s.ports ∧ t.Numbered := by
  obtain ⟨ok, heq⟩ := State.frameEnd_dropped (s := s) hb hd hv
  have hmac : (s.macCount f).2.ports = s.ports := by
    obtain ⟨_, _, _, _, _, hmac⟩ := frame_macCount_same s f
    rw [hmac]
  have hnum : (s.macked f).Numbered := State.setFrame_numbered _ _ ((State.macCount_keeps (State.Keeps.refl s) f).numbered hn)
  have hover : (s.macked f).Over f.id := by
    refine State.Over.setFrame_self he ?_
    dsimp only
    rw [hv, ite_self]
    decide
  have hcode : (s.macked f).Aside (fun _ => False) ((s.macked f).endCode f).2 := (State.Aside.refl _).endCode f (fun x => x) (fun x => x) fun x => x
  have hsample : ∀ u : State, u.Aside (fun _ => False) (u.sampleOf ok f) := fun u => (State.Aside.refl u).sampleOf ok f fun _ _ x => x
  have hsettled : (s.macked f).Outside (fun _ => False) ((s.macked f).settled f) := ((State.Outside.refl _).aside hcode).endCharge _
  have hnum2 : ((s.macked f).settled f).Numbered := (State.endCharge_keeps (State.Keeps.refl _) _).numbered (hcode.numbered hnum)
  have hnum3 := (hsample ((s.macked f).settled f)).numbered hnum2
  refine ⟨_, heq, State.frameDrop_over hnum3 (((hover.aside hcode).endCharge f.id).aside (hsample _)), State.frameDrop_noCopy _ _, ?_,
    (State.frameDrop_keeps (State.Keeps.refl _) _).numbered hnum3⟩
  rw [frame_frameDrop_ports, (hsettled.aside (hsample _)).ports]
  exact hmac

/-! ### A good frame -/

theorem State.macCount_good (ha : f.abort = false) (hfcs : f.fcsOk = true) :
    (s.macCount f).1 = false ∧ ∃ u : State, u = (s.mibInc f.port 0).mibAdd f.port 1 f.wire.length ∧
      ((s.macCount f).2 = u ∨ (s.macCount f).2 = u.mibInc f.port 8 ∨ (s.macCount f).2 = u.mibInc f.port 9) := by
  unfold State.macCount
  dsimp only
  rw [if_neg (by rw [ha]; decide), if_neg (by rw [hfcs]; decide)]
  refine ⟨rfl, _, rfl, ?_⟩
  dsimp only
  split_ifs
  · exact .inr (.inl rfl)
  · exact .inr (.inr rfl)
  · exact .inl rfl

theorem State.macCount_good_only (ha : f.abort = false) (hfcs : f.fcsOk = true) : (s.macCount f).2 = { s with mib := (s.macCount f).2.mib } := by
  obtain ⟨-, u, hu, h | h | h⟩ := State.macCount_good (s := s) ha hfcs <;> rw [h, hu] <;> rfl

theorem State.macCount_good_mib (hc : s.Canonical) (hport : f.port = n) (ha : f.abort = false) (hfcs : f.fcsOk = true) :
    Cells.get (fun _ => 0) (s.macCount f).2.mib (n * 32) = (Cells.get (fun _ => 0) s.mib (n * 32) + 1) % 2 ^ 64 ∧
    Cells.get (fun _ => 0) (s.macCount f).2.mib (n * 32 + 1) = (Cells.get (fun _ => 0) s.mib (n * 32 + 1) + f.wire.length) % 2 ^ 64 := by
  subst hport
  obtain ⟨-, u, hu, hmac⟩ := State.macCount_good (s := s) ha hfcs
  have hc0 : (s.mibInc f.port 0).Canonical := (State.mibInc_keeps (State.Keeps.refl s) _ _).canon hc
  have hcu : u.Canonical := by
    rw [hu]
    exact (State.mibAdd_keeps (State.Keeps.refl _) _ _ _).canon hc0
  have hlow : ∀ j, j < 2 → Cells.get (fun _ => 0) (s.macCount f).2.mib (f.port * 32 + j) = Cells.get (fun _ => 0) u.mib (f.port * 32 + j) := by
    intro j hj
    obtain h | h | h := hmac <;> rw [h]
    · exact (State.mib_mibAdd hcu f.port 8 1 _).trans (if_neg (by omega))
    · exact (State.mib_mibAdd hcu f.port 9 1 _).trans (if_neg (by omega))
  refine ⟨(hlow 0 (by decide)).trans ?_, (hlow 1 (by decide)).trans ?_⟩
  · rw [hu]
    exact (State.mib_mibAdd hc0 f.port 1 _ _).trans ((if_neg (by omega)).trans ((State.mib_mibAdd hc f.port 0 1 _).trans (if_pos rfl)))
  · rw [hu]
    refine (State.mib_mibAdd hc0 f.port 1 _ _).trans ((if_pos rfl).trans ?_)
    exact congrArg (fun v => (v + f.wire.length) % 2 ^ 64) ((State.mib_mibAdd hc f.port 0 1 _).trans (if_neg (by omega)))

theorem State.fromReserves_zero (s : State) (ports : List Nat) : s.fromReserves 0 ports = (0, []) := by
  unfold State.fromReserves
  induction ports with
  | nil => rfl
  | cons q ports ih =>
    rw [List.foldl_cons]
    dsimp only
    rw [Nat.zero_min, if_pos rfl]
    exact ih

/-- R199: a frame that has no more cells than it was given is not cut short. -/
theorem State.regrow_enough {id : Nat} (hn : s.Numbered) (hf : f ∈ s.frames) (hid : f.id = id) (h : cellsOf f.len ≤ f.cells) :
    (s.regrow id).2 = false ∧ (s.regrow id).1.copies = s.copies ∧
    ((s.copiesOf id).isEmpty = false → ((s.regrow id).1.frame id).ended = f.ended ∧ ((s.regrow id).1.frame id).cells = cellsOf f.len) := by
  have hself : s.frame id = f := by
    rw [← hid]
    exact frame_frame_self s f hn hf
  have hmore : cellsOf f.len - f.cells = 0 := Nat.sub_eq_zero_of_le h
  unfold State.regrow
  rw [hself]
  dsimp only
  rw [hmore, Nat.zero_min, Nat.sub_zero, State.fromReserves_zero]
  by_cases hempty : (s.copiesOf id).isEmpty = true
  · rw [if_pos hempty]
    exact ⟨rfl, rfl, fun hne => absurd (hempty.symm.trans hne) (by decide)⟩
  · rw [if_neg hempty]
    have hcells := fun n l => (State.Aside.refl (K := fun _ => False) s).takeCells n l
    have hset : ∀ (n : Nat) (l : List (Nat × Nat)) (g : Frame), g.id = id → ((State.takeCells n s l).2.setFrame g).poolNote.copies = s.copies ∧
        ((State.takeCells n s l).2.setFrame g).poolNote.frame id = g := by
      intro n l g hg
      have hpool := (State.Aside.refl (K := fun _ => False) ((State.takeCells n s l).2.setFrame g)).poolNote fun x => x
      refine ⟨hpool.copies.trans (hcells n l).copies, (hpool.frame id).trans ?_⟩
      rw [← hg]
      exact State.frame_setFrame _ g f ((hcells n l).numbered hn) (by rw [(hcells n l).frames]; exact hf) (hid.trans hg.symm)
    refine ⟨rfl, (hset _ _ _ ?_).1, fun _ => ?_⟩
    · exact hid
    · rw [(hset _ _ _ ?_).2]
      · exact ⟨rfl, rfl⟩
      · exact hid

theorem State.endCode_none (h : ∀ r, f.head = some r → endFinding r f.len = 0) : s.endCode f = (0, s) := by
  unfold State.endCode
  split
  · rfl
  next r hr =>
    dsimp only
    rw [h r hr, if_neg (by decide), if_neg (by decide)]

theorem State.endCharge_none (h : f.meter = none) : s.endCharge f = s := by
  unfold State.endCharge
  split
  · rfl
  next hm => rw [h] at hm; cases hm

theorem State.sduFind_within {id : Nat} (h : (s.frame id).sduHit = true ∨ (s.frame id).act.maxSdu = 0 ∨ (s.frame id).len ≤ (s.frame id).act.maxSdu) :
    s.sduFind id (s.frame id).len = s := by
  refine if_neg ?_
  unfold State.sduOver
  obtain h | h | h := h
  · simp [h]
  · simp [h]
  · simp [Nat.not_lt.2 h]

/-- A good frame's end: its cells, its sample, and its copies eligible (09 R199, R208). -/
theorem State.frameEnd_good (hn : s.Numbered) (hf : f ∈ s.frames) (hb : f.hb = false) (hd : f.act.drop = false) (ha : f.abort = false) (hfcs : f.fcsOk = true)
    (hl : f.looked = true) (hv : f.verd = 0) (hmeter : f.meter = none) (hend : ∀ r, f.head = some r → endFinding r f.len = 0)
    (hsdu : f.sduHit = true ∨ f.act.maxSdu = 0 ∨ f.len ≤ f.act.maxSdu) (hcells : cellsOf f.len ≤ f.cells) :
    s.frameEnd f = ((((((s.macCount f).2.setFrame f).regrow f.id).1.sampleOf true f).wholeElig f.id).reap f.id, none) := by
  obtain ⟨hm, -⟩ := State.macCount_good (s := s) ha hfcs
  have hnote := State.macCount_good_only (s := s) ha hfcs
  have hw : (s.macCount f).2.setFrame { f with verd := if (s.macCount f).1 then 0 else f.verd } = (s.macCount f).2.setFrame f := by
    rw [hm]
    rfl
  have hnum : (s.macCount f).2.Numbered := (State.macCount_keeps (State.Keeps.refl s) f).numbered hn
  have hmem : f ∈ (s.macCount f).2.frames := by
    rw [hnote]
    exact hf
  have hself : ((s.macCount f).2.setFrame f).frame f.id = f := State.frame_setFrame _ f f hnum hmem rfl
  have hlen := State.sduFind_within (s := (s.macCount f).2.setFrame f) (id := f.id) (by rw [hself]; exact hsdu)
  rw [hself] at hlen
  have hgrow := (State.regrow_enough (State.setFrame_numbered _ f hnum) (frame_setFrame_mem _ f f hmem rfl) rfl hcells).1
  unfold State.frameEnd
  dsimp only
  rw [if_neg (by rw [hb]; decide), if_neg (by rw [hd]; decide), if_pos hl, hw, State.endCode_none hend]
  simp only [hself, State.endCharge_none hmeter, hm, Bool.not_false, ↓reduceIte, hlen, hgrow, Bool.false_eq_true]
  simp [hv]

/-! ### Copies made eligible -/

/-- The copies of `l` made eligible one after the other. -/
theorem State.foldl_elig (l : List Copy) : ∀ u : State, (∀ c ∈ l, ∀ g ∈ u.copies, g.id = c.id → ({ g with elig := true } : Copy) = { c with elig := true }) →
    (l.foldl (fun u c => u.setCopy { c with elig := true }) u).copies =
      u.copies.map (fun g => if ∃ c ∈ l, c.id = g.id then { g with elig := true } else g) := by
  induction l with
  | nil => exact fun u _ => by simp
  | cons c l ih =>
    intro u h
    have hset : (u.setCopy { c with elig := true }).copies = u.copies.map (fun g => if g.id = c.id then { g with elig := true } else g) := by
      refine List.map_congr_left fun g hg => ?_
      split
      next he => exact (h c List.mem_cons_self g hg he).symm
      · rfl
    rw [List.foldl_cons, ih _ ?_, hset, List.map_map]
    · refine List.map_congr_left fun g _ => ?_
      rw [Function.comp_apply]
      by_cases hg : g.id = c.id
      · rw [if_pos hg]
        exact (ite_self _).trans (if_pos ⟨c, List.mem_cons_self, hg.symm⟩).symm
      · rw [if_neg hg]
        refine if_congr ⟨fun ⟨d, hd, e⟩ => ⟨d, List.mem_cons_of_mem _ hd, e⟩, fun ⟨d, hd, e⟩ => ?_⟩ rfl rfl
        obtain rfl | hd := List.mem_cons.1 hd
        · exact absurd e.symm hg
        · exact ⟨d, hd, e⟩
    · intro d hd g hg he
      rw [hset] at hg
      obtain ⟨x, hx, rfl⟩ := List.mem_map.1 hg
      split at he
      next hxc =>
        rw [if_pos hxc]
        exact h d (List.mem_cons_of_mem _ hd) x hx he
      next hxc =>
        rw [if_neg hxc]
        exact h d (List.mem_cons_of_mem _ hd) x hx he

theorem State.wholeElig_copies {s : State} (hn : s.Numbered) (id : Nat) :
    (s.wholeElig id).copies = s.copies.map (fun g => if g.fid = id then { g with elig := true } else g) := by
  refine (State.foldl_elig (s.copiesOf id) s fun c hc g hg he => ?_).trans (List.map_congr_left fun g hg => if_congr ⟨fun ⟨c, hc, e⟩ => ?_, fun hid => ?_⟩ rfl rfl)
  · rw [copy_unique hn.2.2.2 (List.mem_filter.1 hc).1 hg he]
  · obtain ⟨hmem, hid⟩ := List.mem_filter.1 hc
    rw [copy_unique hn.2.2.2 hmem hg e.symm]
    exact beq_iff_eq.1 hid
  · exact ⟨g, List.mem_filter.2 ⟨hg, beq_iff_eq.2 hid⟩, rfl⟩

theorem State.frame_wholeElig (s : State) (id k : Nat) : (s.wholeElig id).frame k = s.frame k := by
  have hframes : ∀ (l : List Copy) (u : State), (l.foldl (fun u c => u.setCopy { c with elig := true }) u).frames = u.frames := by
    intro l
    induction l with
    | nil => exact fun _ => rfl
    | cons c l ih => exact fun u => ih _
  unfold State.frame State.wholeElig
  rw [hframes]

/-- A copy of the frame is eligible, and what fair queueing adds does not change that. -/
theorem State.Fair.elig {u t : State} (h : u.Fair t) {id : Nat} (hu : ∀ x ∈ u.copies, x.fid = id → x.elig = true) : ∀ y ∈ t.copies, y.fid = id → y.elig = true := by
  intro y hy hid
  have hm : ({ y with vf := none } : Copy) ∈ t.copies.map (fun c => { c with vf := none }) := List.mem_map.2 ⟨y, hy, rfl⟩
  rw [h.2] at hm
  obtain ⟨x, hx, hxy⟩ := List.mem_map.1 hm
  obtain ⟨hfid, helig⟩ := Prod.mk.inj (congrArg (fun c : Copy => (c.fid, c.elig)) hxy)
  rw [← helig]
  exact hu x hx (hfid.trans hid)

theorem State.Fair.bare {u t : State} (h : u.Fair t) : t.copies.map (fun c => { c with elig := true, vf := none }) = u.copies.map (fun c => { c with elig := true, vf := none }) := by
  have := congrArg (List.map (fun c : Copy => { c with elig := true })) h.2
  rwa [List.map_map, List.map_map] at this

/-- R208: what the end of a good frame leaves. -/
theorem State.frameEnd_good_facts (hn : s.Numbered) (hf : f ∈ s.frames) (hended : f.ended = true) (hb : f.hb = false) (hd : f.act.drop = false)
    (ha : f.abort = false) (hfcs : f.fcsOk = true) (hl : f.looked = true) (hv : f.verd = 0) (hmeter : f.meter = none)
    (hend : ∀ r, f.head = some r → endFinding r f.len = 0) (hsdu : f.sduHit = true ∨ f.act.maxSdu = 0 ∨ f.len ≤ f.act.maxSdu) (hcells : cellsOf f.len ≤ f.cells) :
    ∃ t : State, s.frameEnd f = (t, none) ∧ t.ports = s.ports ∧ t.copies = s.copies.map (fun g => if g.fid = f.id then { g with elig := true } else g) ∧
      ((∃ y ∈ s.copies, y.fid = f.id) → (t.frame f.id).ended = true ∧ (t.frame f.id).cells = cellsOf f.len) ∧ t.mib = (s.macCount f).2.mib ∧ t.Numbered := by
  have hnote := State.macCount_good_only (s := s) ha hfcs
  have hkeep := State.macCount_keeps (State.Keeps.refl s) f
  generalize hm : (s.macCount f).2 = m at *
  have hmem : f ∈ m.frames := by
    rw [hnote]
    exact hf
  have hcopies : m.copies = s.copies := by rw [hnote]
  have hnw : (m.setFrame f).Numbered := State.setFrame_numbered m f (hkeep.numbered hn)
  obtain ⟨-, hgcopies, hgframe⟩ := State.regrow_enough hnw (frame_setFrame_mem m f f hmem rfl) rfl hcells
  have hgout := State.Outside.regrow (K := fun _ => False) ((State.Outside.refl m).setFrame f) f.id fun x => x
  have hgnum : ((m.setFrame f).regrow f.id).1.Numbered := (State.regrow_keeps (State.Keeps.refl _) f.id).numbered hnw
  have hsample := (State.Aside.refl (K := fun _ => False) ((m.setFrame f).regrow f.id).1).sampleOf true f fun _ _ x => x
  have hz := State.frameEnd_good hn hf hb hd ha hfcs hl hv hmeter hend hsdu hcells
  rw [hm] at hz
  generalize ((m.setFrame f).regrow f.id).1.sampleOf true f = z at *
  have hznum : z.Numbered := hsample.numbered hgnum
  have hzc : z.copies = s.copies := (hsample.copies.trans hgcopies).trans hcopies
  have hwc := State.wholeElig_copies hznum f.id
  rw [hzc] at hwc
  have hout := (((hgout.aside hsample).wholeElig f.id).reap (fun x => x) (fun x => x) f.id)
  refine ⟨_, hz, hout.ports.trans (by rw [hnote]), ?_, fun ⟨y, hy, hid⟩ => ?_, hout.mib,
    (State.reap_keeps (State.wholeElig_keeps (State.Keeps.refl z) f.id) f.id).numbered hznum⟩
  · rw [State.reap_same]
    exact hwc
  · have hyin : ({ y with elig := true } : Copy) ∈ (z.wholeElig f.id).copiesOf f.id := by
      refine List.mem_filter.2 ⟨?_, beq_iff_eq.2 hid⟩
      rw [hwc]
      exact List.mem_map.2 ⟨y, hy, if_pos hid⟩
    have hreap : (z.wholeElig f.id).reap f.id = z.wholeElig f.id := by
      refine if_neg ?_
      rw [List.isEmpty_eq_false_iff_exists_mem.2 ⟨_, hyin⟩]
      simp
    have hne : ((m.setFrame f).copiesOf f.id).isEmpty = false :=
      List.isEmpty_eq_false_iff_exists_mem.2 ⟨y, List.mem_filter.2 ⟨by rw [← hcopies] at hy; exact hy, beq_iff_eq.2 hid⟩⟩
    obtain ⟨he, hcl⟩ := hgframe hne
    rw [hreap, State.frame_wholeElig, hsample.frame]
    exact ⟨he.trans hended, hcl⟩

end

end Sys2Proof.Machine
end

section
/-! SUPPORT. Reception together (07 R147, R153, 09 R208, R209, 12 R282, R287, R290). -/

namespace Sys2Proof.Machine

/-! ### What has been found to arrive -/

section
variable {s : State} {n : Fin 24} {wire w : List Byte} {rest : List (List Byte)} {abort looped : Bool} {ph : Fin 16}

theorem State.handed_out (hlp : looped = false) (h3 : (s.port n.val).lpbk = 3) : Output.frame n.val w ∈ (s.handed n.val looped w rest).out := by
  unfold State.handed
  rw [hlp, if_neg (by decide), if_pos h3]
  exact List.mem_cons_self

/-- R147, R290: a frame of a port's link or of its loopback enters with its parse. -/
theorem exec_frameHead_takes (hc : s.Canonical) (hnum : s.Numbered) (hp : s.powered = true)
    (hw : (looped = false ∧ (s.port n.val).lpbk ≠ 1 ∧ (s.port n.val).lpbk ≠ 2 ∧ w = wire ∧ rest = (s.port n.val).loop) ∨
      (looped = true ∧ ((s.port n.val).lpbk = 1 ∨ (s.port n.val).lpbk = 2) ∧ (s.port n.val).loop = w :: rest))
    (hon : s.portOn n.val = true) (hmode : s.portMode n.val ≠ 0) (hprbs : (s.port n.val).prbs = 0) (hrx : (s.port n.val).rx = none)
    (hhalf : s.portMode n.val = 8 → looped = false → s.sending n.val = none) (hctrl : be16 w 12 ≠ 0x8808)
    (hsec : s.on (CIP_PORT_CFG.a n.val) CIP_PORT_CFG.macsec_en = false) (hlen : 64 ≤ w.length) :
    ∃ t : State, exec (.frameHead n wire abort looped ph) s = .next t ∧
      t.port n.val = { s.port n.val with rx := some s.nextId, toBusy := s.portMode n.val == 8, loop := rest } ∧
      ((s.port n.val).lpbk = 3 → Output.frame n.val w ∈ t.out) ∧ t.frame s.nextId = s.parsedFrame n.val w abort ph.val ∧
      (∀ id, id ≠ s.nextId → t.frame id = s.frame id) ∧ (∀ k, k ≠ n.val → t.port k = s.port k) ∧
      t = { s with nextId := s.nextId + 1, frames := t.frames, ports := t.ports, tim := t.tim, regs := t.regs, evt := t.evt, out := t.out,
                   pcie := { s.pcie with pba := t.pcie.pba } } := by
  have hrest : looped = false → rest = (s.port n.val).loop := by
    obtain ⟨-, -, -, -, hr⟩ | ⟨hl, -⟩ := hw
    · exact fun _ => hr
    · exact fun hl' => absurd (hl.symm.trans hl') (by decide)
  have hnot3 : (s.port n.val).lpbk = 3 → looped = false := by
    obtain ⟨hl, -⟩ | ⟨-, hlb, -⟩ := hw
    · exact fun _ => hl
    · intro h3
      omega
  have honly := State.handed_only (s := s) (n := n.val) (looped := looped) (w := w) (rest := rest)
  have hport := State.port_handed (w := w) (n := n.val) hc hrest
  have hc0 : (s.handed n.val looped w rest).Canonical := by
    unfold State.handed
    split
    · exact (State.setPort_keeps (State.Keeps.refl s) _ _).canon hc
    · split
      · exact (State.emit_keeps (State.Keeps.refl s) _).canon hc
      · exact hc
  have hn0 : (s.handed n.val looped w rest).Numbered := by
    rw [honly]
    exact hnum
  have hsec0 : (s.handed n.val looped w rest).on (CIP_PORT_CFG.a n.val) CIP_PORT_CFG.macsec_en = false := by
    rw [honly]
    exact hsec
  have hmode0 : (s.handed n.val looped w rest).portMode n.val = s.portMode n.val := by
    rw [honly]
    rfl
  have hnext : (s.handed n.val looped w rest).nextId = s.nextId := by rw [honly]
  have hframe0 : ∀ id, (s.handed n.val looped w rest).frame id = s.frame id := fun id => by
    rw [honly]
    rfl
  obtain ⟨h1, h2, h3, h4, h5⟩ := State.takeHead_facts (n := n.val) (abort := abort) (ph := ph.val) hc0 hn0 hsec0 hlen
  have hout := (State.takeHead_keeps (State.Keeps.refl (s.handed n.val looped w rest)) n.val w abort ph.val).out
  rw [hport, hmode0, hnext] at h1
  rw [hnext, State.parsedFrame_handed] at h2
  refine ⟨_, (exec_frameHead hp n wire abort looped ph).trans (congrArg _ (State.frameHead_takes hw hon hmode hprbs hrx hhalf hctrl)), h1,
    fun hl3 => hout.subset (State.handed_out (hnot3 hl3) hl3), h2, fun id hid => (h3 id (by rw [hnext]; exact hid)).trans (hframe0 id),
    fun k hk => (h4 k hk).trans (State.port_handed_ne hk), ?_⟩
  rw [h5, honly]

end

/-! ### What fair queueing leaves -/

section
variable {u t : State} (h : u.Fair t)
include h

theorem State.Fair.port (n : Nat) : t.port n = u.port n := by
  rw [h.1]
  rfl

theorem State.Fair.mib : t.mib = u.mib := by rw [h.1]

theorem State.Fair.noFrame {id : Nat} (hu : ∀ y ∈ u.frames, y.id ≠ id) : ∀ y ∈ t.frames, y.id ≠ id := by
  rw [h.1]
  exact hu

end

section
variable {l : List Copy} {t : State} {id : Nat} (h : t.copies = l.map (fun g => if g.fid = id then { g with elig := true } else g))
include h

theorem State.elig_of_map : ∀ y ∈ t.copies, y.fid = id → y.elig = true := by
  intro y hy hid
  rw [h] at hy
  obtain ⟨x, -, rfl⟩ := List.mem_map.1 hy
  split
  · rfl
  next hne => exact absurd ((congrArg Copy.fid (if_neg hne)).symm.trans hid) hne

theorem State.bare_of_map : t.copies.map (fun c => { c with elig := true, vf := none }) = l.map (fun c => { c with elig := true, vf := none }) := by
  rw [h, List.map_map]
  refine List.map_congr_left fun c _ => ?_
  rw [Function.comp_apply]
  split <;> rfl

end

/-! ### The state in which a frame has ended -/

section
variable {s : State} {n : Nat} {f : Frame} (hc : s.Canonical) (hn : s.Numbered) (hf : f ∈ s.frames)

include hf in
theorem State.ended_mem : ({ f with ended := true } : Frame) ∈ (s.ended n f).frames := frame_setFrame_mem (s.stopped n) { f with ended := true } f hf rfl

include hn in
theorem State.ended_numbered : (s.ended n f).Numbered := State.setFrame_numbered (s.stopped n) _ hn

include hc in
theorem State.ended_canonical : (s.ended n f).Canonical := (State.setFrame_keeps (State.setPort_keeps (State.Keeps.refl s) _ _) _).canon hc

include hc in
theorem State.ended_rx {t : State} (h : t.ports = (s.ended n f).ports) : (t.port n).rx = none := by
  have hport : t.port n = (s.stopped n).port n := by
    unfold State.port
    rw [h]
    rfl
  rw [hport]
  exact s.stopped_rx hc n

end

/-! ### A frame that is too short -/

section
variable {s : State} {n : Nat} {f : Frame}

theorem State.runtNote_aside (s : State) (n : Nat) (f : Frame) : (s.mibInc n (if f.abort then 3 else 4)).Aside (fun _ => False) (s.runtNote n f) := by
  unfold State.runtNote
  cases f.abort with
  | false => exact State.Aside.refl _
  | true => exact (State.Aside.refl _).raise _ _ fun x => x

theorem State.runtEnd_outside (s : State) (n : Nat) (f : Frame) :
    ((s.stopped n).mibInc n (if f.abort then 3 else 4)).Outside (fun _ => False) (s.runtEnd n f) :=
  State.Outside.frameDrop (State.Outside.setFrame (State.Outside.aside (State.Outside.refl _) (State.runtNote_aside (s.stopped n) n f)) _) (fun x => x) (fun x => x) _

theorem State.runtEnd_rx (hc : s.Canonical) : ((s.runtEnd n f).port n).rx = none := by
  rw [(s.runtEnd_outside n f).port]
  exact s.stopped_rx hc n

theorem State.runtEnd_mib (hc : s.Canonical) : Cells.get (fun _ => 0) (s.runtEnd n f).mib (n * 32 + if f.abort then 3 else 4) =
    (Cells.get (fun _ => 0) s.mib (n * 32 + if f.abort then 3 else 4) + 1) % 2 ^ 64 := by
  rw [(s.runtEnd_outside n f).mib]
  exact (State.mib_mibAdd ((State.setPort_keeps (State.Keeps.refl s) n _).canon hc) n _ 1 _).trans (if_pos rfl)

/-- R282: a runt leaves the device. -/
theorem State.runtEnd_gone (hn : s.Numbered) (hv : f.verd ≠ 1) :
    (∀ y ∈ (s.runtEnd n f).frames, y.id ≠ f.id) ∧ (∀ y ∈ (s.runtEnd n f).copies, y.fid ≠ f.id) ∧ (s.runtEnd n f).Numbered := by
  have hnote : ((s.stopped n).runtNote n f).Numbered := (State.runtNote_aside (s.stopped n) n f).numbered hn
  have hset := State.setFrame_numbered _ { f with ended := true } hnote
  have hover : (((s.stopped n).runtNote n f).setFrame { f with ended := true }).Over f.id := State.Over.setFrame_self (f := { f with ended := true }) rfl hv
  exact ⟨State.frameDrop_over hset hover, State.frameDrop_noCopy _ _, (State.frameDrop_keeps (State.Keeps.refl _) _).numbered hset⟩

end

/-! ### The end of reception, after the end charges of its edge -/

section
variable {s u : State} {n : Fin 24} {ends : List (Fin 24)} {f : Frame} (hp : s.powered = true) (hu : s.endCharges (ends.map (·.val)) = u)
  (hc : u.Canonical) (hn : u.Numbered) (hf : f ∈ u.frames) (hrx : (u.port n.val).rx = some f.id)
include hp hu hc hn hf hrx

/-- R282: a runt. -/
theorem exec_receptionEnd_runt (hlen : f.wire.length < 64) (hv : f.verd ≠ 1) : ∃ t : State, exec (.receptionEnd n ends) s = .next t ∧ (t.port n.val).rx = none ∧
    (∀ y ∈ t.frames, y.id ≠ f.id) ∧ (∀ y ∈ t.copies, y.fid ≠ f.id) ∧
    Cells.get (fun _ => 0) t.mib (n.val * 32 + if f.abort then 3 else 4) = (Cells.get (fun _ => 0) u.mib (n.val * 32 + if f.abort then 3 else 4) + 1) % 2 ^ 64 := by
  subst hu
  obtain ⟨hframes, hcopies, hnt⟩ := State.runtEnd_gone (n := n.val) hn hv
  have hfair := State.wfqAll_fair _ hnt
  refine ⟨_, exec_receptionEnd hp (State.recEnd_runt hn hf hrx hlen), ?_, hfair.noFrame hframes, hfair.noCopy hcopies, ?_⟩
  · rw [hfair.port]
    exact State.runtEnd_rx hc
  · rw [hfair.mib, State.runtEnd_mib hc]

section
variable (hlen : 64 ≤ f.wire.length) (hsec : f.secDue = false) (hb : f.hb = false)
include hlen hsec hb

/-- R208: a frame that a stage has dropped. -/
theorem exec_receptionEnd_dropped (hd : f.act.drop = true) (hv : f.verd = 0) : ∃ t : State, exec (.receptionEnd n ends) s = .next t ∧ (t.port n.val).rx = none ∧
    (∀ y ∈ t.frames, y.id ≠ f.id) ∧ (∀ y ∈ t.copies, y.fid ≠ f.id) := by
  subst hu
  obtain ⟨t, heq, hframes, hcopies, hports, hnt⟩ :=
    State.frameEnd_dropped_facts (f := { f with ended := true }) (State.ended_numbered (n := n.val) hn) rfl hb hd hv
  have hfair := State.wfqAll_fair t hnt
  refine ⟨_, exec_receptionEnd hp ((State.recEnd_whole hn hf hrx hlen hsec).trans heq), ?_, hfair.noFrame hframes, hfair.noCopy hcopies⟩
  rw [hfair.port]
  exact State.ended_rx hc hports

section
variable (hport : f.port = n.val) (hd : f.act.drop = false) (ha : f.abort = false) (hl : f.looked = true)
include hport hd ha hl

/-- R208: a good frame. -/
theorem exec_receptionEnd_good (hfcs : f.fcsOk = true) (hv : f.verd = 0) (hmeter : f.meter = none) (hend : ∀ r, f.head = some r → endFinding r f.len = 0)
    (hsdu : f.sduHit = true ∨ f.act.maxSdu = 0 ∨ f.len ≤ f.act.maxSdu) (hcells : cellsOf f.len ≤ f.cells) :
    ∃ t : State, exec (.receptionEnd n ends) s = .next t ∧ (t.port n.val).rx = none ∧ (∀ y ∈ t.copies, y.fid = f.id → y.elig = true) ∧
      t.copies.map (fun y => { y with elig := true, vf := none }) = u.copies.map (fun y => { y with elig := true, vf := none }) ∧
      ((∃ y ∈ u.copies, y.fid = f.id) → (t.frame f.id).ended = true ∧ (t.frame f.id).cells = cellsOf f.len) ∧
      Cells.get (fun _ => 0) t.mib (n.val * 32) = (Cells.get (fun _ => 0) u.mib (n.val * 32) + 1) % 2 ^ 64 ∧
      Cells.get (fun _ => 0) t.mib (n.val * 32 + 1) = (Cells.get (fun _ => 0) u.mib (n.val * 32 + 1) + f.wire.length) % 2 ^ 64 := by
  subst hu
  obtain ⟨t, heq, hports, hcopies, hkept, hmib, hnt⟩ :=
    State.frameEnd_good_facts (f := { f with ended := true }) (State.ended_numbered (n := n.val) hn) (State.ended_mem hf) rfl hb hd ha hfcs hl hv hmeter hend hsdu hcells
  have hfair := State.wfqAll_fair t hnt
  obtain ⟨hgood, hbytes⟩ := State.macCount_good_mib (f := { f with ended := true }) (State.ended_canonical (n := n.val) (f := f) hc) hport ha hfcs
  refine ⟨_, exec_receptionEnd hp ((State.recEnd_whole hn hf hrx hlen hsec).trans heq), ?_, hfair.elig (State.elig_of_map hcopies),
    hfair.bare.trans (State.bare_of_map hcopies), ?_, ?_, ?_⟩
  · rw [hfair.port]
    exact State.ended_rx hc hports
  · rw [hfair.frame]
    exact hkept
  · rw [hfair.mib, hmib]
    exact hgood
  · rw [hfair.mib, hmib]
    exact hbytes

/-- R209: a bad FCS. -/
theorem exec_receptionEnd_badFcs (hfcs : f.fcsOk = false) (hfind : f.finding = none) (hidle : ∀ y ∈ u.copies, y.fid = f.id → y.st = 0) :
    ∃ t : State, exec (.receptionEnd n ends) s = .next t ∧ (t.port n.val).rx = none ∧ (∀ y ∈ t.frames, y.id ≠ f.id) ∧ (∀ y ∈ t.copies, y.fid ≠ f.id) ∧
      fldGet (t.reg (EVT_SRC_STAT.a n.val)) EVT_SRC_STAT.pend = 1 ∧
      Cells.get (fun _ => 0) t.mib (n.val * 32 + 2) = (Cells.get (fun _ => 0) u.mib (n.val * 32 + 2) + 1) % 2 ^ 64 := by
  subst hu
  obtain ⟨t, heq, hframes, hcopies, hout, hnt⟩ :=
    State.frameEnd_badFcs (f := { f with ended := true }) (State.ended_numbered (n := n.val) hn) n.isLt hport (State.ended_mem hf) rfl hb hd ha hfcs hl hfind hidle
  have hfair := State.wfqAll_fair t hnt
  have hcanon := State.ended_canonical (n := n.val) (f := f) hc
  refine ⟨_, exec_receptionEnd hp ((State.recEnd_whole hn hf hrx hlen hsec).trans heq), ?_, hfair.noFrame hframes, hfair.noCopy hcopies, ?_, ?_⟩
  · rw [hfair.port]
    exact State.ended_rx (f := f) hc (hout.ports.trans (State.raise_ports ..))
  · rw [hfair.reg, hout.regs _ rfl]
    exact pend_raise _ _ _ _ ((State.mibInc_keeps (State.Keeps.refl _) _ _).canon hcanon)
  · rw [hfair.mib, hout.mib, State.raise_mib]
    exact (State.mib_mibAdd hcanon n.val 2 1 _).trans (if_pos rfl)

end

end

end

/-- Settles O30: the head of a frame by what the port hands over, its end by the way it takes through the end of reception. -/
theorem receptionEntersAndEndsFrames : Obligations.ReceptionEntersAndEndsFrames := by
  unfold Obligations.ReceptionEntersAndEndsFrames
  intro s n hc hn hp x
  refine ⟨fun wire abort looped ph => ⟨fun hoff => ?_, fun hon hdeaf => ?_, fun w rest hw hon hmode hprbs hrx hhalf hctrl hsec hlen => ?_⟩,
    fun ends => ?_⟩
  · exact ⟨_, (exec_frameHead hp n wire abort looped ph).trans (congrArg _ (State.frameHead_off hoff)), rfl, fun k => State.mib_mibAdd hc n.val 7 1 k⟩
  · exact (exec_frameHead hp n wire abort looped ph).trans (congrArg _ (State.frameHead_deaf hon hdeaf))
  · exact exec_frameHead_takes hc hn hp hw hon hmode hprbs hrx hhalf hctrl hsec hlen
  · intro u
    obtain ⟨honly, hmeters⟩ : s.Charged u := s.endCharges_charged (ends.map (·.val)) hn
    have hkeep : s.Keeps u := State.endCharges_keeps (State.Keeps.refl s) _
    have hnu := hkeep.numbered hn
    have hcu := hkeep.canon hc
    have hport : u.port n.val = x := by rw [honly]; rfl
    have hcopies : u.copies = s.copies := by rw [honly]
    have hmib : u.mib = s.mib := by rw [honly]
    refine ⟨honly, hmeters, ?_⟩
    rw [← hport, ← hcopies, ← hmib]
    exact ⟨fun hrx => ⟨_, exec_receptionEnd hp (State.recEnd_idle hrx), u.wfqAll_fair hnu⟩, fun f hf hrx hfp =>
      ⟨fun hlen hv => exec_receptionEnd_runt hp rfl hcu hnu hf hrx hlen hv,
        fun hlen hsec hb hd hv => exec_receptionEnd_dropped hp rfl hcu hnu hf hrx hlen hsec hb hd hv,
        fun hlen hsec hb hd ha hfcs hl hv hmeter hend hsdu hcells =>
          exec_receptionEnd_good hp rfl hcu hnu hf hrx hlen hsec hb hfp hd ha hl hfcs hv hmeter hend hsdu hcells,
        fun hlen hsec hb hd ha hfcs hl hfind hidle => exec_receptionEnd_badFcs hp rfl hcu hnu hf hrx hlen hsec hb hfp hd ha hl hfcs hfind hidle⟩⟩

end Sys2Proof.Machine
end

section
/-! SUPPORT. Where a new key goes, and what the placement of an entry leaves (08 R171 to R173, R178, R179). -/

namespace Sys2Proof.Machine

/-! ### The search for a slot -/

section
variable {bits n i k : Nat} {keyAt : Nat → Option (List Byte)} {key : List Byte} {on c : List Nat} {path q : List Move} {m : Move}

theorem roomMove_mem (h : roomMove bits keyAt on c = some m) : m.1 ∈ c := by
  obtain ⟨l, hl, hm⟩ := List.exists_of_findSome?_eq_some h
  split at hm
  · cases hm
  · split at hm
    · cases hm
    · obtain ⟨a, -, rfl⟩ := Option.map_eq_some_iff.1 hm
      exact hl

theorem rotFind_lt {f : Nat → Bool} (hn : 0 < n) (h : rotFind n i f = some k) : k < n := by
  obtain ⟨j, -, rfl⟩ := List.mem_map.1 (List.mem_of_find?_eq_some h)
  exact Nat.mod_lt _ hn

/-- A search keeps the moves it has made. -/
theorem placeSearch_suffix (h : placeSearch bits keyAt n i path c = some q) : path <:+ q := by
  induction n generalizing i path c with
  | zero => cases h
  | succ n ih =>
    unfold placeSearch at h
    dsimp only at h
    split at h
    · obtain rfl := Option.some.inj h
      exact List.suffix_cons _ _
    · split at h
      · cases h
      · split at h
        · cases h
        · exact (List.suffix_cons _ _).trans (ih h)

theorem getLastD_of_singleton_suffix {α : Type} {a d : α} {l : List α} (h : [a] <:+ l) : l.getLastD d = a := by
  obtain ⟨t, rfl⟩ := h
  exact List.getLastD_concat

/-- The first move of a search leaves the bucket from which the search starts. -/
theorem placeSearch_first (hc : c.length = 4) (h : placeSearch bits keyAt n i [] c = some q) (d : Move) : (q.getLastD d).1 ∈ c := by
  cases n with
  | zero => cases h
  | succ n =>
    unfold placeSearch at h
    dsimp only at h
    split at h
    next m hm =>
      obtain rfl := Option.some.inj h
      exact roomMove_mem hm
    next =>
      split at h
      · cases h
      next k hk =>
        have hlt : k < c.length := hc ▸ rotFind_lt (by decide) hk
        split at h
        · cases h
        · rw [getLastD_of_singleton_suffix (placeSearch_suffix h), List.getD_eq_getElem _ _ hlt]
          exact List.getElem_mem hlt

/-- R178: a key goes to one of its locations, and to an empty one without a move where there is one. -/
theorem place_spec {l : Nat} (h : place bits keyAt key = some (l, path)) :
    l ∈ keyLocs bits key ∧ ((∃ j ∈ keyLocs bits key, keyAt j = none) → keyAt l = none ∧ path = []) := by
  unfold place at h
  split at h
  next j hj =>
    obtain ⟨rfl, rfl⟩ := Prod.mk.inj (Option.some.inj h)
    exact ⟨List.mem_of_find?_eq_some hj, fun _ => ⟨Option.isNone_iff_eq_none.1 (List.find?_some (p := fun l => (keyAt l).isNone) hj), rfl⟩⟩
  next hj =>
    dsimp only at h
    split at h
    · cases h
    next q hq =>
      obtain ⟨rfl, rfl⟩ := Prod.mk.inj (Option.some.inj h)
      refine ⟨List.mem_append_left _ (placeSearch_first rfl hq (0, 0)), fun ⟨j, hmem, hfree⟩ => ?_⟩
      exact absurd (Option.isNone_iff_eq_none.2 hfree) (List.find?_eq_none.1 hj j hmem)

end

/-! ### An entry placed -/

/-- R178: a new FDB entry stands in one of its locations; where one of them is empty, nothing moves. -/
theorem State.fdbPlace_spec {s t : State} {p : Nat} {e : FdbEnt} (hc : s.Canonical) (h : s.fdbPlace p e = some t) :
    ∃ l ∈ keyLocs 12 (fdbKey e.mac e.vid), t.fdbAt p l = some e ∧ ((∃ j ∈ keyLocs 12 (fdbKey e.mac e.vid), s.fdbAt p j = none) →
      s.fdbAt p l = none ∧ ∀ k, k ≠ p * 32768 + l → Cells.get (fun _ => none) t.fdb k = Cells.get (fun _ => none) s.fdb k) := by
  unfold State.fdbPlace at h
  split at h
  · cases h
  next l path hl =>
    obtain rfl := Option.some.inj h
    obtain ⟨hmem, hfree⟩ := place_spec hl
    refine ⟨l, hmem, fdbAt_setFdb _ _ _ _ ((table_moves_same p (pathMoves none path) s).2.1 hc), fun ⟨j, hj, hnone⟩ => ?_⟩
    obtain ⟨hempty, rfl⟩ := hfree ⟨j, hj, by unfold State.fdbKeyAt; rw [hnone]; rfl⟩
    exact ⟨Option.map_eq_none_iff.1 hempty, fun k hk => fdb_setFdb_ne _ _ _ _ _ hk⟩

theorem State.fdbPlace_isSome {s : State} {p : Nat} {e : FdbEnt} (h : place 12 (s.fdbKeyAt p) (fdbKey e.mac e.vid) ≠ none) : ∃ t, s.fdbPlace p e = some t := by
  unfold State.fdbPlace
  split
  · contradiction
  · exact ⟨_, rfl⟩

theorem State.fdbPlace_none {s : State} {p : Nat} {e : FdbEnt} (h : place 12 (s.fdbKeyAt p) (fdbKey e.mac e.vid) = none) : s.fdbPlace p e = none := by
  unfold State.fdbPlace
  rw [h]

/-- A placement changes the FDB and its counts alone. -/
theorem State.fdbPlace_only {s t : State} {p : Nat} {e : FdbEnt} (h : s.fdbPlace p e = some t) :
    t = { s with fdb := t.fdb, regs := t.regs } ∧ ∀ a, a ≠ FDB_STAT.a p → t.reg a = s.reg a := by
  unfold State.fdbPlace at h
  split at h
  · cases h
  next l path hl =>
    obtain rfl := Option.some.inj h
    obtain ⟨hsame, -, hreg⟩ := table_moves_same p (pathMoves none path) s
    refine ⟨?_, fun a ha => (table_reg_setFdb_ne _ _ _ _ _ ha).trans (hreg a ha)⟩
    generalize List.foldl _ s (pathMoves none path) = u at hsame ⊢
    rw [table_setFdb_same, hsame]

theorem State.fdbPlace_pipe {s t : State} {p : Nat} {e : FdbEnt} (h : s.fdbPlace p e = some t) : t.pipe = s.pipe := by
  rw [(State.fdbPlace_only h).1]

/-- R178: a new flow entry stands in one of its locations; where one of them is empty, nothing moves. -/
theorem State.flwPlace_spec {s t : State} {p : Nat} {e : FlwEnt} (hc : s.Canonical) (h : s.flwPlace p e = some t) :
    t = { s with flw := t.flw } ∧ ∃ l ∈ keyLocs 11 (flwKey e.kind e.w1 e.w2 e.w3), t.flwAt p l = some e ∧
      ((∃ j ∈ keyLocs 11 (flwKey e.kind e.w1 e.w2 e.w3), s.flwAt p j = none) →
        s.flwAt p l = none ∧ ∀ k, k ≠ p * 16384 + l → Cells.get (fun _ => none) t.flw k = Cells.get (fun _ => none) s.flw k) := by
  unfold State.flwPlace at h
  split at h
  · cases h
  next l path hl =>
    obtain rfl := Option.some.inj h
    obtain ⟨hmem, hfree⟩ := place_spec hl
    obtain ⟨honly, hcanon⟩ := table_flwMoves_same p (pathMoves none path) s
    refine ⟨?_, l, hmem, table_flwAt_setFlw _ _ _ _ (hcanon hc), fun ⟨j, hj, hnone⟩ => ?_⟩
    · generalize List.foldl _ s (pathMoves none path) = u at honly ⊢
      rw [honly]
      rfl
    · obtain ⟨hempty, rfl⟩ := hfree ⟨j, hj, by unfold State.flwKeyAt; rw [hnone]; rfl⟩
      exact ⟨Option.map_eq_none_iff.1 hempty, fun k hk => table_flw_setFlw_ne _ _ _ _ _ hk⟩

theorem State.flwPlace_isSome {s : State} {p : Nat} {e : FlwEnt} (h : place 11 (s.flwKeyAt p) (flwKey e.kind e.w1 e.w2 e.w3) ≠ none) : ∃ t, s.flwPlace p e = some t := by
  unfold State.flwPlace
  split
  · contradiction
  · exact ⟨_, rfl⟩

end Sys2Proof.Machine
end

section
/-! SUPPORT. The err_codes of the table commands (02 R439, 08 R174, R176). -/

namespace Sys2Proof.Machine

/-- A reported err_code is one of the list's. -/
theorem lowestErr_mem {l : List (Bool × Nat)} {k : Nat} (h : lowestErr l = some k) : k ∈ l.map Prod.snd := by
  induction l generalizing k with
  | nil => cases h
  | cons x r ih =>
    obtain ⟨b, c⟩ := x
    unfold lowestErr at h
    split at h
    · split at h
      · exact Option.some.inj h ▸ List.mem_cons_self
      · cases h
    next j hj =>
      split at h
      · rcases min_choice c j with hmin | hmin <;> rw [hmin] at h <;> obtain rfl := Option.some.inj h
        · exact List.mem_cons_self
        · exact List.mem_cons_of_mem _ (ih hj)
      · exact Option.some.inj h ▸ List.mem_cons_of_mem _ (ih hj)

/-- No reported err_code: none of the conditions holds. -/
theorem lowestErr_none {l : List (Bool × Nat)} (h : lowestErr l = none) : ∀ x ∈ l, x.1 = false := by
  induction l with
  | nil => nofun
  | cons x r ih =>
    obtain ⟨b, c⟩ := x
    unfold lowestErr at h
    split at h
    next hr =>
      cases b with
      | true => cases h
      | false => exact List.forall_mem_cons.2 ⟨rfl, ih hr⟩
    next => split at h <;> cases h

theorem code_lt {k : Nat} (h : k ∈ [1, 2, 3, 15]) : k < 16 := by
  revert k
  decide

theorem State.fdbErr_lt {s : State} {p op arg k : Nat} (h : s.fdbErr p op arg = some k) : k < 16 := code_lt (lowestErr_mem h)

theorem State.flwErr_lt {s : State} {p op arg k : Nat} (h : s.flwErr p op arg = some k) : k < 16 := code_lt (lowestErr_mem h)

/-- An FDB insert that does not fail finds its key in the table, or a place for it. -/
theorem State.fdbErr_insert {s : State} {p arg : Nat} (h : s.fdbErr p 1 arg = none) (hf : s.fdbCmdAt p = none) : ∃ t, s.fdbPlace p (s.fdbCmdEnt p) = some t := by
  refine State.fdbPlace_isSome fun hp => ?_
  have hlow := lowestErr_none h (_, 2) (List.mem_cons_of_mem _ List.mem_cons_self)
  unfold State.fdbCmdAt State.fdbCmdEnt at hf
  unfold State.fdbCmdEnt at hp
  dsimp only at hf hp hlow
  rw [hf, hp] at hlow
  cases hlow

/-- R174: the delete of a key that the FDB does not hold. -/
theorem State.fdbErr_delete {s : State} {p : Nat} (h : s.fdbCmdAt p = none) (arg : Nat) : s.fdbErr p 2 arg = some 1 := by
  unfold State.fdbCmdAt State.fdbCmdEnt at h
  unfold State.fdbErr
  dsimp only at h ⊢
  rw [h]
  exact table_low1 _ _

/-- R176: the entry that the words of FLW_CMD spell. -/
def State.flwCmdEnt (s : State) (p : Nat) : FlwEnt :=
  ⟨s.dw (flwCmd p) 0, s.dw (flwCmd p) 1, s.dw (flwCmd p) 2, s.dw (flwCmd p) 3, s.dw (flwCmd p) 4, s.dw (flwCmd p) 5⟩

/-- Where the key that the words of FLW_CMD spell stands in the flow table. -/
def State.flwCmdAt (s : State) (p : Nat) : Option Nat := s.flwFind p (s.flwCmdEnt p).kind (s.flwCmdEnt p).w1 (s.flwCmdEnt p).w2 (s.flwCmdEnt p).w3

/-- A flow insert that does not fail finds its key in the table, or a place for it. -/
theorem State.flwErr_insert {s : State} {p arg : Nat} (h : s.flwErr p 1 arg = none) (hf : s.flwCmdAt p = none) : ∃ t, s.flwPlace p (s.flwCmdEnt p) = some t := by
  refine State.flwPlace_isSome fun hp => ?_
  have hlow := lowestErr_none h (_, 2) (List.mem_cons_of_mem _ List.mem_cons_self)
  unfold State.flwCmdAt State.flwCmdEnt at hf
  unfold State.flwCmdEnt at hp
  dsimp only at hf hp hlow
  rw [hf, hp] at hlow
  cases hlow

end Sys2Proof.Machine
end

section
/-! SUPPORT. The flow-table commands (08 R176, R178). -/

namespace Sys2Proof.Machine

/-! ### What FLW_CMD does, by command -/

section
variable {s : State} {p arg l : Nat}

theorem State.flwDo_insert_known (h : s.flwCmdAt p = some l) : s.flwDo p 1 arg = s.setFlw p l (some (s.flwCmdEnt p)) := by
  unfold State.flwCmdAt State.flwCmdEnt at h
  unfold State.flwDo State.flwCmdEnt
  dsimp only at h ⊢
  rw [if_pos rfl, h]

theorem State.flwDo_insert_new {u : State} (h : s.flwCmdAt p = none) (hu : s.flwPlace p (s.flwCmdEnt p) = some u) : s.flwDo p 1 arg = u := by
  unfold State.flwCmdAt State.flwCmdEnt at h
  unfold State.flwCmdEnt at hu
  unfold State.flwDo
  dsimp only at h ⊢
  rw [if_pos rfl, h]
  dsimp only
  rw [hu]
  rfl

theorem State.flwDo_delete (h : s.flwCmdAt p = some l) : s.flwDo p 2 arg = s.setFlw p l none := by
  unfold State.flwCmdAt State.flwCmdEnt at h
  unfold State.flwDo
  dsimp only at h ⊢
  rw [if_neg (by decide), if_pos rfl, h]

theorem State.flwDo_search_found {x : FlwEnt} (h : s.flwCmdAt p = some l) (hx : s.flwAt p l = some x) : s.flwDo p 3 arg = s.snap (flwRes p) (flwWords x l) := by
  unfold State.flwCmdAt State.flwCmdEnt at h
  unfold State.flwDo
  dsimp only at h ⊢
  rw [if_neg (by decide), if_neg (by decide), if_pos rfl, h]
  dsimp only
  rw [hx]

theorem State.flwDo_search_missed (h : s.flwCmdAt p = none) : s.flwDo p 3 arg =
    s.snap (flwRes p) [s.dw (flwCmd p) 0, s.dw (flwCmd p) 1, s.dw (flwCmd p) 2, s.dw (flwCmd p) 3, 0, 0, 0, 0] := by
  unfold State.flwCmdAt State.flwCmdEnt at h
  unfold State.flwDo
  dsimp only at h ⊢
  rw [if_neg (by decide), if_neg (by decide), if_pos rfl, h]

theorem State.flwDo_read_taken {x : FlwEnt} (hx : s.flwAt p arg = some x) : s.flwDo p 4 arg = s.snap (flwRes p) (flwWords x arg) := by
  unfold State.flwDo
  dsimp only
  rw [if_neg (by decide), if_neg (by decide), if_neg (by decide), hx]

theorem State.flwDo_read_empty (hx : s.flwAt p arg = none) : s.flwDo p 4 arg = s.snap (flwRes p) [0, 0, 0, 0, 0, 0, 0, arg] := by
  unfold State.flwDo
  dsimp only
  rw [if_neg (by decide), if_neg (by decide), if_neg (by decide), hx]

theorem State.flwFind_at {a b c d : Nat} (h : s.flwFind p a b c d = some l) : ∃ x, s.flwAt p l = some x := by
  have hmatch := List.find?_some h
  split at hmatch
  · exact ⟨_, ‹_›⟩
  · cases hmatch

end

/-! ### How FLW_CMD ends -/

section
variable {s : State} {i : Nat} {p : Fin 2} {op : Nat}

theorem State.flwRequest (hm : s.MayOrder i (flwCmd p.val)) (ho : op < 256) (arg : BitVec 16) :
    (.next (s.live (s.request i (flwCmd p.val) op arg.toNat)) : Host.Outcome State Fault Refusal) =
      .next ((s.ordered i (flwCmd p.val) op arg.toNat).flwReq p.val op arg.toNat) :=
  (next_live s _ hm.may.powered).trans (congrArg _ (State.request_flwCmd s i op arg.toNat p hm ho arg.isLt))

theorem State.flwRequest_refused (hc : s.Canonical) (hm : s.MayOrder i (flwCmd p.val)) (ho : op < 256) (arg : BitVec 16) {k : Nat}
    (he : s.flwErr p.val op arg.toNat = some k) :
    ∃ t : State, (.next (s.live (s.request i (flwCmd p.val) op arg.toNat)) : Host.Outcome State Fault Refusal) = .next t ∧
      t.Refused (flwCmd p.val) k ∧ t.flw = s.flw := by
  obtain ⟨hord, -, hflw, herr⟩ := table_flwOrdered s i p op arg.toNat hc
  have hrun : (s.ordered i (flwCmd p.val) op arg.toNat).flwReq p.val op arg.toNat = (s.ordered i (flwCmd p.val) op arg.toNat).mbxEnd (flwCmd p.val) 8 (some k) := by
    unfold State.flwReq
    rw [herr, he]
  refine ⟨_, (State.flwRequest hm ho arg).trans (congrArg _ hrun), State.refused_of _ _ _ _ hord.canon (State.flwErr_lt he), ?_⟩
  exact (table_ended_fdb _ _ _ _).2.trans hflw

/-- What the mailbox finds in the state where it judges the command. -/
theorem State.flwCmd_ordered (hc : s.Canonical) (arg : Nat) : (s.ordered i (flwCmd p.val) op arg).flwCmdEnt p.val = s.flwCmdEnt p.val ∧
    (s.ordered i (flwCmd p.val) op arg).flwCmdAt p.val = s.flwCmdAt p.val ∧ ∀ l, (s.ordered i (flwCmd p.val) op arg).flwAt p.val l = s.flwAt p.val l := by
  obtain ⟨-, hdw, hflw, -⟩ := table_flwOrdered s i p op arg hc
  refine ⟨?_, ?_, fun l => table_flwAt_congr _ _ _ _ hflw⟩
  · unfold State.flwCmdEnt
    rw [hdw]
  · unfold State.flwCmdAt State.flwCmdEnt
    rw [hdw, table_flwFind_congr _ _ _ _ _ _ _ hflw]

theorem State.flwRequest_ends (hc : s.Canonical) (hm : s.MayOrder i (flwCmd p.val)) (ho : op < 256) (arg : BitVec 16)
    (he : s.flwErr p.val op arg.toNat = none) :
    (.next (s.live (s.request i (flwCmd p.val) op arg.toNat)) : Host.Outcome State Fault Refusal) =
      .next (((s.ordered i (flwCmd p.val) op arg.toNat).flwDo p.val op arg.toNat).mbxEnd (flwCmd p.val) 8 none) :=
  (State.flwRequest hm ho arg).trans (congrArg _ (table_flwReq_none _ _ _ _ (((table_flwOrdered s i p op arg.toNat hc).2.2.2 op).trans he)))

/-- A command that has changed the flow table and nothing else completes. -/
theorem State.flwStored {o w : State} (h : table_Ordered s o (flwCmd p.val) 8) (hw : w = { o with flw := w.flw }) (hcan : w.Canonical) :
    let t := w.mbxEnd (flwCmd p.val) 8 none
    t.Done s (flwCmd p.val) 8 ∧ t.flw = w.flw ∧
      t = { s with flw := t.flw, regs := t.regs, aud := t.aud, evt := t.evt, out := t.out, pcie := { s.pcie with pba := t.pcie.pba } } := by
  refine ⟨table_ended s w _ _ hcan ?_, (table_ended_fdb w _ _ _).2, ?_⟩
  · rw [hw]
    exact h.stat
  · obtain ⟨_, _, _, _, _, ho⟩ := h.same
    have ht := table_ended_same w (flwCmd p.val) 8 none
    generalize w.mbxEnd (flwCmd p.val) 8 none = t at ht ⊢
    rw [ht, hw, ho]

/-- A command that shows a slot in FLW_RES completes. -/
theorem State.flwShown {o : State} (h : table_Ordered s o (flwCmd p.val) 8) {ws : List Nat} (hl : ws.length = 8) :
    let t := (o.snap (flwRes p.val) ws).mbxEnd (flwCmd p.val) 8 none
    t.Done s (flwCmd p.val) 8 ∧ t.Shows (flwRes p.val) ws ∧ t.flw = o.flw := by
  obtain ⟨hne, hdata, hword, hstat, hstatWord⟩ := table_fresNe p
  obtain ⟨hdone, hshows, -, hflw⟩ := table_snap_ended o s (flwCmd p.val) (flwRes p.val) 8 ws h.canon h.stat hne hdata (hl ▸ hword) hstat (hl ▸ hstatWord)
  exact ⟨hdone, hshows, hflw⟩

end

/-! ### The commands -/

section
variable {s : State} {i : Fin 3} {p : Fin 2} (hc : s.Canonical) (hm : s.MayOrder i.val (flwCmd p.val))
include hc hm

/-- A command that sets one slot of the flow table. -/
theorem State.flwRequest_put {op : Nat} (ho : op < 256) (arg : BitVec 16) (he : s.flwErr p.val op arg.toNat = none) {l : Nat} {e : Option FlwEnt}
    (hdo : (s.ordered i.val (flwCmd p.val) op arg.toNat).flwDo p.val op arg.toNat = (s.ordered i.val (flwCmd p.val) op arg.toNat).setFlw p.val l e) :
    ∃ t : State, (.next (s.live (s.request i.val (flwCmd p.val) op arg.toNat)) : Host.Outcome State Fault Refusal) = .next t ∧
      t.Done s (flwCmd p.val) 8 ∧ t.flwAt p.val l = e ∧
      (∀ k, k ≠ p.val * 16384 + l → Cells.get (fun _ => none) t.flw k = Cells.get (fun _ => none) s.flw k) ∧
      t = { s with flw := t.flw, regs := t.regs, aud := t.aud, evt := t.evt, out := t.out, pcie := { s.pcie with pba := t.pcie.pba } } := by
  obtain ⟨hord, -, hflw, -⟩ := table_flwOrdered s i.val p op arg.toNat hc
  have hrun := (State.flwRequest_ends hc hm ho arg he).trans (congrArg _ (congrArg (fun u => State.mbxEnd u _ _ _) hdo))
  generalize s.ordered i.val (flwCmd p.val) op arg.toNat = o at hord hflw hrun
  obtain ⟨hdone, ht, hside⟩ := State.flwStored (p := p) (w := o.setFlw p.val l e) hord rfl ((State.setFlw_keeps (State.Keeps.refl _) _ _ _).canon hord.canon)
  refine ⟨_, hrun, hdone, (table_flwAt_congr _ _ _ _ ht).trans (table_flwAt_setFlw _ _ _ _ hord.canon), fun k hk => ?_, hside⟩
  rw [ht, table_flw_setFlw_ne _ _ _ _ _ hk, hflw]

theorem exec_flwInsert_known (he : s.flwErr p.val 1 0 = none) {l : Nat} (hl : s.flwCmdAt p.val = some l) :
    ∃ t : State, exec (.flwInsert i p 0) s = .next t ∧ t.Done s (flwCmd p.val) 8 ∧ t.flwAt p.val l = some (s.flwCmdEnt p.val) ∧
      (∀ k, k ≠ p.val * 16384 + l → Cells.get (fun _ => none) t.flw k = Cells.get (fun _ => none) s.flw k) ∧
      t = { s with flw := t.flw, regs := t.regs, aud := t.aud, evt := t.evt, out := t.out, pcie := { s.pcie with pba := t.pcie.pba } } := by
  obtain ⟨hent, hat, -⟩ := State.flwCmd_ordered (i := i.val) (op := 1) (p := p) hc 0
  exact State.flwRequest_put hc hm (by decide) 0 he (hent ▸ State.flwDo_insert_known (hat.trans hl))

theorem exec_flwInsert_new (he : s.flwErr p.val 1 0 = none) (hl : s.flwCmdAt p.val = none) :
    ∃ l ∈ keyLocs 11 (flwKey (s.dw (flwCmd p.val) 0) (s.dw (flwCmd p.val) 1) (s.dw (flwCmd p.val) 2) (s.dw (flwCmd p.val) 3)),
      ∃ t : State, exec (.flwInsert i p 0) s = .next t ∧ t.Done s (flwCmd p.val) 8 ∧ t.flwAt p.val l = some (s.flwCmdEnt p.val) ∧
      ((∃ j ∈ keyLocs 11 (flwKey (s.dw (flwCmd p.val) 0) (s.dw (flwCmd p.val) 1) (s.dw (flwCmd p.val) 2) (s.dw (flwCmd p.val) 3)), s.flwAt p.val j = none) →
        s.flwAt p.val l = none ∧ ∀ k, k ≠ p.val * 16384 + l → Cells.get (fun _ => none) t.flw k = Cells.get (fun _ => none) s.flw k) ∧
      t = { s with flw := t.flw, regs := t.regs, aud := t.aud, evt := t.evt, out := t.out, pcie := { s.pcie with pba := t.pcie.pba } } := by
  obtain ⟨hord, -, hflw, herr⟩ := table_flwOrdered s i.val p 1 0 hc
  obtain ⟨hent, hat, hslot⟩ := State.flwCmd_ordered (i := i.val) (op := 1) (p := p) hc 0
  obtain ⟨w, hw⟩ := State.flwErr_insert ((herr 1).trans he) (hat.trans hl)
  obtain ⟨hsame, l, hmem, hnew, hfree⟩ := State.flwPlace_spec hord.canon hw
  rw [hent] at hmem hnew hfree
  obtain ⟨hdone, ht, hside⟩ := State.flwStored hord hsame (State.flwPlace_keeps (State.Keeps.refl _) _ _ _ hw |>.canon hord.canon)
  refine ⟨l, hmem, _, (State.flwRequest_ends hc hm (by decide) 0 he).trans (congrArg _ (congrArg (fun u => State.mbxEnd u _ _ _) (State.flwDo_insert_new (hat.trans hl) hw))),
    hdone, (table_flwAt_congr _ _ _ _ ht).trans hnew, fun ⟨j, hj, hnone⟩ => ?_, hside⟩
  obtain ⟨hempty, hrest⟩ := hfree ⟨j, hj, (hslot j).trans hnone⟩
  exact ⟨(hslot l).symm.trans hempty, fun k hk => by rw [ht, hrest k hk, hflw]⟩

theorem exec_flwDelete_known (he : s.flwErr p.val 2 0 = none) {l : Nat} (hl : s.flwCmdAt p.val = some l) :
    ∃ t : State, exec (.flwDelete i p 0) s = .next t ∧ t.Done s (flwCmd p.val) 8 ∧ t.flwAt p.val l = none ∧
      (∀ k, k ≠ p.val * 16384 + l → Cells.get (fun _ => none) t.flw k = Cells.get (fun _ => none) s.flw k) ∧
      t = { s with flw := t.flw, regs := t.regs, aud := t.aud, evt := t.evt, out := t.out, pcie := { s.pcie with pba := t.pcie.pba } } := by
  obtain ⟨-, hat, -⟩ := State.flwCmd_ordered (i := i.val) (op := 2) (p := p) hc 0
  exact State.flwRequest_put hc hm (by decide) 0 he (State.flwDo_delete (hat.trans hl))

/-- A command that does no more than show eight words in FLW_RES. -/
theorem State.flwRequest_shows {op : Nat} (ho : op < 256) (arg : BitVec 16) (he : s.flwErr p.val op arg.toNat = none) {ws : List Nat} (hl : ws.length = 8)
    (hdo : (s.ordered i.val (flwCmd p.val) op arg.toNat).flwDo p.val op arg.toNat = (s.ordered i.val (flwCmd p.val) op arg.toNat).snap (flwRes p.val) ws) :
    ∃ t : State, (.next (s.live (s.request i.val (flwCmd p.val) op arg.toNat)) : Host.Outcome State Fault Refusal) = .next t ∧
      t.Done s (flwCmd p.val) 8 ∧ t.flw = s.flw ∧ t.Shows (flwRes p.val) ws := by
  obtain ⟨hord, -, hflw, -⟩ := table_flwOrdered s i.val p op arg.toNat hc
  obtain ⟨hdone, hshows, ht⟩ := State.flwShown hord hl
  exact ⟨_, (State.flwRequest_ends hc hm ho arg he).trans (congrArg _ (congrArg (fun u => State.mbxEnd u _ _ _) hdo)), hdone, ht.trans hflw, hshows⟩

theorem exec_flwSearch (he : s.flwErr p.val 3 0 = none) : ∃ t : State, exec (.flwSearch i p 0) s = .next t ∧ t.Done s (flwCmd p.val) 8 ∧ t.flw = s.flw ∧
    (∀ l x, s.flwCmdAt p.val = some l → s.flwAt p.val l = some x → t.Shows (flwRes p.val) (flwWords x l)) ∧
    (s.flwCmdAt p.val = none → t.Shows (flwRes p.val) [s.dw (flwCmd p.val) 0, s.dw (flwCmd p.val) 1, s.dw (flwCmd p.val) 2, s.dw (flwCmd p.val) 3, 0, 0, 0, 0]) := by
  obtain ⟨-, hat, hslot⟩ := State.flwCmd_ordered (i := i.val) (op := 3) (p := p) hc 0
  have hdw := (table_flwOrdered s i.val p 3 0 hc).2.1
  cases hl : s.flwCmdAt p.val with
  | none =>
    have hdo := State.flwDo_search_missed (arg := 0) (hat.trans hl)
    rw [hdw] at hdo
    obtain ⟨t, ht, hdone, hflw, hshows⟩ := State.flwRequest_shows hc hm (by decide) 0 he rfl hdo
    exact ⟨t, ht, hdone, hflw, nofun, fun _ => hshows⟩
  | some l =>
    obtain ⟨x, hx⟩ := State.flwFind_at hl
    obtain ⟨t, ht, hdone, hflw, hshows⟩ := State.flwRequest_shows hc hm (by decide) 0 he rfl (State.flwDo_search_found (arg := 0) (hat.trans hl) ((hslot l).trans hx))
    refine ⟨t, ht, hdone, hflw, fun l' x' hl' hx' => ?_, nofun⟩
    obtain rfl := Option.some.inj hl'
    obtain rfl := Option.some.inj (hx.symm.trans hx')
    exact hshows

theorem exec_flwReadSlot (arg : BitVec 16) (he : s.flwErr p.val 4 arg.toNat = none) : ∃ t : State, exec (.flwReadSlot i p arg) s = .next t ∧
    t.Done s (flwCmd p.val) 8 ∧ t.flw = s.flw ∧ (∀ x, s.flwAt p.val arg.toNat = some x → t.Shows (flwRes p.val) (flwWords x arg.toNat)) ∧
    (s.flwAt p.val arg.toNat = none → t.Shows (flwRes p.val) [0, 0, 0, 0, 0, 0, 0, arg.toNat]) := by
  obtain ⟨-, -, hslot⟩ := State.flwCmd_ordered (i := i.val) (op := 4) (p := p) hc arg.toNat
  cases hx : s.flwAt p.val arg.toNat with
  | none =>
    obtain ⟨t, ht, hdone, hflw, hshows⟩ := State.flwRequest_shows hc hm (by decide) arg he rfl (State.flwDo_read_empty ((hslot _).trans hx))
    exact ⟨t, ht, hdone, hflw, nofun, fun _ => hshows⟩
  | some x =>
    obtain ⟨t, ht, hdone, hflw, hshows⟩ := State.flwRequest_shows hc hm (by decide) arg he rfl (State.flwDo_read_taken ((hslot _).trans hx))
    exact ⟨t, ht, hdone, hflw, fun x' hx' => Option.some.inj hx' ▸ hshows, nofun⟩

end

/-- Settles O35: a refusal by `State.flwRequest_refused`, each command by what it does with the slot of its key. -/
theorem flowCommandsActOnTheTable : Obligations.FlowCommandsActOnTheTable := by
  unfold Obligations.FlowCommandsActOnTheTable
  intro s i p hc hm d at' e
  refine ⟨fun arg k => ⟨?_, ?_, ?_, ?_⟩, fun he => ⟨fun l hl => exec_flwInsert_known hc hm he hl, exec_flwInsert_new hc hm he⟩,
    fun he l hl => exec_flwDelete_known hc hm he hl, exec_flwSearch hc hm, exec_flwReadSlot hc hm⟩ <;>
  exact State.flwRequest_refused hc hm (by decide) arg

end Sys2Proof.Machine
end

section
/-! SUPPORT. What the update engine's operations leave of the FDB, of the work that waits, and of the registers (08 R177, R181 to R183). -/

namespace Sys2Proof.Machine

theorem State.setFdb_canon {s : State} (hc : s.Canonical) (p l : Nat) (e : Option FdbEnt) : (s.setFdb p l e).Canonical :=
  (State.setFdb_keeps (State.Keeps.refl s) p l e).canon hc

theorem State.setPp_canon {s : State} (hc : s.Canonical) (p : Nat) (x : PipeSt) : (s.setPp p x).Canonical :=
  (State.setPp_keeps (State.Keeps.refl s) p x).canon hc

theorem State.freezeEnd_canon {s : State} (hc : s.Canonical) (p l : Nat) : (s.freezeEnd p l).Canonical :=
  (State.freezeEnd_keeps (State.Keeps.refl s) p l).canon hc

/-! ### Notifications (R183) -/

theorem State.lnotShow_same (s : State) (p : Nat) : s.lnotShow p = { s with regs := (s.lnotShow p).regs } := by
  unfold State.lnotShow
  split
  · rfl
  · split
    · rfl
    · unfold State.setF
      rw [State.setWords_same]
      rfl

@[simp] theorem State.lnotShow_pipe (s : State) (p : Nat) : (s.lnotShow p).pipe = s.pipe := by rw [State.lnotShow_same]

theorem State.lnotShow_pp (s : State) (p q : Nat) : (s.lnotShow p).pp q = s.pp q := by
  unfold State.pp
  rw [State.lnotShow_pipe]

@[simp] theorem State.notify_fdb (s : State) (p k : Nat) (e : FdbEnt) (l : Nat) : (s.notify p k e l).fdb = s.fdb := by
  unfold State.notify
  split
  · dsimp only
    split
    · rw [State.lnotShow_same]
      rfl
    · rfl
  · rfl

theorem State.reg_lnotShow (s : State) (p a : Nat) (h : a < fdbLnot p) : (s.lnotShow p).reg a = s.reg a := by
  unfold State.lnotShow
  split
  · rfl
  · split
    · rfl
    · rw [State.reg_setF_ne _ _ _ _ _ (by omega), State.reg_setWords_ne _ _ _ _ _ (fun j _ => by unfold mbxData; omega)]

theorem State.reg_notify (s : State) (p k : Nat) (e : FdbEnt) (l a : Nat) (h : a < fdbLnot p) : (s.notify p k e l).reg a = s.reg a := by
  unfold State.notify
  split
  · dsimp only
    split
    · exact State.reg_lnotShow _ p a h
    · rfl
  · rfl

theorem evt_lt_lnot (p : Fin 2) : EVT_SRC_STAT.a (41 + p.val) < fdbLnot p.val := by
  unfold EVT_SRC_STAT.a fdbLnot
  omega

/-! ### The work that waits -/

/-- The engines of pipeline `p` have the same work before them; what waits to be reported may differ. -/
def State.SameWork (p : Nat) (s t : State) : Prop := ∃ n b, t.pp p = { s.pp p with notif := n, notifLost := b }

namespace State.SameWork

variable {p : Nat} {s t u : State}

theorem of_pipe (h : t.pipe = s.pipe) : State.SameWork p s t := ⟨(s.pp p).notif, (s.pp p).notifLost, by unfold State.pp; rw [h]⟩

theorem refl (s : State) : State.SameWork p s s := of_pipe rfl

theorem trans (h : State.SameWork p s t) (k : State.SameWork p t u) : State.SameWork p s u := by
  obtain ⟨_, _, h⟩ := h
  obtain ⟨n, b, k⟩ := k
  exact ⟨n, b, by rw [k, h]⟩

theorem notify (hc : s.Canonical) (k : Nat) (e : FdbEnt) (l : Nat) : State.SameWork p s (s.notify p k e l) := by
  unfold State.notify
  split
  · dsimp only
    split
    · rw [State.SameWork, State.lnotShow_pp, pp_setPp s p _ hc]
      exact ⟨_, _, rfl⟩
    · exact ⟨_, true, pp_setPp s p _ hc⟩
  · exact refl s

theorem learnQ (h : State.SameWork p s t) : (t.pp p).learnQ = (s.pp p).learnQ := by
  obtain ⟨_, _, h⟩ := h
  rw [h]

theorem sweep (h : State.SameWork p s t) : (t.pp p).sweep = (s.pp p).sweep := by
  obtain ⟨_, _, h⟩ := h
  rw [h]

theorem sweepAt (h : State.SameWork p s t) : (t.pp p).sweepAt = (s.pp p).sweepAt := by
  obtain ⟨_, _, h⟩ := h
  rw [h]

end State.SameWork

/-! ### A freeze that has run out (R182) -/

section
variable {s : State} {p l : Nat} {e : FdbEnt}

theorem State.freezeEnd_empty (h : s.fdbAt p l = none) : s.freezeEnd p l = s := by
  unfold State.freezeEnd
  rw [h]

theorem State.freezeEnd_over (h : s.fdbAt p l = some e) (hf : e.frozen = true) (ht : e.frzEnd ≤ s.now) : s.freezeEnd p l =
    (s.setFdb p l (some { e with frozen := false, hit := true, stale := false, win := none, moves := 0 })).raise (41 + p) 4 e.dest := by
  unfold State.freezeEnd
  rw [h]
  exact if_pos ⟨hf, ht⟩

theorem State.freezeEnd_running (h : s.fdbAt p l = some e) (hn : e.frozen = false ∨ s.now < e.frzEnd) : s.freezeEnd p l = s := by
  unfold State.freezeEnd
  rw [h]
  refine if_neg fun ⟨hf, ht⟩ => ?_
  rcases hn with hn | hn
  · exact absurd (hn.symm.trans hf) (by decide)
  · omega

/-- A freeze that ends leaves the entry in its slot. -/
theorem State.freezeEnd_slot (hc : s.Canonical) (h : s.fdbAt p l = some e) : ∃ e', (s.freezeEnd p l).fdbAt p l = some e' := by
  by_cases hover : e.frozen = true ∧ e.frzEnd ≤ s.now
  · rw [State.freezeEnd_over h hover.1 hover.2]
    exact ⟨_, (table_fdbAt_congr _ _ _ _ (State.raise_fdb ..)).trans (fdbAt_setFdb _ _ _ _ hc)⟩
  · refine ⟨e, ?_⟩
    rw [State.freezeEnd_running h, h]
    cases hf : e.frozen with
    | false => exact .inl rfl
    | true => exact .inr (Nat.lt_of_not_le fun ht => hover ⟨hf, ht⟩)

/-- What a freeze that ends leaves of a part of the state that neither a slot nor a cause changes. -/
theorem State.freezeEnd_part {α : Type} (f : State → α) (hset : ∀ e, f (s.setFdb p l e) = f s) (hraise : ∀ (u : State) c i, f (u.raise (41 + p) c i) = f u) :
    f (s.freezeEnd p l) = f s := by
  unfold State.freezeEnd
  split
  · rfl
  · split
    · exact (hraise _ _ _).trans (hset _)
    · rfl

theorem State.freezeEnd_fdb_ne (k : Nat) (hk : k ≠ p * 32768 + l) : Cells.get (fun _ => none) (s.freezeEnd p l).fdb k = Cells.get (fun _ => none) s.fdb k :=
  State.freezeEnd_part (fun u => Cells.get (fun _ => none) u.fdb k) (fun e => fdb_setFdb_ne s p l k e hk) fun u c i => by rw [State.raise_fdb]

theorem State.reg_freezeEnd {a : Nat} (h1 : a ≠ FDB_STAT.a p) (h2 : a ≠ EVT_SRC_STAT.a (41 + p)) : (s.freezeEnd p l).reg a = s.reg a :=
  State.freezeEnd_part (fun u => u.reg a) (fun _ => table_reg_setFdb_ne _ _ _ _ _ h1) fun u c i => State.reg_raise_ne u _ c i a h2

theorem State.freezeEnd_pipe (s : State) (p l : Nat) : (s.freezeEnd p l).pipe = s.pipe :=
  State.freezeEnd_part State.pipe (fun _ => rfl) fun u c i => State.raise_pipe u _ c i

theorem State.freezeEnd_par (s : State) (p l : Nat) : (s.freezeEnd p l).par = s.par :=
  State.freezeEnd_part State.par (fun _ => rfl) fun u c i => State.raise_par u _ c i

theorem State.freezeEnd_now (s : State) (p l : Nat) : (s.freezeEnd p l).now = s.now :=
  State.freezeEnd_part State.now (fun _ => rfl) fun u c i => State.raise_now u _ c i

/-- The table and the time alone decide what the end of a freeze makes of the table. -/
theorem State.freezeEnd_fdb_congr {u : State} (hf : u.fdb = s.fdb) (hn : u.now = s.now) : (u.freezeEnd p l).fdb = (s.freezeEnd p l).fdb := by
  have hset : ∀ x, (u.setFdb p l x).fdb = (s.setFdb p l x).fdb := fun x => congrArg (fun m => Cells.set (fun _ => none) m (p * 32768 + l) x) hf
  unfold State.freezeEnd
  rw [table_fdbAt_congr u s p l hf, hn]
  split
  · exact hf
  · split
    · rw [State.raise_fdb, State.raise_fdb, hset]
    · exact hf

end

end Sys2Proof.Machine
end

section
/-! SUPPORT. The FDB commands: what they meet, and how they end (08 R174, R175, R177). -/

namespace Sys2Proof.Machine

/-! ### The state that a command meets -/

/-- `t` is `s` but for the FDB, the engines' work, the audit log, the registers and the record of events. -/
def State.FdbSide (s t : State) : Prop :=
  t = { s with fdb := t.fdb, regs := t.regs, aud := t.aud, evt := t.evt, out := t.out, pipe := t.pipe, pcie := { s.pcie with pba := t.pcie.pba } }

theorem State.FdbSide.trans {s t u : State} (h : s.FdbSide t) (k : t.FdbSide u) : s.FdbSide u := by
  unfold State.FdbSide at *
  rw [k, h]

theorem table_Only.side {s t : State} {p : Nat} (h : table_Only s t p) : s.FdbSide t := by
  unfold State.FdbSide
  rw [h.same]

theorem State.FdbSide.regs {s t : State} (h : t = { s with regs := t.regs }) : s.FdbSide t := by
  unfold State.FdbSide
  rw [h]

/-- R177: what an FDB command of initiator `i` meets: the learning requests that came before it have been applied. -/
def State.fdbMet (s : State) (i op arg p : Nat) : State := (s.ordered i (fdbCmd p) op arg).learnDrain p

/-- `v` is `s` with a command in FDB_CMD of pipeline `p`, as its requester has written it. -/
structure State.FdbMeets (s v : State) (p : Fin 2) : Prop where
  canon : v.Canonical
  words : ∀ j, j < 4 → v.dw (fdbCmd p.val) j = s.dw (fdbCmd p.val) j
  stat : v.reg (fdbCmd p.val + 4) = s.reg (fdbCmd p.val + 4)
  req : fldGet (v.reg (fdbCmd p.val)) MBX_CTRL.req = 1
  side : s.FdbSide v

theorem State.fdbMet_meets {s : State} (hc : s.Canonical) (i op arg : Nat) (p : Fin 2) : s.FdbMeets (s.fdbMet i op arg p.val) p := by
  obtain ⟨hord, -⟩ := table_fdbOrdered s i p op arg hc
  have honly := table_only_learnDrain (s.ordered i (fdbCmd p.val) op arg) p.val
  have hside : s.FdbSide (s.fdbMet i op arg p.val) := by
    refine State.FdbSide.trans ?_ honly.side
    obtain ⟨_, _, _, _, _, ho⟩ := hord.same
    unfold State.FdbSide
    rw [ho]
  have hlt : ∀ a, a < fdbCmd p.val + 0x100 → fdbCmd p.val ≤ a → (s.fdbMet i op arg p.val).reg a = (s.ordered i (fdbCmd p.val) op arg).reg a := fun a h1 h2 =>
    honly.reg a (by unfold fdbCmd at h1; unfold fdbLnot; omega) (by unfold fdbCmd at h2; unfold EVT_SRC_STAT.a; omega)
  refine ⟨(State.learnDrain_keeps (State.Keeps.refl _) _).canon hord.canon, fun j hj => (table_only_dw honly j hj).trans (hord.dw j), ?_, ?_, hside⟩
  · exact (hlt _ (by omega) (by omega)).trans hord.stat
  · rw [hlt _ (by omega) (by omega)]
    exact hord.req
section
variable {s v : State} {p : Fin 2} (h : s.FdbMeets v p)
include h

theorem State.FdbMeets.ent : v.fdbCmdEnt p.val = s.fdbCmdEnt p.val := by
  unfold State.fdbCmdEnt
  dsimp only
  rw [h.words 0 (by decide), h.words 1 (by decide), h.words 2 (by decide)]

theorem State.FdbMeets.cmdAt : v.fdbCmdAt p.val = v.fdbFind p.val (s.fdbCmdEnt p.val).mac (s.fdbCmdEnt p.val).vid := by
  unfold State.fdbCmdAt
  rw [h.ent]

/-- A command that has done its work in the update engine completes. -/
theorem State.FdbMeets.ends {w : State} (hw : table_Only v w p.val) (hcan : w.Canonical) : let t := w.mbxEnd (fdbCmd p.val) 4 none
    t.Done s (fdbCmd p.val) 4 ∧ t.fdb = w.fdb ∧ s.FdbSide t := by
  refine ⟨table_ended s w _ _ hcan ((hw.reg _ ?_ ((table_fdbNe p).2.1 ⟨41 + p.val, by omega⟩)).trans h.stat), (table_ended_fdb w _ _ _).1,
    (h.side.trans hw.side).trans (State.FdbSide.regs (table_ended_same w _ _ _))⟩
  unfold fdbCmd fdbLnot
  omega

/-- A command that shows a slot in FDB_RES completes. -/
theorem State.FdbMeets.shown {w : State} (hw : table_Only v w p.val) (hcan : w.Canonical) {ws : List Nat} (hl : ws.length = 4) :
    let t := (w.snap (fdbRes p.val) ws).mbxEnd (fdbCmd p.val) 4 none
    t.Done s (fdbCmd p.val) 4 ∧ t.Shows (fdbRes p.val) ws ∧ t.fdb = w.fdb ∧ s.FdbSide t := by
  obtain ⟨hne, hdata, hword, hstat, hstatWord⟩ := table_resNe p
  have hreg : w.reg (fdbCmd p.val + 4) = s.reg (fdbCmd p.val + 4) := by
    refine (hw.reg _ ?_ ((table_fdbNe p).2.1 ⟨41 + p.val, by omega⟩)).trans h.stat
    unfold fdbCmd fdbLnot
    omega
  obtain ⟨hdone, hshows, hfdb, -⟩ := table_snap_ended w s (fdbCmd p.val) (fdbRes p.val) 4 ws hcan hreg hne hdata (hl ▸ hword) hstat (hl ▸ hstatWord)
  exact ⟨hdone, hshows, hfdb, ((h.side.trans hw.side).trans (State.FdbSide.regs (State.snap_same w _ _))).trans (State.FdbSide.regs (table_ended_same _ _ _ _))⟩

end

/-! ### A slot that is overwritten -/

theorem table_only_unfreezeEv (s : State) (p : Nat) (x : FdbEnt) : table_Only s (s.unfreezeEv p x) p := by
  unfold State.unfreezeEv State.raiseIf
  split
  · exact table_only_raise _ _ _ _
  · exact table_Only.refl s p

/-- R175, R182: a frozen entry that is overwritten raises its event, whether its freeze ran out or not. -/
theorem State.unfrozen_pend {v : State} {p l : Nat} {x x' : FdbEnt} (hc : v.Canonical) (hx : v.fdbAt p l = some x) (hx' : (v.freezeEnd p l).fdbAt p l = some x')
    (hf : x.frozen = true) (e : Option FdbEnt) (hstat : EVT_SRC_STAT.a (41 + p) ≠ FDB_STAT.a p) :
    fldGet ((((v.freezeEnd p l).setFdb p l e).unfreezeEv p x').reg (EVT_SRC_STAT.a (41 + p))) EVT_SRC_STAT.pend = 1 := by
  by_cases ht : x.frzEnd ≤ v.now
  · rw [State.freezeEnd_over hx hf ht] at hx' ⊢
    have hx0 := ((table_fdbAt_congr _ _ _ _ (State.raise_fdb ..)).trans (fdbAt_setFdb _ _ _ _ hc)).symm.trans hx'
    obtain rfl := Option.some.inj hx0
    exact (congrArg (fun w => fldGet w EVT_SRC_STAT.pend) (table_reg_setFdb_ne _ _ _ _ _ hstat)).trans (pend_raise _ _ _ _ (State.setFdb_canon hc _ _ _))
  · rw [State.freezeEnd_running hx (.inr (by omega))] at hx' ⊢
    obtain rfl := Option.some.inj (hx.symm.trans hx')
    unfold State.unfreezeEv State.raiseIf
    rw [if_pos hf]
    exact pend_raise _ _ _ _ (State.setFdb_canon hc _ _ _)

section
variable {s v : State} {p : Fin 2} {l : Nat} {x x' : FdbEnt}

/-- The slot of a known key overwritten, by an insert or a delete. -/
theorem State.FdbMeets.overwritten (h : s.FdbMeets v p) (hx : v.fdbAt p.val l = some x) (hx' : (v.freezeEnd p.val l).fdbAt p.val l = some x') (e : Option FdbEnt) :
    let t := (((v.freezeEnd p.val l).setFdb p.val l e).unfreezeEv p.val x').mbxEnd (fdbCmd p.val) 4 none
    t.Done s (fdbCmd p.val) 4 ∧ t.fdbAt p.val l = e ∧
      (∀ k, k ≠ p.val * 32768 + l → Cells.get (fun _ => none) t.fdb k = Cells.get (fun _ => none) v.fdb k) ∧
      (x.frozen = true → fldGet (t.reg (EVT_SRC_STAT.a (41 + p.val))) EVT_SRC_STAT.pend = 1) ∧ s.FdbSide t := by
  have hcf := State.freezeEnd_canon h.canon p.val l
  have honly := ((table_only_freezeEnd v p.val l).trans (table_only_setFdb _ _ l e)).trans (table_only_unfreezeEv _ _ x')
  obtain ⟨hdone, ht, hside⟩ := h.ends honly ((State.unfreezeEv_keeps (State.Keeps.refl _) _ _).canon (State.setFdb_canon hcf _ _ _))
  rw [table_unfreeze_fdb] at ht
  refine ⟨hdone, (table_fdbAt_congr _ _ _ _ ht).trans (fdbAt_setFdb _ _ _ _ hcf), fun k hk => ?_, fun hf => ?_, hside⟩
  · rw [ht, fdb_setFdb_ne _ _ _ _ _ hk, State.freezeEnd_fdb_ne k hk]
  · refine Eq.trans (congrArg (fun w => fldGet w EVT_SRC_STAT.pend) (State.reg_mbxDone_ne _ _ _ _ ?_ fun k _ => ?_))
      (State.unfrozen_pend h.canon hx hx' hf e ?_)
    · unfold EVT_SRC_STAT.a fdbCmd
      omega
    · unfold EVT_SRC_STAT.a fdbCmd mbxData
      omega
    · unfold EVT_SRC_STAT.a FDB_STAT.a
      omega

end

/-! ### A flush visit (R174) -/

/-- The slot that a flush visit meets: its entry goes where it is selected. -/
def State.flushSlot (s : State) (p : Nat) (f : FlushSt) : State :=
  match s.fdbAt p f.next with
  | some e => if f.selects e then s.setFdb p f.next none else s
  | none => s

section
variable {s : State} {p : Fin 2} {f : FlushSt}

theorem State.flushSlot_empty (h : s.fdbAt p.val f.next = none) : s.flushSlot p.val f = s := by
  unfold State.flushSlot
  rw [h]

theorem State.flushVisit_step (hf : (s.pp p.val).flush = some f) (hn : f.next ≠ 32767) (again : Bool) :
    s.flushVisit p.val again = (s.flushSlot p.val f).setPp p.val { (s.flushSlot p.val f).pp p.val with flush := some { f with next := f.next + 1 } } := by
  unfold State.flushVisit
  rw [hf]
  exact if_neg hn

theorem State.flushVisit_last (hf : (s.pp p.val).flush = some f) (hn : f.next = 32767) (again : Bool) :
    s.flushVisit p.val again =
      let u := ((s.flushSlot p.val f).setPp p.val { (s.flushSlot p.val f).pp p.val with flush := none }).mbxEnd (fdbCmd p.val) 4 none
      if again then u.setF (fdbCmd p.val + 4) MBX_STAT.overrun 1 else u := by
  unfold State.flushVisit
  rw [hf]
  exact if_pos hn

/-- A visit does to the FDB what it does to its slot. -/
theorem State.flushVisit_fdb (hf : (s.pp p.val).flush = some f) (again : Bool) : (s.flushVisit p.val again).fdb = (s.flushSlot p.val f).fdb := by
  by_cases hn : f.next = 32767
  · rw [State.flushVisit_last hf hn]
    have hend := (table_ended_fdb ((s.flushSlot p.val f).setPp p.val { (s.flushSlot p.val f).pp p.val with flush := none }) (fdbCmd p.val) 4 none).1
    cases again
    · exact hend
    · exact hend
  · rw [State.flushVisit_step hf hn]
    rfl

variable (hc : s.Canonical) (hf : (s.pp p.val).flush = some f) (again : Bool)
include hc hf

theorem State.flushVisit_slot : (∀ x, s.fdbAt p.val f.next = some x → (s.flushVisit p.val again).fdbAt p.val f.next = if f.selects x then none else some x) ∧
    (s.fdbAt p.val f.next = none → (s.flushVisit p.val again).fdbAt p.val f.next = none) ∧
    ∀ k, k ≠ p.val * 32768 + f.next → Cells.get (fun _ => none) (s.flushVisit p.val again).fdb k = Cells.get (fun _ => none) s.fdb k := by
  have hfdb := State.flushVisit_fdb hf again
  obtain ⟨-, -, -, hslot, hrest⟩ := table_visited s p f hc (s.flushSlot p.val f) rfl
  refine ⟨fun x hx => (table_fdbAt_congr _ _ _ _ hfdb).trans (hslot x hx), fun h => ?_, fun k hk => by rw [hfdb, hrest k hk]⟩
  rw [table_fdbAt_congr _ _ _ _ hfdb, State.flushSlot_empty h, h]

theorem State.flushVisit_goesOn (hn : f.next ≠ 32767) : ((s.flushVisit p.val again).pp p.val).flush = some { f with next := f.next + 1 } := by
  rw [State.flushVisit_step hf hn, pp_setPp _ _ _ (table_visited s p f hc (s.flushSlot p.val f) rfl).1]

theorem State.flushVisit_completes (hn : f.next = 32767) : let t := s.flushVisit p.val again
    (t.pp p.val).flush = none ∧ fldGet (t.reg (fdbCmd p.val)) MBX_CTRL.req = 0 ∧ (again = false → t.Done s (fdbCmd p.val) 4) ∧
      (again = true → fldGet (t.reg (fdbCmd p.val + 4)) MBX_STAT.overrun = 1) := by
  obtain ⟨hcu, -, hstat, -⟩ := table_visited s p f hc (s.flushSlot p.val f) rfl
  have hcp := State.setPp_canon hcu p.val { (s.flushSlot p.val f).pp p.val with flush := none }
  have hpp := pp_setPp (s.flushSlot p.val f) p.val { (s.flushSlot p.val f).pp p.val with flush := none } hcu
  rw [State.flushVisit_last hf hn]
  generalize hw : (s.flushSlot p.val f).setPp p.val { (s.flushSlot p.val f).pp p.val with flush := none } = w at hcp hpp ⊢
  have hdone : (w.mbxEnd (fdbCmd p.val) 4 none).Done s (fdbCmd p.val) 4 := table_ended s w _ _ hcp (by rw [← hw]; exact hstat)
  have hflush : ((w.mbxEnd (fdbCmd p.val) 4 none).pp p.val).flush = none := by
    rw [table_ended_same]
    exact congrArg PipeSt.flush hpp
  cases again with
  | false => exact ⟨hflush, hdone.1, fun _ => hdone, nofun⟩
  | true =>
    refine ⟨hflush, Eq.trans ?_ hdone.1, nofun, fun _ => ?_⟩
    · exact congrArg (fun w => fldGet w MBX_CTRL.req) (State.reg_setF_ne _ _ _ _ _ (by omega))
    · refine Eq.trans (congrArg (fun w => fldGet w MBX_STAT.overrun) (reg_setF _ _ _ _ ?_)) (fldGet_fldSet _ _ _ (by decide))
      exact ((State.mbxEnd_keeps (State.Keeps.refl w) _ _ _).canon hcp).regs

end

end Sys2Proof.Machine
end

section
/-! SUPPORT. The FDB commands, one by one (08 R174, R175, R177, R178): what O34 says of insert, delete, search, slot read and a refusal holds, and
what it says of a flush holds where the device runs when the flush has begun. -/

namespace Sys2Proof.Machine

section
variable {s : State} {i : Nat} {p : Fin 2} {op : Nat}

/-- R177: with no learning request waiting, a command meets the FDB as it stands. -/
theorem State.fdbMet_fdb (hc : s.Canonical) (hq : (s.pp p.val).learnQ = []) (arg : Nat) : (s.fdbMet i op arg p.val).fdb = s.fdb := by
  obtain ⟨-, -, hfdb, -, hpp⟩ := table_fdbOrdered s i p op arg hc
  unfold State.fdbMet
  rw [table_drain_nil _ _ (by rw [hpp, hq]), hfdb]

section
variable (hm : s.MayOrder i (fdbCmd p.val)) (ho : op < 256) (arg : BitVec 16)
include hm ho

theorem State.fdbRequest : (.next (s.live (s.request i (fdbCmd p.val) op arg.toNat)) : Host.Outcome State Fault Refusal) =
    .next ((s.ordered i (fdbCmd p.val) op arg.toNat).fdbReq p.val op arg.toNat) :=
  (next_live s _ hm.may.powered).trans (congrArg _ (State.request_fdbCmd s i op arg.toNat p hm ho arg.isLt))

theorem State.fdbRequest_ends (h5 : op ≠ 5) (he : (s.fdbMet i op arg.toNat p.val).fdbErr p.val op arg.toNat = none) :
    (.next (s.live (s.request i (fdbCmd p.val) op arg.toNat)) : Host.Outcome State Fault Refusal) =
      .next (((s.fdbMet i op arg.toNat p.val).fdbDo p.val op arg.toNat).mbxEnd (fdbCmd p.val) 4 none) :=
  (State.fdbRequest hm ho arg).trans (congrArg _ (table_fdbReq_none _ _ _ _ he h5))

variable (hc : s.Canonical)
include hc

/-- A command that fails leaves the FDB as the learning requests before it have left it. -/
theorem State.fdbRequest_refused {k : Nat} (he : (s.fdbMet i op arg.toNat p.val).fdbErr p.val op arg.toNat = some k) :
    ∃ t : State, (.next (s.live (s.request i (fdbCmd p.val) op arg.toNat)) : Host.Outcome State Fault Refusal) = .next t ∧
      t.Refused (fdbCmd p.val) k ∧ t.fdb = (s.fdbMet i op arg.toNat p.val).fdb :=
  ⟨_, (State.fdbRequest hm ho arg).trans (congrArg _ (table_fdbReq_some _ _ _ _ _ he)),
    State.refused_of _ _ _ _ (State.fdbMet_meets hc i op arg.toNat p).canon (State.fdbErr_lt he), (table_ended_fdb _ _ _ (some k)).1⟩

end

end

/-- R174: the state in which the flush has begun that the words of FDB_CMD ask for. -/
def State.flushBegun (v : State) (p : Nat) : State :=
  v.setPp p { v.pp p with flush := some ⟨0, v.dw (fdbCmd p) 1 / 65536 % 4096, v.dw (fdbCmd p) 2 % 512, v.dw (fdbCmd p) 3⟩ }

theorem State.flushBegun_pp {v : State} (hc : v.Canonical) (p : Nat) : (v.flushBegun p).pp p =
    { v.pp p with flush := some ⟨0, v.dw (fdbCmd p) 1 / 65536 % 4096, v.dw (fdbCmd p) 2 % 512, v.dw (fdbCmd p) 3⟩ } := pp_setPp _ _ _ hc

theorem State.flushBegun_powered (v : State) (p : Nat) : (v.flushBegun p).powered = v.powered := rfl

theorem State.fdbReq_flush (o : State) {p arg : Nat} (he : (o.learnDrain p).fdbErr p 5 arg = none) : o.fdbReq p 5 arg = (o.learnDrain p).flushBegun p := by
  unfold State.fdbReq
  dsimp only
  rw [he]
  rfl

section
variable {s : State} {i : Fin 3} {p : Fin 2} (hm : s.MayOrder i.val (fdbCmd p.val))
include hm

/-- A flush begins; its command does not complete yet. -/
theorem exec_fdbFlush (he : (s.fdbMet i.val 5 0 p.val).fdbErr p.val 5 0 = none) :
    exec (.fdbFlush i p 0) s = .next ((s.fdbMet i.val 5 0 p.val).flushBegun p.val) :=
  (State.fdbRequest hm (by decide) 0).trans (congrArg _ (State.fdbReq_flush (s.ordered i.val (fdbCmd p.val) 5 0) he))

variable (hc : s.Canonical)
include hc

theorem exec_fdbInsert_known (he : (s.fdbMet i.val 1 0 p.val).fdbErr p.val 1 0 = none) {l : Nat} {x : FdbEnt}
    (hl : (s.fdbMet i.val 1 0 p.val).fdbFind p.val (s.fdbCmdEnt p.val).mac (s.fdbCmdEnt p.val).vid = some l) (hx : (s.fdbMet i.val 1 0 p.val).fdbAt p.val l = some x) :
    ∃ t : State, exec (.fdbInsert i p 0) s = .next t ∧ t.Done s (fdbCmd p.val) 4 ∧ t.fdbAt p.val l = some (s.fdbCmdEnt p.val) ∧
      (∀ k, k ≠ p.val * 32768 + l → Cells.get (fun _ => none) t.fdb k = Cells.get (fun _ => none) (s.fdbMet i.val 1 0 p.val).fdb k) ∧
      (x.frozen = true → fldGet (t.reg (EVT_SRC_STAT.a (41 + p.val))) EVT_SRC_STAT.pend = 1) ∧ s.FdbSide t := by
  have hmet := State.fdbMet_meets hc i.val 1 0 p
  have hrun := State.fdbRequest_ends hm (by decide) 0 (by decide) he
  obtain ⟨x', hx'⟩ := State.freezeEnd_slot hmet.canon hx
  have hdo := table_fdbDo_1 (s.fdbMet i.val 1 0 p.val) p.val 0 l x' hmet.canon (hmet.cmdAt.trans hl) hx'
  rw [hmet.ent] at hdo
  exact ⟨_, hrun.trans (congrArg _ (congrArg (fun u => State.mbxEnd u _ _ _) hdo)), hmet.overwritten hx hx' _⟩

theorem exec_fdbInsert_new (he : (s.fdbMet i.val 1 0 p.val).fdbErr p.val 1 0 = none)
    (hl : (s.fdbMet i.val 1 0 p.val).fdbFind p.val (s.fdbCmdEnt p.val).mac (s.fdbCmdEnt p.val).vid = none) :
    ∃ l ∈ keyLocs 12 (fdbKey (s.fdbCmdEnt p.val).mac (s.fdbCmdEnt p.val).vid), ∃ t : State, exec (.fdbInsert i p 0) s = .next t ∧ t.Done s (fdbCmd p.val) 4 ∧
      t.fdbAt p.val l = some (s.fdbCmdEnt p.val) ∧
      ((∃ j ∈ keyLocs 12 (fdbKey (s.fdbCmdEnt p.val).mac (s.fdbCmdEnt p.val).vid), (s.fdbMet i.val 1 0 p.val).fdbAt p.val j = none) →
        (s.fdbMet i.val 1 0 p.val).fdbAt p.val l = none ∧
        ∀ k, k ≠ p.val * 32768 + l → Cells.get (fun _ => none) t.fdb k = Cells.get (fun _ => none) (s.fdbMet i.val 1 0 p.val).fdb k) ∧ s.FdbSide t := by
  have hmet := State.fdbMet_meets hc i.val 1 0 p
  have hrun := State.fdbRequest_ends hm (by decide) 0 (by decide) he
  obtain ⟨w, hw⟩ := State.fdbErr_insert he (hmet.cmdAt.trans hl)
  obtain ⟨l, hmem, hnew, hfree⟩ := State.fdbPlace_spec hmet.canon hw
  obtain ⟨hdone, ht, hside⟩ := hmet.ends (table_only_place _ _ _ _ hw) ((State.fdbPlace_keeps (State.Keeps.refl _) _ _ _ hw).canon hmet.canon)
  rw [hmet.ent] at hmem hnew hfree
  refine ⟨l, hmem, _, hrun.trans (congrArg _ (congrArg (fun u => State.mbxEnd u _ _ _) (table_fdbDo_1n _ _ _ _ (hmet.cmdAt.trans hl) hw))), hdone,
    (table_fdbAt_congr _ _ _ _ ht).trans hnew, fun hroom => ?_, hside⟩
  obtain ⟨hempty, hrest⟩ := hfree hroom
  exact ⟨hempty, fun k hk => by rw [ht, hrest k hk]⟩

theorem exec_fdbDelete_known (he : (s.fdbMet i.val 2 0 p.val).fdbErr p.val 2 0 = none) {l : Nat} {x : FdbEnt}
    (hl : (s.fdbMet i.val 2 0 p.val).fdbFind p.val (s.fdbCmdEnt p.val).mac (s.fdbCmdEnt p.val).vid = some l) (hx : (s.fdbMet i.val 2 0 p.val).fdbAt p.val l = some x) :
    ∃ t : State, exec (.fdbDelete i p 0) s = .next t ∧ t.Done s (fdbCmd p.val) 4 ∧ t.fdbAt p.val l = none ∧
      (∀ k, k ≠ p.val * 32768 + l → Cells.get (fun _ => none) t.fdb k = Cells.get (fun _ => none) (s.fdbMet i.val 2 0 p.val).fdb k) ∧
      (x.frozen = true → fldGet (t.reg (EVT_SRC_STAT.a (41 + p.val))) EVT_SRC_STAT.pend = 1) ∧ s.FdbSide t := by
  have hmet := State.fdbMet_meets hc i.val 2 0 p
  have hrun := State.fdbRequest_ends hm (by decide) 0 (by decide) he
  obtain ⟨x', hx'⟩ := State.freezeEnd_slot hmet.canon hx
  have hdo := table_fdbDo_2 (s.fdbMet i.val 2 0 p.val) p.val 0 l x' hmet.canon (hmet.cmdAt.trans hl) hx'
  exact ⟨_, hrun.trans (congrArg _ (congrArg (fun u => State.mbxEnd u _ _ _) hdo)), hmet.overwritten hx hx' _⟩

theorem exec_fdbDelete_unknown (hl : (s.fdbMet i.val 2 0 p.val).fdbFind p.val (s.fdbCmdEnt p.val).mac (s.fdbCmdEnt p.val).vid = none) :
    ∃ t : State, exec (.fdbDelete i p 0) s = .next t ∧ t.Refused (fdbCmd p.val) 1 ∧ t.fdb = (s.fdbMet i.val 2 0 p.val).fdb :=
  State.fdbRequest_refused hm (by decide) 0 hc (State.fdbErr_delete (((State.fdbMet_meets hc i.val 2 0 p).cmdAt).trans hl) 0)

theorem exec_fdbSearch (he : (s.fdbMet i.val 3 0 p.val).fdbErr p.val 3 0 = none) : let v := s.fdbMet i.val 3 0 p.val
    let at' := v.fdbFind p.val (s.fdbCmdEnt p.val).mac (s.fdbCmdEnt p.val).vid
    ∃ t : State, exec (.fdbSearch i p 0) s = .next t ∧ t.Done s (fdbCmd p.val) 4 ∧ t.fdb = (v.thaw p.val at').fdb ∧
      (∀ l x, at' = some l → (v.freezeEnd p.val l).fdbAt p.val l = some x → t.Shows (fdbRes p.val) (fdbWords true x l)) ∧
      (at' = none → t.Shows (fdbRes p.val) [s.dw (fdbCmd p.val) 0, s.dw (fdbCmd p.val) 1, 0, 0]) ∧ s.FdbSide t := by
  intro v at'
  have hmet : s.FdbMeets v p := State.fdbMet_meets hc i.val 3 0 p
  have hrun := State.fdbRequest_ends hm (by decide) 0 (by decide) he
  cases hl : at' with
  | none =>
    have hdo := table_fdbDo_3n v p.val 0 (hmet.cmdAt.trans hl)
    rw [hmet.words 0 (by decide), hmet.words 1 (by decide)] at hdo
    obtain ⟨hdone, hshows, hfdb, hside⟩ := hmet.shown (table_Only.refl v p.val) hmet.canon (ws := [s.dw (fdbCmd p.val) 0, s.dw (fdbCmd p.val) 1, 0, 0]) rfl
    exact ⟨_, hrun.trans (congrArg _ (congrArg (fun u => State.mbxEnd u _ _ _) hdo)), hdone, hfdb, nofun, fun _ => hshows, hside⟩
  | some l =>
    obtain ⟨x0, hx0⟩ := table_fdbFind_at _ _ _ _ _ hl
    obtain ⟨x, hx⟩ := State.freezeEnd_slot hmet.canon hx0
    obtain ⟨hdone, hshows, hfdb, hside⟩ := hmet.shown (table_only_freezeEnd v p.val l) (State.freezeEnd_canon hmet.canon _ _) (ws := fdbWords true x l) rfl
    refine ⟨_, hrun.trans (congrArg _ (congrArg (fun u => State.mbxEnd u _ _ _) (table_fdbDo_3 v p.val 0 l x hmet.canon (hmet.cmdAt.trans hl) hx))), hdone, hfdb,
      fun l' x' hl' hx' => ?_, nofun, hside⟩
    obtain rfl := Option.some.inj hl'
    obtain rfl := Option.some.inj (hx.symm.trans hx')
    exact hshows

theorem exec_fdbReadSlot (arg : BitVec 16) (he : (s.fdbMet i.val 4 arg.toNat p.val).fdbErr p.val 4 arg.toNat = none) :
    ∃ t : State, exec (.fdbReadSlot i p arg) s = .next t ∧ t.Done s (fdbCmd p.val) 4 ∧ t.fdb = ((s.fdbMet i.val 4 arg.toNat p.val).freezeEnd p.val arg.toNat).fdb ∧
      (∀ x, t.fdbAt p.val arg.toNat = some x → t.Shows (fdbRes p.val) (fdbWords true x arg.toNat)) ∧
      (t.fdbAt p.val arg.toNat = none → t.Shows (fdbRes p.val) [0, 0, 0, arg.toNat]) := by
  have hmet := State.fdbMet_meets hc i.val 4 arg.toNat p
  have hrun := State.fdbRequest_ends hm (by decide) arg (by decide) he
  have honly := table_only_freezeEnd (s.fdbMet i.val 4 arg.toNat p.val) p.val arg.toNat
  have hcan := State.freezeEnd_canon hmet.canon p.val arg.toNat
  rw [table_fdbDo_4] at hrun
  generalize (s.fdbMet i.val 4 arg.toNat p.val).freezeEnd p.val arg.toNat = w at hrun honly hcan ⊢
  cases hx : w.fdbAt p.val arg.toNat with
  | none =>
    rw [hx] at hrun
    obtain ⟨hdone, hshows, hfdb, -⟩ := hmet.shown honly hcan (ws := [0, 0, 0, arg.toNat]) rfl
    refine ⟨_, hrun, hdone, hfdb, fun x h => ?_, fun _ => hshows⟩
    exact absurd ((table_fdbAt_congr _ w _ _ hfdb).symm.trans h) (by rw [hx]; nofun)
  | some x =>
    rw [hx] at hrun
    obtain ⟨hdone, hshows, hfdb, -⟩ := hmet.shown honly hcan (ws := fdbWords true x arg.toNat) rfl
    have hat := (table_fdbAt_congr _ w p.val arg.toNat hfdb).trans hx
    refine ⟨_, hrun, hdone, hfdb, fun x' h => ?_, fun h => absurd (hat.symm.trans h) nofun⟩
    obtain rfl := Option.some.inj (hat.symm.trans h)
    exact hshows

end

/-- The first visit of a flush, where the device runs once the learning requests before the flush have been applied. -/
theorem exec_flushVisit_first {s : State} {i : Fin 3} {p : Fin 2} (hc : s.Canonical) (hrun : (s.fdbMet i.val 5 0 p.val).powered = true) (again : Bool) :
    let t := (s.fdbMet i.val 5 0 p.val).flushBegun p.val
    ∃ f u, (t.pp p.val).flush = some f ∧ exec (.flushVisit p again) t = .next u ∧ (u.pp p.val).flush = some { f with next := 1 } ∧
      (∀ x, t.fdbAt p.val 0 = some x → u.fdbAt p.val 0 = if f.selects x then none else some x) ∧ (t.fdbAt p.val 0 = none → u.fdbAt p.val 0 = none) := by
  have hmet := State.fdbMet_meets hc i.val 5 0 p
  have hflush := congrArg PipeSt.flush (State.flushBegun_pp hmet.canon p.val)
  have hct : ((s.fdbMet i.val 5 0 p.val).flushBegun p.val).Canonical := State.setPp_canon hmet.canon _ _
  obtain ⟨hslot, hnone, -⟩ := State.flushVisit_slot hct hflush again
  exact ⟨_, _, hflush, next_live _ _ ((State.flushBegun_powered _ _).trans hrun), State.flushVisit_goesOn hct hflush again nofun, hslot, hnone⟩

end Sys2Proof.Machine
end

section
/-! SUPPORT. A learning request judged against the FDB (08 R181, R182). -/

namespace Sys2Proof.Machine

/-! ### The oldest request (R177, R181) -/

section
variable {s : State} {p : Nat} {r : LearnReq} {rest : List LearnReq}

theorem State.learnApply_next (hf : (s.pp p).flush = none) (hq : (s.pp p).learnQ = r :: rest) :
    s.learnApply p = (s.setPp p { s.pp p with learnQ := rest }).learnJudge p r := by
  unfold State.learnApply
  rw [hf, hq]

theorem State.learnApply_idle (h : (s.pp p).learnQ = [] ∨ (s.pp p).flush ≠ none) : s.learnApply p = s := by
  unfold State.learnApply
  split
  next hf hq =>
    rcases h with h | h
    · exact absurd (h.symm.trans hq) nofun
    · exact absurd hf h
  next => rfl

end

/-! ### A new address -/

section
variable {s : State} {p : Nat} {r : LearnReq}

theorem State.learnJudge_full (hl : s.fdbFind p r.mac r.vid = none) (hp : s.fdbPlace p { mac := r.mac, vid := r.vid, fixed := false, dest := r.dest } = none) :
    s.learnJudge p r = (s.bump (FDB_CNT.a p 3) FDB_CNT.count).raise (41 + p) 1 0 := by
  unfold State.learnJudge
  rw [hl]
  dsimp only
  rw [show s.thaw p none = s from rfl, hl]
  dsimp only
  rw [hp]

theorem State.learnJudge_new (hl : s.fdbFind p r.mac r.vid = none) {u : State} (hu : s.fdbPlace p { mac := r.mac, vid := r.vid, fixed := false, dest := r.dest } = some u) :
    s.learnJudge p r = (u.bump (FDB_CNT.a p 0) FDB_CNT.count).notify p 0 { mac := r.mac, vid := r.vid, fixed := false, dest := r.dest } ((u.fdbFind p r.mac r.vid).getD 0) := by
  unfold State.learnJudge
  rw [hl]
  dsimp only
  rw [show s.thaw p none = s from rfl, hl]
  dsimp only
  rw [hu]

end

/-! ### A known address -/

section
variable {s : State} {p : Fin 2} {l : Nat} {e : FdbEnt}

/-- R181, R182: a station move, or the freeze that it brings. -/
theorem State.learnMove_facts (hc : s.Canonical) (d : Nat) : let t := s.learnMove p.val l e d
    let n := if s.winOpen e then e.moves + 1 else 1
    let w := s.f (FDB_MOVE_CFG.a p.val) FDB_MOVE_CFG.move_win
    (∀ k, k ≠ p.val * 32768 + l → Cells.get (fun _ => none) t.fdb k = Cells.get (fun _ => none) s.fdb k) ∧
      ((w = 0 ∨ n ≤ s.f (FDB_MOVE_CFG.a p.val) FDB_MOVE_CFG.move_max) → t.fdbAt p.val l = some { e with dest := d, hit := true, stale := false, moves := n, win := if w = 0 then none else if s.winOpen e then e.win else some (s.now + msTicks w) }) ∧
      (w ≠ 0 → s.f (FDB_MOVE_CFG.a p.val) FDB_MOVE_CFG.move_max < n →
        t.fdbAt p.val l = some { e with frozen := true, frzEnd := s.now + s.f (FDB_MOVE_CFG.a p.val) FDB_MOVE_CFG.freeze_time * 2500000 } ∧
        fldGet (t.reg (EVT_SRC_STAT.a (41 + p.val))) EVT_SRC_STAT.pend = 1) := by
  dsimp only
  by_cases hmove : s.f (FDB_MOVE_CFG.a p.val) FDB_MOVE_CFG.move_win = 0 ∨ (if s.winOpen e then e.moves + 1 else 1) ≤ s.f (FDB_MOVE_CFG.a p.val) FDB_MOVE_CFG.move_max
  · rw [table_learnMove_move _ _ _ _ _ hmove]
    refine ⟨fun k hk => ?_, fun _ => ?_, fun h0 hlt => by omega⟩
    · rw [State.notify_fdb, State.bump_fdb, fdb_setFdb_ne _ _ _ _ _ hk]
    · exact (table_fdbAt_congr _ _ _ _ (State.notify_fdb ..)).trans (fdbAt_setFdb _ _ _ _ hc)
  · obtain ⟨h0, hlt⟩ := not_or.1 hmove
    rw [table_learnMove_freeze _ _ _ _ _ h0 (Nat.lt_of_not_le hlt)]
    unfold State.learnFreeze
    refine ⟨fun k hk => ?_, fun h => absurd h hmove, fun _ _ => ⟨?_, ?_⟩⟩
    · rw [State.notify_fdb, State.raise_fdb, fdb_setFdb_ne _ _ _ _ _ hk]
    · exact (table_fdbAt_congr _ _ _ _ ((State.notify_fdb ..).trans (State.raise_fdb ..))).trans (fdbAt_setFdb _ _ _ _ hc)
    · rw [State.reg_notify _ _ _ _ _ _ (evt_lt_lnot p)]
      exact pend_raise _ _ _ _ (State.setFdb_canon hc _ _ _)

variable {r : LearnReq} (hc : s.Canonical) (hl : s.fdbFind p.val r.mac r.vid = some l) (he : (s.freezeEnd p.val l).fdbAt p.val l = some e)
include hc hl he

/-- R181: the cases of a request for a known address, after a freeze there that has run out. -/
theorem State.learnJudge_known : s.learnJudge p.val r =
    if e.dest = r.dest then (s.freezeEnd p.val l).setFdb p.val l (some { e with hit := true, stale := false })
    else if e.fixed then ((s.freezeEnd p.val l).bump (FDB_CNT.a p.val 4) FDB_CNT.count).raise (41 + p.val) 7 r.port
    else if e.frozen then (s.freezeEnd p.val l).bump (FDB_CNT.a p.val 5) FDB_CNT.count
    else (s.freezeEnd p.val l).learnMove p.val l e r.dest := by
  unfold State.learnJudge
  rw [hl, show s.thaw p.val (some l) = s.freezeEnd p.val l from rfl]
  dsimp only
  rw [table_freezeEnd_keys s p.val l hc, hl]
  dsimp only
  rw [he]

theorem State.learnJudge_fdb_ne (k : Nat) (hk : k ≠ p.val * 32768 + l) :
    Cells.get (fun _ => none) (s.learnJudge p.val r).fdb k = Cells.get (fun _ => none) s.fdb k := by
  refine Eq.trans ?_ (State.freezeEnd_fdb_ne (s := s) (p := p.val) (l := l) k hk)
  rw [State.learnJudge_known hc hl he]
  split
  · exact fdb_setFdb_ne _ _ _ _ _ hk
  · split
    · rw [State.raise_fdb, State.bump_fdb]
    · split
      · rw [State.bump_fdb]
      · exact (State.learnMove_facts (State.freezeEnd_canon hc _ _) _).1 k hk

theorem State.learnJudge_refreshed (hd : e.dest = r.dest) : (s.learnJudge p.val r).fdbAt p.val l = some { e with hit := true, stale := false } := by
  rw [State.learnJudge_known hc hl he, if_pos hd]
  exact fdbAt_setFdb _ _ _ _ (State.freezeEnd_canon hc _ _)

theorem State.learnJudge_fixed (hd : e.dest ≠ r.dest) (hf : e.fixed = true) : (s.learnJudge p.val r).fdbAt p.val l = some e ∧
    fldGet ((s.learnJudge p.val r).reg (EVT_SRC_STAT.a (41 + p.val))) EVT_SRC_STAT.pend = 1 := by
  rw [State.learnJudge_known hc hl he, if_neg hd, if_pos hf]
  exact ⟨(table_fdbAt_congr _ _ _ _ (State.raise_fdb ..)).trans he, pend_raise _ _ _ _ ((State.bump_keeps (State.Keeps.refl _) _ _).canon (State.freezeEnd_canon hc _ _))⟩

theorem State.learnJudge_frozen (hd : e.dest ≠ r.dest) (hf : e.fixed = false) (hz : e.frozen = true) : (s.learnJudge p.val r).fdbAt p.val l = some e := by
  rw [State.learnJudge_known hc hl he, if_neg hd, if_neg (by simp [hf]), if_pos hz]
  exact he

/-- A request from another port for an address that may move: as R182 has it, by the configuration and the entry's window. -/
theorem State.learnJudge_moves (hd : e.dest ≠ r.dest) (hf : e.fixed = false) (hz : e.frozen = false) :
    let t := s.learnJudge p.val r
    let n := if s.winOpen e then e.moves + 1 else 1
    let w := s.f (FDB_MOVE_CFG.a p.val) FDB_MOVE_CFG.move_win
    ((w = 0 ∨ n ≤ s.f (FDB_MOVE_CFG.a p.val) FDB_MOVE_CFG.move_max) → t.fdbAt p.val l = some { e with dest := r.dest, hit := true, stale := false, moves := n, win := if w = 0 then none else if s.winOpen e then e.win else some (s.now + msTicks w) }) ∧
      (w ≠ 0 → s.f (FDB_MOVE_CFG.a p.val) FDB_MOVE_CFG.move_max < n →
        t.fdbAt p.val l = some { e with frozen := true, frzEnd := s.now + s.f (FDB_MOVE_CFG.a p.val) FDB_MOVE_CFG.freeze_time * 2500000 } ∧
        fldGet (t.reg (EVT_SRC_STAT.a (41 + p.val))) EVT_SRC_STAT.pend = 1) := by
  have hcfg : ∀ x, (s.freezeEnd p.val l).f (FDB_MOVE_CFG.a p.val) x = s.f (FDB_MOVE_CFG.a p.val) x := by
    refine fun x => State.f_congr (State.reg_freezeEnd ?_ ?_) (State.freezeEnd_par s p.val l) x
    · unfold FDB_MOVE_CFG.a FDB_STAT.a
      omega
    · unfold FDB_MOVE_CFG.a EVT_SRC_STAT.a
      omega
  have hnow := State.freezeEnd_now s p.val l
  have hopen : (s.freezeEnd p.val l).winOpen e = s.winOpen e := by
    unfold State.winOpen
    rw [hnow]
  have hfacts := (State.learnMove_facts (p := p) (l := l) (e := e) (State.freezeEnd_canon hc p.val l) r.dest).2
  rw [hcfg, hcfg, hcfg, hnow, hopen] at hfacts
  rw [table_learnJudge_move _ _ _ _ _ hc hl he hd hf hz]
  exact hfacts

end

/-! ### The work that a judgement leaves -/

namespace State.SameWork

variable {s : State} {p : Nat}

theorem raise (s : State) (n c i : Nat) : State.SameWork p s (s.raise n c i) := of_pipe (State.raise_pipe s n c i)

theorem bump (s : State) (a : Nat) (x : Fld) : State.SameWork p s (s.bump a x) := of_pipe rfl

theorem setFdb (s : State) (l : Nat) (e : Option FdbEnt) : State.SameWork p s (s.setFdb p l e) := of_pipe rfl

theorem freezeEnd (s : State) (l : Nat) : State.SameWork p s (s.freezeEnd p l) := of_pipe (State.freezeEnd_pipe s p l)

theorem learnMove (hc : s.Canonical) (l : Nat) (e : FdbEnt) (d : Nat) : State.SameWork p s (s.learnMove p l e d) := by
  unfold State.learnMove State.learnFreeze
  extract_lets win op n e' t z
  split
  · exact ((setFdb s _ _).trans (raise _ _ _ _)).trans (notify ((State.raise_keeps (State.setFdb_keeps (State.Keeps.refl s) _ _ _) _ _ _).canon hc) _ _ _)
  · exact ((setFdb s _ _).trans (bump _ _ _)).trans (notify ((State.bump_keeps (State.setFdb_keeps (State.Keeps.refl s) _ _ _) _ _).canon hc) _ _ _)

theorem learnJudge (hc : s.Canonical) (r : LearnReq) : State.SameWork p s (s.learnJudge p r) := by
  unfold State.learnJudge
  dsimp only
  have hthaw : State.SameWork p s (s.thaw p (s.fdbFind p r.mac r.vid)) := by
    unfold State.thaw
    split
    · exact freezeEnd s _
    · exact refl s
  have hcan : (s.thaw p (s.fdbFind p r.mac r.vid)).Canonical := (State.thaw_keeps (State.Keeps.refl s) _ _).canon hc
  refine hthaw.trans ?_
  generalize s.thaw p (s.fdbFind p r.mac r.vid) = v at hcan
  split
  · split
    · exact (bump v _ _).trans (raise _ _ _ _)
    next u hu =>
      have hcu : u.Canonical := (State.fdbPlace_keeps (State.Keeps.refl v) _ _ _ hu).canon hcan
      exact ((of_pipe (State.fdbPlace_pipe hu)).trans (bump u _ _)).trans (notify ((State.bump_keeps (State.Keeps.refl u) _ _).canon hcu) _ _ _)
  · split
    · exact refl v
    · split
      · exact setFdb v _ _
      · split
        · exact (bump v _ _).trans (raise _ _ _ _)
        · split
          · exact bump v _ _
          · exact learnMove hcan _ _ _

end State.SameWork

end Sys2Proof.Machine
end

section
/-! SUPPORT. A flush behind a notification of more words than FDB_LNOT has (08 R174, R177, R183). -/

namespace Sys2Proof.Machine

/-! ### The notification that a learned address brings to FDB_LNOT -/

section
variable {s : State} {p : Nat} {w : List Nat} (hc : s.Canonical) (hon : s.on (FDB_LEARN_CFG.a p) FDB_LEARN_CFG.notify_en = true)
  (hv : fldGet (s.reg (fdbLnot p + 4)) MBX_STAT.valid ≠ 1)
include hc hon hv

/-- The oldest notification shows all its words, whatever their number. -/
theorem State.notify_shows (hn : (s.pp p).notif = [w]) (k : Nat) (e : FdbEnt) (l : Nat) : (s.notify p k e l).Shows (fdbLnot p) w := by
  unfold State.notify
  rw [if_pos hon]
  dsimp only
  rw [if_pos (by rw [hn]; exact Nat.one_lt_ofNat), hn]
  unfold State.lnotShow
  rw [pp_setPp _ _ _ hc]
  exact (congrArg (fun u : State => u.Shows (fdbLnot p) w) (if_neg hv)).mpr (table_shown _ _ _ hc.regs)

/-- A command that finds one request to learn a new address applies it, and the notification that waited shows. -/
theorem State.learnDrain_shows {r : LearnReq} (hq : (s.pp p).learnQ = [r]) (hf : (s.pp p).flush = none) (hn : (s.pp p).notif = [w])
    (hl : s.fdbFind p r.mac r.vid = none) (hroom : place 12 (s.fdbKeyAt p) (fdbKey r.mac r.vid) ≠ none) : (s.learnDrain p).Shows (fdbLnot p) w := by
  have hrun : s.learnDrain p = s.learnApply p := by
    unfold State.learnDrain
    rw [hq]
    rfl
  rw [hrun, State.learnApply_next hf hq]
  have hcq := State.setPp_canon hc p { s.pp p with learnQ := [] }
  have hpp := pp_setPp s p { s.pp p with learnQ := [] } hc
  have hregs : ∀ a, (s.setPp p { s.pp p with learnQ := [] }).reg a = s.reg a := fun _ => rfl
  have hpar : (s.setPp p { s.pp p with learnQ := [] }).par = s.par := rfl
  have hl' : (s.setPp p { s.pp p with learnQ := [] }).fdbFind p r.mac r.vid = none := hl
  obtain ⟨u, hu⟩ := State.fdbPlace_isSome (s := s.setPp p { s.pp p with learnQ := [] }) (p := p) (e := { mac := r.mac, vid := r.vid, fixed := false, dest := r.dest }) hroom
  generalize s.setPp p { s.pp p with learnQ := [] } = q at hcq hpp hregs hpar hl' hu ⊢
  obtain ⟨hsame, hreg⟩ := State.fdbPlace_only hu
  have hcu := (State.fdbPlace_keeps (State.Keeps.refl q) _ _ _ hu).canon hcq
  have hkeep : ∀ a, a ≠ FDB_STAT.a p → a ≠ FDB_CNT.a p 0 → (u.bump (FDB_CNT.a p 0) FDB_CNT.count).reg a = s.reg a := fun a h1 h2 =>
    (State.reg_setF_ne _ _ _ _ _ h2).trans ((hreg a h1).trans (hregs a))
  rw [State.learnJudge_new hl' hu]
  refine State.notify_shows ((State.bump_keeps (State.Keeps.refl u) _ _).canon hcu) ?_ ?_ ?_ _ _ _
  · unfold State.on
    rw [State.f_congr (hkeep _ ?_ ?_) ((congrArg State.par hsame).trans hpar)]
    · exact hon
    · unfold FDB_LEARN_CFG.a FDB_STAT.a
      omega
    · unfold FDB_LEARN_CFG.a FDB_CNT.a
      omega
  · rw [hkeep _ ?_ ?_]
    · exact hv
    · unfold fdbLnot FDB_STAT.a
      omega
    · unfold fdbLnot FDB_CNT.a
      omega
  · have hpipe : (u.bump (FDB_CNT.a p 0) FDB_CNT.count).pp p = q.pp p := by
      unfold State.pp
      rw [State.bump_pipe, State.fdbPlace_pipe hu]
    rw [hpipe, hpp]
    exact hn

end

/-! ### The state -/

/-- A device that has booted, with an Installer on PCIe and notifications of learning on in pipeline A. -/
def notifies : State :=
  { State.reset.setF (FDB_LEARN_CFG.a 0) FDB_LEARN_CFG.notify_en 1 with sess := [(0, { role := 2 })], boot := { stage := 7 } }

/-- In it a request to learn an address waits, and in front of it one notification. -/
def learnsBehind (note : List Nat) : State := { notifies with pipe := [(0, { learnQ := [⟨0, 0, 0, 0⟩], notif := [note] })] }

theorem notifies_canonical : notifies.Canonical where
  __ := reset_canonical
  regs := by decide +kernel
  sess := by decide

theorem learnsBehind_canonical (note : List Nat) : (learnsBehind note).Canonical where
  __ := notifies_canonical
  pipe := by
    have hne : ({ learnQ := [⟨0, 0, 0, 0⟩], notif := [note] } : PipeSt) ≠ {} := fun h => List.cons_ne_nil _ _ (congrArg PipeSt.learnQ h)
    simp [Cells.wf, Cells.wfFrom, learnsBehind, hne]

theorem learnsBehind_mayOrder (note : List Nat) : (learnsBehind note).MayOrder 0 (fdbCmd 0) where
  may := ⟨(by decide +kernel : notifies.powered = true), (by decide +kernel : notifies.roleOf 0 = 2), (by decide +kernel : notifies.guardOf (blockOf (fdbCmd 0)) = none)⟩
  idle := (by decide +kernel : fldGet (notifies.reg (fdbCmd 0)) MBX_CTRL.req = 0)

theorem notifies_regs : notifies.on (FDB_LEARN_CFG.a 0) FDB_LEARN_CFG.notify_en = true ∧ fldGet (notifies.reg (fdbLnot 0 + 4)) MBX_STAT.valid ≠ 1 ∧
    ∀ j, j < 4 → notifies.dw (fdbCmd 0) j = 0 := by decide +kernel

theorem emptyTable_room : place 12 (fun _ => none) (fdbKey 0 0) ≠ none := by decide +kernel

/-- The flush meets the state in which the address is learned and the notification shows. -/
theorem learnsBehind_met (note : List Nat) : ((learnsBehind note).fdbMet 0 5 0 0).Shows (fdbLnot 0) note := by
  obtain ⟨hord, -, hfdb, -, hpp⟩ := table_fdbOrdered (learnsBehind note) 0 0 5 0 (learnsBehind_canonical note)
  obtain ⟨hon, hstat, -⟩ := notifies_regs
  have hreg : ∀ a, a ≠ fdbCmd 0 → a ≠ EVT_SRC_STAT.a 60 → ((learnsBehind note).ordered 0 (fdbCmd 0) 5 0).reg a = notifies.reg a :=
    fun a h1 h2 => State.reg_ordered_ne _ _ _ _ _ _ h1 h2
  have hpar : ((learnsBehind note).ordered 0 (fdbCmd 0) 5 0).par = notifies.par := by
    obtain ⟨_, _, _, _, _, ho⟩ := hord.same
    exact ho ▸ rfl
  have hpipe : ((learnsBehind note).ordered 0 (fdbCmd 0) 5 0).pp 0 = { learnQ := [⟨0, 0, 0, 0⟩], notif := [note] } := hpp 0
  refine State.learnDrain_shows (r := ⟨0, 0, 0, 0⟩) hord.canon ?_ ?_ (congrArg PipeSt.learnQ hpipe) (congrArg PipeSt.flush hpipe) (congrArg PipeSt.notif hpipe) ?_ ?_
  · unfold State.on
    rw [State.f_congr (hreg _ (by decide) (by decide)) hpar]
    exact hon
  · rw [hreg _ (by decide) (by decide)]
    exact hstat
  · exact (table_fdbFind_congr _ _ 0 0 0 hfdb).trans (List.find?_eq_none.2 fun _ _ => Bool.false_ne_true)
  · exact (congrArg (fun f => place 12 f (fdbKey 0 0)) (table_fdbKeyAt_congr _ _ 0 hfdb)).trans_ne emptyTable_room

theorem learnsBehind_err (note : List Nat) : ((learnsBehind note).fdbMet 0 5 0 0).fdbErr 0 5 0 = none := by
  have hmet := State.fdbMet_meets (learnsBehind_canonical note) 0 5 0 0
  have hword : ∀ j, j < 4 → ((learnsBehind note).fdbMet 0 5 0 0).dw (fdbCmd 0) j = 0 := fun j hj => (hmet.words j hj).trans (notifies_regs.2.2 j hj)
  unfold State.fdbErr
  dsimp only
  rw [hword 0 (by decide), hword 1 (by decide), hword 2 (by decide), hword 3 (by decide)]
  rfl

/-- A notification of so many words that the last one, shown, stands in PWR_STAT (08 R183 has four). -/
def longNote : List Nat := List.replicate 5239706 0xffffffff

theorem longNote_at : mbxData (fdbLnot 0) 5239705 = PWR_STAT.a := by decide

/-- With its word of the notification in PWR_STAT the device is in FEN. -/
theorem learnsBehind_sleeps : ((learnsBehind longNote).fdbMet 0 5 0 0).powered = false := by
  have hword := (learnsBehind_met longNote).2 5239705 (by unfold longNote; rw [List.length_replicate]; omega)
  rw [longNote_at] at hword
  have hget : longNote.getD 5239705 0 = 0xffffffff := List.getD_replicate _ (by omega)
  rw [hget] at hword
  unfold State.powered State.clocked State.inFen
  rw [hword]
  rfl

/-- Refutes O34, by its clause on the flush visit: no hypothesis bounds the words of a waiting notification by the four of FDB_LNOT (08 R183).
Here one of 5239706 words waits; the learning request that comes before the flush shows it, its words run over PWR_STAT, and a flush visit
of a device in FEN does nothing. `exec_flushVisit_first` is the clause for a device that still runs. -/
theorem not_fdbCommandsActOnTheTable : ¬ Obligations.FdbCommandsActOnTheTable := by
  unfold Obligations.FdbCommandsActOnTheTable
  intro h
  obtain ⟨note, hoff⟩ : ∃ note, (((learnsBehind note).fdbMet 0 5 0 0).flushBegun 0).powered = false :=
    ⟨longNote, (State.flushBegun_powered _ 0).trans learnsBehind_sleeps⟩
  obtain ⟨-, -, -, -, -, -, -, hflush⟩ := h (learnsBehind note) 0 0 (learnsBehind_canonical _) (learnsBehind_mayOrder _)
  obtain ⟨t, ht, hbegun, -, -, hvisit⟩ := hflush (learnsBehind_err note)
  obtain ⟨u, hu, hnext, -⟩ := hvisit _ false hbegun
  obtain rfl := Host.Outcome.next.inj ((exec_fdbFlush (i := 0) (p := 0) (learnsBehind_mayOrder _) (learnsBehind_err note)).symm.trans ht)
  have hstays : exec (.flushVisit 0 false) (((learnsBehind note).fdbMet 0 5 0 0).flushBegun 0) = .next (((learnsBehind note).fdbMet 0 5 0 0).flushBegun 0) :=
    congrArg Host.Outcome.next (if_neg (by rw [hoff]; decide))
  obtain rfl := Host.Outcome.next.inj (hstays.symm.trans hu)
  exact Nat.zero_ne_one (congrArg FlushSt.next (Option.some.inj (hbegun.symm.trans hnext)))

end Sys2Proof.Machine
end

section
/-! SUPPORT. Learning requests applied, and notifications read (08 R177, R181 to R183). -/

namespace Sys2Proof.Machine

section
variable {s : State} {p : Fin 2} {r : LearnReq} {rest : List LearnReq}

theorem exec_learnApply_idle (hp : s.powered = true) (h : (s.pp p.val).learnQ = [] ∨ (s.pp p.val).flush ≠ none) : exec (.learnApply p) s = .next s :=
  (next_live s _ hp).trans (congrArg _ (State.learnApply_idle h))

/-- The state in which the oldest request of pipeline `p` has been taken out. -/
def State.requestTaken (s : State) (p : Nat) (rest : List LearnReq) : State := s.setPp p { s.pp p with learnQ := rest }

theorem exec_learnApply (hp : s.powered = true) (hf : (s.pp p.val).flush = none) (hq : (s.pp p.val).learnQ = r :: rest) :
    exec (.learnApply p) s = .next ((s.requestTaken p.val rest).learnJudge p.val r) :=
  (next_live s _ hp).trans (congrArg _ (State.learnApply_next hf hq))

theorem State.requestTaken_canon (hc : s.Canonical) : (s.requestTaken p.val rest).Canonical := State.setPp_canon hc _ _

theorem State.requestTaken_learnQ (hc : s.Canonical) (r : LearnReq) : (((s.requestTaken p.val rest).learnJudge p.val r).pp p.val).learnQ = rest :=
  (State.SameWork.learnJudge (State.requestTaken_canon hc) r).learnQ.trans (congrArg PipeSt.learnQ (pp_setPp s p.val _ hc))

theorem State.requestTaken_fdb : (s.requestTaken p.val rest).fdb = s.fdb := rfl

variable (hc : s.Canonical) (hp : s.powered = true) (hf : (s.pp p.val).flush = none) (hq : (s.pp p.val).learnQ = r :: rest)
include hc hp hf hq

theorem exec_learnApply_new (hl : s.fdbFind p.val r.mac r.vid = none) (hroom : place 12 (s.fdbKeyAt p.val) (fdbKey r.mac r.vid) ≠ none) :
    ∃ l ∈ keyLocs 12 (fdbKey r.mac r.vid), ∃ t : State, exec (.learnApply p) s = .next t ∧ (t.pp p.val).learnQ = rest ∧
      t.fdbAt p.val l = some { mac := r.mac, vid := r.vid, fixed := false, dest := r.dest } := by
  obtain ⟨u, hu⟩ := State.fdbPlace_isSome (s := s.requestTaken p.val rest) (e := { mac := r.mac, vid := r.vid, fixed := false, dest := r.dest }) hroom
  obtain ⟨l, hmem, hnew, -⟩ := State.fdbPlace_spec (State.requestTaken_canon hc) hu
  refine ⟨l, hmem, _, exec_learnApply hp hf hq, State.requestTaken_learnQ hc r, ?_⟩
  rw [State.learnJudge_new (s := s.requestTaken p.val rest) hl hu]
  exact (table_fdbAt_congr _ _ _ _ ((State.notify_fdb ..).trans (State.bump_fdb ..))).trans hnew

theorem exec_learnApply_full (hl : s.fdbFind p.val r.mac r.vid = none) (hroom : place 12 (s.fdbKeyAt p.val) (fdbKey r.mac r.vid) = none) :
    ∃ t : State, exec (.learnApply p) s = .next t ∧ (t.pp p.val).learnQ = rest ∧ t.fdb = s.fdb ∧
      fldGet (t.reg (EVT_SRC_STAT.a (41 + p.val))) EVT_SRC_STAT.pend = 1 := by
  refine ⟨_, exec_learnApply hp hf hq, State.requestTaken_learnQ hc r, ?_⟩
  rw [State.learnJudge_full (s := s.requestTaken p.val rest) hl (State.fdbPlace_none hroom)]
  exact ⟨(State.raise_fdb ..).trans (State.bump_fdb ..), pend_raise _ _ _ _ ((State.bump_keeps (State.Keeps.refl _) _ _).canon (State.requestTaken_canon hc))⟩

/-- R181, R182: a request for a known address, with what it makes of the entry that it finds once a freeze that has run out is over. -/
theorem exec_learnApply_known {l : Nat} {e : FdbEnt} (hl : s.fdbFind p.val r.mac r.vid = some l) (he : (s.freezeEnd p.val l).fdbAt p.val l = some e) :
    let n := if s.winOpen e then e.moves + 1 else 1
    let w := s.f (FDB_MOVE_CFG.a p.val) FDB_MOVE_CFG.move_win
    ∃ t : State, exec (.learnApply p) s = .next t ∧ (t.pp p.val).learnQ = rest ∧
      (∀ k, k ≠ p.val * 32768 + l → Cells.get (fun _ => none) t.fdb k = Cells.get (fun _ => none) s.fdb k) ∧
      (e.dest = r.dest → t.fdbAt p.val l = some { e with hit := true, stale := false }) ∧
      (e.dest ≠ r.dest → e.fixed = true → t.fdbAt p.val l = some e ∧ fldGet (t.reg (EVT_SRC_STAT.a (41 + p.val))) EVT_SRC_STAT.pend = 1) ∧
      (e.dest ≠ r.dest → e.fixed = false → e.frozen = true → t.fdbAt p.val l = some e) ∧
      (e.dest ≠ r.dest → e.fixed = false → e.frozen = false → (w = 0 ∨ n ≤ s.f (FDB_MOVE_CFG.a p.val) FDB_MOVE_CFG.move_max) →
        t.fdbAt p.val l = some { e with dest := r.dest, hit := true, stale := false, moves := n, win := if w = 0 then none else if s.winOpen e then e.win else some (s.now + msTicks w) }) ∧
      (e.dest ≠ r.dest → e.fixed = false → e.frozen = false → w ≠ 0 → s.f (FDB_MOVE_CFG.a p.val) FDB_MOVE_CFG.move_max < n →
        t.fdbAt p.val l = some { e with frozen := true, frzEnd := s.now + s.f (FDB_MOVE_CFG.a p.val) FDB_MOVE_CFG.freeze_time * 2500000 } ∧
        fldGet (t.reg (EVT_SRC_STAT.a (41 + p.val))) EVT_SRC_STAT.pend = 1) := by
  have hcu := State.requestTaken_canon (p := p) (rest := rest) hc
  have he' : ((s.requestTaken p.val rest).freezeEnd p.val l).fdbAt p.val l = some e :=
    (table_fdbAt_congr _ _ _ _ (State.freezeEnd_fdb_congr State.requestTaken_fdb rfl)).trans he
  exact ⟨_, exec_learnApply hp hf hq, State.requestTaken_learnQ hc r, State.learnJudge_fdb_ne hcu hl he', State.learnJudge_refreshed hcu hl he',
    State.learnJudge_fixed hcu hl he', State.learnJudge_frozen hcu hl he', fun hd hx hz => (State.learnJudge_moves hcu hl he' hd hx hz).1,
    fun hd hx hz => (State.learnJudge_moves hcu hl he' hd hx hz).2⟩

end

/-! ### FDB_LNOT (R183) -/

section
variable {s : State} {i : Fin 3} {p : Fin 2}

theorem State.lnotRead_only (s : State) (p : Nat) : s.lnotRead p = { s with regs := (s.lnotRead p).regs, pipe := (s.lnotRead p).pipe } := by
  unfold State.lnotRead
  rw [State.lnotShow_same]
  rfl

theorem State.readData_lnot (s : State) (p : Fin 2) (mb : MbxRow) (hn : mb.n = 4) : s.readData mb (mbxData (fdbLnot p.val) 3) 3 =
    if fldGet (s.reg (fdbLnot p.val + 4)) MBX_STAT.valid = 0 then s.setF (fdbLnot p.val + 4) MBX_STAT.stale_read 1
    else (s.setF (fdbLnot p.val + 4) MBX_STAT.valid 0).lnotRead p.val := by
  have hm : mbxData (fdbLnot p.val) 3 - 0x20 - 4 * 3 = fdbLnot p.val := by unfold mbxData; omega
  unfold State.readData
  dsimp only
  rw [hm, hn, if_pos (rfl : 3 + 1 = 4), table_lnotIf]

theorem exec_learnNotifyRead (hp : s.powered = true) (hr : s.roleOf i.val ≠ 0) : exec (.learnNotifyRead i p) s =
    .next ((if fldGet (s.reg (fdbLnot p.val + 4)) MBX_STAT.valid = 0 then s.setF (fdbLnot p.val + 4) MBX_STAT.stale_read 1
      else (s.setF (fdbLnot p.val + 4) MBX_STAT.valid 0).lnotRead p.val).emit (.readData i.val (s.dw (fdbLnot p.val) 3))) := by
  obtain ⟨mb, hk, hrd, hn⟩ := table_kindOf_lnot3 p
  obtain ⟨h4, hlt⟩ := table_lnotA p
  have hmay : s.mayRead i.val (mbxData (fdbLnot p.val) 3) = true := by
    unfold State.mayRead
    rw [bne_iff_ne.2 hr]
    rfl
  refine (next_live s _ hp).trans (congrArg _ ?_)
  rw [busRead_data s i.val _ (fdbLnot p.val) 3 mb h4 hlt rfl hk hrd hmay, State.readData_lnot s p mb hn]
  rfl

theorem State.lnotRead_empty (hn : (s.pp p.val).notif.drop 1 = []) (hc : s.Canonical) (a : Nat) : (s.lnotRead p.val).reg a = s.reg a := by
  unfold State.lnotRead State.lnotShow
  dsimp only
  rw [pp_setPp _ _ _ hc]
  dsimp only
  rw [hn]
  rfl

/-- R183: a read of the last word of a notification that shows takes it out, and the next one shows. -/
theorem exec_learnNotifyRead_shown (hc : s.Canonical) (hp : s.powered = true) (hr : s.roleOf i.val ≠ 0) (hv : fldGet (s.reg (fdbLnot p.val + 4)) MBX_STAT.valid = 1) :
    ∃ t : State, exec (.learnNotifyRead i p) s = .next t ∧ t.out = .readData i.val (s.dw (fdbLnot p.val) 3) :: s.out ∧
      (t.pp p.val).notif = (s.pp p.val).notif.drop 1 ∧ t.fdb = s.fdb ∧ (∀ e rest, (s.pp p.val).notif.drop 1 = e :: rest → t.Shows (fdbLnot p.val) e) ∧
      ((s.pp p.val).notif.drop 1 = [] → fldGet (t.reg (fdbLnot p.val + 4)) MBX_STAT.valid = 0) ∧ t = { s with regs := t.regs, pipe := t.pipe, out := t.out } := by
  have hcu : (s.setF (fdbLnot p.val + 4) MBX_STAT.valid 0).Canonical := (State.setF_keeps (State.Keeps.refl s) _ _ _).canon hc
  have hclear : fldGet ((s.setF (fdbLnot p.val + 4) MBX_STAT.valid 0).reg (fdbLnot p.val + 4)) MBX_STAT.valid = 0 := by
    rw [reg_setF _ _ _ _ hc.regs]
    exact fldGet_fldSet _ _ _ (by decide)
  obtain ⟨hnotif, hout, hshows⟩ := table_lnotRead_spec _ p.val hcu hclear
  have honly := State.lnotRead_only (s.setF (fdbLnot p.val + 4) MBX_STAT.valid 0) p.val
  refine ⟨_, exec_learnNotifyRead hp hr, ?_⟩
  rw [if_neg (by rw [hv]; decide)]
  refine ⟨congrArg (List.cons _) hout, hnotif, ?_, hshows, fun he => ?_, ?_⟩
  · exact (State.emit_fdb ..).trans (by rw [honly]; rfl)
  · exact (congrArg (fun w => fldGet w MBX_STAT.valid) (State.lnotRead_empty (s := s.setF (fdbLnot p.val + 4) MBX_STAT.valid 0) he hcu _)).trans hclear
  · generalize (s.setF (fdbLnot p.val + 4) MBX_STAT.valid 0).lnotRead p.val = t at honly
    rw [honly]
    rfl

theorem exec_learnNotifyRead_stale (hc : s.Canonical) (hp : s.powered = true) (hr : s.roleOf i.val ≠ 0) (hv : fldGet (s.reg (fdbLnot p.val + 4)) MBX_STAT.valid = 0) :
    ∃ t : State, exec (.learnNotifyRead i p) s = .next t ∧ fldGet (t.reg (fdbLnot p.val + 4)) MBX_STAT.stale_read = 1 ∧
      t = { s with regs := t.regs, out := .readData i.val (s.dw (fdbLnot p.val) 3) :: s.out } := by
  refine ⟨_, exec_learnNotifyRead hp hr, ?_⟩
  rw [if_pos hv]
  refine ⟨?_, rfl⟩
  rw [State.reg_emit, reg_setF _ _ _ _ hc.regs]
  exact fldGet_fldSet _ _ _ (by decide)

end

end Sys2Proof.Machine
end

section
/-! SUPPORT. Windows, freezes, aging, parity and flush: what a visit does to its slot (08 R174, R182, R185, R187). -/

namespace Sys2Proof.Machine

/-! ### Move windows and freezes (R182) -/

theorem State.setFdb_raise_only (s : State) (p l : Nat) (x : Option FdbEnt) (n c i : Nat) : let t := (s.setFdb p l x).raise n c i
    t = { s with fdb := t.fdb, regs := t.regs, evt := t.evt, out := t.out, pcie := { s.pcie with pba := t.pcie.pba } } := by
  have h := State.raise_same (s.setFdb p l x) n c i
  generalize (s.setFdb p l x).raise n c i = t at h ⊢
  dsimp only
  rw [h]
  rfl

section
variable {s : State} {p : Fin 2} {l : Fin 32768} {e : FdbEnt} (hc : s.Canonical) (hp : s.powered = true) (he : s.fdbAt p.val l.val = some e)
include hp he

theorem exec_moveWindowEnd_open (h : e.win = none ∨ ∃ w, e.win = some w ∧ s.now < w) : exec (.moveWindowEnd p l) s = .next s := by
  refine (next_live s _ hp).trans (congrArg _ ?_)
  unfold State.moveWindowEnd
  rw [he]
  dsimp only
  rcases h with h | ⟨w, hw, hlt⟩
  · rw [h]
  · rw [hw]
    exact if_neg (Nat.not_le_of_lt hlt)

theorem exec_freezeEnd_running (h : e.frozen = false ∨ s.now < e.frzEnd) : exec (.freezeEnd p l) s = .next s :=
  (next_live s _ hp).trans (congrArg _ (State.freezeEnd_running he h))

include hc

theorem exec_moveWindowEnd_over {w : Nat} (hw : e.win = some w) (ht : w ≤ s.now) : ∃ t : State, exec (.moveWindowEnd p l) s = .next t ∧
    t.fdbAt p.val l.val = some { e with win := none, moves := 0 } ∧
    (∀ k, k ≠ p.val * 32768 + l.val → Cells.get (fun _ => none) t.fdb k = Cells.get (fun _ => none) s.fdb k) ∧ t = { s with fdb := t.fdb, regs := t.regs } := by
  have hrun : s.moveWindowEnd p.val l.val = s.setFdb p.val l.val (some { e with win := none, moves := 0 }) := by
    unfold State.moveWindowEnd
    rw [he]
    dsimp only
    rw [hw]
    exact if_pos ht
  exact ⟨_, (next_live s _ hp).trans (congrArg _ hrun), fdbAt_setFdb _ _ _ _ hc, fun k hk => fdb_setFdb_ne _ _ _ _ _ hk, rfl⟩

theorem exec_freezeEnd_over (hf : e.frozen = true) (ht : e.frzEnd ≤ s.now) : ∃ t : State, exec (.freezeEnd p l) s = .next t ∧
    t.fdbAt p.val l.val = some { e with frozen := false, hit := true, stale := false, win := none, moves := 0 } ∧
    fldGet (t.reg (EVT_SRC_STAT.a (41 + p.val))) EVT_SRC_STAT.pend = 1 ∧
    (∀ k, k ≠ p.val * 32768 + l.val → Cells.get (fun _ => none) t.fdb k = Cells.get (fun _ => none) s.fdb k) ∧
    t = { s with fdb := t.fdb, regs := t.regs, evt := t.evt, out := t.out, pcie := { s.pcie with pba := t.pcie.pba } } := by
  refine ⟨_, next_live s _ hp, ?_⟩
  rw [State.freezeEnd_over he hf ht]
  refine ⟨(table_fdbAt_congr _ _ _ _ (State.raise_fdb ..)).trans (fdbAt_setFdb _ _ _ _ hc), pend_raise _ _ _ _ (State.setFdb_canon hc _ _ _), fun k hk => ?_,
    State.setFdb_raise_only _ _ _ _ _ _ _⟩
  rw [State.raise_fdb, fdb_setFdb_ne _ _ _ _ _ hk]

end

/-! ### Aging (R185) -/

section
variable {s : State} {p : Fin 2} {l : Nat}

/-- What the sweeper makes of an entry. -/
def FdbEnt.aged (e : FdbEnt) : Option FdbEnt :=
  if e.fixed = true ∨ e.frozen = true then some e
  else if e.hit = true then some { e with hit := false, stale := false } else if e.stale = false then some { e with stale := true } else none

theorem State.ageSlot_empty (h : s.fdbAt p.val l = none) : s.ageSlot p.val l = s := by
  unfold State.ageSlot
  rw [State.freezeEnd_empty h]
  dsimp only
  rw [h]

/-- The sweeper acts on a slot as it stands when a freeze there that has run out is over. -/
theorem State.ageSlot_fdb {e : FdbEnt} (hc : s.Canonical) (he : (s.freezeEnd p.val l).fdbAt p.val l = some e) :
    (s.ageSlot p.val l).fdbAt p.val l = e.aged ∧ (∀ k, k ≠ p.val * 32768 + l → Cells.get (fun _ => none) (s.ageSlot p.val l).fdb k = Cells.get (fun _ => none) s.fdb k) ∧
      State.SameWork p.val s (s.ageSlot p.val l) := by
  have hcf := State.freezeEnd_canon hc p.val l
  have hrest : ∀ x k, k ≠ p.val * 32768 + l → Cells.get (fun _ => none) ((s.freezeEnd p.val l).setFdb p.val l x).fdb k = Cells.get (fun _ => none) s.fdb k :=
    fun x k hk => (fdb_setFdb_ne _ _ _ _ _ hk).trans (State.freezeEnd_fdb_ne k hk)
  have hwork : ∀ x, State.SameWork p.val s ((s.freezeEnd p.val l).setFdb p.val l x) := fun x => (State.SameWork.freezeEnd s l).trans (State.SameWork.setFdb _ _ _)
  unfold State.ageSlot FdbEnt.aged
  dsimp only
  rw [he]
  dsimp only
  split
  · exact ⟨he, fun k hk => State.freezeEnd_fdb_ne k hk, State.SameWork.freezeEnd s l⟩
  · split
    · exact ⟨fdbAt_setFdb _ _ _ _ hcf, hrest _, hwork _⟩
    · split
      next hst =>
        rw [if_pos (by simpa using hst)]
        exact ⟨fdbAt_setFdb _ _ _ _ hcf, hrest _, hwork _⟩
      next hst =>
        rw [if_neg (by simpa using hst)]
        refine ⟨(table_fdbAt_congr _ _ _ _ ((State.notify_fdb ..).trans (State.bump_fdb ..))).trans (fdbAt_setFdb _ _ _ _ hcf), fun k hk => ?_, ?_⟩
        · rw [State.notify_fdb, State.bump_fdb]
          exact hrest none k hk
        · exact ((hwork none).trans (State.SameWork.bump _ _ _)).trans
            (State.SameWork.notify ((State.bump_keeps (State.setFdb_keeps (State.Keeps.refl _) _ _ _) _ _).canon hcf) _ _ _)

theorem exec_agingVisit_idle (hp : s.powered = true) (h : s.on (FDB_AGE_CFG.a p.val) FDB_AGE_CFG.age_en = false ∨ s.now * 32768 < (s.pp p.val).sweepAt) :
    exec (.agingVisit p) s = .next s := by
  refine (next_live s _ hp).trans (congrArg _ (if_neg fun ⟨hon, hdue⟩ => ?_))
  rcases h with h | h
  · exact Bool.false_ne_true (h.symm.trans hon)
  · omega

/-- The state in which the sweeper of pipeline `p` has moved on. -/
def State.sweptOn (s : State) (p : Nat) : State :=
  s.setPp p { s.pp p with sweep := ((s.pp p).sweep + 1) % 32768, sweepAt := (s.pp p).sweepAt + s.agePeriod p * 250000000 }

theorem exec_agingVisit (hp : s.powered = true) (hon : s.on (FDB_AGE_CFG.a p.val) FDB_AGE_CFG.age_en = true) (hdue : (s.pp p.val).sweepAt ≤ s.now * 32768) :
    exec (.agingVisit p) s = .next ((s.sweptOn p.val).ageSlot p.val (s.pp p.val).sweep) :=
  (next_live s _ hp).trans (congrArg _ (if_pos ⟨hon, hdue⟩))

theorem State.sweptOn_freezeEnd (l : Nat) : ((s.sweptOn p.val).freezeEnd p.val l).fdbAt p.val l = (s.freezeEnd p.val l).fdbAt p.val l :=
  table_fdbAt_congr _ _ _ _ (State.freezeEnd_fdb_congr rfl rfl)

theorem exec_agingVisit_due (hc : s.Canonical) (hp : s.powered = true) (hon : s.on (FDB_AGE_CFG.a p.val) FDB_AGE_CFG.age_en = true)
    (hdue : (s.pp p.val).sweepAt ≤ s.now * 32768) : let x := s.pp p.val
    ∃ t : State, exec (.agingVisit p) s = .next t ∧ (t.pp p.val).sweep = (x.sweep + 1) % 32768 ∧ (t.pp p.val).sweepAt = x.sweepAt + s.agePeriod p.val * 250000000 ∧
      (∀ k, k ≠ p.val * 32768 + x.sweep → Cells.get (fun _ => none) t.fdb k = Cells.get (fun _ => none) s.fdb k) ∧
      (s.fdbAt p.val x.sweep = none → t.fdbAt p.val x.sweep = none) ∧
      ∀ e, (s.freezeEnd p.val x.sweep).fdbAt p.val x.sweep = some e → t.fdbAt p.val x.sweep = e.aged := by
  intro x
  have hcs : (s.sweptOn p.val).Canonical := State.setPp_canon hc _ _
  have hpp := pp_setPp s p.val { x with sweep := (x.sweep + 1) % 32768, sweepAt := x.sweepAt + s.agePeriod p.val * 250000000 } hc
  have hsweep : ((s.sweptOn p.val).pp p.val).sweep = (x.sweep + 1) % 32768 := congrArg PipeSt.sweep hpp
  have hat : ((s.sweptOn p.val).pp p.val).sweepAt = x.sweepAt + s.agePeriod p.val * 250000000 := congrArg PipeSt.sweepAt hpp
  refine ⟨_, exec_agingVisit hp hon hdue, ?_⟩
  cases h : s.fdbAt p.val x.sweep with
  | none =>
    have hfree : (s.freezeEnd p.val x.sweep).fdbAt p.val x.sweep = none := by rw [State.freezeEnd_empty h, h]
    rw [State.ageSlot_empty (s := s.sweptOn p.val) h]
    exact ⟨hsweep, hat, fun _ _ => rfl, fun _ => h, fun e he => absurd (hfree.symm.trans he) nofun⟩
  | some e0 =>
    obtain ⟨e, he⟩ := State.freezeEnd_slot hc h
    obtain ⟨hslot, hrest, hwork⟩ := State.ageSlot_fdb hcs ((State.sweptOn_freezeEnd x.sweep).trans he)
    refine ⟨hwork.sweep.trans hsweep, hwork.sweepAt.trans hat, hrest, nofun, fun e' he' => ?_⟩
    obtain rfl := Option.some.inj (he.symm.trans he')
    exact hslot

end

/-! ### Parity (R187) -/

/-- R187: the location of a bad slot noted where none is, and its event. -/
def State.badSlotNoted (s : State) (p a l c i : Nat) : State :=
  (if fldGet (s.reg a) FDB_PAR_LOC.valid = 1 then s else s.setFs a [(FDB_PAR_LOC.valid, 1), (FDB_PAR_LOC.loc, l)]).raise (41 + p) c i

theorem State.fdbParity_eq (s : State) (p l : Nat) :
    s.fdbParity p l = ((s.setFdb p l none).bump (FDB_CNT.a p 7) FDB_CNT.count).badSlotNoted p (FDB_PAR_LOC.a p) l 5 (l / 4 % 4096) := rfl

theorem State.flwParity_eq (s : State) (p l : Nat) :
    s.flwParity p l = ((s.setFlw p l none).bump (FDB_CNT.a p 7) FDB_CNT.count).badSlotNoted p (FLW_PAR_LOC.a p) l 6 (l / 4 % 2048) := rfl

theorem State.badSlotNoted_facts {s : State} {p a l : Nat} (hc : s.Canonical) (ha : a ≠ EVT_SRC_STAT.a (41 + p)) (hl : l < 32768) (c i : Nat) :
    let t := s.badSlotNoted p a l c i
    fldGet (t.reg (EVT_SRC_STAT.a (41 + p))) EVT_SRC_STAT.pend = 1 ∧
      (fldGet (s.reg a) FDB_PAR_LOC.valid = 0 → fldGet (t.reg a) FDB_PAR_LOC.valid = 1 ∧ fldGet (t.reg a) FDB_PAR_LOC.loc = l) ∧
      t = { s with regs := t.regs, evt := t.evt, out := t.out, pcie := { s.pcie with pba := t.pcie.pba } } := by
  unfold State.badSlotNoted
  dsimp only
  split
  next hv => exact ⟨pend_raise _ _ _ _ hc, fun h0 => absurd (hv.symm.trans h0) (by decide), State.raise_same _ _ _ _⟩
  next =>
    refine ⟨pend_raise _ _ _ _ ((State.setFs_keeps (State.Keeps.refl s) _ _).canon hc), fun _ => ?_, State.raise_same _ _ _ _⟩
    rw [State.reg_raise_ne _ _ _ _ _ ha, reg_setFs _ _ _ hc.regs]
    simp only [List.foldl]
    refine ⟨?_, ?_⟩
    · rw [fldGet_fldSet_ne _ _ _ _ (by decide) (by decide)]
      exact fldGet_fldSet _ _ _ (by decide)
    · rw [fldGet_fldSet _ _ _ (by decide)]
      exact Nat.mod_eq_of_lt hl

section
variable {s : State} {p : Fin 2} {l : Fin 32768}

theorem exec_tableParityScan_good (hp : s.powered = true) (flow : Bool) : exec (.tableParityScan p flow false l) s = .next s := next_live s _ hp

variable (hc : s.Canonical) (hp : s.powered = true)
include hc hp

theorem exec_tableParityScan_fdb : ∃ t : State, exec (.tableParityScan p false true l) s = .next t ∧ t.fdbAt p.val l.val = none ∧
    (∀ k, k ≠ p.val * 32768 + l.val → Cells.get (fun _ => none) t.fdb k = Cells.get (fun _ => none) s.fdb k) ∧ fldGet (t.reg (EVT_SRC_STAT.a (41 + p.val))) EVT_SRC_STAT.pend = 1 ∧
    (fldGet (s.reg (FDB_PAR_LOC.a p.val)) FDB_PAR_LOC.valid = 0 → fldGet (t.reg (FDB_PAR_LOC.a p.val)) FDB_PAR_LOC.valid = 1 ∧ fldGet (t.reg (FDB_PAR_LOC.a p.val)) FDB_PAR_LOC.loc = l.val) ∧
    t = { s with fdb := t.fdb, regs := t.regs, evt := t.evt, out := t.out, pcie := { s.pcie with pba := t.pcie.pba } } := by
  have hcb := (State.bump_keeps (State.setFdb_keeps (State.Keeps.refl s) p.val l.val none) (FDB_CNT.a p.val 7) FDB_CNT.count).canon hc
  have hreg : ((s.setFdb p.val l.val none).bump (FDB_CNT.a p.val 7) FDB_CNT.count).reg (FDB_PAR_LOC.a p.val) = s.reg (FDB_PAR_LOC.a p.val) := by
    refine (State.reg_setF_ne _ _ _ _ _ ?_).trans (table_reg_setFdb_ne _ _ _ _ _ ?_)
    · unfold FDB_PAR_LOC.a FDB_CNT.a
      omega
    · unfold FDB_PAR_LOC.a FDB_STAT.a
      omega
  obtain ⟨hpend, hloc, honly⟩ := State.badSlotNoted_facts (p := p.val) (a := FDB_PAR_LOC.a p.val) hcb (by unfold FDB_PAR_LOC.a EVT_SRC_STAT.a; omega) l.isLt 5 (l.val / 4 % 4096)
  rw [hreg] at hloc
  refine ⟨_, (next_live s _ hp).trans (congrArg _ (State.fdbParity_eq s p.val l.val)), ?_⟩
  generalize ((s.setFdb p.val l.val none).bump (FDB_CNT.a p.val 7) FDB_CNT.count).badSlotNoted p.val (FDB_PAR_LOC.a p.val) l.val 5 (l.val / 4 % 4096) = t at hpend hloc honly ⊢
  have hfdb : t.fdb = (s.setFdb p.val l.val none).fdb := by rw [honly]; rfl
  refine ⟨(table_fdbAt_congr _ _ _ _ hfdb).trans (fdbAt_setFdb _ _ _ _ hc), fun k hk => by rw [hfdb, fdb_setFdb_ne _ _ _ _ _ hk], hpend, hloc, ?_⟩
  rw [honly]
  rfl

theorem exec_tableParityScan_flw (hl : l.val < 16384) : ∃ t : State, exec (.tableParityScan p true true l) s = .next t ∧ t.flwAt p.val l.val = none ∧
    (∀ k, k ≠ p.val * 16384 + l.val → Cells.get (fun _ => none) t.flw k = Cells.get (fun _ => none) s.flw k) ∧ fldGet (t.reg (EVT_SRC_STAT.a (41 + p.val))) EVT_SRC_STAT.pend = 1 ∧
    (fldGet (s.reg (FLW_PAR_LOC.a p.val)) FLW_PAR_LOC.valid = 0 → fldGet (t.reg (FLW_PAR_LOC.a p.val)) FLW_PAR_LOC.valid = 1 ∧ fldGet (t.reg (FLW_PAR_LOC.a p.val)) FLW_PAR_LOC.loc = l.val) ∧
    t = { s with flw := t.flw, regs := t.regs, evt := t.evt, out := t.out, pcie := { s.pcie with pba := t.pcie.pba } } := by
  have hcb := (State.bump_keeps (State.setFlw_keeps (State.Keeps.refl s) p.val l.val none) (FDB_CNT.a p.val 7) FDB_CNT.count).canon hc
  have hreg : ((s.setFlw p.val l.val none).bump (FDB_CNT.a p.val 7) FDB_CNT.count).reg (FLW_PAR_LOC.a p.val) = s.reg (FLW_PAR_LOC.a p.val) := by
    refine State.reg_setF_ne _ _ _ _ _ ?_
    unfold FLW_PAR_LOC.a FDB_CNT.a
    omega
  have hrun : s.flwParity p.val (l.val % 16384) = s.flwParity p.val l.val := by rw [Nat.mod_eq_of_lt hl]
  obtain ⟨hpend, hloc, honly⟩ := State.badSlotNoted_facts (p := p.val) (a := FLW_PAR_LOC.a p.val) hcb (by unfold FLW_PAR_LOC.a EVT_SRC_STAT.a; omega) l.isLt 6 (l.val / 4 % 2048)
  rw [hreg] at hloc
  refine ⟨_, (next_live s _ hp).trans (congrArg _ (hrun.trans (State.flwParity_eq s p.val l.val))), ?_⟩
  generalize ((s.setFlw p.val l.val none).bump (FDB_CNT.a p.val 7) FDB_CNT.count).badSlotNoted p.val (FLW_PAR_LOC.a p.val) l.val 6 (l.val / 4 % 2048) = t at hpend hloc honly ⊢
  have hflw : t.flw = (s.setFlw p.val l.val none).flw := by rw [honly]; rfl
  refine ⟨(table_flwAt_congr _ _ _ _ hflw).trans (table_flwAt_setFlw _ _ _ _ hc), fun k hk => by rw [hflw, table_flw_setFlw_ne _ _ _ _ _ hk], hpend, hloc, ?_⟩
  rw [honly]
  rfl

end

/-! ### The flush (R174) -/

section
variable {s : State} {p : Fin 2} (hp : s.powered = true)
include hp

theorem exec_flushVisit (again : Bool) : exec (.flushVisit p again) s = .next (s.flushVisit p.val again) := next_live s _ hp

theorem exec_flushVisit_idle (hf : (s.pp p.val).flush = none) (again : Bool) : exec (.flushVisit p again) s = .next s := by
  refine (exec_flushVisit hp again).trans (congrArg _ ?_)
  unfold State.flushVisit
  rw [hf]

end

/-- Settles O36: a request by the cases of its judgement, a notification by what its last read leaves, each visit by what it does to its slot. -/
theorem learningAndSweepsVisitTheSlots : Obligations.LearningAndSweepsVisitTheSlots := by
  unfold Obligations.LearningAndSweepsVisitTheSlots
  refine ⟨fun s p hc hp => ⟨exec_learnApply_idle hp, fun r rest hf hq => ⟨fun hl => ⟨exec_learnApply_new hc hp hf hq hl, exec_learnApply_full hc hp hf hq hl⟩,
      fun l e hl he => exec_learnApply_known hc hp hf hq hl he⟩, fun i hr => ⟨exec_learnNotifyRead_shown hc hp hr, exec_learnNotifyRead_stale hc hp hr⟩⟩,
    fun s p hc hp => ⟨fun l e he => ⟨fun w => exec_moveWindowEnd_over hc hp he, exec_moveWindowEnd_open hp he, exec_freezeEnd_over hc hp he, exec_freezeEnd_running hp he⟩,
      ⟨exec_agingVisit_idle hp, exec_agingVisit_due hc hp⟩, fun l flow => exec_tableParityScan_good hp flow, fun l => exec_tableParityScan_fdb hc hp,
      fun l => exec_tableParityScan_flw hc hp, exec_flushVisit_idle hp, fun f again hf => ?_⟩⟩
  obtain ⟨hslot, hnone, hrest⟩ := State.flushVisit_slot hc hf again
  refine ⟨_, exec_flushVisit hp again, ?_, hrest, State.flushVisit_goesOn hc hf again, State.flushVisit_completes hc hf again⟩
  cases h : s.fdbAt p.val f.next with
  | none => exact hnone h
  | some x => exact hslot x h

end Sys2Proof.Machine
end

noncomputable section
/-! SUPPORT. A read of Mere, and an uncorrectable error that it meets (09 R193). -/

namespace Sys2Proof.Machine

theorem State.mereRead_none (s : State) (id corr : Nat) : s.mereRead id corr none = s.bumpN QM_MERE_ECC.a QM_MERE_ECC.corr corr := rfl

theorem State.bumpN_aside {K : Nat → Prop} (s : State) {a : Nat} (f : Fld) (n : Nat) (ha : ¬K a) : s.Aside K (s.bumpN a f n) :=
  (State.Aside.refl s).setF f _ ha

theorem State.cellBank_aside {K : Nat → Prop} (s : State) (f : Frame) (k : Nat) : s.Aside K (s.cellBank f k).2 := by
  unfold State.cellBank
  split
  · exact State.Aside.refl s
  · exact ⟨rfl, rfl, rfl, rfl, rfl, fun _ _ => rfl⟩

/-- A copy that will end in error. -/
def Copy.marked (c : Copy) : Copy := { c with mark := true }

/-- What an error in a frame does to one of its copies: a waiting one is dropped, one that has begun is marked. -/
def State.errCopy (u : State) (c : Copy) : State := if c.st = 0 then u.copyGone c else u.setCopy c.marked

theorem State.mem_setCopy {u : State} {x y : Copy} (h : y ∈ (u.setCopy x).copies) : y = x ∨ (y ∈ u.copies ∧ y.id ≠ x.id) := by
  obtain ⟨g, hg, rfl⟩ := List.mem_map.1 h
  by_cases hid : g.id = x.id
  · exact .inl (if_pos hid)
  · rw [if_neg hid]
    exact .inr ⟨hg, hid⟩

theorem State.mem_errCopy {u : State} {c x : Copy} (hx : x ∈ (u.errCopy c).copies) : (x ∈ u.copies ∧ x.id ≠ c.id) ∨ (x = c.marked ∧ c.st ≠ 0) := by
  by_cases hst : c.st = 0
  · rw [show u.errCopy c = u.copyGone c from if_pos hst, State.copyGone_copies] at hx
    exact .inl ⟨(List.mem_filter.1 hx).1, bne_iff_ne.1 (List.mem_filter.1 hx).2⟩
  · rw [show u.errCopy c = u.setCopy c.marked from if_neg hst] at hx
    exact (State.mem_setCopy hx).elim (fun he => .inr ⟨he, hst⟩) .inl

/-- Once every copy of a frame has met the error, none waits any more. -/
theorem State.errCopy_all (id : Nat) (l : List Copy) (u : State) (h : ∀ x ∈ u.copies, x.fid = id → x.st = 0 → x ∈ l) :
    ∀ x ∈ (l.foldl State.errCopy u).copies, x.fid = id → x.st ≠ 0 := by
  induction l generalizing u with
  | nil => exact fun x hx hid h0 => List.not_mem_nil (h x hx hid h0)
  | cons c l ih =>
    refine ih (u.errCopy c) fun x hx hid h0 => ?_
    obtain ⟨hu, hne⟩ | ⟨rfl, hst⟩ := State.mem_errCopy hx
    · exact List.mem_of_ne_of_mem (fun he => hne (congrArg Copy.id he)) (h x hu hid h0)
    · exact absurd h0 hst

/-- A copy that is left when copies have met the error was there before, as it was but for its mark. -/
theorem State.errCopy_old (l : List Copy) (u : State) (p : Nat → Nat → Nat → Prop) (hl : ∀ c ∈ l, p c.id c.fid c.st)
    (hu : ∀ c ∈ u.copies, p c.id c.fid c.st) : ∀ x ∈ (l.foldl State.errCopy u).copies, p x.id x.fid x.st := by
  induction l generalizing u with
  | nil => exact hu
  | cons c l ih =>
    refine ih (u.errCopy c) (fun y hy => hl y (List.mem_cons_of_mem _ hy)) fun x hx => ?_
    obtain ⟨hx, -⟩ | ⟨rfl, -⟩ := State.mem_errCopy hx
    · exact hu x hx
    · exact hl c List.mem_cons_self

theorem State.Outside.errCopies {K : Nat → Prop} {s0 s : State} (h : s0.Outside K s) (hpool : ¬K QM_POOL.a) (hpeat : ¬K QM_PEAT_STAT.a) (l : List Copy) :
    s0.Outside K (l.foldl State.errCopy s) :=
  foldl l (fun _ c hu => ite (hu.copyGone hpool hpeat c) (hu.setCopy _)) h

/-- The state in which an uncorrectable error in cell `k` of a frame has been counted and reported. -/
def State.eccNoted (s : State) (id k : Nat) : State :=
  ((s.cellBank (s.frame id) k).2.bump QM_MERE_ECC.a QM_MERE_ECC.uncorr).raise 43 1 (s.cellBank (s.frame id) k).1

theorem State.eccNoted_aside (s : State) (id k : Nat) : s.Aside (fun _ => False) (s.eccNoted id k) :=
  ((s.cellBank_aside _ _).bump _ fun x => x).raise _ _ fun x => x

theorem State.eccNoted_pend {s : State} (hc : s.Canonical) (id k : Nat) : fldGet ((s.eccNoted id k).reg (EVT_SRC_STAT.a 43)) EVT_SRC_STAT.pend = 1 :=
  pend_raise _ _ _ _ ((State.bump_keeps (State.cellBank_keeps (State.Keeps.refl s) _ _) _ _).canon hc)

theorem State.eccUncorr_eq (s : State) (id k : Nat) : s.eccUncorr id k = (s.copiesOf id).foldl State.errCopy (s.eccNoted id k) := by
  have hcopies : (s.cellBank (s.frame id) k).2.copiesOf id = s.copiesOf id := by
    unfold State.copiesOf
    rw [(s.cellBank_aside (K := fun _ => False) _ _).copies]
  rw [← hcopies]
  rfl

theorem State.eccUncorr_old {s : State} {id k : Nat} {p : Nat → Nat → Nat → Prop} (h : ∀ c ∈ s.copies, p c.id c.fid c.st) :
    ∀ x ∈ (s.eccUncorr id k).copies, p x.id x.fid x.st := by
  rw [State.eccUncorr_eq]
  refine State.errCopy_old _ _ p (fun c hc => h c (List.mem_filter.1 hc).1) ?_
  rw [(s.eccNoted_aside id k).copies]
  exact h

/-- R193: an uncorrectable error in a cell of a frame leaves no copy of it waiting, and raises EV43. -/
theorem State.eccUncorr_facts {s : State} (hc : s.Canonical) (id k : Nat) :
    (∀ x ∈ (s.eccUncorr id k).copies, x.fid = id → x.st ≠ 0) ∧ fldGet ((s.eccUncorr id k).reg (EVT_SRC_STAT.a 43)) EVT_SRC_STAT.pend = 1 := by
  rw [State.eccUncorr_eq]
  refine ⟨State.errCopy_all id _ _ fun x hx hid _ => List.mem_filter.2 ⟨?_, beq_iff_eq.2 hid⟩, ?_⟩
  · rw [← (s.eccNoted_aside id k).copies]
    exact hx
  · have hreg := (State.Outside.refl (K := fun a => a = EVT_SRC_STAT.a 43) (s.eccNoted id k)).errCopies (by decide) (by decide) (s.copiesOf id)
    rw [hreg.regs _ rfl]
    exact State.eccNoted_pend hc id k

theorem State.mereRead_lost {s : State} {id : Nat} (corr : Nat) (hlen : (s.frame id).len ≠ 0) :
    s.mereRead id corr (some 0) = (s.bumpN QM_MERE_ECC.a QM_MERE_ECC.corr corr).eccUncorr id 0 := by
  have h0 : 0 < cellsOf (s.frame id).len := Nat.div_pos (Nat.add_le_add_right (Nat.pos_of_ne_zero hlen) 255) (by decide)
  exact if_pos h0

/-- R193: the same for a read of the frame's first cell. -/
theorem State.mereRead_lost_facts {s : State} (hc : s.Canonical) {id : Nat} (corr : Nat) (hlen : (s.frame id).len ≠ 0) :
    (∀ x ∈ (s.mereRead id corr (some 0)).copies, x.fid = id → x.st ≠ 0) ∧
    fldGet ((s.mereRead id corr (some 0)).reg (EVT_SRC_STAT.a 43)) EVT_SRC_STAT.pend = 1 := by
  rw [State.mereRead_lost corr hlen]
  exact State.eccUncorr_facts ((State.bumpN_keeps (State.Keeps.refl s) _ _ _).canon hc) id 0

/-- R193: the copy that is read has gone where it waited. -/
theorem State.mereRead_lost_gone {s : State} (hc : s.Canonical) (hn : s.Numbered) {c : Copy} (hm : c ∈ s.copies) (hst : c.st = 0) (corr : Nat)
    (hlen : (s.frame c.fid).len ≠ 0) : ∀ x ∈ (s.mereRead c.fid corr (some 0)).copies, x.id ≠ c.id := by
  intro x hx hid
  obtain ⟨hnone, -⟩ := State.mereRead_lost_facts hc corr hlen
  have hold : ∀ y ∈ s.copies, y.id = c.id → y.fid = c.fid ∧ y.st = 0 := fun y hy he => by
    rw [copy_unique hn.2.2.2 hm hy he]
    exact ⟨rfl, hst⟩
  rw [State.mereRead_lost corr hlen] at hx hnone
  obtain ⟨hfid, h0⟩ := State.eccUncorr_old (s := s.bumpN QM_MERE_ECC.a QM_MERE_ECC.corr corr) (p := fun i f t => i = c.id → f = c.fid ∧ t = 0) hold x hx hid
  exact hnone x hx hfid h0

end Sys2Proof.Machine
end

noncomputable section
/-! SUPPORT. Spill and refill: what moves between Mere and Peat (09 R202 to R205). -/

namespace Sys2Proof.Machine

/-- A copy that stands in Peat, or not. -/
def Copy.inPeat (c : Copy) (b : Bool) : Copy := { c with peat := b }

/-- A copy that stands in Peat with a frame of its own. -/
def Copy.inPeatAs (c : Copy) (id : Nat) : Copy := { c with peat := true, fid := id }

/-! ### What a spill leaves unchanged -/

/-- `s` with what a spill changes taken from `t`. -/
def State.spillOver (s t : State) : State :=
  { s with
    copies := t.copies, frames := t.frames, bankUse := t.bankUse, regs := t.regs, spilling := t.spilling, dram := t.dram, freeIdx := t.freeIdx
    nextId := t.nextId }

def State.SpillOnly (s t : State) : Prop := t = s.spillOver t

namespace State.SpillOnly

variable {s0 s t : State}

theorem trans (h : s0.SpillOnly s) (k : s.SpillOnly t) : s0.SpillOnly t := Eq.trans k (congrArg (fun u => u.spillOver t) h)

theorem poolNote (h : s0.SpillOnly s) : s0.SpillOnly s.poolNote := by
  refine h.trans ?_
  unfold State.poolNote
  dsimp only
  split
  · exact rfl
  · exact rfl

theorem dramPut (h : s0.SpillOnly s) (m : Cells (BitVec 8)) : s0.SpillOnly { s with dram := m } := h.trans rfl

theorem peatWrite (h : s0.SpillOnly s) (b : List Nat) (l : List Byte) : s0.SpillOnly (s.peatWrite b l) := by
  induction b generalizing s l with
  | nil => exact h
  | cons x b ih => exact ih (h.dramPut _) _

theorem toPeat (h : s0.SpillOnly s) (x : Copy) (f : Frame) (l : List (Nat × Nat)) : s0.SpillOnly (((s.setCopy x).setFrame f).freeCells l) := h.trans rfl

theorem toPeatNew (h : s0.SpillOnly s) (x : Copy) (f : Frame) : s0.SpillOnly ((s.newFrame f).2.setCopy x) := h.trans rfl

theorem setUsed (h : s0.SpillOnly s) (k : Nat) : s0.SpillOnly (s.setF QM_PEAT_STAT.a QM_PEAT_STAT.used k) := h.trans rfl

end State.SpillOnly

theorem State.Aside.dramPut {K : Nat → Prop} {s0 s : State} (h : s0.Aside K s) (m : Cells (BitVec 8)) : s0.Aside K { s with dram := m } :=
  h.trans ⟨rfl, rfl, rfl, rfl, rfl, fun _ _ => rfl⟩

theorem State.Aside.peatWrite {K : Nat → Prop} {s0 s : State} (h : s0.Aside K s) (b : List Nat) (l : List Byte) : s0.Aside K (s.peatWrite b l) := by
  induction b generalizing s l with
  | nil => exact h
  | cons x b ih => exact ih (h.dramPut _) _

/-! ### Blocks of Peat -/

/-- A number of used blocks noted, and what follows it. -/
def State.peatUsed (s : State) (k : Nat) : State := (s.setF QM_PEAT_STAT.a QM_PEAT_STAT.used k).poolNote

theorem State.peatUsed_aside (s : State) (k : Nat) : s.Aside (fun _ => False) (s.peatUsed k) :=
  ((State.Aside.refl s).setF _ _ fun x => x).poolNote fun x => x

theorem State.peatUsed_used {s : State} (hc : s.Canonical) {k : Nat} (hk : k < 2 ^ 23) : fldGet ((s.peatUsed k).reg QM_PEAT_STAT.a) QM_PEAT_STAT.used = k := by
  unfold State.peatUsed
  rw [State.reg_poolNote_ne _ _ (by decide), reg_setF _ _ _ _ hc.regs, fldGet_fldSet _ _ _ (by decide)]
  exact Nat.mod_eq_of_lt hk

/-- QM_PEAT_CFG.size_mib leaves room for fewer blocks than QM_PEAT_STAT.used can count. -/
theorem State.peatSize_lt (s : State) : s.f QM_PEAT_CFG.a QM_PEAT_CFG.size_mib * 4096 < 2 ^ 23 := Nat.mul_lt_mul_of_pos_right (fldGet_lt _ _) (by decide)

/-- The state in which a frame has been written to Peat. -/
def State.onPeat (s : State) (f : Frame) : State :=
  let x := s.takeBlocks (peatBlocks f.len)
  let d := x.2.descBytes
  d.2.peatWrite x.1 (d.1 ++ f.data ++ fcsOf f.data)

theorem State.onPeat_only (s : State) (f : Frame) : s.SpillOnly (s.onPeat f) := 
  State.SpillOnly.peatWrite (s := (s.takeBlocks (peatBlocks f.len)).2.descBytes.2) rfl _ _

theorem State.onPeat_keeps {s0 s : State} (h : s0.Keeps s) (f : Frame) : s0.Keeps (s.onPeat f) :=
  State.peatWrite_keeps (State.descBytes_keeps (State.takeBlocks_keeps h _)) _ _

theorem State.onPeat_aside (s : State) (f : Frame) : s.Aside (fun _ => True) (s.onPeat f) :=
  State.Aside.peatWrite (s := (s.takeBlocks (peatBlocks f.len)).2.descBytes.2) ((State.Aside.refl s).trans ⟨rfl, rfl, rfl, rfl, rfl, fun _ _ => rfl⟩) _ _

/-- A frame whose bytes stand in blocks of Peat, under a number. -/
def Frame.spilledTo (f : Frame) (id : Nat) (blk : List Nat) : Frame := { f with id := id, spilled := true, peatBlk := blk, cells := 0, pool := 0, resv := [], banks := [] }

/-- The blocks in use when a frame of `n` bytes has been spilled. -/
def State.usedWith (s : State) (n : Nat) : Nat := fldGet (s.reg QM_PEAT_STAT.a) QM_PEAT_STAT.used + peatBlocks n

/-- The state that the spill of a frame's only copy leaves, but for the blocks in use. -/
def State.spillAlone (s : State) (c : Copy) (f : Frame) : State :=
  (((s.onPeat f).setCopy (c.inPeat true)).setFrame (f.spilledTo f.id (s.takeBlocks (peatBlocks f.len)).1)).freeCells f.banks

/-- The same where other copies share the frame's cells: the copy takes a frame of its own with it. -/
def State.spillShared (s : State) (c : Copy) (f : Frame) : State :=
  ((s.onPeat f).newFrame (f.spilledTo f.id (s.takeBlocks (peatBlocks f.len)).1)).2.setCopy (c.inPeatAs s.nextId)

theorem State.spillMove_eq (s : State) (c : Copy) (f : Frame) :
    s.spillMove c f = (if (s.copiesOf c.fid).length = 1 then s.spillAlone c f else s.spillShared c f).peatUsed (s.usedWith f.len) := by
  have hcopies : (s.onPeat f).copiesOf c.fid = s.copiesOf c.fid := by
    unfold State.copiesOf
    rw [(s.onPeat_aside f).copies]
  have hused : (s.onPeat f).usedWith f.len = s.usedWith f.len := by
    unfold State.usedWith
    rw [(s.onPeat_aside f).regs _ trivial]
  unfold State.spillShared
  rw [← hcopies, ← hused, ← (s.onPeat_aside f).nextId]
  rfl

section
variable {s : State} {c : Copy} {f : Frame}

theorem State.spillAlone_copy (hm : c ∈ s.copies) : c.inPeat true ∈ (s.spillAlone c f).copies :=
  copy_setCopy_mem (s.onPeat f) c (c.inPeat true) ((s.onPeat_aside f).copies.symm ▸ hm) rfl

theorem State.spillAlone_frame (hn : s.Numbered) (hf : f ∈ s.frames) (hid : f.id = c.fid) :
    (s.spillAlone c f).frame c.fid = f.spilledTo f.id (s.takeBlocks (peatBlocks f.len)).1 := by
  have hnum : ((s.onPeat f).setCopy (c.inPeat true)).Numbered := State.setCopy_numbered _ _ ((s.onPeat_aside f).numbered hn)
  refine hid ▸ State.frame_setFrame _ (f.spilledTo f.id _) f hnum ?_ rfl
  show f ∈ (s.onPeat f).frames
  rw [(s.onPeat_aside f).frames]
  exact hf

theorem State.spillAlone_frame_ne {id : Nat} (hid : f.id = c.fid) (h : id ≠ c.fid) : (s.spillAlone c f).frame id = s.frame id :=
  (State.frame_setFrame_ne ((s.onPeat f).setCopy (c.inPeat true)) (f.spilledTo f.id _) id (hid ▸ h)).trans ((s.onPeat_aside f).frame id)

theorem State.spillShared_copy (hm : c ∈ s.copies) : c.inPeatAs s.nextId ∈ (s.spillShared c f).copies :=
  copy_setCopy_mem ((s.onPeat f).newFrame _).2 c (c.inPeatAs s.nextId) ((s.onPeat_aside f).copies.symm ▸ hm) rfl

theorem State.spillShared_frame (hn : s.Numbered) : (s.spillShared c f).frame s.nextId = f.spilledTo s.nextId (s.takeBlocks (peatBlocks f.len)).1 := by
  rw [← (s.onPeat_aside f).nextId]
  exact State.frame_newFrame (s.onPeat f) (f.spilledTo f.id _) ((s.onPeat_aside f).numbered hn)

theorem State.spillShared_frame_ne {id : Nat} (h : id ≠ s.nextId) : (s.spillShared c f).frame id = s.frame id := by
  rw [← (s.onPeat_aside f).nextId] at h
  exact (State.frame_newFrame_ne (s.onPeat f) _ h).trans ((s.onPeat_aside f).frame id)

theorem State.spillAlone_canonical (hc : s.Canonical) : (s.spillAlone c f).Canonical :=
  (State.freeCells_keeps (State.setFrame_keeps (State.setCopy_keeps (State.onPeat_keeps (State.Keeps.refl s) f) _) _) _).canon hc

theorem State.spillShared_canonical (hc : s.Canonical) : (s.spillShared c f).Canonical :=
  (State.setCopy_keeps (State.newFrame_keeps (State.onPeat_keeps (State.Keeps.refl s) f) _) _).canon hc

theorem State.spillMove_alone (h : (s.copiesOf c.fid).length = 1) : s.spillMove c f = (s.spillAlone c f).peatUsed (s.usedWith f.len) := by
  rw [State.spillMove_eq, if_pos h]

theorem State.spillMove_shared (h : (s.copiesOf c.fid).length ≠ 1) : s.spillMove c f = (s.spillShared c f).peatUsed (s.usedWith f.len) := by
  rw [State.spillMove_eq, if_neg h]

theorem State.spillAlone_only : s.SpillOnly (s.spillAlone c f) := (s.onPeat_only f).toPeat _ _ _

theorem State.spillShared_only : s.SpillOnly (s.spillShared c f) := (s.onPeat_only f).toPeatNew _ _

theorem State.spillMove_only : s.SpillOnly (s.spillMove c f) := by
  rw [State.spillMove_eq]
  split
  · exact (State.spillAlone_only.setUsed _).poolNote
  · exact (State.spillShared_only.setUsed _).poolNote

/-! What a spill of the only copy of a frame moves. -/

theorem State.spillMove_copy_alone (h : (s.copiesOf c.fid).length = 1) (hm : c ∈ s.copies) : c.inPeat true ∈ (s.spillMove c f).copies := by
  rw [State.spillMove_alone h, (State.peatUsed_aside _ _).copies]
  exact State.spillAlone_copy hm

theorem State.spillMove_frame_alone (h : (s.copiesOf c.fid).length = 1) (id : Nat) : (s.spillMove c f).frame id = (s.spillAlone c f).frame id := by
  rw [State.spillMove_alone h, (State.peatUsed_aside _ _).frame]

/-! What a spill of one copy among more moves. -/

theorem State.spillMove_copy_shared (h : (s.copiesOf c.fid).length ≠ 1) (hm : c ∈ s.copies) :
    c.inPeatAs s.nextId ∈ (s.spillMove c f).copies := by
  rw [State.spillMove_shared h, (State.peatUsed_aside _ _).copies]
  exact State.spillShared_copy hm

theorem State.spillMove_frame_shared (h : (s.copiesOf c.fid).length ≠ 1) (id : Nat) : (s.spillMove c f).frame id = (s.spillShared c f).frame id := by
  rw [State.spillMove_shared h, (State.peatUsed_aside _ _).frame]

theorem State.spillMove_alone_facts (hn : s.Numbered) (hm : c ∈ s.copies) (hf : f ∈ s.frames) (hid : f.id = c.fid) (h : (s.copiesOf c.fid).length = 1) :
    c.inPeat true ∈ (s.spillMove c f).copies ∧ ((s.spillMove c f).frame c.fid).spilled = true ∧ ((s.spillMove c f).frame c.fid).cells = 0 ∧
      ((s.spillMove c f).frame c.fid).pool = 0 ∧ ((s.spillMove c f).frame c.fid).banks = [] ∧ ∀ id, id ≠ c.fid → (s.spillMove c f).frame id = s.frame id :=
  have hframe := (State.spillMove_frame_alone h c.fid).trans (State.spillAlone_frame hn hf hid)
  ⟨State.spillMove_copy_alone h hm, congrArg Frame.spilled hframe, congrArg Frame.cells hframe, congrArg Frame.pool hframe, congrArg Frame.banks hframe,
    fun id hne => (State.spillMove_frame_alone h id).trans (State.spillAlone_frame_ne hid hne)⟩

theorem State.spillMove_shared_facts (hn : s.Numbered) (hm : c ∈ s.copies) (h : (s.copiesOf c.fid).length ≠ 1) :
    c.inPeatAs s.nextId ∈ (s.spillMove c f).copies ∧ ((s.spillMove c f).frame s.nextId).spilled = true ∧
      ((s.spillMove c f).frame s.nextId).cells = 0 ∧ ((s.spillMove c f).frame s.nextId).banks = [] ∧ ((s.spillMove c f).frame s.nextId).data = f.data ∧
      ∀ id, id ≠ s.nextId → (s.spillMove c f).frame id = s.frame id :=
  have hframe := (State.spillMove_frame_shared h s.nextId).trans (State.spillShared_frame hn)
  ⟨State.spillMove_copy_shared h hm, congrArg Frame.spilled hframe, congrArg Frame.cells hframe, congrArg Frame.banks hframe, (congrArg Frame.data hframe :),
    fun id hne => (State.spillMove_frame_shared h id).trans (State.spillShared_frame_ne hne)⟩

theorem State.spillMove_used (hc : s.Canonical) (h : s.usedWith f.len < 2 ^ 23) :
    fldGet ((s.spillMove c f).reg QM_PEAT_STAT.a) QM_PEAT_STAT.used = s.usedWith f.len := by
  by_cases h1 : (s.copiesOf c.fid).length = 1
  · rw [State.spillMove_alone h1]
    exact State.peatUsed_used (State.spillAlone_canonical hc) h
  · rw [State.spillMove_shared h1]
    exact State.peatUsed_used (State.spillShared_canonical hc) h

end

end Sys2Proof.Machine
end

noncomputable section
/-! SUPPORT. The commands of Peat, of the meters and of preemption (09 R193, R202 to R205, 10 R235, R239). -/

namespace Sys2Proof.Machine

/-! ### SPILL (R202, R204) -/

theorem exec_spill {s : State} (hp : s.powered = true) (n : Fin 28) (tc : Fin 8) (corr : Fin 64) (bad : Option (Fin 64)) :
    exec (.spill n tc corr bad) s = .next (s.spill n.val tc.val corr.val (bad.map (·.val))) := next_live s _ hp

theorem State.canSpill_waits {s : State} {c : Copy} (h : s.canSpill c = true) : c.st = 0 := by
  unfold State.canSpill at h
  simp only [Bool.and_eq_true, beq_iff_eq] at h
  exact h.1.1.1.1

theorem State.canSpill_ended {s : State} {c : Copy} (h : s.canSpill c = true) : (s.frame c.fid).ended = true := by
  unfold State.canSpill at h
  simp only [Bool.and_eq_true] at h
  exact h.1.2

section
variable {s : State} {n tc : Nat} {c : Copy} (hs : s.spillable n tc = true) (hpick : s.spillPick n tc = some c)
include hs hpick

theorem State.spill_full (h : s.f QM_PEAT_CFG.a QM_PEAT_CFG.size_mib * 4096 < s.usedWith (s.frame c.fid).len) (corr : Nat) (bad : Option Nat) :
    s.spill n tc corr bad = if s.peatFull then s else State.raise { s with peatFull := true } 44 3 0 := by
  unfold State.spill
  rw [if_pos hs, hpick]
  exact if_pos h

theorem State.spill_room (h : s.usedWith (s.frame c.fid).len ≤ s.f QM_PEAT_CFG.a QM_PEAT_CFG.size_mib * 4096) (corr : Nat) (bad : Option Nat) :
    s.spill n tc corr bad = if (s.mereRead c.fid corr bad).copies.any (fun x => x.id == c.id) then
      (s.mereRead c.fid corr bad).spillMove c ((s.mereRead c.fid corr bad).frame c.fid) else s.mereRead c.fid corr bad := by
  unfold State.spill
  rw [if_pos hs, hpick]
  exact if_neg (Nat.not_lt.2 h)

theorem State.spill_moved (h : s.usedWith (s.frame c.fid).len ≤ s.f QM_PEAT_CFG.a QM_PEAT_CFG.size_mib * 4096) (corr : Nat) :
    s.spill n tc corr none = (s.bumpN QM_MERE_ECC.a QM_MERE_ECC.corr corr).spillMove c (s.frame c.fid) := by
  have hany : s.copies.any (fun x => x.id == c.id) = true :=
    List.any_eq_true.2 ⟨c, (copy_spillPick_spec s n tc c hpick).1, beq_iff_eq.2 rfl⟩
  rw [State.spill_room hs hpick h, s.mereRead_none]
  exact if_pos hany

/-- R193: where reading the frame meets an uncorrectable error, the copy is gone before it could move. -/
theorem State.spill_lost (hc : s.Canonical) (hn : s.Numbered) (h : s.usedWith (s.frame c.fid).len ≤ s.f QM_PEAT_CFG.a QM_PEAT_CFG.size_mib * 4096) (corr : Nat)
    (hlen : (s.frame c.fid).len ≠ 0) : s.spill n tc corr (some 0) = s.mereRead c.fid corr (some 0) := by
  obtain ⟨hm, hcan⟩ := copy_spillPick_spec s n tc c hpick
  have hgone : ¬(s.mereRead c.fid corr (some 0)).copies.any (fun x => x.id == c.id) = true := fun hany => by
    obtain ⟨x, hx, hid⟩ := List.any_eq_true.1 hany
    exact State.mereRead_lost_gone hc hn hm (State.canSpill_waits hcan) corr hlen x hx (beq_iff_eq.1 hid)
  rw [State.spill_room hs hpick h]
  exact if_neg hgone

end

theorem State.usedWith_bumpN (s : State) (corr k : Nat) : (s.bumpN QM_MERE_ECC.a QM_MERE_ECC.corr corr).usedWith k = s.usedWith k :=
  congrArg (fun w => fldGet w QM_PEAT_STAT.used + peatBlocks k) ((s.bumpN_aside (K := fun a => a = QM_PEAT_STAT.a) _ _ (by decide)).regs _ rfl)

/-- What O33 says of a spill that finds room. -/
theorem exec_spill_room {s : State} (hc : s.Canonical) (hn : s.Numbered) (hp : s.powered = true) {n : Fin 28} {tc : Fin 8} {c : Copy} (corr : Fin 64)
    (hs : s.spillable n.val tc.val = true) (hpick : s.spillPick n.val tc.val = some c)
    (hroom : s.usedWith (s.frame c.fid).len ≤ s.f QM_PEAT_CFG.a QM_PEAT_CFG.size_mib * 4096) :
    ∃ t : State, exec (.spill n tc corr none) s = .next t ∧ fldGet (t.reg QM_PEAT_STAT.a) QM_PEAT_STAT.used = s.usedWith (s.frame c.fid).len ∧
      ((s.copiesOf c.fid).length = 1 → c.inPeat true ∈ t.copies ∧ (t.frame c.fid).spilled = true ∧ (t.frame c.fid).cells = 0 ∧ (t.frame c.fid).pool = 0 ∧
        (t.frame c.fid).banks = [] ∧ ∀ id, id ≠ c.fid → t.frame id = s.frame id) ∧
      ((s.copiesOf c.fid).length ≠ 1 → c.inPeatAs s.nextId ∈ t.copies ∧ (t.frame s.nextId).spilled = true ∧ (t.frame s.nextId).cells = 0 ∧
        (t.frame s.nextId).banks = [] ∧ (t.frame s.nextId).data = (s.frame c.fid).data ∧ ∀ id, id ≠ s.nextId → t.frame id = s.frame id) ∧
      s.SpillOnly t := by
  have hpicked := copy_spillPick_spec s n.val tc.val c hpick
  have hended := copy_frame_ended s c.fid (State.canSpill_ended hpicked.2)
  have hused := s.usedWith_bumpN corr.val (s.frame c.fid).len
  exact ⟨_, (exec_spill hp n tc corr none).trans (congrArg _ (State.spill_moved hs hpick hroom corr.val)),
    (State.spillMove_used ((State.bumpN_keeps (State.Keeps.refl s) _ _ _).canon hc) (hused.trans_lt (Nat.lt_of_le_of_lt hroom s.peatSize_lt))).trans hused,
    State.spillMove_alone_facts (s := s.bumpN _ _ _) hn hpicked.1 hended.1 hended.2, State.spillMove_shared_facts (s := s.bumpN _ _ _) hn hpicked.1,
    State.spillMove_only (s := s.bumpN _ _ _)⟩

/-! ### REFILL (R203, R205) -/

theorem exec_refill {s : State} (hp : s.powered = true) (n : Fin 28) (tc : Fin 8) (bad : Bool) : exec (.refill n tc bad) s = .next (s.refill n.val tc.val bad) :=
  next_live s _ hp

/-- The oldest copy of a queue that stands in Peat may return. -/
structure State.Refills (s : State) (n tc : Nat) (c : Copy) : Prop where
  oldest : (s.queue n tc).find? (fun c => c.peat) = some c
  on : s.peatOn = true
  low : s.headSeg n tc < s.f QM_REFILL_CFG.a QM_REFILL_CFG.refill_min
  room : ((s.f QM_SPILL_CFG.a QM_SPILL_CFG.spill_lo : Nat) : Int) ≤ s.poolFree

/-- The state in which the blocks of a frame have been given back and its cells taken. -/
def State.refilling (s : State) (f : Frame) : State := (State.takeCells (cellsOf f.len) (s.peatFree f) []).2

/-- The cells that a frame takes on its return. -/
def State.refillCells (s : State) (f : Frame) : List (Nat × Nat) := (State.takeCells (cellsOf f.len) (s.peatFree f) []).1

/-- A frame that has returned to Mere. -/
def State.refilled (s : State) (f : Frame) : Frame :=
  { f with spilled := false, peatBlk := [], cells := cellsOf f.len, pool := cellsOf f.len, banks := s.refillCells f, data := slice (s.peatRead f.peatBlk) 48 (f.len - 4) }

/-- The state in which a copy has returned, but for what the pool notes. -/
def State.refillBack (s : State) (c : Copy) : State :=
  ((s.refilling (s.frame c.fid)).setCopy (c.inPeat false)).setFrame (s.refilled (s.frame c.fid))

theorem State.refill_due {s : State} {n tc : Nat} {c : Copy} (h : s.Refills n tc c) (bad : Bool) : s.refill n tc bad =
    if bad then ((s.bump QM_PEAT_STAT.a QM_PEAT_STAT.lost).raise 44 2 0).copyGone c else (s.refillBack c).poolNote := by
  have hdue : (s.peatOn && decide (s.headSeg n tc < s.f QM_REFILL_CFG.a QM_REFILL_CFG.refill_min) &&
      decide (((s.f QM_SPILL_CFG.a QM_SPILL_CFG.spill_lo : Nat) : Int) ≤ s.poolFree)) = true := by
    rw [h.on, decide_eq_true h.low, decide_eq_true h.room]
    rfl
  unfold State.refill
  rw [h.oldest]
  exact if_pos hdue

theorem State.refilling_aside (s : State) (f : Frame) : s.Aside (fun _ => False) (s.refilling f) :=
  ((State.Aside.refl s).peatFree f fun x => x).takeCells _ _

theorem State.refilling_used {s : State} (hc : s.Canonical) {f : Frame} (hf : f.spilled = true) :
    fldGet ((s.refilling f).reg QM_PEAT_STAT.a) QM_PEAT_STAT.used = fldGet (s.reg QM_PEAT_STAT.a) QM_PEAT_STAT.used - peatBlocks f.len := by
  have hcells : (s.refilling f).reg QM_PEAT_STAT.a = (s.peatFree f).reg QM_PEAT_STAT.a :=
    ((State.Aside.refl (K := fun _ => True) (s.peatFree f)).takeCells _ _).regs _ trivial
  have hlt : fldGet (s.reg QM_PEAT_STAT.a) QM_PEAT_STAT.used < 2 ^ 23 := fldGet_lt _ _
  have hfree : (s.peatFree f).reg QM_PEAT_STAT.a = fldSet (s.reg QM_PEAT_STAT.a) QM_PEAT_STAT.used (fldGet (s.reg QM_PEAT_STAT.a) QM_PEAT_STAT.used - peatBlocks f.len) := by
    unfold State.peatFree
    rw [if_pos hf]
    exact reg_setF { s with peatFull := false } _ _ _ hc.regs
  rw [hcells, hfree, fldGet_fldSet _ _ _ (by decide)]
  exact Nat.mod_eq_of_lt (Nat.lt_of_le_of_lt (Nat.sub_le _ _) hlt)

section
variable {s : State} {c : Copy}

theorem State.refillBack_frame (hn : s.Numbered) (hf : s.frame c.fid ∈ s.frames) (hid : (s.frame c.fid).id = c.fid) :
    (s.refillBack c).frame c.fid = s.refilled (s.frame c.fid) := by
  have hu := s.refilling_aside (s.frame c.fid)
  have hm : s.frame c.fid ∈ (s.refilling (s.frame c.fid)).frames := hu.frames ▸ hf
  exact (congrArg (s.refillBack c).frame hid.symm).trans
    (State.frame_setFrame _ (s.refilled (s.frame c.fid)) (s.frame c.fid) (State.setCopy_numbered _ (c.inPeat false) (hu.numbered hn)) hm rfl)

theorem State.refillBack_copy (hm : c ∈ s.copies) : c.inPeat false ∈ (s.refillBack c).poolNote.copies := by
  rw [((State.Aside.refl (K := fun _ => False) (s.refillBack c)).poolNote fun x => x).copies]
  exact copy_setCopy_mem (s.refilling (s.frame c.fid)) c _ ((s.refilling_aside _).copies ▸ hm) rfl

theorem State.refillBack_frame_ne (hid : (s.frame c.fid).id = c.fid) {id : Nat} (hne : id ≠ c.fid) : (s.refillBack c).frame id = s.frame id :=
  (State.frame_setFrame_ne _ (s.refilled (s.frame c.fid)) id (fun he => hne (he.trans hid))).trans ((s.refilling_aside _).frame id)

end

/-- R203: what the refill of a frame leaves. -/
theorem exec_refill_back {s : State} (hc : s.Canonical) (hn : s.Numbered) (hp : s.powered = true) {n : Fin 28} {tc : Fin 8} {c : Copy}
    (h : s.Refills n.val tc.val c) (hf : s.frame c.fid ∈ s.frames ∧ (s.frame c.fid).id = c.fid) (hsp : (s.frame c.fid).spilled = true) :
    ∃ t : State, exec (.refill n tc false) s = .next t ∧ c.inPeat false ∈ t.copies ∧ (t.frame c.fid).spilled = false ∧
      (t.frame c.fid).cells = cellsOf (s.frame c.fid).len ∧ (t.frame c.fid).pool = cellsOf (s.frame c.fid).len ∧
      (t.frame c.fid).data = slice (s.peatRead (s.frame c.fid).peatBlk) 48 ((s.frame c.fid).len - 4) ∧ (∀ id, id ≠ c.fid → t.frame id = s.frame id) ∧
      fldGet (t.reg QM_PEAT_STAT.a) QM_PEAT_STAT.used = fldGet (s.reg QM_PEAT_STAT.a) QM_PEAT_STAT.used - peatBlocks (s.frame c.fid).len := by
  have hm : c ∈ s.copies := copy_queue_mem _ _ _ _ (find_mem_id h.oldest).1
  have hv : (s.refillBack c).Aside (fun a => a = QM_PEAT_STAT.a) (s.refillBack c).poolNote := (State.Aside.refl _).poolNote (by decide)
  have hframe : (s.refillBack c).poolNote.frame c.fid = s.refilled (s.frame c.fid) := (hv.frame c.fid).trans (State.refillBack_frame hn hf.1 hf.2)
  exact ⟨_, (exec_refill hp n tc false).trans (congrArg _ (State.refill_due h false)), State.refillBack_copy hm,
    congrArg Frame.spilled hframe, congrArg Frame.cells hframe, congrArg Frame.pool hframe, congrArg Frame.data hframe,
    fun id hne => (hv.frame id).trans (State.refillBack_frame_ne hf.2 hne),
    (congrArg (fun w => fldGet w QM_PEAT_STAT.used) (hv.regs _ rfl)).trans (State.refilling_used hc hsp)⟩

/-- R205: a frame lost to an uncorrectable error of Peat. -/
theorem exec_refill_lost {s : State} (hc : s.Canonical) (hp : s.powered = true) {n : Fin 28} {tc : Fin 8} {c : Copy} (h : s.Refills n.val tc.val c) :
    ∃ t : State, exec (.refill n tc true) s = .next t ∧ (∀ x ∈ t.copies, x.id ≠ c.id) ∧ fldGet (t.reg (EVT_SRC_STAT.a 44)) EVT_SRC_STAT.pend = 1 := by
  refine ⟨((s.bump QM_PEAT_STAT.a QM_PEAT_STAT.lost).raise 44 2 0).copyGone c, (exec_refill hp n tc true).trans (congrArg _ (State.refill_due h true)),
    copy_copyGone_gone _ c, ?_⟩
  rw [State.reg_copyGone_ne _ _ _ (by decide) (by decide)]
  exact pend_raise _ _ _ _ ((State.bump_keeps (State.Keeps.refl s) _ _).canon hc)

/-! ### METER_BURST_WRITE (R235) -/

/-- The row of POL_METER_BURST in the register map. -/
def meterBurstRow : RegRow := { base := 8519684, s1 := 16, n1 := 2048, rw := 0x00ffffff#32, par := 0x00ffffff#32, cut := 0x01000001#32 }

theorem blockOf_pipeA {a : Nat} (h : 0x800000 ≤ a) (h' : a < 0xc00000) : blockOf a = 6 :=
  (if_neg (Nat.not_lt.2 h)).trans ((if_pos (Nat.lt_trans h' (by decide))).trans (if_pos h'))

theorem blockOf_pipeB {a : Nat} (h : 0xc00000 ≤ a) (h' : a < 0x1000000) : blockOf a = 7 :=
  (if_neg (Nat.not_lt.2 (Nat.le_trans (by decide) h))).trans
    ((if_pos (Nat.lt_trans h' (by decide))).trans ((if_neg (Nat.not_lt.2 h)).trans (if_pos h')))

theorem meterBurst_lt (m : Fin 2048) (b : Nat) : b + 16 * m.val < b + 16 * 2048 := Nat.add_lt_add_left (Nat.mul_lt_mul_of_pos_left m.isLt (by decide)) b

theorem meterBurst_block (p : Fin 2) (m : Fin 2048) : blockOf (POL_METER_BURST.a p.val m.val) = 6 + p.val := by
  obtain rfl | rfl := Fin.exists_fin_two.1 ⟨p, rfl⟩
  · exact blockOf_pipeA (Nat.le_trans (by decide) (Nat.le_add_right 0x820004 _)) (Nat.lt_trans (meterBurst_lt m 0x820004) (by decide))
  · exact blockOf_pipeB (Nat.le_trans (by decide) (Nat.le_add_right 0xc20004 _)) (Nat.lt_trans (meterBurst_lt m 0xc20004) (by decide))

theorem meterBurst_index (p : Fin 2) (m : Fin 2048) : (foldPipe (POL_METER_BURST.a p.val m.val) - meterBurstRow.base) / meterBurstRow.s1 = m.val := by
  have hfold : foldPipe (POL_METER_BURST.a p.val m.val) = 8519684 + 16 * m.val := by
    have hblock := meterBurst_block p m
    obtain rfl | rfl := Fin.exists_fin_two.1 ⟨p, rfl⟩
    · exact if_neg (by rw [hblock]; decide)
    · exact (if_pos hblock).trans (Nat.sub_eq_of_eq_add (Nat.add_right_comm _ _ _))
  rw [hfold]
  exact (congrArg (· / 16) (Nat.add_sub_cancel_left ..)).trans (Nat.mul_div_cancel_left _ (by decide))

theorem meterBurst_bounds (p : Fin 2) (m : Fin 2048) : 0x800000 ≤ POL_METER_BURST.a p.val m.val ∧ POL_METER_BURST.a p.val m.val < 0x1000000 := by
  obtain rfl | rfl := Fin.exists_fin_two.1 ⟨p, rfl⟩
  · exact ⟨Nat.le_trans (by decide) (Nat.le_add_right 0x820004 _), Nat.lt_trans (meterBurst_lt m 0x820004) (by decide)⟩
  · exact ⟨Nat.le_trans (by decide) (Nat.le_add_right 0xc20004 _), Nat.lt_trans (meterBurst_lt m 0xc20004) (by decide)⟩

theorem pipe_carrOnly {a : Nat} (h : a < 0x1000000) : carrOnly a = false := by
  unfold carrOnly
  rw [decide_eq_false (Nat.not_le.2 (Nat.lt_trans h (by decide))), decide_eq_false (Nat.not_le.2 (Nat.lt_trans h (by decide))),
    beq_false_of_ne (Nat.ne_of_lt (Nat.lt_trans h (by decide)))]
  rfl

theorem pipe_plain {a : Nat} (h4 : a % 4 = 0) (h : 0x800000 ≤ a) (h' : a < 0x1000000) :
    (a % 4 == 0 && decide (a < 0x2000000) && a != ROL_LC_REQ.a && a != ROL_LC_REQ.a + 4 && !carrOnly a) = true :=
  have hlow : ∀ x, x < 0x800000 → (a != x) = true := fun _ hx => bne_iff_ne.2 (Nat.ne_of_gt (Nat.lt_of_lt_of_le hx h))
  Bool.and_eq_true_iff.2 ⟨Bool.and_eq_true_iff.2 ⟨Bool.and_eq_true_iff.2 ⟨Bool.and_eq_true_iff.2 ⟨beq_iff_eq.2 h4,
    decide_eq_true (Nat.lt_trans h' (by decide))⟩, hlow _ (by decide)⟩, hlow _ (by decide)⟩, congrArg not (pipe_carrOnly h')⟩

theorem meterBurst_aligned (p : Fin 2) (m : Fin 2048) : POL_METER_BURST.a p.val m.val % 4 = 0 :=
  Nat.mod_eq_zero_of_dvd (Nat.dvd_add (Nat.dvd_add (by decide) (Dvd.dvd.mul_right (by decide) _)) (Dvd.dvd.mul_right (by decide) _))

theorem rwMask_meterBurst (s : State) (a : Nat) : s.rwMask meterBurstRow a = 0x00ffffff#32 := (s.rwMask_plain _ a (by decide)).trans (by decide)

theorem State.regEffect_meterBurst (s : State) (i : Nat) (p : Fin 2) (m : Fin 2048) (old v : Word) :
    s.regEffect meterBurstRow i (POL_METER_BURST.a p.val m.val) old v = s.meterFill p.val m.val := by
  unfold State.regEffect
  rw [meterBurst_index, meterBurst_block]
  obtain rfl | rfl := Fin.exists_fin_two.1 ⟨p, rfl⟩
  · rfl
  · rfl

theorem State.poke_meterBurst (s : State) (i : Fin 3) (p : Fin 2) (m : Fin 2048) (v : Word) (hc : s.Canonical) (hm : s.May i.val (POL_METER_BURST.a p.val m.val)) :
    s.poke i.val (POL_METER_BURST.a p.val m.val) v = (s.committed meterBurstRow i.val (POL_METER_BURST.a p.val m.val) v).meterFill p.val m.val :=
  (State.poke_commit s i.val _ v meterBurstRow hc hm (kindOf_of_row _ _ (rowAt_POL_METER_BURST p m)) (pipe_plain (meterBurst_aligned p m) (meterBurst_bounds p m).1 (meterBurst_bounds p m).2) (by decide) (by decide)
    (by rw [rwMask_meterBurst]; decide)).trans (State.regEffect_meterBurst _ _ p m _ _)

/-- What no time adds to a full bucket. -/
theorem capped_now (a : Int) (r k : Nat) : (if a < a + ((r * (k - k) : Nat) : Int) then a else a + ((r * (k - k) : Nat) : Int)) = a := by
  rw [Nat.sub_self, Nat.mul_zero, Nat.cast_zero, Int.add_zero, ite_self]

/-- R235: a bucket that has just been filled holds what the burst allows. -/
theorem State.meterTok_meterFill {s : State} (hc : s.Canonical) (p m : Nat) :
    (s.meterFill p m).meterTok p m = ((s.f (POL_METER_BURST.a p m) POL_METER_BURST.burst * 8000000 : Nat) : Int) := by
  have hget : Cells.get (fun _ => {}) (s.meterFill p m).meters (p * 2048 + m) = _ := Cells.get_set hc.meters _ _
  unfold State.meterTok
  rw [hget]
  exact capped_now _ _ s.now

theorem State.burst_writable (s : State) (a k : Nat) (_ : POL_METER_BURST.burst.lo ≤ k) (hk : k ≤ POL_METER_BURST.burst.hi) :
    (s.rwMask meterBurstRow a).getLsbD k = true ∧ (clearMask meterBurstRow).getLsbD k = false := by
  have hall : ∀ k < 24, (0x00ffffff#32).getLsbD k = true ∧ (clearMask meterBurstRow).getLsbD k = false := by decide
  rw [rwMask_meterBurst]
  exact hall k (Nat.lt_succ_of_le hk)

theorem meterBurst_ne (p : Fin 2) (m : Fin 2048) : POL_METER_BURST.a p.val m.val ≠ EVT_SRC_STAT.a 60 :=
  Nat.ne_of_gt (Nat.lt_of_lt_of_le (by decide) (meterBurst_bounds p m).1)

/-- `s` with what a write of a meter's burst changes taken from `t`. -/
def State.burstOver (s t : State) : State :=
  { s with regs := t.regs, par := t.par, aud := t.aud, evt := t.evt, out := t.out, meters := t.meters, pcie := { s.pcie with pba := t.pcie.pba } }

theorem State.committed_burst (s : State) (r : RegRow) (i a : Nat) (v : Word) :
    s.committed r i a v = s.burstOver { s.committed r i a v with meters := s.meters } := boot_committed_same s r i a v

theorem State.meterFill_only {s u : State} (h : u = s.burstOver { u with meters := s.meters }) (p m : Nat) : u.meterFill p m = s.burstOver (u.meterFill p m) :=
  congrArg (fun w => w.burstOver (u.meterFill p m)) h

/-- What O33 says of a write of a meter's burst. -/
theorem exec_meterBurstWrite {s : State} (hc : s.Canonical) (i : Fin 3) (p : Fin 2) (m : Fin 2048) (v : BitVec 32) (hm : s.May i.val (POL_METER_BURST.a p.val m.val)) :
    ∃ t : State, exec (.meterBurstWrite i p m v) s = .next t ∧ t.meterTok p.val m.val = ((fldGet v POL_METER_BURST.burst * 8000000 : Nat) : Int) ∧
      fldGet (t.reg (POL_METER_BURST.a p.val m.val)) POL_METER_BURST.burst = fldGet v POL_METER_BURST.burst ∧ t = s.burstOver t ∧
      (∀ k, k ≠ p.val * 2048 + m.val → Cells.get (fun _ => {}) t.meters k = Cells.get (fun _ => {}) s.meters k) := by
  have honly := s.committed_burst meterBurstRow i.val (POL_METER_BURST.a p.val m.val) v
  exact ⟨_, (next_live s _ hm.powered).trans (congrArg _ (s.poke_meterBurst i p m v hc hm)),
    (State.meterTok_meterFill (phase_commCanon s _ _ _ _ hc) p.val m.val).trans
      (congrArg (fun k : Nat => ((k * 8000000 : Nat) : Int)) (State.f_committed s _ _ _ _ _ hc (meterBurst_ne p m) (by decide) (s.burst_writable _))),
    (congrArg (fun w => fldGet w POL_METER_BURST.burst) (s.reg_committed _ _ _ _ hc (meterBurst_ne p m))).trans (newVal_fld s _ _ v _ (s.burst_writable _) (by decide)),
    State.meterFill_only honly p.val m.val, fun k hk => (Cells.get_set_ne _ _ _ _ _ hk).trans (congrArg (fun w => Cells.get (fun _ => {}) w.meters k) honly)⟩

/-! ### PREEMPT_VERIFY_DONE (R239) -/

theorem SHP_PORT_CFG_ne_cnt (n p : Nat) : SHP_PORT_CFG.a n ≠ SHP_CNT.a p 7 := fun h => by
  have hmod : (0x1002000 + 0x100 * n) % 0x100 = (0x1002080 + 4 * 7 + 0x100 * p) % 0x100 := congrArg (· % 0x100) (h.trans (Nat.add_right_comm _ _ _))
  rw [Nat.add_mul_mod_self_left, Nat.add_mul_mod_self_left] at hmod
  exact absurd hmod (by decide)

/-- A preemption touches no register but a counter of the shapers. -/
theorem State.reg_preempt (s : State) (n b a : Nat) (h : ∀ p, a ≠ SHP_CNT.a p 7) : (s.preempt n b).reg a = s.reg a := by
  have hcut : ∀ c, (s.cutTry c).reg a = s.reg a := fun c => iteInduction (motive := fun u : State => u.reg a = s.reg a)
    (fun _ => State.reg_setF_ne (s.setCopy { c with st := 2, cutReq := false }) _ _ _ _ (h c.port)) fun _ => rfl
  refine iteInduction (motive := fun u : State => u.reg a = s.reg a) (fun _ => ?_) fun _ => rfl
  split
  · rfl
  · exact iteInduction (motive := fun u : State => u.reg a = s.reg a) (fun _ => rfl) fun _ =>
      iteInduction (motive := fun u : State => u.reg a = s.reg a) (fun _ => hcut _) fun _ => rfl

/-- `s` with what an event changes taken from `t`. -/
def State.eventOver (s t : State) : State := { s with regs := t.regs, evt := t.evt, out := t.out, pcie := { s.pcie with pba := t.pcie.pba } }

theorem exec_preemptVerifyDone_idle {s : State} (hp : s.powered = true) (n : Fin 12)
    (h : fldGet (s.reg (SHP_PORT_CFG.a n.val)) SHP_PORT_CFG.pre_state ≠ 1) (ok : Bool) : exec (.preemptVerifyDone n ok) s = .next s :=
  (next_live s _ hp).trans (congrArg _ (if_neg h))

section
variable {s : State} (hc : s.Canonical) (hp : s.powered = true) (n : Fin 12) (h : fldGet (s.reg (SHP_PORT_CFG.a n.val)) SHP_PORT_CFG.pre_state = 1)
include hc hp h

theorem exec_preemptVerifyDone_active : ∃ t : State, exec (.preemptVerifyDone n true) s = .next t ∧
    fldGet (t.reg (SHP_PORT_CFG.a n.val)) SHP_PORT_CFG.pre_state = 2 ∧
    (s.sending n.val = none → t = s.setF (SHP_PORT_CFG.a n.val) SHP_PORT_CFG.pre_state 2) := by
  refine ⟨(s.setF (SHP_PORT_CFG.a n.val) SHP_PORT_CFG.pre_state 2).preempt n.val 0, (next_live s _ hp).trans (congrArg _ (if_pos h)), ?_,
    fun hfree => copy_preempt_free _ _ _ hfree⟩
  rw [State.reg_preempt _ _ _ _ (SHP_PORT_CFG_ne_cnt n.val), reg_setF _ _ _ _ hc.regs, fldGet_fldSet _ _ _ (by decide)]
  rfl

theorem exec_preemptVerifyDone_failed : ∃ t : State, exec (.preemptVerifyDone n false) s = .next t ∧
    fldGet (t.reg (SHP_PORT_CFG.a n.val)) SHP_PORT_CFG.pre_state = 3 ∧ fldGet (t.reg (EVT_SRC_STAT.a 45)) EVT_SRC_STAT.pend = 1 ∧
    t = s.eventOver t := by
  have hne : SHP_PORT_CFG.a n.val ≠ EVT_SRC_STAT.a 45 := Nat.ne_of_gt (Nat.lt_of_lt_of_le (by decide) (Nat.le_add_right 0x1002000 _))
  refine ⟨(s.setF (SHP_PORT_CFG.a n.val) SHP_PORT_CFG.pre_state 3).raise 45 7 n.val, (next_live s _ hp).trans (congrArg _ (if_pos h)), ?_,
    pend_raise _ _ _ _ ((State.setF_keeps (State.Keeps.refl s) _ _ _).canon hc), State.raise_same _ _ _ _⟩
  · rw [State.reg_raise_ne _ _ _ _ _ hne, reg_setF _ _ _ _ hc.regs, fldGet_fldSet _ _ _ (by decide)]
    rfl

end

theorem exec_spill_full {s : State} (hc : s.Canonical) (hp : s.powered = true) {n : Fin 28} {tc : Fin 8} {c : Copy} (corr : Fin 64)
    (hs : s.spillable n.val tc.val = true) (hpick : s.spillPick n.val tc.val = some c)
    (hfull : s.f QM_PEAT_CFG.a QM_PEAT_CFG.size_mib * 4096 < s.usedWith (s.frame c.fid).len) (bad : Option (Fin 64)) :
    (s.peatFull = false → ∃ t : State, exec (.spill n tc corr bad) s = .next t ∧ fldGet (t.reg (EVT_SRC_STAT.a 44)) EVT_SRC_STAT.pend = 1 ∧
      t = State.eventOver { s with peatFull := true } t) ∧ (s.peatFull = true → exec (.spill n tc corr bad) s = .next s) :=
  have hex := (exec_spill hp n tc corr bad).trans (congrArg _ (State.spill_full hs hpick hfull corr.val (bad.map (·.val))))
  ⟨fun hfirst => ⟨_, hex.trans (congrArg _ (if_neg (ne_true_of_eq_false hfirst))), pend_raise _ _ _ _ ((State.Keeps.peatFull_upd (State.Keeps.refl s)).canon hc),
    State.raise_same _ _ _ _⟩, fun hagain => hex.trans (congrArg _ (if_pos hagain))⟩

theorem exec_spill_lost {s : State} (hc : s.Canonical) (hn : s.Numbered) (hp : s.powered = true) {n : Fin 28} {tc : Fin 8} {c : Copy} (corr : Fin 64)
    (hs : s.spillable n.val tc.val = true) (hpick : s.spillPick n.val tc.val = some c)
    (hroom : s.usedWith (s.frame c.fid).len ≤ s.f QM_PEAT_CFG.a QM_PEAT_CFG.size_mib * 4096) (hlen : (s.frame c.fid).len ≠ 0) :
    ∃ t : State, exec (.spill n tc corr (some 0)) s = .next t ∧ (∀ x ∈ t.copies, x.fid = c.fid → x.st ≠ 0) ∧
      fldGet (t.reg (EVT_SRC_STAT.a 43)) EVT_SRC_STAT.pend = 1 :=
  ⟨_, (exec_spill hp n tc corr (some 0)).trans (congrArg _ (State.spill_lost hs hpick hc hn hroom corr.val hlen)), State.mereRead_lost_facts hc corr.val hlen⟩

theorem exec_spill_barred {s : State} (hp : s.powered = true) {n : Fin 28} {tc : Fin 8} (h : s.spillable n.val tc.val = false) (corr : Fin 64) (bad : Option (Fin 64)) :
    exec (.spill n tc corr bad) s = .next s := (exec_spill hp n tc corr bad).trans (congrArg _ (if_neg (ne_true_of_eq_false h)))

theorem State.frame_there {s : State} (hn : s.Numbered) {id : Nat} (h : ∃ f ∈ s.frames, f.id = id) : s.frame id ∈ s.frames ∧ (s.frame id).id = id := by
  obtain ⟨f, hf, rfl⟩ := h
  rw [frame_frame_self s f hn hf]
  exact ⟨hf, rfl⟩

/-- Settles O33: a spill by whether it finds room and by whether the frame can be read, a refill by its read-back, a meter's burst by the
write that fills it, a verification by its end. -/
theorem peatMetersAndPreemption : Obligations.PeatMetersAndPreemption := by
  intro s hc hn
  refine ⟨fun hp n tc => ⟨fun c corr hs hpick => ?_, exec_spill_barred hp, fun c hold hon hlow hroom hex =>
      ⟨exec_refill_back hc hn hp ⟨hold, hon, hlow, hroom⟩ (State.frame_there hn hex), exec_refill_lost hc hp ⟨hold, hon, hlow, hroom⟩⟩⟩,
    exec_meterBurstWrite hc,
    fun hp n => ⟨fun h => ⟨exec_preemptVerifyDone_active hc hp n h, exec_preemptVerifyDone_failed hc hp n h⟩, exec_preemptVerifyDone_idle hp n⟩⟩
  intro used need
  exact ⟨fun hroom => ⟨exec_spill_room hc hn hp corr hs hpick hroom, exec_spill_lost hc hn hp corr hs hpick hroom⟩, exec_spill_full hc hp corr hs hpick⟩

end Sys2Proof.Machine
end

noncomputable section
/-! SUPPORT. Copies as they leave: what fair queueing and a drop leave of the rest of the machine (09 R215, 10 R222, R234). -/

namespace Sys2Proof.Machine

/-! ### Fair queueing -/

/-- A copy but for its finish time. -/
def Copy.untimed (c : Copy) : Copy := { c with vf := none }

/-- A copy that fair queueing has brought up to date was there before. -/
theorem State.Fair.of_mem {u t : State} (h : u.Fair t) {x : Copy} (hx : x ∈ t.copies) : ∃ y ∈ u.copies, x.untimed = y.untimed := by
  have hm : x.untimed ∈ t.copies.map (fun c => { c with vf := none }) := List.mem_map.2 ⟨x, hx, rfl⟩
  rw [h.2] at hm
  obtain ⟨y, hy, he⟩ := List.mem_map.1 hm
  exact ⟨y, hy, he.symm⟩

/-- A copy is there when fair queueing has brought it up to date. -/
theorem State.Fair.mem {u t : State} (h : u.Fair t) {x : Copy} (hx : x ∈ u.copies) : ∃ y ∈ t.copies, y.untimed = x.untimed := by
  have hm : x.untimed ∈ u.copies.map (fun c => { c with vf := none }) := List.mem_map.2 ⟨x, hx, rfl⟩
  rw [← h.2] at hm
  exact List.mem_map.1 hm

theorem State.Fair.noneWaits {u t : State} (h : u.Fair t) {id : Nat} (hu : ∀ x ∈ u.copies, x.fid = id → x.st ≠ 0) : ∀ x ∈ t.copies, x.fid = id → x.st ≠ 0 := by
  intro x hx hid h0
  obtain ⟨y, hy, he⟩ := h.of_mem hx
  have hfid : x.fid = y.fid := (congrArg Copy.fid he :)
  have hst : x.st = y.st := (congrArg Copy.st he :)
  exact hu y hy (hfid ▸ hid) (hst ▸ h0)

theorem State.Fair.out {u t : State} (h : u.Fair t) : t.out = u.out := by rw [h.1]

theorem State.Fair.saAt {u t : State} (h : u.Fair t) (k : Nat) : t.saAt k = u.saAt k := by
  rw [h.1]
  rfl

/-! ### Drops -/

/-- `s` with what the departure of copies changes taken from `t`. -/
def State.departed (s t : State) : State :=
  { s with regs := t.regs, spilling := t.spilling, peatFull := t.peatFull, frames := t.frames, bankUse := t.bankUse, copies := t.copies }

/-- Only copies have departed. -/
def State.Departs (s t : State) : Prop := t = s.departed t ∧ ∀ a, a ≠ QM_POOL.a → a ≠ QM_PEAT_STAT.a → t.reg a = s.reg a

theorem State.Departs.trans {s t u : State} (h : s.Departs t) (k : t.Departs u) : s.Departs u :=
  ⟨k.1.trans (congrArg (fun v => v.departed u) h.1), fun a ha hp => (k.2 a ha hp).trans (h.2 a ha hp)⟩

theorem State.copyGone_departs (s : State) (c : Copy) : s.Departs (s.copyGone c) :=
  ⟨congrArg (fun v => v.departed (s.copyGone c)) (State.copyGone_same s c), fun a => State.reg_copyGone_ne s c a⟩

theorem State.copyDrop_departs (s : State) (c : Copy) : s.Departs (s.copyDrop c) := by
  have hall : ∀ (l : List Copy) (u : State), s.Departs u → s.Departs (l.foldl (fun u x => u.copyGone x) u) := fun l => by
    induction l with
    | nil => exact fun _ h => h
    | cons x l ih => exact fun u h => ih _ (h.trans (u.copyGone_departs x))
  unfold State.copyDrop
  dsimp only
  split
  · exact hall _ _ (s.copyGone_departs c)
  · exact s.copyGone_departs c

theorem State.copyDrop_lacks {s : State} (hn : s.Numbered) {c : Copy} (hm : c ∈ s.copies) : (s.copyDrop c).Lacks c.id := by
  have hid : (s.copyDrop c).nextId = s.nextId := (congrArg State.nextId (s.copyDrop_departs c).1 :)
  exact ⟨hid ▸ hn.2.1 c hm, fun x hx => (port_copyDrop_sub s c x hx).2⟩

end Sys2Proof.Machine
end

noncomputable section
/-! SUPPORT. Egress: the copy that a port begins (09 R193, 10 R221, R222, 11 R259, R263, R264, 12 R287, R288). -/

namespace Sys2Proof.Machine

/-! ### What the selection of an SA leaves of copies -/

namespace State.Aside

variable {s0 s : State} (h : s0.Aside (fun _ => False) s)
include h

theorem saEcc (k : Nat) : s0.Aside (fun _ => False) (s.saEcc k) :=
  raise (s := s.saErase k) (h.trans ⟨rfl, rfl, rfl, rfl, rfl, fun _ _ => rfl⟩) _ _ fun x => x

theorem cipInc (port k : Nat) : s0.Aside (fun _ => False) (s.cipInc port k) := h.trans ⟨rfl, rfl, rfl, rfl, rfl, fun _ _ => rfl⟩

theorem noSa (port : Nat) : s0.Aside (fun _ => False) (s.noSa port) := raise ((h.setF _ _ fun x => x).cipInc _ _) _ _ fun x => x

theorem changeover (port an bad : Nat) (l : List Nat) : s0.Aside (fun _ => False) (s.changeover port an bad l).2 := by
  induction l generalizing s with
  | nil => exact h.noSa port
  | cons j l ih =>
    unfold State.changeover
    dsimp only
    split
    · exact ih h
    · split
      · exact ih (h.saEcc _)
      · exact ite_snd (ih h) ((h.setF _ _ fun x => x).raise _ _ fun x => x)

theorem encodeSa (port bad : Nat) : s0.Aside (fun _ => False) (s.encodeSa port bad).2 := by
  unfold State.encodeSa
  extract_lets a an u
  have hu : s0.Aside (fun _ => False) u := by
    show s0.Aside (fun _ => False) (match s.saBound false port an with
      | some k => if nbit bad an then s.saEcc k else s
      | none => s)
    split
    · exact ite (h.saEcc _) h
    · exact h
  clear_value u
  refine ite_snd (hu.cipInc _ _) (ite_snd (hu.noSa _) ?_)
  split
  · exact hu.noSa _
  · exact ite_snd hu (hu.changeover _ _ _ _)

theorem takePn (k : Nat) : s0.Aside (fun _ => False) (s.takePn k).2 :=
  raiseIf (raiseIf (s := s.setSa k _) (h.trans ⟨rfl, rfl, rfl, rfl, rfl, fun _ _ => rfl⟩) _ _ _ fun x => x) _ _ _ fun x => x

end State.Aside

/-- R263: the slot goes on to the next PN. -/
theorem State.takePn_pn {s : State} (hc : s.Canonical) (k : Nat) : ((s.takePn k).2.saAt k).pn = (s.saAt k).pn + 1 := by
  have hset : ∀ x : SaSlot, (s.setSa k x).saAt k = x := fun x => Cells.get_set hc.sa _ _
  have hraise : ∀ (u : State) (b : Bool) (n c i : Nat), (u.raiseIf b n c i).saAt k = u.saAt k := fun u b n c i => by
    rw [State.raiseIf_same]
    rfl
  unfold State.takePn
  dsimp only
  rw [hraise, hraise, hset]

/-! ### The copy begins -/

/-- The state in which copy `c` begins; a half-duplex port starts afresh with it. -/
def State.begun (s : State) (c : Copy) : State :=
  let y := s.begins c
  if y.portMode c.port = 8 then y.setPort c.port { y.port c.port with coll := 0, toBusy := true } else y

section
variable {s : State} {c : Copy}

/-- What a change of a port leaves is as `State.begins` leaves it. -/
theorem State.begun_begins {α : Type} (f : State → α) (hport : ∀ (u : State) n x, f (u.setPort n x) = f u) : f (s.begun c) = f (s.begins c) :=
  iteInduction (motive := fun u => f u = f (s.begins c)) (fun _ => hport _ _ _) fun _ => rfl

/-- What no change of a frame, a port or the virtual times touches is as before. -/
theorem State.begun_same {α : Type} (f : State → α) (hport : ∀ (u : State) n x, f (u.setPort n x) = f u) (hfair : ∀ (u : State) v, f { u with wfqV := v } = f u)
    (hframe : ∀ g, f (s.setFrame g) = f s) : f (s.begun c) = f s :=
  (State.begun_begins f hport).trans ((congrArg f (State.wfqTaken_only _ c)).trans ((hfair _ _).trans (hframe _)))

theorem State.begun_keeps : s.Keeps (s.begun c) := by
  have hb : s.Keeps (s.begins c) := State.begins_keeps (State.Keeps.refl s) c
  exact State.Keeps.ite (State.setPort_keeps hb _ _) hb

theorem State.begun_copies : (s.begun c).copies = s.copies := State.begun_same State.copies (fun _ _ _ => rfl) (fun _ _ => rfl) fun _ => rfl

theorem State.begun_now : (s.begun c).now = s.now := State.begun_same State.now (fun _ _ _ => rfl) (fun _ _ => rfl) fun _ => rfl

theorem State.begun_encrypts (n ety : Nat) : (s.begun c).encrypts n ety = s.encrypts n ety :=
  State.begun_same (fun u => u.encrypts n ety) (fun _ _ _ => rfl) (fun _ _ => rfl) fun _ => rfl

theorem State.begun_ety (hn : s.Numbered) : ((s.begun c).frame c.fid).ety = (s.frame c.fid).ety := by
  obtain ⟨x, hx⟩ := State.frame_begins s c hn
  rw [State.begun_begins (fun u => u.frame c.fid) fun _ _ _ => rfl, hx]
  rfl

/-- The copy as a port sends it without protection. -/
def State.plainCopy (s : State) (c : Copy) (start : Nat) : Copy :=
  { c with st := 1, start := start, stamp := if c.port < 24 then (s.begun c).fresh.2.txStamps c.port ((s.begun c).fresh.1.toNat % 193) else [] }

theorem State.begun_encrypts_ety (hn : s.Numbered) (n : Nat) : (s.begun c).encrypts n ((s.begun c).frame c.fid).ety = s.encrypts n (s.frame c.fid).ety :=
  (State.begun_encrypts n _).trans (congrArg (s.encrypts n) (State.begun_ety hn))

/-- What the choice of an SA for port `n` answers when a copy has begun. -/
def State.saChoice (s : State) (c : Copy) (n saBad : Nat) : Option Nat × State := (s.begun c).fresh.2.encodeSa n saBad

theorem State.saChoice_keeps (n saBad : Nat) : s.Keeps (s.saChoice c n saBad).2 := State.encodeSa_keeps (State.fresh_keeps State.begun_keeps) _ _

theorem State.saChoice_copies (n saBad : Nat) : (s.saChoice c n saBad).2.copies = s.copies :=
  ((State.Aside.refl (s.begun c).fresh.2).encodeSa n saBad).copies.trans State.begun_copies

/-- The copy as port `n` sends it under slot `k`. -/
def State.securedCopy (s : State) (c : Copy) (n saBad k : Nat) : Copy :=
  { c with
    st := 1, start := (s.begun c).now, stamp := (s.begun c).fresh.2.txStamps n ((s.begun c).fresh.1.toNat % 193), slot := some k
    pn := ((s.saChoice c n saBad).2.takePn k).1, secCfg := (s.begun c).hw (CIP_PORT_CFG.a n)
    sci := (s.begun c).sciAt (CIP_TXSCI_LO.a n) (CIP_TXSCI_HI.a n) }

/-- The frame of a copy that does not begin after all. -/
def State.unbegun (s : State) (c : Copy) : Frame := { (s.begun c).frame c.fid with begun := (s.frame c.fid).begun }

/-- What becomes of a copy for a protected port `n`, by the slot that has been chosen. -/
def State.startUnder (s : State) (c : Copy) (n saBad : Nat) : Option Nat → State
  | none => (((s.saChoice c n saBad).2.setFrame (s.unbegun c)).copyDrop c).wfqAll
  | some k => ((s.saChoice c n saBad).2.takePn k).2.setCopy (s.securedCopy c n saBad k)

theorem State.startCopy_eq (saBad : Nat) : s.startCopy c saBad =
    if (s.begun c).encrypts c.port ((s.begun c).frame c.fid).ety then s.startUnder c c.port saBad (s.saChoice c c.port saBad).1
    else (s.begun c).fresh.2.setCopy (s.plainCopy c (s.begun c).now) := rfl

theorem State.startCopy_plain (hn : s.Numbered) (h : s.encrypts c.port (s.frame c.fid).ety = false) (saBad : Nat) :
    s.startCopy c saBad = (s.begun c).fresh.2.setCopy (s.plainCopy c s.now) := by
  rw [State.startCopy_eq, State.begun_encrypts_ety hn, h, State.begun_now]
  rfl

theorem State.startCopy_protected (hn : s.Numbered) {n : Nat} (hport : c.port = n) (h : s.encrypts n (s.frame c.fid).ety = true) (saBad : Nat) :
    s.startCopy c saBad = s.startUnder c n saBad (s.saChoice c n saBad).1 := by
  subst hport
  exact (State.startCopy_eq saBad).trans (if_pos ((State.begun_encrypts_ety hn _).trans h))

end

end Sys2Proof.Machine
end

noncomputable section
/-! SUPPORT. EGRESS_SELECT: what a port sends, and when it sends nothing (10 R221, R222, 11 R259, 12 R280, R287, R288). -/

namespace Sys2Proof.Machine

/-! ### Whether the port selects -/

theorem exec_egressSelect {s : State} (hp : s.powered = true) (n : Fin 28) (edge : Fin 4) (corr : Fin 64) (bad : Option (Fin 64)) (saBad : BitVec 4) :
    exec (.egressSelect n edge corr bad saBad) s =
      .next (s.egressSelect n.val corr.val (bad.map (·.val)) saBad.toNat (3 - edge.val)) := next_live s _ hp

theorem State.egressSelect_barred {s : State} {n : Nat} (h : s.linkUp n = false ∨ s.portOn n = false ∨ s.mayTalk n = false) (corr : Nat) (bad : Option Nat)
    (saBad b : Nat) : s.egressSelect n corr bad saBad b = s := by
  refine if_pos ?_
  obtain h | h | h := h
  · exact .inr (.inl h)
  · exact .inr (.inr (.inl h))
  · exact .inr (.inr (.inr (.inr h)))

/-- What egress sees of a state on the SWC edge `b` ns before the tick: the entries that are due have acted, and an express copy has preempted. -/
def State.atEdge (s : State) (n b : Nat) : State := (State.fireAll s.queued s.phsDue).preempt n b

theorem State.atEdge_keeps (s : State) (n b : Nat) : s.Keeps (s.atEdge n b) :=
  State.preempt_keeps (State.fireAll_keeps (State.phsDue_keeps (State.Keeps.refl s)) _) _ _

theorem State.egressSelect_open {s : State} {n : Nat} (h : s.MaySend n) (corr : Nat) (bad : Option Nat) (saBad b : Nat) :
    s.egressSelect n corr bad saBad b =
      if ((s.atEdge n b).sending n).isSome then s.atEdge n b else (s.atEdge n b).selectNext n corr bad saBad b := by
  refine if_neg ?_
  rintro (hn | hl | ho | ⟨hlt, ht⟩ | hm)
  · exact h.notLoop hn
  · simp [h.link] at hl
  · simp [h.on] at ho
  · exact ht (h.noTest hlt)
  · simp [h.talk] at hm

theorem exec_egressSelect_sending {s : State} {n : Fin 28} (h : s.MaySend n.val) (edge : Fin 4) (hs : (s.atEdge n.val (3 - edge.val)).sending n.val ≠ none) (corr : Fin 64)
    (bad : Option (Fin 64)) (saBad : BitVec 4) : exec (.egressSelect n edge corr bad saBad) s = .next (s.atEdge n.val (3 - edge.val)) := by
  rw [exec_egressSelect h.powered, State.egressSelect_open h, if_pos (Option.isSome_iff_ne_none.2 hs)]

theorem exec_egressSelect_next {s : State} {n : Fin 28} (h : s.MaySend n.val) (edge : Fin 4) (hs : (s.atEdge n.val (3 - edge.val)).sending n.val = none) (corr : Fin 64)
    (bad : Option (Fin 64)) (saBad : BitVec 4) : exec (.egressSelect n edge corr bad saBad) s =
      .next ((s.atEdge n.val (3 - edge.val)).selectNext n.val corr.val (bad.map (·.val)) saBad.toNat (3 - edge.val)) := by
  rw [exec_egressSelect h.powered, State.egressSelect_open h, hs]
  rfl

/-! ### What it selects -/

/-- What a port does with the copy that it selects. -/
def State.chosen (s : State) (n corr : Nat) (bad : Option Nat) (saBad : Nat) (c : Copy) : State :=
  if bad = some 0 then (s.mereRead c.fid corr bad).wfqAll
  else (if ((s.startCopy c saBad).sending n).isSome then (s.startCopy c saBad).mereRead c.fid corr bad else s.startCopy c saBad).wfqAll

/-- What a port does with `r`: what the order of R221 finds, and the state in which it finds it. -/
def State.selected (n corr : Nat) (bad : Option Nat) (saBad b : Nat) (r : Option Copy × State) : State :=
  match r.1 with
  | some c => r.2.chosen n corr bad saBad c
  | none =>
    match r.2.suspended n with
    | some c =>
      if c.deadline ≤ r.2.now then (r.2.residence n).wfqAll
      else if r.2.canResume n c b then r.2.setCopy { c with st := 1, frag := c.paid } else r.2
    | none => r.2

section
variable {w : State} {n b : Nat} {c : Copy} (hu : w.Unbusy n)
include hu

/-- Nothing confines the selection of an idle port to express classes. -/
theorem State.Unbusy.anyClass : ((w.suspended n).isSome || (w.preActive n && w.on (SLU_GATE.a n) SLU_GATE.hold)) = false := by
  rw [hu.noRest, hu.noHold]
  rfl

theorem State.selectNext_found {r : Option Copy × State} (h : State.pick (w.copies.length + 1) w n false b = r) (corr : Nat) (bad : Option Nat) (saBad : Nat) :
    w.selectNext n corr bad saBad b = State.selected n corr bad saBad b r :=
  congrArg (State.selected n corr bad saBad b) ((congrArg (fun ex => State.pick (w.copies.length + 1) w n ex b) hu.anyClass).trans h)

theorem State.selectNext_none (h : w.tryList b (w.selOrder n false) = none) (corr : Nat) (bad : Option Nat) (saBad : Nat) :
    w.selectNext n corr bad saBad b = w := by
  rw [State.selectNext_found hu (copy_pick_none _ w n false b h)]
  unfold State.selected
  dsimp only
  rw [hu.noRest]

section
variable (h : w.tryList b (w.selOrder n false) = some (.inl c))
include h

theorem State.selectNext_some (corr : Nat) (bad : Option Nat) (saBad : Nat) : w.selectNext n corr bad saBad b = w.chosen n corr bad saBad c :=
  State.selectNext_found hu (copy_pick_some _ w n false b c h) ..

theorem State.selectNext_lost (corr saBad : Nat) : w.selectNext n corr (some 0) saBad b = (w.mereRead c.fid corr (some 0)).wfqAll :=
  (State.selectNext_some hu h ..).trans (if_pos rfl)

theorem State.selectNext_read (corr saBad : Nat) : w.selectNext n corr none saBad b =
    (if ((w.startCopy c saBad).sending n).isSome then (w.startCopy c saBad).mereRead c.fid corr none else w.startCopy c saBad).wfqAll :=
  (State.selectNext_some hu h ..).trans (if_neg (Option.some_ne_none 0).symm)

end

end

/-- A copy put in transmission on a port is what the port sends. -/
theorem State.sending_setCopy {s : State} {c x : Copy} (hm : c ∈ s.copies) (hid : c.id = x.id) (hst : x.st = 1) : ((s.setCopy x).sending x.port).isSome = true := by
  refine List.find?_isSome.2 ⟨x, copy_setCopy_mem s c x hm hid, ?_⟩
  rw [hst]
  simp

section
variable {w : State} {n b : Nat} {c : Copy} (hn : w.Numbered) (hu : w.Unbusy n) (h : w.tryList b (w.selOrder n false) = some (.inl c))
include hn hu h

omit hn in
/-- A copy that begins is what the port sends, and its frame is read. -/
theorem State.selectNext_begins {u : State} {x : Copy} {corr saBad : Nat} (hnum : u.Numbered) (hm : c ∈ u.copies) (hid : c.id = x.id) (hst : x.st = 1) (hport : x.port = n)
    (hstart : w.startCopy c saBad = u.setCopy x) : ((u.setCopy x).bumpN QM_MERE_ECC.a QM_MERE_ECC.corr corr).Fair (w.selectNext n corr none saBad b) := by
  have hsend : ((u.setCopy x).sending n).isSome = true := hport ▸ State.sending_setCopy hm hid hst
  rw [State.selectNext_read hu h, hstart, if_pos hsend]
  exact State.wfqAll_fair _ ((State.bumpN_keeps (State.setCopy_keeps (State.Keeps.refl u) x) _ _ _).numbered hnum)

/-- R222: a copy that a port sends unprotected. -/
theorem State.selectNext_plain (henc : w.encrypts n (w.frame c.fid).ety = false) {start : Nat} (hnow : w.now = start) (corr saBad : Nat) :
    (((w.begun c).fresh.2.setCopy (w.plainCopy c start)).bumpN QM_MERE_ECC.a QM_MERE_ECC.corr corr).Fair (w.selectNext n corr none saBad b) :=
  have hsel := copy_selOrder_mem w n false c (copy_tryList_mem w b _ c h)
  State.selectNext_begins hu h ((State.fresh_keeps State.begun_keeps).numbered hn) (State.begun_copies.symm ▸ hsel.1) rfl rfl hsel.2
    (hnow ▸ State.startCopy_plain hn (hsel.2.symm ▸ henc) saBad)

/-- R259, R263: a copy that a port sends under slot `k`. -/
theorem State.selectNext_secured (hc : w.Canonical) (henc : w.encrypts n (w.frame c.fid).ety = true) (corr : Nat) {saBad k : Nat} (hk : (w.saChoice c n saBad).1 = some k) :
    ∃ x ∈ (w.selectNext n corr none saBad b).copies, x.id = c.id ∧ x.st = 1 ∧ x.slot = some k ∧ x.pn = ((w.saChoice c n saBad).2.saAt k).pn ∧
      ((w.selectNext n corr none saBad b).saAt k).pn = x.pn + 1 := by
  have hsel := copy_selOrder_mem w n false c (copy_tryList_mem w b _ c h)
  have hkv : w.Keeps (w.saChoice c n saBad).2 := State.saChoice_keeps n saBad
  have hm : c ∈ ((w.saChoice c n saBad).2.takePn k).2.copies := (((State.Aside.refl _).takePn k).copies.trans (State.saChoice_copies n saBad)).symm ▸ hsel.1
  have hfair := State.selectNext_begins (x := w.securedCopy c n saBad k) (corr := corr) hu h ((State.takePn_keeps hkv k).numbered hn) hm rfl rfl hsel.2
    ((State.startCopy_protected hn hsel.2 henc saBad).trans (congrArg (w.startUnder c n saBad) hk))
  refine (hfair.mem (copy_setCopy_mem _ c (w.securedCopy c n saBad k) hm rfl)).imp fun x hx => ?_
  have hpn : x.pn = ((w.saChoice c n saBad).2.saAt k).pn := (congrArg Copy.pn hx.2 :)
  exact ⟨hx.1, (congrArg Copy.id hx.2 :), (congrArg Copy.st hx.2 :), (congrArg Copy.slot hx.2 :), hpn,
    (congrArg SaSlot.pn (hfair.saAt k)).trans ((State.takePn_pn (hkv.canon hc) k).trans (congrArg (· + 1) hpn.symm))⟩

/-- R264: a copy for which there is no SA goes. -/
theorem State.selectNext_noSa (henc : w.encrypts n (w.frame c.fid).ety = true) (corr : Nat) {saBad : Nat} (hk : (w.saChoice c n saBad).1 = none) :
    ∀ x ∈ (w.selectNext n corr none saBad b).copies, x.id ≠ c.id := by
  have hsel := copy_selOrder_mem w n false c (copy_tryList_mem w b _ c h)
  have hkv : w.Keeps (w.saChoice c n saBad).2 := State.saChoice_keeps n saBad
  have hstart := (State.startCopy_protected hn hsel.2 henc saBad).trans (congrArg (w.startUnder c n saBad) hk)
  have hlacks : (w.startCopy c saBad).Lacks c.id :=
    hstart ▸ (State.copyDrop_lacks ((State.setFrame_keeps hkv (w.unbegun c)).numbered hn) ((State.saChoice_copies n saBad).symm ▸ hsel.1)).wfqAll
  rw [State.selectNext_read hu h]
  exact (State.Lacks.wfqAll (.ite (hlacks.beside (State.bumpN_aside _ _ _ fun x => x)) hlacks)).2

/-- R193: a frame whose first cell cannot be read. -/
theorem State.selectNext_lost_facts (hc : w.Canonical) (hlen : (w.frame c.fid).len ≠ 0) (corr saBad : Nat) :
    (∀ x ∈ (w.selectNext n corr (some 0) saBad b).copies, x.fid = c.fid → x.st ≠ 0) ∧
    fldGet ((w.selectNext n corr (some 0) saBad b).reg (EVT_SRC_STAT.a 43)) EVT_SRC_STAT.pend = 1 := by
  have hlost := State.mereRead_lost_facts hc corr hlen
  have hfair : (w.mereRead c.fid corr (some 0)).Fair (w.mereRead c.fid corr (some 0)).wfqAll :=
    State.wfqAll_fair _ ((State.mereRead_keeps (State.Keeps.refl w) _ _ _).numbered hn)
  rw [State.selectNext_lost hu h]
  exact ⟨hfair.noneWaits hlost.1, (congrArg (fun r => fldGet r EVT_SRC_STAT.pend) (hfair.reg _)).trans hlost.2⟩

end

end Sys2Proof.Machine
end

noncomputable section
/-! SUPPORT. FRAME_TRANSMITTED: the copy leaves, and what its port sends and counts (10 R222, 12 R283, R290, R292, 13 R316). -/

namespace Sys2Proof.Machine

/-! ### What P26 takes in moves no copy -/

namespace State.Aside

variable {s0 s : State} (h : s0.Aside (fun _ => False) s)
include h

theorem gwCount (k : Nat) : s0.Aside (fun _ => False) (s.gwCount k) := h.bump _ fun x => x

theorem setMw (o v : Nat) : s0.Aside (fun _ => False) (s.setMw o v) := h.trans ⟨rfl, rfl, rfl, rfl, rfl, fun _ hx => hx.elim⟩

theorem putMsg (u h0 h1 t : Nat) (data : List Byte) : s0.Aside (fun _ => False) (s.putMsg u h0 h1 t data) :=
  ((setMw (s := s.setMsg (unitOff u + 16) data) (h.trans ⟨rfl, rfl, rfl, rfl, rfl, fun _ hx => hx.elim⟩) _ _).setMw _ _).setMw _ _ |>.setMw _ _

theorem queueMsg (l : List GwMsg) (sq : Nat) (q : List Nat) : s0.Aside (fun _ => False) (State.setInq { s with msgs := l } sq q) :=
  h.trans ⟨rfl, rfl, rfl, rfl, rfl, fun _ hx => hx.elim⟩

theorem gwIn (sq : Nat) (m : GwMsg) (h0 h1 t : Nat) (data : List Byte) : s0.Aside (fun _ => False) (s.gwIn sq m h0 h1 t data) := by
  unfold State.gwIn
  dsimp only
  split
  · exact (h.gwCount _).raise _ _ fun x => x
  · exact ite ((h.gwCount _).raise _ _ fun x => x) ((h.putMsg _ _ _ _ _).queueMsg _ _ _)

theorem acfTake (sq : Nat) (a : List Byte) : s0.Aside (fun _ => False) (s.acfTake sq a) := ite (h.gwIn _ _ _ _ _ _) (h.gwIn _ _ _ _ _ _)

theorem acfWalk (k sq n : Nat) (l : List Byte) : s0.Aside (fun _ => False) (s.acfWalk k sq n l) := by
  induction n generalizing s l with
  | zero => exact h
  | succ n ih =>
    unfold State.acfWalk
    dsimp only
    exact ite h (ite ((h.gwCount _).raise _ _ fun x => x) (ih (ite (h.acfTake _ _) (h.gwCount _)) _))

theorem acfRx (d : List Byte) : s0.Aside (fun _ => False) (s.acfRx d) := by
  unfold State.acfRx
  dsimp only
  refine ite ?_ h
  split
  · exact h.gwCount _
  next k _ =>
    have h1 : ∀ x, s0.Aside (fun _ => False) { s with rxStr := Cells.set (fun _ => {}) s.rxStr k x } := fun x =>
      h.trans ⟨rfl, rfl, rfl, rfl, rfl, fun _ _ => rfl⟩
    refine ite (acfWalk ?_ _ _ _ _) (acfWalk ?_ _ _ _ _)
    all_goals
      split
      · exact ite (h1 _) ((h1 _).gwCount _)
      · exact h1 _

theorem setTim (x : TimSt) : s0.Aside (fun _ => False) { s with tim := x } := h.trans ⟨rfl, rfl, rfl, rfl, rfl, fun _ _ => rfl⟩

theorem pushTxts (e : TsEntry) : s0.Aside (fun _ => False) (s.pushTxts e) := ite (h.setTim _) ((h.setTim { s.tim with txLost := true }).raise _ _ fun x => x)

theorem txPtp (c : Copy) (d : List Byte) : s0.Aside (fun _ => False) (s.txPtp c d) := by
  refine ite ?_ h
  split
  · exact ite (h.pushTxts _) h
  · exact h

end State.Aside

/-! ### The copy leaves -/

/-- No copy has the number. -/
def State.Without (s : State) (id : Nat) : Prop := ∀ x ∈ s.copies, x.id ≠ id

theorem State.Without.ite {s t : State} {id : Nat} {p : Prop} [Decidable p] (h : s.Without id) (k : t.Without id) : (if p then s else t).Without id :=
  iteInduction (motive := fun u : State => u.Without id) (fun _ => h) fun _ => k

theorem State.sendOut_gone (s : State) (c : Copy) : (s.sendOut c).Without c.id := by
  have hlane : ∀ (u : State) (n : Nat), (u.laneNote n).copies = u.copies := fun u n => (congrArg State.copies (u.laneNote_same n) :)
  exact fun x hx => copy_copyGone_gone _ c x (hlane _ _ ▸ hx)

/-- A copy that has left its port is among the copies no more. -/
theorem State.leave_gone (s : State) (c : Copy) (desc : List Byte) : (s.leave c desc).Without c.id := by
  have hgone : ∀ u : State, (u.copyGone c).Without c.id := fun u => copy_copyGone_gone u c
  have hacf : ((s.copyGone c).acfRx (s.copyPlain c).1).Without c.id := fun x hx =>
    hgone s x (((State.Aside.refl (s.copyGone c)).acfRx (s.copyPlain c).1).copies ▸ hx)
  exact .ite (s.sendOut_gone c) (.ite (.ite (hgone s) hacf) (.ite (hgone s) (hgone _)))

theorem exec_frameTransmitted_idle {s : State} (hp : s.powered = true) {n : Fin 28} (h : s.sending n.val = none) (d : List Byte) :
    exec (.frameTransmitted n d) s = .next s := by
  refine (next_live s _ hp).trans ?_
  rw [h]

/-- What the receive ring of P24 or P25 shows the end of a transmission as its descriptor. -/
def State.descAt (s : State) (c : Copy) (d : List Byte) : List Byte := if c.port = 24 then s.carrRead (s.ringDesc 3 (s.ringFor 24 c.tc)) 64 else slice d 0 64

theorem exec_frameTransmitted {s : State} (hp : s.powered = true) {n : Fin 28} {c : Copy} (h : s.sending n.val = some c) (d : List Byte) :
    exec (.frameTransmitted n d) s = .next (((s.payRest c).leave c (s.descAt c d)).wfqAll) := by
  refine (next_live s _ hp).trans ?_
  rw [h]
  unfold State.transmitted
  rw [h]
  rfl

/-! ### What the port sends -/

theorem mibKey_ne {port j k : Nat} (h : j ≠ k) : port * 32 + j ≠ port * 32 + k := fun he => h (Nat.add_left_cancel he)

/-- `s` with other credits. -/
def State.withCredit (s : State) (x : Cells Int) : State := { s with credit := x }

theorem State.payRest_credit (s : State) (c : Copy) : ∃ x, s.payRest c = s.withCredit x :=
  iteInduction (motive := fun u => ∃ x, u = s.withCredit x) (fun _ => ⟨_, rfl⟩) fun _ => ⟨s.credit, rfl⟩

/-- The state in which a counter of a port has counted, if it does. -/
def State.mibIf (s : State) (port k : Nat) (b : Bool) : State := if b then s.mibInc port k else s

/-- The state in which a copy that is not protected has been recorded and counted, but for the counters of its port. -/
def State.outNoted (s : State) (c : Copy) : State :=
  let u := (s.mibIf c.port 17 (s.copyPlain c).2).txPtp c (s.copyPlain c).1
  if s.on (CIP_PORT_CFG.a c.port) CIP_PORT_CFG.macsec_en && s.bypassed c.port (s.frame c.fid).ety then u.cipInc c.port 10 else u

/-- The frame `w` goes to the balls of port `n`, or to its loopback. -/
def State.toWire (s : State) (n : Nat) (x : PortSt) (w : List Byte) : State :=
  if x.lpbk = 0 then s.emit (.frame n w) else s.setPort n { x with loop := x.loop ++ [w] }

/-- The frame that a port sends for a copy that is neither padded nor protected. -/
def State.sentFrame (s : State) (c : Copy) : List Byte := (s.copyPlain c).1 ++ fcsOf (s.copyPlain c).1

section
variable {s : State} {c : Copy}

theorem State.sendOut_plain (hlp : (s.port c.port).lpbk ≠ 3) (hslot : c.slot = none) (hmir : c.mir = none) (hmark : c.mark = false) (hlen : 60 ≤ (s.copyPlain c).1.length) :
    s.sendOut c = (((((s.outNoted c).txCount c (s.sentFrame c).length).toWire c.port (s.port c.port) (s.sentFrame c)).copyGone c).laneNote c.port) := by
  have hcut : s.mirrorCut c (s.copyPlain c).1 = (s.copyPlain c).1 := by
    unfold State.mirrorCut
    rw [hmir]
  have hpad : decide ((s.mirrorCut c (s.copyPlain c).1).length < 60) = false := decide_eq_false (by rw [hcut]; exact Nat.not_lt.2 hlen)
  refine congrArg (fun u : State => (u.copyGone c).laneNote c.port) ((if_neg hlp).trans
    (congrArg₂ (fun (u : State) (w : List Byte) => (u.txCount c w.length).toWire c.port (s.port c.port) w) (x' := s.outNoted c) (y' := s.sentFrame c) ?_ ?_))
  · rw [hslot, hpad]
    rfl
  · rw [hslot, hpad, hcut, hmark]
    rfl

theorem State.mibIf_keeps (port k : Nat) (b : Bool) : s.Keeps (s.mibIf port k b) := State.Keeps.ite (State.mibInc_keeps (State.Keeps.refl s) _ _) (State.Keeps.refl s)

theorem State.mibIf_mib (hc : s.Canonical) (port : Nat) {k j : Nat} (hne : j ≠ k) (b : Bool) :
    Cells.get (fun _ => 0) (s.mibIf port k b).mib (port * 32 + j) = Cells.get (fun _ => 0) s.mib (port * 32 + j) := by
  cases b with
  | false => rfl
  | true => exact (State.mib_mibAdd hc port k 1 _).trans (if_neg (mibKey_ne hne))

theorem State.outNoted_keeps (c : Copy) : s.Keeps (s.outNoted c) := by
  have hu := State.txPtp_keeps (State.mibIf_keeps (s := s) c.port 17 (s.copyPlain c).2) c (s.copyPlain c).1
  exact State.Keeps.ite (State.cipInc_keeps hu _ _) hu

theorem State.outNoted_mib (hc : s.Canonical) : Cells.get (fun _ => 0) (s.outNoted c).mib (c.port * 32 + 10) = Cells.get (fun _ => 0) s.mib (c.port * 32 + 10) := by
  have hu := (State.Aside.refl (s.mibIf c.port 17 (s.copyPlain c).2)).txPtp c (s.copyPlain c).1
  have hall : (s.mibIf c.port 17 (s.copyPlain c).2).Aside (fun _ => False) (s.outNoted c) := .ite (hu.cipInc _ _) hu
  rw [hall.mib]
  exact State.mibIf_mib hc c.port (by decide) _

theorem State.txCount_good (hmark : c.mark = false) (k : Nat) : ∃ ovl, s.txCount c k = ((s.mibIf c.port 14 ovl).mibInc c.port 10).mibAdd c.port 11 k :=
  ⟨_, if_neg (by rw [hmark]; decide)⟩

/-- R292: a good frame that is sent is counted once. -/
theorem State.txCount_mib (hc : s.Canonical) (hmark : c.mark = false) (k : Nat) :
    Cells.get (fun _ => 0) (s.txCount c k).mib (c.port * 32 + 10) = (Cells.get (fun _ => 0) s.mib (c.port * 32 + 10) + 1) % 2 ^ 64 := by
  obtain ⟨ovl, hcount⟩ := State.txCount_good (s := s) hmark k
  have hcu : (s.mibIf c.port 14 ovl).Canonical := (State.mibIf_keeps c.port 14 ovl).canon hc
  rw [hcount, State.mib_mibAdd ((State.mibInc_keeps (State.Keeps.refl _) _ _).canon hcu), if_neg (mibKey_ne (by decide)), ← State.mibIf_mib hc c.port (by decide : 10 ≠ 14) ovl]
  exact (State.mib_mibAdd hcu c.port 10 1 _).trans (if_pos rfl)

/-! ### Where the frame goes -/

variable {n : Nat} {x : PortSt} {w : List Byte}

theorem State.toWire_out (h : x.lpbk = 0) : Output.frame n w ∈ (s.toWire n x w).out := by
  unfold State.toWire
  rw [if_pos h]
  exact List.mem_cons_self

theorem State.toWire_loop (hc : s.Canonical) (h : x.lpbk ≠ 0) : ((s.toWire n x w).port n).loop = x.loop ++ [w] := by
  unfold State.toWire
  rw [if_neg h, port_setPort _ _ _ hc]

theorem State.toWire_mib : (s.toWire n x w).mib = s.mib := by
  unfold State.toWire
  split <;> rfl

theorem State.toWire_keeps : s.Keeps (s.toWire n x w) :=
  State.Keeps.ite (State.emit_keeps (State.Keeps.refl s) _) (State.setPort_keeps (State.Keeps.refl s) _ _)

/-- The state in which the frame of a copy that is neither padded nor protected has gone. -/
def State.gone (s : State) (c : Copy) : State := ((s.outNoted c).txCount c (s.sentFrame c).length).toWire c.port (s.port c.port) (s.sentFrame c)

theorem State.gone_keeps : s.Keeps (s.gone c) :=
  (State.txCount_keeps (State.outNoted_keeps c) c _).trans State.toWire_keeps

theorem State.gone_mib (hc : s.Canonical) (hmark : c.mark = false) :
    Cells.get (fun _ => 0) (s.gone c).mib (c.port * 32 + 10) = (Cells.get (fun _ => 0) s.mib (c.port * 32 + 10) + 1) % 2 ^ 64 := by
  unfold State.gone
  rw [State.toWire_mib, State.txCount_mib ((State.outNoted_keeps c).canon hc) hmark, State.outNoted_mib hc]

theorem State.gone_loop (hc : s.Canonical) (h : (s.port c.port).lpbk ≠ 0) : ((s.gone c).port c.port).loop = (s.port c.port).loop ++ [s.sentFrame c] :=
  State.toWire_loop ((State.txCount_keeps (State.outNoted_keeps c) c _).canon hc) h

/-- What the last steps of a transmission leave of outputs, ports and port counters. -/
theorem State.Fair.ofGone {u t : State} {c : Copy} (hc : u.Canonical) (h : ((u.copyGone c).laneNote n).Fair t) :
    u.out <:+ t.out ∧ (t.port n).loop = (u.port n).loop ∧ t.mib = u.mib := by
  have hgone := (u.copyGone_departs c).1
  have hkc : u.Keeps (u.copyGone c) := State.copyGone_keeps (State.Keeps.refl u) c
  have hlane : (((u.copyGone c).laneNote n).port n).loop = ((u.copyGone c).port n).loop :=
    (port_laneNote_facts (u.copyGone c) n (hkc.canon hc)).2.1.elim fun _ hport => (congrArg PortSt.loop hport :)
  have hmib : ((u.copyGone c).laneNote n).mib = (u.copyGone c).mib := (congrArg State.mib (State.laneNote_same _ _) :)
  exact ⟨h.out ▸ (State.laneNote_keeps hkc n).out, (congrArg PortSt.loop (h.port n)).trans (hlane.trans (congrArg (fun w => (w.port n).loop) hgone :)),
    h.mib.trans (hmib.trans (congrArg State.mib hgone :))⟩

/-- R283, R290, R292: what a port sends and counts of a copy that is neither padded nor protected. -/
theorem State.Fair.sendOut_facts {t : State} (hc : s.Canonical) (hlp : (s.port c.port).lpbk ≠ 3) (hslot : c.slot = none) (hmir : c.mir = none) (hmark : c.mark = false)
    (hlen : 60 ≤ (s.copyPlain c).1.length) (h : (s.sendOut c).Fair t) :
    ((s.port c.port).lpbk = 0 → Output.frame c.port (s.sentFrame c) ∈ t.out) ∧
    ((s.port c.port).lpbk ≠ 0 → (t.port c.port).loop = (s.port c.port).loop ++ [s.sentFrame c]) ∧
    Cells.get (fun _ => 0) t.mib (c.port * 32 + 10) = (Cells.get (fun _ => 0) s.mib (c.port * 32 + 10) + 1) % 2 ^ 64 := by
  rw [State.sendOut_plain hlp hslot hmir hmark hlen] at h
  obtain ⟨hout, hloop, hmib⟩ := State.Fair.ofGone (u := s.gone c) (State.gone_keeps.canon hc) h
  refine ⟨fun h0 => hout.subset (State.toWire_out h0), fun h0 => hloop.trans (State.gone_loop hc h0), ?_⟩
  rw [hmib]
  exact State.gone_mib hc hmark

end

theorem State.sending_port {s : State} {n : Nat} {c : Copy} (h : s.sending n = some c) : c.port = n :=
  beq_iff_eq.1 (Bool.and_eq_true_iff.1 (find_mem_id h).2).1

theorem State.leave_fair {s : State} (hn : s.Numbered) (c : Copy) (d : List Byte) : ((s.payRest c).leave c d).Fair ((s.payRest c).leave c d).wfqAll :=
  State.wfqAll_fair _ ((State.leave_keeps (State.payRest_keeps (State.Keeps.refl s) c) c _).numbered hn)

/-- R283, R290, R292: the same for the end of a transmission as a whole. -/
theorem State.Fair.leave_facts {s t : State} (hc : s.Canonical) {n : Nat} {c : Copy} {desc : List Byte} (hport : c.port = n) (hlt : n < 24) (hlp : (s.port n).lpbk ≠ 3)
    (hslot : c.slot = none) (hmir : c.mir = none) (hmark : c.mark = false) (hlen : 60 ≤ (s.copyPlain c).1.length) (h : ((s.payRest c).leave c desc).Fair t) :
    ((s.port n).lpbk = 0 → Output.frame n (s.sentFrame c) ∈ t.out) ∧ ((s.port n).lpbk ≠ 0 → (t.port n).loop = (s.port n).loop ++ [s.sentFrame c]) ∧
    Cells.get (fun _ => 0) t.mib (n * 32 + 10) = (Cells.get (fun _ => 0) s.mib (n * 32 + 10) + 1) % 2 ^ 64 := by
  subst hport
  have hpaid := (State.payRest_keeps (State.Keeps.refl s) c).canon hc
  have hsent : ((s.payRest c).sendOut c).Fair t := (show (s.payRest c).leave c desc = (s.payRest c).sendOut c from if_pos hlt) ▸ h
  exact (s.payRest_credit c).elim fun x hx => State.Fair.sendOut_facts (s := s.withCredit x) (hx ▸ hpaid) hlp hslot hmir hmark hlen (hx ▸ hsent)

section
variable {s : State} (hn : s.Numbered) (hp : s.powered = true) {n : Fin 28} {c : Copy} (h : s.sending n.val = some c) (d : List Byte)
include hn hp h

theorem exec_frameTransmitted_gone : ∃ t : State, exec (.frameTransmitted n d) s = .next t ∧ ∀ x ∈ t.copies, x.id ≠ c.id :=
  ⟨_, exec_frameTransmitted hp h d, copy_Fair_gone (State.leave_fair hn c _) c.id (State.leave_gone _ c _)⟩

/-- What O32 says of a frame that is sent. -/
theorem exec_frameTransmitted_sent (hc : s.Canonical) (hlt : n.val < 24) (hlp : (s.port n.val).lpbk ≠ 3) (hslot : c.slot = none) (hmir : c.mir = none)
    (hmark : c.mark = false) (hlen : 60 ≤ (s.copyPlain c).1.length) :
    ∃ t : State, exec (.frameTransmitted n d) s = .next t ∧ ((s.port n.val).lpbk = 0 → Output.frame n.val (s.sentFrame c) ∈ t.out) ∧
      ((s.port n.val).lpbk ≠ 0 → (t.port n.val).loop = (s.port n.val).loop ++ [s.sentFrame c]) ∧
      Cells.get (fun _ => 0) t.mib (n.val * 32 + 10) = (Cells.get (fun _ => 0) s.mib (n.val * 32 + 10) + 1) % 2 ^ 64 :=
  ⟨_, exec_frameTransmitted hp h d, State.Fair.leave_facts hc (State.sending_port h) hlt hlp hslot hmir hmark hlen (State.leave_fair hn c _)⟩

end

end Sys2Proof.Machine
end

noncomputable section
/-! SUPPORT. Launch times and residence limits (10 R230, R242), and egress as a whole. -/

namespace Sys2Proof.Machine

/-! ### LAUNCH_TIME_REACHED (R230) -/

/-- A held copy of port `n` whose launch time has come. -/
def State.LaunchDue (s : State) (n : Nat) (c : Copy) : Prop :=
  c.port = n ∧ c.timed = true ∧ (s.frame c.fid).ended = true ∧ c.peat = false ∧ (∃ w, c.rel = some w ∧ tdiff w s.tim.wkt ≤ 0)

/-- The launch time of a copy, if it has one, has come. -/
def State.relPast (s : State) (c : Copy) : Bool := match c.rel with
  | some t => decide (tdiff t s.tim.wkt ≤ 0)
  | none => false

theorem State.relPast_iff {s : State} {c : Copy} : s.relPast c = true ↔ ∃ w, c.rel = some w ∧ tdiff w s.tim.wkt ≤ 0 := by
  unfold State.relPast
  cases c.rel with
  | none => simp
  | some t => simp

theorem State.launchDue_iff {s : State} {n : Nat} {c : Copy} :
    (c.port == n && c.timed && (s.frame c.fid).ended && !c.peat && s.relPast c) = true ↔ s.LaunchDue n c := by
  unfold State.LaunchDue
  rw [← State.relPast_iff]
  simp only [Bool.and_eq_true, beq_iff_eq, Bool.not_eq_true', and_assoc]

/-- The first element of a list that a test finds, where one meets it. -/
theorem exists_find {p : Copy → Bool} {P : Copy → Prop} (hp : ∀ c, p c = true ↔ P c) {l : List Copy} (h : ∃ c ∈ l, P c) : ∃ c ∈ l, P c ∧ l.find? p = some c :=
  h.elim fun c hc => (Option.isSome_iff_exists.1 (List.find?_isSome.2 ⟨c, hc.1, (hp c).2 hc.2⟩)).imp fun _ hd =>
    ⟨List.mem_of_find?_eq_some hd, (hp _).1 (List.find?_some hd), hd⟩

theorem find_none {p : Copy → Bool} {P : Copy → Prop} (hp : ∀ c, p c = true ↔ P c) {l : List Copy} (h : ∀ c ∈ l, ¬P c) : l.find? p = none :=
  List.find?_eq_none.2 fun c hm hc => h c hm ((hp c).1 hc)

/-- What a port does with the copy that is due for its launch. -/
def State.launch (s : State) : Option Copy → State
  | some c => s.setCopy { c with timed := false }
  | none => s

theorem exec_launchTimeReached {s : State} (hp : s.powered = true) (n : Fin 28) {o : Option Copy}
    (h : s.copies.find? (fun c => c.port == n.val && c.timed && (s.frame c.fid).ended && !c.peat && s.relPast c) = o) :
    exec (.launchTimeReached n) s = .next (s.launch o).wfqAll :=
  have hreached : s.launchReached n.val = s.launch o := congrArg s.launch h
  (next_live s _ hp).trans (congrArg _ (congrArg State.wfqAll hreached))

/-- What O32 says of launch times. -/
theorem exec_launchTimeReached_facts {s : State} (hn : s.Numbered) (hp : s.powered = true) (n : Fin 28) :
    ((∃ c ∈ s.copies, s.LaunchDue n.val c) → ∃ c ∈ s.copies, s.LaunchDue n.val c ∧
      ∃ t : State, exec (.launchTimeReached n) s = .next t ∧ (s.setCopy { c with timed := false }).Fair t) ∧
    ((∀ c ∈ s.copies, ¬s.LaunchDue n.val c) → ∃ t : State, exec (.launchTimeReached n) s = .next t ∧ s.Fair t) :=
  ⟨fun h => (exists_find (fun _ => State.launchDue_iff) h).imp fun _ hc =>
      ⟨hc.1, hc.2.1, _, exec_launchTimeReached hp n hc.2.2, State.wfqAll_fair _ (State.setCopy_numbered s _ hn)⟩,
    fun h => ⟨_, exec_launchTimeReached hp n (find_none (fun _ => State.launchDue_iff) h), State.wfqAll_fair s hn⟩⟩

/-! ### RESIDENCE_DEADLINE (R242) -/

/-- A copy of port `n` that waits past its deadline. -/
def State.Overdue (s : State) (n : Nat) (c : Copy) : Prop := c.port = n ∧ c.st ≠ 1 ∧ c.deadline ≤ s.now

theorem State.overdue_iff {s : State} {n : Nat} {c : Copy} : (c.port == n && c.st != 1 && decide (c.deadline ≤ s.now)) = true ↔ s.Overdue n c := by
  unfold State.Overdue
  simp only [Bool.and_eq_true, beq_iff_eq, bne_iff_ne, decide_eq_true_eq, and_assoc]

/-- The state in which the port has abandoned a copy that it had suspended. -/
def State.abandons (s : State) (n : Nat) (c : Copy) : State := if c.st = 2 then (s.mibInc n 13).cutShort n else s

/-- The drop of a copy `c` of port `n` that waits past its deadline. -/
def State.overdueDrop (s : State) (n : Nat) (c : Copy) : State := (s.abandons n c).resDrop c

/-- What a port does with the copy that is overdue. -/
def State.expire (s : State) (n : Nat) : Option Copy → State
  | some c => s.overdueDrop n c
  | none => s

theorem exec_residenceDeadline {s : State} (hp : s.powered = true) (n : Fin 28) {o : Option Copy}
    (h : s.copies.find? (fun c => c.port == n.val && c.st != 1 && decide (c.deadline ≤ s.now)) = o) :
    exec (.residenceDeadline n) s = .next (s.expire n.val o).wfqAll := by
  refine (next_live s _ hp).trans (congrArg _ (congrArg State.wfqAll ?_))
  unfold State.residence
  rw [h]
  cases o with
  | none => rfl
  | some c => exact (apply_ite (fun u : State => u.resDrop c) (c.st = 2) _ _).symm

theorem State.abandons_on (s : State) (n : Nat) (c : Copy) (a : Nat) (f : Fld) : (s.abandons n c).on a f = s.on a f :=
  iteInduction (motive := fun u : State => u.on a f = s.on a f) (fun _ => congrArg (fun u => u.on a f) ((s.mibInc n 13).cutShort_same n)) fun _ => rfl

theorem State.abandons_keeps (s : State) (n : Nat) (c : Copy) : s.Keeps (s.abandons n c) :=
  State.Keeps.ite (State.cutShort_keeps (State.mibInc_keeps (State.Keeps.refl s) _ _) _) (State.Keeps.refl s)

theorem State.abandons_out {s : State} {n : Nat} {c : Copy} (hst : c.st = 2) (hlp : (s.port n).lpbk = 0) : Output.abandoned n ∈ (s.abandons n c).out := by
  have hcut : s.abandons n c = (s.mibInc n 13).emit (.abandoned n) := (if_pos hst).trans (if_pos hlp)
  rw [hcut]
  exact List.mem_cons_self

/-- R242: a drop that may not starve its class is reported. -/
theorem State.resDrop_pend {s : State} (hc : s.Canonical) {c : Copy} (h : s.on (SHP_RES.a c.port c.tc) SHP_RES.may_starve = false) :
    fldGet ((s.resDrop c).reg (EVT_SRC_STAT.a 45)) EVT_SRC_STAT.pend = 1 := by
  have hdrop : s.resDrop c = ((s.bump (SHP_CNT.a c.port 1) SHP_CNT.count).raise 45 3 c.port).copyDrop c := by
    unfold State.resDrop
    rw [h]
    rfl
  rw [hdrop, (State.copyDrop_departs _ c).2 _ (by decide) (by decide)]
  exact pend_raise _ _ _ _ ((State.bump_keeps (State.Keeps.refl s) _ _).canon hc)

theorem State.resDrop_gone (s : State) (c : Copy) : ∀ x ∈ (s.resDrop c).copies, x.id ≠ c.id := fun x hx => (port_copyDrop_sub _ c x hx).2

theorem State.overdueDrop_keeps (s : State) (n : Nat) (c : Copy) : (s.abandons n c).Keeps (s.overdueDrop n c) := State.resDrop_keeps (State.Keeps.refl _) c

theorem State.overdueDrop_out {s : State} {n : Nat} {c : Copy} (hst : c.st = 2) (hlp : (s.port n).lpbk = 0) : Output.abandoned n ∈ (s.overdueDrop n c).out :=
  (s.overdueDrop_keeps n c).out.subset (State.abandons_out hst hlp)

theorem State.overdueDrop_pend {s : State} (hc : s.Canonical) {n : Nat} {c : Copy} (hport : c.port = n) (h : s.on (SHP_RES.a n c.tc) SHP_RES.may_starve = false) :
    fldGet ((s.overdueDrop n c).reg (EVT_SRC_STAT.a 45)) EVT_SRC_STAT.pend = 1 := by
  subst hport
  exact State.resDrop_pend ((s.abandons_keeps c.port c).canon hc) ((State.abandons_on ..).trans h)

/-- What O32 says of residence limits. -/
theorem exec_residenceDeadline_facts {s : State} (hc : s.Canonical) (hn : s.Numbered) (hp : s.powered = true) (n : Fin 28) :
    ((∃ c ∈ s.copies, s.Overdue n.val c) → ∃ c ∈ s.copies, s.Overdue n.val c ∧ ∃ t : State, exec (.residenceDeadline n) s = .next t ∧ (∀ x ∈ t.copies, x.id ≠ c.id) ∧
      (c.st = 2 → (s.port n.val).lpbk = 0 → Output.abandoned n.val ∈ t.out) ∧
      (s.on (SHP_RES.a n.val c.tc) SHP_RES.may_starve = false → fldGet (t.reg (EVT_SRC_STAT.a 45)) EVT_SRC_STAT.pend = 1)) ∧
    ((∀ c ∈ s.copies, ¬s.Overdue n.val c) → ∃ t : State, exec (.residenceDeadline n) s = .next t ∧ s.Fair t) := by
  refine ⟨fun h => (exists_find (fun _ => State.overdue_iff) h).imp fun c hcd => ?_,
    fun h => ⟨_, exec_residenceDeadline hp n (find_none (fun _ => State.overdue_iff) h), State.wfqAll_fair s hn⟩⟩
  have hfair := State.wfqAll_fair _ (((s.abandons_keeps n.val c).trans (s.overdueDrop_keeps n.val c)).numbered hn)
  exact ⟨hcd.1, hcd.2.1, _, exec_residenceDeadline hp n hcd.2.2, copy_Fair_gone hfair c.id (State.resDrop_gone _ c),
    fun hst hlp => hfair.out ▸ State.overdueDrop_out hst hlp,
    fun hstarve => (congrArg (fun r => fldGet r EVT_SRC_STAT.pend) (hfair.reg _)).trans (State.overdueDrop_pend hc hcd.2.1.1 hstarve)⟩

/-! ### Egress -/

/-- Settles O32: the selection by what stands in its way and by the SA that it finds, the end of a transmission by what was sent, launch times
and residence limits by the copy that is due. -/
theorem egressSelectsSendsAndReleases : Obligations.EgressSelectsSendsAndReleases := by
  intro s n hc hn
  refine ⟨fun hmay edge corr => ?_, fun hp hbar edge corr bad saBad => (exec_egressSelect hp n edge corr bad saBad).trans
      (congrArg _ (State.egressSelect_barred hbar _ _ _ _)),
    fun hp => ⟨exec_frameTransmitted_idle hp, fun c d hsend => ⟨exec_frameTransmitted_gone hn hp hsend d, exec_frameTransmitted_sent hn hp hsend d hc⟩,
      exec_launchTimeReached_facts hn hp n, exec_residenceDeadline_facts hc hn hp n⟩⟩
  intro b w
  refine ⟨fun hs => exec_egressSelect_sending hmay edge hs corr, fun hu h bad saBad => (exec_egressSelect_next hmay edge hu.free corr bad saBad).trans
    (congrArg _ (State.selectNext_none hu h _ _ _)), fun c hu h => ?_⟩
  intro y z
  exact ⟨fun henc saBad => ⟨_, exec_egressSelect_next hmay edge hu.free corr none saBad,
      State.selectNext_plain ((s.atEdge_keeps n.val b).numbered hn) hu h henc (s.atEdge_keeps n.val b).now corr.val saBad.toNat⟩,
    fun saBad k henc hsa => ⟨_, (State.selectNext_secured ((s.atEdge_keeps n.val b).numbered hn) hu h ((s.atEdge_keeps n.val b).canon hc) henc corr.val hsa).imp fun x hx =>
      ⟨hx.1, exec_egressSelect_next hmay edge hu.free corr none saBad, hx.2⟩⟩,
    fun saBad henc hsa => ⟨_, exec_egressSelect_next hmay edge hu.free corr none saBad,
      State.selectNext_noSa ((s.atEdge_keeps n.val b).numbered hn) hu h henc corr.val hsa⟩,
    fun hlen saBad => ⟨_, exec_egressSelect_next hmay edge hu.free corr (some 0) saBad,
      State.selectNext_lost_facts ((s.atEdge_keeps n.val b).numbered hn) hu h ((s.atEdge_keeps n.val b).canon hc) hlen corr.val saBad.toNat⟩⟩

end Sys2Proof.Machine
end
